-- ==== Sys2Proof/Word.lean ====
section
/-! DEFINITION. The word and byte types of the model. -/

namespace Sys2Proof

/-- One byte of a memory. -/
abbrev Byte := BitVec 8

/-- One register word: every expert register access is 32 bits wide (R10). -/
abbrev Word := BitVec 32

end Sys2Proof
end

