-- ==== Sys2Proof/Syntax.lean ====
section
/-! DEFINITION. The commands of the block: one constructor per row of the opcode table, and the types of their
operands. An operand carries what the outside world decides: an index, a value written, a measurement, a message
received, the verdict of a unit the spec does not give. -/

namespace Sys2Proof

/-- The path an expert register access arrives on (R173, R175, R499): PCIe BAR2, a mailbox's REG_READ or REG_WRITE,
a control core, the partner, or format sequencer `a`. -/
inductive Path where
  | bar2
  | mbx (m : Fin 16)
  | core
  | partner
  | fseq (a : Fin 4)
deriving DecidableEq, Repr

/-- The area of a mailbox command as it arrives (R153): the header, the command data, and the external data that came
with it (Mailbox Send, or the buffer at DATA_PTR). -/
structure MbxCmd where
  opcode : BitVec 16
  flags : BitVec 8
  tag : BitVec 32
  len : BitVec 32
  dataLen : BitVec 32
  dataPtr : BitVec 64
  param : BitVec 64
  data : List Byte
  ext : List Byte
deriving DecidableEq, Repr

/-- The 256 bytes of the mechanism EEPROM that hold the descriptor (R18), as read. -/
abbrev DescBytes := List Byte

/-- What a read of a memory unit finds (R442, R447): nothing, a correctable error, or an uncorrectable one. -/
inductive EccRes where
  | ok | ce | ue
deriving DecidableEq, Repr

/-- An access of a requester of the Table cache, a control core or the page-map assist (R455, R456): a read of `n` bytes of one line,
or a write. -/
inductive TcAccess where
  | read (a : BitVec 39) (n : Nat)
  | write (a : BitVec 39) (data : List Byte)
deriving DecidableEq, Repr

/-! ### Data-plane records that messages carry -/

/-- A volume map entry (R403): its identity, which members of a lineage share; the journal sequences of the writes not
yet reduced, newest first; the stored record it names, or the older one that the writes lie over; UNINDEXED; FP_TAG.
A chunk without an entry is a zero reference. -/
structure MapEnt where
  eid : Nat
  seqs : List Nat
  rid : Option Nat
  unindexed : Bool
  tag : Nat
deriving DecidableEq, Repr

/-- A reduction policy (R339). -/
structure RedPolicy where
  dedup : Nat
  verify : Bool
  coder : Nat
  level : Nat
deriving DecidableEq, Repr

/-- A snapshot (R375): its number, generation, creation time, size and map, and the canal that made it, if any. -/
structure Snapshot where
  num : Nat
  gen : Nat
  time : Nat
  size : Nat
  map : List (Nat × MapEnt)
  canal : Option Nat
deriving DecidableEq, Repr

/-- A volume's reservation state (R333): registered hosts with their keys, holder, type, generation, persistence. -/
structure Resv where
  regs : List (List Byte × Nat)
  holder : Option (List Byte)
  rtype : Nat
  gen : Nat
  persist : Bool
deriving DecidableEq, Repr

/-- A volume (R368 to R375, R393): `kind` 0 normal, 1 clone, 2 replica; `hidden` the staged image of a transfer. -/
structure Volume where
  num : Nat
  group : Nat
  size : Nat
  fmt : Nat
  nguid : List Byte
  kind : Nat
  policy : RedPolicy
  access : List (List Byte)
  map : List (Nat × MapEnt)
  snaps : List Snapshot
  nextGen : Nat
  created : Nat
  srcHandle : Nat
  promoted : Bool
  hidden : List (Nat × MapEnt)
  applied : Nat
  commitGen : Nat
  hostWrites : Bool
  resv : Resv
deriving DecidableEq, Repr

/-- A snapshot-difference transfer (R393): base and new generation, the entries of the list, the next entry to move, the chunks
requested; at the target whether its SNAP_COMMIT has come; at the source the chunks that the dirty log took since its image. -/
structure Xfer where
  base : Nat
  new : Nat
  list : List (Nat × List Byte)
  pos : Nat
  need : List Nat
  commit : Bool
  late : List Nat
  lateAll : Bool
deriving DecidableEq, Repr

/-- A WRITE of a canal without its WRITE_ACK yet (R389): sequence, offset, length, data (none for a zero-write), and
whether it has been sent on the present connection. -/
structure CanalOut where
  seq : Nat
  off : Nat
  len : Nat
  data : List Byte
  sent : Bool
deriving DecidableEq, Repr

/-- One end of a canal (R383 to R396): `state` 0 OPENING, 1 OPEN, 2 DEGRADED, 3 DOWN, 4 DIVERGED, 5 CLOSED; `setup` the
step of R384 that runs (0 disconnected, 7 open); `seq` the last sequence given out or applied; `dirtyAll` the whole volume
is dirty; `resync` it reopens under RESYNC_FROM_SOURCE; `mbx` the CANAL_OPEN that waits; `out` the WRITEs in flight; `ask` the
SPDM request that the peer has not answered; `sess` a target end's session; `msgs` the secured messages sent since the last
KEY_UPDATE. -/
structure Canal where
  id : Nat
  source : Bool
  vol : Nat
  handle : Nat
  sync : Bool
  fallback : Bool
  tmo : Nat
  reattest : Nat
  period : Nat
  state : Nat
  setup : Nat
  node : Nat
  seq : Nat
  acked : Nat
  gen : Nat
  dirty : List Nat
  dirtyAll : Bool
  xfer : Option Xfer
  formats : Nat
  everOpen : Bool
  resync : Bool
  mbx : Option Nat
  out : List CanalOut
  ask : Option Nat
  sess : Option Nat
  msgs : Nat
deriving DecidableEq, Repr

/-- A HELLO as it arrives (R386): `refused` stands for the target's refusal of the named replica, `hostWrites` and
`promoted` for what it reports of writes since the last common point (R396), `resume` for its transfer point (R394),
`session` for the SPDM session that carries it to a target (R384). -/
structure Hello where
  node : Nat
  srcHandle : Nat
  repHandle : Nat
  sync : Bool
  formats : Nat
  lastSeq : Nat
  lastGen : Nat
  resume : Nat
  hostWrites : Bool
  promoted : Bool
  refused : Bool
  session : Nat
deriving DecidableEq, Repr

/-- A reduction record (R349): the chunk, the journal sequence reduced (none for a large write), the new stored record
or a zero reference, the index change. -/
structure RedRec where
  group : Nat
  vol : Nat
  chunk : Nat
  seq : Option Nat
  rid : Option Nat
  unindexed : Bool
  tag : Nat
deriving DecidableEq, Repr

/-- What a mirror entry of the partner carries (R374, R453): a host write, or a record of the group's metadata. -/
inductive MirrorBody where
  | write (vol offset : Nat) (data : List Byte) (canalSeq : Nat)
  | volume (v : Volume)
  | volumeGone (num : Nat)
  | canal (c : Canal)
  | reduction (r : RedRec)
deriving DecidableEq, Repr

/-- A host command as it is forwarded between the devices (R309, R534): 1 write, 2 read, 8 write zeroes, 9 deallocate,
12 verify, 13, 17, 21 reservation register, acquire, release (the NVMe opcodes), on a volume range; the Host Identifier
behind it, and the action, keys, type and IEKEY of a reservation command. -/
structure FwdCmd where
  op : Nat
  vol : Nat
  off : Nat
  len : Nat
  data : List Byte
  host : List Byte
  args : List Nat
deriving DecidableEq, Repr

/-- A request of the partner (R534): a host command, a read of a flash page by its address or of a band of an actuator (R404), or a
mailbox command (R373). -/
inductive FwdReqBody where
  | host (c : FwdCmd)
  | flash (page : Nat)
  | disk (act band : Nat)
  | mbx (c : MbxCmd)
deriving DecidableEq, Repr

/-- An NVMe command as it reaches the device: on a fabric controller the capsule; on the PCIe controller the command
dwords and PRP1 come from the queue entry fetched, and `data` and `xferOk` are the outcome of its data transfer. -/
structure NvmeCmd where
  ctrl : Nat
  sq : Nat
  cid : BitVec 16
  nsid : BitVec 32
  dw10 : BitVec 32
  dw11 : BitVec 32
  dw12 : BitVec 32
  dw13 : BitVec 32
  dw14 : BitVec 32
  dw15 : BitVec 32
  prp1 : Nat
  data : List Byte
  xferOk : Bool
deriving DecidableEq, Repr

/-- What a flash page program wrote (R407, R413): the staging page of a group, the journal pages of an entry, a page of
a racking move (its number and the LFP), or the parity page of a row. -/
inductive Prog where
  | stage (g : Fin 2)
  | journal (g : Fin 2) (seq : BitVec 32)
  | move (id lfp : Nat)
  | parity
deriving DecidableEq, Repr

/-- What a chunk reduction starts from (R340): a chunk of a small write's journal entry, or a chunk of a large write. -/
inductive RedSrc where
  | entry (g : Fin 2) (seq : BitVec 32) (chunk : Nat)
  | job (id : Nat)
deriving DecidableEq, Repr

/-- What a head channel has of a sector up to the end of its SM2 window (R190, R191, R203): for each handshake cycle of the preamble
the peak and the mean of the samples in ADC codes, for each preamble bit its phase in 2^-32 bit against the nominal rate of the
oscillator, and the detected bits about SM1 and SM2 with the place of the first of them from the mark's expected position. -/
structure SectorHead where
  cycles : List (Int × Int)
  phases : List Int
  sm1 : Int × List Bool
  sm2 : Int × List Bool
deriving DecidableEq, Repr

/-- What a head channel has of the part of a sector between two servo wedges (R191, R197, R203): the phases of the resume preamble's bits,
the detected bits about RESUME_MARK, for each handshake cycle its place in the sector, peak and mean, and for each data bit the
interpolated sample and the bit's phase. -/
structure SectorPart where
  resume : List Int
  mark : Int × List Bool
  cycles : List (Nat × Int × Int)
  bits : List (Int × Int)
deriving DecidableEq, Repr

/-- What a head's demodulator has found of a wedge (R229 to R231): the SAM's distance from its expected time in servo bits,
the WID and TID bits, and for each of the four stripe groups the times of its four crossings from SAM, in fs. -/
structure Wedge where
  sam : Option Int
  wid : BitVec 16
  tid : BitVec 48
  groups : List (List (Option Nat))
deriving DecidableEq, Repr

/-- One carrier period (R270, R281, R283): its measured length in ps, the two shunt samples and the motor model's values
for them in mA, cosine and sine in Q2.30 of the electrical angle and of that angle advanced by 1.5 periods, the encoder's
reading (angle, amplitudes of main track and vernier in 1/1000 of their calibrated values, their disagreement in 1/1000 of a
main period), an overcurrent on ENC_PWR, the observer's angle, the wedge whose SAM the reference head has passed, and the
coil currents of the four VCM bridges in mA. -/
structure Carrier where
  period : Nat
  i1 : Int
  i2 : Int
  m1 : Int
  m2 : Int
  cosE : Int
  sinE : Int
  cosA : Int
  sinA : Int
  enc : Option (Nat × Nat × Nat × Nat)
  encOver : Bool
  obs : Option Nat
  wedge : Option Nat
  coils : List Int
deriving DecidableEq, Repr

/-! ### What lies on flash and disk -/

/-- A block of a die (R412 to R414): `state` 0 BAD, 1 FREE, 2 ERASED, 3 OPEN, 4 CLOSED, 5 VICTIM, 6 RETAINED,
7 RETIRED; pages programmed, erases, reads since erase, whether it serves the journal, its last program time,
whether a refresh is scheduled (R416), and the number of the set of blocks that it forms rows with (R413). -/
structure Blk where
  ch : Nat
  die : Nat
  blk : Nat
  state : Nat
  next : Nat
  erases : Nat
  reads : Nat
  journal : Bool
  time : Nat
  refresh : Bool
  set : Nat
deriving DecidableEq, Repr

/-- What a die reports at the training of its channel (R405, R406): its data and spare bytes per page, pages per block, blocks counting
every plane, interface (true: Toggle), rate grade, and the highest rate in MT/s at which it passes, 0 for none. -/
structure DieReport where
  die : Fin 16
  data : Nat
  spare : Nat
  pages : Nat
  blocks : Nat
  toggle : Bool
  rate : Nat
  best : Nat
deriving DecidableEq, Repr

/-- A channel's lasting facts (R405, R411, R415): geometry (pages per block, blocks per die), spare pool left and at
first Bring-up, blocks retired beyond it, the qualification table in use and the one loaded (R416), and the dies that are retired
(2) or failed (4). -/
structure ChanNv where
  present : Nat
  pages : Nat
  blocks : Nat
  good : Nat
  spare : Nat
  spare0 : Nat
  lost : Nat
  retiredBlks : Nat
  table : List Byte
  tableNew : List Byte
  dead : List (Nat × Nat)
deriving DecidableEq, Repr

/-- A record-table entry (R402), with its group, RID and the time of its page. -/
structure RecEnt where
  group : Nat
  rid : Nat
  loc : Nat
  refs : Nat
  len16 : Nat
  state : Nat
  heat : Nat
  time : Nat
deriving DecidableEq, Repr

/-- A fingerprint index entry, DURABLE (R342). -/
structure IdxEnt where
  group : Nat
  fp : List Byte
  rid : Nat
deriving DecidableEq, Repr

/-- A deferred log entry (R346). -/
structure DefEnt where
  group : Nat
  fp : List Byte
  rid : Nat
  vol : Nat
  chunk : Nat
deriving DecidableEq, Repr

/-- A run map entry (R418), with consecutive failed writes (R420). -/
structure RunEnt where
  act : Nat
  band : Nat
  state : Nat
  flags : Nat
  tag : Nat
  k0 : Nat
  n : Nat
  mask : Nat
  live16 : Nat
  data16 : Nat
  time : Nat
  fails : Nat
deriving DecidableEq, Repr

/-- What the partner has left on flash and disk of a token that comes to this device, as this device reads it (R42, R101,
R404, R408): facts of channels, blocks, page map entries (group, LFP, page), stored records, index entries, deferred
entries, run map entries; of each group that comes its number, LFP count, the next LFP, RID and journal sequence, and its
last reduction record; the group's volumes and canals; the bytes of pages and runs (address, bytes); and the entries of the partner's
flash journal pages (R453: group, sequence, content). -/
structure FlashMeta where
  chans : List (Nat × ChanNv)
  blks : List Blk
  pmap : List (Nat × Nat × Nat)
  recs : List RecEnt
  idx : List IdxEnt
  defer : List DefEnt
  runs : List RunEnt
  next : List (Nat × Nat × Nat × Nat × Nat × Nat)
  vols : List Volume
  canals : List Canal
  bytes : List (Nat × List Byte)
  jpages : List (Nat × BitVec 32 × MirrorBody)
deriving DecidableEq, Repr

/-- A message of a Nalyn flit whose content has no row of its own: the partner's parameters of a head (R225), a report of
the band that an actuator's heads are on, none when they are parked (R290), whether the partner runs its own speed loop (R48). -/
inductive NalMsg where
  | params (h : Nat) (l : List (Nat × BitVec 32))
  | band (a : Nat) (b : Option Nat)
  | torqueLocal (b : Bool)
deriving DecidableEq, Repr

/-- What a register write meets beside the device's state (log entry 3): the access to an island that is in progress when its gate
is requested, whether that handshake goes idle in the same cycle as a FORCE, the speed at which an air mover turns backward, and
what the host has written into its memory. -/
structure RegEnv where
  busy : Option (Path × BitVec 24)
  idle : Bool
  back : BitVec 16
  host : List Host.Cell
deriving DecidableEq, Repr

/-- The commands of the block: one constructor per row of the opcode table, in the table's order (log entry 3 says what each operand stands for). -/
inductive Instr where
  /-- RESET_N_ASSERT (R88): RESET_N asserts and the device goes to Reset with its outputs forced safe. -/
  | resetNAssert
  /-- RESET_N_DEASSERT (R130): RESET_N deasserts with VSYS above power-on release, and the Supervisor ROM starts the boot chain. -/
  | resetNDeassert (pullUp pullDown pcieEn : Bool) (fabProf : Fin 8) (miAddr : Fin 4) (testN : Bool)
  /-- VSYS_POWER_ON_RELEASE (R79): VSYS has stayed above the power-on release threshold for 1 ms, so reset may end. -/
  | vsysPowerOnRelease
  /-- VSYS_BELOW_RATED (R79): VSYS crosses the rated-bandwidth threshold, which sets PWR_VSYS_BELOW_RATED and the input current cap. -/
  | vsysBelowRated (below : Bool) (mv : BitVec 16)
  /-- VSYS_POWER_FAIL (R99): VSYS falls below the power-fail threshold and the hold-up sequence starts. -/
  | vsysPowerFail (mv : BitVec 16)
  /-- HOLDUP_END (R99): The hold-up completes its last step and the device enters Reset. -/
  | holdupEnd
  /-- VSYS_OVERVOLTAGE (R79): VSYS rises above the overvoltage threshold, which starts the forced-safe reaction and entry to Safe. -/
  | vsysOvervoltage (mv : BitVec 16)
  /-- VMOT_START_PERMITTED (R82): VMOT has stayed between the start threshold and 15.5 V for 100 ms, so spindle start and wake are permitted. -/
  | vmotStartPermitted (mv : BitVec 16)
  /-- VMOT_UNDERVOLTAGE (R82): VMOT falls below the undervoltage threshold; the spindle coasts, the VCMs retract and the device enters Fallow. -/
  | vmotUndervoltage (mv : BitVec 16)
  /-- VMOT_OVERVOLTAGE (R82): VMOT rises above the overvoltage threshold; the spindle bridges coast and the write gates go off. -/
  | vmotOvervoltage (mv : BitVec 16)
  /-- VMOT_OV_FALLOW_TIMEOUT (R82): VMOT has stayed above 15.5 V for 100 ms after an overvoltage, so the device enters Fallow. -/
  | vmotOvFallowTimeout
  /-- VMOT_OV_RETURN (R82): VMOT returns to 15.5 V or less within 100 ms of an overvoltage, so the device stays out of Fallow and disk commands wait. -/
  | vmotOvReturn (mv : BitVec 16)
  /-- PWR_DOM_REQ_WRITE (R84): A write to PWR_DOM_REQ_ON requests a power-up or power-down, or is refused for a required domain. -/
  | pwrDomReqWrite (p : Path) (d : Fin 17) (w : BitVec 32)
  /-- DOMAIN_DRAIN_DONE (R85): The last in-flight transfer of a draining domain finishes and the domain powers down. -/
  | domainDrainDone (d : Fin 17)
  /-- PWR_DRAIN_LIMIT_EXPIRY (R85): PWR_DRAIN_LIMIT expires; the remaining transfers halt with 0x0110 and the domain powers down. -/
  | pwrDrainLimitExpiry (d : Fin 17)
  /-- DOMAIN_POWER_UP_DONE (R530): A domain completes its power-up, reads on, and its loads, fills and trainings begin. -/
  | domainPowerUpDone (d : Fin 17) (offline : BitVec 80)
  /-- MODE_SET_BRINGUP (R165): MODE_SET with target BRINGUP moves the device from Dormant into Bring-up. -/
  | modeSetBringup (m : Fin 16)
  /-- MODE_SET_SOLO (R88): MODE_SET with target SOLO moves a Bring-up device into Solo. -/
  | modeSetSolo (m : Fin 16)
  /-- MODE_SET_FALLOW (R94): MODE_SET with target FALLOW unloads the heads and spins the spindle down. -/
  | modeSetFallow (m : Fin 16) (partnerTakes : Bool)
  /-- MODE_SET_WAKE (R96): MODE_SET with target WAKE starts a wake from Fallow. -/
  | modeSetWake (m : Fin 16) (partnerTakes : Bool)
  /-- MODE_SET_DRAIN (R97): MODE_SET with target DRAIN names the canal peers and starts evacuation. -/
  | modeSetDrain (m : Fin 16) (partnerTakes : Bool)
  /-- MODE_SET_DRAIN_CANCEL (R398): MODE_SET with target DRAIN_CANCEL stops evacuation and returns the device to its prior mode. -/
  | modeSetDrainCancel (m : Fin 16) (partnerTakes : Bool)
  /-- MODE_SET_DORMANT (R88): MODE_SET with target DORMANT moves the device into Dormant. -/
  | modeSetDormant (m : Fin 16)
  /-- PAIR_MODE_REQUEST_RECEIVED (R89): A mode request forwarded by the partner over the Nalyn link is received, and the pair changes mode together. -/
  | pairModeRequestReceived (target : Fin 8) (peers : List Nat)
  /-- SAFE_RELEASE (R489): SAFE_RELEASE resets domains 1 to 15 and moves the device from Safe into Dormant, unless a reaction is still busy. -/
  | safeRelease (m : Fin 16)
  /-- SOLO_START_WAIT_EXPIRY (R88): PWR_SOLO_START_WAIT expires in Bring-up without any valid heartbeat frame, so the device enters Solo. -/
  | soloStartWaitExpiry
  /-- IDLE_FALLOW_EXPIRY (R88): PWR_IDLE_FALLOW expires without disk-tier work, so the device enters Fallow. -/
  | idleFallowExpiry
  /-- FALLOW_ENTRY_DONE (R94): The heads are unloaded, the device enters Fallow, powers down domains 2 to 6 and brakes the spindle. -/
  | fallowEntryDone
  /-- WAKE_DISK_READS_ADMITTED (R96): During a wake, disk reads are admitted and the device returns to PWR_MODE_PRIOR. -/
  | wakeDiskReadsAdmitted (tempWithin5 : Bool)
  /-- WAKE_CALIBRATION_DONE (R96): The full calibration of a wake completes and disk writes are admitted. -/
  | wakeCalibrationDone
  /-- DRAIN_EVACUATION_COMPLETE (R97): The last volume has moved, so the heads unload, the spindle stops and the device enters Dormant and reports DRAIN_DONE. -/
  | drainEvacuationComplete
  /-- BOOT_SUPERVISOR_VERIFIED (R130): The chosen Supervisor firmware slot has been read and verified and measurement index 2 is recorded. -/
  | bootSupervisorVerified
  /-- BOOT_DORMANT_ENTERED (R130): The alias key and certificate are ready, and the device enters Dormant with the sideband and SPDM live. -/
  | bootDormantEntered
  /-- BOOT_CONTROL_VERIFIED (R130): CTL is powered, the control bundle slot is chosen and verified, and measurement index 3 is recorded. -/
  | bootControlVerified
  /-- BOOT_PATCHES_VERIFIED (R130): Every patch of the booted bundle has been unwrapped and verified, and measurement index 4 is recorded. -/
  | bootPatchesVerified
  /-- DRAM_TRAINING_DONE (R448): DRAM training completes, or fails and enters Safe with 0x0819. -/
  | dramTrainingDone (ok : Bool) (rate : BitVec 13) (cap : BitVec 10) (channels : BitVec 4)
  /-- DESCRIPTOR_READ_DONE (R18): The mechanism descriptor has been read over the mechanism SMBus and is validated. -/
  | descriptorReadDone (bytes : DescBytes)
  /-- DESCRIPTOR_CHECK_RECEIVED (R20): The partner's descriptor CHECK arrives and is compared with this device's own. -/
  | descriptorCheckReceived (check : BitVec 32) (valid : Bool)
  /-- NAL_TRAIN_DONE (R54): Nalyn link training completes at the widest available width. -/
  | nalTrainDone (lanes : BitVec 16) (pos : Bool) (brick : BitVec 17) (recs : List (Nat × Bool × BitVec 16))
  /-- FENCE_TEST_PULSE_END (R38): The 10 us fence test assertion ends. -/
  | fenceTestPulseEnd
  /-- FENCE_TEST_REPORT_RECEIVED (R38): The partner's report on whether it saw a fence test assertion arrives. -/
  | fenceTestReportReceived (failed ended saw : Bool)
  /-- FENCE_TEST_REPORT_TIMEOUT (R38): No report arrives within 10 ms of a fence test assertion, so that direction fails with 0x0A16. -/
  | fenceTestReportTimeout
  /-- PARTNER_ATTESTATION_RESULT (R142): The result of the partner's measurement check arrives over the Nalyn link. -/
  | partnerAttestationResult (ok : Bool) (code : BitVec 16)
  /-- PARTNER_ATTESTATION_TIMEOUT (R142): A partner check request or result does not arrive within 100 ms, which counts as a failure. -/
  | partnerAttestationTimeout
  /-- VAT_REPLAY_DONE (R91): The device's own flash channels are acquired and its own Vat journal is replayed. -/
  | vatReplayDone
  /-- MAPS_LOADED (R91): The page map, volume map and fingerprint index checkpoints have loaded. -/
  | mapsLoaded (lfps : List Nat) (partnerGib : Nat) (base0 base1 : BitVec 64)
  /-- FULL_CALIBRATION_DONE (R91): Full servo and channel calibration completes and disk writes are admitted. -/
  | fullCalibrationDone
  /-- PARTNER_STEP_REPORT (R88): The partner reports that it has reached step 13 or Full. -/
  | partnerStepReport (step : Fin 14) (pmode : Fin 8)
  /-- BRINGUP_COMPLETE (R91): Bring-up completes and the device enters Full or Solo. -/
  | bringupComplete
  /-- HB_FRAME_TIMER (R33): Every 25 us the Supervisor sends a heartbeat frame with the present STATE. -/
  | hbFrameTimer
  /-- HB_FRAME_RECEIVED (R34): A heartbeat frame is received and checked, and a FAILED frame declares heartbeat loss. -/
  | hbFrameReceived (w : BitVec 16)
  /-- HB_LOSS_TIMEOUT (R35): 200 us pass with no valid frame, so heartbeat loss is declared. -/
  | hbLossTimeout
  /-- NAL_HB_MESSAGE_RECEIVED (R46): A heartbeat frame carried as a Nalyn control message arrives. -/
  | nalHbMessageReceived (w : BitVec 16)
  /-- FENCE_IN_ASSERT (R36): PAIR_FENCE_IN_N asserts and the device takes the fence reaction. -/
  | fenceInAssert (level : Bool)
  /-- NAL_PING_RECEIVED (R39): A PING from the partner arrives and is answered. -/
  | nalPingReceived
  /-- PING_REPLY_RECEIVED (R39): A reply to PING arrives, which ends the takeover and logs a heartbeat fault. -/
  | pingReplyReceived
  /-- TAKEOVER_PING_TIMEOUT (R39): No PING reply arrives within 50 us, so the takeover proceeds and device 0 asserts its fence. -/
  | takeoverPingTimeout
  /-- TAKEOVER_FENCE_HOLDOFF_EXPIRY (R39): The 500 us hold-off of device 1 ends, and it asserts its fence unless it has been fenced. -/
  | takeoverFenceHoldoffExpiry
  /-- TAKEOVER_ARBITRATION_END (R39): The fence has been held for 25 us without being fenced back, so the survivor wins arbitration. -/
  | takeoverArbitrationEnd
  /-- TAKEOVER_CHANNELS_ACQUIRED (R408): The partner's flash channels are acquired, busy dies are reset and open blocks are closed. -/
  | takeoverChannelsAcquired (left : FlashMeta) (busy : List Nat) (erasing : List (Nat × Nat × Nat))
  /-- ACTUATOR_CATCH_DONE (R290): The catch of a partner actuator completes when its settle condition is met. -/
  | actuatorCatchDone (a : Fin 4)
  /-- ACTUATOR_CATCH_TIMEOUT (R290): A catch is not complete within 50 ms, so the actuator is retracted through its backup coil with 0x033C. -/
  | actuatorCatchTimeout (a : Fin 4)
  /-- TAKEOVER_REPLAY_DONE (R42): The partner's Vat mirror is replayed and its maps rebuilt, and its groups report ANA Optimized. -/
  | takeoverReplayDone (left : FlashMeta)
  /-- TOKEN_RELEASE_START (R31): The old owner has quiesced a resource, writes RELEASING and sends RELEASE. -/
  | tokenReleaseStart (t : Fin 64)
  /-- TOKEN_RELEASE_RECEIVED (R31): A RELEASE arrives and the receiver either commits and sends TAKE_ACK or records REFUSED and sends REFUSE. -/
  | tokenReleaseReceived (t : Fin 64) (e : BitVec 16) (left : FlashMeta)
  /-- TAKE_ACK_RECEIVED (R31): A TAKE_ACK arrives and the old owner writes PARTNER at the new epoch. -/
  | takeAckReceived (t : Fin 64) (e : BitVec 16)
  /-- REFUSE_RECEIVED (R31): A REFUSE arrives and the old owner takes the token back at the next epoch. -/
  | refuseReceived (t : Fin 64) (e : BitVec 16)
  /-- TOKEN_QUERY_TIMER (R31): A RELEASING token has had no reply for 10 ms, so the old owner sends QUERY. -/
  | tokenQueryTimer (t : Fin 64)
  /-- TOKEN_QUERY_RECEIVED (R31): A QUERY arrives and is answered with TAKE_ACK, or with REFUSE after REFUSED is recorded. -/
  | tokenQueryReceived (t : Fin 64) (e : BitVec 16)
  /-- SPEED_LOOP_SAMPLE (R271): Every 125 us the speed loop samples and computes the torque demand. -/
  | speedLoopSample
  /-- TORQUE_RECEIVED (R47): A TORQUE message arrives, and its command is applied at the next current-loop update unless it is stale. -/
  | torqueReceived (n cmd : BitVec 16)
  /-- HANDOVER (R51): The HANDOVER command starts a handover, or is refused with 0x0A12, 0x0A13 or 0x0A17. -/
  | handover (m : Fin 16)
  /-- HANDOVER_DRAIN_DONE (R50): The in-flight commands of the handing-over groups have drained, so the group tokens can transfer. -/
  | handoverDrainDone
  /-- COIL_BLEND_START (R289): After the actuator's current band completes, the releasing device starts the coil blend to the receiver's backup coil. -/
  | coilBlendStart (a : Fin 4)
  /-- VCM_CURRENT_CMD_RECEIVED (R289): A class 0 current command from the releasing device arrives and the backup bridge applies it. -/
  | vcmCurrentCmdReceived (a : Fin 4) (cmd : BitVec 16) (sect : List (List Int))
  /-- COIL_BLEND_RAMP_END (R289): The 2 ms ramp of the releasing coil ends and RELEASE is sent. -/
  | coilBlendRampEnd (a : Fin 4)
  /-- BACKUP_BRIDGE_TIMEOUT (R289): The backup bridge has had neither a command nor a commit for 200 us, so it starts an emergency retract. -/
  | backupBridgeTimeout (a : Fin 4)
  /-- NAL_FLIT_RECEIVED (R52): A Nalyn flit is received and checked, and its messages are delivered by class. -/
  | nalFlitReceived (flit : List Byte) (failed : Bool) (msgs : List NalMsg)
  /-- NAL_ACK_TIMEOUT (R54): No flit has been acknowledged for 100 us, so the link is declared down. -/
  | nalAckTimeout
  /-- NAL_LANE_FAIL (R54): A lane fails and the link retrains to the next width. -/
  | nalLaneFail (lane : Fin 16)
  /-- NAL_RETRAIN_TIMER (R54): While the link is down, the device retrains it every 10 ms. -/
  | nalRetrainTimer
  /-- PERST_ASSERT (R75): PERST_N asserts and the PCIe island is held in reset. -/
  | perstAssert
  /-- PERST_DEASSERT (R75): PERST_N deasserts and the PCIe island leaves reset. -/
  | perstDeassert
  /-- PCIE_FLR (R324): A function-level reset frees the PCIe queues and resets mailboxes 5 to 8. -/
  | pcieFlr
  /-- CC_EN_CLEAR (R324): CC.EN is cleared on the PCIe controller, which resets its queues. -/
  | ccEnClear
  /-- MSIX_UNMASK (R531): A mask is cleared and a pending MSI-X message is sent. -/
  | msixUnmask (enable fnMask : Bool) (masked : List Nat)
  /-- GOVERNOR_RUN (R106): Every 10 us the pace governor adjusts VCORE, OSR and preamplifier admission. -/
  | governorRun (pace vcore vsys vmot : BitVec 16) (capHolds : Bool) (capPas : Fin 17)
  /-- PREAMP_READMIT_TIMER (R107): Pace has held at 1.05 times the requirement for 1 s, so a removed preamplifier is re-admitted. -/
  | preampReadmitTimer (p : Fin 16)
  /-- SAMPLE_BUFFER_OVERRUN (R109): A head channel's sample buffer overflows; the sector is abandoned, 0x0125 is logged and a re-read is scheduled. -/
  | sampleBufferOverrun (h : Fin 144) (fill : Nat)
  /-- CLK_PLL_CFG_WRITE (R111): A write to CLK_PLL_CFG is stored and applied at the next ungate, power-up, or write-gate-off. -/
  | clkPllCfgWrite (p : Path) (isl : Fin 10) (w : BitVec 32)
  /-- PLL_LOCK (R123): A PLL locks or relocks and CLK_LOCKED becomes 1. -/
  | pllLock (isl : Fin 13)
  /-- CLK_GATE_REQ_SET (R114): Writing CLK_GATE_REQ = 1 gates the island, makes the gate pending, or is refused. -/
  | clkGateReqSet (p : Path) (idx : Fin 13) (busy : Option (Path × BitVec 24))
  /-- CLK_GATE_REQ_CLEAR (R116): Writing CLK_GATE_REQ = 0 cancels a pending gate or ungates the island. -/
  | clkGateReqClear (p : Path) (idx : Fin 13)
  /-- CLK_GATE_IDLE (R114): The handshake of a pending gate goes idle; the island gates and its waiting accesses get 0x0120. -/
  | clkGateIdle (idx : Fin 13)
  /-- CLK_GATE_FORCE (R115): Writing CLK_GATE_FORCE ends a pending access with 0x0121 and gates the island. -/
  | clkGateForce (p : Path) (idx : Fin 13) (idle : Bool)
  /-- CLK_SAFE_RELEASE (R123): Writing CLK_SAFE_RELEASE releases an island's outputs, or is refused while the PLL is unlocked. -/
  | clkSafeRelease (p : Path) (idx : Fin 13)
  /-- CLK_PACE_LOW_RST (R103): Writing CLK_PACE_LOW_RST loads CLK_PACE_LOW with CLK_PACE_NOW. -/
  | clkPaceLowRst (p : Path)
  /-- CLK_SSC_WRITE (R117): A write to a spread-spectrum setting takes effect at the next modulation period. -/
  | clkSscWrite (p : Path) (pactl : Bool) (w : BitVec 32)
  /-- REF_EDGE_TIMEOUT (R120): No edge of a reference arrives for 200 ns, so the reference is declared lost. -/
  | refEdgeTimeout (r : Fin 4)
  /-- REF_FREQ_MISMATCH (R120): A 1 ms frequency measurement finds a reference out of tolerance, so it is declared lost. -/
  | refFreqMismatch (backup : Int) (pcie : Int) (fab : Int) (nal : Int)
  /-- REF_RETURN (R123): A lost reference returns and its PLL starts to relock. -/
  | refReturn (r : Fin 4)
  /-- REF_GOOD_100MS (R123): A returned reference has stayed good for 100 ms, so firmware releases the island. -/
  | refGood100ms (r : Fin 4)
  /-- SYS_REFCLK_LOSS_10MS (R122): SYS_REFCLK has stayed lost for 10 ms; the heartbeat sends FAILED and Nalyn transmit goes idle. -/
  | sysRefclkLoss10ms
  /-- FAB_REFCLK_LOSS_1S (R121): FAB_REFCLK has stayed lost for 1 s, so firmware transfers the volume-group tokens to the partner. -/
  | fabRefclkLoss1s
  /-- TS_IN_PULSE (R112): A pulse-per-second arrives on TS_IN, and firmware disciplines the TIME island to it. -/
  | tsInPulse
  /-- CLK_GATE (R124): The CLK_GATE command with bit 8 = 1 gates an island, forcing or cancelling the gate at LIMIT. -/
  | clkGate (m : Fin 16) (busy : Option (Path × BitVec 24))
  /-- CLK_UNGATE (R124): The CLK_GATE command with bit 8 = 0 ungates an island. -/
  | clkUngate (m : Fin 16)
  /-- CLK_GATE_LIMIT_EXPIRY (R124): A CLK_GATE command's gate is still pending at LIMIT, so it forces or cancels the gate. -/
  | clkGateLimitExpiry (m : Fin 16) (idle : Bool)
  /-- CLK_RELEASE (R124): The CLK_RELEASE command writes CLK_SAFE_RELEASE for an island. -/
  | clkRelease (m : Fin 16)
  /-- CLK_STATUS (R124): The CLK_STATUS command returns the pace, VCORE, governor, reference and island status. -/
  | clkStatus (m : Fin 16)
  /-- FW_STAGE (R144): An FW_STAGE chunk writes part of an image into the inactive slot, and the last chunk verifies it. -/
  | fwStage (m : Fin 16)
  /-- FW_STAGE_IDLE_TIMEOUT (R144): The owning requester sends no chunk for 10 s, so the staging ends and the slot stays invalid. -/
  | fwStageIdleTimeout (k : Fin 2)
  /-- FW_ACTIVATE (R144): FW_ACTIVATE sets the trial flag of a valid inactive slot. -/
  | fwActivate (m : Fin 16) (partnerReady : Bool)
  /-- FW_CONFIRM (R134): FW_CONFIRM makes the trial slot active. -/
  | fwConfirm (m : Fin 16)
  /-- FW_ACCEPT_ADD (R143): FW_ACCEPT_ADD adds a measurement to the accepted image list. -/
  | fwAcceptAdd (m : Fin 16)
  /-- FW_ACCEPT_REMOVE (R143): FW_ACCEPT_REMOVE removes an added measurement from the accepted image list. -/
  | fwAcceptRemove (m : Fin 16)
  /-- FW_COMMIT_SVN (R146): FW_COMMIT_SVN raises the fused SVN minimums to the running confirmed images. -/
  | fwCommitSvn (m : Fin 16) (partnerTrial : Bool)
  /-- SPDM_GET_VERSION (R140): An SPDM GET_VERSION request is answered. -/
  | spdmGetVersion (p : Fin 4) (busy : Bool)
  /-- SPDM_GET_CAPABILITIES (R140): An SPDM GET_CAPABILITIES request is answered. -/
  | spdmGetCapabilities (p : Fin 4) (busy : Bool) (version : BitVec 8) (dts : Nat)
  /-- SPDM_NEGOTIATE_ALGORITHMS (R140): An SPDM NEGOTIATE_ALGORITHMS request is answered. -/
  | spdmNegotiateAlgorithms (p : Fin 4) (busy p384 sha secp aes : Bool)
  /-- SPDM_GET_DIGESTS (R140): An SPDM GET_DIGESTS request is answered. -/
  | spdmGetDigests (p : Fin 4) (busy : Bool)
  /-- SPDM_GET_CERTIFICATE (R136): An SPDM GET_CERTIFICATE request returns the slot 0 chain. -/
  | spdmGetCertificate (p : Fin 4) (busy : Bool) (slot : Fin 8) (off len : Nat)
  /-- SPDM_CHALLENGE (R140): An SPDM CHALLENGE is answered with a CHALLENGE_AUTH signed by the alias key. -/
  | spdmChallenge (p : Fin 4) (busy : Bool) (slot : Fin 8) (nonce : List Byte)
  /-- SPDM_GET_MEASUREMENTS (R138): An SPDM GET_MEASUREMENTS request returns the measurement blocks, signed when requested. -/
  | spdmGetMeasurements (p : Fin 4) (busy : Bool) (idx : BitVec 8) (nonce : List Byte)
  /-- SPDM_KEY_EXCHANGE (R141): An SPDM KEY_EXCHANGE is accepted or refused by its purpose and transport. -/
  | spdmKeyExchange (p : Fin 4) (busy : Bool) (purpose : BitVec 8)
  /-- SPDM_FINISH (R140): An SPDM FINISH completes the session handshake. -/
  | spdmFinish (p : Fin 4) (busy : Bool) (sid : Nat) (root : List Byte) (p384 sigOk : Bool)
  /-- SPDM_HEARTBEAT (R140): An SPDM HEARTBEAT keeps a session alive. -/
  | spdmHeartbeat (p : Fin 4) (busy : Bool) (sid : Nat)
  /-- SPDM_KEY_UPDATE (R140): An SPDM KEY_UPDATE updates the session keys. -/
  | spdmKeyUpdate (p : Fin 4) (busy : Bool) (sid : Nat) (op tag : BitVec 8)
  /-- SPDM_END_SESSION (R172): An SPDM END_SESSION ends a session and any expert grant that it carries. -/
  | spdmEndSession (p : Fin 4) (busy : Bool) (sid : Nat)
  /-- SPDM_CHUNK_SEND (R140): An SPDM CHUNK_SEND carries part of a large message. -/
  | spdmChunkSend (p : Fin 4) (busy : Bool) (seq : Nat) (last : Bool) (data : List Byte)
  /-- SPDM_CHUNK_GET (R140): An SPDM CHUNK_GET returns part of a large response. -/
  | spdmChunkGet (p : Fin 4) (busy : Bool) (seq : Nat)
  /-- SPDM_UNSUPPORTED_REQUEST (R140): An SPDM request that is not supported gets an SPDM error. -/
  | spdmUnsupportedRequest (p : Fin 4) (busy : Bool) (code : BitVec 8)
  /-- SPDM_HEARTBEAT_LAPSE (R172): A session's SPDM heartbeat lapses, which ends the session and its grants. -/
  | spdmHeartbeatLapse (sid : Nat)
  /-- MBX_MESSAGE_ARRIVAL (R150): A command message arrives on SMBus, the UART or the Nalyn link and takes the lowest idle mailbox of its transport. -/
  | mbxMessageArrival (t : Fin 3) (body : List Byte)
  /-- MBX_DOORBELL (R157): Writing MBX_DOORBELL copies the command area and moves an idle mailbox to POSTED. -/
  | mbxDoorbell (p : Path) (m : Fin 16)
  /-- MBX_RELEASE (R157): Writing MBX_RELEASE returns a DONE mailbox to IDLE. -/
  | mbxRelease (p : Path) (m : Fin 16)
  /-- MBX_RESET (R159): Writing MBX_RESET returns a mailbox to IDLE from any state. -/
  | mbxReset (p : Path) (m : Fin 16)
  /-- MBX_HANDLER_TAKE (R160): A handler takes a posted command and the mailbox enters RUNNING. -/
  | mbxHandlerTake (m : Fin 16) (moved : Option Nat) (host : List Host.Cell)
  /-- MBX_COMPLETE (R157): A handler writes the completion area and the mailbox enters DONE. -/
  | mbxComplete (m : Fin 16) (moved : Option Nat)
  /-- MAILBOX_SEND (R152): The NVMe admin command Mailbox Send posts a mailbox command. -/
  | mailboxSend (c : NvmeCmd)
  /-- MAILBOX_RECEIVE (R152): The NVMe admin command Mailbox Receive waits for DONE, returns the completion and releases the mailbox. -/
  | mailboxReceive (c : NvmeCmd)
  /-- NOP (R163): The NOP mailbox command completes with no effect. -/
  | nop (m : Fin 16)
  /-- IDENTIFY (R163): The IDENTIFY mailbox command returns SUP_ID, SUP_SERIAL, PWR_MODE and MBX_EXPERT. -/
  | identify (m : Fin 16)
  /-- FENCE (R167): The FENCE mailbox command orders earlier mailbox commands and named queue work, optionally holding the queues. -/
  | fence (m : Fin 16)
  /-- FENCE_CONDITIONS_MET (R167): Every work item that a mailbox FENCE waits for has completed, so the FENCE completes and its hold ends. -/
  | fenceConditionsMet (m : Fin 16)
  /-- FENCE_LIMIT_EXPIRY (R167): A mailbox FENCE's LIMIT expires, so it completes with 0x0019 and its hold ends. -/
  | fenceLimitExpiry (m : Fin 16)
  /-- EXPERT_ENABLE (R171): EXPERT_ENABLE grants expert rights from an active purpose-2 session. -/
  | expertEnable (m : Fin 16)
  /-- EXPERT_DISABLE (R172): EXPERT_DISABLE ends the grants of the requester's transport. -/
  | expertDisable (m : Fin 16)
  /-- EXPERT_ROOT_ADD (R170): EXPERT_ROOT_ADD adds a digest to the expert trust list. -/
  | expertRootAdd (m : Fin 16)
  /-- EXPERT_ROOT_REMOVE (R170): EXPERT_ROOT_REMOVE removes a digest from the expert trust list. -/
  | expertRootRemove (m : Fin 16)
  /-- REG_READ (R176): REG_READ reads words from the register space in order and stops at the first failure. -/
  | regRead (m : Fin 16)
  /-- REG_WRITE (R176): REG_WRITE writes words to the register space in order and stops at the first failure. -/
  | regWrite (m : Fin 16) (env : RegEnv)
  /-- VIOL_READ (R178): VIOL_READ returns every block's violation log pair through the Supervisor's path. -/
  | violRead (m : Fin 16)
  /-- REGISTER_WRITE (R499): A write to a register that has no row of its own is checked and performed under the access codes. -/
  | registerWrite (p : Path) (ok : Bool) (a : BitVec 32) (w : BitVec 32) (w2 : Option (BitVec 32)) (env : RegEnv)
  /-- COUNTER_LO_READ (R175): A read of a _LO register also snapshots its _HI partner for the path. -/
  | counterLoRead (p : Path) (a : BitVec 32)
  /-- COUNTER_SAT_CLEAR (R492): Writing 1 to a counter's SAT bit clears SAT and zeroes the count. -/
  | counterSatClear (p : Path) (a : BitVec 32)
  /-- PA_REPLY_RECEIVED (R183): A preamplifier transaction ends with its reply frame, which is checked. -/
  | paReplyReceived (p : Fin 16) (reply : Option (BitVec 32))
  /-- PA_FLT_ASSERT (R189): PA_FLT_N asserts; the holder drops the write gate and reads PA_FAULT for every head. -/
  | paFltAssert (p : Fin 16)
  /-- PA_CLAIM_RETRY_TIMER (R188): A refused claim is repeated every 10 ms. -/
  | paClaimRetryTimer (p : Fin 16)
  /-- HC_PA_RAW_TX_WRITE (R183): A write to HC_PA_RAW_TX sends a raw preamplifier read transaction. -/
  | hcPaRawTxWrite (p : Path) (n : Fin 16) (w : BitVec 32)
  /-- SECTOR_FRAMED (R204): The SM1 and SM2 search windows close and the sector is framed on SM1, on SM2, or not at all. -/
  | sectorFramed (h : Fin 144) (k : Fin 1024) (x : SectorHead)
  /-- TA_START (R214): A thermal asperity is detected; the loops freeze and erasures are marked. -/
  | taStart (h : Fin 144) (place : Nat) (mean : Int) (run : Nat)
  /-- TA_END (R214): The thermal asperity ends when the baseline has held within half the threshold for 64 samples. -/
  | taEnd (h : Fin 144) (place : Nat) (mean : Int) (run : Nat)
  /-- SECTOR_END (R208): At sector end the head channel posts the sector's eight codewords to the pool queue. -/
  | sectorEnd (h : Fin 144) (f0 : List Int) (parts : List SectorPart)
  /-- DECODER_TAKE (R208): A free decoder takes the oldest queued codeword at the iteration limit then in force. -/
  | decoderTake (d : Fin 80)
  /-- CODEWORD_DECODE_DONE (R207): A decoder finishes a codeword as good or as failed. -/
  | codewordDecodeDone (d : Fin 80)
  /-- RETRY_STORE_REDECODE (R210): The queue falls back to DEC_BUSY_LEVEL and a retry-store codeword is decoded again at DEC_ITER_MAX. -/
  | retryStoreRedecode (d : Fin 80)
  /-- LADDER_STEP (R222): At the head's next pass over the sector, the next retry ladder step runs. -/
  | ladderStep (h : Fin 144) (sid : BitVec 64) (x : SectorHead) (f0 : List Int) (parts : List SectorPart)
  /-- LADDER_ABANDON (R224): The head is withdrawn for over 2 s or its token moves, so ladder sectors complete with 0x0317. -/
  | ladderAbandon (h : Fin 144)
  /-- WRITE_UNSAFE (R219): A write-unsafe condition arises and write current or the write gates go off within 40 ns. -/
  | writeUnsafe (h : Fin 144)
  /-- HEATER_LEAD_EXPIRY (R216): HC_HTR_LEAD after the write power was sent, the head's write heater counts as settled. -/
  | heaterLeadExpiry (h : Fin 144)
  /-- HEATER_CAL_STEP (R217): Every 1 ms of heater calibration, the read heater rises one step until contact or HC_HTR_MAX. -/
  | heaterCalStep (h : Fin 144) (gain margin allowance : BitVec 8)
  /-- HC_CALIBRATE (R226): HC_CALIBRATE calibrates the channel, the heater or both for the heads in the mask. -/
  | hcCalibrate (m : Fin 16) (channel : BitVec 144)
  /-- HC_SERVICE (R226): HC_SERVICE puts a head in or out of service through HC_EN. -/
  | hcService (m : Fin 16)
  /-- HC_STATS (R226): HC_STATS returns a head's seven counts. -/
  | hcStats (m : Fin 16)
  /-- HC_COMMIT (R505): Writing HC_COMMIT bit a commits the RWL fields of actuator a's heads. -/
  | hcCommit (p : Path) (w : BitVec 4)
  /-- WEDGE_SAMPLE (R234): The demodulator delivers a head's servo sample for a wedge. -/
  | wedgeSample (h : Fin 144) (g : Wedge)
  /-- FS_ZT_COMMIT (R245): Writing FS_ZT_COMMIT checks the zone memory and sets FS_ZT_VALID or FS_ZT_BAD. -/
  | fsZtCommit (p : Path) (a : Fin 4)
  /-- ZONE_MEMORY_WRITE (R246): A write to the zone memory clears FS_ZT_VALID. -/
  | zoneMemoryWrite (p : Path) (a : Fin 4) (k : Fin 8128) (w : BitVec 32)
  /-- FS_WORD_COMPLETE (R258): A sequencer microword meets its completion class and the next address is formed. -/
  | fsWordComplete (a : Fin 4) (rev wedge sector : Bool) (slots : Nat) (upset : BitVec 104)
  /-- FS_WORD_TIMEOUT (R258): A microword's TMO expires, which completes it and sets TIMEOUT. -/
  | fsWordTimeout (a : Fin 4) (rev : Bool) (upset : BitVec 104)
  /-- FS_MCHK_RELOAD_DONE (R262): The Supervisor has reloaded the RAM and traps and the sequencer restarts, unless it is stuck. -/
  | fsMchkReloadDone (a : Fin 4)
  /-- FS_ACT_NOP (R254): The NOP action does nothing. -/
  | fsActNop (a : Fin 4)
  /-- FS_ACT_ALU (R254): The ALU action combines two registers and sets the flags. -/
  | fsActAlu (a : Fin 4)
  /-- FS_ACT_ALUI (R254): The ALUI action combines a register with IMM and sets the flags. -/
  | fsActAlui (a : Fin 4)
  /-- FS_ACT_RDREG (R255): The RDREG action reads a permitted register into a GR. -/
  | fsActRdreg (a : Fin 4)
  /-- FS_ACT_WRREG (R255): The WRREG action writes a permitted register from a GR. -/
  | fsActWrreg (a : Fin 4) (env : RegEnv)
  /-- FS_ACT_ZLOAD (R243): The ZLOAD action loads a zone's fields into the heads and writes CLK_PLL_CFG. -/
  | fsActZload (a : Fin 4)
  /-- FS_ACT_PACMD (R254): The PACMD action sends a command frame to the named preamplifiers. -/
  | fsActPacmd (a : Fin 4)
  /-- FS_ACT_ARM (R248): The ARM action arms the timing units for a band and chooses k0 for a write. -/
  | fsActArm (a : Fin 4) (pos : Nat)
  /-- FS_ACT_GATE (R218): The GATE action enables the write gates of the armed heads. -/
  | fsActGate (a : Fin 4)
  /-- FS_ACT_POST (R251): The POST action posts a band completion record. -/
  | fsActPost (a : Fin 4)
  /-- FS_ACT_FETCH (R254): The FETCH action loads the next band descriptor or sets BQ_EMPTY. -/
  | fsActFetch (a : Fin 4)
  /-- FS_ACT_SEEK (R293): The SEEK action asks the motion engine to move the actuator to a band. -/
  | fsActSeek (a : Fin 4)
  /-- FS_ACT_HALT (R254): The HALT action stops the sequencer. -/
  | fsActHalt (a : Fin 4)
  /-- FS_RESUME (R262): Writing FS_RESUME restarts a halted sequencer at ROM address 0, unless it is stuck. -/
  | fsResume (p : Path) (a : Fin 4)
  /-- FS_HALT (R254): Writing FS_HALT halts the sequencer after the band in progress. -/
  | fsHalt (p : Path) (a : Fin 4)
  /-- FS_TRC_FREEZE_WRITE (R266): A write to FS_TRC_FREEZE freezes or resumes the trace. -/
  | fsTrcFreezeWrite (p : Path) (a : Fin 4) (freeze : Bool)
  /-- FS_TRC_DATA_READ (R266): A read of FS_TRC_DATA_LO while the trace is frozen returns an entry, snapshots HI and advances FS_TRC_RIDX. -/
  | fsTrcDataRead (p : Path) (a : Fin 4)
  /-- FS_ZONE_LOAD (R267): FS_ZONE_LOAD checks a zone table image and installs it between bands. -/
  | fsZoneLoad (m : Fin 16)
  /-- FS_TRACE_READ (R267): FS_TRACE_READ returns trace entries. -/
  | fsTraceRead (m : Fin 16)
  /-- SRV_STATS (R267): SRV_STATS returns a head's servo counts. -/
  | srvStats (m : Fin 16)
  /-- CARRIER_PERIOD (R270): Once per PWM carrier period, every bridge's current loop runs and loads new duties. -/
  | carrierPeriod (x : Carrier)
  /-- ENCODER_READMIT (R283): The encoder has passed its self-check and agreed with the active source for 1 s, so it is readmitted. -/
  | encoderReadmit
  /-- VCM_LOOP_SAMPLE (R292): The VCM loop samples at the last servo sample of the wedge, or 1 us after the reference head's sample. -/
  | vcmLoopSample (a : Fin 4) (w : BitVec 10) (omega alpha : Int) (ff : BitVec 16)
  /-- CLE_OUTPUT_LATE (R276): A loop's output misses its 4 us bound; the previous output is held and 0x033B is logged. -/
  | cleOutputLate (l : Fin 9) (idx : Fin 36)
  /-- CLE_SWAP_REQ (R275): Writing CLE_SWAP_REQ requests a coefficient bank swap at the next sample. -/
  | cleSwapReq (p : Path) (l : Fin 9)
  /-- CLE_COMMIT (R278): Writing CLE_COMMIT locks the motion block's RWL fields. -/
  | cleCommit (p : Path)
  /-- ALL_HEADS_LOST_TIMEOUT (R294): Every tracking head of an actuator has been lost for 10 ms, so the actuator is retracted. -/
  | allHeadsLostTimeout (a : Fin 4)
  /-- MOT_SPINDLE_START (R284): MOT_SPINDLE with RUN = 1 starts the spindle on the token-0 holder. -/
  | motSpindleStart (m : Fin 16)
  /-- MOT_SPINDLE_STOP (R287): MOT_SPINDLE with RUN = 0 brakes the spindle to a stop. -/
  | motSpindleStop (m : Fin 16)
  /-- MOT_SPINDLE_COAST (R298): MOT_SPINDLE with COAST set coasts the spindle. -/
  | motSpindleCoast (m : Fin 16)
  /-- SPN_COAST (R298): Writing SPN_COAST coasts the spindle bridges at once. -/
  | spnCoast (p : Path)
  /-- SPINDLE_MEASURE_DONE (R284): Speed and direction have been measured with the bridges coasting; the start is refused, braked, aligned or caught. -/
  | spindleMeasureDone (rpm : BitVec 16) (back : Bool)
  /-- DC_BRAKE_END (R284): The 500 ms DC brake of a start ends. -/
  | dcBrakeEnd (rpm : BitVec 16)
  /-- ALIGNMENT_END (R284): The 200 ms alignment of a start without an encoder ends. -/
  | alignmentEnd
  /-- OBSERVER_HANDOVER (R284): The open-loop ramp reaches SPN_OBS_MIN and hands over to the observer. -/
  | observerHandover (rpm : BitVec 16)
  /-- SPINDLE_AT_SPEED (R284): The spindle has held within 0.1 % of target for 1 s, so SPN_AT_SPEED = 1. -/
  | spindleAtSpeed (rpm : BitVec 16)
  /-- SPINUP_TIMEOUT (R285): The spindle is not at speed within its bound plus 10 s; it coasts and 0x0335 is logged. -/
  | spinupTimeout
  /-- START_RETRY_TIMER (R285): After a refused start, firmware re-measures every 1 s and stops retrying after 120 s. -/
  | startRetryTimer
  /-- SHORT_BRAKE_ENTRY (R287): The speed falls below 300 rpm during a stop and the device short-brakes its set. -/
  | shortBrakeEntry (rpm : BitVec 16)
  /-- SPINDLE_STOPPED (R287): The speed has stayed below 1 rpm for 1 s, so the bridges coast. -/
  | spindleStopped
  /-- LOW_SPEED_UNLOAD (R287): The speed falls below 2,000 rpm with heads loaded and no stop requested, so the heads unload. -/
  | lowSpeedUnload (rpm : BitVec 16)
  /-- MOT_HEADS_LOAD (R293): MOT_HEADS with load set loads an actuator's heads when the spindle is at speed. -/
  | motHeadsLoad (m : Fin 16)
  /-- MOT_HEADS_UNLOAD (R293): MOT_HEADS with load clear unloads an actuator's heads. -/
  | motHeadsUnload (m : Fin 16)
  /-- HEAD_LOAD_DONE (R293): A head load along the ramp completes. -/
  | headLoadDone (a : Fin 4) (band : BitVec 24)
  /-- HEAD_UNLOAD_DONE (R293): A head unload along the ramp completes. -/
  | headUnloadDone (a : Fin 4)
  /-- VCM_RETRACT_WRITE (R295): Writing VCM_RETRACT starts an emergency retract of the actuator. -/
  | vcmRetractWrite (p : Path) (a : Fin 4)
  /-- RETRACT_RAMP_DETECTED (R295): The ramp is detected and the latch push starts. -/
  | retractRampDetected (a : Fin 4)
  /-- RETRACT_LATCH_DONE (R295): The 50 ms latch push ends and the bridge goes to high impedance, parked. -/
  | retractLatchDone (a : Fin 4)
  /-- RETRACT_TIMEOUT (R295): The ramp is not reached by 250 ms, so the bridge goes to high impedance and 0x0338 is logged. -/
  | retractTimeout (a : Fin 4)
  /-- FAN_HALL_EDGE (R296): A Hall edge of an air mover advances commutation and its speed measurement. -/
  | fanHallEdge (f : Fin 4) (hall : BitVec 3)
  /-- FAN_STALL_TIMEOUT (R296): No Hall edge for 250 ms while running, so the air mover coasts and FAN_STALL is set. -/
  | fanStallTimeout (f : Fin 4)
  /-- FAN_OVERCURRENT (R296): An air-mover phase current exceeds 1 A, so the air mover coasts. -/
  | fanOvercurrent (f : Fin 4) (ma : BitVec 16)
  /-- FAN_SPEED_LOOP_TICK (R296): At 100 Hz, firmware writes FAN_DUTY toward the mode's speed. -/
  | fanSpeedLoopTick (f : Fin 4) (duty : BitVec 12)
  /-- FAN_DC_BRAKE_END (R297): The 500 ms DC brake of an air-mover start ends and the air mover starts. -/
  | fanDcBrakeEnd (f : Fin 4)
  /-- FAN_START_RETRY_TIMER (R297): Every 2 s firmware repeats a refused or stalled air-mover start, and gives up after 10 tries with 0x0336. -/
  | fanStartRetryTimer (f : Fin 4) (back : BitVec 16)
  /-- MOT_FAN (R298): MOT_FAN sets an air mover's target speed. -/
  | motFan (m : Fin 16) (back : BitVec 16)
  /-- MOT_STATUS (R298): MOT_STATUS returns the spindle, VCM and air-mover status. -/
  | motStatus (m : Fin 16)
  /-- MOT_TABLE_LOAD (R298): MOT_TABLE_LOAD loads a motion table or an inactive coefficient bank, with an optional swap. -/
  | motTableLoad (m : Fin 16)
  /-- BRIDGE_THERMAL_FOLDBACK (R517): The power-die bridge sensor crosses its thresholds and the bridge current limits fold back or recover. -/
  | bridgeThermalFoldback (t : Int)
  /-- CREATE_IO_SQ (R304): The NVMe admin command Create I/O SQ creates a PCIe submission queue. -/
  | createIoSq (c : NvmeCmd)
  /-- CREATE_IO_CQ (R304): The NVMe admin command Create I/O CQ creates a PCIe completion queue. -/
  | createIoCq (c : NvmeCmd)
  /-- DELETE_IO_SQ (R324): The NVMe admin command Delete I/O SQ aborts unadmitted commands with 0x061D and waits for admitted ones. -/
  | deleteIoSq (c : NvmeCmd)
  /-- DELETE_IO_CQ (R304): The NVMe admin command Delete I/O CQ deletes a completion queue. -/
  | deleteIoCq (c : NvmeCmd)
  /-- GET_LOG_PAGE (R304): The NVMe admin command Get Log Page returns a supported log page. -/
  | getLogPage (c : NvmeCmd)
  /-- NVME_IDENTIFY (R306): The NVMe admin command Identify returns a supported data structure. -/
  | nvmeIdentify (c : NvmeCmd)
  /-- NVME_ABORT (R3): The NVMe admin command Abort completes reporting that the command was not aborted. -/
  | nvmeAbort (c : NvmeCmd)
  /-- SET_FEATURES (R304): The NVMe admin command Set Features sets a supported feature. -/
  | setFeatures (c : NvmeCmd)
  /-- GET_FEATURES (R304): The NVMe admin command Get Features returns a supported feature. -/
  | getFeatures (c : NvmeCmd)
  /-- ASYNC_EVENT_REQUEST (R304): The NVMe admin command Asynchronous Event Request is held until an event. -/
  | asyncEventRequest (c : NvmeCmd)
  /-- KEEP_ALIVE (R303): The NVMe admin command Keep Alive restarts the controller's keep-alive timer. -/
  | keepAlive (c : NvmeCmd)
  /-- KEEP_ALIVE_EXPIRY (R303): The keep-alive timer expires and the controller is torn down. -/
  | keepAliveExpiry (ctrl : Nat)
  /-- FABRICS_CONNECT (R304): The Fabrics Connect command creates a controller or queue on the fabric. -/
  | fabricsConnect (discovery : Bool) (ctrl qid sqsize kato : Nat) (hostNqn hostId : List Byte)
  /-- FABRICS_PROPERTY_GET (R304): The Fabrics Property Get command reads a controller property. -/
  | fabricsPropertyGet (ctrl cid offset : Nat)
  /-- FABRICS_PROPERTY_SET (R304): The Fabrics Property Set command writes a controller property. -/
  | fabricsPropertySet (ctrl cid offset value : Nat)
  /-- FABRICS_DISCONNECT (R304): The Fabrics Disconnect command tears down a fabric connection. -/
  | fabricsDisconnect (ctrl qid : Nat)
  /-- UNSUPPORTED_NVME_OPCODE (R304): An unsupported NVMe opcode completes with Invalid Command Opcode. -/
  | unsupportedNvmeOpcode (c : NvmeCmd) (opcode : BitVec 8)
  /-- NVME_SQ_DOORBELL (R302): A write to an NVMe submission-queue doorbell makes the device fetch new commands. -/
  | nvmeSqDoorbell (q tail : Nat) (props : Option (Nat × Nat × Nat × Nat)) (host : List Host.Cell)
  /-- NVME_CQ_DOORBELL (R302): A write to an NVMe completion-queue doorbell frees completion-queue room. -/
  | nvmeCqDoorbell (q head : Nat)
  /-- NVME_FLUSH (R305): The NVMe Flush command completes at once with success. -/
  | nvmeFlush (c : NvmeCmd)
  /-- NVME_WRITE (R305): The NVMe Write command writes a range in Sluice class W. -/
  | nvmeWrite (c : NvmeCmd)
  /-- NVME_READ (R305): The NVMe Read command reads a range in Sluice class R. -/
  | nvmeRead (c : NvmeCmd)
  /-- NVME_WRITE_ZEROES (R305): The NVMe Write Zeroes command stores zero references over a range. -/
  | nvmeWriteZeroes (c : NvmeCmd)
  /-- NVME_DATASET_MANAGEMENT (R332): The NVMe Dataset Management command deallocates ranges as a hint. -/
  | nvmeDatasetManagement (c : NvmeCmd)
  /-- NVME_VERIFY (R305): The NVMe Verify command reads and checks a range without transferring data. -/
  | nvmeVerify (c : NvmeCmd)
  /-- RESERVATION_REGISTER (R333): The NVMe Reservation Register command registers a host key. -/
  | reservationRegister (c : NvmeCmd)
  /-- RESERVATION_REPORT (R333): The NVMe Reservation Report command returns the reservation state. -/
  | reservationReport (c : NvmeCmd)
  /-- RESERVATION_ACQUIRE (R333): The NVMe Reservation Acquire command acquires or preempts a reservation. -/
  | reservationAcquire (c : NvmeCmd)
  /-- RESERVATION_RELEASE (R333): The NVMe Reservation Release command releases or clears a reservation. -/
  | reservationRelease (c : NvmeCmd)
  /-- Q_DB_SQ (R313): A Q_DB write with Q_SQ_DB = 1 makes the device read SQ_PROD and fetch entries. -/
  | qDbSq (p : Path) (q : Fin 256) (host : List Host.Cell)
  /-- Q_DB_CQ (R313): A Q_DB write with Q_CQ_DB = 1 makes the device read CQ_CONS and post held completions. -/
  | qDbCq (p : Path) (q : Fin 256) (host : List Host.Cell)
  /-- Q_DB_PUSH (R319): A Q_DB write with PUSH = n takes entries from the push window. -/
  | qDbPush (p : Path) (q : Fin 256) (n : Fin 8) (cq : Bool) (sq : Bool) (host : List Host.Cell)
  /-- Q_POLL_TIMER (R313): Every 2 us a polled ACTIVE queue reads SQ_PROD. -/
  | qPollTimer (q : Fin 256) (host : List Host.Cell)
  /-- NATIVE_NOP (R316): A native NOP entry completes with no effect. -/
  | nativeNop (q : Fin 256)
  /-- NATIVE_READ (R316): A native READ entry reads a volume range into its buffer. -/
  | nativeRead (q : Fin 256)
  /-- NATIVE_WRITE (R316): A native WRITE entry writes a volume range from its buffer. -/
  | nativeWrite (q : Fin 256)
  /-- NATIVE_WRITE_ZEROES (R316): A native WRITE_ZEROES entry stores zero references over a range. -/
  | nativeWriteZeroes (q : Fin 256)
  /-- NATIVE_DEALLOCATE (R332): A native DEALLOCATE entry deallocates a range as a hint. -/
  | nativeDeallocate (q : Fin 256)
  /-- NATIVE_VERIFY (R316): A native VERIFY entry reads and checks a range. -/
  | nativeVerify (q : Fin 256)
  /-- NATIVE_FENCE (R321): A native FENCE entry stops fetching until its named work completes. -/
  | nativeFence (q : Fin 256)
  /-- NATIVE_FENCE_DONE (R321): Every condition of a native FENCE is met, so it completes and the queue fetches again. -/
  | nativeFenceDone (q : Fin 256)
  /-- NATIVE_FENCE_LIMIT_EXPIRY (R321): A native FENCE's LIMIT expires, so it completes with 0x0019 and the queue goes on. -/
  | nativeFenceLimitExpiry (q : Fin 256)
  /-- NATIVE_BAND (R316): A native BAND entry passes its band descriptor to the format sequencer. -/
  | nativeBand (q : Fin 256)
  /-- FIRMWARE_KIND_ENTRY (R318): A firmware-kind entry on queues 0 to 31 posts internal work through the Sluice. -/
  | firmwareKindEntry (q : Fin 32) (entry : List Byte)
  /-- Q_CTL_STOP (R322): Writing Q_STOP stops a queue, or is refused for a PERSIST queue. -/
  | qCtlStop (p : Path) (q : Fin 256)
  /-- Q_CTL_RESUME (R322): Writing Q_RESUME restarts fetching on an ERROR or STOPPED queue. -/
  | qCtlResume (p : Path) (q : Fin 256)
  /-- Q_CTL_SKIP (R322): Writing Q_SKIP completes the latched entry with its error and restarts fetching after it. -/
  | qCtlSkip (p : Path) (q : Fin 256)
  /-- Q_CREATE (R311): Q_CREATE creates a native queue pair from a descriptor. -/
  | qCreate (m : Fin 16)
  /-- Q_DELETE (R322): Q_DELETE frees a STOPPED queue. -/
  | qDelete (m : Fin 16)
  /-- Q_STOP (R323): The Q_STOP command stops a queue and completes at STOPPED. -/
  | qStop (m : Fin 16)
  /-- Q_RESUME (R322): The Q_RESUME command resumes a queue. -/
  | qResume (m : Fin 16)
  /-- Q_RESUME_SKIP (R322): The Q_RESUME command with SKIP set skips the latched entry and resumes the queue. -/
  | qResumeSkip (m : Fin 16)
  /-- SLU_STATS (R335): SLU_STATS returns the Sluice status and counts. -/
  | sluStats (m : Fin 16)
  /-- SLU_HWM_RST (R335): Writing SLU_HWM_RST loads both high-water marks with the present values. -/
  | sluHwmRst (p : Path)
  /-- HEADGATE_ADMIT (R327): The Headgate admits a command into the Sluice table once there is room and no wait of its own applies. -/
  | headgateAdmit
  /-- SLUICE_RUN (R327): Every earlier conflicting command has completed, so an admitted command runs. -/
  | sluiceRun (k : Nat) (xferOk : Bool) (cellarUe : Option (BitVec 26))
  /-- COMMAND_FINISH (R328): A command completes; its Sluice entry leaves and its completion is posted. -/
  | commandFinish (k : Nat) (stopped xferOk : Bool) (cellarUe : Option (BitVec 26))
  /-- ANA_CHANGE_TIMEOUT (R308): A command has waited 10 s for its group to leave Change and completes with 0x061B. -/
  | anaChangeTimeout (k : Nat)
  /-- FORWARDED_REQUEST_RECEIVED (R534): A request forwarded by the partner arrives and is checked against ownership before any effect. -/
  | forwardedRequestReceived (req : Nat) (body : FwdReqBody)
  /-- FORWARD_REPLY_RECEIVED (R534): The partner's reply to a forwarded request arrives, and a 0x0A11 return is resolved and resent. -/
  | forwardReplyReceived (req status : Nat) (data : List Byte)
  /-- VAT_ENTRY_SEALED (R452): A Vat journal entry's seal is written, which makes the entry complete. -/
  | vatEntrySealed (g : Fin 2) (seq : BitVec 32)
  /-- VAT_MIRROR_ENTRY_RECEIVED (R453): A mirror journal entry from the partner arrives and is sealed in SEQ order. -/
  | vatMirrorEntryReceived (g : Fin 2) (seq : BitVec 32) (body : MirrorBody) (released : List (BitVec 32))
  /-- MIRROR_ACK_RECEIVED (R453): A MIRROR_ACK arrives and the writes it covers can be acknowledged. -/
  | mirrorAckReceived (g : Fin 2) (seq : BitVec 32)
  /-- CHUNK_REDUCTION_START (R340): The reduction of a chunk starts: zero test, fingerprint, filter lookup and inline decision. -/
  | chunkReductionStart (src : RedSrc) (cached ue partnerHas : Bool)
  /-- TENTATIVE_RESOLVED (R344): A TENTATIVE entry that a lookup waits on becomes DURABLE or goes away, and the lookup decides again. -/
  | tentativeResolved (id : Nat)
  /-- INDEX_PAGE_READ_DONE (R344): An index page read from flash metadata for a small write's lookup completes. -/
  | indexPageReadDone (id : Nat)
  /-- CHUNK_CODED (R354): A chunk has been coded and self-checked, and is staged raw or coded. -/
  | chunkCoded (id : Nat) (faulty : Option (List Byte))
  /-- REDUCTION_RECORD_COMMIT (R349): A reduction record commits in the Vat and applies its map, count and index changes together. -/
  | reductionRecordCommit (id : Nat)
  /-- DEFERRED_PASS_TIMER (R421): Every 3,600 s, or when the deferred log exceeds 2^20 entries, a deferred pass starts. -/
  | deferredPassTimer
  /-- DEFERRED_PASS_ENTRY (R346): The deferred pass decides one log entry and commits its reduction record. -/
  | deferredPassEntry
  /-- RED_BACKLOG_ONSET (R362): Unreduced Vat bytes exceed RED_BACKLOG_HI; the caps drop, inline dedup is deferred and 0x051E is logged. -/
  | redBacklogOnset
  /-- RED_BACKLOG_STEP_TIMER (R362): Every 10 ms in a backlog the caps drop one level, and every 100 ms after it they rise one level. -/
  | redBacklogStepTimer
  /-- RED_BACKLOG_RELEASE (R362): Unreduced Vat bytes fall below RED_BACKLOG_LO, which restores inline deduplication. -/
  | redBacklogRelease
  /-- RED_POLICY_SET (R366): RED_POLICY_SET sets a volume's reduction policy. -/
  | redPolicySet (m : Fin 16)
  /-- RED_POLICY_GET (R366): RED_POLICY_GET returns a volume's reduction policy. -/
  | redPolicyGet (m : Fin 16)
  /-- RED_STATS (R366): RED_STATS returns RED_STATUS and the reduction counts. -/
  | redStats (m : Fin 16)
  /-- RED_DEDUP_SCAN (R366): RED_DEDUP_SCAN starts a deferred pass at once. -/
  | redDedupScan (m : Fin 16)
  /-- RED_RECORD_READ (R366): RED_RECORD_READ returns a stored record without decoding it. -/
  | redRecordRead (m : Fin 16)
  /-- RED_FLT_CLR (R343): Writing RED_FLT_CLR empties both filter halves of both groups. -/
  | redFltClr (p : Path)
  /-- VOL_CREATE (R368): VOL_CREATE creates a volume, or forwards the create to the group's holder. -/
  | volCreate (m : Fin 16)
  /-- VOL_DELETE (R372): VOL_DELETE deletes a volume under a whole-volume class-W entry. -/
  | volDelete (m : Fin 16)
  /-- VOL_RESIZE (R371): VOL_RESIZE grows a volume at once, or shrinks it after overlapping commands complete. -/
  | volResize (m : Fin 16)
  /-- VOL_ACCESS_ADD (R370): VOL_ACCESS with add set adds a host NQN and attaches the namespace. -/
  | volAccessAdd (m : Fin 16)
  /-- VOL_ACCESS_REMOVE (R370): VOL_ACCESS with add clear removes a host NQN and detaches the namespace. -/
  | volAccessRemove (m : Fin 16)
  /-- VOL_INFO (R399): VOL_INFO returns a volume's handle, flags, sizes and identity. -/
  | volInfo (m : Fin 16)
  /-- VOL_LIST (R399): VOL_LIST returns volume numbers in ascending order. -/
  | volList (m : Fin 16)
  /-- SNAP_TAKE (R376): SNAP_TAKE takes a consistent snapshot set as one chain of take entries. -/
  | snapTake (m : Fin 16)
  /-- SNAP_DELETE (R379): SNAP_DELETE removes a snapshot record, or abandons a transfer with FORCE. -/
  | snapDelete (m : Fin 16)
  /-- SNAP_RESTORE (R378): SNAP_RESTORE replaces a volume's map and size with a snapshot's. -/
  | snapRestore (m : Fin 16)
  /-- SNAP_CLONE (R377): SNAP_CLONE creates a writable clone of a snapshot. -/
  | snapClone (m : Fin 16)
  /-- SNAP_LIST (R399): SNAP_LIST returns a volume's snapshots. -/
  | snapList (m : Fin 16)
  /-- BRICK_SET (R380): BRICK_SET writes the brick identifier on both devices of the pair. -/
  | brickSet (m : Fin 16)
  /-- PEER_SET (R382): PEER_SET with set = 1 adds or changes a peer table entry. -/
  | peerSet (m : Fin 16)
  /-- PEER_REMOVE (R382): PEER_SET with set = 0 removes a peer table entry. -/
  | peerRemove (m : Fin 16)
  /-- CANAL_OPEN (R384): CANAL_OPEN starts opening a canal to a replica handle. -/
  | canalOpen (m : Fin 16)
  /-- CANAL_CLOSE (R399): CANAL_CLOSE closes a canal. -/
  | canalClose (m : Fin 16)
  /-- CANAL_SYNC (R395): CANAL_SYNC takes an internal snapshot and starts a transfer. -/
  | canalSync (m : Fin 16)
  /-- CANAL_PROMOTE (R396): CANAL_PROMOTE makes a replica a normal volume and closes its canal end. -/
  | canalPromote (m : Fin 16)
  /-- CANAL_STATUS (R399): CANAL_STATUS returns a canal's state and progress. -/
  | canalStatus (m : Fin 16)
  /-- DRAIN_STATUS (R399): DRAIN_STATUS returns the evacuation's progress. -/
  | drainStatus (m : Fin 16)
  /-- VOL_MAP_READ (R403): VOL_MAP_READ returns map entries of a volume or snapshot. -/
  | volMapRead (m : Fin 16)
  /-- SNAP_DIFF (R399): SNAP_DIFF returns the FP_LIST entries between two snapshots. -/
  | snapDiff (m : Fin 16)
  /-- CANAL_TCP_CONNECTED (R384): A canal's TCP connection is made and SPDM setup begins. -/
  | canalTcpConnected (k : Nat)
  /-- CANAL_CONNECT_TIMEOUT (R384): No TCP connection is made within 2 s, so the open fails with 0x071B. -/
  | canalConnectTimeout (k : Nat)
  /-- CANAL_SETUP_TIMEOUT (R384): A setup step exceeds its bound, so the open fails with 0x071C or 0x071D. -/
  | canalSetupTimeout (k : Nat)
  /-- CANAL_FRAME_INVALID (R383): A canal frame with a bad TYPE, LEN or tag closes the connection and logs 0x071C. -/
  | canalFrameInvalid (k type len : Nat) (tagOk : Bool)
  /-- CANAL_CONNECTION_LOST (R390): A canal connection fails and the policy decides between DOWN and DEGRADED. -/
  | canalConnectionLost (k : Nat)
  /-- CANAL_HELLO (R392): A HELLO arrives; the replica is checked and resends or the resume point follow. -/
  | canalHello (k : Nat) (h : Hello)
  /-- CANAL_WRITE (R389): A canal WRITE is applied at the target in sequence order, or discarded if already applied. -/
  | canalWrite (k seq off len : Nat) (data : List Byte)
  /-- CANAL_WRITE_ACK (R389): A WRITE_ACK arrives and the source write can be acknowledged. -/
  | canalWriteAck (k seq status : Nat)
  /-- CANAL_DIFF_BEGIN (R393): A DIFF_BEGIN opens a snapshot-difference transfer at the target. -/
  | canalDiffBegin (k base new : Nat)
  /-- CANAL_FP_LIST (R393): An FP_LIST arrives and the target looks up each fingerprint. -/
  | canalFpList (k : Nat) (entries : List (Nat × List Byte))
  /-- CANAL_FP_NEED (R393): An FP_NEED arrives and the source sends the requested records. -/
  | canalFpNeed (k : Nat) (bits : List Bool)
  /-- CANAL_RECORD (R393): A RECORD arrives and is checked and stored against the hidden image. -/
  | canalRecord (k chunk : Nat) (record : List Byte)
  /-- CANAL_SNAP_COMMIT (R393): A SNAP_COMMIT switches the replica to the new generation and is answered with COMMIT_ACK. -/
  | canalSnapCommit (k gen : Nat)
  /-- CANAL_COMMIT_ACK (R394): A COMMIT_ACK arrives and the source may delete the base snapshot. -/
  | canalCommitAck (k gen status : Nat)
  /-- CANAL_RETARGET (R398): A retarget message names the new node and the source end reconnects there. -/
  | canalRetarget (k node : Nat)
  /-- CANAL_SYNC_TMO_EXPIRY (R390): No WRITE_ACK within CANAL_SYNC_TMO, so the policy decides the waiting writes. -/
  | canalSyncTmoExpiry (k : Nat)
  /-- CANAL_RETRY_TIMER (R387): Every 1 s the source retries a lost canal connection. -/
  | canalRetryTimer
  /-- CANAL_REATTEST_TIMER (R385): Every CANAL_REATTEST seconds each side repeats GET_MEASUREMENTS. -/
  | canalReattestTimer (k : Nat)
  /-- CANAL_PERIOD_TIMER (R395): Every CANAL_PERIOD seconds a transfer starts. -/
  | canalPeriodTimer (k : Nat)
  /-- DRAIN_CUTOVER_TIMEOUT (R397): The final transfer does not commit within 10 s of the cutover hold, so the hold is released. -/
  | drainCutoverTimeout (g : Fin 2)
  /-- CHANNEL_TRAIN_DONE (R406): Training of an acquired flash channel completes or fails. -/
  | channelTrainDone (c : Fin 32) (ok : Bool) (dies : List DieReport) (bad : List (Nat × Nat))
  /-- FLASH_PROGRAM_DONE (R415): A flash page program completes, or fails and retires its block. -/
  | flashProgramDone (c : Fin 32) (d : Fin 16) (what : Prog) (ok : Bool)
  /-- FLASH_ERASE_DONE (R415): A block erase completes, or fails and retires the block. -/
  | flashEraseDone (c : Fin 32) (d : Fin 16) (b : BitVec 16) (ok : Bool)
  /-- FLASH_READ_DONE (R416): A flash read completes and the recovery ladder runs when needed. -/
  | flashReadDone (g : Fin 2) (lfp : BitVec 34) (step : Fin 5)
  /-- DIE_BUSY_TIMEOUT (R416): A die stays busy 100 ms beyond its bound, so it fails and is rebuilt. -/
  | dieBusyTimeout (c : Fin 32) (d : Fin 16)
  /-- FLASH_PATROL_TIMER (R416): Patrol reads every CLOSED block once every RACK_PATROL_DAYS. -/
  | flashPatrolTimer (weak : List (Nat × Nat × Nat))
  /-- HEAT_HALVING_TIMER (R421): Every RACK_WARM_WINDOW seconds the HEAT of every record is halved. -/
  | heatHalvingTimer
  /-- RACK_MOVE_START (R423): Racking chooses a source and lists its live records. -/
  | rackMoveStart (g : Fin 2) (kind : Fin 7) (c : Fin 32) (band : BitVec 24)
  /-- RACK_SOURCE_READ_DONE (R423): A racking source read completes and each record's HDR_CHECK is checked. -/
  | rackSourceReadDone (id : Nat) (bad : List Nat)
  /-- RACK_TARGET_VERIFIED (R423): The racking target is verified and the move record commits in the Vat. -/
  | rackTargetVerified (id : Nat) (ok : Bool)
  /-- RACK_SOURCE_RELEASE (R425): The reads of the old location have completed, so the source is released. -/
  | rackSourceRelease (id : Nat)
  /-- CAPACITY_ACCOUNT_TIMER (R428): Every 10 ms the device sends its capacity account to the partner. -/
  | capacityAccountTimer
  /-- CAPACITY_ACCOUNT_RECEIVED (R428): The partner's capacity account arrives. -/
  | capacityAccountReceived (cap stored unred : Nat)
  /-- TIER_HEALTH (R431): TIER_HEALTH returns the health report of the brick. -/
  | tierHealth (m : Fin 16) (partner : Option (List Byte))
  /-- RACK_POLICY_SET (R434): RACK_POLICY_SET writes the racking policy registers. -/
  | rackPolicySet (m : Fin 16)
  /-- RACK_POLICY_GET (R434): RACK_POLICY_GET returns the racking policy. -/
  | rackPolicyGet (m : Fin 16)
  /-- RACK_START_GC (R434): RACK_START with kind 0 starts a garbage-collection pass. -/
  | rackStartGc (m : Fin 16)
  /-- RACK_START_COOLING (R434): RACK_START with kind 1 starts a cooling pass. -/
  | rackStartCooling (m : Fin 16)
  /-- RACK_START_COMPACTION (R434): RACK_START with kind 2 starts a run compaction pass. -/
  | rackStartCompaction (m : Fin 16)
  /-- RACK_START_HOMING (R426): RACK_START with kind 3 moves foreign data home. -/
  | rackStartHoming (m : Fin 16)
  /-- RACK_START_PATROL (R434): RACK_START with kind 4 starts a patrol pass. -/
  | rackStartPatrol (m : Fin 16)
  /-- RUN_INFO (R434): RUN_INFO returns a band's run map entry. -/
  | runInfo (m : Fin 16)
  /-- FL_DIE_RETIRE (R434): FL_DIE_RETIRE moves every mapped page off a die and retires it. -/
  | flDieRetire (m : Fin 16)
  /-- FL_PAGE_READ (R434): FL_PAGE_READ returns a raw flash page. -/
  | flPageRead (m : Fin 16)
  /-- FL_TABLE_LOAD (R416): FL_TABLE_LOAD stores a channel's qualification table. -/
  | flTableLoad (m : Fin 16)
  /-- FPM_COMMIT (R506): Writing FPM_COMMIT locks the block's RWL fields. -/
  | fpmCommit (p : Path)
  /-- TEMP_SAMPLE_TIMER (R432): Every 60 s the Supervisor samples Tj and the mechanism temperature into the histograms and LIFE_USED. -/
  | tempSampleTimer (mech : Int)
  /-- TEMP_HISTORY_HOURLY (R432): Every hour the temperature history is written to the Vat. -/
  | tempHistoryHourly
  /-- ECC_FILL_CELLAR (R439): Writing ECC_FILL_CELLAR starts the Cellar fill. -/
  | eccFillCellar (p : Path)
  /-- ECC_FILL_DRAM (R439): Writing ECC_FILL_DRAM starts the DRAM fill after the Cellar fill. -/
  | eccFillDram (p : Path)
  /-- ECC_FILL_DONE (R439): The Cellar or the DRAM fill completes. `upTo`: the DRAM fill has come to this address only. -/
  | eccFillDone (upTo : Option (BitVec 40))
  /-- ECC_PATROL_READ (R445): The patrol reads the next unit of DRAM or the Vat. -/
  | eccPatrolRead (vat : Bool) (r : EccRes)
  /-- ECC_CE_WINDOW_EXPIRY (R444): An ECC_CE_WINDOW ends and the correction-rate count restarts. -/
  | eccCeWindowExpiry (m : Fin 5)
  /-- CORE_FETCH_UE_TRAP (R447): A control core traps on an uncorrectable fetch and the Supervisor reloads its memory. -/
  | coreFetchUeTrap (core : Fin 8) (off : BitVec 20)
  /-- CORE_RELOAD_DONE (R447): The core memory reload completes and the core resumes at the trapping instruction. -/
  | coreReloadDone (core : Fin 8)
  /-- CORE_DATA_UE_TRAP (R447): A control core traps on an uncorrectable data load and firmware rebuilds the structure or the fault is fatal. -/
  | coreDataUeTrap (core : Fin 8) (addr : BitVec 24) (hasSource : Bool)
  /-- MEM_STATS (R469): MEM_STATS returns a memory's ECC status, counts and log. -/
  | memStats (m : Fin 16)
  /-- MEM_REWRITE (R446): MEM_REWRITE reads, corrects and writes back a unit indivisibly. -/
  | memRewrite (m : Fin 16) (r : EccRes)
  /-- MEM_RETIRE (R446): MEM_RETIRE takes a 4 KiB Cellar or DRAM block out of use. -/
  | memRetire (m : Fin 16)
  /-- TC_INVALIDATE_ALL (R460): TC_MAINT with TC_OP 1 invalidates every line and keeps the locks. -/
  | tcInvalidateAll (p : Path)
  /-- TC_INVALIDATE_RANGE (R460): TC_MAINT with TC_OP 2 invalidates TC_LINES lines. -/
  | tcInvalidateRange (p : Path) (lines : Fin 16384)
  /-- TC_PRELOAD (R460): TC_MAINT with TC_OP 3 preloads TC_LINES lines into TC_WAY. -/
  | tcPreload (p : Path) (way : Fin 16) (lines : Fin 16384)
  /-- TC_MAINT_DONE (R460): A Table cache maintenance operation ends and TC_MAINT_BUSY clears. -/
  | tcMaintDone
  /-- TC_FILL_DONE (R462): A Table cache fill arrives and lands, or is discarded after a race. `before`: the requesters' accesses while it was in flight. -/
  | tcFillDone (line : BitVec 32) (prefetch badHit : Bool) (r : EccRes) (before : List TcAccess)
  /-- DMA_GO (R468): Writing DMA_GO starts a channel at DMA_CH_DESC from IDLE or STOPPED. -/
  | dmaGo (p : Path) (n : Fin 16)
  /-- DMA_STOP (R468): Writing DMA_STOP stops a channel at the descriptor boundary. -/
  | dmaStop (p : Path) (n : Fin 16)
  /-- DMA_RESUME (R468): Writing DMA_RESUME restarts a channel in ERROR. -/
  | dmaResume (p : Path) (n : Fin 16)
  /-- DMA_DISABLE (R468): Clearing DMA_EN stops a channel at once and drops its data. -/
  | dmaDisable (p : Path) (n : Fin 16)
  /-- DMA_DESCRIPTOR_DONE (R466): A DMA descriptor completes when its bytes are accepted, or its read-back returns. -/
  | dmaDescriptorDone (n : Fin 16) (ue : Option Nat) (partnerOk : Bool) (host : List Host.Cell)
  /-- DMA_COMMIT (R465): Writing DMA_COMMIT locks the DMA windows. -/
  | dmaCommit (p : Path)
  /-- FAULT_LOG_SECOND_TIMER (R481): At the end of a second with withheld entries, firmware writes a 0x0914 entry per block. -/
  | faultLogSecondTimer
  /-- SUP_WDT_KICK (R484): Writing SUP_WDT_KICK from a control core restarts the watchdog period. -/
  | supWdtKick (p : Path)
  /-- SUP_WDT_EXPIRY (R484): The watchdog period passes without a kick, which is a fatal fault with 0x0911. -/
  | supWdtExpiry
  /-- SUP_COMMIT (R484): Writing SUP_COMMIT locks the supervisor block's RWL fields. -/
  | supCommit (p : Path)
  /-- FLT_READ_GROUPS (R495): FLT_READ with SEL = 0 returns every block's fault group. -/
  | fltReadGroups (m : Fin 16)
  /-- FLT_READ_BOOT_RECORD (R139): FLT_READ with SEL = 1 returns the last-good-boot record. -/
  | fltReadBootRecord (m : Fin 16)
  /-- FLT_CLEAR (R495): FLT_CLEAR clears a block's latch and FF_PEND bits. -/
  | fltClear (m : Fin 16)
  /-- FLT_LOG_READ (R481): FLT_LOG_READ returns fault log entries from a sequence. -/
  | fltLogRead (m : Fin 16)
  /-- FAB_LINK_CHANGE (R507): A fabric port's link goes up or down. -/
  | fabLinkChange (q : Fin 8) (up : Bool)
  /-- TEMP_SENSOR_READ (R522): Every 1 ms the governor reads each die's temperature sensor. -/
  | tempSensorRead (t0 : Int) (t1 : Int) (t2 : Int) (t3 : Int)
  /-- TJ_OVER_105_TIMEOUT (R523): Tj has been above 105 C for 10 ms, so read preamplifiers are removed every 10 ms and 0x0130 is logged. -/
  | tjOver105Timeout
  /-- TJ_OVER_115_TIMEOUT (R523): Tj has been above 115 C for 100 ms, so head admission stops and the disk tier is suspended. -/
  | tjOver115Timeout
  /-- TJ_DISK_WAIT_TIMEOUT (R523): A disk-tier command has waited 10 s during thermal suspension and completes with 0x0131. -/
  | tjDiskWaitTimeout (k : Nat)
  /-- TJ_RECOVERY_TIMEOUT (R523): Tj has stayed below the release level for 10 s, so thermal protection ends. -/
  | tjRecoveryTimeout
  /-- COARSE_CALIBRATION_DONE (R91): Coarse servo calibration completes at Bring-up step 10, and disk reads are admitted with the extended ladder. -/
  | coarseCalibrationDone
  /-- SPDM_RESPONSE_RECEIVED (R142): An SPDM response to a request this device sent as requester, to the partner or to a canal peer, arrives and is checked. -/
  | spdmResponseReceived (k : Option Nat) (ok : Bool) (meas : List (List Byte)) (svnSup svnCtl protoMin protoMax : Nat)
  /-- PCIE_LINK_CHANGE (R531): The PCIe link trains up or goes down, which governs MSI-X sending, link traffic and the PCIE island gate condition. -/
  | pcieLinkChange (up : Bool)
  /-- TS_OUT_SECONDS_ROLLOVER (R112): At each rollover of the seconds count of the Supervisor timestamp, TS_OUT gives its pulse. -/
  | tsOutSecondsRollover
  /-- REGISTER_READ (R499): A read of the register space through BAR2 or a control core is checked, and it can be refused and logged as a violation or in PWR_DRAIN_LOG. -/
  | registerRead (p : Path) (ok : Bool) (a : BitVec 32) (two : Bool)
  /-- NVME_MI_REQUEST (R73): An NVMe-MI basic management command or health status poll arrives over the sled SMBus and is answered. -/
  | nvmeMiRequest (kind : Fin 4)
  /-- AGGREGATION_TIME_EXPIRY (R302): The interrupt coalescing aggregation time of a PCIe completion queue expires and its interrupt is sent. -/
  | aggregationTimeExpiry (q : Nat)
  /-- DRAIN_OFFER_REPLY (R397): A canal peer's answer to an evacuation offer arrives, and the volume moves to that peer or is offered to the next one. -/
  | drainOfferReply (peer vol : Nat) (handle : Option Nat)
deriving DecidableEq, Repr

end Sys2Proof
end

