-- ==== Sys2Proof/Decode.lean ====
section
/-! DEFINITION. Decoding of the opcode table's words: the table of this block gives no row any bits (its commands are
register accesses, messages and events, not words), so no word spells a command. -/

namespace Sys2Proof

/-- The command that a word spells by the table's bits: none, since the table gives no row any bits. -/
def decodeTableWord (_nbits _w : Nat) : Option Instr := none

end Sys2Proof
end

