-- ==== Sys2Proof/Config.lean ====
section
/-! DEFINITION. What an implementation fixes and what the spec leaves open: free values without a body (nothing can
evaluate them), the verdicts of the cryptographic units whose keys no path reads, and the named constants of the
model. -/

namespace Sys2Proof

/-- A free value: the `n`-th value that the spec leaves open (undefined, unstated, not fixed). It has no body, so a
statement about it holds for every value (log entry 1). -/
opaque Config.freeValue : Nat → BitVec 64

/-- The verdict of the ECDSA P-384 check of an image header under the Olunath image key of its TYPE (R127, R129):
the keys are not in the spec (log entry 4). -/
opaque Config.imageSignatureOk : List Byte → Bool

/-- The verdict of AES-256-GCM over an encrypted payload under the Vilmustan patch key, with the plaintext when the
tag matches (R127, R128): no path reads the key (log entry 4). -/
opaque Config.unwrapPayload : List Byte → List Byte → Option (List Byte)

/-- The digest of the public key of the Olunath root, in which the chain of a canal's peer has to end (R385). -/
opaque Config.olunathRoot : List Byte

/-- The digest of the Supervisor ROM, measurement index 1, fused at manufacture (R137). -/
opaque Config.romMeasurement : List Byte

/-- The bytes whose digest is measurement index 6 (R137): the expert trust list and the level of TEST_N, the parts of the security
configuration that change; the encoding is not stated (log entry 48). -/
opaque Config.configBytes : List (List Byte) → Bool → List Byte

/-- The bytes of the accepted image list whose digest is measurement index 7 (R137): the encoding is not stated (log entry 48). -/
opaque Config.listBytes : List (List Byte) → List Byte

/-- The unique secret in the device's fuses (R135): no path reads it. -/
opaque Config.deviceSecret : List Byte

/-- The public key of the P-384 key pair that deterministic generation makes of a seed (R135). -/
opaque Config.p384Public : List Byte → List Byte

/-- The ECDSA P-384 signature of a message by the key pair of a seed (R135, R136). -/
opaque Config.p384Sign : List Byte → List Byte → List Byte

/-- Certificates 0 and 1 of slot 0, the manufacturer's (R136). -/
opaque Config.rootCert : List Byte
opaque Config.intermediateCert : List Byte

/-- Certificate 2 of slot 0, written at manufacture, for a serial number in hexadecimal digits and the DeviceID key (R136). -/
opaque Config.deviceIdCert : List Byte → List Byte → List Byte

/-- What the alias certificate states for the alias key and the measurements of its extension (R136), in DER. -/
opaque Config.aliasBody : List Byte → List Byte → List Byte

/-- A certificate in DER of its body and its signature (R136). -/
opaque Config.certOf : List Byte → List Byte → List Byte

/-- The die revisions of measurement index 8, the four bytes beside SUP_ID (R137). -/
opaque Config.dieRevisions : List Byte

/-- The part of LIFE_USED that one minute at `tj` degrees Celsius adds, in millionths of a minute, off the reference of
80 degrees (R432): the rounding of the exponential is not stated. -/
opaque Config.lifeWeight : Int → Nat

/-- The bytes of a data structure that the device returns and the spec leaves unstated: NVMe Identify data and log pages
(R304, R306), by page number and offset (log entry 46). -/
opaque Config.pageByte : Nat → Nat → Byte

/-- What the VCM loop's output is scaled by on the backup coil of an actuator, in 1/65536: it follows the torque constants
of the mechanism tables (R288), whose layout the spec does not give. -/
opaque Config.coilScale : Nat → Nat

/-- The retract settings of an actuator in the mechanism tables (R278), whose layout the spec does not give: latch push current, speed, current
limit, and the back-EMF constants of the primary and the backup coil. -/
opaque Config.retractSettings : Nat → List Nat

/-- The equalizer's error at a bit for a target g1..g3 (Q3.4) and the equalized samples so far, newest first (R194): how the decision is
taken is not stated. -/
opaque Config.eqError : List Int → List Int → Int

/-- g1..g3 after a sector, adapted from their values on the equalized samples at a multiple of the step (R193): the law is not stated. -/
opaque Config.adaptTarget : List Int → Nat → List Int → List Int

/-- The noise predictors after a sector, adapted from their values at a step of 2^-MU times a multiple (R195): the law is not stated. -/
opaque Config.adaptPredict : List Int → Nat → Nat → List Int → List Int

/-- The detector's log-likelihood ratio of each bit before scaling, for a target, predictor taps, predictors and equalized samples, in
units of the unscaled 4-bit value; positive for a 0 (R195): the algorithm is not stated. -/
opaque Config.softDetect : List Int → Nat → List Int → List Int → List Int

/-- The cost of a block that the Deciq encoder expects from the sum of its residue codes, at level 2 (R360): the estimate is not stated. -/
opaque Config.dqEstimate : Nat → Nat

/-- K of a block from the sum of its residue codes, at levels 1 and 2 (R360): the rule is not stated. -/
opaque Config.dqMeanK : Nat → Nat

/-- Which of several choices the Deciq encoder takes: PRED 0 or 1 at level 1, one of the cheapest at the others (R360). -/
opaque Config.dqPick : List (Nat × Nat) → Nat

/-- What a min-sum check message passes on of its magnitude (R207): the width of the decoder's messages is not stated. -/
opaque Config.checkMessage : Nat → Nat

/-- The base microcode of the format sequencers (R252): the ROM's words with their parity bits above bit 95. Its content
is not in the spec. -/
opaque Config.fsRom : Nat → BitVec 104

/-- What a control store RAM word of a sequencer holds that nothing has written (R259): undefined. -/
opaque Config.fsRam : Nat → Nat → BitVec 104

end Sys2Proof
end

