-- ==== Sys2Proof/Machine/Bits.lean ====
section
/-! DEFINITION. Bit-field, byte-order and modular-compare helpers shared by every meaning: little-endian words (R9's
conventions), the newer-than compare of free-running counts (R29), CRC-4, CRC-8 and CRC-32C. -/

namespace Sys2Proof.Machine

/-- Bits `lo + n - 1 .. lo` of a number. -/
def bitsAt (x lo n : Nat) : Nat := x / 2 ^ lo % 2 ^ n

/-- One bit of a number. -/
def bitAt (x i : Nat) : Bool := x / 2 ^ i % 2 = 1

/-- 1 for true, 0 for false. -/
def b2n (b : Bool) : Nat := if b then 1 else 0

/-- A number made of the bits of a list, the first being bit 0. -/
def ofBits : List Bool → Nat
  | [] => 0
  | b :: r => b2n b + 2 * ofBits r

/-- The `n` low bits of a number, bit 0 first. -/
def toBits : Nat → Nat → List Bool
  | 0, _ => []
  | n + 1, x => (x % 2 = 1) :: toBits n (x / 2)

/-- The `n` little-endian bytes of a number. -/
def leBytes : Nat → Nat → List Byte
  | 0, _ => []
  | n + 1, x => BitVec.ofNat 8 x :: leBytes n (x / 256)

/-- The number whose little-endian bytes are given. -/
def leNat : List Byte → Nat
  | [] => 0
  | b :: r => b.toNat + 256 * leNat r

/-- `n` bytes of a list from offset `o`, short at the end of the list. -/
def slice (l : List Byte) (o n : Nat) : List Byte := (l.drop o).take n

/-- The little-endian field of `n` bytes at offset `o`. -/
def leAt (l : List Byte) (o n : Nat) : Nat := leNat (slice l o n)

/-- `l` padded with zero bytes, or cut, to `n` bytes. -/
def padTo (n : Nat) (l : List Byte) : List Byte := l.take n ++ List.replicate (n - l.length) 0

/-- The little-endian 32-bit words of a byte list; a short last word is filled with zeros. -/
def leWords : Nat → List Byte → List Word
  | 0, _ => []
  | n + 1, l => BitVec.ofNat 32 (leNat (l.take 4)) :: leWords n (l.drop 4)

/-- Modular compare of `n`-bit free-running counts: `a` is newer than `b` when their difference lies in
1 .. 2^(n-1) - 1 (R29, R155, R493). -/
def newer (n a b : Nat) : Bool :=
  let d := (a + 2 ^ n - b % 2 ^ n) % 2 ^ n
  decide (0 < d ∧ d < 2 ^ (n - 1))

/-- One bit of a most-significant-first CRC of width `n` and polynomial `poly`. -/
def crcBit (n poly : Nat) (c : Nat) (b : Bool) : Nat :=
  let top := bitAt c (n - 1) != b
  let c2 := (c * 2) % 2 ^ n
  if top then Nat.xor c2 poly else c2

/-- A most-significant-first CRC over bits, in transmission order. -/
def crcMsb (n poly init : Nat) (bs : List Bool) : Nat := bs.foldl (crcBit n poly) init

/-- The bits of the `n`-bit number `x`, most significant first. -/
def msbBits (n x : Nat) : List Bool := (toBits n x).reverse

/-- CRC-4 with polynomial x^4 + x + 1 and initial value 0 (R33). -/
def crc4 (bs : List Bool) : Nat := crcMsb 4 3 0 bs

/-- One bit step of the reflected CRC-32C (polynomial 0x1EDC6F41). -/
def crc32cBit (c : Nat) : Nat := if c % 2 = 1 then Nat.xor (c / 2) 0x82F63B78 else c / 2

/-- One byte step of CRC-32C. -/
def crc32cByte (c : Nat) (b : Byte) : Nat :=
  crc32cBit (crc32cBit (crc32cBit (crc32cBit (crc32cBit (crc32cBit (crc32cBit (crc32cBit (Nat.xor c b.toNat))))))))

/-- CRC-32C of a byte list: initial value and final exclusive-or of all ones. -/
def crc32c (l : List Byte) : Nat := Nat.xor (l.foldl crc32cByte 0xFFFFFFFF) 0xFFFFFFFF

/-- Set element `i` of a list. -/
def setAt {α : Type} : List α → Nat → α → List α
  | [], _, _ => []
  | _ :: r, 0, x => x :: r
  | y :: r, i + 1, x => y :: setAt r i x

/-- Apply `f` to element `i` of a list. -/
def modAt {α : Type} : List α → Nat → (α → α) → List α
  | [], _, _ => []
  | y :: r, 0, f => f y :: r
  | y :: r, i + 1, f => y :: modAt r i f

/-- `min a b` for counts that saturate at a field's maximum (R493). -/
def satAdd (mx a b : Nat) : Nat := min mx (a + b)

/-- Two's complement reading of the low `n` bits. -/
def sgn (n x : Nat) : Int :=
  let y := x % 2 ^ n
  if y < 2 ^ (n - 1) then (y : Int) else (y : Int) - (2 ^ n : Nat)

/-- The low `n` bits of an integer, as a number. -/
def unsgn (n : Nat) (x : Int) : Nat := (x % (2 ^ n : Nat)).toNat

/-- Clamp an integer. -/
def clampI (lo hi x : Int) : Int := if x < lo then lo else if hi < x then hi else x

/-! ### Square root -/

/-- The integer square root below `(r + 2^n)`, bit by bit. -/
def isqrtFrom (x : Nat) : Nat → Nat → Nat
  | 0, r => r
  | n + 1, r => isqrtFrom x n (if (r + 2 ^ n) * (r + 2 ^ n) ≤ x then r + 2 ^ n else r)

/-- The integer square root of a number below 2^128. -/
def isqrt (x : Nat) : Nat := isqrtFrom x 64 0

end Sys2Proof.Machine
end

