-- ==== Sys2Proof/Machine/RegMap.lean ====
section
/-! DEFINITION. The register map of the expert register space: one row per register of the tables of
"Register Map" (R497, R503), with its offset, instances, block, power domain, reset word and the access code of
each field (R12); below the table, the address of each register (namespace R) and the place of each field
(namespace F) under the spec's own names. Where a Reset column says U or Fused the word here is 0 (log entry 2). -/

namespace Sys2Proof.Machine

/-- The access codes of R12. -/
inductive Acc where
  | ro | rw | wo | w1c | w1p | rwl
deriving DecidableEq, Repr

/-- One field of a register: its lowest bit, its width, its access code. -/
structure FieldBits where
  lo : Nat
  width : Nat
  acc : Acc
deriving DecidableEq, Repr

/-- One row of a register table: `n1` instances `s1` apart, each of `n2` words `s2` apart (R10). The power domain
of instance `i` is `dom + i / domDiv` (with `domDiv = 0`: `dom` for every instance). -/
structure RegRow where
  base : Nat
  n1 : Nat
  s1 : Nat
  n2 : Nat
  s2 : Nat
  block : Nat
  dom : Nat
  domDiv : Nat
  reset : BitVec 32
  fields : List FieldBits
deriving DecidableEq, Repr

/-- A field of one register: the register's address, the field's lowest bit and its width. -/
structure Fld where
  addr : Nat
  lo : Nat
  width : Nat
deriving DecidableEq, Repr

/-- Registers of block 0 (R497), without its violation pair and fault group. -/
def regRows0 : List RegRow := [
  -- SUP_ID
  ⟨0, 1, 0, 1, 0, 0, 0, 0, 0x64000000, [⟨16, 16, .ro⟩, ⟨8, 8, .ro⟩, ⟨0, 8, .ro⟩]⟩,
  -- SUP_SERIAL_LO
  ⟨4, 1, 0, 1, 0, 0, 0, 0, 0, [⟨0, 32, .ro⟩]⟩,
  -- SUP_SERIAL_HI
  ⟨8, 1, 0, 1, 0, 0, 0, 0, 0, [⟨0, 32, .ro⟩]⟩,
  -- SUP_BOOT
  ⟨0x10, 1, 0, 1, 0, 0, 0, 0, 0, [⟨16, 16, .ro⟩, ⟨8, 1, .w1c⟩, ⟨7, 1, .ro⟩, ⟨0, 4, .ro⟩]⟩,
  -- SUP_SLOT
  ⟨0x14, 1, 0, 1, 0, 0, 0, 0, 0, [⟨11, 1, .ro⟩, ⟨10, 1, .ro⟩, ⟨8, 2, .ro⟩, ⟨7, 1, .ro⟩, ⟨6, 1, .ro⟩, ⟨5, 1, .ro⟩, ⟨3, 2, .ro⟩, ⟨2, 1, .ro⟩]⟩,
  -- SUP_SVN
  ⟨0x18, 1, 0, 1, 0, 0, 0, 0, 0, [⟨24, 8, .ro⟩, ⟨16, 8, .ro⟩, ⟨8, 8, .ro⟩, ⟨0, 8, .ro⟩]⟩,
  -- SUP_WDT
  ⟨0x40, 1, 0, 1, 0, 0, 0, 0, 0x32, [⟨31, 1, .w1c⟩, ⟨16, 1, .w1p⟩, ⟨0, 16, .rwl⟩]⟩,
  -- SUP_WDT_KICK
  ⟨0x44, 1, 0, 1, 0, 0, 0, 0, 0, [⟨0, 1, .w1p⟩]⟩,
  -- SUP_SAFE
  ⟨0x48, 1, 0, 1, 0, 0, 0, 0, 0, [⟨31, 1, .ro⟩, ⟨30, 1, .ro⟩, ⟨29, 1, .ro⟩, ⟨20, 4, .ro⟩, ⟨0, 16, .ro⟩]⟩,
  -- SUP_TIME_LO
  ⟨0x50, 1, 0, 1, 0, 0, 0, 0, 0, [⟨0, 32, .ro⟩]⟩,
  -- SUP_TIME_HI
  ⟨0x54, 1, 0, 1, 0, 0, 0, 0, 0, [⟨0, 32, .ro⟩]⟩,
  -- SUP_STRAP
  ⟨0x80, 1, 0, 1, 0, 0, 0, 0, 0, [⟨9, 1, .ro⟩, ⟨8, 1, .ro⟩, ⟨7, 1, .ro⟩, ⟨5, 2, .ro⟩, ⟨2, 3, .ro⟩, ⟨1, 1, .ro⟩, ⟨0, 1, .ro⟩]⟩,
  -- SUP_MEAS
  ⟨0x420, 8, 0x20, 8, 4, 0, 0, 0, 0, [⟨0, 32, .ro⟩]⟩]

/-- Registers of block 1 (R497), without its violation pair and fault group. -/
def regRows1 : List RegRow := [
  -- MBX_STATE
  ⟨0x18000, 4, 4, 1, 0, 1, 0, 0, 0, [⟨16, 4, .ro⟩, ⟨9, 1, .ro⟩, ⟨8, 1, .w1c⟩, ⟨0, 2, .ro⟩]⟩,
  -- MBX_STATE
  ⟨0x18010, 1, 4, 1, 0, 1, 0, 0, 0x10000, [⟨16, 4, .ro⟩, ⟨9, 1, .ro⟩, ⟨8, 1, .w1c⟩, ⟨0, 2, .ro⟩]⟩,
  -- MBX_STATE
  ⟨0x18014, 4, 4, 1, 0, 1, 0, 0, 0x20000, [⟨16, 4, .ro⟩, ⟨9, 1, .ro⟩, ⟨8, 1, .w1c⟩, ⟨0, 2, .ro⟩]⟩,
  -- MBX_STATE
  ⟨0x18024, 4, 4, 1, 0, 1, 0, 0, 0x30000, [⟨16, 4, .ro⟩, ⟨9, 1, .ro⟩, ⟨8, 1, .w1c⟩, ⟨0, 2, .ro⟩]⟩,
  -- MBX_STATE
  ⟨0x18034, 1, 4, 1, 0, 1, 0, 0, 0x40000, [⟨16, 4, .ro⟩, ⟨9, 1, .ro⟩, ⟨8, 1, .w1c⟩, ⟨0, 2, .ro⟩]⟩,
  -- MBX_STATE
  ⟨0x18038, 2, 4, 1, 0, 1, 0, 0, 0x50000, [⟨16, 4, .ro⟩, ⟨9, 1, .ro⟩, ⟨8, 1, .w1c⟩, ⟨0, 2, .ro⟩]⟩,
  -- MBX_CTL
  ⟨0x18040, 16, 4, 1, 0, 1, 0, 0, 0, [⟨16, 11, .rw⟩, ⟨3, 1, .rw⟩, ⟨2, 1, .w1p⟩, ⟨1, 1, .w1p⟩, ⟨0, 1, .w1p⟩]⟩,
  -- MBX_EXPERT
  ⟨0x18080, 1, 0, 1, 0, 1, 0, 0, 0, [⟨8, 1, .ro⟩, ⟨4, 3, .ro⟩, ⟨0, 4, .ro⟩]⟩,
  -- MBX_SEQ_LAST
  ⟨0x18084, 1, 0, 1, 0, 1, 0, 0, 0, [⟨0, 32, .ro⟩]⟩]

/-- Registers of block 2 (R497), without its violation pair and fault group. -/
def regRows2 : List RegRow := [
  -- CLK_PACE
  ⟨0x20000, 1, 0, 1, 0, 2, 0, 0, 0, [⟨16, 16, .ro⟩, ⟨0, 16, .ro⟩]⟩,
  -- CLK_VCORE
  ⟨0x20004, 1, 0, 1, 0, 2, 0, 0, 0x2EE0000, [⟨16, 16, .ro⟩, ⟨0, 16, .ro⟩]⟩,
  -- CLK_GOV_CTL
  ⟨0x20008, 1, 0, 1, 0, 2, 0, 0, 0xA0A, [⟨16, 1, .w1p⟩, ⟨8, 8, .rw⟩, ⟨0, 8, .rw⟩]⟩,
  -- CLK_GOV_STATUS
  ⟨0x2000C, 1, 0, 1, 0, 2, 0, 0, 0x1900, [⟨8, 8, .ro⟩, ⟨3, 1, .w1c⟩, ⟨2, 1, .ro⟩, ⟨1, 1, .ro⟩, ⟨0, 1, .ro⟩]⟩,
  -- CLK_OVERRUN_LO
  ⟨0x20010, 1, 0, 1, 0, 2, 0, 0, 0, [⟨0, 32, .ro⟩]⟩,
  -- CLK_OVERRUN_HI
  ⟨0x20014, 1, 0, 1, 0, 2, 0, 0, 0, [⟨31, 1, .w1c⟩, ⟨0, 16, .ro⟩]⟩,
  -- CLK_REF_STATUS
  ⟨0x20020, 1, 0, 1, 0, 2, 0, 0, 0, [⟨17, 1, .ro⟩, ⟨16, 1, .ro⟩, ⟨8, 4, .w1c⟩, ⟨0, 4, .ro⟩]⟩,
  -- CLK_FORCE_ADDR
  ⟨0x20030, 1, 0, 1, 0, 2, 0, 0, 0, [⟨0, 32, .ro⟩]⟩,
  -- CLK_FORCE_LOG
  ⟨0x20034, 1, 0, 1, 0, 2, 0, 0, 0, [⟨31, 1, .w1c⟩, ⟨16, 8, .ro⟩, ⟨0, 4, .ro⟩]⟩,
  -- CLK_SSC_MOT
  ⟨0x20040, 1, 0, 1, 0, 2, 0, 0, 0x1F04, [⟨8, 6, .rw⟩, ⟨0, 4, .rw⟩]⟩,
  -- CLK_SSC_PACTL
  ⟨0x20044, 1, 0, 1, 0, 2, 0, 0, 0x1F00, [⟨8, 6, .rw⟩, ⟨0, 4, .rw⟩]⟩,
  -- CLK_ISL_CTL
  ⟨0x20100, 13, 4, 1, 0, 2, 0, 0, 0, [⟨2, 1, .w1p⟩, ⟨1, 1, .w1p⟩, ⟨0, 1, .rw⟩]⟩,
  -- CLK_ISL_STATUS
  ⟨0x20180, 13, 4, 1, 0, 2, 0, 0, 0, [⟨6, 1, .w1c⟩, ⟨5, 1, .w1c⟩, ⟨4, 1, .ro⟩, ⟨3, 1, .ro⟩, ⟨2, 1, .ro⟩, ⟨1, 1, .ro⟩, ⟨0, 1, .ro⟩]⟩,
  -- CLK_PLL_CFG
  ⟨0x20204, 1, 4, 1, 0, 2, 0, 0, 0x10A00000, [⟨26, 6, .rw⟩, ⟨16, 10, .rw⟩, ⟨0, 16, .rw⟩]⟩,
  -- CLK_PLL_CFG
  ⟨0x20208, 1, 4, 1, 0, 2, 0, 0, 0x50A00000, [⟨26, 6, .rw⟩, ⟨16, 10, .rw⟩, ⟨0, 16, .rw⟩]⟩,
  -- CLK_PLL_CFG
  ⟨0x2020C, 1, 4, 1, 0, 2, 0, 0, 0x9000000, [⟨26, 6, .rw⟩, ⟨16, 10, .rw⟩, ⟨0, 16, .rw⟩]⟩,
  -- CLK_PLL_CFG
  ⟨0x20210, 1, 4, 1, 0, 2, 0, 0, 0x11200000, [⟨26, 6, .rw⟩, ⟨16, 10, .rw⟩, ⟨0, 16, .rw⟩]⟩,
  -- CLK_PLL_CFG
  ⟨0x20214, 4, 4, 1, 0, 2, 0, 0, 0x4A00000, [⟨26, 6, .rw⟩, ⟨16, 10, .rw⟩, ⟨0, 16, .rw⟩]⟩,
  -- CLK_PLL_CFG
  ⟨0x20224, 1, 4, 1, 0, 2, 0, 0, 0xF0780000, [⟨26, 6, .rw⟩, ⟨16, 10, .rw⟩, ⟨0, 16, .rw⟩]⟩]

/-- Registers of block 3 (R497), without its violation pair and fault group. -/
def regRows3 : List RegRow := [
  -- PWR_MODE
  ⟨0x30000, 1, 0, 1, 0, 3, 0, 0, 0x601, [⟨10, 1, .rw⟩, ⟨9, 1, .ro⟩, ⟨8, 1, .ro⟩, ⟨4, 4, .ro⟩, ⟨0, 4, .ro⟩]⟩,
  -- PWR_SUPPLY
  ⟨0x30004, 1, 0, 1, 0, 3, 0, 0, 0, [⟨16, 16, .ro⟩, ⟨0, 16, .ro⟩]⟩,
  -- PWR_SUPPLY_FLAGS
  ⟨0x30008, 1, 0, 1, 0, 3, 0, 0, 0, [⟨8, 1, .ro⟩, ⟨4, 1, .w1c⟩, ⟨3, 1, .w1c⟩, ⟨2, 1, .w1c⟩, ⟨1, 1, .w1c⟩, ⟨0, 1, .ro⟩]⟩,
  -- PWR_HEAD_LIMIT
  ⟨0x3000C, 1, 0, 1, 0, 3, 0, 0, 0, [⟨8, 8, .ro⟩, ⟨0, 8, .ro⟩]⟩,
  -- PWR_DRAIN_LIMIT
  ⟨0x30010, 1, 0, 1, 0, 3, 0, 0, 0x64, [⟨0, 16, .rw⟩]⟩,
  -- PWR_DRAIN_LOG_ADDR
  ⟨0x30014, 1, 0, 1, 0, 3, 0, 0, 0, [⟨0, 32, .ro⟩]⟩,
  -- PWR_DRAIN_LOG_CTL
  ⟨0x30018, 1, 0, 1, 0, 3, 0, 0, 0, [⟨31, 1, .w1c⟩, ⟨16, 8, .ro⟩, ⟨0, 5, .ro⟩]⟩,
  -- PWR_TIMERS
  ⟨0x3001C, 1, 0, 1, 0, 3, 0, 0, 0x1E0000, [⟨16, 16, .rw⟩, ⟨0, 16, .rw⟩]⟩,
  -- PWR_PF_TIME_LO
  ⟨0x30020, 1, 0, 1, 0, 3, 0, 0, 0, [⟨0, 32, .ro⟩]⟩,
  -- PWR_PF_TIME_HI
  ⟨0x30024, 1, 0, 1, 0, 3, 0, 0, 0, [⟨0, 32, .ro⟩]⟩,
  -- PWR_PF_INFO
  ⟨0x30028, 1, 0, 1, 0, 3, 0, 0, 0, [⟨16, 16, .ro⟩, ⟨7, 1, .ro⟩, ⟨6, 1, .ro⟩, ⟨5, 1, .ro⟩, ⟨4, 1, .ro⟩, ⟨0, 4, .ro⟩]⟩,
  -- PWR_DOM_CTL
  ⟨0x30100, 1, 4, 1, 0, 3, 0, 0, 1, [⟨0, 1, .rw⟩]⟩,
  -- PWR_DOM_CTL
  ⟨0x30104, 15, 4, 1, 0, 3, 0, 0, 0, [⟨0, 1, .rw⟩]⟩,
  -- PWR_DOM_CTL
  ⟨0x30140, 1, 4, 1, 0, 3, 0, 0, 1, [⟨0, 1, .rw⟩]⟩,
  -- PWR_DOM_STATUS
  ⟨0x30180, 17, 4, 1, 0, 3, 0, 0, 0, [⟨3, 1, .w1c⟩, ⟨2, 1, .w1c⟩, ⟨0, 2, .ro⟩]⟩]

/-- Registers of block 4 (R497), without its violation pair and fault group. -/
def regRows4 : List RegRow := [
  -- HC_CTL
  ⟨0x100000, 144, 0x400, 1, 0, 4, 2, 36, 5, [⟨2, 1, .rw⟩, ⟨1, 1, .rw⟩, ⟨0, 1, .rw⟩]⟩,
  -- HC_STATUS
  ⟨0x100004, 144, 0x400, 1, 0, 4, 2, 36, 1, [⟨24, 8, .ro⟩, ⟨16, 8, .ro⟩, ⟨12, 4, .ro⟩, ⟨7, 1, .ro⟩, ⟨6, 1, .ro⟩, ⟨5, 1, .ro⟩, ⟨0, 3, .ro⟩]⟩,
  -- HC_CTF
  ⟨0x100008, 144, 0x400, 1, 0, 4, 2, 36, 0x3200A0, [⟨15, 9, .rw⟩, ⟨0, 8, .rw⟩]⟩,
  -- HC_AGC
  ⟨0x10000C, 144, 0x400, 1, 0, 4, 2, 36, 0x18186026, [⟨24, 6, .rw⟩, ⟨16, 8, .rw⟩, ⟨8, 8, .rw⟩, ⟨4, 4, .rw⟩, ⟨0, 4, .rw⟩]⟩,
  -- HC_TR
  ⟨0x100010, 144, 0x400, 1, 0, 4, 2, 36, 0x375A00, [⟨20, 4, .rw⟩, ⟨16, 4, .rw⟩, ⟨12, 4, .rw⟩, ⟨8, 4, .rw⟩, ⟨0, 8, .rw⟩]⟩,
  -- HC_EQ_TARGET
  ⟨0x100014, 144, 0x400, 1, 0, 4, 2, 36, 0x201C1004, [⟨30, 2, .rw⟩, ⟨29, 1, .rw⟩, ⟨16, 8, .rw⟩, ⟨8, 8, .rw⟩, ⟨0, 8, .rw⟩]⟩,
  -- HC_EQ_TAPS_A
  ⟨0x100018, 144, 0x400, 1, 0, 4, 2, 36, 0, [⟨24, 8, .rw⟩, ⟨16, 8, .rw⟩, ⟨8, 8, .rw⟩, ⟨0, 8, .rw⟩]⟩,
  -- HC_EQ_TAPS_B
  ⟨0x10001C, 144, 0x400, 1, 0, 4, 2, 36, 0x40, [⟨24, 8, .rw⟩, ⟨16, 8, .rw⟩, ⟨8, 8, .rw⟩, ⟨0, 8, .rw⟩]⟩,
  -- HC_EQ_TAPS_C
  ⟨0x100020, 144, 0x400, 1, 0, 4, 2, 36, 0, [⟨24, 8, .rw⟩, ⟨16, 8, .rw⟩, ⟨8, 8, .rw⟩, ⟨0, 8, .rw⟩]⟩,
  -- HC_DET
  ⟨0x100024, 144, 0x400, 1, 0, 4, 2, 36, 0x400208, [⟨16, 8, .rw⟩, ⟨8, 2, .rw⟩, ⟨0, 4, .rw⟩]⟩,
  -- HC_SYNC
  ⟨0x100028, 144, 0x400, 1, 0, 4, 2, 36, 0x40060210, [⟨24, 8, .rw⟩, ⟨16, 6, .rw⟩, ⟨8, 5, .rw⟩, ⟨4, 4, .rw⟩]⟩,
  -- HC_TA
  ⟨0x10002C, 144, 0x400, 1, 0, 4, 2, 36, 0xC080401, [⟨24, 8, .rw⟩, ⟨16, 8, .rw⟩, ⟨8, 8, .rw⟩, ⟨0, 1, .rw⟩]⟩,
  -- HC_HTR
  ⟨0x100030, 144, 0x400, 1, 0, 4, 2, 36, 0x6400, [⟨24, 8, .rw⟩, ⟨16, 8, .rw⟩, ⟨8, 8, .rw⟩, ⟨0, 8, .rwl⟩]⟩,
  -- HC_WR
  ⟨0x100034, 144, 0x400, 1, 0, 4, 2, 36, 0, [⟨24, 8, .rw⟩, ⟨16, 8, .rw⟩, ⟨12, 4, .rw⟩, ⟨0, 5, .rw⟩]⟩,
  -- HC_RETRY
  ⟨0x100038, 144, 0x400, 1, 0, 4, 2, 36, 0x7000C04, [⟨24, 4, .rw⟩, ⟨8, 8, .rw⟩, ⟨0, 8, .rw⟩]⟩,
  -- HC_FLT
  ⟨0x10003C, 144, 0x400, 1, 0, 4, 2, 36, 0, [⟨24, 8, .ro⟩, ⟨23, 1, .w1p⟩, ⟨7, 1, .w1c⟩, ⟨6, 1, .w1c⟩, ⟨5, 1, .w1c⟩, ⟨4, 1, .w1c⟩, ⟨3, 1, .w1c⟩, ⟨2, 1, .w1c⟩, ⟨1, 1, .w1c⟩, ⟨0, 1, .w1c⟩]⟩,
  -- HC_RECOV_LO
  ⟨0x100040, 144, 0x400, 1, 0, 4, 2, 36, 0, [⟨0, 32, .ro⟩]⟩,
  -- HC_RECOV_HI
  ⟨0x100044, 144, 0x400, 1, 0, 4, 2, 36, 0, [⟨31, 1, .w1c⟩, ⟨0, 16, .ro⟩]⟩,
  -- HC_PA_STATE
  ⟨0x124000, 16, 4, 1, 0, 4, 2, 4, 0, [⟨3, 1, .ro⟩, ⟨2, 1, .ro⟩, ⟨0, 2, .ro⟩]⟩,
  -- HC_PA_RAW_TX
  ⟨0x124100, 16, 8, 1, 0, 4, 2, 4, 0, [⟨0, 32, .wo⟩]⟩,
  -- HC_PA_RAW_RX
  ⟨0x124104, 16, 8, 1, 0, 4, 2, 4, 0, [⟨0, 32, .ro⟩]⟩,
  -- HC_GCTL
  ⟨0x124300, 1, 0, 1, 0, 4, 0, 0, 0, [⟨4, 4, .ro⟩, ⟨0, 4, .w1p⟩]⟩]

/-- Registers of block 5 (R497), without its violation pair and fault group. -/
def regRows5 : List RegRow := [
  -- DEC_CFG
  ⟨0x140000, 1, 0, 1, 0, 5, 6, 0, 0xC061F30, [⟨24, 5, .rw⟩, ⟨16, 5, .rw⟩, ⟨8, 5, .rw⟩, ⟨0, 8, .rw⟩]⟩,
  -- DEC_STATUS
  ⟨0x140004, 1, 0, 1, 0, 5, 6, 0, 0, [⟨24, 7, .ro⟩, ⟨16, 7, .ro⟩, ⟨0, 8, .ro⟩]⟩,
  -- DEC_CW_LO
  ⟨0x140010, 1, 0, 1, 0, 5, 6, 0, 0, [⟨0, 32, .ro⟩]⟩,
  -- DEC_CW_HI
  ⟨0x140014, 1, 0, 1, 0, 5, 6, 0, 0, [⟨31, 1, .w1c⟩, ⟨0, 16, .ro⟩]⟩,
  -- DEC_FAIL_LO
  ⟨0x140018, 1, 0, 1, 0, 5, 6, 0, 0, [⟨0, 32, .ro⟩]⟩,
  -- DEC_FAIL_HI
  ⟨0x14001C, 1, 0, 1, 0, 5, 6, 0, 0, [⟨31, 1, .w1c⟩, ⟨0, 16, .ro⟩]⟩,
  -- DEC_OFFLINE
  ⟨0x140020, 2, 4, 1, 0, 5, 6, 0, 0, [⟨0, 32, .rw⟩]⟩,
  -- DEC_OFFLINE[2]: bits 31 to 16 are reserved
  ⟨0x140028, 1, 4, 1, 0, 5, 6, 0, 0, [⟨0, 16, .rw⟩]⟩]

/-- Registers of block 6 (R497), without its violation pair and fault group. -/
def regRows6 : List RegRow := [
  -- FS_CTL
  ⟨0x150000, 4, 0x1000, 1, 0, 6, 2, 1, 0, [⟨2, 1, .w1p⟩, ⟨1, 1, .w1p⟩, ⟨0, 1, .rw⟩]⟩,
  -- FS_STATUS
  ⟨0x150004, 4, 0x1000, 1, 0, 6, 2, 1, 0, [⟨24, 8, .ro⟩, ⟨16, 8, .ro⟩, ⟨4, 6, .ro⟩, ⟨3, 1, .ro⟩, ⟨2, 1, .ro⟩, ⟨0, 2, .ro⟩]⟩,
  -- FS_PC
  ⟨0x150008, 4, 0x1000, 1, 0, 6, 2, 1, 0, [⟨0, 13, .ro⟩]⟩,
  -- FS_CS_CTL
  ⟨0x15000C, 4, 0x1000, 1, 0, 6, 2, 1, 0, [⟨1, 1, .rw⟩, ⟨0, 1, .rwl⟩]⟩,
  -- FS_ZT_CTL
  ⟨0x150010, 4, 0x1000, 1, 0, 6, 2, 1, 0, [⟨1, 1, .w1c⟩, ⟨0, 1, .w1p⟩]⟩,
  -- FS_SRV_CFG
  ⟨0x150014, 4, 0x1000, 1, 0, 6, 2, 1, 0x2004007B, [⟨24, 8, .rw⟩, ⟨16, 4, .rw⟩, ⟨0, 10, .rw⟩]⟩,
  -- FS_SETTLE
  ⟨0x150018, 4, 0x1000, 1, 0, 6, 2, 1, 0x40066, [⟨16, 4, .rw⟩, ⟨0, 10, .rw⟩]⟩,
  -- FS_RING_FILL
  ⟨0x15001C, 4, 0x1000, 1, 0, 6, 2, 1, 0, [⟨0, 32, .rw⟩]⟩,
  -- FS_RING_FREE
  ⟨0x150020, 4, 0x1000, 1, 0, 6, 2, 1, 0, [⟨0, 32, .rw⟩]⟩,
  -- FS_MCHK
  ⟨0x150024, 4, 0x1000, 1, 0, 6, 2, 1, 0, [⟨31, 1, .w1c⟩, ⟨30, 1, .ro⟩, ⟨16, 13, .ro⟩, ⟨8, 8, .ro⟩, ⟨0, 4, .ro⟩]⟩,
  -- FS_MCHK_TIME
  ⟨0x150028, 4, 0x1000, 1, 0, 6, 2, 1, 0, [⟨0, 32, .ro⟩]⟩,
  -- FS_TRC_CTL
  ⟨0x150030, 4, 0x1000, 1, 0, 6, 2, 1, 0, [⟨3, 1, .ro⟩, ⟨2, 1, .rw⟩, ⟨1, 1, .rw⟩, ⟨0, 1, .rw⟩]⟩,
  -- FS_TRC_IDX
  ⟨0x150034, 4, 0x1000, 1, 0, 6, 2, 1, 0, [⟨16, 10, .ro⟩, ⟨0, 10, .rw⟩]⟩,
  -- FS_TRC_DATA_LO
  ⟨0x150038, 4, 0x1000, 1, 0, 6, 2, 1, 0, [⟨0, 32, .ro⟩]⟩,
  -- FS_TRC_DATA_HI
  ⟨0x15003C, 4, 0x1000, 1, 0, 6, 2, 1, 0, [⟨0, 32, .ro⟩]⟩,
  -- FS_BANDS_LO
  ⟨0x150040, 4, 0x1000, 1, 0, 6, 2, 1, 0, [⟨0, 32, .ro⟩]⟩,
  -- FS_BANDS_HI
  ⟨0x150044, 4, 0x1000, 1, 0, 6, 2, 1, 0, [⟨31, 1, .w1c⟩, ⟨0, 16, .ro⟩]⟩,
  -- FS_WEDGE_MISS_LO
  ⟨0x150048, 4, 0x1000, 1, 0, 6, 2, 1, 0, [⟨0, 32, .ro⟩]⟩,
  -- FS_WEDGE_MISS_HI
  ⟨0x15004C, 4, 0x1000, 1, 0, 6, 2, 1, 0, [⟨31, 1, .w1c⟩, ⟨0, 16, .ro⟩]⟩,
  -- FS_TRAP
  ⟨0x150100, 4, 0x1000, 64, 4, 6, 2, 1, 0, [⟨31, 1, .rwl⟩, ⟨16, 13, .rwl⟩, ⟨0, 12, .rwl⟩]⟩,
  -- FS_SRV_HEAD
  ⟨0x150200, 4, 0x1000, 36, 4, 6, 2, 1, 0, [⟨22, 10, .ro⟩, ⟨16, 6, .ro⟩, ⟨0, 16, .ro⟩]⟩,
  -- FS_SRV_HSTAT
  ⟨0x150300, 4, 0x1000, 36, 4, 6, 2, 1, 0, [⟨1, 4, .ro⟩, ⟨0, 1, .ro⟩]⟩]

/-- Registers of block 8 (R497), without its violation pair and fault group. -/
def regRows8 : List RegRow := [
  -- CLE_CTL
  ⟨0x200000, 1, 0, 1, 0, 8, 7, 0, 0, [⟨0, 1, .w1p⟩]⟩,
  -- CLE_STATUS
  ⟨0x200004, 1, 0, 1, 0, 8, 7, 0, 0, [⟨2, 1, .ro⟩, ⟨1, 1, .ro⟩, ⟨0, 1, .w1c⟩]⟩,
  -- CLE_OVERRUN_LO
  ⟨0x200008, 1, 0, 1, 0, 8, 7, 0, 0, [⟨0, 32, .ro⟩]⟩,
  -- CLE_OVERRUN_HI
  ⟨0x20000C, 1, 0, 1, 0, 8, 7, 0, 0, [⟨31, 1, .w1c⟩, ⟨0, 16, .ro⟩]⟩,
  -- CLE_LOOP
  ⟨0x200100, 9, 4, 1, 0, 8, 7, 0, 0, [⟨4, 1, .w1c⟩, ⟨3, 1, .rw⟩, ⟨2, 1, .ro⟩, ⟨1, 1, .w1p⟩, ⟨0, 1, .ro⟩]⟩,
  -- CLE_COEF
  ⟨0x201000, 18, 0x100, 64, 4, 8, 7, 0, 0, [⟨0, 32, .rw⟩]⟩,
  -- SPN_CTL
  ⟨0x204000, 1, 0, 1, 0, 8, 7, 0, 0x1C20, [⟨17, 1, .w1p⟩, ⟨16, 1, .rw⟩, ⟨0, 16, .rw⟩]⟩,
  -- SPN_STATUS
  ⟨0x204004, 1, 0, 1, 0, 8, 7, 0, 0, [⟨16, 16, .ro⟩, ⟨11, 1, .ro⟩, ⟨10, 1, .ro⟩, ⟨9, 1, .ro⟩, ⟨8, 1, .ro⟩, ⟨7, 1, .ro⟩, ⟨4, 3, .ro⟩, ⟨0, 4, .ro⟩]⟩,
  -- SPN_ANGLE
  ⟨0x204008, 1, 0, 1, 0, 8, 7, 0, 0, [⟨0, 20, .ro⟩]⟩,
  -- SPN_IQD
  ⟨0x20400C, 1, 0, 1, 0, 8, 7, 0, 0, [⟨16, 16, .ro⟩, ⟨0, 16, .ro⟩]⟩,
  -- SPN_PWM
  ⟨0x204010, 1, 0, 1, 0, 8, 7, 0, 0x509C4, [⟨16, 8, .rw⟩, ⟨0, 12, .rw⟩]⟩,
  -- SPN_CUR_PI
  ⟨0x204014, 1, 0, 1, 0, 8, 7, 0, 0x8000040, [⟨16, 16, .rw⟩, ⟨0, 16, .rw⟩]⟩,
  -- SPN_SS
  ⟨0x204018, 1, 0, 1, 0, 8, 7, 0, 0x4012C, [⟨16, 4, .rw⟩, ⟨0, 10, .rw⟩]⟩,
  -- SPN_XCHK
  ⟨0x20401C, 1, 0, 1, 0, 8, 7, 0, 0x1E0F, [⟨8, 8, .rw⟩, ⟨0, 8, .rw⟩]⟩,
  -- SPN_WEDGE_OFS
  ⟨0x204020, 1, 0, 1, 0, 8, 7, 0, 0, [⟨0, 20, .rw⟩]⟩,
  -- SPN_LIMITS
  ⟨0x204024, 1, 0, 1, 0, 8, 7, 0, 0x1F4, [⟨16, 12, .rw⟩, ⟨0, 12, .rwl⟩]⟩,
  -- SPN_BRAKE
  ⟨0x204028, 1, 0, 1, 0, 8, 7, 0, 0x3E8, [⟨0, 12, .rw⟩]⟩,
  -- SPN_FAULT
  ⟨0x20402C, 1, 0, 1, 0, 8, 7, 0, 0, [⟨6, 1, .w1c⟩, ⟨5, 1, .w1c⟩, ⟨4, 1, .w1c⟩, ⟨3, 1, .w1c⟩, ⟨2, 1, .w1c⟩, ⟨1, 1, .w1c⟩, ⟨0, 1, .w1c⟩]⟩,
  -- SPN_SS_PRED_LO
  ⟨0x204030, 1, 0, 1, 0, 8, 7, 0, 0, [⟨0, 32, .ro⟩]⟩,
  -- SPN_SS_PRED_HI
  ⟨0x204034, 1, 0, 1, 0, 8, 7, 0, 0, [⟨31, 1, .w1c⟩, ⟨0, 16, .ro⟩]⟩,
  -- VCM_CTL
  ⟨0x205000, 4, 0x100, 1, 0, 8, 7, 0, 0, [⟨1, 1, .w1p⟩, ⟨0, 1, .rw⟩]⟩,
  -- VCM_STATUS
  ⟨0x205004, 4, 0x100, 1, 0, 8, 7, 0, 6, [⟨8, 24, .ro⟩, ⟨5, 1, .ro⟩, ⟨4, 1, .ro⟩, ⟨3, 1, .ro⟩, ⟨0, 3, .ro⟩]⟩,
  -- VCM_TARGET
  ⟨0x205008, 4, 0x100, 1, 0, 8, 7, 0, 0, [⟨0, 24, .ro⟩]⟩,
  -- VCM_IMEAS
  ⟨0x20500C, 4, 0x100, 1, 0, 8, 7, 0, 0, [⟨16, 16, .ro⟩, ⟨0, 16, .ro⟩]⟩,
  -- VCM_CUR_PI
  ⟨0x205010, 4, 0x100, 1, 0, 8, 7, 0, 0x10000100, [⟨16, 16, .rw⟩, ⟨0, 16, .rw⟩]⟩,
  -- VCM_UNSAFE_CFG
  ⟨0x205014, 4, 0x100, 1, 0, 8, 7, 0, 0x3204, [⟨8, 8, .rw⟩, ⟨0, 8, .rw⟩]⟩,
  -- VCM_RET_CFG
  ⟨0x205018, 4, 0x100, 1, 0, 8, 7, 0, 0xF28012C, [⟨24, 8, .rwl⟩, ⟨16, 8, .rwl⟩, ⟨0, 12, .rwl⟩]⟩,
  -- VCM_RET_KB
  ⟨0x20501C, 4, 0x100, 1, 0, 8, 7, 0, 0x1000100, [⟨16, 16, .rwl⟩, ⟨0, 16, .rwl⟩]⟩,
  -- VCM_SEEK_CFG
  ⟨0x205020, 4, 0x100, 1, 0, 8, 7, 0, 0x4000200, [⟨16, 16, .rw⟩, ⟨0, 16, .rw⟩]⟩,
  -- VCM_FAULT
  ⟨0x205024, 4, 0x100, 1, 0, 8, 7, 0, 0, [⟨4, 1, .w1c⟩, ⟨3, 1, .w1c⟩, ⟨2, 1, .w1c⟩, ⟨1, 1, .w1c⟩, ⟨0, 1, .w1c⟩]⟩,
  -- MA_CMD
  ⟨0x206000, 144, 8, 1, 0, 8, 7, 0, 0, [⟨16, 16, .ro⟩, ⟨0, 1, .ro⟩]⟩,
  -- MA_CFG
  ⟨0x206004, 144, 8, 1, 0, 8, 7, 0, 0x40000001, [⟨16, 16, .rw⟩, ⟨0, 1, .rw⟩]⟩,
  -- FAN_CTL
  ⟨0x207000, 4, 0x20, 1, 0, 8, 7, 0, 0x200000, [⟨20, 4, .rw⟩, ⟨16, 1, .rw⟩, ⟨0, 12, .rw⟩]⟩,
  -- FAN_STATUS
  ⟨0x207004, 4, 0x20, 1, 0, 8, 7, 0, 0, [⟨16, 16, .ro⟩, ⟨6, 1, .ro⟩, ⟨3, 3, .ro⟩, ⟨0, 3, .ro⟩]⟩,
  -- FAN_FAULT
  ⟨0x207008, 4, 0x20, 1, 0, 8, 7, 0, 0, [⟨3, 1, .w1c⟩, ⟨2, 1, .w1c⟩, ⟨1, 1, .w1c⟩, ⟨0, 1, .w1c⟩]⟩,
  -- VCM_BIAS
  ⟨0x208000, 4, 0x400, 128, 4, 8, 7, 0, 0, [⟨0, 32, .rw⟩]⟩,
  -- VCM_FRIC
  ⟨0x209000, 4, 0x80, 32, 4, 8, 7, 0, 0, [⟨0, 32, .rw⟩]⟩,
  -- SPN_COG
  ⟨0x20A000, 1536, 4, 1, 0, 8, 7, 0, 0, [⟨0, 32, .rw⟩]⟩]

/-- Registers of block 9 (R497), without its violation pair and fault group. -/
def regRows9 : List RegRow := [
  -- FC_CTL
  ⟨0x300000, 32, 0x1000, 1, 0, 9, 8, 0, 2, [⟨1, 1, .rw⟩, ⟨0, 1, .rw⟩]⟩,
  -- FC_STATUS
  ⟨0x300004, 32, 0x1000, 1, 0, 9, 8, 0, 0, [⟨24, 5, .ro⟩, ⟨16, 8, .ro⟩, ⟨7, 1, .ro⟩, ⟨6, 1, .ro⟩, ⟨0, 3, .ro⟩]⟩,
  -- FC_RATE
  ⟨0x300008, 32, 0x1000, 1, 0, 9, 8, 0, 0, [⟨0, 16, .ro⟩]⟩,
  -- FC_ERR
  ⟨0x30000C, 32, 0x1000, 1, 0, 9, 8, 0, 0, [⟨7, 1, .w1c⟩, ⟨6, 1, .w1c⟩, ⟨5, 1, .w1c⟩, ⟨4, 1, .w1c⟩, ⟨3, 1, .w1c⟩, ⟨2, 1, .w1c⟩, ⟨1, 1, .w1c⟩, ⟨0, 1, .w1c⟩]⟩,
  -- FC_PROG_LO
  ⟨0x300010, 32, 0x1000, 1, 0, 9, 8, 0, 0, [⟨0, 32, .ro⟩]⟩,
  -- FC_PROG_HI
  ⟨0x300014, 32, 0x1000, 1, 0, 9, 8, 0, 0, [⟨31, 1, .w1c⟩, ⟨0, 16, .ro⟩]⟩,
  -- FC_RETRY_LO
  ⟨0x300018, 32, 0x1000, 1, 0, 9, 8, 0, 0, [⟨0, 32, .ro⟩]⟩,
  -- FC_RETRY_HI
  ⟨0x30001C, 32, 0x1000, 1, 0, 9, 8, 0, 0, [⟨31, 1, .w1c⟩, ⟨0, 16, .ro⟩]⟩,
  -- FC_DIE
  ⟨0x300040, 32, 0x1000, 16, 4, 9, 8, 0, 0, [⟨16, 12, .ro⟩, ⟨8, 8, .ro⟩, ⟨0, 3, .ro⟩]⟩]

/-- Registers of block 10 (R497), without its violation pair and fault group. -/
def regRows10 : List RegRow := [
  -- FPM_BASE_LO
  ⟨0x340000, 2, 0x10, 1, 0, 10, 8, 0, 0, [⟨0, 32, .rw⟩]⟩,
  -- FPM_BASE_HI
  ⟨0x340004, 2, 0x10, 1, 0, 10, 8, 0, 0, [⟨0, 32, .rw⟩]⟩,
  -- FPM_LFPS_LO
  ⟨0x340008, 2, 0x10, 1, 0, 10, 8, 0, 0, [⟨0, 32, .rw⟩]⟩,
  -- FPM_LFPS_HI: bits 31 to 2 are reserved
  ⟨0x34000C, 2, 0x10, 1, 0, 10, 8, 0, 0, [⟨0, 2, .rw⟩]⟩,
  -- FPM_STATUS
  ⟨0x340020, 1, 0, 1, 0, 10, 8, 0, 0, [⟨0, 2, .ro⟩]⟩,
  -- RACK_CTL
  ⟨0x340100, 1, 0, 1, 0, 10, 8, 0, 0x3F, [⟨5, 1, .rw⟩, ⟨4, 1, .rw⟩, ⟨0, 4, .rw⟩]⟩,
  -- RACK_STATUS
  ⟨0x340104, 1, 0, 1, 0, 10, 8, 0, 0, [⟨16, 8, .ro⟩, ⟨8, 4, .ro⟩, ⟨2, 1, .ro⟩, ⟨1, 1, .ro⟩, ⟨0, 1, .ro⟩]⟩,
  -- RACK_GC_CFG
  ⟨0x340108, 1, 0, 1, 0, 10, 8, 0, 0x50A01F4, [⟨24, 8, .rw⟩, ⟨16, 8, .rw⟩, ⟨0, 16, .rw⟩]⟩,
  -- RACK_COOL_CFG
  ⟨0x34010C, 1, 0, 1, 0, 10, 8, 0, 0x55463214, [⟨24, 8, .rw⟩, ⟨16, 8, .rw⟩, ⟨8, 8, .rw⟩, ⟨0, 8, .rw⟩]⟩,
  -- RACK_WARM_CFG
  ⟨0x340110, 1, 0, 1, 0, 10, 8, 0, 0xE100008, [⟨16, 16, .rw⟩, ⟨0, 8, .rw⟩]⟩,
  -- RACK_RESERVE
  ⟨0x340114, 1, 0, 1, 0, 10, 8, 0, 0x400010, [⟨16, 16, .rw⟩, ⟨0, 16, .rwl⟩]⟩,
  -- RACK_PATROL
  ⟨0x340118, 1, 0, 1, 0, 10, 8, 0, 0x1E, [⟨0, 8, .rw⟩]⟩,
  -- RACK_MOVED_LO
  ⟨0x340120, 1, 0, 1, 0, 10, 8, 0, 0, [⟨0, 32, .ro⟩]⟩,
  -- RACK_MOVED_HI
  ⟨0x340124, 1, 0, 1, 0, 10, 8, 0, 0, [⟨31, 1, .w1c⟩, ⟨0, 16, .ro⟩]⟩,
  -- RACK_RESTART_LO
  ⟨0x340128, 1, 0, 1, 0, 10, 8, 0, 0, [⟨0, 32, .ro⟩]⟩,
  -- RACK_RESTART_HI
  ⟨0x34012C, 1, 0, 1, 0, 10, 8, 0, 0, [⟨31, 1, .w1c⟩, ⟨0, 16, .ro⟩]⟩,
  -- FPM_GCTL
  ⟨0x340130, 1, 0, 1, 0, 10, 8, 0, 0, [⟨1, 1, .ro⟩, ⟨0, 1, .w1p⟩]⟩]

/-- Registers of block 11 (R497), without its violation pair and fault group. -/
def regRows11 : List RegRow := [
  -- RED_CTL
  ⟨0x380000, 1, 0, 1, 0, 11, 9, 0, 0, [⟨2, 1, .w1p⟩, ⟨1, 1, .rw⟩, ⟨0, 1, .rw⟩]⟩,
  -- RED_STATUS
  ⟨0x380004, 1, 0, 1, 0, 11, 9, 0, 0x940, [⟨8, 4, .ro⟩, ⟨4, 4, .ro⟩, ⟨2, 1, .ro⟩, ⟨1, 1, .ro⟩, ⟨0, 1, .ro⟩]⟩,
  -- RED_BACKLOG_CFG
  ⟨0x380008, 1, 0, 1, 0, 11, 9, 0, 0x1000200, [⟨16, 16, .rw⟩, ⟨0, 16, .rw⟩]⟩,
  -- RED_CFG
  ⟨0x38000C, 1, 0, 1, 0, 11, 9, 0, 0x200, [⟨0, 13, .rw⟩]⟩,
  -- RED_FLT_COUNT
  ⟨0x380010, 2, 4, 1, 0, 11, 9, 0, 0, [⟨0, 20, .ro⟩]⟩,
  -- RED_UNREDUCED
  ⟨0x380018, 1, 0, 1, 0, 11, 9, 0, 0, [⟨0, 32, .ro⟩]⟩,
  -- RED_CHUNKS_LO
  ⟨0x380020, 1, 0, 1, 0, 11, 9, 0, 0, [⟨0, 32, .ro⟩]⟩,
  -- RED_CHUNKS_HI
  ⟨0x380024, 1, 0, 1, 0, 11, 9, 0, 0, [⟨31, 1, .w1c⟩, ⟨0, 16, .ro⟩]⟩,
  -- RED_DEDUP_INLINE_LO
  ⟨0x380028, 1, 0, 1, 0, 11, 9, 0, 0, [⟨0, 32, .ro⟩]⟩,
  -- RED_DEDUP_INLINE_HI
  ⟨0x38002C, 1, 0, 1, 0, 11, 9, 0, 0, [⟨31, 1, .w1c⟩, ⟨0, 16, .ro⟩]⟩,
  -- RED_DEDUP_DEFER_LO
  ⟨0x380030, 1, 0, 1, 0, 11, 9, 0, 0, [⟨0, 32, .ro⟩]⟩,
  -- RED_DEDUP_DEFER_HI
  ⟨0x380034, 1, 0, 1, 0, 11, 9, 0, 0, [⟨31, 1, .w1c⟩, ⟨0, 16, .ro⟩]⟩,
  -- RED_FLT_FALSE_LO
  ⟨0x380038, 1, 0, 1, 0, 11, 9, 0, 0, [⟨0, 32, .ro⟩]⟩,
  -- RED_FLT_FALSE_HI
  ⟨0x38003C, 1, 0, 1, 0, 11, 9, 0, 0, [⟨31, 1, .w1c⟩, ⟨0, 16, .ro⟩]⟩,
  -- RED_COLLIDE_LO
  ⟨0x380040, 1, 0, 1, 0, 11, 9, 0, 0, [⟨0, 32, .ro⟩]⟩,
  -- RED_COLLIDE_HI
  ⟨0x380044, 1, 0, 1, 0, 11, 9, 0, 0, [⟨31, 1, .w1c⟩, ⟨0, 16, .ro⟩]⟩,
  -- RED_RAW_LO
  ⟨0x380048, 1, 0, 1, 0, 11, 9, 0, 0, [⟨0, 32, .ro⟩]⟩,
  -- RED_RAW_HI
  ⟨0x38004C, 1, 0, 1, 0, 11, 9, 0, 0, [⟨31, 1, .w1c⟩, ⟨0, 16, .ro⟩]⟩,
  -- RED_STORED_KIB_LO
  ⟨0x380050, 1, 0, 1, 0, 11, 9, 0, 0, [⟨0, 32, .ro⟩]⟩,
  -- RED_STORED_KIB_HI
  ⟨0x380054, 1, 0, 1, 0, 11, 9, 0, 0, [⟨31, 1, .w1c⟩, ⟨0, 16, .ro⟩]⟩,
  -- RED_DECODE_ERR_LO
  ⟨0x380058, 1, 0, 1, 0, 11, 9, 0, 0, [⟨0, 32, .ro⟩]⟩,
  -- RED_DECODE_ERR_HI
  ⟨0x38005C, 1, 0, 1, 0, 11, 9, 0, 0, [⟨31, 1, .w1c⟩, ⟨0, 16, .ro⟩]⟩,
  -- RED_ERR_LOC_LO
  ⟨0x380060, 1, 0, 1, 0, 11, 9, 0, 0, [⟨0, 32, .ro⟩]⟩,
  -- RED_ERR_LOC_HI
  ⟨0x380064, 1, 0, 1, 0, 11, 9, 0, 0, [⟨0, 32, .ro⟩]⟩,
  -- RED_ERR_LOG
  ⟨0x380068, 1, 0, 1, 0, 11, 9, 0, 0, [⟨31, 1, .w1c⟩, ⟨16, 8, .ro⟩, ⟨0, 16, .ro⟩]⟩]

/-- Registers of block 12 (R497), without its violation pair and fault group. -/
def regRows12 : List RegRow := [
  -- Q_DB
  ⟨0x400000, 256, 0x100, 1, 0, 12, 10, 0, 0, [⟨2, 3, .wo⟩, ⟨1, 1, .wo⟩, ⟨0, 1, .wo⟩]⟩,
  -- Q_CTL
  ⟨0x400004, 256, 0x100, 1, 0, 12, 10, 0, 0, [⟨16, 11, .ro⟩, ⟨9, 1, .ro⟩, ⟨8, 1, .ro⟩, ⟨4, 1, .rw⟩, ⟨3, 1, .rw⟩, ⟨2, 1, .w1p⟩, ⟨1, 1, .w1p⟩, ⟨0, 1, .w1p⟩]⟩,
  -- Q_STATUS
  ⟨0x400008, 256, 0x100, 1, 0, 12, 10, 0, 0, [⟨16, 16, .ro⟩, ⟨8, 7, .ro⟩, ⟨7, 1, .ro⟩, ⟨6, 1, .ro⟩, ⟨5, 1, .ro⟩, ⟨4, 1, .w1c⟩, ⟨3, 1, .w1c⟩, ⟨0, 3, .ro⟩]⟩]

/-- Registers of block 13 (R497), without its violation pair and fault group. -/
def regRows13 : List RegRow := [
  -- SLU_STATUS
  ⟨0x420000, 1, 0, 1, 0, 13, 10, 0, 0, [⟨16, 11, .ro⟩, ⟨0, 14, .ro⟩]⟩,
  -- SLU_HWM
  ⟨0x420004, 1, 0, 1, 0, 13, 10, 0, 0, [⟨31, 1, .w1p⟩, ⟨16, 11, .ro⟩, ⟨0, 14, .ro⟩]⟩,
  -- SLU_FLAGS
  ⟨0x420008, 1, 0, 1, 0, 13, 10, 0, 0, [⟨1, 1, .w1c⟩, ⟨0, 1, .w1c⟩]⟩,
  -- SLU_CONFLICT_LO
  ⟨0x420010, 1, 0, 1, 0, 13, 10, 0, 0, [⟨0, 32, .ro⟩]⟩,
  -- SLU_CONFLICT_HI
  ⟨0x420014, 1, 0, 1, 0, 13, 10, 0, 0, [⟨31, 1, .w1c⟩, ⟨0, 16, .ro⟩]⟩,
  -- SLU_HELD_LO
  ⟨0x420018, 1, 0, 1, 0, 13, 10, 0, 0, [⟨0, 32, .ro⟩]⟩,
  -- SLU_HELD_HI
  ⟨0x42001C, 1, 0, 1, 0, 13, 10, 0, 0, [⟨31, 1, .w1c⟩, ⟨0, 16, .ro⟩]⟩,
  -- NVM_STATUS
  ⟨0x420100, 1, 0, 1, 0, 13, 10, 0, 0, [⟨16, 14, .ro⟩, ⟨8, 8, .ro⟩, ⟨0, 1, .ro⟩]⟩,
  -- NVM_ANA
  ⟨0x420110, 2, 4, 1, 0, 13, 10, 0, 3, [⟨0, 3, .ro⟩]⟩]

/-- Registers of block 14 (R497), without its violation pair and fault group. -/
def regRows14 : List RegRow := [
  -- FAB_STATUS
  ⟨0x500000, 1, 0, 1, 0, 14, 11, 0, 0, [⟨8, 8, .ro⟩, ⟨0, 3, .ro⟩]⟩,
  -- FAB_CONN
  ⟨0x500004, 1, 0, 1, 0, 14, 11, 0, 0, [⟨16, 14, .ro⟩, ⟨0, 11, .ro⟩]⟩,
  -- FAB_P_STATUS
  ⟨0x500100, 8, 0x40, 1, 0, 14, 11, 0, 2, [⟨10, 1, .ro⟩, ⟨8, 2, .ro⟩, ⟨4, 4, .ro⟩, ⟨3, 1, .w1c⟩, ⟨2, 1, .w1c⟩, ⟨1, 1, .rw⟩, ⟨0, 1, .ro⟩]⟩,
  -- FAB_P_TXTS_LO
  ⟨0x500104, 8, 0x40, 1, 0, 14, 11, 0, 0, [⟨0, 32, .ro⟩]⟩,
  -- FAB_P_TXTS_HI
  ⟨0x500108, 8, 0x40, 1, 0, 14, 11, 0, 0, [⟨0, 32, .ro⟩]⟩,
  -- FAB_P_TXTS_INFO
  ⟨0x50010C, 8, 0x40, 1, 0, 14, 11, 0, 0, [⟨31, 1, .w1c⟩, ⟨0, 16, .ro⟩]⟩,
  -- FAB_P_RX_LO
  ⟨0x500110, 8, 0x40, 1, 0, 14, 11, 0, 0, [⟨0, 32, .ro⟩]⟩,
  -- FAB_P_RX_HI
  ⟨0x500114, 8, 0x40, 1, 0, 14, 11, 0, 0, [⟨31, 1, .w1c⟩, ⟨0, 16, .ro⟩]⟩,
  -- FAB_P_TX_LO
  ⟨0x500118, 8, 0x40, 1, 0, 14, 11, 0, 0, [⟨0, 32, .ro⟩]⟩,
  -- FAB_P_TX_HI
  ⟨0x50011C, 8, 0x40, 1, 0, 14, 11, 0, 0, [⟨31, 1, .w1c⟩, ⟨0, 16, .ro⟩]⟩,
  -- FAB_P_RXERR_LO
  ⟨0x500120, 8, 0x40, 1, 0, 14, 11, 0, 0, [⟨0, 32, .ro⟩]⟩,
  -- FAB_P_RXERR_HI
  ⟨0x500124, 8, 0x40, 1, 0, 14, 11, 0, 0, [⟨31, 1, .w1c⟩, ⟨0, 16, .ro⟩]⟩,
  -- FAB_P_FECC_LO
  ⟨0x500128, 8, 0x40, 1, 0, 14, 11, 0, 0, [⟨0, 32, .ro⟩]⟩,
  -- FAB_P_FECC_HI
  ⟨0x50012C, 8, 0x40, 1, 0, 14, 11, 0, 0, [⟨31, 1, .w1c⟩, ⟨0, 16, .ro⟩]⟩,
  -- FAB_LANE
  ⟨0x500400, 16, 4, 1, 0, 14, 11, 0, 0, [⟨8, 8, .ro⟩, ⟨2, 1, .ro⟩, ⟨1, 1, .ro⟩, ⟨0, 1, .ro⟩]⟩]

/-- Registers of block 15 (R497), without its violation pair and fault group. -/
def regRows15 : List RegRow := [
  -- NAL_STATUS
  ⟨0x540000, 1, 0, 1, 0, 15, 12, 0, 0, [⟨3, 3, .ro⟩, ⟨2, 1, .ro⟩, ⟨1, 1, .ro⟩, ⟨0, 1, .ro⟩]⟩,
  -- NAL_LANES
  ⟨0x540004, 1, 0, 1, 0, 15, 12, 0, 0, [⟨0, 16, .ro⟩]⟩,
  -- NAL_FENCE
  ⟨0x540008, 1, 0, 1, 0, 15, 12, 0, 0, [⟨3, 1, .w1c⟩, ⟨2, 1, .ro⟩, ⟨1, 1, .ro⟩, ⟨0, 1, .ro⟩]⟩,
  -- NAL_HB_SEQ_SKIP_LO
  ⟨0x540010, 1, 0, 1, 0, 15, 12, 0, 0, [⟨0, 32, .ro⟩]⟩,
  -- NAL_HB_SEQ_SKIP_HI
  ⟨0x540014, 1, 0, 1, 0, 15, 12, 0, 0, [⟨31, 1, .w1c⟩, ⟨0, 16, .ro⟩]⟩,
  -- NAL_REPLAY_LO
  ⟨0x540018, 1, 0, 1, 0, 15, 12, 0, 0, [⟨0, 32, .ro⟩]⟩,
  -- NAL_REPLAY_HI
  ⟨0x54001C, 1, 0, 1, 0, 15, 12, 0, 0, [⟨31, 1, .w1c⟩, ⟨0, 16, .ro⟩]⟩,
  -- NAL_TOKEN
  ⟨0x540100, 64, 4, 1, 0, 15, 12, 0, 0, [⟨18, 2, .ro⟩, ⟨17, 1, .ro⟩, ⟨16, 1, .ro⟩, ⟨0, 16, .ro⟩]⟩]

/-- Registers of block 16 (R497), without its violation pair and fault group. -/
def regRows16 : List RegRow := [
  -- DMA_CH_CTL
  ⟨0x580000, 16, 0x40, 1, 0, 16, 10, 0, 0, [⟨16, 11, .rw⟩, ⟨3, 1, .w1p⟩, ⟨2, 1, .w1p⟩, ⟨1, 1, .w1p⟩, ⟨0, 1, .rw⟩]⟩,
  -- DMA_CH_STATUS
  ⟨0x580004, 16, 0x40, 1, 0, 16, 10, 0, 0, [⟨16, 16, .ro⟩, ⟨0, 3, .ro⟩]⟩,
  -- DMA_CH_DESC
  ⟨0x580008, 16, 0x40, 1, 0, 16, 10, 0, 0, [⟨0, 32, .rw⟩]⟩,
  -- DMA_CH_DONE
  ⟨0x58000C, 16, 0x40, 1, 0, 16, 10, 0, 0, [⟨0, 32, .ro⟩]⟩,
  -- DMA_CH_ERR_ADDR_LO
  ⟨0x580010, 16, 0x40, 1, 0, 16, 10, 0, 0, [⟨0, 32, .ro⟩]⟩,
  -- DMA_CH_ERR_ADDR_HI
  ⟨0x580014, 16, 0x40, 1, 0, 16, 10, 0, 0, [⟨0, 32, .ro⟩]⟩,
  -- DMA_CH_BYTES
  ⟨0x580018, 16, 0x40, 1, 0, 16, 10, 0, 0, [⟨0, 32, .ro⟩]⟩,
  -- DMA_WIN_BASE_LO
  ⟨0x580400, 16, 0x10, 1, 0, 16, 10, 0, 0, [⟨0, 32, .rwl⟩]⟩,
  -- DMA_WIN_BASE_HI
  ⟨0x580404, 16, 0x10, 1, 0, 16, 10, 0, 0, [⟨0, 32, .rwl⟩]⟩,
  -- DMA_WIN_CTL
  ⟨0x580408, 16, 0x10, 1, 0, 16, 10, 0, 0, [⟨31, 1, .rwl⟩, ⟨30, 1, .rwl⟩, ⟨29, 1, .rwl⟩, ⟨24, 3, .rwl⟩, ⟨0, 6, .rwl⟩]⟩,
  -- DMA_GCTL
  ⟨0x580500, 1, 0, 1, 0, 16, 10, 0, 0, [⟨1, 1, .ro⟩, ⟨0, 1, .w1p⟩]⟩]

/-- Registers of block 17 (R497), without its violation pair and fault group. -/
def regRows17 : List RegRow := [
  -- TC_CTL
  ⟨0x600000, 1, 0, 1, 0, 17, 14, 0, 0x20000, [⟨17, 1, .rw⟩, ⟨16, 1, .rw⟩, ⟨0, 16, .rw⟩]⟩,
  -- TC_MAINT
  ⟨0x600004, 1, 0, 1, 0, 17, 14, 0, 0, [⟨28, 2, .wo⟩, ⟨24, 4, .wo⟩, ⟨0, 14, .wo⟩]⟩,
  -- TC_MAINT_ADDR_LO
  ⟨0x600008, 1, 0, 1, 0, 17, 14, 0, 0, [⟨0, 32, .rw⟩]⟩,
  -- TC_MAINT_ADDR_HI
  ⟨0x60000C, 1, 0, 1, 0, 17, 14, 0, 0, [⟨0, 32, .rw⟩]⟩,
  -- TC_STATUS
  ⟨0x600010, 1, 0, 1, 0, 17, 14, 0, 0, [⟨1, 1, .w1c⟩, ⟨0, 1, .ro⟩]⟩,
  -- TC_HIT_LO
  ⟨0x600020, 1, 0, 1, 0, 17, 14, 0, 0, [⟨0, 32, .ro⟩]⟩,
  -- TC_HIT_HI
  ⟨0x600024, 1, 0, 1, 0, 17, 14, 0, 0, [⟨31, 1, .w1c⟩, ⟨0, 16, .ro⟩]⟩,
  -- TC_MISS_LO
  ⟨0x600028, 1, 0, 1, 0, 17, 14, 0, 0, [⟨0, 32, .ro⟩]⟩,
  -- TC_MISS_HI
  ⟨0x60002C, 1, 0, 1, 0, 17, 14, 0, 0, [⟨31, 1, .w1c⟩, ⟨0, 16, .ro⟩]⟩,
  -- TC_LOCK_INVAL_LO
  ⟨0x600030, 1, 0, 1, 0, 17, 14, 0, 0, [⟨0, 32, .ro⟩]⟩,
  -- TC_LOCK_INVAL_HI
  ⟨0x600034, 1, 0, 1, 0, 17, 14, 0, 0, [⟨31, 1, .w1c⟩, ⟨0, 16, .ro⟩]⟩,
  -- TC_UE_REFILL_LO
  ⟨0x600038, 1, 0, 1, 0, 17, 14, 0, 0, [⟨0, 32, .ro⟩]⟩,
  -- TC_UE_REFILL_HI
  ⟨0x60003C, 1, 0, 1, 0, 17, 14, 0, 0, [⟨31, 1, .w1c⟩, ⟨0, 16, .ro⟩]⟩,
  -- TC_FILL_DROP_LO
  ⟨0x600040, 1, 0, 1, 0, 17, 14, 0, 0, [⟨0, 32, .ro⟩]⟩,
  -- TC_FILL_DROP_HI
  ⟨0x600044, 1, 0, 1, 0, 17, 14, 0, 0, [⟨31, 1, .w1c⟩, ⟨0, 16, .ro⟩]⟩]

/-- Registers of block 18 (R497), without its violation pair and fault group. -/
def regRows18 : List RegRow := [
  -- ECC_CFG
  ⟨0x610000, 3, 0x200, 1, 0, 18, 14, 0, 0x4003C80, [⟨16, 16, .rw⟩, ⟨8, 8, .rw⟩, ⟨4, 4, .rw⟩, ⟨0, 1, .rw⟩]⟩,
  -- ECC_CFG
  ⟨0x610600, 2, 0x200, 1, 0, 18, 14, 0, 0x4003C81, [⟨16, 16, .rw⟩, ⟨8, 8, .rw⟩, ⟨4, 4, .rw⟩, ⟨0, 1, .rw⟩]⟩,
  -- ECC_STATUS
  ⟨0x610004, 5, 0x200, 1, 0, 18, 14, 0, 0, [⟨2, 1, .w1c⟩, ⟨1, 1, .w1c⟩, ⟨0, 1, .w1c⟩]⟩,
  -- ECC_CE_LO
  ⟨0x610008, 5, 0x200, 1, 0, 18, 14, 0, 0, [⟨0, 32, .ro⟩]⟩,
  -- ECC_CE_HI
  ⟨0x61000C, 5, 0x200, 1, 0, 18, 14, 0, 0, [⟨31, 1, .w1c⟩, ⟨0, 16, .ro⟩]⟩,
  -- ECC_UE_LO
  ⟨0x610010, 5, 0x200, 1, 0, 18, 14, 0, 0, [⟨0, 32, .ro⟩]⟩,
  -- ECC_UE_HI
  ⟨0x610014, 5, 0x200, 1, 0, 18, 14, 0, 0, [⟨31, 1, .w1c⟩, ⟨0, 16, .ro⟩]⟩,
  -- ECC_UE_ADDR_LO
  ⟨0x610018, 5, 0x200, 1, 0, 18, 14, 0, 0, [⟨0, 32, .ro⟩]⟩,
  -- ECC_UE_ADDR_HI
  ⟨0x61001C, 5, 0x200, 1, 0, 18, 14, 0, 0, [⟨0, 32, .ro⟩]⟩,
  -- ECC_UE_LOG
  ⟨0x610020, 5, 0x200, 1, 0, 18, 14, 0, 0, [⟨31, 1, .w1c⟩, ⟨16, 8, .ro⟩, ⟨0, 4, .ro⟩]⟩,
  -- ECC_LOG_ADDR_LO
  ⟨0x610100, 5, 0x200, 16, 0x10, 18, 14, 0, 0, [⟨0, 32, .ro⟩]⟩,
  -- ECC_LOG_ADDR_HI
  ⟨0x610104, 5, 0x200, 16, 0x10, 18, 14, 0, 0, [⟨0, 32, .ro⟩]⟩,
  -- ECC_LOG_INFO
  ⟨0x610108, 5, 0x200, 16, 0x10, 18, 14, 0, 0, [⟨31, 1, .w1c⟩, ⟨30, 1, .ro⟩, ⟨0, 8, .ro⟩]⟩,
  -- ECC_FILL_CTL
  ⟨0x610C00, 1, 0, 1, 0, 18, 14, 0, 0, [⟨3, 1, .ro⟩, ⟨2, 1, .ro⟩, ⟨1, 1, .w1p⟩, ⟨0, 1, .w1p⟩]⟩,
  -- ECC_FILL_PTR_LO
  ⟨0x610C04, 1, 0, 1, 0, 18, 14, 0, 0, [⟨0, 32, .ro⟩]⟩,
  -- ECC_FILL_PTR_HI
  ⟨0x610C08, 1, 0, 1, 0, 18, 14, 0, 0, [⟨0, 32, .ro⟩]⟩]

/-- Registers of block 19 (R497), without its violation pair and fault group. -/
def regRows19 : List RegRow := [
  -- VAT_STATUS
  ⟨0x620000, 1, 0, 1, 0, 19, 16, 0, 2, [⟨3, 1, .ro⟩, ⟨2, 1, .ro⟩, ⟨1, 1, .ro⟩, ⟨0, 1, .ro⟩]⟩,
  -- VAT_POOL
  ⟨0x620004, 1, 0, 1, 0, 19, 16, 0, 0, [⟨16, 16, .ro⟩, ⟨0, 16, .ro⟩]⟩,
  -- VAT_SEQ
  ⟨0x620010, 2, 4, 1, 0, 19, 16, 0, 0, [⟨0, 32, .ro⟩]⟩,
  -- VAT_MIRROR_ACK
  ⟨0x620018, 2, 4, 1, 0, 19, 16, 0, 0, [⟨0, 32, .ro⟩]⟩]

/-- Registers of block 20 (R497), without its violation pair and fault group. -/
def regRows20 : List RegRow := [
  -- DRC_STATUS
  ⟨0x630000, 1, 0, 1, 0, 20, 15, 0, 0, [⟨19, 13, .ro⟩, ⟨9, 10, .ro⟩, ⟨5, 4, .ro⟩, ⟨0, 3, .ro⟩]⟩,
  -- DRC_PATROL
  ⟨0x630004, 1, 0, 1, 0, 20, 15, 0, 0x18, [⟨0, 16, .rw⟩]⟩,
  -- DRC_RETIRED
  ⟨0x630008, 1, 0, 1, 0, 20, 15, 0, 0, [⟨0, 11, .ro⟩]⟩]

/-- The rows of one block. -/
def regRows : Nat → List RegRow
  | 0 => regRows0
  | 1 => regRows1
  | 2 => regRows2
  | 3 => regRows3
  | 4 => regRows4
  | 5 => regRows5
  | 6 => regRows6
  | 8 => regRows8
  | 9 => regRows9
  | 10 => regRows10
  | 11 => regRows11
  | 12 => regRows12
  | 13 => regRows13
  | 14 => regRows14
  | 15 => regRows15
  | 16 => regRows16
  | 17 => regRows17
  | 18 => regRows18
  | 19 => regRows19
  | 20 => regRows20
  | _ => []

/-- The address of the violation log pair of block `b` (R178, R497). -/
def violBase : Nat → Nat
  | 0 => 0xFF0
  | 1 => 0x18090
  | 2 => 0x20FF0
  | 3 => 0x30FF0
  | 4 => 0x124200
  | 5 => 0x1400F0
  | 6 => 0x154000
  | 7 => 0x1FFF00
  | 8 => 0x20FF00
  | 9 => 0x320000
  | 10 => 0x3400F0
  | 11 => 0x3800F0
  | 12 => 0x4000F0
  | 13 => 0x4200F0
  | 14 => 0x500FF0
  | 15 => 0x540FF0
  | 16 => 0x580510
  | 17 => 0x6000F0
  | 18 => 0x610FF0
  | 19 => 0x6200F0
  | 20 => 0x6300F0
  | _ => 0

/-- The base G of the fault group of block `b` (R478). -/
def groupBase : Nat → Nat
  | 0 => 0xF00
  | 1 => 0x180A0
  | 2 => 0x20F00
  | 3 => 0x30F00
  | 4 => 0x124210
  | 5 => 0x140100
  | 6 => 0x154010
  | 7 => 0x1FFF10
  | 8 => 0x20FF10
  | 9 => 0x320010
  | 10 => 0x340200
  | 11 => 0x380100
  | 12 => 0x4000C0
  | 13 => 0x420200
  | 14 => 0x500F00
  | 15 => 0x540F00
  | 16 => 0x580520
  | 17 => 0x600100
  | 18 => 0x610E00
  | 19 => 0x620100
  | 20 => 0x630100
  | _ => 0

/-! Register addresses, by the names of the spec. -/
namespace R
abbrev SUP_ID : Nat := 0
abbrev SUP_SERIAL_LO : Nat := 4
abbrev SUP_SERIAL_HI : Nat := 8
abbrev SUP_BOOT : Nat := 0x10
abbrev SUP_SLOT : Nat := 0x14
abbrev SUP_SVN : Nat := 0x18
abbrev SUP_WDT : Nat := 0x40
abbrev SUP_WDT_KICK : Nat := 0x44
abbrev SUP_SAFE : Nat := 0x48
abbrev SUP_TIME_LO : Nat := 0x50
abbrev SUP_TIME_HI : Nat := 0x54
abbrev SUP_STRAP : Nat := 0x80
abbrev SUP_MEAS (i : Nat) (w : Nat) : Nat := 0x400 + 0x20 * i + 4 * w
abbrev MBX_STATE (i : Nat) : Nat := 0x18000 + 4 * i
abbrev MBX_CTL (i : Nat) : Nat := 0x18040 + 4 * i
abbrev MBX_EXPERT : Nat := 0x18080
abbrev MBX_SEQ_LAST : Nat := 0x18084
abbrev CLK_PACE : Nat := 0x20000
abbrev CLK_VCORE : Nat := 0x20004
abbrev CLK_GOV_CTL : Nat := 0x20008
abbrev CLK_GOV_STATUS : Nat := 0x2000C
abbrev CLK_OVERRUN_LO : Nat := 0x20010
abbrev CLK_OVERRUN_HI : Nat := 0x20014
abbrev CLK_REF_STATUS : Nat := 0x20020
abbrev CLK_FORCE_ADDR : Nat := 0x20030
abbrev CLK_FORCE_LOG : Nat := 0x20034
abbrev CLK_SSC_MOT : Nat := 0x20040
abbrev CLK_SSC_PACTL : Nat := 0x20044
abbrev CLK_ISL_CTL (i : Nat) : Nat := 0x20100 + 4 * i
abbrev CLK_ISL_STATUS (i : Nat) : Nat := 0x20180 + 4 * i
abbrev CLK_PLL_CFG (i : Nat) : Nat := 0x20200 + 4 * i
abbrev PWR_MODE : Nat := 0x30000
abbrev PWR_SUPPLY : Nat := 0x30004
abbrev PWR_SUPPLY_FLAGS : Nat := 0x30008
abbrev PWR_HEAD_LIMIT : Nat := 0x3000C
abbrev PWR_DRAIN_LIMIT : Nat := 0x30010
abbrev PWR_DRAIN_LOG_ADDR : Nat := 0x30014
abbrev PWR_DRAIN_LOG_CTL : Nat := 0x30018
abbrev PWR_TIMERS : Nat := 0x3001C
abbrev PWR_PF_TIME_LO : Nat := 0x30020
abbrev PWR_PF_TIME_HI : Nat := 0x30024
abbrev PWR_PF_INFO : Nat := 0x30028
abbrev PWR_DOM_CTL (i : Nat) : Nat := 0x30100 + 4 * i
abbrev PWR_DOM_STATUS (i : Nat) : Nat := 0x30180 + 4 * i
abbrev HC_CTL (i : Nat) : Nat := 0x100000 + 0x400 * i
abbrev HC_STATUS (i : Nat) : Nat := 0x100004 + 0x400 * i
abbrev HC_CTF (i : Nat) : Nat := 0x100008 + 0x400 * i
abbrev HC_AGC (i : Nat) : Nat := 0x10000C + 0x400 * i
abbrev HC_TR (i : Nat) : Nat := 0x100010 + 0x400 * i
abbrev HC_EQ_TARGET (i : Nat) : Nat := 0x100014 + 0x400 * i
abbrev HC_EQ_TAPS_A (i : Nat) : Nat := 0x100018 + 0x400 * i
abbrev HC_EQ_TAPS_B (i : Nat) : Nat := 0x10001C + 0x400 * i
abbrev HC_EQ_TAPS_C (i : Nat) : Nat := 0x100020 + 0x400 * i
abbrev HC_DET (i : Nat) : Nat := 0x100024 + 0x400 * i
abbrev HC_SYNC (i : Nat) : Nat := 0x100028 + 0x400 * i
abbrev HC_TA (i : Nat) : Nat := 0x10002C + 0x400 * i
abbrev HC_HTR (i : Nat) : Nat := 0x100030 + 0x400 * i
abbrev HC_WR (i : Nat) : Nat := 0x100034 + 0x400 * i
abbrev HC_RETRY (i : Nat) : Nat := 0x100038 + 0x400 * i
abbrev HC_FLT (i : Nat) : Nat := 0x10003C + 0x400 * i
abbrev HC_RECOV_LO (i : Nat) : Nat := 0x100040 + 0x400 * i
abbrev HC_RECOV_HI (i : Nat) : Nat := 0x100044 + 0x400 * i
abbrev HC_PA_STATE (i : Nat) : Nat := 0x124000 + 4 * i
abbrev HC_PA_RAW_TX (i : Nat) : Nat := 0x124100 + 8 * i
abbrev HC_PA_RAW_RX (i : Nat) : Nat := 0x124104 + 8 * i
abbrev HC_GCTL : Nat := 0x124300
abbrev DEC_CFG : Nat := 0x140000
abbrev DEC_STATUS : Nat := 0x140004
abbrev DEC_CW_LO : Nat := 0x140010
abbrev DEC_CW_HI : Nat := 0x140014
abbrev DEC_FAIL_LO : Nat := 0x140018
abbrev DEC_FAIL_HI : Nat := 0x14001C
abbrev DEC_OFFLINE (i : Nat) : Nat := 0x140020 + 4 * i
abbrev FS_CTL (i : Nat) : Nat := 0x150000 + 0x1000 * i
abbrev FS_STATUS (i : Nat) : Nat := 0x150004 + 0x1000 * i
abbrev FS_PC (i : Nat) : Nat := 0x150008 + 0x1000 * i
abbrev FS_CS_CTL (i : Nat) : Nat := 0x15000C + 0x1000 * i
abbrev FS_ZT_CTL (i : Nat) : Nat := 0x150010 + 0x1000 * i
abbrev FS_SRV_CFG (i : Nat) : Nat := 0x150014 + 0x1000 * i
abbrev FS_SETTLE (i : Nat) : Nat := 0x150018 + 0x1000 * i
abbrev FS_RING_FILL (i : Nat) : Nat := 0x15001C + 0x1000 * i
abbrev FS_RING_FREE (i : Nat) : Nat := 0x150020 + 0x1000 * i
abbrev FS_MCHK (i : Nat) : Nat := 0x150024 + 0x1000 * i
abbrev FS_MCHK_TIME (i : Nat) : Nat := 0x150028 + 0x1000 * i
abbrev FS_TRC_CTL (i : Nat) : Nat := 0x150030 + 0x1000 * i
abbrev FS_TRC_IDX (i : Nat) : Nat := 0x150034 + 0x1000 * i
abbrev FS_TRC_DATA_LO (i : Nat) : Nat := 0x150038 + 0x1000 * i
abbrev FS_TRC_DATA_HI (i : Nat) : Nat := 0x15003C + 0x1000 * i
abbrev FS_BANDS_LO (i : Nat) : Nat := 0x150040 + 0x1000 * i
abbrev FS_BANDS_HI (i : Nat) : Nat := 0x150044 + 0x1000 * i
abbrev FS_WEDGE_MISS_LO (i : Nat) : Nat := 0x150048 + 0x1000 * i
abbrev FS_WEDGE_MISS_HI (i : Nat) : Nat := 0x15004C + 0x1000 * i
abbrev FS_TRAP (i : Nat) (j : Nat) : Nat := 0x150100 + 0x1000 * i + 4 * j
abbrev FS_SRV_HEAD (i : Nat) (j : Nat) : Nat := 0x150200 + 0x1000 * i + 4 * j
abbrev FS_SRV_HSTAT (i : Nat) (j : Nat) : Nat := 0x150300 + 0x1000 * i + 4 * j
abbrev CLE_CTL : Nat := 0x200000
abbrev CLE_STATUS : Nat := 0x200004
abbrev CLE_OVERRUN_LO : Nat := 0x200008
abbrev CLE_OVERRUN_HI : Nat := 0x20000C
abbrev CLE_LOOP (i : Nat) : Nat := 0x200100 + 4 * i
abbrev CLE_COEF (l : Nat) (k : Nat) (w : Nat) : Nat := 0x201000 + 0x200 * l + 0x100 * k + 4 * w
abbrev SPN_CTL : Nat := 0x204000
abbrev SPN_STATUS : Nat := 0x204004
abbrev SPN_ANGLE : Nat := 0x204008
abbrev SPN_IQD : Nat := 0x20400C
abbrev SPN_PWM : Nat := 0x204010
abbrev SPN_CUR_PI : Nat := 0x204014
abbrev SPN_SS : Nat := 0x204018
abbrev SPN_XCHK : Nat := 0x20401C
abbrev SPN_WEDGE_OFS : Nat := 0x204020
abbrev SPN_LIMITS : Nat := 0x204024
abbrev SPN_BRAKE : Nat := 0x204028
abbrev SPN_FAULT : Nat := 0x20402C
abbrev SPN_SS_PRED_LO : Nat := 0x204030
abbrev SPN_SS_PRED_HI : Nat := 0x204034
abbrev VCM_CTL (i : Nat) : Nat := 0x205000 + 0x100 * i
abbrev VCM_STATUS (i : Nat) : Nat := 0x205004 + 0x100 * i
abbrev VCM_TARGET (i : Nat) : Nat := 0x205008 + 0x100 * i
abbrev VCM_IMEAS (i : Nat) : Nat := 0x20500C + 0x100 * i
abbrev VCM_CUR_PI (i : Nat) : Nat := 0x205010 + 0x100 * i
abbrev VCM_UNSAFE_CFG (i : Nat) : Nat := 0x205014 + 0x100 * i
abbrev VCM_RET_CFG (i : Nat) : Nat := 0x205018 + 0x100 * i
abbrev VCM_RET_KB (i : Nat) : Nat := 0x20501C + 0x100 * i
abbrev VCM_SEEK_CFG (i : Nat) : Nat := 0x205020 + 0x100 * i
abbrev VCM_FAULT (i : Nat) : Nat := 0x205024 + 0x100 * i
abbrev MA_CMD (i : Nat) : Nat := 0x206000 + 8 * i
abbrev MA_CFG (i : Nat) : Nat := 0x206004 + 8 * i
abbrev FAN_CTL (i : Nat) : Nat := 0x207000 + 0x20 * i
abbrev FAN_STATUS (i : Nat) : Nat := 0x207004 + 0x20 * i
abbrev FAN_FAULT (i : Nat) : Nat := 0x207008 + 0x20 * i
abbrev VCM_BIAS (i : Nat) (j : Nat) : Nat := 0x208000 + 0x400 * i + 4 * j
abbrev VCM_FRIC (i : Nat) (j : Nat) : Nat := 0x209000 + 0x80 * i + 4 * j
abbrev SPN_COG (i : Nat) : Nat := 0x20A000 + 4 * i
abbrev FC_CTL (i : Nat) : Nat := 0x300000 + 0x1000 * i
abbrev FC_STATUS (i : Nat) : Nat := 0x300004 + 0x1000 * i
abbrev FC_RATE (i : Nat) : Nat := 0x300008 + 0x1000 * i
abbrev FC_ERR (i : Nat) : Nat := 0x30000C + 0x1000 * i
abbrev FC_PROG_LO (i : Nat) : Nat := 0x300010 + 0x1000 * i
abbrev FC_PROG_HI (i : Nat) : Nat := 0x300014 + 0x1000 * i
abbrev FC_RETRY_LO (i : Nat) : Nat := 0x300018 + 0x1000 * i
abbrev FC_RETRY_HI (i : Nat) : Nat := 0x30001C + 0x1000 * i
abbrev FC_DIE (i : Nat) (j : Nat) : Nat := 0x300040 + 0x1000 * i + 4 * j
abbrev FPM_BASE_LO (i : Nat) : Nat := 0x340000 + 0x10 * i
abbrev FPM_BASE_HI (i : Nat) : Nat := 0x340004 + 0x10 * i
abbrev FPM_LFPS_LO (i : Nat) : Nat := 0x340008 + 0x10 * i
abbrev FPM_LFPS_HI (i : Nat) : Nat := 0x34000C + 0x10 * i
abbrev FPM_STATUS : Nat := 0x340020
abbrev RACK_CTL : Nat := 0x340100
abbrev RACK_STATUS : Nat := 0x340104
abbrev RACK_GC_CFG : Nat := 0x340108
abbrev RACK_COOL_CFG : Nat := 0x34010C
abbrev RACK_WARM_CFG : Nat := 0x340110
abbrev RACK_RESERVE : Nat := 0x340114
abbrev RACK_PATROL : Nat := 0x340118
abbrev RACK_MOVED_LO : Nat := 0x340120
abbrev RACK_MOVED_HI : Nat := 0x340124
abbrev RACK_RESTART_LO : Nat := 0x340128
abbrev RACK_RESTART_HI : Nat := 0x34012C
abbrev FPM_GCTL : Nat := 0x340130
abbrev RED_CTL : Nat := 0x380000
abbrev RED_STATUS : Nat := 0x380004
abbrev RED_BACKLOG_CFG : Nat := 0x380008
abbrev RED_CFG : Nat := 0x38000C
abbrev RED_FLT_COUNT (i : Nat) : Nat := 0x380010 + 4 * i
abbrev RED_UNREDUCED : Nat := 0x380018
abbrev RED_CHUNKS_LO : Nat := 0x380020
abbrev RED_CHUNKS_HI : Nat := 0x380024
abbrev RED_DEDUP_INLINE_LO : Nat := 0x380028
abbrev RED_DEDUP_INLINE_HI : Nat := 0x38002C
abbrev RED_DEDUP_DEFER_LO : Nat := 0x380030
abbrev RED_DEDUP_DEFER_HI : Nat := 0x380034
abbrev RED_FLT_FALSE_LO : Nat := 0x380038
abbrev RED_FLT_FALSE_HI : Nat := 0x38003C
abbrev RED_COLLIDE_LO : Nat := 0x380040
abbrev RED_COLLIDE_HI : Nat := 0x380044
abbrev RED_RAW_LO : Nat := 0x380048
abbrev RED_RAW_HI : Nat := 0x38004C
abbrev RED_STORED_KIB_LO : Nat := 0x380050
abbrev RED_STORED_KIB_HI : Nat := 0x380054
abbrev RED_DECODE_ERR_LO : Nat := 0x380058
abbrev RED_DECODE_ERR_HI : Nat := 0x38005C
abbrev RED_ERR_LOC_LO : Nat := 0x380060
abbrev RED_ERR_LOC_HI : Nat := 0x380064
abbrev RED_ERR_LOG : Nat := 0x380068
abbrev Q_DB (i : Nat) : Nat := 0x400000 + 0x100 * i
abbrev Q_CTL (i : Nat) : Nat := 0x400004 + 0x100 * i
abbrev Q_STATUS (i : Nat) : Nat := 0x400008 + 0x100 * i
abbrev SLU_STATUS : Nat := 0x420000
abbrev SLU_HWM : Nat := 0x420004
abbrev SLU_FLAGS : Nat := 0x420008
abbrev SLU_CONFLICT_LO : Nat := 0x420010
abbrev SLU_CONFLICT_HI : Nat := 0x420014
abbrev SLU_HELD_LO : Nat := 0x420018
abbrev SLU_HELD_HI : Nat := 0x42001C
abbrev NVM_STATUS : Nat := 0x420100
abbrev NVM_ANA (i : Nat) : Nat := 0x420110 + 4 * i
abbrev FAB_STATUS : Nat := 0x500000
abbrev FAB_CONN : Nat := 0x500004
abbrev FAB_P_STATUS (i : Nat) : Nat := 0x500100 + 0x40 * i
abbrev FAB_P_TXTS_LO (i : Nat) : Nat := 0x500104 + 0x40 * i
abbrev FAB_P_TXTS_HI (i : Nat) : Nat := 0x500108 + 0x40 * i
abbrev FAB_P_TXTS_INFO (i : Nat) : Nat := 0x50010C + 0x40 * i
abbrev FAB_P_RX_LO (i : Nat) : Nat := 0x500110 + 0x40 * i
abbrev FAB_P_RX_HI (i : Nat) : Nat := 0x500114 + 0x40 * i
abbrev FAB_P_TX_LO (i : Nat) : Nat := 0x500118 + 0x40 * i
abbrev FAB_P_TX_HI (i : Nat) : Nat := 0x50011C + 0x40 * i
abbrev FAB_P_RXERR_LO (i : Nat) : Nat := 0x500120 + 0x40 * i
abbrev FAB_P_RXERR_HI (i : Nat) : Nat := 0x500124 + 0x40 * i
abbrev FAB_P_FECC_LO (i : Nat) : Nat := 0x500128 + 0x40 * i
abbrev FAB_P_FECC_HI (i : Nat) : Nat := 0x50012C + 0x40 * i
abbrev FAB_LANE (i : Nat) : Nat := 0x500400 + 4 * i
abbrev NAL_STATUS : Nat := 0x540000
abbrev NAL_LANES : Nat := 0x540004
abbrev NAL_FENCE : Nat := 0x540008
abbrev NAL_HB_SEQ_SKIP_LO : Nat := 0x540010
abbrev NAL_HB_SEQ_SKIP_HI : Nat := 0x540014
abbrev NAL_REPLAY_LO : Nat := 0x540018
abbrev NAL_REPLAY_HI : Nat := 0x54001C
abbrev NAL_TOKEN (i : Nat) : Nat := 0x540100 + 4 * i
abbrev DMA_CH_CTL (i : Nat) : Nat := 0x580000 + 0x40 * i
abbrev DMA_CH_STATUS (i : Nat) : Nat := 0x580004 + 0x40 * i
abbrev DMA_CH_DESC (i : Nat) : Nat := 0x580008 + 0x40 * i
abbrev DMA_CH_DONE (i : Nat) : Nat := 0x58000C + 0x40 * i
abbrev DMA_CH_ERR_ADDR_LO (i : Nat) : Nat := 0x580010 + 0x40 * i
abbrev DMA_CH_ERR_ADDR_HI (i : Nat) : Nat := 0x580014 + 0x40 * i
abbrev DMA_CH_BYTES (i : Nat) : Nat := 0x580018 + 0x40 * i
abbrev DMA_WIN_BASE_LO (i : Nat) : Nat := 0x580400 + 0x10 * i
abbrev DMA_WIN_BASE_HI (i : Nat) : Nat := 0x580404 + 0x10 * i
abbrev DMA_WIN_CTL (i : Nat) : Nat := 0x580408 + 0x10 * i
abbrev DMA_GCTL : Nat := 0x580500
abbrev TC_CTL : Nat := 0x600000
abbrev TC_MAINT : Nat := 0x600004
abbrev TC_MAINT_ADDR_LO : Nat := 0x600008
abbrev TC_MAINT_ADDR_HI : Nat := 0x60000C
abbrev TC_STATUS : Nat := 0x600010
abbrev TC_HIT_LO : Nat := 0x600020
abbrev TC_HIT_HI : Nat := 0x600024
abbrev TC_MISS_LO : Nat := 0x600028
abbrev TC_MISS_HI : Nat := 0x60002C
abbrev TC_LOCK_INVAL_LO : Nat := 0x600030
abbrev TC_LOCK_INVAL_HI : Nat := 0x600034
abbrev TC_UE_REFILL_LO : Nat := 0x600038
abbrev TC_UE_REFILL_HI : Nat := 0x60003C
abbrev TC_FILL_DROP_LO : Nat := 0x600040
abbrev TC_FILL_DROP_HI : Nat := 0x600044
abbrev ECC_CFG (i : Nat) : Nat := 0x610000 + 0x200 * i
abbrev ECC_STATUS (i : Nat) : Nat := 0x610004 + 0x200 * i
abbrev ECC_CE_LO (i : Nat) : Nat := 0x610008 + 0x200 * i
abbrev ECC_CE_HI (i : Nat) : Nat := 0x61000C + 0x200 * i
abbrev ECC_UE_LO (i : Nat) : Nat := 0x610010 + 0x200 * i
abbrev ECC_UE_HI (i : Nat) : Nat := 0x610014 + 0x200 * i
abbrev ECC_UE_ADDR_LO (i : Nat) : Nat := 0x610018 + 0x200 * i
abbrev ECC_UE_ADDR_HI (i : Nat) : Nat := 0x61001C + 0x200 * i
abbrev ECC_UE_LOG (i : Nat) : Nat := 0x610020 + 0x200 * i
abbrev ECC_LOG_ADDR_LO (i : Nat) (j : Nat) : Nat := 0x610100 + 0x200 * i + 0x10 * j
abbrev ECC_LOG_ADDR_HI (i : Nat) (j : Nat) : Nat := 0x610104 + 0x200 * i + 0x10 * j
abbrev ECC_LOG_INFO (i : Nat) (j : Nat) : Nat := 0x610108 + 0x200 * i + 0x10 * j
abbrev ECC_FILL_CTL : Nat := 0x610C00
abbrev ECC_FILL_PTR_LO : Nat := 0x610C04
abbrev ECC_FILL_PTR_HI : Nat := 0x610C08
abbrev VAT_STATUS : Nat := 0x620000
abbrev VAT_POOL : Nat := 0x620004
abbrev VAT_SEQ (i : Nat) : Nat := 0x620010 + 4 * i
abbrev VAT_MIRROR_ACK (i : Nat) : Nat := 0x620018 + 4 * i
abbrev DRC_STATUS : Nat := 0x630000
abbrev DRC_PATROL : Nat := 0x630004
abbrev DRC_RETIRED : Nat := 0x630008
end R

/-! Register fields, by the names of the spec. -/
namespace F
abbrev SUP_PART : Fld := ⟨R.SUP_ID, 16, 16⟩
abbrev SUP_REV : Fld := ⟨R.SUP_ID, 8, 8⟩
abbrev SUP_DIE_MASK_REV : Fld := ⟨R.SUP_ID, 0, 8⟩
abbrev SUP_BOOT_LAST_STATUS : Fld := ⟨R.SUP_BOOT, 16, 16⟩
abbrev SUP_BOOT_REVERTED : Fld := ⟨R.SUP_BOOT, 8, 1⟩
abbrev SUP_BOOT_RECOVERY : Fld := ⟨R.SUP_BOOT, 7, 1⟩
abbrev SUP_BOOT_STAGE : Fld := ⟨R.SUP_BOOT, 0, 4⟩
abbrev SUP_CTL_TRIAL_STARTED : Fld := ⟨R.SUP_SLOT, 11, 1⟩
abbrev SUP_CTL_TRIAL : Fld := ⟨R.SUP_SLOT, 10, 1⟩
abbrev SUP_CTL_VALID : Fld := ⟨R.SUP_SLOT, 8, 2⟩
abbrev SUP_CTL_RUN : Fld := ⟨R.SUP_SLOT, 7, 1⟩
abbrev SUP_SUP_TRIAL_STARTED : Fld := ⟨R.SUP_SLOT, 6, 1⟩
abbrev SUP_SUP_TRIAL : Fld := ⟨R.SUP_SLOT, 5, 1⟩
abbrev SUP_SUP_VALID : Fld := ⟨R.SUP_SLOT, 3, 2⟩
abbrev SUP_SUP_RUN : Fld := ⟨R.SUP_SLOT, 2, 1⟩
abbrev SUP_SVN_MIN_SUP : Fld := ⟨R.SUP_SVN, 24, 8⟩
abbrev SUP_SVN_RUN_SUP : Fld := ⟨R.SUP_SVN, 16, 8⟩
abbrev SUP_SVN_MIN_CTL : Fld := ⟨R.SUP_SVN, 8, 8⟩
abbrev SUP_SVN_RUN_CTL : Fld := ⟨R.SUP_SVN, 0, 8⟩
abbrev SUP_WDT_EXPIRED : Fld := ⟨R.SUP_WDT, 31, 1⟩
abbrev SUP_COMMIT : Fld := ⟨R.SUP_WDT, 16, 1⟩
abbrev SUP_WDT_PERIOD_MS : Fld := ⟨R.SUP_WDT, 0, 16⟩
abbrev SUP_WDT_KICK : Fld := ⟨R.SUP_WDT_KICK, 0, 1⟩
abbrev SUP_SAFE_ACTIVE : Fld := ⟨R.SUP_SAFE, 31, 1⟩
abbrev SUP_SAFE_BUSY : Fld := ⟨R.SUP_SAFE, 30, 1⟩
abbrev SUP_SAFE_FENCE_FORM : Fld := ⟨R.SUP_SAFE, 29, 1⟩
abbrev SUP_SAFE_CAUSE : Fld := ⟨R.SUP_SAFE, 20, 4⟩
abbrev SUP_SAFE_CODE : Fld := ⟨R.SUP_SAFE, 0, 16⟩
abbrev SUP_STRAP_CLASH : Fld := ⟨R.SUP_STRAP, 9, 1⟩
abbrev SUP_STRAP_FLOAT : Fld := ⟨R.SUP_STRAP, 8, 1⟩
abbrev SUP_STRAP_TEST_N : Fld := ⟨R.SUP_STRAP, 7, 1⟩
abbrev SUP_STRAP_MI_ADDR : Fld := ⟨R.SUP_STRAP, 5, 2⟩
abbrev SUP_STRAP_FAB_PROF : Fld := ⟨R.SUP_STRAP, 2, 3⟩
abbrev SUP_STRAP_PCIE_EN : Fld := ⟨R.SUP_STRAP, 1, 1⟩
abbrev SUP_STRAP_PAIR_POS : Fld := ⟨R.SUP_STRAP, 0, 1⟩
abbrev MBX_TRANSPORT (i : Nat) : Fld := ⟨(R.MBX_STATE i), 16, 4⟩
abbrev MBX_RESET_PENDING (i : Nat) : Fld := ⟨(R.MBX_STATE i), 9, 1⟩
abbrev MBX_DB_IGNORED (i : Nat) : Fld := ⟨(R.MBX_STATE i), 8, 1⟩
abbrev MBX_STATE (i : Nat) : Fld := ⟨(R.MBX_STATE i), 0, 2⟩
abbrev MBX_VEC (i : Nat) : Fld := ⟨(R.MBX_CTL i), 16, 11⟩
abbrev MBX_IRQ_EN (i : Nat) : Fld := ⟨(R.MBX_CTL i), 3, 1⟩
abbrev MBX_RESET (i : Nat) : Fld := ⟨(R.MBX_CTL i), 2, 1⟩
abbrev MBX_RELEASE (i : Nat) : Fld := ⟨(R.MBX_CTL i), 1, 1⟩
abbrev MBX_DOORBELL (i : Nat) : Fld := ⟨(R.MBX_CTL i), 0, 1⟩
abbrev MBX_EXP_ROOTS_EMPTY : Fld := ⟨R.MBX_EXPERT, 8, 1⟩
abbrev MBX_EXP_SESSIONS : Fld := ⟨R.MBX_EXPERT, 4, 3⟩
abbrev MBX_EXP_GRANT : Fld := ⟨R.MBX_EXPERT, 0, 4⟩
abbrev CLK_PACE_LOW : Fld := ⟨R.CLK_PACE, 16, 16⟩
abbrev CLK_PACE_NOW : Fld := ⟨R.CLK_PACE, 0, 16⟩
abbrev CLK_VCORE_TARGET_MV : Fld := ⟨R.CLK_VCORE, 16, 16⟩
abbrev CLK_VCORE_MV : Fld := ⟨R.CLK_VCORE, 0, 16⟩
abbrev CLK_PACE_LOW_RST : Fld := ⟨R.CLK_GOV_CTL, 16, 1⟩
abbrev CLK_GOV_OSR_MIN : Fld := ⟨R.CLK_GOV_CTL, 8, 8⟩
abbrev CLK_GOV_MARGIN : Fld := ⟨R.CLK_GOV_CTL, 0, 8⟩
abbrev CLK_GOV_OSR_NOW : Fld := ⟨R.CLK_GOV_STATUS, 8, 8⟩
abbrev CLK_GOV_OVERRUN : Fld := ⟨R.CLK_GOV_STATUS, 3, 1⟩
abbrev CLK_GOV_HEADS_CUT : Fld := ⟨R.CLK_GOV_STATUS, 2, 1⟩
abbrev CLK_GOV_OSR_CUT : Fld := ⟨R.CLK_GOV_STATUS, 1, 1⟩
abbrev CLK_GOV_VCORE_MAX : Fld := ⟨R.CLK_GOV_STATUS, 0, 1⟩
abbrev CLK_OVERRUN_SAT : Fld := ⟨R.CLK_OVERRUN_HI, 31, 1⟩
abbrev CLK_TS_DEGRADED : Fld := ⟨R.CLK_REF_STATUS, 17, 1⟩
abbrev CLK_BACKUP_ACTIVE : Fld := ⟨R.CLK_REF_STATUS, 16, 1⟩
abbrev CLK_REF_LOST_SEEN : Fld := ⟨R.CLK_REF_STATUS, 8, 4⟩
abbrev CLK_REF_LOST : Fld := ⟨R.CLK_REF_STATUS, 0, 4⟩
abbrev CLK_FORCE_VALID : Fld := ⟨R.CLK_FORCE_LOG, 31, 1⟩
abbrev CLK_FORCE_OVF : Fld := ⟨R.CLK_FORCE_LOG, 16, 8⟩
abbrev CLK_FORCE_ISL : Fld := ⟨R.CLK_FORCE_LOG, 0, 4⟩
abbrev CLK_SSC_FMOD : Fld := ⟨R.CLK_SSC_MOT, 8, 6⟩
abbrev CLK_SSC_SPREAD : Fld := ⟨R.CLK_SSC_MOT, 0, 4⟩
abbrev CLK_SSC_PACTL__CLK_SSC_FMOD : Fld := ⟨R.CLK_SSC_PACTL, 8, 6⟩
abbrev CLK_SSC_PACTL__CLK_SSC_SPREAD : Fld := ⟨R.CLK_SSC_PACTL, 0, 4⟩
abbrev CLK_SAFE_RELEASE (i : Nat) : Fld := ⟨(R.CLK_ISL_CTL i), 2, 1⟩
abbrev CLK_GATE_FORCE (i : Nat) : Fld := ⟨(R.CLK_ISL_CTL i), 1, 1⟩
abbrev CLK_GATE_REQ (i : Nat) : Fld := ⟨(R.CLK_ISL_CTL i), 0, 1⟩
abbrev CLK_RELEASE_REFUSED (i : Nat) : Fld := ⟨(R.CLK_ISL_STATUS i), 6, 1⟩
abbrev CLK_GATE_REFUSED (i : Nat) : Fld := ⟨(R.CLK_ISL_STATUS i), 5, 1⟩
abbrev CLK_SAFE_HELD (i : Nat) : Fld := ⟨(R.CLK_ISL_STATUS i), 4, 1⟩
abbrev CLK_LOCKED (i : Nat) : Fld := ⟨(R.CLK_ISL_STATUS i), 3, 1⟩
abbrev CLK_REF_OK (i : Nat) : Fld := ⟨(R.CLK_ISL_STATUS i), 2, 1⟩
abbrev CLK_GATE_PENDING (i : Nat) : Fld := ⟨(R.CLK_ISL_STATUS i), 1, 1⟩
abbrev CLK_GATED (i : Nat) : Fld := ⟨(R.CLK_ISL_STATUS i), 0, 1⟩
abbrev CLK_PLL_DIV (i : Nat) : Fld := ⟨(R.CLK_PLL_CFG i), 26, 6⟩
abbrev CLK_PLL_N (i : Nat) : Fld := ⟨(R.CLK_PLL_CFG i), 16, 10⟩
abbrev CLK_PLL_FRAC (i : Nat) : Fld := ⟨(R.CLK_PLL_CFG i), 0, 16⟩
abbrev PWR_AUTO_WAKE : Fld := ⟨R.PWR_MODE, 10, 1⟩
abbrev PWR_SHORT_SEAL : Fld := ⟨R.PWR_MODE, 9, 1⟩
abbrev PWR_MODE_BUSY : Fld := ⟨R.PWR_MODE, 8, 1⟩
abbrev PWR_MODE_PRIOR : Fld := ⟨R.PWR_MODE, 4, 4⟩
abbrev PWR_MODE_CUR : Fld := ⟨R.PWR_MODE, 0, 4⟩
abbrev PWR_VMOT_MV : Fld := ⟨R.PWR_SUPPLY, 16, 16⟩
abbrev PWR_VSYS_MV : Fld := ⟨R.PWR_SUPPLY, 0, 16⟩
abbrev PWR_VMOT_OK : Fld := ⟨R.PWR_SUPPLY_FLAGS, 8, 1⟩
abbrev PWR_VMOT_OV : Fld := ⟨R.PWR_SUPPLY_FLAGS, 4, 1⟩
abbrev PWR_VMOT_UV : Fld := ⟨R.PWR_SUPPLY_FLAGS, 3, 1⟩
abbrev PWR_VSYS_OV : Fld := ⟨R.PWR_SUPPLY_FLAGS, 2, 1⟩
abbrev PWR_VSYS_PF : Fld := ⟨R.PWR_SUPPLY_FLAGS, 1, 1⟩
abbrev PWR_VSYS_BELOW_RATED : Fld := ⟨R.PWR_SUPPLY_FLAGS, 0, 1⟩
abbrev PWR_HEADS_FLOOR : Fld := ⟨R.PWR_HEAD_LIMIT, 8, 8⟩
abbrev PWR_HEADS_ADMITTED : Fld := ⟨R.PWR_HEAD_LIMIT, 0, 8⟩
abbrev PWR_DRAIN_LIMIT : Fld := ⟨R.PWR_DRAIN_LIMIT, 0, 16⟩
abbrev PWR_DRAIN_VALID : Fld := ⟨R.PWR_DRAIN_LOG_CTL, 31, 1⟩
abbrev PWR_DRAIN_OVF : Fld := ⟨R.PWR_DRAIN_LOG_CTL, 16, 8⟩
abbrev PWR_DRAIN_DOM : Fld := ⟨R.PWR_DRAIN_LOG_CTL, 0, 5⟩
abbrev PWR_SOLO_START_WAIT : Fld := ⟨R.PWR_TIMERS, 16, 16⟩
abbrev PWR_IDLE_FALLOW : Fld := ⟨R.PWR_TIMERS, 0, 16⟩
abbrev PWR_PF_TORN : Fld := ⟨R.PWR_PF_INFO, 16, 16⟩
abbrev PWR_PF_VALID : Fld := ⟨R.PWR_PF_INFO, 7, 1⟩
abbrev PWR_PF_SHORT : Fld := ⟨R.PWR_PF_INFO, 6, 1⟩
abbrev PWR_PF_PARKED : Fld := ⟨R.PWR_PF_INFO, 5, 1⟩
abbrev PWR_PF_SEALED : Fld := ⟨R.PWR_PF_INFO, 4, 1⟩
abbrev PWR_PF_MODE : Fld := ⟨R.PWR_PF_INFO, 0, 4⟩
abbrev PWR_DOM_REQ_ON (i : Nat) : Fld := ⟨(R.PWR_DOM_CTL i), 0, 1⟩
abbrev PWR_DOM_REFUSED (i : Nat) : Fld := ⟨(R.PWR_DOM_STATUS i), 3, 1⟩
abbrev PWR_DOM_WITHDRAWN (i : Nat) : Fld := ⟨(R.PWR_DOM_STATUS i), 2, 1⟩
abbrev PWR_DOM_STATE (i : Nat) : Fld := ⟨(R.PWR_DOM_STATUS i), 0, 2⟩
abbrev HC_EN (i : Nat) : Fld := ⟨(R.HC_CTL i), 2, 1⟩
abbrev HC_EXT_LADDER (i : Nat) : Fld := ⟨(R.HC_CTL i), 1, 1⟩
abbrev HC_ADAPT (i : Nat) : Fld := ⟨(R.HC_CTL i), 0, 1⟩
abbrev HC_AGC_GAIN (i : Nat) : Fld := ⟨(R.HC_STATUS i), 24, 8⟩
abbrev HC_ZONE_NOW (i : Nat) : Fld := ⟨(R.HC_STATUS i), 16, 8⟩
abbrev HC_LADDER_STEP (i : Nat) : Fld := ⟨(R.HC_STATUS i), 12, 4⟩
abbrev HC_TR_LOCK (i : Nat) : Fld := ⟨(R.HC_STATUS i), 7, 1⟩
abbrev HC_ADMITTED (i : Nat) : Fld := ⟨(R.HC_STATUS i), 6, 1⟩
abbrev HC_WR_UNSAFE (i : Nat) : Fld := ⟨(R.HC_STATUS i), 5, 1⟩
abbrev HC_STATE (i : Nat) : Fld := ⟨(R.HC_STATUS i), 0, 3⟩
abbrev HC_RD_BIAS (i : Nat) : Fld := ⟨(R.HC_CTF i), 15, 9⟩
abbrev HC_CTF_FC (i : Nat) : Fld := ⟨(R.HC_CTF i), 0, 8⟩
abbrev HC_CTF_BOOST (i : Nat) : Fld := ⟨(R.HC_AGC i), 24, 6⟩
abbrev HC_AGC_TARGET (i : Nat) : Fld := ⟨(R.HC_AGC i), 16, 8⟩
abbrev HC_AGC_INIT (i : Nat) : Fld := ⟨(R.HC_AGC i), 8, 8⟩
abbrev HC_AGC_KA (i : Nat) : Fld := ⟨(R.HC_AGC i), 4, 4⟩
abbrev HC_AGC_KT (i : Nat) : Fld := ⟨(R.HC_AGC i), 0, 4⟩
abbrev HC_TR_KP_ACQ (i : Nat) : Fld := ⟨(R.HC_TR i), 20, 4⟩
abbrev HC_TR_KI_ACQ (i : Nat) : Fld := ⟨(R.HC_TR i), 16, 4⟩
abbrev HC_TR_KP_TRK (i : Nat) : Fld := ⟨(R.HC_TR i), 12, 4⟩
abbrev HC_TR_KI_TRK (i : Nat) : Fld := ⟨(R.HC_TR i), 8, 4⟩
abbrev HC_TR_FOFS (i : Nat) : Fld := ⟨(R.HC_TR i), 0, 8⟩
abbrev HC_EQ_FAMILY (i : Nat) : Fld := ⟨(R.HC_EQ_TARGET i), 30, 2⟩
abbrev HC_EQ_TGT_ADAPT (i : Nat) : Fld := ⟨(R.HC_EQ_TARGET i), 29, 1⟩
abbrev HC_EQ_G1 (i : Nat) : Fld := ⟨(R.HC_EQ_TARGET i), 16, 8⟩
abbrev HC_EQ_G2 (i : Nat) : Fld := ⟨(R.HC_EQ_TARGET i), 8, 8⟩
abbrev HC_EQ_G3 (i : Nat) : Fld := ⟨(R.HC_EQ_TARGET i), 0, 8⟩
abbrev HC_DET_LLR_SCALE (i : Nat) : Fld := ⟨(R.HC_DET i), 16, 8⟩
abbrev HC_DET_NP_TAPS (i : Nat) : Fld := ⟨(R.HC_DET i), 8, 2⟩
abbrev HC_DET_NP_MU (i : Nat) : Fld := ⟨(R.HC_DET i), 0, 4⟩
abbrev HC_SYNC_WIN (i : Nat) : Fld := ⟨(R.HC_SYNC i), 24, 8⟩
abbrev HC_SYNC_TOL (i : Nat) : Fld := ⟨(R.HC_SYNC i), 16, 6⟩
abbrev HC_SYNC_TOLR (i : Nat) : Fld := ⟨(R.HC_SYNC i), 8, 5⟩
abbrev HC_SYNC_AGREE (i : Nat) : Fld := ⟨(R.HC_SYNC i), 4, 4⟩
abbrev HC_TA_THRESH (i : Nat) : Fld := ⟨(R.HC_TA i), 24, 8⟩
abbrev HC_TA_MIN (i : Nat) : Fld := ⟨(R.HC_TA i), 16, 8⟩
abbrev HC_TA_GUARD (i : Nat) : Fld := ⟨(R.HC_TA i), 8, 8⟩
abbrev HC_TA_EN (i : Nat) : Fld := ⟨(R.HC_TA i), 0, 1⟩
abbrev HC_HTR_READ (i : Nat) : Fld := ⟨(R.HC_HTR i), 24, 8⟩
abbrev HC_HTR_WRITE (i : Nat) : Fld := ⟨(R.HC_HTR i), 16, 8⟩
abbrev HC_HTR_LEAD (i : Nat) : Fld := ⟨(R.HC_HTR i), 8, 8⟩
abbrev HC_HTR_MAX (i : Nat) : Fld := ⟨(R.HC_HTR i), 0, 8⟩
abbrev HC_WR_CUR (i : Nat) : Fld := ⟨(R.HC_WR i), 24, 8⟩
abbrev HC_WR_OS_AMP (i : Nat) : Fld := ⟨(R.HC_WR i), 16, 8⟩
abbrev HC_WR_OS_DUR (i : Nat) : Fld := ⟨(R.HC_WR i), 12, 4⟩
abbrev HC_WR_PRECOMP (i : Nat) : Fld := ⟨(R.HC_WR i), 0, 5⟩
abbrev HC_RETRY_MAX (i : Nat) : Fld := ⟨(R.HC_RETRY i), 24, 4⟩
abbrev HC_RETRY_OFFSET (i : Nat) : Fld := ⟨(R.HC_RETRY i), 8, 8⟩
abbrev HC_RETRY_HTR_STEP (i : Nat) : Fld := ⟨(R.HC_RETRY i), 0, 8⟩
abbrev HC_TA_CNT (i : Nat) : Fld := ⟨(R.HC_FLT i), 24, 8⟩
abbrev HC_FLT_CNT_CLR (i : Nat) : Fld := ⟨(R.HC_FLT i), 23, 1⟩
abbrev HC_FLT_PA (i : Nat) : Fld := ⟨(R.HC_FLT i), 7, 1⟩
abbrev HC_FLT_WR_UNSAFE (i : Nat) : Fld := ⟨(R.HC_FLT i), 6, 1⟩
abbrev HC_FLT_OVERRUN (i : Nat) : Fld := ⟨(R.HC_FLT i), 5, 1⟩
abbrev HC_FLT_POOL_FULL (i : Nat) : Fld := ⟨(R.HC_FLT i), 4, 1⟩
abbrev HC_FLT_SM_FALLBACK (i : Nat) : Fld := ⟨(R.HC_FLT i), 3, 1⟩
abbrev HC_FLT_TA (i : Nat) : Fld := ⟨(R.HC_FLT i), 2, 1⟩
abbrev HC_FLT_UNRECOV (i : Nat) : Fld := ⟨(R.HC_FLT i), 1, 1⟩
abbrev HC_FLT_HTR (i : Nat) : Fld := ⟨(R.HC_FLT i), 0, 1⟩
abbrev HC_RECOV_SAT (i : Nat) : Fld := ⟨(R.HC_RECOV_HI i), 31, 1⟩
abbrev HC_PA_FAILED (i : Nat) : Fld := ⟨(R.HC_PA_STATE i), 3, 1⟩
abbrev HC_PA_FLT_IN (i : Nat) : Fld := ⟨(R.HC_PA_STATE i), 2, 1⟩
abbrev HC_PA_HOLDER (i : Nat) : Fld := ⟨(R.HC_PA_STATE i), 0, 2⟩
abbrev HC_COMMITTED : Fld := ⟨R.HC_GCTL, 4, 4⟩
abbrev HC_COMMIT : Fld := ⟨R.HC_GCTL, 0, 4⟩
abbrev DEC_ITER_MAX : Fld := ⟨R.DEC_CFG, 24, 5⟩
abbrev DEC_ITER_BUSY : Fld := ⟨R.DEC_CFG, 16, 5⟩
abbrev DEC_ITER_RETRY : Fld := ⟨R.DEC_CFG, 8, 5⟩
abbrev DEC_BUSY_LEVEL : Fld := ⟨R.DEC_CFG, 0, 8⟩
abbrev DEC_ACTIVE : Fld := ⟨R.DEC_STATUS, 24, 7⟩
abbrev DEC_RETRY_USED : Fld := ⟨R.DEC_STATUS, 16, 7⟩
abbrev DEC_QUEUE : Fld := ⟨R.DEC_STATUS, 0, 8⟩
abbrev DEC_CW_SAT : Fld := ⟨R.DEC_CW_HI, 31, 1⟩
abbrev DEC_FAIL_SAT : Fld := ⟨R.DEC_FAIL_HI, 31, 1⟩
abbrev FS_RESUME (i : Nat) : Fld := ⟨(R.FS_CTL i), 2, 1⟩
abbrev FS_HALT (i : Nat) : Fld := ⟨(R.FS_CTL i), 1, 1⟩
abbrev FS_BQ_HOLD (i : Nat) : Fld := ⟨(R.FS_CTL i), 0, 1⟩
abbrev FS_ZONE (i : Nat) : Fld := ⟨(R.FS_STATUS i), 24, 8⟩
abbrev FS_BQ_DEPTH (i : Nat) : Fld := ⟨(R.FS_STATUS i), 16, 8⟩
abbrev FS_REF_HEAD (i : Nat) : Fld := ⟨(R.FS_STATUS i), 4, 6⟩
abbrev FS_ZT_VALID (i : Nat) : Fld := ⟨(R.FS_STATUS i), 3, 1⟩
abbrev FS_PATCHED (i : Nat) : Fld := ⟨(R.FS_STATUS i), 2, 1⟩
abbrev FS_STATE (i : Nat) : Fld := ⟨(R.FS_STATUS i), 0, 2⟩
abbrev FS_PC (i : Nat) : Fld := ⟨(R.FS_PC i), 0, 13⟩
abbrev FS_CS_PAR_WR (i : Nat) : Fld := ⟨(R.FS_CS_CTL i), 1, 1⟩
abbrev FS_CS_LOCK (i : Nat) : Fld := ⟨(R.FS_CS_CTL i), 0, 1⟩
abbrev FS_ZT_BAD (i : Nat) : Fld := ⟨(R.FS_ZT_CTL i), 1, 1⟩
abbrev FS_ZT_COMMIT (i : Nat) : Fld := ⟨(R.FS_ZT_CTL i), 0, 1⟩
abbrev FS_SAM_WIN (i : Nat) : Fld := ⟨(R.FS_SRV_CFG i), 24, 8⟩
abbrev FS_MISS_LIMIT (i : Nat) : Fld := ⟨(R.FS_SRV_CFG i), 16, 4⟩
abbrev FS_WU_LIMIT (i : Nat) : Fld := ⟨(R.FS_SRV_CFG i), 0, 10⟩
abbrev FS_SETTLE_WEDGES (i : Nat) : Fld := ⟨(R.FS_SETTLE i), 16, 4⟩
abbrev FS_SETTLE_LIMIT (i : Nat) : Fld := ⟨(R.FS_SETTLE i), 0, 10⟩
abbrev FS_MCHK_VALID (i : Nat) : Fld := ⟨(R.FS_MCHK i), 31, 1⟩
abbrev FS_MCHK_STUCK (i : Nat) : Fld := ⟨(R.FS_MCHK i), 30, 1⟩
abbrev FS_MCHK_PC (i : Nat) : Fld := ⟨(R.FS_MCHK i), 16, 13⟩
abbrev FS_MCHK_SYND (i : Nat) : Fld := ⟨(R.FS_MCHK i), 8, 8⟩
abbrev FS_MCHK_CAUSE (i : Nat) : Fld := ⟨(R.FS_MCHK i), 0, 4⟩
abbrev FS_TRC_FROZEN (i : Nat) : Fld := ⟨(R.FS_TRC_CTL i), 3, 1⟩
abbrev FS_TRC_FREEZE (i : Nat) : Fld := ⟨(R.FS_TRC_CTL i), 2, 1⟩
abbrev FS_TRC_MODE (i : Nat) : Fld := ⟨(R.FS_TRC_CTL i), 1, 1⟩
abbrev FS_TRC_EN (i : Nat) : Fld := ⟨(R.FS_TRC_CTL i), 0, 1⟩
abbrev FS_TRC_WPTR (i : Nat) : Fld := ⟨(R.FS_TRC_IDX i), 16, 10⟩
abbrev FS_TRC_RIDX (i : Nat) : Fld := ⟨(R.FS_TRC_IDX i), 0, 10⟩
abbrev FS_BANDS_SAT (i : Nat) : Fld := ⟨(R.FS_BANDS_HI i), 31, 1⟩
abbrev FS_WEDGE_MISS_SAT (i : Nat) : Fld := ⟨(R.FS_WEDGE_MISS_HI i), 31, 1⟩
abbrev FS_TRAP_VALID (i : Nat) (j : Nat) : Fld := ⟨(R.FS_TRAP i j), 31, 1⟩
abbrev FS_TRAP_TARGET (i : Nat) (j : Nat) : Fld := ⟨(R.FS_TRAP i j), 16, 13⟩
abbrev FS_TRAP_ROM (i : Nat) (j : Nat) : Fld := ⟨(R.FS_TRAP i j), 0, 12⟩
abbrev FS_SRV_WEDGE (i : Nat) (j : Nat) : Fld := ⟨(R.FS_SRV_HEAD i j), 22, 10⟩
abbrev FS_SRV_FLAGS (i : Nat) (j : Nat) : Fld := ⟨(R.FS_SRV_HEAD i j), 16, 6⟩
abbrev FS_SRV_PES (i : Nat) (j : Nat) : Fld := ⟨(R.FS_SRV_HEAD i j), 0, 16⟩
abbrev FS_SRV_MISS_RUN (i : Nat) (j : Nat) : Fld := ⟨(R.FS_SRV_HSTAT i j), 1, 4⟩
abbrev FS_SRV_LOST (i : Nat) (j : Nat) : Fld := ⟨(R.FS_SRV_HSTAT i j), 0, 1⟩
abbrev CLE_COMMIT : Fld := ⟨R.CLE_CTL, 0, 1⟩
abbrev CLE_COMMITTED : Fld := ⟨R.CLE_STATUS, 2, 1⟩
abbrev CLE_PATCHED : Fld := ⟨R.CLE_STATUS, 1, 1⟩
abbrev CLE_OVR : Fld := ⟨R.CLE_STATUS, 0, 1⟩
abbrev CLE_OVERRUN_SAT : Fld := ⟨R.CLE_OVERRUN_HI, 31, 1⟩
abbrev CLE_WR_ACTIVE (i : Nat) : Fld := ⟨(R.CLE_LOOP i), 4, 1⟩
abbrev CLE_SWAP_RST (i : Nat) : Fld := ⟨(R.CLE_LOOP i), 3, 1⟩
abbrev CLE_SWAP_PENDING (i : Nat) : Fld := ⟨(R.CLE_LOOP i), 2, 1⟩
abbrev CLE_SWAP_REQ (i : Nat) : Fld := ⟨(R.CLE_LOOP i), 1, 1⟩
abbrev CLE_BANK_ACTIVE (i : Nat) : Fld := ⟨(R.CLE_LOOP i), 0, 1⟩
abbrev SPN_COAST : Fld := ⟨R.SPN_CTL, 17, 1⟩
abbrev SPN_RUN : Fld := ⟨R.SPN_CTL, 16, 1⟩
abbrev SPN_TARGET_RPM : Fld := ⟨R.SPN_CTL, 0, 16⟩
abbrev SPN_RPM : Fld := ⟨R.SPN_STATUS, 16, 16⟩
abbrev SPN_SS_CLAMP : Fld := ⟨R.SPN_STATUS, 11, 1⟩
abbrev SPN_VLIMIT : Fld := ⟨R.SPN_STATUS, 10, 1⟩
abbrev SPN_AT_SPEED : Fld := ⟨R.SPN_STATUS, 9, 1⟩
abbrev SPN_MASTER : Fld := ⟨R.SPN_STATUS, 8, 1⟩
abbrev SPN_DIR : Fld := ⟨R.SPN_STATUS, 7, 1⟩
abbrev SPN_SRC : Fld := ⟨R.SPN_STATUS, 4, 3⟩
abbrev SPN_STATE : Fld := ⟨R.SPN_STATUS, 0, 4⟩
abbrev SPN_ANGLE : Fld := ⟨R.SPN_ANGLE, 0, 20⟩
abbrev SPN_IQ_MA : Fld := ⟨R.SPN_IQD, 16, 16⟩
abbrev SPN_ID_MA : Fld := ⟨R.SPN_IQD, 0, 16⟩
abbrev SPN_DEAD : Fld := ⟨R.SPN_PWM, 16, 8⟩
abbrev SPN_PWM_PERIOD : Fld := ⟨R.SPN_PWM, 0, 12⟩
abbrev SPN_KP : Fld := ⟨R.SPN_CUR_PI, 16, 16⟩
abbrev SPN_KI : Fld := ⟨R.SPN_CUR_PI, 0, 16⟩
abbrev SPN_SS_PRED_MAX : Fld := ⟨R.SPN_SS, 16, 4⟩
abbrev SPN_SS_TMIN : Fld := ⟨R.SPN_SS, 0, 10⟩
abbrev SPN_OBS_MIN : Fld := ⟨R.SPN_XCHK, 8, 8⟩
abbrev SPN_XCHK_EDEG : Fld := ⟨R.SPN_XCHK, 0, 8⟩
abbrev SPN_WEDGE_OFS : Fld := ⟨R.SPN_WEDGE_OFS, 0, 20⟩
abbrev SPN_ACC_MAX : Fld := ⟨R.SPN_LIMITS, 16, 12⟩
abbrev SPN_IMAX_MA : Fld := ⟨R.SPN_LIMITS, 0, 12⟩
abbrev SPN_BRAKE_MA : Fld := ⟨R.SPN_BRAKE, 0, 12⟩
abbrev SPN_SPINUP_TIMEOUT : Fld := ⟨R.SPN_FAULT, 6, 1⟩
abbrev SPN_START_REFUSED : Fld := ⟨R.SPN_FAULT, 5, 1⟩
abbrev SPN_SRC_ALL_LOST : Fld := ⟨R.SPN_FAULT, 4, 1⟩
abbrev SPN_WEDGE_DISAGREE : Fld := ⟨R.SPN_FAULT, 3, 1⟩
abbrev SPN_OBS_LOST : Fld := ⟨R.SPN_FAULT, 2, 1⟩
abbrev SPN_ENC_LOST : Fld := ⟨R.SPN_FAULT, 1, 1⟩
abbrev SPN_SS_PRED_LIMIT : Fld := ⟨R.SPN_FAULT, 0, 1⟩
abbrev SPN_SS_PRED_SAT : Fld := ⟨R.SPN_SS_PRED_HI, 31, 1⟩
abbrev VCM_RETRACT (i : Nat) : Fld := ⟨(R.VCM_CTL i), 1, 1⟩
abbrev VCM_LOAD (i : Nat) : Fld := ⟨(R.VCM_CTL i), 0, 1⟩
abbrev VCM_BAND (i : Nat) : Fld := ⟨(R.VCM_STATUS i), 8, 24⟩
abbrev VCM_SHOCK (i : Nat) : Fld := ⟨(R.VCM_STATUS i), 5, 1⟩
abbrev VCM_UNSAFE (i : Nat) : Fld := ⟨(R.VCM_STATUS i), 4, 1⟩
abbrev VCM_COIL (i : Nat) : Fld := ⟨(R.VCM_STATUS i), 3, 1⟩
abbrev VCM_STATE (i : Nat) : Fld := ⟨(R.VCM_STATUS i), 0, 3⟩
abbrev VCM_TARGET (i : Nat) : Fld := ⟨(R.VCM_TARGET i), 0, 24⟩
abbrev VCM_ICMD (i : Nat) : Fld := ⟨(R.VCM_IMEAS i), 16, 16⟩
abbrev VCM_I_MA (i : Nat) : Fld := ⟨(R.VCM_IMEAS i), 0, 16⟩
abbrev VCM_KP (i : Nat) : Fld := ⟨(R.VCM_CUR_PI i), 16, 16⟩
abbrev VCM_KI (i : Nat) : Fld := ⟨(R.VCM_CUR_PI i), 0, 16⟩
abbrev VCM_SHOCK_LIMIT (i : Nat) : Fld := ⟨(R.VCM_UNSAFE_CFG i), 8, 8⟩
abbrev VCM_SAT_SAMPLES (i : Nat) : Fld := ⟨(R.VCM_UNSAFE_CFG i), 0, 8⟩
abbrev VCM_RET_LATCH (i : Nat) : Fld := ⟨(R.VCM_RET_CFG i), 24, 8⟩
abbrev VCM_RET_VEL (i : Nat) : Fld := ⟨(R.VCM_RET_CFG i), 16, 8⟩
abbrev VCM_RET_IMAX_MA (i : Nat) : Fld := ⟨(R.VCM_RET_CFG i), 0, 12⟩
abbrev VCM_RET_KB_BKP (i : Nat) : Fld := ⟨(R.VCM_RET_KB i), 16, 16⟩
abbrev VCM_RET_KB_PRI (i : Nat) : Fld := ⟨(R.VCM_RET_KB i), 0, 16⟩
abbrev VCM_SEEK_VEL (i : Nat) : Fld := ⟨(R.VCM_SEEK_CFG i), 16, 16⟩
abbrev VCM_SEEK_ACC (i : Nat) : Fld := ⟨(R.VCM_SEEK_CFG i), 0, 16⟩
abbrev VCM_OVERRUN (i : Nat) : Fld := ⟨(R.VCM_FAULT i), 4, 1⟩
abbrev VCM_CENTRE (i : Nat) : Fld := ⟨(R.VCM_FAULT i), 3, 1⟩
abbrev VCM_SHOCK_SEEN (i : Nat) : Fld := ⟨(R.VCM_FAULT i), 2, 1⟩
abbrev VCM_ISAT (i : Nat) : Fld := ⟨(R.VCM_FAULT i), 1, 1⟩
abbrev VCM_RET_TIMEOUT (i : Nat) : Fld := ⟨(R.VCM_FAULT i), 0, 1⟩
abbrev MA_CMD (i : Nat) : Fld := ⟨(R.MA_CMD i), 16, 16⟩
abbrev MA_HOLD (i : Nat) : Fld := ⟨(R.MA_CMD i), 0, 1⟩
abbrev MA_GAIN (i : Nat) : Fld := ⟨(R.MA_CFG i), 16, 16⟩
abbrev MA_EN (i : Nat) : Fld := ⟨(R.MA_CFG i), 0, 1⟩
abbrev FAN_POLE_PAIRS (i : Nat) : Fld := ⟨(R.FAN_CTL i), 20, 4⟩
abbrev FAN_RUN (i : Nat) : Fld := ⟨(R.FAN_CTL i), 16, 1⟩
abbrev FAN_DUTY (i : Nat) : Fld := ⟨(R.FAN_CTL i), 0, 12⟩
abbrev FAN_RPM (i : Nat) : Fld := ⟨(R.FAN_STATUS i), 16, 16⟩
abbrev FAN_DIR (i : Nat) : Fld := ⟨(R.FAN_STATUS i), 6, 1⟩
abbrev FAN_HALL (i : Nat) : Fld := ⟨(R.FAN_STATUS i), 3, 3⟩
abbrev FAN_STATE (i : Nat) : Fld := ⟨(R.FAN_STATUS i), 0, 3⟩
abbrev FAN_OVERCURRENT (i : Nat) : Fld := ⟨(R.FAN_FAULT i), 3, 1⟩
abbrev FAN_START_REFUSED (i : Nat) : Fld := ⟨(R.FAN_FAULT i), 2, 1⟩
abbrev FAN_STALL (i : Nat) : Fld := ⟨(R.FAN_FAULT i), 1, 1⟩
abbrev FAN_HALL_INVALID (i : Nat) : Fld := ⟨(R.FAN_FAULT i), 0, 1⟩
abbrev FC_PATROL_EN (i : Nat) : Fld := ⟨(R.FC_CTL i), 1, 1⟩
abbrev FC_EN (i : Nat) : Fld := ⟨(R.FC_CTL i), 0, 1⟩
abbrev FC_DIES (i : Nat) : Fld := ⟨(R.FC_STATUS i), 24, 5⟩
abbrev FC_OPS (i : Nat) : Fld := ⟨(R.FC_STATUS i), 16, 8⟩
abbrev FC_TOKEN (i : Nat) : Fld := ⟨(R.FC_STATUS i), 7, 1⟩
abbrev FC_IFACE (i : Nat) : Fld := ⟨(R.FC_STATUS i), 6, 1⟩
abbrev FC_STATE (i : Nat) : Fld := ⟨(R.FC_STATUS i), 0, 3⟩
abbrev FC_RATE_MTS (i : Nat) : Fld := ⟨(R.FC_RATE i), 0, 16⟩
abbrev FC_ERR_TRAIN (i : Nat) : Fld := ⟨(R.FC_ERR i), 7, 1⟩
abbrev FC_ERR_TIMEOUT (i : Nat) : Fld := ⟨(R.FC_ERR i), 6, 1⟩
abbrev FC_ERR_PROG (i : Nat) : Fld := ⟨(R.FC_ERR i), 5, 1⟩
abbrev FC_ERR_ERASE (i : Nat) : Fld := ⟨(R.FC_ERR i), 4, 1⟩
abbrev FC_ERR_UNCORR (i : Nat) : Fld := ⟨(R.FC_ERR i), 3, 1⟩
abbrev FC_ERR_PARITY_USED (i : Nat) : Fld := ⟨(R.FC_ERR i), 2, 1⟩
abbrev FC_ERR_INTERRUPTED (i : Nat) : Fld := ⟨(R.FC_ERR i), 1, 1⟩
abbrev FC_ERR_RETRY (i : Nat) : Fld := ⟨(R.FC_ERR i), 0, 1⟩
abbrev FC_PROG_SAT (i : Nat) : Fld := ⟨(R.FC_PROG_HI i), 31, 1⟩
abbrev FC_RETRY_SAT (i : Nat) : Fld := ⟨(R.FC_RETRY_HI i), 31, 1⟩
abbrev FC_DIE_SPARE (i : Nat) (j : Nat) : Fld := ⟨(R.FC_DIE i j), 16, 12⟩
abbrev FC_DIE_PE_PCT (i : Nat) (j : Nat) : Fld := ⟨(R.FC_DIE i j), 8, 8⟩
abbrev FC_DIE_STATE (i : Nat) (j : Nat) : Fld := ⟨(R.FC_DIE i j), 0, 3⟩
abbrev FPM_READY : Fld := ⟨R.FPM_STATUS, 0, 2⟩
abbrev RACK_VERIFY_RUNS : Fld := ⟨R.RACK_CTL, 5, 1⟩
abbrev RACK_RUN_PARITY : Fld := ⟨R.RACK_CTL, 4, 1⟩
abbrev RACK_EN : Fld := ⟨R.RACK_CTL, 0, 4⟩
abbrev RACK_FREE_MIN_PCT : Fld := ⟨R.RACK_STATUS, 16, 8⟩
abbrev RACK_ACTIVE : Fld := ⟨R.RACK_STATUS, 8, 4⟩
abbrev RACK_CAP_FULL : Fld := ⟨R.RACK_STATUS, 2, 1⟩
abbrev RACK_FLASH_RO : Fld := ⟨R.RACK_STATUS, 1, 1⟩
abbrev RACK_URGENT : Fld := ⟨R.RACK_STATUS, 0, 1⟩
abbrev RACK_GC_LOW : Fld := ⟨R.RACK_GC_CFG, 24, 8⟩
abbrev RACK_GC_HIGH : Fld := ⟨R.RACK_GC_CFG, 16, 8⟩
abbrev RACK_WL_SPREAD : Fld := ⟨R.RACK_GC_CFG, 0, 16⟩
abbrev RACK_COOL_HI : Fld := ⟨R.RACK_COOL_CFG, 24, 8⟩
abbrev RACK_COOL_LO : Fld := ⟨R.RACK_COOL_CFG, 16, 8⟩
abbrev RACK_COMPACT_PCT : Fld := ⟨R.RACK_COOL_CFG, 8, 8⟩
abbrev RACK_SHARE : Fld := ⟨R.RACK_COOL_CFG, 0, 8⟩
abbrev RACK_WARM_WINDOW : Fld := ⟨R.RACK_WARM_CFG, 16, 16⟩
abbrev RACK_WARM_HITS : Fld := ⟨R.RACK_WARM_CFG, 0, 8⟩
abbrev RACK_CAP_RES : Fld := ⟨R.RACK_RESERVE, 16, 16⟩
abbrev RACK_JOURNAL_RES : Fld := ⟨R.RACK_RESERVE, 0, 16⟩
abbrev RACK_PATROL_DAYS : Fld := ⟨R.RACK_PATROL, 0, 8⟩
abbrev RACK_MOVED_SAT : Fld := ⟨R.RACK_MOVED_HI, 31, 1⟩
abbrev RACK_RESTART_SAT : Fld := ⟨R.RACK_RESTART_HI, 31, 1⟩
abbrev FPM_COMMITTED : Fld := ⟨R.FPM_GCTL, 1, 1⟩
abbrev FPM_COMMIT : Fld := ⟨R.FPM_GCTL, 0, 1⟩
abbrev RED_FLT_CLR : Fld := ⟨R.RED_CTL, 2, 1⟩
abbrev RED_DEFER_FORCE : Fld := ⟨R.RED_CTL, 1, 1⟩
abbrev RED_FAST_FORCE : Fld := ⟨R.RED_CTL, 0, 1⟩
abbrev RED_CAP_YW : Fld := ⟨R.RED_STATUS, 8, 4⟩
abbrev RED_CAP_DQ : Fld := ⟨R.RED_STATUS, 4, 4⟩
abbrev RED_BACKLOG : Fld := ⟨R.RED_STATUS, 2, 1⟩
abbrev RED_FLT_HALF1 : Fld := ⟨R.RED_STATUS, 1, 1⟩
abbrev RED_FLT_HALF0 : Fld := ⟨R.RED_STATUS, 0, 1⟩
abbrev RED_BACKLOG_LO : Fld := ⟨R.RED_BACKLOG_CFG, 16, 16⟩
abbrev RED_BACKLOG_HI : Fld := ⟨R.RED_BACKLOG_CFG, 0, 16⟩
abbrev RED_RAW_MARGIN : Fld := ⟨R.RED_CFG, 0, 13⟩
abbrev RED_FLT_INS (i : Nat) : Fld := ⟨(R.RED_FLT_COUNT i), 0, 20⟩
abbrev RED_CHUNKS_SAT : Fld := ⟨R.RED_CHUNKS_HI, 31, 1⟩
abbrev RED_DEDUP_INLINE_SAT : Fld := ⟨R.RED_DEDUP_INLINE_HI, 31, 1⟩
abbrev RED_DEDUP_DEFER_SAT : Fld := ⟨R.RED_DEDUP_DEFER_HI, 31, 1⟩
abbrev RED_FLT_FALSE_SAT : Fld := ⟨R.RED_FLT_FALSE_HI, 31, 1⟩
abbrev RED_COLLIDE_SAT : Fld := ⟨R.RED_COLLIDE_HI, 31, 1⟩
abbrev RED_RAW_SAT : Fld := ⟨R.RED_RAW_HI, 31, 1⟩
abbrev RED_STORED_KIB_SAT : Fld := ⟨R.RED_STORED_KIB_HI, 31, 1⟩
abbrev RED_DECODE_ERR_SAT : Fld := ⟨R.RED_DECODE_ERR_HI, 31, 1⟩
abbrev RED_ERR_VALID : Fld := ⟨R.RED_ERR_LOG, 31, 1⟩
abbrev RED_ERR_OVF : Fld := ⟨R.RED_ERR_LOG, 16, 8⟩
abbrev RED_ERR_CODE : Fld := ⟨R.RED_ERR_LOG, 0, 16⟩
abbrev Q_PUSH (i : Nat) : Fld := ⟨(R.Q_DB i), 2, 3⟩
abbrev Q_CQ_DB (i : Nat) : Fld := ⟨(R.Q_DB i), 1, 1⟩
abbrev Q_SQ_DB (i : Nat) : Fld := ⟨(R.Q_DB i), 0, 1⟩
abbrev Q_VEC (i : Nat) : Fld := ⟨(R.Q_CTL i), 16, 11⟩
abbrev Q_EXPERT_KINDS (i : Nat) : Fld := ⟨(R.Q_CTL i), 9, 1⟩
abbrev Q_SHUT_MODE (i : Nat) : Fld := ⟨(R.Q_CTL i), 8, 1⟩
abbrev Q_POLL (i : Nat) : Fld := ⟨(R.Q_CTL i), 4, 1⟩
abbrev Q_IRQ_EN (i : Nat) : Fld := ⟨(R.Q_CTL i), 3, 1⟩
abbrev Q_SKIP (i : Nat) : Fld := ⟨(R.Q_CTL i), 2, 1⟩
abbrev Q_RESUME (i : Nat) : Fld := ⟨(R.Q_CTL i), 1, 1⟩
abbrev Q_STOP (i : Nat) : Fld := ⟨(R.Q_CTL i), 0, 1⟩
abbrev Q_ERR_SLOT (i : Nat) : Fld := ⟨(R.Q_STATUS i), 16, 16⟩
abbrev Q_HELD (i : Nat) : Fld := ⟨(R.Q_STATUS i), 8, 7⟩
abbrev Q_CQ_STALL (i : Nat) : Fld := ⟨(R.Q_STATUS i), 7, 1⟩
abbrev Q_FENCE_HOLD (i : Nat) : Fld := ⟨(R.Q_STATUS i), 6, 1⟩
abbrev Q_FENCE_WAIT (i : Nat) : Fld := ⟨(R.Q_STATUS i), 5, 1⟩
abbrev Q_CQ_STALL_SEEN (i : Nat) : Fld := ⟨(R.Q_STATUS i), 4, 1⟩
abbrev Q_STOP_REFUSED (i : Nat) : Fld := ⟨(R.Q_STATUS i), 3, 1⟩
abbrev Q_STATE (i : Nat) : Fld := ⟨(R.Q_STATUS i), 0, 3⟩
abbrev SLU_HEADGATE : Fld := ⟨R.SLU_STATUS, 16, 11⟩
abbrev SLU_USED : Fld := ⟨R.SLU_STATUS, 0, 14⟩
abbrev SLU_HWM_RST : Fld := ⟨R.SLU_HWM, 31, 1⟩
abbrev SLU_HWM_HEADGATE : Fld := ⟨R.SLU_HWM, 16, 11⟩
abbrev SLU_HWM_USED : Fld := ⟨R.SLU_HWM, 0, 14⟩
abbrev SLU_DB_BAD : Fld := ⟨R.SLU_FLAGS, 1, 1⟩
abbrev SLU_HEADGATE_FULL : Fld := ⟨R.SLU_FLAGS, 0, 1⟩
abbrev SLU_CONFLICT_SAT : Fld := ⟨R.SLU_CONFLICT_HI, 31, 1⟩
abbrev SLU_HELD_SAT : Fld := ⟨R.SLU_HELD_HI, 31, 1⟩
abbrev NVM_IOQ_USED : Fld := ⟨R.NVM_STATUS, 16, 14⟩
abbrev NVM_CTRL_FABRIC : Fld := ⟨R.NVM_STATUS, 8, 8⟩
abbrev NVM_CTRL_PCIE : Fld := ⟨R.NVM_STATUS, 0, 1⟩
abbrev NVM_ANA_STATE (i : Nat) : Fld := ⟨(R.NVM_ANA i), 0, 3⟩
abbrev FAB_PORTS_UP : Fld := ⟨R.FAB_STATUS, 8, 8⟩
abbrev FAB_PROFILE : Fld := ⟨R.FAB_STATUS, 0, 3⟩
abbrev FAB_CONN_NVME : Fld := ⟨R.FAB_CONN, 16, 14⟩
abbrev FAB_CONN_CANAL : Fld := ⟨R.FAB_CONN, 0, 11⟩
abbrev FAB_P_PFC_ACTIVE (i : Nat) : Fld := ⟨(R.FAB_P_STATUS i), 10, 1⟩
abbrev FAB_P_SPEED (i : Nat) : Fld := ⟨(R.FAB_P_STATUS i), 8, 2⟩
abbrev FAB_P_LANES (i : Nat) : Fld := ⟨(R.FAB_P_STATUS i), 4, 4⟩
abbrev FAB_P_FEC_UNCORR (i : Nat) : Fld := ⟨(R.FAB_P_STATUS i), 3, 1⟩
abbrev FAB_P_LINK_LOST (i : Nat) : Fld := ⟨(R.FAB_P_STATUS i), 2, 1⟩
abbrev FAB_P_EN (i : Nat) : Fld := ⟨(R.FAB_P_STATUS i), 1, 1⟩
abbrev FAB_P_UP (i : Nat) : Fld := ⟨(R.FAB_P_STATUS i), 0, 1⟩
abbrev FAB_P_TXTS_VALID (i : Nat) : Fld := ⟨(R.FAB_P_TXTS_INFO i), 31, 1⟩
abbrev FAB_P_TXTS_SEQ (i : Nat) : Fld := ⟨(R.FAB_P_TXTS_INFO i), 0, 16⟩
abbrev FAB_P_RX_SAT (i : Nat) : Fld := ⟨(R.FAB_P_RX_HI i), 31, 1⟩
abbrev FAB_P_TX_SAT (i : Nat) : Fld := ⟨(R.FAB_P_TX_HI i), 31, 1⟩
abbrev FAB_P_RXERR_SAT (i : Nat) : Fld := ⟨(R.FAB_P_RXERR_HI i), 31, 1⟩
abbrev FAB_P_FECC_SAT (i : Nat) : Fld := ⟨(R.FAB_P_FECC_HI i), 31, 1⟩
abbrev FAB_LANE_EYE (i : Nat) : Fld := ⟨(R.FAB_LANE i), 8, 8⟩
abbrev FAB_LANE_TRAINED (i : Nat) : Fld := ⟨(R.FAB_LANE i), 2, 1⟩
abbrev FAB_LANE_LOCKED (i : Nat) : Fld := ⟨(R.FAB_LANE i), 1, 1⟩
abbrev FAB_LANE_PWR (i : Nat) : Fld := ⟨(R.FAB_LANE i), 0, 1⟩
abbrev NAL_WIDTH : Fld := ⟨R.NAL_STATUS, 3, 3⟩
abbrev NAL_UP : Fld := ⟨R.NAL_STATUS, 2, 1⟩
abbrev NAL_HB_OK : Fld := ⟨R.NAL_STATUS, 1, 1⟩
abbrev NAL_TORQUE_LOCAL : Fld := ⟨R.NAL_STATUS, 0, 1⟩
abbrev NAL_LANE_GOOD : Fld := ⟨R.NAL_LANES, 0, 16⟩
abbrev NAL_FENCE_TEST_FAIL : Fld := ⟨R.NAL_FENCE, 3, 1⟩
abbrev NAL_FENCED : Fld := ⟨R.NAL_FENCE, 2, 1⟩
abbrev NAL_FENCE_IN : Fld := ⟨R.NAL_FENCE, 1, 1⟩
abbrev NAL_FENCE_OUT : Fld := ⟨R.NAL_FENCE, 0, 1⟩
abbrev NAL_HB_SEQ_SKIP_SAT : Fld := ⟨R.NAL_HB_SEQ_SKIP_HI, 31, 1⟩
abbrev NAL_REPLAY_SAT : Fld := ⟨R.NAL_REPLAY_HI, 31, 1⟩
abbrev NAL_TOK_STATE (i : Nat) : Fld := ⟨(R.NAL_TOKEN i), 18, 2⟩
abbrev NAL_TOK_VALID (i : Nat) : Fld := ⟨(R.NAL_TOKEN i), 17, 1⟩
abbrev NAL_TOK_OWNER (i : Nat) : Fld := ⟨(R.NAL_TOKEN i), 16, 1⟩
abbrev NAL_TOK_EPOCH (i : Nat) : Fld := ⟨(R.NAL_TOKEN i), 0, 16⟩
abbrev DMA_VEC (i : Nat) : Fld := ⟨(R.DMA_CH_CTL i), 16, 11⟩
abbrev DMA_RESUME (i : Nat) : Fld := ⟨(R.DMA_CH_CTL i), 3, 1⟩
abbrev DMA_STOP (i : Nat) : Fld := ⟨(R.DMA_CH_CTL i), 2, 1⟩
abbrev DMA_GO (i : Nat) : Fld := ⟨(R.DMA_CH_CTL i), 1, 1⟩
abbrev DMA_EN (i : Nat) : Fld := ⟨(R.DMA_CH_CTL i), 0, 1⟩
abbrev DMA_ERR_CODE (i : Nat) : Fld := ⟨(R.DMA_CH_STATUS i), 16, 16⟩
abbrev DMA_STATE (i : Nat) : Fld := ⟨(R.DMA_CH_STATUS i), 0, 3⟩
abbrev DMA_WIN_VALID (i : Nat) : Fld := ⟨(R.DMA_WIN_CTL i), 31, 1⟩
abbrev DMA_WIN_R (i : Nat) : Fld := ⟨(R.DMA_WIN_CTL i), 30, 1⟩
abbrev DMA_WIN_W (i : Nat) : Fld := ⟨(R.DMA_WIN_CTL i), 29, 1⟩
abbrev DMA_WIN_SPACE (i : Nat) : Fld := ⟨(R.DMA_WIN_CTL i), 24, 3⟩
abbrev DMA_WIN_LOG2 (i : Nat) : Fld := ⟨(R.DMA_WIN_CTL i), 0, 6⟩
abbrev DMA_COMMITTED : Fld := ⟨R.DMA_GCTL, 1, 1⟩
abbrev DMA_COMMIT : Fld := ⟨R.DMA_GCTL, 0, 1⟩
abbrev TC_PREFETCH : Fld := ⟨R.TC_CTL, 17, 1⟩
abbrev TC_EN : Fld := ⟨R.TC_CTL, 16, 1⟩
abbrev TC_LOCK : Fld := ⟨R.TC_CTL, 0, 16⟩
abbrev TC_OP : Fld := ⟨R.TC_MAINT, 28, 2⟩
abbrev TC_WAY : Fld := ⟨R.TC_MAINT, 24, 4⟩
abbrev TC_LINES : Fld := ⟨R.TC_MAINT, 0, 14⟩
abbrev TC_MAINT_ERR : Fld := ⟨R.TC_STATUS, 1, 1⟩
abbrev TC_MAINT_BUSY : Fld := ⟨R.TC_STATUS, 0, 1⟩
abbrev TC_HIT_SAT : Fld := ⟨R.TC_HIT_HI, 31, 1⟩
abbrev TC_MISS_SAT : Fld := ⟨R.TC_MISS_HI, 31, 1⟩
abbrev TC_LOCK_INVAL_SAT : Fld := ⟨R.TC_LOCK_INVAL_HI, 31, 1⟩
abbrev TC_UE_REFILL_SAT : Fld := ⟨R.TC_UE_REFILL_HI, 31, 1⟩
abbrev TC_FILL_DROP_SAT : Fld := ⟨R.TC_FILL_DROP_HI, 31, 1⟩
abbrev ECC_CE_THRESH (i : Nat) : Fld := ⟨(R.ECC_CFG i), 16, 16⟩
abbrev ECC_CE_WINDOW (i : Nat) : Fld := ⟨(R.ECC_CFG i), 8, 8⟩
abbrev ECC_HIT_THRESH (i : Nat) : Fld := ⟨(R.ECC_CFG i), 4, 4⟩
abbrev ECC_PATROL_EN (i : Nat) : Fld := ⟨(R.ECC_CFG i), 0, 1⟩
abbrev ECC_CE_RATE (i : Nat) : Fld := ⟨(R.ECC_STATUS i), 2, 1⟩
abbrev ECC_PERSIST (i : Nat) : Fld := ⟨(R.ECC_STATUS i), 1, 1⟩
abbrev ECC_UE_SEEN (i : Nat) : Fld := ⟨(R.ECC_STATUS i), 0, 1⟩
abbrev ECC_CE_SAT (i : Nat) : Fld := ⟨(R.ECC_CE_HI i), 31, 1⟩
abbrev ECC_UE_SAT (i : Nat) : Fld := ⟨(R.ECC_UE_HI i), 31, 1⟩
abbrev ECC_UE_VALID (i : Nat) : Fld := ⟨(R.ECC_UE_LOG i), 31, 1⟩
abbrev ECC_UE_OVF (i : Nat) : Fld := ⟨(R.ECC_UE_LOG i), 16, 8⟩
abbrev ECC_UE_SRC (i : Nat) : Fld := ⟨(R.ECC_UE_LOG i), 0, 4⟩
abbrev ECC_LOG_VALID (i : Nat) (j : Nat) : Fld := ⟨(R.ECC_LOG_INFO i j), 31, 1⟩
abbrev ECC_LOG_REPORTED (i : Nat) (j : Nat) : Fld := ⟨(R.ECC_LOG_INFO i j), 30, 1⟩
abbrev ECC_LOG_HITS (i : Nat) (j : Nat) : Fld := ⟨(R.ECC_LOG_INFO i j), 0, 8⟩
abbrev ECC_FILL_DRAM_DONE : Fld := ⟨R.ECC_FILL_CTL, 3, 1⟩
abbrev ECC_FILL_CELLAR_DONE : Fld := ⟨R.ECC_FILL_CTL, 2, 1⟩
abbrev ECC_FILL_DRAM : Fld := ⟨R.ECC_FILL_CTL, 1, 1⟩
abbrev ECC_FILL_CELLAR : Fld := ⟨R.ECC_FILL_CTL, 0, 1⟩
abbrev VAT_POOL_FULL : Fld := ⟨R.VAT_STATUS, 3, 1⟩
abbrev VAT_MIRROR_UP : Fld := ⟨R.VAT_STATUS, 2, 1⟩
abbrev VAT_SHORT_SEAL : Fld := ⟨R.VAT_STATUS, 1, 1⟩
abbrev VAT_READY : Fld := ⟨R.VAT_STATUS, 0, 1⟩
abbrev VAT_POOL_OWN_MIB : Fld := ⟨R.VAT_POOL, 16, 16⟩
abbrev VAT_POOL_MIRROR_MIB : Fld := ⟨R.VAT_POOL, 0, 16⟩
abbrev DRC_RATE_MTS : Fld := ⟨R.DRC_STATUS, 19, 13⟩
abbrev DRC_CAP_GIB : Fld := ⟨R.DRC_STATUS, 9, 10⟩
abbrev DRC_CH_MASK : Fld := ⟨R.DRC_STATUS, 5, 4⟩
abbrev DRC_STATE : Fld := ⟨R.DRC_STATUS, 0, 3⟩
abbrev DRC_PATROL_HOURS : Fld := ⟨R.DRC_PATROL, 0, 16⟩
abbrev DRC_RETIRED_PAGES : Fld := ⟨R.DRC_RETIRED, 0, 11⟩
end F

end Sys2Proof.Machine
end

