-- ==== Sys2Proof/Machine/Sparse.lean ====
section
/-! DEFINITION. Sparse maps in one canonical form: keys strictly rising and no entry equal to what an unlisted key
reads as. Memory (Host.Cell entries) and the register file are such lists. -/

namespace Sys2Proof.Machine

/-- The value at key `k`: the listed one, or the default of an unlisted key. -/
def smGet {α : Type} (d : Nat → α) : List (Nat × α) → Nat → α
  | [], k => d k
  | (a, v) :: r, k => if a = k then v else smGet d r k

/-- `(k, v)` in front of `r`, unless `v` is what an unlisted `k` reads as. -/
def smCons {α : Type} [DecidableEq α] (d : Nat → α) (k : Nat) (v : α) (r : List (Nat × α)) : List (Nat × α) :=
  if v = d k then r else (k, v) :: r

/-- Set key `k` to `v`, keeping the canonical form. -/
def smPut {α : Type} [DecidableEq α] (d : Nat → α) : List (Nat × α) → Nat → α → List (Nat × α)
  | [], k, v => smCons d k v []
  | (a, w) :: r, k, v =>
    if k < a then smCons d k v ((a, w) :: r)
    else if k = a then smCons d k v r
    else (a, w) :: smPut d r k v

/-- Keep only the keys that satisfy `p`: every other key reads its default again. -/
def smKeep {α : Type} (p : Nat → Bool) (l : List (Nat × α)) : List (Nat × α) :=
  l.filter (fun e => p e.1)

/-- The canonical form: keys strictly rising from `lo`, no entry equal to its default. -/
def smWfFrom {α : Type} [DecidableEq α] (d : Nat → α) : Nat → List (Nat × α) → Bool
  | _, [] => true
  | lo, (a, v) :: r => decide (lo ≤ a) && decide (v ≠ d a) && smWfFrom d (a + 1) r

/-- The canonical form of a sparse map. -/
def smWf {α : Type} [DecidableEq α] (d : Nat → α) (l : List (Nat × α)) : Bool := smWfFrom d 0 l

/-- Set several keys, in order. -/
def smPutAll {α : Type} [DecidableEq α] (d : Nat → α) (l : List (Nat × α)) : List (Nat × α) → List (Nat × α)
  | [] => l
  | (k, v) :: r => smPutAll d (smPut d l k v) r

end Sys2Proof.Machine
end

