-- ==== Sys2Proof/Machine/State.lean ====
section
/-! DEFINITION. The state of the block: the register file, the memories, the pins, the state behind each chapter of
the spec that no register shows, and the queue of waiting commands. All of it is plain data. -/

namespace Sys2Proof.Machine

/-- Why the machine stops. No command of this model stops with a fault: every access that the spec refuses has an
error response of its own (R499), which is a next state. -/
inductive Fault where
  /-- Raised by no command: the spec names no condition under which the block stops without a next state. Safe. -/
  | deviceStopped
deriving DecidableEq, Repr

/-- Why a command has no meaning. -/
inductive Refusal where
  /-- Raised by an arm of `exec` whose command has no meaning yet. Safe. -/
  | notModelled (mnemonic : String)
deriving DecidableEq, Repr

/-! ### The pair: tokens and the mechanism descriptor -/

/-- States of a token record (R29). -/
inductive TokState where
  | owned | partner | releasing | refused
deriving DecidableEq, Repr

/-- One token record of the Vat (R29). -/
structure TokRec where
  state : TokState
  owner : Nat
  epoch : BitVec 16
deriving DecidableEq, Repr

/-- The mechanism descriptor's fields (R18). -/
structure Desc where
  actuators : Nat
  surfaces : Nat
  windingSets : Nat
  airMoverMask : Nat
  rpmNominal : Nat
  wedges : Nat
  polePairs : Nat
  encoderSensors : Nat
  preampMask : Nat
  spnImaxMa : Nat
  vcmImaxMa : Nat
  vcmPriMohm : Nat
  vcmBkpMohm : Nat
  tablesPtr : Nat
  serial : List Byte
  check : Nat
deriving DecidableEq, Repr

/-! ### Faults -/

/-- One entry of the fault log (R481). -/
structure FaultEntry where
  code : Nat
  cls : Nat
  block : Nat
  inst : Nat
  aux : Nat
  time : BitVec 64
deriving DecidableEq, Repr

/-- What the fault machinery keeps beside the fault groups: the (block, code) pairs of corrected class logged in the
present second, the entries withheld per block (R481), the recent contained faults for the sliding windows and the
instances escalated (R482). -/
structure FaultSt where
  corrLogged : List (Nat × Nat)
  withheld : List (Nat × Nat)
  recent : List (Nat × Nat × Nat)
  escalated : List (Nat × Nat)
deriving DecidableEq, Repr

/-! ### Images, measurements, nonvolatile configuration -/

/-- One image slot of the Vat: its bytes and whether it is valid (R126, R144). -/
structure Slot where
  bytes : List Byte
  valid : Bool
deriving DecidableEq, Repr

/-- The two slots of one kind of image, the active one, and the trial flags (R126, R133, R134). `trial` is the slot
whose trial flag is set; `started` the slot whose trial has started unconfirmed. -/
structure SlotPair where
  slots : List Slot
  active : Nat
  trial : Option Nat
  started : Option Nat
deriving DecidableEq, Repr

/-- The power-fail record (R99 step 8, R101): fields of PWR_PF_TIME and PWR_PF_INFO, the fault groups, and whether
the temperature history was saved (R432). -/
structure PfRecord where
  time : BitVec 64
  short : Bool
  parked : Bool
  sealed : Bool
  mode : Nat
  groups : List (Nat × Word)
deriving DecidableEq, Repr

/-- The last-good-boot record (R139). -/
structure GoodBoot where
  meas2 : List Byte
  meas3 : List Byte
  meas4 : List Byte
  meas5 : List Byte
  time : BitVec 64
deriving DecidableEq, Repr

/-- What the Vat keeps through a power failure beside the journal: configuration, images, token records, the
retirement lists (R446), the fault log, the power-fail and last-good-boot records (R101, R126, R139, R481); and the fused
minimum SVNs, which only FW_COMMIT_SVN raises (R146). -/
structure Nv where
  autoStart : Bool
  startFallow : Bool
  fabProfile : Option Nat
  brickId : Option Nat
  expertRoots : List (List Byte)
  accepted : List (List Byte)
  sup : SlotPair
  ctl : SlotPair
  tokens : List (Nat × TokRec)
  retired : List (Nat × Nat)
  faultLog : List FaultEntry
  logNext : BitVec 32
  pf : Option PfRecord
  lastGood : Option GoodBoot
  svnMinSup : Nat
  svnMinCtl : Nat
deriving DecidableEq, Repr

/-! ### Mailboxes -/

/-- A mailbox completion before it is written to the page (R154). -/
structure MbxResult where
  status : Nat
  data : List Byte
  dataDone : Nat
  info : Nat
  ext : List Byte
deriving DecidableEq, Repr

/-- What a mailbox holds beside MBX_STATE and MBX_CTL: the command copied at acceptance, its SEQ (R155), the NVMe
controller whose Mailbox Send holds it (R152), whether its row has run, its completion, and whether a reset waits for
the end of a RUNNING command (the completion is then discarded, R159). `req` is the partner's request that the command
stands for (R534). `regAt` and `regData` are the words that a REG_READ or REG_WRITE has performed, and what it has read, while it
waits at an island (R114, R176): `regWait`. `xferFail` are the bytes moved before a DATA_PTR transfer to the device failed (R156). -/
structure Mailbox where
  cmd : MbxCmd
  seq : BitVec 32
  holder : Option Nat
  req : Option Nat
  fromMsg : Bool
  started : Bool
  result : Option MbxResult
  regAt : Nat
  regData : List Byte
  regWait : Bool
  xferFail : Option Nat
deriving DecidableEq, Repr

/-- A mailbox FENCE from its acceptance to its end (R167): its mailbox, whether it holds its queues, ALL_NVME, the native
queues of its mask, and what it waits for: native entries (queue and index), NVMe commands, mailbox commands by sequence
number. -/
structure FenceSt where
  mbx : Nat
  hold : Bool
  allNvme : Bool
  queues : List Nat
  entries : List (Nat × Nat)
  nvme : List Nat
  mboxes : List Nat
deriving DecidableEq, Repr

/-- A split-counter snapshot (R175): path number, HI address, value. -/
structure Snap where
  path : Nat
  addr : Nat
  val : Word
deriving DecidableEq, Repr

/-! ### SPDM and boot -/

/-- An SPDM session (R141, R172): its identifier, its port (0 SMBus, 1 PCIe DOE, 2 fabric), its purpose, whether its
handshake has finished, and of a canal session whether the peer has passed this device's attestation test (R384 step 5). -/
structure SpdmSess where
  sid : Nat
  port : Nat
  purpose : Nat
  up : Bool
  attested : Bool
deriving DecidableEq, Repr

/-- What SPDM keeps (R138, R140, R142): how far the negotiation of each port stands (0 nothing, 1 version, 2 capabilities,
3 algorithms) with its data transfer size, the sessions, a large request as far as received and a large response as far
as fetched (port, next chunk, bytes), and the request that the partner has not answered yet. -/
structure SpdmSt where
  phase : List Nat
  dts : List Nat
  sessions : List SpdmSess
  sessNext : Nat
  chunkIn : List (Nat × Nat × List Byte)
  chunkOut : List (Nat × Nat × List Byte)
  ask : Option Nat
deriving DecidableEq, Repr

/-- A staging in progress (R144, R164): the kind of image, its owner (transport; controller or mailbox), the bytes so
far. -/
structure Staging where
  kind : Nat
  owner : Nat × Nat
  bytes : List Byte
deriving DecidableEq, Repr

/-- What the boot chain keeps (R130, R133): the slots booted, whether a trigger of Bring-up has come, whether the
nonvolatile configuration is loaded, the stagings, whether this boot has its record (R139), and whether the ROM restarts the
device after a stage (R132). -/
structure BootSt where
  supRun : Nat
  ctlRun : Nat
  trigger : Bool
  loaded : Bool
  staging : List Staging
  recorded : Bool
  restart : Bool
deriving DecidableEq, Repr

/-! ### Power and modes -/

/-- The strap lands (R68, R69): PAIR_POS as sampled under the pull-up and under the pull-down, PCIE_EN, FAB_PROF, MI_ADDR,
TEST_N. -/
structure Straps where
  pullUp : Bool
  pullDown : Bool
  pcieEn : Bool
  fabProf : Nat
  miAddr : Nat
  testN : Bool
deriving DecidableEq, Repr

/-- What power and mode sequencing keeps beside its registers. RESET_N and the strap lands are `resetN` and `straps`;
`vsysReleased` VSYS above power-on release. `hold` is the hold-up of R99; `startPermitted` the spindle start of R82, with the
disk tier unavailable (`vmotFallow`) or its commands waiting (`diskWait`) after a VMOT reaction. `target` is the mode that a change in
progress leads to, `wakePending` a wake that waits, `wakeFullCal` the calibration that disk writes wait for after a wake (R96).
`wedged` is a control cluster that has missed its watchdog; `wdtAt` when the watchdog's period began and `supCommitted` SUP_COMMIT
taken (R484). `engineDown` lists the domains whose engine has no patch it needs (R131), `engineStore` what the patches have written to the engines' buffers, by domain. -/
structure PwrSt where
  inReset : Bool
  vsysReleased : Bool
  hold : Bool
  startPermitted : Bool
  vmotFallow : Bool
  diskWait : Bool
  wakePending : Bool
  target : Option Nat
  coresRunning : Bool
  wedged : Bool
  fabProfile : Nat
  wakeFullCal : Bool
  sysRefFailed : Bool
  wdtAt : Nat
  supCommitted : Bool
  engineDown : List Nat
  engineStore : List (Nat × List Byte)
  resetN : Bool
  straps : Straps
deriving DecidableEq, Repr

/-- Which steps of the Bring-up table (R91) are done, and the failures of R20, R38 and R142 that keep the device out
of Full; of step 5 the partner's CHECK with its verdict, and whether the comparison has ended; whether the partner
is a survivor (R44). -/
structure BringSt where
  active : Bool
  dramTrained : Bool
  cellarFilled : Bool
  dramFilled : Bool
  nalTrained : Bool
  fenceTested : Bool
  fenceFailed : Bool
  descRead : Bool
  descOk : Bool
  descDiffer : Bool
  checked : Bool
  partnerCheck : Option (Nat × Bool)
  rereads : Nat
  attestOwn : Option Bool
  attestPartner : Option Bool
  replayed : Bool
  spindle : Bool
  atSpeed : Bool
  coarse : Bool
  maps : Bool
  fullCal : Bool
  tookOver : Bool
  rejoin : Bool
  partnerStep : Nat
deriving DecidableEq, Repr

/-! ### Messages the device sends -/

/-- What the device sends: each constructor is one message or pulse on a link of the spec. `nal` is a Nalyn flit by its HDR and
ACK words and the message it carries (R52; `flitBytes` lays it out). -/
inductive Msg where
  | msix (vec : Nat)
  | coreIrq (block : Nat)
  | hbFrame (w : BitVec 16)
  | nal (hdr : Nat) (ack : Nat) (kind : Nat) (args : List Nat)
  | mctp (status : Nat) (body : List Byte)
  | mbxReply (m : Nat) (body : List Byte)
  | nvmeCqe (ctrl : Nat) (cq : Nat) (cid : Nat) (status : Nat) (dw0 : Nat) (dw1 : Nat)
  | nvmeData (ctrl : Nat) (data : List Byte)
  | nativeCqe (q : Nat) (bytes : List Byte)
  | spdm (port : Nat) (code : Nat) (body : List Byte)
  | ana (grp : Nat) (state : Nat)
  | asyncEvent (kind : Nat)
  | canal (id : Nat) (kind : Nat) (args : List Nat)
  | drainDone
  | restart
  | paFrame (p : Nat) (bits : Nat)
  | clkPulse
  | busReply (p : Path) (addr : Nat) (status : Nat) (data : Nat)
  | pcieAer (addr : Nat)
  | writeData (h sid : Nat) (sections : List (List Bool)) (early : List Nat) (shiftPs : Nat)
  | writeGate (h : Nat) (on : Bool)
deriving DecidableEq, Repr

/-! ### The Vat journal -/

/-- One entry of the Vat journal (R452): its header fields and payload, whether its data has fully arrived, whether it
is sealed, covered by a MIRROR_ACK (R453) and by a flash journal page (R45), the Sluice entry whose acknowledgement it
carries, the chunks it touched that no committed record covers yet (R352), whether a unit of it is unreadable, and whether
its map change has taken effect (R348). -/
structure JEnt where
  group : Nat
  mirror : Bool
  seq : BitVec 32
  kind : Nat
  volume : Nat
  offset : Nat
  canalSeq : Nat
  payload : List Byte
  arrived : Bool
  sealed : Bool
  mirrored : Bool
  flashPage : Bool
  flashPending : Bool
  acked : Bool
  cmd : Option Nat
  chunks : List Nat
  unreadable : Bool
  applied : Bool
deriving DecidableEq, Repr

/-! ### The pair -/

/-- Where a takeover stands (R39): no takeover, waiting for a PING reply, device 1's hold-off, fence held, arbitration
won. -/
inductive TakeStep where
  | idle | ping | holdoff | fence | won
deriving DecidableEq, Repr

/-- The fence loop test of R38: whether it runs, whether this device asserts its test pulse now and has done so, the
report on its own assertion, whether it has seen an assertion of the partner, and what it reported of the partner's. -/
structure FenceTest where
  running : Bool
  pulsing : Bool
  pulsed : Bool
  own : Option Bool
  saw : Bool
  theirs : Option Bool
deriving DecidableEq, Repr

/-- A handover (R50): whether this device hands over (A) or receives (B), its step, and its mailbox on A. -/
structure Handover where
  giving : Bool
  step : Nat
deriving DecidableEq, Repr

/-- The coil blend of one actuator (R289): whether this device releases or receives, the last current command, when the
blend started, and whether the releasing share has reached none. -/
structure Blend where
  giving : Bool
  cmd : Int
  start : Nat
  ramped : Bool
deriving DecidableEq, Repr

/-- What the pair logic keeps beside its registers: the heartbeat (R33 to R35, R46), the fence (R36 to R41), the
takeover (R39) with the groups whose mirror is still to be replayed (R42), the handover (R50), the tokens still to be given in their order, coil blends (R289), the actuators being
caught (R290), torque sharing (R47, R48), the flits of the Nalyn link and the messages that wait for room in the replay buffer (R52 to R54), and what the partner last reported of
itself. -/
structure PairSt where
  hbSeq : BitVec 4
  hbRxSeq : Option (BitVec 4)
  hbSeen : Bool
  partnerHb : Nat
  hbLost : Bool
  hbViaNal : Bool
  fenceOut : Bool
  fenceIn : Bool
  fenced : Bool
  fenceArmed : Bool
  test : FenceTest
  take : TakeStep
  takeSolo : Bool
  takeStepsDone : List Nat
  takeGroups : List Nat
  partnerMode : Nat
  handover : Option Handover
  blends : List (Option Blend)
  torqueSeq : BitVec 16
  torqueApplied : Option (BitVec 16)
  torqueCmd : Int
  torqueMissed : Nat
  torqueInSeq : Nat
  partnerLocal : Bool
  txSeq : BitVec 12
  rxSeq : Option (BitVec 12)
  ackSeq : Option (BitVec 12)
  replayBuf : List (Nat × Nat × Nat × List Nat)
  txWait : List (Nat × Nat × List Nat)
  reservedFlits : Nat
  give : List Nat
  catching : List Nat
  partnerBands : List (Option Nat)
  protoRange : Nat × Nat
  proto : Option Nat
  partnerProto : Option (Nat × Nat)
  clashLogged : Bool
deriving DecidableEq, Repr

/-! ### Pins and PCIe -/

/-- Outward outputs that no register shows: write gates and write data (R59, R486), the flash channels driven (R25),
fabric and Nalyn transmit, CSTS.CFS, encoder power (R59), JTAG and the like left aside. Motor outputs are shown by SPN_STATUS, VCM_STATUS
and FAN_STATUS. -/
structure Pins where
  paWg : List Bool
  hpWr : List Bool
  flashDrive : List Bool
  fabTx : Bool
  nalTx : Bool
  pcieCfs : Bool
  encPwr : Bool
deriving DecidableEq, Repr

/-- The PCIe function (R73, R75, R531): link, reset, MSI-X enable and masks, pending vectors. -/
structure PcieSt where
  perst : Bool
  linkUp : Bool
  msixEnable : Bool
  fnMask : Bool
  masked : List Nat
  vecPend : List Nat
deriving DecidableEq, Repr

/-- An expert grant set (R171, R172): the session, the granting transport (0 SMBus and sideband, 2 PCIe), the mask. -/
structure Grant where
  session : Nat
  transport : Nat
  mask : Nat
deriving DecidableEq, Repr

/-! ### Clocks -/

/-- An access that waits at the boundary of an island whose gate is pending (R114). -/
structure Waiting where
  island : Nat
  path : Path
  isWr : Bool
  addr : Nat
  data : Word
deriving DecidableEq, Repr

/-- What the clocks keep beside their registers: the PLL settings each island runs with (R111), the path and address of the
access in progress that a pending gate waits for, the accesses that wait at an island (R114), whether the governor
has read a pace, the preamplifiers it admits and those it has removed for pace (R106, R107), the channel rate in Mb/s of the fastest zone being read, and the time of the last TS_IN pulse (R112). -/
structure ClkSt where
  applied : List Word
  progress : List (Option (Path × Nat))
  waiting : List Waiting
  paceSeen : Bool
  admitted : List Nat
  removed : List Nat
  required : Nat
  tsIn : Option (BitVec 64)
  leaving : List Nat
  rot : Nat
  govMax : Nat
  ssc : List (Nat × Word)
deriving DecidableEq, Repr

/-! ### Head channels and the decoder pool -/

/-- A preamplifier control link (R183, R186, R188): the command frame in flight with its attempts, the frames that
follow (each raw or not), whether the one in flight is raw, whether a claim is wanted and waits for its next try, whether this device
drives the preamplifier, and the values written that must be read back (R187). -/
structure PaSt where
  tx : Option Nat
  attempts : Nat
  queue : List (Nat × Bool)
  raw : Bool
  claiming : Bool
  retryTimer : Bool
  driving : Bool
  readback : List (Nat × Nat)
deriving DecidableEq, Repr

/-- A sector being read: its SID, Cellar address (none for a VERIFY), framing (0 none, 1 SM1, 2 SM2), the codewords that are
good, whose bytes lie in the Cellar, the codewords still failed, its ladder step, and its place in the order in which the head has met
its sectors (R204, R211, R212, R222). -/
structure SectorRd where
  sid : Nat
  dest : Option Nat
  framing : Nat
  good : List Nat
  failed : List Nat
  step : Nat
  ord : Nat
deriving DecidableEq, Repr

/-- The loops of a head channel within a sector (R190, R191): the gain and the offset correction in 1/2048 of their units, the
interpolation phase in 2^-32 bit and its advance in 2^-32 bit per bit. -/
structure RdLoop where
  gain : Int
  dc : Int
  phase : Int
  freq : Int
deriving DecidableEq, Repr

/-- Heater calibration of a head in progress (R217): the power reached, the gains of the last revolution with their times, the
previous read power, and whether a channel calibration went with it. -/
structure HtrCal where
  power : Nat
  gains : List (Nat × Nat)
  prev : Nat
  channel : Bool
deriving DecidableEq, Repr

/-- A control loop of the engine (R272, R275): the states x1, x2, y1, y2 of its sections, its output and the one before,
and whether the states go to 0 at its next sample on the bank just swapped in. -/
structure LoopSt where
  sect : List (List Int)
  out : Int
  prev : Int
  rst : Bool
deriving DecidableEq, Repr

/-- A head beside its registers: the sector passing now, sectors in the pool and in the ladder, sectors that are complete and wait for
earlier ones, sectors scheduled for a re-read that is no ladder step, the number of the next sector met, the oversampling in hundredths
above 1 that the sector began with, the channel's loops, the noise predictors, the samples behind the head in the sample buffer, the
asperity state, the asperities of the sector as places in its channel bits, writes of zone-loaded registers that wait for the sector's
end, the last servo sample (R234), the heater, the seven counts of HC_STATS and the four of
SRV_STATS, the servo state (its target in tracks, a ladder step's offset in 1/1024 track and what it adds to the heater, the cell, wedges valid, missed
and settled in a row), the micro-actuator loop, the output and time at which the head was lost (R291), calibration with its result, and the partner's
mirrored parameters (R225). -/
structure HeadSt where
  cur : Option SectorRd
  pool : List SectorRd
  ladder : List SectorRd
  complete : List SectorRd
  reread : List SectorRd
  ord : Nat
  osr : Nat
  loops : RdLoop
  predict : List Int
  behind : Nat
  ta : Bool
  asp : List (Nat × Option Nat)
  late : List (Nat × Word)
  sample : Nat
  htrSettled : Bool
  stats : List Nat
  srv : List Nat
  validRun : Nat
  missRun : Nat
  cell : Nat
  target : Int
  ofs : Int
  extra : Nat
  settleRun : Nat
  ma : LoopSt
  lostAt : Option (Nat × Int)
  cal : Option HtrCal
  calRes : Option Bool
  mirror : List (Nat × Word)
deriving DecidableEq, Repr

/-- One codeword in the decoder pool: its head, the sector's SID, its number 0..7, whether it comes from the retry store,
and its LLRs; in the retry store their sum over the reads so far (R211), with `redo` while the decode of R210 is due. -/
structure Cw where
  head : Nat
  sid : Nat
  k : Nat
  retry : Bool
  llr : List Int
  redo : Bool
deriving DecidableEq, Repr

/-- A decoder at work: its number, the codeword, the iteration limit it took it with, and whether that limit was
DEC_ITER_BUSY (R208). -/
structure DecJob where
  dec : Nat
  cw : Cw
  limit : Nat
  busy : Bool
deriving DecidableEq, Repr

/-- The decoder pool: queue, decoders at work, retry store (R207 to R210). -/
structure PoolSt where
  queue : List Cw
  active : List DecJob
  retry : List Cw
deriving DecidableEq, Repr

/-! ### Memories, Table cache, DMA -/

/-- A Table cache maintenance operation in progress (R460): TC_OP, the first line, the line count, the way. -/
structure TcMaint where
  op : Nat
  line : Nat
  count : Nat
  way : Nat
deriving DecidableEq, Repr

/-- A Table cache fill in flight (R457, R462): its line, whether a prefetch asked for it, whether a race has discarded it. -/
structure TcFlight where
  line : Nat
  pref : Bool
  drop : Bool
deriving DecidableEq, Repr

/-- A DMA descriptor (R464). -/
structure DmaDesc where
  dop : Nat
  flags : Nat
  spaces : Nat
  rsv : Nat
  len : Nat
  src : Nat
  dst : Nat
  next : Nat
deriving DecidableEq, Repr

/-- What the memories keep beside their registers. `fill` is the fill that runs: 0 none, 1 Cellar, 2 DRAM (R439).
`order` gives for each memory the entries of its correction log, oldest first (R443); `ceWin` and `ceRaised` the
corrections of the present window and whether they raised 0x0812 (R444); `patrol` the next DRAM and the next Vat
unit (R445); `fetchUe` the 4 KiB pages of recent uncorrectable fetches with their times, `trapped` the cores that
wait for a reload (R447); `tcLines` the Table cache lines with their ways, most recently used first; `tcFlight` the
fills in flight (R457, R462), `tcValid` that an invalidate-all has completed since power-up (R459), `tcOut` the bytes of the last read of a
requester; `tcMaint` the maintenance in progress; `dmaDropped` the channels whose counts are
undefined until the next GO (R468), `dma` the descriptor that each channel has read (R464); `cellarKnown`, `dramKnown` what the fills have
initialised since power-up, the Cellar and DRAM up to an address, and `wrote` the ranges (key, bytes) written before that (R438). -/
structure MemSt where
  fill : Nat
  order : List (List Nat)
  ceWin : List Nat
  ceRaised : List Bool
  patrolDram : Nat
  patrolVat : Nat
  fetchUe : List (Nat × Nat)
  trapped : List Nat
  tcLines : List (Nat × Nat)
  tcFlight : List TcFlight
  tcMaint : Option TcMaint
  tcValid : Bool
  tcOut : List Byte
  dmaDropped : List Bool
  dma : List (Option DmaDesc)
  cellarKnown : Bool
  dramKnown : Nat
  wrote : List (Nat × Nat)
deriving DecidableEq, Repr

/-! ### Flash tier, disk runs, racking -/

/-- The tiers' lasting metadata (R101, R342, R401 to R432): page map, record tables, indices, deferred logs, run maps,
blocks, per-group counters, health counts, the temperature history with its copy in the Vat, and the bands and zones
(first band, sectors) of each actuator's last committed zone table; `mirrorLast` the last mirror entry sealed of
each group (R453). `recSeq` is the last reduction record of each group
(R349). -/
structure TierSt where
  chans : List ChanNv
  blks : List Blk
  pmap : List (Nat × Nat × Nat)
  recs : List RecEnt
  idx : List IdxEnt
  defer : List DefEnt
  runs : List RunEnt
  lfpNext : List Nat
  lfpCount : List Nat
  ridNext : List Nat
  eidNext : Nat
  jNext : List Nat
  recSeq : List Nat
  wseq : Nat
  counts : List Nat
  powerHours : Nat
  lifeMin : Nat
  tjHist : List Nat
  mechHist : List Nat
  tjAcc : List Nat
  mechAcc : List Nat
  savedTj : List Nat
  savedMech : List Nat
  savedLife : Nat
  hostRead : Nat
  hostWritten : Nat
  mirrorLast : List (Option Nat)
  diskBands : List Nat
  diskZones : List (List (Nat × Nat))
  misrecorded : List (Nat × Nat)
  flashRo : Bool
deriving DecidableEq, Repr

/-- Where a racking move stands (R423): its kind (0 garbage collection, 1 cooling, 2 compaction, 3 warming, 4 refresh and
levelling, 5 homing, 6 pages of a retired block or die), its source (a block's physical page address, or a run's
actuator and band), the records copied one by one with their source locations, the flash pages that move whole (group,
LFP, source page), the step reached, the bytes of the target with its first LFP, the target's programmed pages (group,
LFP, page), the target run, the new location of each record, the reads that looked a source up
before step 5, and whether it writes staged records into a run (R430). -/
structure Move where
  id : Nat
  kind : Nat
  group : Nat
  src : Nat
  srcRun : Option (Nat × Nat)
  toDisk : Bool
  rids : List (Nat × Nat)
  pages : List (Nat × Nat × Nat)
  step : Nat
  buf : List Byte
  base : Nat
  done : List (Nat × Nat × Nat)
  tgtRun : Option (Nat × Nat)
  locs : List (Nat × Nat)
  readers : List Nat
  staged : Bool
deriving DecidableEq, Repr

/-- What the flash engine and racking keep of volatile state: the staging page of each group (its LFP and bytes),
the moves in progress, kinds started, capacity accounts (R428), open failures, the flash reads in flight with their
recovery state, and the health part last fetched from the partner. -/
structure FlashSt where
  present : List Nat
  stageLfp : List Nat
  stageEnd : List Nat
  stage : List (List Byte)
  moves : List Move
  kinds : Nat
  partnerAcct : Option (Nat × Nat × Nat)
  exchanged : Bool
  ownAcct : Nat × Nat × Nat
  moveNext : Nat
  patrol : Bool
  retiring : List (Nat × Nat × Nat)
deriving DecidableEq, Repr

/-! ### Reduction -/

/-- A chunk's reduction in progress (R340, R344, R354): its write, bytes, fingerprint and check value, and stage:
0 decided to store and waiting for the coder, 1 waits for a TENTATIVE entry, 2 waits for an index page, 3 staged,
4 programmed, 5 reference or zero decided, 6 large write not started. `hidden`: a record of a transfer, for the hidden
image of a replica (R393). -/
structure RedJob where
  id : Nat
  group : Nat
  vol : Nat
  chunk : Nat
  seq : Option Nat
  cmd : Option Nat
  data : List Byte
  fp : List Byte
  stage : Nat
  rid : Option Nat
  isRef : Bool
  unindexed : Bool
  defer : Bool
  tentative : Bool
  loc : Nat
  hidden : Bool
  small : Bool
  policy : RedPolicy
deriving DecidableEq, Repr

/-- The Reduction engine's volatile state: jobs, filter bits set per group and half (R343), TENTATIVE entries with
their creating job (R342), a deferred pass in progress with the entries it still has to decide (R346), the steps of a
backlog since its release (R362), and the fingerprints of codes logged once per chunk (R535). -/
structure RedSt where
  jobs : List RedJob
  jobNext : Nat
  filter : List (List Nat)
  tent : List (Nat × List Byte × Nat)
  pass : List (Nat × Nat)
  loggedChunks : List (Nat × Nat)
  passNow : Bool
deriving DecidableEq, Repr

/-! ### Volumes, canals, drain -/

/-- A peer table entry (R382). -/
structure Peer where
  node : Nat
  family : Nat
  port : Nat
  addr : List Byte
deriving DecidableEq, Repr

/-- The evacuation of one volume group (R397): the volume in progress with its stage 0..5, the peer that is offered to first and
the refusals so far, the round, the canal, and whether it is held at cutover. -/
structure DrainJob where
  vol : Option Nat
  stage : Nat
  first : Nat
  tried : Nat
  round : Nat
  canal : Option Nat
  hold : Bool
deriving DecidableEq, Repr

/-- The evacuation (R97, R397): its peers, the one after the last that accepted, volumes moved, the volume in progress of each
group, the last failure, whether a cancel waits, and the volumes that no peer accepted. -/
structure DrainSt where
  peers : List Nat
  nextPeer : Nat
  moved : List Nat
  jobs : List DrainJob
  fail : Nat
  cancel : Bool
  stuck : List Nat
deriving DecidableEq, Repr

/-- Volumes, canals and the peer table of the brick, the evacuation, and the partner's brick identifier as exchanged
(R380). -/
structure VolSt where
  vols : List Volume
  canals : List Canal
  peers : List Peer
  drain : DrainSt
  pairBrick : Option Nat
  brickDiffer : Bool
deriving DecidableEq, Repr

/-! ### Host queues and the Sluice -/

/-- Where a command came from. -/
inductive CmdSrc where
  | nvme (ctrl sq cid : Nat)
  | native (q idx : Nat)
  | partner (req : Nat)
  | mbox (m : Nat)
  | canal (id seq : Nat)
  | internal
deriving DecidableEq, Repr

/-- What a command does at the Sluice. -/
inductive CmdOp where
  | read
  | write
  | zeroes
  | dealloc (ranges : List (Nat × Nat))
  | verify
  | resv (op action : Nat) (host : List Byte) (key nkey : Nat) (rtype : Nat) (ignore : Bool)
  | snapTake
  | snapRestore (snap : Nat)
  | volDelete (withSnaps : Bool)
  | volShrink (size : Nat)
  | firmware (kind : Nat) (wr : Bool)
  | nop
  | band (act : Nat) (desc : List Byte)
deriving DecidableEq, Repr

/-- A medium that a read waits for: kind 0 a flash LFP of a group, 1 a disk band of an actuator; 2 the partner. -/
structure Need where
  kind : Nat
  a : Nat
  b : Nat
deriving DecidableEq, Repr

/-- A command at the Headgate (`stage` 0), admitted to the Sluice table (1), or running (2) (R326 to R329). A volume
command has its volume and byte range, class W or R, and whether its key is the whole volume; a command takes its data,
or its buffer in pieces of a space; `host` is the Host Identifier behind it. It finishes when it has no medium, journal
entry, reduction or canal left to wait for, or with a status. `arrived` is its arrival time; `last` closes a chain. -/
structure Cmd where
  id : Nat
  src : CmdSrc
  op : CmdOp
  vol : Nat
  off : Nat
  len : Nat
  wr : Bool
  whole : Bool
  data : List Byte
  bufSpace : Nat
  buf : List (Nat × Nat)
  tag : Nat
  nocomp : Bool
  chain : Option Nat
  last : Bool
  arrived : Nat
  stage : Nat
  status : Option Nat
  info : Nat
  needs : List Need
  canals : List (Nat × Nat)
  forwarded : Bool
  drop : Bool
  abort : Bool
  host : List Byte
  held : Bool
deriving DecidableEq, Repr

/-- An NVMe completion queue. -/
structure NvCq where
  id : Nat
  base : Nat
  size : Nat
  head : Nat
  tail : Nat
  phase : Bool
  irq : Bool
  vec : Nat
  coalesced : Nat
deriving DecidableEq, Repr

/-- An NVMe submission queue: held completions (cid, status, dw0, dw1), R325; the mailbox FENCE that holds its
fetching (R167). -/
structure NvSq where
  id : Nat
  cq : Nat
  base : Nat
  size : Nat
  head : Nat
  tail : Nat
  held : List (Nat × Nat × Nat × Nat)
  deleting : Option Nat
  stalled : Bool
deriving DecidableEq, Repr

/-- An NVMe controller (R300 to R304): `kind` 0 PCIe, 1 fabric I/O, 2 discovery; `kato` in ms and the time `kaAt` its
keep-alive timer was restarted; `receives` the Mailbox Receives that wait (queue, command identifier, mailbox, tag). -/
structure NvCtrl where
  cntlid : Nat
  kind : Nat
  hostNqn : List Byte
  hostId : List Byte
  cc : Nat
  aqa : Nat
  asq : Nat
  acq : Nat
  kato : Nat
  kaAt : Nat
  sqs : List NvSq
  cqs : List NvCq
  aers : List Nat
  events : List Nat
  changed : List Nat
  granted : Nat
  coalesce : Nat
  asyncCfg : Nat
  rsvMask : Nat
  errLog : List (Nat × Nat × Nat × Nat)
  errCount : Nat
  rsvLog : List (Nat × Nat)
  receives : List (Nat × Nat × Nat × Nat)
deriving DecidableEq, Repr

/-- A submission entry fetched and not yet taken by its row. -/
structure Fetched where
  q : Nat
  idx : Nat
  bytes : List Byte
  chain : Option Nat
  last : Bool
deriving DecidableEq, Repr

/-- A FENCE entry that waits (R321): its index, TAG and NOCOMP, the native entries (queue and index), the NVMe commands
and the mailbox commands (sequence numbers) that it waits for. -/
structure FenceWait where
  idx : Nat
  tag : Nat
  nocomp : Bool
  entries : List (Nat × Nat)
  nvme : List Nat
  mboxes : List Nat
deriving DecidableEq, Repr

/-- A native queue beside its registers (R310 to R325): the spaces and addresses of its rings and index block, LOG2_SIZE,
the indices as the device holds them, the latched error, the entries fetched and not yet taken, the completions held,
the FENCE that waits, the mailbox whose Q_STOP waits, the number of the next chain, SQ_PROD as last read, and the entries
taken from the push window (R319) by index. -/
structure NatQ where
  sqSpace : Nat
  cqSpace : Nat
  idxSpace : Nat
  log2 : Nat
  sqAddr : Nat
  cqAddr : Nat
  idxAddr : Nat
  sqCons : Nat
  cqProd : Nat
  cqCons : Nat
  errIndex : Nat
  errLen : Nat
  errStatus : Nat
  fetched : List Fetched
  held : List (List Byte)
  fence : Option FenceWait
  window : List Byte
  stopMbx : Option Nat
  chainNext : Nat
  sqProd : Nat
  pushed : List (Nat × List Byte)
deriving DecidableEq, Repr

/-- A request sent to the partner (R534): its number, kind (0 host command, 1 media read, 2 mailbox command), the
command or mailbox it stands for, and what it carries. -/
structure FwdReq where
  req : Nat
  kind : Nat
  ref : Nat
  args : List Nat
deriving DecidableEq, Repr

/-- The host side: controllers, NVMe entries fetched and not yet taken (number, controller, queue, entry), the number of the entry taken last, native queues,
commands in arrival and admission order, requests to the partner, fabric connections, the groups held by step 2 of R50,
and whether an episode of R454 runs. -/
structure HostSt where
  ctrls : List NvCtrl
  nvFetched : List (Nat × Nat × Nat × List Byte)
  nvTaken : Option Nat
  natq : List NatQ
  cmds : List Cmd
  cmdNext : Nat
  reqs : List FwdReq
  reqNext : Nat
  fabConns : Nat
  groupHold : List Bool
  poolFull : Bool
deriving DecidableEq, Repr

/-! ### Format sequencers -/

/-- A band descriptor as taken from the band queue (R249), with the native queue and cookie of its ring entry. -/
structure BandDesc where
  bytes : List Byte
  q : Nat
  cookie : Nat
deriving DecidableEq, Repr

/-- The band in progress (R248 to R252): its descriptor, the requested and the armed surfaces, the heads stopped, the start
sector, the revolutions used, the sectors that completed with 0x0310; of a write the slots that have passed; of a read
the sectors (surface, sector) still to be delivered, and those that failed; and the code of a condition that ends it. -/
structure Band where
  desc : BandDesc
  reqMask : Nat
  mask : Nat
  stopped : Nat
  k0 : Nat
  revs : Nat
  unrecov : Nat
  armed : Bool
  gated : Bool
  slot : Nat
  left : List (Nat × Nat)
  failed : List (Nat × Nat)
  code : Nat
deriving DecidableEq, Repr

/-- A format sequencer beside its registers: GR[0..31], the return stack, the flags, the word fetched and whether its
action is done, the RAM as written (data in bits [95:0], parity above), the band queue and the band, the trace ring,
the machine checks of the window of R262, a zone image that waits for the band to end, and a failed patch load
(R265). -/
structure FsSt where
  gr : List Word
  stack : List Nat
  z : Bool
  n : Bool
  c : Bool
  v : Bool
  word : Option Nat
  acted : Bool
  timeout : Bool
  bqEmpty : Bool
  ram : List (Nat × Nat)
  queue : List BandDesc
  band : Option Band
  zone : Option Nat
  trace : List (Nat × Nat)
  mchks : List Nat
  haltReq : Bool
  zoneLoad : Option (Nat × List Byte)
  loadFailed : Bool
  paErr : Bool
  traceEvent : Bool
deriving DecidableEq, Repr

/-! ### Motion -/

/-- An actuator beside its registers (R292 to R295): its loop, saturated and clean samples in a row, the time until which
a shock holds, the direction of the seek, where (1/1024 band) and when its trajectory began, the latch push of an emergency retract, and the current loop's integrator and
voltage (units of 2^-12 mV). -/
structure VcmSt where
  loop : LoopSt
  satRun : Nat
  cleanRun : Nat
  shockUntil : Nat
  seekDir : Int
  seek : Option (Int × Nat)
  latch : Bool
  integ : Int
  volt : Int
deriving DecidableEq, Repr

/-- The spindle beside its registers (R279 to R287): the loop, the last speed samples, the speed reference in rpm / 8000,
the two current integrators (units of 2^-12 mV), the first period after coast, predicted periods in a row and periods of scaling left, the
encoder's self-check failures, the samples in which the sources disagreed (encoder and observer; encoder and wedge;
observer and wedge), the encoder lost, a stop requested, the short of a stop and whether it is released for the present period, the starts
since the last success, refused tries, and the duties loaded in 1/65536. -/
structure SpnSt where
  loop : LoopSt
  angles : List Nat
  ref : Nat
  integD : Int
  integQ : Int
  fresh : Bool
  predRun : Nat
  scale : Nat
  selfFail : Nat
  disEO : Nat
  disEW : Nat
  disOW : Nat
  encLost : Bool
  stopping : Bool
  shorted : Bool
  released : Bool
  starts : Nat
  tries : Nat
  duty : Nat × Nat × Nat
deriving DecidableEq, Repr

/-- An air mover beside its registers (R296, R297): edges in a row with their times, invalid codes in a row, the target
speed, and the starts tried. -/
structure FanSt where
  edges : List Nat
  bad : Nat
  target : Nat
  tries : Nat
  drive : Option (Nat × Nat × Nat)
deriving DecidableEq, Repr

/-- The bank swap of a micro-actuator loop (R275): the last wedge number whose samples have begun, that number when a swap
was requested, and the number at which the last swap took effect while samples of the one before may still come. -/
structure MaSwap where
  last : Option Nat
  reqAt : Option Nat
  swapped : Option Nat
deriving DecidableEq, Repr

/-- What the motion engine keeps beside its registers: the actuators, the spindle, the air movers, the
bank swaps of the micro-actuator loops, and the bridge foldback: the limits in thousandths and whether an episode runs (R517). -/
structure MotSt where
  vcm : List VcmSt
  spn : SpnSt
  fan : List FanSt
  maSwap : List MaSwap
  limitPm : Nat
  folded : Bool
deriving DecidableEq, Repr

/-- Junction temperatures (R522, R523): each die's last reading in degrees, and the two episodes. -/
structure ThermSt where
  dies : List Int
  over105 : Bool
  over115 : Bool
deriving DecidableEq, Repr

/-! ### The whole state -/

/-- The state of one VM6400. -/
structure State where
  now : BitVec 64
  regs : List (Nat × Word)
  mem : List Host.Cell
  bad : List Nat
  free : Nat
  pwr : PwrSt
  bring : BringSt
  nv : Nv
  flt : FaultSt
  mbx : List Mailbox
  fences : List FenceSt
  snaps : List Snap
  grants : List Grant
  pair : PairSt
  pins : Pins
  pcie : PcieSt
  desc : Option Desc
  journal : List JEnt
  clk : ClkSt
  pa : List PaSt
  head : List HeadSt
  pool : PoolSt
  fs : List FsSt
  memc : MemSt
  fl : FlashSt
  tier : TierSt
  red : RedSt
  volu : VolSt
  host : HostSt
  spdm : SpdmSt
  boot : BootSt
  mot : MotSt
  therm : ThermSt
  outbox : List Msg
  pending : List Instr
deriving DecidableEq, Repr

/-! ### Reset values

Each record has the value that the reset of its power domain, or of the device, gives it. -/

/-- No reduction record, no slot: an empty pair of image slots. -/
def SlotPair.reset : SlotPair := ⟨[⟨[], false⟩, ⟨[], false⟩], 0, none, none⟩

/-- Nonvolatile configuration as it leaves the factory (R88 and R91: AUTO_START 1, START_FALLOW 0; R76: no stored
profile; R380: no brick identifier). -/
def Nv.reset : Nv :=
  { autoStart := true, startFallow := false, fabProfile := none, brickId := none, expertRoots := [], accepted := [],
    sup := SlotPair.reset, ctl := SlotPair.reset, tokens := [], retired := [], faultLog := [], logNext := 0, pf := none,
    lastGood := none, svnMinSup := 0, svnMinCtl := 0 }

/-- No fault history. -/
def FaultSt.reset : FaultSt := ⟨[], [], [], []⟩

/-- An idle mailbox. -/
def Mailbox.reset : Mailbox := ⟨⟨0, 0, 0, 0, 0, 0, 0, [], []⟩, 0, none, none, false, false, none, 0, [], false, none⟩

/-- Power sequencing in Reset. -/
def PwrSt.reset : PwrSt :=
  { inReset := true, vsysReleased := false, hold := false, startPermitted := false, vmotFallow := false,
    diskWait := false, wakePending := false, target := none, coresRunning := false, wedged := false,
    fabProfile := 0, wakeFullCal := false,
    sysRefFailed := false, wdtAt := 0, supCommitted := false, engineDown := [], engineStore := [], resetN := false,
    straps := ⟨false, false, false, 0, 0, true⟩ }

/-- No Bring-up step taken. -/
def BringSt.reset : BringSt :=
  { active := false, dramTrained := false, cellarFilled := false, dramFilled := false, nalTrained := false,
    fenceTested := false, fenceFailed := false, descRead := false, descOk := false, descDiffer := false, checked := false, partnerCheck := none, rereads := 0,
    attestOwn := none, attestPartner := none, replayed := false, spindle := false, atSpeed := false, coarse := false,
    maps := false, fullCal := false, tookOver := false, rejoin := false, partnerStep := 0 }

/-- No fence loop test. -/
def FenceTest.idle : FenceTest := ⟨false, false, false, none, false, none⟩

/-- The pair logic in reset: no partner seen, no fence. -/
def PairSt.reset : PairSt :=
  { hbSeq := 0, hbRxSeq := none, hbSeen := false, partnerHb := 0, hbLost := false, hbViaNal := false, fenceOut := false,
    fenceIn := false, fenced := false, fenceArmed := false, test := FenceTest.idle, take := .idle,
    takeSolo := false, takeStepsDone := [], takeGroups := [], partnerMode := 0, handover := none, blends := [none, none, none, none],
    torqueSeq := 0, torqueApplied := none, torqueCmd := 0, torqueMissed := 0, torqueInSeq := 0, partnerLocal := false,
    txSeq := 0, rxSeq := none, ackSeq := none, replayBuf := [], txWait := [], reservedFlits := 0, give := [], catching := [],
    partnerBands := [none, none, none, none], protoRange := (0, 0), proto := none, partnerProto := none,
    clashLogged := false }

/-- Every output safe. -/
def Pins.reset : Pins :=
  ⟨List.replicate 16 false, List.replicate 144 false, List.replicate 32 false, false, false, false, false⟩

/-- The PCIe function in reset. -/
def PcieSt.reset : PcieSt := ⟨true, false, false, false, [], []⟩

/-- Clocks in reset. -/
def ClkSt.reset : ClkSt := ⟨List.replicate 13 0, List.replicate 13 none, [], false, [], [], 0, none, [], 0, 16, [(0, 0x1F04), (0, 0x1F00)]⟩

/-- An idle preamplifier link. -/
def PaSt.reset : PaSt := ⟨none, 0, [], false, false, false, false, []⟩

/-- A loop with cleared section states. -/
def LoopSt.reset : LoopSt := ⟨List.replicate 8 [0, 0, 0, 0], 0, 0, false⟩

/-- A head at rest. -/
def HeadSt.reset : HeadSt :=
  { cur := none, pool := [], ladder := [], complete := [], reread := [], ord := 0, osr := 25, loops := ⟨0, 0, 0, 0⟩,
    predict := List.replicate 16 0, behind := 0, ta := false, asp := [], late := [], sample := 0, htrSettled := false,
    stats := List.replicate 7 0, srv := List.replicate 4 0, validRun := 0, missRun := 0, cell := 0, target := 0, ofs := 0, extra := 0,
    settleRun := 0, ma := LoopSt.reset, lostAt := none, cal := none, calRes := none, mirror := [] }

/-- An empty decoder pool. -/
def PoolSt.reset : PoolSt := ⟨[], [], []⟩

/-- A halted sequencer with no patch. -/
def FsSt.reset : FsSt :=
  { gr := List.replicate 32 0, stack := [], z := false, n := false, c := false, v := false, word := none, acted := false,
    timeout := false, bqEmpty := false, ram := [], queue := [], band := none, zone := none, trace := [], mchks := [],
    haltReq := false, zoneLoad := none, loadFailed := false, paErr := false, traceEvent := false }

/-- The memories' machinery after power-up. -/
def MemSt.reset : MemSt :=
  { fill := 0, order := [[], [], [], [], []], ceWin := [0, 0, 0, 0, 0], ceRaised := List.replicate 5 false, patrolDram := 0,
    patrolVat := 0, fetchUe := [], trapped := [], tcLines := [], tcFlight := [], tcMaint := none,
    tcValid := false, tcOut := [], dmaDropped := List.replicate 16 false, dma := List.replicate 16 none, cellarKnown := false,
    dramKnown := 0, wrote := [] }

/-- The flash engine after power-up. -/
def FlashSt.reset : FlashSt :=
  { present := List.replicate 32 0, stageLfp := [0, 0], stageEnd := [0, 0], stage := [[], []], moves := [], kinds := 0, partnerAcct := none,
    exchanged := false, ownAcct := (0, 0, 0), moveNext := 0, patrol := false, retiring := [] }

/-- A channel before its first training. -/
def ChanNv.reset : ChanNv := ⟨0, 0, 0, 0, 0, 0, 0, 0, [], [], []⟩

/-- Empty tiers: no block known, no record stored, LFP 0 and RID 0 never used. -/
def TierSt.reset : TierSt :=
  { chans := List.replicate 32 ChanNv.reset, blks := [], pmap := [], recs := [], idx := [], defer := [], runs := [],
    lfpNext := [1, 1], lfpCount := [0, 0], ridNext := [1, 1], eidNext := 1, jNext := [1, 1], recSeq := [0, 0], wseq := 0,
    counts := List.replicate 12 0, powerHours := 0, lifeMin := 0, tjHist := List.replicate 28 0,
    mechHist := List.replicate 28 0, tjAcc := List.replicate 28 0, mechAcc := List.replicate 28 0,
    savedTj := List.replicate 28 0, savedMech := List.replicate 28 0, savedLife := 0, hostRead := 0, hostWritten := 0,
    mirrorLast := [none, none], diskBands := [0, 0, 0, 0], diskZones := [[], [], [], []], misrecorded := [], flashRo := false }

/-- The Reduction engine after power-up: the filters are empty (R343). -/
def RedSt.reset : RedSt := ⟨[], 0, [[], [], [], []], [], [], [], false⟩

/-- No evacuation. -/
def DrainJob.reset : DrainJob := ⟨none, 0, 0, 0, 0, none, false⟩
def DrainSt.reset : DrainSt := ⟨[], 0, [], [DrainJob.reset, DrainJob.reset], 0, false, []⟩

/-- No volume, no canal, no peer. -/
def VolSt.reset : VolSt := ⟨[], [], [], DrainSt.reset, none, false⟩

/-- A FREE native queue. -/
def NatQ.reset : NatQ :=
  { sqSpace := 0, cqSpace := 0, idxSpace := 0, log2 := 4, sqAddr := 0, cqAddr := 0, idxAddr := 0, sqCons := 0, cqProd := 0,
    cqCons := 0, errIndex := 0, errLen := 0, errStatus := 0, fetched := [], held := [], fence := none,
    window := List.replicate 256 0, stopMbx := none, chainNext := 0,
    sqProd := 0, pushed := [] }

/-- The host side after power-up: no controller, every queue FREE. -/
def HostSt.reset : HostSt :=
  { ctrls := [], nvFetched := [], nvTaken := none, natq := List.replicate 256 NatQ.reset, cmds := [], cmdNext := 0, reqs := [], reqNext := 0,
    fabConns := 0, groupHold := [false, false], poolFull := false }

/-- No negotiation, no session. -/
def SpdmSt.reset : SpdmSt := ⟨[0, 0, 0, 0], [0, 0, 0, 0], [], 1, [], [], none⟩

/-- Nothing booted. -/
def BootSt.reset : BootSt := ⟨0, 0, false, false, [], false, false⟩

/-- An actuator at rest. -/
def VcmSt.reset : VcmSt := ⟨LoopSt.reset, 0, 0, 0, 0, none, false, 0, 0⟩

/-- A stopped spindle. -/
def SpnSt.reset : SpnSt :=
  { loop := LoopSt.reset, angles := [], ref := 0, integD := 0, integQ := 0, fresh := true, predRun := 0, scale := 0, selfFail := 0,
    disEO := 0, disEW := 0, disOW := 0, encLost := false, stopping := false, shorted := false, released := false, starts := 0, tries := 0,
    duty := (0, 0, 0) }

/-- A stopped air mover. -/
def FanSt.reset : FanSt := ⟨[], 0, 0, 0, none⟩

/-- The motion engine after power-up. -/
def MotSt.reset : MotSt :=
  ⟨List.replicate 4 VcmSt.reset, SpnSt.reset, List.replicate 4 FanSt.reset, List.replicate 4 ⟨none, none, none⟩, 1000, false⟩

/-- No temperature read yet. -/
def ThermSt.reset : ThermSt := ⟨[0, 0, 0, 0], false, false⟩

/-- The machine held in Reset with its supplies off: every register at its reset word (R11), memory with nothing
listed, nonvolatile state as it leaves the factory, the queue empty. -/
def State.reset : State :=
  { now := 0, regs := [], mem := [], bad := [], free := 0, pwr := PwrSt.reset, bring := BringSt.reset, nv := Nv.reset,
    flt := FaultSt.reset, mbx := List.replicate 16 Mailbox.reset, fences := [], snaps := [], grants := [],
    pair := PairSt.reset, pins := Pins.reset, pcie := PcieSt.reset, desc := none, journal := [], clk := ClkSt.reset,
    pa := List.replicate 16 PaSt.reset, head := List.replicate 144 HeadSt.reset, pool := PoolSt.reset,
    fs := List.replicate 4 FsSt.reset, memc := MemSt.reset, fl := FlashSt.reset, tier := TierSt.reset, red := RedSt.reset,
    volu := VolSt.reset, host := HostSt.reset, spdm := SpdmSt.reset, boot := BootSt.reset, mot := MotSt.reset,
    therm := ThermSt.reset, outbox := [], pending := [] }

end Sys2Proof.Machine
end

