-- ==== Sys2Proof/Machine/Channel.lean ====
section
/-! DEFINITION. The signal path of a head channel (R190 to R207, R211, R214): codewords and their code, the sector's layout on the track,
the loops of the front end, the equalizer, the soft bits and the decoding. -/

namespace Sys2Proof.Machine

/-! ### Codewords (R199 to R202) -/

/-- A sector's SID (R200). -/
def sidOf (h track idx tag : Nat) : Nat := h * 2 ^ 56 + track % 2 ^ 24 * 2 ^ 32 + idx % 65536 * 2 ^ 16 + tag % 65536

/-- The scrambler's seed for codeword `k` (R201). -/
def scrSeed (sid k : Nat) : Nat :=
  let x := Nat.xor (sid % 2 ^ 31) (0x0F0F0F0F * (k + 1) % 2 ^ 31)
  if x = 0 then 1 else x

/-- The scrambler's bits from a state on (R201). -/
def scrBits : Nat → Nat → List Bool
  | 0, _ => []
  | n + 1, x =>
    let b := (bitAt x 30).xor (bitAt x 27)
    b :: scrBits n ((x * 2 + b2n b) % 2 ^ 31)

/-- Bits scrambled, or unscrambled (R201). -/
def scramble (sid k : Nat) (l : List Bool) : List Bool := (l.zip (scrBits l.length (scrSeed sid k))).map (fun p => p.1.xor p.2)

/-- The block columns of block row `i` with their shifts (R202). -/
def ldpcRow (i : Nat) : List (Nat × Nat) :=
  (List.range 65).map (fun j => (j, ((i + 1) * (j + 1) * (j + 1) + 7 * i) % 512))
    ++ [(65 + i, 0)] ++ (if i = 0 then [] else [(64 + i, 0)])

/-- The mother-code bits of check `r` of block row `i` (R202). -/
def ldpcBits (i r : Nat) : List Nat := (ldpcRow i).map (fun c => 512 * c.1 + (r + c.2) % 512)

/-- The mother code of a codeword, or of its beginning (R202): 480 zeros that are not written stand before the parity. -/
def motherOf {α : Type} (zero : α) (cw : List α) : Array α := (cw.take 32800 ++ List.replicate 480 zero ++ cw.drop 32800).toArray

/-- The exclusive-or of a check's bits; bits not yet there count as 0. -/
def checkSum (v : Array Bool) (i r : Nat) : Bool := (ldpcBits i r).foldl (fun p n => p.xor (v.getD n false)) false

/-- Every parity check of the code is met (R202). -/
def ldpcOk (cw : List Bool) : Bool :=
  let v := motherOf false cw
  (List.range 4).all (fun i => (List.range 512).all (fun r => !checkSum v i r))

/-- The encoder (R202): block rows 0 to 3 in order, each giving one 512-bit parity block. -/
def ldpcEncode (cw : List Bool) : List Bool :=
  (List.range 4).foldl (fun l i =>
    let v := motherOf false l
    l ++ (List.range 512).map (checkSum v i)) cw

/-- Bytes of bits, least significant bit first. -/
def bytesLsb : Nat → List Bool → List Byte
  | 0, _ => []
  | n + 1, l => BitVec.ofNat 8 (ofBits (l.take 8)) :: bytesLsb n (l.drop 8)

/-- Bits of bytes, least significant bit first. -/
def bitsLsb (l : List Byte) : List Bool := l.flatMap (fun b => toBits 8 b.toNat)

/-- The CRC-32C of a codeword (R199). -/
def cwCrc (sid k : Nat) (user : List Byte) : Nat := crc32c (leBytes 8 sid ++ leBytes 1 k ++ user)

/-- Codeword `k` of a sector (R199). -/
def cwEncode (sid k : Nat) (user : List Byte) : List Bool := ldpcEncode (scramble sid k (bitsLsb (user ++ leBytes 4 (cwCrc sid k user))))

/-- The user bytes of a codeword that is good: its syndrome is zero and its CRC-32C matches (R199, R207). -/
def cwGood (sid k : Nat) (cw : List Bool) : Option (List Byte) :=
  if cw.length ≠ 34848 ∨ ldpcOk cw = false then none
  else
    let b := bytesLsb 4100 (scramble sid k (cw.take 32800))
    let user := b.take 4096
    if leNat (b.drop 4096) = cwCrc sid k user then some user else none

/-! ### Layered min-sum decoding (R207) -/

/-- The decoder's state: the posterior of every mother-code bit, and the message of every edge of the code. -/
structure MinSum where
  post : Array Int
  msg : Array Int
deriving DecidableEq, Repr

/-- One check: each edge takes the least magnitude of the others with the product of their signs. `e` numbers the check's first edge. -/
def checkStep (i r e : Nat) (x : MinSum) : MinSum :=
  let bs := ldpcBits i r
  let q := (List.range bs.length).zip bs |>.map (fun p => (p.1, p.2, x.post.getD p.2 0 - x.msg.getD (e + p.1) 0))
  q.foldl (fun y p =>
    let o := q.filter (fun z => z.1 ≠ p.1)
    let m := o.foldl (fun n z => min n z.2.2.natAbs) ((o.headD (0, 0, 0)).2.2.natAbs)
    let v : Int := Config.checkMessage m
    let w := if (o.filter (fun z => decide (z.2.2 < 0))).length % 2 = 1 then -v else v
    ⟨y.post.setIfInBounds p.2.1 (p.2.2 + w), y.msg.setIfInBounds (e + p.1) w⟩) x

/-- One iteration: the four layers in order. -/
def minSumStep (x : MinSum) : MinSum :=
  (List.range 4).foldl (fun x i => (List.range 512).foldl (fun x r => checkStep i r ((i * 512 + r) * 67) x) x) x

/-- Hard decisions of the posteriors, as a codeword. -/
def hardBits (v : Array Int) : List Bool :=
  let l := v.toList.map (fun x => decide (x < 0))
  l.take 32800 ++ (l.drop 33280).take 2048

/-- Decode until the syndrome is zero, for at most `n` iterations. -/
def minSumRun : Nat → MinSum → List Bool
  | 0, x => hardBits x.post
  | n + 1, x => if ldpcOk (hardBits x.post) then hardBits x.post else minSumRun n (minSumStep x)

/-- The hard decisions of a decode of LLRs within an iteration limit (R207); the bits that are not written are known zeros. -/
def minSum (limit : Nat) (llr : List Int) : List Bool :=
  minSumRun limit ⟨motherOf (2 ^ 16) llr, Array.replicate (4 * 512 * 67) 0⟩

/-- A decode: the user bytes, where it ends good. -/
def decode (sid k limit : Nat) (llr : List Int) : Option (List Byte) := cwGood sid k (minSum limit llr)

/-! ### The sector on the track (R196 to R198) -/

/-- 0b1100 repeated `n` times. -/
def run1100 : Nat → List Bool
  | 0 => []
  | n + 1 => true :: true :: false :: false :: run1100 n

/-- The marks, most significant bit first. -/
def sm1Bits : List Bool := msbBits 48 0x3C5A9F06E1B7
def sm2Bits : List Bool := msbBits 48 0xC3A560F91E48
def resumeMark : List Bool := msbBits 16 0x6B1D

/-- The symbols of 16 in a list. -/
def symbols {α : Type} : Nat → List α → List (List α)
  | 0, _ => []
  | n + 1, l => l.take 16 :: symbols n (l.drop 16)

/-- The data symbols of eight codewords: symbol n is symbol n div 8 of codeword n mod 8 (R198). -/
def interleave {α : Type} (cws : List (List α)) : List (List α) :=
  let ws := cws.map (fun c => (symbols 2178 c).toArray)
  (List.range 17424).map (fun n => ((ws.getD (n % 8) #[]).getD (n / 8) []))

/-- Codeword `k` of data symbols (R198). -/
def deinterleave {α : Type} (k : Nat) (l : List α) : List α :=
  (((List.range 17424).zip (symbols 17424 l)).filter (fun x => decide (x.1 % 8 = k))).flatMap (fun x => x.2)

/-- F1 of a sector from position `u`, split around wedges (R197, R247): how many symbols each part takes, and the position after
the last; none past the last wedge. -/
def walkF1 (p g wedges : Nat) : Nat → Nat → Nat → Option (List Nat × Nat)
  | 0, _, _ => none
  | n + 1, u, left =>
    let w := (u + p - 1) / p
    let avail := (w * p - u) / 16
    if left + 1 ≤ avail then some ([left], u + 16 * left)
    else if wedges ≤ w then none
    else (walkF1 p g wedges n (w * p + g + 80) (left + 1 - avail)).map (fun r => ((avail - 1) :: r.1, r.2))

/-- The starts of the sectors from position `u`, and where the walk ends (R247); none where it passes the last wedge. -/
def walkSectors (p g wedges : Nat) : Nat → Nat → Option (List Nat × Nat)
  | 0, u => some ([], u)
  | n + 1, u =>
    let w := (u - g) / p + 1
    let u1 := if w * p < u + 4528 then w * p + g else u
    match walkF1 p g wedges (wedges + 2) (u1 + 4512) 17168 with
    | none => none
    | some r2 => (walkSectors p g wedges n (r2.2 + 80)).map (fun r => (u1 :: r.1, r.2))

/-- The parts of F1 of a sector that starts at `u`, and the channel bits of GAP before the next wedge. -/
def sectorCut (p g wedges u : Nat) : List Nat × Nat :=
  match walkF1 p g wedges (wedges + 2) (u + 4512) 17168 with
  | some r => (r.1, min 64 ((r.2 + 16 + p - 1) / p * p - (r.2 + 16)))
  | none => ([17168], 64)

/-- The gated sections of F1 (R197): split fields between the parts, POST and GAP at the end. -/
def f1Sections (gap : Nat) : List Nat → List (List Bool) → List (List Bool)
  | [], _ => []
  | [n], l => [(l.take n).flatten ++ run1100 4 ++ (run1100 16).take gap]
  | n :: r, l => ((l.take n).flatten ++ run1100 4) :: (match f1Sections gap r (l.drop n) with
    | [] => []
    | x :: xs => (run1100 16 ++ resumeMark ++ x) :: xs)

/-- A sector's channel bits, in the sections between servo wedges (R196, R197). -/
def sectorBits (sid : Nat) (data : List Byte) (cut : List Nat × Nat) : List (List Bool) :=
  let ds := interleave ((List.range 8).map (fun k => cwEncode sid k ((data.drop (4096 * k)).take 4096)))
  match f1Sections cut.2 cut.1 (ds.drop 256) with
  | [] => []
  | x :: xs => (run1100 80 ++ sm1Bits ++ (ds.take 256).flatten ++ sm2Bits ++ x) :: xs

/-- The transitions that follow another one bit earlier, as places in the bits (write path): they are written earlier. -/
def closeTransitions (l : List Bool) : List Nat :=
  let v := l.toArray
  let t (i : Nat) : Bool := 0 < i && (v.getD i false != v.getD (i - 1) false)
  (List.range l.length).filter (fun i => t i && t (i - 1))

/-! ### Marks (R203, R206) -/

/-- The Hamming distance of two bit strings. -/
def hamming (a b : List Bool) : Nat := ((a.zip b).filter (fun p => p.1 != p.2)).length

/-- The candidates of a mark in detected bits: the place of each and its distance. -/
def candidates (mark : List Bool) : Int → List Bool → List (Int × Nat)
  | _, [] => []
  | o, b :: r => if r.length + 1 < mark.length then [] else (o, hamming mark (b :: r)) :: candidates mark (o + 1) r

/-- The best candidate of a mark: within the window of its expected place and the tolerance, the smallest distance, the
earliest of equal ones. A candidate is its position in bits from the expected one and its Hamming distance. -/
def bestMark (win tol : Nat) (centre : Int) (l : List (Int × Nat)) : Option Int :=
  let ok := l.filter (fun c => decide (centre - win ≤ c.1 ∧ c.1 ≤ centre + win ∧ c.2 ≤ tol))
  (ok.foldl (fun (m : Option (Int × Nat)) c => match m with
    | none => some c
    | some b => if c.2 < b.2 ∨ (c.2 = b.2 ∧ c.1 < b.1) then some c else some b) none).map (fun c => c.1)

/-- The places of SM1 and SM2 that the channel takes: without timing lock SM1 counts as missed (R192, R203). -/
def marksOf (win tol : Nat) (lock : Bool) (x : SectorHead) : Option Int × Option Int :=
  let a := if lock then bestMark win tol 0 (candidates sm1Bits x.sm1.1 x.sm1.2) else none
  (a, bestMark win tol (a.getD 0) (candidates sm2Bits x.sm2.1 x.sm2.2))

/-- The framing of a sector by its marks: 0 none, 1 on SM1, 2 on SM2 (R204). -/
def frameOn (agree : Nat) : Option Int × Option Int → Nat
  | (some x, some y) => if y - x ≤ agree ∧ x - y ≤ agree then 1 else 2
  | (some _, none) => 1
  | (none, some _) => 2
  | (none, none) => 0

/-! ### Loops of the front end (R190 to R192) -/

/-- The AGC and DC loops at a handshake cycle: the step is 2^-(4 + shift) of the error (R190). -/
def agcStep (shift : Nat) (target peak mean : Int) (x : RdLoop) : RdLoop :=
  { x with gain := clampI 0 (255 * 2048) (x.gain + (target - peak) * 2 ^ (7 - min 7 shift)), dc := x.dc - mean * 2 ^ (7 - min 7 shift) }

/-- The timing loop at a bit of a phase: its error moves the phase by 2^-KP and the frequency by 2^-KI of itself (R191). -/
def timingStep (kp ki : Nat) (x : RdLoop) (p : Int) : RdLoop × Int :=
  let e := p - x.phase
  ({ x with phase := x.phase + x.freq + e / 2 ^ kp, freq := x.freq + e / 2 ^ ki }, e)

/-- The timing loop over bits, with its errors, newest first. -/
def timingRun (kp ki : Nat) (x : RdLoop) (l : List Int) : RdLoop × List Int :=
  l.foldl (fun y p => let r := timingStep kp ki y.1 p; (r.1, r.2 :: y.2)) (x, [])

/-- The loop is locked: the errors of the last 64 preamble bits lie within 1/16 bit (R191). -/
def timingLock (errs : List Int) : Bool := decide (64 ≤ errs.length) && (errs.take 64).all (fun e => decide (e.natAbs ≤ 2 ^ 28))

/-- The loop after a servo wedge of `n` channel bits: phase and frequency are kept, the phase advanced (R192). -/
def overWedge (n : Nat) (x : RdLoop) : RdLoop := { x with phase := x.phase + x.freq * n }

/-! ### Asperities (R214) -/

/-- The place in a sector of data bit `d`: channel bits from the start of PRE, without split fields. -/
def placeOf (d : Nat) : Nat := if d < 4096 then 368 + d else 416 + d

/-- A place lies within an asperity, widened by `guard` bits on both sides. -/
def inAsp (l : List (Nat × Option Nat)) (guard p : Nat) : Bool :=
  l.any (fun x => decide (x.1 ≤ p + guard) && x.2.all (fun e => decide (p ≤ e + guard)))

/-! ### Equalizer and detector (R193 to R195) -/

/-- The equalizer's state: twelve taps in 1/512 of Q1.6, the last samples and the equalized samples, newest first. -/
structure EqSt where
  taps : List Int
  hist : List Int
  out : List Int
deriving DecidableEq, Repr

/-- One bit of the equalizer: the FIR, then sign-error LMS with a step of `scale` times 2^-10 where it adapts (R194, R222). -/
def eqStep (g : List Int) (scale : Nat) (adapt : Bool) (x : EqSt) (v : Int) : EqSt :=
  let h := (v :: x.hist).take 12
  let y := ((x.taps.zip h).map (fun p => p.1 * p.2)).foldl (· + ·) 0
  let e := Config.eqError g (y :: x.out)
  ⟨if adapt then (x.taps.zip (h ++ List.replicate 12 0)).map (fun p => clampI (-65536) 65535 (p.1 - scale * e.sign * p.2)) else x.taps, h, y :: x.out⟩

/-- LLRs scaled by Q2.6 and clipped to -7 .. +7 (R195). -/
def llrScale (scale : Nat) (l : List Int) : List Int := l.map (fun x => clampI (-7) 7 (x * scale / 64))

/-- The saturating sum of two reads' LLRs (R211). -/
def llrSum (a b : List Int) : List Int := (a.zip b).map (fun p => clampI (-15) 15 (p.1 + p.2))

end Sys2Proof.Machine
end

