-- ==== Sys2Proof/Machine/Codec.lean ====
section
/-! DEFINITION. SHA-256, HMAC and the stored-chunk formats of "Data Reduction": the record header (R353), the Deciq decoder and
encoder (R355 to R358, R360), the Yaquin window decoder and encoder (R359, R361), and the order of the checks of R363. -/

namespace Sys2Proof.Machine

/-! ### SHA-256 -/

/-- Word `i` of eight words packed into one number, the first at the top. -/
def packedWord (n i : Nat) : BitVec 32 := BitVec.ofNat 32 (bitsAt n (224 - 32 * i) 32)

/-- The round constants, eight in each number. -/
def shaConsts (r : Nat) : Nat :=
  match r with
  | 0 => 0x428A2F9871374491B5C0FBCFE9B5DBA53956C25B59F111F1923F82A4AB1C5ED5
  | 1 => 0xD807AA9812835B01243185BE550C7DC372BE5D7480DEB1FE9BDC06A7C19BF174
  | 2 => 0xE49B69C1EFBE47860FC19DC6240CA1CC2DE92C6F4A7484AA5CB0A9DC76F988DA
  | 3 => 0x983E5152A831C66DB00327C8BF597FC7C6E00BF3D5A7914706CA635114292967
  | 4 => 0x27B70A852E1B21384D2C6DFC53380D13650A7354766A0ABB81C2C92E92722C85
  | 5 => 0xA2BFE8A1A81A664BC24B8B70C76C51A3D192E819D6990624F40E3585106AA070
  | 6 => 0x19A4C1161E376C082748774C34B0BCB5391C0CB34ED8AA4A5B9CCA4F682E6FF3
  | _ => 0x748F82EE78A5636F84C878148CC7020890BEFFFAA4506CEBBEF9A3F7C67178F2

/-- Three rotations of a word combined, or two with a shift when `sh` is set. -/
def mixBits (x : BitVec 32) (i j k : Nat) (sh : Bool) : BitVec 32 :=
  x.rotateRight i ^^^ x.rotateRight j ^^^ (if sh then x >>> k else x.rotateRight k)

/-- The schedule word that follows the last 16, oldest first. -/
def schedWord (l : List (BitVec 32)) : BitVec 32 :=
  mixBits (l.getD 14 0) 17 19 10 true + l.getD 9 0 + mixBits (l.getD 1 0) 7 18 3 true + l.getD 0 0

/-- A round on the eight working words: `x` is the schedule word plus the round's constant. -/
def hashRound (x : BitVec 32) (v : List (BitVec 32)) : List (BitVec 32) :=
  let at_ (i : Nat) : BitVec 32 := v.getD i 0
  let pick := at_ 6 ^^^ (at_ 4 &&& (at_ 5 ^^^ at_ 6))
  let most := (at_ 0 &&& (at_ 1 ||| at_ 2)) ||| (at_ 1 &&& at_ 2)
  let u := x + at_ 7 + pick + mixBits (at_ 4) 6 11 25 false
  [u + most + mixBits (at_ 0) 2 13 22 false, at_ 0, at_ 1, at_ 2, at_ 3 + u, at_ 4, at_ 5, at_ 6]

/-- `n` rounds up to the 64th. -/
def hashRounds : Nat → List (BitVec 32) → List (BitVec 32) → List (BitVec 32)
  | 0, _, v => v
  | n + 1, l, v =>
    let i := 63 - n
    hashRounds n (l.drop 1 ++ [schedWord l]) (hashRound (l.getD 0 0 + packedWord (shaConsts (i / 8)) (i % 8)) v)

/-- The big-endian word of four bytes. -/
def beWord (l : List Byte) : BitVec 32 :=
  BitVec.ofNat 32 (l.foldl (fun n b => n * 256 + b.toNat) 0)

/-- The `n` big-endian words of a byte list. -/
def beWords : Nat → List Byte → List (BitVec 32)
  | 0, _ => []
  | n + 1, l => beWord (l.take 4) :: beWords n (l.drop 4)

/-- The four big-endian bytes of a word. -/
def beBytes (w : BitVec 32) : List Byte := (leBytes 4 w.toNat).reverse

/-- The blocks of 64 bytes of a padded message, from the chaining words `v`. -/
def hashBlocks : Nat → List Byte → List (BitVec 32) → List (BitVec 32)
  | 0, _, v => v
  | n + 1, l, v => hashBlocks n (l.drop 64) (List.zipWith (fun x y => x + y) v (hashRounds 64 (beWords 16 (l.take 64)) v))

/-- The SHA-256 digest, in output order. -/
def sha256 (l : List Byte) : List Byte :=
  let m := l ++ [0x80] ++ List.replicate ((119 - l.length % 64) % 64) 0 ++ (leBytes 8 (8 * l.length)).reverse
  let first := (List.range 8).map (packedWord 0x6A09E667BB67AE853C6EF372A54FF53A510E527F9B05688C1F83D9AB5BE0CD19)
  (hashBlocks (m.length / 64) m first).flatMap beBytes

/-- HMAC-SHA-256 of a message under a key (R135). -/
def hmac (key msg : List Byte) : List Byte :=
  let k := if 64 < key.length then sha256 key else key
  let pad (x : Byte) : List Byte := (k ++ List.replicate (64 - k.length) 0).map (fun b => b ^^^ x)
  sha256 (pad 0x5C ++ sha256 (pad 0x36 ++ msg))

/-! ### The Deciq decoder -/

/-- The bits of a byte list, each byte's bit 0 first. -/
def bitsOf (l : List Byte) : List Bool := l.flatMap (fun b => toBits 8 b.toNat)

/-- Take `n` bits as a number, least significant first. -/
def takeBits (n : Nat) (b : List Bool) : Option (Nat × List Bool) :=
  if b.length < n then none else some (ofBits (b.take n), b.drop n)

/-- Count leading one-bits, at most 8 (R358). -/
def leadOnes : Nat → List Bool → Nat
  | 0, _ => 0
  | _, [] => 0
  | n + 1, b :: r => if b then leadOnes n r + 1 else 0

/-- One RICE code with parameter `k` (R358). -/
def riceCode (k : Nat) (b : List Bool) : Option (Nat × List Bool) :=
  let q := leadOnes 8 b
  if q = 8 then takeBits 8 (b.drop 8)
  else match b.drop q with
    | false :: r => (takeBits k r).map (fun x => (q * 2 ^ k + x.1, x.2))
    | _ => none

/-- The prediction of a byte from the output so far, newest first (R357). -/
def dqPredict (pred s : Nat) (out : List Byte) : Nat :=
  let a := (out.getD 0 0).toNat
  let b := (out.getD 1 0).toNat
  let c := (out.getD (s - 1) 0).toNat
  let d := (out.getD s 0).toNat
  match pred with
  | 1 => a
  | 2 => c
  | 3 => (a + c + 256 - d) % 256
  | 4 => (2 * a + 256 - b) % 256
  | 5 => (a + c) / 2
  | _ => 0

/-- The residue of a code (R357). -/
def dqResidue (z : Nat) : Nat := if z % 2 = 0 then z / 2 else 256 - (z + 1) / 2

/-- `n` residues of a block, by its TYPE. -/
def dqBody (ty pred k s : Nat) : Nat → List Bool → List Byte → Option (List Bool × List Byte)
  | 0, b, out => some (b, out)
  | n + 1, b, out =>
    let z := match ty with
      | 0 => riceCode k b
      | 1 => some (0, b)
      | _ => takeBits 8 b
    match z with
    | none => none
    | some (v, r) => dqBody ty pred k s n r (BitVec.ofNat 8 (dqPredict pred s out + dqResidue v) :: out)

/-- `n` blocks (R356), with the errors of R363. -/
def dqBlocks (s : Nat) : Nat → List Bool → List Byte → Except Nat (List Bool × List Byte)
  | 0, b, out => .ok (b, out)
  | n + 1, b, out =>
    match takeBits 8 b with
    | none => .error 0x0514
    | some (h, r) =>
      let ty := bitsAt h 0 2
      let pred := bitsAt h 2 3
      if ty = 3 then .error 0x0512
      else if pred ≥ 6 ∨ ((pred = 2 ∨ pred = 3 ∨ pred = 5) ∧ s = 0) then .error 0x0513
      else match dqBody ty pred (bitsAt h 5 3) s 256 r out with
        | none => .error 0x0514
        | some x => dqBlocks s n x.1 x.2

/-- Decode a FORMAT 1 payload (R355). -/
def deciq (p : List Byte) : Except Nat (List Byte) :=
  let s := leAt p 0 2
  if s = 1 ∨ 2048 < s then .error 0x0511
  else match dqBlocks s 32 (bitsOf (p.drop 2)) [] with
    | .error e => .error e
    | .ok (rest, out) => if rest.length < 8 ∧ rest.all (fun b => !b) then .ok out.reverse else .error 0x0515

/-! ### The Deciq encoder (R360) -/

/-- The members of a list at which `f` is least. -/
def leastBy {α : Type} (f : α → Nat) (l : List α) : List α := l.filter (fun x => l.all (fun y => decide (f x ≤ f y)))

/-- One of several choices that the spec leaves open among `l`; `d` where there is none. -/
def dqChoice (d : Nat × Nat) (l : List (Nat × Nat)) : Nat × Nat := l.getD (Config.dqPick l % max 1 l.length) d

/-- The positions that equal the byte one stride back, both in the chunk. -/
def strideScore (x : List Byte) (s : Nat) : Nat := ((x.drop s).zip x).countP (fun p => p.1 = p.2)

/-- The strides that a level tries, in rising order. -/
def dqStrides (level : Nat) : List Nat :=
  match level with
  | 1 => []
  | 2 => [2, 3, 4, 6, 8, 12, 16, 24, 32, 48, 64, 128, 256]
  | 3 => (List.range 255).map (· + 2)
  | _ => (List.range 2047).map (· + 2)

/-- The stride of a chunk: the highest score, the smallest among equals, and 0 below 1,024. -/
def dqStride (level : Nat) (x : List Byte) : Nat :=
  let y := if level = 2 then x.take 2048 else x
  let b := (dqStrides level).foldl (fun b s => let n := strideScore y s; if b.2 < n then (s, n) else b) (0, 0)
  if b.2 < 1024 then 0 else b.1

/-- The residue code of a byte against its prediction (R357). -/
def dqCode (x p : Nat) : Nat :=
  let r := (x + 256 - p) % 256
  if r < 128 then 2 * r else 2 * (256 - r) - 1

/-- The residue codes of bytes that follow the output `out`, newest first. -/
def dqCodes (pred s : Nat) : List Byte → List Byte → List Nat
  | [], _ => []
  | x :: r, out => dqCode x.toNat (dqPredict pred s out) :: dqCodes pred s r (x :: out)

/-- The RICE code of `z` with parameter `k` (R358). -/
def riceBits (k z : Nat) : List Bool :=
  if z / 2 ^ k < 8 then List.replicate (z / 2 ^ k) true ++ [false] ++ toBits k (z % 2 ^ k) else List.replicate 8 true ++ toBits 8 z

/-- The bits that the RICE codes of a block take. -/
def riceCost (k : Nat) (zs : List Nat) : Nat := zs.foldl (fun n z => n + (if z / 2 ^ k < 8 then z / 2 ^ k + 1 + k else 16)) 0

/-- The bits of a block's body: none for ZERO, 2,048 for LITERAL where RICE is longer. -/
def dqCost (k : Nat) (zs : List Nat) : Nat := if zs.all (· = 0) then 0 else min 2048 (riceCost k zs)

/-- PRED and K of a block: at levels 3 and 4 by exact cost, at level 2 by the cost that the mean residue lets expect, at level 1 PRED 0 or 1;
K follows the mean at levels 1 and 2. The estimate, K's rule and the choice among equals are not stated. -/
def dqPlan (level s : Nat) (x out : List Byte) : Nat × Nat :=
  let preds := if level = 1 then [0, 1] else if s = 0 then [0, 1, 4] else [0, 1, 2, 3, 4, 5]
  let sum (p : Nat) : Nat := (dqCodes p s x out).foldl (· + ·) 0
  if level ≤ 2 then
    let ps := preds.map (fun p => (p, sum p))
    let c := dqChoice (0, 0) (if level = 1 then ps else leastBy (fun q => Config.dqEstimate q.2) ps)
    (c.1, Config.dqMeanK c.2 % 8)
  else
    let os := preds.flatMap (fun p =>
      let zs := dqCodes p s x out
      (List.range 8).map (fun k => ((p, k), dqCost k zs)))
    dqChoice (0, 0) ((leastBy (fun o => o.2) os).map (fun o => o.1))

/-- A block: its header and its body (R356). -/
def dqBlock (level s : Nat) (x out : List Byte) : List Bool :=
  let c := dqPlan level s x out
  let zs := dqCodes c.1 s x out
  let hdr (ty : Nat) : List Bool := toBits 8 (ty + 4 * c.1 + 32 * c.2)
  if zs.all (· = 0) then hdr 1
  else if 2048 < riceCost c.2 zs then hdr 2 ++ zs.flatMap (toBits 8)
  else hdr 0 ++ zs.flatMap (riceBits c.2)

/-- The blocks of `n` times 256 bytes that follow the output `out`, newest first. -/
def dqStream (level s : Nat) : Nat → List Byte → List Byte → List Bool
  | 0, _, _ => []
  | n + 1, x, out => dqBlock level s (x.take 256) out ++ dqStream level s n (x.drop 256) ((x.take 256).reverse ++ out)

/-- Bits as `n` bytes, the rest of the last one 0. -/
def packBytes : Nat → List Bool → List Byte
  | 0, _ => []
  | n + 1, l => BitVec.ofNat 8 (ofBits (l.take 8)) :: packBytes n (l.drop 8)

/-- The FORMAT 1 payload of a chunk at a level (R355, R360). -/
def dqEncode (level : Nat) (x : List Byte) : List Byte :=
  let s := dqStride level x
  let b := dqStream level s 32 x []
  leBytes 2 s ++ packBytes ((b.length + 7) / 8) b

/-! ### The Yaquin window decoder -/

/-- Copy `n` bytes, each from distance `d` back; the output is newest first (R359). -/
def ywCopy (d : Nat) : Nat → List Byte → List Byte
  | 0, out => out
  | n + 1, out => ywCopy d n (out.getD (d - 1) 0 :: out)

/-- The items of a payload; the output is newest first (R359). -/
def ywItems : Nat → List Byte → List Byte → Except Nat (List Byte)
  | 0, _, out => .ok out
  | _ + 1, [], out => if out.length = 8192 then .ok out else .error 0x0518
  | n + 1, c :: r, out =>
    let v := c.toNat
    if out.length = 8192 then .error 0x0519
    else if v < 128 then
      let m := v + 1
      if 8192 < out.length + m then .error 0x0517
      else if r.length < m then .error 0x0518
      else ywItems n (r.drop m) ((r.take m).reverse ++ out)
    else
      let x := bitsAt v 4 3
      let eLen := if x = 7 then 1 else 0
      if r.length < eLen + 1 then .error 0x0518
      else
        let len := if x = 7 then (r.getD 0 0).toNat + 10 else x + 3
        let d := bitsAt v 0 4 * 256 + (r.getD eLen 0).toNat + 1
        if out.length < d then .error 0x0516
        else if 8192 < out.length + len then .error 0x0517
        else ywItems n (r.drop (eLen + 1)) (ywCopy d len out)

/-- Decode a FORMAT 2 payload (R359). -/
def window (p : List Byte) : Except Nat (List Byte) := (ywItems (p.length + 1) p []).map List.reverse

/-! ### The window encoder (R361) -/

/-- The hash of the three bytes at a position. -/
def ywHash (v : Array Byte) (i : Nat) : Nat :=
  (((v.getD i 0).toNat * 16) ^^^ ((v.getD (i + 1) 0).toNat * 4) ^^^ (v.getD (i + 2) 0).toNat) % 4096

/-- The length of the match of positions `p` and `i`, at most `n`. -/
def ywLength (v : Array Byte) (p i : Nat) : Nat → Nat
  | 0 => 0
  | n + 1 => if v.getD p 0 = v.getD i 0 then ywLength v (p + 1) (i + 1) n + 1 else 0

/-- DEPTH, LAZY and NICE of a level. -/
def ywEffort (level : Nat) : Nat × Bool × Nat :=
  match level with
  | 1 => (1, false, 16)
  | 2 => (2, false, 24)
  | 3 => (4, false, 32)
  | 4 => (8, true, 48)
  | 5 => (16, true, 64)
  | 6 => (32, true, 96)
  | 7 => (64, true, 128)
  | 8 => (128, true, 192)
  | _ => (512, true, 265)

/-- The longest match among candidates, nearest first: length and distance; it stops at a match of `nice` bytes. -/
def ywWalk (v : Array Byte) (i nice : Nat) : List Nat → Nat × Nat → Nat × Nat
  | [], b => b
  | p :: r, b =>
    let n := ywLength v p i (min 265 (v.size - i))
    let c := if b.1 < n then (n, i - p) else b
    if nice ≤ n then c else ywWalk v i nice r c

/-- The match at a position: the chain of earlier positions with its hash, within 4,096 bytes, nearest first. -/
def ywMatch (level : Nat) (v : Array Byte) (i : Nat) : Option (Nat × Nat) :=
  if v.size < i + 3 then none
  else
    let e := ywEffort level
    let ps := (((List.range (min i 4096)).map (fun k => i - 1 - k)).filter (fun p => ywHash v p = ywHash v i)).take e.1
    let w := ywWalk v i e.2.2 ps (0, 0)
    if 3 ≤ w.1 then some w else none

/-- The items of a chunk from position `i` on: literals, and matches of length and distance. With LAZY a longer match at the next position is
taken after a literal. -/
def ywPlan (level : Nat) (v : Array Byte) : Nat → Nat → List (Sum Byte (Nat × Nat))
  | 0, _ => []
  | n + 1, i =>
    if v.size ≤ i then []
    else match ywMatch level v i with
    | none => .inl (v.getD i 0) :: ywPlan level v n (i + 1)
    | some m =>
      match (if (ywEffort level).2.1 then ywMatch level v (i + 1) else none) with
      | some m2 => if m.1 < m2.1 then .inl (v.getD i 0) :: .inr m2 :: ywPlan level v n (i + 1 + m2.1) else .inr m :: ywPlan level v n (i + m.1)
      | none => .inr m :: ywPlan level v n (i + m.1)

/-- The bytes of a match (R359). -/
def ywMatchBytes (m : Nat × Nat) : List Byte :=
  let d := m.2 - 1
  if m.1 ≤ 9 then leBytes 1 (128 + 16 * (m.1 - 3) + d / 256) ++ leBytes 1 d
  else leBytes 1 (128 + 16 * 7 + d / 256) ++ leBytes 1 (m.1 - 10) ++ leBytes 1 d

/-- A run of literals, newest first, as an item; nothing without any. -/
def ywRun (l : List Byte) : List Byte := if l.isEmpty then [] else leBytes 1 (l.length - 1) ++ l.reverse

/-- The payload of items; literals in a row share a run of at most 128. -/
def ywPack : List (Sum Byte (Nat × Nat)) → List Byte → List Byte
  | [], l => ywRun l
  | .inl b :: r, l => if l.length = 128 then ywRun l ++ ywPack r [b] else ywPack r (b :: l)
  | .inr m :: r, l => ywRun l ++ ywMatchBytes m ++ ywPack r []

/-- The FORMAT 2 payload of a chunk at a level (R359, R361). -/
def ywEncode (level : Nat) (x : List Byte) : List Byte := ywPack (ywPlan level x.toArray x.length 0) []

/-! ### Records -/

/-- Decode a payload of a format (R353). -/
def decodePayload (fmt : Nat) (p : List Byte) : Except Nat (List Byte) :=
  match fmt with
  | 0 => .ok p
  | 1 => deciq p
  | _ => window p

/-- The header rules of R353: HDR_CHECK, FORMAT, STORED_LEN. -/
def recordHeaderOk (r : List Byte) : Bool :=
  let f := leAt r 0 1
  let n := leAt r 2 2
  decide (leAt r 12 4 = crc32c (r.take 12)) && decide (f ≤ 2) && decide (n ≤ 8192)
    && (match f with | 0 => decide (n = 8192) | 1 => decide (3 ≤ n) | _ => decide (1 ≤ n))

/-- Read a stored record: its header, its payload, its check value (R363). -/
def decodeRecord (r : List Byte) : Except Nat (List Byte) :=
  if recordHeaderOk r then
    match decodePayload (leAt r 0 1) (slice r 16 (leAt r 2 2)) with
    | .error e => .error e
    | .ok d => if crc32c d = leAt r 4 4 then .ok d else .error 0x051A
  else .error 0x0510

/-- The coded payload of a chunk (R360, R361): Deciq for coder 1, window else. -/
def encodePayload (coder level : Nat) (x : List Byte) : List Byte := if coder = 1 then dqEncode level x else ywEncode level x

/-- Build a record: header, payload, zero padding to 16 bytes (R353). -/
def mkRecord (fmt level : Nat) (payload data fp : List Byte) : List Byte :=
  let h := leBytes 1 fmt ++ leBytes 1 level ++ leBytes 2 payload.length ++ leBytes 4 (crc32c data) ++ fp.take 4
  let r := h ++ leBytes 4 (crc32c h) ++ payload
  r ++ List.replicate ((16 - r.length % 16) % 16) 0

end Sys2Proof.Machine
end

