-- ==== Sys2Proof/Machine/Ops.lean ====
section
/-! DEFINITION. The named operations every meaning is written over: register words and fields, memory bytes, counters,
the fault groups and the fault log (R474 to R483), MSI-X messages (R531), token records (R29), power domains (R83 to
R86), and the device-scope forced-safe reaction (R485 to R488). -/

namespace Sys2Proof.Machine

/-- The outcome type of every meaning. -/
abbrev Out := Host.Outcome State Fault Refusal

/-! ### Address decoding of the register space (R10, R497) -/

/-- The block whose extent holds an address, if any (R497). -/
def blockOf (a : Nat) : Option Nat :=
  if a < 0x10000 then some 0 else if a < 0x20000 then some 1 else if a < 0x30000 then some 2
  else if a < 0x100000 then some 3 else if a < 0x140000 then some 4 else if a < 0x150000 then some 5
  else if a < 0x160000 then some 6 else if a < 0x200000 then some 7 else if a < 0x300000 then some 8
  else if a < 0x340000 then some 9 else if a < 0x380000 then some 10 else if a < 0x400000 then some 11
  else if a < 0x420000 then some 12 else if a < 0x500000 then some 13 else if a < 0x540000 then some 14
  else if a < 0x580000 then some 15 else if a < 0x600000 then some 16 else if a < 0x610000 then some 17
  else if a < 0x620000 then some 18 else if a < 0x630000 then some 19 else if a < 0x640000 then some 20
  else none

/-- The instance numbers that a row gives an address, if the address is one of the row's registers. -/
def rowInst (r : RegRow) (a : Nat) : Option (Nat × Nat) :=
  if a < r.base then none
  else
    let o := a - r.base
    let i := o / r.s1
    let o2 := o % r.s1
    let j := o2 / r.s2
    if i < r.n1 ∧ j < r.n2 ∧ o2 % r.s2 = 0 then some (i, j) else none

/-- The row and first instance number of an address. -/
def rowAt (a : Nat) : Option (RegRow × Nat) :=
  match blockOf a with
  | none => none
  | some b => (regRows b).findSome? (fun r => (rowInst r a).map (fun ij => (r, ij.1)))

/-- The offset of an address in its block's violation pair or fault group: the byte offset from the pair, or 8 plus
the byte offset from the group. -/
def supOffset (a : Nat) : Option (Nat × Nat) :=
  match blockOf a with
  | none => none
  | some b =>
    if violBase b ≤ a ∧ a < violBase b + 8 ∧ a % 4 = 0 then some (b, a - violBase b)
    else if groupBase b ≤ a ∧ a < groupBase b + 32 ∧ a % 4 = 0 then some (b, 8 + (a - groupBase b))
    else none

/-- The word of a register after the reset of its domain (R498, R503). -/
def resetWord (a : Nat) : Word :=
  match rowAt a with
  | some (r, _) => r.reset
  | none =>
    match supOffset a with
    | some (_, o) => if o = 28 then 0x607 else 0
    | none => 0

/-- The power domain that holds a register: violation pairs and fault groups lie in domain SUP (R497). -/
def domOf (a : Nat) : Nat :=
  match rowAt a with
  | some (r, i) => r.dom + i / r.domDiv
  | none => 0

/-! ### Register words and fields -/

/-- The word that a register holds. -/
def rd (s : State) (a : Nat) : Word := smGet resetWord s.regs a

/-- Set the word of a register. -/
def wr (a : Nat) (v : Word) (s : State) : State := { s with regs := smPut resetWord s.regs a v }

/-- A register word as a number. -/
def rdN (s : State) (a : Nat) : Nat := (rd s a).toNat

/-- The value of a field. -/
def getF (s : State) (f : Fld) : Nat := bitsAt (rdN s f.addr) f.lo f.width

/-- Replace a field in a word. -/
def putBits (w lo width v : Nat) : Nat := w - bitsAt w lo width * 2 ^ lo + v % 2 ^ width * 2 ^ lo

/-- Set a field; the register's other bits keep their values. -/
def setF (f : Fld) (v : Nat) (s : State) : State :=
  wr f.addr (BitVec.ofNat 32 (putBits (rdN s f.addr) f.lo f.width v)) s

/-- Set a one-bit field. -/
def setB (f : Fld) (b : Bool) (s : State) : State := setF f (b2n b) s

/-- A one-bit field reads 1. -/
def isSet (s : State) (f : Fld) : Bool := getF s f = 1

/-- Set a field that saturates at its maximum (R493). -/
def satF (f : Fld) (n : Nat) (s : State) : State := setF f (min (2 ^ f.width - 1) (getF s f + n)) s

/-- Registers of a domain return to their reset values; those that a reset of the domain does not touch stay: the
fused and nonvolatile fields are restored by the callers that need them (R101, R494, R498). -/
def clearRegs (p : Nat → Bool) (s : State) : State := { s with regs := smKeep (fun a => !p a) s.regs }

/-- Registers of domain `d` take their reset values. -/
def clearDomain (d : Nat) (s : State) : State := clearRegs (fun a => domOf a = d) s

/-! ### Memory (one sparse byte space; the high part of an address names the memory) -/

/-- What a byte that nothing has written reads as (log entry 6). -/
def memDefault (_ : Nat) : Byte := 0

/-- Address `a` of memory number `k`: 0 host bus, 1 DRAM, 2 control memory, 3 Cellar, 4 Vat journal pool, 5 partner
DRAM. -/
def space (k a : Nat) : Nat := k * 2 ^ 64 + a

/-- One byte of memory. -/
def memByte (s : State) (a : Nat) : Byte := smGet memDefault s.mem a

/-- `n` bytes from an address. -/
def memRead (s : State) (a : Nat) : Nat → List Byte
  | 0 => []
  | n + 1 => memByte s a :: memRead s (a + 1) n

/-- Bytes stored from an address on, in a memory list. -/
def memPutBytes (m : List Host.Cell) (a : Nat) : List Byte → List Host.Cell
  | [] => m
  | b :: r => memPutBytes (smPut memDefault m a b) (a + 1) r

/-- Store bytes from an address on. -/
def memWrite (a : Nat) (l : List Byte) (s : State) : State := { s with mem := memPutBytes s.mem a l }

/-- Zero every byte of a range. -/
def memZero (a n : Nat) (s : State) : State :=
  { s with mem := smKeep (fun k => !(decide (a ≤ k) && decide (k < a + n))) s.mem }

/-- What the host has placed in its own memory before a command reads it: bytes at host bus addresses. -/
def hostPlaces (l : List Host.Cell) (s : State) : State :=
  { s with mem := smPutAll memDefault s.mem (l.map (fun c => (space 0 (c.1 % 2 ^ 64), c.2))) }

/-- The canonical form of memory. -/
def Memory.wf (m : List Host.Cell) : Bool := smWf memDefault m

/-! ### Messages, free values -/

/-- Send a message. -/
def send (m : Msg) (s : State) : State := { s with outbox := s.outbox ++ [m] }

/-- Take the next free value (log entry 1). -/
def takeFree (s : State) : BitVec 64 × State := (Config.freeValue s.free, { s with free := s.free + 1 })

/-- Set a field to a free value. -/
def freeF (f : Fld) (s : State) : State :=
  setF f (Config.freeValue s.free).toNat { s with free := s.free + 1 }

/-- `n` free bytes: a nonce of the device's own. -/
def freeBytes : Nat → State → List Byte × State
  | 0, s => ([], s)
  | n + 1, s =>
    let x := takeFree s
    let r := freeBytes n x.2
    (BitVec.ofNat 8 x.1.toNat :: r.1, r.2)

/-! ### Modes -/

/-- The present mode, numbered as PWR_MODE_CUR (R87). -/
def mode (s : State) : Nat := getF s F.PWR_MODE_CUR

/-- The device is out of Reset. -/
def live (s : State) : Bool := !s.pwr.inReset

/-- The boot chain has reached Dormant, or the ROM is in recovery: the sideband is live (R130, R132). -/
def sidebandLive (s : State) : Bool := live s && (decide (5 ≤ getF s F.SUP_BOOT_STAGE) || isSet s F.SUP_BOOT_RECOVERY)

/-- This device's number: the PAIR_POS strap (R9, R68). -/
def devNo (s : State) : Nat := getF s F.SUP_STRAP_PAIR_POS

/-- A power domain reads on (R530). -/
def domOn (s : State) (d : Nat) : Bool := getF s (F.PWR_DOM_STATE d) = 2

/-- The engine of a domain is in service: its domain on, its patch loaded (R131). -/
def engOn (s : State) (d : Nat) : Bool := domOn s d && !s.pwr.engineDown.contains d

/-- A domain holds its state and finishes what is in flight: on, or draining (R85). -/
def domWorks (s : State) (d : Nat) : Bool := decide (2 ≤ getF s (F.PWR_DOM_STATE d))

/-- A mode in which the control cluster handles commands (R162). -/
def ctlMode (s : State) : Bool := live s && decide (2 ≤ mode s ∧ mode s ≤ 6)

/-! ### Token records (R27, R29) -/

/-- The default owner of a token (R27). -/
def tokDefault (t : Nat) : Nat := if t < 4 then t / 2 else if t < 8 then t - 4 else (t - 8) % 2

/-- The tokens that are not reserved (R27). -/
def tokUsed (t : Nat) : Bool := decide (t < 6 ∨ (8 ≤ t ∧ t < 40))

/-- The record of a token; one that nothing has written names R27's default owner at epoch 0 (log entry 7). -/
def tok (s : State) (t : Nat) : TokRec :=
  smGet (fun t => ⟨if tokDefault t = devNo s then .owned else .partner, tokDefault t, 0⟩) s.nv.tokens t

/-- This device holds the token: its record is OWNED and loaded (R29, R55). -/
def owns (s : State) (t : Nat) : Bool := isSet s F.VAT_READY && decide ((tok s t).state = .owned)

/-- Write a token record. -/
def setTok (t : Nat) (r : TokRec) (s : State) : State :=
  { s with nv := { s.nv with tokens := (t, r) :: s.nv.tokens.filter (fun e => e.1 ≠ t) } }

/-- The actuator of a head (R9). -/
def actOf (h : Nat) : Nat := h / 36

/-- The head is fitted (R19). -/
def fitted (s : State) (h : Nat) : Bool :=
  match s.desc with
  | none => false
  | some d => decide (h / 36 < d.actuators ∧ h % 36 < d.surfaces)

/-- The preamplifier is fitted: it serves some fitted head (R19). -/
def fittedPa (s : State) (p : Nat) : Bool :=
  match s.desc with
  | none => false
  | some d => decide (p / 4 < d.actuators ∧ 9 * (p % 4) < d.surfaces)

/-! ### MSI-X messages (R531) -/

/-- Raise an MSI-X vector: sent, held pending under a mask, or neither (R531). -/
def msix (vec : Nat) (s : State) : State :=
  if isSet s F.SUP_STRAP_PCIE_EN && !s.pcie.perst && s.pcie.linkUp && s.pcie.msixEnable then
    if s.pcie.fnMask || s.pcie.masked.contains vec then
      { s with pcie := { s.pcie with vecPend := if s.pcie.vecPend.contains vec then s.pcie.vecPend
                                                else s.pcie.vecPend ++ [vec] } }
    else send (.msix vec) s
  else s

/-! ### The fault log (R481) -/

/-- The control cluster can write the fault log: its cores run and have not missed the watchdog. -/
def canLog (s : State) : Bool := s.pwr.coresRunning && !s.pwr.wedged

/-- Append an entry to the fault log. -/
def logAppend (e : FaultEntry) (s : State) : State :=
  { s with nv := { s.nv with faultLog := (e :: s.nv.faultLog).take 4096, logNext := s.nv.logNext + 1 } }

/-- Log an event, with the limit on corrected-class entries of one code per block and second. -/
def logEvent (b code cls inst aux : Nat) (s : State) : State :=
  if !canLog s then s
  else if cls = 1 ∧ s.flt.corrLogged.contains (b, code) then
    let n := min 65535 (smGet (fun _ => 0) s.flt.withheld b + 1)
    { s with flt := { s.flt with withheld := smPut (fun _ => 0) s.flt.withheld b n } }
  else
    let s1 := if cls = 1 then { s with flt := { s.flt with corrLogged := (b, code) :: s.flt.corrLogged } } else s
    logAppend ⟨code, cls, b, inst, aux, s.now⟩ s1

/-! ### Fault groups (R474 to R480) -/

/-- A field of a block's fault group. -/
def ffF (b off lo w : Nat) : Fld := ⟨groupBase b + off, lo, w⟩

abbrev FF_VALID (b : Nat) : Fld := ffF b 0 31 1
abbrev FF_LIVE (b : Nat) : Fld := ffF b 0 30 1
abbrev FF_CLASS (b : Nat) : Fld := ffF b 0 28 2
abbrev FF_OVF (b : Nat) : Fld := ffF b 0 16 8
abbrev FF_CODE (b : Nat) : Fld := ffF b 0 0 16
abbrev FF_TIME_LO (b : Nat) : Fld := ffF b 4 0 32
abbrev FF_TIME_HI (b : Nat) : Fld := ffF b 8 0 32
abbrev FF_INST (b : Nat) : Fld := ffF b 12 16 16
abbrev FF_AUX (b : Nat) : Fld := ffF b 12 0 16
abbrev FF_PEND (b k : Nat) : Fld := ffF b 16 k 1
abbrev FF_VEC (b : Nat) : Fld := ffF b 20 16 11
abbrev FF_EN_SB (b k : Nat) : Fld := ffF b 20 (8 + k) 1
abbrev FF_EN_MSIX (b k : Nat) : Fld := ffF b 20 (4 + k) 1
abbrev FF_EN_CORE (b k : Nat) : Fld := ffF b 20 k 1
abbrev FF_CNT (b : Nat) : Nat := groupBase b + 24

/-- The 48-bit count of a counter pair at LO address `a` (R492). -/
def cntVal (s : State) (a : Nat) : Nat := rdN s a + bitsAt (rdN s (a + 4)) 0 16 * 2 ^ 32

/-- The SAT bit of a counter pair. -/
def cntSat (s : State) (a : Nat) : Bool := bitAt (rdN s (a + 4)) 31

/-- Write a counter pair: the count and its SAT bit. -/
def cntPut (a v : Nat) (sat : Bool) (s : State) : State :=
  s |> wr a (BitVec.ofNat 32 (v % 2 ^ 32)) |> wr (a + 4) (BitVec.ofNat 32 (v / 2 ^ 32 + b2n sat * 2 ^ 31))

/-- Raise a counter pair: it holds its maximum and sets SAT there (R492). -/
def cntAdd (a n : Nat) (s : State) : State :=
  let v := min (2 ^ 48 - 1) (cntVal s a + n)
  cntPut a v (cntSat s a || decide (v = 2 ^ 48 - 1)) s

/-- The raise takes the counter to its maximum. -/
def cntReaches (s : State) (a n : Nat) : Bool := decide (0 < n) && !cntSat s a && decide (2 ^ 48 - 1 ≤ cntVal s a + n)

/-- SB_ALERT_N is held asserted while some FF_PEND bit is set whose FF_EN_SB bit is set (R480); a fatal fault's
enable bit always reads 1. -/
def sbAlert (s : State) : Bool :=
  (List.range 21).any (fun b => (List.range 3).any (fun k => isSet s (FF_PEND b k) &&
    (k == 2 || isSet s (FF_EN_SB b k))))

/-- Latch a fault in its block's group and signal the destinations enabled for its class (R474, R477, R479). -/
def latchFault (b code cls inst aux : Nat) (livef : Bool) (s : State) : State :=
  let s1 :=
    if isSet s (FF_VALID b) then satF (FF_OVF b) 1 s
    else s |> setF (FF_VALID b) 1 |> setB (FF_LIVE b) livef |> setF (FF_CLASS b) cls |> setF (FF_OVF b) 0
      |> setF (FF_CODE b) code |> setF (FF_TIME_LO b) (s.now.toNat % 2 ^ 32) |> setF (FF_TIME_HI b) (s.now.toNat / 2 ^ 32)
      |> setF (FF_INST b) inst |> setF (FF_AUX b) aux
  let s2 := cntAdd (FF_CNT b) 1 s1
  if isSet s2 (FF_PEND b (cls - 1)) then s2
  else
    let s3 := setF (FF_PEND b (cls - 1)) 1 s2
    let s4 := if isSet s3 (FF_EN_CORE b (cls - 1)) then send (.coreIrq b) s3 else s3
    if isSet s4 (FF_EN_MSIX b (cls - 1)) then msix (getF s4 (FF_VEC b)) s4 else s4

/-- The domain whose power a block's faults need: the block raises none while it is off (R474). The head-channel and
sequencer blocks spread over the four HCA domains; any of them on suffices. -/
def blockOn (s : State) (b : Nat) : Bool :=
  match b with
  | 4 | 6 | 7 => domWorks s 2 || domWorks s 3 || domWorks s 4 || domWorks s 5
  | 5 => domWorks s 6
  | 8 => domWorks s 7
  | 9 | 10 => domWorks s 8
  | 11 => domWorks s 9
  | 12 | 13 | 16 => domWorks s 10
  | 14 => domWorks s 11
  | 15 => domWorks s 12
  | 17 | 18 => domWorks s 14
  | 19 => domWorks s 16
  | 20 => domWorks s 15
  | _ => live s

/-- A fault that is latched, counted, signalled and logged, without escalation (R474, R481). The fault count that
reaches its own maximum raises 0x0910 once (R492). -/
def raiseCore (b code cls inst aux : Nat) (livef : Bool) (s : State) : State :=
  if !blockOn s b then s
  else
    let full := cntReaches s (FF_CNT b) 1
    let s1 := s |> latchFault b code cls inst aux livef |> logEvent b code cls inst aux
    if full then s1 |> latchFault b 0x0910 1 0xFFFF (FF_CNT b % 65536) false
      |> logEvent b 0x0910 1 0xFFFF (FF_CNT b % 65536) else s1

/-- A statistics counter rises by `n`; at its maximum it raises 0x0910 as a corrected fault in its block (R492). -/
def count (a n : Nat) (s : State) : State :=
  let full := cntReaches s a n
  let s1 := if n = 0 then s else cntAdd a n s
  if full then raiseCore ((blockOf a).getD 0) 0x0910 1 0xFFFF (a % 65536) false s1 else s1

/-- A count of the health report rises (R431). -/
def health (i n : Nat) (s : State) : State := { s with tier := { s.tier with counts := modAt s.tier.counts i (· + n) } }

/-! ### Emergency retract and the forced-safe outputs -/

/-- Begin the emergency retract of an actuator whose bridge this device drives; one that is parked, retracting or at
high impedance is left (R295, R488). -/
def retract (a : Nat) (s : State) : State :=
  let v := getF s (F.VCM_STATE a)
  if v = 0 ∨ v = 5 ∨ v = 6 then s else setF (F.VCM_STATE a) 5 s

/-- Set an actuator's bridge to high impedance, unless a retract has begun, which completes (R488). -/
def hiZ (a : Nat) (s : State) : State :=
  if getF s (F.VCM_STATE a) = 5 then s else setF (F.VCM_STATE a) 6 s

/-- Apply a function to each of the numbers `0 .. n - 1` in order. -/
def forN : Nat → (Nat → State → State) → State → State
  | 0, _, s => s
  | n + 1, f, s => f n (forN n f s)

/-- The spindle bridges coast: every switch off (R287, R486). A stopped spindle stays stopped. -/
def coastSpindle (s : State) : State :=
  if getF s F.SPN_STATE = 0 ∨ getF s F.SPN_STATE = 8 then setF F.SPN_AT_SPEED 0 s
  else s |> setF F.SPN_STATE 7 |> setF F.SPN_AT_SPEED 0

/-- The air-mover bridges coast. -/
def coastFan (f : Nat) (s : State) : State :=
  let s1 := { s with mot := { s.mot with fan := modAt s.mot.fan f (fun x => { x with drive := none }) } }
  if getF s (F.FAN_STATE f) = 6 then s1 else setF (F.FAN_STATE f) 0 s1

/-- An island's outputs are held safe after the loss of its reference (R121, R123). -/
def heldSafe (s : State) (i : Nat) : Bool := isSet s (F.CLK_SAFE_HELD i)

/-- An island's stored setting takes effect: a setting that differs from the one it runs with makes it relock (R111,
R123). -/
def pllApply (i : Nat) (s : State) : State :=
  let w := rd s (R.CLK_PLL_CFG i)
  if s.clk.applied.getD i 0 = w then s
  else setF (F.CLK_LOCKED i) 0 { s with clk := { s.clk with applied := setAt s.clk.applied i w } }

/-- Some write gate of the actuator is on. -/
def gateOn (s : State) (a : Nat) : Bool := (List.range 4).any (fun j => s.pins.paWg.getD (4 * a + j) false)

/-- The write gates of an actuator have gone off: a setting of its write clock that waited for that takes effect (R111). -/
def pllGates (a : Nat) (s : State) : State := if domOn s (2 + a) && !gateOn s a then pllApply (5 + a) s else s

/-- Write gates of one actuator off (R219, R261): its preamplifiers and its head ports. -/
def gatesOffAct (a : Nat) (s : State) : State :=
  pllGates a { s with pins := { s.pins with
      paWg := s.pins.paWg.mapIdx (fun p v => if p / 4 = a then false else v)
      hpWr := s.pins.hpWr.mapIdx (fun h v => if h / 36 = a then false else v) } }

/-- The band in progress of an actuator. -/
def bandOf (s : State) (a : Nat) : Option Band := (s.fs.getD a FsSt.reset).band

/-- Change the band in progress. -/
def updBand (a : Nat) (f : Band → Band) (s : State) : State := { s with fs := modAt s.fs a (fun x => { x with band := x.band.map f }) }

/-- OP of a band's descriptor (R249). -/
def bandOp (b : Band) : Nat := leAt b.desc.bytes 0 1

/-- A head of the band is writing: gated, in the mask, not stopped. -/
def writing (s : State) (h : Nat) : Bool :=
  match bandOf s (actOf h) with
  | some b => decide (bandOp b = 2) && b.gated && bitAt b.mask (h % 36) && !bitAt b.stopped (h % 36)
  | none => false

/-- A stopped head writes nothing more in the band (R220). -/
def stopHead (h : Nat) (s : State) : State :=
  if !writing s h then s
  else { s with pins := { s.pins with hpWr := setAt s.pins.hpWr h false } }
    |> updBand (actOf h) (fun b => { b with stopped := b.stopped + 2 ^ (h % 36) })
    |> setF (F.HC_FLT_WR_UNSAFE h) 1 |> raiseCore 4 0x0314 2 h 0 false

/-- The heads of one actuator stop and its write gates go off (R219). -/
def stopAct (a : Nat) (s : State) : State :=
  (List.range 36).foldl (fun s i => stopHead (36 * a + i) s) (gatesOffAct a s)

/-- Every head stops: write gates off and zero differential on every head port (R219, R220, R486). -/
def stopAll (s : State) : State := forN 4 stopAct s

/-- Flash channels that this device drives at high impedance (R486). -/
def flashHiZ (s : State) : State :=
  { s with pins := { s.pins with flashDrive := s.pins.flashDrive.map (fun _ => false) } }

/-- The Vat seal of a device-scope reaction or hold-up: every journal entry whose data has fully arrived is sealed, a
partial entry stays unsealed (R99 step 7, R487). -/
def vatSeal (s : State) : State :=
  { s with journal := s.journal.map (fun e => if e.arrived then { e with sealed := true } else e) }

/-- The partner sends valid ALIVE or HANDOVER frames (R486). -/
def partnerAlive (s : State) : Bool := !s.pair.hbLost && s.pair.hbSeen && decide (s.pair.partnerHb = 1 ∨ s.pair.partnerHb = 2)

/-- Set the completion of a mailbox command that runs without one. -/
def mbxSetResult (m : Nat) (r : MbxResult) (s : State) : State :=
  { s with mbx := modAt s.mbx m (fun x => { x with result := some r, started := true }) }

/-- A completion with a status and nothing else. -/
def resStatus (st : Nat) : MbxResult := ⟨st, [], 0, 0, []⟩

/-- Some retract is still running. -/
def retracting (s : State) : Bool := (List.range 4).any (fun a => getF s (F.VCM_STATE a) = 5)

end Sys2Proof.Machine
end

