-- ==== Sys2Proof/Machine/MbxOps.lean ====
section
/-! DEFINITION. The mailbox command table (R161, R163 and the command tables of every chapter) and the operations of
the completion protocol that the rows share (R153 to R160). -/

namespace Sys2Proof.Machine

/-- What the command tables give an opcode: whether the control cluster handles it, the grant bit it needs (R171; none
at the basic level), the transports it accepts (sideband, PCIe, fabric, partner), the bounds of LEN, and the external
data it requires (0 none, 1 to the device, 2 to the requester) with its exact length where one is given. -/
structure OpInfo where
  ctl : Bool
  grant : Option Nat
  sb : Bool
  pcie : Bool
  fab : Bool
  nal : Bool
  lenMin : Nat
  lenMax : Nat
  dir : Nat
  extLen : Option Nat
deriving DecidableEq, Repr

/-- A basic command of the control cluster without data. -/
def opBase : OpInfo := ⟨true, none, true, true, false, true, 0, 0, 0, none⟩

/-- The command tables: every opcode that some chapter defines. -/
def opInfo (op : Nat) : Option OpInfo :=
  match op with
  | 0x0001 => some { opBase with ctl := false, fab := true }
  | 0x0002 => some { opBase with ctl := false, fab := true }
  | 0x0003 => some { opBase with sb := false, fab := true, lenMin := 32, lenMax := 32 }
  | 0x0004 => some { opBase with ctl := false, nal := false }
  | 0x0005 => some { opBase with ctl := false, nal := false }
  | 0x0006 => some { opBase with ctl := false, nal := false, lenMin := 32, lenMax := 32 }
  | 0x0007 => some { opBase with ctl := false, nal := false, grant := some 1, lenMin := 32, lenMax := 32 }
  | 0x0008 => some { opBase with ctl := false, dir := 2 }
  | 0x0009 => some { opBase with ctl := false, lenMax := 992, dir := 1 }
  | 0x000A => some { opBase with ctl := false, nal := false }
  | 0x0100 => some { opBase with ctl := false, lenMax := 992 }
  | 0x0101 => some { opBase with ctl := false, pcie := false, nal := false }
  | 0x0110 => some { opBase with grant := some 1 }
  | 0x0111 => some opBase
  | 0x0112 => some opBase
  | 0x0200 => some { opBase with ctl := false, nal := false, lenMax := 992, dir := 1 }
  | 0x0201 => some { opBase with ctl := false, nal := false }
  | 0x0202 => some { opBase with ctl := false, nal := false }
  | 0x0203 => some { opBase with ctl := false, nal := false, lenMin := 32, lenMax := 32 }
  | 0x0204 => some { opBase with ctl := false, nal := false, lenMin := 32, lenMax := 32 }
  | 0x0205 => some { opBase with ctl := false, nal := false }
  | 0x0300 => some { opBase with lenMin := 18, lenMax := 18 }
  | 0x0301 => some opBase
  | 0x0302 => some opBase
  | 0x0308 => some { opBase with sb := false, nal := false, grant := some 3, dir := 1, extLen := some 32512 }
  | 0x0309 => some { opBase with nal := false, grant := some 1 }
  | 0x030A => some opBase
  | 0x0310 => some opBase
  | 0x0311 => some opBase
  | 0x0312 => some opBase
  | 0x0313 => some opBase
  | 0x0314 => some { opBase with sb := false, nal := false, grant := some 3, dir := 1 }
  | 0x0400 => some { opBase with fab := true }
  | 0x0401 => some { opBase with lenMin := 24, lenMax := 24 }
  | 0x0402 => some { opBase with fab := true }
  | 0x0403 => some opBase
  | 0x0404 => some opBase
  | 0x0405 => some { opBase with nal := false, grant := some 1 }
  | 0x0406 => some { opBase with sb := false, nal := false, grant := some 1, dir := 2, extLen := some 18432 }
  | 0x0407 => some { opBase with sb := false, nal := false, grant := some 3, dir := 1, extLen := some 80 }
  | 0x0500 => some opBase
  | 0x0501 => some opBase
  | 0x0502 => some opBase
  | 0x0503 => some opBase
  | 0x0504 => some { opBase with sb := false, nal := false, grant := some 1, dir := 2, extLen := some 8208 }
  | 0x0600 => some { opBase with sb := false, grant := some 2, lenMax := 992 }
  | 0x0601 => some { opBase with sb := false, grant := some 2 }
  | 0x0602 => some { opBase with sb := false, grant := some 2 }
  | 0x0603 => some { opBase with sb := false, grant := some 2 }
  | 0x0604 => some { opBase with sb := false, fab := true }
  | 0x0700 => some { opBase with fab := true, lenMin := 24, lenMax := 28 }
  | 0x0701 => some { opBase with fab := true }
  | 0x0702 => some { opBase with fab := true, lenMin := 8, lenMax := 8 }
  | 0x0703 => some { opBase with fab := true, lenMin := 1, lenMax := 223 }
  | 0x0704 => some { opBase with fab := true }
  | 0x0705 => some { opBase with fab := true }
  | 0x0706 => some { opBase with fab := true, lenMin := 2, lenMax := 130 }
  | 0x0707 => some { opBase with fab := true }
  | 0x0708 => some { opBase with fab := true }
  | 0x0709 => some { opBase with fab := true }
  | 0x070A => some { opBase with fab := true }
  | 0x0710 => some { opBase with nal := false }
  | 0x0711 => some { opBase with lenMin := 24, lenMax := 24 }
  | 0x0718 => some { opBase with fab := true, lenMin := 16, lenMax := 16 }
  | 0x0719 => some { opBase with fab := true }
  | 0x071A => some { opBase with fab := true }
  | 0x071B => some { opBase with fab := true }
  | 0x071C => some { opBase with fab := true }
  | 0x071D => some opBase
  | 0x0720 => some { opBase with sb := false, nal := false, grant := some 1, dir := 2 }
  | 0x0721 => some { opBase with sb := false, nal := false, grant := some 1, dir := 2 }
  | 0x0800 => some opBase
  | 0x0801 => some { opBase with nal := false, grant := some 1 }
  | 0x0802 => some { opBase with nal := false, grant := some 1 }
  | 0x0900 => some { opBase with ctl := false, fab := true }
  | 0x0901 => some { opBase with fab := true }
  | 0x0902 => some { opBase with fab := true }
  | 0x0A00 => some { opBase with nal := false }
  | _ => none

/-- The transport of a mailbox (R149): 0 SMBus, 1 UART, 2 PCIe, 3 fabric, 4 Nalyn, 5 internal. -/
def mbxTransport (m : Nat) : Nat :=
  if m < 4 then 0 else if m < 5 then 1 else if m < 9 then 2 else if m < 13 then 3 else if m < 14 then 4 else 5

/-- An opcode accepts a transport; the Supervisor's own mailboxes reach every control-cluster command (R149). -/
def opAccepts (i : OpInfo) (t : Nat) : Bool :=
  match t with
  | 0 => i.sb
  | 1 => i.sb
  | 2 => i.pcie
  | 3 => i.fab
  | 4 => i.nal
  | _ => true

/-- The handler of a command is the control cluster. MODE_SET is the Supervisor's for BRINGUP and DORMANT only
(R163). -/
def handledByCtl (c : MbxCmd) : Bool :=
  if c.opcode.toNat = 0x0100 then decide (c.param.toNat % 256 ≠ 1 ∧ c.param.toNat % 256 ≠ 7)
  else match opInfo c.opcode.toNat with
    | some i => i.ctl
    | none => false

/-- The empty mailbox record. -/
def mbxEmpty : Mailbox := Mailbox.reset

/-- The record of mailbox `m`. -/
def mbxAt (s : State) (m : Nat) : Mailbox := s.mbx.getD m mbxEmpty

/-- MBX_STATE of a mailbox: 0 IDLE, 1 POSTED, 2 RUNNING, 3 DONE (R157). -/
def mbxState (s : State) (m : Nat) : Nat := getF s (F.MBX_STATE m)

/-- The grants a transport's requester holds for mailbox commands (R171): REG, RINGS and TABLES of the sessions of the
mailbox's own transport; the two sideband transports and the internal one stand beside the SMBus sessions. -/
def mbxGrants (s : State) (m : Nat) : Nat → Bool := fun bit =>
  s.grants.any (fun g => bitAt g.mask bit && decide (g.transport = mbxTransport m))

/-- Parameter `[lo +: n]` of a command. -/
def par (c : MbxCmd) (lo n : Nat) : Nat := bitsAt c.param.toNat lo n

/-- Run a command row on mailbox `m`: it acts only while the mailbox is RUNNING this opcode, with a parameter of the
row's own selector, and has not acted before. The row answers the new state and, unless it completes later, the
completion. -/
def mbxRow (m op : Nat) (sel : MbxCmd → Bool) (f : MbxCmd → State → State × Option MbxResult) (s : State) : State :=
  let x := mbxAt s m
  if mbxState s m = 2 ∧ x.cmd.opcode.toNat = op ∧ sel x.cmd = true ∧ x.started = false ∧ x.result = none then
    let s1 := { s with mbx := modAt s.mbx m (fun y => { y with started := true }) }
    let r := f x.cmd s1
    { r.1 with mbx := modAt r.1.mbx m (fun y => { y with result := if r.2.isSome then r.2 else y.result }) }
  else s

/-- A row whose every parameter it accepts. -/
def anyParam (_ : MbxCmd) : Bool := true

/-- A row's answer: unchanged state and a status. -/
def answer (st : Nat) (s : State) : State × Option MbxResult := (s, some (resStatus st))

/-- A row's answer: success with completion data. -/
def answerData (l : List Byte) (s : State) : State × Option MbxResult := (s, some ⟨0, l, 0, 0, []⟩)

/-- The mailboxes that run a command without a completion yet, and satisfy `p`. -/
def mbxWaiting (s : State) (p : MbxCmd → Bool) : List Nat :=
  (List.range 16).filter (fun m => mbxState s m = 2 && (mbxAt s m).started && (mbxAt s m).result.isNone && p (mbxAt s m).cmd)

/-- Give every waiting command that satisfies `p` its completion. -/
def mbxFinish (p : MbxCmd → Bool) (r : MbxResult) (s : State) : State :=
  (mbxWaiting s p).foldl (fun s m => mbxSetResult m r s) s

/-- The command is a MODE_SET with this target. -/
def isModeSet (t : Nat) (c : MbxCmd) : Bool := decide (c.opcode.toNat = 0x0100 ∧ c.param.toNat % 256 = t)

/-- Complete the RUNNING control-cluster commands that have no completion (R162, R484). -/
def finishControl (status : Nat) (s : State) : State :=
  (List.range 16).foldl (fun s m =>
    if mbxState s m = 2 && (mbxAt s m).result.isNone && handledByCtl (mbxAt s m).cmd
    then mbxSetResult m (resStatus status) s else s) s

end Sys2Proof.Machine
end

