-- ==== Sys2Proof/Machine/FaultOps.lean ====
section
/-! DEFINITION. Raising faults with their escalation and class reactions (R471 to R483), the device-scope forced-safe
reaction (R485 to R488), the heartbeat STATE (R33, R34, R36, R486), and the power-domain operations (R83 to R86,
R530). -/

namespace Sys2Proof.Machine

/-- Free value into a register's field where it is undefined; the others of the register stay. -/
def dropGrants (p : Grant → Bool) (s : State) : State := { s with grants := s.grants.filter (fun g => !p g) }

/-- The VCM part of a device-scope reaction: high impedance in the fence form, emergency retract otherwise (R486). -/
def vcmSafe (fenceForm : Bool) (s : State) : State := forN 4 (if fenceForm then hiZ else retract) s

/-- The outputs of the device-scope table (R486). -/
def safeOutputs (fenceForm : Bool) (s : State) : State :=
  let s1 := s |> stopAll |> flashHiZ |> coastSpindle |> forN 4 coastFan |> vcmSafe fenceForm
  { s1 with pins := { s1.pins with fabTx := false, nalTx := false, pcieCfs := true } }

/-- The log entry of a device-scope reaction: 0x0913, class 3 for a fatal fault and 0 otherwise, the cause in the
detail (R489, R496). -/
def logReaction (cause : Nat) (s : State) : State :=
  logEvent 0 0x0913 (if cause = 1 then 3 else 0) 0xFFFF cause s

/-- The record of the first device-scope cause (R488). -/
def safeRecord (cause code : Nat) (fenceForm : Bool) (s : State) : State :=
  if !isSet s F.SUP_SAFE_ACTIVE then
    s |> setF F.SUP_SAFE_CAUSE cause |> setF F.SUP_SAFE_CODE code |> setB F.SUP_SAFE_FENCE_FORM fenceForm
  else s

/-- The device-scope forced-safe reaction (R485 to R489): outputs safe, the Vat sealed, the grants ended (R172), the
device in Safe with no mode change left in progress. `cause` as SUP_SAFE_CAUSE: 1 fatal fault, 2 fence, 3 VSYS
overvoltage. -/
def forcedSafe (cause code : Nat) (s : State) : State :=
  let fenceForm := decide (cause = 2) || (decide (cause = 1) && partnerAlive s)
  let s1 := s |> safeRecord cause code fenceForm |> setF F.SUP_SAFE_ACTIVE 1 |> safeOutputs fenceForm |> vatSeal
  let s2 := s1 |> setB F.SUP_SAFE_BUSY (retracting s1) |> setF F.PWR_MODE_CUR 7 |> setF F.PWR_MODE_BUSY 0
    |> dropGrants (fun _ => true) |> logReaction cause
  let s3 := { s2 with pwr := { s2.pwr with target := none, wakePending := false }
                      bring := { s2.bring with active := false } }
  finishControl (if s3.pwr.wedged then 0x001D else 0x0012) s3

/-- The limit and window, in ns, of the escalation table (R482). -/
def escalation (code : Nat) : Option (Nat × Nat) :=
  match code with
  | 0x0312 => some (4, 3600000000000)
  | 0x0320 => some (16, 3600000000000)
  | 0x0313 => some (3, 3600000000000)
  | 0x0337 => some (8, 60000000000)
  | 0x0122 => some (3, 60000000000)
  | 0x0614 => some (64, 1000000000)
  | _ => none

/-- The action of the escalation table at the limit (R482): a head out of service, an actuator retracted and left
parked; a preamplifier or a reference is only recorded, and the record is what later steps read. -/
def escalate (code inst : Nat) (s : State) : State :=
  let s1 := { s with flt := { s.flt with escalated := (code, inst) :: s.flt.escalated.filter (fun e => e ≠ (code, inst)) } }
  if code = 0x0312 ∨ code = 0x0320 then setF (F.HC_EN inst) 0 s1
  else if code = 0x0337 then s1 |> retract inst |> setF (F.VCM_LOAD inst) 0
  else s1

/-- Count a contained fault in its sliding window and escalate at the limit, with 0x0912 in the same block (R482). -/
def countRepeat (b code inst : Nat) (s : State) : State :=
  match escalation code with
  | none => s
  | some (lim, win) =>
    let keep := s.flt.recent.filter (fun e => decide (e.1 ≠ code ∨ s.now.toNat - e.2.2 < win))
    let rs := (code, inst, s.now.toNat) :: keep
    let n := (rs.filter (fun e => decide (e.1 = code ∧ e.2.1 = inst))).length
    let s1 := { s with flt := { s.flt with recent := rs } }
    if n = lim then s1 |> escalate code inst |> raiseCore b 0x0912 2 inst code false else s1

/-- An instance has been escalated under a code and not been lifted (R482). -/
def escalated (s : State) (code inst : Nat) : Bool := s.flt.escalated.contains (code, inst)

/-- Lift an escalation. -/
def liftEscalation (code inst : Nat) (s : State) : State :=
  { s with flt := { s.flt with escalated := s.flt.escalated.filter (fun e => e ≠ (code, inst)) } }

/-- Raise a fault: latch, count, signal, log; a contained one escalates by repetition; a fatal one takes the
device-scope reaction (R471 to R482). `livef` is the FF_LIVE of a condition that still holds (R476). -/
def raiseLive (b code cls inst aux : Nat) (livef : Bool) (s : State) : State :=
  if !blockOn s b then s
  else
    let s1 := raiseCore b code cls inst aux livef s
    if cls = 3 then forcedSafe 1 code s1
    else if cls = 2 then countRepeat b code inst s1
    else s1

/-- Raise a fault that is an event: FF_LIVE reads 0. -/
def raise (b code cls inst aux : Nat) (s : State) : State := raiseLive b code cls inst aux false s

/-- The condition of a latched fault has cleared: FF_LIVE reads 0 (R476). -/
def clearLive (b code : Nat) (s : State) : State :=
  if isSet s (FF_VALID b) && decide (getF s (FF_CODE b) = code) then setF (FF_LIVE b) 0 s else s

/-- Clear the latch of a fault group: FF_VALID and FF_OVF together (R475). -/
def clearLatch (b : Nat) (s : State) : State := wr (groupBase b) 0 s

/-- Latch a violation in a block's log pair; later ones raise the overflow count only (R178). -/
def logViolation (b addr kind src : Nat) (isWr : Bool) (s : State) : State :=
  let l : Nat := violBase b + 4
  if isSet s ⟨l, 31, 1⟩ then satF ⟨l, 16, 8⟩ 1 s
  else s |> wr (violBase b) (BitVec.ofNat 32 addr)
    |> wr l (BitVec.ofNat 32 (2 ^ 31 + kind * 256 + src * 16 + b2n isWr * 8))

/-- Record an access refused by a domain that is not on in PWR_DRAIN_LOG; later ones raise its overflow count
(R85, R530). -/
def logDrain (addr d : Nat) (s : State) : State :=
  if isSet s F.PWR_DRAIN_VALID then satF F.PWR_DRAIN_OVF 1 s
  else s |> wr R.PWR_DRAIN_LOG_ADDR (BitVec.ofNat 32 addr) |> setF F.PWR_DRAIN_VALID 1 |> setF F.PWR_DRAIN_OVF 0
    |> setF F.PWR_DRAIN_DOM d

/-- STATE of the heartbeat frames this device sends (R33): FENCED after the fence reaction, FAILED after a missed
watchdog or a 10 ms SYS_REFCLK loss, SAFE or FAILED by the form of any other reaction, HANDOVER while it hands over,
ALIVE in Full, Solo, Fallow and Drain, BOOTING before (log entry 20). -/
def hbState (s : State) : Nat :=
  if s.pair.fenced then 5
  else if s.pwr.wedged || s.pwr.sysRefFailed then 3
  else if mode s = 7 then (if isSet s F.SUP_SAFE_FENCE_FORM then 3 else 4)
  else match s.pair.handover with
    | some h => if h.giving then 2 else if mode s ≤ 2 then 0 else 1
    | none => if mode s ≤ 2 then 0 else 1

/-- The device admits commands and acknowledges writes: Bring-up to Drain, no device-scope reaction, hold-up or
10 ms SYS_REFCLK loss (R99 step 4, R122, R487). -/
def admits (s : State) : Bool :=
  ctlMode s && !s.pwr.hold && !isSet s F.SUP_SAFE_ACTIVE && !s.pwr.sysRefFailed

/-- The heads of actuator `a` are loading, loaded or unloading (R83). -/
def headsOut (s : State) (a : Nat) : Bool :=
  let v := getF s (F.VCM_STATE a)
  decide (1 ≤ v ∧ v ≤ 5)

/-- The heads of actuator `a` are loaded: seeking or tracking (R98). -/
def headsLoaded (s : State) (a : Nat) : Bool :=
  let v := getF s (F.VCM_STATE a)
  decide (v = 2 ∨ v = 3)

/-- Some actuator of this device has its heads loaded. -/
def anyLoaded (s : State) : Bool := (List.range 4).any (headsLoaded s)

/-- The Vat runs in short-seal (R98). -/
def shortSeal (s : State) : Bool := !anyLoaded s || (decide (devNo s = 1) && s.desc.any (fun d => d.windingSets = 1))

/-- PWR_MODE as it reads: PWR_SHORT_SEAL follows the Vat (R98). -/
def pwrModeWord (s : State) : Nat := putBits (rdN s R.PWR_MODE) 9 1 (b2n (shortSeal s))

/-- A domain that the present mode requires (R83): a head-channel domain also on the receiver of a coil blend; in Safe every domain that
is on stays on. -/
def required (s : State) (d : Nat) : Bool :=
  if d = 0 ∨ d = 16 then live s
  else if mode s = 7 then decide (getF s (F.PWR_DOM_STATE d) ≠ 0)
  else if d = 1 ∨ (7 ≤ d ∧ d ≤ 12) ∨ d = 14 ∨ d = 15 then ctlMode s
  else if d = 13 then ctlMode s && isSet s F.SUP_STRAP_PCIE_EN
  else if d = 6 then domOn s 2 || domOn s 3 || domOn s 4 || domOn s 5
  else ctlMode s && decide (mode s ≠ 5 ∨ s.pwr.target.isSome = true) && ((owns s (d - 2) && (headsOut s (d - 2) || isSet s (F.VCM_LOAD (d - 2)))) || (s.pair.blends.getD (d - 2) none).any (fun b => !b.giving))

/-! ### The partner -/

/-- The bytes of a flit (R52): HDR, ACK, the payload zero-filled, eight reserved zeros, the CRC. -/
def flitBytes (hdr ack : Nat) (payload : List Byte) : List Byte :=
  let b := leBytes 2 hdr ++ leBytes 2 ack ++ padTo 240 (payload.take 240) ++ List.replicate 8 0
  b ++ leBytes 4 (crc32c b)

/-- ACK of a flit that goes out now: the last sequence number received in order (R52). -/
def ackWord (p : PairSt) : Nat := match p.rxSeq with
  | some r => 32768 + r.toNat
  | none => 0

/-- A flit of class `cls` leaves with the next sequence number and enters the replay buffer (R52, R53). -/
def nalEmit (cls kind : Nat) (args : List Nat) (s : State) : State :=
  let p := s.pair
  send (.nal (cls * 4096 + p.txSeq.toNat) (ackWord p) kind args)
    { s with pair := { p with txSeq := p.txSeq + 1, replayBuf := p.replayBuf ++ [(p.txSeq.toNat, cls, kind, args)] } }

/-- Messages that wait, in falling priority of their classes and in order within a class (R53). -/
def txInsert (m : Nat × Nat × List Nat) (l : List (Nat × Nat × List Nat)) : List (Nat × Nat × List Nat) :=
  l.takeWhile (fun x => decide (x.1 ≤ m.1)) ++ m :: l.dropWhile (fun x => decide (x.1 ≤ m.1))

/-- Send a message over the Nalyn link while it is up: class, kind, arguments. While the 64 flits of the replay buffer are all
unacknowledged it waits for room (R53). -/
def nalSend (cls kind : Nat) (args : List Nat) (s : State) : State :=
  if !isSet s F.NAL_UP then s
  else if s.pair.replayBuf.length < 64 then nalEmit cls kind args s
  else { s with pair := { s.pair with txWait := txInsert (cls, kind, args) s.pair.txWait } }

/-- Change the pair's record. -/
def updPair (f : PairSt → PairSt) (s : State) : State := { s with pair := f s.pair }

/-! ### Power-up of a domain (R84, R86, R530) -/

/-- Request a domain: one that is off starts to power up; a draining one completes its drain first (R86). -/
def domUp1 (d : Nat) (s : State) : State :=
  let s1 := setF (F.PWR_DOM_REQ_ON d) 1 s
  if getF s1 (F.PWR_DOM_STATE d) = 0 then setF (F.PWR_DOM_STATE d) 1 s1 else s1

/-- Request a domain, and the Decoder pool with a head-channel domain (R83). -/
def domUp (d : Nat) (s : State) : State := if 2 ≤ d ∧ d ≤ 5 then s |> domUp1 d |> domUp1 6 else domUp1 d s

end Sys2Proof.Machine
end

