-- ==== Sys2Proof/Machine/Bus.lean ====
section
/-! DEFINITION. Accesses to the expert register space: the order of checks of R499, the violations of R177 and R178,
and the forms in which an error response reaches its requester (R500). What a permitted access then reads or writes
stands in Registers.lean. -/

namespace Sys2Proof.Machine

/-- What an address holds that is no register: a memory window of R497. -/
inductive Win where
  | page (m off : Nat)
  | store (a off : Nat)
  | zone (a off : Nat)
  | push (q off : Nat)
deriving DecidableEq, Repr

/-- The window of an address, if it lies in one: the mailbox pages, the control stores and zone memories (R267's
windows), the push windows (R319). -/
def winOf (a : Nat) : Option Win :=
  if 0x10000 ≤ a ∧ a < 0x18000 then some (.page ((a - 0x10000) / 0x800) ((a - 0x10000) % 0x800))
  else if 0x160000 ≤ a ∧ a < 0x1E0000 then some (.store ((a - 0x160000) / 0x20000) ((a - 0x160000) % 0x20000))
  else if 0x1E0000 ≤ a ∧ a < 0x200000 ∧ (a - 0x1E0000) % 0x8000 < 0x7F00 then
    some (.zone ((a - 0x1E0000) / 0x8000) ((a - 0x1E0000) % 0x8000))
  else if 0x410000 ≤ a ∧ a < 0x420000 then some (.push ((a - 0x410000) / 0x100) ((a - 0x410000) % 0x100))
  else none

/-- An offset that some register or window is assigned to. -/
def assigned (a : Nat) : Bool := (winOf a).isSome || (supOffset a).isSome || (rowAt a).isSome

/-- VIOL_SRC of a path (R178). -/
def srcOf : Path → Nat
  | .bar2 => 0
  | .mbx _ => 1
  | .core => 3
  | .partner => 4
  | .fseq _ => 5

/-- The head-channel instance of an address. -/
def headInst (a : Nat) : Option Nat :=
  if 0x100000 ≤ a ∧ a < 0x124000 then some ((a - 0x100000) / 0x400) else none

/-- The micro-actuator instance of an address. -/
def maInst (a : Nat) : Option Nat :=
  if 0x206000 ≤ a ∧ a < 0x206000 + 8 * 144 then some ((a - 0x206000) / 8) else none

/-- The registers that format sequencer `q` reaches (R255). -/
def fsReach (q a : Nat) : Bool :=
  (match headInst a with | some h => h / 36 = q | none => false)
  || decide (blockOf a = some 5)
  || decide (0x150000 + 0x1000 * q ≤ a ∧ a < 0x151000 + 0x1000 * q)
  || decide (a = R.CLK_PLL_CFG (5 + q))
  || decide (a = R.CLE_LOOP q ∨ a = R.CLE_LOOP (4 + q))
  || decide (0x201000 + 0x200 * q ≤ a ∧ a < 0x201200 + 0x200 * q)
  || decide (0x201000 + 0x200 * (4 + q) ≤ a ∧ a < 0x201200 + 0x200 * (4 + q))
  || (match maInst a with | some h => h / 36 = q | none => false)

/-- A grant bit that some active session holds (R171: grants from several sessions combine). -/
def anyGrant (s : State) (bit : Nat) : Bool := s.grants.any (fun g => bitAt g.mask bit)

/-- A write that the control-store rule keeps from the expert paths (R264): a trap, or a change of FS_CS_LOCK. -/
def csWrite (a : Nat) (w : Word) (s : State) : Bool :=
  decide (0x150000 ≤ a ∧ a < 0x154000 ∧ 0x100 ≤ a % 0x1000 ∧ a % 0x1000 < 0x200)
  || (decide (0x150000 ≤ a ∧ a < 0x154000 ∧ a % 0x1000 = 0x00C) && decide (w.toNat % 2 ≠ rdN s a % 2))

/-- Check 4 of R499: the status and the violation kind of an access that its path does not permit. `w` is the word of
a write. -/
def pathCheck (p : Path) (a : Nat) (isWr : Bool) (w : Word) (s : State) : Option (Nat × Nat) :=
  match p with
  | .core => none
  | .partner =>
    if blockOf a = some 1 then
      match winOf a with
      | some (.page m _) => if m = 13 then none else some (0x0015, 6)
      | _ => if isWr = true ∧ 0x18000 ≤ a ∧ a < 0x18080 ∧ (a - 0x18000) / 4 % 16 ≠ 13 then some (0x0015, 6) else none
    else if isWr = true ∧ (a = R.SUP_WDT_KICK ∨ csWrite a w s = true) then some (0x0013, 2) else none
  | .fseq q => if fsReach q.val a then none else some (0x0013, 2)
  | .mbx m =>
    if blockOf a = some 1 then some (0x0015, 6)
    else if blockOf a = some 0 ∧ isWr = false then none
    else if isWr = true ∧ (a = R.SUP_WDT_KICK ∨ csWrite a w s = true) then some (0x0013, 2)
    else if 0x580000 ≤ a ∧ a < 0x580200 ∧ isWr = true then some (0x0013, 2)
    else match winOf a with
      | some (.zone _ _) =>
        if isWr then (if mbxGrants s m.val 3 || decide (14 ≤ m.val) then none else some (0x0013, 2))
        else if mbxGrants s m.val 1 || decide (14 ≤ m.val) then none else some (0x0013, 2)
      | _ => if mbxGrants s m.val 1 || decide (14 ≤ m.val) then none else some (0x0013, 2)
  | .bar2 =>
    if blockOf a = some 1 then
      match winOf a with
      | some (.page m _) => if 5 ≤ m ∧ m ≤ 8 then none else some (0x0015, 6)
      | _ =>
        let m := (a - 0x18000) / 4 % 16
        if isWr = true ∧ 0x18000 ≤ a ∧ a < 0x18080 ∧ ¬(5 ≤ m ∧ m ≤ 8) then some (0x0015, 6) else none
    else if isWr = true ∧ (a = R.SUP_WDT_KICK ∨ csWrite a w s = true) then some (0x0013, 2)
    else if 0x580000 ≤ a ∧ a < 0x580200 then some (0x0013, 2)
    else if anyGrant s 0 then
      match winOf a with
      | some (.zone _ _) => if anyGrant s (if isWr then 3 else 1) then none else some (0x0013, 2)
      | _ => none
    else if blockOf a = some 0 ∧ isWr = false then none
    else some (0x0013, 2)

/-- Ports of a fabric profile (R76). -/
def profilePorts (p : Nat) : Nat :=
  match p with
  | 0 => 4 | 1 => 8 | 2 => 8 | 3 => 2 | 4 => 1 | 5 => 2 | 6 => 8 | _ => 4

/-- Check 5 of R499: the address lies in an instance that is not fitted (R502). A device that has no valid descriptor
knows no fitted set, and the check passes. -/
def unfitted (a : Nat) (s : State) : Bool :=
  let head (h : Nat) : Bool := s.desc.isSome && !fitted s h
  (match headInst a with | some h => head h | none => false)
  || (match maInst a with | some h => head h | none => false)
  || (match s.desc with
      | some d => decide (0x207000 ≤ a ∧ a < 0x207080) && !bitAt d.airMoverMask (4 * devNo s + (a - 0x207000) / 0x20)
      | none => false)
  || (decide (0x300000 ≤ a ∧ a < 0x320000 ∧ 0x40 ≤ a % 0x1000 ∧ a % 0x1000 < 0x80)
      && !bitAt (s.fl.present.getD ((a - 0x300000) / 0x1000) 0) ((a % 0x1000 - 0x40) / 4))
  || (decide (0x500100 ≤ a ∧ a < 0x500300) && decide (profilePorts s.pwr.fabProfile ≤ (a - 0x500100) / 0x40))

/-- What a register of an unfitted instance reads (R502): the reset value of the register map for such an instance. -/
def unfitWord (a : Nat) : Word :=
  if 0x100000 ≤ a ∧ a < 0x124000 ∧ a % 0x400 = 0 then 1
  else if 0x100000 ≤ a ∧ a < 0x124000 ∧ a % 0x400 = 4 then 5
  else if 0x206000 ≤ a ∧ a < 0x206480 ∧ a % 8 = 4 then 0x40000000
  else if 0x207000 ≤ a ∧ a < 0x207080 ∧ a % 0x20 = 4 then 6
  else if 0x500100 ≤ a ∧ a < 0x500300 ∧ a % 0x40 = 0 then 0
  else resetWord a

/-- The power domain of an address that is no violation pair or fault group. -/
def domAt (a : Nat) : Nat :=
  match winOf a with
  | some (.page _ _) => 1
  | some (.store q _) => 2 + q
  | some (.zone q _) => 2 + q
  | some (.push _ _) => 10
  | none => domOf a

/-- The clocked island that holds an address's registers (R497: block 14 in FAB, block 20 in DRAM). -/
def islandAt (a : Nat) : Option Nat :=
  match blockOf a with
  | some 14 => some 11
  | some 20 => some 3
  | _ => none

/-- The outcome of the checks of R499 before the field access codes. -/
inductive BusRes where
  /-- Permitted. -/
  | go
  /-- Completes with no effect (R502). -/
  | unfitted
  /-- Waits at the boundary of an island whose gate is pending (R114). -/
  | wait (i : Nat)
  /-- An error response with a status. -/
  | err (status : Nat)
deriving DecidableEq, Repr

/-- The checks 1 to 7 of R499, in order, with what each failed check logs. `wf` is the requester's width, alignment
and byte enables. -/
def busCheck (p : Path) (wf : Bool) (a : Nat) (isWr : Bool) (w : Word) (s : State) : BusRes × State :=
  if wf = false ∨ a % 4 ≠ 0 then
    (.err 0x0015, logViolation ((blockOf a).getD 0) a 5 (srcOf p) isWr s)
  else match blockOf a with
  | none => (.err 0x0015, logViolation 0 a 1 (srcOf p) isWr s)
  | some b =>
    if !assigned a then (.err 0x0015, logViolation b a 0 (srcOf p) isWr s)
    else match pathCheck p a isWr w s with
    | some (st, kind) => (.err st, logViolation b a kind (srcOf p) isWr s)
    | none =>
      if unfitted a s then (.unfitted, s)
      else if (supOffset a).isSome then (.go, s)
      else if !domOn s (domAt a) then (.err 0x0111, logDrain a (domAt a) s)
      else match islandAt a with
        | none => (.go, s)
        | some i =>
          if isSet s (F.CLK_GATE_PENDING i) then (.wait i, s)
          else if isSet s (F.CLK_GATED i) || !isSet s (F.CLK_LOCKED i) then (.err 0x0120, s)
          else (.go, s)

/-- Answer a requester (R500): a status, and for a read that succeeded its data. A control core's failed load returns
all ones. -/
def busAnswer (p : Path) (a st data : Nat) (s : State) : State :=
  match p with
  | .mbx _ => s
  | .core => send (.busReply p a st (if st = 0 then data else 0xFFFFFFFF)) s
  | _ => send (.busReply p a st (if st = 0 then data else 0)) s

/-- A refused read of the PCIe host is a Completer Abort, which AER reports (R174). -/
def readRefused (p : Path) (a st : Nat) (s : State) : State :=
  match p with
  | .bar2 => if st = 0 then s else send (.pcieAer a) s
  | _ => s

/-- Run a register write that has a row of its own: the checks, then the write's action, which answers a status; an
access that waits at an island keeps its place there with its word. -/
def busAct (p : Path) (a : Nat) (w : Word) (act : State → State × Nat) (s : State) : State :=
  match busCheck p true a true w s with
  | (.go, s1) => let r := act s1; busAnswer p a r.2 0 r.1
  | (.unfitted, s1) => busAnswer p a 0 0 s1
  | (.wait i, s1) => { s1 with clk := { s1.clk with waiting := s1.clk.waiting ++ [⟨i, p, true, a, w⟩] } }
  | (.err st, s1) => busAnswer p a st 0 s1

/-- Run a register read that has a row of its own: the checks, then the read, which answers the word. -/
def busGet (p : Path) (a : Nat) (get : State → State × Word) (s : State) : State :=
  match busCheck p true a false 0 s with
  | (.go, s1) => let r := get s1; busAnswer p a 0 r.2.toNat r.1
  | (.unfitted, s1) => busAnswer p a 0 (unfitWord a).toNat s1
  | (.wait i, s1) => { s1 with clk := { s1.clk with waiting := s1.clk.waiting ++ [⟨i, p, false, a, 0⟩] } }
  | (.err st, s1) => s1 |> busAnswer p a st 0 |> readRefused p a st

/-- The number of a path for the split-counter snapshots (R175). -/
def pathNo : Path → Nat
  | .bar2 => 0
  | .mbx m => 1 + m.val
  | .core => 17
  | .partner => 18
  | .fseq a => 19 + a.val

/-- Take the snapshot of a HI register for a path. -/
def snapHi (p : Path) (hi : Nat) (v : Word) (s : State) : State :=
  { s with snaps := ⟨pathNo p, hi, v⟩ :: s.snaps.filter (fun x => ¬(x.path = pathNo p ∧ x.addr = hi)) }

/-- An action that is always accepted. -/
def acc (f : State → State) (s : State) : State × Nat := (f s, 0)

end Sys2Proof.Machine
end

