-- ==== Sys2Proof/Machine/MemOps.lean ====
section
/-! DEFINITION. The memories' error correction (R441 to R447): corrections with their log and rate, uncorrectable units,
whole and partial stores; the fill engine (R438 to R440); the DMA windows (R465). -/

namespace Sys2Proof.Machine

/-- Memory sizes in bytes (R436): 0 Cellar, 1 control memory, 2 Table cache, 3 DRAM as trained, 4 Vat. -/
def memSize (s : State) (m : Nat) : Nat :=
  match m with
  | 0 => 64 * 2 ^ 20
  | 1 => 12 * 2 ^ 20
  | 2 => 16 * 2 ^ 20
  | 3 => getF s F.DRC_CAP_GIB * 2 ^ 30
  | _ => 2 ^ 30

/-- The code unit of a memory in bytes (R436). -/
def memUnit (m : Nat) : Nat := if m < 3 then 8 else 64

/-- The key of a unit of memory `m` in the set of uncorrectable units. -/
def badKey (m a : Nat) : Nat := space m (a / memUnit m * memUnit m)

/-- The DRAM clock runs at another rate than the one of the training: every read of DRAM is uncorrectable (R113). The data rate is twice
the clock, CLK_PLL_CFG[3] on 25 MHz (R110). -/
def dramOff (s : State) : Bool :=
  let w := (s.clk.applied.getD 3 0).toNat
  let rate := getF s F.DRC_RATE_MTS
  decide (rate ≠ 0 ∧ 50 * (bitsAt w 16 10 * 65536 + bitsAt w 0 16) ≠ rate * 65536 * max 1 (bitsAt w 26 6))

/-- A unit is known to be uncorrectable: found so, or poisoned (R441), or in a DRAM whose clock is wrong (R113). -/
def isBad (s : State) (m a : Nat) : Bool := s.bad.contains (badKey m a) || (decide (m = 3) && dramOff s)

/-- Mark a unit uncorrectable. -/
def markBad (m a : Nat) (s : State) : State :=
  if s.bad.contains (badKey m a) then s else { s with bad := s.bad ++ [badKey m a] }

/-- A whole-unit write clears a unit's state (R441). -/
def clearBad (m a : Nat) (s : State) : State := { s with bad := s.bad.filter (fun k => k ≠ badKey m a) }

/-- Every unit of memory `m` is good again (a fill or a loss of content). -/
def clearBadAll (m : Nat) (s : State) : State := { s with bad := s.bad.filter (fun k => k / 2 ^ 64 ≠ m) }

/-- The first uncorrectable unit of memory `m` in `[a, a + n)`, if any. -/
def firstBad (s : State) (m a n : Nat) : Option Nat :=
  if decide (m = 3 ∧ 0 < n) && dramOff s then some (a / memUnit 3 * memUnit 3)
  else (s.bad.filter (fun k => decide (k / 2 ^ 64 = m ∧ k % 2 ^ 64 < a + n ∧ a < k % 2 ^ 64 + memUnit m))).foldl
    (fun o k => match o with
      | none => some (k % 2 ^ 64)
      | some x => some (min x (k % 2 ^ 64))) none

/-- The entry of the correction log that holds a unit's address. -/
def logEntryOf (s : State) (m a : Nat) : Option Nat :=
  (List.range 16).find? (fun i => isSet s (F.ECC_LOG_VALID m i) && decide (rdN s (R.ECC_LOG_ADDR_LO m i) = a % 2 ^ 32)
    && decide (rdN s (R.ECC_LOG_ADDR_HI m i) = a / 2 ^ 32))

/-- The entry a new unit takes (R443): a free one, else the lowest count, the oldest among equals, never a reported
one. -/
def logVictim (s : State) (m : Nat) : Option Nat :=
  match (List.range 16).find? (fun i => !isSet s (F.ECC_LOG_VALID m i)) with
  | some i => some i
  | none =>
    let cand := (s.memc.order.getD m []).filter (fun i => !isSet s (F.ECC_LOG_REPORTED m i))
    cand.foldl (fun o i => match o with
      | none => some i
      | some j => if getF s (F.ECC_LOG_HITS m i) < getF s (F.ECC_LOG_HITS m j) then some i else some j) none

/-- Report an entry whose count has reached ECC_HIT_THRESH (R443). The detail is the unit address's low bits. -/
def logReport (m i a : Nat) (s : State) : State :=
  if getF s (F.ECC_LOG_HITS m i) ≥ max 1 (getF s (F.ECC_HIT_THRESH m)) ∧ isSet s (F.ECC_LOG_REPORTED m i) = false then
    s |> setF (F.ECC_LOG_REPORTED m i) 1 |> setF (F.ECC_PERSIST m) 1 |> raise 18 0x0811 1 m (a % 65536)
  else s

/-- The correction log takes a corrected unit (R443). -/
def logCorrection (m a : Nat) (s : State) : State :=
  match logEntryOf s m a with
  | some i => s |> satF (F.ECC_LOG_HITS m i) 1 |> logReport m i a
  | none =>
    match logVictim s m with
    | none => s
    | some i =>
      let s1 := { s with memc := { s.memc with order := modAt s.memc.order m (fun l => l.filter (fun j => j ≠ i) ++ [i]) } }
      s1 |> wr (R.ECC_LOG_ADDR_LO m i) (BitVec.ofNat 32 (a % 2 ^ 32)) |> wr (R.ECC_LOG_ADDR_HI m i) (BitVec.ofNat 32 (a / 2 ^ 32))
        |> wr (R.ECC_LOG_INFO m i) (BitVec.ofNat 32 (2 ^ 31 + 1)) |> logReport m i a

/-- The window's correction count, with the rate fault at its threshold, once per window (R444). -/
def ceRate (m : Nat) (s : State) : State :=
  let n := s.memc.ceWin.getD m 0 + 1
  let s1 := { s with memc := { s.memc with ceWin := setAt s.memc.ceWin m n } }
  if n ≥ max 1 (getF s (F.ECC_CE_THRESH m)) ∧ s.memc.ceRaised.getD m false = false then
    { s1 with memc := { s1.memc with ceRaised := setAt s1.memc.ceRaised m true } }
      |> setF (F.ECC_CE_RATE m) 1 |> raise 18 0x0812 1 m 0
  else s1

/-- A read finds a correctable error (R442). -/
def eccCe (m a : Nat) (s : State) : State :=
  s |> count (R.ECC_CE_LO m) 1 |> logCorrection m (a / memUnit m * memUnit m) |> ceRate m

/-- A unit is found uncorrectable (R447): latched with its source, counted, and kept as uncorrectable until a whole
write. -/
def eccUe (m a src : Nat) (s : State) : State :=
  let u := a / memUnit m * memUnit m
  let s1 := s |> markBad m u |> count (R.ECC_UE_LO m) 1 |> setF (F.ECC_UE_SEEN m) 1
  if isSet s1 (F.ECC_UE_VALID m) then satF (F.ECC_UE_OVF m) 1 s1
  else s1 |> wr (R.ECC_UE_ADDR_LO m) (BitVec.ofNat 32 (u % 2 ^ 32)) |> wr (R.ECC_UE_ADDR_HI m) (BitVec.ofNat 32 (u / 2 ^ 32))
    |> wr (R.ECC_UE_LOG m) (BitVec.ofNat 32 (2 ^ 31 + src))

/-- A read of a unit whose outcome the memory gives: a unit known to be uncorrectable stays so. -/
def eccRead (m a src : Nat) (r : EccRes) (s : State) : State × Bool :=
  if isBad s m a || decide (r = .ue) then (eccUe m a src s, false)
  else if r = .ce then (eccCe m a s, true) else (s, true)

/-- Memory `m` of the ECC block for a DMA space, where it has one (R464). -/
def spaceMem : Nat → Option Nat
  | 1 => some 3
  | 2 => some 1
  | 3 => some 0
  | 4 => some 4
  | _ => none

/-- A unit has not been written since its memory was powered (R438): in the Cellar before its fill, in DRAM at or above the fill. -/
def rawUnit (s : State) (m a : Nat) : Bool :=
  let u := a / memUnit m * memUnit m
  (decide (m = 0) && !s.memc.cellarKnown || decide (m = 3 ∧ s.memc.dramKnown ≤ u))
    && !s.memc.wrote.any (fun w => decide (w.1 ≤ space m u ∧ space m u + memUnit m ≤ w.1 + w.2))

/-- Some memory holds units that nothing has written. -/
def rawMem (s : State) (m a n : Nat) : Bool := decide (m = 0) && !s.memc.cellarKnown || decide (m = 3 ∧ s.memc.dramKnown < a + n)

/-- The read half of a partial write meets a unit never written: a free value says whether its check bits fail (R438). -/
def rawEdge (m a u : Nat) (s : State) : State :=
  if u % memUnit m ≠ 0 ∧ rawUnit s m a = true then
    let f := takeFree s
    if f.1.toNat % 2 = 1 then eccUe m a 6 f.2 else f.2
  else s

/-- The ECC side of a store of `n` bytes at `a` in memory `m` (R441): units written whole are good; a partial write of an uncorrectable
unit is counted with source "write" and leaves it poisoned, and so may one of a unit never written (R438). -/
def eccStore (m a n : Nat) (s : State) : State :=
  let u := memUnit m
  let whole (k : Nat) : Bool := decide (k / 2 ^ 64 = m ∧ a ≤ k % 2 ^ 64 ∧ k % 2 ^ 64 + u ≤ a + n)
  let part := s.bad.filter (fun k => decide (k / 2 ^ 64 = m ∧ k % 2 ^ 64 < a + n ∧ a < k % 2 ^ 64 + u) && !whole k)
  let s1 := { s with bad := s.bad.filter (fun k => !whole k) }
  let s2 := part.foldl (fun s k => eccUe m (k % 2 ^ 64) 6 s) s1
  if rawMem s m a n then
    let s3 := s2 |> rawEdge m a a |> rawEdge m (a + n - 1) (a + n)
    { s3 with memc := { s3.memc with wrote := s3.memc.wrote ++ [(space m a, n)] } }
  else s2

/-- Store bytes in a DMA space, with its error correction. -/
def spaceStore (k a : Nat) (l : List Byte) (s : State) : State :=
  let s1 := memWrite (space k a) l s
  match spaceMem k with
  | some m => eccStore m a l.length s1
  | none => s1

/-- Read `n` bytes of a DMA space with its error correction: the bytes, and the first unit found uncorrectable. Units never written give
free bytes and a free result: an uncorrectable error, a correction or nothing (R438). -/
def spaceRead (k a n : Nat) (s : State) : List Byte × Option Nat × State :=
  let b := memRead s (space k a) n
  match spaceMem k with
  | none => (b, none, s)
  | some m =>
    let bad := firstBad s m a n
    match (if rawMem s m a n then (List.range n).find? (fun i => rawUnit s m (a + i)) else none) with
    | none => (b, bad, s)
    | some i =>
      let x := freeBytes n s
      let f := takeFree x.2
      let b1 := (List.range n).map (fun j => if rawUnit s m (a + j) then x.1.getD j 0 else b.getD j 0)
      if f.1.toNat % 4 = 1 then (b1, some (match bad with
        | some y => min y ((a + i) / memUnit m * memUnit m)
        | none => (a + i) / memUnit m * memUnit m), f.2)
      else if f.1.toNat % 4 = 2 then (b1, bad, eccCe m (a + i) f.2)
      else (b1, bad, f.2)

/-! ### The Table cache's lines

The bytes of a line that the cache holds stand at its DRAM address in space 9. -/

/-- The set of a line (R455). -/
def tcSet (l : Nat) : Nat := l % 8192

/-- The address of a line's data in the cache, for its error correction: the ways follow each other (DESIGN CHOICE, log entry 106). -/
def tcAddr (l w : Nat) : Nat := w * 2 ^ 20 + tcSet l * 128

/-- Only the lines that `p` keeps stay; data and marks of the others go. -/
def tcKeep (p : Nat × Nat → Bool) (s : State) : State :=
  let ls := s.memc.tcLines.filter p
  { s with memc := { s.memc with tcLines := ls }
           mem := smKeep (fun k => decide (k / 2 ^ 64 ≠ 9) || ls.any (fun e => decide (e.1 = k % 2 ^ 64 / 128))) s.mem
           bad := s.bad.filter (fun k => decide (k / 2 ^ 64 ≠ 2) || ls.any (fun e => decide (tcAddr e.1 e.2 = k % 2 ^ 64 / 128 * 128))) }

/-- Put a line into a way, most recently used, with what DRAM holds; another line of the set in that way leaves (R458). -/
def tcPut (l w : Nat) (s : State) : State :=
  let s1 := tcKeep (fun e => decide (e.1 ≠ l) && !decide (tcSet e.1 = tcSet l ∧ e.2 = w)) s
  { s1 with memc := { s1.memc with tcLines := (l, w) :: s1.memc.tcLines } }
    |> memWrite (space 9 (l * 128)) (memRead s (space 1 (l * 128)) 128)

/-- Discard the fill of a line in flight: it does not land when it arrives (R462). -/
def tcDrop (p : Nat → Bool) (s : State) : State :=
  let n := (s.memc.tcFlight.filter (fun f => p f.line && !f.drop)).length
  { s with memc := { s.memc with tcFlight := s.memc.tcFlight.map (fun f => if p f.line then { f with drop := true } else f) } }
    |> count R.TC_FILL_DROP_LO n

/-- A requester writes DRAM through the cache (R456): a line that is present takes the bytes too, a fill of it in flight is discarded
(R462), and one that is absent is not filled. With the cache off the write goes to DRAM alone (R459). -/
def reqStore (a : Nat) (l : List Byte) (s : State) : State :=
  let s1 := spaceStore 1 a l s
  if isSet s F.TC_EN = false ∨ l = [] then s1
  else
    let hit (x : Nat) : Bool := decide (a / 128 ≤ x ∧ x ≤ (a + l.length - 1) / 128)
    let lines := s1.memc.tcLines.filter (fun e => hit e.1)
    tcDrop hit (lines.foldl (fun s e =>
      let lo := max a (e.1 * 128)
      memWrite (space 9 lo) (slice l (lo - a) (min (a + l.length) (e.1 * 128 + 128) - lo)) s) s1)

/-! ### The fill engine -/

/-- Start the Cellar fill (R439); ignored while a fill runs (R440). -/
def fillCellar (s : State) : State :=
  if s.memc.fill = 0 then
    { s with memc := { s.memc with fill := 1 } } |> setF F.ECC_FILL_CELLAR_DONE 0
  else s

/-- Start the DRAM fill (R439): after the Cellar fill, and ignored while a fill runs (R440). -/
def fillDram (s : State) : State :=
  if s.memc.fill = 0 ∧ isSet s F.ECC_FILL_CELLAR_DONE = true then
    { s with memc := { s.memc with fill := 2 } } |> setF F.ECC_FILL_DRAM_DONE 0
      |> wr R.ECC_FILL_PTR_LO 0 |> wr R.ECC_FILL_PTR_HI 0
  else s

/-- The DRAM fill has come to address `p` (R439): what stood between is overwritten with zeros and valid check bits (R440). -/
def fillTo (p : Nat) (s : State) : State :=
  let lo := rdN s R.ECC_FILL_PTR_LO + rdN s R.ECC_FILL_PTR_HI * 2 ^ 32
  let s1 := { s with memc := { s.memc with dramKnown := max s.memc.dramKnown p }
                     bad := s.bad.filter (fun k => !decide (space 3 lo ≤ k ∧ k < space 3 p)) }
  s1 |> memZero (space 1 lo) (p - lo) |> wr R.ECC_FILL_PTR_LO (BitVec.ofNat 32 (p % 2 ^ 32)) |> wr R.ECC_FILL_PTR_HI (BitVec.ofNat 32 (p / 2 ^ 32))

/-! ### DMA windows -/

/-- The address range of a space (R464, R465): the Vat journal pool lies outside the first 128 MiB of the Vat (R450). -/
def spaceHolds (s : State) (k a n : Nat) : Bool :=
  match k with
  | 0 => decide (a + n ≤ 2 ^ 64)
  | 1 => decide (a + n ≤ memSize s 3)
  | 2 => decide (a + n ≤ memSize s 1)
  | 3 => decide (a + n ≤ memSize s 0)
  | 4 => decide (0x08000000 ≤ a ∧ a + n ≤ 2 ^ 30)
  | 5 => decide (a + n ≤ 512 * 2 ^ 30)
  | _ => false

/-- The base of DMA window `w`, aligned to its size, and its size (R465). -/
def winRange (s : State) (w : Nat) : Nat × Nat :=
  let size := 2 ^ max 12 (getF s (F.DMA_WIN_LOG2 w))
  let b := rdN s (R.DMA_WIN_BASE_LO w) + rdN s (R.DMA_WIN_BASE_HI w) * 2 ^ 32
  (b / size * size, size)

/-- Some valid window covers the range and permits the access (R465). -/
def winOk (s : State) (k a n : Nat) (isWr : Bool) : Bool :=
  (List.range 16).any (fun w =>
    let r := winRange s w
    isSet s (F.DMA_WIN_VALID w) && decide (getF s (F.DMA_WIN_SPACE w) = k)
      && isSet s (if isWr then F.DMA_WIN_W w else F.DMA_WIN_R w) && decide (r.1 ≤ a ∧ a + n ≤ r.1 + r.2))

/-- The pattern of a FILL descriptor over `n` bytes, repeated from its low byte (R464). -/
def fillBytes (pat : Nat) : Nat → List Byte
  | 0 => []
  | n + 1 => fillBytes pat n ++ [BitVec.ofNat 8 (pat / 256 ^ (n % 4))]

end Sys2Proof.Machine
end

