-- ==== Sys2Proof/Machine/Data.lean ====
section
/-! DEFINITION. Where data lives: volumes and their maps (R403), stored records and their locations (R401, R402), the
page map (R409), journal entries (R452), the content of a chunk (R337, R348, R363, R535), reference counts (R342,
R347), and the journal's life from write to release (R349, R352, R453). -/

namespace Sys2Proof.Machine

/-! ### Volumes and maps -/

/-- A volume by number. -/
def volOf (s : State) (n : Nat) : Option Volume := s.volu.vols.find? (fun v => v.num = n)

/-- Change a volume's record. -/
def updVol (n : Nat) (f : Volume → Volume) (s : State) : State :=
  { s with volu := { s.volu with vols := s.volu.vols.map (fun v => if v.num = n then f v else v) } }

/-- The map entry of a chunk; none is a zero reference. -/
def mapGet (m : List (Nat × MapEnt)) (c : Nat) : Option MapEnt := (m.find? (fun e => e.1 = c)).map (fun e => e.2)

/-- Set the map entry of a chunk. -/
def mapPut (m : List (Nat × MapEnt)) (c : Nat) (e : MapEnt) : List (Nat × MapEnt) :=
  (c, e) :: m.filter (fun x => x.1 ≠ c)

/-- Remove the map entry of a chunk. -/
def mapDel (m : List (Nat × MapEnt)) (c : Nat) : List (Nat × MapEnt) := m.filter (fun x => x.1 ≠ c)

/-- Every map of the brick: volumes, their snapshots, hidden images. -/
def allMaps (s : State) : List (List (Nat × MapEnt)) :=
  s.volu.vols.flatMap (fun v => v.map :: v.hidden :: v.snaps.map (fun x => x.map))

/-- How many maps hold an entry: more than one shares it within its lineage (R403). -/
def holders (s : State) (eid : Nat) : Nat :=
  ((allMaps s).filter (fun m => m.any (fun e => e.2.eid = eid))).length

/-- This device holds the token of a volume group (R27). -/
def holdsGroup (s : State) (g : Nat) : Bool := owns s (4 + g)

/-- A fresh entry identity. -/
def newEid (s : State) : Nat × State := (s.tier.eidNext, { s with tier := { s.tier with eidNext := s.tier.eidNext + 1 } })

/-! ### Stored records -/

/-- The record-table entry of a RID (R402). -/
def recOf (s : State) (g rid : Nat) : Option RecEnt := s.tier.recs.find? (fun r => r.group = g ∧ r.rid = rid)

/-- Change a record-table entry. -/
def updRec (g rid : Nat) (f : RecEnt → RecEnt) (s : State) : State :=
  { s with tier := { s.tier with recs := s.tier.recs.map (fun r => if r.group = g ∧ r.rid = rid then f r else r) } }

/-- TIER of a location (R401). -/
def locTier (l : Nat) : Nat := bitsAt l 62 2

/-- LFP of a flash location. -/
def locLfp (l : Nat) : Nat := bitsAt l 10 34

/-- Actuator of a disk location. -/
def locAct (l : Nat) : Nat := bitsAt l 59 2

/-- Band of a disk location. -/
def locBand (l : Nat) : Nat := bitsAt l 35 24

/-- Byte offset in the LFP or in the run's data stream. -/
def locOfs (l : Nat) : Nat := 16 * (if locTier l = 1 then bitsAt l 0 10 else bitsAt l 0 27)

/-- A flash location (R401). -/
def flashLoc (g lfp ofs : Nat) : Nat := 2 ^ 62 + g * 2 ^ 61 + lfp * 2 ^ 10 + ofs / 16

/-- A disk location (R401). -/
def diskLoc (g act band ofs : Nat) : Nat := 2 ^ 63 + g * 2 ^ 61 + act * 2 ^ 59 + band * 2 ^ 35 + ofs / 16

/-- The physical page of an LFP (R409). -/
def ppaOf (s : State) (g lfp : Nat) : Option Nat :=
  (s.tier.pmap.find? (fun e => e.1 = g ∧ e.2.1 = lfp)).map (fun e => e.2.2)

/-- The physical page address of channel, die, block, page (R409). -/
def ppa (c d b p : Nat) : Nat := c * 2 ^ 32 + d * 2 ^ 28 + b * 2 ^ 12 + p

/-- Channel of a physical page. -/
def ppaCh (x : Nat) : Nat := bitsAt x 32 5

/-- Die of a physical page. -/
def ppaDie (x : Nat) : Nat := bitsAt x 28 4

/-- Block of a physical page. -/
def ppaBlk (x : Nat) : Nat := bitsAt x 12 16

/-- Memory address of a flash page's data and spare bytes. -/
def pageAddr (x : Nat) : Nat := space 8 (x * 32768)

/-- Memory address of byte `o` of the data stream of a run. -/
def runAddr (act band o : Nat) : Nat := space (16 + act) (band * 2 ^ 32 + o)

/-- The stored bytes of a record, across two LFPs where it crosses a page boundary (R401); none where a page has no
mapping. -/
def recBytes (s : State) (r : RecEnt) : Option (List Byte) :=
  let n := 16 * r.len16
  let o := locOfs r.loc
  if locTier r.loc = 1 then
    let n1 := min n (16384 - o)
    match ppaOf s r.group (locLfp r.loc) with
    | none => none
    | some p =>
      let x := memRead s (pageAddr p + o) n1
      if n1 = n then some x
      else (ppaOf s r.group (locLfp r.loc + 1)).map (fun q => x ++ memRead s (pageAddr q) (n - n1))
  else some (memRead s (runAddr (locAct r.loc) (locBand r.loc) o) n)

/-- The 8 KiB that a stored record holds (R363). -/
def recData (s : State) (g rid : Nat) : Except Nat (List Byte) :=
  match recOf s g rid with
  | none => .error 0x0419
  | some r =>
    if r.state = 2 then .error 0x0410
    else match recBytes s r with
      | none => .error 0x0410
      | some b => decodeRecord b

/-! ### The content of a chunk -/

/-- A journal entry of this device by group and sequence. -/
def jrnOf (s : State) (g seq : Nat) : Option JEnt :=
  s.journal.find? (fun e => !e.mirror && decide (e.group = g ∧ e.seq.toNat = seq))

/-- Lay the bytes of a write at `off` over the bytes that begin at `base`. -/
def layOver (base off : Nat) (data : List Byte) (l : List (Option Byte)) : List (Option Byte) :=
  l.mapIdx (fun i x => if off ≤ base + i ∧ base + i < off + data.length then some (data.getD (base + i - off) 0) else x)

/-- The bytes that the journalled writes of an entry put into chunk `c`: oldest first, later ones over them; the code
of an entry that is no longer held or cannot be read (R348). -/
def layers (s : State) (g c : Nat) : List Nat → Except Nat (List (Option Byte))
  | [] => .ok (List.replicate 8192 none)
  | q :: r =>
    match jrnOf s g q, layers s g c r with
    | none, _ => .error 0x0818
    | _, .error e => .error e
    | some j, .ok l => if j.unreadable then .error 0x0818 else .ok (layOver (c * 8192) j.offset j.payload l)

/-- Bytes `o .. o + n - 1` of a chunk: the journalled bytes over the stored chunk or zeros (R337, R348); where only
journalled bytes are needed, an unreadable older chunk is no error (R535). -/
def entBytes (s : State) (g c : Nat) (e : Option MapEnt) (o n : Nat) : Except Nat (List Byte) :=
  match e with
  | none => .ok (List.replicate n 0)
  | some m =>
    match layers s g c m.seqs with
    | .error x => .error x
    | .ok l =>
      let part := (l.drop o).take n
      if part.all Option.isSome then .ok (part.map (fun x => x.getD 0))
      else
        let base : Except Nat (List Byte) := match m.rid with
          | none => .ok (List.replicate 8192 0)
          | some r => recData s g r
        match base with
        | .error x => .error x
        | .ok b => .ok (part.mapIdx (fun i x => x.getD (b.getD (o + i) 0)))

/-- `n` chunks of a map from chunk `c` on, whole. -/
def mapChunks (s : State) (g : Nat) (m : List (Nat × MapEnt)) (c : Nat) : Nat → Except Nat (List Byte)
  | 0 => .ok []
  | n + 1 =>
    match entBytes s g c (mapGet m c) 0 8192, mapChunks s g m (c + 1) n with
    | .error e, _ => .error e
    | _, .error e => .error e
    | .ok a, .ok b => .ok (a ++ b)

/-- The bytes of a volume range, chunk by chunk; only the bytes of the range are needed of each chunk. -/
def readFrom (s : State) (g : Nat) (m : List (Nat × MapEnt)) : Nat → Nat → Nat → Except Nat (List Byte)
  | 0, _, _ => .ok []
  | fuel + 1, off, len =>
    if len = 0 then .ok []
    else
      let n := min len (8192 - off % 8192)
      match entBytes s g (off / 8192) (mapGet m (off / 8192)) (off % 8192) n, readFrom s g m fuel (off + n) (len - n) with
      | .error e, _ => .error e
      | _, .error e => .error e
      | .ok a, .ok b => .ok (a ++ b)

/-- The number of chunks that a range touches. -/
def chunkSpan (off len : Nat) : Nat := if len = 0 then 0 else (off + len - 1) / 8192 - off / 8192 + 1

/-- The bytes of a volume range (R348, R369). -/
def readRange (s : State) (v : Volume) (off len : Nat) : Except Nat (List Byte) :=
  readFrom s v.group v.map (chunkSpan off len) off len

/-- The chunks that a range touches. -/
def chunksOf (off len : Nat) : List Nat := (List.range (chunkSpan off len)).map (fun i => off / 8192 + i)

/-- A range covers a chunk wholly, up to the end of a volume of size `sz` (R337). -/
def coversChunk (off len sz c : Nat) : Bool := decide (off ≤ c * 8192 ∧ min (c * 8192 + 8192) sz ≤ off + len)

/-- Tj: the highest of the four dies, in degrees Celsius (R522). -/
def tjOf (s : State) : Int := s.therm.dies.foldl max (s.therm.dies.headD 0)

/-! ### References -/

/-- A reference is taken to a stored record; a count that would pass its last value is pinned (R347). -/
def addRef (g rid : Nat) (s : State) : State :=
  match recOf s g rid with
  | none => s
  | some r =>
    if r.refs = 0xFFFFFFFF then s
    else if r.refs = 0xFFFFFFFE then s |> updRec g rid (fun r => { r with refs := 0xFFFFFFFF }) |> raise 11 0x051D 2 g 0
    else updRec g rid (fun r => { r with refs := r.refs + 1 }) s

/-- Some waiting reduction needs the index entry of a record (R347). -/
def waitedFor (s : State) (g : Nat) (fp : List Byte) : Bool :=
  s.red.jobs.any (fun j => j.stage = 1 ∧ j.group = g ∧ j.fp = fp)

/-- The index entry that names a record. -/
def idxOfRid (s : State) (g rid : Nat) : Option IdxEnt := s.tier.idx.find? (fun e => e.group = g ∧ e.rid = rid)

/-- The run that holds a location loses live bytes (R418). -/
def runLive (l : Nat) (d : Int) (s : State) : State :=
  if locTier l = 2 then
    { s with tier := { s.tier with runs := s.tier.runs.map (fun r =>
        if r.act = locAct l ∧ r.band = locBand l then { r with live16 := ((r.live16 : Int) + d).toNat } else r) } }
  else s

/-- A reference is released; at 0 the record is released with its index entry, unless a lookup waits on it (R347). -/
def dropRef (g rid : Nat) (s : State) : State :=
  match recOf s g rid with
  | none => s
  | some r =>
    if r.refs = 0xFFFFFFFF then s
    else if 1 < r.refs then updRec g rid (fun r => { r with refs := r.refs - 1 }) s
    else
      let s1 := runLive r.loc (-(r.len16 : Int)) s
      match idxOfRid s1 g rid with
      | some e =>
        if waitedFor s1 g e.fp then updRec g rid (fun r => { r with refs := 0 }) s1
        else { s1 with tier := { s1.tier with idx := s1.tier.idx.filter (fun x => ¬(x.group = g ∧ x.rid = rid))
                                              recs := s1.tier.recs.filter (fun x => ¬(x.group = g ∧ x.rid = rid)) } }
      | none => { s1 with tier := { s1.tier with recs := s1.tier.recs.filter (fun x => ¬(x.group = g ∧ x.rid = rid)) } }

/-- An entry has left one map: its reference goes with the last map that held it (R342). -/
def entGone (g : Nat) (e : MapEnt) (s : State) : State :=
  match e.rid with
  | none => s
  | some r => if holders s e.eid = 0 then dropRef g r s else s

/-- Release every entry of a map that has been taken away. -/
def entsGone (g : Nat) (m : List (Nat × MapEnt)) (s : State) : State := m.foldl (fun s e => entGone g e.2 s) s

/-- A chunk of a volume becomes a zero reference (R338, R427). -/
def zeroChunk (v c : Nat) (s : State) : State :=
  match volOf s v with
  | none => s
  | some x =>
    match mapGet x.map c with
    | none => s
    | some e => s |> updVol v (fun x => { x with map := mapDel x.map c }) |> entGone x.group e

/-! ### The journal -/

/-- VAT_SEQ and VAT_MIRROR_ACK compare modulo 2^32 (R452). -/
def seqNewer (a b : Nat) : Bool := newer 32 a b

/-- Own bytes of the journal pool, and mirror bytes (R454): header, payload units of 4 KiB, seal. -/
def entBytesHeld (e : JEnt) : Nat := 128 + (e.payload.length + 4095) / 4096 * 4096

/-- Pool bytes of own or of mirror entries. -/
def poolBytes (s : State) (mirror : Bool) : Nat :=
  (s.journal.filter (fun e => e.mirror = mirror)).foldl (fun n e => n + entBytesHeld e) 0

/-- Unreduced Vat bytes: own host writes with a chunk that no committed record covers (R362, R454). -/
def unreduced (s : State) : Nat :=
  (s.journal.filter (fun e => !e.mirror && e.kind = 1 && !e.chunks.isEmpty)).foldl (fun n e => n + e.payload.length) 0

/-- The Nalyn link is up and its partner takes mirror entries. -/
def mirrorUp (s : State) : Bool := isSet s F.VAT_MIRROR_UP && isSet s F.NAL_UP

/-- An own entry has its second copy: the mirror's acknowledgement, or a flash journal page where the partner cannot
confirm it (R45, R453). -/
def secondCopy (s : State) (e : JEnt) : Bool := e.mirrored || (e.flashPage && !mirrorUp s)

/-- Append an own entry whose data has arrived (R452), sent to the partner where it mirrors (R453). -/
def jAppend (g kind vol off : Nat) (data : List Byte) (canalSeq : Nat) (cmd : Option Nat) (s : State) : Nat × State :=
  let q := s.tier.jNext.getD g 0
  let e : JEnt := { group := g, mirror := false, seq := BitVec.ofNat 32 q, kind := kind, volume := vol, offset := off,
                    canalSeq := canalSeq, payload := data, arrived := true, sealed := false, mirrored := false,
                    flashPage := false, flashPending := !mirrorUp s, acked := false, cmd := cmd,
                    chunks := if kind = 1 then chunksOf off data.length else [], unreadable := false, applied := kind ≠ 1 }
  let s1 := { s with journal := s.journal ++ [e]
                     tier := { s.tier with jNext := setAt s.tier.jNext g ((q + 1) % 2 ^ 32) } }
  (q, if mirrorUp s then nalSend 2 1 ([g, q, kind, vol, off, data.length] ++ data.map (fun b => b.toNat)) s1 else s1)

/-- Change an own entry. -/
def updJrn (g q : Nat) (f : JEnt → JEnt) (s : State) : State :=
  { s with journal := s.journal.map (fun e => if !e.mirror && decide (e.group = g ∧ e.seq.toNat = q) then f e else e) }

/-- An entry may go: sealed, acknowledged, with its second copy, no chunk of it left without a record (R352). -/
def jDone (s : State) (e : JEnt) : Bool := !e.mirror && e.sealed && e.acked && secondCopy s e && e.chunks.isEmpty

/-- Release the own entries that are done with (R352); the partner is told, and releases its mirror (R454). Once no
entry rests on a flash journal page, the closed journal blocks hold nothing that is needed, and are FREE (R412). -/
def jRelease (s : State) : State :=
  let gone := s.journal.filter (jDone s)
  let s1 := { s with journal := s.journal.filter (fun e => !jDone s e) }
  let s2 := gone.foldl (fun s e => nalSend 2 3 [e.group, e.seq.toNat] s) s1
  if s2.journal.any (fun e => !e.mirror && e.flashPage && !e.mirrored) then s2
  else { s2 with tier := { s2.tier with blks := s2.tier.blks.map (fun b =>
      if b.journal && decide (b.state = 4) then { b with state := 1, journal := false } else b) } }

/-- An entry that carries no command's acknowledgement is acknowledged by its two copies. -/
def jAckFree (s : State) : State :=
  { s with journal := s.journal.map (fun e =>
      if !e.mirror && e.sealed && e.cmd.isNone && secondCopy s e then { e with acked := true } else e) }

/-- Some map of group `g` still takes bytes of chunk `c` from journal entry `q`. -/
def listed (s : State) (g c q : Nat) : Bool :=
  s.volu.vols.any (fun v => decide (v.group = g) && (v.map :: v.hidden :: v.snaps.map (fun x => x.map)).any (fun m =>
    match mapGet m c with
    | some e => e.seqs.contains q
    | none => false))

/-- A record of entry `q`, or the removal of the chunk from the maps, covers chunk `c` of volume `v`: entry `q` and every
older one are done with the chunk unless a map still takes bytes of theirs (R352, R535). -/
def jCover (g v c q : Nat) (s : State) : State :=
  { s with journal := s.journal.map (fun e =>
      if !e.mirror && decide (e.group = g ∧ e.volume = v) && (decide (e.seq.toNat = q) || seqNewer q e.seq.toNat)
          && !listed s g c e.seq.toNat
      then { e with chunks := e.chunks.filter (fun x => x ≠ c) } else e) }

/-- A chunk has left the maps (R535): entries that no map takes bytes from are done with it. -/
def jDrop (g v c : Nat) (s : State) : State :=
  { s with journal := s.journal.map (fun e =>
      if !e.mirror && decide (e.group = g ∧ e.volume = v) && e.sealed && !listed s g c e.seq.toNat
      then { e with chunks := e.chunks.filter (fun x => x ≠ c) } else e) }

/-- The map change of one chunk when a journalled write is complete (R348): the entry names the journal entry; a chunk
that is shared gets an entry of its own. -/
def mapWrite (v q off len c : Nat) (s : State) : State :=
  match volOf s v with
  | none => s
  | some x =>
    let whole := coversChunk off len x.size c
    match mapGet x.map c with
    | none =>
      let n := newEid s
      updVol v (fun x => { x with map := mapPut x.map c ⟨n.1, [q], none, false, 0⟩ }) n.2
    | some e =>
      let seqs := if whole then [q] else q :: e.seqs
      if 1 < holders s e.eid then
        let n := newEid s
        let s1 := updVol v (fun x => { x with map := mapPut x.map c { e with eid := n.1, seqs := seqs } }) n.2
        match e.rid with
        | some r => addRef x.group r s1
        | none => s1
      else updVol v (fun x => { x with map := mapPut x.map c { e with seqs := seqs } }) s

/-- A journalled write takes effect on the map: zero writes of whole chunks become zero references (R338). -/
def applyWrite (v q off len : Nat) (s : State) : State :=
  (chunksOf off len).foldl (fun s c => mapWrite v q off len c s) s

/-- A dirty log takes chunks; beyond 2^24 it marks the whole volume (R391). -/
def logAdd (l : List Nat) (all : Bool) (cs : List Nat) : List Nat × Bool :=
  let d := l ++ (cs.filter (fun x => !l.contains x))
  if all then (l, true) else if 2 ^ 24 < d.length then ([], true) else (d, false)

/-- Enter chunks in the log of a canal, and beside it in what its transfer's image does not hold. -/
def canalDirty (cs : List Nat) (c : Canal) : Canal :=
  let d := logAdd c.dirty c.dirtyAll cs
  { c with dirty := d.1, dirtyAll := d.2
           xfer := c.xfer.map (fun x => let l := logAdd x.late x.lateAll cs; { x with late := l.1, lateAll := l.2 }) }

/-- Chunks of a volume enter the dirty logs of its synchronous canals that are not OPEN (R387, R391). -/
def dirtyLog (v : Nat) (cs : List Nat) (s : State) : State :=
  { s with volu := { s.volu with canals := s.volu.canals.map (fun c =>
      if c.source && c.sync && decide (c.vol = v ∧ (c.state = 0 ∨ c.state = 2 ∨ c.state = 4)) then canalDirty cs c else c) } }

/-- A record of the group's metadata is committed in the Vat (R349, R410, R423): it takes the next journal sequence and
goes to the partner. -/
def jRecord (g kind : Nat) (s : State) : State :=
  let q := s.tier.jNext.getD g 0
  let s1 := { s with tier := { s.tier with jNext := setAt s.tier.jNext g ((q + 1) % 2 ^ 32) } }
  let s2 := wr (R.VAT_SEQ g) (BitVec.ofNat 32 q) s1
  if mirrorUp s2 then nalSend 2 1 [g, q, kind] s2 else s2

/-! ### Media that commands wait for -/

/-- A read of a stored record fails R363 after the re-read of R364: counted, and its location latched. -/
def decodeFailed (loc code : Nat) (s : State) : State :=
  let s1 := count R.RED_DECODE_ERR_LO 1 s
  if isSet s1 F.RED_ERR_VALID then satF F.RED_ERR_OVF 1 s1
  else s1 |> wr R.RED_ERR_LOC_LO (BitVec.ofNat 32 (loc % 2 ^ 32)) |> wr R.RED_ERR_LOC_HI (BitVec.ofNat 32 (loc / 2 ^ 32))
    |> setF F.RED_ERR_VALID 1 |> setF F.RED_ERR_OVF 0 |> setF F.RED_ERR_CODE code

/-- Change a command. -/
def updCmd (id : Nat) (f : Cmd → Cmd) (s : State) : State :=
  { s with host := { s.host with cmds := s.host.cmds.map (fun c => if c.id = id then f c else c) } }

/-- A command by number. -/
def cmdOf (s : State) (id : Nat) : Option Cmd := s.host.cmds.find? (fun c => c.id = id)

/-- A medium's part of the running commands that wait for it has ended, well or with a status. -/
def needsEnd (p : Need → Bool) (err : Option Nat) (s : State) : State :=
  { s with host := { s.host with cmds := s.host.cmds.map (fun c =>
      if decide (c.stage = 2) && c.needs.any p then
        { c with needs := c.needs.filter (fun n => !p n)
                 status := match err with
                   | some e => some (c.status.getD e)
                   | none => c.status }
      else c) } }

/-- The records that a volume range names. -/
def rangeRids (v : Volume) (off len : Nat) : List Nat := (chunksOf off len).filterMap (fun c => (mapGet v.map c).bind (fun e => e.rid))

/-- A read or verify has no medium left to wait for: its bytes are decoded and checked (R363), each record read counts as
heat (R421), and a record that fails is counted and latched (R364). -/
def takeRead (c : Cmd) (s : State) : State :=
  match volOf s c.vol with
  | none => updCmd c.id (fun c => { c with status := some 0x0714 }) s
  | some v =>
    let rids := rangeRids v c.off c.len
    let s1 := { s with tier := { s.tier with recs := s.tier.recs.map (fun r =>
      if r.group = v.group ∧ rids.contains r.rid = true then { r with heat := min 255 (r.heat + 1) } else r) } }
    match readRange s1 v c.off c.len with
    | .ok d => updCmd c.id (fun c => { c with data := d, status := some 0, info := 1 }) s1
    | .error e =>
      let bad := rids.find? (fun r => match recData s1 v.group r with
        | .ok _ => false
        | .error _ => true)
      let s2 := match (bad.bind (recOf s1 v.group)) with
        | some r => if 0x0510 ≤ e ∧ e ≤ 0x051A then decodeFailed r.loc e s1 else s1
        | none => s1
      updCmd c.id (fun c => { c with status := some e }) s2

/-- The command reads. -/
def isRead (c : Cmd) : Bool := decide (c.op = .read ∨ c.op = .verify)

/-- Running reads that wait for no medium any more take their data. -/
def takeReads (s : State) : State :=
  (s.host.cmds.filter (fun c => isRead c && !c.forwarded && decide (c.stage = 2) && c.needs.isEmpty && c.status.isNone)).foldl
    (fun s c => takeRead c s) s

/-- The end of a medium's part, with what the commands that waited for nothing else take from it. -/
def needsDone (p : Need → Bool) (err : Option Nat) (s : State) : State := s |> needsEnd p err |> takeReads

end Sys2Proof.Machine
end

