-- ==== Sys2Proof/Machine/PaLink.lean ====
section
/-! DEFINITION. The preamplifier links (R24, R183 to R189): frames, transactions with their repeats, claims, faults; and the
stop of a head's write (R219, R220). -/

namespace Sys2Proof.Machine

/-! ### Frames -/

/-- CRC-8 of a frame's upper bits (R183). -/
def crc8 (n x : Nat) : Nat := crcMsb 8 7 0 (msbBits n x)

/-- A command frame's bits [39:8] (R183). -/
def paCmd (rd : Bool) (reg head data : Nat) : Nat := b2n rd * 2 ^ 31 + reg % 128 * 2 ^ 24 + head % 16 * 2 ^ 20 + data % 65536

/-- Fields of bits [39:8] of a command. -/
def paRd (f : Nat) : Bool := bitAt f 31
def paReg (f : Nat) : Nat := bitsAt f 24 7
def paHead (f : Nat) : Nat := bitsAt f 20 4
def paData (f : Nat) : Nat := bitsAt f 0 16

/-- The whole 40-bit frame. -/
def paFrame (f : Nat) : Nat := f % 2 ^ 32 * 256 + crc8 32 f

/-- A link's record. -/
def paOf (s : State) (p : Nat) : PaSt := s.pa.getD p PaSt.reset

/-- Change a link's record. -/
def updPa (p : Nat) (f : PaSt → PaSt) (s : State) : State := { s with pa := modAt s.pa p f }

/-- The actuator of a preamplifier, and the head of its port `j`. -/
def paAct (p : Nat) : Nat := p / 4
def paPort (p j : Nat) : Nat := 36 * (p / 4) + 9 * (p % 4) + j

/-- The preamplifier of a head, and the head's port. -/
def headPa (h : Nat) : Nat := 4 * (h / 36) + h % 36 / 9
def headPort (h : Nat) : Nat := h % 36 % 9

/-! ### Admission -/

/-- The admitted preamplifiers, shown in HC_STATUS and PWR_HEAD_LIMIT. -/
def admitShow (s : State) : State :=
  forN 144 (fun h s => setB (F.HC_ADMITTED h) (s.clk.admitted.contains (headPa h)) s) (setF F.PWR_HEADS_ADMITTED (9 * s.clk.admitted.length) s)

/-- Set the admitted preamplifiers. -/
def admitSet (l : List Nat) (s : State) : State := admitShow { s with clk := { s.clk with admitted := l } }

/-- Some head of the preamplifier is within a sector. -/
def paInSector (s : State) (p : Nat) : Bool := (List.range 9).any (fun j => (s.head.getD (paPort p j) HeadSt.reset).cur.isSome)

/-- A new choice of preamplifiers: one that goes leaves at the sector boundary of its heads (R106). -/
def admitTo (l : List Nat) (s : State) : State :=
  let late := s.clk.admitted.filter (fun p => !l.contains p && paInSector s p)
  admitSet (l ++ late) { s with clk := { s.clk with leaving := late } }

/-- A head has reached a sector boundary: its preamplifier goes if it is to go (R106). -/
def sectorLeave (h : Nat) (s : State) : State :=
  let p := headPa h
  if s.clk.leaving.contains p && !paInSector s p then
    admitSet (s.clk.admitted.filter (fun x => x ≠ p)) { s with clk := { s.clk with leaving := s.clk.leaving.filter (fun x => x ≠ p) } }
  else s

/-! ### Transactions -/

/-- Start the next transaction of a link, one at a time (R183), unless PA_SCK is stopped for want of SYS_REFCLK (R121). -/
def paNext (p : Nat) (s : State) : State :=
  if heldSafe s 9 then s
  else match (paOf s p).tx, (paOf s p).queue with
  | none, x :: r => s |> updPa p (fun y => { y with tx := some x.1, raw := x.2, attempts := 1, queue := r }) |> send (.paFrame p (paFrame x.1))
  | _, _ => s

/-- Send a command to a preamplifier that is not marked failed, while its domain is on. -/
def paSend (p f : Nat) (raw : Bool) (s : State) : State :=
  if isSet s (F.HC_PA_FAILED p) ∨ domOn s (2 + paAct p) = false then s
  else s |> updPa p (fun y => { y with queue := y.queue ++ [(f, raw)] }) |> paNext p

/-- The write gate of a preamplifier goes off. -/
def paGateOff (p : Nat) (s : State) : State := pllGates (paAct p) { s with pins := { s.pins with paWg := setAt s.pins.paWg p false } }

/-- The write data of a preamplifier's heads goes to zero differential (R59). -/
def paDataOff (p : Nat) (s : State) : State :=
  { s with pins := { s.pins with hpWr := (List.range 9).foldl (fun l j => setAt l (paPort p j) false) s.pins.hpWr } }

/-- Write a head's register of its preamplifier, and read it back (R187, R218). -/
def paSet (h reg v : Nat) (s : State) : State :=
  let p := headPa h
  let j := headPort h
  s |> paSend p (paCmd false reg j v) false |> paSend p (paCmd true reg j 0) false

/-- Send a heater power to a head, clipped at HC_HTR_MAX (R216). -/
def heater (h pow : Nat) (s : State) : State :=
  let mx := getF s (F.HC_HTR_MAX h)
  (if mx < pow then setF (F.HC_FLT_HTR h) 1 s else s) |> paSet h 4 (min mx pow)

/-- Heaters of an actuator's heads: 0 while the heads are unloaded, the read power while they are loaded (R216). -/
def heatersOff (a : Nat) (s : State) : State :=
  (List.range 36).foldl (fun s i => if fitted s (36 * a + i) && (paOf s (headPa (36 * a + i))).driving then heater (36 * a + i) 0 s else s) s

/-- The read power on every head of an actuator. -/
def heatersOn (a : Nat) (s : State) : State :=
  (List.range 36).foldl (fun s i => let h := 36 * a + i; if fitted s h then heater h (getF s (F.HC_HTR_READ h)) s else s) s

/-- The preamplifier of a band write has every value read back (R187, R218). -/
def paSettled (s : State) (p : Nat) : Bool := (paOf s p).tx.isNone && (paOf s p).queue.isEmpty && (paOf s p).readback.isEmpty

/-- No preamplifier of an actuator refuses this device's claim; else the actuator's head channels are idle (R188). -/
def paClear (s : State) (a : Nat) : Bool := (List.range 4).all (fun j => !(paOf s (4 * a + j)).retryTimer)

/-! ### Stopping a head's write (R219, R220) -/

/-- The heads of one preamplifier stop and its write gate goes off (R219). -/
def stopPa (p : Nat) (s : State) : State := (List.range 9).foldl (fun s j => stopHead (paPort p j) s) (paGateOff p s)

/-! ### Claims -/

/-- This device's own port (R24): 1 A, 2 B. -/
def ownPort (s : State) : Nat := devNo s + 1

/-- Claim a preamplifier, with FORCE or not (R188): the claim, then a read of the holding port. -/
def paClaim (p : Nat) (force : Bool) (s : State) : State :=
  if !owns s (paAct p) then s
  else s |> updPa p (fun y => { y with claiming := true, retryTimer := false })
    |> paSend p (paCmd false 1 0 (if force then 3 else 1)) false |> paSend p (paCmd true 1 0 0) false

/-- Release a preamplifier. -/
def paRelease (p : Nat) (s : State) : State :=
  s |> updPa p (fun y => { y with driving := false, claiming := false, retryTimer := false }) |> paGateOff p |> paDataOff p
    |> paSend p (paCmd false 1 0 0) false

/-- Stop driving a preamplifier (R188). -/
def paLost (p : Nat) (s : State) : State :=
  s |> updPa p (fun y => { y with driving := false, queue := [], readback := [] }) |> stopPa p |> raise 4 0x0318 2 p 0

/-! ### Replies -/

/-- Four attempts have failed (R186). -/
def paFail (p : Nat) (s : State) : State :=
  admitSet (s.clk.admitted.filter (fun x => x ≠ p))
    ({ s with fs := modAt s.fs (paAct p) (fun x => { x with paErr := true }) } |> stopPa p |> setF (F.HC_PA_FAILED p) 1
      |> updPa p (fun y => { y with tx := none, queue := [], readback := [], claiming := false })
      |> raise 4 0x0313 2 p 0)

/-- A PA_FAULT read has come back (R189): the device that does not hold the preamplifier only logs it. The last of the nine takes the
assertion's record back. -/
def paFaultRead (p j d : Nat) (s : State) : State :=
  let h := paPort p j
  let s1 :=
    if d = 0 then s
    else if !(paOf s p).driving then logEvent 4 0x0312 0 h d s
    else
      let s1 := s |> setF (F.HC_FLT_PA h) 1 |> raiseLive 4 0x0312 2 h d true
      let s2 := if bitAt d 4 then setF (F.HC_FLT_HTR h) 1 s1 else s1
      if bitAt d 0 ∨ bitAt d 1 ∨ bitAt d 4 then setF (F.HC_EN h) 0 s2 else s2
  if j = 8 then
    let s2 := setF (F.HC_PA_FLT_IN p) 0 s1
    if headPa (getF s2 (FF_INST 4)) = p then clearLive 4 0x0312 s2 else s2
  else s1

/-- The holding port as read (R188). -/
def paPortRead (p d : Nat) (s : State) : State :=
  let s1 := setF (F.HC_PA_HOLDER p) (d % 4) s
  if !(paOf s p).claiming then s1
  else if d % 4 = ownPort s then updPa p (fun y => { y with claiming := false, driving := true }) s1
  else s1 |> updPa p (fun y => { y with retryTimer := true }) |> raise 4 0x0318 2 p 0

/-- The frame of a value to be read back: its register and head. -/
def sameField (f g : Nat) : Bool := decide (paReg f = paReg g ∧ paHead f = paHead g)

/-- A written value that has to be read back: mode, heater, write current, overshoot duration (R187, R218). A rewrite keeps its count of
attempts. -/
def paWritten (p f att : Nat) (s : State) : State :=
  if paReg f = 2 ∨ paReg f = 4 ∨ paReg f = 5 ∨ paReg f = 6 then
    updPa p (fun y =>
      let n := ((y.readback.find? (fun x => x.1 = f)).map (fun x => x.2)).getD att
      { y with readback := (f, max n att) :: y.readback.filter (fun x => !sameField x.1 f) }) s
  else s

/-- An intact reply to the command `f` (R183, R186, R187): what it tells. A read back that differs rewrites the value, as an
attempt. -/
def paReply (p f : Nat) (raw : Bool) (att r : Nat) (s : State) : State :=
  let d := bitsAt r 8 16
  if raw then wr (R.HC_PA_RAW_RX p) (BitVec.ofNat 32 r) s
  else if bitAt r 30 ∧ paRd f = false then paLost p s
  else if !paRd f then paWritten p f att s
  else if paReg f = 1 then paPortRead p d s
  else if paReg f = 7 then paFaultRead p (paHead f) d s
  else match (paOf s p).readback.find? (fun x => sameField x.1 f) with
  | some x =>
    if d = paData x.1 then updPa p (fun y => { y with readback := y.readback.filter (fun z => !sameField z.1 f) }) s
    else if 4 ≤ x.2 then paFail p s
    else updPa p (fun y => { y with queue := (x.1, false) :: (f, false) :: y.queue
                                    readback := (x.1, x.2 + 1) :: y.readback.filter (fun z => !sameField z.1 f) }) s
  | none => s

/-- The write gates of a band that waits for its preamplifiers go on, where every value has been read back (R187, R218). -/
def gateOpen (a : Nat) (s : State) : State :=
  match bandOf s a with
  | some b =>
    if bandOp b = 2 ∧ b.gated then
      let on (p : Nat) : Bool := decide (p / 4 = a) && (paOf s p).driving && paSettled s p && !isSet s (F.HC_PA_FLT_IN p)
        && (List.range 36).any (fun i => bitAt b.mask i && decide (headPa (36 * a + i) = p) && !bitAt b.stopped i)
      { s with pins := { s.pins with paWg := s.pins.paWg.mapIdx (fun p v => v || on p) } }
    else s
  | none => s

/-- PA_REPLY_RECEIVED (R183, R186): none where no frame came that could be checked. -/
def execPaReplyReceived (p : Fin 16) (reply : Option (BitVec 32)) (s : State) : Out :=
  match (paOf s p.val).tx with
  | none => .next s
  | some f =>
    let x := paOf s p.val
    let ok := reply.any (fun r => decide (crc8 24 (r.toNat / 256) = r.toNat % 256) && !bitAt r.toNat 31)
    if ok then
      .next (s |> updPa p.val (fun y => { y with tx := none }) |> paReply p.val f x.raw x.attempts (reply.elim 0 (fun r => r.toNat)) |> paNext p.val |> gateOpen (paAct p.val))
    else if x.attempts < 4 then
      .next (s |> updPa p.val (fun y => { y with attempts := y.attempts + 1 }) |> send (.paFrame p.val (paFrame f)))
    else .next (paFail p.val s)

/-- PA_FLT_ASSERT (R189, R219): the holder's write gate goes off, and PA_FAULT is read for heads 0 to 8. -/
def execPaFltAssert (p : Fin 16) (s : State) : Out :=
  if !domOn s (2 + paAct p.val) || !fittedPa s p.val then .next s
  else
    let s1 := setF (F.HC_PA_FLT_IN p.val) 1 s
    let s2 := if (paOf s p.val).driving then stopPa p.val s1 else s1
    .next ((List.range 9).foldl (fun s j => paSend p.val (paCmd true 7 j 0) false s) s2)

/-- PA_CLAIM_RETRY_TIMER (R188). -/
def execPaClaimRetryTimer (p : Fin 16) (s : State) : Out :=
  if (paOf s p.val).retryTimer then .next (paClaim p.val false s) else .next s

/-- HC_PA_RAW_TX_WRITE (R183): RD is forced to 1, so only reads are sent. -/
def execHcPaRawTxWrite (p : Path) (n : Fin 16) (w : BitVec 32) (s : State) : Out :=
  .next (busAct p (R.HC_PA_RAW_TX n.val) w (acc (paSend n.val (w.toNat % 2 ^ 31 + 2 ^ 31) true)) s)

end Sys2Proof.Machine
end

