-- ==== Sys2Proof/Machine/Sector.lean ====
section
/-! DEFINITION. The bookkeeping of a band that is read (R248, R250), the delivery of sectors (R211, R212), the sectors in the retry ladder
(R222, R223) and the retry store (R210, R211). -/

namespace Sys2Proof.Machine

/-! ### The band that is read -/

/-- A head beside its registers. -/
def headOf (s : State) (h : Nat) : HeadSt := s.head.getD h HeadSt.reset

/-- Change a head. -/
def updHead (h : Nat) (f : HeadSt → HeadSt) (s : State) : State := { s with head := modAt s.head h f }

/-- Add to one of the seven counts of HC_STATS (R226). -/
def headStat (h i : Nat) (s : State) : State :=
  s |> updHead h (fun x => { x with stats := modAt x.stats i (fun n => min (2 ^ 48 - 1) (n + 1)) })
    |> (if i = 1 ∨ i = 2 then health (i + 3) 1 else fun s => s)

/-- Fields of a band's descriptor (R249). -/
def bdTag (b : Band) : Nat := leAt b.desc.bytes 2 2
def bdBand (b : Band) : Nat := leAt b.desc.bytes 4 4
def bdFirst (b : Band) : Nat := leAt b.desc.bytes 16 2
def bdCount (b : Band) : Nat := leAt b.desc.bytes 18 2
def bdUnits (b : Band) : Nat := leAt b.desc.bytes 20 4
def bdAddr (b : Band) : Nat := leAt b.desc.bytes 24 8

/-- A byte of the zone memory of actuator `a`, as read (R240). -/
def zm (s : State) (a o n : Nat) : Nat := leNat (memRead s (space 6 (a * 0x8000 + o)) n)

/-- Fields of the zone table (R241, R242). -/
def zBands (s : State) (a : Nat) : Nat := zm s a 4 4
def zZones (s : State) (a : Nat) : Nat := zm s a 8 1
def zStroke (s : State) (a : Nat) : Nat := zm s a 0x0A 2
def zOfs (s : State) (a i : Nat) : Int := sgn 32 (zm s a (0x20 + 8 * i) 4)
def zHdr (s : State) (a z o n : Nat) : Nat := zm s a (0x140 + 32 * z + o) n

/-- The zone of a band: the last one whose FIRST_BAND is not above it. -/
def zoneOf (s : State) (a b : Nat) : Nat :=
  ((List.range (zZones s a)).filter (fun z => decide (zHdr s a z 0 4 ≤ b))).length - 1

/-- Sectors per track of the band's zone. -/
def sectorsOf (s : State) (a b : Nat) : Nat := max 1 (zHdr s a (zoneOf s a b) 0x0C 2)

/-- The track of a head in a band (R238). -/
def trackOf (s : State) (a b i : Nat) : Nat := ((b : Int) + zOfs s a i).toNat

/-- The surfaces of a mask, ascending. -/
def maskList (m : Nat) : List Nat := (List.range 36).filter (fun i => bitAt m i)

/-- The rank of a surface in a mask (R248). -/
def rankOf (m i : Nat) : Nat := ((maskList m).filter (fun j => decide (j < i))).length

/-- The run unit of sector `k` on surface `i`: slot times heads plus rank (R248, R250). -/
def unitOf (b : Band) (n first k i : Nat) : Nat := (k + n - first % n) % n * (maskList b.mask).length + rankOf b.mask i

/-- The run bytes that a sector of an internal band read fills in its run's data stream (R419): a parity unit none. -/
def streamPut (a : Nat) (b : Band) (k i : Nat) (d : List Byte) (s : State) : State :=
  if b.desc.q < 257 then s
  else match s.tier.runs.find? (fun r => r.act = a ∧ r.band = bdBand b) with
  | none => s
  | some r =>
    let n := (maskList r.mask).length
    let w := if bitAt r.flags 0 then n - 1 else n
    let rk := rankOf r.mask i
    if w ≤ rk then s
    else memWrite (runAddr a (bdBand b) (((k + r.n - r.k0 % max 1 r.n) % max 1 r.n * w + rk) * 32768)) d s

/-- FS_RING_FILL of a read: every unit below it has been delivered (R250). -/
def ringRead (a : Nat) (s : State) : State :=
  match bandOf s a with
  | none => s
  | some b =>
    let n := sectorsOf s a (bdBand b)
    let us := (b.left ++ b.failed).map (fun e => unitOf b n (bdFirst b) e.2 e.1)
    let v := us.foldl min (bdCount b * (maskList b.mask).length)
    if bandOp b = 1 then wr (R.FS_RING_FILL a) (BitVec.ofNat 32 v) s else s

/-- A sector is one of the band's: of its track, under its tag (R200). -/
def ofBand (s : State) (h sid : Nat) (b : Band) : Bool :=
  decide (sid = sidOf h (trackOf s (actOf h) (bdBand b) (h % 36)) (bitsAt sid 16 16) (bdTag b))

/-- A sector leaves the band's list: delivered, or failed. -/
def bandTake (a i k : Nat) (ok : Bool) (s : State) : State :=
  s |> updBand a (fun b => { b with left := b.left.filter (fun e => e ≠ (i, k))
                                    failed := if ok then b.failed else (i, k) :: b.failed
                                    unrecov := if ok then b.unrecov else b.unrecov + 1 })
    |> ringRead a

/-- The sector index of a SID. -/
def sidIdx (sid : Nat) : Nat := bitsAt sid 16 16

/-! ### The end of a sector -/

/-- The codewords of a sector leave the retry store. -/
def storeDrop (h sid : Nat) (s : State) : State :=
  let r := s.pool.retry.filter (fun c => ¬(c.head = h ∧ c.sid = sid))
  { s with pool := { s.pool with retry := r } } |> setF F.DEC_RETRY_USED r.length

/-- The micro-actuator offset of a ladder step, in 1/1024 track, from steps of 0.5 % of track pitch (R222). -/
def stepOfs (s : State) (h t : Nat) : Int :=
  let o : Int := (getF s (F.HC_RETRY_OFFSET h) : Int) * 1024 / 200
  if t = 6 then o else if t = 7 then -o else if t = 10 then 2 * o else if t = 11 then -2 * o else 0

/-- What a ladder step adds to the read heater: step 5 one heater step, step 9 two (R222). -/
def stepHeat (s : State) (h t : Nat) : Nat := (if t = 5 then 1 else if t = 9 then 2 else 0) * getF s (F.HC_RETRY_HTR_STEP h)

/-- HC_LADDER_STEP, the offset and the heater follow the sector of the ladder that passes next, the first of the list (R222). -/
def ladderShow (h : Nat) (s : State) : State :=
  let t := ((headOf s h).ladder.head?.map (fun x => x.step)).getD 0
  let e := stepHeat s h t
  let old := (headOf s h).extra
  s |> setF (F.HC_LADDER_STEP h) t |> updHead h (fun y => { y with ofs := stepOfs s h t, extra := e })
    |> (if e = old then fun s => s else heater h (getF s (F.HC_HTR_READ h) + e))

/-- A sector of a head that is complete, with its data in the Cellar ring, or nowhere for a VERIFY (R211). A sector that recovered at a
ladder step counts (R224), unless it counted when it was framed on SM2 (R205). -/
def deliver (h : Nat) (x : SectorRd) (s : State) : State :=
  let a := actOf h
  let mine := (bandOf s a).any (ofBand s h x.sid)
  let s1 := match x.dest, bandOf s a with
    | some o, some b => if mine then streamPut a b (sidIdx x.sid) (h % 36) (memRead s (space 3 o) 32768) s else s
    | _, _ => s
  s1 |> updHead h (fun y => { y with complete := y.complete.filter (fun z => z.sid ≠ x.sid) })
    |> storeDrop h x.sid |> (if mine then bandTake a (h % 36) (sidIdx x.sid) true else fun s => s) |> headStat h 0
    |> (if 0 < x.step ∧ x.framing ≠ 2 then fun s => s |> count (R.HC_RECOV_LO h) 1 |> headStat h 1 else fun s => s)

/-- The complete sectors of a head that no earlier one holds back, in media order (R212). -/
def ready (y : HeadSt) : List SectorRd :=
  let xs := y.complete.filter (fun x => (y.pool ++ y.ladder).all (fun z => decide (x.ord ≤ z.ord)))
  xs.foldl (fun l x => l.takeWhile (fun z => decide (z.ord ≤ x.ord)) ++ x :: l.dropWhile (fun z => decide (z.ord ≤ x.ord))) []

/-- Deliver what may be delivered (R212). -/
def flushHead (h : Nat) (s : State) : State := (ready (headOf s h)).foldl (fun s x => deliver h x s) s

/-- A sector leaves the pool and the ladder. -/
def sectorGone (h sid : Nat) (s : State) : State :=
  updHead h (fun y => { y with pool := y.pool.filter (fun z => z.sid ≠ sid), ladder := y.ladder.filter (fun z => z.sid ≠ sid) }) s

/-- A head's sector has all eight codewords (R211): it is delivered in its turn. -/
def sectorGood (h : Nat) (x : SectorRd) (s : State) : State :=
  s |> sectorGone h x.sid |> updHead h (fun y => { y with complete := y.complete ++ [x] }) |> flushHead h

/-- A sector leaves without its data, with a status that the band reports (R224). -/
def sectorLost (h : Nat) (x : SectorRd) (unrecov : Bool) (s : State) : State :=
  s |> sectorGone h x.sid |> updHead h (fun y => { y with reread := y.reread.filter (fun z => z.sid ≠ x.sid) })
    |> storeDrop h x.sid
    |> (if unrecov then fun s => s |> (if (bandOf s (actOf h)).any (ofBand s h x.sid) then bandTake (actOf h) (h % 36) (sidIdx x.sid) false else fun s => s) |> setF (F.HC_FLT_UNRECOV h) 1 |> headStat h 2
          |> raise 4 0x0310 2 h (sidIdx x.sid)
        else updBand (actOf h) (fun b =>
          let l := b.left.filter (fun e => e ≠ (h % 36, sidIdx x.sid))
          if !ofBand s h x.sid b then b else { b with left := l, failed := (h % 36, sidIdx x.sid) :: b.failed, code := 0x0317 }))
    |> flushHead h

/-- The extended ladder holds for every head: from step 10 to step 12 of Bring-up, and in a wake before full calibration (R223). -/
def extDue (s : State) : Bool := (s.bring.active && s.bring.coarse && !s.bring.fullCal) || s.pwr.wakeFullCal

/-- A sector enters the retry ladder, behind those that pass before it. -/
def toLadder (h : Nat) (x : SectorRd) (s : State) : State :=
  s |> sectorGone h x.sid |> updHead h (fun y => { y with ladder := y.ladder ++ [{ x with step := max 1 x.step }] }) |> ladderShow h

/-- Change a sector of a head's pool. -/
def updSector (h sid : Nat) (f : SectorRd → SectorRd) (s : State) : State :=
  updHead h (fun y => { y with pool := y.pool.map (fun x => if x.sid = sid then f x else x)
                               ladder := y.ladder.map (fun x => if x.sid = sid then f x else x) }) s

/-- A sector whose eight codewords have all been decoded or failed leaves the pool: delivered, or to the ladder. -/
def sectorSettle (h sid : Nat) (s : State) : State :=
  match (headOf s h).pool.find? (fun x => x.sid = sid) with
  | none => s
  | some x =>
    if x.good.length = 8 then sectorGood h x s
    else if x.good.length + x.failed.length = 8 then toLadder h x s
    else s

/-! ### The pool -/

/-- DEC_STATUS follows the pool. -/
def poolShow (s : State) : State :=
  s |> setF F.DEC_QUEUE s.pool.queue.length |> setF F.DEC_ACTIVE s.pool.active.length |> setF F.DEC_RETRY_USED s.pool.retry.length

/-- DEC_BUSY_LEVEL as it acts. -/
def busyLevel (s : State) : Nat := min 88 (getF s F.DEC_BUSY_LEVEL)

/-- An iteration limit as it acts: 0 as 1. -/
def iterLimit (s : State) (f : Fld) : Nat := max 1 (getF s f)

/-- A decoder takes work: on line, not at work. -/
def decFree (s : State) (d : Nat) : Bool :=
  domOn s 6 && !bitAt (rdN s (R.DEC_OFFLINE (d / 32))) (d % 32) && s.pool.active.all (fun j => j.dec ≠ d)

/-- Keep a failed codeword's LLRs in the retry store: summed with those of the earlier reads, while there is room (R210,
R211). `redo`: the decode at DEC_ITER_MAX is due. -/
def storePut (c : Cw) (redo : Bool) (s : State) : State :=
  match s.pool.retry.find? (fun x => x.head = c.head ∧ x.sid = c.sid ∧ x.k = c.k) with
  | some _ => poolShow { s with pool := { s.pool with retry := s.pool.retry.map (fun x =>
      if x.head = c.head ∧ x.sid = c.sid ∧ x.k = c.k then { x with llr := llrSum x.llr c.llr, redo := redo } else x) } }
  | none =>
    if 32 ≤ s.pool.retry.length then s
    else poolShow { s with pool := { s.pool with retry := s.pool.retry ++ [{ c with retry := true, redo := redo }] } }

/-- A codeword has failed for the pool: its sector goes on without it. -/
def cwFailed (c : Cw) (s : State) : State :=
  s |> updSector c.head c.sid (fun x => { x with failed := x.failed ++ [c.k] }) |> sectorSettle c.head c.sid

/-- A codeword is good: its bytes go to their place in the Cellar (R211), where the sector has one. -/
def cwKept (h sid k : Nat) (d : List Byte) (s : State) : State :=
  let y := headOf s h
  let r := s.pool.retry.filter (fun c => ¬(c.head = h ∧ c.sid = sid ∧ c.k = k))
  let s1 := match ((y.pool ++ y.ladder).find? (fun x => x.sid = sid)).bind (fun x => x.dest) with
    | some o => spaceStore 3 (o + 4096 * k) d s
    | none => s
  poolShow { s1 with pool := { s1.pool with retry := r } } |> count R.DEC_CW_LO 1
    |> updSector h sid (fun x => { x with good := x.good.filter (fun g => g ≠ k) ++ [k], failed := x.failed.filter (fun y => y ≠ k) })

end Sys2Proof.Machine
end

