-- ==== Sys2Proof/Machine/Head.lean ====
section
/-! DEFINITION. The rows of the head channels and the decoder pool (R181 to R226, R505). -/

namespace Sys2Proof.Machine

/-! ### The writer -/

/-- Step 2 of R218 for one head: mode, current, overshoot and write heater, each read back. -/
def writePrep (h : Nat) (s : State) : State :=
  s |> updHead h (fun x => { x with htrSettled := false }) |> paSet h 2 3
    |> paSet h 5 (getF s (F.HC_WR_CUR h) * 256 + getF s (F.HC_WR_OS_AMP h)) |> paSet h 6 (getF s (F.HC_WR_OS_DUR h))
    |> heater h (getF s (F.HC_HTR_WRITE h))

/-- A head back to reading at the end of a write. -/
def writeDone (h : Nat) (s : State) : State :=
  s |> updHead h (fun x => { x with htrSettled := false }) |> paSet h 2 2 |> heater h (getF s (F.HC_HTR_READ h))

/-! ### A pass over a sector (R190 to R206) -/

/-- Search settings of a head; ladder step 2 widens them (R222). -/
def searchWin (s : State) (h step : Nat) : Nat := getF s (F.HC_SYNC_WIN h) * (if step = 2 then 2 else 1)
def searchTol (s : State) (h step : Nat) : Nat := min 16 (getF s (F.HC_SYNC_TOL h)) + (if step = 2 then 4 else 0)

/-- A head can read: on, in service, admitted, not lost, and no preamplifier of its actuator refused (R188, R226, R236). -/
def headReads (s : State) (h : Nat) : Bool :=
  domOn s (2 + actOf h) && isSet s (F.HC_EN h) && isSet s (F.HC_ADMITTED h) && !isSet s (F.FS_SRV_LOST (actOf h) (h % 36)) && paClear s (actOf h)

/-- The loops at the start of a sector (R190, R191): HC_AGC_INIT, and the frequency of HC_TR_FOFS ppm. -/
def loopStart (s : State) (h : Nat) : RdLoop :=
  ⟨getF s (F.HC_AGC_INIT h) * 2048, 0, 0, sgn 8 (getF s (F.HC_TR_FOFS h)) * 2 ^ 32 / 1000000⟩

/-- HC_AGC_TARGET as it acts (R190). -/
def agcTarget (s : State) (h : Nat) : Int := clampI 8 31 (getF s (F.HC_AGC_TARGET h))

/-- The preamble of a sector (R190, R191): the loops after it, and whether the timing loop is locked. An asperity freezes them (R214). -/
def preamble (s : State) (h : Nat) (x : SectorHead) : RdLoop × Bool :=
  let l0 := loopStart s h
  let kp := getF s (F.HC_TR_KP_ACQ h)
  let ki := getF s (F.HC_TR_KI_ACQ h)
  if (headOf s h).ta then (l0, timingLock (x.phases.reverse.mapIdx (fun i p => p - l0.freq * ((x.phases.length - 1 - i : Nat) : Int))))
  else
    let l1 := x.cycles.foldl (fun l c => agcStep (getF s (F.HC_AGC_KA h)) (agcTarget s h) c.1 c.2 l) l0
    let r := timingRun kp ki l1 x.phases
    (r.1, timingLock r.2)

/-- The samples behind the head when F0 is replayed at the end of SM2: F0 and SM2 at the oversampling of the sector (R182, R205). -/
def replayBehind (osr : Nat) : Nat := 4144 * (100 + osr) / 100

/-- A sector framed on SM2 (R205): F0 is replayed from the sample buffer. -/
def smFallback (h : Nat) (s : State) : State :=
  s |> setF (F.HC_FLT_SM_FALLBACK h) 1 |> count (R.HC_RECOV_LO h) 1 |> headStat h 1 |> headStat h 4
    |> updHead h (fun y => { y with behind := replayBehind y.osr })

/-- The pass of a sector up to its SM2 window at a ladder step, 0 for none: its framing, with the loops where the preamble left them, the
oversampling that the governor has set (R181), and HC_TR_LOCK (R191, R192, R204). -/
def sectorHead (h step : Nat) (x : SectorHead) (s : State) : Nat × State :=
  let r := preamble s h x
  let f := frameOn (getF s (F.HC_SYNC_AGREE h)) (marksOf (searchWin s h step) (searchTol s h step) r.2 x)
  (f, s |> setB (F.HC_TR_LOCK h) r.2 |> setF (F.HC_AGC_GAIN h) (r.1.gain / 2048).toNat
    |> updHead h (fun y => { y with loops := r.1, osr := getF s F.CLK_GOV_OSR_NOW, behind := 0, asp := if y.ta then [(0, none)] else [] }))

/-- g1..g3 of a head's target in Q3.4 (R193). -/
def eqTarget (s : State) (h : Nat) : List Int :=
  match getF s (F.HC_EQ_FAMILY h) with
  | 1 => [16, 0, 0]
  | 2 => [32, 16, 0]
  | 3 => [48, 48, 16]
  | _ => [sgn 8 (getF s (F.HC_EQ_G1 h)), sgn 8 (getF s (F.HC_EQ_G2 h)), sgn 8 (getF s (F.HC_EQ_G3 h))]

/-- The registers of the twelve taps. -/
def tapRegs (h : Nat) : List Nat := [R.HC_EQ_TAPS_A h, R.HC_EQ_TAPS_B h, R.HC_EQ_TAPS_C h]

/-- The twelve taps of a head, in 1/512 of Q1.6. -/
def eqTaps (s : State) (h : Nat) : List Int :=
  (tapRegs h).flatMap (fun r => (List.range 4).map (fun i => sgn 8 (bitsAt (rdN s r) (8 * i) 8) * 512))

/-- The equalizer over the data bits of a sector: it adapts outside asperities (R194), at ladder step 4 with four times the step. -/
def equalize (s : State) (h step : Nat) (asp : List (Nat × Option Nat)) (l : List Int) : EqSt :=
  let sc := if step = 4 then 4 else 1
  let g := eqTarget s h
  (((List.range l.length).zip l).foldl (fun x p => eqStep g sc (isSet s (F.HC_ADAPT h) && !inAsp asp 0 (placeOf p.1)) x p.2) ⟨eqTaps s h, [], []⟩)

/-- RESUME_MARK is missed after a split: no candidate within 8 bits of the place that the wedge timing gives (R203, R206). -/
def resumeMissed (s : State) (h : Nat) (p : SectorPart) : Bool :=
  (bestMark 8 (min 4 (getF s (F.HC_SYNC_TOLR h))) 0 (candidates resumeMark p.mark.1 p.mark.2)).isNone

/-- Which data bits of the parts are erased for a missed RESUME_MARK: the 16 symbols after the split; the first part follows SM2 (R206). -/
def splitErased (s : State) (h : Nat) : Bool → List SectorPart → List Bool
  | _, [] => []
  | first, p :: r => (List.range p.bits.length).map (fun i => !first && resumeMissed s h p && decide (i < 256)) ++ splitErased s h false r

/-- The timing loop over the parts of F1 (R191, R192): tracking gains; after a wedge it goes on where it was and retrains on the resume
preamble. Ladder step 3 raises both tracking shifts by 1; an asperity freezes it (R214). -/
def trackParts (s : State) (h step gated : Nat) (asp : List (Nat × Option Nat)) : Bool → Nat → List SectorPart → RdLoop → RdLoop
  | _, _, [], l => l
  | first, d, p :: r, l =>
    let up := if step = 3 then 1 else 0
    let l1 := if first then l else (timingRun (getF s (F.HC_TR_KP_ACQ h)) (getF s (F.HC_TR_KI_ACQ h)) (overWedge gated l) p.resume).1
    let l2 := (((List.range p.bits.length).zip p.bits).foldl (fun l b =>
      if inAsp asp 0 (placeOf (d + b.1)) then { l with phase := l.phase + l.freq }
      else (timingStep (getF s (F.HC_TR_KP_TRK h) + up) (getF s (F.HC_TR_KI_TRK h) + up) l b.2.2).1) l1)
    let l3 := if step = 3 then l2 else p.cycles.foldl (fun l c =>
      if inAsp asp 0 c.1 then l else agcStep (getF s (F.HC_AGC_KT h)) (agcTarget s h) c.2.1 c.2.2 l) l2
    trackParts s h step gated asp false (d + p.bits.length) r l3

/-- Adapted values go back to the registers at the end of a sector (R193, R194), with the predictors (R195). -/
def adaptBack (h step : Nat) (x : EqSt) (s : State) : State :=
  if !isSet s (F.HC_ADAPT h) then s
  else
    let sc := if step = 4 then 4 else 1
    let byte (i : Nat) : Nat := unsgn 8 (clampI (-128) 127 ((x.taps.getD i 0 + 256) / 512))
    let word (k : Nat) : Nat := ofBits ((List.range 4).flatMap (fun i => toBits 8 (byte (4 * k + i))))
    let g := Config.adaptTarget (eqTarget s h) sc x.out
    let s1 := s |> wr (R.HC_EQ_TAPS_A h) (BitVec.ofNat 32 (word 0)) |> wr (R.HC_EQ_TAPS_B h) (BitVec.ofNat 32 (word 1))
      |> wr (R.HC_EQ_TAPS_C h) (BitVec.ofNat 32 (word 2))
      |> updHead h (fun y => { y with predict := Config.adaptPredict y.predict (getF s (F.HC_DET_NP_MU h)) sc x.out })
    if getF s (F.HC_EQ_FAMILY h) = 0 ∧ isSet s (F.HC_EQ_TGT_ADAPT h) = true then
      s1 |> setF (F.HC_EQ_G1 h) (unsgn 8 (g.getD 0 0)) |> setF (F.HC_EQ_G2 h) (unsgn 8 (g.getD 1 0)) |> setF (F.HC_EQ_G3 h) (unsgn 8 (g.getD 2 0))
    else s1

/-- The data of a sector from SM2 on, at a ladder step: the LLRs of its data bits, erased where RESUME_MARK was missed and in asperities
with their guard (R195, R206, R214), with the loops and the adaptation at the sector's end. -/
def sectorBody (h step : Nat) (f0 : List Int) (parts : List SectorPart) (s : State) : List Int × State :=
  let y := headOf s h
  let l := f0 ++ parts.flatMap (fun p => p.bits.map (fun b => b.1))
  let eq := equalize s h step y.asp l
  let er := (List.replicate f0.length false ++ splitErased s h true parts).toArray
  let gd := getF s (F.HC_TA_GUARD h) * 8
  let soft := (llrScale (getF s (F.HC_DET_LLR_SCALE h)) (Config.softDetect (eqTarget s h) (min 2 (getF s (F.HC_DET_NP_TAPS h))) y.predict eq.out.reverse)).toArray
  let llr := (List.range l.length).map (fun d => if er.getD d false || inAsp y.asp gd (placeOf d) then 0 else soft.getD d 0)
  let a := actOf h
  let gated := zHdr s a (getF s (F.HC_ZONE_NOW h)) 0x0E 2
  let lp := trackParts s h step gated y.asp true f0.length parts y.loops
  (llr, s |> updHead h (fun y => { y with loops := lp, behind := 0, asp := if y.ta then [(0, none)] else [] })
    |> setF (F.HC_AGC_GAIN h) (lp.gain / 2048).toNat |> adaptBack h step eq)

/-- SECTOR_FRAMED (R204): sector `k` of the band passes under head `h`. A band recorded with a wrong clock does not frame (R113). -/
def execSectorFramed (h : Fin 144) (k : Fin 1024) (g : SectorHead) (s : State) : Out :=
  let a := actOf h.val
  let i := h.val % 36
  match bandOf s a with
  | none => .next s
  | some b =>
    let n := sectorsOf s a (bdBand b)
    let sid := sidOf h.val (trackOf s a (bdBand b) i) k.val (bdTag b)
    let x := headOf s h.val
    if b.armed = false ∨ bandOp b = 2 ∨ headReads s h.val = false ∨ b.left.contains (i, k.val) = false ∨ x.cur.isSome = true
        ∨ (x.pool ++ x.ladder ++ x.complete).any (fun y => y.sid = sid) = true then .next s
    else
      let j := unitOf b n (bdFirst b) k.val i
      let r := sectorHead h.val 0 g s
      if bandOp b = 1 ∧ b.desc.q < 256 ∧ rdN s (R.FS_RING_FREE a) + bdUnits b ≤ j then .next (raise 6 0x0324 2 a 0 r.2)
      else
        let f := if s.tier.misrecorded.contains (a, bdBand b) then 0 else r.1
        let z : SectorRd := ⟨sid, if bandOp b = 1 then some (bdAddr b + j % max 1 (bdUnits b) * 32768) else none, f, [], [0, 1, 2, 3, 4, 5, 6, 7], 0, x.ord⟩
        let s2 := updHead h.val (fun y => { y with reread := y.reread.filter (fun z => z.sid ≠ sid), ord := y.ord + 1 }) r.2
        if f = 0 then .next (s2 |> toLadder h.val z |> sectorLeave h.val)
        else
          .next (s2 |> updHead h.val (fun y => { y with cur := some { z with failed := [] } }) |> setF (F.HC_STATE h.val) 2
            |> (if f = 2 then smFallback h.val else fun s => s))

/-! ### Thermal asperities (R214) -/

/-- TA_START: the filtered mean has passed the threshold for `run` samples; `place` is where the asperity starts in the sector's channel
bits. -/
def execTaStart (h : Fin 144) (place : Nat) (mean : Int) (run : Nat) (s : State) : Out :=
  if !domOn s (2 + actOf h.val) || !isSet s (F.HC_TA_EN h.val) || (headOf s h.val).ta || decide (mean.natAbs ≤ getF s (F.HC_TA_THRESH h.val))
      || decide (run < getF s (F.HC_TA_MIN h.val)) then .next s
  else .next (s |> updHead h.val (fun x => { x with ta := true, asp := x.asp ++ [(place, none)] }) |> setF (F.HC_FLT_TA h.val) 1
    |> satF (F.HC_TA_CNT h.val) 1 |> headStat h.val 3)

/-- TA_END: the mean has stayed within half the threshold for `run` samples. -/
def execTaEnd (h : Fin 144) (place : Nat) (mean : Int) (run : Nat) (s : State) : Out :=
  if !(headOf s h.val).ta || decide (getF s (F.HC_TA_THRESH h.val) < 2 * mean.natAbs) || decide (run < 64) then .next s
  else .next (updHead h.val (fun x => { x with ta := false, asp := x.asp.map (fun e => (e.1, e.2.or (some place))) }) s)

/-! ### The end of a sector -/

/-- A sector is abandoned and read again on a later revolution, which is no step of the ladder (R109, R209). -/
def sectorAgain (h : Nat) (x : SectorRd) (s : State) : State :=
  updHead h (fun y => { y with reread := y.reread ++ [x] }) s

/-- A sector has passed: what waited for the sector boundary takes effect (R106, and writes of zone-loaded fields). -/
def sectorDone (h : Nat) (s : State) : State :=
  ((headOf s h).late.foldl (fun s w => wr w.1 w.2 s) s) |> updHead h (fun y => { y with cur := none, late := [] }) |> setF (F.HC_STATE h) 1
    |> sectorLeave h

/-- SECTOR_END (R208, R209): the eight codewords' LLRs go to the pool queue. -/
def execSectorEnd (h : Fin 144) (f0 : List Int) (parts : List SectorPart) (s : State) : Out :=
  match (headOf s h.val).cur with
  | none => .next s
  | some x =>
    let r := sectorBody h.val 0 f0 parts s
    let s1 := sectorDone h.val r.2
    if 96 < s.pool.queue.length + 8 then
      .next (s1 |> sectorAgain h.val x |> setF (F.HC_FLT_POOL_FULL h.val) 1 |> headStat h.val 6 |> raise 4 0x0311 2 h.val 0)
    else
      let cws := (List.range 8).map (fun k => (⟨h.val, x.sid, k, false, deinterleave k r.1, false⟩ : Cw))
      .next (poolShow (updHead h.val (fun y => { y with pool := y.pool ++ [x] })
        { s1 with pool := { s1.pool with queue := s1.pool.queue ++ cws } }))

/-! ### The pool -/

/-- DECODER_TAKE (R208): the oldest codeword, at the limit in force now. -/
def execDecoderTake (d : Fin 80) (s : State) : Out :=
  match s.pool.queue with
  | [] => .next s
  | c :: r =>
    if !decFree s d.val then .next s
    else
      let busy := decide (busyLevel s < s.pool.queue.length)
      let j : DecJob := ⟨d.val, c, iterLimit s (if busy then F.DEC_ITER_BUSY else F.DEC_ITER_MAX), busy⟩
      .next (poolShow { s with pool := { s.pool with queue := r, active := s.pool.active ++ [j] } })

/-- CODEWORD_DECODE_DONE (R207, R210): the decoder has decoded its codeword within the limit that it took it with. -/
def execCodewordDecodeDone (d : Fin 80) (s : State) : Out :=
  match s.pool.active.find? (fun j => j.dec = d.val) with
  | none => .next s
  | some j =>
    let c := j.cw
    let s1 := poolShow { s with pool := { s.pool with active := s.pool.active.filter (fun x => x.dec ≠ d.val) } }
    match decode c.sid c.k j.limit c.llr with
    | some b => .next (s1 |> cwKept c.head c.sid c.k b |> sectorSettle c.head c.sid)
    | none =>
      let s2 := if c.retry then s1 else count R.DEC_FAIL_LO 1 s1
      if j.busy && !c.retry && decide (s2.pool.retry.length < 32) then .next (storePut c true s2)
      else if c.retry then .next (cwFailed c s2)
      else .next (s2 |> storePut c false |> cwFailed c)

/-- RETRY_STORE_REDECODE (R210): the queue holds no more than DEC_BUSY_LEVEL codewords. -/
def execRetryStoreRedecode (d : Fin 80) (s : State) : Out :=
  match s.pool.retry.find? (fun c => c.redo) with
  | none => .next s
  | some c =>
    if !decFree s d.val || decide (busyLevel s < s.pool.queue.length) then .next s
    else
      let r := s.pool.retry.map (fun x => if x.head = c.head ∧ x.sid = c.sid ∧ x.k = c.k then { x with redo := false } else x)
      .next (poolShow { s with pool := { s.pool with retry := r, active := s.pool.active ++ [⟨d.val, c, iterLimit s F.DEC_ITER_MAX, false⟩] } })

/-! ### The retry ladder (R222 to R224) -/

/-- The step after a ladder step: none after the last (R223). -/
def nextStep (s : State) (h t : Nat) : Option Nat :=
  if isSet s (F.HC_EXT_LADDER h) then (if t < 12 then some (t + 1) else none)
  else
    let m := getF s (F.HC_RETRY_MAX h)
    let m' := if m = 0 ∨ 7 < m then 7 else m
    if t < m' then some (t + 1) else if t < 8 then some 8 else none

/-- The decode of one failed codeword in a ladder step (R222): of a re-read the new LLRs alone, then their sum with the store's, at
DEC_ITER_MAX; at steps 8 and 12 the store's sum at DEC_ITER_RETRY. -/
def ladderCw (h sid : Nat) (llr : Option (List Int)) (k : Nat) (s : State) : State :=
  let lim := iterLimit s (if llr.isSome then F.DEC_ITER_MAX else F.DEC_ITER_RETRY)
  match llr.bind (fun l => decode sid k lim (deinterleave k l)) with
  | some b => cwKept h sid k b s
  | none =>
    let s1 := match llr with
      | some l => storePut ⟨h, sid, k, true, deinterleave k l, false⟩ false s
      | none => s
    match (s1.pool.retry.find? (fun c => c.head = h ∧ c.sid = sid ∧ c.k = k)).bind (fun c => decode sid k lim c.llr) with
    | some b => cwKept h sid k b s1
    | none => s1

/-- The decodes of a ladder step on a sector's failed codewords. A re-read that is not framed has none; one framed on SM2 counts unless
the sector has counted so before (R205). -/
def ladderRead (h : Nat) (x : SectorRd) (g : SectorHead) (f0 : List Int) (parts : List SectorPart) (s : State) : State :=
  if x.step = 8 ∨ x.step = 12 then x.failed.foldl (fun s k => ladderCw h x.sid none k s) s
  else
    let r := sectorHead h x.step g s
    if r.1 = 0 then r.2
    else
      let s1 := if r.1 = 2 ∧ x.framing ≠ 2 then r.2 |> smFallback h |> updSector h x.sid (fun z => { z with framing := 2 }) else r.2
      let d := sectorBody h x.step f0 parts s1
      x.failed.foldl (fun s k => ladderCw h x.sid (some d.1) k s) d.2

/-- LADDER_STEP (R222): the sector of the ladder that passes next, with the settings of its row. It then waits behind the others for the
next pass, is complete, or is lost. -/
def execLadderStep (h : Fin 144) (sid : BitVec 64) (g : SectorHead) (f0 : List Int) (parts : List SectorPart) (s : State) : Out :=
  match (headOf s h.val).ladder with
  | [] => .next s
  | x :: _ =>
    let rr := decide (x.step ≠ 8 ∧ x.step ≠ 12)
    if x.sid ≠ sid.toNat ∨ domOn s (2 + actOf h.val) = false ∨ (rr = true ∧ headReads s h.val = false) then .next s
    else
      let s1 := ladderRead h.val x g f0 parts s
      match (headOf s1 h.val).ladder with
      | [] => .next s1
      | y :: r =>
        if y.failed = [] then .next (s1 |> sectorGood h.val y |> ladderShow h.val)
        else match nextStep s h.val x.step with
        | some t => .next (s1 |> updHead h.val (fun z => { z with ladder := r ++ [{ y with step := t }] }) |> ladderShow h.val)
        | none => .next (s1 |> sectorLost h.val y true |> ladderShow h.val)

/-- LADDER_ABANDON (R224): the head has been withdrawn for more than 2 s, or its actuator's token moves. -/
def execLadderAbandon (h : Fin 144) (s : State) : Out :=
  if isSet s (F.HC_ADMITTED h.val) && owns s (actOf h.val) then .next s
  else .next (((headOf s h.val).ladder.foldl (fun s x => sectorLost h.val x false s) s) |> ladderShow h.val)

/-! ### Write-unsafe -/

/-- The conditions of R219 that stop a head, by scope. -/
def headUnsafe (s : State) (h : Nat) : Bool := isSet s (F.HC_WR_UNSAFE h) || !(headOf s h).htrSettled
def actUnsafe (s : State) (a : Nat) : Bool := isSet s (F.VCM_SHOCK a) || isSet s (F.VCM_UNSAFE a) || !isSet s (F.CLK_LOCKED (5 + a))
def paUnsafe (s : State) (p : Nat) : Bool := isSet s (F.HC_PA_FLT_IN p)

/-- Every action that the conditions of R219 call for on a head; a head-scope condition that meets one of a wider scope is logged beside
it (R220). -/
def unsafeAct (h : Nat) (s : State) : State :=
  let wide := actUnsafe s (actOf h) || paUnsafe s (headPa h) || isSet s F.SUP_SAFE_ACTIVE
  s |> (if headUnsafe s h && wide && writing s h then raiseCore 4 0x0314 2 h 1 false else fun s => s)
    |> (if headUnsafe s h then stopHead h else fun s => s)
    |> (if actUnsafe s (actOf h) then stopAct (actOf h) else fun s => s)
    |> (if paUnsafe s (headPa h) then stopPa (headPa h) else fun s => s)
    |> (if isSet s F.SUP_SAFE_ACTIVE then stopAll else fun s => s)

/-- WRITE_UNSAFE (R219, R220). -/
def execWriteUnsafe (h : Fin 144) (s : State) : Out :=
  if writing s h.val then .next (unsafeAct h.val s) else .next s

/-- HEATER_LEAD_EXPIRY (R216): the head's write heater counts as settled. -/
def execHeaterLeadExpiry (h : Fin 144) (s : State) : Out :=
  match bandOf s (actOf h.val) with
  | some b => if b.armed ∧ bandOp b = 2 ∧ bitAt b.mask (h.val % 36) then .next (updHead h.val (fun x => { x with htrSettled := true }) s)
      else .next s
  | none => .next s

/-! ### Calibration and service -/

/-- The heads of an 18-byte mask. -/
def headMask (b : List Byte) : List Nat := (List.range 144).filter (fun h => bitAt (leNat b) h)

/-- The registers that hold a head's parameters (R225). -/
def headRegs (h : Nat) : List Nat :=
  [R.HC_CTF h, R.HC_AGC h, R.HC_TR h, R.HC_EQ_TARGET h, R.HC_EQ_TAPS_A h, R.HC_EQ_TAPS_B h, R.HC_EQ_TAPS_C h, R.HC_HTR h, R.HC_WR h]

/-- A calibrated head's parameters are kept, and mirrored to the partner (R225); a channel calibration lets the extended ladder go, but
not from step 10 to step 12 of Bring-up nor in a wake before full calibration (R223). -/
def mirrorHead (h : Nat) (channel : Bool) (s : State) : State :=
  s |> updHead h (fun x => { x with mirror := (headRegs h).map (fun r => (r, rd s r)) })
    |> (if channel && decide ((headOf s h).calRes = some true) && !extDue s then setF (F.HC_EXT_LADDER h) 0 else fun s => s)
    |> nalSend 2 30 (h :: (headRegs h).map (rdN s))

/-- The HC_CALIBRATE commands that wait have no head left in calibration: they complete with the heads calibrated. -/
def calFinish (s : State) : State :=
  (mbxWaiting s (fun c => decide (c.opcode.toNat = 0x0300))).foldl (fun s m =>
    let hs := headMask (mbxAt s m).cmd.data
    if hs.any (fun h => (headOf s h).cal.isSome) then s
    else mbxSetResult m ⟨0, leBytes 18 (hs.foldl (fun n h => if (headOf s h).calRes = some true then n + 2 ^ h else n) 0), 0, 0, []⟩ s) s

/-- A head's calibration ends. -/
def calEnd (h : Nat) (ok channel : Bool) (s : State) : State :=
  s |> updHead h (fun x => { x with cal := none, calRes := some ok }) |> setF (F.HC_STATE h) 1 |> mirrorHead h channel |> calFinish

/-- One revolution at the nominal speed, in ns. -/
def revNs (s : State) : Nat := 60000000000 / max 1 ((s.desc.map (fun d => d.rpmNominal)).getD 1)

/-- HEATER_CAL_STEP (R217): `gain` is the AGC gain now, `margin` and `allowance` come from the mechanism tables. A change by more than 1 dB
within one revolution is contact. -/
def execHeaterCalStep (h : Fin 144) (gain margin allowance : BitVec 8) (s : State) : Out :=
  match (headOf s h.val).cal with
  | none => .next s
  | some c =>
    let recent := c.gains.filter (fun e => decide (s.now.toNat ≤ e.1 + revNs s))
    let far := recent.any (fun e => decide (8 < ((e.2 : Int) - gain.toNat).natAbs))
    if far then
      let r := c.power - margin.toNat
      .next (s |> setF (F.HC_HTR_READ h.val) r |> setF (F.HC_HTR_WRITE h.val) (r - allowance.toNat) |> heater h.val r |> calEnd h.val true c.channel)
    else if getF s (F.HC_HTR_MAX h.val) ≤ c.power then .next (s |> heater h.val c.prev |> calEnd h.val false c.channel)
    else .next (s |> updHead h.val (fun x => { x with cal := some { c with power := c.power + 1, gains := (s.now.toNat, gain.toNat) :: recent } })
      |> heater h.val (c.power + 1))

/-- HC_CALIBRATE (R226): `channel` says which heads a channel calibration succeeds on. -/
def execHcCalibrate (m : Fin 16) (channel : BitVec 144) (s : State) : Out :=
  .next (mbxRow m.val 0x0300 anyParam (fun c s =>
    let k := par c 0 8
    let hs := headMask c.data
    if k = 0 ∨ 3 < k then answer 0x0016 s
    else if hs.any (fun h => !fitted s h) then answer 0x0315 s
    else if hs.any (fun h => !owns s (actOf h)) then answer 0x0A11 s
    else
      let ok (h : Nat) : Bool := k = 2 || channel.getLsbD h
      let s1 := hs.foldl (fun s h => updHead h (fun x => { x with
        calRes := some (ok h)
        cal := if k ≠ 1 ∧ ok h = true then some ⟨getF s (F.HC_HTR_READ h), [(s.now.toNat, getF s (F.HC_AGC_GAIN h))], getF s (F.HC_HTR_READ h), decide (k = 3)⟩ else none }) s
        |> (if k ≠ 1 ∧ ok h = true then setF (F.HC_STATE h) 4 else mirrorHead h (decide (k ≠ 2)))) s
      if hs.any (fun h => (headOf s1 h).cal.isSome) then (s1, none)
      else answerData (leBytes 18 (hs.foldl (fun n h => if ok h then n + 2 ^ h else n) 0)) s1) s)

/-- HC_SERVICE (R226): it sets HC_EN; service lifts an escalation of the head (R482). -/
def execHcService (m : Fin 16) (s : State) : Out :=
  .next (mbxRow m.val 0x0301 anyParam (fun c s =>
    let h := par c 0 8
    if 144 ≤ h then answer 0x0016 s
    else if !fitted s h then answer 0x0315 s
    else if par c 8 1 = 1 then answer 0 (s |> setF (F.HC_EN h) 1 |> liftEscalation 0x0312 h |> liftEscalation 0x0320 h)
    else answer 0 (setF (F.HC_EN h) 0 s)) s)

/-- HC_STATS (R226). -/
def execHcStats (m : Fin 16) (s : State) : Out :=
  .next (mbxRow m.val 0x0302 anyParam (fun c s =>
    let h := par c 0 8
    if 144 ≤ h then answer 0x0016 s
    else answerData ((headOf s h).stats.flatMap (leBytes 8)) s) s)

/-- The head-channel commit of an actuator whose domain is on. -/
def hcCommit (a : Nat) (s : State) : State := if domOn s (2 + a) then setF ⟨R.HC_GCTL, 4 + a, 1⟩ 1 s else s

/-- HC_COMMIT (R505): no effect on an actuator whose domain is off. -/
def execHcCommit (p : Path) (w : BitVec 4) (s : State) : Out :=
  .next (busAct p R.HC_GCTL (w.zeroExtend 32) (acc (fun s => (List.range 4).foldl (fun s a =>
    if w.getLsbD a then hcCommit a s else s) s)) s)

end Sys2Proof.Machine
end

