-- ==== Sys2Proof/Machine/Cle.lean ====
section
/-! DEFINITION. The arithmetic of the control law engine (R272 to R277): fixed-point sections, banks and their swaps, the
tables with interpolation, and the micro-actuator offsets of R291. A value without rounding stands in units of 2^-60. -/

namespace Sys2Proof.Machine

/-! ### Fixed-point arithmetic (R272, R273) -/

/-- `n / d` to nearest, ties away from zero. -/
def roundNear (n : Int) (d : Nat) : Int :=
  if 0 ≤ n then (2 * n + d) / (2 * d : Nat) else -((2 * (-n) + d) / (2 * d : Nat))

/-- Saturate to Q17.30, 48 bits. -/
def sat48 (x : Int) : Int := clampI (-(2 ^ 47)) (2 ^ 47 - 1) x

/-- Saturate to Q1.15. -/
def sat16 (x : Int) : Int := clampI (-32768) 32767 x

/-- Word `w` of bank `k` of loop `l`, signed Q2.30. -/
def coef (s : State) (l k w : Nat) : Int := sgn 32 (rdN s (R.CLE_COEF l k w))

/-- One second-order section in direct form I: its new states and its output. -/
def section2 (b0 b1 b2 a1 a2 : Int) (st : List Int) (x : Int) : List Int × Int :=
  let x1 := st.getD 0 0
  let x2 := st.getD 1 0
  let y1 := st.getD 2 0
  let y2 := st.getD 3 0
  let y := sat48 (roundNear (b0 * x + b1 * x1 + b2 * x2 - a1 * y1 - a2 * y2) (2 ^ 30))
  ([x, x1, y, y1], y)

/-- A section integrates: it has a pole at 1. -/
def integrates (s : State) (l k i : Nat) : Bool := decide (2 ^ 30 + coef s l k (4 + 5 * i) + coef s l k (5 + 5 * i) = 0)

/-- b0 of a section. With `half` the gain of an integrating section is halved: half the sum of its numerator comes off b0, which leaves the
section's proportional part as it is (R48; DEDUCED, log entry 105). -/
def sectionB0 (s : State) (l k : Nat) (half : Bool) (i : Nat) : Int :=
  let b := coef s l k (1 + 5 * i)
  if half && integrates s l k i then b - (b + coef s l k (2 + 5 * i) + coef s l k (3 + 5 * i)) / 2 else b

/-- The eight sections in order from number `i` on. -/
def sections (s : State) (l k : Nat) (half : Bool) : Nat → List (List Int) → Int → List (List Int) × Int
  | _, [], x => ([], x)
  | i, st :: r, x =>
    let c (j : Nat) : Int := coef s l k (1 + 5 * i + j)
    let y := section2 (sectionB0 s l k half i) (c 1) (c 2) (c 3) (c 4) st x
    let z := sections s l k half (i + 1) r y.2
    (y.1 :: z.1, z.2)

/-- Section states from which the loop goes on at an output (R48): the last integrating section holds the value that K_OUT turns into that
output, the sections after it stand at it, the others are zero (DEDUCED, log entry 105). -/
def seedStates (s : State) (l k : Nat) (out : Int) : List (List Int) :=
  let v := sat48 (out * 2 ^ 45 / coef s l k 41)
  let n := ((List.range 8).filter (fun i => integrates s l k i)).getLast?
  (List.range 8).map (fun i => match n with
    | some j => if i < j then [0, 0, 0, 0] else if i = j then [0, 0, v, v] else [v, v, v, v]
    | none => [0, 0, 0, 0])

/-- Zero the section states. -/
def LoopSt.zero (x : LoopSt) : LoopSt := { x with sect := x.sect.map (fun _ => [0, 0, 0, 0]), rst := false }

/-- The sum after step 5 of R272, in units of 2^-60, with the new section states. -/
def loopSum (s : State) (l k : Nat) (half : Bool) (x add : Int) (st : LoopSt) : List (List Int) × Int :=
  let y := sections s l k half 0 st.sect (sat48 (roundNear (x * coef s l k 0) (2 ^ 30)))
  (y.1, y.2 * coef s l k 41 + add)

/-- LIMIT of a bank is one that R274 allows. -/
def limitOk (s : State) (l k : Nat) : Bool := decide (0 < coef s l k 43 ∧ coef s l k 43 ≤ 2 ^ 30)

/-- The output of step 6 for a sum: clamped to LIMIT and rounded to Q1.15; what a LIMIT outside R274 gives is not stated. -/
def loopOut (s : State) (l k : Nat) (z : Int) : Int × State :=
  if limitOk s l k then
    let lim := coef s l k 43 * 2 ^ 30
    (sat16 (roundNear (clampI (-lim) lim z) (2 ^ 45)), s)
  else let f := takeFree s; (sgn 16 f.1.toNat, f.2)

/-- The sum is at or beyond LIMIT. -/
def atLimit (s : State) (l k : Nat) (z : Int) : Bool := decide (coef s l k 43 * 2 ^ 30 ≤ (z.natAbs : Int))

/-- The bank in use. -/
def bankOf (s : State) (l : Nat) : Nat := getF s (F.CLE_BANK_ACTIVE l)

/-- A sample of loop `l` on bank `k`: input `x` in Q17.30, additive terms in 2^-60. It answers the loop with its new output,
and whether that output is at LIMIT. With `half`, the integrator gain is halved (R48). -/
def loopRun (l k : Nat) (x add : Int) (st : LoopSt) (s : State) (half : Bool := false) : (LoopSt × Bool) × State :=
  let st := if st.rst then st.zero else st
  let z := loopSum s l k half x add st
  let o := loopOut s l k z.2
  ((⟨z.1, o.1, st.out, false⟩, atLimit s l k z.2), o.2)

/-- A requested swap takes effect (R275): the other bank, and pending no more. -/
def bankSwap (l : Nat) (s : State) : State := s |> setF (F.CLE_BANK_ACTIVE l) (1 - bankOf s l) |> setF (F.CLE_SWAP_PENDING l) 0

/-- A MOT_TABLE_LOAD that waits for the swap of loop `l` completes (R298). -/
def swapDone (l : Nat) (s : State) : State :=
  mbxFinish (fun c => decide (c.opcode.toNat = 0x0314 ∧ par c 4 4 = l)) (resStatus 0) s

/-- The start of a sample of loop `l`, for the loops with one sample at a time (0 to 3, and 8): the state with the swap
taken, and the loop's states as the sample finds them. -/
def sampleBegin (l : Nat) (st : LoopSt) (s : State) : LoopSt × State :=
  if isSet s (F.CLE_SWAP_PENDING l) then
    (if isSet s (F.CLE_SWAP_RST l) then st.zero else st, s |> bankSwap l |> swapDone l)
  else (st, s)

/-! ### Tables (R277) -/

/-- A table entry, Q1.15, from its register. -/
def entry (s : State) (r : Nat) : Int := sgn 16 (rdN s r)

/-- The linear interpolation between two entries at `f / d`, in 2^-60, toward minus infinity (log entry 51). -/
def interp (e0 e1 : Int) (f d : Nat) : Int := (e0 * ((d - f : Nat) : Int) + e1 * f) * 2 ^ 45 / (max 1 d : Nat)

/-- VCM_BIAS of actuator `a` at its present band; between the last entry and the end of the stroke no value is stated. -/
def biasTerm (a : Nat) (s : State) : Int × State :=
  let n := max 1 (zBands s a)
  let p := getF s (F.VCM_BAND a) * 256
  let i := p / n
  let e (j : Nat) : Int := entry s (R.VCM_BIAS a j)
  if p % n = 0 ∧ i < 256 then (e i * 2 ^ 45, s)
  else if i < 255 then (interp (e i) (e (i + 1)) (p % n) n, s)
  else let f := takeFree s; (sgn 16 f.1.toNat * 2 ^ 45, f.2)

/-- VCM_FRIC at an angular velocity in 1/65536 rad/s, with its sign, or the seek direction's below 0.25 rad/s. -/
def fricTerm (s : State) (a : Nat) (omega dir : Int) : Int :=
  let p := omega.natAbs * 4
  let i := p / 65536
  let v := if 31 ≤ i then entry s (R.VCM_FRIC a 31) * 2 ^ 45
    else interp (entry s (R.VCM_FRIC a i)) (entry s (R.VCM_FRIC a (i + 1))) (p % 65536) 65536
  (if i = 0 then dir.sign else omega.sign) * v

/-- SPN_COG at an angle; the table closes on itself. -/
def cogTerm (s : State) (angle : Nat) : Int :=
  let i := angle / 1024 % 1024
  interp (entry s (R.SPN_COG i)) (entry s (R.SPN_COG ((i + 1) % 1024))) (angle % 1024) 1024

/-- An actuator's record. -/
def vcmOf (s : State) (a : Nat) : VcmSt := s.mot.vcm.getD a VcmSt.reset

/-- Change an actuator's record. -/
def updVcm (a : Nat) (f : VcmSt → VcmSt) (s : State) : State := { s with mot := { s.mot with vcm := modAt s.mot.vcm a f } }

/-! ### Seek trajectories (R293) -/

/-- How long the trajectory over `d` (1/1024 band) lasts, in ns: 2 sqrt(d / ACC), or d / VEL + VEL / ACC. Without an acceleration or a speed it never
ends. -/
def seekTime (d acc vel : Nat) : Option Nat :=
  if d = 0 then some 0
  else if acc = 0 ∨ vel = 0 then none
  else if d * acc ≤ vel * vel * 1024 then some (isqrt (4 * d * 10 ^ 12 / (1024 * acc)))
  else some (d * 10 ^ 6 / (1024 * vel) + vel * 10 ^ 6 / acc)

/-- What a trajectory covers in its first `t` ns, up to its middle, in 1/1024 band. -/
def seekRise (t acc vel : Nat) : Nat :=
  if t * acc ≤ vel * 10 ^ 6 then 1024 * acc * t * t / (2 * 10 ^ 12)
  else 1024 * vel * t / 10 ^ 6 - 1024 * vel * vel / (2 * acc)

/-- What is left of a trajectory over `d` after `t` ns, in 1/1024 band; 0 at its end. -/
def seekLeft (d t acc vel : Nat) : Nat :=
  match seekTime d acc vel with
  | none => d
  | some n => if n ≤ t then 0 else if 2 * t ≤ n then d - seekRise t acc vel else min d (seekRise (n - t) acc vel)

/-- Where the VCM target of a seek still is, from the band sought, in 1/1024 band: 0 once the trajectory has ended. -/
def seekLag (s : State) (a : Nat) : Int :=
  match (vcmOf s a).seek with
  | none => 0
  | some x =>
    let d := x.1 - (getF s (F.VCM_TARGET a) * 1024 : Nat)
    d.sign * (seekLeft d.natAbs (s.now.toNat - x.2) (getF s (F.VCM_SEEK_ACC a)) (getF s (F.VCM_SEEK_VEL a)) : Nat)

/-- A seek's trajectory still runs. -/
def seekRuns (s : State) (a : Nat) : Bool := decide (getF s (F.VCM_STATE a) = 2 ∧ seekLag s a ≠ 0)

/-! ### Micro-actuators (R291, R292) -/

/-- The fitted surfaces of an actuator. -/
def surfaces (s : State) (a : Nat) : List Nat := (List.range 36).filter (fun i => fitted s (36 * a + i))

/-- Twice O_s: TRACK_OFS of a surface from the centre of the fitted ones, in half tracks. -/
def ofs2 (s : State) (a i : Nat) : Int :=
  let os := (surfaces s a).map (zOfs s a)
  let o0 := zOfs s a i
  2 * o0 - (os.foldl max (os.headD 0) + os.foldl min (os.headD 0))

/-- STROKE as it acts. -/
def stroke (s : State) (a : Nat) : Nat := max 1 (zStroke s a)

/-- The command m_s for a loop output: with the feedforward, clamped, Q1.15 of half stroke. -/
def maCommand (s : State) (a i : Nat) (u : Int) : Int :=
  sat16 (roundNear (u * stroke s a + ofs2 s a i * 32768) (stroke s a))

/-- D_s - O_s of a head, in 2^-30 tracks: the displacement that its command produces, about its offset. -/
def maDisp (s : State) (a i : Nat) : Int :=
  sgn 16 (getF s (F.MA_CMD (36 * a + i))) * stroke s a * getF s (F.MA_GAIN (36 * a + i)) - ofs2 s a i * 2 ^ 29

/-- The loop output of a lost head, `t` ns after the loss: it ramps to 0 over 1 ms. -/
def lostRamp (u : Int) (t : Nat) : Int := if 1000000 ≤ t then 0 else roundNear (u * ((1000000 - t : Nat) : Int)) 1000000

/-- A head tracks: fitted, and taking part in band centring. -/
def tracking (s : State) (a i : Nat) : Bool := fitted s (36 * a + i) && isSet s (F.MA_EN (36 * a + i))

/-- The flags of R235 that mark a wedge missed. -/
def missFlags (f : Nat) : Bool := bitAt f 0 || bitAt f 3 || bitAt f 4 || bitAt f 5

/-- A head's last sample is of wedge `w` and valid. -/
def sampleAt (s : State) (a i w : Nat) : Bool :=
  decide (getF s (F.FS_SRV_WEDGE a i) = w) && !missFlags (getF s (F.FS_SRV_FLAGS a i)) && !isSet s (F.FS_SRV_LOST a i)
    && decide (0 < (headOf s (36 * a + i)).validRun)

end Sys2Proof.Machine
end

