-- ==== Sys2Proof/Machine/Steps.lean ====
section
/-! DEFINITION. The steps that the two devices of a pair tell each other (R88, R91), and the return of tokens to a partner
that has rejoined (R44, R50). -/

namespace Sys2Proof.Machine

/-- Change the record of Bring-up. -/
def updBring (f : BringSt → BringSt) (s : State) : State := { s with bring := f s.bring }

/-- The tokens that are not reserved, ascending (R27). -/
def usedTokens : List Nat := (List.range 40).filter tokUsed

/-- Step 5 of R91 has ended: fence loop tested, CHECKs compared, both attestations known. -/
def step5Over (s : State) : Bool :=
  (s.bring.fenceTested || s.bring.fenceFailed) && s.bring.checked && s.bring.attestOwn.isSome && s.bring.attestPartner.isSome

/-- The step of R91 that this device has reached, for its partner; step 13 not with a failed fence loop (R38). -/
def bringStep (s : State) : Nat :=
  let b := s.bring
  if !ctlMode s then 0
  else if !b.active then 13
  else if b.dramFilled && b.maps && (b.fullCal || !b.spindle) && !b.fenceFailed then 13
  else if b.replayed then 7 else if step5Over s then 5 else if b.nalTrained then 4 else 3

/-- Tell the partner the step and the mode. -/
def tellStep (s : State) : State := nalSend 1 11 [bringStep s, mode s] s

/-- This device runs on without its partner (R39, R90): Solo, or Fallow and Drain entered from it. -/
def survivor (s : State) : Bool := decide (mode s = 4) || (decide (mode s = 5 ∨ mode s = 6) && decide (getF s F.PWR_MODE_PRIOR = 4))

/-- Resources shared with the partner may be driven: not in Bring-up before its step 5 has ended (R41). -/
def sharedOk (s : State) : Bool := decide (mode s ≠ 2) || step5Over s

/-- The group of tokens that a token belongs to: actuators, volume groups, flash channels. -/
def tokKind (t : Nat) : Nat := if t < 4 then 0 else if t < 8 then 1 else 2

/-- Tokens to be returned, in the reverse order of R50: actuators, channels, groups of the partner's by default. -/
def giveBack (s : State) : List Nat :=
  let l := usedTokens.filter (fun t => owns s t && decide (tokDefault t ≠ devNo s))
  l.filter (fun t => tokKind t = 0) ++ l.filter (fun t => tokKind t = 2) ++ l.filter (fun t => tokKind t = 1)

/-- Return of the tokens to a partner that has rejoined (R44, R50 step 8). -/
def returnStart (s : State) : State :=
  if decide (mode s = 4) && !s.bring.active && isSet s F.NAL_UP && decide (s.pair.take = .idle) && !s.pair.fenceOut && s.pair.handover.isNone
      && s.pair.give.isEmpty && !s.bring.fenceFailed && decide (s.bring.attestOwn = some true ∧ s.bring.attestPartner = some true)
      && decide (5 ≤ s.bring.partnerStep) then
    updPair (fun p => { p with give := giveBack s }) s
  else s

end Sys2Proof.Machine
end

