-- ==== Sys2Proof/Machine/SpnOps.lean ====
section
/-! DEFINITION. Operations of the spindle, of the actuators' loading and retract, and of the air movers that their rows
share (R279 to R298). -/

namespace Sys2Proof.Machine

/-- Change the spindle's record. -/
def updSpn (f : SpnSt → SpnSt) (s : State) : State := { s with mot := { s.mot with spn := f s.mot.spn } }

/-- An air mover's record. -/
def fanOf (s : State) (f : Nat) : FanSt := s.mot.fan.getD f FanSt.reset

/-- Change an air mover's record. -/
def updFan (f : Nat) (g : FanSt → FanSt) (s : State) : State := { s with mot := { s.mot with fan := modAt s.mot.fan f g } }

/-- The motion engine's domain is on. -/
def motOn (s : State) : Bool := engOn s 7

/-! ### The spindle -/

/-- This device drives a winding set (R22, R518): device 1 has none on a mechanism with one set. -/
def hasSet (s : State) : Bool := s.desc.any (fun d => decide (d.windingSets = 2 ∨ devNo s = 0))

/-- This device has an encoder sensor (R283). -/
def hasEncoder (s : State) : Bool := s.desc.any (fun d => bitAt d.encoderSensors (devNo s))

/-- The encoder gives this device's position: present, and not lost (R283). -/
def encThere (s : State) : Bool := hasEncoder s && !s.mot.spn.encLost

/-- The encoder input of this device has its supply while the motion engine runs and the mechanism has the sensor (R59). -/
def encShow (s : State) : State := { s with pins := { s.pins with encPwr := motOn s && hasEncoder s } }

/-- The current limit of this device's set in mA, folded back for temperature (R279, R517). -/
def spnLimit (s : State) : Nat := min 3000 (getF s F.SPN_IMAX_MA) * s.mot.limitPm / 1000

/-- Both sets drive: Full with two winding sets. -/
def twoSets (s : State) : Bool := decide (mode s = 3) && s.desc.any (fun d => d.windingSets = 2)

/-- SPN_STATE, and whether it is one in which the bridges switch under current control. -/
def spnState (s : State) : Nat := getF s F.SPN_STATE
def spnDriving (s : State) : Bool := decide (2 ≤ spnState s ∧ spnState s ≤ 6) && !s.mot.spn.shorted && hasSet s

/-- The observer is valid at a speed (R283). -/
def obsValid (s : State) : Bool := decide (10 * getF s F.SPN_OBS_MIN ≤ getF s F.SPN_RPM)

/-- The spindle coasts, and its drive starts afresh when it drives again; no speed loop runs (R55). -/
def spnCoast (s : State) : State :=
  s |> coastSpindle |> setF F.NAL_TORQUE_LOCAL 0 |> setF F.SPN_SRC 4 |> setF F.SPN_VLIMIT 0 |> setF F.SPN_SS_CLAMP 0 |> setF F.SPN_MASTER 0
    |> updSpn (fun x => { x with integD := 0, integQ := 0, fresh := true, predRun := 0, scale := 0, shorted := false, released := false })

/-- Step 1 of R284 on the token-0 holder: the bridges coast while speed and direction are measured. -/
def spnStart (s : State) : State :=
  s |> spnCoast |> setF F.SPN_RUN 1 |> setF F.SPN_STATE 1 |> updSpn (fun x => { x with stopping := false })

/-- A stop (R287): regenerative braking; a spindle that does not turn under control coasts to rest. -/
def spnStop (s : State) : State :=
  let s1 := s |> setF F.SPN_RUN 0 |> updSpn (fun x => { x with stopping := true })
  if spnState s = 4 ∨ spnState s = 5 then s1 |> setF F.SPN_STATE 6 |> setF F.SPN_AT_SPEED 0
  else if spnState s = 0 ∨ spnState s = 6 ∨ spnState s = 7 then setF F.SPN_AT_SPEED 0 s1
  else s1 |> spnCoast |> setF F.SPN_STATE 7

/-- The spindle can be driven: the motion engine runs, this device has a winding set, and the MOT island is not held safe (R22, R121). -/
def spnOk (s : State) : Bool := motOn s && hasSet s && !heldSafe s 2

/-- Every waiting MOT_SPINDLE completes. -/
def spnFinish (st : Nat) (s : State) : State := mbxFinish (fun c => decide (c.opcode.toNat = 0x0310)) (resStatus st) s

/-- Step 6: the flying catch. Without an encoder the angle comes from the observer, or from an open-loop ramp below its
least speed. The speed-loop integrator starts from zero torque. -/
def spnCatch (openLoop : Bool) (s : State) : State :=
  let s1 := s |> setF F.SPN_STATE 4 |> setB F.SPN_MASTER (owns s 0)
    |> updSpn (fun x => { x with loop := x.loop.zero, fresh := true, ref := getF s F.SPN_RPM * 8000 })
  setF F.SPN_SRC (if encThere s then 0 else if openLoop ∨ obsValid s = false then 3 else 2)
    { s1 with pair := { s1.pair with torqueCmd := 0 } }

/-- Step 5: alignment. -/
def spnAlign (s : State) : State := s |> setF F.SPN_STATE 3 |> setF F.SPN_SRC 3

/-! ### Actuators -/

/-- Shows whether a retract of the forced-safe reaction still runs (R488). -/
def busyShow (s : State) : State := if isSet s F.SUP_SAFE_BUSY then setB F.SUP_SAFE_BUSY (retracting s) s else s

/-- Every waiting MOT_HEADS of an actuator completes. -/
def headsFinish (a : Nat) (load : Bool) (st : Nat) (s : State) : State :=
  mbxFinish (fun c => decide (c.opcode.toNat = 0x0311 ∧ par c 0 2 = a ∧ par c 8 1 = b2n load)) (resStatus st) s

/-- The coil that this device drives on an actuator: 0 primary, 1 backup (R23, R58). -/
def ownCoil (s : State) (a : Nat) : Nat := b2n (decide (a / 2 ≠ devNo s))

/-- Device 1 alone on a mechanism with one winding set cannot turn the spindle: no disk tier (R22). -/
def noDisk (s : State) : Bool := survivor s && decide (devNo s = 1) && s.desc.any (fun d => d.windingSets = 1)

/-- Begin to load an actuator's heads (R293): at once while its head channels' domain is on, else that
domain powers up first (R83). -/
def loadHeads (a : Nat) (s : State) : State :=
  let s1 := s |> setF (F.VCM_LOAD a) 1 |> setF (F.VCM_COIL a) (ownCoil s a)
  let v := getF s1 (F.VCM_STATE a)
  if domOn s1 (2 + a) ∧ (v = 0 ∨ v = 6) then
    s1 |> setF (F.VCM_STATE a) 1 |> updVcm a (fun x => { VcmSt.reset with shockUntil := x.shockUntil })
  else if !domOn s1 (2 + a) then domUp (2 + a) s1
  else s1

/-- Begin to unload an actuator's heads (R293). -/
def unloadHeads (a : Nat) (s : State) : State :=
  let s1 := setF (F.VCM_LOAD a) 0 s
  let v := getF s1 (F.VCM_STATE a)
  if 1 ≤ v ∧ v ≤ 3 then setF (F.VCM_STATE a) 4 s1 else s1

/-- Emergency retract of every actuator whose token this device holds (R295). -/
def retractAll (s : State) : State := forN 4 (fun a s => if owns s a then retract a s else s) s

/-- The band that an actuator's heads are on, shown and reported to the partner (R290). -/
def bandShow (a b : Nat) (s : State) : State := s |> setF (F.VCM_BAND a) b |> nalSend 1 14 [a, b]

/-- A fitted actuator. -/
def fittedAct (s : State) (a : Nat) : Bool := s.desc.any (fun d => decide (a < d.actuators))

/-! ### Starting the disk: Bring-up, wake, release of a reference (R88, R91, R96, R123) -/

/-- The token-0 holder starts or catches the spindle, once a start is permitted. -/
def spnBring (s : State) : State :=
  if owns s 0 ∧ spnOk s ∧ s.pwr.startPermitted ∧ ¬ (1 ≤ spnState s ∧ spnState s ≤ 5) then
    s |> updSpn (fun x => { x with starts := 0, tries := 0 }) |> spnStart
  else s

/-- The heads of every fitted actuator of this device load at speed, unless the actuator was left parked (R482). -/
def loadAll (s : State) : State :=
  if isSet s F.SPN_AT_SPEED ∧ noDisk s = false then
    forN 4 (fun a s => if owns s a ∧ fittedAct s a ∧ ¬ escalated s 0x0337 a then loadHeads a s else s) s
  else s

/-- The heads that were to load are loaded. -/
def allLoaded (s : State) : Bool := (List.range 4).all (fun a => !(owns s a && fittedAct s a && isSet s (F.VCM_LOAD a)) || headsLoaded s a)

/-- The spindle is to run: Bring-up past its step 8, Full, Solo, Drain, or a wake (R82, R96). -/
def spindleDue (s : State) : Bool :=
  if s.bring.active then s.bring.spindle
  else decide ((3 ≤ mode s ∧ mode s ≤ 6 ∧ mode s ≠ 5 ∧ s.pwr.target ≠ some 5 ∧ s.pwr.target ≠ some 1) ∨ (mode s = 5 ∧ s.pwr.target.isSome))

/-- A wake that waits begins once a start is permitted: back to the prior mode, by way of the spindle and the heads. -/
def wakeGo (s : State) : State :=
  if mode s = 5 ∧ s.pwr.wakePending ∧ s.pwr.startPermitted ∧ s.pwr.target = none then
    { s with pwr := { s.pwr with wakePending := false, vmotFallow := false, target := some (getF s F.PWR_MODE_PRIOR) } }
      |> setF F.PWR_MODE_BUSY 1 |> spnBring |> loadAll
  else s

/-- A wake is requested: in a pair the partner wakes too (R89). `tell`: this device is the first to know. -/
def wakeRequest (tell : Bool) (s : State) : State :=
  if s.pwr.wakePending ∨ (mode s = 5 ∧ s.pwr.target.isSome) ∨ ¬ (mode s = 5 ∨ s.pwr.target = some 5) then s
  else { s with pwr := { s.pwr with wakePending := true } }
    |> (if tell ∧ getF s F.PWR_MODE_PRIOR = 3 then nalSend 1 10 [4] else fun s => s) |> wakeGo

/-! ### Air movers -/

/-- A fitted air mover of this device (R18). -/
def fittedFan (s : State) (f : Nat) : Bool := s.desc.any (fun d => bitAt d.airMoverMask (4 * devNo s + f))

/-- Start an air mover that turns backward at `back` rpm (R297). -/
def fanStart (f back : Nat) (s : State) : State :=
  if !fittedFan s f then s else
  let s1 := s |> setF (F.FAN_RUN f) 1 |> setF (F.FAN_RPM f) back |> setB (F.FAN_DIR f) (decide (0 < back))
  if 300 < back then s1 |> setF (F.FAN_START_REFUSED f) 1 |> setF (F.FAN_STATE f) 4
  else if 0 < back then setF (F.FAN_STATE f) 1 s1
  else setF (F.FAN_STATE f) 2 s1

/-- Stop an air mover. -/
def fanStop (f : Nat) (s : State) : State :=
  s |> setF (F.FAN_RUN f) 0 |> setF (F.FAN_DUTY f) 0 |> coastFan f |> updFan f (fun x => { x with edges := [], tries := 0 })

end Sys2Proof.Machine
end

