-- ==== Sys2Proof/Machine/AirMovers.lean ====
section
/-! DEFINITION. The rows of the air movers (R296 to R298). -/

namespace Sys2Proof.Machine

/-- The next Hall code in the forward direction (R296). -/
def hallNext (h : Nat) : Nat :=
  if h = 5 then 4 else if h = 4 then 6 else if h = 6 then 2 else if h = 2 then 3 else if h = 3 then 1 else 5

/-- The speed in rpm from edge times in ns, newest first: 60 / (6 x pole pairs x mean interval). -/
def fanRpm (pairs : Nat) (l : List Nat) : Nat :=
  match l with
  | [] => 0
  | t :: r =>
    let d := t - (r.getLastD t)
    if d = 0 then 0 else min 65535 (10000000000 * r.length / (max 1 pairs * d))

/-- FAN_HALL_EDGE (R296): the last six intervals give the speed; two invalid codes in a row stop the air mover. -/
def execFanHallEdge (f : Fin 4) (hall : BitVec 3) (s : State) : Out :=
  if !motOn s || !fittedFan s f.val then .next s
  else
    let h := hall.toNat
    let old := getF s (F.FAN_HALL f.val)
    let s1 := setF (F.FAN_HALL f.val) h s
    if h = 0 ∨ h = 7 then
      let n := (fanOf s f.val).bad + 1
      let s2 := updFan f.val (fun x => { x with bad := n }) s1
      .next (if 2 ≤ n then s2 |> setF (F.FAN_HALL_INVALID f.val) 1 |> fanStop f.val else s2)
    else
      let es := (s.now.toNat :: (fanOf s f.val).edges).take 7
      let st := getF s (F.FAN_STATE f.val)
      .next (s1 |> updFan f.val (fun x => { x with bad := 0, edges := es })
        |> setF (F.FAN_RPM f.val) (fanRpm (getF s (F.FAN_POLE_PAIRS f.val)) es)
        |> (if hallNext old = h then setF (F.FAN_DIR f.val) 0 else if hallNext h = old then setF (F.FAN_DIR f.val) 1 else fun s => s)
        |> (if st = 2 ∧ hallNext old = h then fun s => s |> setF (F.FAN_STATE f.val) 3 |> updFan f.val (fun x => { x with tries := 0 })
            else fun s => s))

/-- An air mover is driven. -/
def fanDriven (s : State) (f : Nat) : Bool := decide (1 ≤ getF s (F.FAN_STATE f) ∧ getF s (F.FAN_STATE f) ≤ 3)

/-- FAN_STALL_TIMEOUT (R296). -/
def execFanStallTimeout (f : Fin 4) (s : State) : Out :=
  if motOn s && isSet s (F.FAN_RUN f.val) && decide (0 < getF s (F.FAN_DUTY f.val)) && fanDriven s f.val
      && decide (250000000 ≤ s.now.toNat - (fanOf s f.val).edges.headD 0) then
    .next (s |> coastFan f.val |> setF (F.FAN_STALL f.val) 1 |> setF (F.FAN_STATE f.val) 5 |> setF (F.FAN_RPM f.val) 0
      |> updFan f.val (fun x => { x with edges := [] }))
  else .next s

/-- FAN_OVERCURRENT (R296, R517): a phase current above 1 A, less while the power die folds its bridge currents back. -/
def execFanOvercurrent (f : Fin 4) (ma : BitVec 16) (s : State) : Out :=
  if motOn s && fanDriven s f.val && decide (s.mot.limitPm < ma.toNat) then .next (s |> setF (F.FAN_OVERCURRENT f.val) 1 |> coastFan f.val) else .next s

/-- FAN_SPEED_LOOP_TICK (R296): firmware's new duty, up when the air mover turns slower than its target speed and down when
faster. -/
def execFanSpeedLoopTick (f : Fin 4) (duty : BitVec 12) (s : State) : Out :=
  if motOn s && isSet s (F.FAN_RUN f.val) && decide (2 ≤ getF s (F.FAN_STATE f.val) ∧ getF s (F.FAN_STATE f.val) ≤ 3) then
    let old := getF s (F.FAN_DUTY f.val)
    let rpm := getF s (F.FAN_RPM f.val)
    let t := (fanOf s f.val).target
    .next (setF (F.FAN_DUTY f.val) (if rpm < t then max old duty.toNat else if t < rpm then min old duty.toNat else old) s)
  else .next s

/-- Every waiting MOT_FAN of an air mover completes. -/
def fanFinish (f : Nat) (s : State) : State :=
  mbxFinish (fun c => decide (c.opcode.toNat = 0x0312 ∧ par c 0 2 = f)) (resStatus 0) s

/-- FAN_DC_BRAKE_END (R297). -/
def execFanDcBrakeEnd (f : Fin 4) (s : State) : Out :=
  if motOn s && decide (getF s (F.FAN_STATE f.val) = 1) then
    .next (s |> setF (F.FAN_STATE f.val) 2 |> setF (F.FAN_RPM f.val) 0 |> setF (F.FAN_DIR f.val) 0 |> fanFinish f.val)
  else .next s

/-- FAN_START_RETRY_TIMER (R297): the tenth repeat is the last. -/
def execFanStartRetryTimer (f : Fin 4) (back : BitVec 16) (s : State) : Out :=
  let st := getF s (F.FAN_STATE f.val)
  if motOn s && isSet s (F.FAN_RUN f.val) && decide (st = 4 ∨ st = 5) then
    let n := (fanOf s f.val).tries
    if 10 ≤ n then .next (s |> fanStop f.val |> raise 8 0x0336 2 f.val 0)
    else .next (s |> updFan f.val (fun x => { x with tries := n + 1 }) |> fanStart f.val back.toNat)
  else .next s

/-- MOT_FAN (R298): a target speed, or 0 to stop; a stopped air mover is measured, turning backward at `back` rpm. -/
def execMotFan (m : Fin 16) (back : BitVec 16) (s : State) : Out :=
  .next (mbxRow m.val 0x0312 anyParam (fun c s =>
    let f := par c 0 2
    let t := par c 16 16
    if !fittedFan s f then answer 0x0016 s
    else
      let s1 := updFan f (fun x => { x with target := t }) s
      if t = 0 then answer 0 (fanStop f s1)
      else if fanDriven s f then answer 0 s1
      else
        let s2 := s1 |> updFan f (fun x => { x with tries := 0 }) |> fanStart f back.toNat
        if getF s2 (F.FAN_STATE f) = 1 then (s2, none) else answer 0 s2) s)

end Sys2Proof.Machine
end

