-- ==== Sys2Proof/Machine/ClkOps.lean ====
section
/-! DEFINITION. The synthesizers of the clocked islands: when a setting of CLK_PLL_CFG takes effect (R111), and spread-spectrum
modulation (R117). -/

namespace Sys2Proof.Machine

/-- A write of CLK_PLL_CFG: stored at once; a write clock's takes effect while the actuator's write gates are off. -/
def pllStore (i : Nat) (w : Word) (s : State) : State :=
  let s1 := wr (R.CLK_PLL_CFG i) w s
  if 5 ≤ i ∧ i ≤ 8 then pllGates (i - 5) s1 else s1

/-! ### Spread spectrum (R117): `j` 0 MOT, 1 PACTL -/

/-- The register of a spread-spectrum setting. -/
def sscReg (j : Nat) : Nat := if j = 0 then R.CLK_SSC_MOT else R.CLK_SSC_PACTL

/-- Depth in steps of 0.25 % and modulation frequency in kHz as a setting acts. -/
def sscSpread (w : Word) : Nat := min 8 (w.toNat % 16)
def sscFmod (w : Word) : Nat := max 10 (bitsAt w.toNat 8 6)

/-- The setting that acts now: a change takes effect at the start of the next modulation period. -/
def sscAct (s : State) (j : Nat) : Word :=
  let x := s.clk.ssc.getD j (0, 0)
  let per := 1000000 / sscFmod x.2
  if x.1 / per < s.now.toNat / per then rd s (sscReg j) else x.2

/-- A write of a spread-spectrum setting. -/
def sscStore (j : Nat) (w : Word) (s : State) : State :=
  wr (sscReg j) (w &&& 0x3F0F) { s with clk := { s.clk with ssc := setAt s.clk.ssc j (s.now.toNat, sscAct s j) } }

/-- The VCO term of an island in units of 25 MHz / 65536, and its divider (R110). -/
def pllMul (w : Word) : Nat := bitsAt w.toNat 16 10 * 65536 + bitsAt w.toNat 0 16
def pllDiv (w : Word) : Nat := bitsAt w.toNat 26 6

/-- The carrier period in ps at the nominal frequency of the MOT island (R110, R269). -/
def carrierNominal (s : State) : Nat :=
  let w := s.clk.applied.getD 2 0
  getF s F.SPN_PWM_PERIOD * 40000 * 65536 * pllDiv w / max 1 (pllMul w)

/-- A measured carrier period lies between the nominal one and the one at full depth of the spread, for the output is spread downward
only (R117, R118). -/
def carrierBound (s : State) (t : Nat) : Nat :=
  let n := carrierNominal s
  max n (min t (n * 400 / (400 - sscSpread (sscAct s 0))))

/-- A write clock in Hz times 65536 and the divider equals a channel rate in kb/s within 20 ppm (R113). -/
def wrClockOk (w : Word) (rate : Nat) : Bool :=
  let a := pllMul w * 25000
  let b := rate * 65536 * pllDiv w
  decide ((a - b + (b - a)) * 50000 ≤ b)

end Sys2Proof.Machine
end

