-- ==== Sys2Proof/Machine/FlashOps.lean ====
section
/-! DEFINITION. The flash tier's machinery: channels and their qualification tables (R405, R415, R416), blocks and open
blocks (R412 to R414), page programs and the page map (R407, R409, R410), row parity (R413), disk runs (R417, R418),
the capacity accounts (R428, R429), the read-only state (R430). -/

namespace Sys2Proof.Machine

/-! ### Channels -/

/-- The lasting facts of channel `c`. -/
def chan (s : State) (c : Nat) : ChanNv := s.tier.chans.getD c ChanNv.reset

/-- Change a channel's lasting facts. -/
def updChan (c : Nat) (f : ChanNv → ChanNv) (s : State) : State :=
  { s with tier := { s.tier with chans := modAt s.tier.chans c f } }

/-- This device owns channel `c` and has trained it (R406, R408). -/
def chOwned (s : State) (c : Nat) : Bool := decide (getF s (F.FC_STATE c) = 2)

/-- The channels that this device owns. -/
def ownedChans (s : State) : List Nat := (List.range 32).filter (chOwned s)

/-- A die is in use (R405). -/
def dieUsed (s : State) (c d : Nat) : Bool := decide (getF s (F.FC_DIE_STATE c d) = 1)

/-- The dies in use of a channel, ascending. -/
def diesUsed (s : State) (c : Nat) : List Nat := (List.range 16).filter (dieUsed s c)

/-- RATED_PE of a channel's table (R416). -/
def ratedPe (ch : ChanNv) : Nat := if ch.table = [] then 3000 else leAt ch.table 0 4

/-- RD_DISTURB of a channel's table. -/
def rdDisturb (ch : ChanNv) : Nat := if ch.table = [] then 100000 else leAt ch.table 4 4

/-- RETRY_STEPS of a channel's table. -/
def retrySteps (ch : ChanNv) : Nat := if ch.table = [] then 0 else leAt ch.table 8 1 % 16

/-! ### Blocks -/

/-- A block; one that nothing has used yet is FREE (R412). -/
def blkOf (s : State) (c d b : Nat) : Blk :=
  (s.tier.blks.find? (fun x => x.ch = c ∧ x.die = d ∧ x.blk = b)).getD ⟨c, d, b, 1, 0, 0, 0, false, 0, false, 0⟩

/-- Change a block. -/
def updBlk (c d b : Nat) (f : Blk → Blk) (s : State) : State :=
  let x := f (blkOf s c d b)
  { s with tier := { s.tier with blks := x :: s.tier.blks.filter (fun y => ¬(y.ch = c ∧ y.die = d ∧ y.blk = b)) } }

/-- Blocks of a channel that are neither FREE nor ERASED. -/
def usedBlks (s : State) (c : Nat) : Nat :=
  (s.tier.blks.filter (fun x => decide (x.ch = c ∧ x.state ≠ 1 ∧ x.state ≠ 2 ∧ x.state ≠ 0))).length

/-- FREE and ERASED blocks of a channel. -/
def freeBlks (s : State) (c : Nat) : Nat := (chan s c).good - usedBlks s c

/-- The free-block percentage of a channel (R421). -/
def freePct (s : State) (c : Nat) : Nat := if (chan s c).good = 0 then 0 else freeBlks s c * 100 / (chan s c).good

/-- Journal blocks in use on a channel (R413). -/
def journalBlks (s : State) (c : Nat) : Nat :=
  (s.tier.blks.filter (fun x => decide (x.ch = c) && x.journal && decide (x.state = 3 ∨ x.state = 4))).length

/-- The journal reserve of the channel that is not in use. -/
def journalLeft (s : State) (c : Nat) : Nat := getF s F.RACK_JOURNAL_RES - journalBlks s c

/-- The mapped pages of a block: group, LFP, page (R409). -/
def blkPages (s : State) (c d b : Nat) : List (Nat × Nat × Nat) :=
  s.tier.pmap.filter (fun e => decide (ppaCh e.2.2 = c ∧ ppaDie e.2.2 = d ∧ ppaBlk e.2.2 = b))

/-- The mapped pages of a die. -/
def diePages (s : State) (c d : Nat) : List (Nat × Nat × Nat) :=
  s.tier.pmap.filter (fun e => decide (ppaCh e.2.2 = c ∧ ppaDie e.2.2 = d))

/-- The open block of a die for data, or for the journal. -/
def openBlk (s : State) (c d : Nat) (jr : Bool) : Option Blk :=
  s.tier.blks.find? (fun x => decide (x.ch = c ∧ x.die = d ∧ x.state = 3) && x.journal == jr)

/-- The ERASED block of a die with the lowest erase count (R414), the lowest number among equals. -/
def leastWorn (s : State) (c d : Nat) : Option Blk :=
  (s.tier.blks.filter (fun x => decide (x.ch = c ∧ x.die = d ∧ x.state = 2))).foldl (fun o x => match o with
    | none => some x
    | some y => if x.erases < y.erases ∨ (x.erases = y.erases ∧ x.blk < y.blk) then some x else some y) none

/-- The number of a die's next data block among those that the channel's dies open one after the other: the blocks of equal number
form rows (R413). -/
def nextSet (s : State) (c d : Nat) : Nat :=
  (s.tier.blks.filter (fun x => decide (x.ch = c ∧ x.die = d) && !x.journal)).foldl (fun n x => max n (x.set + 1)) 1

/-- The block that the next page of a die goes to: the open one, else a new one; data leaves the journal reserve, and
the journal draws from it alone (R413). -/
def programBlk (s : State) (c d : Nat) (jr : Bool) : Option Blk :=
  match openBlk s c d jr with
  | some b => some b
  | none =>
    if (if jr then 0 < journalLeft s c else journalLeft s c < freeBlks s c) then
      (leastWorn s c d).map (fun b => { b with set := nextSet s c d })
    else none

/-- Rows exist on a channel with four or more dies in use; the parity page of row `p` lies on this die (R413). -/
def parityPage (s : State) (c d p : Nat) : Bool :=
  let ds := diesUsed s c
  decide (4 ≤ ds.length) && decide (ds.findIdx (fun x => x = d) = p % ds.length)

/-- The block of a die in the rows of a set. -/
def rowBlk (s : State) (c d set : Nat) : Option Blk :=
  s.tier.blks.find? (fun x => decide (x.ch = c ∧ x.die = d ∧ x.set = set ∧ (x.state = 3 ∨ x.state = 4 ∨ x.state = 5)) && !x.journal)

/-- Page `p` of every other die's block of a set is programmed, where the die has such a block: the parity page may follow (R413). -/
def rowReady (s : State) (c d set p : Nat) : Bool :=
  (diesUsed s c).all (fun x => decide (x = d) || match rowBlk s c x set with
    | some b => decide (p < b.next)
    | none => decide (set < nextSet s c x))

/-- The row of a page has its parity page (R413): what step 4 of R416 needs. -/
def rowRebuilds (s : State) (c set p : Nat) : Bool :=
  let ds := diesUsed s c
  decide (4 ≤ ds.length ∧ set ≠ 0) && match ds[p % ds.length]? with
  | some d => (rowBlk s c d set).any (fun b => decide (p < b.next))
  | none => false

/-- Exclusive-or of two byte lists. -/
def xorBytes (a b : List Byte) : List Byte := List.zipWith (fun x y => x ^^^ y) a b

/-- The parity page of row `p` of a set: the exclusive-or of the row's other pages (R413). -/
def rowParity (s : State) (c d set p : Nat) : List Byte :=
  ((diesUsed s c).filter (fun x => x ≠ d)).foldl (fun acc x =>
    match rowBlk s c x set with
    | some b => if p < b.next then xorBytes acc (memRead s (pageAddr (ppa c x b.blk p)) 16384) else acc
    | none => acc) (List.replicate 16384 0)

/-- The 32 bytes of page metadata (R407). -/
def pageMeta (pk g lfp wseq time : Nat) : List Byte :=
  let m := leBytes 1 pk ++ leBytes 1 g ++ leBytes 2 0 ++ leBytes 8 lfp ++ leBytes 8 wseq ++ leBytes 8 time
  m ++ leBytes 4 (crc32c m)

/-- The FLASH bus clock, CLK_PLL_CFG[4] on 25 MHz (R110), two transfers a cycle, is above the trained rate of an owned channel: program
and read transfers are corrupted (R113). -/
def flashOver (s : State) : Bool :=
  let w := (s.clk.applied.getD 4 0).toNat
  (ownedChans s).any (fun c =>
    decide (getF s (F.FC_RATE_MTS c) * 65536 * max 1 (bitsAt w 26 6) < 50 * (bitsAt w 16 10 * 65536 + bitsAt w 0 16)))

/-- The key of a flash page among the units known to be uncorrectable. -/
def pageKey (p : Nat) : Nat := space 40 p

/-- A page is programmed with corrupted bytes, or well. -/
def setPageBad (p : Nat) (b : Bool) (s : State) : State :=
  let l := s.bad.filter (fun k => k ≠ pageKey p)
  { s with bad := if b then l ++ [pageKey p] else l }

/-- Program one page into a block (R407, R412): its data and metadata, the write pointer, CLOSED when full. -/
def progInto (b : Blk) (jr : Bool) (pk g lfp : Nat) (data : List Byte) (s : State) : Nat × State :=
  let p := ppa b.ch b.die b.blk b.next
  let bytes := padTo 16384 data ++ pageMeta pk g lfp s.tier.wseq s.now.toNat
  let full := decide ((chan s b.ch).pages ≤ b.next + 1)
  let s1 := s |> memWrite (pageAddr p) bytes |> setPageBad p (flashOver s)
    |> updBlk b.ch b.die b.blk (fun x => { x with state := if full then 4 else 3, next := x.next + 1, journal := jr, set := b.set,
                                                  time := s.now.toNat })
    |> count (R.FC_PROG_LO b.ch) 1
  (p, health 10 16384 { s1 with tier := { s1.tier with wseq := s1.tier.wseq + 1 } })

/-- A block leaves use (R415): RETIRED, and one block less in the channel's pool, or in its share of the capacity. -/
def retireBlk (c d b : Nat) (s : State) : State :=
  let s1 := updBlk c d b (fun x => { x with state := 7, refresh := true }) s
  let s2 := updChan c (fun h => { h with retiredBlks := h.retiredBlks + 1, spare := h.spare - 1,
                                         lost := if h.spare = 0 then h.lost + 1 else h.lost }) s1
  setF (F.FC_DIE_SPARE c d) (getF s2 (F.FC_DIE_SPARE c d) - 1) s2

/-- The mean erase count of a die as a percentage of RATED_PE, saturating at 255 (R431). -/
def dieWear (s : State) (c d : Nat) : Nat :=
  let n := max 1 (chan s c).blocks
  let sum := (s.tier.blks.filter (fun x => decide (x.ch = c ∧ x.die = d))).foldl (fun a x => a + x.erases) 0
  min 255 (sum * 100 / (n * max 1 (ratedPe (chan s c))))

/-- The page map of a group takes an entry, written through to its place in DRAM (R409, R410). -/
def mapPage (g lfp p : Nat) (s : State) : State :=
  let s1 := { s with tier := { s.tier with pmap := (g, lfp, p) :: s.tier.pmap.filter (fun e => ¬(e.1 = g ∧ e.2.1 = lfp)) } }
  if bitAt (getF s F.FPM_READY) g then
    reqStore (rdN s (R.FPM_BASE_LO g) + rdN s (R.FPM_BASE_HI g) * 2 ^ 32 + 8 * lfp) (leBytes 8 (2 ^ 63 + p)) s1
  else s1

/-- The page map of a group loses an entry. -/
def unmapPage (g lfp : Nat) (s : State) : State :=
  let s1 := { s with tier := { s.tier with pmap := s.tier.pmap.filter (fun e => ¬(e.1 = g ∧ e.2.1 = lfp)) } }
  if bitAt (getF s F.FPM_READY) g then
    reqStore (rdN s (R.FPM_BASE_LO g) + rdN s (R.FPM_BASE_HI g) * 2 ^ 32 + 8 * lfp) (leBytes 8 0) s1
  else s1

/-! ### The read-only flash tier (R430) -/

/-- No owned channel has a block for a write, and every owned channel's spare pool is empty. -/
def noBlocks (s : State) : Bool :=
  (ownedChans s).all (fun c => decide ((chan s c).spare = 0) && decide (freeBlks s c ≤ journalLeft s c)
    && (diesUsed s c).all (fun d => (openBlk s c d false).isNone))

/-- The flash tier is read-only from now to the next Bring-up, which finds it noted (R430). -/
def roEnter (s : State) : State :=
  { s with tier := { s.tier with flashRo := true } } |> setF F.RACK_FLASH_RO 1 |> raise 10 0x0414 2 0xFFFF 0

/-- A device with a read-only tier that owns no usable channel gives its volume groups to a partner in Full (R430). -/
def roGive (s : State) : State :=
  if isSet s F.RACK_FLASH_RO = true ∧ ownedChans s = [] ∧ isSet s F.NAL_UP = true ∧ s.pair.partnerMode = 3 ∧ s.pair.handover = none then
    { s with pair := { s.pair with give := s.pair.give ++ [4, 5].filter (fun t => owns s t && !s.pair.give.contains t) } }
  else s

/-- A write needs a block: the tier becomes read-only when none can come (R430). In Fallow that triggers a wake
(R88). -/
def flashRoCheck (s : State) : State :=
  if noBlocks s ∧ isSet s F.RACK_FLASH_RO = false ∧ (holdsGroup s 0 ∨ holdsGroup s 1) then
    let s1 := roGive (roEnter s)
    if mode s = 5 then wakeRequest true s1 else s1
  else s

/-! ### Disk runs -/

/-- A run map entry; a band never written has all zeros (R418). -/
def runOf (s : State) (a b : Nat) : RunEnt :=
  (s.tier.runs.find? (fun r => r.act = a ∧ r.band = b)).getD ⟨a, b, 0, 0, 0, 0, 0, 0, 0, 0, 0, 0⟩

/-- Change a run map entry. -/
def updRun (a b : Nat) (f : RunEnt → RunEnt) (s : State) : State :=
  let x := f (runOf s a b)
  { s with tier := { s.tier with runs := x :: s.tier.runs.filter (fun r => ¬(r.act = a ∧ r.band = b)) } }

/-- A sequencer that runs no band any more, with the code that every band completes with (R262, R265). -/
def fsDead (s : State) (a : Nat) : Option Nat :=
  if isSet s (F.FS_MCHK_STUCK a) then some 0x0321 else if (s.fs.getD a FsSt.reset).loadFailed then some 0x0328 else none

/-- BANDS of an actuator's last committed zone table. -/
def bandsOf (s : State) (a : Nat) : Nat := s.tier.diskBands.getD a 0

/-- SECTORS of the zone that holds a band. -/
def bandSectors (s : State) (a b : Nat) : Nat :=
  (s.tier.diskZones.getD a []).foldl (fun n z => if z.1 ≤ b then z.2 else n) 0

/-- The 32-byte run map entry (R418). -/
def runEntry (r : RunEnt) : List Byte :=
  leBytes 1 r.state ++ leBytes 1 r.flags ++ leBytes 2 r.tag ++ leBytes 2 r.k0 ++ leBytes 2 r.n ++ leBytes 8 r.mask
    ++ leBytes 4 r.live16 ++ leBytes 4 r.data16 ++ leBytes 8 r.time

/-- The heads of actuator `a` that a band write uses: fitted and enabled (R248). -/
def bandHeads (s : State) (a : Nat) : List Nat :=
  (List.range 36).filter (fun i => fitted s (36 * a + i) && isSet s (F.HC_EN (36 * a + i)))

/-- A mask of surfaces. -/
def maskOf (l : List Nat) : Nat := l.foldl (fun m i => m + 2 ^ i) 0

/-- Data units per slot of a run of `n` heads (R417, R419). -/
def dataUnits (s : State) (n : Nat) : Nat := if isSet s F.RACK_RUN_PARITY ∧ 3 ≤ n then n - 1 else n

/-- FREE bands of an actuator. -/
def freeBands (s : State) (a : Nat) : Nat :=
  bandsOf s a - (s.tier.runs.filter (fun r => decide (r.act = a ∧ r.state ≠ 0))).length

/-! ### Capacity (R428, R429) -/

/-- Flash logical capacity of this device: its groups' LFPs, less the retirements beyond the pools. -/
def flashCap (s : State) : Nat :=
  let lfps := (if holdsGroup s 0 then s.tier.lfpCount.getD 0 0 else 0) + (if holdsGroup s 1 then s.tier.lfpCount.getD 1 0 else 0)
  let lost := (ownedChans s).foldl (fun n c => n + (chan s c).lost * (chan s c).pages) 0
  (lfps - lost) * 16384

/-- Data units of the bands of actuator `a` from band `lo` on, zone by zone. -/
def zoneUnits (s : State) (a w : Nat) : List (Nat × Nat) → Nat
  | [] => 0
  | [z] => (bandsOf s a - z.1) * z.2 * w
  | z :: y :: r => (y.1 - z.1) * z.2 * w + zoneUnits s a w (y :: r)

/-- Disk logical capacity of actuator `a`: every band not UNUSABLE, less 4 % of BANDS. -/
def actCap (s : State) (a : Nat) : Nat :=
  let w := dataUnits s (bandHeads s a).length
  let all := zoneUnits s a w (s.tier.diskZones.getD a [])
  let bad := (s.tier.runs.filter (fun r => decide (r.act = a ∧ r.state = 4))).foldl (fun n r => n + bandSectors s a r.band * w) 0
  let res := if bandsOf s a = 0 then 0 else all * 4 / 100
  (all - bad - res) * 32768

/-- Disk logical capacity of this device. -/
def diskCap (s : State) : Nat := (List.range 4).foldl (fun n a => if owns s a then n + actCap s a else n) 0

/-- Stored bytes of a tier in the groups that this device holds. -/
def stored (s : State) (tier : Nat) : Nat :=
  (s.tier.recs.filter (fun r => holdsGroup s r.group && decide (locTier r.loc = tier ∧ 0 < r.refs))).foldl
    (fun n r => n + 16 * r.len16) 0

/-- This device's account: logical capacity, stored bytes, unreduced Vat bytes. -/
def account (s : State) : Nat × Nat × Nat := (flashCap s + diskCap s, stored s 1 + stored s 2, unreduced s)

/-- Free logical capacity as this device sees it (R428): its own live account with the partner's last exchanged one; while the link is
down its half of what the two accounts last left, less what it has taken of it since. -/
def freeCap (s : State) : Nat :=
  let a := account s
  match (if s.fl.exchanged then s.fl.partnerAcct else none) with
  | none => a.1 - a.2.1 - a.2.2
  | some p =>
    if isSet s F.NAL_UP then a.1 + p.1 - (a.2.1 + p.2.1) - (a.2.2 + p.2.2)
    else
      let o := s.fl.ownAcct
      (o.1 + p.1 - (o.2.1 + p.2.1) - (o.2.2 + p.2.2)) / 2 + (o.2.1 + o.2.2) - (a.2.1 + a.2.2)

/-- A write meets the capacity reserve (R429): free capacity is below RACK_CAP_RES. -/
def capShort (s : State) : Bool := decide (freeCap s < getF s F.RACK_CAP_RES * 2 ^ 30)

/-- A write leaves each of its chunks a zero reference: each is covered wholly and gets zeros only (R429). -/
def allZeroWrite (off : Nat) (data : List Byte) (sz : Nat) : Bool :=
  data.all (fun b => b = 0) && (chunksOf off data.length).all (coversChunk off data.length sz)

end Sys2Proof.Machine
end

