-- ==== Sys2Proof/Machine/Rack.lean ====
section
/-! DEFINITION. Racking (R421 to R426): which kinds may run, how a source is chosen, the copy of its records, the commit
of a move and the release of its source. -/

namespace Sys2Proof.Machine

/-- The stop level of garbage collection (R421). -/
def gcHigh (s : State) : Nat :=
  if getF s F.RACK_GC_HIGH ≤ getF s F.RACK_GC_LOW then getF s F.RACK_GC_LOW + 5 else getF s F.RACK_GC_HIGH

/-- The stop level of cooling (R421). -/
def coolLo (s : State) : Nat :=
  if getF s F.RACK_COOL_HI ≤ getF s F.RACK_COOL_LO then getF s F.RACK_COOL_HI - 5 else getF s F.RACK_COOL_LO

/-- Used flash capacity in per cent (R421). -/
def flashUsedPct (s : State) : Nat := if flashCap s = 0 then 0 else stored s 1 * 100 / flashCap s

/-- The mode lets a kind run (R94, R97, R422, R430): in Bring-up garbage collection from step 11 and the others from
step 12; in Fallow neither cooling, compaction nor warming; in Drain neither cooling nor warming. -/
def rackMode (s : State) (k : Nat) : Bool :=
  let flashOnly := decide (k = 0 ∨ k = 4 ∨ k = 6 ∨ k = 5)
  match (if s.bring.active then 2 else mode s) with
  | 2 => if flashOnly then s.bring.maps else s.bring.fullCal
  | 3 => flashOnly || decide (s.pwr.target ≠ some 5)
  | 4 => flashOnly || decide (s.pwr.target ≠ some 5)
  | 5 => flashOnly
  | 6 => flashOnly || decide (k = 2)
  | _ => false

/-- RACK_EN permits a kind; refresh, homing and the emptying of retired blocks go with garbage collection. -/
def rackEnabled (s : State) (k : Nat) : Bool := bitAt (getF s F.RACK_EN) (if k ≤ 3 then k else 0)

/-- A kind's start condition (R421), or a pass of it is running; while the tier is read-only, garbage collection only keeps the journal
reserve and a block for metadata (R430). -/
def rackWants (s : State) (k c : Nat) : Bool :=
  bitAt s.fl.kinds k || (match k with
    | 0 => if isSet s F.RACK_FLASH_RO then decide (freeBlks s c ≤ journalLeft s c) else decide (freePct s c < getF s F.RACK_GC_LOW)
    | 1 => decide (getF s F.RACK_COOL_HI < flashUsedPct s) && !isSet s F.RACK_FLASH_RO
    | 2 => decide (freeBands s c * 100 < 2 * bandsOf s c)
    | 3 => decide (getF s F.RACK_WARM_HITS ≠ 0 ∧ flashUsedPct s < coolLo s)
    | _ => true)

/-- A kind's stop condition (R421). -/
def rackStops (s : State) (k : Nat) : Bool :=
  match k with
  | 0 => (ownedChans s).all (fun c => decide (gcHigh s < freePct s c))
  | 1 => decide (flashUsedPct s < coolLo s)
  | 2 => (List.range 4).all (fun a => !owns s a || decide (4 * bandsOf s a < freeBands s a * 100))
  | _ => true

/-- Set or clear the bit of a kind that runs. -/
def setKind (k : Nat) (b : Bool) (s : State) : State :=
  { s with fl := { s.fl with kinds := putBits s.fl.kinds k 1 (b2n b) } }

/-- Records with a count above 0 that have bytes in an LFP. -/
def recsIn (s : State) (g lfp : Nat) : List RecEnt :=
  s.tier.recs.filter (fun r => decide (r.group = g ∧ 0 < r.refs ∧ locTier r.loc = 1) &&
    (decide (locLfp r.loc = lfp) || decide (locLfp r.loc + 1 = lfp ∧ 16384 < locOfs r.loc + 16 * r.len16)))

/-- Live bytes of an LFP. -/
def liveBytes (s : State) (g lfp : Nat) : Nat :=
  (recsIn s g lfp).foldl (fun n r =>
    let e := locOfs r.loc + 16 * r.len16
    n + (if locLfp r.loc = lfp then min e 16384 - locOfs r.loc else e - 16384)) 0

/-- Records with a count above 0 in a run. -/
def recsInRun (s : State) (a b : Nat) : List RecEnt :=
  s.tier.recs.filter (fun r => decide (0 < r.refs ∧ locTier r.loc = 2 ∧ locAct r.loc = a ∧ locBand r.loc = b))

/-- An LFP that moves whole (R421). -/
def movesWhole (s : State) (g lfp : Nat) : Bool :=
  decide (getF s F.RACK_COMPACT_PCT * 16384 ≤ liveBytes s g lfp * 100)

/-- The better of two source blocks: fewer mapped pages, then older. -/
def betterBlk (s : State) (x y : Blk) : Blk :=
  let n := (blkPages s x.ch x.die x.blk).length
  let m := (blkPages s y.ch y.die y.blk).length
  if n < m ∨ (n = m ∧ x.time < y.time) then x else y

/-- The spread between the most and the least worn block of a die. -/
def wearSpread (s : State) (c d : Nat) : Nat :=
  let l := (s.tier.blks.filter (fun x => decide (x.ch = c ∧ x.die = d))).map (fun x => x.erases)
  l.foldl max 0 - (if l.length < (chan s c).blocks then 0 else l.foldl min (l.headD 0))

/-- The least worn CLOSED block of its die (R414). -/
def leastClosed (s : State) (x : Blk) : Bool :=
  s.tier.blks.all (fun y => !decide (y.ch = x.ch ∧ y.die = x.die ∧ y.state = 4) || decide (x.erases ≤ y.erases))

/-- A block is a source for a kind (R412, R414, R416, R426, R434). -/
def isSource (s : State) (k : Nat) (x : Blk) : Bool :=
  let ps := blkPages s x.ch x.die x.blk
  !x.journal && ps.all (fun e => holdsGroup s e.1) && (match k with
    | 0 => decide (x.state = 4) && chOwned s x.ch
    | 4 => decide (x.state = 4) && chOwned s x.ch
      && (x.refresh || (decide (getF s F.RACK_WL_SPREAD < wearSpread s x.ch x.die) && leastClosed s x))
    | 5 => decide (x.state = 4) && !chOwned s x.ch && !ps.isEmpty
    | 6 => !ps.isEmpty && (decide (x.state = 7) || decide (x.state ≠ 0 ∧ (chan s x.ch).dead.any (fun e => e.1 = x.die)))
    | _ => false)

/-- The source block of a kind on channel `c`. -/
def sourceBlk (s : State) (k c : Nat) : Option Blk :=
  (s.tier.blks.filter (fun x => x.ch = c && isSource s k x)).foldl (fun o x => match o with
    | none => some x
    | some y => some (betterBlk s x y)) none

/-- Records taken in order while their stream fits `cap` bytes: header, records, directory (R417). -/
def fitRun (cap : Nat) : Nat → List RecEnt → List RecEnt
  | _, [] => []
  | used, r :: l => if used + 16 * r.len16 + 16 ≤ cap then r :: fitRun cap (used + 16 * r.len16 + 16) l else []

/-- Bytes of the data stream of a run on a band. -/
def runCap (s : State) (a b : Nat) : Nat := dataUnits s (bandHeads s a).length * bandSectors s a b * 32768

/-- Records in the order of their page's TIME. -/
def insByTime (r : RecEnt) : List RecEnt → List RecEnt
  | [] => [r]
  | x :: l => if r.time < x.time then r :: x :: l else x :: insByTime r l

/-- The records that cooling gathers for a run (R421). -/
def coldRecs (s : State) (g a b : Nat) : List RecEnt :=
  let l := s.tier.recs.filter (fun r => decide (r.group = g ∧ 0 < r.refs ∧ r.state = 1 ∧ locTier r.loc = 1 ∧ r.heat = 0))
  fitRun (runCap s a b) 64 (l.foldl (fun a r => insByTime r a) [])

/-- The run that compaction takes on an actuator (R421). -/
def sourceRun (s : State) (g a : Nat) : Option RunEnt :=
  (s.tier.runs.filter (fun r => decide (r.act = a ∧ r.state = 2 ∧ bitAt r.flags 1 = decide (g = 1)) &&
      decide (r.live16 * 100 < getF s F.RACK_COMPACT_PCT * max 1 r.data16))).foldl
    (fun o r => match o with
      | none => some r
      | some q => if r.live16 * q.data16 < q.live16 * r.data16 then some r else some q) none

/-- Add a move with the next number, at step 1. -/
def addMove (m : Move) (s : State) : State :=
  { s with fl := { s.fl with moves := s.fl.moves ++ [{ m with id := s.fl.moveNext }], moveNext := s.fl.moveNext + 1 } }

/-- A move at step 1 with nothing listed. -/
def newMove (k g : Nat) : Move := ⟨0, k, g, 0, none, decide (k = 1 ∨ k = 2), [], [], 1, [], 0, [], none, [], [], false⟩

/-- A block becomes the source of a move (R412, R423 step 1): its pages, whole or record by record. -/
def startBlk (k g : Nat) (x : Blk) (s : State) : State :=
  let ps := blkPages s x.ch x.die x.blk
  let whole := ps.filter (fun e => movesWhole s e.1 e.2.1 || decide (e.1 ≠ g))
  let part := ps.filter (fun e => !(movesWhole s e.1 e.2.1 || decide (e.1 ≠ g)))
  let recs := part.foldl (fun l e => l ++ (recsIn s g e.2.1).filter (fun r => !l.contains r)) ([] : List RecEnt)
  s |> updBlk x.ch x.die x.blk (fun b => if b.state = 4 then { b with state := 5 } else b)
    |> addMove { newMove k g with src := ppa x.ch x.die x.blk 0, pages := whole, rids := recs.map (fun r => (r.rid, r.loc)) }

/-- Change a move. -/
def updMove (id : Nat) (f : Move → Move) (s : State) : State :=
  { s with fl := { s.fl with moves := s.fl.moves.map (fun m => if m.id = id then f m else m) } }

/-- A move by number. -/
def moveOf (s : State) (id : Nat) : Option Move := s.fl.moves.find? (fun m => m.id = id)

/-- Mark a run as the source of a compaction. -/
def startRun (k g : Nat) (r : RunEnt) (tgt : Option (Nat × Nat)) (s : State) : State :=
  s |> updRun r.act r.band (fun x => { x with state := 3 })
    |> addMove { newMove k g with srcRun := some (r.act, r.band), toDisk := tgt.isSome, tgtRun := tgt,
                                  rids := (recsInRun s r.act r.band).map (fun x => (x.rid, x.loc)) }

/-- The reductions of a group whose records are staged. -/
def stagedJobs (s : State) (g : Nat) : List RedJob := s.red.jobs.filter (fun j => decide (j.stage = 3 ∧ j.group = g) && j.rid.isSome)

/-- While the flash tier is read-only, what is reduced goes into runs (R430): the staged records of a group make up a run. -/
def stagedRecs (s : State) (g a b : Nat) : List RecEnt :=
  fitRun (runCap s a b) 64 ((stagedJobs s g).filterMap (fun j => j.rid.bind (recOf s g)))

/-- Disk runs may be written: from step 12 of Bring-up, in Full, Solo and Drain (R92). -/
def runsAllowed (s : State) : Bool := if s.bring.active then s.bring.fullCal else decide (mode s = 3 ∨ mode s = 4 ∨ mode s = 6)

/-- Start a move of a kind (R421, R423 step 1). `c` is the channel or the actuator, `band` the target band. -/
def rackStart (g k c band : Nat) (s : State) : State :=
  let diskOk := owns s c && decide (c < 4) && (fsDead s c).isNone && decide (band < bandsOf s c ∧ (runOf s c band).state = 0)
  if k = 1 ∧ isSet s F.RACK_FLASH_RO = true then
    if holdsGroup s g && runsAllowed s && diskOk && !(stagedRecs s g c band).isEmpty && !s.fl.moves.any (fun m => m.staged && decide (m.group = g)) then
      addMove { newMove 1 g with tgtRun := some (c, band), staged := true, rids := (stagedRecs s g c band).map (fun r => (r.rid, r.loc)) } s
    else s
  else if !rackMode s k || !rackEnabled s k || !holdsGroup s g || !rackWants s k c then s
  else
    let s1 := if k ≤ 3 then setKind k true s else s
    match k with
    | 1 => if diskOk ∧ coldRecs s g c band ≠ [] then
        addMove { newMove 1 g with tgtRun := some (c, band), rids := (coldRecs s g c band).map (fun r => (r.rid, r.loc)) } s1
      else s
    | 2 =>
      match (if c < 4 then sourceRun s g c else none) with
      | none => s
      | some r =>
        if r.live16 = 0 then updRun r.act r.band (fun x => { x with state := 0, live16 := 0, data16 := 0 }) s1
        else if diskOk then startRun 2 g r (some (c, band)) s1 else s
    | 3 =>
      match s.tier.recs.find? (fun r => decide (r.group = g ∧ 0 < r.refs ∧ r.state = 1 ∧ locTier r.loc = 2
          ∧ getF s F.RACK_WARM_HITS ≤ r.heat)) with
      | none => s
      | some r => addMove { newMove 3 g with rids := [(r.rid, r.loc)] } s1
    | _ =>
      match sourceBlk s k c with
      | some x => startBlk k g x s1
      | none =>
        if k = 5 then
          match s.tier.runs.find? (fun r => decide (r.state = 2 ∧ bitAt r.flags 1 = decide (g = 1)) && !owns s r.act) with
          | some r => if diskOk then startRun 5 g r (some (c, band)) s else startRun 5 g r none s
          | none => s
        else s

/-- The header of a run (R417). -/
def runHeader (g a tag band n dir time mask : Nat) : List Byte :=
  let h := leBytes 4 0x314E5256 ++ leBytes 1 g ++ leBytes 1 a ++ leBytes 2 tag ++ leBytes 4 band ++ leBytes 4 n
    ++ leBytes 4 (dir / 16) ++ leBytes 4 0 ++ leBytes 8 time ++ leBytes 8 mask ++ List.replicate 20 0
  h ++ leBytes 4 (crc32c h)

/-- The directory of a run: RID, offset and length of each record, in order. -/
def runDir : Nat → List (Nat × List Byte) → List Byte
  | _, [] => []
  | o, (rid, b) :: l => leBytes 8 rid ++ leBytes 4 (o / 16) ++ leBytes 2 (b.length / 16) ++ leBytes 2 0 ++ runDir (o + b.length) l

/-- Offsets of records laid one after the other from `o` on. -/
def recOffsets : Nat → List (Nat × List Byte) → List (Nat × Nat)
  | _, [] => []
  | o, (rid, b) :: l => (rid, o) :: recOffsets (o + b.length) l

/-- The next RUN_TAG of a band: 0 is skipped (R418). -/
def nextTag (t : Nat) : Nat := if (t + 1) % 65536 = 0 then 1 else (t + 1) % 65536

/-- A band descriptor of this device's own (R249). -/
def bandDesc (op hold tag band mask first cnt units addr : Nat) : List Byte :=
  leBytes 1 op ++ leBytes 1 hold ++ leBytes 2 tag ++ leBytes 4 band ++ leBytes 8 mask ++ leBytes 2 first ++ leBytes 2 cnt
    ++ leBytes 4 units ++ leBytes 8 addr

/-- A move's band write is handed to the sequencer of the target (R423 step 3): a new write attempt on the band. -/
def postRun (m : Move) (a b : Nat) (recs : List (Nat × List Byte)) (s : State) : State :=
  let tag := nextTag (runOf s a b).tag
  let heads := bandHeads s a
  let body := recs.flatMap (fun r => r.2)
  let buf := runHeader m.group a tag b recs.length (64 + body.length) s.now.toNat (maskOf heads) ++ body ++ runDir 64 recs
  let par := isSet s F.RACK_RUN_PARITY && decide (3 ≤ heads.length)
  let s1 := s |> updRun a b (fun r => { r with state := 1, tag := tag, flags := b2n par + 2 * m.group })
    |> updMove m.id (fun m => { m with step := 2, buf := buf, tgtRun := some (a, b),
                                       locs := (recOffsets 64 recs).map (fun r => (r.1, diskLoc m.group a b r.2)) })
  { s1 with fs := modAt s1.fs a (fun f => { f with queue := f.queue ++
      [⟨bandDesc 2 0 tag b (maskOf heads) 0 0 (2 * heads.length) 0, 256, m.id⟩] }) }

/-- The bytes of a record that moves: from its medium, or of a staged one from the staging area. -/
def moveBytes (s : State) (m : Move) (rid : Nat) : Option (List Byte) :=
  match recOf s m.group rid with
  | none => none
  | some r => if m.staged then
      some (slice (s.fl.stage.getD m.group []) ((locLfp r.loc - s.fl.stageLfp.getD m.group 0) * 16384 + locOfs r.loc) (16 * r.len16))
    else recBytes s r

/-- The source of a move has been read (R423 step 2): records whose header fails stay and become retained (R424), the
others make up the target. -/
def rackSourceRead (m : Move) (bad : List Nat) (s : State) : State :=
  let rd := m.rids.map (fun r => (r.1, moveBytes s m r.1))
  let isBad (r : Nat × Option (List Byte)) : Bool := bad.contains r.1 || (match r.2 with
    | none => true
    | some b => !recordHeaderOk b)
  let s1 := (rd.filter isBad).foldl (fun s r => s |> updRec m.group r.1 (fun e => { e with state := 2 })
    |> raise 10 0x041B 2 0xFFFF 0) s
  let good := (rd.filter (fun r => !isBad r)).map (fun r => (r.1, r.2.getD []))
  let s2 := updMove m.id (fun m => { m with rids := m.rids.filter (fun r => good.any (fun x => x.1 = r.1)) }) s1
  match m.tgtRun with
  | some t => postRun m t.1 t.2 good s2
  | none =>
    let buf := good.flatMap (fun r => r.2)
    let base := s2.tier.lfpNext.getD m.group 1
    let n := (buf.length + 16383) / 16384
    let s3 := { s2 with tier := { s2.tier with lfpNext := setAt s2.tier.lfpNext m.group (base + n) } }
    updMove m.id (fun x => { x with step := 2, buf := buf, base := base,
                                    locs := (recOffsets 0 good).map (fun r =>
                                      (r.1, flashLoc m.group (base + r.2 / 16384) (r.2 % 16384))) }) s3

/-- Every page of a flash move's target is programmed. -/
def moveProgrammed (m : Move) : Bool :=
  m.pages.all (fun e => m.done.any (fun d => d.1 = e.1 ∧ d.2.1 = e.2.1)) &&
  (List.range ((m.buf.length + 16383) / 16384)).all (fun i => m.done.any (fun d => d.1 = m.group ∧ d.2.1 = m.base + i))

/-- The content that a move programs as an LFP, with its group; none if the LFP is not of the move's target. -/
def movePage (s : State) (m : Move) (lfp : Nat) : Option (Nat × List Byte) :=
  match m.pages.find? (fun e => e.2.1 = lfp ∧ ¬ m.done.any (fun d => d.1 = e.1 ∧ d.2.1 = lfp)) with
  | some e => some (e.1, memRead s (pageAddr e.2.2) 16384)
  | none =>
    if m.base ≤ lfp ∧ (lfp - m.base) * 16384 < m.buf.length ∧ ¬ m.done.any (fun d => d.1 = m.group ∧ d.2.1 = lfp)
    then some (m.group, padTo 16384 (slice m.buf ((lfp - m.base) * 16384) 16384)) else none

/-- Another band of an actuator that is FREE, the next after a failed one. -/
def otherBand (s : State) (a b : Nat) : Option Nat :=
  let n := max 1 (bandsOf s a)
  (((List.range (s.tier.runs.length + 2)).map (fun i => (b + 1 + i) % n)).filter (fun x => decide (x ≠ b))).find? (fun x => (runOf s a x).state = 0)

/-- What a move took from its sources stays where it is: a victim is CLOSED and a source run LIVE again, a target in writing FREE (R424). -/
def moveUndo (m : Move) (s : State) : State :=
  let s1 := match m.srcRun with
    | some r => updRun r.1 r.2 (fun x => if x.state = 3 then { x with state := 2 } else x) s
    | none => if m.kind = 1 ∨ m.kind = 3 then s
        else updBlk (ppaCh m.src) (ppaDie m.src) (ppaBlk m.src) (fun b => if b.state = 5 then { b with state := 4 } else b) s
  let s2 := match m.tgtRun with
    | some r => updRun r.1 r.2 (fun x => if x.state = 1 then { x with state := 0 } else x) s1
    | none => s1
  { s2 with fl := { s2.fl with moves := s2.fl.moves.filter (fun x => x.id ≠ m.id) } }

/-- Moves that have not reached step 5 are abandoned (R424). -/
def abandonMoves (p : Move → Bool) (s : State) : State := (s.fl.moves.filter (fun m => decide (m.step < 5) && p m)).foldl (fun s m => moveUndo m s) s

/-- A move works on an actuator, or on a flash channel. -/
def moveOnActuator (a : Nat) (m : Move) : Bool := m.srcRun.any (fun r => r.1 = a) || m.tgtRun.any (fun r => r.1 = a)
def moveOnChannel (c : Nat) (m : Move) : Bool :=
  (m.srcRun.isNone && decide (m.kind ≠ 1 ∧ m.kind ≠ 3 ∧ ppaCh m.src = c)) || m.done.any (fun d => ppaCh d.2.2 = c)

/-- The target of a move failed (R424): the copy restarts at step 3 on a new target: other pages, or another band, without which it
ends. -/
def rackRestart (m : Move) (s : State) : State :=
  let s1 := s |> raise 10 0x0417 2 0xFFFF 0 |> count R.RACK_RESTART_LO 1 |> health 7 1
  match m.tgtRun with
  | none => updMove m.id (fun m => { m with step := 2, done := [] }) s1
  | some t => match otherBand s1 t.1 t.2 with
    | none => moveUndo m s1
    | some b => postRun m t.1 b (m.rids.filterMap (fun r => (moveBytes s1 m r.1).map (fun x => (r.1, x)))) s1

/-- A band whose write has failed is FREE again, or UNUSABLE after the second failure in a row (R420). -/
def runFailed (m : Move) (a b : Nat) (s : State) : State :=
  s |> updRun a b (fun r => { r with state := if r.fails = 0 then 0 else 4, fails := r.fails + 1 }) |> raise 10 0x0418 2 0xFFFF 0
    |> health 6 1 |> rackRestart m

/-- Bands of an actuator that were UNUSABLE are FREE after its full calibration (R420). -/
def bandsUsable (a : Nat) (s : State) : State :=
  { s with tier := { s.tier with runs := s.tier.runs.map (fun r => if r.act = a ∧ r.state = 4 then { r with state := 0, fails := 0 } else r) } }

/-- The band write of a move has ended with a done mask (R420): all of `M` written makes the target ready to verify;
otherwise the band is FREE again, or UNUSABLE after the second failure in a row, and the copy restarts. -/
def runWritten (m : Move) (a b mask done k0 n : Nat) (s : State) : State :=
  if done = mask ∧ mask ≠ 0 then
    s |> memWrite (runAddr a b 0) m.buf
      |> updRun a b (fun r => { r with k0 := k0, n := n, mask := mask, data16 := m.buf.length / 16, fails := 0 })
      |> updMove m.id (fun m => { m with step := 3 })
  else runFailed m a b s

/-- The move record commits (R423 step 5): every location or page-map entry that still names the source takes the
target. -/
def rackCommit (m : Move) (s : State) : State :=
  let s1 := m.done.foldl (fun s d =>
    match m.pages.find? (fun e => e.1 = d.1 ∧ e.2.1 = d.2.1) with
    | some e => if ppaOf s e.1 e.2.1 = some e.2.2 then mapPage d.1 d.2.1 d.2.2 s else s
    | none => mapPage d.1 d.2.1 d.2.2 s) s
  let s2 := match m.tgtRun with
    | some t => updRun t.1 t.2 (fun r => { r with state := 2, live16 := 0, time := s.now.toNat }) s1
    | none => s1
  let s3 := m.rids.foldl (fun s r =>
    match recOf s m.group r.1, m.locs.find? (fun l => l.1 = r.1) with
    | some e, some l =>
      if m.staged then
        { updRec m.group r.1 (fun e => { e with loc := l.2, time := s.now.toNat }) s with red := { s.red with jobs := s.red.jobs.map (fun j =>
            if j.group = m.group ∧ j.rid = some r.1 ∧ j.stage = 3 then { j with stage := 4, loc := l.2 } else j) } }
      else if e.loc = r.2 ∧ 0 < e.refs then
        s |> runLive e.loc (-(e.len16 : Int)) |> updRec m.group r.1 (fun e => { e with loc := l.2, time := s.now.toNat })
          |> runLive l.2 (e.len16 : Int)
      else s
    | _, _ => s) s2
  let s4 := if m.staged ∧ stagedJobs s3 m.group = [] then
      { s3 with fl := { s3.fl with stage := setAt s3.fl.stage m.group [], stageLfp := setAt s3.fl.stageLfp m.group 0 } } else s3
  let kib := if m.staged then 0 else (m.pages.length * 16384 + m.buf.length) / 1024
  let busy := (s.host.cmds.filter (fun c => decide (c.stage = 2) && !c.needs.isEmpty)).map (fun c => c.id)
  s4 |> jRecord m.group 3 |> count R.RACK_MOVED_LO kib |> updMove m.id (fun m => { m with step := 5, readers := busy })

/-- The block that was a move's source, once its pages are unmapped where no record stands on them (R412, R424,
R425). -/
def releaseBlk (c d b : Nat) (s : State) : State :=
  let s1 := (blkPages s c d b).foldl (fun s e => if (recsIn s e.1 e.2.1).isEmpty then unmapPage e.1 e.2.1 s else s) s
  let left := blkPages s1 c d b
  let kept := left.any (fun e => (recsIn s1 e.1 e.2.1).any (fun r => r.state = 2))
  updBlk c d b (fun x =>
    if x.state = 7 ∨ x.state = 0 then x
    else { x with state := if left.isEmpty then 1 else if kept then 6 else 4
                  refresh := x.refresh && !left.isEmpty }) s1

/-- Step 6 of a move (R423, R426): its run is FREE, or its block, which goes back to the channel's owner where it is foreign. -/
def moveRelease (m : Move) (s : State) : State :=
  let s1 := { s with fl := { s.fl with moves := s.fl.moves.filter (fun x => x.id ≠ m.id) } }
  match m.srcRun with
  | some r => updRun r.1 r.2 (fun x =>
      if (recsInRun s1 r.1 r.2).isEmpty then { x with state := 0, live16 := 0, data16 := 0 } else { x with state := 2 }) s1
  | none =>
    if m.kind = 1 ∨ m.kind = 3 then s1
    else
      let c := ppaCh m.src
      let s2 := releaseBlk c (ppaDie m.src) (ppaBlk m.src) s1
      if owns s (8 + c) = false ∧ (blkOf s2 c (ppaDie m.src) (ppaBlk m.src)).state = 1 then nalSend 1 23 [c, ppaDie m.src, ppaBlk m.src] s2 else s2

end Sys2Proof.Machine
end

