-- ==== Sys2Proof/Machine/Flash.lean ====
section
/-! DEFINITION. The rows of "Flash Tier, Disk Runs and Racking": channels, page programs, erases and reads, patrol, the
racking moves, the capacity accounts, the tier commands and the temperature history (R401 to R434). -/

namespace Sys2Proof.Machine

/-! ### Channels, programs, erases, reads -/

/-- A die that the device can use by its own report (R405). -/
def dieFits (r : DieReport) : Bool := decide (r.data = 16384 ∧ 2048 ≤ r.spare ∧ r.pages ≤ 4096 ∧ r.blocks ≤ 65536)

/-- The dies that a channel uses: those that fit, with the interface and rate of the first of them (R405). -/
def diesFit (l : List DieReport) : List DieReport :=
  match l.filter dieFits with
  | [] => []
  | r :: rs => r :: rs.filter (fun x => decide (x.toggle = r.toggle ∧ x.rate = r.rate))

/-- FC_DIE_STATE of a die after training: retired and failed dies stay so; 4 for one that passes at no rate, 3 for one that does not
fit (R405, R416, R434). -/
def trainedDie (h : ChanNv) (l : List DieReport) (d : Nat) : Nat :=
  match h.dead.find? (fun e => e.1 = d), (diesFit l).find? (fun r => r.die.val = d) with
  | some e, _ => e.2
  | none, some r => if r.best = 0 then 4 else 1
  | none, none => if l.any (fun r => decide (r.die.val = d)) then 3 else 0

/-- A bit for each die of a list. -/
def dieBits (l : List DieReport) : Nat := l.foldl (fun n r => n ||| 2 ^ r.die.val) 0

/-- CHANNEL_TRAIN_DONE (R405, R406): a channel being acquired is owned at the highest rate, at most 3,600 MT/s, that every die in use
passes, or failed. The first training of a channel takes its geometry, its bad blocks and its spare pool (R415); a loaded qualification
table takes effect (R434). -/
def execChannelTrainDone (c : Fin 32) (ok : Bool) (dies : List DieReport) (bad : List (Nat × Nat)) (s : State) : Out :=
  if getF s (F.FC_STATE c.val) ≠ 1 ∨ owns s (8 + c.val) = false then .next s
  else
    let used := (diesFit dies).filter (fun r => r.best ≠ 0)
    if !ok || used.isEmpty then
      .next (s |> setF (F.FC_STATE c.val) 4 |> setF (F.FC_ERR_TRAIN c.val) 1 |> raise 9 0x0416 2 (16 * c.val) 0)
    else
      let h := chan s c.val
      let first := decide (h.blocks = 0)
      let n := used.length
      let pages := used.foldl (fun m r => min m r.pages) 4096
      let blocks := used.foldl (fun m r => min m r.blocks) 65536
      let good := n * blocks - bad.length
      let pool := max (good * 4 / 100) (8 * n)
      let st : Nat → Nat := trainedDie h dies
      let lost := ((List.range 16).filter (fun d => decide (st d = 4) && !h.dead.any (fun e => e.1 = d))).map (fun d => (d, 4))
      let h1 := { h with table := if h.tableNew = [] then h.table else h.tableNew, tableNew := [], dead := h.dead ++ lost }
      let s1 := updChan c.val (fun _ => if first then
          { h1 with present := dieBits used, pages := pages, blocks := blocks, good := good, spare := pool, spare0 := pool } else h1) s
      let s2 := if first then bad.foldl (fun s e => updBlk c.val e.1 e.2 (fun b => { b with state := 0 }) s) s1 else s1
      let s3 := forN 16 (fun d s => setF (F.FC_DIE_STATE c.val d) (st d) s) s2
      let s4 := forN 16 (fun (d : Nat) (s : State) => if decide (st d = 3) then raise 9 0x0416 2 (16 * c.val + d) 0 s
        else if lost.contains (d, 4) then raise 9 0x0413 2 (16 * c.val + d) 0 s else s) s3
      let s5 := forN 16 (fun (d : Nat) (s : State) => if decide (st d = 1) then
          s |> setF (F.FC_DIE_SPARE c.val d) ((chan s c.val).spare / max 1 n) |> setF (F.FC_DIE_PE_PCT c.val d) (dieWear s c.val d)
        else s) s4
      let s6 := s5 |> setF (F.FC_STATE c.val) 2 |> setF (F.FC_EN c.val) 1 |> setB (F.FC_IFACE c.val) (used.any (fun r => r.toggle))
        |> setF (F.FC_DIES c.val) (diesUsed s5 c.val).length |> setF (F.FC_RATE_MTS c.val) (used.foldl (fun m r => min m r.best) 3600)
      .next { s6 with fl := { s6.fl with present := setAt s6.fl.present c.val (dieBits dies) } }

/-- A page program failed (R415): the block is retired and the program is repeated elsewhere. -/
def programFailed (c d : Nat) (b : Blk) (s : State) : State :=
  let s1 := s |> retireBlk c d b.blk |> setF (F.FC_ERR_PROG c) 1 |> raise 9 0x0411 2 (16 * c + d) b.blk
  flashRoCheck (health 2 1 s1)

/-- The pages of a flash journal entry: header, payload and seal (R452). -/
def entryPages (e : JEnt) : List Byte :=
  let h := leBytes 4 0x31454A56 ++ leBytes 1 e.kind ++ leBytes 1 e.group ++ leBytes 2 0 ++ leBytes 4 e.seq.toNat
    ++ leBytes 4 e.payload.length ++ leBytes 2 e.volume ++ List.replicate 6 0 ++ leBytes 8 e.offset ++ leBytes 8 e.canalSeq
    ++ List.replicate 24 0
  let p := padTo ((e.payload.length + 4095) / 4096 * 4096) e.payload
  h ++ p ++ leBytes 4 0x31534A56 ++ leBytes 4 e.seq.toNat ++ leBytes 4 (crc32c (h ++ p)) ++ List.replicate 52 0

/-- Program `n` pages of a byte list on a die's journal blocks, one after the other; none when the reserve ends. -/
def journalPages (c d g : Nat) : Nat → List Byte → State → Option State
  | 0, _, s => some s
  | n + 1, l, s =>
    match programBlk s c d true with
    | none => none
    | some b => journalPages c d g n (l.drop 16384) (progInto b true 2 g 0 (l.take 16384) s).2

/-- The staging page of a group has been programmed: its LFP is mapped, what follows is the next staging page, and the
records that lie wholly below it are programmed (R410, step 6 of R340). -/
def stageDone (g p : Nat) (s : State) : State :=
  let lfp := s.fl.stageLfp.getD g 0
  let s1 := s |> mapPage g lfp p |> jRecord g 4
  let rest := (s1.fl.stage.getD g []).drop 16384
  let s2 := { s1 with fl := { s1.fl with stage := setAt s1.fl.stage g rest
                                         stageLfp := setAt s1.fl.stageLfp g (if rest.isEmpty then 0 else lfp + 1) } }
  let ended (j : RedJob) : Bool := decide (j.stage = 3 ∧ j.group = g) &&
    (match j.rid.bind (recOf s2 g) with
     | some r => decide (locLfp r.loc + (locOfs r.loc + 16 * r.len16 - 1) / 16384 ≤ lfp)
     | none => false)
  { s2 with red := { s2.red with jobs := s2.red.jobs.map (fun j => if ended j then { j with stage := 4 } else j) } }

/-- FLASH_PROGRAM_DONE (R407, R410, R413, R415): a page program on a die of an owned channel completes, or fails and
retires its block. -/
def execFlashProgramDone (c : Fin 32) (d : Fin 16) (what : Prog) (ok : Bool) (s : State) : Out :=
  let jr := match what with
    | .journal _ _ => true
    | _ => false
  if !chOwned s c.val || !dieUsed s c.val d.val then .next s
  else match programBlk s c.val d.val jr with
  | none => .next (flashRoCheck s)
  | some b =>
    let par := !jr && parityPage s c.val d.val b.next
    if !ok then .next (programFailed c.val d.val b s)
    else match what with
    | .parity =>
      if par && rowReady s c.val d.val b.set b.next then .next (progInto b false 4 0 0 (rowParity s c.val d.val b.set b.next) s).2 else .next s
    | .stage g =>
      if par || (s.fl.stage.getD g.val []).isEmpty || s.fl.stageLfp.getD g.val 0 == 0 then .next s
      else
        let r := progInto b false 1 g.val (s.fl.stageLfp.getD g.val 0) ((s.fl.stage.getD g.val []).take 16384) s
        .next (stageDone g.val r.1 r.2)
    | .journal g seq =>
      match jrnOf s g.val seq.toNat with
      | none => .next s
      | some e =>
        if !e.flashPending || !e.arrived then .next s
        else
          let l := entryPages e
          match journalPages c.val d.val g.val ((l.length + 16383) / 16384) l s with
          | none => .next s
          | some s1 => .next (s1 |> updJrn g.val seq.toNat (fun e => { e with flashPage := true, flashPending := false })
              |> jAckFree |> jRelease)
    | .move id lfp =>
      match moveOf s id with
      | none => .next s
      | some m =>
        match (if par || decide (m.step ≠ 2) || m.toDisk then none else movePage s m lfp) with
        | none => .next s
        | some x =>
          let r := progInto b false 1 x.1 lfp x.2 s
          let s1 := updMove id (fun m => { m with done := m.done ++ [(x.1, lfp, r.1)] }) r.2
          .next (updMove id (fun m => if moveProgrammed m then { m with step := 3 } else m) s1)

/-- FLASH_ERASE_DONE (R412, R415): a FREE block is ERASED, or RETIRED when the erase fails. -/
def execFlashEraseDone (c : Fin 32) (d : Fin 16) (b : BitVec 16) (ok : Bool) (s : State) : Out :=
  let x := blkOf s c.val d.val b.toNat
  if !chOwned s c.val || !dieUsed s c.val d.val || decide (x.state ≠ 1) || decide ((chan s c.val).blocks ≤ b.toNat) then .next s
  else if ok then
    let s1 := s |> updBlk c.val d.val b.toNat (fun x => { x with state := 2, next := 0, reads := 0, erases := x.erases + 1,
                                                                 journal := false, refresh := false })
      |> memZero (pageAddr (ppa c.val d.val b.toNat 0)) (4096 * 32768)
    .next (setF (F.FC_DIE_PE_PCT c.val d.val) (dieWear s1 c.val d.val) s1)
  else
    let s1 := s |> retireBlk c.val d.val b.toNat |> setF (F.FC_ERR_ERASE c.val) 1 |> raise 9 0x0412 2 (16 * c.val + d.val) b.toNat
    .next (flashRoCheck (health 3 1 s1))

/-- The step of the ladder of R416 that a read of a page ends at: a retry step without a retry setting is not taken, a failed die
answers only through its row, the row must have its parity page, and 4 stands for a page that every step failed to recover, as one that a
bus clock above the trained rate corrupts (R113). -/
def ladderStep (s : State) (p step : Nat) : Nat :=
  let c := ppaCh p
  let x := blkOf s c (ppaDie p) (ppaBlk p)
  let t := if step = 1 ∧ retrySteps (chan s c) = 0 then 2 else step
  let t2 := if (getF s (F.FC_DIE_STATE c (ppaDie p)) = 4 ∨ s.bad.contains (pageKey p)) ∧ t < 3 then 3 else t
  if flashOver s = true ∨ (t2 = 3 ∧ (x.journal = true ∨ rowRebuilds s c x.set (bitsAt p 0 12) = false)) then 4 else t2

/-- FLASH_READ_DONE (R404, R416): a read of an LFP completes at a step of the recovery ladder (`step` 0 normal, 1 re-read,
2 soft, 3 rebuilt from the row, 4 not recovered). The commands that wait for it go on, or end with 0x0410. -/
def execFlashReadDone (g : Fin 2) (lfp : BitVec 34) (step : Fin 5) (s : State) : Out :=
  match ppaOf s g.val lfp.toNat with
  | none => .next s
  | some p =>
    let c := ppaCh p
    let d := ppaDie p
    let b := ppaBlk p
    if !chOwned s c then .next s
    else
      let t := ladderStep s p step.val
      let s1 := updBlk c d b (fun x => { x with reads := x.reads + 1
                                                refresh := x.refresh || decide (0 < t) || decide (rdDisturb (chan s c) ≤ x.reads + 1) }) s
      let s2 := if t = 0 then s1
        else if t = 4 then
          let s2 := s1 |> setF (F.FC_ERR_UNCORR c) 1 |> raise 9 0x0410 2 (16 * c + d) b
          health 1 1 s2
        else
          let s2 := s1 |> count (R.FC_RETRY_LO c) 1 |> (if t = 1 then setF (F.FC_ERR_RETRY c) 1 else id)
            |> (if t = 3 then setF (F.FC_ERR_PARITY_USED c) 1 else id)
          health 0 1 s2
      .next (needsDone (fun n => decide (n.kind = 0 ∧ n.a = g.val ∧ n.b = lfp.toNat)) (if t = 4 then some 0x0410 else none) s2)

/-- DIE_BUSY_TIMEOUT (R416): the die is failed; its pages are rebuilt through their rows. -/
def execDieBusyTimeout (c : Fin 32) (d : Fin 16) (s : State) : Out :=
  if !chOwned s c.val || !dieUsed s c.val d.val then .next s
  else
    let s1 := s |> setF (F.FC_DIE_STATE c.val d.val) 4 |> setF (F.FC_ERR_TIMEOUT c.val) 1
      |> updChan c.val (fun h => { h with dead := (d.val, 4) :: h.dead.filter (fun e => e.1 ≠ d.val) })
    .next (s1 |> setF (F.FC_DIES c.val) (diesUsed s1 c.val).length |> raise 9 0x0413 2 (16 * c.val + d.val) 0)

/-- FLASH_PATROL_TIMER (R416): every CLOSED block of the owned channels with FC_PATROL_EN has been read once; the blocks
of `weak`, which needed step 2 or later, and those whose reads reach RD_DISTURB are scheduled for refresh. -/
def execFlashPatrolTimer (weak : List (Nat × Nat × Nat)) (s : State) : Out :=
  if !engOn s 8 || !ctlMode s then .next s
  else
    let read (x : Blk) : Bool := decide (x.state = 4) && chOwned s x.ch && isSet s (F.FC_PATROL_EN x.ch)
    .next { s with tier := { s.tier with blks := s.tier.blks.map (fun x =>
                    if read x then { x with reads := x.reads + 1
                                            refresh := x.refresh || weak.contains (x.ch, x.die, x.blk)
                                              || decide (rdDisturb (chan s x.ch) ≤ x.reads + 1) } else x) }
                   fl := { s.fl with patrol := false } }

/-! ### Racking -/

/-- HEAT_HALVING_TIMER (R421). -/
def execHeatHalvingTimer (s : State) : Out :=
  .next { s with tier := { s.tier with recs := s.tier.recs.map (fun r => { r with heat := r.heat / 2 }) } }

/-- RACK_MOVE_START (R421, R423 step 1): a kind takes its source by the table's rule. `c` is the channel of a flash
source or the actuator of a run; `band` is the target band of a run. -/
def execRackMoveStart (g : Fin 2) (kind : Fin 7) (c : Fin 32) (band : BitVec 24) (s : State) : Out :=
  .next (rackStart g.val kind.val c.val band.toNat s)

/-- RACK_SOURCE_READ_DONE (R423 step 2, R424): `bad` are the records whose read failed. -/
def execRackSourceReadDone (id : Nat) (bad : List Nat) (s : State) : Out :=
  match moveOf s id with
  | some m => if m.step = 1 then .next (rackSourceRead m bad s) else .next s
  | none => .next s

/-- RACK_TARGET_VERIFIED (R423 steps 4 and 5, R424): the target reads back as written and the move commits, or the copy
restarts. -/
def execRackTargetVerified (id : Nat) (ok : Bool) (s : State) : Out :=
  match moveOf s id with
  | none => .next s
  | some m =>
    if !holdsGroup s m.group || !(decide (m.step = 3) || (decide (m.step = 2) && !m.toDisk && moveProgrammed m)) then .next s
    else if ok then .next (rackCommit m s)
    else match m.tgtRun with
      | some t => .next (runFailed m t.1 t.2 s)
      | none => .next (rackRestart m s)

/-- FL_DIE_RETIRE commands whose die holds no mapped page any more complete (R434). -/
def dieRetireDone (s : State) : State :=
  let done := s.fl.retiring.filter (fun e => (diePages s e.2.1 e.2.2).isEmpty)
  let s1 := { s with fl := { s.fl with retiring := s.fl.retiring.filter (fun e => !(diePages s e.2.1 e.2.2).isEmpty) } }
  done.foldl (fun s e => mbxSetResult e.1 (resStatus 0) s) s1

/-- RACK_SOURCE_RELEASE (R425): once every read that looked up the source has completed, its pages are unmapped and its
block is FREE, or its run is FREE (R423 step 6). -/
def execRackSourceRelease (id : Nat) (s : State) : Out :=
  match moveOf s id with
  | none => .next s
  | some m =>
    if m.step ≠ 5 ∨ s.host.cmds.any (fun c => m.readers.contains c.id) = true then .next s
    else
      let s2 := moveRelease m s
      let s3 := if m.kind ≤ 3 ∧ rackStops s2 m.kind = true then setKind m.kind false s2 else s2
      .next (dieRetireDone s3)

/-! ### Capacity -/

/-- CAPACITY_ACCOUNT_TIMER (R428): the account goes to the partner. -/
def execCapacityAccountTimer (s : State) : Out :=
  if isSet s F.NAL_UP ∧ ctlMode s = true then
    .next (s |> nalSend 2 4 [(account s).1, (account s).2.1, (account s).2.2] |> roGive)
  else .next s

/-- CAPACITY_ACCOUNT_RECEIVED (R428): the partner's logical capacity, stored bytes and unreduced Vat bytes; free capacity
back above the reserve ends R429. -/
def execCapacityAccountReceived (cap stored unred : Nat) (s : State) : Out :=
  if isSet s F.NAL_UP then
    let s1 := { s with fl := { s.fl with partnerAcct := some (cap, stored, unred), exchanged := true, ownAcct := account s } }
    .next (if capShort s1 then s1 else setF F.RACK_CAP_FULL 0 s1)
  else .next s

/-! ### Commands (R434) -/

/-- Erase counts of the used blocks of the owned channels, with the unused ones as zeros: sum, highest, lowest, count. -/
def eraseStats (s : State) : Nat × Nat × Nat × Nat :=
  let own := s.tier.blks.filter (fun x => chOwned s x.ch && dieUsed s x.ch x.die)
  let n := (ownedChans s).foldl (fun n c => n + (chan s c).blocks * (diesUsed s c).length) 0
  let es := own.map (fun x => x.erases)
  (es.foldl (· + ·) 0, es.foldl max 0, if es.length < n then 0 else es.foldl min (es.headD 0), n)

/-- AVAIL_SPARE: the lowest over the owned channels (R431). -/
def availSpare (s : State) : Nat :=
  (ownedChans s).foldl (fun n c => min n (if (chan s c).spare0 = 0 then 100 else (chan s c).spare * 100 / (chan s c).spare0)) 100

/-- PCT_USED: the highest over the dies in use (R431). -/
def pctUsed (s : State) : Nat :=
  (ownedChans s).foldl (fun n c => (diesUsed s c).foldl (fun n d => max n (dieWear s c d)) n) 0

/-- LIFE_USED in 0.01 % units of 40 years, saturating (R432). -/
def lifeUsed (s : State) : Nat := min 65535 (s.tier.lifeMin * 10000 / (40 * 525960 * 1000000))

/-- This device's part of the health report: 512 bytes, with its counts (R431). -/
def healthPart (s : State) (partial_ : Bool) : List Byte :=
  let e := eraseStats s
  let raw := (ownedChans s).foldl (fun n c => n + (diesUsed s c).length * (chan s c).blocks * (chan s c).pages * 16384) 0
  let dead := (ownedChans s).foldl (fun n c => n + ((chan s c).dead.filter (fun x => x.2 = 4)).length) 0
  let used := (ownedChans s).foldl (fun n c => n + (diesUsed s c).length) 0
  let ret := (ownedChans s).foldl (fun n c => n + (chan s c).retiredBlks) 0
  let rated := (ownedChans s).foldl (fun n c => min n (ratedPe (chan s c))) 0xFFFFFFFF
  let counts := modAt (modAt s.tier.counts 8 (fun _ => s.tier.hostRead)) 9 (fun _ => s.tier.hostWritten)
  leBytes 2 1 ++ leBytes 1 (b2n (isSet s F.RACK_FLASH_RO) + 2 * b2n (isSet s F.RACK_CAP_FULL)) ++ leBytes 1 (availSpare s)
    ++ leBytes 1 10 ++ leBytes 1 (pctUsed s) ++ leBytes 1 (b2n partial_) ++ leBytes 1 0 ++ leBytes 8 raw
    ++ leBytes 8 (flashCap s) ++ leBytes 8 (diskCap s) ++ leBytes 8 (stored s 1) ++ leBytes 8 (stored s 2)
    ++ leBytes 8 (freeCap s) ++ leBytes 2 used ++ leBytes 2 dead ++ leBytes 4 ret
    ++ leBytes 4 (if e.2.2.2 = 0 then 0 else e.1 / e.2.2.2) ++ leBytes 4 e.2.1 ++ leBytes 4 e.2.2.1
    ++ leBytes 4 (if rated = 0xFFFFFFFF then 3000 else rated)
    ++ counts.flatMap (fun n => leBytes 8 (min (2 ^ 48 - 1) n)) ++ leBytes 2 (lifeUsed s) ++ leBytes 2 0
    ++ leBytes 4 s.tier.powerHours ++ leBytes 8 s.now.toNat ++ s.tier.tjHist.flatMap (leBytes 4)
    ++ s.tier.mechHist.flatMap (leBytes 4) ++ List.replicate 96 0

/-- Join the partner's part to this device's report: capacities, stored bytes and counts add up; AVAIL_SPARE takes the
lower, PCT_USED and LIFE_USED the higher, the mean erase count weighs the dies, TIER_STATE takes both. -/
def healthJoin (a b : List Byte) : List Byte :=
  let add (o n mx : Nat) : List Byte := leBytes n (min mx (leAt a o n + leAt b o n))
  let da := leAt a 0x38 2
  let db := leAt b 0x38 2
  let mean := if da + db = 0 then 0 else (leAt a 0x40 4 * da + leAt b 0x40 4 * db) / (da + db)
  let low := if db = 0 then leAt a 0x48 4 else if da = 0 then leAt b 0x48 4 else min (leAt a 0x48 4) (leAt b 0x48 4)
  leBytes 2 1 ++ leBytes 1 (leAt a 2 1 ||| leAt b 2 1) ++ leBytes 1 (min (leAt a 3 1) (leAt b 3 1)) ++ leBytes 1 10
    ++ leBytes 1 (max (leAt a 5 1) (leAt b 5 1)) ++ leBytes 1 0 ++ leBytes 1 0 ++ add 8 8 (2 ^ 64 - 1) ++ add 0x10 8 (2 ^ 64 - 1)
    ++ add 0x18 8 (2 ^ 64 - 1) ++ add 0x20 8 (2 ^ 64 - 1) ++ add 0x28 8 (2 ^ 64 - 1) ++ slice a 0x30 8 ++ add 0x38 2 65535
    ++ add 0x3A 2 65535 ++ add 0x3C 4 (2 ^ 32 - 1) ++ leBytes 4 mean ++ leBytes 4 (max (leAt a 0x44 4) (leAt b 0x44 4))
    ++ leBytes 4 low ++ leBytes 4 (min (leAt a 0x4C 4) (leAt b 0x4C 4))
    ++ (List.range 12).flatMap (fun i => add (0x50 + 8 * i) 8 (2 ^ 48 - 1))
    ++ leBytes 2 (max (leAt a 0xB0 2) (leAt b 0xB0 2)) ++ slice a 0xB2 (512 - 0xB2)

/-- TIER_HEALTH (R431): the report of the whole brick; without the partner's part, PARTIAL. -/
def execTierHealth (m : Fin 16) (partner : Option (List Byte)) (s : State) : Out :=
  .next (mbxRow m.val 0x0400 anyParam (fun _ s =>
    match (if isSet s F.NAL_UP then partner else none) with
    | some b => answerData (healthJoin (healthPart s false) (padTo 512 b)) s
    | none => answerData (healthPart s true) s) s)

/-- Write the writable fields of the six policy registers from their 24-byte image; RACK_JOURNAL_RES is RWL and stays
once committed (R12, R434). -/
def rackPolicy (l : List Byte) (s : State) : State :=
  let w (i : Nat) : Nat := leAt l (4 * i) 4
  let jr := if isSet s F.FPM_COMMITTED then getF s F.RACK_JOURNAL_RES else bitsAt (w 4) 0 16
  s |> wr R.RACK_CTL (BitVec.ofNat 32 (w 0 % 64)) |> wr R.RACK_GC_CFG (BitVec.ofNat 32 (w 1))
    |> wr R.RACK_COOL_CFG (BitVec.ofNat 32 (w 2)) |> wr R.RACK_WARM_CFG (BitVec.ofNat 32 (bitsAt (w 3) 16 16 * 65536 + w 3 % 256))
    |> wr R.RACK_RESERVE (BitVec.ofNat 32 (bitsAt (w 4) 16 16 * 65536 + jr)) |> wr R.RACK_PATROL (BitVec.ofNat 32 (w 5 % 256))

/-- RACK_POLICY_SET (R434). -/
def execRackPolicySet (m : Fin 16) (s : State) : Out :=
  .next (mbxRow m.val 0x0401 anyParam (fun c s => answer 0 (rackPolicy c.data s)) s)

/-- RACK_POLICY_GET (R434). -/
def execRackPolicyGet (m : Fin 16) (s : State) : Out :=
  .next (mbxRow m.val 0x0402 anyParam (fun _ s =>
    answerData ([R.RACK_CTL, R.RACK_GC_CFG, R.RACK_COOL_CFG, R.RACK_WARM_CFG, R.RACK_RESERVE, R.RACK_PATROL].flatMap
      (fun a => leBytes 4 (rdN s a))) s) s)

/-- The kind of a RACK_START. -/
def rackKind (k : Nat) (c : MbxCmd) : Bool := decide (par c 0 3 = k)

/-- RACK_START, kind 0 (R434). -/
def execRackStartGc (m : Fin 16) (s : State) : Out :=
  .next (mbxRow m.val 0x0403 (rackKind 0) (fun _ s => answer 0 (setKind 0 true s)) s)

/-- RACK_START, kind 1 (R434). -/
def execRackStartCooling (m : Fin 16) (s : State) : Out :=
  .next (mbxRow m.val 0x0403 (rackKind 1) (fun _ s => answer 0 (setKind 1 true s)) s)

/-- RACK_START, kind 2 (R434). -/
def execRackStartCompaction (m : Fin 16) (s : State) : Out :=
  .next (mbxRow m.val 0x0403 (rackKind 2) (fun _ s => answer 0 (setKind 2 true s)) s)

/-- RACK_START, kind 3: foreign data moves home (R426). -/
def execRackStartHoming (m : Fin 16) (s : State) : Out :=
  .next (mbxRow m.val 0x0403 (rackKind 3) (fun _ s => answer 0 (setKind 5 true s)) s)

/-- RACK_START, kind 4: a patrol pass (R416); a kind above 4 is no kind of the table and answers 0x0016 (R163). -/
def execRackStartPatrol (m : Fin 16) (s : State) : Out :=
  .next (mbxRow m.val 0x0403 (fun c => decide (4 ≤ par c 0 3)) (fun c s =>
    if par c 0 3 = 4 then answer 0 { s with fl := { s.fl with patrol := true } } else answer 0x0016 s) s)

/-- RUN_INFO (R418, R434). -/
def execRunInfo (m : Fin 16) (s : State) : Out :=
  .next (mbxRow m.val 0x0404 anyParam (fun c s =>
    let a := par c 0 2
    let b := par c 8 24
    if !owns s a then answer 0x0A11 s
    else if bandsOf s a ≠ 0 ∧ bandsOf s a ≤ b then answer 0x0016 s
    else answerData (runEntry (runOf s a b)) s) s)

/-- FL_DIE_RETIRE (R434): the die takes no new page and its mapped pages move off it; the command completes when none is
left. -/
def execFlDieRetire (m : Fin 16) (s : State) : Out :=
  .next (mbxRow m.val 0x0405 anyParam (fun c s =>
    let ch := par c 0 5
    let d := par c 8 4
    if !owns s (8 + ch) then answer 0x0A11 s
    else if !chOwned s ch || !(dieUsed s ch d || decide (getF s (F.FC_DIE_STATE ch d) = 4)) then answer 0x0016 s
    else
      let s1 := s |> setF (F.FC_DIE_STATE ch d) 2
        |> updChan ch (fun h => { h with dead := (d, 2) :: h.dead.filter (fun e => e.1 ≠ d) })
      let s2 := setF (F.FC_DIES ch) (diesUsed s1 ch).length s1
      if (diePages s2 ch d).isEmpty then answer 0 s2
      else ({ s2 with fl := { s2.fl with retiring := s2.fl.retiring ++ [(m.val, ch, d)] } }, none)) s)

/-- The 2,048 spare bytes of a page, raw (R407): beside each codeword's 4,096 data bytes, 8 bytes of page metadata and
504 parity bytes, whose values the spec does not state (free values). -/
def spareBytes (s : State) (p : Nat) : List Byte :=
  (List.range 4).flatMap (fun i => memRead s (pageAddr p + 16384 + 8 * i) 8
    ++ (List.range 63).flatMap (fun j => leBytes 8 (Config.freeValue (s.free + 63 * i + j)).toNat))

/-- FL_PAGE_READ (R434): the raw page goes to the requester's buffer. -/
def execFlPageRead (m : Fin 16) (s : State) : Out :=
  .next (mbxRow m.val 0x0406 anyParam (fun c s =>
    let p := par c 0 37
    let h := chan s (ppaCh p)
    if !owns s (8 + ppaCh p) then answer 0x0A11 s
    else if !chOwned s (ppaCh p) || !bitAt h.present (ppaDie p) || decide (h.blocks ≤ ppaBlk p ∨ h.pages ≤ bitsAt p 0 12) then
      answer 0x0419 s
    else ({ s with free := s.free + 252 },
      some ⟨0, [], 18432, 0, memRead s (pageAddr p) 16384 ++ spareBytes s p⟩)) s)

/-- FL_TABLE_LOAD (R416, R434): a table with a good CRC is kept and takes effect at the channel's next acquisition. -/
def execFlTableLoad (m : Fin 16) (s : State) : Out :=
  .next (mbxRow m.val 0x0407 anyParam (fun c s =>
    let t := c.ext
    if t.length ≠ 80 ∨ leAt t 0x4C 4 ≠ crc32c (t.take 0x4C) then answer 0x0016 s
    else ({ updChan (par c 0 5) (fun h => { h with tableNew := t }) s with free := s.free }, some ⟨0, [], 80, 0, []⟩)) s)

/-- FPM_COMMIT (R12, R506): the block's RWL fields lock. -/
def execFpmCommit (p : Path) (s : State) : Out :=
  .next (busAct p R.FPM_GCTL 1 (acc (setF F.FPM_COMMITTED 1)) s)

/-! ### Temperature history (R432) -/

/-- The bin of a temperature. -/
def tempBin (t : Int) : Nat := if t < -10 then 0 else min 27 ((t + 10) / 5).toNat

/-- One minute in a bin: the hours of a bin rise with each sixtieth sample, saturating. -/
def binMinute (k : Nat) (acc hist : List Nat) : List Nat × List Nat :=
  if acc.getD k 0 + 1 < 60 then (modAt acc k (· + 1), hist)
  else (modAt acc k (fun _ => 0), modAt hist k (fun n => min (2 ^ 32 - 1) (n + 1)))

/-- TEMP_SAMPLE_TIMER (R432, R522): Tj and the mechanism temperature in degrees Celsius, in every mode except Reset. -/
def execTempSampleTimer (mech : Int) (s : State) : Out :=
  if !live s then .next s
  else
    let tj := tjOf s
    let a := binMinute (tempBin tj) s.tier.tjAcc s.tier.tjHist
    let b := binMinute (tempBin mech) s.tier.mechAcc s.tier.mechHist
    let w := if tj = 80 then 1000000 else Config.lifeWeight tj
    .next { s with tier := { s.tier with tjAcc := a.1, tjHist := a.2, mechAcc := b.1, mechHist := b.2
                                         lifeMin := s.tier.lifeMin + w } }

/-- TEMP_HISTORY_HOURLY (R432): the history, and the power-on hours, go to the Vat. -/
def execTempHistoryHourly (s : State) : Out :=
  if !live s then .next s
  else .next { s with tier := { s.tier with savedTj := s.tier.tjHist, savedMech := s.tier.mechHist
                                            savedLife := s.tier.lifeMin
                                            powerHours := min (2 ^ 32 - 1) (s.tier.powerHours + 1) } }

end Sys2Proof.Machine
end

