-- ==== Sys2Proof/Machine/HostOps.lean ====
section
/-! DEFINITION. The host side's machinery: controllers and their completion queues (R300 to R304, R325), status mapping
(R334), asynchronous events (R304, R370), native completion rings (R314, R320, R325), commands at the Headgate (R326 to
R329), the asymmetric access states (R307), requests to the partner (R309, R534). -/

namespace Sys2Proof.Machine

/-! ### Controllers -/

/-- CNTLID of this device's PCIe controller (R300). -/
def pcieCtrl (s : State) : Nat := 0x1000 * (devNo s + 1)

/-- A controller by CNTLID. -/
def ctrlOf (s : State) (id : Nat) : Option NvCtrl := s.host.ctrls.find? (fun c => c.cntlid = id)

/-- Change a controller. -/
def updCtrl (id : Nat) (f : NvCtrl → NvCtrl) (s : State) : State :=
  { s with host := { s.host with ctrls := s.host.ctrls.map (fun c => if c.cntlid = id then f c else c) } }

/-- A controller without queues, as it is created: up to 128 I/O queue pairs are granted later. -/
def newCtrl (id kind : Nat) (nqn hid : List Byte) : NvCtrl :=
  { cntlid := id, kind := kind, hostNqn := nqn, hostId := hid, cc := 0, aqa := 0, asq := 0, acq := 0, kato := 0, kaAt := 0, sqs := [],
    cqs := [], aers := [], events := [], changed := [], granted := 0, coalesce := 0, asyncCfg := 0, rsvMask := 0,
    errLog := [], errCount := 0, rsvLog := [], receives := [] }

/-- A submission queue of a controller. -/
def sqOf (c : NvCtrl) (q : Nat) : Option NvSq := c.sqs.find? (fun x => x.id = q)

/-- A completion queue of a controller. -/
def cqOf (c : NvCtrl) (q : Nat) : Option NvCq := c.cqs.find? (fun x => x.id = q)

/-- Change a submission queue. -/
def updSq (id q : Nat) (f : NvSq → NvSq) (s : State) : State :=
  updCtrl id (fun c => { c with sqs := c.sqs.map (fun x => if x.id = q then f x else x) }) s

/-- Change a completion queue. -/
def updCq (id q : Nat) (f : NvCq → NvCq) (s : State) : State :=
  updCtrl id (fun c => { c with cqs := c.cqs.map (fun x => if x.id = q then f x else x) }) s

/-- I/O queue pairs in use over all controllers (R300). -/
def ioqUsed (s : State) : Nat :=
  s.host.ctrls.foldl (fun n c => n + (c.sqs.filter (fun q => q.id ≠ 0)).length) 0

/-- NVM_STATUS shows the queue pairs and controllers. -/
def nvmRefresh (s : State) : State :=
  s |> setF F.NVM_IOQ_USED (ioqUsed s)
    |> setF F.NVM_CTRL_FABRIC ((s.host.ctrls.filter (fun c => c.kind = 1)).length)
    |> setB F.NVM_CTRL_PCIE (s.host.ctrls.any (fun c => c.kind = 0 ∧ c.cc % 2 = 1))

/-- A volume is attached to a controller whose host NQN its access list holds (R370). -/
def attachedTo (c : NvCtrl) (v : Volume) : Bool := v.access.contains c.hostNqn

/-! ### Status mapping (R334) -/

/-- An NVMe status: status code, type and DNR, as the 15 bits above the phase. -/
def nvSt (sct sc dnr : Nat) : Nat := sc + 256 * sct + 2 ^ 14 * dnr

/-- The NVMe status of a device code; `rd` for reads. -/
def nvStatus (code : Nat) (rd : Bool) : Nat :=
  match code with
  | 0x0000 => 0
  | 0x0001 => 0
  | 0x0010 => nvSt 0 0x01 1
  | 0x0011 => nvSt 0 0x02 1
  | 0x0016 => nvSt 0 0x02 1
  | 0x0012 => nvSt 0 0x82 0
  | 0x0013 => nvSt 0 0x15 1
  | 0x0015 => nvSt 0 0x15 1
  | 0x0014 => nvSt 0 0x21 0
  | 0x0317 => nvSt 0 0x21 0
  | 0x0018 => nvSt 0 0x04 0
  | 0x0017 => nvSt 0 0x02 1
  | 0x001A => nvSt 0 0x02 1
  | 0x001B => nvSt 0 0x02 1
  | 0x001C => nvSt 0 0x02 1
  | 0x0019 => nvSt 0 0x21 0
  | 0x001D => nvSt 0 0x06 0
  | 0x0111 => nvSt 0 0x82 0
  | 0x0115 => nvSt 0 0x82 0
  | 0x0116 => nvSt 0 0x82 0
  | 0x0A15 => nvSt 0 0x82 0
  | 0x0310 => nvSt 2 0x81 1
  | 0x0613 => nvSt 0 0x07 0
  | 0x0614 => nvSt 0 0x07 0
  | 0x061D => nvSt 0 0x08 0
  | 0x0619 => nvSt 0 0x18 1
  | 0x061A => nvSt 0 0x80 1
  | 0x0A10 => nvSt 3 0x02 0
  | 0x061B => nvSt 3 0x03 0
  | 0x0818 => if rd then nvSt 2 0x81 1 else nvSt 0 0x06 1
  | 0x0410 => nvSt 2 0x81 1
  | 0x0415 => nvSt 0 0x81 0
  | 0x041A => nvSt 0 0x82 0
  | 0x0714 => nvSt 0 0x0B 1
  | 0x0715 => nvSt 0 0x20 1
  | 0x071F => nvSt 0 0x82 0
  | 0x0725 => nvSt 0 0x0B 1
  | _ =>
    match code / 256 with
    | 0x01 => nvSt 0 0x82 0
    | 0x03 => if rd then nvSt 2 0x81 1 else nvSt 2 0x80 1
    | 0x04 => nvSt 0 0x02 1
    | 0x07 => nvSt 0 0x02 1
    | 0x05 => nvSt 2 0x81 1
    | _ => nvSt 0 0x06 1

/-! ### NVMe completions -/

/-- Host memory answers: the PCIe link is up and the function may move data. -/
def hostReach (s : State) : Bool := isSet s F.SUP_STRAP_PCIE_EN && s.pcie.linkUp && !s.pcie.perst

/-- A completion queue is full. -/
def cqFull (q : NvCq) : Bool := decide ((q.tail + 1) % max 1 q.size = q.head)

/-- The 16 bytes of an NVMe completion entry. -/
def cqeBytes (sqhd sq cid st dw0 dw1 : Nat) (phase : Bool) : List Byte :=
  leBytes 4 dw0 ++ leBytes 4 dw1 ++ leBytes 2 sqhd ++ leBytes 2 sq ++ leBytes 2 cid ++ leBytes 2 (2 * st + b2n phase)

/-- The interrupt of a completion on a PCIe queue: at once, or coalesced (R302) up to the aggregation threshold; the
admin queue is never coalesced. -/
def cqIrq (id q : Nat) (s : State) : State :=
  match (ctrlOf s id).bind (fun c => (cqOf c q).map (fun x => (c, x))) with
  | none => s
  | some (c, x) =>
    if !x.irq then s
    else if q = 0 ∨ c.coalesce / 256 % 256 = 0 ∨ c.coalesce % 256 ≤ x.coalesced then
      s |> updCq id q (fun x => { x with coalesced := 0 }) |> msix x.vec
    else updCq id q (fun x => { x with coalesced := x.coalesced + 1 }) s

/-- Write a completion into its PCIe completion queue. -/
def cqeWrite (id : Nat) (sq : NvSq) (x : NvCq) (cid st dw0 dw1 : Nat) (s : State) : State :=
  let s1 := if hostReach s then
      memWrite (space 0 (x.base + 16 * x.tail)) (cqeBytes sq.head sq.id cid st dw0 dw1 x.phase) s else s
  s1 |> updCq id x.id (fun x =>
      { x with tail := (x.tail + 1) % max 1 x.size, phase := if x.tail + 1 = x.size then !x.phase else x.phase })
    |> cqIrq id x.id

/-- Post an NVMe completion: on the fabric it is sent; on PCIe it goes to the queue's completion queue, or is held, in
order, while that is full, with 0x0612 on the first of an episode (R325). -/
def nvPost (id q cid st dw0 dw1 : Nat) (s : State) : State :=
  match (ctrlOf s id).bind (fun c => (sqOf c q).map (fun x => (c, x))) with
  | none => s
  | some (c, sq) =>
    if c.kind ≠ 0 then send (.nvmeCqe id q cid st dw0 dw1) s
    else match cqOf c sq.cq with
    | none => s
    | some x =>
      if sq.held.isEmpty && !cqFull x then cqeWrite id sq x cid st dw0 dw1 s
      else
        let s1 := updSq id q (fun y => { y with held := y.held ++ [(cid, st, dw0, dw1)] }) s
        if sq.held.isEmpty then s1 |> (if x.irq then msix x.vec else fun s => s) |> raise 13 0x0612 2 q 0 else s1

/-- Post held completions of a controller while their completion queues have room, queue by queue in order. -/
def nvDrain (id q : Nat) : Nat → State → State
  | 0, s => s
  | n + 1, s =>
    match (ctrlOf s id).bind (fun c => (sqOf c q).bind (fun x => (cqOf c x.cq).map (fun y => (x, y)))) with
    | none => s
    | some (sq, x) =>
      match sq.held with
      | [] => s
      | h :: r =>
        if cqFull x then s
        else s |> updSq id q (fun y => { y with held := r }) |> cqeWrite id sq x h.1 h.2.1 h.2.2.1 h.2.2.2 |> nvDrain id q n

/-- Complete an NVMe command with a device code (R334): a failed one records its Error Information entry. -/
def nvDone (id q cid code : Nat) (rd : Bool) (s : State) : State :=
  let s1 := if code ≤ 1 then s else updCtrl id (fun c =>
    { c with errLog := ((c.errCount + 1, code, cid + 65536 * q, nvStatus code rd) :: c.errLog).take 64, errCount := c.errCount + 1 }) s
  nvPost id q cid (nvStatus code rd) 0 0 s1

/-- The device code that R334 maps to an NVMe status of its own: Invalid Command Opcode and Invalid Field in Command; 0 where it has none. -/
def codeOf (st : Nat) : Nat := if st % 2 ^ 11 = 1 then 0x0010 else if st % 2 ^ 11 = 2 then 0x0016 else 0

/-- Complete an NVMe command with an NVMe status of its own. -/
def nvFail (id q cid st : Nat) (s : State) : State :=
  nvPost id q cid st 0 0 (updCtrl id (fun c =>
    { c with errLog := ((c.errCount + 1, codeOf st, cid + 65536 * q, st) :: c.errLog).take 64, errCount := c.errCount + 1 }) s)

/-! ### Asynchronous events (R304, R307, R370) -/

/-- An asynchronous event of a controller: type 2 (notice) or 6 (reservation), information and log page; it completes a
held request, or waits for one. An event that already waits is not repeated. -/
def asyncEvent (id ty info page : Nat) (s : State) : State :=
  let ev := ty + 256 * info + 65536 * page
  match ctrlOf s id with
  | none => s
  | some c =>
    match c.aers with
    | a :: r => s |> updCtrl id (fun c => { c with aers := r }) |> nvPost id 0 a 0 ev 0
    | [] => if c.events.contains ev then s else updCtrl id (fun c => { c with events := c.events ++ [ev] }) s

/-- Namespace Attribute Changed and the Changed Namespace List entry on every controller of a host in `hosts` (R370). -/
def nsChanged (v : Nat) (hosts : List (List Byte)) (s : State) : State :=
  (s.host.ctrls.filter (fun c => c.kind ≠ 2 ∧ hosts.contains c.hostNqn = true)).foldl (fun s c =>
    let s1 := updCtrl c.cntlid (fun c => { c with changed := if c.changed.contains v then c.changed else c.changed ++ [v] }) s
    if bitAt c.asyncCfg 8 then asyncEvent c.cntlid 2 0 4 s1 else s1) s

/-- The Asymmetric Namespace Access Change event on every controller that serves commands. -/
def anaEvent (s : State) : State :=
  (s.host.ctrls.filter (fun c => c.kind ≠ 2)).foldl (fun s c =>
    if bitAt c.asyncCfg 11 then asyncEvent c.cntlid 2 3 0x0C s else s) s

/-! ### Asymmetric access (R307) -/

/-- The state that this device reports for ANA group `g + 1`: 1 Optimized, 2 Non-Optimized, 3 Inaccessible, 4 Change. -/
def anaState (s : State) (g : Nat) : Nat :=
  let r := tok s (4 + g)
  let up := isSet s F.NAL_UP
  if !live s || decide (mode s ≤ 1 ∨ mode s = 7) || (s.bring.active && !s.bring.replayed) then 3
  else if r.state = .releasing then 3
  else match s.pair.handover with
  | some h =>
    if h.giving then (if r.state = .owned then (if h.step = 2 then 4 else 1) else 3)
    else if r.state = .owned then 1 else if !up then 3 else if h.step = 2 then 4 else 2
  | none =>
    if r.state = .owned then
      (if s.pair.take = .won ∧ s.pair.takeGroups.contains g = true then 4
       else if mode s = 2 then 2 else 1)
    else if up then 2 else 3

/-- NVM_ANA takes the present states; a change sends its event (R307). -/
def anaRefresh (s : State) : State :=
  let a := anaState s 0
  let b := anaState s 1
  if a = getF s (F.NVM_ANA_STATE 0) ∧ b = getF s (F.NVM_ANA_STATE 1) then s
  else
    let s1 := s |> setF (F.NVM_ANA_STATE 0) a |> setF (F.NVM_ANA_STATE 1) b
    let s2 := if a = getF s (F.NVM_ANA_STATE 0) then s1 else send (.ana 1 a) s1
    let s3 := if b = getF s (F.NVM_ANA_STATE 1) then s2 else send (.ana 2 b) s2
    if admits s then anaEvent s3 else s3

/-! ### Native completion rings -/

/-- The record of native queue `q`. -/
def natOf (s : State) (q : Nat) : NatQ := s.host.natq.getD q NatQ.reset

/-- Change the record of native queue `q`. -/
def updNat (q : Nat) (f : NatQ → NatQ) (s : State) : State :=
  { s with host := { s.host with natq := modAt s.host.natq q f } }

/-- The size of a queue's rings. -/
def ringSize (x : NatQ) : Nat := 2 ^ x.log2

/-- Native memory of space `k` is reachable: host memory over a live PCIe link, DRAM and control memory always. -/
def spaceReach (s : State) (k : Nat) : Bool := decide (k ≠ 0) || hostReach s

/-- Read CQ_CONS from the index block. -/
def readCqCons (q : Nat) (s : State) : State :=
  let x := natOf s q
  if spaceReach s x.idxSpace then
    updNat q (fun y => { y with cqCons := leNat (memRead s (space x.idxSpace (x.idxAddr + 12)) 4) }) s
  else s

/-- The completion ring is full (R313). -/
def ringFull (x : NatQ) : Bool := decide ((x.cqProd + 2 ^ 32 - x.cqCons) % 2 ^ 32 ≥ ringSize x)

/-- Write one completion at CQ_PROD with its phase, then CQ_PROD (R314, R320). `b` has phase 0. -/
def ringWrite (q : Nat) (b : List Byte) (s : State) : State :=
  let x := natOf s q
  let ph := (x.cqProd / ringSize x) % 2 = 0
  let e := modAt b 6 (fun v => if ph then v ||| 1 else v)
  let p := (x.cqProd + 1) % 2 ^ 32
  let s1 := if spaceReach s x.cqSpace then spaceStore x.cqSpace (x.cqAddr + 16 * (x.cqProd % ringSize x)) e s else s
  let s2 := if spaceReach s x.idxSpace then spaceStore x.idxSpace (x.idxAddr + 8) (leBytes 4 p) s1 else s1
  s2 |> updNat q (fun x => { x with cqProd := p }) |> send (.nativeCqe q e)
    |> (if isSet s (F.Q_IRQ_EN q) then msix (getF s (F.Q_VEC q)) else fun s => s)

/-- Q_HELD and Q_CQ_STALL show the hold. -/
def heldRefresh (q : Nat) (s : State) : State :=
  let n := (natOf s q).held.length
  s |> setF (F.Q_HELD q) (min 127 n) |> setB (F.Q_CQ_STALL q) (decide (0 < n))

/-- Post held completions while the ring has room. -/
def natDrain (q : Nat) : Nat → State → State
  | 0, s => heldRefresh q s
  | n + 1, s =>
    let x := natOf s q
    match x.held with
    | [] => heldRefresh q s
    | b :: r => if ringFull x then heldRefresh q s else s |> updNat q (fun x => { x with held := r }) |> ringWrite q b |> natDrain q n

/-- Post a completion on a native queue, or hold it, in order, while the ring is full (R325). -/
def natPost (q : Nat) (b : List Byte) (s0 : State) : State :=
  let s := if ringFull (natOf s0 q) then s0 |> readCqCons q |> natDrain q 1100 else s0
  let x := natOf s q
  if x.held.isEmpty && !ringFull x then ringWrite q b s
  else
    let s1 := s |> updNat q (fun x => { x with held := x.held ++ [b] }) |> heldRefresh q
    if x.held.isEmpty then
      s1 |> setF (F.Q_CQ_STALL_SEEN q) 1 |> (if isSet s (F.Q_IRQ_EN q) then msix (getF s (F.Q_VEC q)) else fun s => s)
        |> raise 12 0x0612 2 q 0
    else s1

/-- The 16 bytes of a native completion, phase 0 (R320). -/
def natCqe (tag st idx info : Nat) (valid : Bool) : List Byte :=
  leBytes 4 tag ++ leBytes 2 st ++ leBytes 1 (2 * b2n valid) ++ leBytes 1 0 ++ leBytes 4 idx ++ leBytes 4 info

/-- An entry of a native queue completes: NOCOMP keeps back a success (R315). -/
def natDone (q idx tag st info : Nat) (valid nocomp : Bool) (s : State) : State :=
  if nocomp && decide (st ≤ 1) then s else natPost q (natCqe tag st idx info valid) s

/-- Entries of a native queue fetched and not yet completed: their indices. -/
def natOutstanding (s : State) (q : Nat) : List Nat :=
  (natOf s q).fetched.map (fun f => f.idx) ++ s.host.cmds.filterMap (fun c => match c.src with
    | .native p i => if p = q then some i else none
    | _ => none)

/-- Entries fetched from a queue and not completed, a FENCE entry among them (R167, R321). -/
def natFetched (s : State) (q : Nat) : List Nat := natOutstanding s q ++ ((natOf s q).fence.map (fun f => f.idx)).toList

/-- Every entry of a stopping queue has ended: the queue is STOPPED and its Q_STOP completes (R322). -/
def stopCheck (q : Nat) (s : State) : State :=
  if getF s (F.Q_STATE q) = 2 ∧ (natOutstanding s q).isEmpty = true ∧ (natOf s q).held.isEmpty = true then
    let s1 := s |> setF (F.Q_STATE q) 3 |> updNat q (fun x => { x with stopMbx := none, fence := none }) |> setF (F.Q_FENCE_WAIT q) 0
    match (natOf s q).stopMbx with
    | some m => mbxSetResult m (resStatus 0) s1
    | none => s1
  else s

/-- Latch an ERROR of a queue (R317, R322): index, number of entries of the chain, status; ERR_INDEX and ERR_STATUS go to
the index block. -/
def natError (q idx n st : Nat) (s : State) : State :=
  let x := natOf s q
  let s1 := if spaceReach s x.idxSpace then spaceStore x.idxSpace (x.idxAddr + 16) (leBytes 4 idx ++ leBytes 4 st) s else s
  s1 |> updNat q (fun x => { x with errIndex := idx, errLen := n, errStatus := st }) |> setF (F.Q_STATE q) 4
    |> setF (F.Q_ERR_SLOT q) (idx % ringSize x)

/-! ### Commands -/

/-- A command that nothing has happened to yet. -/
def newCmd (src : CmdSrc) (op : CmdOp) (v off len : Nat) (wr : Bool) : Cmd :=
  { id := 0, src := src, op := op, vol := v, off := off, len := len, wr := wr, whole := false, data := [], bufSpace := 0,
    buf := [], tag := 0, nocomp := false, chain := none, last := true, arrived := 0, stage := 0, status := none, info := 0,
    needs := [], canals := [], forwarded := false, drop := false, abort := false, host := [],
    held := false }

/-- Commands waiting at the Headgate. -/
def headgateUsed (s : State) : Nat := (s.host.cmds.filter (fun c => c.stage = 0)).length

/-- A command takes a Sluice entry: NOP and BAND take none (R326), and one handed to the partner passes only the owner's
Sluice (R309). -/
def takesEntry (c : Cmd) : Bool :=
  !c.forwarded && (match c.op with
    | .nop => false
    | .band _ _ => false
    | _ => true)

/-- Table entries in use. -/
def sluiceUsed (s : State) : Nat := (s.host.cmds.filter (fun c => decide (c.stage = 1 ∨ c.stage = 2) && takesEntry c)).length

/-- SLU_STATUS and the high-water marks follow; a full Headgate sets its flag (R329). -/
def sluRefresh (s : State) : State :=
  let h := min 1024 (headgateUsed s)
  let u := min 8192 (sluiceUsed s)
  s |> setF F.SLU_HEADGATE h |> setF F.SLU_USED u |> setF F.SLU_HWM_HEADGATE (max h (getF s F.SLU_HWM_HEADGATE))
    |> setF F.SLU_HWM_USED (max u (getF s F.SLU_HWM_USED))
    |> setF F.SLU_HEADGATE_FULL (max (getF s F.SLU_HEADGATE_FULL) (b2n (decide (1024 ≤ h))))

/-- A command enters the Headgate (R327), behind every earlier one; an NVMe entry keeps the number that it was fetched with. -/
def enter (c : Cmd) (s : State) : State :=
  let n := s.host.cmdNext
  let id := match c.src with
    | .nvme _ _ _ => s.host.nvTaken.getD n
    | _ => n
  sluRefresh { s with host := { s.host with cmds := s.host.cmds ++ [{ c with id := id, arrived := n }], cmdNext := n + 1, nvTaken := none } }

/-- The Headgate has no room: nothing is fetched and no capsule taken (R329). -/
def headgateFull (s : State) : Bool := decide (1024 ≤ headgateUsed s)

/-- The rounded chunk range of a command's key (R326): a first chunk and one past the last; the whole volume for
whole-volume entries. -/
def keyRange (c : Cmd) : Nat × Nat :=
  if c.whole then (0, 2 ^ 64) else (c.off / 8192, (c.off + max 1 c.len + 8191) / 8192)

/-- Two entries conflict (R326). A DEALLOCATE of several ranges has a key for each. -/
def conflicts (a b : Cmd) : Bool :=
  let ks (c : Cmd) : List (Nat × Nat) := match c.op with
    | .dealloc rs => if c.whole then [(0, 2 ^ 64)] else rs.map (fun r => (r.1 / 8192, (r.1 + max 1 r.2 + 8191) / 8192))
    | _ => [keyRange c]
  takesEntry a && takesEntry b && decide (a.vol = b.vol) && (a.wr || b.wr) &&
    (ks a).any (fun x => (ks b).any (fun y => decide (x.1 < y.2 ∧ y.1 < x.2)))

/-! ### Requests to the partner (R309, R404, R534) -/

/-- Send a request to the partner in class 3. -/
def askPartner (kind ref_ : Nat) (args : List Nat) (s : State) : State :=
  let n := s.host.reqNext
  nalSend 3 kind (n :: args) { s with host := { s.host with reqs := s.host.reqs ++ [⟨n, kind, ref_, args⟩], reqNext := n + 1 } }

/-- A mailbox command for a group that the partner holds is forwarded, or completes with 0x0A10 while the link is down
(R373). -/
def forwardMbx (m : Nat) (c : MbxCmd) (s : State) : State × Option MbxResult :=
  if isSet s F.NAL_UP then
    (askPartner 2 m ([c.opcode.toNat, c.flags.toNat, c.tag.toNat, c.len.toNat, c.dataLen.toNat, c.param.toNat]
      ++ c.data.map (fun b => b.toNat)) s, none)
  else answer 0x0A10 s

/-- Every request in flight completes with 0x0A10: the link is down and the partner alive (R309, R534). -/
def requestsLost (s : State) : State :=
  let rs := s.host.reqs
  let s1 := { s with host := { s.host with reqs := [] } }
  rs.foldl (fun s r => match r.kind with
    | 2 => mbxSetResult r.ref (resStatus 0x0A10) s
    | 0 => updCmd r.ref (fun c => { c with status := some 0x0A10 }) s
    | _ => updCmd r.ref (fun c => { c with needs := c.needs.filter (fun n => n.kind ≠ 2), status := some 0x0A10 }) s) s1

end Sys2Proof.Machine
end

