-- ==== Sys2Proof/Machine/Fetch.lean ====
section
/-! DEFINITION. Fetching submission entries: native rings (R312 to R319, R321, R325, R329) and NVMe queues over PCIe
(R302, R325, R329). -/

namespace Sys2Proof.Machine

/-! ### Native entries -/

/-- KIND of a native entry (R315). -/
def nKind (b : List Byte) : Nat := leAt b 0 1

/-- CHAIN. -/
def nChain (b : List Byte) : Bool := bitAt (leAt b 1 1) 0

/-- SGL. -/
def nSgl (b : List Byte) : Bool := bitAt (leAt b 1 1) 2

/-- A kind that works on a volume range. -/
def volKind (k : Nat) : Bool := decide (1 ≤ k ∧ k ≤ 5)

/-- An entry is malformed by its own fields, on queue `q` (R315 to R317). -/
def entryBad (s : State) (q : Nat) (b : List Byte) : Bool :=
  let k := nKind b
  let len := leAt b 16 4
  let spec := slice b 32 32
  let specZero := spec.all (fun x => x = 0)
  let gather := leAt b 32 2
  decide (¬(k = 0 ∨ (1 ≤ k ∧ k ≤ 5) ∨ k = 8 ∨ (0x20 ≤ k ∧ k ≤ 0x23) ∨ (0x40 ≤ k ∧ k ≤ 0x7F)))
  || (decide (0x40 ≤ k) && decide (32 ≤ q))
  || (decide (0x20 ≤ k ∧ k ≤ 0x23) && !isSet s (F.Q_EXPERT_KINDS q))
  || decide (8 ≤ leAt b 1 1) || decide (leAt b 21 3 ≠ 0) || decide (3 ≤ leAt b 20 1) || (decide (leAt b 20 1 = 2) && decide (32 ≤ q))
  || (!volKind k && decide (k < 0x40) && decide (leAt b 2 2 ≠ 0))
  || (volKind k && (decide (leAt b 8 8 % 512 ≠ 0) || decide (len % 512 ≠ 0 ∨ len = 0 ∨ 16777216 < len)))
  || (decide (k = 0 ∨ k = 3 ∨ k = 4 ∨ k = 5) && !specZero)
  || (decide (k = 1 ∨ k = 2) && ((slice spec 2 30).any (fun x => x ≠ 0) ||
       (if nSgl b then decide (gather = 0 ∨ 256 < gather) else decide (gather ≠ 0))))
  || (nSgl b && decide (k ≠ 1 ∧ k ≠ 2))
  || (decide (k = 8) && (nChain b || decide (2 ^ 18 ≤ len)))

/-- The bytes of the entry at an index: a copy from the push window, else the ring slot (R312, R319). -/
def entryAt (s : State) (q i : Nat) : List Byte :=
  let x := natOf s q
  match x.pushed.find? (fun p => p.1 = i) with
  | some p => p.2
  | none => memRead s (space x.sqSpace (x.sqAddr + 64 * (i % ringSize x))) 64

/-- Published entries that are not fetched. -/
def published (x : NatQ) : Nat := (x.sqProd + 2 ^ 32 - x.sqCons) % 2 ^ 32

/-- The run of entries from index `i` to the end of its chain, of at most `n` published ones and 65 in all: the entries
and whether the last ends the chain. -/
def chainRun (s : State) (q : Nat) : Nat → Nat → Nat → List (List Byte) × Bool
  | 0, _, _ => ([], false)
  | _, _, 0 => ([], false)
  | fuel + 1, i, n + 1 =>
    let b := entryAt s q i
    if nChain b then
      let r := chainRun s q fuel ((i + 1) % 2 ^ 32) n
      (b :: r.1, r.2)
    else ([b], true)

/-- Entries fetched and not yet taken by a row, native and NVMe: they count for the Headgate's room (R329). -/
def fetchedCount (s : State) : Nat := s.host.nvFetched.length + s.host.natq.foldl (fun n x => n + x.fetched.length) 0

/-- Room left at the Headgate. -/
def headRoom (s : State) : Nat := 1024 - (headgateUsed s + fetchedCount s)

/-- A native queue fetches: ACTIVE, no mailbox FENCE holds it, no FENCE waits, fewer than 64 completions held, its ring in
reach, and a device that admits. -/
def natFetches (s : State) (q : Nat) : Bool :=
  let x := natOf s q
  admits s && domOn s 10 && decide (getF s (F.Q_STATE q) = 1) && !isSet s (F.Q_FENCE_HOLD q) && x.fence.isNone
    && decide (x.held.length < 64) && spaceReach s x.sqSpace

/-- Write SQ_CONS to the index block (R314). -/
def putSqCons (q : Nat) (s : State) : State :=
  let x := natOf s q
  if spaceReach s x.idxSpace then spaceStore x.idxSpace (x.idxAddr + 4) (leBytes 4 x.sqCons) s else s

/-- The index of the `i`th entry after `a`. -/
def idxPlus (a i : Nat) : Nat := (a + i) % 2 ^ 32

/-- Fetch entries in index order, whole chains at a time, up to a FENCE, which NATIVE_FENCE fetches; a malformed entry or
chain stops the queue in ERROR with none of the chain taken (R314, R317, R318). -/
def natFetchLoop (q : Nat) : Nat → State → State
  | 0, s => s
  | fuel + 1, s =>
    let x := natOf s q
    let n := published x
    if n = 0 ∨ natFetches s q = false then s
    else
      let r := chainRun s q 65 x.sqCons n
      let full := decide (n = ringSize x)
      let bad := r.1.any (entryBad s q) || decide (64 < r.1.length) || (r.1.drop 1).any (fun b => nKind b = 8)
      if (r.2 = false ∧ 64 < r.1.length) ∨ (r.2 = false ∧ full = true) ∨ (r.2 = true ∧ bad = true) then
        natError q x.sqCons r.1.length 0x0610 s
      else if r.2 = false then s
      else if (r.1.head?.map nKind) = some 8 ∨ headRoom s < r.1.length then s
      else
        let ch := if 1 < r.1.length then some (q * 2 ^ 32 + x.chainNext) else none
        let fs := r.1.mapIdx (fun i b => (⟨q, idxPlus x.sqCons i, b, ch, decide (i + 1 = r.1.length)⟩ : Fetched))
        let s1 := updNat q (fun x => { x with fetched := x.fetched ++ fs, sqCons := idxPlus x.sqCons r.1.length,
                                              chainNext := (x.chainNext + 1) % 2 ^ 32,
                                              pushed := x.pushed.filter (fun p => !fs.any (fun f => f.idx = p.1)) }) s
        natFetchLoop q fuel (putSqCons q s1)

/-- Fetch what the queue can. -/
def natFetch (q : Nat) (s : State) : State := natFetchLoop q 1025 s

/-- Read SQ_PROD (R313): a difference beyond the size makes the queue malformed. -/
def readSqProd (q : Nat) (s : State) : State :=
  let x := natOf s q
  if !spaceReach s x.idxSpace then s
  else
    let p := leNat (memRead s (space x.idxSpace x.idxAddr) 4)
    let s1 := updNat q (fun x => { x with sqProd := p }) s
    if ringSize x < (p + 2 ^ 32 - x.sqCons) % 2 ^ 32 then
      natError q x.sqCons 1 0x0611 (updNat q (fun x => { x with sqProd := x.sqCons }) s1)
    else s1

/-! ### NVMe entries over PCIe -/

/-- Fetch one entry of an NVMe submission queue of the PCIe controller while it has one and there is room. -/
def nvFetchLoop (id q : Nat) : Nat → State → State
  | 0, s => s
  | fuel + 1, s =>
    match (ctrlOf s id).bind (fun c => (sqOf c q).map (fun x => (c, x))) with
    | none => s
    | some (c, x) =>
      if c.kind ≠ 0 ∨ x.head = x.tail ∨ x.stalled = true ∨ 64 ≤ x.held.length ∨ x.deleting.isSome = true
          ∨ (q ≠ 0 ∧ headRoom s = 0) ∨ admits s = false ∨ hostReach s = false ∨ domOn s 10 = false then s
      else
        let b := memRead s (space 0 (x.base + 64 * x.head)) 64
        let s1 := updSq id q (fun x => { x with head := (x.head + 1) % max 1 x.size }) s
        let n := s1.host.cmdNext
        nvFetchLoop id q fuel { s1 with host := { s1.host with nvFetched := s1.host.nvFetched ++ [(n, id, q, b)], cmdNext := n + 1 } }

/-- Fetch what an NVMe queue can. -/
def nvFetch (id q : Nat) (s : State) : State := nvFetchLoop id q 1025 s

/-- Fetching goes on wherever room has come (R325, R329). -/
def pump (s : State) : State :=
  let s1 := ((List.range 256).filter (fun q => getF s (F.Q_STATE q) = 1 ∧ published (natOf s q) ≠ 0)).foldl (fun s q => natFetch q s) s
  (s1.host.ctrls.filter (fun c => c.kind = 0)).foldl (fun s c => c.sqs.foldl (fun s x => nvFetch c.cntlid x.id s) s) s1

end Sys2Proof.Machine
end

