-- ==== Sys2Proof/Machine/Reduce.lean ====
section
/-! DEFINITION. The rows of "Data Reduction": a chunk's reduction from its start to its record (R337 to R354), the deferred
pass (R346), the backlog (R362), and the reduction commands (R366). -/

namespace Sys2Proof.Machine

/-! ### The filter (R343) -/

/-- The bits of a fingerprint in a filter half: block and position in one number. -/
def filterBits (fp : List Byte) : List Nat :=
  let b := leAt fp 0 4 % 8192
  [4, 6, 8, 10].map (fun o => b * 512 + leAt fp o 2 % 512)

/-- The active half of a group's filter. -/
def activeHalf (s : State) (g : Nat) : Nat := if g = 0 then getF s F.RED_FLT_HALF0 else getF s F.RED_FLT_HALF1

/-- A lookup hits in either half. -/
def filterHit (s : State) (g : Nat) (fp : List Byte) : Bool :=
  [0, 1].any (fun h => (filterBits fp).all (fun b => (s.red.filter.getD (2 * g + h) []).contains b))

/-- Insert a fingerprint into the active half; after 524,288 insertions the other half is cleared and becomes active. -/
def filterInsert (g : Nat) (fp : List Byte) (s : State) : State :=
  let h := activeHalf s g
  let n := getF s (F.RED_FLT_INS g) + 1
  let s1 := { s with red := { s.red with filter := modAt s.red.filter (2 * g + h) (fun l =>
    l ++ (filterBits fp).filter (fun b => !l.contains b)) } }
  if n < 524288 then setF (F.RED_FLT_INS g) n s1
  else
    { s1 with red := { s1.red with filter := setAt s1.red.filter (2 * g + (1 - h)) [] } }
      |> setF (F.RED_FLT_INS g) 0 |> setF (if g = 0 then F.RED_FLT_HALF0 else F.RED_FLT_HALF1) (1 - h)

/-- Both halves of both groups are empty. -/
def filterClear (s : State) : State :=
  { s with red := { s.red with filter := [[], [], [], []] } }
    |> setF (F.RED_FLT_INS 0) 0 |> setF (F.RED_FLT_INS 1) 0

/-! ### Jobs -/

/-- A job by number. -/
def jobOf (s : State) (id : Nat) : Option RedJob := s.red.jobs.find? (fun j => j.id = id)

/-- Change a job. -/
def updJob (id : Nat) (f : RedJob → RedJob) (s : State) : State :=
  { s with red := { s.red with jobs := s.red.jobs.map (fun j => if j.id = id then f j else j) } }

/-- A job ends: it leaves with its TENTATIVE entry. -/
def dropJob (id : Nat) (s : State) : State :=
  { s with red := { s.red with jobs := s.red.jobs.filter (fun j => j.id ≠ id), tent := s.red.tent.filter (fun t => t.2.2 ≠ id) } }

/-- Deduplication is deferred under the level rules (R362). -/
def deferring (s : State) : Bool := isSet s F.RED_DEFER_FORCE || isSet s F.RED_BACKLOG

/-- The policy that a reduction starts under (R339): its volume's; a volume that is gone needs none. -/
def volPolicy (s : State) (v : Nat) : RedPolicy :=
  match volOf s v with
  | some v => v.policy
  | none => ⟨1, false, 1, 2⟩

/-- The decision "stored unindexed", with or without an entry of the deferred log. -/
def decideStore (j : RedJob) (fp : List Byte) (defer : Bool) (s : State) : State :=
  updJob j.id (fun j => { j with stage := 0, fp := fp, unindexed := true, defer := defer, tentative := false }) s

/-- The index decision after a filter hit with the index page at hand (R344, R345). -/
def decideIndex (j : RedJob) (fp : List Byte) (s : State) : State :=
  match s.tier.idx.find? (fun e => e.group = j.group ∧ e.fp = fp) with
  | some e =>
    let s1 := filterInsert j.group fp s
    let ref := updJob j.id (fun j => { j with stage := 5, fp := fp, isRef := true, rid := some e.rid })
    if !j.policy.verify then ref s1
    else match recOf s j.group e.rid, recData s j.group e.rid with
      | some r, .ok d =>
        if locTier r.loc = 2 then decideStore j fp true s1
        else if d = j.data then ref s1
        else s1 |> count R.RED_COLLIDE_LO 1 |> raise 11 0x051C 2 j.group 0 |> decideStore j fp false
      | _, _ => decideStore j fp true s1
  | none =>
    if s.red.tent.any (fun t => t.1 = j.group ∧ t.2.1 = fp) then updJob j.id (fun j => { j with stage := 1, fp := fp }) s
    else
      let s1 := s |> count R.RED_FLT_FALSE_LO 1
        |> updJob j.id (fun j => { j with stage := 0, fp := fp, unindexed := false, defer := false, tentative := true })
      { s1 with red := { s1.red with tent := s1.red.tent ++ [(j.group, fp, j.id)] } }

/-- Steps 1 to 4 of R340 for a job. `cached`: the index page is in DRAM or the Table cache, which firmware decides. -/
def redDecide (cached : Bool) (j : RedJob) (s : State) : State :=
  if j.data.all (fun b => b = 0) then updJob j.id (fun j => { j with stage := 5, rid := none, isRef := false }) s
  else
    let fp := sha256 j.data
    let p := j.policy
    if p.dedup = 0 then decideStore j fp false s
    else if p.dedup = 2 ∨ deferring s = true ∨ filterHit s j.group fp = false then decideStore j fp true s
    else if cached then decideIndex j fp s
    else if j.small then updJob j.id (fun j => { j with stage := 2, fp := fp }) s
    else decideStore j fp true s

/-- A job that has decided nothing. -/
def newJob (g v c : Nat) (seq cmd : Option Nat) (data : List Byte) (small : Bool) : RedJob :=
  { id := 0, group := g, vol := v, chunk := c, seq := seq, cmd := cmd, data := data, fp := [], stage := 6, rid := none,
    isRef := false, unindexed := false, defer := false, tentative := false, loc := 0, hidden := false, small := small,
    policy := ⟨1, false, 1, 2⟩ }

/-- Add a job with the next number. -/
def addJob (j : RedJob) (s : State) : State :=
  { s with red := { s.red with jobs := s.red.jobs ++ [{ j with id := s.red.jobNext }], jobNext := s.red.jobNext + 1 } }

/-- The bytes of a chunk as entry `q` leaves it (R337, R350): newer layers taken off. -/
def chunkAfter (s : State) (g c q : Nat) (e : MapEnt) : Except Nat (List Byte) :=
  entBytes s g c (some { e with seqs := e.seqs.dropWhile (fun x => x ≠ q) }) 0 8192

/-- The map entry of the lineage that takes bytes of chunk `c` from entry `q`, the volume's own first. -/
def entryWith (s : State) (v : Volume) (c q : Nat) : Option MapEnt :=
  ((v.map :: s.volu.vols.flatMap (fun x => if x.group = v.group then x.map :: x.snaps.map (fun y => y.map) else [])).filterMap
    (fun m => mapGet m c)).find? (fun e => e.seqs.contains q)

/-- A read of a journal entry finds an uncorrectable unit (R452): the entry comes from the partner's mirror, else from
its flash journal page; else 0x0818 is logged and its writes are lost. -/
def recoverEntry (g q : Nat) (partnerHas : Bool) (s : State) : State :=
  match jrnOf s g q with
  | none => s
  | some e =>
    if (e.mirrored && isSet s F.NAL_UP && partnerHas) || e.flashPage || e.unreadable then s
    else s |> updJrn g q (fun e => { e with unreadable := true }) |> raise 19 0x0818 2 g 0

/-- The code of a failed read is logged once for a chunk (R535). -/
def logChunk (g v c code : Nat) (s : State) : State :=
  if s.red.loggedChunks.contains (v, c) then s
  else
    let s1 := raise 11 code 2 g 0 s
    { s1 with red := { s1.red with loggedChunks := (v, c) :: s1.red.loggedChunks } }

/-- Start the reduction of a chunk of a journal entry (R340, R350): in journal order per chunk, or the newest entry with
all that lies below it; an entry whose bytes no map takes any more gets a record without a reference. Older content
that cannot be read leaves the entry unreduced, logged once (R535). -/
def startEntry (g q c : Nat) (cached ue partnerHas : Bool) (s0 : State) : State :=
  let s := if ue then recoverEntry g q partnerHas s0 else s0
  match jrnOf s g q with
  | none => s
  | some e =>
    let busy := s.red.jobs.any (fun j => j.vol = e.volume ∧ j.chunk = c ∧ j.group = g)
    if e.kind ≠ 1 ∨ e.sealed = false ∨ e.chunks.contains c = false ∨ busy = true then s
    else match (volOf s e.volume).bind (fun v => entryWith s v c q) with
    | none =>
      let s1 := addJob (newJob g e.volume c (some q) none [] true) s
      updJob s.red.jobNext (fun j => { j with stage := 5 }) s1
    | some m =>
      let older := s.journal.any (fun x => !x.mirror && decide (x.group = g ∧ x.volume = e.volume) && x.chunks.contains c
        && seqNewer q x.seq.toNat)
      if older ∧ m.seqs.headD q ≠ q then s
      else match chunkAfter s g c q m with
      | .error code => logChunk g e.volume c code s
      | .ok d =>
        let j := { newJob g e.volume c (some q) none d true with id := s.red.jobNext, policy := volPolicy s e.volume }
        redDecide cached j (addJob j s)

/-- CHUNK_REDUCTION_START (R340, R344). `ue`: the read of the journal entry finds an uncorrectable unit, and `partnerHas`
whether the partner's mirror supplies it (R452). -/
def execChunkReductionStart (src : RedSrc) (cached ue partnerHas : Bool) (s : State) : Out :=
  if !engOn s 9 then .next s
  else match src with
  | .entry g seq c => if holdsGroup s g.val then .next (startEntry g.val seq.toNat c cached ue partnerHas s) else .next s
  | .job id =>
    match jobOf s id with
    | some j =>
      if j.stage = 6 then
        let p := volPolicy s j.vol
        .next (redDecide cached { j with policy := p } (updJob id (fun j => { j with policy := p }) s))
      else .next s
    | none => .next s

/-- TENTATIVE_RESOLVED (R344, R351): the entry that a lookup waits on has become DURABLE or is gone. -/
def execTentativeResolved (id : Nat) (s : State) : Out :=
  match jobOf s id with
  | some j =>
    if j.stage = 1 ∧ s.red.tent.any (fun t => t.1 = j.group ∧ t.2.1 = j.fp) = false then .next (redDecide true j s)
    else .next s
  | none => .next s

/-- INDEX_PAGE_READ_DONE (R344): a small write's lookup goes on. -/
def execIndexPageReadDone (id : Nat) (s : State) : Out :=
  match jobOf s id with
  | some j => if j.stage = 2 then .next (redDecide true j s) else .next s
  | none => .next s

/-! ### Coding and staging -/

/-- The coder and level of a chunk (R362): none for CODER 0; Deciq level 1 while RED_FAST_FORCE is set; else the policy
level under the coder's cap. -/
def coderLevel (s : State) (p : RedPolicy) : Nat × Nat :=
  if p.coder = 0 then (0, 0)
  else if isSet s F.RED_FAST_FORCE then (1, 1)
  else if p.coder = 1 then (1, min p.level (getF s F.RED_CAP_DQ)) else (2, min p.level (getF s F.RED_CAP_YW))

/-- Room for `n` more bytes in the pages set aside for the staging of a group; a further page is set aside while it
follows the last (at most 64), and an empty staging area starts at the next LFP. -/
def stageRoom (g n : Nat) (s : State) : Option State :=
  let nxt := s.tier.lfpNext.getD g 1
  if s.fl.stageLfp.getD g 0 = 0 then
    some { s with fl := { s.fl with stageLfp := setAt s.fl.stageLfp g nxt, stageEnd := setAt s.fl.stageEnd g (nxt + 2) }
                  tier := { s.tier with lfpNext := setAt s.tier.lfpNext g (nxt + 2) } }
  else
    let lfp := s.fl.stageLfp.getD g 0
    let e := s.fl.stageEnd.getD g 0
    if (s.fl.stage.getD g []).length + n ≤ (e - lfp) * 16384 then some s
    else if nxt = e ∧ e - lfp < 64 then
      some { s with fl := { s.fl with stageEnd := setAt s.fl.stageEnd g (e + 1) }
                    tier := { s.tier with lfpNext := setAt s.tier.lfpNext g (e + 1) } }
    else none

/-- Stage a record: its RID, its location, its table entry without a reference yet (R402). -/
def stageRecord (j : RedJob) (rec_ : List Byte) (s : State) : State :=
  match stageRoom j.group rec_.length s with
  | none => s
  | some s1 =>
    let len := (s1.fl.stage.getD j.group []).length
    let loc := flashLoc j.group (s1.fl.stageLfp.getD j.group 0 + len / 16384) (len % 16384)
    let rid := s1.tier.ridNext.getD j.group 1
    let s2 := { s1 with
      fl := { s1.fl with stage := modAt s1.fl.stage j.group (fun l => l ++ rec_) }
      tier := { s1.tier with ridNext := setAt s1.tier.ridNext j.group (rid + 1)
                             recs := ⟨j.group, rid, loc, 0, rec_.length / 16, 1, 0, s1.now.toNat⟩ :: s1.tier.recs } }
    s2 |> filterInsert j.group j.fp |> updJob j.id (fun j => { j with stage := 3, rid := some rid, loc := loc })

/-- The self-check of a coded payload (R354): it decodes to the chunk. -/
def selfCheck (coder : Nat) (payload data : List Byte) : Bool :=
  match decodePayload coder payload with
  | .ok d => decide (d = data)
  | .error _ => false

/-- CHUNK_CODED (R353, R354, R360): the coder's payload is staged, or the chunk raw when the policy says so, the payload is
too long, or the self-check fails. `faulty` is what a coder in error gave instead, which the self-check finds. -/
def execChunkCoded (id : Nat) (faulty : Option (List Byte)) (s : State) : Out :=
  match jobOf s id with
  | none => .next s
  | some j =>
    if j.stage ≠ 0 ∨ engOn s 9 = false then .next s
    else
      let cl := coderLevel s j.policy
      let payload := match faulty.filter (fun p => !selfCheck cl.1 p j.data) with
        | some p => p
        | none => encodePayload cl.1 cl.2 j.data
      let long := decide (8192 - min 4096 (getF s F.RED_RAW_MARGIN) < payload.length)
      let good := selfCheck cl.1 payload j.data
      let raw := decide (cl.1 = 0) || long || !good
      let s1 := if cl.1 ≠ 0 ∧ long = false ∧ good = false then raise 11 0x051B 1 j.group 0 s else s
      let s2 := if raw then count R.RED_RAW_LO 1 s1 else s1
      .next (flashRoCheck <| stageRecord j (if raw then mkRecord 0 cl.2 j.data j.data j.fp else mkRecord cl.1 cl.2 payload j.data j.fp) s2)

/-! ### The reduction record -/

/-- Replace entries in a map at one chunk, by identity. -/
def mapSwap (eids : List Nat) (c : Nat) (new : MapEnt → Option MapEnt) (m : List (Nat × MapEnt)) : List (Nat × MapEnt) :=
  m.filterMap (fun x => if x.1 = c ∧ eids.contains x.2.eid = true then (new x.2).map (fun e => (c, e)) else some x)

/-- Apply `f` to every map of a group: volumes, hidden images, snapshots. -/
def overMaps (g : Nat) (f : List (Nat × MapEnt) → List (Nat × MapEnt)) (s : State) : State :=
  { s with volu := { s.volu with vols := s.volu.vols.map (fun v => if v.group = g then
      { v with map := f v.map, hidden := f v.hidden, snaps := v.snaps.map (fun x => { x with map := f x.map }) } else v) } }

/-- The entries of chunk `c`, by identity, that name journal entry `q` as their newest (R350). -/
def entriesOn (s : State) (g c q : Nat) : List MapEnt :=
  ((s.volu.vols.filter (fun v => v.group = g)).flatMap (fun v =>
    (v.map :: v.hidden :: v.snaps.map (fun x => x.map)).filterMap (fun m => mapGet m c))).foldl
      (fun l e => if e.seqs.headD 0 = q ∧ e.seqs ≠ [] ∧ ¬ l.any (fun x => x.eid = e.eid) then l ++ [e] else l) []

/-- The entries that a job's record changes: those whose newest write it reduced; for a large write the volume's own. -/
def jobEntries (s : State) (j : RedJob) : List MapEnt :=
  match j.seq with
  | some q => entriesOn s j.group j.chunk q
  | none => ((volOf s j.vol).bind (fun v => mapGet v.map j.chunk)).toList

/-- A large write's chunk has an entry of its own before its record changes it. -/
def ownEntry (j : RedJob) (s : State) : State :=
  if j.seq.isSome then s
  else match volOf s j.vol with
  | none => s
  | some v =>
    let n := newEid s
    match mapGet v.map j.chunk with
    | none => if j.rid.isNone then s
      else updVol j.vol (fun v => { v with map := mapPut v.map j.chunk ⟨n.1, [], none, false, 0⟩ }) n.2
    | some e =>
      if 1 < holders s e.eid then
        updVol j.vol (fun v => { v with map := mapPut v.map j.chunk { e with eid := n.1, rid := none } }) n.2
      else s

/-- A record of a transfer takes its place in the replica's hidden image (R393). -/
def hiddenApply (j : RedJob) (s : State) : State :=
  match j.rid with
  | none => s
  | some r =>
    let n := newEid s
    let old := ((volOf s j.vol).bind (fun v => mapGet v.hidden j.chunk))
    let s1 := updVol j.vol (fun v => { v with hidden := mapPut v.hidden j.chunk ⟨n.1, [], some r, j.unindexed, leAt j.fp 0 4⟩ }) n.2
    let s2 := addRef j.group r s1
    let s3 := match old with
      | some e => entGone j.group e s2
      | none => s2
    if j.isRef ∨ j.defer = false then s3
    else { s3 with tier := { s3.tier with defer := s3.tier.defer ++ [⟨j.group, j.fp, r, j.vol, j.chunk⟩] } }

/-- The map change, both count changes and the index change of a record, together (R349). -/
def redApply (j : RedJob) (s : State) : State :=
  if j.hidden then hiddenApply j s else
  let s0 := ownEntry j s
  let es := jobEntries s0 j
  let eids := es.map (fun e => e.eid)
  let tag := leAt j.fp 0 4
  let s1 := overMaps j.group (mapSwap eids j.chunk (fun e => j.rid.map (fun r =>
    { e with seqs := [], rid := some r, unindexed := j.unindexed, tag := tag }))) s0
  let s2 := match j.rid with
    | some r => es.foldl (fun s _ => addRef j.group r s) s1
    | none => s1
  let s3 := es.foldl (fun s e => match e.rid with
    | some r => dropRef j.group r s
    | none => s) s2
  let s4 := match j.rid with
    | none => s3
    | some r =>
      if j.isRef then s3
      else if es.isEmpty then
        { s3 with tier := { s3.tier with recs := s3.tier.recs.filter (fun x => ¬(x.group = j.group ∧ x.rid = r)) } }
      else if j.tentative then { s3 with tier := { s3.tier with idx := s3.tier.idx ++ [⟨j.group, j.fp, r⟩] } }
      else if j.defer then
        { s3 with tier := { s3.tier with defer := s3.tier.defer ++ [⟨j.group, j.fp, r, j.vol, j.chunk⟩] } }
      else s3
  match j.seq with
  | some q => jCover j.group j.vol j.chunk q s4
  | none => jDrop j.group j.vol j.chunk s4

/-- The record of a programmed or decided chunk takes effect as one, with its counts (R349 to R352). -/
def recordTakes (j : RedJob) (s : State) : State :=
  let kib := if j.isRef then 0 else match j.rid.bind (recOf s j.group) with
    | some r => (16 * r.len16 + 1023) / 1024
    | none => 0
  let s1 := s |> redApply j |> dropJob j.id |> jRecord j.group 2
  let s2 := { s1 with tier := { s1.tier with recSeq := modAt s1.tier.recSeq j.group (· + 1) } }
  s2 |> count R.RED_CHUNKS_LO 1 |> count R.RED_DEDUP_INLINE_LO (b2n j.isRef) |> count R.RED_STORED_KIB_LO kib |> jRelease

/-- A pass over the deferred log of a group that this device holds. -/
def startPass (g : Nat) (s : State) : State :=
  if holdsGroup s g then
    let es := (s.tier.defer.filter (fun e => e.group = g)).map (fun e => (g, e.rid))
    { s with red := { s.red with pass := s.red.pass.filter (fun e => e.1 ≠ g) ++ es } }
  else s

/-- DEFERRED_PASS_TIMER (R421). -/
def execDeferredPassTimer (s : State) : Out := .next (s |> startPass 0 |> startPass 1)

/-- Take an entry out of the deferred log and out of the pass. -/
def dropDeferred (g rid : Nat) (s : State) : State :=
  { s with red := { s.red with pass := s.red.pass.filter (fun e => ¬(e.1 = g ∧ e.2 = rid)) }
           tier := { s.tier with defer := s.tier.defer.filter (fun e => ¬(e.group = g ∧ e.rid = rid)) } }

/-- A byte compare of the deferred pass; a record that fails R363 counts as unequal and is latched and logged
(R364). -/
def passCompare (g a b : Nat) (s : State) : Bool × State :=
  let side (r : Nat) (s : State) : State := match recOf s g r, recData s g r with
    | some e, .error code => s |> decodeFailed e.loc code |> raise 11 code 2 g 0
    | _, _ => s
  match recData s g a, recData s g b with
  | .ok x, .ok y => (decide (x = y), s)
  | _, _ => (false, s |> side a |> side b)

/-- The decision of the deferred pass on one log entry. -/
def passEntry (d : DefEnt) (s : State) : State :=
  let g := d.group
  match recOf s g d.rid with
  | none => dropDeferred g d.rid s
  | some r =>
    if r.refs = 0 then dropDeferred g d.rid s
    else match s.tier.idx.find? (fun e => e.group = g ∧ e.fp = d.fp) with
    | none =>
      if s.red.tent.any (fun t => t.1 = g ∧ t.2.1 = d.fp) then s
      else
        let s1 := overMaps g (fun m => m.map (fun x => if x.2.rid = some d.rid then (x.1, { x.2 with unindexed := false }) else x)) s
        { s1 with tier := { s1.tier with idx := s1.tier.idx ++ [⟨g, d.fp, d.rid⟩] } } |> filterInsert g d.fp |> jRecord g 2
          |> dropDeferred g d.rid
    | some e =>
      if e.rid = d.rid ∨ 1 < r.refs then dropDeferred g d.rid s
      else
        let c := passCompare g e.rid d.rid s
        if c.1 then
          let s1 := overMaps g (fun m => m.map (fun x =>
            if x.2.rid = some d.rid then (x.1, { x.2 with rid := some e.rid, unindexed := false }) else x)) c.2
          s1 |> addRef g e.rid |> dropRef g d.rid |> count R.RED_DEDUP_DEFER_LO 1 |> jRecord g 2 |> dropDeferred g d.rid
        else c.2 |> count R.RED_COLLIDE_LO 1 |> raise 11 0x051C 2 g 0 |> jRecord g 2 |> dropDeferred g d.rid

/-- DEFERRED_PASS_ENTRY (R346): the next entry of the pass. -/
def execDeferredPassEntry (s : State) : Out :=
  match s.red.pass with
  | [] => .next s
  | (g, rid) :: rest =>
    match s.tier.defer.find? (fun e => e.group = g ∧ e.rid = rid) with
    | some d => if holdsGroup s g && isSet s F.VAT_READY then .next (passEntry d s) else .next s
    | none => .next { s with red := { s.red with pass := rest } }

/-! ### The backlog (R362) -/

/-- RED_BACKLOG_HI in bytes; at or below RED_BACKLOG_LO it acts as RED_BACKLOG_LO + 1 MiB. -/
def backlogHi (s : State) : Nat := max (getF s F.RED_BACKLOG_HI) (getF s F.RED_BACKLOG_LO + 1) * 2 ^ 20

/-- Both caps one level lower, down to 1. -/
def capsDown (s : State) : State :=
  s |> setF F.RED_CAP_DQ (max 1 (getF s F.RED_CAP_DQ - 1)) |> setF F.RED_CAP_YW (max 1 (getF s F.RED_CAP_YW - 1))

/-- RED_BACKLOG_ONSET (R362). -/
def execRedBacklogOnset (s : State) : Out :=
  if engOn s 9 ∧ backlogHi s < unreduced s ∧ isSet s F.RED_BACKLOG = false then
    .next (s |> setF F.RED_BACKLOG 1 |> capsDown |> raise 11 0x051E 2 0xFFFF 0)
  else .next s

/-- RED_BACKLOG_STEP_TIMER (R362): one level down in a backlog, one level up after it. -/
def execRedBacklogStepTimer (s : State) : Out :=
  if !engOn s 9 then .next s
  else if isSet s F.RED_BACKLOG then .next (capsDown s)
  else .next (s |> setF F.RED_CAP_DQ (min 4 (getF s F.RED_CAP_DQ + 1)) |> setF F.RED_CAP_YW (min 9 (getF s F.RED_CAP_YW + 1)))

/-- RED_BACKLOG_RELEASE (R362). -/
def execRedBacklogRelease (s : State) : Out :=
  if isSet s F.RED_BACKLOG ∧ unreduced s < getF s F.RED_BACKLOG_LO * 2 ^ 20 then .next (setF F.RED_BACKLOG 0 s)
  else .next s

/-! ### Commands (R366) -/

/-- A policy that R366 accepts: no value 3, and a level of its coder's range. -/
def policyOk (p : RedPolicy) : Bool :=
  decide (p.dedup < 3 ∧ p.coder < 3) &&
  (match p.coder with
   | 1 => decide (1 ≤ p.level ∧ p.level ≤ 4)
   | 2 => decide (1 ≤ p.level ∧ p.level ≤ 9)
   | _ => true)

/-- RED_POLICY_SET (R339, R366). -/
def execRedPolicySet (m : Fin 16) (s : State) : Out :=
  .next (mbxRow m.val 0x0500 anyParam (fun c s =>
    let p : RedPolicy := ⟨par c 16 2, decide (par c 18 1 = 1), par c 20 2, par c 24 4⟩
    if !policyOk p then answer 0x0016 s
    else match volOf s (par c 0 15) with
    | none => answer 0x001B s
    | some v =>
      if !holdsGroup s v.group then answer 0x0A11 s
      else answer 0 (s |> updVol v.num (fun v => { v with policy := p }) |> jRecord v.group 4)) s)

/-- RED_POLICY_GET (R366). -/
def execRedPolicyGet (m : Fin 16) (s : State) : Out :=
  .next (mbxRow m.val 0x0501 anyParam (fun c s =>
    match volOf s (par c 0 15) with
    | none => answer 0x001B s
    | some v =>
      if !holdsGroup s v.group then answer 0x0A11 s
      else answerData (leBytes 4 (v.num + v.policy.dedup * 2 ^ 16 + b2n v.policy.verify * 2 ^ 18 + v.policy.coder * 2 ^ 20
        + v.policy.level * 2 ^ 24)) s) s)

/-- RED_STATS (R366). -/
def execRedStats (m : Fin 16) (s : State) : Out :=
  .next (mbxRow m.val 0x0502 anyParam (fun _ s =>
    answerData (leBytes 4 (rdN s R.RED_STATUS)
      ++ (List.range 8).flatMap (fun n => leBytes 8 (cntVal s (R.RED_CHUNKS_LO + 8 * n)))) s) s)

/-- RED_DEDUP_SCAN (R346, R366). -/
def execRedDedupScan (m : Fin 16) (s : State) : Out :=
  .next (mbxRow m.val 0x0503 anyParam (fun c s =>
    let g := par c 0 1
    if !holdsGroup s g then answer 0x0A11 s
    else answerData (leBytes 8 (s.tier.defer.filter (fun e => e.group = g)).length) (startPass g s)) s)

/-- RED_RECORD_READ (R366): the record at a location, as stored. -/
def execRedRecordRead (m : Fin 16) (s : State) : Out :=
  .next (mbxRow m.val 0x0504 anyParam (fun c s =>
    let l := c.param.toNat
    if !holdsGroup s (bitsAt l 61 1) then answer 0x0A11 s
    else match (s.tier.recs.find? (fun r => r.loc = l ∧ 0 < r.refs)).bind (recBytes s) with
    | none => answer 0x0419 s
    | some b => (s, some ⟨0, [], b.length, 0, b⟩)) s)

/-- RED_FLT_CLR (R343). -/
def execRedFltClr (p : Path) (s : State) : Out := .next (busAct p R.RED_CTL 4 (acc filterClear) s)

end Sys2Proof.Machine
end

