-- ==== Sys2Proof/Machine/Volumes.lean ====
section
/-! DEFINITION. The volume, snapshot and addressing commands of "Volumes, Snapshots and Canals" (R368 to R382, R399). -/

namespace Sys2Proof.Machine

/-! ### Shared checks -/

/-- The global handle of a volume; 0 while the brick identifier is unset (R381). -/
def handleOf (s : State) (v : Nat) : Nat :=
  match s.nv.brickId with
  | some b => b * 32768 + v
  | none => 0

/-- The default group of a create: the one whose token this device holds, 0 for both or neither (R368). -/
def defaultGroup (s : State) : Nat := if holdsGroup s 1 && !holdsGroup s 0 then 1 else 0

/-- A canal by number. -/
def canalOf (s : State) (id : Nat) : Option Canal := s.volu.canals.find? (fun c => c.id = id)

/-- Change a canal. -/
def updCanal (id : Nat) (f : Canal → Canal) (s : State) : State :=
  { s with volu := { s.volu with canals := s.volu.canals.map (fun c => if c.id = id then f c else c) } }

/-- The volume is being moved by the evacuation, or held at its cutover (R397). -/
def drainMoving (s : State) (v : Nat) : Bool := s.volu.drain.jobs.any (fun j => decide (j.vol = some v))
def drainHeld (s : State) (v : Nat) : Bool := s.volu.drain.jobs.any (fun j => j.hold && decide (j.vol = some v))

/-- A secured message of a canal (R386): KEY_UPDATE follows every 2^30 of them (R385). -/
def canalTx (id kind : Nat) (args : List Nat) (s : State) : State :=
  let s1 := send (.canal id kind args) s
  if (canalOf s id).any (fun c => decide (2 ^ 30 ≤ c.msgs + 1)) then
    s1 |> updCanal id (fun c => { c with msgs := 0 }) |> send (.spdm 2 0xE9 (leBytes 4 id))
  else updCanal id (fun c => { c with msgs := c.msgs + 1 }) s1

/-- Abandon a transfer with 0x0721, logged; the peer discards what it staged (R393, R394). -/
def abandon (id : Nat) (s : State) : State :=
  s |> updCanal id (fun c => { c with xfer := none }) |> canalTx id 10 [] |> raise 11 0x0721 2 0xFFFF id

/-- The volume group that a command of this chapter names, if it names one (R373). -/
def groupNamed (s : State) (c : MbxCmd) : Option Nat :=
  let op := c.opcode.toNat
  let ofV (v : Nat) : Option Nat := (volOf s v).map (fun x => x.group)
  if op = 0x0700 then some (if par c 17 1 = 1 then par c 16 1 else defaultGroup s)
  else if op = 0x0706 then ofV (leAt c.data 2 2)
  else if op = 0x0719 ∨ op = 0x071A ∨ op = 0x071C then (canalOf s (par c 0 10)).bind (fun x => ofV x.vol)
  else if op = 0x0705 ∨ op = 0x0710 ∨ op = 0x0711 ∨ op = 0x071D then none
  else ofV (par c 0 15)

/-- No command of the chapter for the same group with an older sequence number is still without its completion
(R373). -/
def volTurn (s : State) (m : Nat) : Bool :=
  match groupNamed s (mbxAt s m).cmd with
  | none => true
  | some g => (List.range 16).all (fun k =>
      !(decide (k ≠ m ∧ (mbxState s k = 1 ∨ mbxState s k = 2) ∧ (mbxAt s k).cmd.opcode.toNat / 256 = 7)
        && (mbxAt s k).result.isNone && decide (groupNamed s (mbxAt s k).cmd = some g)
        && newer 32 (mbxAt s m).seq.toNat (mbxAt s k).seq.toNat))

/-- A row of this chapter: in its turn; for a group that the partner holds it is forwarded (R373). -/
def volRow (m op : Nat) (sel : MbxCmd → Bool) (f : MbxCmd → State → State × Option MbxResult) (s : State) : State :=
  if !volTurn s m then s
  else mbxRow m op sel (fun c s =>
    match groupNamed s c with
    | some g => if holdsGroup s g then f c s else if (mbxAt s m).req.isSome then answer 0x0A11 s else forwardMbx m c s
    | none => f c s) s

/-- The volume that a command names: 0x0016 for the number 0, which no volume can have, 0x0714 for one that does not exist. -/
def volNamed (s : State) (n : Nat) : Except Nat Volume :=
  if n = 0 then .error 0x0016 else match volOf s n with
  | none => .error 0x0714
  | some v => .ok v

/-- The size is one that R368 allows. -/
def sizeOk (n : Nat) : Bool := decide (2 ^ 20 ≤ n ∧ n ≤ 2 ^ 48 ∧ n % 2 ^ 20 = 0)

/-- A global volume handle that R381 can form. -/
def handleOk (h : Nat) : Bool := decide (h % 32768 ≠ 0 ∧ h / 32768 ≤ 131070)

/-- The lowest volume number that is free. -/
def freeVol (s : State) : Option Nat := ((List.range 32767).find? (fun i => (volOf s (i + 1)).isNone)).map (· + 1)

/-- A generated NGUID (R368): its bytes are the device's own choice (free values), with the volume number, which keeps it
unique in the brick and not zero. -/
def makeNguid (v : Nat) (s : State) : List Byte × State :=
  let a := takeFree s
  let b := takeFree a.2
  (leBytes 8 a.1.toNat ++ leBytes 6 b.1.toNat ++ leBytes 2 v, b.2)

/-- A volume as it is created (R368, R369). -/
def newVolume (v g size fmt kind src : Nat) (nguid : List Byte) (s : State) : Volume :=
  { num := v, group := g, size := size, fmt := fmt, nguid := nguid, kind := kind, policy := ⟨1, false, 1, 2⟩, access := [],
    map := [], snaps := [], nextGen := 1, created := s.now.toNat, srcHandle := src, promoted := false, hidden := [],
    applied := 0, commitGen := 0, hostWrites := false, resv := ⟨[], none, 0, 0, false⟩ }

/-- Add a volume record, committed in the Vat and mirrored (R374). -/
def addVolume (v : Volume) (s : State) : State :=
  jRecord v.group 4 { s with volu := { s.volu with vols := s.volu.vols ++ [v] } }

/-- Some canal of the volume is not CLOSED. -/
def canalOn (s : State) (v : Nat) : Bool := s.volu.canals.any (fun c => c.vol = v ∧ c.state ≠ 5)

/-- The chunks of a map leave it: references and journalled bytes go (R342, R535). -/
def mapGone (g v : Nat) (m : List (Nat × MapEnt)) (s : State) : State :=
  m.foldl (fun s e => s |> entGone g e.2 |> jDrop g v e.1) s

/-- Remove a volume with its snapshots (R372). -/
def removeVolume (v : Volume) (s : State) : State :=
  let s1 := { s with volu := { s.volu with vols := s.volu.vols.filter (fun x => x.num ≠ v.num) } }
  let s2 := v.snaps.foldl (fun s x => mapGone v.group v.num x.map s) (mapGone v.group v.num v.map s1)
  s2 |> mapGone v.group v.num v.hidden |> jRecord v.group 4 |> jRelease

/-! ### Volume commands -/

/-- VOL_CREATE (R368, R399). -/
def execVolCreate (m : Fin 16) (s : State) : Out :=
  .next (volRow m.val 0x0700 anyParam (fun c s =>
    let v := par c 0 15
    let g := if par c 17 1 = 1 then par c 16 1 else defaultGroup s
    let rep := decide (par c 19 1 = 1)
    let size := leAt c.data 0 8
    let ng := slice c.data 8 16
    if c.data.length ≠ (if rep then 28 else 24) then answer 0x0011 s
    else if !sizeOk size ∨ (rep = true ∧ handleOk (leAt c.data 24 4) = false) then answer 0x0016 s
    else if mode s = 6 then answer 0x0723 s
    else if v ≠ 0 ∧ (volOf s v).isSome then answer 0x0710 s
    else match (if v = 0 then freeVol s else some v) with
    | none => answer 0x0711 s
    | some n =>
      let x := if ng.all (fun b => b = 0) then makeNguid n s else (ng, s)
      answerData (leBytes 4 (handleOf s n))
        (addVolume (newVolume n g size (par c 18 1) (if rep then 2 else 0) (if rep then leAt c.data 24 4 else 0) x.1 s) x.2)) s)

/-- VOL_DELETE (R372): a class-W entry over the whole volume. -/
def execVolDelete (m : Fin 16) (s : State) : Out :=
  .next (volRow m.val 0x0701 anyParam (fun c s =>
    match volNamed s (par c 0 15) with
    | .error e => answer e s
    | .ok v =>
      if !v.snaps.isEmpty ∧ par c 16 1 = 0 then answer 0x0717 s
      else if canalOn s v.num then answer 0x0716 s
      else (enter { newCmd (.mbox m.val) (.volDelete (decide (par c 16 1 = 1))) v.num 0 v.size true with whole := true } s, none)) s)

/-- VOL_RESIZE (R371): growth at once, a shrink through an entry over the range removed. -/
def execVolResize (m : Fin 16) (s : State) : Out :=
  .next (volRow m.val 0x0702 anyParam (fun c s =>
    let n := leAt c.data 0 8
    match volNamed s (par c 0 15) with
    | .error e => answer e s
    | .ok v =>
      if !sizeOk n then answer 0x0016 s
      else if v.size ≤ n then answer 0 (s |> updVol v.num (fun v => { v with size := n }) |> jRecord v.group 4)
      else (enter (newCmd (.mbox m.val) (.volShrink n) v.num n (v.size - n) true) s, none)) s)

/-- The add bit of VOL_ACCESS. -/
def accessAdd (b : Nat) (c : MbxCmd) : Bool := decide (par c 16 1 = b)

/-- VOL_ACCESS, add (R370): at once, with the event on the controllers affected. -/
def execVolAccessAdd (m : Fin 16) (s : State) : Out :=
  .next (volRow m.val 0x0703 (accessAdd 1) (fun c s =>
    match volNamed s (par c 0 15) with
    | .error e => answer e s
    | .ok v =>
      if v.access.contains c.data then answer 0 s
      else if 64 ≤ v.access.length then answer 0x0726 s
      else answer 0 (s |> updVol v.num (fun v => { v with access := v.access ++ [c.data] }) |> jRecord v.group 4
        |> nsChanged v.num [c.data])) s)

/-- VOL_ACCESS, remove (R370). -/
def execVolAccessRemove (m : Fin 16) (s : State) : Out :=
  .next (volRow m.val 0x0703 (accessAdd 0) (fun c s =>
    match volNamed s (par c 0 15) with
    | .error e => answer e s
    | .ok v =>
      if !v.access.contains c.data then answer 0x001B s
      else answer 0 (s |> updVol v.num (fun v => { v with access := v.access.filter (fun x => x ≠ c.data) })
        |> jRecord v.group 4 |> nsChanged v.num [c.data])) s)

/-- The distinct records that a map names. -/
def distinctRids (m : List (Nat × MapEnt)) : List Nat :=
  (m.filterMap (fun e => e.2.rid)).foldl (fun l r => if l.contains r then l else l ++ [r]) []

/-- VOL_INFO (R399). -/
def execVolInfo (m : Fin 16) (s : State) : Out :=
  .next (volRow m.val 0x0704 anyParam (fun c s =>
    match volNamed s (par c 0 15) with
    | .error e => answer e s
    | .ok v =>
      let fl := b2n (decide (v.kind = 2)) + 2 * b2n (decide (v.kind = 1)) + 4 * v.group + 8 * b2n (canalOn s v.num)
        + 16 * b2n (drainMoving s v.num)
      let st := (distinctRids v.map).foldl (fun n r => match recOf s v.group r with
        | some e => n + 16 * e.len16
        | none => n) 0
      answerData (leBytes 4 (handleOf s v.num) ++ leBytes 2 fl ++ leBytes 2 v.snaps.length ++ leBytes 8 v.size
        ++ leBytes 8 (8192 * v.map.length) ++ leBytes 8 st ++ padTo 16 v.nguid ++ leBytes 1 v.fmt ++ List.replicate 7 0
        ++ leBytes 8 v.created) s) s)

/-- Insert into an ascending list of numbers. -/
def insAsc (n : Nat) : List Nat → List Nat
  | [] => [n]
  | x :: l => if n < x then n :: x :: l else x :: insAsc n l

/-- VOL_LIST (R399). -/
def execVolList (m : Fin 16) (s : State) : Out :=
  .next (volRow m.val 0x0705 anyParam (fun c s =>
    let l := ((((s.volu.vols.map (fun v => v.num)).filter (fun n => par c 0 15 ≤ n)).foldl (fun a n => insAsc n a) [])).take 495
    answerData (leBytes 2 l.length ++ l.flatMap (leBytes 2)) s) s)

/-! ### Snapshots and clones -/

/-- Snapshots of the brick. -/
def brickSnaps (s : State) : Nat := s.volu.vols.foldl (fun n v => n + v.snaps.length) 0

/-- A snapshot of a volume by number. -/
def snapOf (v : Volume) (n : Nat) : Option Snapshot := v.snaps.find? (fun x => x.num = n)

/-- The snapshot that a command names, with its volume: 0x0016 for a number out of its range, 0x0714 for one that does not exist. -/
def snapNamed (s : State) (v n : Nat) : Except Nat (Volume × Snapshot) :=
  match volNamed s v with
  | .error e => .error e
  | .ok x => if n = 0 then .error 0x0016 else match snapOf x n with
    | none => .error 0x0714
    | some y => .ok (x, y)

/-- A snapshot of a volume by generation. -/
def snapByGen (v : Volume) (g : Nat) : Option Snapshot := v.snaps.find? (fun x => x.gen = g)

/-- Take a snapshot of a volume (R375): the lowest free number, the next generation, sharing the map; the limits of the
volume and of the brick. -/
def takeSnap (v : Volume) (canal : Option Nat) (s : State) : Except Nat (Snapshot × State) :=
  if 4095 ≤ v.snaps.length then .error 0x0712
  else if 1048575 ≤ brickSnaps s then .error 0x0713
  else
    let n := ((List.range 4095).find? (fun i => (snapOf v (i + 1)).isNone)).getD 0 + 1
    let x : Snapshot := ⟨n, v.nextGen, s.now.toNat, v.size, v.map, canal⟩
    .ok (x, s |> updVol v.num (fun v => { v with snaps := v.snaps ++ [x], nextGen := v.nextGen + 1 }) |> jRecord v.group 4)

/-- The volumes that a SNAP_TAKE names. -/
def takeVols (c : MbxCmd) : List Nat := (List.range (leAt c.data 0 2)).map (fun i => leAt c.data (2 + 2 * i) 2)

/-- SNAP_TAKE (R376): one take entry per volume, as one chain. -/
def execSnapTake (m : Fin 16) (s : State) : Out :=
  .next (volRow m.val 0x0706 anyParam (fun c s =>
    let n := leAt c.data 0 2
    let vs := takeVols c
    if n = 0 ∨ 64 < n ∨ c.data.length ≠ 2 + 2 * n then answer 0x0016 s
    else if mode s = 6 then answer 0x0723 s
    else if vs.any (fun v => decide (v = 0 ∨ 32767 < v)) then answer 0x0016 s
    else if vs.any (fun v => (volOf s v).isNone) then answer 0x0714 s
    else
      let g := ((volOf s (vs.headD 0)).map (fun v => v.group)).getD 0
      if vs.any (fun v => (volOf s v).any (fun x => x.group ≠ g)) then answer 0x0718 s
      else
        let ch := 2 ^ 32 + s.host.cmdNext
        let last := vs.length - 1
        ((vs.mapIdx (fun i v => (i, v))).foldl (fun s e =>
          enter { newCmd (.mbox m.val) .snapTake e.2 0 0 true with whole := true, chain := some ch, last := decide (e.1 = last) } s) s,
          none)) s)

/-- The transfer of a canal that uses a snapshot of its volume as base or as new image. -/
def snapInUse (s : State) (v gen : Nat) : Option Canal :=
  s.volu.canals.find? (fun c => c.source && decide (c.vol = v) && (match c.xfer with
    | some x => decide (x.base = gen ∨ x.new = gen)
    | none => false))

/-- Remove a snapshot record (R379). -/
def removeSnap (v : Volume) (x : Snapshot) (s : State) : State :=
  s |> updVol v.num (fun v => { v with snaps := v.snaps.filter (fun y => y.num ≠ x.num) }) |> mapGone v.group v.num x.map
    |> jRecord v.group 4 |> jRelease

/-- SNAP_DELETE (R379). -/
def execSnapDelete (m : Fin 16) (s : State) : Out :=
  .next (volRow m.val 0x0707 anyParam (fun c s =>
    match snapNamed s (par c 0 15) (par c 16 12) with
    | .error e => answer e s
    | .ok (v, x) =>
      match snapInUse s v.num x.gen with
      | none => answer 0 (removeSnap v x s)
      | some k =>
        if par c 28 1 = 0 then answer 0x0716 s
        else answer 0 (abandon k.id s |> removeSnap v x)) s)

/-- SNAP_RESTORE (R378): a class-W entry over the whole volume. -/
def execSnapRestore (m : Fin 16) (s : State) : Out :=
  .next (volRow m.val 0x0708 anyParam (fun c s =>
    match snapNamed s (par c 0 15) (par c 16 12) with
    | .error e => answer e s
    | .ok (v, x) =>
      (enter { newCmd (.mbox m.val) (.snapRestore x.num) v.num 0 (max v.size x.size) true with whole := true } s, none)) s)

/-- SNAP_CLONE (R377). -/
def execSnapClone (m : Fin 16) (s : State) : Out :=
  .next (volRow m.val 0x0709 anyParam (fun c s =>
    let n := par c 32 15
    match snapNamed s (par c 0 15) (par c 16 12) with
    | .error e => answer e s
    | .ok (v, x) =>
      if mode s = 6 then answer 0x0723 s
      else if n ≠ 0 ∧ (volOf s n).isSome then answer 0x0710 s
      else match (if n = 0 then freeVol s else some n) with
      | none => answer 0x0711 s
      | some k =>
        let g := makeNguid k s
        answerData (leBytes 4 (handleOf s k)) (addVolume { newVolume k v.group x.size v.fmt 1 0 g.1 s with map := x.map } g.2)) s)

/-- SNAP_LIST (R399). -/
def execSnapList (m : Fin 16) (s : State) : Out :=
  .next (volRow m.val 0x070A anyParam (fun c s =>
    match volNamed s (par c 0 15) with
    | .error e => answer e s
    | .ok v =>
      let l := (((v.snaps.map (fun x => x.num)).filter (fun n => par c 16 12 ≤ n)).foldl (fun a n => insAsc n a) []).take 61
      answerData (leBytes 2 l.length ++ leBytes 2 0 ++ l.flatMap (fun n => match snapOf v n with
        | some x => leBytes 2 n ++ leBytes 2 0 ++ leBytes 4 x.gen ++ leBytes 8 x.time
        | none => [])) s) s)

/-! ### Addressing -/

/-- BRICK_SET (R380): on one device of a pair in Full it writes both. -/
def execBrickSet (m : Fin 16) (s : State) : Out :=
  .next (volRow m.val 0x0710 anyParam (fun c s =>
    let b := par c 0 17
    if 131070 < b then answer 0x0016 s
    else
      let s1 := { s with nv := { s.nv with brickId := some b } }
      if mode s = 3 ∧ isSet s F.NAL_UP then
        answer 0 (nalSend 1 20 [b] { s1 with volu := { s1.volu with pairBrick := some b, brickDiffer := false } })
      else answer 0 { s1 with volu := { s1.volu with brickDiffer := (match s1.volu.pairBrick with
        | some p => decide (p ≠ b)
        | none => false) } }) s)

/-- The set bit of PEER_SET. -/
def peerSetBit (b : Nat) (c : MbxCmd) : Bool := decide (par c 0 1 = b)

/-- PEER_SET with set = 1 (R382). -/
def execPeerSet (m : Fin 16) (s : State) : Out :=
  .next (volRow m.val 0x0711 (peerSetBit 1) (fun c s =>
    let p : Peer := ⟨leAt c.data 0 4, leAt c.data 4 1, leAt c.data 6 2, slice c.data 8 16⟩
    if p.node = 0 ∨ 262142 < p.node ∨ (p.family ≠ 4 ∧ p.family ≠ 6) then answer 0x0016 s
    else
      let rest := s.volu.peers.filter (fun x => x.node ≠ p.node)
      if 1024 ≤ rest.length then answer 0x0727 s
      else answer 0 (nalSend 1 21 ([p.node, p.family, p.port] ++ p.addr.map (fun b => b.toNat)) { s with volu := { s.volu with peers := rest ++ [p] } })) s)

/-- PEER_SET with set = 0 (R382). -/
def execPeerRemove (m : Fin 16) (s : State) : Out :=
  .next (volRow m.val 0x0711 (peerSetBit 0) (fun c s =>
    let n := leAt c.data 0 4
    if !s.volu.peers.any (fun x => x.node = n) then answer 0x001B s
    else answer 0 (nalSend 1 21 [n] { s with volu := { s.volu with peers := s.volu.peers.filter (fun x => x.node ≠ n) } })) s)

/-! ### Map reads -/

/-- The 16-byte map entry of a chunk (R403). -/
def mapEntry (s : State) (e : Option MapEnt) : List Byte :=
  match e with
  | none => List.replicate 16 0
  | some x =>
    let sh := b2n (decide (1 < holders s x.eid))
    match x.seqs, x.rid with
    | q :: _, _ => leBytes 1 2 ++ leBytes 1 (sh + 2 * b2n x.unindexed) ++ leBytes 2 0 ++ leBytes 4 0 ++ leBytes 8 q
    | [], some r => leBytes 1 1 ++ leBytes 1 (sh + 2 * b2n x.unindexed) ++ leBytes 2 0 ++ leBytes 4 x.tag ++ leBytes 8 r
    | [], none => List.replicate 16 0

/-- VOL_MAP_READ (R403): entries from the first chunk on, as many as the buffer and the image hold. -/
def execVolMapRead (m : Fin 16) (s : State) : Out :=
  .next (volRow m.val 0x0720 anyParam (fun c s =>
    let sn := par c 16 12
    let first := par c 32 32
    match volNamed s (par c 0 15) with
    | .error e => answer e s
    | .ok v =>
      match (if sn = 0 then some (v.map, v.size) else (snapOf v sn).map (fun x => (x.map, x.size))) with
      | none => answer 0x0714 s
      | some (mp, sz) =>
        let n := min (c.dataLen.toNat / 16) (sz / 8192 - first)
        let l := (List.range n).flatMap (fun i => mapEntry s (mapGet mp (first + i)))
        (s, some ⟨0, [], l.length, 0, l⟩)) s)

/-- The chunks whose entry differs between two maps, ascending (R393). -/
def mapDiff (a b : List (Nat × MapEnt)) : List Nat :=
  let cs := (a.map (fun e => e.1) ++ b.map (fun e => e.1)).filter (fun c => decide (mapGet a c ≠ mapGet b c))
  cs.foldl (fun l c => if l.contains c then l else insAsc c l) []

/-- One FP_LIST entry: the chunk and its fingerprint; none for a zero chunk (R386). -/
def fpEntry (s : State) (g : Nat) (m : List (Nat × MapEnt)) (c : Nat) : Except Nat (Nat × List Byte) :=
  match mapGet m c with
  | none => .ok (c, [])
  | some e =>
    match entBytes s g c (some e) 0 8192 with
    | .error x => .error x
    | .ok d => if d.all (fun b => b = 0) then .ok (c, []) else .ok (c, sha256 d)

/-- The entries of a list of chunks, or the first read error. -/
def fpEntries (s : State) (g : Nat) (m : List (Nat × MapEnt)) : List Nat → Except Nat (List (Nat × List Byte))
  | [] => .ok []
  | c :: r =>
    match fpEntry s g m c, fpEntries s g m r with
    | .error x, _ => .error x
    | _, .error x => .error x
    | .ok a, .ok l => .ok (a :: l)

/-- The 40 bytes of an FP_LIST entry (R386). -/
def fpBytes (e : Nat × List Byte) : List Byte :=
  leBytes 8 (e.1 + (if e.2.isEmpty then 2 ^ 63 else 0)) ++ padTo 32 e.2

/-- SNAP_DIFF (R399). -/
def execSnapDiff (m : Fin 16) (s : State) : Out :=
  .next (volRow m.val 0x0721 anyParam (fun c s =>
    match volNamed s (par c 0 15) with
    | .error e => answer e s
    | .ok v =>
      match (if par c 16 12 = 0 then some [] else (snapOf v (par c 16 12)).map (fun x => x.map)), snapOf v (par c 32 12) with
      | some a, some b =>
        if par c 32 12 = 0 then answer 0x0016 s else
        match fpEntries s v.group b.map (mapDiff a b.map) with
        | .error e => answer e s
        | .ok l =>
          let bs := ((l.take (c.dataLen.toNat / 40)).flatMap fpBytes)
          (s, some ⟨0, [], bs.length, 0, bs⟩)
      | _, _ => answer 0x0714 s) s)

end Sys2Proof.Machine
end

