-- ==== Sys2Proof/Machine/Canals.lean ====
section
/-! DEFINITION. Canals between bricks (R383 to R396), the commands on them (R399), and the evacuation of a brick
(R397, R398). -/

namespace Sys2Proof.Machine

/-! ### Message kinds: the canal messages of R386 and what the device does with the connection -/

/-- The number of a canal's target end on this brick: one per replica volume, beyond the numbers of source ends. -/
def targetEnd (v : Nat) : Nat := 1024 + v

/-- The canal is a source end on a volume whose group this device holds (R388). -/
def ownsCanal (s : State) (c : Canal) : Bool := (volOf s c.vol).any (fun v => holdsGroup s v.group)

/-- The peer entries of the brick of a handle, its lower node identifier first (R382). -/
def peersOf (s : State) (h : Nat) : List Peer :=
  let n := 2 * (h / 32768) + 1
  [n, n + 1].filterMap (fun k => s.volu.peers.find? (fun p => p.node = k))

/-- Start a TCP connection to a peer entry (R384 step 2). -/
def connectTo (id : Nat) (p : Peer) (s : State) : State :=
  s |> updCanal id (fun c => { c with setup := 1, node := p.node, ask := none })
    |> send (.canal id 11 ([p.node, p.family, p.port] ++ p.addr.map (fun b => b.toNat)))

/-- Connect to the target brick (R382, R384 step 2). -/
def canalConnect (c : Canal) (s : State) : State :=
  match peersOf s c.handle with
  | [] => s
  | p :: _ => connectTo c.id p s

/-- The session of a target end is no more. -/
def canalSessEnd (id : Nat) (s : State) : State :=
  match (canalOf s id).bind (fun c => c.sess) with
  | none => s
  | some n => { s with spdm := { s.spdm with sessions := s.spdm.sessions.filter (fun x => x.sid ≠ n) } }

/-- Close the connection. -/
def canalDrop (id : Nat) (s : State) : State :=
  s |> canalSessEnd id |> updCanal id (fun c => { c with setup := 0, ask := none, sess := none, msgs := 0,
                                                         out := c.out.map (fun o => { o with sent := false }) })
    |> send (.canal id 12 [])

/-- The commands that wait for a canal's WRITE_ACKs. -/
def canalWaiters (s : State) (id : Nat) : List Cmd := s.host.cmds.filter (fun c => c.canals.any (fun k => k.1 = id))

/-- Commands wait for a canal no longer, for sequences that satisfy `p`; with a status when their copy failed. -/
def canalRelease (id : Nat) (p : Nat → Bool) (st : Option Nat) (s : State) : State :=
  { s with host := { s.host with cmds := s.host.cmds.map (fun c =>
      if c.canals.any (fun k => k.1 = id ∧ p k.2 = true) then
        { c with canals := c.canals.filter (fun k => ¬(k.1 = id ∧ p k.2 = true))
                 status := match st with
                   | some e => some e
                   | none => c.status }
      else c) } }

/-- Enter chunks in the dirty log of a canal (R391). -/
def enterDirty (id : Nat) (cs : List Nat) (s : State) : State := updCanal id (canalDirty cs) s

/-- The policy decides the WRITEs that wait (R390): STRICT fails them with 0x071F; FALLBACK leaves them to their local
condition and enters their chunks in the dirty log. A canal in OPENING or DIVERGED keeps its state. -/
def canalPolicy (c : Canal) (s : State) : State :=
  let down (k : Canal) : Canal := { k with state := if k.state = 1 ∨ k.state = 2 ∨ k.state = 3 then (if k.sync && k.fallback then 2 else 3) else k.state }
  if c.sync && c.fallback then
    let cs := c.out.flatMap (fun o => chunksOf o.off o.len)
    s |> canalRelease c.id (fun _ => true) none |> enterDirty c.id cs |> updCanal c.id (fun k => down { k with out := [] })
  else s |> canalRelease c.id (fun _ => true) (some 0x071F) |> updCanal c.id down

/-- The chunks of a transfer that the source still has to send. -/
def xferPending (c : Canal) : List Nat :=
  match c.xfer with
  | some x => (x.list.drop x.pos).map (fun e => e.1)
  | none => []

/-- Send the WRITEs that may go, in order: on an open connection, each after the chunks that it overlaps (R389,
R391). -/
def flushList (id : Nat) (pend : List Nat) : List CanalOut → State → List CanalOut × State
  | [], s => ([], s)
  | o :: r, s =>
    if o.sent then
      let x := flushList id pend r s
      (o :: x.1, x.2)
    else if (chunksOf o.off o.len).any (fun c => pend.contains c) then (o :: r, s)
    else
      let x := flushList id pend r (canalTx id 2 ([o.seq, o.off, o.len] ++ o.data.map (fun b => b.toNat)) s)
      ({ o with sent := true } :: x.1, x.2)

/-- Send what may go on a canal. -/
def canalFlush (id : Nat) (s : State) : State :=
  match canalOf s id with
  | none => s
  | some c =>
    if c.setup ≠ 7 then s
    else
      let x := flushList id (xferPending c) c.out s
      updCanal id (fun c => { c with out := x.1 }) x.2

/-- A WRITE enters a canal: it takes the next sequence, is sent when it may, and the answer is its sequence. -/
def canalSend (id off len : Nat) (data : List Byte) (s : State) : Nat × State :=
  match canalOf s id with
  | none => (0, s)
  | some c =>
    let q := c.seq + 1
    (q, s |> updCanal id (fun c => { c with seq := q, out := c.out ++ [⟨q, off, len, data, false⟩] }) |> canalFlush id)

/-! ### Opening -/

/-- Canals of this brick that are not CLOSED. -/
def canalsOpen (s : State) : Nat := (s.volu.canals.filter (fun c => c.source ∧ c.state ≠ 5)).length

/-- A source end's lowest number that is free or CLOSED. -/
def freeCanal (s : State) : Option Nat :=
  (List.range 1024).find? (fun i => !s.volu.canals.any (fun c => c.id = i ∧ c.state ≠ 5))

/-- A new canal end. -/
def newCanal (id : Nat) (source : Bool) (v handle : Nat) (sync fallback : Bool) (tmo reattest period : Nat) : Canal :=
  { id := id, source := source, vol := v, handle := handle, sync := sync, fallback := fallback, tmo := tmo,
    reattest := reattest, period := period, state := 0, setup := 0, node := 0, seq := 0, acked := 0, gen := 0, dirty := [],
    dirtyAll := false, xfer := none, formats := 0, everOpen := false, resync := false, mbx := none, out := [], ask := none, sess := none, msgs := 0 }

/-- Put a canal into the list in place of its number's former one. -/
def putCanal (c : Canal) (s : State) : State :=
  { s with volu := { s.volu with canals := s.volu.canals.filter (fun x => x.id ≠ c.id) ++ [c] } }

/-- The peer table names a node of the brick of a handle (R382). -/
def peerOfHandle (s : State) (h : Nat) : Bool := s.volu.peers.any (fun p => (p.node - 1) / 2 = h / 32768)

/-- Canal service of this device: 0x0719 without a brick identifier, 0x071A while the pair's differ (R380). -/
def canalRefusal (s : State) : Option Nat :=
  if s.nv.brickId.isNone then some 0x0719 else if s.volu.brickDiffer then some 0x071A else none

/-- CANAL_OPEN (R384 step 1, R396, R399): it completes when the canal is OPEN, or with the failure. -/
def execCanalOpen (m : Fin 16) (s : State) : Out :=
  .next (volRow m.val 0x0718 anyParam (fun c s =>
    let h := leAt c.data 0 4
    match canalRefusal s with
    | some e => answer e s
    | none =>
      match volNamed s (par c 0 15) with
      | .error e => answer e s
      | .ok v =>
        if handleOk h = false then answer 0x0016 s
        else if !peerOfHandle s h then answer 0x071B s
        else
          let sync := decide (par c 16 1 = 0)
          let fb := decide (par c 17 1 = 1)
          let old := s.volu.canals.find? (fun k => k.source && decide (k.vol = v.num ∧ k.handle = h ∧ k.state = 4))
          match old, par c 18 1 with
          | some k, 1 =>
            let k1 := { k with state := 0, sync := sync, fallback := fb, tmo := leAt c.data 4 4, reattest := leAt c.data 8 4,
                               period := leAt c.data 12 4, resync := true, mbx := some m.val, xfer := none, out := [] }
            (s |> putCanal k1 |> jRecord v.group 5 |> canalConnect k1, none)
          | _, _ =>
            if 1024 ≤ canalsOpen s then answer 0x071E s
            else match freeCanal s with
            | none => answer 0x071E s
            | some id =>
              let k := { newCanal id true v.num h sync fb (leAt c.data 4 4) (leAt c.data 8 4) (leAt c.data 12 4) with
                         mbx := some m.val, resync := decide (par c 18 1 = 1) }
              (s |> putCanal k |> jRecord v.group 5 |> canalConnect k, none)) s)

/-- Answer the CANAL_OPEN that waits. -/
def canalAnswer (c : Canal) (st : Nat) (s : State) : State :=
  match c.mbx with
  | some m => s |> mbxSetResult m ⟨st, if st = 0 then leBytes 2 c.id else [], 0, 0, []⟩ |> updCanal c.id (fun k => { k with mbx := none })
  | none => s

/-- A setup has failed (R384): an open by command fails, and its canal with it; a canal that is retried waits for the
next try; one that reopens from DIVERGED is DIVERGED again; one that was OPEN before its device or its connection went is
DEGRADED or DOWN by its policy. -/
def canalFail (c : Canal) (st : Nat) (s : State) : State :=
  let s1 := s |> canalDrop c.id |> canalAnswer c st
  if c.state = 1 then canalPolicy c s1
  else if c.state ≠ 0 then s1
  else if c.resync ∧ c.everOpen then updCanal c.id (fun k => { k with state := 4, resync := false }) s1
  else
    let s2 := canalPolicy c s1
    { s2 with volu := { s2.volu with canals := s2.volu.canals.filter (fun k => k.id ≠ c.id) } }

/-- The code of a setup that ends at its present step (R384). -/
def setupCode (c : Canal) : Nat := if c.setup ≤ 1 then 0x071B else if c.setup ≤ 5 then 0x071C else 0x071D

/-- The SPDM requests of a source end in order (R384 steps 3 to 5): GET_VERSION, GET_CAPABILITIES, NEGOTIATE_ALGORITHMS, GET_DIGESTS,
GET_CERTIFICATE, KEY_EXCHANGE, FINISH, GET_MEASUREMENTS. -/
def nextCanalAsk (code : Nat) : Option Nat :=
  match code with
  | 0x84 => some 0xE1 | 0xE1 => some 0xE3 | 0xE3 => some 0x81 | 0x81 => some 0x82 | 0x82 => some 0xE4 | 0xE4 => some 0xE5
  | 0xE5 => some 0xE0 | _ => none

/-- The step of R384 that a request belongs to. -/
def askStep (code : Nat) : Nat := if code = 0xE0 then 5 else if code = 0xE4 ∨ code = 0xE5 then 4 else 3

/-- Send an SPDM request to a canal's peer: KEY_EXCHANGE with the purpose 1 (R141), GET_MEASUREMENTS with a nonce of this device's
own (R384 step 5). `n` names the canal, or a session that a peer has opened. -/
def askPeer (n code : Nat) (s : State) : State :=
  let x := if code = 0xE0 then freeBytes 32 s else ([], s)
  send (.spdm 2 code (leBytes 4 n ++ (if code = 0xE4 then [1] else []) ++ x.1)) x.2

/-- The request of a canal's setup or reattestation. -/
def canalAsk (k code : Nat) (s : State) : State :=
  s |> updCanal k (fun c => { c with ask := some code, setup := if c.setup = 7 then 7 else askStep code }) |> askPeer k code

/-- CANAL_TCP_CONNECTED (R384 steps 2, 3). -/
def execCanalTcpConnected (k : Nat) (s : State) : Out :=
  match canalOf s k with
  | some c => if c.setup = 1 ∧ admits s = true then .next (canalAsk k 0x84 s) else .next s
  | none => .next s

/-- CANAL_CONNECT_TIMEOUT (R384 step 2). -/
def execCanalConnectTimeout (k : Nat) (s : State) : Out :=
  match canalOf s k with
  | some c => if c.setup = 1 then .next (canalFail c 0x071B s) else .next s
  | none => .next s

/-- CANAL_SETUP_TIMEOUT (R384 steps 3 to 6). -/
def execCanalSetupTimeout (k : Nat) (s : State) : Out :=
  match canalOf s k with
  | some c => if 2 ≤ c.setup ∧ c.setup ≤ 6 then .next (canalFail c (setupCode c) s) else .next s
  | none => .next s

/-- The connection of a canal has gone (R390): setup starts again later; WRITEs follow the policy. -/
def canalLost (c : Canal) (s : State) : State :=
  if c.setup < 7 ∧ c.source = true then canalFail c (setupCode c) s
  else s |> canalDrop c.id |> (if c.source then canalPolicy c else fun s => s)

/-- CANAL_CONNECTION_LOST (R390, R394): a connection that is not made is tried at the brick's other node (R382). -/
def execCanalConnectionLost (k : Nat) (s : State) : Out :=
  match canalOf s k with
  | some c =>
    if c.setup = 0 then .next s
    else match (if c.setup = 1 then (peersOf s c.handle).find? (fun p => c.node < p.node) else none) with
    | some p => .next (connectTo k p s)
    | none => .next (canalLost c s)
  | none => .next s

/-- The frame closes the connection (R383): another TYPE, a LEN above the limit, a tag that fails, or a clear message after the
session's FINISH. -/
def frameBad (c : Canal) (type len : Nat) (tagOk : Bool) : Bool :=
  decide ((type ≠ 1 ∧ type ≠ 2) ∨ 4194304 < len ∨ (type = 1 ∧ 5 ≤ c.setup)) || (decide (type = 2) && !tagOk)

/-- CANAL_FRAME_INVALID (R383): the connection closes, and 0x071C is logged. -/
def execCanalFrameInvalid (k type len : Nat) (tagOk : Bool) (s : State) : Out :=
  match canalOf s k with
  | some c => if c.setup ≤ 1 ∨ frameBad c type len tagOk = false then .next s
    else .next (s |> raise 11 0x071C 2 0xFFFF k |> canalLost c)
  | none => .next s

/-! ### Transfers -/

/-- The chunks of a map, ascending. -/
def mapKeys (m : List (Nat × MapEnt)) : List Nat :=
  m.foldl (fun l e => if l.contains e.1 then l else insAsc e.1 l) []

/-- Begin a transfer to an image (R393 step 1): DIFF_BEGIN and FP_LIST. `cs` are the chunks that differ. -/
def beginXfer (c : Canal) (v : Volume) (base gen : Nat) (m : List (Nat × MapEnt)) (cs : List Nat) (s : State) : State :=
  match fpEntries s v.group m cs with
  | .error _ => abandon c.id s
  | .ok l =>
    s |> updCanal c.id (fun c => { c with xfer := some ⟨base, gen, l, 0, [], false, [], false⟩ })
      |> canalTx c.id 4 [base, gen, l.length]
      |> canalTx c.id 5 ((l.flatMap fpBytes).map (fun b => b.toNat))

/-- The chunks that a transfer from what the target last committed to a snapshot has to name: the dirty chunks of a
synchronous canal that has been open, the whole image where everything is dirty, the difference of the two maps
otherwise. -/
def xferChunks (c : Canal) (v : Volume) (x : Snapshot) : Nat × List Nat :=
  match snapByGen v c.gen with
  | none => (0, mapKeys x.map)
  | some b =>
    if c.dirtyAll then (0, mapKeys x.map)
    else if c.sync ∧ c.resync = false then
      (c.gen, ((mapDiff b.map x.map).filter (fun n => c.dirty.contains n)))
    else (c.gen, mapDiff b.map x.map)

/-- Start a transfer to a new internal snapshot (R391, R395): the generation, or the code that refuses the snapshot. -/
def startXfer (c : Canal) (s : State) : Except Nat (Nat × State) :=
  match volOf s c.vol with
  | none => .error 0x0714
  | some v =>
    match takeSnap v (some c.id) s with
    | .error e => .error e
    | .ok (x, s1) =>
      let l := xferChunks c v x
      .ok (x.gen, beginXfer c v l.1 x.gen x.map l.2 s1)

/-- Start a transfer where no command waits for its answer. -/
def tryXfer (c : Canal) (s : State) : State :=
  match startXfer c s with
  | .ok r => r.2
  | .error _ => s

/-! ### The evacuation (R397) -/

/-- Change the evacuation's record. -/
def updDrain (f : DrainSt → DrainSt) (s : State) : State := { s with volu := { s.volu with drain := f s.volu.drain } }

/-- DRAIN_CUTOVER, in chunks. -/
def drainCutover : Nat := 4096

/-- The evacuation of a volume group, and a change of it. -/
def drainJob (s : State) (g : Nat) : DrainJob := s.volu.drain.jobs.getD g DrainJob.reset
def updEvac (g : Nat) (f : DrainJob → DrainJob) (s : State) : State := updDrain (fun d => { d with jobs := modAt d.jobs g f }) s

/-- The volumes of the groups that this device holds and that it has still to offer, ascending. -/
def drainLeft (s : State) : List Nat :=
  ((s.volu.vols.filter (fun v => holdsGroup s v.group && !s.volu.drain.stuck.contains v.num)).map (fun v => v.num)).foldl
    (fun l n => insAsc n l) []

/-- The stored bytes of a volume (R399). -/
def volStored (s : State) (v : Volume) : Nat :=
  (distinctRids v.map).foldl (fun n r => match recOf s v.group r with
    | some e => n + 16 * e.len16
    | none => n) 0

/-- The peer that a volume is offered to now: in list order from the one after the last that accepted (R397 step 1). -/
def offerPeer (s : State) (j : DrainJob) : Option Nat :=
  let d := s.volu.drain
  d.peers[(j.first + j.tried) % max 1 d.peers.length]?

/-- Offer the volume in progress to the next peer of the list (R397 step 1): its stored bytes, and what the replica has to have: size,
LBA format, NGUID, policy, access list. -/
def drainAsk (v : Volume) (s : State) : State :=
  match offerPeer s (drainJob s v.group) with
  | none => s
  | some p => send (.canal (targetEnd v.num) 14 ([p, v.num, volStored s v, v.size, v.fmt] ++ v.nguid.map (fun b => b.toNat)
      ++ [v.policy.dedup, b2n v.policy.verify, v.policy.coder, v.policy.level, v.access.length]
      ++ v.access.flatMap (fun a => a.length :: a.map (fun b => b.toNat)))) s

/-- A cancelled evacuation has ended its volumes: the device returns to the mode before (R88, R398). -/
def drainReturn (s : State) : State :=
  let d := s.volu.drain
  if mode s = 6 ∧ d.cancel = true ∧ d.jobs.all (fun j => j.vol.isNone) = true then
    { s with pwr := { s.pwr with target := none } } |> updDrain (fun d => { DrainSt.reset with moved := d.moved, fail := d.fail })
      |> setF F.PWR_MODE_CUR (getF s F.PWR_MODE_PRIOR) |> setF F.PWR_MODE_BUSY 0 |> mbxFinish (isModeSet 6) (resStatus 0)
      |> tellStep |> anaRefresh |> returnStart
  else s

/-- Take up a group's next volume, in ascending number, or none in a drain that has none left; one that is cancelled ends. -/
def drainNext (g : Nat) (s : State) : State :=
  let d := s.volu.drain
  if d.cancel then drainReturn s
  else if mode s ≠ 6 ∨ (drainJob s g).vol.isSome ∨ d.peers.isEmpty then s
  else match ((drainLeft s).filterMap (volOf s)).filter (fun v => v.group = g) with
  | [] => s
  | v :: _ => s |> updEvac g (fun _ => ⟨some v.num, 1, d.nextPeer, 0, 0, none, false⟩) |> drainAsk v

/-- No command admitted for a volume is left. -/
def volQuiet (s : State) (v : Nat) : Bool := !s.host.cmds.any (fun c => decide ((c.stage = 1 ∨ c.stage = 2) ∧ c.vol = v) && takesEntry c)

/-- The final transfer of a cutover starts once no admitted command of the volume is left (R397 step 4). -/
def drainFinalOf (j : DrainJob) (s : State) : State :=
  match j.vol, j.canal.bind (canalOf s) with
  | some v, some c =>
    if j.stage = 4 ∧ j.hold = true ∧ c.xfer.isNone = true ∧ c.setup = 7 ∧ volQuiet s v = true then tryXfer c s else s
  | _, _ => s
def drainFinal (s : State) : State := s.volu.drain.jobs.foldl (fun s j => drainFinalOf j s) s

/-- The chunks that differ between a volume and the last image moved. -/
def drainDiff (v : Volume) (gen : Nat) : Nat :=
  match snapByGen v gen with
  | some x => (mapDiff x.map v.map).length
  | none => v.map.length

/-- The moved volume is detached and deleted (R397 step 5, R398): its canals go to the peer with their parameters and positions,
what is held completes with 0x0725, hosts are told. -/
def drainMoved (v : Volume) (s : State) : State :=
  let id := (drainJob s v.group).canal.getD 0
  let others := s.volu.canals.filter (fun c => c.vol = v.num ∧ c.id ≠ id ∧ c.state ≠ 5)
  let s1 := canalTx id 17 [v.num] s
  let s2 := others.foldl (fun s c => if c.source then
      canalTx id 16 [c.id, c.handle, b2n c.sync, b2n c.fallback, c.tmo, c.reattest, c.period, c.seq, c.acked, c.gen] s
    else canalTx c.id 13 [((canalOf s id).map (fun k => k.node)).getD 0] s) s1
  let s3 := { s2 with volu := { s2.volu with canals := s2.volu.canals.filter (fun c => c.vol ≠ v.num) } }
  let s4 := { s3 with host := { s3.host with cmds := s3.host.cmds.map (fun c =>
    if c.vol = v.num ∧ c.stage = 0 then { c with status := some 0x0725, stage := 3 } else c) } }
  let s5 := s4 |> nsChanged v.num v.access |> removeVolume v
  s5 |> updDrain (fun d => { d with moved := d.moved ++ [v.num] }) |> updEvac v.group (fun _ => DrainJob.reset) |> drainNext v.group

/-- Steps 2 to 4 of R397 after each commit on a group's evacuation canal. -/
def drainStep (g : Nat) (s : State) : State :=
  let d := drainJob s g
  match d.vol.bind (volOf s), d.canal.bind (canalOf s) with
  | some v, some c =>
    let older := v.snaps.filter (fun x => x.canal.isNone ∧ c.gen < x.gen)
    if d.stage = 2 then
      match older with
      | x :: _ =>
        let base := (snapByGen v c.gen).map (fun b => b.map)
        beginXfer c v (if base.isSome then c.gen else 0) x.gen x.map (mapDiff (base.getD []) x.map) s
      | [] => s |> updEvac g (fun d => { d with stage := 3, round := 1 }) |> tryXfer c
    else if d.stage = 3 then
      if drainDiff v c.gen ≤ drainCutover ∨ 8 ≤ d.round then s |> updEvac g (fun d => { d with stage := 4, hold := true }) |> drainFinal
      else s |> updEvac g (fun d => { d with round := d.round + 1 }) |> tryXfer c
    else if d.stage = 4 then s |> updEvac g (fun d => { d with stage := 5 }) |> drainMoved v
    else s
  | _, _ => s

/-- The group whose evacuation runs on a canal. -/
def drainGroup (s : State) (k : Nat) : Option Nat := [0, 1].find? (fun g => (drainJob s g).canal = some k)

/-- DRAIN_OFFER_REPLY (R397 step 1): the peer's replica handle for a volume, or its refusal; a volume that no peer accepts stays, with
0x0722 logged. -/
def execDrainOfferReply (peer vol : Nat) (handle : Option Nat) (s : State) : Out :=
  match volOf s vol with
  | none => .next s
  | some v =>
    let j := drainJob s v.group
    if j.vol ≠ some vol ∨ j.stage ≠ 1 ∨ offerPeer s j ≠ some peer then .next s
    else match handle, freeCanal s with
    | some h, some id =>
      let c := newCanal id true vol h false false 500 3600 0
      .next (s |> putCanal c |> updEvac v.group (fun d => { d with stage := 2, canal := some id })
        |> updDrain (fun d => { d with nextPeer := (j.first + j.tried + 1) % max 1 d.peers.length }) |> canalConnect c)
    | _, _ =>
      let s1 := updEvac v.group (fun d => { d with tried := d.tried + 1 }) s
      if j.tried + 1 < s.volu.drain.peers.length then .next (drainAsk v s1)
      else .next (s1 |> updEvac v.group (fun _ => DrainJob.reset) |> updDrain (fun d => { d with fail := 0x0722, stuck := d.stuck ++ [vol] })
        |> raise 11 0x0722 2 0xFFFF vol |> drainNext v.group)

/-- DRAIN_CUTOVER_TIMEOUT (R397): the held commands of a group's volume are released and step 3 repeats. -/
def execDrainCutoverTimeout (g : Fin 2) (s : State) : Out :=
  let d := drainJob s g.val
  if d.stage = 4 ∧ d.hold = true then
    match d.canal.bind (canalOf s) with
    | some c =>
      let s1 := s |> updCanal c.id (fun c => { c with xfer := none }) |> canalTx c.id 10 []
        |> updEvac g.val (fun d => { d with stage := 3, hold := false, round := 1 }) |> updDrain (fun d => { d with fail := 0x0721 })
      if s.volu.drain.cancel then .next (s1 |> updEvac g.val (fun _ => DrainJob.reset) |> drainReturn)
      else .next (match canalOf s1 c.id with
        | some c => tryXfer c s1
        | none => s1)
    | none => .next (updEvac g.val (fun d => { d with stage := 3, hold := false }) s)
  else .next s

/-- DRAIN_STATUS (R399): the volume in progress is that of group 0, of group 1 where group 0 has none. -/
def execDrainStatus (m : Fin 16) (s : State) : Out :=
  .next (volRow m.val 0x071D anyParam (fun _ s =>
    let d := s.volu.drain
    let j := (d.jobs.find? (fun j => j.vol.isSome)).getD DrainJob.reset
    answerData (leBytes 2 (if mode s = 6 then s.volu.vols.length else 0) ++ leBytes 2 d.moved.length ++ leBytes 2 (j.vol.getD 0)
      ++ leBytes 1 j.stage ++ leBytes 1 0 ++ leBytes 2 d.fail ++ List.replicate 6 0) s) s)

/-! ### HELLO and reopening (R384 steps 6 and 7, R387, R392, R394, R396) -/

/-- Resend the WRITEs that the target has not applied; the others are acknowledged (R392). -/
def canalResend (c : Canal) (last : Nat) (s : State) : State :=
  s |> canalRelease c.id (fun q => decide (q ≤ last)) none
    |> updCanal c.id (fun k => { k with acked := max k.acked (min last k.seq), out := (k.out.filter (fun o => last < o.seq)).map (fun o => { o with sent := false }) })

/-- The chunks of the log that the transfer just committed did not hold start the next one (R391). -/
def resyncOn (k : Nat) (s : State) : State :=
  match canalOf s k with
  | some c => if c.state = 2 ∧ c.setup = 7 ∧ c.xfer.isNone = true ∧ (c.dirtyAll = true ∨ c.dirty ≠ []) then tryXfer c s else s
  | none => s

/-- The target has committed a generation (R391, R394): the base goes when the canal made it; a canal whose log is empty now is OPEN. -/
def canalCommitted (k gen : Nat) (s : State) : State :=
  match (canalOf s k).bind (fun c => (volOf s c.vol).bind (fun v => c.xfer.map (fun x => (v, x)))) with
  | none => s
  | some (v, x) =>
    let s1 := match snapByGen v x.base with
      | some b => if b.canal = some k then removeSnap v b s else s
      | none => s
    let s2 := s1 |> updCanal k (fun c => { c with xfer := none, gen := gen, dirty := x.late, dirtyAll := x.lateAll, resync := false,
                                                  state := if c.state = 2 ∧ x.late = [] ∧ x.lateAll = false then 1 else c.state })
      |> updVol v.num (fun v => { v with hostWrites := false }) |> canalFlush k |> resyncOn k
    match drainGroup s2 k with
    | some g => drainStep g s2
    | none => s2

/-- The transfer in progress goes on from the point that the target reports (R394); one whose commit it reports is complete. -/
def xferResume (k : Nat) (x : Xfer) (h : Hello) (s : State) : State :=
  if h.lastGen = x.new then canalCommitted k x.new s
  else s |> updCanal k (fun c => { c with xfer := some { x with pos := min h.resume x.list.length } })
    |> canalTx k 4 [x.base, x.new, x.list.length]
    |> canalTx k 5 (((x.list.drop h.resume).flatMap fpBytes).map (fun b => b.toNat))

/-- The canal reaches step 7: OPEN, or a resynchronisation first while it is DEGRADED. -/
def canalReach (c : Canal) (h : Hello) (s : State) : State :=
  let first := !c.everOpen
  let st := if c.state = 2 ∧ (c.dirtyAll ∨ c.dirty ≠ [] ∨ c.xfer.isSome) then 2 else 1
  let s1 := s |> updCanal c.id (fun k => { k with setup := 7, node := h.node, formats := h.formats, state := st, everOpen := true,
                                                  dirtyAll := k.dirtyAll || (first && k.sync) })
    |> canalResend c h.lastSeq |> canalAnswer c 0
  match canalOf s1 c.id with
  | none => s1
  | some k =>
    let s2 := match k.xfer with
      | some x => xferResume c.id x h s1
      | none => if (k.sync && first) || st = 2 || k.resync then tryXfer k s1 else s1
    let s3 := canalFlush c.id s2
    match drainGroup s3 c.id with
    | some g => if (drainJob s3 g).stage = 2 ∧ k.xfer.isNone = true then drainStep g s3 else s3
    | none => s3

/-- The peer table names a node, and it belongs to the brick of a handle (R385). -/
def nodeFits (s : State) (n h : Nat) : Bool := decide ((n - 1) / 2 = h / 32768) && s.volu.peers.any (fun p => p.node = n)

/-- The target end of a canal is opened by its HELLO, on a session whose peer has passed the attestation test, from a node of the
peer table, when the named replica lists the source (R384 steps 5 and 6, R385). -/
def targetHello (h : Hello) (s : State) : State :=
  let vn := h.repHandle % 32768
  if !s.spdm.sessions.any (fun x => decide (x.sid = h.session ∧ x.port = 2 ∧ x.purpose = 1) && x.up && x.attested) then s
  else if !nodeFits s h.node h.srcHandle then
    s |> raise 11 0x071C 2 0xFFFF (targetEnd vn) |> send (.canal (targetEnd vn) 12 [])
      |> fun s => { s with spdm := { s.spdm with sessions := s.spdm.sessions.filter (fun x => x.sid ≠ h.session) } }
  else match volOf s vn with
  | none => send (.canal (targetEnd vn) 1 [0x071D]) s
  | some v =>
    if canalRefusal s ≠ none ∨ s.nv.brickId ≠ some (h.repHandle / 32768) ∨ v.srcHandle ≠ h.srcHandle ∨ (v.kind ≠ 2 ∧ v.promoted = false)
        ∨ !holdsGroup s v.group then
      send (.canal (targetEnd vn) 1 [0x071D]) s
    else
      let old := canalOf s (targetEnd vn)
      let base : Canal := match old with
        | some c => if c.state = 5 then newCanal (targetEnd vn) false vn h.srcHandle h.sync false 0 0 0 else c
        | none => newCanal (targetEnd vn) false vn h.srcHandle h.sync false 0 0 0
      let c := { base with state := 1, setup := 7, node := h.node, formats := h.formats, seq := v.applied, gen := v.commitGen,
                           everOpen := true, ask := none, sess := some h.session, msgs := 0 }
      s |> putCanal c |> jRecord v.group 5
        |> canalTx c.id 1 [2 * (h.repHandle / 32768) + 1 + devNo s, h.srcHandle, h.repHandle, b2n h.sync, 7, v.applied, v.commitGen,
             (c.xfer.map (fun x => x.pos)).getD 0, b2n (v.promoted && v.hostWrites), b2n v.promoted]

/-- CANAL_HELLO (R384 step 6, R392, R396): at a target end (a number from 1,024 on) and at a source end. -/
def execCanalHello (k : Nat) (h : Hello) (s : State) : Out :=
  if 1024 ≤ k then .next (if admits s then targetHello h s else s)
  else match canalOf s k with
  | none => .next s
  | some c =>
    if c.setup ≠ 6 then .next s
    else if h.refused ∨ h.repHandle ≠ c.handle then .next (canalFail c 0x071D s)
    else if nodeFits s h.node c.handle = false then .next (canalFail c 0x071C s)
    else if c.resync = false ∧ (h.promoted ∨ (h.hostWrites ∧ (volOf s c.vol).any (fun v => v.hostWrites) = true)) then
      .next (s |> canalAnswer c 0x0720 |> canalDrop k |> updCanal k (fun c => { c with state := 4, everOpen := true }))
    else .next (canalReach c h s)

/-- The number by which a session that a peer has opened is named in this device's requests. -/
def sessKey (sid : Nat) : Nat := 2 ^ 16 + sid

/-- The peer of a session passes or fails the attestation test (R384 step 5, R385). -/
def sessAttested (sid : Nat) (ok : Bool) (s : State) : State :=
  if ok then { s with spdm := { s.spdm with sessions := s.spdm.sessions.map (fun x => if x.sid = sid then { x with attested := true } else x) } }
  else if s.spdm.sessions.any (fun x => decide (x.sid = sid ∧ x.purpose = 1)) then
    raise 11 0x071C 2 0xFFFF sid { s with spdm := { s.spdm with sessions := s.spdm.sessions.filter (fun x => x.sid ≠ sid) } }
  else s

/-- The canal sessions that this device holds: those its peers opened, and those of its source ends (R141). -/
def canalSessions (s : State) : Nat :=
  (s.spdm.sessions.filter (fun x => x.purpose = 1)).length + (s.volu.canals.filter (fun c => c.source && decide (4 ≤ c.setup))).length

/-- An answer of a canal's peer (R384 steps 3 to 5, R385): the next request follows; after the measurements the HELLO goes out. A
failed attestation of an open canal closes it with 0x071C. -/
def canalSpdmStep (k : Nat) (ok : Bool) (s : State) : State :=
  if 2 ^ 16 ≤ k then sessAttested (k - 2 ^ 16) ok s
  else match canalOf s k with
  | none => s
  | some c =>
    if c.setup = 7 then
      if ok then updCanal k (fun c => { c with ask := none }) s
      else s |> canalDrop k |> canalPolicy c |> updCanal k (fun c => { c with state := 5, xfer := none, out := [] }) |> raise 11 0x071C 2 0xFFFF k
    else match c.ask with
    | none => s
    | some code =>
      if !ok then canalFail c 0x071C s
      else match nextCanalAsk code with
      | some n => if n = 0xE4 ∧ 1024 ≤ canalSessions s then canalFail c 0x071C s else canalAsk k n s
      | none => s |> updCanal k (fun c => { c with setup := 6, ask := none })
        |> canalTx k 1 [2 * (s.nv.brickId.getD 0) + 1 + devNo s, handleOf s c.vol, c.handle, b2n c.sync, 7, c.acked, c.gen]

/-! ### Messages -/

/-- CANAL_WRITE (R389, R392): admitted at the target in sequence order, a repeated one discarded and acknowledged. -/
def execCanalWrite (k seq off len : Nat) (data : List Byte) (s : State) : Out :=
  match (canalOf s k).bind (fun c => (volOf s c.vol).map (fun v => (c, v))) with
  | none => .next s
  | some (c, v) =>
    if c.source ∨ c.setup ≠ 7 ∨ admits s = false then .next s
    else if seq ≤ v.applied then .next (canalTx k 3 [seq, 0] s)
    else if seq ≤ c.seq then .next s
    else if v.size < off + len ∨ 2 ^ 21 < len then .next (canalTx k 3 [seq, 0x0016] s)
    else
      let cmd := { newCmd (.canal k seq) (if data.isEmpty then .zeroes else .write) v.num off len true with data := data }
      .next (s |> updCanal k (fun c => { c with seq := seq }) |> enter cmd)

/-- CANAL_WRITE_ACK (R389, R390): a status of failure is decided by the policy. -/
def execCanalWriteAck (k seq status : Nat) (s : State) : Out :=
  match canalOf s k with
  | none => .next s
  | some c =>
    if c.source = false ∨ c.setup ≠ 7 then .next s
    else if status ≠ 0 then .next (s |> canalDrop k |> canalPolicy c)
    else .next (s |> canalRelease k (fun q => decide (q ≤ seq)) none
      |> updCanal k (fun c => { c with acked := max c.acked seq, out := c.out.filter (fun o => seq < o.seq) }))

/-- Discard what a transfer has staged at the target: the jobs and the hidden image (R394). -/
def discardHidden (v : Volume) (s : State) : State :=
  let s1 := { s with red := { s.red with jobs := s.red.jobs.filter (fun j => !(j.hidden && decide (j.vol = v.num))) } }
  s1 |> updVol v.num (fun v => { v with hidden := [] }) |> entsGone v.group v.hidden

/-- CANAL_DIFF_BEGIN (R393, R396): the base must be the generation last committed; the hidden image begins as the
replica, empty for a full transfer, and for a promoted replica that is overwritten as the last common image. -/
def execCanalDiffBegin (k base new : Nat) (s : State) : Out :=
  match (canalOf s k).bind (fun c => (volOf s c.vol).map (fun v => (c, v))) with
  | none => .next s
  | some (c, v) =>
    if c.source ∨ c.setup ≠ 7 then .next s
    else if base ≠ 0 ∧ base ≠ v.commitGen then .next (abandon k s)
    else
      if (c.xfer.any (fun x => decide (x.base = base ∧ x.new = new))) = true then .next s else
      let s1 := discardHidden v s
      let start := if base = 0 then [] else if v.promoted then ((snapByGen v base).map (fun x => x.map)).getD v.map else v.map
      .next (s1 |> updVol v.num (fun v => { v with hidden := start, kind := 2, promoted := false, hostWrites := false })
        |> updCanal k (fun c => { c with xfer := some ⟨base, new, [], 0, [], false, [], false⟩ }))

/-- The durable index entry of a fingerprint. -/
def durable (s : State) (g : Nat) (fp : List Byte) : Option IdxEnt := s.tier.idx.find? (fun e => e.group = g ∧ e.fp = fp)

/-- The hidden image takes a reference to a stored record in place of a chunk. -/
def hiddenRef (v : Volume) (c rid : Nat) (fp : List Byte) (s : State) : State :=
  hiddenApply { newJob v.group v.num c none none [] false with fp := fp, rid := some rid, isRef := true, hidden := true } s

/-- The hidden image's chunk becomes zero. -/
def hiddenZero (v c : Nat) (s : State) : State :=
  match (volOf s v).bind (fun x => (mapGet x.hidden c).map (fun e => (x, e))) with
  | none => s
  | some (x, e) => s |> updVol v (fun x => { x with hidden := mapDel x.hidden c }) |> entGone x.group e

/-- One entry of FP_LIST at the target (R393 step 2): whether its record is requested. -/
def fpLook (v : Volume) (e : Nat × List Byte) (s : State) : Bool × State :=
  if e.2.isEmpty then (false, hiddenZero v.num e.1 s)
  else match durable s v.group e.2 with
  | none => (true, s)
  | some i => if v.policy.verify then (true, s) else (false, hiddenRef v e.1 i.rid e.2 s)

/-- The entries of FP_LIST in order, with the bitmap of FP_NEED. -/
def fpLooks (v : Volume) : List (Nat × List Byte) → State → List Bool × State
  | [], s => ([], s)
  | e :: r, s =>
    let a := fpLook v e s
    let b := fpLooks v r a.2
    (a.1 :: b.1, b.2)

/-- The transfer point of the target: the first entry whose record is not stored (R394). -/
def xferPos (x : Xfer) : Nat := (x.list.takeWhile (fun e => !x.need.contains e.1)).length

/-- CANAL_FP_LIST (R393 steps 2 and 3). -/
def execCanalFpList (k : Nat) (entries : List (Nat × List Byte)) (s : State) : Out :=
  match (canalOf s k).bind (fun c => (volOf s c.vol).bind (fun v => c.xfer.map (fun x => (c, v, x)))) with
  | none => .next s
  | some (c, v, x) =>
    if c.source ∨ c.setup ≠ 7 then .next s
    else
      let r := fpLooks v entries s
      let need := (entries.zip r.1).filterMap (fun p => if p.2 then some p.1.1 else none)
      let rest := x.list.filter (fun e => !entries.any (fun y => y.1 = e.1))
      let x1 := { x with list := rest ++ entries, need := x.need.filter (fun n => !entries.any (fun y => y.1 = n)) ++ need }
      .next (r.2 |> updCanal k (fun c => { c with xfer := some { x1 with pos := xferPos x1 } })
        |> canalTx k 6 (r.1.map b2n))

/-- The record that the source sends for a chunk (R386, R393 step 4): the stored record, or, in a format that the peer
does not read, or while the chunk stands in the Vat, its bytes re-coded in the peer's lowest-numbered format, raw where they do not
shrink. -/
def sendRecord (formats : Nat) (v : Volume) (m : List (Nat × MapEnt)) (c : Nat) (s : State) : Option (List Byte) :=
  match mapGet m c with
  | none => none
  | some e =>
    let stored := if e.seqs = [] then (e.rid.bind (recOf s v.group)).bind (recBytes s) else none
    let ok := match stored with
      | some r => bitAt formats (leAt r 0 1)
      | none => false
    match ok, stored, entBytes s v.group c (some e) 0 8192 with
    | true, some r, _ => some r
    | _, _, .error _ => none
    | _, _, .ok d =>
      let f : Nat := if bitAt formats 0 then 0 else if bitAt formats 1 then 1 else if bitAt formats 2 then 2 else 0
      let p := if f = 0 then [] else encodePayload f v.policy.level d
      some (if f ≠ 0 ∧ p.length < 8192 then mkRecord f v.policy.level p d (sha256 d) else mkRecord 0 0 d d (sha256 d))

/-- CANAL_FP_NEED (R393 steps 4 and 6): the requested records, then SNAP_COMMIT; WRITEs that waited for their chunks
follow. -/
def execCanalFpNeed (k : Nat) (bits : List Bool) (s : State) : Out :=
  match (canalOf s k).bind (fun c => (volOf s c.vol).bind (fun v => c.xfer.map (fun x => (c, v, x)))) with
  | none => .next s
  | some (c, v, x) =>
    if c.source = false ∨ c.setup ≠ 7 then .next s
    else
      match snapByGen v x.new with
      | none => .next (abandon k s)
      | some img =>
        let want := ((x.list.drop x.pos).zip bits).filterMap (fun p => if p.2 then some p.1.1 else none)
        let recs := want.map (fun n => (n, sendRecord c.formats v img.map n s))
        if recs.any (fun r => r.2.isNone) then .next (abandon k s)
        else
          let s1 := recs.foldl (fun s r => canalTx k 7 (r.1 :: (r.2.getD []).map (fun b => b.toNat)) s) s
          .next (s1 |> canalTx k 8 [x.new] |> updCanal k (fun c => { c with xfer := some { x with pos := x.list.length, need := want } })
            |> canalFlush k)

/-- A record of a transfer is stored byte for byte (R393 step 5). -/
def storeHidden (v : Volume) (c : Nat) (fp d rec_ : List Byte) (defer : Bool) (s : State) : State :=
  let j := { newJob v.group v.num c none none d false with fp := fp, stage := 0, unindexed := true, defer := defer, hidden := true,
                                                           id := s.red.jobNext, policy := v.policy }
  stageRecord j rec_ (addJob j s)

/-- CANAL_RECORD (R393 steps 2, 4, 5). -/
def execCanalRecord (k chunk : Nat) (record : List Byte) (s : State) : Out :=
  match (canalOf s k).bind (fun c => (volOf s c.vol).bind (fun v => c.xfer.map (fun x => (c, v, x)))) with
  | none => .next s
  | some (c, v, x) =>
    let fp := ((x.list.find? (fun e => e.1 = chunk)).map (fun e => e.2)).getD []
    if c.source ∨ c.setup ≠ 7 ∨ x.need.contains chunk = false then .next s
    else match decodeRecord record with
    | .error _ => .next (abandon k (discardHidden v s))
    | .ok d =>
      if sha256 d ≠ fp then .next (abandon k (discardHidden v s))
      else
        let x1 := { x with need := x.need.filter (fun n => n ≠ chunk) }
        let took := updCanal k (fun c => { c with xfer := some { x1 with pos := xferPos x1 } })
        match durable s v.group fp with
        | some i =>
          match recData s v.group i.rid with
          | .ok y => if y = d then .next (took (hiddenRef v chunk i.rid fp s))
            else if (stageRoom v.group record.length s).isNone then .next (canalLost c s)
            else .next (s |> storeHidden v chunk fp d record false |> count R.RED_COLLIDE_LO 1 |> raise 11 0x051C 2 v.group 0 |> took)
          | .error _ => if (stageRoom v.group record.length s).isNone then .next (canalLost c s)
            else .next (took (storeHidden v chunk fp d record true s))
        | none => if (stageRoom v.group record.length s).isNone then .next (canalLost c s)
          else .next (took (storeHidden v chunk fp d record true s))

/-- The snapshot that a replica takes of its volume as a transfer commits, with the status. -/
def commitSnap (k n : Nat) (s : State) : Nat × State :=
  match volOf s n with
  | none => (0x0714, s)
  | some v =>
    match takeSnap v (some k) s with
    | .ok (_, t) => (0, t)
    | .error e => (e, s)

/-- The replica switches to its hidden image in one Vat record once every record of the transfer is stored; a snapshot is taken at
the new generation, and COMMIT_ACK goes out (R393 step 6). -/
def targetCommit (k : Nat) (s : State) : State :=
  match (canalOf s k).bind (fun c => (volOf s c.vol).bind (fun v => c.xfer.map (fun x => (v, x)))) with
  | none => s
  | some (v, x) =>
    if x.commit = false ∨ x.need ≠ [] ∨ s.red.jobs.any (fun j => j.hidden && decide (j.vol = v.num)) = true then s
    else
      let s1 := s |> updVol v.num (fun v => { v with map := v.hidden, hidden := [], commitGen := x.new, nextGen := x.new })
        |> mapGone v.group v.num v.map
      let st := commitSnap k v.num s1
      st.2 |> jRecord v.group 4 |> updCanal k (fun c => { c with xfer := none, gen := x.new }) |> canalTx k 9 [x.new, st.1] |> jRelease

/-- CANAL_SNAP_COMMIT (R393 step 6): it waits for the records that are still to be stored. -/
def execCanalSnapCommit (k gen : Nat) (s : State) : Out :=
  match (canalOf s k).bind (fun c => (volOf s c.vol).map (fun v => (c, v))) with
  | none => .next s
  | some (c, v) =>
    if c.source ∨ c.setup ≠ 7 then .next s
    else match c.xfer with
    | none => if gen = v.commitGen then .next (canalTx k 9 [gen, 0] s) else .next s
    | some x => if x.new ≠ gen then .next s
      else .next (s |> updCanal k (fun c => { c with xfer := some { x with commit := true } }) |> targetCommit k)

/-- REDUCTION_RECORD_COMMIT (R349 to R352): the record of a programmed or decided chunk takes effect as one; the last record of a
transfer lets the SNAP_COMMIT that waits for it go on (R393). -/
def execReductionRecordCommit (id : Nat) (s : State) : Out :=
  match jobOf s id with
  | none => .next s
  | some j =>
    if (j.stage ≠ 4 ∧ j.stage ≠ 5) ∨ isSet s F.VAT_READY = false then .next s
    else .next (targetCommit (targetEnd j.vol) (recordTakes j s))

/-- CANAL_COMMIT_ACK (R391, R394, R397). -/
def execCanalCommitAck (k gen status : Nat) (s : State) : Out :=
  match (canalOf s k).bind (fun c => c.xfer.map (fun x => (c, x))) with
  | none => .next s
  | some (c, x) =>
    if c.source = false ∨ c.setup ≠ 7 ∨ x.new ≠ gen then .next s
    else if status ≠ 0 then .next (abandon k s)
    else .next (canalCommitted k gen s)

/-- CANAL_RETARGET (R398): the replica has moved to the brick of the node named, and the source connects there; its number there is its
own. -/
def execCanalRetarget (k node : Nat) (s : State) : Out :=
  match canalOf s k with
  | none => .next s
  | some c =>
    if c.source = false ∨ c.state = 5 ∨ node = 0 ∨ 262142 < node then .next s
    else
      let h := (node - 1) / 2 * 32768 + c.handle % 32768
      let s1 := s |> canalLost c |> updCanal k (fun c => { c with handle := h })
      match s.volu.peers.find? (fun p => p.node = node) with
      | some p => .next (connectTo k p s1)
      | none => .next (canalConnect { c with handle := h } s1)

/-- CANAL_SYNC_TMO_EXPIRY (R390): the connection is given up, and the policy decides the WRITEs that wait. -/
def execCanalSyncTmoExpiry (k : Nat) (s : State) : Out :=
  match canalOf s k with
  | none => .next s
  | some c =>
    if c.source = false ∨ c.sync = false ∨ (canalWaiters s k).isEmpty = true then .next s
    else if c.state = 0 then .next (canalPolicy c s)
    else .next (s |> canalDrop k |> canalPolicy c)

/-- CANAL_RETRY_TIMER (R387): every lost connection of the canals of this device's groups. -/
def execCanalRetryTimer (s : State) : Out :=
  if admits s = false ∨ canalRefusal s ≠ none then .next s
  else .next ((s.volu.canals.filter (fun c => c.source && decide (c.setup = 0 ∧ (c.state = 2 ∨ c.state = 3)) && ownsCanal s c)).foldl
    (fun s c => canalConnect c s) s)

/-- CANAL_REATTEST_TIMER (R385): GET_MEASUREMENTS again. -/
def execCanalReattestTimer (k : Nat) (s : State) : Out :=
  match canalOf s k with
  | some c => if c.setup = 7 then .next (canalAsk k 0xE0 s) else .next s
  | none => .next s

/-- CANAL_PERIOD_TIMER (R395). -/
def execCanalPeriodTimer (k : Nat) (s : State) : Out :=
  match canalOf s k with
  | some c =>
    if c.source = true ∧ c.period ≠ 0 ∧ c.state = 1 ∧ c.setup = 7 ∧ c.xfer.isNone = true ∧ mode s ≠ 6 then .next (tryXfer c s)
    else .next s
  | none => .next s

/-! ### Commands -/

/-- The canal that a command names: a source end that exists. -/
def canalNamed (s : State) (c : MbxCmd) : Option Canal := canalOf s (par c 0 10)

/-- CANAL_CLOSE (R387, R399): what waits follows the policy; the slot is CLOSED. -/
def execCanalClose (m : Fin 16) (s : State) : Out :=
  .next (volRow m.val 0x0719 anyParam (fun c s =>
    match canalNamed s c with
    | none => answer 0x001B s
    | some k =>
      let s1 := s |> canalAnswer k 0x071B |> canalDrop k.id |> canalPolicy k
        |> updCanal k.id (fun c => { c with state := 5, xfer := none, out := [], dirty := [], dirtyAll := false })
      answer 0 (match volOf s1 k.vol with
        | some v => jRecord v.group 5 s1
        | none => s1)) s)

/-- CANAL_SYNC (R395, R399). -/
def execCanalSync (m : Fin 16) (s : State) : Out :=
  .next (volRow m.val 0x071A anyParam (fun c s =>
    match canalNamed s c with
    | none => answer 0x001B s
    | some k =>
      if mode s = 6 then answer 0x0723 s
      else if k.state = 4 then answer 0x0720 s
      else if k.xfer.isSome then answer 0x0014 s
      else if k.state ≠ 1 ∨ k.setup ≠ 7 then answer 0x071B s
      else match startXfer k s with
      | .error e => answer e s
      | .ok (g, s1) => answerData (leBytes 4 g) s1) s)

/-- CANAL_PROMOTE (R396). -/
def execCanalPromote (m : Fin 16) (s : State) : Out :=
  .next (volRow m.val 0x071B anyParam (fun c s =>
    match volNamed s (par c 0 15) with
    | .error e => answer e s
    | .ok v =>
      if v.kind ≠ 2 then answer 0x071D s
      else
        let s1 := s |> discardHidden v |> updVol v.num (fun v => { v with kind := 0, promoted := true })
          |> canalDrop (targetEnd v.num) |> updCanal (targetEnd v.num) (fun c => { c with state := 5, xfer := none })
        answer 0 (s1 |> jRecord v.group 4 |> nsChanged v.num v.access)) s)

/-- CANAL_STATUS (R399). -/
def execCanalStatus (m : Fin 16) (s : State) : Out :=
  .next (volRow m.val 0x071C anyParam (fun c s =>
    match canalNamed s c with
    | none => answer 0x001B s
    | some k =>
      let dirty := if k.dirtyAll then ((volOf s k.vol).map (fun v => v.size / 8192)).getD 0 else k.dirty.length
      answerData (leBytes 1 k.state ++ leBytes 1 (b2n (!k.sync)) ++ leBytes 1 (b2n k.fallback) ++ leBytes 1 0 ++ leBytes 4 k.node
        ++ leBytes 4 k.handle ++ leBytes 8 k.acked ++ leBytes 4 k.gen ++ leBytes 4 (min dirty (2 ^ 32 - 1))
        ++ leBytes 4 ((k.xfer.map (fun x => x.pos)).getD 0)) s) s)

end Sys2Proof.Machine
end

