-- ==== Sys2Proof/Machine/Resv.lean ====
section
/-! DEFINITION. Reservations of a volume (R333): registration, acquisition, release, preemption and the check that every
command passes. Types 1 to 6 are those of NVMe Base 2.0: Write Exclusive and Exclusive Access, plain, for registrants
only, and for all registrants (log entry 44). -/

namespace Sys2Proof.Machine

/-- The key that a host has registered. -/
def resvKey (r : Resv) (h : List Byte) : Option Nat := (r.regs.find? (fun x => x.1 = h)).map (fun x => x.2)

/-- A reservation of an all-registrants type. -/
def resvAll (r : Resv) : Bool := decide (5 ≤ r.rtype)

/-- The host holds the reservation: as its holder, or as a registrant of an all-registrants type. -/
def resvHolds (r : Resv) (h : List Byte) : Bool :=
  match r.holder with
  | none => false
  | some x => decide (x = h) || (resvAll r && (resvKey r h).isSome)

/-- The reservation lets a host read (`w` false) or write. -/
def resvAllows (r : Resv) (h : List Byte) (w : Bool) : Bool :=
  match r.holder with
  | none => true
  | some _ =>
    resvHolds r h || (match r.rtype with
      | 1 => !w
      | 2 => false
      | 3 => !w || (resvKey r h).isSome
      | 4 => (resvKey r h).isSome
      | 5 => !w
      | _ => false)

/-- A registration leaves: the reservation goes with its holder, with an all-registrants type only when the last one
leaves. -/
def resvDrop (h : List Byte) (r : Resv) : Resv :=
  let r1 := { r with regs := r.regs.filter (fun x => x.1 ≠ h) }
  if (resvAll r ∧ r1.regs = []) ∨ (resvAll r = false ∧ r.holder = some h) then { r1 with holder := none, rtype := 0 }
  else if r.holder = some h then { r1 with holder := (r1.regs.head?).map (fun x => x.1) } else r1

/-- What a reservation action answers: a code with the new state, and the notices it gives: type (1 registration
preempted, 2 reservation released, 3 reservation preempted) and host. -/
abbrev ResvRes := Nat × Resv × List (Nat × List Byte)

/-- Reservation Register: 0 register, 1 unregister, 2 replace. -/
def resvRegister (action : Nat) (h : List Byte) (key nkey : Nat) (ignore : Bool) (r : Resv) : ResvRes :=
  let up (r : Resv) : Resv := { r with gen := (r.gen + 1) % 2 ^ 32 }
  match action, resvKey r h with
  | 0, none => (0, up { r with regs := r.regs ++ [(h, nkey)] }, [])
  | 0, some k => if k = nkey then (0, r, []) else (0x0619, r, [])
  | 1, some k =>
    if ignore ∨ k = key then
      let lost := decide (r.holder.isSome ∧ (resvDrop h r).holder.isNone ∧ (r.rtype = 3 ∨ r.rtype = 4))
      (0, up (resvDrop h r), if lost then ((r.regs.filter (fun x => x.1 ≠ h)).map (fun x => (2, x.1))) else [])
    else (0x0619, r, [])
  | 1, none => (0x0619, r, [])
  | 2, some k =>
    if ignore ∨ k = key then (0, up { r with regs := r.regs.map (fun x => if x.1 = h then (h, nkey) else x) }, [])
    else (0x0619, r, [])
  | 2, none => if ignore then (0, up { r with regs := r.regs ++ [(h, nkey)] }, []) else (0x0619, r, [])
  | _, _ => (0x0016, r, [])

/-- Reservation Acquire: 0 acquire, 1 preempt, 2 preempt and abort, which acts as preempt. -/
def resvAcquire (action : Nat) (h : List Byte) (key pkey rtype : Nat) (r : Resv) : ResvRes :=
  if rtype = 0 ∨ 6 < rtype ∨ 2 < action then (0x0016, r, [])
  else if resvKey r h ≠ some key then (0x0619, r, [])
  else if action = 0 then
    match r.holder with
    | none => (0, { r with holder := some h, rtype := rtype }, [])
    | some _ => if resvHolds r h ∧ r.rtype = rtype then (0, r, []) else (0x0619, r, [])
  else
    let others (p : List Byte × Nat → Bool) : List (List Byte × Nat) := r.regs.filter (fun x => p x && decide (x.1 ≠ h))
    let cut (p : List Byte × Nat → Bool) : Resv :=
      { r with regs := r.regs.filter (fun x => !(p x) || decide (x.1 = h)), gen := (r.gen + 1) % 2 ^ 32 }
    match r.holder with
    | none =>
      if r.regs.any (fun x => x.2 = pkey) then
        (0, cut (fun x => decide (x.2 = pkey)), (others (fun x => decide (x.2 = pkey))).map (fun x => (1, x.1)))
      else (0x0619, r, [])
    | some x =>
      if resvAll r ∧ pkey = 0 then
        (0, { cut (fun _ => true) with holder := some h, rtype := rtype }, (others (fun _ => true)).map (fun x => (1, x.1)))
      else if resvAll r = false ∧ resvKey r x = some pkey then
        let rest := r.regs.filter (fun y => !(decide (y.2 = pkey)) && decide (y.1 ≠ h))
        (0, { cut (fun y => decide (y.2 = pkey)) with holder := some h, rtype := rtype },
          (others (fun y => decide (y.2 = pkey))).map (fun y => (1, y.1))
            ++ (if r.rtype = rtype then [] else rest.map (fun y => (2, y.1))))
      else if pkey = 0 then (0x0016, r, [])
      else if r.regs.any (fun y => y.2 = pkey) then
        (0, cut (fun y => decide (y.2 = pkey)), (others (fun y => decide (y.2 = pkey))).map (fun y => (1, y.1)))
      else (0x0619, r, [])

/-- Reservation Release: 0 release, 1 clear. -/
def resvRelease (action : Nat) (h : List Byte) (key rtype : Nat) (r : Resv) : ResvRes :=
  if 1 < action then (0x0016, r, [])
  else if resvKey r h ≠ some key then (0x0619, r, [])
  else
    let others := (r.regs.filter (fun x => x.1 ≠ h)).map (fun x => x.1)
    if action = 1 then
      (0, { r with regs := [], holder := none, rtype := 0, gen := (r.gen + 1) % 2 ^ 32 },
        if r.holder.isSome then others.map (fun x => (3, x)) else [])
    else if !resvHolds r h then (0, r, [])
    else if r.rtype ≠ rtype then (0x0016, r, [])
    else (0, { r with holder := none, rtype := 0 }, if 3 ≤ r.rtype then others.map (fun x => (2, x)) else [])

/-- The reservation actions by NVMe opcode; for a Register `rtype` is CPTPL, which sets the persistence when it is 2 or 3. -/
def resvAct (op action : Nat) (h : List Byte) (key nkey rtype : Nat) (ignore : Bool) (r : Resv) : ResvRes :=
  match op with
  | 0x0D =>
    let x := resvRegister action h key nkey ignore r
    if x.1 = 0 ∧ 2 ≤ rtype then (0, { x.2.1 with persist := decide (rtype = 3) }, x.2.2) else x
  | 0x11 => resvAcquire action h key nkey rtype r
  | _ => resvRelease action h key rtype r

/-- The notices of a reservation action, on the attached controllers of each host (R304). -/
def resvNotify (v : Nat) (l : List (Nat × List Byte)) (s : State) : State :=
  l.foldl (fun s x => (s.host.ctrls.filter (fun c => c.hostId = x.2 ∧ c.kind ≠ 2)).foldl (fun s c =>
    if bitAt c.rsvMask x.1 then s
    else s |> updCtrl c.cntlid (fun c => { c with rsvLog := c.rsvLog ++ [(x.1, v)] }) |> asyncEvent c.cntlid 6 0 0x80) s) s

/-- Reservation Report in the extended form: generation, type, registered hosts (R333). -/
def resvReport (r : Resv) : List Byte :=
  leBytes 4 r.gen ++ leBytes 1 r.rtype ++ leBytes 2 r.regs.length ++ List.replicate 2 0 ++ leBytes 1 (b2n r.persist)
    ++ List.replicate 54 0
    ++ r.regs.flatMap (fun x => leBytes 2 0xFFFF ++ leBytes 1 (b2n (resvHolds r x.1)) ++ List.replicate 5 0 ++ leBytes 8 x.2
      ++ padTo 16 x.1 ++ List.replicate 32 0)

end Sys2Proof.Machine
end

