-- ==== Sys2Proof/Machine/Sluice.lean ====
section
/-! DEFINITION. The Headgate and the Sluice (R308, R309, R326 to R335): admission, the run of an admitted command, its
completion, and requests that pass between the devices (R534). -/

namespace Sys2Proof.Machine

/-! ### Waiting at the Headgate -/

/-- A host command: an NVMe or native command, local or forwarded (R308). -/
def hostCmd (c : Cmd) : Bool :=
  match c.src with
  | .nvme _ _ _ => true
  | .native _ _ => true
  | .partner _ => true
  | _ => false

/-- The records of a range that its journalled bytes do not cover wholly. -/
def neededRids (s : State) (v : Volume) (off len : Nat) : List Nat :=
  (chunksOf off len).filterMap (fun c => match mapGet v.map c with
    | none => none
    | some e =>
      let lo := max off (c * 8192)
      let hi := min (off + len) (c * 8192 + 8192)
      let covered := match layers s v.group c e.seqs with
        | .ok l => ((l.drop (lo - c * 8192)).take (hi - lo)).all Option.isSome
        | .error _ => true
      if covered then none else e.rid)

/-- A command needs the disk tier: a band, or a record that only a disk run holds (R95, R523). -/
def diskTier (s : State) (c : Cmd) : Bool :=
  match c.op with
  | .band _ _ => true
  | .read => onDisk
  | .verify => onDisk
  | _ => false
where
  /-- Some record that a read needs lies in a disk run. -/
  onDisk : Bool := (volOf s c.vol).any (fun v => (neededRids s v c.off c.len).any (fun r =>
    (recOf s v.group r).any (fun e => locTier e.loc = 2)))

/-- Disk-tier commands wait at the Headgate: after a brief VMOT overvoltage, and above 115 degrees (R82, R523). -/
def diskHeld (s : State) : Bool := s.pwr.diskWait || s.therm.over115

/-- The code that ends a disk-tier command: where this device cannot turn the spindle (R22), while VMOT is out of range after its
reaction, and in Fallow or on the way there (R82, R95). -/
def diskRefusal (s : State) : Option Nat :=
  if noDisk s then some 0x0A15
  else if s.pwr.vmotFallow ∧ s.pwr.startPermitted = false then some 0x0116
  else if mode s ≠ 5 ∧ s.pwr.target ≠ some 5 then none
  else if isSet s F.PWR_AUTO_WAKE then none
  else some 0x0115

/-- A command waits for a reason of its own group or volume: its group in Change, the hold of step 2 of R50, the cutover
hold of R397 (R327). -/
def ownHold (s : State) (c : Cmd) : Bool :=
  (diskHeld s && diskTier s c) || match volOf s c.vol with
  | none => false
  | some v =>
    (hostCmd c && decide (anaState s v.group = 4)) || s.host.groupHold.getD v.group false
      || drainHeld s v.num

/-- The entries of a command's chain, in order; alone where it has none. -/
def chainOf (s : State) (c : Cmd) : List Cmd :=
  match c.chain with
  | none => [c]
  | some n => s.host.cmds.filter (fun x => x.chain = some n)

/-- A command keeps behind an earlier one that waits for the disk and conflicts with it (R327, R523). -/
def diskBehind (s : State) (c : Cmd) : Bool :=
  diskHeld s && (s.host.cmds.takeWhile (fun x => x.id ≠ c.id)).any (fun x => decide (x.stage = 0) && diskTier s x && conflicts x c)

/-- The chain that the Headgate looks at: the first in arrival order that no reason of its own holds. -/
def nextAdmit (s : State) : Option (List Cmd) :=
  (s.host.cmds.find? (fun c => decide (c.stage = 0) && !(chainOf s c).any (fun x => decide (x.stage = 0) && (ownHold s x || diskBehind s x)))).map
    (fun c => (chainOf s c).filter (fun x => x.stage = 0))

/-- A write is small (R331). -/
def smallWrite (off len : Nat) : Bool := decide (len ≤ 262144 ∧ off / 1048576 = (off + max 1 len - 1) / 1048576)

/-- Journal bytes that a command needs (R331, R430, R452). -/
def poolNeed (s : State) (c : Cmd) : Nat :=
  match c.op with
  | .write => if smallWrite c.off c.len ∨ isSet s F.RACK_FLASH_RO = true then
      c.len / 4096 * 4096 + 4096 + 128 * (c.len / 262144 + 2) else 0
  | .zeroes => 2 * 8320
  | _ => 0

/-- The pool has no room for new entries (R454). -/
def poolShort (s : State) (n : Nat) : Bool :=
  decide (0 < n) && (decide (896 * 2 ^ 20 < poolBytes s false + poolBytes s true + n)
    || (mirrorUp s && decide (640 * 2 ^ 20 < poolBytes s false + n)))

/-- Writes wait while the flash tier is read-only and the backlog is high, or disk runs cannot be written yet (R92,
R430). -/
def roWait (s : State) (c : Cmd) : Bool :=
  isSet s F.RACK_FLASH_RO && decide (c.op = .write) &&
    (decide (768 * 2 ^ 20 < unreduced s) || (s.bring.active && !s.bring.fullCal))

/-- The command takes bytes from a volume range that must lie in the volume. -/
def rangeOk (v : Volume) (c : Cmd) : Bool :=
  match c.op with
  | .dealloc rs => rs.all (fun r => decide (r.1 + r.2 ≤ v.size))
  | .read => decide (c.off + c.len ≤ v.size)
  | .verify => decide (c.off + c.len ≤ v.size)
  | .write => decide (c.off + c.len ≤ v.size)
  | .zeroes => decide (c.off + c.len ≤ v.size)
  | _ => true

/-- The command changes bytes of the volume. -/
def isWriteOp (c : Cmd) : Bool :=
  match c.op with
  | .write => true
  | .zeroes => true
  | .dealloc _ => true
  | _ => false

/-- The command works on no volume. -/
def volumeless (c : Cmd) : Bool :=
  match c.op with
  | .nop => true
  | .band _ _ => true
  | .firmware _ _ => true
  | _ => false

/-- The checks that precede admission (R318, R333): the code that ends the command, if any. -/
def headgateCheck (s : State) (c : Cmd) : Option Nat :=
  if volumeless c then none
  else if s.volu.drain.moved.contains c.vol ∧ (volOf s c.vol).isNone = true then some 0x0725
  else match volOf s c.vol with
  | none => some 0x0714
  | some v =>
    if hostCmd c = true ∧ anaState s v.group = 3 then some 0x0A10
    else if hostCmd c = false ∧ holdsGroup s v.group = false then some 0x0A11
    else if !rangeOk v c then some 0x061A
    else if hostCmd c = true ∧ isWriteOp c = true ∧ v.kind = 2 then some 0x0715
    else if hostCmd c = true ∧ (isWriteOp c ∨ isRead c) ∧ resvAllows v.resv c.host (isWriteOp c) = false then some 0x0619
    else none

/-- The reservation operation number and fields of a forwarded command. -/
def fwdOf (c : Cmd) : FwdCmd :=
  let mk (op : Nat) (args : List Nat) : FwdCmd := ⟨op, c.vol, c.off, c.len, c.data, c.host, args⟩
  match c.op with
  | .write => mk 1 []
  | .read => mk 2 []
  | .zeroes => mk 8 []
  | .dealloc rs => mk 9 (rs.flatMap (fun r => [r.1, r.2]))
  | .verify => mk 12 []
  | .resv op a _ k n t i => mk op [a, k, n, t, b2n i]
  | _ => mk 0 []

/-- What a forwarded command carries, as numbers. -/
def fwdArgs (f : FwdCmd) : List Nat := [f.op, f.vol, f.off, f.len] ++ f.args ++ f.data.map (fun b => b.toNat)

/-- The partner holds a host command's group. -/
def partnerHolds (s : State) (c : Cmd) : Bool :=
  hostCmd c && (volOf s c.vol).any (fun v => !holdsGroup s v.group && decide (anaState s v.group ≠ 3))

/-- Move a command to the end of the admission order. -/
def toEnd (c : Cmd) (s : State) : State :=
  { s with host := { s.host with cmds := s.host.cmds.filter (fun x => x.id ≠ c.id) ++ [c] } }

/-- Admit one command: its place in the admission order is the last; a command of the partner's group is handed over and
takes no entry; a wait on a conflict is counted. -/
def admitOne (c : Cmd) (s : State) : State :=
  let fwd := partnerHolds s c
  let conf := s.host.cmds.any (fun x => decide (x.stage = 1 ∨ x.stage = 2) && conflicts x c)
  s |> toEnd { c with stage := 1, forwarded := fwd } |> (if conf && !fwd then count R.SLU_CONFLICT_LO 1 else fun s => s)

/-- End a chain from an entry that failed its check: it with its own code, the later ones with 0x0618. -/
def refuseFrom (code : Nat) (l : List Cmd) (s : State) : State :=
  match l with
  | [] => s
  | c :: r => r.foldl (fun s x => toEnd { x with stage := 3, status := some 0x0618 } s)
      (toEnd { c with stage := 3, status := some code } s)

/-- Admit the entries of a chain up to the first that fails a check. -/
def admitChain : List Cmd → State → State
  | [], s => s
  | c :: r, s =>
    match headgateCheck s c with
    | some e => refuseFrom e (c :: r) s
    | none => admitChain r (admitOne c s)

/-- The entries of a chain that the checks let through. -/
def passing (s : State) (l : List Cmd) : List Cmd := l.takeWhile (fun c => (headgateCheck s c).isNone)

/-- Commands that wait for the whole device's sake at a full table are counted once each (R329). -/
def holdFull (l : List Cmd) (s : State) : State :=
  let new := l.filter (fun c => !c.held)
  new.foldl (fun s c => updCmd c.id (fun c => { c with held := true }) s) (count R.SLU_HELD_LO new.length s)

/-- The device-wide waits, then admission (R327, R329, R454). -/
def headgateStep (s : State) : State :=
  match nextAdmit s with
  | none => s
  | some l =>
    let go := passing s l
    let slots := (go.filter (fun c => takesEntry c && !partnerHolds s c)).length
    let need := go.foldl (fun n c => n + poolNeed s c) 0
    if 8192 < sluiceUsed s + slots then holdFull l s
    else if go.any (roWait s) then s
    else if poolShort s need then
      if s.host.poolFull then s
      else { s with host := { s.host with poolFull := true } } |> raise 19 0x0817 2 0xFFFF 0
    else sluRefresh (admitChain l { s with host := { s.host with poolFull := if need = 0 then s.host.poolFull else false } })

/-- HEADGATE_ADMIT (R327): nothing is admitted while SYS_REFCLK is lost (R121). -/
def execHeadgateAdmit (s : State) : Out :=
  if admits s ∧ domOn s 10 ∧ isSet s F.CLK_BACKUP_ACTIVE = false then .next (pump (headgateStep s)) else .next s

/-- ANA_CHANGE_TIMEOUT (R308). -/
def execAnaChangeTimeout (k : Nat) (s : State) : Out :=
  match cmdOf s k with
  | none => .next s
  | some c =>
    if c.stage = 0 ∧ hostCmd c = true ∧ (volOf s c.vol).any (fun v => decide (anaState s v.group = 4)) = true then
      .next (sluRefresh (updCmd k (fun c => { c with stage := 3, status := some 0x061B }) s))
    else .next s

/-! ### Running -/

/-- End a command's run with a code. -/
def endCmd (id code : Nat) (s : State) : State := updCmd id (fun c => { c with status := some code }) s

/-- The bytes of a native buffer. -/
def bufBytes (s : State) (c : Cmd) : List Byte := c.buf.flatMap (fun p => memRead s (space c.bufSpace p.1) p.2)

/-- A buffer piece of a device space outside the space or the DMA windows (R317). -/
def bufBad (s : State) (c : Cmd) (w : Bool) : Option Nat :=
  if c.bufSpace = 0 then none
  else (c.buf.find? (fun p => !(spaceHolds s c.bufSpace p.1 p.2 && winOk s c.bufSpace p.1 p.2 w))).map (fun p => p.1)

/-- Some buffer of a native entry is out of reach: logged as a violation for a device space, a failed transfer for host
memory (R317). `w`: the device writes the buffer. -/
def bufCheck (c : Cmd) (w xferOk : Bool) (s : State) : Option (Nat × State) :=
  match c.src with
  | .native _ _ =>
    match bufBad s c w with
    | some a => some (0x0015, logViolation 16 (a % 2 ^ 32) 4 5 w s)
    | none => if c.bufSpace = 0 ∧ (xferOk = false ∨ hostReach s = false) then some (0x0018, s) else none
  | .nvme _ _ _ => if xferOk then none else some (0x0018, s)
  | _ => none

/-- Journal a write in pieces of at most 256 KiB within a 1 MiB region (R331, R430). -/
def journalPieces (v : Volume) (cs : Nat) (cmd : Option Nat) : Nat → Nat → List Byte → State → State
  | 0, _, _, s => s
  | fuel + 1, off, d, s =>
    if d.isEmpty then s
    else
      let n := min (min 262144 (1048576 - off % 1048576)) d.length
      journalPieces v cs cmd fuel (off + n) (d.drop n) (jAppend v.group 1 v.num off (d.take n) cs cmd s).2

/-- Start the reduction of each chunk of a large write (R331, R337): the written bytes over the chunk's older content. -/
def largeJobs (v : Volume) (id off : Nat) (data : List Byte) : List Nat → State → Except (Nat × Nat) State
  | [], s => .ok s
  | c :: r, s =>
    let whole := coversChunk off data.length v.size c
    let old : Except Nat (List Byte) := if whole then .ok (List.replicate 8192 0) else entBytes s v.group c (mapGet v.map c) 0 8192
    match old with
    | .error e => .error (e, c)
    | .ok b =>
      let d := b.mapIdx (fun i x => if off ≤ c * 8192 + i ∧ c * 8192 + i < off + data.length then data.getD (c * 8192 + i - off) 0 else x)
      largeJobs v id off data r (addJob (newJob v.group v.num c none (some id) d false) s)

/-- The synchronous source canals of a volume that are not CLOSED (R389). -/
def syncCanals (s : State) (v : Nat) : List Canal := s.volu.canals.filter (fun k => k.source && k.sync && decide (k.vol = v ∧ k.state ≠ 5))

/-- A canal that fails writes at once: DOWN, or DIVERGED under STRICT (R387). -/
def canalDown (k : Canal) : Bool := decide (k.state = 3) || (decide (k.state = 4) && !k.fallback)

/-- A write on a volume with synchronous canals (R387, R389, R391): sent and waited for while OPEN, or in OPENING under
STRICT; acknowledged locally, with its chunks in the dirty log or sent in a resynchronisation, otherwise. The last
sequence goes into the journal entry. -/
def canalWrites (c : Cmd) (data : List Byte) : List Canal → State → Nat × State
  | [], s => (0, s)
  | k :: r, s =>
    let wait := decide (k.state = 1) || (decide (k.state = 0) && !k.fallback)
    let resync := decide (k.state = 2 ∧ k.setup = 7) && k.xfer.isSome
    if wait || resync then
      let x := canalSend k.id c.off c.len data s
      let s1 := if wait then updCmd c.id (fun c => { c with canals := c.canals ++ [(k.id, x.1)] }) x.2 else x.2
      let y := canalWrites c data r s1
      (max x.1 y.1, y.2)
    else canalWrites c data r (enterDirty k.id (chunksOf c.off c.len) s)

/-- A host has written the volume (R396). -/
def hostWrote (c : Cmd) (n : Nat) (s : State) : State :=
  if hostCmd c then { s with tier := { s.tier with hostWritten := s.tier.hostWritten + n } } |> updVol c.vol (fun v => { v with hostWrites := true })
  else s

/-- A small write has no flash journal page to be had: the read-only tier's journal reserve is used up (R430). -/
def reserveOut (s : State) : Bool :=
  isSet s F.RACK_FLASH_RO && !mirrorUp s && (ownedChans s).all (fun c => decide (journalLeft s c = 0))

/-- A write runs (R330, R331, R429, R430). -/
def runWrite (c : Cmd) (v : Volume) (s : State) : State :=
  let data := match c.src with
    | .native _ _ => bufBytes s c
    | _ => c.data
  if capShort s ∧ allZeroWrite c.off data v.size = false then s |> setF F.RACK_CAP_FULL 1 |> endCmd c.id 0x0415
  else if (syncCanals s v.num).any canalDown then endCmd c.id 0x071F s
  else
    let ro := isSet s F.RACK_FLASH_RO
    if (smallWrite c.off c.len ∨ ro = true) ∧ reserveOut s = true then endCmd c.id 0x041A s
    else
      let x := canalWrites c data (syncCanals s v.num) s
      let s1 := updCmd c.id (fun c => { c with info := c.len }) (hostWrote c c.len x.2)
      if smallWrite c.off c.len ∨ ro = true then journalPieces v x.1 (some c.id) (c.len / 262144 + c.len / 1048576 + 3) c.off data s1
      else match largeJobs v c.id c.off data (chunksOf c.off c.len) s1 with
        | .ok s2 => flashRoCheck s2
        | .error e => s1 |> logChunk v.group v.num e.2 e.1 |> endCmd c.id e.1

/-- Whole chunks of a volume from `lo` to `hi` become zero references (R338, R427). -/
def zeroChunks (v lo hi : Nat) (s : State) : State :=
  match volOf s v with
  | none => s
  | some x => (x.map.filter (fun e => decide (lo ≤ e.1 ∧ e.1 < hi))).foldl (fun s e => s |> zeroChunk v e.1 |> jDrop x.group v e.1) s

/-- The whole chunks inside a range, the volume's last one counting as whole to its end. -/
def wholeChunks (v : Volume) (off len : Nat) : Nat × Nat :=
  ((off + 8191) / 8192, if off + len = v.size then (v.size + 8191) / 8192 else (off + len) / 8192)

/-- Write Zeroes runs: zero references for whole chunks, journalled zeros at the edges (R305, R337, R338). -/
def runZeroes (c : Cmd) (v : Volume) (s : State) : State :=
  if (syncCanals s v.num).any canalDown then endCmd c.id 0x071F s
  else
    let x := canalWrites c [] (syncCanals s v.num) s
    let w := wholeChunks v c.off c.len
    let s1 := hostWrote c 0 x.2
    if w.2 ≤ w.1 then journalPieces v x.1 (some c.id) 3 c.off (List.replicate c.len 0) s1
    else
      s1 |> zeroChunks v.num w.1 w.2 |> jRecord v.group 2
        |> journalPieces v x.1 (some c.id) 2 c.off (List.replicate (w.1 * 8192 - c.off) 0)
        |> journalPieces v x.1 (some c.id) 2 (w.2 * 8192) (List.replicate (c.off + c.len - w.2 * 8192) 0)
        |> jRelease

/-- Deallocate runs (R332, R427): whole chunks go; 0x0001 where some are kept, and before step 11 of Bring-up all are. -/
def runDealloc (c : Cmd) (v : Volume) (rs : List (Nat × Nat)) (s : State) : State :=
  if s.bring.active = true ∧ s.bring.maps = false then endCmd c.id 1 s
  else
    let part := rs.any (fun r => decide (r.1 % 8192 ≠ 0) || (decide ((r.1 + r.2) % 8192 ≠ 0) && decide (r.1 + r.2 ≠ v.size)))
    let s1 := rs.foldl (fun s r =>
      let w := wholeChunks v r.1 r.2
      let cs := (v.map.map (fun e => e.1)).filter (fun x => decide (w.1 ≤ x ∧ x < w.2))
      s |> zeroChunks v.num w.1 w.2 |> dirtyLog v.num cs) s
    s1 |> jRecord v.group 2 |> jRelease |> endCmd c.id (b2n part)

/-- The sequencer is to read a band for commands that wait on it (R404, R417). -/
def postRead (a b : Nat) (s : State) : State :=
  let r := runOf s a b
  if (s.fs.getD a FsSt.reset).queue.any (fun d => d.q = 257 ∧ d.cookie = b) then s
  else if (fsDead s a).isSome then needsEnd (fun n => decide (n.kind = 1 ∧ n.a = a ∧ n.b = b)) (fsDead s a) s
  else
    let n := ((List.range 36).filter (fun i => bitAt r.mask i)).length
    { s with fs := modAt s.fs a (fun f => { f with queue := f.queue ++ [⟨bandDesc 1 1 r.tag b r.mask 0 r.n (2 * n) 0, 257, b⟩] }) }

/-- A read needs the media that hold a record: its own flash pages and bands, or the partner's (R404). A command in
Fallow that needs the disk starts a wake, or fails with 0x0115 (R95). -/
def needRecord (id : Nat) (r : RecEnt) (s : State) : State :=
  let add (n : Need) : State → State := updCmd id (fun c => { c with needs := if c.needs.contains n then c.needs else c.needs ++ [n] })
  let ask (args : List Nat) (s : State) : State :=
    if isSet s F.NAL_UP then s |> add ⟨2, s.host.reqNext, 0⟩ |> askPartner 1 id args else endCmd id 0x0A10 s
  if locTier r.loc = 1 then
    let ls := if 16384 < locOfs r.loc + 16 * r.len16 then [locLfp r.loc, locLfp r.loc + 1] else [locLfp r.loc]
    ls.foldl (fun s l => match ppaOf s r.group l with
      | none => s
      | some p => if chOwned s (ppaCh p) then add ⟨0, r.group, l⟩ s else ask [0, r.group, l, p] s) s
  else if locTier r.loc = 2 then
    if owns s (locAct r.loc) then
      match diskRefusal s with
      | some e => endCmd id e s
      | none => s |> (if mode s = 5 ∨ s.pwr.target = some 5 then wakeRequest true else fun s => s) |> add ⟨1, locAct r.loc, locBand r.loc⟩
          |> postRead (locAct r.loc) (locBand r.loc)
    else ask [1, locAct r.loc, locBand r.loc] s
  else s

/-- A read or verify runs: it waits for its media, or takes its data at once (R348, R404). -/
def runRead (c : Cmd) (v : Volume) (s : State) : State :=
  let rids := (neededRids s v c.off c.len).foldl (fun l r => if l.contains r then l else l ++ [r]) []
  takeReads (rids.foldl (fun s r => match recOf s v.group r with
    | some e => needRecord c.id e s
    | none => s) s)

/-- The chunks that two maps differ in enter the dirty logs, and the synchronous canals of the volume are DEGRADED
(R378). -/
def restoreCanals (v : Nat) (cs : List Nat) (s : State) : State :=
  (syncCanals s v).foldl (fun s k => s |> enterDirty k.id cs |> updCanal k.id (fun k => { k with state := if k.state = 1 then 2 else k.state })) s

/-- SNAP_RESTORE runs (R378). -/
def runRestore (c : Cmd) (v : Volume) (n : Nat) (s : State) : State :=
  match snapOf v n with
  | none => endCmd c.id 0x0714 s
  | some x =>
    let cs := mapDiff v.map x.map
    s |> updVol v.num (fun v => { v with map := x.map, size := x.size }) |> mapGone v.group v.num v.map |> restoreCanals v.num cs
      |> jRecord v.group 4 |> jRelease |> (if x.size = v.size then fun s => s else nsChanged v.num v.access) |> endCmd c.id 0

/-- The effect of an admitted command. -/
def runCmd (c : Cmd) (xferOk : Bool) (s : State) : State :=
  if c.status.isSome then s
  else if c.forwarded then
    if isSet s F.NAL_UP then s |> updCmd c.id (fun c => { c with needs := [⟨2, s.host.reqNext, 0⟩] }) |> askPartner 0 c.id (fwdArgs (fwdOf c))
    else endCmd c.id 0x0A10 s
  else match c.op, volOf s c.vol with
  | .nop, _ => endCmd c.id 0 s
  | .firmware _ _, _ => endCmd c.id 0 s
  | .band a d, _ =>
    if ((c.buf.headD (0, 0)).1) % 16 ≠ 0 then endCmd c.id 0x0016 s
    else if let some e := bufCheck c true xferOk s then endCmd c.id e.1 e.2
    else if (diskRefusal s).isSome then endCmd c.id ((diskRefusal s).getD 0) s
    else if (fsDead s a).isSome then endCmd c.id ((fsDead s a).getD 0) s
    else s |> (if mode s = 5 ∨ s.pwr.target = some 5 then wakeRequest true else fun s => s) |> fun s => { s with fs := modAt s.fs a (fun f => { f with queue := f.queue ++ [⟨d, match c.src with
      | .native q _ => q
      | _ => 0, c.id⟩] }) } |> updCmd c.id (fun c => { c with needs := [⟨3, c.id, 0⟩] })
  | _, none => endCmd c.id 0x0714 s
  | .read, some v =>
    match bufCheck c true xferOk s with
    | some e => endCmd c.id e.1 e.2
    | none => runRead c v s
  | .verify, some v => runRead c v s
  | .write, some v =>
    match bufCheck c false xferOk s with
    | some e => endCmd c.id e.1 e.2
    | none => runWrite c v s
  | .zeroes, some v => runZeroes c v s
  | .dealloc rs, some v => runDealloc c v rs s
  | .resv op a h k n t i, some v =>
    let r := resvAct op a h k n t i v.resv
    s |> updVol v.num (fun v => { v with resv := r.2.1 }) |> jRecord v.group 4 |> resvNotify v.num r.2.2 |> endCmd c.id r.1
  | .snapTake, some v =>
    match takeSnap v none s with
    | .ok x => x.2 |> updCmd c.id (fun c => { c with info := x.1.num }) |> endCmd c.id 0
    | .error e => endCmd c.id e s
  | .snapRestore n, some v => runRestore c v n s
  | .volDelete w, some v =>
    if !v.snaps.isEmpty ∧ w = false then endCmd c.id 0x0717 s
    else if canalOn s v.num then endCmd c.id 0x0716 s
    else s |> nsChanged v.num v.access |> removeVolume v |> endCmd c.id 0
  | .volShrink n, some v =>
    s |> updVol v.num (fun v => { v with map := v.map.filter (fun e => e.1 < n / 8192), size := n })
      |> mapGone v.group v.num (v.map.filter (fun e => n / 8192 ≤ e.1)) |> jRecord v.group 4 |> jRelease |> endCmd c.id 0

/-- An earlier entry of the chain is still to complete; the takes of a snapshot set follow each other as they run
(R318, R376). -/
def chainBlocked (s : State) (c : Cmd) : Bool :=
  match c.chain with
  | none => false
  | some _ => ((chainOf s c).takeWhile (fun x => x.id ≠ c.id)).any (fun x => match c.src with
    | .mbox _ => x.status.isNone
    | _ => true)

/-- An earlier BAND entry of the same ring that has not been passed on yet (R316: in ring order). -/
def bandBefore (x c : Cmd) : Bool :=
  match x.op, c.op, x.src, c.src with
  | .band _ _, .band _ _, .native q _, .native r _ => decide (q = r ∧ x.stage = 1)
  | _, _, _, _ => false

/-- SLUICE_RUN (R327): no earlier-admitted command that conflicts is left. `xferOk`: its buffer can be moved; `cellarUe`: reading a write's
data from the Cellar finds a unit uncorrectable: the write ends with 0x0810 and is not acknowledged (R447). -/
def execSluiceRun (k : Nat) (xferOk : Bool) (cellarUe : Option (BitVec 26)) (s : State) : Out :=
  match cmdOf s k with
  | none => .next s
  | some c =>
    let earlier := (s.host.cmds.takeWhile (fun x => x.id ≠ k)).filter (fun x => x.stage = 1 ∨ x.stage = 2)
    if c.stage ≠ 1 ∨ domOn s 10 = false ∨ chainBlocked s c ∨ earlier.any (fun x => conflicts x c || bandBefore x c) = true then
      .next s
    else match cellarUe, c.op, c.forwarded || c.status.isSome with
    | some a, .write, false => .next (s |> updCmd k (fun c => { c with stage := 2 }) |> eccUe 0 a.toNat 3 |> endCmd k 0x0810)
    | _, _, _ => .next (runCmd c xferOk (updCmd k (fun c => { c with stage := 2 }) s))

/-! ### Completion -/

/-- The journal entries of a command have both copies (R331, R453). -/
def journalled (s : State) (id : Nat) : Bool :=
  s.journal.all (fun e => e.mirror || decide (e.cmd ≠ some id) || (e.sealed && secondCopy s e))

/-- Chunks of a command are still being reduced. -/
def hasJobs (s : State) (id : Nat) : Bool := s.red.jobs.any (fun j => j.cmd = some id)

/-- A command can complete: refused, failed with nothing left in progress, or done with everything it waited for; a
device that has stopped admitting acknowledges no write (R99). -/
def cmdReady (s : State) (c : Cmd) : Bool :=
  if c.stage = 3 then true
  else if c.stage ≠ 2 ∨ hasJobs s c.id then false
  else match c.status with
  | some e => decide (2 ≤ e) || (c.needs.isEmpty && c.canals.isEmpty)
  | none => c.needs.isEmpty && c.canals.isEmpty && journalled s c.id && admits s && isWriteOp c

/-- A stop reaches a running command at a chunk boundary (R323): reads, and large writes, whose chunks not yet started
are given up; an atomic write runs on. -/
def stopsHere (s : State) (c : Cmd) : Bool :=
  c.abort && (decide (c.stage = 1) || (decide (c.stage = 2) && (isRead c || hasJobs s c.id)))

/-- The commands of a chain behind one that failed are never run (R318). -/
def chainFail (c : Cmd) (s : State) : State :=
  match c.chain with
  | none => s
  | some n => { s with host := { s.host with cmds := s.host.cmds.map (fun x =>
      if x.chain = some n ∧ x.id ≠ c.id ∧ x.stage ≤ 1 then { x with stage := 3, status := some 0x0618 } else x) } }

/-- The reply of a request of the partner. -/
def replyPartner (req st : Nat) (data : List Byte) (s : State) : State :=
  nalSend 3 10 ([req, st] ++ data.map (fun b => b.toNat)) s

/-- Store a read's data into a native buffer. -/
def scatter (k : Nat) : List (Nat × Nat) → List Byte → State → State
  | [], _, s => s
  | p :: r, d, s => scatter k r (d.drop p.2) (spaceStore k p.1 (d.take p.2) s)

/-- The NVMe queue whose deletion waits has no command left: it goes, and Delete I/O SQ completes (R324). -/
def sqDeleteCheck (id q : Nat) (s : State) : State :=
  let busy := s.host.cmds.any (fun c => match c.src with
    | .nvme i p _ => decide (i = id ∧ p = q)
    | _ => false)
  match (ctrlOf s id).bind (fun c => sqOf c q) with
  | none => s
  | some x =>
    match x.deleting with
    | some cid =>
      if busy ∨ x.held ≠ [] then s
      else s |> updCtrl id (fun c => { c with sqs := c.sqs.filter (fun y => y.id ≠ q) }) |> nvDone id 0 cid 0 false |> nvmRefresh
    | none => s

/-- The snapshot set of a mailbox command ends as one (R376): with the numbers, or without any snapshot of it. -/
def setEnd (m : Nat) (l : List Cmd) (s : State) : State :=
  match l.find? (fun c => c.status ≠ some 0) with
  | none => mbxSetResult m ⟨0, l.flatMap (fun c => leBytes 2 c.info), 0, 0, []⟩ s
  | some f =>
    let s1 := l.foldl (fun s c => if c.status = some 0 then
        match (volOf s c.vol).bind (fun v => (snapOf v c.info).map (fun x => (v, x))) with
        | some (v, x) => removeSnap v x s
        | none => s
      else s) s
    mbxSetResult m (resStatus (f.status.getD 0)) s1

/-- Remove commands from the list. -/
def dropCmds (p : Cmd → Bool) (s : State) : State :=
  sluRefresh { s with host := { s.host with cmds := s.host.cmds.filter (fun c => !p c) } }

/-- The bytes that a command moved, for INFO of a failed one. -/
def movedInfo (c : Cmd) : Nat := if isRead c then c.data.length else c.info

/-- The completion of a command goes to where it came from. What INFO holds of a Deallocate that keeps chunks is not stated (R17, R320,
R332): a free value, with INFO_VALID (DESIGN CHOICE, log entry 96). -/
def postCmd (c : Cmd) (st : Nat) (xferOk : Bool) (s : State) : State :=
  let okRead := decide (c.op = .read ∧ st ≤ 1)
  match c.src with
  | .nvme id q cid =>
    if c.drop then s
    else if okRead && !xferOk then nvDone id q cid 0x0018 true s
    else (if okRead then send (.nvmeData id c.data) s else s) |> nvDone id q cid st (isRead c) |> sqDeleteCheck id q
  | .native q idx =>
    if c.drop then s
    else
      let bad := okRead && decide (c.bufSpace = 0) && (!xferOk || !hostReach s)
      let s1 := if okRead && !bad then scatter c.bufSpace c.buf c.data s else s
      let isBand := match c.op with
        | .band _ _ => true
        | _ => false
      let e := if bad then 0x0018 else st
      if e = 1 then
        let f := takeFree s1
        natDone q idx c.tag e (f.1.toNat % 2 ^ 32) true c.nocomp f.2
      else natDone q idx c.tag e (if isBand then c.info else if st = 0 then 0 else movedInfo c)
        (isBand || decide (1 < e ∧ (c.op = .read ∨ c.op = .write))) c.nocomp s1
  | .partner r => replyPartner r st (if c.op = .read then c.data else []) s
  | .mbox m => mbxSetResult m (resStatus st) s
  | .canal id seq => s |> (if st ≤ 1 then updVol c.vol (fun v => { v with applied := max v.applied seq }) else fun s => s)
      |> canalTx id 3 [seq, st]
  | .internal => s

/-- A command completes and leaves. -/
def finishCmd (c : Cmd) (st : Nat) (xferOk : Bool) (s : State) : State :=
  let s1 := { s with journal := s.journal.map (fun e => if !e.mirror && decide (e.cmd = some c.id) then { e with acked := true, cmd := none } else e)
                     tier := if hostCmd c && decide (c.op = .read ∧ st ≤ 1) then { s.tier with hostRead := s.tier.hostRead + c.len } else s.tier }
  let s2 := s1 |> (if 1 < st then chainFail c else fun s => s) |> dropCmds (fun x => x.id = c.id) |> postCmd c st xferOk |> jRelease
  pump (drainFinal (match c.src with
    | .native q _ => stopCheck q s2
    | _ => s2))

/-- Large-write chunks not yet started are given up. -/
def dropJobs (id : Nat) (s : State) : State :=
  { s with red := { s.red with jobs := s.red.jobs.filter (fun j => ¬(j.cmd = some id ∧ j.stage = 6)) } }

/-- The buffer of a read that a stop ends holds undefined data (R323). -/
def abortedRead (c : Cmd) (s : State) : State :=
  match c.src with
  | .native _ _ =>
    if c.op = .read ∧ (bufBad s c true).isNone = true ∧ (c.bufSpace ≠ 0 ∨ hostReach s = true) then
      let f := freeBytes c.len s
      scatter c.bufSpace c.buf f.1 f.2
    else s
  | _ => s

/-- COMMAND_FINISH (R328, R323): `stopped` says that a stop reached the command first; `xferOk` that a read's data could be moved;
`cellarUe` that its data is found uncorrectable in the Cellar: it is read again from the medium, the command running once more (R447). -/
def execCommandFinish (k : Nat) (stopped xferOk : Bool) (cellarUe : Option (BitVec 26)) (s : State) : Out :=
  match cmdOf s k with
  | none => .next s
  | some c =>
    if !domWorks s 10 then .next s
    else if stopped ∧ stopsHere s c then
      let s1 := dropJobs k s
      if hasJobs s1 k then .next s1
      else .next (s1 |> updCmd k (fun c => { c with stage := 2 }) |> abortedRead c |> finishCmd c 0x0614 xferOk |> (match c.src with
        | .native q _ => raise 12 0x0614 2 q 0
        | _ => fun s => s))
    else if !cmdReady s c ∨ (c.chain.isSome ∧ (chainOf s c).head?.map (fun x => x.id) ≠ some k) then .next s
    else match c.src, c.op with
    | .mbox m, .snapTake =>
      let l := chainOf s c
      if l.all (fun x => decide (2 ≤ x.stage) && x.status.isSome) then
        .next (drainFinal (s |> setEnd m l |> dropCmds (fun x => x.chain = c.chain)))
      else .next s
    | _, .read =>
      (match cellarUe, hostCmd c && decide (c.stage = 2 ∧ c.status.getD 0 ≤ 1) && !c.forwarded with
       | some a, true =>
         .next (s |> eccUe 0 a.toNat 3 |> updCmd k (fun c => { c with stage := 1, status := none, data := [], needs := [] }) |> sluRefresh)
       | _, _ => .next (finishCmd c (c.status.getD 0) xferOk s))
    | _, _ => .next (finishCmd c (c.status.getD 0) xferOk s)

/-! ### The partner's replies -/

/-- Take a request out of the list. -/
def dropReq (r : Nat) (s : State) : State := { s with host := { s.host with reqs := s.host.reqs.filter (fun x => x.req ≠ r) } }

/-- A host command that came back without effect is resolved again (R534): performed here, sent again, or Inaccessible.
It keeps its place. -/
def resolveHost (c : Cmd) (s : State) : State :=
  match volOf s c.vol with
  | none => endCmd c.id 0x0714 s
  | some v =>
    if holdsGroup s v.group then sluRefresh (updCmd c.id (fun c => { c with forwarded := false, stage := 0, needs := [] }) s)
    else if (tok s (4 + v.group)).state = .releasing ∨ isSet s F.NAL_UP = false then
      s |> updCmd c.id (fun c => { c with needs := [] }) |> endCmd c.id 0x0A10
    else s |> updCmd c.id (fun c => { c with needs := [⟨2, s.host.reqNext, 0⟩] }) |> askPartner 0 c.id (fwdArgs (fwdOf c))

/-- A media read that came back is resolved again. -/
def resolveMedia (c : Cmd) (req : Nat) (args : List Nat) (s : State) : State :=
  let s1 := updCmd c.id (fun c => { c with needs := c.needs.filter (fun n => ¬(n.kind = 2 ∧ n.a = req)) }) s
  let rel := match args with
    | [0, g, l, _] => (ppaOf s g l).any (fun p => decide ((tok s (8 + ppaCh p)).state = TokState.releasing))
    | [_, a, _] => decide ((tok s a).state = TokState.releasing)
    | _ => false
  if rel then endCmd c.id 0x0A10 s1
  else match args with
  | [0, g, l, _] =>
    (match ppaOf s1 g l with
     | none => takeReads s1
     | some p =>
       if chOwned s1 (ppaCh p) then updCmd c.id (fun c => { c with needs := c.needs ++ [Need.mk 0 g l] }) s1
       else if isSet s1 F.NAL_UP then
         s1 |> updCmd c.id (fun c => { c with needs := c.needs ++ [Need.mk 2 s1.host.reqNext 0] }) |> askPartner 1 c.id [0, g, l, p]
       else endCmd c.id 0x0A10 s1)
  | [_, a, b] =>
    if owns s1 a then s1 |> updCmd c.id (fun c => { c with needs := c.needs ++ [Need.mk 1 a b] }) |> postRead a b
    else if isSet s1 F.NAL_UP then
      s1 |> updCmd c.id (fun c => { c with needs := c.needs ++ [Need.mk 2 s1.host.reqNext 0] }) |> askPartner 1 c.id args
    else endCmd c.id 0x0A10 s1
  | _ => s1

/-- The medium's bytes that the partner read (R404). -/
def mediaArrives (args : List Nat) (data : List Byte) (s : State) : State :=
  match args with
  | [0, _, _, p] => memWrite (pageAddr p) (data.take 16384) s
  | [_, a, b] => memWrite (runAddr a b 0) data s
  | _ => s

/-- FORWARD_REPLY_RECEIVED (R309, R404, R534). -/
def execForwardReplyReceived (req status : Nat) (data : List Byte) (s : State) : Out :=
  match s.host.reqs.find? (fun r => r.req = req) with
  | none => .next s
  | some r =>
    let s1 := dropReq req s
    match r.kind with
    | 0 =>
      (match cmdOf s r.ref with
       | none => .next s1
       | some c =>
         if status = 0x0A11 then .next (resolveHost c s1)
         else .next (updCmd c.id (fun c => { c with needs := [], status := some status, data := if c.op = .read then data else c.data }) s1))
    | 1 =>
      (match cmdOf s r.ref with
       | none => .next s1
       | some c =>
         if status = 0x0A11 then .next (resolveMedia c req r.args s1)
         else .next (s1 |> (if status ≤ 1 then mediaArrives r.args data else fun s => s)
           |> needsDone (fun n => decide (n.kind = 2 ∧ n.a = req)) (if status ≤ 1 then none else some status)))
    | _ =>
      if status = 0x0A11 then
        match groupNamed s (mbxAt s r.ref).cmd with
        | some g =>
          if holdsGroup s g then .next { s1 with mbx := modAt s1.mbx r.ref (fun x => { x with started := false }) }
          else if (tok s (4 + g)).state = .releasing ∨ isSet s F.NAL_UP = false then .next (mbxSetResult r.ref (resStatus 0x0A10) s1)
          else .next (askPartner 2 r.ref r.args s1)
        | none => .next (mbxSetResult r.ref (resStatus 0x0A10) s1)
      else .next (mbxSetResult r.ref ⟨status, data, 0, 0, []⟩ s1)

/-! ### Statistics -/

/-- SLU_STATS (R335). -/
def execSluStats (m : Fin 16) (s : State) : Out :=
  .next (mbxRow m.val 0x0604 anyParam (fun _ s =>
    answerData (leBytes 4 (rdN s R.SLU_STATUS) ++ leBytes 4 (rdN s R.SLU_HWM) ++ leBytes 8 (cntVal s R.SLU_CONFLICT_LO)
      ++ leBytes 8 (cntVal s R.SLU_HELD_LO)) s) s)

/-- Both high-water marks take the present values. -/
def hwmReset (s : State) : State :=
  s |> setF F.SLU_HWM_HEADGATE (getF s F.SLU_HEADGATE) |> setF F.SLU_HWM_USED (getF s F.SLU_USED)

/-- SLU_HWM_RST (R335). -/
def execSluHwmRst (p : Path) (s : State) : Out := .next (busAct p R.SLU_HWM 0x80000000 (acc hwmReset) s)

end Sys2Proof.Machine
end

