-- ==== Sys2Proof/Machine/Native.lean ====
section
/-! DEFINITION. The rows of the native rings (R310 to R325): doorbells and polling, the entry kinds, FENCE entries, queue
states and the queue commands. -/

namespace Sys2Proof.Machine

/-! ### Doorbells -/

/-- A submission doorbell: an ACTIVE queue reads SQ_PROD and fetches (R313). -/
def sqBell (q : Nat) (s : State) : State :=
  if getF s (F.Q_STATE q) = 1 then s |> readSqProd q |> natFetch q else s

/-- A completion doorbell: in every state but FREE, CQ_CONS is read and held completions are posted (R313, R325). -/
def cqBell (q : Nat) (s : State) : State :=
  if getF s (F.Q_STATE q) = 0 then s else s |> readCqCons q |> natDrain q 1100 |> natFetch q |> stopCheck q

/-- Q_DB_SQ (R313). `host` is what the host has written into its memory. -/
def execQDbSq (p : Path) (q : Fin 256) (host : List Host.Cell) (s : State) : Out :=
  .next (busAct p (R.Q_DB q.val) 1 (acc (sqBell q.val)) (hostPlaces host s))

/-- Q_DB_CQ (R313). -/
def execQDbCq (p : Path) (q : Fin 256) (host : List Host.Cell) (s : State) : Out :=
  .next (busAct p (R.Q_DB q.val) 2 (acc (cqBell q.val)) (hostPlaces host s))

/-- A push (R319): the copies of the window's slots become the last published entries; a PUSH of 5 to 7 is ignored and a
PUSH beyond the unfetched entries takes only that number, counted from slot n - 1 downward; both set Q_DB_BAD. Copies of an earlier push that
are still unfetched stay. -/
def pushTake (q n : Nat) (sq : Bool) (s : State) : State :=
  let x := natOf s q
  if 4 < n then setF F.SLU_DB_BAD 1 s
  else if n = 0 ∨ sq = false ∨ getF s (F.Q_STATE q) ≠ 1 then s
  else
    let s1 := readSqProd q s
    let y := natOf s1 q
    let m := min n (published y)
    let s2 := if m < n then setF F.SLU_DB_BAD 1 s1 else s1
    let new := (List.range m).map (fun i => ((y.sqProd + 2 ^ 32 - 1 - i) % 2 ^ 32, slice x.window (64 * (n - 1 - i)) 64))
    updNat q (fun z => { z with pushed := new ++ z.pushed.filter (fun p => !new.any (fun e => e.1 = p.1)) }) s2

/-- Q_DB_PUSH (R319): a Q_DB write with PUSH = n, and with its other bits as they are. -/
def execQDbPush (p : Path) (q : Fin 256) (n : Fin 8) (cq : Bool) (sq : Bool) (host : List Host.Cell) (s : State) : Out :=
  .next (busAct p (R.Q_DB q.val) (BitVec.ofNat 32 (4 * n.val + 2 * b2n cq + b2n sq))
    (acc (fun s => s |> pushTake q.val n.val sq |> (if cq then cqBell q.val else fun s => s)
      |> (if sq then sqBell q.val else fun s => s))) (hostPlaces host s))

/-- Q_POLL_TIMER (R313). -/
def execQPollTimer (q : Fin 256) (host : List Host.Cell) (s : State) : Out :=
  if isSet s (F.Q_POLL q.val) ∧ domOn s 10 then .next (sqBell q.val (hostPlaces host s)) else .next s

/-! ### Entries -/

/-- Take the oldest fetched entry of a queue when it has the row's kind. -/
def natTake (q : Nat) (kind : Nat → Bool) (s : State) : Option (Fetched × State) :=
  match (natOf s q).fetched with
  | f :: r => if kind (nKind f.bytes) && admits s then some (f, updNat q (fun x => { x with fetched := r }) s) else none
  | [] => none

/-- The command that an entry stands for. -/
def natCmd (f : Fetched) (op : CmdOp) (wr : Bool) : Cmd :=
  { newCmd (.native f.q f.idx) op (leAt f.bytes 2 2) (leAt f.bytes 8 8) (leAt f.bytes 16 4) wr with
    bufSpace := leAt f.bytes 20 1, tag := leAt f.bytes 4 4, nocomp := bitAt (leAt f.bytes 1 1) 1, chain := f.chain, last := f.last }

/-- The pieces of a gather list, or none where it breaks R316. -/
def gatherPieces (len n : Nat) (b : List Byte) : Option (List (Nat × Nat)) :=
  let ps := (List.range n).map (fun i => (leAt b (16 * i) 8, leAt b (16 * i + 8) 4, leAt b (16 * i + 12) 4))
  if ps.all (fun p => decide (p.2.1 ≠ 0 ∧ p.2.1 % 512 = 0 ∧ p.2.2 = 0)) && decide (ps.foldl (fun a p => a + p.2.1) 0 = len)
  then some (ps.map (fun p => (p.1, p.2.1))) else none

/-- The buffer of an entry: one piece, or its gather list as read from memory; a faulty list, or one out of reach, sets
the status that the entry ends with (R316, R317). -/
def natBuf (f : Fetched) (c : Cmd) (s : State) : Cmd × State :=
  let a := leAt f.bytes 24 8
  if !nSgl f.bytes then ({ c with buf := [(a, c.len)] }, s)
  else
    let n := leAt f.bytes 32 2
    if c.bufSpace ≠ 0 ∧ ¬(spaceHolds s c.bufSpace a (16 * n) = true ∧ winOk s c.bufSpace a (16 * n) false = true) then
      ({ c with status := some 0x0015 }, logViolation 16 (a % 2 ^ 32) 4 5 false s)
    else if c.bufSpace = 0 ∧ hostReach s = false then ({ c with status := some 0x0018 }, s)
    else match gatherPieces c.len n (memRead s (space c.bufSpace a) (16 * n)) with
    | some ps => ({ c with buf := ps }, s)
    | none => ({ c with status := some 0x0011 }, s)

/-- NATIVE_NOP (R316): completes with no effect; in a chain it runs in its place. -/
def execNativeNop (q : Fin 256) (s : State) : Out :=
  match natTake q.val (fun k => decide (k = 0)) s with
  | none => .next s
  | some (f, s1) =>
    let c := natCmd f .nop false
    if f.chain.isSome then .next (enter { c with vol := 0 } s1)
    else .next (s1 |> natDone q.val f.idx c.tag 0 0 false c.nocomp |> stopCheck q.val)

/-- NATIVE_READ (R316). -/
def execNativeRead (q : Fin 256) (s : State) : Out :=
  match natTake q.val (fun k => decide (k = 1)) s with
  | none => .next s
  | some (f, s1) =>
    let r := natBuf f (natCmd f .read false) s1
    .next (enter r.1 r.2)

/-- NATIVE_WRITE (R316). -/
def execNativeWrite (q : Fin 256) (s : State) : Out :=
  match natTake q.val (fun k => decide (k = 2)) s with
  | none => .next s
  | some (f, s1) =>
    let r := natBuf f (natCmd f .write true) s1
    .next (enter r.1 r.2)

/-- NATIVE_WRITE_ZEROES (R316). -/
def execNativeWriteZeroes (q : Fin 256) (s : State) : Out :=
  match natTake q.val (fun k => decide (k = 3)) s with
  | none => .next s
  | some (f, s1) => .next (enter (natCmd f .zeroes true) s1)

/-- NATIVE_DEALLOCATE (R316, R332). -/
def execNativeDeallocate (q : Fin 256) (s : State) : Out :=
  match natTake q.val (fun k => decide (k = 4)) s with
  | none => .next s
  | some (f, s1) => .next (enter (natCmd f (.dealloc [(leAt f.bytes 8 8, leAt f.bytes 16 4)]) true) s1)

/-- NATIVE_VERIFY (R316). -/
def execNativeVerify (q : Fin 256) (s : State) : Out :=
  match natTake q.val (fun k => decide (k = 5)) s with
  | none => .next s
  | some (f, s1) => .next (enter (natCmd f .verify false) s1)

/-- A BAND entry of a queue that has not been passed on yet. -/
def bandQueued (q : Nat) (c : Cmd) : Bool :=
  match c.op, c.src with
  | .band _ _, .native p _ => decide (p = q ∧ c.stage ≤ 1)
  | _, _ => false

/-- NATIVE_BAND (R316): the descriptor goes to the sequencer in ring order; it takes no Sluice entry, and in a chain it runs in its
place. -/
def execNativeBand (q : Fin 256) (s : State) : Out :=
  match natTake q.val (fun k => decide (0x20 ≤ k ∧ k ≤ 0x23)) s with
  | none => .next s
  | some (f, s1) =>
    let c := { natCmd f (.band (nKind f.bytes - 0x20) (slice f.bytes 32 32)) false with vol := 0, buf := [(leAt f.bytes 24 8, 16)] }
    let n := s1.host.cmdNext
    let s2 := enter c s1
    if f.chain.isSome ∨ s1.host.cmds.any (fun x => bandQueued q.val x) = true then .next s2
    else match cmdOf s2 n with
    | some x => .next (sluRefresh (runCmd x true (updCmd n (fun c => { c with stage := 2 }) s2)))
    | none => .next s2

/-- FIRMWARE_KIND_ENTRY (R316, R318): firmware posts internal work; its key has the form of a host entry's, in class W
(log entry 45). -/
def execFirmwareKindEntry (q : Fin 32) (entry : List Byte) (s : State) : Out :=
  let k := nKind entry
  if 0x40 ≤ k ∧ k ≤ 0x7F ∧ admits s = true ∧ headgateFull s = false then
    .next (enter (natCmd ⟨q.val, 0, entry, none, true⟩ (.firmware k true) true) s)
  else .next s

/-! ### FENCE entries (R321) -/

/-- The queues of a FENCE's mask. -/
def fenceQueues (b : List Byte) : List Nat := (List.range 256).filter (fun q => bitAt (leAt b 32 32) q)

/-- NVMe commands in progress: of every I/O queue, fetched or at the Headgate or beyond, by number. -/
def nvBusy (s : State) : List Nat :=
  (s.host.nvFetched.filter (fun f => f.2.2.1 ≠ 0)).map (fun f => f.1) ++
  (s.host.cmds.filter (fun c => match c.src with
    | .nvme _ _ _ => true
    | _ => false)).map (fun c => c.id)

/-- Mailbox commands in progress with a sequence number at or below `n`. -/
def mbxBusy (s : State) (n : Nat) : List Nat :=
  (List.range 16).filter (fun m => decide (mbxState s m = 1 ∨ mbxState s m = 2) &&
    (decide ((mbxAt s m).seq.toNat = n) || newer 32 n (mbxAt s m).seq.toNat))

/-- NATIVE_FENCE (R321): the next entry of the queue is a FENCE; it is fetched with what it waits for, and nothing
follows it. -/
def execNativeFence (q : Fin 256) (s : State) : Out :=
  let x := natOf s q.val
  let b := entryAt s q.val x.sqCons
  if published x = 0 ∨ natFetches s q.val = false ∨ nKind b ≠ 8 ∨ entryBad s q.val b = true then .next s
  else
    let len := leAt b 16 4
    let es := (q.val :: fenceQueues b).flatMap (fun k => (natFetched s k).map (fun i => (k, i)))
    let w : FenceWait := ⟨x.sqCons, leAt b 4 4, bitAt (leAt b 1 1) 1, es, if bitAt len 17 then nvBusy s else [],
      if bitAt len 16 then (mbxBusy s (rdN s R.MBX_SEQ_LAST)).map (fun m => (mbxAt s m).seq.toNat) else []⟩
    .next (s |> updNat q.val (fun x => { x with fence := some w, sqCons := idxPlus x.sqCons 1,
                                                pushed := x.pushed.filter (fun p => p.1 ≠ x.sqCons) })
      |> putSqCons q.val |> setF (F.Q_FENCE_WAIT q.val) 1)

/-- Everything that a FENCE waits for has completed. -/
def fenceMet (s : State) (w : FenceWait) : Bool :=
  w.entries.all (fun e => !(natFetched s e.1).contains e.2)
    && w.nvme.all (fun n => !(nvBusy s).contains n)
    && w.mboxes.all (fun n => !(List.range 16).any (fun m => decide (mbxState s m = 1 ∨ mbxState s m = 2) && decide ((mbxAt s m).seq.toNat = n)))

/-- A FENCE completes with a status, and the queue goes on. -/
def fenceEnd (q st : Nat) (w : FenceWait) (s : State) : State :=
  s |> updNat q (fun x => { x with fence := none }) |> setF (F.Q_FENCE_WAIT q) 0 |> natDone q w.idx w.tag st 0 false w.nocomp
    |> natFetch q |> stopCheck q

/-- NATIVE_FENCE_DONE (R321). -/
def execNativeFenceDone (q : Fin 256) (s : State) : Out :=
  match (natOf s q.val).fence with
  | some w => if fenceMet s w ∧ domOn s 10 then .next (fenceEnd q.val 0 w s) else .next s
  | none => .next s

/-- NATIVE_FENCE_LIMIT_EXPIRY (R321). -/
def execNativeFenceLimitExpiry (q : Fin 256) (s : State) : Out :=
  match (natOf s q.val).fence with
  | some w => if domOn s 10 then .next (fenceEnd q.val 0x0019 w s) else .next s
  | none => .next s

/-! ### Queue states (R322, R323) -/

/-- Complete published entries that were never fetched with a status; SQ_CONS passes them. -/
def endPublished (q st : Nat) : Nat → State → State
  | 0, s => s
  | n + 1, s =>
    let x := natOf s q
    if published x = 0 then s
    else
      let b := entryAt s q x.sqCons
      endPublished q st n (s |> updNat q (fun x => { x with sqCons := idxPlus x.sqCons 1 }) |> putSqCons q
        |> natPost q (natCqe (leAt b 4 4) st x.sqCons 0 false))

/-- A stop in ABORT mode (R323): everything not admitted completes with 0x0613; what is admitted is to stop. -/
def natStopGo (q : Nat) (s0 : State) : State :=
  let s := setF (F.Q_STATE q) 2 (readSqProd q s0)
  let s0' := setF (F.Q_STATE q) 2 s
  let x := natOf s0' q
  let isOf (c : Cmd) : Bool := match c.src with
    | .native p _ => decide (p = q)
    | _ => false
  let head := s0'.host.cmds.filter (fun c => isOf c && decide (c.stage = 0))
  let s1 := x.fetched.foldl (fun s f => natPost q (natCqe (leAt f.bytes 4 4) 0x0613 f.idx 0 false) s)
    (updNat q (fun x => { x with fetched := [], fence := none }) s0')
  let s2 := match x.fence with
    | some w => natPost q (natCqe w.tag 0x0613 w.idx 0 false) s1
    | none => s1
  let s3 := head.foldl (fun s c => match c.src with
    | .native _ i => natPost q (natCqe c.tag 0x0613 i 0 false) s
    | _ => s) (dropCmds (fun c => isOf c && decide (c.stage = 0)) s2)
  let s4 := { s3 with host := { s3.host with cmds := s3.host.cmds.map (fun c =>
    if isOf c && decide (c.stage ≠ 3) then { c with abort := (match c.op with
      | .band _ _ => false
      | _ => true) } else c) } }
  s4 |> setF (F.Q_FENCE_WAIT q) 0 |> endPublished q 0x0613 (ringSize x) |> updNat q (fun x => { x with pushed := [] })

/-- A stop request (R322): the status it answers; 0 when the stop is under way. -/
def natStop (q : Nat) (s : State) : Nat × State :=
  let st := getF s (F.Q_STATE q)
  if st ≠ 1 ∧ st ≠ 4 then (0x0616, s)
  else if isSet s (F.Q_SHUT_MODE q) then (0x0615, setF (F.Q_STOP_REFUSED q) 1 s)
  else (0, natStopGo q s)

/-- A resume request: ERROR restarts at ERR_INDEX, from the ring, which host software may have rewritten; STOPPED at SQ_CONS; SQ_PROD is read afresh (R313, R322). -/
def natResume (q : Nat) (s : State) : Nat × State :=
  let st := getF s (F.Q_STATE q)
  if st = 4 ∨ st = 3 then
    (0, s |> (if st = 4 then updNat q (fun x => { x with sqCons := x.errIndex, pushed := [] }) else fun s => s) |> setF (F.Q_STATE q) 1
      |> readSqProd q |> natFetch q)
  else (0x0616, s)

/-- A skip request: the latched entry, or every entry of its chain, completes with the error; 0x0611 acts as a resume
(R322). -/
def natSkip (q : Nat) (s : State) : Nat × State :=
  if getF s (F.Q_STATE q) ≠ 4 then (0x0616, s)
  else
    let x := natOf s q
    if x.errStatus = 0x0611 then natResume q s
    else
      let s1 := (List.range x.errLen).foldl (fun s i =>
        natPost q (natCqe (leAt (entryAt s q (idxPlus x.errIndex i)) 4 4) x.errStatus (idxPlus x.errIndex i) 0 false) s) s
      (0, s1 |> updNat q (fun y => { y with sqCons := idxPlus x.errIndex x.errLen, pushed := y.pushed.filter (fun p => x.errLen ≤ (p.1 + 2 ^ 32 - x.errIndex) % 2 ^ 32) }) |> putSqCons q |> setF (F.Q_STATE q) 1
        |> readSqProd q |> natFetch q)

/-- Q_CTL_STOP (R322): in the wrong state the request is ignored. -/
def execQCtlStop (p : Path) (q : Fin 256) (s : State) : Out :=
  .next (busAct p (R.Q_CTL q.val) 1 (acc (fun s => stopCheck q.val (natStop q.val s).2)) s)

/-- Q_CTL_RESUME (R322). -/
def execQCtlResume (p : Path) (q : Fin 256) (s : State) : Out :=
  .next (busAct p (R.Q_CTL q.val) 2 (acc (fun s => (natResume q.val s).2)) s)

/-- Q_CTL_SKIP (R322). -/
def execQCtlSkip (p : Path) (q : Fin 256) (s : State) : Out :=
  .next (busAct p (R.Q_CTL q.val) 4 (acc (fun s => (natSkip q.val s).2)) s)

/-! ### Queue commands (R311, R335) -/

/-- The requester's function is the queue's: the PCIe function for a PCIe mailbox and a ring in host memory, the device
otherwise (R324, R335). -/
def queueMine (s : State) (m q : Nat) : Bool :=
  decide (32 ≤ q) && (decide (getF s (F.Q_STATE q) = 0) || decide ((mbxTransport m = 2) = ((natOf s q).sqSpace = 0)))

/-- Run a queue command on queue `q` of the requester's function; 0x0617 otherwise. -/
def queueCmd (m : Nat) (c : MbxCmd) (f : Nat → State → State × Option MbxResult) (s : State) : State × Option MbxResult :=
  if queueMine s m (par c 0 8) then f (par c 0 8) s else answer 0x0617 s

/-- A device address of a descriptor lies in a forbidden window: the kinds of access its part needs. -/
def descBad (s : State) (sp a n : Nat) (r w : Bool) : Bool :=
  decide (sp = 1) && !(spaceHolds s 1 a n && (!r || winOk s 1 a n false) && (!w || winOk s 1 a n true))

/-- Q_CREATE (R311). -/
def execQCreate (m : Fin 16) (s : State) : Out :=
  .next (mbxRow m.val 0x0600 anyParam (fun c s =>
    let d := c.data
    let q := leAt d 0 1
    let sp := leAt d 1 1
    let lg := leAt d 2 1
    let fl := leAt d 3 1
    let sq := leAt d 8 8
    let cq := leAt d 16 8
    let ix := leAt d 24 8
    if d.length ≠ 64 then answer 0x0011 s
    else if q < 32 ∨ getF s (F.Q_STATE q) ≠ 0 then answer 0x0617 s
    else if sp % 4 > 1 ∨ sp / 4 % 4 > 1 ∨ sp / 16 > 1 ∨ lg < 4 ∨ 16 < lg ∨ 16 ≤ fl ∨ 2047 < leAt d 4 2 ∨ leAt d 6 2 ≠ 0
        ∨ sq % 4096 ≠ 0 ∨ cq % 4096 ≠ 0 ∨ ix % 64 ≠ 0 ∨ (slice d 32 32).any (fun b => b ≠ 0) = true then answer 0x0016 s
    else
      let bad := if descBad s (sp % 4) sq (64 * 2 ^ lg) true false then some (sq, false)
        else if descBad s (sp / 4 % 4) cq (16 * 2 ^ lg) false true then some (cq, true)
        else if descBad s (sp / 16 % 4) ix 64 true true then some (ix, true) else none
      match bad with
      | some (a, w) => answer 0x0015 (logViolation 16 (a % 2 ^ 32) 4 (if mbxTransport m.val = 4 then 4 else 0) w s)
      | none =>
        let x : NatQ := { NatQ.reset with sqSpace := sp % 4, cqSpace := sp / 4 % 4, idxSpace := sp / 16 % 4, log2 := lg, sqAddr := sq,
                                          cqAddr := cq, idxAddr := ix, window := (natOf s q).window }
        let s1 := if spaceReach s x.idxSpace then spaceStore x.idxSpace ix (List.replicate 16 0) s else s
        answer 0 (s1 |> updNat q (fun _ => x)
          |> wr (R.Q_CTL q) (BitVec.ofNat 32 (leAt d 4 2 * 2 ^ 16 + b2n (bitAt fl 1) * 2 ^ 9 + b2n (bitAt fl 0) * 2 ^ 8
              + b2n (bitAt fl 2) * 2 ^ 4 + b2n (bitAt fl 3) * 2 ^ 3))
          |> wr (R.Q_STATUS q) (BitVec.ofNat 32 (getF s (F.Q_FENCE_HOLD q) * 2 ^ 6 + 1)))) s)

/-- A queue becomes FREE. -/
def natFree (q : Nat) (s : State) : State :=
  s |> updNat q (fun x => { NatQ.reset with window := x.window }) |> wr (R.Q_CTL q) 0
    |> wr (R.Q_STATUS q) (BitVec.ofNat 32 (getF s (F.Q_FENCE_HOLD q) * 2 ^ 6))

/-- Q_DELETE (R322, R335). -/
def execQDelete (m : Fin 16) (s : State) : Out :=
  .next (mbxRow m.val 0x0601 anyParam (fun c s => queueCmd m.val c (fun q s =>
    if isSet s (F.Q_SHUT_MODE q) then answer 0x0615 s
    else if getF s (F.Q_STATE q) ≠ 3 then answer 0x0616 s
    else answer 0 (natFree q s)) s) s)

/-- Q_STOP (R323, R335): it completes at STOPPED. -/
def execQStop (m : Fin 16) (s : State) : Out :=
  let s1 := mbxRow m.val 0x0602 anyParam (fun c s => queueCmd m.val c (fun q s =>
    let r := natStop q s
    if r.1 ≠ 0 then answer r.1 r.2 else (updNat q (fun x => { x with stopMbx := some m.val }) r.2, none)) s) s
  .next (match (List.range 256).find? (fun q => (natOf s1 q).stopMbx = some m.val) with
    | some q => stopCheck q s1
    | none => s1)

/-- The SKIP bit of Q_RESUME. -/
def skipBit (b : Nat) (c : MbxCmd) : Bool := decide (par c 8 1 = b)

/-- Q_RESUME (R322, R335). -/
def execQResume (m : Fin 16) (s : State) : Out :=
  .next (mbxRow m.val 0x0603 (skipBit 0) (fun c s => queueCmd m.val c (fun q s =>
    let r := natResume q s
    answer r.1 r.2) s) s)

/-- Q_RESUME with SKIP (R322, R335). -/
def execQResumeSkip (m : Fin 16) (s : State) : Out :=
  .next (mbxRow m.val 0x0603 (skipBit 1) (fun c s => queueCmd m.val c (fun q s =>
    let r := natSkip q s
    answer r.1 r.2) s) s)

end Sys2Proof.Machine
end

