-- ==== Sys2Proof/Machine/MbxProto.lean ====
section
/-! DEFINITION. The completion protocol of the mailboxes (R152 to R160): areas of the page, acceptance, the checks at the
handler, completions, resets; and the FENCE command's hold (R167, R168). -/

namespace Sys2Proof.Machine

/-! ### Areas -/

/-- Address of a byte of mailbox page `m` (R153). -/
def pageOf (m o : Nat) : Nat := space 7 (m * 0x800 + o)

/-- A command area as a record (R153); bytes that did not come read as 0. `ext` is the external data. -/
def parseArea (b ext : List Byte) : MbxCmd :=
  let len := leAt b 8 4
  { opcode := BitVec.ofNat 16 (leAt b 0 2), flags := BitVec.ofNat 8 (leAt b 2 1), tag := BitVec.ofNat 32 (leAt b 4 4),
    len := BitVec.ofNat 32 len, dataLen := BitVec.ofNat 32 (leAt b 12 4), dataPtr := BitVec.ofNat 64 (leAt b 16 8),
    param := BitVec.ofNat 64 (leAt b 24 8), data := slice b 32 (min len 992), ext := ext }

/-- A completion area (R154). -/
def areaBytes (tag seq : Nat) (r : MbxResult) : List Byte :=
  leBytes 2 r.status ++ leBytes 2 0 ++ leBytes 4 tag ++ leBytes 4 r.data.length ++ leBytes 4 r.dataDone ++ leBytes 8 r.info
    ++ leBytes 4 seq ++ leBytes 4 0 ++ r.data

/-- DPTR of a command. -/
def dptr (c : MbxCmd) : Bool := bitAt c.flags.toNat 0

/-- The direction of an opcode's external data: 0 none, 1 to the device, 2 to the requester. -/
def dirOf (c : MbxCmd) : Nat := ((opInfo c.opcode.toNat).map (fun i => i.dir)).getD 0

/-! ### Fences (R167) -/

/-- The queues of a fence's mask. -/
def maskQueues (b : List Byte) : List Nat := (List.range 256).filter (fun q => bitAt (leNat b) q)

/-- Every hold as the fences ask for it: Q_FENCE_HOLD of the named queues, and the NVMe I/O queues under ALL_NVME. -/
def fenceHolds (s : State) : State :=
  let hs := s.fences.filter (fun f => f.hold)
  let s1 := (List.range 256).foldl (fun s q =>
    let b := hs.any (fun f => f.queues.contains q)
    if isSet s (F.Q_FENCE_HOLD q) = b then s else setB (F.Q_FENCE_HOLD q) b s) s
  let all := hs.any (fun f => f.allNvme)
  { s1 with host := { s1.host with ctrls := s1.host.ctrls.map (fun c =>
    { c with sqs := c.sqs.map (fun q => if q.id = 0 then q else { q with stalled := all }) }) } }

/-- A FENCE is accepted: what it waits for, and its hold (R167). -/
def fenceAccept (m : Nat) (c : MbxCmd) (s : State) : State :=
  if c.opcode.toNat ≠ 0x0003 ∨ c.data.length ≠ 32 then s
  else
    let qs := maskQueues c.data
    let f : FenceSt := ⟨m, bitAt c.param.toNat 0, bitAt c.param.toNat 1, qs,
      qs.flatMap (fun q => (natFetched s q).map (fun i => (q, i))),
      if bitAt c.param.toNat 1 then nvBusy s else [],
      ((List.range 16).filter (fun k => decide (k ≠ m ∧ (mbxState s k = 1 ∨ mbxState s k = 2)))).map (fun k => (mbxAt s k).seq.toNat)⟩
    fenceHolds { s with fences := s.fences ++ [f] }

/-- The fence of a mailbox ends, and its hold with it: the queues that it held fetch again. -/
def fenceDrop (m : Nat) (s : State) : State :=
  if s.fences.any (fun f => f.mbx = m) then pump (fenceHolds { s with fences := s.fences.filter (fun f => f.mbx ≠ m) })
  else s

/-- Everything that a mailbox FENCE waits for has completed. -/
def mbxFenceMet (s : State) (f : FenceSt) : Bool :=
  f.entries.all (fun e => !(natFetched s e.1).contains e.2)
    && f.nvme.all (fun n => !(nvBusy s).contains n)
    && f.mboxes.all (fun n => !(List.range 16).any (fun m => decide (mbxState s m = 1 ∨ mbxState s m = 2) && decide ((mbxAt s m).seq.toNat = n)))

/-! ### Acceptance -/

/-- The mailboxes of a transport (R149). -/
def mbxsOf (t : Nat) : List Nat := (List.range 16).filter (fun m => mbxTransport m = t)

/-- The lowest-numbered idle mailbox of a transport (R150). -/
def idleMbx (s : State) (t : Nat) : Option Nat := (mbxsOf t).find? (fun m => mbxState s m = 0)

/-- A command is accepted in mailbox `m`: it gets its sequence number and the mailbox is POSTED (R155, R157). -/
def post (m : Nat) (c : MbxCmd) (holder req : Option Nat) (msg : Bool) (s : State) : State :=
  let n := rd s R.MBX_SEQ_LAST + 1
  { s with mbx := setAt s.mbx m ⟨c, n, holder, req, msg, false, none, 0, [], false, none⟩ }
    |> wr R.MBX_SEQ_LAST n |> setF (F.MBX_STATE m) 1 |> fenceAccept m c

/-- The Mailbox Receives that still wait for a mailbox which has become IDLE end with Invalid Field in Command (R152). -/
def receivesEnd (m : Nat) (s : State) : State :=
  (s.host.ctrls.flatMap (fun c => (c.receives.filter (fun r => r.2.2.1 = m)).map (fun r => (c.cntlid, r.1, r.2.1)))).foldl
    (fun s x => s |> updCtrl x.1 (fun c => { c with receives := c.receives.filter (fun r => ¬(r.1 = x.2.1 ∧ r.2.1 = x.2.2)) })
      |> nvFail x.1 x.2.1 x.2.2 (nvSt 0 0x02 1)) s

/-- The mailbox is IDLE, its completion gone. -/
def mbxIdle (m : Nat) (s : State) : State :=
  { s with mbx := setAt s.mbx m mbxEmpty } |> setF (F.MBX_STATE m) 0 |> setF (F.MBX_RESET_PENDING m) 0 |> receivesEnd m

/-- MBX_RESET (R159): a posted command and a completion are dropped; a command that runs goes on to its end. -/
def mbxResetTo (m : Nat) (s : State) : State :=
  if mbxState s m = 0 then s
  else if mbxState s m = 2 then setF (F.MBX_RESET_PENDING m) 1 s
  else if mbxState s m = 1 then s |> fenceDrop m |> mbxIdle m
  else mbxIdle m s

/-! ### The handler's checks -/

/-- The checks that end a command before its handler runs it (R156, R161, R162), in the model's order (log entry 49): the
status, if any. -/
def takeCheck (s : State) (m : Nat) (c : MbxCmd) : Option Nat :=
  let held := (mbxAt s m).holder.isSome
  let len := c.len.toNat
  if c.flags.toNat / 2 ≠ 0 ∨ 992 < len ∨ c.data.length ≠ len then some 0x0011
  else if dptr c ∧ ¬(5 ≤ m ∧ m ≤ 12) then some 0x0011
  else if c.dataPtr ≠ 0 ∧ ¬(5 ≤ m ∧ m ≤ 8 ∧ held = false ∧ dptr c = true ∧ c.dataPtr.toNat % 4 = 0) then some 0x0011
  else match opInfo c.opcode.toNat with
  | none => some 0x0010
  | some i =>
    let n := c.dataLen.toNat
    if !opAccepts i (mbxTransport m) then some 0x0017
    else if len < i.lenMin ∨ i.lenMax < len ∨ (c.opcode = 0x0100 ∧ par c 0 8 ≠ 5 ∧ len ≠ 0) ∨ (dptr c = false ∧ n ≠ 0) ∨ (dptr c = true ∧ i.dir = 0)
        ∨ (dptr c = false ∧ i.extLen.isSome = true) ∨ (dptr c = true ∧ i.extLen.any (fun k => k ≠ n) = true)
        ∨ (dptr c = true ∧ i.dir = 1 ∧ held = true ∧ c.ext.length ≠ n) then some 0x0011
    else if handledByCtl c ∧ ctlMode s = false then some 0x0012
    else match i.grant with
      | some b => if mbxGrants s m b ∨ 14 ≤ m then none else some 0x0013
      | none => if c.opcode = 0x0100 ∧ ¬ (1 ≤ par c 0 8 ∧ par c 0 8 ≤ 7) then some 0x0016 else none

/-- MBX_HANDLER_TAKE: the handler takes the command (R157, R160): RUNNING; a command that fails a check, or whose external
data cannot be fetched, has its completion at once. `moved` gives the bytes moved before a DATA_PTR transfer failed: the command
runs on these (R156). -/
def handlerTake (m : Nat) (moved : Option Nat) (s : State) : State :=
  let c := (mbxAt s m).cmd
  let s1 := setF (F.MBX_STATE m) 2 s
  match takeCheck s m c with
  | some st => s1 |> fenceDrop m |> mbxSetResult m (resStatus st)
  | none =>
    if dptr c ∧ dirOf c = 1 ∧ (mbxAt s m).holder.isNone = true then
      let a := c.dataPtr.toNat
      match if hostReach s then moved else some 0 with
      | some 0 => mbxSetResult m ⟨0x0018, [], 0, a, []⟩ s1
      | some n => { s1 with mbx := modAt s1.mbx m (fun x => { x with cmd := { c with ext := memRead s (space 0 a) (min n c.dataLen.toNat) }, xferFail := some n }) }
      | none => { s1 with mbx := modAt s1.mbx m (fun x => { x with cmd := { c with ext := memRead s (space 0 a) c.dataLen.toNat } }) }
    else s1

/-! ### Completions -/

/-- A completion gives external data to the requester; REG_READ gives the words before a failure too (R176). -/
def givesExt (c : MbxCmd) (r : MbxResult) : Bool := dptr c && decide (dirOf c = 2) && (decide (r.status ≤ 1) || decide (c.opcode.toNat = 0x0008))

/-- DATA_DONE of a completion (R154): what a failed transfer or the row says, or the external data that moved. -/
def doneBytes (c : MbxCmd) (r : MbxResult) : Nat :=
  if r.status = 0x0018 ∨ r.dataDone ≠ 0 then r.dataDone
  else if dptr c ∧ dirOf c = 1 then c.ext.length
  else if givesExt c r then r.ext.length
  else 0

/-- What a Mailbox Receive returns (R152). -/
def receiveData (x : Mailbox) (r : MbxResult) : List Byte :=
  areaBytes x.cmd.tag.toNat x.seq.toNat r ++ (if dptr x.cmd ∧ dirOf x.cmd = 2 then r.ext.take r.dataDone else [])

/-- A Mailbox Receive of a DONE mailbox completes: it releases the mailbox, or leaves it DONE when its transfer fails
(R152). -/
def receiveServe (ctrl q cid m : Nat) (xferOk : Bool) (s : State) : State :=
  let x := mbxAt s m
  match x.result with
  | none => s
  | some r =>
    if xferOk then s |> send (.nvmeData ctrl (receiveData x r)) |> nvDone ctrl q cid 0 false |> mbxIdle m
    else nvDone ctrl q cid 0x0018 true s

/-- The first Mailbox Receive that waits for a mailbox: of the controller that holds it, with the command's TAG (R152). -/
def waitingReceive (s : State) (m : Nat) : Option (Nat × Nat × Nat) :=
  let x := mbxAt s m
  (s.host.ctrls.filter (fun c => decide (x.holder = some c.cntlid))).findSome? (fun c =>
    (c.receives.find? (fun r => decide (r.2.2.1 = m ∧ r.2.2.2 = x.cmd.tag.toNat))).map (fun r => (c.cntlid, r.1, r.2.1)))

/-- Serve a Receive that waits for a mailbox which has become DONE. -/
def receiveWaiting (m : Nat) (xferOk : Bool) (s : State) : State :=
  match waitingReceive s m with
  | none => s
  | some (ctrl, q, cid) =>
    s |> updCtrl ctrl (fun c => { c with receives := c.receives.filter (fun r => ¬(r.1 = q ∧ r.2.1 = cid)) })
      |> receiveServe ctrl q cid m xferOk

/-- A byte of a frame's body, escaped (R151). -/
def escapeByte (b : Byte) : List Byte := if b = 0x7E then [0x7D, 0x5E] else if b = 0x7D then [0x7D, 0x5D] else [b]

/-- A frame of the mailbox UART (R151): the CRC's low byte first (DESIGN CHOICE, log entry 104). -/
def uartFrame (b : List Byte) : List Byte :=
  [0x7E] ++ leBytes 2 b.length ++ b.flatMap escapeByte ++ leBytes 4 (crc32c (leBytes 2 b.length ++ b))

/-- The body of a frame, as escaped bytes: `n` bytes and what follows them. -/
def unescape : Nat → List Byte → Option (List Byte × List Byte)
  | 0, r => some ([], r)
  | _, [] => none
  | n + 1, b :: r =>
    if b = 0x7E then none
    else if b = 0x7D then
      match r with
      | e :: r2 =>
        if e = 0x5E ∨ e = 0x5D then
          (unescape n r2).map (fun x => ((if e = 0x5E then 0x7E else 0x7D) :: x.1, x.2))
        else none
      | [] => none
    else (unescape n r).map (fun x => (b :: x.1, x.2))

/-- The body that a UART frame carries; none where the frame is broken or fails its CRC (R151). -/
def uartBody (f : List Byte) : Option (List Byte) :=
  match f with
  | 0x7E :: r =>
    let n := leAt r 0 2
    match unescape n (r.drop 2) with
    | some (b, tail) => if tail = leBytes 4 (crc32c (leBytes 2 n ++ b)) then some b else none
    | none => none
  | _ => none

/-- Send a reply over a message transport. -/
def sendReply (m : Nat) (area : List Byte) (s : State) : State :=
  send (.mbxReply m (if mbxTransport m = 1 then uartFrame area else area)) s

/-- External data to the requester through DATA_PTR; in part, with 0x0018, when the transfer fails (R156). -/
def giveExt (m : Nat) (moved : Option Nat) (r : MbxResult) (s : State) : MbxResult × State :=
  let x := mbxAt s m
  if givesExt x.cmd r ∧ x.holder.isNone = true ∧ r.ext ≠ [] then
    let a := x.cmd.dataPtr.toNat
    match if hostReach s then moved else some 0 with
    | some n => ({ r with status := 0x0018, data := [], dataDone := n, info := a + n }, memWrite (space 0 a) (r.ext.take n) s)
    | none => (r, memWrite (space 0 a) r.ext s)
  else (r, s)

/-- The handler writes the completion and the mailbox is DONE (R157), or IDLE at once after a reset (R159) and where a reply
message carries the completion. `moved` as at the take; for a Receive that waits, any value says that its transfer
failed. -/
def complete (m : Nat) (r0 : MbxResult) (moved : Option Nat) (s0 : State) : State :=
  let x := mbxAt s0 m
  let s := fenceDrop m s0
  let r1 := match x.xferFail with
    | some n => ⟨0x0018, [], n, x.cmd.dataPtr.toNat + n, []⟩
    | none => r0
  let g := giveExt m moved r1 s
  if isSet s (F.MBX_RESET_PENDING m) then mbxIdle m g.2
  else
    let r := { g.1 with dataDone := doneBytes x.cmd g.1 }
    let area := areaBytes x.cmd.tag.toNat x.seq.toNat r
    let s1 := { g.2 with mbx := modAt g.2.mbx m (fun y => { y with result := some r }) } |> setF (F.MBX_STATE m) 3
    match x.req with
    | some q => s1 |> nalSend 3 10 ([q, r.status] ++ r.data.map (fun b => b.toNat)) |> mbxIdle m
    | none =>
      if x.fromMsg then s1 |> sendReply m area |> mbxIdle m
      else if x.holder.isSome then receiveWaiting m moved.isNone s1
      else
        let s2 := memWrite (pageOf m 0x400) area s1
        if isSet s2 (F.MBX_IRQ_EN m) ∧ 5 ≤ m ∧ m ≤ 8 then msix (getF s2 (F.MBX_VEC m)) s2 else s2

end Sys2Proof.Machine
end

