-- ==== Sys2Proof/Machine/Nvme.lean ====
section
/-! DEFINITION. The NVMe commands and the NVMe queues (R300 to R307, R324, R332 to R334). Numbers, field places and status
codes that the spec takes over from NVMe Base 2.0 and the NVM command set are theirs (log entry 44). -/

namespace Sys2Proof.Machine

/-! ### Taking a command -/

/-- A controller serves commands (R307): a device that admits them, in Bring-up from step 7 on, and an enabled
controller. -/
def nvServes (s : State) (c : NvCtrl) : Bool :=
  admits s && domOn s 10 && (!s.bring.active || s.bring.replayed) && decide (c.cc % 2 = 1)

/-- The command of a queue entry (R302): its dwords replace those of the operand. -/
def nvParse (b : List Byte) (c : NvmeCmd) : NvmeCmd :=
  let w (o : Nat) : BitVec 32 := BitVec.ofNat 32 (leAt b o 4)
  { c with cid := BitVec.ofNat 16 (leAt b 2 2), nsid := w 4, prp1 := leAt b 24 8, dw10 := w 40, dw11 := w 44, dw12 := w 48,
           dw13 := w 52, dw14 := w 56, dw15 := w 60 }

/-- Take a command that satisfies `op`, admin or I/O: over PCIe the oldest entry fetched from its queue, on the fabric the
capsule, while the Headgate has room (R329) and no hold of the queue stops it (R325, R167). -/
def nvTakeIf (op : Nat → Bool) (admin : Bool) (c : NvmeCmd) (s : State) : Option (NvmeCmd × State) :=
  match (ctrlOf s c.ctrl).bind (fun k => (sqOf k c.sq).map (fun q => (k, q))) with
  | none => none
  | some (k, q) =>
    if decide (c.sq = 0) ≠ admin ∨ nvServes s k = false then none
    else if k.kind = 0 then
      match s.host.nvFetched.find? (fun f => f.2.1 = c.ctrl ∧ f.2.2.1 = c.sq) with
      | none => none
      | some f =>
        if op (leAt f.2.2.2 0 1) then
          some (nvParse f.2.2.2 c, { s with host := { s.host with nvFetched := s.host.nvFetched.filter (fun x => x.1 ≠ f.1), nvTaken := some f.1 } })
        else none
    else if q.stalled = true ∨ 64 ≤ q.held.length ∨ (admin = false ∧ headRoom s = 0) ∨ q.deleting.isSome = true then none
    else some (c, updSq c.ctrl c.sq (fun q => { q with head := (q.head + 1) % max 1 q.size }) { s with host := { s.host with nvTaken := none } })

/-- Run the row of an NVMe opcode. -/
def nvRow (op : Nat) (admin : Bool) (c : NvmeCmd) (f : NvmeCmd → NvCtrl → State → State) (s : State) : State :=
  match nvTakeIf (fun o => decide (o = op)) admin c s with
  | none => s
  | some (x, s1) =>
    match ctrlOf s1 c.ctrl with
    | some k => f x k s1
    | none => s1

/-- Success, with Dword 0. -/
def nvOk (c : NvmeCmd) (dw0 : Nat) (s : State) : State := nvPost c.ctrl c.sq c.cid.toNat 0 dw0 0 s

/-- A status of NVMe's own: type, code, DNR 1. -/
def nvErr (c : NvmeCmd) (sct sc : Nat) (s : State) : State := nvFail c.ctrl c.sq c.cid.toNat (nvSt sct sc 1) s

/-- Data to the host, then success; a failed transfer ends in Data Transfer Error. -/
def nvGive (c : NvmeCmd) (d : List Byte) (s : State) : State :=
  if c.xferOk then s |> send (.nvmeData c.ctrl d) |> nvOk c 0 else nvDone c.ctrl c.sq c.cid.toNat 0x0018 false s

/-- A command only for the PCIe controller. -/
def pcieOnly (c : NvmeCmd) (k : NvCtrl) (f : State → State) (s : State) : State :=
  if k.kind = 0 then f s else nvErr c 0 0x01 s

/-! ### Queues -/

/-- I/O queue pairs still free on the device (R300). -/
def ioqFree (s : State) : Nat := 8192 - ioqUsed s

/-- A queue number that the controller may use for a new queue. -/
def qidOk (k : NvCtrl) (q : Nat) : Bool := decide (1 ≤ q ∧ q ≤ (if k.granted = 0 then 1024 else k.granted))

/-- CREATE_IO_CQ (R304). -/
def execCreateIoCq (c : NvmeCmd) (s : State) : Out :=
  .next (nvRow 0x05 true c (fun c k s => pcieOnly c k (fun s =>
    let q := bitsAt c.dw10.toNat 0 16
    let n := bitsAt c.dw10.toNat 16 16 + 1
    let iv := bitsAt c.dw11.toNat 16 16
    if qidOk k q = false ∨ (cqOf k q).isSome = true then nvErr c 1 0x01 s
    else if n < 2 ∨ 65536 < n then nvErr c 1 0x02 s
    else if bitAt c.dw11.toNat 0 = false then nvErr c 0 0x02 s
    else if 2047 < iv then nvErr c 1 0x08 s
    else s |> updCtrl c.ctrl (fun k => { k with cqs := k.cqs ++ [⟨q, c.prp1, n, 0, 0, true, bitAt c.dw11.toNat 1, iv, 0⟩] }) |> nvOk c 0) s) s)

/-- CREATE_IO_SQ (R304). -/
def execCreateIoSq (c : NvmeCmd) (s : State) : Out :=
  .next (nvRow 0x01 true c (fun c k s => pcieOnly c k (fun s =>
    let q := bitsAt c.dw10.toNat 0 16
    let n := bitsAt c.dw10.toNat 16 16 + 1
    let cq := bitsAt c.dw11.toNat 16 16
    if qidOk k q = false ∨ (sqOf k q).isSome = true ∨ ioqFree s = 0 then nvErr c 1 0x01 s
    else if n < 2 ∨ 65536 < n then nvErr c 1 0x02 s
    else if bitAt c.dw11.toNat 0 = false then nvErr c 0 0x02 s
    else if cq = 0 ∨ (cqOf k cq).isNone = true then nvErr c 1 0x00 s
    else s |> updCtrl c.ctrl (fun k => { k with sqs := k.sqs ++ [⟨q, cq, c.prp1, n, 0, 0, [], none, false⟩] }) |> nvOk c 0 |> nvmRefresh) s) s)

/-- A command belongs to an NVMe queue. -/
def ofSq (id q : Nat) (c : Cmd) : Bool :=
  match c.src with
  | .nvme i p _ => decide (i = id ∧ p = q)
  | _ => false

/-- DELETE_IO_SQ (R324): unadmitted commands complete with 0x061D; it completes when every admitted one has. -/
def execDeleteIoSq (c : NvmeCmd) (s : State) : Out :=
  .next (nvRow 0x00 true c (fun c k s => pcieOnly c k (fun s =>
    let q := bitsAt c.dw10.toNat 0 16
    if q = 0 ∨ (sqOf k q).isNone = true then nvErr c 1 0x01 s
    else
      let fetched := s.host.nvFetched.filter (fun f => f.2.1 = c.ctrl ∧ f.2.2.1 = q)
      let head := s.host.cmds.filter (fun x => ofSq c.ctrl q x && decide (x.stage = 0))
      let s1 := dropCmds (fun x => ofSq c.ctrl q x && decide (x.stage = 0)) { s with host := { s.host with
        nvFetched := s.host.nvFetched.filter (fun f => ¬(f.2.1 = c.ctrl ∧ f.2.2.1 = q)) } }
      let s2 := fetched.foldl (fun s f => nvDone c.ctrl q (leAt f.2.2.2 2 2) 0x061D false s) s1
      let s3 := head.foldl (fun s x => match x.src with
        | .nvme _ _ cid => nvDone c.ctrl q cid 0x061D (isRead x) s
        | _ => s) s2
      s3 |> updSq c.ctrl q (fun x => { x with deleting := some c.cid.toNat }) |> sqDeleteCheck c.ctrl q) s) s)

/-- DELETE_IO_CQ (R304): refused while a submission queue uses it. -/
def execDeleteIoCq (c : NvmeCmd) (s : State) : Out :=
  .next (nvRow 0x04 true c (fun c k s => pcieOnly c k (fun s =>
    let q := bitsAt c.dw10.toNat 0 16
    if q = 0 ∨ (cqOf k q).isNone = true then nvErr c 1 0x01 s
    else if k.sqs.any (fun x => x.cq = q) then nvErr c 1 0x0C s
    else s |> updCtrl c.ctrl (fun k => { k with cqs := k.cqs.filter (fun x => x.id ≠ q) }) |> nvOk c 0) s) s)

/-! ### A controller's end (R324) -/

/-- Unadmitted commands of a controller are dropped; admitted ones run on, their completions discarded; the mailboxes of
its Sends are reset by the caller. -/
def ctrlDrop (id : Nat) (s : State) : State :=
  let mine (c : Cmd) : Bool := match c.src with
    | .nvme i _ _ => decide (i = id)
    | _ => false
  let s1 := dropCmds (fun c => mine c && decide (c.stage = 0)) { s with host := { s.host with
    nvFetched := s.host.nvFetched.filter (fun f => f.2.1 ≠ id)
    cmds := s.host.cmds.map (fun c => if mine c then { c with drop := true } else c) } }
  updCtrl id (fun k => { k with sqs := [], cqs := [], aers := [], events := [], changed := [], granted := 0, coalesce := 0, receives := [] }) s1

/-- The mailboxes that a controller's Sends hold are reset (R152). -/
def ctrlMailboxes (id : Nat) (s : State) : State :=
  (List.range 16).foldl (fun s m => if (mbxAt s m).holder = some id ∧ mbxState s m ≠ 0 then mbxResetTo m s else s) s

/-- A controller is torn down (R303, R324). -/
def ctrlDown (id : Nat) (s : State) : State :=
  let n := ((ctrlOf s id).map (fun k => k.sqs.length)).getD 0
  let s1 := s |> ctrlDrop id |> ctrlMailboxes id
  nvmRefresh { s1 with host := { s1.host with ctrls := s1.host.ctrls.filter (fun k => k.cntlid ≠ id), fabConns := s1.host.fabConns - n } }

/-- A controller reset: CC.EN is cleared (R324). -/
def ctrlReset (id : Nat) (s : State) : State :=
  let keep := ((ctrlOf s id).map (fun k => k.sqs.filter (fun q => q.id = 0 ∧ k.kind ≠ 0))).getD []
  s |> ctrlDrop id |> ctrlMailboxes id |> updCtrl id (fun k => { k with cc := k.cc / 2 * 2, sqs := keep }) |> nvmRefresh

/-- KEEP_ALIVE (R303). -/
def execKeepAlive (c : NvmeCmd) (s : State) : Out :=
  .next (nvRow 0x18 true c (fun c _ s => s |> updCtrl c.ctrl (fun k => { k with kaAt := s.now.toNat }) |> nvOk c 0) s)

/-- KEEP_ALIVE_EXPIRY (R303): KATO has passed since the timer was restarted. -/
def execKeepAliveExpiry (ctrl : Nat) (s : State) : Out :=
  match ctrlOf s ctrl with
  | some k => if k.kind ≠ 0 ∧ k.kato ≠ 0 ∧ k.kaAt + k.kato * 1000000 ≤ s.now.toNat then .next (ctrlDown ctrl s) else .next s
  | none => .next s

/-! ### Log pages -/

/-- A data structure of `n` bytes: the fields given, the others not stated (log entry 46). -/
def page (k n : Nat) (fields : List (Nat × List Byte)) : List Byte :=
  (List.range n).map (fun o =>
    match fields.find? (fun f => f.1 ≤ o ∧ o < f.1 + f.2.length) with
    | some f => f.2.getD (o - f.1) 0
    | none => Config.pageByte k o)

/-- Page 01h: 64 entries, each failed command's device code in Command Specific Information (R334). -/
def pageError (k : NvCtrl) : List Byte :=
  padTo 4096 (k.errLog.flatMap (fun e => leBytes 8 e.1 ++ leBytes 2 (e.2.2.1 / 65536) ++ leBytes 2 (e.2.2.1 % 65536)
    ++ leBytes 2 (2 * e.2.2.2) ++ List.replicate 18 0 ++ leBytes 8 e.2.1 ++ List.replicate 24 0))

/-- Page 02h (R433, R522): the Composite Temperature is Tj in kelvin, with a warning above 105 degrees. -/
def pageSmart (s : State) : List Byte :=
  let sp := availSpare s
  let tj := tjOf s
  let warn := b2n (decide (sp < 10)) + 2 * b2n (decide (105 < tj)) + 8 * b2n (isSet s F.RACK_FLASH_RO)
  let used := min 255 (max (pctUsed s) (lifeUsed s / 100))
  let errs := s.tier.counts.getD 1 0 + s.tier.counts.getD 5 0 + cntVal s R.RED_DECODE_ERR_LO
  page 2 512 [(0, leBytes 1 warn), (1, leBytes 2 (tj + 273).toNat), (3, leBytes 1 sp), (4, leBytes 1 10), (5, leBytes 1 used),
    (32, leBytes 16 ((s.tier.hostRead + 511999) / 512000)), (48, leBytes 16 ((s.tier.hostWritten + 511999) / 512000)),
    (128, leBytes 16 s.tier.powerHours), (160, leBytes 16 errs)]

/-- Page 0Ch: the two ANA groups (R307). -/
def pageAna (s : State) (k : NvCtrl) (rgo : Bool) : List Byte :=
  let grp (g : Nat) : List Byte :=
    let ns := (s.volu.vols.filter (fun v => decide (v.group = g) && attachedTo k v)).foldl (fun l v => insAsc v.num l) []
    let n := if rgo then [] else ns
    leBytes 4 (g + 1) ++ leBytes 4 n.length ++ leBytes 8 0 ++ leBytes 1 (getF s (F.NVM_ANA_STATE g)) ++ List.replicate 15 0 ++ n.flatMap (leBytes 4)
  leBytes 8 0 ++ leBytes 2 2 ++ List.replicate 6 0 ++ grp 0 ++ grp 1

/-- Page 05h: the commands of R304 and R305 are supported; those that write content say so. -/
def pageEffects : List Byte :=
  let adm : List Nat := [0, 1, 2, 4, 5, 6, 8, 9, 10, 12, 0x18, 0x7F, 0xC5, 0xC6]
  let io : List Nat := [0, 1, 2, 8, 9, 0x0C, 0x0D, 0x0E, 0x11, 0x15]
  (List.range 256).flatMap (fun o => leBytes 4 (b2n (adm.contains o)))
    ++ (List.range 256).flatMap (fun o => leBytes 4 (b2n (io.contains o) + 2 * b2n (decide (o = 1 ∨ o = 8 ∨ o = 9))))
    ++ List.replicate 2048 0

/-- The oldest reservation notice (page 80h). -/
def pageResv (k : NvCtrl) : List Byte :=
  match k.rsvLog with
  | [] => List.replicate 64 0
  | r :: t => leBytes 8 (t.length + 1) ++ leBytes 1 r.1 ++ leBytes 1 (min 255 t.length) ++ leBytes 2 0 ++ leBytes 4 r.2 ++ List.replicate 48 0

/-- GET_LOG_PAGE (R304, R307, R433). -/
def execGetLogPage (c : NvmeCmd) (s : State) : Out :=
  .next (nvRow 0x02 true c (fun c k s =>
    let lid := bitsAt c.dw10.toNat 0 8
    let rae := bitAt c.dw10.toNat 15
    let n := 4 * (bitsAt c.dw10.toNat 16 16 + bitsAt c.dw11.toNat 0 16 * 65536 + 1)
    let off := c.dw12.toNat + c.dw13.toNat * 2 ^ 32
    let clear (p : Nat) (s : State) : State :=
      if rae then s else updCtrl c.ctrl (fun k => { k with events := k.events.filter (fun e => e / 65536 ≠ p) }) s
    let give (d : List Byte) (s : State) : State := s |> clear lid |> nvGive c ((d.drop off).take n)
    if k.kind = 2 then (if lid = 0x70 then give (page 0x70 1024 []) s else nvErr c 1 0x09 s)
    else match lid with
    | 0x01 => give (pageError k) s
    | 0x02 => give (pageSmart s) s
    | 0x03 => give (page 3 512 [(0, leBytes 1 (s.nv.ctl.active + 1))]) s
    | 0x04 => give (padTo 4096 ((k.changed.foldl (fun l v => insAsc v l) []).flatMap (leBytes 4))) (updCtrl c.ctrl (fun k => { k with changed := [] }) s)
    | 0x05 => give pageEffects s
    | 0x0C => give (pageAna s k (bitAt c.dw10.toNat 8)) s
    | 0x80 => give (pageResv k) (updCtrl c.ctrl (fun k => { k with rsvLog := k.rsvLog.drop 1 }) s)
    | _ => nvErr c 1 0x09 s) s)

/-! ### Identify (R300, R301, R306) -/

/-- Bytes per logical block of a volume. -/
def lbaSize (v : Volume) : Nat := if v.fmt = 0 then 4096 else 512

/-- Identify Namespace (R301, R306, R333): every reservation type, kept through power loss, is supported. -/
def idNamespace (v : Volume) : List Byte :=
  let b := lbaSize v
  let mapped := leBytes 8 (v.map.length * 8192 / b)
  let awun := leBytes 2 (262144 / b - 1)
  let nabs := leBytes 2 (1048576 / b - 1)
  page 0x100 4096 [(0, leBytes 8 (v.size / b)), (8, leBytes 8 (v.size / b)), (16, mapped), (24, leBytes 1 2), (25, leBytes 1 1),
    (26, leBytes 1 v.fmt), (27, leBytes 1 0), (29, leBytes 1 0), (31, leBytes 1 (127 + leAt (page 0x100 32 []) 31 1 / 128 * 128)), (33, leBytes 1 0), (34, awun), (36, awun), (38, leBytes 2 0), (40, nabs),
    (42, leBytes 2 0), (44, nabs), (92, leBytes 4 (v.group + 1)), (104, padTo 16 v.nguid), (128, leBytes 4 (12 * 2 ^ 16)),
    (132, leBytes 4 (9 * 2 ^ 16))]

/-- No bytes of a field. -/
def leNil : List Byte := []

/-- Identify Controller (R300, R303 to R306, R522): a fabric controller takes capsules with 16 KiB of data and one descriptor. -/
def idController (k : NvCtrl) : List Byte :=
  page 0x101 4096 [(76, leBytes 1 0x0B), (77, leBytes 1 9), (78, leBytes 2 k.cntlid), (80, leBytes 4 0x00020000), (256, leBytes 2 0), (259, leBytes 1 7),
    (260, leBytes 1 0), (262, leBytes 1 63), (266, leBytes 2 378), (268, leBytes 2 388), (320, leBytes 2 1),
    (342, leBytes 1 10), (343, leBytes 1 0x17), (344, leBytes 4 2), (348, leBytes 4 2), (512, leBytes 1 0x66), (513, leBytes 1 0x44),
    (516, leBytes 4 32767), (520, leBytes 2 0xAC), (525, leBytes 1 0), (526, leBytes 2 0), (528, leBytes 2 0),
    (1792, if k.kind = 0 then leNil else leBytes 4 1028), (1803, if k.kind = 0 then leNil else leBytes 1 1)]

/-- NVME_IDENTIFY (R304, R306). -/
def execNvmeIdentify (c : NvmeCmd) (s : State) : Out :=
  .next (nvRow 0x06 true c (fun c k s =>
    let ns := c.nsid.toNat
    let act := (s.volu.vols.filter (attachedTo k)).foldl (fun l v => insAsc v.num l) []
    match bitsAt c.dw10.toNat 0 8 with
    | 0x00 =>
      if ns = 0 ∨ 32767 < ns then nvErr c 0 0x0B s
      else match (volOf s ns).filter (attachedTo k) with
      | some v => nvGive c (idNamespace v) s
      | none => nvGive c (List.replicate 4096 0) s
    | 0x01 => nvGive c (idController k) s
    | 0x02 => nvGive c (padTo 4096 (((act.filter (fun n => ns < n)).take 1024).flatMap (leBytes 4))) s
    | 0x03 =>
      (match (volOf s ns).filter (attachedTo k) with
       | some v => nvGive c (padTo 4096 (leBytes 1 2 ++ leBytes 1 16 ++ leBytes 2 0 ++ padTo 16 v.nguid)) s
       | none => nvErr c 0 0x0B s)
    | 0x0C => nvGive c (page 0x10C 4096 []) s
    | 0x13 =>
      let l := ((s.host.ctrls.map (fun k => k.cntlid)).filter (fun n => bitsAt c.dw10.toNat 16 16 ≤ n)).foldl (fun l n => insAsc n l) []
      nvGive c (padTo 4096 (leBytes 2 l.length ++ l.flatMap (leBytes 2))) s
    | _ => nvErr c 0 0x02 s) s)

/-- NVME_ABORT (R304): Dword 0 bit 0 = 1, not aborted. -/
def execNvmeAbort (c : NvmeCmd) (s : State) : Out := .next (nvRow 0x08 true c (fun c _ s => nvOk c 1 s) s)

/-! ### Features -/

/-- KATO in milliseconds: at least 1 s, in steps of 100 ms; 0 turns the timer off (R303). -/
def katoOf (n : Nat) : Nat := if n = 0 then 0 else max 1000 ((n + 99) / 100 * 100)

/-- The volume that a namespace command names. -/
def nsVol (s : State) (k : NvCtrl) (nsid : Nat) : Option Volume := (volOf s nsid).filter (attachedTo k)

/-- SET_FEATURES (R300, R303, R304, R333). -/
def execSetFeatures (c : NvmeCmd) (s : State) : Out :=
  .next (nvRow 0x09 true c (fun c k s =>
    let v := c.dw11.toNat
    if bitAt c.dw10.toNat 31 then nvErr c 1 0x0D s
    else match bitsAt c.dw10.toNat 0 8 with
    | 0x07 =>
      if v % 65536 = 65535 ∨ v / 65536 = 65535 then nvErr c 0 0x02 s
      else
        let n := max 1 (min (max (v % 65536) (v / 65536) + 1) (min 1024 (ioqFree s)))
        s |> updCtrl c.ctrl (fun k => { k with granted := n }) |> nvOk c ((n - 1) * 65537)
    | 0x08 => if k.kind = 0 then s |> updCtrl c.ctrl (fun k => { k with coalesce := v % 65536 }) |> nvOk c 0 else nvErr c 0 0x02 s
    | 0x0B => s |> updCtrl c.ctrl (fun k => { k with asyncCfg := v }) |> nvOk c 0
    | 0x0F => s |> updCtrl c.ctrl (fun k => { k with kato := katoOf v, kaAt := s.now.toNat }) |> nvOk c 0
    | 0x81 =>
      if !c.xferOk then nvDone c.ctrl c.sq c.cid.toNat 0x0018 false s
      else if k.kind ≠ 0 then nvErr c 0 0x0C s
      else if v % 2 = 0 then nvErr c 0 0x24 s
      else s |> updCtrl c.ctrl (fun k => { k with hostId := padTo 16 c.data }) |> nvOk c 0
    | 0x82 => s |> updCtrl c.ctrl (fun k => { k with rsvMask := v }) |> nvOk c 0
    | 0x83 =>
      (match nsVol s k c.nsid.toNat with
       | some x => s |> updVol x.num (fun x => { x with resv := { x.resv with persist := decide (v % 2 = 1) } }) |> jRecord x.group 4 |> nvOk c 0
       | none => nvDone c.ctrl c.sq c.cid.toNat 0x0714 false s)
    | _ => nvErr c 0 0x02 s) s)

/-- GET_FEATURES (R304). -/
def execGetFeatures (c : NvmeCmd) (s : State) : Out :=
  .next (nvRow 0x0A true c (fun c k s =>
    match bitsAt c.dw10.toNat 0 8 with
    | 0x07 => nvOk c ((max 1 (if k.granted = 0 then min 1024 (ioqFree s) else k.granted) - 1) * 65537) s
    | 0x08 => if k.kind = 0 then nvOk c k.coalesce s else nvErr c 0 0x02 s
    | 0x0B => nvOk c k.asyncCfg s
    | 0x0F => nvOk c k.kato s
    | 0x81 => nvGive c (padTo 16 k.hostId) s
    | 0x82 => nvOk c k.rsvMask s
    | 0x83 =>
      (match nsVol s k c.nsid.toNat with
       | some x => nvOk c (b2n x.resv.persist) s
       | none => nvDone c.ctrl c.sq c.cid.toNat 0x0714 false s)
    | _ => nvErr c 0 0x02 s) s)

/-- ASYNC_EVENT_REQUEST (R304): up to 8 are held; an event that waits completes it at once. -/
def execAsyncEventRequest (c : NvmeCmd) (s : State) : Out :=
  .next (nvRow 0x0C true c (fun c k s =>
    match k.events with
    | e :: r => s |> updCtrl c.ctrl (fun k => { k with events := r }) |> nvOk c e
    | [] => if 8 ≤ k.aers.length then nvErr c 1 0x05 s
      else updCtrl c.ctrl (fun k => { k with aers := k.aers ++ [c.cid.toNat] }) s) s)

/-! ### Fabrics (R303, R304) -/

/-- The lowest free CNTLID of this device's fabric I/O controllers (R300). -/
def freeCntlid (s : State) : Option Nat :=
  ((List.range 128).find? (fun n => (ctrlOf s (pcieCtrl s + n + 1)).isNone)).map (fun n => pcieCtrl s + n + 1)

/-- Answer a Connect. -/
def connectReply (id qid st dw0 : Nat) (s : State) : State := send (.nvmeCqe id qid 0 st dw0 0) s

/-- FABRICS_CONNECT (R300, R303): the admin queue creates a controller of the dynamic model, or the discovery controller; an
I/O queue joins its host's controller. -/
def execFabricsConnect (discovery : Bool) (ctrl qid sqsize kato : Nat) (hostNqn hostId : List Byte) (s : State) : Out :=
  if admits s = false ∨ domOn s 11 = false ∨ (s.bring.active = true ∧ s.bring.replayed = false) then .next s
  else if qid = 0 then
    if ctrl ≠ 0xFFFF ∨ 4095 < sqsize then .next (connectReply ctrl 0 (nvSt 1 0x82 1) 0 s)
    else match (if discovery then (if (ctrlOf s 0xFFFF).isSome then none else some 0xFFFF) else freeCntlid s) with
    | none => .next (connectReply ctrl 0 (nvSt 1 0x81 1) 0 s)
    | some id =>
      let k := { newCtrl id (if discovery then 2 else 1) hostNqn hostId with
                 kato := katoOf kato, kaAt := s.now.toNat, sqs := [⟨0, 0, 0, sqsize + 1, 0, 0, [], none, false⟩] }
      .next (connectReply id 0 0 id (nvmRefresh { s with host := { s.host with ctrls := s.host.ctrls ++ [k], fabConns := s.host.fabConns + 1 } }))
  else match ctrlOf s ctrl with
  | none => .next (connectReply ctrl qid (nvSt 1 0x82 1) 0 s)
  | some k =>
    if k.kind ≠ 1 ∨ k.hostNqn ≠ hostNqn ∨ k.cc % 2 = 0 ∨ qidOk k qid = false ∨ (sqOf k qid).isSome = true ∨ 1023 < sqsize ∨ sqsize = 0
        ∨ ioqFree s = 0 then .next (connectReply ctrl qid (nvSt 1 0x82 1) 0 s)
    else
      let s1 := updCtrl ctrl (fun k => { k with sqs := k.sqs ++ [⟨qid, qid, 0, sqsize + 1, 0, 0, [], none, false⟩] }) s
      .next (connectReply ctrl qid 0 ctrl (nvmRefresh { s1 with host := { s1.host with fabConns := s1.host.fabConns + 1 } }))

/-- CAP (R3, R302): MQES; DSTRD, MPSMIN, MPSMAX and AMS 0; CSS the NVM command set alone; no controller memory buffer. What the spec does
not fix of it (CQR, TO, NSSRS, BPS, CPS, PMRS and bits 60 to 58) is free. -/
def capWord (k : NvCtrl) : Nat :=
  let x := leNat (page 0x200 8 [])
  let keep (lo n : Nat) : Nat := bitsAt x lo n * 2 ^ lo
  (if k.kind = 0 then 65535 else 1023) + keep 16 1 + keep 24 8 + keep 36 1 + 2 ^ 37 + keep 45 3 + keep 56 1 + keep 58 3

/-- A controller property (R302, R303): CAP, VS, CC, CSTS. -/
def property (k : NvCtrl) (off : Nat) : Option Nat :=
  match off with
  | 0x00 => some (capWord k)
  | 0x08 => some 0x00020000
  | 0x14 => some k.cc
  | 0x1C => some (k.cc % 2)
  | _ => none

/-- FABRICS_PROPERTY_GET (R304). -/
def execFabricsPropertyGet (ctrl cid offset : Nat) (s : State) : Out :=
  match ctrlOf s ctrl with
  | some k =>
    if k.kind = 0 ∨ admits s = false ∨ (s.bring.active = true ∧ s.bring.replayed = false) then .next s
    else match property k offset with
    | some v => .next (nvPost ctrl 0 cid 0 (v % 2 ^ 32) (v / 2 ^ 32) s)
    | none => .next (nvFail ctrl 0 cid (nvSt 0 0x02 1) s)
  | none => .next s

/-- FABRICS_PROPERTY_SET (R304, R324): CC alone may be written; clearing EN resets the controller. -/
def execFabricsPropertySet (ctrl cid offset value : Nat) (s : State) : Out :=
  match ctrlOf s ctrl with
  | some k =>
    if k.kind = 0 ∨ admits s = false ∨ (s.bring.active = true ∧ s.bring.replayed = false) then .next s
    else if offset ≠ 0x14 then .next (nvFail ctrl 0 cid (nvSt 0 0x02 1) s)
    else
      let s1 := updCtrl ctrl (fun k => { k with cc := value % 2 ^ 32 }) s
      .next (nvPost ctrl 0 cid 0 0 0 (if k.cc % 2 = 1 ∧ value % 2 = 0 then ctrlReset ctrl s1 else s1))
  | none => .next s

/-- FABRICS_DISCONNECT (R304): an I/O connection goes with its queue, the admin connection with its controller. -/
def execFabricsDisconnect (ctrl qid : Nat) (s : State) : Out :=
  match ctrlOf s ctrl with
  | some k =>
    if k.kind = 0 ∨ (sqOf k qid).isNone = true then .next s
    else if qid = 0 then .next (ctrlDown ctrl s)
    else
      let s1 := dropCmds (fun c => ofSq ctrl qid c && decide (c.stage = 0)) { s with host := { s.host with
        cmds := s.host.cmds.map (fun c => if ofSq ctrl qid c then { c with drop := true } else c), fabConns := s.host.fabConns - 1 } }
      .next (nvmRefresh (updCtrl ctrl (fun k => { k with sqs := k.sqs.filter (fun q => q.id ≠ qid) }) s1))
  | none => .next s

/-- The opcodes of R304 and R305. -/
def nvKnown (admin : Bool) (o : Nat) : Bool :=
  if admin then [0, 1, 2, 4, 5, 6, 8, 9, 10, 12, 0x18, 0x7F, 0xC5, 0xC6].contains o
  else [0, 1, 2, 8, 9, 0x0C, 0x0D, 0x0E, 0x11, 0x15].contains o

/-- UNSUPPORTED_NVME_OPCODE (R304, R305). -/
def execUnsupportedNvmeOpcode (c : NvmeCmd) (opcode : BitVec 8) (s : State) : Out :=
  let adm := decide (c.sq = 0)
  if nvKnown adm opcode.toNat then .next s
  else match nvTakeIf (fun o => decide (o = opcode.toNat)) adm c s with
  | some (x, s1) => .next (nvErr x 0 0x01 s1)
  | none => .next s

/-! ### Doorbells over PCIe (R302) -/

/-- The PCIe controller as its properties enable it: CC, AQA, ASQ, ACQ as the host has written them (log entry 47). -/
def pcieEnable (p : Nat × Nat × Nat × Nat) (s : State) : State :=
  let id := pcieCtrl s
  let k := (ctrlOf s id).getD (newCtrl id 0 [] [])
  if k.cc % 2 = p.1 % 2 ∧ k.sqs ≠ [] then s
  else if p.1 % 2 = 0 then ctrlReset id s
  else
    let k1 := { k with cc := p.1, aqa := p.2.1, asq := p.2.2.1, acq := p.2.2.2,
                       sqs := [⟨0, 0, p.2.2.1, bitsAt p.2.1 0 12 + 1, 0, 0, [], none, false⟩],
                       cqs := [⟨0, p.2.2.2, bitsAt p.2.1 16 12 + 1, 0, 0, true, true, 0, 0⟩] }
    nvmRefresh { s with host := { s.host with ctrls := s.host.ctrls.filter (fun x => x.cntlid ≠ id) ++ [k1] } }

/-- NVME_SQ_DOORBELL (R302): the tail of a submission queue, and the fetch. -/
def execNvmeSqDoorbell (q tail : Nat) (props : Option (Nat × Nat × Nat × Nat)) (host : List Host.Cell) (s : State) : Out :=
  if hostReach s = false ∨ domOn s 10 = false then .next s
  else
    let s0 := hostPlaces host s
    let s1 := match props with
      | some p => pcieEnable p s0
      | none => s0
    match (ctrlOf s1 (pcieCtrl s1)).bind (fun k => sqOf k q) with
    | some x => if tail < x.size then .next (s1 |> updSq (pcieCtrl s1) q (fun x => { x with tail := tail }) |> nvFetch (pcieCtrl s1) q) else .next s1
    | none => .next s1

/-- NVME_CQ_DOORBELL (R302, R325): the head of a completion queue; held completions follow, and fetching resumes. -/
def execNvmeCqDoorbell (q head : Nat) (s : State) : Out :=
  if hostReach s = false ∨ domOn s 10 = false then .next s
  else
    let id := pcieCtrl s
    match (ctrlOf s id).bind (fun k => (cqOf k q).map (fun x => (k, x))) with
    | some (k, x) =>
      if head < x.size then
        .next (pump ((k.sqs.filter (fun y => y.cq = q)).foldl (fun s y => s |> nvDrain id y.id 1100 |> sqDeleteCheck id y.id)
          (updCq id q (fun x => { x with head := head }) s)))
      else .next s
    | none => .next s

/-- AGGREGATION_TIME_EXPIRY (R302). -/
def execAggregationTimeExpiry (q : Nat) (s : State) : Out :=
  let id := pcieCtrl s
  match (ctrlOf s id).bind (fun k => cqOf k q) with
  | some x => if x.irq = true ∧ 0 < x.coalesced then .next (s |> updCq id q (fun x => { x with coalesced := 0 }) |> msix x.vec) else .next s
  | none => .next s

/-! ### I/O commands (R305) -/

/-- NVME_FLUSH (R305). -/
def execNvmeFlush (c : NvmeCmd) (s : State) : Out := .next (nvRow 0x00 false c (fun c _ s => nvOk c 0 s) s)

/-- A command on an attached volume enters the Headgate; one that is not attached completes with 0x0714 (R370). -/
def nvEnter (c : NvmeCmd) (k : NvCtrl) (f : Volume → Cmd) (s : State) : State :=
  match nsVol s k c.nsid.toNat with
  | none => nvDone c.ctrl c.sq c.cid.toNat 0x0714 false s
  | some v => enter { f v with src := .nvme c.ctrl c.sq c.cid.toNat, host := k.hostId } s

/-- The byte range of a command with SLBA and a zero-based block count. -/
def lbaRange (c : NvmeCmd) (v : Volume) : Nat × Nat :=
  ((c.dw10.toNat + c.dw11.toNat * 2 ^ 32) * lbaSize v, (bitsAt c.dw12.toNat 0 16 + 1) * lbaSize v)

/-- The transfer of a command exceeds MDTS (R305). -/
def overMdts (c : NvmeCmd) (s : State) (k : NvCtrl) : Bool :=
  match nsVol s k c.nsid.toNat with
  | some v => decide (2097152 < (lbaRange c v).2)
  | none => false

/-- NVME_WRITE (R305). -/
def execNvmeWrite (c : NvmeCmd) (s : State) : Out :=
  .next (nvRow 0x01 false c (fun c k s =>
    if overMdts c s k then nvErr c 0 0x02 s
    else nvEnter c k (fun v =>
      let r := lbaRange c v
      { newCmd .internal .write v.num r.1 r.2 true with
        data := c.data, status := if c.xferOk ∧ c.data.length = r.2 then none else some 0x0018 }) s) s)

/-- NVME_READ (R305). -/
def execNvmeRead (c : NvmeCmd) (s : State) : Out :=
  .next (nvRow 0x02 false c (fun c k s =>
    if overMdts c s k then nvErr c 0 0x02 s
    else nvEnter c k (fun v => newCmd .internal .read v.num (lbaRange c v).1 (lbaRange c v).2 false) s) s)

/-- NVME_WRITE_ZEROES (R305). -/
def execNvmeWriteZeroes (c : NvmeCmd) (s : State) : Out :=
  .next (nvRow 0x08 false c (fun c k s =>
    nvEnter c k (fun v => newCmd .internal .zeroes v.num (lbaRange c v).1 (lbaRange c v).2 true) s) s)

/-- NVME_VERIFY (R305). -/
def execNvmeVerify (c : NvmeCmd) (s : State) : Out :=
  .next (nvRow 0x0C false c (fun c k s =>
    nvEnter c k (fun v => newCmd .internal .verify v.num (lbaRange c v).1 (lbaRange c v).2 false) s) s)

/-- NVME_DATASET_MANAGEMENT (R305, R332): the deallocate attribute alone acts. -/
def execNvmeDatasetManagement (c : NvmeCmd) (s : State) : Out :=
  .next (nvRow 0x09 false c (fun c k s =>
    if bitAt c.dw11.toNat 2 = false then nvOk c 0 s
    else if !c.xferOk then nvDone c.ctrl c.sq c.cid.toNat 0x0018 false s
    else nvEnter c k (fun v =>
      let rs := (List.range (bitsAt c.dw10.toNat 0 8 + 1)).map (fun i =>
        (leAt c.data (16 * i + 8) 8 * lbaSize v, leAt c.data (16 * i + 4) 4 * lbaSize v))
      newCmd .internal (.dealloc rs) v.num 0 0 true) s) s)

/-- A reservation command (R333): Host Identifier Inconsistent Format without a 128-bit Host Identifier; a class-W entry
over the whole volume. -/
def nvResv (c : NvmeCmd) (k : NvCtrl) (op : CmdOp) (s : State) : State :=
  if k.hostId.length ≠ 16 ∨ k.hostId.all (fun b => b = 0) = true then nvErr c 0 0x24 s
  else if !c.xferOk then nvDone c.ctrl c.sq c.cid.toNat 0x0018 false s
  else nvEnter c k (fun v => { newCmd .internal op v.num 0 v.size true with whole := true }) s

/-- RESERVATION_REGISTER (R333): CPTPL sets the persistence. -/
def execReservationRegister (c : NvmeCmd) (s : State) : Out :=
  .next (nvRow 0x0D false c (fun c k s =>
    nvResv c k (.resv 0x0D (bitsAt c.dw10.toNat 0 3) k.hostId (leAt c.data 0 8) (leAt c.data 8 8) (bitsAt c.dw10.toNat 30 2) (bitAt c.dw10.toNat 3)) s) s)

/-- RESERVATION_ACQUIRE (R333). -/
def execReservationAcquire (c : NvmeCmd) (s : State) : Out :=
  .next (nvRow 0x11 false c (fun c k s =>
    nvResv c k (.resv 0x11 (bitsAt c.dw10.toNat 0 3) k.hostId (leAt c.data 0 8) (leAt c.data 8 8) (bitsAt c.dw10.toNat 8 8) false) s) s)

/-- RESERVATION_RELEASE (R333). -/
def execReservationRelease (c : NvmeCmd) (s : State) : Out :=
  .next (nvRow 0x15 false c (fun c k s =>
    nvResv c k (.resv 0x15 (bitsAt c.dw10.toNat 0 3) k.hostId (leAt c.data 0 8) 0 (bitsAt c.dw10.toNat 8 8) false) s) s)

/-- RESERVATION_REPORT (R333): the one state that both devices enforce. -/
def execReservationReport (c : NvmeCmd) (s : State) : Out :=
  .next (nvRow 0x0E false c (fun c k s =>
    if k.hostId.length ≠ 16 ∨ c.dw11.toNat % 2 = 0 then nvErr c 0 0x24 s
    else match nsVol s k c.nsid.toNat with
    | none => nvDone c.ctrl c.sq c.cid.toNat 0x0714 true s
    | some v => if anaState s v.group = 3 then nvDone c.ctrl c.sq c.cid.toNat 0x0A10 true s
      else nvGive c ((resvReport v.resv).take (4 * (c.dw10.toNat + 1))) s) s)

end Sys2Proof.Machine
end

