-- ==== Sys2Proof/Machine/Mailbox.lean ====
section
/-! DEFINITION. The rows of the mailboxes: arrival, doorbells, handlers, Mailbox Send and Receive (R149 to R160), and the
commands of family 0x00 that need no register access (R163 to R172, R178). -/

namespace Sys2Proof.Machine

/-! ### Arrival -/

/-- A command message is taken: the lowest idle mailbox, or the answer 0x0014 at once (R150). -/
def arrive (t : Nat) (body : List Byte) (req : Option Nat) (s : State) : State :=
  let c := parseArea body (body.drop (32 + leAt body 8 4))
  match idleMbx s t with
  | some m => post m c none req true s
  | none =>
    match req with
    | some q => nalSend 3 10 [q, 0x0014] s
    | none => sendReply ((mbxsOf t).headD 0) (areaBytes c.tag.toNat 0 (resStatus 0x0014)) s

/-- MBX_MESSAGE_ARRIVAL (R150, R151): transport 0 SMBus, 1 UART, 2 Nalyn. -/
def execMbxMessageArrival (t : Fin 3) (body : List Byte) (s : State) : Out :=
  if !sidebandLive s then .next s
  else if t = 0 then .next (arrive 0 body none s)
  else if t = 1 then
    match uartBody body with
    | some b => .next (arrive 1 b none s)
    | none => .next s
  else if isSet s F.NAL_UP then .next (arrive 4 body none s) else .next s

/-- A doorbell (R157, R158): the command area of the page is copied. -/
def doorbell (m : Nat) (s : State) : State :=
  if mbxState s m = 0 then post m (parseArea (memRead s (pageOf m 0) 1024) []) none none false s
  else setF (F.MBX_DB_IGNORED m) 1 s

/-- A release of a DONE mailbox; any other is ignored (R158). -/
def release (m : Nat) (s : State) : State := if mbxState s m = 3 then mbxIdle m s else s

/-- MBX_DOORBELL (R157). -/
def execMbxDoorbell (p : Path) (m : Fin 16) (s : State) : Out :=
  .next (busAct p (R.MBX_CTL m.val) 1 (acc (doorbell m.val)) s)

/-- MBX_RELEASE (R157). -/
def execMbxRelease (p : Path) (m : Fin 16) (s : State) : Out :=
  .next (busAct p (R.MBX_CTL m.val) 2 (acc (release m.val)) s)

/-- MBX_RESET (R159). -/
def execMbxReset (p : Path) (m : Fin 16) (s : State) : Out :=
  .next (busAct p (R.MBX_CTL m.val) 4 (acc (mbxResetTo m.val)) s)

/-- MBX_HANDLER_TAKE (R160). -/
def execMbxHandlerTake (m : Fin 16) (moved : Option Nat) (host : List Host.Cell) (s : State) : Out :=
  if mbxState s m.val = 1 ∧ live s then .next (handlerTake m.val moved (hostPlaces host s)) else .next s

/-- MBX_COMPLETE (R157). -/
def execMbxComplete (m : Fin 16) (moved : Option Nat) (s : State) : Out :=
  match (mbxAt s m.val).result with
  | some r => if mbxState s m.val = 2 then .next (complete m.val r moved s) else .next s
  | none => .next s

/-! ### Mailbox Send and Receive (R152) -/

/-- The transport of a controller's mailboxes. -/
def ctrlTransport (k : NvCtrl) : Nat := if k.kind = 0 then 2 else 3

/-- MAILBOX_SEND. -/
def execMailboxSend (c : NvmeCmd) (s : State) : Out :=
  .next (nvRow 0xC5 true c (fun c k s =>
    let n := bitsAt c.dw10.toNat 0 11
    if k.kind = 2 then nvErr c 0 0x01 s
    else if !c.xferOk then nvDone c.ctrl c.sq c.cid.toNat 0x0018 false s
    else if 2 ^ 21 < n + c.dw11.toNat then nvDone c.ctrl c.sq c.cid.toNat 0x0011 false s
    else match idleMbx s (ctrlTransport k) with
    | none => nvDone c.ctrl c.sq c.cid.toNat 0x0014 false s
    | some m =>
      let s1 := post m (parseArea (c.data.take n) (c.data.drop n)) (some c.ctrl) none false s
      nvPost c.ctrl c.sq c.cid.toNat 0 m (rdN s1 R.MBX_SEQ_LAST) s1) s)

/-- MAILBOX_RECEIVE. -/
def execMailboxReceive (c : NvmeCmd) (s : State) : Out :=
  .next (nvRow 0xC6 true c (fun c k s =>
    let m := bitsAt c.dw10.toNat 0 4
    let x := mbxAt s m
    if k.kind = 2 then nvErr c 0 0x01 s
    else if x.holder ≠ some c.ctrl ∨ mbxState s m = 0 ∨ x.cmd.tag ≠ c.dw11 then nvErr c 0 0x02 s
    else if mbxState s m = 3 then receiveServe c.ctrl c.sq c.cid.toNat m c.xferOk s
    else updCtrl c.ctrl (fun k => { k with receives := k.receives ++ [(c.sq, c.cid.toNat, m, c.dw11.toNat)] }) s) s)

/-! ### Commands -/

/-- NOP (R163). -/
def execNop (m : Fin 16) (s : State) : Out := .next (mbxRow m.val 0x0001 anyParam (fun _ s => answer 0 s) s)

/-- The grants held, as one mask (R171). -/
def grantUnion (s : State) : Nat := (List.range 4).foldl (fun n b => n + b2n (anyGrant s b) * 2 ^ b) 0

/-- Active expert-access sessions. -/
def expertSessions (s : State) : List SpdmSess := s.spdm.sessions.filter (fun x => x.up && decide (x.purpose = 2))

/-- MBX_EXPERT (R163): its fields follow the trust list, the sessions and the grants. -/
def mbxExpertWord (s : State) : Nat :=
  b2n (s.boot.loaded && s.nv.expertRoots.isEmpty) * 2 ^ 8 + (expertSessions s).length * 2 ^ 4 + grantUnion s

/-- IDENTIFY (R163). -/
def execIdentify (m : Fin 16) (s : State) : Out :=
  .next (mbxRow m.val 0x0002 anyParam (fun _ s =>
    answerData (leBytes 4 (rdN s R.SUP_ID) ++ leBytes 4 (rdN s R.SUP_SERIAL_LO) ++ leBytes 4 (rdN s R.SUP_SERIAL_HI)
      ++ leBytes 4 (pwrModeWord s) ++ leBytes 4 (mbxExpertWord s)) s) s)

/-- FENCE (R167): its waits and its hold began at its acceptance. -/
def execFence (m : Fin 16) (s : State) : Out := .next (mbxRow m.val 0x0003 anyParam (fun _ s => (s, none)) s)

/-- End the FENCE of a mailbox with a status. -/
def mbxFenceEnd (m st : Nat) (s : State) : State := s |> fenceDrop m |> mbxSetResult m (resStatus st)

/-- A FENCE that runs. -/
def fenceRuns (s : State) (m : Nat) : Bool := (mbxWaiting s (fun c => decide (c.opcode.toNat = 0x0003))).contains m

/-- FENCE_CONDITIONS_MET (R167). -/
def execFenceConditionsMet (m : Fin 16) (s : State) : Out :=
  match s.fences.find? (fun f => f.mbx = m.val) with
  | some f => if fenceRuns s m.val ∧ mbxFenceMet s f then .next (mbxFenceEnd m.val 0 s) else .next s
  | none => .next s

/-- FENCE_LIMIT_EXPIRY (R167). -/
def execFenceLimitExpiry (m : Fin 16) (s : State) : Out :=
  if fenceRuns s m.val then .next (mbxFenceEnd m.val 0x0019 s) else .next s

/-- The mailboxes on which a session of a port enables grants (R171). -/
def sessionMbx (port m : Nat) : Bool := (decide (port = 0) && decide (m < 4)) || (decide (port = 1) && decide (5 ≤ m ∧ m ≤ 8))

/-- EXPERT_ENABLE (R171): a second one of a session joins its mask to the first (DESIGN CHOICE, log entry 101). -/
def execExpertEnable (m : Fin 16) (s : State) : Out :=
  .next (mbxRow m.val 0x0004 anyParam (fun c s =>
    match (expertSessions s).find? (fun x => x.sid = par c 0 32) with
    | some x =>
      if sessionMbx x.port m.val then
        let old := ((s.grants.find? (fun g => g.session = x.sid)).map (fun g => g.mask)).getD 0
        answer 0 { s with grants := s.grants.filter (fun g => g.session ≠ x.sid)
          ++ [⟨x.sid, mbxTransport m.val, Nat.lor old (par c 32 4)⟩] }
      else answer 0x0013 s
    | none => answer 0x0013 s) s)

/-- EXPERT_DISABLE (R172): the grants of the requester's transport end. -/
def execExpertDisable (m : Fin 16) (s : State) : Out :=
  .next (mbxRow m.val 0x0005 anyParam (fun _ s => answer 0 (dropGrants (fun g => decide (g.transport = mbxTransport m.val)) s)) s)

/-- Measurement index `i` as bytes (R137). -/
def measPut (i : Nat) (b : List Byte) (s : State) : State :=
  (List.range 8).foldl (fun s w => wr (R.SUP_MEAS i w) (BitVec.ofNat 32 (leAt (padTo 32 b) (4 * w) 4)) s) s

/-- Measurement index 6 follows the security configuration (R137). -/
def configRefresh (s : State) : State := measPut 6 (sha256 (Config.configBytes s.nv.expertRoots (isSet s F.SUP_STRAP_TEST_N))) s

/-- The trust list changes: measurement index 6 with it (R170). -/
def setRoots (l : List (List Byte)) (s : State) : State :=
  configRefresh { s with nv := { s.nv with expertRoots := l } }

/-- An expert grant for a change of the trust list; none is needed for the first root on mailboxes 0..3 (R170). -/
def rootAllowed (s : State) (m : Nat) : Bool :=
  mbxGrants s m 1 || (s.nv.expertRoots.isEmpty && decide (m < 4)) || decide (14 ≤ m)

/-- EXPERT_ROOT_ADD (R170): a digest that the list holds already leaves it as it is (DESIGN CHOICE, log entry 100). -/
def execExpertRootAdd (m : Fin 16) (s : State) : Out :=
  .next (mbxRow m.val 0x0006 anyParam (fun c s =>
    if !rootAllowed s m.val then answer 0x0013 s
    else if 8 ≤ s.nv.expertRoots.length then answer 0x001A s
    else if s.nv.expertRoots.contains c.data then answer 0 s
    else answer 0 (setRoots (s.nv.expertRoots ++ [c.data]) s)) s)

/-- EXPERT_ROOT_REMOVE (R170). -/
def execExpertRootRemove (m : Fin 16) (s : State) : Out :=
  .next (mbxRow m.val 0x0007 anyParam (fun c s =>
    if s.nv.expertRoots.contains c.data then answer 0 (setRoots (s.nv.expertRoots.filter (fun r => r ≠ c.data)) s)
    else answer 0x001B s) s)

/-- VIOL_READ (R178). -/
def execViolRead (m : Fin 16) (s : State) : Out :=
  .next (mbxRow m.val 0x000A anyParam (fun _ s =>
    answerData ((List.range 21).flatMap (fun b => leBytes 4 (rdN s (violBase b)) ++ leBytes 4 (rdN s (violBase b + 4)))) s) s)

/-! ### Requests of the partner (R534) -/

/-- A forwarded host command enters this device's Headgate (R309). -/
def hostArrives (req : Nat) (f : FwdCmd) (s : State) : State :=
  let a (i : Nat) : Nat := f.args.getD i 0
  let rec pairs : List Nat → List (Nat × Nat)
    | x :: y :: r => (x, y) :: pairs r
    | _ => []
  let op : Option (CmdOp × Bool) :=
    if f.op = 1 then some (.write, true) else if f.op = 2 then some (.read, false) else if f.op = 8 then some (.zeroes, true)
    else if f.op = 9 then some (.dealloc (pairs f.args), true) else if f.op = 12 then some (.verify, false)
    else if f.op = 13 ∨ f.op = 17 ∨ f.op = 21 then some (.resv f.op (a 0) f.host (a 1) (a 2) (a 3) (decide (a 4 = 1)), true)
    else none
  match op with
  | none => replyPartner req 0x0010 [] s
  | some (o, w) =>
    let whole := decide (f.op = 13 ∨ f.op = 17 ∨ f.op = 21 ∨ f.op = 9)
    enter { newCmd (.partner req) o f.vol f.off f.len w with data := f.data, host := f.host, whole := whole } s

/-- FORWARDED_REQUEST_RECEIVED (R309, R404, R534): ownership is checked first, and 0x0A11 has no effect. -/
def execForwardedRequestReceived (req : Nat) (body : FwdReqBody) (s : State) : Out :=
  if !isSet s F.NAL_UP ∨ !ctlMode s then .next s
  else match body with
  | .host f =>
    (match volOf s f.vol with
     | none => .next (replyPartner req 0x0714 [] s)
     | some v =>
       if !holdsGroup s v.group then .next (replyPartner req 0x0A11 [] s)
       else if headgateFull s ∨ admits s = false then .next s
       else .next (hostArrives req f s))
  | .flash p =>
    if !chOwned s (ppaCh p) then .next (replyPartner req 0x0A11 [] s)
    else .next (replyPartner req 0 (memRead s (pageAddr p) 16384) s)
  | .disk a b =>
    if !owns s a then .next (replyPartner req 0x0A11 [] s)
    else if (diskRefusal s).isSome then .next (replyPartner req ((diskRefusal s).getD 0) [] s)
    else if (fsDead s a).isSome then .next (replyPartner req ((fsDead s a).getD 0) [] s)
    else
      let r := runOf s a b
      let n := ((List.range 36).filter (fun i => bitAt r.mask i)).length
      .next ({ s with fs := modAt s.fs a (fun f =>
        { f with queue := f.queue ++ [⟨bandDesc 1 1 r.tag b r.mask 0 r.n (2 * n) 0, 258, req⟩] }) }
        |> (if mode s = 5 then wakeRequest true else fun s => s))
  | .mbx c => .next (arrive 4 (leBytes 2 c.opcode.toNat ++ leBytes 1 c.flags.toNat ++ [0] ++ leBytes 4 c.tag.toNat ++ leBytes 4 c.len.toNat
      ++ leBytes 4 c.dataLen.toNat ++ leBytes 8 c.dataPtr.toNat ++ leBytes 8 c.param.toNat ++ c.data) (some req) s)

end Sys2Proof.Machine
end

