-- ==== Sys2Proof/Machine/Images.lean ====
section
/-! DEFINITION. Images, slots and measurements (R126 to R129, R133, R134, R137, R143). -/

namespace Sys2Proof.Machine

/-! ### Images -/

/-- An image: its 512-byte header and its payload as stored. -/
abbrev Image := List Byte × List Byte

/-- The images of a run of bytes, each with the payload that its header announces; none where one is cut short. -/
def images : Nat → List Byte → Option (List Image)
  | 0, _ => none
  | fuel + 1, b =>
    if b.isEmpty then some []
    else
      let n := leAt b 0x14 4
      if b.length < 512 + n then none
      else (images fuel (b.drop (512 + n))).map (fun r => (b.take 512, slice b 512 n) :: r)

/-- TYPE, SVN, TARGET and PAIR_PROTO of a header (R127). -/
def imgType (h : List Byte) : Nat := leAt h 4 1
def imgSvn (h : List Byte) : Nat := leAt h 0x0C 2
def imgTarget (h : List Byte) : Nat := leAt h 0x12 1
def imgProto (h : List Byte) : Nat × Nat := (leAt h 0x0E 2, leAt h 0x10 2)

/-- Every field of a header has a valid value, and TYPE is as expected (R127). -/
def headerOk (ty : Nat) (h : List Byte) : Bool :=
  let n := leAt h 0x14 4
  let zero (o k : Nat) : Bool := (slice h o k).all (fun x => x = 0)
  decide (h.length = 512 ∧ leAt h 0 4 = 0x474D4956 ∧ imgType h = ty ∧ leAt h 5 1 ≤ 1 ∧ leAt h 6 2 = 0x200 ∧ imgSvn h ≤ 64
      ∧ (imgProto h).1 ≤ (imgProto h).2 ∧ 1 ≤ n)
  && (if ty = 3 then decide (leAt h 5 1 = 1 ∧ 1 ≤ imgTarget h ∧ imgTarget h ≤ 4 ∧ n ≤ 1048576) else decide (imgTarget h = 0 ∧ n ≤ 16776704))
  && zero 0x13 1 && zero 0x5C 36 && zero 0xA0 96 && zero 0x160 160

/-- The checks of R129 on one image, in their order: the status of the first that fails. -/
def imageCheck (ty minSvn : Nat) (i : Image) : Option Nat :=
  if !headerOk ty i.1 then some 0x0214
  else if !Config.imageSignatureOk i.1 then some 0x0210
  else if imgSvn i.1 < minSvn then some 0x0213
  else if bitAt (leAt i.1 5 1) 0 then
    match Config.unwrapPayload i.1 i.2 with
    | none => some 0x0212
    | some p => if sha256 p = slice i.1 0x80 32 then none else some 0x0211
  else if sha256 i.2 = slice i.1 0x80 32 then none
  else some 0x0211

/-- The patches of a bundle form a set: at most 32, in ascending TARGET order, with the bundle's SVN (R129). -/
def patchSetOk (svn : Nat) (l : List Image) : Bool :=
  decide (l.length ≤ 32) && l.all (fun i => imgSvn i.1 = svn)
    && (l.zip (l.drop 1)).all (fun p => imgTarget p.1.1 < imgTarget p.2.1)

/-- The fused minimum of a kind: 1 Supervisor firmware, 2 control bundle. -/
def svnMin (s : State) (k : Nat) : Nat := if k = 1 then s.nv.svnMinSup else s.nv.svnMinCtl

/-- The firmware image of a slot's bytes. -/
def firmwareOf (b : List Byte) : Option Image := ((images 40 b).getD []).head?

/-- The patches of a bundle's bytes. -/
def patchesOf (b : List Byte) : List Image := ((images 40 b).getD []).drop 1

/-- Check the firmware of kind `k` in a slot (R129). -/
def firmwareCheck (s : State) (k : Nat) (b : List Byte) : Option Nat :=
  match images 40 b with
  | some (i :: r) => if k = 1 ∧ r ≠ [] then some 0x0214 else imageCheck k (svnMin s k) i
  | _ => some 0x0214

/-- Check the patch set of a bundle (R129): every patch passes, and together they form a set. -/
def patchesCheck (s : State) (b : List Byte) : Option Nat :=
  match (patchesOf b).findSome? (imageCheck 3 (svnMin s 2)) with
  | some e => some e
  | none => if patchSetOk ((firmwareOf b).elim 0 (fun i => imgSvn i.1)) (patchesOf b) then none else some 0x0214

/-- Check a whole slot of kind `k`. -/
def slotCheck (s : State) (k : Nat) (b : List Byte) : Option Nat :=
  match firmwareCheck s k b with
  | some e => some e
  | none => if k = 2 then patchesCheck s b else none

/-- An image's measurement (R128). -/
def measureOf (h : List Byte) : List Byte := sha256 (h.take 256)

/-- The measurement of a slot's firmware. -/
def fwMeasure (b : List Byte) : List Byte := (firmwareOf b).elim [] (fun i => measureOf i.1)

/-- The measurement of a patch set, index 4 (R137). -/
def patchMeasure (b : List Byte) : List Byte := sha256 ((patchesOf b).flatMap (fun i => measureOf i.1))

/-! ### Slots -/

/-- The slots of a kind. -/
def slotsOf (s : State) (k : Nat) : SlotPair := if k = 1 then s.nv.sup else s.nv.ctl

/-- Change the slots of a kind. -/
def updSlots (k : Nat) (f : SlotPair → SlotPair) (s : State) : State :=
  if k = 1 then { s with nv := { s.nv with sup := f s.nv.sup } } else { s with nv := { s.nv with ctl := f s.nv.ctl } }

/-- The slot of a kind that is booted now. -/
def bootedSlot (s : State) (k : Nat) : Nat := if k = 1 then s.boot.supRun else s.boot.ctlRun

/-- A slot's bytes. -/
def slotBytes (s : State) (k n : Nat) : List Byte := ((slotsOf s k).slots.getD n ⟨[], false⟩).bytes

/-- A slot is valid. -/
def slotValid (s : State) (k n : Nat) : Bool := ((slotsOf s k).slots.getD n ⟨[], false⟩).valid

/-! ### Measurements and lists -/

/-- Bytes of measurement index `i` as held in SUP_MEAS. -/
def measGet (s : State) (i : Nat) : List Byte :=
  let b := (List.range 8).flatMap (fun w => leBytes 4 (rdN s (R.SUP_MEAS i w)))
  if i = 5 then b.take 4 else if i = 8 then b.take 8 else b

/-- An image of the kind runs: Supervisor firmware from step 3 of R130 on but in recovery, a control bundle once its cores run. -/
def runs (k : Nat) (s : State) : Bool :=
  if k = 1 then decide (3 ≤ getF s F.SUP_BOOT_STAGE) && !isSet s F.SUP_BOOT_RECOVERY else s.pwr.coresRunning

/-- The accepted image list (R143): the images of valid slots, those that run, the added entries. -/
def acceptedList (s : State) : List (List Byte) :=
  (List.range 2).flatMap (fun n =>
    (if slotValid s 1 n then [fwMeasure (slotBytes s 1 n)] else [])
    ++ (if slotValid s 2 n then [fwMeasure (slotBytes s 2 n), patchMeasure (slotBytes s 2 n)] else []))
  ++ (if runs 1 s then [measGet s 2] else []) ++ (if runs 2 s then [measGet s 3, measGet s 4] else []) ++ s.nv.accepted

/-- Measurement 7 follows the list. -/
def listRefresh (s : State) : State := measPut 7 (sha256 (Config.listBytes (acceptedList s))) s

/-- SUP_SVN and measurement 5 follow the fused minimums and the running SVNs. -/
def svnRefresh (s : State) : State :=
  let s1 := s |> setF F.SUP_SVN_MIN_SUP s.nv.svnMinSup |> setF F.SUP_SVN_MIN_CTL s.nv.svnMinCtl
  measPut 5 ((leBytes 4 (rdN s1 R.SUP_SVN)).reverse) s1

/-- SUP_SLOT follows the slots. -/
def slotRefresh (s : State) : State :=
  let v (k : Nat) : Nat := b2n (slotValid s k 0) + 2 * b2n (slotValid s k 1)
  s |> setB F.SUP_CTL_TRIAL_STARTED s.nv.ctl.started.isSome |> setB F.SUP_CTL_TRIAL s.nv.ctl.trial.isSome |> setF F.SUP_CTL_VALID (v 2)
    |> setF F.SUP_CTL_RUN s.boot.ctlRun |> setB F.SUP_SUP_TRIAL_STARTED s.nv.sup.started.isSome
    |> setB F.SUP_SUP_TRIAL s.nv.sup.trial.isSome |> setF F.SUP_SUP_VALID (v 1) |> setF F.SUP_SUP_RUN s.boot.supRun

/-- Write a slot. -/
def setSlot (k n : Nat) (x : Slot) (s : State) : State :=
  s |> updSlots k (fun p => { p with slots := setAt p.slots n x }) |> slotRefresh |> listRefresh

/-! ### Choosing a slot (R133, R134) -/

/-- The slot that a kind is to boot, and its record after the choice; whether an unconfirmed trial is reverted. -/
def slotChoice (p : SlotPair) : Nat × SlotPair × Bool :=
  match p.started, p.trial with
  | some _, _ => (p.active, { p with started := none }, true)
  | none, some t => (t, { p with started := some t, trial := none }, false)
  | none, none => (p.active, p, false)

/-- A boot failure: SUP_BOOT_LAST_STATUS. -/
def bootFailed (st : Nat) (s : State) : State := setF F.SUP_BOOT_LAST_STATUS st s

/-- Choose the slot of a kind to boot with the checks `chk`: the chosen one, or the other where it fails; none where both
fail. A slot whose valid flag is off fails with 0x0214, its image unchecked (DESIGN CHOICE, log entry 103). -/
def bootChoose (k : Nat) (chk : State → List Byte → Option Nat) (s : State) : Option Nat × State :=
  let c := slotChoice (slotsOf s k)
  let s1 := updSlots k (fun _ => c.2.1) s |> (if c.2.2 then fun s => s |> bootFailed 0x0217 |> setF F.SUP_BOOT_REVERTED 1 |> raise 0 0x0217 2 0xFFFF k else fun s => s)
  let test (n : Nat) : Option Nat := if slotValid s1 k n then chk s1 (slotBytes s1 k n) else some 0x0214
  match test c.1 with
  | none => (some c.1, s1)
  | some e =>
    let s2 := s1 |> bootFailed e |> setF F.SUP_BOOT_REVERTED 1 |> updSlots k (fun p => { p with started := none })
    match test (1 - c.1) with
    | none => (some (1 - c.1), s2)
    | some _ => (none, s2)

/-- A trial is confirmed: the trial slot becomes active (R134). -/
def confirmTrial (k : Nat) (s : State) : State :=
  match (slotsOf s k).started with
  | some t => s |> updSlots k (fun p => { p with active := t, started := none }) |> slotRefresh
  | none => s

/-- Firmware confirms what is on trial by itself (R134). -/
def confirmTrials (s : State) : State := s |> confirmTrial 1 |> confirmTrial 2

end Sys2Proof.Machine
end

