-- ==== Sys2Proof/Machine/Servo.lean ====
section
/-! DEFINITION. The servo demodulator (R228 to R237) with the micro-actuator loops (R291), and the zone table (R240 to
R247). -/

namespace Sys2Proof.Machine

/-! ### Fields of a wedge (R229) -/

/-- The wedge number of a WID whose CRC-6 holds. -/
def widOf (w : Nat) : Option Nat :=
  if crcMsb 6 3 0 (msbBits 10 (w / 64)) = w % 64 then some (w / 64) else none

/-- The Gray code's bits of a TID, most significant first: 0b01 is 0, 0b10 is 1. -/
def dibits : Nat → Nat → Option (List Bool)
  | 0, _ => some []
  | n + 1, t =>
    let d := t / 4 ^ n % 4
    if d = 1 then (dibits n t).map (fun r => false :: r)
    else if d = 2 then (dibits n t).map (fun r => true :: r)
    else none

/-- The number that Gray-coded bits stand for, most significant first. -/
def grayNat (l : List Bool) : Nat :=
  (l.foldl (fun (p : Nat × Bool) b => let c := p.2.xor b; (2 * p.1 + b2n c, c)) (0, false)).1

/-- The track number of a TID. -/
def tidOf (t : Nat) : Option Nat := (dibits 24 t).map grayNat

/-! ### Position (R230 to R233) -/

/-- The nominal offsets of a group's stripes from its centroid, in servo bits. -/
def stripeOfs : List Int := [-12, -4, 4, 12]

/-- Twelve times a group's mean crossing time and mean nominal offset, over the crossings found; a group with fewer than
three of the four is not valid. -/
def groupMean (g : List (Option Nat)) : Option (Int × Int) :=
  let fs := (g.zip stripeOfs).filterMap (fun x => x.1.map (fun t => (t, x.2)))
  let n := fs.length
  if n < 3 then none
  else some ((fs.map (fun x => (x.1 : Int))).foldl (· + ·) 0 * (12 / n : Nat), (fs.map (fun x => x.2)).foldl (· + ·) 0 * (12 / n : Nat))

/-- Delta / S as a fraction, and S as a fraction in fs (R231). The scaling of the offsets by S / 128 is solved for S. -/
structure Ratio where
  num : Int
  den : Int
  sNum : Int
  sDen : Int
deriving DecidableEq, Repr

/-- The ratio that four valid groups give. -/
def ratioOf (g : List (List (Option Nat))) : Option Ratio :=
  match groupMean (g.getD 0 []), groupMean (g.getD 1 []), groupMean (g.getD 2 []), groupMean (g.getD 3 []) with
  | some a, some b, some c, some d =>
    let m := (c.1 - a.1) + (d.1 - b.1)
    let k := (c.2 - a.2) + (d.2 - b.2)
    let md := (b.1 - a.1) + (d.1 - c.1)
    let kd := (b.2 - a.2) + (d.2 - c.2)
    some ⟨md * (3072 + k) - kd * m, 3072 * m, 128 * m, 3072 + k⟩
  | _, _, _, _ => none

/-- CHEV_ERR of a ratio: outside 0.20 .. 0.80. -/
def ratioBad (r : Ratio) : Bool := decide (r.den ≤ 0 ∨ 5 * r.num < r.den ∨ 4 * r.den < 5 * r.num)

/-- Twice x times the denominator for cell `c`: x = 4c + 1.5 + 8 (0.5 - ratio). -/
def xTwice (r : Ratio) (c : Int) : Int := (8 * c + 11) * r.den - 16 * r.num

/-- The cell that puts x nearest to the decoded track (R232). -/
def cellOf (r : Ratio) (n : Nat) : Int :=
  let dist (c : Int) : Nat := (xTwice r c - 2 * n * r.den).natAbs
  let q : Int := (n / 4 : Nat)
  [q, q + 1].foldl (fun b c => if dist c < dist b then c else b) (q - 1)

/-- POS_CONFLICT: x differs from the decoded track by more than 0.75 track. -/
def conflict (r : Ratio) (c : Int) (n : Nat) : Bool := decide (3 * r.den < 2 * (xTwice r c - 2 * n * r.den).natAbs)

/-- SPEED_ERR: S differs from 128 servo bits at the nominal speed by more than 1 %; `wr` is wedges times rpm. -/
def speedBad (r : Ratio) (wr : Nat) : Bool :=
  let n := 750000000000000 * r.sDen
  decide (n < 100 * (r.sNum * wr - n).natAbs)

/-- PES in 1/1024 track from the target in 1/1024 track, rounded and saturated (R233). -/
def pesOf (r : Ratio) (c target : Int) : Int :=
  sat16 (roundNear (512 * xTwice r c - target * r.den) r.den.toNat)

/-! ### The micro-actuator loop (R275, R291) -/

/-- The swap of loop `4 + a` as a sample of wedge `w` finds it: it takes effect at the first wedge number whose samples
from every head begin after the request. -/
def maSwapBegin (a w n : Nat) (s : State) : State :=
  let x := s.mot.maSwap.getD a ⟨none, none, none⟩
  let ahead (o : Option Nat) : Bool := o.all (fun v => decide (0 < (w + n - v % n) % n ∧ 2 * ((w + n - v % n) % n) < n))
  let s1 := if isSet s (F.CLE_SWAP_PENDING (4 + a)) && ahead x.reqAt then
      let s1 := s |> bankSwap (4 + a) |> swapDone (4 + a)
      let s2 := if isSet s (F.CLE_SWAP_RST (4 + a)) then
          (List.range 36).foldl (fun s i => updHead (36 * a + i) (fun y => { y with ma := { y.ma with rst := true } }) s) s1
        else s1
      { s2 with mot := { s2.mot with maSwap := setAt s2.mot.maSwap a { x with swapped := some w } } }
    else s
  let y := s1.mot.maSwap.getD a ⟨none, none, none⟩
  let past : Bool := y.swapped.any (fun v => decide (n ≤ 4 * ((w + n - v % n) % n) ∧ 2 * ((w + n - v % n) % n) < n))
  let z : MaSwap := ⟨if ahead y.last then some w else y.last, y.reqAt, if past then none else y.swapped⟩
  { s1 with mot := { s1.mot with maSwap := setAt s1.mot.maSwap a z } }

/-- The bank of a sample of wedge `w`: a sample that lags behind the swap takes the bank before it. -/
def maBank (s : State) (a w n : Nat) : Nat :=
  let b := bankOf s (4 + a)
  match (s.mot.maSwap.getD a ⟨none, none, none⟩).swapped with
  | some v => if 0 < (v + n - w % n) % n ∧ 2 * ((v + n - w % n) % n) < n then 1 - b else b
  | none => b

/-- Show a head's command. -/
def maShow (h : Nat) (u : Int) (s : State) : State :=
  setF (F.MA_CMD h) (if isSet s (F.MA_EN h) then unsgn 16 (maCommand s (h / 36) (h % 36) u) else 0) s

/-- The micro-actuator loop of a head at its sample: the loop on a valid wedge, held on a missed one, ramped to its
feedforward when the head is lost. -/
def maSample (h w n : Nat) (missed : Bool) (pes : Int) (s : State) : State :=
  let a := h / 36
  let s1 := s |> maSwapBegin a w n |> setB (F.MA_HOLD h) missed
  let x := headOf s1 h
  match x.lostAt with
  | some l =>
    let u := lostRamp l.2 (s1.now.toNat - l.1)
    s1 |> updHead h (fun y => { y with ma := { y.ma with out := u, prev := y.ma.out } }) |> maShow h u
  | none =>
    if missed ∨ isSet s1 (F.MA_EN h) = false then maShow h x.ma.out s1
    else
      let r := loopRun (4 + a) (maBank s1 a w n) (pes * 2 ^ 20) 0 (if maBank s1 a w n = bankOf s1 (4 + a) then x.ma else { x.ma with rst := false }) s1
      let keep := x.ma.rst && decide (maBank s1 a w n ≠ bankOf s1 (4 + a))
      r.2 |> updHead h (fun y => { y with ma := { r.1.1 with rst := keep } }) |> maShow h r.1.1.out

/-! ### The servo sample (R234 to R237) -/

/-- Add to one of the four counts of SRV_STATS (R267). -/
def srvStat (h i : Nat) (s : State) : State :=
  updHead h (fun x => { x with srv := modAt x.srv i (fun n => min (2 ^ 48 - 1) (n + 1)) }) s

/-- FS_MISS_LIMIT as it acts. -/
def missLimit (s : State) (a : Nat) : Nat := max 1 (getF s (F.FS_MISS_LIMIT a))

/-- A missed wedge: counted; after FS_MISS_LIMIT in a row the head is lost (R236). -/
def wedgeMissed (h : Nat) (s : State) : State :=
  let a := h / 36
  let i := h % 36
  let n := (headOf s h).missRun + 1
  let s1 := s |> count (R.FS_WEDGE_MISS_LO a) 1 |> srvStat h 1
    |> setF (F.FS_SRV_MISS_RUN a i) (min 15 n)
    |> updHead h (fun x => { x with missRun := n, validRun := 0, settleRun := 0 })
  if missLimit s a ≤ n ∧ isSet s (F.FS_SRV_LOST a i) = false then
    s1 |> setF (F.FS_SRV_LOST a i) 1 |> srvStat h 3 |> updHead h (fun x => { x with lostAt := some (s.now.toNat, x.ma.out) })
      |> raise 6 0x0320 2 h 0
  else s1

/-- A valid wedge: two in a row recover a lost head. -/
def wedgeValid (h : Nat) (c : Int) (pes : Int) (s : State) : State :=
  let a := h / 36
  let i := h % 36
  let v := (headOf s h).validRun + 1
  let inside := decide (pes.natAbs ≤ getF s (F.FS_SETTLE_LIMIT a))
  let s1 := s |> srvStat h 0 |> setF (F.FS_SRV_MISS_RUN a i) 0
    |> updHead h (fun x => { x with missRun := 0, validRun := v, cell := c.toNat, settleRun := if inside ∧ seekRuns s a = false then x.settleRun + 1 else 0 })
  if 2 ≤ v then s1 |> setF (F.FS_SRV_LOST a i) 0 |> updHead h (fun x => { x with lostAt := none }) else s1

/-- A head's target in 1/1024 track: its track with the offset of a ladder step (R222), on the trajectory of a seek that runs (R293). -/
def targetOf (s : State) (h : Nat) : Int :=
  (headOf s h).target * 1024 + (headOf s h).ofs + (if getF s (F.VCM_STATE (actOf h)) = 2 then seekLag s (actOf h) else 0)

/-- x of a ratio in cell `c`, unsigned Q24.10 tracks, rounded (R234). -/
def xField (r : Ratio) (c : Int) : Nat := unsgn 34 (roundNear (512 * xTwice r c) r.den.toNat)

/-- The flags of R235, the cell and PES of a wedge, its number, and x. -/
def demod (s : State) (h : Nat) (g : Wedge) : Nat × Int × Int × Nat × Nat :=
  let a := h / 36
  let i := h % 36
  let n := max 1 ((s.desc.map (fun d => d.wedges)).getD 1)
  let next := (getF s (F.FS_SRV_WEDGE a i) + 1) % n
  let found : Bool := match g.sam with
    | some d => isSet s (F.FS_SRV_LOST a i) || decide (d.natAbs ≤ getF s (F.FS_SAM_WIN a))
    | none => false
  if !found then (1, 0, 0, next, 0)
  else
    let wid := widOf g.wid.toNat
    let tid := tidOf g.tid.toNat
    let base := b2n wid.isNone * 2 + b2n tid.isNone * 4
    match ratioOf g.groups with
    | none => (base + 8, 0, 0, wid.getD next, 0)
    | some r =>
      if r.den ≤ 0 then (base + 8, 0, 0, wid.getD next, 0)
      else
        let c := match tid with
          | some t => cellOf r t
          | none => (headOf s h).cell
        let conf : Bool := match tid with
          | some t => conflict r c t
          | none => false
        let sp := speedBad r (n * (s.desc.map (fun d => d.rpmNominal)).getD 0)
        (base + b2n (ratioBad r) * 8 + b2n conf * 16 + b2n sp * 32, c, pesOf r c (targetOf s h), wid.getD next, xField r c)

/-- WEDGE_SAMPLE (R234): a sample of every wedge of a head whose channel is on. The command stands for the whole wedge: a writing head's gate
and data are off across it and come back behind it, unless the sample is unsafe (R221, R237). -/
def execWedgeSample (h : Fin 144) (g : Wedge) (s : State) : Out :=
  let a := actOf h.val
  let i := h.val % 36
  if domOn s (2 + a) = false ∨ fitted s h.val = false then .next s
  else
    let n := max 1 ((s.desc.map (fun d => d.wedges)).getD 1)
    let r := demod s h.val g
    let flags := r.1
    let c := r.2.1
    let pes := r.2.2.1
    let w := r.2.2.2.1
    let missed := missFlags flags
    let s1 := s |> setF (F.FS_SRV_WEDGE a i) w |> setF (F.FS_SRV_FLAGS a i) flags
      |> (if missed then freeF (F.FS_SRV_PES a i) else setF (F.FS_SRV_PES a i) (unsgn 16 pes))
      |> (if bitAt flags 4 then srvStat h.val 2 else fun s => s)
      |> (if missed then wedgeMissed h.val else wedgeValid h.val c pes)
      |> maSample h.val w n missed pes
      |> setB (F.HC_WR_UNSAFE h.val) (missed || decide (getF s (F.FS_WU_LIMIT a) < pes.natAbs))
    let f := takeFree s1
    let pos := if missed then f.1.toNat % 2 ^ 50 else r.2.2.2.2 * 2 ^ 16 + unsgn 16 pes
    let rec128 := h.val * 2 ^ 120 + w * 2 ^ 110 + flags * 2 ^ 104 + pos * 2 ^ 54 + s.now.toNat % 2 ^ 32
    let s1 := updHead h.val (fun x => { x with sample := rec128 }) (if missed then f.2 else s1)
    let s2 := if writing s h.val then send (.writeGate h.val false) s1 else s1
    if isSet s2 (F.HC_WR_UNSAFE h.val) then .next (stopHead h.val s2)
    else .next (if writing s2 h.val then send (.writeGate h.val true) s2 else s2)

/-! ### The zone table (R240 to R247) -/

/-- Fields of a zone image. -/
def ziHdr (l : List Byte) (z o n : Nat) : Nat := leAt l (0x140 + 32 * z + o) n
def ziOfs (l : List Byte) (i : Nat) : Int := sgn 32 (leAt l (0x20 + 8 * i) 4)

/-- Ceiling division. -/
def ceilDiv (n d : Nat) : Nat := (n + d - 1) / d

/-- The sector walk of a zone: the starts of its sectors, where the last POST ends before wedge 0. -/
def zoneWalk (p g ofs0 sectors wedges : Nat) : Option (List Nat) :=
  if p = 0 then none
  else match walkSectors p g wedges sectors (g + ofs0) with
  | some r => if r.2 - 64 ≤ wedges * p then some r.1 else none
  | none => none

/-- Bytes that must be 0. -/
def zeros (l : List Byte) (o n : Nat) : Bool := (slice l o n).all (fun b => b = 0)

/-- Check 2 of R245: the fields of the global header, the head table and the zone headers. -/
def ziFields (s : State) (a : Nat) (l : List Byte) : Bool :=
  let zs := leAt l 8 1
  decide (leAt l 0 4 = 0x31545A56 ∧ 1 ≤ leAt l 4 4 ∧ leAt l 4 4 ≤ 16777216 ∧ 1 ≤ zs ∧ zs ≤ 24 ∧ leAt l 9 1 = a
      ∧ 1 ≤ leAt l 0x0A 2 ∧ leAt l 0x0A 2 ≤ 64)
    && zeros l 0x0C 20
    && (List.range 36).all (fun i => decide (leAt l (0x24 + 8 * i) 1 = b2n (fitted s (36 * a + i))) && zeros l (0x25 + 8 * i) 3)
    && (List.range zs).all (fun z =>
        decide ((if z = 0 then ziHdr l z 0 4 = 0 else ziHdr l (z - 1) 0 4 < ziHdr l z 0 4) ∧ ziHdr l z 0 4 < leAt l 4 4
          ∧ 1000000 ≤ ziHdr l z 4 4 ∧ ziHdr l z 4 4 ≤ 4000000 ∧ 1 ≤ ziHdr l z 0x0C 2 ∧ ziHdr l z 0x0C 2 ≤ 1024)
        && zeros l (0x140 + 32 * z + 0x18) 8)

/-- The least GATED_CB of a zone (R244). -/
def gatedMin (pitch rate : Nat) : Nat := ceilDiv (432 * pitch) 10240 + ceilDiv (rate * 6) 100000 + 2 * ceilDiv (12 * pitch) 10000

/-- The checks of R245 on an image, in order: 0, 0x0322 or 0x0323. -/
def zoneCheck (s : State) (a : Nat) (l : List Byte) : Nat :=
  let wedges := (s.desc.map (fun d => d.wedges)).getD 0
  let wr := wedges * (s.desc.map (fun d => d.rpmNominal)).getD 0
  let zs := List.range (leAt l 8 1)
  let ofs := (surfaces s a).map (ziOfs l)
  let hi := ofs.foldl max (ofs.headD 0)
  let lo := ofs.foldl min (ofs.headD 0)
  if leAt l 0x7EFC 4 ≠ crc32c (l.take 0x7EFC) ∨ ziFields s a l = false then 0x0322
  else if wr = 0 ∨ zs.any (fun z => decide (wr < ((ziHdr l z 0x10 4 * wr : Nat) - (ziHdr l z 4 4 * 60000 : Nat) : Int).natAbs)) = true then 0x0322
  else if zs.any (fun z => decide (ziHdr l z 0x0E 2 < gatedMin (ziHdr l z 0x10 4) (ziHdr l z 4 4))) = true then 0x0322
  else if zs.any (fun z => (zoneWalk (ziHdr l z 0x10 4) (ziHdr l z 0x0E 2) (ziHdr l z 0x14 4) (ziHdr l z 0x0C 2) wedges).isNone) = true then 0x0322
  else if lo < 0 ∨ (2 ^ 24 : Int) ≤ hi + (leAt l 4 4 : Nat) - 1 then 0x0322
  else if (leAt l 0x0A 2 : Int) < hi - lo then 0x0323
  else 0

/-- The image in the zone memory of actuator `a`. -/
def zoneImage (s : State) (a : Nat) : List Byte := memRead s (space 6 (a * 0x8000)) 32512

/-- The zone table is committed: valid, and its bands and zones the ones that runs are laid on. -/
def zoneCommitted (a : Nat) (l : List Byte) (s : State) : State :=
  let zs := (List.range (leAt l 8 1)).map (fun z => (ziHdr l z 0 4, ziHdr l z 0x0C 2))
  setF (F.FS_ZT_VALID a) 1 { s with tier := { s.tier with
    diskBands := setAt s.tier.diskBands a (leAt l 4 4)
    diskZones := setAt s.tier.diskZones a zs } }

/-- Check and commit the zone memory (R245). -/
def zoneCommit (a : Nat) (s : State) : State :=
  let l := zoneImage s a
  let c := zoneCheck s a l
  if c = 0 then zoneCommitted a l s
  else s |> setF (F.FS_ZT_VALID a) 0 |> setF (F.FS_ZT_BAD a) 1 |> raise 6 c 2 a 0

/-- FS_ZT_COMMIT (R245). -/
def execFsZtCommit (p : Path) (a : Fin 4) (s : State) : Out :=
  .next (busAct p (R.FS_ZT_CTL a.val) 1 (acc (zoneCommit a.val)) s)

/-- Store a word in the zone memory (R246). -/
def zoneStore (a k : Nat) (w : Word) (s : State) : State :=
  s |> memWrite (space 6 (a * 0x8000 + 4 * k)) (leBytes 4 w.toNat) |> setF (F.FS_ZT_VALID a) 0

/-- ZONE_MEMORY_WRITE (R246). -/
def execZoneMemoryWrite (p : Path) (a : Fin 4) (k : Fin 8128) (w : BitVec 32) (s : State) : Out :=
  .next (busAct p (0x1E0000 + 0x8000 * a.val + 4 * k.val) w (acc (zoneStore a.val k.val w)) s)

end Sys2Proof.Machine
end

