-- ==== Sys2Proof/Machine/Vcm.lean ====
section
/-! DEFINITION. The rows of the control law engine, the actuators and their retract (R275, R276, R278, R291 to R295,
R298). -/

namespace Sys2Proof.Machine

/-! ### VCM_UNSAFE and VCM_SHOCK (R294) -/

/-- An unsafe sample of an actuator: the flag, its fault bits and 0x0337 at the first sample of an episode; the write gates
go off (R219). -/
def vcmUnsafe (a : Nat) (sat centre ovr : Bool) (s : State) : State :=
  let first := !isSet s (F.VCM_UNSAFE a)
  let s1 := s |> setF (F.VCM_UNSAFE a) 1 |> updVcm a (fun x => { x with cleanRun := 0 })
  (if first then
    s1 |> (if sat then setF (F.VCM_ISAT a) 1 else fun s => s) |> (if centre then setF (F.VCM_CENTRE a) 1 else fun s => s)
      |> (if ovr then setF (F.VCM_OVERRUN a) 1 else fun s => s) |> raise 8 0x0337 2 a 0
  else s1) |> stopAct a

/-- A clean sample: the eighth in a row clears the flag. -/
def vcmClean (a : Nat) (s : State) : State :=
  let n := (vcmOf s a).cleanRun + 1
  let s1 := updVcm a (fun x => { x with cleanRun := n }) s
  if 8 ≤ n then setF (F.VCM_UNSAFE a) 0 s1 else s1

/-- The shock flag of an actuator at an acceleration in rad/s^2 of 2^-30. -/
def vcmShock (alpha : Int) (a : Nat) (s : State) : State :=
  let ovr := decide (getF s (F.VCM_SHOCK_LIMIT a) * 10 * 2 ^ 30 < alpha.natAbs)
  if ovr then
    let first := !isSet s (F.VCM_SHOCK a)
    let s1 := s |> setF (F.VCM_SHOCK a) 1 |> updVcm a (fun x => { x with shockUntil := s.now.toNat + 2000000 })
    (if first then s1 |> setF (F.VCM_SHOCK_SEEN a) 1 |> raise 8 0x0337 2 a 0 else s1) |> stopAct a
  else if (vcmOf s a).shockUntil ≤ s.now.toNat then setF (F.VCM_SHOCK a) 0 s
  else s

/-! ### The VCM loop (R292) -/

/-- The heads whose settling ends a seek: the band's, else the tracking ones. -/
def settleHeads (s : State) (a : Nat) : List Nat :=
  match bandOf s a with
  | some b => (maskList b.mask).filter (fun i => fitted s (36 * a + i))
  | none => (surfaces s a).filter (tracking s a)

/-- Step 3 of R252: every head within FS_SETTLE_LIMIT for FS_SETTLE_WEDGES wedges in a row. -/
def settled (s : State) (a : Nat) : Bool :=
  let hs := settleHeads s a
  !hs.isEmpty && hs.all (fun i => decide (max 1 (getF s (F.FS_SETTLE_WEDGES a)) ≤ (headOf s (36 * a + i)).settleRun))

/-- A seek that has settled tracks its band. -/
def seekSettle (a : Nat) (s : State) : State :=
  if getF s (F.VCM_STATE a) = 2 ∧ settled s a = true then
    s |> setF (F.VCM_STATE a) 3 |> bandShow a (getF s (F.VCM_TARGET a))
  else s

/-- This device computes the VCM loop: it holds the token and the heads are on their way or on the disk (R288, R289). -/
def vcmComputes (s : State) (a : Nat) : Bool :=
  motOn s && owns s a && decide (1 ≤ getF s (F.VCM_STATE a) ∧ getF s (F.VCM_STATE a) ≤ 4)

/-- The loop's input of the heads with a valid sample, in Q17.30 tracks: the rounded mean of PES less displacement. -/
def vcmInput (s : State) (a : Nat) (hs : List Nat) : Int :=
  roundNear ((hs.map (fun i => sgn 16 (getF s (F.FS_SRV_PES a i)) * 2 ^ 20 - maDisp s a i)).foldl (· + ·) 0) (max 1 hs.length)

/-- The mean displacement is beyond STROKE / 4. -/
def offCentre (s : State) (a : Nat) (hs : List Nat) : Bool :=
  decide (hs.length * stroke s a * 2 ^ 30 < 4 * ((hs.map (maDisp s a)).foldl (· + ·) 0).natAbs)

/-- The sample of an actuator's loop: held without any head, else computed with its additive terms. -/
def vcmSample (a w : Nat) (omega alpha : Int) (ff : BitVec 16) (s : State) : State :=
  let hs := (surfaces s a).filter (fun i => tracking s a i && sampleAt s a i w)
  if hs.isEmpty then vcmUnsafe a false false true s
  else
    let b := sampleBegin a (vcmOf s a).loop s
    let t := biasTerm a b.2
    let k := bankOf t.2 a
    let add := t.1 + fricTerm t.2 a omega (vcmOf s a).seekDir + ff.toInt * 2 ^ 45 + coef t.2 a k 42 * alpha
    let r := loopRun a k (sat48 (vcmInput t.2 a hs)) add b.1 t.2
    let n := if r.1.2 then (vcmOf s a).satRun + 1 else 0
    let s1 := r.2 |> updVcm a (fun x => { x with loop := r.1.1, satRun := n }) |> setF (F.VCM_ICMD a) (unsgn 16 r.1.1.out)
    let sat := decide (max 1 (getF s1 (F.VCM_SAT_SAMPLES a)) ≤ n)
    let centre := offCentre s1 a hs
    (if sat || centre then vcmUnsafe a sat centre false s1 else vcmClean a s1) |> seekSettle a

/-- VCM_LOOP_SAMPLE (R292): the wedge number, the angular velocity in 1/65536 rad/s, the rotational acceleration in 2^-30
rad/s^2, and the seek feedforward in Q1.15. A releasing device sends its output to the receiver (R289). -/
def execVcmLoopSample (a : Fin 4) (w : BitVec 10) (omega alpha : Int) (ff : BitVec 16) (s : State) : Out :=
  if !vcmComputes s a.val then .next s
  else
    let s1 := s |> forN 4 (fun b s => if fittedAct s b then vcmShock alpha b s else s) |> vcmSample a.val w.toNat omega alpha ff
    match s1.pair.blends.getD a.val none with
    | some b => .next (if b.giving then nalSend 0 40 (a.val :: getF s1 (F.VCM_ICMD a.val) ::
        (vcmOf s1 a.val).loop.sect.flatMap (fun l => l.map (unsgn 48))) s1 else s1)
    | none => .next s1

/-! ### Late outputs, banks, commit -/

/-- CLE_OUTPUT_LATE (R276): the output before is applied again; surface `i` names the head of a micro-actuator loop. -/
def execCleOutputLate (l : Fin 9) (i : Fin 36) (s : State) : Out :=
  if !motOn s then .next s
  else
    let late (x : LoopSt) : LoopSt := { x with out := x.prev }
    let s1 := s |> count R.CLE_OVERRUN_LO 1 |> setF F.CLE_OVR 1 |> raise 8 0x033B 1 l.val 0
    if l.val < 4 then
      let s2 := updVcm l.val (fun x => { x with loop := late x.loop }) s1
      .next (s2 |> setF (F.VCM_ICMD l.val) (unsgn 16 (vcmOf s2 l.val).loop.out) |> vcmUnsafe l.val false false true)
    else if l.val < 8 then
      let a := l.val - 4
      let h := 36 * a + i.val
      let s2 := updHead h (fun x => { x with ma := late x.ma }) s1
      let u := (headOf s2 h).ma.out
      .next (s2 |> setF (F.MA_CMD h) (if isSet s2 (F.MA_EN h) then unsgn 16 (maCommand s2 a i.val u) else 0)
        |> vcmUnsafe a false false true)
    else
      let s2 := updSpn (fun x => { x with loop := late x.loop }) s1
      .next { s2 with pair := { s2.pair with torqueCmd := s2.mot.spn.loop.out } }

/-- A swap request (R275): a second one while one is pending has no effect. -/
def swapReq (l : Nat) (s : State) : State :=
  if isSet s (F.CLE_SWAP_PENDING l) then s
  else
    let s1 := setF (F.CLE_SWAP_PENDING l) 1 s
    if 4 ≤ l ∧ l < 8 then { s1 with mot := { s1.mot with maSwap := modAt s1.mot.maSwap (l - 4) (fun x => { x with reqAt := x.last }) } }
    else s1

/-- CLE_SWAP_REQ (R275). -/
def execCleSwapReq (p : Path) (l : Fin 9) (s : State) : Out :=
  .next (busAct p (R.CLE_LOOP l.val) (BitVec.ofNat 32 (getF s (F.CLE_SWAP_RST l.val) * 8 + 2)) (acc (swapReq l.val)) s)

/-- CLE_COMMIT (R278). -/
def execCleCommit (p : Path) (s : State) : Out :=
  .next (busAct p R.CLE_CTL 1 (acc (setF F.CLE_COMMITTED 1)) s)

/-- A write of a coefficient word (R275): never to the active bank, nor to the other while a swap is pending. -/
def coefStore (l k w : Nat) (v : Word) (s : State) : State :=
  if k = bankOf s l ∨ isSet s (F.CLE_SWAP_PENDING l) then setF (F.CLE_WR_ACTIVE l) 1 s else wr (R.CLE_COEF l k w) v s

/-! ### Loading, unloading, retract -/

/-- ALL_HEADS_LOST_TIMEOUT (R294): every tracking head has been lost for 10 ms. -/
def execAllHeadsLostTimeout (a : Fin 4) (s : State) : Out :=
  let hs := (surfaces s a.val).filter (tracking s a.val)
  if headsLoaded s a.val && owns s a.val && !hs.isEmpty && hs.all (fun i => isSet s (F.FS_SRV_LOST a.val i)) then
    .next (s |> retract a.val |> raise 8 0x0337 2 a.val 0)
  else .next s

/-- MOT_HEADS_LOAD (R293). -/
def execMotHeadsLoad (m : Fin 16) (s : State) : Out :=
  .next (mbxRow m.val 0x0311 (fun c => decide (par c 8 1 = 1)) (fun c s =>
    let a := par c 0 2
    if !fittedAct s a then answer 0x0016 s
    else if !owns s a then answer 0x0A11 s
    else if headsLoaded s a then answer 0 s
    else if isSet s F.SPN_AT_SPEED = false ∨ getF s F.SPN_RPM < 1800 then answer 0x033A s
    else (s |> liftEscalation 0x0337 a |> loadHeads a, none)) s)

/-- MOT_HEADS_UNLOAD (R293). -/
def execMotHeadsUnload (m : Fin 16) (s : State) : Out :=
  .next (mbxRow m.val 0x0311 (fun c => decide (par c 8 1 = 0)) (fun c s =>
    let a := par c 0 2
    if !fittedAct s a then answer 0x0016 s
    else if !owns s a then answer 0x0A11 s
    else
      let s1 := unloadHeads a s
      if getF s1 (F.VCM_STATE a) = 4 ∨ getF s1 (F.VCM_STATE a) = 5 then (s1, none) else answer 0 s1) s)

/-- HEAD_LOAD_DONE (R293): the heads are on the disk, at a band. -/
def execHeadLoadDone (a : Fin 4) (band : BitVec 24) (s : State) : Out :=
  if getF s (F.VCM_STATE a.val) = 1 ∧ domOn s (2 + a.val) then
    .next (s |> setF (F.VCM_STATE a.val) 3 |> heatersOn a.val |> bandShow a.val band.toNat |> headsFinish a.val true 0)
  else .next s

/-- VCM_RETRACT (R295): on an actuator whose token this device holds. -/
def execVcmRetractWrite (p : Path) (a : Fin 4) (s : State) : Out :=
  .next (busAct p (R.VCM_CTL a.val) (BitVec.ofNat 32 (getF s (F.VCM_LOAD a.val) + 2))
    (acc (fun s => if owns s a.val then retract a.val s else s)) s)

/-- RETRACT_RAMP_DETECTED (R295): the latch push starts. -/
def execRetractRampDetected (a : Fin 4) (s : State) : Out :=
  if getF s (F.VCM_STATE a.val) = 5 then .next (updVcm a.val (fun x => { x with latch := true }) s) else .next s

/-! ### Status and tables (R298) -/

/-- MOT_STATUS (R298). -/
def execMotStatus (m : Fin 16) (s : State) : Out :=
  .next (mbxRow m.val 0x0313 anyParam (fun _ s =>
    answerData (([R.SPN_STATUS, R.SPN_FAULT] ++ (List.range 4).map R.VCM_STATUS ++ (List.range 4).map R.FAN_STATUS).flatMap
      (fun r => leBytes 4 (rdN s r))) s) s)

/-- The words of a table image stored in registers from the first on, each through `f`. -/
def storeWords (f : Nat → Word → State → State) : Nat → List Word → State → State
  | _, [], s => s
  | i, w :: r, s => storeWords f (i + 1) r (f i w s)

/-- A table entry holds its value in bits [15:0]; the rest is reserved. -/
def entryStore (r : Nat) (w : Word) (s : State) : State := wr r (w &&& 0xFFFF) s

/-- MOT_TABLE_LOAD (R298): with bit 8 set a bank load completes after the swap. -/
def execMotTableLoad (m : Fin 16) (s : State) : Out :=
  .next (mbxRow m.val 0x0314 anyParam (fun c s =>
    let t := par c 0 4
    let i := par c 4 4
    let n := if t = 0 then 256 else if t = 1 then 32 else if t = 2 then 1024 else 64
    if 3 < t ∨ (t < 2 ∧ 3 < i) ∨ (t = 3 ∧ 8 < i) then answer 0x0016 s
    else if c.dataLen.toNat ≠ 4 * n then answer 0x0011 s
    else
      let ws := leWords (min n (c.ext.length / 4)) c.ext
      if t = 0 then answer 0 (storeWords (fun j => entryStore (R.VCM_BIAS i j)) 0 ws s)
      else if t = 1 then answer 0 (storeWords (fun j => entryStore (R.VCM_FRIC i j)) 0 ws s)
      else if t = 2 then answer 0 (storeWords (fun j => entryStore (R.SPN_COG j)) 0 ws s)
      else
        let s1 := storeWords (fun j => coefStore i (1 - bankOf s i) j) 0 ws s
        if par c 8 1 = 1 ∧ ws.length = n then (swapReq i s1, none) else answer 0 s1) s)

end Sys2Proof.Machine
end

