-- ==== Sys2Proof/Machine/Fseq.lean ====
section
/-! DEFINITION. The format sequencers (R248 to R267): microwords, conditions, bands and their completion, machine checks,
the patch load, the trace, and their rows but for the two register actions. -/

namespace Sys2Proof.Machine

/-- A sequencer's record. -/
def fsOf (s : State) (a : Nat) : FsSt := s.fs.getD a FsSt.reset

/-- Change a sequencer's record. -/
def updFs (a : Nat) (f : FsSt → FsSt) (s : State) : State := { s with fs := modAt s.fs a f }

/-- A general register. -/
def gr (s : State) (a i : Nat) : Word := (fsOf s a).gr.getD (i % 32) 0

/-- Write a general register. -/
def grPut (a i : Nat) (w : Word) (s : State) : State := updFs a (fun x => { x with gr := setAt x.gr (i % 32) w }) s

/-! ### Microwords (R253, R259) -/

def wAct (w : Nat) : Nat := bitsAt w 90 6
def wRd (w : Nat) : Nat := bitsAt w 85 5
def wRa (w : Nat) : Nat := bitsAt w 80 5
def wRb (w : Nat) : Nat := bitsAt w 75 5
def wAlu (w : Nat) : Nat := bitsAt w 72 3
def wImm (w : Nat) : Nat := bitsAt w 56 16
def wCsel (w : Nat) : Nat := bitsAt w 52 4
def wCmask (w : Nat) : Nat := bitsAt w 48 4
def wNam (w : Nat) : Nat := bitsAt w 45 3
def wNa (w : Nat) : Nat := bitsAt w 32 13
def wCcls (w : Nat) : Nat := bitsAt w 28 4
def wTmo (w : Nat) : Nat := bitsAt w 16 12

/-- The parity bits of 96 data bits. -/
def parityOf (d : Nat) : Nat := ofBits ((List.range 8).map (fun i => ((toBits 12 (d / 2 ^ (12 * i))).foldl Bool.xor false)))

/-- The parity syndrome of a stored word. -/
def syndromeOf (w : Nat) : Nat := Nat.xor (parityOf (w % 2 ^ 96)) (w / 2 ^ 96 % 256)

/-- A control store word as it reads, with its parity bits above bit 95. -/
def csWord (s : State) (a n : Nat) : Nat :=
  if n < 0x1000 then (Config.fsRom n).toNat
  else match (fsOf s a).ram.find? (fun e => e.1 = n) with
  | some e => e.2
  | none => (Config.fsRam a n).toNat

/-- The address that a fetch takes: the target of the lowest valid trap on a ROM address, else the address itself. -/
def trapped (s : State) (a pc : Nat) : Nat :=
  match (List.range 64).find? (fun n => isSet s (F.FS_TRAP_VALID a n) && decide (pc < 0x1000 ∧ getF s (F.FS_TRAP_ROM a n) = pc)) with
  | some n => getF s (F.FS_TRAP_TARGET a n)
  | none => pc

/-! ### The trace (R266) -/

/-- Record a word that ends: its condition bits, whether by timeout or by a machine check. -/
def traceWord (a pc w cond : Nat) (tmo mchk : Bool) (s : State) : State :=
  let on := isSet s (F.FS_TRC_EN a) && !isSet s (F.FS_TRC_FROZEN a) && (!isSet s (F.FS_TRC_MODE a) || bitAt w 12)
  if !on then s
  else
    let e := pc * 2 ^ 51 + wNam w * 2 ^ 48 + cond * 2 ^ 44 + wCcls w * 2 ^ 40 + wAct w * 2 ^ 34 + b2n tmo * 2 ^ 33 + b2n mchk * 2 ^ 32
      + s.now.toNat % 2 ^ 32
    let p := getF s (F.FS_TRC_WPTR a)
    s |> updFs a (fun x => { x with trace := (p, e) :: x.trace.filter (fun y => y.1 ≠ p) }) |> setF (F.FS_TRC_WPTR a) ((p + 1) % 1024)

/-- An entry of the trace ring; one never recorded is undefined. -/
def traceEntry (a i : Nat) (s : State) : Nat × State :=
  match (fsOf s a).trace.find? (fun e => e.1 = i) with
  | some e => (e.2, s)
  | none => let f := takeFree s; (f.1.toNat, f.2)

/-! ### The end of a band (R251) -/

/-- The surfaces whose requested sectors were all written or delivered. -/
def doneMask (s : State) (a : Nat) (b : Band) : Nat :=
  let n := sectorsOf s a (bdBand b)
  maskOf ((maskList b.mask).filter (fun i =>
    if bandOp b = 2 then decide (n ≤ b.slot) && !bitAt b.stopped i
    else b.armed && (b.left ++ b.failed).all (fun e => decide (e.1 ≠ i))))

/-- A completion record. -/
def bandRec (st revs done k0 unrec : Nat) : List Byte :=
  leBytes 2 st ++ leBytes 1 (min 255 revs) ++ leBytes 1 0 ++ leBytes 8 done ++ leBytes 2 k0 ++ leBytes 2 unrec

/-- The hardware's own record of the band in progress. -/
def hwRec (s : State) (a st : Nat) (b : Band) : List Byte :=
  bandRec st b.revs (doneMask s a b) (if bandOp b = 2 then b.k0 else 0) b.unrecov

/-- Every sector that failed can be rebuilt from the other units of its slot (R419). -/
def rebuilds (r : RunEnt) (l : List (Nat × Nat)) : Bool :=
  bitAt r.flags 0 && l.all (fun e => l.all (fun f => decide (e = f ∨ e.2 ≠ f.2)))

/-- A descriptor's completion record goes to where it came from: a native entry's buffer and completion, a racking move
(R420), the reads that wait on the band, or the partner's request. What the device itself asked for is issued again after 0x0317 (R224). -/
def descDone (a : Nat) (d : BandDesc) (op : Nat) (failed : List (Nat × Nat)) (rc : List Byte) (s : State) : State :=
  let st := leAt rc 0 2
  let band := leAt d.bytes 4 4
  let done := leAt rc 4 8
  let r := runOf s a band
  if 256 ≤ d.q ∧ st = 0x0317 then updFs a (fun x => { x with queue := x.queue ++ [d] }) s
  else if d.q < 256 then
    match cmdOf s d.cookie with
    | none => s
    | some c => s |> scatter c.bufSpace c.buf rc |> updCmd c.id (fun c => { c with status := some (c.status.getD st), info := done % 2 ^ 32 })
        |> needsEnd (fun n => decide (n.kind = 3 ∧ n.a = d.cookie)) none
  else if d.q = 256 ∨ d.q = 259 then
    match moveOf s d.cookie with
    | none => s
    | some m =>
      let mask := leAt d.bytes 8 8
      if d.q = 256 ∧ op = 2 ∧ done = mask ∧ isSet s F.RACK_VERIFY_RUNS = true then
        let n := bandSectors s a band
        let v := bandDesc 3 0 r.tag band mask 0 n (2 * (maskList mask).length) 0
        s |> updRun a band (fun r => { r with k0 := leAt rc 0x0C 2 }) |> updFs a (fun x => { x with queue := x.queue ++ [⟨v, 259, d.cookie⟩] })
      else if d.q = 256 then runWritten m a band mask done (leAt rc 0x0C 2) (bandSectors s a band) s
      else runWritten m a band mask (if st = 0 then mask else 0) r.k0 (bandSectors s a band) s
  else
    let e := if st = 0 ∨ (failed ≠ [] ∧ rebuilds r failed = true) then none else some st
    if d.q = 257 then needsDone (fun n => decide (n.kind = 1 ∧ n.a = a ∧ n.b = band)) e s
    else replyPartner d.cookie (e.getD 0) (if e.isNone then memRead s (runAddr a band 0) (16 * r.data16) else []) s

/-- Install a zone image and commit it; the FS_ZONE_LOAD that waits completes, and the hold is cleared (R267). -/
def zoneInstall (a : Nat) (s : State) : State :=
  match (fsOf s a).zoneLoad with
  | none => s
  | some z => s |> updFs a (fun x => { x with zoneLoad := none }) |> memWrite (space 6 (a * 0x8000)) (z.2.take 32512)
      |> setF (F.FS_ZT_VALID a) 0 |> zoneCommit a |> setF (F.FS_BQ_HOLD a) 0 |> mbxSetResult z.1 (resStatus 0)

/-- A band written with a clock that differs from the zone's channel rate has the wrong density (R113); the order of reads rotates
(R108). -/
def bandDensity (a : Nat) (b : Band) (s : State) : State :=
  let n := bdBand b
  let bad := !wrClockOk (s.clk.applied.getD (5 + a) 0) (zHdr s a (zoneOf s a n) 4 4)
  let l := s.tier.misrecorded.filter (fun e => e ≠ (a, n))
  let s1 : State := { s with clk := { s.clk with rot := (s.clk.rot + 1) % 16 } }
  { s1 with tier := { s.tier with misrecorded := if bandOp b ≠ 2 ∨ b.armed = false then s.tier.misrecorded else if bad then (a, n) :: l else l } }

/-- The band in progress ends with a record: heads that wrote go back to reading, the write gates are off, what waited for
the end of the band takes effect. A band that fell short reports what ended its sectors (R224, R251). -/
def bandEnd (a : Nat) (rc : List Byte) (s : State) : State :=
  match bandOf s a with
  | none => s
  | some b =>
    let rc := if b.code ≠ 0 ∧ leAt rc 0 2 = 0x0326 then leBytes 2 b.code ++ rc.drop 2 else rc
    let s1 := s |> gatesOffAct a |> (if bandOp b = 2 ∧ b.armed then fun s => (maskList b.mask).foldl (fun s i => writeDone (36 * a + i) s) s else fun s => s)
      |> updFs a (fun x => { x with band := none }) |> bandDensity a b |> count (R.FS_BANDS_LO a) 1
      |> (if getF s (F.FS_STATE a) = 2 then setF (F.FS_STATE a) 1 else fun s => s)
      |> descDone a b.desc (bandOp b) (b.left ++ b.failed) rc
    zoneInstall a (if s1.pwr.target = some 5 ∨ s1.pwr.target = some 1 then unloadHeads a s1 else s1)

/-- The band in progress ends at once with a code. -/
def haltBand (a st : Nat) (s : State) : State :=
  match bandOf s a with
  | some b => s |> stopAct a |> bandEnd a (hwRec s a st b)
  | none => s

/-! ### Machine checks (R260 to R262) -/

/-- Every queued descriptor completes with a code, without a record of its own (R262, R265). -/
def flushBands (a st : Nat) (s : State) : State :=
  (fsOf s a).queue.foldl (fun s d => descDone a d 0 [] (bandRec st 0 0 0 0) s) (updFs a (fun x => { x with queue := [] }) s)

/-- Host bands that wait, and reads that wait on a band, end with a code; what racking waits for stays (R22, R82, R95). -/
def diskFail (a st : Nat) (s : State) : State :=
  let host (d : BandDesc) : Bool := decide (d.q ≠ 256 ∧ d.q ≠ 259)
  ((fsOf s a).queue.filter host).foldl (fun s d => descDone a d 0 [] (bandRec st 0 0 0 0) s)
    (updFs a (fun x => { x with queue := x.queue.filter (fun d => !host d) }) s)

/-- A machine check at address `pc`, at a word (R261); the third within 3600 s leaves the sequencer stuck (R262). -/
def machineCheck (a pc w synd cause : Nat) (s : State) : State :=
  let ms := s.now.toNat :: (fsOf s a).mchks.filter (fun t => s.now.toNat - t < 3600000000000)
  let stuck := decide (3 ≤ ms.length)
  let rc := match bandOf s a with
    | some b => hwRec s a 0x0321 b
    | none => []
  s |> traceWord a pc w 0 false true
    |> updFs a (fun x => { x with word := none, mchks := ms })
    |> setF (F.FS_STATE a) 3 |> setF (F.FS_PC a) pc |> stopAct a |> setF (F.FS_TRC_FROZEN a) 1
    |> setF (F.FS_MCHK_VALID a) 1 |> setF (F.FS_MCHK_PC a) pc |> setF (F.FS_MCHK_SYND a) synd |> setF (F.FS_MCHK_CAUSE a) cause
    |> wr (R.FS_MCHK_TIME a) (BitVec.ofNat 32 s.now.toNat) |> raise 6 0x0321 2 a cause
    |> bandEnd a rc
    |> (if stuck then fun s => s |> setF (F.FS_MCHK_STUCK a) 1 |> flushBands a 0x0321 else fun s => s)

/-- What forbids to execute a word: its cause and syndrome, if any. Parity comes first. -/
def wordCheck (s : State) (a pc w : Nat) : Option (Nat × Nat) :=
  if syndromeOf w ≠ 0 then some (if pc < 0x1000 then 1 else 2, syndromeOf w)
  else if 0x0C < wAct w then some (5, 0)
  else if 9 ≤ wCcls w then some (6, 0)
  else if wNam w = 4 ∧ 8 ≤ (fsOf s a).stack.length then some (3, 0)
  else if wNam w = 5 ∧ (fsOf s a).stack = [] then some (4, 0)
  else none

/-- Fetch the word at an address, through the traps; `upset` are the bits that an upset has flipped. -/
def fsFetch (a pc : Nat) (upset : BitVec 104) (s : State) : State :=
  let p := trapped s a pc
  let w := Nat.xor (csWord s a p) upset.toNat
  match wordCheck s a p w with
  | some c => machineCheck a p w c.2 c.1 s
  | none => s |> setF (F.FS_PC a) p |> updFs a (fun x => { x with word := some (w % 2 ^ 96), acted := false })

/-- Restart a sequencer at ROM address 0. -/
def fsStart (a : Nat) (s : State) : State :=
  s |> setF (F.FS_STATE a) 1 |> updFs a (fun x => { x with stack := [], timeout := false, haltReq := false }) |> fsFetch a 0 0

/-- The sequencer stops. -/
def fsStop (a : Nat) (s : State) : State := s |> setF (F.FS_STATE a) 0 |> updFs a (fun x => { x with word := none, haltReq := false })

/-- The sequencer runs. -/
def fsRuns (s : State) (a : Nat) : Bool := domOn s (2 + a) && decide (getF s (F.FS_STATE a) = 1 ∨ getF s (F.FS_STATE a) = 2)

/-! ### The patch load (R263 to R265) -/

/-- The words of a payload from offset `o` on, with generated parity, from control store address `n` on. -/
def patchWords (l : List Byte) : Nat → Nat → Nat → List (Nat × Nat)
  | 0, _, _ => []
  | k + 1, o, n => let d := leAt l o 12; (n, d + parityOf d * 2 ^ 96) :: patchWords l k (o + 12) (n + 1)

/-- A payload keeps R263. -/
def patchFormOk (l : List Byte) : Bool :=
  let words := leAt l 4 2
  let traps := leAt l 6 2
  decide (leAt l 0 4 = 0x31534656 ∧ words ≤ 4096 ∧ traps ≤ 64 ∧ l.length = 64 + 4 * traps + 12 * words)
    && zeros l 8 56 && (List.range traps).all (fun i => decide (0x1000 ≤ bitsAt (leAt l (0x40 + 4 * i) 4) 16 13))

/-- The patch of a TARGET in the booted control bundle, unwrapped and verified: none without one, else its payload or the
failure. -/
def patchFor (s : State) (target : Nat) : Option (Option (List Byte)) :=
  match (patchesOf (slotBytes s 2 s.boot.ctlRun)).find? (fun i => imgTarget i.1 = target) with
  | none => none
  | some i => some (if (imageCheck 3 (svnMin s 2) i).isNone then Config.unwrapPayload i.1 i.2 else none)

/-- A load that fails is repeated once (R131). -/
def patchLoad (s : State) (target : Nat) : Option (Option (List Byte)) :=
  match patchFor s target with
  | some none => patchFor s target
  | r => r

/-- The load of a sequencer at a power-up of its domain, and after a machine check (R262, R264, R265): the RAM, the traps,
the lock, and the start. -/
def fsLoad (a : Nat) (s : State) : State :=
  let base := s |> updFs a (fun x => { x with ram := [], loadFailed := false }) |> setF (F.FS_PATCHED a) 0
    |> (fun s => (List.range 64).foldl (fun s n => wr (R.FS_TRAP a n) 0 s) s)
  match patchLoad s 1 with
  | none => base |> setF (F.FS_CS_LOCK a) 1 |> fsStart a
  | some none => base |> updFs a (fun x => { x with loadFailed := true, word := none }) |> setF (F.FS_STATE a) 0 |> raise 6 0x0328 2 a 0
      |> flushBands a 0x0328
  | some (some l) =>
    if !patchFormOk l then
      base |> updFs a (fun x => { x with loadFailed := true, word := none }) |> setF (F.FS_STATE a) 0 |> raise 6 0x0328 2 a 0 |> flushBands a 0x0328
    else
      let words := leAt l 4 2
      let traps := leAt l 6 2
      let s1 := updFs a (fun x => { x with ram := patchWords l words (0x40 + 4 * traps) 0x1000 }) base
      let s2 := (List.range traps).foldl (fun s n => wr (R.FS_TRAP a n) (BitVec.ofNat 32 (leAt l (0x40 + 4 * n) 4) &&& 0x9FFF0FFF) s) s1
      s2 |> setF (F.FS_CS_LOCK a) 1 |> setF (F.FS_PATCHED a) 1 |> fsStart a

/-- FS_MCHK_RELOAD_DONE (R262). -/
def execFsMchkReloadDone (a : Fin 4) (s : State) : Out :=
  if domOn s (2 + a.val) && decide (getF s (F.FS_STATE a.val) = 3) && !isSet s (F.FS_MCHK_STUCK a.val) then .next (fsLoad a.val s) else .next s

/-! ### Conditions (R257) -/

/-- Units in the Cellar ring. -/
def ringUsed (s : State) (a : Nat) : Nat := (rdN s (R.FS_RING_FILL a) + 2 ^ 32 - rdN s (R.FS_RING_FREE a)) % 2 ^ 32

/-- RING_READY: a write has at least one unit for each head in the ring, a read has room for them. The device feeds its own
runs itself. -/
def ringReady (s : State) (a : Nat) : Bool :=
  match bandOf s a with
  | none => false
  | some b =>
    let n := (maskList b.mask).length
    if 256 ≤ b.desc.q then true
    else if bandOp b = 2 then decide (n ≤ ringUsed s a) else decide (ringUsed s a + n ≤ bdUnits b)

/-- Every armed sector is written, delivered or failed. -/
def allDone (s : State) (a : Nat) : Bool :=
  match bandOf s a with
  | none => true
  | some b => b.armed && (if bandOp b = 2 then decide (sectorsOf s a (bdBand b) ≤ b.slot) else b.left.isEmpty)

/-- Bits of a condition group; `rev` says that wedge 0 of the reference head passes. -/
def condBits (s : State) (a g : Nat) (rev tmo : Bool) : List Bool :=
  let x := fsOf s a
  let hs := (match x.band with
    | some b => maskList b.mask
    | none => []).map (fun i => 36 * a + i)
  match g with
  | 0 => [x.z, x.n, x.c, x.v]
  | 1 => [allDone s a, x.band.any (fun b => decide (b.stopped ≠ 0)), decide ((tok s a).state = .releasing),
      x.band.any (fun b => decide (b.desc.q < 256) && (cmdOf s b.desc.cookie).any (fun c => c.abort))]
  | 2 => [x.bqEmpty, ringReady s a, x.band.any (fun b => decide (bdUnits b ≤ ringUsed s a)), isSet s (F.FS_BQ_HOLD a)]
  | 3 => [isSet s (F.CLK_LOCKED (5 + a)), x.paErr, hs.all (fun h => (headOf s h).htrSettled),
      x.band.any (fun b => decide (x.zone ≠ some (zoneOf s a (bdBand b))))]
  | 4 => [rev, settled s a, hs.any (fun h => decide (0 < (headOf s h).missRun)), tmo]
  | 5 => [x.band.any (fun b => decide (0 < b.unrecov)), hs.any (fun h => !(headOf s h).ladder.isEmpty),
      decide (busyLevel s < s.pool.queue.length), hs.any (fun h => isSet s (F.FS_SRV_LOST a (h % 36)))]
  | _ => [false, false, false, false]

/-- The bits of a list that a mask selects, packed in ascending order. -/
def packBits : Nat → List Bool → List Bool
  | _, [] => []
  | m, b :: r => if m % 2 = 1 then b :: packBits (m / 2) r else packBits (m / 2) r

/-! ### Completing a word (R256, R258) -/

/-- The next address of a word, with what it does to the stack and to a loop count. -/
def nextAddr (a pc w : Nat) (cond : List Bool) (s : State) : Nat × State :=
  let seq := (pc + 1) % 2 ^ 13
  let na := wNa w
  match wNam w with
  | 0 => (seq, s)
  | 1 => (na, s)
  | 2 => (if (packBits (wCmask w) cond).any (fun b => b) then na else seq, s)
  | 3 =>
    let p := packBits (wCmask w) cond
    (na / 2 ^ p.length * 2 ^ p.length + ofBits p, s)
  | 4 => (na, updFs a (fun x => { x with stack := seq :: x.stack }) s)
  | 5 => ((fsOf s a).stack.headD 0, updFs a (fun x => { x with stack := x.stack.tail }) s)
  | 6 => (na / 256 * 256 + (gr s a (wRa w)).toNat % 256, s)
  | _ =>
    let v := gr s a (wRd w) - 1
    (if v ≠ 0 then na else seq, grPut a (wRd w) v s)

/-- A word completes: conditions are sampled, the trace takes it, the next word is fetched, unless a halt is due. -/
def wordEnd (a w : Nat) (rev tmo : Bool) (upset : BitVec 104) (s : State) : State :=
  let pc := getF s (F.FS_PC a)
  let cond := condBits s a (wCsel w) rev (tmo || (fsOf s a).timeout)
  let s1 := s |> traceWord a pc w (ofBits cond) tmo false |> (if bitAt w 13 then setF (F.FS_TRC_FROZEN a) 1 else fun s => s)
  let n := nextAddr a pc w cond s1
  let s2 := updFs a (fun x => { x with timeout := tmo, traceEvent := x.traceEvent || bitAt w 14 }) n.2
  if (fsOf s2 a).haltReq ∧ (bandOf s2 a).isNone = true then fsStop a s2 else fsFetch a n.1 upset s2

/-- Every preamplifier that a word's mask names has replied. -/
def paIdle (s : State) (a m : Nat) : Bool :=
  (List.range 4).all (fun j => !bitAt m (4 * a + j) || ((paOf s (4 * a + j)).tx.isNone && (paOf s (4 * a + j)).queue.isEmpty))

/-- A word's completion class is met (R258). -/
def classMet (s : State) (a w : Nat) (rev wedge sector : Bool) : Bool :=
  match wCcls w with
  | 2 => paIdle s a (gr s a (wRb w)).toNat
  | 3 => wedge
  | 4 => sector
  | 5 => rev
  | 6 => settled s a
  | 7 => ringReady s a
  | 8 => allDone s a
  | _ => true

/-- The starts of the sectors of a zone in the zone memory (R247). -/
def zoneStarts (s : State) (a z : Nat) : List Nat :=
  (zoneWalk (zHdr s a z 0x10 4) (zHdr s a z 0x0E 2) (zHdr s a z 0x14 4) (zHdr s a z 0x0C 2) ((s.desc.map (fun d => d.wedges)).getD 0)).getD []

/-- The unit of the present slot for surface `i` of a band write (R248): from the Cellar ring, or of the device's own band from the run's
data stream, whose last head carries parity where the run has it (R419). -/
def slotUnit (s : State) (a : Nat) (b : Band) (i : Nat) : List Byte :=
  let n := (maskList b.mask).length
  let r := rankOf b.mask i
  if b.desc.q < 256 then memRead s (space 3 (bdAddr b + (b.slot * n + r) % max 1 (bdUnits b) * 32768)) 32768
  else
    let w := if (s.tier.runs.find? (fun x => x.act = a ∧ x.band = bdBand b)).any (fun x => bitAt x.flags 0) then n - 1 else n
    let buf := ((moveOf s b.desc.cookie).map (fun m => m.buf)).getD []
    let unit (q : Nat) : List Byte := padTo 32768 (slice buf ((b.slot * w + q) * 32768) 32768)
    if r < w then unit r else (List.range w).foldl (fun l q => xorBytes l (unit q)) (List.replicate 32768 0)

/-- A head writes its sector of the present slot (R196 to R202, R218): scrambled, encoded, interleaved, with marks and split fields, and
the transitions that follow another one bit earlier moved. -/
def headWrite (a : Nat) (b : Band) (s : State) (i : Nat) : State :=
  let h := 36 * a + i
  let z := zoneOf s a (bdBand b)
  let k := (b.k0 + b.slot) % sectorsOf s a (bdBand b)
  let sid := sidOf h (trackOf s a (bdBand b) i) k (bdTag b)
  let cut := sectorCut (max 1 (zHdr s a z 0x10 4)) (zHdr s a z 0x0E 2) ((s.desc.map (fun d => d.wedges)).getD 0) ((zoneStarts s a z).getD k 0)
  let bits := sectorBits sid (slotUnit s a b i) cut
  send (.writeData h sid bits (closeTransitions bits.flatten) (2 * getF s (F.HC_WR_PRECOMP h))) s

/-- Slot `i` of a band write passes under the heads: a head whose unit is not in the ring stops, and FS_RING_FREE follows
(R250). -/
def slotPass (a : Nat) (s : State) : State :=
  match bandOf s a with
  | none => s
  | some b =>
    if bandOp b ≠ 2 ∨ b.gated = false ∨ sectorsOf s a (bdBand b) ≤ b.slot then s
    else
      let hs := maskList b.mask
      let n := hs.length
      let late := if 256 ≤ b.desc.q then [] else
        hs.filter (fun i => !bitAt b.stopped i && decide (rdN s (R.FS_RING_FILL a) ≤ b.slot * n + rankOf b.mask i))
      let s1 := late.foldl (fun s i => { s with pins := { s.pins with hpWr := setAt s.pins.hpWr (36 * a + i) false } }
        |> updBand a (fun b => { b with stopped := b.stopped + 2 ^ i }) |> raise 6 0x0324 2 a 0) s
      let ws := hs.filter (fun i => writing s1 (36 * a + i))
      ws.foldl (headWrite a b) s1 |> updBand a (fun b => { b with slot := b.slot + 1 }) |> health 11 (ws.length * 32768) |> wr (R.FS_RING_FREE a) (BitVec.ofNat 32 ((b.slot + 1) * n))

/-- `n` slots pass. -/
def slotsPass (a : Nat) : Nat → State → State
  | 0, s => s
  | n + 1, s => slotsPass a n (slotPass a s)

/-- A revolution of an armed band counts. -/
def revPass (a : Nat) (rev : Bool) (s : State) : State :=
  if rev then updBand a (fun b => { b with revs := if b.armed then b.revs + 1 else b.revs }) s else s

/-- FS_WORD_COMPLETE (R258): what passes at the reference head, and the slots that have passed since the word before. -/
def execFsWordComplete (a : Fin 4) (rev wedge sector : Bool) (slots : Nat) (upset : BitVec 104) (s : State) : Out :=
  if !fsRuns s a.val then .next s
  else
    let s1 := s |> slotsPass a.val (min slots 1024) |> revPass a.val rev
    match (fsOf s1 a.val).word with
    | none => .next s1
    | some w =>
      if (fsOf s1 a.val).acted && classMet s1 a.val w rev wedge sector then .next (wordEnd a.val w rev false upset s1) else .next s1

/-- FS_WORD_TIMEOUT (R258): classes 3 to 8 with a TMO. -/
def execFsWordTimeout (a : Fin 4) (rev : Bool) (upset : BitVec 104) (s : State) : Out :=
  match (fsOf s a.val).word with
  | none => .next s
  | some w =>
    if fsRuns s a.val && (fsOf s a.val).acted && decide (3 ≤ wCcls w ∧ wCcls w ≤ 8 ∧ wTmo w ≠ 0) then
      .next (wordEnd a.val w rev true upset s)
    else .next s

/-! ### Actions (R254) -/

/-- Run the action of the present word, once. -/
def fsAct (a code : Nat) (f : Nat → State → State) (s : State) : State :=
  match (fsOf s a).word with
  | none => s
  | some w =>
    if fsRuns s a && !(fsOf s a).acted && decide (wAct w = code) then f w (updFs a (fun x => { x with acted := true }) s) else s

/-- FS_ACT_NOP. -/
def execFsActNop (a : Fin 4) (s : State) : Out := .next (fsAct a.val 0 (fun _ s => s) s)

/-- An ALU operation: the result, and where the spec states them carry and overflow. A shift by 32 or more has no stated
result. -/
def aluOp (op : Nat) (x y : Word) : Option Word × Option Bool × Option Bool :=
  match op with
  | 0 => (some (x + y), some (decide (2 ^ 32 ≤ x.toNat + y.toNat)), some (decide ((x + y).toInt ≠ x.toInt + y.toInt)))
  | 1 => (some (x - y), none, some (decide ((x - y).toInt ≠ x.toInt - y.toInt)))
  | 2 => (some (x &&& y), none, none)
  | 3 => (some (x ||| y), none, none)
  | 4 => (some (x ^^^ y), none, none)
  | 5 => (if y.toNat < 32 then some (x <<< y.toNat) else none, none, none)
  | 6 => (if y.toNat < 32 then some (x >>> y.toNat) else none, none, none)
  | _ => (some y, none, none)

/-- Store an ALU result with its flags; what has no stated value is free. -/
def aluPut (a rd : Nat) (r : Option Word × Option Bool × Option Bool) (s : State) : State :=
  let f := takeFree s
  let v := r.1.getD (BitVec.ofNat 32 f.1.toNat)
  f.2 |> grPut a rd v |> updFs a (fun x => { x with
    z := decide (v = 0), n := v.msb, c := r.2.1.getD (f.1.getLsbD 32), v := r.2.2.getD (f.1.getLsbD 33) })

/-- FS_ACT_ALU. -/
def execFsActAlu (a : Fin 4) (s : State) : Out :=
  .next (fsAct a.val 1 (fun w s => aluPut a.val (wRd w) (aluOp (wAlu w) (gr s a.val (wRa w)) (gr s a.val (wRb w))) s) s)

/-- FS_ACT_ALUI. -/
def execFsActAlui (a : Fin 4) (s : State) : Out :=
  .next (fsAct a.val 2 (fun w s => aluPut a.val (wRd w) (aluOp (wAlu w) (gr s a.val (wRa w)) (BitVec.ofNat 32 (wImm w))) s) s)

/-- The address of RDREG and WRREG. -/
def regAddr (s : State) (a w : Nat) : Nat := ((gr s a (wRa w)).toNat + 4 * wImm w) % 2 ^ 32

/-- A mask of surfaces in a register and the low bits of the next one. -/
def grMask (s : State) (a i : Nat) : Nat := (gr s a i).toNat + (gr s a (i + 1)).toNat % 16 * 2 ^ 32

/-- Load the zone-loaded fields of a head from its record (R243), and send its preamplifier the read bias and the read power (R190, R216). -/
def zoneHead (a z i : Nat) (s : State) : State :=
  let h := 36 * a + i
  let im (k : Nat) : Nat := zm s a (0x440 + 1296 * z + 36 * i + 4 * k) 4
  let fld (f : Fld) (k : Nat) (s : State) : State := setF f (bitsAt (im k) f.lo f.width) s
  s |> fld (F.HC_RD_BIAS h) 0 |> fld (F.HC_CTF_FC h) 0 |> fld (F.HC_CTF_BOOST h) 1 |> fld (F.HC_AGC_INIT h) 1 |> fld (F.HC_TR_FOFS h) 2
    |> fld (F.HC_EQ_FAMILY h) 3 |> fld (F.HC_EQ_G1 h) 3 |> fld (F.HC_EQ_G2 h) 3 |> fld (F.HC_EQ_G3 h) 3
    |> wr (R.HC_EQ_TAPS_A h) (BitVec.ofNat 32 (im 4)) |> wr (R.HC_EQ_TAPS_B h) (BitVec.ofNat 32 (im 5))
    |> wr (R.HC_EQ_TAPS_C h) (BitVec.ofNat 32 (im 6)) |> fld (F.HC_HTR_READ h) 7 |> fld (F.HC_HTR_WRITE h) 7
    |> fld (F.HC_WR_CUR h) 8 |> fld (F.HC_WR_OS_AMP h) 8 |> fld (F.HC_WR_OS_DUR h) 8 |> fld (F.HC_WR_PRECOMP h) 8
    |> setF (F.HC_ZONE_NOW h) z
    |> (if (paOf s (headPa h)).driving then fun s => s |> paSend (headPa h) (paCmd false 3 (headPort h) (getF s (F.HC_RD_BIAS h))) false
          |> heater h (getF s (F.HC_HTR_READ h)) else fun s => s)

/-- FS_ACT_ZLOAD (R243). -/
def execFsActZload (a : Fin 4) (s : State) : Out :=
  .next (fsAct a.val 5 (fun w s =>
    let z := (gr s a.val (wRa w)).toNat % 24
    let hs := (surfaces s a.val).filter (fun i => bitAt (grMask s a.val (wRb w)) i)
    (hs.foldl (fun s i => zoneHead a.val z i s) s) |> pllStore (5 + a.val) (BitVec.ofNat 32 (zHdr s a.val z 8 4))
      |> updFs a.val (fun x => { x with zone := some z })) s)

/-- FS_ACT_PACMD: bit `p` of the mask names preamplifier `p`; those of other actuators are out of reach. -/
def execFsActPacmd (a : Fin 4) (s : State) : Out :=
  .next (fsAct a.val 6 (fun w s =>
    let m := (gr s a.val (wRb w)).toNat
    (List.range 4).foldl (fun s j => if bitAt m (4 * a.val + j) then paSend (4 * a.val + j) (gr s a.val (wRa w)).toNat false s else s)
      (updFs a.val (fun x => { x with paErr := false }) s)) s)

/-- The bytes of eight registers. -/
def grBytes (s : State) (a i n : Nat) : List Byte := (List.range n).flatMap (fun k => leBytes 4 (gr s a (i + k)).toNat)

/-- The start sector of a write (R248): the first that starts at least 2 us after position `pos`, in channel bits from the
start of wedge 0's gated span; past the last one it is sector 0 of the next revolution. -/
def startSector (s : State) (a z pos : Nat) : Nat :=
  let from2us := pos + ceilDiv (zHdr s a z 4 4 * 2) 1000
  let l := zoneStarts s a z
  let k := (l.filter (fun u => decide (u < from2us))).length
  if k < l.length then k else 0

/-- The write mask of R248. -/
def writeMask (s : State) (a m : Nat) : Nat :=
  maskOf ((maskList m).filter (fun i => fitted s (36 * a + i) && isSet s (F.HC_EN (36 * a + i)) && isSet s (F.HC_ADMITTED (36 * a + i))
    && !isSet s (F.FS_SRV_LOST a i)))

/-- Arm a write. -/
def armWrite (a pos : Nat) (b : Band) (s : State) : State :=
  let m := writeMask s a b.reqMask
  let k := startSector s a (zoneOf s a (bdBand b)) pos
  let s1 := s |> updBand a (fun x => { x with mask := m, armed := true, gated := false, slot := 0, stopped := 0, k0 := k })
    |> setF (F.FS_REF_HEAD a) ((maskList m).headD 0)
  (maskList m).foldl (fun s i => writePrep (36 * a + i) s) s1

/-- Arm a read or a verify: every requested sector of every head is to be delivered. -/
def armRead (a : Nat) (b : Band) (s : State) : State :=
  let n := sectorsOf s a (bdBand b)
  let ks := (List.range (bdCount b)).map (fun j => (bdFirst b + j) % n)
  s |> updBand a (fun x => { x with armed := true, failed := [], left := (maskList b.mask).flatMap (fun i => ks.map (fun k => (i, k))) })
    |> setF (F.FS_REF_HEAD a) ((maskList b.mask).headD 0)

/-- FS_ACT_ARM (R248): the descriptor is the one in the registers. -/
def execFsActArm (a : Fin 4) (pos : Nat) (s : State) : Out :=
  .next (fsAct a.val 7 (fun w s =>
    let d := grBytes s a.val (wRa w) 8
    let s1 := updBand a.val (fun b => { b with desc := { b.desc with bytes := d } }) s
    match bandOf s1 a.val with
    | none => s1
    | some b => if bandOp b = 2 then armWrite a.val pos b s1 else armRead a.val b s1) s)

/-- FS_ACT_GATE (R218 step 5): the gates of the armed heads' preamplifiers that this device drives go on once every value has been read back (R187), on an actuator whose token it
holds (R59) while neither VMOT nor the write clock's reference keeps them off (R82, R123); a condition of R219 that holds stops what it
stops. -/
def execFsActGate (a : Fin 4) (s : State) : Out :=
  .next (fsAct a.val 8 (fun _ s =>
    match bandOf s a.val with
    | none => s
    | some b =>
      if b.armed = false ∨ bandOp b ≠ 2 ∨ owns s a.val = false ∨ s.pwr.diskWait ∨ s.pwr.startPermitted = false ∨ heldSafe s (5 + a.val) then s
      else
        let hs := (maskList b.mask).map (fun i => 36 * a.val + i)
        let s1 := { s with pins := { s.pins with hpWr := s.pins.hpWr.mapIdx (fun h v => v || hs.contains h) } }
          |> updBand a.val (fun b => { b with gated := true })
        hs.foldl (fun s h => unsafeAct h s) s1 |> gateOpen a.val) s)

/-- FS_ACT_POST (R251): the record in the registers. -/
def execFsActPost (a : Fin 4) (s : State) : Out :=
  .next (fsAct a.val 9 (fun w s => bandEnd a.val (grBytes s a.val (wRa w) 4) s) s)

/-- The rules of R249 for a descriptor, and what its band needs: a code that it completes with at once. -/
def descCheck (s : State) (a : Nat) (l : List Byte) : Option Nat :=
  let op := leAt l 0 1
  let mask := leAt l 8 8
  let n := sectorsOf s a (leAt l 4 4)
  let m := if op = 2 then writeMask s a mask else mask
  if !owns s a then some 0x0A11
  else if !isSet s (F.FS_ZT_VALID a) then some 0x0322
  else if op < 1 ∨ 3 < op ∨ 2 ≤ leAt l 1 1 ∨ zBands s a ≤ leAt l 4 4 ∨ 2 ^ 36 ≤ mask
      ∨ (op = 2 ∧ (leAt l 0x10 2 ≠ 0 ∨ leAt l 0x12 2 ≠ 0)) ∨ (op ≠ 2 ∧ (n ≤ leAt l 0x10 2 ∨ leAt l 0x12 2 = 0 ∨ n < leAt l 0x12 2))
      ∨ leAt l 0x14 4 < 2 * (maskList m).length ∨ leAt l 0x18 8 % 32768 ≠ 0 then some 0x0325
  else none

/-- Disk bands are admitted (R91, R92, R94, R96): none in Fallow or on the way to it, reads from step 10 of Bring-up, writes
from step 12 and after the calibration that a wake needs. -/
def diskAdmits (s : State) (wr : Bool) : Bool :=
  decide (mode s ≠ 5 ∧ s.pwr.target ≠ some 5) && (!s.bring.active || (if wr then s.bring.fullCal else s.bring.coarse))
    && !(wr && s.pwr.wakeFullCal)

/-- The actuator's coil is about to change, or changes (R289): the band in progress is its last here. -/
def coilMoves (s : State) (a : Nat) : Bool :=
  (s.pair.blends.getD a none).isSome || (s.pair.give.contains a && s.pair.give.head?.any (fun t => decide (t < 4)))

/-- A band waits until the mode admits it, and while VMOT has stopped the disk (R82); a write waits for the governor to admit all heads of
the actuator (R81), and every band for the claim of its preamplifiers (R188); a failed preamplifier's heads are not waited for. -/
def bandWaits (s : State) (a : Nat) (l : List Byte) : Bool :=
  !diskAdmits s (decide (leAt l 0 1 = 2)) || coilMoves s a || s.pwr.diskWait || !paClear s a || decide (leAt l 0 1 = 2) && owns s a && (List.range 36).any (fun i =>
    let h := 36 * a + i
    fitted s h && !isSet s (F.HC_ADMITTED h) && !isSet s (F.HC_PA_FAILED (headPa h)))

/-- Take the next descriptor: those that cannot run complete; the first that can becomes the band in progress. -/
def takeDesc (a rd : Nat) : Nat → State → State
  | 0, s => updFs a (fun x => { x with bqEmpty := true }) s
  | n + 1, s =>
    match (fsOf s a).queue with
    | [] => updFs a (fun x => { x with bqEmpty := true }) s
    | d :: r =>
      match descCheck s a d.bytes with
      | some e => takeDesc a rd n (s |> updFs a (fun x => { x with queue := r }) |> count (R.FS_BANDS_LO a) 1
          |> descDone a d (leAt d.bytes 0 1) [] (bandRec e 0 0 0 0))
      | none =>
        if bandWaits s a d.bytes then updFs a (fun x => { x with bqEmpty := true }) s
        else
          let m := maskOf (maskList (leAt d.bytes 8 8 % 2 ^ 36))
          let b : Band := { desc := d, reqMask := m, mask := m, stopped := 0, k0 := 0, revs := 0, unrecov := 0, armed := false,
                            gated := false, slot := 0, left := [], failed := [], code := 0 }
          let s1 := s |> updFs a (fun x => { x with queue := r, bqEmpty := false, band := some b }) |> setF (F.FS_STATE a) 2
            |> setF (F.FS_ZONE a) (zoneOf s a (leAt d.bytes 4 4)) |> setF (F.FS_REF_HEAD a) ((maskList m).headD 0)
            |> wr (R.FS_RING_FILL a) 0 |> wr (R.FS_RING_FREE a) 0
          (List.range 8).foldl (fun s k => grPut a (rd + k) (BitVec.ofNat 32 (leAt d.bytes (4 * k) 4)) s) s1

/-- FS_ACT_FETCH (R249, R254): no descriptor is taken under FS_BQ_HOLD, nor while a band is in progress. -/
def execFsActFetch (a : Fin 4) (s : State) : Out :=
  .next (fsAct a.val 10 (fun w s =>
    if isSet s (F.FS_BQ_HOLD a.val) ∨ (bandOf s a.val).isSome = true then updFs a.val (fun x => { x with bqEmpty := true }) s
    else takeDesc a.val (wRd w) (fsOf s a.val).queue.length s) s)

/-- Where the VCM target stands, in 1/1024 band: on the trajectory of a seek, else at the present band. -/
def seekFrom (s : State) (a : Nat) : Int :=
  if getF s (F.VCM_STATE a) = 2 then (getF s (F.VCM_TARGET a) * 1024 : Nat) + seekLag s a else (getF s (F.VCM_BAND a) * 1024 : Nat)

/-- FS_ACT_SEEK (R293): the target band, the trajectory to it, and every head's target track (R238). -/
def execFsActSeek (a : Fin 4) (s : State) : Out :=
  .next (fsAct a.val 11 (fun w s =>
    let b : Nat := (gr s a.val (wRa w)).toNat % 2 ^ 24
    if !owns s a.val || !headsLoaded s a.val then s
    else
      let s1 := s |> setF (F.VCM_TARGET a.val) b |> setF (F.VCM_STATE a.val) 2
        |> updVcm a.val (fun x => { x with seekDir := ((b : Int) - getF s (F.VCM_BAND a.val)).sign, seek := some (seekFrom s a.val, s.now.toNat) })
      (List.range 36).foldl (fun s i => updHead (36 * a.val + i) (fun x =>
        { x with target := (b : Int) + zOfs s a.val i, settleRun := 0 }) s) s1) s)

/-- FS_ACT_HALT. -/
def execFsActHalt (a : Fin 4) (s : State) : Out := .next (fsAct a.val 12 (fun _ s => fsStop a.val s) s)

/-! ### Control writes -/

/-- Restart a halted sequencer. -/
def fsResume (a : Nat) (s : State) : State :=
  if isSet s (F.FS_MCHK_STUCK a) || (fsOf s a).loadFailed || fsRuns s a then s else fsStart a s

/-- Halt after the band in progress. -/
def fsHalt (a : Nat) (s : State) : State :=
  if !fsRuns s a then s
  else if (bandOf s a).isSome then updFs a (fun x => { x with haltReq := true }) s
  else fsStop a s

/-- FS_RESUME (R262). -/
def execFsResume (p : Path) (a : Fin 4) (s : State) : Out :=
  .next (busAct p (R.FS_CTL a.val) (BitVec.ofNat 32 (4 + getF s (F.FS_BQ_HOLD a.val))) (acc (fsResume a.val)) s)

/-- FS_HALT (R254). -/
def execFsHalt (p : Path) (a : Fin 4) (s : State) : Out :=
  .next (busAct p (R.FS_CTL a.val) (BitVec.ofNat 32 (2 + getF s (F.FS_BQ_HOLD a.val))) (acc (fsHalt a.val)) s)

/-- Freeze or resume the trace. -/
def trcFreeze (a : Nat) (b : Bool) (s : State) : State := s |> setB (F.FS_TRC_FREEZE a) b |> setB (F.FS_TRC_FROZEN a) b

/-- FS_TRC_FREEZE_WRITE (R266). -/
def execFsTrcFreezeWrite (p : Path) (a : Fin 4) (freeze : Bool) (s : State) : Out :=
  .next (busAct p (R.FS_TRC_CTL a.val) (BitVec.ofNat 32 (b2n freeze * 4 + rdN s (R.FS_TRC_CTL a.val) % 4)) (acc (trcFreeze a.val freeze)) s)

/-- A read of FS_TRC_DATA_LO (R266): while frozen the entry at FS_TRC_RIDX, with the snapshot of the HI word. -/
def trcRead (p : Path) (a : Nat) (s : State) : State × Word :=
  if !isSet s (F.FS_TRC_FROZEN a) then
    let f := takeFree s
    (f.2, BitVec.ofNat 32 f.1.toNat)
  else
    let i := getF s (F.FS_TRC_RIDX a)
    let e := traceEntry a i s
    (e.2 |> wr (R.FS_TRC_DATA_HI a) (BitVec.ofNat 32 (e.1 / 2 ^ 32)) |> snapHi p (R.FS_TRC_DATA_HI a) (BitVec.ofNat 32 (e.1 / 2 ^ 32))
      |> setF (F.FS_TRC_RIDX a) ((i + 1) % 1024), BitVec.ofNat 32 e.1)

/-- FS_TRC_DATA_READ (R266). -/
def execFsTrcDataRead (p : Path) (a : Fin 4) (s : State) : Out :=
  .next (busGet p (R.FS_TRC_DATA_LO a.val) (trcRead p a.val) s)

/-! ### Commands (R267) -/

/-- FS_ZONE_LOAD: the image is checked first, then installed when the band in progress has ended. -/
def execFsZoneLoad (m : Fin 16) (s : State) : Out :=
  .next (mbxRow m.val 0x0308 anyParam (fun c s =>
    let a := par c 0 2
    if !owns s a then answer 0x0A11 s
    else
      let e := zoneCheck s a (padTo 32512 c.ext)
      if e ≠ 0 then answer e s
      else
        let s1 := s |> setF (F.FS_BQ_HOLD a) 1 |> updFs a (fun x => { x with zoneLoad := some (m.val, padTo 32512 c.ext) })
        if (bandOf s a).isSome then (s1, none)
        else (s1 |> updFs a (fun x => { x with zoneLoad := none }) |> memWrite (space 6 (a * 0x8000)) (padTo 32512 c.ext)
          |> setF (F.FS_ZT_VALID a) 0 |> zoneCommit a |> setF (F.FS_BQ_HOLD a) 0, some (resStatus 0))) s)

/-- Trace entries from an index on, 16 bytes each. -/
def traceBytes (a : Nat) : Nat → Nat → State → List Byte × State
  | 0, _, s => ([], s)
  | n + 1, i, s =>
    let e := traceEntry a (i % 1024) s
    let r := traceBytes a n (i + 1) e.2
    (leBytes 8 e.1 ++ leBytes 8 0 ++ r.1, r.2)

/-- FS_TRACE_READ. -/
def execFsTraceRead (m : Fin 16) (s : State) : Out :=
  .next (mbxRow m.val 0x0309 anyParam (fun c s =>
    let n := par c 26 6
    if n = 0 ∨ 62 < n then answer 0x0016 s
    else let r := traceBytes (par c 0 2) n (par c 16 10) s; answerData r.1 r.2) s)

/-- SRV_STATS. -/
def execSrvStats (m : Fin 16) (s : State) : Out :=
  .next (mbxRow m.val 0x030A anyParam (fun c s =>
    let h := par c 0 8
    if 144 ≤ h then answer 0x0016 s
    else answerData ((headOf s h).srv.flatMap (leBytes 8)) s) s)

end Sys2Proof.Machine
end

