-- ==== Sys2Proof/Machine/Trust.lean ====
section
/-! DEFINITION. The firmware commands (R143 to R146, R164) and the SPDM subset (R137 to R142, R169, R172). Message layouts
that the spec takes over from SPDM 1.2 are kept to their fields (log entry 48). -/

namespace Sys2Proof.Machine

/-! ### Staging -/

/-- The requester of a command (R144): its transport, and on PCIe or a fabric its controller or mailbox. -/
def requesterOf (s : State) (m : Nat) : Nat × Nat :=
  match (mbxAt s m).holder with
  | some c => (mbxTransport m, 16 + c)
  | none => (mbxTransport m, if mbxTransport m = 2 then m else 0)

/-- The staging of a kind. -/
def stagingOf (s : State) (k : Nat) : Option Staging := s.boot.staging.find? (fun x => x.kind = k)

/-- Replace or end the staging of a kind. -/
def setStaging (k : Nat) (x : Option Staging) (s : State) : State :=
  { s with boot := { s.boot with staging := x.toList ++ s.boot.staging.filter (fun y => y.kind ≠ k) } }

/-- A slot of the kind has been booted: chosen and verified in this boot. -/
def booted (s : State) (k : Nat) : Bool :=
  decide ((if k = 1 then 3 else 6) ≤ getF s F.SUP_BOOT_STAGE) && (decide (k ≠ 1) || !isSet s F.SUP_BOOT_RECOVERY)

/-- The slot that a staging fills: the one not booted now (R144). Where no image of the kind is booted, it is the one that is not
active (DESIGN CHOICE, log entry 99). -/
def inactive (s : State) (k : Nat) : Nat := 1 - (if booted s k then bootedSlot s k else (slotsOf s k).active)

/-- A staging ends and its slot is invalid. -/
def stageFail (k : Nat) (s : State) : State :=
  s |> setStaging k none |> setSlot k (inactive s k) ⟨slotBytes s k (inactive s k), false⟩

/-- The ROM restarts the device after a stage in recovery (R132). -/
def romRestart (s : State) : State := { s with boot := { s.boot with restart := true } }

/-- The last chunk has arrived: verification (R129), then the accepted list (R144). -/
def stageEnd (k : Nat) (b : List Byte) (s : State) : State × Option MbxResult :=
  match slotCheck s k b with
  | some e => answer e (stageFail k s)
  | none =>
    let s1 := s |> setStaging k none |> setSlot k (inactive s k) ⟨b, true⟩
    answerData (fwMeasure b) (if isSet s F.SUP_BOOT_RECOVERY then romRestart s1 else s1)

/-- A chunk from the owner, or one that starts a staging. -/
def stageChunk (k : Nat) (owner : Nat × Nat) (first last : Bool) (off : Nat) (d : List Byte) (s : State) : State × Option MbxResult :=
  let have_ := (stagingOf s k).elim 0 (fun x => x.bytes.length)
  let old := if first then [] else (stagingOf s k).elim [] (fun x => x.bytes)
  if (first ∧ off ≠ 0) ∨ (!first ∧ ((stagingOf s k).isNone = true ∨ off ≠ have_)) then answer 0x001C (stageFail k s)
  else if 16777216 < off + d.length then answer 0x0011 (stageFail k s)
  else
    let b := old ++ d
    let s1 := (if first then setSlot k (inactive s k) ⟨[], false⟩ s else s) |> setStaging k (some ⟨k, owner, b⟩)
    if last then stageEnd k b s1 else answer 0 s1

/-- FW_STAGE's row (R144, R164): a chunk whose data came only in part does not end the staging (R156). -/
def fwStageRow (m : Fin 16) (s : State) : State :=
  mbxRow m.val 0x0200 anyParam (fun c s =>
    let k := par c 0 8
    let o := requesterOf s m.val
    if k ≠ 1 ∧ k ≠ 2 then answer 0x0016 s
    else if isSet s F.SUP_BOOT_RECOVERY = true ∧ k ≠ 1 then answer 0x0016 s
    else if isSet s F.SUP_BOOT_RECOVERY = true ∧ 4 < m.val then answer 0x0017 s
    else if s.boot.staging.any (fun x => decide (x.owner ≠ o)) then answer 0x0218 s
    else stageChunk k o (decide (par c 8 1 = 1)) (decide (par c 9 1 = 1) && (mbxAt s m.val).xferFail.isNone) (par c 32 32) (if dptr c then c.ext else c.data) s) s

/-- FW_STAGE_IDLE_TIMEOUT (R144). -/
def execFwStageIdleTimeout (k : Fin 2) (s : State) : Out :=
  if (stagingOf s (k.val + 1)).isSome then .next (stageFail (k.val + 1) s) else .next s

/-- FW_ACTIVATE (R144, R147): `partnerReady` says that the partner, where there is one in service, holds a valid staged
slot. -/
def execFwActivate (m : Fin 16) (partnerReady : Bool) (s : State) : Out :=
  .next (mbxRow m.val 0x0201 anyParam (fun c s =>
    let k := par c 0 8
    if k ≠ 1 ∧ k ≠ 2 then answer 0x0016 s
    else if s.boot.staging ≠ [] then answer 0x0218 s
    else if slotValid s k (inactive s k) = false ∨ partnerReady = false then answer 0x001B s
    else answer 0 (s |> updSlots k (fun p => { p with trial := some (inactive s k) }) |> slotRefresh)) s)

/-- FW_CONFIRM (R134). -/
def execFwConfirm (m : Fin 16) (s : State) : Out :=
  .next (mbxRow m.val 0x0202 anyParam (fun c s =>
    let k := par c 0 8
    if k ≠ 1 ∧ k ≠ 2 then answer 0x0016 s
    else if (slotsOf s k).started.isNone then answer 0x001B s
    else answer 0 (confirmTrial k s)) s)

/-- FW_ACCEPT_ADD (R143): a measurement that was added before is held twice, and takes two places (DESIGN CHOICE, log entry 102). -/
def execFwAcceptAdd (m : Fin 16) (s : State) : Out :=
  .next (mbxRow m.val 0x0203 anyParam (fun c s =>
    if 8 ≤ s.nv.accepted.length then answer 0x021D s
    else answer 0 (listRefresh { s with nv := { s.nv with accepted := s.nv.accepted ++ [c.data] } })) s)

/-- FW_ACCEPT_REMOVE (R143). -/
def execFwAcceptRemove (m : Fin 16) (s : State) : Out :=
  .next (mbxRow m.val 0x0204 anyParam (fun c s =>
    if s.nv.accepted.contains c.data then
      answer 0 (listRefresh { s with nv := { s.nv with accepted := s.nv.accepted.filter (fun x => x ≠ c.data) } })
    else answer 0x001B s) s)

/-- Slots whose image falls below the fused minimum become invalid (R146). -/
def dropOldSlots (k : Nat) (s : State) : State :=
  updSlots k (fun p => { p with slots := p.slots.map (fun x =>
    if (firmwareOf x.bytes).any (fun i => decide (imgSvn i.1 < svnMin s k)) then { x with valid := false } else x) }) s

/-- FW_COMMIT_SVN (R146): `partnerTrial` says that a trial is unconfirmed on the partner. -/
def execFwCommitSvn (m : Fin 16) (partnerTrial : Bool) (s : State) : Out :=
  .next (mbxRow m.val 0x0205 anyParam (fun _ s =>
    if s.nv.sup.started.isSome ∨ s.nv.ctl.started.isSome ∨ partnerTrial ∨ !isSet s F.NAL_UP then answer 0x021B s
    else
      let s1 := { s with nv := { s.nv with svnMinSup := max s.nv.svnMinSup (getF s F.SUP_SVN_RUN_SUP)
                                           svnMinCtl := max s.nv.svnMinCtl (getF s F.SUP_SVN_RUN_CTL) } }
      let s2 := s1 |> dropOldSlots 1 |> dropOldSlots 2 |> svnRefresh |> slotRefresh |> listRefresh
      answerData (leBytes 4 (rdN s2 R.SUP_SVN)) s2) s)

/-! ### SPDM requests -/

/-- A port serves SPDM (R130, R132, R138): 0 MCTP over the SMBus, 1 PCIe DOE, 2 the fabric, 3 the Nalyn link. -/
def spdmLive (s : State) (p : Nat) : Bool :=
  if isSet s F.SUP_BOOT_RECOVERY then decide (p = 0)
  else live s && decide (5 ≤ getF s F.SUP_BOOT_STAGE) && (if p = 1 then hostReach s else if p = 2 then s.pins.fabTx else if p = 3 then isSet s F.NAL_UP else true)

/-- The phase of a port's negotiation. -/
def spdmPhase (s : State) (p : Nat) : Nat := s.spdm.phase.getD p 0

/-- An SPDM error (R140). -/
def spdmErr (p code : Nat) (s : State) : State := send (.spdm p 0x7F [BitVec.ofNat 8 code]) s

/-- A response; one longer than the requester takes is fetched in chunks. -/
def spdmGive (p code : Nat) (body : List Byte) (s : State) : State :=
  let n := s.spdm.dts.getD p 0
  if n = 0 ∨ body.length ≤ n then send (.spdm p code body) s
  else spdmErr p 0x0F { s with spdm := { s.spdm with chunkOut := (p, 0, BitVec.ofNat 8 code :: body) :: s.spdm.chunkOut.filter (fun x => x.1 ≠ p) } }

/-- Serve a request on a port: one at a time (R138), in the negotiation's order, and in recovery only what R132 names. -/
def spdmServe (p : Fin 4) (busy : Bool) (need : Nat) (rom : Bool) (f : State → State) (s : State) : State :=
  if !spdmLive s p.val then s
  else if busy then spdmErr p.val 3 s
  else if isSet s F.SUP_BOOT_RECOVERY = true ∧ rom = false then spdmErr p.val 7 s
  else if spdmPhase s p.val < need then spdmErr p.val 4 s
  else f s

/-- Set the phase of a port. -/
def setPhase (p n : Nat) (s : State) : State := { s with spdm := { s.spdm with phase := setAt s.spdm.phase p n } }

/-- SPDM_GET_VERSION (R140): version 1.2. -/
def execSpdmGetVersion (p : Fin 4) (busy : Bool) (s : State) : Out :=
  .next (spdmServe p busy 0 true (fun s => s |> setPhase p.val 1 |> spdmGive p.val 0x04 [0, 1, 0x00, 0x12]) s)

/-- The capability flags of R140, at the places of SPDM 1.2. -/
def spdmCaps : Nat := 2 + 4 + 16 + 32 + 64 + 128 + 256 + 512 + 2 ^ 13 + 2 ^ 14 + 2 ^ 17

/-- SPDM_GET_CAPABILITIES (R140): `dts` is the requester's data transfer size. -/
def execSpdmGetCapabilities (p : Fin 4) (busy : Bool) (version : BitVec 8) (dts : Nat) (s : State) : Out :=
  .next (spdmServe p busy 1 true (fun s =>
    if version ≠ 0x12 then spdmErr p.val 0x41 s
    else { s with spdm := { s.spdm with dts := setAt s.spdm.dts p.val dts } } |> setPhase p.val 2
      |> spdmGive p.val 0x61 (leBytes 4 spdmCaps)) s)

/-- SPDM_NEGOTIATE_ALGORITHMS (R140): the selections, of what the requester offers: ECDSA P-384, SHA-256, secp384r1,
AES-256-GCM. -/
def execSpdmNegotiateAlgorithms (p : Fin 4) (busy p384 sha secp aes : Bool) (s : State) : Out :=
  .next (spdmServe p busy 2 true (fun s => s |> setPhase p.val 3
    |> spdmGive p.val 0x63 (leBytes 1 (b2n p384) ++ leBytes 1 (b2n sha) ++ leBytes 1 (b2n secp) ++ leBytes 1 (b2n aes))) s)

/-- The seeds of the DeviceID key and of the alias key (R135): the key-derivation function over the secret with the ROM measurement,
and with measurement index 2. -/
def deviceSeed : List Byte := hmac Config.deviceSecret Config.romMeasurement
def aliasSeed (s : State) : List Byte := hmac Config.deviceSecret (measGet s 2)

/-- SUP_SERIAL as 16 hexadecimal digits in ASCII, the highest first. -/
def serialDigits (s : State) : List Byte :=
  let n := rdN s R.SUP_SERIAL_LO + 2 ^ 32 * rdN s R.SUP_SERIAL_HI
  (List.range 16).map (fun i => let d := bitsAt n (60 - 4 * i) 4; BitVec.ofNat 8 (if d < 10 then 48 + d else 55 + d))

/-- The alias certificate, rebuilt at every boot: the alias key and the measurements 1 and 2, signed by the DeviceID key (R136). -/
def aliasCert (s : State) : List Byte :=
  let b := Config.aliasBody (Config.p384Public (aliasSeed s)) (measGet s 1 ++ measGet s 2)
  Config.certOf b (Config.p384Sign deviceSeed b)

/-- The chain of slot 0 (R136). -/
def chainBytes (s : State) : List Byte :=
  Config.rootCert ++ Config.intermediateCert ++ Config.deviceIdCert (serialDigits s) (Config.p384Public deviceSeed) ++ aliasCert s

/-- SPDM_GET_DIGESTS (R140): slot 0 alone. -/
def execSpdmGetDigests (p : Fin 4) (busy : Bool) (s : State) : Out :=
  .next (spdmServe p busy 3 true (fun s => spdmGive p.val 0x01 (1 :: sha256 (chainBytes s)) s) s)

/-- SPDM_GET_CERTIFICATE (R136): slots 1 to 7 are empty. -/
def execSpdmGetCertificate (p : Fin 4) (busy : Bool) (slot : Fin 8) (off len : Nat) (s : State) : Out :=
  .next (spdmServe p busy 3 true (fun s =>
    if slot ≠ 0 ∨ (chainBytes s).length ≤ off then spdmErr p.val 1 s
    else
      let d := slice (chainBytes s) off len
      spdmGive p.val 0x02 (leBytes 2 d.length ++ leBytes 2 ((chainBytes s).length - off - d.length) ++ d) s) s)

/-- A signed response: the requester's nonce and the device's own are signed with the body by the alias key (R136). -/
def signed (p code : Nat) (body nonce : List Byte) (s : State) : State :=
  let x := freeBytes 32 s
  spdmGive p code (body ++ x.1 ++ Config.p384Sign (aliasSeed s) (nonce ++ body ++ x.1)) x.2

/-- SPDM_CHALLENGE (R140). -/
def execSpdmChallenge (p : Fin 4) (busy : Bool) (slot : Fin 8) (nonce : List Byte) (s : State) : Out :=
  .next (spdmServe p busy 3 false (fun s =>
    if slot ≠ 0 then spdmErr p.val 1 s else signed p.val 0x03 (1 :: sha256 (chainBytes s)) nonce s) s)

/-- One measurement block. -/
def measBlock (s : State) (i : Nat) : List Byte :=
  let b := if isSet s F.SUP_BOOT_RECOVERY = true ∧ i = 2 then List.replicate 32 0 else measGet s i
  leBytes 1 i ++ leBytes 2 b.length ++ b

/-- SPDM_GET_MEASUREMENTS (R136 to R138): index 0 asks for their number, 0xFF for all of them; every response is signed. -/
def execSpdmGetMeasurements (p : Fin 4) (busy : Bool) (idx : BitVec 8) (nonce : List Byte) (s : State) : Out :=
  .next (spdmServe p busy 3 true (fun s =>
    let i := idx.toNat
    if 8 < i ∧ i ≠ 255 then spdmErr p.val 1 s
    else
      let is := if i = 255 then [1, 2, 3, 4, 5, 6, 7, 8] else if i = 0 then [] else [i]
      let body := leBytes 1 (if i = 0 then 8 else is.length) ++ is.flatMap (measBlock s)
      signed p.val 0x60 body nonce s) s)

/-! ### SPDM sessions -/

/-- The session of a number on a port. -/
def sessOf (s : State) (p n : Nat) : Option SpdmSess := s.spdm.sessions.find? (fun x => x.sid = n ∧ x.port = p)

/-- A session ends, its grants with it (R172), and the connection of the canal that it carries (R385). -/
def sessEnd (n : Nat) (s : State) : State :=
  let s1 := { s with spdm := { s.spdm with sessions := s.spdm.sessions.filter (fun x => x.sid ≠ n) } } |> dropGrants (fun g => decide (g.session = n))
  match s1.volu.canals.find? (fun c => c.sess = some n) with
  | some c => canalLost c s1
  | none => s1

/-- SPDM_KEY_EXCHANGE (R141): the response names the session and its heartbeat period, 10 s of a canal session (R385). -/
def execSpdmKeyExchange (p : Fin 4) (busy : Bool) (purpose : BitVec 8) (s : State) : Out :=
  .next (spdmServe p busy 3 false (fun s =>
    let ok := decide (purpose = 1 ∧ p.val = 2) || decide (purpose = 2 ∧ p.val ≤ 1)
    let n := if purpose = 1 then canalSessions s else (s.spdm.sessions.filter (fun x => x.purpose = 2)).length
    if !ok then s |> raise 0 0x021A 2 p.val purpose.toNat |> spdmErr p.val 1
    else if (if purpose = 1 then 1024 else 4) ≤ n then spdmErr p.val 0x0A s
    else
      let k := s.spdm.sessNext
      { s with spdm := { s.spdm with sessions := s.spdm.sessions ++ [⟨k, p.val, purpose.toNat, false, false⟩], sessNext := k + 1 } }
        |> spdmGive p.val 0x64 (leBytes 4 k ++ [if purpose = 1 then 10 else 0])) s)

/-- SPDM_FINISH (R141, R169): `root` is the digest of the root's public key that the requester's chain ends in, `p384` that
every certificate is ECDSA P-384, `sigOk` that the chain and the signatures verify. -/
def execSpdmFinish (p : Fin 4) (busy : Bool) (sid : Nat) (root : List Byte) (p384 sigOk : Bool) (s : State) : Out :=
  .next (spdmServe p busy 3 false (fun s =>
    match sessOf s p.val sid with
    | none => spdmErr p.val 4 s
    | some x =>
      if x.up then spdmErr p.val 4 s
      else if sigOk && p384 && (if x.purpose = 1 then decide (root = Config.olunathRoot) else s.nv.expertRoots.contains root) then
        { s with spdm := { s.spdm with sessions := s.spdm.sessions.map (fun y => if y.sid = sid then { y with up := true } else y) } }
          |> spdmGive p.val 0x65 [] |> (if x.purpose = 1 then askPeer (sessKey sid) 0xE0 else fun s => s)
      else s |> sessEnd sid |> spdmErr p.val 1) s)

/-- A request inside an established session. -/
def inSession (p : Fin 4) (busy : Bool) (sid : Nat) (f : State → State) (s : State) : State :=
  spdmServe p busy 3 false (fun s => if (sessOf s p.val sid).any (fun x => x.up) then f s else spdmErr p.val 2 s) s

/-- SPDM_HEARTBEAT (R140). -/
def execSpdmHeartbeat (p : Fin 4) (busy : Bool) (sid : Nat) (s : State) : Out :=
  .next (inSession p busy sid (spdmGive p.val 0x68 []) s)

/-- SPDM_KEY_UPDATE (R140): 1 update key, 2 update all keys, 3 verify new key; the operation and tag are echoed. -/
def execSpdmKeyUpdate (p : Fin 4) (busy : Bool) (sid : Nat) (op tag : BitVec 8) (s : State) : Out :=
  .next (inSession p busy sid (fun s => if op = 1 ∨ op = 2 ∨ op = 3 then spdmGive p.val 0x69 [op, tag] s else spdmErr p.val 1 s) s)

/-- SPDM_END_SESSION (R172). -/
def execSpdmEndSession (p : Fin 4) (busy : Bool) (sid : Nat) (s : State) : Out :=
  .next (inSession p busy sid (fun s => s |> spdmGive p.val 0x6C [] |> sessEnd sid) s)

/-- SPDM_HEARTBEAT_LAPSE (R172). -/
def execSpdmHeartbeatLapse (sid : Nat) (s : State) : Out := .next (sessEnd sid s)

/-! ### Large messages -/

/-- SPDM_CHUNK_SEND (R140): chunks in order; the request that they carry follows as a command of its own. -/
def execSpdmChunkSend (p : Fin 4) (busy : Bool) (seq : Nat) (last : Bool) (data : List Byte) (s : State) : Out :=
  .next (spdmServe p busy 3 false (fun s =>
    let rest := s.spdm.chunkIn.filter (fun x => x.1 ≠ p.val)
    let old := (s.spdm.chunkIn.find? (fun x => x.1 = p.val)).getD (p.val, 0, [])
    if seq ≠ 0 ∧ seq ≠ old.2.1 then spdmErr p.val 1 { s with spdm := { s.spdm with chunkIn := rest } }
    else
      let b := (if seq = 0 then [] else old.2.2) ++ data
      spdmGive p.val 0x05 (leBytes 2 seq) { s with spdm := { s.spdm with chunkIn := if last then rest else (p.val, seq + 1, b) :: rest } }) s)

/-- SPDM_CHUNK_GET (R140): the next part of a large response. -/
def execSpdmChunkGet (p : Fin 4) (busy : Bool) (seq : Nat) (s : State) : Out :=
  .next (spdmServe p busy 3 false (fun s =>
    match s.spdm.chunkOut.find? (fun x => x.1 = p.val) with
    | none => spdmErr p.val 4 s
    | some x =>
      if seq ≠ x.2.1 then spdmErr p.val 1 s
      else
        let n := s.spdm.dts.getD p.val 0
        let rest := s.spdm.chunkOut.filter (fun y => y.1 ≠ p.val)
        send (.spdm p.val 0x06 (leBytes 2 seq ++ leBytes 1 (b2n (decide (x.2.2.length ≤ n))) ++ x.2.2.take n))
          { s with spdm := { s.spdm with chunkOut := if x.2.2.length ≤ n then rest else (p.val, seq + 1, x.2.2.drop n) :: rest } }) s)

/-- SPDM_UNSUPPORTED_REQUEST (R140). -/
def execSpdmUnsupportedRequest (p : Fin 4) (busy : Bool) (code : BitVec 8) (s : State) : Out :=
  if [0x84, 0xE1, 0xE3, 0x81, 0x82, 0x83, 0xE0, 0xE4, 0xE5, 0xE8, 0xE9, 0xEC, 0x85, 0x86].contains code then .next s
  else .next (spdmServe p busy 0 true (spdmErr p.val 7) s)

/-! ### The requester's role (R142, R384, R385) -/

/-- The measurements 2 to 4 of a peer are in the accepted image list, and its running SVNs are not below the fused minimums (R142,
R385). -/
def measOk (s : State) (meas : List (List Byte)) (svnSup svnCtl : Nat) : Bool :=
  meas.all (fun x => (acceptedList s).contains x) && decide (s.nv.svnMinSup ≤ svnSup ∧ s.nv.svnMinCtl ≤ svnCtl ∧ meas.length = 3)

/-- The answer of a canal's peer is one to GET_MEASUREMENTS: on a session that the peer opened, in a setup, and in a reattestation. -/
def wantsMeas (s : State) (k : Nat) : Bool := decide (2 ^ 16 ≤ k) || (canalOf s k).any (fun c => decide (c.ask = some 0xE0))

/-- The next request of the partner check, after a response. -/
def nextAsk (code : Nat) : Option Nat :=
  match code with
  | 0x84 => some 0xE1 | 0xE1 => some 0xE3 | 0xE3 => some 0x81 | 0x81 => some 0x82 | 0x82 => some 0x83 | 0x83 => some 0xE0
  | _ => none

/-- The check of the partner begins (R142). -/
def startAttest (s : State) : State :=
  { s with spdm := { s.spdm with ask := some 0x84 } } |> send (.spdm 3 0x84 [])

/-- This device's own check of its partner ends: the result goes to the partner, and a failure is logged (R142). -/
def attestEnd (code : Nat) (s : State) : State :=
  { s with spdm := { s.spdm with ask := none }, bring := { s.bring with attestOwn := some (decide (code = 0)) } }
    |> nalSend 1 22 [b2n (decide (code = 0)), code]
    |> (if code = 0 then fun s => s else raise 0 code 2 0xFFFF 0)

end Sys2Proof.Machine
end

