-- ==== Sys2Proof/Machine/LinkOps.lean ====
section
/-! DEFINITION. The links' common operations: the Nalyn link going down (R45, R54, R309), the reset of the PCIe function
(R75, R324, R159, R172), a fabric port's link (R507). -/

namespace Sys2Proof.Machine

/-! ### The Nalyn link -/

/-- Own entries without a MIRROR_ACK need a flash journal page as second copy (R45, R453). -/
def mirrorDown (s : State) : State :=
  { setF F.VAT_MIRROR_UP 0 s with journal := s.journal.map (fun e =>
      if !e.mirror && !e.mirrored && !e.flashPage then { e with flashPending := true } else e) } |> jAckFree |> jRelease

/-- This device owns every token. -/
def ownsAll (s : State) : Bool := usedTokens.all (owns s)

/-- This device reacts to PAIR_FENCE_IN_N (R38, R41): not during the fence loop test, and in Bring-up not before it. -/
def fenceReacts (s : State) : Bool := live s && !s.pair.test.running && (decide (mode s ≠ 2) || s.pair.fenceArmed)

/-- The fence reaction (R36). -/
def fenceReaction (s : State) : State :=
  forcedSafe 2 0 (updPair (fun p => { p with fenced := true, take := .idle, takeSolo := false, handover := none, give := [],
                                             test := FenceTest.idle }) s)

/-- Steps 4 to 6 of R39: device 0 asserts its fence, device 1 waits out its hold-off; a device that finds the fence asserted
takes the fence reaction (R40). -/
def fenceStep (s : State) : State :=
  if s.pair.fenceIn then fenceReaction s
  else if devNo s = 0 then s |> mirrorDown |> updPair (fun p => { p with take := .fence, fenceOut := true })
  else s |> mirrorDown |> updPair (fun p => { p with take := .holdoff })

/-- This device may take over (R39, R41, R90): from Full, Fallow, Drain, from Solo while it lacks a token, and from Bring-up
once its step 5 has ended. -/
def mayTakeOver (s : State) : Bool :=
  (decide (mode s ≠ 4) || !ownsAll s) && (decide (mode s ≠ 2) || (s.pair.fenceArmed && step5Over s))

/-- The control cluster answers for the pair: no takeover is under way, no reaction, no hold-up. -/
def pairAwake (s : State) : Bool := ctlMode s && decide (s.pair.take = .idle) && !isSet s F.SUP_SAFE_ACTIVE && !s.pwr.hold

/-- The partner's heartbeat is lost (R39 steps 2 and 3, R46): a PING over the Nalyn link, whose answer TAKEOVER_PING_TIMEOUT or
its reply decides; without the link a device that may take over goes on to the fence. -/
def takeoverStart (s : State) : State :=
  if !pairAwake s then s
  else if isSet s F.NAL_UP then s |> updPair (fun p => { p with take := .ping, takeSolo := false }) |> nalSend 1 5 []
  else if mayTakeOver s then s |> updPair (fun p => { p with takeSolo := false }) |> fenceStep
  else s

/-- The Nalyn link trains on a clocked island with its transmitter on: each training sends PAIR_POS (R54, R69, R70). -/
def trainSend (s : State) : State :=
  if !isSet s F.NAL_UP && domOn s 12 && s.pins.nalTx && isSet s (F.CLK_LOCKED 12) && !isSet s F.SUP_STRAP_FLOAT then
    send (.nal (4096 + s.pair.txSeq.toNat) 0 12 [devNo s]) s
  else s

/-- A DRAIN that waits for the partner ends with 0x0113 when the link goes down: the device is back in Full (R89). -/
def pairDrainEnd (s : State) : State :=
  if s.pwr.target ≠ some 6 then s
  else { s with pwr := { s.pwr with target := none }, volu := { s.volu with drain := DrainSt.reset } }
    |> setF F.PWR_MODE_BUSY 0 |> setF F.PWR_MODE_CUR (getF s F.PWR_MODE_PRIOR)
    |> mbxFinish (isModeSet 5) (resStatus 0x0113)

/-- The link is down: requests in flight end while the partner is alive (R309), mirroring stops, the groups' states
follow, a heartbeat that came over the link is gone (R46), and the partner's speed loop is its own for want of messages (R48). -/
def nalDown (s : State) : State :=
  if !isSet s F.NAL_UP then s
  else
    let s1 := { s with bring := { s.bring with partnerStep := 0 } } |> setF F.NAL_UP 0 |> setF F.NAL_WIDTH 0 |> mirrorDown
    let lost := s1.pair.hbLost || (s1.pair.hbViaNal && s1.pair.hbRxSeq.isNone)
    let s2 := (if lost then s1 else requestsLost s1) |> updPair (fun p => { p with
      hbViaNal := false, hbLost := lost, ackSeq := none, rxSeq := none, replayBuf := [], txWait := [], partnerLocal := owns s1 0 })
    anaRefresh (if lost then takeoverStart s2 else pairDrainEnd s2)

/-! ### The PCIe function -/

/-- Every queue of a function becomes FREE (R324): what is not admitted is dropped, what is admitted ends without a
completion. -/
def queuesFree (pcie : Bool) (s : State) : State :=
  (List.range 256).foldl (fun s q =>
    if getF s (F.Q_STATE q) ≠ 0 ∧ decide ((natOf s q).sqSpace = 0) = pcie then
      let mine (c : Cmd) : Bool := match c.src with
        | .native n _ => decide (n = q)
        | _ => false
      let s1 := dropCmds (fun c => mine c && decide (c.stage = 0)) s
      natFree q { s1 with host := { s1.host with cmds := s1.host.cmds.map (fun c => if mine c then { c with drop := true } else c) } }
    else s) s

/-- A function-wide reset of the PCIe function (R324). -/
def pcieReset (s : State) : State := s |> ctrlReset (pcieCtrl s) |> queuesFree true |> pump

/-- The PCIe link goes down: a message held under a mask is held no more (R531). -/
def pcieDown (s : State) : State := { s with pcie := { s.pcie with linkUp := false, vecPend := [] } }

/-! ### Fabric ports -/

/-- The rate of a profile's ports as FAB_P_SPEED shows it (R76, R507): 1 100, 2 200, 3 400 Gb/s. -/
def profileSpeed (p : Nat) : Nat := if p = 1 then 2 else if p = 2 ∨ p = 6 then 1 else 3

/-- The lane rate of a profile in Mb/s (R76). -/
def profileLaneRate (p : Nat) : Nat := if p = 5 ∨ p = 6 then 53125 else 106250

/-- Lanes per port of a fabric profile (R76). -/
def profileLanes (p : Nat) : Nat :=
  match p with
  | 1 => 2 | 2 => 1 | 5 => 8 | 6 => 2 | _ => 4

/-- A lane of a port with or without its link (R77, R507); the eye of a new training is not foretold. -/
def laneSet (up : Bool) (l : Nat) (s : State) : State :=
  let s1 := s |> setB (F.FAB_LANE_TRAINED l) up |> setB (F.FAB_LANE_LOCKED l) up
  if up then freeF (F.FAB_LANE_EYE l) s1 else s1

/-- A fabric port's link (R507). -/
def portSet (q : Nat) (up : Bool) (speed lanes : Nat) (s : State) : State :=
  let was := isSet s (F.FAB_P_UP q)
  s |> setB (F.FAB_P_UP q) up |> setF (F.FAB_P_SPEED q) (if up then speed else 0) |> setF (F.FAB_P_LANES q) (if up then lanes else 0)
    |> (if was && !up then setF (F.FAB_P_LINK_LOST q) 1 else fun s => s) |> setB ⟨R.FAB_STATUS, 8 + q, 1⟩ up
    |> (let w := profileLanes s.pwr.fabProfile
        forN w (fun i => laneSet (up && decide (i < lanes)) (q * w + i)))

/-- Every fabric port goes down. -/
def fabDown (s : State) : State := forN 8 (fun q s => if isSet s (F.FAB_P_UP q) then portSet q false 0 0 s else s) s

end Sys2Proof.Machine
end

