-- ==== Sys2Proof/Machine/Mem.lean ====
section
/-! DEFINITION. The rows of "Memories, Table Cache and DMA" but for the Vat: the fill engine, patrol and corrections,
control-core traps, the memory commands, Table cache maintenance and the DMA engine (R436 to R470). -/

namespace Sys2Proof.Machine

/-! ### Fill, patrol, corrections -/

/-- ECC_FILL_CELLAR (R439, R440). -/
def execEccFillCellar (p : Path) (s : State) : Out :=
  .next (busAct p R.ECC_FILL_CTL 1 (acc fillCellar) s)

/-- ECC_FILL_DRAM (R439, R440). -/
def execEccFillDram (p : Path) (s : State) : Out :=
  .next (busAct p R.ECC_FILL_CTL 2 (acc fillDram) s)

/-- ECC_FILL_DONE (R438, R439): the memory reads zero with valid check bits; a DRAM write at or above the pointer is overwritten (R440).
`upTo`: how far the DRAM fill has come. Steps 4 and 9 of R91 note the result. -/
def execEccFillDone (upTo : Option (BitVec 40)) (s : State) : Out :=
  match s.memc.fill with
  | 1 =>
    let s1 := { s with memc := { s.memc with fill := 0, cellarKnown := true, wrote := s.memc.wrote.filter (fun w => w.1 / 2 ^ 64 ≠ 0) }
                       bring := { s.bring with cellarFilled := true } }
    .next (s1 |> memZero (space 3 0) (memSize s 0) |> clearBadAll 0 |> setF F.ECC_FILL_CELLAR_DONE 1
      |> (if s.bring.active && s.bring.dramTrained then fillDram else fun s => s))
  | 2 =>
    let cap := memSize s 3
    let p := match upTo with
      | some q => q.toNat / 64 * 64
      | none => cap
    if p < cap then
      if p < rdN s R.ECC_FILL_PTR_LO + rdN s R.ECC_FILL_PTR_HI * 2 ^ 32 then .next s else .next (fillTo p s)
    else
      let s1 := fillTo cap s
      .next ({ s1 with memc := { s1.memc with fill := 0, wrote := s1.memc.wrote.filter (fun w => w.1 / 2 ^ 64 ≠ 3) }
                       bring := { s1.bring with dramFilled := true } } |> setF F.ECC_FILL_DRAM_DONE 1)
  | _ => .next s

/-- ECC_PATROL_READ (R445): the next unit of DRAM, or of the Vat, is read; an uncorrectable one is latched with source
"patrol". -/
def execEccPatrolRead (vat : Bool) (r : EccRes) (s : State) : Out :=
  let m := if vat then 4 else 3
  let size := memSize s m
  if !domOn s (if vat then 16 else 15) || !domOn s 14 || !isSet s (F.ECC_PATROL_EN m) || decide (size = 0) then .next s
  else
    let a := (if vat then s.memc.patrolVat else s.memc.patrolDram) % size
    let nx := (a + 64) % size
    let s1 := (eccRead m a 5 r s).1
    .next { s1 with memc := if vat then { s1.memc with patrolVat := nx } else { s1.memc with patrolDram := nx } }

/-- ECC_CE_WINDOW_EXPIRY (R444): the window's count restarts. -/
def execEccCeWindowExpiry (m : Fin 5) (s : State) : Out :=
  .next { s with memc := { s.memc with ceWin := setAt s.memc.ceWin m.val 0, ceRaised := setAt s.memc.ceRaised m.val false } }

/-- CORE_FETCH_UE_TRAP (R447): the core traps and waits for its reload; a second uncorrectable fetch from the same
4 KiB within 1 s is fatal. -/
def execCoreFetchUeTrap (core : Fin 8) (off : BitVec 20) (s : State) : Out :=
  if !s.pwr.coresRunning then .next s
  else
    let a := core.val * 2 ^ 20 + off.toNat
    let page := a / 4096
    let again := s.memc.fetchUe.any (fun e => decide (e.1 = page ∧ s.now.toNat - e.2 < 1000000000))
    let s1 := eccUe 1 a 0 s
    let s2 := { s1 with memc := { s1.memc with
      fetchUe := (page, s.now.toNat) :: s1.memc.fetchUe.filter (fun e => decide (s.now.toNat - e.2 < 1000000000))
      trapped := if s1.memc.trapped.contains core.val then s1.memc.trapped else s1.memc.trapped ++ [core.val] } }
    .next (raise 18 0x0813 (if again then 3 else 2) 1 core.val s2)

/-- CORE_RELOAD_DONE (R447): the core's memory has been written again from the booted bundle, whole units, and the
core resumes. -/
def execCoreReloadDone (core : Fin 8) (s : State) : Out :=
  if s.memc.trapped.contains core.val then
    let lo := core.val * 2 ^ 20
    .next { s with memc := { s.memc with trapped := s.memc.trapped.filter (fun c => c ≠ core.val) }
                   bad := s.bad.filter (fun k => !decide (k / 2 ^ 64 = 1 ∧ lo ≤ k % 2 ^ 64 ∧ k % 2 ^ 64 < lo + 2 ^ 20)) }
  else .next s

/-- CORE_DATA_UE_TRAP (R447): firmware rebuilds the structure from its source, which writes the unit whole; with no
other source the fault is fatal. -/
def execCoreDataUeTrap (core : Fin 8) (addr : BitVec 24) (hasSource : Bool) (s : State) : Out :=
  if !s.pwr.coresRunning || decide (memSize s 1 ≤ addr.toNat) then .next s
  else
    let s1 := eccUe 1 addr.toNat 1 s
    if hasSource then .next (s1 |> clearBad 1 addr.toNat |> raise 18 0x0810 2 1 core.val)
    else .next (raise 18 0x0810 3 1 core.val s1)

/-! ### Memory commands (R469) -/

/-- One entry of the correction log as MEM_STATS gives it. -/
def statsEntry (s : State) (m i : Nat) : List Byte :=
  leBytes 4 (rdN s (R.ECC_LOG_ADDR_LO m i)) ++ leBytes 4 (rdN s (R.ECC_LOG_ADDR_HI m i))
    ++ leBytes 1 (getF s (F.ECC_LOG_HITS m i))
    ++ leBytes 1 (getF s (F.ECC_LOG_VALID m i) + 2 * getF s (F.ECC_LOG_REPORTED m i)) ++ List.replicate 6 0

/-- MEM_STATS (R469). -/
def execMemStats (m : Fin 16) (s : State) : Out :=
  .next (mbxRow m.val 0x0800 anyParam (fun c s =>
    let k := par c 0 3
    if k > 4 then answer 0x0016 s
    else answerData (leBytes 4 (rdN s (R.ECC_STATUS k)) ++ List.replicate 4 0
      ++ leBytes 8 (cntVal s (R.ECC_CE_LO k)) ++ leBytes 8 (cntVal s (R.ECC_UE_LO k))
      ++ (List.range 16).flatMap (statsEntry s k)) s) s)

/-- MEM_REWRITE (R446): read, correct and write back, indivisibly; an uncorrectable unit is left. Which source the ECC block latches for
it the spec does not say outside the Vat: a free one (log entry 106). -/
def execMemRewrite (m : Fin 16) (r : EccRes) (s : State) : Out :=
  .next (mbxRow m.val 0x0801 anyParam (fun c s =>
    let k := par c 0 3
    let a := par c 8 56
    if (k = 2 ∨ k > 4) ∨ memSize s k ≤ a ∨ a % memUnit k ≠ 0 then answer 0x0016 s
    else
      let f := takeFree s
      let x := if k = 4 then eccRead k a 7 r s else eccRead k a (f.1.toNat % 8) r f.2
      if x.2 then answer 0 x.1 else answer 0x0810 x.1) s)

/-- MEM_RETIRE (R446): a 4 KiB block of the Cellar or DRAM out of use, its content moved by firmware; the list stands
in nonvolatile configuration. -/
def execMemRetire (m : Fin 16) (s : State) : Out :=
  .next (mbxRow m.val 0x0802 anyParam (fun c s =>
    let k := par c 0 3
    let a := par c 8 56
    let held := (s.nv.retired.filter (fun e => e.1 = k)).length
    if (k ≠ 0 ∧ k ≠ 3) ∨ memSize s k ≤ a ∨ a % 4096 ≠ 0 then answer 0x0016 s
    else if s.nv.retired.contains (k, a / 4096) then answer 0 s
    else if held ≥ (if k = 0 then 64 else 1024) then answer 0x081A s
    else
      let s1 := { s with nv := { s.nv with retired := s.nv.retired ++ [(k, a / 4096)] } }
      answer 0 (if k = 3 then setF F.DRC_RETIRED_PAGES (held + 1) s1 else s1)) s)

/-! ### Table cache maintenance -/

/-- A way is locked. -/
def tcLocked (s : State) (w : Nat) : Bool := bitAt (getF s F.TC_LOCK) w

/-- A maintenance operation covers a line. -/
def tcCovers (t : TcMaint) (l : Nat) : Bool := decide (t.op = 1) || decide (t.line ≤ l ∧ l < t.line + t.count)

/-- Start a maintenance operation (R460 to R462): refused with TC_MAINT_ERR and 0x0816; the lines it covers are invalidated, a locked
way's counted for a range; fills in flight that it meets are discarded. -/
def tcMaint (op way lines : Nat) (s : State) : State × Nat :=
  let a := rdN s R.TC_MAINT_ADDR_LO + rdN s R.TC_MAINT_ADDR_HI * 2 ^ 32
  let t : TcMaint := ⟨op, a / 128, lines, way⟩
  if op = 0 then (s, 0)
  else if isSet s F.TC_MAINT_BUSY ∨ (op ≠ 1 ∧ (lines = 0 ∨ 8192 < lines ∨ memSize s 3 < (a / 128 + lines) * 128)) then
    (setF F.TC_MAINT_ERR 1 s, 0x0816)
  else
    let hit := s.memc.tcLines.filter (fun e => tcCovers t e.1)
    let lockedHits := (hit.filter (fun e => tcLocked s e.2)).length
    let s1 := tcKeep (fun e => !tcCovers t e.1 || (decide (op = 3) && decide (e.2 = way)))
      { s with memc := { s.memc with tcMaint := some t } }
    let s2 := if op = 2 then count R.TC_LOCK_INVAL_LO lockedHits s1 else s1
    (s2 |> tcDrop (tcCovers t) |> setF F.TC_MAINT_BUSY 1, 0)

/-- The word that a TC_MAINT write carries. -/
def tcWord (op way lines : Nat) : Word := BitVec.ofNat 32 (op * 2 ^ 28 + way * 2 ^ 24 + lines)

/-- TC_INVALIDATE_ALL (R460). -/
def execTcInvalidateAll (p : Path) (s : State) : Out :=
  .next (busAct p R.TC_MAINT (tcWord 1 0 0) (tcMaint 1 0 0) s)

/-- TC_INVALIDATE_RANGE (R460, R461). -/
def execTcInvalidateRange (p : Path) (lines : Fin 16384) (s : State) : Out :=
  .next (busAct p R.TC_MAINT (tcWord 2 0 lines.val) (tcMaint 2 0 lines.val) s)

/-- TC_PRELOAD (R460). -/
def execTcPreload (p : Path) (way : Fin 16) (lines : Fin 16384) (s : State) : Out :=
  .next (busAct p R.TC_MAINT (tcWord 3 way.val lines.val) (tcMaint 3 way.val lines.val) s)

/-- A preload places one line (R460), unless DRAM has it uncorrectable: then nothing is placed, and the refill is counted (R447). -/
def tcPreload1 (l w : Nat) (s : State) : State :=
  if (firstBad s 3 (l * 128) 128).isSome then
    s |> eccUe 3 ((firstBad s 3 (l * 128) 128).getD 0) 4 |> count R.TC_UE_REFILL_LO 1 |> raise 17 0x0810 1 3 0
  else tcPut l w s

/-- TC_MAINT_DONE (R460): a preload's lines stand in its way; TC_MAINT_BUSY clears. An invalidate-all makes the tags defined (R459). -/
def execTcMaintDone (s : State) : Out :=
  match s.memc.tcMaint with
  | none => .next s
  | some t =>
    let s1 := if t.op = 3 then forN t.count (fun i => tcPreload1 (t.line + i) t.way) s else s
    .next ({ s1 with memc := { s1.memc with tcMaint := none, tcValid := s1.memc.tcValid || decide (t.op = 1) } } |> setF F.TC_MAINT_BUSY 0)

/-- The way that a fill takes (R458): an unlocked way that holds nothing of the set, else the least recently used
unlocked one. -/
def tcVictim (s : State) (l : Nat) : Option Nat :=
  let inSet := s.memc.tcLines.filter (fun e => tcSet e.1 = tcSet l)
  let free := (List.range 16).filter (fun w => !tcLocked s w)
  match free.find? (fun w => !inSet.any (fun e => e.2 = w)) with
  | some w => some w
  | none => ((inSet.filter (fun e => free.contains e.2)).getLast?).map (fun e => e.2)

/-- A requester's access finds its line bad (R447): the line is invalidated, served from DRAM and filled again. -/
def tcBadLine (l w : Nat) (s : State) : State :=
  let s1 := s |> eccUe 2 (tcAddr l w) 4 |> tcKeep (fun e => decide (e.1 ≠ l)) |> count R.TC_UE_REFILL_LO 1 |> raise 17 0x0810 1 2 0
  { s1 with memc := { s1.memc with tcFlight := s1.memc.tcFlight ++ [⟨l, false, false⟩] } }

/-- A read miss (R457): counted, and a fill goes out unless one of the line is in flight. -/
def tcMiss (l : Nat) (s : State) : State :=
  let s1 := count R.TC_MISS_LO 1 s
  if s1.memc.tcFlight.any (fun f => decide (f.line = l)) then s1
  else { s1 with memc := { s1.memc with tcFlight := s1.memc.tcFlight ++ [⟨l, false, false⟩] } }

/-- A requester's read of bytes of one line (R455, R456, R459): a hit gives the line's bytes, stale where another agent has written DRAM;
with the tags undefined a free value says whether it hits, and the bytes are free. -/
def tcRead (a n : Nat) (s : State) : State :=
  let l := a / 128
  let k := min n (128 - a % 128)
  let out (b : List Byte) (s : State) : State := { s with memc := { s.memc with tcOut := b } }
  let dram (s : State) : State := let x := spaceRead 1 a k s
                                  out x.1 x.2.2
  if !isSet s F.TC_EN then dram s
  else if !s.memc.tcValid then
    let f := takeFree s
    let b := freeBytes k f.2
    out b.1 (if f.1.toNat % 2 = 1 then count R.TC_HIT_LO 1 b.2 else tcMiss l b.2)
  else match s.memc.tcLines.find? (fun e => decide (e.1 = l)) with
    | some e =>
      if (firstBad s 2 (tcAddr l e.2) 128).isSome then dram (tcBadLine l e.2 s)
      else
        let s1 := count R.TC_HIT_LO 1 { s with memc := { s.memc with tcLines := e :: s.memc.tcLines.filter (fun x => decide (x ≠ e)) } }
        out (memRead s (space 9 a) k) s1
    | none => dram (tcMiss l s)

/-- An access of a requester (R456): DRAM alone has its addresses. -/
def tcAccess (s : State) : TcAccess → State
  | .read a n => if a.toNat < memSize s 3 then tcRead a.toNat n s else s
  | .write a d => if a.toNat + d.length ≤ memSize s 3 then reqStore a.toNat d s else s

/-- The read that the fill of line `l` serves (R447): a miss, or with `badHit` a hit on a bad line; a prefetch has no read. -/
def tcStart (l : Nat) (prefetch badHit : Bool) (s : State) : State :=
  if prefetch || s.memc.tcFlight.any (fun f => decide (f.line = l)) then s
  else match s.memc.tcLines.find? (fun e => decide (e.1 = l)) with
    | some e => if badHit then tcBadLine l e.2 s else s
    | none => tcMiss l s

/-- A fill's data arrives (R457, R458, R462): it goes to its requester, and lands unless a race has discarded it or a maintenance
operation covers it; the next line is prefetched. -/
def tcArrive (l : Nat) (r : EccRes) (s : State) : State :=
  match s.memc.tcFlight.find? (fun f => decide (f.line = l)) with
  | none => s
  | some f =>
    let x := eccRead 3 (l * 128) 4 r { s with memc := { s.memc with tcFlight := s.memc.tcFlight.filter (fun g => decide (g.line ≠ l)) } }
    if !x.2 then x.1 |> count R.TC_UE_REFILL_LO 1 |> raise 17 0x0810 1 3 0
    else if f.drop then x.1
    else if (match x.1.memc.tcMaint with | some t => tcCovers t l | none => false) then count R.TC_FILL_DROP_LO 1 x.1
    else
      let s1 := match tcVictim x.1 l with
        | some w => if x.1.memc.tcLines.any (fun e => decide (e.1 = l)) then x.1 else tcPut l w x.1
        | none => x.1
      let nx := l + 1
      if !f.pref && isSet s1 F.TC_PREFETCH && !s1.memc.tcLines.any (fun e => decide (e.1 = nx))
          && decide ((nx + 1) * 128 ≤ memSize s1 3) && !s1.memc.tcFlight.any (fun g => decide (g.line = nx)) then
        { s1 with memc := { s1.memc with tcFlight := s1.memc.tcFlight ++ [⟨nx, true, false⟩] } }
      else s1

/-- TC_FILL_DONE (R447, R455 to R459, R462): the fill of a read miss or a prefetch arrives after the requesters' accesses `before`;
`badHit`: its access had hit a bad line. -/
def execTcFillDone (line : BitVec 32) (prefetch badHit : Bool) (r : EccRes) (before : List TcAccess) (s : State) : Out :=
  let l := line.toNat
  if !domOn s 14 then .next s
  else if !isSet s F.TC_EN || decide (memSize s 3 < (l + 1) * 128) then .next (before.foldl tcAccess s)
  else .next (tcArrive l r (before.foldl tcAccess (tcStart l prefetch badHit s)))

/-! ### The DMA engine -/

/-- The descriptor at DMA_CH_DESC of a channel; bits [4:0] are ignored. -/
def dmaDesc (s : State) (n : Nat) : DmaDesc :=
  let b := memRead s (space 2 (rdN s (R.DMA_CH_DESC n) / 32 * 32)) 32
  ⟨leAt b 0 1, leAt b 1 1, leAt b 2 1, leAt b 3 1 + leAt b 0x1C 4, leAt b 4 4, leAt b 8 8, leAt b 16 8, leAt b 0x18 4⟩

/-- The descriptor that a channel runs: the one it has read (R464), which later writes of control memory do not change. -/
def dmaCur (s : State) (n : Nat) : DmaDesc := (s.memc.dma.getD n none).getD (dmaDesc s n)

/-- Source and destination space of a descriptor. -/
def DmaDesc.sspace (d : DmaDesc) : Nat := d.spaces % 8

/-- Destination space of a descriptor. -/
def DmaDesc.dspace (d : DmaDesc) : Nat := d.spaces / 16 % 8

/-- The descriptor keeps to R464. -/
def dmaDescOk (s : State) (n : Nat) (d : DmaDesc) : Bool :=
  decide (1 ≤ d.dop ∧ d.dop ≤ 2) && decide (d.flags < 8) && !bitAt d.spaces 3 && !bitAt d.spaces 7 && decide (d.rsv = 0)
    && decide (1 ≤ d.len ∧ d.len ≤ 16777216) && decide (d.sspace < 6 ∧ d.dspace < 6)
    && decide (rdN s (R.DMA_CH_DESC n) / 32 * 32 + 32 ≤ memSize s 1)

/-- The domain a space lies in (R85, R465). -/
def spaceDom : Nat → Nat
  | 0 => 13
  | 1 => 15
  | 2 => 1
  | 3 => 14
  | 4 => 16
  | _ => 12

/-- Halt a channel in ERROR with a status and an address (R468). -/
def dmaHalt (n st a : Nat) (s : State) : State :=
  s |> setF (F.DMA_STATE n) 5 |> setF (F.DMA_ERR_CODE n) st
    |> wr (R.DMA_CH_ERR_ADDR_LO n) (BitVec.ofNat 32 (a % 2 ^ 32)) |> wr (R.DMA_CH_ERR_ADDR_HI n) (BitVec.ofNat 32 (a / 2 ^ 32))

/-- An address of a descriptor that its channel may use (R450, R465). -/
def dmaAddrOk (s : State) (n k a len : Nat) (isWr : Bool) : Bool :=
  spaceHolds s k a len && (decide (n < 8) || winOk s k a len isWr)

/-- Start the descriptor at DMA_CH_DESC, with its checks (R464, R465) and the domains of its spaces (R85). -/
def dmaLoad (n : Nat) (s : State) : State :=
  let d := dmaDesc s n
  if !dmaDescOk s n d then dmaHalt n 0x0016 (rdN s (R.DMA_CH_DESC n)) s
  else if d.dop = 1 ∧ dmaAddrOk s n d.sspace d.src d.len false = false then
    s |> logViolation 16 (d.src % 2 ^ 32) 4 2 false |> dmaHalt n 0x0015 d.src
  else if dmaAddrOk s n d.dspace d.dst d.len true = false then
    s |> logViolation 16 (d.dst % 2 ^ 32) 4 2 true |> dmaHalt n 0x0015 d.dst
  else if d.dop = 1 ∧ domOn s (spaceDom d.sspace) = false then
    s |> logDrain (d.src % 2 ^ 32) (spaceDom d.sspace) |> dmaHalt n 0x0111 d.src
  else if domOn s (spaceDom d.dspace) = false then
    s |> logDrain (d.dst % 2 ^ 32) (spaceDom d.dspace) |> dmaHalt n 0x0111 d.dst
  else { s with memc := { s.memc with dma := setAt s.memc.dma n (some d) } }
    |> setF (F.DMA_STATE n) 2 |> setF (F.DMA_ERR_CODE n) 0 |> wr (R.DMA_CH_BYTES n) 0

/-- DMA_GO on a channel (R468): from IDLE or STOPPED only; the counts that a disable left undefined start at 0. -/
def dmaGo (n : Nat) (s : State) : State :=
  if getF s (F.DMA_STATE n) = 1 ∨ getF s (F.DMA_STATE n) = 4 then
    let s1 := if s.memc.dmaDropped.getD n false then
        { s with memc := { s.memc with dmaDropped := setAt s.memc.dmaDropped n false } } |> wr (R.DMA_CH_DONE n) 0
      else s
    dmaLoad n s1
  else s

/-- DMA_STOP on a channel (R468): the current descriptor finishes first. -/
def dmaStop (n : Nat) (s : State) : State :=
  if getF s (F.DMA_STATE n) = 2 then setF (F.DMA_STATE n) 3 s else s

/-- DMA_RESUME on a channel (R468): acts only in ERROR, from the descriptor at DMA_CH_DESC. -/
def dmaResume (n : Nat) (s : State) : State := if getF s (F.DMA_STATE n) = 5 then dmaLoad n s else s

/-- Clearing DMA_EN (R468): all stops at once; a free value says how much of the descriptor in progress has landed, and
the counts are free values until the next GO. 0x0815 is logged for channels 8..15. -/
def dmaDisable (n : Nat) (s : State) : State :=
  if getF s (F.DMA_STATE n) = 0 then setF (F.DMA_EN n) 0 s
  else
    let d := dmaCur s n
    let busy := decide (getF s (F.DMA_STATE n) = 2 ∨ getF s (F.DMA_STATE n) = 3)
    let x := if d.dop = 1 && busy then spaceRead d.sspace d.src d.len s else (fillBytes (d.src % 2 ^ 32) d.len, none, s)
    let data := match x.2.1 with
      | some a => x.1.take (a - d.src)
      | none => x.1
    let f := takeFree x.2.2
    let s1 := if busy then spaceStore d.dspace d.dst (data.take (f.1.toNat % (d.len + 1))) f.2 else s
    let s2 := s1 |> setF (F.DMA_EN n) 0 |> setF (F.DMA_STATE n) 0
      |> freeF ⟨R.DMA_CH_BYTES n, 0, 32⟩ |> freeF ⟨R.DMA_CH_DONE n, 0, 32⟩
    let s3 := { s2 with memc := { s2.memc with dmaDropped := setAt s2.memc.dmaDropped n true } }
    if 8 ≤ n ∧ busy = true then raise 16 0x0815 2 n 0 s3 else s3

/-- Setting DMA_EN: a disabled channel is idle. -/
def dmaEnable (n : Nat) (s : State) : State :=
  let s1 := setF (F.DMA_EN n) 1 s
  if getF s (F.DMA_STATE n) = 0 then setF (F.DMA_STATE n) 1 s1 else s1

/-- DMA_GO (R468). -/
def execDmaGo (p : Path) (n : Fin 16) (s : State) : Out :=
  .next (busAct p (R.DMA_CH_CTL n.val) (BitVec.ofNat 32 (rdN s (R.DMA_CH_CTL n.val) + 2)) (acc (dmaGo n.val)) s)

/-- DMA_STOP (R468). -/
def execDmaStop (p : Path) (n : Fin 16) (s : State) : Out :=
  .next (busAct p (R.DMA_CH_CTL n.val) (BitVec.ofNat 32 (rdN s (R.DMA_CH_CTL n.val) + 4)) (acc (dmaStop n.val)) s)

/-- DMA_RESUME (R468). -/
def execDmaResume (p : Path) (n : Fin 16) (s : State) : Out :=
  .next (busAct p (R.DMA_CH_CTL n.val) (BitVec.ofNat 32 (rdN s (R.DMA_CH_CTL n.val) + 8)) (acc (dmaResume n.val)) s)

/-- DMA_DISABLE (R468). -/
def execDmaDisable (p : Path) (n : Fin 16) (s : State) : Out :=
  .next (busAct p (R.DMA_CH_CTL n.val) (BitVec.ofNat 32 (putBits (rdN s (R.DMA_CH_CTL n.val)) 0 1 0)) (acc (dmaDisable n.val)) s)

/-- Complete the descriptor (R466): its count and interrupt, then the next of a chain, a stop, or idle. -/
def dmaComplete (n : Nat) (d : DmaDesc) (s : State) : State :=
  let s1 := s |> wr (R.DMA_CH_BYTES n) (BitVec.ofNat 32 d.len) |> wr (R.DMA_CH_DONE n) (rd s (R.DMA_CH_DONE n) + 1)
  let s2 := if bitAt d.flags 2 then msix (getF s1 (F.DMA_VEC n)) s1 else s1
  let stopping := decide (getF s (F.DMA_STATE n) = 3)
  if bitAt d.flags 0 then
    let s3 := wr (R.DMA_CH_DESC n) (BitVec.ofNat 32 d.next) s2
    if stopping then setF (F.DMA_STATE n) 4 s3 else dmaLoad n s3
  else setF (F.DMA_STATE n) (if stopping then 4 else 1) s2

/-- DMA_DESCRIPTOR_DONE (R465, R466, R468): the current descriptor's bytes have been moved. `ue`: the offset of an
uncorrectable unit in its source; `partnerOk`: the partner's windows permit its side; `host`: what host memory holds. -/
def execDmaDescriptorDone (n : Fin 16) (ue : Option Nat) (partnerOk : Bool) (host : List Host.Cell) (s : State) : Out :=
  if getF s (F.DMA_STATE n.val) ≠ 2 ∧ getF s (F.DMA_STATE n.val) ≠ 3 then .next s
  else
    let s0 := hostPlaces host s
    let d := dmaCur s0 n.val
    if (d.sspace = 5 ∧ d.dop = 1 ∨ d.dspace = 5) ∧ partnerOk = false then
      .next (dmaHalt n.val 0x0015 (if d.dspace = 5 then d.dst else d.src) s0)
    else
      let x := if d.dop = 1 then spaceRead d.sspace d.src d.len s0 else (fillBytes (d.src % 2 ^ 32) d.len, none, s0)
      let found := match ue with
        | some o => if o < d.len then some (d.src + o) else none
        | none => none
      let at? := if d.dop = 1 then (match x.2.1, found with
        | some y, some z => some (max d.src (min y z))
        | some y, none => some (max d.src y)
        | none, z => z) else none
      match at? with
      | some a =>
        let s1 := spaceStore d.dspace d.dst (x.1.take (a - d.src)) x.2.2
        let s2 := match spaceMem d.sspace with
          | some m => eccUe m a 2 s1
          | none => s1
        .next (s2 |> wr (R.DMA_CH_BYTES n.val) (BitVec.ofNat 32 (a - d.src)) |> dmaHalt n.val 0x0814 a)
      | none => .next (dmaComplete n.val d (spaceStore d.dspace d.dst x.1 x.2.2))

/-- DMA_COMMIT (R465): the windows are locked until domain QUE resets. -/
def execDmaCommit (p : Path) (s : State) : Out :=
  .next (busAct p R.DMA_GCTL 1 (acc (setF F.DMA_COMMITTED 1)) s)

end Sys2Proof.Machine
end

