-- ==== Sys2Proof/Machine/DomainOps.lean ====
section
/-! DEFINITION. Power domains going up and down (R83 to R86, R491, R530), what each loses and what its power-up begins, and
the entries to Reset and Dormant (R83, R88, R97, R101). -/

namespace Sys2Proof.Machine

/-! ### Islands of a domain -/

/-- The power domain of island `i` (R110). -/
def islandDom (i : Nat) : Nat :=
  match i with
  | 2 => 7 | 3 => 15 | 4 => 8 | 9 => 7 | 10 => 13 | 11 => 11 | 12 => 12
  | i => if 5 ≤ i ∧ i ≤ 8 then i - 3 else 0

/-- The islands of a domain. -/
def islandsOf (d : Nat) : List Nat := (List.range 13).filter (fun i => islandDom i = d)

/-- The reference of an island: 0 SYS, 1 PCIE, 2 FAB, 3 NAL (R110). -/
def islandRef (i : Nat) : Nat := if i = 10 then 1 else if i = 11 then 2 else if i = 12 then 3 else 0

/-- Every access that waits at an island is refused with a status (R114, R530). -/
def refuseWaiting (i st : Nat) (s : State) : State :=
  let ws := s.clk.waiting.filter (fun w => w.island = i)
  ws.foldl (fun s w => s |> busAnswer w.path w.addr st 0 |> (if w.isWr then fun s => s else readRefused w.path w.addr st)) { s with clk := { s.clk with waiting := s.clk.waiting.filter (fun w => w.island ≠ i) } }

/-- An island loses its power: nothing runs in it. -/
def islandOff (i : Nat) (s : State) : State :=
  { s with clk := { s.clk with progress := setAt s.clk.progress i none } } |> setF (F.CLK_LOCKED i) 0 |> setF (F.CLK_GATE_PENDING i) 0
    |> refuseWaiting i 0x0111

/-- An island starts with its domain: ungated, with the setting stored last (R111, R116). -/
def islandOn (i : Nat) (s : State) : State :=
  { s with clk := { s.clk with applied := setAt s.clk.applied i (rd s (R.CLK_PLL_CFG i)) } }
    |> setF (F.CLK_GATED i) 0 |> setF (F.CLK_GATE_REQ i) 0 |> setF (F.CLK_LOCKED i) 0

/-! ### What a domain holds -/

/-- Every cell of a memory space is lost. -/
def spaceLost (k : Nat) (s : State) : State := { s with mem := smKeep (fun a => decide (a / 2 ^ 64 ≠ k)) s.mem }

/-- A running command has a transfer in a domain: flash reads in FLS, chunks in RED, its own run in QUE, its host in FAB or PCI, its
forwarding in NAL. -/
def cmdHolds (s : State) (d : Nat) (c : Cmd) : Bool :=
  decide (c.stage = 2) && match d, c.src with
    | 8, _ => c.needs.any (fun n => n.kind = 0)
    | 9, _ => hasJobs s c.id
    | 10, _ => true
    | 11, .nvme id _ _ => (ctrlOf s id).any (fun k => k.kind ≠ 0)
    | 12, _ => c.needs.any (fun n => n.kind = 2)
    | 13, .nvme id _ _ => (ctrlOf s id).any (fun k => k.kind = 0)
    | 13, .native _ _ => decide (c.bufSpace = 0)
    | _, _ => false

/-- A DMA channel works. -/
def dmaWorks (s : State) (n : Nat) : Bool := decide (getF s (F.DMA_STATE n) = 2 ∨ getF s (F.DMA_STATE n) = 3)

/-- A transfer in flight in a domain (R85): a band in progress in a head-channel domain, a decoder at work in DEC, racking moves in FLS, a
DMA channel that works in QUE, MEM and DRC, requests to the partner in NAL, and what running commands hold. -/
def inFlight (s : State) (d : Nat) : Bool :=
  s.host.cmds.any (cmdHolds s d) || match d with
    | 6 => !s.pool.active.isEmpty
    | 8 => !s.fl.moves.isEmpty
    | 9 => !s.red.jobs.isEmpty
    | 12 => !s.host.reqs.isEmpty
    | d => if 2 ≤ d ∧ d ≤ 5 then (bandOf s (d - 2)).isSome
           else decide (d = 10 ∨ d = 14 ∨ d = 15) && (List.range 16).any (dmaWorks s)

/-- What a head keeps through its domain's power-down: counts, what the partner mirrored and its calibration's result
live in the control cluster's keeping. -/
def headKept (x : HeadSt) : HeadSt :=
  { HeadSt.reset with stats := x.stats, srv := x.srv, mirror := x.mirror, calRes := x.calRes }

/-- A head-channel domain loses its state; the band queue stays with the firmware. -/
def hcaLost (a : Nat) (s : State) : State :=
  let s1 := gatesOffAct a s
  let pool : PoolSt := ⟨s1.pool.queue.filter (fun c => actOf c.head ≠ a), s1.pool.active.filter (fun j => actOf j.cw.head ≠ a),
    s1.pool.retry.filter (fun c => actOf c.head ≠ a)⟩
  { s1 with
    head := s1.head.mapIdx (fun h x => if actOf h = a then headKept x else x)
    fs := modAt s1.fs a (fun x => { FsSt.reset with queue := x.queue })
    pa := s1.pa.mapIdx (fun p x => if p / 4 = a then PaSt.reset else x)
    pool := pool
    pair := { s1.pair with blends := setAt s1.pair.blends a none }
    mem := smKeep (fun k => !decide (space 6 (a * 0x8000) ≤ k ∧ k < space 6 (a * 0x8000 + 0x8000))) s1.mem }
    |> admitSet (s1.clk.admitted.filter (fun p => p / 4 ≠ a)) |> setF ⟨R.HC_GCTL, 4 + a, 1⟩ 0

/-- The SPDM sessions of a port end (R172). -/
def portSessionsEnd (p : Nat) (s : State) : State :=
  (s.spdm.sessions.filter (fun x => x.port = p)).foldl (fun s x => sessEnd x.sid s) s

/-- Every canal connection goes (R390). -/
def canalsLost (s : State) : State := (s.volu.canals.filter (fun c => c.setup ≠ 0)).foldl (fun s c => canalLost c s) s

/-- What the logic of a domain loses when its power goes. -/
def engineOff (d : Nat) (s : State) : State :=
  match d with
  | 1 => { s with
              pwr := { s.pwr with coresRunning := false, wedged := false }
              memc := { s.memc with trapped := [] }
              head := s.head.map (fun x => { x with mirror := [] }) }
      |> spaceLost 2 |> spaceLost 7 |> clearBadAll 1
  | 6 => { s with pool := PoolSt.reset }
  | 7 =>
    let s1 : State := { s with mot := MotSt.reset }
    { s1 with pins := { s1.pins with encPwr := false } }
  | 8 => flashHiZ { s with fl := FlashSt.reset }
  | 9 => { s with red := RedSt.reset }
  | 10 => { s with host := HostSt.reset, fences := []
                   memc := { s.memc with dma := List.replicate 16 none, dmaDropped := List.replicate 16 false } }
  | 11 => { canalsLost s with pins := { s.pins with fabTx := false } } |> portSessionsEnd 2
  | 12 => let s1 := nalDown s
      { s1 with
          pins := { s1.pins with nalTx := false }
          pair := { s1.pair with txSeq := 0, rxSeq := none, ackSeq := none, replayBuf := [], txWait := [], reservedFlits := 0 } } |> portSessionsEnd 3
  | 13 => s |> pcieReset |> pcieDown |> portSessionsEnd 1
  | 14 => { s with memc := { MemSt.reset with dma := s.memc.dma, dmaDropped := s.memc.dmaDropped, dramKnown := s.memc.dramKnown,
                                              wrote := s.memc.wrote.filter (fun w => w.1 / 2 ^ 64 ≠ 0) } }
      |> spaceLost 3 |> spaceLost 9 |> clearBadAll 0 |> clearBadAll 2
  | 15 => { s with memc := { s.memc with dramKnown := 0, wrote := s.memc.wrote.filter (fun w => w.1 / 2 ^ 64 ≠ 3) } }
      |> spaceLost 1 |> clearBadAll 3 |> setF F.ECC_FILL_DRAM_DONE 0 |> wr R.ECC_FILL_PTR_LO 0 |> wr R.ECC_FILL_PTR_HI 0
  | d => if 2 ≤ d ∧ d ≤ 5 then hcaLost (d - 2) s else s

/-! ### Down -/

/-- A domain's power goes; one that is requested powers up again (R86). -/
def domainOff1 (d : Nat) (s : State) : State :=
  let s0 := { s with pwr := { s.pwr with engineStore := s.pwr.engineStore.filter (fun e => e.1 ≠ d) } }
  let s1 := (islandsOf d).foldl (fun s i => islandOff i s) (clearDomain d (engineOff d s0))
  setF (F.PWR_DOM_STATE d) (b2n (isSet s1 (F.PWR_DOM_REQ_ON d))) s1

/-- Some head-channel domain has power. -/
def anyHca (s : State) : Bool := (List.range 4).any (fun a => getF s (F.PWR_DOM_STATE (2 + a)) ≠ 0)

/-- A domain goes off, and the Decoder pool with the last head-channel domain (R83). -/
def domainOff (d : Nat) (s : State) : State :=
  let s1 := domainOff1 d s
  if 2 ≤ d ∧ d ≤ 5 ∧ anyHca s1 = false ∧ getF s1 (F.PWR_DOM_STATE 6) ≠ 0 then s1 |> setF (F.PWR_DOM_REQ_ON 6) 0 |> domainOff1 6 else s1

/-- A domain is to power down: one that holds a transfer drains first (R85); on a domain that drains already or is off the request has no
effect (R86). -/
def domDown (d : Nat) (s : State) : State :=
  match getF s (F.PWR_DOM_STATE d) with
  | 1 => domainOff d (setF (F.PWR_DOM_REQ_ON d) 0 s)
  | 2 =>
    let s1 := setF (F.PWR_DOM_REQ_ON d) 0 s
    if inFlight s1 d then setF (F.PWR_DOM_STATE d) 3 s1 else domainOff d s1
  | _ => s

/-- A head-channel domain that nothing requires any more powers down (R83). -/
def hcaIdle (a : Nat) (s : State) : State :=
  if required s (2 + a) ∨ getF s (F.PWR_DOM_STATE (2 + a)) = 0 ∨ mode s = 7 then s else domDown (2 + a) s

/-- A Supervisor reset of a domain: no drain (R491). -/
def domReset (d : Nat) (s : State) : State :=
  if getF s (F.PWR_DOM_STATE d) = 0 then setF (F.PWR_DOM_REQ_ON d) 0 s else s |> setF (F.PWR_DOM_REQ_ON d) 0 |> domainOff1 d

/-- Domains 1 to 15 are reset. -/
def domsReset (s : State) : State := forN 15 (fun i s => domReset (15 - i) s) s

/-! ### Dormant and Reset -/

/-- Entry to Dormant: only SUP and VAT keep power; what is under way ends. The Supervisor holds the fence (R37), and a takeover
whose tokens are committed goes on later (R43). -/
def enterDormant (s : State) : State :=
  let s1 := s |> domsReset |> dropGrants (fun _ => true) |> finishControl 0x0012 |> setF F.PWR_MODE_CUR 1 |> setF F.PWR_MODE_BUSY 0
    |> setF F.PWR_MODE_PRIOR 0 |> setF F.SUP_BOOT_STAGE 5 |> anaRefresh
  { s1 with
    pwr := { s1.pwr with target := none, wakePending := false, vmotFallow := false, diskWait := false, wakeFullCal := false,
                         coresRunning := false, wedged := false, sysRefFailed := false }
    bring := BringSt.reset
    pair := { s1.pair with take := if s1.pair.take = .won then .won else .idle, takeSolo := false, handover := none,
                           fenceOut := s1.pair.fenceOut && !s1.pair.test.pulsing, fenced := false, fenceArmed := false,
                           test := FenceTest.idle, give := [], catching := [] }
    flt := { s1.flt with recent := [], escalated := [] } }

/-- The domains of a change to Dormant power down, each after its drain (R85); the change waits for the last one. The control cluster's
goes at the entry itself. -/
def dormantDown (s : State) : State :=
  let s1 := forN 14 (fun i s => domDown (15 - i) s) s
  if (List.range 14).any (fun i => getF s1 (F.PWR_DOM_STATE (2 + i)) ≠ 0) then s1
  else if mode s1 = 6 then s1 |> enterDormant |> send .drainDone
  else s1 |> enterDormant |> mbxFinish (isModeSet 7) (resStatus 0)

/-- A change to Dormant goes on once no head is out: out of Drain the token-0 holder stops the spindle first (R88, R97). -/
def dormantGo (s : State) : State :=
  if s.pwr.target ≠ some 1 ∨ (List.range 4).any (headsOut s) = true then s
  else if mode s = 6 ∧ owns s 0 ∧ (4 ≤ spnState s ∧ spnState s ≤ 7) then (if s.mot.spn.stopping then s else spnStop s)
  else dormantDown s

/-- A change to Dormant begins: the heads unload first. -/
def dormantStart (s : State) : State :=
  s |> updPwrTarget |> setF F.PWR_MODE_BUSY 1 |> forN 4 (fun a s => if (bandOf s a).isNone then unloadHeads a s else s) |> dormantGo
where
  /-- The target of the change. -/
  updPwrTarget (s : State) : State := { s with pwr := { s.pwr with target := some 1 } }

/-- What Reset leaves of the lasting metadata: the histories return to the copies in the Vat (R101, R432); a racking copy restarts from its
source, so that a run in writing is FREE again, its RUN_TAG kept (R418), and a source is no victim. -/
def tierKept (t : TierSt) : TierSt :=
  { t with
    blks := t.blks.map (fun b => if b.state = 5 then { b with state := 4 } else b)
    runs := t.runs.map (fun r => if r.state = 1 then { r with state := 0 } else if r.state = 3 then { r with state := 2 } else r)
    tjHist := t.savedTj, mechHist := t.savedMech, lifeMin := t.savedLife, tjAcc := List.replicate 28 0, mechAcc := List.replicate 28 0 }

/-- The WRITEs of a canal that a sealed journal entry still holds: they are sent again (R392). -/
def outKept (s : State) (c : Canal) : List CanalOut :=
  (c.out.filter (fun o => s.journal.any (fun e => e.sealed && decide (e.volume = c.vol ∧ e.canalSeq = o.seq)))).map
    (fun o => { o with sent := false })

/-- What Reset leaves of a transfer (R394): at a target, records that were still to be stored are wanted again. -/
def xferKept (s : State) (c : Canal) : Option Xfer :=
  c.xfer.map (fun x =>
    if c.source then x
    else
      let lost := (s.red.jobs.filter (fun j => j.hidden && decide (j.vol = c.vol))).map (fun j => j.chunk)
      let x1 := { x with need := x.need ++ lost.filter (fun n => !x.need.contains n), commit := false }
      { x1 with pos := xferPos x1 })

/-- What Reset leaves of volumes and canals: the records, with the transfers that resume; no connection (R101, R394). -/
def voluKept (s : State) : VolSt :=
  { s.volu with
    drain := DrainSt.reset
    canals := s.volu.canals.map (fun c => { c with setup := 0, xfer := xferKept s c, mbx := none, formats := 0, out := outKept s c,
                                                   ask := none, sess := none, msgs := 0 }) }

/-- Moves that have committed release their source (R424). -/
def movesReplayed (s : State) : State := (s.fl.moves.filter (fun m => m.step = 5)).foldl (fun s m => moveRelease m s) s

/-- Entry to Reset (R88, R101): everything but nonvolatile state, the Vat's journal, flash and the disk is lost. -/
def enterReset (s : State) : State :=
  { State.reset with
    pending := s.pending, outbox := s.outbox, free := s.free, nv := s.nv, journal := s.journal, tier := tierKept (movesReplayed s).tier,
    volu := voluKept s, bad := s.bad.filter (fun k => k / 2 ^ 64 = 4 ∨ k / 2 ^ 64 = 40),
    mem := smKeep (fun a => let k := a / 2 ^ 64; decide (k = 0 ∨ k = 4 ∨ k = 8 ∨ 16 ≤ k)) s.mem,
    pwr := { PwrSt.reset with vsysReleased := s.pwr.vsysReleased, resetN := s.pwr.resetN, straps := s.pwr.straps }
    pair := { PairSt.reset with
      fenceIn := s.pair.fenceIn, take := if s.pair.take = .won then .won else .idle,
      takeStepsDone := if s.pair.take = .won then s.pair.takeStepsDone else [], takeGroups := s.pair.takeGroups } }

/-! ### Boot -/

/-- Change the record of power sequencing. -/
def updPwr (f : PwrSt → PwrSt) (s : State) : State := { s with pwr := f s.pwr }

/-- The measurements of what is fused or configured: 1, 5, 6 and 8 (R137), which recovery reports too (R132). -/
def identityMeas (s : State) : State :=
  s |> measPut 1 Config.romMeasurement |> configRefresh |> measPut 8 (leBytes 4 (rdN s R.SUP_ID) ++ Config.dieRevisions) |> svnRefresh

/-- The boot chain starts (R130 steps 1 and 2): the straps are sampled, SUP and VAT have power, the references are good. -/
def startBoot (s : State) : State :=
  let x := s.pwr.straps
  let prof := if x.fabProf = 7 then s.nv.fabProfile.getD 0 else x.fabProf
  let s1 : State := { s with now := 0 }
  { s1 with clk := { s1.clk with applied := setAt s1.clk.applied 1 (resetWord (R.CLK_PLL_CFG 1)) } }
    |> updPwr (fun p => { p with inReset := false, fabProfile := prof })
    |> setB F.SUP_STRAP_FLOAT (decide (x.pullUp ≠ x.pullDown)) |> setB F.SUP_STRAP_PAIR_POS (x.pullUp && x.pullDown)
    |> setB F.SUP_STRAP_PCIE_EN x.pcieEn |> setF F.SUP_STRAP_FAB_PROF x.fabProf |> setF F.SUP_STRAP_MI_ADDR x.miAddr
    |> setB F.SUP_STRAP_TEST_N x.testN |> setF (F.PWR_DOM_STATE 0) 2 |> setF (F.PWR_DOM_STATE 16) 2
    |> forN 13 (fun i s => setF (F.CLK_REF_OK i) 1 s) |> forN 2 (fun i s => setF (F.CLK_LOCKED i) 1 s) |> setF F.SUP_BOOT_STAGE 2 |> identityMeas |> listRefresh

/-- Reset ends once RESET_N is high and VSYS above power-on release. -/
def tryBoot (s : State) : State := if s.pwr.inReset ∧ s.pwr.resetN ∧ s.pwr.vsysReleased then startBoot s else s

/-! ### Up -/

/-- An engine's patch is written to its buffer; an engine whose patch does not load is out of service until the next power-up of its
domain (R131). -/
def enginePatch (d b target : Nat) (s : State) : State :=
  let s1 := { s with pwr := { s.pwr with engineDown := s.pwr.engineDown.filter (fun e => e ≠ d) } }
  match patchLoad s1 target with
  | some (some l) =>
    let s2 := { s1 with pwr := { s1.pwr with engineStore := (d, l) :: s1.pwr.engineStore.filter (fun e => e.1 ≠ d) } }
    if d = 7 then setF F.CLE_PATCHED 1 s2 else s2
  | some none => raise b 0x021C 2 0xFFFF 0 { s1 with pwr := { s1.pwr with engineDown := d :: s1.pwr.engineDown } }
  | _ => s1

/-- This device's coil, the backup coil of a partner's actuator, is energised at the bias of the last band the partner reported (R290 step 2). -/
def catchEnergise (a : Nat) (s : State) : State :=
  let b := biasTerm a (s |> setF (F.VCM_BAND a) ((s.pair.partnerBands.getD a none).getD 0))
  b.2 |> setF (F.VCM_COIL a) (ownCoil s a) |> setF (F.VCM_STATE a) 2 |> setF (F.VCM_TARGET a) ((s.pair.partnerBands.getD a none).getD 0)
    |> setF (F.VCM_ICMD a) (unsgn 16 (roundNear b.1 (2 ^ 45))) |> updVcm a (fun _ => VcmSt.reset)

/-- A head load, or a catch, that waited for its domain begins (R83, R290, R293). -/
def loadWaiting (a : Nat) (s : State) : State :=
  let v := getF s (F.VCM_STATE a)
  if s.pair.catching.contains a ∧ v = 6 then catchEnergise a s
  else if isSet s (F.VCM_LOAD a) ∧ owns s a ∧ (v = 0 ∨ v = 6) then loadHeads a s else s

/-- The heads start from their kept parameters; on an actuator of the partner's from the ones it mirrored, with the extended
ladder until they are calibrated here (R225). -/
def headParams (a : Nat) (s : State) : State :=
  (List.range 36).foldl (fun s i =>
    let h := 36 * a + i
    let s1 := (headOf s h).mirror.foldl (fun s w => wr w.1 w.2 s) s
    if fitted s h ∧ ((a / 2 ≠ devNo s ∧ (headOf s h).calRes ≠ some true) ∨ extDue s) then setF (F.HC_EXT_LADDER h) 1 s1 else s1) s

/-- The preamplifiers of an owned actuator are claimed, with FORCE or not (R188, R290). -/
def headClaims (a : Nat) (force : Bool) (s : State) : State :=
  forN 4 (fun j s => if fittedPa s (4 * a + j) then paClaim (4 * a + j) force s else s) s

/-- What a power-up begins (R131, R213, R264, R438, R482): `offline` the decoders that fail their self-test. -/
def engineOn (d : Nat) (offline : BitVec 80) (s : State) : State :=
  match d with
  | 6 =>
    let s1 := (List.range 3).foldl (fun s i => wr (R.DEC_OFFLINE i) (BitVec.ofNat 32 (bitsAt offline.toNat (32 * i) 32)) s) s
    (List.range 80).foldl (fun s n => if bitAt offline.toNat n then raise 5 0x0316 2 n 0 s else s) s1
  | 7 => s |> forN 4 (liftEscalation 0x0337) |> enginePatch 7 8 2 |> encShow
  | 8 => enginePatch 8 9 3 s
  | 9 => enginePatch 9 11 4 s
  | 11 => { s with pins := { s.pins with fabTx := !heldSafe s 11 } }
      |> forN (profilePorts s.pwr.fabProfile * profileLanes s.pwr.fabProfile) (fun l s => setF (F.FAB_LANE_PWR l) 1 s)
  | 12 => { s with pins := { s.pins with nalTx := !heldSafe s 12 } }
  | d =>
    if 2 ≤ d ∧ d ≤ 5 then
      let a := d - 2
      s |> forN 4 (fun j s => liftEscalation 0x0313 (4 * a + j) s)
        |> forN 36 (fun i s => s |> liftEscalation 0x0312 (36 * a + i) |> liftEscalation 0x0320 (36 * a + i)) |> pllApply (5 + a) |> fsLoad a |> headParams a |> (fun s => headClaims a (s.pair.catching.contains a) s) |> loadWaiting a
        |> (if s.bring.active then fun s => s else hcCommit a)
    else s

/-- A domain that powers up is on. -/
def domainUp (d : Nat) (offline : BitVec 80) (s : State) : State :=
  if getF s (F.PWR_DOM_STATE d) = 1 then
    (islandsOf d).foldl (fun s i => islandOn i s) (setF (F.PWR_DOM_STATE d) 2 s) |> engineOn d offline
  else s

end Sys2Proof.Machine
end

