-- ==== Sys2Proof/Machine/PairOps.lean ====
section
/-! DEFINITION. Operations of the pair that its rows share: what a token's owner gains and gives up (R25 to R32), what
lies on flash of a token that arrives (R42, R408), the order of a handover and of the return (R50), Bring-up's steps 5
and 6 (R38, R41, R91), the takeover's commits (R39, R532), the heartbeat (R33 to R35). -/

namespace Sys2Proof.Machine

/-- The air movers that run take a speed of the mechanism tables, whose layout the spec does not give (R26, R94). -/
def fansTo (s : State) : State :=
  forN 4 (fun f s => if fittedFan s f && isSet s (F.FAN_RUN f) then
    let x := takeFree s
    updFan f (fun y => { y with target := x.1.toNat % 65536 }) x.2 else s) s

/-! ### What lies on flash and disk -/

/-- What the partner left of a token becomes part of the tiers' lasting metadata, with the bytes of its pages and runs. -/
def adoptMeta (m : FlashMeta) (s : State) : State :=
  let t := s.tier
  m.bytes.foldl (fun s e => let k := e.1 / 2 ^ 64
                            if k = 8 ∨ (16 ≤ k ∧ k < 20) then memWrite e.1 e.2 s else s)
    { s with tier := { t with
        chans := m.chans.foldl (fun l c => setAt l c.1 c.2) t.chans
        blks := m.blks ++ t.blks.filter (fun b => !m.blks.any (fun x => decide (x.ch = b.ch ∧ x.die = b.die ∧ x.blk = b.blk)))
        pmap := m.pmap ++ t.pmap.filter (fun e => !m.pmap.any (fun x => decide (x.1 = e.1 ∧ x.2.1 = e.2.1)))
        recs := m.recs ++ t.recs.filter (fun e => !m.recs.any (fun x => decide (x.group = e.group ∧ x.rid = e.rid)))
        idx := m.idx ++ t.idx.filter (fun e => !m.idx.any (fun x => decide (x.group = e.group ∧ x.fp = e.fp)))
        defer := m.defer ++ t.defer.filter (fun e => !m.defer.contains e)
        runs := m.runs ++ t.runs.filter (fun r => !m.runs.any (fun x => decide (x.act = r.act ∧ x.band = r.band))) } }

/-- The counts of the groups that arrive: LFP count, the next LFP, RID and journal sequence, the last reduction record. -/
def adoptNext (l : List (Nat × Nat × Nat × Nat × Nat × Nat)) (s : State) : State :=
  l.foldl (fun s n =>
    let g := n.1
    let t := s.tier
    { s with tier := { t with lfpCount := setAt t.lfpCount g n.2.1, lfpNext := setAt t.lfpNext g n.2.2.1, ridNext := setAt t.ridNext g n.2.2.2.1,
                              jNext := setAt t.jNext g n.2.2.2.2.1, recSeq := setAt t.recSeq g n.2.2.2.2.2 } }) s

/-- Volumes and canals of a group that arrives. -/
def adoptVols (m : FlashMeta) (s : State) : State :=
  let v := s.volu
  { s with volu := { v with vols := m.vols ++ v.vols.filter (fun x => !m.vols.any (fun y => decide (y.num = x.num)))
                            canals := m.canals ++ v.canals.filter (fun x => !m.canals.any (fun y => decide (y.id = x.id))) } }

/-- What a sealed mirror entry that carries a record of the group's metadata changes (R374). -/
def mirrorApply (b : MirrorBody) (s : State) : State :=
  match b with
  | .write _ _ _ _ => s
  | .volume v => { s with volu := { s.volu with vols := v :: s.volu.vols.filter (fun x => x.num ≠ v.num) } }
  | .volumeGone n => { s with volu := { s.volu with vols := s.volu.vols.filter (fun x => x.num ≠ n) } }
  | .canal c => { s with volu := { s.volu with canals := c :: s.volu.canals.filter (fun x => x.id ≠ c.id) } }
  | .reduction r => updVol r.vol (fun v => { v with map :=
      match r.rid with
      | none => mapDel v.map r.chunk
      | some x =>
        let e := (mapGet v.map r.chunk).getD ⟨s.tier.eidNext, [], none, false, 0⟩
        mapPut v.map r.chunk { e with rid := some x, seqs := e.seqs.filter (fun q => some q ≠ r.seq)
                                      unindexed := r.unindexed, tag := r.tag } }) s

/-- The entry that a mirror message makes (R452). -/
def mirrorEnt (g : Nat) (seq : BitVec 32) (b : MirrorBody) : JEnt :=
  let e : JEnt := { group := g, mirror := true, seq := seq, kind := 1, volume := 0, offset := 0, canalSeq := 0,
                    payload := [], arrived := true, sealed := true, mirrored := false, flashPage := false,
                    flashPending := false, acked := false, cmd := none, chunks := [], unreadable := false, applied := false }
  match b with
  | .write v o d q => { e with volume := v, offset := o, payload := d, canalSeq := q }
  | .volume v => { e with kind := 4, volume := v.num }
  | .volumeGone n => { e with kind := 4, volume := n }
  | .canal c => { e with kind := 5, volume := c.vol }
  | .reduction _ => { e with kind := 2 }

/-- The partner's flash journal pages of a group whose sequence is newer than the last complete mirror entry follow the mirror (R453). -/
def adoptPages (l : List (Nat × BitVec 32 × MirrorBody)) (s : State) : State :=
  l.foldl (fun s e =>
    if (s.tier.mirrorLast.getD e.1 none).all (fun q => seqNewer e.2.1.toNat q) then
      mirrorApply e.2.2 { s with
        journal := s.journal ++ [{ mirrorEnt e.1 e.2.1 e.2.2 with flashPage := true }]
        tier := { s.tier with mirrorLast := setAt s.tier.mirrorLast e.1 (some e.2.1.toNat) } }
    else s) s

/-- All that the partner left. -/
def adopt (m : FlashMeta) (s : State) : State := s |> adoptMeta m |> adoptNext m.next |> adoptVols m |> adoptPages m.jpages

/-- A rejoining device discards what it holds of a group whose token the partner took (R44). -/
def discardGroup (g : Nat) (s : State) : State :=
  let gone (v : Nat) : Bool := (volOf s v).any (fun x => decide (x.group = g))
  let t := s.tier
  { s with
    journal := s.journal.filter (fun e => decide (e.group ≠ g))
    volu := { s.volu with vols := s.volu.vols.filter (fun v => decide (v.group ≠ g)), canals := s.volu.canals.filter (fun c => !gone c.vol) }
    tier := { t with pmap := t.pmap.filter (fun e => decide (e.1 ≠ g)), recs := t.recs.filter (fun e => decide (e.group ≠ g)),
                     idx := t.idx.filter (fun e => decide (e.group ≠ g)), defer := t.defer.filter (fun e => decide (e.group ≠ g)),
                     mirrorLast := setAt t.mirrorLast g none } }

/-- It likewise discards what it holds of an actuator, its run map, and of a flash channel, its block table (R44). -/
def discardActuator (a : Nat) (s : State) : State := { s with tier := { s.tier with runs := s.tier.runs.filter (fun r => decide (r.act ≠ a)) } }
def discardChannel (c : Nat) (s : State) : State := { s with tier := { s.tier with blks := s.tier.blks.filter (fun b => decide (b.ch ≠ c)) } }

/-! ### Groups -/

/-- The page map of a group is loaded, or not (R409). -/
def fpmReady (g : Nat) (b : Bool) (s : State) : State := setB ⟨F.FPM_READY.addr, F.FPM_READY.lo + g, 1⟩ b s

/-- The map changes of complete journal entries that have not taken effect yet, in sequence order (R42, R348). -/
def replayGroup (g : Nat) (s : State) : State :=
  (s.journal.filter (fun e => !e.mirror && e.sealed && !e.applied && decide (e.group = g))).foldl (fun s e =>
    updJrn g e.seq.toNat (fun e => { e with applied := true })
      (if e.kind = 1 then applyWrite e.volume e.seq.toNat e.offset e.payload.length s else s)) s

/-- The filter of a group that has just come to this device, or left it, is empty (R341, R343). -/
def filterEmpty (g : Nat) (s : State) : State :=
  setF (F.RED_FLT_INS g) 0 { s with red := { s.red with filter := setAt (setAt s.red.filter (2 * g) []) (2 * g + 1) [] } }

/-- A group's mirror entries become own entries, and take effect in the partner's order; an incomplete last one is discarded
(R42). While the partner lives its copies stand as the second ones. The group's source canals connect again. -/
def gainGroup (g : Nat) (s : State) : State :=
  let alive := partnerAlive s && isSet s F.NAL_UP
  let js := s.journal.filter (fun e => !(e.mirror && decide (e.group = g) && !e.sealed))
  let last := s.tier.mirrorLast.getD g none
  let s1 := { s with
    journal := js.map (fun e => if e.mirror && decide (e.group = g) then
        { e with mirror := false, mirrored := alive, flashPending := !alive && !e.flashPage, acked := true, cmd := none,
                 chunks := if e.kind = 1 then chunksOf e.offset e.payload.length else [] } else e)
    tier := { s.tier with
      mirrorLast := setAt s.tier.mirrorLast g none
      jNext := match last with
        | some q => setAt s.tier.jNext g ((q + 1) % 2 ^ 32)
        | none => s.tier.jNext } }
  let s2 := s1 |> filterEmpty g |> replayGroup g |> fpmReady g true
  let mine := s2.volu.canals.filter (fun c => c.source && decide (c.state < 4 ∧ c.setup = 0) && (volOf s2 c.vol).any (fun v => decide (v.group = g)))
  mine.foldl (fun s c => canalConnect c s) s2 |> jRelease

/-- A group has gone to the partner: own entries stay as its mirror, its canals' connections close. -/
def loseGroup (g : Nat) (s : State) : State :=
  let j := s.tier.jNext.getD g 0
  let s1 : State := { s with
    journal := s.journal.map (fun e => if !e.mirror && decide (e.group = g) then { e with mirror := true, cmd := none } else e)
    tier := { s.tier with mirrorLast := setAt s.tier.mirrorLast g (some ((j + 2 ^ 32 - 1) % 2 ^ 32)) } }
  let gone := s1.volu.canals.filter (fun c => decide (c.setup ≠ 0) && (volOf s1 c.vol).any (fun v => decide (v.group = g)))
  gone.foldl (fun s c => canalDrop c.id s) s1 |> filterEmpty g |> fpmReady g false

/-! ### Channels and actuators -/

/-- A channel is acquired: driven from now on, and trained (R25, R406). -/
def gainChannel (c : Nat) (s : State) : State :=
  setF (F.FC_STATE c) 1 { s with pins := { s.pins with flashDrive := setAt s.pins.flashDrive c (!heldSafe s 4) } }

/-- A channel is no longer driven. -/
def dropChannel (c : Nat) (s : State) : State :=
  setF (F.FC_STATE c) 0 { s with pins := { s.pins with flashDrive := setAt s.pins.flashDrive c false } }

/-- The speed-loop master role moves with token 0 (R28); the holder's set drives. -/
def gainSpindle (s : State) : State :=
  let s1 := s |> setB F.SPN_MASTER (decide (4 ≤ spnState s ∧ spnState s ≤ 6)) |> setF F.NAL_TORQUE_LOCAL 0
  if spindleDue s1 then spnBring s1 else s1

/-- An actuator comes to this device: a blend ends and its bridge tracks from the last command, or its heads are parked; its
preamplifiers are claimed, with FORCE in a takeover (R24, R39, R289). -/
def gainActuator (a : Nat) (force : Bool) (s : State) : State :=
  let s1 := setF (F.VCM_COIL a) (ownCoil s a) s
  let s2 := match s1.pair.blends.getD a none with
    | some _ => s1 |> updPair (fun p => { p with blends := setAt p.blends a none }) |> setF (F.VCM_STATE a) 3 |> setF (F.VCM_LOAD a) 1
    | none => setF (F.VCM_STATE a) 0 s1
  headClaims a force (if a = 0 then gainSpindle s2 else s2)

/-- An actuator is no longer driven: its preamplifiers are released and its bridge floats; on the ramp it stays parked. -/
def dropActuator (a : Nat) (s : State) : State :=
  let s1 := forN 4 (fun j s => if fittedPa s (4 * a + j) then paRelease (4 * a + j) s else s) s
  let s2 := setF (F.VCM_LOAD a) 0 (if getF s1 (F.VCM_STATE a) = 0 then s1 else setF (F.VCM_STATE a) 6 s1)
  if a = 0 then setF F.SPN_MASTER 0 s2 else s2

/-! ### Transfers (R29 to R31) -/

/-- The new owner drives what it has committed. -/
def gainToken (t : Nat) (s : State) : State :=
  if t < 4 then gainActuator t false s else if t < 8 then gainGroup (t - 4) s else gainChannel (t - 8) s

/-- The old owner stops driving what it is about to release. -/
def dropToken (t : Nat) (s : State) : State :=
  if t < 4 then dropActuator t s else if t < 8 then s else dropChannel (t - 8) s

/-- New commands of one group wait at the Headgate (R31 step 1, R50 step 2), or no longer. -/
def groupHoldSet (g : Nat) (b : Bool) (s : State) : State :=
  { s with host := { s.host with groupHold := setAt s.host.groupHold g b } }

/-- No admitted command of a group is left. -/
def groupDrained (s : State) (g : Nat) : Bool :=
  !s.host.cmds.any (fun c => decide (c.stage = 1 ∨ c.stage = 2) && (volOf s c.vol).any (fun v => decide (v.group = g)))

/-- The old owner has given a token up for good: moves that need it are abandoned (R424). -/
def loseToken (t : Nat) (s : State) : State :=
  if t < 4 then s |> abandonMoves (moveOnActuator t) |> updPair (fun p => { p with blends := setAt p.blends t none }) |> hcaIdle t
  else if t < 8 then s |> abandonMoves (fun m => decide (m.group = t - 4)) |> groupHoldSet (t - 4) false |> loseGroup (t - 4)
  else abandonMoves (moveOnChannel (t - 8)) s

/-- The write pointers of a channel's open blocks (R408). -/
def openBlks (s : State) (c : Nat) : List Nat :=
  (s.tier.blks.filter (fun b => decide (b.ch = c ∧ b.state = 3))).flatMap (fun b => [b.die, b.blk, b.next])

/-- Steps 1 and 2 of R31. -/
def tokRelease (t : Nat) (s : State) : State :=
  let r := tok s t
  let ptrs := if 8 ≤ t then openBlks s (t - 8) else []
  s |> dropToken t |> setTok t { r with state := .releasing } |> nalSend 1 1 ([t, r.epoch.toNat] ++ ptrs) |> anaRefresh

/-- Whether the partner's epoch is newer than this device's, and whether the tie of R29 decided it. `ownedP`, `ownedHere`:
the record there, or here, is OWNED. -/
def epochNewer (s : State) (e here : BitVec 16) (ownedP ownedHere : Bool) : Bool × Bool :=
  if (e - here).toNat = 32768 then ((ownedP && !ownedHere) || (ownedP == ownedHere && decide (devNo s = 1)), true)
  else (newer 16 e.toNat here.toNat, false)

/-- The tie of R29 is logged. -/
def tieLog (t : Nat) (tie : Bool) (s : State) : State := if tie then raise 15 0x0A18 2 t 0 s else s

/-- This device may commit tokens (R41): no TAKE_ACK before its step 5 of Bring-up has ended well. -/
def willing (s : State) : Bool :=
  ctlMode s && isSet s F.VAT_READY && !s.pwr.hold && !isSet s F.SUP_SAFE_ACTIVE
    && (decide (mode s ≠ 2) || (step5Over s && !s.bring.fenceFailed && decide (s.bring.attestOwn = some true ∧ s.bring.attestPartner = some true)))

/-- Tokens still to be given, in the order of R50: groups, channels, actuators. -/
def giveAll (s : State) : List Nat :=
  let l := usedTokens.filter (owns s)
  l.filter (fun t => tokKind t = 1) ++ l.filter (fun t => tokKind t = 2) ++ l.filter (fun t => tokKind t = 0)

/-- A token may be released now: it is owned and quiet (R31 step 1), every token to be given before it is of its kind, the
handover has drained (R50 step 2), and of the channels one is transferred at a time. -/
def giveReady (s : State) (t : Nat) : Bool :=
  owns s t && s.pair.give.contains t && isSet s F.NAL_UP
    && (s.pair.give.takeWhile (fun x => x ≠ t)).all (fun x => decide (tokKind x = tokKind t))
    && s.pair.handover.all (fun h => decide (2 < h.step))
    && (decide (tokKind t ≠ 1) || groupDrained s (t - 4))
    && (decide (tokKind t ≠ 2) || !usedTokens.any (fun x => decide (8 ≤ x ∧ (tok s x).state = .releasing)))

/-- The owners of Full: every token with its default owner. -/
def defaultsHeld (s : State) : Bool := usedTokens.all (fun t => owns s t == decide (tokDefault t = devNo s))

/-! ### Steps (R88, R91) -/

/-- Step 6 begins once step 5 has ended, or is skipped for want of a partner: the owned channels are acquired. -/
def step6Begin (s : State) : State :=
  let alone := !isSet s F.NAL_UP && !isSet s F.NAL_HB_OK
  if s.bring.active && isSet s F.VAT_READY && engOn s 8 && (step5Over s || alone || decide (mode s = 4)) then
    (List.range 32).foldl (fun s c => if owns s (8 + c) ∧ getF s (F.FC_STATE c) = 0 then gainChannel c s else s) s
  else s

/-- Step 8 (R91, R18, R20): the token-0 holder starts or catches the spindle. -/
def bringSpin (s : State) : State :=
  let b := s.bring
  if b.active && b.replayed && !b.spindle && b.descOk && !b.descDiffer && s.pwr.startPermitted && !s.nv.startFallow then
    s |> updBring (fun b => { b with spindle := true }) |> spnBring
  else s

/-- The mirror of the Vat works once both devices have passed step 5 (R92): entries without a copy are sent. -/
def mirrorRise (s : State) : State :=
  let past := (!s.bring.active || step5Over s) && decide (5 ≤ s.bring.partnerStep)
  if isSet s F.VAT_READY && isSet s F.NAL_UP && past && ctlMode s && !isSet s F.VAT_MIRROR_UP then
    (s.journal.filter (fun e => !e.mirror && !e.mirrored)).foldl (fun s e =>
      nalSend 2 1 ([e.group, e.seq.toNat, e.kind, e.volume, e.offset, e.payload.length] ++ e.payload.map (fun b => b.toNat)) s) (setF F.VAT_MIRROR_UP 1 s)
  else s

/-- Step 5 has ended: step 6 follows, and the partner is told. -/
def step5End (s : State) : State := if step5Over s then s |> step6Begin |> tellStep |> mirrorRise else s

/-- A result of the attestation is known: a survivor whose partner has passed its checks releases its fence, and returns the
tokens once the partner has accepted it too; a device in Bring-up goes on (R44, R142). -/
def attested (s : State) : State :=
  if s.bring.active then step5End s
  else if s.bring.attestOwn = some true ∧ s.pair.take = .idle then
    s |> updPair (fun p => { p with fenceOut := false }) |> returnStart
  else s

/-! ### The fence loop test (R38) -/

/-- This device's own assertion begins. -/
def pulseStart (s : State) : State :=
  updPair (fun p => { p with fenceOut := true, test := { p.test with pulsing := true } }) s

/-- Both directions are known: the test ends, and the device reacts to the fence from now on. -/
def testConclude (s : State) : State :=
  match s.pair.test.own, s.pair.test.theirs with
  | some a, some b =>
    let s1 := updPair (fun p => { p with test := FenceTest.idle, fenceArmed := true, fenceOut := false }) s
    let s2 := if a && b then updBring (fun x => { x with fenceTested := true }) s1
      else s1 |> setF F.NAL_FENCE_TEST_FAIL 1 |> updBring (fun x => { x with fenceFailed := true }) |> raise 15 0x0A16 2 0xFFFF 0
    if s2.pair.fenceIn then fenceReaction s2 else step5End s2
  | _, _ => s

/-- The compare of the two CHECK values (R20): up to three readings more, then 0x0A14 and no spindle. -/
def checkCompare (s : State) : State :=
  match s.bring.partnerCheck with
  | none => s
  | some (c, ok) =>
    if !s.bring.descRead then s
    else
      let mine := (s.desc.map (fun d => d.check)).getD 0
      if s.bring.descOk && ok && decide (c ≠ mine) then
        if s.bring.rereads < 3 then
          updBring (fun b => { b with rereads := b.rereads + 1, descRead := false, partnerCheck := none }) s
        else s |> updBring (fun b => { b with descDiffer := true, checked := true }) |> raise 15 0x0A14 2 0xFFFF 0 |> step5End
      else s |> updBring (fun b => { b with checked := true, descDiffer := false }) |> step5End

/-- Step 5 begins on a trained link (R41, R91): the fence is sampled, the test starts, the CHECK is sent, the partner is
attested. A survivor that holds its fence attests only (R44). -/
def step5Start (s : State) : State :=
  let done := s.bring.fenceTested || s.bring.fenceFailed
  let due := s.bring.active || (survivor s && !s.pair.fenceOut)
  if done ∨ s.pair.test.running then s
  else if due then
    if s.pair.fenceIn then fenceReaction s
    else
      let s1 := updPair (fun p => { p with test := { FenceTest.idle with running := true } }) s
      let s2 := if devNo s = 0 then pulseStart s1 else s1
      s2 |> (if s.bring.descRead then nalSend 1 9 [(s.desc.map (fun d => d.check)).getD 0, b2n s.bring.descOk] else fun s => s) |> startAttest
  else if survivor s then startAttest s
  else s

/-! ### Solo and the takeover (R39, R532) -/

/-- New commands of the groups that this device holds wait at the Headgate (R50 step 2), or no longer. -/
def holdGroups (b : Bool) (s : State) : State :=
  { s with host := { s.host with groupHold := [b && holdsGroup s 0, b && holdsGroup s 1] } }

/-- A partner that comes again is tested and attested anew. -/
def pairFresh (s : State) : State :=
  updBring (fun b => { b with fenceTested := false, fenceFailed := false, attestOwn := none, attestPartner := none, partnerStep := 0 }) s

/-- The last-good-boot record (R139). -/
def recordBoot (s : State) : State :=
  let s1 : State := { s with nv := { s.nv with lastGood := some ⟨measGet s 2, measGet s 3, measGet s 4, measGet s 5, s.now⟩ } }
  { s1 with boot := { s1.boot with recorded := true } }

/-- The device enters Solo. -/
def enterSolo (s : State) : State :=
  s |> recordBoot |> pairFresh |> setF F.PWR_MODE_CUR 4 |> updPair (fun p => { p with handover := none, give := [] }) |> holdGroups false |> fansTo |> tellStep |> anaRefresh

/-- The device enters Full. -/
def enterFull (s : State) : State := s |> recordBoot |> setF F.PWR_MODE_CUR 3 |> tellStep |> anaRefresh

/-- A partner's actuator after a commit: a blend goes on as the survivor's, heads that were on a turning disk are caught
(R290), others stay on the ramp. Where this device cannot turn the spindle the heads are retracted (R22). -/
def takeActuator (a : Nat) (s : State) : State :=
  let s1 := s |> setF (F.VCM_COIL a) (ownCoil s a) |> (if a = 0 then gainSpindle else fun s => s)
  let out := (s1.pair.partnerBands.getD a none).isSome && fittedAct s1 a
  if noDisk s then s1 |> headClaims a true |> (if out then retract a else fun s => s)
  else if (s.pair.blends.getD a none).isSome then gainActuator a true s
  else if out && decide (0 < getF s1 F.SPN_RPM ∧ mode s1 ≠ 5) then
    let s2 := s1 |> updPair (fun p => { p with catching := p.catching ++ [a] }) |> setF (F.VCM_STATE a) 6 |> setF (F.VCM_LOAD a) 1
    if domOn s2 (2 + a) then s2 |> headClaims a true |> catchEnergise a else domUp (2 + a) s2
  else headClaims a true s1

/-- The epoch of a takeover commit (R532). -/
def takeEpoch (r : TokRec) : BitVec 16 := if r.state = .partner then r.epoch + 1 else r.epoch + 2

/-- Step 8: every token whose record is not OWNED is committed; step 12 replays the groups among them. -/
def takeCommit (s : State) : State :=
  usedTokens.foldl (fun s t =>
    let r := tok s t
    if r.state = .owned then s
    else
      let s1 := setTok t ⟨.owned, devNo s, takeEpoch r⟩ s
      if t < 4 then takeActuator t s1
      else if t < 8 then s1 |> updPair (fun p => { p with takeGroups := p.takeGroups ++ [t - 4] })
      else gainChannel (t - 8) s1) s

/-- The heads of a device that can no longer turn the spindle unload, and what waits for the disk ends (R22). -/
def noDiskUnload (s : State) : State :=
  if noDisk s then forN 4 (fun a s => (if owns s a ∧ (bandOf s a).isNone then unloadHeads a s else s) |> diskFail a 0x0A15) s else s

/-- A survivor in Bring-up at step 7: Solo at once where it was asked for and the mechanism is known, else once Bring-up completes
(R4, R88, R90). -/
def wonInBringup (s : State) : State :=
  if s.pair.takeSolo ∧ s.bring.descOk then s |> enterSolo |> mbxFinish (isModeSet 2) (resStatus 0)
  else s |> updBring (fun b => { b with tookOver := true }) |> fansTo
    |> (if s.pair.takeSolo ∧ s.bring.descRead then mbxFinish (isModeSet 2) (resStatus 0x0012) else fun s => s)

/-- Step 7: the arbitration is won. -/
def takeoverWon (s : State) : State :=
  let was := s.pwr.target
  let s1 := s |> updPair (fun p => { p with take := .won, takeStepsDone := [], takeGroups := [], handover := none, give := [] }) |> holdGroups false
    |> updPwr (fun p => { p with target := none, wakePending := p.wakePending || (was.isSome && decide (mode s = 5)) }) |> setF F.PWR_MODE_BUSY 0
    |> (if was.isSome then mbxFinish (fun c => decide (c.opcode.toNat = 0x0100)) (resStatus 0x0012) else fun s => s)
  let s2 := match mode s1 with
    | 2 => wonInBringup s1
    | 3 => s1 |> enterSolo
    | 4 => pairFresh s1
    | _ => s1 |> pairFresh |> setF F.PWR_MODE_PRIOR 4 |> fansTo
  let s3 := s2 |> takeCommit |> step6Begin |> noDiskUnload |> anaRefresh
  wakeGo (if spindleDue s3 then s3 |> spnBring |> loadAll else s3)

/-! ### The heartbeat (R33 to R35, R46) -/

/-- A heartbeat frame of this device. -/
def hbWord (s : State) : BitVec 16 :=
  let x := 0xB * 256 + hbState s * 32 + b2n s.pair.fenceOut * 16 + s.pair.hbSeq.toNat
  BitVec.ofNat 16 (x * 16 + crc4 (msbBits 12 x))

/-- A frame is valid: SYNC and CRC match, STATE is not reserved. -/
def hbValid (w : BitVec 16) : Bool :=
  decide (bitsAt w.toNat 12 4 = 0xB ∧ bitsAt w.toNat 0 4 = crc4 (msbBits 12 (w.toNat / 16)) ∧ bitsAt w.toNat 9 3 < 6)

/-- The heartbeat is lost (R35, R39): a takeover may start, a device in Bring-up goes on alone, and a survivor's partner will
start anew. -/
def hbLoss (s : State) : State :=
  s |> updPair (fun p => { p with hbLost := true, hbRxSeq := none }) |> setF F.NAL_HB_OK 0
    |> (if survivor s ∧ s.pair.take = .idle then
          pairFresh else fun s => s)
    |> takeoverStart |> step6Begin

/-- A valid frame's content (R33 to R35): FAILED is a loss at once; HANDOVER makes a device in Full the receiver (R50). -/
def hbTake (w : BitVec 16) (s : State) : State :=
  let st := bitsAt w.toNat 9 3
  let s1 := updPair (fun p => { p with hbSeen := true, partnerHb := st, hbLost := false }) s
  let s2 := if domOn s1 12 then setF F.NAL_HB_OK 1 s1 else s1
  if st = 3 then hbLoss s2
  else if st = 2 ∧ mode s2 = 3 ∧ s2.pair.handover = none then anaRefresh (updPair (fun p => { p with handover := some ⟨false, 2⟩ }) s2)
  else s2

/-- A heartbeat fault (R39, R46): the spec gives it no code; one of the pair's range that no rule uses (R15). -/
def hbFault (s : State) : State :=
  let f := takeFree s
  raise 15 (0x0A1A + f.1.toNat % 0xE6) 2 0xFFFF 0 f.2

end Sys2Proof.Machine
end

