-- ==== Sys2Proof/Machine/Boot.lean ====
section
/-! DEFINITION. The rows of the boot chain (R130 to R134, R101, R269, R481). -/

namespace Sys2Proof.Machine

/-- Change the record of the boot chain. -/
def updBoot (f : BootSt → BootSt) (s : State) : State := { s with boot := f s.boot }

/-- The boot chain stands at a step of R130. -/
def bootStage (s : State) : Nat := getF s F.SUP_BOOT_STAGE

/-- FW_STAGE (R144, R164); in recovery the ROM restarts the device after a successful stage (R132). -/
def execFwStage (m : Fin 16) (s : State) : Out :=
  let s1 := fwStageRow m s
  .next (if s1.boot.restart then s1 |> send .restart |> enterReset |> tryBoot else s1)

/-- BOOT_SUPERVISOR_VERIFIED (R130 step 3, R132, R133). -/
def execBootSupervisorVerified (s : State) : Out :=
  if !live s || decide (bootStage s ≠ 2) || isSet s F.SUP_BOOT_RECOVERY then .next s
  else
    let c := bootChoose 1 (fun s => firmwareCheck s 1) s
    match c.1 with
    | none => .next (setF F.SUP_BOOT_RECOVERY 1 c.2)
    | some n =>
      let b := slotBytes c.2 1 n
      .next (c.2 |> updBoot (fun x => { x with supRun := n }) |> measPut 2 (fwMeasure b)
        |> setF F.SUP_SVN_RUN_SUP ((firmwareOf b).elim 0 (fun i => imgSvn i.1)) |> setF F.SUP_BOOT_STAGE 3)

/-- The power-fail record in the PWR_PF registers (R101). -/
def pfLoad (s : State) : State :=
  match s.nv.pf with
  | none => s
  | some r => s |> wr R.PWR_PF_TIME_LO (r.time.truncate 32) |> wr R.PWR_PF_TIME_HI ((r.time >>> 32).truncate 32) |> setF F.PWR_PF_VALID 1
    |> setB F.PWR_PF_SHORT r.short |> setB F.PWR_PF_PARKED r.parked |> setB F.PWR_PF_SEALED r.sealed |> setF F.PWR_PF_MODE r.mode |> setF F.PWR_VSYS_PF 1

/-- The trigger of Bring-up (R88, R130): not with TEST_N = 0 or a floating PAIR_POS (R68, R69). -/
def bootTrigger (s : State) : State :=
  if isSet s F.SUP_STRAP_TEST_N && !isSet s F.SUP_STRAP_FLOAT then s |> updBoot (fun x => { x with trigger := true }) |> setF F.PWR_MODE_BUSY 1 else s

/-- BOOT_DORMANT_ENTERED (R130 steps 4 and 5, R88, R101, R137): the nonvolatile configuration and the records of the Vat are
loaded. -/
def execBootDormantEntered (s : State) : Out :=
  if !live s || decide (bootStage s ≠ 3) then .next s
  else
    let s1 := s |> updBoot (fun x => { x with loaded := true }) |> setF F.SUP_BOOT_STAGE 5 |> setF F.PWR_MODE_CUR 1 |> pfLoad
      |> identityMeas |> svnRefresh |> listRefresh |> slotRefresh
    .next (if s.nv.autoStart then bootTrigger s1 else s1)

/-- BOOT_CONTROL_VERIFIED (R130 step 6, R132 to R134, R165): the bundle with its patches; both slots failing leave the device in
Dormant. -/
def execBootControlVerified (s : State) : Out :=
  if !s.boot.trigger || decide (bootStage s ≠ 5 ∨ mode s ≠ 1) then .next s
  else
    let s0 := s |> setF (F.PWR_DOM_REQ_ON 1) 1 |> setF (F.PWR_DOM_STATE 1) 2
    let c := bootChoose 2 (fun s => slotCheck s 2) s0
    match c.1 with
    | none => .next (c.2 |> bootFailed 0x0219 |> updBoot (fun x => { x with trigger := false }) |> ctlOff |> setF F.PWR_MODE_BUSY 0
        |> mbxFinish (isModeSet 1) (resStatus 0x0219) |> slotRefresh)
    | some n =>
      let b := slotBytes c.2 2 n
      .next (c.2 |> updBoot (fun x => { x with ctlRun := n }) |> measPut 3 (fwMeasure b)
        |> setF F.SUP_SVN_RUN_CTL ((firmwareOf b).elim 0 (fun i => imgSvn i.1)) |> svnRefresh |> slotRefresh |> listRefresh
        |> setF F.SUP_BOOT_STAGE 6)
where
  /-- The domain of the control cluster goes off again. -/
  ctlOff (s : State) : State := domReset 1 s

/-- The fault groups of the power-fail record that the log does not hold yet are logged (R481). -/
def pfLog (s : State) : State :=
  match s.nv.pf with
  | none => s
  | some r =>
    let word (b k : Nat) : Word := ((r.groups.find? (fun e => e.1 = groupBase b + 4 * k)).map (fun e => e.2)).getD 0
    (List.range 21).foldl (fun s b =>
      let w := (word b 0).toNat
      let e : FaultEntry := { code := bitsAt w 0 16, cls := bitsAt w 28 2, block := b, inst := bitsAt (word b 3).toNat 16 16,
                              aux := bitsAt (word b 3).toNat 0 16, time := BitVec.ofNat 64 ((word b 1).toNat + (word b 2).toNat * 2 ^ 32) }
      if bitAt w 31 && !s.nv.faultLog.any (fun x => decide (x.code = e.code ∧ x.block = b ∧ x.time = e.time)) then logAppend e s else s) s

/-- What the entry to Bring-up does: the domains of R83 power up, the token records are loaded (R55), the Supervisor sets the MOT
island (R269), and a stored fabric profile is taken (R78). -/
def bringEnter (s : State) : State :=
  let x := s.pwr.straps.fabProf
  { s with bring := { BringSt.reset with active := true }, boot := { s.boot with recorded := false },
           pwr := { s.pwr with fabProfile := if x = 7 then s.nv.fabProfile.getD 0 else x } }
    |> wr (R.CLK_PLL_CFG 2) 0x28A00000 |> sscStore 0 (BitVec.ofNat 32 (rdN s R.CLK_SSC_MOT % 256 + 10 * 256))
    |> setF F.PWR_MODE_CUR 2 |> setF F.VAT_READY 1 |> setF F.RACK_FLASH_RO 0
    |> forN 9 (fun i s => if i = 6 ∧ isSet s F.SUP_STRAP_PCIE_EN = false then s else domUp1 (7 + i) s)

/-- BOOT_PATCHES_VERIFIED (R130 steps 7 to 9): the cores run, the watchdog is armed (R484), and Bring-up begins. -/
def execBootPatchesVerified (s : State) : Out :=
  if !s.boot.trigger || decide (bootStage s ≠ 6) then .next s
  else
    let b := slotBytes s 2 s.boot.ctlRun
    let proto := (firmwareOf b).elim (0, 0) (fun i => imgProto i.1)
    .next (s |> measPut 4 (patchMeasure b) |> setF F.SUP_BOOT_STAGE 9 |> updBoot (fun x => { x with trigger := false })
      |> updPair (fun p => { p with protoRange := proto, proto := none })
      |> updPwr (fun p => { p with coresRunning := true, wedged := false, wdtAt := s.now.toNat }) |> listRefresh |> bringEnter |> pfLog
      |> setF F.PWR_MODE_BUSY 0 |> mbxFinish (isModeSet 1) (resStatus 0) |> anaRefresh)

end Sys2Proof.Machine
end

