-- ==== Sys2Proof/Machine/Bringup.lean ====
section
/-! DEFINITION. The rows of Bring-up from step 4 on (R18 to R20, R38, R41, R54, R70, R91, R142, R380, R411, R448). -/

namespace Sys2Proof.Machine

/-! ### Step 4 -/

/-- DRAM_TRAINING_DONE (R448): the rate in MT/s, the capacity in GiB, the channels in use; the retirement list applies (R446). -/
def execDramTrainingDone (ok : Bool) (rate : BitVec 13) (cap : BitVec 10) (channels : BitVec 4) (s : State) : Out :=
  if !s.bring.active || s.bring.dramTrained || !domOn s 15 then .next s
  else if ok then
    .next (s |> setF F.DRC_STATE 2 |> setF F.DRC_RATE_MTS rate.toNat |> setF F.DRC_CAP_GIB cap.toNat |> setF F.DRC_CH_MASK channels.toNat
      |> setF F.DRC_RETIRED_PAGES (s.nv.retired.filter (fun e => e.1 = 3)).length
      |> updBring (fun b => { b with dramTrained := true }) |> fillCellar)
  else .next (s |> setF F.DRC_STATE 4 |> raise 20 0x0819 3 0xFFFF 0)

/-! ### The mechanism descriptor (R18, R20) -/

/-- PREAMP_MASK as derived from the fitted heads (R18, R19). -/
def preampMask (acts surf : Nat) : Nat :=
  (List.range 16).foldl (fun m p => if p / 4 < acts ∧ 9 * (p % 4) < surf then m + 2 ^ p else m) 0

/-- The fields of a descriptor. -/
def descOf (b : DescBytes) : Desc :=
  { actuators := leAt b 0x08 1, surfaces := leAt b 0x09 1, windingSets := leAt b 0x0A 1, airMoverMask := leAt b 0x0B 1,
    rpmNominal := leAt b 0x0C 2, wedges := leAt b 0x0E 2, polePairs := leAt b 0x10 1, encoderSensors := leAt b 0x11 1,
    preampMask := leAt b 0x12 2, spnImaxMa := leAt b 0x14 2, vcmImaxMa := leAt b 0x16 2, vcmPriMohm := leAt b 0x18 2,
    vcmBkpMohm := leAt b 0x1A 2, tablesPtr := leAt b 0x1C 4, serial := slice b 0x20 16, check := leAt b 0xFC 4 }

/-- Every field holds a valid value, and CHECK matches (R18). SERIAL counts as ASCII with the codes 0x20 to 0x7E, whose
padding is not looked at (DESIGN CHOICE, log entry 95). -/
def descValid (b : DescBytes) : Bool :=
  let d := descOf b
  let heads := d.actuators * d.surfaces
  decide (b.length = 256 ∧ leAt b 0 4 = 0x31444D56 ∧ leAt b 4 2 = 1 ∧ leAt b 6 2 = 0x100)
    && decide (1 ≤ d.actuators ∧ d.actuators ≤ 4 ∧ 2 ≤ d.surfaces ∧ d.surfaces ≤ 36 ∧ 8 ≤ heads ∧ heads ≤ 144)
    && decide ((d.windingSets = 1 ∨ d.windingSets = 2) ∧ 3600 ≤ d.rpmNominal ∧ d.rpmNominal ≤ 7200 ∧ 64 ≤ d.wedges ∧ d.wedges ≤ 768)
    && decide (2 ≤ d.polePairs ∧ d.polePairs ≤ 16 ∧ (d.encoderSensors = 1 ∨ d.encoderSensors = 3))
    && decide (d.preampMask = preampMask d.actuators d.surfaces ∧ 500 ≤ d.spnImaxMa ∧ d.spnImaxMa ≤ 3000)
    && decide (100 ≤ d.vcmImaxMa ∧ d.vcmImaxMa ≤ 4000 ∧ 1000 ≤ d.vcmPriMohm ∧ d.vcmPriMohm ≤ 20000)
    && decide (1000 ≤ d.vcmBkpMohm ∧ d.vcmBkpMohm ≤ 20000 ∧ 0x100 ≤ d.tablesPtr)
    && d.serial.all (fun c => decide (0x20 ≤ c.toNat ∧ c.toNat < 0x7F)) && (slice b 0x30 204).all (fun c => c = 0)
    && decide (d.check = crc32c (b.take 0xFC))

/-- DESCRIPTOR_READ_DONE (R18, R20): the reading is validated, its CHECK goes to the partner, and the two are compared. An
invalid one leaves the device without a mechanism (R4). -/
def execDescriptorReadDone (bytes : DescBytes) (s : State) : Out :=
  if !s.bring.active || s.bring.descRead then .next s
  else
    let ok := descValid bytes
    let s1 := { s with desc := if ok then some (descOf bytes) else none } |> updBring (fun b => { b with descRead := true, descOk := ok })
    let s2 := if !ok && s1.bring.tookOver then mbxFinish (isModeSet 2) (resStatus 0x0012) s1 else s1
    .next (s2 |> encShow |> nalSend 1 9 [leAt bytes 0xFC 4, b2n ok] |> checkCompare |> bringSpin)

/-- DESCRIPTOR_CHECK_RECEIVED (R20): the partner's CHECK, and whether its descriptor is valid. -/
def execDescriptorCheckReceived (check : BitVec 32) (valid : Bool) (s : State) : Out :=
  if !s.bring.active || !isSet s F.NAL_UP then .next s
  else .next (s |> updBring (fun b => { b with partnerCheck := some (check.toNat, valid) }) |> checkCompare |> bringSpin)

/-! ### Nalyn training (R54, R70) -/

/-- The widest of 16, 8, 4 and 1 lanes for which that many good lanes exist, as NAL_WIDTH. -/
def widthOf (lanes : BitVec 16) : Nat :=
  let n := ((List.range 16).filter (fun i => lanes.getLsbD i)).length
  if 16 ≤ n then 4 else if 8 ≤ n then 3 else if 4 ≤ n then 2 else if 1 ≤ n then 1 else 0

/-- The partner's token records (token, OWNED, epoch) against this device's own (R29, R44): a device that rejoins discards what
it holds of a token whose epoch is newer there. -/
def recCompare (recs : List (Nat × Bool × BitVec 16)) (s : State) : State :=
  recs.foldl (fun s x =>
    let t := x.1
    let r := tok s t
    let c := epochNewer s x.2.2 r.epoch x.2.1 (decide (r.state = .owned))
    if !tokUsed t then s
    else
      let s1 := tieLog t c.2 s
      if c.1 && s1.bring.active then
        let s2 := setTok t ⟨.partner, 1 - devNo s1, x.2.2⟩ s1
        if t < 4 then discardActuator t s2 else if t < 8 then discardGroup (t - 4) s2 else s2 |> discardChannel (t - 8) |> dropChannel (t - 8)
      else s1) s

/-- A QUERY for every token that stays RELEASING (R31). -/
def queryAll (s : State) : State :=
  usedTokens.foldl (fun s t => if (tok s t).state = .releasing then nalSend 1 4 [t, (tok s t).epoch.toNat] s else s) s

/-- The brick identifiers of the pair (R380). -/
def brickCompare (b : BitVec 17) (s : State) : State :=
  let p := if b.toNat = 0x1FFFF then none else some b.toNat
  let differ := decide (p ≠ s.nv.brickId)
  { s with volu := { s.volu with pairBrick := p, brickDiffer := differ } } |> (if differ then raise 15 0x071A 2 0xFFFF 0 else fun s => s)

/-- The link is trained: what the devices exchange over it, and what waited for it; with the heartbeat lost the partner is
pinged (R46). -/
def nalTrained (w : Nat) (brick : BitVec 17) (recs : List (Nat × Bool × BitVec 16)) (s : State) : State :=
  s |> setF F.SUP_STRAP_CLASH 0 |> updPair (fun p => { p with clashLogged := false }) |> setF F.NAL_WIDTH w |> setF F.NAL_UP 1
    |> updBring (fun b => { b with nalTrained := b.nalTrained || b.active }) |> nalSend 1 13 [(s.nv.brickId).getD 0x1FFFF]
    |> brickCompare brick |> recCompare recs |> queryAll |> step5Start |> tellStep |> mirrorRise |> anaRefresh
    |> (if s.pair.hbLost then takeoverStart else fun s => s)

/-- NAL_TRAIN_DONE (R54, R70): the good lanes, the partner's PAIR_POS and brick identifier, and its token records. -/
def execNalTrainDone (lanes : BitVec 16) (pos : Bool) (brick : BitVec 17) (recs : List (Nat × Bool × BitVec 16)) (s : State) : Out :=
  if !domOn s 12 || !s.pins.nalTx || !isSet s (F.CLK_LOCKED 12) || isSet s F.SUP_STRAP_FLOAT then .next s
  else
    let w := widthOf lanes
    let s1 := setF F.NAL_LANE_GOOD lanes.toNat s
    if w = 0 then .next (nalDown s1)
    else if b2n pos = devNo s then
      let s2 := s1 |> nalDown |> setF F.SUP_STRAP_CLASH 1 |> updPair (fun p => { p with clashLogged := true })
      .next (if s.pair.clashLogged then s2 else raise 15 0x0A19 2 0xFFFF 0 s2)
    else .next (nalTrained w brick recs s1)

/-! ### The fence loop test (R38) -/

/-- FENCE_TEST_PULSE_END: the partner is told that the assertion has ended. -/
def execFenceTestPulseEnd (s : State) : Out :=
  if s.pair.test.running && s.pair.test.pulsing then
    .next (s |> updPair (fun p => { p with fenceOut := false, test := { p.test with pulsing := false, pulsed := true } }) |> nalSend 1 8 [1, 0])
  else .next s

/-- The partner had no report in time: a direction has failed for both (R38). -/
def testLost (s : State) : State :=
  if s.pair.test.running then updPair (fun p => { p with test := { p.test with theirs := some false } }) s |> testConclude
  else if s.bring.fenceTested then
    s |> updBring (fun b => { b with fenceTested := false, fenceFailed := true }) |> setF F.NAL_FENCE_TEST_FAIL 1 |> raise 15 0x0A16 2 0xFFFF 0 |> tellStep
  else s

/-- FENCE_TEST_REPORT_RECEIVED: that a report was lost, which fails that direction; that the partner's assertion has ended, which is answered and lets device 1 begin its own; or
what the partner saw of this device's. -/
def execFenceTestReportReceived (failed ended saw : Bool) (s : State) : Out :=
  let t := s.pair.test
  if !isSet s F.NAL_UP then .next s
  else if failed then .next (testLost s)
  else if !t.running then .next s
  else if ended then
    let s1 := s |> updPair (fun p => { p with test := { p.test with theirs := some t.saw } }) |> nalSend 1 8 [0, b2n t.saw]
    .next (testConclude (if devNo s = 1 ∧ t.pulsed = false ∧ t.pulsing = false then pulseStart s1 else s1))
  else if t.pulsed then .next (testConclude (updPair (fun p => { p with test := { p.test with own := some saw } }) s))
  else .next s

/-- FENCE_TEST_REPORT_TIMEOUT: the direction that is waited for has failed, and the partner is told. -/
def execFenceTestReportTimeout (s : State) : Out :=
  let t := s.pair.test
  if !t.running then .next s
  else if t.pulsed && t.own.isNone then
    .next (s |> nalSend 1 8 [2, 0] |> updPair (fun p => { p with test := { p.test with own := some false } }) |> testConclude)
  else if t.theirs.isNone then
    let s1 := updPair (fun p => { p with test := { p.test with theirs := some false } }) s
    .next (testConclude (if devNo s = 1 ∧ t.pulsed = false ∧ t.pulsing = false then pulseStart s1 else s1))
  else .next s

/-! ### Attestation (R142) -/

/-- PARTNER_ATTESTATION_RESULT: the partner's verdict; a failure is 0x0215 or 0x0216 (R142). -/
def execPartnerAttestationResult (ok : Bool) (code : BitVec 16) (s : State) : Out :=
  if !isSet s F.NAL_UP || !ctlMode s then .next s
  else .next (s |> updBring (fun b => { b with attestPartner := some ok }) |> (if ok then fun s => s else raise 0 (if code = 0x0215 then 0x0215 else 0x0216) 2 0xFFFF 0) |> attested)

/-- PARTNER_ATTESTATION_TIMEOUT: of a request of this device, or of the partner's result. -/
def execPartnerAttestationTimeout (s : State) : Out :=
  if s.spdm.ask.isSome then .next (attested (attestEnd 0x0216 s))
  else if s.bring.attestOwn.isSome ∧ s.bring.attestPartner = none then
    .next (s |> updBring (fun b => { b with attestPartner := some false }) |> raise 0 0x0216 2 0xFFFF 0 |> attested)
  else .next s

/-- SPDM_RESPONSE_RECEIVED (R142, R384, R385): from a canal's peer `k` with the verdict `ok`, or from the partner; with its
measurements come the indices 2 to 4, the running SVNs, and the pair-protocol range of its control firmware. -/
def execSpdmResponseReceived (k : Option Nat) (ok : Bool) (meas : List (List Byte)) (svnSup svnCtl protoMin protoMax : Nat) (s : State) : Out :=
  match k with
  | some n => .next (canalSpdmStep n (ok && (!wantsMeas s n || measOk s meas svnSup svnCtl)) s)
  | none =>
    match s.spdm.ask with
    | none => .next s
    | some code =>
      if !ok then .next (attested (attestEnd 0x0216 s))
      else match nextAsk code with
      | some c => .next (send (.spdm 3 c []) { s with spdm := { s.spdm with ask := some c } })
      | none =>
        if measOk s meas svnSup svnCtl = false then
          .next (attested (attestEnd 0x0216 s))
        else
          let s1 := updPair (fun p => { p with partnerProto := some (protoMin, protoMax) }) s
          if s.pair.protoRange.2 < protoMin ∨ protoMax < s.pair.protoRange.1 then .next (attested (attestEnd 0x0215 s1))
          else .next (attested (attestEnd 0 (updPair (fun p => { p with proto := some (min p.protoRange.2 protoMax) }) s1)))

/-! ### Steps 6 to 12 -/

/-- Every owned channel has been acquired, or has failed to train. -/
def channelsReady (s : State) : Bool :=
  (List.range 32).all (fun c => !owns s (8 + c) || decide (getF s (F.FC_STATE c) = 2 ∨ getF s (F.FC_STATE c) = 4))

/-- The journal after a restart (R91, R101): unsealed entries are discarded and counted; what a command waited for is gone, and
the complete entries of the owned groups take effect. -/
def journalReplay (s : State) : State :=
  let torn := (s.journal.filter (fun e => !e.sealed)).length
  let js := (s.journal.filter (fun e => e.sealed)).map (fun e =>
    if e.mirror then e else { e with cmd := none, flashPending := !e.mirrored && !e.flashPage })
  { s with journal := js } |> satF F.PWR_PF_TORN torn |> (if holdsGroup s 0 then replayGroup 0 else fun s => s)
    |> (if holdsGroup s 1 then replayGroup 1 else fun s => s) |> jAckFree |> jRelease

/-- The source canals of the owned groups connect (R390). -/
def canalsConnect (s : State) : State :=
  (s.volu.canals.filter (fun c => c.source && decide (c.state < 4 ∧ c.setup = 0) && ownsCanal s c)).foldl (fun s c => canalConnect c s) s

/-- From step 7 to step 11 firmware holds reduction at its fastest, with every inline decision deferred (R92, R362). -/
def fastReduction (on : Bool) (s : State) : State := s |> setB F.RED_FAST_FORCE on |> setB F.RED_DEFER_FORCE on

/-- A tier that was read-only is so again, unless every owned channel has RACK_GC_HIGH % of free blocks (R430). -/
def roAgain (s : State) : State :=
  if !s.tier.flashRo then s
  else if (ownedChans s).all (fun c => decide (gcHigh s ≤ freePct s c)) then { s with tier := { s.tier with flashRo := false } }
  else roEnter s

/-- VAT_REPLAY_DONE (R91 steps 6 to 8): the NVMe controllers are ready and the groups are served. -/
def execVatReplayDone (s : State) : Out :=
  if s.bring.active && !s.bring.replayed && isSet s F.VAT_READY && engOn s 8 && channelsReady s then
    .next (s |> journalReplay |> roAgain |> updBring (fun b => { b with replayed := true }) |> fastReduction true |> canalsConnect |> anaRefresh |> tellStep |> mirrorRise |> bringSpin)
  else .next s

/-- The page map of a group lies in DRAM (R409). -/
def mapStore (g : Nat) (base : BitVec 64) (s : State) : State :=
  let s1 := s |> wr (R.FPM_BASE_LO g) (BitVec.ofNat 32 base.toNat) |> wr (R.FPM_BASE_HI g) (BitVec.ofNat 32 (base.toNat / 2 ^ 32)) |> fpmReady g true
  (s1.tier.pmap.filter (fun e => decide (e.1 = g))).foldl (fun s e => reqStore (base.toNat + 8 * e.2.1) (leBytes 8 (2 ^ 63 + e.2.2)) s) s1

/-- The LFPs of a group that the good blocks of the owned channels hold beyond the spare pool, the racking reserve of 7 % (R415), the
journal reserve and row parity (R413). -/
def lfpRoom (s : State) : Nat :=
  (ownedChans s).foldl (fun n c =>
    let h := chan s c
    let d := (diesUsed s c).length
    let b := (h.good - h.spare0 - h.good * 7 / 100 - getF s F.RACK_JOURNAL_RES) * h.pages
    n + (if 4 ≤ d then b * (d - 1) / d else b)) 0

/-- The LFP counts of the first Bring-up (R411): within the blocks, and with both page maps in a quarter of the smaller DRAM. -/
def lfpSize (s : State) (partnerGib : Nat) (l : List Nat) : List Nat :=
  let most := (min (getF s F.DRC_CAP_GIB) partnerGib) * 2 ^ 30 / 32
  let n (g : Nat) : Nat := min (l.getD g 0) (if holdsGroup s g then lfpRoom s else 2 ^ 34 - 1)
  if n 0 + n 1 ≤ most then [n 0, n 1] else [min (n 0) (most / 2), min (n 1) (most / 2)]

/-- MAPS_LOADED (R91 step 11, R410, R411): the firmware's places of the page maps; at the first Bring-up the LFP counts, with the
partner's DRAM capacity in GiB. -/
def execMapsLoaded (lfps : List Nat) (partnerGib : Nat) (base0 base1 : BitVec 64) (s : State) : Out :=
  if s.bring.active && s.bring.replayed && s.bring.dramTrained && !s.bring.maps then
    let s1 := if s.tier.lfpCount = [0, 0] then { s with tier := { s.tier with lfpCount := lfpSize s partnerGib lfps } } else s
    .next (s1 |> (if holdsGroup s 0 then mapStore 0 base0 else fun s => s) |> (if holdsGroup s 1 then mapStore 1 base1 else fun s => s)
      |> forN 2 (fun g s => s |> wr (R.FPM_LFPS_LO g) (BitVec.ofNat 32 (s1.tier.lfpCount.getD g 0))
        |> wr (R.FPM_LFPS_HI g) (BitVec.ofNat 32 (s1.tier.lfpCount.getD g 0 / 2 ^ 32)))
      |> updBring (fun b => { b with maps := true }) |> fastReduction false)
  else .next s

/-- The fitted heads of this device's actuators whose channels have power. -/
def ownHeads (s : State) : List Nat := (List.range 144).filter (fun h => fitted s h && owns s (actOf h) && domOn s (2 + actOf h))

/-- COARSE_CALIBRATION_DONE (R91 step 10, R92): disk reads with the extended ladder. -/
def execCoarseCalibrationDone (s : State) : Out :=
  if s.bring.active && s.bring.spindle && !s.bring.coarse && isSet s F.SPN_AT_SPEED && allLoaded s then
    .next ((ownHeads s).foldl (fun s h => setF (F.HC_EXT_LADDER h) 1 s) (updBring (fun b => { b with coarse := true }) s))
  else .next s

/-- The full calibration of the owned actuators makes their bands usable again (R420). -/
def calBands (s : State) : State := forN 4 (fun a s => if owns s a then bandsUsable a s else s) s

/-- FULL_CALIBRATION_DONE (R91 step 12, R225): disk writes are admitted; the parameters go to the partner. -/
def execFullCalibrationDone (s : State) : Out :=
  if s.bring.active && s.bring.coarse && !s.bring.fullCal then
    .next ((ownHeads s).foldl (fun s h => s |> updHead h (fun x => { x with calRes := some true }) |> mirrorHead h true)
      (updBring (fun b => { b with fullCal := true }) s) |> calBands |> tellStep)
  else .next s

/-! ### The end of Bring-up -/

/-- A DRAIN of the pair is complete once the partner has changed too (R89). -/
def drainTogether (pmode : Nat) (s : State) : State :=
  if s.pwr.target = some 6 ∧ pmode = 6 then
    s |> updPwr (fun p => { p with target := none }) |> setF F.PWR_MODE_BUSY 0 |> mbxFinish (isModeSet 5) (resStatus 0)
  else s

/-- PARTNER_STEP_REPORT (R88): the partner's step and mode. -/
def execPartnerStepReport (step : Fin 14) (pmode : Fin 8) (s : State) : Out :=
  if !isSet s F.NAL_UP then .next s
  else
    .next (s |> updBring (fun b => { b with partnerStep := step.val, rejoin := b.rejoin || (b.active && decide (pmode.val = 4)) })
      |> updPair (fun p => { p with partnerMode := pmode.val }) |> mirrorRise |> returnStart |> drainTogether pmode.val)

/-- Step 13 is reached: steps 9 and 11, and step 12 unless step 8 was not taken; a descriptor that is missing, or differs from
the partner's, keeps the device in Bring-up (R4, R20). -/
def step13 (s : State) : Bool :=
  let b := s.bring
  b.active && b.dramFilled && b.maps && (b.fullCal || !b.spindle) && b.descOk && !b.descDiffer && !isSet s F.SUP_STRAP_CLASH

/-- The pair may enter Full (R38, R88, R142). -/
def fullReady (s : State) : Bool :=
  let b := s.bring
  (decide (b.partnerStep = 13) || decide (s.pair.partnerMode = 3)) && isSet s F.NAL_UP && b.fenceTested
    && decide (b.attestOwn = some true ∧ b.attestPartner = some true) && defaultsHeld s

/-- The retract settings of an actuator from the mechanism tables, whose layout the spec does not give (R278). -/
def retractLoad (a : Nat) (s : State) : State :=
  let c := Config.retractSettings a
  s |> setF (F.VCM_RET_LATCH a) (c.getD 0 0 % 256) |> setF (F.VCM_RET_VEL a) (c.getD 1 0 % 256) |> setF (F.VCM_RET_IMAX_MA a) (c.getD 2 0 % 4096)
    |> setF (F.VCM_RET_KB_PRI a) (c.getD 3 0 % 65536) |> setF (F.VCM_RET_KB_BKP a) (c.getD 4 0 % 65536)

/-- Bring-up is over: firmware loads SPN_IMAX_MA and the retract settings, and sets the commit bits of the Supervisor, of the flash blocks and of the loops (R278, R434,
R484). -/
def bringDone (s : State) : State :=
  s |> setF F.SPN_IMAX_MA ((s.desc.map (fun d => d.spnImaxMa)).getD 500) |> forN 4 retractLoad |> updBring (fun b => { b with active := false }) |> setF F.CLE_COMMITTED 1 |> setF F.FPM_COMMITTED 1
    |> setF F.DMA_COMMITTED 1 |> forN 4 hcCommit |> updPwr (fun p => { p with supCommitted := true })

/-- BRINGUP_COMPLETE (R88, R90, R91, R134): Fallow, Solo after a takeover or where Solo was entered before, or Full. -/
def execBringupComplete (s : State) : Out :=
  if !step13 s then .next s
  else if mode s = 4 then .next (s |> bringDone |> confirmTrials |> anaRefresh)
  else if mode s ≠ 2 then .next s
  else if s.nv.startFallow then
    .next (s |> bringDone |> setF F.PWR_MODE_PRIOR (if s.bring.tookOver then 4 else 3) |> setF F.PWR_MODE_CUR 5 |> fansTo |> tellStep |> anaRefresh)
  else if s.bring.tookOver then .next (s |> bringDone |> enterSolo |> confirmTrials |> mbxFinish (isModeSet 2) (resStatus 0))
  else if fullReady s then .next (s |> bringDone |> enterFull |> (if s.bring.rejoin then confirmTrials else fun s => s))
  else .next s

end Sys2Proof.Machine
end

