-- ==== Sys2Proof/Machine/RegWords.lean ====
section
/-! DEFINITION. What a permitted register access reads, and what a write does to a register that has no action of its own: the
access codes of R12 and R501, latches that clear with their overflow count (R85, R115, R178, R363, R445), counter pairs (R175,
R492), and registers that show state held elsewhere. -/

namespace Sys2Proof.Machine

/-! ### Fields -/

/-- What a field shows of its register's word (R12): write-only and pulse fields read 0. -/
def readField (w : Nat) (f : FieldBits) : Nat :=
  match f.acc with
  | .wo => 0
  | .w1p => 0
  | _ => bitsAt w f.lo f.width * 2 ^ f.lo

/-- What a register's fields show of its word; reserved bits read 0 (R11). -/
def readBits (r : RegRow) (w : Nat) : Nat := r.fields.foldl (fun n f => n + readField w f) 0

/-- What a write of `w` leaves of one field in the word `old` (R12). -/
def writeField (w old : Nat) (f : FieldBits) : Nat :=
  match f.acc with
  | .rw => putBits old f.lo f.width (bitsAt w f.lo f.width)
  | .rwl => putBits old f.lo f.width (bitsAt w f.lo f.width)
  | .w1c => putBits old f.lo f.width (Nat.land (bitsAt old f.lo f.width) (2 ^ f.width - 1 - bitsAt w f.lo f.width))
  | _ => old

/-- The word that a write of `w` leaves in a register (R12). -/
def writeBits (r : RegRow) (w old : Nat) : Nat := r.fields.foldl (writeField w) old

/-- A write of `w` would change a committed field (R501). -/
def rwlChanges (r : RegRow) (w old : Nat) : Bool :=
  r.fields.any (fun f => decide (f.acc = .rwl) && decide (bitsAt w f.lo f.width ≠ bitsAt old f.lo f.width))

/-- The fields of a register's block are committed (R264, R278, R414, R465, R484, R505): head channels and sequencers each
by their actuator. -/
def lockedAt (a : Nat) (s : State) : Bool :=
  match blockOf a with
  | some 0 => s.pwr.supCommitted
  | some 4 => isSet s ⟨R.HC_GCTL, 4 + (a - 0x100000) / 0x400 / 36, 1⟩
  | some 6 => isSet s (F.FS_CS_LOCK ((a - 0x150000) / 0x1000))
  | some 8 => isSet s F.CLE_COMMITTED
  | some 10 => isSet s F.FPM_COMMITTED
  | some 16 => isSet s F.DMA_COMMITTED
  | _ => false

/-! ### Counter pairs (R175, R492) -/

/-- The HI register of a statistics counter: SAT, and bits [47:32] of the count. A transmit time stamp's INFO register has the
same fields and is none. -/
def counterHi (a : Nat) : Bool :=
  match rowAt a with
  | some (r, _) => decide (r.fields = [⟨31, 1, .w1c⟩, ⟨0, 16, .ro⟩]) && !(decide (0x500100 ≤ a ∧ a < 0x500300) && decide (a % 0x40 = 0x0C))
  | none => match supOffset a with
    | some (_, o) => decide (o = 36)
    | none => false

/-- The LO register of a pair that only the device writes: a counter, or a value of more than 32 bits. -/
def loPair (a : Nat) : Bool :=
  counterHi (a + 4)
  || decide (a = R.SUP_SERIAL_LO ∨ a = R.SUP_TIME_LO ∨ a = R.PWR_PF_TIME_LO ∨ a = R.RED_ERR_LOC_LO ∨ a = R.ECC_FILL_PTR_LO)
  || decide (0x500100 ≤ a ∧ a < 0x500300 ∧ a % 0x40 = 4)
  || decide (0x580000 ≤ a ∧ a < 0x580400 ∧ a % 0x40 = 0x10)
  || decide (0x610000 ≤ a ∧ a < 0x610A00 ∧ (a % 0x200 = 0x18 ∨ 0x100 ≤ a % 0x200 ∧ a % 0x10 = 0))
  || (match supOffset a with
      | some (_, o) => decide (o = 12)
      | none => false)

/-! ### Registers that show state held elsewhere -/

/-- A token record as NAL_TOKEN shows it, once the records are loaded (R29). -/
def tokenWord (s : State) (t : Nat) : Nat :=
  if !isSet s F.VAT_READY || !tokUsed t then 0
  else
    let r := tok s t
    let st := match r.state with
      | .owned => 0
      | .partner => 1
      | .releasing => 2
      | .refused => 3
    st * 2 ^ 18 + 2 ^ 17 + r.owner % 2 * 2 ^ 16 + r.epoch.toNat

/-- The flash channels that this device holds (R25). -/
def ownChannels (s : State) : List Nat := (List.range 32).filter (fun c => owns s (8 + c))

/-- RACK_STATUS (R421, R422): the lowest free-block share over owned channels, the kinds that run, and garbage collection
beyond its share while a channel is below half of RACK_GC_LOW. -/
def rackStatusWord (s : State) : Nat :=
  let l := (ownChannels s).map (freePct s)
  let low := l.foldl min 100
  let urgent := l.any (fun p => decide (2 * p < getF s F.RACK_GC_LOW))
  putBits (putBits (putBits (rdN s R.RACK_STATUS) 16 8 (if l.isEmpty then 0 else low)) 8 4 (s.fl.kinds % 16)) 0 1 (b2n urgent)

/-- MiB, rounded up. -/
def mib (n : Nat) : Nat := (n + 2 ^ 20 - 1) / 2 ^ 20

/-- The word that a register shows: its own, or what other state makes of it. -/
def viewWord (s : State) (a : Nat) : Nat :=
  let w := rdN s a
  match blockOf a with
  | some 0 => if a = R.SUP_TIME_LO then s.now.toNat % 2 ^ 32 else if a = R.SUP_TIME_HI then s.now.toNat / 2 ^ 32 else w
  | some 1 => if a = R.MBX_EXPERT then mbxExpertWord s else w
  | some 3 => if a = R.PWR_MODE then pwrModeWord s else w
  | some 4 =>
    let h := (a - 0x100000) / 0x400
    if h < 144 ∧ a = R.HC_EQ_TARGET h ∧ getF s (F.HC_EQ_FAMILY h) ≠ 0 then
      (eqTarget s h).foldl (fun n g => n * 256 + unsgn 8 g) 0 + w / 2 ^ 24 * 2 ^ 24
    else w
  | some 6 =>
    let q := (a - 0x150000) / 0x1000
    if a = R.FS_STATUS q then putBits w 16 8 (min 64 (fsOf s q).queue.length) else w
  | some 9 =>
    let c := (a - 0x300000) / 0x1000
    if a = R.FC_STATUS c then putBits w 7 1 (b2n (owns s (8 + c))) else w
  | some 10 => if a = R.RACK_STATUS then rackStatusWord s else w
  | some 11 => if a = R.RED_UNREDUCED then (unreduced s + 1023) / 1024 else w
  | some 14 =>
    if a = R.FAB_STATUS then putBits w 0 3 s.pwr.fabProfile
    else if a = R.FAB_CONN then min s.host.fabConns 8192 * 2 ^ 16 + (s.volu.canals.filter (fun c => c.setup ≠ 0)).length else w
  | some 15 =>
    if a = R.NAL_FENCE then putBits w 0 3 (b2n s.pair.fenced * 4 + b2n s.pair.fenceIn * 2 + b2n s.pair.fenceOut)
    else if R.NAL_TOKEN 0 ≤ a ∧ a < R.NAL_TOKEN 64 then tokenWord s ((a - R.NAL_TOKEN 0) / 4) else w
  | some 19 =>
    if a = R.VAT_STATUS then putBits (putBits w 3 1 (b2n s.host.poolFull)) 1 1 (b2n (shortSeal s))
    else if a = R.VAT_POOL then mib (poolBytes s false) * 2 ^ 16 + mib (poolBytes s true) else w
  | _ => w

/-- The word of a window (R319, R264's windows, R246, R150): a push window reads 0. -/
def winWord (s : State) : Win → Nat
  | .page m off => leNat (memRead s (pageOf m off) 4)
  | .store q off => csWord s q (off / 16) / 2 ^ (32 * (off % 16 / 4)) % 2 ^ 32
  | .zone q off => leNat (memRead s (space 6 (q * 0x8000 + off)) 4)
  | .push _ _ => 0

/-- The word that a read of an address gives. -/
def shownWord (s : State) (a : Nat) : Word :=
  BitVec.ofNat 32 (match winOf a with
    | some x => winWord s x
    | none => match rowAt a with
      | some (r, _) => readBits r (viewWord s a)
      | none => rdN s a)

/-- A completion area before its command is DONE, whose bytes are undefined (R158). -/
def undefinedPage (s : State) (a : Nat) : Bool :=
  match winOf a with
  | some (.page m off) => decide (0x400 ≤ off) && decide (mbxState s m ≠ 3)
  | _ => false

/-- A permitted read (R175): a LO register takes the snapshot of its HI register, which then shows it; FS_TRC_DATA_LO reads the
trace (R266). -/
def plainRead (p : Path) (a : Nat) (s : State) : State × Word :=
  if blockOf a = some 6 ∧ a % 0x1000 = 0x038 then trcRead p ((a - 0x150000) / 0x1000) s
  else if undefinedPage s a then
    let r := takeFree s
    (r.2, r.1.setWidth 32)
  else
    let s1 := if loPair a then snapHi p (a + 4) (shownWord s (a + 4)) s else s
    match s.snaps.find? (fun x => decide (x.path = pathNo p ∧ x.addr = a)) with
    | some x => (s1, x.val)
    | none => (s1, shownWord s a)

/-! ### Plain writes -/

/-- A write of a violation pair or fault group (R178, R475 to R480, R492). -/
def groupWrite (b o a : Nat) (w : Nat) (s : State) : State :=
  if o = 4 then
    if bitAt w 31 then wr a (BitVec.ofNat 32 (putBits (putBits (rdN s a) 31 1 0) 16 8 0)) s else s
  else if o = 8 then (if bitAt w 31 then clearLatch b s else s)
  else if o = 24 then
    forN 3 (fun k s => if bitAt w k then setF (FF_PEND b k) 0 s else s) s
  else if o = 28 then
    wr a (BitVec.ofNat 32 (bitsAt w 16 11 * 2 ^ 16 + 2 ^ 10 + bitsAt w 8 2 * 2 ^ 8 + bitsAt w 4 3 * 2 ^ 4 + bitsAt w 0 3)) s
  else if o = 36 then (if bitAt w 31 then cntPut (a - 4) 0 false s else s)
  else s

/-- A write of a register by its access codes: SAT clears the count with it (R492); a latch's VALID clears its overflow
count. -/
def plainWrite (a : Nat) (w : Word) (s : State) : State :=
  match supOffset a with
  | some (b, o) => groupWrite b o a w.toNat s
  | none => match rowAt a with
    | none => s
    | some (r, _) =>
      let old := rdN s a
      if counterHi a then (if bitAt w.toNat 31 then cntPut (a - 4) 0 false s else s)
      else
        let v := writeBits r w.toNat old
        let latch := r.fields.contains ⟨31, 1, .w1c⟩ && r.fields.contains ⟨16, 8, .ro⟩
        wr a (BitVec.ofNat 32 (if latch && bitAt w.toNat 31 then putBits v 16 8 0 else v)) s

/-- A write of a fabric port's status: FAB_P_EN at 0 takes the link down (R507). -/
def portWrite (a : Nat) (w : Word) (s : State) : State :=
  let s1 := plainWrite a w s
  let q := (a - 0x500100) / 0x40
  if 0x500100 ≤ a ∧ a < 0x500300 ∧ a % 0x40 = 0 ∧ isSet s1 (F.FAB_P_UP q) = true ∧ isSet s1 (F.FAB_P_EN q) = false then
    portSet q false 0 0 s1
  else s1

end Sys2Proof.Machine
end

