-- ==== Sys2Proof/Machine/Gates.lean ====
section
/-! DEFINITION. The clocked islands and the pace governor: admission of preamplifiers (R80, R81, R106 to R108, R213, R523), gates and
their waiting accesses (R110, R114 to R116), the loss of a reference (R120 to R122) and the release of an island (R123). -/

namespace Sys2Proof.Machine

/-- Change the record of the clocks. -/
def updClk (f : ClkSt → ClkSt) (s : State) : State := { s with clk := f s.clk }

/-! ### Admission -/

/-- Preamplifiers that the offline decoders take from admission and its floor: one for each 5 of them, or part of 5 (R213). -/
def offlineCut (s : State) : Nat :=
  (((List.range 80).filter (fun n => bitAt (rdN s (R.DEC_OFFLINE (n / 32))) (n % 32))).length + 4) / 5

/-- A preamplifier that can be admitted: fitted, on an owned actuator whose channels have power, in service. -/
def paCandidate (s : State) (p : Nat) : Bool :=
  owns s (p / 4) && fittedPa s p && domOn s (2 + p / 4) && !isSet s (F.HC_PA_FAILED p)

/-- The preamplifiers of an actuator that can be admitted. -/
def actPas (s : State) (a : Nat) : List Nat := ((List.range 4).map (fun j => 4 * a + j)).filter (paCandidate s)

/-- The actuator's band in progress writes, or a write waits in its queue (R81). -/
def writeDue (s : State) (a : Nat) : Bool :=
  (bandOf s a).any (fun b => decide (bandOp b = 2)) || (fsOf s a).queue.any (fun d => decide (leAt d.bytes 0 1 = 2))

/-- A band in progress on the preamplifier's actuator writes: its heads stay admitted (R108). -/
def paWriting (s : State) (p : Nat) : Bool := (bandOf s (p / 4)).any (fun b => decide (bandOp b = 2))

/-- Add to a set of preamplifiers what fits of a list, one by one. -/
def takeFit (mx : Nat) (l : List Nat) (acc : List Nat) : List Nat :=
  l.foldl (fun acc p => if acc.contains p || decide (mx ≤ acc.length) then acc else acc ++ [p]) acc

/-- When a queued read came: the number of its command, or of the oldest command that waits for its band; a read of racking or of the
partner counts as later than every host read (DESIGN CHOICE, log entry 98). -/
def readAge (s : State) (a : Nat) (d : BandDesc) : Nat :=
  if d.q < 256 then d.cookie
  else if d.q = 257 then
    ((s.host.cmds.filter (fun c => c.needs.contains ⟨1, a, leAt d.bytes 4 4⟩)).map (fun c => c.id)).foldl min (2 ^ 64)
  else 2 ^ 64 + d.cookie

/-- The age of a preamplifier's oldest queued read, the read in progress among them; none where it has none. -/
def paAge (s : State) (p : Nat) : Option Nat :=
  let a := paAct p
  let mine (d : BandDesc) : Bool := decide (leAt d.bytes 0 1 ≠ 2 ∧ bitsAt (leAt d.bytes 8 8) (9 * (p % 4)) 9 ≠ 0)
  let l := ((((bandOf s a).map (fun b => b.desc)).toList ++ (fsOf s a).queue).filter mine).map (readAge s a)
  match l with
  | [] => none
  | x :: r => some (r.foldl min x)

/-- The governor's rank of a preamplifier (R108): queued writes of whole bands, then the oldest queued read, equal ones in rotation; those
without a read come last. -/
def paKey (s : State) (p : Nat) : Nat :=
  (if writeDue s (paAct p) then 0 else match paAge s p with
    | some n => 1 + n
    | none => 2 ^ 72) * 16 + (p + 16 - s.clk.rot % 16) % 16

/-- Insert by rank. -/
def insertRank (k : Nat → Nat) (x : Nat) : List Nat → List Nat
  | [] => [x]
  | y :: r => if k x < k y then x :: y :: r else y :: insertRank k x r

/-- The preamplifiers that can be admitted, in the governor's order. -/
def paOrder (s : State) : List Nat :=
  ((List.range 16).filter (paCandidate s)).foldl (fun l p => insertRank (paKey s) p l) []

/-- The channel rate in kb/s of the fastest zone that an admitted head is reading (R106, R181). -/
def govRate (s : State) : Nat :=
  (List.range 4).foldl (fun m a => match bandOf s a with
    | some b =>
      if bandOp b ≠ 2 ∧ (maskList b.mask).any (fun i => s.clk.admitted.contains (headPa (36 * a + i))) = true then
        max m (zHdr s a (zoneOf s a (bdBand b)) 4 4)
      else m
    | none => m) 0

/-- The governor's choice of at most `mx` preamplifiers, `mn` of them guaranteed (R80, R81, R108): bands being written, whole bands
with queued writes, then reads in order. Removed ones come only to reach the floor, and not above 105 degrees. -/
def admitPick (mn mx : Nat) (s : State) : List Nat :=
  let cand := (List.range 16).filter (paCandidate s)
  let busy := cand.filter (paWriting s)
  if s.therm.over115 then cand.filter (fun p => (bandOf s (p / 4)).isSome && s.clk.admitted.contains p)
  else
    let free := cand.filter (fun p => !s.clk.removed.contains p)
    let whole := (List.range 4).foldl (fun acc a =>
      let l := (actPas s a).filter (fun p => !acc.contains p)
      if writeDue s a && l.all (fun p => free.contains p) && decide (acc.length + l.length ≤ mx) then acc ++ l else acc) busy
    let byOrder := paOrder s
    let l := takeFit mx (byOrder.filter (fun p => free.contains p)) whole
    if s.therm.over105 then l else takeFit mn byOrder l

/-- The read preamplifier that goes first (R108): the last admitted one in the governor's order that writes nothing. -/
def paVictim (s : State) : Option Nat :=
  ((paOrder s).filter (fun p => s.clk.admitted.contains p && !paWriting s p)).getLast?

/-- Remove a preamplifier for pace or heat: one fewer is admitted from now on. -/
def paRemove (p : Nat) (s : State) : State :=
  s |> updClk (fun c => { c with removed := if c.removed.contains p then c.removed else c.removed ++ [p], govMax := c.admitted.length - 1 })
    |> admitTo (s.clk.admitted.filter (fun x => x ≠ p)) |> setF F.CLK_GOV_HEADS_CUT 1

/-! ### Gates -/

/-- The condition of R110 under which an island may be gated. -/
def gateCond (s : State) (i : Nat) : Bool :=
  if i = 3 then decide (getF s F.DRC_STATE = 3)
  else if i = 4 then (ownChannels s).isEmpty
  else if 5 ≤ i ∧ i ≤ 8 then !owns s (i - 5) || !headsOut s (i - 5)
  else if i = 9 then (List.range 4).all (fun a => !owns s a)
  else if i = 10 then !isSet s F.SUP_STRAP_PCIE_EN || !s.pcie.linkUp
  else if i = 11 then (List.range 8).all (fun q => !isSet s (F.FAB_P_UP q))
  else false

/-- The island's power domain is off, or not on yet. -/
def islandDead (s : State) (i : Nat) : Bool := decide (getF s (F.PWR_DOM_STATE (islandDom i)) ≤ 1)

/-- A CLK_GATE command that gates island `i`. -/
def isGateCmd (i : Nat) (c : MbxCmd) : Bool := decide (c.opcode.toNat = 0x0110 ∧ par c 0 4 = i ∧ par c 8 1 = 1)

/-- The gate takes effect: waiting accesses get 0x0120, and the commands that asked for it complete (R114, R124). -/
def gateTake (i : Nat) (s : State) : State :=
  s |> setF (F.CLK_GATE_REQ i) 1 |> setF (F.CLK_GATED i) 1 |> setF (F.CLK_GATE_PENDING i) 0 |> setF (F.CLK_LOCKED i) 0
    |> updClk (fun c => { c with progress := setAt c.progress i none }) |> refuseWaiting i 0x0120 |> mbxFinish (isGateCmd i) (resStatus 0)

/-- A gate is requested (R114, R116). `busy`: the access to the island that is in progress. -/
def gateReq (i : Nat) (busy : Option (Path × Nat)) (s : State) : State :=
  if isSet s (F.CLK_GATED i) || isSet s (F.CLK_GATE_PENDING i) then s
  else if islandDead s i then gateTake i s
  else if !gateCond s i then setF (F.CLK_GATE_REFUSED i) 1 s
  else match busy with
    | none => gateTake i s
    | some x => s |> setF (F.CLK_GATE_REQ i) 1 |> setF (F.CLK_GATE_PENDING i) 1 |> updClk (fun c => { c with progress := setAt c.progress i (some x) })

/-- One waiting access proceeds. -/
def waitGo (w : Waiting) (s : State) : State :=
  if w.isWr then
    busAnswer w.path w.addr 0 0 (portWrite w.addr w.data s)
  else
    let r := plainRead w.path w.addr s
    busAnswer w.path w.addr 0 r.2.toNat r.1

/-- The accesses that wait at an island proceed (R116). -/
def waitingGo (i : Nat) (s : State) : State :=
  (s.clk.waiting.filter (fun w => w.island = i)).foldl (fun s w => waitGo w s)
    (updClk (fun c => { c with waiting := c.waiting.filter (fun w => w.island ≠ i) }) s)

/-- A gate is withdrawn (R116): a pending one is cancelled; a gated island ungates with the setting stored last (R111), and locks
again later. -/
def gateClear (i : Nat) (s : State) : State :=
  let s1 := setF (F.CLK_GATE_REQ i) 0 s
  if isSet s1 (F.CLK_GATE_PENDING i) then
    s1 |> setF (F.CLK_GATE_PENDING i) 0 |> updClk (fun c => { c with progress := setAt c.progress i none }) |> waitingGo i
  else if isSet s1 (F.CLK_GATED i) then
    s1 |> setF (F.CLK_GATED i) 0 |> updClk (fun c => { c with applied := setAt c.applied i (rd s (R.CLK_PLL_CFG i)) })
  else s1

/-- Record an access that a FORCE has ended (R115). -/
def logForce (i a : Nat) (s : State) : State :=
  if isSet s F.CLK_FORCE_VALID then satF F.CLK_FORCE_OVF 1 s
  else s |> wr R.CLK_FORCE_ADDR (BitVec.ofNat 32 a) |> setF F.CLK_FORCE_VALID 1 |> setF F.CLK_FORCE_OVF 0 |> setF F.CLK_FORCE_ISL i

/-- The access in progress ends with 0x0121. -/
def accessForced (p : Path) (a : Nat) (s : State) : State :=
  match p with
  | .mbx m =>
    if mbxState s m.val = 2 ∧ (mbxAt s m.val).result.isNone = true then mbxSetResult m.val ⟨0x0121, [], 0, a, []⟩ s else s
  | _ => busAnswer p a 0x0121 0 s

/-- A FORCE (R115): without a pending gate it has no effect; when the handshake goes idle in the same cycle, the access has
completed. -/
def gateForce (i : Nat) (idle : Bool) (s : State) : State :=
  if !isSet s (F.CLK_GATE_PENDING i) then s
  else match s.clk.progress.getD i none with
    | some x => gateTake i (if idle then s else s |> logForce i x.2 |> accessForced x.1 x.2)
    | none => gateTake i s

/-! ### References -/

/-- The islands of a reference (R110). -/
def refIslands (r : Nat) : List Nat := (List.range 13).filter (fun i => islandRef i = r)

/-- A reference is lost. -/
def refLost (s : State) (r : Nat) : Bool := bitAt (getF s F.CLK_REF_LOST) r

/-- The outputs that a reference clocks are forced safe (R121). -/
def refSafe (r : Nat) (s : State) : State :=
  match r with
  | 0 => s |> setF F.CLK_BACKUP_ACTIVE 1 |> setF F.CLK_TS_DEGRADED 1 |> forN 4 stopAct |> flashHiZ
      |> (if getF s F.DRC_STATE = 2 then setF F.DRC_STATE 3 else fun s => s) |> spnCoast |> retractAll
  | 1 => pcieDown s
  | 2 => fabDown { s with pins := { s.pins with fabTx := false } }
  | _ => nalDown { s with pins := { s.pins with nalTx := false } }

/-- A reference is declared lost (R120 to R122): its islands are without it and hold their outputs safe; SUP has none. PCIE_REFCLK is
ignored while PCIE_EN is 0 (R75). -/
def refLoss (r : Nat) (s : State) : State :=
  if refLost s r ∨ (r = 1 ∧ isSet s F.SUP_STRAP_PCIE_EN = false) then s
  else
    let s1 := (refIslands r).foldl (fun s i =>
      s |> setF (F.CLK_REF_OK i) 0 |> setF (F.CLK_LOCKED i) 0 |> (if i = 0 then fun s => s else setF (F.CLK_SAFE_HELD i) 1)) s
    s1 |> setF ⟨R.CLK_REF_STATUS, r, 1⟩ 1 |> setF ⟨R.CLK_REF_STATUS, 8 + r, 1⟩ 1 |> raiseLive 2 0x0122 2 r 0 true |> refSafe r

/-- A released island drives its outputs again; TIME again gives the timestamp its time base, and DRAM leaves self-refresh,
and the preamplifier links go on. -/
def outputsBack (i : Nat) (s : State) : State :=
  match i with
  | 1 => setF F.CLK_TS_DEGRADED 0 s
  | 3 => if getF s F.DRC_STATE = 3 then setF F.DRC_STATE 2 s else s
  | 4 => { s with pins := { s.pins with flashDrive := s.pins.flashDrive.mapIdx (fun c v => v || decide (getF s (F.FC_STATE c) = 1 ∨ getF s (F.FC_STATE c) = 2)) } }
  | 9 => forN 16 paNext s
  | 11 => { s with pins := { s.pins with fabTx := domOn s 11 } }
  | 12 => trainSend { s with pins := { s.pins with nalTx := domOn s 12 } }
  | _ => s

/-- A release of an island's outputs (R123): refused while its PLL is not locked. -/
def safeRelease (i : Nat) (s : State) : State :=
  if !isSet s (F.CLK_LOCKED i) then setF (F.CLK_RELEASE_REFUSED i) 1 s
  else if isSet s (F.CLK_SAFE_HELD i) then s |> setF (F.CLK_SAFE_HELD i) 0 |> outputsBack i
  else s

/-- A write of CLK_SAFE_RELEASE through a path: an expert's lifts the escalation of its reference (R482). -/
def expertRelease (p : Path) (i : Nat) (s : State) : State :=
  safeRelease i (match p with
    | .bar2 => liftEscalation 0x0122 (islandRef i) s
    | .mbx _ => liftEscalation 0x0122 (islandRef i) s
    | _ => s)

/-- The VCO term of a programmable island lies between 2.0 GHz and 8.0 GHz on a 25 MHz reference (R110, R113). -/
def vcoOk (s : State) (i : Nat) : Bool :=
  if i = 0 ∨ 9 < i then true
  else
    let w := (s.clk.applied.getD i 0).toNat
    let v := bitsAt w 16 10 * 65536 + bitsAt w 0 16
    decide (80 * 65536 ≤ v ∧ v ≤ 320 * 65536)

/-- CLK_PACE_LOW_RST (R103): the lowest pace counts from now. -/
def paceLowRst (s : State) : State := setF F.CLK_PACE_LOW (getF s F.CLK_PACE_NOW) s

/-- A write of CLK_ISL_CTL: its request bit where it changes, then its pulses in ascending order. `busy` and `idle` as in
the gate's own rows. -/
def islWrite (p : Path) (i : Nat) (w : Nat) (busy : Option (Path × Nat)) (idle : Bool) (s : State) : State :=
  let s1 := if bitAt w 0 then gateReq i busy s else gateClear i s
  let s2 := if bitAt w 1 then gateForce i idle s1 else s1
  if bitAt w 2 then expertRelease p i s2 else s2

end Sys2Proof.Machine
end

