-- ==== Sys2Proof/Machine/Ramp.lean ====
section
/-! DEFINITION. The rows that park an actuator's heads (R293, R295): the head-channel domain goes down after them (R83). -/

namespace Sys2Proof.Machine

/-- The heads of an actuator have reached the ramp. -/
def parked (a : Nat) (s : State) : State :=
  s |> heatersOff a |> setF (F.VCM_STATE a) 0 |> updVcm a (fun x => { x with latch := false }) |> headsFinish a false 0 |> busyShow |> nalSend 1 14 [a] |> hcaIdle a |> dormantGo

/-- HEAD_UNLOAD_DONE (R293). -/
def execHeadUnloadDone (a : Fin 4) (s : State) : Out :=
  if getF s (F.VCM_STATE a.val) = 4 then .next (parked a.val s) else .next s

/-- RETRACT_LATCH_DONE (R295): after the push the bridge is at high impedance, parked. -/
def execRetractLatchDone (a : Fin 4) (s : State) : Out :=
  if getF s (F.VCM_STATE a.val) = 5 ∧ (vcmOf s a.val).latch = true then .next (parked a.val s) else .next s

/-- RETRACT_TIMEOUT (R295): the ramp was not reached. -/
def execRetractTimeout (a : Fin 4) (s : State) : Out :=
  if getF s (F.VCM_STATE a.val) = 5 ∧ (vcmOf s a.val).latch = false then
    .next (s |> setF (F.VCM_STATE a.val) 6 |> setF (F.VCM_RET_TIMEOUT a.val) 1 |> headsFinish a.val false 0x0338 |> busyShow
      |> raise 8 0x0338 2 a.val 0 |> dormantGo)
  else .next s

end Sys2Proof.Machine
end

