-- ==== Sys2Proof/Machine/Power.lean ====
section
/-! DEFINITION. The rows of the supplies, of RESET_N and of the power domains (R68, R69, R76, R79 to R86, R99 to R101,
R530). -/

namespace Sys2Proof.Machine

/-! ### Reset -/

/-- RESET_N_ASSERT (R88). -/
def execResetNAssert (s : State) : Out := .next (updPwr (fun p => { p with resetN := false }) (enterReset s))

/-- RESET_N_DEASSERT (R130): with the levels of the strap lands, PAIR_POS under the pull-up and under the pull-down. -/
def execResetNDeassert (pullUp pullDown pcieEn : Bool) (fabProf : Fin 8) (miAddr : Fin 4) (testN : Bool) (s : State) : Out :=
  .next (tryBoot (updPwr (fun p => { p with resetN := true, straps := ⟨pullUp, pullDown, pcieEn, fabProf.val, miAddr.val, testN⟩ }) s))

/-- VSYS_POWER_ON_RELEASE (R79): held 1 ms. -/
def execVsysPowerOnRelease (s : State) : Out := .next (tryBoot (updPwr (fun p => { p with vsysReleased := true }) s))

/-! ### VSYS (R79, R80, R99, R518) -/

/-- The head admission that R80 guarantees at a VSYS in mV. -/
def vsysFloor (mv : Nat) : Nat :=
  if 4500 ≤ mv then 144 else if 4000 ≤ mv then 108 else if 3500 ≤ mv then 90 else if 3000 ≤ mv then 72 else 54

/-- VSYS_BELOW_RATED (R79, R80). -/
def execVsysBelowRated (below : Bool) (mv : BitVec 16) (s : State) : Out :=
  if !live s then .next s
  else .next (s |> setB F.PWR_VSYS_BELOW_RATED below |> setF F.PWR_VSYS_MV mv.toNat |> setF F.PWR_HEADS_FLOOR (vsysFloor mv.toNat))

/-- The power-fail record of step 8 (R99, R101, R432). -/
def pfRecord (s : State) : State :=
  let r : PfRecord := { time := s.now, short := shortSeal s, parked := false, sealed := true, mode := mode s,
                        groups := (List.range 21).flatMap (fun b => (List.range 4).map (fun k => (groupBase b + 4 * k, rd s (groupBase b + 4 * k)))) }
  let s1 : State := { s with nv := { s.nv with pf := some r } }
  { s1 with
    tier := { s.tier with savedTj := s.tier.tjHist, savedMech := s.tier.mechHist, savedLife := s.tier.lifeMin } }

/-- A device without a back-EMF source keeps SUP, MOT and VAT only (R518). -/
def holdupShed (s : State) : State :=
  if devNo s = 1 ∧ s.desc.any (fun d => d.windingSets = 1) = true then forN 15 (fun i s => if i = 6 then s else domReset (i + 1) s) s else s

/-- VSYS_POWER_FAIL (R99): steps 2 to 8. -/
def execVsysPowerFail (mv : BitVec 16) (s : State) : Out :=
  if !live s || s.pwr.hold then .next s
  else
    let s1 := s |> setF F.PWR_VSYS_MV mv.toNat |> setF F.PWR_VSYS_PF 1 |> updPwr (fun p => { p with hold := true, vsysReleased := false })
      |> safeRecord 4 0 false |> setF F.SUP_SAFE_ACTIVE 1 |> pfRecord
      |> stopAll |> flashHiZ |> spnCoast |> retractAll |> vatSeal |> logReaction 4
    .next (holdupShed { s1 with pins := { s1.pins with fabTx := false } })

/-- HOLDUP_END (R99 step 10): the record learns whether the heads are parked, and the device is in Reset, from which it starts at
once when VSYS is back (R100). -/
def execHoldupEnd (s : State) : Out :=
  if !s.pwr.hold then .next s
  else
    let parked := (List.range 4).all (fun a => !headsOut s a)
    .next (tryBoot (enterReset { s with nv := { s.nv with pf := s.nv.pf.map (fun r => { r with parked := parked }) } }))

/-- VSYS_OVERVOLTAGE (R79, R485). -/
def execVsysOvervoltage (mv : BitVec 16) (s : State) : Out :=
  if !live s then .next s
  else .next (s |> setF F.PWR_VSYS_MV mv.toNat |> setF F.PWR_VSYS_OV 1 |> forcedSafe 3 0)

/-! ### VMOT (R82) -/

/-- VMOT as measured. -/
def vmotShow (mv : Nat) (s : State) : State := s |> setF F.PWR_VMOT_MV mv |> setB F.PWR_VMOT_OK (decide (9000 ≤ mv ∧ mv ≤ 15500))

/-- A change to Fallow begins (R94): disk work ends at a band boundary, the heads unload. -/
def fallowStart (s : State) : State :=
  s |> updPwr (fun p => { p with target := some 5 }) |> setF F.PWR_MODE_BUSY 1 |> setF F.PWR_MODE_PRIOR (mode s)
    |> forN 4 (fun a s => if (bandOf s a).isNone then unloadHeads a s else s)

/-- VMOT takes the device to Fallow from Full and Solo (R88), from Full with its partner (R94); what waits for the disk ends with
0x0116. -/
def vmotToFallow (s : State) : State :=
  let s1 := forN 4 (diskFail · 0x0116) (updPwr (fun p => { p with vmotFallow := true, diskWait := false }) s)
  if (mode s1 = 3 ∨ mode s1 = 4) ∧ s1.pwr.target ≠ some 1 ∧ s1.pwr.target ≠ some 5 then
    s1 |> (if mode s1 = 3 then nalSend 1 10 [3] else fun s => s) |> fallowStart
  else if mode s1 = 5 ∧ s1.pwr.target.isSome then updPwr (fun p => { p with target := none, wakePending := true }) s1
  else s1

/-- VMOT_START_PERMITTED (R82): in range for 100 ms. -/
def execVmotStartPermitted (mv : BitVec 16) (s : State) : Out :=
  if !live s || s.pwr.hold then .next s
  else
    let s1 := s |> vmotShow mv.toNat |> updPwr (fun p => { p with startPermitted := true, vmotFallow := false, diskWait := false })
    .next (wakeGo (bringSpin (if spindleDue s1 then spnBring s1 else s1)))

/-- VMOT_UNDERVOLTAGE (R82): disk-tier commands end with 0x0116, the bands in progress among them. -/
def execVmotUndervoltage (mv : BitVec 16) (s : State) : Out :=
  if !live s then .next s
  else
    let s1 := s |> vmotShow mv.toNat |> setF F.PWR_VMOT_UV 1 |> updPwr (fun p => { p with startPermitted := false })
    .next (if motOn s1 then s1 |> spnCoast |> retractAll |> forN 4 (haltBand · 0x0116) |> vmotToFallow else s1)

/-- VMOT_OVERVOLTAGE (R82): at first disk-tier commands only wait. -/
def execVmotOvervoltage (mv : BitVec 16) (s : State) : Out :=
  if !live s then .next s
  else
    let s1 := s |> vmotShow mv.toNat |> setF F.PWR_VMOT_OV 1 |> updPwr (fun p => { p with startPermitted := false })
    .next (if motOn s1 then s1 |> spnCoast |> stopAll |> updPwr (fun p => { p with diskWait := !p.vmotFallow }) else s1)

/-- VMOT_OV_FALLOW_TIMEOUT (R82): above 15.5 V for 100 ms. -/
def execVmotOvFallowTimeout (s : State) : Out :=
  if live s && s.pwr.diskWait && decide (15500 < getF s F.PWR_VMOT_MV) then .next (vmotToFallow s) else .next s

/-- VMOT_OV_RETURN (R82): back within 100 ms; the disk waits until a start is permitted again. -/
def execVmotOvReturn (mv : BitVec 16) (s : State) : Out :=
  if !live s then .next s else .next (vmotShow mv.toNat s)

/-! ### Power domains (R84 to R86, R530) -/

/-- A write of PWR_DOM_CTL (R84): SUP and VAT stay on; what the mode requires stays on. -/
def domReq (p : Path) (d : Nat) (w : Word) (s : State) : State × Nat :=
  if d = 0 ∨ d = 16 then (s, 0)
  else if w.getLsbD 0 then (domUp d s, 0)
  else if required s d then (setF (F.PWR_DOM_REFUSED d) 1 s, match p with
    | .mbx _ => 0x0112
    | _ => 0)
  else (domDown d s, 0)

/-- PWR_DOM_REQ_WRITE (R84). -/
def execPwrDomReqWrite (p : Path) (d : Fin 17) (w : BitVec 32) (s : State) : Out :=
  .next (busAct p (R.PWR_DOM_CTL d.val) w (domReq p d.val w) s)

/-- DOMAIN_DRAIN_DONE (R85): nothing is in flight any more; a change to Dormant goes on. -/
def execDomainDrainDone (d : Fin 17) (s : State) : Out :=
  if getF s (F.PWR_DOM_STATE d.val) = 3 ∧ inFlight s d.val = false then .next (s |> domainOff d.val |> dormantGo) else .next s

/-- Every transfer in flight in a domain halts with 0x0110 (R85). -/
def haltTransfers (d : Nat) (s : State) : State :=
  let s1 := if d = 10 ∨ d = 14 ∨ d = 15 then forN 16 (fun n s => if dmaWorks s n then dmaHalt n 0x0110 0 s else s) s else s
  let s2 := (s1.host.cmds.filter (cmdHolds s1 d)).foldl (fun s c => finishCmd c 0x0110 true s) s1
  if 2 ≤ d ∧ d ≤ 5 then haltBand (d - 2) 0x0110 s2 else s2

/-- PWR_DRAIN_LIMIT_EXPIRY (R85). -/
def execPwrDrainLimitExpiry (d : Fin 17) (s : State) : Out :=
  if getF s (F.PWR_DOM_STATE d.val) = 3 then
    .next (s |> haltTransfers d.val |> domainOff d.val |> setF (F.PWR_DOM_WITHDRAWN d.val) 1 |> dormantGo)
  else .next s

/-- DOMAIN_POWER_UP_DONE (R530): `offline` the decoders that fail their self-test (R213). -/
def execDomainPowerUpDone (d : Fin 17) (offline : BitVec 80) (s : State) : Out := .next (s |> domainUp d.val offline |> step6Begin)

end Sys2Proof.Machine
end

