-- ==== Sys2Proof/Machine/Clocks.lean ====
section
/-! DEFINITION. The rows of the pace governor, the clocked islands and the references (R103 to R124). -/

namespace Sys2Proof.Machine

/-! ### The pace governor -/

/-- The margin of the required pace in percent, as it acts (R106). -/
def govMargin (s : State) : Nat := min 30 (max 5 (getF s F.CLK_GOV_MARGIN))

/-- The least OSR in hundredths above 1, as it acts. -/
def osrMin (s : State) : Nat := min 25 (max 5 (getF s F.CLK_GOV_OSR_MIN))

/-- The pace in hc/us is short of what a channel rate in kb/s needs at an OSR: 8 bits a handshake, with the margin (R106). -/
def paceShort (s : State) (pace rate osr : Nat) : Bool := decide (pace * 80000000 < rate * (100 + osr) * (100 + govMargin s))

/-- The largest OSR from `lo` to `hi` whose need the pace meets. -/
def osrFit (s : State) (pace rate lo hi : Nat) : Option Nat :=
  ((List.range (hi + 1)).filter (fun o => decide (lo ≤ o) && !paceShort s pace rate o)).getLast?

/-- What the governor does while pace is short, once VCORE cannot rise (R106 steps 2 and 3): the largest OSR that fits, else the
least one and one read preamplifier less, never below the guaranteed admission. -/
def govCut (pace rate floor : Nat) (s : State) : State :=
  match osrFit s pace rate (osrMin s) (getF s F.CLK_GOV_OSR_NOW) with
  | some o => setF F.CLK_GOV_OSR_NOW o s
  | none =>
    let s1 := setF F.CLK_GOV_OSR_NOW (osrMin s) s
    match paVictim s with
    | some p => if floor < s.clk.admitted.length then paRemove p s1 else s1
    | none => s1

/-- VCORE, OSR and removal (R106, R107). `capHolds`: the input current cap holds VCORE. -/
def govAct (pace rate floor : Nat) (capHolds : Bool) (s0 : State) : State :=
  let s := setF F.CLK_GOV_OSR_NOW (max (osrMin s0) (getF s0 F.CLK_GOV_OSR_NOW)) s0
  let v := getF s F.CLK_VCORE_TARGET_MV
  if paceShort s pace rate (getF s F.CLK_GOV_OSR_NOW) then
    if v < 840 ∧ capHolds = false then setF F.CLK_VCORE_TARGET_MV (v + 5) s else govCut pace rate floor s
  else
    let o := (osrFit s pace rate (getF s F.CLK_GOV_OSR_NOW) 25).getD (getF s F.CLK_GOV_OSR_NOW)
    let s1 := setF F.CLK_GOV_OSR_NOW o s
    if 110 * (rate * (100 + o) * (100 + govMargin s)) < pace * 8000000000 ∧ 750 < v then setF F.CLK_VCORE_TARGET_MV (v - 5) s1 else s1

/-- The governor's status bits. -/
def govShow (capHolds : Bool) (s : State) : State :=
  s |> setB F.CLK_GOV_VCORE_MAX (capHolds || decide (840 ≤ getF s F.CLK_VCORE_TARGET_MV)) |> setB F.CLK_GOV_OSR_CUT (decide (getF s F.CLK_GOV_OSR_NOW < 25))
    |> setB F.CLK_GOV_HEADS_CUT (!s.clk.removed.isEmpty)

/-- GOVERNOR_RUN (R80 to R82, R103, R106 to R108, R213): with the pace, VCORE, VSYS and VMOT as measured; whether the input current cap
holds VCORE; and how many preamplifiers the cap allows. -/
def execGovernorRun (pace vcore vsys vmot : BitVec 16) (capHolds : Bool) (capPas : Fin 17) (s : State) : Out :=
  if !live s then .next s
  else
    let mn := vsysFloor vsys.toNat / 9 - offlineCut s
    let rate := govRate s
    let s1 := s |> setF F.CLK_PACE_NOW pace.toNat
      |> (if !s.clk.paceSeen || decide (pace.toNat < getF s F.CLK_PACE_LOW) then setF F.CLK_PACE_LOW pace.toNat else fun s => s)
      |> setF F.CLK_VCORE_MV vcore.toNat |> setF F.PWR_VSYS_MV vsys.toNat |> vmotShow vmot.toNat |> setF F.PWR_HEADS_FLOOR (9 * mn)
      |> updClk (fun c => { c with paceSeen := true, required := rate })
      |> govAct pace.toNat rate mn capHolds |> govShow capHolds
    .next (admitTo (admitPick mn (max mn (min s1.clk.govMax (capPas.val - offlineCut s))) s1) s1)

/-- PREAMP_READMIT_TIMER (R107): the pace has held for 1 s; a removed preamplifier may be admitted again. -/
def execPreampReadmitTimer (p : Fin 16) (s : State) : Out :=
  if s.clk.removed.contains p.val && !s.therm.over105 && !s.therm.over115
      && decide (105 * (s.clk.required * 125 * (100 + govMargin s)) ≤ getF s F.CLK_PACE_NOW * 8000000000) then
    let l := s.clk.removed.filter (fun x => x ≠ p.val)
    .next (s |> updClk (fun c => { c with removed := l, govMax := if l.isEmpty then 16 else c.govMax + 1 }) |> setB F.CLK_GOV_HEADS_CUT (!l.isEmpty))
  else .next s

/-- SAMPLE_BUFFER_OVERRUN (R109): the sector in progress is abandoned and read again on a later revolution, without a step of the
retry ladder; a re-read of the ladder stays at its step (R224). The buffer holds 20,000 samples (R182); `fill` is what it would have to hold. -/
def execSampleBufferOverrun (h : Fin 144) (fill : Nat) (s : State) : Out :=
  let y := headOf s h.val
  let mark (s : State) : State := s |> updHead h.val (fun y => { y with behind := 0 }) |> sectorDone h.val |> headStat h.val 5
    |> setF (F.HC_FLT_OVERRUN h.val) 1 |> setF F.CLK_GOV_OVERRUN 1 |> count R.CLK_OVERRUN_LO 1 |> raise 4 0x0125 2 h.val 0
  if max fill y.behind ≤ 20000 then .next s
  else match y.cur, y.ladder with
  | some x, _ => .next (s |> sectorAgain h.val x |> mark)
  | none, x :: _ => if x.step ≠ 8 ∧ x.step ≠ 12 then .next (mark s) else .next s
  | none, [] => .next s

/-- CLK_PACE_LOW_RST (R103). -/
def execClkPaceLowRst (p : Path) (s : State) : Out :=
  .next (busAct p R.CLK_GOV_CTL (BitVec.ofNat 32 (2 ^ 16 + rdN s R.CLK_GOV_CTL % 2 ^ 16)) (acc paceLowRst) s)

/-! ### Synthesizers -/

/-- CLK_PLL_CFG_WRITE (R111). -/
def execClkPllCfgWrite (p : Path) (i : Fin 10) (w : BitVec 32) (s : State) : Out :=
  .next (busAct p (R.CLK_PLL_CFG i.val) w (acc (pllStore i.val w)) s)

/-- PLL_LOCK (R110, R113, R116, R123): an island with power and reference that is not gated; SUP again runs from SYS_REFCLK, and the
Nalyn link trains (R70). -/
def execPllLock (i : Fin 13) (s : State) : Out :=
  if live s && domOn s (islandDom i.val) && isSet s (F.CLK_REF_OK i.val) && !isSet s (F.CLK_GATED i.val) && vcoOk s i.val then
    .next (s |> setF (F.CLK_LOCKED i.val) 1 |> (if i.val = 0 then setF F.CLK_BACKUP_ACTIVE 0 else if i.val = 12 then trainSend else fun s => s))
  else .next s

/-- CLK_SSC_WRITE (R117). -/
def execClkSscWrite (p : Path) (pactl : Bool) (w : BitVec 32) (s : State) : Out :=
  let j := b2n pactl
  .next (busAct p (sscReg j) w (acc (sscStore j w)) s)

/-! ### Gates -/

/-- The access in progress as the gate rows name it. -/
def busyOf (b : Option (Path × BitVec 24)) : Option (Path × Nat) := b.map (fun x => (x.1, x.2.toNat))

/-- CLK_GATE_REQ_SET (R114, R116): `busy` is the access to the island that is in progress. -/
def execClkGateReqSet (p : Path) (i : Fin 13) (busy : Option (Path × BitVec 24)) (s : State) : Out :=
  .next (busAct p (R.CLK_ISL_CTL i.val) 1 (acc (gateReq i.val (busyOf busy))) s)

/-- CLK_GATE_REQ_CLEAR (R116). -/
def execClkGateReqClear (p : Path) (i : Fin 13) (s : State) : Out := .next (busAct p (R.CLK_ISL_CTL i.val) 0 (acc (gateClear i.val)) s)

/-- CLK_GATE_IDLE (R114): the access in progress has ended. -/
def execClkGateIdle (i : Fin 13) (s : State) : Out :=
  if isSet s (F.CLK_GATE_PENDING i.val) then .next (gateTake i.val s) else .next s

/-- CLK_GATE_FORCE (R115): `idle`: the handshake goes idle in the same cycle. The request bit is written as it stands. -/
def execClkGateForce (p : Path) (i : Fin 13) (idle : Bool) (s : State) : Out :=
  .next (busAct p (R.CLK_ISL_CTL i.val) (BitVec.ofNat 32 (2 + getF s (F.CLK_GATE_REQ i.val))) (acc (gateForce i.val idle)) s)

/-- CLK_SAFE_RELEASE (R123, R482). -/
def execClkSafeRelease (p : Path) (i : Fin 13) (s : State) : Out :=
  .next (busAct p (R.CLK_ISL_CTL i.val) (BitVec.ofNat 32 (4 + getF s (F.CLK_GATE_REQ i.val))) (acc (expertRelease p i.val)) s)

/-! ### References -/

/-- REF_EDGE_TIMEOUT (R120). -/
def execRefEdgeTimeout (r : Fin 4) (s : State) : Out := if live s then .next (refLoss r.val s) else .next s

/-- REF_FREQ_MISMATCH (R120): in parts per million, SYS_REFCLK against the backup oscillator and the others against SYS_REFCLK. -/
def execRefFreqMismatch (backup pcie fab nal : Int) (s : State) : Out :=
  let off (x : Int) (lim : Nat) : Bool := decide (lim < x.natAbs)
  if !live s || refLost s 0 then .next s
  else if off backup 30000 || (off fab 500 && off nal 500 && !off (fab - nal) 500) then .next (refLoss 0 s)
  else .next (s |> (if off pcie 6000 then refLoss 1 else fun s => s) |> (if off fab 500 then refLoss 2 else fun s => s)
    |> (if off nal 500 then refLoss 3 else fun s => s))

/-- REF_RETURN (R123, R476). -/
def execRefReturn (r : Fin 4) (s : State) : Out :=
  if !refLost s r.val then .next s
  else
    let s1 := (refIslands r.val).foldl (fun s i => setF (F.CLK_REF_OK i) 1 s) (setF ⟨R.CLK_REF_STATUS, r.val, 1⟩ 0 s)
    .next (if getF s1 (FF_INST 2) = r.val then clearLive 2 0x0122 s1 else s1)

/-- The order in which firmware releases the islands of a reference (R123). -/
def releaseOrder (r : Nat) : List Nat := if r = 0 then [1, 2, 9, 3, 4, 5, 6, 7, 8] else refIslands r

/-- REF_GOOD_100MS (R123): firmware releases the islands, unless it no longer does so by itself (R482); after SYS_REFCLK the spindle
and the heads come back as in a wake. A SYS_REFCLK loss of 10 ms or more is not taken back (R122). -/
def execRefGood100ms (r : Fin 4) (s : State) : Out :=
  if refLost s r.val || escalated s 0x0122 r.val || s.pwr.sysRefFailed then .next s
  else
    let held := (releaseOrder r.val).filter (fun i => isSet s (F.CLK_SAFE_HELD i))
    let s1 := held.foldl (fun s i => safeRelease i s) s
    .next (if r.val = 0 ∧ held ≠ [] then s1 |> (if spindleDue s1 then spnBring else fun s => s) |> (if spindleDue s1 then loadAll else fun s => s) else s1)

/-- SYS_REFCLK_LOSS_10MS (R122). -/
def execSysRefclkLoss10ms (s : State) : Out :=
  if live s && refLost s 0 then
    .next (nalDown { s with pwr := { s.pwr with sysRefFailed := true }, pins := { s.pins with nalTx := false } })
  else .next s

/-- FAB_REFCLK_LOSS_1S (R121): the volume groups go to the partner. -/
def execFabRefclkLoss1s (s : State) : Out :=
  if refLost s 2 && isSet s F.NAL_UP && s.pair.handover.isNone then
    .next (updPair (fun p => { p with give := p.give ++ [4, 5].filter (fun t => owns s t && !p.give.contains t) }) s)
  else .next s

/-- TS_IN_PULSE (R112): firmware disciplines the TIME island to the pulse. A count behind the full second catches up by an amount that
the spec does not state, at most the whole error; one ahead only runs slower. -/
def execTsInPulse (s : State) : Out :=
  if !live s then .next s
  else
    let r := s.now.toNat % 1000000000
    let err := if r ≤ 500000000 then 0 else 1000000000 - r
    let f := takeFree s
    .next { updClk (fun c => { c with tsIn := some s.now }) f.2 with now := s.now + BitVec.ofNat 64 (f.1.toNat % (err + 1)) }

/-- TS_OUT_SECONDS_ROLLOVER (R112). -/
def execTsOutSecondsRollover (s : State) : Out :=
  if live s && decide (s.now.toNat % 1000000000 = 0) && !isSet s (F.CLK_SAFE_HELD 1) then .next (send .clkPulse s) else .next s

/-! ### Clock commands (R124) -/

/-- CLK_GATE. -/
def execClkGate (m : Fin 16) (busy : Option (Path × BitVec 24)) (s : State) : Out :=
  .next (mbxRow m.val 0x0110 (fun c => decide (par c 8 1 = 1)) (fun c s =>
    let i := par c 0 4
    if 12 < i then answer 0x0016 s
    else
      let s1 := gateReq i (busyOf busy) s
      if isSet s1 (F.CLK_GATED i) then answer 0 s1
      else if isSet s1 (F.CLK_GATE_PENDING i) then (s1, none)
      else answer 0x0124 s1) s)

/-- CLK_UNGATE. -/
def execClkUngate (m : Fin 16) (s : State) : Out :=
  .next (mbxRow m.val 0x0110 (fun c => decide (par c 8 1 = 0)) (fun c s =>
    let i := par c 0 4
    if 12 < i then answer 0x0016 s else answer 0 (gateClear i s)) s)

/-- CLK_GATE_LIMIT_EXPIRY: with FORCE the gate is forced, else it is cancelled and the command completes with 0x0014. -/
def execClkGateLimitExpiry (m : Fin 16) (idle : Bool) (s : State) : Out :=
  let c := (mbxAt s m.val).cmd
  if (mbxWaiting s (fun c => isGateCmd (par c 0 4) c)).contains m.val then
    let i := par c 0 4
    if isSet s (F.CLK_GATE_PENDING i) ∧ par c 9 1 = 1 then .next (gateForce i idle s)
    else .next (mbxSetResult m.val (resStatus 0x0014) (if isSet s (F.CLK_GATE_PENDING i) then gateClear i s else s))
  else .next s

/-- CLK_RELEASE. -/
def execClkRelease (m : Fin 16) (s : State) : Out :=
  .next (mbxRow m.val 0x0111 anyParam (fun c s =>
    let i := par c 0 4
    if 12 < i then answer 0x0016 s else answer (if isSet s (F.CLK_LOCKED i) then 0 else 0x0123) (safeRelease i s)) s)

/-- CLK_STATUS. -/
def execClkStatus (m : Fin 16) (s : State) : Out :=
  .next (mbxRow m.val 0x0112 anyParam (fun _ s =>
    answerData (([R.CLK_PACE, R.CLK_VCORE, R.CLK_GOV_STATUS, R.CLK_REF_STATUS] ++ (List.range 13).map R.CLK_ISL_STATUS).flatMap
      (fun a => leBytes 4 (rdN s a))) s) s)

end Sys2Proof.Machine
end

