-- ==== Sys2Proof/Machine/Drive.lean ====
section
/-! DEFINITION. What happens in a carrier period: single-shunt reconstruction (R281, R282), field-oriented control (R279),
the choice of the position source (R283), and the VCM current loops (R288). Currents are in mA, voltages in units of
2^-12 mV, duties in 1/65536. -/

namespace Sys2Proof.Machine

/-! ### Single-shunt sampling (R281, R282) -/

/-- A phase's duty. -/
def dutyOf (d : Nat × Nat × Nat) (i : Nat) : Nat := if i = 0 then d.1 else if i = 1 then d.2.1 else d.2.2

/-- The phases in falling order of duty. -/
def dutyOrder (d : Nat × Nat × Nat) : Nat × Nat × Nat :=
  let ge (i j : Nat) : Bool := decide (dutyOf d j ≤ dutyOf d i)
  if ge 0 1 then (if ge 1 2 then (0, 1, 2) else if ge 0 2 then (0, 2, 1) else (2, 0, 1))
  else if ge 0 2 then (1, 0, 2) else if ge 1 2 then (1, 2, 0) else (2, 1, 0)

/-- SPN_SS_TMIN as it acts, in ps. -/
def ssTmin (s : State) : Nat := max 200 (getF s F.SPN_SS_TMIN) * 1000

/-- An interval of `l` (in 1/131072 period), with `room` to move a pulse: its current can be measured. -/
def ssMeasured (tmin period l room : Nat) : Bool :=
  decide (tmin * 131072 ≤ l * period ∨ tmin * 131072 - l * period ≤ room * period)

/-- The phase currents (U, V) of a period, and whether it counts as predicted. -/
def phaseCurrents (s : State) (x : Carrier) : (Int × Int) × Bool :=
  let d := s.mot.spn.duty
  let o := dutyOrder d
  let hi := dutyOf d o.1
  let mid := dutyOf d o.2.1
  let lo := dutyOf d o.2.2
  let ok1 := ssMeasured (ssTmin s) x.period (hi - mid) (65536 - hi)
  let ok2 := ssMeasured (ssTmin s) x.period (mid - lo) (65536 - lo)
  let fresh := s.mot.spn.fresh
  let iHi := if fresh || !ok1 then x.m1 else x.i1
  let iLo := -(if fresh || !ok2 then x.m2 else x.i2)
  let iOf (p : Nat) : Int := if p = o.1 then iHi else if p = o.2.2 then iLo else -(iHi + iLo)
  ((iOf 0, iOf 1), !fresh && (!ok1 || !ok2))

/-- The count of predicted periods, and the scaling that follows too many in a row. -/
def ssPredict (pred : Bool) (s : State) : State :=
  let n := if pred then s.mot.spn.predRun + 1 else 0
  let s1 := s |> (if pred then count R.SPN_SS_PRED_LO 1 else fun s => s) |> updSpn (fun y => { y with predRun := n, scale := y.scale - 1 })
  let s2 := if max 1 (getF s F.SPN_SS_PRED_MAX) ≤ n then
      s1 |> updSpn (fun y => { y with predRun := 0, scale := 64 }) |> setF F.SPN_SS_PRED_LIMIT 1 |> raise 8 0x0334 1 0xFFFF 0
    else s1
  setB F.SPN_SS_CLAMP (decide (0 < s2.mot.spn.scale)) s2

/-! ### Field-oriented control (R279) -/

/-- The d and q currents of two phase currents at an angle (amplitude-invariant), in mA. -/
def dqOf (i : Int × Int) (c sn : Int) : Int × Int :=
  let be := roundNear ((i.1 + 2 * i.2) * 619925131) (2 ^ 30)
  (roundNear (i.1 * c + be * sn) (2 ^ 30), roundNear (be * c - i.1 * sn) (2 ^ 30))

/-- The targets of i_d and i_q: a fixed vector while braking with direct current or aligning, else the torque with its
cogging term, within the current limit. -/
def dqTarget (s : State) : Int × Int :=
  let lim : Int := spnLimit s
  if spnState s = 2 ∨ spnState s = 3 then (min lim (getF s F.SPN_BRAKE_MA), 0)
  else
    let tau := s.pair.torqueCmd * 2 ^ 45 + cogTerm s (getF s F.SPN_ANGLE) / (if twoSets s then 2 else 1)
    (0, clampI (-lim) lim (roundNear (tau * (min 3000 (getF s F.SPN_IMAX_MA) : Nat)) (2 ^ 60)))

/-- The voltage vector within VMOT / sqrt 3, and whether it was clamped. -/
def vLimit (s : State) (vd vq : Int) : (Int × Int) × Bool :=
  let m := 3 * (vd * vd + vq * vq).toNat
  let v := getF s F.PWR_VMOT_MV * 4096
  if m ≤ v * v then ((vd, vq), false)
  else
    let k : Int := isqrt (v * v * 2 ^ 40 / m)
    ((vd * k / 2 ^ 20, vq * k / 2 ^ 20), true)

/-- A duty with the dead-time correction of the phase current's sign: half the switching of the dead time, of the period. -/
def deadComp (s : State) (period : Nat) (i d : Int) : Nat :=
  (clampI 0 65536 (d + i.sign * (getF s F.SPN_DEAD * 10000 * 65536 / max 1 period : Nat))).toNat

/-- The three duties of a voltage vector turned back to phases, with min-max zero sequence, about the half duty. -/
def svm (s : State) (x : Carrier) (vd vq : Int) : Int × Int × Int :=
  let al := vd * x.cosA - vq * x.sinA
  let be := roundNear ((vd * x.sinA + vq * x.cosA) * 929887697) (2 ^ 30)
  let u := al
  let v := -(al / 2) + be
  let w := -(al / 2) - be
  let z := (max u (max v w) + min u (min v w)) / 2
  let vm := getF s F.PWR_VMOT_MV * 4096 * 2 ^ 30
  let d (p : Int) : Int := 32768 + roundNear ((p - z) * 65536) (max 1 vm)
  (d u, d v, d w)

/-- Duties scaled about the half duty so that a move is always possible (R282). -/
def ssScale (s : State) (period : Nat) (d : Int × Int × Int) : Int × Int × Int :=
  let e (p : Int) : Int := p - 32768
  let m := max (e d.1).natAbs (max (e d.2.1).natAbs (e d.2.2).natAbs)
  let lim := 32768 - ceilDivN (131072 * ssTmin s) period
  let f (p : Int) : Int := if m ≤ lim then p else 32768 + (e p).sign * ((e p).natAbs * lim / max 1 m : Nat)
  (f d.1, f d.2.1, f d.2.2)
where
  /-- Ceiling division that answers the whole for a period of 0. -/
  ceilDivN (n d : Nat) : Nat := if d = 0 then 32768 else (n + d - 1) / d

/-- The spindle's current loop of a carrier period. -/
def spnLoop (x : Carrier) (s : State) : State :=
  if s.mot.spn.shorted then
    let i := phaseCurrents s x
    let ovr := decide (spnLimit s < max i.1.1.natAbs (max i.1.2.natAbs (i.1.1 + i.1.2).natAbs))
    updSpn (fun y => { y with released := ovr, duty := (0, 0, 0) }) s
  else if !spnDriving s then updSpn (fun y => { y with duty := (0, 0, 0), fresh := true }) s
  else
    let i := phaseCurrents s x
    let dq := dqOf i.1 x.cosE x.sinE
    let t := dqTarget s
    let kp : Int := getF s F.SPN_KP
    let ki : Int := getF s F.SPN_KI
    let ed := t.1 - dq.1
    let eq := t.2 - dq.2
    let g := s.mot.spn
    let v := vLimit s (kp * ed + g.integD) (kp * eq + g.integQ)
    let s1 := s |> setF F.SPN_ID_MA (unsgn 16 dq.1) |> setF F.SPN_IQ_MA (unsgn 16 dq.2) |> setB F.SPN_VLIMIT v.2
      |> updSpn (fun y => { y with fresh := false
                                   integD := if v.2 then y.integD else y.integD + ki * ed
                                   integQ := if v.2 then y.integQ else y.integQ + ki * eq })
      |> ssPredict i.2
    let d0 := svm s x v.1.1 v.1.2
    let d := if 0 < s1.mot.spn.scale then ssScale s x.period d0 else d0
    let iw := -(i.1.1 + i.1.2)
    updSpn (fun y => { y with duty := (deadComp s x.period i.1.1 d.1, deadComp s x.period i.1.2 d.2.1, deadComp s x.period iw d.2.2) }) s1

/-! ### Position sources (R283) -/

/-- Two angles differ by more than SPN_XCHK_EDEG electrical degrees. -/
def anglesDiffer (s : State) (a b : Nat) : Bool :=
  let p := (s.desc.map (fun d => d.polePairs)).getD 1
  let e := ((a + 2 ^ 20 - b % 2 ^ 20) % 2 ^ 20) * p % 2 ^ 20
  decide (getF s F.SPN_XCHK_EDEG * 2 ^ 20 < min e (2 ^ 20 - e) * 360)

/-- The angle of a wedge (R283). -/
def wedgeAngle (s : State) (w : Nat) : Nat :=
  (2 ^ 20 * w / max 1 ((s.desc.map (fun d => d.wedges)).getD 1) + getF s F.SPN_WEDGE_OFS) % 2 ^ 20

/-- A run of disagreements: it grows, breaks, or is left where a source gives nothing. -/
def disRun (n : Nat) (d : Option Bool) : Nat :=
  match d with
  | some true => n + 1
  | some false => 0
  | none => n

/-- Wedge timing is available: the device holds a loaded actuator. -/
def wedgesThere (s : State) : Bool := (List.range 4).any (fun a => owns s a && headsLoaded s a)

/-- The encoder and the observer are lost together. -/
def allLost (s : State) : State :=
  s |> spnCoast |> retractAll |> setF F.SPN_SRC_ALL_LOST 1 |> raise 8 0x0331 2 0xFFFF 0

/-- The encoder is lost. -/
def encoderLost (s : State) : State :=
  if s.mot.spn.encLost then s
  else s |> updSpn (fun y => { y with encLost := true }) |> setF F.SPN_ENC_LOST 1 |> raise 8 0x0332 2 0xFFFF 0

/-- The observer is lost and reseeded. -/
def observerLost (s : State) : State :=
  s |> updSpn (fun y => { y with disEO := 0, disOW := 0 }) |> setF F.SPN_OBS_LOST 1 |> raise 8 0x0333 1 0xFFFF 0

/-- The sources of a carrier period are compared, and a loss is acted on (R283). -/
def spnSources (x : Carrier) (s : State) : State :=
  let g := s.mot.spn
  let encA := if hasEncoder s then x.enc.map (fun e => e.1) else none
  let obsA := if obsValid s then x.obs else none
  let wA := if wedgesThere s then x.wedge.map (wedgeAngle s) else none
  let bad := match x.enc with
    | some e => decide (e.2.1 < 500 ∨ 1600 < e.2.1 ∨ e.2.2.1 < 500 ∨ 1600 < e.2.2.1 ∨ 250 < e.2.2.2)
    | none => true
  let cmp (a b : Option Nat) : Option Bool := match a, b with
    | some p, some q => some (anglesDiffer s p q)
    | _, _ => none
  let s1 := updSpn (fun y => { y with
    selfFail := if bad then y.selfFail + 1 else 0
    disEO := disRun y.disEO (cmp encA obsA)
    disEW := disRun y.disEW (cmp encA wA)
    disOW := disRun y.disOW (cmp obsA wA) }) s
  let h := s1.mot.spn
  let selfBad := hasEncoder s && (decide (3 ≤ h.selfFail) || x.encOver)
  let eo := decide (16 ≤ h.disEO)
  let ew := decide (4 ≤ h.disEW)
  let ow := decide (4 ≤ h.disOW)
  let have3 := obsValid s && wedgesThere s
  let s2 :=
    if g.encLost ∨ hasEncoder s = false then s1
    else if selfBad then encoderLost s1
    else if have3 ∧ eo ∧ ew ∧ ow = false then encoderLost s1
    else if eo then
      (if have3 ∧ ew ∧ ow then setF F.SPN_WEDGE_DISAGREE 1 s1 else s1) |> observerLost
    else s1
  let lost := s2.mot.spn.encLost || !hasEncoder s
  let onCtl := decide (4 ≤ spnState s2 ∧ spnState s2 ≤ 6) && !h.shorted && decide (getF s2 F.SPN_SRC ≠ 3)
  if lost && onCtl && !obsValid s2 then allLost s2
  else
    let s3 := if onCtl then setF F.SPN_SRC (if !lost then 0 else if wedgesThere s2 then 1 else 2) s2 else s2
    match (if getF s3 F.SPN_SRC = 1 then wA else if getF s3 F.SPN_SRC = 2 then x.obs else if lost then none else encA) with
    | some a => setF F.SPN_ANGLE a s3
    | none => s3

/-! ### VCM current loops (R288, R289) -/

/-- The share of an actuator's command that this device's bridge applies, in 1/2000000: falling while it releases the coil. -/
def blendShare (s : State) (a : Nat) : Nat :=
  match s.pair.blends.getD a none with
  | some b => if b.giving then (if b.ramped then 0 else 2000000 - (s.now.toNat - b.start)) else 2000000
  | none => 2000000

/-- The target of a coil's current in mA: the loop output of the driven coil's full current, within the limit. -/
def vcmTarget (s : State) (a : Nat) : Int :=
  let i := (s.desc.map (fun d => d.vcmImaxMa)).getD 0
  let lim : Int := i * s.mot.limitPm / 1000
  let out := sgn 16 (getF s (F.VCM_ICMD a)) * (blendShare s a : Nat)
  let k := if getF s (F.VCM_COIL a) = 1 then Config.coilScale a else 65536
  clampI (-lim) lim (roundNear (out * (i * k : Nat)) (2000000 * 32768 * 65536))

/-- The current loop of one VCM bridge. -/
def vcmLoop (x : Carrier) (a : Nat) (s : State) : State :=
  let v := getF s (F.VCM_STATE a)
  let i := x.coils.getD a 0
  if 1 ≤ v ∧ v ≤ 4 then
    let e := vcmTarget s a - i
    let kp : Int := getF s (F.VCM_KP a)
    let ki : Int := getF s (F.VCM_KI a)
    s |> setF (F.VCM_I_MA a) (unsgn 16 i) |> updVcm a (fun y => { y with volt := kp * e + y.integ, integ := y.integ + ki * e })
  else s |> setF (F.VCM_I_MA a) (unsgn 16 i) |> updVcm a (fun y => { y with volt := 0, integ := 0 })

/-! ### Air-mover bridges (R296, R297) -/

/-- The phase (0 U, 1 V, 2 W) whose high side switches and the one whose low side is on, for a Hall code; none for an invalid one. -/
def hallPhases (h : Nat) : Option (Nat × Nat) :=
  if h = 5 then some (0, 1) else if h = 4 then some (0, 2) else if h = 6 then some (1, 2)
  else if h = 2 then some (1, 0) else if h = 3 then some (2, 0) else if h = 1 then some (2, 1) else none

/-- The bridge of an air mover for a carrier period: high-side phase, low-side phase, duty in 1/4096. The DC brake holds the code 0b101 at 25 %. -/
def fanLoop (f : Nat) (s : State) : State :=
  let v := getF s (F.FAN_STATE f)
  let d := if v = 1 then some (0, 1, 1024)
    else if v = 2 ∨ v = 3 then (hallPhases (getF s (F.FAN_HALL f))).map (fun x => (x.1, x.2, getF s (F.FAN_DUTY f)))
    else none
  updFan f (fun x => { x with drive := d }) s

/-- CARRIER_PERIOD (R270, R117): its measured length lies within the spread. -/
def execCarrierPeriod (x : Carrier) (s : State) : Out :=
  if !motOn s then .next s
  else
    let y := { x with period := carrierBound s x.period }
    .next (s |> spnSources y |> spnLoop y |> forN 4 (vcmLoop y) |> forN 4 fanLoop)

/-- ENCODER_READMIT (R283). -/
def execEncoderReadmit (s : State) : Out :=
  if motOn s && hasEncoder s && s.mot.spn.encLost then
    .next (s |> updSpn (fun y => { y with encLost := false, selfFail := 0, disEO := 0, disEW := 0 })
      |> (if getF s F.SPN_SRC = 1 ∨ getF s F.SPN_SRC = 2 then setF F.SPN_SRC 0 else fun s => s))
  else .next s

end Sys2Proof.Machine
end

