-- ==== Sys2Proof/Machine/Faults.lean ====
section
/-! DEFINITION. The fault log's second, the watchdog, the commit of block 0 and the fault commands (R139, R481, R484,
R495). -/

namespace Sys2Proof.Machine

/-! ### The fault log (R481) -/

/-- The 0x0914 entries at the end of a second, one per block that had entries withheld. -/
def logWithheld (s : State) : State :=
  s.flt.withheld.foldl (fun s e => if e.2 = 0 then s else logAppend ⟨0x0914, 1, e.1, 0xFFFF, e.2, s.now⟩ s) s

/-- FAULT_LOG_SECOND_TIMER (R481): a wedged control cluster logs nothing. -/
def execFaultLogSecondTimer (s : State) : Out :=
  let s1 := if canLog s then logWithheld s else s
  .next { s1 with flt := { s1.flt with withheld := [], corrLogged := [] } }

/-! ### The watchdog (R484) -/

/-- The watchdog is armed: the Supervisor has released the control cores, and the device is not in Dormant or Safe. -/
def wdtArmed (s : State) : Bool := s.pwr.coresRunning && decide (mode s ≠ 1 ∧ mode s ≠ 7)

/-- The watchdog's period in ns; a period of 0 acts as 1 ms. -/
def wdtPeriod (s : State) : Nat := max 1 (getF s F.SUP_WDT_PERIOD_MS) * 1000000

/-- SUP_WDT_KICK (R484): a control core restarts the period; another path is refused as a violation. -/
def execSupWdtKick (p : Path) (s : State) : Out :=
  .next (busAct p R.SUP_WDT_KICK 1 (acc (fun s => { s with pwr := { s.pwr with wdtAt := s.now.toNat } })) s)

/-- SUP_WDT_EXPIRY (R484): the period has passed without a kick. -/
def execSupWdtExpiry (s : State) : Out :=
  if wdtArmed s ∧ s.pwr.wedged = false ∧ s.pwr.wdtAt + wdtPeriod s ≤ s.now.toNat then
    let s1 := setF F.SUP_WDT_EXPIRED 1 s
    .next (raiseLive 0 0x0911 3 0xFFFF 0 true { s1 with pwr := { s1.pwr with wedged := true } })
  else .next s

/-- SUP_COMMIT (R484): the RWL fields of block 0 lock. -/
def execSupCommit (p : Path) (s : State) : Out :=
  .next (busAct p R.SUP_WDT 0x10000 (acc (fun s => { s with pwr := { s.pwr with supCommitted := true } })) s)

/-! ### Fault commands (R495) -/

/-- The eight words of a fault group (R477). -/
def groupBytes (s : State) (b : Nat) : List Byte :=
  (List.range 8).flatMap (fun k => leBytes 4 (rdN s (groupBase b + 4 * k)))

/-- FLT_READ with SEL = 0. -/
def execFltReadGroups (m : Fin 16) (s : State) : Out :=
  .next (mbxRow m.val 0x0900 (fun c => decide (par c 0 1 = 0))
    (fun _ s => answerData ((List.range 21).flatMap (groupBytes s)) s) s)

/-- The last-good-boot record as FLT_READ returns it (R139, R495). -/
def bootRecordBytes (g : GoodBoot) : List Byte :=
  padTo 32 g.meas2 ++ padTo 32 g.meas3 ++ padTo 32 g.meas4 ++ padTo 4 g.meas5 ++ leBytes 8 g.time.toNat

/-- FLT_READ with SEL = 1; with no record yet every byte is 0. -/
def execFltReadBootRecord (m : Fin 16) (s : State) : Out :=
  .next (mbxRow m.val 0x0900 (fun c => decide (par c 0 1 = 1))
    (fun _ s => answerData (s.nv.lastGood.elim (List.replicate 108 0) bootRecordBytes) s) s)

/-- Clear the FF_PEND bits of the classes of a mask (R477). -/
def clearPend (b mask : Nat) (s : State) : State :=
  forN 3 (fun k s => if bitAt mask k then setF (FF_PEND b k) 0 s else s) s

/-- FLT_CLEAR (R495). -/
def execFltClear (m : Fin 16) (s : State) : Out :=
  .next (mbxRow m.val 0x0901 anyParam (fun c s =>
    let b := par c 0 5
    if 20 < b then answer 0x0016 s
    else
      let s1 := if par c 8 1 = 1 then clearLatch b s else s
      answer 0 (if par c 9 1 = 1 then clearPend b (par c 10 3) s1 else s1)) s)

/-- The bytes of an entry of the fault log (R481). -/
def entryBytes (e : FaultEntry) : List Byte :=
  leBytes 2 e.code ++ leBytes 1 e.cls ++ leBytes 1 e.block ++ leBytes 2 e.inst ++ leBytes 2 e.aux ++ leBytes 8 e.time.toNat

/-- How many entries of the log, counted from the oldest held, precede a sequence: none when the sequence is older than
all, all of them when it is not written yet. -/
def logSkip (s : State) (first : Nat) : Nat :=
  let n := s.nv.faultLog.length
  let back := (s.nv.logNext.toNat + 2 ^ 32 - first) % 2 ^ 32
  if back ≤ n then n - back else if newer 32 first s.nv.logNext.toNat then n else 0

/-- FLT_LOG_READ (R481, R495): up to 61 entries with consecutive sequences. -/
def execFltLogRead (m : Fin 16) (s : State) : Out :=
  .next (mbxRow m.val 0x0902 anyParam (fun c s =>
    let k := logSkip s (par c 0 32)
    let n := s.nv.faultLog.length
    let l := (s.nv.faultLog.reverse.drop k).take 61
    let seq := (s.nv.logNext.toNat + 2 ^ 32 - (n - k)) % 2 ^ 32
    answerData (leBytes 4 seq ++ leBytes 2 l.length ++ [0, 0] ++ l.flatMap entryBytes) s) s)

end Sys2Proof.Machine
end

