-- ==== Sys2Proof/Machine/Links.lean ====
section
/-! DEFINITION. The rows of the Nalyn link's flits and training (R52 to R54), of the PCIe function (R73, R75, R324, R531), of the
fabric ports (R77, R507), and the health status over the sled SMBus (R73). -/

namespace Sys2Proof.Machine

/-! ### The Nalyn link -/

/-- A message that has no row of its own (log entry 3): mirrored head parameters (R225), the partner's bands (R290), whether it
runs its own speed loop (R48). -/
def nalTake (x : NalMsg) (s : State) : State :=
  match x with
  | .params h l => updHead h (fun y => { y with mirror := l, calRes := none }) s
  | .band a b => updPair (fun p => { p with partnerBands := setAt p.partnerBands a b }) s
  | .torqueLocal b => updPair (fun p => { p with partnerLocal := b }) s

/-- Messages that wait leave while the replay buffer has room. -/
def nalDrain : Nat → State → State
  | 0, s => s
  | n + 1, s => match s.pair.txWait with
    | [] => s
    | x :: r => if 64 ≤ s.pair.replayBuf.length then s
      else nalDrain n (nalEmit x.1 x.2.1 x.2.2 { s with pair := { s.pair with txWait := r } })

/-- The flits up to the acknowledged one leave the replay buffer (R52, R53). -/
def nalAck (n : Nat) (s : State) : State :=
  nalDrain 64 (updPair (fun p => { p with ackSeq := some (BitVec.ofNat 12 n)
                                          replayBuf := p.replayBuf.filter (fun e => decide (2048 ≤ (n + 4096 - e.1) % 4096)) }) s)

/-- Every flit from the first unacknowledged one on is sent again with its own sequence number (R53). -/
def nalReplay (s : State) : State :=
  s.pair.replayBuf.foldl (fun s e => send (.nal (e.2.1 * 4096 + e.1) (ackWord s.pair) e.2.2.1 e.2.2.2) s)
    (count R.NAL_REPLAY_LO s.pair.replayBuf.length s)

/-- NAL_FLIT_RECEIVED (R52, R53): `failed`: the partner tells that a flit of this device failed its CRC; `msgs`: what the payload
says. A flit that fails its CRC, or is not the next one, is discarded. -/
def execNalFlitReceived (flit : List Byte) (failed : Bool) (msgs : List NalMsg) (s : State) : Out :=
  if !isSet s F.NAL_UP || decide (flit.length ≠ 256) || decide (leAt flit 252 4 ≠ crc32c (flit.take 252)) then .next s
  else
    let hdr := leAt flit 0 2
    let ack := leAt flit 2 2
    let seq := hdr % 4096
    if s.pair.rxSeq.any (fun r => decide (seq ≠ (r.toNat + 1) % 4096)) then .next s
    else
      let s1 := updPair (fun p => { p with rxSeq := some (BitVec.ofNat 12 seq) }) s
      let s2 := if bitAt ack 15 then nalAck (ack % 4096) s1 else s1
      let s3 := if failed then nalReplay s2 else s2
      if 5 ≤ hdr / 4096 then .next (updPair (fun p => { p with reservedFlits := p.reservedFlits + 1 }) s3)
      else .next (msgs.foldl (fun s x => nalTake x s) s3)

/-- NAL_ACK_TIMEOUT (R54, R45). -/
def execNalAckTimeout (s : State) : Out := .next (nalDown s)

/-- NAL_LANE_FAIL (R54): the link is down while it retrains; a lane beyond the active width carries nothing. -/
def execNalLaneFail (lane : Fin 16) (s : State) : Out :=
  let w := getF s F.NAL_WIDTH
  let n := if w = 0 then 0 else if w = 1 then 1 else 2 ^ w
  let used := ((List.range 16).filter (fun l => bitAt (getF s F.NAL_LANE_GOOD) l)).take n
  .next (if used.contains lane.val then nalDown s else s)

/-- NAL_RETRAIN_TIMER (R54, R69, R70): the training sends PAIR_POS. -/
def execNalRetrainTimer (s : State) : Out :=
  .next (trainSend s)

/-! ### The PCIe function -/

/-- The MSI-X capability after a reset of the function. -/
def msixReset (s : State) : State := { s with pcie := { s.pcie with msixEnable := false, fnMask := false, masked := [], vecPend := [] } }

/-- PERST_ASSERT (R75, R324). -/
def execPerstAssert (s : State) : Out :=
  let s1 := { s with pcie := { s.pcie with perst := true } }
  .next (if isSet s F.SUP_STRAP_PCIE_EN && live s then s1 |> pcieReset |> msixReset |> pcieDown else s1)

/-- PERST_DEASSERT (R75): the link then trains. -/
def execPerstDeassert (s : State) : Out := .next { s with pcie := { s.pcie with perst := false } }

/-- PCIE_FLR (R159, R172, R324). -/
def execPcieFlr (s : State) : Out :=
  if !hostReach s then .next s
  else
    let doe (g : Grant) : Bool := s.spdm.sessions.any (fun x => decide (x.sid = g.session ∧ x.port = 1))
    .next (s |> pcieReset |> msixReset |> forN 4 (fun i => mbxResetTo (5 + i)) |> dropGrants doe)

/-- CC_EN_CLEAR (R324). -/
def execCcEnClear (s : State) : Out := if hostReach s then .next (pcieReset s) else .next s

/-- MSIX_UNMASK (R531): the MSI-X capability and masks as the host leaves them; a pending message whose mask is clear is sent, and
with MSI-X Enable off none stays held. -/
def execMsixUnmask (enable fnMask : Bool) (masked : List Nat) (s : State) : Out :=
  if !hostReach s then .next s
  else
    let go := s.pcie.vecPend.filter (fun v => enable && !fnMask && !masked.contains v)
    let s1 := { s with pcie := { s.pcie with msixEnable := enable, fnMask := fnMask, masked := masked,
                                             vecPend := s.pcie.vecPend.filter (fun v => enable && !go.contains v) } }
    .next (go.foldl (fun s v => send (.msix v) s) s1)

/-- PCIE_LINK_CHANGE (R75, R116, R121, R531): the link trains only on a clocked island out of reset. -/
def execPcieLinkChange (up : Bool) (s : State) : Out :=
  if !up then .next (pcieDown s)
  else if isSet s F.SUP_STRAP_PCIE_EN && !s.pcie.perst && domOn s 13 && isSet s (F.CLK_LOCKED 10) && !isSet s (F.CLK_SAFE_HELD 10) then
    .next { s with pcie := { s.pcie with linkUp := true } }
  else .next s

/-! ### The fabric and the sled -/

/-- FAB_LINK_CHANGE (R76, R507): a port of the profile that is enabled, on a clocked island, comes up at the profile's rate. -/
def execFabLinkChange (q : Fin 8) (up : Bool) (s : State) : Out :=
  if profilePorts s.pwr.fabProfile ≤ q.val ∨ domOn s 11 = false then .next s
  else if !up then .next (portSet q.val false 0 0 s)
  else if isSet s (F.FAB_P_EN q.val) && s.pins.fabTx && isSet s (F.CLK_LOCKED 11) && !isSet s (F.CLK_SAFE_HELD 11) then
    .next (portSet q.val true (profileSpeed s.pwr.fabProfile) (profileLanes s.pwr.fabProfile) s)
  else .next s

/-- NVME_MI_REQUEST (R73): 0 the basic management command, 1 the health status poll, 2 the controller health status poll, 3 any other
NVMe-MI command, which is not supported and gets the standard's Invalid Command Opcode; the bytes of the answer are the standard's (log entry 44). -/
def execNvmeMiRequest (kind : Fin 4) (s : State) : Out :=
  if sidebandLive s ∧ kind.val = 3 then .next (send (.mctp 3 []) s)
  else if sidebandLive s then
    .next (send (.mctp 0 (page (0x300 + kind.val) (if kind.val = 0 then 32 else if kind.val = 1 then 8 else 16) [])) s)
  else .next s

end Sys2Proof.Machine
end

