-- ==== Sys2Proof/Machine/Pair.lean ====
section
/-! DEFINITION. The rows of the running pair: heartbeat and fence (R33 to R37, R46), takeover (R39 to R43, R290, R408, R532),
token transfers (R29 to R32), torque sharing (R47, R48, R280), handover and coil blends (R50, R51, R289). -/

namespace Sys2Proof.Machine

/-! ### Heartbeat and fence -/

/-- HB_FRAME_TIMER (R33, R46): also as a Nalyn message after a heartbeat fault. -/
def execHbFrameTimer (s : State) : Out :=
  if !live s then .next s
  else
    let w := hbWord s
    .next (s |> send (.hbFrame w) |> (if s.pair.hbViaNal then nalSend 1 7 [w.toNat] else fun s => s)
      |> updPair (fun p => { p with hbSeq := p.hbSeq + 1 }))

/-- Values of SEQ skipped since the last valid frame (R34): a frame that skips several values counts each (DESIGN CHOICE, log
entry 94). -/
def hbSkipped (s : State) (w : BitVec 16) : Nat :=
  match s.pair.hbRxSeq with
  | none => 0
  | some q => (bitsAt w.toNat 4 4 + 31 - q.toNat) % 16

/-- HB_FRAME_RECEIVED (R34, R35): an invalid frame has no effect; skipped values are counted while the link's registers
have power. -/
def execHbFrameReceived (w : BitVec 16) (s : State) : Out :=
  if !live s || !hbValid w then .next s
  else
    let s1 := if domOn s 12 then count R.NAL_HB_SEQ_SKIP_LO (hbSkipped s w) s else s
    .next (s1 |> updPair (fun p => { p with hbRxSeq := some (BitVec.ofNat 4 (bitsAt w.toNat 4 4)) }) |> hbTake w)

/-- HB_LOSS_TIMEOUT (R35). -/
def execHbLossTimeout (s : State) : Out :=
  if live s && !s.pair.hbLost then .next (hbLoss s) else .next s

/-- NAL_HB_MESSAGE_RECEIVED (R46). -/
def execNalHbMessageReceived (w : BitVec 16) (s : State) : Out :=
  if isSet s F.NAL_UP && hbValid w then .next (hbTake w s) else .next s

/-- FENCE_IN_ASSERT (R36, R38, R40, R41): PAIR_FENCE_IN_N goes to a level; an assertion is noted during the test, and taken as
the fence reaction where the device reacts. -/
def execFenceInAssert (level : Bool) (s : State) : Out :=
  let s1 := updPair (fun p => { p with fenceIn := level }) s
  if !level || !live s then .next s1
  else if s.pair.test.running then .next (updPair (fun p => { p with test := { p.test with saw := true } }) s1)
  else if fenceReacts s then .next (fenceReaction s1)
  else .next s1

/-! ### Takeover -/

/-- NAL_PING_RECEIVED (R39, R46): answered by a control cluster that runs; the heartbeat is carried in Nalyn messages from now on. -/
def execNalPingReceived (s : State) : Out :=
  if !isSet s F.NAL_UP || !ctlMode s || !s.pins.nalTx || s.pwr.wedged then .next s
  else
    let s1 := nalSend 1 6 [] s
    .next (if s.pair.hbViaNal then s1 else s1 |> updPair (fun p => { p with hbViaNal := true }) |> hbFault)

/-- PING_REPLY_RECEIVED (R39, R46): the takeover ends. -/
def execPingReplyReceived (s : State) : Out :=
  if isSet s F.NAL_UP && decide (s.pair.take = .ping) then
    .next (s |> updPair (fun p => { p with take := .idle, hbViaNal := true, hbLost := false }) |> hbFault)
  else .next s

/-- TAKEOVER_PING_TIMEOUT (R39 steps 3 to 5): a device that may not take over waits on (R41). -/
def execTakeoverPingTimeout (s : State) : Out :=
  if s.pair.take ≠ .ping then .next s
  else if mayTakeOver s then .next (fenceStep s)
  else .next (updPair (fun p => { p with take := .idle }) s)

/-- TAKEOVER_FENCE_HOLDOFF_EXPIRY (R39 step 6, R40). -/
def execTakeoverFenceHoldoffExpiry (s : State) : Out :=
  if s.pair.take ≠ .holdoff then .next s
  else if s.pair.fenceIn then .next (fenceReaction s)
  else .next (updPair (fun p => { p with take := .fence, fenceOut := true }) s)

/-- TAKEOVER_ARBITRATION_END (R39 steps 7 and 8, R40, R532): a PAIR_POS clash found since MODE_SET(SOLO) ends it (R70). -/
def execTakeoverArbitrationEnd (s : State) : Out :=
  if s.pair.take ≠ .fence then .next s
  else if s.pair.fenceIn then .next (fenceReaction s)
  else if s.pair.takeSolo ∧ isSet s F.SUP_STRAP_CLASH then
    .next (s |> updPair (fun p => { p with take := .idle, takeSolo := false, fenceOut := false }) |> setF F.PWR_MODE_BUSY 0
      |> mbxFinish (isModeSet 2) (resStatus 0x0A19))
  else .next (takeoverWon s)

/-- The partner's open blocks are closed at their first erased page; a block whose erase was interrupted is FREE (R408). -/
def closeOpen (new : Nat → Bool) (erasing : List (Nat × Nat × Nat)) (s : State) : State :=
  { s with tier := { s.tier with blks := s.tier.blks.map (fun b =>
      if erasing.contains (b.ch, b.die, b.blk) then { b with state := 1, next := 0 }
      else if new b.ch && decide (b.state = 3) then { b with state := 4 } else b) } }

/-- TAKEOVER_CHANNELS_ACQUIRED (R39 step 9, R408): what the partner's channels hold; `busy`: the channels on which a
busy die has been reset. The page map is as the Vat has it: a page whose program was interrupted has no mapping there (R410). -/
def execTakeoverChannelsAcquired (left : FlashMeta) (busy : List Nat) (erasing : List (Nat × Nat × Nat)) (s : State) : Out :=
  if s.pair.take = .won ∧ ¬ s.pair.takeStepsDone.contains 9 then
    let new (c : Nat) : Bool := owns s (8 + c) && decide (tokDefault (8 + c) ≠ devNo s)
    .next (s |> adoptMeta left |> closeOpen new erasing
      |> forN 32 (fun c s => if new c && busy.contains c then setF (F.FC_ERR_INTERRUPTED c) 1 s else s)
      |> updPair (fun p => { p with takeStepsDone := p.takeStepsDone ++ [9] }))
  else .next s

/-- ACTUATOR_CATCH_DONE (R290 step 4): the settle condition of R252 is met. -/
def execActuatorCatchDone (a : Fin 4) (s : State) : Out :=
  let v := getF s (F.VCM_STATE a.val)
  if s.pair.catching.contains a.val ∧ (v = 2 ∨ v = 3) then
    .next (s |> updPair (fun p => { p with catching := p.catching.filter (fun b => b ≠ a.val) }) |> setF (F.VCM_STATE a.val) 3)
  else .next s

/-- ACTUATOR_CATCH_TIMEOUT (R39 step 11, R290). -/
def execActuatorCatchTimeout (a : Fin 4) (s : State) : Out :=
  if s.pair.catching.contains a.val then
    .next (s |> updPair (fun p => { p with catching := p.catching.filter (fun b => b ≠ a.val) }) |> setF (F.VCM_STATE a.val) 5
      |> setF (F.VCM_LOAD a.val) 0 |> raise 8 0x033C 2 a.val 0)
  else .next s

/-- What a takeover does with the requests to the lost partner (R309, R534). -/
def requestsTaken (s : State) : State :=
  let rs := s.host.reqs
  rs.foldl (fun s r => match r.kind with
    | 0 => (match cmdOf s r.ref with
      | some c => resolveHost c s
      | none => s)
    | 1 => (match cmdOf s r.ref with
      | some c => resolveMedia c r.req r.args s
      | none => s)
    | _ => mbxSetResult r.ref (resStatus 0x0A10) s) { s with host := { s.host with reqs := [] } }

/-- TAKEOVER_REPLAY_DONE (R39 step 12, R42): the mirror of every group that step 8 committed is replayed and its maps are
rebuilt. -/
def execTakeoverReplayDone (left : FlashMeta) (s : State) : Out :=
  if s.pair.take = .won ∧ s.pair.takeStepsDone.contains 9 ∧ isSet s F.VAT_READY = true then
    let s1 := s |> adopt left |> (fun s => s.pair.takeGroups.foldl (fun s g => gainGroup g s) s)
      |> updPair (fun p => { p with take := .idle, takeStepsDone := [], takeGroups := [] })
    .next (s1 |> anaRefresh |> requestsTaken)
  else .next s

/-! ### Token transfers (R31) -/

/-- TOKEN_RELEASE_START: a volume group is quieted first (R31 step 1), its new commands waiting until the admitted ones have
ended; in the order of R50, and with parked heads; loaded ones go through a blend (R289). -/
def execTokenReleaseStart (t : Fin 64) (s : State) : Out :=
  if giveReady s t.val ∧ (4 ≤ t.val ∨ headsOut s t.val = false) then .next (tokRelease t.val s)
  else if tokKind t.val = 1 ∧ t.val < 8 ∧ owns s t.val = true ∧ s.pair.give.contains t.val = true then .next (groupHoldSet (t.val - 4) true s)
  else .next s

/-- TAKE_ACK and REFUSE. -/
def takeAck (t : Nat) (e : BitVec 16) (s : State) : State := nalSend 1 2 [t, e.toNat] s
def refuse (t : Nat) (e : BitVec 16) (s : State) : State := nalSend 1 3 [t, e.toNat] s

/-- The receiver of a handover owns every token: it enters Solo (R50 step 7). -/
def handoverTaken (s : State) : State :=
  if s.pair.handover.any (fun h => !h.giving) && ownsAll s && decide (mode s = 3) then enterSolo s else s

/-- This device commits a token (R30): OWNED with the next epoch. -/
def commitToken (t : Nat) (e : BitVec 16) (s : State) : State :=
  s |> setTok t ⟨.owned, devNo s, e + 1⟩ |> gainToken t |> takeAck t (e + 1) |> anaRefresh |> handoverTaken

/-- A RELEASE or QUERY is refused: REFUSED(e) is written first (R31 steps 3 and 4), and what the record held is driven no more. -/
def refuseToken (t : Nat) (e : BitVec 16) (s : State) : State :=
  let s1 := if (tok s t).state = .owned then s |> dropToken t |> loseToken t else s
  s1 |> setTok t ⟨.refused, 1 - devNo s, e⟩ |> refuse t e |> anaRefresh

/-- The record says that epoch e + 1 was committed here. -/
def tookIt (r : TokRec) (e : BitVec 16) : Bool := decide (r.state = .owned ∨ r.state = .releasing) && decide (r.epoch = e + 1)

/-- TOKEN_RELEASE_RECEIVED (R29, R31 step 3): with what the partner left of the resource. No TAKE_ACK leaves before step 5 of
Bring-up has ended (R41). -/
def execTokenReleaseReceived (t : Fin 64) (e : BitVec 16) (left : FlashMeta) (s : State) : Out :=
  let r := tok s t.val
  if !isSet s F.NAL_UP || !isSet s F.VAT_READY || !tokUsed t.val then .next s
  else if tookIt r e then .next (if sharedOk s then takeAck t.val (e + 1) s else s)
  else
    let c := if r.state = .refused then epochNewer s e r.epoch false false else (!newer 16 r.epoch.toNat e.toNat && decide (r.state = .partner), false)
    let s1 := tieLog t.val c.2 s
    if c.1 && willing s1 then .next (s1 |> adopt left |> commitToken t.val e)
    else .next (refuseToken t.val e s1)

/-- A device that has handed everything over restarts with its new image (R50 step 7). -/
def handoverRestart (s : State) : State := s |> spnCoast |> send .restart |> enterReset |> tryBoot

/-- After a TAKE_ACK: a handover ends with the last token, a survivor that has returned every default token enters Full. -/
def gaveToken (s : State) : State :=
  if s.pair.handover.any (fun h => h.giving) && s.pair.give.isEmpty then handoverRestart s
  else if decide (mode s = 4) && !s.bring.active && s.pair.give.isEmpty && defaultsHeld s then enterFull s
  else s

/-- TAKE_ACK_RECEIVED (R31 step 5). -/
def execTakeAckReceived (t : Fin 64) (e : BitVec 16) (s : State) : Out :=
  let r := tok s t.val
  if isSet s F.NAL_UP ∧ r.state = .releasing ∧ e = r.epoch + 1 then
    .next (s |> setTok t.val ⟨.partner, 1 - devNo s, e⟩ |> loseToken t.val |> updPair (fun p => { p with give := p.give.filter (fun x => x ≠ t.val) })
      |> anaRefresh |> gaveToken)
  else .next s

/-- REFUSE_RECEIVED (R31 step 5): the old owner drives the resource again at the next epoch, unless its step 5 of Bring-up has
not ended (R41). -/
def execRefuseReceived (t : Fin 64) (e : BitVec 16) (s : State) : Out :=
  let r := tok s t.val
  if isSet s F.NAL_UP ∧ r.state = .releasing ∧ e = r.epoch then
    .next (s |> setTok t.val ⟨.owned, devNo s, e + 1⟩
      |> (if !sharedOk s then fun s => s
          else if t.val < 4 then gainActuator t.val false else if 8 ≤ t.val then gainChannel (t.val - 8) else groupHoldSet (t.val - 4) false) |> anaRefresh)
  else .next s

/-- TOKEN_QUERY_TIMER (R31 step 4). -/
def execTokenQueryTimer (t : Fin 64) (s : State) : Out :=
  if (tok s t.val).state = .releasing then .next (nalSend 1 4 [t.val, (tok s t.val).epoch.toNat] s) else .next s

/-- TOKEN_QUERY_RECEIVED (R31 step 4): repeated answers carry the same result. -/
def execTokenQueryReceived (t : Fin 64) (e : BitVec 16) (s : State) : Out :=
  let r := tok s t.val
  if !isSet s F.NAL_UP || !isSet s F.VAT_READY || !tokUsed t.val then .next s
  else if tookIt r e then .next (if sharedOk s then takeAck t.val (e + 1) s else s)
  else .next (refuseToken t.val e s)

/-! ### The speed loop and torque sharing (R47, R48, R271, R280) -/

/-- The measured speed in 1/16 rpm: the change of the fused angle over the last eight samples, 1 ms. -/
def speed16 (s : State) : Int :=
  let a := getF s F.SPN_ANGLE
  match s.mot.spn.angles with
  | [x, _, _, _, _, _, _, _] => roundNear (sgn 20 (a + 2 ^ 20 - x) * 960000) (2 ^ 20)
  | _ => (if isSet s F.SPN_DIR then -1 else 1) * 16 * (getF s F.SPN_RPM : Nat)

/-- A speed sample is taken: the window of angles, SPN_RPM and SPN_DIR. -/
def speedShow (v : Int) (s : State) : State :=
  let l := s.mot.spn.angles ++ [getF s F.SPN_ANGLE]
  s |> updSpn (fun x => { x with angles := l.drop (l.length - 8) }) |> setF F.SPN_RPM ((v.natAbs + 8) / 16) |> setB F.SPN_DIR (decide (v < 0))

/-- The next speed reference in rpm / 8000: at most SPN_ACC_MAX rpm/s from the last. -/
def refNext (s : State) : Nat :=
  let goal := if s.mot.spn.stopping then 0 else getF s F.SPN_TARGET_RPM * 8000
  let r := s.mot.spn.ref
  let m := getF s F.SPN_ACC_MAX
  if m = 0 then goal else if r < goal then min goal (r + m) else max goal (r - m)

/-- Braking torque near the VMOT clamp is reduced by an amount that the spec does not state (R82). -/
def brakeLimit (u : Int) (s : State) : Int × State :=
  if u < 0 ∧ 15000 ≤ getF s F.PWR_VMOT_MV then
    let f := takeFree s
    (-(((f.1.toNat % (u.natAbs + 1) : Nat)) : Int), f.2)
  else (u, s)

/-- One sample of loop 8 (R272, R280). While the partner runs its own loop the integrator gain is halved (R48). -/
def speedLoop (v : Int) (s : State) : Int × State :=
  let b := sampleBegin 8 s.mot.spn.loop s
  let ref := refNext b.2
  let e := roundNear (ref * 16) 8000 - v
  let r := loopRun 8 (bankOf b.2 8) (sat48 (e * 2 ^ 26)) 0 b.1 b.2 b.2.pair.partnerLocal
  brakeLimit r.1.1.out (updSpn (fun x => { x with loop := r.1.1, ref := ref }) r.2)

/-- This device's set drives under current control, or would. -/
def setDrives (s : State) : Bool := motOn s && hasSet s && decide (4 ≤ spnState s ∧ spnState s ≤ 6) && !s.mot.spn.shorted

/-- Section states seeded from the last applied torque (R48). -/
def seedSections (s : State) : State :=
  updSpn (fun x => { x with loop := { x.loop with sect := seedStates s 8 (bankOf s 8) s.pair.torqueCmd, out := s.pair.torqueCmd } }) s

/-- The holder's sample: half its demand, applied to its own set and sent to the partner's (R280). Outside Full the demand of both sets stays
within one rated torque. -/
def masterSample (v : Int) (s : State) : State :=
  let r := speedLoop v s
  let n := s.pair.torqueSeq + 1
  let sends := r.2.desc.any (fun d => d.windingSets = 2) && decide (mode s ≠ 4)
  let u := if sends && decide (mode s ≠ 3) then clampI (-16384) 16384 r.1 else r.1
  let s1 := updPair (fun p => { p with torqueSeq := n, torqueCmd := u }) r.2
  if sends then nalSend 0 47 [n.toNat, unsgn 16 u] s1 else s1

/-- The partner's sample (R48): the third in a row without a message starts its own loop. -/
def followSample (v : Int) (s : State) : State :=
  if isSet s F.NAL_TORQUE_LOCAL then
    let r := speedLoop v s
    updPair (fun p => { p with torqueCmd := r.1 }) r.2
  else
    let n := s.pair.torqueMissed + 1
    let s1 := updPair (fun p => { p with torqueMissed := n }) s
    if 4 ≤ n then
      s1 |> setF F.NAL_TORQUE_LOCAL 1 |> updPair (fun p => { p with torqueInSeq := 0 }) |> updSpn (fun x => { x with ref := getF s F.SPN_RPM * 8000 })
        |> seedSections |> nalSend 1 15 [1]
    else s1

/-- SPEED_LOOP_SAMPLE (R271). -/
def execSpeedLoopSample (s : State) : Out :=
  if !motOn s then .next s
  else
    let v := speed16 s
    let s1 := speedShow v s
    if !setDrives s1 then .next s1
    else if owns s1 0 then .next (masterSample v s1)
    else .next (followSample v s1)

/-- The spindle runs, or starts, with this device as partner (R91 step 8, R96). -/
def partnerSpins (s : State) : Bool :=
  ctlMode s && s.pwr.startPermitted && spnOk s && spindleDue s && decide (mode s ≠ 4)

/-- TORQUE_RECEIVED (R47, R48): a stale message is discarded; the first starts this device's own set. The
first command followed after a local loop is applied without a step: the torque stays what the local loop gave (R48). -/
def execTorqueReceived (n cmd : BitVec 16) (s : State) : Out :=
  let stale := match s.pair.torqueApplied with
    | some a => !newer 16 n.toNat a.toNat
    | none => false
  if !isSet s F.NAL_UP || owns s 0 || !partnerSpins s || stale then .next s
  else
    let follows := match s.pair.torqueApplied with
      | some a => decide (n = a + 1)
      | none => false
    let k := if follows then s.pair.torqueInSeq + 1 else 1
    let s1 := s |> (if spnState s = 0 ∨ spnState s = 7 then spnCatch false else fun s => s)
      |> updPair (fun p => { p with torqueApplied := some n, torqueInSeq := k, torqueMissed := 0 })
    if !isSet s1 F.NAL_TORQUE_LOCAL then .next (updPair (fun p => { p with torqueCmd := cmd.toInt }) s1)
    else if 4 ≤ k then
      .next (s1 |> setF F.NAL_TORQUE_LOCAL 0 |> nalSend 1 15 [0])
    else .next s1

/-! ### Handover (R50, R51) -/

/-- PAIR_PROTO of the image that a restart would run: the trial's, or the running one (R134). -/
def nextProto (s : State) : Nat × Nat :=
  match (slotsOf s 2).trial with
  | some n => ((firmwareOf (slotBytes s 2 n)).map (fun i => imgProto i.1)).getD s.pair.protoRange
  | none => s.pair.protoRange

/-- HANDOVER (R51): it completes at acceptance; the groups change to ANA Change. While the link is down the partner's mode is not
known, which answers 0x0A12 and not 0x0A17 (DESIGN CHOICE, log entry 27). -/
def execHandover (m : Fin 16) (s : State) : Out :=
  .next (mbxRow m.val 0x0A00 anyParam (fun _ s =>
    let r := nextProto s
    if mode s ≠ 3 ∨ s.pair.partnerMode ≠ 3 ∨ isSet s F.NAL_UP = false then answer 0x0A12 s
    else if s.pair.handover.isSome then answer 0x0A13 s
    else if getF s F.NAL_WIDTH < 3 then answer 0x0A17 s
    else if s.pair.partnerProto.any (fun p => decide (p.2 < r.1 ∨ r.2 < p.1)) then answer 0x0215 s
    else answer 0 (s |> updPair (fun p => { p with handover := some ⟨true, 2⟩, give := giveAll s }) |> holdGroups true |> anaRefresh)) s)

/-- No command of this device's groups is in flight. -/
def groupsDrained (s : State) : Bool :=
  (List.range 2).all (fun g => !holdsGroup s g || groupDrained s g)

/-- HANDOVER_DRAIN_DONE (R50 step 2). -/
def execHandoverDrainDone (s : State) : Out :=
  if s.pair.handover = some ⟨true, 2⟩ ∧ groupsDrained s = true then .next (updPair (fun p => { p with handover := some ⟨true, 3⟩ }) s) else .next s

/-! ### Coil blends (R289) -/

/-- COIL_BLEND_START: after the actuator's current band. -/
def execCoilBlendStart (a : Fin 4) (s : State) : Out :=
  if giveReady s a.val ∧ headsLoaded s a.val = true ∧ (bandOf s a.val).isNone = true ∧ s.pair.blends.getD a.val none = none then
    .next (updPair (fun p => { p with blends := setAt p.blends a.val (some ⟨true, 0, s.now.toNat, false⟩) }) s)
  else .next s

/-- VCM_CURRENT_CMD_RECEIVED: the backup bridge applies the command as received; the section states are kept for the commit. -/
def execVcmCurrentCmdReceived (a : Fin 4) (cmd : BitVec 16) (sect : List (List Int)) (s : State) : Out :=
  if !isSet s F.NAL_UP || !motOn s || owns s a.val || !fittedAct s a.val then .next s
  else
    let s1 := if domOn s (2 + a.val) then s else domUp (2 + a.val) s
    .next (s1 |> updPair (fun p => { p with blends := setAt p.blends a.val (some ⟨false, cmd.toInt, s.now.toNat, false⟩) })
      |> setF (F.VCM_COIL a.val) (ownCoil s a.val) |> setF (F.VCM_STATE a.val) 3 |> setF (F.VCM_ICMD a.val) cmd.toNat
      |> updVcm a.val (fun x => { x with loop := { x.loop with sect := sect.map (fun l => l.map sat48), out := cmd.toInt, rst := false } }))

/-- COIL_BLEND_RAMP_END: RELEASE is sent. -/
def execCoilBlendRampEnd (a : Fin 4) (s : State) : Out :=
  match s.pair.blends.getD a.val none with
  | some b =>
    if b.giving && !b.ramped && owns s a.val && isSet s F.NAL_UP then
      .next (s |> updPair (fun p => { p with blends := setAt p.blends a.val (some { b with ramped := true }) }) |> tokRelease a.val)
    else .next s
  | none => .next s

/-- BACKUP_BRIDGE_TIMEOUT: the heads go to the ramp on the backup coil. -/
def execBackupBridgeTimeout (a : Fin 4) (s : State) : Out :=
  match s.pair.blends.getD a.val none with
  | some b =>
    if !b.giving && !owns s a.val then .next (s |> updPair (fun p => { p with blends := setAt p.blends a.val none }) |> retract a.val)
    else .next s
  | none => .next s

end Sys2Proof.Machine
end

