-- ==== Sys2Proof/Machine/Modes.lean ====
section
/-! DEFINITION. The rows that change the mode (R87 to R90, R94 to R97, R165, R397, R398, R489). -/

namespace Sys2Proof.Machine

/-- A MODE_SET row: while a mode change is in progress it completes with 0x0114 (R90). -/
def modeRow (m t : Nat) (f : MbxCmd → State → State × Option MbxResult) (s : State) : State :=
  mbxRow m 0x0100 (isModeSet t) (fun c s => if isSet s F.PWR_MODE_BUSY then answer 0x0114 s else f c s) s

/-- A change of the pair cannot begin: the Nalyn link is down or the partner cannot take it (R89). -/
def pairRefused (s : State) (takes : Bool) : Bool := !isSet s F.NAL_UP || !takes

/-- The mode is the pair's: Full, or Fallow or Drain entered from Full. -/
def pairMode (s : State) : Bool := decide (mode s = 3 ∨ ((mode s = 5 ∨ mode s = 6) ∧ getF s F.PWR_MODE_PRIOR = 3))

/-- Set the target of a change. -/
def setTarget (t : Option Nat) (s : State) : State := updPwr (fun p => { p with target := t }) s

/-! ### Bring-up and Solo -/

/-- MODE_SET_BRINGUP (R165): it completes with the boot chain, which starts on its trigger (R130). -/
def execModeSetBringup (m : Fin 16) (s : State) : Out :=
  .next (modeRow m.val 1 (fun _ s =>
    if mode s ≠ 1 ∨ isSet s F.SUP_STRAP_TEST_N = false ∨ isSet s F.SUP_STRAP_FLOAT then answer 0x0012 s
    else ({ s with boot := { s.boot with trigger := true } } |> setF F.PWR_MODE_BUSY 1, none)) s)

/-- Solo at the request of management, or after the Solo wait: the takeover from its fence on (R39, R88). -/
def soloStart (s : State) : State :=
  s |> setF F.PWR_MODE_BUSY 1 |> updPair (fun p => { p with takeSolo := true }) |> fenceStep

/-- MODE_SET_SOLO (R70, R88): without a valid mechanism descriptor the device stays in Bring-up (R4). -/
def execModeSetSolo (m : Fin 16) (s : State) : Out :=
  .next (modeRow m.val 2 (fun _ s =>
    if mode s ≠ 2 ∨ (s.bring.descRead = true ∧ s.bring.descOk = false) then answer 0x0012 s
    else if s.pair.take ≠ .idle then answer 0x0114 s
    else if isSet s F.SUP_STRAP_CLASH then answer 0x0A19 s
    else (soloStart s, none)) s)

/-- SOLO_START_WAIT_EXPIRY (R88, R93): no valid frame has ever come. -/
def execSoloStartWaitExpiry (s : State) : Out :=
  if mode s = 2 ∧ s.pair.hbSeen = false ∧ getF s F.PWR_SOLO_START_WAIT ≠ 0 ∧ isSet s F.SUP_STRAP_CLASH = false ∧ s.pair.take = .idle
      ∧ isSet s F.PWR_MODE_BUSY = false ∧ (s.bring.descOk = true ∨ s.bring.descRead = false) then
    .next (soloStart s)
  else .next s

/-! ### Fallow and wake -/

/-- MODE_SET_FALLOW (R89, R94): it completes in Fallow. `partnerTakes`: the partner can take the change. -/
def execModeSetFallow (m : Fin 16) (partnerTakes : Bool) (s : State) : Out :=
  .next (modeRow m.val 3 (fun _ s =>
    if mode s ≠ 3 ∧ mode s ≠ 4 then answer 0x0012 s
    else if pairMode s && pairRefused s partnerTakes then answer 0x0113 s
    else (s |> (if mode s = 3 then nalSend 1 10 [3] else fun s => s) |> fallowStart, none)) s)

/-- Nothing of the disk tier is under way. -/
def diskIdle (s : State) : Bool :=
  (List.range 4).all (fun a => (bandOf s a).isNone && (fsOf s a).queue.isEmpty) && !s.host.cmds.any (diskTier s)

/-- IDLE_FALLOW_EXPIRY (R88, R94). -/
def execIdleFallowExpiry (s : State) : Out :=
  if (mode s = 3 ∨ mode s = 4) ∧ getF s F.PWR_IDLE_FALLOW ≠ 0 ∧ isSet s F.PWR_MODE_BUSY = false ∧ diskIdle s = true
      ∧ (mode s = 4 ∨ isSet s F.NAL_UP = true) then
    .next (s |> (if mode s = 3 then nalSend 1 10 [3] else fun s => s) |> fallowStart)
  else .next s

/-- Host bands that wait in Fallow wake the device, or end with 0x0115 (R95). -/
def fallowBands (s : State) : State :=
  if (List.range 4).any (fun a => (fsOf s a).queue.any (fun d => decide (d.q ≠ 256 ∧ d.q ≠ 259))) then
    if isSet s F.PWR_AUTO_WAKE then wakeRequest true s else forN 4 (diskFail · 0x0115) s
  else s

/-- FALLOW_ENTRY_DONE (R94 steps 2 to 4): a wake that waits goes on at once (R96). -/
def execFallowEntryDone (s : State) : Out :=
  if s.pwr.target = some 5 ∧ (List.range 4).any (headsOut s) = false then
    .next (s |> setF F.PWR_MODE_CUR 5 |> setTarget none |> setF F.PWR_MODE_BUSY 0 |> forN 5 (fun i s => domDown (2 + i) s)
      |> (if owns s 0 then spnStop else fun s => s) |> fansTo |> mbxFinish (isModeSet 3) (resStatus 0) |> tellStep |> anaRefresh |> wakeGo |> fallowBands)
  else .next s

/-- MODE_SET_WAKE (R89, R96): it completes when disk reads are admitted. -/
def execModeSetWake (m : Fin 16) (partnerTakes : Bool) (s : State) : Out :=
  .next (modeRow m.val 4 (fun _ s =>
    if mode s ≠ 5 then answer 0x0012 s
    else if pairMode s && pairRefused s partnerTakes then answer 0x0113 s
    else (wakeRequest true s, none)) s)

/-- The heads' ladder is extended until they are calibrated anew (R225). -/
def wakeLadder (s : State) : State :=
  (ownHeads s).foldl (fun s h => s |> setF (F.HC_EXT_LADDER h) 1 |> updHead h (fun x => { x with calRes := none })) s

/-- A boot that has reached Full or Solo is recorded once, and confirmed after a rejoin or in Solo (R134, R139). -/
def firstService (t : Nat) (s : State) : State :=
  if s.boot.recorded then s else s |> recordBoot |> (if s.bring.rejoin ∨ t = 4 then confirmTrials else fun s => s)

/-- WAKE_DISK_READS_ADMITTED (R96 steps 3 to 5): `tempWithin5`: the mechanism is within 5 degrees of the stored
calibration, so that writes are admitted too. A boot that came up in Fallow has reached Full or Solo now (R134, R139). -/
def execWakeDiskReadsAdmitted (tempWithin5 : Bool) (s : State) : Out :=
  match s.pwr.target with
  | some t =>
    if mode s = 5 ∧ t ≠ 1 ∧ isSet s F.SPN_AT_SPEED = true ∧ allLoaded s = true then
      .next (s |> setF F.PWR_MODE_CUR t |> setTarget none |> setF F.PWR_MODE_BUSY 0 |> updPwr (fun p => { p with wakeFullCal := !tempWithin5 })
        |> (if tempWithin5 then fun s => s else wakeLadder) |> firstService t |> fansTo |> mbxFinish (isModeSet 4) (resStatus 0) |> tellStep |> anaRefresh |> returnStart)
    else .next s
  | none => .next s

/-- WAKE_CALIBRATION_DONE (R96 step 4). -/
def execWakeCalibrationDone (s : State) : Out :=
  if s.pwr.wakeFullCal then
    .next ((ownHeads s).foldl (fun s h => s |> updHead h (fun x => { x with calRes := some true }) |> mirrorHead h true)
      (updPwr (fun p => { p with wakeFullCal := false }) s) |> calBands)
  else .next s

/-! ### Drain -/

/-- The evacuation begins, or begins again with more peers (R97, R397). -/
def drainStart (peers : List Nat) (s : State) : State :=
  let s1 := if mode s = 6 then s else setF F.PWR_MODE_PRIOR (mode s) s
  s1 |> setF F.PWR_MODE_CUR 6 |> updDrain (fun d => { d with peers := peers, nextPeer := if mode s = 6 then d.nextPeer else 0, stuck := [], cancel := false, fail := 0 })
    |> drainNext 0 |> drainNext 1 |> tellStep |> anaRefresh

/-- The node identifiers of a MODE_SET(DRAIN) (R163). -/
def drainPeers (c : MbxCmd) : List Nat := (List.range (leAt c.data 0 2)).map (fun i => leAt c.data (4 + 4 * i) 4 % 2 ^ 18)

/-- MODE_SET_DRAIN (R89, R97, R165): in a pair it completes once the partner has changed too. -/
def execModeSetDrain (m : Fin 16) (partnerTakes : Bool) (s : State) : Out :=
  .next (modeRow m.val 5 (fun c s =>
    let n := leAt c.data 0 2
    if mode s ≠ 3 ∧ mode s ≠ 4 ∧ mode s ≠ 6 then answer 0x0012 s
    else if n = 0 ∨ 64 < n then answer 0x0016 s
    else if c.len.toNat ≠ 4 + 4 * n then answer 0x0011 s
    else if pairMode s && pairRefused s partnerTakes then answer 0x0113 s
    else
      let s1 := s |> (if pairMode s then nalSend 1 10 (5 :: drainPeers c) else fun s => s) |> drainStart (drainPeers c)
      if mode s = 3 then (s1 |> setF F.PWR_MODE_BUSY 1 |> setTarget (some 6), none) else answer 0 s1) s)

/-- The evacuation stops after the volume in progress (R398). -/
def drainCancel (s : State) : State :=
  s |> updDrain (fun d => { d with cancel := true }) |> setF F.PWR_MODE_BUSY 1 |> setTarget (some (getF s F.PWR_MODE_PRIOR)) |> drainReturn

/-- MODE_SET_DRAIN_CANCEL (R89, R398): it completes when the device is back in its prior mode. -/
def execModeSetDrainCancel (m : Fin 16) (partnerTakes : Bool) (s : State) : Out :=
  .next (modeRow m.val 6 (fun _ s =>
    if mode s ≠ 6 then answer 0x0012 s
    else if pairMode s && pairRefused s partnerTakes then answer 0x0113 s
    else
      let s1 := if pairMode s then nalSend 1 10 [6] s else s
      let s2 := drainCancel s1
      (s2, if mode s2 = 6 then none else some (resStatus 0))) s)

/-- DRAIN_EVACUATION_COMPLETE (R97): no volume is left to move, none was refused by every peer. -/
def execDrainEvacuationComplete (s : State) : Out :=
  if mode s = 6 ∧ drainLeft s = [] ∧ s.volu.drain.stuck = [] ∧ s.volu.drain.jobs.all (fun j => j.vol.isNone) = true ∧ isSet s F.PWR_MODE_BUSY = false then
    .next (dormantStart s)
  else .next s

/-! ### Dormant, Safe -/

/-- MODE_SET_DORMANT (R88). -/
def execModeSetDormant (m : Fin 16) (s : State) : Out :=
  .next (modeRow m.val 7 (fun _ s =>
    if mode s = 2 ∨ mode s = 4 ∨ (mode s = 5 ∧ getF s F.PWR_MODE_PRIOR = 4) then
      let s1 := dormantStart s
      (s1, if mode s1 = 1 then some (resStatus 0) else none)
    else answer 0x0012 s) s)

/-- SAFE_RELEASE (R165, R489). -/
def execSafeRelease (m : Fin 16) (s : State) : Out :=
  .next (mbxRow m.val 0x0101 anyParam (fun _ s =>
    if mode s ≠ 7 then answer 0x0012 s
    else if isSet s F.SUP_SAFE_BUSY then answer 0x0915 s
    else answer 0 (s |> enterDormant |> setF F.SUP_SAFE_ACTIVE 0 |> clearLive 0 0x0911)) s)

/-! ### The partner's requests (R89) -/

/-- The request that this device has in progress gives way to one of device 0. -/
def yieldTo (s : State) : State :=
  s |> mbxFinish (fun c => isModeSet 3 c || isModeSet 5 c || isModeSet 6 c) (resStatus 0x0114) |> setTarget none |> setF F.PWR_MODE_BUSY 0
    |> updDrain (fun d => { d with cancel := false }) |> loadAll

/-- PAIR_MODE_REQUEST_RECEIVED (R89): FALLOW, WAKE, DRAIN with its peers, DRAIN_CANCEL. A request equal to the one in progress is
the same change; of two that conflict, device 0's proceeds. -/
def execPairModeRequestReceived (target : Fin 8) (peers : List Nat) (s : State) : Out :=
  let own := isSet s F.PWR_MODE_BUSY
  if !isSet s F.NAL_UP then .next s
  else match target.val with
  | 3 =>
    if s.pwr.target = some 5 then .next s
    else if mode s = 3 ∧ own = false then .next (fallowStart s)
    else if mode s = 6 ∧ s.pwr.target = some 6 ∧ devNo s = 1 then
      .next (s |> yieldTo |> updDrain (fun _ => DrainSt.reset) |> setF F.PWR_MODE_CUR 3 |> fallowStart)
    else .next s
  | 4 => .next (wakeRequest false s)
  | 5 =>
    if (mode s = 3 ∨ mode s = 6) ∧ own = false then .next (drainStart peers s)
    else if s.pwr.target = some 6 ∧ s.volu.drain.peers = peers then .next s
    else if (mode s = 3 ∧ s.pwr.target = some 5 ∨ mode s = 6 ∧ (s.pwr.target = some 6 ∨ s.volu.drain.cancel = true)) ∧ devNo s = 1 then
      .next (s |> yieldTo |> drainStart peers)
    else .next s
  | 6 => if mode s = 6 ∧ own = false then .next (drainCancel s) else .next s
  | _ => .next s

end Sys2Proof.Machine
end

