-- ==== Sys2Proof/Machine/Spindle.lean ====
section
/-! DEFINITION. The rows of the spindle (R284 to R287, R298) and of the bridge current foldback (R517). -/

namespace Sys2Proof.Machine

/-- The selector of the MOT_SPINDLE rows. -/
def spinSel (run coast : Nat) (c : MbxCmd) : Bool := decide (par c 1 1 = coast ∧ (coast = 1 ∨ par c 0 1 = run))

/-- The checks and the target of MOT_SPINDLE (R298), then its action. -/
def motSpindle (f : MbxCmd → State → State × Option MbxResult) (c : MbxCmd) (s : State) : State × Option MbxResult :=
  let t := par c 16 16
  if t ≠ 0 ∧ (t < 3600 ∨ 7200 < t) then answer 0x0016 s
  else if !owns s 0 then answer 0x0A11 s
  else f c (if t = 0 then s else setF F.SPN_TARGET_RPM t s)

/-- MOT_SPINDLE_START (R284): it completes at step 3, 5 or 6; a spindle under control stays so. Without a valid descriptor (R4), without a
winding set (R22) and with the MOT island held safe (R121) nothing starts; the spec gives no code of its own for these: 0x0012, 0x0A15
and 0x0122 (DESIGN CHOICE, log entry 97). -/
def execMotSpindleStart (m : Fin 16) (s : State) : Out :=
  .next (mbxRow m.val 0x0310 (spinSel 1 0) (motSpindle (fun _ s =>
    if s.desc.isNone then answer 0x0012 s
    else if !hasSet s then answer 0x0A15 s
    else if heldSafe s 2 then answer 0x0122 s
    else if !s.pwr.startPermitted then answer 0x0116 s
    else if spnState s = 4 ∨ spnState s = 5 then answer 0 s
    else if 1 ≤ spnState s ∧ spnState s ≤ 3 then (s, none)
    else (s |> updSpn (fun x => { x with starts := 0, tries := 0 }) |> spnStart, none))) s)

/-- Heads of some actuator are off the ramp under control: by this device, or by the partner as it last reported (R287). -/
def headsOnDisk (s : State) : Bool :=
  (List.range 4).any (fun a => let v := getF s (F.VCM_STATE a); decide (1 ≤ v ∧ v ≤ 4) || !owns s a && (s.pair.partnerBands.getD a none).isSome)

/-- MOT_SPINDLE_STOP (R287). A start that waits completes with the stop. -/
def execMotSpindleStop (m : Fin 16) (s : State) : Out :=
  .next (mbxRow m.val 0x0310 (spinSel 0 0) (motSpindle (fun _ s =>
    if headsOnDisk s then answer 0x0339 s else answer 0 (s |> spnStop |> spnFinish 0))) s)

/-- MOT_SPINDLE_COAST (R298). -/
def execMotSpindleCoast (m : Fin 16) (s : State) : Out :=
  .next (mbxRow m.val 0x0310 (spinSel 0 1) (motSpindle (fun _ s => answer 0 (s |> spnCoast |> spnFinish 0))) s)

/-- SPN_COAST (R298). -/
def execSpnCoast (p : Path) (s : State) : Out :=
  .next (busAct p R.SPN_CTL (BitVec.ofNat 32 (2 ^ 17 + rdN s R.SPN_CTL % 2 ^ 17)) (acc spnCoast) s)

/-- Show the measured speed and direction. -/
def spnShow (rpm : Nat) (back : Bool) (s : State) : State := s |> setF F.SPN_RPM rpm |> setB F.SPN_DIR back

/-- Steps 5 and 6 of R284 at a forward speed: alignment without an encoder below 30 rpm, else the catch. -/
def spnForward (rpm : Nat) (s : State) : State :=
  (if encThere s = false ∧ rpm < 30 then spnAlign s else spnCatch false s) |> spnFinish 0

/-- SPINDLE_MEASURE_DONE (R284): refused, braked, aligned or caught. Without the encoder anything below 30 rpm counts as stopped. -/
def execSpindleMeasureDone (rpm : BitVec 16) (back : Bool) (s : State) : Out :=
  if spnState s ≠ 1 then .next s
  else
    let still := !encThere s && decide (rpm.toNat < 30)
    let s1 := spnShow (if still then 0 else rpm.toNat) (back && !still) s
    if back ∧ 60 < rpm.toNat then
      .next (s1 |> setF F.SPN_STATE 8 |> setF F.SPN_START_REFUSED 1 |> raise 8 0x0330 2 0xFFFF 0 |> spnFinish 0x0330)
    else if back ∧ 0 < rpm.toNat ∧ still = false then .next (setF F.SPN_STATE 2 s1)
    else .next (spnForward (if still then 0 else rpm.toNat) s1)

/-- DC_BRAKE_END (R284): the start goes on at the speed that is left. -/
def execDcBrakeEnd (rpm : BitVec 16) (s : State) : Out :=
  if spnState s ≠ 2 then .next s else .next (s |> spnShow rpm.toNat false |> spnForward rpm.toNat)

/-- ALIGNMENT_END (R284): the open-loop ramp begins. -/
def execAlignmentEnd (s : State) : Out :=
  if spnState s ≠ 3 then .next s else .next (spnCatch true s)

/-- OBSERVER_HANDOVER (R284): at SPN_OBS_MIN. -/
def execObserverHandover (rpm : BitVec 16) (s : State) : Out :=
  if spnState s = 4 ∧ getF s F.SPN_SRC = 3 ∧ 10 * getF s F.SPN_OBS_MIN ≤ rpm.toNat then
    .next (s |> spnShow rpm.toNat false |> setF F.SPN_SRC 2)
  else .next s

/-- Within 0.1 % of the target speed. -/
def nearTarget (s : State) (rpm : Nat) : Bool :=
  let t := getF s F.SPN_TARGET_RPM
  decide (1000 * ((rpm : Int) - t).natAbs ≤ t)

/-- SPINDLE_AT_SPEED (R284): held within 0.1 % for 1 s; a device without a winding set sees the speed only. -/
def execSpindleAtSpeed (rpm : BitVec 16) (s : State) : Out :=
  let bare := decide (hasSet s = false ∧ spnState s = 0 ∧ isSet s F.SPN_AT_SPEED = false) && motOn s
  if (spnState s = 4 ∨ bare = true) ∧ nearTarget s rpm.toNat then
    .next ({ s with bring := { s.bring with atSpeed := true } } |> spnShow rpm.toNat false |> (if bare then fun s => s else setF F.SPN_STATE 5)
      |> setF F.SPN_AT_SPEED 1 |> updSpn (fun x => { x with starts := 0, tries := 0 }) |> (if spindleDue s then loadAll else fun s => s))
  else .next s

/-- The spindle has failed to start twice: flash-only service (R285). Bring-up goes no further than its flash tier; a wake is given up, its
command ends with 0x0335, and the bands that waited for it with 0x0115. -/
def spnFailed (s : State) : State :=
  let s1 := setF F.SPN_RUN 0 s
  if mode s1 = 5 ∧ s1.pwr.target.isSome then
    { s1 with pwr := { s1.pwr with target := none, wakePending := false } } |> setF F.PWR_MODE_BUSY 0
      |> mbxFinish (isModeSet 4) (resStatus 0x0335) |> forN 4 (diskFail · 0x0115)
  else s1

/-- SPINUP_TIMEOUT (R285): the start is repeated once; after a second failure the spindle stays coasting. -/
def execSpinupTimeout (s : State) : Out :=
  if 1 ≤ spnState s ∧ spnState s ≤ 4 ∧ owns s 0 then
    let n := s.mot.spn.starts + 1
    let s1 := s |> spnCoast |> setF F.SPN_SPINUP_TIMEOUT 1 |> raise 8 0x0335 2 0xFFFF 0 |> updSpn (fun x => { x with starts := n })
    .next (if n < 2 then spnStart s1 else spnFailed s1)
  else .next s

/-- START_RETRY_TIMER (R285): measured again every second, for 120 s. -/
def execStartRetryTimer (s : State) : Out :=
  if spnState s = 8 ∧ s.mot.spn.tries < 120 ∧ s.pwr.startPermitted ∧ spnOk s then
    .next (s |> updSpn (fun x => { x with tries := x.tries + 1 }) |> spnStart)
  else .next s

/-- SHORT_BRAKE_ENTRY (R287): the holder in its stop, the partner when its last torque is negative. -/
def execShortBrakeEntry (rpm : BitVec 16) (s : State) : Out :=
  let stop := if owns s 0 then s.mot.spn.stopping && decide (spnState s = 6)
    else decide (4 ≤ spnState s ∧ spnState s ≤ 6) && decide (s.pair.torqueCmd < 0)
  if stop && decide (rpm.toNat < 300) && hasSet s then
    .next (s |> spnShow rpm.toNat false |> setF F.SPN_STATE 6 |> setF F.SPN_AT_SPEED 0 |> updSpn (fun x => { x with shorted := true }))
  else .next s

/-- SPINDLE_STOPPED (R287): below 1 rpm for 1 s; the bridges coast. -/
def execSpindleStopped (s : State) : Out :=
  if (spnState s = 6 ∧ s.mot.spn.shorted = true) ∨ spnState s = 7 then
    .next (s |> spnCoast |> setF F.SPN_STATE 0 |> spnShow 0 false |> updSpn (fun x => { x with stopping := false }) |> dormantGo)
  else .next s

/-- LOW_SPEED_UNLOAD (R287). -/
def execLowSpeedUnload (rpm : BitVec 16) (s : State) : Out :=
  if rpm.toNat < 2000 ∧ s.mot.spn.stopping = false ∧ motOn s then
    .next (forN 4 (fun a s => if headsLoaded s a ∨ getF s (F.VCM_STATE a) = 1 then unloadHeads a s else s) (setF F.SPN_RPM rpm.toNat s))
  else .next s

/-- BRIDGE_THERMAL_FOLDBACK (R517): the sensor in 1/10 degree. -/
def execBridgeThermalFoldback (t : Int) (s : State) : Out :=
  if !motOn s then .next s
  else if 1100 < t then
    let pm := (clampI 500 1000 (1000 - 5 * (t - 1100))).toNat
    let s1 := { s with mot := { s.mot with limitPm := pm, folded := true } }
    .next (if s.mot.folded then s1 else raise 8 0x0132 1 0xFFFF 0 s1)
  else if t < 1050 then .next { s with mot := { s.mot with limitPm := 1000, folded := false } }
  else .next s

end Sys2Proof.Machine
end

