-- ==== Sys2Proof/Machine/RegOps.lean ====
section
/-! DEFINITION. A register write with the action that its register has, block by block, and one access by any path with all its
checks (R499 to R502). A write stores its fields first; the pulses of one write act in ascending bit order. -/

namespace Sys2Proof.Machine

/-- Apply `f` when bit `i` of a written word is 1. -/
def pulse (w i : Nat) (f : State → State) (s : State) : State := if bitAt w i then f s else s

/-- The index of an address in an array of registers, if it lies in it. -/
def arrayIdx (a base n stride off : Nat) : Option Nat :=
  if base ≤ a ∧ a < base + n * stride ∧ (a - base) % stride = off then some ((a - base) / stride) else none

/-! ### Blocks with actions -/

/-- Block 0: the commit and the watchdog's kick (R484). -/
def supRegWrite (a : Nat) (w : Word) (s : State) : State :=
  let s1 := plainWrite a w s
  if a = R.SUP_WDT then pulse w.toNat 16 (updPwr (fun p => { p with supCommitted := true })) s1
  else if a = R.SUP_WDT_KICK then pulse w.toNat 0 (updPwr (fun p => { p with wdtAt := s.now.toNat })) s1
  else s1

/-- Block 1: doorbell, release and reset (R151, R158, R159). -/
def mbxRegWrite (a : Nat) (w : Word) (s : State) : State :=
  let s1 := plainWrite a w s
  match arrayIdx a (R.MBX_CTL 0) 16 4 0 with
  | some m => s1 |> pulse w.toNat 0 (doorbell m) |> pulse w.toNat 1 (release m) |> pulse w.toNat 2 (mbxResetTo m)
  | none => s1

/-- Block 2: the synthesizers and the islands. -/
def clkRegWrite (p : Path) (env : RegEnv) (a : Nat) (w : Word) (s : State) : State :=
  match arrayIdx a (R.CLK_ISL_CTL 0) 13 4 0, arrayIdx a (R.CLK_PLL_CFG 0) 10 4 0 with
  | some i, _ => islWrite p i w.toNat (busyOf env.busy) env.idle s
  | none, some i => pllStore i w s
  | none, none =>
    let s1 := plainWrite a w s
    if a = R.CLK_GOV_CTL then pulse w.toNat 16 paceLowRst s1
    else if a = R.CLK_SSC_MOT then sscStore 0 w s else if a = R.CLK_SSC_PACTL then sscStore 1 w s else s1

/-- A write to a register of zone-loaded fields by another than the sequencer lasts until the next band start, which loads the zone anew,
and waits for the end of the sector that passes. -/
def zoneLoadedWrite (h a : Nat) (w : Word) (s : State) : State :=
  let s1 := plainWrite a w s
  if (headOf s h).cur.isSome then updHead h (fun y => { y with late := y.late ++ [(a, rd s1 a)] }) (updFs (actOf h) (fun x => { x with zone := none }) s)
  else updFs (actOf h) (fun x => { x with zone := none }) s1

/-- Block 4: the counter of thermal asperities, the raw control link, the commits, the zone-loaded registers (R186, R214, R505). -/
def hcRegWrite (p : Path) (a : Nat) (w : Word) (s : State) : State :=
  let s1 := plainWrite a w s
  let h := (a - 0x100000) / 0x400
  if a = R.HC_GCTL then forN 4 (fun k s => pulse w.toNat k (hcCommit k) s) s1
  else if h < 144 ∧ (headRegs h).contains a = true then (match p with
    | .fseq _ => s1
    | _ => zoneLoadedWrite h a w s)
  else match arrayIdx a (R.HC_PA_RAW_TX 0) 16 8 0, arrayIdx a (R.HC_FLT 0 - 0x3C) 144 0x400 0x3C with
    | some n, _ => paSend n (w.toNat % 2 ^ 31 + 2 ^ 31) true s1
    | none, some h => pulse w.toNat 23 (setF (F.HC_TA_CNT h) 0) s1
    | none, none => s1

/-- Block 6: halt, resume, the zone table's commit, the trace (R245, R254, R262, R266). -/
def fsRegWrite (a : Nat) (w : Word) (s : State) : State :=
  let s1 := plainWrite a w s
  let q := (a - 0x150000) / 0x1000
  if a = R.FS_CTL q then s1 |> pulse w.toNat 1 (fsHalt q) |> pulse w.toNat 2 (fsResume q)
  else if a = R.FS_ZT_CTL q then pulse w.toNat 0 (zoneCommit q) s1
  else if a = R.FS_TRC_CTL q then trcFreeze q (bitAt w.toNat 2) s1
  else s1

/-- A write of SPN_CTL (R284, R287, R298): RUN rising starts the spindle where this device may, falling stops it. -/
def spnCtlWrite (w : Nat) (s s1 : State) : State :=
  let was := isSet s F.SPN_RUN
  let s2 := if !was && bitAt w 16 && owns s 0 && spnOk s && s.pwr.startPermitted then
      s1 |> updSpn (fun x => { x with starts := 0, tries := 0 }) |> spnStart
    else if was && !bitAt w 16 then s1 |> spnStop |> spnFinish 0 else s1
  pulse w 17 spnCoast s2

/-- A write of VCM_CTL (R293, R295): LOAD rising loads the heads at speed, falling unloads them. -/
def vcmCtlWrite (a w : Nat) (s s1 : State) : State :=
  let was := isSet s (F.VCM_LOAD a)
  let s2 := if !was && bitAt w 0 && owns s a && isSet s F.SPN_AT_SPEED && decide (1800 ≤ getF s F.SPN_RPM) then loadHeads a s1
    else if was && !bitAt w 0 then unloadHeads a s1 else s1
  pulse w 1 (fun s => if owns s a then retract a s else s) s2

/-- A write of FAN_CTL (R296, R297). -/
def fanCtlWrite (f back w : Nat) (s s1 : State) : State :=
  let was := isSet s (F.FAN_RUN f)
  if !was && bitAt w 16 then s1 |> updFan f (fun x => { x with tries := 0 }) |> fanStart f back
  else if was && !bitAt w 16 then fanStop f s1 else s1

/-- Block 8: the Control Law Engine's commit, swaps and banks, the tables, the motors. -/
def motRegWrite (env : RegEnv) (a : Nat) (w : Word) (s : State) : State :=
  if 0x201000 ≤ a ∧ a < 0x202200 then
    coefStore ((a - 0x201000) / 0x200) ((a - 0x201000) / 0x100 % 2) ((a - 0x201000) % 0x100 / 4) w s
  else if 0x208000 ≤ a ∧ a < 0x20B800 then entryStore a w s
  else
    let s1 := plainWrite a w s
    let n := w.toNat
    if a = R.CLE_CTL then pulse n 0 (setF F.CLE_COMMITTED 1) s1
    else if a = R.SPN_CTL then spnCtlWrite n s s1
    else match arrayIdx a (R.CLE_LOOP 0) 9 4 0, arrayIdx a (R.VCM_CTL 0) 4 0x100 0, arrayIdx a (R.FAN_CTL 0) 4 0x20 0 with
      | some l, _, _ => pulse n 1 (swapReq l) s1
      | none, some v, _ => vcmCtlWrite v n s s1
      | none, none, some f => fanCtlWrite f env.back.toNat n s s1
      | none, none, none => s1

/-- A write of Q_DB (R313, R319): a push before the doorbell of its queue. -/
def qDbWrite (q w : Nat) (s : State) : State :=
  s |> pushTake q (bitsAt w 2 3) (bitAt w 0) |> pulse w 1 (cqBell q) |> pulse w 0 (sqBell q)

/-- Block 12: doorbells, stop, resume and skip (R313, R322). -/
def qRegWrite (env : RegEnv) (a : Nat) (w : Word) (s : State) : State :=
  let s1 := plainWrite a w s
  let n := w.toNat
  match arrayIdx a (R.Q_DB 0) 256 0x100 0, arrayIdx a (R.Q_DB 0) 256 0x100 4 with
  | some q, _ => qDbWrite q n (hostPlaces env.host s1)
  | none, some q => s1 |> pulse n 0 (fun s => stopCheck q (natStop q s).2) |> pulse n 1 (fun s => (natResume q s).2)
      |> pulse n 2 (fun s => (natSkip q s).2)
  | none, none => s1

/-- A write of DMA_CH_CTL (R468). -/
def dmaCtlWrite (n w : Nat) (s : State) : State :=
  let s1 := setF (F.DMA_VEC n) (bitsAt w 16 11) s
  if !bitAt w 0 then dmaDisable n s1
  else s1 |> dmaEnable n |> pulse w 1 (dmaGo n) |> pulse w 2 (dmaStop n) |> pulse w 3 (dmaResume n)

/-- Block 16: channels and the commit. -/
def dmaRegWrite (a : Nat) (w : Word) (s : State) : State :=
  match arrayIdx a (R.DMA_CH_CTL 0) 16 0x40 0 with
  | some n => dmaCtlWrite n w.toNat s
  | none =>
    let s1 := plainWrite a w s
    if a = R.DMA_GCTL then pulse w.toNat 0 (setF F.DMA_COMMITTED 1) s1 else s1

/-- A write of TC_MAINT (R460, R461): the status its operation answers; operation 0 is none. -/
def tcRegWrite (a : Nat) (w : Word) (s : State) : State × Nat :=
  if a = R.TC_MAINT then
    let n := w.toNat
    let op := bitsAt n 28 2
    if op = 0 then (s, 0) else tcMaint op (if op = 3 then bitsAt n 24 4 else 0) (if op = 1 then 0 else bitsAt n 0 14) s
  else (plainWrite a w s, 0)

/-! ### Windows -/

/-- A write of a control-store word: only parity, in its test mode and before the lock, and only of the RAM (R264). -/
def storeWrite (q off : Nat) (w : Word) (s : State) : State :=
  let n := off / 16
  if off % 16 = 12 ∧ 0x1000 ≤ n ∧ isSet s (F.FS_CS_PAR_WR q) = true ∧ isSet s (F.FS_CS_LOCK q) = false then
    let d := csWord s q n % 2 ^ 96
    updFs q (fun x => { x with ram := (n, d + w.toNat % 256 * 2 ^ 96) :: x.ram.filter (fun e => e.1 ≠ n) }) s
  else s

/-- A write of a window. -/
def winWrite (x : Win) (w : Word) (s : State) : State :=
  match x with
  | .page m off => memWrite (pageOf m off) (leBytes 4 w.toNat) s
  | .store q off => storeWrite q off w s
  | .zone q off => zoneStore q (off / 4) w s
  | .push q off => updNat q (fun y => { y with window := y.window.take off ++ leBytes 4 w.toNat ++ y.window.drop (off + 4) }) s

/-! ### One access -/

/-- What a write of CLK_ISL_CTL answers over the mailbox: 0x0124 for a refused gate, 0x0123 for a refused release (R116, R123). -/
def clkStatus (p : Path) (a : Nat) (w : Word) (s s1 : State) : Nat :=
  match p, arrayIdx a (R.CLK_ISL_CTL 0) 13 4 0 with
  | .mbx _, some i =>
    if w.getLsbD 0 && !isSet s1 (F.CLK_GATED i) && !isSet s1 (F.CLK_GATE_PENDING i) then 0x0124
    else if w.getLsbD 2 && !isSet s (F.CLK_LOCKED i) then 0x0123 else 0
  | _, _ => 0

/-- The action of a permitted write, and the status that it answers. -/
def regAct (p : Path) (env : RegEnv) (a : Nat) (w : Word) (s : State) : State × Nat :=
  match winOf a with
  | some x => (winWrite x w s, 0)
  | none =>
    if (supOffset a).isSome then (plainWrite a w s, 0)
    else match blockOf a with
      | some 0 => (supRegWrite a w s, 0)
      | some 1 => (mbxRegWrite a w s, 0)
      | some 2 => let s1 := clkRegWrite p env a w s; (s1, clkStatus p a w s s1)
      | some 3 => match arrayIdx a (R.PWR_DOM_CTL 0) 17 4 0 with
        | some d => domReq p d w s
        | none => (plainWrite a w s, 0)
      | some 4 => (hcRegWrite p a w s, 0)
      | some 6 => (fsRegWrite a w s, 0)
      | some 8 => (motRegWrite env a w s, 0)
      | some 10 =>
        let s1 := plainWrite a w s
        (if a = R.FPM_GCTL then pulse w.toNat 0 (setF F.FPM_COMMITTED 1) s1 else s1, 0)
      | some 11 =>
        let s1 := plainWrite a w s
        (if a = R.RED_CTL then pulse w.toNat 2 filterClear s1 else s1, 0)
      | some 12 => (qRegWrite env a w s, 0)
      | some 13 =>
        let s1 := plainWrite a w s
        (if a = R.SLU_HWM then pulse w.toNat 31 hwmReset s1 else s1, 0)
      | some 14 => (portWrite a w s, 0)
      | some 16 => (dmaRegWrite a w s, 0)
      | some 17 => tcRegWrite a w s
      | some 18 =>
        let s1 := plainWrite a w s
        (if a = R.ECC_FILL_CTL then s1 |> pulse w.toNat 0 fillCellar |> pulse w.toNat 1 fillDram else s1, 0)
      | _ => (plainWrite a w s, 0)

/-- A write that would change a committed field (R501). -/
def rwlRefused (a : Nat) (w : Word) (s : State) : Bool :=
  lockedAt a s && (rowAt a).any (fun r => rwlChanges r.1 w.toNat (rdN s a))

/-- One write with all its checks: the status, none while it waits at an island (R114). One that has `started` already is permitted
(R172). -/
def regWrite (p : Path) (env : RegEnv) (a : Nat) (w : Word) (s : State) (started : Bool := false) : State × Option Nat :=
  match busCheck (if started then .core else p) true a true w s with
  | (.unfitted, s1) => (s1, some 0)
  | (.wait _, s1) => (s1, none)
  | (.err st, s1) => (s1, some st)
  | (.go, s1) =>
    if rwlRefused a w s1 then (logViolation ((blockOf a).getD 0) a 3 (srcOf p) true s1, some 0x0015)
    else let r := regAct p env a w s1; (r.1, some r.2)

/-- One read with all its checks: the status and the word, none while it waits at an island. -/
def regRead (p : Path) (a : Nat) (s : State) (started : Bool := false) : State × Option (Nat × Word) :=
  match busCheck (if started then .core else p) true a false 0 s with
  | (.unfitted, s1) => (s1, some (0, unfitWord a))
  | (.wait _, s1) => (s1, none)
  | (.err st, s1) => (s1, some (st, 0))
  | (.go, s1) => let r := plainRead p a s1; (r.1, some (0, r.2))

/-- An access waits at the island that its address lies in. -/
def islandWait (p : Path) (a : Nat) (isWr : Bool) (w : Word) (s : State) : State :=
  updClk (fun c => { c with waiting := c.waiting ++ [⟨(islandAt a).getD 0, p, isWr, a, w⟩] }) s

/-- A write through a path that gets its answer on the bus. -/
def busWrite (p : Path) (env : RegEnv) (a : Nat) (w : Word) (s : State) : State :=
  match regWrite p env a w s with
  | (s1, some st) => busAnswer p a st 0 s1
  | (s1, none) => islandWait p a true w s1

/-- A read through a path that gets its answer on the bus. -/
def busRead (p : Path) (a : Nat) (s : State) : State :=
  match regRead p a s with
  | (s1, some x) => s1 |> busAnswer p a x.1 x.2.toNat |> readRefused p a x.1
  | (s1, none) => islandWait p a false 0 s1

end Sys2Proof.Machine
end

