-- ==== Sys2Proof/Machine/Registers.lean ====
section
/-! DEFINITION. The rows of register accesses: through BAR2, control cores and the partner (R10, R174, R175, R492, R499 to R502), the
mailbox commands REG_READ and REG_WRITE (R176), and a format sequencer's RDREG and WRREG (R255). -/

namespace Sys2Proof.Machine

/-! ### Accesses on the bus -/

/-- A request of two DWORDs is aligned to 8 bytes (R174). -/
def reqOk (ok two : Bool) (a : Nat) : Bool := ok && (!two || decide (a % 8 = 0))

/-- A request of a wrong width, alignment or set of byte enables: no part of it is performed (R174, R177). -/
def badRequest (p : Path) (a : Nat) (isWr : Bool) (s : State) : State :=
  let r := busCheck p false a isWr 0 s
  let s1 := busAnswer p a 0x0015 0 r.2
  if isWr then s1 else readRefused p a 0x0015 s1

/-- REGISTER_WRITE (R174, R499): of one DWORD, or of two in ascending order. `ok`: width, alignment and byte enables are as R174
asks. -/
def execRegisterWrite (p : Path) (ok : Bool) (a : BitVec 32) (w : BitVec 32) (w2 : Option (BitVec 32)) (env : RegEnv) (s : State) : Out :=
  if reqOk ok w2.isSome a.toNat then
    let s1 := busWrite p env a.toNat w s
    .next (match w2 with
      | some x => busWrite p env (a.toNat + 4) x s1
      | none => s1)
  else .next (badRequest p a.toNat true s)

/-- REGISTER_READ (R174, R499): of one DWORD, or of two. -/
def execRegisterRead (p : Path) (ok : Bool) (a : BitVec 32) (two : Bool) (s : State) : Out :=
  if reqOk ok two a.toNat then
    let s1 := busRead p a.toNat s
    .next (if two then busRead p (a.toNat + 4) s1 else s1)
  else .next (badRequest p a.toNat false s)

/-- COUNTER_LO_READ (R175): a read of the LO register of a pair. -/
def execCounterLoRead (p : Path) (a : BitVec 32) (s : State) : Out :=
  if loPair a.toNat then .next (busRead p a.toNat s) else .next s

/-- COUNTER_SAT_CLEAR (R492): a write of 1 to the SAT bit of a counter's HI register. -/
def execCounterSatClear (p : Path) (a : BitVec 32) (s : State) : Out :=
  if counterHi a.toNat then .next (busWrite p ⟨none, false, 0, []⟩ a.toNat 0x80000000 s) else .next s

/-! ### Mailbox commands (R176) -/

/-- A result of a row that may wait and run again: while it waits, its progress is kept. -/
def mbxAgain (m op : Nat) (f : MbxCmd → State → State × Option MbxResult) (s : State) : State :=
  let s1 := mbxRow m op anyParam f s
  if (mbxAt s1 m).started ∧ (mbxAt s1 m).result.isNone = true ∧ (mbxAt s m).started = false then
    { s1 with mbx := modAt s1.mbx m (fun y => { y with started := false }) }
  else s1

/-- Keep the progress of REG_READ or REG_WRITE, whose word `k` has started and waits. -/
def keepAt (m k : Nat) (d : List Byte) (s : State) : State := { s with mbx := modAt s.mbx m (fun y => { y with regAt := k, regData := d, regWait := true }) }

/-- Word `k` of a mailbox has started before (R172). -/
def startedAt (s : State) (m k : Nat) : Bool := (mbxAt s m).regWait && decide ((mbxAt s m).regAt = k)

/-- Completion of REG_READ: the words read, in the page or through DATA_PTR. -/
def regReadDone (c : MbxCmd) (st : Nat) (d : List Byte) (info : Nat) : MbxResult :=
  if dptr c then ⟨st, [], d.length, info, d⟩ else ⟨st, d, 0, info, []⟩

/-- The words of REG_READ from number `k` on, `n` of them left. -/
def readWords (m : Fin 16) (c : MbxCmd) : Nat → Nat → List Byte → State → State × Option MbxResult
  | 0, _, d, s => (s, some (regReadDone c 0 d 0))
  | n + 1, k, d, s =>
    let a := (par c 0 32 + 4 * k) % 2 ^ 32
    match regRead (.mbx m) a s (startedAt s m.val k) with
    | (s1, none) => (keepAt m.val k d s1, none)
    | (s1, some x) => if x.1 ≠ 0 then (s1, some (regReadDone c x.1 d a)) else readWords m c n (k + 1) (d ++ leBytes 4 x.2.toNat) s1

/-- REG_READ: in order up to the first word that fails. -/
def execRegRead (m : Fin 16) (s : State) : Out :=
  .next (mbxAgain m.val 0x0008 (fun c s =>
    let n := par c 32 16
    let x := mbxAt s m.val
    if n = 0 ∨ 248 < n then answer 0x0016 s
    else if dptr c ∧ c.dataLen.toNat ≠ 4 * n then answer 0x0011 s
    else readWords m c (n - x.regAt) x.regAt x.regData s) s)

/-- The words of REG_WRITE from number `k` on. -/
def writeWords (m : Fin 16) (c : MbxCmd) (env : RegEnv) : List Word → Nat → State → State × Option MbxResult
  | [], _, s => answer 0 s
  | w :: r, k, s =>
    let a := (par c 0 32 + 4 * k) % 2 ^ 32
    match regWrite (.mbx m) env a w s (startedAt s m.val k) with
    | (s1, none) => (keepAt m.val k [] s1, none)
    | (s1, some st) => if st ≠ 0 then (s1, some ⟨st, [], 4 * k, a, []⟩) else writeWords m c env r (k + 1) s1

/-- REG_WRITE: in order up to the first word that fails. -/
def execRegWrite (m : Fin 16) (env : RegEnv) (s : State) : Out :=
  .next (mbxAgain m.val 0x0009 (fun c s =>
    let b := if dptr c then c.ext else c.data
    let k := (mbxAt s m.val).regAt
    if b.length % 4 ≠ 0 ∧ (mbxAt s m.val).xferFail = none then answer 0x0011 s
    else writeWords m c env ((leWords (b.length / 4) b).drop k) k s) s)

/-! ### A format sequencer's accesses (R255, R500) -/

/-- A status that a violation answers (R177). -/
def isViolation (st : Nat) : Bool := decide (st = 0x0013 ∨ st = 0x0015)

/-- A violation of the sequencer's own access: the machine check of cause 7. -/
def reachCheck (a : Nat) (s : State) : State := machineCheck a (getF s (F.FS_PC a)) ((fsOf s a).word.getD 0) 0 7 s

/-- FS_ACT_RDREG: the register's word; what it reads of a register without power is not stated. -/
def execFsActRdreg (a : Fin 4) (s : State) : Out :=
  .next (fsAct a.val 3 (fun w s =>
    match regRead (.fseq a) (regAddr s a.val w) s with
    | (s1, none) => s1
    | (s1, some x) =>
      if x.1 = 0 then grPut a.val (wRd w) x.2 s1
      else if isViolation x.1 then reachCheck a.val s1
      else let f := takeFree s1; grPut a.val (wRd w) (BitVec.ofNat 32 f.1.toNat) f.2) s)

/-- FS_ACT_WRREG. -/
def execFsActWrreg (a : Fin 4) (env : RegEnv) (s : State) : Out :=
  .next (fsAct a.val 4 (fun w s =>
    match regWrite (.fseq a) env (regAddr s a.val w) (gr s a.val (wRb w)) s with
    | (s1, some st) => if isViolation st then reachCheck a.val s1 else s1
    | (s1, none) => s1) s)

end Sys2Proof.Machine
end

