-- ==== Sys2Proof/Machine/Thermal.lean ====
section
/-! DEFINITION. The rows of the temperature protection (R522, R523). -/

namespace Sys2Proof.Machine

/-- Change the thermal record. -/
def updTherm (f : ThermSt → ThermSt) (s : State) : State := { s with therm := f s.therm }

/-- TEMP_SENSOR_READ (R522). -/
def execTempSensorRead (t0 t1 t2 t3 : Int) (s : State) : Out :=
  if live s then .next (updTherm (fun t => { t with dies := [t0, t1, t2, t3] }) s) else .next s

/-- TJ_OVER_105_TIMEOUT (R108, R523): the governor's next read preamplifier goes, below the guaranteed admission too, and never one of a
band being written; 0x0130 is raised once per episode. -/
def execTjOver105Timeout (s : State) : Out :=
  if !live s || decide (tjOf s ≤ 105) then .next s
  else
    let s1 := if s.therm.over105 then s else s |> updTherm (fun t => { t with over105 := true }) |> raise 2 0x0130 1 0xFFFF 0
    .next (match paVictim s1 with
      | some p => paRemove p s1
      | none => s1)

/-- TJ_OVER_115_TIMEOUT (R523): only bands in progress keep their heads, and the disk tier waits. -/
def execTjOver115Timeout (s : State) : Out :=
  if !live s || decide (tjOf s ≤ 115) || s.therm.over115 then .next s
  else
    let s1 := s |> updTherm (fun t => { t with over115 := true }) |> raiseLive 2 0x0131 2 0xFFFF 0 true
    .next (admitTo (s1.clk.admitted.filter (fun p => (bandOf s1 (p / 4)).isSome)) s1)

/-- TJ_DISK_WAIT_TIMEOUT (R523): command `k` has waited at the Headgate for the disk tier. -/
def execTjDiskWaitTimeout (k : Nat) (s : State) : Out :=
  match cmdOf s k with
  | none => .next s
  | some c =>
    if s.therm.over115 ∧ c.stage = 0 ∧ diskTier s c = true then
      .next (sluRefresh (updCmd k (fun c => { c with stage := 3, status := some 0x0131 }) s))
    else .next s

/-- TJ_RECOVERY_TIMEOUT (R523): each episode ends below its own level. -/
def execTjRecoveryTimeout (s : State) : Out :=
  let s1 := if s.therm.over115 ∧ tjOf s < 105 then s |> updTherm (fun t => { t with over115 := false }) |> clearLive 2 0x0131 else s
  .next (if s1.therm.over105 ∧ tjOf s1 < 100 then updTherm (fun t => { t with over105 := false }) s1 else s1)

end Sys2Proof.Machine
end

