-- ==== Sys2Proof/Machine/Vat.lean ====
section
/-! DEFINITION. The rows of the Vat journal: an entry's seal, a mirror entry received, a mirror acknowledgement (R452 to
R454). -/

namespace Sys2Proof.Machine

/-- VAT_ENTRY_SEALED (R452): the seal of an own entry whose payload has been written. The entry is complete: a host
write's map change takes effect (R348), and what its two copies allow follows (R453). -/
def execVatEntrySealed (g : Fin 2) (seq : BitVec 32) (s : State) : Out :=
  match jrnOf s g.val seq.toNat with
  | none => .next s
  | some e =>
    if e.arrived && !e.sealed && isSet s F.VAT_READY then
      let s1 := s |> updJrn g.val seq.toNat (fun e => { e with sealed := true, applied := true }) |> wr (R.VAT_SEQ g.val) seq
      let s2 := if e.kind = 1 then applyWrite e.volume seq.toNat e.offset e.payload.length s1 else s1
      .next (s2 |> jAckFree |> jRelease)
    else .next s

/-- VAT_MIRROR_ENTRY_RECEIVED (R453): the partner's entries are sealed in SEQ order and acknowledged up to the last; an
entry that does not follow the last one, or for which the pool has no room (R454), is not taken. Entries that the
partner reports released leave the pool. -/
def execVatMirrorEntryReceived (g : Fin 2) (seq : BitVec 32) (body : MirrorBody) (released : List (BitVec 32)) (s : State) :
    Out :=
  if !isSet s F.NAL_UP || !isSet s F.VAT_READY then .next s
  else
    let s0 := { s with journal := s.journal.filter (fun e =>
      !(e.mirror && decide (e.group = g.val) && released.contains e.seq)) }
    let e := mirrorEnt g.val seq body
    let follows := match s0.tier.mirrorLast.getD g.val none with
      | none => true
      | some q => decide (seq.toNat = (q + 1) % 2 ^ 32)
    if !follows || decide (896 * 2 ^ 20 < poolBytes s0 false + poolBytes s0 true + entBytesHeld e) then .next s0
    else
      let s1 := { s0 with journal := s0.journal ++ [e]
                          tier := { s0.tier with mirrorLast := setAt s0.tier.mirrorLast g.val (some seq.toNat) } }
      .next (s1 |> mirrorApply body |> nalSend 2 2 [g.val, seq.toNat])

/-- MIRROR_ACK_RECEIVED (R453): every own entry of the group up to `seq` has its mirror. -/
def execMirrorAckReceived (g : Fin 2) (seq : BitVec 32) (s : State) : Out :=
  if !isSet s F.NAL_UP || !isSet s F.VAT_READY then .next s
  else
    let s1 := { s with journal := s.journal.map (fun e =>
      if !e.mirror && decide (e.group = g.val) && (decide (e.seq = seq) || seqNewer seq.toNat e.seq.toNat)
      then { e with mirrored := true, flashPending := false } else e) }
    .next (s1 |> wr (R.VAT_MIRROR_ACK g.val) seq |> jAckFree |> jRelease)

end Sys2Proof.Machine
end

