-- ==== Sys2Proof/Machine/Dispatch.lean ====
section
/-! DEFINITION. One arm per command: the dispatch of every row of the opcode table to its meaning. -/

namespace Sys2Proof.Machine

def exec (i : Instr) (s : State) : Host.Outcome State Fault Refusal :=
  match i with
  | .resetNAssert => Sys2Proof.Machine.execResetNAssert s
  | .resetNDeassert pullUp pullDown pcieEn fabProf miAddr testN => Sys2Proof.Machine.execResetNDeassert pullUp pullDown pcieEn fabProf miAddr testN s
  | .vsysPowerOnRelease => Sys2Proof.Machine.execVsysPowerOnRelease s
  | .vsysBelowRated below mv => Sys2Proof.Machine.execVsysBelowRated below mv s
  | .vsysPowerFail mv => Sys2Proof.Machine.execVsysPowerFail mv s
  | .holdupEnd => Sys2Proof.Machine.execHoldupEnd s
  | .vsysOvervoltage mv => Sys2Proof.Machine.execVsysOvervoltage mv s
  | .vmotStartPermitted mv => Sys2Proof.Machine.execVmotStartPermitted mv s
  | .vmotUndervoltage mv => Sys2Proof.Machine.execVmotUndervoltage mv s
  | .vmotOvervoltage mv => Sys2Proof.Machine.execVmotOvervoltage mv s
  | .vmotOvFallowTimeout => Sys2Proof.Machine.execVmotOvFallowTimeout s
  | .vmotOvReturn mv => Sys2Proof.Machine.execVmotOvReturn mv s
  | .pwrDomReqWrite p d w => Sys2Proof.Machine.execPwrDomReqWrite p d w s
  | .domainDrainDone d => Sys2Proof.Machine.execDomainDrainDone d s
  | .pwrDrainLimitExpiry d => Sys2Proof.Machine.execPwrDrainLimitExpiry d s
  | .domainPowerUpDone d offline => Sys2Proof.Machine.execDomainPowerUpDone d offline s
  | .modeSetBringup m => Sys2Proof.Machine.execModeSetBringup m s
  | .modeSetSolo m => Sys2Proof.Machine.execModeSetSolo m s
  | .modeSetFallow m partnerTakes => Sys2Proof.Machine.execModeSetFallow m partnerTakes s
  | .modeSetWake m partnerTakes => Sys2Proof.Machine.execModeSetWake m partnerTakes s
  | .modeSetDrain m partnerTakes => Sys2Proof.Machine.execModeSetDrain m partnerTakes s
  | .modeSetDrainCancel m partnerTakes => Sys2Proof.Machine.execModeSetDrainCancel m partnerTakes s
  | .modeSetDormant m => Sys2Proof.Machine.execModeSetDormant m s
  | .pairModeRequestReceived target peers => Sys2Proof.Machine.execPairModeRequestReceived target peers s
  | .safeRelease m => Sys2Proof.Machine.execSafeRelease m s
  | .soloStartWaitExpiry => Sys2Proof.Machine.execSoloStartWaitExpiry s
  | .idleFallowExpiry => Sys2Proof.Machine.execIdleFallowExpiry s
  | .fallowEntryDone => Sys2Proof.Machine.execFallowEntryDone s
  | .wakeDiskReadsAdmitted tempWithin5 => Sys2Proof.Machine.execWakeDiskReadsAdmitted tempWithin5 s
  | .wakeCalibrationDone => Sys2Proof.Machine.execWakeCalibrationDone s
  | .drainEvacuationComplete => Sys2Proof.Machine.execDrainEvacuationComplete s
  | .bootSupervisorVerified => Sys2Proof.Machine.execBootSupervisorVerified s
  | .bootDormantEntered => Sys2Proof.Machine.execBootDormantEntered s
  | .bootControlVerified => Sys2Proof.Machine.execBootControlVerified s
  | .bootPatchesVerified => Sys2Proof.Machine.execBootPatchesVerified s
  | .dramTrainingDone ok rate cap channels => Sys2Proof.Machine.execDramTrainingDone ok rate cap channels s
  | .descriptorReadDone bytes => Sys2Proof.Machine.execDescriptorReadDone bytes s
  | .descriptorCheckReceived check valid => Sys2Proof.Machine.execDescriptorCheckReceived check valid s
  | .nalTrainDone lanes pos brick recs => Sys2Proof.Machine.execNalTrainDone lanes pos brick recs s
  | .fenceTestPulseEnd => Sys2Proof.Machine.execFenceTestPulseEnd s
  | .fenceTestReportReceived failed ended saw => Sys2Proof.Machine.execFenceTestReportReceived failed ended saw s
  | .fenceTestReportTimeout => Sys2Proof.Machine.execFenceTestReportTimeout s
  | .partnerAttestationResult ok code => Sys2Proof.Machine.execPartnerAttestationResult ok code s
  | .partnerAttestationTimeout => Sys2Proof.Machine.execPartnerAttestationTimeout s
  | .vatReplayDone => Sys2Proof.Machine.execVatReplayDone s
  | .mapsLoaded lfps partnerGib base0 base1 => Sys2Proof.Machine.execMapsLoaded lfps partnerGib base0 base1 s
  | .fullCalibrationDone => Sys2Proof.Machine.execFullCalibrationDone s
  | .partnerStepReport step pmode => Sys2Proof.Machine.execPartnerStepReport step pmode s
  | .bringupComplete => Sys2Proof.Machine.execBringupComplete s
  | .hbFrameTimer => Sys2Proof.Machine.execHbFrameTimer s
  | .hbFrameReceived w => Sys2Proof.Machine.execHbFrameReceived w s
  | .hbLossTimeout => Sys2Proof.Machine.execHbLossTimeout s
  | .nalHbMessageReceived w => Sys2Proof.Machine.execNalHbMessageReceived w s
  | .fenceInAssert level => Sys2Proof.Machine.execFenceInAssert level s
  | .nalPingReceived => Sys2Proof.Machine.execNalPingReceived s
  | .pingReplyReceived => Sys2Proof.Machine.execPingReplyReceived s
  | .takeoverPingTimeout => Sys2Proof.Machine.execTakeoverPingTimeout s
  | .takeoverFenceHoldoffExpiry => Sys2Proof.Machine.execTakeoverFenceHoldoffExpiry s
  | .takeoverArbitrationEnd => Sys2Proof.Machine.execTakeoverArbitrationEnd s
  | .takeoverChannelsAcquired left busy erasing => Sys2Proof.Machine.execTakeoverChannelsAcquired left busy erasing s
  | .actuatorCatchDone a => Sys2Proof.Machine.execActuatorCatchDone a s
  | .actuatorCatchTimeout a => Sys2Proof.Machine.execActuatorCatchTimeout a s
  | .takeoverReplayDone left => Sys2Proof.Machine.execTakeoverReplayDone left s
  | .tokenReleaseStart t => Sys2Proof.Machine.execTokenReleaseStart t s
  | .tokenReleaseReceived t e left => Sys2Proof.Machine.execTokenReleaseReceived t e left s
  | .takeAckReceived t e => Sys2Proof.Machine.execTakeAckReceived t e s
  | .refuseReceived t e => Sys2Proof.Machine.execRefuseReceived t e s
  | .tokenQueryTimer t => Sys2Proof.Machine.execTokenQueryTimer t s
  | .tokenQueryReceived t e => Sys2Proof.Machine.execTokenQueryReceived t e s
  | .speedLoopSample => Sys2Proof.Machine.execSpeedLoopSample s
  | .torqueReceived n cmd => Sys2Proof.Machine.execTorqueReceived n cmd s
  | .handover m => Sys2Proof.Machine.execHandover m s
  | .handoverDrainDone => Sys2Proof.Machine.execHandoverDrainDone s
  | .coilBlendStart a => Sys2Proof.Machine.execCoilBlendStart a s
  | .vcmCurrentCmdReceived a cmd sect => Sys2Proof.Machine.execVcmCurrentCmdReceived a cmd sect s
  | .coilBlendRampEnd a => Sys2Proof.Machine.execCoilBlendRampEnd a s
  | .backupBridgeTimeout a => Sys2Proof.Machine.execBackupBridgeTimeout a s
  | .nalFlitReceived flit failed msgs => Sys2Proof.Machine.execNalFlitReceived flit failed msgs s
  | .nalAckTimeout => Sys2Proof.Machine.execNalAckTimeout s
  | .nalLaneFail lane => Sys2Proof.Machine.execNalLaneFail lane s
  | .nalRetrainTimer => Sys2Proof.Machine.execNalRetrainTimer s
  | .perstAssert => Sys2Proof.Machine.execPerstAssert s
  | .perstDeassert => Sys2Proof.Machine.execPerstDeassert s
  | .pcieFlr => Sys2Proof.Machine.execPcieFlr s
  | .ccEnClear => Sys2Proof.Machine.execCcEnClear s
  | .msixUnmask enable fnMask masked => Sys2Proof.Machine.execMsixUnmask enable fnMask masked s
  | .governorRun pace vcore vsys vmot capHolds capPas => Sys2Proof.Machine.execGovernorRun pace vcore vsys vmot capHolds capPas s
  | .preampReadmitTimer p => Sys2Proof.Machine.execPreampReadmitTimer p s
  | .sampleBufferOverrun h fill => Sys2Proof.Machine.execSampleBufferOverrun h fill s
  | .clkPllCfgWrite p isl w => Sys2Proof.Machine.execClkPllCfgWrite p isl w s
  | .pllLock isl => Sys2Proof.Machine.execPllLock isl s
  | .clkGateReqSet p idx busy => Sys2Proof.Machine.execClkGateReqSet p idx busy s
  | .clkGateReqClear p idx => Sys2Proof.Machine.execClkGateReqClear p idx s
  | .clkGateIdle idx => Sys2Proof.Machine.execClkGateIdle idx s
  | .clkGateForce p idx idle => Sys2Proof.Machine.execClkGateForce p idx idle s
  | .clkSafeRelease p idx => Sys2Proof.Machine.execClkSafeRelease p idx s
  | .clkPaceLowRst p => Sys2Proof.Machine.execClkPaceLowRst p s
  | .clkSscWrite p pactl w => Sys2Proof.Machine.execClkSscWrite p pactl w s
  | .refEdgeTimeout r => Sys2Proof.Machine.execRefEdgeTimeout r s
  | .refFreqMismatch backup pcie fab nal => Sys2Proof.Machine.execRefFreqMismatch backup pcie fab nal s
  | .refReturn r => Sys2Proof.Machine.execRefReturn r s
  | .refGood100ms r => Sys2Proof.Machine.execRefGood100ms r s
  | .sysRefclkLoss10ms => Sys2Proof.Machine.execSysRefclkLoss10ms s
  | .fabRefclkLoss1s => Sys2Proof.Machine.execFabRefclkLoss1s s
  | .tsInPulse => Sys2Proof.Machine.execTsInPulse s
  | .clkGate m busy => Sys2Proof.Machine.execClkGate m busy s
  | .clkUngate m => Sys2Proof.Machine.execClkUngate m s
  | .clkGateLimitExpiry m idle => Sys2Proof.Machine.execClkGateLimitExpiry m idle s
  | .clkRelease m => Sys2Proof.Machine.execClkRelease m s
  | .clkStatus m => Sys2Proof.Machine.execClkStatus m s
  | .fwStage m => Sys2Proof.Machine.execFwStage m s
  | .fwStageIdleTimeout k => Sys2Proof.Machine.execFwStageIdleTimeout k s
  | .fwActivate m partnerReady => Sys2Proof.Machine.execFwActivate m partnerReady s
  | .fwConfirm m => Sys2Proof.Machine.execFwConfirm m s
  | .fwAcceptAdd m => Sys2Proof.Machine.execFwAcceptAdd m s
  | .fwAcceptRemove m => Sys2Proof.Machine.execFwAcceptRemove m s
  | .fwCommitSvn m partnerTrial => Sys2Proof.Machine.execFwCommitSvn m partnerTrial s
  | .spdmGetVersion p busy => Sys2Proof.Machine.execSpdmGetVersion p busy s
  | .spdmGetCapabilities p busy version dts => Sys2Proof.Machine.execSpdmGetCapabilities p busy version dts s
  | .spdmNegotiateAlgorithms p busy p384 sha secp aes => Sys2Proof.Machine.execSpdmNegotiateAlgorithms p busy p384 sha secp aes s
  | .spdmGetDigests p busy => Sys2Proof.Machine.execSpdmGetDigests p busy s
  | .spdmGetCertificate p busy slot off len => Sys2Proof.Machine.execSpdmGetCertificate p busy slot off len s
  | .spdmChallenge p busy slot nonce => Sys2Proof.Machine.execSpdmChallenge p busy slot nonce s
  | .spdmGetMeasurements p busy idx nonce => Sys2Proof.Machine.execSpdmGetMeasurements p busy idx nonce s
  | .spdmKeyExchange p busy purpose => Sys2Proof.Machine.execSpdmKeyExchange p busy purpose s
  | .spdmFinish p busy sid root p384 sigOk => Sys2Proof.Machine.execSpdmFinish p busy sid root p384 sigOk s
  | .spdmHeartbeat p busy sid => Sys2Proof.Machine.execSpdmHeartbeat p busy sid s
  | .spdmKeyUpdate p busy sid op tag => Sys2Proof.Machine.execSpdmKeyUpdate p busy sid op tag s
  | .spdmEndSession p busy sid => Sys2Proof.Machine.execSpdmEndSession p busy sid s
  | .spdmChunkSend p busy seq last data => Sys2Proof.Machine.execSpdmChunkSend p busy seq last data s
  | .spdmChunkGet p busy seq => Sys2Proof.Machine.execSpdmChunkGet p busy seq s
  | .spdmUnsupportedRequest p busy code => Sys2Proof.Machine.execSpdmUnsupportedRequest p busy code s
  | .spdmHeartbeatLapse sid => Sys2Proof.Machine.execSpdmHeartbeatLapse sid s
  | .mbxMessageArrival t body => Sys2Proof.Machine.execMbxMessageArrival t body s
  | .mbxDoorbell p m => Sys2Proof.Machine.execMbxDoorbell p m s
  | .mbxRelease p m => Sys2Proof.Machine.execMbxRelease p m s
  | .mbxReset p m => Sys2Proof.Machine.execMbxReset p m s
  | .mbxHandlerTake m moved host => Sys2Proof.Machine.execMbxHandlerTake m moved host s
  | .mbxComplete m moved => Sys2Proof.Machine.execMbxComplete m moved s
  | .mailboxSend c => Sys2Proof.Machine.execMailboxSend c s
  | .mailboxReceive c => Sys2Proof.Machine.execMailboxReceive c s
  | .nop m => Sys2Proof.Machine.execNop m s
  | .identify m => Sys2Proof.Machine.execIdentify m s
  | .fence m => Sys2Proof.Machine.execFence m s
  | .fenceConditionsMet m => Sys2Proof.Machine.execFenceConditionsMet m s
  | .fenceLimitExpiry m => Sys2Proof.Machine.execFenceLimitExpiry m s
  | .expertEnable m => Sys2Proof.Machine.execExpertEnable m s
  | .expertDisable m => Sys2Proof.Machine.execExpertDisable m s
  | .expertRootAdd m => Sys2Proof.Machine.execExpertRootAdd m s
  | .expertRootRemove m => Sys2Proof.Machine.execExpertRootRemove m s
  | .regRead m => Sys2Proof.Machine.execRegRead m s
  | .regWrite m env => Sys2Proof.Machine.execRegWrite m env s
  | .violRead m => Sys2Proof.Machine.execViolRead m s
  | .registerWrite p ok a w w2 env => Sys2Proof.Machine.execRegisterWrite p ok a w w2 env s
  | .counterLoRead p a => Sys2Proof.Machine.execCounterLoRead p a s
  | .counterSatClear p a => Sys2Proof.Machine.execCounterSatClear p a s
  | .paReplyReceived p reply => Sys2Proof.Machine.execPaReplyReceived p reply s
  | .paFltAssert p => Sys2Proof.Machine.execPaFltAssert p s
  | .paClaimRetryTimer p => Sys2Proof.Machine.execPaClaimRetryTimer p s
  | .hcPaRawTxWrite p n w => Sys2Proof.Machine.execHcPaRawTxWrite p n w s
  | .sectorFramed h k x => Sys2Proof.Machine.execSectorFramed h k x s
  | .taStart h place mean run => Sys2Proof.Machine.execTaStart h place mean run s
  | .taEnd h place mean run => Sys2Proof.Machine.execTaEnd h place mean run s
  | .sectorEnd h f0 parts => Sys2Proof.Machine.execSectorEnd h f0 parts s
  | .decoderTake d => Sys2Proof.Machine.execDecoderTake d s
  | .codewordDecodeDone d => Sys2Proof.Machine.execCodewordDecodeDone d s
  | .retryStoreRedecode d => Sys2Proof.Machine.execRetryStoreRedecode d s
  | .ladderStep h sid x f0 parts => Sys2Proof.Machine.execLadderStep h sid x f0 parts s
  | .ladderAbandon h => Sys2Proof.Machine.execLadderAbandon h s
  | .writeUnsafe h => Sys2Proof.Machine.execWriteUnsafe h s
  | .heaterLeadExpiry h => Sys2Proof.Machine.execHeaterLeadExpiry h s
  | .heaterCalStep h gain margin allowance => Sys2Proof.Machine.execHeaterCalStep h gain margin allowance s
  | .hcCalibrate m channel => Sys2Proof.Machine.execHcCalibrate m channel s
  | .hcService m => Sys2Proof.Machine.execHcService m s
  | .hcStats m => Sys2Proof.Machine.execHcStats m s
  | .hcCommit p w => Sys2Proof.Machine.execHcCommit p w s
  | .wedgeSample h g => Sys2Proof.Machine.execWedgeSample h g s
  | .fsZtCommit p a => Sys2Proof.Machine.execFsZtCommit p a s
  | .zoneMemoryWrite p a k w => Sys2Proof.Machine.execZoneMemoryWrite p a k w s
  | .fsWordComplete a rev wedge sector slots upset => Sys2Proof.Machine.execFsWordComplete a rev wedge sector slots upset s
  | .fsWordTimeout a rev upset => Sys2Proof.Machine.execFsWordTimeout a rev upset s
  | .fsMchkReloadDone a => Sys2Proof.Machine.execFsMchkReloadDone a s
  | .fsActNop a => Sys2Proof.Machine.execFsActNop a s
  | .fsActAlu a => Sys2Proof.Machine.execFsActAlu a s
  | .fsActAlui a => Sys2Proof.Machine.execFsActAlui a s
  | .fsActRdreg a => Sys2Proof.Machine.execFsActRdreg a s
  | .fsActWrreg a env => Sys2Proof.Machine.execFsActWrreg a env s
  | .fsActZload a => Sys2Proof.Machine.execFsActZload a s
  | .fsActPacmd a => Sys2Proof.Machine.execFsActPacmd a s
  | .fsActArm a pos => Sys2Proof.Machine.execFsActArm a pos s
  | .fsActGate a => Sys2Proof.Machine.execFsActGate a s
  | .fsActPost a => Sys2Proof.Machine.execFsActPost a s
  | .fsActFetch a => Sys2Proof.Machine.execFsActFetch a s
  | .fsActSeek a => Sys2Proof.Machine.execFsActSeek a s
  | .fsActHalt a => Sys2Proof.Machine.execFsActHalt a s
  | .fsResume p a => Sys2Proof.Machine.execFsResume p a s
  | .fsHalt p a => Sys2Proof.Machine.execFsHalt p a s
  | .fsTrcFreezeWrite p a freeze => Sys2Proof.Machine.execFsTrcFreezeWrite p a freeze s
  | .fsTrcDataRead p a => Sys2Proof.Machine.execFsTrcDataRead p a s
  | .fsZoneLoad m => Sys2Proof.Machine.execFsZoneLoad m s
  | .fsTraceRead m => Sys2Proof.Machine.execFsTraceRead m s
  | .srvStats m => Sys2Proof.Machine.execSrvStats m s
  | .carrierPeriod x => Sys2Proof.Machine.execCarrierPeriod x s
  | .encoderReadmit => Sys2Proof.Machine.execEncoderReadmit s
  | .vcmLoopSample a w omega alpha ff => Sys2Proof.Machine.execVcmLoopSample a w omega alpha ff s
  | .cleOutputLate l idx => Sys2Proof.Machine.execCleOutputLate l idx s
  | .cleSwapReq p l => Sys2Proof.Machine.execCleSwapReq p l s
  | .cleCommit p => Sys2Proof.Machine.execCleCommit p s
  | .allHeadsLostTimeout a => Sys2Proof.Machine.execAllHeadsLostTimeout a s
  | .motSpindleStart m => Sys2Proof.Machine.execMotSpindleStart m s
  | .motSpindleStop m => Sys2Proof.Machine.execMotSpindleStop m s
  | .motSpindleCoast m => Sys2Proof.Machine.execMotSpindleCoast m s
  | .spnCoast p => Sys2Proof.Machine.execSpnCoast p s
  | .spindleMeasureDone rpm back => Sys2Proof.Machine.execSpindleMeasureDone rpm back s
  | .dcBrakeEnd rpm => Sys2Proof.Machine.execDcBrakeEnd rpm s
  | .alignmentEnd => Sys2Proof.Machine.execAlignmentEnd s
  | .observerHandover rpm => Sys2Proof.Machine.execObserverHandover rpm s
  | .spindleAtSpeed rpm => Sys2Proof.Machine.execSpindleAtSpeed rpm s
  | .spinupTimeout => Sys2Proof.Machine.execSpinupTimeout s
  | .startRetryTimer => Sys2Proof.Machine.execStartRetryTimer s
  | .shortBrakeEntry rpm => Sys2Proof.Machine.execShortBrakeEntry rpm s
  | .spindleStopped => Sys2Proof.Machine.execSpindleStopped s
  | .lowSpeedUnload rpm => Sys2Proof.Machine.execLowSpeedUnload rpm s
  | .motHeadsLoad m => Sys2Proof.Machine.execMotHeadsLoad m s
  | .motHeadsUnload m => Sys2Proof.Machine.execMotHeadsUnload m s
  | .headLoadDone a band => Sys2Proof.Machine.execHeadLoadDone a band s
  | .headUnloadDone a => Sys2Proof.Machine.execHeadUnloadDone a s
  | .vcmRetractWrite p a => Sys2Proof.Machine.execVcmRetractWrite p a s
  | .retractRampDetected a => Sys2Proof.Machine.execRetractRampDetected a s
  | .retractLatchDone a => Sys2Proof.Machine.execRetractLatchDone a s
  | .retractTimeout a => Sys2Proof.Machine.execRetractTimeout a s
  | .fanHallEdge f hall => Sys2Proof.Machine.execFanHallEdge f hall s
  | .fanStallTimeout f => Sys2Proof.Machine.execFanStallTimeout f s
  | .fanOvercurrent f ma => Sys2Proof.Machine.execFanOvercurrent f ma s
  | .fanSpeedLoopTick f duty => Sys2Proof.Machine.execFanSpeedLoopTick f duty s
  | .fanDcBrakeEnd f => Sys2Proof.Machine.execFanDcBrakeEnd f s
  | .fanStartRetryTimer f back => Sys2Proof.Machine.execFanStartRetryTimer f back s
  | .motFan m back => Sys2Proof.Machine.execMotFan m back s
  | .motStatus m => Sys2Proof.Machine.execMotStatus m s
  | .motTableLoad m => Sys2Proof.Machine.execMotTableLoad m s
  | .bridgeThermalFoldback t => Sys2Proof.Machine.execBridgeThermalFoldback t s
  | .createIoSq c => Sys2Proof.Machine.execCreateIoSq c s
  | .createIoCq c => Sys2Proof.Machine.execCreateIoCq c s
  | .deleteIoSq c => Sys2Proof.Machine.execDeleteIoSq c s
  | .deleteIoCq c => Sys2Proof.Machine.execDeleteIoCq c s
  | .getLogPage c => Sys2Proof.Machine.execGetLogPage c s
  | .nvmeIdentify c => Sys2Proof.Machine.execNvmeIdentify c s
  | .nvmeAbort c => Sys2Proof.Machine.execNvmeAbort c s
  | .setFeatures c => Sys2Proof.Machine.execSetFeatures c s
  | .getFeatures c => Sys2Proof.Machine.execGetFeatures c s
  | .asyncEventRequest c => Sys2Proof.Machine.execAsyncEventRequest c s
  | .keepAlive c => Sys2Proof.Machine.execKeepAlive c s
  | .keepAliveExpiry ctrl => Sys2Proof.Machine.execKeepAliveExpiry ctrl s
  | .fabricsConnect discovery ctrl qid sqsize kato hostNqn hostId => Sys2Proof.Machine.execFabricsConnect discovery ctrl qid sqsize kato hostNqn hostId s
  | .fabricsPropertyGet ctrl cid offset => Sys2Proof.Machine.execFabricsPropertyGet ctrl cid offset s
  | .fabricsPropertySet ctrl cid offset value => Sys2Proof.Machine.execFabricsPropertySet ctrl cid offset value s
  | .fabricsDisconnect ctrl qid => Sys2Proof.Machine.execFabricsDisconnect ctrl qid s
  | .unsupportedNvmeOpcode c opcode => Sys2Proof.Machine.execUnsupportedNvmeOpcode c opcode s
  | .nvmeSqDoorbell q tail props host => Sys2Proof.Machine.execNvmeSqDoorbell q tail props host s
  | .nvmeCqDoorbell q head => Sys2Proof.Machine.execNvmeCqDoorbell q head s
  | .nvmeFlush c => Sys2Proof.Machine.execNvmeFlush c s
  | .nvmeWrite c => Sys2Proof.Machine.execNvmeWrite c s
  | .nvmeRead c => Sys2Proof.Machine.execNvmeRead c s
  | .nvmeWriteZeroes c => Sys2Proof.Machine.execNvmeWriteZeroes c s
  | .nvmeDatasetManagement c => Sys2Proof.Machine.execNvmeDatasetManagement c s
  | .nvmeVerify c => Sys2Proof.Machine.execNvmeVerify c s
  | .reservationRegister c => Sys2Proof.Machine.execReservationRegister c s
  | .reservationReport c => Sys2Proof.Machine.execReservationReport c s
  | .reservationAcquire c => Sys2Proof.Machine.execReservationAcquire c s
  | .reservationRelease c => Sys2Proof.Machine.execReservationRelease c s
  | .qDbSq p q host => Sys2Proof.Machine.execQDbSq p q host s
  | .qDbCq p q host => Sys2Proof.Machine.execQDbCq p q host s
  | .qDbPush p q n cq sq host => Sys2Proof.Machine.execQDbPush p q n cq sq host s
  | .qPollTimer q host => Sys2Proof.Machine.execQPollTimer q host s
  | .nativeNop q => Sys2Proof.Machine.execNativeNop q s
  | .nativeRead q => Sys2Proof.Machine.execNativeRead q s
  | .nativeWrite q => Sys2Proof.Machine.execNativeWrite q s
  | .nativeWriteZeroes q => Sys2Proof.Machine.execNativeWriteZeroes q s
  | .nativeDeallocate q => Sys2Proof.Machine.execNativeDeallocate q s
  | .nativeVerify q => Sys2Proof.Machine.execNativeVerify q s
  | .nativeFence q => Sys2Proof.Machine.execNativeFence q s
  | .nativeFenceDone q => Sys2Proof.Machine.execNativeFenceDone q s
  | .nativeFenceLimitExpiry q => Sys2Proof.Machine.execNativeFenceLimitExpiry q s
  | .nativeBand q => Sys2Proof.Machine.execNativeBand q s
  | .firmwareKindEntry q entry => Sys2Proof.Machine.execFirmwareKindEntry q entry s
  | .qCtlStop p q => Sys2Proof.Machine.execQCtlStop p q s
  | .qCtlResume p q => Sys2Proof.Machine.execQCtlResume p q s
  | .qCtlSkip p q => Sys2Proof.Machine.execQCtlSkip p q s
  | .qCreate m => Sys2Proof.Machine.execQCreate m s
  | .qDelete m => Sys2Proof.Machine.execQDelete m s
  | .qStop m => Sys2Proof.Machine.execQStop m s
  | .qResume m => Sys2Proof.Machine.execQResume m s
  | .qResumeSkip m => Sys2Proof.Machine.execQResumeSkip m s
  | .sluStats m => Sys2Proof.Machine.execSluStats m s
  | .sluHwmRst p => Sys2Proof.Machine.execSluHwmRst p s
  | .headgateAdmit => Sys2Proof.Machine.execHeadgateAdmit s
  | .sluiceRun k xferOk cellarUe => Sys2Proof.Machine.execSluiceRun k xferOk cellarUe s
  | .commandFinish k stopped xferOk cellarUe => Sys2Proof.Machine.execCommandFinish k stopped xferOk cellarUe s
  | .anaChangeTimeout k => Sys2Proof.Machine.execAnaChangeTimeout k s
  | .forwardedRequestReceived req body => Sys2Proof.Machine.execForwardedRequestReceived req body s
  | .forwardReplyReceived req status data => Sys2Proof.Machine.execForwardReplyReceived req status data s
  | .vatEntrySealed g seq => Sys2Proof.Machine.execVatEntrySealed g seq s
  | .vatMirrorEntryReceived g seq body released => Sys2Proof.Machine.execVatMirrorEntryReceived g seq body released s
  | .mirrorAckReceived g seq => Sys2Proof.Machine.execMirrorAckReceived g seq s
  | .chunkReductionStart src cached ue partnerHas => Sys2Proof.Machine.execChunkReductionStart src cached ue partnerHas s
  | .tentativeResolved id => Sys2Proof.Machine.execTentativeResolved id s
  | .indexPageReadDone id => Sys2Proof.Machine.execIndexPageReadDone id s
  | .chunkCoded id faulty => Sys2Proof.Machine.execChunkCoded id faulty s
  | .reductionRecordCommit id => Sys2Proof.Machine.execReductionRecordCommit id s
  | .deferredPassTimer => Sys2Proof.Machine.execDeferredPassTimer s
  | .deferredPassEntry => Sys2Proof.Machine.execDeferredPassEntry s
  | .redBacklogOnset => Sys2Proof.Machine.execRedBacklogOnset s
  | .redBacklogStepTimer => Sys2Proof.Machine.execRedBacklogStepTimer s
  | .redBacklogRelease => Sys2Proof.Machine.execRedBacklogRelease s
  | .redPolicySet m => Sys2Proof.Machine.execRedPolicySet m s
  | .redPolicyGet m => Sys2Proof.Machine.execRedPolicyGet m s
  | .redStats m => Sys2Proof.Machine.execRedStats m s
  | .redDedupScan m => Sys2Proof.Machine.execRedDedupScan m s
  | .redRecordRead m => Sys2Proof.Machine.execRedRecordRead m s
  | .redFltClr p => Sys2Proof.Machine.execRedFltClr p s
  | .volCreate m => Sys2Proof.Machine.execVolCreate m s
  | .volDelete m => Sys2Proof.Machine.execVolDelete m s
  | .volResize m => Sys2Proof.Machine.execVolResize m s
  | .volAccessAdd m => Sys2Proof.Machine.execVolAccessAdd m s
  | .volAccessRemove m => Sys2Proof.Machine.execVolAccessRemove m s
  | .volInfo m => Sys2Proof.Machine.execVolInfo m s
  | .volList m => Sys2Proof.Machine.execVolList m s
  | .snapTake m => Sys2Proof.Machine.execSnapTake m s
  | .snapDelete m => Sys2Proof.Machine.execSnapDelete m s
  | .snapRestore m => Sys2Proof.Machine.execSnapRestore m s
  | .snapClone m => Sys2Proof.Machine.execSnapClone m s
  | .snapList m => Sys2Proof.Machine.execSnapList m s
  | .brickSet m => Sys2Proof.Machine.execBrickSet m s
  | .peerSet m => Sys2Proof.Machine.execPeerSet m s
  | .peerRemove m => Sys2Proof.Machine.execPeerRemove m s
  | .canalOpen m => Sys2Proof.Machine.execCanalOpen m s
  | .canalClose m => Sys2Proof.Machine.execCanalClose m s
  | .canalSync m => Sys2Proof.Machine.execCanalSync m s
  | .canalPromote m => Sys2Proof.Machine.execCanalPromote m s
  | .canalStatus m => Sys2Proof.Machine.execCanalStatus m s
  | .drainStatus m => Sys2Proof.Machine.execDrainStatus m s
  | .volMapRead m => Sys2Proof.Machine.execVolMapRead m s
  | .snapDiff m => Sys2Proof.Machine.execSnapDiff m s
  | .canalTcpConnected k => Sys2Proof.Machine.execCanalTcpConnected k s
  | .canalConnectTimeout k => Sys2Proof.Machine.execCanalConnectTimeout k s
  | .canalSetupTimeout k => Sys2Proof.Machine.execCanalSetupTimeout k s
  | .canalFrameInvalid k type len tagOk => Sys2Proof.Machine.execCanalFrameInvalid k type len tagOk s
  | .canalConnectionLost k => Sys2Proof.Machine.execCanalConnectionLost k s
  | .canalHello k h => Sys2Proof.Machine.execCanalHello k h s
  | .canalWrite k seq off len data => Sys2Proof.Machine.execCanalWrite k seq off len data s
  | .canalWriteAck k seq status => Sys2Proof.Machine.execCanalWriteAck k seq status s
  | .canalDiffBegin k base new => Sys2Proof.Machine.execCanalDiffBegin k base new s
  | .canalFpList k entries => Sys2Proof.Machine.execCanalFpList k entries s
  | .canalFpNeed k bits => Sys2Proof.Machine.execCanalFpNeed k bits s
  | .canalRecord k chunk record => Sys2Proof.Machine.execCanalRecord k chunk record s
  | .canalSnapCommit k gen => Sys2Proof.Machine.execCanalSnapCommit k gen s
  | .canalCommitAck k gen status => Sys2Proof.Machine.execCanalCommitAck k gen status s
  | .canalRetarget k node => Sys2Proof.Machine.execCanalRetarget k node s
  | .canalSyncTmoExpiry k => Sys2Proof.Machine.execCanalSyncTmoExpiry k s
  | .canalRetryTimer => Sys2Proof.Machine.execCanalRetryTimer s
  | .canalReattestTimer k => Sys2Proof.Machine.execCanalReattestTimer k s
  | .canalPeriodTimer k => Sys2Proof.Machine.execCanalPeriodTimer k s
  | .drainCutoverTimeout g => Sys2Proof.Machine.execDrainCutoverTimeout g s
  | .channelTrainDone c ok dies bad => Sys2Proof.Machine.execChannelTrainDone c ok dies bad s
  | .flashProgramDone c d what ok => Sys2Proof.Machine.execFlashProgramDone c d what ok s
  | .flashEraseDone c d b ok => Sys2Proof.Machine.execFlashEraseDone c d b ok s
  | .flashReadDone g lfp step => Sys2Proof.Machine.execFlashReadDone g lfp step s
  | .dieBusyTimeout c d => Sys2Proof.Machine.execDieBusyTimeout c d s
  | .flashPatrolTimer weak => Sys2Proof.Machine.execFlashPatrolTimer weak s
  | .heatHalvingTimer => Sys2Proof.Machine.execHeatHalvingTimer s
  | .rackMoveStart g kind c band => Sys2Proof.Machine.execRackMoveStart g kind c band s
  | .rackSourceReadDone id bad => Sys2Proof.Machine.execRackSourceReadDone id bad s
  | .rackTargetVerified id ok => Sys2Proof.Machine.execRackTargetVerified id ok s
  | .rackSourceRelease id => Sys2Proof.Machine.execRackSourceRelease id s
  | .capacityAccountTimer => Sys2Proof.Machine.execCapacityAccountTimer s
  | .capacityAccountReceived cap stored unred => Sys2Proof.Machine.execCapacityAccountReceived cap stored unred s
  | .tierHealth m partner => Sys2Proof.Machine.execTierHealth m partner s
  | .rackPolicySet m => Sys2Proof.Machine.execRackPolicySet m s
  | .rackPolicyGet m => Sys2Proof.Machine.execRackPolicyGet m s
  | .rackStartGc m => Sys2Proof.Machine.execRackStartGc m s
  | .rackStartCooling m => Sys2Proof.Machine.execRackStartCooling m s
  | .rackStartCompaction m => Sys2Proof.Machine.execRackStartCompaction m s
  | .rackStartHoming m => Sys2Proof.Machine.execRackStartHoming m s
  | .rackStartPatrol m => Sys2Proof.Machine.execRackStartPatrol m s
  | .runInfo m => Sys2Proof.Machine.execRunInfo m s
  | .flDieRetire m => Sys2Proof.Machine.execFlDieRetire m s
  | .flPageRead m => Sys2Proof.Machine.execFlPageRead m s
  | .flTableLoad m => Sys2Proof.Machine.execFlTableLoad m s
  | .fpmCommit p => Sys2Proof.Machine.execFpmCommit p s
  | .tempSampleTimer mech => Sys2Proof.Machine.execTempSampleTimer mech s
  | .tempHistoryHourly => Sys2Proof.Machine.execTempHistoryHourly s
  | .eccFillCellar p => Sys2Proof.Machine.execEccFillCellar p s
  | .eccFillDram p => Sys2Proof.Machine.execEccFillDram p s
  | .eccFillDone upTo => Sys2Proof.Machine.execEccFillDone upTo s
  | .eccPatrolRead vat r => Sys2Proof.Machine.execEccPatrolRead vat r s
  | .eccCeWindowExpiry m => Sys2Proof.Machine.execEccCeWindowExpiry m s
  | .coreFetchUeTrap core off => Sys2Proof.Machine.execCoreFetchUeTrap core off s
  | .coreReloadDone core => Sys2Proof.Machine.execCoreReloadDone core s
  | .coreDataUeTrap core addr hasSource => Sys2Proof.Machine.execCoreDataUeTrap core addr hasSource s
  | .memStats m => Sys2Proof.Machine.execMemStats m s
  | .memRewrite m r => Sys2Proof.Machine.execMemRewrite m r s
  | .memRetire m => Sys2Proof.Machine.execMemRetire m s
  | .tcInvalidateAll p => Sys2Proof.Machine.execTcInvalidateAll p s
  | .tcInvalidateRange p lines => Sys2Proof.Machine.execTcInvalidateRange p lines s
  | .tcPreload p way lines => Sys2Proof.Machine.execTcPreload p way lines s
  | .tcMaintDone => Sys2Proof.Machine.execTcMaintDone s
  | .tcFillDone line prefetch badHit r before => Sys2Proof.Machine.execTcFillDone line prefetch badHit r before s
  | .dmaGo p n => Sys2Proof.Machine.execDmaGo p n s
  | .dmaStop p n => Sys2Proof.Machine.execDmaStop p n s
  | .dmaResume p n => Sys2Proof.Machine.execDmaResume p n s
  | .dmaDisable p n => Sys2Proof.Machine.execDmaDisable p n s
  | .dmaDescriptorDone n ue partnerOk host => Sys2Proof.Machine.execDmaDescriptorDone n ue partnerOk host s
  | .dmaCommit p => Sys2Proof.Machine.execDmaCommit p s
  | .faultLogSecondTimer => Sys2Proof.Machine.execFaultLogSecondTimer s
  | .supWdtKick p => Sys2Proof.Machine.execSupWdtKick p s
  | .supWdtExpiry => Sys2Proof.Machine.execSupWdtExpiry s
  | .supCommit p => Sys2Proof.Machine.execSupCommit p s
  | .fltReadGroups m => Sys2Proof.Machine.execFltReadGroups m s
  | .fltReadBootRecord m => Sys2Proof.Machine.execFltReadBootRecord m s
  | .fltClear m => Sys2Proof.Machine.execFltClear m s
  | .fltLogRead m => Sys2Proof.Machine.execFltLogRead m s
  | .fabLinkChange q up => Sys2Proof.Machine.execFabLinkChange q up s
  | .tempSensorRead t0 t1 t2 t3 => Sys2Proof.Machine.execTempSensorRead t0 t1 t2 t3 s
  | .tjOver105Timeout => Sys2Proof.Machine.execTjOver105Timeout s
  | .tjOver115Timeout => Sys2Proof.Machine.execTjOver115Timeout s
  | .tjDiskWaitTimeout k => Sys2Proof.Machine.execTjDiskWaitTimeout k s
  | .tjRecoveryTimeout => Sys2Proof.Machine.execTjRecoveryTimeout s
  | .coarseCalibrationDone => Sys2Proof.Machine.execCoarseCalibrationDone s
  | .spdmResponseReceived k ok meas svnSup svnCtl protoMin protoMax => Sys2Proof.Machine.execSpdmResponseReceived k ok meas svnSup svnCtl protoMin protoMax s
  | .pcieLinkChange up => Sys2Proof.Machine.execPcieLinkChange up s
  | .tsOutSecondsRollover => Sys2Proof.Machine.execTsOutSecondsRollover s
  | .registerRead p ok a two => Sys2Proof.Machine.execRegisterRead p ok a two s
  | .nvmeMiRequest kind => Sys2Proof.Machine.execNvmeMiRequest kind s
  | .aggregationTimeExpiry q => Sys2Proof.Machine.execAggregationTimeExpiry q s
  | .drainOfferReply peer vol handle => Sys2Proof.Machine.execDrainOfferReply peer vol handle s

end Sys2Proof.Machine
end

