-- ==== Sys2Proof/Machine/Parts.lean ====
section
/-! DEFINITION. The parts of the state that a frame statement names, what it means that a part is the same in two states,
and the units that the device has: the lists of per-unit records keep their lengths. -/

namespace Sys2Proof.Machine

/-- The parts of State: its fields, with the nonvolatile record split into its own. -/
inductive Part where
  | now | regs | mem | bad | free | pwr | bring | flt | mbx | fences | snaps | grants
  | pair | pins | pcie | desc | journal | clk | pa | head | pool | fs | memc | fl
  | tier | red | volu | host | spdm | boot | mot | therm | outbox | pending | nvAutoStart | nvStartFallow
  | nvFabProfile | nvBrickId | nvExpertRoots | nvAccepted | nvSup | nvCtl | nvTokens | nvRetired | nvFaultLog | nvLogNext | nvPf | nvLastGood
  | nvSvnMinSup | nvSvnMinCtl
deriving DecidableEq, Repr

/-- A part of the state is the same in two states. -/
def Same : Part → State → State → Prop
  | .now, s, t => s.now = t.now
  | .regs, s, t => s.regs = t.regs
  | .mem, s, t => s.mem = t.mem
  | .bad, s, t => s.bad = t.bad
  | .free, s, t => s.free = t.free
  | .pwr, s, t => s.pwr = t.pwr
  | .bring, s, t => s.bring = t.bring
  | .flt, s, t => s.flt = t.flt
  | .mbx, s, t => s.mbx = t.mbx
  | .fences, s, t => s.fences = t.fences
  | .snaps, s, t => s.snaps = t.snaps
  | .grants, s, t => s.grants = t.grants
  | .pair, s, t => s.pair = t.pair
  | .pins, s, t => s.pins = t.pins
  | .pcie, s, t => s.pcie = t.pcie
  | .desc, s, t => s.desc = t.desc
  | .journal, s, t => s.journal = t.journal
  | .clk, s, t => s.clk = t.clk
  | .pa, s, t => s.pa = t.pa
  | .head, s, t => s.head = t.head
  | .pool, s, t => s.pool = t.pool
  | .fs, s, t => s.fs = t.fs
  | .memc, s, t => s.memc = t.memc
  | .fl, s, t => s.fl = t.fl
  | .tier, s, t => s.tier = t.tier
  | .red, s, t => s.red = t.red
  | .volu, s, t => s.volu = t.volu
  | .host, s, t => s.host = t.host
  | .spdm, s, t => s.spdm = t.spdm
  | .boot, s, t => s.boot = t.boot
  | .mot, s, t => s.mot = t.mot
  | .therm, s, t => s.therm = t.therm
  | .outbox, s, t => s.outbox = t.outbox
  | .pending, s, t => s.pending = t.pending
  | .nvAutoStart, s, t => s.nv.autoStart = t.nv.autoStart
  | .nvStartFallow, s, t => s.nv.startFallow = t.nv.startFallow
  | .nvFabProfile, s, t => s.nv.fabProfile = t.nv.fabProfile
  | .nvBrickId, s, t => s.nv.brickId = t.nv.brickId
  | .nvExpertRoots, s, t => s.nv.expertRoots = t.nv.expertRoots
  | .nvAccepted, s, t => s.nv.accepted = t.nv.accepted
  | .nvSup, s, t => s.nv.sup = t.nv.sup
  | .nvCtl, s, t => s.nv.ctl = t.nv.ctl
  | .nvTokens, s, t => s.nv.tokens = t.nv.tokens
  | .nvRetired, s, t => s.nv.retired = t.nv.retired
  | .nvFaultLog, s, t => s.nv.faultLog = t.nv.faultLog
  | .nvLogNext, s, t => s.nv.logNext = t.nv.logNext
  | .nvPf, s, t => s.nv.pf = t.nv.pf
  | .nvLastGood, s, t => s.nv.lastGood = t.nv.lastGood
  | .nvSvnMinSup, s, t => s.nv.svnMinSup = t.nv.svnMinSup
  | .nvSvnMinCtl, s, t => s.nv.svnMinCtl = t.nv.svnMinCtl

/-- Every part outside `w` is the same in two states. -/
def Outside (w : List Part) (s t : State) : Prop := ∀ c, w.contains c = false → Same c s t

/-- The register file is in its canonical form. -/
def RegsWf (s : State) : Prop := smWf resetWord s.regs = true

/-- Memory is in its canonical form. -/
def MemWf (s : State) : Prop := Memory.wf s.mem = true

/-- The motion engine has its units. -/
def MotSt.units (m : MotSt) : Prop := m.vcm.length = 4 ∧ m.fan.length = 4 ∧ m.maSwap.length = 4

/-- The device has the units the spec gives it: 16 mailboxes (R149), 16 preamplifier links and 144 heads (R9), four
sequencers, four actuators and four air movers (R268), 256 native queues (R310), 13 islands (R110). -/
def Units (s : State) : Prop :=
  s.mbx.length = 16 ∧ s.pa.length = 16 ∧ s.head.length = 144 ∧ s.fs.length = 4 ∧ s.host.natq.length = 256 ∧
    s.clk.applied.length = 13 ∧ s.clk.progress.length = 13 ∧ s.mot.units

/-- The fault log holds at most 4,096 entries (R481). -/
def LogBound (s : State) : Prop := s.nv.faultLog.length ≤ 4096

end Sys2Proof.Machine
end

