-- ==== Sys2Proof/Machine/Touches.lean ====
section
/-! DEFINITION. Which parts of the state each command may change: every part outside its list is the same before and after it. -/

namespace Sys2Proof.Machine

/-- What raising a fault may change (R474 to R491): the fault groups and the fault log, its messages, and by a device-scope reaction
the modes, the outputs, the seals, the commands that wait and the grants. -/
def faultParts : List Part :=
  [.regs, .pwr, .bring, .flt, .mbx, .grants, .pins, .pcie, .journal, .clk, .fs, .mot, .outbox, .nvFaultLog, .nvLogNext]

/-- The parts of the state that a command may change. -/
def touches : Instr → List Part
  | .resetNAssert => [.now, .regs, .mem, .bad, .pwr, .bring, .flt, .mbx, .fences, .snaps, .grants, .pair, .pins, .pcie, .desc, .clk, .pa, .head, .pool, .fs, .memc, .fl, .tier, .red, .volu, .host, .spdm, .boot, .mot, .therm]
  | .resetNDeassert _ _ _ _ _ _ => [.now, .regs, .pwr, .clk]
  | .vsysPowerOnRelease => [.now, .regs, .pwr, .clk]
  | .vsysBelowRated _ _ => [.regs]
  | .vsysPowerFail _ => faultParts ++ [.mem, .bad, .free, .fences, .pair, .pa, .head, .pool, .memc, .fl, .tier, .red, .volu, .host, .spdm, .nvPf]
  | .holdupEnd => [.now, .regs, .mem, .bad, .pwr, .bring, .flt, .mbx, .fences, .snaps, .grants, .pair, .pins, .pcie, .desc, .clk, .pa, .head, .pool, .fs, .memc, .fl, .tier, .red, .volu, .host, .spdm, .boot, .mot, .therm, .nvPf]
  | .vsysOvervoltage _ => faultParts
  | .vmotStartPermitted _ => [.regs, .pwr, .bring, .mot]
  | .vmotUndervoltage _ => faultParts ++ [.mem, .bad, .free, .pair, .pa, .head, .memc, .fl, .tier, .host]
  | .vmotOvervoltage _ => [.regs, .pwr, .flt, .pins, .pcie, .clk, .fs, .mot, .outbox, .nvFaultLog, .nvLogNext]
  | .vmotOvFallowTimeout => faultParts ++ [.mem, .bad, .free, .pair, .memc, .fl, .tier, .host]
  | .vmotOvReturn _ => [.regs]
  | .pwrDomReqWrite _ _ _ => faultParts ++ [.mem, .bad, .free, .fences, .pair, .pa, .head, .pool, .memc, .fl, .tier, .red, .volu, .host, .spdm]
  | .domainDrainDone _ => faultParts ++ [.mem, .bad, .free, .fences, .pair, .pa, .head, .pool, .memc, .fl, .tier, .red, .volu, .host, .spdm]
  | .pwrDrainLimitExpiry _ => faultParts ++ [.mem, .bad, .free, .fences, .pair, .pa, .head, .pool, .memc, .fl, .tier, .red, .volu, .host, .spdm]
  | .domainPowerUpDone _ _ => faultParts ++ [.mem, .bad, .free, .pair, .pa, .head, .memc, .fl, .tier, .host]
  | .modeSetBringup _ => [.regs, .mbx, .boot]
  | .modeSetSolo _ => faultParts ++ [.pair, .tier]
  | .modeSetFallow _ _ => [.regs, .pwr, .mbx, .pair, .outbox]
  | .modeSetWake _ _ => [.regs, .pwr, .mbx, .pair, .mot, .outbox]
  | .modeSetDrain _ _ => faultParts ++ [.mem, .pair, .volu, .host]
  | .modeSetDrainCancel _ _ => faultParts ++ [.mem, .pair, .volu, .host]
  | .modeSetDormant _ => faultParts ++ [.mem, .bad, .free, .fences, .pair, .pa, .head, .pool, .memc, .fl, .tier, .red, .volu, .host, .spdm]
  | .pairModeRequestReceived _ _ => faultParts ++ [.mem, .pair, .volu, .host]
  | .safeRelease _ => faultParts ++ [.mem, .bad, .free, .fences, .pair, .pa, .head, .pool, .memc, .fl, .tier, .red, .volu, .host, .spdm]
  | .soloStartWaitExpiry => faultParts ++ [.pair, .tier]
  | .idleFallowExpiry => [.regs, .pwr, .pair, .outbox]
  | .fallowEntryDone => faultParts ++ [.mem, .bad, .free, .fences, .pair, .pa, .head, .pool, .memc, .fl, .tier, .red, .volu, .host, .spdm]
  | .wakeDiskReadsAdmitted _ => faultParts ++ [.mem, .free, .pair, .head, .host, .boot, .nvSup, .nvCtl, .nvLastGood]
  | .wakeCalibrationDone => [.regs, .pwr, .pair, .head, .tier, .outbox]
  | .drainEvacuationComplete => faultParts ++ [.mem, .bad, .free, .fences, .pair, .pa, .head, .pool, .memc, .fl, .tier, .red, .volu, .host, .spdm]
  | .bootSupervisorVerified => faultParts ++ [.boot, .nvSup, .nvCtl]
  | .bootDormantEntered => [.regs, .boot]
  | .bootControlVerified => faultParts ++ [.mem, .bad, .free, .fences, .pair, .pa, .head, .pool, .memc, .fl, .tier, .red, .volu, .host, .spdm, .boot, .nvSup, .nvCtl]
  | .bootPatchesVerified => faultParts ++ [.mem, .pair, .host, .boot]
  | .dramTrainingDone _ _ _ _ => faultParts ++ [.memc]
  | .descriptorReadDone _ => faultParts ++ [.pair, .desc]
  | .descriptorCheckReceived _ _ => faultParts ++ [.pair]
  | .nalTrainDone _ _ _ _ => faultParts ++ [.mem, .pair, .tier, .volu, .host, .spdm, .nvTokens]
  | .fenceTestPulseEnd => [.pair, .outbox]
  | .fenceTestReportReceived _ _ _ => faultParts ++ [.pair]
  | .fenceTestReportTimeout => faultParts ++ [.pair]
  | .partnerAttestationResult _ _ => faultParts ++ [.pair]
  | .partnerAttestationTimeout => faultParts ++ [.pair, .spdm]
  | .vatReplayDone => faultParts ++ [.mem, .pair, .tier, .volu, .host]
  | .mapsLoaded _ _ _ _ => [.regs, .mem, .bad, .free, .bring, .flt, .pcie, .memc, .tier, .outbox, .nvFaultLog, .nvLogNext]
  | .fullCalibrationDone => [.regs, .bring, .pair, .head, .tier, .outbox]
  | .partnerStepReport _ _ => [.regs, .pwr, .bring, .mbx, .pair, .outbox]
  | .bringupComplete => faultParts ++ [.mem, .free, .pair, .host, .boot, .nvSup, .nvCtl, .nvLastGood]
  | .hbFrameTimer => [.pair, .outbox]
  | .hbFrameReceived _ => faultParts ++ [.mem, .pair, .tier, .host]
  | .hbLossTimeout => faultParts ++ [.pair, .tier]
  | .nalHbMessageReceived _ => faultParts ++ [.mem, .pair, .tier, .host]
  | .fenceInAssert _ => faultParts ++ [.pair]
  | .nalPingReceived => faultParts ++ [.free, .pair]
  | .pingReplyReceived => faultParts ++ [.free, .pair]
  | .takeoverPingTimeout => faultParts ++ [.pair, .tier]
  | .takeoverFenceHoldoffExpiry => faultParts ++ [.pair]
  | .takeoverArbitrationEnd => faultParts ++ [.mem, .bad, .free, .pair, .pa, .memc, .fl, .tier, .host, .boot, .nvTokens, .nvLastGood]
  | .takeoverChannelsAcquired _ _ _ => [.regs, .mem, .pair, .tier]
  | .actuatorCatchDone _ => [.regs, .pair]
  | .actuatorCatchTimeout _ => faultParts ++ [.pair]
  | .takeoverReplayDone _ => faultParts ++ [.mem, .pair, .tier, .red, .volu, .host]
  | .tokenReleaseStart _ => faultParts ++ [.mem, .pair, .pa, .host, .nvTokens]
  | .tokenReleaseReceived _ _ _ => faultParts ++ [.mem, .bad, .free, .fences, .pair, .pa, .head, .pool, .memc, .fl, .tier, .red, .volu, .host, .spdm, .boot, .nvTokens, .nvLastGood]
  | .takeAckReceived _ _ => faultParts ++ [.now, .mem, .bad, .free, .fences, .snaps, .pair, .desc, .pa, .head, .pool, .memc, .fl, .tier, .red, .volu, .host, .spdm, .boot, .therm, .nvTokens, .nvLastGood]
  | .refuseReceived _ _ => faultParts ++ [.mem, .pair, .pa, .host, .nvTokens]
  | .tokenQueryTimer _ => [.pair, .outbox]
  | .tokenQueryReceived _ _ => faultParts ++ [.mem, .bad, .free, .fences, .pair, .pa, .head, .pool, .memc, .fl, .tier, .red, .volu, .host, .spdm, .nvTokens]
  | .speedLoopSample => [.regs, .free, .mbx, .pair, .mot, .outbox]
  | .torqueReceived _ _ => [.regs, .pair, .mot, .outbox]
  | .handover _ => faultParts ++ [.mem, .pair, .host]
  | .handoverDrainDone => [.pair]
  | .coilBlendStart _ => [.pair]
  | .vcmCurrentCmdReceived _ _ _ => [.regs, .pair, .mot]
  | .coilBlendRampEnd _ => faultParts ++ [.mem, .pair, .pa, .host, .nvTokens]
  | .backupBridgeTimeout _ => [.regs, .pair]
  | .nalFlitReceived _ _ _ => [.regs, .flt, .pair, .pcie, .head, .outbox, .nvFaultLog, .nvLogNext]
  | .nalAckTimeout => faultParts ++ [.mem, .pair, .tier, .volu, .host]
  | .nalLaneFail _ => faultParts ++ [.mem, .pair, .tier, .volu, .host]
  | .nalRetrainTimer => [.outbox]
  | .perstAssert => faultParts ++ [.mem, .bad, .free, .fences, .memc, .host]
  | .perstDeassert => [.pcie]
  | .pcieFlr => faultParts ++ [.mem, .bad, .free, .fences, .memc, .host]
  | .ccEnClear => faultParts ++ [.mem, .bad, .free, .fences, .memc, .host]
  | .msixUnmask _ _ _ => [.pcie, .outbox]
  | .governorRun _ _ _ _ _ _ => [.regs, .clk]
  | .preampReadmitTimer _ => [.regs, .clk]
  | .sampleBufferOverrun _ _ => faultParts ++ [.head, .tier]
  | .clkPllCfgWrite _ _ _ => [.regs, .clk, .outbox]
  | .pllLock _ => [.regs, .outbox]
  | .clkGateReqSet _ _ _ => [.regs, .mbx, .clk, .outbox]
  | .clkGateReqClear _ _ => [.regs, .free, .snaps, .clk, .outbox]
  | .clkGateIdle _ => [.regs, .mbx, .clk, .outbox]
  | .clkGateForce _ _ _ => [.regs, .mbx, .clk, .outbox]
  | .clkSafeRelease _ _ => [.regs, .flt, .pins, .clk, .pa, .outbox]
  | .clkPaceLowRst _ => [.regs, .clk, .outbox]
  | .clkSscWrite _ _ _ => [.regs, .clk, .outbox]
  | .refEdgeTimeout _ => faultParts ++ [.mem, .free, .pair, .tier, .volu, .host]
  | .refFreqMismatch _ _ _ _ => faultParts ++ [.mem, .free, .pair, .tier, .volu, .host]
  | .refReturn _ => [.regs]
  | .refGood100ms _ => [.regs, .pins, .pa, .mot, .outbox]
  | .sysRefclkLoss10ms => faultParts ++ [.mem, .pair, .tier, .volu, .host]
  | .fabRefclkLoss1s => [.pair]
  | .tsInPulse => [.now, .free, .clk]
  | .clkGate _ _ => [.regs, .mbx, .clk, .outbox]
  | .clkUngate _ => [.regs, .free, .mbx, .snaps, .clk, .outbox]
  | .clkGateLimitExpiry _ _ => [.regs, .free, .mbx, .snaps, .clk, .outbox]
  | .clkRelease _ => [.regs, .mbx, .pins, .pa, .outbox]
  | .clkStatus _ => [.mbx]
  | .fwStage _ => [.now, .regs, .mem, .bad, .pwr, .bring, .flt, .mbx, .fences, .snaps, .grants, .pair, .pins, .pcie, .desc, .clk, .pa, .head, .pool, .fs, .memc, .fl, .tier, .red, .volu, .host, .spdm, .boot, .mot, .therm, .outbox, .nvSup, .nvCtl]
  | .fwStageIdleTimeout _ => [.regs, .boot, .nvSup, .nvCtl]
  | .fwActivate _ _ => [.regs, .mbx, .nvSup, .nvCtl]
  | .fwConfirm _ => [.regs, .mbx, .nvSup, .nvCtl]
  | .fwAcceptAdd _ => [.regs, .mbx, .nvAccepted]
  | .fwAcceptRemove _ => [.regs, .mbx, .nvAccepted]
  | .fwCommitSvn _ _ => [.regs, .mbx, .nvSup, .nvCtl, .nvSvnMinSup, .nvSvnMinCtl]
  | .spdmGetVersion _ _ => [.spdm, .outbox]
  | .spdmGetCapabilities _ _ _ _ => [.spdm, .outbox]
  | .spdmNegotiateAlgorithms _ _ _ _ _ _ => [.spdm, .outbox]
  | .spdmGetDigests _ _ => [.spdm, .outbox]
  | .spdmGetCertificate _ _ _ _ _ => [.spdm, .outbox]
  | .spdmChallenge _ _ _ _ => [.free, .spdm, .outbox]
  | .spdmGetMeasurements _ _ _ _ => [.free, .spdm, .outbox]
  | .spdmKeyExchange _ _ _ => faultParts ++ [.spdm]
  | .spdmFinish _ _ _ _ _ _ => [.free, .mbx, .grants, .volu, .host, .spdm, .outbox]
  | .spdmHeartbeat _ _ _ => [.spdm, .outbox]
  | .spdmKeyUpdate _ _ _ _ _ => [.spdm, .outbox]
  | .spdmEndSession _ _ _ => [.mbx, .grants, .volu, .host, .spdm, .outbox]
  | .spdmChunkSend _ _ _ _ _ => [.spdm, .outbox]
  | .spdmChunkGet _ _ _ => [.spdm, .outbox]
  | .spdmUnsupportedRequest _ _ _ => [.outbox]
  | .spdmHeartbeatLapse _ => [.mbx, .grants, .volu, .host, .spdm, .outbox]
  | .mbxMessageArrival _ _ => [.regs, .mbx, .fences, .pair, .host, .outbox]
  | .mbxDoorbell _ _ => [.regs, .mbx, .fences, .clk, .host, .outbox]
  | .mbxRelease _ _ => faultParts ++ [.mem, .host]
  | .mbxReset _ _ => faultParts ++ [.mem, .bad, .free, .fences, .memc, .host]
  | .mbxHandlerTake _ _ _ => [.regs, .mem, .bad, .free, .flt, .mbx, .fences, .pcie, .memc, .host, .outbox, .nvFaultLog, .nvLogNext]
  | .mbxComplete _ _ => faultParts ++ [.mem, .bad, .free, .fences, .pair, .memc, .host]
  | .mailboxSend _ => faultParts ++ [.mem, .fences, .host]
  | .mailboxReceive _ => faultParts ++ [.mem, .host]
  | .nop _ => [.mbx]
  | .identify _ => [.mbx]
  | .fence _ => [.mbx]
  | .fenceConditionsMet _ => [.regs, .mem, .bad, .free, .flt, .mbx, .fences, .pcie, .memc, .host, .outbox, .nvFaultLog, .nvLogNext]
  | .fenceLimitExpiry _ => [.regs, .mem, .bad, .free, .flt, .mbx, .fences, .pcie, .memc, .host, .outbox, .nvFaultLog, .nvLogNext]
  | .expertEnable _ => [.mbx, .grants]
  | .expertDisable _ => [.mbx, .grants]
  | .expertRootAdd _ => [.regs, .mbx, .nvExpertRoots]
  | .expertRootRemove _ => [.regs, .mbx, .nvExpertRoots]
  | .regRead _ => [.regs, .free, .mbx, .snaps]
  | .regWrite _ _ => faultParts ++ [.mem, .bad, .free, .fences, .snaps, .pair, .pa, .head, .pool, .memc, .fl, .tier, .red, .volu, .host, .spdm]
  | .violRead _ => [.mbx]
  | .registerWrite _ _ _ _ _ _ => faultParts ++ [.mem, .bad, .free, .fences, .snaps, .pair, .pa, .head, .pool, .memc, .fl, .tier, .red, .volu, .host, .spdm]
  | .counterLoRead _ _ => [.regs, .free, .snaps, .clk, .outbox]
  | .counterSatClear _ _ => faultParts ++ [.mem, .bad, .free, .fences, .snaps, .pair, .pa, .head, .pool, .memc, .fl, .tier, .red, .volu, .host, .spdm]
  | .paReplyReceived _ _ => faultParts ++ [.pa]
  | .paFltAssert _ => [.regs, .flt, .pins, .pcie, .clk, .pa, .fs, .outbox, .nvFaultLog, .nvLogNext]
  | .paClaimRetryTimer _ => [.pa, .outbox]
  | .hcPaRawTxWrite _ _ _ => [.regs, .clk, .pa, .outbox]
  | .sectorFramed _ _ _ => faultParts ++ [.pa, .head, .tier]
  | .taStart _ _ _ _ => [.regs, .head, .tier]
  | .taEnd _ _ _ _ => [.head]
  | .sectorEnd _ _ _ => faultParts ++ [.head, .pool, .tier]
  | .decoderTake _ => [.regs, .pool]
  | .codewordDecodeDone _ => [.regs, .mem, .bad, .free, .flt, .pcie, .pa, .head, .pool, .fs, .memc, .tier, .outbox, .nvFaultLog, .nvLogNext]
  | .retryStoreRedecode _ => [.regs, .pool]
  | .ladderStep _ _ _ _ _ => faultParts ++ [.mem, .bad, .free, .pa, .head, .pool, .memc, .tier]
  | .ladderAbandon _ => faultParts ++ [.mem, .pa, .head, .pool, .tier]
  | .writeUnsafe _ => [.regs, .flt, .pins, .pcie, .clk, .fs, .outbox, .nvFaultLog, .nvLogNext]
  | .heaterLeadExpiry _ => [.head]
  | .heaterCalStep _ _ _ _ => [.regs, .mbx, .pair, .pa, .head, .outbox]
  | .hcCalibrate _ _ => [.regs, .mbx, .pair, .head, .outbox]
  | .hcService _ => [.regs, .flt, .mbx]
  | .hcStats _ => [.mbx]
  | .hcCommit _ _ => [.regs, .clk, .outbox]
  | .wedgeSample _ _ => faultParts ++ [.free, .head]
  | .fsZtCommit _ _ => faultParts ++ [.tier]
  | .zoneMemoryWrite _ _ _ _ => [.regs, .mem, .clk, .outbox]
  | .fsWordComplete _ _ _ _ _ _ => faultParts ++ [.mem, .bad, .free, .pair, .pa, .head, .memc, .fl, .tier, .host]
  | .fsWordTimeout _ _ _ => faultParts ++ [.mem, .bad, .free, .pair, .pa, .head, .memc, .fl, .tier, .host]
  | .fsMchkReloadDone _ => faultParts ++ [.mem, .bad, .free, .pair, .pa, .head, .memc, .fl, .tier, .host]
  | .fsActNop _ => [.fs]
  | .fsActAlu _ => [.free, .fs]
  | .fsActAlui _ => [.free, .fs]
  | .fsActRdreg _ => faultParts ++ [.mem, .bad, .free, .snaps, .pair, .pa, .head, .memc, .fl, .tier, .host]
  | .fsActWrreg _ _ => faultParts ++ [.mem, .bad, .free, .fences, .snaps, .pair, .pa, .head, .pool, .memc, .fl, .tier, .red, .volu, .host, .spdm]
  | .fsActZload _ => [.regs, .clk, .pa, .fs, .outbox]
  | .fsActPacmd _ => [.pa, .fs, .outbox]
  | .fsActArm _ _ => [.regs, .pa, .head, .fs, .outbox]
  | .fsActGate _ => [.regs, .flt, .pins, .pcie, .clk, .fs, .outbox, .nvFaultLog, .nvLogNext]
  | .fsActPost _ => faultParts ++ [.mem, .bad, .free, .pair, .pa, .head, .memc, .fl, .tier, .host]
  | .fsActFetch _ => faultParts ++ [.mem, .bad, .free, .pair, .memc, .fl, .tier, .host]
  | .fsActSeek _ => [.regs, .head, .fs, .mot]
  | .fsActHalt _ => [.regs, .fs]
  | .fsResume _ _ => faultParts ++ [.mem, .bad, .free, .pair, .pa, .head, .memc, .fl, .tier, .host]
  | .fsHalt _ _ => [.regs, .clk, .fs, .outbox]
  | .fsTrcFreezeWrite _ _ _ => [.regs, .clk, .outbox]
  | .fsTrcDataRead _ _ => [.regs, .free, .snaps, .clk, .outbox]
  | .fsZoneLoad _ => faultParts ++ [.mem, .tier]
  | .fsTraceRead _ => [.free, .mbx]
  | .srvStats _ => [.mbx]
  | .carrierPeriod _ => faultParts
  | .encoderReadmit => [.regs, .mot]
  | .vcmLoopSample _ _ _ _ _ => faultParts ++ [.free, .pair]
  | .cleOutputLate _ _ => faultParts ++ [.pair, .head]
  | .cleSwapReq _ _ => [.regs, .clk, .mot, .outbox]
  | .cleCommit _ => [.regs, .clk, .outbox]
  | .allHeadsLostTimeout _ => faultParts
  | .motSpindleStart _ => [.regs, .mbx, .mot]
  | .motSpindleStop _ => [.regs, .mbx, .mot]
  | .motSpindleCoast _ => [.regs, .mbx, .mot]
  | .spnCoast _ => [.regs, .clk, .mot, .outbox]
  | .spindleMeasureDone _ _ => faultParts ++ [.pair]
  | .dcBrakeEnd _ => [.regs, .mbx, .pair, .mot]
  | .alignmentEnd => [.regs, .pair, .mot]
  | .observerHandover _ => [.regs]
  | .spindleAtSpeed _ => [.regs, .bring, .mot]
  | .spinupTimeout => faultParts ++ [.mem, .bad, .free, .pair, .memc, .fl, .tier, .host]
  | .startRetryTimer => [.regs, .mot]
  | .shortBrakeEntry _ => [.regs, .mot]
  | .spindleStopped => faultParts ++ [.mem, .bad, .free, .fences, .pair, .pa, .head, .pool, .memc, .fl, .tier, .red, .volu, .host, .spdm]
  | .lowSpeedUnload _ => [.regs]
  | .motHeadsLoad _ => [.regs, .flt, .mbx, .mot]
  | .motHeadsUnload _ => [.regs, .mbx]
  | .headLoadDone _ _ => [.regs, .mbx, .pair, .pa, .outbox]
  | .headUnloadDone _ => faultParts ++ [.mem, .bad, .free, .fences, .pair, .pa, .head, .pool, .memc, .fl, .tier, .red, .volu, .host, .spdm]
  | .vcmRetractWrite _ _ => [.regs, .clk, .outbox]
  | .retractRampDetected _ => [.mot]
  | .retractLatchDone _ => faultParts ++ [.mem, .bad, .free, .fences, .pair, .pa, .head, .pool, .memc, .fl, .tier, .red, .volu, .host, .spdm]
  | .retractTimeout _ => faultParts ++ [.mem, .bad, .free, .fences, .pair, .pa, .head, .pool, .memc, .fl, .tier, .red, .volu, .host, .spdm]
  | .fanHallEdge _ _ => [.regs, .mot]
  | .fanStallTimeout _ => [.regs, .mot]
  | .fanOvercurrent _ _ => [.regs, .mot]
  | .fanSpeedLoopTick _ _ => [.regs]
  | .fanDcBrakeEnd _ => [.regs, .mbx]
  | .fanStartRetryTimer _ _ => faultParts
  | .motFan _ _ => [.regs, .mbx, .mot]
  | .motStatus _ => [.mbx]
  | .motTableLoad _ => [.regs, .mbx, .mot]
  | .bridgeThermalFoldback _ => faultParts
  | .createIoSq _ => faultParts ++ [.mem, .host]
  | .createIoCq _ => faultParts ++ [.mem, .host]
  | .deleteIoSq _ => faultParts ++ [.mem, .host]
  | .deleteIoCq _ => faultParts ++ [.mem, .host]
  | .getLogPage _ => faultParts ++ [.mem, .host]
  | .nvmeIdentify _ => faultParts ++ [.mem, .host]
  | .nvmeAbort _ => faultParts ++ [.mem, .host]
  | .setFeatures _ => faultParts ++ [.mem, .pair, .tier, .volu, .host]
  | .getFeatures _ => faultParts ++ [.mem, .host]
  | .asyncEventRequest _ => faultParts ++ [.mem, .host]
  | .keepAlive _ => faultParts ++ [.mem, .host]
  | .keepAliveExpiry _ => faultParts ++ [.mem, .bad, .free, .fences, .memc, .host]
  | .fabricsConnect _ _ _ _ _ _ _ => [.regs, .host, .outbox]
  | .fabricsPropertyGet _ _ _ => faultParts ++ [.mem, .host]
  | .fabricsPropertySet _ _ _ _ => faultParts ++ [.mem, .bad, .free, .fences, .memc, .host]
  | .fabricsDisconnect _ _ => faultParts ++ [.mem, .bad, .free, .fences, .memc, .host]
  | .unsupportedNvmeOpcode _ _ => faultParts ++ [.mem, .host]
  | .nvmeSqDoorbell _ _ _ _ => faultParts ++ [.mem, .bad, .free, .fences, .memc, .host]
  | .nvmeCqDoorbell _ _ => faultParts ++ [.mem, .bad, .free, .memc, .host]
  | .nvmeFlush _ => faultParts ++ [.mem, .host]
  | .nvmeWrite _ => faultParts ++ [.mem, .host]
  | .nvmeRead _ => faultParts ++ [.mem, .host]
  | .nvmeWriteZeroes _ => faultParts ++ [.mem, .host]
  | .nvmeDatasetManagement _ => faultParts ++ [.mem, .host]
  | .nvmeVerify _ => faultParts ++ [.mem, .host]
  | .reservationRegister _ => faultParts ++ [.mem, .host]
  | .reservationReport _ => faultParts ++ [.mem, .host]
  | .reservationAcquire _ => faultParts ++ [.mem, .host]
  | .reservationRelease _ => faultParts ++ [.mem, .host]
  | .qDbSq _ _ _ => [.regs, .mem, .bad, .free, .flt, .pcie, .clk, .memc, .host, .outbox, .nvFaultLog, .nvLogNext]
  | .qDbCq _ _ _ => [.regs, .mem, .bad, .free, .flt, .mbx, .pcie, .clk, .memc, .host, .outbox, .nvFaultLog, .nvLogNext]
  | .qDbPush _ _ _ _ _ _ => [.regs, .mem, .bad, .free, .flt, .mbx, .pcie, .clk, .memc, .host, .outbox, .nvFaultLog, .nvLogNext]
  | .qPollTimer _ _ => [.regs, .mem, .bad, .free, .flt, .pcie, .memc, .host, .outbox, .nvFaultLog, .nvLogNext]
  | .nativeNop _ => faultParts ++ [.mem, .bad, .free, .memc, .host]
  | .nativeRead _ => [.regs, .host]
  | .nativeWrite _ => [.regs, .host]
  | .nativeWriteZeroes _ => [.regs, .host]
  | .nativeDeallocate _ => [.regs, .host]
  | .nativeVerify _ => [.regs, .host]
  | .nativeFence _ => [.regs, .mem, .bad, .free, .flt, .pcie, .memc, .host, .outbox, .nvFaultLog, .nvLogNext]
  | .nativeFenceDone _ => faultParts ++ [.mem, .bad, .free, .memc, .host]
  | .nativeFenceLimitExpiry _ => faultParts ++ [.mem, .bad, .free, .memc, .host]
  | .nativeBand _ => faultParts ++ [.mem, .pair, .tier, .red, .volu, .host]
  | .firmwareKindEntry _ _ => [.regs, .host]
  | .qCtlStop _ _ => faultParts ++ [.mem, .bad, .free, .memc, .host]
  | .qCtlResume _ _ => [.regs, .mem, .bad, .free, .flt, .pcie, .clk, .memc, .host, .outbox, .nvFaultLog, .nvLogNext]
  | .qCtlSkip _ _ => faultParts ++ [.mem, .bad, .free, .memc, .host]
  | .qCreate _ => [.regs, .mem, .bad, .free, .flt, .mbx, .pcie, .memc, .host, .outbox, .nvFaultLog, .nvLogNext]
  | .qDelete _ => [.regs, .mbx, .host]
  | .qStop _ => faultParts ++ [.mem, .bad, .free, .memc, .host]
  | .qResume _ => [.regs, .mem, .bad, .free, .flt, .mbx, .pcie, .memc, .host, .outbox, .nvFaultLog, .nvLogNext]
  | .qResumeSkip _ => faultParts ++ [.mem, .bad, .free, .memc, .host]
  | .sluStats _ => [.mbx]
  | .sluHwmRst _ => [.regs, .clk, .outbox]
  | .headgateAdmit => faultParts ++ [.mem, .bad, .free, .memc, .host]
  | .sluiceRun _ _ _ => faultParts ++ [.mem, .bad, .pair, .tier, .red, .volu, .host]
  | .commandFinish _ _ _ _ => faultParts ++ [.mem, .bad, .free, .pair, .memc, .tier, .red, .volu, .host]
  | .anaChangeTimeout _ => [.regs, .host]
  | .forwardedRequestReceived _ _ => [.regs, .pwr, .mbx, .fences, .pair, .fs, .host, .mot, .outbox]
  | .forwardReplyReceived _ _ _ => [.regs, .mem, .flt, .mbx, .pair, .pcie, .fs, .tier, .host, .outbox, .nvFaultLog, .nvLogNext]
  | .vatEntrySealed _ _ => faultParts ++ [.pair, .tier, .volu]
  | .vatMirrorEntryReceived _ _ _ _ => [.pair, .journal, .tier, .volu, .outbox]
  | .mirrorAckReceived _ _ => [.regs, .pair, .journal, .tier, .outbox]
  | .chunkReductionStart _ _ _ _ => faultParts ++ [.red]
  | .tentativeResolved _ => faultParts ++ [.red]
  | .indexPageReadDone _ => faultParts ++ [.red]
  | .chunkCoded _ _ => faultParts ++ [.pair, .fl, .tier, .red]
  | .reductionRecordCommit _ => faultParts ++ [.pair, .tier, .red, .volu]
  | .deferredPassTimer => [.red]
  | .deferredPassEntry => faultParts ++ [.pair, .tier, .red, .volu]
  | .redBacklogOnset => faultParts
  | .redBacklogStepTimer => [.regs]
  | .redBacklogRelease => [.regs]
  | .redPolicySet _ => [.regs, .mbx, .pair, .tier, .volu, .outbox]
  | .redPolicyGet _ => [.mbx]
  | .redStats _ => [.mbx]
  | .redDedupScan _ => [.mbx, .red]
  | .redRecordRead _ => [.mbx]
  | .redFltClr _ => [.regs, .clk, .red, .outbox]
  | .volCreate _ => [.regs, .free, .mbx, .pair, .tier, .volu, .host, .outbox]
  | .volDelete _ => [.regs, .mbx, .pair, .host, .outbox]
  | .volResize _ => [.regs, .mbx, .pair, .tier, .volu, .host, .outbox]
  | .volAccessAdd _ => faultParts ++ [.mem, .pair, .tier, .volu, .host]
  | .volAccessRemove _ => faultParts ++ [.mem, .pair, .tier, .volu, .host]
  | .volInfo _ => [.mbx, .pair, .host, .outbox]
  | .volList _ => [.mbx, .pair, .host, .outbox]
  | .snapTake _ => [.regs, .mbx, .pair, .host, .outbox]
  | .snapDelete _ => faultParts ++ [.pair, .tier, .volu, .host]
  | .snapRestore _ => [.regs, .mbx, .pair, .host, .outbox]
  | .snapClone _ => [.regs, .free, .mbx, .pair, .tier, .volu, .host, .outbox]
  | .snapList _ => [.mbx, .pair, .host, .outbox]
  | .brickSet _ => [.mbx, .pair, .volu, .host, .outbox, .nvBrickId]
  | .peerSet _ => [.mbx, .pair, .volu, .host, .outbox]
  | .peerRemove _ => [.mbx, .pair, .volu, .host, .outbox]
  | .canalOpen _ => [.regs, .mbx, .pair, .tier, .volu, .host, .outbox]
  | .canalClose _ => [.regs, .mbx, .pair, .tier, .volu, .host, .spdm, .outbox]
  | .canalSync _ => faultParts ++ [.pair, .tier, .volu, .host]
  | .canalPromote _ => faultParts ++ [.mem, .pair, .tier, .red, .volu, .host, .spdm]
  | .canalStatus _ => [.mbx, .pair, .host, .outbox]
  | .drainStatus _ => [.mbx, .pair, .host, .outbox]
  | .volMapRead _ => [.mbx, .pair, .host, .outbox]
  | .snapDiff _ => [.mbx, .pair, .host, .outbox]
  | .canalTcpConnected _ => [.free, .volu, .outbox]
  | .canalConnectTimeout _ => [.mbx, .volu, .host, .spdm, .outbox]
  | .canalSetupTimeout _ => [.mbx, .volu, .host, .spdm, .outbox]
  | .canalFrameInvalid _ _ _ _ => faultParts ++ [.volu, .host, .spdm]
  | .canalConnectionLost _ => [.mbx, .volu, .host, .spdm, .outbox]
  | .canalHello _ _ => faultParts ++ [.mem, .pair, .tier, .volu, .host, .spdm]
  | .canalWrite _ _ _ _ _ => [.regs, .volu, .host, .outbox]
  | .canalWriteAck _ _ _ => [.volu, .host, .spdm, .outbox]
  | .canalDiffBegin _ _ _ => faultParts ++ [.tier, .red, .volu]
  | .canalFpList _ _ => faultParts ++ [.tier, .volu]
  | .canalFpNeed _ _ => faultParts ++ [.volu]
  | .canalRecord _ _ _ => faultParts ++ [.fl, .tier, .red, .volu, .host, .spdm]
  | .canalSnapCommit _ _ => [.regs, .pair, .journal, .tier, .volu, .outbox]
  | .canalCommitAck _ _ _ => faultParts ++ [.mem, .pair, .tier, .volu, .host]
  | .canalRetarget _ _ => [.mbx, .volu, .host, .spdm, .outbox]
  | .canalSyncTmoExpiry _ => [.volu, .host, .spdm, .outbox]
  | .canalRetryTimer => [.volu, .outbox]
  | .canalReattestTimer _ => [.free, .volu, .outbox]
  | .canalPeriodTimer _ => faultParts ++ [.pair, .tier, .volu]
  | .drainCutoverTimeout _ => faultParts ++ [.mem, .pair, .tier, .volu, .host]
  | .channelTrainDone _ _ _ _ => faultParts ++ [.fl, .tier]
  | .flashProgramDone _ _ _ _ => faultParts ++ [.mem, .bad, .free, .pair, .memc, .fl, .tier, .red]
  | .flashEraseDone _ _ _ _ => faultParts ++ [.mem, .pair, .tier]
  | .flashReadDone _ _ _ => faultParts ++ [.tier, .host]
  | .dieBusyTimeout _ _ => faultParts ++ [.tier]
  | .flashPatrolTimer _ => [.fl, .tier]
  | .heatHalvingTimer => [.tier]
  | .rackMoveStart _ _ _ _ => [.fl, .tier]
  | .rackSourceReadDone _ _ => faultParts ++ [.fl, .tier]
  | .rackTargetVerified _ _ => faultParts ++ [.mem, .bad, .free, .pair, .memc, .fl, .tier, .red]
  | .rackSourceRelease _ => [.regs, .mem, .bad, .free, .flt, .mbx, .pair, .pcie, .memc, .fl, .tier, .outbox, .nvFaultLog, .nvLogNext]
  | .capacityAccountTimer => [.pair, .outbox]
  | .capacityAccountReceived _ _ _ => [.regs, .fl]
  | .tierHealth _ _ => [.mbx]
  | .rackPolicySet _ => [.regs, .mbx]
  | .rackPolicyGet _ => [.mbx]
  | .rackStartGc _ => [.mbx, .fl]
  | .rackStartCooling _ => [.mbx, .fl]
  | .rackStartCompaction _ => [.mbx, .fl]
  | .rackStartHoming _ => [.mbx, .fl]
  | .rackStartPatrol _ => [.mbx, .fl]
  | .runInfo _ => [.mbx]
  | .flDieRetire _ => [.regs, .mbx, .fl, .tier]
  | .flPageRead _ => [.free, .mbx]
  | .flTableLoad _ => [.mbx, .tier]
  | .fpmCommit _ => [.regs, .clk, .outbox]
  | .tempSampleTimer _ => [.tier]
  | .tempHistoryHourly => [.tier]
  | .eccFillCellar _ => [.regs, .clk, .memc, .outbox]
  | .eccFillDram _ => [.regs, .clk, .memc, .outbox]
  | .eccFillDone _ => [.regs, .mem, .bad, .bring, .memc]
  | .eccPatrolRead _ _ => faultParts ++ [.bad, .memc]
  | .eccCeWindowExpiry _ => [.memc]
  | .coreFetchUeTrap _ _ => faultParts ++ [.bad, .memc]
  | .coreReloadDone _ => [.bad, .memc]
  | .coreDataUeTrap _ _ _ => faultParts ++ [.bad]
  | .memStats _ => [.mbx]
  | .memRewrite _ _ => faultParts ++ [.bad, .free, .memc]
  | .memRetire _ => [.regs, .mbx, .nvRetired]
  | .tcInvalidateAll _ => [.regs, .mem, .bad, .flt, .pcie, .clk, .memc, .outbox, .nvFaultLog, .nvLogNext]
  | .tcInvalidateRange _ _ => [.regs, .mem, .bad, .flt, .pcie, .clk, .memc, .outbox, .nvFaultLog, .nvLogNext]
  | .tcPreload _ _ _ => [.regs, .mem, .bad, .flt, .pcie, .clk, .memc, .outbox, .nvFaultLog, .nvLogNext]
  | .tcMaintDone => faultParts ++ [.mem, .bad, .memc]
  | .tcFillDone _ _ _ _ _ => faultParts ++ [.mem, .bad, .free, .memc]
  | .dmaGo _ _ => [.regs, .clk, .memc, .outbox]
  | .dmaStop _ _ => [.regs, .clk, .outbox]
  | .dmaResume _ _ => [.regs, .clk, .memc, .outbox]
  | .dmaDisable _ _ => faultParts ++ [.mem, .bad, .free, .memc]
  | .dmaDescriptorDone _ _ _ _ => faultParts ++ [.mem, .bad, .free, .memc]
  | .dmaCommit _ => [.regs, .clk, .outbox]
  | .faultLogSecondTimer => [.flt, .nvFaultLog, .nvLogNext]
  | .supWdtKick _ => [.regs, .pwr, .clk, .outbox]
  | .supWdtExpiry => faultParts
  | .supCommit _ => [.regs, .pwr, .clk, .outbox]
  | .fltReadGroups _ => [.mbx]
  | .fltReadBootRecord _ => [.mbx]
  | .fltClear _ => [.regs, .mbx]
  | .fltLogRead _ => [.mbx]
  | .fabLinkChange _ _ => [.regs, .free]
  | .tempSensorRead _ _ _ _ => [.therm]
  | .tjOver105Timeout => faultParts ++ [.therm]
  | .tjOver115Timeout => faultParts ++ [.therm]
  | .tjDiskWaitTimeout _ => [.regs, .host]
  | .tjRecoveryTimeout => [.regs, .therm]
  | .coarseCalibrationDone => [.regs, .bring]
  | .spdmResponseReceived _ _ _ _ _ _ _ => faultParts ++ [.free, .pair, .volu, .host, .spdm]
  | .pcieLinkChange _ => [.pcie]
  | .tsOutSecondsRollover => [.outbox]
  | .registerRead _ _ _ _ => [.regs, .free, .snaps, .clk, .outbox]
  | .nvmeMiRequest _ => [.outbox]
  | .aggregationTimeExpiry _ => [.pcie, .host, .outbox]
  | .drainOfferReply _ _ _ => faultParts ++ [.mem, .pair, .volu, .host]

end Sys2Proof.Machine
end

