-- ==== Sys2Proof/Safety.lean ====
section
/-! DEFINITION. What a safe step is, and the terms in which the statements speak: a mailbox that runs a command and is answered, a
domain's units, the invariants of a run. -/

namespace Sys2Proof.Machine

/-- The outcome is a next state. -/
def isNext : Host.Outcome State Fault Refusal → Bool
  | .next _ => true
  | .fault _ => false
  | .refused _ => false

/-- A state from which the step goes on. -/
def Safe (s : State) : Prop := isNext (step s) = true

/-- The invariant of a run: the register file and memory in their canonical forms, the units there, the fault log bounded. -/
def Inv (s : State) : Prop := RegsWf s ∧ MemWf s ∧ Units s ∧ LogBound s

/-- Mailbox `m` is RUNNING a command of opcode `op` whose row has not acted yet (R157). -/
def mbxRuns (s : State) (m op : Nat) : Prop :=
  mbxState s m = 2 ∧ (mbxAt s m).cmd.opcode.toNat = op ∧ (mbxAt s m).started = false ∧ (mbxAt s m).result = none

/-- The state in which a row's function runs: its command is marked as having acted. -/
def begun (m : Nat) (s : State) : State := { s with mbx := modAt s.mbx m (fun y => { y with started := true }) }

/-- Mailbox `m` runs a command of the volume chapter in its turn, for a group that this device holds or for none (R373). -/
def volRuns (s : State) (m op : Nat) : Prop :=
  mbxRuns s m op ∧ volTurn s m = true ∧ (groupNamed (begun m s) (mbxAt s m).cmd).all (fun g => holdsGroup s g) = true

/-- The command of mailbox `m` has its completion, with status `st` (R154). -/
def mbxAnswered (t : State) (m st : Nat) : Prop := ((mbxAt t m).result.map (fun r => r.status)) = some st

/-- The command of mailbox `m` has its completion: status 0 and these bytes in the completion area (R154). -/
def mbxReturns (t : State) (m : Nat) (l : List Byte) : Prop := (mbxAt t m).result = some ⟨0, l, 0, 0, []⟩

/-- The command of mailbox `m` runs on: it has acted and has no completion yet (R157). -/
def mbxWaits (t : State) (m : Nat) : Prop := (mbxAt t m).started = true ∧ (mbxAt t m).result = none

/-- The checks of R499 let path `p` write `w` at address `a`. -/
def writeGoes (p : Path) (a : Nat) (w : Word) (s : State) : Prop := (busCheck p true a true w s).1 = .go

/-- The checks of R499 let path `p` read address `a`. -/
def readGoes (p : Path) (a : Nat) (s : State) : Prop := (busCheck p true a false 0 s).1 = .go

/-- Sequencer `a` runs the word `w`, whose action has code `code` and has not been performed (R254). -/
def fsActs (s : State) (a code w : Nat) : Prop :=
  fsRuns s a = true ∧ (fsOf s a).acted = false ∧ (fsOf s a).word = some w ∧ wAct w = code

/-- The state in which a word's action runs: it counts as performed. -/
def fsActed (a : Nat) (s : State) : State := updFs a (fun x => { x with acted := true }) s

/-- An NVMe command that its controller takes: the command as taken, the controller, and the state after the taking (R302,
R324). -/
def nvTaken (op : Nat) (admin : Bool) (c : NvmeCmd) (s : State) : Option (NvmeCmd × NvCtrl × State) :=
  match nvTakeIf (fun o => decide (o = op)) admin c s with
  | none => none
  | some (x, s1) => (ctrlOf s1 c.ctrl).map (fun k => (x, k, s1))

/-- Port `p` serves an SPDM request that needs phase `n` of the negotiation (R138, R140). -/
def spdmReady (s : State) (p n : Nat) : Prop :=
  spdmLive s p = true ∧ isSet s F.SUP_BOOT_RECOVERY = false ∧ n ≤ spdmPhase s p

end Sys2Proof.Machine
end

