-- ==== Sys2Proof/Certificates/Slice0/Obligations.lean ====
section
/-! DEFINITION. The statements for the provers. Each command of the table has, in some statement, its next state for all states
and operands that meet hypotheses on these alone; `touches` (Machine/Touches.lean) gives every command its frame. A clause is
preceded by the rows that it speaks of. -/

set_option Elab.async false

set_option linter.unusedVariables false

open Sys2Proof Sys2Proof.Machine

/-- For every command c and every state s whose queue is c followed by r, the step is exec of c on s with the queue r.
(95_what_each_step_holds.md) -/
def Obligations.StepRunsFrontCommand : Prop :=
  ∀ (c : Instr) (r : List Instr) (s : State), step { s with pending := c :: r } = exec c { s with pending := r }

/-- With no command waiting, a step adds 1 to the Supervisor timestamp and changes nothing else. The spec gives no such row; log
entry 5 (DESIGN CHOICE) says that this is the model's choice. (95_what_each_step_holds.md) -/
def Obligations.EmptyQueueIdles : Prop :=
  ∀ s : State, s.pending = [] → step s = .next { s with now := s.now + 1 }

/-- After reset every register reads the model's reset word of its address (the reset value of its row in the spec; log entry 2
names the values that the spec leaves undefined), each fault group's IRQ word reads 0x607 and PWR_MODE 0x0000_0601, memory lists
nothing, the device is held in Reset, no command waits, and the register file and memory are canonical, the units are complete
and the fault log is within its bound. Open points in it are the model's choice (log entries 9 and 10). Drawn on: R11, R88,
R101, R498, R503. (16_register_map.md, 00_scope.md, 03_supplies_modes_and_bringup.md) -/
def Obligations.ResetState : Prop :=
  Sys2Proof.Machine.Inv State.reset ∧ (∀ a, rd State.reset a = resetWord a) ∧ State.reset.mem = [] ∧ rd State.reset R.PWR_MODE = 0x601 ∧ State.reset.pwr.inReset = true ∧ State.reset.pending = [] ∧
    (∀ b : Fin 21, rd State.reset (groupBase b.val + 20) = 0x607)

/-- From every state whose memory is canonical (addresses rising, no byte listed that an unlisted address reads as), a step that
answers a next state leaves memory canonical. Open points in it are the model's choice (log entries 6 and 14). Drawn on: R5,
R147. (95_what_each_step_holds.md, 00_scope.md, 05_boot_measurement_and_patches.md) -/
def Obligations.MemoryStaysCanonical : Prop :=
  ∀ s t : State, MemWf s → step s = .next t → MemWf t

/-- From every state whose register file is canonical (addresses rising, no register listed at its reset value), a step that answers
a next state leaves it canonical, so that equal register files are equal data. Drawn on: R11, R503. (16_register_map.md,
00_scope.md) -/
def Obligations.RegistersStayCanonical : Prop :=
  ∀ s t : State, RegsWf s → step s = .next t → RegsWf t

/-- From every state with 16 mailboxes, 16 preamplifier links, 144 heads, four sequencers, four actuators, four air movers and 256
native queues, a step leaves as many; and a fault log of at most 4,096 entries stays one. Drawn on: R9, R149, R268, R310, R481.
(15_faults_and_safe_reactions.md, 00_scope.md, 06_mailboxes_and_expert_access.md, 08_servo_bands_and_format_sequencers.md,
10_host_queues_and_the_sluice.md) -/
def Obligations.UnitsAndFaultLogStay : Prop :=
  ∀ s t : State, step s = .next t → (Units s → Units t) ∧ (LogBound s → LogBound t)

/-- For every state, a step that answers a next state leaves each kind's fused minimum SVN at least what it was; and a command that
raises one is FW_COMMIT_SVN. Drawn on: R146. (05_boot_measurement_and_patches.md) -/
def Obligations.FusedMinimumsNeverFall : Prop :=
  ∀ s t : State, step s = .next t →
    (s.nv.svnMinSup ≤ t.nv.svnMinSup ∧ s.nv.svnMinCtl ≤ t.nv.svnMinCtl) ∧
    ((s.nv.svnMinSup ≠ t.nv.svnMinSup ∨ s.nv.svnMinCtl ≠ t.nv.svnMinCtl) → ∃ m c r, s.pending = .fwCommitSvn m c :: r)

/-- A command that answers a next state with another trust list of expert roots is EXPERT_ROOT_ADD or EXPERT_ROOT_REMOVE, whatever
the state. Drawn on: R170, R171. (06_mailboxes_and_expert_access.md) -/
def Obligations.OnlyRootCommandsChangeTheTrustList : Prop :=
  ∀ (i : Instr) (s t : State), exec i s = .next t → s.nv.expertRoots ≠ t.nv.expertRoots → (∃ m, i = .expertRootAdd m) ∨ ∃ m, i = .expertRootRemove m

/-- The queue after a step that answers a next state is the queue before it without its first command, whatever the command did.
(95_what_each_step_holds.md) -/
def Obligations.StepTakesTheFrontCommand : Prop :=
  ∀ s t : State, step s = .next t → t.pending = s.pending.tail

/-- For every command and every state, exec answers a next state. For every next state that it answers, every part of the state
outside the command's frame (touches) is as before: the register file, memory, each record of an engine, each nonvolatile
record, the queue and the messages sent are each a part of their own. Drawn on: R5, R84, R101, R494.
(95_what_each_step_holds.md, 00_scope.md, 03_supplies_modes_and_bringup.md, 15_faults_and_safe_reactions.md) -/
def Obligations.CommandsChangeOnlyTheirParts : Prop :=
  (∀ (i : Instr) (s : State), ∃ t, exec i s = .next t) ∧
  (∀ (i : Instr) (s t : State), exec i s = .next t → Outside (touches i) s t)

/-- With its latch clear, a block's fault group latches the code, the class, the instance and the 64-bit Supervisor timestamp of a
fault. With its latch set, a fault leaves those as they are and raises FF_OVF, which saturates at 255, and FF_CNT. A block whose
domain is off raises no fault. (R474) -/
def Obligations.FaultLatchTakesTheFirstFault : Prop :=
  (∀ (b : Fin 21) (code cls inst aux : Nat) (lv : Bool) (s : State), RegsWf s → isSet s (FF_VALID b) = false → code < 65536 → 1 ≤ cls → cls ≤ 3 → inst < 65536 →
    ∃ u, u = latchFault b code cls inst aux lv s ∧ isSet u (FF_VALID b) = true ∧ getF u (FF_CODE b) = code ∧ getF u (FF_CLASS b) = cls ∧
      getF u (FF_INST b) = inst ∧ getF u (FF_TIME_LO b) + getF u (FF_TIME_HI b) * 2 ^ 32 = s.now.toNat ∧ getF u (FF_OVF b) = 0) ∧
  (∀ (b : Fin 21) (code cls inst aux : Nat) (lv : Bool) (s : State), RegsWf s → isSet s (FF_VALID b) = true → 1 ≤ cls → cls ≤ 3 →
    ∃ u, u = latchFault b code cls inst aux lv s ∧ isSet u (FF_VALID b) = true ∧ getF u (FF_CODE b) = getF s (FF_CODE b) ∧ getF u (FF_CLASS b) = getF s (FF_CLASS b) ∧
      getF u (FF_INST b) = getF s (FF_INST b) ∧ getF u (FF_TIME_LO b) = getF s (FF_TIME_LO b) ∧ getF u (FF_TIME_HI b) = getF s (FF_TIME_HI b) ∧
      getF u (FF_OVF b) = min 255 (getF s (FF_OVF b) + 1) ∧ cntVal u (FF_CNT b) = min (2 ^ 48 - 1) (cntVal s (FF_CNT b) + 1)) ∧
  (∀ (b : Fin 21) (code cls inst aux : Nat) (s : State),
    (blockOn s b = false → raise b code cls inst aux s = s) ∧
    (blockOn s b = true → cntReaches s (FF_CNT b) 1 = false → cls < 2 → raise b code cls inst aux s = logEvent b code cls inst aux (latchFault b code cls inst aux false s)))

/-- A write that the checks before it pass is refused when, and only when, the register's fields are committed and one of its RWL
fields would change. A refused write changes no register but its block's violation pair. Any other write acts on the register as
a write without a commit does. (R501) -/
def Obligations.CommittedFieldsRefuseAChange : Prop :=
  ∀ (p : Path) (env : RegEnv) (a : Nat) (w : Word) (s : State), writeGoes p a w s →
    (rwlRefused a w s = true ↔ lockedAt a s = true ∧ ∃ r o, rowAt a = some (r, o) ∧ ∃ f ∈ r.fields, f.acc = .rwl ∧ bitsAt w.toNat f.lo f.width ≠ bitsAt (rdN s a) f.lo f.width) ∧
    (rwlRefused a w s = true → (regWrite p env a w s).2 = some 0x0015 ∧
      ∀ x, x ≠ violBase ((blockOf a).getD 0) → x ≠ violBase ((blockOf a).getD 0) + 4 → rd (regWrite p env a w s).1 x = rd s x) ∧
    (rwlRefused a w s = false → regWrite p env a w s = ((regAct p env a w s).1, some (regAct p env a w s).2))

/-- A doorbell on a mailbox that is not IDLE is ignored and sets MBX_DB_IGNORED. A release on a mailbox that is not DONE is ignored.
A read of a completion area before DONE returns a free value. (R158) -/
def Obligations.MailboxWritesInTheWrongState : Prop :=
  -- MBX_DOORBELL
  (∀ (p : Path) (m : Fin 16) (s : State), writeGoes p (R.MBX_CTL m.val) 1 s → mbxState s m ≠ 0 →
    exec (.mbxDoorbell p m) s = .next (busAnswer p (R.MBX_CTL m.val) 0 0 (setF (F.MBX_DB_IGNORED m.val) 1 s))) ∧
  -- MBX_RELEASE
  (∀ (p : Path) (m : Fin 16) (s : State), writeGoes p (R.MBX_CTL m.val) 2 s → mbxState s m ≠ 3 →
    exec (.mbxRelease p m) s = .next (busAnswer p (R.MBX_CTL m.val) 0 0 s)) ∧
  -- REGISTER_READ
  (∀ (p : Path) (m : Fin 16) (off : Nat) (s : State), 0x400 ≤ off → off < 0x800 → off % 4 = 0 → readGoes p (0x10000 + m.val * 0x800 + off) s → mbxState s m ≠ 3 →
    exec (.registerRead p true (BitVec.ofNat 32 (0x10000 + m.val * 0x800 + off)) false) s =
      .next (busAnswer p (0x10000 + m.val * 0x800 + off) 0 ((Config.freeValue s.free).setWidth 32).toNat { s with free := s.free + 1 }))

/-- Under conditions on state and operands alone exec answers a next state: TEMP_SENSOR_READ on a live device stores the four
readings and changes nothing else. TJ_OVER_105_TIMEOUT with Tj above 105 C and no such episode open opens one (nothing else of
the thermal record changes), raises 0x0130, and then removes the victim preamplifier where there is one and changes nothing more
where there is none. TJ_OVER_115_TIMEOUT with Tj above 115 C and no such episode open opens one, raises 0x0131 and leaves
admitted exactly those of the admitted preamplifiers whose actuator has a band in progress. TJ_DISK_WAIT_TIMEOUT ends a waiting
command of the disk tier with 0x0131 while that episode is open. TJ_RECOVERY_TIMEOUT below 100 C closes both episodes. Open
points in it are the model's choice (log entries 8 and 12). Drawn on: R522, R523. (17_electrical_and_thermal.md) -/
def Obligations.TemperatureEpisodes : Prop :=
  -- TEMP_SENSOR_READ
  (∀ (t0 t1 t2 t3 : Int) (s : State), live s = true →
    exec (.tempSensorRead t0 t1 t2 t3) s = .next { s with therm := { s.therm with dies := [t0, t1, t2, t3] } }) ∧
  -- TJ_OVER_105_TIMEOUT
  (∀ s : State, live s = true → 105 < tjOf s → s.therm.over105 = false →
    let s1 := raise 2 0x0130 1 0xFFFF 0 (updTherm (fun t => { t with over105 := true }) s)
    ∃ t, exec .tjOver105Timeout s = .next t ∧ t.therm = { s.therm with over105 := true } ∧
      (∀ p, paVictim s1 = some p → t = paRemove p s1) ∧ (paVictim s1 = none → t = s1)) ∧
  -- TJ_OVER_115_TIMEOUT
  (∀ s : State, live s = true → 115 < tjOf s → s.therm.over115 = false →
    let s1 := raiseLive 2 0x0131 2 0xFFFF 0 true (updTherm (fun t => { t with over115 := true }) s)
    ∃ t, exec .tjOver115Timeout s = .next t ∧ t.therm = { s.therm with over115 := true } ∧
      t.clk.admitted = s1.clk.admitted.filter (fun p => (bandOf s1 (p / 4)).isSome)) ∧
  -- TJ_DISK_WAIT_TIMEOUT
  (∀ (k : Nat) (c : Cmd) (s : State), cmdOf s k = some c → s.therm.over115 = true → c.stage = 0 → diskTier s c = true →
    exec (.tjDiskWaitTimeout k) s = .next (sluRefresh (updCmd k (fun c => { c with stage := 3, status := some 0x0131 }) s))) ∧
  -- TJ_RECOVERY_TIMEOUT
  (∀ (s : State), tjOf s < 100 →
    ∃ t, exec .tjRecoveryTimeout s = .next t ∧ t.therm = ⟨s.therm.dies, false, false⟩)

/-- Under conditions on state and operands alone exec answers a next state: FAN_HALL_EDGE of a fitted air mover with no invalid code
pending shows the code and sets the count of invalid codes to 1 for code 0 or 7 and to 0 otherwise. FAN_STALL_TIMEOUT of a
driven air mover without an edge for 250 ms coasts it, sets FAN_STALL and FAN_STATE 5 and shows 0 rpm. FAN_OVERCURRENT above the
limit coasts it with FAN_OVERCURRENT set. FAN_SPEED_LOOP_TICK leaves the motion record as it is and does not lower FAN_DUTY
below the target speed, does not raise it above the target, and keeps it at the target. FAN_DC_BRAKE_END ends the brake:
FAN_STATE 2, 0 rpm, direction 0, and the commands that wait go on. FAN_START_RETRY_TIMER starts again, or after ten tries stops
the air mover with 0x0336. MOT_FAN with speed 0 answers 0 and sets the target to 0. Open points in it are the model's choice
(log entries 8 and 70). Drawn on: R296, R297, R298. (09_motion_control.md) -/
def Obligations.AirMoverEvents : Prop :=
  -- FAN_HALL_EDGE
  (∀ (f : Fin 4) (hall : BitVec 3) (s : State), motOn s = true → fittedFan s f.val = true → (fanOf s f.val).bad = 0 → Units s → RegsWf s →
    ∃ t, exec (.fanHallEdge f hall) s = .next t ∧ getF t (F.FAN_HALL f.val) = hall.toNat ∧ (fanOf t f.val).bad = (if hall = 0 ∨ hall = 7 then 1 else 0)) ∧
  -- FAN_STALL_TIMEOUT
  (∀ (f : Fin 4) (s : State), motOn s = true → isSet s (F.FAN_RUN f.val) = true → 0 < getF s (F.FAN_DUTY f.val) →
      fanDriven s f.val = true → 250000000 ≤ s.now.toNat - (fanOf s f.val).edges.headD 0 →
    exec (.fanStallTimeout f) s = .next (s |> coastFan f.val |> setF (F.FAN_STALL f.val) 1 |> setF (F.FAN_STATE f.val) 5 |> setF (F.FAN_RPM f.val) 0
        |> updFan f.val (fun x => { x with edges := [] }))) ∧
  -- FAN_OVERCURRENT
  (∀ (f : Fin 4) (ma : BitVec 16) (s : State), motOn s = true → fanDriven s f.val = true → s.mot.limitPm < ma.toNat →
    exec (.fanOvercurrent f ma) s = .next (coastFan f.val (setF (F.FAN_OVERCURRENT f.val) 1 s))) ∧
  -- FAN_SPEED_LOOP_TICK
  (∀ (f : Fin 4) (duty : BitVec 12) (s : State), RegsWf s → motOn s = true → isSet s (F.FAN_RUN f.val) = true →
      2 ≤ getF s (F.FAN_STATE f.val) → getF s (F.FAN_STATE f.val) ≤ 3 →
    ∃ t, exec (.fanSpeedLoopTick f duty) s = .next t ∧ t.mot = s.mot ∧
      (getF s (F.FAN_RPM f.val) < (fanOf s f.val).target → getF s (F.FAN_DUTY f.val) ≤ getF t (F.FAN_DUTY f.val)) ∧
      ((fanOf s f.val).target < getF s (F.FAN_RPM f.val) → getF t (F.FAN_DUTY f.val) ≤ getF s (F.FAN_DUTY f.val)) ∧
      ((fanOf s f.val).target = getF s (F.FAN_RPM f.val) → getF t (F.FAN_DUTY f.val) = getF s (F.FAN_DUTY f.val))) ∧
  -- FAN_DC_BRAKE_END
  (∀ (f : Fin 4) (s : State), motOn s = true → getF s (F.FAN_STATE f.val) = 1 →
    exec (.fanDcBrakeEnd f) s = .next (s |> setF (F.FAN_STATE f.val) 2 |> setF (F.FAN_RPM f.val) 0 |> setF (F.FAN_DIR f.val) 0
      |> fanFinish f.val)) ∧
  -- FAN_START_RETRY_TIMER
  (∀ (f : Fin 4) (back : BitVec 16) (s : State), motOn s = true → isSet s (F.FAN_RUN f.val) = true →
      getF s (F.FAN_STATE f.val) = 4 ∨ getF s (F.FAN_STATE f.val) = 5 →
    exec (.fanStartRetryTimer f back) s = .next (if 10 ≤ (fanOf s f.val).tries then raise 8 0x0336 2 f.val 0 (fanStop f.val s)
      else fanStart f.val back.toNat (updFan f.val (fun x => { x with tries := (fanOf s f.val).tries + 1 }) s))) ∧
  -- MOT_FAN
  (∀ (m : Fin 16) (back : BitVec 16) (s : State), Units s → mbxRuns s m 0x0312 → fittedFan s (par (mbxAt s m).cmd 0 2) = true →
      par (mbxAt s m).cmd 16 16 = 0 →
    ∃ t, exec (.motFan m back) s = .next t ∧ mbxAnswered t m 0 ∧ (fanOf t (par (mbxAt s m).cmd 0 2)).target = 0)

/-- Under conditions on state and operands alone exec answers a next state: NAL_FLIT_RECEIVED of a flit of 256 bytes whose CRC-32C
is right and whose sequence is the next one takes its sequence as the last received. NAL_ACK_TIMEOUT, and NAL_LANE_FAIL of a
lane of a width of more than one lane step, take the link down. NAL_RETRAIN_TIMER on a link that is down, powered, driven and
locked on a device with no strap fault sends the message of kind 12 with the device's position. Open points in it are the
model's choice (log entries 8 and 30). Drawn on: R45, R52, R53, R54, R69. (01_the_brick_and_the_pair.md,
02_links_lands_and_package.md) -/
def Obligations.NalynLinkEvents : Prop :=
  -- NAL_FLIT_RECEIVED
  (∀ (flit : List Byte) (failed : Bool) (msgs : List NalMsg) (s : State), isSet s F.NAL_UP = true → flit.length = 256 →
      leAt flit 252 4 = crc32c (flit.take 252) → s.pair.rxSeq.all (fun r => decide (leAt flit 0 2 % 4096 = (r.toNat + 1) % 4096)) = true →
    ∃ t, exec (.nalFlitReceived flit failed msgs) s = .next t ∧ t.pair.rxSeq = some (BitVec.ofNat 12 (leAt flit 0 2))) ∧
  -- NAL_ACK_TIMEOUT
  (∀ s : State, exec .nalAckTimeout s = .next (nalDown s)) ∧
  -- NAL_LANE_FAIL
  (∀ (lane : Fin 16) (s : State), 2 ≤ getF s F.NAL_WIDTH →
      (((List.range 16).filter (fun l => bitAt (getF s F.NAL_LANE_GOOD) l)).take (2 ^ getF s F.NAL_WIDTH)).contains lane.val = true →
    exec (.nalLaneFail lane) s = .next (nalDown s)) ∧
  -- NAL_RETRAIN_TIMER
  (∀ s : State, isSet s F.NAL_UP = false → domOn s 12 = true → s.pins.nalTx = true → isSet s (F.CLK_LOCKED 12) = true →
      isSet s F.SUP_STRAP_FLOAT = false →
    exec .nalRetrainTimer s = .next (send (.nal (4096 + s.pair.txSeq.toNat) 0 12 [devNo s]) s))

/-- Under conditions on state and operands alone exec answers a next state: PERST_ASSERT and PERST_DEASSERT are recorded. PCIE_FLR
keeps the link and adds no grant. CC_EN_CLEAR resets the PCIe controllers. MSIX_UNMASK stores Enable, the function mask and the
vector masks, sends exactly the pending messages that nothing masks any more, and leaves pending exactly those that Enable lets
wait and a mask still holds. PCIE_LINK_CHANGE upward (strapped, out of PERST#, powered, locked, not held) sets the link up,
downward takes it down. FAB_LINK_CHANGE of a port of the profile sets its registers to up with the profile's speed and lanes
(enabled, driven, locked, not held), or to down. NVME_MI_REQUEST on a live sideband sends one answer: kind 3 is refused, the
others return free bytes of 32, 8 and 16. Open points in it are the model's choice (log entries 8, 31, 32 and 44). Drawn on:
R73, R75, R76, R324, R507, R531. (02_links_lands_and_package.md, 10_host_queues_and_the_sluice.md, 16_register_map.md) -/
def Obligations.HostLinkEvents : Prop :=
  -- PERST_ASSERT
  (∀ s : State, ∃ t, exec .perstAssert s = .next t ∧ t.pcie.perst = true) ∧
  -- PERST_DEASSERT
  (∀ s : State, exec .perstDeassert s = .next { s with pcie := { s.pcie with perst := false } }) ∧
  -- PCIE_FLR
  (∀ s : State, hostReach s = true →
    ∃ t, exec .pcieFlr s = .next t ∧ t.pcie.linkUp = s.pcie.linkUp ∧ (t.grants.all (fun g => s.grants.contains g)) = true) ∧
  -- CC_EN_CLEAR
  (∀ s : State, hostReach s = true → exec .ccEnClear s = .next (pcieReset s)) ∧
  -- MSIX_UNMASK
  (∀ (enable fnMask : Bool) (masked : List Nat) (s : State), hostReach s = true →
    ∃ t, exec (.msixUnmask enable fnMask masked) s = .next t ∧ t.pcie.masked = masked ∧ t.pcie.msixEnable = enable ∧ t.pcie.fnMask = fnMask ∧
      t.outbox = s.outbox ++ (s.pcie.vecPend.filter (fun v => enable && !fnMask && !masked.contains v)).map Msg.msix ∧
      ∀ v, t.pcie.vecPend.contains v = (s.pcie.vecPend.contains v && enable && (fnMask || masked.contains v))) ∧
  -- PCIE_LINK_CHANGE
  (∀ s : State, isSet s F.SUP_STRAP_PCIE_EN = true → s.pcie.perst = false → domOn s 13 = true → isSet s (F.CLK_LOCKED 10) = true →
      isSet s (F.CLK_SAFE_HELD 10) = false →
    exec (.pcieLinkChange true) s = .next { s with pcie := { s.pcie with linkUp := true } }) ∧
  -- PCIE_LINK_CHANGE
  (∀ s : State, ∃ t, exec (.pcieLinkChange false) s = .next t ∧ t.pcie.linkUp = false) ∧
  -- FAB_LINK_CHANGE
  (∀ (q : Fin 8) (s : State), q.val < profilePorts s.pwr.fabProfile → domOn s 11 = true →
      isSet s (F.FAB_P_EN q.val) = true → s.pins.fabTx = true → isSet s (F.CLK_LOCKED 11) = true → isSet s (F.CLK_SAFE_HELD 11) = false →
    exec (.fabLinkChange q true) s = .next (portSet q.val true (profileSpeed s.pwr.fabProfile) (profileLanes s.pwr.fabProfile) s)) ∧
  -- FAB_LINK_CHANGE
  (∀ (q : Fin 8) (s : State), q.val < profilePorts s.pwr.fabProfile → domOn s 11 = true →
    exec (.fabLinkChange q false) s = .next (portSet q.val false 0 0 s)) ∧
  -- NVME_MI_REQUEST
  (∀ (kind : Fin 4) (s : State), sidebandLive s = true →
    exec (.nvmeMiRequest kind) s = .next (send (if kind.val = 3 then .mctp 3 [] else .mctp 0 (page (0x300 + kind.val)
      (if kind.val = 0 then 32 else if kind.val = 1 then 8 else 16) [])) s))

/-- Under conditions on state and operands alone exec answers a next state: FAULT_LOG_SECOND_TIMER empties the lists of withheld and
of corrected entries and leaves the registers. SUP_WDT_KICK that the checks let through sets the watchdog's start to now.
SUP_WDT_EXPIRY of an armed watchdog past its period on a device not yet wedged sets SUP_WDT_EXPIRED, wedges the cluster and
raises 0x0911. SUP_COMMIT that the checks let through commits block 0. FLT_READ of the groups returns the bytes of the 21 fault
groups and changes no register; with SEL = 1 it returns the last-good-boot record, 108 zero bytes where there is none. FLT_CLEAR
of a block 0 to 20 answers 0 and clears what its CLR_LATCH and CLR_IRQ parameters name. FLT_LOG_READ returns the sequence of the
first entry, the count and at most 61 entries from the sequence asked for on. Open points in it are the model's choice (log
entries 8, 84 and 85). Drawn on: R477, R481, R484, R495. (15_faults_and_safe_reactions.md) -/
def Obligations.FaultLogWatchdogAndCommands : Prop :=
  -- FAULT_LOG_SECOND_TIMER
  (∀ s : State, ∃ t, exec .faultLogSecondTimer s = .next t ∧ t.flt.withheld = [] ∧ t.flt.corrLogged = [] ∧ t.regs = s.regs) ∧
  -- SUP_WDT_KICK
  (∀ (p : Path) (s : State), writeGoes p R.SUP_WDT_KICK 1 s →
    exec (.supWdtKick p) s = .next (busAnswer p R.SUP_WDT_KICK 0 0 { s with pwr := { s.pwr with wdtAt := s.now.toNat } })) ∧
  -- SUP_WDT_EXPIRY
  (∀ s : State, wdtArmed s = true → s.pwr.wedged = false → s.pwr.wdtAt + wdtPeriod s ≤ s.now.toNat →
    exec .supWdtExpiry s = .next (raiseLive 0 0x0911 3 0xFFFF 0 true
      { setF F.SUP_WDT_EXPIRED 1 s with pwr := { (setF F.SUP_WDT_EXPIRED 1 s).pwr with wedged := true } })) ∧
  -- SUP_COMMIT
  (∀ (p : Path) (s : State), writeGoes p R.SUP_WDT 0x10000 s →
    exec (.supCommit p) s = .next (busAnswer p R.SUP_WDT 0 0 { s with pwr := { s.pwr with supCommitted := true } })) ∧
  -- FLT_READ_GROUPS
  (∀ (m : Fin 16) (s : State), Units s → mbxRuns s m 0x0900 → par (mbxAt s m).cmd 0 1 = 0 →
    ∃ t, exec (.fltReadGroups m) s = .next t ∧ mbxReturns t m ((List.range 21).flatMap (groupBytes s)) ∧ t.regs = s.regs) ∧
  -- FLT_READ_BOOT_RECORD
  (∀ (m : Fin 16) (s : State), Units s → mbxRuns s m 0x0900 → par (mbxAt s m).cmd 0 1 = 1 →
    ∃ t, exec (.fltReadBootRecord m) s = .next t ∧ mbxReturns t m (s.nv.lastGood.elim (List.replicate 108 0) bootRecordBytes) ∧ t.regs = s.regs) ∧
  -- FLT_CLEAR
  (∀ (m : Fin 16) (s : State), Units s → mbxRuns s m 0x0901 → par (mbxAt s m).cmd 0 5 ≤ 20 →
    ∃ t, exec (.fltClear m) s = .next t ∧ mbxAnswered t m 0 ∧
      t.regs = (let s1 := if par (mbxAt s m).cmd 8 1 = 1 then clearLatch (par (mbxAt s m).cmd 0 5) s else s
                if par (mbxAt s m).cmd 9 1 = 1 then clearPend (par (mbxAt s m).cmd 0 5) (par (mbxAt s m).cmd 10 3) s1 else s1).regs) ∧
  -- FLT_LOG_READ
  (∀ (m : Fin 16) (s : State), Units s → mbxRuns s m 0x0902 → logSkip s (par (mbxAt s m).cmd 0 32) ≤ s.nv.faultLog.length →
    ∃ t, exec (.fltLogRead m) s = .next t ∧
      mbxReturns t m (let k := logSkip s (par (mbxAt s m).cmd 0 32)
        let l := (s.nv.faultLog.reverse.drop k).take 61
        leBytes 4 ((s.nv.logNext.toNat + 2 ^ 32 - (s.nv.faultLog.length - k)) % 2 ^ 32) ++ leBytes 2 l.length ++ [0, 0] ++ l.flatMap entryBytes))

/-- Under conditions on state and operands alone exec answers a next state: RESET_N_ASSERT answers a state in Reset whose registers
all read their reset words, with no grant and no command of a host, and the nonvolatile records, the journal and the queue as
before. RESET_N_DEASSERT stores the straps; the device stays in Reset exactly while VSYS has not been released.
VSYS_POWER_ON_RELEASE is recorded; the device stays in Reset exactly while RESET_N is low. VSYS_BELOW_RATED shows the voltage,
the flag and the admission floor. VSYS_POWER_FAIL records the time and that the journal was sealed. HOLDUP_END records whether
every head is off the disk; the device is then in Reset unless RESET_N and VSYS are both good. VSYS_OVERVOLTAGE shows the
voltage, sets PWR_VSYS_OV and takes the device to Safe with cause 3. Open points in it are the model's choice (log entries 8,
36, 38 and 39). Drawn on: R79, R88, R99, R100, R101, R130. (03_supplies_modes_and_bringup.md,
05_boot_measurement_and_patches.md) -/
def Obligations.ResetAndPowerFail : Prop :=
  -- RESET_N_ASSERT
  (∀ s : State, ∃ t, exec .resetNAssert s = .next t ∧ t.regs = [] ∧ t.pwr.inReset = true ∧ t.pwr.resetN = false ∧ t.nv = s.nv ∧
      t.journal = s.journal ∧ t.pending = s.pending ∧ t.grants = [] ∧ t.host.cmds = []) ∧
  -- RESET_N_DEASSERT
  (∀ (pullUp pullDown pcieEn : Bool) (fabProf : Fin 8) (miAddr : Fin 4) (testN : Bool) (s : State),
    ∃ t, exec (.resetNDeassert pullUp pullDown pcieEn fabProf miAddr testN) s = .next t ∧ t.pwr.resetN = true ∧
      t.pwr.straps = ⟨pullUp, pullDown, pcieEn, fabProf.val, miAddr.val, testN⟩ ∧
      t.pwr.inReset = (s.pwr.inReset && !s.pwr.vsysReleased)) ∧
  -- VSYS_POWER_ON_RELEASE
  (∀ s : State, ∃ t, exec .vsysPowerOnRelease s = .next t ∧ t.pwr.vsysReleased = true ∧ t.pwr.inReset = (s.pwr.inReset && !s.pwr.resetN)) ∧
  -- VSYS_BELOW_RATED
  (∀ (below : Bool) (mv : BitVec 16) (s : State), RegsWf s → live s = true →
    ∃ t, exec (.vsysBelowRated below mv) s = .next t ∧ getF t F.PWR_VSYS_MV = mv.toNat ∧ getF t F.PWR_VSYS_BELOW_RATED = b2n below ∧
      getF t F.PWR_HEADS_FLOOR = vsysFloor mv.toNat ∧ t.pwr = s.pwr ∧ t.clk = s.clk) ∧
  -- VSYS_POWER_FAIL
  (∀ (mv : BitVec 16) (s : State), live s = true → s.pwr.hold = false →
    ∃ t, exec (.vsysPowerFail mv) s = .next t ∧ t.nv.pf.map (fun r => r.time) = some s.now ∧ t.nv.pf.map (fun r => r.sealed) = some true) ∧
  -- HOLDUP_END
  (∀ s : State, s.pwr.hold = true →
    ∃ t, exec .holdupEnd s = .next t ∧ t.nv.pf = s.nv.pf.map (fun r => { r with parked := (List.range 4).all (fun a => !headsOut s a) }) ∧
      t.pwr.inReset = !(s.pwr.resetN && s.pwr.vsysReleased)) ∧
  -- VSYS_OVERVOLTAGE
  (∀ (mv : BitVec 16) (s : State), live s = true →
    exec (.vsysOvervoltage mv) s = .next (s |> setF F.PWR_VSYS_MV mv.toNat |> setF F.PWR_VSYS_OV 1 |> forcedSafe 3 0))

/-- Under conditions on state and operands alone exec answers a next state: PWR_DOM_REQ_WRITE that the checks let through is
answered with the status of the request, and changes nothing for the domains 0 and 16. DOMAIN_DRAIN_DONE of a draining domain
with nothing in flight turns it off. PWR_DRAIN_LIMIT_EXPIRY of a draining domain stops its transfers, turns it off and marks it
withdrawn (unless the device goes to Dormant then). DOMAIN_POWER_UP_DONE brings the domain up. An entry to Dormant and the
Bring-up go on after these. VMOT_START_PERMITTED outside a hold-up shows the voltage, permits starts, ends an entry to Fallow
that VMOT asked for and the disk wait, and lets a due spindle start, the Bring-up's spindle step and a wake go on.
VMOT_UNDERVOLTAGE shows the voltage, sets PWR_VMOT_UV and forbids starts; with the motion domain on it coasts the spindle,
retracts all heads, ends the bands with 0x0116 and turns to Fallow. VMOT_OVERVOLTAGE with the motion domain on forbids starts
and makes disk work wait unless an entry to Fallow is already asked for. VMOT_OV_FALLOW_TIMEOUT above 15.5 V turns to Fallow.
VMOT_OV_RETURN shows the voltage and whether it is within 9.0 to 15.5 V, and changes no power record. Open points in it are the
model's choice (log entries 8, 36 and 37). Drawn on: R82, R84, R85, R88, R94, R530. (03_supplies_modes_and_bringup.md) -/
def Obligations.VmotAndPowerDomains : Prop :=
  -- PWR_DOM_REQ_WRITE
  (∀ (p : Path) (d : Fin 17) (w : BitVec 32) (s : State), writeGoes p (R.PWR_DOM_CTL d.val) w s →
    exec (.pwrDomReqWrite p d w) s = .next (busAnswer p (R.PWR_DOM_CTL d.val) (domReq p d.val w s).2 0 (domReq p d.val w s).1) ∧
      (d.val = 0 ∨ d.val = 16 → domReq p d.val w s = (s, 0))) ∧
  -- DOMAIN_DRAIN_DONE
  (∀ (d : Fin 17) (s : State), getF s (F.PWR_DOM_STATE d.val) = 3 → inFlight s d.val = false → exec (.domainDrainDone d) s = .next (dormantGo (domainOff d.val s))) ∧
  -- PWR_DRAIN_LIMIT_EXPIRY
  (∀ (d : Fin 17) (s : State), RegsWf s → getF s (F.PWR_DOM_STATE d.val) = 3 →
    let u := setF (F.PWR_DOM_WITHDRAWN d.val) 1 (domainOff d.val (haltTransfers d.val s))
    ∃ t, exec (.pwrDrainLimitExpiry d) s = .next t ∧ t = dormantGo u ∧ (u.pwr.target ≠ some 1 → getF t (F.PWR_DOM_WITHDRAWN d.val) = 1)) ∧
  -- DOMAIN_POWER_UP_DONE
  (∀ (d : Fin 17) (offline : BitVec 80) (s : State), exec (.domainPowerUpDone d offline) s = .next (step6Begin (domainUp d.val offline s))) ∧
  -- VMOT_START_PERMITTED
  (∀ (mv : BitVec 16) (s : State), live s = true → s.pwr.hold = false →
    let s1 := updPwr (fun p => { p with startPermitted := true, vmotFallow := false, diskWait := false }) (vmotShow mv.toNat s)
    exec (.vmotStartPermitted mv) s = .next (wakeGo (bringSpin (if spindleDue s1 then spnBring s1 else s1)))) ∧
  -- VMOT_UNDERVOLTAGE
  (∀ (mv : BitVec 16) (s : State), live s = true →
    let s1 := updPwr (fun p => { p with startPermitted := false }) (setF F.PWR_VMOT_UV 1 (vmotShow mv.toNat s))
    exec (.vmotUndervoltage mv) s = .next (if motOn s1 then vmotToFallow (forN 4 (haltBand · 0x0116) (retractAll (spnCoast s1))) else s1)) ∧
  -- VMOT_OVERVOLTAGE
  (∀ (mv : BitVec 16) (s : State), live s = true →
      motOn (updPwr (fun p => { p with startPermitted := false }) (setF F.PWR_VMOT_OV 1 (vmotShow mv.toNat s))) = true →
    ∃ t, exec (.vmotOvervoltage mv) s = .next t ∧ t.pwr.startPermitted = false ∧ t.pwr.diskWait = !s.pwr.vmotFallow) ∧
  -- VMOT_OV_FALLOW_TIMEOUT
  (∀ s : State, live s = true → s.pwr.diskWait = true → 15500 < getF s F.PWR_VMOT_MV → exec .vmotOvFallowTimeout s = .next (vmotToFallow s)) ∧
  -- VMOT_OV_RETURN
  (∀ (mv : BitVec 16) (s : State), RegsWf s → live s = true →
    ∃ t, exec (.vmotOvReturn mv) s = .next t ∧ getF t F.PWR_VMOT_MV = mv.toNat ∧
      getF t F.PWR_VMOT_OK = b2n (decide (9000 ≤ mv.toNat ∧ mv.toNat ≤ 15500)) ∧ t.pwr = s.pwr)

/-- Under conditions on state and operands alone exec answers a next state: BOOT_SUPERVISOR_VERIFIED in step 2 outside recovery
enters recovery where no slot of the Supervisor's image verifies, and otherwise stands at step 3 with the chosen slot running.
BOOT_DORMANT_ENTERED in step 3 notes that the configuration is loaded, changes no nonvolatile record, and pulls the trigger
where AUTO_START is set and the straps allow it. BOOT_CONTROL_VERIFIED in step 5 with the trigger pulled drops the trigger where
no slot of the control bundle verifies, and otherwise runs the chosen slot with the trigger kept. BOOT_PATCHES_VERIFIED in step
6 spends the trigger, forgets the agreed protocol and takes the range of the bundle that runs. Open points in it are the model's
choice (log entries 8, 39, 63, 103 and 108). Drawn on: R88, R130, R131, R132, R133, R134, R137.
(03_supplies_modes_and_bringup.md, 05_boot_measurement_and_patches.md) -/
def Obligations.BootChain : Prop :=
  -- BOOT_SUPERVISOR_VERIFIED
  (∀ s : State, RegsWf s → live s = true → bootStage s = 2 → isSet s F.SUP_BOOT_RECOVERY = false →
    ∃ t, exec .bootSupervisorVerified s = .next t ∧
      match (bootChoose 1 (fun s => firmwareCheck s 1) s).1 with
      | none => getF t F.SUP_BOOT_RECOVERY = 1
      | some n => getF t F.SUP_BOOT_STAGE = 3 ∧ t.boot.supRun = n) ∧
  -- BOOT_DORMANT_ENTERED
  (∀ s : State, live s = true → bootStage s = 3 →
    ∃ t, exec .bootDormantEntered s = .next t ∧ t.boot.loaded = true ∧ t.nv = s.nv ∧
      (s.nv.autoStart = true → isSet t F.SUP_STRAP_TEST_N = true → isSet t F.SUP_STRAP_FLOAT = false → t.boot.trigger = true)) ∧
  -- BOOT_CONTROL_VERIFIED
  (∀ s : State, s.boot.trigger = true → bootStage s = 5 → mode s = 1 →
    ∃ t, exec .bootControlVerified s = .next t ∧
      match (bootChoose 2 (fun s => slotCheck s 2) (s |> setF (F.PWR_DOM_REQ_ON 1) 1 |> setF (F.PWR_DOM_STATE 1) 2)).1 with
      | none => t.boot.trigger = false
      | some n => t.boot.ctlRun = n ∧ t.boot.trigger = true) ∧
  -- BOOT_PATCHES_VERIFIED
  (∀ s : State, s.boot.trigger = true → bootStage s = 6 →
    ∃ t, exec .bootPatchesVerified s = .next t ∧ t.boot.trigger = false ∧ t.pair.proto = none ∧
      t.pair.protoRange = (firmwareOf (slotBytes s 2 s.boot.ctlRun)).elim (0, 0) (fun i => imgProto i.1))

/-- Under conditions on state and operands alone exec answers a next state: VAT_ENTRY_SEALED of an entry that has arrived marks it
sealed and applied, shows its sequence, applies a write entry to its volume, and lets acknowledgements and releases follow.
VAT_MIRROR_ENTRY_RECEIVED of the partner's next entry, when the pool has room, adds it to the journal, moves the last mirrored
sequence to it and acknowledges it to the partner. MIRROR_ACK_RECEIVED shows the acknowledged sequence and changes no volume.
Open points in it are the model's choice (log entries 8 and 75). Drawn on: R452, R453, R454.
(14_memories_table_cache_and_dma.md) -/
def Obligations.VatJournal : Prop :=
  -- VAT_ENTRY_SEALED
  (∀ (g : Fin 2) (seq : BitVec 32) (e : JEnt) (s : State), jrnOf s g.val seq.toNat = some e → e.arrived = true → e.sealed = false →
      isSet s F.VAT_READY = true →
    exec (.vatEntrySealed g seq) s = .next (jRelease (jAckFree (
      if e.kind = 1 then applyWrite e.volume seq.toNat e.offset e.payload.length
        (s |> updJrn g.val seq.toNat (fun e => { e with sealed := true, applied := true }) |> wr (R.VAT_SEQ g.val) seq)
      else s |> updJrn g.val seq.toNat (fun e => { e with sealed := true, applied := true }) |> wr (R.VAT_SEQ g.val) seq)))) ∧
  -- VAT_MIRROR_ENTRY_RECEIVED
  (∀ (g : Fin 2) (seq : BitVec 32) (body : MirrorBody) (s : State), isSet s F.NAL_UP = true → isSet s F.VAT_READY = true →
      (∀ q, s.tier.mirrorLast.getD g.val none = some q → seq.toNat = (q + 1) % 2 ^ 32) →
      poolBytes s false + poolBytes s true + entBytesHeld (mirrorEnt g.val seq body) ≤ 896 * 2 ^ 20 →
    exec (.vatMirrorEntryReceived g seq body []) s = .next (nalSend 2 2 [g.val, seq.toNat] (mirrorApply body
      { s with journal := s.journal ++ [mirrorEnt g.val seq body],
               tier := { s.tier with mirrorLast := setAt s.tier.mirrorLast g.val (some seq.toNat) } }))) ∧
  -- MIRROR_ACK_RECEIVED
  (∀ (g : Fin 2) (seq : BitVec 32) (s : State), RegsWf s → isSet s F.NAL_UP = true → isSet s F.VAT_READY = true →
    ∃ t, exec (.mirrorAckReceived g seq) s = .next t ∧ rd t (R.VAT_MIRROR_ACK g.val) = seq ∧ t.volu = s.volu)

/-- Under conditions on state and operands alone exec answers a next state: PA_REPLY_RECEIVED of an intact reply (CRC-8 right, the
top bit clear) ends the transaction, gives the reply to what asked for it, starts the next one and opens gates that may open.
Without a reply the frame is sent again up to four attempts, after which the preamplifier has failed. PA_FLT_ASSERT of a fitted
preamplifier sets HC_PA_FLT_IN, stops its writing heads where this device drives it, and asks for PA_FAULT of its nine heads.
PA_CLAIM_RETRY_TIMER of a claim that waits claims again. HC_PA_RAW_TX_WRITE that the checks let through sends the word with its
top bit forced to 1. Open points in it are the model's choice (log entries 8, 57 and 121). Drawn on: R183, R186, R187, R188,
R189, R219. (07_head_channels.md) -/
def Obligations.PreamplifierLinks : Prop :=
  -- PA_REPLY_RECEIVED
  (∀ (p : Fin 16) (r : BitVec 32) (f : Nat) (s : State), (paOf s p.val).tx = some f → crc8 24 (r.toNat / 256) = r.toNat % 256 →
      bitAt r.toNat 31 = false →
    exec (.paReplyReceived p (some r)) s = .next (s |> updPa p.val (fun y => { y with tx := none })
      |> paReply p.val f (paOf s p.val).raw (paOf s p.val).attempts r.toNat |> paNext p.val |> gateOpen (paAct p.val))) ∧
  -- PA_REPLY_RECEIVED
  (∀ (p : Fin 16) (f : Nat) (s : State), (paOf s p.val).tx = some f →
    exec (.paReplyReceived p none) s = .next (if (paOf s p.val).attempts < 4
      then send (.paFrame p.val (paFrame f)) (updPa p.val (fun y => { y with attempts := y.attempts + 1 }) s) else paFail p.val s)) ∧
  -- PA_FLT_ASSERT
  (∀ (p : Fin 16) (s : State), domOn s (2 + paAct p.val) = true → fittedPa s p.val = true →
    exec (.paFltAssert p) s = .next ((List.range 9).foldl (fun s j => paSend p.val (paCmd true 7 j 0) false s)
      (if (paOf s p.val).driving then stopPa p.val (setF (F.HC_PA_FLT_IN p.val) 1 s) else setF (F.HC_PA_FLT_IN p.val) 1 s))) ∧
  -- PA_CLAIM_RETRY_TIMER
  (∀ (p : Fin 16) (s : State), (paOf s p.val).retryTimer = true → exec (.paClaimRetryTimer p) s = .next (paClaim p.val false s)) ∧
  -- HC_PA_RAW_TX_WRITE
  (∀ (p : Path) (n : Fin 16) (w : BitVec 32) (s : State), writeGoes p (R.HC_PA_RAW_TX n.val) w s →
    exec (.hcPaRawTxWrite p n w) s = .next (busAnswer p (R.HC_PA_RAW_TX n.val) 0 0 (paSend n.val (w.toNat % 2 ^ 31 + 2 ^ 31) true s)))

/-- Under conditions on state and operands alone exec answers a next state: SPINDLE_MEASURE_DONE above 60 rpm backward shows the
speed, refuses the start (SPN_STATE 8, SPN_START_REFUSED) with 0x0330 and ends the command that waits; backward above 0 and up
to 60 rpm (from 30 rpm on without an encoder) SPN_STATE is 2 with the speed and the direction shown; forward, or below 30 rpm
without an encoder, which counts as 0, the start goes on from that speed. DC_BRAKE_END goes on from the speed left,
ALIGNMENT_END to the catch. OBSERVER_HANDOVER from SPN_OBS_MIN on changes SPN_SRC from 3 to 2 and shows the speed, and no motion
record changes. SPINDLE_AT_SPEED near the target sets SPN_AT_SPEED, shows the speed, notes it for Bring-up and clears the
counts. SPINUP_TIMEOUT of the holder of token 0 coasts, sets SPN_SPINUP_TIMEOUT, raises 0x0335 and starts once more, the second
time the start has failed. START_RETRY_TIMER of a refused start measures again. SHORT_BRAKE_ENTRY of a stopping spindle below
300 rpm shorts the windings in state 6 with SPN_AT_SPEED 0 and the speed shown. SPINDLE_STOPPED coasts, shows 0 rpm and state 0
and lets a waiting entry to Dormant go on. LOW_SPEED_UNLOAD below 2,000 rpm unloads every actuator whose heads are loaded or
loading. BRIDGE_THERMAL_FOLDBACK below 105 C lifts the limit to 1,000 per mille and the fold-back, above 110 C sets the limit to
1,000 less 5 per tenth of a degree above 110.0 C, between 500 and 1,000, and the fold-back. MOT_SPINDLE start, on the holder of
token 0 with a valid description, a winding set, no held clock and a permitted start, and with the spindle at rest, clears the
counts of starts and tries and begins a start; the command waits. Stop with no head on the disk answers 0 and leaves the
registers and the motion record of a spindle stop; coast answers 0 and leaves those of a coast. SPN_COAST that the checks let
through coasts the spindle. Open points in it are the model's choice (log entries 8, 67, 68 and 97). Drawn on: R284, R285, R287,
R298, R517. (17_electrical_and_thermal.md, 09_motion_control.md) -/
def Obligations.SpindleCommandsAndStart : Prop :=
  -- SPINDLE_MEASURE_DONE
  (∀ (rpm : BitVec 16) (s : State), spnState s = 1 → 60 < rpm.toNat →
    exec (.spindleMeasureDone rpm true) s = .next (spnShow rpm.toNat true s |> setF F.SPN_STATE 8 |> setF F.SPN_START_REFUSED 1
      |> raise 8 0x0330 2 0xFFFF 0 |> spnFinish 0x0330)) ∧
  -- SPINDLE_MEASURE_DONE
  (∀ (rpm : BitVec 16) (s : State), RegsWf s → spnState s = 1 → 0 < rpm.toNat → rpm.toNat ≤ 60 → (encThere s = true ∨ 30 ≤ rpm.toNat) →
    ∃ t, exec (.spindleMeasureDone rpm true) s = .next t ∧ spnState t = 2 ∧ getF t F.SPN_RPM = rpm.toNat ∧ getF t F.SPN_DIR = 1) ∧
  -- SPINDLE_MEASURE_DONE
  (∀ (rpm : BitVec 16) (back : Bool) (s : State), spnState s = 1 → (back = false ∨ (encThere s = false ∧ rpm.toNat < 30)) →
    let r := if encThere s = false ∧ rpm.toNat < 30 then 0 else rpm.toNat
    exec (.spindleMeasureDone rpm back) s = .next (spnForward r (spnShow r false s))) ∧
  -- DC_BRAKE_END
  (∀ (rpm : BitVec 16) (s : State), spnState s = 2 → exec (.dcBrakeEnd rpm) s = .next (spnForward rpm.toNat (spnShow rpm.toNat false s))) ∧
  -- ALIGNMENT_END
  (∀ s : State, spnState s = 3 → exec .alignmentEnd s = .next (spnCatch true s)) ∧
  -- OBSERVER_HANDOVER
  (∀ (rpm : BitVec 16) (s : State), RegsWf s → spnState s = 4 → getF s F.SPN_SRC = 3 → 10 * getF s F.SPN_OBS_MIN ≤ rpm.toNat →
    ∃ t, exec (.observerHandover rpm) s = .next t ∧ getF t F.SPN_SRC = 2 ∧ getF t F.SPN_RPM = rpm.toNat ∧ spnState t = 4 ∧ t.mot = s.mot) ∧
  -- SPINDLE_AT_SPEED
  (∀ (rpm : BitVec 16) (s : State), RegsWf s → spnState s = 4 → nearTarget s rpm.toNat = true → spindleDue s = false →
    ∃ t, exec (.spindleAtSpeed rpm) s = .next t ∧ isSet t F.SPN_AT_SPEED = true ∧ getF t F.SPN_RPM = rpm.toNat ∧ t.bring.atSpeed = true ∧
      t.mot.spn.starts = 0 ∧ t.mot.spn.tries = 0) ∧
  -- SPINUP_TIMEOUT
  (∀ s : State, 1 ≤ spnState s → spnState s ≤ 4 → owns s 0 = true →
    let s1 := s |> spnCoast |> setF F.SPN_SPINUP_TIMEOUT 1 |> raise 8 0x0335 2 0xFFFF 0 |> updSpn (fun x => { x with starts := s.mot.spn.starts + 1 })
    exec .spinupTimeout s = .next (if s.mot.spn.starts + 1 < 2 then spnStart s1 else spnFailed s1)) ∧
  -- START_RETRY_TIMER
  (∀ s : State, spnState s = 8 → s.mot.spn.tries < 120 → s.pwr.startPermitted = true → spnOk s = true →
    exec .startRetryTimer s = .next (spnStart (updSpn (fun x => { x with tries := x.tries + 1 }) s))) ∧
  -- SHORT_BRAKE_ENTRY
  (∀ (rpm : BitVec 16) (s : State), RegsWf s → owns s 0 = true → s.mot.spn.stopping = true → spnState s = 6 → rpm.toNat < 300 → hasSet s = true →
    ∃ t, exec (.shortBrakeEntry rpm) s = .next t ∧ t.mot.spn.shorted = true ∧ spnState t = 6 ∧ isSet t F.SPN_AT_SPEED = false ∧
      getF t F.SPN_RPM = rpm.toNat) ∧
  -- SPINDLE_STOPPED
  (∀ s : State, spnState s = 7 ∨ (spnState s = 6 ∧ s.mot.spn.shorted = true) →
    exec .spindleStopped s = .next (s |> spnCoast |> setF F.SPN_STATE 0 |> spnShow 0 false |> updSpn (fun x => { x with stopping := false }) |> dormantGo)) ∧
  -- LOW_SPEED_UNLOAD
  (∀ (rpm : BitVec 16) (s : State), rpm.toNat < 2000 → s.mot.spn.stopping = false → motOn s = true →
    exec (.lowSpeedUnload rpm) s = .next (forN 4 (fun a s => if headsLoaded s a ∨ getF s (F.VCM_STATE a) = 1 then unloadHeads a s else s)
      (setF F.SPN_RPM rpm.toNat s))) ∧
  -- BRIDGE_THERMAL_FOLDBACK
  (∀ (x : Int) (s : State), motOn s = true → x < 1050 →
    ∃ t, exec (.bridgeThermalFoldback x) s = .next t ∧ t.mot.limitPm = 1000 ∧ t.mot.folded = false ∧ t.regs = s.regs) ∧
  -- BRIDGE_THERMAL_FOLDBACK
  (∀ (x : Int) (s : State), motOn s = true → 1100 < x →
    ∃ t, exec (.bridgeThermalFoldback x) s = .next t ∧ t.mot.limitPm = (clampI 500 1000 (1000 - 5 * (x - 1100))).toNat ∧ t.mot.folded = true) ∧
  -- MOT_SPINDLE_START
  (∀ (m : Fin 16) (s : State), mbxRuns s m 0x0310 → spinSel 1 0 (mbxAt s m).cmd = true → par (mbxAt s m).cmd 16 16 = 0 →
      owns s 0 = true → s.desc.isSome = true → hasSet s = true → heldSafe s 2 = false → s.pwr.startPermitted = true → spnState s = 0 →
    exec (.motSpindleStart m) s = .next (spnStart (updSpn (fun x => { x with starts := 0, tries := 0 }) (begun m s)))) ∧
  -- MOT_SPINDLE_STOP
  (∀ (m : Fin 16) (s : State), Units s → mbxRuns s m 0x0310 → spinSel 0 0 (mbxAt s m).cmd = true → par (mbxAt s m).cmd 16 16 = 0 →
      owns s 0 = true → headsOnDisk s = false →
    ∃ t, exec (.motSpindleStop m) s = .next t ∧ mbxAnswered t m 0 ∧ t.regs = (spnStop s).regs ∧ t.mot = (spnStop s).mot) ∧
  -- MOT_SPINDLE_COAST
  (∀ (m : Fin 16) (s : State), Units s → mbxRuns s m 0x0310 → spinSel 0 1 (mbxAt s m).cmd = true → par (mbxAt s m).cmd 16 16 = 0 →
      owns s 0 = true →
    ∃ t, exec (.motSpindleCoast m) s = .next t ∧ mbxAnswered t m 0 ∧ t.regs = (spnCoast s).regs ∧ t.mot = (spnCoast s).mot) ∧
  -- SPN_COAST
  (∀ (p : Path) (s : State), writeGoes p R.SPN_CTL (BitVec.ofNat 32 (2 ^ 17 + rdN s R.SPN_CTL % 2 ^ 17)) s →
    exec (.spnCoast p) s = .next (busAnswer p R.SPN_CTL 0 0 (spnCoast s)))

/-- Under conditions on state and operands alone exec answers a next state: VCM_LOOP_SAMPLE on the device that computes the
actuator's loop updates the shock flags of the fitted actuators, runs the sample and, while the actuator is being given away,
sends the current command and the loop's sections. CLE_OUTPUT_LATE of the speed loop makes the output and the torque command the
output before; of an actuator's loop or of a micro-actuator it counts an overrun, sets CLE_OVR, raises 0x033B, applies the
output before again and checks whether writing is still safe. CLE_SWAP_REQ that the checks let through makes the request, which
changes nothing while one is pending. CLE_COMMIT that the checks let through sets CLE_COMMITTED. ALL_HEADS_LOST_TIMEOUT of an
owned actuator whose tracking heads are all lost retracts it and raises 0x0337. CARRIER_PERIOD with the motion domain on, its
length kept within the bound of the spread, samples the spindle's angle sources and runs the spindle's current loop, the four
actuators' and the four air movers'. ENCODER_READMIT of an encoder that was lost ends the loss and clears its three failure
counts. Open points in it are the model's choice (log entries 8, 51, 65, 66, 67 and 69). Drawn on: R270, R275, R276, R278, R281,
R283, R292, R294. (09_motion_control.md) -/
def Obligations.ActuatorLoopAndCarrier : Prop :=
  -- VCM_LOOP_SAMPLE
  (∀ (a : Fin 4) (w : BitVec 10) (omega alpha : Int) (ff : BitVec 16) (s : State), vcmComputes s a.val = true →
    exec (.vcmLoopSample a w omega alpha ff) s = .next (
      let s1 := vcmSample a.val w.toNat omega alpha ff (forN 4 (fun b s => if fittedAct s b then vcmShock alpha b s else s) s)
      match s1.pair.blends.getD a.val none with
      | some b => if b.giving then nalSend 0 40 (a.val :: getF s1 (F.VCM_ICMD a.val) ::
          (vcmOf s1 a.val).loop.sect.flatMap (fun l => l.map (unsgn 48))) s1 else s1
      | none => s1)) ∧
  -- CLE_OUTPUT_LATE
  (∀ (l : Fin 9) (i : Fin 36) (s : State), motOn s = true → l.val = 8 →
    ∃ t, exec (.cleOutputLate l i) s = .next t ∧ t.pair.torqueCmd = t.mot.spn.loop.out ∧ t.mot.spn.loop.out = s.mot.spn.loop.prev) ∧
  -- CLE_OUTPUT_LATE
  (∀ (l : Fin 9) (i : Fin 36) (s : State), motOn s = true → l.val < 4 →
    exec (.cleOutputLate l i) s = .next (
      let s2 := updVcm l.val (fun x => { x with loop := { x.loop with out := x.loop.prev } })
        (s |> count R.CLE_OVERRUN_LO 1 |> setF F.CLE_OVR 1 |> raise 8 0x033B 1 l.val 0)
      vcmUnsafe l.val false false true (setF (F.VCM_ICMD l.val) (unsgn 16 (vcmOf s2 l.val).loop.out) s2))) ∧
  -- CLE_OUTPUT_LATE
  (∀ (l : Fin 9) (i : Fin 36) (s : State), motOn s = true → 4 ≤ l.val → l.val < 8 →
    exec (.cleOutputLate l i) s = .next (
      let h := 36 * (l.val - 4) + i.val
      let s2 := updHead h (fun x => { x with ma := { x.ma with out := x.ma.prev } })
        (s |> count R.CLE_OVERRUN_LO 1 |> setF F.CLE_OVR 1 |> raise 8 0x033B 1 l.val 0)
      vcmUnsafe (l.val - 4) false false true
        (setF (F.MA_CMD h) (if isSet s2 (F.MA_EN h) then unsgn 16 (maCommand s2 (l.val - 4) i.val (headOf s2 h).ma.out) else 0) s2))) ∧
  -- CLE_SWAP_REQ
  (∀ (p : Path) (l : Fin 9) (s : State), writeGoes p (R.CLE_LOOP l.val) (BitVec.ofNat 32 (getF s (F.CLE_SWAP_RST l.val) * 8 + 2)) s →
    exec (.cleSwapReq p l) s = .next (busAnswer p (R.CLE_LOOP l.val) 0 0 (swapReq l.val s)) ∧
      (isSet s (F.CLE_SWAP_PENDING l.val) = true → swapReq l.val s = s)) ∧
  -- CLE_COMMIT
  (∀ (p : Path) (s : State), writeGoes p R.CLE_CTL 1 s →
    exec (.cleCommit p) s = .next (busAnswer p R.CLE_CTL 0 0 (setF F.CLE_COMMITTED 1 s))) ∧
  -- ALL_HEADS_LOST_TIMEOUT
  (∀ (a : Fin 4) (s : State), headsLoaded s a.val = true → owns s a.val = true → (surfaces s a.val).any (tracking s a.val) = true →
      (surfaces s a.val).all (fun i => !tracking s a.val i || isSet s (F.FS_SRV_LOST a.val i)) = true →
    exec (.allHeadsLostTimeout a) s = .next (s |> retract a.val |> raise 8 0x0337 2 a.val 0)) ∧
  -- CARRIER_PERIOD
  (∀ (x : Carrier) (s : State), motOn s = true →
    let y := { x with period := carrierBound s x.period }
    exec (.carrierPeriod x) s = .next (forN 4 fanLoop (forN 4 (vcmLoop y) (spnLoop y (spnSources y s))))) ∧
  -- ENCODER_READMIT
  (∀ s : State, motOn s = true → hasEncoder s = true → s.mot.spn.encLost = true →
    ∃ t, exec .encoderReadmit s = .next t ∧ t.mot.spn.encLost = false ∧ t.mot.spn.selfFail = 0 ∧ t.mot.spn.disEO = 0 ∧ t.mot.spn.disEW = 0)

/-- Under conditions on state and operands alone exec answers a next state: MOT_HEADS load, on the holder of a fitted actuator's
token with the spindle at speed from 1,800 rpm on and heads not loaded, begins the load and lifts the escalation of 0x0337;
unload, where it takes the actuator to state 4, begins it; both commands wait. HEAD_LOAD_DONE of a loading actuator sets state
3, turns the heaters on, shows the band and ends the head commands with 0. VCM_RETRACT_WRITE that the checks let through
retracts an owned actuator and changes nothing else of another. RETRACT_RAMP_DETECTED of a retracting actuator notes the latch
push and changes no register. MOT_STATUS returns the ten status words and changes no register. MOT_TABLE_LOAD of table 0 or 1 of
an actuator, of table 2, or of table 3 of a loop without a swap, with the table's length, answers 0 and stores the words in the
table's entries. HEAD_UNLOAD_DONE of an unloading actuator, and RETRACT_LATCH_DONE of a retracting one whose latch push runs,
park the actuator. RETRACT_TIMEOUT of a retracting actuator that has not reached its latch push sets VCM_STATE 6 and
VCM_RET_TIMEOUT, ends the head commands of the actuator with 0x0338, raises 0x0338 and lets a waiting entry to Dormant go on.
Open points in it are the model's choice (log entries 8, 49, 70 and 123). Drawn on: R293, R295, R298. (09_motion_control.md) -/
def Obligations.HeadLoadingParkingAndRetract : Prop :=
  -- MOT_HEADS_LOAD
  (∀ (m : Fin 16) (s : State), mbxRuns s m 0x0311 → par (mbxAt s m).cmd 8 1 = 1 → fittedAct s (par (mbxAt s m).cmd 0 2) = true →
      owns s (par (mbxAt s m).cmd 0 2) = true → headsLoaded s (par (mbxAt s m).cmd 0 2) = false → isSet s F.SPN_AT_SPEED = true →
      1800 ≤ getF s F.SPN_RPM →
    exec (.motHeadsLoad m) s = .next (loadHeads (par (mbxAt s m).cmd 0 2) (liftEscalation 0x0337 (par (mbxAt s m).cmd 0 2) (begun m s)))) ∧
  -- MOT_HEADS_UNLOAD
  (∀ (m : Fin 16) (s : State), mbxRuns s m 0x0311 → par (mbxAt s m).cmd 8 1 = 0 → fittedAct s (par (mbxAt s m).cmd 0 2) = true →
      owns s (par (mbxAt s m).cmd 0 2) = true →
      getF (unloadHeads (par (mbxAt s m).cmd 0 2) s) (F.VCM_STATE (par (mbxAt s m).cmd 0 2)) = 4 →
    exec (.motHeadsUnload m) s = .next (unloadHeads (par (mbxAt s m).cmd 0 2) (begun m s))) ∧
  -- HEAD_LOAD_DONE
  (∀ (a : Fin 4) (band : BitVec 24) (s : State), getF s (F.VCM_STATE a.val) = 1 → domOn s (2 + a.val) = true →
    exec (.headLoadDone a band) s = .next (s |> setF (F.VCM_STATE a.val) 3 |> heatersOn a.val |> bandShow a.val band.toNat |> headsFinish a.val true 0)) ∧
  -- VCM_RETRACT_WRITE
  (∀ (p : Path) (a : Fin 4) (s : State), writeGoes p (R.VCM_CTL a.val) (BitVec.ofNat 32 (getF s (F.VCM_LOAD a.val) + 2)) s →
    exec (.vcmRetractWrite p a) s = .next (busAnswer p (R.VCM_CTL a.val) 0 0 (if owns s a.val then retract a.val s else s))) ∧
  -- RETRACT_RAMP_DETECTED
  (∀ (a : Fin 4) (s : State), Units s → getF s (F.VCM_STATE a.val) = 5 →
    ∃ t, exec (.retractRampDetected a) s = .next t ∧ (vcmOf t a.val).latch = true ∧ t.regs = s.regs) ∧
  -- MOT_STATUS
  (∀ (m : Fin 16) (s : State), Units s → mbxRuns s m 0x0313 →
    ∃ t, exec (.motStatus m) s = .next t ∧ mbxReturns t m (([R.SPN_STATUS, R.SPN_FAULT] ++ (List.range 4).map R.VCM_STATUS ++
      (List.range 4).map R.FAN_STATUS).flatMap (fun r => leBytes 4 (rdN s r))) ∧ t.regs = s.regs) ∧
  -- MOT_TABLE_LOAD
  (∀ (m : Fin 16) (t i n : Nat) (s : State), Units s → mbxRuns s m 0x0314 → t = par (mbxAt s m).cmd 0 4 → i = par (mbxAt s m).cmd 4 4 →
      n = (if t = 0 then 256 else if t = 1 then 32 else if t = 2 then 1024 else 64) →
      (t < 2 ∧ i ≤ 3) ∨ t = 2 ∨ (t = 3 ∧ i ≤ 8 ∧ par (mbxAt s m).cmd 8 1 = 0) → (mbxAt s m).cmd.dataLen.toNat = 4 * n → (mbxAt s m).cmd.ext.length = 4 * n →
    ∃ u, exec (.motTableLoad m) s = .next u ∧ mbxAnswered u m 0 ∧
      u.regs = (storeWords (fun j => if t = 0 then entryStore (R.VCM_BIAS i j) else if t = 1 then entryStore (R.VCM_FRIC i j)
        else if t = 2 then entryStore (R.SPN_COG j) else coefStore i (1 - bankOf s i) j) 0 (leWords n (mbxAt s m).cmd.ext) s).regs) ∧
  -- HEAD_UNLOAD_DONE
  (∀ (a : Fin 4) (s : State), getF s (F.VCM_STATE a.val) = 4 → exec (.headUnloadDone a) s = .next (parked a.val s)) ∧
  -- RETRACT_LATCH_DONE
  (∀ (a : Fin 4) (s : State), getF s (F.VCM_STATE a.val) = 5 → (vcmOf s a.val).latch = true → exec (.retractLatchDone a) s = .next (parked a.val s)) ∧
  -- RETRACT_TIMEOUT
  (∀ (a : Fin 4) (s : State), getF s (F.VCM_STATE a.val) = 5 → (vcmOf s a.val).latch = false →
    exec (.retractTimeout a) s = .next (s |> setF (F.VCM_STATE a.val) 6 |> setF (F.VCM_RET_TIMEOUT a.val) 1
      |> headsFinish a.val false 0x0338 |> busyShow |> raise 8 0x0338 2 a.val 0 |> dormantGo))

/-- Under conditions on state and operands alone exec answers a next state: MODE_SET answers 0x0114 during a mode change and changes
no register and no power record. BRINGUP in Dormant that no strap forbids pulls the boot chain's trigger, sets PWR_MODE_BUSY and
waits. SOLO in Bring-up without an invalid description begins the takeover of a Solo start and waits. FALLOW in Full, when the
pair can take it, tells the partner and begins the entry; in Solo it begins it. WAKE in Fallow (of the pair: when it can take
it) requests the wake. DRAIN in Solo of 1 to 64 peers of the right length answers 0 and leaves the registers of a started drain.
DRAIN_CANCEL in a Drain that is not the pair's and does not end at once cancels it and waits. DORMANT in Bring-up, Solo or a
Fallow from Solo, unless it ends at once, begins the entry and waits. SAFE_RELEASE in Safe, not busy, answers 0 with the cores
stopped, no target mode and no grant. SOLO_START_WAIT_EXPIRY in Bring-up with no frame of the partner seen begins that takeover.
IDLE_FALLOW_EXPIRY of an idle disk begins the entry to Fallow in Solo, and in Full with the link up, telling the partner.
FALLOW_ENTRY_DONE with no head out enters Fallow: PWR_MODE_BUSY 0, head and motion domains down, spindle stopped by the holder
of token 0, fans set, the waiting command answered 0, the partner told, a waiting wake or band goes on. WAKE_DISK_READS_ADMITTED
with the spindle at speed and the heads loaded enters the target mode, keeps extended ladders unless the temperature is near,
answers the waiting command 0 and lets what waits go on. WAKE_CALIBRATION_DONE ends the full calibration and changes no
sequencer. DRAIN_EVACUATION_COMPLETE with nothing left begins the entry to Dormant. PAIR_MODE_REQUEST_RECEIVED with the link up:
WAKE requests a wake, and with no change in progress FALLOW and DRAIN in Full begin and DRAIN_CANCEL in Drain cancels. Open
points in it are the model's choice (log entries 8, 33, 34, 35 and 111). Drawn on: R70, R88, R89, R90, R93, R94, R96, R97, R165,
R398, R489. (02_links_lands_and_package.md, 03_supplies_modes_and_bringup.md, 06_mailboxes_and_expert_access.md,
12_volumes_snapshots_and_canals.md, 15_faults_and_safe_reactions.md) -/
def Obligations.ModeChanges : Prop :=
  -- MODE_SET_BRINGUP
  (∀ (m : Fin 16) (s : State), mbxRuns s m 0x0100 → isModeSet 1 (mbxAt s m).cmd = true → isSet s F.PWR_MODE_BUSY = false → mode s = 1 →
      isSet s F.SUP_STRAP_TEST_N = true → isSet s F.SUP_STRAP_FLOAT = false →
    ∃ t, exec (.modeSetBringup m) s = .next t ∧ t.boot.trigger = true ∧ t = setF F.PWR_MODE_BUSY 1 { begun m s with boot := { s.boot with trigger := true } }) ∧
  -- MODE_SET_BRINGUP, MODE_SET_SOLO, MODE_SET_FALLOW, MODE_SET_WAKE, MODE_SET_DRAIN, MODE_SET_DRAIN_CANCEL, MODE_SET_DORMANT
  (∀ (m : Fin 16) (k : Fin 7) (takes : Bool) (s : State), Units s → mbxRuns s m 0x0100 → isModeSet (1 + k.val) (mbxAt s m).cmd = true →
      isSet s F.PWR_MODE_BUSY = true →
    ∃ t, exec (match k with
        | 0 => .modeSetBringup m | 1 => .modeSetSolo m | 2 => .modeSetFallow m takes | 3 => .modeSetWake m takes
        | 4 => .modeSetDrain m takes | 5 => .modeSetDrainCancel m takes | 6 => .modeSetDormant m) s = .next t ∧
      mbxAnswered t m 0x0114 ∧ t.regs = s.regs ∧ t.pwr = s.pwr) ∧
  -- MODE_SET_SOLO
  (∀ (m : Fin 16) (s : State), mbxRuns s m 0x0100 → isModeSet 2 (mbxAt s m).cmd = true → isSet s F.PWR_MODE_BUSY = false → mode s = 2 →
      (s.bring.descRead = true → s.bring.descOk = true) → s.pair.take = .idle → isSet s F.SUP_STRAP_CLASH = false →
    exec (.modeSetSolo m) s = .next (soloStart (begun m s))) ∧
  -- MODE_SET_FALLOW
  (∀ (m : Fin 16) (takes : Bool) (s : State), mbxRuns s m 0x0100 → isModeSet 3 (mbxAt s m).cmd = true → isSet s F.PWR_MODE_BUSY = false →
      mode s = 3 → pairRefused s takes = false →
    exec (.modeSetFallow m takes) s = .next (fallowStart (nalSend 1 10 [3] (begun m s)))) ∧
  -- MODE_SET_FALLOW
  (∀ (m : Fin 16) (takes : Bool) (s : State), mbxRuns s m 0x0100 → isModeSet 3 (mbxAt s m).cmd = true → isSet s F.PWR_MODE_BUSY = false →
      mode s = 4 → exec (.modeSetFallow m takes) s = .next (fallowStart (begun m s))) ∧
  -- MODE_SET_WAKE
  (∀ (m : Fin 16) (takes : Bool) (s : State), mbxRuns s m 0x0100 → isModeSet 4 (mbxAt s m).cmd = true → isSet s F.PWR_MODE_BUSY = false →
      mode s = 5 → pairMode s = false ∨ pairRefused s takes = false →
    exec (.modeSetWake m takes) s = .next (wakeRequest true (begun m s))) ∧
  -- MODE_SET_DRAIN
  (∀ (m : Fin 16) (takes : Bool) (s : State), Units s → mbxRuns s m 0x0100 → isModeSet 5 (mbxAt s m).cmd = true → isSet s F.PWR_MODE_BUSY = false →
      mode s = 4 → 1 ≤ leAt (mbxAt s m).cmd.data 0 2 → leAt (mbxAt s m).cmd.data 0 2 ≤ 64 →
      (mbxAt s m).cmd.len.toNat = 4 + 4 * leAt (mbxAt s m).cmd.data 0 2 →
    ∃ t, exec (.modeSetDrain m takes) s = .next t ∧ mbxAnswered t m 0 ∧ t.regs = (drainStart (drainPeers (mbxAt s m).cmd) (begun m s)).regs) ∧
  -- MODE_SET_DRAIN_CANCEL
  (∀ (m : Fin 16) (takes : Bool) (s : State), mbxRuns s m 0x0100 → isModeSet 6 (mbxAt s m).cmd = true → isSet s F.PWR_MODE_BUSY = false →
      mode s = 6 → pairMode s = false → mode (drainCancel (begun m s)) = 6 →
    exec (.modeSetDrainCancel m takes) s = .next (drainCancel (begun m s))) ∧
  -- MODE_SET_DORMANT
  (∀ (m : Fin 16) (s : State), mbxRuns s m 0x0100 → isModeSet 7 (mbxAt s m).cmd = true → isSet s F.PWR_MODE_BUSY = false →
      mode s = 2 ∨ mode s = 4 ∨ (mode s = 5 ∧ getF s F.PWR_MODE_PRIOR = 4) → mode (dormantStart (begun m s)) ≠ 1 →
    exec (.modeSetDormant m) s = .next (dormantStart (begun m s))) ∧
  -- SAFE_RELEASE
  (∀ (m : Fin 16) (s : State), Units s → mbxRuns s m 0x0101 → mode s = 7 → isSet s F.SUP_SAFE_BUSY = false →
    ∃ t, exec (.safeRelease m) s = .next t ∧ mbxAnswered t m 0 ∧ t.pwr.coresRunning = false ∧ t.pwr.target = none ∧ t.grants = []) ∧
  -- SOLO_START_WAIT_EXPIRY
  (∀ s : State, mode s = 2 → s.pair.hbSeen = false → getF s F.PWR_SOLO_START_WAIT ≠ 0 → isSet s F.SUP_STRAP_CLASH = false → s.pair.take = .idle →
      isSet s F.PWR_MODE_BUSY = false → (s.bring.descOk = true ∨ s.bring.descRead = false) →
    exec .soloStartWaitExpiry s = .next (soloStart s)) ∧
  -- IDLE_FALLOW_EXPIRY
  (∀ s : State, mode s = 4 → getF s F.PWR_IDLE_FALLOW ≠ 0 → isSet s F.PWR_MODE_BUSY = false → diskIdle s = true →
    exec .idleFallowExpiry s = .next (fallowStart s)) ∧
  -- IDLE_FALLOW_EXPIRY
  (∀ s : State, mode s = 3 → getF s F.PWR_IDLE_FALLOW ≠ 0 → isSet s F.PWR_MODE_BUSY = false → diskIdle s = true → isSet s F.NAL_UP = true →
    exec .idleFallowExpiry s = .next (fallowStart (nalSend 1 10 [3] s))) ∧
  -- FALLOW_ENTRY_DONE
  (∀ s : State, s.pwr.target = some 5 → (List.range 4).any (headsOut s) = false →
    exec .fallowEntryDone s = .next (s |> setF F.PWR_MODE_CUR 5 |> setTarget none |> setF F.PWR_MODE_BUSY 0 |> forN 5 (fun i s => domDown (2 + i) s)
        |> (if owns s 0 then spnStop else fun s => s) |> fansTo |> mbxFinish (isModeSet 3) (resStatus 0) |> tellStep |> anaRefresh |> wakeGo |> fallowBands)) ∧
  -- WAKE_DISK_READS_ADMITTED
  (∀ (near : Bool) (x : Nat) (s : State), s.pwr.target = some x → x ≠ 1 → mode s = 5 → isSet s F.SPN_AT_SPEED = true → allLoaded s = true →
    exec (.wakeDiskReadsAdmitted near) s = .next (s |> setF F.PWR_MODE_CUR x |> setTarget none |> setF F.PWR_MODE_BUSY 0
      |> updPwr (fun p => { p with wakeFullCal := !near }) |> (if near then fun s => s else wakeLadder) |> firstService x |> fansTo
      |> mbxFinish (isModeSet 4) (resStatus 0) |> tellStep |> anaRefresh |> returnStart)) ∧
  -- WAKE_CALIBRATION_DONE
  (∀ s : State, s.pwr.wakeFullCal = true →
    ∃ t, exec .wakeCalibrationDone s = .next t ∧ t.pwr = { s.pwr with wakeFullCal := false } ∧ t.fs = s.fs) ∧
  -- DRAIN_EVACUATION_COMPLETE
  (∀ s : State, mode s = 6 → drainLeft s = [] → s.volu.drain.stuck = [] → s.volu.drain.jobs.all (fun j => j.vol.isNone) = true → isSet s F.PWR_MODE_BUSY = false →
    exec .drainEvacuationComplete s = .next (dormantStart s)) ∧
  -- PAIR_MODE_REQUEST_RECEIVED
  (∀ (peers : List Nat) (s : State), isSet s F.NAL_UP = true → mode s = 3 → isSet s F.PWR_MODE_BUSY = false → s.pwr.target ≠ some 5 →
    ∃ t u, exec (.pairModeRequestReceived 3 peers) s = .next t ∧ t = fallowStart s ∧
      exec (.pairModeRequestReceived 5 peers) s = .next u ∧ u = drainStart peers s) ∧
  -- PAIR_MODE_REQUEST_RECEIVED
  (∀ (peers : List Nat) (s : State), isSet s F.NAL_UP = true →
    ∃ t u, exec (.pairModeRequestReceived 4 peers) s = .next t ∧ t = wakeRequest false s ∧ exec (.pairModeRequestReceived 6 peers) s = .next u ∧
      (mode s = 6 → isSet s F.PWR_MODE_BUSY = false → u = drainCancel s))

/-- Under conditions on state and operands alone exec answers a next state: DRAM_TRAINING_DONE in Bring-up with training good shows
DRC state 2, the rate, the capacity, the channels and the number of retired DRAM pages and goes on to fill the Cellar; with
training failed it shows state 4 and raises 0x0819. DESCRIPTOR_READ_DONE keeps the description when the bytes are valid and none
otherwise. DESCRIPTOR_CHECK_RECEIVED keeps the partner's check and compares it, and a spindle step that waits goes on.
NAL_TRAIN_DONE on a powered, driven and locked link with lanes for a width shows the good lanes and brings the link up with a
partner of the other position; with one of the same position SUP_STRAP_CLASH reads 1. FENCE_TEST_PULSE_END takes the fence
output back and notes the end, and changes no register. FENCE_TEST_REPORT_RECEIVED of the partner's report concludes the test
with what it says; the partner's word that its report was lost fails the test here too; the word that its pulse has ended is
answered, on device 0, with what this device saw. FENCE_TEST_REPORT_TIMEOUT tells the partner and concludes the test with a
pulse not seen. PARTNER_ATTESTATION_RESULT records the partner's verdict, and raises 0x0215 or 0x0216 on a failed one.
PARTNER_ATTESTATION_TIMEOUT ends this device's own attestation with 0x0216 while a request waits, and counts the partner's
verdict as failed with 0x0216 when only that is missing. SPDM_RESPONSE_RECEIVED of a canal's peer goes on with that canal; of
the partner, a bad response ends the attestation with 0x0216, and a good one sends the request that follows, where one does.
Open points in it are the model's choice (log entries 8, 22 and 88). Drawn on: R4, R18, R20, R38, R54, R70, R91, R142, R384,
R385, R448. (00_scope.md, 01_the_brick_and_the_pair.md, 02_links_lands_and_package.md, 03_supplies_modes_and_bringup.md,
05_boot_measurement_and_patches.md, 12_volumes_snapshots_and_canals.md, 14_memories_table_cache_and_dma.md) -/
def Obligations.BringUpStepsOneToFive : Prop :=
  -- DRAM_TRAINING_DONE
  (∀ (rate : BitVec 13) (cap : BitVec 10) (channels : BitVec 4) (s : State), s.bring.active = true → s.bring.dramTrained = false → domOn s 15 = true →
    ∃ t u, exec (.dramTrainingDone true rate cap channels) s = .next t ∧
      t = (s |> setF F.DRC_STATE 2 |> setF F.DRC_RATE_MTS rate.toNat |> setF F.DRC_CAP_GIB cap.toNat |> setF F.DRC_CH_MASK channels.toNat
        |> setF F.DRC_RETIRED_PAGES (s.nv.retired.filter (fun e => e.1 = 3)).length
        |> updBring (fun b => { b with dramTrained := true }) |> fillCellar) ∧
      exec (.dramTrainingDone false rate cap channels) s = .next u ∧ u = (s |> setF F.DRC_STATE 4 |> raise 20 0x0819 3 0xFFFF 0)) ∧
  -- DESCRIPTOR_READ_DONE
  (∀ (bytes : DescBytes) (s : State), s.bring.active = true → s.bring.descRead = false →
    ∃ t, exec (.descriptorReadDone bytes) s = .next t ∧ t.desc = (if descValid bytes then some (descOf bytes) else none)) ∧
  -- DESCRIPTOR_CHECK_RECEIVED
  (∀ (check : BitVec 32) (valid : Bool) (s : State), s.bring.active = true → isSet s F.NAL_UP = true →
    exec (.descriptorCheckReceived check valid) s = .next (bringSpin (checkCompare (updBring (fun b => { b with partnerCheck := some (check.toNat, valid) }) s)))) ∧
  -- NAL_TRAIN_DONE
  (∀ (lanes : BitVec 16) (pos : Bool) (brick : BitVec 17) (recs : List (Nat × Bool × BitVec 16)) (s : State), domOn s 12 = true →
      s.pins.nalTx = true → isSet s (F.CLK_LOCKED 12) = true → isSet s F.SUP_STRAP_FLOAT = false → widthOf lanes ≠ 0 → b2n pos ≠ devNo s →
    exec (.nalTrainDone lanes pos brick recs) s = .next (nalTrained (widthOf lanes) brick recs (setF F.NAL_LANE_GOOD lanes.toNat s))) ∧
  -- NAL_TRAIN_DONE
  (∀ (lanes : BitVec 16) (pos : Bool) (brick : BitVec 17) (recs : List (Nat × Bool × BitVec 16)) (s : State), RegsWf s → domOn s 12 = true →
      s.pins.nalTx = true → isSet s (F.CLK_LOCKED 12) = true → isSet s F.SUP_STRAP_FLOAT = false → widthOf lanes ≠ 0 → b2n pos = devNo s →
      s.pair.clashLogged = true →
    ∃ t, exec (.nalTrainDone lanes pos brick recs) s = .next t ∧ isSet t F.SUP_STRAP_CLASH = true) ∧
  -- FENCE_TEST_PULSE_END
  (∀ s : State, s.pair.test.running = true → s.pair.test.pulsing = true →
    ∃ t, exec .fenceTestPulseEnd s = .next t ∧ t.pair.fenceOut = false ∧ t.pair.test = { s.pair.test with pulsing := false, pulsed := true } ∧ t.regs = s.regs) ∧
  -- FENCE_TEST_REPORT_RECEIVED
  (∀ (saw : Bool) (s : State), s.pair.test.running = true → isSet s F.NAL_UP = true → s.pair.test.pulsed = true →
    exec (.fenceTestReportReceived false false saw) s = .next (testConclude (updPair (fun p => { p with test := { p.test with own := some saw } }) s))) ∧
  -- FENCE_TEST_REPORT_RECEIVED
  (∀ (ended saw : Bool) (s : State), isSet s F.NAL_UP = true →
    ∃ t u, exec (.fenceTestReportReceived true ended saw) s = .next t ∧ t = testLost s ∧ exec (.fenceTestReportReceived false true saw) s = .next u ∧
      (s.pair.test.running = true → devNo s = 0 → u = testConclude (nalSend 1 8 [0, b2n s.pair.test.saw]
        (updPair (fun p => { p with test := { p.test with theirs := some s.pair.test.saw } }) s)))) ∧
  -- FENCE_TEST_REPORT_TIMEOUT
  (∀ s : State, s.pair.test.running = true → s.pair.test.pulsed = true → s.pair.test.own = none →
    exec .fenceTestReportTimeout s = .next (testConclude (updPair (fun p => { p with test := { p.test with own := some false } }) (nalSend 1 8 [2, 0] s)))) ∧
  -- PARTNER_ATTESTATION_RESULT
  (∀ (code : BitVec 16) (s : State), isSet s F.NAL_UP = true → ctlMode s = true →
    ∃ t u, exec (.partnerAttestationResult true code) s = .next t ∧ t = attested (updBring (fun b => { b with attestPartner := some true }) s) ∧
      exec (.partnerAttestationResult false code) s = .next u ∧
      u = attested (raise 0 (if code = 0x0215 then 0x0215 else 0x0216) 2 0xFFFF 0 (updBring (fun b => { b with attestPartner := some false }) s))) ∧
  -- PARTNER_ATTESTATION_TIMEOUT
  (∀ s : State, s.spdm.ask.isSome = true → exec .partnerAttestationTimeout s = .next (attested (attestEnd 0x0216 s))) ∧
  -- PARTNER_ATTESTATION_TIMEOUT
  (∀ s : State, s.spdm.ask = none → s.bring.attestOwn.isSome = true → s.bring.attestPartner = none →
    exec .partnerAttestationTimeout s = .next (attested (raise 0 0x0216 2 0xFFFF 0 (updBring (fun b => { b with attestPartner := some false }) s)))) ∧
  -- SPDM_RESPONSE_RECEIVED
  (∀ (k : Nat) (ok : Bool) (meas : List (List Byte)) (a b c d : Nat) (s : State),
    exec (.spdmResponseReceived (some k) ok meas a b c d) s = .next (canalSpdmStep k (ok && (!wantsMeas s k || measOk s meas a b)) s)) ∧
  -- SPDM_RESPONSE_RECEIVED
  (∀ (code n : Nat) (meas : List (List Byte)) (a b c d : Nat) (s : State), s.spdm.ask = some code →
    exec (.spdmResponseReceived none false meas a b c d) s = .next (attested (attestEnd 0x0216 s)) ∧
    (nextAsk code = some n → exec (.spdmResponseReceived none true meas a b c d) s =
      .next (send (.spdm 3 n []) { s with spdm := { s.spdm with ask := some n } })))

/-- Under conditions on state and operands alone exec answers a next state: VAT_REPLAY_DONE in Bring-up, when the channels are
ready, replays the journal and lets what waits for it go on. MAPS_LOADED after the replay notes the maps, takes the number of
flash pages of each group where none is known, and shows that of group 1. COARSE_CALIBRATION_DONE with the heads loaded at speed
notes the calibration and changes no head record. FULL_CALIBRATION_DONE notes it, counts every own head as calibrated, mirrors
it, and lets the bands that wait for it and the partner know. PARTNER_STEP_REPORT stores the partner's step and mode and lets
what waits for them go on. BRINGUP_COMPLETE in step 13 enters Solo with the trial images confirmed where this device took over,
else Full with a ready partner (confirmed where the partner was in Solo before); in Solo already it ends Bring-up and confirms
the trials. Open points in it are the model's choice (log entries 8, 39 and 76). Drawn on: R88, R91, R92, R134, R225, R409,
R410, R411. (03_supplies_modes_and_bringup.md, 05_boot_measurement_and_patches.md, 07_head_channels.md,
13_flash_tier_disk_runs_and_racking.md) -/
def Obligations.BringUpStepsSixToThirteen : Prop :=
  -- VAT_REPLAY_DONE
  (∀ s : State, s.bring.active = true → s.bring.replayed = false → isSet s F.VAT_READY = true → engOn s 8 = true → channelsReady s = true →
    exec .vatReplayDone s = .next (s |> journalReplay |> roAgain |> updBring (fun b => { b with replayed := true }) |> fastReduction true |> canalsConnect
      |> anaRefresh |> tellStep |> mirrorRise |> bringSpin)) ∧
  -- MAPS_LOADED
  (∀ (lfps : List Nat) (gib : Nat) (base0 base1 : BitVec 64) (s : State), RegsWf s → s.bring.active = true → s.bring.replayed = true →
      s.bring.dramTrained = true → s.bring.maps = false →
    ∃ t, exec (.mapsLoaded lfps gib base0 base1) s = .next t ∧ t.bring.maps = true ∧
      t.tier.lfpCount = (if s.tier.lfpCount = [0, 0] then lfpSize s gib lfps else s.tier.lfpCount) ∧
      rd t (R.FPM_LFPS_LO 1) = BitVec.ofNat 32 (t.tier.lfpCount.getD 1 0)) ∧
  -- COARSE_CALIBRATION_DONE
  (∀ s : State, s.bring.active = true → s.bring.spindle = true → s.bring.coarse = false → isSet s F.SPN_AT_SPEED = true → allLoaded s = true →
    ∃ t, exec .coarseCalibrationDone s = .next t ∧ t.bring = { s.bring with coarse := true } ∧ t.head = s.head) ∧
  -- FULL_CALIBRATION_DONE
  (∀ s : State, s.bring.active = true → s.bring.coarse = true → s.bring.fullCal = false →
    exec .fullCalibrationDone s = .next (tellStep (calBands ((ownHeads s).foldl (fun s h => s |> updHead h (fun x => { x with calRes := some true }) |> mirrorHead h true)
        (updBring (fun b => { b with fullCal := true }) s))))) ∧
  -- PARTNER_STEP_REPORT
  (∀ (step : Fin 14) (pmode : Fin 8) (s : State), isSet s F.NAL_UP = true →
    exec (.partnerStepReport step pmode) s = .next (s |> updBring (fun b => { b with partnerStep := step.val, rejoin := b.rejoin || (b.active && decide (pmode.val = 4)) })
        |> updPair (fun p => { p with partnerMode := pmode.val }) |> mirrorRise |> returnStart |> drainTogether pmode.val)) ∧
  -- BRINGUP_COMPLETE
  (∀ s : State, step13 s = true → mode s = 2 → s.nv.startFallow = false → s.bring.tookOver = true ∨ fullReady s = true →
    exec .bringupComplete s = .next (if s.bring.tookOver then s |> bringDone |> enterSolo |> confirmTrials |> mbxFinish (isModeSet 2) (resStatus 0)
      else s |> bringDone |> enterFull |> (if s.bring.rejoin then confirmTrials else fun s => s))) ∧
  -- BRINGUP_COMPLETE
  (∀ s : State, step13 s = true → mode s = 4 → exec .bringupComplete s = .next (s |> bringDone |> confirmTrials |> anaRefresh))

/-- Under conditions on state and operands alone exec answers a next state: HB_FRAME_TIMER on a live device moves SEQ on by 1 and
sends the frame, and while the heartbeat goes over the link also its message there. HB_FRAME_RECEIVED of a valid frame takes its
SEQ, counts the values skipped and acts on its state. HB_LOSS_TIMEOUT after a first frame, with no loss declared, is a loss.
NAL_HB_MESSAGE_RECEIVED of a valid frame acts on its state. FENCE_IN_ASSERT during the loop test stores the level, notes an
assertion and changes no register; outside it, an assertion on a device that reacts gets the fence reaction, and a release is
stored. Open points in it are the model's choice (log entries 8, 20, 25 and 94). Drawn on: R33, R34, R35, R36, R38, R40, R46.
(01_the_brick_and_the_pair.md) -/
def Obligations.HeartbeatAndFence : Prop :=
  -- HB_FRAME_TIMER
  (∀ s : State, live s = true →
    ∃ t, exec .hbFrameTimer s = .next t ∧ t.pair.hbSeq = s.pair.hbSeq + 1 ∧
      (s.pair.hbViaNal = false → t.outbox = s.outbox ++ [.hbFrame (hbWord s)]) ∧
      (s.pair.hbViaNal = true → t.outbox = (nalSend 1 7 [(hbWord s).toNat] (send (.hbFrame (hbWord s)) s)).outbox)) ∧
  -- HB_FRAME_RECEIVED
  (∀ (w : BitVec 16) (s : State), live s = true → hbValid w = true →
    exec (.hbFrameReceived w) s = .next (hbTake w (updPair (fun p => { p with hbRxSeq := some (BitVec.ofNat 4 (bitsAt w.toNat 4 4)) })
      (if domOn s 12 then count R.NAL_HB_SEQ_SKIP_LO (hbSkipped s w) s else s)))) ∧
  -- HB_LOSS_TIMEOUT
  (∀ s : State, live s = true → s.pair.hbSeen = true → s.pair.hbLost = false → exec .hbLossTimeout s = .next (hbLoss s)) ∧
  -- NAL_HB_MESSAGE_RECEIVED
  (∀ (w : BitVec 16) (s : State), isSet s F.NAL_UP = true → hbValid w = true → exec (.nalHbMessageReceived w) s = .next (hbTake w s)) ∧
  -- FENCE_IN_ASSERT
  (∀ (level : Bool) (s : State), s.pair.test.running = true → live s = true →
    ∃ t, exec (.fenceInAssert level) s = .next t ∧ t.pair.fenceIn = level ∧ t.pair.test.saw = (level || s.pair.test.saw) ∧ t.regs = s.regs) ∧
  -- FENCE_IN_ASSERT
  (∀ s : State, s.pair.test.running = false → live s = true → fenceReacts s = true →
    exec (.fenceInAssert true) s = .next (fenceReaction (updPair (fun p => { p with fenceIn := true }) s))) ∧
  -- FENCE_IN_ASSERT
  (∀ s : State, exec (.fenceInAssert false) s = .next (updPair (fun p => { p with fenceIn := false }) s))

/-- Under conditions on state and operands alone exec answers a next state: NAL_PING_RECEIVED in a control mode with the link up,
the link driven and the cores not wedged is answered, and the first one raises the heartbeat fault and moves the heartbeat to
the link. PING_REPLY_RECEIVED in the ping step ends the takeover likewise. TAKEOVER_PING_TIMEOUT goes to the fence step where
the device may take over, else ends. TAKEOVER_FENCE_HOLDOFF_EXPIRY reacts to the partner's fence, else asserts its own.
TAKEOVER_ARBITRATION_END reacts to the partner's fence, else has won. TAKEOVER_CHANNELS_ACQUIRED notes step 9 and stays in the
won step. ACTUATOR_CATCH_DONE of an actuator whose bridge is driven sets VCM_STATE 3 and ends its catch. ACTUATOR_CATCH_TIMEOUT
ends the catch with VCM_STATE 5, VCM_LOAD 0 and 0x033C. TAKEOVER_REPLAY_DONE after step 9 adopts what the partner left, gains
the groups taken over and ends the takeover. Open points in it are the model's choice (log entries 8, 23, 24, 110 and 112).
Drawn on: R39, R40, R42, R46, R290, R408, R532. (01_the_brick_and_the_pair.md, 09_motion_control.md,
13_flash_tier_disk_runs_and_racking.md) -/
def Obligations.TakeoverEvents : Prop :=
  -- NAL_PING_RECEIVED
  (∀ s : State, isSet s F.NAL_UP = true → ctlMode s = true → s.pins.nalTx = true → s.pwr.wedged = false → s.pair.hbViaNal = true →
    exec .nalPingReceived s = .next (nalSend 1 6 [] s)) ∧
  -- NAL_PING_RECEIVED
  (∀ s : State, isSet s F.NAL_UP = true → ctlMode s = true → s.pins.nalTx = true → s.pwr.wedged = false → s.pair.hbViaNal = false →
    exec .nalPingReceived s = .next (hbFault (updPair (fun p => { p with hbViaNal := true }) (nalSend 1 6 [] s)))) ∧
  -- PING_REPLY_RECEIVED
  (∀ s : State, isSet s F.NAL_UP = true → s.pair.take = .ping →
    exec .pingReplyReceived s = .next (hbFault (updPair (fun p => { p with take := .idle, hbViaNal := true, hbLost := false }) s))) ∧
  -- TAKEOVER_PING_TIMEOUT
  (∀ s : State, s.pair.take = .ping →
    exec .takeoverPingTimeout s = .next (if mayTakeOver s then fenceStep s else updPair (fun p => { p with take := .idle }) s)) ∧
  -- TAKEOVER_FENCE_HOLDOFF_EXPIRY
  (∀ s : State, s.pair.take = .holdoff →
    exec .takeoverFenceHoldoffExpiry s = .next (if s.pair.fenceIn then fenceReaction s else updPair (fun p => { p with take := .fence, fenceOut := true }) s)) ∧
  -- TAKEOVER_ARBITRATION_END
  (∀ s : State, s.pair.take = .fence → s.pair.takeSolo = false ∨ isSet s F.SUP_STRAP_CLASH = false →
    exec .takeoverArbitrationEnd s = .next (if s.pair.fenceIn then fenceReaction s else takeoverWon s)) ∧
  -- TAKEOVER_CHANNELS_ACQUIRED
  (∀ (left : FlashMeta) (busy : List Nat) (erasing : List (Nat × Nat × Nat)) (s : State), s.pair.take = .won → s.pair.takeStepsDone.contains 9 = false →
    ∃ t, exec (.takeoverChannelsAcquired left busy erasing) s = .next t ∧ t.pair.takeStepsDone = s.pair.takeStepsDone ++ [9] ∧ t.pair.take = .won) ∧
  -- ACTUATOR_CATCH_DONE
  (∀ (a : Fin 4) (s : State), RegsWf s → s.pair.catching.contains a.val = true → getF s (F.VCM_STATE a.val) = 2 ∨ getF s (F.VCM_STATE a.val) = 3 →
    ∃ t, exec (.actuatorCatchDone a) s = .next t ∧ getF t (F.VCM_STATE a.val) = 3 ∧ t.pair.catching = s.pair.catching.filter (fun b => b ≠ a.val)) ∧
  -- ACTUATOR_CATCH_TIMEOUT
  (∀ (a : Fin 4) (s : State), s.pair.catching.contains a.val = true →
    exec (.actuatorCatchTimeout a) s = .next (s |> updPair (fun p => { p with catching := p.catching.filter (fun b => b ≠ a.val) })
        |> setF (F.VCM_STATE a.val) 5 |> setF (F.VCM_LOAD a.val) 0 |> raise 8 0x033C 2 a.val 0)) ∧
  -- TAKEOVER_REPLAY_DONE
  (∀ (left : FlashMeta) (s : State), s.pair.take = .won → s.pair.takeStepsDone.contains 9 = true → isSet s F.VAT_READY = true →
    exec (.takeoverReplayDone left) s = .next (s |> adopt left |> (fun s => s.pair.takeGroups.foldl (fun s g => gainGroup g s) s)
        |> updPair (fun p => { p with take := .idle, takeStepsDone := [], takeGroups := [] }) |> anaRefresh |> requestsTaken))

/-- Under conditions on state and operands alone exec answers a next state: TOKEN_RELEASE_START of a token ready to be given
releases it, for an actuator with its heads off the disk. TOKEN_RELEASE_RECEIVED of a token of the partner's, at an epoch not
older than the record's, is committed on a willing device; a repeated one of a token that this device holds at the next epoch is
acknowledged again where the shared resources may be used. TAKE_ACK_RECEIVED at the next epoch makes the partner the owner,
takes away what the token carries and lets the giving go on. REFUSE_RECEIVED of the record's epoch makes this device the owner
again at the next epoch: a volume group is served again, an actuator or a channel is gained. TOKEN_QUERY_TIMER of a releasing
token sends the query. TOKEN_QUERY_RECEIVED is acknowledged where this device took the token at the next epoch and may use the
shared resources, is left without an answer where it may not, and is refused otherwise. Open points in it are the model's choice
(log entries 7, 8, 26 and 113). Drawn on: R29, R30, R31, R50. (01_the_brick_and_the_pair.md) -/
def Obligations.TokenTransfers : Prop :=
  -- TOKEN_RELEASE_START
  (∀ (t : Fin 64) (s : State), giveReady s t.val = true → 4 ≤ t.val ∨ headsOut s t.val = false → exec (.tokenReleaseStart t) s = .next (tokRelease t.val s)) ∧
  -- TOKEN_RELEASE_RECEIVED
  (∀ (t : Fin 64) (e : BitVec 16) (left : FlashMeta) (s : State), isSet s F.NAL_UP = true → isSet s F.VAT_READY = true → tokUsed t.val = true →
      (tok s t.val).state = .partner → newer 16 (tok s t.val).epoch.toNat e.toNat = false → willing s = true →
    exec (.tokenReleaseReceived t e left) s = .next (commitToken t.val e (adopt left s))) ∧
  -- TOKEN_RELEASE_RECEIVED
  (∀ (t : Fin 64) (e : BitVec 16) (left : FlashMeta) (s : State), isSet s F.NAL_UP = true → isSet s F.VAT_READY = true → tokUsed t.val = true →
      (tok s t.val).state = .owned ∨ (tok s t.val).state = .releasing → (tok s t.val).epoch = e + 1 →
    exec (.tokenReleaseReceived t e left) s = .next (if sharedOk s then takeAck t.val (e + 1) s else s)) ∧
  -- TAKE_ACK_RECEIVED
  (∀ (t : Fin 64) (e : BitVec 16) (s : State), isSet s F.NAL_UP = true → (tok s t.val).state = .releasing → e = (tok s t.val).epoch + 1 →
    exec (.takeAckReceived t e) s = .next (s |> setTok t.val ⟨.partner, 1 - devNo s, e⟩ |> loseToken t.val
        |> updPair (fun p => { p with give := p.give.filter (fun x => x ≠ t.val) }) |> anaRefresh |> gaveToken)) ∧
  -- REFUSE_RECEIVED
  (∀ (t : Fin 64) (s : State), isSet s F.NAL_UP = true → (tok s t.val).state = .releasing →
    sharedOk s = true → 4 ≤ t.val → t.val < 8 →
    exec (.refuseReceived t (tok s t.val).epoch) s = .next (anaRefresh (groupHoldSet (t.val - 4) false (setTok t.val ⟨.owned, devNo s, (tok s t.val).epoch + 1⟩ s)))) ∧
  -- REFUSE_RECEIVED
  (∀ (t : Fin 64) (s : State), isSet s F.NAL_UP = true → (tok s t.val).state = .releasing → t.val < 4 ∨ 8 ≤ t.val → sharedOk s = true →
    exec (.refuseReceived t (tok s t.val).epoch) s = .next (anaRefresh ((if t.val < 4 then gainActuator t.val false else gainChannel (t.val - 8))
      (setTok t.val ⟨.owned, devNo s, (tok s t.val).epoch + 1⟩ s)))) ∧
  -- TOKEN_QUERY_TIMER
  (∀ (t : Fin 64) (s : State), (tok s t.val).state = .releasing →
    exec (.tokenQueryTimer t) s = .next (nalSend 1 4 [t.val, (tok s t.val).epoch.toNat] s)) ∧
  -- TOKEN_QUERY_RECEIVED
  (∀ (t : Fin 64) (e : BitVec 16) (s : State), isSet s F.NAL_UP = true → isSet s F.VAT_READY = true → tokUsed t.val = true →
    exec (.tokenQueryReceived t e) s = .next (if tookIt (tok s t.val) e then (if sharedOk s then takeAck t.val (e + 1) s else s) else refuseToken t.val e s))

/-- Under conditions on state and operands alone exec answers a next state: SPEED_LOOP_SAMPLE shows the speed, and on a device that
drives its winding set runs the master's sample with token 0 and the follower's without. TORQUE_RECEIVED of a message newer than
the one applied, on the follower at speed, applies its number and its command, clears the count of missed ones and changes no
register. HANDOVER in Full with a partner in Full, a wide enough link, no handover under way and no other protocol range answers
0 and notes the step and the tokens to give. HANDOVER_DRAIN_DONE with the groups drained goes to step 3. COIL_BLEND_START of an
actuator ready to be given with heads loaded and no band starts the blend. VCM_CURRENT_CMD_RECEIVED on the receiver sets
VCM_ICMD, state 3 and the blend's command. COIL_BLEND_RAMP_END of the giver notes the ramp and releases the token.
BACKUP_BRIDGE_TIMEOUT of the receiver without the token retracts the actuator and ends the blend. Open points in it are the
model's choice (log entries 8, 21, 27, 28, 29 and 105). Drawn on: R47, R48, R50, R51, R271, R280, R289.
(01_the_brick_and_the_pair.md, 09_motion_control.md) -/
def Obligations.TorqueHandoverAndBlend : Prop :=
  -- SPEED_LOOP_SAMPLE
  (∀ s : State, motOn s = true →
    exec .speedLoopSample s = .next (if setDrives (speedShow (speed16 s) s)
      then (if owns (speedShow (speed16 s) s) 0 then masterSample (speed16 s) (speedShow (speed16 s) s) else followSample (speed16 s) (speedShow (speed16 s) s))
      else speedShow (speed16 s) s)) ∧
  -- TORQUE_RECEIVED
  (∀ (n cmd : BitVec 16) (s : State), isSet s F.NAL_UP = true → owns s 0 = false → partnerSpins s = true →
      s.pair.torqueApplied.all (fun a => newer 16 n.toNat a.toNat) = true → isSet s F.NAL_TORQUE_LOCAL = false → spnState s = 5 →
    ∃ t, exec (.torqueReceived n cmd) s = .next t ∧ t.pair.torqueApplied = some n ∧ t.pair.torqueCmd = cmd.toInt ∧ t.pair.torqueMissed = 0 ∧ t.regs = s.regs) ∧
  -- HANDOVER
  (∀ (m : Fin 16) (s : State), Units s → mbxRuns s m 0x0A00 → mode s = 3 → s.pair.partnerMode = 3 → isSet s F.NAL_UP = true → s.pair.handover = none →
      3 ≤ getF s F.NAL_WIDTH → s.pair.partnerProto = none →
    ∃ t, exec (.handover m) s = .next t ∧ mbxAnswered t m 0 ∧ t.pair.handover = some ⟨true, 2⟩ ∧ t.pair.give = giveAll s) ∧
  -- HANDOVER_DRAIN_DONE
  (∀ s : State, s.pair.handover = some ⟨true, 2⟩ → groupsDrained s = true →
    exec .handoverDrainDone s = .next (updPair (fun p => { p with handover := some ⟨true, 3⟩ }) s)) ∧
  -- COIL_BLEND_START
  (∀ (a : Fin 4) (s : State), giveReady s a.val = true → headsLoaded s a.val = true → (bandOf s a.val).isNone = true →
      s.pair.blends.getD a.val none = none →
    exec (.coilBlendStart a) s = .next (updPair (fun p => { p with blends := setAt p.blends a.val (some ⟨true, 0, s.now.toNat, false⟩) }) s)) ∧
  -- VCM_CURRENT_CMD_RECEIVED
  (∀ (a : Fin 4) (cmd : BitVec 16) (sect : List (List Int)) (s : State), RegsWf s → Units s → isSet s F.NAL_UP = true → motOn s = true →
      owns s a.val = false → fittedAct s a.val = true → domOn s (2 + a.val) = true →
    ∃ t, exec (.vcmCurrentCmdReceived a cmd sect) s = .next t ∧ getF t (F.VCM_ICMD a.val) = cmd.toNat ∧ getF t (F.VCM_STATE a.val) = 3 ∧
      t.pair.blends = setAt s.pair.blends a.val (some ⟨false, cmd.toInt, s.now.toNat, false⟩)) ∧
  -- COIL_BLEND_RAMP_END
  (∀ (a : Fin 4) (b : Blend) (s : State), s.pair.blends.getD a.val none = some b → b.giving = true → b.ramped = false → owns s a.val = true →
      isSet s F.NAL_UP = true →
    exec (.coilBlendRampEnd a) s = .next (tokRelease a.val (updPair (fun p => { p with blends := setAt p.blends a.val (some { b with ramped := true }) }) s))) ∧
  -- BACKUP_BRIDGE_TIMEOUT
  (∀ (a : Fin 4) (b : Blend) (s : State), s.pair.blends.getD a.val none = some b → b.giving = false → owns s a.val = false →
    exec (.backupBridgeTimeout a) s = .next (retract a.val (updPair (fun p => { p with blends := setAt p.blends a.val none }) s)))

/-- Under conditions on state and operands alone exec answers a next state: WEDGE_SAMPLE of a fitted head with its domain on
demodulates the wedge, shows wedge, flags and PES (a free PES where the wedge was missed), counts a gray-code error, counts the
wedge as missed or valid, runs the micro-actuator's sample, sets HC_WR_UNSAFE exactly where the wedge was missed or the PES is
beyond FS_WU_LIMIT, keeps the sample word, takes the write gate off at the wedge of a writing head, and stops the head where it
is unsafe, else gates a writing head on again. FS_ZT_COMMIT that the checks let through commits the zone memory.
ZONE_MEMORY_WRITE by a control core that the checks let through stores the word's four bytes, low byte first, and changes no
other byte of memory. Open points in it are the model's choice (log entries 8, 16, 64, 120 and 122). Drawn on: R219, R234, R235,
R245, R246. (07_head_channels.md, 08_servo_bands_and_format_sequencers.md) -/
def Obligations.ServoWedgesAndZones : Prop :=
  -- WEDGE_SAMPLE
  (∀ (h : Fin 144) (g : Wedge) (s : State), domOn s (2 + actOf h.val) = true → fitted s h.val = true →
    let a := actOf h.val
    let r := demod s h.val g
    let missed := missFlags r.1
    let s1 := s |> setF (F.FS_SRV_WEDGE a (h.val % 36)) r.2.2.2.1 |> setF (F.FS_SRV_FLAGS a (h.val % 36)) r.1
        |> (if missed then freeF (F.FS_SRV_PES a (h.val % 36)) else setF (F.FS_SRV_PES a (h.val % 36)) (unsgn 16 r.2.2.1))
        |> (if bitAt r.1 4 then srvStat h.val 2 else fun s => s)
        |> (if missed then wedgeMissed h.val else wedgeValid h.val r.2.1 r.2.2.1)
        |> maSample h.val r.2.2.2.1 (max 1 ((s.desc.map (fun d => d.wedges)).getD 1)) missed r.2.2.1
        |> setB (F.HC_WR_UNSAFE h.val) (missed || decide (getF s (F.FS_WU_LIMIT a) < r.2.2.1.natAbs))
    let pos := if missed then (takeFree s1).1.toNat % 2 ^ 50 else r.2.2.2.2 * 2 ^ 16 + unsgn 16 r.2.2.1
    let s2 := updHead h.val (fun x => { x with sample := h.val * 2 ^ 120 + r.2.2.2.1 * 2 ^ 110 + r.1 * 2 ^ 104 + pos * 2 ^ 54 + s.now.toNat % 2 ^ 32 })
        (if missed then (takeFree s1).2 else s1)
    let s3 := if writing s h.val then send (.writeGate h.val false) s2 else s2
    exec (.wedgeSample h g) s = .next (if isSet s3 (F.HC_WR_UNSAFE h.val) then stopHead h.val s3
      else if writing s3 h.val then send (.writeGate h.val true) s3 else s3)) ∧
  -- FS_ZT_COMMIT
  (∀ (p : Path) (a : Fin 4) (s : State), writeGoes p (R.FS_ZT_CTL a.val) 1 s →
    exec (.fsZtCommit p a) s = .next (busAnswer p (R.FS_ZT_CTL a.val) 0 0 (zoneCommit a.val s))) ∧
  -- ZONE_MEMORY_WRITE
  (∀ (a : Fin 4) (k : Fin 8128) (w : BitVec 32) (s : State), MemWf s → writeGoes .core (0x1E0000 + 0x8000 * a.val + 4 * k.val) w s →
    ∃ t, exec (.zoneMemoryWrite .core a k w) s = .next t ∧
      (∀ j, j < 4 → memByte t (space 6 (a.val * 0x8000 + 4 * k.val) + j) = (leBytes 4 w.toNat).getD j 0) ∧
      (∀ x, x < space 6 (a.val * 0x8000 + 4 * k.val) ∨ space 6 (a.val * 0x8000 + 4 * k.val) + 4 ≤ x → memByte t x = memByte s x))

/-- Under conditions on state and operands alone exec answers a next state: SECTOR_FRAMED of a sector that an armed read still
wants, with no other sector of the head under way, begins it: framed it is the head's current sector (a second-mark framing
counted), not framed it goes to the ladder. TA_START above the threshold for long enough opens an asperity, adds its place and
sets HC_FLT_TA; TA_END closes it with its end and changes no register. SECTOR_END of a current sector queues its eight codewords
with the soft values of its symbols, deinterleaved, when the queue has room for them, and leaves the decoder pool as it is when
not. DECODER_TAKE of a free decoder takes the oldest codeword. CODEWORD_DECODE_DONE keeps the codeword's bytes when the decoding
succeeds and settles the sector; a failure is counted and put into the retry store on a first pass, and the codeword has failed.
RETRY_STORE_REDECODE of a waiting codeword, with the queue at or below its level, gives it to a free decoder with the limit
DEC_ITER_MAX. Open points in it are the model's choice (log entries 8, 58, 60, 118 and 119). Drawn on: R204, R207, R208, R209,
R210, R211, R214. (07_head_channels.md) -/
def Obligations.SectorsAndDecoders : Prop :=
  -- SECTOR_FRAMED
  (∀ (h : Fin 144) (k : Fin 1024) (g : SectorHead) (b : Band) (s : State), bandOf s (actOf h.val) = some b → b.armed = true →
      bandOp b = 3 → headReads s h.val = true → b.left.contains (h.val % 36, k.val) = true → (headOf s h.val).cur = none → (headOf s h.val).pool = [] →
      (headOf s h.val).ladder = [] → (headOf s h.val).complete = [] →
    let sid := sidOf h.val (trackOf s (actOf h.val) (bdBand b) (h.val % 36)) k.val (bdTag b)
    let r := sectorHead h.val 0 g s
    let f := if s.tier.misrecorded.contains (actOf h.val, bdBand b) then 0 else r.1
    let z : SectorRd := ⟨sid, none, f, [], [0, 1, 2, 3, 4, 5, 6, 7], 0, (headOf s h.val).ord⟩
    let s2 := updHead h.val (fun y => { y with reread := y.reread.filter (fun z => z.sid ≠ sid), ord := y.ord + 1 }) r.2
    exec (.sectorFramed h k g) s = .next (if f = 0 then s2 |> toLadder h.val z |> sectorLeave h.val
      else s2 |> updHead h.val (fun y => { y with cur := some { z with failed := [] } }) |> setF (F.HC_STATE h.val) 2
        |> (if f = 2 then smFallback h.val else fun s => s))) ∧
  -- TA_START
  (∀ (h : Fin 144) (place : Nat) (mean : Int) (run : Nat) (s : State), RegsWf s → Units s → domOn s (2 + actOf h.val) = true →
      isSet s (F.HC_TA_EN h.val) = true → (headOf s h.val).ta = false → getF s (F.HC_TA_THRESH h.val) < mean.natAbs → getF s (F.HC_TA_MIN h.val) ≤ run →
    ∃ t, exec (.taStart h place mean run) s = .next t ∧ (headOf t h.val).ta = true ∧ (headOf t h.val).asp = (headOf s h.val).asp ++ [(place, none)] ∧
      isSet t (F.HC_FLT_TA h.val) = true) ∧
  -- TA_END
  (∀ (h : Fin 144) (place : Nat) (mean : Int) (run : Nat) (s : State), Units s → (headOf s h.val).ta = true →
      2 * mean.natAbs ≤ getF s (F.HC_TA_THRESH h.val) → 64 ≤ run →
    ∃ t, exec (.taEnd h place mean run) s = .next t ∧ (headOf t h.val).ta = false ∧
      (headOf t h.val).asp = (headOf s h.val).asp.map (fun e => (e.1, e.2.or (some place))) ∧ t.regs = s.regs) ∧
  -- SECTOR_END
  (∀ (h : Fin 144) (f0 : List Int) (parts : List SectorPart) (x : SectorRd) (s : State),
      (headOf s h.val).cur = some x → s.pool.queue.length ≤ 88 →
    ∃ t, exec (.sectorEnd h f0 parts) s = .next t ∧
      t.pool.queue = s.pool.queue ++ (List.range 8).map (fun k => (⟨h.val, x.sid, k, false, deinterleave k (sectorBody h.val 0 f0 parts s).1, false⟩ : Cw)) ∧
      t.pool.active = s.pool.active ∧ t.pool.retry = s.pool.retry) ∧
  -- SECTOR_END
  (∀ (h : Fin 144) (f0 : List Int) (parts : List SectorPart) (x : SectorRd) (s : State),
      (headOf s h.val).cur = some x → 88 < s.pool.queue.length →
    ∃ t, exec (.sectorEnd h f0 parts) s = .next t ∧ t.pool = s.pool) ∧
  -- DECODER_TAKE
  (∀ (d : Fin 80) (c : Cw) (r : List Cw) (s : State), s.pool.queue = c :: r → decFree s d.val = true →
    ∃ t, exec (.decoderTake d) s = .next t ∧ t.pool.queue = r ∧ (∃ j, t.pool.active = s.pool.active ++ [j] ∧ j.dec = d.val ∧ j.cw = c)) ∧
  -- CODEWORD_DECODE_DONE
  (∀ (d : Fin 80) (j : DecJob) (s : State), s.pool.active.find? (fun j => j.dec = d.val) = some j → j.cw.retry = true → j.busy = false →
    let s1 := poolShow { s with pool := { s.pool with active := s.pool.active.filter (fun x => x.dec ≠ d.val) } }
    exec (.codewordDecodeDone d) s = .next (
      match decode j.cw.sid j.cw.k j.limit j.cw.llr with
      | some b => s1 |> cwKept j.cw.head j.cw.sid j.cw.k b |> sectorSettle j.cw.head j.cw.sid
      | none => cwFailed j.cw s1)) ∧
  -- CODEWORD_DECODE_DONE
  (∀ (d : Fin 80) (j : DecJob) (s : State), s.pool.active.find? (fun j => j.dec = d.val) = some j → j.cw.retry = false → j.busy = false →
    let s1 := poolShow { s with pool := { s.pool with active := s.pool.active.filter (fun x => x.dec ≠ d.val) } }
    exec (.codewordDecodeDone d) s = .next (
      match decode j.cw.sid j.cw.k j.limit j.cw.llr with
      | some b => s1 |> cwKept j.cw.head j.cw.sid j.cw.k b |> sectorSettle j.cw.head j.cw.sid
      | none => s1 |> count R.DEC_FAIL_LO 1 |> storePut j.cw false |> cwFailed j.cw)) ∧
  -- RETRY_STORE_REDECODE
  (∀ (d : Fin 80) (c : Cw) (s : State), s.pool.retry.find? (fun c => c.redo) = some c → decFree s d.val = true → s.pool.queue.length ≤ busyLevel s →
    ∃ t, exec (.retryStoreRedecode d) s = .next t ∧ t.pool.queue = s.pool.queue ∧
      t.pool.active = s.pool.active ++ [⟨d.val, c, iterLimit s F.DEC_ITER_MAX, false⟩] ∧
      t.pool.retry = s.pool.retry.map (fun x => if x.head = c.head ∧ x.sid = c.sid ∧ x.k = c.k then { x with redo := false } else x))

/-- Under conditions on state and operands alone exec answers a next state: LADDER_STEP of the ladder's first sector (its head
reading, or at step 8 or 12) reads it again; with no codeword left the sector is good, else it goes behind the others with the
next step where one follows and is lost where none does. LADDER_ABANDON of a head that is not admitted or not owned ends every
sector of its ladder as lost. WRITE_UNSAFE of a writing head acts on the condition. HEATER_LEAD_EXPIRY of a head of an armed
write notes that the heater has settled and changes no register. Open points in it are the model's choice (log entries 8, 59,
119 and 120). Drawn on: R216, R219, R220, R222, R223, R224. (07_head_channels.md) -/
def Obligations.LadderAndWriteUnsafe : Prop :=
  -- LADDER_STEP
  (∀ (h : Fin 144) (x : SectorRd) (rest : List SectorRd) (g : SectorHead) (f0 : List Int) (parts : List SectorPart) (s : State),
      (headOf s h.val).ladder = x :: rest → x.sid < 2 ^ 64 → domOn s (2 + actOf h.val) = true → headReads s h.val = true ∨ x.step = 8 ∨ x.step = 12 →
    let s1 := ladderRead h.val x g f0 parts s
    ∃ t, exec (.ladderStep h (BitVec.ofNat 64 x.sid) g f0 parts) s = .next t ∧
      (∀ y r, (headOf s1 h.val).ladder = y :: r → y.failed = [] → t = ladderShow h.val (sectorGood h.val y s1)) ∧
      (∀ y r n, (headOf s1 h.val).ladder = y :: r → y.failed ≠ [] → nextStep s h.val x.step = some n →
        t = ladderShow h.val (updHead h.val (fun z => { z with ladder := r ++ [{ y with step := n }] }) s1)) ∧
      (∀ y r, (headOf s1 h.val).ladder = y :: r → y.failed ≠ [] → nextStep s h.val x.step = none → t = ladderShow h.val (sectorLost h.val y true s1))) ∧
  -- LADDER_ABANDON
  (∀ (h : Fin 144) (s : State), isSet s (F.HC_ADMITTED h.val) = false ∨ owns s (actOf h.val) = false →
    exec (.ladderAbandon h) s = .next (ladderShow h.val ((headOf s h.val).ladder.foldl (fun s x => sectorLost h.val x false s) s))) ∧
  -- WRITE_UNSAFE
  (∀ (h : Fin 144) (s : State), writing s h.val = true → exec (.writeUnsafe h) s = .next (unsafeAct h.val s)) ∧
  -- HEATER_LEAD_EXPIRY
  (∀ (h : Fin 144) (b : Band) (s : State), Units s → bandOf s (actOf h.val) = some b → b.armed = true → bandOp b = 2 → bitAt b.mask (h.val % 36) = true →
    ∃ t, exec (.heaterLeadExpiry h) s = .next t ∧ (headOf t h.val).htrSettled = true ∧ t.regs = s.regs)

/-- Under conditions on state and operands alone exec answers a next state: HEATER_CAL_STEP ends the calibration at contact (a gain
of the last revolution differing by more than 8) with the read and write powers set below the power reached, ends it without
contact at HC_HTR_MAX with the former power, and otherwise raises the power by 1 and keeps the gain. HC_CALIBRATE of the channel
alone, for fitted and owned heads with no calibration under way, returns the mask of the heads that calibrated. HC_SERVICE out
takes HC_EN of the head to 0 and answers 0; in sets it, lifts the escalations of 0x0312 and 0x0320 and answers 0. HC_STATS
returns the head's counters. HC_COMMIT that the checks let through commits the head channels of the actuators that it names.
Open points in it are the model's choice (log entries 8 and 58). Drawn on: R217, R226, R482, R505. (07_head_channels.md,
15_faults_and_safe_reactions.md, 16_register_map.md) -/
def Obligations.HeadChannelCommands : Prop :=
  -- HEATER_CAL_STEP
  (∀ (h : Fin 144) (gain margin allowance : BitVec 8) (c : HtrCal) (s : State), (headOf s h.val).cal = some c →
    let recent := c.gains.filter (fun e => decide (s.now.toNat ≤ e.1 + revNs s))
    let far := recent.any (fun e => decide (8 < ((e.2 : Int) - gain.toNat).natAbs))
    ∃ t, exec (.heaterCalStep h gain margin allowance) s = .next t ∧
      (far = true → t = (s |> setF (F.HC_HTR_READ h.val) (c.power - margin.toNat)
        |> setF (F.HC_HTR_WRITE h.val) (c.power - margin.toNat - allowance.toNat) |> heater h.val (c.power - margin.toNat) |> calEnd h.val true c.channel)) ∧
      (far = false → getF s (F.HC_HTR_MAX h.val) ≤ c.power → t = (s |> heater h.val c.prev |> calEnd h.val false c.channel)) ∧
      (far = false → c.power < getF s (F.HC_HTR_MAX h.val) → t = (s |> updHead h.val (fun x => { x with cal := some { c with power := c.power + 1, gains := (s.now.toNat, gain.toNat) :: recent } })
        |> heater h.val (c.power + 1)))) ∧
  -- HC_CALIBRATE
  (∀ (m : Fin 16) (channel : BitVec 144) (s : State), Units s → mbxRuns s m 0x0300 → par (mbxAt s m).cmd 0 8 = 1 →
      (headMask (mbxAt s m).cmd.data).all (fun h => fitted s h && owns s (actOf h) && (headOf s h).cal.isNone) = true →
    ∃ t, exec (.hcCalibrate m channel) s = .next t ∧
      mbxReturns t m (leBytes 18 ((headMask (mbxAt s m).cmd.data).foldl (fun n h => if channel.getLsbD h then n + 2 ^ h else n) 0))) ∧
  -- HC_SERVICE
  (∀ (m : Fin 16) (s : State), Units s → RegsWf s → mbxRuns s m 0x0301 → par (mbxAt s m).cmd 0 8 < 144 → fitted s (par (mbxAt s m).cmd 0 8) = true →
      par (mbxAt s m).cmd 8 1 = 0 →
    ∃ t, exec (.hcService m) s = .next t ∧ mbxAnswered t m 0 ∧ isSet t (F.HC_EN (par (mbxAt s m).cmd 0 8)) = false) ∧
  -- HC_SERVICE
  (∀ (m : Fin 16) (s : State), Units s → mbxRuns s m 0x0301 → par (mbxAt s m).cmd 0 8 < 144 → fitted s (par (mbxAt s m).cmd 0 8) = true →
      par (mbxAt s m).cmd 8 1 = 1 →
    ∃ t, exec (.hcService m) s = .next t ∧ mbxAnswered t m 0 ∧
      t.regs = (setF (F.HC_EN (par (mbxAt s m).cmd 0 8)) 1 s |> liftEscalation 0x0312 (par (mbxAt s m).cmd 0 8) |> liftEscalation 0x0320 (par (mbxAt s m).cmd 0 8)).regs) ∧
  -- HC_STATS
  (∀ (m : Fin 16) (s : State), Units s → mbxRuns s m 0x0302 → par (mbxAt s m).cmd 0 8 < 144 →
    ∃ t, exec (.hcStats m) s = .next t ∧ mbxReturns t m ((headOf s (par (mbxAt s m).cmd 0 8)).stats.flatMap (leBytes 8))) ∧
  -- HC_COMMIT
  (∀ (p : Path) (w : BitVec 4) (s : State), writeGoes p R.HC_GCTL (w.zeroExtend 32) s →
    exec (.hcCommit p w) s = .next (busAnswer p R.HC_GCTL 0 0 ((List.range 4).foldl (fun s a => if w.getLsbD a then hcCommit a s else s) s)))

/-- Under conditions on state and operands alone exec answers a next state: Each is stated for the word that a sequencer runs and
whose action has not been performed. NOP only notes the action. ALU and ALUI store a result that the operation gives in the
destination with Z and N of it and change no register of the block; ALU does what the operation says for every operand. ZLOAD
takes the zone number modulo 24. PACMD sends the frame to the preamplifiers that the mask names. ARM stores the descriptor from
the registers and arms the band, as a write or as a read. GATE of an armed write on an owned actuator with a permitted start, no
disk wait and no held clock raises the heater lines of the band's heads, notes the band as gated, checks each head and opens the
gates that may open. POST ends the band with its record. FETCH, not held and with no band under way, takes a descriptor. SEEK on
an owned actuator with heads loaded sets VCM_TARGET to the low 24 bits and VCM_STATE 2. HALT stops the sequencer with FS_STATE
0. Open points in it are the model's choice (log entries 8, 43 and 62). Drawn on: R243, R248, R249, R251, R252, R254, R293.
(08_servo_bands_and_format_sequencers.md, 09_motion_control.md) -/
def Obligations.SequencerActions : Prop :=
  -- FS_ACT_NOP
  (∀ (a : Fin 4) (w : Nat) (s : State), fsActs s a.val 0 w → exec (.fsActNop a) s = .next (fsActed a.val s)) ∧
  -- FS_ACT_ALU
  (∀ (a : Fin 4) (w : Nat) (v : Word) (s : State), fsActs s a.val 1 w → a.val < s.fs.length → (fsOf s a.val).gr.length = 32 →
      (aluOp (wAlu w) (gr s a.val (wRa w)) (gr s a.val (wRb w))).1 = some v →
    ∃ t, exec (.fsActAlu a) s = .next t ∧ gr t a.val (wRd w) = v ∧ (fsOf t a.val).z = decide (v = 0) ∧ (fsOf t a.val).n = v.msb ∧ t.regs = s.regs) ∧
  -- FS_ACT_ALU
  (∀ (a : Fin 4) (w : Nat) (s : State), fsActs s a.val 1 w →
    exec (.fsActAlu a) s = .next (aluPut a.val (wRd w) (aluOp (wAlu w) (gr (fsActed a.val s) a.val (wRa w)) (gr (fsActed a.val s) a.val (wRb w))) (fsActed a.val s))) ∧
  -- FS_ACT_ALUI
  (∀ (a : Fin 4) (w : Nat) (v : Word) (s : State), fsActs s a.val 2 w → a.val < s.fs.length → (fsOf s a.val).gr.length = 32 →
      (aluOp (wAlu w) (gr s a.val (wRa w)) (BitVec.ofNat 32 (wImm w))).1 = some v →
    ∃ t, exec (.fsActAlui a) s = .next t ∧ gr t a.val (wRd w) = v ∧ (fsOf t a.val).z = decide (v = 0) ∧ (fsOf t a.val).n = v.msb ∧ t.regs = s.regs) ∧
  -- FS_ACT_ZLOAD
  (∀ (a : Fin 4) (w : Nat) (s : State), fsActs s a.val 5 w → a.val < s.fs.length →
    ∃ t, exec (.fsActZload a) s = .next t ∧ (fsOf t a.val).zone = some ((gr s a.val (wRa w)).toNat % 24)) ∧
  -- FS_ACT_PACMD
  (∀ (a : Fin 4) (w : Nat) (s : State), fsActs s a.val 6 w →
    exec (.fsActPacmd a) s = .next ((List.range 4).foldl (fun x j => if bitAt (gr s a.val (wRb w)).toNat (4 * a.val + j)
        then paSend (4 * a.val + j) (gr x a.val (wRa w)).toNat false x else x) (updFs a.val (fun x => { x with paErr := false }) (fsActed a.val s)))) ∧
  -- FS_ACT_ARM
  (∀ (a : Fin 4) (pos w : Nat) (b : Band) (s : State), fsActs s a.val 7 w →
      bandOf (updBand a.val (fun b => { b with desc := { b.desc with bytes := grBytes (fsActed a.val s) a.val (wRa w) 8 } }) (fsActed a.val s)) a.val = some b →
    exec (.fsActArm a pos) s = .next (
      let s1 := updBand a.val (fun b => { b with desc := { b.desc with bytes := grBytes (fsActed a.val s) a.val (wRa w) 8 } }) (fsActed a.val s)
      if bandOp b = 2 then armWrite a.val pos b s1 else armRead a.val b s1)) ∧
  -- FS_ACT_GATE
  (∀ (a : Fin 4) (w : Nat) (b : Band) (s : State), fsActs s a.val 8 w → bandOf s a.val = some b → b.armed = true → bandOp b = 2 → owns s a.val = true →
      s.pwr.diskWait = false → s.pwr.startPermitted = true → heldSafe s (5 + a.val) = false →
    exec (.fsActGate a) s = .next (
      let s0 := fsActed a.val s
      let hs := (maskList b.mask).map (fun i => 36 * a.val + i)
      gateOpen a.val (hs.foldl (fun s h => unsafeAct h s) ({ s0 with pins := { s0.pins with
          hpWr := s0.pins.hpWr.mapIdx (fun h v => v || hs.contains h) } } |> updBand a.val (fun b => { b with gated := true }))))) ∧
  -- FS_ACT_POST
  (∀ (a : Fin 4) (w : Nat) (s : State), fsActs s a.val 9 w →
    exec (.fsActPost a) s = .next (bandEnd a.val (grBytes (fsActed a.val s) a.val (wRa w) 4) (fsActed a.val s))) ∧
  -- FS_ACT_FETCH
  (∀ (a : Fin 4) (w : Nat) (s : State), fsActs s a.val 10 w → isSet s (F.FS_BQ_HOLD a.val) = false → (bandOf s a.val).isSome = false →
    exec (.fsActFetch a) s = .next (takeDesc a.val (wRd w) (fsOf s a.val).queue.length (fsActed a.val s))) ∧
  -- FS_ACT_SEEK
  (∀ (a : Fin 4) (w : Nat) (s : State), RegsWf s → fsActs s a.val 11 w → owns s a.val = true → headsLoaded s a.val = true →
    ∃ t, exec (.fsActSeek a) s = .next t ∧ getF t (F.VCM_TARGET a.val) = (gr s a.val (wRa w)).toNat % 2 ^ 24 ∧ getF t (F.VCM_STATE a.val) = 2) ∧
  -- FS_ACT_HALT
  (∀ (a : Fin 4) (w : Nat) (s : State), RegsWf s → fsActs s a.val 12 w →
    ∃ t, exec (.fsActHalt a) s = .next t ∧ t = fsStop a.val (fsActed a.val s) ∧ getF t (F.FS_STATE a.val) = 0)

/-- Under conditions on state and operands alone exec answers a next state: FS_MCHK_RELOAD_DONE of a sequencer in machine check that
is not stuck loads it. FS_WORD_COMPLETE whose action has run and whose class is met ends the word. FS_WORD_TIMEOUT of a
performed word of a class 3 to 8 with a timeout ends the word as timed out. FS_RESUME and FS_HALT that the checks let through
resume and halt. FS_TRC_FREEZE_WRITE by a control core makes FROZEN and FREEZE read what was written. FS_TRC_DATA_READ that the
checks let through answers the trace word at the read pointer and moves on. FS_ZONE_LOAD for an owned actuator with no band
under way answers the status of the table's check. FS_TRACE_READ of 1 to 62 entries returns the trace bytes from the entry asked
for. SRV_STATS returns the head's servo counters. Open points in it are the model's choice (log entries 8, 60, 61, 62, 63 and
122). Drawn on: R235, R244, R245, R250, R253, R254, R256, R258, R262, R264, R265, R266, R267.
(08_servo_bands_and_format_sequencers.md) -/
def Obligations.SequencerControlAndCommands : Prop :=
  -- FS_MCHK_RELOAD_DONE
  (∀ (a : Fin 4) (s : State), domOn s (2 + a.val) = true → getF s (F.FS_STATE a.val) = 3 → isSet s (F.FS_MCHK_STUCK a.val) = false →
    exec (.fsMchkReloadDone a) s = .next (fsLoad a.val s)) ∧
  -- FS_WORD_COMPLETE
  (∀ (a : Fin 4) (rev wedge sector : Bool) (slots : Nat) (upset : BitVec 104) (w : Nat) (s s1 : State), fsRuns s a.val = true →
    s1 = (s |> slotsPass a.val (min slots 1024) |> revPass a.val rev) →
    (fsOf s1 a.val).word = some w → (fsOf s1 a.val).acted = true → classMet s1 a.val w rev wedge sector = true →
    exec (.fsWordComplete a rev wedge sector slots upset) s = .next (wordEnd a.val w rev false upset s1)) ∧
  -- FS_WORD_TIMEOUT
  (∀ (a : Fin 4) (rev : Bool) (upset : BitVec 104) (w : Nat) (s : State), fsRuns s a.val = true → (fsOf s a.val).word = some w →
      (fsOf s a.val).acted = true → 3 ≤ wCcls w → wCcls w ≤ 8 → wTmo w ≠ 0 →
    exec (.fsWordTimeout a rev upset) s = .next (wordEnd a.val w rev true upset s)) ∧
  -- FS_RESUME
  (∀ (p : Path) (a : Fin 4) (s : State), writeGoes p (R.FS_CTL a.val) (BitVec.ofNat 32 (4 + getF s (F.FS_BQ_HOLD a.val))) s →
    exec (.fsResume p a) s = .next (busAnswer p (R.FS_CTL a.val) 0 0 (fsResume a.val s))) ∧
  -- FS_HALT
  (∀ (p : Path) (a : Fin 4) (s : State), writeGoes p (R.FS_CTL a.val) (BitVec.ofNat 32 (2 + getF s (F.FS_BQ_HOLD a.val))) s →
    exec (.fsHalt p a) s = .next (busAnswer p (R.FS_CTL a.val) 0 0 (fsHalt a.val s))) ∧
  -- FS_TRC_FREEZE_WRITE
  (∀ (a : Fin 4) (freeze : Bool) (s : State), RegsWf s → writeGoes .core (R.FS_TRC_CTL a.val) (BitVec.ofNat 32 (b2n freeze * 4 + rdN s (R.FS_TRC_CTL a.val) % 4)) s →
    ∃ t, exec (.fsTrcFreezeWrite .core a freeze) s = .next t ∧ getF t (F.FS_TRC_FROZEN a.val) = b2n freeze ∧ getF t (F.FS_TRC_FREEZE a.val) = b2n freeze) ∧
  -- FS_TRC_DATA_READ
  (∀ (p : Path) (a : Fin 4) (s : State), readGoes p (R.FS_TRC_DATA_LO a.val) s →
    exec (.fsTrcDataRead p a) s = .next (busAnswer p (R.FS_TRC_DATA_LO a.val) 0 (trcRead p a.val s).2.toNat (trcRead p a.val s).1)) ∧
  -- FS_ZONE_LOAD
  (∀ (m : Fin 16) (s : State), Units s → mbxRuns s m 0x0308 → owns s (par (mbxAt s m).cmd 0 2) = true → (bandOf s (par (mbxAt s m).cmd 0 2)).isSome = false →
    ∃ t, exec (.fsZoneLoad m) s = .next t ∧ mbxAnswered t m (zoneCheck s (par (mbxAt s m).cmd 0 2) (padTo 32512 (mbxAt s m).cmd.ext))) ∧
  -- FS_TRACE_READ
  (∀ (m : Fin 16) (s : State), Units s → mbxRuns s m 0x0309 → par (mbxAt s m).cmd 26 6 ≠ 0 → par (mbxAt s m).cmd 26 6 ≤ 62 →
    ∃ t, exec (.fsTraceRead m) s = .next t ∧
      mbxReturns t m (traceBytes (par (mbxAt s m).cmd 0 2) (par (mbxAt s m).cmd 26 6) (par (mbxAt s m).cmd 16 10) (begun m s)).1) ∧
  -- SRV_STATS
  (∀ (m : Fin 16) (s : State), Units s → mbxRuns s m 0x030A → par (mbxAt s m).cmd 0 8 < 144 →
    ∃ t, exec (.srvStats m) s = .next t ∧ mbxReturns t m ((headOf s (par (mbxAt s m).cmd 0 8)).srv.flatMap (leBytes 8)))

/-- Under conditions on state and operands alone exec answers a next state: REGISTER_WRITE and REGISTER_READ of an allowed width,
alignment and set of byte enables are one bus access per DWORD, two at an aligned address in ascending order; one that is not
allowed is answered as a bad request. COUNTER_LO_READ is a bus read of the LO word, COUNTER_SAT_CLEAR a bus write of bit 31 to
the HI word. REG_READ of one word that the register access answers at once returns the word; REG_WRITE of one word that the
access accepts answers 0 and leaves memory and registers as the access does. A sequencer's RDREG puts the word that its read
answers into its general register, and its WRREG performs the write of its general register. Open points in it are the model's
choice (log entries 13, 15, 16, 17, 42 and 116). Drawn on: R174, R175, R176, R255, R492, R499, R500. (16_register_map.md,
06_mailboxes_and_expert_access.md, 08_servo_bands_and_format_sequencers.md, 15_faults_and_safe_reactions.md) -/
def Obligations.RegisterAccesses : Prop :=
  -- REGISTER_WRITE
  (∀ (p : Path) (a w : BitVec 32) (env : RegEnv) (s : State), exec (.registerWrite p true a w none env) s = .next (busWrite p env a.toNat w s)) ∧
  -- REGISTER_WRITE
  (∀ (p : Path) (a w w2 : BitVec 32) (env : RegEnv) (s : State), a.toNat % 8 = 0 →
    exec (.registerWrite p true a w (some w2) env) s = .next (busWrite p env (a.toNat + 4) w2 (busWrite p env a.toNat w s))) ∧
  -- REGISTER_WRITE, REGISTER_READ
  (∀ (p : Path) (a w : BitVec 32) (x : Option (BitVec 32)) (two : Bool) (env : RegEnv) (s : State),
    exec (.registerWrite p false a w x env) s = .next (badRequest p a.toNat true s) ∧
    exec (.registerRead p false a two) s = .next (badRequest p a.toNat false s)) ∧
  -- REGISTER_READ
  (∀ (p : Path) (a : BitVec 32) (s : State), exec (.registerRead p true a false) s = .next (busRead p a.toNat s)) ∧
  -- REGISTER_READ
  (∀ (p : Path) (a : BitVec 32) (s : State), a.toNat % 8 = 0 → exec (.registerRead p true a true) s = .next (busRead p (a.toNat + 4) (busRead p a.toNat s))) ∧
  -- COUNTER_LO_READ
  (∀ (p : Path) (a : BitVec 32) (s : State), loPair a.toNat = true → exec (.counterLoRead p a) s = .next (busRead p a.toNat s)) ∧
  -- COUNTER_SAT_CLEAR
  (∀ (p : Path) (a : BitVec 32) (s : State), counterHi a.toNat = true →
    exec (.counterSatClear p a) s = .next (busWrite p ⟨none, false, 0, []⟩ a.toNat 0x80000000 s)) ∧
  -- REG_READ
  (∀ (m : Fin 16) (x : Word) (s : State), Units s → mbxRuns s m 0x0008 → par (mbxAt s m).cmd 32 16 = 1 → dptr (mbxAt s m).cmd = false →
      (mbxAt s m).regAt = 0 → (mbxAt s m).regData = [] → (regRead (.mbx m) (par (mbxAt s m).cmd 0 32 % 2 ^ 32) (begun m s)).2 = some (0, x) →
    ∃ t, exec (.regRead m) s = .next t ∧ mbxReturns t m (leBytes 4 x.toNat)) ∧
  -- REG_WRITE
  (∀ (m : Fin 16) (env : RegEnv) (x : Word) (s : State), Units s → mbxRuns s m 0x0009 → dptr (mbxAt s m).cmd = false →
      (mbxAt s m).cmd.data = leBytes 4 x.toNat → (mbxAt s m).regAt = 0 →
      (regWrite (.mbx m) env (par (mbxAt s m).cmd 0 32 % 2 ^ 32) x (begun m s)).2 = some 0 →
    ∃ t, exec (.regWrite m env) s = .next t ∧ mbxAnswered t m 0 ∧ t.mem = (regWrite (.mbx m) env (par (mbxAt s m).cmd 0 32 % 2 ^ 32) x (begun m s)).1.mem ∧
      t.regs = (regWrite (.mbx m) env (par (mbxAt s m).cmd 0 32 % 2 ^ 32) x (begun m s)).1.regs) ∧
  -- FS_ACT_RDREG
  (∀ (a : Fin 4) (w : Nat) (x : Word) (s : State), fsActs s a.val 3 w → (regRead (.fseq a) (regAddr (fsActed a.val s) a.val w) (fsActed a.val s)).2 = some (0, x) →
    exec (.fsActRdreg a) s = .next (grPut a.val (wRd w) x (regRead (.fseq a) (regAddr (fsActed a.val s) a.val w) (fsActed a.val s)).1)) ∧
  -- FS_ACT_WRREG
  (∀ (a : Fin 4) (env : RegEnv) (w : Nat) (s : State), fsActs s a.val 4 w →
      (regWrite (.fseq a) env (regAddr (fsActed a.val s) a.val w) (gr (fsActed a.val s) a.val (wRb w)) (fsActed a.val s)).2 = some 0 →
    exec (.fsActWrreg a env) s = .next (regWrite (.fseq a) env (regAddr (fsActed a.val s) a.val w) (gr (fsActed a.val s) a.val (wRb w)) (fsActed a.val s)).1)

/-- Under conditions on state and operands alone exec answers a next state: GOVERNOR_RUN in a live device notes the pace as seen and
the required rate. PREAMP_READMIT_TIMER of a removed preamplifier, with no temperature limit passed and the margin met, takes it
off the removed list. SAMPLE_BUFFER_OVERRUN of a head's current sector above 20,000 samples takes the sector back to be read
again, sets the two overrun bits, counts one and raises 0x0125. CLK_PACE_LOW_RST, CLK_PLL_CFG_WRITE, CLK_SSC_WRITE,
CLK_GATE_REQ_SET, CLK_GATE_REQ_CLEAR, CLK_GATE_FORCE and CLK_SAFE_RELEASE that the checks let through do what their register
does and are answered with 0. PLL_LOCK of an island with power, a good reference, an allowed VCO and no gate shows LOCKED, and
for island 0 ends the backup clock. CLK_GATE_IDLE takes a pending gate. Open points in it are the model's choice (log entries 8,
52, 54, 56 and 98). Drawn on: R103, R106, R107, R109, R110, R111, R113, R114, R115, R116, R117, R123.
(04_handshake_timing_and_clocks.md) -/
def Obligations.GovernorAndGates : Prop :=
  -- GOVERNOR_RUN
  (∀ (pace vcore vsys vmot : BitVec 16) (capHolds : Bool) (capPas : Fin 17) (s : State), live s = true →
    ∃ t, exec (.governorRun pace vcore vsys vmot capHolds capPas) s = .next t ∧ t.clk.paceSeen = true ∧ t.clk.required = govRate s) ∧
  -- PREAMP_READMIT_TIMER
  (∀ (p : Fin 16) (s : State), s.clk.removed.contains p.val = true → s.therm.over105 = false → s.therm.over115 = false →
      105 * (s.clk.required * 125 * (100 + govMargin s)) ≤ getF s F.CLK_PACE_NOW * 8000000000 →
    ∃ t, exec (.preampReadmitTimer p) s = .next t ∧ t.clk.removed = s.clk.removed.filter (fun x => x ≠ p.val)) ∧
  -- SAMPLE_BUFFER_OVERRUN
  (∀ (h : Fin 144) (fill : Nat) (x : SectorRd) (s : State), 20000 < fill → (headOf s h.val).cur = some x →
    exec (.sampleBufferOverrun h fill) s = .next (s |> sectorAgain h.val x |> updHead h.val (fun y => { y with behind := 0 }) |> sectorDone h.val |> headStat h.val 5
        |> setF (F.HC_FLT_OVERRUN h.val) 1 |> setF F.CLK_GOV_OVERRUN 1 |> count R.CLK_OVERRUN_LO 1 |> raise 4 0x0125 2 h.val 0)) ∧
  -- CLK_PACE_LOW_RST
  (∀ (p : Path) (s : State), writeGoes p R.CLK_GOV_CTL (BitVec.ofNat 32 (2 ^ 16 + rdN s R.CLK_GOV_CTL % 2 ^ 16)) s →
    exec (.clkPaceLowRst p) s = .next (busAnswer p R.CLK_GOV_CTL 0 0 (paceLowRst s))) ∧
  -- CLK_PLL_CFG_WRITE
  (∀ (p : Path) (i : Fin 10) (w : BitVec 32) (s : State), writeGoes p (R.CLK_PLL_CFG i.val) w s →
    exec (.clkPllCfgWrite p i w) s = .next (busAnswer p (R.CLK_PLL_CFG i.val) 0 0 (pllStore i.val w s))) ∧
  -- PLL_LOCK
  (∀ (i : Fin 13) (s : State), RegsWf s → live s = true → domOn s (islandDom i.val) = true → isSet s (F.CLK_REF_OK i.val) = true →
      isSet s (F.CLK_GATED i.val) = false → vcoOk s i.val = true →
    ∃ t, exec (.pllLock i) s = .next t ∧ isSet t (F.CLK_LOCKED i.val) = true ∧ (i.val = 0 → isSet t F.CLK_BACKUP_ACTIVE = false)) ∧
  -- CLK_SSC_WRITE
  (∀ (p : Path) (pactl : Bool) (w : BitVec 32) (s : State), writeGoes p (sscReg (b2n pactl)) w s →
    exec (.clkSscWrite p pactl w) s = .next (busAnswer p (sscReg (b2n pactl)) 0 0 (sscStore (b2n pactl) w s))) ∧
  -- CLK_GATE_REQ_SET
  (∀ (p : Path) (i : Fin 13) (busy : Option (Path × BitVec 24)) (s : State), writeGoes p (R.CLK_ISL_CTL i.val) 1 s →
    exec (.clkGateReqSet p i busy) s = .next (busAnswer p (R.CLK_ISL_CTL i.val) 0 0 (gateReq i.val (busyOf busy) s))) ∧
  -- CLK_GATE_REQ_CLEAR
  (∀ (p : Path) (i : Fin 13) (s : State), writeGoes p (R.CLK_ISL_CTL i.val) 0 s →
    exec (.clkGateReqClear p i) s = .next (busAnswer p (R.CLK_ISL_CTL i.val) 0 0 (gateClear i.val s))) ∧
  -- CLK_GATE_IDLE
  (∀ (i : Fin 13) (s : State), isSet s (F.CLK_GATE_PENDING i.val) = true → exec (.clkGateIdle i) s = .next (gateTake i.val s)) ∧
  -- CLK_GATE_FORCE
  (∀ (p : Path) (i : Fin 13) (idle : Bool) (s : State), writeGoes p (R.CLK_ISL_CTL i.val) (BitVec.ofNat 32 (2 + getF s (F.CLK_GATE_REQ i.val))) s →
    exec (.clkGateForce p i idle) s = .next (busAnswer p (R.CLK_ISL_CTL i.val) 0 0 (gateForce i.val idle s))) ∧
  -- CLK_SAFE_RELEASE
  (∀ (p : Path) (i : Fin 13) (s : State), writeGoes p (R.CLK_ISL_CTL i.val) (BitVec.ofNat 32 (4 + getF s (F.CLK_GATE_REQ i.val))) s →
    exec (.clkSafeRelease p i) s = .next (busAnswer p (R.CLK_ISL_CTL i.val) 0 0 (expertRelease p i.val s)))

/-- Under conditions on state and operands alone exec answers a next state: REF_EDGE_TIMEOUT is the loss of its reference.
REF_FREQ_MISMATCH of 30,001 ppm to either side of the backup oscillator is the loss of SYS_REFCLK; with none there, 501 ppm of
FAB_REFCLK is its loss, and the mismatches 6,000, 500 and -500 ppm of the other three are no loss. REF_RETURN of a lost
reference shows it as not lost. REF_GOOD_100MS of a good reference that was not escalated releases each held island of it.
SYS_REFCLK_LOSS_10MS with the system reference lost notes the failure, turns the Nalyn transmitter off and takes the link down.
FAB_REFCLK_LOSS_1S with the link up and no handover asks to give the volume groups that this device owns and changes no
register. TS_IN_PULSE keeps the time and changes no register; TS_OUT_SECONDS_ROLLOVER at a full second with the island not held
sends the pulse. CLK_GATE that gates at once, CLK_UNGATE and CLK_STATUS answer 0, the last with the clock registers; CLK_RELEASE
answers 0 where the island is locked, else 0x0123. CLK_GATE_LIMIT_EXPIRY of a pending gate forces it where the command asked for
force, else clears it and answers 0x0014. Open points in it are the model's choice (log entries 8, 52, 53, 55, 107 and 115).
Drawn on: R112, R114, R115, R120, R121, R122, R123, R124, R476. (04_handshake_timing_and_clocks.md,
15_faults_and_safe_reactions.md) -/
def Obligations.ReferencesAndClockCommands : Prop :=
  -- REF_EDGE_TIMEOUT
  (∀ (r : Fin 4) (s : State), live s = true → exec (.refEdgeTimeout r) s = .next (refLoss r.val s)) ∧
  -- REF_FREQ_MISMATCH
  (∀ (pcie fab nal : Int) (s : State), live s = true → refLost s 0 = false →
    exec (.refFreqMismatch 30001 pcie fab nal) s = .next (refLoss 0 s) ∧ exec (.refFreqMismatch (-30001) pcie fab nal) s = .next (refLoss 0 s) ∧
    exec (.refFreqMismatch 30000 0 501 0) s = .next (refLoss 2 s) ∧ exec (.refFreqMismatch 0 6000 500 (-500)) s = .next s) ∧
  -- REF_RETURN
  (∀ (r : Fin 4) (s : State), RegsWf s → refLost s r.val = true →
    ∃ t, exec (.refReturn r) s = .next t ∧ refLost t r.val = false) ∧
  -- REF_GOOD_100MS
  (∀ (r : Fin 4) (s : State), refLost s r.val = false → escalated s 0x0122 r.val = false → s.pwr.sysRefFailed = false → r.val ≠ 0 →
    exec (.refGood100ms r) s = .next (((refIslands r.val).filter (fun i => isSet s (F.CLK_SAFE_HELD i))).foldl (fun s i => safeRelease i s) s)) ∧
  -- SYS_REFCLK_LOSS_10MS
  (∀ s : State, live s = true → refLost s 0 = true →
    exec .sysRefclkLoss10ms s = .next (nalDown { s with pwr := { s.pwr with sysRefFailed := true }, pins := { s.pins with nalTx := false } })) ∧
  -- FAB_REFCLK_LOSS_1S
  (∀ s : State, refLost s 2 = true → isSet s F.NAL_UP = true → s.pair.handover = none →
    ∃ t, exec .fabRefclkLoss1s s = .next t ∧ t.pair.give = s.pair.give ++ [4, 5].filter (fun x => owns s x && !s.pair.give.contains x) ∧ t.regs = s.regs) ∧
  -- TS_IN_PULSE
  (∀ s : State, live s = true → ∃ t, exec .tsInPulse s = .next t ∧ t.clk.tsIn = some s.now ∧ t.regs = s.regs) ∧
  -- TS_OUT_SECONDS_ROLLOVER
  (∀ s : State, live s = true → s.now.toNat % 1000000000 = 0 → isSet s (F.CLK_SAFE_HELD 1) = false →
    exec .tsOutSecondsRollover s = .next { s with outbox := s.outbox ++ [.clkPulse] }) ∧
  -- CLK_GATE
  (∀ (m : Fin 16) (busy : Option (Path × BitVec 24)) (s : State), Units s → mbxRuns s m 0x0110 → par (mbxAt s m).cmd 8 1 = 1 → par (mbxAt s m).cmd 0 4 ≤ 12 →
      isSet (gateReq (par (mbxAt s m).cmd 0 4) (busyOf busy) (begun m s)) (F.CLK_GATED (par (mbxAt s m).cmd 0 4)) = true →
    ∃ t, exec (.clkGate m busy) s = .next t ∧ mbxAnswered t m 0 ∧ t.regs = (gateReq (par (mbxAt s m).cmd 0 4) (busyOf busy) (begun m s)).regs) ∧
  -- CLK_UNGATE
  (∀ (m : Fin 16) (s : State), Units s → mbxRuns s m 0x0110 → par (mbxAt s m).cmd 8 1 = 0 → par (mbxAt s m).cmd 0 4 ≤ 12 →
    ∃ t, exec (.clkUngate m) s = .next t ∧ mbxAnswered t m 0 ∧ t.regs = (gateClear (par (mbxAt s m).cmd 0 4) (begun m s)).regs) ∧
  -- CLK_GATE_LIMIT_EXPIRY
  (∀ (m : Fin 16) (idle : Bool) (s : State), (mbxWaiting s (fun c => isGateCmd (par (mbxAt s m).cmd 0 4) c)).contains m.val = true →
      isSet s (F.CLK_GATE_PENDING (par (mbxAt s m).cmd 0 4)) = true →
    exec (.clkGateLimitExpiry m idle) s = .next (if par (mbxAt s m).cmd 9 1 = 1 then gateForce (par (mbxAt s m).cmd 0 4) idle s
      else mbxSetResult m.val (resStatus 0x0014) (gateClear (par (mbxAt s m).cmd 0 4) s))) ∧
  -- CLK_RELEASE
  (∀ (m : Fin 16) (s : State), Units s → mbxRuns s m 0x0111 → par (mbxAt s m).cmd 0 4 ≤ 12 →
    ∃ t, exec (.clkRelease m) s = .next t ∧ mbxAnswered t m (if isSet s (F.CLK_LOCKED (par (mbxAt s m).cmd 0 4)) then 0 else 0x0123) ∧
      t.regs = (safeRelease (par (mbxAt s m).cmd 0 4) (begun m s)).regs) ∧
  -- CLK_STATUS
  (∀ (m : Fin 16) (s : State), Units s → mbxRuns s m 0x0112 →
    ∃ t, exec (.clkStatus m) s = .next t ∧ mbxReturns t m (([R.CLK_PACE, R.CLK_VCORE, R.CLK_GOV_STATUS, R.CLK_REF_STATUS] ++
      (List.range 13).map R.CLK_ISL_STATUS).flatMap (fun a => leBytes 4 (rdN s a))))

/-- Under conditions on state and operands alone exec answers a next state: MBX_MESSAGE_ARRIVAL over I2C, over the UART with a good
frame, or from the partner with the link up is taken as a message of its transport, and is dropped with a bad frame or the link
down; a message with no idle mailbox of its transport is answered 0x0014. MBX_DOORBELL posts the area of an idle mailbox and
sets MBX_DB_IGNORED of another. MBX_RELEASE returns a DONE mailbox to IDLE and changes nothing of another. MBX_RESET changes
nothing of an IDLE mailbox, notes a pending reset of a RUNNING one and returns any other to IDLE. MBX_HANDLER_TAKE of a POSTED
command in a live device is the handler's take, which ends a command that its check refuses with the check's status.
MBX_COMPLETE of a RUNNING command with a result completes it; with a reset pending the mailbox is IDLE afterwards. MAILBOX_SEND
that fits and finds an idle mailbox posts its area and answers the mailbox and SEQ. MAILBOX_RECEIVE of the holder's own TAG
serves a DONE mailbox and waits for another. FORWARDED_REQUEST_RECEIVED of a flash page answers the page of an owned channel and
else 0x0A11; of a host command it answers 0x0714 without the volume, 0x0A11 without its group, and else takes the command when
there is room. Open points in it are the model's choice (log entries 8, 41, 49, 50 and 104). Drawn on: R150, R151, R152, R155,
R157, R158, R159, R160, R309, R534. (06_mailboxes_and_expert_access.md, 10_host_queues_and_the_sluice.md) -/
def Obligations.MailboxProtocol : Prop :=
  -- MBX_MESSAGE_ARRIVAL
  (∀ (body : List Byte) (s : State), sidebandLive s = true →
    exec (.mbxMessageArrival 0 body) s = .next (arrive 0 body none s) ∧
    (∀ b, uartBody body = some b → exec (.mbxMessageArrival 1 body) s = .next (arrive 1 b none s)) ∧
    (uartBody body = none → exec (.mbxMessageArrival 1 body) s = .next s) ∧
    (isSet s F.NAL_UP = true → exec (.mbxMessageArrival 2 body) s = .next (arrive 4 body none s)) ∧
    (isSet s F.NAL_UP = false → exec (.mbxMessageArrival 2 body) s = .next s)) ∧
  -- MBX_MESSAGE_ARRIVAL
  (∀ (t : Nat) (body : List Byte) (s : State), idleMbx s t = none →
    arrive t body none s = sendReply ((mbxsOf t).headD 0) (areaBytes (parseArea body []).tag.toNat 0 (resStatus 0x0014)) s) ∧
  -- MBX_DOORBELL
  (∀ (p : Path) (m : Fin 16) (s : State), writeGoes p (R.MBX_CTL m.val) 1 s →
    exec (.mbxDoorbell p m) s = .next (busAnswer p (R.MBX_CTL m.val) 0 0 (if mbxState s m = 0
      then post m.val (parseArea (memRead s (pageOf m.val 0) 1024) []) none none false s else setF (F.MBX_DB_IGNORED m.val) 1 s))) ∧
  -- MBX_RELEASE
  (∀ (p : Path) (m : Fin 16) (s : State), writeGoes p (R.MBX_CTL m.val) 2 s →
    exec (.mbxRelease p m) s = .next (busAnswer p (R.MBX_CTL m.val) 0 0 (if mbxState s m = 3 then mbxIdle m.val s else s))) ∧
  -- MBX_RESET
  (∀ (p : Path) (m : Fin 16) (s : State), writeGoes p (R.MBX_CTL m.val) 4 s →
    exec (.mbxReset p m) s = .next (busAnswer p (R.MBX_CTL m.val) 0 0 (if mbxState s m = 0 then s
      else if mbxState s m = 2 then setF (F.MBX_RESET_PENDING m.val) 1 s
      else if mbxState s m = 1 then mbxIdle m.val (fenceDrop m.val s) else mbxIdle m.val s))) ∧
  -- MBX_HANDLER_TAKE
  (∀ (m : Fin 16) (moved : Option Nat) (host : List Host.Cell) (s : State), mbxState s m = 1 → live s = true →
    exec (.mbxHandlerTake m moved host) s = .next (handlerTake m.val moved (hostPlaces host s))) ∧
  -- MBX_HANDLER_TAKE
  (∀ (m : Fin 16) (st : Nat) (s : State), takeCheck s m (mbxAt s m).cmd = some st →
    handlerTake m.val none s = mbxSetResult m.val (resStatus st) (fenceDrop m.val (setF (F.MBX_STATE m) 2 s))) ∧
  -- MBX_COMPLETE
  (∀ (m : Fin 16) (moved : Option Nat) (r : MbxResult) (s : State), (mbxAt s m).result = some r → mbxState s m = 2 →
    exec (.mbxComplete m moved) s = .next (complete m.val r moved s)) ∧
  -- MBX_COMPLETE
  (∀ (m : Fin 16) (moved : Option Nat) (r : MbxResult) (s : State), Units s → RegsWf s → isSet (fenceDrop m.val s) (F.MBX_RESET_PENDING m.val) = true →
    mbxState (complete m.val r moved s) m = 0) ∧
  -- MAILBOX_SEND
  (∀ (c : NvmeCmd) (v : NvmeCmd × NvCtrl × State) (m : Nat) (s : State), nvTaken 0xC5 true c s = some v → v.2.1.kind ≠ 2 → v.1.xferOk = true →
      bitsAt v.1.dw10.toNat 0 11 + v.1.dw11.toNat ≤ 2 ^ 21 → idleMbx v.2.2 (ctrlTransport v.2.1) = some m →
    ∃ t, exec (.mailboxSend c) s = .next t ∧
      t = nvPost v.1.ctrl v.1.sq v.1.cid.toNat 0 m
        (rdN (post m (parseArea (v.1.data.take (bitsAt v.1.dw10.toNat 0 11)) (v.1.data.drop (bitsAt v.1.dw10.toNat 0 11))) (some v.1.ctrl) none false v.2.2) R.MBX_SEQ_LAST)
        (post m (parseArea (v.1.data.take (bitsAt v.1.dw10.toNat 0 11)) (v.1.data.drop (bitsAt v.1.dw10.toNat 0 11))) (some v.1.ctrl) none false v.2.2)) ∧
  -- MAILBOX_RECEIVE
  (∀ (c : NvmeCmd) (v : NvmeCmd × NvCtrl × State) (s : State), nvTaken 0xC6 true c s = some v → v.2.1.kind ≠ 2 →
      (mbxAt v.2.2 (bitsAt v.1.dw10.toNat 0 4)).holder = some v.1.ctrl → (mbxAt v.2.2 (bitsAt v.1.dw10.toNat 0 4)).cmd.tag = v.1.dw11 →
      1 ≤ mbxState v.2.2 (bitsAt v.1.dw10.toNat 0 4) →
    exec (.mailboxReceive c) s = .next (if mbxState v.2.2 (bitsAt v.1.dw10.toNat 0 4) = 3
      then receiveServe v.1.ctrl v.1.sq v.1.cid.toNat (bitsAt v.1.dw10.toNat 0 4) v.1.xferOk v.2.2
      else updCtrl v.1.ctrl (fun k => { k with receives := k.receives ++ [(v.1.sq, v.1.cid.toNat, bitsAt v.1.dw10.toNat 0 4, v.1.dw11.toNat)] }) v.2.2)) ∧
  -- FORWARDED_REQUEST_RECEIVED
  (∀ (req : Nat) (p : Nat) (s : State), isSet s F.NAL_UP = true → ctlMode s = true →
    exec (.forwardedRequestReceived req (.flash p)) s = .next (if chOwned s (ppaCh p) then replyPartner req 0 (memRead s (pageAddr p) 16384) s
      else replyPartner req 0x0A11 [] s)) ∧
  -- FORWARDED_REQUEST_RECEIVED
  (∀ (req : Nat) (f : FwdCmd) (s : State), isSet s F.NAL_UP = true → ctlMode s = true →
    (volOf s f.vol = none → exec (.forwardedRequestReceived req (.host f)) s = .next (replyPartner req 0x0714 [] s)) ∧
    (∀ v, volOf s f.vol = some v → holdsGroup s v.group = false → exec (.forwardedRequestReceived req (.host f)) s = .next (replyPartner req 0x0A11 [] s)) ∧
    (∀ v, volOf s f.vol = some v → holdsGroup s v.group = true → headgateFull s = false → admits s = true →
      exec (.forwardedRequestReceived req (.host f)) s = .next (hostArrives req f s)))

/-- Under conditions on state and operands alone exec answers a next state: NOP answers 0 and changes no register, memory or stored
setting. IDENTIFY and VIOL_READ answer 0 with their registers. FENCE waits; FENCE_CONDITIONS_MET ends a fence whose conditions
hold with 0, FENCE_LIMIT_EXPIRY with 0x0019. EXPERT_ENABLE naming an active expert session of the mailbox's port grants its
classes to the mailbox's transport, and answers 0x0013 with no such session. EXPERT_DISABLE drops the grants of its transport.
EXPERT_ROOT_ADD that is allowed adds a new digest to a list of fewer than 8, and answers 0x0013 where it is not allowed;
EXPERT_ROOT_REMOVE removes a held digest and answers 0x001B for another. Open points in it are the model's choice (log entries
8, 18, 41, 49, 100 and 101). Drawn on: R163, R164, R167, R170, R171, R172, R178. (06_mailboxes_and_expert_access.md) -/
def Obligations.MailboxCommands : Prop :=
  -- NOP
  (∀ (m : Fin 16) (s : State), Units s → mbxRuns s m 0x0001 → ∃ t, exec (.nop m) s = .next t ∧ mbxAnswered t m 0 ∧ t.regs = s.regs ∧ t.mem = s.mem ∧ t.nv = s.nv) ∧
  -- IDENTIFY
  (∀ (m : Fin 16) (s : State), Units s → mbxRuns s m 0x0002 →
    ∃ t, exec (.identify m) s = .next t ∧ mbxReturns t m (leBytes 4 (rdN s R.SUP_ID) ++ leBytes 4 (rdN s R.SUP_SERIAL_LO) ++ leBytes 4 (rdN s R.SUP_SERIAL_HI)
      ++ leBytes 4 (pwrModeWord s) ++ leBytes 4 (mbxExpertWord s)) ∧ t.regs = s.regs) ∧
  -- FENCE
  (∀ (m : Fin 16) (s : State), Units s → mbxRuns s m 0x0003 → ∃ t, exec (.fence m) s = .next t ∧ mbxWaits t m ∧ t.fences = s.fences ∧ t.regs = s.regs) ∧
  -- FENCE_CONDITIONS_MET
  (∀ (m : Fin 16) (f : FenceSt) (s : State), fenceRuns s m.val = true → s.fences.find? (fun f => f.mbx = m.val) = some f → mbxFenceMet s f = true →
    exec (.fenceConditionsMet m) s = .next (mbxSetResult m.val (resStatus 0) (fenceDrop m.val s))) ∧
  -- FENCE_LIMIT_EXPIRY
  (∀ (m : Fin 16) (s : State), fenceRuns s m.val = true → exec (.fenceLimitExpiry m) s = .next (mbxSetResult m.val (resStatus 0x0019) (fenceDrop m.val s))) ∧
  -- EXPERT_ENABLE
  (∀ (m : Fin 16) (x : SpdmSess) (s : State), Units s → mbxRuns s m 0x0004 → (expertSessions s).find? (fun x => x.sid = par (mbxAt s m).cmd 0 32) = some x →
      sessionMbx x.port m.val = true → s.grants = [] →
    ∃ t, exec (.expertEnable m) s = .next t ∧ mbxAnswered t m 0 ∧ t.grants = [⟨x.sid, mbxTransport m.val, par (mbxAt s m).cmd 32 4⟩]) ∧
  -- EXPERT_ENABLE
  (∀ (m : Fin 16) (s : State), Units s → mbxRuns s m 0x0004 → (expertSessions s).find? (fun x => x.sid = par (mbxAt s m).cmd 0 32) = none →
    ∃ t, exec (.expertEnable m) s = .next t ∧ mbxAnswered t m 0x0013 ∧ t.grants = s.grants) ∧
  -- EXPERT_DISABLE
  (∀ (m : Fin 16) (s : State), Units s → mbxRuns s m 0x0005 →
    ∃ t, exec (.expertDisable m) s = .next t ∧ mbxAnswered t m 0 ∧ t.grants = (dropGrants (fun g => decide (g.transport = mbxTransport m.val)) (begun m.val s)).grants) ∧
  -- EXPERT_ROOT_ADD
  (∀ (m : Fin 16) (s : State), Units s → mbxRuns s m 0x0006 → rootAllowed s m.val = true → s.nv.expertRoots.contains (mbxAt s m).cmd.data = false →
      s.nv.expertRoots.length < 8 →
    ∃ t, exec (.expertRootAdd m) s = .next t ∧ mbxAnswered t m 0 ∧ t.nv.expertRoots = s.nv.expertRoots ++ [(mbxAt s m).cmd.data]) ∧
  -- EXPERT_ROOT_ADD
  (∀ (m : Fin 16) (s : State), Units s → mbxRuns s m 0x0006 → rootAllowed s m.val = false →
    ∃ t, exec (.expertRootAdd m) s = .next t ∧ mbxAnswered t m 0x0013 ∧ t.nv = s.nv ∧ t.regs = s.regs) ∧
  -- EXPERT_ROOT_REMOVE
  (∀ (m : Fin 16) (s : State), Units s → mbxRuns s m 0x0007 →
    (s.nv.expertRoots.contains (mbxAt s m).cmd.data = true → ∃ t, exec (.expertRootRemove m) s = .next t ∧ mbxAnswered t m 0 ∧
      t.nv.expertRoots = s.nv.expertRoots.filter (fun r => r ≠ (mbxAt s m).cmd.data)) ∧
    (s.nv.expertRoots.contains (mbxAt s m).cmd.data = false → ∃ t, exec (.expertRootRemove m) s = .next t ∧ mbxAnswered t m 0x001B ∧ t.nv = s.nv)) ∧
  -- VIOL_READ
  (∀ (m : Fin 16) (s : State), Units s → mbxRuns s m 0x000A →
    ∃ t, exec (.violRead m) s = .next t ∧ mbxReturns t m ((List.range 21).flatMap (fun b => leBytes 4 (rdN s (violBase b)) ++ leBytes 4 (rdN s (violBase b + 4)))) ∧ t.regs = s.regs)

/-- Under conditions on state and operands alone exec answers a next state: FW_STAGE of the bundle at offset 0, with no staging and
no restart under way, begins a staging of its bytes and makes the inactive slot not valid; a following chunk of the same
requester at the next offset extends it. FW_STAGE_IDLE_TIMEOUT of a staging fails it. FW_ACTIVATE of a valid inactive slot with
no staging starts its trial. FW_CONFIRM of a started trial makes it active. FW_ACCEPT_ADD adds to a list of fewer than 8 and
answers 0x021D to a full one; FW_ACCEPT_REMOVE removes a held measurement and answers 0x001B for another. FW_COMMIT_SVN with no
trial and the link up raises the fused minimums to the SVNs that run. Open points in it are the model's choice (log entries 8,
40, 49, 99 and 102). Drawn on: R134, R143, R144, R145, R146, R147, R164. (05_boot_measurement_and_patches.md,
06_mailboxes_and_expert_access.md) -/
def Obligations.FirmwareCommands : Prop :=
  -- FW_STAGE
  (∀ (m : Fin 16) (s : State), Units s → mbxRuns s m 0x0200 → par (mbxAt s m).cmd 0 8 = 2 → isSet s F.SUP_BOOT_RECOVERY = false → s.boot.restart = false → s.boot.staging = [] →
      par (mbxAt s m).cmd 8 2 = 1 → par (mbxAt s m).cmd 32 32 = 0 → dptr (mbxAt s m).cmd = false → (mbxAt s m).cmd.data.length ≤ 992 →
    ∃ t, exec (.fwStage m) s = .next t ∧ mbxAnswered t m 0 ∧ stagingOf t 2 = some ⟨2, requesterOf s m.val, (mbxAt s m).cmd.data⟩ ∧
      slotValid t 2 (inactive s 2) = false) ∧
  -- FW_STAGE
  (∀ (m : Fin 16) (x : Staging) (s : State), Units s → mbxRuns s m 0x0200 → par (mbxAt s m).cmd 0 8 = 2 → isSet s F.SUP_BOOT_RECOVERY = false → s.boot.restart = false → s.boot.staging = [x] → x.kind = 2 →
      x.owner = requesterOf s m.val → par (mbxAt s m).cmd 8 2 = 0 → par (mbxAt s m).cmd 32 32 = x.bytes.length → dptr (mbxAt s m).cmd = false →
      x.bytes.length + (mbxAt s m).cmd.data.length ≤ 16777216 →
    ∃ t, exec (.fwStage m) s = .next t ∧ mbxAnswered t m 0 ∧ stagingOf t 2 = some ⟨2, x.owner, x.bytes ++ (mbxAt s m).cmd.data⟩) ∧
  -- FW_STAGE_IDLE_TIMEOUT
  (∀ (k : Fin 2) (s : State), (stagingOf s (k.val + 1)).isSome = true → exec (.fwStageIdleTimeout k) s = .next (stageFail (k.val + 1) s)) ∧
  -- FW_ACTIVATE
  (∀ (m : Fin 16) (s : State), Units s → mbxRuns s m 0x0201 → par (mbxAt s m).cmd 0 8 = 2 → s.boot.staging = [] → slotValid s 2 (inactive s 2) = true →
    ∃ t, exec (.fwActivate m true) s = .next t ∧ mbxAnswered t m 0 ∧ t.nv.ctl.trial = some (inactive s 2) ∧ t.nv.ctl.slots = s.nv.ctl.slots) ∧
  -- FW_CONFIRM
  (∀ (m : Fin 16) (n : Nat) (s : State), Units s → mbxRuns s m 0x0202 → par (mbxAt s m).cmd 0 8 = 2 → s.nv.ctl.started = some n →
    ∃ t, exec (.fwConfirm m) s = .next t ∧ mbxAnswered t m 0 ∧ t.nv.ctl.active = n ∧ t.nv.ctl.started = none) ∧
  -- FW_ACCEPT_ADD
  (∀ (m : Fin 16) (s : State), Units s → mbxRuns s m 0x0203 →
    (s.nv.accepted.length < 8 → ∃ t, exec (.fwAcceptAdd m) s = .next t ∧ mbxAnswered t m 0 ∧ t.nv.accepted = s.nv.accepted ++ [(mbxAt s m).cmd.data]) ∧
    (8 ≤ s.nv.accepted.length → ∃ t, exec (.fwAcceptAdd m) s = .next t ∧ mbxAnswered t m 0x021D ∧ t.nv = s.nv)) ∧
  -- FW_ACCEPT_REMOVE
  (∀ (m : Fin 16) (s : State), Units s → mbxRuns s m 0x0204 →
    (s.nv.accepted.contains (mbxAt s m).cmd.data = true → ∃ t, exec (.fwAcceptRemove m) s = .next t ∧ mbxAnswered t m 0 ∧
      t.nv.accepted = s.nv.accepted.filter (fun x => x ≠ (mbxAt s m).cmd.data)) ∧
    (s.nv.accepted.contains (mbxAt s m).cmd.data = false → ∃ t, exec (.fwAcceptRemove m) s = .next t ∧ mbxAnswered t m 0x001B ∧ t.nv = s.nv)) ∧
  -- FW_COMMIT_SVN
  (∀ (m : Fin 16) (s : State), Units s → mbxRuns s m 0x0205 → s.nv.sup.started = none → s.nv.ctl.started = none → isSet s F.NAL_UP = true →
    ∃ t, exec (.fwCommitSvn m false) s = .next t ∧ mbxAnswered t m 0 ∧ t.nv.svnMinSup = max s.nv.svnMinSup (getF s F.SUP_SVN_RUN_SUP) ∧
      t.nv.svnMinCtl = max s.nv.svnMinCtl (getF s F.SUP_SVN_RUN_CTL))

/-- Under conditions on state and operands alone exec answers a next state: With the port in the phase that the request needs,
SPDM_GET_VERSION, SPDM_GET_CAPABILITIES and SPDM_NEGOTIATE_ALGORITHMS are answered and move the phase on; SPDM_GET_DIGESTS,
SPDM_GET_CERTIFICATE of slot 0, SPDM_CHALLENGE and SPDM_GET_MEASUREMENTS of one index are answered; an offset beyond the chain
gets error 1. SPDM_KEY_EXCHANGE for purpose 2 with fewer than 4 such sessions opens a session, and for an unknown purpose raises
0x021A and gets error 1. SPDM_FINISH that verifies brings the session up where its root is trusted, and ends it with error 1
where not or where it does not verify. SPDM_HEARTBEAT, SPDM_KEY_UPDATE and SPDM_END_SESSION of a session that is up are
answered, the last ending it. SPDM_HEARTBEAT_LAPSE removes its session and its grants and keeps the other sessions.
SPDM_CHUNK_SEND of the first chunk and SPDM_CHUNK_GET of the last are answered. SPDM_UNSUPPORTED_REQUEST gets error 7. Open
points in it are the model's choice (log entries 4, 8, 48, 88, 109 and 117). Drawn on: R136, R137, R138, R140, R141, R169, R172.
(05_boot_measurement_and_patches.md, 06_mailboxes_and_expert_access.md) -/
def Obligations.SpdmRequests : Prop :=
  -- SPDM_GET_VERSION
  (∀ (p : Fin 4) (s : State), spdmReady s p 0 → exec (.spdmGetVersion p false) s = .next (spdmGive p.val 0x04 [0, 1, 0x00, 0x12] (setPhase p.val 1 s))) ∧
  -- SPDM_GET_CAPABILITIES
  (∀ (p : Fin 4) (dts : Nat) (s : State), spdmReady s p 1 →
    exec (.spdmGetCapabilities p false 0x12 dts) s = .next (spdmGive p.val 0x61 (leBytes 4 spdmCaps) (setPhase p.val 2 { s with spdm := { s.spdm with dts := setAt s.spdm.dts p.val dts } }))) ∧
  -- SPDM_NEGOTIATE_ALGORITHMS
  (∀ (p : Fin 4) (a b c d : Bool) (s : State), spdmReady s p 2 →
    exec (.spdmNegotiateAlgorithms p false a b c d) s = .next (spdmGive p.val 0x63 (leBytes 1 (b2n a) ++ leBytes 1 (b2n b) ++ leBytes 1 (b2n c) ++ leBytes 1 (b2n d)) (setPhase p.val 3 s))) ∧
  -- SPDM_GET_DIGESTS
  (∀ (p : Fin 4) (s : State), spdmReady s p 3 → exec (.spdmGetDigests p false) s = .next (spdmGive p.val 0x01 (1 :: sha256 (chainBytes s)) s)) ∧
  -- SPDM_GET_CERTIFICATE
  (∀ (p : Fin 4) (off len : Nat) (s : State), spdmReady s p 3 →
    exec (.spdmGetCertificate p false 0 off len) s = .next (if (chainBytes s).length ≤ off then spdmErr p.val 1 s
      else spdmGive p.val 0x02 (leBytes 2 (slice (chainBytes s) off len).length ++ leBytes 2 ((chainBytes s).length - off - (slice (chainBytes s) off len).length)
        ++ slice (chainBytes s) off len) s)) ∧
  -- SPDM_CHALLENGE
  (∀ (p : Fin 4) (nonce : List Byte) (s : State), spdmReady s p 3 → exec (.spdmChallenge p false 0 nonce) s = .next (signed p.val 0x03 (1 :: sha256 (chainBytes s)) nonce s)) ∧
  -- SPDM_GET_MEASUREMENTS
  (∀ (p : Fin 4) (i : BitVec 8) (nonce : List Byte) (s : State), spdmReady s p 3 → 1 ≤ i.toNat → i.toNat ≤ 8 →
    exec (.spdmGetMeasurements p false i nonce) s = .next (signed p.val 0x60 (leBytes 1 1 ++ measBlock s i.toNat) nonce s)) ∧
  -- SPDM_KEY_EXCHANGE
  (∀ (p : Fin 4) (s : State), spdmReady s p 3 → p.val ≤ 1 → (s.spdm.sessions.filter (fun x => x.purpose = 2)).length < 4 →
    exec (.spdmKeyExchange p false 2) s = .next (spdmGive p.val 0x64 (leBytes 4 s.spdm.sessNext ++ [0])
      { s with spdm := { s.spdm with sessions := s.spdm.sessions ++ [⟨s.spdm.sessNext, p.val, 2, false, false⟩], sessNext := s.spdm.sessNext + 1 } })) ∧
  -- SPDM_KEY_EXCHANGE
  (∀ (p : Fin 4) (u : BitVec 8) (s : State), spdmReady s p 3 → u ≠ 1 → u ≠ 2 → 
    exec (.spdmKeyExchange p false u) s = .next (spdmErr p.val 1 (raise 0 0x021A 2 p.val u.toNat s))) ∧
  -- SPDM_FINISH
  (∀ (p : Fin 4) (sid : Nat) (root : List Byte) (x : SpdmSess) (s : State), spdmReady s p 3 → sessOf s p sid = some x → x.up = false →
    let good := if x.purpose = 1 then decide (root = Config.olunathRoot) else s.nv.expertRoots.contains root
    ∃ t u, exec (.spdmFinish p false sid root true true) s = .next t ∧
      (good = true → t = (if x.purpose = 1 then askPeer (sessKey sid) 0xE0 else fun s => s)
        (spdmGive p.val 0x65 [] { s with spdm := { s.spdm with sessions := s.spdm.sessions.map (fun y => if y.sid = sid then { y with up := true } else y) } })) ∧
      (good = false → t = spdmErr p.val 1 (sessEnd sid s)) ∧
      exec (.spdmFinish p false sid root true false) s = .next u ∧ u = spdmErr p.val 1 (sessEnd sid s)) ∧
  -- SPDM_HEARTBEAT
  (∀ (p : Fin 4) (sid : Nat) (s : State), spdmReady s p 3 → (sessOf s p sid).any (fun x => x.up) = true → exec (.spdmHeartbeat p false sid) s = .next (spdmGive p.val 0x68 [] s)) ∧
  -- SPDM_KEY_UPDATE
  (∀ (p : Fin 4) (sid : Nat) (op tag : BitVec 8) (s : State), spdmReady s p 3 → (sessOf s p sid).any (fun x => x.up) = true →
    exec (.spdmKeyUpdate p false sid op tag) s = .next (if 1 ≤ op.toNat ∧ op.toNat ≤ 3 then spdmGive p.val 0x69 [op, tag] s else spdmErr p.val 1 s)) ∧
  -- SPDM_END_SESSION
  (∀ (p : Fin 4) (sid : Nat) (s : State), spdmReady s p 3 → (sessOf s p sid).any (fun x => x.up) = true → exec (.spdmEndSession p false sid) s = .next (sessEnd sid (spdmGive p.val 0x6C [] s))) ∧
  -- SPDM_HEARTBEAT_LAPSE
  (∀ (sid : Nat) (s : State), ∃ t, exec (.spdmHeartbeatLapse sid) s = .next t ∧ (∀ x ∈ t.spdm.sessions, x.sid ≠ sid) ∧
    (∀ x ∈ s.spdm.sessions, x.sid ≠ sid → x ∈ t.spdm.sessions) ∧ (∀ g ∈ t.grants, g.session ≠ sid)) ∧
  -- SPDM_CHUNK_SEND
  (∀ (p : Fin 4) (last : Bool) (d : List Byte) (s : State), spdmReady s p 3 →
    exec (.spdmChunkSend p false 0 last d) s = .next (spdmGive p.val 0x05 (leBytes 2 0) { s with spdm := { s.spdm with chunkIn :=
        (if last then s.spdm.chunkIn.filter (fun x => x.1 ≠ p.val) else (p.val, 1, d) :: s.spdm.chunkIn.filter (fun x => x.1 ≠ p.val)) } })) ∧
  -- SPDM_CHUNK_GET
  (∀ (p : Fin 4) (x : Nat × Nat × List Byte) (s : State), spdmReady s p 3 → s.spdm.chunkOut.find? (fun x => x.1 = p.val) = some x → x.2.2.length ≤ s.spdm.dts.getD p.val 0 →
    exec (.spdmChunkGet p false x.2.1) s = .next (send (.spdm p.val 0x06 (leBytes 2 x.2.1 ++ leBytes 1 1 ++ x.2.2))
      { s with spdm := { s.spdm with chunkOut := s.spdm.chunkOut.filter (fun y => y.1 ≠ p.val) } })) ∧
  -- SPDM_UNSUPPORTED_REQUEST
  (∀ (p : Fin 4) (s : State), spdmReady s p 0 → exec (.spdmUnsupportedRequest p false 0x90) s = .next (spdmErr p.val 7 s))

/-- Under conditions on state and operands alone exec answers a next state: ECC_FILL_CELLAR, and ECC_FILL_DRAM after it, that the
checks let through with no fill running start the fill. ECC_FILL_DONE with no address ends a DRAM fill with the memory filled to
its end; with an address not before the fill pointer it fills to there. ECC_PATROL_READ of the DRAM with its patrol on reads one
unit, moves to the next and changes no byte. ECC_CE_WINDOW_EXPIRY empties the window's count. CORE_FETCH_UE_TRAP traps the core
and raises 0x0813, of class 2 the first time and of class 3 when the same page failed within the last second. CORE_RELOAD_DONE
ends the trap. CORE_DATA_UE_TRAP raises 0x0810, of class 2 and repaired with a source, of class 3 without. MEM_STATS answers the
memory's counts. MEM_REWRITE of a unit of the DRAM answers 0x0810 where the unit is bad or the read fails, else 0, and changes
no byte. MEM_RETIRE of a Cellar page retires it. Open points in it are the model's choice (log entries 8, 81, 82, 106 and 129).
Drawn on: R439, R440, R444, R445, R446, R447, R469. (14_memories_table_cache_and_dma.md) -/
def Obligations.MemoryErrorsAndCommands : Prop :=
  -- ECC_FILL_CELLAR
  (∀ (p : Path) (s : State), writeGoes p R.ECC_FILL_CTL 1 s → s.memc.fill = 0 →
    exec (.eccFillCellar p) s = .next (busAnswer p R.ECC_FILL_CTL 0 0 (setF F.ECC_FILL_CELLAR_DONE 0 { s with memc := { s.memc with fill := 1 } }))) ∧
  -- ECC_FILL_DRAM
  (∀ (p : Path) (s : State), writeGoes p R.ECC_FILL_CTL 2 s → s.memc.fill = 0 → isSet s F.ECC_FILL_CELLAR_DONE = true →
    exec (.eccFillDram p) s = .next (busAnswer p R.ECC_FILL_CTL 0 0 (wr R.ECC_FILL_PTR_HI 0 (wr R.ECC_FILL_PTR_LO 0
      (setF F.ECC_FILL_DRAM_DONE 0 { s with memc := { s.memc with fill := 2 } }))))) ∧
  -- ECC_FILL_DONE
  (∀ s : State, s.memc.fill = 2 →
    ∃ t, exec (.eccFillDone none) s = .next t ∧ t.memc.fill = 0 ∧ t.bring.dramFilled = true ∧ isSet t F.ECC_FILL_DRAM_DONE = true ∧
      t.mem = (fillTo (memSize s 3) s).mem ∧ t.bad = (fillTo (memSize s 3) s).bad) ∧
  -- ECC_FILL_DONE
  (∀ (q : BitVec 40) (s : State), s.memc.fill = 2 → q.toNat / 64 * 64 < memSize s 3 →
      rdN s R.ECC_FILL_PTR_LO + rdN s R.ECC_FILL_PTR_HI * 2 ^ 32 ≤ q.toNat / 64 * 64 →
    exec (.eccFillDone (some q)) s = .next (fillTo (q.toNat / 64 * 64) s)) ∧
  -- ECC_PATROL_READ
  (∀ (r : EccRes) (s : State), domOn s 15 = true → domOn s 14 = true → isSet s (F.ECC_PATROL_EN 3) = true → memSize s 3 ≠ 0 →
    ∃ t, exec (.eccPatrolRead false r) s = .next t ∧ t.memc.patrolDram = (s.memc.patrolDram % memSize s 3 + 64) % memSize s 3 ∧
      t.regs = (eccRead 3 (s.memc.patrolDram % memSize s 3) 5 r s).1.regs ∧ t.mem = s.mem) ∧
  -- ECC_CE_WINDOW_EXPIRY
  (∀ (m : Fin 5) (s : State), s.memc.ceWin.length = 5 → s.memc.ceRaised.length = 5 →
    ∃ t, exec (.eccCeWindowExpiry m) s = .next t ∧ t.memc.ceWin.getD m.val 1 = 0 ∧ t.memc.ceRaised.getD m.val true = false ∧ t.regs = s.regs) ∧
  -- CORE_FETCH_UE_TRAP
  (∀ (core : Fin 8) (off : BitVec 20) (s : State), s.pwr.coresRunning = true → s.memc.fetchUe = [] → s.memc.trapped = [] →
    exec (.coreFetchUeTrap core off) s = .next (raise 18 0x0813 2 1 core.val { (eccUe 1 (core.val * 2 ^ 20 + off.toNat) 0 s) with
      memc := { (eccUe 1 (core.val * 2 ^ 20 + off.toNat) 0 s).memc with fetchUe := [((core.val * 2 ^ 20 + off.toNat) / 4096, s.now.toNat)], trapped := [core.val] } })) ∧
  -- CORE_FETCH_UE_TRAP
  (∀ (core : Fin 8) (off : BitVec 20) (x : Nat × Nat) (s : State), s.pwr.coresRunning = true → s.memc.fetchUe = [x] → x.1 = (core.val * 2 ^ 20 + off.toNat) / 4096 →
      s.now.toNat - x.2 < 1000000000 →
    ∃ u, exec (.coreFetchUeTrap core off) s = .next (raise 18 0x0813 3 1 core.val u) ∧ u.regs = (eccUe 1 (core.val * 2 ^ 20 + off.toNat) 0 s).regs) ∧
  -- CORE_RELOAD_DONE
  (∀ (core : Fin 8) (s : State), s.memc.trapped.contains core.val = true →
    ∃ t, exec (.coreReloadDone core) s = .next t ∧ t.memc.trapped = s.memc.trapped.filter (fun c => c ≠ core.val) ∧ t.regs = s.regs) ∧
  -- CORE_DATA_UE_TRAP
  (∀ (core : Fin 8) (addr : BitVec 24) (s : State), s.pwr.coresRunning = true → addr.toNat < memSize s 1 →
    exec (.coreDataUeTrap core addr true) s = .next (raise 18 0x0810 2 1 core.val (clearBad 1 addr.toNat (eccUe 1 addr.toNat 1 s))) ∧
    exec (.coreDataUeTrap core addr false) s = .next (raise 18 0x0810 3 1 core.val (eccUe 1 addr.toNat 1 s))) ∧
  -- MEM_STATS
  (∀ (m : Fin 16) (s : State), Units s → mbxRuns s m 0x0800 → par (mbxAt s m).cmd 0 3 ≤ 4 →
    ∃ t, exec (.memStats m) s = .next t ∧ mbxReturns t m (leBytes 4 (rdN s (R.ECC_STATUS (par (mbxAt s m).cmd 0 3))) ++ List.replicate 4 0
      ++ leBytes 8 (cntVal s (R.ECC_CE_LO (par (mbxAt s m).cmd 0 3))) ++ leBytes 8 (cntVal s (R.ECC_UE_LO (par (mbxAt s m).cmd 0 3)))
      ++ (List.range 16).flatMap (statsEntry s (par (mbxAt s m).cmd 0 3))) ∧ t.regs = s.regs) ∧
  -- MEM_REWRITE
  (∀ (m : Fin 16) (r : EccRes) (s : State), Units s → mbxRuns s m 0x0801 → par (mbxAt s m).cmd 0 3 = 3 → par (mbxAt s m).cmd 8 56 < memSize s 3 →
      par (mbxAt s m).cmd 8 56 % 64 = 0 →
    ∃ t, exec (.memRewrite m r) s = .next t ∧ mbxAnswered t m (if isBad s 3 (par (mbxAt s m).cmd 8 56) || decide (r = .ue) then 0x0810 else 0) ∧ t.mem = s.mem) ∧
  -- MEM_RETIRE
  (∀ (m : Fin 16) (s : State), Units s → mbxRuns s m 0x0802 → par (mbxAt s m).cmd 0 3 = 0 → par (mbxAt s m).cmd 8 56 < 64 * 2 ^ 20 →
      par (mbxAt s m).cmd 8 56 % 4096 = 0 → s.nv.retired = [] →
    ∃ t, exec (.memRetire m) s = .next t ∧ mbxAnswered t m 0 ∧ t.nv.retired = [(0, par (mbxAt s m).cmd 8 56 / 4096)])

/-- Under conditions on state and operands alone exec answers a next state: TC_INVALIDATE_ALL that the checks let through and finds
no maintenance under way empties the cache, drops the fills in flight and sets BUSY. TC_INVALIDATE_RANGE and TC_PRELOAD are
answered with the maintenance's status, which is 0x0816 with TC_MAINT_ERR set while BUSY, for no line and for more than 8,192.
TC_MAINT_DONE of an invalidation clears BUSY. TC_FILL_DONE of a line into an empty cache holds the line with the line's bytes;
one whose fill was dropped holds nothing. DMA_GO of an idle or stopped channel whose fill descriptor is allowed loads it and
runs; with a descriptor that is not allowed it halts with 0x0016. DMA_STOP acts in the state running and DMA_RESUME in the state
error only, DMA_DISABLE disables the channel, DMA_COMMIT sets COMMITTED. DMA_DESCRIPTOR_DONE of a fill descriptor to a space
other than the partner's stores the pattern and completes it. Open points in it are the model's choice (log entries 8, 81, 83
and 128). Drawn on: R447, R457, R458, R460, R461, R462, R464, R465, R466, R468. (14_memories_table_cache_and_dma.md) -/
def Obligations.TableCacheAndDma : Prop :=
  -- TC_INVALIDATE_ALL
  (∀ (p : Path) (s : State), writeGoes p R.TC_MAINT (tcWord 1 0 0) s → isSet s F.TC_MAINT_BUSY = false →
    ∃ u, exec (.tcInvalidateAll p) s = .next (busAnswer p R.TC_MAINT 0 0 (setF F.TC_MAINT_BUSY 1 u)) ∧ u.memc.tcLines = [] ∧
      u.memc.tcFlight = s.memc.tcFlight.map (fun f => { f with drop := true })) ∧
  -- TC_INVALIDATE_RANGE
  (∀ (p : Path) (lines : Fin 16384) (s : State), writeGoes p R.TC_MAINT (tcWord 2 0 lines.val) s →
    exec (.tcInvalidateRange p lines) s = .next (busAnswer p R.TC_MAINT (tcMaint 2 0 lines.val s).2 0 (tcMaint 2 0 lines.val s).1)) ∧
  -- TC_PRELOAD
  (∀ (p : Path) (way : Fin 16) (lines : Fin 16384) (s : State), writeGoes p R.TC_MAINT (tcWord 3 way.val lines.val) s →
    exec (.tcPreload p way lines) s = .next (busAnswer p R.TC_MAINT (tcMaint 3 way.val lines.val s).2 0 (tcMaint 3 way.val lines.val s).1)) ∧
  -- TC_INVALIDATE_RANGE, TC_PRELOAD
  (∀ (op way lines : Nat) (s : State), op = 2 ∨ op = 3 → isSet s F.TC_MAINT_BUSY = true ∨ lines = 0 ∨ 8192 < lines →
    tcMaint op way lines s = (setF F.TC_MAINT_ERR 1 s, 0x0816)) ∧
  -- TC_MAINT_DONE
  (∀ (t : TcMaint) (s : State), s.memc.tcMaint = some t → t.op ≠ 3 →
    exec .tcMaintDone s = .next (setF F.TC_MAINT_BUSY 0 { s with memc := { s.memc with tcMaint := none, tcValid := s.memc.tcValid || decide (t.op = 1) } })) ∧
  -- TC_FILL_DONE
  (∀ (line : BitVec 32) (s : State), domOn s 14 = true → isSet s F.TC_EN = true → (line.toNat + 1) * 128 ≤ memSize s 3 →
      s.memc.tcLines = [] → s.memc.tcMaint = none → getF s F.TC_LOCK = 0 → isSet s F.TC_PREFETCH = false →
    (∀ k ∈ s.bad, k / 2 ^ 64 ≠ 3) → dramOff s = false → s.memc.tcFlight = [] →
    ∃ t, exec (.tcFillDone line false false .ok []) s = .next t ∧ t.memc.tcLines = [(line.toNat, 0)] ∧ t.memc.tcFlight = [] ∧
      memRead t (space 9 (line.toNat * 128)) 128 = memRead s (space 1 (line.toNat * 128)) 128) ∧
  -- TC_FILL_DONE
  (∀ (line : BitVec 32) (s : State), domOn s 14 = true → isSet s F.TC_EN = true → (line.toNat + 1) * 128 ≤ memSize s 3 →
      s.memc.tcFlight = [⟨line.toNat, false, true⟩] →
    ∃ t, exec (.tcFillDone line false false .ok []) s = .next t ∧ t.memc.tcLines = s.memc.tcLines ∧ t.memc.tcFlight = []) ∧
  -- DMA_GO
  (∀ (p : Path) (n : Fin 16) (s : State), writeGoes p (R.DMA_CH_CTL n.val) (BitVec.ofNat 32 (rdN s (R.DMA_CH_CTL n.val) + 2)) s →
      getF s (F.DMA_STATE n.val) = 1 ∨ getF s (F.DMA_STATE n.val) = 4 → s.memc.dmaDropped.getD n.val false = false → dmaDescOk s n.val (dmaDesc s n.val) = true →
      (dmaDesc s n.val).dop = 2 → dmaAddrOk s n.val (dmaDesc s n.val).dspace (dmaDesc s n.val).dst (dmaDesc s n.val).len true = true →
      domOn s (spaceDom (dmaDesc s n.val).dspace) = true →
    exec (.dmaGo p n) s = .next (busAnswer p (R.DMA_CH_CTL n.val) 0 0 ({ s with memc := { s.memc with dma := setAt s.memc.dma n.val (some (dmaDesc s n.val)) } }
      |> setF (F.DMA_STATE n.val) 2 |> setF (F.DMA_ERR_CODE n.val) 0 |> wr (R.DMA_CH_BYTES n.val) 0))) ∧
  -- DMA_GO
  (∀ (p : Path) (n : Fin 16) (s : State), writeGoes p (R.DMA_CH_CTL n.val) (BitVec.ofNat 32 (rdN s (R.DMA_CH_CTL n.val) + 2)) s →
      getF s (F.DMA_STATE n.val) = 1 → s.memc.dmaDropped.getD n.val false = false → dmaDescOk s n.val (dmaDesc s n.val) = false →
    exec (.dmaGo p n) s = .next (busAnswer p (R.DMA_CH_CTL n.val) 0 0 (dmaHalt n.val 0x0016 (rdN s (R.DMA_CH_DESC n.val)) s))) ∧
  -- DMA_STOP
  (∀ (p : Path) (n : Fin 16) (s : State), writeGoes p (R.DMA_CH_CTL n.val) (BitVec.ofNat 32 (rdN s (R.DMA_CH_CTL n.val) + 4)) s →
    exec (.dmaStop p n) s = .next (busAnswer p (R.DMA_CH_CTL n.val) 0 0 (if getF s (F.DMA_STATE n.val) = 2 then setF (F.DMA_STATE n.val) 3 s else s))) ∧
  -- DMA_RESUME
  (∀ (p : Path) (n : Fin 16) (s : State), writeGoes p (R.DMA_CH_CTL n.val) (BitVec.ofNat 32 (rdN s (R.DMA_CH_CTL n.val) + 8)) s →
    exec (.dmaResume p n) s = .next (busAnswer p (R.DMA_CH_CTL n.val) 0 0 (if getF s (F.DMA_STATE n.val) = 5 then dmaLoad n.val s else s))) ∧
  -- DMA_DISABLE
  (∀ (p : Path) (n : Fin 16) (s : State), writeGoes p (R.DMA_CH_CTL n.val) (BitVec.ofNat 32 (putBits (rdN s (R.DMA_CH_CTL n.val)) 0 1 0)) s →
    exec (.dmaDisable p n) s = .next (busAnswer p (R.DMA_CH_CTL n.val) 0 0 (dmaDisable n.val s))) ∧
  -- DMA_DESCRIPTOR_DONE
  (∀ (n : Fin 16) (ok : Bool) (host : List Host.Cell) (s : State), getF s (F.DMA_STATE n.val) = 2 ∨ getF s (F.DMA_STATE n.val) = 3 →
      (dmaCur (hostPlaces host s) n.val).dop = 2 → (dmaCur (hostPlaces host s) n.val).dspace ≠ 5 →
    exec (.dmaDescriptorDone n none ok host) s = .next (dmaComplete n.val (dmaCur (hostPlaces host s) n.val)
      (spaceStore (dmaCur (hostPlaces host s) n.val).dspace (dmaCur (hostPlaces host s) n.val).dst
        (fillBytes ((dmaCur (hostPlaces host s) n.val).src % 2 ^ 32) (dmaCur (hostPlaces host s) n.val).len) (hostPlaces host s)))) ∧
  -- DMA_COMMIT
  (∀ (p : Path) (s : State), writeGoes p R.DMA_GCTL 1 s → exec (.dmaCommit p) s = .next (busAnswer p R.DMA_GCTL 0 0 (setF F.DMA_COMMITTED 1 s)))

/-- Under conditions on state and operands alone exec answers a next state: CHANNEL_TRAIN_DONE of an owned channel in training shows
OWNED with FC_EN set at the lowest of the dies' best rates where it succeeds with a die, and FAILED with 0x0416 where not.
FLASH_PROGRAM_DONE puts a staged page into its block, or fails the program, where the block's next page is no parity page; where
it is and its row is ready it programs the parity. FLASH_ERASE_DONE of a FREE block leaves it ERASED with one erase more and its
pages zero. FLASH_READ_DONE that needed no step counts one read of the block and serves what waited. DIE_BUSY_TIMEOUT notes the
die as failed and raises 0x0413. FLASH_PATROL_TIMER ends the request for a patrol and counts one read of every closed block of
an owned channel with its patrol on. Open points in it are the model's choice (log entries 8, 11 and 76). Drawn on: R404, R405,
R407, R410, R412, R413, R415, R416, R434. (13_flash_tier_disk_runs_and_racking.md) -/
def Obligations.FlashOperations : Prop :=
  -- CHANNEL_TRAIN_DONE
  (∀ (c : Fin 32) (dies : List DieReport) (bad : List (Nat × Nat)) (s : State), RegsWf s → getF s (F.FC_STATE c.val) = 1 → owns s (8 + c.val) = true →
    let used := (diesFit dies).filter (fun r => r.best ≠ 0)
    ∃ t u, exec (.channelTrainDone c true dies bad) s = .next t ∧ exec (.channelTrainDone c false dies bad) s = .next u ∧
      (used.isEmpty = false → getF t (F.FC_STATE c.val) = 2 ∧ isSet t (F.FC_EN c.val) = true ∧
        getF t (F.FC_RATE_MTS c.val) = used.foldl (fun m r => min m r.best) 3600) ∧
      u = raise 9 0x0416 2 (16 * c.val) 0 (setF (F.FC_ERR_TRAIN c.val) 1 (setF (F.FC_STATE c.val) 4 s)) ∧ (used.isEmpty = true → t = u)) ∧
  -- FLASH_PROGRAM_DONE
  (∀ (c : Fin 32) (d : Fin 16) (b : Blk) (s : State), chOwned s c.val = true → dieUsed s c.val d.val = true → programBlk s c.val d.val false = some b →
      parityPage s c.val d.val b.next = false →
    (∀ g : Fin 2, (s.fl.stage.getD g.val []).isEmpty = false → s.fl.stageLfp.getD g.val 0 ≠ 0 → exec (.flashProgramDone c d (.stage g) true) s = .next
      (stageDone g.val (progInto b false 1 g.val (s.fl.stageLfp.getD g.val 0) ((s.fl.stage.getD g.val []).take 16384) s).1
        (progInto b false 1 g.val (s.fl.stageLfp.getD g.val 0) ((s.fl.stage.getD g.val []).take 16384) s).2)) ∧
    (∀ g : Fin 2, exec (.flashProgramDone c d (.stage g) false) s = .next (programFailed c.val d.val b s))) ∧
  -- FLASH_PROGRAM_DONE
  (∀ (c : Fin 32) (d : Fin 16) (b : Blk) (s : State), chOwned s c.val = true → dieUsed s c.val d.val = true → programBlk s c.val d.val false = some b →
    parityPage s c.val d.val b.next = true → rowReady s c.val d.val b.set b.next = true →
    exec (.flashProgramDone c d .parity true) s = .next (progInto b false 4 0 0 (rowParity s c.val d.val b.set b.next) s).2) ∧
  -- FLASH_ERASE_DONE
  (∀ (c : Fin 32) (d : Fin 16) (b : BitVec 16) (s : State), chOwned s c.val = true → dieUsed s c.val d.val = true → (blkOf s c.val d.val b.toNat).state = 1 →
      b.toNat < (chan s c.val).blocks →
    ∃ t, exec (.flashEraseDone c d b true) s = .next t ∧ (blkOf t c.val d.val b.toNat).state = 2 ∧
      (blkOf t c.val d.val b.toNat).erases = (blkOf s c.val d.val b.toNat).erases + 1 ∧
      t.mem = (memZero (pageAddr (ppa c.val d.val b.toNat 0)) (4096 * 32768) s).mem) ∧
  -- FLASH_READ_DONE
  (∀ (g : Fin 2) (lfp : BitVec 34) (p : Nat) (s : State), ppaOf s g.val lfp.toNat = some p → chOwned s (ppaCh p) = true → ladderStep s p 0 = 0 →
    exec (.flashReadDone g lfp 0) s = .next (needsDone (fun n => decide (n.kind = 0 ∧ n.a = g.val ∧ n.b = lfp.toNat)) none
      (updBlk (ppaCh p) (ppaDie p) (ppaBlk p) (fun x => { x with reads := x.reads + 1, refresh := x.refresh || decide (rdDisturb (chan s (ppaCh p)) ≤ x.reads + 1) }) s))) ∧
  -- DIE_BUSY_TIMEOUT
  (∀ (c : Fin 32) (d : Fin 16) (s : State), chOwned s c.val = true → dieUsed s c.val d.val = true →
    ∃ u, exec (.dieBusyTimeout c d) s = .next (raise 9 0x0413 2 (16 * c.val + d.val) 0 u) ∧
      u.tier.chans = (updChan c.val (fun h => { h with dead := (d.val, 4) :: h.dead.filter (fun e => e.1 ≠ d.val) }) s).tier.chans) ∧
  -- FLASH_PATROL_TIMER
  (∀ (weak : List (Nat × Nat × Nat)) (s : State), engOn s 8 = true → ctlMode s = true →
    ∃ t, exec (.flashPatrolTimer weak) s = .next t ∧ t.fl.patrol = false ∧ t.tier.blks.map (fun x => x.reads) =
      s.tier.blks.map (fun x => if x.state = 4 ∧ chOwned s x.ch = true ∧ isSet s (F.FC_PATROL_EN x.ch) = true then x.reads + 1 else x.reads))

/-- Under conditions on state and operands alone exec answers a next state: HEAT_HALVING_TIMER halves the heat of every record and
changes no register or byte. RACK_MOVE_START of the warming kind with a warm record starts its move, and of the collection kind
with a source block starts the block. RACK_SOURCE_READ_DONE takes the source's read. RACK_TARGET_VERIFIED commits the move where
the target reads back, and restarts a move to flash where it does not. RACK_SOURCE_RELEASE with no command waiting removes the
move. CAPACITY_ACCOUNT_TIMER with the link up sends the account. CAPACITY_ACCOUNT_RECEIVED keeps the partner's account and
clears RACK_CAP_FULL where the room suffices, and changes no register where it does not. Open points in it are the model's
choice (log entries 8, 77, 78 and 126). Drawn on: R421, R423, R424, R425, R426, R428, R429.
(13_flash_tier_disk_runs_and_racking.md) -/
def Obligations.RackingMoves : Prop :=
  -- HEAT_HALVING_TIMER
  (∀ s : State, ∃ t, exec .heatHalvingTimer s = .next t ∧ t.tier.recs = s.tier.recs.map (fun r => { r with heat := r.heat / 2 }) ∧ t.regs = s.regs ∧ t.mem = s.mem) ∧
  -- RACK_MOVE_START
  (∀ (g : Fin 2) (c : Fin 32) (band : BitVec 24) (r : RecEnt) (s : State), rackMode s 3 = true → rackEnabled s 3 = true → holdsGroup s g.val = true →
      rackWants s 3 c.val = true → s.tier.recs.find? (fun r => decide (r.group = g.val ∧ 0 < r.refs ∧ r.state = 1 ∧ locTier r.loc = 2
        ∧ getF s F.RACK_WARM_HITS ≤ r.heat)) = some r →
    exec (.rackMoveStart g 3 c band) s = .next (addMove { newMove 3 g.val with rids := [(r.rid, r.loc)] } (setKind 3 true s))) ∧
  -- RACK_MOVE_START
  (∀ (g : Fin 2) (c : Fin 32) (band : BitVec 24) (b : Blk) (s : State), rackMode s 0 = true → rackEnabled s 0 = true → holdsGroup s g.val = true →
      rackWants s 0 c.val = true → sourceBlk s 0 c.val = some b →
    exec (.rackMoveStart g 0 c band) s = .next (startBlk 0 g.val b (setKind 0 true s))) ∧
  -- RACK_SOURCE_READ_DONE
  (∀ (id : Nat) (bad : List Nat) (m : Move) (s : State), moveOf s id = some m → m.step = 1 → exec (.rackSourceReadDone id bad) s = .next (rackSourceRead m bad s)) ∧
  -- RACK_TARGET_VERIFIED
  (∀ (id : Nat) (m : Move) (s : State), moveOf s id = some m → holdsGroup s m.group = true → m.step = 3 →
    exec (.rackTargetVerified id true) s = .next (rackCommit m s) ∧
    (m.tgtRun = none → exec (.rackTargetVerified id false) s = .next (rackRestart m s))) ∧
  -- RACK_SOURCE_RELEASE
  (∀ (id : Nat) (m : Move) (s : State), moveOf s id = some m → m.step = 5 → s.host.cmds = [] →
    ∃ t, exec (.rackSourceRelease id) s = .next t ∧ t.fl.moves = s.fl.moves.filter (fun x => x.id ≠ id)) ∧
  -- CAPACITY_ACCOUNT_TIMER
  (∀ s : State, isSet s F.NAL_UP = true → ctlMode s = true →
    exec .capacityAccountTimer s = .next (roGive (nalSend 2 4 [(account s).1, (account s).2.1, (account s).2.2] s))) ∧
  -- CAPACITY_ACCOUNT_RECEIVED
  (∀ (cap st u : Nat) (s : State), isSet s F.NAL_UP = true →
    ∃ t, exec (.capacityAccountReceived cap st u) s = .next t ∧ t.fl.partnerAcct = some (cap, st, u) ∧ t.fl.exchanged = true ∧
      (capShort { s with fl := { s.fl with partnerAcct := some (cap, st, u), exchanged := true } } = true → t.regs = s.regs) ∧
      (capShort { s with fl := { s.fl with partnerAcct := some (cap, st, u), exchanged := true } } = false → t.regs = (setF F.RACK_CAP_FULL 0 s).regs))

/-- Under conditions on state and operands alone exec answers a next state: TIER_HEALTH returns this device's page alone, or joined
with the partner's. RACK_POLICY_SET writes the policy registers, RACK_POLICY_GET returns them. RACK_START_GC,
RACK_START_COOLING, RACK_START_COMPACTION and RACK_START_HOMING note their kind; RACK_START_PATROL asks for a patrol, and a kind
above 4 gets 0x0016. RUN_INFO answers 0x0A11 for an actuator not owned and else returns the entry of a band within it.
FL_DIE_RETIRE of a used die of an owned channel answers 0 where the die holds no page and else waits. FL_PAGE_READ within the
channel returns the page and its spare bytes and changes nothing. FL_TABLE_LOAD of 80 bytes with a good CRC keeps them for the
channel. FPM_COMMIT that the checks let through sets COMMITTED. TEMP_SAMPLE_TIMER counts a minute in both histories; at 80
degrees the life grows by 1,000,000. TEMP_HISTORY_HOURLY saves both histories and counts one power-on hour. Open points in it
are the model's choice (log entries 8, 49, 77 and 78). Drawn on: R12, R404, R407, R416, R418, R431, R432, R434, R506.
(00_scope.md, 13_flash_tier_disk_runs_and_racking.md, 16_register_map.md) -/
def Obligations.TierCommands : Prop :=
  -- TIER_HEALTH
  (∀ (m : Fin 16) (s : State), Units s → mbxRuns s m 0x0400 →
    (∃ t, exec (.tierHealth m none) s = .next t ∧ mbxReturns t m (healthPart (begun m.val s) true) ∧ t.regs = s.regs) ∧
    (∀ b, isSet s F.NAL_UP = true → ∃ t, exec (.tierHealth m (some b)) s = .next t ∧ mbxReturns t m (healthJoin (healthPart (begun m.val s) false) (padTo 512 b)))) ∧
  -- RACK_POLICY_SET
  (∀ (m : Fin 16) (s : State), Units s → mbxRuns s m 0x0401 →
    ∃ t, exec (.rackPolicySet m) s = .next t ∧ mbxAnswered t m 0 ∧ t.regs = (rackPolicy (mbxAt s m).cmd.data s).regs) ∧
  -- RACK_POLICY_GET
  (∀ (m : Fin 16) (s : State), Units s → mbxRuns s m 0x0402 →
    ∃ t, exec (.rackPolicyGet m) s = .next t ∧ mbxReturns t m ([R.RACK_CTL, R.RACK_GC_CFG, R.RACK_COOL_CFG, R.RACK_WARM_CFG, R.RACK_RESERVE, R.RACK_PATROL].flatMap
        (fun a => leBytes 4 (rdN s a))) ∧ t.regs = s.regs) ∧
  -- RACK_START_GC, RACK_START_COOLING, RACK_START_COMPACTION, RACK_START_HOMING
  (∀ (m : Fin 16) (s : State), Units s → mbxRuns s m 0x0403 →
    (par (mbxAt s m).cmd 0 3 = 0 → ∃ t, exec (.rackStartGc m) s = .next t ∧ mbxAnswered t m 0 ∧ t.fl.kinds = putBits s.fl.kinds 0 1 1) ∧
    (par (mbxAt s m).cmd 0 3 = 1 → ∃ t, exec (.rackStartCooling m) s = .next t ∧ mbxAnswered t m 0 ∧ t.fl.kinds = putBits s.fl.kinds 1 1 1) ∧
    (par (mbxAt s m).cmd 0 3 = 2 → ∃ t, exec (.rackStartCompaction m) s = .next t ∧ mbxAnswered t m 0 ∧ t.fl.kinds = putBits s.fl.kinds 2 1 1) ∧
    (par (mbxAt s m).cmd 0 3 = 3 → ∃ t, exec (.rackStartHoming m) s = .next t ∧ mbxAnswered t m 0 ∧ t.fl.kinds = putBits s.fl.kinds 5 1 1)) ∧
  -- RACK_START_PATROL
  (∀ (m : Fin 16) (s : State), Units s → mbxRuns s m 0x0403 → 4 ≤ par (mbxAt s m).cmd 0 3 →
    ∃ t, exec (.rackStartPatrol m) s = .next t ∧ mbxAnswered t m (if par (mbxAt s m).cmd 0 3 = 4 then 0 else 0x0016) ∧
      t.fl.patrol = (s.fl.patrol || decide (par (mbxAt s m).cmd 0 3 = 4))) ∧
  -- RUN_INFO
  (∀ (m : Fin 16) (s : State), Units s → mbxRuns s m 0x0404 →
    (owns s (par (mbxAt s m).cmd 0 2) = false → ∃ t, exec (.runInfo m) s = .next t ∧ mbxAnswered t m 0x0A11) ∧
    (owns s (par (mbxAt s m).cmd 0 2) = true → par (mbxAt s m).cmd 8 24 < bandsOf s (par (mbxAt s m).cmd 0 2) →
      ∃ t, exec (.runInfo m) s = .next t ∧ mbxReturns t m (runEntry (runOf s (par (mbxAt s m).cmd 0 2) (par (mbxAt s m).cmd 8 24))))) ∧
  -- FL_DIE_RETIRE
  (∀ (m : Fin 16) (s : State), Units s → mbxRuns s m 0x0405 → owns s (8 + par (mbxAt s m).cmd 0 5) = true → chOwned s (par (mbxAt s m).cmd 0 5) = true →
      dieUsed s (par (mbxAt s m).cmd 0 5) (par (mbxAt s m).cmd 8 4) = true →
    (diePages s (par (mbxAt s m).cmd 0 5) (par (mbxAt s m).cmd 8 4) = [] → ∃ t, exec (.flDieRetire m) s = .next t ∧ mbxAnswered t m 0) ∧
    (diePages s (par (mbxAt s m).cmd 0 5) (par (mbxAt s m).cmd 8 4) ≠ [] → ∃ t, exec (.flDieRetire m) s = .next t ∧ mbxWaits t m ∧
      t.fl.retiring = s.fl.retiring ++ [(m.val, par (mbxAt s m).cmd 0 5, par (mbxAt s m).cmd 8 4)])) ∧
  -- FL_PAGE_READ
  (∀ (m : Fin 16) (s : State), Units s → mbxRuns s m 0x0406 → owns s (8 + ppaCh (par (mbxAt s m).cmd 0 37)) = true → chOwned s (ppaCh (par (mbxAt s m).cmd 0 37)) = true →
      bitAt (chan s (ppaCh (par (mbxAt s m).cmd 0 37))).present (ppaDie (par (mbxAt s m).cmd 0 37)) = true →
      ppaBlk (par (mbxAt s m).cmd 0 37) < (chan s (ppaCh (par (mbxAt s m).cmd 0 37))).blocks →
      bitsAt (par (mbxAt s m).cmd 0 37) 0 12 < (chan s (ppaCh (par (mbxAt s m).cmd 0 37))).pages →
    ∃ t, exec (.flPageRead m) s = .next t ∧ (mbxAt t m).result = some ⟨0, [], 18432, 0, memRead s (pageAddr (par (mbxAt s m).cmd 0 37)) 16384
      ++ spareBytes s (par (mbxAt s m).cmd 0 37)⟩ ∧ t.regs = s.regs ∧ t.mem = s.mem) ∧
  -- FL_TABLE_LOAD
  (∀ (m : Fin 16) (s : State), Units s → mbxRuns s m 0x0407 → (mbxAt s m).cmd.ext.length = 80 → leAt (mbxAt s m).cmd.ext 0x4C 4 = crc32c ((mbxAt s m).cmd.ext.take 0x4C) →
    ∃ t, exec (.flTableLoad m) s = .next t ∧ (mbxAt t m).result = some ⟨0, [], 80, 0, []⟩ ∧
      t.tier.chans = (updChan (par (mbxAt s m).cmd 0 5) (fun h => { h with tableNew := (mbxAt s m).cmd.ext }) s).tier.chans) ∧
  -- FPM_COMMIT
  (∀ (p : Path) (s : State), writeGoes p R.FPM_GCTL 1 s → exec (.fpmCommit p) s = .next (busAnswer p R.FPM_GCTL 0 0 (setF F.FPM_COMMITTED 1 s))) ∧
  -- TEMP_SAMPLE_TIMER
  (∀ (mech : Int) (s : State), live s = true →
    ∃ t, exec (.tempSampleTimer mech) s = .next t ∧ (t.tier.tjAcc, t.tier.tjHist) = binMinute (tempBin (tjOf s)) s.tier.tjAcc s.tier.tjHist ∧
      (t.tier.mechAcc, t.tier.mechHist) = binMinute (tempBin mech) s.tier.mechAcc s.tier.mechHist ∧ t.regs = s.regs ∧
      (tjOf s = 80 → t.tier.lifeMin = s.tier.lifeMin + 1000000)) ∧
  -- TEMP_HISTORY_HOURLY
  (∀ s : State, live s = true → ∃ t, exec .tempHistoryHourly s = .next t ∧ t.tier.savedTj = s.tier.tjHist ∧ t.tier.savedMech = s.tier.mechHist ∧
    t.tier.powerHours = min (2 ^ 32 - 1) (s.tier.powerHours + 1) ∧ t.regs = s.regs)

/-- Under conditions on state and operands alone exec answers a next state: CHUNK_REDUCTION_START from a journal entry of a held
group starts the entry; from a waiting job it decides the job by its volume's policy of now. A chunk of zeros is decided as
having no record. TENTATIVE_RESOLVED with no other job of the fingerprint, and INDEX_PAGE_READ_DONE, decide the job again.
CHUNK_CODED stages a raw record with the coder off; with a coder it stages the coded record where it is short enough and decodes
to the data, else a raw one counted as raw, with 0x051B where the check failed. REDUCTION_RECORD_COMMIT of a finished job with
no canal of its target applies the job and removes it. DEFERRED_PASS_TIMER puts every deferred entry of a held group on the pass
list and changes no register or byte. DEFERRED_PASS_ENTRY takes the first entry of the pass. RED_BACKLOG_ONSET sets RED_BACKLOG,
lowers both caps and raises 0x051E; RED_BACKLOG_STEP_TIMER lowers both caps in a backlog and else raises each by 1 up to its
limit; RED_BACKLOG_RELEASE below the low mark clears RED_BACKLOG. RED_POLICY_SET gives a volume of a held group an allowed
policy, and answers 0x0016 to one that is not allowed, changing no volume. RED_POLICY_GET returns the policy, RED_STATS the
status and the counters. RED_DEDUP_SCAN returns the number of deferred entries of its held group and starts the pass.
RED_RECORD_READ returns a held record's bytes, and answers 0x0419 where no live record is there. RED_FLT_CLR that the checks let
through empties the four filter halves and zeroes both insertion counts. Open points in it are the model's choice (log entries
8, 19, 45 and 74). Drawn on: R337, R339, R340, R342, R343, R344, R345, R346, R349, R353, R354, R362, R366, R373.
(11_data_reduction.md, 12_volumes_snapshots_and_canals.md) -/
def Obligations.DataReduction : Prop :=
  -- CHUNK_REDUCTION_START
  (∀ (c q : Bool) (src : Fin 2 × BitVec 32 × Nat) (x : Bool) (s : State), engOn s 9 = true → holdsGroup s src.1.val = true →
    exec (.chunkReductionStart (.entry src.1 src.2.1 src.2.2) c q x) s = .next (startEntry src.1.val src.2.1.toNat src.2.2 c q x s)) ∧
  -- CHUNK_REDUCTION_START
  (∀ (id : Nat) (c q x : Bool) (j : RedJob) (s : State), engOn s 9 = true → jobOf s id = some j → j.stage = 6 →
    exec (.chunkReductionStart (.job id) c q x) s = .next (redDecide c { j with policy := volPolicy s j.vol } (updJob id (fun j => { j with policy := volPolicy s j.vol }) s))) ∧
  -- CHUNK_REDUCTION_START, TENTATIVE_RESOLVED, INDEX_PAGE_READ_DONE
  (∀ (c : Bool) (j : RedJob) (s : State), j.data.all (fun b => b = 0) = true →
    redDecide c j s = updJob j.id (fun j => { j with stage := 5, rid := none, isRef := false }) s) ∧
  -- TENTATIVE_RESOLVED
  (∀ (id : Nat) (j : RedJob) (s : State), jobOf s id = some j → j.stage = 1 → s.red.tent.any (fun t => t.1 = j.group ∧ t.2.1 = j.fp) = false →
    exec (.tentativeResolved id) s = .next (redDecide true j s)) ∧
  -- INDEX_PAGE_READ_DONE
  (∀ (id : Nat) (j : RedJob) (s : State), jobOf s id = some j → j.stage = 2 → exec (.indexPageReadDone id) s = .next (redDecide true j s)) ∧
  -- CHUNK_CODED
  (∀ (id : Nat) (faulty : Option (List Byte)) (j : RedJob) (s : State), jobOf s id = some j → j.stage = 0 → engOn s 9 = true → j.policy.coder = 0 →
    exec (.chunkCoded id faulty) s = .next (flashRoCheck (stageRecord j (mkRecord 0 0 j.data j.data j.fp) (count R.RED_RAW_LO 1 s)))) ∧
  -- CHUNK_CODED
  (∀ (id : Nat) (j : RedJob) (s : State), jobOf s id = some j → j.stage = 0 → engOn s 9 = true → (coderLevel s j.policy).1 ≠ 0 →
    let cl := coderLevel s j.policy
    let payload := encodePayload cl.1 cl.2 j.data
    exec (.chunkCoded id none) s = .next (flashRoCheck (
      if 8192 - min 4096 (getF s F.RED_RAW_MARGIN) < payload.length then stageRecord j (mkRecord 0 cl.2 j.data j.data j.fp) (count R.RED_RAW_LO 1 s)
      else if selfCheck cl.1 payload j.data then stageRecord j (mkRecord cl.1 cl.2 payload j.data j.fp) s
      else stageRecord j (mkRecord 0 cl.2 j.data j.data j.fp) (count R.RED_RAW_LO 1 (raise 11 0x051B 1 j.group 0 s))))) ∧
  -- CHUNK_CODED
  (∀ (id : Nat) (p : List Byte) (j : RedJob) (s : State), jobOf s id = some j → j.stage = 0 → engOn s 9 = true → (coderLevel s j.policy).1 ≠ 0 →
      selfCheck (coderLevel s j.policy).1 p j.data = false → p.length ≤ 8192 - min 4096 (getF s F.RED_RAW_MARGIN) →
    exec (.chunkCoded id (some p)) s = .next (flashRoCheck
      (stageRecord j (mkRecord 0 (coderLevel s j.policy).2 j.data j.data j.fp) (count R.RED_RAW_LO 1 (raise 11 0x051B 1 j.group 0 s))))) ∧
  -- REDUCTION_RECORD_COMMIT
  (∀ (id : Nat) (j : RedJob) (s : State), jobOf s id = some j → j.stage = 4 ∨ j.stage = 5 → isSet s F.VAT_READY = true → canalOf s (targetEnd j.vol) = none →
    ∃ t, exec (.reductionRecordCommit id) s = .next t ∧ t.red = (dropJob id (redApply j s)).red ∧ t.volu = (redApply j s).volu ∧ jobOf t id = none) ∧
  -- DEFERRED_PASS_TIMER
  (∀ s : State, ∃ t, exec .deferredPassTimer s = .next t ∧ t.regs = s.regs ∧ t.mem = s.mem ∧
    (∀ d ∈ s.tier.defer, d.group < 2 → holdsGroup s d.group = true → (d.group, d.rid) ∈ t.red.pass) ∧
    (holdsGroup s 0 = false → holdsGroup s 1 = false → t.red.pass = s.red.pass)) ∧
  -- DEFERRED_PASS_ENTRY
  (∀ (g rid : Nat) (rest : List (Nat × Nat)) (d : DefEnt) (s : State), s.red.pass = (g, rid) :: rest →
      s.tier.defer.find? (fun e => e.group = g ∧ e.rid = rid) = some d → holdsGroup s g = true → isSet s F.VAT_READY = true →
    exec .deferredPassEntry s = .next (passEntry d s)) ∧
  -- RED_BACKLOG_ONSET
  (∀ s : State, engOn s 9 = true → backlogHi s < unreduced s → isSet s F.RED_BACKLOG = false →
    exec .redBacklogOnset s = .next (raise 11 0x051E 2 0xFFFF 0 (capsDown (setF F.RED_BACKLOG 1 s)))) ∧
  -- RED_BACKLOG_STEP_TIMER
  (∀ s : State, engOn s 9 = true → exec .redBacklogStepTimer s = .next (if isSet s F.RED_BACKLOG then capsDown s
    else setF F.RED_CAP_YW (min 9 (getF (setF F.RED_CAP_DQ (min 4 (getF s F.RED_CAP_DQ + 1)) s) F.RED_CAP_YW + 1)) (setF F.RED_CAP_DQ (min 4 (getF s F.RED_CAP_DQ + 1)) s))) ∧
  -- RED_BACKLOG_RELEASE
  (∀ s : State, isSet s F.RED_BACKLOG = true → unreduced s < getF s F.RED_BACKLOG_LO * 2 ^ 20 → exec .redBacklogRelease s = .next (setF F.RED_BACKLOG 0 s)) ∧
  -- RED_POLICY_SET
  (∀ (m : Fin 16) (v : Volume) (s : State), Units s → mbxRuns s m 0x0500 → volOf s (par (mbxAt s m).cmd 0 15) = some v → holdsGroup s v.group = true →
      policyOk ⟨par (mbxAt s m).cmd 16 2, decide (par (mbxAt s m).cmd 18 1 = 1), par (mbxAt s m).cmd 20 2, par (mbxAt s m).cmd 24 4⟩ = true →
    ∃ t, exec (.redPolicySet m) s = .next t ∧ mbxAnswered t m 0 ∧ t.volu = (updVol v.num (fun v => { v with policy :=
      ⟨par (mbxAt s m).cmd 16 2, decide (par (mbxAt s m).cmd 18 1 = 1), par (mbxAt s m).cmd 20 2, par (mbxAt s m).cmd 24 4⟩ }) s).volu) ∧
  -- RED_POLICY_SET
  (∀ (m : Fin 16) (s : State), Units s → mbxRuns s m 0x0500 →
      policyOk ⟨par (mbxAt s m).cmd 16 2, decide (par (mbxAt s m).cmd 18 1 = 1), par (mbxAt s m).cmd 20 2, par (mbxAt s m).cmd 24 4⟩ = false →
    ∃ t, exec (.redPolicySet m) s = .next t ∧ mbxAnswered t m 0x0016 ∧ t.volu = s.volu) ∧
  -- RED_POLICY_GET
  (∀ (m : Fin 16) (v : Volume) (s : State), Units s → mbxRuns s m 0x0501 → volOf s (par (mbxAt s m).cmd 0 15) = some v → holdsGroup s v.group = true →
    ∃ t, exec (.redPolicyGet m) s = .next t ∧ mbxReturns t m (leBytes 4 (v.num + v.policy.dedup * 2 ^ 16 + b2n v.policy.verify * 2 ^ 18
      + v.policy.coder * 2 ^ 20 + v.policy.level * 2 ^ 24)) ∧ t.volu = s.volu) ∧
  -- RED_STATS
  (∀ (m : Fin 16) (s : State), Units s → mbxRuns s m 0x0502 →
    ∃ t, exec (.redStats m) s = .next t ∧ mbxReturns t m (leBytes 4 (rdN s R.RED_STATUS)
      ++ (List.range 8).flatMap (fun n => leBytes 8 (cntVal s (R.RED_CHUNKS_LO + 8 * n)))) ∧ t.regs = s.regs) ∧
  -- RED_DEDUP_SCAN
  (∀ (m : Fin 16) (s : State), Units s → mbxRuns s m 0x0503 → holdsGroup s (par (mbxAt s m).cmd 0 1) = true →
    ∃ t, exec (.redDedupScan m) s = .next t ∧ mbxReturns t m (leBytes 8 (s.tier.defer.filter (fun e => e.group = par (mbxAt s m).cmd 0 1)).length) ∧
      t.red = (startPass (par (mbxAt s m).cmd 0 1) s).red) ∧
  -- RED_RECORD_READ
  (∀ (m : Fin 16) (s : State), Units s → mbxRuns s m 0x0504 → holdsGroup s (bitsAt (mbxAt s m).cmd.param.toNat 61 1) = true →
    (∀ b, (s.tier.recs.find? (fun r => r.loc = (mbxAt s m).cmd.param.toNat ∧ 0 < r.refs)).bind (recBytes s) = some b →
      ∃ t, exec (.redRecordRead m) s = .next t ∧ (mbxAt t m).result = some ⟨0, [], b.length, 0, b⟩) ∧
    ((s.tier.recs.find? (fun r => r.loc = (mbxAt s m).cmd.param.toNat ∧ 0 < r.refs)).bind (recBytes s) = none →
      ∃ t, exec (.redRecordRead m) s = .next t ∧ mbxAnswered t m 0x0419)) ∧
  -- RED_FLT_CLR
  (∀ (p : Path) (s : State), writeGoes p R.RED_CTL 4 s → ∃ u, exec (.redFltClr p) s = .next (busAnswer p R.RED_CTL 0 0 u) ∧ u.red.filter = [[], [], [], []] ∧
    (RegsWf s → getF u (F.RED_FLT_INS 0) = 0 ∧ getF u (F.RED_FLT_INS 1) = 0))

/-- Under conditions on state and operands alone exec answers a next state: VOL_CREATE of a named volume of an allowed size with an
NGUID, outside Drain, adds the new volume and returns its handle, or answers 0x0710 where the number is in use. VOL_DELETE of a
volume with no snapshot and no canal enters the delete. VOL_RESIZE grows at once and enters a shrink. VOL_ACCESS_ADD of a new
host adds it to a list of fewer than 64 and answers 0x0726 to a full one; VOL_ACCESS_REMOVE removes a listed host and answers
0x001B for another. VOL_INFO returns 64 bytes with the volume's handle and size, VOL_LIST up to 495 volume numbers in rising
order from the one asked for; neither changes a volume. Open points in it are the model's choice (log entries 8, 49 and 71).
Drawn on: R368, R369, R370, R371, R372, R373, R374, R381, R399. (12_volumes_snapshots_and_canals.md) -/
def Obligations.VolumeCommands : Prop :=
  -- VOL_CREATE
  (∀ (m : Fin 16) (s : State), Units s → volRuns s m 0x0700 → (mbxAt s m).cmd.data.length = 24 → par (mbxAt s m).cmd 19 1 = 0 → sizeOk (leAt (mbxAt s m).cmd.data 0 8) = true →
      mode s ≠ 6 → par (mbxAt s m).cmd 0 15 ≠ 0 → par (mbxAt s m).cmd 17 1 = 1 → (slice (mbxAt s m).cmd.data 8 16).all (fun b => b = 0) = false →
    (volOf s (par (mbxAt s m).cmd 0 15) = none → ∃ t, exec (.volCreate m) s = .next t ∧ mbxReturns t m (leBytes 4 (handleOf s (par (mbxAt s m).cmd 0 15))) ∧
      t.volu.vols = s.volu.vols ++ [newVolume (par (mbxAt s m).cmd 0 15) (par (mbxAt s m).cmd 16 1) (leAt (mbxAt s m).cmd.data 0 8) (par (mbxAt s m).cmd 18 1) 0 0
        (slice (mbxAt s m).cmd.data 8 16) s]) ∧
    (∀ v, volOf s (par (mbxAt s m).cmd 0 15) = some v → ∃ t, exec (.volCreate m) s = .next t ∧ mbxAnswered t m 0x0710 ∧ t.volu = s.volu)) ∧
  -- VOL_DELETE
  (∀ (m : Fin 16) (v : Volume) (s : State), Units s → volRuns s m 0x0701 → par (mbxAt s m).cmd 0 15 ≠ 0 → volOf s (par (mbxAt s m).cmd 0 15) = some v → v.snaps = [] → canalOn s v.num = false →
    exec (.volDelete m) s = .next (enter { newCmd (.mbox m.val) (.volDelete (decide (par (mbxAt s m).cmd 16 1 = 1))) v.num 0 v.size true with whole := true } (begun m.val s))) ∧
  -- VOL_RESIZE
  (∀ (m : Fin 16) (v : Volume) (s : State), Units s → volRuns s m 0x0702 → par (mbxAt s m).cmd 0 15 ≠ 0 → volOf s (par (mbxAt s m).cmd 0 15) = some v → sizeOk (leAt (mbxAt s m).cmd.data 0 8) = true →
    (v.size ≤ leAt (mbxAt s m).cmd.data 0 8 → ∃ t, exec (.volResize m) s = .next t ∧ mbxAnswered t m 0 ∧
      t.volu = (updVol v.num (fun v => { v with size := leAt (mbxAt s m).cmd.data 0 8 }) s).volu) ∧
    (leAt (mbxAt s m).cmd.data 0 8 < v.size → exec (.volResize m) s =
      .next (enter (newCmd (.mbox m.val) (.volShrink (leAt (mbxAt s m).cmd.data 0 8)) v.num (leAt (mbxAt s m).cmd.data 0 8) (v.size - leAt (mbxAt s m).cmd.data 0 8) true) (begun m.val s)))) ∧
  -- VOL_ACCESS_ADD
  (∀ (m : Fin 16) (v : Volume) (s : State), Units s → volRuns s m 0x0703 → par (mbxAt s m).cmd 16 1 = 1 → par (mbxAt s m).cmd 0 15 ≠ 0 → volOf s (par (mbxAt s m).cmd 0 15) = some v →
      v.access.contains (mbxAt s m).cmd.data = false →
    (v.access.length < 64 → ∃ t, exec (.volAccessAdd m) s = .next t ∧ mbxAnswered t m 0 ∧
      t.volu = (updVol v.num (fun v => { v with access := v.access ++ [(mbxAt s m).cmd.data] }) s).volu) ∧
    (64 ≤ v.access.length → ∃ t, exec (.volAccessAdd m) s = .next t ∧ mbxAnswered t m 0x0726 ∧ t.volu = s.volu)) ∧
  -- VOL_ACCESS_REMOVE
  (∀ (m : Fin 16) (v : Volume) (s : State), Units s → volRuns s m 0x0703 → par (mbxAt s m).cmd 16 1 = 0 → par (mbxAt s m).cmd 0 15 ≠ 0 → volOf s (par (mbxAt s m).cmd 0 15) = some v →
    (v.access.contains (mbxAt s m).cmd.data = true → ∃ t, exec (.volAccessRemove m) s = .next t ∧ mbxAnswered t m 0 ∧
      t.volu = (updVol v.num (fun v => { v with access := v.access.filter (fun x => x ≠ (mbxAt s m).cmd.data) }) s).volu) ∧
    (v.access.contains (mbxAt s m).cmd.data = false → ∃ t, exec (.volAccessRemove m) s = .next t ∧ mbxAnswered t m 0x001B ∧ t.volu = s.volu)) ∧
  -- VOL_INFO
  (∀ (m : Fin 16) (v : Volume) (s : State), Units s → volRuns s m 0x0704 → par (mbxAt s m).cmd 0 15 ≠ 0 → volOf s (par (mbxAt s m).cmd 0 15) = some v →
    ∃ t l, exec (.volInfo m) s = .next t ∧ mbxReturns t m l ∧ leAt l 0 4 = handleOf s v.num % 2 ^ 32 ∧ leAt l 8 8 = v.size % 2 ^ 64 ∧ l.length = 64 ∧ t.volu = s.volu) ∧
  -- VOL_LIST
  (∀ (m : Fin 16) (s : State), Units s → volRuns s m 0x0705 →
    ∃ t, exec (.volList m) s = .next t ∧ t.volu = s.volu ∧
      mbxReturns t m (leBytes 2 ((((s.volu.vols.map (fun v => v.num)).filter (fun n => par (mbxAt s m).cmd 0 15 ≤ n)).foldl (fun a n => insAsc n a) []).take 495).length
        ++ ((((s.volu.vols.map (fun v => v.num)).filter (fun n => par (mbxAt s m).cmd 0 15 ≤ n)).foldl (fun a n => insAsc n a) []).take 495).flatMap (leBytes 2)))

/-- Under conditions on state and operands alone exec answers a next state: SNAP_TAKE of one volume outside Drain enters the take,
SNAP_RESTORE the restore over the larger of the two sizes. SNAP_DELETE of a snapshot that nothing uses removes it. SNAP_CLONE to
a free number outside Drain adds a volume with the snapshot's map and size and returns its handle. SNAP_LIST returns an empty
list or the one snapshot. BRICK_SET stores an identifier up to 131,070 and answers 0x0016 to a larger one. PEER_SET of a node 1
to 262,142 and a known address family replaces the node's entry where there is room; PEER_REMOVE removes the node's entry and
answers 0x001B without one. VOL_MAP_READ of the volume itself returns its entries from the first chunk asked for, as many as
fit. SNAP_DIFF of a snapshot against nothing returns the snapshot's chunks with their fingerprints, as many as fit. Open points
in it are the model's choice (log entries 8 and 49). Drawn on: R375, R376, R377, R378, R379, R380, R381, R382, R393, R399, R403.
(12_volumes_snapshots_and_canals.md, 13_flash_tier_disk_runs_and_racking.md) -/
def Obligations.SnapshotsAndPeers : Prop :=
  -- SNAP_TAKE
  (∀ (m : Fin 16) (v : Volume) (s : State), Units s → volRuns s m 0x0706 → (mbxAt s m).cmd.data = leBytes 2 1 ++ leBytes 2 v.num → v.num ≠ 0 → v.num < 32768 → mode s ≠ 6 →
      volOf s v.num = some v →
    exec (.snapTake m) s = .next (enter { newCmd (.mbox m.val) .snapTake v.num 0 0 true with whole := true, chain := some (2 ^ 32 + s.host.cmdNext), last := true } (begun m.val s))) ∧
  -- SNAP_DELETE
  (∀ (m : Fin 16) (v : Volume) (x : Snapshot) (s : State), Units s → volRuns s m 0x0707 → volOf s (par (mbxAt s m).cmd 0 15) = some v →
      snapOf v (par (mbxAt s m).cmd 16 12) = some x → snapInUse s v.num x.gen = none →
    ∃ t, exec (.snapDelete m) s = .next t ∧ mbxAnswered t m 0 ∧ t.volu = (removeSnap v x s).volu) ∧
  -- SNAP_RESTORE
  (∀ (m : Fin 16) (v : Volume) (x : Snapshot) (s : State), Units s → volRuns s m 0x0708 → volOf s (par (mbxAt s m).cmd 0 15) = some v →
      snapOf v (par (mbxAt s m).cmd 16 12) = some x →
    exec (.snapRestore m) s = .next (enter { newCmd (.mbox m.val) (.snapRestore x.num) v.num 0 (max v.size x.size) true with whole := true } (begun m.val s))) ∧
  -- SNAP_CLONE
  (∀ (m : Fin 16) (v : Volume) (x : Snapshot) (s : State), Units s → volRuns s m 0x0709 → volOf s (par (mbxAt s m).cmd 0 15) = some v →
      snapOf v (par (mbxAt s m).cmd 16 12) = some x → mode s ≠ 6 → par (mbxAt s m).cmd 32 15 ≠ 0 → volOf s (par (mbxAt s m).cmd 32 15) = none →
    ∃ t, exec (.snapClone m) s = .next t ∧ mbxReturns t m (leBytes 4 (handleOf s (par (mbxAt s m).cmd 32 15))) ∧
      t.volu.vols = s.volu.vols ++ [{ newVolume (par (mbxAt s m).cmd 32 15) v.group x.size v.fmt 1 0 (makeNguid (par (mbxAt s m).cmd 32 15) s).1 s with map := x.map }]) ∧
  -- SNAP_LIST
  (∀ (m : Fin 16) (v : Volume) (s : State), Units s → volRuns s m 0x070A → par (mbxAt s m).cmd 0 15 ≠ 0 → volOf s (par (mbxAt s m).cmd 0 15) = some v →
    (v.snaps = [] → ∃ t, exec (.snapList m) s = .next t ∧ mbxReturns t m (leBytes 2 0 ++ leBytes 2 0)) ∧
    (∀ x, v.snaps = [x] → par (mbxAt s m).cmd 16 12 ≤ x.num → ∃ t, exec (.snapList m) s = .next t ∧
      mbxReturns t m (leBytes 2 1 ++ leBytes 2 0 ++ leBytes 2 x.num ++ leBytes 2 0 ++ leBytes 4 x.gen ++ leBytes 8 x.time))) ∧
  -- BRICK_SET
  (∀ (m : Fin 16) (s : State), Units s → volRuns s m 0x0710 →
    (par (mbxAt s m).cmd 0 17 ≤ 131070 → ∃ t, exec (.brickSet m) s = .next t ∧ mbxAnswered t m 0 ∧ t.nv.brickId = some (par (mbxAt s m).cmd 0 17)) ∧
    (131070 < par (mbxAt s m).cmd 0 17 → ∃ t, exec (.brickSet m) s = .next t ∧ mbxAnswered t m 0x0016 ∧ t.nv = s.nv)) ∧
  -- PEER_SET
  (∀ (m : Fin 16) (s : State), Units s → volRuns s m 0x0711 → par (mbxAt s m).cmd 0 1 = 1 → 1 ≤ leAt (mbxAt s m).cmd.data 0 4 → leAt (mbxAt s m).cmd.data 0 4 ≤ 262142 →
      leAt (mbxAt s m).cmd.data 4 1 = 4 ∨ leAt (mbxAt s m).cmd.data 4 1 = 6 →
      (s.volu.peers.filter (fun x => x.node ≠ leAt (mbxAt s m).cmd.data 0 4)).length < 1024 →
    ∃ t, exec (.peerSet m) s = .next t ∧ mbxAnswered t m 0 ∧ t.volu.peers = s.volu.peers.filter (fun x => x.node ≠ leAt (mbxAt s m).cmd.data 0 4)
      ++ [⟨leAt (mbxAt s m).cmd.data 0 4, leAt (mbxAt s m).cmd.data 4 1, leAt (mbxAt s m).cmd.data 6 2, slice (mbxAt s m).cmd.data 8 16⟩]) ∧
  -- PEER_REMOVE
  (∀ (m : Fin 16) (s : State), Units s → volRuns s m 0x0711 → par (mbxAt s m).cmd 0 1 = 0 →
    (s.volu.peers.any (fun x => x.node = leAt (mbxAt s m).cmd.data 0 4) = true → ∃ t, exec (.peerRemove m) s = .next t ∧ mbxAnswered t m 0 ∧
      t.volu.peers = s.volu.peers.filter (fun x => x.node ≠ leAt (mbxAt s m).cmd.data 0 4)) ∧
    (s.volu.peers.any (fun x => x.node = leAt (mbxAt s m).cmd.data 0 4) = false → ∃ t, exec (.peerRemove m) s = .next t ∧ mbxAnswered t m 0x001B ∧ t.volu = s.volu)) ∧
  -- VOL_MAP_READ
  (∀ (m : Fin 16) (v : Volume) (s : State), Units s → volRuns s m 0x0720 → par (mbxAt s m).cmd 0 15 ≠ 0 → volOf s (par (mbxAt s m).cmd 0 15) = some v → par (mbxAt s m).cmd 16 12 = 0 →
    ∃ t l, exec (.volMapRead m) s = .next t ∧ (mbxAt t m).result = some ⟨0, [], l.length, 0, l⟩ ∧ t.volu = s.volu ∧
      l = (List.range (min ((mbxAt s m).cmd.dataLen.toNat / 16) (v.size / 8192 - par (mbxAt s m).cmd 32 32))).flatMap
        (fun i => mapEntry s (mapGet v.map (par (mbxAt s m).cmd 32 32 + i)))) ∧
  -- SNAP_DIFF
  (∀ (m : Fin 16) (v : Volume) (x : Snapshot) (l : List (Nat × List Byte)) (s : State), Units s → volRuns s m 0x0721 → par (mbxAt s m).cmd 0 15 ≠ 0 → volOf s (par (mbxAt s m).cmd 0 15) = some v →
      par (mbxAt s m).cmd 16 12 = 0 → par (mbxAt s m).cmd 32 12 ≠ 0 → snapOf v (par (mbxAt s m).cmd 32 12) = some x → fpEntries s v.group x.map (mapDiff [] x.map) = .ok l →
    ∃ t, exec (.snapDiff m) s = .next t ∧ t.volu = s.volu ∧ (mbxAt t m).result.map (fun r => (r.status, r.ext)) =
      some (0, (l.take ((mbxAt s m).cmd.dataLen.toNat / 40)).flatMap fpBytes))

/-- Under conditions on state and operands alone exec answers a next state: CANAL_OPEN with a fitting handle and a free canal puts
the canal and connects it, and answers a refusal's code with no volume changed where the device refuses. CANAL_TCP_CONNECTED of
a connecting canal asks for the peer's version. CANAL_CONNECT_TIMEOUT of a connecting canal fails it with 0x071B;
CANAL_SETUP_TIMEOUT of one in setup fails it with 0x071C, at the last step with 0x071D. CANAL_FRAME_INVALID raises 0x071C and
loses the canal. CANAL_CONNECTION_LOST tries the next node of a connecting canal where there is one, and else loses the canal.
CANAL_HELLO that agrees reaches the source's last step, and at a target is the target's. CANAL_RETARGET of a source's open canal
to a node loses the connection and connects to the node. CANAL_SYNC_TMO_EXPIRY with writes waiting drops the connection and
follows the policy. CANAL_RETRY_TIMER connects each lost canal of an owned source. CANAL_REATTEST_TIMER of an established canal
asks for the measurements. CANAL_PERIOD_TIMER of an idle periodic canal outside Drain tries a transfer. Open points in it are
the model's choice (log entries 8, 49 and 79). Drawn on: R383, R384, R385, R387, R390, R391, R394, R395, R398.
(12_volumes_snapshots_and_canals.md) -/
def Obligations.CanalConnections : Prop :=
  -- CANAL_OPEN
  (∀ (m : Fin 16) (v : Volume) (id : Nat) (s : State), Units s → volRuns s m 0x0718 → canalRefusal s = none → par (mbxAt s m).cmd 0 15 ≠ 0 → volOf s (par (mbxAt s m).cmd 0 15) = some v →
      leAt (mbxAt s m).cmd.data 0 4 % 32768 ≠ 0 → leAt (mbxAt s m).cmd.data 0 4 / 32768 ≤ 131070 → peerOfHandle s (leAt (mbxAt s m).cmd.data 0 4) = true →
      par (mbxAt s m).cmd 18 1 = 0 → canalsOpen s < 1024 → freeCanal s = some id →
    exec (.canalOpen m) s = .next (canalConnect { newCanal id true v.num (leAt (mbxAt s m).cmd.data 0 4) (decide (par (mbxAt s m).cmd 16 1 = 0)) (decide (par (mbxAt s m).cmd 17 1 = 1))
        (leAt (mbxAt s m).cmd.data 4 4) (leAt (mbxAt s m).cmd.data 8 4) (leAt (mbxAt s m).cmd.data 12 4) with mbx := some m.val }
      (jRecord v.group 5 (putCanal { newCanal id true v.num (leAt (mbxAt s m).cmd.data 0 4) (decide (par (mbxAt s m).cmd 16 1 = 0)) (decide (par (mbxAt s m).cmd 17 1 = 1))
        (leAt (mbxAt s m).cmd.data 4 4) (leAt (mbxAt s m).cmd.data 8 4) (leAt (mbxAt s m).cmd.data 12 4) with mbx := some m.val } (begun m.val s))))) ∧
  -- CANAL_OPEN
  (∀ (m : Fin 16) (e : Nat) (s : State), Units s → volRuns s m 0x0718 → canalRefusal s = some e → ∃ t, exec (.canalOpen m) s = .next t ∧ mbxAnswered t m e ∧ t.volu = s.volu) ∧
  -- CANAL_TCP_CONNECTED
  (∀ (k : Nat) (c : Canal) (s : State), canalOf s k = some c → c.setup = 1 → admits s = true →
    ∃ t, exec (.canalTcpConnected k) s = .next t ∧ (canalOf t k).map (fun c => (c.setup, c.ask)) = some (3, some 0x84) ∧
      t.outbox = s.outbox ++ [.spdm 2 0x84 (leBytes 4 k)]) ∧
  -- CANAL_CONNECT_TIMEOUT
  (∀ (k : Nat) (c : Canal) (s : State), canalOf s k = some c → c.setup = 1 → exec (.canalConnectTimeout k) s = .next (canalFail c 0x071B s)) ∧
  -- CANAL_SETUP_TIMEOUT
  (∀ (k : Nat) (c : Canal) (s : State), canalOf s k = some c → 2 ≤ c.setup → c.setup ≤ 6 →
    exec (.canalSetupTimeout k) s = .next (canalFail c (if c.setup ≤ 5 then 0x071C else 0x071D) s)) ∧
  -- CANAL_FRAME_INVALID
  (∀ (k type len : Nat) (tagOk : Bool) (c : Canal) (s : State), canalOf s k = some c → 2 ≤ c.setup → frameBad c type len tagOk = true →
    exec (.canalFrameInvalid k type len tagOk) s = .next (canalLost c (raise 11 0x071C 2 0xFFFF k s))) ∧
  -- CANAL_CONNECTION_LOST
  (∀ (k : Nat) (c : Canal) (s : State), canalOf s k = some c → c.setup ≠ 0 →
    ∃ t, exec (.canalConnectionLost k) s = .next t ∧
      (∀ p, c.setup = 1 → (peersOf s c.handle).find? (fun p => c.node < p.node) = some p → t = connectTo k p s) ∧
      (2 ≤ c.setup ∨ (peersOf s c.handle).find? (fun p => c.node < p.node) = none → t = canalLost c s)) ∧
  -- CANAL_HELLO
  (∀ (k : Nat) (h : Hello) (c : Canal) (s : State), k < 1024 → canalOf s k = some c → c.setup = 6 → h.refused = false → h.repHandle = c.handle →
      nodeFits s h.node c.handle = true → h.promoted = false → h.hostWrites = false →
    exec (.canalHello k h) s = .next (canalReach c h s)) ∧
  -- CANAL_HELLO
  (∀ (k : Nat) (h : Hello) (s : State), 1024 ≤ k → admits s = true → exec (.canalHello k h) s = .next (targetHello h s)) ∧
  -- CANAL_RETARGET
  (∀ (k node : Nat) (c : Canal) (s : State), canalOf s k = some c → c.source = true → c.state ≠ 5 → 1 ≤ node → node ≤ 262142 →
    let h := (node - 1) / 2 * 32768 + c.handle % 32768
    let u := updCanal k (fun c' => { c' with handle := h }) (canalLost c s)
    exec (.canalRetarget k node) s = .next (match s.volu.peers.find? (fun p => p.node = node) with
      | some p => connectTo k p u
      | none => canalConnect { c with handle := h } u)) ∧
  -- CANAL_SYNC_TMO_EXPIRY
  (∀ (k : Nat) (c : Canal) (s : State), canalOf s k = some c → c.source = true → c.sync = true → (canalWaiters s k).isEmpty = false → c.state ≠ 0 →
    exec (.canalSyncTmoExpiry k) s = .next (canalPolicy c (canalDrop k s))) ∧
  -- CANAL_RETRY_TIMER
  (∀ s : State, admits s = true → canalRefusal s = none → exec .canalRetryTimer s = .next ((s.volu.canals.filter (fun c => c.source &&
      decide (c.setup = 0 ∧ (c.state = 2 ∨ c.state = 3)) && ownsCanal s c)).foldl (fun s c => canalConnect c s) s)) ∧
  -- CANAL_REATTEST_TIMER
  (∀ (k : Nat) (c : Canal) (s : State), canalOf s k = some c → c.setup = 7 →
    ∃ t, exec (.canalReattestTimer k) s = .next t ∧ (canalOf t k).map (fun c => (c.setup, c.ask)) = some (7, some 0xE0) ∧ t.regs = s.regs) ∧
  -- CANAL_PERIOD_TIMER
  (∀ (k : Nat) (c : Canal) (s : State), canalOf s k = some c → c.source = true → c.period ≠ 0 → c.state = 1 → c.setup = 7 → c.xfer = none → mode s ≠ 6 →
    exec (.canalPeriodTimer k) s = .next (tryXfer c s))

/-- Under conditions on state and operands alone exec answers a next state: CANAL_WRITE at an established target acknowledges a
write already applied and enters a new one in order within the volume. CANAL_WRITE_ACK with status 0 releases what waited up to
its sequence number, and with status 1 drops the connection. CANAL_DIFF_BEGIN of a full transfer starts an empty hidden image.
CANAL_FP_LIST answers which chunks are needed and keeps the list. CANAL_FP_NEED of none sends the commit. CANAL_RECORD of a
needed chunk that is not stored yet stores it where its bytes have the fingerprint, and abandons the transfer where not.
CANAL_SNAP_COMMIT of the generation already committed answers; of a finished transfer it makes the hidden map the volume's map.
CANAL_COMMIT_ACK with status 0 ends the transfer (where no drain uses the canal), and with status 1 abandons it. CANAL_CLOSE
leaves the canal CLOSED. CANAL_SYNC of an idle connected canal starts a transfer and returns its generation, or answers why not.
CANAL_PROMOTE makes a replica an ordinary volume and answers 0x071D for another. CANAL_STATUS and DRAIN_STATUS return their
fields and change no volume. DRAIN_OFFER_REPLY with a handle opens the canal to the peer. DRAIN_CUTOVER_TIMEOUT goes back to the
transfer, or ends a canceled drain's job. Open points in it are the model's choice (log entries 8, 79, 80 and 125). Drawn on:
R386, R388, R389, R390, R391, R392, R393, R394, R396, R397, R399. (12_volumes_snapshots_and_canals.md) -/
def Obligations.CanalTransfers : Prop :=
  -- CANAL_WRITE
  (∀ (k seq off len : Nat) (data : List Byte) (c : Canal) (v : Volume) (s : State), canalOf s k = some c → volOf s c.vol = some v → c.source = false → c.setup = 7 → admits s = true →
    (seq ≤ v.applied → exec (.canalWrite k seq off len data) s = .next (canalTx k 3 [seq, 0] s)) ∧
    (v.applied < seq → c.seq < seq → off + len ≤ v.size → len ≤ 2 ^ 21 → exec (.canalWrite k seq off len data) s =
      .next (enter { newCmd (.canal k seq) (if data.isEmpty then .zeroes else .write) v.num off len true with data := data } (updCanal k (fun c => { c with seq := seq }) s)))) ∧
  -- CANAL_WRITE_ACK
  (∀ (k seq : Nat) (c : Canal) (s : State), canalOf s k = some c → c.source = true → c.setup = 7 →
    exec (.canalWriteAck k seq 0) s = .next (updCanal k (fun c => { c with acked := max c.acked seq, out := c.out.filter (fun o => seq < o.seq) })
      (canalRelease k (fun q => decide (q ≤ seq)) none s)) ∧
    exec (.canalWriteAck k seq 1) s = .next (canalPolicy c (canalDrop k s))) ∧
  -- CANAL_DIFF_BEGIN
  (∀ (k new : Nat) (c : Canal) (v : Volume) (s : State), canalOf s k = some c → volOf s c.vol = some v → c.source = false → c.setup = 7 →
      c.xfer.any (fun x => decide (x.base = 0 ∧ x.new = new)) = false →
    exec (.canalDiffBegin k 0 new) s = .next (updCanal k (fun c => { c with xfer := some ⟨0, new, [], 0, [], false, [], false⟩ })
      (updVol v.num (fun v => { v with hidden := [], kind := 2, promoted := false, hostWrites := false }) (discardHidden v s)))) ∧
  -- CANAL_FP_LIST
  (∀ (k : Nat) (l : List (Nat × List Byte)) (c : Canal) (v : Volume) (x : Xfer) (s : State), canalOf s k = some c → volOf s c.vol = some v → c.xfer = some x → c.source = false → c.setup = 7 →
    let r := fpLooks v l s
    let need := (l.zip r.1).filterMap (fun p => if p.2 then some p.1.1 else none)
    let rest := x.list.filter (fun (e : Nat × List Byte) => !l.any (fun y => y.1 = e.1))
    let x1 : Xfer := { x with list := rest ++ l, need := x.need.filter (fun n => !l.any (fun y => y.1 = n)) ++ need }
    exec (.canalFpList k l) s = .next (canalTx k 6 (r.1.map b2n) (updCanal k (fun c => { c with xfer := some { x1 with pos := xferPos x1 } }) r.2))) ∧
  -- CANAL_FP_NEED
  (∀ (k : Nat) (c : Canal) (v : Volume) (x : Xfer) (img : Snapshot) (s : State), canalOf s k = some c → volOf s c.vol = some v → c.xfer = some x → c.source = true → c.setup = 7 →
      snapByGen v x.new = some img →
    exec (.canalFpNeed k []) s = .next (canalFlush k (updCanal k (fun c => { c with xfer := some { x with pos := x.list.length, need := [] } }) (canalTx k 8 [x.new] s)))) ∧
  -- CANAL_RECORD
  (∀ (k chunk : Nat) (r : List Byte) (c : Canal) (v : Volume) (x : Xfer) (e : Nat × List Byte) (s : State), canalOf s k = some c → volOf s c.vol = some v → c.xfer = some x →
      c.source = false → c.setup = 7 → x.need.contains chunk = true → x.list.find? (fun e => e.1 = chunk) = some e → durable s v.group e.2 = none →
      (stageRoom v.group r.length s).isSome = true →
    exec (.canalRecord k chunk r) s = .next (match decodeRecord r with
      | .error _ => abandon k (discardHidden v s)
      | .ok d => if sha256 d ≠ e.2 then abandon k (discardHidden v s) else
        updCanal k (fun c => { c with xfer := some { x with need := x.need.filter (fun n => n ≠ chunk), pos := xferPos { x with need := x.need.filter (fun n => n ≠ chunk) } } })
          (storeHidden v chunk e.2 d r true s))) ∧
  -- CANAL_SNAP_COMMIT
  (∀ (k gen : Nat) (c : Canal) (v : Volume) (s : State), canalOf s k = some c → volOf s c.vol = some v → c.source = false → c.setup = 7 → c.xfer = none → gen = v.commitGen →
    exec (.canalSnapCommit k gen) s = .next (canalTx k 9 [gen, 0] s)) ∧
  -- CANAL_SNAP_COMMIT
  (∀ (k gen : Nat) (c : Canal) (v : Volume) (x : Xfer) (s : State), canalOf s k = some c → volOf s c.vol = some v → c.source = false → c.setup = 7 → c.xfer = some x → x.new = gen →
      x.need = [] → s.red.jobs = [] → (s.volu.vols.filter (fun y => y.num = v.num)).length = 1 →
    ∃ t, exec (.canalSnapCommit k gen) s = .next t ∧ (volOf t v.num).map (fun y => (y.map, y.hidden, y.commitGen)) = some (v.hidden, [], gen)) ∧
  -- CANAL_COMMIT_ACK
  (∀ (k gen : Nat) (c : Canal) (v : Volume) (x : Xfer) (s : State), canalOf s k = some c → volOf s c.vol = some v → c.xfer = some x → c.source = true → c.setup = 7 → x.new = gen →
      snapByGen v x.base = none →
    let u := resyncOn k (canalFlush k (updVol v.num (fun v => { v with hostWrites := false }) (updCanal k (fun c => { c with xfer := none, gen := gen, dirty := x.late, dirtyAll := x.lateAll, resync := false, state := if c.state = 2 ∧ x.late = [] ∧ x.lateAll = false then 1 else c.state }) s)))
    ∃ t w, exec (.canalCommitAck k gen 0) s = .next t ∧ (drainGroup u k = none → t = u) ∧ exec (.canalCommitAck k gen 1) s = .next w ∧ w = abandon k s) ∧
  -- CANAL_CLOSE
  (∀ (m : Fin 16) (k : Canal) (s : State), Units s → volRuns s m 0x0719 → canalNamed s (mbxAt s m).cmd = some k → k.mbx = none →
    ∃ t, exec (.canalClose m) s = .next t ∧ mbxAnswered t m 0 ∧ (canalOf t k.id).map (fun c => (c.state, c.setup, c.out)) = some (5, 0, [])) ∧
  -- CANAL_SYNC
  (∀ (m : Fin 16) (k : Canal) (s : State), Units s → volRuns s m 0x071A → canalNamed s (mbxAt s m).cmd = some k → mode s ≠ 6 → k.xfer = none → k.state = 1 → k.setup = 7 →
    ∃ t, exec (.canalSync m) s = .next t ∧ (match startXfer k (begun m.val s) with
      | .ok r => mbxReturns t m (leBytes 4 r.1) ∧ t.volu = r.2.volu
      | .error e => mbxAnswered t m e ∧ t.volu = s.volu)) ∧
  -- CANAL_PROMOTE
  (∀ (m : Fin 16) (v : Volume) (s : State), Units s → volRuns s m 0x071B → par (mbxAt s m).cmd 0 15 ≠ 0 → volOf s (par (mbxAt s m).cmd 0 15) = some v → (s.volu.vols.filter (fun y => y.num = v.num)).length = 1 →
    (v.kind = 2 → ∃ t, exec (.canalPromote m) s = .next t ∧ mbxAnswered t m 0 ∧ (volOf t v.num).map (fun y => (y.kind, y.promoted, y.hidden)) = some (0, true, [])) ∧
    (v.kind ≠ 2 → ∃ t, exec (.canalPromote m) s = .next t ∧ mbxAnswered t m 0x071D ∧ t.volu = s.volu)) ∧
  -- CANAL_STATUS
  (∀ (m : Fin 16) (k : Canal) (s : State), Units s → volRuns s m 0x071C → canalNamed s (mbxAt s m).cmd = some k → k.dirtyAll = false →
    ∃ t, exec (.canalStatus m) s = .next t ∧ t.volu = s.volu ∧ mbxReturns t m (leBytes 1 k.state ++ leBytes 1 (b2n (!k.sync)) ++ leBytes 1 (b2n k.fallback) ++ leBytes 1 0 ++ leBytes 4 k.node
      ++ leBytes 4 k.handle ++ leBytes 8 k.acked ++ leBytes 4 k.gen ++ leBytes 4 (min k.dirty.length (2 ^ 32 - 1)) ++ leBytes 4 ((k.xfer.map (fun x => x.pos)).getD 0))) ∧
  -- DRAIN_STATUS
  (∀ (m : Fin 16) (s : State), Units s → volRuns s m 0x071D →
    let j := (s.volu.drain.jobs.find? (fun j => j.vol.isSome)).getD DrainJob.reset
    ∃ t, exec (.drainStatus m) s = .next t ∧ t.volu = s.volu ∧ mbxReturns t m (leBytes 2 (if mode s = 6 then s.volu.vols.length else 0) ++ leBytes 2 s.volu.drain.moved.length
      ++ leBytes 2 (j.vol.getD 0) ++ leBytes 1 j.stage ++ leBytes 1 0 ++ leBytes 2 s.volu.drain.fail ++ List.replicate 6 0)) ∧
  -- DRAIN_OFFER_REPLY
  (∀ (p h id : Nat) (v : Volume) (s : State), volOf s v.num = some v → (drainJob s v.group).vol = some v.num → (drainJob s v.group).stage = 1 →
      offerPeer s (drainJob s v.group) = some p → freeCanal s = some id →
    let c := newCanal id true v.num h false false 500 3600 0
    exec (.drainOfferReply p v.num (some h)) s = .next (canalConnect c
      (updDrain (fun d => { d with nextPeer := ((drainJob s v.group).first + (drainJob s v.group).tried + 1) % max 1 d.peers.length })
        (updEvac v.group (fun d => { d with stage := 2, canal := some id }) (putCanal c s))))) ∧
  -- DRAIN_CUTOVER_TIMEOUT
  (∀ (g : Fin 2) (c : Canal) (s : State), (drainJob s g.val).stage = 4 → (drainJob s g.val).hold = true → (drainJob s g.val).canal = some c.id → canalOf s c.id = some c →
    let u := updDrain (fun d => { d with fail := 0x0721 }) (updEvac g.val (fun d => { d with stage := 3, hold := false, round := 1 })
      (canalTx c.id 10 [] (updCanal c.id (fun c => { c with xfer := none }) s)))
    ∃ t, exec (.drainCutoverTimeout g) s = .next t ∧
      (s.volu.drain.cancel = true → t = drainReturn (updEvac g.val (fun _ => DrainJob.reset) u)) ∧
      (s.volu.drain.cancel = false → t = (match canalOf u c.id with | some c => tryXfer c u | none => u)))

/-- Under conditions on state and operands alone exec answers a next state: HEADGATE_ADMIT in an admitting device takes the
Headgate's step; for a single command that the checks let through and that needs no pool, with room in the Sluice, the step
admits it. ANA_CHANGE_TIMEOUT of a held host command whose group is in Change ends it with 0x061B. SLUICE_RUN of a command with
no earlier conflicting one runs it; with an uncorrectable unit of the Cellar met, a write ends with 0x0810. COMMAND_FINISH of a
ready command finishes it with its status, and of a stopped one with 0x0614, raised for a native queue. FORWARD_REPLY_RECEIVED
other than 0x0A11 gives the reply to the command or the mailbox that asked. SLU_STATS returns the counters; SLU_HWM_RST that the
checks let through sets both marks to what is in use. Open points in it are the model's choice (log entries 8, 50, 72, 73 and
124). Drawn on: R308, R309, R323, R326, R327, R328, R335, R404, R534. (10_host_queues_and_the_sluice.md,
13_flash_tier_disk_runs_and_racking.md) -/
def Obligations.HeadgateAndSluice : Prop :=
  -- HEADGATE_ADMIT
  (∀ s : State, admits s = true → domOn s 10 = true → isSet s F.CLK_BACKUP_ACTIVE = false → exec .headgateAdmit s = .next (pump (headgateStep s))) ∧
  -- HEADGATE_ADMIT
  (∀ (c : Cmd) (s : State), nextAdmit s = some [c] → headgateCheck s c = none → sluiceUsed s ≤ 8191 → roWait s c = false → poolShort s (poolNeed s c) = false → poolNeed s c = 0 →
    headgateStep s = sluRefresh (admitOne c { s with host := { s.host with poolFull := s.host.poolFull } })) ∧
  -- ANA_CHANGE_TIMEOUT
  (∀ (k : Nat) (c : Cmd) (v : Volume) (s : State), cmdOf s k = some c → c.stage = 0 → hostCmd c = true → volOf s c.vol = some v → anaState s v.group = 4 →
    exec (.anaChangeTimeout k) s = .next (sluRefresh (updCmd k (fun c => { c with stage := 3, status := some 0x061B }) s))) ∧
  -- SLUICE_RUN
  (∀ (k : Nat) (x : Bool) (c : Cmd) (s : State), cmdOf s k = some c → c.stage = 1 → domOn s 10 = true → chainBlocked s c = false →
      ((s.host.cmds.takeWhile (fun x => x.id ≠ k)).filter (fun x => x.stage = 1 ∨ x.stage = 2)).any (fun x => conflicts x c || bandBefore x c) = false →
    exec (.sluiceRun k x none) s = .next (runCmd c x (updCmd k (fun c => { c with stage := 2 }) s))) ∧
  -- SLUICE_RUN
  (∀ (k : Nat) (x : Bool) (a : BitVec 26) (c : Cmd) (s : State), cmdOf s k = some c → c.stage = 1 → domOn s 10 = true → chainBlocked s c = false →
      ((s.host.cmds.takeWhile (fun x => x.id ≠ k)).filter (fun x => x.stage = 1 ∨ x.stage = 2)).any (fun x => conflicts x c || bandBefore x c) = false →
      c.op = .write → c.forwarded = false → c.status = none →
    exec (.sluiceRun k x (some a)) s = .next (endCmd k 0x0810 (eccUe 0 a.toNat 3 (updCmd k (fun c => { c with stage := 2 }) s)))) ∧
  -- COMMAND_FINISH
  (∀ (k : Nat) (x : Bool) (c : Cmd) (s : State), cmdOf s k = some c → domWorks s 10 = true → cmdReady s c = true → c.chain = none → (∀ m, c.src ≠ .mbox m) →
    exec (.commandFinish k false x none) s = .next (finishCmd c (c.status.getD 0) x s)) ∧
  -- COMMAND_FINISH
  (∀ (k : Nat) (x : Bool) (c : Cmd) (s : State), cmdOf s k = some c → domWorks s 10 = true → stopsHere s c = true → hasJobs (dropJobs k s) k = false →
    exec (.commandFinish k true x none) s = .next ((match c.src with
      | .native q _ => raise 12 0x0614 2 q 0
      | _ => fun s => s) (finishCmd c 0x0614 x (abortedRead c (updCmd k (fun c => { c with stage := 2 }) (dropJobs k s)))))) ∧
  -- FORWARD_REPLY_RECEIVED
  (∀ (req st : Nat) (data : List Byte) (r : FwdReq) (s : State), s.host.reqs.find? (fun r => r.req = req) = some r → st ≠ 0x0A11 →
    (∀ c, r.kind = 0 → cmdOf s r.ref = some c → exec (.forwardReplyReceived req st data) s =
      .next (updCmd c.id (fun c => { c with needs := [], status := some st, data := if c.op = .read then data else c.data }) (dropReq req s))) ∧
    (2 ≤ r.kind → exec (.forwardReplyReceived req st data) s = .next (mbxSetResult r.ref ⟨st, data, 0, 0, []⟩ (dropReq req s)))) ∧
  -- SLU_STATS
  (∀ (m : Fin 16) (s : State), Units s → mbxRuns s m 0x0604 →
    ∃ t, exec (.sluStats m) s = .next t ∧ t.regs = s.regs ∧ mbxReturns t m (leBytes 4 (rdN s R.SLU_STATUS) ++ leBytes 4 (rdN s R.SLU_HWM) ++ leBytes 8 (cntVal s R.SLU_CONFLICT_LO)
      ++ leBytes 8 (cntVal s R.SLU_HELD_LO))) ∧
  -- SLU_HWM_RST
  (∀ (p : Path) (s : State), writeGoes p R.SLU_HWM 0x80000000 s →
    exec (.sluHwmRst p) s = .next (busAnswer p R.SLU_HWM 0 0 (setF F.SLU_HWM_USED (getF (setF F.SLU_HWM_HEADGATE (getF s F.SLU_HEADGATE) s) F.SLU_USED)
      (setF F.SLU_HWM_HEADGATE (getF s F.SLU_HEADGATE) s))))

/-- Under conditions on state and operands alone exec answers a next state: Q_DB_SQ, Q_DB_CQ and Q_DB_PUSH that the checks let
through ring the submission or the completion doorbell, the last after taking the entry pushed; Q_POLL_TIMER rings the
submission doorbell of a polled queue. Each native entry below is stated for the entry that the queue may take next. NATIVE_NOP
completes with status 0. NATIVE_READ, NATIVE_WRITE, NATIVE_WRITE_ZEROES, NATIVE_DEALLOCATE and NATIVE_VERIFY enter their
command. NATIVE_BAND in a chain enters its command, and alone with no band queued runs it. FIRMWARE_KIND_ENTRY with room enters
its command. NATIVE_FENCE makes the queue wait and moves its consumer index by 1. NATIVE_FENCE_DONE whose fence is met ends it
with 0, NATIVE_FENCE_LIMIT_EXPIRY with 0x0019. Q_CTL_STOP, Q_CTL_RESUME and Q_CTL_SKIP that the checks let through act as stop,
resume and skip, each 0x0616 with no change in a state that it does not act in. Q_CREATE of a free queue with allowed fields in
host memory makes it ACTIVE with its sizes and addresses. Q_DELETE of a stopped queue of the mailbox's own frees it, and answers
0x0616 in another state. Q_STOP of an active or error queue stops it and its mailbox waits for the end. Q_RESUME and
Q_RESUME_SKIP answer what resume and skip answer. Open points in it are the model's choice (log entries 8, 45, 50, 71, 96 and
124). Drawn on: R310, R311, R312, R313, R314, R316, R319, R321, R322, R323, R324, R332, R335. (10_host_queues_and_the_sluice.md) -/
def Obligations.NativeQueues : Prop :=
  -- Q_DB_SQ, Q_DB_CQ
  (∀ (p : Path) (q : Fin 256) (host : List Host.Cell) (s : State),
    (writeGoes p (R.Q_DB q.val) 1 (hostPlaces host s) → exec (.qDbSq p q host) s = .next (busAnswer p (R.Q_DB q.val) 0 0 (sqBell q.val (hostPlaces host s)))) ∧
    (writeGoes p (R.Q_DB q.val) 2 (hostPlaces host s) → exec (.qDbCq p q host) s = .next (busAnswer p (R.Q_DB q.val) 0 0 (cqBell q.val (hostPlaces host s))))) ∧
  -- Q_DB_PUSH
  (∀ (p : Path) (q : Fin 256) (n : Fin 8) (host : List Host.Cell) (s : State), writeGoes p (R.Q_DB q.val) (BitVec.ofNat 32 (4 * n.val + 1)) (hostPlaces host s) →
    exec (.qDbPush p q n false true host) s = .next (busAnswer p (R.Q_DB q.val) 0 0 (sqBell q.val (pushTake q.val n.val true (hostPlaces host s))))) ∧
  -- Q_POLL_TIMER
  (∀ (q : Fin 256) (host : List Host.Cell) (s : State), isSet s (F.Q_POLL q.val) = true → domOn s 10 = true → exec (.qPollTimer q host) s = .next (sqBell q.val (hostPlaces host s))) ∧
  -- NATIVE_NOP
  (∀ (q : Fin 256) (v : Fetched × State) (s : State), natTake q.val (fun k => decide (k = 0)) s = some v → v.1.chain = none →
    exec (.nativeNop q) s = .next (stopCheck q.val (natDone q.val v.1.idx (natCmd v.1 .nop false).tag 0 0 false (natCmd v.1 .nop false).nocomp v.2))) ∧
  -- NATIVE_READ
  (∀ (q : Fin 256) (v : Fetched × State) (s : State), natTake q.val (fun k => decide (k = 1)) s = some v →
    exec (.nativeRead q) s = .next (enter (natBuf v.1 (natCmd v.1 .read false) v.2).1 (natBuf v.1 (natCmd v.1 .read false) v.2).2)) ∧
  -- NATIVE_WRITE
  (∀ (q : Fin 256) (v : Fetched × State) (s : State), natTake q.val (fun k => decide (k = 2)) s = some v →
    exec (.nativeWrite q) s = .next (enter (natBuf v.1 (natCmd v.1 .write true) v.2).1 (natBuf v.1 (natCmd v.1 .write true) v.2).2)) ∧
  -- NATIVE_WRITE_ZEROES
  (∀ (q : Fin 256) (v : Fetched × State) (s : State), natTake q.val (fun k => decide (k = 3)) s = some v → exec (.nativeWriteZeroes q) s = .next (enter (natCmd v.1 .zeroes true) v.2)) ∧
  -- NATIVE_DEALLOCATE
  (∀ (q : Fin 256) (v : Fetched × State) (s : State), natTake q.val (fun k => decide (k = 4)) s = some v →
    exec (.nativeDeallocate q) s = .next (enter (natCmd v.1 (.dealloc [(leAt v.1.bytes 8 8, leAt v.1.bytes 16 4)]) true) v.2)) ∧
  -- NATIVE_VERIFY
  (∀ (q : Fin 256) (v : Fetched × State) (s : State), natTake q.val (fun k => decide (k = 5)) s = some v → exec (.nativeVerify q) s = .next (enter (natCmd v.1 .verify false) v.2)) ∧
  -- NATIVE_BAND
  (∀ (q : Fin 256) (v : Fetched × State) (s : State), natTake q.val (fun k => decide (0x20 ≤ k ∧ k ≤ 0x23)) s = some v → v.1.chain.isSome = true →
    exec (.nativeBand q) s = .next (enter { natCmd v.1 (.band (nKind v.1.bytes - 0x20) (slice v.1.bytes 32 32)) false with vol := 0, buf := [(leAt v.1.bytes 24 8, 16)] } v.2)) ∧
  -- NATIVE_BAND
  (∀ (q : Fin 256) (v : Fetched × State) (x : Cmd) (s : State), natTake q.val (fun k => decide (0x20 ≤ k ∧ k ≤ 0x23)) s = some v → v.1.chain = none → v.2.host.cmds.any (fun x => bandQueued q.val x) = false →
      cmdOf (enter { natCmd v.1 (.band (nKind v.1.bytes - 0x20) (slice v.1.bytes 32 32)) false with vol := 0, buf := [(leAt v.1.bytes 24 8, 16)] } v.2) v.2.host.cmdNext = some x →
    exec (.nativeBand q) s = .next (sluRefresh (runCmd x true (updCmd v.2.host.cmdNext (fun c => { c with stage := 2 })
      (enter { natCmd v.1 (.band (nKind v.1.bytes - 0x20) (slice v.1.bytes 32 32)) false with vol := 0, buf := [(leAt v.1.bytes 24 8, 16)] } v.2))))) ∧
  -- FIRMWARE_KIND_ENTRY
  (∀ (q : Fin 32) (b : List Byte) (s : State), 0x40 ≤ nKind b → nKind b ≤ 0x7F → admits s = true → headgateFull s = false →
    exec (.firmwareKindEntry q b) s = .next (enter (natCmd ⟨q.val, 0, b, none, true⟩ (.firmware (nKind b) true) true) s)) ∧
  -- NATIVE_FENCE
  (∀ (q : Fin 256) (s : State), published (natOf s q.val) ≠ 0 → natFetches s q.val = true → nKind (entryAt s q.val (natOf s q.val).sqCons) = 8 →
      entryBad s q.val (entryAt s q.val (natOf s q.val).sqCons) = false → Units s → RegsWf s →
    ∃ t, exec (.nativeFence q) s = .next t ∧ isSet t (F.Q_FENCE_WAIT q.val) = true ∧ (natOf t q.val).sqCons = idxPlus (natOf s q.val).sqCons 1 ∧ (natOf t q.val).fence.isSome = true) ∧
  -- NATIVE_FENCE_DONE
  (∀ (q : Fin 256) (w : FenceWait) (s : State), (natOf s q.val).fence = some w → fenceMet s w = true → domOn s 10 = true → exec (.nativeFenceDone q) s = .next (fenceEnd q.val 0 w s)) ∧
  -- NATIVE_FENCE_LIMIT_EXPIRY
  (∀ (q : Fin 256) (w : FenceWait) (s : State), (natOf s q.val).fence = some w → domOn s 10 = true → exec (.nativeFenceLimitExpiry q) s = .next (fenceEnd q.val 0x0019 w s)) ∧
  -- Q_CTL_STOP, Q_CTL_RESUME, Q_CTL_SKIP
  (∀ (p : Path) (q : Fin 256) (s : State),
    (writeGoes p (R.Q_CTL q.val) 1 s → exec (.qCtlStop p q) s = .next (busAnswer p (R.Q_CTL q.val) 0 0 (stopCheck q.val (natStop q.val s).2))) ∧
    (writeGoes p (R.Q_CTL q.val) 2 s → exec (.qCtlResume p q) s = .next (busAnswer p (R.Q_CTL q.val) 0 0 (natResume q.val s).2)) ∧
    (writeGoes p (R.Q_CTL q.val) 4 s → exec (.qCtlSkip p q) s = .next (busAnswer p (R.Q_CTL q.val) 0 0 (natSkip q.val s).2))) ∧
  -- Q_CTL_STOP, Q_CTL_RESUME, Q_CTL_SKIP
  (∀ (q : Nat) (s : State),
    (getF s (F.Q_STATE q) ≠ 1 → getF s (F.Q_STATE q) ≠ 4 → natStop q s = (0x0616, s)) ∧
    (getF s (F.Q_STATE q) ≠ 3 → getF s (F.Q_STATE q) ≠ 4 → natResume q s = (0x0616, s)) ∧
    (getF s (F.Q_STATE q) ≠ 4 → natSkip q s = (0x0616, s))) ∧
  -- Q_CREATE
  (∀ (m : Fin 16) (s : State), Units s → RegsWf s → mbxRuns s m 0x0600 → (mbxAt s m).cmd.data.length = 64 → 32 ≤ leAt (mbxAt s m).cmd.data 0 1 →
      getF s (F.Q_STATE (leAt (mbxAt s m).cmd.data 0 1)) = 0 → leAt (mbxAt s m).cmd.data 1 1 = 0 → 4 ≤ leAt (mbxAt s m).cmd.data 2 1 → leAt (mbxAt s m).cmd.data 2 1 ≤ 16 →
      leAt (mbxAt s m).cmd.data 3 1 < 16 → leAt (mbxAt s m).cmd.data 4 2 ≤ 2047 → leAt (mbxAt s m).cmd.data 6 2 = 0 → leAt (mbxAt s m).cmd.data 8 8 % 4096 = 0 →
      leAt (mbxAt s m).cmd.data 16 8 % 4096 = 0 → leAt (mbxAt s m).cmd.data 24 8 % 64 = 0 → (slice (mbxAt s m).cmd.data 32 32).any (fun b => b ≠ 0) = false →
    ∃ t, exec (.qCreate m) s = .next t ∧ mbxAnswered t m 0 ∧ getF t (F.Q_STATE (leAt (mbxAt s m).cmd.data 0 1)) = 1 ∧
      (natOf t (leAt (mbxAt s m).cmd.data 0 1)).log2 = leAt (mbxAt s m).cmd.data 2 1 ∧ (natOf t (leAt (mbxAt s m).cmd.data 0 1)).sqAddr = leAt (mbxAt s m).cmd.data 8 8 ∧
      (natOf t (leAt (mbxAt s m).cmd.data 0 1)).cqAddr = leAt (mbxAt s m).cmd.data 16 8 ∧ (natOf t (leAt (mbxAt s m).cmd.data 0 1)).sqCons = 0) ∧
  -- Q_DELETE
  (∀ (m : Fin 16) (s : State), Units s → RegsWf s → mbxRuns s m 0x0601 → queueMine s m.val (par (mbxAt s m).cmd 0 8) = true → isSet s (F.Q_SHUT_MODE (par (mbxAt s m).cmd 0 8)) = false →
    (getF s (F.Q_STATE (par (mbxAt s m).cmd 0 8)) = 3 → ∃ t, exec (.qDelete m) s = .next t ∧ mbxAnswered t m 0 ∧ getF t (F.Q_STATE (par (mbxAt s m).cmd 0 8)) = 0) ∧
    (getF s (F.Q_STATE (par (mbxAt s m).cmd 0 8)) ≠ 3 → ∃ t, exec (.qDelete m) s = .next t ∧ mbxAnswered t m 0x0616 ∧ t.regs = s.regs)) ∧
  -- Q_STOP
  (∀ (m : Fin 16) (s : State), Units s → mbxRuns s m 0x0602 → queueMine s m.val (par (mbxAt s m).cmd 0 8) = true → isSet s (F.Q_SHUT_MODE (par (mbxAt s m).cmd 0 8)) = false →
      getF s (F.Q_STATE (par (mbxAt s m).cmd 0 8)) = 1 ∨ getF s (F.Q_STATE (par (mbxAt s m).cmd 0 8)) = 4 →
      (List.range 256).all (fun k => decide ((natOf s k).stopMbx ≠ some m.val)) = true →
    exec (.qStop m) s = .next (stopCheck (par (mbxAt s m).cmd 0 8) (updNat (par (mbxAt s m).cmd 0 8) (fun x => { x with stopMbx := some m.val })
      (natStopGo (par (mbxAt s m).cmd 0 8) (begun m.val s))))) ∧
  -- Q_RESUME
  (∀ (m : Fin 16) (s : State), Units s → mbxRuns s m 0x0603 → par (mbxAt s m).cmd 8 1 = 0 → queueMine s m.val (par (mbxAt s m).cmd 0 8) = true →
    ∃ t, exec (.qResume m) s = .next t ∧ mbxAnswered t m (natResume (par (mbxAt s m).cmd 0 8) (begun m.val s)).1 ∧
      t = { (natResume (par (mbxAt s m).cmd 0 8) (begun m.val s)).2 with mbx := t.mbx }) ∧
  -- Q_RESUME_SKIP
  (∀ (m : Fin 16) (s : State), Units s → mbxRuns s m 0x0603 → par (mbxAt s m).cmd 8 1 = 1 → queueMine s m.val (par (mbxAt s m).cmd 0 8) = true →
    ∃ t, exec (.qResumeSkip m) s = .next t ∧ mbxAnswered t m (natSkip (par (mbxAt s m).cmd 0 8) (begun m.val s)).1 ∧
      t = { (natSkip (par (mbxAt s m).cmd 0 8) (begun m.val s)).2 with mbx := t.mbx })

/-- Under conditions on state and operands alone exec answers a next state: Each admin command is stated for the command that its
controller takes. CREATE_IO_CQ and CREATE_IO_SQ with allowed fields add the queue; CREATE_IO_SQ with no I/O queue left fails.
DELETE_IO_SQ with nothing under way marks the queue as going and checks it; DELETE_IO_CQ removes a queue that no submission
queue uses and fails for another. KEEP_ALIVE notes the time; KEEP_ALIVE_EXPIRY after the time-out takes the controller down and
does nothing without a time-out. GET_LOG_PAGE of page 0x0C, NVME_IDENTIFY of the controller and GET_FEATURES of the time-out
return them; NVME_ABORT answers 1. SET_FEATURES sets the time-out, and grants a number of queues. ASYNC_EVENT_REQUEST waits
among fewer than 8 and fails beyond. FABRICS_CONNECT makes a controller or a queue of one. FABRICS_PROPERTY_GET of CSTS and
FABRICS_PROPERTY_SET of CC are answered, the latter setting CC, and clearing EN resets the controller. FABRICS_DISCONNECT of the
admin queue takes the controller down. UNSUPPORTED_NVME_OPCODE fails. NVME_SQ_DOORBELL within the queue sets the tail and
fetches, NVME_CQ_DOORBELL sets the head and posts what was held. AGGREGATION_TIME_EXPIRY with completions coalesced sends the
interrupt, and else does nothing. Open points in it are the model's choice (log entries 8, 44, 46, 47 and 130). Drawn on: R300,
R302, R303, R304, R324, R325. (10_host_queues_and_the_sluice.md) -/
def Obligations.NvmeQueuesAndControllers : Prop :=
  -- CREATE_IO_CQ
  (∀ (c x : NvmeCmd) (k : NvCtrl) (s t : State), nvTaken 0x05 true c s = some (x, k, t) → k.kind = 0 → qidOk k (bitsAt x.dw10.toNat 0 16) = true → cqOf k (bitsAt x.dw10.toNat 0 16) = none → 2 ≤ bitsAt x.dw10.toNat 16 16 + 1 → bitsAt x.dw10.toNat 16 16 + 1 ≤ 65536 → bitAt x.dw11.toNat 0 = true → bitsAt x.dw11.toNat 16 16 ≤ 2047 →
    exec (.createIoCq c) s = .next (nvOk x 0 (updCtrl x.ctrl (fun k => { k with cqs := k.cqs ++ [⟨bitsAt x.dw10.toNat 0 16, x.prp1, bitsAt x.dw10.toNat 16 16 + 1, 0, 0, true, bitAt x.dw11.toNat 1, bitsAt x.dw11.toNat 16 16, 0⟩] }) t))) ∧
  -- CREATE_IO_SQ
  (∀ (c x : NvmeCmd) (k : NvCtrl) (s t : State), nvTaken 0x01 true c s = some (x, k, t) → k.kind = 0 → qidOk k (bitsAt x.dw10.toNat 0 16) = true → sqOf k (bitsAt x.dw10.toNat 0 16) = none → 0 < ioqFree t → 2 ≤ bitsAt x.dw10.toNat 16 16 + 1 → bitsAt x.dw10.toNat 16 16 + 1 ≤ 65536 → bitAt x.dw11.toNat 0 = true → bitsAt x.dw11.toNat 16 16 ≠ 0 → (cqOf k (bitsAt x.dw11.toNat 16 16)).isSome = true →
    exec (.createIoSq c) s = .next (nvmRefresh (nvOk x 0 (updCtrl x.ctrl (fun k => { k with sqs := k.sqs ++ [⟨bitsAt x.dw10.toNat 0 16, bitsAt x.dw11.toNat 16 16, x.prp1, bitsAt x.dw10.toNat 16 16 + 1, 0, 0, [], none, false⟩] }) t)))) ∧
  -- CREATE_IO_SQ
  (∀ (c x : NvmeCmd) (k : NvCtrl) (s t : State), nvTaken 0x01 true c s = some (x, k, t) → k.kind = 0 → ioqFree t = 0 →
    exec (.createIoSq c) s = .next (nvErr x 1 0x01 t)) ∧
  -- DELETE_IO_SQ
  (∀ (c x : NvmeCmd) (k : NvCtrl) (s t : State), nvTaken 0x00 true c s = some (x, k, t) → k.kind = 0 → bitsAt x.dw10.toNat 0 16 ≠ 0 → (sqOf k (bitsAt x.dw10.toNat 0 16)).isSome = true → t.host.nvFetched.filter (fun f => f.2.1 = x.ctrl ∧ f.2.2.1 = bitsAt x.dw10.toNat 0 16) = [] → t.host.cmds = [] →
    exec (.deleteIoSq c) s = .next (sqDeleteCheck x.ctrl (bitsAt x.dw10.toNat 0 16) (updSq x.ctrl (bitsAt x.dw10.toNat 0 16) (fun y => { y with deleting := some x.cid.toNat })
      (dropCmds (fun y => ofSq x.ctrl (bitsAt x.dw10.toNat 0 16) y && decide (y.stage = 0)) { t with host := { t.host with nvFetched := t.host.nvFetched.filter (fun f => ¬(f.2.1 = x.ctrl ∧ f.2.2.1 = bitsAt x.dw10.toNat 0 16)) } })))) ∧
  -- DELETE_IO_CQ
  (∀ (c x : NvmeCmd) (k : NvCtrl) (s t : State), nvTaken 0x04 true c s = some (x, k, t) → k.kind = 0 → bitsAt x.dw10.toNat 0 16 ≠ 0 → (cqOf k (bitsAt x.dw10.toNat 0 16)).isSome = true → k.sqs.any (fun y => y.cq = bitsAt x.dw10.toNat 0 16) = false →
    exec (.deleteIoCq c) s = .next (nvOk x 0 (updCtrl x.ctrl (fun k => { k with cqs := k.cqs.filter (fun y => y.id ≠ bitsAt x.dw10.toNat 0 16) }) t))) ∧
  -- DELETE_IO_CQ
  (∀ (c x : NvmeCmd) (k : NvCtrl) (s t : State), nvTaken 0x04 true c s = some (x, k, t) → k.kind = 0 → bitsAt x.dw10.toNat 0 16 ≠ 0 → (cqOf k (bitsAt x.dw10.toNat 0 16)).isSome = true → k.sqs.any (fun y => y.cq = bitsAt x.dw10.toNat 0 16) = true →
    exec (.deleteIoCq c) s = .next (nvErr x 1 0x0C t)) ∧
  -- KEEP_ALIVE
  (∀ (c x : NvmeCmd) (k : NvCtrl) (s t : State), nvTaken 0x18 true c s = some (x, k, t) → 
    exec (.keepAlive c) s = .next (nvOk x 0 (updCtrl x.ctrl (fun k => { k with kaAt := t.now.toNat }) t))) ∧
  -- KEEP_ALIVE_EXPIRY
  (∀ (n : Nat) (k : NvCtrl) (s : State), ctrlOf s n = some k → k.kind ≠ 0 →
    (k.kato ≠ 0 → k.kaAt + k.kato * 1000000 ≤ s.now.toNat → exec (.keepAliveExpiry n) s = .next (ctrlDown n s)) ∧
    (k.kato = 0 → exec (.keepAliveExpiry n) s = .next s)) ∧
  -- GET_LOG_PAGE
  (∀ (c x : NvmeCmd) (k : NvCtrl) (s t : State), nvTaken 0x02 true c s = some (x, k, t) → k.kind ≠ 2 → bitsAt x.dw10.toNat 0 8 = 0x0C →
    exec (.getLogPage c) s = .next (nvGive x (((pageAna t k (bitAt x.dw10.toNat 8)).drop (x.dw12.toNat + x.dw13.toNat * 2 ^ 32)).take (4 * (bitsAt x.dw10.toNat 16 16 + bitsAt x.dw11.toNat 0 16 * 65536 + 1)))
      (if bitAt x.dw10.toNat 15 then t else updCtrl x.ctrl (fun k => { k with events := k.events.filter (fun e => e / 65536 ≠ bitsAt x.dw10.toNat 0 8) }) t))) ∧
  -- NVME_IDENTIFY
  (∀ (c x : NvmeCmd) (k : NvCtrl) (s t : State), nvTaken 0x06 true c s = some (x, k, t) → bitsAt x.dw10.toNat 0 8 = 1 →
    exec (.nvmeIdentify c) s = .next (nvGive x (idController k) t)) ∧
  -- NVME_ABORT
  (∀ (c x : NvmeCmd) (k : NvCtrl) (s t : State), nvTaken 0x08 true c s = some (x, k, t) → 
    exec (.nvmeAbort c) s = .next (nvOk x 1 t)) ∧
  -- SET_FEATURES
  (∀ (c x : NvmeCmd) (k : NvCtrl) (s t : State), nvTaken 0x09 true c s = some (x, k, t) → bitAt x.dw10.toNat 31 = false → bitsAt x.dw10.toNat 0 8 = 0x0F →
    exec (.setFeatures c) s = .next (nvOk x 0 (updCtrl x.ctrl (fun k => { k with kato := katoOf x.dw11.toNat, kaAt := t.now.toNat }) t))) ∧
  -- SET_FEATURES
  (∀ (c x : NvmeCmd) (k : NvCtrl) (s t : State), nvTaken 0x09 true c s = some (x, k, t) → bitAt x.dw10.toNat 31 = false → bitsAt x.dw10.toNat 0 8 = 0x07 → x.dw11.toNat % 65536 ≠ 65535 → x.dw11.toNat / 65536 ≠ 65535 →
    exec (.setFeatures c) s = .next (nvOk x ((max 1 (min (max (x.dw11.toNat % 65536) (x.dw11.toNat / 65536) + 1) (min 1024 (ioqFree t))) - 1) * 65537)
      (updCtrl x.ctrl (fun k => { k with granted := max 1 (min (max (x.dw11.toNat % 65536) (x.dw11.toNat / 65536) + 1) (min 1024 (ioqFree t))) }) t))) ∧
  -- GET_FEATURES
  (∀ (c x : NvmeCmd) (k : NvCtrl) (s t : State), nvTaken 0x0A true c s = some (x, k, t) → bitsAt x.dw10.toNat 0 8 = 0x0F →
    exec (.getFeatures c) s = .next (nvOk x k.kato t)) ∧
  -- ASYNC_EVENT_REQUEST
  (∀ (c x : NvmeCmd) (k : NvCtrl) (s t : State), nvTaken 0x0C true c s = some (x, k, t) → k.events = [] → k.aers.length < 8 →
    exec (.asyncEventRequest c) s = .next (updCtrl x.ctrl (fun k => { k with aers := k.aers ++ [x.cid.toNat] }) t)) ∧
  -- ASYNC_EVENT_REQUEST
  (∀ (c x : NvmeCmd) (k : NvCtrl) (s t : State), nvTaken 0x0C true c s = some (x, k, t) → k.events = [] → 8 ≤ k.aers.length →
    exec (.asyncEventRequest c) s = .next (nvErr x 1 0x05 t)) ∧
  -- FABRICS_CONNECT
  (∀ (sz kato id : Nat) (nqn hid : List Byte) (s : State), admits s = true → domOn s 11 = true → s.bring.active = false → sz ≤ 4095 → freeCntlid s = some id →
    exec (.fabricsConnect false 0xFFFF 0 sz kato nqn hid) s = .next (connectReply id 0 0 id (nvmRefresh { s with host := { s.host with
      ctrls := s.host.ctrls ++ [{ newCtrl id 1 nqn hid with kato := katoOf kato, kaAt := s.now.toNat, sqs := [⟨0, 0, 0, sz + 1, 0, 0, [], none, false⟩] }]
      fabConns := s.host.fabConns + 1 } }))) ∧
  -- FABRICS_CONNECT
  (∀ (id q sz kato : Nat) (k : NvCtrl) (hid : List Byte) (s : State), admits s = true → domOn s 11 = true → s.bring.active = false → q ≠ 0 → ctrlOf s id = some k →
      k.kind = 1 → k.cc % 2 = 1 → qidOk k q = true → sqOf k q = none → 1 ≤ sz → sz ≤ 1023 → 0 < ioqFree s →
    ∃ u, u = updCtrl id (fun k => { k with sqs := k.sqs ++ [⟨q, q, 0, sz + 1, 0, 0, [], none, false⟩] }) s ∧
      exec (.fabricsConnect false id q sz kato k.hostNqn hid) s = .next (connectReply id q 0 id (nvmRefresh { u with host := { u.host with fabConns := u.host.fabConns + 1 } }))) ∧
  -- FABRICS_PROPERTY_GET, FABRICS_PROPERTY_SET
  (∀ (id cid : Nat) (k : NvCtrl) (s : State), ctrlOf s id = some k → k.kind ≠ 0 → admits s = true → s.bring.active = false →
    exec (.fabricsPropertyGet id cid 0x1C) s = .next (nvPost id 0 cid 0 (k.cc % 2 % 2 ^ 32) (k.cc % 2 / 2 ^ 32) s) ∧
    exec (.fabricsPropertySet id cid 0x14 1) s = .next (nvPost id 0 cid 0 0 0 (updCtrl id (fun k => { k with cc := 1 }) s)) ∧
    (k.cc % 2 = 1 → exec (.fabricsPropertySet id cid 0x14 0) s = .next (nvPost id 0 cid 0 0 0 (ctrlReset id (updCtrl id (fun k => { k with cc := 0 }) s))))) ∧
  -- FABRICS_DISCONNECT
  (∀ (id : Nat) (k : NvCtrl) (s : State), ctrlOf s id = some k → k.kind ≠ 0 → (sqOf k 0).isSome = true → exec (.fabricsDisconnect id 0) s = .next (ctrlDown id s)) ∧
  -- UNSUPPORTED_NVME_OPCODE
  (∀ (c x : NvmeCmd) (op : BitVec 8) (s t : State), nvKnown (decide (c.sq = 0)) op.toNat = false → nvTakeIf (fun o => decide (o = op.toNat)) (decide (c.sq = 0)) c s = some (x, t) →
    exec (.unsupportedNvmeOpcode c op) s = .next (nvErr x 0 0x01 t)) ∧
  -- NVME_SQ_DOORBELL
  (∀ (q tail : Nat) (k : NvCtrl) (y : NvSq) (cells : List Host.Cell) (s : State), hostReach s = true → domOn s 10 = true →
      ctrlOf (hostPlaces cells s) (pcieCtrl (hostPlaces cells s)) = some k → sqOf k q = some y → tail < y.size →
    exec (.nvmeSqDoorbell q tail none cells) s = .next (nvFetch (pcieCtrl (hostPlaces cells s)) q (updSq (pcieCtrl (hostPlaces cells s)) q (fun y => { y with tail := tail }) (hostPlaces cells s)))) ∧
  -- NVME_CQ_DOORBELL
  (∀ (q hd : Nat) (k : NvCtrl) (y : NvCq) (s : State), hostReach s = true → domOn s 10 = true → ctrlOf s (pcieCtrl s) = some k → cqOf k q = some y → hd < y.size →
    exec (.nvmeCqDoorbell q hd) s = .next (pump ((k.sqs.filter (fun z => z.cq = q)).foldl (fun u z => sqDeleteCheck (pcieCtrl s) z.id (nvDrain (pcieCtrl s) z.id 1100 u))
      (updCq (pcieCtrl s) q (fun y => { y with head := hd }) s)))) ∧
  -- AGGREGATION_TIME_EXPIRY
  (∀ (q : Nat) (k : NvCtrl) (y : NvCq) (s : State), ctrlOf s (pcieCtrl s) = some k → cqOf k q = some y →
    (y.irq = true → 0 < y.coalesced → exec (.aggregationTimeExpiry q) s = .next (msix y.vec (updCq (pcieCtrl s) q (fun y => { y with coalesced := 0 }) s))) ∧
    (y.coalesced = 0 → exec (.aggregationTimeExpiry q) s = .next s))

/-- Under conditions on state and operands alone exec answers a next state: Each is stated for the command that its controller
takes. NVME_FLUSH completes with 0. NVME_WRITE with its data, and NVME_READ, of at most 2 MiB, NVME_WRITE_ZEROES, NVME_VERIFY,
and NVME_DATASET_MANAGEMENT with its deallocate attribute, of an attached volume, enter their command; NVME_DATASET_MANAGEMENT
without the attribute completes with 0; NVME_READ of a volume that is not attached ends with 0x0714. RESERVATION_REGISTER,
RESERVATION_ACQUIRE and RESERVATION_RELEASE of a controller with a Host Identifier enter a command over the whole volume, and
RESERVATION_ACQUIRE without one fails. RESERVATION_REPORT in the extended form of an accessible volume returns the report, cut
to the length asked for. Open points in it are the model's choice (log entries 8, 44, 72 and 87). Drawn on: R305, R332, R333,
R370. (10_host_queues_and_the_sluice.md, 12_volumes_snapshots_and_canals.md) -/
def Obligations.NvmeBlockCommands : Prop :=
  -- NVME_FLUSH
  (∀ (c x : NvmeCmd) (k : NvCtrl) (s t : State), nvTaken 0x00 false c s = some (x, k, t) → 
    exec (.nvmeFlush c) s = .next (nvOk x 0 t)) ∧
  -- NVME_WRITE
  (∀ (c x : NvmeCmd) (k : NvCtrl) (v : Volume) (s t : State), nvTaken 0x01 false c s = some (x, k, t) → nsVol t k x.nsid.toNat = some v → (lbaRange x v).2 ≤ 2097152 → x.xferOk = true → x.data.length = (lbaRange x v).2 →
    exec (.nvmeWrite c) s = .next (enter { { newCmd .internal .write v.num (lbaRange x v).1 (lbaRange x v).2 true with data := x.data } with src := .nvme x.ctrl x.sq x.cid.toNat, host := k.hostId } t)) ∧
  -- NVME_READ
  (∀ (c x : NvmeCmd) (k : NvCtrl) (v : Volume) (s t : State), nvTaken 0x02 false c s = some (x, k, t) → nsVol t k x.nsid.toNat = some v → (lbaRange x v).2 ≤ 2097152 →
    exec (.nvmeRead c) s = .next (enter { newCmd .internal .read v.num (lbaRange x v).1 (lbaRange x v).2 false with src := .nvme x.ctrl x.sq x.cid.toNat, host := k.hostId } t)) ∧
  -- NVME_WRITE_ZEROES
  (∀ (c x : NvmeCmd) (k : NvCtrl) (v : Volume) (s t : State), nvTaken 0x08 false c s = some (x, k, t) → nsVol t k x.nsid.toNat = some v →
    exec (.nvmeWriteZeroes c) s = .next (enter { newCmd .internal .zeroes v.num (lbaRange x v).1 (lbaRange x v).2 true with src := .nvme x.ctrl x.sq x.cid.toNat, host := k.hostId } t)) ∧
  -- NVME_VERIFY
  (∀ (c x : NvmeCmd) (k : NvCtrl) (v : Volume) (s t : State), nvTaken 0x0C false c s = some (x, k, t) → nsVol t k x.nsid.toNat = some v →
    exec (.nvmeVerify c) s = .next (enter { newCmd .internal .verify v.num (lbaRange x v).1 (lbaRange x v).2 false with src := .nvme x.ctrl x.sq x.cid.toNat, host := k.hostId } t)) ∧
  -- NVME_DATASET_MANAGEMENT
  (∀ (c x : NvmeCmd) (k : NvCtrl) (v : Volume) (s t : State), nvTaken 0x09 false c s = some (x, k, t) → nsVol t k x.nsid.toNat = some v → bitAt x.dw11.toNat 2 = true → x.xferOk = true →
    exec (.nvmeDatasetManagement c) s = .next (enter { newCmd .internal (.dealloc ((List.range (bitsAt x.dw10.toNat 0 8 + 1)).map (fun i =>
      (leAt x.data (16 * i + 8) 8 * lbaSize v, leAt x.data (16 * i + 4) 4 * lbaSize v)))) v.num 0 0 true with src := .nvme x.ctrl x.sq x.cid.toNat, host := k.hostId } t)) ∧
  -- NVME_DATASET_MANAGEMENT
  (∀ (c x : NvmeCmd) (k : NvCtrl) (s t : State), nvTaken 0x09 false c s = some (x, k, t) → bitAt x.dw11.toNat 2 = false →
    exec (.nvmeDatasetManagement c) s = .next (nvOk x 0 t)) ∧
  -- NVME_READ
  (∀ (c x : NvmeCmd) (k : NvCtrl) (s t : State), nvTaken 0x02 false c s = some (x, k, t) → nsVol t k x.nsid.toNat = none →
    exec (.nvmeRead c) s = .next (nvDone x.ctrl x.sq x.cid.toNat 0x0714 false t)) ∧
  -- RESERVATION_ACQUIRE
  (∀ (c x : NvmeCmd) (k : NvCtrl) (v : Volume) (s t : State), nvTaken 0x11 false c s = some (x, k, t) → nsVol t k x.nsid.toNat = some v → k.hostId.length = 16 → k.hostId.all (fun b => b = 0) = false → x.xferOk = true →
    exec (.reservationAcquire c) s = .next (enter { { newCmd .internal (.resv 0x11 (bitsAt x.dw10.toNat 0 3) k.hostId (leAt x.data 0 8) (leAt x.data 8 8) (bitsAt x.dw10.toNat 8 8) false) v.num 0 v.size true with whole := true } with src := .nvme x.ctrl x.sq x.cid.toNat, host := k.hostId } t)) ∧
  -- RESERVATION_RELEASE
  (∀ (c x : NvmeCmd) (k : NvCtrl) (v : Volume) (s t : State), nvTaken 0x15 false c s = some (x, k, t) → nsVol t k x.nsid.toNat = some v → k.hostId.length = 16 → k.hostId.all (fun b => b = 0) = false → x.xferOk = true →
    exec (.reservationRelease c) s = .next (enter { { newCmd .internal (.resv 0x15 (bitsAt x.dw10.toNat 0 3) k.hostId (leAt x.data 0 8) 0 (bitsAt x.dw10.toNat 8 8) false) v.num 0 v.size true with whole := true } with src := .nvme x.ctrl x.sq x.cid.toNat, host := k.hostId } t)) ∧
  -- RESERVATION_REGISTER
  (∀ (c x : NvmeCmd) (k : NvCtrl) (v : Volume) (s t : State), nvTaken 0x0D false c s = some (x, k, t) → nsVol t k x.nsid.toNat = some v → k.hostId.length = 16 → k.hostId.all (fun b => b = 0) = false → x.xferOk = true →
    exec (.reservationRegister c) s = .next (enter { { newCmd .internal (.resv 0x0D (bitsAt x.dw10.toNat 0 3) k.hostId (leAt x.data 0 8) (leAt x.data 8 8) (bitsAt x.dw10.toNat 30 2) (bitAt x.dw10.toNat 3)) v.num 0 v.size true with whole := true } with src := .nvme x.ctrl x.sq x.cid.toNat, host := k.hostId } t)) ∧
  -- RESERVATION_ACQUIRE
  (∀ (c x : NvmeCmd) (k : NvCtrl) (s t : State), nvTaken 0x11 false c s = some (x, k, t) → k.hostId = [] →
    exec (.reservationAcquire c) s = .next (nvErr x 0 0x24 t)) ∧
  -- RESERVATION_REPORT
  (∀ (c x : NvmeCmd) (k : NvCtrl) (v : Volume) (s t : State), nvTaken 0x0E false c s = some (x, k, t) → nsVol t k x.nsid.toNat = some v → k.hostId.length = 16 → x.dw11.toNat % 2 = 1 → anaState t v.group ≠ 3 →
    exec (.reservationReport c) s = .next (nvGive x ((resvReport v.resv).take (4 * (x.dw10.toNat + 1))) t))
end

