-- ==== Sys2Proof/Laws/Sparse.lean ====
section
/-! SUPPORT. Laws of sparse maps: a read after a write of the same key gives the value written, a write leaves every other
key alone, and every operation keeps the canonical form. -/

set_option Elab.async false

namespace Sys2Proof.Machine

variable {α : Type} [DecidableEq α] {d : Nat → α}

theorem smWfFrom_mono {l : List (Nat × α)} {lo hi : Nat} (h : lo ≤ hi) (w : smWfFrom d hi l = true) :
    smWfFrom d lo l = true := by
  cases l with
  | nil => rfl
  | cons e r =>
    simp only [smWfFrom, Bool.and_eq_true, decide_eq_true_eq] at w ⊢
    exact ⟨⟨Nat.le_trans h w.1.1, w.1.2⟩, w.2⟩

/-- A key below every listed one reads its default. -/
theorem smGet_low {l : List (Nat × α)} {lo k : Nat} (w : smWfFrom d lo l = true) (h : k < lo) : smGet d l k = d k := by
  induction l generalizing lo with
  | nil => rfl
  | cons e r ih =>
    simp only [smWfFrom, Bool.and_eq_true, decide_eq_true_eq] at w
    have hne : e.1 ≠ k := by omega
    simp only [smGet, if_neg hne]
    exact ih w.2 (by omega)

theorem smGet_smCons_ne {r : List (Nat × α)} {k j : Nat} {v : α} (h : k ≠ j) :
    smGet d (smCons d k v r) j = smGet d r j := by
  unfold smCons
  split <;> simp [smGet, h]

theorem smGet_smCons_same {r : List (Nat × α)} {lo k : Nat} {v : α} (w : smWfFrom d lo r = true) (h : k < lo) :
    smGet d (smCons d k v r) k = v := by
  unfold smCons
  split
  · rename_i e; rw [smGet_low w h, e]
  · simp [smGet]

/-- A write leaves every other key alone. -/
theorem smGet_smPut_ne {l : List (Nat × α)} {k j : Nat} {v : α} (h : k ≠ j) :
    smGet d (smPut d l k v) j = smGet d l j := by
  induction l with
  | nil => exact smGet_smCons_ne h
  | cons e r ih =>
    simp only [smPut]
    split
    · exact smGet_smCons_ne h
    · split
      · rename_i he; subst he
        rw [smGet_smCons_ne h]; simp [smGet, h]
      · simp [smGet, ih]

theorem smGet_smPutFrom_same {l : List (Nat × α)} {lo k : Nat} {v : α} (w : smWfFrom d lo l = true) (h : lo ≤ k) :
    smGet d (smPut d l k v) k = v := by
  induction l generalizing lo with
  | nil => exact smGet_smCons_same (lo := k + 1) rfl (Nat.lt_succ_self k)
  | cons e r ih =>
    have w2 := w
    simp only [smWfFrom, Bool.and_eq_true, decide_eq_true_eq] at w
    simp only [smPut]
    split
    · rename_i hk
      refine smGet_smCons_same (lo := e.1) ?_ hk
      simp only [smWfFrom, Bool.and_eq_true, decide_eq_true_eq]
      exact ⟨⟨Nat.le_refl _, w.1.2⟩, w.2⟩
    · split
      · rename_i hk; subst hk
        exact smGet_smCons_same w.2 (Nat.lt_succ_self _)
      · have hne : e.1 ≠ k := fun x => by simp_all
        simp only [smGet, if_neg hne]
        exact ih w.2 (by omega)

/-- A read after a write of the same key gives the value written. -/
theorem smGet_smPut_same {l : List (Nat × α)} {k : Nat} {v : α} (w : smWf d l = true) :
    smGet d (smPut d l k v) k = v := smGet_smPutFrom_same w (Nat.zero_le k)

theorem smWfFrom_smCons {r : List (Nat × α)} {lo k : Nat} {v : α} (w : smWfFrom d (k + 1) r = true) (h : lo ≤ k) :
    smWfFrom d lo (smCons d k v r) = true := by
  unfold smCons
  split
  · exact smWfFrom_mono (by omega) w
  · rename_i e
    simp only [smWfFrom, Bool.and_eq_true, decide_eq_true_eq]
    exact ⟨⟨h, e⟩, w⟩

theorem smWfFrom_smPut {l : List (Nat × α)} {lo k : Nat} {v : α} (w : smWfFrom d lo l = true) (h : lo ≤ k) :
    smWfFrom d lo (smPut d l k v) = true := by
  induction l generalizing lo with
  | nil => exact smWfFrom_smCons rfl h
  | cons e r ih =>
    simp only [smWfFrom, Bool.and_eq_true, decide_eq_true_eq] at w
    simp only [smPut]
    split
    · rename_i hk
      refine smWfFrom_smCons ?_ h
      simp only [smWfFrom, Bool.and_eq_true, decide_eq_true_eq]
      exact ⟨⟨hk, w.1.2⟩, w.2⟩
    · split
      · rename_i hk; subst hk
        exact smWfFrom_smCons w.2 h
      · simp only [smWfFrom, Bool.and_eq_true, decide_eq_true_eq]
        exact ⟨⟨w.1.1, w.1.2⟩, ih w.2 (by omega)⟩

/-- A write keeps the canonical form. -/
theorem smWf_smPut {l : List (Nat × α)} {k : Nat} {v : α} (w : smWf d l = true) : smWf d (smPut d l k v) = true :=
  smWfFrom_smPut w (Nat.zero_le k)

/-- Several writes keep the canonical form. -/
theorem smWf_smPutAll {l : List (Nat × α)} (es : List (Nat × α)) (w : smWf d l = true) :
    smWf d (smPutAll d l es) = true := by
  induction es generalizing l with
  | nil => exact w
  | cons e r ih => exact ih (smWf_smPut w)

theorem smWfFrom_smKeep {p : Nat → Bool} {l : List (Nat × α)} {lo : Nat} (w : smWfFrom d lo l = true) :
    smWfFrom d lo (smKeep p l) = true := by
  induction l generalizing lo with
  | nil => rfl
  | cons e r ih =>
    simp only [smWfFrom, Bool.and_eq_true, decide_eq_true_eq] at w
    simp only [smKeep, List.filter_cons]
    split
    · simp only [smWfFrom, Bool.and_eq_true, decide_eq_true_eq]
      exact ⟨w.1, ih w.2⟩
    · exact smWfFrom_mono (by omega) (ih w.2)

/-- Dropping keys keeps the canonical form. -/
theorem smWf_smKeep {p : Nat → Bool} {l : List (Nat × α)} (w : smWf d l = true) : smWf d (smKeep p l) = true :=
  smWfFrom_smKeep w

omit [DecidableEq α] in
/-- A kept key reads as before; a dropped one reads its default. -/
theorem smGet_smKeep {p : Nat → Bool} {l : List (Nat × α)} {k : Nat} :
    smGet d (smKeep p l) k = if p k then smGet d l k else d k := by
  induction l with
  | nil => simp [smKeep, smGet]
  | cons e r ih =>
    simp only [smKeep, List.filter_cons] at ih ⊢
    by_cases hk : e.1 = k
    · subst hk
      by_cases hp : p e.1 = true
      · simp [smGet, hp]
      · simp only [Bool.not_eq_true] at hp
        simp [hp] at ih ⊢; exact ih
    · by_cases hp : p e.1 = true
      · simp [smGet, hk, hp, ih]
      · simp only [Bool.not_eq_true] at hp
        simp [smGet, hk, hp, ih]

end Sys2Proof.Machine
end

