-- ==== Sys2Proof/Laws/Keep.lean ====
section
/-! SUPPORT. What an operation keeps: `Keeps w s t` says that every part of the state outside `w` is the same in `s` and `t`, and
that `t` keeps the canonical forms, the units and the bound of the fault log that `s` has, with no fused minimum lowered. One lemma
per field of State and per field of its nonvolatile record, and the rules by which operations compose. -/

set_option Elab.async false

namespace Sys2Proof.Machine

/-- What an operation from `s` to `t` keeps. -/
structure Keeps (w : List Part) (s t : State) : Prop where
  same : Outside w s t
  regsWf : RegsWf s → RegsWf t
  memWf : MemWf s → MemWf t
  log : LogBound s → LogBound t
  units : Units s → Units t
  svn : s.nv.svnMinSup ≤ t.nv.svnMinSup ∧ s.nv.svnMinCtl ≤ t.nv.svnMinCtl

/-- `v` lists only parts of `w`. -/
def within (w v : List Part) : Bool := v.all (fun c => w.contains c)


theorem within_out {w v : List Part} {c : Part} (h : within w v = true) (hc : w.contains c = false) : v.contains c = false := by
  cases hv : v.contains c with
  | false => rfl
  | true =>
    have hm : c ∈ v := by simpa using hv
    have hw := List.all_eq_true.mp h c hm
    rw [hc] at hw
    exact absurd hw (by decide)


theorem within_contains {w v : List Part} {c : Part} (h : within w v = true) (hc : v.contains c = true) : w.contains c = true := by
  cases hw : w.contains c with
  | true => rfl
  | false => rw [within_out h hw] at hc; cases hc


theorem within_trans {w v u : List Part} (h : within w v = true) (hv : within v u = true) : within w u = true := by
  refine List.all_eq_true.mpr (fun c hc => ?_)
  exact within_contains h (List.all_eq_true.mp hv c hc)


theorem Same.refl (c : Part) (s : State) : Same c s s := by cases c <;> rfl


theorem Same.trans {c : Part} {s t u : State} (h : Same c s t) (k : Same c t u) : Same c s u := by
  cases c <;> exact Eq.trans h k


theorem Keeps.refl (w : List Part) (s : State) : Keeps w s s :=
  ⟨fun c _ => Same.refl c s, id, id, id, id, Nat.le_refl _, Nat.le_refl _⟩


theorem Keeps.trans {w : List Part} {s t u : State} (h : Keeps w s t) (k : Keeps w t u) : Keeps w s u :=
  ⟨fun c hc => Same.trans (h.same c hc) (k.same c hc), fun x => k.regsWf (h.regsWf x), fun x => k.memWf (h.memWf x),
    fun x => k.log (h.log x), fun x => k.units (h.units x), Nat.le_trans h.svn.1 k.svn.1, Nat.le_trans h.svn.2 k.svn.2⟩


theorem Keeps.mono {w v : List Part} {s t : State} (h : Keeps v s t) (hv : within w v = true) : Keeps w s t :=
  ⟨fun c hc => h.same c (within_out hv hc), h.regsWf, h.memWf, h.log, h.units, h.svn⟩

/-- An operation that keeps what is outside `v` may follow. -/

theorem Keeps.via {w v : List Part} {s x y : State} (k : Keeps v x y) (h : Keeps w s x) (hv : within w v = true) : Keeps w s y :=
  h.trans (k.mono hv)

/-- `Keeps` of a state written out by its fields. -/
def KeepsMk (w : List Part) (s : State) (now0 : BitVec 64) (regs0 : List (Nat × Word)) (mem0 : List Host.Cell) (bad0 : List Nat) (free0 : Nat) (pwr0 : PwrSt) (bring0 : BringSt) (nv0 : Nv) (flt0 : FaultSt) (mbx0 : List Mailbox) (fences0 : List FenceSt) (snaps0 : List Snap) (grants0 : List Grant) (pair0 : PairSt) (pins0 : Pins) (pcie0 : PcieSt) (desc0 : Option Desc) (journal0 : List JEnt) (clk0 : ClkSt) (pa0 : List PaSt) (head0 : List HeadSt) (pool0 : PoolSt) (fs0 : List FsSt) (memc0 : MemSt) (fl0 : FlashSt) (tier0 : TierSt) (red0 : RedSt) (volu0 : VolSt) (host0 : HostSt) (spdm0 : SpdmSt) (boot0 : BootSt) (mot0 : MotSt) (therm0 : ThermSt) (outbox0 : List Msg) (pending0 : List Instr) : Prop :=
  Keeps w s (State.mk now0 regs0 mem0 bad0 free0 pwr0 bring0 nv0 flt0 mbx0 fences0 snaps0 grants0 pair0 pins0 pcie0 desc0 journal0 clk0 pa0 head0 pool0 fs0 memc0 fl0 tier0 red0 volu0 host0 spdm0 boot0 mot0 therm0 outbox0 pending0)


theorem keepsMk (w : List Part) (s : State) (now0 : BitVec 64) (regs0 : List (Nat × Word)) (mem0 : List Host.Cell) (bad0 : List Nat) (free0 : Nat) (pwr0 : PwrSt) (bring0 : BringSt) (nv0 : Nv) (flt0 : FaultSt) (mbx0 : List Mailbox) (fences0 : List FenceSt) (snaps0 : List Snap) (grants0 : List Grant) (pair0 : PairSt) (pins0 : Pins) (pcie0 : PcieSt) (desc0 : Option Desc) (journal0 : List JEnt) (clk0 : ClkSt) (pa0 : List PaSt) (head0 : List HeadSt) (pool0 : PoolSt) (fs0 : List FsSt) (memc0 : MemSt) (fl0 : FlashSt) (tier0 : TierSt) (red0 : RedSt) (volu0 : VolSt) (host0 : HostSt) (spdm0 : SpdmSt) (boot0 : BootSt) (mot0 : MotSt) (therm0 : ThermSt) (outbox0 : List Msg) (pending0 : List Instr) :
    Keeps w s (State.mk now0 regs0 mem0 bad0 free0 pwr0 bring0 nv0 flt0 mbx0 fences0 snaps0 grants0 pair0 pins0 pcie0 desc0 journal0 clk0 pa0 head0 pool0 fs0 memc0 fl0 tier0 red0 volu0 host0 spdm0 boot0 mot0 therm0 outbox0 pending0) = KeepsMk w s now0 regs0 mem0 bad0 free0 pwr0 bring0 nv0 flt0 mbx0 fences0 snaps0 grants0 pair0 pins0 pcie0 desc0 journal0 clk0 pa0 head0 pool0 fs0 memc0 fl0 tier0 red0 volu0 host0 spdm0 boot0 mot0 therm0 outbox0 pending0 := rfl


theorem Keeps.ite {w : List Part} {s a b : State} {p : Prop} [Decidable p] (ha : p → Keeps w s a) (hb : ¬p → Keeps w s b) :
    Keeps w s (if p then a else b) := by
  split
  · exact ha ‹_›
  · exact hb ‹_›


theorem Keeps.foldl {α : Type} {w : List Part} {s : State} {f : State → α → State} {l : List α} {b : State}
    (hf : ∀ x a, Keeps w x (f x a)) (h : Keeps w s b) : Keeps w s (l.foldl f b) := by
  induction l generalizing b with
  | nil => exact h
  | cons a r ih => exact ih (h.trans (hf b a))


theorem Keeps.forN {w : List Part} {s x : State} {n : Nat} {f : Nat → State → State}
    (hf : ∀ k y, Keeps w y (f k y)) (h : Keeps w s x) : Keeps w s (forN n f x) := by
  induction n with
  | zero => exact h
  | succ n ih => exact ih.trans (hf n _)


theorem Keeps.of_fst {α : Type} {w : List Part} {s a : State} {b : α} {p : State × α} (h : p = (a, b)) (k : Keeps w s p.1) :
    Keeps w s a := by rw [h] at k; exact k


theorem Keeps.of_snd {α : Type} {w : List Part} {s a : State} {b : α} {p : α × State} (h : p = (b, a)) (k : Keeps w s p.2) :
    Keeps w s a := by rw [h] at k; exact k


theorem setAt_length {α : Type} (l : List α) (i : Nat) (x : α) : (setAt l i x).length = l.length := by
  induction l generalizing i with
  | nil => rfl
  | cons y r ih => cases i with
    | zero => rfl
    | succ i => simp [setAt, ih]


theorem modAt_length {α : Type} (l : List α) (i : Nat) (f : α → α) : (modAt l i f).length = l.length := by
  induction l generalizing i with
  | nil => rfl
  | cons y r ih => cases i with
    | zero => rfl
    | succ i => simp [modAt, ih]


theorem mem_keep {p : Nat → Bool} {m : List Host.Cell} (h : Memory.wf m = true) : Memory.wf (smKeep p m) = true := smWf_smKeep h


theorem natq_id {n : Nat} (h : n = 256) : n = 256 := h


theorem natq_mod {l : List NatQ} {i : Nat} {f : NatQ → NatQ} (h : l.length = 256) : (modAt l i f).length = 256 :=
  (modAt_length l i f).trans h


theorem natq_map {l : List NatQ} {f : NatQ → NatQ} (h : l.length = 256) : (l.map f).length = 256 := by rw [List.length_map]; exact h


theorem natq_reset {n : Nat} (_ : n = 256) : HostSt.reset.natq.length = 256 := List.length_replicate

theorem units_maSwap {m : MotSt} {v : List MaSwap} (h : v.length = m.maSwap.length) (u : m.units) :
    MotSt.units { m with maSwap := v } := ⟨u.1, u.2.1, h.trans u.2.2⟩


theorem units_vcm {m : MotSt} {v : List VcmSt} (h : v.length = m.vcm.length) (u : m.units) :
    MotSt.units { m with vcm := v } := ⟨h.trans u.1, u.2.1, u.2.2⟩


theorem units_fan {m : MotSt} {v : List FanSt} (h : v.length = m.fan.length) (u : m.units) :
    MotSt.units { m with fan := v } := ⟨u.1, h.trans u.2.1, u.2.2⟩


theorem units_rest {m : MotSt} {a : SpnSt} {b : Nat} {c : Bool} (u : m.units) :
    MotSt.units { m with spn := a, limitPm := b, folded := c } := u


theorem units_reset {m : MotSt} (_ : m.units) : MotSt.reset.units := ⟨rfl, rfl, rfl⟩

theorem Keeps.upd_now {w : List Part} {s x : State} {v : BitVec 64} (h : Keeps w s x) (hw : w.contains .now = true) :
    Keeps w s { x with now := v } := by
  refine ⟨fun c hc => ?_, h.regsWf, h.memWf, h.log, h.units, h.svn⟩
  cases c
  case now => rw [hw] at hc; cases hc
  all_goals exact h.same _ hc

theorem KeepsMk.upd_now {w : List Part} {s x : State} {v : BitVec 64} (h : Keeps w s x) (hw : w.contains .now = true) :
    KeepsMk w s v x.regs x.mem x.bad x.free x.pwr x.bring x.nv x.flt x.mbx x.fences x.snaps x.grants x.pair x.pins x.pcie x.desc x.journal x.clk x.pa x.head x.pool x.fs x.memc x.fl x.tier x.red x.volu x.host x.spdm x.boot x.mot x.therm x.outbox x.pending :=
  Keeps.upd_now h hw

theorem Keeps.upd_bad {w : List Part} {s x : State} {v : List Nat} (h : Keeps w s x) (hw : w.contains .bad = true) :
    Keeps w s { x with bad := v } := by
  refine ⟨fun c hc => ?_, h.regsWf, h.memWf, h.log, h.units, h.svn⟩
  cases c
  case bad => rw [hw] at hc; cases hc
  all_goals exact h.same _ hc

theorem KeepsMk.upd_bad {w : List Part} {s x : State} {v : List Nat} (h : Keeps w s x) (hw : w.contains .bad = true) :
    KeepsMk w s x.now x.regs x.mem v x.free x.pwr x.bring x.nv x.flt x.mbx x.fences x.snaps x.grants x.pair x.pins x.pcie x.desc x.journal x.clk x.pa x.head x.pool x.fs x.memc x.fl x.tier x.red x.volu x.host x.spdm x.boot x.mot x.therm x.outbox x.pending :=
  Keeps.upd_bad h hw

theorem Keeps.upd_free {w : List Part} {s x : State} {v : Nat} (h : Keeps w s x) (hw : w.contains .free = true) :
    Keeps w s { x with free := v } := by
  refine ⟨fun c hc => ?_, h.regsWf, h.memWf, h.log, h.units, h.svn⟩
  cases c
  case free => rw [hw] at hc; cases hc
  all_goals exact h.same _ hc

theorem KeepsMk.upd_free {w : List Part} {s x : State} {v : Nat} (h : Keeps w s x) (hw : w.contains .free = true) :
    KeepsMk w s x.now x.regs x.mem x.bad v x.pwr x.bring x.nv x.flt x.mbx x.fences x.snaps x.grants x.pair x.pins x.pcie x.desc x.journal x.clk x.pa x.head x.pool x.fs x.memc x.fl x.tier x.red x.volu x.host x.spdm x.boot x.mot x.therm x.outbox x.pending :=
  Keeps.upd_free h hw

theorem Keeps.upd_pwr {w : List Part} {s x : State} {v : PwrSt} (h : Keeps w s x) (hw : w.contains .pwr = true) :
    Keeps w s { x with pwr := v } := by
  refine ⟨fun c hc => ?_, h.regsWf, h.memWf, h.log, h.units, h.svn⟩
  cases c
  case pwr => rw [hw] at hc; cases hc
  all_goals exact h.same _ hc

theorem KeepsMk.upd_pwr {w : List Part} {s x : State} {v : PwrSt} (h : Keeps w s x) (hw : w.contains .pwr = true) :
    KeepsMk w s x.now x.regs x.mem x.bad x.free v x.bring x.nv x.flt x.mbx x.fences x.snaps x.grants x.pair x.pins x.pcie x.desc x.journal x.clk x.pa x.head x.pool x.fs x.memc x.fl x.tier x.red x.volu x.host x.spdm x.boot x.mot x.therm x.outbox x.pending :=
  Keeps.upd_pwr h hw

theorem Keeps.upd_bring {w : List Part} {s x : State} {v : BringSt} (h : Keeps w s x) (hw : w.contains .bring = true) :
    Keeps w s { x with bring := v } := by
  refine ⟨fun c hc => ?_, h.regsWf, h.memWf, h.log, h.units, h.svn⟩
  cases c
  case bring => rw [hw] at hc; cases hc
  all_goals exact h.same _ hc

theorem KeepsMk.upd_bring {w : List Part} {s x : State} {v : BringSt} (h : Keeps w s x) (hw : w.contains .bring = true) :
    KeepsMk w s x.now x.regs x.mem x.bad x.free x.pwr v x.nv x.flt x.mbx x.fences x.snaps x.grants x.pair x.pins x.pcie x.desc x.journal x.clk x.pa x.head x.pool x.fs x.memc x.fl x.tier x.red x.volu x.host x.spdm x.boot x.mot x.therm x.outbox x.pending :=
  Keeps.upd_bring h hw

theorem Keeps.upd_flt {w : List Part} {s x : State} {v : FaultSt} (h : Keeps w s x) (hw : w.contains .flt = true) :
    Keeps w s { x with flt := v } := by
  refine ⟨fun c hc => ?_, h.regsWf, h.memWf, h.log, h.units, h.svn⟩
  cases c
  case flt => rw [hw] at hc; cases hc
  all_goals exact h.same _ hc

theorem KeepsMk.upd_flt {w : List Part} {s x : State} {v : FaultSt} (h : Keeps w s x) (hw : w.contains .flt = true) :
    KeepsMk w s x.now x.regs x.mem x.bad x.free x.pwr x.bring x.nv v x.mbx x.fences x.snaps x.grants x.pair x.pins x.pcie x.desc x.journal x.clk x.pa x.head x.pool x.fs x.memc x.fl x.tier x.red x.volu x.host x.spdm x.boot x.mot x.therm x.outbox x.pending :=
  Keeps.upd_flt h hw

theorem Keeps.upd_mbx {w : List Part} {s x : State} {v : List Mailbox} (hs : v.length = x.mbx.length) (h : Keeps w s x) (hw : w.contains .mbx = true) :
    Keeps w s { x with mbx := v } := by
  refine ⟨fun c hc => ?_, h.regsWf, h.memWf, h.log, fun u => by have q := h.units u; unfold Units at q ⊢; rw [hs]; exact q, h.svn⟩
  cases c
  case mbx => rw [hw] at hc; cases hc
  all_goals exact h.same _ hc

theorem KeepsMk.upd_mbx {w : List Part} {s x : State} {v : List Mailbox} (hs : v.length = x.mbx.length) (h : Keeps w s x) (hw : w.contains .mbx = true) :
    KeepsMk w s x.now x.regs x.mem x.bad x.free x.pwr x.bring x.nv x.flt v x.fences x.snaps x.grants x.pair x.pins x.pcie x.desc x.journal x.clk x.pa x.head x.pool x.fs x.memc x.fl x.tier x.red x.volu x.host x.spdm x.boot x.mot x.therm x.outbox x.pending :=
  Keeps.upd_mbx hs h hw

theorem Keeps.upd_fences {w : List Part} {s x : State} {v : List FenceSt} (h : Keeps w s x) (hw : w.contains .fences = true) :
    Keeps w s { x with fences := v } := by
  refine ⟨fun c hc => ?_, h.regsWf, h.memWf, h.log, h.units, h.svn⟩
  cases c
  case fences => rw [hw] at hc; cases hc
  all_goals exact h.same _ hc

theorem KeepsMk.upd_fences {w : List Part} {s x : State} {v : List FenceSt} (h : Keeps w s x) (hw : w.contains .fences = true) :
    KeepsMk w s x.now x.regs x.mem x.bad x.free x.pwr x.bring x.nv x.flt x.mbx v x.snaps x.grants x.pair x.pins x.pcie x.desc x.journal x.clk x.pa x.head x.pool x.fs x.memc x.fl x.tier x.red x.volu x.host x.spdm x.boot x.mot x.therm x.outbox x.pending :=
  Keeps.upd_fences h hw

theorem Keeps.upd_snaps {w : List Part} {s x : State} {v : List Snap} (h : Keeps w s x) (hw : w.contains .snaps = true) :
    Keeps w s { x with snaps := v } := by
  refine ⟨fun c hc => ?_, h.regsWf, h.memWf, h.log, h.units, h.svn⟩
  cases c
  case snaps => rw [hw] at hc; cases hc
  all_goals exact h.same _ hc

theorem KeepsMk.upd_snaps {w : List Part} {s x : State} {v : List Snap} (h : Keeps w s x) (hw : w.contains .snaps = true) :
    KeepsMk w s x.now x.regs x.mem x.bad x.free x.pwr x.bring x.nv x.flt x.mbx x.fences v x.grants x.pair x.pins x.pcie x.desc x.journal x.clk x.pa x.head x.pool x.fs x.memc x.fl x.tier x.red x.volu x.host x.spdm x.boot x.mot x.therm x.outbox x.pending :=
  Keeps.upd_snaps h hw

theorem Keeps.upd_grants {w : List Part} {s x : State} {v : List Grant} (h : Keeps w s x) (hw : w.contains .grants = true) :
    Keeps w s { x with grants := v } := by
  refine ⟨fun c hc => ?_, h.regsWf, h.memWf, h.log, h.units, h.svn⟩
  cases c
  case grants => rw [hw] at hc; cases hc
  all_goals exact h.same _ hc

theorem KeepsMk.upd_grants {w : List Part} {s x : State} {v : List Grant} (h : Keeps w s x) (hw : w.contains .grants = true) :
    KeepsMk w s x.now x.regs x.mem x.bad x.free x.pwr x.bring x.nv x.flt x.mbx x.fences x.snaps v x.pair x.pins x.pcie x.desc x.journal x.clk x.pa x.head x.pool x.fs x.memc x.fl x.tier x.red x.volu x.host x.spdm x.boot x.mot x.therm x.outbox x.pending :=
  Keeps.upd_grants h hw

theorem Keeps.upd_pair {w : List Part} {s x : State} {v : PairSt} (h : Keeps w s x) (hw : w.contains .pair = true) :
    Keeps w s { x with pair := v } := by
  refine ⟨fun c hc => ?_, h.regsWf, h.memWf, h.log, h.units, h.svn⟩
  cases c
  case pair => rw [hw] at hc; cases hc
  all_goals exact h.same _ hc

theorem KeepsMk.upd_pair {w : List Part} {s x : State} {v : PairSt} (h : Keeps w s x) (hw : w.contains .pair = true) :
    KeepsMk w s x.now x.regs x.mem x.bad x.free x.pwr x.bring x.nv x.flt x.mbx x.fences x.snaps x.grants v x.pins x.pcie x.desc x.journal x.clk x.pa x.head x.pool x.fs x.memc x.fl x.tier x.red x.volu x.host x.spdm x.boot x.mot x.therm x.outbox x.pending :=
  Keeps.upd_pair h hw

theorem Keeps.upd_pins {w : List Part} {s x : State} {v : Pins} (h : Keeps w s x) (hw : w.contains .pins = true) :
    Keeps w s { x with pins := v } := by
  refine ⟨fun c hc => ?_, h.regsWf, h.memWf, h.log, h.units, h.svn⟩
  cases c
  case pins => rw [hw] at hc; cases hc
  all_goals exact h.same _ hc

theorem KeepsMk.upd_pins {w : List Part} {s x : State} {v : Pins} (h : Keeps w s x) (hw : w.contains .pins = true) :
    KeepsMk w s x.now x.regs x.mem x.bad x.free x.pwr x.bring x.nv x.flt x.mbx x.fences x.snaps x.grants x.pair v x.pcie x.desc x.journal x.clk x.pa x.head x.pool x.fs x.memc x.fl x.tier x.red x.volu x.host x.spdm x.boot x.mot x.therm x.outbox x.pending :=
  Keeps.upd_pins h hw

theorem Keeps.upd_pcie {w : List Part} {s x : State} {v : PcieSt} (h : Keeps w s x) (hw : w.contains .pcie = true) :
    Keeps w s { x with pcie := v } := by
  refine ⟨fun c hc => ?_, h.regsWf, h.memWf, h.log, h.units, h.svn⟩
  cases c
  case pcie => rw [hw] at hc; cases hc
  all_goals exact h.same _ hc

theorem KeepsMk.upd_pcie {w : List Part} {s x : State} {v : PcieSt} (h : Keeps w s x) (hw : w.contains .pcie = true) :
    KeepsMk w s x.now x.regs x.mem x.bad x.free x.pwr x.bring x.nv x.flt x.mbx x.fences x.snaps x.grants x.pair x.pins v x.desc x.journal x.clk x.pa x.head x.pool x.fs x.memc x.fl x.tier x.red x.volu x.host x.spdm x.boot x.mot x.therm x.outbox x.pending :=
  Keeps.upd_pcie h hw

theorem Keeps.upd_desc {w : List Part} {s x : State} {v : Option Desc} (h : Keeps w s x) (hw : w.contains .desc = true) :
    Keeps w s { x with desc := v } := by
  refine ⟨fun c hc => ?_, h.regsWf, h.memWf, h.log, h.units, h.svn⟩
  cases c
  case desc => rw [hw] at hc; cases hc
  all_goals exact h.same _ hc

theorem KeepsMk.upd_desc {w : List Part} {s x : State} {v : Option Desc} (h : Keeps w s x) (hw : w.contains .desc = true) :
    KeepsMk w s x.now x.regs x.mem x.bad x.free x.pwr x.bring x.nv x.flt x.mbx x.fences x.snaps x.grants x.pair x.pins x.pcie v x.journal x.clk x.pa x.head x.pool x.fs x.memc x.fl x.tier x.red x.volu x.host x.spdm x.boot x.mot x.therm x.outbox x.pending :=
  Keeps.upd_desc h hw

theorem Keeps.upd_journal {w : List Part} {s x : State} {v : List JEnt} (h : Keeps w s x) (hw : w.contains .journal = true) :
    Keeps w s { x with journal := v } := by
  refine ⟨fun c hc => ?_, h.regsWf, h.memWf, h.log, h.units, h.svn⟩
  cases c
  case journal => rw [hw] at hc; cases hc
  all_goals exact h.same _ hc

theorem KeepsMk.upd_journal {w : List Part} {s x : State} {v : List JEnt} (h : Keeps w s x) (hw : w.contains .journal = true) :
    KeepsMk w s x.now x.regs x.mem x.bad x.free x.pwr x.bring x.nv x.flt x.mbx x.fences x.snaps x.grants x.pair x.pins x.pcie x.desc v x.clk x.pa x.head x.pool x.fs x.memc x.fl x.tier x.red x.volu x.host x.spdm x.boot x.mot x.therm x.outbox x.pending :=
  Keeps.upd_journal h hw

theorem Keeps.upd_clk {w : List Part} {s x : State} {v : ClkSt} (hs : v.applied.length = x.clk.applied.length ∧ v.progress.length = x.clk.progress.length) (h : Keeps w s x) (hw : w.contains .clk = true) :
    Keeps w s { x with clk := v } := by
  refine ⟨fun c hc => ?_, h.regsWf, h.memWf, h.log, fun u => by have q := h.units u; unfold Units at q ⊢; rw [hs.1, hs.2]; exact q, h.svn⟩
  cases c
  case clk => rw [hw] at hc; cases hc
  all_goals exact h.same _ hc

theorem KeepsMk.upd_clk {w : List Part} {s x : State} {v : ClkSt} (hs : v.applied.length = x.clk.applied.length ∧ v.progress.length = x.clk.progress.length) (h : Keeps w s x) (hw : w.contains .clk = true) :
    KeepsMk w s x.now x.regs x.mem x.bad x.free x.pwr x.bring x.nv x.flt x.mbx x.fences x.snaps x.grants x.pair x.pins x.pcie x.desc x.journal v x.pa x.head x.pool x.fs x.memc x.fl x.tier x.red x.volu x.host x.spdm x.boot x.mot x.therm x.outbox x.pending :=
  Keeps.upd_clk hs h hw

theorem Keeps.upd_pa {w : List Part} {s x : State} {v : List PaSt} (hs : v.length = x.pa.length) (h : Keeps w s x) (hw : w.contains .pa = true) :
    Keeps w s { x with pa := v } := by
  refine ⟨fun c hc => ?_, h.regsWf, h.memWf, h.log, fun u => by have q := h.units u; unfold Units at q ⊢; rw [hs]; exact q, h.svn⟩
  cases c
  case pa => rw [hw] at hc; cases hc
  all_goals exact h.same _ hc

theorem KeepsMk.upd_pa {w : List Part} {s x : State} {v : List PaSt} (hs : v.length = x.pa.length) (h : Keeps w s x) (hw : w.contains .pa = true) :
    KeepsMk w s x.now x.regs x.mem x.bad x.free x.pwr x.bring x.nv x.flt x.mbx x.fences x.snaps x.grants x.pair x.pins x.pcie x.desc x.journal x.clk v x.head x.pool x.fs x.memc x.fl x.tier x.red x.volu x.host x.spdm x.boot x.mot x.therm x.outbox x.pending :=
  Keeps.upd_pa hs h hw

theorem Keeps.upd_head {w : List Part} {s x : State} {v : List HeadSt} (hs : v.length = x.head.length) (h : Keeps w s x) (hw : w.contains .head = true) :
    Keeps w s { x with head := v } := by
  refine ⟨fun c hc => ?_, h.regsWf, h.memWf, h.log, fun u => by have q := h.units u; unfold Units at q ⊢; rw [hs]; exact q, h.svn⟩
  cases c
  case head => rw [hw] at hc; cases hc
  all_goals exact h.same _ hc

theorem KeepsMk.upd_head {w : List Part} {s x : State} {v : List HeadSt} (hs : v.length = x.head.length) (h : Keeps w s x) (hw : w.contains .head = true) :
    KeepsMk w s x.now x.regs x.mem x.bad x.free x.pwr x.bring x.nv x.flt x.mbx x.fences x.snaps x.grants x.pair x.pins x.pcie x.desc x.journal x.clk x.pa v x.pool x.fs x.memc x.fl x.tier x.red x.volu x.host x.spdm x.boot x.mot x.therm x.outbox x.pending :=
  Keeps.upd_head hs h hw

theorem Keeps.upd_pool {w : List Part} {s x : State} {v : PoolSt} (h : Keeps w s x) (hw : w.contains .pool = true) :
    Keeps w s { x with pool := v } := by
  refine ⟨fun c hc => ?_, h.regsWf, h.memWf, h.log, h.units, h.svn⟩
  cases c
  case pool => rw [hw] at hc; cases hc
  all_goals exact h.same _ hc

theorem KeepsMk.upd_pool {w : List Part} {s x : State} {v : PoolSt} (h : Keeps w s x) (hw : w.contains .pool = true) :
    KeepsMk w s x.now x.regs x.mem x.bad x.free x.pwr x.bring x.nv x.flt x.mbx x.fences x.snaps x.grants x.pair x.pins x.pcie x.desc x.journal x.clk x.pa x.head v x.fs x.memc x.fl x.tier x.red x.volu x.host x.spdm x.boot x.mot x.therm x.outbox x.pending :=
  Keeps.upd_pool h hw

theorem Keeps.upd_fs {w : List Part} {s x : State} {v : List FsSt} (hs : v.length = x.fs.length) (h : Keeps w s x) (hw : w.contains .fs = true) :
    Keeps w s { x with fs := v } := by
  refine ⟨fun c hc => ?_, h.regsWf, h.memWf, h.log, fun u => by have q := h.units u; unfold Units at q ⊢; rw [hs]; exact q, h.svn⟩
  cases c
  case fs => rw [hw] at hc; cases hc
  all_goals exact h.same _ hc

theorem KeepsMk.upd_fs {w : List Part} {s x : State} {v : List FsSt} (hs : v.length = x.fs.length) (h : Keeps w s x) (hw : w.contains .fs = true) :
    KeepsMk w s x.now x.regs x.mem x.bad x.free x.pwr x.bring x.nv x.flt x.mbx x.fences x.snaps x.grants x.pair x.pins x.pcie x.desc x.journal x.clk x.pa x.head x.pool v x.memc x.fl x.tier x.red x.volu x.host x.spdm x.boot x.mot x.therm x.outbox x.pending :=
  Keeps.upd_fs hs h hw

theorem Keeps.upd_memc {w : List Part} {s x : State} {v : MemSt} (h : Keeps w s x) (hw : w.contains .memc = true) :
    Keeps w s { x with memc := v } := by
  refine ⟨fun c hc => ?_, h.regsWf, h.memWf, h.log, h.units, h.svn⟩
  cases c
  case memc => rw [hw] at hc; cases hc
  all_goals exact h.same _ hc

theorem KeepsMk.upd_memc {w : List Part} {s x : State} {v : MemSt} (h : Keeps w s x) (hw : w.contains .memc = true) :
    KeepsMk w s x.now x.regs x.mem x.bad x.free x.pwr x.bring x.nv x.flt x.mbx x.fences x.snaps x.grants x.pair x.pins x.pcie x.desc x.journal x.clk x.pa x.head x.pool x.fs v x.fl x.tier x.red x.volu x.host x.spdm x.boot x.mot x.therm x.outbox x.pending :=
  Keeps.upd_memc h hw

theorem Keeps.upd_fl {w : List Part} {s x : State} {v : FlashSt} (h : Keeps w s x) (hw : w.contains .fl = true) :
    Keeps w s { x with fl := v } := by
  refine ⟨fun c hc => ?_, h.regsWf, h.memWf, h.log, h.units, h.svn⟩
  cases c
  case fl => rw [hw] at hc; cases hc
  all_goals exact h.same _ hc

theorem KeepsMk.upd_fl {w : List Part} {s x : State} {v : FlashSt} (h : Keeps w s x) (hw : w.contains .fl = true) :
    KeepsMk w s x.now x.regs x.mem x.bad x.free x.pwr x.bring x.nv x.flt x.mbx x.fences x.snaps x.grants x.pair x.pins x.pcie x.desc x.journal x.clk x.pa x.head x.pool x.fs x.memc v x.tier x.red x.volu x.host x.spdm x.boot x.mot x.therm x.outbox x.pending :=
  Keeps.upd_fl h hw

theorem Keeps.upd_tier {w : List Part} {s x : State} {v : TierSt} (h : Keeps w s x) (hw : w.contains .tier = true) :
    Keeps w s { x with tier := v } := by
  refine ⟨fun c hc => ?_, h.regsWf, h.memWf, h.log, h.units, h.svn⟩
  cases c
  case tier => rw [hw] at hc; cases hc
  all_goals exact h.same _ hc

theorem KeepsMk.upd_tier {w : List Part} {s x : State} {v : TierSt} (h : Keeps w s x) (hw : w.contains .tier = true) :
    KeepsMk w s x.now x.regs x.mem x.bad x.free x.pwr x.bring x.nv x.flt x.mbx x.fences x.snaps x.grants x.pair x.pins x.pcie x.desc x.journal x.clk x.pa x.head x.pool x.fs x.memc x.fl v x.red x.volu x.host x.spdm x.boot x.mot x.therm x.outbox x.pending :=
  Keeps.upd_tier h hw

theorem Keeps.upd_red {w : List Part} {s x : State} {v : RedSt} (h : Keeps w s x) (hw : w.contains .red = true) :
    Keeps w s { x with red := v } := by
  refine ⟨fun c hc => ?_, h.regsWf, h.memWf, h.log, h.units, h.svn⟩
  cases c
  case red => rw [hw] at hc; cases hc
  all_goals exact h.same _ hc

theorem KeepsMk.upd_red {w : List Part} {s x : State} {v : RedSt} (h : Keeps w s x) (hw : w.contains .red = true) :
    KeepsMk w s x.now x.regs x.mem x.bad x.free x.pwr x.bring x.nv x.flt x.mbx x.fences x.snaps x.grants x.pair x.pins x.pcie x.desc x.journal x.clk x.pa x.head x.pool x.fs x.memc x.fl x.tier v x.volu x.host x.spdm x.boot x.mot x.therm x.outbox x.pending :=
  Keeps.upd_red h hw

theorem Keeps.upd_volu {w : List Part} {s x : State} {v : VolSt} (h : Keeps w s x) (hw : w.contains .volu = true) :
    Keeps w s { x with volu := v } := by
  refine ⟨fun c hc => ?_, h.regsWf, h.memWf, h.log, h.units, h.svn⟩
  cases c
  case volu => rw [hw] at hc; cases hc
  all_goals exact h.same _ hc

theorem KeepsMk.upd_volu {w : List Part} {s x : State} {v : VolSt} (h : Keeps w s x) (hw : w.contains .volu = true) :
    KeepsMk w s x.now x.regs x.mem x.bad x.free x.pwr x.bring x.nv x.flt x.mbx x.fences x.snaps x.grants x.pair x.pins x.pcie x.desc x.journal x.clk x.pa x.head x.pool x.fs x.memc x.fl x.tier x.red v x.host x.spdm x.boot x.mot x.therm x.outbox x.pending :=
  Keeps.upd_volu h hw

theorem Keeps.upd_host {w : List Part} {s x : State} {v : HostSt} (hs : x.host.natq.length = 256 → v.natq.length = 256) (h : Keeps w s x) (hw : w.contains .host = true) :
    Keeps w s { x with host := v } := by
  refine ⟨fun c hc => ?_, h.regsWf, h.memWf, h.log, fun u => by have q := h.units u; unfold Units at q ⊢; exact ⟨q.1, q.2.1, q.2.2.1, q.2.2.2.1, hs q.2.2.2.2.1, q.2.2.2.2.2.1, q.2.2.2.2.2.2.1, q.2.2.2.2.2.2.2⟩, h.svn⟩
  cases c
  case host => rw [hw] at hc; cases hc
  all_goals exact h.same _ hc

theorem KeepsMk.upd_host {w : List Part} {s x : State} {v : HostSt} (hs : x.host.natq.length = 256 → v.natq.length = 256) (h : Keeps w s x) (hw : w.contains .host = true) :
    KeepsMk w s x.now x.regs x.mem x.bad x.free x.pwr x.bring x.nv x.flt x.mbx x.fences x.snaps x.grants x.pair x.pins x.pcie x.desc x.journal x.clk x.pa x.head x.pool x.fs x.memc x.fl x.tier x.red x.volu v x.spdm x.boot x.mot x.therm x.outbox x.pending :=
  Keeps.upd_host hs h hw

theorem Keeps.upd_spdm {w : List Part} {s x : State} {v : SpdmSt} (h : Keeps w s x) (hw : w.contains .spdm = true) :
    Keeps w s { x with spdm := v } := by
  refine ⟨fun c hc => ?_, h.regsWf, h.memWf, h.log, h.units, h.svn⟩
  cases c
  case spdm => rw [hw] at hc; cases hc
  all_goals exact h.same _ hc

theorem KeepsMk.upd_spdm {w : List Part} {s x : State} {v : SpdmSt} (h : Keeps w s x) (hw : w.contains .spdm = true) :
    KeepsMk w s x.now x.regs x.mem x.bad x.free x.pwr x.bring x.nv x.flt x.mbx x.fences x.snaps x.grants x.pair x.pins x.pcie x.desc x.journal x.clk x.pa x.head x.pool x.fs x.memc x.fl x.tier x.red x.volu x.host v x.boot x.mot x.therm x.outbox x.pending :=
  Keeps.upd_spdm h hw

theorem Keeps.upd_boot {w : List Part} {s x : State} {v : BootSt} (h : Keeps w s x) (hw : w.contains .boot = true) :
    Keeps w s { x with boot := v } := by
  refine ⟨fun c hc => ?_, h.regsWf, h.memWf, h.log, h.units, h.svn⟩
  cases c
  case boot => rw [hw] at hc; cases hc
  all_goals exact h.same _ hc

theorem KeepsMk.upd_boot {w : List Part} {s x : State} {v : BootSt} (h : Keeps w s x) (hw : w.contains .boot = true) :
    KeepsMk w s x.now x.regs x.mem x.bad x.free x.pwr x.bring x.nv x.flt x.mbx x.fences x.snaps x.grants x.pair x.pins x.pcie x.desc x.journal x.clk x.pa x.head x.pool x.fs x.memc x.fl x.tier x.red x.volu x.host x.spdm v x.mot x.therm x.outbox x.pending :=
  Keeps.upd_boot h hw

theorem Keeps.upd_mot {w : List Part} {s x : State} {v : MotSt} (hs : x.mot.units → v.units) (h : Keeps w s x) (hw : w.contains .mot = true) :
    Keeps w s { x with mot := v } := by
  refine ⟨fun c hc => ?_, h.regsWf, h.memWf, h.log, fun u => by have q := h.units u; unfold Units at q ⊢; exact ⟨q.1, q.2.1, q.2.2.1, q.2.2.2.1, q.2.2.2.2.1, q.2.2.2.2.2.1, q.2.2.2.2.2.2.1, hs q.2.2.2.2.2.2.2⟩, h.svn⟩
  cases c
  case mot => rw [hw] at hc; cases hc
  all_goals exact h.same _ hc

theorem KeepsMk.upd_mot {w : List Part} {s x : State} {v : MotSt} (hs : x.mot.units → v.units) (h : Keeps w s x) (hw : w.contains .mot = true) :
    KeepsMk w s x.now x.regs x.mem x.bad x.free x.pwr x.bring x.nv x.flt x.mbx x.fences x.snaps x.grants x.pair x.pins x.pcie x.desc x.journal x.clk x.pa x.head x.pool x.fs x.memc x.fl x.tier x.red x.volu x.host x.spdm x.boot v x.therm x.outbox x.pending :=
  Keeps.upd_mot hs h hw

theorem Keeps.upd_therm {w : List Part} {s x : State} {v : ThermSt} (h : Keeps w s x) (hw : w.contains .therm = true) :
    Keeps w s { x with therm := v } := by
  refine ⟨fun c hc => ?_, h.regsWf, h.memWf, h.log, h.units, h.svn⟩
  cases c
  case therm => rw [hw] at hc; cases hc
  all_goals exact h.same _ hc

theorem KeepsMk.upd_therm {w : List Part} {s x : State} {v : ThermSt} (h : Keeps w s x) (hw : w.contains .therm = true) :
    KeepsMk w s x.now x.regs x.mem x.bad x.free x.pwr x.bring x.nv x.flt x.mbx x.fences x.snaps x.grants x.pair x.pins x.pcie x.desc x.journal x.clk x.pa x.head x.pool x.fs x.memc x.fl x.tier x.red x.volu x.host x.spdm x.boot x.mot v x.outbox x.pending :=
  Keeps.upd_therm h hw

theorem Keeps.upd_outbox {w : List Part} {s x : State} {v : List Msg} (h : Keeps w s x) (hw : w.contains .outbox = true) :
    Keeps w s { x with outbox := v } := by
  refine ⟨fun c hc => ?_, h.regsWf, h.memWf, h.log, h.units, h.svn⟩
  cases c
  case outbox => rw [hw] at hc; cases hc
  all_goals exact h.same _ hc

theorem KeepsMk.upd_outbox {w : List Part} {s x : State} {v : List Msg} (h : Keeps w s x) (hw : w.contains .outbox = true) :
    KeepsMk w s x.now x.regs x.mem x.bad x.free x.pwr x.bring x.nv x.flt x.mbx x.fences x.snaps x.grants x.pair x.pins x.pcie x.desc x.journal x.clk x.pa x.head x.pool x.fs x.memc x.fl x.tier x.red x.volu x.host x.spdm x.boot x.mot x.therm v x.pending :=
  Keeps.upd_outbox h hw

theorem Keeps.upd_pending {w : List Part} {s x : State} {v : List Instr} (h : Keeps w s x) (hw : w.contains .pending = true) :
    Keeps w s { x with pending := v } := by
  refine ⟨fun c hc => ?_, h.regsWf, h.memWf, h.log, h.units, h.svn⟩
  cases c
  case pending => rw [hw] at hc; cases hc
  all_goals exact h.same _ hc

theorem KeepsMk.upd_pending {w : List Part} {s x : State} {v : List Instr} (h : Keeps w s x) (hw : w.contains .pending = true) :
    KeepsMk w s x.now x.regs x.mem x.bad x.free x.pwr x.bring x.nv x.flt x.mbx x.fences x.snaps x.grants x.pair x.pins x.pcie x.desc x.journal x.clk x.pa x.head x.pool x.fs x.memc x.fl x.tier x.red x.volu x.host x.spdm x.boot x.mot x.therm x.outbox v :=
  Keeps.upd_pending h hw

theorem Keeps.upd_regs {w : List Part} {s x : State} {v : List (Nat × Word)}
    (hs : smWf resetWord x.regs = true → smWf resetWord v = true) (h : Keeps w s x) (hw : w.contains .regs = true) :
    Keeps w s { x with regs := v } := by
  refine ⟨fun c hc => ?_, fun q => hs (h.regsWf q), h.memWf, h.log, h.units, h.svn⟩
  cases c
  case regs => rw [hw] at hc; cases hc
  all_goals exact h.same _ hc


theorem KeepsMk.upd_regs {w : List Part} {s x : State} {v : List (Nat × Word)}
    (hs : smWf resetWord x.regs = true → smWf resetWord v = true) (h : Keeps w s x) (hw : w.contains .regs = true) :
    KeepsMk w s x.now v x.mem x.bad x.free x.pwr x.bring x.nv x.flt x.mbx x.fences x.snaps x.grants x.pair x.pins x.pcie x.desc x.journal x.clk x.pa x.head x.pool x.fs x.memc x.fl x.tier x.red x.volu x.host x.spdm x.boot x.mot x.therm x.outbox x.pending :=
  Keeps.upd_regs hs h hw

theorem Keeps.upd_mem {w : List Part} {s x : State} {v : List Host.Cell}
    (hs : Memory.wf x.mem = true → Memory.wf v = true) (h : Keeps w s x) (hw : w.contains .mem = true) :
    Keeps w s { x with mem := v } := by
  refine ⟨fun c hc => ?_, h.regsWf, fun q => hs (h.memWf q), h.log, h.units, h.svn⟩
  cases c
  case mem => rw [hw] at hc; cases hc
  all_goals exact h.same _ hc

theorem KeepsMk.upd_mem {w : List Part} {s x : State} {v : List Host.Cell}
    (hs : Memory.wf x.mem = true → Memory.wf v = true) (h : Keeps w s x) (hw : w.contains .mem = true) :
    KeepsMk w s x.now x.regs v x.bad x.free x.pwr x.bring x.nv x.flt x.mbx x.fences x.snaps x.grants x.pair x.pins x.pcie x.desc x.journal x.clk x.pa x.head x.pool x.fs x.memc x.fl x.tier x.red x.volu x.host x.spdm x.boot x.mot x.therm x.outbox x.pending :=
  Keeps.upd_mem hs h hw

theorem Keeps.upd_nvAutoStart {w : List Part} {s x : State} {v : Bool} (h : Keeps w s x) (hw : w.contains .nvAutoStart = true) :
    Keeps w s { x with nv := { x.nv with autoStart := v } } := by
  refine ⟨fun c hc => ?_, h.regsWf, h.memWf, h.log, h.units, h.svn⟩
  cases c
  case nvAutoStart => rw [hw] at hc; cases hc
  all_goals exact h.same _ hc

theorem KeepsMk.upd_nvAutoStart {w : List Part} {s x : State} {v : Bool} (h : Keeps w s x) (hw : w.contains .nvAutoStart = true) :
    KeepsMk w s x.now x.regs x.mem x.bad x.free x.pwr x.bring ({ x.nv with autoStart := v }) x.flt x.mbx x.fences x.snaps x.grants x.pair x.pins x.pcie x.desc x.journal x.clk x.pa x.head x.pool x.fs x.memc x.fl x.tier x.red x.volu x.host x.spdm x.boot x.mot x.therm x.outbox x.pending :=
  Keeps.upd_nvAutoStart h hw

theorem Keeps.upd_nvStartFallow {w : List Part} {s x : State} {v : Bool} (h : Keeps w s x) (hw : w.contains .nvStartFallow = true) :
    Keeps w s { x with nv := { x.nv with startFallow := v } } := by
  refine ⟨fun c hc => ?_, h.regsWf, h.memWf, h.log, h.units, h.svn⟩
  cases c
  case nvStartFallow => rw [hw] at hc; cases hc
  all_goals exact h.same _ hc

theorem KeepsMk.upd_nvStartFallow {w : List Part} {s x : State} {v : Bool} (h : Keeps w s x) (hw : w.contains .nvStartFallow = true) :
    KeepsMk w s x.now x.regs x.mem x.bad x.free x.pwr x.bring ({ x.nv with startFallow := v }) x.flt x.mbx x.fences x.snaps x.grants x.pair x.pins x.pcie x.desc x.journal x.clk x.pa x.head x.pool x.fs x.memc x.fl x.tier x.red x.volu x.host x.spdm x.boot x.mot x.therm x.outbox x.pending :=
  Keeps.upd_nvStartFallow h hw

theorem Keeps.upd_nvFabProfile {w : List Part} {s x : State} {v : Option Nat} (h : Keeps w s x) (hw : w.contains .nvFabProfile = true) :
    Keeps w s { x with nv := { x.nv with fabProfile := v } } := by
  refine ⟨fun c hc => ?_, h.regsWf, h.memWf, h.log, h.units, h.svn⟩
  cases c
  case nvFabProfile => rw [hw] at hc; cases hc
  all_goals exact h.same _ hc

theorem KeepsMk.upd_nvFabProfile {w : List Part} {s x : State} {v : Option Nat} (h : Keeps w s x) (hw : w.contains .nvFabProfile = true) :
    KeepsMk w s x.now x.regs x.mem x.bad x.free x.pwr x.bring ({ x.nv with fabProfile := v }) x.flt x.mbx x.fences x.snaps x.grants x.pair x.pins x.pcie x.desc x.journal x.clk x.pa x.head x.pool x.fs x.memc x.fl x.tier x.red x.volu x.host x.spdm x.boot x.mot x.therm x.outbox x.pending :=
  Keeps.upd_nvFabProfile h hw

theorem Keeps.upd_nvBrickId {w : List Part} {s x : State} {v : Option Nat} (h : Keeps w s x) (hw : w.contains .nvBrickId = true) :
    Keeps w s { x with nv := { x.nv with brickId := v } } := by
  refine ⟨fun c hc => ?_, h.regsWf, h.memWf, h.log, h.units, h.svn⟩
  cases c
  case nvBrickId => rw [hw] at hc; cases hc
  all_goals exact h.same _ hc

theorem KeepsMk.upd_nvBrickId {w : List Part} {s x : State} {v : Option Nat} (h : Keeps w s x) (hw : w.contains .nvBrickId = true) :
    KeepsMk w s x.now x.regs x.mem x.bad x.free x.pwr x.bring ({ x.nv with brickId := v }) x.flt x.mbx x.fences x.snaps x.grants x.pair x.pins x.pcie x.desc x.journal x.clk x.pa x.head x.pool x.fs x.memc x.fl x.tier x.red x.volu x.host x.spdm x.boot x.mot x.therm x.outbox x.pending :=
  Keeps.upd_nvBrickId h hw

theorem Keeps.upd_nvExpertRoots {w : List Part} {s x : State} {v : List (List Byte)} (h : Keeps w s x) (hw : w.contains .nvExpertRoots = true) :
    Keeps w s { x with nv := { x.nv with expertRoots := v } } := by
  refine ⟨fun c hc => ?_, h.regsWf, h.memWf, h.log, h.units, h.svn⟩
  cases c
  case nvExpertRoots => rw [hw] at hc; cases hc
  all_goals exact h.same _ hc

theorem KeepsMk.upd_nvExpertRoots {w : List Part} {s x : State} {v : List (List Byte)} (h : Keeps w s x) (hw : w.contains .nvExpertRoots = true) :
    KeepsMk w s x.now x.regs x.mem x.bad x.free x.pwr x.bring ({ x.nv with expertRoots := v }) x.flt x.mbx x.fences x.snaps x.grants x.pair x.pins x.pcie x.desc x.journal x.clk x.pa x.head x.pool x.fs x.memc x.fl x.tier x.red x.volu x.host x.spdm x.boot x.mot x.therm x.outbox x.pending :=
  Keeps.upd_nvExpertRoots h hw

theorem Keeps.upd_nvAccepted {w : List Part} {s x : State} {v : List (List Byte)} (h : Keeps w s x) (hw : w.contains .nvAccepted = true) :
    Keeps w s { x with nv := { x.nv with accepted := v } } := by
  refine ⟨fun c hc => ?_, h.regsWf, h.memWf, h.log, h.units, h.svn⟩
  cases c
  case nvAccepted => rw [hw] at hc; cases hc
  all_goals exact h.same _ hc

theorem KeepsMk.upd_nvAccepted {w : List Part} {s x : State} {v : List (List Byte)} (h : Keeps w s x) (hw : w.contains .nvAccepted = true) :
    KeepsMk w s x.now x.regs x.mem x.bad x.free x.pwr x.bring ({ x.nv with accepted := v }) x.flt x.mbx x.fences x.snaps x.grants x.pair x.pins x.pcie x.desc x.journal x.clk x.pa x.head x.pool x.fs x.memc x.fl x.tier x.red x.volu x.host x.spdm x.boot x.mot x.therm x.outbox x.pending :=
  Keeps.upd_nvAccepted h hw

theorem Keeps.upd_nvSup {w : List Part} {s x : State} {v : SlotPair} (h : Keeps w s x) (hw : w.contains .nvSup = true) :
    Keeps w s { x with nv := { x.nv with sup := v } } := by
  refine ⟨fun c hc => ?_, h.regsWf, h.memWf, h.log, h.units, h.svn⟩
  cases c
  case nvSup => rw [hw] at hc; cases hc
  all_goals exact h.same _ hc

theorem KeepsMk.upd_nvSup {w : List Part} {s x : State} {v : SlotPair} (h : Keeps w s x) (hw : w.contains .nvSup = true) :
    KeepsMk w s x.now x.regs x.mem x.bad x.free x.pwr x.bring ({ x.nv with sup := v }) x.flt x.mbx x.fences x.snaps x.grants x.pair x.pins x.pcie x.desc x.journal x.clk x.pa x.head x.pool x.fs x.memc x.fl x.tier x.red x.volu x.host x.spdm x.boot x.mot x.therm x.outbox x.pending :=
  Keeps.upd_nvSup h hw

theorem Keeps.upd_nvCtl {w : List Part} {s x : State} {v : SlotPair} (h : Keeps w s x) (hw : w.contains .nvCtl = true) :
    Keeps w s { x with nv := { x.nv with ctl := v } } := by
  refine ⟨fun c hc => ?_, h.regsWf, h.memWf, h.log, h.units, h.svn⟩
  cases c
  case nvCtl => rw [hw] at hc; cases hc
  all_goals exact h.same _ hc

theorem KeepsMk.upd_nvCtl {w : List Part} {s x : State} {v : SlotPair} (h : Keeps w s x) (hw : w.contains .nvCtl = true) :
    KeepsMk w s x.now x.regs x.mem x.bad x.free x.pwr x.bring ({ x.nv with ctl := v }) x.flt x.mbx x.fences x.snaps x.grants x.pair x.pins x.pcie x.desc x.journal x.clk x.pa x.head x.pool x.fs x.memc x.fl x.tier x.red x.volu x.host x.spdm x.boot x.mot x.therm x.outbox x.pending :=
  Keeps.upd_nvCtl h hw

theorem Keeps.upd_nvTokens {w : List Part} {s x : State} {v : List (Nat × TokRec)} (h : Keeps w s x) (hw : w.contains .nvTokens = true) :
    Keeps w s { x with nv := { x.nv with tokens := v } } := by
  refine ⟨fun c hc => ?_, h.regsWf, h.memWf, h.log, h.units, h.svn⟩
  cases c
  case nvTokens => rw [hw] at hc; cases hc
  all_goals exact h.same _ hc

theorem KeepsMk.upd_nvTokens {w : List Part} {s x : State} {v : List (Nat × TokRec)} (h : Keeps w s x) (hw : w.contains .nvTokens = true) :
    KeepsMk w s x.now x.regs x.mem x.bad x.free x.pwr x.bring ({ x.nv with tokens := v }) x.flt x.mbx x.fences x.snaps x.grants x.pair x.pins x.pcie x.desc x.journal x.clk x.pa x.head x.pool x.fs x.memc x.fl x.tier x.red x.volu x.host x.spdm x.boot x.mot x.therm x.outbox x.pending :=
  Keeps.upd_nvTokens h hw

theorem Keeps.upd_nvRetired {w : List Part} {s x : State} {v : List (Nat × Nat)} (h : Keeps w s x) (hw : w.contains .nvRetired = true) :
    Keeps w s { x with nv := { x.nv with retired := v } } := by
  refine ⟨fun c hc => ?_, h.regsWf, h.memWf, h.log, h.units, h.svn⟩
  cases c
  case nvRetired => rw [hw] at hc; cases hc
  all_goals exact h.same _ hc

theorem KeepsMk.upd_nvRetired {w : List Part} {s x : State} {v : List (Nat × Nat)} (h : Keeps w s x) (hw : w.contains .nvRetired = true) :
    KeepsMk w s x.now x.regs x.mem x.bad x.free x.pwr x.bring ({ x.nv with retired := v }) x.flt x.mbx x.fences x.snaps x.grants x.pair x.pins x.pcie x.desc x.journal x.clk x.pa x.head x.pool x.fs x.memc x.fl x.tier x.red x.volu x.host x.spdm x.boot x.mot x.therm x.outbox x.pending :=
  Keeps.upd_nvRetired h hw

theorem Keeps.upd_nvPf {w : List Part} {s x : State} {v : Option PfRecord} (h : Keeps w s x) (hw : w.contains .nvPf = true) :
    Keeps w s { x with nv := { x.nv with pf := v } } := by
  refine ⟨fun c hc => ?_, h.regsWf, h.memWf, h.log, h.units, h.svn⟩
  cases c
  case nvPf => rw [hw] at hc; cases hc
  all_goals exact h.same _ hc

theorem KeepsMk.upd_nvPf {w : List Part} {s x : State} {v : Option PfRecord} (h : Keeps w s x) (hw : w.contains .nvPf = true) :
    KeepsMk w s x.now x.regs x.mem x.bad x.free x.pwr x.bring ({ x.nv with pf := v }) x.flt x.mbx x.fences x.snaps x.grants x.pair x.pins x.pcie x.desc x.journal x.clk x.pa x.head x.pool x.fs x.memc x.fl x.tier x.red x.volu x.host x.spdm x.boot x.mot x.therm x.outbox x.pending :=
  Keeps.upd_nvPf h hw

theorem Keeps.upd_nvLastGood {w : List Part} {s x : State} {v : Option GoodBoot} (h : Keeps w s x) (hw : w.contains .nvLastGood = true) :
    Keeps w s { x with nv := { x.nv with lastGood := v } } := by
  refine ⟨fun c hc => ?_, h.regsWf, h.memWf, h.log, h.units, h.svn⟩
  cases c
  case nvLastGood => rw [hw] at hc; cases hc
  all_goals exact h.same _ hc

theorem KeepsMk.upd_nvLastGood {w : List Part} {s x : State} {v : Option GoodBoot} (h : Keeps w s x) (hw : w.contains .nvLastGood = true) :
    KeepsMk w s x.now x.regs x.mem x.bad x.free x.pwr x.bring ({ x.nv with lastGood := v }) x.flt x.mbx x.fences x.snaps x.grants x.pair x.pins x.pcie x.desc x.journal x.clk x.pa x.head x.pool x.fs x.memc x.fl x.tier x.red x.volu x.host x.spdm x.boot x.mot x.therm x.outbox x.pending :=
  Keeps.upd_nvLastGood h hw

theorem Keeps.upd_log {w : List Part} {s x : State} {v : List FaultEntry} {n : BitVec 32} (hs : v.length ≤ 4096) (h : Keeps w s x)
    (hw : w.contains .nvFaultLog = true) (hn : w.contains .nvLogNext = true) :
    Keeps w s { x with nv := { x.nv with faultLog := v, logNext := n } } := by
  refine ⟨fun c hc => ?_, h.regsWf, h.memWf, fun _ => hs, h.units, h.svn⟩
  cases c
  case nvFaultLog => rw [hw] at hc; cases hc
  case nvLogNext => rw [hn] at hc; cases hc
  all_goals exact h.same _ hc


theorem KeepsMk.upd_log {w : List Part} {s x : State} {v : List FaultEntry} {n : BitVec 32} (hs : v.length ≤ 4096) (h : Keeps w s x)
    (hw : w.contains .nvFaultLog = true) (hn : w.contains .nvLogNext = true) :
    KeepsMk w s x.now x.regs x.mem x.bad x.free x.pwr x.bring ({ x.nv with faultLog := v, logNext := n }) x.flt x.mbx x.fences x.snaps x.grants x.pair x.pins x.pcie x.desc x.journal x.clk x.pa x.head x.pool x.fs x.memc x.fl x.tier x.red x.volu x.host x.spdm x.boot x.mot x.therm x.outbox x.pending :=
  Keeps.upd_log hs h hw hn

theorem Keeps.upd_svn {w : List Part} {s x : State} {a b : Nat} (hs : x.nv.svnMinSup ≤ a ∧ x.nv.svnMinCtl ≤ b) (h : Keeps w s x)
    (hw : w.contains .nvSvnMinSup = true) (hn : w.contains .nvSvnMinCtl = true) :
    Keeps w s { x with nv := { x.nv with svnMinSup := a, svnMinCtl := b } } := by
  refine ⟨fun c hc => ?_, h.regsWf, h.memWf, h.log, h.units, Nat.le_trans h.svn.1 hs.1, Nat.le_trans h.svn.2 hs.2⟩
  cases c
  case nvSvnMinSup => rw [hw] at hc; cases hc
  case nvSvnMinCtl => rw [hn] at hc; cases hc
  all_goals exact h.same _ hc

theorem KeepsMk.upd_svn {w : List Part} {s x : State} {a b : Nat} (hs : x.nv.svnMinSup ≤ a ∧ x.nv.svnMinCtl ≤ b) (h : Keeps w s x)
    (hw : w.contains .nvSvnMinSup = true) (hn : w.contains .nvSvnMinCtl = true) :
    KeepsMk w s x.now x.regs x.mem x.bad x.free x.pwr x.bring ({ x.nv with svnMinSup := a, svnMinCtl := b }) x.flt x.mbx x.fences x.snaps x.grants x.pair x.pins x.pcie x.desc x.journal x.clk x.pa x.head x.pool x.fs x.memc x.fl x.tier x.red x.volu x.host x.spdm x.boot x.mot x.therm x.outbox x.pending :=
  Keeps.upd_svn hs h hw hn

theorem Keeps.upd_journal_tier {w : List Part} {s x : State} {v0 : List JEnt} {v1 : TierSt}
    (h : Keeps w s x) (w0 : w.contains .journal = true) (w1 : w.contains .tier = true) :
    Keeps w s { x with journal := v0, tier := v1 } :=
  Keeps.upd_tier (x := { x with journal := v0 }) (v := v1) (Keeps.upd_journal (v := v0) h w0) w1

theorem KeepsMk.upd_journal_tier {w : List Part} {s x : State} {v0 : List JEnt} {v1 : TierSt}
    (h : Keeps w s x) (w0 : w.contains .journal = true) (w1 : w.contains .tier = true) :
    KeepsMk w s x.now x.regs x.mem x.bad x.free x.pwr x.bring x.nv x.flt x.mbx x.fences x.snaps x.grants x.pair x.pins x.pcie x.desc v0 x.clk x.pa x.head x.pool x.fs x.memc x.fl v1 x.red x.volu x.host x.spdm x.boot x.mot x.therm x.outbox x.pending :=
  Keeps.upd_journal_tier h w0 w1

theorem Keeps.upd_fl_tier {w : List Part} {s x : State} {v0 : FlashSt} {v1 : TierSt}
    (h : Keeps w s x) (w0 : w.contains .fl = true) (w1 : w.contains .tier = true) :
    Keeps w s { x with fl := v0, tier := v1 } :=
  Keeps.upd_tier (x := { x with fl := v0 }) (v := v1) (Keeps.upd_fl (v := v0) h w0) w1

theorem KeepsMk.upd_fl_tier {w : List Part} {s x : State} {v0 : FlashSt} {v1 : TierSt}
    (h : Keeps w s x) (w0 : w.contains .fl = true) (w1 : w.contains .tier = true) :
    KeepsMk w s x.now x.regs x.mem x.bad x.free x.pwr x.bring x.nv x.flt x.mbx x.fences x.snaps x.grants x.pair x.pins x.pcie x.desc x.journal x.clk x.pa x.head x.pool x.fs x.memc v0 v1 x.red x.volu x.host x.spdm x.boot x.mot x.therm x.outbox x.pending :=
  Keeps.upd_fl_tier h w0 w1

theorem Keeps.upd_bring_memc {w : List Part} {s x : State} {v0 : BringSt} {v1 : MemSt}
    (h : Keeps w s x) (w0 : w.contains .bring = true) (w1 : w.contains .memc = true) :
    Keeps w s { x with bring := v0, memc := v1 } :=
  Keeps.upd_memc (x := { x with bring := v0 }) (v := v1) (Keeps.upd_bring (v := v0) h w0) w1

theorem KeepsMk.upd_bring_memc {w : List Part} {s x : State} {v0 : BringSt} {v1 : MemSt}
    (h : Keeps w s x) (w0 : w.contains .bring = true) (w1 : w.contains .memc = true) :
    KeepsMk w s x.now x.regs x.mem x.bad x.free x.pwr v0 x.nv x.flt x.mbx x.fences x.snaps x.grants x.pair x.pins x.pcie x.desc x.journal x.clk x.pa x.head x.pool x.fs v1 x.fl x.tier x.red x.volu x.host x.spdm x.boot x.mot x.therm x.outbox x.pending :=
  Keeps.upd_bring_memc h w0 w1

theorem Keeps.upd_bad_memc {w : List Part} {s x : State} {v0 : List Nat} {v1 : MemSt}
    (h : Keeps w s x) (w0 : w.contains .bad = true) (w1 : w.contains .memc = true) :
    Keeps w s { x with bad := v0, memc := v1 } :=
  Keeps.upd_memc (x := { x with bad := v0 }) (v := v1) (Keeps.upd_bad (v := v0) h w0) w1

theorem KeepsMk.upd_bad_memc {w : List Part} {s x : State} {v0 : List Nat} {v1 : MemSt}
    (h : Keeps w s x) (w0 : w.contains .bad = true) (w1 : w.contains .memc = true) :
    KeepsMk w s x.now x.regs x.mem v0 x.free x.pwr x.bring x.nv x.flt x.mbx x.fences x.snaps x.grants x.pair x.pins x.pcie x.desc x.journal x.clk x.pa x.head x.pool x.fs v1 x.fl x.tier x.red x.volu x.host x.spdm x.boot x.mot x.therm x.outbox x.pending :=
  Keeps.upd_bad_memc h w0 w1

theorem Keeps.upd_pwr_bring {w : List Part} {s x : State} {v0 : PwrSt} {v1 : BringSt}
    (h : Keeps w s x) (w0 : w.contains .pwr = true) (w1 : w.contains .bring = true) :
    Keeps w s { x with pwr := v0, bring := v1 } :=
  Keeps.upd_bring (x := { x with pwr := v0 }) (v := v1) (Keeps.upd_pwr (v := v0) h w0) w1

theorem KeepsMk.upd_pwr_bring {w : List Part} {s x : State} {v0 : PwrSt} {v1 : BringSt}
    (h : Keeps w s x) (w0 : w.contains .pwr = true) (w1 : w.contains .bring = true) :
    KeepsMk w s x.now x.regs x.mem x.bad x.free v0 v1 x.nv x.flt x.mbx x.fences x.snaps x.grants x.pair x.pins x.pcie x.desc x.journal x.clk x.pa x.head x.pool x.fs x.memc x.fl x.tier x.red x.volu x.host x.spdm x.boot x.mot x.therm x.outbox x.pending :=
  Keeps.upd_pwr_bring h w0 w1

theorem Keeps.upd_bring_spdm {w : List Part} {s x : State} {v0 : BringSt} {v1 : SpdmSt}
    (h : Keeps w s x) (w0 : w.contains .bring = true) (w1 : w.contains .spdm = true) :
    Keeps w s { x with bring := v0, spdm := v1 } :=
  Keeps.upd_spdm (x := { x with bring := v0 }) (v := v1) (Keeps.upd_bring (v := v0) h w0) w1

theorem KeepsMk.upd_bring_spdm {w : List Part} {s x : State} {v0 : BringSt} {v1 : SpdmSt}
    (h : Keeps w s x) (w0 : w.contains .bring = true) (w1 : w.contains .spdm = true) :
    KeepsMk w s x.now x.regs x.mem x.bad x.free x.pwr v0 x.nv x.flt x.mbx x.fences x.snaps x.grants x.pair x.pins x.pcie x.desc x.journal x.clk x.pa x.head x.pool x.fs x.memc x.fl x.tier x.red x.volu x.host v1 x.boot x.mot x.therm x.outbox x.pending :=
  Keeps.upd_bring_spdm h w0 w1

theorem Keeps.upd_fences_host {w : List Part} {s x : State} {v0 : List FenceSt} {v1 : HostSt} (hs1 : x.host.natq.length = 256 → v1.natq.length = 256)
    (h : Keeps w s x) (w0 : w.contains .fences = true) (w1 : w.contains .host = true) :
    Keeps w s { x with fences := v0, host := v1 } :=
  Keeps.upd_host (x := { x with fences := v0 }) (v := v1) hs1 (Keeps.upd_fences (v := v0) h w0) w1

theorem KeepsMk.upd_fences_host {w : List Part} {s x : State} {v0 : List FenceSt} {v1 : HostSt} (hs1 : x.host.natq.length = 256 → v1.natq.length = 256)
    (h : Keeps w s x) (w0 : w.contains .fences = true) (w1 : w.contains .host = true) :
    KeepsMk w s x.now x.regs x.mem x.bad x.free x.pwr x.bring x.nv x.flt x.mbx v0 x.snaps x.grants x.pair x.pins x.pcie x.desc x.journal x.clk x.pa x.head x.pool x.fs x.memc x.fl x.tier x.red x.volu v1 x.spdm x.boot x.mot x.therm x.outbox x.pending :=
  Keeps.upd_fences_host hs1 h w0 w1

theorem Keeps.upd_pair_pins {w : List Part} {s x : State} {v0 : PairSt} {v1 : Pins}
    (h : Keeps w s x) (w0 : w.contains .pair = true) (w1 : w.contains .pins = true) :
    Keeps w s { x with pair := v0, pins := v1 } :=
  Keeps.upd_pins (x := { x with pair := v0 }) (v := v1) (Keeps.upd_pair (v := v0) h w0) w1

theorem KeepsMk.upd_pair_pins {w : List Part} {s x : State} {v0 : PairSt} {v1 : Pins}
    (h : Keeps w s x) (w0 : w.contains .pair = true) (w1 : w.contains .pins = true) :
    KeepsMk w s x.now x.regs x.mem x.bad x.free x.pwr x.bring x.nv x.flt x.mbx x.fences x.snaps x.grants v0 v1 x.pcie x.desc x.journal x.clk x.pa x.head x.pool x.fs x.memc x.fl x.tier x.red x.volu x.host x.spdm x.boot x.mot x.therm x.outbox x.pending :=
  Keeps.upd_pair_pins h w0 w1

theorem Keeps.upd_journal_tier_volu {w : List Part} {s x : State} {v0 : List JEnt} {v1 : TierSt} {v2 : VolSt}
    (h : Keeps w s x) (w0 : w.contains .journal = true) (w1 : w.contains .tier = true) (w2 : w.contains .volu = true) :
    Keeps w s { x with journal := v0, tier := v1, volu := v2 } :=
  Keeps.upd_volu (x := { x with journal := v0, tier := v1 }) (v := v2) (Keeps.upd_tier (x := { x with journal := v0 }) (v := v1) (Keeps.upd_journal (v := v0) h w0) w1) w2

theorem KeepsMk.upd_journal_tier_volu {w : List Part} {s x : State} {v0 : List JEnt} {v1 : TierSt} {v2 : VolSt}
    (h : Keeps w s x) (w0 : w.contains .journal = true) (w1 : w.contains .tier = true) (w2 : w.contains .volu = true) :
    KeepsMk w s x.now x.regs x.mem x.bad x.free x.pwr x.bring x.nv x.flt x.mbx x.fences x.snaps x.grants x.pair x.pins x.pcie x.desc v0 x.clk x.pa x.head x.pool x.fs x.memc x.fl v1 x.red v2 x.host x.spdm x.boot x.mot x.therm x.outbox x.pending :=
  Keeps.upd_journal_tier_volu h w0 w1 w2

theorem Keeps.upd_tier_red {w : List Part} {s x : State} {v0 : TierSt} {v1 : RedSt}
    (h : Keeps w s x) (w0 : w.contains .tier = true) (w1 : w.contains .red = true) :
    Keeps w s { x with tier := v0, red := v1 } :=
  Keeps.upd_red (x := { x with tier := v0 }) (v := v1) (Keeps.upd_tier (v := v0) h w0) w1

theorem KeepsMk.upd_tier_red {w : List Part} {s x : State} {v0 : TierSt} {v1 : RedSt}
    (h : Keeps w s x) (w0 : w.contains .tier = true) (w1 : w.contains .red = true) :
    KeepsMk w s x.now x.regs x.mem x.bad x.free x.pwr x.bring x.nv x.flt x.mbx x.fences x.snaps x.grants x.pair x.pins x.pcie x.desc x.journal x.clk x.pa x.head x.pool x.fs x.memc x.fl v0 v1 x.volu x.host x.spdm x.boot x.mot x.therm x.outbox x.pending :=
  Keeps.upd_tier_red h w0 w1

theorem Keeps.upd_pwr_bring_flt_pair {w : List Part} {s x : State} {v0 : PwrSt} {v1 : BringSt} {v2 : FaultSt} {v3 : PairSt}
    (h : Keeps w s x) (w0 : w.contains .pwr = true) (w1 : w.contains .bring = true) (w2 : w.contains .flt = true) (w3 : w.contains .pair = true) :
    Keeps w s { x with pwr := v0, bring := v1, flt := v2, pair := v3 } :=
  Keeps.upd_pair (x := { x with pwr := v0, bring := v1, flt := v2 }) (v := v3) (Keeps.upd_flt (x := { x with pwr := v0, bring := v1 }) (v := v2) (Keeps.upd_bring (x := { x with pwr := v0 }) (v := v1) (Keeps.upd_pwr (v := v0) h w0) w1) w2) w3

theorem KeepsMk.upd_pwr_bring_flt_pair {w : List Part} {s x : State} {v0 : PwrSt} {v1 : BringSt} {v2 : FaultSt} {v3 : PairSt}
    (h : Keeps w s x) (w0 : w.contains .pwr = true) (w1 : w.contains .bring = true) (w2 : w.contains .flt = true) (w3 : w.contains .pair = true) :
    KeepsMk w s x.now x.regs x.mem x.bad x.free v0 v1 x.nv v2 x.mbx x.fences x.snaps x.grants v3 x.pins x.pcie x.desc x.journal x.clk x.pa x.head x.pool x.fs x.memc x.fl x.tier x.red x.volu x.host x.spdm x.boot x.mot x.therm x.outbox x.pending :=
  Keeps.upd_pwr_bring_flt_pair h w0 w1 w2 w3

theorem Keeps.upd_pwr_pins {w : List Part} {s x : State} {v0 : PwrSt} {v1 : Pins}
    (h : Keeps w s x) (w0 : w.contains .pwr = true) (w1 : w.contains .pins = true) :
    Keeps w s { x with pwr := v0, pins := v1 } :=
  Keeps.upd_pins (x := { x with pwr := v0 }) (v := v1) (Keeps.upd_pwr (v := v0) h w0) w1

theorem KeepsMk.upd_pwr_pins {w : List Part} {s x : State} {v0 : PwrSt} {v1 : Pins}
    (h : Keeps w s x) (w0 : w.contains .pwr = true) (w1 : w.contains .pins = true) :
    KeepsMk w s x.now x.regs x.mem x.bad x.free v0 x.bring x.nv x.flt x.mbx x.fences x.snaps x.grants x.pair v1 x.pcie x.desc x.journal x.clk x.pa x.head x.pool x.fs x.memc x.fl x.tier x.red x.volu x.host x.spdm x.boot x.mot x.therm x.outbox x.pending :=
  Keeps.upd_pwr_pins h w0 w1

theorem Keeps.upd_mem_pair_pa_head_pool_fs {w : List Part} {s x : State} {v0 : List Host.Cell} {v1 : PairSt} {v2 : List PaSt} {v3 : List HeadSt} {v4 : PoolSt} {v5 : List FsSt} (hs0 : Memory.wf x.mem = true → Memory.wf v0 = true) (hs2 : v2.length = x.pa.length) (hs3 : v3.length = x.head.length) (hs5 : v5.length = x.fs.length)
    (h : Keeps w s x) (w0 : w.contains .mem = true) (w1 : w.contains .pair = true) (w2 : w.contains .pa = true) (w3 : w.contains .head = true) (w4 : w.contains .pool = true) (w5 : w.contains .fs = true) :
    Keeps w s { x with mem := v0, pair := v1, pa := v2, head := v3, pool := v4, fs := v5 } :=
  Keeps.upd_fs (x := { x with mem := v0, pair := v1, pa := v2, head := v3, pool := v4 }) (v := v5) hs5 (Keeps.upd_pool (x := { x with mem := v0, pair := v1, pa := v2, head := v3 }) (v := v4) (Keeps.upd_head (x := { x with mem := v0, pair := v1, pa := v2 }) (v := v3) hs3 (Keeps.upd_pa (x := { x with mem := v0, pair := v1 }) (v := v2) hs2 (Keeps.upd_pair (x := { x with mem := v0 }) (v := v1) (Keeps.upd_mem (v := v0) hs0 h w0) w1) w2) w3) w4) w5

theorem KeepsMk.upd_mem_pair_pa_head_pool_fs {w : List Part} {s x : State} {v0 : List Host.Cell} {v1 : PairSt} {v2 : List PaSt} {v3 : List HeadSt} {v4 : PoolSt} {v5 : List FsSt} (hs0 : Memory.wf x.mem = true → Memory.wf v0 = true) (hs2 : v2.length = x.pa.length) (hs3 : v3.length = x.head.length) (hs5 : v5.length = x.fs.length)
    (h : Keeps w s x) (w0 : w.contains .mem = true) (w1 : w.contains .pair = true) (w2 : w.contains .pa = true) (w3 : w.contains .head = true) (w4 : w.contains .pool = true) (w5 : w.contains .fs = true) :
    KeepsMk w s x.now x.regs v0 x.bad x.free x.pwr x.bring x.nv x.flt x.mbx x.fences x.snaps x.grants v1 x.pins x.pcie x.desc x.journal x.clk v2 v3 v4 v5 x.memc x.fl x.tier x.red x.volu x.host x.spdm x.boot x.mot x.therm x.outbox x.pending :=
  Keeps.upd_mem_pair_pa_head_pool_fs hs0 hs2 hs3 hs5 h w0 w1 w2 w3 w4 w5

theorem Keeps.upd_pwr_head_memc {w : List Part} {s x : State} {v0 : PwrSt} {v1 : List HeadSt} {v2 : MemSt} (hs1 : v1.length = x.head.length)
    (h : Keeps w s x) (w0 : w.contains .pwr = true) (w1 : w.contains .head = true) (w2 : w.contains .memc = true) :
    Keeps w s { x with pwr := v0, head := v1, memc := v2 } :=
  Keeps.upd_memc (x := { x with pwr := v0, head := v1 }) (v := v2) (Keeps.upd_head (x := { x with pwr := v0 }) (v := v1) hs1 (Keeps.upd_pwr (v := v0) h w0) w1) w2

theorem KeepsMk.upd_pwr_head_memc {w : List Part} {s x : State} {v0 : PwrSt} {v1 : List HeadSt} {v2 : MemSt} (hs1 : v1.length = x.head.length)
    (h : Keeps w s x) (w0 : w.contains .pwr = true) (w1 : w.contains .head = true) (w2 : w.contains .memc = true) :
    KeepsMk w s x.now x.regs x.mem x.bad x.free v0 x.bring x.nv x.flt x.mbx x.fences x.snaps x.grants x.pair x.pins x.pcie x.desc x.journal x.clk x.pa v1 x.pool x.fs v2 x.fl x.tier x.red x.volu x.host x.spdm x.boot x.mot x.therm x.outbox x.pending :=
  Keeps.upd_pwr_head_memc hs1 h w0 w1 w2

theorem Keeps.upd_pwr_bring_boot {w : List Part} {s x : State} {v0 : PwrSt} {v1 : BringSt} {v2 : BootSt}
    (h : Keeps w s x) (w0 : w.contains .pwr = true) (w1 : w.contains .bring = true) (w2 : w.contains .boot = true) :
    Keeps w s { x with pwr := v0, bring := v1, boot := v2 } :=
  Keeps.upd_boot (x := { x with pwr := v0, bring := v1 }) (v := v2) (Keeps.upd_bring (x := { x with pwr := v0 }) (v := v1) (Keeps.upd_pwr (v := v0) h w0) w1) w2

theorem KeepsMk.upd_pwr_bring_boot {w : List Part} {s x : State} {v0 : PwrSt} {v1 : BringSt} {v2 : BootSt}
    (h : Keeps w s x) (w0 : w.contains .pwr = true) (w1 : w.contains .bring = true) (w2 : w.contains .boot = true) :
    KeepsMk w s x.now x.regs x.mem x.bad x.free v0 v1 x.nv x.flt x.mbx x.fences x.snaps x.grants x.pair x.pins x.pcie x.desc x.journal x.clk x.pa x.head x.pool x.fs x.memc x.fl x.tier x.red x.volu x.host x.spdm v2 x.mot x.therm x.outbox x.pending :=
  Keeps.upd_pwr_bring_boot h w0 w1 w2

theorem Keeps.upd_fences_memc_host {w : List Part} {s x : State} {v0 : List FenceSt} {v1 : MemSt} {v2 : HostSt} (hs2 : x.host.natq.length = 256 → v2.natq.length = 256)
    (h : Keeps w s x) (w0 : w.contains .fences = true) (w1 : w.contains .memc = true) (w2 : w.contains .host = true) :
    Keeps w s { x with fences := v0, memc := v1, host := v2 } :=
  Keeps.upd_host (x := { x with fences := v0, memc := v1 }) (v := v2) hs2 (Keeps.upd_memc (x := { x with fences := v0 }) (v := v1) (Keeps.upd_fences (v := v0) h w0) w1) w2

theorem KeepsMk.upd_fences_memc_host {w : List Part} {s x : State} {v0 : List FenceSt} {v1 : MemSt} {v2 : HostSt} (hs2 : x.host.natq.length = 256 → v2.natq.length = 256)
    (h : Keeps w s x) (w0 : w.contains .fences = true) (w1 : w.contains .memc = true) (w2 : w.contains .host = true) :
    KeepsMk w s x.now x.regs x.mem x.bad x.free x.pwr x.bring x.nv x.flt x.mbx v0 x.snaps x.grants x.pair x.pins x.pcie x.desc x.journal x.clk x.pa x.head x.pool x.fs v1 x.fl x.tier x.red x.volu v2 x.spdm x.boot x.mot x.therm x.outbox x.pending :=
  Keeps.upd_fences_memc_host hs2 h w0 w1 w2

theorem Keeps.upd_pwr_volu {w : List Part} {s x : State} {v0 : PwrSt} {v1 : VolSt}
    (h : Keeps w s x) (w0 : w.contains .pwr = true) (w1 : w.contains .volu = true) :
    Keeps w s { x with pwr := v0, volu := v1 } :=
  Keeps.upd_volu (x := { x with pwr := v0 }) (v := v1) (Keeps.upd_pwr (v := v0) h w0) w1

theorem KeepsMk.upd_pwr_volu {w : List Part} {s x : State} {v0 : PwrSt} {v1 : VolSt}
    (h : Keeps w s x) (w0 : w.contains .pwr = true) (w1 : w.contains .volu = true) :
    KeepsMk w s x.now x.regs x.mem x.bad x.free v0 x.bring x.nv x.flt x.mbx x.fences x.snaps x.grants x.pair x.pins x.pcie x.desc x.journal x.clk x.pa x.head x.pool x.fs x.memc x.fl x.tier x.red v1 x.host x.spdm x.boot x.mot x.therm x.outbox x.pending :=
  Keeps.upd_pwr_volu h w0 w1

theorem Keeps.upd_mem_bad_memc {w : List Part} {s x : State} {v0 : List Host.Cell} {v1 : List Nat} {v2 : MemSt} (hs0 : Memory.wf x.mem = true → Memory.wf v0 = true)
    (h : Keeps w s x) (w0 : w.contains .mem = true) (w1 : w.contains .bad = true) (w2 : w.contains .memc = true) :
    Keeps w s { x with mem := v0, bad := v1, memc := v2 } :=
  Keeps.upd_memc (x := { x with mem := v0, bad := v1 }) (v := v2) (Keeps.upd_bad (x := { x with mem := v0 }) (v := v1) (Keeps.upd_mem (v := v0) hs0 h w0) w1) w2

theorem KeepsMk.upd_mem_bad_memc {w : List Part} {s x : State} {v0 : List Host.Cell} {v1 : List Nat} {v2 : MemSt} (hs0 : Memory.wf x.mem = true → Memory.wf v0 = true)
    (h : Keeps w s x) (w0 : w.contains .mem = true) (w1 : w.contains .bad = true) (w2 : w.contains .memc = true) :
    KeepsMk w s x.now x.regs v0 v1 x.free x.pwr x.bring x.nv x.flt x.mbx x.fences x.snaps x.grants x.pair x.pins x.pcie x.desc x.journal x.clk x.pa x.head x.pool x.fs v2 x.fl x.tier x.red x.volu x.host x.spdm x.boot x.mot x.therm x.outbox x.pending :=
  Keeps.upd_mem_bad_memc hs0 h w0 w1 w2

theorem Keeps.upd_mem_bad_pwr_pair_tier_volu {w : List Part} {s x : State} {v0 : List Host.Cell} {v1 : List Nat} {v2 : PwrSt} {v3 : PairSt} {v4 : TierSt} {v5 : VolSt} (hs0 : Memory.wf x.mem = true → Memory.wf v0 = true)
    (h : Keeps w s x) (w0 : w.contains .mem = true) (w1 : w.contains .bad = true) (w2 : w.contains .pwr = true) (w3 : w.contains .pair = true) (w4 : w.contains .tier = true) (w5 : w.contains .volu = true) :
    Keeps w s { x with mem := v0, bad := v1, pwr := v2, pair := v3, tier := v4, volu := v5 } :=
  Keeps.upd_volu (x := { x with mem := v0, bad := v1, pwr := v2, pair := v3, tier := v4 }) (v := v5) (Keeps.upd_tier (x := { x with mem := v0, bad := v1, pwr := v2, pair := v3 }) (v := v4) (Keeps.upd_pair (x := { x with mem := v0, bad := v1, pwr := v2 }) (v := v3) (Keeps.upd_pwr (x := { x with mem := v0, bad := v1 }) (v := v2) (Keeps.upd_bad (x := { x with mem := v0 }) (v := v1) (Keeps.upd_mem (v := v0) hs0 h w0) w1) w2) w3) w4) w5

theorem KeepsMk.upd_mem_bad_pwr_pair_tier_volu {w : List Part} {s x : State} {v0 : List Host.Cell} {v1 : List Nat} {v2 : PwrSt} {v3 : PairSt} {v4 : TierSt} {v5 : VolSt} (hs0 : Memory.wf x.mem = true → Memory.wf v0 = true)
    (h : Keeps w s x) (w0 : w.contains .mem = true) (w1 : w.contains .bad = true) (w2 : w.contains .pwr = true) (w3 : w.contains .pair = true) (w4 : w.contains .tier = true) (w5 : w.contains .volu = true) :
    KeepsMk w s x.now x.regs v0 v1 x.free v2 x.bring x.nv x.flt x.mbx x.fences x.snaps x.grants v3 x.pins x.pcie x.desc x.journal x.clk x.pa x.head x.pool x.fs x.memc x.fl v4 x.red v5 x.host x.spdm x.boot x.mot x.therm x.outbox x.pending :=
  Keeps.upd_mem_bad_pwr_pair_tier_volu hs0 h w0 w1 w2 w3 w4 w5

end Sys2Proof.Machine
end

