-- ==== Sys2Proof/Laws/KeepOps.lean ====
section
/-! SUPPORT. What each operation of Machine/Ops.lean keeps (`Keeps`). -/

set_option Elab.async false

namespace Sys2Proof.Machine

theorem wr_keeps {a : Nat} {v : Word} {s : State} : Keeps [.regs] s (wr a v s) :=
  Keeps.upd_regs smWf_smPut (Keeps.refl _ _) rfl

theorem setF_keeps {f : Fld} {v : Nat} {s : State} :
    Keeps [.regs] s (setF f v s) := by
  unfold setF
  try dsimp -proj only
  repeat' first
    | exact (rfl : _ = true)
    | (with_reducible exact Keeps.refl _ _)
    | assumption
    | (with_reducible exact (Keeps.refl _ _).mono rfl)
    | (with_reducible apply Keeps.via wr_keeps)
    | (with_reducible intro)
    | (dsimp -proj only)

theorem setB_keeps {f : Fld} {b : Bool} {s : State} :
    Keeps [.regs] s (setB f b s) := by
  unfold setB
  try dsimp -proj only
  repeat' first
    | exact (rfl : _ = true)
    | (with_reducible exact Keeps.refl _ _)
    | assumption
    | (with_reducible exact (Keeps.refl _ _).mono rfl)
    | (with_reducible apply Keeps.via setF_keeps)
    | (with_reducible intro)
    | (dsimp -proj only)

theorem satF_keeps {f : Fld} {n : Nat} {s : State} :
    Keeps [.regs] s (satF f n s) := by
  unfold satF
  try dsimp -proj only
  repeat' first
    | exact (rfl : _ = true)
    | (with_reducible exact Keeps.refl _ _)
    | assumption
    | (with_reducible exact (Keeps.refl _ _).mono rfl)
    | (with_reducible apply Keeps.via setF_keeps)
    | (with_reducible intro)
    | (dsimp -proj only)

theorem clearRegs_keeps {p : Nat → Bool} {s : State} : Keeps [.regs] s (clearRegs p s) :=
  Keeps.upd_regs smWf_smKeep (Keeps.refl _ _) rfl

theorem clearDomain_keeps {d : Nat} {s : State} :
    Keeps [.regs] s (clearDomain d s) := by
  unfold clearDomain
  try dsimp -proj only
  repeat' first
    | exact (rfl : _ = true)
    | (with_reducible exact Keeps.refl _ _)
    | assumption
    | (with_reducible exact (Keeps.refl _ _).mono rfl)
    | (with_reducible apply Keeps.via clearRegs_keeps)
    | (with_reducible intro)
    | (dsimp -proj only)

theorem memPutBytes_wf {m : List Host.Cell} (l : List Byte) (a : Nat) (h : Memory.wf m = true) :
    Memory.wf (memPutBytes m a l) = true := by
  induction l generalizing m a with
  | nil => exact h
  | cons b r ih => exact ih _ (smWf_smPut h)

theorem memWrite_keeps {a : Nat} {l : List Byte} {s : State} : Keeps [.mem] s (memWrite a l s) :=
  Keeps.upd_mem (memPutBytes_wf l a) (Keeps.refl _ _) rfl

theorem memZero_keeps {a n : Nat} {s : State} : Keeps [.mem] s (memZero a n s) :=
  Keeps.upd_mem smWf_smKeep (Keeps.refl _ _) rfl

theorem hostPlaces_keeps {l : List Host.Cell} {s : State} : Keeps [.mem] s (hostPlaces l s) :=
  Keeps.upd_mem (smWf_smPutAll _) (Keeps.refl _ _) rfl

theorem send_keeps {m : Msg} {s : State} :
    Keeps [.outbox] s (send m s) := by
  unfold send
  try dsimp -proj only
  repeat' first
    | exact (rfl : _ = true)
    | (with_reducible exact Keeps.refl _ _)
    | assumption
    | (with_reducible exact (Keeps.refl _ _).mono rfl)
    | (dsimp -proj only [keepsMk]; with_reducible apply KeepsMk.upd_outbox)
    | (with_reducible intro)
    | (dsimp -proj only)

theorem takeFree_keeps {s : State} :
    Keeps [.free] s (takeFree s).2 := by
  unfold takeFree
  try dsimp -proj only
  repeat' first
    | exact (rfl : _ = true)
    | (with_reducible exact Keeps.refl _ _)
    | assumption
    | (with_reducible exact (Keeps.refl _ _).mono rfl)
    | (dsimp -proj only [keepsMk]; with_reducible apply KeepsMk.upd_free)
    | (with_reducible intro)
    | (dsimp only)

theorem freeF_keeps {f : Fld} {s : State} :
    Keeps [.regs, .free] s (freeF f s) := by
  unfold freeF
  try dsimp -proj only
  repeat' first
    | exact (rfl : _ = true)
    | (with_reducible exact Keeps.refl _ _)
    | assumption
    | (with_reducible exact (Keeps.refl _ _).mono rfl)
    | (with_reducible apply Keeps.via setF_keeps)
    | (dsimp -proj only [keepsMk]; with_reducible apply KeepsMk.upd_free)
    | (with_reducible intro)
    | (dsimp -proj only)

theorem freeBytes_keeps {y0 : Nat} {y1 : State} :
    Keeps [.free] y1 (freeBytes y0 y1).2 := by
  fun_induction freeBytes y0 y1
  all_goals try dsimp -proj only
  repeat' first
    | exact (rfl : _ = true)
    | (with_reducible exact Keeps.refl _ _)
    | assumption
    | (with_reducible apply Keeps.trans; rotate_left; assumption)
    | (with_reducible exact (Keeps.refl _ _).mono rfl)
    | (with_reducible apply Keeps.via takeFree_keeps)
    | (with_reducible refine Keeps.of_fst (by assumption) ?_)
    | (with_reducible refine Keeps.of_snd (by assumption) ?_)
    | (with_reducible intro)
    | split
    | (dsimp only)
    | (dsimp -proj +zetaDelta only)

theorem setTok_keeps {t : Nat} {r : TokRec} {s : State} :
    Keeps [.nvTokens] s (setTok t r s) := by
  unfold setTok
  try dsimp -proj only
  repeat' first
    | exact (rfl : _ = true)
    | (with_reducible exact Keeps.refl _ _)
    | assumption
    | (with_reducible exact (Keeps.refl _ _).mono rfl)
    | (dsimp -proj only [keepsMk]; with_reducible apply KeepsMk.upd_nvTokens)
    | (with_reducible intro)
    | (dsimp -proj only)

theorem msix_keeps {vec : Nat} {s : State} :
    Keeps [.pcie, .outbox] s (msix vec s) := by
  unfold msix
  try dsimp -proj only
  repeat' first
    | exact (rfl : _ = true)
    | (with_reducible exact Keeps.refl _ _)
    | assumption
    | (with_reducible exact (Keeps.refl _ _).mono rfl)
    | (with_reducible apply Keeps.ite <;> intro _)
    | (with_reducible apply Keeps.via send_keeps)
    | (dsimp -proj only [keepsMk]; with_reducible apply KeepsMk.upd_pcie)
    | (with_reducible intro)
    | split
    | (dsimp -proj only)

theorem logAppend_keeps {e : FaultEntry} {s : State} : Keeps [.nvFaultLog, .nvLogNext] s (logAppend e s) :=
  Keeps.upd_log (List.length_take_le _ _) (Keeps.refl _ _) rfl rfl

theorem logEvent_keeps {b : Nat} {code : Nat} {cls : Nat} {inst : Nat} {aux : Nat} {s : State} :
    Keeps [.flt, .nvFaultLog, .nvLogNext] s (logEvent b code cls inst aux s) := by
  unfold logEvent
  try dsimp -proj only
  repeat' first
    | exact (rfl : _ = true)
    | (with_reducible exact Keeps.refl _ _)
    | assumption
    | (with_reducible exact (Keeps.refl _ _).mono rfl)
    | (with_reducible apply Keeps.ite <;> intro _)
    | (with_reducible apply Keeps.via logAppend_keeps)
    | (dsimp -proj only [keepsMk]; with_reducible apply KeepsMk.upd_flt)
    | (with_reducible intro)
    | split
    | (dsimp -proj only)

theorem cntPut_keeps {a : Nat} {v : Nat} {sat : Bool} {s : State} :
    Keeps [.regs] s (cntPut a v sat s) := by
  unfold cntPut
  try dsimp -proj only
  repeat' first
    | exact (rfl : _ = true)
    | (with_reducible exact Keeps.refl _ _)
    | assumption
    | (with_reducible exact (Keeps.refl _ _).mono rfl)
    | (with_reducible apply Keeps.via wr_keeps)
    | (with_reducible intro)
    | (dsimp -proj only)

theorem cntAdd_keeps {a : Nat} {n : Nat} {s : State} :
    Keeps [.regs] s (cntAdd a n s) := by
  unfold cntAdd
  try dsimp -proj only
  repeat' first
    | exact (rfl : _ = true)
    | (with_reducible exact Keeps.refl _ _)
    | assumption
    | (with_reducible exact (Keeps.refl _ _).mono rfl)
    | (with_reducible apply Keeps.via cntPut_keeps)
    | (with_reducible intro)
    | (dsimp -proj only)

theorem latchFault_keeps {b : Nat} {code : Nat} {cls : Nat} {inst : Nat} {aux : Nat} {livef : Bool} {s : State} :
    Keeps [.regs, .pcie, .outbox] s (latchFault b code cls inst aux livef s) := by
  unfold latchFault
  try dsimp -proj only
  repeat' first
    | exact (rfl : _ = true)
    | (with_reducible exact Keeps.refl _ _)
    | assumption
    | (with_reducible exact (Keeps.refl _ _).mono rfl)
    | (with_reducible apply Keeps.ite <;> intro _)
    | (with_reducible apply Keeps.via setF_keeps)
    | (with_reducible apply Keeps.via setB_keeps)
    | (with_reducible apply Keeps.via satF_keeps)
    | (with_reducible apply Keeps.via send_keeps)
    | (with_reducible apply Keeps.via msix_keeps)
    | (with_reducible apply Keeps.via cntAdd_keeps)
    | (with_reducible intro)
    | split
    | (dsimp -proj only)

theorem raiseCore_keeps {b : Nat} {code : Nat} {cls : Nat} {inst : Nat} {aux : Nat} {livef : Bool} {s : State} :
    Keeps [.regs, .flt, .pcie, .outbox, .nvFaultLog, .nvLogNext] s (raiseCore b code cls inst aux livef s) := by
  unfold raiseCore
  try dsimp -proj only
  repeat' first
    | exact (rfl : _ = true)
    | (with_reducible exact Keeps.refl _ _)
    | assumption
    | (with_reducible exact (Keeps.refl _ _).mono rfl)
    | (with_reducible apply Keeps.ite <;> intro _)
    | (with_reducible apply Keeps.via logEvent_keeps)
    | (with_reducible apply Keeps.via latchFault_keeps)
    | (with_reducible intro)
    | split
    | (dsimp -proj only)

theorem count_keeps {a : Nat} {n : Nat} {s : State} :
    Keeps [.regs, .flt, .pcie, .outbox, .nvFaultLog, .nvLogNext] s (count a n s) := by
  unfold count
  try dsimp -proj only
  repeat' first
    | exact (rfl : _ = true)
    | (with_reducible exact Keeps.refl _ _)
    | assumption
    | (with_reducible exact (Keeps.refl _ _).mono rfl)
    | (with_reducible apply Keeps.ite <;> intro _)
    | (with_reducible apply Keeps.via cntAdd_keeps)
    | (with_reducible apply Keeps.via raiseCore_keeps)
    | (with_reducible intro)
    | split
    | (dsimp -proj only)

theorem health_keeps {i : Nat} {n : Nat} {s : State} :
    Keeps [.tier] s (health i n s) := by
  unfold health
  try dsimp -proj only
  repeat' first
    | exact (rfl : _ = true)
    | (with_reducible exact Keeps.refl _ _)
    | assumption
    | (with_reducible exact (Keeps.refl _ _).mono rfl)
    | (dsimp -proj only [keepsMk]; with_reducible apply KeepsMk.upd_tier)
    | (with_reducible intro)
    | (dsimp -proj only)

theorem retract_keeps {a : Nat} {s : State} :
    Keeps [.regs] s (retract a s) := by
  unfold retract
  try dsimp -proj only
  repeat' first
    | exact (rfl : _ = true)
    | (with_reducible exact Keeps.refl _ _)
    | assumption
    | (with_reducible exact (Keeps.refl _ _).mono rfl)
    | (with_reducible apply Keeps.ite <;> intro _)
    | (with_reducible apply Keeps.via setF_keeps)
    | (with_reducible intro)
    | split
    | (dsimp -proj only)

theorem hiZ_keeps {a : Nat} {s : State} :
    Keeps [.regs] s (hiZ a s) := by
  unfold hiZ
  try dsimp -proj only
  repeat' first
    | exact (rfl : _ = true)
    | (with_reducible exact Keeps.refl _ _)
    | assumption
    | (with_reducible exact (Keeps.refl _ _).mono rfl)
    | (with_reducible apply Keeps.ite <;> intro _)
    | (with_reducible apply Keeps.via setF_keeps)
    | (with_reducible intro)
    | split
    | (dsimp -proj only)

theorem coastSpindle_keeps {s : State} :
    Keeps [.regs] s (coastSpindle s) := by
  unfold coastSpindle
  try dsimp -proj only
  repeat' first
    | exact (rfl : _ = true)
    | (with_reducible exact Keeps.refl _ _)
    | assumption
    | (with_reducible exact (Keeps.refl _ _).mono rfl)
    | (with_reducible apply Keeps.ite <;> intro _)
    | (with_reducible apply Keeps.via setF_keeps)
    | (with_reducible intro)
    | split
    | (dsimp -proj only)

theorem coastFan_keeps {f : Nat} {s : State} :
    Keeps [.regs, .mot] s (coastFan f s) := by
  unfold coastFan
  try dsimp -proj only
  repeat' first
    | (with_reducible rfl)
    | exact (rfl : _ = true)
    | (with_reducible exact Keeps.refl _ _)
    | assumption
    | (with_reducible exact (Keeps.refl _ _).mono rfl)
    | (with_reducible apply Keeps.ite <;> intro _)
    | (with_reducible apply Keeps.via setF_keeps)
    | (dsimp -proj only [keepsMk]; with_reducible apply KeepsMk.upd_mot)
    | (with_reducible exact units_maSwap (setAt_length _ _ _))
    | (with_reducible exact units_maSwap (modAt_length _ _ _))
    | (with_reducible exact units_vcm (modAt_length _ _ _))
    | (with_reducible exact units_fan (modAt_length _ _ _))
    | (with_reducible exact units_rest)
    | (with_reducible exact units_reset)
    | (with_reducible intro)
    | split
    | (simp [modAt_length]; done)
    | (simp [setAt_length]; done)
    | (simp only [List.length_mapIdx, List.length_map]; done)
    | (simp [MotSt.units, modAt_length, setAt_length]; done)
    | (dsimp -proj only)

theorem pllApply_keeps {i : Nat} {s : State} :
    Keeps [.regs, .clk] s (pllApply i s) := by
  unfold pllApply
  try dsimp -proj only
  repeat' first
    | (with_reducible rfl)
    | exact (rfl : _ = true)
    | (with_reducible exact Keeps.refl _ _)
    | assumption
    | (with_reducible exact (Keeps.refl _ _).mono rfl)
    | (with_reducible apply Keeps.ite <;> intro _)
    | (with_reducible apply Keeps.via setF_keeps)
    | (dsimp -proj only [keepsMk]; with_reducible apply KeepsMk.upd_clk)
    | (with_reducible intro)
    | split
    | (simp [modAt_length]; done)
    | (simp [setAt_length]; done)
    | (simp only [List.length_mapIdx, List.length_map]; done)
    | (simp [MotSt.units, modAt_length, setAt_length]; done)
    | (dsimp -proj only)

theorem pllGates_keeps {a : Nat} {s : State} :
    Keeps [.regs, .clk] s (pllGates a s) := by
  unfold pllGates
  try dsimp -proj only
  repeat' first
    | exact (rfl : _ = true)
    | (with_reducible exact Keeps.refl _ _)
    | assumption
    | (with_reducible exact (Keeps.refl _ _).mono rfl)
    | (with_reducible apply Keeps.ite <;> intro _)
    | (with_reducible apply Keeps.via pllApply_keeps)
    | (with_reducible intro)
    | split
    | (dsimp -proj only)

theorem gatesOffAct_keeps {a : Nat} {s : State} :
    Keeps [.regs, .pins, .clk] s (gatesOffAct a s) := by
  unfold gatesOffAct
  try dsimp -proj only
  repeat' first
    | exact (rfl : _ = true)
    | (with_reducible exact Keeps.refl _ _)
    | assumption
    | (with_reducible exact (Keeps.refl _ _).mono rfl)
    | (with_reducible apply Keeps.ite <;> intro _)
    | (with_reducible apply Keeps.via pllGates_keeps)
    | (dsimp -proj only [keepsMk]; with_reducible apply KeepsMk.upd_pins)
    | (with_reducible intro)
    | split
    | (dsimp -proj only)

theorem updBand_keeps {a : Nat} {f : Band → Band} {s : State} :
    Keeps [.fs] s (updBand a f s) := by
  unfold updBand
  try dsimp -proj only
  repeat' first
    | (with_reducible rfl)
    | exact (rfl : _ = true)
    | (with_reducible exact Keeps.refl _ _)
    | assumption
    | (with_reducible exact (Keeps.refl _ _).mono rfl)
    | (dsimp -proj only [keepsMk]; with_reducible apply KeepsMk.upd_fs)
    | (with_reducible intro)
    | (simp [modAt_length]; done)
    | (simp [setAt_length]; done)
    | (simp only [List.length_mapIdx, List.length_map]; done)
    | (simp [MotSt.units, modAt_length, setAt_length]; done)
    | (dsimp -proj only)

theorem stopHead_keeps {h : Nat} {s : State} :
    Keeps [.regs, .flt, .pins, .pcie, .fs, .outbox, .nvFaultLog, .nvLogNext] s (stopHead h s) := by
  unfold stopHead
  try dsimp -proj only
  repeat' first
    | exact (rfl : _ = true)
    | (with_reducible exact Keeps.refl _ _)
    | assumption
    | (with_reducible exact (Keeps.refl _ _).mono rfl)
    | (with_reducible apply Keeps.ite <;> intro _)
    | (with_reducible apply Keeps.via setF_keeps)
    | (with_reducible apply Keeps.via raiseCore_keeps)
    | (with_reducible apply Keeps.via updBand_keeps)
    | (dsimp -proj only [keepsMk]; with_reducible apply KeepsMk.upd_pins)
    | (with_reducible intro)
    | split
    | (dsimp -proj only)

theorem stopAct_keeps {a : Nat} {s : State} :
    Keeps [.regs, .flt, .pins, .pcie, .clk, .fs, .outbox, .nvFaultLog, .nvLogNext] s (stopAct a s) := by
  unfold stopAct
  try dsimp -proj only
  repeat' first
    | (with_reducible apply Keeps.foldl)
    | exact (rfl : _ = true)
    | (with_reducible exact Keeps.refl _ _)
    | assumption
    | (with_reducible exact (Keeps.refl _ _).mono rfl)
    | (with_reducible apply Keeps.via gatesOffAct_keeps)
    | (with_reducible apply Keeps.via stopHead_keeps)
    | (with_reducible intro)
    | (dsimp -proj only)

theorem stopAll_keeps {s : State} :
    Keeps [.regs, .flt, .pins, .pcie, .clk, .fs, .outbox, .nvFaultLog, .nvLogNext] s (stopAll s) := by
  unfold stopAll
  try dsimp -proj only
  repeat' first
    | (with_reducible apply Keeps.forN)
    | exact (rfl : _ = true)
    | (with_reducible exact Keeps.refl _ _)
    | assumption
    | (with_reducible exact (Keeps.refl _ _).mono rfl)
    | (with_reducible apply Keeps.via stopAct_keeps)
    | (with_reducible intro)
    | (dsimp -proj only)

theorem flashHiZ_keeps {s : State} :
    Keeps [.pins] s (flashHiZ s) := by
  unfold flashHiZ
  try dsimp -proj only
  repeat' first
    | exact (rfl : _ = true)
    | (with_reducible exact Keeps.refl _ _)
    | assumption
    | (with_reducible exact (Keeps.refl _ _).mono rfl)
    | (dsimp -proj only [keepsMk]; with_reducible apply KeepsMk.upd_pins)
    | (with_reducible intro)
    | (dsimp -proj only)

theorem vatSeal_keeps {s : State} :
    Keeps [.journal] s (vatSeal s) := by
  unfold vatSeal
  try dsimp -proj only
  repeat' first
    | exact (rfl : _ = true)
    | (with_reducible exact Keeps.refl _ _)
    | assumption
    | (with_reducible exact (Keeps.refl _ _).mono rfl)
    | (with_reducible apply Keeps.ite <;> intro _)
    | (dsimp -proj only [keepsMk]; with_reducible apply KeepsMk.upd_journal)
    | (with_reducible intro)
    | split
    | (dsimp -proj only)

theorem mbxSetResult_keeps {m : Nat} {r : MbxResult} {s : State} :
    Keeps [.mbx] s (mbxSetResult m r s) := by
  unfold mbxSetResult
  try dsimp -proj only
  repeat' first
    | (with_reducible rfl)
    | exact (rfl : _ = true)
    | (with_reducible exact Keeps.refl _ _)
    | assumption
    | (with_reducible exact (Keeps.refl _ _).mono rfl)
    | (dsimp -proj only [keepsMk]; with_reducible apply KeepsMk.upd_mbx)
    | (with_reducible intro)
    | (simp [modAt_length]; done)
    | (simp [setAt_length]; done)
    | (simp only [List.length_mapIdx, List.length_map]; done)
    | (simp [MotSt.units, modAt_length, setAt_length]; done)
    | (dsimp -proj only)

end Sys2Proof.Machine
end

