-- ==== Sys2Proof/Laws/KeepMbxOps.lean ====
section
/-! SUPPORT. What each operation of Machine/MbxOps.lean keeps (`Keeps`). -/

set_option Elab.async false

namespace Sys2Proof.Machine

theorem mbxRow_keeps {wp : List Part} {m : Nat} {op : Nat} {sel : MbxCmd → Bool} {f : MbxCmd → State → State × Option MbxResult} {s : State} (h_f : ∀ q0 q1, Keeps wp q1 (f q0 q1).1) (hwp : within wp [.mbx] = true) :
    Keeps wp s (mbxRow m op sel f s) := by
  unfold mbxRow
  try dsimp -proj only
  repeat' first
    | (with_reducible rfl)
    | exact (rfl : _ = true)
    | (with_reducible exact Keeps.refl _ _)
    | assumption
    | exact within_contains hwp rfl
    | exact within_trans hwp rfl
    | (with_reducible exact (Keeps.refl _ _).mono rfl)
    | (with_reducible apply Keeps.ite <;> intro _)
    | (with_reducible apply Keeps.trans ?_ (h_f _ _))
    | (dsimp -proj only [keepsMk]; with_reducible apply KeepsMk.upd_mbx)
    | (with_reducible intro)
    | split
    | (simp [modAt_length]; done)
    | (simp [setAt_length]; done)
    | (simp only [List.length_mapIdx, List.length_map]; done)
    | (simp [MotSt.units, modAt_length, setAt_length]; done)
    | (dsimp -proj only)

theorem answer_keeps {st : Nat} {s : State} :
    Keeps [] s (answer st s).1 := by
  unfold answer
  try dsimp -proj only
  repeat' first
    | exact (rfl : _ = true)
    | (with_reducible exact Keeps.refl _ _)
    | assumption
    | (with_reducible exact (Keeps.refl _ _).mono rfl)
    | (with_reducible intro)
    | (dsimp only)

theorem answerData_keeps {l : List Byte} {s : State} :
    Keeps [] s (answerData l s).1 := by
  unfold answerData
  try dsimp -proj only
  repeat' first
    | exact (rfl : _ = true)
    | (with_reducible exact Keeps.refl _ _)
    | assumption
    | (with_reducible exact (Keeps.refl _ _).mono rfl)
    | (with_reducible intro)
    | (dsimp only)

theorem mbxFinish_keeps {p : MbxCmd → Bool} {r : MbxResult} {s : State} :
    Keeps [.mbx] s (mbxFinish p r s) := by
  unfold mbxFinish
  try dsimp -proj only
  repeat' first
    | (with_reducible apply Keeps.foldl)
    | exact (rfl : _ = true)
    | (with_reducible exact Keeps.refl _ _)
    | assumption
    | (with_reducible exact (Keeps.refl _ _).mono rfl)
    | (with_reducible apply Keeps.via mbxSetResult_keeps)
    | (with_reducible intro)
    | (dsimp -proj only)

theorem finishControl_keeps {status : Nat} {s : State} :
    Keeps [.mbx] s (finishControl status s) := by
  unfold finishControl
  try dsimp -proj only
  repeat' first
    | (with_reducible apply Keeps.foldl)
    | exact (rfl : _ = true)
    | (with_reducible exact Keeps.refl _ _)
    | assumption
    | (with_reducible exact (Keeps.refl _ _).mono rfl)
    | (with_reducible apply Keeps.ite <;> intro _)
    | (with_reducible apply Keeps.via mbxSetResult_keeps)
    | (with_reducible intro)
    | split
    | (dsimp -proj only)

end Sys2Proof.Machine
end

