-- ==== Sys2Proof/Laws/KeepFaultOps.lean ====
section
/-! SUPPORT. What each operation of Machine/FaultOps.lean keeps (`Keeps`). -/

set_option Elab.async false

namespace Sys2Proof.Machine

theorem dropGrants_keeps {p : Grant → Bool} {s : State} :
    Keeps [.grants] s (dropGrants p s) := by
  unfold dropGrants
  try dsimp -proj only
  repeat' first
    | exact (rfl : _ = true)
    | (with_reducible exact Keeps.refl _ _)
    | assumption
    | (with_reducible exact (Keeps.refl _ _).mono rfl)
    | (dsimp -proj only [keepsMk]; with_reducible apply KeepsMk.upd_grants)
    | (with_reducible intro)
    | (dsimp -proj only)

theorem vcmSafe_keeps {fenceForm : Bool} {s : State} :
    Keeps [.regs] s (vcmSafe fenceForm s) := by
  unfold vcmSafe
  try dsimp -proj only
  repeat' first
    | (with_reducible apply Keeps.forN)
    | exact (rfl : _ = true)
    | (with_reducible exact Keeps.refl _ _)
    | assumption
    | (with_reducible exact (Keeps.refl _ _).mono rfl)
    | (with_reducible apply Keeps.ite <;> intro _)
    | (with_reducible apply Keeps.via retract_keeps)
    | (with_reducible apply Keeps.via hiZ_keeps)
    | (with_reducible intro)
    | split
    | (dsimp -proj only)

theorem safeOutputs_keeps {fenceForm : Bool} {s : State} :
    Keeps [.regs, .flt, .pins, .pcie, .clk, .fs, .mot, .outbox, .nvFaultLog, .nvLogNext] s (safeOutputs fenceForm s) := by
  unfold safeOutputs
  try dsimp -proj only
  repeat' first
    | (with_reducible apply Keeps.forN)
    | exact (rfl : _ = true)
    | (with_reducible exact Keeps.refl _ _)
    | assumption
    | (with_reducible exact (Keeps.refl _ _).mono rfl)
    | (with_reducible apply Keeps.via coastSpindle_keeps)
    | (with_reducible apply Keeps.via coastFan_keeps)
    | (with_reducible apply Keeps.via stopAll_keeps)
    | (with_reducible apply Keeps.via flashHiZ_keeps)
    | (with_reducible apply Keeps.via vcmSafe_keeps)
    | (dsimp -proj only [keepsMk]; with_reducible apply KeepsMk.upd_pins)
    | (with_reducible intro)
    | (dsimp -proj only)

theorem logReaction_keeps {cause : Nat} {s : State} :
    Keeps [.flt, .nvFaultLog, .nvLogNext] s (logReaction cause s) := by
  unfold logReaction
  try dsimp -proj only
  repeat' first
    | exact (rfl : _ = true)
    | (with_reducible exact Keeps.refl _ _)
    | assumption
    | (with_reducible exact (Keeps.refl _ _).mono rfl)
    | (with_reducible apply Keeps.ite <;> intro _)
    | (with_reducible apply Keeps.via logEvent_keeps)
    | (with_reducible intro)
    | split
    | (dsimp -proj only)

theorem safeRecord_keeps {cause : Nat} {code : Nat} {fenceForm : Bool} {s : State} :
    Keeps [.regs] s (safeRecord cause code fenceForm s) := by
  unfold safeRecord
  try dsimp -proj only
  repeat' first
    | exact (rfl : _ = true)
    | (with_reducible exact Keeps.refl _ _)
    | assumption
    | (with_reducible exact (Keeps.refl _ _).mono rfl)
    | (with_reducible apply Keeps.ite <;> intro _)
    | (with_reducible apply Keeps.via setF_keeps)
    | (with_reducible apply Keeps.via setB_keeps)
    | (with_reducible intro)
    | split
    | (dsimp -proj only)

theorem forcedSafe_keeps {cause : Nat} {code : Nat} {s : State} :
    Keeps [.regs, .pwr, .bring, .flt, .mbx, .grants, .pins, .pcie, .journal, .clk, .fs, .mot, .outbox, .nvFaultLog, .nvLogNext] s (forcedSafe cause code s) := by
  unfold forcedSafe
  try dsimp -proj only
  repeat' first
    | exact (rfl : _ = true)
    | (with_reducible exact Keeps.refl _ _)
    | assumption
    | (with_reducible exact (Keeps.refl _ _).mono rfl)
    | (with_reducible apply Keeps.ite <;> intro _)
    | (with_reducible apply Keeps.via setF_keeps)
    | (with_reducible apply Keeps.via setB_keeps)
    | (with_reducible apply Keeps.via vatSeal_keeps)
    | (with_reducible apply Keeps.via finishControl_keeps)
    | (with_reducible apply Keeps.via dropGrants_keeps)
    | (with_reducible apply Keeps.via safeOutputs_keeps)
    | (with_reducible apply Keeps.via logReaction_keeps)
    | (with_reducible apply Keeps.via safeRecord_keeps)
    | (dsimp -proj only [keepsMk]; with_reducible apply KeepsMk.upd_pwr_bring)
    | (with_reducible intro)
    | split
    | (dsimp -proj only)

theorem escalate_keeps {code : Nat} {inst : Nat} {s : State} :
    Keeps [.regs, .flt] s (escalate code inst s) := by
  unfold escalate
  try dsimp -proj only
  repeat' first
    | exact (rfl : _ = true)
    | (with_reducible exact Keeps.refl _ _)
    | assumption
    | (with_reducible exact (Keeps.refl _ _).mono rfl)
    | (with_reducible apply Keeps.ite <;> intro _)
    | (with_reducible apply Keeps.via setF_keeps)
    | (with_reducible apply Keeps.via retract_keeps)
    | (dsimp -proj only [keepsMk]; with_reducible apply KeepsMk.upd_flt)
    | (with_reducible intro)
    | split
    | (dsimp -proj only)

theorem countRepeat_keeps {b : Nat} {code : Nat} {inst : Nat} {s : State} :
    Keeps [.regs, .flt, .pcie, .outbox, .nvFaultLog, .nvLogNext] s (countRepeat b code inst s) := by
  unfold countRepeat
  try dsimp -proj only
  repeat' first
    | exact (rfl : _ = true)
    | (with_reducible exact Keeps.refl _ _)
    | assumption
    | (with_reducible exact (Keeps.refl _ _).mono rfl)
    | (with_reducible apply Keeps.ite <;> intro _)
    | (with_reducible apply Keeps.via raiseCore_keeps)
    | (with_reducible apply Keeps.via escalate_keeps)
    | (dsimp -proj only [keepsMk]; with_reducible apply KeepsMk.upd_flt)
    | (with_reducible refine Keeps.of_fst (by assumption) ?_)
    | (with_reducible refine Keeps.of_snd (by assumption) ?_)
    | (with_reducible intro)
    | split
    | (dsimp -proj only)

theorem liftEscalation_keeps {code : Nat} {inst : Nat} {s : State} :
    Keeps [.flt] s (liftEscalation code inst s) := by
  unfold liftEscalation
  try dsimp -proj only
  repeat' first
    | exact (rfl : _ = true)
    | (with_reducible exact Keeps.refl _ _)
    | assumption
    | (with_reducible exact (Keeps.refl _ _).mono rfl)
    | (dsimp -proj only [keepsMk]; with_reducible apply KeepsMk.upd_flt)
    | (with_reducible intro)
    | (dsimp -proj only)

theorem raiseLive_keeps {b : Nat} {code : Nat} {cls : Nat} {inst : Nat} {aux : Nat} {livef : Bool} {s : State} :
    Keeps [.regs, .pwr, .bring, .flt, .mbx, .grants, .pins, .pcie, .journal, .clk, .fs, .mot, .outbox, .nvFaultLog, .nvLogNext] s (raiseLive b code cls inst aux livef s) := by
  unfold raiseLive
  try dsimp -proj only
  repeat' first
    | exact (rfl : _ = true)
    | (with_reducible exact Keeps.refl _ _)
    | assumption
    | (with_reducible exact (Keeps.refl _ _).mono rfl)
    | (with_reducible apply Keeps.ite <;> intro _)
    | (with_reducible apply Keeps.via raiseCore_keeps)
    | (with_reducible apply Keeps.via forcedSafe_keeps)
    | (with_reducible apply Keeps.via countRepeat_keeps)
    | (with_reducible intro)
    | split
    | (dsimp -proj only)

theorem raise_keeps {b : Nat} {code : Nat} {cls : Nat} {inst : Nat} {aux : Nat} {s : State} :
    Keeps [.regs, .pwr, .bring, .flt, .mbx, .grants, .pins, .pcie, .journal, .clk, .fs, .mot, .outbox, .nvFaultLog, .nvLogNext] s (raise b code cls inst aux s) := by
  unfold raise
  try dsimp -proj only
  repeat' first
    | exact (rfl : _ = true)
    | (with_reducible exact Keeps.refl _ _)
    | assumption
    | (with_reducible exact (Keeps.refl _ _).mono rfl)
    | (with_reducible apply Keeps.via raiseLive_keeps)
    | (with_reducible intro)
    | (dsimp -proj only)

theorem clearLive_keeps {b : Nat} {code : Nat} {s : State} :
    Keeps [.regs] s (clearLive b code s) := by
  unfold clearLive
  try dsimp -proj only
  repeat' first
    | exact (rfl : _ = true)
    | (with_reducible exact Keeps.refl _ _)
    | assumption
    | (with_reducible exact (Keeps.refl _ _).mono rfl)
    | (with_reducible apply Keeps.ite <;> intro _)
    | (with_reducible apply Keeps.via setF_keeps)
    | (with_reducible intro)
    | split
    | (dsimp -proj only)

theorem clearLatch_keeps {b : Nat} {s : State} :
    Keeps [.regs] s (clearLatch b s) := by
  unfold clearLatch
  try dsimp -proj only
  repeat' first
    | exact (rfl : _ = true)
    | (with_reducible exact Keeps.refl _ _)
    | assumption
    | (with_reducible exact (Keeps.refl _ _).mono rfl)
    | (with_reducible apply Keeps.via wr_keeps)
    | (with_reducible intro)
    | (dsimp -proj only)

theorem logViolation_keeps {b : Nat} {addr : Nat} {kind : Nat} {src : Nat} {isWr : Bool} {s : State} :
    Keeps [.regs] s (logViolation b addr kind src isWr s) := by
  unfold logViolation
  try dsimp -proj only
  repeat' first
    | exact (rfl : _ = true)
    | (with_reducible exact Keeps.refl _ _)
    | assumption
    | (with_reducible exact (Keeps.refl _ _).mono rfl)
    | (with_reducible apply Keeps.ite <;> intro _)
    | (with_reducible apply Keeps.via wr_keeps)
    | (with_reducible apply Keeps.via satF_keeps)
    | (with_reducible intro)
    | split
    | (dsimp -proj only)

theorem logDrain_keeps {addr : Nat} {d : Nat} {s : State} :
    Keeps [.regs] s (logDrain addr d s) := by
  unfold logDrain
  try dsimp -proj only
  repeat' first
    | exact (rfl : _ = true)
    | (with_reducible exact Keeps.refl _ _)
    | assumption
    | (with_reducible exact (Keeps.refl _ _).mono rfl)
    | (with_reducible apply Keeps.ite <;> intro _)
    | (with_reducible apply Keeps.via wr_keeps)
    | (with_reducible apply Keeps.via setF_keeps)
    | (with_reducible apply Keeps.via satF_keeps)
    | (with_reducible intro)
    | split
    | (dsimp -proj only)

theorem nalEmit_keeps {cls : Nat} {kind : Nat} {args : List Nat} {s : State} :
    Keeps [.pair, .outbox] s (nalEmit cls kind args s) := by
  unfold nalEmit
  try dsimp -proj only
  repeat' first
    | exact (rfl : _ = true)
    | (with_reducible exact Keeps.refl _ _)
    | assumption
    | (with_reducible exact (Keeps.refl _ _).mono rfl)
    | (with_reducible apply Keeps.via send_keeps)
    | (dsimp -proj only [keepsMk]; with_reducible apply KeepsMk.upd_pair)
    | (with_reducible intro)
    | (dsimp -proj only)

theorem nalSend_keeps {cls : Nat} {kind : Nat} {args : List Nat} {s : State} :
    Keeps [.pair, .outbox] s (nalSend cls kind args s) := by
  unfold nalSend
  try dsimp -proj only
  repeat' first
    | exact (rfl : _ = true)
    | (with_reducible exact Keeps.refl _ _)
    | assumption
    | (with_reducible exact (Keeps.refl _ _).mono rfl)
    | (with_reducible apply Keeps.ite <;> intro _)
    | (with_reducible apply Keeps.via nalEmit_keeps)
    | (dsimp -proj only [keepsMk]; with_reducible apply KeepsMk.upd_pair)
    | (with_reducible intro)
    | split
    | (dsimp -proj only)

theorem updPair_keeps {f : PairSt → PairSt} {s : State} :
    Keeps [.pair] s (updPair f s) := by
  unfold updPair
  try dsimp -proj only
  repeat' first
    | exact (rfl : _ = true)
    | (with_reducible exact Keeps.refl _ _)
    | assumption
    | (with_reducible exact (Keeps.refl _ _).mono rfl)
    | (dsimp -proj only [keepsMk]; with_reducible apply KeepsMk.upd_pair)
    | (with_reducible intro)
    | (dsimp -proj only)

theorem domUp1_keeps {d : Nat} {s : State} :
    Keeps [.regs] s (domUp1 d s) := by
  unfold domUp1
  try dsimp -proj only
  repeat' first
    | exact (rfl : _ = true)
    | (with_reducible exact Keeps.refl _ _)
    | assumption
    | (with_reducible exact (Keeps.refl _ _).mono rfl)
    | (with_reducible apply Keeps.ite <;> intro _)
    | (with_reducible apply Keeps.via setF_keeps)
    | (with_reducible intro)
    | split
    | (dsimp -proj only)

theorem domUp_keeps {d : Nat} {s : State} :
    Keeps [.regs] s (domUp d s) := by
  unfold domUp
  try dsimp -proj only
  repeat' first
    | exact (rfl : _ = true)
    | (with_reducible exact Keeps.refl _ _)
    | assumption
    | (with_reducible exact (Keeps.refl _ _).mono rfl)
    | (with_reducible apply Keeps.ite <;> intro _)
    | (with_reducible apply Keeps.via domUp1_keeps)
    | (with_reducible intro)
    | split
    | (dsimp -proj only)

end Sys2Proof.Machine
end

