-- ==== Sys2Proof/Laws/KeepBus.lean ====
section
/-! SUPPORT. What each operation of Machine/Bus.lean keeps (`Keeps`). -/

set_option Elab.async false

namespace Sys2Proof.Machine

theorem busCheck_keeps {p : Path} {wf : Bool} {a : Nat} {isWr : Bool} {w : Word} {s : State} :
    Keeps [.regs] s (busCheck p wf a isWr w s).2 := by
  unfold busCheck
  try dsimp -proj only
  repeat' first
    | exact (rfl : _ = true)
    | (with_reducible exact Keeps.refl _ _)
    | assumption
    | (with_reducible exact (Keeps.refl _ _).mono rfl)
    | (with_reducible apply Keeps.ite <;> intro _)
    | (with_reducible apply Keeps.via logViolation_keeps)
    | (with_reducible apply Keeps.via logDrain_keeps)
    | (with_reducible refine Keeps.of_fst (by assumption) ?_)
    | (with_reducible refine Keeps.of_snd (by assumption) ?_)
    | (with_reducible intro)
    | split
    | (dsimp only)

theorem busAnswer_keeps {p : Path} {a : Nat} {st : Nat} {data : Nat} {s : State} :
    Keeps [.outbox] s (busAnswer p a st data s) := by
  unfold busAnswer
  try dsimp -proj only
  repeat' first
    | exact (rfl : _ = true)
    | (with_reducible exact Keeps.refl _ _)
    | assumption
    | (with_reducible exact (Keeps.refl _ _).mono rfl)
    | (with_reducible apply Keeps.ite <;> intro _)
    | (with_reducible apply Keeps.via send_keeps)
    | (with_reducible refine Keeps.of_fst (by assumption) ?_)
    | (with_reducible refine Keeps.of_snd (by assumption) ?_)
    | (with_reducible intro)
    | split
    | (dsimp -proj only)

theorem readRefused_keeps {p : Path} {a : Nat} {st : Nat} {s : State} :
    Keeps [.outbox] s (readRefused p a st s) := by
  unfold readRefused
  try dsimp -proj only
  repeat' first
    | exact (rfl : _ = true)
    | (with_reducible exact Keeps.refl _ _)
    | assumption
    | (with_reducible exact (Keeps.refl _ _).mono rfl)
    | (with_reducible apply Keeps.ite <;> intro _)
    | (with_reducible apply Keeps.via send_keeps)
    | (with_reducible refine Keeps.of_fst (by assumption) ?_)
    | (with_reducible refine Keeps.of_snd (by assumption) ?_)
    | (with_reducible intro)
    | split
    | (dsimp -proj only)

theorem busAct_keeps {wp : List Part} {p : Path} {a : Nat} {w : Word} {act : State → State × Nat} {s : State} (h_act : ∀ q0, Keeps wp q0 (act q0).1) (hwp : within wp [.regs, .clk, .outbox] = true) :
    Keeps wp s (busAct p a w act s) := by
  unfold busAct
  try dsimp -proj only
  repeat' first
    | (with_reducible rfl)
    | exact (rfl : _ = true)
    | (with_reducible exact Keeps.refl _ _)
    | assumption
    | exact within_contains hwp rfl
    | exact within_trans hwp rfl
    | (with_reducible exact (Keeps.refl _ _).mono rfl)
    | (with_reducible apply Keeps.via busCheck_keeps)
    | (with_reducible apply Keeps.via busAnswer_keeps)
    | (with_reducible apply Keeps.trans ?_ (h_act _))
    | (dsimp -proj only [keepsMk]; with_reducible apply KeepsMk.upd_clk)
    | (with_reducible refine Keeps.of_fst (by assumption) ?_)
    | (with_reducible refine Keeps.of_snd (by assumption) ?_)
    | (with_reducible intro)
    | split
    | (simp [modAt_length]; done)
    | (simp [setAt_length]; done)
    | (simp only [List.length_mapIdx, List.length_map]; done)
    | (simp [MotSt.units, modAt_length, setAt_length]; done)
    | (dsimp -proj only)

theorem busGet_keeps {wp : List Part} {p : Path} {a : Nat} {get : State → State × Word} {s : State} (h_get : ∀ q0, Keeps wp q0 (get q0).1) (hwp : within wp [.regs, .clk, .outbox] = true) :
    Keeps wp s (busGet p a get s) := by
  unfold busGet
  try dsimp -proj only
  repeat' first
    | (with_reducible rfl)
    | exact (rfl : _ = true)
    | (with_reducible exact Keeps.refl _ _)
    | assumption
    | exact within_contains hwp rfl
    | exact within_trans hwp rfl
    | (with_reducible exact (Keeps.refl _ _).mono rfl)
    | (with_reducible apply Keeps.via busCheck_keeps)
    | (with_reducible apply Keeps.via busAnswer_keeps)
    | (with_reducible apply Keeps.via readRefused_keeps)
    | (with_reducible apply Keeps.trans ?_ (h_get _))
    | (dsimp -proj only [keepsMk]; with_reducible apply KeepsMk.upd_clk)
    | (with_reducible refine Keeps.of_fst (by assumption) ?_)
    | (with_reducible refine Keeps.of_snd (by assumption) ?_)
    | (with_reducible intro)
    | split
    | (simp [modAt_length]; done)
    | (simp [setAt_length]; done)
    | (simp only [List.length_mapIdx, List.length_map]; done)
    | (simp [MotSt.units, modAt_length, setAt_length]; done)
    | (dsimp -proj only)

theorem snapHi_keeps {p : Path} {hi : Nat} {v : Word} {s : State} :
    Keeps [.snaps] s (snapHi p hi v s) := by
  unfold snapHi
  try dsimp -proj only
  repeat' first
    | exact (rfl : _ = true)
    | (with_reducible exact Keeps.refl _ _)
    | assumption
    | (with_reducible exact (Keeps.refl _ _).mono rfl)
    | (dsimp -proj only [keepsMk]; with_reducible apply KeepsMk.upd_snaps)
    | (with_reducible intro)
    | (dsimp -proj only)

theorem acc_keeps {wp : List Part} {f : State → State} {s : State} (h_f : ∀ q0, Keeps wp q0 (f q0)) (hwp : within wp [] = true) :
    Keeps wp s (acc f s).1 := by
  unfold acc
  try dsimp -proj only
  repeat' first
    | exact (rfl : _ = true)
    | (with_reducible exact Keeps.refl _ _)
    | assumption
    | exact within_contains hwp rfl
    | exact within_trans hwp rfl
    | (with_reducible exact (Keeps.refl _ _).mono rfl)
    | (with_reducible apply Keeps.trans ?_ (h_f _))
    | (with_reducible intro)
    | (dsimp only)

end Sys2Proof.Machine
end

