-- ==== Sys2Proof/Laws/KeepMemOps.lean ====
section
/-! SUPPORT. What each operation of Machine/MemOps.lean keeps (`Keeps`). -/

set_option Elab.async false

namespace Sys2Proof.Machine

theorem markBad_keeps {m : Nat} {a : Nat} {s : State} :
    Keeps [.bad] s (markBad m a s) := by
  unfold markBad
  try dsimp -proj only
  repeat' first
    | exact (rfl : _ = true)
    | (with_reducible exact Keeps.refl _ _)
    | assumption
    | (with_reducible exact (Keeps.refl _ _).mono rfl)
    | (with_reducible apply Keeps.ite <;> intro _)
    | (dsimp -proj only [keepsMk]; with_reducible apply KeepsMk.upd_bad)
    | (with_reducible intro)
    | split
    | (dsimp -proj only)

theorem clearBad_keeps {m : Nat} {a : Nat} {s : State} :
    Keeps [.bad] s (clearBad m a s) := by
  unfold clearBad
  try dsimp -proj only
  repeat' first
    | exact (rfl : _ = true)
    | (with_reducible exact Keeps.refl _ _)
    | assumption
    | (with_reducible exact (Keeps.refl _ _).mono rfl)
    | (dsimp -proj only [keepsMk]; with_reducible apply KeepsMk.upd_bad)
    | (with_reducible intro)
    | (dsimp -proj only)

theorem clearBadAll_keeps {m : Nat} {s : State} :
    Keeps [.bad] s (clearBadAll m s) := by
  unfold clearBadAll
  try dsimp -proj only
  repeat' first
    | exact (rfl : _ = true)
    | (with_reducible exact Keeps.refl _ _)
    | assumption
    | (with_reducible exact (Keeps.refl _ _).mono rfl)
    | (dsimp -proj only [keepsMk]; with_reducible apply KeepsMk.upd_bad)
    | (with_reducible intro)
    | (dsimp -proj only)

theorem logReport_keeps {m : Nat} {i : Nat} {a : Nat} {s : State} :
    Keeps [.regs, .pwr, .bring, .flt, .mbx, .grants, .pins, .pcie, .journal, .clk, .fs, .mot, .outbox, .nvFaultLog, .nvLogNext] s (logReport m i a s) := by
  unfold logReport
  try dsimp -proj only
  repeat' first
    | exact (rfl : _ = true)
    | (with_reducible exact Keeps.refl _ _)
    | assumption
    | (with_reducible exact (Keeps.refl _ _).mono rfl)
    | (with_reducible apply Keeps.ite <;> intro _)
    | (with_reducible apply Keeps.via setF_keeps)
    | (with_reducible apply Keeps.via raise_keeps)
    | (with_reducible intro)
    | split
    | (dsimp -proj only)

theorem logCorrection_keeps {m : Nat} {a : Nat} {s : State} :
    Keeps [.regs, .pwr, .bring, .flt, .mbx, .grants, .pins, .pcie, .journal, .clk, .fs, .memc, .mot, .outbox, .nvFaultLog, .nvLogNext] s (logCorrection m a s) := by
  unfold logCorrection
  try dsimp -proj only
  repeat' first
    | exact (rfl : _ = true)
    | (with_reducible exact Keeps.refl _ _)
    | assumption
    | (with_reducible exact (Keeps.refl _ _).mono rfl)
    | (with_reducible apply Keeps.via wr_keeps)
    | (with_reducible apply Keeps.via satF_keeps)
    | (with_reducible apply Keeps.via logReport_keeps)
    | (dsimp -proj only [keepsMk]; with_reducible apply KeepsMk.upd_memc)
    | (with_reducible refine Keeps.of_fst (by assumption) ?_)
    | (with_reducible refine Keeps.of_snd (by assumption) ?_)
    | (with_reducible intro)
    | split
    | (dsimp -proj only)

theorem ceRate_keeps {m : Nat} {s : State} :
    Keeps [.regs, .pwr, .bring, .flt, .mbx, .grants, .pins, .pcie, .journal, .clk, .fs, .memc, .mot, .outbox, .nvFaultLog, .nvLogNext] s (ceRate m s) := by
  unfold ceRate
  try dsimp -proj only
  repeat' first
    | exact (rfl : _ = true)
    | (with_reducible exact Keeps.refl _ _)
    | assumption
    | (with_reducible exact (Keeps.refl _ _).mono rfl)
    | (with_reducible apply Keeps.ite <;> intro _)
    | (with_reducible apply Keeps.via setF_keeps)
    | (with_reducible apply Keeps.via raise_keeps)
    | (dsimp -proj only [keepsMk]; with_reducible apply KeepsMk.upd_memc)
    | (with_reducible intro)
    | split
    | (dsimp -proj only)

theorem eccCe_keeps {m : Nat} {a : Nat} {s : State} :
    Keeps [.regs, .pwr, .bring, .flt, .mbx, .grants, .pins, .pcie, .journal, .clk, .fs, .memc, .mot, .outbox, .nvFaultLog, .nvLogNext] s (eccCe m a s) := by
  unfold eccCe
  try dsimp -proj only
  repeat' first
    | exact (rfl : _ = true)
    | (with_reducible exact Keeps.refl _ _)
    | assumption
    | (with_reducible exact (Keeps.refl _ _).mono rfl)
    | (with_reducible apply Keeps.via count_keeps)
    | (with_reducible apply Keeps.via logCorrection_keeps)
    | (with_reducible apply Keeps.via ceRate_keeps)
    | (with_reducible intro)
    | (dsimp -proj only)

theorem eccUe_keeps {m : Nat} {a : Nat} {src : Nat} {s : State} :
    Keeps [.regs, .bad, .flt, .pcie, .outbox, .nvFaultLog, .nvLogNext] s (eccUe m a src s) := by
  unfold eccUe
  try dsimp -proj only
  repeat' first
    | exact (rfl : _ = true)
    | (with_reducible exact Keeps.refl _ _)
    | assumption
    | (with_reducible exact (Keeps.refl _ _).mono rfl)
    | (with_reducible apply Keeps.ite <;> intro _)
    | (with_reducible apply Keeps.via wr_keeps)
    | (with_reducible apply Keeps.via setF_keeps)
    | (with_reducible apply Keeps.via satF_keeps)
    | (with_reducible apply Keeps.via count_keeps)
    | (with_reducible apply Keeps.via markBad_keeps)
    | (with_reducible intro)
    | split
    | (dsimp -proj only)

theorem eccRead_keeps {m : Nat} {a : Nat} {src : Nat} {r : EccRes} {s : State} :
    Keeps [.regs, .bad, .pwr, .bring, .flt, .mbx, .grants, .pins, .pcie, .journal, .clk, .fs, .memc, .mot, .outbox, .nvFaultLog, .nvLogNext] s (eccRead m a src r s).1 := by
  unfold eccRead
  try dsimp -proj only
  repeat' first
    | exact (rfl : _ = true)
    | (with_reducible exact Keeps.refl _ _)
    | assumption
    | (with_reducible exact (Keeps.refl _ _).mono rfl)
    | (with_reducible apply Keeps.ite <;> intro _)
    | (with_reducible apply Keeps.via eccCe_keeps)
    | (with_reducible apply Keeps.via eccUe_keeps)
    | (with_reducible intro)
    | split
    | (dsimp only)

theorem rawEdge_keeps {m : Nat} {a : Nat} {u : Nat} {s : State} :
    Keeps [.regs, .bad, .free, .flt, .pcie, .outbox, .nvFaultLog, .nvLogNext] s (rawEdge m a u s) := by
  unfold rawEdge
  try dsimp -proj only
  repeat' first
    | exact (rfl : _ = true)
    | (with_reducible exact Keeps.refl _ _)
    | assumption
    | (with_reducible exact (Keeps.refl _ _).mono rfl)
    | (with_reducible apply Keeps.ite <;> intro _)
    | (with_reducible apply Keeps.via takeFree_keeps)
    | (with_reducible apply Keeps.via eccUe_keeps)
    | (with_reducible intro)
    | split
    | (dsimp -proj only)

theorem eccStore_keeps {m : Nat} {a : Nat} {n : Nat} {s : State} :
    Keeps [.regs, .bad, .free, .flt, .pcie, .memc, .outbox, .nvFaultLog, .nvLogNext] s (eccStore m a n s) := by
  unfold eccStore
  try dsimp -proj only
  repeat' first
    | (with_reducible apply Keeps.foldl)
    | exact (rfl : _ = true)
    | (with_reducible exact Keeps.refl _ _)
    | assumption
    | (with_reducible exact (Keeps.refl _ _).mono rfl)
    | (with_reducible apply Keeps.ite <;> intro _)
    | (with_reducible apply Keeps.via eccUe_keeps)
    | (with_reducible apply Keeps.via rawEdge_keeps)
    | (dsimp -proj only [keepsMk]; first | with_reducible apply KeepsMk.upd_bad | with_reducible apply KeepsMk.upd_memc)
    | (with_reducible intro)
    | split
    | (dsimp -proj only)

theorem spaceStore_keeps {k : Nat} {a : Nat} {l : List Byte} {s : State} :
    Keeps [.regs, .mem, .bad, .free, .flt, .pcie, .memc, .outbox, .nvFaultLog, .nvLogNext] s (spaceStore k a l s) := by
  unfold spaceStore
  try dsimp -proj only
  repeat' first
    | exact (rfl : _ = true)
    | (with_reducible exact Keeps.refl _ _)
    | assumption
    | (with_reducible exact (Keeps.refl _ _).mono rfl)
    | (with_reducible apply Keeps.via memWrite_keeps)
    | (with_reducible apply Keeps.via eccStore_keeps)
    | (with_reducible refine Keeps.of_fst (by assumption) ?_)
    | (with_reducible refine Keeps.of_snd (by assumption) ?_)
    | (with_reducible intro)
    | split
    | (dsimp -proj only)

theorem spaceRead_keeps {k : Nat} {a : Nat} {n : Nat} {s : State} :
    Keeps [.regs, .free, .pwr, .bring, .flt, .mbx, .grants, .pins, .pcie, .journal, .clk, .fs, .memc, .mot, .outbox, .nvFaultLog, .nvLogNext] s (spaceRead k a n s).2.2 := by
  unfold spaceRead
  try dsimp -proj only
  repeat' first
    | exact (rfl : _ = true)
    | (with_reducible exact Keeps.refl _ _)
    | assumption
    | (with_reducible exact (Keeps.refl _ _).mono rfl)
    | (with_reducible apply Keeps.ite <;> intro _)
    | (with_reducible apply Keeps.via takeFree_keeps)
    | (with_reducible apply Keeps.via freeBytes_keeps)
    | (with_reducible apply Keeps.via eccCe_keeps)
    | (with_reducible refine Keeps.of_fst (by assumption) ?_)
    | (with_reducible refine Keeps.of_snd (by assumption) ?_)
    | (with_reducible intro)
    | split
    | (dsimp only)

theorem tcKeep_keeps {p : Nat × Nat → Bool} {s : State} :
    Keeps [.mem, .bad, .memc] s (tcKeep p s) := by
  unfold tcKeep
  try dsimp -proj only
  repeat' first
    | exact (rfl : _ = true)
    | (with_reducible exact Keeps.refl _ _)
    | assumption
    | (with_reducible exact (Keeps.refl _ _).mono rfl)
    | (dsimp -proj only [keepsMk]; with_reducible apply KeepsMk.upd_mem_bad_memc)
    | (with_reducible exact mem_keep)
    | (with_reducible intro)
    | (dsimp -proj only)

theorem tcPut_keeps {l : Nat} {w : Nat} {s : State} :
    Keeps [.mem, .bad, .memc] s (tcPut l w s) := by
  unfold tcPut
  try dsimp -proj only
  repeat' first
    | exact (rfl : _ = true)
    | (with_reducible exact Keeps.refl _ _)
    | assumption
    | (with_reducible exact (Keeps.refl _ _).mono rfl)
    | (with_reducible apply Keeps.via memWrite_keeps)
    | (with_reducible apply Keeps.via tcKeep_keeps)
    | (dsimp -proj only [keepsMk]; with_reducible apply KeepsMk.upd_memc)
    | (with_reducible intro)
    | (dsimp -proj only)

theorem tcDrop_keeps {p : Nat → Bool} {s : State} :
    Keeps [.regs, .flt, .pcie, .memc, .outbox, .nvFaultLog, .nvLogNext] s (tcDrop p s) := by
  unfold tcDrop
  try dsimp -proj only
  repeat' first
    | exact (rfl : _ = true)
    | (with_reducible exact Keeps.refl _ _)
    | assumption
    | (with_reducible exact (Keeps.refl _ _).mono rfl)
    | (with_reducible apply Keeps.ite <;> intro _)
    | (with_reducible apply Keeps.via count_keeps)
    | (dsimp -proj only [keepsMk]; with_reducible apply KeepsMk.upd_memc)
    | (with_reducible intro)
    | split
    | (dsimp -proj only)

theorem reqStore_keeps {a : Nat} {l : List Byte} {s : State} :
    Keeps [.regs, .mem, .bad, .free, .flt, .pcie, .memc, .outbox, .nvFaultLog, .nvLogNext] s (reqStore a l s) := by
  unfold reqStore
  try dsimp -proj only
  repeat' first
    | (with_reducible apply Keeps.foldl)
    | exact (rfl : _ = true)
    | (with_reducible exact Keeps.refl _ _)
    | assumption
    | (with_reducible exact (Keeps.refl _ _).mono rfl)
    | (with_reducible apply Keeps.ite <;> intro _)
    | (with_reducible apply Keeps.via memWrite_keeps)
    | (with_reducible apply Keeps.via spaceStore_keeps)
    | (with_reducible apply Keeps.via tcDrop_keeps)
    | (with_reducible intro)
    | split
    | (dsimp -proj only)

theorem fillCellar_keeps {s : State} :
    Keeps [.regs, .memc] s (fillCellar s) := by
  unfold fillCellar
  try dsimp -proj only
  repeat' first
    | exact (rfl : _ = true)
    | (with_reducible exact Keeps.refl _ _)
    | assumption
    | (with_reducible exact (Keeps.refl _ _).mono rfl)
    | (with_reducible apply Keeps.ite <;> intro _)
    | (with_reducible apply Keeps.via setF_keeps)
    | (dsimp -proj only [keepsMk]; with_reducible apply KeepsMk.upd_memc)
    | (with_reducible intro)
    | split
    | (dsimp -proj only)

theorem fillDram_keeps {s : State} :
    Keeps [.regs, .memc] s (fillDram s) := by
  unfold fillDram
  try dsimp -proj only
  repeat' first
    | exact (rfl : _ = true)
    | (with_reducible exact Keeps.refl _ _)
    | assumption
    | (with_reducible exact (Keeps.refl _ _).mono rfl)
    | (with_reducible apply Keeps.ite <;> intro _)
    | (with_reducible apply Keeps.via wr_keeps)
    | (with_reducible apply Keeps.via setF_keeps)
    | (dsimp -proj only [keepsMk]; with_reducible apply KeepsMk.upd_memc)
    | (with_reducible intro)
    | split
    | (dsimp -proj only)

theorem fillTo_keeps {p : Nat} {s : State} :
    Keeps [.regs, .mem, .bad, .memc] s (fillTo p s) := by
  unfold fillTo
  try dsimp -proj only
  repeat' first
    | exact (rfl : _ = true)
    | (with_reducible exact Keeps.refl _ _)
    | assumption
    | (with_reducible exact (Keeps.refl _ _).mono rfl)
    | (with_reducible apply Keeps.via wr_keeps)
    | (with_reducible apply Keeps.via memZero_keeps)
    | (dsimp -proj only [keepsMk]; with_reducible apply KeepsMk.upd_bad_memc)
    | (with_reducible intro)
    | (dsimp -proj only)

end Sys2Proof.Machine
end

