-- ==== Sys2Proof/Laws/KeepData.lean ====
section
/-! SUPPORT. What each operation of Machine/Data.lean keeps (`Keeps`). -/

set_option Elab.async false

namespace Sys2Proof.Machine

theorem updVol_keeps {n : Nat} {f : Volume → Volume} {s : State} :
    Keeps [.volu] s (updVol n f s) := by
  unfold updVol
  try dsimp -proj only
  repeat' first
    | exact (rfl : _ = true)
    | (with_reducible exact Keeps.refl _ _)
    | assumption
    | (with_reducible exact (Keeps.refl _ _).mono rfl)
    | (with_reducible apply Keeps.ite <;> intro _)
    | (dsimp -proj only [keepsMk]; with_reducible apply KeepsMk.upd_volu)
    | (with_reducible intro)
    | split
    | (dsimp -proj only)

theorem newEid_keeps {s : State} :
    Keeps [.tier] s (newEid s).2 := by
  unfold newEid
  try dsimp -proj only
  repeat' first
    | exact (rfl : _ = true)
    | (with_reducible exact Keeps.refl _ _)
    | assumption
    | (with_reducible exact (Keeps.refl _ _).mono rfl)
    | (dsimp -proj only [keepsMk]; with_reducible apply KeepsMk.upd_tier)
    | (with_reducible intro)
    | (dsimp only)

theorem updRec_keeps {g : Nat} {rid : Nat} {f : RecEnt → RecEnt} {s : State} :
    Keeps [.tier] s (updRec g rid f s) := by
  unfold updRec
  try dsimp -proj only
  repeat' first
    | exact (rfl : _ = true)
    | (with_reducible exact Keeps.refl _ _)
    | assumption
    | (with_reducible exact (Keeps.refl _ _).mono rfl)
    | (with_reducible apply Keeps.ite <;> intro _)
    | (dsimp -proj only [keepsMk]; with_reducible apply KeepsMk.upd_tier)
    | (with_reducible intro)
    | split
    | (dsimp -proj only)

theorem addRef_keeps {g : Nat} {rid : Nat} {s : State} :
    Keeps [.regs, .pwr, .bring, .flt, .mbx, .grants, .pins, .pcie, .journal, .clk, .fs, .tier, .mot, .outbox, .nvFaultLog, .nvLogNext] s (addRef g rid s) := by
  unfold addRef
  try dsimp -proj only
  repeat' first
    | exact (rfl : _ = true)
    | (with_reducible exact Keeps.refl _ _)
    | assumption
    | (with_reducible exact (Keeps.refl _ _).mono rfl)
    | (with_reducible apply Keeps.ite <;> intro _)
    | (with_reducible apply Keeps.via raise_keeps)
    | (with_reducible apply Keeps.via updRec_keeps)
    | (with_reducible refine Keeps.of_fst (by assumption) ?_)
    | (with_reducible refine Keeps.of_snd (by assumption) ?_)
    | (with_reducible intro)
    | split
    | (dsimp -proj only)

theorem runLive_keeps {l : Nat} {d : Int} {s : State} :
    Keeps [.tier] s (runLive l d s) := by
  unfold runLive
  try dsimp -proj only
  repeat' first
    | exact (rfl : _ = true)
    | (with_reducible exact Keeps.refl _ _)
    | assumption
    | (with_reducible exact (Keeps.refl _ _).mono rfl)
    | (with_reducible apply Keeps.ite <;> intro _)
    | (dsimp -proj only [keepsMk]; with_reducible apply KeepsMk.upd_tier)
    | (with_reducible intro)
    | split
    | (dsimp -proj only)

theorem dropRef_keeps {g : Nat} {rid : Nat} {s : State} :
    Keeps [.tier] s (dropRef g rid s) := by
  unfold dropRef
  try dsimp -proj only
  repeat' first
    | exact (rfl : _ = true)
    | (with_reducible exact Keeps.refl _ _)
    | assumption
    | (with_reducible exact (Keeps.refl _ _).mono rfl)
    | (with_reducible apply Keeps.ite <;> intro _)
    | (with_reducible apply Keeps.via updRec_keeps)
    | (with_reducible apply Keeps.via runLive_keeps)
    | (dsimp -proj only [keepsMk]; with_reducible apply KeepsMk.upd_tier)
    | (with_reducible refine Keeps.of_fst (by assumption) ?_)
    | (with_reducible refine Keeps.of_snd (by assumption) ?_)
    | (with_reducible intro)
    | split
    | (dsimp -proj only)

theorem entGone_keeps {g : Nat} {e : MapEnt} {s : State} :
    Keeps [.tier] s (entGone g e s) := by
  unfold entGone
  try dsimp -proj only
  repeat' first
    | exact (rfl : _ = true)
    | (with_reducible exact Keeps.refl _ _)
    | assumption
    | (with_reducible exact (Keeps.refl _ _).mono rfl)
    | (with_reducible apply Keeps.ite <;> intro _)
    | (with_reducible apply Keeps.via dropRef_keeps)
    | (with_reducible refine Keeps.of_fst (by assumption) ?_)
    | (with_reducible refine Keeps.of_snd (by assumption) ?_)
    | (with_reducible intro)
    | split
    | (dsimp -proj only)

theorem entsGone_keeps {g : Nat} {m : List (Nat × MapEnt)} {s : State} :
    Keeps [.tier] s (entsGone g m s) := by
  unfold entsGone
  try dsimp -proj only
  repeat' first
    | (with_reducible apply Keeps.foldl)
    | exact (rfl : _ = true)
    | (with_reducible exact Keeps.refl _ _)
    | assumption
    | (with_reducible exact (Keeps.refl _ _).mono rfl)
    | (with_reducible apply Keeps.via entGone_keeps)
    | (with_reducible intro)
    | (dsimp -proj only)

theorem zeroChunk_keeps {v : Nat} {c : Nat} {s : State} :
    Keeps [.tier, .volu] s (zeroChunk v c s) := by
  unfold zeroChunk
  try dsimp -proj only
  repeat' first
    | exact (rfl : _ = true)
    | (with_reducible exact Keeps.refl _ _)
    | assumption
    | (with_reducible exact (Keeps.refl _ _).mono rfl)
    | (with_reducible apply Keeps.via updVol_keeps)
    | (with_reducible apply Keeps.via entGone_keeps)
    | (with_reducible refine Keeps.of_fst (by assumption) ?_)
    | (with_reducible refine Keeps.of_snd (by assumption) ?_)
    | (with_reducible intro)
    | split
    | (dsimp -proj only)

theorem jAppend_keeps {g : Nat} {kind : Nat} {vol : Nat} {off : Nat} {data : List Byte} {canalSeq : Nat} {cmd : Option Nat} {s : State} :
    Keeps [.pair, .journal, .tier, .outbox] s (jAppend g kind vol off data canalSeq cmd s).2 := by
  unfold jAppend
  try dsimp -proj only
  repeat' first
    | exact (rfl : _ = true)
    | (with_reducible exact Keeps.refl _ _)
    | assumption
    | (with_reducible exact (Keeps.refl _ _).mono rfl)
    | (with_reducible apply Keeps.ite <;> intro _)
    | (with_reducible apply Keeps.via nalSend_keeps)
    | (dsimp -proj only [keepsMk]; with_reducible apply KeepsMk.upd_journal_tier)
    | (with_reducible intro)
    | split
    | (dsimp only)

theorem updJrn_keeps {g : Nat} {q : Nat} {f : JEnt → JEnt} {s : State} :
    Keeps [.journal] s (updJrn g q f s) := by
  unfold updJrn
  try dsimp -proj only
  repeat' first
    | exact (rfl : _ = true)
    | (with_reducible exact Keeps.refl _ _)
    | assumption
    | (with_reducible exact (Keeps.refl _ _).mono rfl)
    | (with_reducible apply Keeps.ite <;> intro _)
    | (dsimp -proj only [keepsMk]; with_reducible apply KeepsMk.upd_journal)
    | (with_reducible intro)
    | split
    | (dsimp -proj only)

theorem jRelease_keeps {s : State} :
    Keeps [.pair, .journal, .tier, .outbox] s (jRelease s) := by
  unfold jRelease
  try dsimp -proj only
  repeat' first
    | (with_reducible apply Keeps.foldl)
    | exact (rfl : _ = true)
    | (with_reducible exact Keeps.refl _ _)
    | assumption
    | (with_reducible exact (Keeps.refl _ _).mono rfl)
    | (with_reducible apply Keeps.ite <;> intro _)
    | (with_reducible apply Keeps.via nalSend_keeps)
    | (dsimp -proj only [keepsMk]; first | with_reducible apply KeepsMk.upd_journal | with_reducible apply KeepsMk.upd_tier)
    | (with_reducible intro)
    | split
    | (dsimp -proj only)

theorem jAckFree_keeps {s : State} :
    Keeps [.journal] s (jAckFree s) := by
  unfold jAckFree
  try dsimp -proj only
  repeat' first
    | exact (rfl : _ = true)
    | (with_reducible exact Keeps.refl _ _)
    | assumption
    | (with_reducible exact (Keeps.refl _ _).mono rfl)
    | (with_reducible apply Keeps.ite <;> intro _)
    | (dsimp -proj only [keepsMk]; with_reducible apply KeepsMk.upd_journal)
    | (with_reducible intro)
    | split
    | (dsimp -proj only)

theorem jCover_keeps {g : Nat} {v : Nat} {c : Nat} {q : Nat} {s : State} :
    Keeps [.journal] s (jCover g v c q s) := by
  unfold jCover
  try dsimp -proj only
  repeat' first
    | exact (rfl : _ = true)
    | (with_reducible exact Keeps.refl _ _)
    | assumption
    | (with_reducible exact (Keeps.refl _ _).mono rfl)
    | (with_reducible apply Keeps.ite <;> intro _)
    | (dsimp -proj only [keepsMk]; with_reducible apply KeepsMk.upd_journal)
    | (with_reducible intro)
    | split
    | (dsimp -proj only)

theorem jDrop_keeps {g : Nat} {v : Nat} {c : Nat} {s : State} :
    Keeps [.journal] s (jDrop g v c s) := by
  unfold jDrop
  try dsimp -proj only
  repeat' first
    | exact (rfl : _ = true)
    | (with_reducible exact Keeps.refl _ _)
    | assumption
    | (with_reducible exact (Keeps.refl _ _).mono rfl)
    | (with_reducible apply Keeps.ite <;> intro _)
    | (dsimp -proj only [keepsMk]; with_reducible apply KeepsMk.upd_journal)
    | (with_reducible intro)
    | split
    | (dsimp -proj only)

theorem mapWrite_keeps {v : Nat} {q : Nat} {off : Nat} {len : Nat} {c : Nat} {s : State} :
    Keeps [.regs, .pwr, .bring, .flt, .mbx, .grants, .pins, .pcie, .journal, .clk, .fs, .tier, .volu, .mot, .outbox, .nvFaultLog, .nvLogNext] s (mapWrite v q off len c s) := by
  unfold mapWrite
  try dsimp -proj only
  repeat' first
    | exact (rfl : _ = true)
    | (with_reducible exact Keeps.refl _ _)
    | assumption
    | (with_reducible exact (Keeps.refl _ _).mono rfl)
    | (with_reducible apply Keeps.ite <;> intro _)
    | (with_reducible apply Keeps.via updVol_keeps)
    | (with_reducible apply Keeps.via newEid_keeps)
    | (with_reducible apply Keeps.via addRef_keeps)
    | (with_reducible refine Keeps.of_fst (by assumption) ?_)
    | (with_reducible refine Keeps.of_snd (by assumption) ?_)
    | (with_reducible intro)
    | split
    | (dsimp -proj only)

theorem applyWrite_keeps {v : Nat} {q : Nat} {off : Nat} {len : Nat} {s : State} :
    Keeps [.regs, .pwr, .bring, .flt, .mbx, .grants, .pins, .pcie, .journal, .clk, .fs, .tier, .volu, .mot, .outbox, .nvFaultLog, .nvLogNext] s (applyWrite v q off len s) := by
  unfold applyWrite
  try dsimp -proj only
  repeat' first
    | (with_reducible apply Keeps.foldl)
    | exact (rfl : _ = true)
    | (with_reducible exact Keeps.refl _ _)
    | assumption
    | (with_reducible exact (Keeps.refl _ _).mono rfl)
    | (with_reducible apply Keeps.via mapWrite_keeps)
    | (with_reducible intro)
    | (dsimp -proj only)

theorem dirtyLog_keeps {v : Nat} {cs : List Nat} {s : State} :
    Keeps [.volu] s (dirtyLog v cs s) := by
  unfold dirtyLog
  try dsimp -proj only
  repeat' first
    | exact (rfl : _ = true)
    | (with_reducible exact Keeps.refl _ _)
    | assumption
    | (with_reducible exact (Keeps.refl _ _).mono rfl)
    | (with_reducible apply Keeps.ite <;> intro _)
    | (dsimp -proj only [keepsMk]; with_reducible apply KeepsMk.upd_volu)
    | (with_reducible intro)
    | split
    | (dsimp -proj only)

theorem jRecord_keeps {g : Nat} {kind : Nat} {s : State} :
    Keeps [.regs, .pair, .tier, .outbox] s (jRecord g kind s) := by
  unfold jRecord
  try dsimp -proj only
  repeat' first
    | exact (rfl : _ = true)
    | (with_reducible exact Keeps.refl _ _)
    | assumption
    | (with_reducible exact (Keeps.refl _ _).mono rfl)
    | (with_reducible apply Keeps.ite <;> intro _)
    | (with_reducible apply Keeps.via wr_keeps)
    | (with_reducible apply Keeps.via nalSend_keeps)
    | (dsimp -proj only [keepsMk]; with_reducible apply KeepsMk.upd_tier)
    | (with_reducible intro)
    | split
    | (dsimp -proj only)

theorem decodeFailed_keeps {loc : Nat} {code : Nat} {s : State} :
    Keeps [.regs, .flt, .pcie, .outbox, .nvFaultLog, .nvLogNext] s (decodeFailed loc code s) := by
  unfold decodeFailed
  try dsimp -proj only
  repeat' first
    | exact (rfl : _ = true)
    | (with_reducible exact Keeps.refl _ _)
    | assumption
    | (with_reducible exact (Keeps.refl _ _).mono rfl)
    | (with_reducible apply Keeps.ite <;> intro _)
    | (with_reducible apply Keeps.via wr_keeps)
    | (with_reducible apply Keeps.via setF_keeps)
    | (with_reducible apply Keeps.via satF_keeps)
    | (with_reducible apply Keeps.via count_keeps)
    | (with_reducible intro)
    | split
    | (dsimp -proj only)

theorem updCmd_keeps {id : Nat} {f : Cmd → Cmd} {s : State} :
    Keeps [.host] s (updCmd id f s) := by
  unfold updCmd
  try dsimp -proj only
  repeat' first
    | (with_reducible rfl)
    | exact (rfl : _ = true)
    | (with_reducible exact Keeps.refl _ _)
    | assumption
    | (with_reducible exact (Keeps.refl _ _).mono rfl)
    | (with_reducible apply Keeps.ite <;> intro _)
    | (dsimp -proj only [keepsMk]; with_reducible apply KeepsMk.upd_host)
    | (with_reducible exact natq_id)
    | (with_reducible exact natq_mod)
    | (with_reducible exact natq_map)
    | (with_reducible exact natq_reset)
    | (with_reducible intro)
    | split
    | (simp [modAt_length]; done)
    | (simp [setAt_length]; done)
    | (simp only [List.length_mapIdx, List.length_map]; done)
    | (simp [MotSt.units, modAt_length, setAt_length]; done)
    | (dsimp -proj only)

theorem needsEnd_keeps {p : Need → Bool} {err : Option Nat} {s : State} :
    Keeps [.host] s (needsEnd p err s) := by
  unfold needsEnd
  try dsimp -proj only
  repeat' first
    | (with_reducible rfl)
    | exact (rfl : _ = true)
    | (with_reducible exact Keeps.refl _ _)
    | assumption
    | (with_reducible exact (Keeps.refl _ _).mono rfl)
    | (with_reducible apply Keeps.ite <;> intro _)
    | (dsimp -proj only [keepsMk]; with_reducible apply KeepsMk.upd_host)
    | (with_reducible exact natq_id)
    | (with_reducible exact natq_mod)
    | (with_reducible exact natq_map)
    | (with_reducible exact natq_reset)
    | (with_reducible refine Keeps.of_fst (by assumption) ?_)
    | (with_reducible refine Keeps.of_snd (by assumption) ?_)
    | (with_reducible intro)
    | split
    | (simp [modAt_length]; done)
    | (simp [setAt_length]; done)
    | (simp only [List.length_mapIdx, List.length_map]; done)
    | (simp [MotSt.units, modAt_length, setAt_length]; done)
    | (dsimp -proj only)

theorem takeRead_keeps {c : Cmd} {s : State} :
    Keeps [.regs, .flt, .pcie, .tier, .host, .outbox, .nvFaultLog, .nvLogNext] s (takeRead c s) := by
  unfold takeRead
  try dsimp -proj only
  repeat' first
    | exact (rfl : _ = true)
    | (with_reducible exact Keeps.refl _ _)
    | assumption
    | (with_reducible exact (Keeps.refl _ _).mono rfl)
    | (with_reducible apply Keeps.ite <;> intro _)
    | (with_reducible apply Keeps.via decodeFailed_keeps)
    | (with_reducible apply Keeps.via updCmd_keeps)
    | (dsimp -proj only [keepsMk]; with_reducible apply KeepsMk.upd_tier)
    | (with_reducible refine Keeps.of_fst (by assumption) ?_)
    | (with_reducible refine Keeps.of_snd (by assumption) ?_)
    | (with_reducible intro)
    | split
    | (dsimp -proj only)

theorem takeReads_keeps {s : State} :
    Keeps [.regs, .flt, .pcie, .tier, .host, .outbox, .nvFaultLog, .nvLogNext] s (takeReads s) := by
  unfold takeReads
  try dsimp -proj only
  repeat' first
    | (with_reducible apply Keeps.foldl)
    | exact (rfl : _ = true)
    | (with_reducible exact Keeps.refl _ _)
    | assumption
    | (with_reducible exact (Keeps.refl _ _).mono rfl)
    | (with_reducible apply Keeps.via takeRead_keeps)
    | (with_reducible intro)
    | (dsimp -proj only)

theorem needsDone_keeps {p : Need → Bool} {err : Option Nat} {s : State} :
    Keeps [.regs, .flt, .pcie, .tier, .host, .outbox, .nvFaultLog, .nvLogNext] s (needsDone p err s) := by
  unfold needsDone
  try dsimp -proj only
  repeat' first
    | exact (rfl : _ = true)
    | (with_reducible exact Keeps.refl _ _)
    | assumption
    | (with_reducible exact (Keeps.refl _ _).mono rfl)
    | (with_reducible apply Keeps.via needsEnd_keeps)
    | (with_reducible apply Keeps.via takeReads_keeps)
    | (with_reducible intro)
    | (dsimp -proj only)

end Sys2Proof.Machine
end

