-- ==== Sys2Proof/Laws/KeepPaLink.lean ====
section
/-! SUPPORT. What each operation of Machine/PaLink.lean keeps (`Keeps`). -/

set_option Elab.async false

namespace Sys2Proof.Machine

theorem updPa_keeps {p : Nat} {f : PaSt → PaSt} {s : State} :
    Keeps [.pa] s (updPa p f s) := by
  unfold updPa
  try dsimp -proj only
  repeat' first
    | (with_reducible rfl)
    | exact (rfl : _ = true)
    | (with_reducible exact Keeps.refl _ _)
    | assumption
    | (with_reducible exact (Keeps.refl _ _).mono rfl)
    | (dsimp -proj only [keepsMk]; with_reducible apply KeepsMk.upd_pa)
    | (with_reducible intro)
    | (simp [modAt_length]; done)
    | (simp [setAt_length]; done)
    | (simp only [List.length_mapIdx, List.length_map]; done)
    | (simp [MotSt.units, modAt_length, setAt_length]; done)
    | (dsimp -proj only)

theorem admitShow_keeps {s : State} :
    Keeps [.regs] s (admitShow s) := by
  unfold admitShow
  try dsimp -proj only
  repeat' first
    | (with_reducible apply Keeps.forN)
    | exact (rfl : _ = true)
    | (with_reducible exact Keeps.refl _ _)
    | assumption
    | (with_reducible exact (Keeps.refl _ _).mono rfl)
    | (with_reducible apply Keeps.via setF_keeps)
    | (with_reducible apply Keeps.via setB_keeps)
    | (with_reducible intro)
    | (dsimp -proj only)

theorem admitSet_keeps {l : List Nat} {s : State} :
    Keeps [.regs, .clk] s (admitSet l s) := by
  unfold admitSet
  try dsimp -proj only
  repeat' first
    | (with_reducible rfl)
    | exact (rfl : _ = true)
    | (with_reducible exact Keeps.refl _ _)
    | assumption
    | (with_reducible exact (Keeps.refl _ _).mono rfl)
    | (with_reducible apply Keeps.via admitShow_keeps)
    | (dsimp -proj only [keepsMk]; with_reducible apply KeepsMk.upd_clk)
    | (with_reducible intro)
    | (simp [modAt_length]; done)
    | (simp [setAt_length]; done)
    | (simp only [List.length_mapIdx, List.length_map]; done)
    | (simp [MotSt.units, modAt_length, setAt_length]; done)
    | (dsimp -proj only)

theorem admitTo_keeps {l : List Nat} {s : State} :
    Keeps [.regs, .clk] s (admitTo l s) := by
  unfold admitTo
  try dsimp -proj only
  repeat' first
    | (with_reducible rfl)
    | exact (rfl : _ = true)
    | (with_reducible exact Keeps.refl _ _)
    | assumption
    | (with_reducible exact (Keeps.refl _ _).mono rfl)
    | (with_reducible apply Keeps.via admitSet_keeps)
    | (dsimp -proj only [keepsMk]; with_reducible apply KeepsMk.upd_clk)
    | (with_reducible intro)
    | (simp [modAt_length]; done)
    | (simp [setAt_length]; done)
    | (simp only [List.length_mapIdx, List.length_map]; done)
    | (simp [MotSt.units, modAt_length, setAt_length]; done)
    | (dsimp -proj only)

theorem sectorLeave_keeps {h : Nat} {s : State} :
    Keeps [.regs, .clk] s (sectorLeave h s) := by
  unfold sectorLeave
  try dsimp -proj only
  repeat' first
    | (with_reducible rfl)
    | exact (rfl : _ = true)
    | (with_reducible exact Keeps.refl _ _)
    | assumption
    | (with_reducible exact (Keeps.refl _ _).mono rfl)
    | (with_reducible apply Keeps.ite <;> intro _)
    | (with_reducible apply Keeps.via admitSet_keeps)
    | (dsimp -proj only [keepsMk]; with_reducible apply KeepsMk.upd_clk)
    | (with_reducible intro)
    | split
    | (simp [modAt_length]; done)
    | (simp [setAt_length]; done)
    | (simp only [List.length_mapIdx, List.length_map]; done)
    | (simp [MotSt.units, modAt_length, setAt_length]; done)
    | (dsimp -proj only)

theorem paNext_keeps {p : Nat} {s : State} :
    Keeps [.pa, .outbox] s (paNext p s) := by
  unfold paNext
  try dsimp -proj only
  repeat' first
    | exact (rfl : _ = true)
    | (with_reducible exact Keeps.refl _ _)
    | assumption
    | (with_reducible exact (Keeps.refl _ _).mono rfl)
    | (with_reducible apply Keeps.ite <;> intro _)
    | (with_reducible apply Keeps.via send_keeps)
    | (with_reducible apply Keeps.via updPa_keeps)
    | (with_reducible refine Keeps.of_fst (by assumption) ?_)
    | (with_reducible refine Keeps.of_snd (by assumption) ?_)
    | (with_reducible intro)
    | split
    | (dsimp -proj only)

theorem paSend_keeps {p : Nat} {f : Nat} {raw : Bool} {s : State} :
    Keeps [.pa, .outbox] s (paSend p f raw s) := by
  unfold paSend
  try dsimp -proj only
  repeat' first
    | exact (rfl : _ = true)
    | (with_reducible exact Keeps.refl _ _)
    | assumption
    | (with_reducible exact (Keeps.refl _ _).mono rfl)
    | (with_reducible apply Keeps.ite <;> intro _)
    | (with_reducible apply Keeps.via updPa_keeps)
    | (with_reducible apply Keeps.via paNext_keeps)
    | (with_reducible intro)
    | split
    | (dsimp -proj only)

theorem paGateOff_keeps {p : Nat} {s : State} :
    Keeps [.regs, .pins, .clk] s (paGateOff p s) := by
  unfold paGateOff
  try dsimp -proj only
  repeat' first
    | exact (rfl : _ = true)
    | (with_reducible exact Keeps.refl _ _)
    | assumption
    | (with_reducible exact (Keeps.refl _ _).mono rfl)
    | (with_reducible apply Keeps.via pllGates_keeps)
    | (dsimp -proj only [keepsMk]; with_reducible apply KeepsMk.upd_pins)
    | (with_reducible intro)
    | (dsimp -proj only)

theorem paDataOff_keeps {p : Nat} {s : State} :
    Keeps [.pins] s (paDataOff p s) := by
  unfold paDataOff
  try dsimp -proj only
  repeat' first
    | (with_reducible apply Keeps.foldl)
    | exact (rfl : _ = true)
    | (with_reducible exact Keeps.refl _ _)
    | assumption
    | (with_reducible exact (Keeps.refl _ _).mono rfl)
    | (dsimp -proj only [keepsMk]; with_reducible apply KeepsMk.upd_pins)
    | (with_reducible intro)
    | (dsimp -proj only)

theorem paSet_keeps {h : Nat} {reg : Nat} {v : Nat} {s : State} :
    Keeps [.pa, .outbox] s (paSet h reg v s) := by
  unfold paSet
  try dsimp -proj only
  repeat' first
    | exact (rfl : _ = true)
    | (with_reducible exact Keeps.refl _ _)
    | assumption
    | (with_reducible exact (Keeps.refl _ _).mono rfl)
    | (with_reducible apply Keeps.via paSend_keeps)
    | (with_reducible intro)
    | (dsimp -proj only)

theorem heater_keeps {h : Nat} {pow : Nat} {s : State} :
    Keeps [.regs, .pa, .outbox] s (heater h pow s) := by
  unfold heater
  try dsimp -proj only
  repeat' first
    | exact (rfl : _ = true)
    | (with_reducible exact Keeps.refl _ _)
    | assumption
    | (with_reducible exact (Keeps.refl _ _).mono rfl)
    | (with_reducible apply Keeps.ite <;> intro _)
    | (with_reducible apply Keeps.via setF_keeps)
    | (with_reducible apply Keeps.via paSet_keeps)
    | (with_reducible intro)
    | split
    | (dsimp -proj only)

theorem heatersOff_keeps {a : Nat} {s : State} :
    Keeps [.regs, .pa, .outbox] s (heatersOff a s) := by
  unfold heatersOff
  try dsimp -proj only
  repeat' first
    | (with_reducible apply Keeps.foldl)
    | exact (rfl : _ = true)
    | (with_reducible exact Keeps.refl _ _)
    | assumption
    | (with_reducible exact (Keeps.refl _ _).mono rfl)
    | (with_reducible apply Keeps.ite <;> intro _)
    | (with_reducible apply Keeps.via heater_keeps)
    | (with_reducible intro)
    | split
    | (dsimp -proj only)

theorem heatersOn_keeps {a : Nat} {s : State} :
    Keeps [.regs, .pa, .outbox] s (heatersOn a s) := by
  unfold heatersOn
  try dsimp -proj only
  repeat' first
    | (with_reducible apply Keeps.foldl)
    | exact (rfl : _ = true)
    | (with_reducible exact Keeps.refl _ _)
    | assumption
    | (with_reducible exact (Keeps.refl _ _).mono rfl)
    | (with_reducible apply Keeps.ite <;> intro _)
    | (with_reducible apply Keeps.via heater_keeps)
    | (with_reducible intro)
    | split
    | (dsimp -proj only)

theorem stopPa_keeps {p : Nat} {s : State} :
    Keeps [.regs, .flt, .pins, .pcie, .clk, .fs, .outbox, .nvFaultLog, .nvLogNext] s (stopPa p s) := by
  unfold stopPa
  try dsimp -proj only
  repeat' first
    | (with_reducible apply Keeps.foldl)
    | exact (rfl : _ = true)
    | (with_reducible exact Keeps.refl _ _)
    | assumption
    | (with_reducible exact (Keeps.refl _ _).mono rfl)
    | (with_reducible apply Keeps.via stopHead_keeps)
    | (with_reducible apply Keeps.via paGateOff_keeps)
    | (with_reducible intro)
    | (dsimp -proj only)

theorem paClaim_keeps {p : Nat} {force : Bool} {s : State} :
    Keeps [.pa, .outbox] s (paClaim p force s) := by
  unfold paClaim
  try dsimp -proj only
  repeat' first
    | exact (rfl : _ = true)
    | (with_reducible exact Keeps.refl _ _)
    | assumption
    | (with_reducible exact (Keeps.refl _ _).mono rfl)
    | (with_reducible apply Keeps.ite <;> intro _)
    | (with_reducible apply Keeps.via updPa_keeps)
    | (with_reducible apply Keeps.via paSend_keeps)
    | (with_reducible intro)
    | split
    | (dsimp -proj only)

theorem paRelease_keeps {p : Nat} {s : State} :
    Keeps [.regs, .pins, .clk, .pa, .outbox] s (paRelease p s) := by
  unfold paRelease
  try dsimp -proj only
  repeat' first
    | exact (rfl : _ = true)
    | (with_reducible exact Keeps.refl _ _)
    | assumption
    | (with_reducible exact (Keeps.refl _ _).mono rfl)
    | (with_reducible apply Keeps.via updPa_keeps)
    | (with_reducible apply Keeps.via paSend_keeps)
    | (with_reducible apply Keeps.via paGateOff_keeps)
    | (with_reducible apply Keeps.via paDataOff_keeps)
    | (with_reducible intro)
    | (dsimp -proj only)

theorem paLost_keeps {p : Nat} {s : State} :
    Keeps [.regs, .pwr, .bring, .flt, .mbx, .grants, .pins, .pcie, .journal, .clk, .pa, .fs, .mot, .outbox, .nvFaultLog, .nvLogNext] s (paLost p s) := by
  unfold paLost
  try dsimp -proj only
  repeat' first
    | exact (rfl : _ = true)
    | (with_reducible exact Keeps.refl _ _)
    | assumption
    | (with_reducible exact (Keeps.refl _ _).mono rfl)
    | (with_reducible apply Keeps.via raise_keeps)
    | (with_reducible apply Keeps.via updPa_keeps)
    | (with_reducible apply Keeps.via stopPa_keeps)
    | (with_reducible intro)
    | (dsimp -proj only)

theorem paFail_keeps {p : Nat} {s : State} :
    Keeps [.regs, .pwr, .bring, .flt, .mbx, .grants, .pins, .pcie, .journal, .clk, .pa, .fs, .mot, .outbox, .nvFaultLog, .nvLogNext] s (paFail p s) := by
  unfold paFail
  try dsimp -proj only
  repeat' first
    | (with_reducible rfl)
    | exact (rfl : _ = true)
    | (with_reducible exact Keeps.refl _ _)
    | assumption
    | (with_reducible exact (Keeps.refl _ _).mono rfl)
    | (with_reducible apply Keeps.via setF_keeps)
    | (with_reducible apply Keeps.via raise_keeps)
    | (with_reducible apply Keeps.via updPa_keeps)
    | (with_reducible apply Keeps.via admitSet_keeps)
    | (with_reducible apply Keeps.via stopPa_keeps)
    | (dsimp -proj only [keepsMk]; with_reducible apply KeepsMk.upd_fs)
    | (with_reducible intro)
    | (simp [modAt_length]; done)
    | (simp [setAt_length]; done)
    | (simp only [List.length_mapIdx, List.length_map]; done)
    | (simp [MotSt.units, modAt_length, setAt_length]; done)
    | (dsimp -proj only)

theorem paFaultRead_keeps {p : Nat} {j : Nat} {d : Nat} {s : State} :
    Keeps [.regs, .pwr, .bring, .flt, .mbx, .grants, .pins, .pcie, .journal, .clk, .fs, .mot, .outbox, .nvFaultLog, .nvLogNext] s (paFaultRead p j d s) := by
  unfold paFaultRead
  try dsimp -proj only
  repeat' first
    | exact (rfl : _ = true)
    | (with_reducible exact Keeps.refl _ _)
    | assumption
    | (with_reducible exact (Keeps.refl _ _).mono rfl)
    | (with_reducible apply Keeps.ite <;> intro _)
    | (with_reducible apply Keeps.via setF_keeps)
    | (with_reducible apply Keeps.via logEvent_keeps)
    | (with_reducible apply Keeps.via raiseLive_keeps)
    | (with_reducible apply Keeps.via clearLive_keeps)
    | (with_reducible intro)
    | split
    | (dsimp -proj only)

theorem paPortRead_keeps {p : Nat} {d : Nat} {s : State} :
    Keeps [.regs, .pwr, .bring, .flt, .mbx, .grants, .pins, .pcie, .journal, .clk, .pa, .fs, .mot, .outbox, .nvFaultLog, .nvLogNext] s (paPortRead p d s) := by
  unfold paPortRead
  try dsimp -proj only
  repeat' first
    | exact (rfl : _ = true)
    | (with_reducible exact Keeps.refl _ _)
    | assumption
    | (with_reducible exact (Keeps.refl _ _).mono rfl)
    | (with_reducible apply Keeps.ite <;> intro _)
    | (with_reducible apply Keeps.via setF_keeps)
    | (with_reducible apply Keeps.via raise_keeps)
    | (with_reducible apply Keeps.via updPa_keeps)
    | (with_reducible intro)
    | split
    | (dsimp -proj only)

theorem paWritten_keeps {p : Nat} {f : Nat} {att : Nat} {s : State} :
    Keeps [.pa] s (paWritten p f att s) := by
  unfold paWritten
  try dsimp -proj only
  repeat' first
    | exact (rfl : _ = true)
    | (with_reducible exact Keeps.refl _ _)
    | assumption
    | (with_reducible exact (Keeps.refl _ _).mono rfl)
    | (with_reducible apply Keeps.ite <;> intro _)
    | (with_reducible apply Keeps.via updPa_keeps)
    | (with_reducible intro)
    | split
    | (dsimp -proj only)

theorem paReply_keeps {p : Nat} {f : Nat} {raw : Bool} {att : Nat} {r : Nat} {s : State} :
    Keeps [.regs, .pwr, .bring, .flt, .mbx, .grants, .pins, .pcie, .journal, .clk, .pa, .fs, .mot, .outbox, .nvFaultLog, .nvLogNext] s (paReply p f raw att r s) := by
  unfold paReply
  try dsimp -proj only
  repeat' first
    | exact (rfl : _ = true)
    | (with_reducible exact Keeps.refl _ _)
    | assumption
    | (with_reducible exact (Keeps.refl _ _).mono rfl)
    | (with_reducible apply Keeps.ite <;> intro _)
    | (with_reducible apply Keeps.via wr_keeps)
    | (with_reducible apply Keeps.via updPa_keeps)
    | (with_reducible apply Keeps.via paLost_keeps)
    | (with_reducible apply Keeps.via paFail_keeps)
    | (with_reducible apply Keeps.via paFaultRead_keeps)
    | (with_reducible apply Keeps.via paPortRead_keeps)
    | (with_reducible apply Keeps.via paWritten_keeps)
    | (with_reducible refine Keeps.of_fst (by assumption) ?_)
    | (with_reducible refine Keeps.of_snd (by assumption) ?_)
    | (with_reducible intro)
    | split
    | (dsimp -proj only)

theorem gateOpen_keeps {a : Nat} {s : State} :
    Keeps [.pins] s (gateOpen a s) := by
  unfold gateOpen
  try dsimp -proj only
  repeat' first
    | exact (rfl : _ = true)
    | (with_reducible exact Keeps.refl _ _)
    | assumption
    | (with_reducible exact (Keeps.refl _ _).mono rfl)
    | (with_reducible apply Keeps.ite <;> intro _)
    | (dsimp -proj only [keepsMk]; with_reducible apply KeepsMk.upd_pins)
    | (with_reducible refine Keeps.of_fst (by assumption) ?_)
    | (with_reducible refine Keeps.of_snd (by assumption) ?_)
    | (with_reducible intro)
    | split
    | (dsimp -proj only)

end Sys2Proof.Machine
end

