-- ==== Sys2Proof/Laws/KeepSector.lean ====
section
/-! SUPPORT. What each operation of Machine/Sector.lean keeps (`Keeps`). -/

set_option Elab.async false

namespace Sys2Proof.Machine

theorem updHead_keeps {h : Nat} {f : HeadSt → HeadSt} {s : State} :
    Keeps [.head] s (updHead h f s) := by
  unfold updHead
  try dsimp -proj only
  repeat' first
    | (with_reducible rfl)
    | exact (rfl : _ = true)
    | (with_reducible exact Keeps.refl _ _)
    | assumption
    | (with_reducible exact (Keeps.refl _ _).mono rfl)
    | (dsimp -proj only [keepsMk]; with_reducible apply KeepsMk.upd_head)
    | (with_reducible intro)
    | (simp [modAt_length]; done)
    | (simp [setAt_length]; done)
    | (simp only [List.length_mapIdx, List.length_map]; done)
    | (simp [MotSt.units, modAt_length, setAt_length]; done)
    | (dsimp -proj only)

theorem headStat_keeps {h : Nat} {i : Nat} {s : State} :
    Keeps [.head, .tier] s (headStat h i s) := by
  unfold headStat
  try dsimp -proj only
  repeat' first
    | exact (rfl : _ = true)
    | (with_reducible exact Keeps.refl _ _)
    | assumption
    | (with_reducible exact (Keeps.refl _ _).mono rfl)
    | (with_reducible apply Keeps.ite <;> intro _)
    | (with_reducible apply Keeps.via health_keeps)
    | (with_reducible apply Keeps.via updHead_keeps)
    | (with_reducible intro)
    | split
    | (dsimp -proj only)

theorem streamPut_keeps {a : Nat} {b : Band} {k : Nat} {i : Nat} {d : List Byte} {s : State} :
    Keeps [.mem] s (streamPut a b k i d s) := by
  unfold streamPut
  try dsimp -proj only
  repeat' first
    | exact (rfl : _ = true)
    | (with_reducible exact Keeps.refl _ _)
    | assumption
    | (with_reducible exact (Keeps.refl _ _).mono rfl)
    | (with_reducible apply Keeps.ite <;> intro _)
    | (with_reducible apply Keeps.via memWrite_keeps)
    | (with_reducible refine Keeps.of_fst (by assumption) ?_)
    | (with_reducible refine Keeps.of_snd (by assumption) ?_)
    | (with_reducible intro)
    | split
    | (dsimp -proj only)

theorem ringRead_keeps {a : Nat} {s : State} :
    Keeps [.regs] s (ringRead a s) := by
  unfold ringRead
  try dsimp -proj only
  repeat' first
    | (with_reducible apply Keeps.foldl)
    | exact (rfl : _ = true)
    | (with_reducible exact Keeps.refl _ _)
    | assumption
    | (with_reducible exact (Keeps.refl _ _).mono rfl)
    | (with_reducible apply Keeps.ite <;> intro _)
    | (with_reducible apply Keeps.via wr_keeps)
    | (with_reducible refine Keeps.of_fst (by assumption) ?_)
    | (with_reducible refine Keeps.of_snd (by assumption) ?_)
    | (with_reducible intro)
    | split
    | (dsimp -proj only)

theorem bandTake_keeps {a : Nat} {i : Nat} {k : Nat} {ok : Bool} {s : State} :
    Keeps [.regs, .fs] s (bandTake a i k ok s) := by
  unfold bandTake
  try dsimp -proj only
  repeat' first
    | exact (rfl : _ = true)
    | (with_reducible exact Keeps.refl _ _)
    | assumption
    | (with_reducible exact (Keeps.refl _ _).mono rfl)
    | (with_reducible apply Keeps.ite <;> intro _)
    | (with_reducible apply Keeps.via updBand_keeps)
    | (with_reducible apply Keeps.via ringRead_keeps)
    | (with_reducible intro)
    | split
    | (dsimp -proj only)

theorem storeDrop_keeps {h : Nat} {sid : Nat} {s : State} :
    Keeps [.regs, .pool] s (storeDrop h sid s) := by
  unfold storeDrop
  try dsimp -proj only
  repeat' first
    | exact (rfl : _ = true)
    | (with_reducible exact Keeps.refl _ _)
    | assumption
    | (with_reducible exact (Keeps.refl _ _).mono rfl)
    | (with_reducible apply Keeps.via setF_keeps)
    | (dsimp -proj only [keepsMk]; with_reducible apply KeepsMk.upd_pool)
    | (with_reducible intro)
    | (dsimp -proj only)

theorem ladderShow_keeps {h : Nat} {s : State} :
    Keeps [.regs, .pa, .head, .outbox] s (ladderShow h s) := by
  unfold ladderShow
  try dsimp -proj only
  repeat' first
    | exact (rfl : _ = true)
    | (with_reducible exact Keeps.refl _ _)
    | assumption
    | (with_reducible exact (Keeps.refl _ _).mono rfl)
    | (with_reducible apply Keeps.ite <;> intro _)
    | (with_reducible apply Keeps.via setF_keeps)
    | (with_reducible apply Keeps.via heater_keeps)
    | (with_reducible apply Keeps.via updHead_keeps)
    | (with_reducible intro)
    | split
    | (dsimp -proj only)

theorem deliver_keeps {h : Nat} {x : SectorRd} {s : State} :
    Keeps [.regs, .mem, .flt, .pcie, .head, .pool, .fs, .tier, .outbox, .nvFaultLog, .nvLogNext] s (deliver h x s) := by
  unfold deliver
  try dsimp -proj only
  repeat' first
    | exact (rfl : _ = true)
    | (with_reducible exact Keeps.refl _ _)
    | assumption
    | (with_reducible exact (Keeps.refl _ _).mono rfl)
    | (with_reducible apply Keeps.ite <;> intro _)
    | (with_reducible apply Keeps.via count_keeps)
    | (with_reducible apply Keeps.via updHead_keeps)
    | (with_reducible apply Keeps.via headStat_keeps)
    | (with_reducible apply Keeps.via streamPut_keeps)
    | (with_reducible apply Keeps.via bandTake_keeps)
    | (with_reducible apply Keeps.via storeDrop_keeps)
    | (with_reducible apply Keeps.via complete_keeps)
    | (with_reducible refine Keeps.of_fst (by assumption) ?_)
    | (with_reducible refine Keeps.of_snd (by assumption) ?_)
    | (with_reducible intro)
    | split
    | (dsimp -proj only)

theorem flushHead_keeps {h : Nat} {s : State} :
    Keeps [.regs, .mem, .flt, .pcie, .head, .pool, .fs, .tier, .outbox, .nvFaultLog, .nvLogNext] s (flushHead h s) := by
  unfold flushHead
  try dsimp -proj only
  repeat' first
    | (with_reducible apply Keeps.foldl)
    | exact (rfl : _ = true)
    | (with_reducible exact Keeps.refl _ _)
    | assumption
    | (with_reducible exact (Keeps.refl _ _).mono rfl)
    | (with_reducible apply Keeps.via deliver_keeps)
    | (with_reducible intro)
    | (dsimp -proj only)

theorem sectorGone_keeps {h : Nat} {sid : Nat} {s : State} :
    Keeps [.head] s (sectorGone h sid s) := by
  unfold sectorGone
  try dsimp -proj only
  repeat' first
    | exact (rfl : _ = true)
    | (with_reducible exact Keeps.refl _ _)
    | assumption
    | (with_reducible exact (Keeps.refl _ _).mono rfl)
    | (with_reducible apply Keeps.via updHead_keeps)
    | (with_reducible intro)
    | (dsimp -proj only)

theorem sectorGood_keeps {h : Nat} {x : SectorRd} {s : State} :
    Keeps [.regs, .mem, .flt, .pcie, .head, .pool, .fs, .tier, .outbox, .nvFaultLog, .nvLogNext] s (sectorGood h x s) := by
  unfold sectorGood
  try dsimp -proj only
  repeat' first
    | exact (rfl : _ = true)
    | (with_reducible exact Keeps.refl _ _)
    | assumption
    | (with_reducible exact (Keeps.refl _ _).mono rfl)
    | (with_reducible apply Keeps.via updHead_keeps)
    | (with_reducible apply Keeps.via flushHead_keeps)
    | (with_reducible apply Keeps.via sectorGone_keeps)
    | (with_reducible apply Keeps.via complete_keeps)
    | (with_reducible intro)
    | (dsimp -proj only)

theorem sectorLost_keeps {h : Nat} {x : SectorRd} {unrecov : Bool} {s : State} :
    Keeps [.regs, .mem, .pwr, .bring, .flt, .mbx, .grants, .pins, .pcie, .journal, .clk, .head, .pool, .fs, .tier, .mot, .outbox, .nvFaultLog, .nvLogNext] s (sectorLost h x unrecov s) := by
  unfold sectorLost
  try dsimp -proj only
  repeat' first
    | exact (rfl : _ = true)
    | (with_reducible exact Keeps.refl _ _)
    | assumption
    | (with_reducible exact (Keeps.refl _ _).mono rfl)
    | (with_reducible apply Keeps.ite <;> intro _)
    | (with_reducible apply Keeps.via setF_keeps)
    | (with_reducible apply Keeps.via updBand_keeps)
    | (with_reducible apply Keeps.via raise_keeps)
    | (with_reducible apply Keeps.via updHead_keeps)
    | (with_reducible apply Keeps.via headStat_keeps)
    | (with_reducible apply Keeps.via bandTake_keeps)
    | (with_reducible apply Keeps.via storeDrop_keeps)
    | (with_reducible apply Keeps.via flushHead_keeps)
    | (with_reducible apply Keeps.via sectorGone_keeps)
    | (with_reducible intro)
    | split
    | (dsimp -proj only)

theorem toLadder_keeps {h : Nat} {x : SectorRd} {s : State} :
    Keeps [.regs, .pa, .head, .outbox] s (toLadder h x s) := by
  unfold toLadder
  try dsimp -proj only
  repeat' first
    | exact (rfl : _ = true)
    | (with_reducible exact Keeps.refl _ _)
    | assumption
    | (with_reducible exact (Keeps.refl _ _).mono rfl)
    | (with_reducible apply Keeps.via updHead_keeps)
    | (with_reducible apply Keeps.via ladderShow_keeps)
    | (with_reducible apply Keeps.via sectorGone_keeps)
    | (with_reducible intro)
    | (dsimp -proj only)

theorem updSector_keeps {h : Nat} {sid : Nat} {f : SectorRd → SectorRd} {s : State} :
    Keeps [.head] s (updSector h sid f s) := by
  unfold updSector
  try dsimp -proj only
  repeat' first
    | exact (rfl : _ = true)
    | (with_reducible exact Keeps.refl _ _)
    | assumption
    | (with_reducible exact (Keeps.refl _ _).mono rfl)
    | (with_reducible apply Keeps.ite <;> intro _)
    | (with_reducible apply Keeps.via updHead_keeps)
    | (with_reducible intro)
    | split
    | (dsimp -proj only)

theorem sectorSettle_keeps {h : Nat} {sid : Nat} {s : State} :
    Keeps [.regs, .mem, .flt, .pcie, .pa, .head, .pool, .fs, .tier, .outbox, .nvFaultLog, .nvLogNext] s (sectorSettle h sid s) := by
  unfold sectorSettle
  try dsimp -proj only
  repeat' first
    | exact (rfl : _ = true)
    | (with_reducible exact Keeps.refl _ _)
    | assumption
    | (with_reducible exact (Keeps.refl _ _).mono rfl)
    | (with_reducible apply Keeps.ite <;> intro _)
    | (with_reducible apply Keeps.via sectorGood_keeps)
    | (with_reducible apply Keeps.via toLadder_keeps)
    | (with_reducible refine Keeps.of_fst (by assumption) ?_)
    | (with_reducible refine Keeps.of_snd (by assumption) ?_)
    | (with_reducible intro)
    | split
    | (dsimp -proj only)

theorem poolShow_keeps {s : State} :
    Keeps [.regs] s (poolShow s) := by
  unfold poolShow
  try dsimp -proj only
  repeat' first
    | exact (rfl : _ = true)
    | (with_reducible exact Keeps.refl _ _)
    | assumption
    | (with_reducible exact (Keeps.refl _ _).mono rfl)
    | (with_reducible apply Keeps.via setF_keeps)
    | (with_reducible intro)
    | (dsimp -proj only)

theorem storePut_keeps {c : Cw} {redo : Bool} {s : State} :
    Keeps [.regs, .pool] s (storePut c redo s) := by
  unfold storePut
  try dsimp -proj only
  repeat' first
    | exact (rfl : _ = true)
    | (with_reducible exact Keeps.refl _ _)
    | assumption
    | (with_reducible exact (Keeps.refl _ _).mono rfl)
    | (with_reducible apply Keeps.ite <;> intro _)
    | (with_reducible apply Keeps.via poolShow_keeps)
    | (dsimp -proj only [keepsMk]; with_reducible apply KeepsMk.upd_pool)
    | (with_reducible refine Keeps.of_fst (by assumption) ?_)
    | (with_reducible refine Keeps.of_snd (by assumption) ?_)
    | (with_reducible intro)
    | split
    | (dsimp -proj only)

theorem cwFailed_keeps {c : Cw} {s : State} :
    Keeps [.regs, .mem, .flt, .pcie, .pa, .head, .pool, .fs, .tier, .outbox, .nvFaultLog, .nvLogNext] s (cwFailed c s) := by
  unfold cwFailed
  try dsimp -proj only
  repeat' first
    | exact (rfl : _ = true)
    | (with_reducible exact Keeps.refl _ _)
    | assumption
    | (with_reducible exact (Keeps.refl _ _).mono rfl)
    | (with_reducible apply Keeps.via updSector_keeps)
    | (with_reducible apply Keeps.via sectorSettle_keeps)
    | (with_reducible intro)
    | (dsimp -proj only)

theorem cwKept_keeps {h : Nat} {sid : Nat} {k : Nat} {d : List Byte} {s : State} :
    Keeps [.regs, .mem, .bad, .free, .flt, .pcie, .head, .pool, .memc, .outbox, .nvFaultLog, .nvLogNext] s (cwKept h sid k d s) := by
  unfold cwKept
  try dsimp -proj only
  repeat' first
    | exact (rfl : _ = true)
    | (with_reducible exact Keeps.refl _ _)
    | assumption
    | (with_reducible exact (Keeps.refl _ _).mono rfl)
    | (with_reducible apply Keeps.via count_keeps)
    | (with_reducible apply Keeps.via spaceStore_keeps)
    | (with_reducible apply Keeps.via updSector_keeps)
    | (with_reducible apply Keeps.via poolShow_keeps)
    | (dsimp -proj only [keepsMk]; with_reducible apply KeepsMk.upd_pool)
    | (with_reducible refine Keeps.of_fst (by assumption) ?_)
    | (with_reducible refine Keeps.of_snd (by assumption) ?_)
    | (with_reducible intro)
    | split
    | (dsimp -proj only)

end Sys2Proof.Machine
end

