-- ==== Sys2Proof/Laws/KeepHead.lean ====
section
/-! SUPPORT. What each operation of Machine/Head.lean keeps (`Keeps`). -/

set_option Elab.async false

namespace Sys2Proof.Machine

theorem writePrep_keeps {h : Nat} {s : State} :
    Keeps [.regs, .pa, .head, .outbox] s (writePrep h s) := by
  unfold writePrep
  try dsimp -proj only
  repeat' first
    | exact (rfl : _ = true)
    | (with_reducible exact Keeps.refl _ _)
    | assumption
    | (with_reducible exact (Keeps.refl _ _).mono rfl)
    | (with_reducible apply Keeps.via paSet_keeps)
    | (with_reducible apply Keeps.via heater_keeps)
    | (with_reducible apply Keeps.via updHead_keeps)
    | (with_reducible intro)
    | (dsimp -proj only)

theorem writeDone_keeps {h : Nat} {s : State} :
    Keeps [.regs, .pa, .head, .outbox] s (writeDone h s) := by
  unfold writeDone
  try dsimp -proj only
  repeat' first
    | exact (rfl : _ = true)
    | (with_reducible exact Keeps.refl _ _)
    | assumption
    | (with_reducible exact (Keeps.refl _ _).mono rfl)
    | (with_reducible apply Keeps.via paSet_keeps)
    | (with_reducible apply Keeps.via heater_keeps)
    | (with_reducible apply Keeps.via updHead_keeps)
    | (with_reducible intro)
    | (dsimp -proj only)

theorem smFallback_keeps {h : Nat} {s : State} :
    Keeps [.regs, .flt, .pcie, .head, .tier, .outbox, .nvFaultLog, .nvLogNext] s (smFallback h s) := by
  unfold smFallback
  try dsimp -proj only
  repeat' first
    | exact (rfl : _ = true)
    | (with_reducible exact Keeps.refl _ _)
    | assumption
    | (with_reducible exact (Keeps.refl _ _).mono rfl)
    | (with_reducible apply Keeps.via setF_keeps)
    | (with_reducible apply Keeps.via count_keeps)
    | (with_reducible apply Keeps.via updHead_keeps)
    | (with_reducible apply Keeps.via headStat_keeps)
    | (with_reducible intro)
    | (dsimp -proj only)

theorem sectorHead_keeps {h : Nat} {step : Nat} {x : SectorHead} {s : State} :
    Keeps [.regs, .head] s (sectorHead h step x s).2 := by
  unfold sectorHead
  try dsimp -proj only
  repeat' first
    | exact (rfl : _ = true)
    | (with_reducible exact Keeps.refl _ _)
    | assumption
    | (with_reducible exact (Keeps.refl _ _).mono rfl)
    | (with_reducible apply Keeps.ite <;> intro _)
    | (with_reducible apply Keeps.via setF_keeps)
    | (with_reducible apply Keeps.via setB_keeps)
    | (with_reducible apply Keeps.via updHead_keeps)
    | (with_reducible intro)
    | split
    | (dsimp only)

theorem adaptBack_keeps {h : Nat} {step : Nat} {x : EqSt} {s : State} :
    Keeps [.regs, .head] s (adaptBack h step x s) := by
  unfold adaptBack
  try dsimp -proj only
  repeat' first
    | exact (rfl : _ = true)
    | (with_reducible exact Keeps.refl _ _)
    | assumption
    | (with_reducible exact (Keeps.refl _ _).mono rfl)
    | (with_reducible apply Keeps.ite <;> intro _)
    | (with_reducible apply Keeps.via wr_keeps)
    | (with_reducible apply Keeps.via setF_keeps)
    | (with_reducible apply Keeps.via updHead_keeps)
    | (with_reducible intro)
    | split
    | (dsimp -proj only)

theorem sectorBody_keeps {h : Nat} {step : Nat} {f0 : List Int} {parts : List SectorPart} {s : State} :
    Keeps [.regs, .head] s (sectorBody h step f0 parts s).2 := by
  unfold sectorBody
  try dsimp -proj only
  repeat' first
    | exact (rfl : _ = true)
    | (with_reducible exact Keeps.refl _ _)
    | assumption
    | (with_reducible exact (Keeps.refl _ _).mono rfl)
    | (with_reducible apply Keeps.ite <;> intro _)
    | (with_reducible apply Keeps.via setF_keeps)
    | (with_reducible apply Keeps.via updHead_keeps)
    | (with_reducible apply Keeps.via adaptBack_keeps)
    | (with_reducible intro)
    | split
    | (dsimp only)

theorem sectorAgain_keeps {h : Nat} {x : SectorRd} {s : State} :
    Keeps [.head] s (sectorAgain h x s) := by
  unfold sectorAgain
  try dsimp -proj only
  repeat' first
    | exact (rfl : _ = true)
    | (with_reducible exact Keeps.refl _ _)
    | assumption
    | (with_reducible exact (Keeps.refl _ _).mono rfl)
    | (with_reducible apply Keeps.via updHead_keeps)
    | (with_reducible intro)
    | (dsimp -proj only)

theorem sectorDone_keeps {h : Nat} {s : State} :
    Keeps [.regs, .clk, .head] s (sectorDone h s) := by
  unfold sectorDone
  try dsimp -proj only
  repeat' first
    | (with_reducible apply Keeps.foldl)
    | exact (rfl : _ = true)
    | (with_reducible exact Keeps.refl _ _)
    | assumption
    | (with_reducible exact (Keeps.refl _ _).mono rfl)
    | (with_reducible apply Keeps.via wr_keeps)
    | (with_reducible apply Keeps.via setF_keeps)
    | (with_reducible apply Keeps.via sectorLeave_keeps)
    | (with_reducible apply Keeps.via updHead_keeps)
    | (with_reducible intro)
    | (dsimp -proj only)

theorem ladderCw_keeps {h : Nat} {sid : Nat} {llr : Option (List Int)} {k : Nat} {s : State} :
    Keeps [.regs, .mem, .bad, .free, .flt, .pcie, .head, .pool, .memc, .outbox, .nvFaultLog, .nvLogNext] s (ladderCw h sid llr k s) := by
  unfold ladderCw
  try dsimp -proj only
  repeat' first
    | exact (rfl : _ = true)
    | (with_reducible exact Keeps.refl _ _)
    | assumption
    | (with_reducible exact (Keeps.refl _ _).mono rfl)
    | (with_reducible apply Keeps.ite <;> intro _)
    | (with_reducible apply Keeps.via storePut_keeps)
    | (with_reducible apply Keeps.via cwKept_keeps)
    | (with_reducible refine Keeps.of_fst (by assumption) ?_)
    | (with_reducible refine Keeps.of_snd (by assumption) ?_)
    | (with_reducible intro)
    | split
    | (dsimp -proj only)

theorem ladderRead_keeps {h : Nat} {x : SectorRd} {g : SectorHead} {f0 : List Int} {parts : List SectorPart} {s : State} :
    Keeps [.regs, .mem, .bad, .free, .flt, .pcie, .head, .pool, .memc, .tier, .outbox, .nvFaultLog, .nvLogNext] s (ladderRead h x g f0 parts s) := by
  unfold ladderRead
  try dsimp -proj only
  repeat' first
    | (with_reducible apply Keeps.foldl)
    | exact (rfl : _ = true)
    | (with_reducible exact Keeps.refl _ _)
    | assumption
    | (with_reducible exact (Keeps.refl _ _).mono rfl)
    | (with_reducible apply Keeps.ite <;> intro _)
    | (with_reducible apply Keeps.via updSector_keeps)
    | (with_reducible apply Keeps.via smFallback_keeps)
    | (with_reducible apply Keeps.via sectorHead_keeps)
    | (with_reducible apply Keeps.via sectorBody_keeps)
    | (with_reducible apply Keeps.via ladderCw_keeps)
    | (with_reducible intro)
    | split
    | (dsimp -proj only)

theorem unsafeAct_keeps {h : Nat} {s : State} :
    Keeps [.regs, .flt, .pins, .pcie, .clk, .fs, .outbox, .nvFaultLog, .nvLogNext] s (unsafeAct h s) := by
  unfold unsafeAct
  try dsimp -proj only
  repeat' first
    | exact (rfl : _ = true)
    | (with_reducible exact Keeps.refl _ _)
    | assumption
    | (with_reducible exact (Keeps.refl _ _).mono rfl)
    | (with_reducible apply Keeps.ite <;> intro _)
    | (with_reducible apply Keeps.via raiseCore_keeps)
    | (with_reducible apply Keeps.via stopHead_keeps)
    | (with_reducible apply Keeps.via stopAct_keeps)
    | (with_reducible apply Keeps.via stopAll_keeps)
    | (with_reducible apply Keeps.via stopPa_keeps)
    | (with_reducible intro)
    | split
    | (dsimp -proj only)

theorem mirrorHead_keeps {h : Nat} {channel : Bool} {s : State} :
    Keeps [.regs, .pair, .head, .outbox] s (mirrorHead h channel s) := by
  unfold mirrorHead
  try dsimp -proj only
  repeat' first
    | exact (rfl : _ = true)
    | (with_reducible exact Keeps.refl _ _)
    | assumption
    | (with_reducible exact (Keeps.refl _ _).mono rfl)
    | (with_reducible apply Keeps.ite <;> intro _)
    | (with_reducible apply Keeps.via setF_keeps)
    | (with_reducible apply Keeps.via nalSend_keeps)
    | (with_reducible apply Keeps.via updHead_keeps)
    | (with_reducible intro)
    | split
    | (dsimp -proj only)

theorem calFinish_keeps {s : State} :
    Keeps [.mbx] s (calFinish s) := by
  unfold calFinish
  try dsimp -proj only
  repeat' first
    | (with_reducible apply Keeps.foldl)
    | exact (rfl : _ = true)
    | (with_reducible exact Keeps.refl _ _)
    | assumption
    | (with_reducible exact (Keeps.refl _ _).mono rfl)
    | (with_reducible apply Keeps.ite <;> intro _)
    | (with_reducible apply Keeps.via mbxSetResult_keeps)
    | (with_reducible intro)
    | split
    | (dsimp -proj only)

theorem calEnd_keeps {h : Nat} {ok : Bool} {channel : Bool} {s : State} :
    Keeps [.regs, .mbx, .pair, .head, .outbox] s (calEnd h ok channel s) := by
  unfold calEnd
  try dsimp -proj only
  repeat' first
    | exact (rfl : _ = true)
    | (with_reducible exact Keeps.refl _ _)
    | assumption
    | (with_reducible exact (Keeps.refl _ _).mono rfl)
    | (with_reducible apply Keeps.via setF_keeps)
    | (with_reducible apply Keeps.via updHead_keeps)
    | (with_reducible apply Keeps.via mirrorHead_keeps)
    | (with_reducible apply Keeps.via calFinish_keeps)
    | (with_reducible intro)
    | (dsimp -proj only)

theorem hcCommit_keeps {a : Nat} {s : State} :
    Keeps [.regs] s (hcCommit a s) := by
  unfold hcCommit
  try dsimp -proj only
  repeat' first
    | exact (rfl : _ = true)
    | (with_reducible exact Keeps.refl _ _)
    | assumption
    | (with_reducible exact (Keeps.refl _ _).mono rfl)
    | (with_reducible apply Keeps.ite <;> intro _)
    | (with_reducible apply Keeps.via setF_keeps)
    | (with_reducible intro)
    | split
    | (dsimp -proj only)

end Sys2Proof.Machine
end

