-- ==== Sys2Proof/Laws/KeepCle.lean ====
section
/-! SUPPORT. What each operation of Machine/Cle.lean keeps (`Keeps`). -/

set_option Elab.async false

namespace Sys2Proof.Machine

theorem loopOut_keeps {s : State} {l : Nat} {k : Nat} {z : Int} :
    Keeps [.free] s (loopOut s l k z).2 := by
  unfold loopOut
  try dsimp -proj only
  repeat' first
    | exact (rfl : _ = true)
    | (with_reducible exact Keeps.refl _ _)
    | assumption
    | (with_reducible exact (Keeps.refl _ _).mono rfl)
    | (with_reducible apply Keeps.ite <;> intro _)
    | (with_reducible apply Keeps.via takeFree_keeps)
    | (with_reducible intro)
    | split
    | (dsimp only)

theorem loopRun_keeps {l : Nat} {k : Nat} {x : Int} {add : Int} {st : LoopSt} {s : State} {half : Bool} :
    Keeps [.free] s (loopRun l k x add st s half).2 := by
  unfold loopRun
  try dsimp -proj only
  repeat' first
    | exact (rfl : _ = true)
    | (with_reducible exact Keeps.refl _ _)
    | assumption
    | (with_reducible exact (Keeps.refl _ _).mono rfl)
    | (with_reducible apply Keeps.ite <;> intro _)
    | (with_reducible apply Keeps.via loopOut_keeps)
    | (with_reducible intro)
    | split
    | (dsimp only)

theorem bankSwap_keeps {l : Nat} {s : State} :
    Keeps [.regs] s (bankSwap l s) := by
  unfold bankSwap
  try dsimp -proj only
  repeat' first
    | exact (rfl : _ = true)
    | (with_reducible exact Keeps.refl _ _)
    | assumption
    | (with_reducible exact (Keeps.refl _ _).mono rfl)
    | (with_reducible apply Keeps.via setF_keeps)
    | (with_reducible intro)
    | (dsimp -proj only)

theorem swapDone_keeps {l : Nat} {s : State} :
    Keeps [.mbx] s (swapDone l s) := by
  unfold swapDone
  try dsimp -proj only
  repeat' first
    | exact (rfl : _ = true)
    | (with_reducible exact Keeps.refl _ _)
    | assumption
    | (with_reducible exact (Keeps.refl _ _).mono rfl)
    | (with_reducible apply Keeps.via mbxFinish_keeps)
    | (with_reducible intro)
    | (dsimp -proj only)

theorem sampleBegin_keeps {l : Nat} {st : LoopSt} {s : State} :
    Keeps [.regs, .mbx] s (sampleBegin l st s).2 := by
  unfold sampleBegin
  try dsimp -proj only
  repeat' first
    | exact (rfl : _ = true)
    | (with_reducible exact Keeps.refl _ _)
    | assumption
    | (with_reducible exact (Keeps.refl _ _).mono rfl)
    | (with_reducible apply Keeps.ite <;> intro _)
    | (with_reducible apply Keeps.via bankSwap_keeps)
    | (with_reducible apply Keeps.via swapDone_keeps)
    | (with_reducible intro)
    | split
    | (dsimp only)

theorem biasTerm_keeps {a : Nat} {s : State} :
    Keeps [.free] s (biasTerm a s).2 := by
  unfold biasTerm
  try dsimp -proj only
  repeat' first
    | exact (rfl : _ = true)
    | (with_reducible exact Keeps.refl _ _)
    | assumption
    | (with_reducible exact (Keeps.refl _ _).mono rfl)
    | (with_reducible apply Keeps.ite <;> intro _)
    | (with_reducible apply Keeps.via takeFree_keeps)
    | (with_reducible intro)
    | split
    | (dsimp only)

theorem updVcm_keeps {a : Nat} {f : VcmSt → VcmSt} {s : State} :
    Keeps [.mot] s (updVcm a f s) := by
  unfold updVcm
  try dsimp -proj only
  repeat' first
    | (with_reducible rfl)
    | exact (rfl : _ = true)
    | (with_reducible exact Keeps.refl _ _)
    | assumption
    | (with_reducible exact (Keeps.refl _ _).mono rfl)
    | (dsimp -proj only [keepsMk]; with_reducible apply KeepsMk.upd_mot)
    | (with_reducible exact units_maSwap (setAt_length _ _ _))
    | (with_reducible exact units_maSwap (modAt_length _ _ _))
    | (with_reducible exact units_vcm (modAt_length _ _ _))
    | (with_reducible exact units_fan (modAt_length _ _ _))
    | (with_reducible exact units_rest)
    | (with_reducible exact units_reset)
    | (with_reducible intro)
    | (simp [modAt_length]; done)
    | (simp [setAt_length]; done)
    | (simp only [List.length_mapIdx, List.length_map]; done)
    | (simp [MotSt.units, modAt_length, setAt_length]; done)
    | (dsimp -proj only)

end Sys2Proof.Machine
end

