-- ==== Sys2Proof/Laws/KeepSteps.lean ====
section
/-! SUPPORT. What each operation of Machine/Steps.lean keeps (`Keeps`). -/

set_option Elab.async false

namespace Sys2Proof.Machine

theorem updBring_keeps {f : BringSt → BringSt} {s : State} :
    Keeps [.bring] s (updBring f s) := by
  unfold updBring
  try dsimp -proj only
  repeat' first
    | exact (rfl : _ = true)
    | (with_reducible exact Keeps.refl _ _)
    | assumption
    | (with_reducible exact (Keeps.refl _ _).mono rfl)
    | (dsimp -proj only [keepsMk]; with_reducible apply KeepsMk.upd_bring)
    | (with_reducible intro)
    | (dsimp -proj only)

theorem tellStep_keeps {s : State} :
    Keeps [.pair, .outbox] s (tellStep s) := by
  unfold tellStep
  try dsimp -proj only
  repeat' first
    | exact (rfl : _ = true)
    | (with_reducible exact Keeps.refl _ _)
    | assumption
    | (with_reducible exact (Keeps.refl _ _).mono rfl)
    | (with_reducible apply Keeps.via nalSend_keeps)
    | (with_reducible intro)
    | (dsimp -proj only)

theorem returnStart_keeps {s : State} :
    Keeps [.pair] s (returnStart s) := by
  unfold returnStart
  try dsimp -proj only
  repeat' first
    | exact (rfl : _ = true)
    | (with_reducible exact Keeps.refl _ _)
    | assumption
    | (with_reducible exact (Keeps.refl _ _).mono rfl)
    | (with_reducible apply Keeps.ite <;> intro _)
    | (with_reducible apply Keeps.via updPair_keeps)
    | (with_reducible intro)
    | split
    | (dsimp -proj only)

end Sys2Proof.Machine
end

