-- ==== Sys2Proof/Laws/KeepSpnOps.lean ====
section
/-! SUPPORT. What each operation of Machine/SpnOps.lean keeps (`Keeps`). -/

set_option Elab.async false

namespace Sys2Proof.Machine

theorem updSpn_keeps {f : SpnSt → SpnSt} {s : State} :
    Keeps [.mot] s (updSpn f s) := by
  unfold updSpn
  try dsimp -proj only
  repeat' first
    | (with_reducible rfl)
    | exact (rfl : _ = true)
    | (with_reducible exact Keeps.refl _ _)
    | assumption
    | (with_reducible exact (Keeps.refl _ _).mono rfl)
    | (dsimp -proj only [keepsMk]; with_reducible apply KeepsMk.upd_mot)
    | (with_reducible exact units_maSwap (setAt_length _ _ _))
    | (with_reducible exact units_maSwap (modAt_length _ _ _))
    | (with_reducible exact units_vcm (modAt_length _ _ _))
    | (with_reducible exact units_fan (modAt_length _ _ _))
    | (with_reducible exact units_rest)
    | (with_reducible exact units_reset)
    | (with_reducible intro)
    | (simp [modAt_length]; done)
    | (simp [setAt_length]; done)
    | (simp only [List.length_mapIdx, List.length_map]; done)
    | (simp [MotSt.units, modAt_length, setAt_length]; done)
    | (dsimp -proj only)

theorem updFan_keeps {f : Nat} {g : FanSt → FanSt} {s : State} :
    Keeps [.mot] s (updFan f g s) := by
  unfold updFan
  try dsimp -proj only
  repeat' first
    | (with_reducible rfl)
    | exact (rfl : _ = true)
    | (with_reducible exact Keeps.refl _ _)
    | assumption
    | (with_reducible exact (Keeps.refl _ _).mono rfl)
    | (dsimp -proj only [keepsMk]; with_reducible apply KeepsMk.upd_mot)
    | (with_reducible exact units_maSwap (setAt_length _ _ _))
    | (with_reducible exact units_maSwap (modAt_length _ _ _))
    | (with_reducible exact units_vcm (modAt_length _ _ _))
    | (with_reducible exact units_fan (modAt_length _ _ _))
    | (with_reducible exact units_rest)
    | (with_reducible exact units_reset)
    | (with_reducible intro)
    | (simp [modAt_length]; done)
    | (simp [setAt_length]; done)
    | (simp only [List.length_mapIdx, List.length_map]; done)
    | (simp [MotSt.units, modAt_length, setAt_length]; done)
    | (dsimp -proj only)

theorem encShow_keeps {s : State} :
    Keeps [.pins] s (encShow s) := by
  unfold encShow
  try dsimp -proj only
  repeat' first
    | exact (rfl : _ = true)
    | (with_reducible exact Keeps.refl _ _)
    | assumption
    | (with_reducible exact (Keeps.refl _ _).mono rfl)
    | (dsimp -proj only [keepsMk]; with_reducible apply KeepsMk.upd_pins)
    | (with_reducible intro)
    | (dsimp -proj only)

theorem spnCoast_keeps {s : State} :
    Keeps [.regs, .mot] s (spnCoast s) := by
  unfold spnCoast
  try dsimp -proj only
  repeat' first
    | exact (rfl : _ = true)
    | (with_reducible exact Keeps.refl _ _)
    | assumption
    | (with_reducible exact (Keeps.refl _ _).mono rfl)
    | (with_reducible apply Keeps.via setF_keeps)
    | (with_reducible apply Keeps.via coastSpindle_keeps)
    | (with_reducible apply Keeps.via updSpn_keeps)
    | (with_reducible intro)
    | (dsimp -proj only)

theorem spnStart_keeps {s : State} :
    Keeps [.regs, .mot] s (spnStart s) := by
  unfold spnStart
  try dsimp -proj only
  repeat' first
    | exact (rfl : _ = true)
    | (with_reducible exact Keeps.refl _ _)
    | assumption
    | (with_reducible exact (Keeps.refl _ _).mono rfl)
    | (with_reducible apply Keeps.via setF_keeps)
    | (with_reducible apply Keeps.via updSpn_keeps)
    | (with_reducible apply Keeps.via spnCoast_keeps)
    | (with_reducible intro)
    | (dsimp -proj only)

theorem spnStop_keeps {s : State} :
    Keeps [.regs, .mot] s (spnStop s) := by
  unfold spnStop
  try dsimp -proj only
  repeat' first
    | exact (rfl : _ = true)
    | (with_reducible exact Keeps.refl _ _)
    | assumption
    | (with_reducible exact (Keeps.refl _ _).mono rfl)
    | (with_reducible apply Keeps.ite <;> intro _)
    | (with_reducible apply Keeps.via setF_keeps)
    | (with_reducible apply Keeps.via updSpn_keeps)
    | (with_reducible apply Keeps.via spnCoast_keeps)
    | (with_reducible intro)
    | split
    | (dsimp -proj only)

theorem spnFinish_keeps {st : Nat} {s : State} :
    Keeps [.mbx] s (spnFinish st s) := by
  unfold spnFinish
  try dsimp -proj only
  repeat' first
    | exact (rfl : _ = true)
    | (with_reducible exact Keeps.refl _ _)
    | assumption
    | (with_reducible exact (Keeps.refl _ _).mono rfl)
    | (with_reducible apply Keeps.via mbxFinish_keeps)
    | (with_reducible intro)
    | (dsimp -proj only)

theorem spnCatch_keeps {openLoop : Bool} {s : State} :
    Keeps [.regs, .pair, .mot] s (spnCatch openLoop s) := by
  unfold spnCatch
  try dsimp -proj only
  repeat' first
    | exact (rfl : _ = true)
    | (with_reducible exact Keeps.refl _ _)
    | assumption
    | (with_reducible exact (Keeps.refl _ _).mono rfl)
    | (with_reducible apply Keeps.ite <;> intro _)
    | (with_reducible apply Keeps.via setF_keeps)
    | (with_reducible apply Keeps.via setB_keeps)
    | (with_reducible apply Keeps.via updSpn_keeps)
    | (dsimp -proj only [keepsMk]; with_reducible apply KeepsMk.upd_pair)
    | (with_reducible intro)
    | split
    | (dsimp -proj only)

theorem spnAlign_keeps {s : State} :
    Keeps [.regs] s (spnAlign s) := by
  unfold spnAlign
  try dsimp -proj only
  repeat' first
    | exact (rfl : _ = true)
    | (with_reducible exact Keeps.refl _ _)
    | assumption
    | (with_reducible exact (Keeps.refl _ _).mono rfl)
    | (with_reducible apply Keeps.via setF_keeps)
    | (with_reducible intro)
    | (dsimp -proj only)

theorem busyShow_keeps {s : State} :
    Keeps [.regs] s (busyShow s) := by
  unfold busyShow
  try dsimp -proj only
  repeat' first
    | exact (rfl : _ = true)
    | (with_reducible exact Keeps.refl _ _)
    | assumption
    | (with_reducible exact (Keeps.refl _ _).mono rfl)
    | (with_reducible apply Keeps.ite <;> intro _)
    | (with_reducible apply Keeps.via setB_keeps)
    | (with_reducible intro)
    | split
    | (dsimp -proj only)

theorem headsFinish_keeps {a : Nat} {load : Bool} {st : Nat} {s : State} :
    Keeps [.mbx] s (headsFinish a load st s) := by
  unfold headsFinish
  try dsimp -proj only
  repeat' first
    | exact (rfl : _ = true)
    | (with_reducible exact Keeps.refl _ _)
    | assumption
    | (with_reducible exact (Keeps.refl _ _).mono rfl)
    | (with_reducible apply Keeps.via mbxFinish_keeps)
    | (with_reducible intro)
    | (dsimp -proj only)

theorem loadHeads_keeps {a : Nat} {s : State} :
    Keeps [.regs, .mot] s (loadHeads a s) := by
  unfold loadHeads
  try dsimp -proj only
  repeat' first
    | exact (rfl : _ = true)
    | (with_reducible exact Keeps.refl _ _)
    | assumption
    | (with_reducible exact (Keeps.refl _ _).mono rfl)
    | (with_reducible apply Keeps.ite <;> intro _)
    | (with_reducible apply Keeps.via setF_keeps)
    | (with_reducible apply Keeps.via domUp_keeps)
    | (with_reducible apply Keeps.via updVcm_keeps)
    | (with_reducible intro)
    | split
    | (dsimp -proj only)

theorem unloadHeads_keeps {a : Nat} {s : State} :
    Keeps [.regs] s (unloadHeads a s) := by
  unfold unloadHeads
  try dsimp -proj only
  repeat' first
    | exact (rfl : _ = true)
    | (with_reducible exact Keeps.refl _ _)
    | assumption
    | (with_reducible exact (Keeps.refl _ _).mono rfl)
    | (with_reducible apply Keeps.ite <;> intro _)
    | (with_reducible apply Keeps.via setF_keeps)
    | (with_reducible intro)
    | split
    | (dsimp -proj only)

theorem retractAll_keeps {s : State} :
    Keeps [.regs] s (retractAll s) := by
  unfold retractAll
  try dsimp -proj only
  repeat' first
    | (with_reducible apply Keeps.forN)
    | exact (rfl : _ = true)
    | (with_reducible exact Keeps.refl _ _)
    | assumption
    | (with_reducible exact (Keeps.refl _ _).mono rfl)
    | (with_reducible apply Keeps.ite <;> intro _)
    | (with_reducible apply Keeps.via retract_keeps)
    | (with_reducible intro)
    | split
    | (dsimp -proj only)

theorem bandShow_keeps {a : Nat} {b : Nat} {s : State} :
    Keeps [.regs, .pair, .outbox] s (bandShow a b s) := by
  unfold bandShow
  try dsimp -proj only
  repeat' first
    | exact (rfl : _ = true)
    | (with_reducible exact Keeps.refl _ _)
    | assumption
    | (with_reducible exact (Keeps.refl _ _).mono rfl)
    | (with_reducible apply Keeps.via setF_keeps)
    | (with_reducible apply Keeps.via nalSend_keeps)
    | (with_reducible intro)
    | (dsimp -proj only)

theorem spnBring_keeps {s : State} :
    Keeps [.regs, .mot] s (spnBring s) := by
  unfold spnBring
  try dsimp -proj only
  repeat' first
    | exact (rfl : _ = true)
    | (with_reducible exact Keeps.refl _ _)
    | assumption
    | (with_reducible exact (Keeps.refl _ _).mono rfl)
    | (with_reducible apply Keeps.ite <;> intro _)
    | (with_reducible apply Keeps.via updSpn_keeps)
    | (with_reducible apply Keeps.via spnStart_keeps)
    | (with_reducible intro)
    | split
    | (dsimp -proj only)

theorem loadAll_keeps {s : State} :
    Keeps [.regs, .mot] s (loadAll s) := by
  unfold loadAll
  try dsimp -proj only
  repeat' first
    | (with_reducible apply Keeps.forN)
    | exact (rfl : _ = true)
    | (with_reducible exact Keeps.refl _ _)
    | assumption
    | (with_reducible exact (Keeps.refl _ _).mono rfl)
    | (with_reducible apply Keeps.ite <;> intro _)
    | (with_reducible apply Keeps.via loadHeads_keeps)
    | (with_reducible intro)
    | split
    | (dsimp -proj only)

theorem wakeGo_keeps {s : State} :
    Keeps [.regs, .pwr, .mot] s (wakeGo s) := by
  unfold wakeGo
  try dsimp -proj only
  repeat' first
    | exact (rfl : _ = true)
    | (with_reducible exact Keeps.refl _ _)
    | assumption
    | (with_reducible exact (Keeps.refl _ _).mono rfl)
    | (with_reducible apply Keeps.ite <;> intro _)
    | (with_reducible apply Keeps.via setF_keeps)
    | (with_reducible apply Keeps.via spnBring_keeps)
    | (with_reducible apply Keeps.via loadAll_keeps)
    | (dsimp -proj only [keepsMk]; with_reducible apply KeepsMk.upd_pwr)
    | (with_reducible intro)
    | split
    | (dsimp -proj only)

theorem wakeRequest_keeps {tell : Bool} {s : State} :
    Keeps [.regs, .pwr, .pair, .mot, .outbox] s (wakeRequest tell s) := by
  unfold wakeRequest
  try dsimp -proj only
  repeat' first
    | exact (rfl : _ = true)
    | (with_reducible exact Keeps.refl _ _)
    | assumption
    | (with_reducible exact (Keeps.refl _ _).mono rfl)
    | (with_reducible apply Keeps.ite <;> intro _)
    | (with_reducible apply Keeps.via nalSend_keeps)
    | (with_reducible apply Keeps.via wakeGo_keeps)
    | (dsimp -proj only [keepsMk]; with_reducible apply KeepsMk.upd_pwr)
    | (with_reducible intro)
    | split
    | (dsimp -proj only)

theorem fanStart_keeps {f : Nat} {back : Nat} {s : State} :
    Keeps [.regs] s (fanStart f back s) := by
  unfold fanStart
  try dsimp -proj only
  repeat' first
    | exact (rfl : _ = true)
    | (with_reducible exact Keeps.refl _ _)
    | assumption
    | (with_reducible exact (Keeps.refl _ _).mono rfl)
    | (with_reducible apply Keeps.ite <;> intro _)
    | (with_reducible apply Keeps.via setF_keeps)
    | (with_reducible apply Keeps.via setB_keeps)
    | (with_reducible intro)
    | split
    | (dsimp -proj only)

theorem fanStop_keeps {f : Nat} {s : State} :
    Keeps [.regs, .mot] s (fanStop f s) := by
  unfold fanStop
  try dsimp -proj only
  repeat' first
    | exact (rfl : _ = true)
    | (with_reducible exact Keeps.refl _ _)
    | assumption
    | (with_reducible exact (Keeps.refl _ _).mono rfl)
    | (with_reducible apply Keeps.via setF_keeps)
    | (with_reducible apply Keeps.via coastFan_keeps)
    | (with_reducible apply Keeps.via updFan_keeps)
    | (with_reducible intro)
    | (dsimp -proj only)

end Sys2Proof.Machine
end

