-- ==== Sys2Proof/Laws/KeepAirMovers.lean ====
section
/-! SUPPORT. What each operation of Machine/AirMovers.lean keeps (`Keeps`). -/

set_option Elab.async false

namespace Sys2Proof.Machine

theorem fanFinish_keeps {f : Nat} {s : State} :
    Keeps [.mbx] s (fanFinish f s) := by
  unfold fanFinish
  try dsimp -proj only
  repeat' first
    | exact (rfl : _ = true)
    | (with_reducible exact Keeps.refl _ _)
    | assumption
    | (with_reducible exact (Keeps.refl _ _).mono rfl)
    | (with_reducible apply Keeps.via mbxFinish_keeps)
    | (with_reducible intro)
    | (dsimp -proj only)

end Sys2Proof.Machine
end

