-- ==== Sys2Proof/Laws/KeepClkOps.lean ====
section
/-! SUPPORT. What each operation of Machine/ClkOps.lean keeps (`Keeps`). -/

set_option Elab.async false

namespace Sys2Proof.Machine

theorem pllStore_keeps {i : Nat} {w : Word} {s : State} :
    Keeps [.regs, .clk] s (pllStore i w s) := by
  unfold pllStore
  try dsimp -proj only
  repeat' first
    | exact (rfl : _ = true)
    | (with_reducible exact Keeps.refl _ _)
    | assumption
    | (with_reducible exact (Keeps.refl _ _).mono rfl)
    | (with_reducible apply Keeps.ite <;> intro _)
    | (with_reducible apply Keeps.via wr_keeps)
    | (with_reducible apply Keeps.via pllGates_keeps)
    | (with_reducible intro)
    | split
    | (dsimp -proj only)

theorem sscStore_keeps {j : Nat} {w : Word} {s : State} :
    Keeps [.regs, .clk] s (sscStore j w s) := by
  unfold sscStore
  try dsimp -proj only
  repeat' first
    | (with_reducible rfl)
    | exact (rfl : _ = true)
    | (with_reducible exact Keeps.refl _ _)
    | assumption
    | (with_reducible exact (Keeps.refl _ _).mono rfl)
    | (with_reducible apply Keeps.via wr_keeps)
    | (dsimp -proj only [keepsMk]; with_reducible apply KeepsMk.upd_clk)
    | (with_reducible intro)
    | (simp [modAt_length]; done)
    | (simp [setAt_length]; done)
    | (simp only [List.length_mapIdx, List.length_map]; done)
    | (simp [MotSt.units, modAt_length, setAt_length]; done)
    | (dsimp -proj only)

end Sys2Proof.Machine
end

