-- ==== Sys2Proof/Laws/KeepFlashOps.lean ====
section
/-! SUPPORT. What each operation of Machine/FlashOps.lean keeps (`Keeps`). -/

set_option Elab.async false

namespace Sys2Proof.Machine

theorem updChan_keeps {c : Nat} {f : ChanNv → ChanNv} {s : State} :
    Keeps [.tier] s (updChan c f s) := by
  unfold updChan
  try dsimp -proj only
  repeat' first
    | exact (rfl : _ = true)
    | (with_reducible exact Keeps.refl _ _)
    | assumption
    | (with_reducible exact (Keeps.refl _ _).mono rfl)
    | (dsimp -proj only [keepsMk]; with_reducible apply KeepsMk.upd_tier)
    | (with_reducible intro)
    | (dsimp -proj only)

theorem updBlk_keeps {c : Nat} {d : Nat} {b : Nat} {f : Blk → Blk} {s : State} :
    Keeps [.tier] s (updBlk c d b f s) := by
  unfold updBlk
  try dsimp -proj only
  repeat' first
    | exact (rfl : _ = true)
    | (with_reducible exact Keeps.refl _ _)
    | assumption
    | (with_reducible exact (Keeps.refl _ _).mono rfl)
    | (dsimp -proj only [keepsMk]; with_reducible apply KeepsMk.upd_tier)
    | (with_reducible intro)
    | (dsimp -proj only)

theorem setPageBad_keeps {p : Nat} {b : Bool} {s : State} :
    Keeps [.bad] s (setPageBad p b s) := by
  unfold setPageBad
  try dsimp -proj only
  repeat' first
    | exact (rfl : _ = true)
    | (with_reducible exact Keeps.refl _ _)
    | assumption
    | (with_reducible exact (Keeps.refl _ _).mono rfl)
    | (with_reducible apply Keeps.ite <;> intro _)
    | (dsimp -proj only [keepsMk]; with_reducible apply KeepsMk.upd_bad)
    | (with_reducible intro)
    | split
    | (dsimp -proj only)

theorem progInto_keeps {b : Blk} {jr : Bool} {pk : Nat} {g : Nat} {lfp : Nat} {data : List Byte} {s : State} :
    Keeps [.regs, .mem, .bad, .flt, .pcie, .tier, .outbox, .nvFaultLog, .nvLogNext] s (progInto b jr pk g lfp data s).2 := by
  unfold progInto
  try dsimp -proj only
  repeat' first
    | exact (rfl : _ = true)
    | (with_reducible exact Keeps.refl _ _)
    | assumption
    | (with_reducible exact (Keeps.refl _ _).mono rfl)
    | (with_reducible apply Keeps.ite <;> intro _)
    | (with_reducible apply Keeps.via memWrite_keeps)
    | (with_reducible apply Keeps.via count_keeps)
    | (with_reducible apply Keeps.via health_keeps)
    | (with_reducible apply Keeps.via updBlk_keeps)
    | (with_reducible apply Keeps.via setPageBad_keeps)
    | (dsimp -proj only [keepsMk]; with_reducible apply KeepsMk.upd_tier)
    | (with_reducible intro)
    | split
    | (dsimp only)

theorem retireBlk_keeps {c : Nat} {d : Nat} {b : Nat} {s : State} :
    Keeps [.regs, .tier] s (retireBlk c d b s) := by
  unfold retireBlk
  try dsimp -proj only
  repeat' first
    | exact (rfl : _ = true)
    | (with_reducible exact Keeps.refl _ _)
    | assumption
    | (with_reducible exact (Keeps.refl _ _).mono rfl)
    | (with_reducible apply Keeps.ite <;> intro _)
    | (with_reducible apply Keeps.via setF_keeps)
    | (with_reducible apply Keeps.via updChan_keeps)
    | (with_reducible apply Keeps.via updBlk_keeps)
    | (with_reducible intro)
    | split
    | (dsimp -proj only)

theorem mapPage_keeps {g : Nat} {lfp : Nat} {p : Nat} {s : State} :
    Keeps [.regs, .mem, .bad, .free, .flt, .pcie, .memc, .tier, .outbox, .nvFaultLog, .nvLogNext] s (mapPage g lfp p s) := by
  unfold mapPage
  try dsimp -proj only
  repeat' first
    | exact (rfl : _ = true)
    | (with_reducible exact Keeps.refl _ _)
    | assumption
    | (with_reducible exact (Keeps.refl _ _).mono rfl)
    | (with_reducible apply Keeps.ite <;> intro _)
    | (with_reducible apply Keeps.via reqStore_keeps)
    | (dsimp -proj only [keepsMk]; with_reducible apply KeepsMk.upd_tier)
    | (with_reducible intro)
    | split
    | (dsimp -proj only)

theorem unmapPage_keeps {g : Nat} {lfp : Nat} {s : State} :
    Keeps [.regs, .mem, .bad, .free, .flt, .pcie, .memc, .tier, .outbox, .nvFaultLog, .nvLogNext] s (unmapPage g lfp s) := by
  unfold unmapPage
  try dsimp -proj only
  repeat' first
    | exact (rfl : _ = true)
    | (with_reducible exact Keeps.refl _ _)
    | assumption
    | (with_reducible exact (Keeps.refl _ _).mono rfl)
    | (with_reducible apply Keeps.ite <;> intro _)
    | (with_reducible apply Keeps.via reqStore_keeps)
    | (dsimp -proj only [keepsMk]; with_reducible apply KeepsMk.upd_tier)
    | (with_reducible intro)
    | split
    | (dsimp -proj only)

theorem roEnter_keeps {s : State} :
    Keeps [.regs, .pwr, .bring, .flt, .mbx, .grants, .pins, .pcie, .journal, .clk, .fs, .tier, .mot, .outbox, .nvFaultLog, .nvLogNext] s (roEnter s) := by
  unfold roEnter
  try dsimp -proj only
  repeat' first
    | exact (rfl : _ = true)
    | (with_reducible exact Keeps.refl _ _)
    | assumption
    | (with_reducible exact (Keeps.refl _ _).mono rfl)
    | (with_reducible apply Keeps.via setF_keeps)
    | (with_reducible apply Keeps.via raise_keeps)
    | (dsimp -proj only [keepsMk]; with_reducible apply KeepsMk.upd_tier)
    | (with_reducible intro)
    | (dsimp -proj only)

theorem roGive_keeps {s : State} :
    Keeps [.pair] s (roGive s) := by
  unfold roGive
  try dsimp -proj only
  repeat' first
    | exact (rfl : _ = true)
    | (with_reducible exact Keeps.refl _ _)
    | assumption
    | (with_reducible exact (Keeps.refl _ _).mono rfl)
    | (with_reducible apply Keeps.ite <;> intro _)
    | (dsimp -proj only [keepsMk]; with_reducible apply KeepsMk.upd_pair)
    | (with_reducible intro)
    | split
    | (dsimp -proj only)

theorem flashRoCheck_keeps {s : State} :
    Keeps [.regs, .pwr, .bring, .flt, .mbx, .grants, .pair, .pins, .pcie, .journal, .clk, .fs, .tier, .mot, .outbox, .nvFaultLog, .nvLogNext] s (flashRoCheck s) := by
  unfold flashRoCheck
  try dsimp -proj only
  repeat' first
    | exact (rfl : _ = true)
    | (with_reducible exact Keeps.refl _ _)
    | assumption
    | (with_reducible exact (Keeps.refl _ _).mono rfl)
    | (with_reducible apply Keeps.ite <;> intro _)
    | (with_reducible apply Keeps.via wakeRequest_keeps)
    | (with_reducible apply Keeps.via roEnter_keeps)
    | (with_reducible apply Keeps.via roGive_keeps)
    | (with_reducible intro)
    | split
    | (dsimp -proj only)

theorem updRun_keeps {a : Nat} {b : Nat} {f : RunEnt → RunEnt} {s : State} :
    Keeps [.tier] s (updRun a b f s) := by
  unfold updRun
  try dsimp -proj only
  repeat' first
    | exact (rfl : _ = true)
    | (with_reducible exact Keeps.refl _ _)
    | assumption
    | (with_reducible exact (Keeps.refl _ _).mono rfl)
    | (dsimp -proj only [keepsMk]; with_reducible apply KeepsMk.upd_tier)
    | (with_reducible intro)
    | (dsimp -proj only)

end Sys2Proof.Machine
end

