-- ==== Sys2Proof/Laws/KeepRack.lean ====
section
/-! SUPPORT. What each operation of Machine/Rack.lean keeps (`Keeps`). -/

set_option Elab.async false

namespace Sys2Proof.Machine

theorem setKind_keeps {k : Nat} {b : Bool} {s : State} :
    Keeps [.fl] s (setKind k b s) := by
  unfold setKind
  try dsimp -proj only
  repeat' first
    | exact (rfl : _ = true)
    | (with_reducible exact Keeps.refl _ _)
    | assumption
    | (with_reducible exact (Keeps.refl _ _).mono rfl)
    | (dsimp -proj only [keepsMk]; with_reducible apply KeepsMk.upd_fl)
    | (with_reducible intro)
    | (dsimp -proj only)

theorem addMove_keeps {m : Move} {s : State} :
    Keeps [.fl] s (addMove m s) := by
  unfold addMove
  try dsimp -proj only
  repeat' first
    | exact (rfl : _ = true)
    | (with_reducible exact Keeps.refl _ _)
    | assumption
    | (with_reducible exact (Keeps.refl _ _).mono rfl)
    | (dsimp -proj only [keepsMk]; with_reducible apply KeepsMk.upd_fl)
    | (with_reducible intro)
    | (dsimp -proj only)

theorem startBlk_keeps {k : Nat} {g : Nat} {x : Blk} {s : State} :
    Keeps [.fl, .tier] s (startBlk k g x s) := by
  unfold startBlk
  try dsimp -proj only
  repeat' first
    | (with_reducible apply Keeps.foldl)
    | exact (rfl : _ = true)
    | (with_reducible exact Keeps.refl _ _)
    | assumption
    | (with_reducible exact (Keeps.refl _ _).mono rfl)
    | (with_reducible apply Keeps.ite <;> intro _)
    | (with_reducible apply Keeps.via updBlk_keeps)
    | (with_reducible apply Keeps.via addMove_keeps)
    | (with_reducible intro)
    | split
    | (dsimp -proj only)

theorem updMove_keeps {id : Nat} {f : Move → Move} {s : State} :
    Keeps [.fl] s (updMove id f s) := by
  unfold updMove
  try dsimp -proj only
  repeat' first
    | exact (rfl : _ = true)
    | (with_reducible exact Keeps.refl _ _)
    | assumption
    | (with_reducible exact (Keeps.refl _ _).mono rfl)
    | (with_reducible apply Keeps.ite <;> intro _)
    | (dsimp -proj only [keepsMk]; with_reducible apply KeepsMk.upd_fl)
    | (with_reducible intro)
    | split
    | (dsimp -proj only)

theorem startRun_keeps {k : Nat} {g : Nat} {r : RunEnt} {tgt : Option (Nat × Nat)} {s : State} :
    Keeps [.fl, .tier] s (startRun k g r tgt s) := by
  unfold startRun
  try dsimp -proj only
  repeat' first
    | exact (rfl : _ = true)
    | (with_reducible exact Keeps.refl _ _)
    | assumption
    | (with_reducible exact (Keeps.refl _ _).mono rfl)
    | (with_reducible apply Keeps.via updRun_keeps)
    | (with_reducible apply Keeps.via addMove_keeps)
    | (with_reducible intro)
    | (dsimp -proj only)

theorem rackStart_keeps {g : Nat} {k : Nat} {c : Nat} {band : Nat} {s : State} :
    Keeps [.fl, .tier] s (rackStart g k c band s) := by
  unfold rackStart
  try dsimp -proj only
  repeat' first
    | exact (rfl : _ = true)
    | (with_reducible exact Keeps.refl _ _)
    | assumption
    | (with_reducible exact (Keeps.refl _ _).mono rfl)
    | (with_reducible apply Keeps.ite <;> intro _)
    | (with_reducible apply Keeps.via updRun_keeps)
    | (with_reducible apply Keeps.via setKind_keeps)
    | (with_reducible apply Keeps.via addMove_keeps)
    | (with_reducible apply Keeps.via startBlk_keeps)
    | (with_reducible apply Keeps.via startRun_keeps)
    | (with_reducible refine Keeps.of_fst (by assumption) ?_)
    | (with_reducible refine Keeps.of_snd (by assumption) ?_)
    | (with_reducible intro)
    | split
    | (dsimp -proj only)

theorem postRun_keeps {m : Move} {a : Nat} {b : Nat} {recs : List (Nat × List Byte)} {s : State} :
    Keeps [.fs, .fl, .tier] s (postRun m a b recs s) := by
  unfold postRun
  try dsimp -proj only
  repeat' first
    | (with_reducible rfl)
    | exact (rfl : _ = true)
    | (with_reducible exact Keeps.refl _ _)
    | assumption
    | (with_reducible exact (Keeps.refl _ _).mono rfl)
    | (with_reducible apply Keeps.via updRun_keeps)
    | (with_reducible apply Keeps.via updMove_keeps)
    | (dsimp -proj only [keepsMk]; with_reducible apply KeepsMk.upd_fs)
    | (with_reducible intro)
    | (simp [modAt_length]; done)
    | (simp [setAt_length]; done)
    | (simp only [List.length_mapIdx, List.length_map]; done)
    | (simp [MotSt.units, modAt_length, setAt_length]; done)
    | (dsimp -proj only)

theorem rackSourceRead_keeps {m : Move} {bad : List Nat} {s : State} :
    Keeps [.regs, .pwr, .bring, .flt, .mbx, .grants, .pins, .pcie, .journal, .clk, .fs, .fl, .tier, .mot, .outbox, .nvFaultLog, .nvLogNext] s (rackSourceRead m bad s) := by
  unfold rackSourceRead
  try dsimp -proj only
  repeat' first
    | (with_reducible apply Keeps.foldl)
    | exact (rfl : _ = true)
    | (with_reducible exact Keeps.refl _ _)
    | assumption
    | (with_reducible exact (Keeps.refl _ _).mono rfl)
    | (with_reducible apply Keeps.via raise_keeps)
    | (with_reducible apply Keeps.via updRec_keeps)
    | (with_reducible apply Keeps.via updMove_keeps)
    | (with_reducible apply Keeps.via postRun_keeps)
    | (dsimp -proj only [keepsMk]; with_reducible apply KeepsMk.upd_tier)
    | (with_reducible refine Keeps.of_fst (by assumption) ?_)
    | (with_reducible refine Keeps.of_snd (by assumption) ?_)
    | (with_reducible intro)
    | split
    | (dsimp -proj only)

theorem moveUndo_keeps {m : Move} {s : State} :
    Keeps [.fl, .tier] s (moveUndo m s) := by
  unfold moveUndo
  try dsimp -proj only
  repeat' first
    | exact (rfl : _ = true)
    | (with_reducible exact Keeps.refl _ _)
    | assumption
    | (with_reducible exact (Keeps.refl _ _).mono rfl)
    | (with_reducible apply Keeps.ite <;> intro _)
    | (with_reducible apply Keeps.via updBlk_keeps)
    | (with_reducible apply Keeps.via updRun_keeps)
    | (dsimp -proj only [keepsMk]; with_reducible apply KeepsMk.upd_fl)
    | (with_reducible refine Keeps.of_fst (by assumption) ?_)
    | (with_reducible refine Keeps.of_snd (by assumption) ?_)
    | (with_reducible intro)
    | split
    | (dsimp -proj only)

theorem abandonMoves_keeps {p : Move → Bool} {s : State} :
    Keeps [.fl, .tier] s (abandonMoves p s) := by
  unfold abandonMoves
  try dsimp -proj only
  repeat' first
    | (with_reducible apply Keeps.foldl)
    | exact (rfl : _ = true)
    | (with_reducible exact Keeps.refl _ _)
    | assumption
    | (with_reducible exact (Keeps.refl _ _).mono rfl)
    | (with_reducible apply Keeps.via moveUndo_keeps)
    | (with_reducible intro)
    | (dsimp -proj only)

theorem rackRestart_keeps {m : Move} {s : State} :
    Keeps [.regs, .pwr, .bring, .flt, .mbx, .grants, .pins, .pcie, .journal, .clk, .fs, .fl, .tier, .mot, .outbox, .nvFaultLog, .nvLogNext] s (rackRestart m s) := by
  unfold rackRestart
  try dsimp -proj only
  repeat' first
    | exact (rfl : _ = true)
    | (with_reducible exact Keeps.refl _ _)
    | assumption
    | (with_reducible exact (Keeps.refl _ _).mono rfl)
    | (with_reducible apply Keeps.via count_keeps)
    | (with_reducible apply Keeps.via health_keeps)
    | (with_reducible apply Keeps.via raise_keeps)
    | (with_reducible apply Keeps.via updMove_keeps)
    | (with_reducible apply Keeps.via postRun_keeps)
    | (with_reducible apply Keeps.via moveUndo_keeps)
    | (with_reducible refine Keeps.of_fst (by assumption) ?_)
    | (with_reducible refine Keeps.of_snd (by assumption) ?_)
    | (with_reducible intro)
    | split
    | (dsimp -proj only)

theorem runFailed_keeps {m : Move} {a : Nat} {b : Nat} {s : State} :
    Keeps [.regs, .pwr, .bring, .flt, .mbx, .grants, .pins, .pcie, .journal, .clk, .fs, .fl, .tier, .mot, .outbox, .nvFaultLog, .nvLogNext] s (runFailed m a b s) := by
  unfold runFailed
  try dsimp -proj only
  repeat' first
    | exact (rfl : _ = true)
    | (with_reducible exact Keeps.refl _ _)
    | assumption
    | (with_reducible exact (Keeps.refl _ _).mono rfl)
    | (with_reducible apply Keeps.ite <;> intro _)
    | (with_reducible apply Keeps.via health_keeps)
    | (with_reducible apply Keeps.via raise_keeps)
    | (with_reducible apply Keeps.via updRun_keeps)
    | (with_reducible apply Keeps.via rackRestart_keeps)
    | (with_reducible intro)
    | split
    | (dsimp -proj only)

theorem bandsUsable_keeps {a : Nat} {s : State} :
    Keeps [.tier] s (bandsUsable a s) := by
  unfold bandsUsable
  try dsimp -proj only
  repeat' first
    | exact (rfl : _ = true)
    | (with_reducible exact Keeps.refl _ _)
    | assumption
    | (with_reducible exact (Keeps.refl _ _).mono rfl)
    | (with_reducible apply Keeps.ite <;> intro _)
    | (dsimp -proj only [keepsMk]; with_reducible apply KeepsMk.upd_tier)
    | (with_reducible intro)
    | split
    | (dsimp -proj only)

theorem runWritten_keeps {m : Move} {a : Nat} {b : Nat} {mask : Nat} {done : Nat} {k0 : Nat} {n : Nat} {s : State} :
    Keeps [.regs, .mem, .pwr, .bring, .flt, .mbx, .grants, .pins, .pcie, .journal, .clk, .fs, .fl, .tier, .mot, .outbox, .nvFaultLog, .nvLogNext] s (runWritten m a b mask done k0 n s) := by
  unfold runWritten
  try dsimp -proj only
  repeat' first
    | exact (rfl : _ = true)
    | (with_reducible exact Keeps.refl _ _)
    | assumption
    | (with_reducible exact (Keeps.refl _ _).mono rfl)
    | (with_reducible apply Keeps.ite <;> intro _)
    | (with_reducible apply Keeps.via memWrite_keeps)
    | (with_reducible apply Keeps.via updRun_keeps)
    | (with_reducible apply Keeps.via updMove_keeps)
    | (with_reducible apply Keeps.via runFailed_keeps)
    | (with_reducible intro)
    | split
    | (dsimp -proj only)

theorem rackCommit_keeps {m : Move} {s : State} :
    Keeps [.regs, .mem, .bad, .free, .flt, .pair, .pcie, .memc, .fl, .tier, .red, .outbox, .nvFaultLog, .nvLogNext] s (rackCommit m s) := by
  unfold rackCommit
  try dsimp -proj only
  repeat' first
    | (with_reducible apply Keeps.foldl)
    | exact (rfl : _ = true)
    | (with_reducible exact Keeps.refl _ _)
    | assumption
    | (with_reducible exact (Keeps.refl _ _).mono rfl)
    | (with_reducible apply Keeps.ite <;> intro _)
    | (with_reducible apply Keeps.via count_keeps)
    | (with_reducible apply Keeps.via updRec_keeps)
    | (with_reducible apply Keeps.via runLive_keeps)
    | (with_reducible apply Keeps.via jRecord_keeps)
    | (with_reducible apply Keeps.via mapPage_keeps)
    | (with_reducible apply Keeps.via updRun_keeps)
    | (with_reducible apply Keeps.via updMove_keeps)
    | (dsimp -proj only [keepsMk]; first | with_reducible apply KeepsMk.upd_red | with_reducible apply KeepsMk.upd_fl)
    | (with_reducible refine Keeps.of_fst (by assumption) ?_)
    | (with_reducible refine Keeps.of_snd (by assumption) ?_)
    | (with_reducible intro)
    | split
    | (dsimp -proj only)

theorem releaseBlk_keeps {c : Nat} {d : Nat} {b : Nat} {s : State} :
    Keeps [.regs, .mem, .bad, .free, .flt, .pcie, .memc, .tier, .outbox, .nvFaultLog, .nvLogNext] s (releaseBlk c d b s) := by
  unfold releaseBlk
  try dsimp -proj only
  repeat' first
    | (with_reducible apply Keeps.foldl)
    | exact (rfl : _ = true)
    | (with_reducible exact Keeps.refl _ _)
    | assumption
    | (with_reducible exact (Keeps.refl _ _).mono rfl)
    | (with_reducible apply Keeps.ite <;> intro _)
    | (with_reducible apply Keeps.via updBlk_keeps)
    | (with_reducible apply Keeps.via unmapPage_keeps)
    | (with_reducible intro)
    | split
    | (dsimp -proj only)

theorem moveRelease_keeps {m : Move} {s : State} :
    Keeps [.regs, .mem, .bad, .free, .flt, .pair, .pcie, .memc, .fl, .tier, .outbox, .nvFaultLog, .nvLogNext] s (moveRelease m s) := by
  unfold moveRelease
  try dsimp -proj only
  repeat' first
    | exact (rfl : _ = true)
    | (with_reducible exact Keeps.refl _ _)
    | assumption
    | (with_reducible exact (Keeps.refl _ _).mono rfl)
    | (with_reducible apply Keeps.ite <;> intro _)
    | (with_reducible apply Keeps.via nalSend_keeps)
    | (with_reducible apply Keeps.via updRun_keeps)
    | (with_reducible apply Keeps.via releaseBlk_keeps)
    | (dsimp -proj only [keepsMk]; with_reducible apply KeepsMk.upd_fl)
    | (with_reducible refine Keeps.of_fst (by assumption) ?_)
    | (with_reducible refine Keeps.of_snd (by assumption) ?_)
    | (with_reducible intro)
    | split
    | (dsimp -proj only)

end Sys2Proof.Machine
end

