-- ==== Sys2Proof/Laws/KeepFlash.lean ====
section
/-! SUPPORT. What each operation of Machine/Flash.lean keeps (`Keeps`). -/

set_option Elab.async false

namespace Sys2Proof.Machine

theorem programFailed_keeps {c : Nat} {d : Nat} {b : Blk} {s : State} :
    Keeps [.regs, .pwr, .bring, .flt, .mbx, .grants, .pair, .pins, .pcie, .journal, .clk, .fs, .tier, .mot, .outbox, .nvFaultLog, .nvLogNext] s (programFailed c d b s) := by
  unfold programFailed
  try dsimp -proj only
  repeat' first
    | exact (rfl : _ = true)
    | (with_reducible exact Keeps.refl _ _)
    | assumption
    | (with_reducible exact (Keeps.refl _ _).mono rfl)
    | (with_reducible apply Keeps.via setF_keeps)
    | (with_reducible apply Keeps.via health_keeps)
    | (with_reducible apply Keeps.via raise_keeps)
    | (with_reducible apply Keeps.via retireBlk_keeps)
    | (with_reducible apply Keeps.via flashRoCheck_keeps)
    | (with_reducible intro)
    | (dsimp -proj only)

theorem journalPages_keeps {c d g n : Nat} {l : List Byte} {s t : State} (h : journalPages c d g n l s = some t) :
    Keeps [.regs, .mem, .bad, .flt, .pcie, .tier, .outbox, .nvFaultLog, .nvLogNext] s t := by
  induction n generalizing l s with
  | zero => cases h; exact Keeps.refl _ _
  | succ n ih =>
    unfold journalPages at h
    split at h
    · cases h
    · exact Keeps.trans (progInto_keeps.mono rfl) (ih h)


theorem stageDone_keeps {g : Nat} {p : Nat} {s : State} :
    Keeps [.regs, .mem, .bad, .free, .flt, .pair, .pcie, .memc, .fl, .tier, .red, .outbox, .nvFaultLog, .nvLogNext] s (stageDone g p s) := by
  unfold stageDone
  try dsimp -proj only
  repeat' first
    | exact (rfl : _ = true)
    | (with_reducible exact Keeps.refl _ _)
    | assumption
    | (with_reducible exact (Keeps.refl _ _).mono rfl)
    | (with_reducible apply Keeps.ite <;> intro _)
    | (with_reducible apply Keeps.via jRecord_keeps)
    | (with_reducible apply Keeps.via mapPage_keeps)
    | (dsimp -proj only [keepsMk]; first | with_reducible apply KeepsMk.upd_fl | with_reducible apply KeepsMk.upd_red)
    | (with_reducible refine Keeps.of_fst (by assumption) ?_)
    | (with_reducible refine Keeps.of_snd (by assumption) ?_)
    | (with_reducible intro)
    | split
    | (dsimp -proj only)

theorem dieRetireDone_keeps {s : State} :
    Keeps [.mbx, .fl] s (dieRetireDone s) := by
  unfold dieRetireDone
  try dsimp -proj only
  repeat' first
    | (with_reducible apply Keeps.foldl)
    | exact (rfl : _ = true)
    | (with_reducible exact Keeps.refl _ _)
    | assumption
    | (with_reducible exact (Keeps.refl _ _).mono rfl)
    | (with_reducible apply Keeps.via mbxSetResult_keeps)
    | (dsimp -proj only [keepsMk]; with_reducible apply KeepsMk.upd_fl)
    | (with_reducible intro)
    | (dsimp -proj only)

theorem rackPolicy_keeps {l : List Byte} {s : State} :
    Keeps [.regs] s (rackPolicy l s) := by
  unfold rackPolicy
  try dsimp -proj only
  repeat' first
    | exact (rfl : _ = true)
    | (with_reducible exact Keeps.refl _ _)
    | assumption
    | (with_reducible exact (Keeps.refl _ _).mono rfl)
    | (with_reducible apply Keeps.ite <;> intro _)
    | (with_reducible apply Keeps.via wr_keeps)
    | (with_reducible intro)
    | split
    | (dsimp -proj only)

end Sys2Proof.Machine
end

