-- ==== Sys2Proof/Laws/KeepHostOps.lean ====
section
/-! SUPPORT. What each operation of Machine/HostOps.lean keeps (`Keeps`). -/

set_option Elab.async false

namespace Sys2Proof.Machine

theorem updCtrl_keeps {id : Nat} {f : NvCtrl → NvCtrl} {s : State} :
    Keeps [.host] s (updCtrl id f s) := by
  unfold updCtrl
  try dsimp -proj only
  repeat' first
    | (with_reducible rfl)
    | exact (rfl : _ = true)
    | (with_reducible exact Keeps.refl _ _)
    | assumption
    | (with_reducible exact (Keeps.refl _ _).mono rfl)
    | (with_reducible apply Keeps.ite <;> intro _)
    | (dsimp -proj only [keepsMk]; with_reducible apply KeepsMk.upd_host)
    | (with_reducible exact natq_id)
    | (with_reducible exact natq_mod)
    | (with_reducible exact natq_map)
    | (with_reducible exact natq_reset)
    | (with_reducible intro)
    | split
    | (simp [modAt_length]; done)
    | (simp [setAt_length]; done)
    | (simp only [List.length_mapIdx, List.length_map]; done)
    | (simp [MotSt.units, modAt_length, setAt_length]; done)
    | (dsimp -proj only)

theorem updSq_keeps {id : Nat} {q : Nat} {f : NvSq → NvSq} {s : State} :
    Keeps [.host] s (updSq id q f s) := by
  unfold updSq
  try dsimp -proj only
  repeat' first
    | exact (rfl : _ = true)
    | (with_reducible exact Keeps.refl _ _)
    | assumption
    | (with_reducible exact (Keeps.refl _ _).mono rfl)
    | (with_reducible apply Keeps.ite <;> intro _)
    | (with_reducible apply Keeps.via updCtrl_keeps)
    | (with_reducible intro)
    | split
    | (dsimp -proj only)

theorem updCq_keeps {id : Nat} {q : Nat} {f : NvCq → NvCq} {s : State} :
    Keeps [.host] s (updCq id q f s) := by
  unfold updCq
  try dsimp -proj only
  repeat' first
    | exact (rfl : _ = true)
    | (with_reducible exact Keeps.refl _ _)
    | assumption
    | (with_reducible exact (Keeps.refl _ _).mono rfl)
    | (with_reducible apply Keeps.ite <;> intro _)
    | (with_reducible apply Keeps.via updCtrl_keeps)
    | (with_reducible intro)
    | split
    | (dsimp -proj only)

theorem nvmRefresh_keeps {s : State} :
    Keeps [.regs] s (nvmRefresh s) := by
  unfold nvmRefresh
  try dsimp -proj only
  repeat' first
    | exact (rfl : _ = true)
    | (with_reducible exact Keeps.refl _ _)
    | assumption
    | (with_reducible exact (Keeps.refl _ _).mono rfl)
    | (with_reducible apply Keeps.via setF_keeps)
    | (with_reducible apply Keeps.via setB_keeps)
    | (with_reducible intro)
    | (dsimp -proj only)

theorem cqIrq_keeps {id : Nat} {q : Nat} {s : State} :
    Keeps [.pcie, .host, .outbox] s (cqIrq id q s) := by
  unfold cqIrq
  try dsimp -proj only
  repeat' first
    | exact (rfl : _ = true)
    | (with_reducible exact Keeps.refl _ _)
    | assumption
    | (with_reducible exact (Keeps.refl _ _).mono rfl)
    | (with_reducible apply Keeps.ite <;> intro _)
    | (with_reducible apply Keeps.via msix_keeps)
    | (with_reducible apply Keeps.via updCq_keeps)
    | (with_reducible refine Keeps.of_fst (by assumption) ?_)
    | (with_reducible refine Keeps.of_snd (by assumption) ?_)
    | (with_reducible intro)
    | split
    | (dsimp -proj only)

theorem cqeWrite_keeps {id : Nat} {sq : NvSq} {x : NvCq} {cid : Nat} {st : Nat} {dw0 : Nat} {dw1 : Nat} {s : State} :
    Keeps [.mem, .pcie, .host, .outbox] s (cqeWrite id sq x cid st dw0 dw1 s) := by
  unfold cqeWrite
  try dsimp -proj only
  repeat' first
    | exact (rfl : _ = true)
    | (with_reducible exact Keeps.refl _ _)
    | assumption
    | (with_reducible exact (Keeps.refl _ _).mono rfl)
    | (with_reducible apply Keeps.ite <;> intro _)
    | (with_reducible apply Keeps.via memWrite_keeps)
    | (with_reducible apply Keeps.via updCq_keeps)
    | (with_reducible apply Keeps.via cqIrq_keeps)
    | (with_reducible intro)
    | split
    | (dsimp -proj only)

theorem nvPost_keeps {id : Nat} {q : Nat} {cid : Nat} {st : Nat} {dw0 : Nat} {dw1 : Nat} {s : State} :
    Keeps [.regs, .mem, .pwr, .bring, .flt, .mbx, .grants, .pins, .pcie, .journal, .clk, .fs, .host, .mot, .outbox, .nvFaultLog, .nvLogNext] s (nvPost id q cid st dw0 dw1 s) := by
  unfold nvPost
  try dsimp -proj only
  repeat' first
    | exact (rfl : _ = true)
    | (with_reducible exact Keeps.refl _ _)
    | assumption
    | (with_reducible exact (Keeps.refl _ _).mono rfl)
    | (with_reducible apply Keeps.ite <;> intro _)
    | (with_reducible apply Keeps.via send_keeps)
    | (with_reducible apply Keeps.via msix_keeps)
    | (with_reducible apply Keeps.via raise_keeps)
    | (with_reducible apply Keeps.via updSq_keeps)
    | (with_reducible apply Keeps.via cqeWrite_keeps)
    | (with_reducible refine Keeps.of_fst (by assumption) ?_)
    | (with_reducible refine Keeps.of_snd (by assumption) ?_)
    | (with_reducible intro)
    | split
    | (dsimp -proj only)

theorem nvDrain_keeps {id : Nat} {q : Nat} {y0 : Nat} {y1 : State} :
    Keeps [.mem, .pcie, .host, .outbox] y1 (nvDrain id q y0 y1) := by
  induction y0 generalizing y1 with
  | zero => exact Keeps.refl _ _
  | succ k ih =>
  unfold nvDrain
  try dsimp -proj only
  repeat' first
    | (with_reducible apply Keeps.trans; rotate_left; apply ih)
    | exact (rfl : _ = true)
    | (with_reducible exact Keeps.refl _ _)
    | assumption
    | (with_reducible exact (Keeps.refl _ _).mono rfl)
    | (with_reducible apply Keeps.ite <;> intro _)
    | (with_reducible apply Keeps.via updSq_keeps)
    | (with_reducible apply Keeps.via cqeWrite_keeps)
    | (with_reducible refine Keeps.of_fst (by assumption) ?_)
    | (with_reducible refine Keeps.of_snd (by assumption) ?_)
    | (with_reducible intro)
    | split
    | (dsimp -proj only)
    | (dsimp -proj +zetaDelta only)

theorem nvDone_keeps {id : Nat} {q : Nat} {cid : Nat} {code : Nat} {rd : Bool} {s : State} :
    Keeps [.regs, .mem, .pwr, .bring, .flt, .mbx, .grants, .pins, .pcie, .journal, .clk, .fs, .host, .mot, .outbox, .nvFaultLog, .nvLogNext] s (nvDone id q cid code rd s) := by
  unfold nvDone
  try dsimp -proj only
  repeat' first
    | exact (rfl : _ = true)
    | (with_reducible exact Keeps.refl _ _)
    | assumption
    | (with_reducible exact (Keeps.refl _ _).mono rfl)
    | (with_reducible apply Keeps.ite <;> intro _)
    | (with_reducible apply Keeps.via updCtrl_keeps)
    | (with_reducible apply Keeps.via nvPost_keeps)
    | (with_reducible intro)
    | split
    | (dsimp -proj only)

theorem nvFail_keeps {id : Nat} {q : Nat} {cid : Nat} {st : Nat} {s : State} :
    Keeps [.regs, .mem, .pwr, .bring, .flt, .mbx, .grants, .pins, .pcie, .journal, .clk, .fs, .host, .mot, .outbox, .nvFaultLog, .nvLogNext] s (nvFail id q cid st s) := by
  unfold nvFail
  try dsimp -proj only
  repeat' first
    | exact (rfl : _ = true)
    | (with_reducible exact Keeps.refl _ _)
    | assumption
    | (with_reducible exact (Keeps.refl _ _).mono rfl)
    | (with_reducible apply Keeps.via updCtrl_keeps)
    | (with_reducible apply Keeps.via nvPost_keeps)
    | (with_reducible intro)
    | (dsimp -proj only)

theorem asyncEvent_keeps {id : Nat} {ty : Nat} {info : Nat} {page : Nat} {s : State} :
    Keeps [.regs, .mem, .pwr, .bring, .flt, .mbx, .grants, .pins, .pcie, .journal, .clk, .fs, .host, .mot, .outbox, .nvFaultLog, .nvLogNext] s (asyncEvent id ty info page s) := by
  unfold asyncEvent
  try dsimp -proj only
  repeat' first
    | exact (rfl : _ = true)
    | (with_reducible exact Keeps.refl _ _)
    | assumption
    | (with_reducible exact (Keeps.refl _ _).mono rfl)
    | (with_reducible apply Keeps.ite <;> intro _)
    | (with_reducible apply Keeps.via updCtrl_keeps)
    | (with_reducible apply Keeps.via nvPost_keeps)
    | (with_reducible refine Keeps.of_fst (by assumption) ?_)
    | (with_reducible refine Keeps.of_snd (by assumption) ?_)
    | (with_reducible intro)
    | split
    | (dsimp -proj only)

theorem nsChanged_keeps {v : Nat} {hosts : List (List Byte)} {s : State} :
    Keeps [.regs, .mem, .pwr, .bring, .flt, .mbx, .grants, .pins, .pcie, .journal, .clk, .fs, .host, .mot, .outbox, .nvFaultLog, .nvLogNext] s (nsChanged v hosts s) := by
  unfold nsChanged
  try dsimp -proj only
  repeat' first
    | (with_reducible apply Keeps.foldl)
    | exact (rfl : _ = true)
    | (with_reducible exact Keeps.refl _ _)
    | assumption
    | (with_reducible exact (Keeps.refl _ _).mono rfl)
    | (with_reducible apply Keeps.ite <;> intro _)
    | (with_reducible apply Keeps.via updCtrl_keeps)
    | (with_reducible apply Keeps.via asyncEvent_keeps)
    | (with_reducible intro)
    | split
    | (dsimp -proj only)

theorem anaEvent_keeps {s : State} :
    Keeps [.regs, .mem, .pwr, .bring, .flt, .mbx, .grants, .pins, .pcie, .journal, .clk, .fs, .host, .mot, .outbox, .nvFaultLog, .nvLogNext] s (anaEvent s) := by
  unfold anaEvent
  try dsimp -proj only
  repeat' first
    | (with_reducible apply Keeps.foldl)
    | exact (rfl : _ = true)
    | (with_reducible exact Keeps.refl _ _)
    | assumption
    | (with_reducible exact (Keeps.refl _ _).mono rfl)
    | (with_reducible apply Keeps.ite <;> intro _)
    | (with_reducible apply Keeps.via asyncEvent_keeps)
    | (with_reducible intro)
    | split
    | (dsimp -proj only)

theorem anaRefresh_keeps {s : State} :
    Keeps [.regs, .mem, .pwr, .bring, .flt, .mbx, .grants, .pins, .pcie, .journal, .clk, .fs, .host, .mot, .outbox, .nvFaultLog, .nvLogNext] s (anaRefresh s) := by
  unfold anaRefresh
  try dsimp -proj only
  repeat' first
    | exact (rfl : _ = true)
    | (with_reducible exact Keeps.refl _ _)
    | assumption
    | (with_reducible exact (Keeps.refl _ _).mono rfl)
    | (with_reducible apply Keeps.ite <;> intro _)
    | (with_reducible apply Keeps.via setF_keeps)
    | (with_reducible apply Keeps.via send_keeps)
    | (with_reducible apply Keeps.via anaEvent_keeps)
    | (with_reducible intro)
    | split
    | (dsimp -proj only)

theorem updNat_keeps {q : Nat} {f : NatQ → NatQ} {s : State} :
    Keeps [.host] s (updNat q f s) := by
  unfold updNat
  try dsimp -proj only
  repeat' first
    | (with_reducible rfl)
    | exact (rfl : _ = true)
    | (with_reducible exact Keeps.refl _ _)
    | assumption
    | (with_reducible exact (Keeps.refl _ _).mono rfl)
    | (dsimp -proj only [keepsMk]; with_reducible apply KeepsMk.upd_host)
    | (with_reducible exact natq_id)
    | (with_reducible exact natq_mod)
    | (with_reducible exact natq_map)
    | (with_reducible exact natq_reset)
    | (with_reducible intro)
    | (simp [modAt_length]; done)
    | (simp [setAt_length]; done)
    | (simp only [List.length_mapIdx, List.length_map]; done)
    | (simp [MotSt.units, modAt_length, setAt_length]; done)
    | (dsimp -proj only)

theorem readCqCons_keeps {q : Nat} {s : State} :
    Keeps [.host] s (readCqCons q s) := by
  unfold readCqCons
  try dsimp -proj only
  repeat' first
    | exact (rfl : _ = true)
    | (with_reducible exact Keeps.refl _ _)
    | assumption
    | (with_reducible exact (Keeps.refl _ _).mono rfl)
    | (with_reducible apply Keeps.ite <;> intro _)
    | (with_reducible apply Keeps.via updNat_keeps)
    | (with_reducible intro)
    | split
    | (dsimp -proj only)

theorem ringWrite_keeps {q : Nat} {b : List Byte} {s : State} :
    Keeps [.regs, .mem, .bad, .free, .flt, .pcie, .memc, .host, .outbox, .nvFaultLog, .nvLogNext] s (ringWrite q b s) := by
  unfold ringWrite
  try dsimp -proj only
  repeat' first
    | exact (rfl : _ = true)
    | (with_reducible exact Keeps.refl _ _)
    | assumption
    | (with_reducible exact (Keeps.refl _ _).mono rfl)
    | (with_reducible apply Keeps.ite <;> intro _)
    | (with_reducible apply Keeps.via send_keeps)
    | (with_reducible apply Keeps.via msix_keeps)
    | (with_reducible apply Keeps.via spaceStore_keeps)
    | (with_reducible apply Keeps.via updNat_keeps)
    | (with_reducible intro)
    | split
    | (dsimp -proj only)

theorem heldRefresh_keeps {q : Nat} {s : State} :
    Keeps [.regs] s (heldRefresh q s) := by
  unfold heldRefresh
  try dsimp -proj only
  repeat' first
    | exact (rfl : _ = true)
    | (with_reducible exact Keeps.refl _ _)
    | assumption
    | (with_reducible exact (Keeps.refl _ _).mono rfl)
    | (with_reducible apply Keeps.via setF_keeps)
    | (with_reducible apply Keeps.via setB_keeps)
    | (with_reducible intro)
    | (dsimp -proj only)

theorem natDrain_keeps {q : Nat} {y0 : Nat} {y1 : State} :
    Keeps [.regs, .mem, .bad, .free, .flt, .pcie, .memc, .host, .outbox, .nvFaultLog, .nvLogNext] y1 (natDrain q y0 y1) := by
  fun_induction natDrain q y0 y1
  all_goals try dsimp -proj only
  repeat' first
    | exact (rfl : _ = true)
    | (with_reducible exact Keeps.refl _ _)
    | assumption
    | (with_reducible apply Keeps.trans; rotate_left; assumption)
    | (with_reducible exact (Keeps.refl _ _).mono rfl)
    | (with_reducible apply Keeps.ite <;> intro _)
    | (with_reducible apply Keeps.via updNat_keeps)
    | (with_reducible apply Keeps.via ringWrite_keeps)
    | (with_reducible apply Keeps.via heldRefresh_keeps)
    | (with_reducible refine Keeps.of_fst (by assumption) ?_)
    | (with_reducible refine Keeps.of_snd (by assumption) ?_)
    | (with_reducible intro)
    | split
    | (dsimp -proj only)
    | (dsimp -proj +zetaDelta only)

theorem natPost_keeps {q : Nat} {b : List Byte} {s0 : State} :
    Keeps [.regs, .mem, .bad, .free, .pwr, .bring, .flt, .mbx, .grants, .pins, .pcie, .journal, .clk, .fs, .memc, .host, .mot, .outbox, .nvFaultLog, .nvLogNext] s0 (natPost q b s0) := by
  unfold natPost
  try dsimp -proj only
  repeat' first
    | exact (rfl : _ = true)
    | (with_reducible exact Keeps.refl _ _)
    | assumption
    | (with_reducible exact (Keeps.refl _ _).mono rfl)
    | (with_reducible apply Keeps.ite <;> intro _)
    | (with_reducible apply Keeps.via setF_keeps)
    | (with_reducible apply Keeps.via msix_keeps)
    | (with_reducible apply Keeps.via raise_keeps)
    | (with_reducible apply Keeps.via updNat_keeps)
    | (with_reducible apply Keeps.via readCqCons_keeps)
    | (with_reducible apply Keeps.via ringWrite_keeps)
    | (with_reducible apply Keeps.via heldRefresh_keeps)
    | (with_reducible apply Keeps.via natDrain_keeps)
    | (with_reducible intro)
    | split
    | (dsimp -proj only)

theorem natDone_keeps {q : Nat} {idx : Nat} {tag : Nat} {st : Nat} {info : Nat} {valid : Bool} {nocomp : Bool} {s : State} :
    Keeps [.regs, .mem, .bad, .free, .pwr, .bring, .flt, .mbx, .grants, .pins, .pcie, .journal, .clk, .fs, .memc, .host, .mot, .outbox, .nvFaultLog, .nvLogNext] s (natDone q idx tag st info valid nocomp s) := by
  unfold natDone
  try dsimp -proj only
  repeat' first
    | exact (rfl : _ = true)
    | (with_reducible exact Keeps.refl _ _)
    | assumption
    | (with_reducible exact (Keeps.refl _ _).mono rfl)
    | (with_reducible apply Keeps.ite <;> intro _)
    | (with_reducible apply Keeps.via natPost_keeps)
    | (with_reducible intro)
    | split
    | (dsimp -proj only)

theorem stopCheck_keeps {q : Nat} {s : State} :
    Keeps [.regs, .mbx, .host] s (stopCheck q s) := by
  unfold stopCheck
  try dsimp -proj only
  repeat' first
    | exact (rfl : _ = true)
    | (with_reducible exact Keeps.refl _ _)
    | assumption
    | (with_reducible exact (Keeps.refl _ _).mono rfl)
    | (with_reducible apply Keeps.ite <;> intro _)
    | (with_reducible apply Keeps.via setF_keeps)
    | (with_reducible apply Keeps.via mbxSetResult_keeps)
    | (with_reducible apply Keeps.via updNat_keeps)
    | (with_reducible refine Keeps.of_fst (by assumption) ?_)
    | (with_reducible refine Keeps.of_snd (by assumption) ?_)
    | (with_reducible intro)
    | split
    | (dsimp -proj only)

theorem natError_keeps {q : Nat} {idx : Nat} {n : Nat} {st : Nat} {s : State} :
    Keeps [.regs, .mem, .bad, .free, .flt, .pcie, .memc, .host, .outbox, .nvFaultLog, .nvLogNext] s (natError q idx n st s) := by
  unfold natError
  try dsimp -proj only
  repeat' first
    | exact (rfl : _ = true)
    | (with_reducible exact Keeps.refl _ _)
    | assumption
    | (with_reducible exact (Keeps.refl _ _).mono rfl)
    | (with_reducible apply Keeps.ite <;> intro _)
    | (with_reducible apply Keeps.via setF_keeps)
    | (with_reducible apply Keeps.via spaceStore_keeps)
    | (with_reducible apply Keeps.via updNat_keeps)
    | (with_reducible intro)
    | split
    | (dsimp -proj only)

theorem sluRefresh_keeps {s : State} :
    Keeps [.regs] s (sluRefresh s) := by
  unfold sluRefresh
  try dsimp -proj only
  repeat' first
    | exact (rfl : _ = true)
    | (with_reducible exact Keeps.refl _ _)
    | assumption
    | (with_reducible exact (Keeps.refl _ _).mono rfl)
    | (with_reducible apply Keeps.via setF_keeps)
    | (with_reducible intro)
    | (dsimp -proj only)

theorem enter_keeps {c : Cmd} {s : State} :
    Keeps [.regs, .host] s (enter c s) := by
  unfold enter
  try dsimp -proj only
  repeat' first
    | (with_reducible rfl)
    | exact (rfl : _ = true)
    | (with_reducible exact Keeps.refl _ _)
    | assumption
    | (with_reducible exact (Keeps.refl _ _).mono rfl)
    | (with_reducible apply Keeps.via sluRefresh_keeps)
    | (dsimp -proj only [keepsMk]; with_reducible apply KeepsMk.upd_host)
    | (with_reducible exact natq_id)
    | (with_reducible exact natq_mod)
    | (with_reducible exact natq_map)
    | (with_reducible exact natq_reset)
    | (with_reducible refine Keeps.of_fst (by assumption) ?_)
    | (with_reducible refine Keeps.of_snd (by assumption) ?_)
    | (with_reducible intro)
    | split
    | (simp [modAt_length]; done)
    | (simp [setAt_length]; done)
    | (simp only [List.length_mapIdx, List.length_map]; done)
    | (simp [MotSt.units, modAt_length, setAt_length]; done)
    | (dsimp -proj only)

theorem askPartner_keeps {kind : Nat} {ref_ : Nat} {args : List Nat} {s : State} :
    Keeps [.pair, .host, .outbox] s (askPartner kind ref_ args s) := by
  unfold askPartner
  try dsimp -proj only
  repeat' first
    | (with_reducible rfl)
    | exact (rfl : _ = true)
    | (with_reducible exact Keeps.refl _ _)
    | assumption
    | (with_reducible exact (Keeps.refl _ _).mono rfl)
    | (with_reducible apply Keeps.via nalSend_keeps)
    | (dsimp -proj only [keepsMk]; with_reducible apply KeepsMk.upd_host)
    | (with_reducible exact natq_id)
    | (with_reducible exact natq_mod)
    | (with_reducible exact natq_map)
    | (with_reducible exact natq_reset)
    | (with_reducible intro)
    | (simp [modAt_length]; done)
    | (simp [setAt_length]; done)
    | (simp only [List.length_mapIdx, List.length_map]; done)
    | (simp [MotSt.units, modAt_length, setAt_length]; done)
    | (dsimp -proj only)

theorem forwardMbx_keeps {m : Nat} {c : MbxCmd} {s : State} :
    Keeps [.pair, .host, .outbox] s (forwardMbx m c s).1 := by
  unfold forwardMbx
  try dsimp -proj only
  repeat' first
    | exact (rfl : _ = true)
    | (with_reducible exact Keeps.refl _ _)
    | assumption
    | (with_reducible exact (Keeps.refl _ _).mono rfl)
    | (with_reducible apply Keeps.ite <;> intro _)
    | (with_reducible apply Keeps.via answer_keeps)
    | (with_reducible apply Keeps.via askPartner_keeps)
    | (with_reducible intro)
    | split
    | (dsimp only)

theorem requestsLost_keeps {s : State} :
    Keeps [.mbx, .host] s (requestsLost s) := by
  unfold requestsLost
  try dsimp -proj only
  repeat' first
    | (with_reducible apply Keeps.foldl)
    | (with_reducible rfl)
    | exact (rfl : _ = true)
    | (with_reducible exact Keeps.refl _ _)
    | assumption
    | (with_reducible exact (Keeps.refl _ _).mono rfl)
    | (with_reducible apply Keeps.via mbxSetResult_keeps)
    | (with_reducible apply Keeps.via updCmd_keeps)
    | (dsimp -proj only [keepsMk]; with_reducible apply KeepsMk.upd_host)
    | (with_reducible exact natq_id)
    | (with_reducible exact natq_mod)
    | (with_reducible exact natq_map)
    | (with_reducible exact natq_reset)
    | (with_reducible refine Keeps.of_fst (by assumption) ?_)
    | (with_reducible refine Keeps.of_snd (by assumption) ?_)
    | (with_reducible intro)
    | split
    | (simp [modAt_length]; done)
    | (simp [setAt_length]; done)
    | (simp only [List.length_mapIdx, List.length_map]; done)
    | (simp [MotSt.units, modAt_length, setAt_length]; done)
    | (dsimp -proj only)

end Sys2Proof.Machine
end

