-- ==== Sys2Proof/Laws/KeepFetch.lean ====
section
/-! SUPPORT. What each operation of Machine/Fetch.lean keeps (`Keeps`). -/

set_option Elab.async false

namespace Sys2Proof.Machine

theorem putSqCons_keeps {q : Nat} {s : State} :
    Keeps [.regs, .mem, .bad, .free, .flt, .pcie, .memc, .outbox, .nvFaultLog, .nvLogNext] s (putSqCons q s) := by
  unfold putSqCons
  try dsimp -proj only
  repeat' first
    | exact (rfl : _ = true)
    | (with_reducible exact Keeps.refl _ _)
    | assumption
    | (with_reducible exact (Keeps.refl _ _).mono rfl)
    | (with_reducible apply Keeps.ite <;> intro _)
    | (with_reducible apply Keeps.via spaceStore_keeps)
    | (with_reducible intro)
    | split
    | (dsimp -proj only)

theorem natFetchLoop_keeps {q : Nat} {y0 : Nat} {y1 : State} :
    Keeps [.regs, .mem, .bad, .free, .flt, .pcie, .memc, .host, .outbox, .nvFaultLog, .nvLogNext] y1 (natFetchLoop q y0 y1) := by
  induction y0 generalizing y1 with
  | zero => exact Keeps.refl _ _
  | succ k ih =>
  unfold natFetchLoop
  try dsimp -proj only
  repeat' first
    | (with_reducible apply Keeps.trans; rotate_left; apply ih)
    | exact (rfl : _ = true)
    | (with_reducible exact Keeps.refl _ _)
    | assumption
    | (with_reducible exact (Keeps.refl _ _).mono rfl)
    | (with_reducible apply Keeps.ite <;> intro _)
    | (with_reducible apply Keeps.via updNat_keeps)
    | (with_reducible apply Keeps.via natError_keeps)
    | (with_reducible apply Keeps.via putSqCons_keeps)
    | (with_reducible refine Keeps.of_fst (by assumption) ?_)
    | (with_reducible refine Keeps.of_snd (by assumption) ?_)
    | (with_reducible intro)
    | split
    | (dsimp -proj only)
    | (dsimp -proj +zetaDelta only)

theorem natFetch_keeps {q : Nat} {s : State} :
    Keeps [.regs, .mem, .bad, .free, .flt, .pcie, .memc, .host, .outbox, .nvFaultLog, .nvLogNext] s (natFetch q s) := by
  unfold natFetch
  try dsimp -proj only
  repeat' first
    | exact (rfl : _ = true)
    | (with_reducible exact Keeps.refl _ _)
    | assumption
    | (with_reducible exact (Keeps.refl _ _).mono rfl)
    | (with_reducible apply Keeps.via natFetchLoop_keeps)
    | (with_reducible intro)
    | (dsimp -proj only)

theorem readSqProd_keeps {q : Nat} {s : State} :
    Keeps [.regs, .mem, .bad, .free, .flt, .pcie, .memc, .host, .outbox, .nvFaultLog, .nvLogNext] s (readSqProd q s) := by
  unfold readSqProd
  try dsimp -proj only
  repeat' first
    | exact (rfl : _ = true)
    | (with_reducible exact Keeps.refl _ _)
    | assumption
    | (with_reducible exact (Keeps.refl _ _).mono rfl)
    | (with_reducible apply Keeps.ite <;> intro _)
    | (with_reducible apply Keeps.via updNat_keeps)
    | (with_reducible apply Keeps.via natError_keeps)
    | (with_reducible intro)
    | split
    | (dsimp -proj only)

theorem nvFetchLoop_keeps {id : Nat} {q : Nat} {y0 : Nat} {y1 : State} :
    Keeps [.host] y1 (nvFetchLoop id q y0 y1) := by
  induction y0 generalizing y1 with
  | zero => exact Keeps.refl _ _
  | succ k ih =>
  unfold nvFetchLoop
  try dsimp -proj only
  repeat' first
    | (with_reducible apply Keeps.trans; rotate_left; apply ih)
    | (with_reducible rfl)
    | exact (rfl : _ = true)
    | (with_reducible exact Keeps.refl _ _)
    | assumption
    | (with_reducible exact (Keeps.refl _ _).mono rfl)
    | (with_reducible apply Keeps.ite <;> intro _)
    | (with_reducible apply Keeps.via updSq_keeps)
    | (dsimp -proj only [keepsMk]; with_reducible apply KeepsMk.upd_host)
    | (with_reducible exact natq_id)
    | (with_reducible exact natq_mod)
    | (with_reducible exact natq_map)
    | (with_reducible exact natq_reset)
    | (with_reducible refine Keeps.of_fst (by assumption) ?_)
    | (with_reducible refine Keeps.of_snd (by assumption) ?_)
    | (with_reducible intro)
    | split
    | (simp [modAt_length]; done)
    | (simp [setAt_length]; done)
    | (simp only [List.length_mapIdx, List.length_map]; done)
    | (simp [MotSt.units, modAt_length, setAt_length]; done)
    | (dsimp -proj only)
    | (dsimp -proj +zetaDelta only)

theorem nvFetch_keeps {id : Nat} {q : Nat} {s : State} :
    Keeps [.host] s (nvFetch id q s) := by
  unfold nvFetch
  try dsimp -proj only
  repeat' first
    | exact (rfl : _ = true)
    | (with_reducible exact Keeps.refl _ _)
    | assumption
    | (with_reducible exact (Keeps.refl _ _).mono rfl)
    | (with_reducible apply Keeps.via nvFetchLoop_keeps)
    | (with_reducible intro)
    | (dsimp -proj only)

theorem pump_keeps {s : State} :
    Keeps [.regs, .mem, .bad, .free, .flt, .pcie, .memc, .host, .outbox, .nvFaultLog, .nvLogNext] s (pump s) := by
  unfold pump
  try dsimp -proj only
  repeat' first
    | (with_reducible apply Keeps.foldl)
    | exact (rfl : _ = true)
    | (with_reducible exact Keeps.refl _ _)
    | assumption
    | (with_reducible exact (Keeps.refl _ _).mono rfl)
    | (with_reducible apply Keeps.via natFetch_keeps)
    | (with_reducible apply Keeps.via nvFetch_keeps)
    | (with_reducible intro)
    | (dsimp -proj only)

end Sys2Proof.Machine
end

