-- ==== Sys2Proof/Laws/KeepReduce.lean ====
section
/-! SUPPORT. What each operation of Machine/Reduce.lean keeps (`Keeps`). -/

set_option Elab.async false

namespace Sys2Proof.Machine

theorem filterInsert_keeps {g : Nat} {fp : List Byte} {s : State} :
    Keeps [.regs, .red] s (filterInsert g fp s) := by
  unfold filterInsert
  try dsimp -proj only
  repeat' first
    | exact (rfl : _ = true)
    | (with_reducible exact Keeps.refl _ _)
    | assumption
    | (with_reducible exact (Keeps.refl _ _).mono rfl)
    | (with_reducible apply Keeps.ite <;> intro _)
    | (with_reducible apply Keeps.via setF_keeps)
    | (dsimp -proj only [keepsMk]; with_reducible apply KeepsMk.upd_red)
    | (with_reducible intro)
    | split
    | (dsimp -proj only)

theorem filterClear_keeps {s : State} :
    Keeps [.regs, .red] s (filterClear s) := by
  unfold filterClear
  try dsimp -proj only
  repeat' first
    | exact (rfl : _ = true)
    | (with_reducible exact Keeps.refl _ _)
    | assumption
    | (with_reducible exact (Keeps.refl _ _).mono rfl)
    | (with_reducible apply Keeps.via setF_keeps)
    | (dsimp -proj only [keepsMk]; with_reducible apply KeepsMk.upd_red)
    | (with_reducible intro)
    | (dsimp -proj only)

theorem updJob_keeps {id : Nat} {f : RedJob → RedJob} {s : State} :
    Keeps [.red] s (updJob id f s) := by
  unfold updJob
  try dsimp -proj only
  repeat' first
    | exact (rfl : _ = true)
    | (with_reducible exact Keeps.refl _ _)
    | assumption
    | (with_reducible exact (Keeps.refl _ _).mono rfl)
    | (with_reducible apply Keeps.ite <;> intro _)
    | (dsimp -proj only [keepsMk]; with_reducible apply KeepsMk.upd_red)
    | (with_reducible intro)
    | split
    | (dsimp -proj only)

theorem dropJob_keeps {id : Nat} {s : State} :
    Keeps [.red] s (dropJob id s) := by
  unfold dropJob
  try dsimp -proj only
  repeat' first
    | exact (rfl : _ = true)
    | (with_reducible exact Keeps.refl _ _)
    | assumption
    | (with_reducible exact (Keeps.refl _ _).mono rfl)
    | (dsimp -proj only [keepsMk]; with_reducible apply KeepsMk.upd_red)
    | (with_reducible intro)
    | (dsimp -proj only)

theorem decideStore_keeps {j : RedJob} {fp : List Byte} {defer : Bool} {s : State} :
    Keeps [.red] s (decideStore j fp defer s) := by
  unfold decideStore
  try dsimp -proj only
  repeat' first
    | exact (rfl : _ = true)
    | (with_reducible exact Keeps.refl _ _)
    | assumption
    | (with_reducible exact (Keeps.refl _ _).mono rfl)
    | (with_reducible apply Keeps.via updJob_keeps)
    | (with_reducible intro)
    | (dsimp -proj only)

theorem decideIndex_keeps {j : RedJob} {fp : List Byte} {s : State} :
    Keeps [.regs, .pwr, .bring, .flt, .mbx, .grants, .pins, .pcie, .journal, .clk, .fs, .red, .mot, .outbox, .nvFaultLog, .nvLogNext] s (decideIndex j fp s) := by
  unfold decideIndex
  try dsimp -proj only
  repeat' first
    | exact (rfl : _ = true)
    | (with_reducible exact Keeps.refl _ _)
    | assumption
    | (with_reducible exact (Keeps.refl _ _).mono rfl)
    | (with_reducible apply Keeps.ite <;> intro _)
    | (with_reducible apply Keeps.via count_keeps)
    | (with_reducible apply Keeps.via raise_keeps)
    | (with_reducible apply Keeps.via filterInsert_keeps)
    | (with_reducible apply Keeps.via updJob_keeps)
    | (with_reducible apply Keeps.via decideStore_keeps)
    | (dsimp -proj only [keepsMk]; with_reducible apply KeepsMk.upd_red)
    | (with_reducible refine Keeps.of_fst (by assumption) ?_)
    | (with_reducible refine Keeps.of_snd (by assumption) ?_)
    | (with_reducible intro)
    | split
    | (dsimp -proj only)

theorem redDecide_keeps {cached : Bool} {j : RedJob} {s : State} :
    Keeps [.regs, .pwr, .bring, .flt, .mbx, .grants, .pins, .pcie, .journal, .clk, .fs, .red, .mot, .outbox, .nvFaultLog, .nvLogNext] s (redDecide cached j s) := by
  unfold redDecide
  try dsimp -proj only
  repeat' first
    | exact (rfl : _ = true)
    | (with_reducible exact Keeps.refl _ _)
    | assumption
    | (with_reducible exact (Keeps.refl _ _).mono rfl)
    | (with_reducible apply Keeps.ite <;> intro _)
    | (with_reducible apply Keeps.via updJob_keeps)
    | (with_reducible apply Keeps.via decideStore_keeps)
    | (with_reducible apply Keeps.via decideIndex_keeps)
    | (with_reducible intro)
    | split
    | (dsimp -proj only)

theorem addJob_keeps {j : RedJob} {s : State} :
    Keeps [.red] s (addJob j s) := by
  unfold addJob
  try dsimp -proj only
  repeat' first
    | exact (rfl : _ = true)
    | (with_reducible exact Keeps.refl _ _)
    | assumption
    | (with_reducible exact (Keeps.refl _ _).mono rfl)
    | (dsimp -proj only [keepsMk]; with_reducible apply KeepsMk.upd_red)
    | (with_reducible intro)
    | (dsimp -proj only)

theorem recoverEntry_keeps {g : Nat} {q : Nat} {partnerHas : Bool} {s : State} :
    Keeps [.regs, .pwr, .bring, .flt, .mbx, .grants, .pins, .pcie, .journal, .clk, .fs, .mot, .outbox, .nvFaultLog, .nvLogNext] s (recoverEntry g q partnerHas s) := by
  unfold recoverEntry
  try dsimp -proj only
  repeat' first
    | exact (rfl : _ = true)
    | (with_reducible exact Keeps.refl _ _)
    | assumption
    | (with_reducible exact (Keeps.refl _ _).mono rfl)
    | (with_reducible apply Keeps.ite <;> intro _)
    | (with_reducible apply Keeps.via raise_keeps)
    | (with_reducible apply Keeps.via updJrn_keeps)
    | (with_reducible refine Keeps.of_fst (by assumption) ?_)
    | (with_reducible refine Keeps.of_snd (by assumption) ?_)
    | (with_reducible intro)
    | split
    | (dsimp -proj only)

theorem logChunk_keeps {g : Nat} {v : Nat} {c : Nat} {code : Nat} {s : State} :
    Keeps [.regs, .pwr, .bring, .flt, .mbx, .grants, .pins, .pcie, .journal, .clk, .fs, .red, .mot, .outbox, .nvFaultLog, .nvLogNext] s (logChunk g v c code s) := by
  unfold logChunk
  try dsimp -proj only
  repeat' first
    | exact (rfl : _ = true)
    | (with_reducible exact Keeps.refl _ _)
    | assumption
    | (with_reducible exact (Keeps.refl _ _).mono rfl)
    | (with_reducible apply Keeps.ite <;> intro _)
    | (with_reducible apply Keeps.via raise_keeps)
    | (dsimp -proj only [keepsMk]; with_reducible apply KeepsMk.upd_red)
    | (with_reducible intro)
    | split
    | (dsimp -proj only)

theorem startEntry_keeps {g : Nat} {q : Nat} {c : Nat} {cached : Bool} {ue : Bool} {partnerHas : Bool} {s0 : State} :
    Keeps [.regs, .pwr, .bring, .flt, .mbx, .grants, .pins, .pcie, .journal, .clk, .fs, .red, .mot, .outbox, .nvFaultLog, .nvLogNext] s0 (startEntry g q c cached ue partnerHas s0) := by
  unfold startEntry
  try dsimp -proj only
  repeat' first
    | exact (rfl : _ = true)
    | (with_reducible exact Keeps.refl _ _)
    | assumption
    | (with_reducible exact (Keeps.refl _ _).mono rfl)
    | (with_reducible apply Keeps.ite <;> intro _)
    | (with_reducible apply Keeps.via updJob_keeps)
    | (with_reducible apply Keeps.via redDecide_keeps)
    | (with_reducible apply Keeps.via addJob_keeps)
    | (with_reducible apply Keeps.via recoverEntry_keeps)
    | (with_reducible apply Keeps.via logChunk_keeps)
    | (with_reducible refine Keeps.of_fst (by assumption) ?_)
    | (with_reducible refine Keeps.of_snd (by assumption) ?_)
    | (with_reducible intro)
    | split
    | (dsimp -proj only)

theorem stageRoom_keeps {g n : Nat} {s t : State} (h : stageRoom g n s = some t) : Keeps [.fl, .tier] s t := by
  unfold stageRoom at h
  dsimp -proj only at h
  repeat' split at h
  all_goals first
    | (cases h; done)
    | (cases h; exact Keeps.refl _ _)
    | (cases h; exact Keeps.upd_fl_tier (Keeps.refl _ _) rfl rfl)


theorem stageRecord_keeps {j : RedJob} {rec_ : List Byte} {s : State} :
    Keeps [.regs, .fl, .tier, .red] s (stageRecord j rec_ s) := by
  unfold stageRecord
  try dsimp -proj only
  repeat' first
    | exact (rfl : _ = true)
    | (with_reducible exact Keeps.refl _ _)
    | assumption
    | (with_reducible exact (Keeps.refl _ _).mono rfl)
    | (with_reducible apply Keeps.via filterInsert_keeps)
    | (with_reducible apply Keeps.via updJob_keeps)
    | (dsimp -proj only [keepsMk]; with_reducible apply KeepsMk.upd_fl_tier)
    | (with_reducible refine Keeps.of_fst (by assumption) ?_)
    | (with_reducible refine Keeps.of_snd (by assumption) ?_)
    | (with_reducible refine Keeps.via (stageRoom_keeps (by assumption)) ?_ ?_)
    | (with_reducible intro)
    | split
    | (dsimp -proj only)

theorem overMaps_keeps {g : Nat} {f : List (Nat × MapEnt) → List (Nat × MapEnt)} {s : State} :
    Keeps [.volu] s (overMaps g f s) := by
  unfold overMaps
  try dsimp -proj only
  repeat' first
    | exact (rfl : _ = true)
    | (with_reducible exact Keeps.refl _ _)
    | assumption
    | (with_reducible exact (Keeps.refl _ _).mono rfl)
    | (with_reducible apply Keeps.ite <;> intro _)
    | (dsimp -proj only [keepsMk]; with_reducible apply KeepsMk.upd_volu)
    | (with_reducible intro)
    | split
    | (dsimp -proj only)

theorem ownEntry_keeps {j : RedJob} {s : State} :
    Keeps [.tier, .volu] s (ownEntry j s) := by
  unfold ownEntry
  try dsimp -proj only
  repeat' first
    | exact (rfl : _ = true)
    | (with_reducible exact Keeps.refl _ _)
    | assumption
    | (with_reducible exact (Keeps.refl _ _).mono rfl)
    | (with_reducible apply Keeps.ite <;> intro _)
    | (with_reducible apply Keeps.via updVol_keeps)
    | (with_reducible apply Keeps.via newEid_keeps)
    | (with_reducible refine Keeps.of_fst (by assumption) ?_)
    | (with_reducible refine Keeps.of_snd (by assumption) ?_)
    | (with_reducible intro)
    | split
    | (dsimp -proj only)

theorem hiddenApply_keeps {j : RedJob} {s : State} :
    Keeps [.regs, .pwr, .bring, .flt, .mbx, .grants, .pins, .pcie, .journal, .clk, .fs, .tier, .volu, .mot, .outbox, .nvFaultLog, .nvLogNext] s (hiddenApply j s) := by
  unfold hiddenApply
  try dsimp -proj only
  repeat' first
    | exact (rfl : _ = true)
    | (with_reducible exact Keeps.refl _ _)
    | assumption
    | (with_reducible exact (Keeps.refl _ _).mono rfl)
    | (with_reducible apply Keeps.ite <;> intro _)
    | (with_reducible apply Keeps.via updVol_keeps)
    | (with_reducible apply Keeps.via newEid_keeps)
    | (with_reducible apply Keeps.via addRef_keeps)
    | (with_reducible apply Keeps.via entGone_keeps)
    | (dsimp -proj only [keepsMk]; with_reducible apply KeepsMk.upd_tier)
    | (with_reducible refine Keeps.of_fst (by assumption) ?_)
    | (with_reducible refine Keeps.of_snd (by assumption) ?_)
    | (with_reducible intro)
    | split
    | (dsimp -proj only)

theorem redApply_keeps {j : RedJob} {s : State} :
    Keeps [.regs, .pwr, .bring, .flt, .mbx, .grants, .pins, .pcie, .journal, .clk, .fs, .tier, .volu, .mot, .outbox, .nvFaultLog, .nvLogNext] s (redApply j s) := by
  unfold redApply
  try dsimp -proj only
  repeat' first
    | (with_reducible apply Keeps.foldl)
    | exact (rfl : _ = true)
    | (with_reducible exact Keeps.refl _ _)
    | assumption
    | (with_reducible exact (Keeps.refl _ _).mono rfl)
    | (with_reducible apply Keeps.ite <;> intro _)
    | (with_reducible apply Keeps.via addRef_keeps)
    | (with_reducible apply Keeps.via dropRef_keeps)
    | (with_reducible apply Keeps.via jCover_keeps)
    | (with_reducible apply Keeps.via jDrop_keeps)
    | (with_reducible apply Keeps.via overMaps_keeps)
    | (with_reducible apply Keeps.via ownEntry_keeps)
    | (with_reducible apply Keeps.via hiddenApply_keeps)
    | (dsimp -proj only [keepsMk]; with_reducible apply KeepsMk.upd_tier)
    | (with_reducible refine Keeps.of_fst (by assumption) ?_)
    | (with_reducible refine Keeps.of_snd (by assumption) ?_)
    | (with_reducible intro)
    | split
    | (dsimp -proj only)

theorem recordTakes_keeps {j : RedJob} {s : State} :
    Keeps [.regs, .pwr, .bring, .flt, .mbx, .grants, .pair, .pins, .pcie, .journal, .clk, .fs, .tier, .red, .volu, .mot, .outbox, .nvFaultLog, .nvLogNext] s (recordTakes j s) := by
  unfold recordTakes
  try dsimp -proj only
  repeat' first
    | exact (rfl : _ = true)
    | (with_reducible exact Keeps.refl _ _)
    | assumption
    | (with_reducible exact (Keeps.refl _ _).mono rfl)
    | (with_reducible apply Keeps.ite <;> intro _)
    | (with_reducible apply Keeps.via count_keeps)
    | (with_reducible apply Keeps.via jRelease_keeps)
    | (with_reducible apply Keeps.via jRecord_keeps)
    | (with_reducible apply Keeps.via dropJob_keeps)
    | (with_reducible apply Keeps.via redApply_keeps)
    | (dsimp -proj only [keepsMk]; with_reducible apply KeepsMk.upd_tier)
    | (with_reducible refine Keeps.of_fst (by assumption) ?_)
    | (with_reducible refine Keeps.of_snd (by assumption) ?_)
    | (with_reducible intro)
    | split
    | (dsimp -proj only)

theorem startPass_keeps {g : Nat} {s : State} :
    Keeps [.red] s (startPass g s) := by
  unfold startPass
  try dsimp -proj only
  repeat' first
    | exact (rfl : _ = true)
    | (with_reducible exact Keeps.refl _ _)
    | assumption
    | (with_reducible exact (Keeps.refl _ _).mono rfl)
    | (with_reducible apply Keeps.ite <;> intro _)
    | (dsimp -proj only [keepsMk]; with_reducible apply KeepsMk.upd_red)
    | (with_reducible intro)
    | split
    | (dsimp -proj only)

theorem dropDeferred_keeps {g : Nat} {rid : Nat} {s : State} :
    Keeps [.tier, .red] s (dropDeferred g rid s) := by
  unfold dropDeferred
  try dsimp -proj only
  repeat' first
    | exact (rfl : _ = true)
    | (with_reducible exact Keeps.refl _ _)
    | assumption
    | (with_reducible exact (Keeps.refl _ _).mono rfl)
    | (dsimp -proj only [keepsMk]; with_reducible apply KeepsMk.upd_tier_red)
    | (with_reducible intro)
    | (dsimp -proj only)

theorem passCompare_keeps {g : Nat} {a : Nat} {b : Nat} {s : State} :
    Keeps [.regs, .pwr, .bring, .flt, .mbx, .grants, .pins, .pcie, .journal, .clk, .fs, .mot, .outbox, .nvFaultLog, .nvLogNext] s (passCompare g a b s).2 := by
  unfold passCompare
  try dsimp -proj only
  repeat' first
    | exact (rfl : _ = true)
    | (with_reducible exact Keeps.refl _ _)
    | assumption
    | (with_reducible exact (Keeps.refl _ _).mono rfl)
    | (with_reducible apply Keeps.via raise_keeps)
    | (with_reducible apply Keeps.via decodeFailed_keeps)
    | (with_reducible refine Keeps.of_fst (by assumption) ?_)
    | (with_reducible refine Keeps.of_snd (by assumption) ?_)
    | (with_reducible intro)
    | split
    | (dsimp only)

theorem passEntry_keeps {d : DefEnt} {s : State} :
    Keeps [.regs, .pwr, .bring, .flt, .mbx, .grants, .pair, .pins, .pcie, .journal, .clk, .fs, .tier, .red, .volu, .mot, .outbox, .nvFaultLog, .nvLogNext] s (passEntry d s) := by
  unfold passEntry
  try dsimp -proj only
  repeat' first
    | exact (rfl : _ = true)
    | (with_reducible exact Keeps.refl _ _)
    | assumption
    | (with_reducible exact (Keeps.refl _ _).mono rfl)
    | (with_reducible apply Keeps.ite <;> intro _)
    | (with_reducible apply Keeps.via count_keeps)
    | (with_reducible apply Keeps.via raise_keeps)
    | (with_reducible apply Keeps.via addRef_keeps)
    | (with_reducible apply Keeps.via dropRef_keeps)
    | (with_reducible apply Keeps.via jRecord_keeps)
    | (with_reducible apply Keeps.via filterInsert_keeps)
    | (with_reducible apply Keeps.via overMaps_keeps)
    | (with_reducible apply Keeps.via dropDeferred_keeps)
    | (with_reducible apply Keeps.via passCompare_keeps)
    | (dsimp -proj only [keepsMk]; with_reducible apply KeepsMk.upd_tier)
    | (with_reducible refine Keeps.of_fst (by assumption) ?_)
    | (with_reducible refine Keeps.of_snd (by assumption) ?_)
    | (with_reducible intro)
    | split
    | (dsimp -proj only)

theorem capsDown_keeps {s : State} :
    Keeps [.regs] s (capsDown s) := by
  unfold capsDown
  try dsimp -proj only
  repeat' first
    | exact (rfl : _ = true)
    | (with_reducible exact Keeps.refl _ _)
    | assumption
    | (with_reducible exact (Keeps.refl _ _).mono rfl)
    | (with_reducible apply Keeps.via setF_keeps)
    | (with_reducible intro)
    | (dsimp -proj only)

end Sys2Proof.Machine
end

