-- ==== Sys2Proof/Laws/KeepVolumes.lean ====
section
/-! SUPPORT. What each operation of Machine/Volumes.lean keeps (`Keeps`). -/

set_option Elab.async false

namespace Sys2Proof.Machine

theorem updCanal_keeps {id : Nat} {f : Canal → Canal} {s : State} :
    Keeps [.volu] s (updCanal id f s) := by
  unfold updCanal
  try dsimp -proj only
  repeat' first
    | exact (rfl : _ = true)
    | (with_reducible exact Keeps.refl _ _)
    | assumption
    | (with_reducible exact (Keeps.refl _ _).mono rfl)
    | (with_reducible apply Keeps.ite <;> intro _)
    | (dsimp -proj only [keepsMk]; with_reducible apply KeepsMk.upd_volu)
    | (with_reducible intro)
    | split
    | (dsimp -proj only)

theorem canalTx_keeps {id : Nat} {kind : Nat} {args : List Nat} {s : State} :
    Keeps [.volu, .outbox] s (canalTx id kind args s) := by
  unfold canalTx
  try dsimp -proj only
  repeat' first
    | exact (rfl : _ = true)
    | (with_reducible exact Keeps.refl _ _)
    | assumption
    | (with_reducible exact (Keeps.refl _ _).mono rfl)
    | (with_reducible apply Keeps.ite <;> intro _)
    | (with_reducible apply Keeps.via send_keeps)
    | (with_reducible apply Keeps.via updCanal_keeps)
    | (with_reducible intro)
    | split
    | (dsimp -proj only)

theorem abandon_keeps {id : Nat} {s : State} :
    Keeps [.regs, .pwr, .bring, .flt, .mbx, .grants, .pins, .pcie, .journal, .clk, .fs, .volu, .mot, .outbox, .nvFaultLog, .nvLogNext] s (abandon id s) := by
  unfold abandon
  try dsimp -proj only
  repeat' first
    | exact (rfl : _ = true)
    | (with_reducible exact Keeps.refl _ _)
    | assumption
    | (with_reducible exact (Keeps.refl _ _).mono rfl)
    | (with_reducible apply Keeps.via raise_keeps)
    | (with_reducible apply Keeps.via updCanal_keeps)
    | (with_reducible apply Keeps.via canalTx_keeps)
    | (with_reducible intro)
    | (dsimp -proj only)

theorem volRow_keeps {wp : List Part} {m : Nat} {op : Nat} {sel : MbxCmd → Bool} {f : MbxCmd → State → State × Option MbxResult} {s : State} (h_f : ∀ q0 q1, Keeps wp q1 (f q0 q1).1) (hwp : within wp [.mbx, .pair, .host, .outbox] = true) :
    Keeps wp s (volRow m op sel f s) := by
  unfold volRow
  try dsimp -proj only
  repeat' first
    | exact (rfl : _ = true)
    | (with_reducible exact Keeps.refl _ _)
    | assumption
    | exact within_contains hwp rfl
    | exact within_trans hwp rfl
    | (with_reducible exact (Keeps.refl _ _).mono rfl)
    | (with_reducible apply Keeps.ite <;> intro _)
    | (with_reducible apply Keeps.trans ?_ (mbxRow_keeps ?_ ?_))
    | (with_reducible apply Keeps.via answer_keeps)
    | (with_reducible apply Keeps.via forwardMbx_keeps)
    | (with_reducible apply Keeps.trans ?_ (h_f _ _))
    | (with_reducible refine Keeps.of_fst (by assumption) ?_)
    | (with_reducible refine Keeps.of_snd (by assumption) ?_)
    | (with_reducible intro)
    | split
    | (dsimp -proj only)

theorem makeNguid_keeps {v : Nat} {s : State} :
    Keeps [.free] s (makeNguid v s).2 := by
  unfold makeNguid
  try dsimp -proj only
  repeat' first
    | exact (rfl : _ = true)
    | (with_reducible exact Keeps.refl _ _)
    | assumption
    | (with_reducible exact (Keeps.refl _ _).mono rfl)
    | (with_reducible apply Keeps.via takeFree_keeps)
    | (with_reducible intro)
    | (dsimp only)

theorem addVolume_keeps {v : Volume} {s : State} :
    Keeps [.regs, .pair, .tier, .volu, .outbox] s (addVolume v s) := by
  unfold addVolume
  try dsimp -proj only
  repeat' first
    | exact (rfl : _ = true)
    | (with_reducible exact Keeps.refl _ _)
    | assumption
    | (with_reducible exact (Keeps.refl _ _).mono rfl)
    | (with_reducible apply Keeps.via jRecord_keeps)
    | (dsimp -proj only [keepsMk]; with_reducible apply KeepsMk.upd_volu)
    | (with_reducible intro)
    | (dsimp -proj only)

theorem mapGone_keeps {g : Nat} {v : Nat} {m : List (Nat × MapEnt)} {s : State} :
    Keeps [.journal, .tier] s (mapGone g v m s) := by
  unfold mapGone
  try dsimp -proj only
  repeat' first
    | (with_reducible apply Keeps.foldl)
    | exact (rfl : _ = true)
    | (with_reducible exact Keeps.refl _ _)
    | assumption
    | (with_reducible exact (Keeps.refl _ _).mono rfl)
    | (with_reducible apply Keeps.via entGone_keeps)
    | (with_reducible apply Keeps.via jDrop_keeps)
    | (with_reducible intro)
    | (dsimp -proj only)

theorem removeVolume_keeps {v : Volume} {s : State} :
    Keeps [.regs, .pair, .journal, .tier, .volu, .outbox] s (removeVolume v s) := by
  unfold removeVolume
  try dsimp -proj only
  repeat' first
    | (with_reducible apply Keeps.foldl)
    | exact (rfl : _ = true)
    | (with_reducible exact Keeps.refl _ _)
    | assumption
    | (with_reducible exact (Keeps.refl _ _).mono rfl)
    | (with_reducible apply Keeps.via jRelease_keeps)
    | (with_reducible apply Keeps.via jRecord_keeps)
    | (with_reducible apply Keeps.via mapGone_keeps)
    | (dsimp -proj only [keepsMk]; with_reducible apply KeepsMk.upd_volu)
    | (with_reducible intro)
    | (dsimp -proj only)

theorem takeSnap_keeps {v : Volume} {canal : Option Nat} {s t : State} {x : Snapshot} (h : takeSnap v canal s = .ok (x, t)) :
    Keeps [.regs, .pair, .tier, .volu, .outbox] s t := by
  unfold takeSnap at h
  dsimp -proj only at h
  repeat' split at h
  all_goals first
    | (cases h; done)
    | (cases h; exact Keeps.via jRecord_keeps (updVol_keeps.mono rfl) rfl)


theorem removeSnap_keeps {v : Volume} {x : Snapshot} {s : State} :
    Keeps [.regs, .pair, .journal, .tier, .volu, .outbox] s (removeSnap v x s) := by
  unfold removeSnap
  try dsimp -proj only
  repeat' first
    | exact (rfl : _ = true)
    | (with_reducible exact Keeps.refl _ _)
    | assumption
    | (with_reducible exact (Keeps.refl _ _).mono rfl)
    | (with_reducible apply Keeps.via updVol_keeps)
    | (with_reducible apply Keeps.via jRelease_keeps)
    | (with_reducible apply Keeps.via jRecord_keeps)
    | (with_reducible apply Keeps.via mapGone_keeps)
    | (with_reducible intro)
    | (dsimp -proj only)

end Sys2Proof.Machine
end

