-- ==== Sys2Proof/Laws/KeepCanals.lean ====
section
/-! SUPPORT. What each operation of Machine/Canals.lean keeps (`Keeps`). -/

set_option Elab.async false

namespace Sys2Proof.Machine

theorem connectTo_keeps {id : Nat} {p : Peer} {s : State} :
    Keeps [.volu, .outbox] s (connectTo id p s) := by
  unfold connectTo
  try dsimp -proj only
  repeat' first
    | exact (rfl : _ = true)
    | (with_reducible exact Keeps.refl _ _)
    | assumption
    | (with_reducible exact (Keeps.refl _ _).mono rfl)
    | (with_reducible apply Keeps.via send_keeps)
    | (with_reducible apply Keeps.via updCanal_keeps)
    | (with_reducible intro)
    | (dsimp -proj only)

theorem canalConnect_keeps {c : Canal} {s : State} :
    Keeps [.volu, .outbox] s (canalConnect c s) := by
  unfold canalConnect
  try dsimp -proj only
  repeat' first
    | exact (rfl : _ = true)
    | (with_reducible exact Keeps.refl _ _)
    | assumption
    | (with_reducible exact (Keeps.refl _ _).mono rfl)
    | (with_reducible apply Keeps.via connectTo_keeps)
    | (with_reducible refine Keeps.of_fst (by assumption) ?_)
    | (with_reducible refine Keeps.of_snd (by assumption) ?_)
    | (with_reducible intro)
    | split
    | (dsimp -proj only)

theorem canalSessEnd_keeps {id : Nat} {s : State} :
    Keeps [.spdm] s (canalSessEnd id s) := by
  unfold canalSessEnd
  try dsimp -proj only
  repeat' first
    | exact (rfl : _ = true)
    | (with_reducible exact Keeps.refl _ _)
    | assumption
    | (with_reducible exact (Keeps.refl _ _).mono rfl)
    | (dsimp -proj only [keepsMk]; with_reducible apply KeepsMk.upd_spdm)
    | (with_reducible refine Keeps.of_fst (by assumption) ?_)
    | (with_reducible refine Keeps.of_snd (by assumption) ?_)
    | (with_reducible intro)
    | split
    | (dsimp -proj only)

theorem canalDrop_keeps {id : Nat} {s : State} :
    Keeps [.volu, .spdm, .outbox] s (canalDrop id s) := by
  unfold canalDrop
  try dsimp -proj only
  repeat' first
    | exact (rfl : _ = true)
    | (with_reducible exact Keeps.refl _ _)
    | assumption
    | (with_reducible exact (Keeps.refl _ _).mono rfl)
    | (with_reducible apply Keeps.via send_keeps)
    | (with_reducible apply Keeps.via updCanal_keeps)
    | (with_reducible apply Keeps.via canalSessEnd_keeps)
    | (with_reducible intro)
    | (dsimp -proj only)

theorem canalRelease_keeps {id : Nat} {p : Nat → Bool} {st : Option Nat} {s : State} :
    Keeps [.host] s (canalRelease id p st s) := by
  unfold canalRelease
  try dsimp -proj only
  repeat' first
    | (with_reducible rfl)
    | exact (rfl : _ = true)
    | (with_reducible exact Keeps.refl _ _)
    | assumption
    | (with_reducible exact (Keeps.refl _ _).mono rfl)
    | (with_reducible apply Keeps.ite <;> intro _)
    | (dsimp -proj only [keepsMk]; with_reducible apply KeepsMk.upd_host)
    | (with_reducible exact natq_id)
    | (with_reducible exact natq_mod)
    | (with_reducible exact natq_map)
    | (with_reducible exact natq_reset)
    | (with_reducible refine Keeps.of_fst (by assumption) ?_)
    | (with_reducible refine Keeps.of_snd (by assumption) ?_)
    | (with_reducible intro)
    | split
    | (simp [modAt_length]; done)
    | (simp [setAt_length]; done)
    | (simp only [List.length_mapIdx, List.length_map]; done)
    | (simp [MotSt.units, modAt_length, setAt_length]; done)
    | (dsimp -proj only)

theorem enterDirty_keeps {id : Nat} {cs : List Nat} {s : State} :
    Keeps [.volu] s (enterDirty id cs s) := by
  unfold enterDirty
  try dsimp -proj only
  repeat' first
    | exact (rfl : _ = true)
    | (with_reducible exact Keeps.refl _ _)
    | assumption
    | (with_reducible exact (Keeps.refl _ _).mono rfl)
    | (with_reducible apply Keeps.via updCanal_keeps)
    | (with_reducible intro)
    | (dsimp -proj only)

theorem canalPolicy_keeps {c : Canal} {s : State} :
    Keeps [.volu, .host] s (canalPolicy c s) := by
  unfold canalPolicy
  try dsimp -proj only
  repeat' first
    | exact (rfl : _ = true)
    | (with_reducible exact Keeps.refl _ _)
    | assumption
    | (with_reducible exact (Keeps.refl _ _).mono rfl)
    | (with_reducible apply Keeps.ite <;> intro _)
    | (with_reducible apply Keeps.via updCanal_keeps)
    | (with_reducible apply Keeps.via canalRelease_keeps)
    | (with_reducible apply Keeps.via enterDirty_keeps)
    | (with_reducible intro)
    | split
    | (dsimp -proj only)

theorem flushList_keeps {id : Nat} {pend : List Nat} {y0 : List CanalOut} {y1 : State} :
    Keeps [.volu, .outbox] y1 (flushList id pend y0 y1).2 := by
  fun_induction flushList id pend y0 y1
  all_goals try dsimp -proj only
  repeat' first
    | exact (rfl : _ = true)
    | (with_reducible exact Keeps.refl _ _)
    | assumption
    | (with_reducible apply Keeps.trans; rotate_left; assumption)
    | (with_reducible exact (Keeps.refl _ _).mono rfl)
    | (with_reducible apply Keeps.ite <;> intro _)
    | (with_reducible apply Keeps.via canalTx_keeps)
    | (with_reducible refine Keeps.of_fst (by assumption) ?_)
    | (with_reducible refine Keeps.of_snd (by assumption) ?_)
    | (with_reducible intro)
    | split
    | (dsimp only)
    | (dsimp -proj +zetaDelta only)

theorem canalFlush_keeps {id : Nat} {s : State} :
    Keeps [.volu, .outbox] s (canalFlush id s) := by
  unfold canalFlush
  try dsimp -proj only
  repeat' first
    | exact (rfl : _ = true)
    | (with_reducible exact Keeps.refl _ _)
    | assumption
    | (with_reducible exact (Keeps.refl _ _).mono rfl)
    | (with_reducible apply Keeps.ite <;> intro _)
    | (with_reducible apply Keeps.via updCanal_keeps)
    | (with_reducible apply Keeps.via flushList_keeps)
    | (with_reducible refine Keeps.of_fst (by assumption) ?_)
    | (with_reducible refine Keeps.of_snd (by assumption) ?_)
    | (with_reducible intro)
    | split
    | (dsimp -proj only)

theorem canalSend_keeps {id : Nat} {off : Nat} {len : Nat} {data : List Byte} {s : State} :
    Keeps [.volu, .outbox] s (canalSend id off len data s).2 := by
  unfold canalSend
  try dsimp -proj only
  repeat' first
    | exact (rfl : _ = true)
    | (with_reducible exact Keeps.refl _ _)
    | assumption
    | (with_reducible exact (Keeps.refl _ _).mono rfl)
    | (with_reducible apply Keeps.via updCanal_keeps)
    | (with_reducible apply Keeps.via canalFlush_keeps)
    | (with_reducible refine Keeps.of_fst (by assumption) ?_)
    | (with_reducible refine Keeps.of_snd (by assumption) ?_)
    | (with_reducible intro)
    | split
    | (dsimp only)

theorem putCanal_keeps {c : Canal} {s : State} :
    Keeps [.volu] s (putCanal c s) := by
  unfold putCanal
  try dsimp -proj only
  repeat' first
    | exact (rfl : _ = true)
    | (with_reducible exact Keeps.refl _ _)
    | assumption
    | (with_reducible exact (Keeps.refl _ _).mono rfl)
    | (dsimp -proj only [keepsMk]; with_reducible apply KeepsMk.upd_volu)
    | (with_reducible intro)
    | (dsimp -proj only)

theorem canalAnswer_keeps {c : Canal} {st : Nat} {s : State} :
    Keeps [.mbx, .volu] s (canalAnswer c st s) := by
  unfold canalAnswer
  try dsimp -proj only
  repeat' first
    | exact (rfl : _ = true)
    | (with_reducible exact Keeps.refl _ _)
    | assumption
    | (with_reducible exact (Keeps.refl _ _).mono rfl)
    | (with_reducible apply Keeps.ite <;> intro _)
    | (with_reducible apply Keeps.via mbxSetResult_keeps)
    | (with_reducible apply Keeps.via updCanal_keeps)
    | (with_reducible refine Keeps.of_fst (by assumption) ?_)
    | (with_reducible refine Keeps.of_snd (by assumption) ?_)
    | (with_reducible intro)
    | split
    | (dsimp -proj only)

theorem canalFail_keeps {c : Canal} {st : Nat} {s : State} :
    Keeps [.mbx, .volu, .host, .spdm, .outbox] s (canalFail c st s) := by
  unfold canalFail
  try dsimp -proj only
  repeat' first
    | exact (rfl : _ = true)
    | (with_reducible exact Keeps.refl _ _)
    | assumption
    | (with_reducible exact (Keeps.refl _ _).mono rfl)
    | (with_reducible apply Keeps.ite <;> intro _)
    | (with_reducible apply Keeps.via updCanal_keeps)
    | (with_reducible apply Keeps.via canalDrop_keeps)
    | (with_reducible apply Keeps.via canalPolicy_keeps)
    | (with_reducible apply Keeps.via canalAnswer_keeps)
    | (dsimp -proj only [keepsMk]; with_reducible apply KeepsMk.upd_volu)
    | (with_reducible intro)
    | split
    | (dsimp -proj only)

theorem askPeer_keeps {n : Nat} {code : Nat} {s : State} :
    Keeps [.free, .outbox] s (askPeer n code s) := by
  unfold askPeer
  try dsimp -proj only
  repeat' first
    | exact (rfl : _ = true)
    | (with_reducible exact Keeps.refl _ _)
    | assumption
    | (with_reducible exact (Keeps.refl _ _).mono rfl)
    | (with_reducible apply Keeps.ite <;> intro _)
    | (with_reducible apply Keeps.via send_keeps)
    | (with_reducible apply Keeps.via freeBytes_keeps)
    | (with_reducible intro)
    | split
    | (dsimp -proj only)

theorem canalAsk_keeps {k : Nat} {code : Nat} {s : State} :
    Keeps [.free, .volu, .outbox] s (canalAsk k code s) := by
  unfold canalAsk
  try dsimp -proj only
  repeat' first
    | exact (rfl : _ = true)
    | (with_reducible exact Keeps.refl _ _)
    | assumption
    | (with_reducible exact (Keeps.refl _ _).mono rfl)
    | (with_reducible apply Keeps.ite <;> intro _)
    | (with_reducible apply Keeps.via updCanal_keeps)
    | (with_reducible apply Keeps.via askPeer_keeps)
    | (with_reducible intro)
    | split
    | (dsimp -proj only)

theorem canalLost_keeps {c : Canal} {s : State} :
    Keeps [.mbx, .volu, .host, .spdm, .outbox] s (canalLost c s) := by
  unfold canalLost
  try dsimp -proj only
  repeat' first
    | exact (rfl : _ = true)
    | (with_reducible exact Keeps.refl _ _)
    | assumption
    | (with_reducible exact (Keeps.refl _ _).mono rfl)
    | (with_reducible apply Keeps.ite <;> intro _)
    | (with_reducible apply Keeps.via canalDrop_keeps)
    | (with_reducible apply Keeps.via canalPolicy_keeps)
    | (with_reducible apply Keeps.via canalFail_keeps)
    | (with_reducible intro)
    | split
    | (dsimp -proj only)

theorem beginXfer_keeps {c : Canal} {v : Volume} {base : Nat} {gen : Nat} {m : List (Nat × MapEnt)} {cs : List Nat} {s : State} :
    Keeps [.regs, .pwr, .bring, .flt, .mbx, .grants, .pins, .pcie, .journal, .clk, .fs, .volu, .mot, .outbox, .nvFaultLog, .nvLogNext] s (beginXfer c v base gen m cs s) := by
  unfold beginXfer
  try dsimp -proj only
  repeat' first
    | exact (rfl : _ = true)
    | (with_reducible exact Keeps.refl _ _)
    | assumption
    | (with_reducible exact (Keeps.refl _ _).mono rfl)
    | (with_reducible apply Keeps.via updCanal_keeps)
    | (with_reducible apply Keeps.via canalTx_keeps)
    | (with_reducible apply Keeps.via abandon_keeps)
    | (with_reducible refine Keeps.of_fst (by assumption) ?_)
    | (with_reducible refine Keeps.of_snd (by assumption) ?_)
    | (with_reducible intro)
    | split
    | (dsimp -proj only)

theorem startXfer_keeps {c : Canal} {s t : State} {x : Nat} (h : startXfer c s = .ok (x, t)) :
    Keeps [.regs, .pwr, .bring, .flt, .mbx, .grants, .pair, .pins, .pcie, .journal, .clk, .fs, .tier, .volu, .mot, .outbox, .nvFaultLog, .nvLogNext] s t := by
  unfold startXfer at h
  dsimp -proj only at h
  split at h
  · cases h
  · split at h
    · cases h
    · rename_i e; cases h
      exact Keeps.via beginXfer_keeps ((takeSnap_keeps e).mono rfl) rfl


theorem tryXfer_keeps {c : Canal} {s : State} :
    Keeps [.regs, .pwr, .bring, .flt, .mbx, .grants, .pair, .pins, .pcie, .journal, .clk, .fs, .tier, .volu, .mot, .outbox, .nvFaultLog, .nvLogNext] s (tryXfer c s) := by
  unfold tryXfer
  try dsimp -proj only
  repeat' first
    | exact (rfl : _ = true)
    | (with_reducible exact Keeps.refl _ _)
    | assumption
    | (with_reducible exact (Keeps.refl _ _).mono rfl)
    | (with_reducible refine Keeps.of_fst (by assumption) ?_)
    | (with_reducible refine Keeps.of_snd (by assumption) ?_)
    | (with_reducible refine Keeps.via (startXfer_keeps (by assumption)) ?_ ?_)
    | (with_reducible intro)
    | split
    | (dsimp -proj only)

theorem updDrain_keeps {f : DrainSt → DrainSt} {s : State} :
    Keeps [.volu] s (updDrain f s) := by
  unfold updDrain
  try dsimp -proj only
  repeat' first
    | exact (rfl : _ = true)
    | (with_reducible exact Keeps.refl _ _)
    | assumption
    | (with_reducible exact (Keeps.refl _ _).mono rfl)
    | (dsimp -proj only [keepsMk]; with_reducible apply KeepsMk.upd_volu)
    | (with_reducible intro)
    | (dsimp -proj only)

theorem updEvac_keeps {g : Nat} {f : DrainJob → DrainJob} {s : State} :
    Keeps [.volu] s (updEvac g f s) := by
  unfold updEvac
  try dsimp -proj only
  repeat' first
    | exact (rfl : _ = true)
    | (with_reducible exact Keeps.refl _ _)
    | assumption
    | (with_reducible exact (Keeps.refl _ _).mono rfl)
    | (with_reducible apply Keeps.via updDrain_keeps)
    | (with_reducible intro)
    | (dsimp -proj only)

theorem drainAsk_keeps {v : Volume} {s : State} :
    Keeps [.outbox] s (drainAsk v s) := by
  unfold drainAsk
  try dsimp -proj only
  repeat' first
    | exact (rfl : _ = true)
    | (with_reducible exact Keeps.refl _ _)
    | assumption
    | (with_reducible exact (Keeps.refl _ _).mono rfl)
    | (with_reducible apply Keeps.via send_keeps)
    | (with_reducible refine Keeps.of_fst (by assumption) ?_)
    | (with_reducible refine Keeps.of_snd (by assumption) ?_)
    | (with_reducible intro)
    | split
    | (dsimp -proj only)

theorem drainReturn_keeps {s : State} :
    Keeps [.regs, .mem, .pwr, .bring, .flt, .mbx, .grants, .pair, .pins, .pcie, .journal, .clk, .fs, .volu, .host, .mot, .outbox, .nvFaultLog, .nvLogNext] s (drainReturn s) := by
  unfold drainReturn
  try dsimp -proj only
  repeat' first
    | exact (rfl : _ = true)
    | (with_reducible exact Keeps.refl _ _)
    | assumption
    | (with_reducible exact (Keeps.refl _ _).mono rfl)
    | (with_reducible apply Keeps.ite <;> intro _)
    | (with_reducible apply Keeps.via setF_keeps)
    | (with_reducible apply Keeps.via mbxFinish_keeps)
    | (with_reducible apply Keeps.via tellStep_keeps)
    | (with_reducible apply Keeps.via returnStart_keeps)
    | (with_reducible apply Keeps.via anaRefresh_keeps)
    | (with_reducible apply Keeps.via updDrain_keeps)
    | (dsimp -proj only [keepsMk]; with_reducible apply KeepsMk.upd_pwr)
    | (with_reducible intro)
    | split
    | (dsimp -proj only)

theorem drainNext_keeps {g : Nat} {s : State} :
    Keeps [.regs, .mem, .pwr, .bring, .flt, .mbx, .grants, .pair, .pins, .pcie, .journal, .clk, .fs, .volu, .host, .mot, .outbox, .nvFaultLog, .nvLogNext] s (drainNext g s) := by
  unfold drainNext
  try dsimp -proj only
  repeat' first
    | exact (rfl : _ = true)
    | (with_reducible exact Keeps.refl _ _)
    | assumption
    | (with_reducible exact (Keeps.refl _ _).mono rfl)
    | (with_reducible apply Keeps.ite <;> intro _)
    | (with_reducible apply Keeps.via updEvac_keeps)
    | (with_reducible apply Keeps.via drainAsk_keeps)
    | (with_reducible apply Keeps.via drainReturn_keeps)
    | (with_reducible refine Keeps.of_fst (by assumption) ?_)
    | (with_reducible refine Keeps.of_snd (by assumption) ?_)
    | (with_reducible intro)
    | split
    | (dsimp -proj only)

theorem drainFinalOf_keeps {j : DrainJob} {s : State} :
    Keeps [.regs, .pwr, .bring, .flt, .mbx, .grants, .pair, .pins, .pcie, .journal, .clk, .fs, .tier, .volu, .mot, .outbox, .nvFaultLog, .nvLogNext] s (drainFinalOf j s) := by
  unfold drainFinalOf
  try dsimp -proj only
  repeat' first
    | exact (rfl : _ = true)
    | (with_reducible exact Keeps.refl _ _)
    | assumption
    | (with_reducible exact (Keeps.refl _ _).mono rfl)
    | (with_reducible apply Keeps.ite <;> intro _)
    | (with_reducible apply Keeps.via tryXfer_keeps)
    | (with_reducible refine Keeps.of_fst (by assumption) ?_)
    | (with_reducible refine Keeps.of_snd (by assumption) ?_)
    | (with_reducible intro)
    | split
    | (dsimp -proj only)

theorem drainFinal_keeps {s : State} :
    Keeps [.regs, .pwr, .bring, .flt, .mbx, .grants, .pair, .pins, .pcie, .journal, .clk, .fs, .tier, .volu, .mot, .outbox, .nvFaultLog, .nvLogNext] s (drainFinal s) := by
  unfold drainFinal
  try dsimp -proj only
  repeat' first
    | (with_reducible apply Keeps.foldl)
    | exact (rfl : _ = true)
    | (with_reducible exact Keeps.refl _ _)
    | assumption
    | (with_reducible exact (Keeps.refl _ _).mono rfl)
    | (with_reducible apply Keeps.via drainFinalOf_keeps)
    | (with_reducible intro)
    | (dsimp -proj only)

theorem drainMoved_keeps {v : Volume} {s : State} :
    Keeps [.regs, .mem, .pwr, .bring, .flt, .mbx, .grants, .pair, .pins, .pcie, .journal, .clk, .fs, .tier, .volu, .host, .mot, .outbox, .nvFaultLog, .nvLogNext] s (drainMoved v s) := by
  unfold drainMoved
  try dsimp -proj only
  repeat' first
    | (with_reducible apply Keeps.foldl)
    | (with_reducible rfl)
    | exact (rfl : _ = true)
    | (with_reducible exact Keeps.refl _ _)
    | assumption
    | (with_reducible exact (Keeps.refl _ _).mono rfl)
    | (with_reducible apply Keeps.ite <;> intro _)
    | (with_reducible apply Keeps.via nsChanged_keeps)
    | (with_reducible apply Keeps.via canalTx_keeps)
    | (with_reducible apply Keeps.via removeVolume_keeps)
    | (with_reducible apply Keeps.via updDrain_keeps)
    | (with_reducible apply Keeps.via updEvac_keeps)
    | (with_reducible apply Keeps.via drainNext_keeps)
    | (dsimp -proj only [keepsMk]; first | with_reducible apply KeepsMk.upd_volu | with_reducible apply KeepsMk.upd_host)
    | (with_reducible exact natq_id)
    | (with_reducible exact natq_mod)
    | (with_reducible exact natq_map)
    | (with_reducible exact natq_reset)
    | (with_reducible intro)
    | split
    | (simp [modAt_length]; done)
    | (simp [setAt_length]; done)
    | (simp only [List.length_mapIdx, List.length_map]; done)
    | (simp [MotSt.units, modAt_length, setAt_length]; done)
    | (dsimp -proj only)

theorem drainStep_keeps {g : Nat} {s : State} :
    Keeps [.regs, .mem, .pwr, .bring, .flt, .mbx, .grants, .pair, .pins, .pcie, .journal, .clk, .fs, .tier, .volu, .host, .mot, .outbox, .nvFaultLog, .nvLogNext] s (drainStep g s) := by
  unfold drainStep
  try dsimp -proj only
  repeat' first
    | exact (rfl : _ = true)
    | (with_reducible exact Keeps.refl _ _)
    | assumption
    | (with_reducible exact (Keeps.refl _ _).mono rfl)
    | (with_reducible apply Keeps.ite <;> intro _)
    | (with_reducible apply Keeps.via beginXfer_keeps)
    | (with_reducible apply Keeps.via tryXfer_keeps)
    | (with_reducible apply Keeps.via updEvac_keeps)
    | (with_reducible apply Keeps.via drainFinal_keeps)
    | (with_reducible apply Keeps.via drainMoved_keeps)
    | (with_reducible refine Keeps.of_fst (by assumption) ?_)
    | (with_reducible refine Keeps.of_snd (by assumption) ?_)
    | (with_reducible intro)
    | split
    | (dsimp -proj only)

theorem canalResend_keeps {c : Canal} {last : Nat} {s : State} :
    Keeps [.volu, .host] s (canalResend c last s) := by
  unfold canalResend
  try dsimp -proj only
  repeat' first
    | exact (rfl : _ = true)
    | (with_reducible exact Keeps.refl _ _)
    | assumption
    | (with_reducible exact (Keeps.refl _ _).mono rfl)
    | (with_reducible apply Keeps.via updCanal_keeps)
    | (with_reducible apply Keeps.via canalRelease_keeps)
    | (with_reducible intro)
    | (dsimp -proj only)

theorem resyncOn_keeps {k : Nat} {s : State} :
    Keeps [.regs, .pwr, .bring, .flt, .mbx, .grants, .pair, .pins, .pcie, .journal, .clk, .fs, .tier, .volu, .mot, .outbox, .nvFaultLog, .nvLogNext] s (resyncOn k s) := by
  unfold resyncOn
  try dsimp -proj only
  repeat' first
    | exact (rfl : _ = true)
    | (with_reducible exact Keeps.refl _ _)
    | assumption
    | (with_reducible exact (Keeps.refl _ _).mono rfl)
    | (with_reducible apply Keeps.ite <;> intro _)
    | (with_reducible apply Keeps.via tryXfer_keeps)
    | (with_reducible refine Keeps.of_fst (by assumption) ?_)
    | (with_reducible refine Keeps.of_snd (by assumption) ?_)
    | (with_reducible intro)
    | split
    | (dsimp -proj only)

theorem canalCommitted_keeps {k : Nat} {gen : Nat} {s : State} :
    Keeps [.regs, .mem, .pwr, .bring, .flt, .mbx, .grants, .pair, .pins, .pcie, .journal, .clk, .fs, .tier, .volu, .host, .mot, .outbox, .nvFaultLog, .nvLogNext] s (canalCommitted k gen s) := by
  unfold canalCommitted
  try dsimp -proj only
  repeat' first
    | exact (rfl : _ = true)
    | (with_reducible exact Keeps.refl _ _)
    | assumption
    | (with_reducible exact (Keeps.refl _ _).mono rfl)
    | (with_reducible apply Keeps.ite <;> intro _)
    | (with_reducible apply Keeps.via updVol_keeps)
    | (with_reducible apply Keeps.via updCanal_keeps)
    | (with_reducible apply Keeps.via removeSnap_keeps)
    | (with_reducible apply Keeps.via canalFlush_keeps)
    | (with_reducible apply Keeps.via drainStep_keeps)
    | (with_reducible apply Keeps.via resyncOn_keeps)
    | (with_reducible refine Keeps.of_fst (by assumption) ?_)
    | (with_reducible refine Keeps.of_snd (by assumption) ?_)
    | (with_reducible intro)
    | split
    | (dsimp -proj only)

theorem xferResume_keeps {k : Nat} {x : Xfer} {h : Hello} {s : State} :
    Keeps [.regs, .mem, .pwr, .bring, .flt, .mbx, .grants, .pair, .pins, .pcie, .journal, .clk, .fs, .tier, .volu, .host, .mot, .outbox, .nvFaultLog, .nvLogNext] s (xferResume k x h s) := by
  unfold xferResume
  try dsimp -proj only
  repeat' first
    | exact (rfl : _ = true)
    | (with_reducible exact Keeps.refl _ _)
    | assumption
    | (with_reducible exact (Keeps.refl _ _).mono rfl)
    | (with_reducible apply Keeps.ite <;> intro _)
    | (with_reducible apply Keeps.via updCanal_keeps)
    | (with_reducible apply Keeps.via canalTx_keeps)
    | (with_reducible apply Keeps.via canalCommitted_keeps)
    | (with_reducible intro)
    | split
    | (dsimp -proj only)

theorem canalReach_keeps {c : Canal} {h : Hello} {s : State} :
    Keeps [.regs, .mem, .pwr, .bring, .flt, .mbx, .grants, .pair, .pins, .pcie, .journal, .clk, .fs, .tier, .volu, .host, .mot, .outbox, .nvFaultLog, .nvLogNext] s (canalReach c h s) := by
  unfold canalReach
  try dsimp -proj only
  repeat' first
    | exact (rfl : _ = true)
    | (with_reducible exact Keeps.refl _ _)
    | assumption
    | (with_reducible exact (Keeps.refl _ _).mono rfl)
    | (with_reducible apply Keeps.ite <;> intro _)
    | (with_reducible apply Keeps.via updCanal_keeps)
    | (with_reducible apply Keeps.via canalFlush_keeps)
    | (with_reducible apply Keeps.via canalAnswer_keeps)
    | (with_reducible apply Keeps.via tryXfer_keeps)
    | (with_reducible apply Keeps.via drainStep_keeps)
    | (with_reducible apply Keeps.via canalResend_keeps)
    | (with_reducible apply Keeps.via xferResume_keeps)
    | (with_reducible refine Keeps.of_fst (by assumption) ?_)
    | (with_reducible refine Keeps.of_snd (by assumption) ?_)
    | (with_reducible intro)
    | split
    | (dsimp -proj only)

theorem targetHello_keeps {h : Hello} {s : State} :
    Keeps [.regs, .pwr, .bring, .flt, .mbx, .grants, .pair, .pins, .pcie, .journal, .clk, .fs, .tier, .volu, .spdm, .mot, .outbox, .nvFaultLog, .nvLogNext] s (targetHello h s) := by
  unfold targetHello
  try dsimp -proj only
  repeat' first
    | exact (rfl : _ = true)
    | (with_reducible exact Keeps.refl _ _)
    | assumption
    | (with_reducible exact (Keeps.refl _ _).mono rfl)
    | (with_reducible apply Keeps.ite <;> intro _)
    | (with_reducible apply Keeps.via send_keeps)
    | (with_reducible apply Keeps.via raise_keeps)
    | (with_reducible apply Keeps.via jRecord_keeps)
    | (with_reducible apply Keeps.via canalTx_keeps)
    | (with_reducible apply Keeps.via putCanal_keeps)
    | (dsimp -proj only [keepsMk]; with_reducible apply KeepsMk.upd_spdm)
    | (with_reducible refine Keeps.of_fst (by assumption) ?_)
    | (with_reducible refine Keeps.of_snd (by assumption) ?_)
    | (with_reducible intro)
    | split
    | (dsimp -proj only)

theorem sessAttested_keeps {sid : Nat} {ok : Bool} {s : State} :
    Keeps [.regs, .pwr, .bring, .flt, .mbx, .grants, .pins, .pcie, .journal, .clk, .fs, .spdm, .mot, .outbox, .nvFaultLog, .nvLogNext] s (sessAttested sid ok s) := by
  unfold sessAttested
  try dsimp -proj only
  repeat' first
    | exact (rfl : _ = true)
    | (with_reducible exact Keeps.refl _ _)
    | assumption
    | (with_reducible exact (Keeps.refl _ _).mono rfl)
    | (with_reducible apply Keeps.ite <;> intro _)
    | (with_reducible apply Keeps.via raise_keeps)
    | (with_reducible apply Keeps.via attested_keeps)
    | (dsimp -proj only [keepsMk]; with_reducible apply KeepsMk.upd_spdm)
    | (with_reducible intro)
    | split
    | (dsimp -proj only)

theorem canalSpdmStep_keeps {k : Nat} {ok : Bool} {s : State} :
    Keeps [.regs, .free, .pwr, .bring, .flt, .mbx, .grants, .pins, .pcie, .journal, .clk, .fs, .volu, .host, .spdm, .mot, .outbox, .nvFaultLog, .nvLogNext] s (canalSpdmStep k ok s) := by
  unfold canalSpdmStep
  try dsimp -proj only
  repeat' first
    | exact (rfl : _ = true)
    | (with_reducible exact Keeps.refl _ _)
    | assumption
    | (with_reducible exact (Keeps.refl _ _).mono rfl)
    | (with_reducible apply Keeps.ite <;> intro _)
    | (with_reducible apply Keeps.via raise_keeps)
    | (with_reducible apply Keeps.via updCanal_keeps)
    | (with_reducible apply Keeps.via canalTx_keeps)
    | (with_reducible apply Keeps.via canalDrop_keeps)
    | (with_reducible apply Keeps.via canalPolicy_keeps)
    | (with_reducible apply Keeps.via canalFail_keeps)
    | (with_reducible apply Keeps.via canalAsk_keeps)
    | (with_reducible apply Keeps.via sessAttested_keeps)
    | (with_reducible refine Keeps.of_fst (by assumption) ?_)
    | (with_reducible refine Keeps.of_snd (by assumption) ?_)
    | (with_reducible intro)
    | split
    | (dsimp -proj only)

theorem discardHidden_keeps {v : Volume} {s : State} :
    Keeps [.tier, .red, .volu] s (discardHidden v s) := by
  unfold discardHidden
  try dsimp -proj only
  repeat' first
    | exact (rfl : _ = true)
    | (with_reducible exact Keeps.refl _ _)
    | assumption
    | (with_reducible exact (Keeps.refl _ _).mono rfl)
    | (with_reducible apply Keeps.via updVol_keeps)
    | (with_reducible apply Keeps.via entsGone_keeps)
    | (dsimp -proj only [keepsMk]; with_reducible apply KeepsMk.upd_red)
    | (with_reducible intro)
    | (dsimp -proj only)

theorem hiddenRef_keeps {v : Volume} {c : Nat} {rid : Nat} {fp : List Byte} {s : State} :
    Keeps [.regs, .pwr, .bring, .flt, .mbx, .grants, .pins, .pcie, .journal, .clk, .fs, .tier, .volu, .mot, .outbox, .nvFaultLog, .nvLogNext] s (hiddenRef v c rid fp s) := by
  unfold hiddenRef
  try dsimp -proj only
  repeat' first
    | exact (rfl : _ = true)
    | (with_reducible exact Keeps.refl _ _)
    | assumption
    | (with_reducible exact (Keeps.refl _ _).mono rfl)
    | (with_reducible apply Keeps.via hiddenApply_keeps)
    | (with_reducible intro)
    | (dsimp -proj only)

theorem hiddenZero_keeps {v : Nat} {c : Nat} {s : State} :
    Keeps [.tier, .volu] s (hiddenZero v c s) := by
  unfold hiddenZero
  try dsimp -proj only
  repeat' first
    | exact (rfl : _ = true)
    | (with_reducible exact Keeps.refl _ _)
    | assumption
    | (with_reducible exact (Keeps.refl _ _).mono rfl)
    | (with_reducible apply Keeps.via updVol_keeps)
    | (with_reducible apply Keeps.via entGone_keeps)
    | (with_reducible refine Keeps.of_fst (by assumption) ?_)
    | (with_reducible refine Keeps.of_snd (by assumption) ?_)
    | (with_reducible intro)
    | split
    | (dsimp -proj only)

theorem fpLook_keeps {v : Volume} {e : Nat × List Byte} {s : State} :
    Keeps [.regs, .pwr, .bring, .flt, .mbx, .grants, .pins, .pcie, .journal, .clk, .fs, .tier, .volu, .mot, .outbox, .nvFaultLog, .nvLogNext] s (fpLook v e s).2 := by
  unfold fpLook
  try dsimp -proj only
  repeat' first
    | exact (rfl : _ = true)
    | (with_reducible exact Keeps.refl _ _)
    | assumption
    | (with_reducible exact (Keeps.refl _ _).mono rfl)
    | (with_reducible apply Keeps.ite <;> intro _)
    | (with_reducible apply Keeps.via hiddenRef_keeps)
    | (with_reducible apply Keeps.via hiddenZero_keeps)
    | (with_reducible refine Keeps.of_fst (by assumption) ?_)
    | (with_reducible refine Keeps.of_snd (by assumption) ?_)
    | (with_reducible intro)
    | split
    | (dsimp only)

theorem fpLooks_keeps {v : Volume} {y0 : List (Nat × List Byte)} {y1 : State} :
    Keeps [.regs, .pwr, .bring, .flt, .mbx, .grants, .pins, .pcie, .journal, .clk, .fs, .tier, .volu, .mot, .outbox, .nvFaultLog, .nvLogNext] y1 (fpLooks v y0 y1).2 := by
  fun_induction fpLooks v y0 y1
  all_goals try dsimp -proj only
  repeat' first
    | exact (rfl : _ = true)
    | (with_reducible exact Keeps.refl _ _)
    | assumption
    | (with_reducible apply Keeps.trans; rotate_left; assumption)
    | (with_reducible exact (Keeps.refl _ _).mono rfl)
    | (with_reducible apply Keeps.via fpLook_keeps)
    | (with_reducible refine Keeps.of_fst (by assumption) ?_)
    | (with_reducible refine Keeps.of_snd (by assumption) ?_)
    | (with_reducible intro)
    | split
    | (dsimp only)
    | (dsimp -proj +zetaDelta only)

theorem storeHidden_keeps {v : Volume} {c : Nat} {fp : List Byte} {d : List Byte} {rec_ : List Byte} {defer : Bool} {s : State} :
    Keeps [.regs, .fl, .tier, .red] s (storeHidden v c fp d rec_ defer s) := by
  unfold storeHidden
  try dsimp -proj only
  repeat' first
    | exact (rfl : _ = true)
    | (with_reducible exact Keeps.refl _ _)
    | assumption
    | (with_reducible exact (Keeps.refl _ _).mono rfl)
    | (with_reducible apply Keeps.via addJob_keeps)
    | (with_reducible apply Keeps.via stageRecord_keeps)
    | (with_reducible intro)
    | (dsimp -proj only)

theorem commitSnap_keeps {k : Nat} {n : Nat} {s : State} :
    Keeps [.regs, .pair, .tier, .volu, .outbox] s (commitSnap k n s).2 := by
  unfold commitSnap
  try dsimp -proj only
  repeat' first
    | exact (rfl : _ = true)
    | (with_reducible exact Keeps.refl _ _)
    | assumption
    | (with_reducible exact (Keeps.refl _ _).mono rfl)
    | (with_reducible refine Keeps.of_fst (by assumption) ?_)
    | (with_reducible refine Keeps.of_snd (by assumption) ?_)
    | (with_reducible refine Keeps.via (takeSnap_keeps (by assumption)) ?_ ?_)
    | (with_reducible intro)
    | split
    | (dsimp only)

theorem targetCommit_keeps {k : Nat} {s : State} :
    Keeps [.regs, .pair, .journal, .tier, .volu, .outbox] s (targetCommit k s) := by
  unfold targetCommit
  try dsimp -proj only
  repeat' first
    | exact (rfl : _ = true)
    | (with_reducible exact Keeps.refl _ _)
    | assumption
    | (with_reducible exact (Keeps.refl _ _).mono rfl)
    | (with_reducible apply Keeps.ite <;> intro _)
    | (with_reducible apply Keeps.via updVol_keeps)
    | (with_reducible apply Keeps.via jRelease_keeps)
    | (with_reducible apply Keeps.via jRecord_keeps)
    | (with_reducible apply Keeps.via updCanal_keeps)
    | (with_reducible apply Keeps.via canalTx_keeps)
    | (with_reducible apply Keeps.via mapGone_keeps)
    | (with_reducible apply Keeps.via commitSnap_keeps)
    | (with_reducible refine Keeps.of_fst (by assumption) ?_)
    | (with_reducible refine Keeps.of_snd (by assumption) ?_)
    | (with_reducible intro)
    | split
    | (dsimp -proj only)

end Sys2Proof.Machine
end

