-- ==== Sys2Proof/Laws/KeepResv.lean ====
section
/-! SUPPORT. What each operation of Machine/Resv.lean keeps (`Keeps`). -/

set_option Elab.async false

namespace Sys2Proof.Machine

theorem resvNotify_keeps {v : Nat} {l : List (Nat × List Byte)} {s : State} :
    Keeps [.regs, .mem, .pwr, .bring, .flt, .mbx, .grants, .pins, .pcie, .journal, .clk, .fs, .host, .mot, .outbox, .nvFaultLog, .nvLogNext] s (resvNotify v l s) := by
  unfold resvNotify
  try dsimp -proj only
  repeat' first
    | (with_reducible apply Keeps.foldl)
    | exact (rfl : _ = true)
    | (with_reducible exact Keeps.refl _ _)
    | assumption
    | (with_reducible exact (Keeps.refl _ _).mono rfl)
    | (with_reducible apply Keeps.ite <;> intro _)
    | (with_reducible apply Keeps.via updCtrl_keeps)
    | (with_reducible apply Keeps.via asyncEvent_keeps)
    | (with_reducible intro)
    | split
    | (dsimp -proj only)

end Sys2Proof.Machine
end

