-- ==== Sys2Proof/Laws/KeepSluice.lean ====
section
/-! SUPPORT. What each operation of Machine/Sluice.lean keeps (`Keeps`). -/

set_option Elab.async false

namespace Sys2Proof.Machine

theorem toEnd_keeps {c : Cmd} {s : State} :
    Keeps [.host] s (toEnd c s) := by
  unfold toEnd
  try dsimp -proj only
  repeat' first
    | (with_reducible rfl)
    | exact (rfl : _ = true)
    | (with_reducible exact Keeps.refl _ _)
    | assumption
    | (with_reducible exact (Keeps.refl _ _).mono rfl)
    | (dsimp -proj only [keepsMk]; with_reducible apply KeepsMk.upd_host)
    | (with_reducible exact natq_id)
    | (with_reducible exact natq_mod)
    | (with_reducible exact natq_map)
    | (with_reducible exact natq_reset)
    | (with_reducible intro)
    | (simp [modAt_length]; done)
    | (simp [setAt_length]; done)
    | (simp only [List.length_mapIdx, List.length_map]; done)
    | (simp [MotSt.units, modAt_length, setAt_length]; done)
    | (dsimp -proj only)

theorem admitOne_keeps {c : Cmd} {s : State} :
    Keeps [.regs, .flt, .pcie, .host, .outbox, .nvFaultLog, .nvLogNext] s (admitOne c s) := by
  unfold admitOne
  try dsimp -proj only
  repeat' first
    | exact (rfl : _ = true)
    | (with_reducible exact Keeps.refl _ _)
    | assumption
    | (with_reducible exact (Keeps.refl _ _).mono rfl)
    | (with_reducible apply Keeps.ite <;> intro _)
    | (with_reducible apply Keeps.via count_keeps)
    | (with_reducible apply Keeps.via toEnd_keeps)
    | (with_reducible intro)
    | split
    | (dsimp -proj only)

theorem refuseFrom_keeps {code : Nat} {l : List Cmd} {s : State} :
    Keeps [.host] s (refuseFrom code l s) := by
  unfold refuseFrom
  try dsimp -proj only
  repeat' first
    | (with_reducible apply Keeps.foldl)
    | exact (rfl : _ = true)
    | (with_reducible exact Keeps.refl _ _)
    | assumption
    | (with_reducible exact (Keeps.refl _ _).mono rfl)
    | (with_reducible apply Keeps.via toEnd_keeps)
    | (with_reducible refine Keeps.of_fst (by assumption) ?_)
    | (with_reducible refine Keeps.of_snd (by assumption) ?_)
    | (with_reducible intro)
    | split
    | (dsimp -proj only)

theorem admitChain_keeps {y0 : List Cmd} {y1 : State} :
    Keeps [.regs, .flt, .pcie, .host, .outbox, .nvFaultLog, .nvLogNext] y1 (admitChain y0 y1) := by
  fun_induction admitChain y0 y1
  all_goals try dsimp -proj only
  repeat' first
    | exact (rfl : _ = true)
    | (with_reducible exact Keeps.refl _ _)
    | assumption
    | (with_reducible apply Keeps.trans; rotate_left; assumption)
    | (with_reducible exact (Keeps.refl _ _).mono rfl)
    | (with_reducible apply Keeps.via admitOne_keeps)
    | (with_reducible apply Keeps.via refuseFrom_keeps)
    | (with_reducible refine Keeps.of_fst (by assumption) ?_)
    | (with_reducible refine Keeps.of_snd (by assumption) ?_)
    | (with_reducible intro)
    | split
    | (dsimp -proj only)
    | (dsimp -proj +zetaDelta only)

theorem holdFull_keeps {l : List Cmd} {s : State} :
    Keeps [.regs, .flt, .pcie, .host, .outbox, .nvFaultLog, .nvLogNext] s (holdFull l s) := by
  unfold holdFull
  try dsimp -proj only
  repeat' first
    | (with_reducible apply Keeps.foldl)
    | exact (rfl : _ = true)
    | (with_reducible exact Keeps.refl _ _)
    | assumption
    | (with_reducible exact (Keeps.refl _ _).mono rfl)
    | (with_reducible apply Keeps.via count_keeps)
    | (with_reducible apply Keeps.via updCmd_keeps)
    | (with_reducible intro)
    | (dsimp -proj only)

theorem headgateStep_keeps {s : State} :
    Keeps [.regs, .pwr, .bring, .flt, .mbx, .grants, .pins, .pcie, .journal, .clk, .fs, .host, .mot, .outbox, .nvFaultLog, .nvLogNext] s (headgateStep s) := by
  unfold headgateStep
  try dsimp -proj only
  repeat' first
    | (with_reducible apply Keeps.foldl)
    | (with_reducible rfl)
    | exact (rfl : _ = true)
    | (with_reducible exact Keeps.refl _ _)
    | assumption
    | (with_reducible exact (Keeps.refl _ _).mono rfl)
    | (with_reducible apply Keeps.ite <;> intro _)
    | (with_reducible apply Keeps.via raise_keeps)
    | (with_reducible apply Keeps.via sluRefresh_keeps)
    | (with_reducible apply Keeps.via admitChain_keeps)
    | (with_reducible apply Keeps.via holdFull_keeps)
    | (dsimp -proj only [keepsMk]; with_reducible apply KeepsMk.upd_host)
    | (with_reducible exact natq_id)
    | (with_reducible exact natq_mod)
    | (with_reducible exact natq_map)
    | (with_reducible exact natq_reset)
    | (with_reducible refine Keeps.of_fst (by assumption) ?_)
    | (with_reducible refine Keeps.of_snd (by assumption) ?_)
    | (with_reducible intro)
    | split
    | (simp [modAt_length]; done)
    | (simp [setAt_length]; done)
    | (simp only [List.length_mapIdx, List.length_map]; done)
    | (simp [MotSt.units, modAt_length, setAt_length]; done)
    | (dsimp -proj only)

theorem endCmd_keeps {id : Nat} {code : Nat} {s : State} :
    Keeps [.host] s (endCmd id code s) := by
  unfold endCmd
  try dsimp -proj only
  repeat' first
    | exact (rfl : _ = true)
    | (with_reducible exact Keeps.refl _ _)
    | assumption
    | (with_reducible exact (Keeps.refl _ _).mono rfl)
    | (with_reducible apply Keeps.via updCmd_keeps)
    | (with_reducible intro)
    | (dsimp -proj only)

theorem bufCheck_keeps {c : Cmd} {w xferOk : Bool} {s t : State} {x : Nat} (h : bufCheck c w xferOk s = some (x, t)) :
    Keeps [.regs] s t := by
  unfold bufCheck at h
  repeat' split at h
  all_goals first
    | (cases h; done)
    | (cases h; exact Keeps.refl _ _)
    | (cases h; exact logViolation_keeps.mono rfl)


theorem journalPieces_keeps {v : Volume} {cs : Nat} {cmd : Option Nat} {y0 : Nat} {y1 : Nat} {y2 : List Byte} {y3 : State} :
    Keeps [.pair, .journal, .tier, .outbox] y3 (journalPieces v cs cmd y0 y1 y2 y3) := by
  induction y0 generalizing y1 y2 y3 with
  | zero => exact Keeps.refl _ _
  | succ k ih =>
  unfold journalPieces
  try dsimp -proj only
  repeat' first
    | (with_reducible apply Keeps.trans; rotate_left; apply ih)
    | exact (rfl : _ = true)
    | (with_reducible exact Keeps.refl _ _)
    | assumption
    | (with_reducible exact (Keeps.refl _ _).mono rfl)
    | (with_reducible apply Keeps.ite <;> intro _)
    | (with_reducible apply Keeps.via jAppend_keeps)
    | (with_reducible refine Keeps.of_fst (by assumption) ?_)
    | (with_reducible refine Keeps.of_snd (by assumption) ?_)
    | (with_reducible intro)
    | split
    | (dsimp -proj only)
    | (dsimp -proj +zetaDelta only)

theorem largeJobs_keeps {v : Volume} {id off : Nat} {data : List Byte} {l : List Nat} {s t : State}
    (h : largeJobs v id off data l s = .ok t) : Keeps [.red] s t := by
  induction l generalizing s with
  | nil => cases h; exact Keeps.refl _ _
  | cons c r ih =>
    unfold largeJobs at h
    dsimp -proj only at h
    split at h
    · cases h
    · exact Keeps.trans (addJob_keeps.mono rfl) (ih h)


theorem canalWrites_keeps {c : Cmd} {data : List Byte} {y0 : List Canal} {y1 : State} :
    Keeps [.volu, .host, .outbox] y1 (canalWrites c data y0 y1).2 := by
  fun_induction canalWrites c data y0 y1
  all_goals try dsimp -proj only
  repeat' first
    | exact (rfl : _ = true)
    | (with_reducible exact Keeps.refl _ _)
    | assumption
    | (with_reducible apply Keeps.trans; rotate_left; assumption)
    | (with_reducible exact (Keeps.refl _ _).mono rfl)
    | (with_reducible apply Keeps.ite <;> intro _)
    | (with_reducible apply Keeps.via updCmd_keeps)
    | (with_reducible apply Keeps.via enterDirty_keeps)
    | (with_reducible apply Keeps.via canalSend_keeps)
    | (with_reducible refine Keeps.of_fst (by assumption) ?_)
    | (with_reducible refine Keeps.of_snd (by assumption) ?_)
    | (with_reducible intro)
    | split
    | (dsimp only)
    | (dsimp -proj +zetaDelta only)

theorem hostWrote_keeps {c : Cmd} {n : Nat} {s : State} :
    Keeps [.tier, .volu] s (hostWrote c n s) := by
  unfold hostWrote
  try dsimp -proj only
  repeat' first
    | exact (rfl : _ = true)
    | (with_reducible exact Keeps.refl _ _)
    | assumption
    | (with_reducible exact (Keeps.refl _ _).mono rfl)
    | (with_reducible apply Keeps.ite <;> intro _)
    | (with_reducible apply Keeps.via updVol_keeps)
    | (dsimp -proj only [keepsMk]; with_reducible apply KeepsMk.upd_tier)
    | (with_reducible intro)
    | split
    | (dsimp -proj only)

theorem runWrite_keeps {c : Cmd} {v : Volume} {s : State} :
    Keeps [.regs, .pwr, .bring, .flt, .mbx, .grants, .pair, .pins, .pcie, .journal, .clk, .fs, .tier, .red, .volu, .host, .mot, .outbox, .nvFaultLog, .nvLogNext] s (runWrite c v s) := by
  unfold runWrite
  try dsimp -proj only
  repeat' first
    | exact (rfl : _ = true)
    | (with_reducible exact Keeps.refl _ _)
    | assumption
    | (with_reducible exact (Keeps.refl _ _).mono rfl)
    | (with_reducible apply Keeps.ite <;> intro _)
    | (with_reducible apply Keeps.via setF_keeps)
    | (with_reducible apply Keeps.via updCmd_keeps)
    | (with_reducible apply Keeps.via flashRoCheck_keeps)
    | (with_reducible apply Keeps.via logChunk_keeps)
    | (with_reducible apply Keeps.via endCmd_keeps)
    | (with_reducible apply Keeps.via journalPieces_keeps)
    | (with_reducible apply Keeps.via canalWrites_keeps)
    | (with_reducible apply Keeps.via hostWrote_keeps)
    | (with_reducible refine Keeps.of_fst (by assumption) ?_)
    | (with_reducible refine Keeps.of_snd (by assumption) ?_)
    | (with_reducible refine Keeps.via (largeJobs_keeps (by assumption)) ?_ ?_)
    | (with_reducible intro)
    | split
    | (dsimp -proj only)

theorem zeroChunks_keeps {v : Nat} {lo : Nat} {hi : Nat} {s : State} :
    Keeps [.journal, .tier, .volu] s (zeroChunks v lo hi s) := by
  unfold zeroChunks
  try dsimp -proj only
  repeat' first
    | (with_reducible apply Keeps.foldl)
    | exact (rfl : _ = true)
    | (with_reducible exact Keeps.refl _ _)
    | assumption
    | (with_reducible exact (Keeps.refl _ _).mono rfl)
    | (with_reducible apply Keeps.via zeroChunk_keeps)
    | (with_reducible apply Keeps.via jDrop_keeps)
    | (with_reducible refine Keeps.of_fst (by assumption) ?_)
    | (with_reducible refine Keeps.of_snd (by assumption) ?_)
    | (with_reducible intro)
    | split
    | (dsimp -proj only)

theorem runZeroes_keeps {c : Cmd} {v : Volume} {s : State} :
    Keeps [.regs, .pair, .journal, .tier, .volu, .host, .outbox] s (runZeroes c v s) := by
  unfold runZeroes
  try dsimp -proj only
  repeat' first
    | exact (rfl : _ = true)
    | (with_reducible exact Keeps.refl _ _)
    | assumption
    | (with_reducible exact (Keeps.refl _ _).mono rfl)
    | (with_reducible apply Keeps.ite <;> intro _)
    | (with_reducible apply Keeps.via jRelease_keeps)
    | (with_reducible apply Keeps.via jRecord_keeps)
    | (with_reducible apply Keeps.via endCmd_keeps)
    | (with_reducible apply Keeps.via journalPieces_keeps)
    | (with_reducible apply Keeps.via canalWrites_keeps)
    | (with_reducible apply Keeps.via hostWrote_keeps)
    | (with_reducible apply Keeps.via zeroChunks_keeps)
    | (with_reducible intro)
    | split
    | (dsimp -proj only)

theorem runDealloc_keeps {c : Cmd} {v : Volume} {rs : List (Nat × Nat)} {s : State} :
    Keeps [.regs, .pair, .journal, .tier, .volu, .host, .outbox] s (runDealloc c v rs s) := by
  unfold runDealloc
  try dsimp -proj only
  repeat' first
    | (with_reducible apply Keeps.foldl)
    | exact (rfl : _ = true)
    | (with_reducible exact Keeps.refl _ _)
    | assumption
    | (with_reducible exact (Keeps.refl _ _).mono rfl)
    | (with_reducible apply Keeps.ite <;> intro _)
    | (with_reducible apply Keeps.via jRelease_keeps)
    | (with_reducible apply Keeps.via dirtyLog_keeps)
    | (with_reducible apply Keeps.via jRecord_keeps)
    | (with_reducible apply Keeps.via endCmd_keeps)
    | (with_reducible apply Keeps.via zeroChunks_keeps)
    | (with_reducible intro)
    | split
    | (dsimp -proj only)

theorem postRead_keeps {a : Nat} {b : Nat} {s : State} :
    Keeps [.fs, .host] s (postRead a b s) := by
  unfold postRead
  try dsimp -proj only
  repeat' first
    | (with_reducible rfl)
    | exact (rfl : _ = true)
    | (with_reducible exact Keeps.refl _ _)
    | assumption
    | (with_reducible exact (Keeps.refl _ _).mono rfl)
    | (with_reducible apply Keeps.ite <;> intro _)
    | (with_reducible apply Keeps.via needsEnd_keeps)
    | (dsimp -proj only [keepsMk]; with_reducible apply KeepsMk.upd_fs)
    | (with_reducible intro)
    | split
    | (simp [modAt_length]; done)
    | (simp [setAt_length]; done)
    | (simp only [List.length_mapIdx, List.length_map]; done)
    | (simp [MotSt.units, modAt_length, setAt_length]; done)
    | (dsimp -proj only)

theorem needRecord_keeps {id : Nat} {r : RecEnt} {s : State} :
    Keeps [.regs, .pwr, .pair, .fs, .host, .mot, .outbox] s (needRecord id r s) := by
  unfold needRecord
  try dsimp -proj only
  repeat' first
    | (with_reducible apply Keeps.foldl)
    | exact (rfl : _ = true)
    | (with_reducible exact Keeps.refl _ _)
    | assumption
    | (with_reducible exact (Keeps.refl _ _).mono rfl)
    | (with_reducible apply Keeps.ite <;> intro _)
    | (with_reducible apply Keeps.via updCmd_keeps)
    | (with_reducible apply Keeps.via wakeRequest_keeps)
    | (with_reducible apply Keeps.via askPartner_keeps)
    | (with_reducible apply Keeps.via endCmd_keeps)
    | (with_reducible apply Keeps.via postRead_keeps)
    | (with_reducible refine Keeps.of_fst (by assumption) ?_)
    | (with_reducible refine Keeps.of_snd (by assumption) ?_)
    | (with_reducible intro)
    | split
    | (dsimp -proj only)

theorem runRead_keeps {c : Cmd} {v : Volume} {s : State} :
    Keeps [.regs, .pwr, .flt, .pair, .pcie, .fs, .tier, .host, .mot, .outbox, .nvFaultLog, .nvLogNext] s (runRead c v s) := by
  unfold runRead
  try dsimp -proj only
  repeat' first
    | (with_reducible apply Keeps.foldl)
    | exact (rfl : _ = true)
    | (with_reducible exact Keeps.refl _ _)
    | assumption
    | (with_reducible exact (Keeps.refl _ _).mono rfl)
    | (with_reducible apply Keeps.ite <;> intro _)
    | (with_reducible apply Keeps.via takeReads_keeps)
    | (with_reducible apply Keeps.via needRecord_keeps)
    | (with_reducible refine Keeps.of_fst (by assumption) ?_)
    | (with_reducible refine Keeps.of_snd (by assumption) ?_)
    | (with_reducible intro)
    | split
    | (dsimp -proj only)

theorem restoreCanals_keeps {v : Nat} {cs : List Nat} {s : State} :
    Keeps [.volu] s (restoreCanals v cs s) := by
  unfold restoreCanals
  try dsimp -proj only
  repeat' first
    | (with_reducible apply Keeps.foldl)
    | exact (rfl : _ = true)
    | (with_reducible exact Keeps.refl _ _)
    | assumption
    | (with_reducible exact (Keeps.refl _ _).mono rfl)
    | (with_reducible apply Keeps.ite <;> intro _)
    | (with_reducible apply Keeps.via updCanal_keeps)
    | (with_reducible apply Keeps.via enterDirty_keeps)
    | (with_reducible intro)
    | split
    | (dsimp -proj only)

theorem runRestore_keeps {c : Cmd} {v : Volume} {n : Nat} {s : State} :
    Keeps [.regs, .mem, .pwr, .bring, .flt, .mbx, .grants, .pair, .pins, .pcie, .journal, .clk, .fs, .tier, .volu, .host, .mot, .outbox, .nvFaultLog, .nvLogNext] s (runRestore c v n s) := by
  unfold runRestore
  try dsimp -proj only
  repeat' first
    | exact (rfl : _ = true)
    | (with_reducible exact Keeps.refl _ _)
    | assumption
    | (with_reducible exact (Keeps.refl _ _).mono rfl)
    | (with_reducible apply Keeps.ite <;> intro _)
    | (with_reducible apply Keeps.via updVol_keeps)
    | (with_reducible apply Keeps.via jRelease_keeps)
    | (with_reducible apply Keeps.via jRecord_keeps)
    | (with_reducible apply Keeps.via nsChanged_keeps)
    | (with_reducible apply Keeps.via mapGone_keeps)
    | (with_reducible apply Keeps.via endCmd_keeps)
    | (with_reducible apply Keeps.via restoreCanals_keeps)
    | (with_reducible refine Keeps.of_fst (by assumption) ?_)
    | (with_reducible refine Keeps.of_snd (by assumption) ?_)
    | (with_reducible intro)
    | split
    | (dsimp -proj only)

theorem runCmd_keeps {c : Cmd} {xferOk : Bool} {s : State} :
    Keeps [.regs, .mem, .pwr, .bring, .flt, .mbx, .grants, .pair, .pins, .pcie, .journal, .clk, .fs, .tier, .red, .volu, .host, .mot, .outbox, .nvFaultLog, .nvLogNext] s (runCmd c xferOk s) := by
  unfold runCmd
  try dsimp -proj only
  repeat' first
    | (with_reducible rfl)
    | exact (rfl : _ = true)
    | (with_reducible exact Keeps.refl _ _)
    | assumption
    | (with_reducible exact (Keeps.refl _ _).mono rfl)
    | (with_reducible apply Keeps.ite <;> intro _)
    | (with_reducible apply Keeps.via updVol_keeps)
    | (with_reducible apply Keeps.via jRelease_keeps)
    | (with_reducible apply Keeps.via jRecord_keeps)
    | (with_reducible apply Keeps.via updCmd_keeps)
    | (with_reducible apply Keeps.via wakeRequest_keeps)
    | (with_reducible apply Keeps.via nsChanged_keeps)
    | (with_reducible apply Keeps.via askPartner_keeps)
    | (with_reducible apply Keeps.via mapGone_keeps)
    | (with_reducible apply Keeps.via removeVolume_keeps)
    | (with_reducible apply Keeps.via resvNotify_keeps)
    | (with_reducible apply Keeps.via endCmd_keeps)
    | (with_reducible apply Keeps.via runWrite_keeps)
    | (with_reducible apply Keeps.via runZeroes_keeps)
    | (with_reducible apply Keeps.via runDealloc_keeps)
    | (with_reducible apply Keeps.via runRead_keeps)
    | (with_reducible apply Keeps.via runRestore_keeps)
    | (dsimp -proj only [keepsMk]; with_reducible apply KeepsMk.upd_fs)
    | (with_reducible refine Keeps.of_fst (by assumption) ?_)
    | (with_reducible refine Keeps.of_snd (by assumption) ?_)
    | (with_reducible refine Keeps.via (takeSnap_keeps (by assumption)) ?_ ?_)
    | (with_reducible refine Keeps.via (bufCheck_keeps (by assumption)) ?_ ?_)
    | (with_reducible intro)
    | split
    | (simp [modAt_length]; done)
    | (simp [setAt_length]; done)
    | (simp only [List.length_mapIdx, List.length_map]; done)
    | (simp [MotSt.units, modAt_length, setAt_length]; done)
    | (dsimp -proj only)

theorem chainFail_keeps {c : Cmd} {s : State} :
    Keeps [.host] s (chainFail c s) := by
  unfold chainFail
  try dsimp -proj only
  repeat' first
    | (with_reducible rfl)
    | exact (rfl : _ = true)
    | (with_reducible exact Keeps.refl _ _)
    | assumption
    | (with_reducible exact (Keeps.refl _ _).mono rfl)
    | (with_reducible apply Keeps.ite <;> intro _)
    | (dsimp -proj only [keepsMk]; with_reducible apply KeepsMk.upd_host)
    | (with_reducible exact natq_id)
    | (with_reducible exact natq_mod)
    | (with_reducible exact natq_map)
    | (with_reducible exact natq_reset)
    | (with_reducible refine Keeps.of_fst (by assumption) ?_)
    | (with_reducible refine Keeps.of_snd (by assumption) ?_)
    | (with_reducible intro)
    | split
    | (simp [modAt_length]; done)
    | (simp [setAt_length]; done)
    | (simp only [List.length_mapIdx, List.length_map]; done)
    | (simp [MotSt.units, modAt_length, setAt_length]; done)
    | (dsimp -proj only)

theorem replyPartner_keeps {req : Nat} {st : Nat} {data : List Byte} {s : State} :
    Keeps [.pair, .outbox] s (replyPartner req st data s) := by
  unfold replyPartner
  try dsimp -proj only
  repeat' first
    | exact (rfl : _ = true)
    | (with_reducible exact Keeps.refl _ _)
    | assumption
    | (with_reducible exact (Keeps.refl _ _).mono rfl)
    | (with_reducible apply Keeps.via nalSend_keeps)
    | (with_reducible intro)
    | (dsimp -proj only)

theorem scatter_keeps {k : Nat} {y0 : List (Nat × Nat)} {y1 : List Byte} {y2 : State} :
    Keeps [.regs, .mem, .bad, .free, .flt, .pcie, .memc, .outbox, .nvFaultLog, .nvLogNext] y2 (scatter k y0 y1 y2) := by
  fun_induction scatter k y0 y1 y2
  all_goals try dsimp -proj only
  repeat' first
    | exact (rfl : _ = true)
    | (with_reducible exact Keeps.refl _ _)
    | assumption
    | (with_reducible apply Keeps.trans; rotate_left; assumption)
    | (with_reducible exact (Keeps.refl _ _).mono rfl)
    | (with_reducible apply Keeps.via spaceStore_keeps)
    | (with_reducible refine Keeps.of_fst (by assumption) ?_)
    | (with_reducible refine Keeps.of_snd (by assumption) ?_)
    | (with_reducible intro)
    | split
    | (dsimp -proj only)
    | (dsimp -proj +zetaDelta only)

theorem sqDeleteCheck_keeps {id : Nat} {q : Nat} {s : State} :
    Keeps [.regs, .mem, .pwr, .bring, .flt, .mbx, .grants, .pins, .pcie, .journal, .clk, .fs, .host, .mot, .outbox, .nvFaultLog, .nvLogNext] s (sqDeleteCheck id q s) := by
  unfold sqDeleteCheck
  try dsimp -proj only
  repeat' first
    | exact (rfl : _ = true)
    | (with_reducible exact Keeps.refl _ _)
    | assumption
    | (with_reducible exact (Keeps.refl _ _).mono rfl)
    | (with_reducible apply Keeps.ite <;> intro _)
    | (with_reducible apply Keeps.via updCtrl_keeps)
    | (with_reducible apply Keeps.via nvmRefresh_keeps)
    | (with_reducible apply Keeps.via nvDone_keeps)
    | (with_reducible refine Keeps.of_fst (by assumption) ?_)
    | (with_reducible refine Keeps.of_snd (by assumption) ?_)
    | (with_reducible intro)
    | split
    | (dsimp -proj only)

theorem setEnd_keeps {m : Nat} {l : List Cmd} {s : State} :
    Keeps [.regs, .mbx, .pair, .journal, .tier, .volu, .outbox] s (setEnd m l s) := by
  unfold setEnd
  try dsimp -proj only
  repeat' first
    | (with_reducible apply Keeps.foldl)
    | exact (rfl : _ = true)
    | (with_reducible exact Keeps.refl _ _)
    | assumption
    | (with_reducible exact (Keeps.refl _ _).mono rfl)
    | (with_reducible apply Keeps.ite <;> intro _)
    | (with_reducible apply Keeps.via mbxSetResult_keeps)
    | (with_reducible apply Keeps.via removeSnap_keeps)
    | (with_reducible refine Keeps.of_fst (by assumption) ?_)
    | (with_reducible refine Keeps.of_snd (by assumption) ?_)
    | (with_reducible intro)
    | split
    | (dsimp -proj only)

theorem dropCmds_keeps {p : Cmd → Bool} {s : State} :
    Keeps [.regs, .host] s (dropCmds p s) := by
  unfold dropCmds
  try dsimp -proj only
  repeat' first
    | (with_reducible rfl)
    | exact (rfl : _ = true)
    | (with_reducible exact Keeps.refl _ _)
    | assumption
    | (with_reducible exact (Keeps.refl _ _).mono rfl)
    | (with_reducible apply Keeps.via sluRefresh_keeps)
    | (dsimp -proj only [keepsMk]; with_reducible apply KeepsMk.upd_host)
    | (with_reducible exact natq_id)
    | (with_reducible exact natq_mod)
    | (with_reducible exact natq_map)
    | (with_reducible exact natq_reset)
    | (with_reducible intro)
    | (simp [modAt_length]; done)
    | (simp [setAt_length]; done)
    | (simp only [List.length_mapIdx, List.length_map]; done)
    | (simp [MotSt.units, modAt_length, setAt_length]; done)
    | (dsimp -proj only)

theorem postCmd_keeps {c : Cmd} {st : Nat} {xferOk : Bool} {s : State} :
    Keeps [.regs, .mem, .bad, .free, .pwr, .bring, .flt, .mbx, .grants, .pair, .pins, .pcie, .journal, .clk, .fs, .memc, .volu, .host, .mot, .outbox, .nvFaultLog, .nvLogNext] s (postCmd c st xferOk s) := by
  unfold postCmd
  try dsimp -proj only
  repeat' first
    | exact (rfl : _ = true)
    | (with_reducible exact Keeps.refl _ _)
    | assumption
    | (with_reducible exact (Keeps.refl _ _).mono rfl)
    | (with_reducible apply Keeps.ite <;> intro _)
    | (with_reducible apply Keeps.via send_keeps)
    | (with_reducible apply Keeps.via takeFree_keeps)
    | (with_reducible apply Keeps.via mbxSetResult_keeps)
    | (with_reducible apply Keeps.via updVol_keeps)
    | (with_reducible apply Keeps.via nvDone_keeps)
    | (with_reducible apply Keeps.via natDone_keeps)
    | (with_reducible apply Keeps.via canalTx_keeps)
    | (with_reducible apply Keeps.via replyPartner_keeps)
    | (with_reducible apply Keeps.via scatter_keeps)
    | (with_reducible apply Keeps.via sqDeleteCheck_keeps)
    | (with_reducible refine Keeps.of_fst (by assumption) ?_)
    | (with_reducible refine Keeps.of_snd (by assumption) ?_)
    | (with_reducible intro)
    | split
    | (dsimp -proj only)

theorem finishCmd_keeps {c : Cmd} {st : Nat} {xferOk : Bool} {s : State} :
    Keeps [.regs, .mem, .bad, .free, .pwr, .bring, .flt, .mbx, .grants, .pair, .pins, .pcie, .journal, .clk, .fs, .memc, .tier, .volu, .host, .mot, .outbox, .nvFaultLog, .nvLogNext] s (finishCmd c st xferOk s) := by
  unfold finishCmd
  try dsimp -proj only
  repeat' first
    | exact (rfl : _ = true)
    | (with_reducible exact Keeps.refl _ _)
    | assumption
    | (with_reducible exact (Keeps.refl _ _).mono rfl)
    | (with_reducible apply Keeps.ite <;> intro _)
    | (with_reducible apply Keeps.via jRelease_keeps)
    | (with_reducible apply Keeps.via stopCheck_keeps)
    | (with_reducible apply Keeps.via pump_keeps)
    | (with_reducible apply Keeps.via drainFinal_keeps)
    | (with_reducible apply Keeps.via chainFail_keeps)
    | (with_reducible apply Keeps.via dropCmds_keeps)
    | (with_reducible apply Keeps.via postCmd_keeps)
    | (dsimp -proj only [keepsMk]; with_reducible apply KeepsMk.upd_journal_tier)
    | (with_reducible refine Keeps.of_fst (by assumption) ?_)
    | (with_reducible refine Keeps.of_snd (by assumption) ?_)
    | (with_reducible intro)
    | split
    | (dsimp -proj only)

theorem dropJobs_keeps {id : Nat} {s : State} :
    Keeps [.red] s (dropJobs id s) := by
  unfold dropJobs
  try dsimp -proj only
  repeat' first
    | exact (rfl : _ = true)
    | (with_reducible exact Keeps.refl _ _)
    | assumption
    | (with_reducible exact (Keeps.refl _ _).mono rfl)
    | (dsimp -proj only [keepsMk]; with_reducible apply KeepsMk.upd_red)
    | (with_reducible intro)
    | (dsimp -proj only)

theorem abortedRead_keeps {c : Cmd} {s : State} :
    Keeps [.regs, .mem, .bad, .free, .flt, .pcie, .memc, .outbox, .nvFaultLog, .nvLogNext] s (abortedRead c s) := by
  unfold abortedRead
  try dsimp -proj only
  repeat' first
    | exact (rfl : _ = true)
    | (with_reducible exact Keeps.refl _ _)
    | assumption
    | (with_reducible exact (Keeps.refl _ _).mono rfl)
    | (with_reducible apply Keeps.ite <;> intro _)
    | (with_reducible apply Keeps.via freeBytes_keeps)
    | (with_reducible apply Keeps.via scatter_keeps)
    | (with_reducible refine Keeps.of_fst (by assumption) ?_)
    | (with_reducible refine Keeps.of_snd (by assumption) ?_)
    | (with_reducible intro)
    | split
    | (dsimp -proj only)

theorem dropReq_keeps {r : Nat} {s : State} :
    Keeps [.host] s (dropReq r s) := by
  unfold dropReq
  try dsimp -proj only
  repeat' first
    | (with_reducible rfl)
    | exact (rfl : _ = true)
    | (with_reducible exact Keeps.refl _ _)
    | assumption
    | (with_reducible exact (Keeps.refl _ _).mono rfl)
    | (dsimp -proj only [keepsMk]; with_reducible apply KeepsMk.upd_host)
    | (with_reducible exact natq_id)
    | (with_reducible exact natq_mod)
    | (with_reducible exact natq_map)
    | (with_reducible exact natq_reset)
    | (with_reducible intro)
    | (simp [modAt_length]; done)
    | (simp [setAt_length]; done)
    | (simp only [List.length_mapIdx, List.length_map]; done)
    | (simp [MotSt.units, modAt_length, setAt_length]; done)
    | (dsimp -proj only)

theorem resolveHost_keeps {c : Cmd} {s : State} :
    Keeps [.regs, .pair, .host, .outbox] s (resolveHost c s) := by
  unfold resolveHost
  try dsimp -proj only
  repeat' first
    | exact (rfl : _ = true)
    | (with_reducible exact Keeps.refl _ _)
    | assumption
    | (with_reducible exact (Keeps.refl _ _).mono rfl)
    | (with_reducible apply Keeps.ite <;> intro _)
    | (with_reducible apply Keeps.via updCmd_keeps)
    | (with_reducible apply Keeps.via sluRefresh_keeps)
    | (with_reducible apply Keeps.via askPartner_keeps)
    | (with_reducible apply Keeps.via endCmd_keeps)
    | (with_reducible refine Keeps.of_fst (by assumption) ?_)
    | (with_reducible refine Keeps.of_snd (by assumption) ?_)
    | (with_reducible intro)
    | split
    | (dsimp -proj only)

theorem resolveMedia_keeps {c : Cmd} {req : Nat} {args : List Nat} {s : State} :
    Keeps [.regs, .flt, .pair, .pcie, .fs, .tier, .host, .outbox, .nvFaultLog, .nvLogNext] s (resolveMedia c req args s) := by
  unfold resolveMedia
  try dsimp -proj only
  repeat' first
    | exact (rfl : _ = true)
    | (with_reducible exact Keeps.refl _ _)
    | assumption
    | (with_reducible exact (Keeps.refl _ _).mono rfl)
    | (with_reducible apply Keeps.ite <;> intro _)
    | (with_reducible apply Keeps.via updCmd_keeps)
    | (with_reducible apply Keeps.via takeReads_keeps)
    | (with_reducible apply Keeps.via askPartner_keeps)
    | (with_reducible apply Keeps.via endCmd_keeps)
    | (with_reducible apply Keeps.via postRead_keeps)
    | (with_reducible refine Keeps.of_fst (by assumption) ?_)
    | (with_reducible refine Keeps.of_snd (by assumption) ?_)
    | (with_reducible intro)
    | split
    | (dsimp -proj only)

theorem mediaArrives_keeps {args : List Nat} {data : List Byte} {s : State} :
    Keeps [.mem] s (mediaArrives args data s) := by
  unfold mediaArrives
  try dsimp -proj only
  repeat' first
    | exact (rfl : _ = true)
    | (with_reducible exact Keeps.refl _ _)
    | assumption
    | (with_reducible exact (Keeps.refl _ _).mono rfl)
    | (with_reducible apply Keeps.via memWrite_keeps)
    | (with_reducible refine Keeps.of_fst (by assumption) ?_)
    | (with_reducible refine Keeps.of_snd (by assumption) ?_)
    | (with_reducible intro)
    | split
    | (dsimp -proj only)

theorem hwmReset_keeps {s : State} :
    Keeps [.regs] s (hwmReset s) := by
  unfold hwmReset
  try dsimp -proj only
  repeat' first
    | exact (rfl : _ = true)
    | (with_reducible exact Keeps.refl _ _)
    | assumption
    | (with_reducible exact (Keeps.refl _ _).mono rfl)
    | (with_reducible apply Keeps.via setF_keeps)
    | (with_reducible intro)
    | (dsimp -proj only)

end Sys2Proof.Machine
end

