-- ==== Sys2Proof/Laws/KeepNative.lean ====
section
/-! SUPPORT. What each operation of Machine/Native.lean keeps (`Keeps`). -/

set_option Elab.async false

namespace Sys2Proof.Machine

theorem sqBell_keeps {q : Nat} {s : State} :
    Keeps [.regs, .mem, .bad, .free, .flt, .pcie, .memc, .host, .outbox, .nvFaultLog, .nvLogNext] s (sqBell q s) := by
  unfold sqBell
  try dsimp -proj only
  repeat' first
    | exact (rfl : _ = true)
    | (with_reducible exact Keeps.refl _ _)
    | assumption
    | (with_reducible exact (Keeps.refl _ _).mono rfl)
    | (with_reducible apply Keeps.ite <;> intro _)
    | (with_reducible apply Keeps.via natFetch_keeps)
    | (with_reducible apply Keeps.via readSqProd_keeps)
    | (with_reducible intro)
    | split
    | (dsimp -proj only)

theorem cqBell_keeps {q : Nat} {s : State} :
    Keeps [.regs, .mem, .bad, .free, .flt, .mbx, .pcie, .memc, .host, .outbox, .nvFaultLog, .nvLogNext] s (cqBell q s) := by
  unfold cqBell
  try dsimp -proj only
  repeat' first
    | exact (rfl : _ = true)
    | (with_reducible exact Keeps.refl _ _)
    | assumption
    | (with_reducible exact (Keeps.refl _ _).mono rfl)
    | (with_reducible apply Keeps.ite <;> intro _)
    | (with_reducible apply Keeps.via readCqCons_keeps)
    | (with_reducible apply Keeps.via natDrain_keeps)
    | (with_reducible apply Keeps.via stopCheck_keeps)
    | (with_reducible apply Keeps.via natFetch_keeps)
    | (with_reducible intro)
    | split
    | (dsimp -proj only)

theorem pushTake_keeps {q : Nat} {n : Nat} {sq : Bool} {s : State} :
    Keeps [.regs, .mem, .bad, .free, .flt, .pcie, .memc, .host, .outbox, .nvFaultLog, .nvLogNext] s (pushTake q n sq s) := by
  unfold pushTake
  try dsimp -proj only
  repeat' first
    | exact (rfl : _ = true)
    | (with_reducible exact Keeps.refl _ _)
    | assumption
    | (with_reducible exact (Keeps.refl _ _).mono rfl)
    | (with_reducible apply Keeps.ite <;> intro _)
    | (with_reducible apply Keeps.via setF_keeps)
    | (with_reducible apply Keeps.via updNat_keeps)
    | (with_reducible apply Keeps.via readSqProd_keeps)
    | (with_reducible intro)
    | split
    | (dsimp -proj only)

theorem natTake_keeps {q : Nat} {kind : Nat → Bool} {s t : State} {f : Fetched} (h : natTake q kind s = some (f, t)) :
    Keeps [.host] s t := by
  unfold natTake at h
  repeat' split at h
  all_goals first
    | (cases h; done)
    | (cases h; exact updNat_keeps.mono rfl)


theorem natBuf_keeps {f : Fetched} {c : Cmd} {s : State} :
    Keeps [.regs] s (natBuf f c s).2 := by
  unfold natBuf
  try dsimp -proj only
  repeat' first
    | exact (rfl : _ = true)
    | (with_reducible exact Keeps.refl _ _)
    | assumption
    | (with_reducible exact (Keeps.refl _ _).mono rfl)
    | (with_reducible apply Keeps.ite <;> intro _)
    | (with_reducible apply Keeps.via logViolation_keeps)
    | (with_reducible refine Keeps.of_fst (by assumption) ?_)
    | (with_reducible refine Keeps.of_snd (by assumption) ?_)
    | (with_reducible intro)
    | split
    | (dsimp only)

theorem fenceEnd_keeps {q : Nat} {st : Nat} {w : FenceWait} {s : State} :
    Keeps [.regs, .mem, .bad, .free, .pwr, .bring, .flt, .mbx, .grants, .pins, .pcie, .journal, .clk, .fs, .memc, .host, .mot, .outbox, .nvFaultLog, .nvLogNext] s (fenceEnd q st w s) := by
  unfold fenceEnd
  try dsimp -proj only
  repeat' first
    | exact (rfl : _ = true)
    | (with_reducible exact Keeps.refl _ _)
    | assumption
    | (with_reducible exact (Keeps.refl _ _).mono rfl)
    | (with_reducible apply Keeps.via setF_keeps)
    | (with_reducible apply Keeps.via updNat_keeps)
    | (with_reducible apply Keeps.via natDone_keeps)
    | (with_reducible apply Keeps.via stopCheck_keeps)
    | (with_reducible apply Keeps.via natFetch_keeps)
    | (with_reducible intro)
    | (dsimp -proj only)

theorem endPublished_keeps {q : Nat} {st : Nat} {y0 : Nat} {y1 : State} :
    Keeps [.regs, .mem, .bad, .free, .pwr, .bring, .flt, .mbx, .grants, .pins, .pcie, .journal, .clk, .fs, .memc, .host, .mot, .outbox, .nvFaultLog, .nvLogNext] y1 (endPublished q st y0 y1) := by
  induction y0 generalizing y1 with
  | zero => exact Keeps.refl _ _
  | succ k ih =>
  unfold endPublished
  try dsimp -proj only
  repeat' first
    | (with_reducible apply Keeps.trans; rotate_left; apply ih)
    | exact (rfl : _ = true)
    | (with_reducible exact Keeps.refl _ _)
    | assumption
    | (with_reducible exact (Keeps.refl _ _).mono rfl)
    | (with_reducible apply Keeps.ite <;> intro _)
    | (with_reducible apply Keeps.via updNat_keeps)
    | (with_reducible apply Keeps.via natPost_keeps)
    | (with_reducible apply Keeps.via putSqCons_keeps)
    | (with_reducible refine Keeps.of_fst (by assumption) ?_)
    | (with_reducible refine Keeps.of_snd (by assumption) ?_)
    | (with_reducible intro)
    | split
    | (dsimp -proj only)
    | (dsimp -proj +zetaDelta only)

theorem natStopGo_keeps {q : Nat} {s0 : State} :
    Keeps [.regs, .mem, .bad, .free, .pwr, .bring, .flt, .mbx, .grants, .pins, .pcie, .journal, .clk, .fs, .memc, .host, .mot, .outbox, .nvFaultLog, .nvLogNext] s0 (natStopGo q s0) := by
  unfold natStopGo
  try dsimp -proj only
  repeat' first
    | (with_reducible apply Keeps.foldl)
    | (with_reducible rfl)
    | exact (rfl : _ = true)
    | (with_reducible exact Keeps.refl _ _)
    | assumption
    | (with_reducible exact (Keeps.refl _ _).mono rfl)
    | (with_reducible apply Keeps.ite <;> intro _)
    | (with_reducible apply Keeps.via setF_keeps)
    | (with_reducible apply Keeps.via updNat_keeps)
    | (with_reducible apply Keeps.via natPost_keeps)
    | (with_reducible apply Keeps.via readSqProd_keeps)
    | (with_reducible apply Keeps.via dropCmds_keeps)
    | (with_reducible apply Keeps.via endPublished_keeps)
    | (dsimp -proj only [keepsMk]; with_reducible apply KeepsMk.upd_host)
    | (with_reducible exact natq_id)
    | (with_reducible exact natq_mod)
    | (with_reducible exact natq_map)
    | (with_reducible exact natq_reset)
    | (with_reducible refine Keeps.of_fst (by assumption) ?_)
    | (with_reducible refine Keeps.of_snd (by assumption) ?_)
    | (with_reducible intro)
    | split
    | (simp [modAt_length]; done)
    | (simp [setAt_length]; done)
    | (simp only [List.length_mapIdx, List.length_map]; done)
    | (simp [MotSt.units, modAt_length, setAt_length]; done)
    | (dsimp -proj only)

theorem natStop_keeps {q : Nat} {s : State} :
    Keeps [.regs, .mem, .bad, .free, .pwr, .bring, .flt, .mbx, .grants, .pins, .pcie, .journal, .clk, .fs, .memc, .host, .mot, .outbox, .nvFaultLog, .nvLogNext] s (natStop q s).2 := by
  unfold natStop
  try dsimp -proj only
  repeat' first
    | exact (rfl : _ = true)
    | (with_reducible exact Keeps.refl _ _)
    | assumption
    | (with_reducible exact (Keeps.refl _ _).mono rfl)
    | (with_reducible apply Keeps.ite <;> intro _)
    | (with_reducible apply Keeps.via setF_keeps)
    | (with_reducible apply Keeps.via natStopGo_keeps)
    | (with_reducible intro)
    | split
    | (dsimp only)

theorem natResume_keeps {q : Nat} {s : State} :
    Keeps [.regs, .mem, .bad, .free, .flt, .pcie, .memc, .host, .outbox, .nvFaultLog, .nvLogNext] s (natResume q s).2 := by
  unfold natResume
  try dsimp -proj only
  repeat' first
    | exact (rfl : _ = true)
    | (with_reducible exact Keeps.refl _ _)
    | assumption
    | (with_reducible exact (Keeps.refl _ _).mono rfl)
    | (with_reducible apply Keeps.ite <;> intro _)
    | (with_reducible apply Keeps.via setF_keeps)
    | (with_reducible apply Keeps.via updNat_keeps)
    | (with_reducible apply Keeps.via natFetch_keeps)
    | (with_reducible apply Keeps.via readSqProd_keeps)
    | (with_reducible intro)
    | split
    | (dsimp only)

theorem natSkip_keeps {q : Nat} {s : State} :
    Keeps [.regs, .mem, .bad, .free, .pwr, .bring, .flt, .mbx, .grants, .pins, .pcie, .journal, .clk, .fs, .memc, .host, .mot, .outbox, .nvFaultLog, .nvLogNext] s (natSkip q s).2 := by
  unfold natSkip
  try dsimp -proj only
  repeat' first
    | (with_reducible apply Keeps.foldl)
    | exact (rfl : _ = true)
    | (with_reducible exact Keeps.refl _ _)
    | assumption
    | (with_reducible exact (Keeps.refl _ _).mono rfl)
    | (with_reducible apply Keeps.ite <;> intro _)
    | (with_reducible apply Keeps.via setF_keeps)
    | (with_reducible apply Keeps.via updNat_keeps)
    | (with_reducible apply Keeps.via natPost_keeps)
    | (with_reducible apply Keeps.via putSqCons_keeps)
    | (with_reducible apply Keeps.via natFetch_keeps)
    | (with_reducible apply Keeps.via readSqProd_keeps)
    | (with_reducible apply Keeps.via natResume_keeps)
    | (with_reducible intro)
    | split
    | (dsimp only)

theorem queueCmd_keeps {wp : List Part} {m : Nat} {c : MbxCmd} {f : Nat → State → State × Option MbxResult} {s : State} (h_f : ∀ q0 q1, Keeps wp q1 (f q0 q1).1) (hwp : within wp [] = true) :
    Keeps wp s (queueCmd m c f s).1 := by
  unfold queueCmd
  try dsimp -proj only
  repeat' first
    | exact (rfl : _ = true)
    | (with_reducible exact Keeps.refl _ _)
    | assumption
    | exact within_contains hwp rfl
    | exact within_trans hwp rfl
    | (with_reducible exact (Keeps.refl _ _).mono rfl)
    | (with_reducible apply Keeps.ite <;> intro _)
    | (with_reducible apply Keeps.via answer_keeps)
    | (with_reducible apply Keeps.trans ?_ (h_f _ _))
    | (with_reducible intro)
    | split
    | (dsimp only)

theorem natFree_keeps {q : Nat} {s : State} :
    Keeps [.regs, .host] s (natFree q s) := by
  unfold natFree
  try dsimp -proj only
  repeat' first
    | exact (rfl : _ = true)
    | (with_reducible exact Keeps.refl _ _)
    | assumption
    | (with_reducible exact (Keeps.refl _ _).mono rfl)
    | (with_reducible apply Keeps.via wr_keeps)
    | (with_reducible apply Keeps.via updNat_keeps)
    | (with_reducible intro)
    | (dsimp -proj only)

end Sys2Proof.Machine
end

