-- ==== Sys2Proof/Laws/KeepMbxProto.lean ====
section
/-! SUPPORT. What each operation of Machine/MbxProto.lean keeps (`Keeps`). -/

set_option Elab.async false

namespace Sys2Proof.Machine

theorem fenceHolds_keeps {s : State} :
    Keeps [.regs, .host] s (fenceHolds s) := by
  unfold fenceHolds
  try dsimp -proj only
  repeat' first
    | (with_reducible apply Keeps.foldl)
    | (with_reducible rfl)
    | exact (rfl : _ = true)
    | (with_reducible exact Keeps.refl _ _)
    | assumption
    | (with_reducible exact (Keeps.refl _ _).mono rfl)
    | (with_reducible apply Keeps.ite <;> intro _)
    | (with_reducible apply Keeps.via setB_keeps)
    | (dsimp -proj only [keepsMk]; with_reducible apply KeepsMk.upd_host)
    | (with_reducible exact natq_id)
    | (with_reducible exact natq_mod)
    | (with_reducible exact natq_map)
    | (with_reducible exact natq_reset)
    | (with_reducible intro)
    | split
    | (simp [modAt_length]; done)
    | (simp [setAt_length]; done)
    | (simp only [List.length_mapIdx, List.length_map]; done)
    | (simp [MotSt.units, modAt_length, setAt_length]; done)
    | (dsimp -proj only)

theorem fenceAccept_keeps {m : Nat} {c : MbxCmd} {s : State} :
    Keeps [.regs, .fences, .host] s (fenceAccept m c s) := by
  unfold fenceAccept
  try dsimp -proj only
  repeat' first
    | exact (rfl : _ = true)
    | (with_reducible exact Keeps.refl _ _)
    | assumption
    | (with_reducible exact (Keeps.refl _ _).mono rfl)
    | (with_reducible apply Keeps.ite <;> intro _)
    | (with_reducible apply Keeps.via fenceHolds_keeps)
    | (dsimp -proj only [keepsMk]; with_reducible apply KeepsMk.upd_fences)
    | (with_reducible intro)
    | split
    | (dsimp -proj only)

theorem fenceDrop_keeps {m : Nat} {s : State} :
    Keeps [.regs, .mem, .bad, .free, .flt, .fences, .pcie, .memc, .host, .outbox, .nvFaultLog, .nvLogNext] s (fenceDrop m s) := by
  unfold fenceDrop
  try dsimp -proj only
  repeat' first
    | exact (rfl : _ = true)
    | (with_reducible exact Keeps.refl _ _)
    | assumption
    | (with_reducible exact (Keeps.refl _ _).mono rfl)
    | (with_reducible apply Keeps.ite <;> intro _)
    | (with_reducible apply Keeps.via pump_keeps)
    | (with_reducible apply Keeps.via fenceHolds_keeps)
    | (dsimp -proj only [keepsMk]; with_reducible apply KeepsMk.upd_fences)
    | (with_reducible intro)
    | split
    | (dsimp -proj only)

theorem post_keeps {m : Nat} {c : MbxCmd} {holder : Option Nat} {req : Option Nat} {msg : Bool} {s : State} :
    Keeps [.regs, .mbx, .fences, .host] s (post m c holder req msg s) := by
  unfold post
  try dsimp -proj only
  repeat' first
    | (with_reducible rfl)
    | exact (rfl : _ = true)
    | (with_reducible exact Keeps.refl _ _)
    | assumption
    | (with_reducible exact (Keeps.refl _ _).mono rfl)
    | (with_reducible apply Keeps.via wr_keeps)
    | (with_reducible apply Keeps.via setF_keeps)
    | (with_reducible apply Keeps.via fenceAccept_keeps)
    | (dsimp -proj only [keepsMk]; with_reducible apply KeepsMk.upd_mbx)
    | (with_reducible intro)
    | (simp [modAt_length]; done)
    | (simp [setAt_length]; done)
    | (simp only [List.length_mapIdx, List.length_map]; done)
    | (simp [MotSt.units, modAt_length, setAt_length]; done)
    | (dsimp -proj only)

theorem receivesEnd_keeps {m : Nat} {s : State} :
    Keeps [.regs, .mem, .pwr, .bring, .flt, .mbx, .grants, .pins, .pcie, .journal, .clk, .fs, .host, .mot, .outbox, .nvFaultLog, .nvLogNext] s (receivesEnd m s) := by
  unfold receivesEnd
  try dsimp -proj only
  repeat' first
    | (with_reducible apply Keeps.foldl)
    | exact (rfl : _ = true)
    | (with_reducible exact Keeps.refl _ _)
    | assumption
    | (with_reducible exact (Keeps.refl _ _).mono rfl)
    | (with_reducible apply Keeps.via updCtrl_keeps)
    | (with_reducible apply Keeps.via nvFail_keeps)
    | (with_reducible intro)
    | (dsimp -proj only)

theorem mbxIdle_keeps {m : Nat} {s : State} :
    Keeps [.regs, .mem, .pwr, .bring, .flt, .mbx, .grants, .pins, .pcie, .journal, .clk, .fs, .host, .mot, .outbox, .nvFaultLog, .nvLogNext] s (mbxIdle m s) := by
  unfold mbxIdle
  try dsimp -proj only
  repeat' first
    | (with_reducible rfl)
    | exact (rfl : _ = true)
    | (with_reducible exact Keeps.refl _ _)
    | assumption
    | (with_reducible exact (Keeps.refl _ _).mono rfl)
    | (with_reducible apply Keeps.via setF_keeps)
    | (with_reducible apply Keeps.via receivesEnd_keeps)
    | (dsimp -proj only [keepsMk]; with_reducible apply KeepsMk.upd_mbx)
    | (with_reducible intro)
    | (simp [modAt_length]; done)
    | (simp [setAt_length]; done)
    | (simp only [List.length_mapIdx, List.length_map]; done)
    | (simp [MotSt.units, modAt_length, setAt_length]; done)
    | (dsimp -proj only)

theorem mbxResetTo_keeps {m : Nat} {s : State} :
    Keeps [.regs, .mem, .bad, .free, .pwr, .bring, .flt, .mbx, .fences, .grants, .pins, .pcie, .journal, .clk, .fs, .memc, .host, .mot, .outbox, .nvFaultLog, .nvLogNext] s (mbxResetTo m s) := by
  unfold mbxResetTo
  try dsimp -proj only
  repeat' first
    | exact (rfl : _ = true)
    | (with_reducible exact Keeps.refl _ _)
    | assumption
    | (with_reducible exact (Keeps.refl _ _).mono rfl)
    | (with_reducible apply Keeps.ite <;> intro _)
    | (with_reducible apply Keeps.via setF_keeps)
    | (with_reducible apply Keeps.via fenceDrop_keeps)
    | (with_reducible apply Keeps.via mbxIdle_keeps)
    | (with_reducible intro)
    | split
    | (dsimp -proj only)

theorem handlerTake_keeps {m : Nat} {moved : Option Nat} {s : State} :
    Keeps [.regs, .mem, .bad, .free, .flt, .mbx, .fences, .pcie, .memc, .host, .outbox, .nvFaultLog, .nvLogNext] s (handlerTake m moved s) := by
  unfold handlerTake
  try dsimp -proj only
  repeat' first
    | (with_reducible rfl)
    | exact (rfl : _ = true)
    | (with_reducible exact Keeps.refl _ _)
    | assumption
    | (with_reducible exact (Keeps.refl _ _).mono rfl)
    | (with_reducible apply Keeps.ite <;> intro _)
    | (with_reducible apply Keeps.via setF_keeps)
    | (with_reducible apply Keeps.via mbxSetResult_keeps)
    | (with_reducible apply Keeps.via fenceDrop_keeps)
    | (dsimp -proj only [keepsMk]; with_reducible apply KeepsMk.upd_mbx)
    | (with_reducible refine Keeps.of_fst (by assumption) ?_)
    | (with_reducible refine Keeps.of_snd (by assumption) ?_)
    | (with_reducible intro)
    | split
    | (simp [modAt_length]; done)
    | (simp [setAt_length]; done)
    | (simp only [List.length_mapIdx, List.length_map]; done)
    | (simp [MotSt.units, modAt_length, setAt_length]; done)
    | (dsimp -proj only)

theorem receiveServe_keeps {ctrl : Nat} {q : Nat} {cid : Nat} {m : Nat} {xferOk : Bool} {s : State} :
    Keeps [.regs, .mem, .pwr, .bring, .flt, .mbx, .grants, .pins, .pcie, .journal, .clk, .fs, .host, .mot, .outbox, .nvFaultLog, .nvLogNext] s (receiveServe ctrl q cid m xferOk s) := by
  unfold receiveServe
  try dsimp -proj only
  repeat' first
    | exact (rfl : _ = true)
    | (with_reducible exact Keeps.refl _ _)
    | assumption
    | (with_reducible exact (Keeps.refl _ _).mono rfl)
    | (with_reducible apply Keeps.ite <;> intro _)
    | (with_reducible apply Keeps.via send_keeps)
    | (with_reducible apply Keeps.via nvDone_keeps)
    | (with_reducible apply Keeps.via mbxIdle_keeps)
    | (with_reducible refine Keeps.of_fst (by assumption) ?_)
    | (with_reducible refine Keeps.of_snd (by assumption) ?_)
    | (with_reducible intro)
    | split
    | (dsimp -proj only)

theorem receiveWaiting_keeps {m : Nat} {xferOk : Bool} {s : State} :
    Keeps [.regs, .mem, .pwr, .bring, .flt, .mbx, .grants, .pins, .pcie, .journal, .clk, .fs, .host, .mot, .outbox, .nvFaultLog, .nvLogNext] s (receiveWaiting m xferOk s) := by
  unfold receiveWaiting
  try dsimp -proj only
  repeat' first
    | exact (rfl : _ = true)
    | (with_reducible exact Keeps.refl _ _)
    | assumption
    | (with_reducible exact (Keeps.refl _ _).mono rfl)
    | (with_reducible apply Keeps.via updCtrl_keeps)
    | (with_reducible apply Keeps.via receiveServe_keeps)
    | (with_reducible refine Keeps.of_fst (by assumption) ?_)
    | (with_reducible refine Keeps.of_snd (by assumption) ?_)
    | (with_reducible intro)
    | split
    | (dsimp -proj only)

theorem sendReply_keeps {m : Nat} {area : List Byte} {s : State} :
    Keeps [.outbox] s (sendReply m area s) := by
  unfold sendReply
  try dsimp -proj only
  repeat' first
    | exact (rfl : _ = true)
    | (with_reducible exact Keeps.refl _ _)
    | assumption
    | (with_reducible exact (Keeps.refl _ _).mono rfl)
    | (with_reducible apply Keeps.ite <;> intro _)
    | (with_reducible apply Keeps.via send_keeps)
    | (with_reducible intro)
    | split
    | (dsimp -proj only)

theorem giveExt_keeps {m : Nat} {moved : Option Nat} {r : MbxResult} {s : State} :
    Keeps [.mem] s (giveExt m moved r s).2 := by
  unfold giveExt
  try dsimp -proj only
  repeat' first
    | exact (rfl : _ = true)
    | (with_reducible exact Keeps.refl _ _)
    | assumption
    | (with_reducible exact (Keeps.refl _ _).mono rfl)
    | (with_reducible apply Keeps.ite <;> intro _)
    | (with_reducible apply Keeps.via memWrite_keeps)
    | (with_reducible refine Keeps.of_fst (by assumption) ?_)
    | (with_reducible refine Keeps.of_snd (by assumption) ?_)
    | (with_reducible intro)
    | split
    | (dsimp only)

theorem complete_keeps {m : Nat} {r0 : MbxResult} {moved : Option Nat} {s0 : State} :
    Keeps [.regs, .mem, .bad, .free, .pwr, .bring, .flt, .mbx, .fences, .grants, .pair, .pins, .pcie, .journal, .clk, .fs, .memc, .host, .mot, .outbox, .nvFaultLog, .nvLogNext] s0 (complete m r0 moved s0) := by
  unfold complete
  try dsimp -proj only
  repeat' first
    | (with_reducible rfl)
    | exact (rfl : _ = true)
    | (with_reducible exact Keeps.refl _ _)
    | assumption
    | (with_reducible exact (Keeps.refl _ _).mono rfl)
    | (with_reducible apply Keeps.ite <;> intro _)
    | (with_reducible apply Keeps.via setF_keeps)
    | (with_reducible apply Keeps.via memWrite_keeps)
    | (with_reducible apply Keeps.via msix_keeps)
    | (with_reducible apply Keeps.via nalSend_keeps)
    | (with_reducible apply Keeps.via fenceDrop_keeps)
    | (with_reducible apply Keeps.via mbxIdle_keeps)
    | (with_reducible apply Keeps.via receiveWaiting_keeps)
    | (with_reducible apply Keeps.via sendReply_keeps)
    | (with_reducible apply Keeps.via giveExt_keeps)
    | (dsimp -proj only [keepsMk]; with_reducible apply KeepsMk.upd_mbx)
    | (with_reducible refine Keeps.of_fst (by assumption) ?_)
    | (with_reducible refine Keeps.of_snd (by assumption) ?_)
    | (with_reducible intro)
    | split
    | (simp [modAt_length]; done)
    | (simp [setAt_length]; done)
    | (simp only [List.length_mapIdx, List.length_map]; done)
    | (simp [MotSt.units, modAt_length, setAt_length]; done)
    | (dsimp -proj only)

end Sys2Proof.Machine
end

