-- ==== Sys2Proof/Laws/KeepNvme.lean ====
section
/-! SUPPORT. What each operation of Machine/Nvme.lean keeps (`Keeps`). -/

set_option Elab.async false

namespace Sys2Proof.Machine

theorem nvTakeIf_keeps {op : Nat → Bool} {admin : Bool} {c d : NvmeCmd} {s t : State} (h : nvTakeIf op admin c s = some (d, t)) :
    Keeps [.host] s t := by
  unfold nvTakeIf at h
  repeat' split at h
  all_goals first
    | (cases h; done)
    | (cases h; exact Keeps.upd_host natq_id (Keeps.refl _ _) rfl)
    | (cases h; exact Keeps.via updSq_keeps (Keeps.upd_host natq_id (Keeps.refl _ _) rfl) rfl)


theorem nvRow_keeps {wp : List Part} {op : Nat} {admin : Bool} {c : NvmeCmd} {f : NvmeCmd → NvCtrl → State → State} {s : State} (h_f : ∀ q0 q1 q2, Keeps wp q2 (f q0 q1 q2)) (hwp : within wp [.host] = true) :
    Keeps wp s (nvRow op admin c f s) := by
  unfold nvRow
  try dsimp -proj only
  repeat' first
    | exact (rfl : _ = true)
    | (with_reducible exact Keeps.refl _ _)
    | assumption
    | exact within_contains hwp rfl
    | exact within_trans hwp rfl
    | (with_reducible exact (Keeps.refl _ _).mono rfl)
    | (with_reducible apply Keeps.trans ?_ (h_f _ _ _))
    | (with_reducible refine Keeps.of_fst (by assumption) ?_)
    | (with_reducible refine Keeps.of_snd (by assumption) ?_)
    | (with_reducible refine Keeps.via (nvTakeIf_keeps (by assumption)) ?_ ?_)
    | (with_reducible intro)
    | split
    | (dsimp -proj only)

theorem nvOk_keeps {c : NvmeCmd} {dw0 : Nat} {s : State} :
    Keeps [.regs, .mem, .pwr, .bring, .flt, .mbx, .grants, .pins, .pcie, .journal, .clk, .fs, .host, .mot, .outbox, .nvFaultLog, .nvLogNext] s (nvOk c dw0 s) := by
  unfold nvOk
  try dsimp -proj only
  repeat' first
    | exact (rfl : _ = true)
    | (with_reducible exact Keeps.refl _ _)
    | assumption
    | (with_reducible exact (Keeps.refl _ _).mono rfl)
    | (with_reducible apply Keeps.via nvPost_keeps)
    | (with_reducible intro)
    | (dsimp -proj only)

theorem nvErr_keeps {c : NvmeCmd} {sct : Nat} {sc : Nat} {s : State} :
    Keeps [.regs, .mem, .pwr, .bring, .flt, .mbx, .grants, .pins, .pcie, .journal, .clk, .fs, .host, .mot, .outbox, .nvFaultLog, .nvLogNext] s (nvErr c sct sc s) := by
  unfold nvErr
  try dsimp -proj only
  repeat' first
    | exact (rfl : _ = true)
    | (with_reducible exact Keeps.refl _ _)
    | assumption
    | (with_reducible exact (Keeps.refl _ _).mono rfl)
    | (with_reducible apply Keeps.via nvFail_keeps)
    | (with_reducible intro)
    | (dsimp -proj only)

theorem nvGive_keeps {c : NvmeCmd} {d : List Byte} {s : State} :
    Keeps [.regs, .mem, .pwr, .bring, .flt, .mbx, .grants, .pins, .pcie, .journal, .clk, .fs, .host, .mot, .outbox, .nvFaultLog, .nvLogNext] s (nvGive c d s) := by
  unfold nvGive
  try dsimp -proj only
  repeat' first
    | exact (rfl : _ = true)
    | (with_reducible exact Keeps.refl _ _)
    | assumption
    | (with_reducible exact (Keeps.refl _ _).mono rfl)
    | (with_reducible apply Keeps.ite <;> intro _)
    | (with_reducible apply Keeps.via send_keeps)
    | (with_reducible apply Keeps.via nvDone_keeps)
    | (with_reducible apply Keeps.via nvOk_keeps)
    | (with_reducible intro)
    | split
    | (dsimp -proj only)

theorem pcieOnly_keeps {wp : List Part} {c : NvmeCmd} {k : NvCtrl} {f : State → State} {s : State} (h_f : ∀ q0, Keeps wp q0 (f q0)) (hwp : within wp [.regs, .mem, .pwr, .bring, .flt, .mbx, .grants, .pins, .pcie, .journal, .clk, .fs, .host, .mot, .outbox, .nvFaultLog, .nvLogNext] = true) :
    Keeps wp s (pcieOnly c k f s) := by
  unfold pcieOnly
  try dsimp -proj only
  repeat' first
    | exact (rfl : _ = true)
    | (with_reducible exact Keeps.refl _ _)
    | assumption
    | exact within_contains hwp rfl
    | exact within_trans hwp rfl
    | (with_reducible exact (Keeps.refl _ _).mono rfl)
    | (with_reducible apply Keeps.ite <;> intro _)
    | (with_reducible apply Keeps.via nvErr_keeps)
    | (with_reducible apply Keeps.trans ?_ (h_f _))
    | (with_reducible intro)
    | split
    | (dsimp -proj only)

theorem ctrlDrop_keeps {id : Nat} {s : State} :
    Keeps [.regs, .host] s (ctrlDrop id s) := by
  unfold ctrlDrop
  try dsimp -proj only
  repeat' first
    | (with_reducible rfl)
    | exact (rfl : _ = true)
    | (with_reducible exact Keeps.refl _ _)
    | assumption
    | (with_reducible exact (Keeps.refl _ _).mono rfl)
    | (with_reducible apply Keeps.ite <;> intro _)
    | (with_reducible apply Keeps.via updCtrl_keeps)
    | (with_reducible apply Keeps.via dropCmds_keeps)
    | (dsimp -proj only [keepsMk]; with_reducible apply KeepsMk.upd_host)
    | (with_reducible exact natq_id)
    | (with_reducible exact natq_mod)
    | (with_reducible exact natq_map)
    | (with_reducible exact natq_reset)
    | (with_reducible refine Keeps.of_fst (by assumption) ?_)
    | (with_reducible refine Keeps.of_snd (by assumption) ?_)
    | (with_reducible intro)
    | split
    | (simp [modAt_length]; done)
    | (simp [setAt_length]; done)
    | (simp only [List.length_mapIdx, List.length_map]; done)
    | (simp [MotSt.units, modAt_length, setAt_length]; done)
    | (dsimp -proj only)

theorem ctrlMailboxes_keeps {id : Nat} {s : State} :
    Keeps [.regs, .mem, .bad, .free, .pwr, .bring, .flt, .mbx, .fences, .grants, .pins, .pcie, .journal, .clk, .fs, .memc, .host, .mot, .outbox, .nvFaultLog, .nvLogNext] s (ctrlMailboxes id s) := by
  unfold ctrlMailboxes
  try dsimp -proj only
  repeat' first
    | (with_reducible apply Keeps.foldl)
    | exact (rfl : _ = true)
    | (with_reducible exact Keeps.refl _ _)
    | assumption
    | (with_reducible exact (Keeps.refl _ _).mono rfl)
    | (with_reducible apply Keeps.ite <;> intro _)
    | (with_reducible apply Keeps.via mbxResetTo_keeps)
    | (with_reducible intro)
    | split
    | (dsimp -proj only)

theorem ctrlDown_keeps {id : Nat} {s : State} :
    Keeps [.regs, .mem, .bad, .free, .pwr, .bring, .flt, .mbx, .fences, .grants, .pins, .pcie, .journal, .clk, .fs, .memc, .host, .mot, .outbox, .nvFaultLog, .nvLogNext] s (ctrlDown id s) := by
  unfold ctrlDown
  try dsimp -proj only
  repeat' first
    | (with_reducible rfl)
    | exact (rfl : _ = true)
    | (with_reducible exact Keeps.refl _ _)
    | assumption
    | (with_reducible exact (Keeps.refl _ _).mono rfl)
    | (with_reducible apply Keeps.via nvmRefresh_keeps)
    | (with_reducible apply Keeps.via ctrlDrop_keeps)
    | (with_reducible apply Keeps.via ctrlMailboxes_keeps)
    | (dsimp -proj only [keepsMk]; with_reducible apply KeepsMk.upd_host)
    | (with_reducible exact natq_id)
    | (with_reducible exact natq_mod)
    | (with_reducible exact natq_map)
    | (with_reducible exact natq_reset)
    | (with_reducible intro)
    | (simp [modAt_length]; done)
    | (simp [setAt_length]; done)
    | (simp only [List.length_mapIdx, List.length_map]; done)
    | (simp [MotSt.units, modAt_length, setAt_length]; done)
    | (dsimp -proj only)

theorem ctrlReset_keeps {id : Nat} {s : State} :
    Keeps [.regs, .mem, .bad, .free, .pwr, .bring, .flt, .mbx, .fences, .grants, .pins, .pcie, .journal, .clk, .fs, .memc, .host, .mot, .outbox, .nvFaultLog, .nvLogNext] s (ctrlReset id s) := by
  unfold ctrlReset
  try dsimp -proj only
  repeat' first
    | exact (rfl : _ = true)
    | (with_reducible exact Keeps.refl _ _)
    | assumption
    | (with_reducible exact (Keeps.refl _ _).mono rfl)
    | (with_reducible apply Keeps.via updCtrl_keeps)
    | (with_reducible apply Keeps.via nvmRefresh_keeps)
    | (with_reducible apply Keeps.via ctrlDrop_keeps)
    | (with_reducible apply Keeps.via ctrlMailboxes_keeps)
    | (with_reducible intro)
    | (dsimp -proj only)

theorem connectReply_keeps {id : Nat} {qid : Nat} {st : Nat} {dw0 : Nat} {s : State} :
    Keeps [.outbox] s (connectReply id qid st dw0 s) := by
  unfold connectReply
  try dsimp -proj only
  repeat' first
    | exact (rfl : _ = true)
    | (with_reducible exact Keeps.refl _ _)
    | assumption
    | (with_reducible exact (Keeps.refl _ _).mono rfl)
    | (with_reducible apply Keeps.via send_keeps)
    | (with_reducible intro)
    | (dsimp -proj only)

theorem pcieEnable_keeps {p : Nat × Nat × Nat × Nat} {s : State} :
    Keeps [.regs, .mem, .bad, .free, .pwr, .bring, .flt, .mbx, .fences, .grants, .pins, .pcie, .journal, .clk, .fs, .memc, .host, .mot, .outbox, .nvFaultLog, .nvLogNext] s (pcieEnable p s) := by
  unfold pcieEnable
  try dsimp -proj only
  repeat' first
    | (with_reducible rfl)
    | exact (rfl : _ = true)
    | (with_reducible exact Keeps.refl _ _)
    | assumption
    | (with_reducible exact (Keeps.refl _ _).mono rfl)
    | (with_reducible apply Keeps.ite <;> intro _)
    | (with_reducible apply Keeps.via nvmRefresh_keeps)
    | (with_reducible apply Keeps.via ctrlReset_keeps)
    | (dsimp -proj only [keepsMk]; with_reducible apply KeepsMk.upd_host)
    | (with_reducible exact natq_id)
    | (with_reducible exact natq_mod)
    | (with_reducible exact natq_map)
    | (with_reducible exact natq_reset)
    | (with_reducible intro)
    | split
    | (simp [modAt_length]; done)
    | (simp [setAt_length]; done)
    | (simp only [List.length_mapIdx, List.length_map]; done)
    | (simp [MotSt.units, modAt_length, setAt_length]; done)
    | (dsimp -proj only)

theorem nvEnter_keeps {c : NvmeCmd} {k : NvCtrl} {f : Volume → Cmd} {s : State} :
    Keeps [.regs, .mem, .pwr, .bring, .flt, .mbx, .grants, .pins, .pcie, .journal, .clk, .fs, .host, .mot, .outbox, .nvFaultLog, .nvLogNext] s (nvEnter c k f s) := by
  unfold nvEnter
  try dsimp -proj only
  repeat' first
    | exact (rfl : _ = true)
    | (with_reducible exact Keeps.refl _ _)
    | assumption
    | (with_reducible exact (Keeps.refl _ _).mono rfl)
    | (with_reducible apply Keeps.via nvDone_keeps)
    | (with_reducible apply Keeps.via enter_keeps)
    | (with_reducible refine Keeps.of_fst (by assumption) ?_)
    | (with_reducible refine Keeps.of_snd (by assumption) ?_)
    | (with_reducible intro)
    | split
    | (dsimp -proj only)

theorem nvResv_keeps {c : NvmeCmd} {k : NvCtrl} {op : CmdOp} {s : State} :
    Keeps [.regs, .mem, .pwr, .bring, .flt, .mbx, .grants, .pins, .pcie, .journal, .clk, .fs, .host, .mot, .outbox, .nvFaultLog, .nvLogNext] s (nvResv c k op s) := by
  unfold nvResv
  try dsimp -proj only
  repeat' first
    | exact (rfl : _ = true)
    | (with_reducible exact Keeps.refl _ _)
    | assumption
    | (with_reducible exact (Keeps.refl _ _).mono rfl)
    | (with_reducible apply Keeps.ite <;> intro _)
    | (with_reducible apply Keeps.via nvDone_keeps)
    | (with_reducible apply Keeps.via nvErr_keeps)
    | (with_reducible apply Keeps.via nvEnter_keeps)
    | (with_reducible intro)
    | split
    | (dsimp -proj only)

end Sys2Proof.Machine
end

