-- ==== Sys2Proof/Laws/KeepMailbox.lean ====
section
/-! SUPPORT. What each operation of Machine/Mailbox.lean keeps (`Keeps`). -/

set_option Elab.async false

namespace Sys2Proof.Machine

theorem arrive_keeps {t : Nat} {body : List Byte} {req : Option Nat} {s : State} :
    Keeps [.regs, .mbx, .fences, .pair, .host, .outbox] s (arrive t body req s) := by
  unfold arrive
  try dsimp -proj only
  repeat' first
    | exact (rfl : _ = true)
    | (with_reducible exact Keeps.refl _ _)
    | assumption
    | (with_reducible exact (Keeps.refl _ _).mono rfl)
    | (with_reducible apply Keeps.via nalSend_keeps)
    | (with_reducible apply Keeps.via post_keeps)
    | (with_reducible apply Keeps.via sendReply_keeps)
    | (with_reducible refine Keeps.of_fst (by assumption) ?_)
    | (with_reducible refine Keeps.of_snd (by assumption) ?_)
    | (with_reducible intro)
    | split
    | (dsimp -proj only)

theorem doorbell_keeps {m : Nat} {s : State} :
    Keeps [.regs, .mbx, .fences, .host] s (doorbell m s) := by
  unfold doorbell
  try dsimp -proj only
  repeat' first
    | exact (rfl : _ = true)
    | (with_reducible exact Keeps.refl _ _)
    | assumption
    | (with_reducible exact (Keeps.refl _ _).mono rfl)
    | (with_reducible apply Keeps.ite <;> intro _)
    | (with_reducible apply Keeps.via setF_keeps)
    | (with_reducible apply Keeps.via post_keeps)
    | (with_reducible intro)
    | split
    | (dsimp -proj only)

theorem release_keeps {m : Nat} {s : State} :
    Keeps [.regs, .mem, .pwr, .bring, .flt, .mbx, .grants, .pins, .pcie, .journal, .clk, .fs, .host, .mot, .outbox, .nvFaultLog, .nvLogNext] s (release m s) := by
  unfold release
  try dsimp -proj only
  repeat' first
    | exact (rfl : _ = true)
    | (with_reducible exact Keeps.refl _ _)
    | assumption
    | (with_reducible exact (Keeps.refl _ _).mono rfl)
    | (with_reducible apply Keeps.ite <;> intro _)
    | (with_reducible apply Keeps.via mbxIdle_keeps)
    | (with_reducible intro)
    | split
    | (dsimp -proj only)

theorem mbxFenceEnd_keeps {m : Nat} {st : Nat} {s : State} :
    Keeps [.regs, .mem, .bad, .free, .flt, .mbx, .fences, .pcie, .memc, .host, .outbox, .nvFaultLog, .nvLogNext] s (mbxFenceEnd m st s) := by
  unfold mbxFenceEnd
  try dsimp -proj only
  repeat' first
    | exact (rfl : _ = true)
    | (with_reducible exact Keeps.refl _ _)
    | assumption
    | (with_reducible exact (Keeps.refl _ _).mono rfl)
    | (with_reducible apply Keeps.via mbxSetResult_keeps)
    | (with_reducible apply Keeps.via fenceDrop_keeps)
    | (with_reducible intro)
    | (dsimp -proj only)

theorem measPut_keeps {i : Nat} {b : List Byte} {s : State} :
    Keeps [.regs] s (measPut i b s) := by
  unfold measPut
  try dsimp -proj only
  repeat' first
    | (with_reducible apply Keeps.foldl)
    | exact (rfl : _ = true)
    | (with_reducible exact Keeps.refl _ _)
    | assumption
    | (with_reducible exact (Keeps.refl _ _).mono rfl)
    | (with_reducible apply Keeps.via wr_keeps)
    | (with_reducible intro)
    | (dsimp -proj only)

theorem configRefresh_keeps {s : State} :
    Keeps [.regs] s (configRefresh s) := by
  unfold configRefresh
  try dsimp -proj only
  repeat' first
    | exact (rfl : _ = true)
    | (with_reducible exact Keeps.refl _ _)
    | assumption
    | (with_reducible exact (Keeps.refl _ _).mono rfl)
    | (with_reducible apply Keeps.via measPut_keeps)
    | (with_reducible intro)
    | (dsimp -proj only)

theorem setRoots_keeps {l : List (List Byte)} {s : State} :
    Keeps [.regs, .nvExpertRoots] s (setRoots l s) := by
  unfold setRoots
  try dsimp -proj only
  repeat' first
    | exact (rfl : _ = true)
    | (with_reducible exact Keeps.refl _ _)
    | assumption
    | (with_reducible exact (Keeps.refl _ _).mono rfl)
    | (with_reducible apply Keeps.via configRefresh_keeps)
    | (dsimp -proj only [keepsMk]; with_reducible apply KeepsMk.upd_nvExpertRoots)
    | (with_reducible intro)
    | (dsimp -proj only)

theorem hostArrives_keeps {req : Nat} {f : FwdCmd} {s : State} :
    Keeps [.regs, .pair, .host, .outbox] s (hostArrives req f s) := by
  unfold hostArrives
  try dsimp -proj only
  repeat' first
    | exact (rfl : _ = true)
    | (with_reducible exact Keeps.refl _ _)
    | assumption
    | (with_reducible exact (Keeps.refl _ _).mono rfl)
    | (with_reducible apply Keeps.ite <;> intro _)
    | (with_reducible apply Keeps.via enter_keeps)
    | (with_reducible apply Keeps.via replyPartner_keeps)
    | (with_reducible refine Keeps.of_fst (by assumption) ?_)
    | (with_reducible refine Keeps.of_snd (by assumption) ?_)
    | (with_reducible intro)
    | split
    | (dsimp -proj only)

end Sys2Proof.Machine
end

