-- ==== Sys2Proof/Laws/KeepImages.lean ====
section
/-! SUPPORT. What each operation of Machine/Images.lean keeps (`Keeps`). -/

set_option Elab.async false

namespace Sys2Proof.Machine

theorem updSlots_keeps {k : Nat} {f : SlotPair → SlotPair} {s : State} :
    Keeps [.nvSup, .nvCtl] s (updSlots k f s) := by
  unfold updSlots
  try dsimp -proj only
  repeat' first
    | exact (rfl : _ = true)
    | (with_reducible exact Keeps.refl _ _)
    | assumption
    | (with_reducible exact (Keeps.refl _ _).mono rfl)
    | (with_reducible apply Keeps.ite <;> intro _)
    | (dsimp -proj only [keepsMk]; first | with_reducible apply KeepsMk.upd_nvSup | with_reducible apply KeepsMk.upd_nvCtl)
    | (with_reducible intro)
    | split
    | (dsimp -proj only)

theorem listRefresh_keeps {s : State} :
    Keeps [.regs] s (listRefresh s) := by
  unfold listRefresh
  try dsimp -proj only
  repeat' first
    | exact (rfl : _ = true)
    | (with_reducible exact Keeps.refl _ _)
    | assumption
    | (with_reducible exact (Keeps.refl _ _).mono rfl)
    | (with_reducible apply Keeps.via measPut_keeps)
    | (with_reducible intro)
    | (dsimp -proj only)

theorem svnRefresh_keeps {s : State} :
    Keeps [.regs] s (svnRefresh s) := by
  unfold svnRefresh
  try dsimp -proj only
  repeat' first
    | exact (rfl : _ = true)
    | (with_reducible exact Keeps.refl _ _)
    | assumption
    | (with_reducible exact (Keeps.refl _ _).mono rfl)
    | (with_reducible apply Keeps.via setF_keeps)
    | (with_reducible apply Keeps.via measPut_keeps)
    | (with_reducible intro)
    | (dsimp -proj only)

theorem slotRefresh_keeps {s : State} :
    Keeps [.regs] s (slotRefresh s) := by
  unfold slotRefresh
  try dsimp -proj only
  repeat' first
    | exact (rfl : _ = true)
    | (with_reducible exact Keeps.refl _ _)
    | assumption
    | (with_reducible exact (Keeps.refl _ _).mono rfl)
    | (with_reducible apply Keeps.via setF_keeps)
    | (with_reducible apply Keeps.via setB_keeps)
    | (with_reducible intro)
    | (dsimp -proj only)

theorem setSlot_keeps {k : Nat} {n : Nat} {x : Slot} {s : State} :
    Keeps [.regs, .nvSup, .nvCtl] s (setSlot k n x s) := by
  unfold setSlot
  try dsimp -proj only
  repeat' first
    | exact (rfl : _ = true)
    | (with_reducible exact Keeps.refl _ _)
    | assumption
    | (with_reducible exact (Keeps.refl _ _).mono rfl)
    | (with_reducible apply Keeps.via updSlots_keeps)
    | (with_reducible apply Keeps.via listRefresh_keeps)
    | (with_reducible apply Keeps.via slotRefresh_keeps)
    | (with_reducible intro)
    | (dsimp -proj only)

theorem bootFailed_keeps {st : Nat} {s : State} :
    Keeps [.regs] s (bootFailed st s) := by
  unfold bootFailed
  try dsimp -proj only
  repeat' first
    | exact (rfl : _ = true)
    | (with_reducible exact Keeps.refl _ _)
    | assumption
    | (with_reducible exact (Keeps.refl _ _).mono rfl)
    | (with_reducible apply Keeps.via setF_keeps)
    | (with_reducible intro)
    | (dsimp -proj only)

theorem bootChoose_keeps {k : Nat} {chk : State → List Byte → Option Nat} {s : State} :
    Keeps [.regs, .pwr, .bring, .flt, .mbx, .grants, .pins, .pcie, .journal, .clk, .fs, .mot, .outbox, .nvSup, .nvCtl, .nvFaultLog, .nvLogNext] s (bootChoose k chk s).2 := by
  unfold bootChoose
  try dsimp -proj only
  repeat' first
    | exact (rfl : _ = true)
    | (with_reducible exact Keeps.refl _ _)
    | assumption
    | (with_reducible exact (Keeps.refl _ _).mono rfl)
    | (with_reducible apply Keeps.ite <;> intro _)
    | (with_reducible apply Keeps.via setF_keeps)
    | (with_reducible apply Keeps.via raise_keeps)
    | (with_reducible apply Keeps.via updSlots_keeps)
    | (with_reducible apply Keeps.via bootFailed_keeps)
    | (with_reducible refine Keeps.of_fst (by assumption) ?_)
    | (with_reducible refine Keeps.of_snd (by assumption) ?_)
    | (with_reducible intro)
    | split
    | (dsimp only)

theorem confirmTrial_keeps {k : Nat} {s : State} :
    Keeps [.regs, .nvSup, .nvCtl] s (confirmTrial k s) := by
  unfold confirmTrial
  try dsimp -proj only
  repeat' first
    | exact (rfl : _ = true)
    | (with_reducible exact Keeps.refl _ _)
    | assumption
    | (with_reducible exact (Keeps.refl _ _).mono rfl)
    | (with_reducible apply Keeps.via updSlots_keeps)
    | (with_reducible apply Keeps.via slotRefresh_keeps)
    | (with_reducible refine Keeps.of_fst (by assumption) ?_)
    | (with_reducible refine Keeps.of_snd (by assumption) ?_)
    | (with_reducible intro)
    | split
    | (dsimp -proj only)

theorem confirmTrials_keeps {s : State} :
    Keeps [.regs, .nvSup, .nvCtl] s (confirmTrials s) := by
  unfold confirmTrials
  try dsimp -proj only
  repeat' first
    | exact (rfl : _ = true)
    | (with_reducible exact Keeps.refl _ _)
    | assumption
    | (with_reducible exact (Keeps.refl _ _).mono rfl)
    | (with_reducible apply Keeps.via confirmTrial_keeps)
    | (with_reducible intro)
    | (dsimp -proj only)

end Sys2Proof.Machine
end

