-- ==== Sys2Proof/Laws/KeepServo.lean ====
section
/-! SUPPORT. What each operation of Machine/Servo.lean keeps (`Keeps`). -/

set_option Elab.async false

namespace Sys2Proof.Machine

theorem maSwapBegin_keeps {a : Nat} {w : Nat} {n : Nat} {s : State} :
    Keeps [.regs, .mbx, .head, .mot] s (maSwapBegin a w n s) := by
  unfold maSwapBegin
  try dsimp -proj only
  repeat' first
    | (with_reducible apply Keeps.foldl)
    | (with_reducible rfl)
    | exact (rfl : _ = true)
    | (with_reducible exact Keeps.refl _ _)
    | assumption
    | (with_reducible exact (Keeps.refl _ _).mono rfl)
    | (with_reducible apply Keeps.ite <;> intro _)
    | (with_reducible apply Keeps.via updHead_keeps)
    | (with_reducible apply Keeps.via bankSwap_keeps)
    | (with_reducible apply Keeps.via swapDone_keeps)
    | (dsimp -proj only [keepsMk]; with_reducible apply KeepsMk.upd_mot)
    | (with_reducible exact units_maSwap (setAt_length _ _ _))
    | (with_reducible exact units_maSwap (modAt_length _ _ _))
    | (with_reducible exact units_vcm (modAt_length _ _ _))
    | (with_reducible exact units_fan (modAt_length _ _ _))
    | (with_reducible exact units_rest)
    | (with_reducible exact units_reset)
    | (with_reducible intro)
    | split
    | (simp [modAt_length]; done)
    | (simp [setAt_length]; done)
    | (simp only [List.length_mapIdx, List.length_map]; done)
    | (simp [MotSt.units, modAt_length, setAt_length]; done)
    | (dsimp -proj only)

theorem maShow_keeps {h : Nat} {u : Int} {s : State} :
    Keeps [.regs] s (maShow h u s) := by
  unfold maShow
  try dsimp -proj only
  repeat' first
    | exact (rfl : _ = true)
    | (with_reducible exact Keeps.refl _ _)
    | assumption
    | (with_reducible exact (Keeps.refl _ _).mono rfl)
    | (with_reducible apply Keeps.ite <;> intro _)
    | (with_reducible apply Keeps.via setF_keeps)
    | (with_reducible intro)
    | split
    | (dsimp -proj only)

theorem maSample_keeps {h : Nat} {w : Nat} {n : Nat} {missed : Bool} {pes : Int} {s : State} :
    Keeps [.regs, .free, .mbx, .head, .mot] s (maSample h w n missed pes s) := by
  unfold maSample
  try dsimp -proj only
  repeat' first
    | exact (rfl : _ = true)
    | (with_reducible exact Keeps.refl _ _)
    | assumption
    | (with_reducible exact (Keeps.refl _ _).mono rfl)
    | (with_reducible apply Keeps.ite <;> intro _)
    | (with_reducible apply Keeps.via setB_keeps)
    | (with_reducible apply Keeps.via updHead_keeps)
    | (with_reducible apply Keeps.via loopRun_keeps)
    | (with_reducible apply Keeps.via maSwapBegin_keeps)
    | (with_reducible apply Keeps.via maShow_keeps)
    | (with_reducible refine Keeps.of_fst (by assumption) ?_)
    | (with_reducible refine Keeps.of_snd (by assumption) ?_)
    | (with_reducible intro)
    | split
    | (dsimp -proj only)

theorem srvStat_keeps {h : Nat} {i : Nat} {s : State} :
    Keeps [.head] s (srvStat h i s) := by
  unfold srvStat
  try dsimp -proj only
  repeat' first
    | exact (rfl : _ = true)
    | (with_reducible exact Keeps.refl _ _)
    | assumption
    | (with_reducible exact (Keeps.refl _ _).mono rfl)
    | (with_reducible apply Keeps.via updHead_keeps)
    | (with_reducible intro)
    | (dsimp -proj only)

theorem wedgeMissed_keeps {h : Nat} {s : State} :
    Keeps [.regs, .pwr, .bring, .flt, .mbx, .grants, .pins, .pcie, .journal, .clk, .head, .fs, .mot, .outbox, .nvFaultLog, .nvLogNext] s (wedgeMissed h s) := by
  unfold wedgeMissed
  try dsimp -proj only
  repeat' first
    | exact (rfl : _ = true)
    | (with_reducible exact Keeps.refl _ _)
    | assumption
    | (with_reducible exact (Keeps.refl _ _).mono rfl)
    | (with_reducible apply Keeps.ite <;> intro _)
    | (with_reducible apply Keeps.via setF_keeps)
    | (with_reducible apply Keeps.via count_keeps)
    | (with_reducible apply Keeps.via raise_keeps)
    | (with_reducible apply Keeps.via updHead_keeps)
    | (with_reducible apply Keeps.via srvStat_keeps)
    | (with_reducible intro)
    | split
    | (dsimp -proj only)

theorem wedgeValid_keeps {h : Nat} {c : Int} {pes : Int} {s : State} :
    Keeps [.regs, .head] s (wedgeValid h c pes s) := by
  unfold wedgeValid
  try dsimp -proj only
  repeat' first
    | exact (rfl : _ = true)
    | (with_reducible exact Keeps.refl _ _)
    | assumption
    | (with_reducible exact (Keeps.refl _ _).mono rfl)
    | (with_reducible apply Keeps.ite <;> intro _)
    | (with_reducible apply Keeps.via setF_keeps)
    | (with_reducible apply Keeps.via updHead_keeps)
    | (with_reducible apply Keeps.via srvStat_keeps)
    | (with_reducible intro)
    | split
    | (dsimp -proj only)

theorem zoneCommitted_keeps {a : Nat} {l : List Byte} {s : State} :
    Keeps [.regs, .tier] s (zoneCommitted a l s) := by
  unfold zoneCommitted
  try dsimp -proj only
  repeat' first
    | exact (rfl : _ = true)
    | (with_reducible exact Keeps.refl _ _)
    | assumption
    | (with_reducible exact (Keeps.refl _ _).mono rfl)
    | (with_reducible apply Keeps.via setF_keeps)
    | (dsimp -proj only [keepsMk]; with_reducible apply KeepsMk.upd_tier)
    | (with_reducible intro)
    | (dsimp -proj only)

theorem zoneCommit_keeps {a : Nat} {s : State} :
    Keeps [.regs, .pwr, .bring, .flt, .mbx, .grants, .pins, .pcie, .journal, .clk, .fs, .tier, .mot, .outbox, .nvFaultLog, .nvLogNext] s (zoneCommit a s) := by
  unfold zoneCommit
  try dsimp -proj only
  repeat' first
    | exact (rfl : _ = true)
    | (with_reducible exact Keeps.refl _ _)
    | assumption
    | (with_reducible exact (Keeps.refl _ _).mono rfl)
    | (with_reducible apply Keeps.ite <;> intro _)
    | (with_reducible apply Keeps.via setF_keeps)
    | (with_reducible apply Keeps.via raise_keeps)
    | (with_reducible apply Keeps.via zoneCommitted_keeps)
    | (with_reducible intro)
    | split
    | (dsimp -proj only)

theorem zoneStore_keeps {a : Nat} {k : Nat} {w : Word} {s : State} :
    Keeps [.regs, .mem] s (zoneStore a k w s) := by
  unfold zoneStore
  try dsimp -proj only
  repeat' first
    | exact (rfl : _ = true)
    | (with_reducible exact Keeps.refl _ _)
    | assumption
    | (with_reducible exact (Keeps.refl _ _).mono rfl)
    | (with_reducible apply Keeps.via setF_keeps)
    | (with_reducible apply Keeps.via memWrite_keeps)
    | (with_reducible intro)
    | (dsimp -proj only)

end Sys2Proof.Machine
end

