-- ==== Sys2Proof/Laws/KeepVcm.lean ====
section
/-! SUPPORT. What each operation of Machine/Vcm.lean keeps (`Keeps`). -/

set_option Elab.async false

namespace Sys2Proof.Machine

theorem vcmUnsafe_keeps {a : Nat} {sat : Bool} {centre : Bool} {ovr : Bool} {s : State} :
    Keeps [.regs, .pwr, .bring, .flt, .mbx, .grants, .pins, .pcie, .journal, .clk, .fs, .mot, .outbox, .nvFaultLog, .nvLogNext] s (vcmUnsafe a sat centre ovr s) := by
  unfold vcmUnsafe
  try dsimp -proj only
  repeat' first
    | exact (rfl : _ = true)
    | (with_reducible exact Keeps.refl _ _)
    | assumption
    | (with_reducible exact (Keeps.refl _ _).mono rfl)
    | (with_reducible apply Keeps.ite <;> intro _)
    | (with_reducible apply Keeps.via setF_keeps)
    | (with_reducible apply Keeps.via stopAct_keeps)
    | (with_reducible apply Keeps.via raise_keeps)
    | (with_reducible apply Keeps.via updVcm_keeps)
    | (with_reducible intro)
    | split
    | (dsimp -proj only)

theorem vcmClean_keeps {a : Nat} {s : State} :
    Keeps [.regs, .mot] s (vcmClean a s) := by
  unfold vcmClean
  try dsimp -proj only
  repeat' first
    | exact (rfl : _ = true)
    | (with_reducible exact Keeps.refl _ _)
    | assumption
    | (with_reducible exact (Keeps.refl _ _).mono rfl)
    | (with_reducible apply Keeps.ite <;> intro _)
    | (with_reducible apply Keeps.via setF_keeps)
    | (with_reducible apply Keeps.via updVcm_keeps)
    | (with_reducible intro)
    | split
    | (dsimp -proj only)

theorem vcmShock_keeps {alpha : Int} {a : Nat} {s : State} :
    Keeps [.regs, .pwr, .bring, .flt, .mbx, .grants, .pins, .pcie, .journal, .clk, .fs, .mot, .outbox, .nvFaultLog, .nvLogNext] s (vcmShock alpha a s) := by
  unfold vcmShock
  try dsimp -proj only
  repeat' first
    | exact (rfl : _ = true)
    | (with_reducible exact Keeps.refl _ _)
    | assumption
    | (with_reducible exact (Keeps.refl _ _).mono rfl)
    | (with_reducible apply Keeps.ite <;> intro _)
    | (with_reducible apply Keeps.via setF_keeps)
    | (with_reducible apply Keeps.via stopAct_keeps)
    | (with_reducible apply Keeps.via raise_keeps)
    | (with_reducible apply Keeps.via updVcm_keeps)
    | (with_reducible intro)
    | split
    | (dsimp -proj only)

theorem seekSettle_keeps {a : Nat} {s : State} :
    Keeps [.regs, .pair, .outbox] s (seekSettle a s) := by
  unfold seekSettle
  try dsimp -proj only
  repeat' first
    | exact (rfl : _ = true)
    | (with_reducible exact Keeps.refl _ _)
    | assumption
    | (with_reducible exact (Keeps.refl _ _).mono rfl)
    | (with_reducible apply Keeps.ite <;> intro _)
    | (with_reducible apply Keeps.via setF_keeps)
    | (with_reducible apply Keeps.via bandShow_keeps)
    | (with_reducible intro)
    | split
    | (dsimp -proj only)

theorem vcmSample_keeps {a : Nat} {w : Nat} {omega : Int} {alpha : Int} {ff : BitVec 16} {s : State} :
    Keeps [.regs, .free, .pwr, .bring, .flt, .mbx, .grants, .pair, .pins, .pcie, .journal, .clk, .fs, .mot, .outbox, .nvFaultLog, .nvLogNext] s (vcmSample a w omega alpha ff s) := by
  unfold vcmSample
  try dsimp -proj only
  repeat' first
    | exact (rfl : _ = true)
    | (with_reducible exact Keeps.refl _ _)
    | assumption
    | (with_reducible exact (Keeps.refl _ _).mono rfl)
    | (with_reducible apply Keeps.ite <;> intro _)
    | (with_reducible apply Keeps.via setF_keeps)
    | (with_reducible apply Keeps.via loopRun_keeps)
    | (with_reducible apply Keeps.via sampleBegin_keeps)
    | (with_reducible apply Keeps.via biasTerm_keeps)
    | (with_reducible apply Keeps.via updVcm_keeps)
    | (with_reducible apply Keeps.via vcmUnsafe_keeps)
    | (with_reducible apply Keeps.via vcmClean_keeps)
    | (with_reducible apply Keeps.via seekSettle_keeps)
    | (with_reducible intro)
    | split
    | (dsimp -proj only)

theorem swapReq_keeps {l : Nat} {s : State} :
    Keeps [.regs, .mot] s (swapReq l s) := by
  unfold swapReq
  try dsimp -proj only
  repeat' first
    | (with_reducible rfl)
    | exact (rfl : _ = true)
    | (with_reducible exact Keeps.refl _ _)
    | assumption
    | (with_reducible exact (Keeps.refl _ _).mono rfl)
    | (with_reducible apply Keeps.ite <;> intro _)
    | (with_reducible apply Keeps.via setF_keeps)
    | (dsimp -proj only [keepsMk]; with_reducible apply KeepsMk.upd_mot)
    | (with_reducible exact units_maSwap (setAt_length _ _ _))
    | (with_reducible exact units_maSwap (modAt_length _ _ _))
    | (with_reducible exact units_vcm (modAt_length _ _ _))
    | (with_reducible exact units_fan (modAt_length _ _ _))
    | (with_reducible exact units_rest)
    | (with_reducible exact units_reset)
    | (with_reducible intro)
    | split
    | (simp [modAt_length]; done)
    | (simp [setAt_length]; done)
    | (simp only [List.length_mapIdx, List.length_map]; done)
    | (simp [MotSt.units, modAt_length, setAt_length]; done)
    | (dsimp -proj only)

theorem coefStore_keeps {l : Nat} {k : Nat} {w : Nat} {v : Word} {s : State} :
    Keeps [.regs] s (coefStore l k w v s) := by
  unfold coefStore
  try dsimp -proj only
  repeat' first
    | exact (rfl : _ = true)
    | (with_reducible exact Keeps.refl _ _)
    | assumption
    | (with_reducible exact (Keeps.refl _ _).mono rfl)
    | (with_reducible apply Keeps.ite <;> intro _)
    | (with_reducible apply Keeps.via wr_keeps)
    | (with_reducible apply Keeps.via setF_keeps)
    | (with_reducible intro)
    | split
    | (dsimp -proj only)

theorem storeWords_keeps {wp : List Part} {f : Nat → Word → State → State} {y0 : Nat} {y1 : List Word} {y2 : State} (h_f : ∀ q0 q1 q2, Keeps wp q2 (f q0 q1 q2)) (hwp : within wp [] = true) :
    Keeps wp y2 (storeWords f y0 y1 y2) := by
  fun_induction storeWords f y0 y1 y2
  all_goals try dsimp -proj only
  repeat' first
    | exact (rfl : _ = true)
    | (with_reducible exact Keeps.refl _ _)
    | assumption
    | (with_reducible apply Keeps.trans; rotate_left; assumption)
    | exact within_contains hwp rfl
    | exact within_trans hwp rfl
    | (with_reducible exact (Keeps.refl _ _).mono rfl)
    | (with_reducible apply Keeps.trans ?_ (h_f _ _ _))
    | (with_reducible refine Keeps.of_fst (by assumption) ?_)
    | (with_reducible refine Keeps.of_snd (by assumption) ?_)
    | (with_reducible intro)
    | split
    | (dsimp -proj only)
    | (dsimp -proj +zetaDelta only)

theorem entryStore_keeps {r : Nat} {w : Word} {s : State} :
    Keeps [.regs] s (entryStore r w s) := by
  unfold entryStore
  try dsimp -proj only
  repeat' first
    | exact (rfl : _ = true)
    | (with_reducible exact Keeps.refl _ _)
    | assumption
    | (with_reducible exact (Keeps.refl _ _).mono rfl)
    | (with_reducible apply Keeps.via wr_keeps)
    | (with_reducible intro)
    | (dsimp -proj only)

end Sys2Proof.Machine
end

