-- ==== Sys2Proof/Laws/KeepFseq.lean ====
section
/-! SUPPORT. What each operation of Machine/Fseq.lean keeps (`Keeps`). -/

set_option Elab.async false

namespace Sys2Proof.Machine

theorem updFs_keeps {a : Nat} {f : FsSt → FsSt} {s : State} :
    Keeps [.fs] s (updFs a f s) := by
  unfold updFs
  try dsimp -proj only
  repeat' first
    | (with_reducible rfl)
    | exact (rfl : _ = true)
    | (with_reducible exact Keeps.refl _ _)
    | assumption
    | (with_reducible exact (Keeps.refl _ _).mono rfl)
    | (dsimp -proj only [keepsMk]; with_reducible apply KeepsMk.upd_fs)
    | (with_reducible intro)
    | (simp [modAt_length]; done)
    | (simp [setAt_length]; done)
    | (simp only [List.length_mapIdx, List.length_map]; done)
    | (simp [MotSt.units, modAt_length, setAt_length]; done)
    | (dsimp -proj only)

theorem grPut_keeps {a : Nat} {i : Nat} {w : Word} {s : State} :
    Keeps [.fs] s (grPut a i w s) := by
  unfold grPut
  try dsimp -proj only
  repeat' first
    | exact (rfl : _ = true)
    | (with_reducible exact Keeps.refl _ _)
    | assumption
    | (with_reducible exact (Keeps.refl _ _).mono rfl)
    | (with_reducible apply Keeps.via updFs_keeps)
    | (with_reducible intro)
    | (dsimp -proj only)

theorem traceWord_keeps {a : Nat} {pc : Nat} {w : Nat} {cond : Nat} {tmo : Bool} {mchk : Bool} {s : State} :
    Keeps [.regs, .fs] s (traceWord a pc w cond tmo mchk s) := by
  unfold traceWord
  try dsimp -proj only
  repeat' first
    | exact (rfl : _ = true)
    | (with_reducible exact Keeps.refl _ _)
    | assumption
    | (with_reducible exact (Keeps.refl _ _).mono rfl)
    | (with_reducible apply Keeps.ite <;> intro _)
    | (with_reducible apply Keeps.via setF_keeps)
    | (with_reducible apply Keeps.via updFs_keeps)
    | (with_reducible intro)
    | split
    | (dsimp -proj only)

theorem traceEntry_keeps {a : Nat} {i : Nat} {s : State} :
    Keeps [.free] s (traceEntry a i s).2 := by
  unfold traceEntry
  try dsimp -proj only
  repeat' first
    | exact (rfl : _ = true)
    | (with_reducible exact Keeps.refl _ _)
    | assumption
    | (with_reducible exact (Keeps.refl _ _).mono rfl)
    | (with_reducible apply Keeps.via takeFree_keeps)
    | (with_reducible refine Keeps.of_fst (by assumption) ?_)
    | (with_reducible refine Keeps.of_snd (by assumption) ?_)
    | (with_reducible intro)
    | split
    | (dsimp only)

theorem descDone_keeps {a : Nat} {d : BandDesc} {op : Nat} {failed : List (Nat × Nat)} {rc : List Byte} {s : State} :
    Keeps [.regs, .mem, .bad, .free, .pwr, .bring, .flt, .mbx, .grants, .pair, .pins, .pcie, .journal, .clk, .fs, .memc, .fl, .tier, .host, .mot, .outbox, .nvFaultLog, .nvLogNext] s (descDone a d op failed rc s) := by
  unfold descDone
  try dsimp -proj only
  repeat' first
    | exact (rfl : _ = true)
    | (with_reducible exact Keeps.refl _ _)
    | assumption
    | (with_reducible exact (Keeps.refl _ _).mono rfl)
    | (with_reducible apply Keeps.ite <;> intro _)
    | (with_reducible apply Keeps.via updCmd_keeps)
    | (with_reducible apply Keeps.via needsEnd_keeps)
    | (with_reducible apply Keeps.via needsDone_keeps)
    | (with_reducible apply Keeps.via updRun_keeps)
    | (with_reducible apply Keeps.via runWritten_keeps)
    | (with_reducible apply Keeps.via replyPartner_keeps)
    | (with_reducible apply Keeps.via scatter_keeps)
    | (with_reducible apply Keeps.via updFs_keeps)
    | (with_reducible refine Keeps.of_fst (by assumption) ?_)
    | (with_reducible refine Keeps.of_snd (by assumption) ?_)
    | (with_reducible intro)
    | split
    | (dsimp -proj only)

theorem zoneInstall_keeps {a : Nat} {s : State} :
    Keeps [.regs, .mem, .pwr, .bring, .flt, .mbx, .grants, .pins, .pcie, .journal, .clk, .fs, .tier, .mot, .outbox, .nvFaultLog, .nvLogNext] s (zoneInstall a s) := by
  unfold zoneInstall
  try dsimp -proj only
  repeat' first
    | exact (rfl : _ = true)
    | (with_reducible exact Keeps.refl _ _)
    | assumption
    | (with_reducible exact (Keeps.refl _ _).mono rfl)
    | (with_reducible apply Keeps.via setF_keeps)
    | (with_reducible apply Keeps.via memWrite_keeps)
    | (with_reducible apply Keeps.via mbxSetResult_keeps)
    | (with_reducible apply Keeps.via zoneCommit_keeps)
    | (with_reducible apply Keeps.via updFs_keeps)
    | (with_reducible refine Keeps.of_fst (by assumption) ?_)
    | (with_reducible refine Keeps.of_snd (by assumption) ?_)
    | (with_reducible intro)
    | split
    | (dsimp -proj only)

theorem bandDensity_keeps {a : Nat} {b : Band} {s : State} :
    Keeps [.clk, .tier] s (bandDensity a b s) := by
  unfold bandDensity
  try dsimp -proj only
  repeat' first
    | (with_reducible rfl)
    | exact (rfl : _ = true)
    | (with_reducible exact Keeps.refl _ _)
    | assumption
    | (with_reducible exact (Keeps.refl _ _).mono rfl)
    | (with_reducible apply Keeps.ite <;> intro _)
    | (dsimp -proj only [keepsMk]; first | with_reducible apply KeepsMk.upd_clk | with_reducible apply KeepsMk.upd_tier)
    | (with_reducible intro)
    | split
    | (simp [modAt_length]; done)
    | (simp [setAt_length]; done)
    | (simp only [List.length_mapIdx, List.length_map]; done)
    | (simp [MotSt.units, modAt_length, setAt_length]; done)
    | (dsimp -proj only)

theorem bandEnd_keeps {a : Nat} {rc : List Byte} {s : State} :
    Keeps [.regs, .mem, .bad, .free, .pwr, .bring, .flt, .mbx, .grants, .pair, .pins, .pcie, .journal, .clk, .pa, .head, .fs, .memc, .fl, .tier, .host, .mot, .outbox, .nvFaultLog, .nvLogNext] s (bandEnd a rc s) := by
  unfold bandEnd
  try dsimp -proj only
  repeat' first
    | (with_reducible apply Keeps.foldl)
    | exact (rfl : _ = true)
    | (with_reducible exact Keeps.refl _ _)
    | assumption
    | (with_reducible exact (Keeps.refl _ _).mono rfl)
    | (with_reducible apply Keeps.ite <;> intro _)
    | (with_reducible apply Keeps.via setF_keeps)
    | (with_reducible apply Keeps.via count_keeps)
    | (with_reducible apply Keeps.via gatesOffAct_keeps)
    | (with_reducible apply Keeps.via writeDone_keeps)
    | (with_reducible apply Keeps.via unloadHeads_keeps)
    | (with_reducible apply Keeps.via updFs_keeps)
    | (with_reducible apply Keeps.via descDone_keeps)
    | (with_reducible apply Keeps.via zoneInstall_keeps)
    | (with_reducible apply Keeps.via bandDensity_keeps)
    | (with_reducible refine Keeps.of_fst (by assumption) ?_)
    | (with_reducible refine Keeps.of_snd (by assumption) ?_)
    | (with_reducible intro)
    | split
    | (dsimp -proj only)

theorem haltBand_keeps {a : Nat} {st : Nat} {s : State} :
    Keeps [.regs, .mem, .bad, .free, .pwr, .bring, .flt, .mbx, .grants, .pair, .pins, .pcie, .journal, .clk, .pa, .head, .fs, .memc, .fl, .tier, .host, .mot, .outbox, .nvFaultLog, .nvLogNext] s (haltBand a st s) := by
  unfold haltBand
  try dsimp -proj only
  repeat' first
    | exact (rfl : _ = true)
    | (with_reducible exact Keeps.refl _ _)
    | assumption
    | (with_reducible exact (Keeps.refl _ _).mono rfl)
    | (with_reducible apply Keeps.via stopAct_keeps)
    | (with_reducible apply Keeps.via bandEnd_keeps)
    | (with_reducible refine Keeps.of_fst (by assumption) ?_)
    | (with_reducible refine Keeps.of_snd (by assumption) ?_)
    | (with_reducible intro)
    | split
    | (dsimp -proj only)

theorem flushBands_keeps {a : Nat} {st : Nat} {s : State} :
    Keeps [.regs, .mem, .bad, .free, .pwr, .bring, .flt, .mbx, .grants, .pair, .pins, .pcie, .journal, .clk, .fs, .memc, .fl, .tier, .host, .mot, .outbox, .nvFaultLog, .nvLogNext] s (flushBands a st s) := by
  unfold flushBands
  try dsimp -proj only
  repeat' first
    | (with_reducible apply Keeps.foldl)
    | exact (rfl : _ = true)
    | (with_reducible exact Keeps.refl _ _)
    | assumption
    | (with_reducible exact (Keeps.refl _ _).mono rfl)
    | (with_reducible apply Keeps.via updFs_keeps)
    | (with_reducible apply Keeps.via descDone_keeps)
    | (with_reducible intro)
    | (dsimp -proj only)

theorem diskFail_keeps {a : Nat} {st : Nat} {s : State} :
    Keeps [.regs, .mem, .bad, .free, .pwr, .bring, .flt, .mbx, .grants, .pair, .pins, .pcie, .journal, .clk, .fs, .memc, .fl, .tier, .host, .mot, .outbox, .nvFaultLog, .nvLogNext] s (diskFail a st s) := by
  unfold diskFail
  try dsimp -proj only
  repeat' first
    | (with_reducible apply Keeps.foldl)
    | exact (rfl : _ = true)
    | (with_reducible exact Keeps.refl _ _)
    | assumption
    | (with_reducible exact (Keeps.refl _ _).mono rfl)
    | (with_reducible apply Keeps.via updFs_keeps)
    | (with_reducible apply Keeps.via descDone_keeps)
    | (with_reducible intro)
    | (dsimp -proj only)

theorem machineCheck_keeps {a : Nat} {pc : Nat} {w : Nat} {synd : Nat} {cause : Nat} {s : State} :
    Keeps [.regs, .mem, .bad, .free, .pwr, .bring, .flt, .mbx, .grants, .pair, .pins, .pcie, .journal, .clk, .pa, .head, .fs, .memc, .fl, .tier, .host, .mot, .outbox, .nvFaultLog, .nvLogNext] s (machineCheck a pc w synd cause s) := by
  unfold machineCheck
  try dsimp -proj only
  repeat' first
    | exact (rfl : _ = true)
    | (with_reducible exact Keeps.refl _ _)
    | assumption
    | (with_reducible exact (Keeps.refl _ _).mono rfl)
    | (with_reducible apply Keeps.ite <;> intro _)
    | (with_reducible apply Keeps.via wr_keeps)
    | (with_reducible apply Keeps.via setF_keeps)
    | (with_reducible apply Keeps.via stopAct_keeps)
    | (with_reducible apply Keeps.via raise_keeps)
    | (with_reducible apply Keeps.via updFs_keeps)
    | (with_reducible apply Keeps.via traceWord_keeps)
    | (with_reducible apply Keeps.via bandEnd_keeps)
    | (with_reducible apply Keeps.via flushBands_keeps)
    | (with_reducible refine Keeps.of_fst (by assumption) ?_)
    | (with_reducible refine Keeps.of_snd (by assumption) ?_)
    | (with_reducible intro)
    | split
    | (dsimp -proj only)

theorem fsFetch_keeps {a : Nat} {pc : Nat} {upset : BitVec 104} {s : State} :
    Keeps [.regs, .mem, .bad, .free, .pwr, .bring, .flt, .mbx, .grants, .pair, .pins, .pcie, .journal, .clk, .pa, .head, .fs, .memc, .fl, .tier, .host, .mot, .outbox, .nvFaultLog, .nvLogNext] s (fsFetch a pc upset s) := by
  unfold fsFetch
  try dsimp -proj only
  repeat' first
    | exact (rfl : _ = true)
    | (with_reducible exact Keeps.refl _ _)
    | assumption
    | (with_reducible exact (Keeps.refl _ _).mono rfl)
    | (with_reducible apply Keeps.via setF_keeps)
    | (with_reducible apply Keeps.via updFs_keeps)
    | (with_reducible apply Keeps.via machineCheck_keeps)
    | (with_reducible refine Keeps.of_fst (by assumption) ?_)
    | (with_reducible refine Keeps.of_snd (by assumption) ?_)
    | (with_reducible intro)
    | split
    | (dsimp -proj only)

theorem fsStart_keeps {a : Nat} {s : State} :
    Keeps [.regs, .mem, .bad, .free, .pwr, .bring, .flt, .mbx, .grants, .pair, .pins, .pcie, .journal, .clk, .pa, .head, .fs, .memc, .fl, .tier, .host, .mot, .outbox, .nvFaultLog, .nvLogNext] s (fsStart a s) := by
  unfold fsStart
  try dsimp -proj only
  repeat' first
    | exact (rfl : _ = true)
    | (with_reducible exact Keeps.refl _ _)
    | assumption
    | (with_reducible exact (Keeps.refl _ _).mono rfl)
    | (with_reducible apply Keeps.via setF_keeps)
    | (with_reducible apply Keeps.via updFs_keeps)
    | (with_reducible apply Keeps.via fsFetch_keeps)
    | (with_reducible intro)
    | (dsimp -proj only)

theorem fsStop_keeps {a : Nat} {s : State} :
    Keeps [.regs, .fs] s (fsStop a s) := by
  unfold fsStop
  try dsimp -proj only
  repeat' first
    | exact (rfl : _ = true)
    | (with_reducible exact Keeps.refl _ _)
    | assumption
    | (with_reducible exact (Keeps.refl _ _).mono rfl)
    | (with_reducible apply Keeps.via setF_keeps)
    | (with_reducible apply Keeps.via updFs_keeps)
    | (with_reducible intro)
    | (dsimp -proj only)

theorem fsLoad_keeps {a : Nat} {s : State} :
    Keeps [.regs, .mem, .bad, .free, .pwr, .bring, .flt, .mbx, .grants, .pair, .pins, .pcie, .journal, .clk, .pa, .head, .fs, .memc, .fl, .tier, .host, .mot, .outbox, .nvFaultLog, .nvLogNext] s (fsLoad a s) := by
  unfold fsLoad
  try dsimp -proj only
  repeat' first
    | (with_reducible apply Keeps.foldl)
    | exact (rfl : _ = true)
    | (with_reducible exact Keeps.refl _ _)
    | assumption
    | (with_reducible exact (Keeps.refl _ _).mono rfl)
    | (with_reducible apply Keeps.ite <;> intro _)
    | (with_reducible apply Keeps.via wr_keeps)
    | (with_reducible apply Keeps.via setF_keeps)
    | (with_reducible apply Keeps.via raise_keeps)
    | (with_reducible apply Keeps.via updFs_keeps)
    | (with_reducible apply Keeps.via flushBands_keeps)
    | (with_reducible apply Keeps.via fsStart_keeps)
    | (with_reducible refine Keeps.of_fst (by assumption) ?_)
    | (with_reducible refine Keeps.of_snd (by assumption) ?_)
    | (with_reducible intro)
    | split
    | (dsimp -proj only)

theorem nextAddr_keeps {a : Nat} {pc : Nat} {w : Nat} {cond : List Bool} {s : State} :
    Keeps [.fs] s (nextAddr a pc w cond s).2 := by
  unfold nextAddr
  try dsimp -proj only
  repeat' first
    | exact (rfl : _ = true)
    | (with_reducible exact Keeps.refl _ _)
    | assumption
    | (with_reducible exact (Keeps.refl _ _).mono rfl)
    | (with_reducible apply Keeps.ite <;> intro _)
    | (with_reducible apply Keeps.via updFs_keeps)
    | (with_reducible apply Keeps.via grPut_keeps)
    | (with_reducible refine Keeps.of_fst (by assumption) ?_)
    | (with_reducible refine Keeps.of_snd (by assumption) ?_)
    | (with_reducible intro)
    | split
    | (dsimp only)

theorem wordEnd_keeps {a : Nat} {w : Nat} {rev : Bool} {tmo : Bool} {upset : BitVec 104} {s : State} :
    Keeps [.regs, .mem, .bad, .free, .pwr, .bring, .flt, .mbx, .grants, .pair, .pins, .pcie, .journal, .clk, .pa, .head, .fs, .memc, .fl, .tier, .host, .mot, .outbox, .nvFaultLog, .nvLogNext] s (wordEnd a w rev tmo upset s) := by
  unfold wordEnd
  try dsimp -proj only
  repeat' first
    | exact (rfl : _ = true)
    | (with_reducible exact Keeps.refl _ _)
    | assumption
    | (with_reducible exact (Keeps.refl _ _).mono rfl)
    | (with_reducible apply Keeps.ite <;> intro _)
    | (with_reducible apply Keeps.via setF_keeps)
    | (with_reducible apply Keeps.via updFs_keeps)
    | (with_reducible apply Keeps.via traceWord_keeps)
    | (with_reducible apply Keeps.via fsFetch_keeps)
    | (with_reducible apply Keeps.via fsStop_keeps)
    | (with_reducible apply Keeps.via nextAddr_keeps)
    | (with_reducible intro)
    | split
    | (dsimp -proj only)

theorem headWrite_keeps {a : Nat} {b : Band} {s : State} {i : Nat} :
    Keeps [.outbox] s (headWrite a b s i) := by
  unfold headWrite
  try dsimp -proj only
  repeat' first
    | exact (rfl : _ = true)
    | (with_reducible exact Keeps.refl _ _)
    | assumption
    | (with_reducible exact (Keeps.refl _ _).mono rfl)
    | (with_reducible apply Keeps.via send_keeps)
    | (with_reducible intro)
    | (dsimp -proj only)

theorem slotPass_keeps {a : Nat} {s : State} :
    Keeps [.regs, .pwr, .bring, .flt, .mbx, .grants, .pins, .pcie, .journal, .clk, .fs, .tier, .mot, .outbox, .nvFaultLog, .nvLogNext] s (slotPass a s) := by
  unfold slotPass
  try dsimp -proj only
  repeat' first
    | (with_reducible apply Keeps.foldl)
    | exact (rfl : _ = true)
    | (with_reducible exact Keeps.refl _ _)
    | assumption
    | (with_reducible exact (Keeps.refl _ _).mono rfl)
    | (with_reducible apply Keeps.ite <;> intro _)
    | (with_reducible apply Keeps.via wr_keeps)
    | (with_reducible apply Keeps.via health_keeps)
    | (with_reducible apply Keeps.via updBand_keeps)
    | (with_reducible apply Keeps.via raise_keeps)
    | (with_reducible apply Keeps.via headWrite_keeps)
    | (dsimp -proj only [keepsMk]; with_reducible apply KeepsMk.upd_pins)
    | (with_reducible refine Keeps.of_fst (by assumption) ?_)
    | (with_reducible refine Keeps.of_snd (by assumption) ?_)
    | (with_reducible intro)
    | split
    | (dsimp -proj only)

theorem slotsPass_keeps {a : Nat} {y0 : Nat} {y1 : State} :
    Keeps [.regs, .pwr, .bring, .flt, .mbx, .grants, .pins, .pcie, .journal, .clk, .fs, .tier, .mot, .outbox, .nvFaultLog, .nvLogNext] y1 (slotsPass a y0 y1) := by
  induction y0 generalizing y1 with
  | zero => exact Keeps.refl _ _
  | succ k ih =>
  unfold slotsPass
  try dsimp -proj only
  repeat' first
    | (with_reducible apply Keeps.trans; rotate_left; apply ih)
    | exact (rfl : _ = true)
    | (with_reducible exact Keeps.refl _ _)
    | assumption
    | (with_reducible exact (Keeps.refl _ _).mono rfl)
    | (with_reducible apply Keeps.via slotPass_keeps)
    | (with_reducible refine Keeps.of_fst (by assumption) ?_)
    | (with_reducible refine Keeps.of_snd (by assumption) ?_)
    | (with_reducible intro)
    | split
    | (dsimp -proj only)
    | (dsimp -proj +zetaDelta only)

theorem revPass_keeps {a : Nat} {rev : Bool} {s : State} :
    Keeps [.fs] s (revPass a rev s) := by
  unfold revPass
  try dsimp -proj only
  repeat' first
    | exact (rfl : _ = true)
    | (with_reducible exact Keeps.refl _ _)
    | assumption
    | (with_reducible exact (Keeps.refl _ _).mono rfl)
    | (with_reducible apply Keeps.ite <;> intro _)
    | (with_reducible apply Keeps.via updBand_keeps)
    | (with_reducible intro)
    | split
    | (dsimp -proj only)

theorem fsAct_keeps {wp : List Part} {a : Nat} {code : Nat} {f : Nat → State → State} {s : State} (h_f : ∀ q0 q1, Keeps wp q1 (f q0 q1)) (hwp : within wp [.fs] = true) :
    Keeps wp s (fsAct a code f s) := by
  unfold fsAct
  try dsimp -proj only
  repeat' first
    | exact (rfl : _ = true)
    | (with_reducible exact Keeps.refl _ _)
    | assumption
    | exact within_contains hwp rfl
    | exact within_trans hwp rfl
    | (with_reducible exact (Keeps.refl _ _).mono rfl)
    | (with_reducible apply Keeps.ite <;> intro _)
    | (with_reducible apply Keeps.via updFs_keeps)
    | (with_reducible apply Keeps.trans ?_ (h_f _ _))
    | (with_reducible refine Keeps.of_fst (by assumption) ?_)
    | (with_reducible refine Keeps.of_snd (by assumption) ?_)
    | (with_reducible intro)
    | split
    | (dsimp -proj only)

theorem aluPut_keeps {a : Nat} {rd : Nat} {r : Option Word × Option Bool × Option Bool} {s : State} :
    Keeps [.free, .fs] s (aluPut a rd r s) := by
  unfold aluPut
  try dsimp -proj only
  repeat' first
    | exact (rfl : _ = true)
    | (with_reducible exact Keeps.refl _ _)
    | assumption
    | (with_reducible exact (Keeps.refl _ _).mono rfl)
    | (with_reducible apply Keeps.via takeFree_keeps)
    | (with_reducible apply Keeps.via updFs_keeps)
    | (with_reducible apply Keeps.via grPut_keeps)
    | (with_reducible intro)
    | (dsimp -proj only)

theorem zoneHead_keeps {a : Nat} {z : Nat} {i : Nat} {s : State} :
    Keeps [.regs, .pa, .outbox] s (zoneHead a z i s) := by
  unfold zoneHead
  try dsimp -proj only
  repeat' first
    | exact (rfl : _ = true)
    | (with_reducible exact Keeps.refl _ _)
    | assumption
    | (with_reducible exact (Keeps.refl _ _).mono rfl)
    | (with_reducible apply Keeps.ite <;> intro _)
    | (with_reducible apply Keeps.via wr_keeps)
    | (with_reducible apply Keeps.via setF_keeps)
    | (with_reducible apply Keeps.via paSend_keeps)
    | (with_reducible apply Keeps.via heater_keeps)
    | (with_reducible intro)
    | split
    | (dsimp -proj only)

theorem armWrite_keeps {a : Nat} {pos : Nat} {b : Band} {s : State} :
    Keeps [.regs, .pa, .head, .fs, .outbox] s (armWrite a pos b s) := by
  unfold armWrite
  try dsimp -proj only
  repeat' first
    | (with_reducible apply Keeps.foldl)
    | exact (rfl : _ = true)
    | (with_reducible exact Keeps.refl _ _)
    | assumption
    | (with_reducible exact (Keeps.refl _ _).mono rfl)
    | (with_reducible apply Keeps.via setF_keeps)
    | (with_reducible apply Keeps.via updBand_keeps)
    | (with_reducible apply Keeps.via writePrep_keeps)
    | (with_reducible intro)
    | (dsimp -proj only)

theorem armRead_keeps {a : Nat} {b : Band} {s : State} :
    Keeps [.regs, .fs] s (armRead a b s) := by
  unfold armRead
  try dsimp -proj only
  repeat' first
    | exact (rfl : _ = true)
    | (with_reducible exact Keeps.refl _ _)
    | assumption
    | (with_reducible exact (Keeps.refl _ _).mono rfl)
    | (with_reducible apply Keeps.via setF_keeps)
    | (with_reducible apply Keeps.via updBand_keeps)
    | (with_reducible intro)
    | (dsimp -proj only)

theorem takeDesc_keeps {a : Nat} {rd : Nat} {y0 : Nat} {y1 : State} :
    Keeps [.regs, .mem, .bad, .free, .pwr, .bring, .flt, .mbx, .grants, .pair, .pins, .pcie, .journal, .clk, .fs, .memc, .fl, .tier, .host, .mot, .outbox, .nvFaultLog, .nvLogNext] y1 (takeDesc a rd y0 y1) := by
  fun_induction takeDesc a rd y0 y1
  all_goals try dsimp -proj only
  repeat' first
    | (with_reducible apply Keeps.foldl)
    | exact (rfl : _ = true)
    | (with_reducible exact Keeps.refl _ _)
    | assumption
    | (with_reducible apply Keeps.trans; rotate_left; assumption)
    | (with_reducible exact (Keeps.refl _ _).mono rfl)
    | (with_reducible apply Keeps.ite <;> intro _)
    | (with_reducible apply Keeps.via wr_keeps)
    | (with_reducible apply Keeps.via setF_keeps)
    | (with_reducible apply Keeps.via count_keeps)
    | (with_reducible apply Keeps.via updFs_keeps)
    | (with_reducible apply Keeps.via grPut_keeps)
    | (with_reducible apply Keeps.via descDone_keeps)
    | (with_reducible refine Keeps.of_fst (by assumption) ?_)
    | (with_reducible refine Keeps.of_snd (by assumption) ?_)
    | (with_reducible intro)
    | split
    | (dsimp -proj only)
    | (dsimp -proj +zetaDelta only)

theorem fsResume_keeps {a : Nat} {s : State} :
    Keeps [.regs, .mem, .bad, .free, .pwr, .bring, .flt, .mbx, .grants, .pair, .pins, .pcie, .journal, .clk, .pa, .head, .fs, .memc, .fl, .tier, .host, .mot, .outbox, .nvFaultLog, .nvLogNext] s (fsResume a s) := by
  unfold fsResume
  try dsimp -proj only
  repeat' first
    | exact (rfl : _ = true)
    | (with_reducible exact Keeps.refl _ _)
    | assumption
    | (with_reducible exact (Keeps.refl _ _).mono rfl)
    | (with_reducible apply Keeps.ite <;> intro _)
    | (with_reducible apply Keeps.via fsStart_keeps)
    | (with_reducible intro)
    | split
    | (dsimp -proj only)

theorem fsHalt_keeps {a : Nat} {s : State} :
    Keeps [.regs, .fs] s (fsHalt a s) := by
  unfold fsHalt
  try dsimp -proj only
  repeat' first
    | exact (rfl : _ = true)
    | (with_reducible exact Keeps.refl _ _)
    | assumption
    | (with_reducible exact (Keeps.refl _ _).mono rfl)
    | (with_reducible apply Keeps.ite <;> intro _)
    | (with_reducible apply Keeps.via updFs_keeps)
    | (with_reducible apply Keeps.via fsStop_keeps)
    | (with_reducible intro)
    | split
    | (dsimp -proj only)

theorem trcFreeze_keeps {a : Nat} {b : Bool} {s : State} :
    Keeps [.regs] s (trcFreeze a b s) := by
  unfold trcFreeze
  try dsimp -proj only
  repeat' first
    | exact (rfl : _ = true)
    | (with_reducible exact Keeps.refl _ _)
    | assumption
    | (with_reducible exact (Keeps.refl _ _).mono rfl)
    | (with_reducible apply Keeps.via setB_keeps)
    | (with_reducible intro)
    | (dsimp -proj only)

theorem trcRead_keeps {p : Path} {a : Nat} {s : State} :
    Keeps [.regs, .free, .snaps] s (trcRead p a s).1 := by
  unfold trcRead
  try dsimp -proj only
  repeat' first
    | exact (rfl : _ = true)
    | (with_reducible exact Keeps.refl _ _)
    | assumption
    | (with_reducible exact (Keeps.refl _ _).mono rfl)
    | (with_reducible apply Keeps.ite <;> intro _)
    | (with_reducible apply Keeps.via wr_keeps)
    | (with_reducible apply Keeps.via setF_keeps)
    | (with_reducible apply Keeps.via takeFree_keeps)
    | (with_reducible apply Keeps.via snapHi_keeps)
    | (with_reducible apply Keeps.via traceEntry_keeps)
    | (with_reducible intro)
    | split
    | (dsimp only)

theorem traceBytes_keeps {a : Nat} {y0 : Nat} {y1 : Nat} {y2 : State} :
    Keeps [.free] y2 (traceBytes a y0 y1 y2).2 := by
  fun_induction traceBytes a y0 y1 y2
  all_goals try dsimp -proj only
  repeat' first
    | exact (rfl : _ = true)
    | (with_reducible exact Keeps.refl _ _)
    | assumption
    | (with_reducible apply Keeps.trans; rotate_left; assumption)
    | (with_reducible exact (Keeps.refl _ _).mono rfl)
    | (with_reducible apply Keeps.via traceEntry_keeps)
    | (with_reducible refine Keeps.of_fst (by assumption) ?_)
    | (with_reducible refine Keeps.of_snd (by assumption) ?_)
    | (with_reducible intro)
    | split
    | (dsimp only)
    | (dsimp -proj +zetaDelta only)

end Sys2Proof.Machine
end

