-- ==== Sys2Proof/Laws/KeepTrust.lean ====
section
/-! SUPPORT. What each operation of Machine/Trust.lean keeps (`Keeps`). -/

set_option Elab.async false

namespace Sys2Proof.Machine

theorem setStaging_keeps {k : Nat} {x : Option Staging} {s : State} :
    Keeps [.boot] s (setStaging k x s) := by
  unfold setStaging
  try dsimp -proj only
  repeat' first
    | exact (rfl : _ = true)
    | (with_reducible exact Keeps.refl _ _)
    | assumption
    | (with_reducible exact (Keeps.refl _ _).mono rfl)
    | (dsimp -proj only [keepsMk]; with_reducible apply KeepsMk.upd_boot)
    | (with_reducible intro)
    | (dsimp -proj only)

theorem stageFail_keeps {k : Nat} {s : State} :
    Keeps [.regs, .boot, .nvSup, .nvCtl] s (stageFail k s) := by
  unfold stageFail
  try dsimp -proj only
  repeat' first
    | exact (rfl : _ = true)
    | (with_reducible exact Keeps.refl _ _)
    | assumption
    | (with_reducible exact (Keeps.refl _ _).mono rfl)
    | (with_reducible apply Keeps.via setSlot_keeps)
    | (with_reducible apply Keeps.via setStaging_keeps)
    | (with_reducible intro)
    | (dsimp -proj only)

theorem romRestart_keeps {s : State} :
    Keeps [.boot] s (romRestart s) := by
  unfold romRestart
  try dsimp -proj only
  repeat' first
    | exact (rfl : _ = true)
    | (with_reducible exact Keeps.refl _ _)
    | assumption
    | (with_reducible exact (Keeps.refl _ _).mono rfl)
    | (dsimp -proj only [keepsMk]; with_reducible apply KeepsMk.upd_boot)
    | (with_reducible intro)
    | (dsimp -proj only)

theorem stageEnd_keeps {k : Nat} {b : List Byte} {s : State} :
    Keeps [.regs, .boot, .nvSup, .nvCtl] s (stageEnd k b s).1 := by
  unfold stageEnd
  try dsimp -proj only
  repeat' first
    | exact (rfl : _ = true)
    | (with_reducible exact Keeps.refl _ _)
    | assumption
    | (with_reducible exact (Keeps.refl _ _).mono rfl)
    | (with_reducible apply Keeps.ite <;> intro _)
    | (with_reducible apply Keeps.via answer_keeps)
    | (with_reducible apply Keeps.via answerData_keeps)
    | (with_reducible apply Keeps.via setSlot_keeps)
    | (with_reducible apply Keeps.via setStaging_keeps)
    | (with_reducible apply Keeps.via stageFail_keeps)
    | (with_reducible apply Keeps.via romRestart_keeps)
    | (with_reducible refine Keeps.of_fst (by assumption) ?_)
    | (with_reducible refine Keeps.of_snd (by assumption) ?_)
    | (with_reducible intro)
    | split
    | (dsimp only)

theorem stageChunk_keeps {k : Nat} {owner : Nat × Nat} {first : Bool} {last : Bool} {off : Nat} {d : List Byte} {s : State} :
    Keeps [.regs, .boot, .nvSup, .nvCtl] s (stageChunk k owner first last off d s).1 := by
  unfold stageChunk
  try dsimp -proj only
  repeat' first
    | exact (rfl : _ = true)
    | (with_reducible exact Keeps.refl _ _)
    | assumption
    | (with_reducible exact (Keeps.refl _ _).mono rfl)
    | (with_reducible apply Keeps.ite <;> intro _)
    | (with_reducible apply Keeps.via answer_keeps)
    | (with_reducible apply Keeps.via setSlot_keeps)
    | (with_reducible apply Keeps.via setStaging_keeps)
    | (with_reducible apply Keeps.via stageFail_keeps)
    | (with_reducible apply Keeps.via stageEnd_keeps)
    | (with_reducible intro)
    | split
    | (dsimp only)

theorem fwStageRow_keeps {m : Fin 16} {s : State} :
    Keeps [.regs, .mbx, .boot, .nvSup, .nvCtl] s (fwStageRow m s) := by
  unfold fwStageRow
  try dsimp -proj only
  repeat' first
    | exact (rfl : _ = true)
    | (with_reducible exact Keeps.refl _ _)
    | assumption
    | (with_reducible exact (Keeps.refl _ _).mono rfl)
    | (with_reducible apply Keeps.ite <;> intro _)
    | (with_reducible apply Keeps.trans ?_ (mbxRow_keeps ?_ ?_))
    | (with_reducible apply Keeps.via answer_keeps)
    | (with_reducible apply Keeps.via stageChunk_keeps)
    | (with_reducible intro)
    | split
    | (dsimp -proj only)

theorem dropOldSlots_keeps {k : Nat} {s : State} :
    Keeps [.nvSup, .nvCtl] s (dropOldSlots k s) := by
  unfold dropOldSlots
  try dsimp -proj only
  repeat' first
    | exact (rfl : _ = true)
    | (with_reducible exact Keeps.refl _ _)
    | assumption
    | (with_reducible exact (Keeps.refl _ _).mono rfl)
    | (with_reducible apply Keeps.ite <;> intro _)
    | (with_reducible apply Keeps.via updSlots_keeps)
    | (with_reducible intro)
    | split
    | (dsimp -proj only)

theorem spdmErr_keeps {p : Nat} {code : Nat} {s : State} :
    Keeps [.outbox] s (spdmErr p code s) := by
  unfold spdmErr
  try dsimp -proj only
  repeat' first
    | exact (rfl : _ = true)
    | (with_reducible exact Keeps.refl _ _)
    | assumption
    | (with_reducible exact (Keeps.refl _ _).mono rfl)
    | (with_reducible apply Keeps.via send_keeps)
    | (with_reducible intro)
    | (dsimp -proj only)

theorem spdmGive_keeps {p : Nat} {code : Nat} {body : List Byte} {s : State} :
    Keeps [.spdm, .outbox] s (spdmGive p code body s) := by
  unfold spdmGive
  try dsimp -proj only
  repeat' first
    | exact (rfl : _ = true)
    | (with_reducible exact Keeps.refl _ _)
    | assumption
    | (with_reducible exact (Keeps.refl _ _).mono rfl)
    | (with_reducible apply Keeps.ite <;> intro _)
    | (with_reducible apply Keeps.via send_keeps)
    | (with_reducible apply Keeps.via spdmErr_keeps)
    | (dsimp -proj only [keepsMk]; with_reducible apply KeepsMk.upd_spdm)
    | (with_reducible intro)
    | split
    | (dsimp -proj only)

theorem spdmServe_keeps {wp : List Part} {p : Fin 4} {busy : Bool} {need : Nat} {rom : Bool} {f : State → State} {s : State} (h_f : ∀ q0, Keeps wp q0 (f q0)) (hwp : within wp [.outbox] = true) :
    Keeps wp s (spdmServe p busy need rom f s) := by
  unfold spdmServe
  try dsimp -proj only
  repeat' first
    | exact (rfl : _ = true)
    | (with_reducible exact Keeps.refl _ _)
    | assumption
    | exact within_contains hwp rfl
    | exact within_trans hwp rfl
    | (with_reducible exact (Keeps.refl _ _).mono rfl)
    | (with_reducible apply Keeps.ite <;> intro _)
    | (with_reducible apply Keeps.via spdmErr_keeps)
    | (with_reducible apply Keeps.trans ?_ (h_f _))
    | (with_reducible intro)
    | split
    | (dsimp -proj only)

theorem setPhase_keeps {p : Nat} {n : Nat} {s : State} :
    Keeps [.spdm] s (setPhase p n s) := by
  unfold setPhase
  try dsimp -proj only
  repeat' first
    | exact (rfl : _ = true)
    | (with_reducible exact Keeps.refl _ _)
    | assumption
    | (with_reducible exact (Keeps.refl _ _).mono rfl)
    | (dsimp -proj only [keepsMk]; with_reducible apply KeepsMk.upd_spdm)
    | (with_reducible intro)
    | (dsimp -proj only)

theorem signed_keeps {p : Nat} {code : Nat} {body : List Byte} {nonce : List Byte} {s : State} :
    Keeps [.free, .spdm, .outbox] s (signed p code body nonce s) := by
  unfold signed
  try dsimp -proj only
  repeat' first
    | exact (rfl : _ = true)
    | (with_reducible exact Keeps.refl _ _)
    | assumption
    | (with_reducible exact (Keeps.refl _ _).mono rfl)
    | (with_reducible apply Keeps.via freeBytes_keeps)
    | (with_reducible apply Keeps.via spdmGive_keeps)
    | (with_reducible intro)
    | (dsimp -proj only)

theorem sessEnd_keeps {n : Nat} {s : State} :
    Keeps [.mbx, .grants, .volu, .host, .spdm, .outbox] s (sessEnd n s) := by
  unfold sessEnd
  try dsimp -proj only
  repeat' first
    | exact (rfl : _ = true)
    | (with_reducible exact Keeps.refl _ _)
    | assumption
    | (with_reducible exact (Keeps.refl _ _).mono rfl)
    | (with_reducible apply Keeps.via dropGrants_keeps)
    | (with_reducible apply Keeps.via canalLost_keeps)
    | (dsimp -proj only [keepsMk]; with_reducible apply KeepsMk.upd_spdm)
    | (with_reducible refine Keeps.of_fst (by assumption) ?_)
    | (with_reducible refine Keeps.of_snd (by assumption) ?_)
    | (with_reducible intro)
    | split
    | (dsimp -proj only)

theorem inSession_keeps {wp : List Part} {p : Fin 4} {busy : Bool} {sid : Nat} {f : State → State} {s : State} (h_f : ∀ q0, Keeps wp q0 (f q0)) (hwp : within wp [.outbox] = true) :
    Keeps wp s (inSession p busy sid f s) := by
  unfold inSession
  try dsimp -proj only
  repeat' first
    | exact (rfl : _ = true)
    | (with_reducible exact Keeps.refl _ _)
    | assumption
    | exact within_contains hwp rfl
    | exact within_trans hwp rfl
    | (with_reducible exact (Keeps.refl _ _).mono rfl)
    | (with_reducible apply Keeps.ite <;> intro _)
    | (with_reducible apply Keeps.via spdmErr_keeps)
    | (with_reducible apply Keeps.trans ?_ (spdmServe_keeps ?_ ?_))
    | (with_reducible apply Keeps.trans ?_ (h_f _))
    | (with_reducible intro)
    | split
    | (dsimp -proj only)

theorem startAttest_keeps {s : State} :
    Keeps [.spdm, .outbox] s (startAttest s) := by
  unfold startAttest
  try dsimp -proj only
  repeat' first
    | exact (rfl : _ = true)
    | (with_reducible exact Keeps.refl _ _)
    | assumption
    | (with_reducible exact (Keeps.refl _ _).mono rfl)
    | (with_reducible apply Keeps.via send_keeps)
    | (dsimp -proj only [keepsMk]; with_reducible apply KeepsMk.upd_spdm)
    | (with_reducible intro)
    | (dsimp -proj only)

theorem attestEnd_keeps {code : Nat} {s : State} :
    Keeps [.regs, .pwr, .bring, .flt, .mbx, .grants, .pair, .pins, .pcie, .journal, .clk, .fs, .spdm, .mot, .outbox, .nvFaultLog, .nvLogNext] s (attestEnd code s) := by
  unfold attestEnd
  try dsimp -proj only
  repeat' first
    | exact (rfl : _ = true)
    | (with_reducible exact Keeps.refl _ _)
    | assumption
    | (with_reducible exact (Keeps.refl _ _).mono rfl)
    | (with_reducible apply Keeps.ite <;> intro _)
    | (with_reducible apply Keeps.via raise_keeps)
    | (with_reducible apply Keeps.via nalSend_keeps)
    | (dsimp -proj only [keepsMk]; with_reducible apply KeepsMk.upd_bring_spdm)
    | (with_reducible intro)
    | split
    | (dsimp -proj only)

end Sys2Proof.Machine
end

