-- ==== Sys2Proof/Laws/KeepLinkOps.lean ====
section
/-! SUPPORT. What each operation of Machine/LinkOps.lean keeps (`Keeps`). -/

set_option Elab.async false

namespace Sys2Proof.Machine

theorem mirrorDown_keeps {s : State} :
    Keeps [.regs, .pair, .journal, .tier, .outbox] s (mirrorDown s) := by
  unfold mirrorDown
  try dsimp -proj only
  repeat' first
    | exact (rfl : _ = true)
    | (with_reducible exact Keeps.refl _ _)
    | assumption
    | (with_reducible exact (Keeps.refl _ _).mono rfl)
    | (with_reducible apply Keeps.ite <;> intro _)
    | (with_reducible apply Keeps.via setF_keeps)
    | (with_reducible apply Keeps.via jRelease_keeps)
    | (with_reducible apply Keeps.via jAckFree_keeps)
    | (dsimp -proj only [keepsMk]; with_reducible apply KeepsMk.upd_journal)
    | (with_reducible intro)
    | split
    | (dsimp -proj only)

theorem fenceReaction_keeps {s : State} :
    Keeps [.regs, .pwr, .bring, .flt, .mbx, .grants, .pair, .pins, .pcie, .journal, .clk, .fs, .mot, .outbox, .nvFaultLog, .nvLogNext] s (fenceReaction s) := by
  unfold fenceReaction
  try dsimp -proj only
  repeat' first
    | exact (rfl : _ = true)
    | (with_reducible exact Keeps.refl _ _)
    | assumption
    | (with_reducible exact (Keeps.refl _ _).mono rfl)
    | (with_reducible apply Keeps.via forcedSafe_keeps)
    | (with_reducible apply Keeps.via updPair_keeps)
    | (with_reducible intro)
    | (dsimp -proj only)

theorem fenceStep_keeps {s : State} :
    Keeps [.regs, .pwr, .bring, .flt, .mbx, .grants, .pair, .pins, .pcie, .journal, .clk, .fs, .tier, .mot, .outbox, .nvFaultLog, .nvLogNext] s (fenceStep s) := by
  unfold fenceStep
  try dsimp -proj only
  repeat' first
    | exact (rfl : _ = true)
    | (with_reducible exact Keeps.refl _ _)
    | assumption
    | (with_reducible exact (Keeps.refl _ _).mono rfl)
    | (with_reducible apply Keeps.ite <;> intro _)
    | (with_reducible apply Keeps.via updPair_keeps)
    | (with_reducible apply Keeps.via mirrorDown_keeps)
    | (with_reducible apply Keeps.via fenceReaction_keeps)
    | (with_reducible intro)
    | split
    | (dsimp -proj only)

theorem takeoverStart_keeps {s : State} :
    Keeps [.regs, .pwr, .bring, .flt, .mbx, .grants, .pair, .pins, .pcie, .journal, .clk, .fs, .tier, .mot, .outbox, .nvFaultLog, .nvLogNext] s (takeoverStart s) := by
  unfold takeoverStart
  try dsimp -proj only
  repeat' first
    | exact (rfl : _ = true)
    | (with_reducible exact Keeps.refl _ _)
    | assumption
    | (with_reducible exact (Keeps.refl _ _).mono rfl)
    | (with_reducible apply Keeps.ite <;> intro _)
    | (with_reducible apply Keeps.via nalSend_keeps)
    | (with_reducible apply Keeps.via updPair_keeps)
    | (with_reducible apply Keeps.via fenceStep_keeps)
    | (with_reducible intro)
    | split
    | (dsimp -proj only)

theorem trainSend_keeps {s : State} :
    Keeps [.outbox] s (trainSend s) := by
  unfold trainSend
  try dsimp -proj only
  repeat' first
    | exact (rfl : _ = true)
    | (with_reducible exact Keeps.refl _ _)
    | assumption
    | (with_reducible exact (Keeps.refl _ _).mono rfl)
    | (with_reducible apply Keeps.ite <;> intro _)
    | (with_reducible apply Keeps.via send_keeps)
    | (with_reducible intro)
    | split
    | (dsimp -proj only)

theorem pairDrainEnd_keeps {s : State} :
    Keeps [.regs, .pwr, .mbx, .volu] s (pairDrainEnd s) := by
  unfold pairDrainEnd
  try dsimp -proj only
  repeat' first
    | exact (rfl : _ = true)
    | (with_reducible exact Keeps.refl _ _)
    | assumption
    | (with_reducible exact (Keeps.refl _ _).mono rfl)
    | (with_reducible apply Keeps.ite <;> intro _)
    | (with_reducible apply Keeps.via setF_keeps)
    | (with_reducible apply Keeps.via mbxFinish_keeps)
    | (dsimp -proj only [keepsMk]; with_reducible apply KeepsMk.upd_pwr_volu)
    | (with_reducible intro)
    | split
    | (dsimp -proj only)

theorem nalDown_keeps {s : State} :
    Keeps [.regs, .mem, .pwr, .bring, .flt, .mbx, .grants, .pair, .pins, .pcie, .journal, .clk, .fs, .tier, .volu, .host, .mot, .outbox, .nvFaultLog, .nvLogNext] s (nalDown s) := by
  unfold nalDown
  try dsimp -proj only
  repeat' first
    | exact (rfl : _ = true)
    | (with_reducible exact Keeps.refl _ _)
    | assumption
    | (with_reducible exact (Keeps.refl _ _).mono rfl)
    | (with_reducible apply Keeps.ite <;> intro _)
    | (with_reducible apply Keeps.via setF_keeps)
    | (with_reducible apply Keeps.via updPair_keeps)
    | (with_reducible apply Keeps.via anaRefresh_keeps)
    | (with_reducible apply Keeps.via requestsLost_keeps)
    | (with_reducible apply Keeps.via mirrorDown_keeps)
    | (with_reducible apply Keeps.via takeoverStart_keeps)
    | (with_reducible apply Keeps.via pairDrainEnd_keeps)
    | (dsimp -proj only [keepsMk]; with_reducible apply KeepsMk.upd_bring)
    | (with_reducible intro)
    | split
    | (dsimp -proj only)

theorem queuesFree_keeps {pcie : Bool} {s : State} :
    Keeps [.regs, .host] s (queuesFree pcie s) := by
  unfold queuesFree
  try dsimp -proj only
  repeat' first
    | (with_reducible apply Keeps.foldl)
    | (with_reducible rfl)
    | exact (rfl : _ = true)
    | (with_reducible exact Keeps.refl _ _)
    | assumption
    | (with_reducible exact (Keeps.refl _ _).mono rfl)
    | (with_reducible apply Keeps.ite <;> intro _)
    | (with_reducible apply Keeps.via dropCmds_keeps)
    | (with_reducible apply Keeps.via natFree_keeps)
    | (dsimp -proj only [keepsMk]; with_reducible apply KeepsMk.upd_host)
    | (with_reducible exact natq_id)
    | (with_reducible exact natq_mod)
    | (with_reducible exact natq_map)
    | (with_reducible exact natq_reset)
    | (with_reducible refine Keeps.of_fst (by assumption) ?_)
    | (with_reducible refine Keeps.of_snd (by assumption) ?_)
    | (with_reducible intro)
    | split
    | (simp [modAt_length]; done)
    | (simp [setAt_length]; done)
    | (simp only [List.length_mapIdx, List.length_map]; done)
    | (simp [MotSt.units, modAt_length, setAt_length]; done)
    | (dsimp -proj only)

theorem pcieReset_keeps {s : State} :
    Keeps [.regs, .mem, .bad, .free, .pwr, .bring, .flt, .mbx, .fences, .grants, .pins, .pcie, .journal, .clk, .fs, .memc, .host, .mot, .outbox, .nvFaultLog, .nvLogNext] s (pcieReset s) := by
  unfold pcieReset
  try dsimp -proj only
  repeat' first
    | exact (rfl : _ = true)
    | (with_reducible exact Keeps.refl _ _)
    | assumption
    | (with_reducible exact (Keeps.refl _ _).mono rfl)
    | (with_reducible apply Keeps.via pump_keeps)
    | (with_reducible apply Keeps.via ctrlReset_keeps)
    | (with_reducible apply Keeps.via queuesFree_keeps)
    | (with_reducible intro)
    | (dsimp -proj only)

theorem pcieDown_keeps {s : State} :
    Keeps [.pcie] s (pcieDown s) := by
  unfold pcieDown
  try dsimp -proj only
  repeat' first
    | exact (rfl : _ = true)
    | (with_reducible exact Keeps.refl _ _)
    | assumption
    | (with_reducible exact (Keeps.refl _ _).mono rfl)
    | (dsimp -proj only [keepsMk]; with_reducible apply KeepsMk.upd_pcie)
    | (with_reducible intro)
    | (dsimp -proj only)

theorem laneSet_keeps {up : Bool} {l : Nat} {s : State} :
    Keeps [.regs, .free] s (laneSet up l s) := by
  unfold laneSet
  try dsimp -proj only
  repeat' first
    | exact (rfl : _ = true)
    | (with_reducible exact Keeps.refl _ _)
    | assumption
    | (with_reducible exact (Keeps.refl _ _).mono rfl)
    | (with_reducible apply Keeps.ite <;> intro _)
    | (with_reducible apply Keeps.via setB_keeps)
    | (with_reducible apply Keeps.via freeF_keeps)
    | (with_reducible intro)
    | split
    | (dsimp -proj only)

theorem portSet_keeps {q : Nat} {up : Bool} {speed : Nat} {lanes : Nat} {s : State} :
    Keeps [.regs, .free] s (portSet q up speed lanes s) := by
  unfold portSet
  try dsimp -proj only
  repeat' first
    | (with_reducible apply Keeps.forN)
    | exact (rfl : _ = true)
    | (with_reducible exact Keeps.refl _ _)
    | assumption
    | (with_reducible exact (Keeps.refl _ _).mono rfl)
    | (with_reducible apply Keeps.ite <;> intro _)
    | (with_reducible apply Keeps.via setF_keeps)
    | (with_reducible apply Keeps.via setB_keeps)
    | (with_reducible apply Keeps.via laneSet_keeps)
    | (with_reducible intro)
    | split
    | (dsimp -proj only)

theorem fabDown_keeps {s : State} :
    Keeps [.regs, .free] s (fabDown s) := by
  unfold fabDown
  try dsimp -proj only
  repeat' first
    | (with_reducible apply Keeps.forN)
    | exact (rfl : _ = true)
    | (with_reducible exact Keeps.refl _ _)
    | assumption
    | (with_reducible exact (Keeps.refl _ _).mono rfl)
    | (with_reducible apply Keeps.ite <;> intro _)
    | (with_reducible apply Keeps.via portSet_keeps)
    | (with_reducible intro)
    | split
    | (dsimp -proj only)

end Sys2Proof.Machine
end

