-- ==== Sys2Proof/Laws/KeepMem.lean ====
section
/-! SUPPORT. What each operation of Machine/Mem.lean keeps (`Keeps`). -/

set_option Elab.async false

namespace Sys2Proof.Machine

theorem tcMaint_keeps {op : Nat} {way : Nat} {lines : Nat} {s : State} :
    Keeps [.regs, .mem, .bad, .flt, .pcie, .memc, .outbox, .nvFaultLog, .nvLogNext] s (tcMaint op way lines s).1 := by
  unfold tcMaint
  try dsimp -proj only
  repeat' first
    | exact (rfl : _ = true)
    | (with_reducible exact Keeps.refl _ _)
    | assumption
    | (with_reducible exact (Keeps.refl _ _).mono rfl)
    | (with_reducible apply Keeps.ite <;> intro _)
    | (with_reducible apply Keeps.via setF_keeps)
    | (with_reducible apply Keeps.via count_keeps)
    | (with_reducible apply Keeps.via tcKeep_keeps)
    | (with_reducible apply Keeps.via tcDrop_keeps)
    | (dsimp -proj only [keepsMk]; with_reducible apply KeepsMk.upd_memc)
    | (with_reducible intro)
    | split
    | (dsimp only)

theorem tcPreload1_keeps {l : Nat} {w : Nat} {s : State} :
    Keeps [.regs, .mem, .bad, .pwr, .bring, .flt, .mbx, .grants, .pins, .pcie, .journal, .clk, .fs, .memc, .mot, .outbox, .nvFaultLog, .nvLogNext] s (tcPreload1 l w s) := by
  unfold tcPreload1
  try dsimp -proj only
  repeat' first
    | exact (rfl : _ = true)
    | (with_reducible exact Keeps.refl _ _)
    | assumption
    | (with_reducible exact (Keeps.refl _ _).mono rfl)
    | (with_reducible apply Keeps.ite <;> intro _)
    | (with_reducible apply Keeps.via count_keeps)
    | (with_reducible apply Keeps.via raise_keeps)
    | (with_reducible apply Keeps.via eccUe_keeps)
    | (with_reducible apply Keeps.via tcPut_keeps)
    | (with_reducible intro)
    | split
    | (dsimp -proj only)

theorem tcBadLine_keeps {l : Nat} {w : Nat} {s : State} :
    Keeps [.regs, .mem, .bad, .pwr, .bring, .flt, .mbx, .grants, .pins, .pcie, .journal, .clk, .fs, .memc, .mot, .outbox, .nvFaultLog, .nvLogNext] s (tcBadLine l w s) := by
  unfold tcBadLine
  try dsimp -proj only
  repeat' first
    | exact (rfl : _ = true)
    | (with_reducible exact Keeps.refl _ _)
    | assumption
    | (with_reducible exact (Keeps.refl _ _).mono rfl)
    | (with_reducible apply Keeps.via count_keeps)
    | (with_reducible apply Keeps.via raise_keeps)
    | (with_reducible apply Keeps.via eccUe_keeps)
    | (with_reducible apply Keeps.via tcKeep_keeps)
    | (dsimp -proj only [keepsMk]; with_reducible apply KeepsMk.upd_memc)
    | (with_reducible intro)
    | (dsimp -proj only)

theorem tcMiss_keeps {l : Nat} {s : State} :
    Keeps [.regs, .flt, .pcie, .memc, .outbox, .nvFaultLog, .nvLogNext] s (tcMiss l s) := by
  unfold tcMiss
  try dsimp -proj only
  repeat' first
    | exact (rfl : _ = true)
    | (with_reducible exact Keeps.refl _ _)
    | assumption
    | (with_reducible exact (Keeps.refl _ _).mono rfl)
    | (with_reducible apply Keeps.ite <;> intro _)
    | (with_reducible apply Keeps.via count_keeps)
    | (dsimp -proj only [keepsMk]; with_reducible apply KeepsMk.upd_memc)
    | (with_reducible intro)
    | split
    | (dsimp -proj only)

theorem tcRead_keeps {a : Nat} {n : Nat} {s : State} :
    Keeps [.regs, .mem, .bad, .free, .pwr, .bring, .flt, .mbx, .grants, .pins, .pcie, .journal, .clk, .fs, .memc, .mot, .outbox, .nvFaultLog, .nvLogNext] s (tcRead a n s) := by
  unfold tcRead
  try dsimp -proj only
  repeat' first
    | exact (rfl : _ = true)
    | (with_reducible exact Keeps.refl _ _)
    | assumption
    | (with_reducible exact (Keeps.refl _ _).mono rfl)
    | (with_reducible apply Keeps.ite <;> intro _)
    | (with_reducible apply Keeps.via takeFree_keeps)
    | (with_reducible apply Keeps.via freeBytes_keeps)
    | (with_reducible apply Keeps.via count_keeps)
    | (with_reducible apply Keeps.via spaceRead_keeps)
    | (with_reducible apply Keeps.via tcBadLine_keeps)
    | (with_reducible apply Keeps.via tcMiss_keeps)
    | (dsimp -proj only [keepsMk]; with_reducible apply KeepsMk.upd_memc)
    | (with_reducible refine Keeps.of_fst (by assumption) ?_)
    | (with_reducible refine Keeps.of_snd (by assumption) ?_)
    | (with_reducible intro)
    | split
    | (dsimp -proj only)

theorem tcAccess_keeps {s : State} {y0 : TcAccess} :
    Keeps [.regs, .mem, .bad, .free, .pwr, .bring, .flt, .mbx, .grants, .pins, .pcie, .journal, .clk, .fs, .memc, .mot, .outbox, .nvFaultLog, .nvLogNext] s (tcAccess s y0) := by
  unfold tcAccess
  try dsimp -proj only
  repeat' first
    | exact (rfl : _ = true)
    | (with_reducible exact Keeps.refl _ _)
    | assumption
    | (with_reducible exact (Keeps.refl _ _).mono rfl)
    | (with_reducible apply Keeps.ite <;> intro _)
    | (with_reducible apply Keeps.via reqStore_keeps)
    | (with_reducible apply Keeps.via tcRead_keeps)
    | (with_reducible refine Keeps.of_fst (by assumption) ?_)
    | (with_reducible refine Keeps.of_snd (by assumption) ?_)
    | (with_reducible intro)
    | split
    | (dsimp -proj only)

theorem tcStart_keeps {l : Nat} {prefetch : Bool} {badHit : Bool} {s : State} :
    Keeps [.regs, .mem, .bad, .pwr, .bring, .flt, .mbx, .grants, .pins, .pcie, .journal, .clk, .fs, .memc, .mot, .outbox, .nvFaultLog, .nvLogNext] s (tcStart l prefetch badHit s) := by
  unfold tcStart
  try dsimp -proj only
  repeat' first
    | exact (rfl : _ = true)
    | (with_reducible exact Keeps.refl _ _)
    | assumption
    | (with_reducible exact (Keeps.refl _ _).mono rfl)
    | (with_reducible apply Keeps.ite <;> intro _)
    | (with_reducible apply Keeps.via tcBadLine_keeps)
    | (with_reducible apply Keeps.via tcMiss_keeps)
    | (with_reducible refine Keeps.of_fst (by assumption) ?_)
    | (with_reducible refine Keeps.of_snd (by assumption) ?_)
    | (with_reducible intro)
    | split
    | (dsimp -proj only)

theorem tcArrive_keeps {l : Nat} {r : EccRes} {s : State} :
    Keeps [.regs, .mem, .bad, .pwr, .bring, .flt, .mbx, .grants, .pins, .pcie, .journal, .clk, .fs, .memc, .mot, .outbox, .nvFaultLog, .nvLogNext] s (tcArrive l r s) := by
  unfold tcArrive
  try dsimp -proj only
  repeat' first
    | exact (rfl : _ = true)
    | (with_reducible exact Keeps.refl _ _)
    | assumption
    | (with_reducible exact (Keeps.refl _ _).mono rfl)
    | (with_reducible apply Keeps.ite <;> intro _)
    | (with_reducible apply Keeps.via count_keeps)
    | (with_reducible apply Keeps.via raise_keeps)
    | (with_reducible apply Keeps.via eccRead_keeps)
    | (with_reducible apply Keeps.via tcPut_keeps)
    | (dsimp -proj only [keepsMk]; with_reducible apply KeepsMk.upd_memc)
    | (with_reducible refine Keeps.of_fst (by assumption) ?_)
    | (with_reducible refine Keeps.of_snd (by assumption) ?_)
    | (with_reducible intro)
    | split
    | (dsimp -proj only)

theorem dmaHalt_keeps {n : Nat} {st : Nat} {a : Nat} {s : State} :
    Keeps [.regs] s (dmaHalt n st a s) := by
  unfold dmaHalt
  try dsimp -proj only
  repeat' first
    | exact (rfl : _ = true)
    | (with_reducible exact Keeps.refl _ _)
    | assumption
    | (with_reducible exact (Keeps.refl _ _).mono rfl)
    | (with_reducible apply Keeps.via wr_keeps)
    | (with_reducible apply Keeps.via setF_keeps)
    | (with_reducible intro)
    | (dsimp -proj only)

theorem dmaLoad_keeps {n : Nat} {s : State} :
    Keeps [.regs, .memc] s (dmaLoad n s) := by
  unfold dmaLoad
  try dsimp -proj only
  repeat' first
    | exact (rfl : _ = true)
    | (with_reducible exact Keeps.refl _ _)
    | assumption
    | (with_reducible exact (Keeps.refl _ _).mono rfl)
    | (with_reducible apply Keeps.ite <;> intro _)
    | (with_reducible apply Keeps.via wr_keeps)
    | (with_reducible apply Keeps.via setF_keeps)
    | (with_reducible apply Keeps.via logViolation_keeps)
    | (with_reducible apply Keeps.via logDrain_keeps)
    | (with_reducible apply Keeps.via dmaHalt_keeps)
    | (dsimp -proj only [keepsMk]; with_reducible apply KeepsMk.upd_memc)
    | (with_reducible intro)
    | split
    | (dsimp -proj only)

theorem dmaGo_keeps {n : Nat} {s : State} :
    Keeps [.regs, .memc] s (dmaGo n s) := by
  unfold dmaGo
  try dsimp -proj only
  repeat' first
    | exact (rfl : _ = true)
    | (with_reducible exact Keeps.refl _ _)
    | assumption
    | (with_reducible exact (Keeps.refl _ _).mono rfl)
    | (with_reducible apply Keeps.ite <;> intro _)
    | (with_reducible apply Keeps.via wr_keeps)
    | (with_reducible apply Keeps.via dmaLoad_keeps)
    | (dsimp -proj only [keepsMk]; with_reducible apply KeepsMk.upd_memc)
    | (with_reducible intro)
    | split
    | (dsimp -proj only)

theorem dmaStop_keeps {n : Nat} {s : State} :
    Keeps [.regs] s (dmaStop n s) := by
  unfold dmaStop
  try dsimp -proj only
  repeat' first
    | exact (rfl : _ = true)
    | (with_reducible exact Keeps.refl _ _)
    | assumption
    | (with_reducible exact (Keeps.refl _ _).mono rfl)
    | (with_reducible apply Keeps.ite <;> intro _)
    | (with_reducible apply Keeps.via setF_keeps)
    | (with_reducible intro)
    | split
    | (dsimp -proj only)

theorem dmaResume_keeps {n : Nat} {s : State} :
    Keeps [.regs, .memc] s (dmaResume n s) := by
  unfold dmaResume
  try dsimp -proj only
  repeat' first
    | exact (rfl : _ = true)
    | (with_reducible exact Keeps.refl _ _)
    | assumption
    | (with_reducible exact (Keeps.refl _ _).mono rfl)
    | (with_reducible apply Keeps.ite <;> intro _)
    | (with_reducible apply Keeps.via dmaLoad_keeps)
    | (with_reducible intro)
    | split
    | (dsimp -proj only)

theorem dmaDisable_keeps {n : Nat} {s : State} :
    Keeps [.regs, .mem, .bad, .free, .pwr, .bring, .flt, .mbx, .grants, .pins, .pcie, .journal, .clk, .fs, .memc, .mot, .outbox, .nvFaultLog, .nvLogNext] s (dmaDisable n s) := by
  unfold dmaDisable
  try dsimp -proj only
  repeat' first
    | exact (rfl : _ = true)
    | (with_reducible exact Keeps.refl _ _)
    | assumption
    | (with_reducible exact (Keeps.refl _ _).mono rfl)
    | (with_reducible apply Keeps.ite <;> intro _)
    | (with_reducible apply Keeps.via setF_keeps)
    | (with_reducible apply Keeps.via takeFree_keeps)
    | (with_reducible apply Keeps.via freeF_keeps)
    | (with_reducible apply Keeps.via raise_keeps)
    | (with_reducible apply Keeps.via spaceStore_keeps)
    | (with_reducible apply Keeps.via spaceRead_keeps)
    | (dsimp -proj only [keepsMk]; with_reducible apply KeepsMk.upd_memc)
    | (with_reducible refine Keeps.of_fst (by assumption) ?_)
    | (with_reducible refine Keeps.of_snd (by assumption) ?_)
    | (with_reducible intro)
    | split
    | (dsimp -proj only)

theorem dmaEnable_keeps {n : Nat} {s : State} :
    Keeps [.regs] s (dmaEnable n s) := by
  unfold dmaEnable
  try dsimp -proj only
  repeat' first
    | exact (rfl : _ = true)
    | (with_reducible exact Keeps.refl _ _)
    | assumption
    | (with_reducible exact (Keeps.refl _ _).mono rfl)
    | (with_reducible apply Keeps.ite <;> intro _)
    | (with_reducible apply Keeps.via setF_keeps)
    | (with_reducible intro)
    | split
    | (dsimp -proj only)

theorem dmaComplete_keeps {n : Nat} {d : DmaDesc} {s : State} :
    Keeps [.regs, .pcie, .memc, .outbox] s (dmaComplete n d s) := by
  unfold dmaComplete
  try dsimp -proj only
  repeat' first
    | exact (rfl : _ = true)
    | (with_reducible exact Keeps.refl _ _)
    | assumption
    | (with_reducible exact (Keeps.refl _ _).mono rfl)
    | (with_reducible apply Keeps.ite <;> intro _)
    | (with_reducible apply Keeps.via wr_keeps)
    | (with_reducible apply Keeps.via setF_keeps)
    | (with_reducible apply Keeps.via msix_keeps)
    | (with_reducible apply Keeps.via dmaLoad_keeps)
    | (with_reducible intro)
    | split
    | (dsimp -proj only)

end Sys2Proof.Machine
end

