-- ==== Sys2Proof/Laws/KeepDomainOps.lean ====
section
/-! SUPPORT. What each operation of Machine/DomainOps.lean keeps (`Keeps`). -/

set_option Elab.async false

namespace Sys2Proof.Machine

theorem refuseWaiting_keeps {i : Nat} {st : Nat} {s : State} :
    Keeps [.clk, .outbox] s (refuseWaiting i st s) := by
  unfold refuseWaiting
  try dsimp -proj only
  repeat' first
    | (with_reducible apply Keeps.foldl)
    | (with_reducible rfl)
    | exact (rfl : _ = true)
    | (with_reducible exact Keeps.refl _ _)
    | assumption
    | (with_reducible exact (Keeps.refl _ _).mono rfl)
    | (with_reducible apply Keeps.ite <;> intro _)
    | (with_reducible apply Keeps.via busAnswer_keeps)
    | (with_reducible apply Keeps.via readRefused_keeps)
    | (dsimp -proj only [keepsMk]; with_reducible apply KeepsMk.upd_clk)
    | (with_reducible intro)
    | split
    | (simp [modAt_length]; done)
    | (simp [setAt_length]; done)
    | (simp only [List.length_mapIdx, List.length_map]; done)
    | (simp [MotSt.units, modAt_length, setAt_length]; done)
    | (dsimp -proj only)

theorem islandOff_keeps {i : Nat} {s : State} :
    Keeps [.regs, .clk, .outbox] s (islandOff i s) := by
  unfold islandOff
  try dsimp -proj only
  repeat' first
    | (with_reducible rfl)
    | exact (rfl : _ = true)
    | (with_reducible exact Keeps.refl _ _)
    | assumption
    | (with_reducible exact (Keeps.refl _ _).mono rfl)
    | (with_reducible apply Keeps.via setF_keeps)
    | (with_reducible apply Keeps.via refuseWaiting_keeps)
    | (dsimp -proj only [keepsMk]; with_reducible apply KeepsMk.upd_clk)
    | (with_reducible intro)
    | (simp [modAt_length]; done)
    | (simp [setAt_length]; done)
    | (simp only [List.length_mapIdx, List.length_map]; done)
    | (simp [MotSt.units, modAt_length, setAt_length]; done)
    | (dsimp -proj only)

theorem islandOn_keeps {i : Nat} {s : State} :
    Keeps [.regs, .clk] s (islandOn i s) := by
  unfold islandOn
  try dsimp -proj only
  repeat' first
    | (with_reducible rfl)
    | exact (rfl : _ = true)
    | (with_reducible exact Keeps.refl _ _)
    | assumption
    | (with_reducible exact (Keeps.refl _ _).mono rfl)
    | (with_reducible apply Keeps.via setF_keeps)
    | (dsimp -proj only [keepsMk]; with_reducible apply KeepsMk.upd_clk)
    | (with_reducible intro)
    | (simp [modAt_length]; done)
    | (simp [setAt_length]; done)
    | (simp only [List.length_mapIdx, List.length_map]; done)
    | (simp [MotSt.units, modAt_length, setAt_length]; done)
    | (dsimp -proj only)

theorem spaceLost_keeps {k : Nat} {s : State} :
    Keeps [.mem] s (spaceLost k s) := by
  unfold spaceLost
  try dsimp -proj only
  repeat' first
    | exact (rfl : _ = true)
    | (with_reducible exact Keeps.refl _ _)
    | assumption
    | (with_reducible exact (Keeps.refl _ _).mono rfl)
    | (dsimp -proj only [keepsMk]; with_reducible apply KeepsMk.upd_mem)
    | (with_reducible exact mem_keep)
    | (with_reducible intro)
    | (dsimp -proj only)

theorem hcaLost_keeps {a : Nat} {s : State} :
    Keeps [.regs, .mem, .pair, .pins, .clk, .pa, .head, .pool, .fs] s (hcaLost a s) := by
  unfold hcaLost
  try dsimp -proj only
  repeat' first
    | (with_reducible rfl)
    | exact (rfl : _ = true)
    | (with_reducible exact Keeps.refl _ _)
    | assumption
    | (with_reducible exact (Keeps.refl _ _).mono rfl)
    | (with_reducible apply Keeps.ite <;> intro _)
    | (with_reducible apply Keeps.via setF_keeps)
    | (with_reducible apply Keeps.via gatesOffAct_keeps)
    | (with_reducible apply Keeps.via admitSet_keeps)
    | (dsimp -proj only [keepsMk]; with_reducible apply KeepsMk.upd_mem_pair_pa_head_pool_fs)
    | (with_reducible exact mem_keep)
    | (with_reducible intro)
    | split
    | (simp [modAt_length]; done)
    | (simp [setAt_length]; done)
    | (simp only [List.length_mapIdx, List.length_map]; done)
    | (simp [MotSt.units, modAt_length, setAt_length]; done)
    | (dsimp -proj only)

theorem portSessionsEnd_keeps {p : Nat} {s : State} :
    Keeps [.mbx, .grants, .volu, .host, .spdm, .outbox] s (portSessionsEnd p s) := by
  unfold portSessionsEnd
  try dsimp -proj only
  repeat' first
    | (with_reducible apply Keeps.foldl)
    | exact (rfl : _ = true)
    | (with_reducible exact Keeps.refl _ _)
    | assumption
    | (with_reducible exact (Keeps.refl _ _).mono rfl)
    | (with_reducible apply Keeps.via sessEnd_keeps)
    | (with_reducible intro)
    | (dsimp -proj only)

theorem canalsLost_keeps {s : State} :
    Keeps [.mbx, .volu, .host, .spdm, .outbox] s (canalsLost s) := by
  unfold canalsLost
  try dsimp -proj only
  repeat' first
    | (with_reducible apply Keeps.foldl)
    | exact (rfl : _ = true)
    | (with_reducible exact Keeps.refl _ _)
    | assumption
    | (with_reducible exact (Keeps.refl _ _).mono rfl)
    | (with_reducible apply Keeps.via canalLost_keeps)
    | (with_reducible intro)
    | (dsimp -proj only)

theorem engineOff_keeps {d : Nat} {s : State} :
    Keeps [.regs, .mem, .bad, .free, .pwr, .bring, .flt, .mbx, .fences, .grants, .pair, .pins, .pcie, .journal, .clk, .pa, .head, .pool, .fs, .memc, .fl, .tier, .red, .volu, .host, .spdm, .mot, .outbox, .nvFaultLog, .nvLogNext] s (engineOff d s) := by
  unfold engineOff
  try dsimp -proj only
  repeat' first
    | (with_reducible rfl)
    | exact (rfl : _ = true)
    | (with_reducible exact Keeps.refl _ _)
    | assumption
    | (with_reducible exact (Keeps.refl _ _).mono rfl)
    | (with_reducible apply Keeps.ite <;> intro _)
    | (with_reducible apply Keeps.via wr_keeps)
    | (with_reducible apply Keeps.via setF_keeps)
    | (with_reducible apply Keeps.via flashHiZ_keeps)
    | (with_reducible apply Keeps.via clearBadAll_keeps)
    | (with_reducible apply Keeps.via nalDown_keeps)
    | (with_reducible apply Keeps.via pcieReset_keeps)
    | (with_reducible apply Keeps.via pcieDown_keeps)
    | (with_reducible apply Keeps.via spaceLost_keeps)
    | (with_reducible apply Keeps.via hcaLost_keeps)
    | (with_reducible apply Keeps.via portSessionsEnd_keeps)
    | (with_reducible apply Keeps.via canalsLost_keeps)
    | (dsimp -proj only [keepsMk]; first | with_reducible apply KeepsMk.upd_pwr_head_memc | with_reducible apply KeepsMk.upd_pool | with_reducible apply KeepsMk.upd_mot | with_reducible apply KeepsMk.upd_pins | with_reducible apply KeepsMk.upd_fl | with_reducible apply KeepsMk.upd_red | with_reducible apply KeepsMk.upd_fences_memc_host | with_reducible apply KeepsMk.upd_pair_pins | with_reducible apply KeepsMk.upd_memc)
    | (with_reducible exact natq_id)
    | (with_reducible exact natq_mod)
    | (with_reducible exact natq_map)
    | (with_reducible exact natq_reset)
    | (with_reducible exact units_maSwap (setAt_length _ _ _))
    | (with_reducible exact units_maSwap (modAt_length _ _ _))
    | (with_reducible exact units_vcm (modAt_length _ _ _))
    | (with_reducible exact units_fan (modAt_length _ _ _))
    | (with_reducible exact units_rest)
    | (with_reducible exact units_reset)
    | (with_reducible refine Keeps.of_fst (by assumption) ?_)
    | (with_reducible refine Keeps.of_snd (by assumption) ?_)
    | (with_reducible intro)
    | split
    | (simp [modAt_length]; done)
    | (simp [setAt_length]; done)
    | (simp only [List.length_mapIdx, List.length_map]; done)
    | (simp [MotSt.units, modAt_length, setAt_length]; done)
    | (dsimp -proj only)

theorem domainOff1_keeps {d : Nat} {s : State} :
    Keeps [.regs, .mem, .bad, .free, .pwr, .bring, .flt, .mbx, .fences, .grants, .pair, .pins, .pcie, .journal, .clk, .pa, .head, .pool, .fs, .memc, .fl, .tier, .red, .volu, .host, .spdm, .mot, .outbox, .nvFaultLog, .nvLogNext] s (domainOff1 d s) := by
  unfold domainOff1
  try dsimp -proj only
  repeat' first
    | (with_reducible apply Keeps.foldl)
    | exact (rfl : _ = true)
    | (with_reducible exact Keeps.refl _ _)
    | assumption
    | (with_reducible exact (Keeps.refl _ _).mono rfl)
    | (with_reducible apply Keeps.via setF_keeps)
    | (with_reducible apply Keeps.via clearDomain_keeps)
    | (with_reducible apply Keeps.via islandOff_keeps)
    | (with_reducible apply Keeps.via engineOff_keeps)
    | (dsimp -proj only [keepsMk]; with_reducible apply KeepsMk.upd_pwr)
    | (with_reducible intro)
    | (dsimp -proj only)

theorem domainOff_keeps {d : Nat} {s : State} :
    Keeps [.regs, .mem, .bad, .free, .pwr, .bring, .flt, .mbx, .fences, .grants, .pair, .pins, .pcie, .journal, .clk, .pa, .head, .pool, .fs, .memc, .fl, .tier, .red, .volu, .host, .spdm, .mot, .outbox, .nvFaultLog, .nvLogNext] s (domainOff d s) := by
  unfold domainOff
  try dsimp -proj only
  repeat' first
    | exact (rfl : _ = true)
    | (with_reducible exact Keeps.refl _ _)
    | assumption
    | (with_reducible exact (Keeps.refl _ _).mono rfl)
    | (with_reducible apply Keeps.ite <;> intro _)
    | (with_reducible apply Keeps.via setF_keeps)
    | (with_reducible apply Keeps.via domainOff1_keeps)
    | (with_reducible intro)
    | split
    | (dsimp -proj only)

theorem domDown_keeps {d : Nat} {s : State} :
    Keeps [.regs, .mem, .bad, .free, .pwr, .bring, .flt, .mbx, .fences, .grants, .pair, .pins, .pcie, .journal, .clk, .pa, .head, .pool, .fs, .memc, .fl, .tier, .red, .volu, .host, .spdm, .mot, .outbox, .nvFaultLog, .nvLogNext] s (domDown d s) := by
  unfold domDown
  try dsimp -proj only
  repeat' first
    | exact (rfl : _ = true)
    | (with_reducible exact Keeps.refl _ _)
    | assumption
    | (with_reducible exact (Keeps.refl _ _).mono rfl)
    | (with_reducible apply Keeps.ite <;> intro _)
    | (with_reducible apply Keeps.via setF_keeps)
    | (with_reducible apply Keeps.via domainOff_keeps)
    | (with_reducible refine Keeps.of_fst (by assumption) ?_)
    | (with_reducible refine Keeps.of_snd (by assumption) ?_)
    | (with_reducible intro)
    | split
    | (dsimp -proj only)

theorem hcaIdle_keeps {a : Nat} {s : State} :
    Keeps [.regs, .mem, .bad, .free, .pwr, .bring, .flt, .mbx, .fences, .grants, .pair, .pins, .pcie, .journal, .clk, .pa, .head, .pool, .fs, .memc, .fl, .tier, .red, .volu, .host, .spdm, .mot, .outbox, .nvFaultLog, .nvLogNext] s (hcaIdle a s) := by
  unfold hcaIdle
  try dsimp -proj only
  repeat' first
    | exact (rfl : _ = true)
    | (with_reducible exact Keeps.refl _ _)
    | assumption
    | (with_reducible exact (Keeps.refl _ _).mono rfl)
    | (with_reducible apply Keeps.ite <;> intro _)
    | (with_reducible apply Keeps.via domDown_keeps)
    | (with_reducible intro)
    | split
    | (dsimp -proj only)

theorem domReset_keeps {d : Nat} {s : State} :
    Keeps [.regs, .mem, .bad, .free, .pwr, .bring, .flt, .mbx, .fences, .grants, .pair, .pins, .pcie, .journal, .clk, .pa, .head, .pool, .fs, .memc, .fl, .tier, .red, .volu, .host, .spdm, .mot, .outbox, .nvFaultLog, .nvLogNext] s (domReset d s) := by
  unfold domReset
  try dsimp -proj only
  repeat' first
    | exact (rfl : _ = true)
    | (with_reducible exact Keeps.refl _ _)
    | assumption
    | (with_reducible exact (Keeps.refl _ _).mono rfl)
    | (with_reducible apply Keeps.ite <;> intro _)
    | (with_reducible apply Keeps.via setF_keeps)
    | (with_reducible apply Keeps.via domainOff1_keeps)
    | (with_reducible intro)
    | split
    | (dsimp -proj only)

theorem domsReset_keeps {s : State} :
    Keeps [.regs, .mem, .bad, .free, .pwr, .bring, .flt, .mbx, .fences, .grants, .pair, .pins, .pcie, .journal, .clk, .pa, .head, .pool, .fs, .memc, .fl, .tier, .red, .volu, .host, .spdm, .mot, .outbox, .nvFaultLog, .nvLogNext] s (domsReset s) := by
  unfold domsReset
  try dsimp -proj only
  repeat' first
    | (with_reducible apply Keeps.forN)
    | exact (rfl : _ = true)
    | (with_reducible exact Keeps.refl _ _)
    | assumption
    | (with_reducible exact (Keeps.refl _ _).mono rfl)
    | (with_reducible apply Keeps.via domReset_keeps)
    | (with_reducible intro)
    | (dsimp -proj only)

theorem enterDormant_keeps {s : State} :
    Keeps [.regs, .mem, .bad, .free, .pwr, .bring, .flt, .mbx, .fences, .grants, .pair, .pins, .pcie, .journal, .clk, .pa, .head, .pool, .fs, .memc, .fl, .tier, .red, .volu, .host, .spdm, .mot, .outbox, .nvFaultLog, .nvLogNext] s (enterDormant s) := by
  unfold enterDormant
  try dsimp -proj only
  repeat' first
    | exact (rfl : _ = true)
    | (with_reducible exact Keeps.refl _ _)
    | assumption
    | (with_reducible exact (Keeps.refl _ _).mono rfl)
    | (with_reducible apply Keeps.ite <;> intro _)
    | (with_reducible apply Keeps.via setF_keeps)
    | (with_reducible apply Keeps.via finishControl_keeps)
    | (with_reducible apply Keeps.via dropGrants_keeps)
    | (with_reducible apply Keeps.via anaRefresh_keeps)
    | (with_reducible apply Keeps.via domsReset_keeps)
    | (dsimp -proj only [keepsMk]; with_reducible apply KeepsMk.upd_pwr_bring_flt_pair)
    | (with_reducible intro)
    | split
    | (dsimp -proj only)

theorem dormantDown_keeps {s : State} :
    Keeps [.regs, .mem, .bad, .free, .pwr, .bring, .flt, .mbx, .fences, .grants, .pair, .pins, .pcie, .journal, .clk, .pa, .head, .pool, .fs, .memc, .fl, .tier, .red, .volu, .host, .spdm, .mot, .outbox, .nvFaultLog, .nvLogNext] s (dormantDown s) := by
  unfold dormantDown
  try dsimp -proj only
  repeat' first
    | (with_reducible apply Keeps.forN)
    | exact (rfl : _ = true)
    | (with_reducible exact Keeps.refl _ _)
    | assumption
    | (with_reducible exact (Keeps.refl _ _).mono rfl)
    | (with_reducible apply Keeps.ite <;> intro _)
    | (with_reducible apply Keeps.via send_keeps)
    | (with_reducible apply Keeps.via mbxFinish_keeps)
    | (with_reducible apply Keeps.via domDown_keeps)
    | (with_reducible apply Keeps.via enterDormant_keeps)
    | (with_reducible intro)
    | split
    | (dsimp -proj only)

theorem dormantGo_keeps {s : State} :
    Keeps [.regs, .mem, .bad, .free, .pwr, .bring, .flt, .mbx, .fences, .grants, .pair, .pins, .pcie, .journal, .clk, .pa, .head, .pool, .fs, .memc, .fl, .tier, .red, .volu, .host, .spdm, .mot, .outbox, .nvFaultLog, .nvLogNext] s (dormantGo s) := by
  unfold dormantGo
  try dsimp -proj only
  repeat' first
    | exact (rfl : _ = true)
    | (with_reducible exact Keeps.refl _ _)
    | assumption
    | (with_reducible exact (Keeps.refl _ _).mono rfl)
    | (with_reducible apply Keeps.ite <;> intro _)
    | (with_reducible apply Keeps.via spnStop_keeps)
    | (with_reducible apply Keeps.via dormantDown_keeps)
    | (with_reducible intro)
    | split
    | (dsimp -proj only)

theorem dormantStart_keeps {s : State} : Keeps [.regs, .mem, .bad, .free, .pwr, .bring, .flt, .mbx, .fences, .grants, .pair, .pins, .pcie, .journal, .clk, .pa, .head, .pool, .fs, .memc, .fl, .tier, .red, .volu, .host, .spdm, .mot, .outbox, .nvFaultLog, .nvLogNext] s (dormantStart s) := by
  unfold dormantStart dormantStart.updPwrTarget
  refine Keeps.via dormantGo_keeps (Keeps.forN (fun a y => ?_) (Keeps.via setF_keeps (Keeps.upd_pwr (Keeps.refl _ _) rfl) rfl)) rfl
  split
  · exact unloadHeads_keeps.mono rfl
  · exact Keeps.refl _ _


theorem movesReplayed_keeps {s : State} :
    Keeps [.regs, .mem, .bad, .free, .flt, .pair, .pcie, .memc, .fl, .tier, .outbox, .nvFaultLog, .nvLogNext] s (movesReplayed s) := by
  unfold movesReplayed
  try dsimp -proj only
  repeat' first
    | (with_reducible apply Keeps.foldl)
    | exact (rfl : _ = true)
    | (with_reducible exact Keeps.refl _ _)
    | assumption
    | (with_reducible exact (Keeps.refl _ _).mono rfl)
    | (with_reducible apply Keeps.via moveRelease_keeps)
    | (with_reducible intro)
    | (dsimp -proj only)

theorem enterReset_keeps {s : State} : Keeps [.now, .regs, .mem, .bad, .pwr, .bring, .flt, .mbx, .fences, .snaps, .grants, .pair, .pins, .pcie, .desc, .clk, .pa, .head, .pool, .fs, .memc, .fl, .tier, .red, .volu, .host, .spdm, .boot, .mot, .therm] s (enterReset s) := by
  refine ⟨fun c hc => ?_, fun _ => rfl, fun h => by unfold MemWf enterReset; dsimp only; exact mem_keep h, id, fun _ => ?_, Nat.le_refl _, Nat.le_refl _⟩
  · cases c <;> first | rfl | exact absurd hc (by decide)
  · exact ⟨List.length_replicate, List.length_replicate, List.length_replicate, rfl, List.length_replicate, rfl, rfl, rfl, rfl, rfl⟩


theorem updPwr_keeps {f : PwrSt → PwrSt} {s : State} :
    Keeps [.pwr] s (updPwr f s) := by
  unfold updPwr
  try dsimp -proj only
  repeat' first
    | exact (rfl : _ = true)
    | (with_reducible exact Keeps.refl _ _)
    | assumption
    | (with_reducible exact (Keeps.refl _ _).mono rfl)
    | (dsimp -proj only [keepsMk]; with_reducible apply KeepsMk.upd_pwr)
    | (with_reducible intro)
    | (dsimp -proj only)

theorem identityMeas_keeps {s : State} :
    Keeps [.regs] s (identityMeas s) := by
  unfold identityMeas
  try dsimp -proj only
  repeat' first
    | exact (rfl : _ = true)
    | (with_reducible exact Keeps.refl _ _)
    | assumption
    | (with_reducible exact (Keeps.refl _ _).mono rfl)
    | (with_reducible apply Keeps.via measPut_keeps)
    | (with_reducible apply Keeps.via configRefresh_keeps)
    | (with_reducible apply Keeps.via svnRefresh_keeps)
    | (with_reducible intro)
    | (dsimp -proj only)

theorem startBoot_keeps {s : State} :
    Keeps [.now, .regs, .pwr, .clk] s (startBoot s) := by
  unfold startBoot
  try dsimp -proj only
  repeat' first
    | (with_reducible apply Keeps.forN)
    | (with_reducible rfl)
    | exact (rfl : _ = true)
    | (with_reducible exact Keeps.refl _ _)
    | assumption
    | (with_reducible exact (Keeps.refl _ _).mono rfl)
    | (with_reducible apply Keeps.ite <;> intro _)
    | (with_reducible apply Keeps.via setF_keeps)
    | (with_reducible apply Keeps.via setB_keeps)
    | (with_reducible apply Keeps.via listRefresh_keeps)
    | (with_reducible apply Keeps.via updPwr_keeps)
    | (with_reducible apply Keeps.via identityMeas_keeps)
    | (dsimp -proj only [keepsMk]; first | with_reducible apply KeepsMk.upd_now | with_reducible apply KeepsMk.upd_clk)
    | (with_reducible intro)
    | split
    | (simp [modAt_length]; done)
    | (simp [setAt_length]; done)
    | (simp only [List.length_mapIdx, List.length_map]; done)
    | (simp [MotSt.units, modAt_length, setAt_length]; done)
    | (dsimp -proj only)

theorem tryBoot_keeps {s : State} :
    Keeps [.now, .regs, .pwr, .clk] s (tryBoot s) := by
  unfold tryBoot
  try dsimp -proj only
  repeat' first
    | exact (rfl : _ = true)
    | (with_reducible exact Keeps.refl _ _)
    | assumption
    | (with_reducible exact (Keeps.refl _ _).mono rfl)
    | (with_reducible apply Keeps.ite <;> intro _)
    | (with_reducible apply Keeps.via startBoot_keeps)
    | (with_reducible intro)
    | split
    | (dsimp -proj only)

theorem enginePatch_keeps {d : Nat} {b : Nat} {target : Nat} {s : State} :
    Keeps [.regs, .pwr, .bring, .flt, .mbx, .grants, .pins, .pcie, .journal, .clk, .fs, .mot, .outbox, .nvFaultLog, .nvLogNext] s (enginePatch d b target s) := by
  unfold enginePatch
  try dsimp -proj only
  repeat' first
    | exact (rfl : _ = true)
    | (with_reducible exact Keeps.refl _ _)
    | assumption
    | (with_reducible exact (Keeps.refl _ _).mono rfl)
    | (with_reducible apply Keeps.ite <;> intro _)
    | (with_reducible apply Keeps.via setF_keeps)
    | (with_reducible apply Keeps.via raise_keeps)
    | (dsimp -proj only [keepsMk]; with_reducible apply KeepsMk.upd_pwr)
    | (with_reducible refine Keeps.of_fst (by assumption) ?_)
    | (with_reducible refine Keeps.of_snd (by assumption) ?_)
    | (with_reducible intro)
    | split
    | (dsimp -proj only)

theorem catchEnergise_keeps {a : Nat} {s : State} :
    Keeps [.regs, .free, .mot] s (catchEnergise a s) := by
  unfold catchEnergise
  try dsimp -proj only
  repeat' first
    | exact (rfl : _ = true)
    | (with_reducible exact Keeps.refl _ _)
    | assumption
    | (with_reducible exact (Keeps.refl _ _).mono rfl)
    | (with_reducible apply Keeps.via setF_keeps)
    | (with_reducible apply Keeps.via biasTerm_keeps)
    | (with_reducible apply Keeps.via updVcm_keeps)
    | (with_reducible intro)
    | (dsimp -proj only)

theorem loadWaiting_keeps {a : Nat} {s : State} :
    Keeps [.regs, .free, .mot] s (loadWaiting a s) := by
  unfold loadWaiting
  try dsimp -proj only
  repeat' first
    | exact (rfl : _ = true)
    | (with_reducible exact Keeps.refl _ _)
    | assumption
    | (with_reducible exact (Keeps.refl _ _).mono rfl)
    | (with_reducible apply Keeps.ite <;> intro _)
    | (with_reducible apply Keeps.via loadHeads_keeps)
    | (with_reducible apply Keeps.via catchEnergise_keeps)
    | (with_reducible intro)
    | split
    | (dsimp -proj only)

theorem headParams_keeps {a : Nat} {s : State} :
    Keeps [.regs] s (headParams a s) := by
  unfold headParams
  try dsimp -proj only
  repeat' first
    | (with_reducible apply Keeps.foldl)
    | exact (rfl : _ = true)
    | (with_reducible exact Keeps.refl _ _)
    | assumption
    | (with_reducible exact (Keeps.refl _ _).mono rfl)
    | (with_reducible apply Keeps.ite <;> intro _)
    | (with_reducible apply Keeps.via wr_keeps)
    | (with_reducible apply Keeps.via setF_keeps)
    | (with_reducible intro)
    | split
    | (dsimp -proj only)

theorem headClaims_keeps {a : Nat} {force : Bool} {s : State} :
    Keeps [.pa, .outbox] s (headClaims a force s) := by
  unfold headClaims
  try dsimp -proj only
  repeat' first
    | (with_reducible apply Keeps.forN)
    | exact (rfl : _ = true)
    | (with_reducible exact Keeps.refl _ _)
    | assumption
    | (with_reducible exact (Keeps.refl _ _).mono rfl)
    | (with_reducible apply Keeps.ite <;> intro _)
    | (with_reducible apply Keeps.via paClaim_keeps)
    | (with_reducible intro)
    | split
    | (dsimp -proj only)

theorem engineOn_keeps {d : Nat} {offline : BitVec 80} {s : State} :
    Keeps [.regs, .mem, .bad, .free, .pwr, .bring, .flt, .mbx, .grants, .pair, .pins, .pcie, .journal, .clk, .pa, .head, .fs, .memc, .fl, .tier, .host, .mot, .outbox, .nvFaultLog, .nvLogNext] s (engineOn d offline s) := by
  unfold engineOn
  try dsimp -proj only
  repeat' first
    | (with_reducible apply Keeps.foldl)
    | (with_reducible apply Keeps.forN)
    | exact (rfl : _ = true)
    | (with_reducible exact Keeps.refl _ _)
    | assumption
    | (with_reducible exact (Keeps.refl _ _).mono rfl)
    | (with_reducible apply Keeps.ite <;> intro _)
    | (with_reducible apply Keeps.via wr_keeps)
    | (with_reducible apply Keeps.via setF_keeps)
    | (with_reducible apply Keeps.via pllApply_keeps)
    | (with_reducible apply Keeps.via liftEscalation_keeps)
    | (with_reducible apply Keeps.via raise_keeps)
    | (with_reducible apply Keeps.via hcCommit_keeps)
    | (with_reducible apply Keeps.via encShow_keeps)
    | (with_reducible apply Keeps.via fsLoad_keeps)
    | (with_reducible apply Keeps.via enginePatch_keeps)
    | (with_reducible apply Keeps.via loadWaiting_keeps)
    | (with_reducible apply Keeps.via headParams_keeps)
    | (with_reducible apply Keeps.via headClaims_keeps)
    | (dsimp -proj only [keepsMk]; with_reducible apply KeepsMk.upd_pins)
    | (with_reducible refine Keeps.of_fst (by assumption) ?_)
    | (with_reducible refine Keeps.of_snd (by assumption) ?_)
    | (with_reducible intro)
    | split
    | (dsimp -proj only)

theorem domainUp_keeps {d : Nat} {offline : BitVec 80} {s : State} :
    Keeps [.regs, .mem, .bad, .free, .pwr, .bring, .flt, .mbx, .grants, .pair, .pins, .pcie, .journal, .clk, .pa, .head, .fs, .memc, .fl, .tier, .host, .mot, .outbox, .nvFaultLog, .nvLogNext] s (domainUp d offline s) := by
  unfold domainUp
  try dsimp -proj only
  repeat' first
    | (with_reducible apply Keeps.foldl)
    | exact (rfl : _ = true)
    | (with_reducible exact Keeps.refl _ _)
    | assumption
    | (with_reducible exact (Keeps.refl _ _).mono rfl)
    | (with_reducible apply Keeps.ite <;> intro _)
    | (with_reducible apply Keeps.via setF_keeps)
    | (with_reducible apply Keeps.via islandOn_keeps)
    | (with_reducible apply Keeps.via engineOn_keeps)
    | (with_reducible intro)
    | split
    | (dsimp -proj only)

end Sys2Proof.Machine
end

