-- ==== Sys2Proof/Laws/KeepPairOps.lean ====
section
/-! SUPPORT. What each operation of Machine/PairOps.lean keeps (`Keeps`). -/

set_option Elab.async false

namespace Sys2Proof.Machine

theorem fansTo_keeps {s : State} :
    Keeps [.free, .mot] s (fansTo s) := by
  unfold fansTo
  try dsimp -proj only
  repeat' first
    | (with_reducible apply Keeps.forN)
    | exact (rfl : _ = true)
    | (with_reducible exact Keeps.refl _ _)
    | assumption
    | (with_reducible exact (Keeps.refl _ _).mono rfl)
    | (with_reducible apply Keeps.ite <;> intro _)
    | (with_reducible apply Keeps.via takeFree_keeps)
    | (with_reducible apply Keeps.via updFan_keeps)
    | (with_reducible intro)
    | split
    | (dsimp -proj only)

theorem adoptMeta_keeps {m : FlashMeta} {s : State} :
    Keeps [.mem, .tier] s (adoptMeta m s) := by
  unfold adoptMeta
  try dsimp -proj only
  repeat' first
    | (with_reducible apply Keeps.foldl)
    | exact (rfl : _ = true)
    | (with_reducible exact Keeps.refl _ _)
    | assumption
    | (with_reducible exact (Keeps.refl _ _).mono rfl)
    | (with_reducible apply Keeps.ite <;> intro _)
    | (with_reducible apply Keeps.via memWrite_keeps)
    | (dsimp -proj only [keepsMk]; with_reducible apply KeepsMk.upd_tier)
    | (with_reducible intro)
    | split
    | (dsimp -proj only)

theorem adoptNext_keeps {l : List (Nat × Nat × Nat × Nat × Nat × Nat)} {s : State} :
    Keeps [.tier] s (adoptNext l s) := by
  unfold adoptNext
  try dsimp -proj only
  repeat' first
    | (with_reducible apply Keeps.foldl)
    | exact (rfl : _ = true)
    | (with_reducible exact Keeps.refl _ _)
    | assumption
    | (with_reducible exact (Keeps.refl _ _).mono rfl)
    | (dsimp -proj only [keepsMk]; with_reducible apply KeepsMk.upd_tier)
    | (with_reducible intro)
    | (dsimp -proj only)

theorem adoptVols_keeps {m : FlashMeta} {s : State} :
    Keeps [.volu] s (adoptVols m s) := by
  unfold adoptVols
  try dsimp -proj only
  repeat' first
    | exact (rfl : _ = true)
    | (with_reducible exact Keeps.refl _ _)
    | assumption
    | (with_reducible exact (Keeps.refl _ _).mono rfl)
    | (dsimp -proj only [keepsMk]; with_reducible apply KeepsMk.upd_volu)
    | (with_reducible intro)
    | (dsimp -proj only)

theorem mirrorApply_keeps {b : MirrorBody} {s : State} :
    Keeps [.volu] s (mirrorApply b s) := by
  unfold mirrorApply
  try dsimp -proj only
  repeat' first
    | exact (rfl : _ = true)
    | (with_reducible exact Keeps.refl _ _)
    | assumption
    | (with_reducible exact (Keeps.refl _ _).mono rfl)
    | (with_reducible apply Keeps.via updVol_keeps)
    | (dsimp -proj only [keepsMk]; with_reducible apply KeepsMk.upd_volu)
    | (with_reducible refine Keeps.of_fst (by assumption) ?_)
    | (with_reducible refine Keeps.of_snd (by assumption) ?_)
    | (with_reducible intro)
    | split
    | (dsimp -proj only)

theorem adoptPages_keeps {l : List (Nat × BitVec 32 × MirrorBody)} {s : State} :
    Keeps [.journal, .tier, .volu] s (adoptPages l s) := by
  unfold adoptPages
  try dsimp -proj only
  repeat' first
    | (with_reducible apply Keeps.foldl)
    | exact (rfl : _ = true)
    | (with_reducible exact Keeps.refl _ _)
    | assumption
    | (with_reducible exact (Keeps.refl _ _).mono rfl)
    | (with_reducible apply Keeps.ite <;> intro _)
    | (with_reducible apply Keeps.via mirrorApply_keeps)
    | (dsimp -proj only [keepsMk]; with_reducible apply KeepsMk.upd_journal_tier)
    | (with_reducible intro)
    | split
    | (dsimp -proj only)

theorem adopt_keeps {m : FlashMeta} {s : State} :
    Keeps [.mem, .journal, .tier, .volu] s (adopt m s) := by
  unfold adopt
  try dsimp -proj only
  repeat' first
    | exact (rfl : _ = true)
    | (with_reducible exact Keeps.refl _ _)
    | assumption
    | (with_reducible exact (Keeps.refl _ _).mono rfl)
    | (with_reducible apply Keeps.via adoptMeta_keeps)
    | (with_reducible apply Keeps.via adoptNext_keeps)
    | (with_reducible apply Keeps.via adoptVols_keeps)
    | (with_reducible apply Keeps.via adoptPages_keeps)
    | (with_reducible intro)
    | (dsimp -proj only)

theorem discardGroup_keeps {g : Nat} {s : State} :
    Keeps [.journal, .tier, .volu] s (discardGroup g s) := by
  unfold discardGroup
  try dsimp -proj only
  repeat' first
    | exact (rfl : _ = true)
    | (with_reducible exact Keeps.refl _ _)
    | assumption
    | (with_reducible exact (Keeps.refl _ _).mono rfl)
    | (dsimp -proj only [keepsMk]; with_reducible apply KeepsMk.upd_journal_tier_volu)
    | (with_reducible intro)
    | (dsimp -proj only)

theorem discardActuator_keeps {a : Nat} {s : State} :
    Keeps [.tier] s (discardActuator a s) := by
  unfold discardActuator
  try dsimp -proj only
  repeat' first
    | exact (rfl : _ = true)
    | (with_reducible exact Keeps.refl _ _)
    | assumption
    | (with_reducible exact (Keeps.refl _ _).mono rfl)
    | (dsimp -proj only [keepsMk]; with_reducible apply KeepsMk.upd_tier)
    | (with_reducible intro)
    | (dsimp -proj only)

theorem discardChannel_keeps {c : Nat} {s : State} :
    Keeps [.tier] s (discardChannel c s) := by
  unfold discardChannel
  try dsimp -proj only
  repeat' first
    | exact (rfl : _ = true)
    | (with_reducible exact Keeps.refl _ _)
    | assumption
    | (with_reducible exact (Keeps.refl _ _).mono rfl)
    | (dsimp -proj only [keepsMk]; with_reducible apply KeepsMk.upd_tier)
    | (with_reducible intro)
    | (dsimp -proj only)

theorem fpmReady_keeps {g : Nat} {b : Bool} {s : State} :
    Keeps [.regs] s (fpmReady g b s) := by
  unfold fpmReady
  try dsimp -proj only
  repeat' first
    | exact (rfl : _ = true)
    | (with_reducible exact Keeps.refl _ _)
    | assumption
    | (with_reducible exact (Keeps.refl _ _).mono rfl)
    | (with_reducible apply Keeps.via setB_keeps)
    | (with_reducible intro)
    | (dsimp -proj only)

theorem replayGroup_keeps {g : Nat} {s : State} :
    Keeps [.regs, .pwr, .bring, .flt, .mbx, .grants, .pins, .pcie, .journal, .clk, .fs, .tier, .volu, .mot, .outbox, .nvFaultLog, .nvLogNext] s (replayGroup g s) := by
  unfold replayGroup
  try dsimp -proj only
  repeat' first
    | (with_reducible apply Keeps.foldl)
    | exact (rfl : _ = true)
    | (with_reducible exact Keeps.refl _ _)
    | assumption
    | (with_reducible exact (Keeps.refl _ _).mono rfl)
    | (with_reducible apply Keeps.ite <;> intro _)
    | (with_reducible apply Keeps.via updJrn_keeps)
    | (with_reducible apply Keeps.via applyWrite_keeps)
    | (with_reducible intro)
    | split
    | (dsimp -proj only)

theorem filterEmpty_keeps {g : Nat} {s : State} :
    Keeps [.regs, .red] s (filterEmpty g s) := by
  unfold filterEmpty
  try dsimp -proj only
  repeat' first
    | exact (rfl : _ = true)
    | (with_reducible exact Keeps.refl _ _)
    | assumption
    | (with_reducible exact (Keeps.refl _ _).mono rfl)
    | (with_reducible apply Keeps.via setF_keeps)
    | (dsimp -proj only [keepsMk]; with_reducible apply KeepsMk.upd_red)
    | (with_reducible intro)
    | (dsimp -proj only)

theorem gainGroup_keeps {g : Nat} {s : State} :
    Keeps [.regs, .pwr, .bring, .flt, .mbx, .grants, .pair, .pins, .pcie, .journal, .clk, .fs, .tier, .red, .volu, .mot, .outbox, .nvFaultLog, .nvLogNext] s (gainGroup g s) := by
  unfold gainGroup
  try dsimp -proj only
  repeat' first
    | (with_reducible apply Keeps.foldl)
    | exact (rfl : _ = true)
    | (with_reducible exact Keeps.refl _ _)
    | assumption
    | (with_reducible exact (Keeps.refl _ _).mono rfl)
    | (with_reducible apply Keeps.ite <;> intro _)
    | (with_reducible apply Keeps.via jRelease_keeps)
    | (with_reducible apply Keeps.via canalConnect_keeps)
    | (with_reducible apply Keeps.via fpmReady_keeps)
    | (with_reducible apply Keeps.via replayGroup_keeps)
    | (with_reducible apply Keeps.via filterEmpty_keeps)
    | (dsimp -proj only [keepsMk]; with_reducible apply KeepsMk.upd_journal_tier)
    | (with_reducible refine Keeps.of_fst (by assumption) ?_)
    | (with_reducible refine Keeps.of_snd (by assumption) ?_)
    | (with_reducible intro)
    | split
    | (dsimp -proj only)

theorem loseGroup_keeps {g : Nat} {s : State} :
    Keeps [.regs, .journal, .tier, .red, .volu, .spdm, .outbox] s (loseGroup g s) := by
  unfold loseGroup
  try dsimp -proj only
  repeat' first
    | (with_reducible apply Keeps.foldl)
    | exact (rfl : _ = true)
    | (with_reducible exact Keeps.refl _ _)
    | assumption
    | (with_reducible exact (Keeps.refl _ _).mono rfl)
    | (with_reducible apply Keeps.ite <;> intro _)
    | (with_reducible apply Keeps.via canalDrop_keeps)
    | (with_reducible apply Keeps.via fpmReady_keeps)
    | (with_reducible apply Keeps.via filterEmpty_keeps)
    | (dsimp -proj only [keepsMk]; with_reducible apply KeepsMk.upd_journal_tier)
    | (with_reducible intro)
    | split
    | (dsimp -proj only)

theorem gainChannel_keeps {c : Nat} {s : State} :
    Keeps [.regs, .pins] s (gainChannel c s) := by
  unfold gainChannel
  try dsimp -proj only
  repeat' first
    | exact (rfl : _ = true)
    | (with_reducible exact Keeps.refl _ _)
    | assumption
    | (with_reducible exact (Keeps.refl _ _).mono rfl)
    | (with_reducible apply Keeps.via setF_keeps)
    | (dsimp -proj only [keepsMk]; with_reducible apply KeepsMk.upd_pins)
    | (with_reducible intro)
    | (dsimp -proj only)

theorem dropChannel_keeps {c : Nat} {s : State} :
    Keeps [.regs, .pins] s (dropChannel c s) := by
  unfold dropChannel
  try dsimp -proj only
  repeat' first
    | exact (rfl : _ = true)
    | (with_reducible exact Keeps.refl _ _)
    | assumption
    | (with_reducible exact (Keeps.refl _ _).mono rfl)
    | (with_reducible apply Keeps.via setF_keeps)
    | (dsimp -proj only [keepsMk]; with_reducible apply KeepsMk.upd_pins)
    | (with_reducible intro)
    | (dsimp -proj only)

theorem gainSpindle_keeps {s : State} :
    Keeps [.regs, .mot] s (gainSpindle s) := by
  unfold gainSpindle
  try dsimp -proj only
  repeat' first
    | exact (rfl : _ = true)
    | (with_reducible exact Keeps.refl _ _)
    | assumption
    | (with_reducible exact (Keeps.refl _ _).mono rfl)
    | (with_reducible apply Keeps.ite <;> intro _)
    | (with_reducible apply Keeps.via setF_keeps)
    | (with_reducible apply Keeps.via setB_keeps)
    | (with_reducible apply Keeps.via spnBring_keeps)
    | (with_reducible intro)
    | split
    | (dsimp -proj only)

theorem gainActuator_keeps {a : Nat} {force : Bool} {s : State} :
    Keeps [.regs, .pair, .pa, .mot, .outbox] s (gainActuator a force s) := by
  unfold gainActuator
  try dsimp -proj only
  repeat' first
    | exact (rfl : _ = true)
    | (with_reducible exact Keeps.refl _ _)
    | assumption
    | (with_reducible exact (Keeps.refl _ _).mono rfl)
    | (with_reducible apply Keeps.ite <;> intro _)
    | (with_reducible apply Keeps.via setF_keeps)
    | (with_reducible apply Keeps.via updPair_keeps)
    | (with_reducible apply Keeps.via headClaims_keeps)
    | (with_reducible apply Keeps.via gainSpindle_keeps)
    | (with_reducible refine Keeps.of_fst (by assumption) ?_)
    | (with_reducible refine Keeps.of_snd (by assumption) ?_)
    | (with_reducible intro)
    | split
    | (dsimp -proj only)

theorem dropActuator_keeps {a : Nat} {s : State} :
    Keeps [.regs, .pins, .clk, .pa, .outbox] s (dropActuator a s) := by
  unfold dropActuator
  try dsimp -proj only
  repeat' first
    | (with_reducible apply Keeps.forN)
    | exact (rfl : _ = true)
    | (with_reducible exact Keeps.refl _ _)
    | assumption
    | (with_reducible exact (Keeps.refl _ _).mono rfl)
    | (with_reducible apply Keeps.ite <;> intro _)
    | (with_reducible apply Keeps.via setF_keeps)
    | (with_reducible apply Keeps.via paRelease_keeps)
    | (with_reducible intro)
    | split
    | (dsimp -proj only)

theorem gainToken_keeps {t : Nat} {s : State} :
    Keeps [.regs, .pwr, .bring, .flt, .mbx, .grants, .pair, .pins, .pcie, .journal, .clk, .pa, .fs, .tier, .red, .volu, .mot, .outbox, .nvFaultLog, .nvLogNext] s (gainToken t s) := by
  unfold gainToken
  try dsimp -proj only
  repeat' first
    | exact (rfl : _ = true)
    | (with_reducible exact Keeps.refl _ _)
    | assumption
    | (with_reducible exact (Keeps.refl _ _).mono rfl)
    | (with_reducible apply Keeps.ite <;> intro _)
    | (with_reducible apply Keeps.via gainGroup_keeps)
    | (with_reducible apply Keeps.via gainChannel_keeps)
    | (with_reducible apply Keeps.via gainActuator_keeps)
    | (with_reducible intro)
    | split
    | (dsimp -proj only)

theorem dropToken_keeps {t : Nat} {s : State} :
    Keeps [.regs, .pins, .clk, .pa, .outbox] s (dropToken t s) := by
  unfold dropToken
  try dsimp -proj only
  repeat' first
    | exact (rfl : _ = true)
    | (with_reducible exact Keeps.refl _ _)
    | assumption
    | (with_reducible exact (Keeps.refl _ _).mono rfl)
    | (with_reducible apply Keeps.ite <;> intro _)
    | (with_reducible apply Keeps.via dropChannel_keeps)
    | (with_reducible apply Keeps.via dropActuator_keeps)
    | (with_reducible intro)
    | split
    | (dsimp -proj only)

theorem groupHoldSet_keeps {g : Nat} {b : Bool} {s : State} :
    Keeps [.host] s (groupHoldSet g b s) := by
  unfold groupHoldSet
  try dsimp -proj only
  repeat' first
    | (with_reducible rfl)
    | exact (rfl : _ = true)
    | (with_reducible exact Keeps.refl _ _)
    | assumption
    | (with_reducible exact (Keeps.refl _ _).mono rfl)
    | (dsimp -proj only [keepsMk]; with_reducible apply KeepsMk.upd_host)
    | (with_reducible exact natq_id)
    | (with_reducible exact natq_mod)
    | (with_reducible exact natq_map)
    | (with_reducible exact natq_reset)
    | (with_reducible intro)
    | (simp [modAt_length]; done)
    | (simp [setAt_length]; done)
    | (simp only [List.length_mapIdx, List.length_map]; done)
    | (simp [MotSt.units, modAt_length, setAt_length]; done)
    | (dsimp -proj only)

theorem loseToken_keeps {t : Nat} {s : State} :
    Keeps [.regs, .mem, .bad, .free, .pwr, .bring, .flt, .mbx, .fences, .grants, .pair, .pins, .pcie, .journal, .clk, .pa, .head, .pool, .fs, .memc, .fl, .tier, .red, .volu, .host, .spdm, .mot, .outbox, .nvFaultLog, .nvLogNext] s (loseToken t s) := by
  unfold loseToken
  try dsimp -proj only
  repeat' first
    | exact (rfl : _ = true)
    | (with_reducible exact Keeps.refl _ _)
    | assumption
    | (with_reducible exact (Keeps.refl _ _).mono rfl)
    | (with_reducible apply Keeps.ite <;> intro _)
    | (with_reducible apply Keeps.via updPair_keeps)
    | (with_reducible apply Keeps.via abandonMoves_keeps)
    | (with_reducible apply Keeps.via hcaIdle_keeps)
    | (with_reducible apply Keeps.via loseGroup_keeps)
    | (with_reducible apply Keeps.via groupHoldSet_keeps)
    | (with_reducible intro)
    | split
    | (dsimp -proj only)

theorem tokRelease_keeps {t : Nat} {s : State} :
    Keeps [.regs, .mem, .pwr, .bring, .flt, .mbx, .grants, .pair, .pins, .pcie, .journal, .clk, .pa, .fs, .host, .mot, .outbox, .nvTokens, .nvFaultLog, .nvLogNext] s (tokRelease t s) := by
  unfold tokRelease
  try dsimp -proj only
  repeat' first
    | exact (rfl : _ = true)
    | (with_reducible exact Keeps.refl _ _)
    | assumption
    | (with_reducible exact (Keeps.refl _ _).mono rfl)
    | (with_reducible apply Keeps.ite <;> intro _)
    | (with_reducible apply Keeps.via setTok_keeps)
    | (with_reducible apply Keeps.via nalSend_keeps)
    | (with_reducible apply Keeps.via anaRefresh_keeps)
    | (with_reducible apply Keeps.via dropToken_keeps)
    | (with_reducible intro)
    | split
    | (dsimp -proj only)

theorem tieLog_keeps {t : Nat} {tie : Bool} {s : State} :
    Keeps [.regs, .pwr, .bring, .flt, .mbx, .grants, .pins, .pcie, .journal, .clk, .fs, .mot, .outbox, .nvFaultLog, .nvLogNext] s (tieLog t tie s) := by
  unfold tieLog
  try dsimp -proj only
  repeat' first
    | exact (rfl : _ = true)
    | (with_reducible exact Keeps.refl _ _)
    | assumption
    | (with_reducible exact (Keeps.refl _ _).mono rfl)
    | (with_reducible apply Keeps.ite <;> intro _)
    | (with_reducible apply Keeps.via raise_keeps)
    | (with_reducible intro)
    | split
    | (dsimp -proj only)

theorem step6Begin_keeps {s : State} :
    Keeps [.regs, .pins] s (step6Begin s) := by
  unfold step6Begin
  try dsimp -proj only
  repeat' first
    | (with_reducible apply Keeps.foldl)
    | exact (rfl : _ = true)
    | (with_reducible exact Keeps.refl _ _)
    | assumption
    | (with_reducible exact (Keeps.refl _ _).mono rfl)
    | (with_reducible apply Keeps.ite <;> intro _)
    | (with_reducible apply Keeps.via gainChannel_keeps)
    | (with_reducible intro)
    | split
    | (dsimp -proj only)

theorem bringSpin_keeps {s : State} :
    Keeps [.regs, .bring, .mot] s (bringSpin s) := by
  unfold bringSpin
  try dsimp -proj only
  repeat' first
    | exact (rfl : _ = true)
    | (with_reducible exact Keeps.refl _ _)
    | assumption
    | (with_reducible exact (Keeps.refl _ _).mono rfl)
    | (with_reducible apply Keeps.ite <;> intro _)
    | (with_reducible apply Keeps.via updBring_keeps)
    | (with_reducible apply Keeps.via spnBring_keeps)
    | (with_reducible intro)
    | split
    | (dsimp -proj only)

theorem mirrorRise_keeps {s : State} :
    Keeps [.regs, .pair, .outbox] s (mirrorRise s) := by
  unfold mirrorRise
  try dsimp -proj only
  repeat' first
    | (with_reducible apply Keeps.foldl)
    | exact (rfl : _ = true)
    | (with_reducible exact Keeps.refl _ _)
    | assumption
    | (with_reducible exact (Keeps.refl _ _).mono rfl)
    | (with_reducible apply Keeps.ite <;> intro _)
    | (with_reducible apply Keeps.via setF_keeps)
    | (with_reducible apply Keeps.via nalSend_keeps)
    | (with_reducible intro)
    | split
    | (dsimp -proj only)

theorem step5End_keeps {s : State} :
    Keeps [.regs, .pair, .pins, .outbox] s (step5End s) := by
  unfold step5End
  try dsimp -proj only
  repeat' first
    | exact (rfl : _ = true)
    | (with_reducible exact Keeps.refl _ _)
    | assumption
    | (with_reducible exact (Keeps.refl _ _).mono rfl)
    | (with_reducible apply Keeps.ite <;> intro _)
    | (with_reducible apply Keeps.via tellStep_keeps)
    | (with_reducible apply Keeps.via step6Begin_keeps)
    | (with_reducible apply Keeps.via mirrorRise_keeps)
    | (with_reducible intro)
    | split
    | (dsimp -proj only)

theorem attested_keeps {s : State} :
    Keeps [.regs, .pair, .pins, .outbox] s (attested s) := by
  unfold attested
  try dsimp -proj only
  repeat' first
    | exact (rfl : _ = true)
    | (with_reducible exact Keeps.refl _ _)
    | assumption
    | (with_reducible exact (Keeps.refl _ _).mono rfl)
    | (with_reducible apply Keeps.ite <;> intro _)
    | (with_reducible apply Keeps.via updPair_keeps)
    | (with_reducible apply Keeps.via returnStart_keeps)
    | (with_reducible apply Keeps.via step5End_keeps)
    | (with_reducible intro)
    | split
    | (dsimp -proj only)

theorem pulseStart_keeps {s : State} :
    Keeps [.pair] s (pulseStart s) := by
  unfold pulseStart
  try dsimp -proj only
  repeat' first
    | exact (rfl : _ = true)
    | (with_reducible exact Keeps.refl _ _)
    | assumption
    | (with_reducible exact (Keeps.refl _ _).mono rfl)
    | (with_reducible apply Keeps.via updPair_keeps)
    | (with_reducible intro)
    | (dsimp -proj only)

theorem testConclude_keeps {s : State} :
    Keeps [.regs, .pwr, .bring, .flt, .mbx, .grants, .pair, .pins, .pcie, .journal, .clk, .fs, .mot, .outbox, .nvFaultLog, .nvLogNext] s (testConclude s) := by
  unfold testConclude
  try dsimp -proj only
  repeat' first
    | exact (rfl : _ = true)
    | (with_reducible exact Keeps.refl _ _)
    | assumption
    | (with_reducible exact (Keeps.refl _ _).mono rfl)
    | (with_reducible apply Keeps.ite <;> intro _)
    | (with_reducible apply Keeps.via setF_keeps)
    | (with_reducible apply Keeps.via raise_keeps)
    | (with_reducible apply Keeps.via updPair_keeps)
    | (with_reducible apply Keeps.via updBring_keeps)
    | (with_reducible apply Keeps.via fenceReaction_keeps)
    | (with_reducible apply Keeps.via step5End_keeps)
    | (with_reducible refine Keeps.of_fst (by assumption) ?_)
    | (with_reducible refine Keeps.of_snd (by assumption) ?_)
    | (with_reducible intro)
    | split
    | (dsimp -proj only)

theorem checkCompare_keeps {s : State} :
    Keeps [.regs, .pwr, .bring, .flt, .mbx, .grants, .pair, .pins, .pcie, .journal, .clk, .fs, .mot, .outbox, .nvFaultLog, .nvLogNext] s (checkCompare s) := by
  unfold checkCompare
  try dsimp -proj only
  repeat' first
    | exact (rfl : _ = true)
    | (with_reducible exact Keeps.refl _ _)
    | assumption
    | (with_reducible exact (Keeps.refl _ _).mono rfl)
    | (with_reducible apply Keeps.ite <;> intro _)
    | (with_reducible apply Keeps.via raise_keeps)
    | (with_reducible apply Keeps.via updBring_keeps)
    | (with_reducible apply Keeps.via step5End_keeps)
    | (with_reducible refine Keeps.of_fst (by assumption) ?_)
    | (with_reducible refine Keeps.of_snd (by assumption) ?_)
    | (with_reducible intro)
    | split
    | (dsimp -proj only)

theorem step5Start_keeps {s : State} :
    Keeps [.regs, .pwr, .bring, .flt, .mbx, .grants, .pair, .pins, .pcie, .journal, .clk, .fs, .spdm, .mot, .outbox, .nvFaultLog, .nvLogNext] s (step5Start s) := by
  unfold step5Start
  try dsimp -proj only
  repeat' first
    | exact (rfl : _ = true)
    | (with_reducible exact Keeps.refl _ _)
    | assumption
    | (with_reducible exact (Keeps.refl _ _).mono rfl)
    | (with_reducible apply Keeps.ite <;> intro _)
    | (with_reducible apply Keeps.via nalSend_keeps)
    | (with_reducible apply Keeps.via updPair_keeps)
    | (with_reducible apply Keeps.via startAttest_keeps)
    | (with_reducible apply Keeps.via fenceReaction_keeps)
    | (with_reducible apply Keeps.via pulseStart_keeps)
    | (with_reducible intro)
    | split
    | (dsimp -proj only)

theorem holdGroups_keeps {b : Bool} {s : State} :
    Keeps [.host] s (holdGroups b s) := by
  unfold holdGroups
  try dsimp -proj only
  repeat' first
    | (with_reducible rfl)
    | exact (rfl : _ = true)
    | (with_reducible exact Keeps.refl _ _)
    | assumption
    | (with_reducible exact (Keeps.refl _ _).mono rfl)
    | (dsimp -proj only [keepsMk]; with_reducible apply KeepsMk.upd_host)
    | (with_reducible exact natq_id)
    | (with_reducible exact natq_mod)
    | (with_reducible exact natq_map)
    | (with_reducible exact natq_reset)
    | (with_reducible intro)
    | (simp [modAt_length]; done)
    | (simp [setAt_length]; done)
    | (simp only [List.length_mapIdx, List.length_map]; done)
    | (simp [MotSt.units, modAt_length, setAt_length]; done)
    | (dsimp -proj only)

theorem pairFresh_keeps {s : State} :
    Keeps [.bring] s (pairFresh s) := by
  unfold pairFresh
  try dsimp -proj only
  repeat' first
    | exact (rfl : _ = true)
    | (with_reducible exact Keeps.refl _ _)
    | assumption
    | (with_reducible exact (Keeps.refl _ _).mono rfl)
    | (with_reducible apply Keeps.via updBring_keeps)
    | (with_reducible intro)
    | (dsimp -proj only)

theorem recordBoot_keeps {s : State} :
    Keeps [.boot, .nvLastGood] s (recordBoot s) := by
  unfold recordBoot
  try dsimp -proj only
  repeat' first
    | exact (rfl : _ = true)
    | (with_reducible exact Keeps.refl _ _)
    | assumption
    | (with_reducible exact (Keeps.refl _ _).mono rfl)
    | (dsimp -proj only [keepsMk]; first | with_reducible apply KeepsMk.upd_nvLastGood | with_reducible apply KeepsMk.upd_boot)
    | (with_reducible intro)
    | (dsimp -proj only)

theorem enterSolo_keeps {s : State} :
    Keeps [.regs, .mem, .free, .pwr, .bring, .flt, .mbx, .grants, .pair, .pins, .pcie, .journal, .clk, .fs, .host, .boot, .mot, .outbox, .nvFaultLog, .nvLogNext, .nvLastGood] s (enterSolo s) := by
  unfold enterSolo
  try dsimp -proj only
  repeat' first
    | exact (rfl : _ = true)
    | (with_reducible exact Keeps.refl _ _)
    | assumption
    | (with_reducible exact (Keeps.refl _ _).mono rfl)
    | (with_reducible apply Keeps.via setF_keeps)
    | (with_reducible apply Keeps.via updPair_keeps)
    | (with_reducible apply Keeps.via tellStep_keeps)
    | (with_reducible apply Keeps.via anaRefresh_keeps)
    | (with_reducible apply Keeps.via fansTo_keeps)
    | (with_reducible apply Keeps.via holdGroups_keeps)
    | (with_reducible apply Keeps.via pairFresh_keeps)
    | (with_reducible apply Keeps.via recordBoot_keeps)
    | (with_reducible intro)
    | (dsimp -proj only)

theorem enterFull_keeps {s : State} :
    Keeps [.regs, .mem, .pwr, .bring, .flt, .mbx, .grants, .pair, .pins, .pcie, .journal, .clk, .fs, .host, .boot, .mot, .outbox, .nvFaultLog, .nvLogNext, .nvLastGood] s (enterFull s) := by
  unfold enterFull
  try dsimp -proj only
  repeat' first
    | exact (rfl : _ = true)
    | (with_reducible exact Keeps.refl _ _)
    | assumption
    | (with_reducible exact (Keeps.refl _ _).mono rfl)
    | (with_reducible apply Keeps.via setF_keeps)
    | (with_reducible apply Keeps.via tellStep_keeps)
    | (with_reducible apply Keeps.via anaRefresh_keeps)
    | (with_reducible apply Keeps.via recordBoot_keeps)
    | (with_reducible intro)
    | (dsimp -proj only)

theorem takeActuator_keeps {a : Nat} {s : State} :
    Keeps [.regs, .free, .pair, .pa, .mot, .outbox] s (takeActuator a s) := by
  unfold takeActuator
  try dsimp -proj only
  repeat' first
    | exact (rfl : _ = true)
    | (with_reducible exact Keeps.refl _ _)
    | assumption
    | (with_reducible exact (Keeps.refl _ _).mono rfl)
    | (with_reducible apply Keeps.ite <;> intro _)
    | (with_reducible apply Keeps.via setF_keeps)
    | (with_reducible apply Keeps.via retract_keeps)
    | (with_reducible apply Keeps.via updPair_keeps)
    | (with_reducible apply Keeps.via domUp_keeps)
    | (with_reducible apply Keeps.via catchEnergise_keeps)
    | (with_reducible apply Keeps.via headClaims_keeps)
    | (with_reducible apply Keeps.via gainSpindle_keeps)
    | (with_reducible apply Keeps.via gainActuator_keeps)
    | (with_reducible intro)
    | split
    | (dsimp -proj only)

theorem takeCommit_keeps {s : State} :
    Keeps [.regs, .free, .pair, .pins, .pa, .mot, .outbox, .nvTokens] s (takeCommit s) := by
  unfold takeCommit
  try dsimp -proj only
  repeat' first
    | (with_reducible apply Keeps.foldl)
    | exact (rfl : _ = true)
    | (with_reducible exact Keeps.refl _ _)
    | assumption
    | (with_reducible exact (Keeps.refl _ _).mono rfl)
    | (with_reducible apply Keeps.ite <;> intro _)
    | (with_reducible apply Keeps.via setTok_keeps)
    | (with_reducible apply Keeps.via updPair_keeps)
    | (with_reducible apply Keeps.via gainChannel_keeps)
    | (with_reducible apply Keeps.via takeActuator_keeps)
    | (with_reducible intro)
    | split
    | (dsimp -proj only)

theorem noDiskUnload_keeps {s : State} :
    Keeps [.regs, .mem, .bad, .free, .pwr, .bring, .flt, .mbx, .grants, .pair, .pins, .pcie, .journal, .clk, .fs, .memc, .fl, .tier, .host, .mot, .outbox, .nvFaultLog, .nvLogNext] s (noDiskUnload s) := by
  unfold noDiskUnload
  try dsimp -proj only
  repeat' first
    | (with_reducible apply Keeps.forN)
    | exact (rfl : _ = true)
    | (with_reducible exact Keeps.refl _ _)
    | assumption
    | (with_reducible exact (Keeps.refl _ _).mono rfl)
    | (with_reducible apply Keeps.ite <;> intro _)
    | (with_reducible apply Keeps.via unloadHeads_keeps)
    | (with_reducible apply Keeps.via diskFail_keeps)
    | (with_reducible intro)
    | split
    | (dsimp -proj only)

theorem wonInBringup_keeps {s : State} :
    Keeps [.regs, .mem, .free, .pwr, .bring, .flt, .mbx, .grants, .pair, .pins, .pcie, .journal, .clk, .fs, .host, .boot, .mot, .outbox, .nvFaultLog, .nvLogNext, .nvLastGood] s (wonInBringup s) := by
  unfold wonInBringup
  try dsimp -proj only
  repeat' first
    | exact (rfl : _ = true)
    | (with_reducible exact Keeps.refl _ _)
    | assumption
    | (with_reducible exact (Keeps.refl _ _).mono rfl)
    | (with_reducible apply Keeps.ite <;> intro _)
    | (with_reducible apply Keeps.via mbxFinish_keeps)
    | (with_reducible apply Keeps.via updBring_keeps)
    | (with_reducible apply Keeps.via fansTo_keeps)
    | (with_reducible apply Keeps.via enterSolo_keeps)
    | (with_reducible intro)
    | split
    | (dsimp -proj only)

theorem takeoverWon_keeps {s : State} :
    Keeps [.regs, .mem, .bad, .free, .pwr, .bring, .flt, .mbx, .grants, .pair, .pins, .pcie, .journal, .clk, .pa, .fs, .memc, .fl, .tier, .host, .boot, .mot, .outbox, .nvTokens, .nvFaultLog, .nvLogNext, .nvLastGood] s (takeoverWon s) := by
  unfold takeoverWon
  try dsimp -proj only
  repeat' first
    | exact (rfl : _ = true)
    | (with_reducible exact Keeps.refl _ _)
    | assumption
    | (with_reducible exact (Keeps.refl _ _).mono rfl)
    | (with_reducible apply Keeps.ite <;> intro _)
    | (with_reducible apply Keeps.via setF_keeps)
    | (with_reducible apply Keeps.via mbxFinish_keeps)
    | (with_reducible apply Keeps.via updPair_keeps)
    | (with_reducible apply Keeps.via spnBring_keeps)
    | (with_reducible apply Keeps.via loadAll_keeps)
    | (with_reducible apply Keeps.via wakeGo_keeps)
    | (with_reducible apply Keeps.via anaRefresh_keeps)
    | (with_reducible apply Keeps.via updPwr_keeps)
    | (with_reducible apply Keeps.via fansTo_keeps)
    | (with_reducible apply Keeps.via step6Begin_keeps)
    | (with_reducible apply Keeps.via holdGroups_keeps)
    | (with_reducible apply Keeps.via pairFresh_keeps)
    | (with_reducible apply Keeps.via enterSolo_keeps)
    | (with_reducible apply Keeps.via takeCommit_keeps)
    | (with_reducible apply Keeps.via noDiskUnload_keeps)
    | (with_reducible apply Keeps.via wonInBringup_keeps)
    | (with_reducible refine Keeps.of_fst (by assumption) ?_)
    | (with_reducible refine Keeps.of_snd (by assumption) ?_)
    | (with_reducible intro)
    | split
    | (dsimp -proj only)

theorem hbLoss_keeps {s : State} :
    Keeps [.regs, .pwr, .bring, .flt, .mbx, .grants, .pair, .pins, .pcie, .journal, .clk, .fs, .tier, .mot, .outbox, .nvFaultLog, .nvLogNext] s (hbLoss s) := by
  unfold hbLoss
  try dsimp -proj only
  repeat' first
    | exact (rfl : _ = true)
    | (with_reducible exact Keeps.refl _ _)
    | assumption
    | (with_reducible exact (Keeps.refl _ _).mono rfl)
    | (with_reducible apply Keeps.ite <;> intro _)
    | (with_reducible apply Keeps.via setF_keeps)
    | (with_reducible apply Keeps.via updPair_keeps)
    | (with_reducible apply Keeps.via takeoverStart_keeps)
    | (with_reducible apply Keeps.via step6Begin_keeps)
    | (with_reducible apply Keeps.via pairFresh_keeps)
    | (with_reducible intro)
    | split
    | (dsimp -proj only)

theorem hbTake_keeps {w : BitVec 16} {s : State} :
    Keeps [.regs, .mem, .pwr, .bring, .flt, .mbx, .grants, .pair, .pins, .pcie, .journal, .clk, .fs, .tier, .host, .mot, .outbox, .nvFaultLog, .nvLogNext] s (hbTake w s) := by
  unfold hbTake
  try dsimp -proj only
  repeat' first
    | exact (rfl : _ = true)
    | (with_reducible exact Keeps.refl _ _)
    | assumption
    | (with_reducible exact (Keeps.refl _ _).mono rfl)
    | (with_reducible apply Keeps.ite <;> intro _)
    | (with_reducible apply Keeps.via setF_keeps)
    | (with_reducible apply Keeps.via updPair_keeps)
    | (with_reducible apply Keeps.via anaRefresh_keeps)
    | (with_reducible apply Keeps.via hbLoss_keeps)
    | (with_reducible intro)
    | split
    | (dsimp -proj only)

theorem hbFault_keeps {s : State} :
    Keeps [.regs, .free, .pwr, .bring, .flt, .mbx, .grants, .pins, .pcie, .journal, .clk, .fs, .mot, .outbox, .nvFaultLog, .nvLogNext] s (hbFault s) := by
  unfold hbFault
  try dsimp -proj only
  repeat' first
    | exact (rfl : _ = true)
    | (with_reducible exact Keeps.refl _ _)
    | assumption
    | (with_reducible exact (Keeps.refl _ _).mono rfl)
    | (with_reducible apply Keeps.via takeFree_keeps)
    | (with_reducible apply Keeps.via raise_keeps)
    | (with_reducible intro)
    | (dsimp -proj only)

end Sys2Proof.Machine
end

