-- ==== Sys2Proof/Laws/KeepBringup.lean ====
section
/-! SUPPORT. What each operation of Machine/Bringup.lean keeps (`Keeps`). -/

set_option Elab.async false

namespace Sys2Proof.Machine

theorem recCompare_keeps {recs : List (Nat × Bool × BitVec 16)} {s : State} :
    Keeps [.regs, .pwr, .bring, .flt, .mbx, .grants, .pins, .pcie, .journal, .clk, .fs, .tier, .volu, .mot, .outbox, .nvTokens, .nvFaultLog, .nvLogNext] s (recCompare recs s) := by
  unfold recCompare
  try dsimp -proj only
  repeat' first
    | (with_reducible apply Keeps.foldl)
    | exact (rfl : _ = true)
    | (with_reducible exact Keeps.refl _ _)
    | assumption
    | (with_reducible exact (Keeps.refl _ _).mono rfl)
    | (with_reducible apply Keeps.ite <;> intro _)
    | (with_reducible apply Keeps.via setTok_keeps)
    | (with_reducible apply Keeps.via discardGroup_keeps)
    | (with_reducible apply Keeps.via discardActuator_keeps)
    | (with_reducible apply Keeps.via discardChannel_keeps)
    | (with_reducible apply Keeps.via dropChannel_keeps)
    | (with_reducible apply Keeps.via tieLog_keeps)
    | (with_reducible intro)
    | split
    | (dsimp -proj only)

theorem queryAll_keeps {s : State} :
    Keeps [.pair, .outbox] s (queryAll s) := by
  unfold queryAll
  try dsimp -proj only
  repeat' first
    | (with_reducible apply Keeps.foldl)
    | exact (rfl : _ = true)
    | (with_reducible exact Keeps.refl _ _)
    | assumption
    | (with_reducible exact (Keeps.refl _ _).mono rfl)
    | (with_reducible apply Keeps.ite <;> intro _)
    | (with_reducible apply Keeps.via nalSend_keeps)
    | (with_reducible intro)
    | split
    | (dsimp -proj only)

theorem brickCompare_keeps {b : BitVec 17} {s : State} :
    Keeps [.regs, .pwr, .bring, .flt, .mbx, .grants, .pins, .pcie, .journal, .clk, .fs, .volu, .mot, .outbox, .nvFaultLog, .nvLogNext] s (brickCompare b s) := by
  unfold brickCompare
  try dsimp -proj only
  repeat' first
    | exact (rfl : _ = true)
    | (with_reducible exact Keeps.refl _ _)
    | assumption
    | (with_reducible exact (Keeps.refl _ _).mono rfl)
    | (with_reducible apply Keeps.ite <;> intro _)
    | (with_reducible apply Keeps.via raise_keeps)
    | (dsimp -proj only [keepsMk]; with_reducible apply KeepsMk.upd_volu)
    | (with_reducible intro)
    | split
    | (dsimp -proj only)

theorem nalTrained_keeps {w : Nat} {brick : BitVec 17} {recs : List (Nat × Bool × BitVec 16)} {s : State} :
    Keeps [.regs, .mem, .pwr, .bring, .flt, .mbx, .grants, .pair, .pins, .pcie, .journal, .clk, .fs, .tier, .volu, .host, .spdm, .mot, .outbox, .nvTokens, .nvFaultLog, .nvLogNext] s (nalTrained w brick recs s) := by
  unfold nalTrained
  try dsimp -proj only
  repeat' first
    | exact (rfl : _ = true)
    | (with_reducible exact Keeps.refl _ _)
    | assumption
    | (with_reducible exact (Keeps.refl _ _).mono rfl)
    | (with_reducible apply Keeps.ite <;> intro _)
    | (with_reducible apply Keeps.via setF_keeps)
    | (with_reducible apply Keeps.via nalSend_keeps)
    | (with_reducible apply Keeps.via updPair_keeps)
    | (with_reducible apply Keeps.via updBring_keeps)
    | (with_reducible apply Keeps.via tellStep_keeps)
    | (with_reducible apply Keeps.via anaRefresh_keeps)
    | (with_reducible apply Keeps.via takeoverStart_keeps)
    | (with_reducible apply Keeps.via mirrorRise_keeps)
    | (with_reducible apply Keeps.via step5Start_keeps)
    | (with_reducible apply Keeps.via recCompare_keeps)
    | (with_reducible apply Keeps.via queryAll_keeps)
    | (with_reducible apply Keeps.via brickCompare_keeps)
    | (with_reducible intro)
    | split
    | (dsimp -proj only)

theorem testLost_keeps {s : State} :
    Keeps [.regs, .pwr, .bring, .flt, .mbx, .grants, .pair, .pins, .pcie, .journal, .clk, .fs, .mot, .outbox, .nvFaultLog, .nvLogNext] s (testLost s) := by
  unfold testLost
  try dsimp -proj only
  repeat' first
    | exact (rfl : _ = true)
    | (with_reducible exact Keeps.refl _ _)
    | assumption
    | (with_reducible exact (Keeps.refl _ _).mono rfl)
    | (with_reducible apply Keeps.ite <;> intro _)
    | (with_reducible apply Keeps.via setF_keeps)
    | (with_reducible apply Keeps.via raise_keeps)
    | (with_reducible apply Keeps.via updPair_keeps)
    | (with_reducible apply Keeps.via updBring_keeps)
    | (with_reducible apply Keeps.via tellStep_keeps)
    | (with_reducible apply Keeps.via testConclude_keeps)
    | (with_reducible intro)
    | split
    | (dsimp -proj only)

theorem journalReplay_keeps {s : State} :
    Keeps [.regs, .pwr, .bring, .flt, .mbx, .grants, .pair, .pins, .pcie, .journal, .clk, .fs, .tier, .volu, .mot, .outbox, .nvFaultLog, .nvLogNext] s (journalReplay s) := by
  unfold journalReplay
  try dsimp -proj only
  repeat' first
    | exact (rfl : _ = true)
    | (with_reducible exact Keeps.refl _ _)
    | assumption
    | (with_reducible exact (Keeps.refl _ _).mono rfl)
    | (with_reducible apply Keeps.ite <;> intro _)
    | (with_reducible apply Keeps.via satF_keeps)
    | (with_reducible apply Keeps.via jRelease_keeps)
    | (with_reducible apply Keeps.via jAckFree_keeps)
    | (with_reducible apply Keeps.via replayGroup_keeps)
    | (dsimp -proj only [keepsMk]; with_reducible apply KeepsMk.upd_journal)
    | (with_reducible intro)
    | split
    | (dsimp -proj only)

theorem canalsConnect_keeps {s : State} :
    Keeps [.volu, .outbox] s (canalsConnect s) := by
  unfold canalsConnect
  try dsimp -proj only
  repeat' first
    | (with_reducible apply Keeps.foldl)
    | exact (rfl : _ = true)
    | (with_reducible exact Keeps.refl _ _)
    | assumption
    | (with_reducible exact (Keeps.refl _ _).mono rfl)
    | (with_reducible apply Keeps.via canalConnect_keeps)
    | (with_reducible intro)
    | (dsimp -proj only)

theorem fastReduction_keeps {on : Bool} {s : State} :
    Keeps [.regs] s (fastReduction on s) := by
  unfold fastReduction
  try dsimp -proj only
  repeat' first
    | exact (rfl : _ = true)
    | (with_reducible exact Keeps.refl _ _)
    | assumption
    | (with_reducible exact (Keeps.refl _ _).mono rfl)
    | (with_reducible apply Keeps.via setB_keeps)
    | (with_reducible intro)
    | (dsimp -proj only)

theorem roAgain_keeps {s : State} :
    Keeps [.regs, .pwr, .bring, .flt, .mbx, .grants, .pins, .pcie, .journal, .clk, .fs, .tier, .mot, .outbox, .nvFaultLog, .nvLogNext] s (roAgain s) := by
  unfold roAgain
  try dsimp -proj only
  repeat' first
    | exact (rfl : _ = true)
    | (with_reducible exact Keeps.refl _ _)
    | assumption
    | (with_reducible exact (Keeps.refl _ _).mono rfl)
    | (with_reducible apply Keeps.ite <;> intro _)
    | (with_reducible apply Keeps.via roEnter_keeps)
    | (dsimp -proj only [keepsMk]; with_reducible apply KeepsMk.upd_tier)
    | (with_reducible intro)
    | split
    | (dsimp -proj only)

theorem mapStore_keeps {g : Nat} {base : BitVec 64} {s : State} :
    Keeps [.regs, .mem, .bad, .free, .flt, .pcie, .memc, .outbox, .nvFaultLog, .nvLogNext] s (mapStore g base s) := by
  unfold mapStore
  try dsimp -proj only
  repeat' first
    | (with_reducible apply Keeps.foldl)
    | exact (rfl : _ = true)
    | (with_reducible exact Keeps.refl _ _)
    | assumption
    | (with_reducible exact (Keeps.refl _ _).mono rfl)
    | (with_reducible apply Keeps.via wr_keeps)
    | (with_reducible apply Keeps.via reqStore_keeps)
    | (with_reducible apply Keeps.via fpmReady_keeps)
    | (with_reducible intro)
    | (dsimp -proj only)

theorem calBands_keeps {s : State} :
    Keeps [.tier] s (calBands s) := by
  unfold calBands
  try dsimp -proj only
  repeat' first
    | (with_reducible apply Keeps.forN)
    | exact (rfl : _ = true)
    | (with_reducible exact Keeps.refl _ _)
    | assumption
    | (with_reducible exact (Keeps.refl _ _).mono rfl)
    | (with_reducible apply Keeps.ite <;> intro _)
    | (with_reducible apply Keeps.via bandsUsable_keeps)
    | (with_reducible intro)
    | split
    | (dsimp -proj only)

theorem drainTogether_keeps {pmode : Nat} {s : State} :
    Keeps [.regs, .pwr, .mbx] s (drainTogether pmode s) := by
  unfold drainTogether
  try dsimp -proj only
  repeat' first
    | exact (rfl : _ = true)
    | (with_reducible exact Keeps.refl _ _)
    | assumption
    | (with_reducible exact (Keeps.refl _ _).mono rfl)
    | (with_reducible apply Keeps.ite <;> intro _)
    | (with_reducible apply Keeps.via setF_keeps)
    | (with_reducible apply Keeps.via mbxFinish_keeps)
    | (with_reducible apply Keeps.via updPwr_keeps)
    | (with_reducible intro)
    | split
    | (dsimp -proj only)

theorem retractLoad_keeps {a : Nat} {s : State} :
    Keeps [.regs] s (retractLoad a s) := by
  unfold retractLoad
  try dsimp -proj only
  repeat' first
    | exact (rfl : _ = true)
    | (with_reducible exact Keeps.refl _ _)
    | assumption
    | (with_reducible exact (Keeps.refl _ _).mono rfl)
    | (with_reducible apply Keeps.via setF_keeps)
    | (with_reducible intro)
    | (dsimp -proj only)

theorem bringDone_keeps {s : State} :
    Keeps [.regs, .pwr, .bring] s (bringDone s) := by
  unfold bringDone
  try dsimp -proj only
  repeat' first
    | (with_reducible apply Keeps.forN)
    | exact (rfl : _ = true)
    | (with_reducible exact Keeps.refl _ _)
    | assumption
    | (with_reducible exact (Keeps.refl _ _).mono rfl)
    | (with_reducible apply Keeps.via setF_keeps)
    | (with_reducible apply Keeps.via hcCommit_keeps)
    | (with_reducible apply Keeps.via updBring_keeps)
    | (with_reducible apply Keeps.via updPwr_keeps)
    | (with_reducible apply Keeps.via retractLoad_keeps)
    | (with_reducible intro)
    | (dsimp -proj only)

end Sys2Proof.Machine
end

