-- ==== Sys2Proof/Laws/KeepRegWords.lean ====
section
/-! SUPPORT. What each operation of Machine/RegWords.lean keeps (`Keeps`). -/

set_option Elab.async false

namespace Sys2Proof.Machine

theorem plainRead_keeps {p : Path} {a : Nat} {s : State} :
    Keeps [.regs, .free, .snaps] s (plainRead p a s).1 := by
  unfold plainRead
  try dsimp -proj only
  repeat' first
    | exact (rfl : _ = true)
    | (with_reducible exact Keeps.refl _ _)
    | assumption
    | (with_reducible exact (Keeps.refl _ _).mono rfl)
    | (with_reducible apply Keeps.ite <;> intro _)
    | (with_reducible apply Keeps.via takeFree_keeps)
    | (with_reducible apply Keeps.via snapHi_keeps)
    | (with_reducible apply Keeps.via trcRead_keeps)
    | (with_reducible refine Keeps.of_fst (by assumption) ?_)
    | (with_reducible refine Keeps.of_snd (by assumption) ?_)
    | (with_reducible intro)
    | split
    | (dsimp only)

theorem groupWrite_keeps {b : Nat} {o : Nat} {a : Nat} {w : Nat} {s : State} :
    Keeps [.regs] s (groupWrite b o a w s) := by
  unfold groupWrite
  try dsimp -proj only
  repeat' first
    | (with_reducible apply Keeps.forN)
    | exact (rfl : _ = true)
    | (with_reducible exact Keeps.refl _ _)
    | assumption
    | (with_reducible exact (Keeps.refl _ _).mono rfl)
    | (with_reducible apply Keeps.ite <;> intro _)
    | (with_reducible apply Keeps.via wr_keeps)
    | (with_reducible apply Keeps.via setF_keeps)
    | (with_reducible apply Keeps.via cntPut_keeps)
    | (with_reducible apply Keeps.via clearLatch_keeps)
    | (with_reducible intro)
    | split
    | (dsimp -proj only)

theorem plainWrite_keeps {a : Nat} {w : Word} {s : State} :
    Keeps [.regs] s (plainWrite a w s) := by
  unfold plainWrite
  try dsimp -proj only
  repeat' first
    | exact (rfl : _ = true)
    | (with_reducible exact Keeps.refl _ _)
    | assumption
    | (with_reducible exact (Keeps.refl _ _).mono rfl)
    | (with_reducible apply Keeps.ite <;> intro _)
    | (with_reducible apply Keeps.via wr_keeps)
    | (with_reducible apply Keeps.via cntPut_keeps)
    | (with_reducible apply Keeps.via groupWrite_keeps)
    | (with_reducible refine Keeps.of_fst (by assumption) ?_)
    | (with_reducible refine Keeps.of_snd (by assumption) ?_)
    | (with_reducible intro)
    | split
    | (dsimp -proj only)

theorem portWrite_keeps {a : Nat} {w : Word} {s : State} :
    Keeps [.regs, .free] s (portWrite a w s) := by
  unfold portWrite
  try dsimp -proj only
  repeat' first
    | exact (rfl : _ = true)
    | (with_reducible exact Keeps.refl _ _)
    | assumption
    | (with_reducible exact (Keeps.refl _ _).mono rfl)
    | (with_reducible apply Keeps.ite <;> intro _)
    | (with_reducible apply Keeps.via portSet_keeps)
    | (with_reducible apply Keeps.via plainWrite_keeps)
    | (with_reducible intro)
    | split
    | (dsimp -proj only)

end Sys2Proof.Machine
end

