-- ==== Sys2Proof/Laws/KeepGates.lean ====
section
/-! SUPPORT. What each operation of Machine/Gates.lean keeps (`Keeps`). -/

set_option Elab.async false

namespace Sys2Proof.Machine

theorem updClk_keeps {f : ClkSt → ClkSt} {s : State}
    (hf : (f s.clk).applied.length = s.clk.applied.length ∧ (f s.clk).progress.length = s.clk.progress.length) :
    Keeps [.clk] s (updClk f s) := Keeps.upd_clk hf (Keeps.refl _ _) rfl

theorem paRemove_keeps {p : Nat} {s : State} :
    Keeps [.regs, .clk] s (paRemove p s) := by
  unfold paRemove
  try dsimp -proj only
  repeat' first
    | exact (rfl : _ = true)
    | (with_reducible exact Keeps.refl _ _)
    | assumption
    | (with_reducible exact (Keeps.refl _ _).mono rfl)
    | (with_reducible apply Keeps.ite <;> intro _)
    | (with_reducible apply Keeps.via setF_keeps)
    | (with_reducible apply Keeps.via admitTo_keeps)
    | (with_reducible apply Keeps.via (updClk_keeps ?_))
    | exact ⟨rfl, rfl⟩
    | exact ⟨setAt_length _ _ _, rfl⟩
    | exact ⟨rfl, setAt_length _ _ _⟩
    | (with_reducible intro)
    | split
    | (dsimp -proj only)

theorem gateTake_keeps {i : Nat} {s : State} :
    Keeps [.regs, .mbx, .clk, .outbox] s (gateTake i s) := by
  unfold gateTake
  try dsimp -proj only
  repeat' first
    | exact (rfl : _ = true)
    | (with_reducible exact Keeps.refl _ _)
    | assumption
    | (with_reducible exact (Keeps.refl _ _).mono rfl)
    | (with_reducible apply Keeps.via setF_keeps)
    | (with_reducible apply Keeps.via mbxFinish_keeps)
    | (with_reducible apply Keeps.via refuseWaiting_keeps)
    | (with_reducible apply Keeps.via (updClk_keeps ?_))
    | exact ⟨rfl, rfl⟩
    | exact ⟨setAt_length _ _ _, rfl⟩
    | exact ⟨rfl, setAt_length _ _ _⟩
    | (with_reducible intro)
    | (dsimp -proj only)

theorem gateReq_keeps {i : Nat} {busy : Option (Path × Nat)} {s : State} :
    Keeps [.regs, .mbx, .clk, .outbox] s (gateReq i busy s) := by
  unfold gateReq
  try dsimp -proj only
  repeat' first
    | exact (rfl : _ = true)
    | (with_reducible exact Keeps.refl _ _)
    | assumption
    | (with_reducible exact (Keeps.refl _ _).mono rfl)
    | (with_reducible apply Keeps.ite <;> intro _)
    | (with_reducible apply Keeps.via setF_keeps)
    | (with_reducible apply Keeps.via (updClk_keeps ?_))
    | exact ⟨rfl, rfl⟩
    | exact ⟨setAt_length _ _ _, rfl⟩
    | exact ⟨rfl, setAt_length _ _ _⟩
    | (with_reducible apply Keeps.via gateTake_keeps)
    | (with_reducible refine Keeps.of_fst (by assumption) ?_)
    | (with_reducible refine Keeps.of_snd (by assumption) ?_)
    | (with_reducible intro)
    | split
    | (dsimp -proj only)

theorem waitGo_keeps {w : Waiting} {s : State} :
    Keeps [.regs, .free, .snaps, .outbox] s (waitGo w s) := by
  unfold waitGo
  try dsimp -proj only
  repeat' first
    | exact (rfl : _ = true)
    | (with_reducible exact Keeps.refl _ _)
    | assumption
    | (with_reducible exact (Keeps.refl _ _).mono rfl)
    | (with_reducible apply Keeps.ite <;> intro _)
    | (with_reducible apply Keeps.via busAnswer_keeps)
    | (with_reducible apply Keeps.via plainRead_keeps)
    | (with_reducible apply Keeps.via portWrite_keeps)
    | (with_reducible intro)
    | split
    | (dsimp -proj only)

theorem waitingGo_keeps {i : Nat} {s : State} :
    Keeps [.regs, .free, .snaps, .clk, .outbox] s (waitingGo i s) := by
  unfold waitingGo
  try dsimp -proj only
  repeat' first
    | (with_reducible apply Keeps.foldl)
    | exact (rfl : _ = true)
    | (with_reducible exact Keeps.refl _ _)
    | assumption
    | (with_reducible exact (Keeps.refl _ _).mono rfl)
    | (with_reducible apply Keeps.via (updClk_keeps ?_))
    | exact ⟨rfl, rfl⟩
    | exact ⟨setAt_length _ _ _, rfl⟩
    | exact ⟨rfl, setAt_length _ _ _⟩
    | (with_reducible apply Keeps.via waitGo_keeps)
    | (with_reducible intro)
    | (dsimp -proj only)

theorem gateClear_keeps {i : Nat} {s : State} :
    Keeps [.regs, .free, .snaps, .clk, .outbox] s (gateClear i s) := by
  unfold gateClear
  try dsimp -proj only
  repeat' first
    | exact (rfl : _ = true)
    | (with_reducible exact Keeps.refl _ _)
    | assumption
    | (with_reducible exact (Keeps.refl _ _).mono rfl)
    | (with_reducible apply Keeps.ite <;> intro _)
    | (with_reducible apply Keeps.via setF_keeps)
    | (with_reducible apply Keeps.via (updClk_keeps ?_))
    | exact ⟨rfl, rfl⟩
    | exact ⟨setAt_length _ _ _, rfl⟩
    | exact ⟨rfl, setAt_length _ _ _⟩
    | (with_reducible apply Keeps.via waitingGo_keeps)
    | (with_reducible intro)
    | split
    | (dsimp -proj only)

theorem logForce_keeps {i : Nat} {a : Nat} {s : State} :
    Keeps [.regs] s (logForce i a s) := by
  unfold logForce
  try dsimp -proj only
  repeat' first
    | exact (rfl : _ = true)
    | (with_reducible exact Keeps.refl _ _)
    | assumption
    | (with_reducible exact (Keeps.refl _ _).mono rfl)
    | (with_reducible apply Keeps.ite <;> intro _)
    | (with_reducible apply Keeps.via wr_keeps)
    | (with_reducible apply Keeps.via setF_keeps)
    | (with_reducible apply Keeps.via satF_keeps)
    | (with_reducible intro)
    | split
    | (dsimp -proj only)

theorem accessForced_keeps {p : Path} {a : Nat} {s : State} :
    Keeps [.mbx, .outbox] s (accessForced p a s) := by
  unfold accessForced
  try dsimp -proj only
  repeat' first
    | exact (rfl : _ = true)
    | (with_reducible exact Keeps.refl _ _)
    | assumption
    | (with_reducible exact (Keeps.refl _ _).mono rfl)
    | (with_reducible apply Keeps.ite <;> intro _)
    | (with_reducible apply Keeps.via mbxSetResult_keeps)
    | (with_reducible apply Keeps.via busAnswer_keeps)
    | (with_reducible refine Keeps.of_fst (by assumption) ?_)
    | (with_reducible refine Keeps.of_snd (by assumption) ?_)
    | (with_reducible intro)
    | split
    | (dsimp -proj only)

theorem gateForce_keeps {i : Nat} {idle : Bool} {s : State} :
    Keeps [.regs, .mbx, .clk, .outbox] s (gateForce i idle s) := by
  unfold gateForce
  try dsimp -proj only
  repeat' first
    | exact (rfl : _ = true)
    | (with_reducible exact Keeps.refl _ _)
    | assumption
    | (with_reducible exact (Keeps.refl _ _).mono rfl)
    | (with_reducible apply Keeps.ite <;> intro _)
    | (with_reducible apply Keeps.via gateTake_keeps)
    | (with_reducible apply Keeps.via logForce_keeps)
    | (with_reducible apply Keeps.via accessForced_keeps)
    | (with_reducible refine Keeps.of_fst (by assumption) ?_)
    | (with_reducible refine Keeps.of_snd (by assumption) ?_)
    | (with_reducible intro)
    | split
    | (dsimp -proj only)

theorem refSafe_keeps {r : Nat} {s : State} :
    Keeps [.regs, .mem, .free, .pwr, .bring, .flt, .mbx, .grants, .pair, .pins, .pcie, .journal, .clk, .fs, .tier, .volu, .host, .mot, .outbox, .nvFaultLog, .nvLogNext] s (refSafe r s) := by
  unfold refSafe
  try dsimp -proj only
  repeat' first
    | (with_reducible apply Keeps.forN)
    | exact (rfl : _ = true)
    | (with_reducible exact Keeps.refl _ _)
    | assumption
    | (with_reducible exact (Keeps.refl _ _).mono rfl)
    | (with_reducible apply Keeps.ite <;> intro _)
    | (with_reducible apply Keeps.via setF_keeps)
    | (with_reducible apply Keeps.via stopAct_keeps)
    | (with_reducible apply Keeps.via flashHiZ_keeps)
    | (with_reducible apply Keeps.via spnCoast_keeps)
    | (with_reducible apply Keeps.via retractAll_keeps)
    | (with_reducible apply Keeps.via nalDown_keeps)
    | (with_reducible apply Keeps.via pcieDown_keeps)
    | (with_reducible apply Keeps.via fabDown_keeps)
    | (dsimp -proj only [keepsMk]; with_reducible apply KeepsMk.upd_pins)
    | (with_reducible refine Keeps.of_fst (by assumption) ?_)
    | (with_reducible refine Keeps.of_snd (by assumption) ?_)
    | (with_reducible intro)
    | split
    | (dsimp -proj only)

theorem refLoss_keeps {r : Nat} {s : State} :
    Keeps [.regs, .mem, .free, .pwr, .bring, .flt, .mbx, .grants, .pair, .pins, .pcie, .journal, .clk, .fs, .tier, .volu, .host, .mot, .outbox, .nvFaultLog, .nvLogNext] s (refLoss r s) := by
  unfold refLoss
  try dsimp -proj only
  repeat' first
    | (with_reducible apply Keeps.foldl)
    | exact (rfl : _ = true)
    | (with_reducible exact Keeps.refl _ _)
    | assumption
    | (with_reducible exact (Keeps.refl _ _).mono rfl)
    | (with_reducible apply Keeps.ite <;> intro _)
    | (with_reducible apply Keeps.via setF_keeps)
    | (with_reducible apply Keeps.via raiseLive_keeps)
    | (with_reducible apply Keeps.via refSafe_keeps)
    | (with_reducible intro)
    | split
    | (dsimp -proj only)

theorem outputsBack_keeps {i : Nat} {s : State} :
    Keeps [.regs, .pins, .pa, .outbox] s (outputsBack i s) := by
  unfold outputsBack
  try dsimp -proj only
  repeat' first
    | (with_reducible apply Keeps.forN)
    | exact (rfl : _ = true)
    | (with_reducible exact Keeps.refl _ _)
    | assumption
    | (with_reducible exact (Keeps.refl _ _).mono rfl)
    | (with_reducible apply Keeps.ite <;> intro _)
    | (with_reducible apply Keeps.via setF_keeps)
    | (with_reducible apply Keeps.via paNext_keeps)
    | (with_reducible apply Keeps.via trainSend_keeps)
    | (dsimp -proj only [keepsMk]; with_reducible apply KeepsMk.upd_pins)
    | (with_reducible refine Keeps.of_fst (by assumption) ?_)
    | (with_reducible refine Keeps.of_snd (by assumption) ?_)
    | (with_reducible intro)
    | split
    | (dsimp -proj only)

theorem safeRelease_keeps {i : Nat} {s : State} :
    Keeps [.regs, .pins, .pa, .outbox] s (safeRelease i s) := by
  unfold safeRelease
  try dsimp -proj only
  repeat' first
    | exact (rfl : _ = true)
    | (with_reducible exact Keeps.refl _ _)
    | assumption
    | (with_reducible exact (Keeps.refl _ _).mono rfl)
    | (with_reducible apply Keeps.ite <;> intro _)
    | (with_reducible apply Keeps.via setF_keeps)
    | (with_reducible apply Keeps.via outputsBack_keeps)
    | (with_reducible intro)
    | split
    | (dsimp -proj only)

theorem expertRelease_keeps {p : Path} {i : Nat} {s : State} :
    Keeps [.regs, .flt, .pins, .pa, .outbox] s (expertRelease p i s) := by
  unfold expertRelease
  try dsimp -proj only
  repeat' first
    | exact (rfl : _ = true)
    | (with_reducible exact Keeps.refl _ _)
    | assumption
    | (with_reducible exact (Keeps.refl _ _).mono rfl)
    | (with_reducible apply Keeps.via liftEscalation_keeps)
    | (with_reducible apply Keeps.via safeRelease_keeps)
    | (with_reducible refine Keeps.of_fst (by assumption) ?_)
    | (with_reducible refine Keeps.of_snd (by assumption) ?_)
    | (with_reducible intro)
    | split
    | (dsimp -proj only)

theorem paceLowRst_keeps {s : State} :
    Keeps [.regs] s (paceLowRst s) := by
  unfold paceLowRst
  try dsimp -proj only
  repeat' first
    | exact (rfl : _ = true)
    | (with_reducible exact Keeps.refl _ _)
    | assumption
    | (with_reducible exact (Keeps.refl _ _).mono rfl)
    | (with_reducible apply Keeps.via setF_keeps)
    | (with_reducible intro)
    | (dsimp -proj only)

theorem islWrite_keeps {p : Path} {i : Nat} {w : Nat} {busy : Option (Path × Nat)} {idle : Bool} {s : State} :
    Keeps [.regs, .free, .flt, .mbx, .snaps, .pins, .clk, .pa, .outbox] s (islWrite p i w busy idle s) := by
  unfold islWrite
  try dsimp -proj only
  repeat' first
    | exact (rfl : _ = true)
    | (with_reducible exact Keeps.refl _ _)
    | assumption
    | (with_reducible exact (Keeps.refl _ _).mono rfl)
    | (with_reducible apply Keeps.ite <;> intro _)
    | (with_reducible apply Keeps.via gateReq_keeps)
    | (with_reducible apply Keeps.via gateClear_keeps)
    | (with_reducible apply Keeps.via gateForce_keeps)
    | (with_reducible apply Keeps.via expertRelease_keeps)
    | (with_reducible intro)
    | split
    | (dsimp -proj only)

end Sys2Proof.Machine
end

