-- ==== Sys2Proof/Laws/KeepRamp.lean ====
section
/-! SUPPORT. What each operation of Machine/Ramp.lean keeps (`Keeps`). -/

set_option Elab.async false

namespace Sys2Proof.Machine

theorem parked_keeps {a : Nat} {s : State} :
    Keeps [.regs, .mem, .bad, .free, .pwr, .bring, .flt, .mbx, .fences, .grants, .pair, .pins, .pcie, .journal, .clk, .pa, .head, .pool, .fs, .memc, .fl, .tier, .red, .volu, .host, .spdm, .mot, .outbox, .nvFaultLog, .nvLogNext] s (parked a s) := by
  unfold parked
  try dsimp -proj only
  repeat' first
    | exact (rfl : _ = true)
    | (with_reducible exact Keeps.refl _ _)
    | assumption
    | (with_reducible exact (Keeps.refl _ _).mono rfl)
    | (with_reducible apply Keeps.via setF_keeps)
    | (with_reducible apply Keeps.via nalSend_keeps)
    | (with_reducible apply Keeps.via heatersOff_keeps)
    | (with_reducible apply Keeps.via updVcm_keeps)
    | (with_reducible apply Keeps.via busyShow_keeps)
    | (with_reducible apply Keeps.via headsFinish_keeps)
    | (with_reducible apply Keeps.via hcaIdle_keeps)
    | (with_reducible apply Keeps.via dormantGo_keeps)
    | (with_reducible intro)
    | (dsimp -proj only)

end Sys2Proof.Machine
end

