-- ==== Sys2Proof/Laws/KeepPower.lean ====
section
/-! SUPPORT. What each operation of Machine/Power.lean keeps (`Keeps`). -/

set_option Elab.async false

namespace Sys2Proof.Machine

theorem pfRecord_keeps {s : State} : Keeps [.tier, .nvPf] s (pfRecord s) := by
  refine ⟨fun c hc => ?_, id, id, id, id, Nat.le_refl _, Nat.le_refl _⟩
  cases c <;> first | rfl | exact absurd hc (by decide)


theorem holdupShed_keeps {s : State} :
    Keeps [.regs, .mem, .bad, .free, .pwr, .bring, .flt, .mbx, .fences, .grants, .pair, .pins, .pcie, .journal, .clk, .pa, .head, .pool, .fs, .memc, .fl, .tier, .red, .volu, .host, .spdm, .mot, .outbox, .nvFaultLog, .nvLogNext] s (holdupShed s) := by
  unfold holdupShed
  try dsimp -proj only
  repeat' first
    | (with_reducible apply Keeps.forN)
    | exact (rfl : _ = true)
    | (with_reducible exact Keeps.refl _ _)
    | assumption
    | (with_reducible exact (Keeps.refl _ _).mono rfl)
    | (with_reducible apply Keeps.ite <;> intro _)
    | (with_reducible apply Keeps.via domReset_keeps)
    | (with_reducible intro)
    | split
    | (dsimp -proj only)

theorem vmotShow_keeps {mv : Nat} {s : State} :
    Keeps [.regs] s (vmotShow mv s) := by
  unfold vmotShow
  try dsimp -proj only
  repeat' first
    | exact (rfl : _ = true)
    | (with_reducible exact Keeps.refl _ _)
    | assumption
    | (with_reducible exact (Keeps.refl _ _).mono rfl)
    | (with_reducible apply Keeps.via setF_keeps)
    | (with_reducible apply Keeps.via setB_keeps)
    | (with_reducible intro)
    | (dsimp -proj only)

theorem fallowStart_keeps {s : State} :
    Keeps [.regs, .pwr] s (fallowStart s) := by
  unfold fallowStart
  try dsimp -proj only
  repeat' first
    | (with_reducible apply Keeps.forN)
    | exact (rfl : _ = true)
    | (with_reducible exact Keeps.refl _ _)
    | assumption
    | (with_reducible exact (Keeps.refl _ _).mono rfl)
    | (with_reducible apply Keeps.ite <;> intro _)
    | (with_reducible apply Keeps.via setF_keeps)
    | (with_reducible apply Keeps.via unloadHeads_keeps)
    | (with_reducible apply Keeps.via updPwr_keeps)
    | (with_reducible intro)
    | split
    | (dsimp -proj only)

theorem vmotToFallow_keeps {s : State} :
    Keeps [.regs, .mem, .bad, .free, .pwr, .bring, .flt, .mbx, .grants, .pair, .pins, .pcie, .journal, .clk, .fs, .memc, .fl, .tier, .host, .mot, .outbox, .nvFaultLog, .nvLogNext] s (vmotToFallow s) := by
  unfold vmotToFallow
  try dsimp -proj only
  repeat' first
    | (with_reducible apply Keeps.forN)
    | exact (rfl : _ = true)
    | (with_reducible exact Keeps.refl _ _)
    | assumption
    | (with_reducible exact (Keeps.refl _ _).mono rfl)
    | (with_reducible apply Keeps.ite <;> intro _)
    | (with_reducible apply Keeps.via nalSend_keeps)
    | (with_reducible apply Keeps.via diskFail_keeps)
    | (with_reducible apply Keeps.via updPwr_keeps)
    | (with_reducible apply Keeps.via fallowStart_keeps)
    | (with_reducible intro)
    | split
    | (dsimp -proj only)

theorem domReq_keeps {p : Path} {d : Nat} {w : Word} {s : State} :
    Keeps [.regs, .mem, .bad, .free, .pwr, .bring, .flt, .mbx, .fences, .grants, .pair, .pins, .pcie, .journal, .clk, .pa, .head, .pool, .fs, .memc, .fl, .tier, .red, .volu, .host, .spdm, .mot, .outbox, .nvFaultLog, .nvLogNext] s (domReq p d w s).1 := by
  unfold domReq
  try dsimp -proj only
  repeat' first
    | exact (rfl : _ = true)
    | (with_reducible exact Keeps.refl _ _)
    | assumption
    | (with_reducible exact (Keeps.refl _ _).mono rfl)
    | (with_reducible apply Keeps.ite <;> intro _)
    | (with_reducible apply Keeps.via setF_keeps)
    | (with_reducible apply Keeps.via domUp_keeps)
    | (with_reducible apply Keeps.via domDown_keeps)
    | (with_reducible refine Keeps.of_fst (by assumption) ?_)
    | (with_reducible refine Keeps.of_snd (by assumption) ?_)
    | (with_reducible intro)
    | split
    | (dsimp only)

theorem haltTransfers_keeps {d : Nat} {s : State} :
    Keeps [.regs, .mem, .bad, .free, .pwr, .bring, .flt, .mbx, .grants, .pair, .pins, .pcie, .journal, .clk, .pa, .head, .fs, .memc, .fl, .tier, .volu, .host, .mot, .outbox, .nvFaultLog, .nvLogNext] s (haltTransfers d s) := by
  unfold haltTransfers
  try dsimp -proj only
  repeat' first
    | (with_reducible apply Keeps.foldl)
    | (with_reducible apply Keeps.forN)
    | exact (rfl : _ = true)
    | (with_reducible exact Keeps.refl _ _)
    | assumption
    | (with_reducible exact (Keeps.refl _ _).mono rfl)
    | (with_reducible apply Keeps.ite <;> intro _)
    | (with_reducible apply Keeps.via finishCmd_keeps)
    | (with_reducible apply Keeps.via haltBand_keeps)
    | (with_reducible apply Keeps.via dmaHalt_keeps)
    | (with_reducible intro)
    | split
    | (dsimp -proj only)

end Sys2Proof.Machine
end

