-- ==== Sys2Proof/Laws/KeepClocks.lean ====
section
/-! SUPPORT. What each operation of Machine/Clocks.lean keeps (`Keeps`). -/

set_option Elab.async false

namespace Sys2Proof.Machine

theorem govCut_keeps {pace : Nat} {rate : Nat} {floor : Nat} {s : State} :
    Keeps [.regs, .clk] s (govCut pace rate floor s) := by
  unfold govCut
  try dsimp -proj only
  repeat' first
    | exact (rfl : _ = true)
    | (with_reducible exact Keeps.refl _ _)
    | assumption
    | (with_reducible exact (Keeps.refl _ _).mono rfl)
    | (with_reducible apply Keeps.ite <;> intro _)
    | (with_reducible apply Keeps.via setF_keeps)
    | (with_reducible apply Keeps.via paRemove_keeps)
    | (with_reducible refine Keeps.of_fst (by assumption) ?_)
    | (with_reducible refine Keeps.of_snd (by assumption) ?_)
    | (with_reducible intro)
    | split
    | (dsimp -proj only)

theorem govAct_keeps {pace : Nat} {rate : Nat} {floor : Nat} {capHolds : Bool} {s0 : State} :
    Keeps [.regs, .clk] s0 (govAct pace rate floor capHolds s0) := by
  unfold govAct
  try dsimp -proj only
  repeat' first
    | exact (rfl : _ = true)
    | (with_reducible exact Keeps.refl _ _)
    | assumption
    | (with_reducible exact (Keeps.refl _ _).mono rfl)
    | (with_reducible apply Keeps.ite <;> intro _)
    | (with_reducible apply Keeps.via setF_keeps)
    | (with_reducible apply Keeps.via govCut_keeps)
    | (with_reducible intro)
    | split
    | (dsimp -proj only)

theorem govShow_keeps {capHolds : Bool} {s : State} :
    Keeps [.regs] s (govShow capHolds s) := by
  unfold govShow
  try dsimp -proj only
  repeat' first
    | exact (rfl : _ = true)
    | (with_reducible exact Keeps.refl _ _)
    | assumption
    | (with_reducible exact (Keeps.refl _ _).mono rfl)
    | (with_reducible apply Keeps.via setB_keeps)
    | (with_reducible intro)
    | (dsimp -proj only)

end Sys2Proof.Machine
end

