-- ==== Sys2Proof/Laws/KeepFaults.lean ====
section
/-! SUPPORT. What each operation of Machine/Faults.lean keeps (`Keeps`). -/

set_option Elab.async false

namespace Sys2Proof.Machine

theorem logWithheld_keeps {s : State} :
    Keeps [.nvFaultLog, .nvLogNext] s (logWithheld s) := by
  unfold logWithheld
  try dsimp -proj only
  repeat' first
    | (with_reducible apply Keeps.foldl)
    | exact (rfl : _ = true)
    | (with_reducible exact Keeps.refl _ _)
    | assumption
    | (with_reducible exact (Keeps.refl _ _).mono rfl)
    | (with_reducible apply Keeps.ite <;> intro _)
    | (with_reducible apply Keeps.via logAppend_keeps)
    | (with_reducible intro)
    | split
    | (dsimp -proj only)

theorem clearPend_keeps {b : Nat} {mask : Nat} {s : State} :
    Keeps [.regs] s (clearPend b mask s) := by
  unfold clearPend
  try dsimp -proj only
  repeat' first
    | (with_reducible apply Keeps.forN)
    | exact (rfl : _ = true)
    | (with_reducible exact Keeps.refl _ _)
    | assumption
    | (with_reducible exact (Keeps.refl _ _).mono rfl)
    | (with_reducible apply Keeps.ite <;> intro _)
    | (with_reducible apply Keeps.via setF_keeps)
    | (with_reducible intro)
    | split
    | (dsimp -proj only)

end Sys2Proof.Machine
end

