-- ==== Sys2Proof/Laws/KeepLinks.lean ====
section
/-! SUPPORT. What each operation of Machine/Links.lean keeps (`Keeps`). -/

set_option Elab.async false

namespace Sys2Proof.Machine

theorem nalTake_keeps {x : NalMsg} {s : State} :
    Keeps [.pair, .head] s (nalTake x s) := by
  unfold nalTake
  try dsimp -proj only
  repeat' first
    | exact (rfl : _ = true)
    | (with_reducible exact Keeps.refl _ _)
    | assumption
    | (with_reducible exact (Keeps.refl _ _).mono rfl)
    | (with_reducible apply Keeps.via updPair_keeps)
    | (with_reducible apply Keeps.via updHead_keeps)
    | (with_reducible refine Keeps.of_fst (by assumption) ?_)
    | (with_reducible refine Keeps.of_snd (by assumption) ?_)
    | (with_reducible intro)
    | split
    | (dsimp -proj only)

theorem nalDrain_keeps {y0 : Nat} {y1 : State} :
    Keeps [.pair, .outbox] y1 (nalDrain y0 y1) := by
  induction y0 generalizing y1 with
  | zero => exact Keeps.refl _ _
  | succ k ih =>
  unfold nalDrain
  try dsimp -proj only
  repeat' first
    | (with_reducible apply Keeps.trans; rotate_left; apply ih)
    | exact (rfl : _ = true)
    | (with_reducible exact Keeps.refl _ _)
    | assumption
    | (with_reducible exact (Keeps.refl _ _).mono rfl)
    | (with_reducible apply Keeps.ite <;> intro _)
    | (with_reducible apply Keeps.via nalEmit_keeps)
    | (dsimp -proj only [keepsMk]; with_reducible apply KeepsMk.upd_pair)
    | (with_reducible refine Keeps.of_fst (by assumption) ?_)
    | (with_reducible refine Keeps.of_snd (by assumption) ?_)
    | (with_reducible intro)
    | split
    | (dsimp -proj only)
    | (dsimp -proj +zetaDelta only)

theorem nalAck_keeps {n : Nat} {s : State} :
    Keeps [.pair, .outbox] s (nalAck n s) := by
  unfold nalAck
  try dsimp -proj only
  repeat' first
    | exact (rfl : _ = true)
    | (with_reducible exact Keeps.refl _ _)
    | assumption
    | (with_reducible exact (Keeps.refl _ _).mono rfl)
    | (with_reducible apply Keeps.via updPair_keeps)
    | (with_reducible apply Keeps.via nalDrain_keeps)
    | (with_reducible intro)
    | (dsimp -proj only)

theorem nalReplay_keeps {s : State} :
    Keeps [.regs, .flt, .pcie, .outbox, .nvFaultLog, .nvLogNext] s (nalReplay s) := by
  unfold nalReplay
  try dsimp -proj only
  repeat' first
    | (with_reducible apply Keeps.foldl)
    | exact (rfl : _ = true)
    | (with_reducible exact Keeps.refl _ _)
    | assumption
    | (with_reducible exact (Keeps.refl _ _).mono rfl)
    | (with_reducible apply Keeps.via send_keeps)
    | (with_reducible apply Keeps.via count_keeps)
    | (with_reducible intro)
    | (dsimp -proj only)

theorem msixReset_keeps {s : State} :
    Keeps [.pcie] s (msixReset s) := by
  unfold msixReset
  try dsimp -proj only
  repeat' first
    | exact (rfl : _ = true)
    | (with_reducible exact Keeps.refl _ _)
    | assumption
    | (with_reducible exact (Keeps.refl _ _).mono rfl)
    | (dsimp -proj only [keepsMk]; with_reducible apply KeepsMk.upd_pcie)
    | (with_reducible intro)
    | (dsimp -proj only)

end Sys2Proof.Machine
end

