-- ==== Sys2Proof/Laws/KeepPair.lean ====
section
/-! SUPPORT. What each operation of Machine/Pair.lean keeps (`Keeps`). -/

set_option Elab.async false

namespace Sys2Proof.Machine

theorem closeOpen_keeps {new : Nat → Bool} {erasing : List (Nat × Nat × Nat)} {s : State} :
    Keeps [.tier] s (closeOpen new erasing s) := by
  unfold closeOpen
  try dsimp -proj only
  repeat' first
    | exact (rfl : _ = true)
    | (with_reducible exact Keeps.refl _ _)
    | assumption
    | (with_reducible exact (Keeps.refl _ _).mono rfl)
    | (with_reducible apply Keeps.ite <;> intro _)
    | (dsimp -proj only [keepsMk]; with_reducible apply KeepsMk.upd_tier)
    | (with_reducible intro)
    | split
    | (dsimp -proj only)

theorem requestsTaken_keeps {s : State} :
    Keeps [.regs, .flt, .mbx, .pair, .pcie, .fs, .tier, .host, .outbox, .nvFaultLog, .nvLogNext] s (requestsTaken s) := by
  unfold requestsTaken
  try dsimp -proj only
  repeat' first
    | (with_reducible apply Keeps.foldl)
    | (with_reducible rfl)
    | exact (rfl : _ = true)
    | (with_reducible exact Keeps.refl _ _)
    | assumption
    | (with_reducible exact (Keeps.refl _ _).mono rfl)
    | (with_reducible apply Keeps.via mbxSetResult_keeps)
    | (with_reducible apply Keeps.via resolveHost_keeps)
    | (with_reducible apply Keeps.via resolveMedia_keeps)
    | (dsimp -proj only [keepsMk]; with_reducible apply KeepsMk.upd_host)
    | (with_reducible exact natq_id)
    | (with_reducible exact natq_mod)
    | (with_reducible exact natq_map)
    | (with_reducible exact natq_reset)
    | (with_reducible refine Keeps.of_fst (by assumption) ?_)
    | (with_reducible refine Keeps.of_snd (by assumption) ?_)
    | (with_reducible intro)
    | split
    | (simp [modAt_length]; done)
    | (simp [setAt_length]; done)
    | (simp only [List.length_mapIdx, List.length_map]; done)
    | (simp [MotSt.units, modAt_length, setAt_length]; done)
    | (dsimp -proj only)

theorem takeAck_keeps {t : Nat} {e : BitVec 16} {s : State} :
    Keeps [.pair, .outbox] s (takeAck t e s) := by
  unfold takeAck
  try dsimp -proj only
  repeat' first
    | exact (rfl : _ = true)
    | (with_reducible exact Keeps.refl _ _)
    | assumption
    | (with_reducible exact (Keeps.refl _ _).mono rfl)
    | (with_reducible apply Keeps.via nalSend_keeps)
    | (with_reducible intro)
    | (dsimp -proj only)

theorem refuse_keeps {t : Nat} {e : BitVec 16} {s : State} :
    Keeps [.pair, .outbox] s (refuse t e s) := by
  unfold refuse
  try dsimp -proj only
  repeat' first
    | exact (rfl : _ = true)
    | (with_reducible exact Keeps.refl _ _)
    | assumption
    | (with_reducible exact (Keeps.refl _ _).mono rfl)
    | (with_reducible apply Keeps.via nalSend_keeps)
    | (with_reducible intro)
    | (dsimp -proj only)

theorem handoverTaken_keeps {s : State} :
    Keeps [.regs, .mem, .free, .pwr, .bring, .flt, .mbx, .grants, .pair, .pins, .pcie, .journal, .clk, .fs, .host, .boot, .mot, .outbox, .nvFaultLog, .nvLogNext, .nvLastGood] s (handoverTaken s) := by
  unfold handoverTaken
  try dsimp -proj only
  repeat' first
    | exact (rfl : _ = true)
    | (with_reducible exact Keeps.refl _ _)
    | assumption
    | (with_reducible exact (Keeps.refl _ _).mono rfl)
    | (with_reducible apply Keeps.ite <;> intro _)
    | (with_reducible apply Keeps.via enterSolo_keeps)
    | (with_reducible intro)
    | split
    | (dsimp -proj only)

theorem commitToken_keeps {t : Nat} {e : BitVec 16} {s : State} :
    Keeps [.regs, .mem, .free, .pwr, .bring, .flt, .mbx, .grants, .pair, .pins, .pcie, .journal, .clk, .pa, .fs, .tier, .red, .volu, .host, .boot, .mot, .outbox, .nvTokens, .nvFaultLog, .nvLogNext, .nvLastGood] s (commitToken t e s) := by
  unfold commitToken
  try dsimp -proj only
  repeat' first
    | exact (rfl : _ = true)
    | (with_reducible exact Keeps.refl _ _)
    | assumption
    | (with_reducible exact (Keeps.refl _ _).mono rfl)
    | (with_reducible apply Keeps.via setTok_keeps)
    | (with_reducible apply Keeps.via anaRefresh_keeps)
    | (with_reducible apply Keeps.via gainToken_keeps)
    | (with_reducible apply Keeps.via takeAck_keeps)
    | (with_reducible apply Keeps.via handoverTaken_keeps)
    | (with_reducible intro)
    | (dsimp -proj only)

theorem refuseToken_keeps {t : Nat} {e : BitVec 16} {s : State} :
    Keeps [.regs, .mem, .bad, .free, .pwr, .bring, .flt, .mbx, .fences, .grants, .pair, .pins, .pcie, .journal, .clk, .pa, .head, .pool, .fs, .memc, .fl, .tier, .red, .volu, .host, .spdm, .mot, .outbox, .nvTokens, .nvFaultLog, .nvLogNext] s (refuseToken t e s) := by
  unfold refuseToken
  try dsimp -proj only
  repeat' first
    | exact (rfl : _ = true)
    | (with_reducible exact Keeps.refl _ _)
    | assumption
    | (with_reducible exact (Keeps.refl _ _).mono rfl)
    | (with_reducible apply Keeps.ite <;> intro _)
    | (with_reducible apply Keeps.via setTok_keeps)
    | (with_reducible apply Keeps.via anaRefresh_keeps)
    | (with_reducible apply Keeps.via dropToken_keeps)
    | (with_reducible apply Keeps.via loseToken_keeps)
    | (with_reducible apply Keeps.via refuse_keeps)
    | (with_reducible intro)
    | split
    | (dsimp -proj only)

theorem handoverRestart_keeps {s : State} :
    Keeps [.now, .regs, .mem, .bad, .pwr, .bring, .flt, .mbx, .fences, .snaps, .grants, .pair, .pins, .pcie, .desc, .clk, .pa, .head, .pool, .fs, .memc, .fl, .tier, .red, .volu, .host, .spdm, .boot, .mot, .therm, .outbox] s (handoverRestart s) := by
  unfold handoverRestart
  try dsimp -proj only
  repeat' first
    | exact (rfl : _ = true)
    | (with_reducible exact Keeps.refl _ _)
    | assumption
    | (with_reducible exact (Keeps.refl _ _).mono rfl)
    | (with_reducible apply Keeps.via send_keeps)
    | (with_reducible apply Keeps.via spnCoast_keeps)
    | (with_reducible apply Keeps.via enterReset_keeps)
    | (with_reducible apply Keeps.via tryBoot_keeps)
    | (with_reducible intro)
    | (dsimp -proj only)

theorem gaveToken_keeps {s : State} :
    Keeps [.now, .regs, .mem, .bad, .pwr, .bring, .flt, .mbx, .fences, .snaps, .grants, .pair, .pins, .pcie, .desc, .journal, .clk, .pa, .head, .pool, .fs, .memc, .fl, .tier, .red, .volu, .host, .spdm, .boot, .mot, .therm, .outbox, .nvFaultLog, .nvLogNext, .nvLastGood] s (gaveToken s) := by
  unfold gaveToken
  try dsimp -proj only
  repeat' first
    | exact (rfl : _ = true)
    | (with_reducible exact Keeps.refl _ _)
    | assumption
    | (with_reducible exact (Keeps.refl _ _).mono rfl)
    | (with_reducible apply Keeps.ite <;> intro _)
    | (with_reducible apply Keeps.via enterFull_keeps)
    | (with_reducible apply Keeps.via handoverRestart_keeps)
    | (with_reducible intro)
    | split
    | (dsimp -proj only)

theorem speedShow_keeps {v : Int} {s : State} :
    Keeps [.regs, .mot] s (speedShow v s) := by
  unfold speedShow
  try dsimp -proj only
  repeat' first
    | exact (rfl : _ = true)
    | (with_reducible exact Keeps.refl _ _)
    | assumption
    | (with_reducible exact (Keeps.refl _ _).mono rfl)
    | (with_reducible apply Keeps.via setF_keeps)
    | (with_reducible apply Keeps.via setB_keeps)
    | (with_reducible apply Keeps.via updSpn_keeps)
    | (with_reducible intro)
    | (dsimp -proj only)

theorem brakeLimit_keeps {u : Int} {s : State} :
    Keeps [.free] s (brakeLimit u s).2 := by
  unfold brakeLimit
  try dsimp -proj only
  repeat' first
    | exact (rfl : _ = true)
    | (with_reducible exact Keeps.refl _ _)
    | assumption
    | (with_reducible exact (Keeps.refl _ _).mono rfl)
    | (with_reducible apply Keeps.ite <;> intro _)
    | (with_reducible apply Keeps.via takeFree_keeps)
    | (with_reducible intro)
    | split
    | (dsimp only)

theorem speedLoop_keeps {v : Int} {s : State} :
    Keeps [.regs, .free, .mbx, .mot] s (speedLoop v s).2 := by
  unfold speedLoop
  try dsimp -proj only
  repeat' first
    | exact (rfl : _ = true)
    | (with_reducible exact Keeps.refl _ _)
    | assumption
    | (with_reducible exact (Keeps.refl _ _).mono rfl)
    | (with_reducible apply Keeps.via loopRun_keeps)
    | (with_reducible apply Keeps.via sampleBegin_keeps)
    | (with_reducible apply Keeps.via updSpn_keeps)
    | (with_reducible apply Keeps.via brakeLimit_keeps)
    | (with_reducible intro)
    | (dsimp only)

theorem seedSections_keeps {s : State} :
    Keeps [.mot] s (seedSections s) := by
  unfold seedSections
  try dsimp -proj only
  repeat' first
    | exact (rfl : _ = true)
    | (with_reducible exact Keeps.refl _ _)
    | assumption
    | (with_reducible exact (Keeps.refl _ _).mono rfl)
    | (with_reducible apply Keeps.via updSpn_keeps)
    | (with_reducible intro)
    | (dsimp -proj only)

theorem masterSample_keeps {v : Int} {s : State} :
    Keeps [.regs, .free, .mbx, .pair, .mot, .outbox] s (masterSample v s) := by
  unfold masterSample
  try dsimp -proj only
  repeat' first
    | exact (rfl : _ = true)
    | (with_reducible exact Keeps.refl _ _)
    | assumption
    | (with_reducible exact (Keeps.refl _ _).mono rfl)
    | (with_reducible apply Keeps.ite <;> intro _)
    | (with_reducible apply Keeps.via nalSend_keeps)
    | (with_reducible apply Keeps.via updPair_keeps)
    | (with_reducible apply Keeps.via speedLoop_keeps)
    | (with_reducible intro)
    | split
    | (dsimp -proj only)

theorem followSample_keeps {v : Int} {s : State} :
    Keeps [.regs, .free, .mbx, .pair, .mot, .outbox] s (followSample v s) := by
  unfold followSample
  try dsimp -proj only
  repeat' first
    | exact (rfl : _ = true)
    | (with_reducible exact Keeps.refl _ _)
    | assumption
    | (with_reducible exact (Keeps.refl _ _).mono rfl)
    | (with_reducible apply Keeps.ite <;> intro _)
    | (with_reducible apply Keeps.via setF_keeps)
    | (with_reducible apply Keeps.via nalSend_keeps)
    | (with_reducible apply Keeps.via updPair_keeps)
    | (with_reducible apply Keeps.via updSpn_keeps)
    | (with_reducible apply Keeps.via speedLoop_keeps)
    | (with_reducible apply Keeps.via seedSections_keeps)
    | (with_reducible intro)
    | split
    | (dsimp -proj only)

end Sys2Proof.Machine
end

