-- ==== Sys2Proof/Laws/KeepModes.lean ====
section
/-! SUPPORT. What each operation of Machine/Modes.lean keeps (`Keeps`). -/

set_option Elab.async false

namespace Sys2Proof.Machine

theorem modeRow_keeps {wp : List Part} {m : Nat} {t : Nat} {f : MbxCmd → State → State × Option MbxResult} {s : State} (h_f : ∀ q0 q1, Keeps wp q1 (f q0 q1).1) (hwp : within wp [.mbx] = true) :
    Keeps wp s (modeRow m t f s) := by
  unfold modeRow
  try dsimp -proj only
  repeat' first
    | exact (rfl : _ = true)
    | (with_reducible exact Keeps.refl _ _)
    | assumption
    | exact within_contains hwp rfl
    | exact within_trans hwp rfl
    | (with_reducible exact (Keeps.refl _ _).mono rfl)
    | (with_reducible apply Keeps.ite <;> intro _)
    | (with_reducible apply Keeps.trans ?_ (mbxRow_keeps ?_ ?_))
    | (with_reducible apply Keeps.via answer_keeps)
    | (with_reducible apply Keeps.trans ?_ (h_f _ _))
    | (with_reducible intro)
    | split
    | (dsimp -proj only)

theorem setTarget_keeps {t : Option Nat} {s : State} :
    Keeps [.pwr] s (setTarget t s) := by
  unfold setTarget
  try dsimp -proj only
  repeat' first
    | exact (rfl : _ = true)
    | (with_reducible exact Keeps.refl _ _)
    | assumption
    | (with_reducible exact (Keeps.refl _ _).mono rfl)
    | (with_reducible apply Keeps.via updPwr_keeps)
    | (with_reducible intro)
    | (dsimp -proj only)

theorem soloStart_keeps {s : State} :
    Keeps [.regs, .pwr, .bring, .flt, .mbx, .grants, .pair, .pins, .pcie, .journal, .clk, .fs, .tier, .mot, .outbox, .nvFaultLog, .nvLogNext] s (soloStart s) := by
  unfold soloStart
  try dsimp -proj only
  repeat' first
    | exact (rfl : _ = true)
    | (with_reducible exact Keeps.refl _ _)
    | assumption
    | (with_reducible exact (Keeps.refl _ _).mono rfl)
    | (with_reducible apply Keeps.via setF_keeps)
    | (with_reducible apply Keeps.via updPair_keeps)
    | (with_reducible apply Keeps.via fenceStep_keeps)
    | (with_reducible intro)
    | (dsimp -proj only)

theorem fallowBands_keeps {s : State} :
    Keeps [.regs, .mem, .bad, .free, .pwr, .bring, .flt, .mbx, .grants, .pair, .pins, .pcie, .journal, .clk, .fs, .memc, .fl, .tier, .host, .mot, .outbox, .nvFaultLog, .nvLogNext] s (fallowBands s) := by
  unfold fallowBands
  try dsimp -proj only
  repeat' first
    | (with_reducible apply Keeps.forN)
    | exact (rfl : _ = true)
    | (with_reducible exact Keeps.refl _ _)
    | assumption
    | (with_reducible exact (Keeps.refl _ _).mono rfl)
    | (with_reducible apply Keeps.ite <;> intro _)
    | (with_reducible apply Keeps.via wakeRequest_keeps)
    | (with_reducible apply Keeps.via diskFail_keeps)
    | (with_reducible intro)
    | split
    | (dsimp -proj only)

theorem wakeLadder_keeps {s : State} :
    Keeps [.regs, .head] s (wakeLadder s) := by
  unfold wakeLadder
  try dsimp -proj only
  repeat' first
    | (with_reducible apply Keeps.foldl)
    | exact (rfl : _ = true)
    | (with_reducible exact Keeps.refl _ _)
    | assumption
    | (with_reducible exact (Keeps.refl _ _).mono rfl)
    | (with_reducible apply Keeps.via setF_keeps)
    | (with_reducible apply Keeps.via updHead_keeps)
    | (with_reducible intro)
    | (dsimp -proj only)

theorem firstService_keeps {t : Nat} {s : State} :
    Keeps [.regs, .boot, .nvSup, .nvCtl, .nvLastGood] s (firstService t s) := by
  unfold firstService
  try dsimp -proj only
  repeat' first
    | exact (rfl : _ = true)
    | (with_reducible exact Keeps.refl _ _)
    | assumption
    | (with_reducible exact (Keeps.refl _ _).mono rfl)
    | (with_reducible apply Keeps.ite <;> intro _)
    | (with_reducible apply Keeps.via confirmTrials_keeps)
    | (with_reducible apply Keeps.via recordBoot_keeps)
    | (with_reducible intro)
    | split
    | (dsimp -proj only)

theorem drainStart_keeps {peers : List Nat} {s : State} :
    Keeps [.regs, .mem, .pwr, .bring, .flt, .mbx, .grants, .pair, .pins, .pcie, .journal, .clk, .fs, .volu, .host, .mot, .outbox, .nvFaultLog, .nvLogNext] s (drainStart peers s) := by
  unfold drainStart
  try dsimp -proj only
  repeat' first
    | exact (rfl : _ = true)
    | (with_reducible exact Keeps.refl _ _)
    | assumption
    | (with_reducible exact (Keeps.refl _ _).mono rfl)
    | (with_reducible apply Keeps.ite <;> intro _)
    | (with_reducible apply Keeps.via setF_keeps)
    | (with_reducible apply Keeps.via tellStep_keeps)
    | (with_reducible apply Keeps.via anaRefresh_keeps)
    | (with_reducible apply Keeps.via updDrain_keeps)
    | (with_reducible apply Keeps.via drainNext_keeps)
    | (with_reducible intro)
    | split
    | (dsimp -proj only)

theorem drainCancel_keeps {s : State} :
    Keeps [.regs, .mem, .pwr, .bring, .flt, .mbx, .grants, .pair, .pins, .pcie, .journal, .clk, .fs, .volu, .host, .mot, .outbox, .nvFaultLog, .nvLogNext] s (drainCancel s) := by
  unfold drainCancel
  try dsimp -proj only
  repeat' first
    | exact (rfl : _ = true)
    | (with_reducible exact Keeps.refl _ _)
    | assumption
    | (with_reducible exact (Keeps.refl _ _).mono rfl)
    | (with_reducible apply Keeps.via setF_keeps)
    | (with_reducible apply Keeps.via updDrain_keeps)
    | (with_reducible apply Keeps.via drainReturn_keeps)
    | (with_reducible apply Keeps.via setTarget_keeps)
    | (with_reducible intro)
    | (dsimp -proj only)

theorem yieldTo_keeps {s : State} :
    Keeps [.regs, .pwr, .mbx, .volu, .mot] s (yieldTo s) := by
  unfold yieldTo
  try dsimp -proj only
  repeat' first
    | exact (rfl : _ = true)
    | (with_reducible exact Keeps.refl _ _)
    | assumption
    | (with_reducible exact (Keeps.refl _ _).mono rfl)
    | (with_reducible apply Keeps.via setF_keeps)
    | (with_reducible apply Keeps.via mbxFinish_keeps)
    | (with_reducible apply Keeps.via loadAll_keeps)
    | (with_reducible apply Keeps.via updDrain_keeps)
    | (with_reducible apply Keeps.via setTarget_keeps)
    | (with_reducible intro)
    | (dsimp -proj only)

end Sys2Proof.Machine
end

