-- ==== Sys2Proof/Laws/KeepSpindle.lean ====
section
/-! SUPPORT. What each operation of Machine/Spindle.lean keeps (`Keeps`). -/

set_option Elab.async false

namespace Sys2Proof.Machine

theorem motSpindle_keeps {wp : List Part} {f : MbxCmd → State → State × Option MbxResult} {c : MbxCmd} {s : State} (h_f : ∀ q0 q1, Keeps wp q1 (f q0 q1).1) (hwp : within wp [.regs] = true) :
    Keeps wp s (motSpindle f c s).1 := by
  unfold motSpindle
  try dsimp -proj only
  repeat' first
    | exact (rfl : _ = true)
    | (with_reducible exact Keeps.refl _ _)
    | assumption
    | exact within_contains hwp rfl
    | exact within_trans hwp rfl
    | (with_reducible exact (Keeps.refl _ _).mono rfl)
    | (with_reducible apply Keeps.ite <;> intro _)
    | (with_reducible apply Keeps.via setF_keeps)
    | (with_reducible apply Keeps.via answer_keeps)
    | (with_reducible apply Keeps.trans ?_ (h_f _ _))
    | (with_reducible intro)
    | split
    | (dsimp only)

theorem spnShow_keeps {rpm : Nat} {back : Bool} {s : State} :
    Keeps [.regs] s (spnShow rpm back s) := by
  unfold spnShow
  try dsimp -proj only
  repeat' first
    | exact (rfl : _ = true)
    | (with_reducible exact Keeps.refl _ _)
    | assumption
    | (with_reducible exact (Keeps.refl _ _).mono rfl)
    | (with_reducible apply Keeps.via setF_keeps)
    | (with_reducible apply Keeps.via setB_keeps)
    | (with_reducible intro)
    | (dsimp -proj only)

theorem spnForward_keeps {rpm : Nat} {s : State} :
    Keeps [.regs, .mbx, .pair, .mot] s (spnForward rpm s) := by
  unfold spnForward
  try dsimp -proj only
  repeat' first
    | exact (rfl : _ = true)
    | (with_reducible exact Keeps.refl _ _)
    | assumption
    | (with_reducible exact (Keeps.refl _ _).mono rfl)
    | (with_reducible apply Keeps.ite <;> intro _)
    | (with_reducible apply Keeps.via spnFinish_keeps)
    | (with_reducible apply Keeps.via spnCatch_keeps)
    | (with_reducible apply Keeps.via spnAlign_keeps)
    | (with_reducible intro)
    | split
    | (dsimp -proj only)

theorem spnFailed_keeps {s : State} :
    Keeps [.regs, .mem, .bad, .free, .pwr, .bring, .flt, .mbx, .grants, .pair, .pins, .pcie, .journal, .clk, .fs, .memc, .fl, .tier, .host, .mot, .outbox, .nvFaultLog, .nvLogNext] s (spnFailed s) := by
  unfold spnFailed
  try dsimp -proj only
  repeat' first
    | (with_reducible apply Keeps.forN)
    | exact (rfl : _ = true)
    | (with_reducible exact Keeps.refl _ _)
    | assumption
    | (with_reducible exact (Keeps.refl _ _).mono rfl)
    | (with_reducible apply Keeps.ite <;> intro _)
    | (with_reducible apply Keeps.via setF_keeps)
    | (with_reducible apply Keeps.via mbxFinish_keeps)
    | (with_reducible apply Keeps.via diskFail_keeps)
    | (dsimp -proj only [keepsMk]; with_reducible apply KeepsMk.upd_pwr)
    | (with_reducible intro)
    | split
    | (dsimp -proj only)

end Sys2Proof.Machine
end

