-- ==== Sys2Proof/Laws/KeepRegOps.lean ====
section
/-! SUPPORT. What each operation of Machine/RegOps.lean keeps (`Keeps`). -/

set_option Elab.async false

namespace Sys2Proof.Machine

theorem pulse_keeps {wp : List Part} {w : Nat} {i : Nat} {f : State → State} {s : State} (h_f : ∀ q0, Keeps wp q0 (f q0)) (hwp : within wp [] = true) :
    Keeps wp s (pulse w i f s) := by
  unfold pulse
  try dsimp -proj only
  repeat' first
    | exact (rfl : _ = true)
    | (with_reducible exact Keeps.refl _ _)
    | assumption
    | exact within_contains hwp rfl
    | exact within_trans hwp rfl
    | (with_reducible exact (Keeps.refl _ _).mono rfl)
    | (with_reducible apply Keeps.ite <;> intro _)
    | (with_reducible apply Keeps.trans ?_ (h_f _))
    | (with_reducible intro)
    | split
    | (dsimp -proj only)

theorem supRegWrite_keeps {a : Nat} {w : Word} {s : State} :
    Keeps [.regs, .pwr] s (supRegWrite a w s) := by
  unfold supRegWrite
  try dsimp -proj only
  repeat' first
    | exact (rfl : _ = true)
    | (with_reducible exact Keeps.refl _ _)
    | assumption
    | (with_reducible exact (Keeps.refl _ _).mono rfl)
    | (with_reducible apply Keeps.ite <;> intro _)
    | (with_reducible apply Keeps.via updPwr_keeps)
    | (with_reducible apply Keeps.via plainWrite_keeps)
    | (with_reducible apply Keeps.trans ?_ (pulse_keeps ?_ ?_))
    | (with_reducible intro)
    | split
    | (dsimp -proj only)

theorem mbxRegWrite_keeps {a : Nat} {w : Word} {s : State} :
    Keeps [.regs, .mem, .bad, .free, .pwr, .bring, .flt, .mbx, .fences, .grants, .pins, .pcie, .journal, .clk, .fs, .memc, .host, .mot, .outbox, .nvFaultLog, .nvLogNext] s (mbxRegWrite a w s) := by
  unfold mbxRegWrite
  try dsimp -proj only
  repeat' first
    | exact (rfl : _ = true)
    | (with_reducible exact Keeps.refl _ _)
    | assumption
    | (with_reducible exact (Keeps.refl _ _).mono rfl)
    | (with_reducible apply Keeps.via mbxResetTo_keeps)
    | (with_reducible apply Keeps.via doorbell_keeps)
    | (with_reducible apply Keeps.via release_keeps)
    | (with_reducible apply Keeps.via plainWrite_keeps)
    | (with_reducible apply Keeps.trans ?_ (pulse_keeps ?_ ?_))
    | (with_reducible refine Keeps.of_fst (by assumption) ?_)
    | (with_reducible refine Keeps.of_snd (by assumption) ?_)
    | (with_reducible intro)
    | split
    | (dsimp -proj only)

theorem clkRegWrite_keeps {p : Path} {env : RegEnv} {a : Nat} {w : Word} {s : State} :
    Keeps [.regs, .free, .flt, .mbx, .snaps, .pins, .clk, .pa, .outbox] s (clkRegWrite p env a w s) := by
  unfold clkRegWrite
  try dsimp -proj only
  repeat' first
    | exact (rfl : _ = true)
    | (with_reducible exact Keeps.refl _ _)
    | assumption
    | (with_reducible exact (Keeps.refl _ _).mono rfl)
    | (with_reducible apply Keeps.ite <;> intro _)
    | (with_reducible apply Keeps.via pllStore_keeps)
    | (with_reducible apply Keeps.via sscStore_keeps)
    | (with_reducible apply Keeps.via plainWrite_keeps)
    | (with_reducible apply Keeps.via paceLowRst_keeps)
    | (with_reducible apply Keeps.via islWrite_keeps)
    | (with_reducible apply Keeps.trans ?_ (pulse_keeps ?_ ?_))
    | (with_reducible refine Keeps.of_fst (by assumption) ?_)
    | (with_reducible refine Keeps.of_snd (by assumption) ?_)
    | (with_reducible intro)
    | split
    | (dsimp -proj only)

theorem zoneLoadedWrite_keeps {h : Nat} {a : Nat} {w : Word} {s : State} :
    Keeps [.regs, .head, .fs] s (zoneLoadedWrite h a w s) := by
  unfold zoneLoadedWrite
  try dsimp -proj only
  repeat' first
    | exact (rfl : _ = true)
    | (with_reducible exact Keeps.refl _ _)
    | assumption
    | (with_reducible exact (Keeps.refl _ _).mono rfl)
    | (with_reducible apply Keeps.ite <;> intro _)
    | (with_reducible apply Keeps.via updHead_keeps)
    | (with_reducible apply Keeps.via updFs_keeps)
    | (with_reducible apply Keeps.via plainWrite_keeps)
    | (with_reducible intro)
    | split
    | (dsimp -proj only)

theorem hcRegWrite_keeps {p : Path} {a : Nat} {w : Word} {s : State} :
    Keeps [.regs, .pa, .head, .fs, .outbox] s (hcRegWrite p a w s) := by
  unfold hcRegWrite
  try dsimp -proj only
  repeat' first
    | (with_reducible apply Keeps.forN)
    | exact (rfl : _ = true)
    | (with_reducible exact Keeps.refl _ _)
    | assumption
    | (with_reducible exact (Keeps.refl _ _).mono rfl)
    | (with_reducible apply Keeps.ite <;> intro _)
    | (with_reducible apply Keeps.via setF_keeps)
    | (with_reducible apply Keeps.via paSend_keeps)
    | (with_reducible apply Keeps.via hcCommit_keeps)
    | (with_reducible apply Keeps.via plainWrite_keeps)
    | (with_reducible apply Keeps.trans ?_ (pulse_keeps ?_ ?_))
    | (with_reducible apply Keeps.via zoneLoadedWrite_keeps)
    | (with_reducible refine Keeps.of_fst (by assumption) ?_)
    | (with_reducible refine Keeps.of_snd (by assumption) ?_)
    | (with_reducible intro)
    | split
    | (dsimp -proj only)

theorem fsRegWrite_keeps {a : Nat} {w : Word} {s : State} :
    Keeps [.regs, .mem, .bad, .free, .pwr, .bring, .flt, .mbx, .grants, .pair, .pins, .pcie, .journal, .clk, .pa, .head, .fs, .memc, .fl, .tier, .host, .mot, .outbox, .nvFaultLog, .nvLogNext] s (fsRegWrite a w s) := by
  unfold fsRegWrite
  try dsimp -proj only
  repeat' first
    | exact (rfl : _ = true)
    | (with_reducible exact Keeps.refl _ _)
    | assumption
    | (with_reducible exact (Keeps.refl _ _).mono rfl)
    | (with_reducible apply Keeps.ite <;> intro _)
    | (with_reducible apply Keeps.via zoneCommit_keeps)
    | (with_reducible apply Keeps.via fsResume_keeps)
    | (with_reducible apply Keeps.via fsHalt_keeps)
    | (with_reducible apply Keeps.via trcFreeze_keeps)
    | (with_reducible apply Keeps.via plainWrite_keeps)
    | (with_reducible apply Keeps.trans ?_ (pulse_keeps ?_ ?_))
    | (with_reducible intro)
    | split
    | (dsimp -proj only)

theorem spnCtlWrite_keeps {w : Nat} {s : State} {s1 : State} :
    Keeps [.regs, .mbx, .mot] s1 (spnCtlWrite w s s1) := by
  unfold spnCtlWrite
  try dsimp -proj only
  repeat' first
    | exact (rfl : _ = true)
    | (with_reducible exact Keeps.refl _ _)
    | assumption
    | (with_reducible exact (Keeps.refl _ _).mono rfl)
    | (with_reducible apply Keeps.ite <;> intro _)
    | (with_reducible apply Keeps.via updSpn_keeps)
    | (with_reducible apply Keeps.via spnCoast_keeps)
    | (with_reducible apply Keeps.via spnStart_keeps)
    | (with_reducible apply Keeps.via spnStop_keeps)
    | (with_reducible apply Keeps.via spnFinish_keeps)
    | (with_reducible apply Keeps.trans ?_ (pulse_keeps ?_ ?_))
    | (with_reducible intro)
    | split
    | (dsimp -proj only)

theorem vcmCtlWrite_keeps {a : Nat} {w : Nat} {s : State} {s1 : State} :
    Keeps [.regs, .mot] s1 (vcmCtlWrite a w s s1) := by
  unfold vcmCtlWrite
  try dsimp -proj only
  repeat' first
    | exact (rfl : _ = true)
    | (with_reducible exact Keeps.refl _ _)
    | assumption
    | (with_reducible exact (Keeps.refl _ _).mono rfl)
    | (with_reducible apply Keeps.ite <;> intro _)
    | (with_reducible apply Keeps.via retract_keeps)
    | (with_reducible apply Keeps.via loadHeads_keeps)
    | (with_reducible apply Keeps.via unloadHeads_keeps)
    | (with_reducible apply Keeps.trans ?_ (pulse_keeps ?_ ?_))
    | (with_reducible intro)
    | split
    | (dsimp -proj only)

theorem fanCtlWrite_keeps {f : Nat} {back : Nat} {w : Nat} {s : State} {s1 : State} :
    Keeps [.regs, .mot] s1 (fanCtlWrite f back w s s1) := by
  unfold fanCtlWrite
  try dsimp -proj only
  repeat' first
    | exact (rfl : _ = true)
    | (with_reducible exact Keeps.refl _ _)
    | assumption
    | (with_reducible exact (Keeps.refl _ _).mono rfl)
    | (with_reducible apply Keeps.ite <;> intro _)
    | (with_reducible apply Keeps.via updFan_keeps)
    | (with_reducible apply Keeps.via fanStart_keeps)
    | (with_reducible apply Keeps.via fanStop_keeps)
    | (with_reducible intro)
    | split
    | (dsimp -proj only)

theorem motRegWrite_keeps {env : RegEnv} {a : Nat} {w : Word} {s : State} :
    Keeps [.regs, .mbx, .mot] s (motRegWrite env a w s) := by
  unfold motRegWrite
  try dsimp -proj only
  repeat' first
    | exact (rfl : _ = true)
    | (with_reducible exact Keeps.refl _ _)
    | assumption
    | (with_reducible exact (Keeps.refl _ _).mono rfl)
    | (with_reducible apply Keeps.ite <;> intro _)
    | (with_reducible apply Keeps.via setF_keeps)
    | (with_reducible apply Keeps.via swapReq_keeps)
    | (with_reducible apply Keeps.via coefStore_keeps)
    | (with_reducible apply Keeps.via entryStore_keeps)
    | (with_reducible apply Keeps.via plainWrite_keeps)
    | (with_reducible apply Keeps.trans ?_ (pulse_keeps ?_ ?_))
    | (with_reducible apply Keeps.via spnCtlWrite_keeps)
    | (with_reducible apply Keeps.via vcmCtlWrite_keeps)
    | (with_reducible apply Keeps.via fanCtlWrite_keeps)
    | (with_reducible refine Keeps.of_fst (by assumption) ?_)
    | (with_reducible refine Keeps.of_snd (by assumption) ?_)
    | (with_reducible intro)
    | split
    | (dsimp -proj only)

theorem qDbWrite_keeps {q : Nat} {w : Nat} {s : State} :
    Keeps [.regs, .mem, .bad, .free, .flt, .mbx, .pcie, .memc, .host, .outbox, .nvFaultLog, .nvLogNext] s (qDbWrite q w s) := by
  unfold qDbWrite
  try dsimp -proj only
  repeat' first
    | exact (rfl : _ = true)
    | (with_reducible exact Keeps.refl _ _)
    | assumption
    | (with_reducible exact (Keeps.refl _ _).mono rfl)
    | (with_reducible apply Keeps.via sqBell_keeps)
    | (with_reducible apply Keeps.via cqBell_keeps)
    | (with_reducible apply Keeps.via pushTake_keeps)
    | (with_reducible apply Keeps.trans ?_ (pulse_keeps ?_ ?_))
    | (with_reducible intro)
    | (dsimp -proj only)

theorem qRegWrite_keeps {env : RegEnv} {a : Nat} {w : Word} {s : State} :
    Keeps [.regs, .mem, .bad, .free, .pwr, .bring, .flt, .mbx, .grants, .pins, .pcie, .journal, .clk, .fs, .memc, .host, .mot, .outbox, .nvFaultLog, .nvLogNext] s (qRegWrite env a w s) := by
  unfold qRegWrite
  try dsimp -proj only
  repeat' first
    | exact (rfl : _ = true)
    | (with_reducible exact Keeps.refl _ _)
    | assumption
    | (with_reducible exact (Keeps.refl _ _).mono rfl)
    | (with_reducible apply Keeps.via hostPlaces_keeps)
    | (with_reducible apply Keeps.via stopCheck_keeps)
    | (with_reducible apply Keeps.via natStop_keeps)
    | (with_reducible apply Keeps.via natResume_keeps)
    | (with_reducible apply Keeps.via natSkip_keeps)
    | (with_reducible apply Keeps.via plainWrite_keeps)
    | (with_reducible apply Keeps.trans ?_ (pulse_keeps ?_ ?_))
    | (with_reducible apply Keeps.via qDbWrite_keeps)
    | (with_reducible refine Keeps.of_fst (by assumption) ?_)
    | (with_reducible refine Keeps.of_snd (by assumption) ?_)
    | (with_reducible intro)
    | split
    | (dsimp -proj only)

theorem dmaCtlWrite_keeps {n : Nat} {w : Nat} {s : State} :
    Keeps [.regs, .mem, .bad, .free, .pwr, .bring, .flt, .mbx, .grants, .pins, .pcie, .journal, .clk, .fs, .memc, .mot, .outbox, .nvFaultLog, .nvLogNext] s (dmaCtlWrite n w s) := by
  unfold dmaCtlWrite
  try dsimp -proj only
  repeat' first
    | exact (rfl : _ = true)
    | (with_reducible exact Keeps.refl _ _)
    | assumption
    | (with_reducible exact (Keeps.refl _ _).mono rfl)
    | (with_reducible apply Keeps.ite <;> intro _)
    | (with_reducible apply Keeps.via setF_keeps)
    | (with_reducible apply Keeps.via dmaGo_keeps)
    | (with_reducible apply Keeps.via dmaStop_keeps)
    | (with_reducible apply Keeps.via dmaResume_keeps)
    | (with_reducible apply Keeps.via dmaDisable_keeps)
    | (with_reducible apply Keeps.via dmaEnable_keeps)
    | (with_reducible apply Keeps.trans ?_ (pulse_keeps ?_ ?_))
    | (with_reducible intro)
    | split
    | (dsimp -proj only)

theorem dmaRegWrite_keeps {a : Nat} {w : Word} {s : State} :
    Keeps [.regs, .mem, .bad, .free, .pwr, .bring, .flt, .mbx, .grants, .pins, .pcie, .journal, .clk, .fs, .memc, .mot, .outbox, .nvFaultLog, .nvLogNext] s (dmaRegWrite a w s) := by
  unfold dmaRegWrite
  try dsimp -proj only
  repeat' first
    | exact (rfl : _ = true)
    | (with_reducible exact Keeps.refl _ _)
    | assumption
    | (with_reducible exact (Keeps.refl _ _).mono rfl)
    | (with_reducible apply Keeps.ite <;> intro _)
    | (with_reducible apply Keeps.via setF_keeps)
    | (with_reducible apply Keeps.via plainWrite_keeps)
    | (with_reducible apply Keeps.trans ?_ (pulse_keeps ?_ ?_))
    | (with_reducible apply Keeps.via dmaCtlWrite_keeps)
    | (with_reducible refine Keeps.of_fst (by assumption) ?_)
    | (with_reducible refine Keeps.of_snd (by assumption) ?_)
    | (with_reducible intro)
    | split
    | (dsimp -proj only)

theorem tcRegWrite_keeps {a : Nat} {w : Word} {s : State} :
    Keeps [.regs, .mem, .bad, .flt, .pcie, .memc, .outbox, .nvFaultLog, .nvLogNext] s (tcRegWrite a w s).1 := by
  unfold tcRegWrite
  try dsimp -proj only
  repeat' first
    | exact (rfl : _ = true)
    | (with_reducible exact Keeps.refl _ _)
    | assumption
    | (with_reducible exact (Keeps.refl _ _).mono rfl)
    | (with_reducible apply Keeps.ite <;> intro _)
    | (with_reducible apply Keeps.via tcMaint_keeps)
    | (with_reducible apply Keeps.via plainWrite_keeps)
    | (with_reducible intro)
    | split
    | (dsimp only)

theorem storeWrite_keeps {q : Nat} {off : Nat} {w : Word} {s : State} :
    Keeps [.fs] s (storeWrite q off w s) := by
  unfold storeWrite
  try dsimp -proj only
  repeat' first
    | exact (rfl : _ = true)
    | (with_reducible exact Keeps.refl _ _)
    | assumption
    | (with_reducible exact (Keeps.refl _ _).mono rfl)
    | (with_reducible apply Keeps.ite <;> intro _)
    | (with_reducible apply Keeps.via updFs_keeps)
    | (with_reducible intro)
    | split
    | (dsimp -proj only)

theorem winWrite_keeps {x : Win} {w : Word} {s : State} :
    Keeps [.regs, .mem, .fs, .host] s (winWrite x w s) := by
  unfold winWrite
  try dsimp -proj only
  repeat' first
    | exact (rfl : _ = true)
    | (with_reducible exact Keeps.refl _ _)
    | assumption
    | (with_reducible exact (Keeps.refl _ _).mono rfl)
    | (with_reducible apply Keeps.via memWrite_keeps)
    | (with_reducible apply Keeps.via updNat_keeps)
    | (with_reducible apply Keeps.via zoneStore_keeps)
    | (with_reducible apply Keeps.via storeWrite_keeps)
    | (with_reducible refine Keeps.of_fst (by assumption) ?_)
    | (with_reducible refine Keeps.of_snd (by assumption) ?_)
    | (with_reducible intro)
    | split
    | (dsimp -proj only)

theorem regAct_keeps {p : Path} {env : RegEnv} {a : Nat} {w : Word} {s : State} :
    Keeps [.regs, .mem, .bad, .free, .pwr, .bring, .flt, .mbx, .fences, .snaps, .grants, .pair, .pins, .pcie, .journal, .clk, .pa, .head, .pool, .fs, .memc, .fl, .tier, .red, .volu, .host, .spdm, .mot, .outbox, .nvFaultLog, .nvLogNext] s (regAct p env a w s).1 := by
  unfold regAct
  try dsimp -proj only
  repeat' first
    | exact (rfl : _ = true)
    | (with_reducible exact Keeps.refl _ _)
    | assumption
    | (with_reducible exact (Keeps.refl _ _).mono rfl)
    | (with_reducible apply Keeps.ite <;> intro _)
    | (with_reducible apply Keeps.via setF_keeps)
    | (with_reducible apply Keeps.via fillCellar_keeps)
    | (with_reducible apply Keeps.via fillDram_keeps)
    | (with_reducible apply Keeps.via filterClear_keeps)
    | (with_reducible apply Keeps.via hwmReset_keeps)
    | (with_reducible apply Keeps.via plainWrite_keeps)
    | (with_reducible apply Keeps.via portWrite_keeps)
    | (with_reducible apply Keeps.via domReq_keeps)
    | (with_reducible apply Keeps.trans ?_ (pulse_keeps ?_ ?_))
    | (with_reducible apply Keeps.via supRegWrite_keeps)
    | (with_reducible apply Keeps.via mbxRegWrite_keeps)
    | (with_reducible apply Keeps.via clkRegWrite_keeps)
    | (with_reducible apply Keeps.via hcRegWrite_keeps)
    | (with_reducible apply Keeps.via fsRegWrite_keeps)
    | (with_reducible apply Keeps.via motRegWrite_keeps)
    | (with_reducible apply Keeps.via qRegWrite_keeps)
    | (with_reducible apply Keeps.via dmaRegWrite_keeps)
    | (with_reducible apply Keeps.via tcRegWrite_keeps)
    | (with_reducible apply Keeps.via winWrite_keeps)
    | (with_reducible refine Keeps.of_fst (by assumption) ?_)
    | (with_reducible refine Keeps.of_snd (by assumption) ?_)
    | (with_reducible intro)
    | split
    | (dsimp only)

theorem regWrite_keeps {p : Path} {env : RegEnv} {a : Nat} {w : Word} {s : State} {started : Bool} :
    Keeps [.regs, .mem, .bad, .free, .pwr, .bring, .flt, .mbx, .fences, .snaps, .grants, .pair, .pins, .pcie, .journal, .clk, .pa, .head, .pool, .fs, .memc, .fl, .tier, .red, .volu, .host, .spdm, .mot, .outbox, .nvFaultLog, .nvLogNext] s (regWrite p env a w s started).1 := by
  unfold regWrite
  try dsimp -proj only
  repeat' first
    | exact (rfl : _ = true)
    | (with_reducible exact Keeps.refl _ _)
    | assumption
    | (with_reducible exact (Keeps.refl _ _).mono rfl)
    | (with_reducible apply Keeps.ite <;> intro _)
    | (with_reducible apply Keeps.via logViolation_keeps)
    | (with_reducible apply Keeps.via busCheck_keeps)
    | (with_reducible apply Keeps.via regAct_keeps)
    | (with_reducible refine Keeps.of_fst (by assumption) ?_)
    | (with_reducible refine Keeps.of_snd (by assumption) ?_)
    | (with_reducible intro)
    | split
    | (dsimp only)

theorem regRead_keeps {p : Path} {a : Nat} {s : State} {started : Bool} :
    Keeps [.regs, .free, .snaps] s (regRead p a s started).1 := by
  unfold regRead
  try dsimp -proj only
  repeat' first
    | exact (rfl : _ = true)
    | (with_reducible exact Keeps.refl _ _)
    | assumption
    | (with_reducible exact (Keeps.refl _ _).mono rfl)
    | (with_reducible apply Keeps.ite <;> intro _)
    | (with_reducible apply Keeps.via busCheck_keeps)
    | (with_reducible apply Keeps.via plainRead_keeps)
    | (with_reducible refine Keeps.of_fst (by assumption) ?_)
    | (with_reducible refine Keeps.of_snd (by assumption) ?_)
    | (with_reducible intro)
    | split
    | (dsimp only)

theorem islandWait_keeps {p : Path} {a : Nat} {isWr : Bool} {w : Word} {s : State} :
    Keeps [.clk] s (islandWait p a isWr w s) := by
  unfold islandWait
  try dsimp -proj only
  repeat' first
    | exact (rfl : _ = true)
    | (with_reducible exact Keeps.refl _ _)
    | assumption
    | (with_reducible exact (Keeps.refl _ _).mono rfl)
    | (with_reducible apply Keeps.via (updClk_keeps ?_))
    | exact ⟨rfl, rfl⟩
    | exact ⟨setAt_length _ _ _, rfl⟩
    | exact ⟨rfl, setAt_length _ _ _⟩
    | (with_reducible intro)
    | (dsimp -proj only)

theorem busWrite_keeps {p : Path} {env : RegEnv} {a : Nat} {w : Word} {s : State} :
    Keeps [.regs, .mem, .bad, .free, .pwr, .bring, .flt, .mbx, .fences, .snaps, .grants, .pair, .pins, .pcie, .journal, .clk, .pa, .head, .pool, .fs, .memc, .fl, .tier, .red, .volu, .host, .spdm, .mot, .outbox, .nvFaultLog, .nvLogNext] s (busWrite p env a w s) := by
  unfold busWrite
  try dsimp -proj only
  repeat' first
    | exact (rfl : _ = true)
    | (with_reducible exact Keeps.refl _ _)
    | assumption
    | (with_reducible exact (Keeps.refl _ _).mono rfl)
    | (with_reducible apply Keeps.via busAnswer_keeps)
    | (with_reducible apply Keeps.via regWrite_keeps)
    | (with_reducible apply Keeps.via islandWait_keeps)
    | (with_reducible refine Keeps.of_fst (by assumption) ?_)
    | (with_reducible refine Keeps.of_snd (by assumption) ?_)
    | (with_reducible intro)
    | split
    | (dsimp -proj only)

theorem busRead_keeps {p : Path} {a : Nat} {s : State} :
    Keeps [.regs, .free, .snaps, .clk, .outbox] s (busRead p a s) := by
  unfold busRead
  try dsimp -proj only
  repeat' first
    | exact (rfl : _ = true)
    | (with_reducible exact Keeps.refl _ _)
    | assumption
    | (with_reducible exact (Keeps.refl _ _).mono rfl)
    | (with_reducible apply Keeps.via busAnswer_keeps)
    | (with_reducible apply Keeps.via readRefused_keeps)
    | (with_reducible apply Keeps.via regRead_keeps)
    | (with_reducible apply Keeps.via islandWait_keeps)
    | (with_reducible refine Keeps.of_fst (by assumption) ?_)
    | (with_reducible refine Keeps.of_snd (by assumption) ?_)
    | (with_reducible intro)
    | split
    | (dsimp -proj only)

end Sys2Proof.Machine
end

