-- ==== Sys2Proof/Laws/KeepRegisters.lean ====
section
/-! SUPPORT. What each operation of Machine/Registers.lean keeps (`Keeps`). -/

set_option Elab.async false

namespace Sys2Proof.Machine

theorem badRequest_keeps {p : Path} {a : Nat} {isWr : Bool} {s : State} :
    Keeps [.regs, .outbox] s (badRequest p a isWr s) := by
  unfold badRequest
  try dsimp -proj only
  repeat' first
    | exact (rfl : _ = true)
    | (with_reducible exact Keeps.refl _ _)
    | assumption
    | (with_reducible exact (Keeps.refl _ _).mono rfl)
    | (with_reducible apply Keeps.ite <;> intro _)
    | (with_reducible apply Keeps.via busCheck_keeps)
    | (with_reducible apply Keeps.via busAnswer_keeps)
    | (with_reducible apply Keeps.via readRefused_keeps)
    | (with_reducible intro)
    | split
    | (dsimp -proj only)

theorem mbxAgain_keeps {wp : List Part} {m : Nat} {op : Nat} {f : MbxCmd → State → State × Option MbxResult} {s : State} (h_f : ∀ q0 q1, Keeps wp q1 (f q0 q1).1) (hwp : within wp [.mbx] = true) :
    Keeps wp s (mbxAgain m op f s) := by
  unfold mbxAgain
  try dsimp -proj only
  repeat' first
    | (with_reducible rfl)
    | exact (rfl : _ = true)
    | (with_reducible exact Keeps.refl _ _)
    | assumption
    | exact within_contains hwp rfl
    | exact within_trans hwp rfl
    | (with_reducible exact (Keeps.refl _ _).mono rfl)
    | (with_reducible apply Keeps.ite <;> intro _)
    | (with_reducible apply Keeps.trans ?_ (mbxRow_keeps ?_ ?_))
    | (with_reducible apply Keeps.trans ?_ (h_f _ _))
    | (dsimp -proj only [keepsMk]; with_reducible apply KeepsMk.upd_mbx)
    | (with_reducible intro)
    | split
    | (simp [modAt_length]; done)
    | (simp [setAt_length]; done)
    | (simp only [List.length_mapIdx, List.length_map]; done)
    | (simp [MotSt.units, modAt_length, setAt_length]; done)
    | (dsimp -proj only)

theorem keepAt_keeps {m : Nat} {k : Nat} {d : List Byte} {s : State} :
    Keeps [.mbx] s (keepAt m k d s) := by
  unfold keepAt
  try dsimp -proj only
  repeat' first
    | (with_reducible rfl)
    | exact (rfl : _ = true)
    | (with_reducible exact Keeps.refl _ _)
    | assumption
    | (with_reducible exact (Keeps.refl _ _).mono rfl)
    | (dsimp -proj only [keepsMk]; with_reducible apply KeepsMk.upd_mbx)
    | (with_reducible intro)
    | (simp [modAt_length]; done)
    | (simp [setAt_length]; done)
    | (simp only [List.length_mapIdx, List.length_map]; done)
    | (simp [MotSt.units, modAt_length, setAt_length]; done)
    | (dsimp -proj only)

theorem readWords_keeps {m : Fin 16} {c : MbxCmd} {y0 : Nat} {y1 : Nat} {y2 : List Byte} {y3 : State} :
    Keeps [.regs, .free, .mbx, .snaps] y3 (readWords m c y0 y1 y2 y3).1 := by
  fun_induction readWords m c y0 y1 y2 y3
  all_goals try dsimp -proj only
  repeat' first
    | exact (rfl : _ = true)
    | (with_reducible exact Keeps.refl _ _)
    | assumption
    | (with_reducible apply Keeps.trans; rotate_left; assumption)
    | (with_reducible exact (Keeps.refl _ _).mono rfl)
    | (with_reducible apply Keeps.ite <;> intro _)
    | (with_reducible apply Keeps.via regRead_keeps)
    | (with_reducible apply Keeps.via keepAt_keeps)
    | (with_reducible refine Keeps.of_fst (by assumption) ?_)
    | (with_reducible refine Keeps.of_snd (by assumption) ?_)
    | (with_reducible intro)
    | split
    | (dsimp only)
    | (dsimp -proj +zetaDelta only)

theorem writeWords_keeps {m : Fin 16} {c : MbxCmd} {env : RegEnv} {y0 : List Word} {y1 : Nat} {y2 : State} :
    Keeps [.regs, .mem, .bad, .free, .pwr, .bring, .flt, .mbx, .fences, .snaps, .grants, .pair, .pins, .pcie, .journal, .clk, .pa, .head, .pool, .fs, .memc, .fl, .tier, .red, .volu, .host, .spdm, .mot, .outbox, .nvFaultLog, .nvLogNext] y2 (writeWords m c env y0 y1 y2).1 := by
  fun_induction writeWords m c env y0 y1 y2
  all_goals try dsimp -proj only
  repeat' first
    | exact (rfl : _ = true)
    | (with_reducible exact Keeps.refl _ _)
    | assumption
    | (with_reducible apply Keeps.trans; rotate_left; assumption)
    | (with_reducible exact (Keeps.refl _ _).mono rfl)
    | (with_reducible apply Keeps.ite <;> intro _)
    | (with_reducible apply Keeps.via answer_keeps)
    | (with_reducible apply Keeps.via regWrite_keeps)
    | (with_reducible apply Keeps.via keepAt_keeps)
    | (with_reducible refine Keeps.of_fst (by assumption) ?_)
    | (with_reducible refine Keeps.of_snd (by assumption) ?_)
    | (with_reducible intro)
    | split
    | (dsimp only)
    | (dsimp -proj +zetaDelta only)

theorem reachCheck_keeps {a : Nat} {s : State} :
    Keeps [.regs, .mem, .bad, .free, .pwr, .bring, .flt, .mbx, .grants, .pair, .pins, .pcie, .journal, .clk, .pa, .head, .fs, .memc, .fl, .tier, .host, .mot, .outbox, .nvFaultLog, .nvLogNext] s (reachCheck a s) := by
  unfold reachCheck
  try dsimp -proj only
  repeat' first
    | exact (rfl : _ = true)
    | (with_reducible exact Keeps.refl _ _)
    | assumption
    | (with_reducible exact (Keeps.refl _ _).mono rfl)
    | (with_reducible apply Keeps.via machineCheck_keeps)
    | (with_reducible intro)
    | (dsimp -proj only)

end Sys2Proof.Machine
end

