-- ==== Sys2Proof/Laws/KeepThermal.lean ====
section
/-! SUPPORT. What each operation of Machine/Thermal.lean keeps (`Keeps`). -/

set_option Elab.async false

namespace Sys2Proof.Machine

theorem updTherm_keeps {f : ThermSt → ThermSt} {s : State} :
    Keeps [.therm] s (updTherm f s) := by
  unfold updTherm
  try dsimp -proj only
  repeat' first
    | exact (rfl : _ = true)
    | (with_reducible exact Keeps.refl _ _)
    | assumption
    | (with_reducible exact (Keeps.refl _ _).mono rfl)
    | (dsimp -proj only [keepsMk]; with_reducible apply KeepsMk.upd_therm)
    | (with_reducible intro)
    | (dsimp -proj only)

end Sys2Proof.Machine
end

