-- ==== Sys2Proof/Laws/Regs.lean ====
section
/-! SUPPORT. Reads after writes: register words and fields, counters, memory bytes, mailbox records. A write of a register or of a
field gives back the value written and leaves every other register and the disjoint fields of its own alone. -/

set_option Elab.async false

namespace Sys2Proof.Machine

/-! ### Words -/

theorem rd_wr_same {a : Nat} {v : Word} {s : State} (h : RegsWf s) : rd (wr a v s) a = v := smGet_smPut_same h

theorem rd_wr_ne {a b : Nat} {v : Word} {s : State} (h : a ≠ b) : rd (wr a v s) b = rd s b := smGet_smPut_ne h

theorem regsWf_wr {a : Nat} {v : Word} {s : State} (h : RegsWf s) : RegsWf (wr a v s) := wr_keeps.regsWf h

theorem rdN_wr_same {a : Nat} {v : Word} {s : State} (h : RegsWf s) : rdN (wr a v s) a = v.toNat := by
  unfold rdN; rw [rd_wr_same h]

theorem rdN_wr_ne {a b : Nat} {v : Word} {s : State} (h : a ≠ b) : rdN (wr a v s) b = rdN s b := by
  unfold rdN; rw [rd_wr_ne h]

/-! ### Fields -/

theorem bitsAt_lt (x lo n : Nat) : bitsAt x lo n < 2 ^ n := Nat.mod_lt _ (Nat.two_pow_pos n)

/-- A word as the bits above a field, the field, and the bits below it. -/
theorem word_split (x lo n : Nat) : x = x / 2 ^ (lo + n) * 2 ^ (lo + n) + bitsAt x lo n * 2 ^ lo + x % 2 ^ lo := by
  unfold bitsAt
  have h1 : x = 2 ^ lo * (x / 2 ^ lo) + x % 2 ^ lo := (Nat.div_add_mod x (2 ^ lo)).symm
  have h2 : x / 2 ^ lo = 2 ^ n * (x / 2 ^ lo / 2 ^ n) + x / 2 ^ lo % 2 ^ n := (Nat.div_add_mod _ _).symm
  rw [Nat.div_div_eq_div_mul, ← Nat.pow_add] at h2
  calc x = 2 ^ lo * (x / 2 ^ lo) + x % 2 ^ lo := h1
    _ = 2 ^ lo * (2 ^ n * (x / 2 ^ (lo + n)) + x / 2 ^ lo % 2 ^ n) + x % 2 ^ lo := by rw [← h2]
    _ = x / 2 ^ (lo + n) * 2 ^ (lo + n) + x / 2 ^ lo % 2 ^ n * 2 ^ lo + x % 2 ^ lo := by
      rw [Nat.pow_add, Nat.mul_add, ← Nat.mul_assoc]
      congr 2
      · exact Nat.mul_comm _ _
      · exact Nat.mul_comm _ _

/-- A word with a field replaced. -/
theorem putBits_eq (x lo n v : Nat) :
    putBits x lo n v = x / 2 ^ (lo + n) * 2 ^ (lo + n) + v % 2 ^ n * 2 ^ lo + x % 2 ^ lo := by
  unfold putBits
  have h := word_split x lo n
  omega

theorem bitsAt_putBits (x lo n v : Nat) : bitsAt (putBits x lo n v) lo n = v % 2 ^ n := by
  rw [putBits_eq]
  unfold bitsAt
  have h1 : x % 2 ^ lo < 2 ^ lo := Nat.mod_lt _ (Nat.two_pow_pos lo)
  have h2 : x / 2 ^ (lo + n) * 2 ^ (lo + n) + v % 2 ^ n * 2 ^ lo = 2 ^ lo * (2 ^ n * (x / 2 ^ (lo + n)) + v % 2 ^ n) := by
    generalize x / 2 ^ (lo + n) = q
    rw [Nat.pow_add, Nat.mul_add, Nat.mul_comm q, Nat.mul_assoc, Nat.mul_comm (v % 2 ^ n)]
  rw [h2, Nat.mul_add_div (Nat.two_pow_pos lo), Nat.div_eq_of_lt h1, Nat.add_zero, Nat.mul_add_mod, Nat.mod_mod]

theorem putBits_lt {x lo n v : Nat} (hx : x < 2 ^ 32) (h : lo + n ≤ 32) : putBits x lo n v < 2 ^ 32 := by
  rw [putBits_eq]
  have h1 : x % 2 ^ lo < 2 ^ lo := Nat.mod_lt _ (Nat.two_pow_pos lo)
  have h2 : v % 2 ^ n < 2 ^ n := Nat.mod_lt _ (Nat.two_pow_pos n)
  have h3 : v % 2 ^ n * 2 ^ lo + x % 2 ^ lo < 2 ^ (lo + n) := by
    have : v % 2 ^ n * 2 ^ lo + 2 ^ lo ≤ 2 ^ n * 2 ^ lo := by
      rw [← Nat.succ_mul]; exact Nat.mul_le_mul_right _ h2
    rw [Nat.pow_add, Nat.mul_comm (2 ^ lo)]
    omega
  have h4 : x / 2 ^ (lo + n) < 2 ^ (32 - (lo + n)) := by
    rw [Nat.div_lt_iff_lt_mul (Nat.two_pow_pos _), ← Nat.pow_add]
    rwa [Nat.sub_add_cancel h]
  have h5 : x / 2 ^ (lo + n) * 2 ^ (lo + n) + 2 ^ (lo + n) ≤ 2 ^ 32 := by
    have : (x / 2 ^ (lo + n) + 1) * 2 ^ (lo + n) ≤ 2 ^ (32 - (lo + n)) * 2 ^ (lo + n) := Nat.mul_le_mul_right _ h4
    rw [← Nat.pow_add, Nat.sub_add_cancel h, Nat.succ_mul] at this
    exact this
  omega

theorem rdN_lt (s : State) (a : Nat) : rdN s a < 2 ^ 32 := (rd s a).isLt

/-- A field lies within its register. -/
def Fld.ok (f : Fld) : Bool := decide (f.lo + f.width ≤ 32)

theorem rdN_setF_same {f : Fld} {v : Nat} {s : State} (h : RegsWf s) (hf : f.ok = true) :
    rdN (setF f v s) f.addr = putBits (rdN s f.addr) f.lo f.width v := by
  unfold setF
  rw [rdN_wr_same h, BitVec.toNat_ofNat, Nat.mod_eq_of_lt]
  exact putBits_lt (rdN_lt s _) (of_decide_eq_true hf)

/-- A field that has been set reads the value set. -/
theorem getF_setF_same {f : Fld} {v : Nat} {s : State} (h : RegsWf s) (hf : f.ok = true) :
    getF (setF f v s) f = v % 2 ^ f.width := by
  unfold getF
  rw [rdN_setF_same h hf, bitsAt_putBits]

/-- A field of another register keeps its value. -/
theorem getF_setF_ne {f g : Fld} {v : Nat} {s : State} (h : f.addr ≠ g.addr) : getF (setF f v s) g = getF s g := by
  unfold getF setF
  rw [rdN_wr_ne h]

theorem rd_setF_ne {f : Fld} {a v : Nat} {s : State} (h : f.addr ≠ a) : rd (setF f v s) a = rd s a := rd_wr_ne h

theorem bitsAt_putBits_above {x lo n v lo2 n2 : Nat} (h : lo + n ≤ lo2) : bitsAt (putBits x lo n v) lo2 n2 = bitsAt x lo2 n2 := by
  unfold bitsAt
  congr 1
  rw [putBits_eq]
  have e : lo2 = (lo + n) + (lo2 - (lo + n)) := by omega
  rw [e, Nat.pow_add 2 (lo + n), ← Nat.div_div_eq_div_mul, ← Nat.div_div_eq_div_mul]
  congr 1
  have h1 : x % 2 ^ lo < 2 ^ lo := Nat.mod_lt _ (Nat.two_pow_pos lo)
  have h2 : v % 2 ^ n < 2 ^ n := Nat.mod_lt _ (Nat.two_pow_pos n)
  have h3 : v % 2 ^ n * 2 ^ lo + x % 2 ^ lo < 2 ^ (lo + n) := by
    have : v % 2 ^ n * 2 ^ lo + 2 ^ lo ≤ 2 ^ n * 2 ^ lo := by
      rw [← Nat.succ_mul]; exact Nat.mul_le_mul_right _ h2
    rw [Nat.pow_add, Nat.mul_comm (2 ^ lo)]
    omega
  rw [Nat.add_assoc, Nat.mul_comm, Nat.mul_add_div (Nat.two_pow_pos _), Nat.div_eq_of_lt h3, Nat.add_zero]

theorem bitsAt_putBits_below {x lo n v lo2 n2 : Nat} (h : lo2 + n2 ≤ lo) : bitsAt (putBits x lo n v) lo2 n2 = bitsAt x lo2 n2 := by
  have key : ∀ y, bitsAt y lo2 n2 = y % 2 ^ lo / 2 ^ lo2 % 2 ^ n2 := by
    intro y
    unfold bitsAt
    have e : lo = lo2 + (lo - lo2) := by omega
    have hd : 2 ^ n2 ∣ 2 ^ (lo - lo2) := Nat.pow_dvd_pow 2 (by omega)
    rw [e, Nat.pow_add, Nat.mod_mul_right_div_self, Nat.mod_mod_of_dvd _ hd]
  rw [key, key x, putBits_eq]
  have h1 : x % 2 ^ lo < 2 ^ lo := Nat.mod_lt _ (Nat.two_pow_pos lo)
  have e2 : x / 2 ^ (lo + n) * 2 ^ (lo + n) + v % 2 ^ n * 2 ^ lo = 2 ^ lo * (x / 2 ^ (lo + n) * 2 ^ n + v % 2 ^ n) := by
    rw [Nat.mul_add, Nat.pow_add, Nat.mul_comm (2 ^ lo) (2 ^ n), ← Nat.mul_assoc, Nat.mul_comm (2 ^ lo)]
    congr 1
    exact Nat.mul_comm _ _
  rw [e2, Nat.mul_add_mod, Nat.mod_mod]

/-- Two fields share no bit: another register, or other bits of the same one. -/
def Fld.apart (f g : Fld) : Bool := decide (f.addr ≠ g.addr ∨ f.lo + f.width ≤ g.lo ∨ g.lo + g.width ≤ f.lo)

/-- A field that shares no bit with the one set keeps its value. -/
theorem getF_setF_apart {f g : Fld} {v : Nat} {s : State} (h : RegsWf s) (hf : f.ok = true) (ha : f.apart g = true) :
    getF (setF f v s) g = getF s g := by
  by_cases e : f.addr = g.addr
  · have ha := of_decide_eq_true ha
    unfold getF
    rw [← e, rdN_setF_same h hf]
    rcases ha with ha | ha | ha
    · exact absurd e ha
    · exact bitsAt_putBits_above ha
    · exact bitsAt_putBits_below ha
  · exact getF_setF_ne e

theorem regsWf_setF {f : Fld} {v : Nat} {s : State} (h : RegsWf s) : RegsWf (setF f v s) := setF_keeps.regsWf h

/-! ### Memory -/

theorem memByte_put_same {m : List Host.Cell} {a : Nat} {b : Byte} (h : Memory.wf m = true) :
    smGet memDefault (smPut memDefault m a b) a = b := smGet_smPut_same h

/-- A store leaves every byte outside the stored ones alone. -/
theorem memByte_memWrite_out {l : List Byte} {a k : Nat} {s : State} (h : k < a ∨ a + l.length ≤ k) :
    memByte (memWrite a l s) k = memByte s k := by
  have key : ∀ (l : List Byte) (m : List Host.Cell) (a : Nat), k < a ∨ a + l.length ≤ k →
      smGet memDefault (memPutBytes m a l) k = smGet memDefault m k := by
    intro l
    induction l with
    | nil => intro m a _; rfl
    | cons b r ih =>
      intro m a h
      simp only [List.length_cons] at h
      show smGet memDefault (memPutBytes (smPut memDefault m a b) (a + 1) r) k = _
      rw [ih _ _ (by omega), smGet_smPut_ne (by omega)]
  exact key l s.mem a h

/-- A stored byte reads back. -/
theorem memByte_memWrite_in {l : List Byte} {a i : Nat} {s : State} (w : MemWf s) (h : i < l.length) :
    memByte (memWrite a l s) (a + i) = l.getD i 0 := by
  have key : ∀ (l : List Byte) (m : List Host.Cell) (a i : Nat), Memory.wf m = true → i < l.length →
      smGet memDefault (memPutBytes m a l) (a + i) = l.getD i 0 := by
    intro l
    induction l with
    | nil => intro m a i _ h; exact absurd h (Nat.not_lt_zero i)
    | cons b r ih =>
      intro m a i hm h
      show smGet memDefault (memPutBytes (smPut memDefault m a b) (a + 1) r) (a + i) = _
      cases i with
      | zero =>
        have := memByte_memWrite_out (s := { State.reset with mem := smPut memDefault m a b }) (l := r) (a := a + 1) (k := a) (by omega)
        rw [Nat.add_zero]
        refine (show smGet memDefault (memPutBytes (smPut memDefault m a b) (a + 1) r) a = _ from this).trans ?_
        exact smGet_smPut_same hm
      | succ i =>
        have e : a + (i + 1) = (a + 1) + i := by omega
        rw [e, ih _ _ _ (smWf_smPut hm) (by simpa using h)]
        rfl
  exact key l s.mem a i w h

/-! ### Lists of records -/

theorem getD_setAt_same {α : Type} {l : List α} {i : Nat} {x d : α} (h : i < l.length) : (setAt l i x).getD i d = x := by
  induction l generalizing i with
  | nil => exact absurd h (Nat.not_lt_zero i)
  | cons y r ih => cases i with
    | zero => rfl
    | succ i => exact ih (Nat.lt_of_succ_lt_succ h)

theorem getD_modAt_same {α : Type} {l : List α} {i : Nat} {f : α → α} {d : α} (h : i < l.length) :
    (modAt l i f).getD i d = f (l.getD i d) := by
  induction l generalizing i with
  | nil => exact absurd h (Nat.not_lt_zero i)
  | cons y r ih => cases i with
    | zero => rfl
    | succ i => exact ih (Nat.lt_of_succ_lt_succ h)

theorem getD_setAt_ne {α : Type} {l : List α} {i j : Nat} {x d : α} (h : i ≠ j) : (setAt l i x).getD j d = l.getD j d := by
  induction l generalizing i j with
  | nil => rfl
  | cons y r ih => cases i with
    | zero => cases j with
      | zero => exact absurd rfl h
      | succ j => rfl
    | succ i => cases j with
      | zero => rfl
      | succ j => exact ih (fun e => h (congrArg _ e))

theorem getD_modAt_ne {α : Type} {l : List α} {i j : Nat} {f : α → α} {d : α} (h : i ≠ j) : (modAt l i f).getD j d = l.getD j d := by
  induction l generalizing i j with
  | nil => rfl
  | cons y r ih => cases i with
    | zero => cases j with
      | zero => exact absurd rfl h
      | succ j => rfl
    | succ i => cases j with
      | zero => rfl
      | succ j => exact ih (fun e => h (congrArg _ e))

end Sys2Proof.Machine
end

