-- ==== Sys2Proof/Laws/Mbx.lean ====
section
/-! SUPPORT. What a mailbox row does (`mbxRow`): one equation while the mailbox runs the row's command, and what its record holds
afterwards. -/

set_option Elab.async false

namespace Sys2Proof.Machine

theorem mbxRow_runs {m op : Nat} {sel : MbxCmd → Bool} {f : MbxCmd → State → State × Option MbxResult} {s : State}
    (h : mbxRuns s m op) (hs : sel (mbxAt s m).cmd = true) :
    mbxRow m op sel f s =
      { (f (mbxAt s m).cmd (begun m s)).1 with
        mbx := modAt (f (mbxAt s m).cmd (begun m s)).1.mbx m
          (fun y => { y with result := if (f (mbxAt s m).cmd (begun m s)).2.isSome then (f (mbxAt s m).cmd (begun m s)).2 else y.result }) } := by
  unfold mbxRow
  dsimp only
  rw [if_pos ⟨h.1, h.2.1, hs, h.2.2.1, h.2.2.2⟩]
  rfl

theorem begun_at {m : Nat} {s : State} (h : m < s.mbx.length) : mbxAt (begun m s) m = { mbxAt s m with started := true } :=
  getD_modAt_same h

theorem begun_units {m : Nat} {s : State} (h : Units s) : Units (begun m s) := by
  unfold Units begun at *
  simpa [modAt_length] using h

/-- A row that answers gives its command that completion. -/
theorem mbxRow_result {m : Fin 16} {op : Nat} {sel : MbxCmd → Bool} {f : MbxCmd → State → State × Option MbxResult} {s : State}
    {r : MbxResult} (h : mbxRuns s m op) (hs : sel (mbxAt s m).cmd = true)
    (hu : (f (mbxAt s m).cmd (begun m s)).1.mbx.length = 16) (hr : (f (mbxAt s m).cmd (begun m s)).2 = some r) :
    (mbxAt (mbxRow m op sel f s) m).result = some r := by
  rw [mbxRow_runs h hs]
  unfold mbxAt at hu hr ⊢
  dsimp only
  rw [getD_modAt_same (by rw [hu]; exact m.isLt)]
  dsimp only
  rw [hr]
  rfl

end Sys2Proof.Machine
end

