-- ==== Sys2Proof/Laws/Nvme.lean ====
section
/-! SUPPORT. What the row of an NVMe opcode does (`nvRow`) once its controller takes the command. -/

set_option Elab.async false

namespace Sys2Proof.Machine

/-- A row runs its function on the command as taken. -/
theorem nvRow_taken {op : Nat} {admin : Bool} {c x : NvmeCmd} {k : NvCtrl} {s t : State}
    {f : NvmeCmd → NvCtrl → State → State} (h : nvTaken op admin c s = some (x, k, t)) : nvRow op admin c f s = f x k t := by
  unfold nvTaken at h
  unfold nvRow
  generalize hn : nvTakeIf (fun o => decide (o = op)) admin c s = n at h
  match n, h with
  | some (y, u), h =>
    cases hc : ctrlOf u c.ctrl with
    | none => simp [hc] at h
    | some z =>
      simp only [hc, Option.map_some, Option.some.injEq, Prod.mk.injEq] at h
      obtain ⟨rfl, rfl, rfl⟩ := h
      simp only [hc]

end Sys2Proof.Machine
end

