-- ==== Sys2Proof/Laws/State.lean ====
section
/-! SUPPORT. One lemma for each field of State that an update leaves alone, so that no proof unfolds the update. -/

set_option Elab.async false

namespace Sys2Proof.Machine

variable (s : State)

/-! ### `wr` -/

@[simp] theorem wr_now (a : Nat) (v : Word) : (wr a v s).now = s.now := rfl
@[simp] theorem wr_mem (a : Nat) (v : Word) : (wr a v s).mem = s.mem := rfl
@[simp] theorem wr_bad (a : Nat) (v : Word) : (wr a v s).bad = s.bad := rfl
@[simp] theorem wr_free (a : Nat) (v : Word) : (wr a v s).free = s.free := rfl
@[simp] theorem wr_pwr (a : Nat) (v : Word) : (wr a v s).pwr = s.pwr := rfl
@[simp] theorem wr_bring (a : Nat) (v : Word) : (wr a v s).bring = s.bring := rfl
@[simp] theorem wr_nv (a : Nat) (v : Word) : (wr a v s).nv = s.nv := rfl
@[simp] theorem wr_flt (a : Nat) (v : Word) : (wr a v s).flt = s.flt := rfl
@[simp] theorem wr_mbx (a : Nat) (v : Word) : (wr a v s).mbx = s.mbx := rfl
@[simp] theorem wr_fences (a : Nat) (v : Word) : (wr a v s).fences = s.fences := rfl
@[simp] theorem wr_snaps (a : Nat) (v : Word) : (wr a v s).snaps = s.snaps := rfl
@[simp] theorem wr_grants (a : Nat) (v : Word) : (wr a v s).grants = s.grants := rfl
@[simp] theorem wr_pair (a : Nat) (v : Word) : (wr a v s).pair = s.pair := rfl
@[simp] theorem wr_pins (a : Nat) (v : Word) : (wr a v s).pins = s.pins := rfl
@[simp] theorem wr_pcie (a : Nat) (v : Word) : (wr a v s).pcie = s.pcie := rfl
@[simp] theorem wr_desc (a : Nat) (v : Word) : (wr a v s).desc = s.desc := rfl
@[simp] theorem wr_journal (a : Nat) (v : Word) : (wr a v s).journal = s.journal := rfl
@[simp] theorem wr_clk (a : Nat) (v : Word) : (wr a v s).clk = s.clk := rfl
@[simp] theorem wr_pa (a : Nat) (v : Word) : (wr a v s).pa = s.pa := rfl
@[simp] theorem wr_head (a : Nat) (v : Word) : (wr a v s).head = s.head := rfl
@[simp] theorem wr_pool (a : Nat) (v : Word) : (wr a v s).pool = s.pool := rfl
@[simp] theorem wr_fs (a : Nat) (v : Word) : (wr a v s).fs = s.fs := rfl
@[simp] theorem wr_memc (a : Nat) (v : Word) : (wr a v s).memc = s.memc := rfl
@[simp] theorem wr_fl (a : Nat) (v : Word) : (wr a v s).fl = s.fl := rfl
@[simp] theorem wr_tier (a : Nat) (v : Word) : (wr a v s).tier = s.tier := rfl
@[simp] theorem wr_red (a : Nat) (v : Word) : (wr a v s).red = s.red := rfl
@[simp] theorem wr_volu (a : Nat) (v : Word) : (wr a v s).volu = s.volu := rfl
@[simp] theorem wr_host (a : Nat) (v : Word) : (wr a v s).host = s.host := rfl
@[simp] theorem wr_spdm (a : Nat) (v : Word) : (wr a v s).spdm = s.spdm := rfl
@[simp] theorem wr_boot (a : Nat) (v : Word) : (wr a v s).boot = s.boot := rfl
@[simp] theorem wr_mot (a : Nat) (v : Word) : (wr a v s).mot = s.mot := rfl
@[simp] theorem wr_therm (a : Nat) (v : Word) : (wr a v s).therm = s.therm := rfl
@[simp] theorem wr_outbox (a : Nat) (v : Word) : (wr a v s).outbox = s.outbox := rfl
@[simp] theorem wr_pending (a : Nat) (v : Word) : (wr a v s).pending = s.pending := rfl

/-! ### `setF` -/

@[simp] theorem setF_now (f : Fld) (v : Nat) : (setF f v s).now = s.now := rfl
@[simp] theorem setF_mem (f : Fld) (v : Nat) : (setF f v s).mem = s.mem := rfl
@[simp] theorem setF_bad (f : Fld) (v : Nat) : (setF f v s).bad = s.bad := rfl
@[simp] theorem setF_free (f : Fld) (v : Nat) : (setF f v s).free = s.free := rfl
@[simp] theorem setF_pwr (f : Fld) (v : Nat) : (setF f v s).pwr = s.pwr := rfl
@[simp] theorem setF_bring (f : Fld) (v : Nat) : (setF f v s).bring = s.bring := rfl
@[simp] theorem setF_nv (f : Fld) (v : Nat) : (setF f v s).nv = s.nv := rfl
@[simp] theorem setF_flt (f : Fld) (v : Nat) : (setF f v s).flt = s.flt := rfl
@[simp] theorem setF_mbx (f : Fld) (v : Nat) : (setF f v s).mbx = s.mbx := rfl
@[simp] theorem setF_fences (f : Fld) (v : Nat) : (setF f v s).fences = s.fences := rfl
@[simp] theorem setF_snaps (f : Fld) (v : Nat) : (setF f v s).snaps = s.snaps := rfl
@[simp] theorem setF_grants (f : Fld) (v : Nat) : (setF f v s).grants = s.grants := rfl
@[simp] theorem setF_pair (f : Fld) (v : Nat) : (setF f v s).pair = s.pair := rfl
@[simp] theorem setF_pins (f : Fld) (v : Nat) : (setF f v s).pins = s.pins := rfl
@[simp] theorem setF_pcie (f : Fld) (v : Nat) : (setF f v s).pcie = s.pcie := rfl
@[simp] theorem setF_desc (f : Fld) (v : Nat) : (setF f v s).desc = s.desc := rfl
@[simp] theorem setF_journal (f : Fld) (v : Nat) : (setF f v s).journal = s.journal := rfl
@[simp] theorem setF_clk (f : Fld) (v : Nat) : (setF f v s).clk = s.clk := rfl
@[simp] theorem setF_pa (f : Fld) (v : Nat) : (setF f v s).pa = s.pa := rfl
@[simp] theorem setF_head (f : Fld) (v : Nat) : (setF f v s).head = s.head := rfl
@[simp] theorem setF_pool (f : Fld) (v : Nat) : (setF f v s).pool = s.pool := rfl
@[simp] theorem setF_fs (f : Fld) (v : Nat) : (setF f v s).fs = s.fs := rfl
@[simp] theorem setF_memc (f : Fld) (v : Nat) : (setF f v s).memc = s.memc := rfl
@[simp] theorem setF_fl (f : Fld) (v : Nat) : (setF f v s).fl = s.fl := rfl
@[simp] theorem setF_tier (f : Fld) (v : Nat) : (setF f v s).tier = s.tier := rfl
@[simp] theorem setF_red (f : Fld) (v : Nat) : (setF f v s).red = s.red := rfl
@[simp] theorem setF_volu (f : Fld) (v : Nat) : (setF f v s).volu = s.volu := rfl
@[simp] theorem setF_host (f : Fld) (v : Nat) : (setF f v s).host = s.host := rfl
@[simp] theorem setF_spdm (f : Fld) (v : Nat) : (setF f v s).spdm = s.spdm := rfl
@[simp] theorem setF_boot (f : Fld) (v : Nat) : (setF f v s).boot = s.boot := rfl
@[simp] theorem setF_mot (f : Fld) (v : Nat) : (setF f v s).mot = s.mot := rfl
@[simp] theorem setF_therm (f : Fld) (v : Nat) : (setF f v s).therm = s.therm := rfl
@[simp] theorem setF_outbox (f : Fld) (v : Nat) : (setF f v s).outbox = s.outbox := rfl
@[simp] theorem setF_pending (f : Fld) (v : Nat) : (setF f v s).pending = s.pending := rfl

/-! ### `setB` -/

@[simp] theorem setB_now (f : Fld) (b : Bool) : (setB f b s).now = s.now := rfl
@[simp] theorem setB_mem (f : Fld) (b : Bool) : (setB f b s).mem = s.mem := rfl
@[simp] theorem setB_bad (f : Fld) (b : Bool) : (setB f b s).bad = s.bad := rfl
@[simp] theorem setB_free (f : Fld) (b : Bool) : (setB f b s).free = s.free := rfl
@[simp] theorem setB_pwr (f : Fld) (b : Bool) : (setB f b s).pwr = s.pwr := rfl
@[simp] theorem setB_bring (f : Fld) (b : Bool) : (setB f b s).bring = s.bring := rfl
@[simp] theorem setB_nv (f : Fld) (b : Bool) : (setB f b s).nv = s.nv := rfl
@[simp] theorem setB_flt (f : Fld) (b : Bool) : (setB f b s).flt = s.flt := rfl
@[simp] theorem setB_mbx (f : Fld) (b : Bool) : (setB f b s).mbx = s.mbx := rfl
@[simp] theorem setB_fences (f : Fld) (b : Bool) : (setB f b s).fences = s.fences := rfl
@[simp] theorem setB_snaps (f : Fld) (b : Bool) : (setB f b s).snaps = s.snaps := rfl
@[simp] theorem setB_grants (f : Fld) (b : Bool) : (setB f b s).grants = s.grants := rfl
@[simp] theorem setB_pair (f : Fld) (b : Bool) : (setB f b s).pair = s.pair := rfl
@[simp] theorem setB_pins (f : Fld) (b : Bool) : (setB f b s).pins = s.pins := rfl
@[simp] theorem setB_pcie (f : Fld) (b : Bool) : (setB f b s).pcie = s.pcie := rfl
@[simp] theorem setB_desc (f : Fld) (b : Bool) : (setB f b s).desc = s.desc := rfl
@[simp] theorem setB_journal (f : Fld) (b : Bool) : (setB f b s).journal = s.journal := rfl
@[simp] theorem setB_clk (f : Fld) (b : Bool) : (setB f b s).clk = s.clk := rfl
@[simp] theorem setB_pa (f : Fld) (b : Bool) : (setB f b s).pa = s.pa := rfl
@[simp] theorem setB_head (f : Fld) (b : Bool) : (setB f b s).head = s.head := rfl
@[simp] theorem setB_pool (f : Fld) (b : Bool) : (setB f b s).pool = s.pool := rfl
@[simp] theorem setB_fs (f : Fld) (b : Bool) : (setB f b s).fs = s.fs := rfl
@[simp] theorem setB_memc (f : Fld) (b : Bool) : (setB f b s).memc = s.memc := rfl
@[simp] theorem setB_fl (f : Fld) (b : Bool) : (setB f b s).fl = s.fl := rfl
@[simp] theorem setB_tier (f : Fld) (b : Bool) : (setB f b s).tier = s.tier := rfl
@[simp] theorem setB_red (f : Fld) (b : Bool) : (setB f b s).red = s.red := rfl
@[simp] theorem setB_volu (f : Fld) (b : Bool) : (setB f b s).volu = s.volu := rfl
@[simp] theorem setB_host (f : Fld) (b : Bool) : (setB f b s).host = s.host := rfl
@[simp] theorem setB_spdm (f : Fld) (b : Bool) : (setB f b s).spdm = s.spdm := rfl
@[simp] theorem setB_boot (f : Fld) (b : Bool) : (setB f b s).boot = s.boot := rfl
@[simp] theorem setB_mot (f : Fld) (b : Bool) : (setB f b s).mot = s.mot := rfl
@[simp] theorem setB_therm (f : Fld) (b : Bool) : (setB f b s).therm = s.therm := rfl
@[simp] theorem setB_outbox (f : Fld) (b : Bool) : (setB f b s).outbox = s.outbox := rfl
@[simp] theorem setB_pending (f : Fld) (b : Bool) : (setB f b s).pending = s.pending := rfl

/-! ### `satF` -/

@[simp] theorem satF_now (f : Fld) (n : Nat) : (satF f n s).now = s.now := rfl
@[simp] theorem satF_mem (f : Fld) (n : Nat) : (satF f n s).mem = s.mem := rfl
@[simp] theorem satF_bad (f : Fld) (n : Nat) : (satF f n s).bad = s.bad := rfl
@[simp] theorem satF_free (f : Fld) (n : Nat) : (satF f n s).free = s.free := rfl
@[simp] theorem satF_pwr (f : Fld) (n : Nat) : (satF f n s).pwr = s.pwr := rfl
@[simp] theorem satF_bring (f : Fld) (n : Nat) : (satF f n s).bring = s.bring := rfl
@[simp] theorem satF_nv (f : Fld) (n : Nat) : (satF f n s).nv = s.nv := rfl
@[simp] theorem satF_flt (f : Fld) (n : Nat) : (satF f n s).flt = s.flt := rfl
@[simp] theorem satF_mbx (f : Fld) (n : Nat) : (satF f n s).mbx = s.mbx := rfl
@[simp] theorem satF_fences (f : Fld) (n : Nat) : (satF f n s).fences = s.fences := rfl
@[simp] theorem satF_snaps (f : Fld) (n : Nat) : (satF f n s).snaps = s.snaps := rfl
@[simp] theorem satF_grants (f : Fld) (n : Nat) : (satF f n s).grants = s.grants := rfl
@[simp] theorem satF_pair (f : Fld) (n : Nat) : (satF f n s).pair = s.pair := rfl
@[simp] theorem satF_pins (f : Fld) (n : Nat) : (satF f n s).pins = s.pins := rfl
@[simp] theorem satF_pcie (f : Fld) (n : Nat) : (satF f n s).pcie = s.pcie := rfl
@[simp] theorem satF_desc (f : Fld) (n : Nat) : (satF f n s).desc = s.desc := rfl
@[simp] theorem satF_journal (f : Fld) (n : Nat) : (satF f n s).journal = s.journal := rfl
@[simp] theorem satF_clk (f : Fld) (n : Nat) : (satF f n s).clk = s.clk := rfl
@[simp] theorem satF_pa (f : Fld) (n : Nat) : (satF f n s).pa = s.pa := rfl
@[simp] theorem satF_head (f : Fld) (n : Nat) : (satF f n s).head = s.head := rfl
@[simp] theorem satF_pool (f : Fld) (n : Nat) : (satF f n s).pool = s.pool := rfl
@[simp] theorem satF_fs (f : Fld) (n : Nat) : (satF f n s).fs = s.fs := rfl
@[simp] theorem satF_memc (f : Fld) (n : Nat) : (satF f n s).memc = s.memc := rfl
@[simp] theorem satF_fl (f : Fld) (n : Nat) : (satF f n s).fl = s.fl := rfl
@[simp] theorem satF_tier (f : Fld) (n : Nat) : (satF f n s).tier = s.tier := rfl
@[simp] theorem satF_red (f : Fld) (n : Nat) : (satF f n s).red = s.red := rfl
@[simp] theorem satF_volu (f : Fld) (n : Nat) : (satF f n s).volu = s.volu := rfl
@[simp] theorem satF_host (f : Fld) (n : Nat) : (satF f n s).host = s.host := rfl
@[simp] theorem satF_spdm (f : Fld) (n : Nat) : (satF f n s).spdm = s.spdm := rfl
@[simp] theorem satF_boot (f : Fld) (n : Nat) : (satF f n s).boot = s.boot := rfl
@[simp] theorem satF_mot (f : Fld) (n : Nat) : (satF f n s).mot = s.mot := rfl
@[simp] theorem satF_therm (f : Fld) (n : Nat) : (satF f n s).therm = s.therm := rfl
@[simp] theorem satF_outbox (f : Fld) (n : Nat) : (satF f n s).outbox = s.outbox := rfl
@[simp] theorem satF_pending (f : Fld) (n : Nat) : (satF f n s).pending = s.pending := rfl

/-! ### `clearRegs` -/

@[simp] theorem clearRegs_now (p : Nat → Bool) : (clearRegs p s).now = s.now := rfl
@[simp] theorem clearRegs_mem (p : Nat → Bool) : (clearRegs p s).mem = s.mem := rfl
@[simp] theorem clearRegs_bad (p : Nat → Bool) : (clearRegs p s).bad = s.bad := rfl
@[simp] theorem clearRegs_free (p : Nat → Bool) : (clearRegs p s).free = s.free := rfl
@[simp] theorem clearRegs_pwr (p : Nat → Bool) : (clearRegs p s).pwr = s.pwr := rfl
@[simp] theorem clearRegs_bring (p : Nat → Bool) : (clearRegs p s).bring = s.bring := rfl
@[simp] theorem clearRegs_nv (p : Nat → Bool) : (clearRegs p s).nv = s.nv := rfl
@[simp] theorem clearRegs_flt (p : Nat → Bool) : (clearRegs p s).flt = s.flt := rfl
@[simp] theorem clearRegs_mbx (p : Nat → Bool) : (clearRegs p s).mbx = s.mbx := rfl
@[simp] theorem clearRegs_fences (p : Nat → Bool) : (clearRegs p s).fences = s.fences := rfl
@[simp] theorem clearRegs_snaps (p : Nat → Bool) : (clearRegs p s).snaps = s.snaps := rfl
@[simp] theorem clearRegs_grants (p : Nat → Bool) : (clearRegs p s).grants = s.grants := rfl
@[simp] theorem clearRegs_pair (p : Nat → Bool) : (clearRegs p s).pair = s.pair := rfl
@[simp] theorem clearRegs_pins (p : Nat → Bool) : (clearRegs p s).pins = s.pins := rfl
@[simp] theorem clearRegs_pcie (p : Nat → Bool) : (clearRegs p s).pcie = s.pcie := rfl
@[simp] theorem clearRegs_desc (p : Nat → Bool) : (clearRegs p s).desc = s.desc := rfl
@[simp] theorem clearRegs_journal (p : Nat → Bool) : (clearRegs p s).journal = s.journal := rfl
@[simp] theorem clearRegs_clk (p : Nat → Bool) : (clearRegs p s).clk = s.clk := rfl
@[simp] theorem clearRegs_pa (p : Nat → Bool) : (clearRegs p s).pa = s.pa := rfl
@[simp] theorem clearRegs_head (p : Nat → Bool) : (clearRegs p s).head = s.head := rfl
@[simp] theorem clearRegs_pool (p : Nat → Bool) : (clearRegs p s).pool = s.pool := rfl
@[simp] theorem clearRegs_fs (p : Nat → Bool) : (clearRegs p s).fs = s.fs := rfl
@[simp] theorem clearRegs_memc (p : Nat → Bool) : (clearRegs p s).memc = s.memc := rfl
@[simp] theorem clearRegs_fl (p : Nat → Bool) : (clearRegs p s).fl = s.fl := rfl
@[simp] theorem clearRegs_tier (p : Nat → Bool) : (clearRegs p s).tier = s.tier := rfl
@[simp] theorem clearRegs_red (p : Nat → Bool) : (clearRegs p s).red = s.red := rfl
@[simp] theorem clearRegs_volu (p : Nat → Bool) : (clearRegs p s).volu = s.volu := rfl
@[simp] theorem clearRegs_host (p : Nat → Bool) : (clearRegs p s).host = s.host := rfl
@[simp] theorem clearRegs_spdm (p : Nat → Bool) : (clearRegs p s).spdm = s.spdm := rfl
@[simp] theorem clearRegs_boot (p : Nat → Bool) : (clearRegs p s).boot = s.boot := rfl
@[simp] theorem clearRegs_mot (p : Nat → Bool) : (clearRegs p s).mot = s.mot := rfl
@[simp] theorem clearRegs_therm (p : Nat → Bool) : (clearRegs p s).therm = s.therm := rfl
@[simp] theorem clearRegs_outbox (p : Nat → Bool) : (clearRegs p s).outbox = s.outbox := rfl
@[simp] theorem clearRegs_pending (p : Nat → Bool) : (clearRegs p s).pending = s.pending := rfl

/-! ### `cntPut` -/

@[simp] theorem cntPut_now (a v : Nat) (b : Bool) : (cntPut a v b s).now = s.now := rfl
@[simp] theorem cntPut_mem (a v : Nat) (b : Bool) : (cntPut a v b s).mem = s.mem := rfl
@[simp] theorem cntPut_bad (a v : Nat) (b : Bool) : (cntPut a v b s).bad = s.bad := rfl
@[simp] theorem cntPut_free (a v : Nat) (b : Bool) : (cntPut a v b s).free = s.free := rfl
@[simp] theorem cntPut_pwr (a v : Nat) (b : Bool) : (cntPut a v b s).pwr = s.pwr := rfl
@[simp] theorem cntPut_bring (a v : Nat) (b : Bool) : (cntPut a v b s).bring = s.bring := rfl
@[simp] theorem cntPut_nv (a v : Nat) (b : Bool) : (cntPut a v b s).nv = s.nv := rfl
@[simp] theorem cntPut_flt (a v : Nat) (b : Bool) : (cntPut a v b s).flt = s.flt := rfl
@[simp] theorem cntPut_mbx (a v : Nat) (b : Bool) : (cntPut a v b s).mbx = s.mbx := rfl
@[simp] theorem cntPut_fences (a v : Nat) (b : Bool) : (cntPut a v b s).fences = s.fences := rfl
@[simp] theorem cntPut_snaps (a v : Nat) (b : Bool) : (cntPut a v b s).snaps = s.snaps := rfl
@[simp] theorem cntPut_grants (a v : Nat) (b : Bool) : (cntPut a v b s).grants = s.grants := rfl
@[simp] theorem cntPut_pair (a v : Nat) (b : Bool) : (cntPut a v b s).pair = s.pair := rfl
@[simp] theorem cntPut_pins (a v : Nat) (b : Bool) : (cntPut a v b s).pins = s.pins := rfl
@[simp] theorem cntPut_pcie (a v : Nat) (b : Bool) : (cntPut a v b s).pcie = s.pcie := rfl
@[simp] theorem cntPut_desc (a v : Nat) (b : Bool) : (cntPut a v b s).desc = s.desc := rfl
@[simp] theorem cntPut_journal (a v : Nat) (b : Bool) : (cntPut a v b s).journal = s.journal := rfl
@[simp] theorem cntPut_clk (a v : Nat) (b : Bool) : (cntPut a v b s).clk = s.clk := rfl
@[simp] theorem cntPut_pa (a v : Nat) (b : Bool) : (cntPut a v b s).pa = s.pa := rfl
@[simp] theorem cntPut_head (a v : Nat) (b : Bool) : (cntPut a v b s).head = s.head := rfl
@[simp] theorem cntPut_pool (a v : Nat) (b : Bool) : (cntPut a v b s).pool = s.pool := rfl
@[simp] theorem cntPut_fs (a v : Nat) (b : Bool) : (cntPut a v b s).fs = s.fs := rfl
@[simp] theorem cntPut_memc (a v : Nat) (b : Bool) : (cntPut a v b s).memc = s.memc := rfl
@[simp] theorem cntPut_fl (a v : Nat) (b : Bool) : (cntPut a v b s).fl = s.fl := rfl
@[simp] theorem cntPut_tier (a v : Nat) (b : Bool) : (cntPut a v b s).tier = s.tier := rfl
@[simp] theorem cntPut_red (a v : Nat) (b : Bool) : (cntPut a v b s).red = s.red := rfl
@[simp] theorem cntPut_volu (a v : Nat) (b : Bool) : (cntPut a v b s).volu = s.volu := rfl
@[simp] theorem cntPut_host (a v : Nat) (b : Bool) : (cntPut a v b s).host = s.host := rfl
@[simp] theorem cntPut_spdm (a v : Nat) (b : Bool) : (cntPut a v b s).spdm = s.spdm := rfl
@[simp] theorem cntPut_boot (a v : Nat) (b : Bool) : (cntPut a v b s).boot = s.boot := rfl
@[simp] theorem cntPut_mot (a v : Nat) (b : Bool) : (cntPut a v b s).mot = s.mot := rfl
@[simp] theorem cntPut_therm (a v : Nat) (b : Bool) : (cntPut a v b s).therm = s.therm := rfl
@[simp] theorem cntPut_outbox (a v : Nat) (b : Bool) : (cntPut a v b s).outbox = s.outbox := rfl
@[simp] theorem cntPut_pending (a v : Nat) (b : Bool) : (cntPut a v b s).pending = s.pending := rfl

/-! ### `send` -/

@[simp] theorem send_now (m : Msg) : (send m s).now = s.now := rfl
@[simp] theorem send_regs (m : Msg) : (send m s).regs = s.regs := rfl
@[simp] theorem send_mem (m : Msg) : (send m s).mem = s.mem := rfl
@[simp] theorem send_bad (m : Msg) : (send m s).bad = s.bad := rfl
@[simp] theorem send_free (m : Msg) : (send m s).free = s.free := rfl
@[simp] theorem send_pwr (m : Msg) : (send m s).pwr = s.pwr := rfl
@[simp] theorem send_bring (m : Msg) : (send m s).bring = s.bring := rfl
@[simp] theorem send_nv (m : Msg) : (send m s).nv = s.nv := rfl
@[simp] theorem send_flt (m : Msg) : (send m s).flt = s.flt := rfl
@[simp] theorem send_mbx (m : Msg) : (send m s).mbx = s.mbx := rfl
@[simp] theorem send_fences (m : Msg) : (send m s).fences = s.fences := rfl
@[simp] theorem send_snaps (m : Msg) : (send m s).snaps = s.snaps := rfl
@[simp] theorem send_grants (m : Msg) : (send m s).grants = s.grants := rfl
@[simp] theorem send_pair (m : Msg) : (send m s).pair = s.pair := rfl
@[simp] theorem send_pins (m : Msg) : (send m s).pins = s.pins := rfl
@[simp] theorem send_pcie (m : Msg) : (send m s).pcie = s.pcie := rfl
@[simp] theorem send_desc (m : Msg) : (send m s).desc = s.desc := rfl
@[simp] theorem send_journal (m : Msg) : (send m s).journal = s.journal := rfl
@[simp] theorem send_clk (m : Msg) : (send m s).clk = s.clk := rfl
@[simp] theorem send_pa (m : Msg) : (send m s).pa = s.pa := rfl
@[simp] theorem send_head (m : Msg) : (send m s).head = s.head := rfl
@[simp] theorem send_pool (m : Msg) : (send m s).pool = s.pool := rfl
@[simp] theorem send_fs (m : Msg) : (send m s).fs = s.fs := rfl
@[simp] theorem send_memc (m : Msg) : (send m s).memc = s.memc := rfl
@[simp] theorem send_fl (m : Msg) : (send m s).fl = s.fl := rfl
@[simp] theorem send_tier (m : Msg) : (send m s).tier = s.tier := rfl
@[simp] theorem send_red (m : Msg) : (send m s).red = s.red := rfl
@[simp] theorem send_volu (m : Msg) : (send m s).volu = s.volu := rfl
@[simp] theorem send_host (m : Msg) : (send m s).host = s.host := rfl
@[simp] theorem send_spdm (m : Msg) : (send m s).spdm = s.spdm := rfl
@[simp] theorem send_boot (m : Msg) : (send m s).boot = s.boot := rfl
@[simp] theorem send_mot (m : Msg) : (send m s).mot = s.mot := rfl
@[simp] theorem send_therm (m : Msg) : (send m s).therm = s.therm := rfl
@[simp] theorem send_pending (m : Msg) : (send m s).pending = s.pending := rfl

/-! ### `memWrite` -/

@[simp] theorem memWrite_now (a : Nat) (l : List Byte) : (memWrite a l s).now = s.now := rfl
@[simp] theorem memWrite_regs (a : Nat) (l : List Byte) : (memWrite a l s).regs = s.regs := rfl
@[simp] theorem memWrite_bad (a : Nat) (l : List Byte) : (memWrite a l s).bad = s.bad := rfl
@[simp] theorem memWrite_free (a : Nat) (l : List Byte) : (memWrite a l s).free = s.free := rfl
@[simp] theorem memWrite_pwr (a : Nat) (l : List Byte) : (memWrite a l s).pwr = s.pwr := rfl
@[simp] theorem memWrite_bring (a : Nat) (l : List Byte) : (memWrite a l s).bring = s.bring := rfl
@[simp] theorem memWrite_nv (a : Nat) (l : List Byte) : (memWrite a l s).nv = s.nv := rfl
@[simp] theorem memWrite_flt (a : Nat) (l : List Byte) : (memWrite a l s).flt = s.flt := rfl
@[simp] theorem memWrite_mbx (a : Nat) (l : List Byte) : (memWrite a l s).mbx = s.mbx := rfl
@[simp] theorem memWrite_fences (a : Nat) (l : List Byte) : (memWrite a l s).fences = s.fences := rfl
@[simp] theorem memWrite_snaps (a : Nat) (l : List Byte) : (memWrite a l s).snaps = s.snaps := rfl
@[simp] theorem memWrite_grants (a : Nat) (l : List Byte) : (memWrite a l s).grants = s.grants := rfl
@[simp] theorem memWrite_pair (a : Nat) (l : List Byte) : (memWrite a l s).pair = s.pair := rfl
@[simp] theorem memWrite_pins (a : Nat) (l : List Byte) : (memWrite a l s).pins = s.pins := rfl
@[simp] theorem memWrite_pcie (a : Nat) (l : List Byte) : (memWrite a l s).pcie = s.pcie := rfl
@[simp] theorem memWrite_desc (a : Nat) (l : List Byte) : (memWrite a l s).desc = s.desc := rfl
@[simp] theorem memWrite_journal (a : Nat) (l : List Byte) : (memWrite a l s).journal = s.journal := rfl
@[simp] theorem memWrite_clk (a : Nat) (l : List Byte) : (memWrite a l s).clk = s.clk := rfl
@[simp] theorem memWrite_pa (a : Nat) (l : List Byte) : (memWrite a l s).pa = s.pa := rfl
@[simp] theorem memWrite_head (a : Nat) (l : List Byte) : (memWrite a l s).head = s.head := rfl
@[simp] theorem memWrite_pool (a : Nat) (l : List Byte) : (memWrite a l s).pool = s.pool := rfl
@[simp] theorem memWrite_fs (a : Nat) (l : List Byte) : (memWrite a l s).fs = s.fs := rfl
@[simp] theorem memWrite_memc (a : Nat) (l : List Byte) : (memWrite a l s).memc = s.memc := rfl
@[simp] theorem memWrite_fl (a : Nat) (l : List Byte) : (memWrite a l s).fl = s.fl := rfl
@[simp] theorem memWrite_tier (a : Nat) (l : List Byte) : (memWrite a l s).tier = s.tier := rfl
@[simp] theorem memWrite_red (a : Nat) (l : List Byte) : (memWrite a l s).red = s.red := rfl
@[simp] theorem memWrite_volu (a : Nat) (l : List Byte) : (memWrite a l s).volu = s.volu := rfl
@[simp] theorem memWrite_host (a : Nat) (l : List Byte) : (memWrite a l s).host = s.host := rfl
@[simp] theorem memWrite_spdm (a : Nat) (l : List Byte) : (memWrite a l s).spdm = s.spdm := rfl
@[simp] theorem memWrite_boot (a : Nat) (l : List Byte) : (memWrite a l s).boot = s.boot := rfl
@[simp] theorem memWrite_mot (a : Nat) (l : List Byte) : (memWrite a l s).mot = s.mot := rfl
@[simp] theorem memWrite_therm (a : Nat) (l : List Byte) : (memWrite a l s).therm = s.therm := rfl
@[simp] theorem memWrite_outbox (a : Nat) (l : List Byte) : (memWrite a l s).outbox = s.outbox := rfl
@[simp] theorem memWrite_pending (a : Nat) (l : List Byte) : (memWrite a l s).pending = s.pending := rfl

/-! ### `setTok` -/

@[simp] theorem setTok_now (n : Nat) (r : TokRec) : (setTok n r s).now = s.now := rfl
@[simp] theorem setTok_regs (n : Nat) (r : TokRec) : (setTok n r s).regs = s.regs := rfl
@[simp] theorem setTok_mem (n : Nat) (r : TokRec) : (setTok n r s).mem = s.mem := rfl
@[simp] theorem setTok_bad (n : Nat) (r : TokRec) : (setTok n r s).bad = s.bad := rfl
@[simp] theorem setTok_free (n : Nat) (r : TokRec) : (setTok n r s).free = s.free := rfl
@[simp] theorem setTok_pwr (n : Nat) (r : TokRec) : (setTok n r s).pwr = s.pwr := rfl
@[simp] theorem setTok_bring (n : Nat) (r : TokRec) : (setTok n r s).bring = s.bring := rfl
@[simp] theorem setTok_flt (n : Nat) (r : TokRec) : (setTok n r s).flt = s.flt := rfl
@[simp] theorem setTok_mbx (n : Nat) (r : TokRec) : (setTok n r s).mbx = s.mbx := rfl
@[simp] theorem setTok_fences (n : Nat) (r : TokRec) : (setTok n r s).fences = s.fences := rfl
@[simp] theorem setTok_snaps (n : Nat) (r : TokRec) : (setTok n r s).snaps = s.snaps := rfl
@[simp] theorem setTok_grants (n : Nat) (r : TokRec) : (setTok n r s).grants = s.grants := rfl
@[simp] theorem setTok_pair (n : Nat) (r : TokRec) : (setTok n r s).pair = s.pair := rfl
@[simp] theorem setTok_pins (n : Nat) (r : TokRec) : (setTok n r s).pins = s.pins := rfl
@[simp] theorem setTok_pcie (n : Nat) (r : TokRec) : (setTok n r s).pcie = s.pcie := rfl
@[simp] theorem setTok_desc (n : Nat) (r : TokRec) : (setTok n r s).desc = s.desc := rfl
@[simp] theorem setTok_journal (n : Nat) (r : TokRec) : (setTok n r s).journal = s.journal := rfl
@[simp] theorem setTok_clk (n : Nat) (r : TokRec) : (setTok n r s).clk = s.clk := rfl
@[simp] theorem setTok_pa (n : Nat) (r : TokRec) : (setTok n r s).pa = s.pa := rfl
@[simp] theorem setTok_head (n : Nat) (r : TokRec) : (setTok n r s).head = s.head := rfl
@[simp] theorem setTok_pool (n : Nat) (r : TokRec) : (setTok n r s).pool = s.pool := rfl
@[simp] theorem setTok_fs (n : Nat) (r : TokRec) : (setTok n r s).fs = s.fs := rfl
@[simp] theorem setTok_memc (n : Nat) (r : TokRec) : (setTok n r s).memc = s.memc := rfl
@[simp] theorem setTok_fl (n : Nat) (r : TokRec) : (setTok n r s).fl = s.fl := rfl
@[simp] theorem setTok_tier (n : Nat) (r : TokRec) : (setTok n r s).tier = s.tier := rfl
@[simp] theorem setTok_red (n : Nat) (r : TokRec) : (setTok n r s).red = s.red := rfl
@[simp] theorem setTok_volu (n : Nat) (r : TokRec) : (setTok n r s).volu = s.volu := rfl
@[simp] theorem setTok_host (n : Nat) (r : TokRec) : (setTok n r s).host = s.host := rfl
@[simp] theorem setTok_spdm (n : Nat) (r : TokRec) : (setTok n r s).spdm = s.spdm := rfl
@[simp] theorem setTok_boot (n : Nat) (r : TokRec) : (setTok n r s).boot = s.boot := rfl
@[simp] theorem setTok_mot (n : Nat) (r : TokRec) : (setTok n r s).mot = s.mot := rfl
@[simp] theorem setTok_therm (n : Nat) (r : TokRec) : (setTok n r s).therm = s.therm := rfl
@[simp] theorem setTok_outbox (n : Nat) (r : TokRec) : (setTok n r s).outbox = s.outbox := rfl
@[simp] theorem setTok_pending (n : Nat) (r : TokRec) : (setTok n r s).pending = s.pending := rfl

/-! ### `updPwr` -/

@[simp] theorem updPwr_now (f : PwrSt → PwrSt) : (updPwr f s).now = s.now := rfl
@[simp] theorem updPwr_regs (f : PwrSt → PwrSt) : (updPwr f s).regs = s.regs := rfl
@[simp] theorem updPwr_mem (f : PwrSt → PwrSt) : (updPwr f s).mem = s.mem := rfl
@[simp] theorem updPwr_bad (f : PwrSt → PwrSt) : (updPwr f s).bad = s.bad := rfl
@[simp] theorem updPwr_free (f : PwrSt → PwrSt) : (updPwr f s).free = s.free := rfl
@[simp] theorem updPwr_bring (f : PwrSt → PwrSt) : (updPwr f s).bring = s.bring := rfl
@[simp] theorem updPwr_nv (f : PwrSt → PwrSt) : (updPwr f s).nv = s.nv := rfl
@[simp] theorem updPwr_flt (f : PwrSt → PwrSt) : (updPwr f s).flt = s.flt := rfl
@[simp] theorem updPwr_mbx (f : PwrSt → PwrSt) : (updPwr f s).mbx = s.mbx := rfl
@[simp] theorem updPwr_fences (f : PwrSt → PwrSt) : (updPwr f s).fences = s.fences := rfl
@[simp] theorem updPwr_snaps (f : PwrSt → PwrSt) : (updPwr f s).snaps = s.snaps := rfl
@[simp] theorem updPwr_grants (f : PwrSt → PwrSt) : (updPwr f s).grants = s.grants := rfl
@[simp] theorem updPwr_pair (f : PwrSt → PwrSt) : (updPwr f s).pair = s.pair := rfl
@[simp] theorem updPwr_pins (f : PwrSt → PwrSt) : (updPwr f s).pins = s.pins := rfl
@[simp] theorem updPwr_pcie (f : PwrSt → PwrSt) : (updPwr f s).pcie = s.pcie := rfl
@[simp] theorem updPwr_desc (f : PwrSt → PwrSt) : (updPwr f s).desc = s.desc := rfl
@[simp] theorem updPwr_journal (f : PwrSt → PwrSt) : (updPwr f s).journal = s.journal := rfl
@[simp] theorem updPwr_clk (f : PwrSt → PwrSt) : (updPwr f s).clk = s.clk := rfl
@[simp] theorem updPwr_pa (f : PwrSt → PwrSt) : (updPwr f s).pa = s.pa := rfl
@[simp] theorem updPwr_head (f : PwrSt → PwrSt) : (updPwr f s).head = s.head := rfl
@[simp] theorem updPwr_pool (f : PwrSt → PwrSt) : (updPwr f s).pool = s.pool := rfl
@[simp] theorem updPwr_fs (f : PwrSt → PwrSt) : (updPwr f s).fs = s.fs := rfl
@[simp] theorem updPwr_memc (f : PwrSt → PwrSt) : (updPwr f s).memc = s.memc := rfl
@[simp] theorem updPwr_fl (f : PwrSt → PwrSt) : (updPwr f s).fl = s.fl := rfl
@[simp] theorem updPwr_tier (f : PwrSt → PwrSt) : (updPwr f s).tier = s.tier := rfl
@[simp] theorem updPwr_red (f : PwrSt → PwrSt) : (updPwr f s).red = s.red := rfl
@[simp] theorem updPwr_volu (f : PwrSt → PwrSt) : (updPwr f s).volu = s.volu := rfl
@[simp] theorem updPwr_host (f : PwrSt → PwrSt) : (updPwr f s).host = s.host := rfl
@[simp] theorem updPwr_spdm (f : PwrSt → PwrSt) : (updPwr f s).spdm = s.spdm := rfl
@[simp] theorem updPwr_boot (f : PwrSt → PwrSt) : (updPwr f s).boot = s.boot := rfl
@[simp] theorem updPwr_mot (f : PwrSt → PwrSt) : (updPwr f s).mot = s.mot := rfl
@[simp] theorem updPwr_therm (f : PwrSt → PwrSt) : (updPwr f s).therm = s.therm := rfl
@[simp] theorem updPwr_outbox (f : PwrSt → PwrSt) : (updPwr f s).outbox = s.outbox := rfl
@[simp] theorem updPwr_pending (f : PwrSt → PwrSt) : (updPwr f s).pending = s.pending := rfl

/-! ### `updPair` -/

@[simp] theorem updPair_now (f : PairSt → PairSt) : (updPair f s).now = s.now := rfl
@[simp] theorem updPair_regs (f : PairSt → PairSt) : (updPair f s).regs = s.regs := rfl
@[simp] theorem updPair_mem (f : PairSt → PairSt) : (updPair f s).mem = s.mem := rfl
@[simp] theorem updPair_bad (f : PairSt → PairSt) : (updPair f s).bad = s.bad := rfl
@[simp] theorem updPair_free (f : PairSt → PairSt) : (updPair f s).free = s.free := rfl
@[simp] theorem updPair_pwr (f : PairSt → PairSt) : (updPair f s).pwr = s.pwr := rfl
@[simp] theorem updPair_bring (f : PairSt → PairSt) : (updPair f s).bring = s.bring := rfl
@[simp] theorem updPair_nv (f : PairSt → PairSt) : (updPair f s).nv = s.nv := rfl
@[simp] theorem updPair_flt (f : PairSt → PairSt) : (updPair f s).flt = s.flt := rfl
@[simp] theorem updPair_mbx (f : PairSt → PairSt) : (updPair f s).mbx = s.mbx := rfl
@[simp] theorem updPair_fences (f : PairSt → PairSt) : (updPair f s).fences = s.fences := rfl
@[simp] theorem updPair_snaps (f : PairSt → PairSt) : (updPair f s).snaps = s.snaps := rfl
@[simp] theorem updPair_grants (f : PairSt → PairSt) : (updPair f s).grants = s.grants := rfl
@[simp] theorem updPair_pins (f : PairSt → PairSt) : (updPair f s).pins = s.pins := rfl
@[simp] theorem updPair_pcie (f : PairSt → PairSt) : (updPair f s).pcie = s.pcie := rfl
@[simp] theorem updPair_desc (f : PairSt → PairSt) : (updPair f s).desc = s.desc := rfl
@[simp] theorem updPair_journal (f : PairSt → PairSt) : (updPair f s).journal = s.journal := rfl
@[simp] theorem updPair_clk (f : PairSt → PairSt) : (updPair f s).clk = s.clk := rfl
@[simp] theorem updPair_pa (f : PairSt → PairSt) : (updPair f s).pa = s.pa := rfl
@[simp] theorem updPair_head (f : PairSt → PairSt) : (updPair f s).head = s.head := rfl
@[simp] theorem updPair_pool (f : PairSt → PairSt) : (updPair f s).pool = s.pool := rfl
@[simp] theorem updPair_fs (f : PairSt → PairSt) : (updPair f s).fs = s.fs := rfl
@[simp] theorem updPair_memc (f : PairSt → PairSt) : (updPair f s).memc = s.memc := rfl
@[simp] theorem updPair_fl (f : PairSt → PairSt) : (updPair f s).fl = s.fl := rfl
@[simp] theorem updPair_tier (f : PairSt → PairSt) : (updPair f s).tier = s.tier := rfl
@[simp] theorem updPair_red (f : PairSt → PairSt) : (updPair f s).red = s.red := rfl
@[simp] theorem updPair_volu (f : PairSt → PairSt) : (updPair f s).volu = s.volu := rfl
@[simp] theorem updPair_host (f : PairSt → PairSt) : (updPair f s).host = s.host := rfl
@[simp] theorem updPair_spdm (f : PairSt → PairSt) : (updPair f s).spdm = s.spdm := rfl
@[simp] theorem updPair_boot (f : PairSt → PairSt) : (updPair f s).boot = s.boot := rfl
@[simp] theorem updPair_mot (f : PairSt → PairSt) : (updPair f s).mot = s.mot := rfl
@[simp] theorem updPair_therm (f : PairSt → PairSt) : (updPair f s).therm = s.therm := rfl
@[simp] theorem updPair_outbox (f : PairSt → PairSt) : (updPair f s).outbox = s.outbox := rfl
@[simp] theorem updPair_pending (f : PairSt → PairSt) : (updPair f s).pending = s.pending := rfl

/-! ### `updClk` -/

@[simp] theorem updClk_now (f : ClkSt → ClkSt) : (updClk f s).now = s.now := rfl
@[simp] theorem updClk_regs (f : ClkSt → ClkSt) : (updClk f s).regs = s.regs := rfl
@[simp] theorem updClk_mem (f : ClkSt → ClkSt) : (updClk f s).mem = s.mem := rfl
@[simp] theorem updClk_bad (f : ClkSt → ClkSt) : (updClk f s).bad = s.bad := rfl
@[simp] theorem updClk_free (f : ClkSt → ClkSt) : (updClk f s).free = s.free := rfl
@[simp] theorem updClk_pwr (f : ClkSt → ClkSt) : (updClk f s).pwr = s.pwr := rfl
@[simp] theorem updClk_bring (f : ClkSt → ClkSt) : (updClk f s).bring = s.bring := rfl
@[simp] theorem updClk_nv (f : ClkSt → ClkSt) : (updClk f s).nv = s.nv := rfl
@[simp] theorem updClk_flt (f : ClkSt → ClkSt) : (updClk f s).flt = s.flt := rfl
@[simp] theorem updClk_mbx (f : ClkSt → ClkSt) : (updClk f s).mbx = s.mbx := rfl
@[simp] theorem updClk_fences (f : ClkSt → ClkSt) : (updClk f s).fences = s.fences := rfl
@[simp] theorem updClk_snaps (f : ClkSt → ClkSt) : (updClk f s).snaps = s.snaps := rfl
@[simp] theorem updClk_grants (f : ClkSt → ClkSt) : (updClk f s).grants = s.grants := rfl
@[simp] theorem updClk_pair (f : ClkSt → ClkSt) : (updClk f s).pair = s.pair := rfl
@[simp] theorem updClk_pins (f : ClkSt → ClkSt) : (updClk f s).pins = s.pins := rfl
@[simp] theorem updClk_pcie (f : ClkSt → ClkSt) : (updClk f s).pcie = s.pcie := rfl
@[simp] theorem updClk_desc (f : ClkSt → ClkSt) : (updClk f s).desc = s.desc := rfl
@[simp] theorem updClk_journal (f : ClkSt → ClkSt) : (updClk f s).journal = s.journal := rfl
@[simp] theorem updClk_pa (f : ClkSt → ClkSt) : (updClk f s).pa = s.pa := rfl
@[simp] theorem updClk_head (f : ClkSt → ClkSt) : (updClk f s).head = s.head := rfl
@[simp] theorem updClk_pool (f : ClkSt → ClkSt) : (updClk f s).pool = s.pool := rfl
@[simp] theorem updClk_fs (f : ClkSt → ClkSt) : (updClk f s).fs = s.fs := rfl
@[simp] theorem updClk_memc (f : ClkSt → ClkSt) : (updClk f s).memc = s.memc := rfl
@[simp] theorem updClk_fl (f : ClkSt → ClkSt) : (updClk f s).fl = s.fl := rfl
@[simp] theorem updClk_tier (f : ClkSt → ClkSt) : (updClk f s).tier = s.tier := rfl
@[simp] theorem updClk_red (f : ClkSt → ClkSt) : (updClk f s).red = s.red := rfl
@[simp] theorem updClk_volu (f : ClkSt → ClkSt) : (updClk f s).volu = s.volu := rfl
@[simp] theorem updClk_host (f : ClkSt → ClkSt) : (updClk f s).host = s.host := rfl
@[simp] theorem updClk_spdm (f : ClkSt → ClkSt) : (updClk f s).spdm = s.spdm := rfl
@[simp] theorem updClk_boot (f : ClkSt → ClkSt) : (updClk f s).boot = s.boot := rfl
@[simp] theorem updClk_mot (f : ClkSt → ClkSt) : (updClk f s).mot = s.mot := rfl
@[simp] theorem updClk_therm (f : ClkSt → ClkSt) : (updClk f s).therm = s.therm := rfl
@[simp] theorem updClk_outbox (f : ClkSt → ClkSt) : (updClk f s).outbox = s.outbox := rfl
@[simp] theorem updClk_pending (f : ClkSt → ClkSt) : (updClk f s).pending = s.pending := rfl

/-! ### `updBring` -/

@[simp] theorem updBring_now (f : BringSt → BringSt) : (updBring f s).now = s.now := rfl
@[simp] theorem updBring_regs (f : BringSt → BringSt) : (updBring f s).regs = s.regs := rfl
@[simp] theorem updBring_mem (f : BringSt → BringSt) : (updBring f s).mem = s.mem := rfl
@[simp] theorem updBring_bad (f : BringSt → BringSt) : (updBring f s).bad = s.bad := rfl
@[simp] theorem updBring_free (f : BringSt → BringSt) : (updBring f s).free = s.free := rfl
@[simp] theorem updBring_pwr (f : BringSt → BringSt) : (updBring f s).pwr = s.pwr := rfl
@[simp] theorem updBring_nv (f : BringSt → BringSt) : (updBring f s).nv = s.nv := rfl
@[simp] theorem updBring_flt (f : BringSt → BringSt) : (updBring f s).flt = s.flt := rfl
@[simp] theorem updBring_mbx (f : BringSt → BringSt) : (updBring f s).mbx = s.mbx := rfl
@[simp] theorem updBring_fences (f : BringSt → BringSt) : (updBring f s).fences = s.fences := rfl
@[simp] theorem updBring_snaps (f : BringSt → BringSt) : (updBring f s).snaps = s.snaps := rfl
@[simp] theorem updBring_grants (f : BringSt → BringSt) : (updBring f s).grants = s.grants := rfl
@[simp] theorem updBring_pair (f : BringSt → BringSt) : (updBring f s).pair = s.pair := rfl
@[simp] theorem updBring_pins (f : BringSt → BringSt) : (updBring f s).pins = s.pins := rfl
@[simp] theorem updBring_pcie (f : BringSt → BringSt) : (updBring f s).pcie = s.pcie := rfl
@[simp] theorem updBring_desc (f : BringSt → BringSt) : (updBring f s).desc = s.desc := rfl
@[simp] theorem updBring_journal (f : BringSt → BringSt) : (updBring f s).journal = s.journal := rfl
@[simp] theorem updBring_clk (f : BringSt → BringSt) : (updBring f s).clk = s.clk := rfl
@[simp] theorem updBring_pa (f : BringSt → BringSt) : (updBring f s).pa = s.pa := rfl
@[simp] theorem updBring_head (f : BringSt → BringSt) : (updBring f s).head = s.head := rfl
@[simp] theorem updBring_pool (f : BringSt → BringSt) : (updBring f s).pool = s.pool := rfl
@[simp] theorem updBring_fs (f : BringSt → BringSt) : (updBring f s).fs = s.fs := rfl
@[simp] theorem updBring_memc (f : BringSt → BringSt) : (updBring f s).memc = s.memc := rfl
@[simp] theorem updBring_fl (f : BringSt → BringSt) : (updBring f s).fl = s.fl := rfl
@[simp] theorem updBring_tier (f : BringSt → BringSt) : (updBring f s).tier = s.tier := rfl
@[simp] theorem updBring_red (f : BringSt → BringSt) : (updBring f s).red = s.red := rfl
@[simp] theorem updBring_volu (f : BringSt → BringSt) : (updBring f s).volu = s.volu := rfl
@[simp] theorem updBring_host (f : BringSt → BringSt) : (updBring f s).host = s.host := rfl
@[simp] theorem updBring_spdm (f : BringSt → BringSt) : (updBring f s).spdm = s.spdm := rfl
@[simp] theorem updBring_boot (f : BringSt → BringSt) : (updBring f s).boot = s.boot := rfl
@[simp] theorem updBring_mot (f : BringSt → BringSt) : (updBring f s).mot = s.mot := rfl
@[simp] theorem updBring_therm (f : BringSt → BringSt) : (updBring f s).therm = s.therm := rfl
@[simp] theorem updBring_outbox (f : BringSt → BringSt) : (updBring f s).outbox = s.outbox := rfl
@[simp] theorem updBring_pending (f : BringSt → BringSt) : (updBring f s).pending = s.pending := rfl

/-! ### `updHead` -/

@[simp] theorem updHead_now (h : Nat) (f : HeadSt → HeadSt) : (updHead h f s).now = s.now := rfl
@[simp] theorem updHead_regs (h : Nat) (f : HeadSt → HeadSt) : (updHead h f s).regs = s.regs := rfl
@[simp] theorem updHead_mem (h : Nat) (f : HeadSt → HeadSt) : (updHead h f s).mem = s.mem := rfl
@[simp] theorem updHead_bad (h : Nat) (f : HeadSt → HeadSt) : (updHead h f s).bad = s.bad := rfl
@[simp] theorem updHead_free (h : Nat) (f : HeadSt → HeadSt) : (updHead h f s).free = s.free := rfl
@[simp] theorem updHead_pwr (h : Nat) (f : HeadSt → HeadSt) : (updHead h f s).pwr = s.pwr := rfl
@[simp] theorem updHead_bring (h : Nat) (f : HeadSt → HeadSt) : (updHead h f s).bring = s.bring := rfl
@[simp] theorem updHead_nv (h : Nat) (f : HeadSt → HeadSt) : (updHead h f s).nv = s.nv := rfl
@[simp] theorem updHead_flt (h : Nat) (f : HeadSt → HeadSt) : (updHead h f s).flt = s.flt := rfl
@[simp] theorem updHead_mbx (h : Nat) (f : HeadSt → HeadSt) : (updHead h f s).mbx = s.mbx := rfl
@[simp] theorem updHead_fences (h : Nat) (f : HeadSt → HeadSt) : (updHead h f s).fences = s.fences := rfl
@[simp] theorem updHead_snaps (h : Nat) (f : HeadSt → HeadSt) : (updHead h f s).snaps = s.snaps := rfl
@[simp] theorem updHead_grants (h : Nat) (f : HeadSt → HeadSt) : (updHead h f s).grants = s.grants := rfl
@[simp] theorem updHead_pair (h : Nat) (f : HeadSt → HeadSt) : (updHead h f s).pair = s.pair := rfl
@[simp] theorem updHead_pins (h : Nat) (f : HeadSt → HeadSt) : (updHead h f s).pins = s.pins := rfl
@[simp] theorem updHead_pcie (h : Nat) (f : HeadSt → HeadSt) : (updHead h f s).pcie = s.pcie := rfl
@[simp] theorem updHead_desc (h : Nat) (f : HeadSt → HeadSt) : (updHead h f s).desc = s.desc := rfl
@[simp] theorem updHead_journal (h : Nat) (f : HeadSt → HeadSt) : (updHead h f s).journal = s.journal := rfl
@[simp] theorem updHead_clk (h : Nat) (f : HeadSt → HeadSt) : (updHead h f s).clk = s.clk := rfl
@[simp] theorem updHead_pa (h : Nat) (f : HeadSt → HeadSt) : (updHead h f s).pa = s.pa := rfl
@[simp] theorem updHead_pool (h : Nat) (f : HeadSt → HeadSt) : (updHead h f s).pool = s.pool := rfl
@[simp] theorem updHead_fs (h : Nat) (f : HeadSt → HeadSt) : (updHead h f s).fs = s.fs := rfl
@[simp] theorem updHead_memc (h : Nat) (f : HeadSt → HeadSt) : (updHead h f s).memc = s.memc := rfl
@[simp] theorem updHead_fl (h : Nat) (f : HeadSt → HeadSt) : (updHead h f s).fl = s.fl := rfl
@[simp] theorem updHead_tier (h : Nat) (f : HeadSt → HeadSt) : (updHead h f s).tier = s.tier := rfl
@[simp] theorem updHead_red (h : Nat) (f : HeadSt → HeadSt) : (updHead h f s).red = s.red := rfl
@[simp] theorem updHead_volu (h : Nat) (f : HeadSt → HeadSt) : (updHead h f s).volu = s.volu := rfl
@[simp] theorem updHead_host (h : Nat) (f : HeadSt → HeadSt) : (updHead h f s).host = s.host := rfl
@[simp] theorem updHead_spdm (h : Nat) (f : HeadSt → HeadSt) : (updHead h f s).spdm = s.spdm := rfl
@[simp] theorem updHead_boot (h : Nat) (f : HeadSt → HeadSt) : (updHead h f s).boot = s.boot := rfl
@[simp] theorem updHead_mot (h : Nat) (f : HeadSt → HeadSt) : (updHead h f s).mot = s.mot := rfl
@[simp] theorem updHead_therm (h : Nat) (f : HeadSt → HeadSt) : (updHead h f s).therm = s.therm := rfl
@[simp] theorem updHead_outbox (h : Nat) (f : HeadSt → HeadSt) : (updHead h f s).outbox = s.outbox := rfl
@[simp] theorem updHead_pending (h : Nat) (f : HeadSt → HeadSt) : (updHead h f s).pending = s.pending := rfl

/-! ### `updFs` -/

@[simp] theorem updFs_now (a : Nat) (f : FsSt → FsSt) : (updFs a f s).now = s.now := rfl
@[simp] theorem updFs_regs (a : Nat) (f : FsSt → FsSt) : (updFs a f s).regs = s.regs := rfl
@[simp] theorem updFs_mem (a : Nat) (f : FsSt → FsSt) : (updFs a f s).mem = s.mem := rfl
@[simp] theorem updFs_bad (a : Nat) (f : FsSt → FsSt) : (updFs a f s).bad = s.bad := rfl
@[simp] theorem updFs_free (a : Nat) (f : FsSt → FsSt) : (updFs a f s).free = s.free := rfl
@[simp] theorem updFs_pwr (a : Nat) (f : FsSt → FsSt) : (updFs a f s).pwr = s.pwr := rfl
@[simp] theorem updFs_bring (a : Nat) (f : FsSt → FsSt) : (updFs a f s).bring = s.bring := rfl
@[simp] theorem updFs_nv (a : Nat) (f : FsSt → FsSt) : (updFs a f s).nv = s.nv := rfl
@[simp] theorem updFs_flt (a : Nat) (f : FsSt → FsSt) : (updFs a f s).flt = s.flt := rfl
@[simp] theorem updFs_mbx (a : Nat) (f : FsSt → FsSt) : (updFs a f s).mbx = s.mbx := rfl
@[simp] theorem updFs_fences (a : Nat) (f : FsSt → FsSt) : (updFs a f s).fences = s.fences := rfl
@[simp] theorem updFs_snaps (a : Nat) (f : FsSt → FsSt) : (updFs a f s).snaps = s.snaps := rfl
@[simp] theorem updFs_grants (a : Nat) (f : FsSt → FsSt) : (updFs a f s).grants = s.grants := rfl
@[simp] theorem updFs_pair (a : Nat) (f : FsSt → FsSt) : (updFs a f s).pair = s.pair := rfl
@[simp] theorem updFs_pins (a : Nat) (f : FsSt → FsSt) : (updFs a f s).pins = s.pins := rfl
@[simp] theorem updFs_pcie (a : Nat) (f : FsSt → FsSt) : (updFs a f s).pcie = s.pcie := rfl
@[simp] theorem updFs_desc (a : Nat) (f : FsSt → FsSt) : (updFs a f s).desc = s.desc := rfl
@[simp] theorem updFs_journal (a : Nat) (f : FsSt → FsSt) : (updFs a f s).journal = s.journal := rfl
@[simp] theorem updFs_clk (a : Nat) (f : FsSt → FsSt) : (updFs a f s).clk = s.clk := rfl
@[simp] theorem updFs_pa (a : Nat) (f : FsSt → FsSt) : (updFs a f s).pa = s.pa := rfl
@[simp] theorem updFs_head (a : Nat) (f : FsSt → FsSt) : (updFs a f s).head = s.head := rfl
@[simp] theorem updFs_pool (a : Nat) (f : FsSt → FsSt) : (updFs a f s).pool = s.pool := rfl
@[simp] theorem updFs_memc (a : Nat) (f : FsSt → FsSt) : (updFs a f s).memc = s.memc := rfl
@[simp] theorem updFs_fl (a : Nat) (f : FsSt → FsSt) : (updFs a f s).fl = s.fl := rfl
@[simp] theorem updFs_tier (a : Nat) (f : FsSt → FsSt) : (updFs a f s).tier = s.tier := rfl
@[simp] theorem updFs_red (a : Nat) (f : FsSt → FsSt) : (updFs a f s).red = s.red := rfl
@[simp] theorem updFs_volu (a : Nat) (f : FsSt → FsSt) : (updFs a f s).volu = s.volu := rfl
@[simp] theorem updFs_host (a : Nat) (f : FsSt → FsSt) : (updFs a f s).host = s.host := rfl
@[simp] theorem updFs_spdm (a : Nat) (f : FsSt → FsSt) : (updFs a f s).spdm = s.spdm := rfl
@[simp] theorem updFs_boot (a : Nat) (f : FsSt → FsSt) : (updFs a f s).boot = s.boot := rfl
@[simp] theorem updFs_mot (a : Nat) (f : FsSt → FsSt) : (updFs a f s).mot = s.mot := rfl
@[simp] theorem updFs_therm (a : Nat) (f : FsSt → FsSt) : (updFs a f s).therm = s.therm := rfl
@[simp] theorem updFs_outbox (a : Nat) (f : FsSt → FsSt) : (updFs a f s).outbox = s.outbox := rfl
@[simp] theorem updFs_pending (a : Nat) (f : FsSt → FsSt) : (updFs a f s).pending = s.pending := rfl

/-! ### `updVcm` -/

@[simp] theorem updVcm_now (a : Nat) (f : VcmSt → VcmSt) : (updVcm a f s).now = s.now := rfl
@[simp] theorem updVcm_regs (a : Nat) (f : VcmSt → VcmSt) : (updVcm a f s).regs = s.regs := rfl
@[simp] theorem updVcm_mem (a : Nat) (f : VcmSt → VcmSt) : (updVcm a f s).mem = s.mem := rfl
@[simp] theorem updVcm_bad (a : Nat) (f : VcmSt → VcmSt) : (updVcm a f s).bad = s.bad := rfl
@[simp] theorem updVcm_free (a : Nat) (f : VcmSt → VcmSt) : (updVcm a f s).free = s.free := rfl
@[simp] theorem updVcm_pwr (a : Nat) (f : VcmSt → VcmSt) : (updVcm a f s).pwr = s.pwr := rfl
@[simp] theorem updVcm_bring (a : Nat) (f : VcmSt → VcmSt) : (updVcm a f s).bring = s.bring := rfl
@[simp] theorem updVcm_nv (a : Nat) (f : VcmSt → VcmSt) : (updVcm a f s).nv = s.nv := rfl
@[simp] theorem updVcm_flt (a : Nat) (f : VcmSt → VcmSt) : (updVcm a f s).flt = s.flt := rfl
@[simp] theorem updVcm_mbx (a : Nat) (f : VcmSt → VcmSt) : (updVcm a f s).mbx = s.mbx := rfl
@[simp] theorem updVcm_fences (a : Nat) (f : VcmSt → VcmSt) : (updVcm a f s).fences = s.fences := rfl
@[simp] theorem updVcm_snaps (a : Nat) (f : VcmSt → VcmSt) : (updVcm a f s).snaps = s.snaps := rfl
@[simp] theorem updVcm_grants (a : Nat) (f : VcmSt → VcmSt) : (updVcm a f s).grants = s.grants := rfl
@[simp] theorem updVcm_pair (a : Nat) (f : VcmSt → VcmSt) : (updVcm a f s).pair = s.pair := rfl
@[simp] theorem updVcm_pins (a : Nat) (f : VcmSt → VcmSt) : (updVcm a f s).pins = s.pins := rfl
@[simp] theorem updVcm_pcie (a : Nat) (f : VcmSt → VcmSt) : (updVcm a f s).pcie = s.pcie := rfl
@[simp] theorem updVcm_desc (a : Nat) (f : VcmSt → VcmSt) : (updVcm a f s).desc = s.desc := rfl
@[simp] theorem updVcm_journal (a : Nat) (f : VcmSt → VcmSt) : (updVcm a f s).journal = s.journal := rfl
@[simp] theorem updVcm_clk (a : Nat) (f : VcmSt → VcmSt) : (updVcm a f s).clk = s.clk := rfl
@[simp] theorem updVcm_pa (a : Nat) (f : VcmSt → VcmSt) : (updVcm a f s).pa = s.pa := rfl
@[simp] theorem updVcm_head (a : Nat) (f : VcmSt → VcmSt) : (updVcm a f s).head = s.head := rfl
@[simp] theorem updVcm_pool (a : Nat) (f : VcmSt → VcmSt) : (updVcm a f s).pool = s.pool := rfl
@[simp] theorem updVcm_fs (a : Nat) (f : VcmSt → VcmSt) : (updVcm a f s).fs = s.fs := rfl
@[simp] theorem updVcm_memc (a : Nat) (f : VcmSt → VcmSt) : (updVcm a f s).memc = s.memc := rfl
@[simp] theorem updVcm_fl (a : Nat) (f : VcmSt → VcmSt) : (updVcm a f s).fl = s.fl := rfl
@[simp] theorem updVcm_tier (a : Nat) (f : VcmSt → VcmSt) : (updVcm a f s).tier = s.tier := rfl
@[simp] theorem updVcm_red (a : Nat) (f : VcmSt → VcmSt) : (updVcm a f s).red = s.red := rfl
@[simp] theorem updVcm_volu (a : Nat) (f : VcmSt → VcmSt) : (updVcm a f s).volu = s.volu := rfl
@[simp] theorem updVcm_host (a : Nat) (f : VcmSt → VcmSt) : (updVcm a f s).host = s.host := rfl
@[simp] theorem updVcm_spdm (a : Nat) (f : VcmSt → VcmSt) : (updVcm a f s).spdm = s.spdm := rfl
@[simp] theorem updVcm_boot (a : Nat) (f : VcmSt → VcmSt) : (updVcm a f s).boot = s.boot := rfl
@[simp] theorem updVcm_therm (a : Nat) (f : VcmSt → VcmSt) : (updVcm a f s).therm = s.therm := rfl
@[simp] theorem updVcm_outbox (a : Nat) (f : VcmSt → VcmSt) : (updVcm a f s).outbox = s.outbox := rfl
@[simp] theorem updVcm_pending (a : Nat) (f : VcmSt → VcmSt) : (updVcm a f s).pending = s.pending := rfl

/-! ### `updVol` -/

@[simp] theorem updVol_now (n : Nat) (f : Volume → Volume) : (updVol n f s).now = s.now := rfl
@[simp] theorem updVol_regs (n : Nat) (f : Volume → Volume) : (updVol n f s).regs = s.regs := rfl
@[simp] theorem updVol_mem (n : Nat) (f : Volume → Volume) : (updVol n f s).mem = s.mem := rfl
@[simp] theorem updVol_bad (n : Nat) (f : Volume → Volume) : (updVol n f s).bad = s.bad := rfl
@[simp] theorem updVol_free (n : Nat) (f : Volume → Volume) : (updVol n f s).free = s.free := rfl
@[simp] theorem updVol_pwr (n : Nat) (f : Volume → Volume) : (updVol n f s).pwr = s.pwr := rfl
@[simp] theorem updVol_bring (n : Nat) (f : Volume → Volume) : (updVol n f s).bring = s.bring := rfl
@[simp] theorem updVol_nv (n : Nat) (f : Volume → Volume) : (updVol n f s).nv = s.nv := rfl
@[simp] theorem updVol_flt (n : Nat) (f : Volume → Volume) : (updVol n f s).flt = s.flt := rfl
@[simp] theorem updVol_mbx (n : Nat) (f : Volume → Volume) : (updVol n f s).mbx = s.mbx := rfl
@[simp] theorem updVol_fences (n : Nat) (f : Volume → Volume) : (updVol n f s).fences = s.fences := rfl
@[simp] theorem updVol_snaps (n : Nat) (f : Volume → Volume) : (updVol n f s).snaps = s.snaps := rfl
@[simp] theorem updVol_grants (n : Nat) (f : Volume → Volume) : (updVol n f s).grants = s.grants := rfl
@[simp] theorem updVol_pair (n : Nat) (f : Volume → Volume) : (updVol n f s).pair = s.pair := rfl
@[simp] theorem updVol_pins (n : Nat) (f : Volume → Volume) : (updVol n f s).pins = s.pins := rfl
@[simp] theorem updVol_pcie (n : Nat) (f : Volume → Volume) : (updVol n f s).pcie = s.pcie := rfl
@[simp] theorem updVol_desc (n : Nat) (f : Volume → Volume) : (updVol n f s).desc = s.desc := rfl
@[simp] theorem updVol_journal (n : Nat) (f : Volume → Volume) : (updVol n f s).journal = s.journal := rfl
@[simp] theorem updVol_clk (n : Nat) (f : Volume → Volume) : (updVol n f s).clk = s.clk := rfl
@[simp] theorem updVol_pa (n : Nat) (f : Volume → Volume) : (updVol n f s).pa = s.pa := rfl
@[simp] theorem updVol_head (n : Nat) (f : Volume → Volume) : (updVol n f s).head = s.head := rfl
@[simp] theorem updVol_pool (n : Nat) (f : Volume → Volume) : (updVol n f s).pool = s.pool := rfl
@[simp] theorem updVol_fs (n : Nat) (f : Volume → Volume) : (updVol n f s).fs = s.fs := rfl
@[simp] theorem updVol_memc (n : Nat) (f : Volume → Volume) : (updVol n f s).memc = s.memc := rfl
@[simp] theorem updVol_fl (n : Nat) (f : Volume → Volume) : (updVol n f s).fl = s.fl := rfl
@[simp] theorem updVol_tier (n : Nat) (f : Volume → Volume) : (updVol n f s).tier = s.tier := rfl
@[simp] theorem updVol_red (n : Nat) (f : Volume → Volume) : (updVol n f s).red = s.red := rfl
@[simp] theorem updVol_host (n : Nat) (f : Volume → Volume) : (updVol n f s).host = s.host := rfl
@[simp] theorem updVol_spdm (n : Nat) (f : Volume → Volume) : (updVol n f s).spdm = s.spdm := rfl
@[simp] theorem updVol_boot (n : Nat) (f : Volume → Volume) : (updVol n f s).boot = s.boot := rfl
@[simp] theorem updVol_mot (n : Nat) (f : Volume → Volume) : (updVol n f s).mot = s.mot := rfl
@[simp] theorem updVol_therm (n : Nat) (f : Volume → Volume) : (updVol n f s).therm = s.therm := rfl
@[simp] theorem updVol_outbox (n : Nat) (f : Volume → Volume) : (updVol n f s).outbox = s.outbox := rfl
@[simp] theorem updVol_pending (n : Nat) (f : Volume → Volume) : (updVol n f s).pending = s.pending := rfl

/-! ### `updCmd` -/

@[simp] theorem updCmd_now (k : Nat) (f : Cmd → Cmd) : (updCmd k f s).now = s.now := rfl
@[simp] theorem updCmd_regs (k : Nat) (f : Cmd → Cmd) : (updCmd k f s).regs = s.regs := rfl
@[simp] theorem updCmd_mem (k : Nat) (f : Cmd → Cmd) : (updCmd k f s).mem = s.mem := rfl
@[simp] theorem updCmd_bad (k : Nat) (f : Cmd → Cmd) : (updCmd k f s).bad = s.bad := rfl
@[simp] theorem updCmd_free (k : Nat) (f : Cmd → Cmd) : (updCmd k f s).free = s.free := rfl
@[simp] theorem updCmd_pwr (k : Nat) (f : Cmd → Cmd) : (updCmd k f s).pwr = s.pwr := rfl
@[simp] theorem updCmd_bring (k : Nat) (f : Cmd → Cmd) : (updCmd k f s).bring = s.bring := rfl
@[simp] theorem updCmd_nv (k : Nat) (f : Cmd → Cmd) : (updCmd k f s).nv = s.nv := rfl
@[simp] theorem updCmd_flt (k : Nat) (f : Cmd → Cmd) : (updCmd k f s).flt = s.flt := rfl
@[simp] theorem updCmd_mbx (k : Nat) (f : Cmd → Cmd) : (updCmd k f s).mbx = s.mbx := rfl
@[simp] theorem updCmd_fences (k : Nat) (f : Cmd → Cmd) : (updCmd k f s).fences = s.fences := rfl
@[simp] theorem updCmd_snaps (k : Nat) (f : Cmd → Cmd) : (updCmd k f s).snaps = s.snaps := rfl
@[simp] theorem updCmd_grants (k : Nat) (f : Cmd → Cmd) : (updCmd k f s).grants = s.grants := rfl
@[simp] theorem updCmd_pair (k : Nat) (f : Cmd → Cmd) : (updCmd k f s).pair = s.pair := rfl
@[simp] theorem updCmd_pins (k : Nat) (f : Cmd → Cmd) : (updCmd k f s).pins = s.pins := rfl
@[simp] theorem updCmd_pcie (k : Nat) (f : Cmd → Cmd) : (updCmd k f s).pcie = s.pcie := rfl
@[simp] theorem updCmd_desc (k : Nat) (f : Cmd → Cmd) : (updCmd k f s).desc = s.desc := rfl
@[simp] theorem updCmd_journal (k : Nat) (f : Cmd → Cmd) : (updCmd k f s).journal = s.journal := rfl
@[simp] theorem updCmd_clk (k : Nat) (f : Cmd → Cmd) : (updCmd k f s).clk = s.clk := rfl
@[simp] theorem updCmd_pa (k : Nat) (f : Cmd → Cmd) : (updCmd k f s).pa = s.pa := rfl
@[simp] theorem updCmd_head (k : Nat) (f : Cmd → Cmd) : (updCmd k f s).head = s.head := rfl
@[simp] theorem updCmd_pool (k : Nat) (f : Cmd → Cmd) : (updCmd k f s).pool = s.pool := rfl
@[simp] theorem updCmd_fs (k : Nat) (f : Cmd → Cmd) : (updCmd k f s).fs = s.fs := rfl
@[simp] theorem updCmd_memc (k : Nat) (f : Cmd → Cmd) : (updCmd k f s).memc = s.memc := rfl
@[simp] theorem updCmd_fl (k : Nat) (f : Cmd → Cmd) : (updCmd k f s).fl = s.fl := rfl
@[simp] theorem updCmd_tier (k : Nat) (f : Cmd → Cmd) : (updCmd k f s).tier = s.tier := rfl
@[simp] theorem updCmd_red (k : Nat) (f : Cmd → Cmd) : (updCmd k f s).red = s.red := rfl
@[simp] theorem updCmd_volu (k : Nat) (f : Cmd → Cmd) : (updCmd k f s).volu = s.volu := rfl
@[simp] theorem updCmd_spdm (k : Nat) (f : Cmd → Cmd) : (updCmd k f s).spdm = s.spdm := rfl
@[simp] theorem updCmd_boot (k : Nat) (f : Cmd → Cmd) : (updCmd k f s).boot = s.boot := rfl
@[simp] theorem updCmd_mot (k : Nat) (f : Cmd → Cmd) : (updCmd k f s).mot = s.mot := rfl
@[simp] theorem updCmd_therm (k : Nat) (f : Cmd → Cmd) : (updCmd k f s).therm = s.therm := rfl
@[simp] theorem updCmd_outbox (k : Nat) (f : Cmd → Cmd) : (updCmd k f s).outbox = s.outbox := rfl
@[simp] theorem updCmd_pending (k : Nat) (f : Cmd → Cmd) : (updCmd k f s).pending = s.pending := rfl

/-! ### `updCtrl` -/

@[simp] theorem updCtrl_now (k : Nat) (f : NvCtrl → NvCtrl) : (updCtrl k f s).now = s.now := rfl
@[simp] theorem updCtrl_regs (k : Nat) (f : NvCtrl → NvCtrl) : (updCtrl k f s).regs = s.regs := rfl
@[simp] theorem updCtrl_mem (k : Nat) (f : NvCtrl → NvCtrl) : (updCtrl k f s).mem = s.mem := rfl
@[simp] theorem updCtrl_bad (k : Nat) (f : NvCtrl → NvCtrl) : (updCtrl k f s).bad = s.bad := rfl
@[simp] theorem updCtrl_free (k : Nat) (f : NvCtrl → NvCtrl) : (updCtrl k f s).free = s.free := rfl
@[simp] theorem updCtrl_pwr (k : Nat) (f : NvCtrl → NvCtrl) : (updCtrl k f s).pwr = s.pwr := rfl
@[simp] theorem updCtrl_bring (k : Nat) (f : NvCtrl → NvCtrl) : (updCtrl k f s).bring = s.bring := rfl
@[simp] theorem updCtrl_nv (k : Nat) (f : NvCtrl → NvCtrl) : (updCtrl k f s).nv = s.nv := rfl
@[simp] theorem updCtrl_flt (k : Nat) (f : NvCtrl → NvCtrl) : (updCtrl k f s).flt = s.flt := rfl
@[simp] theorem updCtrl_mbx (k : Nat) (f : NvCtrl → NvCtrl) : (updCtrl k f s).mbx = s.mbx := rfl
@[simp] theorem updCtrl_fences (k : Nat) (f : NvCtrl → NvCtrl) : (updCtrl k f s).fences = s.fences := rfl
@[simp] theorem updCtrl_snaps (k : Nat) (f : NvCtrl → NvCtrl) : (updCtrl k f s).snaps = s.snaps := rfl
@[simp] theorem updCtrl_grants (k : Nat) (f : NvCtrl → NvCtrl) : (updCtrl k f s).grants = s.grants := rfl
@[simp] theorem updCtrl_pair (k : Nat) (f : NvCtrl → NvCtrl) : (updCtrl k f s).pair = s.pair := rfl
@[simp] theorem updCtrl_pins (k : Nat) (f : NvCtrl → NvCtrl) : (updCtrl k f s).pins = s.pins := rfl
@[simp] theorem updCtrl_pcie (k : Nat) (f : NvCtrl → NvCtrl) : (updCtrl k f s).pcie = s.pcie := rfl
@[simp] theorem updCtrl_desc (k : Nat) (f : NvCtrl → NvCtrl) : (updCtrl k f s).desc = s.desc := rfl
@[simp] theorem updCtrl_journal (k : Nat) (f : NvCtrl → NvCtrl) : (updCtrl k f s).journal = s.journal := rfl
@[simp] theorem updCtrl_clk (k : Nat) (f : NvCtrl → NvCtrl) : (updCtrl k f s).clk = s.clk := rfl
@[simp] theorem updCtrl_pa (k : Nat) (f : NvCtrl → NvCtrl) : (updCtrl k f s).pa = s.pa := rfl
@[simp] theorem updCtrl_head (k : Nat) (f : NvCtrl → NvCtrl) : (updCtrl k f s).head = s.head := rfl
@[simp] theorem updCtrl_pool (k : Nat) (f : NvCtrl → NvCtrl) : (updCtrl k f s).pool = s.pool := rfl
@[simp] theorem updCtrl_fs (k : Nat) (f : NvCtrl → NvCtrl) : (updCtrl k f s).fs = s.fs := rfl
@[simp] theorem updCtrl_memc (k : Nat) (f : NvCtrl → NvCtrl) : (updCtrl k f s).memc = s.memc := rfl
@[simp] theorem updCtrl_fl (k : Nat) (f : NvCtrl → NvCtrl) : (updCtrl k f s).fl = s.fl := rfl
@[simp] theorem updCtrl_tier (k : Nat) (f : NvCtrl → NvCtrl) : (updCtrl k f s).tier = s.tier := rfl
@[simp] theorem updCtrl_red (k : Nat) (f : NvCtrl → NvCtrl) : (updCtrl k f s).red = s.red := rfl
@[simp] theorem updCtrl_volu (k : Nat) (f : NvCtrl → NvCtrl) : (updCtrl k f s).volu = s.volu := rfl
@[simp] theorem updCtrl_spdm (k : Nat) (f : NvCtrl → NvCtrl) : (updCtrl k f s).spdm = s.spdm := rfl
@[simp] theorem updCtrl_boot (k : Nat) (f : NvCtrl → NvCtrl) : (updCtrl k f s).boot = s.boot := rfl
@[simp] theorem updCtrl_mot (k : Nat) (f : NvCtrl → NvCtrl) : (updCtrl k f s).mot = s.mot := rfl
@[simp] theorem updCtrl_therm (k : Nat) (f : NvCtrl → NvCtrl) : (updCtrl k f s).therm = s.therm := rfl
@[simp] theorem updCtrl_outbox (k : Nat) (f : NvCtrl → NvCtrl) : (updCtrl k f s).outbox = s.outbox := rfl
@[simp] theorem updCtrl_pending (k : Nat) (f : NvCtrl → NvCtrl) : (updCtrl k f s).pending = s.pending := rfl

/-! ### `begun` -/

@[simp] theorem begun_now (m : Nat) : (begun m s).now = s.now := rfl
@[simp] theorem begun_regs (m : Nat) : (begun m s).regs = s.regs := rfl
@[simp] theorem begun_mem (m : Nat) : (begun m s).mem = s.mem := rfl
@[simp] theorem begun_bad (m : Nat) : (begun m s).bad = s.bad := rfl
@[simp] theorem begun_free (m : Nat) : (begun m s).free = s.free := rfl
@[simp] theorem begun_pwr (m : Nat) : (begun m s).pwr = s.pwr := rfl
@[simp] theorem begun_bring (m : Nat) : (begun m s).bring = s.bring := rfl
@[simp] theorem begun_nv (m : Nat) : (begun m s).nv = s.nv := rfl
@[simp] theorem begun_flt (m : Nat) : (begun m s).flt = s.flt := rfl
@[simp] theorem begun_fences (m : Nat) : (begun m s).fences = s.fences := rfl
@[simp] theorem begun_snaps (m : Nat) : (begun m s).snaps = s.snaps := rfl
@[simp] theorem begun_grants (m : Nat) : (begun m s).grants = s.grants := rfl
@[simp] theorem begun_pair (m : Nat) : (begun m s).pair = s.pair := rfl
@[simp] theorem begun_pins (m : Nat) : (begun m s).pins = s.pins := rfl
@[simp] theorem begun_pcie (m : Nat) : (begun m s).pcie = s.pcie := rfl
@[simp] theorem begun_desc (m : Nat) : (begun m s).desc = s.desc := rfl
@[simp] theorem begun_journal (m : Nat) : (begun m s).journal = s.journal := rfl
@[simp] theorem begun_clk (m : Nat) : (begun m s).clk = s.clk := rfl
@[simp] theorem begun_pa (m : Nat) : (begun m s).pa = s.pa := rfl
@[simp] theorem begun_head (m : Nat) : (begun m s).head = s.head := rfl
@[simp] theorem begun_pool (m : Nat) : (begun m s).pool = s.pool := rfl
@[simp] theorem begun_fs (m : Nat) : (begun m s).fs = s.fs := rfl
@[simp] theorem begun_memc (m : Nat) : (begun m s).memc = s.memc := rfl
@[simp] theorem begun_fl (m : Nat) : (begun m s).fl = s.fl := rfl
@[simp] theorem begun_tier (m : Nat) : (begun m s).tier = s.tier := rfl
@[simp] theorem begun_red (m : Nat) : (begun m s).red = s.red := rfl
@[simp] theorem begun_volu (m : Nat) : (begun m s).volu = s.volu := rfl
@[simp] theorem begun_host (m : Nat) : (begun m s).host = s.host := rfl
@[simp] theorem begun_spdm (m : Nat) : (begun m s).spdm = s.spdm := rfl
@[simp] theorem begun_boot (m : Nat) : (begun m s).boot = s.boot := rfl
@[simp] theorem begun_mot (m : Nat) : (begun m s).mot = s.mot := rfl
@[simp] theorem begun_therm (m : Nat) : (begun m s).therm = s.therm := rfl
@[simp] theorem begun_outbox (m : Nat) : (begun m s).outbox = s.outbox := rfl
@[simp] theorem begun_pending (m : Nat) : (begun m s).pending = s.pending := rfl

end Sys2Proof.Machine
end

