-- ==== Sys2Proof/Tests/States.lean ====
section
/-! SUPPORT. Small states that the tests and the witnesses of the statements start from. -/

set_option Elab.async false

namespace Sys2Proof.Machine

/-- Out of Reset, nothing else. -/
def awake : State := { State.reset with pwr := { State.reset.pwr with inReset := false } }

/-- Full mode on device 0: every domain on, the token records loaded. -/
def full : State :=
  awake |> setF F.PWR_MODE_CUR 3 |> setF F.VAT_READY 1 |> forN 17 (fun d s => setF (F.PWR_DOM_STATE d) 2 s)

/-- Full mode with a mechanism of four actuators, 36 surfaces each, two winding sets and every air mover. -/
def motReady : State := { full with desc := some ⟨4, 36, 2, 255, 7200, 256, 6, 3, 65535, 9000, 2000, 1000, 1200, 0, [], 0⟩ }

/-- Full mode with the PCIe link up. -/
def hosted : State :=
  setF F.SUP_STRAP_PCIE_EN 1 { full with pcie := { full.pcie with perst := false, linkUp := true, vecPend := [3] }, pins := { full.pins with nalTx := true, fabTx := true } }

/-- A host command at the Headgate, of operation `op` on a range of a volume. -/
def aCmd (op : CmdOp) (vol off len : Nat) : Cmd :=
  ⟨1, .nvme 0 1 7, op, vol, off, len, false, false, [], 0, [], 0, false, none, true, 0, 0, none, 0, [], [], false, false, false, [], false⟩

/-- `s` with these commands of the host. -/
def withCmds (l : List Cmd) (s : State) : State := { s with host := { s.host with cmds := l } }

/-- `s` with mailbox `m` RUNNING a command of an opcode, a parameter and data. -/
def running (m op : Nat) (param : BitVec 64) (data : List Byte) (s : State) : State :=
  setF (F.MBX_STATE m) 2
    { s with mbx := setAt s.mbx m { mbxEmpty with cmd := { mbxEmpty.cmd with opcode := BitVec.ofNat 16 op, param := param, data := data,
                                                                             dataLen := BitVec.ofNat 32 data.length } } }

/-- As `running`, with external data. -/
def runningExt (m op : Nat) (param : BitVec 64) (ext : List Byte) (s : State) : State :=
  setF (F.MBX_STATE m) 2
    { s with mbx := setAt s.mbx m { mbxEmpty with cmd := { mbxEmpty.cmd with opcode := BitVec.ofNat 16 op, param := param, ext := ext } } }

/-- As `running`, with LEN. -/
def runningLen (m op : Nat) (param : BitVec 64) (len : BitVec 32) (data : List Byte) (s : State) : State :=
  setF (F.MBX_STATE m) 2
    { s with mbx := setAt s.mbx m { mbxEmpty with cmd := { mbxEmpty.cmd with opcode := BitVec.ofNat 16 op, param := param, len := len, data := data,
                                                                             dataLen := len } } }

/-- A heartbeat word of state 0 and SEQ 0, with its CRC. -/
def aHeartbeat : BitVec 16 := BitVec.ofNat 16 (0xB000 + crc4 (msbBits 12 0xB00))

/-- Shared media on which the partner has left nothing. -/
def noMeta : FlashMeta := ⟨[], [], [], [], [], [], [], [], [], [], [], []⟩

/-- The motion state with sequencer 0 running a word. -/
def seqAt (w : Nat) : State :=
  setF (F.FS_STATE 0) 1 { motReady with fs := setAt motReady.fs 0 { FsSt.reset with word := some w, acted := false } }

/-- A band read in progress on sequencer 0: its descriptor, armed or not. -/
def aBand (op : Nat) (mask : Nat) (armed : Bool) : Band :=
  { desc := ⟨leBytes 4 op ++ leBytes 4 0 ++ leBytes 8 mask ++ leBytes 2 0 ++ leBytes 2 4 ++ leBytes 4 100 ++ leBytes 8 0, 0, 0⟩, reqMask := mask, mask := mask,
    stopped := 0, k0 := 0, revs := 0, unrecov := 0, armed := armed, gated := armed, slot := 0, left := [], failed := [], code := 0 }

/-- `s` with that band in progress on sequencer 0. -/
def withBand (b : Band) (s : State) : State := { s with fs := setAt s.fs 0 { FsSt.reset with band := some b } }

/-- Sequencer 0 running a word with a band in progress or none. -/
def withWord (w : Nat) (b : Option Band) : State :=
  setF (F.FS_STATE 0) 1 { motReady with fs := setAt motReady.fs 0 { FsSt.reset with word := some w, acted := false, band := b } }

/-- Sequencer 0 at the word of an action code, its general registers all holding one number. -/
def withAddr (code v : Nat) : State := updFs 0 (fun x => { x with gr := List.replicate x.gr.length (BitVec.ofNat 32 v) }) (withWord (code <<< 90) none)

/-- Full mode with a FILL descriptor of 4 bytes at address 0 of control memory, its destination there too; channel 3 in a state. -/
def dmaAt (n : Nat) : State :=
  setF (F.DMA_STATE 3) n (memWrite (space 2 0) ([2, 0, 0x20, 0, 4, 0, 0, 0] ++ List.replicate 8 0 ++ leBytes 8 0x1000 ++ leBytes 8 0) full)

/-- Full mode, channel 2 owned with die 0 in use and one block known: block 5 in a state. -/
def flashAt (st : Nat) : State :=
  { full with tier := { full.tier with chans := setAt full.tier.chans 2 ⟨1, 256, 1024, 1024, 40, 40, 0, 0, [], [], []⟩
                                       blks := [⟨2, 0, 5, st, 0, 1, 0, false, 0, false, 0⟩], pmap := [(0, 7, ppa 2 0 5 0)] } }
    |> setF (F.FC_STATE 2) 2 |> setF (F.FC_DIE_STATE 2 0) 1

/-- A racking move of group 0, with number 9, at a step. -/
def aMove (kind step : Nat) : Move := { newMove kind 0 with id := 9, step := step }

/-- `s` with these moves. -/
def withMoves (l : List Move) (s : State) : State := { s with fl := { s.fl with moves := l } }

/-- Volume 3 of group 0, 4 MiB, empty. -/
def aVol : Volume := newVolume 3 0 (2 ^ 22) 0 0 0 (List.replicate 16 1) State.reset

/-- Full mode with these volumes and the journal ready. -/
def withVols (l : List Volume) : State := { full with volu := { full.volu with vols := l } }

/-- A reduction job of group 0 on a chunk of volume 3, with number 9, at a stage. -/
def aJob (data : List Byte) (stage : Nat) : RedJob := { newJob 0 3 0 none none data true with id := 9, stage := stage }

/-- `s` with these jobs. -/
def withJobs (l : List RedJob) (s : State) : State := { s with red := { s.red with jobs := l } }

/-- Full mode with these bytes unreduced in the journal. -/
def withPayload (p : List Byte) : State :=
  { (full |> setF F.RED_BACKLOG_HI 0 |> setF F.RED_BACKLOG_LO 0) with journal := [⟨0, false, 0, 1, 3, 0, 0, p, true, true, true, false, false, true, none, [0], false, false⟩] }

theorem withPayload_unreduced (p : List Byte) : unreduced (withPayload p) = p.length := by simp [unreduced, withPayload]

theorem withPayload_backlog {n : Nat} (h : 2 ^ 20 < n) (hb : backlogHi (withPayload []) = 2 ^ 20) :
    backlogHi (withPayload (List.replicate n 0)) < unreduced (withPayload (List.replicate n 0)) := by
  rw [withPayload_unreduced, List.length_replicate]
  exact Nat.lt_of_le_of_lt (Nat.le_of_eq hb) h

/-- Canal 5 from volume 3 to volume 2 of brick 9, and the target end of a canal at volume 3, at a setup step and in a state. -/
def aCanal (setup state : Nat) : Canal := { newCanal 5 true 3 (9 * 32768 + 2) false false 500 3600 0 with setup := setup, state := state }
def aTarget : Canal := { newCanal (targetEnd 3) false 3 (9 * 32768 + 2) false false 0 0 0 with setup := 7, state := 1 }

/-- Full mode with volume 3 and these canals, the brick identifier set, and a peer of brick 9. -/
def withCanals (l : List Canal) : State :=
  { full with volu := { full.volu with vols := [aVol], canals := l, peers := [⟨19, 4, 4420, []⟩] }, nv := { full.nv with brickId := some 1 } }

/-- A native entry: kind, flags, volume, offset and length. -/
def natEntry (kind flags vol off len : Nat) : List Byte :=
  leBytes 1 kind ++ leBytes 1 flags ++ leBytes 2 vol ++ leBytes 4 7 ++ leBytes 8 off ++ leBytes 4 len ++ List.replicate 44 0

/-- Full mode, native queue 40 ACTIVE with rings in DRAM; an entry fetched, or one published at index 0. -/
def nativeAt (x : NatQ) : State :=
  setF (F.Q_STATE 40) 1 { full with host := { full.host with natq := setAt full.host.natq 40 { x with sqSpace := 1, cqSpace := 1, idxSpace := 1, log2 := 4 } } }
def fetchedOne (b : List Byte) : State := nativeAt { NatQ.reset with fetched := [⟨40, 0, b, none, true⟩] }
def publishedOne (b : List Byte) : State := nativeAt { NatQ.reset with sqProd := 1, pushed := [(0, b)] }

/-- A wedge of which nothing was detected, and a carrier period without currents. -/
def aWedge : Wedge := ⟨none, 0, 0, []⟩
def aCarrier : Carrier := ⟨50000000, 0, 0, 0, 0, 0, 0, 0, 0, none, false, none, none, []⟩

/-- An enabled controller of a kind, number 1, with an admin queue and queue 1. -/
def aCtrl (kind : Nat) : NvCtrl :=
  ⟨1, kind, [], [], 1, 0, 0, 0, 0, 0, [⟨0, 0, 0, 16, 0, 0, [], none, false⟩, ⟨1, 1, 0, 16, 0, 0, [], none, false⟩],
    [⟨0, 0, 16, 0, 0, true, false, 0, 0⟩, ⟨1, 0, 16, 0, 0, true, false, 0, 0⟩], [], [], [], 0, 0, 0, 0, [], 0, [], []⟩

/-- A submission entry: opcode, NSID and command dwords 10 to 15. -/
def anEntry (op nsid dw10 dw11 dw12 dw13 dw14 dw15 : Nat) : List Byte :=
  leBytes 4 op ++ leBytes 4 nsid ++ List.replicate 32 0 ++ leBytes 4 dw10 ++ leBytes 4 dw11 ++ leBytes 4 dw12 ++ leBytes 4 dw13
    ++ leBytes 4 dw14 ++ leBytes 4 dw15

/-- The hosted state with that controller, and an entry fetched from queue `q`. -/
def nvmeAt (kind q : Nat) (e : List Byte) : State :=
  { hosted with host := { hosted.host with ctrls := [aCtrl kind], nvFetched := [(0, 1, q, e)] } }

/-- The command of queue `q` as an operand. -/
def aNvme (q : Nat) : NvmeCmd := ⟨1, q, 7, 0, 0, 0, 0, 0, 0, 0, 0, [], true⟩

/-- Port 0 after the SPDM negotiation. -/
def spdmAt (n : Nat) : State := setF F.SUP_BOOT_STAGE 9 { full with spdm := { full.spdm with phase := [n, n, n, n] } }

/-- Volume 3 with the host of an empty NQN in its access list. -/
def attachedVol : Volume := { aVol with access := [[]] }

/-- Full mode with that volume and a fabric controller whose host has a Host Identifier. -/
def volHosted : State :=
  { withVols [attachedVol] with host := { full.host with ctrls := [{ aCtrl 1 with hostId := List.replicate 16 1 }] } }

end Sys2Proof.Machine
end

