-- ==== Sys2Proof/WellFormed.lean ====
section
/-! DEFINITION. Well-formed commands: the bounds that the spec's layouts give an operand and its type does not. The meanings are
total and do not rest on it. -/

namespace Sys2Proof

/-- A number fits a field of `n` bits. -/
def fits (n v : Nat) : Bool := decide (v < 2 ^ n)

/-- Host memory has 64-bit addresses (R174). -/
def hostCells (l : List Host.Cell) : Bool := l.all (fun c => fits 64 c.1)

/-- The fields of an NVMe command (R300, R302, R305): 16-bit controller and queue, a 64-bit PRP1, at most 2 MiB of data. -/
def nvmeFields (c : NvmeCmd) : Bool := fits 16 c.ctrl && fits 16 c.sq && fits 64 c.prp1 && decide (c.data.length ≤ 2097152)

/-- A channel, die and block (R405). -/
def blockPlace (b : Nat × Nat × Nat) : Bool := decide (b.1 < 32) && decide (b.2.1 < 16) && decide (b.2.2 < 65536)

/-- A command whose operands fit the fields that carry them: flits of 256 bytes (R52), a descriptor of 256 bytes (R18), SPDM nonces of 32 bytes
(log entry 48), four groups of four crossings in a wedge (R229), four coil currents (R283), 64-byte ring entries (R310), canal writes of at most
2 MiB and 32-byte fingerprints (R386), 1 to 64 peers (R165). -/
def Instr.wellFormed : Instr → Bool
  | .resetNAssert => true
  | .resetNDeassert .. => true
  | .vsysPowerOnRelease => true
  | .vsysBelowRated .. => true
  | .vsysPowerFail .. => true
  | .holdupEnd => true
  | .vsysOvervoltage .. => true
  | .vmotStartPermitted .. => true
  | .vmotUndervoltage .. => true
  | .vmotOvervoltage .. => true
  | .vmotOvFallowTimeout => true
  | .vmotOvReturn .. => true
  | .pwrDomReqWrite .. => true
  | .domainDrainDone .. => true
  | .pwrDrainLimitExpiry .. => true
  | .domainPowerUpDone .. => true
  | .modeSetBringup .. => true
  | .modeSetSolo .. => true
  | .modeSetFallow .. => true
  | .modeSetWake .. => true
  | .modeSetDrain .. => true
  | .modeSetDrainCancel .. => true
  | .modeSetDormant .. => true
  | .pairModeRequestReceived _ peers => decide (peers.length ≤ 64)
  | .safeRelease .. => true
  | .soloStartWaitExpiry => true
  | .idleFallowExpiry => true
  | .fallowEntryDone => true
  | .wakeDiskReadsAdmitted .. => true
  | .wakeCalibrationDone => true
  | .drainEvacuationComplete => true
  | .bootSupervisorVerified => true
  | .bootDormantEntered => true
  | .bootControlVerified => true
  | .bootPatchesVerified => true
  | .dramTrainingDone .. => true
  | .descriptorReadDone bytes => decide (bytes.length = 256)
  | .descriptorCheckReceived .. => true
  | .nalTrainDone _ _ _ recs => recs.all (fun r => decide (r.1 < 64))
  | .fenceTestPulseEnd => true
  | .fenceTestReportReceived .. => true
  | .fenceTestReportTimeout => true
  | .partnerAttestationResult .. => true
  | .partnerAttestationTimeout => true
  | .vatReplayDone => true
  | .mapsLoaded lfps _ _ _ => lfps.all (fits 34)
  | .fullCalibrationDone => true
  | .partnerStepReport .. => true
  | .bringupComplete => true
  | .hbFrameTimer => true
  | .hbFrameReceived .. => true
  | .hbLossTimeout => true
  | .nalHbMessageReceived .. => true
  | .fenceInAssert .. => true
  | .nalPingReceived => true
  | .pingReplyReceived => true
  | .takeoverPingTimeout => true
  | .takeoverFenceHoldoffExpiry => true
  | .takeoverArbitrationEnd => true
  | .takeoverChannelsAcquired _ _ erasing => erasing.all blockPlace
  | .actuatorCatchDone .. => true
  | .actuatorCatchTimeout .. => true
  | .takeoverReplayDone .. => true
  | .tokenReleaseStart .. => true
  | .tokenReleaseReceived .. => true
  | .takeAckReceived .. => true
  | .refuseReceived .. => true
  | .tokenQueryTimer .. => true
  | .tokenQueryReceived .. => true
  | .speedLoopSample => true
  | .torqueReceived .. => true
  | .handover .. => true
  | .handoverDrainDone => true
  | .coilBlendStart .. => true
  | .vcmCurrentCmdReceived .. => true
  | .coilBlendRampEnd .. => true
  | .backupBridgeTimeout .. => true
  | .nalFlitReceived flit _ _ => decide (flit.length = 256)
  | .nalAckTimeout => true
  | .nalLaneFail .. => true
  | .nalRetrainTimer => true
  | .perstAssert => true
  | .perstDeassert => true
  | .pcieFlr => true
  | .ccEnClear => true
  | .msixUnmask _ _ masked => masked.all (fun v => decide (v < 2048))
  | .governorRun .. => true
  | .preampReadmitTimer .. => true
  | .sampleBufferOverrun .. => true
  | .clkPllCfgWrite .. => true
  | .pllLock .. => true
  | .clkGateReqSet .. => true
  | .clkGateReqClear .. => true
  | .clkGateIdle .. => true
  | .clkGateForce .. => true
  | .clkSafeRelease .. => true
  | .clkPaceLowRst .. => true
  | .clkSscWrite .. => true
  | .refEdgeTimeout .. => true
  | .refFreqMismatch .. => true
  | .refReturn .. => true
  | .refGood100ms .. => true
  | .sysRefclkLoss10ms => true
  | .fabRefclkLoss1s => true
  | .tsInPulse => true
  | .clkGate .. => true
  | .clkUngate .. => true
  | .clkGateLimitExpiry .. => true
  | .clkRelease .. => true
  | .clkStatus .. => true
  | .fwStage .. => true
  | .fwStageIdleTimeout .. => true
  | .fwActivate .. => true
  | .fwConfirm .. => true
  | .fwAcceptAdd .. => true
  | .fwAcceptRemove .. => true
  | .fwCommitSvn .. => true
  | .spdmGetVersion .. => true
  | .spdmGetCapabilities _ _ _ dts => fits 32 dts
  | .spdmNegotiateAlgorithms .. => true
  | .spdmGetDigests .. => true
  | .spdmGetCertificate _ _ _ off len => fits 16 off && fits 16 len
  | .spdmChallenge _ _ _ nonce => decide (nonce.length = 32)
  | .spdmGetMeasurements _ _ _ nonce => decide (nonce.length = 32)
  | .spdmKeyExchange .. => true
  | .spdmFinish _ _ sid _ _ _ => fits 32 sid
  | .spdmHeartbeat _ _ sid => fits 32 sid
  | .spdmKeyUpdate _ _ sid _ _ => fits 32 sid
  | .spdmEndSession _ _ sid => fits 32 sid
  | .spdmChunkSend _ _ seq _ _ => fits 16 seq
  | .spdmChunkGet _ _ seq => fits 16 seq
  | .spdmUnsupportedRequest .. => true
  | .spdmHeartbeatLapse sid => fits 32 sid
  | .mbxMessageArrival .. => true
  | .mbxDoorbell .. => true
  | .mbxRelease .. => true
  | .mbxReset .. => true
  | .mbxHandlerTake _ _ host => hostCells host
  | .mbxComplete .. => true
  | .mailboxSend c => nvmeFields c
  | .mailboxReceive c => nvmeFields c
  | .nop .. => true
  | .identify .. => true
  | .fence .. => true
  | .fenceConditionsMet .. => true
  | .fenceLimitExpiry .. => true
  | .expertEnable .. => true
  | .expertDisable .. => true
  | .expertRootAdd .. => true
  | .expertRootRemove .. => true
  | .regRead .. => true
  | .regWrite _ env => hostCells env.host
  | .violRead .. => true
  | .registerWrite _ _ _ _ _ env => hostCells env.host
  | .counterLoRead .. => true
  | .counterSatClear .. => true
  | .paReplyReceived .. => true
  | .paFltAssert .. => true
  | .paClaimRetryTimer .. => true
  | .hcPaRawTxWrite .. => true
  | .sectorFramed .. => true
  | .taStart .. => true
  | .taEnd .. => true
  | .sectorEnd .. => true
  | .decoderTake .. => true
  | .codewordDecodeDone .. => true
  | .retryStoreRedecode .. => true
  | .ladderStep .. => true
  | .ladderAbandon .. => true
  | .writeUnsafe .. => true
  | .heaterLeadExpiry .. => true
  | .heaterCalStep .. => true
  | .hcCalibrate .. => true
  | .hcService .. => true
  | .hcStats .. => true
  | .hcCommit .. => true
  | .wedgeSample _ g => decide (g.groups.length = 4) && g.groups.all (fun l => decide (l.length = 4))
  | .fsZtCommit .. => true
  | .zoneMemoryWrite .. => true
  | .fsWordComplete .. => true
  | .fsWordTimeout .. => true
  | .fsMchkReloadDone .. => true
  | .fsActNop .. => true
  | .fsActAlu .. => true
  | .fsActAlui .. => true
  | .fsActRdreg .. => true
  | .fsActWrreg _ env => hostCells env.host
  | .fsActZload .. => true
  | .fsActPacmd .. => true
  | .fsActArm .. => true
  | .fsActGate .. => true
  | .fsActPost .. => true
  | .fsActFetch .. => true
  | .fsActSeek .. => true
  | .fsActHalt .. => true
  | .fsResume .. => true
  | .fsHalt .. => true
  | .fsTrcFreezeWrite .. => true
  | .fsTrcDataRead .. => true
  | .fsZoneLoad .. => true
  | .fsTraceRead .. => true
  | .srvStats .. => true
  | .carrierPeriod x => decide (x.coils.length = 4)
  | .encoderReadmit => true
  | .vcmLoopSample .. => true
  | .cleOutputLate .. => true
  | .cleSwapReq .. => true
  | .cleCommit .. => true
  | .allHeadsLostTimeout .. => true
  | .motSpindleStart .. => true
  | .motSpindleStop .. => true
  | .motSpindleCoast .. => true
  | .spnCoast .. => true
  | .spindleMeasureDone .. => true
  | .dcBrakeEnd .. => true
  | .alignmentEnd => true
  | .observerHandover .. => true
  | .spindleAtSpeed .. => true
  | .spinupTimeout => true
  | .startRetryTimer => true
  | .shortBrakeEntry .. => true
  | .spindleStopped => true
  | .lowSpeedUnload .. => true
  | .motHeadsLoad .. => true
  | .motHeadsUnload .. => true
  | .headLoadDone .. => true
  | .headUnloadDone .. => true
  | .vcmRetractWrite .. => true
  | .retractRampDetected .. => true
  | .retractLatchDone .. => true
  | .retractTimeout .. => true
  | .fanHallEdge .. => true
  | .fanStallTimeout .. => true
  | .fanOvercurrent .. => true
  | .fanSpeedLoopTick .. => true
  | .fanDcBrakeEnd .. => true
  | .fanStartRetryTimer .. => true
  | .motFan .. => true
  | .motStatus .. => true
  | .motTableLoad .. => true
  | .bridgeThermalFoldback .. => true
  | .createIoSq c => nvmeFields c
  | .createIoCq c => nvmeFields c
  | .deleteIoSq c => nvmeFields c
  | .deleteIoCq c => nvmeFields c
  | .getLogPage c => nvmeFields c
  | .nvmeIdentify c => nvmeFields c
  | .nvmeAbort c => nvmeFields c
  | .setFeatures c => nvmeFields c
  | .getFeatures c => nvmeFields c
  | .asyncEventRequest c => nvmeFields c
  | .keepAlive c => nvmeFields c
  | .keepAliveExpiry ctrl => fits 16 ctrl
  | .fabricsConnect _ ctrl qid sqsize kato hostNqn hostId => fits 16 ctrl && fits 16 qid && fits 16 sqsize && fits 32 kato && decide (hostNqn.length ≤ 223) && decide (hostId.length = 16)
  | .fabricsPropertyGet ctrl cid offset => fits 16 ctrl && fits 16 cid && fits 32 offset
  | .fabricsPropertySet ctrl cid offset value => fits 16 ctrl && fits 16 cid && fits 32 offset && fits 64 value
  | .fabricsDisconnect ctrl qid => fits 16 ctrl && fits 16 qid
  | .unsupportedNvmeOpcode c _ => nvmeFields c
  | .nvmeSqDoorbell q tail props host => fits 16 q && fits 16 tail && props.all (fun p => fits 32 p.1 && fits 32 p.2.1 && fits 64 p.2.2.1 && fits 64 p.2.2.2) && hostCells host
  | .nvmeCqDoorbell q head => fits 16 q && fits 16 head
  | .nvmeFlush c => nvmeFields c
  | .nvmeWrite c => nvmeFields c
  | .nvmeRead c => nvmeFields c
  | .nvmeWriteZeroes c => nvmeFields c
  | .nvmeDatasetManagement c => nvmeFields c
  | .nvmeVerify c => nvmeFields c
  | .reservationRegister c => nvmeFields c
  | .reservationReport c => nvmeFields c
  | .reservationAcquire c => nvmeFields c
  | .reservationRelease c => nvmeFields c
  | .qDbSq _ _ host => hostCells host
  | .qDbCq _ _ host => hostCells host
  | .qDbPush _ _ _ _ _ host => hostCells host
  | .qPollTimer _ host => hostCells host
  | .nativeNop .. => true
  | .nativeRead .. => true
  | .nativeWrite .. => true
  | .nativeWriteZeroes .. => true
  | .nativeDeallocate .. => true
  | .nativeVerify .. => true
  | .nativeFence .. => true
  | .nativeFenceDone .. => true
  | .nativeFenceLimitExpiry .. => true
  | .nativeBand .. => true
  | .firmwareKindEntry _ entry => decide (entry.length = 64)
  | .qCtlStop .. => true
  | .qCtlResume .. => true
  | .qCtlSkip .. => true
  | .qCreate .. => true
  | .qDelete .. => true
  | .qStop .. => true
  | .qResume .. => true
  | .qResumeSkip .. => true
  | .sluStats .. => true
  | .sluHwmRst .. => true
  | .headgateAdmit => true
  | .sluiceRun .. => true
  | .commandFinish .. => true
  | .anaChangeTimeout .. => true
  | .forwardedRequestReceived .. => true
  | .forwardReplyReceived _ status _ => fits 16 status
  | .vatEntrySealed .. => true
  | .vatMirrorEntryReceived .. => true
  | .mirrorAckReceived .. => true
  | .chunkReductionStart .. => true
  | .tentativeResolved .. => true
  | .indexPageReadDone .. => true
  | .chunkCoded .. => true
  | .reductionRecordCommit .. => true
  | .deferredPassTimer => true
  | .deferredPassEntry => true
  | .redBacklogOnset => true
  | .redBacklogStepTimer => true
  | .redBacklogRelease => true
  | .redPolicySet .. => true
  | .redPolicyGet .. => true
  | .redStats .. => true
  | .redDedupScan .. => true
  | .redRecordRead .. => true
  | .redFltClr .. => true
  | .volCreate .. => true
  | .volDelete .. => true
  | .volResize .. => true
  | .volAccessAdd .. => true
  | .volAccessRemove .. => true
  | .volInfo .. => true
  | .volList .. => true
  | .snapTake .. => true
  | .snapDelete .. => true
  | .snapRestore .. => true
  | .snapClone .. => true
  | .snapList .. => true
  | .brickSet .. => true
  | .peerSet .. => true
  | .peerRemove .. => true
  | .canalOpen .. => true
  | .canalClose .. => true
  | .canalSync .. => true
  | .canalPromote .. => true
  | .canalStatus .. => true
  | .drainStatus .. => true
  | .volMapRead .. => true
  | .snapDiff .. => true
  | .canalTcpConnected .. => true
  | .canalConnectTimeout .. => true
  | .canalSetupTimeout .. => true
  | .canalFrameInvalid .. => true
  | .canalConnectionLost .. => true
  | .canalHello _ h => decide (h.formats < 8) && fits 64 h.lastSeq
  | .canalWrite _ seq _ len _ => fits 64 seq && decide (len ≤ 2097152)
  | .canalWriteAck _ seq status => fits 64 seq && fits 16 status
  | .canalDiffBegin .. => true
  | .canalFpList _ entries => entries.all (fun e => fits 64 e.1 && decide (e.2.length = 32))
  | .canalFpNeed .. => true
  | .canalRecord .. => true
  | .canalSnapCommit .. => true
  | .canalCommitAck _ _ status => fits 16 status
  | .canalRetarget .. => true
  | .canalSyncTmoExpiry .. => true
  | .canalRetryTimer => true
  | .canalReattestTimer .. => true
  | .canalPeriodTimer .. => true
  | .drainCutoverTimeout .. => true
  | .channelTrainDone _ _ _ bad => bad.all (fun b => decide (b.1 < 16))
  | .flashProgramDone .. => true
  | .flashEraseDone .. => true
  | .flashReadDone .. => true
  | .dieBusyTimeout .. => true
  | .flashPatrolTimer weak => weak.all blockPlace
  | .heatHalvingTimer => true
  | .rackMoveStart .. => true
  | .rackSourceReadDone .. => true
  | .rackTargetVerified .. => true
  | .rackSourceRelease .. => true
  | .capacityAccountTimer => true
  | .capacityAccountReceived .. => true
  | .tierHealth .. => true
  | .rackPolicySet .. => true
  | .rackPolicyGet .. => true
  | .rackStartGc .. => true
  | .rackStartCooling .. => true
  | .rackStartCompaction .. => true
  | .rackStartHoming .. => true
  | .rackStartPatrol .. => true
  | .runInfo .. => true
  | .flDieRetire .. => true
  | .flPageRead .. => true
  | .flTableLoad .. => true
  | .fpmCommit .. => true
  | .tempSampleTimer .. => true
  | .tempHistoryHourly => true
  | .eccFillCellar .. => true
  | .eccFillDram .. => true
  | .eccFillDone .. => true
  | .eccPatrolRead .. => true
  | .eccCeWindowExpiry .. => true
  | .coreFetchUeTrap .. => true
  | .coreReloadDone .. => true
  | .coreDataUeTrap .. => true
  | .memStats .. => true
  | .memRewrite .. => true
  | .memRetire .. => true
  | .tcInvalidateAll .. => true
  | .tcInvalidateRange .. => true
  | .tcPreload .. => true
  | .tcMaintDone => true
  | .tcFillDone .. => true
  | .dmaGo .. => true
  | .dmaStop .. => true
  | .dmaResume .. => true
  | .dmaDisable .. => true
  | .dmaDescriptorDone _ _ _ host => hostCells host
  | .dmaCommit .. => true
  | .faultLogSecondTimer => true
  | .supWdtKick .. => true
  | .supWdtExpiry => true
  | .supCommit .. => true
  | .fltReadGroups .. => true
  | .fltReadBootRecord .. => true
  | .fltClear .. => true
  | .fltLogRead .. => true
  | .fabLinkChange .. => true
  | .tempSensorRead .. => true
  | .tjOver105Timeout => true
  | .tjOver115Timeout => true
  | .tjDiskWaitTimeout .. => true
  | .tjRecoveryTimeout => true
  | .coarseCalibrationDone => true
  | .spdmResponseReceived .. => true
  | .pcieLinkChange .. => true
  | .tsOutSecondsRollover => true
  | .registerRead .. => true
  | .nvmeMiRequest .. => true
  | .aggregationTimeExpiry q => fits 16 q
  | .drainOfferReply .. => true

end Sys2Proof
end

