-- ==== Sys2Proof/Tests/Slice0.lean ====
section
/-! SUPPORT. Small tests: ill-formed commands that the check refuses, worked examples of the spec, and for each statement's clause that
has hypotheses a concrete state and operands that meet them all. -/

set_option Elab.async false

set_option linter.unusedVariables false

namespace Sys2Proof.Machine

/-! ### Well-formed commands: each check refuses a term of its own -/

theorem test_wf_flit : (Instr.nalFlitReceived [] false []).wellFormed = false := by decide
theorem test_wf_descriptor : (Instr.descriptorReadDone [0x56]).wellFormed = false := by decide
theorem test_wf_peers : (Instr.pairModeRequestReceived 5 (List.replicate 65 0)).wellFormed = false := by decide
theorem test_wf_tokens : (Instr.nalTrainDone 0xFFFF true 3 [(64, true, 0)]).wellFormed = false := by decide
theorem test_wf_lfps : (Instr.mapsLoaded [2 ^ 34, 0] 0 0 0).wellFormed = false := by decide
theorem test_wf_places : (Instr.flashPatrolTimer [(32, 0, 0)]).wellFormed = false := by decide
theorem test_wf_vectors : (Instr.msixUnmask true false [2048]).wellFormed = false := by decide
theorem test_wf_dts : (Instr.spdmGetCapabilities 0 false 0x12 (2 ^ 32)).wellFormed = false := by decide
theorem test_wf_certificate : (Instr.spdmGetCertificate 0 false 0 65536 1).wellFormed = false := by decide
theorem test_wf_nonce : (Instr.spdmChallenge 0 false 0 [1]).wellFormed = false := by decide
theorem test_wf_session : (Instr.spdmHeartbeat 0 false (2 ^ 32)).wellFormed = false := by decide
theorem test_wf_chunk : (Instr.spdmChunkGet 0 false 65536).wellFormed = false := by decide
theorem test_wf_wedge : (Instr.wedgeSample 0 ⟨some 0, 0, 0, [[none]]⟩).wellFormed = false := by decide
theorem test_wf_carrier : (Instr.carrierPeriod ⟨6250000, 0, 0, 0, 0, 0, 0, 0, 0, none, false, none, none, [0]⟩).wellFormed = false := by decide
theorem test_wf_nvme : (Instr.nvmeRead { aNvme 1 with sq := 65536 }).wellFormed = false := by decide
theorem test_wf_connect : (Instr.fabricsConnect false 65536 0 31 0 [] (List.replicate 16 1)).wellFormed = false := by decide
theorem test_wf_host_id : (Instr.fabricsConnect false 0xFFFF 0 31 0 [] []).wellFormed = false := by decide
theorem test_wf_property : (Instr.fabricsPropertySet 1 1 0x14 (2 ^ 64)).wellFormed = false := by decide
theorem test_wf_doorbell : (Instr.nvmeCqDoorbell 1 65536).wellFormed = false := by decide
theorem test_wf_host_cells : (Instr.qPollTimer 0 [(2 ^ 64, 0)]).wellFormed = false := by decide
theorem test_wf_entry : (Instr.firmwareKindEntry 0 [0]).wellFormed = false := by decide
theorem test_wf_status : (Instr.forwardReplyReceived 1 65536 []).wellFormed = false := by decide
theorem test_wf_hello : (Instr.canalHello 0 ⟨7, 0, 0, true, 8, 0, 0, 0, false, false, false, 0⟩).wellFormed = false := by decide
theorem test_wf_canal_write : (Instr.canalWrite 0 0 0 2097153 []).wellFormed = false := by decide
theorem test_wf_fingerprint : (Instr.canalFpList 0 [(0, [1])]).wellFormed = false := by decide
theorem test_wf_good : (Instr.nvmeRead (aNvme 1)).wellFormed = true := by decide

/-! ### The spec's worked examples -/

/-- R19: ACTUATORS = 2 and SURFACES = 20 give heads 0 to 19 and 36 to 55. -/
theorem test_fitted_heads : (List.range 144).filter (fitted { full with desc := some ⟨2, 20, 2, 255, 7200, 256, 6, 3, 0x77, 9000, 2000, 1000, 1200, 0, [], 0⟩ })
    = List.range 20 ++ (List.range 20).map (36 + ·) := by decide +kernel

/-- R10: offset 0x010 of head channel 37 lies at 0x0010_9410. -/
theorem test_head_channel_address : R.HC_TR 37 = 0x00109410 := by decide

/-- R8: head 100 lies on actuator 2. -/
theorem test_actuator_of_head : actOf 100 = 2 := by decide

/-- R359: the three items 02 41 42 43, B0 02 and 00 58 give ABCABCABCX. -/
theorem test_yaquin_window : (match ywItems 3 [0x02, 0x41, 0x42, 0x43, 0xB0, 0x02, 0x00, 0x58] [] with
    | .ok l => some l.reverse
    | .error _ => none) = some [0x41, 0x42, 0x43, 0x41, 0x42, 0x43, 0x41, 0x42, 0x43, 0x58] := by decide +kernel

/-- R401: location 0x4000_0000_0C35_03FC is flash, LFP 200,000, byte 16,320. -/
theorem test_flash_location : locTier 0x400000000C3503FC = 1 ∧ locLfp 0x400000000C3503FC = 200000 ∧ locOfs 0x400000000C3503FC = 16320 := by decide

/-- R409: 0x8000_0006_904D_2205 is channel 6, die 9, block 1,234, page 517. -/
theorem test_physical_page : ppaCh 0x80000006904D2205 = 6 ∧ ppaDie 0x80000006904D2205 = 9 ∧ ppaBlk 0x80000006904D2205 = 1234
    ∧ ppa 6 9 1234 517 = 0x6904D2205 := by decide

/-- R418: location 0xB805_0140_0004_C4B4 is actuator 3, band 41,000, stream offset 5,000,000. -/
theorem test_disk_location : locAct 0xB80501400004C4B4 = 3 ∧ locBand 0xB80501400004C4B4 = 41000 ∧ locOfs 0xB80501400004C4B4 = 5000000 := by decide

/-- R380: volume 21 of brick 3 has handle 98,325. -/
theorem test_handle : handleOf { full with nv := { full.nv with brickId := some 3 } } 21 = 98325 := by decide +kernel

/-- R325: with 16 entries, CQ_PROD 0xFFFF_FFF0 and CQ_CONS 0xFFFF_FFE0 are a full ring (the difference modulo 2^32). -/
theorem test_ring_difference : (0xFFFFFFF0 + 2 ^ 32 - 0xFFFFFFE0) % 2 ^ 32 = 16 ∧ (0x00000002 + 2 ^ 32 - 0xFFFFFFFC) % 2 ^ 32 = 6 := by decide

/-- R455: the line of address 0x12_3456_7880 lies in set 0xCF1. -/
theorem test_cache_set : tcSet (0x1234567880 / 128) = 0xCF1 := by decide

/-- R11: reset values of the register map. -/
theorem test_reset_values : rd State.reset R.SUP_ID = 0x64000000 ∧ rd State.reset R.CLK_GOV_CTL = 0xA0A ∧ rd State.reset (R.HC_AGC 143) = 0x18186026 := by
  decide +kernel

/-- R11, R213: a write leaves the reserved bits of DEC_OFFLINE[2] at 0. -/
theorem test_reserved_bits : rd (plainWrite (R.DEC_OFFLINE 2) 0xFFFFFFFF full) (R.DEC_OFFLINE 2) = 0xFFFF := by decide +kernel

/-- The check value of CRC-32C over "123456789". -/
theorem test_crc32c : crc32c [0x31, 0x32, 0x33, 0x34, 0x35, 0x36, 0x37, 0x38, 0x39] = 0xE3069283 := by decide +kernel

/-- spec/opcode_table.json gives no row a word. -/
theorem test_no_words : decodeTableWord 32 0 = none := rfl

/-- R158: a doorbell on a POSTED mailbox sets MBX_DB_IGNORED and posts nothing. -/
theorem test_doorbell_ignored : isSet (doorbell 4 (setF (F.MBX_STATE 4) 1 full)) (F.MBX_DB_IGNORED 4) = true
    ∧ mbxState (doorbell 4 (setF (F.MBX_STATE 4) 1 full)) 4 = 1 := by decide +kernel

/-- R474: a fault of block 3 latches its code. -/
theorem test_fault_latched : getF (raise 3 0x110 2 5 0 full) (FF_CODE 3) = 0x110 := by decide +kernel

/-! ### The hypotheses of the statements can be met -/


theorem witness_EmptyQueueIdles_0 : ∃ s : State, s.pending = [] :=
  ⟨full, by decide +kernel⟩


theorem witness_MemoryStaysCanonical_0 : ∃ s t : State, MemWf s ∧ step s = .next t :=
  ⟨full, { full with now := full.now + 1 }, by exact ⟨(by unfold MemWf Memory.wf; decide +kernel), rfl⟩⟩

theorem witness_RegistersStayCanonical_0 : ∃ s t : State, RegsWf s ∧ step s = .next t :=
  ⟨full, { full with now := full.now + 1 }, by exact ⟨(by unfold RegsWf; decide +kernel), rfl⟩⟩

theorem witness_UnitsAndFaultLogStay_0 : ∃ s t : State, step s = .next t :=
  ⟨full, { full with now := full.now + 1 }, by rfl⟩

theorem witness_FusedMinimumsNeverFall_0 : ∃ s t : State, step s = .next t :=
  ⟨full, { full with now := full.now + 1 }, by rfl⟩

theorem witness_OnlyRootCommandsChangeTheTrustList_0 : ∃ (i : Instr) (s t : State), exec i s = .next t ∧ s.nv.expertRoots ≠ t.nv.expertRoots :=
  ⟨.expertRootAdd 0, running 0 6 0 [1, 2] full, (mbxRow 0 0x0006 anyParam (fun c s => if !rootAllowed s 0 then answer 0x0013 s else if s.nv.expertRoots.contains c.data then answer 0 s else if 8 ≤ s.nv.expertRoots.length then answer 0x001A s else answer 0 (setRoots (s.nv.expertRoots ++ [c.data]) s)) (running 0 6 0 [1, 2] full)), by exact ⟨rfl, by decide +kernel⟩⟩

theorem witness_StepTakesTheFrontCommand_0 : ∃ s t : State, step s = .next t :=
  ⟨full, { full with now := full.now + 1 }, by rfl⟩

theorem witness_CommandsChangeOnlyTheirParts_1 : ∃ (i : Instr) (s t : State), exec i s = .next t :=
  ⟨.perstDeassert, full, { full with pcie := { full.pcie with perst := false } }, by rfl⟩

theorem witness_FaultLatchTakesTheFirstFault_0 : ∃ (b : Fin 21) (code cls inst aux : Nat) (lv : Bool) (s : State), RegsWf s ∧ isSet s (FF_VALID b) = false ∧ code < 65536 ∧ 1 ≤ cls ∧ cls ≤ 3 ∧ inst < 65536 :=
  ⟨20, 0xFFFF, 3, 0xFFFF, 0, true, full, by unfold RegsWf; decide +kernel⟩

theorem witness_FaultLatchTakesTheFirstFault_1 : ∃ (b : Fin 21) (code cls inst aux : Nat) (lv : Bool) (s : State), RegsWf s ∧ isSet s (FF_VALID b) = true ∧ 1 ≤ cls ∧ cls ≤ 3 :=
  ⟨0, 0x110, 2, 0, 0, false, raise 0 0x110 2 0 0 full, by unfold RegsWf; decide +kernel⟩

theorem witness_CommittedFieldsRefuseAChange_0 : ∃ (p : Path) (env : RegEnv) (a : Nat) (w : Word) (s : State), writeGoes p a w s :=
  ⟨.core, ⟨none, false, 0, []⟩, R.HC_HTR 143, 0x11, setF (⟨R.HC_GCTL, 7, 1⟩) 1 full, by unfold writeGoes; decide +kernel⟩

theorem witness_MailboxWritesInTheWrongState_0 : ∃ (p : Path) (m : Fin 16) (s : State), writeGoes p (R.MBX_CTL m.val) 1 s ∧ mbxState s m ≠ 0 :=
  ⟨.core, 15, setF (F.MBX_STATE 15) 1 full, by unfold writeGoes; decide +kernel⟩

theorem witness_MailboxWritesInTheWrongState_1 : ∃ (p : Path) (m : Fin 16) (s : State), writeGoes p (R.MBX_CTL m.val) 2 s ∧ mbxState s m ≠ 3 :=
  ⟨.core, 0, full, by unfold writeGoes; decide +kernel⟩

theorem witness_MailboxWritesInTheWrongState_2 : ∃ (p : Path) (m : Fin 16) (off : Nat) (s : State), 0x400 ≤ off ∧ off < 0x800 ∧ off % 4 = 0 ∧ readGoes p (0x10000 + m.val * 0x800 + off) s ∧ mbxState s m ≠ 3 :=
  ⟨.core, 15, 0x7FC, full, by unfold readGoes; decide +kernel⟩

theorem witness_TemperatureEpisodes_0 : ∃ (t0 t1 t2 t3 : Int) (s : State), live s = true :=
  ⟨0, 1, 2, 3, awake, by decide +kernel⟩

theorem witness_TemperatureEpisodes_1 : ∃ s : State, live s = true ∧ 105 < tjOf s ∧ s.therm.over105 = false :=
  ⟨{ awake with therm := ⟨[106, 0, 0, 0], false, false⟩, clk := { awake.clk with admitted := [3] } }, by decide +kernel⟩

theorem witness_TemperatureEpisodes_2 : ∃ s : State, live s = true ∧ 115 < tjOf s ∧ s.therm.over115 = false :=
  ⟨{ awake with therm := ⟨[116, 0, 0, 0], true, false⟩ }, by decide +kernel⟩

theorem witness_TemperatureEpisodes_3 : ∃ (k : Nat) (c : Cmd) (s : State), cmdOf s k = some c ∧ s.therm.over115 = true ∧ c.stage = 0 ∧ diskTier s c = true :=
  ⟨1, aCmd (.band 0 []) 0 0 0, withCmds [aCmd (.band 0 []) 0 0 0] { awake with therm := ⟨[116, 0, 0, 0], true, true⟩ }, by decide +kernel⟩

theorem witness_TemperatureEpisodes_4 : ∃ (s : State), tjOf s < 100 :=
  ⟨{ awake with therm := ⟨[99, 0, 0, 0], true, true⟩ }, by decide +kernel⟩

theorem witness_AirMoverEvents_0 : ∃ (f : Fin 4) (hall : BitVec 3) (s : State), motOn s = true ∧ fittedFan s f.val = true ∧ (fanOf s f.val).bad = 0 ∧ Units s ∧ RegsWf s :=
  ⟨1, 5, motReady, by unfold Units RegsWf MotSt.units; decide +kernel⟩

theorem witness_AirMoverEvents_0_1 : ∃ (f : Fin 4) (hall : BitVec 3) (s : State), motOn s = true ∧ fittedFan s f.val = true ∧ (fanOf s f.val).bad = 0 ∧ Units s ∧ RegsWf s :=
  ⟨1, 0, motReady, by unfold Units RegsWf MotSt.units; decide +kernel⟩

theorem witness_AirMoverEvents_1 : ∃ (f : Fin 4) (s : State), motOn s = true ∧ isSet s (F.FAN_RUN f.val) = true ∧ 0 < getF s (F.FAN_DUTY f.val) ∧ fanDriven s f.val = true ∧ 250000000 ≤ s.now.toNat - (fanOf s f.val).edges.headD 0 :=
  ⟨1, { motReady with now := 250000000 } |> setF (F.FAN_RUN 1) 1 |> setF (F.FAN_DUTY 1) 5 |> setF (F.FAN_STATE 1) 3, by decide +kernel⟩

theorem witness_AirMoverEvents_2 : ∃ (f : Fin 4) (ma : BitVec 16) (s : State), motOn s = true ∧ fanDriven s f.val = true ∧ s.mot.limitPm < ma.toNat :=
  ⟨1, 1100, setF (F.FAN_STATE 1) 3 motReady, by decide +kernel⟩

theorem witness_AirMoverEvents_3 : ∃ (f : Fin 4) (duty : BitVec 12) (s : State), RegsWf s ∧ motOn s = true ∧ isSet s (F.FAN_RUN f.val) = true ∧ 2 ≤ getF s (F.FAN_STATE f.val) ∧ getF s (F.FAN_STATE f.val) ≤ 3 :=
  ⟨1, 9, motReady |> setF (F.FAN_RUN 1) 1 |> setF (F.FAN_STATE 1) 3, by unfold RegsWf; decide +kernel⟩

theorem witness_AirMoverEvents_4 : ∃ (f : Fin 4) (s : State), motOn s = true ∧ getF s (F.FAN_STATE f.val) = 1 :=
  ⟨1, setF (F.FAN_STATE 1) 1 motReady, by decide +kernel⟩

theorem witness_AirMoverEvents_5 : ∃ (f : Fin 4) (back : BitVec 16) (s : State), motOn s = true ∧ isSet s (F.FAN_RUN f.val) = true ∧ (getF s (F.FAN_STATE f.val) = 4 ∨ getF s (F.FAN_STATE f.val) = 5) :=
  ⟨1, 0, motReady |> setF (F.FAN_RUN 1) 1 |> setF (F.FAN_STATE 1) 5, by decide +kernel⟩

theorem witness_AirMoverEvents_6 : ∃ (m : Fin 16) (back : BitVec 16) (s : State), Units s ∧ mbxRuns s m 0x0312 ∧ fittedFan s (par (mbxAt s m).cmd 0 2) = true ∧ par (mbxAt s m).cmd 16 16 = 0 :=
  ⟨0, 0, running 0 0x312 1 [] motReady, by unfold Units mbxRuns MotSt.units; decide +kernel⟩

theorem witness_NalynLinkEvents_0 : ∃ (flit : List Byte) (failed : Bool) (msgs : List NalMsg) (s : State), isSet s F.NAL_UP = true ∧ flit.length = 256 ∧ leAt flit 252 4 = crc32c (flit.take 252) ∧ (s.pair.rxSeq.all (fun r => decide (leAt flit 0 2 % 4096 = (r.toNat + 1) % 4096)) = true) :=
  ⟨List.replicate 252 0 ++ leBytes 4 (crc32c (List.replicate 252 0)), false, [], setF F.NAL_UP 1 awake, by decide +kernel⟩

theorem witness_NalynLinkEvents_2 : ∃ (lane : Fin 16) (s : State), 2 ≤ getF s F.NAL_WIDTH ∧ ((((List.range 16).filter (fun l => bitAt (getF s F.NAL_LANE_GOOD) l)).take (2 ^ getF s F.NAL_WIDTH)).contains lane.val = true) :=
  ⟨3, awake |> setF F.NAL_WIDTH 4 |> setF F.NAL_LANE_GOOD 65535, by decide +kernel⟩

theorem witness_NalynLinkEvents_3 : ∃ s : State, isSet s F.NAL_UP = false ∧ domOn s 12 = true ∧ s.pins.nalTx = true ∧ isSet s (F.CLK_LOCKED 12) = true ∧ isSet s F.SUP_STRAP_FLOAT = false :=
  ⟨hosted |> setF (F.CLK_LOCKED 12) 1, by decide +kernel⟩

theorem witness_HostLinkEvents_2 : ∃ s : State, hostReach s = true :=
  ⟨hosted, by decide +kernel⟩

theorem witness_HostLinkEvents_3 : ∃ s : State, hostReach s = true :=
  ⟨hosted, by decide +kernel⟩

theorem witness_HostLinkEvents_4 : ∃ (enable fnMask : Bool) (masked : List Nat) (s : State), hostReach s = true :=
  ⟨true, false, [], hosted, by decide +kernel⟩

theorem witness_HostLinkEvents_5 : ∃ s : State, isSet s F.SUP_STRAP_PCIE_EN = true ∧ s.pcie.perst = false ∧ domOn s 13 = true ∧ isSet s (F.CLK_LOCKED 10) = true ∧ isSet s (F.CLK_SAFE_HELD 10) = false :=
  ⟨hosted |> setF (F.CLK_LOCKED 10) 1, by decide +kernel⟩

theorem witness_HostLinkEvents_7 : ∃ (q : Fin 8) (s : State), q.val < profilePorts s.pwr.fabProfile ∧ domOn s 11 = true ∧ isSet s (F.FAB_P_EN q.val) = true ∧ s.pins.fabTx = true ∧ isSet s (F.CLK_LOCKED 11) = true ∧ isSet s (F.CLK_SAFE_HELD 11) = false :=
  ⟨1, hosted |> setF (F.FAB_P_EN 1) 1 |> setF (F.CLK_LOCKED 11) 1, by decide +kernel⟩

theorem witness_HostLinkEvents_8 : ∃ (q : Fin 8) (s : State), q.val < profilePorts s.pwr.fabProfile ∧ domOn s 11 = true :=
  ⟨1, full, by decide +kernel⟩

theorem witness_HostLinkEvents_9 : ∃ (kind : Fin 4) (s : State), sidebandLive s = true :=
  ⟨1, full |> setF F.SUP_BOOT_STAGE 5, by decide +kernel⟩

theorem witness_HostLinkEvents_9_1 : ∃ (kind : Fin 4) (s : State), sidebandLive s = true :=
  ⟨3, full |> setF F.SUP_BOOT_STAGE 5, by decide +kernel⟩

theorem witness_FaultLogWatchdogAndCommands_1 : ∃ (p : Path) (s : State), writeGoes p R.SUP_WDT_KICK 1 s :=
  ⟨.core, full, by unfold writeGoes; decide +kernel⟩

theorem witness_FaultLogWatchdogAndCommands_2 : ∃ s : State, wdtArmed s = true ∧ s.pwr.wedged = false ∧ s.pwr.wdtAt + wdtPeriod s ≤ s.now.toNat :=
  ⟨{ full with now := 100000000000, pwr := { full.pwr with coresRunning := true } }, by decide +kernel⟩

theorem witness_FaultLogWatchdogAndCommands_3 : ∃ (p : Path) (s : State), writeGoes p R.SUP_WDT 0x10000 s :=
  ⟨.core, full, by unfold writeGoes; decide +kernel⟩

theorem witness_FaultLogWatchdogAndCommands_4 : ∃ (m : Fin 16) (s : State), Units s ∧ mbxRuns s m 0x0900 ∧ par (mbxAt s m).cmd 0 1 = 0 :=
  ⟨0, running 0 0x900 0 [] awake, by unfold Units mbxRuns MotSt.units; decide +kernel⟩

theorem witness_FaultLogWatchdogAndCommands_5 : ∃ (m : Fin 16) (s : State), Units s ∧ mbxRuns s m 0x0900 ∧ par (mbxAt s m).cmd 0 1 = 1 :=
  ⟨0, running 0 0x900 1 [] awake, by unfold Units mbxRuns MotSt.units; decide +kernel⟩

theorem witness_FaultLogWatchdogAndCommands_6 : ∃ (m : Fin 16) (s : State), Units s ∧ mbxRuns s m 0x0901 ∧ par (mbxAt s m).cmd 0 5 ≤ 20 :=
  ⟨0, running 0 0x901 0x1F02 [] awake, by unfold Units mbxRuns MotSt.units; decide +kernel⟩

theorem witness_FaultLogWatchdogAndCommands_7 : ∃ (m : Fin 16) (s : State), Units s ∧ mbxRuns s m 0x0902 ∧ logSkip s (par (mbxAt s m).cmd 0 32) ≤ s.nv.faultLog.length :=
  ⟨0, running 0 0x902 0 [] awake, by unfold Units mbxRuns MotSt.units; decide +kernel⟩

theorem witness_ResetAndPowerFail_3 : ∃ (below : Bool) (mv : BitVec 16) (s : State), RegsWf s ∧ live s = true :=
  ⟨true, 3600, awake, by unfold RegsWf; decide +kernel⟩

theorem witness_ResetAndPowerFail_4 : ∃ (mv : BitVec 16) (s : State), live s = true ∧ s.pwr.hold = false :=
  ⟨2000, awake, by decide +kernel⟩

theorem witness_ResetAndPowerFail_5 : ∃ s : State, s.pwr.hold = true :=
  ⟨{ awake with pwr := { awake.pwr with hold := true } }, by decide +kernel⟩

theorem witness_ResetAndPowerFail_6 : ∃ (mv : BitVec 16) (s : State), live s = true :=
  ⟨16000, awake, by decide +kernel⟩

theorem witness_VmotAndPowerDomains_0 : ∃ (p : Path) (d : Fin 17) (w : BitVec 32) (s : State), writeGoes p (R.PWR_DOM_CTL d.val) w s :=
  ⟨.core, 6, 1, full, by unfold writeGoes; decide +kernel⟩

theorem witness_VmotAndPowerDomains_1 : ∃ (d : Fin 17) (s : State), getF s (F.PWR_DOM_STATE d.val) = 3 ∧ inFlight s d.val = false :=
  ⟨10, setF (F.PWR_DOM_STATE 10) 3 full, by decide +kernel⟩

theorem witness_VmotAndPowerDomains_2 : ∃ (d : Fin 17) (s : State), RegsWf s ∧ getF s (F.PWR_DOM_STATE d.val) = 3 :=
  ⟨10, setF (F.PWR_DOM_STATE 10) 3 full, by unfold RegsWf; decide +kernel⟩

theorem witness_VmotAndPowerDomains_4 : ∃ (mv : BitVec 16) (s : State), live s = true ∧ s.pwr.hold = false :=
  ⟨12000, awake, by decide +kernel⟩

theorem witness_VmotAndPowerDomains_5 : ∃ (mv : BitVec 16) (s : State), live s = true :=
  ⟨8000, full, by decide +kernel⟩

theorem witness_VmotAndPowerDomains_6 : ∃ (mv : BitVec 16) (s : State), live s = true ∧ (motOn (updPwr (fun p => { p with startPermitted := false }) (setF F.PWR_VMOT_OV 1 (vmotShow mv.toNat s))) = true) :=
  ⟨16000, full, by decide +kernel⟩

theorem witness_VmotAndPowerDomains_7 : ∃ s : State, live s = true ∧ s.pwr.diskWait = true ∧ 15500 < getF s F.PWR_VMOT_MV :=
  ⟨{ awake with pwr := { awake.pwr with diskWait := true } } |> setF F.PWR_VMOT_MV 16000, by decide +kernel⟩

theorem witness_VmotAndPowerDomains_8 : ∃ (mv : BitVec 16) (s : State), RegsWf s ∧ live s = true :=
  ⟨15000, awake, by unfold RegsWf; decide +kernel⟩

theorem witness_BootChain_0 : ∃ s : State, RegsWf s ∧ live s = true ∧ bootStage s = 2 ∧ isSet s F.SUP_BOOT_RECOVERY = false :=
  ⟨setF F.SUP_BOOT_STAGE 2 awake, by unfold RegsWf; decide +kernel⟩

theorem witness_BootChain_1 : ∃ s : State, live s = true ∧ bootStage s = 3 :=
  ⟨setF F.SUP_BOOT_STAGE 3 awake, by decide +kernel⟩

theorem witness_BootChain_2 : ∃ s : State, s.boot.trigger = true ∧ bootStage s = 5 ∧ mode s = 1 :=
  ⟨{ setF F.PWR_MODE_CUR 1 (setF F.SUP_BOOT_STAGE 5 awake) with boot := { awake.boot with trigger := true } }, by decide +kernel⟩

theorem witness_BootChain_3 : ∃ s : State, s.boot.trigger = true ∧ bootStage s = 6 :=
  ⟨{ setF F.SUP_BOOT_STAGE 6 awake with boot := { awake.boot with trigger := true } }, by decide +kernel⟩

theorem witness_VatJournal_0 : ∃ (g : Fin 2) (seq : BitVec 32) (e : JEnt) (s : State), jrnOf s g.val seq.toNat = some e ∧ e.arrived = true ∧ e.sealed = false ∧ isSet s F.VAT_READY = true :=
  ⟨0, 5, { mirrorEnt 0 5 (.volumeGone 3) with mirror := false, sealed := false }, { full with journal := [{ mirrorEnt 0 5 (.volumeGone 3) with mirror := false, sealed := false }] }, by decide +kernel⟩

theorem witness_VatJournal_1 : ∃ (g : Fin 2) (seq : BitVec 32) (body : MirrorBody) (s : State), isSet s F.NAL_UP = true ∧ isSet s F.VAT_READY = true ∧ ((∀ q, s.tier.mirrorLast.getD g.val none = some q → seq.toNat = (q + 1) % 2 ^ 32)) ∧ poolBytes s false + poolBytes s true + entBytesHeld (mirrorEnt g.val seq body) ≤ 896 * 2 ^ 20 :=
  ⟨0, 7, .volumeGone 3, setF F.NAL_UP 1 full, by decide +kernel⟩

theorem witness_VatJournal_2 : ∃ (g : Fin 2) (seq : BitVec 32) (s : State), RegsWf s ∧ isSet s F.NAL_UP = true ∧ isSet s F.VAT_READY = true :=
  ⟨0, 7, setF F.NAL_UP 1 full, by unfold RegsWf; decide +kernel⟩

theorem witness_PreamplifierLinks_0 : ∃ (p : Fin 16) (r : BitVec 32) (f : Nat) (s : State), (paOf s p.val).tx = some f ∧ crc8 24 (r.toNat / 256) = r.toNat % 256 ∧ bitAt r.toNat 31 = false :=
  ⟨1, BitVec.ofNat 32 (crc8 24 0), 0, { full with pa := setAt full.pa 1 { PaSt.reset with tx := some 0 } }, by decide +kernel⟩

theorem witness_PreamplifierLinks_1 : ∃ (p : Fin 16) (f : Nat) (s : State), (paOf s p.val).tx = some f :=
  ⟨1, 0, { full with pa := setAt full.pa 1 { PaSt.reset with tx := some 0 } }, by decide +kernel⟩

theorem witness_PreamplifierLinks_2 : ∃ (p : Fin 16) (s : State), domOn s (2 + paAct p.val) = true ∧ fittedPa s p.val = true :=
  ⟨1, motReady, by decide +kernel⟩

theorem witness_PreamplifierLinks_3 : ∃ (p : Fin 16) (s : State), (paOf s p.val).retryTimer = true :=
  ⟨1, { full with pa := setAt full.pa 1 { PaSt.reset with retryTimer := true } }, by decide +kernel⟩

theorem witness_PreamplifierLinks_4 : ∃ (p : Path) (n : Fin 16) (w : BitVec 32) (s : State), writeGoes p (R.HC_PA_RAW_TX n.val) w s :=
  ⟨.core, 1, 0, motReady, by unfold writeGoes; decide +kernel⟩

theorem witness_SpindleCommandsAndStart_0 : ∃ (rpm : BitVec 16) (s : State), spnState s = 1 ∧ 60 < rpm.toNat :=
  ⟨100, setF F.SPN_STATE 1 motReady, by decide +kernel⟩

theorem witness_SpindleCommandsAndStart_1 : ∃ (rpm : BitVec 16) (s : State), RegsWf s ∧ spnState s = 1 ∧ 0 < rpm.toNat ∧ rpm.toNat ≤ 60 ∧ ((encThere s = true ∨ 30 ≤ rpm.toNat)) :=
  ⟨60, setF F.SPN_STATE 1 motReady, by unfold RegsWf; decide +kernel⟩

theorem witness_SpindleCommandsAndStart_1_1 : ∃ (rpm : BitVec 16) (s : State), RegsWf s ∧ spnState s = 1 ∧ 0 < rpm.toNat ∧ rpm.toNat ≤ 60 ∧ ((encThere s = true ∨ 30 ≤ rpm.toNat)) :=
  ⟨5, setF F.SPN_STATE 1 motReady, by unfold RegsWf; decide +kernel⟩

theorem witness_SpindleCommandsAndStart_2 : ∃ (rpm : BitVec 16) (back : Bool) (s : State), spnState s = 1 ∧ ((back = false ∨ (encThere s = false ∧ rpm.toNat < 30))) :=
  ⟨0, false, setF F.SPN_STATE 1 motReady, by decide +kernel⟩

theorem witness_SpindleCommandsAndStart_2_1 : ∃ (rpm : BitVec 16) (back : Bool) (s : State), spnState s = 1 ∧ ((back = false ∨ (encThere s = false ∧ rpm.toNat < 30))) :=
  ⟨29, true, setF F.SPN_STATE 1 { motReady with pins := { motReady.pins with }, desc := none }, by decide +kernel⟩

theorem witness_SpindleCommandsAndStart_3 : ∃ (rpm : BitVec 16) (s : State), spnState s = 2 :=
  ⟨0, setF F.SPN_STATE 2 motReady, by decide +kernel⟩

theorem witness_SpindleCommandsAndStart_4 : ∃ s : State, spnState s = 3 :=
  ⟨setF F.SPN_STATE 3 motReady, by decide +kernel⟩

theorem witness_SpindleCommandsAndStart_5 : ∃ (rpm : BitVec 16) (s : State), RegsWf s ∧ spnState s = 4 ∧ getF s F.SPN_SRC = 3 ∧ 10 * getF s F.SPN_OBS_MIN ≤ rpm.toNat :=
  ⟨2000, motReady |> setF F.SPN_STATE 4 |> setF F.SPN_SRC 3 |> setF F.SPN_OBS_MIN 0, by unfold RegsWf; decide +kernel⟩

theorem witness_SpindleCommandsAndStart_6 : ∃ (rpm : BitVec 16) (s : State), RegsWf s ∧ spnState s = 4 ∧ nearTarget s rpm.toNat = true ∧ spindleDue s = false :=
  ⟨7200, motReady |> setF F.PWR_MODE_CUR 2 |> setF F.SPN_STATE 4 |> setF F.SPN_TARGET_RPM 7200, by unfold RegsWf; decide +kernel⟩

theorem witness_SpindleCommandsAndStart_7 : ∃ s : State, 1 ≤ spnState s ∧ spnState s ≤ 4 ∧ owns s 0 = true :=
  ⟨setF F.SPN_STATE 4 motReady, by decide +kernel⟩

theorem witness_SpindleCommandsAndStart_8 : ∃ s : State, spnState s = 8 ∧ s.mot.spn.tries < 120 ∧ s.pwr.startPermitted = true ∧ spnOk s = true :=
  ⟨setF F.SPN_STATE 8 { motReady with pwr := { motReady.pwr with startPermitted := true } }, by decide +kernel⟩

theorem witness_SpindleCommandsAndStart_9 : ∃ (rpm : BitVec 16) (s : State), RegsWf s ∧ owns s 0 = true ∧ s.mot.spn.stopping = true ∧ spnState s = 6 ∧ rpm.toNat < 300 ∧ hasSet s = true :=
  ⟨299, setF F.SPN_STATE 6 { motReady with mot := { motReady.mot with spn := { motReady.mot.spn with stopping := true } } }, by unfold RegsWf; decide +kernel⟩

theorem witness_SpindleCommandsAndStart_10 : ∃ s : State, (spnState s = 7 ∨ (spnState s = 6 ∧ s.mot.spn.shorted = true)) :=
  ⟨setF F.SPN_STATE 7 motReady, by decide +kernel⟩

theorem witness_SpindleCommandsAndStart_11 : ∃ (rpm : BitVec 16) (s : State), rpm.toNat < 2000 ∧ s.mot.spn.stopping = false ∧ motOn s = true :=
  ⟨1999, motReady, by decide +kernel⟩

theorem witness_SpindleCommandsAndStart_12 : ∃ (x : Int) (s : State), motOn s = true ∧ x < 1050 :=
  ⟨1049, motReady, by decide +kernel⟩

theorem witness_SpindleCommandsAndStart_13 : ∃ (x : Int) (s : State), motOn s = true ∧ 1100 < x :=
  ⟨1101, motReady, by decide +kernel⟩

theorem witness_SpindleCommandsAndStart_14 : ∃ (m : Fin 16) (s : State), mbxRuns s m 0x0310 ∧ spinSel 1 0 (mbxAt s m).cmd = true ∧ par (mbxAt s m).cmd 16 16 = 0 ∧ owns s 0 = true ∧ s.desc.isSome = true ∧ hasSet s = true ∧ heldSafe s 2 = false ∧ s.pwr.startPermitted = true ∧ spnState s = 0 :=
  ⟨0, running 0 0x310 1 [] { motReady with pwr := { motReady.pwr with startPermitted := true } }, by unfold mbxRuns; decide +kernel⟩

theorem witness_SpindleCommandsAndStart_15 : ∃ (m : Fin 16) (s : State), Units s ∧ mbxRuns s m 0x0310 ∧ spinSel 0 0 (mbxAt s m).cmd = true ∧ par (mbxAt s m).cmd 16 16 = 0 ∧ owns s 0 = true ∧ headsOnDisk s = false :=
  ⟨0, running 0 0x310 0 [] motReady, by unfold Units mbxRuns MotSt.units; decide +kernel⟩

theorem witness_SpindleCommandsAndStart_16 : ∃ (m : Fin 16) (s : State), Units s ∧ mbxRuns s m 0x0310 ∧ spinSel 0 1 (mbxAt s m).cmd = true ∧ par (mbxAt s m).cmd 16 16 = 0 ∧ owns s 0 = true :=
  ⟨0, running 0 0x310 2 [] motReady, by unfold Units mbxRuns MotSt.units; decide +kernel⟩

theorem witness_SpindleCommandsAndStart_17 : ∃ (p : Path) (s : State), writeGoes p R.SPN_CTL (BitVec.ofNat 32 (2 ^ 17 + rdN s R.SPN_CTL % 2 ^ 17)) s :=
  ⟨.core, motReady, by unfold writeGoes; decide +kernel⟩

theorem witness_ActuatorLoopAndCarrier_0 : ∃ (a : Fin 4) (w : BitVec 10) (omega alpha : Int) (ff : BitVec 16) (s : State), vcmComputes s a.val = true :=
  ⟨1, 0, 0, 0, 0, motReady |> setF (F.VCM_STATE 1) 3, by decide +kernel⟩

theorem witness_ActuatorLoopAndCarrier_1 : ∃ (l : Fin 9) (i : Fin 36) (s : State), motOn s = true ∧ l.val = 8 :=
  ⟨8, 0, motReady, by decide +kernel⟩

theorem witness_ActuatorLoopAndCarrier_2 : ∃ (l : Fin 9) (i : Fin 36) (s : State), motOn s = true ∧ l.val < 4 :=
  ⟨3, 0, motReady, by decide +kernel⟩

theorem witness_ActuatorLoopAndCarrier_3 : ∃ (l : Fin 9) (i : Fin 36) (s : State), motOn s = true ∧ 4 ≤ l.val ∧ l.val < 8 :=
  ⟨5, 1, motReady, by decide +kernel⟩

theorem witness_ActuatorLoopAndCarrier_4 : ∃ (p : Path) (l : Fin 9) (s : State), writeGoes p (R.CLE_LOOP l.val) (BitVec.ofNat 32 (getF s (F.CLE_SWAP_RST l.val) * 8 + 2)) s :=
  ⟨.core, 3, motReady, by unfold writeGoes; decide +kernel⟩

theorem witness_ActuatorLoopAndCarrier_5 : ∃ (p : Path) (s : State), writeGoes p R.CLE_CTL 1 s :=
  ⟨.core, motReady, by unfold writeGoes; decide +kernel⟩

theorem witness_ActuatorLoopAndCarrier_6 : ∃ (a : Fin 4) (s : State), headsLoaded s a.val = true ∧ owns s a.val = true ∧ (surfaces s a.val).any (tracking s a.val) = true ∧ ((surfaces s a.val).all (fun i => !tracking s a.val i || isSet s (F.FS_SRV_LOST a.val i)) = true) :=
  ⟨1, { motReady with desc := some ⟨4, 1, 2, 255, 7200, 256, 6, 3, 65535, 9000, 2000, 1000, 1200, 0, [], 0⟩ } |> setF (F.VCM_STATE 1) 3 |> setF (F.FS_SRV_LOST 1 0) 1, by decide +kernel⟩

theorem witness_ActuatorLoopAndCarrier_7 : ∃ (x : Carrier) (s : State), motOn s = true :=
  ⟨aCarrier, motReady, by decide +kernel⟩

theorem witness_ActuatorLoopAndCarrier_8 : ∃ s : State, motOn s = true ∧ hasEncoder s = true ∧ s.mot.spn.encLost = true :=
  ⟨{ motReady with mot := { motReady.mot with spn := { motReady.mot.spn with encLost := true } } }, by decide +kernel⟩

theorem witness_HeadLoadingParkingAndRetract_0 : ∃ (m : Fin 16) (s : State), mbxRuns s m 0x0311 ∧ par (mbxAt s m).cmd 8 1 = 1 ∧ fittedAct s (par (mbxAt s m).cmd 0 2) = true ∧ owns s (par (mbxAt s m).cmd 0 2) = true ∧ headsLoaded s (par (mbxAt s m).cmd 0 2) = false ∧ isSet s F.SPN_AT_SPEED = true ∧ 1800 ≤ getF s F.SPN_RPM :=
  ⟨0, running 0 0x311 0x101 [] (motReady |> setF F.SPN_AT_SPEED 1 |> setF F.SPN_RPM 7200), by unfold mbxRuns; decide +kernel⟩

theorem witness_HeadLoadingParkingAndRetract_1 : ∃ (m : Fin 16) (s : State), mbxRuns s m 0x0311 ∧ par (mbxAt s m).cmd 8 1 = 0 ∧ fittedAct s (par (mbxAt s m).cmd 0 2) = true ∧ owns s (par (mbxAt s m).cmd 0 2) = true ∧ getF (unloadHeads (par (mbxAt s m).cmd 0 2) s) (F.VCM_STATE (par (mbxAt s m).cmd 0 2)) = 4 :=
  ⟨0, running 0 0x311 1 [] (motReady |> setF F.SPN_AT_SPEED 1 |> setF (F.VCM_STATE 1) 3), by unfold mbxRuns; decide +kernel⟩

theorem witness_HeadLoadingParkingAndRetract_2 : ∃ (a : Fin 4) (band : BitVec 24) (s : State), getF s (F.VCM_STATE a.val) = 1 ∧ domOn s (2 + a.val) = true :=
  ⟨1, 5, motReady |> setF (F.VCM_STATE 1) 1, by decide +kernel⟩

theorem witness_HeadLoadingParkingAndRetract_3 : ∃ (p : Path) (a : Fin 4) (s : State), writeGoes p (R.VCM_CTL a.val) (BitVec.ofNat 32 (getF s (F.VCM_LOAD a.val) + 2)) s :=
  ⟨.core, 1, motReady, by unfold writeGoes; decide +kernel⟩

theorem witness_HeadLoadingParkingAndRetract_4 : ∃ (a : Fin 4) (s : State), Units s ∧ getF s (F.VCM_STATE a.val) = 5 :=
  ⟨1, setF (F.VCM_STATE 1) 5 motReady, by unfold Units MotSt.units; decide +kernel⟩

theorem witness_HeadLoadingParkingAndRetract_5 : ∃ (m : Fin 16) (s : State), Units s ∧ mbxRuns s m 0x0313 :=
  ⟨0, running 0 0x313 0 [] motReady, by unfold Units mbxRuns MotSt.units; decide +kernel⟩

theorem witness_HeadLoadingParkingAndRetract_6 : ∃ (m : Fin 16) (t i n : Nat) (s : State), Units s ∧ mbxRuns s m 0x0314 ∧ t = par (mbxAt s m).cmd 0 4 ∧ i = par (mbxAt s m).cmd 4 4 ∧ n = (if t = 0 then 256 else if t = 1 then 32 else if t = 2 then 1024 else 64) ∧ ((t < 2 ∧ i ≤ 3) ∨ t = 2 ∨ (t = 3 ∧ i ≤ 8 ∧ par (mbxAt s m).cmd 8 1 = 0)) ∧ (mbxAt s m).cmd.dataLen.toNat = 4 * n ∧ (mbxAt s m).cmd.ext.length = 4 * n :=
  ⟨5, 0, 0, 256, (fun s : State => { s with mbx := modAt s.mbx 5 (fun b => { b with cmd := { b.cmd with dataLen := 1024 } }) }) (runningExt 5 0x314 0 (List.replicate 1024 0) motReady), by unfold Units mbxRuns MotSt.units; decide +kernel⟩

theorem witness_HeadLoadingParkingAndRetract_6_1 : ∃ (m : Fin 16) (t i n : Nat) (s : State), Units s ∧ mbxRuns s m 0x0314 ∧ t = par (mbxAt s m).cmd 0 4 ∧ i = par (mbxAt s m).cmd 4 4 ∧ n = (if t = 0 then 256 else if t = 1 then 32 else if t = 2 then 1024 else 64) ∧ ((t < 2 ∧ i ≤ 3) ∨ t = 2 ∨ (t = 3 ∧ i ≤ 8 ∧ par (mbxAt s m).cmd 8 1 = 0)) ∧ (mbxAt s m).cmd.dataLen.toNat = 4 * n ∧ (mbxAt s m).cmd.ext.length = 4 * n :=
  ⟨5, 2, 0, 1024, (fun s : State => { s with mbx := modAt s.mbx 5 (fun b => { b with cmd := { b.cmd with dataLen := 4096 } }) }) (runningExt 5 0x314 2 (List.replicate 4096 0) motReady), by unfold Units mbxRuns MotSt.units; decide +kernel⟩

theorem witness_HeadLoadingParkingAndRetract_7 : ∃ (a : Fin 4) (s : State), getF s (F.VCM_STATE a.val) = 4 :=
  ⟨1, setF (F.VCM_STATE 1) 4 awake, by decide +kernel⟩

theorem witness_HeadLoadingParkingAndRetract_8 : ∃ (a : Fin 4) (s : State), getF s (F.VCM_STATE a.val) = 5 ∧ (vcmOf s a.val).latch = true :=
  ⟨1, awake |> setF (F.VCM_STATE 1) 5 |> updVcm 1 (fun x => { x with latch := true }), by decide +kernel⟩

theorem witness_HeadLoadingParkingAndRetract_9 : ∃ (a : Fin 4) (s : State), getF s (F.VCM_STATE a.val) = 5 ∧ (vcmOf s a.val).latch = false :=
  ⟨1, setF (F.VCM_STATE 1) 5 awake, by decide +kernel⟩

theorem witness_ModeChanges_0 : ∃ (m : Fin 16) (s : State), mbxRuns s m 0x0100 ∧ isModeSet 1 (mbxAt s m).cmd = true ∧ isSet s F.PWR_MODE_BUSY = false ∧ mode s = 1 ∧ isSet s F.SUP_STRAP_TEST_N = true ∧ isSet s F.SUP_STRAP_FLOAT = false :=
  ⟨0, running 0 0x100 1 [] (awake |> setF F.PWR_MODE_CUR 1 |> setF F.SUP_STRAP_TEST_N 1), by unfold mbxRuns; decide +kernel⟩

theorem witness_ModeChanges_1 : ∃ (m : Fin 16) (k : Fin 7) (takes : Bool) (s : State), Units s ∧ mbxRuns s m 0x0100 ∧ isModeSet (1 + k.val) (mbxAt s m).cmd = true ∧ isSet s F.PWR_MODE_BUSY = true :=
  ⟨0, 2, true, running 0 0x100 3 [] (full |> setF F.PWR_MODE_BUSY 1), by unfold Units mbxRuns MotSt.units; decide +kernel⟩

theorem witness_ModeChanges_2 : ∃ (m : Fin 16) (s : State), mbxRuns s m 0x0100 ∧ isModeSet 2 (mbxAt s m).cmd = true ∧ isSet s F.PWR_MODE_BUSY = false ∧ mode s = 2 ∧ ((s.bring.descRead = true → s.bring.descOk = true)) ∧ s.pair.take = .idle ∧ isSet s F.SUP_STRAP_CLASH = false :=
  ⟨0, running 0 0x100 2 [] (full |> setF F.PWR_MODE_CUR 2), by unfold mbxRuns; decide +kernel⟩

theorem witness_ModeChanges_3 : ∃ (m : Fin 16) (takes : Bool) (s : State), mbxRuns s m 0x0100 ∧ isModeSet 3 (mbxAt s m).cmd = true ∧ isSet s F.PWR_MODE_BUSY = false ∧ mode s = 3 ∧ pairRefused s takes = false :=
  ⟨0, true, running 0 0x100 3 [] (full |> setF F.NAL_UP 1), by unfold mbxRuns; decide +kernel⟩

theorem witness_ModeChanges_4 : ∃ (m : Fin 16) (takes : Bool) (s : State), mbxRuns s m 0x0100 ∧ isModeSet 3 (mbxAt s m).cmd = true ∧ isSet s F.PWR_MODE_BUSY = false ∧ mode s = 4 :=
  ⟨0, true, running 0 0x100 3 [] (full |> setF F.PWR_MODE_CUR 4), by unfold mbxRuns; decide +kernel⟩

theorem witness_ModeChanges_5 : ∃ (m : Fin 16) (takes : Bool) (s : State), mbxRuns s m 0x0100 ∧ isModeSet 4 (mbxAt s m).cmd = true ∧ isSet s F.PWR_MODE_BUSY = false ∧ mode s = 5 ∧ (pairMode s = false ∨ pairRefused s takes = false) :=
  ⟨0, true, running 0 0x100 4 [] (full |> setF F.PWR_MODE_CUR 5), by unfold mbxRuns; decide +kernel⟩

theorem witness_ModeChanges_6 : ∃ (m : Fin 16) (takes : Bool) (s : State), Units s ∧ mbxRuns s m 0x0100 ∧ isModeSet 5 (mbxAt s m).cmd = true ∧ isSet s F.PWR_MODE_BUSY = false ∧ mode s = 4 ∧ 1 ≤ leAt (mbxAt s m).cmd.data 0 2 ∧ leAt (mbxAt s m).cmd.data 0 2 ≤ 64 ∧ (mbxAt s m).cmd.len.toNat = 4 + 4 * leAt (mbxAt s m).cmd.data 0 2 :=
  ⟨0, true, runningLen 0 0x100 5 8 [1, 0, 0, 0, 7, 0, 0, 0] (full |> setF F.PWR_MODE_CUR 4), by unfold Units mbxRuns MotSt.units; decide +kernel⟩

theorem witness_ModeChanges_7 : ∃ (m : Fin 16) (takes : Bool) (s : State), mbxRuns s m 0x0100 ∧ isModeSet 6 (mbxAt s m).cmd = true ∧ isSet s F.PWR_MODE_BUSY = false ∧ mode s = 6 ∧ pairMode s = false ∧ mode (drainCancel (begun m s)) = 6 :=
  ⟨0, true, running 0 0x100 6 [] { (full |> setF F.PWR_MODE_CUR 6) with volu := { full.volu with drain := { full.volu.drain with jobs := [{ DrainJob.reset with vol := some 3 }, DrainJob.reset] } } }, by unfold mbxRuns; decide +kernel⟩

theorem witness_ModeChanges_8 : ∃ (m : Fin 16) (s : State), mbxRuns s m 0x0100 ∧ isModeSet 7 (mbxAt s m).cmd = true ∧ isSet s F.PWR_MODE_BUSY = false ∧ (mode s = 2 ∨ mode s = 4 ∨ (mode s = 5 ∧ getF s F.PWR_MODE_PRIOR = 4)) ∧ mode (dormantStart (begun m s)) ≠ 1 :=
  ⟨0, running 0 0x100 7 [] (motReady |> setF F.PWR_MODE_CUR 4 |> setF (F.VCM_STATE 0) 3), by unfold mbxRuns; decide +kernel⟩

theorem witness_ModeChanges_9 : ∃ (m : Fin 16) (s : State), Units s ∧ mbxRuns s m 0x0101 ∧ mode s = 7 ∧ isSet s F.SUP_SAFE_BUSY = false :=
  ⟨0, running 0 0x101 0 [] (full |> setF F.PWR_MODE_CUR 7), by unfold Units mbxRuns MotSt.units; decide +kernel⟩

theorem witness_ModeChanges_10 : ∃ s : State, mode s = 2 ∧ s.pair.hbSeen = false ∧ getF s F.PWR_SOLO_START_WAIT ≠ 0 ∧ isSet s F.SUP_STRAP_CLASH = false ∧ s.pair.take = .idle ∧ isSet s F.PWR_MODE_BUSY = false ∧ ((s.bring.descOk = true ∨ s.bring.descRead = false)) :=
  ⟨full |> setF F.PWR_MODE_CUR 2 |> setF F.PWR_SOLO_START_WAIT 5, by decide +kernel⟩

theorem witness_ModeChanges_11 : ∃ s : State, mode s = 4 ∧ getF s F.PWR_IDLE_FALLOW ≠ 0 ∧ isSet s F.PWR_MODE_BUSY = false ∧ diskIdle s = true :=
  ⟨full |> setF F.PWR_MODE_CUR 4 |> setF F.PWR_IDLE_FALLOW 5, by decide +kernel⟩

theorem witness_ModeChanges_12 : ∃ s : State, mode s = 3 ∧ getF s F.PWR_IDLE_FALLOW ≠ 0 ∧ isSet s F.PWR_MODE_BUSY = false ∧ diskIdle s = true ∧ isSet s F.NAL_UP = true :=
  ⟨full |> setF F.NAL_UP 1 |> setF F.PWR_IDLE_FALLOW 5, by decide +kernel⟩

theorem witness_ModeChanges_13 : ∃ s : State, s.pwr.target = some 5 ∧ (List.range 4).any (headsOut s) = false :=
  ⟨{ motReady with pwr := { motReady.pwr with target := some 5 } }, by decide +kernel⟩

theorem witness_ModeChanges_14 : ∃ (near : Bool) (x : Nat) (s : State), s.pwr.target = some x ∧ x ≠ 1 ∧ mode s = 5 ∧ isSet s F.SPN_AT_SPEED = true ∧ allLoaded s = true :=
  ⟨true, 3, { (full |> setF F.PWR_MODE_CUR 5 |> setF F.SPN_AT_SPEED 1) with pwr := { full.pwr with target := some 3 } }, by decide +kernel⟩

theorem witness_ModeChanges_15 : ∃ s : State, s.pwr.wakeFullCal = true :=
  ⟨{ full with pwr := { full.pwr with wakeFullCal := true } }, by decide +kernel⟩

theorem witness_ModeChanges_16 : ∃ s : State, mode s = 6 ∧ drainLeft s = [] ∧ s.volu.drain.stuck = [] ∧ (s.volu.drain.jobs.all (fun j => j.vol.isNone) = true) ∧ isSet s F.PWR_MODE_BUSY = false :=
  ⟨full |> setF F.PWR_MODE_CUR 6, by decide +kernel⟩

theorem witness_ModeChanges_17 : ∃ (peers : List Nat) (s : State), isSet s F.NAL_UP = true ∧ mode s = 3 ∧ isSet s F.PWR_MODE_BUSY = false ∧ s.pwr.target ≠ some 5 :=
  ⟨[], full |> setF F.NAL_UP 1, by decide +kernel⟩

theorem witness_ModeChanges_18 : ∃ (peers : List Nat) (s : State), isSet s F.NAL_UP = true :=
  ⟨[], full |> setF F.NAL_UP 1 |> setF F.PWR_MODE_CUR 6, by decide +kernel⟩

theorem witness_BringUpStepsOneToFive_0 : ∃ (rate : BitVec 13) (cap : BitVec 10) (channels : BitVec 4) (s : State), s.bring.active = true ∧ s.bring.dramTrained = false ∧ domOn s 15 = true :=
  ⟨3200, 64, 15, { full with bring := { full.bring with active := true } }, by decide +kernel⟩

theorem witness_BringUpStepsOneToFive_1 : ∃ (bytes : DescBytes) (s : State), s.bring.active = true ∧ s.bring.descRead = false :=
  ⟨[], { full with bring := { full.bring with active := true } }, by decide +kernel⟩

theorem witness_BringUpStepsOneToFive_2 : ∃ (check : BitVec 32) (valid : Bool) (s : State), s.bring.active = true ∧ isSet s F.NAL_UP = true :=
  ⟨1, true, setF F.NAL_UP 1 { full with bring := { full.bring with active := true } }, by decide +kernel⟩

theorem witness_BringUpStepsOneToFive_3 : ∃ (lanes : BitVec 16) (pos : Bool) (brick : BitVec 17) (recs : List (Nat × Bool × BitVec 16)) (s : State), domOn s 12 = true ∧ s.pins.nalTx = true ∧ isSet s (F.CLK_LOCKED 12) = true ∧ isSet s F.SUP_STRAP_FLOAT = false ∧ widthOf lanes ≠ 0 ∧ b2n pos ≠ devNo s :=
  ⟨15, true, 5, [], setF (F.CLK_LOCKED 12) 1 hosted, by decide +kernel⟩

theorem witness_BringUpStepsOneToFive_4 : ∃ (lanes : BitVec 16) (pos : Bool) (brick : BitVec 17) (recs : List (Nat × Bool × BitVec 16)) (s : State), RegsWf s ∧ domOn s 12 = true ∧ s.pins.nalTx = true ∧ isSet s (F.CLK_LOCKED 12) = true ∧ isSet s F.SUP_STRAP_FLOAT = false ∧ widthOf lanes ≠ 0 ∧ b2n pos = devNo s ∧ s.pair.clashLogged = true :=
  ⟨15, false, 5, [], setF (F.CLK_LOCKED 12) 1 { hosted with pair := { hosted.pair with clashLogged := true } }, by unfold RegsWf; decide +kernel⟩

theorem witness_BringUpStepsOneToFive_5 : ∃ s : State, s.pair.test.running = true ∧ s.pair.test.pulsing = true :=
  ⟨{ full with pair := { full.pair with test := { full.pair.test with running := true, pulsing := true } } }, by decide +kernel⟩

theorem witness_BringUpStepsOneToFive_6 : ∃ (saw : Bool) (s : State), s.pair.test.running = true ∧ isSet s F.NAL_UP = true ∧ s.pair.test.pulsed = true :=
  ⟨true, setF F.NAL_UP 1 { full with pair := { full.pair with test := { full.pair.test with running := true, pulsed := true } } }, by decide +kernel⟩

theorem witness_BringUpStepsOneToFive_7 : ∃ (ended saw : Bool) (s : State), isSet s F.NAL_UP = true :=
  ⟨true, true, setF F.NAL_UP 1 { full with pair := { full.pair with test := { full.pair.test with running := true } } }, by decide +kernel⟩

theorem witness_BringUpStepsOneToFive_8 : ∃ s : State, s.pair.test.running = true ∧ s.pair.test.pulsed = true ∧ s.pair.test.own = none :=
  ⟨{ full with pair := { full.pair with test := { full.pair.test with running := true, pulsed := true } } }, by decide +kernel⟩

theorem witness_BringUpStepsOneToFive_9 : ∃ (code : BitVec 16) (s : State), isSet s F.NAL_UP = true ∧ ctlMode s = true :=
  ⟨0, setF F.NAL_UP 1 full, by decide +kernel⟩

theorem witness_BringUpStepsOneToFive_10 : ∃ s : State, s.spdm.ask.isSome = true :=
  ⟨{ full with spdm := { full.spdm with ask := some 1 } }, by decide +kernel⟩

theorem witness_BringUpStepsOneToFive_11 : ∃ s : State, s.spdm.ask = none ∧ s.bring.attestOwn.isSome = true ∧ s.bring.attestPartner = none :=
  ⟨{ full with bring := { full.bring with attestOwn := some true } }, by decide +kernel⟩

theorem witness_BringUpStepsOneToFive_13 : ∃ (code n : Nat) (meas : List (List Byte)) (a b c d : Nat) (s : State), s.spdm.ask = some code :=
  ⟨0x84, 0xE1, [], 0, 0, 0, 0, { full with spdm := { full.spdm with ask := some 0x84 } }, by decide +kernel⟩

theorem witness_BringUpStepsSixToThirteen_0 : ∃ s : State, s.bring.active = true ∧ s.bring.replayed = false ∧ isSet s F.VAT_READY = true ∧ engOn s 8 = true ∧ channelsReady s = true :=
  ⟨{ (forN 32 (fun c s => setF (F.FC_STATE c) 2 s) full) with bring := { full.bring with active := true } }, by decide +kernel⟩

theorem witness_BringUpStepsSixToThirteen_1 : ∃ (lfps : List Nat) (gib : Nat) (base0 base1 : BitVec 64) (s : State), RegsWf s ∧ s.bring.active = true ∧ s.bring.replayed = true ∧ s.bring.dramTrained = true ∧ s.bring.maps = false :=
  ⟨[1000, 1000], 0, 0, 4096, { full with bring := { full.bring with active := true, replayed := true, dramTrained := true } }, by unfold RegsWf; decide +kernel⟩

theorem witness_BringUpStepsSixToThirteen_2 : ∃ s : State, s.bring.active = true ∧ s.bring.spindle = true ∧ s.bring.coarse = false ∧ isSet s F.SPN_AT_SPEED = true ∧ allLoaded s = true :=
  ⟨setF F.SPN_AT_SPEED 1 { full with bring := { full.bring with active := true, spindle := true } }, by decide +kernel⟩

theorem witness_BringUpStepsSixToThirteen_3 : ∃ s : State, s.bring.active = true ∧ s.bring.coarse = true ∧ s.bring.fullCal = false :=
  ⟨{ full with bring := { full.bring with active := true, coarse := true } }, by decide +kernel⟩

theorem witness_BringUpStepsSixToThirteen_4 : ∃ (step : Fin 14) (pmode : Fin 8) (s : State), isSet s F.NAL_UP = true :=
  ⟨13, 3, setF F.NAL_UP 1 full, by decide +kernel⟩

theorem witness_BringUpStepsSixToThirteen_5 : ∃ s : State, step13 s = true ∧ mode s = 2 ∧ s.nv.startFallow = false ∧ (s.bring.tookOver = true ∨ fullReady s = true) :=
  ⟨setF F.PWR_MODE_CUR 2 { full with bring := { full.bring with active := true, dramFilled := true, maps := true, descOk := true, tookOver := true } }, by decide +kernel⟩

theorem witness_BringUpStepsSixToThirteen_6 : ∃ s : State, step13 s = true ∧ mode s = 4 :=
  ⟨setF F.PWR_MODE_CUR 4 { full with bring := { full.bring with active := true, dramFilled := true, maps := true, descOk := true } }, by decide +kernel⟩

theorem witness_HeartbeatAndFence_0 : ∃ s : State, live s = true :=
  ⟨awake, by decide +kernel⟩

theorem witness_HeartbeatAndFence_1 : ∃ (w : BitVec 16) (s : State), live s = true ∧ hbValid w = true :=
  ⟨aHeartbeat, awake, by decide +kernel⟩

theorem witness_HeartbeatAndFence_2 : ∃ s : State, live s = true ∧ s.pair.hbSeen = true ∧ s.pair.hbLost = false :=
  ⟨{ awake with pair := { awake.pair with hbSeen := true } }, by decide +kernel⟩

theorem witness_HeartbeatAndFence_3 : ∃ (w : BitVec 16) (s : State), isSet s F.NAL_UP = true ∧ hbValid w = true :=
  ⟨aHeartbeat, setF F.NAL_UP 1 full, by decide +kernel⟩

theorem witness_HeartbeatAndFence_4 : ∃ (level : Bool) (s : State), s.pair.test.running = true ∧ live s = true :=
  ⟨true, { awake with pair := { awake.pair with test := { awake.pair.test with running := true } } }, by decide +kernel⟩

theorem witness_HeartbeatAndFence_5 : ∃ s : State, s.pair.test.running = false ∧ live s = true ∧ fenceReacts s = true :=
  ⟨{ full with pair := { full.pair with fenceArmed := true } }, by decide +kernel⟩

theorem witness_TakeoverEvents_0 : ∃ s : State, isSet s F.NAL_UP = true ∧ ctlMode s = true ∧ s.pins.nalTx = true ∧ s.pwr.wedged = false ∧ s.pair.hbViaNal = true :=
  ⟨setF F.NAL_UP 1 { full with pair := { full.pair with hbViaNal := true }, pins := { full.pins with nalTx := true } }, by decide +kernel⟩

theorem witness_TakeoverEvents_1 : ∃ s : State, isSet s F.NAL_UP = true ∧ ctlMode s = true ∧ s.pins.nalTx = true ∧ s.pwr.wedged = false ∧ s.pair.hbViaNal = false :=
  ⟨setF F.NAL_UP 1 { full with pins := { full.pins with nalTx := true } }, by decide +kernel⟩

theorem witness_TakeoverEvents_2 : ∃ s : State, isSet s F.NAL_UP = true ∧ s.pair.take = .ping :=
  ⟨setF F.NAL_UP 1 { full with pair := { full.pair with take := .ping } }, by decide +kernel⟩

theorem witness_TakeoverEvents_3 : ∃ s : State, s.pair.take = .ping :=
  ⟨{ full with pair := { full.pair with take := .ping } }, by decide +kernel⟩

theorem witness_TakeoverEvents_4 : ∃ s : State, s.pair.take = .holdoff :=
  ⟨{ full with pair := { full.pair with take := .holdoff } }, by decide +kernel⟩

theorem witness_TakeoverEvents_5 : ∃ s : State, s.pair.take = .fence ∧ (s.pair.takeSolo = false ∨ isSet s F.SUP_STRAP_CLASH = false) :=
  ⟨{ full with pair := { full.pair with take := .fence } }, by decide +kernel⟩

theorem witness_TakeoverEvents_6 : ∃ (left : FlashMeta) (busy : List Nat) (erasing : List (Nat × Nat × Nat)) (s : State), s.pair.take = .won ∧ s.pair.takeStepsDone.contains 9 = false :=
  ⟨noMeta, [], [], { full with pair := { full.pair with take := .won } }, by decide +kernel⟩

theorem witness_TakeoverEvents_7 : ∃ (a : Fin 4) (s : State), RegsWf s ∧ s.pair.catching.contains a.val = true ∧ (getF s (F.VCM_STATE a.val) = 2 ∨ getF s (F.VCM_STATE a.val) = 3) :=
  ⟨1, setF (F.VCM_STATE 1) 2 { full with pair := { full.pair with catching := [1] } }, by unfold RegsWf; decide +kernel⟩

theorem witness_TakeoverEvents_8 : ∃ (a : Fin 4) (s : State), s.pair.catching.contains a.val = true :=
  ⟨1, setF (F.VCM_STATE 1) 2 { full with pair := { full.pair with catching := [1] } }, by decide +kernel⟩

theorem witness_TakeoverEvents_9 : ∃ (left : FlashMeta) (s : State), s.pair.take = .won ∧ s.pair.takeStepsDone.contains 9 = true ∧ isSet s F.VAT_READY = true :=
  ⟨noMeta, { full with pair := { full.pair with take := .won, takeStepsDone := [9] } }, by decide +kernel⟩

theorem witness_TokenTransfers_0 : ∃ (t : Fin 64) (s : State), giveReady s t.val = true ∧ (4 ≤ t.val ∨ headsOut s t.val = false) :=
  ⟨4, setF F.NAL_UP 1 { full with pair := { full.pair with give := [4] } }, by decide +kernel⟩

theorem witness_TokenTransfers_1 : ∃ (t : Fin 64) (e : BitVec 16) (left : FlashMeta) (s : State), isSet s F.NAL_UP = true ∧ isSet s F.VAT_READY = true ∧ tokUsed t.val = true ∧ (tok s t.val).state = .partner ∧ newer 16 (tok s t.val).epoch.toNat e.toNat = false ∧ willing s = true :=
  ⟨5, 3, noMeta, setF F.NAL_UP 1 full, by decide +kernel⟩

theorem witness_TokenTransfers_2 : ∃ (t : Fin 64) (e : BitVec 16) (left : FlashMeta) (s : State), isSet s F.NAL_UP = true ∧ isSet s F.VAT_READY = true ∧ tokUsed t.val = true ∧ ((tok s t.val).state = .owned ∨ (tok s t.val).state = .releasing) ∧ (tok s t.val).epoch = e + 1 :=
  ⟨4, 65535, noMeta, setF F.NAL_UP 1 full, by decide +kernel⟩

theorem witness_TokenTransfers_3 : ∃ (t : Fin 64) (e : BitVec 16) (s : State), isSet s F.NAL_UP = true ∧ (tok s t.val).state = .releasing ∧ e = (tok s t.val).epoch + 1 :=
  ⟨4, 1, setTok 4 ⟨.releasing, 0, 0⟩ (setF F.NAL_UP 1 full), by decide +kernel⟩

theorem witness_TokenTransfers_4 : ∃ (t : Fin 64) (s : State), isSet s F.NAL_UP = true ∧ (tok s t.val).state = .releasing ∧ sharedOk s = true ∧ 4 ≤ t.val ∧ t.val < 8 :=
  ⟨4, setTok 4 ⟨.releasing, 0, 0⟩ (setF F.NAL_UP 1 full), by decide +kernel⟩

theorem witness_TokenTransfers_5 : ∃ (t : Fin 64) (s : State), isSet s F.NAL_UP = true ∧ (tok s t.val).state = .releasing ∧ (t.val < 4 ∨ 8 ≤ t.val) ∧ sharedOk s = true :=
  ⟨8, setTok 8 ⟨.releasing, 0, 0⟩ (setF F.NAL_UP 1 full), by decide +kernel⟩

theorem witness_TokenTransfers_6 : ∃ (t : Fin 64) (s : State), (tok s t.val).state = .releasing :=
  ⟨8, setTok 8 ⟨.releasing, 0, 0⟩ full, by decide +kernel⟩

theorem witness_TokenTransfers_7 : ∃ (t : Fin 64) (e : BitVec 16) (s : State), isSet s F.NAL_UP = true ∧ isSet s F.VAT_READY = true ∧ tokUsed t.val = true :=
  ⟨8, 0, setF F.NAL_UP 1 full, by decide +kernel⟩

theorem witness_TorqueHandoverAndBlend_0 : ∃ s : State, motOn s = true :=
  ⟨motReady, by decide +kernel⟩

theorem witness_TorqueHandoverAndBlend_1 : ∃ (n cmd : BitVec 16) (s : State), isSet s F.NAL_UP = true ∧ owns s 0 = false ∧ partnerSpins s = true ∧ (s.pair.torqueApplied.all (fun a => newer 16 n.toNat a.toNat) = true) ∧ isSet s F.NAL_TORQUE_LOCAL = false ∧ spnState s = 5 :=
  ⟨1, 500, motReady |> setF F.NAL_UP 1 |> setTok 0 ⟨.partner, 1, 0⟩ |> setF F.SPN_STATE 5 |> fun s => { s with pwr := { s.pwr with startPermitted := true } }, by decide +kernel⟩

theorem witness_TorqueHandoverAndBlend_2 : ∃ (m : Fin 16) (s : State), Units s ∧ mbxRuns s m 0x0A00 ∧ mode s = 3 ∧ s.pair.partnerMode = 3 ∧ isSet s F.NAL_UP = true ∧ s.pair.handover = none ∧ 3 ≤ getF s F.NAL_WIDTH ∧ s.pair.partnerProto = none :=
  ⟨0, running 0 0xA00 0 [] ({ full with pair := { full.pair with partnerMode := 3 } } |> setF F.NAL_UP 1 |> setF F.NAL_WIDTH 4), by unfold Units mbxRuns MotSt.units; decide +kernel⟩

theorem witness_TorqueHandoverAndBlend_3 : ∃ s : State, s.pair.handover = some ⟨true, 2⟩ ∧ groupsDrained s = true :=
  ⟨{ full with pair := { full.pair with handover := some ⟨true, 2⟩ } }, by decide +kernel⟩

theorem witness_TorqueHandoverAndBlend_4 : ∃ (a : Fin 4) (s : State), giveReady s a.val = true ∧ headsLoaded s a.val = true ∧ (bandOf s a.val).isNone = true ∧ s.pair.blends.getD a.val none = none :=
  ⟨1, setF F.NAL_UP 1 (setF (F.VCM_STATE 1) 3 { full with pair := { full.pair with give := [1] } }), by decide +kernel⟩

theorem witness_TorqueHandoverAndBlend_5 : ∃ (a : Fin 4) (cmd : BitVec 16) (sect : List (List Int)) (s : State), RegsWf s ∧ Units s ∧ isSet s F.NAL_UP = true ∧ motOn s = true ∧ owns s a.val = false ∧ fittedAct s a.val = true ∧ domOn s (2 + a.val) = true :=
  ⟨2, 100, [], setF F.NAL_UP 1 motReady, by unfold Units RegsWf MotSt.units; decide +kernel⟩

theorem witness_TorqueHandoverAndBlend_6 : ∃ (a : Fin 4) (b : Blend) (s : State), s.pair.blends.getD a.val none = some b ∧ b.giving = true ∧ b.ramped = false ∧ owns s a.val = true ∧ isSet s F.NAL_UP = true :=
  ⟨1, ⟨true, 0, 0, false⟩, setF F.NAL_UP 1 { full with pair := { full.pair with blends := setAt full.pair.blends 1 (some ⟨true, 0, 0, false⟩) } }, by decide +kernel⟩

theorem witness_TorqueHandoverAndBlend_7 : ∃ (a : Fin 4) (b : Blend) (s : State), s.pair.blends.getD a.val none = some b ∧ b.giving = false ∧ owns s a.val = false :=
  ⟨2, ⟨false, 0, 0, false⟩, { full with pair := { full.pair with blends := setAt full.pair.blends 2 (some ⟨false, 0, 0, false⟩) } }, by decide +kernel⟩

theorem witness_ServoWedgesAndZones_0 : ∃ (h : Fin 144) (g : Wedge) (s : State), domOn s (2 + actOf h.val) = true ∧ fitted s h.val = true :=
  ⟨3, aWedge, motReady, by decide +kernel⟩

theorem witness_ServoWedgesAndZones_1 : ∃ (p : Path) (a : Fin 4) (s : State), writeGoes p (R.FS_ZT_CTL a.val) 1 s :=
  ⟨.core, 1, motReady, by unfold writeGoes; decide +kernel⟩

theorem witness_ServoWedgesAndZones_2 : ∃ (a : Fin 4) (k : Fin 8128) (w : BitVec 32) (s : State), MemWf s ∧ writeGoes .core (0x1E0000 + 0x8000 * a.val + 4 * k.val) w s :=
  ⟨1, 5, 0x01020304, motReady, by unfold MemWf writeGoes Memory.wf; decide +kernel⟩

theorem witness_SectorsAndDecoders_0 : ∃ (h : Fin 144) (k : Fin 1024) (g : SectorHead) (b : Band) (s : State), bandOf s (actOf h.val) = some b ∧ b.armed = true ∧ bandOp b = 3 ∧ headReads s h.val = true ∧ b.left.contains (h.val % 36, k.val) = true ∧ (headOf s h.val).cur = none ∧ (headOf s h.val).pool = [] ∧ (headOf s h.val).ladder = [] ∧ (headOf s h.val).complete = [] :=
  ⟨0, 2, ⟨[], [], (0, []), (0, [])⟩, { aBand 3 1 true with left := [(0, 2)] }, withBand { aBand 3 1 true with left := [(0, 2)] } (setF (F.HC_ADMITTED 0) 1 motReady), by decide +kernel⟩

theorem witness_SectorsAndDecoders_1 : ∃ (h : Fin 144) (place : Nat) (mean : Int) (run : Nat) (s : State), RegsWf s ∧ Units s ∧ domOn s (2 + actOf h.val) = true ∧ isSet s (F.HC_TA_EN h.val) = true ∧ (headOf s h.val).ta = false ∧ getF s (F.HC_TA_THRESH h.val) < mean.natAbs ∧ getF s (F.HC_TA_MIN h.val) ≤ run :=
  ⟨3, 0, 4000, 100, motReady |> setF (F.HC_TA_EN 3) 1, by unfold Units RegsWf MotSt.units; decide +kernel⟩

theorem witness_SectorsAndDecoders_2 : ∃ (h : Fin 144) (place : Nat) (mean : Int) (run : Nat) (s : State), Units s ∧ (headOf s h.val).ta = true ∧ 2 * mean.natAbs ≤ getF s (F.HC_TA_THRESH h.val) ∧ 64 ≤ run :=
  ⟨3, 5, 0, 64, updHead 3 (fun x => { x with ta := true }) motReady, by unfold Units MotSt.units; decide +kernel⟩

theorem witness_SectorsAndDecoders_3 : ∃ (h : Fin 144) (f0 : List Int) (parts : List SectorPart) (x : SectorRd) (s : State), (headOf s h.val).cur = some x ∧ s.pool.queue.length ≤ 88 :=
  ⟨3, [], [], ⟨5, none, 1, [], [], 0, 0⟩, updHead 3 (fun y => { y with cur := some ⟨5, none, 1, [], [], 0, 0⟩ }) motReady, by decide +kernel⟩

theorem witness_SectorsAndDecoders_4 : ∃ (h : Fin 144) (f0 : List Int) (parts : List SectorPart) (x : SectorRd) (s : State), (headOf s h.val).cur = some x ∧ 88 < s.pool.queue.length :=
  ⟨3, [], [], ⟨5, none, 1, [], [], 0, 0⟩, updHead 3 (fun y => { y with cur := some ⟨5, none, 1, [], [], 0, 0⟩ }) { motReady with pool := { motReady.pool with queue := List.replicate 89 ⟨0, 0, 0, false, [], false⟩ } }, by decide +kernel⟩

theorem witness_SectorsAndDecoders_5 : ∃ (d : Fin 80) (c : Cw) (r : List Cw) (s : State), s.pool.queue = c :: r ∧ decFree s d.val = true :=
  ⟨3, ⟨0, 0, 0, false, [], false⟩, [], { motReady with pool := { motReady.pool with queue := [⟨0, 0, 0, false, [], false⟩] } }, by decide +kernel⟩

theorem witness_SectorsAndDecoders_6 : ∃ (d : Fin 80) (j : DecJob) (s : State), (s.pool.active.find? (fun j => j.dec = d.val) = some j) ∧ j.cw.retry = true ∧ j.busy = false :=
  ⟨3, ⟨3, ⟨0, 0, 0, true, [], false⟩, 8, false⟩, { motReady with pool := { motReady.pool with active := [⟨3, ⟨0, 0, 0, true, [], false⟩, 8, false⟩] } }, by decide +kernel⟩

theorem witness_SectorsAndDecoders_7 : ∃ (d : Fin 80) (j : DecJob) (s : State), (s.pool.active.find? (fun j => j.dec = d.val) = some j) ∧ j.cw.retry = false ∧ j.busy = false :=
  ⟨3, ⟨3, ⟨0, 0, 0, false, [], false⟩, 8, false⟩, { motReady with pool := { motReady.pool with active := [⟨3, ⟨0, 0, 0, false, [], false⟩, 8, false⟩] } }, by decide +kernel⟩

theorem witness_SectorsAndDecoders_8 : ∃ (d : Fin 80) (c : Cw) (s : State), (s.pool.retry.find? (fun c => c.redo) = some c) ∧ decFree s d.val = true ∧ s.pool.queue.length ≤ busyLevel s :=
  ⟨3, ⟨0, 0, 0, true, [], true⟩, { motReady with pool := { motReady.pool with retry := [⟨0, 0, 0, true, [], true⟩] } }, by decide +kernel⟩

theorem witness_LadderAndWriteUnsafe_0 : ∃ (h : Fin 144) (x : SectorRd) (rest : List SectorRd) (g : SectorHead) (f0 : List Int) (parts : List SectorPart) (s : State), (headOf s h.val).ladder = x :: rest ∧ x.sid < 2 ^ 64 ∧ domOn s (2 + actOf h.val) = true ∧ (headReads s h.val = true ∨ x.step = 8 ∨ x.step = 12) :=
  ⟨3, ⟨5, none, 1, [], [0], 1, 0⟩, [], ⟨[], [], (0, []), (0, [])⟩, [], [], updHead 3 (fun y => { y with ladder := [⟨5, none, 1, [], [0], 1, 0⟩] }) (setF (F.HC_ADMITTED 3) 1 motReady), by decide +kernel⟩

theorem witness_LadderAndWriteUnsafe_1 : ∃ (h : Fin 144) (s : State), (isSet s (F.HC_ADMITTED h.val) = false ∨ owns s (actOf h.val) = false) :=
  ⟨100, motReady, by decide +kernel⟩

theorem witness_LadderAndWriteUnsafe_2 : ∃ (h : Fin 144) (s : State), writing s h.val = true :=
  ⟨0, withBand (aBand 2 1 true) motReady, by decide +kernel⟩

theorem witness_LadderAndWriteUnsafe_3 : ∃ (h : Fin 144) (b : Band) (s : State), Units s ∧ bandOf s (actOf h.val) = some b ∧ b.armed = true ∧ bandOp b = 2 ∧ bitAt b.mask (h.val % 36) = true :=
  ⟨0, aBand 2 1 true, withBand (aBand 2 1 true) motReady, by unfold Units MotSt.units; decide +kernel⟩

theorem witness_HeadChannelCommands_0 : ∃ (h : Fin 144) (gain margin allowance : BitVec 8) (c : HtrCal) (s : State), (headOf s h.val).cal = some c :=
  ⟨3, 8, 2, 1, ⟨5, [(0, 90)], 5, true⟩, updHead 3 (fun y => { y with cal := some ⟨5, [(0, 90)], 5, true⟩ }) motReady, by decide +kernel⟩

theorem witness_HeadChannelCommands_0_1 : ∃ (h : Fin 144) (gain margin allowance : BitVec 8) (c : HtrCal) (s : State), (headOf s h.val).cal = some c :=
  ⟨3, 8, 2, 1, ⟨5, [], 5, true⟩, updHead 3 (fun y => { y with cal := some ⟨5, [], 5, true⟩ }) motReady, by decide +kernel⟩

theorem witness_HeadChannelCommands_0_2 : ∃ (h : Fin 144) (gain margin allowance : BitVec 8) (c : HtrCal) (s : State), (headOf s h.val).cal = some c :=
  ⟨3, 8, 2, 1, ⟨5, [], 5, true⟩, (motReady |> setF (F.HC_HTR_MAX 3) 9 |> updHead 3 (fun y => { y with cal := some ⟨5, [], 5, true⟩ })), by decide +kernel⟩

theorem witness_HeadChannelCommands_1 : ∃ (m : Fin 16) (channel : BitVec 144) (s : State), Units s ∧ mbxRuns s m 0x0300 ∧ par (mbxAt s m).cmd 0 8 = 1 ∧ ((headMask (mbxAt s m).cmd.data).all (fun h => fitted s h && owns s (actOf h) && (headOf s h).cal.isNone) = true) :=
  ⟨0, 1, running 0 0x300 1 (1 :: List.replicate 17 0) motReady, by unfold Units mbxRuns MotSt.units; decide +kernel⟩

theorem witness_HeadChannelCommands_2 : ∃ (m : Fin 16) (s : State), Units s ∧ RegsWf s ∧ mbxRuns s m 0x0301 ∧ par (mbxAt s m).cmd 0 8 < 144 ∧ fitted s (par (mbxAt s m).cmd 0 8) = true ∧ par (mbxAt s m).cmd 8 1 = 0 :=
  ⟨0, running 0 0x301 5 [] motReady, by unfold Units RegsWf mbxRuns MotSt.units; decide +kernel⟩

theorem witness_HeadChannelCommands_3 : ∃ (m : Fin 16) (s : State), Units s ∧ mbxRuns s m 0x0301 ∧ par (mbxAt s m).cmd 0 8 < 144 ∧ fitted s (par (mbxAt s m).cmd 0 8) = true ∧ par (mbxAt s m).cmd 8 1 = 1 :=
  ⟨0, running 0 0x301 0x105 [] motReady, by unfold Units mbxRuns MotSt.units; decide +kernel⟩

theorem witness_HeadChannelCommands_4 : ∃ (m : Fin 16) (s : State), Units s ∧ mbxRuns s m 0x0302 ∧ par (mbxAt s m).cmd 0 8 < 144 :=
  ⟨0, running 0 0x302 5 [] motReady, by unfold Units mbxRuns MotSt.units; decide +kernel⟩

theorem witness_HeadChannelCommands_5 : ∃ (p : Path) (w : BitVec 4) (s : State), writeGoes p R.HC_GCTL (w.zeroExtend 32) s :=
  ⟨.core, 15, motReady, by unfold writeGoes; decide +kernel⟩

theorem witness_SequencerActions_0 : ∃ (a : Fin 4) (w : Nat) (s : State), fsActs s a.val 0 w :=
  ⟨0, 0, seqAt 0, by unfold fsActs; decide +kernel⟩

theorem witness_SequencerActions_1 : ∃ (a : Fin 4) (w : Nat) (v : Word) (s : State), fsActs s a.val 1 w ∧ a.val < s.fs.length ∧ (fsOf s a.val).gr.length = 32 ∧ (aluOp (wAlu w) (gr s a.val (wRa w)) (gr s a.val (wRb w))).1 = some v :=
  ⟨0, 1 <<< 90, 0, seqAt (1 <<< 90), by unfold fsActs; decide +kernel⟩

theorem witness_SequencerActions_2 : ∃ (a : Fin 4) (w : Nat) (s : State), fsActs s a.val 1 w :=
  ⟨0, 1 <<< 90, seqAt (1 <<< 90), by unfold fsActs; decide +kernel⟩

theorem witness_SequencerActions_3 : ∃ (a : Fin 4) (w : Nat) (v : Word) (s : State), fsActs s a.val 2 w ∧ a.val < s.fs.length ∧ (fsOf s a.val).gr.length = 32 ∧ (aluOp (wAlu w) (gr s a.val (wRa w)) (BitVec.ofNat 32 (wImm w))).1 = some v :=
  ⟨0, 2 <<< 90, 0, seqAt (2 <<< 90), by unfold fsActs; decide +kernel⟩

theorem witness_SequencerActions_4 : ∃ (a : Fin 4) (w : Nat) (s : State), fsActs s a.val 5 w ∧ a.val < s.fs.length :=
  ⟨0, 5 <<< 90, seqAt (5 <<< 90), by unfold fsActs; decide +kernel⟩

theorem witness_SequencerActions_5 : ∃ (a : Fin 4) (w : Nat) (s : State), fsActs s a.val 6 w :=
  ⟨0, 6 <<< 90, seqAt (6 <<< 90), by unfold fsActs; decide +kernel⟩

theorem witness_SequencerActions_6 : ∃ (a : Fin 4) (pos w : Nat) (b : Band) (s : State), fsActs s a.val 7 w ∧ (bandOf (updBand a.val (fun b => { b with desc := { b.desc with bytes := grBytes (fsActed a.val s) a.val (wRa w) 8 } }) (fsActed a.val s)) a.val = some b) :=
  ⟨0, 0, 7 <<< 90, { aBand 3 1 true with desc := ⟨List.replicate 32 0, 0, 0⟩ }, withWord (7 <<< 90) (some (aBand 3 1 true)), by unfold fsActs; decide +kernel⟩

theorem witness_SequencerActions_7 : ∃ (a : Fin 4) (w : Nat) (b : Band) (s : State), fsActs s a.val 8 w ∧ bandOf s a.val = some b ∧ b.armed = true ∧ bandOp b = 2 ∧ owns s a.val = true ∧ s.pwr.diskWait = false ∧ s.pwr.startPermitted = true ∧ heldSafe s (5 + a.val) = false :=
  ⟨0, 8 <<< 90, aBand 2 1 true, (fun s : State => { s with nv := { s.nv with tokens := [(0, ⟨.owned, 0, 0⟩)] }, pwr := { s.pwr with startPermitted := true } }) (withWord (8 <<< 90) (some (aBand 2 1 true))), by unfold fsActs; decide +kernel⟩

theorem witness_SequencerActions_8 : ∃ (a : Fin 4) (w : Nat) (s : State), fsActs s a.val 9 w :=
  ⟨0, 9 <<< 90, seqAt (9 <<< 90), by unfold fsActs; decide +kernel⟩

theorem witness_SequencerActions_9 : ∃ (a : Fin 4) (w : Nat) (s : State), fsActs s a.val 10 w ∧ isSet s (F.FS_BQ_HOLD a.val) = false ∧ (bandOf s a.val).isSome = false :=
  ⟨0, 10 <<< 90, seqAt (10 <<< 90), by unfold fsActs; decide +kernel⟩

theorem witness_SequencerActions_10 : ∃ (a : Fin 4) (w : Nat) (s : State), RegsWf s ∧ fsActs s a.val 11 w ∧ owns s a.val = true ∧ headsLoaded s a.val = true :=
  ⟨0, 11 <<< 90, setF (F.VCM_STATE 0) 3 (seqAt (11 <<< 90)), by unfold RegsWf fsActs; decide +kernel⟩

theorem witness_SequencerActions_11 : ∃ (a : Fin 4) (w : Nat) (s : State), RegsWf s ∧ fsActs s a.val 12 w :=
  ⟨0, 12 <<< 90, seqAt (12 <<< 90), by unfold RegsWf fsActs; decide +kernel⟩

theorem witness_SequencerControlAndCommands_0 : ∃ (a : Fin 4) (s : State), domOn s (2 + a.val) = true ∧ getF s (F.FS_STATE a.val) = 3 ∧ isSet s (F.FS_MCHK_STUCK a.val) = false :=
  ⟨0, setF (F.FS_STATE 0) 3 motReady, by decide +kernel⟩

theorem witness_SequencerControlAndCommands_1 : ∃ (a : Fin 4) (rev wedge sector : Bool) (slots : Nat) (upset : BitVec 104) (w : Nat) (s s1 : State), fsRuns s a.val = true ∧ s1 = (s |> slotsPass a.val (min slots 1024) |> revPass a.val rev) ∧ (fsOf s1 a.val).word = some w ∧ (fsOf s1 a.val).acted = true ∧ classMet s1 a.val w rev wedge sector = true :=
  ⟨0, true, true, true, 0, 0, 0, setF (F.FS_STATE 0) 1 { motReady with fs := setAt motReady.fs 0 { FsSt.reset with word := some 0, acted := true } }, revPass 0 true (slotsPass 0 0 (setF (F.FS_STATE 0) 1 { motReady with fs := setAt motReady.fs 0 { FsSt.reset with word := some 0, acted := true } })), by decide +kernel⟩

theorem witness_SequencerControlAndCommands_2 : ∃ (a : Fin 4) (rev : Bool) (upset : BitVec 104) (w : Nat) (s : State), fsRuns s a.val = true ∧ (fsOf s a.val).word = some w ∧ (fsOf s a.val).acted = true ∧ 3 ≤ wCcls w ∧ wCcls w ≤ 8 ∧ wTmo w ≠ 0 :=
  ⟨0, true, 0, 3 <<< 28 + 1 <<< 16, setF (F.FS_STATE 0) 1 { motReady with fs := setAt motReady.fs 0 { FsSt.reset with word := some (3 <<< 28 + 1 <<< 16), acted := true } }, by decide +kernel⟩

theorem witness_SequencerControlAndCommands_3 : ∃ (p : Path) (a : Fin 4) (s : State), writeGoes p (R.FS_CTL a.val) (BitVec.ofNat 32 (4 + getF s (F.FS_BQ_HOLD a.val))) s :=
  ⟨.core, 0, motReady, by unfold writeGoes; decide +kernel⟩

theorem witness_SequencerControlAndCommands_4 : ∃ (p : Path) (a : Fin 4) (s : State), writeGoes p (R.FS_CTL a.val) (BitVec.ofNat 32 (2 + getF s (F.FS_BQ_HOLD a.val))) s :=
  ⟨.core, 0, motReady, by unfold writeGoes; decide +kernel⟩

theorem witness_SequencerControlAndCommands_5 : ∃ (a : Fin 4) (freeze : Bool) (s : State), RegsWf s ∧ writeGoes .core (R.FS_TRC_CTL a.val) (BitVec.ofNat 32 (b2n freeze * 4 + rdN s (R.FS_TRC_CTL a.val) % 4)) s :=
  ⟨0, true, motReady, by unfold RegsWf writeGoes; decide +kernel⟩

theorem witness_SequencerControlAndCommands_6 : ∃ (p : Path) (a : Fin 4) (s : State), readGoes p (R.FS_TRC_DATA_LO a.val) s :=
  ⟨.core, 0, motReady, by unfold readGoes; decide +kernel⟩

theorem witness_SequencerControlAndCommands_7 : ∃ (m : Fin 16) (s : State), Units s ∧ mbxRuns s m 0x0308 ∧ owns s (par (mbxAt s m).cmd 0 2) = true ∧ (bandOf s (par (mbxAt s m).cmd 0 2)).isSome = false :=
  ⟨5, running 5 0x308 0 [] motReady, by unfold Units mbxRuns MotSt.units; decide +kernel⟩

theorem witness_SequencerControlAndCommands_8 : ∃ (m : Fin 16) (s : State), Units s ∧ mbxRuns s m 0x0309 ∧ par (mbxAt s m).cmd 26 6 ≠ 0 ∧ par (mbxAt s m).cmd 26 6 ≤ 62 :=
  ⟨5, running 5 0x309 (1 <<< 26) [] motReady, by unfold Units mbxRuns MotSt.units; decide +kernel⟩

theorem witness_SequencerControlAndCommands_9 : ∃ (m : Fin 16) (s : State), Units s ∧ mbxRuns s m 0x030A ∧ par (mbxAt s m).cmd 0 8 < 144 :=
  ⟨0, running 0 0x30A 5 [] motReady, by unfold Units mbxRuns MotSt.units; decide +kernel⟩

theorem witness_RegisterAccesses_1 : ∃ (p : Path) (a w w2 : BitVec 32) (env : RegEnv) (s : State), a.toNat % 8 = 0 :=
  ⟨.core, 0x8, 1, 2, ⟨none, false, 0, []⟩, full, by decide +kernel⟩

theorem witness_RegisterAccesses_4 : ∃ (p : Path) (a : BitVec 32) (s : State), a.toNat % 8 = 0 :=
  ⟨.core, 0x8, full, by decide +kernel⟩

theorem witness_RegisterAccesses_5 : ∃ (p : Path) (a : BitVec 32) (s : State), loPair a.toNat = true :=
  ⟨.core, BitVec.ofNat 32 R.SUP_TIME_LO, full, by decide +kernel⟩

theorem witness_RegisterAccesses_6 : ∃ (p : Path) (a : BitVec 32) (s : State), counterHi a.toNat = true :=
  ⟨.core, BitVec.ofNat 32 (R.NAL_REPLAY_LO + 4), full, by decide +kernel⟩

theorem witness_RegisterAccesses_7 : ∃ (m : Fin 16) (x : Word) (s : State), Units s ∧ mbxRuns s m 0x0008 ∧ par (mbxAt s m).cmd 32 16 = 1 ∧ dptr (mbxAt s m).cmd = false ∧ (mbxAt s m).regAt = 0 ∧ (mbxAt s m).regData = [] ∧ (regRead (.mbx m) (par (mbxAt s m).cmd 0 32 % 2 ^ 32) (begun m s)).2 = some (0, x) :=
  ⟨14, 0x375a00, running 14 8 0x100100010 [] full, by unfold Units mbxRuns MotSt.units; decide +kernel⟩

theorem witness_RegisterAccesses_8 : ∃ (m : Fin 16) (env : RegEnv) (x : Word) (s : State), Units s ∧ mbxRuns s m 0x0009 ∧ dptr (mbxAt s m).cmd = false ∧ (mbxAt s m).cmd.data = leBytes 4 x.toNat ∧ (mbxAt s m).regAt = 0 ∧ (regWrite (.mbx m) env (par (mbxAt s m).cmd 0 32 % 2 ^ 32) x (begun m s)).2 = some 0 :=
  ⟨14, ⟨none, false, 0, []⟩, 0, running 14 9 0x100010 [0, 0, 0, 0] full, by unfold Units mbxRuns MotSt.units; decide +kernel⟩

theorem witness_RegisterAccesses_9 : ∃ (a : Fin 4) (w : Nat) (x : Word) (s : State), fsActs s a.val 3 w ∧ (regRead (.fseq a) (regAddr (fsActed a.val s) a.val w) (fsActed a.val s)).2 = some (0, x) :=
  ⟨0, 3 <<< 90, 0x375a00, withAddr 3 0x100010, by unfold fsActs; decide +kernel⟩

theorem witness_RegisterAccesses_10 : ∃ (a : Fin 4) (env : RegEnv) (w : Nat) (s : State), fsActs s a.val 4 w ∧ (regWrite (.fseq a) env (regAddr (fsActed a.val s) a.val w) (gr (fsActed a.val s) a.val (wRb w)) (fsActed a.val s)).2 = some 0 :=
  ⟨0, ⟨none, false, 0, []⟩, 4 <<< 90, withAddr 4 0x100010, by unfold fsActs; decide +kernel⟩

theorem witness_GovernorAndGates_0 : ∃ (pace vcore vsys vmot : BitVec 16) (capHolds : Bool) (capPas : Fin 17) (s : State), live s = true :=
  ⟨100, 800, 5000, 12000, false, 16, full, by decide +kernel⟩

theorem witness_GovernorAndGates_1 : ∃ (p : Fin 16) (s : State), s.clk.removed.contains p.val = true ∧ s.therm.over105 = false ∧ s.therm.over115 = false ∧ 105 * (s.clk.required * 125 * (100 + govMargin s)) ≤ getF s F.CLK_PACE_NOW * 8000000000 :=
  ⟨3, { full with clk := { full.clk with removed := [3] } }, by decide +kernel⟩

theorem witness_GovernorAndGates_2 : ∃ (h : Fin 144) (fill : Nat) (x : SectorRd) (s : State), 20000 < fill ∧ (headOf s h.val).cur = some x :=
  ⟨3, 20001, ⟨5, none, 1, [], [], 0, 0⟩, updHead 3 (fun y => { y with cur := some ⟨5, none, 1, [], [], 0, 0⟩ }) motReady, by decide +kernel⟩

theorem witness_GovernorAndGates_3 : ∃ (p : Path) (s : State), writeGoes p R.CLK_GOV_CTL (BitVec.ofNat 32 (2 ^ 16 + rdN s R.CLK_GOV_CTL % 2 ^ 16)) s :=
  ⟨.core, full, by unfold writeGoes; decide +kernel⟩

theorem witness_GovernorAndGates_4 : ∃ (p : Path) (i : Fin 10) (w : BitVec 32) (s : State), writeGoes p (R.CLK_PLL_CFG i.val) w s :=
  ⟨.core, 3, 0, full, by unfold writeGoes; decide +kernel⟩

theorem witness_GovernorAndGates_5 : ∃ (i : Fin 13) (s : State), RegsWf s ∧ live s = true ∧ domOn s (islandDom i.val) = true ∧ isSet s (F.CLK_REF_OK i.val) = true ∧ isSet s (F.CLK_GATED i.val) = false ∧ vcoOk s i.val = true :=
  ⟨0, setF (F.CLK_REF_OK 0) 1 full, by unfold RegsWf; decide +kernel⟩

theorem witness_GovernorAndGates_6 : ∃ (p : Path) (pactl : Bool) (w : BitVec 32) (s : State), writeGoes p (sscReg (b2n pactl)) w s :=
  ⟨.core, true, 0, full, by unfold writeGoes; decide +kernel⟩

theorem witness_GovernorAndGates_7 : ∃ (p : Path) (i : Fin 13) (busy : Option (Path × BitVec 24)) (s : State), writeGoes p (R.CLK_ISL_CTL i.val) 1 s :=
  ⟨.core, 3, none, full, by unfold writeGoes; decide +kernel⟩

theorem witness_GovernorAndGates_8 : ∃ (p : Path) (i : Fin 13) (s : State), writeGoes p (R.CLK_ISL_CTL i.val) 0 s :=
  ⟨.core, 3, full, by unfold writeGoes; decide +kernel⟩

theorem witness_GovernorAndGates_9 : ∃ (i : Fin 13) (s : State), isSet s (F.CLK_GATE_PENDING i.val) = true :=
  ⟨3, setF (F.CLK_GATE_PENDING 3) 1 full, by decide +kernel⟩

theorem witness_GovernorAndGates_10 : ∃ (p : Path) (i : Fin 13) (idle : Bool) (s : State), writeGoes p (R.CLK_ISL_CTL i.val) (BitVec.ofNat 32 (2 + getF s (F.CLK_GATE_REQ i.val))) s :=
  ⟨.core, 3, true, full, by unfold writeGoes; decide +kernel⟩

theorem witness_GovernorAndGates_11 : ∃ (p : Path) (i : Fin 13) (s : State), writeGoes p (R.CLK_ISL_CTL i.val) (BitVec.ofNat 32 (4 + getF s (F.CLK_GATE_REQ i.val))) s :=
  ⟨.core, 3, full, by unfold writeGoes; decide +kernel⟩

theorem witness_ReferencesAndClockCommands_0 : ∃ (r : Fin 4) (s : State), live s = true :=
  ⟨2, full, by decide +kernel⟩

theorem witness_ReferencesAndClockCommands_1 : ∃ (pcie fab nal : Int) (s : State), live s = true ∧ refLost s 0 = false :=
  ⟨0, 0, 0, full, by decide +kernel⟩

theorem witness_ReferencesAndClockCommands_2 : ∃ (r : Fin 4) (s : State), RegsWf s ∧ refLost s r.val = true :=
  ⟨2, setF ⟨R.CLK_REF_STATUS, 2, 1⟩ 1 full, by unfold RegsWf; decide +kernel⟩

theorem witness_ReferencesAndClockCommands_3 : ∃ (r : Fin 4) (s : State), refLost s r.val = false ∧ escalated s 0x0122 r.val = false ∧ s.pwr.sysRefFailed = false ∧ r.val ≠ 0 :=
  ⟨2, setF (F.CLK_SAFE_HELD 11) 1 full, by decide +kernel⟩

theorem witness_ReferencesAndClockCommands_4 : ∃ s : State, live s = true ∧ refLost s 0 = true :=
  ⟨setF ⟨R.CLK_REF_STATUS, 0, 1⟩ 1 full, by decide +kernel⟩

theorem witness_ReferencesAndClockCommands_5 : ∃ s : State, refLost s 2 = true ∧ isSet s F.NAL_UP = true ∧ s.pair.handover = none :=
  ⟨setF ⟨R.CLK_REF_STATUS, 2, 1⟩ 1 (setF F.NAL_UP 1 full), by decide +kernel⟩

theorem witness_ReferencesAndClockCommands_6 : ∃ s : State, live s = true :=
  ⟨awake, by decide +kernel⟩

theorem witness_ReferencesAndClockCommands_7 : ∃ s : State, live s = true ∧ s.now.toNat % 1000000000 = 0 ∧ isSet s (F.CLK_SAFE_HELD 1) = false :=
  ⟨awake, by decide +kernel⟩

theorem witness_ReferencesAndClockCommands_8 : ∃ (m : Fin 16) (busy : Option (Path × BitVec 24)) (s : State), Units s ∧ mbxRuns s m 0x0110 ∧ par (mbxAt s m).cmd 8 1 = 1 ∧ par (mbxAt s m).cmd 0 4 ≤ 12 ∧ isSet (gateReq (par (mbxAt s m).cmd 0 4) (busyOf busy) (begun m s)) (F.CLK_GATED (par (mbxAt s m).cmd 0 4)) = true :=
  ⟨0, none, running 0 0x110 0x105 [] full, by unfold Units mbxRuns MotSt.units; decide +kernel⟩

theorem witness_ReferencesAndClockCommands_9 : ∃ (m : Fin 16) (s : State), Units s ∧ mbxRuns s m 0x0110 ∧ par (mbxAt s m).cmd 8 1 = 0 ∧ par (mbxAt s m).cmd 0 4 ≤ 12 :=
  ⟨0, running 0 0x110 3 [] full, by unfold Units mbxRuns MotSt.units; decide +kernel⟩

theorem witness_ReferencesAndClockCommands_10 : ∃ (m : Fin 16) (idle : Bool) (s : State), ((mbxWaiting s (fun c => isGateCmd (par (mbxAt s m).cmd 0 4) c)).contains m.val = true) ∧ isSet s (F.CLK_GATE_PENDING (par (mbxAt s m).cmd 0 4)) = true :=
  ⟨0, true, begun 0 (running 0 0x110 0x103 [] (setF (F.CLK_GATE_PENDING 3) 1 full)), by decide +kernel⟩

theorem witness_ReferencesAndClockCommands_11 : ∃ (m : Fin 16) (s : State), Units s ∧ mbxRuns s m 0x0111 ∧ par (mbxAt s m).cmd 0 4 ≤ 12 :=
  ⟨0, running 0 0x111 3 [] full, by unfold Units mbxRuns MotSt.units; decide +kernel⟩

theorem witness_ReferencesAndClockCommands_12 : ∃ (m : Fin 16) (s : State), Units s ∧ mbxRuns s m 0x0112 :=
  ⟨0, running 0 0x112 0 [] full, by unfold Units mbxRuns MotSt.units; decide +kernel⟩

theorem witness_MailboxProtocol_0 : ∃ (body : List Byte) (s : State), sidebandLive s = true :=
  ⟨[], { full with pwr := { full.pwr with inReset := false } } |> setF F.SUP_BOOT_STAGE 9, by decide +kernel⟩

theorem witness_MailboxProtocol_1 : ∃ (t : Nat) (body : List Byte) (s : State), idleMbx s t = none :=
  ⟨1, [], setF (F.MBX_STATE 4) 1 full, by decide +kernel⟩

theorem witness_MailboxProtocol_2 : ∃ (p : Path) (m : Fin 16) (s : State), writeGoes p (R.MBX_CTL m.val) 1 s :=
  ⟨.core, 5, full, by unfold writeGoes; decide +kernel⟩

theorem witness_MailboxProtocol_3 : ∃ (p : Path) (m : Fin 16) (s : State), writeGoes p (R.MBX_CTL m.val) 2 s :=
  ⟨.core, 5, full, by unfold writeGoes; decide +kernel⟩

theorem witness_MailboxProtocol_4 : ∃ (p : Path) (m : Fin 16) (s : State), writeGoes p (R.MBX_CTL m.val) 4 s :=
  ⟨.core, 5, full, by unfold writeGoes; decide +kernel⟩

theorem witness_MailboxProtocol_5 : ∃ (m : Fin 16) (moved : Option Nat) (host : List Host.Cell) (s : State), mbxState s m = 1 ∧ live s = true :=
  ⟨3, none, [], setF (F.MBX_STATE 3) 1 full, by decide +kernel⟩

theorem witness_MailboxProtocol_6 : ∃ (m : Fin 16) (st : Nat) (s : State), takeCheck s m (mbxAt s m).cmd = some st :=
  ⟨3, 0x10, setF (F.MBX_STATE 3) 1 full, by decide +kernel⟩

theorem witness_MailboxProtocol_7 : ∃ (m : Fin 16) (moved : Option Nat) (r : MbxResult) (s : State), (mbxAt s m).result = some r ∧ mbxState s m = 2 :=
  ⟨3, none, resStatus 0, mbxSetResult 3 (resStatus 0) (setF (F.MBX_STATE 3) 2 full), by decide +kernel⟩

theorem witness_MailboxProtocol_8 : ∃ (m : Fin 16) (moved : Option Nat) (r : MbxResult) (s : State), Units s ∧ RegsWf s ∧ isSet (fenceDrop m.val s) (F.MBX_RESET_PENDING m.val) = true :=
  ⟨3, none, resStatus 0, setF (F.MBX_RESET_PENDING 3) 1 (setF (F.MBX_STATE 3) 2 full), by unfold Units RegsWf MotSt.units; decide +kernel⟩

theorem witness_MailboxProtocol_9 : ∃ (c : NvmeCmd) (v : NvmeCmd × NvCtrl × State) (m : Nat) (s : State), nvTaken 0xC5 true c s = some v ∧ v.2.1.kind ≠ 2 ∧ v.1.xferOk = true ∧ bitsAt v.1.dw10.toNat 0 11 + v.1.dw11.toNat ≤ 2 ^ 21 ∧ idleMbx v.2.2 (ctrlTransport v.2.1) = some m :=
  ⟨aNvme 0, (nvTaken 0xC5 true (aNvme 0) (nvmeAt 0 0 (anEntry 0xC5 0 0 0 0 0 0 0))).get (by decide +kernel), 5, nvmeAt 0 0 (anEntry 0xC5 0 0 0 0 0 0 0), by decide +kernel⟩

theorem witness_MailboxProtocol_10 : ∃ (c : NvmeCmd) (v : NvmeCmd × NvCtrl × State) (s : State), nvTaken 0xC6 true c s = some v ∧ v.2.1.kind ≠ 2 ∧ (mbxAt v.2.2 (bitsAt v.1.dw10.toNat 0 4)).holder = some v.1.ctrl ∧ (mbxAt v.2.2 (bitsAt v.1.dw10.toNat 0 4)).cmd.tag = v.1.dw11 ∧ 1 ≤ mbxState v.2.2 (bitsAt v.1.dw10.toNat 0 4) :=
  ⟨aNvme 0, (nvTaken 0xC6 true (aNvme 0) (post 5 (parseArea [] []) (some 1) none false (nvmeAt 0 0 (anEntry 0xC6 0 5 0 0 0 0 0)))).get (by decide +kernel), post 5 (parseArea [] []) (some 1) none false (nvmeAt 0 0 (anEntry 0xC6 0 5 0 0 0 0 0)), by decide +kernel⟩

theorem witness_MailboxProtocol_11 : ∃ (req : Nat) (p : Nat) (s : State), isSet s F.NAL_UP = true ∧ ctlMode s = true :=
  ⟨1, 0, setF F.NAL_UP 1 full, by decide +kernel⟩

theorem witness_MailboxProtocol_12 : ∃ (req : Nat) (f : FwdCmd) (s : State), isSet s F.NAL_UP = true ∧ ctlMode s = true :=
  ⟨1, ⟨2, 0, 0, 1, [], [], []⟩, setF F.NAL_UP 1 full, by decide +kernel⟩

theorem witness_MailboxCommands_0 : ∃ (m : Fin 16) (s : State), Units s ∧ mbxRuns s m 0x0001 :=
  ⟨5, running 5 1 0 [] full, by unfold Units mbxRuns MotSt.units; decide +kernel⟩

theorem witness_MailboxCommands_1 : ∃ (m : Fin 16) (s : State), Units s ∧ mbxRuns s m 0x0002 :=
  ⟨5, running 5 2 0 [] full, by unfold Units mbxRuns MotSt.units; decide +kernel⟩

theorem witness_MailboxCommands_2 : ∃ (m : Fin 16) (s : State), Units s ∧ mbxRuns s m 0x0003 :=
  ⟨5, running 5 3 0 [] full, by unfold Units mbxRuns MotSt.units; decide +kernel⟩

theorem witness_MailboxCommands_3 : ∃ (m : Fin 16) (f : FenceSt) (s : State), fenceRuns s m.val = true ∧ (s.fences.find? (fun f => f.mbx = m.val) = some f) ∧ mbxFenceMet s f = true :=
  ⟨5, ⟨5, false, false, [], [], [], []⟩, { begun 5 (running 5 3 0 [] full) with fences := [⟨5, false, false, [], [], [], []⟩] }, by decide +kernel⟩

theorem witness_MailboxCommands_4 : ∃ (m : Fin 16) (s : State), fenceRuns s m.val = true :=
  ⟨5, begun 5 (running 5 3 0 [] full), by decide +kernel⟩

theorem witness_MailboxCommands_5 : ∃ (m : Fin 16) (x : SpdmSess) (s : State), Units s ∧ mbxRuns s m 0x0004 ∧ ((expertSessions s).find? (fun x => x.sid = par (mbxAt s m).cmd 0 32) = some x) ∧ sessionMbx x.port m.val = true ∧ s.grants = [] :=
  ⟨2, ⟨7, 0, 2, true, false⟩, running 2 4 0x300000007 [] { full with spdm := { full.spdm with sessions := [⟨7, 0, 2, true, false⟩] } }, by unfold Units mbxRuns MotSt.units; decide +kernel⟩

theorem witness_MailboxCommands_6 : ∃ (m : Fin 16) (s : State), Units s ∧ mbxRuns s m 0x0004 ∧ ((expertSessions s).find? (fun x => x.sid = par (mbxAt s m).cmd 0 32) = none) :=
  ⟨2, running 2 4 0x300000007 [] full, by unfold Units mbxRuns MotSt.units; decide +kernel⟩

theorem witness_MailboxCommands_7 : ∃ (m : Fin 16) (s : State), Units s ∧ mbxRuns s m 0x0005 :=
  ⟨2, running 2 5 0 [] full, by unfold Units mbxRuns MotSt.units; decide +kernel⟩

theorem witness_MailboxCommands_8 : ∃ (m : Fin 16) (s : State), Units s ∧ mbxRuns s m 0x0006 ∧ rootAllowed s m.val = true ∧ s.nv.expertRoots.contains (mbxAt s m).cmd.data = false ∧ s.nv.expertRoots.length < 8 :=
  ⟨2, running 2 6 0 [1, 2] full, by unfold Units mbxRuns MotSt.units; decide +kernel⟩

theorem witness_MailboxCommands_9 : ∃ (m : Fin 16) (s : State), Units s ∧ mbxRuns s m 0x0006 ∧ rootAllowed s m.val = false :=
  ⟨5, running 5 6 0 [1, 2] full, by unfold Units mbxRuns MotSt.units; decide +kernel⟩

theorem witness_MailboxCommands_10 : ∃ (m : Fin 16) (s : State), Units s ∧ mbxRuns s m 0x0007 :=
  ⟨2, running 2 7 0 [1, 2] { full with nv := { full.nv with expertRoots := [[1, 2]] } }, by unfold Units mbxRuns MotSt.units; decide +kernel⟩

theorem witness_MailboxCommands_11 : ∃ (m : Fin 16) (s : State), Units s ∧ mbxRuns s m 0x000A :=
  ⟨5, running 5 10 0 [] full, by unfold Units mbxRuns MotSt.units; decide +kernel⟩

theorem witness_FirmwareCommands_0 : ∃ (m : Fin 16) (s : State), Units s ∧ mbxRuns s m 0x0200 ∧ par (mbxAt s m).cmd 0 8 = 2 ∧ isSet s F.SUP_BOOT_RECOVERY = false ∧ s.boot.restart = false ∧ s.boot.staging = [] ∧ par (mbxAt s m).cmd 8 2 = 1 ∧ par (mbxAt s m).cmd 32 32 = 0 ∧ dptr (mbxAt s m).cmd = false ∧ (mbxAt s m).cmd.data.length ≤ 992 :=
  ⟨5, running 5 0x200 0x102 [1, 2, 3] full, by unfold Units mbxRuns MotSt.units; decide +kernel⟩

theorem witness_FirmwareCommands_1 : ∃ (m : Fin 16) (x : Staging) (s : State), Units s ∧ mbxRuns s m 0x0200 ∧ par (mbxAt s m).cmd 0 8 = 2 ∧ isSet s F.SUP_BOOT_RECOVERY = false ∧ s.boot.restart = false ∧ s.boot.staging = [x] ∧ x.kind = 2 ∧ x.owner = requesterOf s m.val ∧ par (mbxAt s m).cmd 8 2 = 0 ∧ par (mbxAt s m).cmd 32 32 = x.bytes.length ∧ dptr (mbxAt s m).cmd = false ∧ x.bytes.length + (mbxAt s m).cmd.data.length ≤ 16777216 :=
  ⟨5, ⟨2, (2, 5), [9]⟩, running 5 0x200 0x100000002 [1, 2, 3] { full with boot := { full.boot with staging := [⟨2, (2, 5), [9]⟩] } }, by unfold Units mbxRuns MotSt.units; decide +kernel⟩

theorem witness_FirmwareCommands_2 : ∃ (k : Fin 2) (s : State), (stagingOf s (k.val + 1)).isSome = true :=
  ⟨1, { full with boot := { full.boot with staging := [⟨2, (2, 5), [9]⟩] } }, by decide +kernel⟩

theorem witness_FirmwareCommands_3 : ∃ (m : Fin 16) (s : State), Units s ∧ mbxRuns s m 0x0201 ∧ par (mbxAt s m).cmd 0 8 = 2 ∧ s.boot.staging = [] ∧ slotValid s 2 (inactive s 2) = true :=
  ⟨5, running 5 0x201 2 [] { full with nv := { full.nv with ctl := { full.nv.ctl with slots := [⟨[], true⟩, ⟨[], true⟩] } } }, by unfold Units mbxRuns MotSt.units; decide +kernel⟩

theorem witness_FirmwareCommands_4 : ∃ (m : Fin 16) (n : Nat) (s : State), Units s ∧ mbxRuns s m 0x0202 ∧ par (mbxAt s m).cmd 0 8 = 2 ∧ s.nv.ctl.started = some n :=
  ⟨5, 1, running 5 0x202 2 [] { full with nv := { full.nv with ctl := { full.nv.ctl with started := some 1 } } }, by unfold Units mbxRuns MotSt.units; decide +kernel⟩

theorem witness_FirmwareCommands_5 : ∃ (m : Fin 16) (s : State), Units s ∧ mbxRuns s m 0x0203 :=
  ⟨5, running 5 0x203 0 [1] full, by unfold Units mbxRuns MotSt.units; decide +kernel⟩

theorem witness_FirmwareCommands_6 : ∃ (m : Fin 16) (s : State), Units s ∧ mbxRuns s m 0x0204 :=
  ⟨5, running 5 0x204 0 [1] full, by unfold Units mbxRuns MotSt.units; decide +kernel⟩

theorem witness_FirmwareCommands_7 : ∃ (m : Fin 16) (s : State), Units s ∧ mbxRuns s m 0x0205 ∧ s.nv.sup.started = none ∧ s.nv.ctl.started = none ∧ isSet s F.NAL_UP = true :=
  ⟨5, running 5 0x205 0 [] (setF F.NAL_UP 1 full), by unfold Units mbxRuns MotSt.units; decide +kernel⟩

theorem witness_SpdmRequests_0 : ∃ (p : Fin 4) (s : State), spdmReady s p 0 :=
  ⟨0, spdmAt 0, by unfold spdmReady; decide +kernel⟩

theorem witness_SpdmRequests_1 : ∃ (p : Fin 4) (dts : Nat) (s : State), spdmReady s p 1 :=
  ⟨0, 64, spdmAt 1, by unfold spdmReady; decide +kernel⟩

theorem witness_SpdmRequests_2 : ∃ (p : Fin 4) (a b c d : Bool) (s : State), spdmReady s p 2 :=
  ⟨0, true, true, true, true, spdmAt 2, by unfold spdmReady; decide +kernel⟩

theorem witness_SpdmRequests_3 : ∃ (p : Fin 4) (s : State), spdmReady s p 3 :=
  ⟨0, spdmAt 3, by unfold spdmReady; decide +kernel⟩

theorem witness_SpdmRequests_4 : ∃ (p : Fin 4) (off len : Nat) (s : State), spdmReady s p 3 :=
  ⟨0, 0, 32, spdmAt 3, by unfold spdmReady; decide +kernel⟩

theorem witness_SpdmRequests_5 : ∃ (p : Fin 4) (nonce : List Byte) (s : State), spdmReady s p 3 :=
  ⟨0, [], spdmAt 3, by unfold spdmReady; decide +kernel⟩

theorem witness_SpdmRequests_6 : ∃ (p : Fin 4) (i : BitVec 8) (nonce : List Byte) (s : State), spdmReady s p 3 ∧ 1 ≤ i.toNat ∧ i.toNat ≤ 8 :=
  ⟨0, 5, [], spdmAt 3, by unfold spdmReady; decide +kernel⟩

theorem witness_SpdmRequests_7 : ∃ (p : Fin 4) (s : State), spdmReady s p 3 ∧ p.val ≤ 1 ∧ ((s.spdm.sessions.filter (fun x => x.purpose = 2)).length < 4) :=
  ⟨0, spdmAt 3, by unfold spdmReady; decide +kernel⟩

theorem witness_SpdmRequests_8 : ∃ (p : Fin 4) (u : BitVec 8) (s : State), spdmReady s p 3 ∧ u ≠ 1 ∧ u ≠ 2 :=
  ⟨0, 3, spdmAt 3, by unfold spdmReady; decide +kernel⟩

theorem witness_SpdmRequests_9 : ∃ (p : Fin 4) (sid : Nat) (root : List Byte) (x : SpdmSess) (s : State), spdmReady s p 3 ∧ sessOf s p sid = some x ∧ x.up = false :=
  ⟨0, 7, [], ⟨7, 0, 2, false, false⟩, setF F.SUP_BOOT_STAGE 9 { spdmAt 3 with spdm := { (spdmAt 3).spdm with sessions := [⟨7, 0, 2, false, false⟩] } }, by unfold spdmReady; decide +kernel⟩

theorem witness_SpdmRequests_10 : ∃ (p : Fin 4) (sid : Nat) (s : State), spdmReady s p 3 ∧ ((sessOf s p sid).any (fun x => x.up) = true) :=
  ⟨0, 7, { spdmAt 3 with spdm := { (spdmAt 3).spdm with sessions := [⟨7, 0, 2, true, false⟩] } }, by unfold spdmReady; decide +kernel⟩

theorem witness_SpdmRequests_11 : ∃ (p : Fin 4) (sid : Nat) (op tag : BitVec 8) (s : State), spdmReady s p 3 ∧ ((sessOf s p sid).any (fun x => x.up) = true) :=
  ⟨0, 7, 1, 0, { spdmAt 3 with spdm := { (spdmAt 3).spdm with sessions := [⟨7, 0, 2, true, false⟩] } }, by unfold spdmReady; decide +kernel⟩

theorem witness_SpdmRequests_11_1 : ∃ (p : Fin 4) (sid : Nat) (op tag : BitVec 8) (s : State), spdmReady s p 3 ∧ ((sessOf s p sid).any (fun x => x.up) = true) :=
  ⟨0, 7, 0, 0, { spdmAt 3 with spdm := { (spdmAt 3).spdm with sessions := [⟨7, 0, 2, true, false⟩] } }, by unfold spdmReady; decide +kernel⟩

theorem witness_SpdmRequests_12 : ∃ (p : Fin 4) (sid : Nat) (s : State), spdmReady s p 3 ∧ ((sessOf s p sid).any (fun x => x.up) = true) :=
  ⟨0, 7, { spdmAt 3 with spdm := { (spdmAt 3).spdm with sessions := [⟨7, 0, 2, true, false⟩] } }, by unfold spdmReady; decide +kernel⟩

theorem witness_SpdmRequests_14 : ∃ (p : Fin 4) (last : Bool) (d : List Byte) (s : State), spdmReady s p 3 :=
  ⟨0, false, [1], spdmAt 3, by unfold spdmReady; decide +kernel⟩

theorem witness_SpdmRequests_15 : ∃ (p : Fin 4) (x : Nat × Nat × List Byte) (s : State), spdmReady s p 3 ∧ (s.spdm.chunkOut.find? (fun x => x.1 = p.val) = some x) ∧ x.2.2.length ≤ s.spdm.dts.getD p.val 0 :=
  ⟨0, (0, 0, []), { spdmAt 3 with spdm := { (spdmAt 3).spdm with chunkOut := [(0, 0, [])] } }, by unfold spdmReady; decide +kernel⟩

theorem witness_SpdmRequests_16 : ∃ (p : Fin 4) (s : State), spdmReady s p 0 :=
  ⟨0, spdmAt 0, by unfold spdmReady; decide +kernel⟩

theorem witness_MemoryErrorsAndCommands_0 : ∃ (p : Path) (s : State), writeGoes p R.ECC_FILL_CTL 1 s ∧ s.memc.fill = 0 :=
  ⟨.core, full, by unfold writeGoes; decide +kernel⟩

theorem witness_MemoryErrorsAndCommands_1 : ∃ (p : Path) (s : State), writeGoes p R.ECC_FILL_CTL 2 s ∧ s.memc.fill = 0 ∧ isSet s F.ECC_FILL_CELLAR_DONE = true :=
  ⟨.core, setF F.ECC_FILL_CELLAR_DONE 1 full, by unfold writeGoes; decide +kernel⟩

theorem witness_MemoryErrorsAndCommands_2 : ∃ s : State, s.memc.fill = 2 :=
  ⟨{ full with memc := { full.memc with fill := 2 } }, by decide +kernel⟩

theorem witness_MemoryErrorsAndCommands_3 : ∃ (q : BitVec 40) (s : State), s.memc.fill = 2 ∧ q.toNat / 64 * 64 < memSize s 3 ∧ rdN s R.ECC_FILL_PTR_LO + rdN s R.ECC_FILL_PTR_HI * 2 ^ 32 ≤ q.toNat / 64 * 64 :=
  ⟨4096, setF F.DRC_CAP_GIB 16 { full with memc := { full.memc with fill := 2 } }, by decide +kernel⟩

theorem witness_MemoryErrorsAndCommands_4 : ∃ (r : EccRes) (s : State), domOn s 15 = true ∧ domOn s 14 = true ∧ isSet s (F.ECC_PATROL_EN 3) = true ∧ memSize s 3 ≠ 0 :=
  ⟨.ok, setF (F.ECC_PATROL_EN 3) 1 (setF F.DRC_CAP_GIB 16 full), by decide +kernel⟩

theorem witness_MemoryErrorsAndCommands_5 : ∃ (m : Fin 5) (s : State), s.memc.ceWin.length = 5 ∧ s.memc.ceRaised.length = 5 :=
  ⟨3, full, by decide +kernel⟩

theorem witness_MemoryErrorsAndCommands_6 : ∃ (core : Fin 8) (off : BitVec 20) (s : State), s.pwr.coresRunning = true ∧ s.memc.fetchUe = [] ∧ s.memc.trapped = [] :=
  ⟨2, 0x123, { full with pwr := { full.pwr with coresRunning := true } }, by decide +kernel⟩

theorem witness_MemoryErrorsAndCommands_7 : ∃ (core : Fin 8) (off : BitVec 20) (x : Nat × Nat) (s : State), s.pwr.coresRunning = true ∧ s.memc.fetchUe = [x] ∧ x.1 = (core.val * 2 ^ 20 + off.toNat) / 4096 ∧ s.now.toNat - x.2 < 1000000000 :=
  ⟨2, 0x123, (0x200, 0), { full with pwr := { full.pwr with coresRunning := true }, memc := { full.memc with fetchUe := [(0x200, 0)] } }, by decide +kernel⟩

theorem witness_MemoryErrorsAndCommands_8 : ∃ (core : Fin 8) (s : State), s.memc.trapped.contains core.val = true :=
  ⟨2, { full with memc := { full.memc with trapped := [2] } }, by decide +kernel⟩

theorem witness_MemoryErrorsAndCommands_9 : ∃ (core : Fin 8) (addr : BitVec 24) (s : State), s.pwr.coresRunning = true ∧ addr.toNat < memSize s 1 :=
  ⟨2, 0x123, { full with pwr := { full.pwr with coresRunning := true } }, by decide +kernel⟩

theorem witness_MemoryErrorsAndCommands_10 : ∃ (m : Fin 16) (s : State), Units s ∧ mbxRuns s m 0x0800 ∧ par (mbxAt s m).cmd 0 3 ≤ 4 :=
  ⟨5, running 5 0x800 3 [] full, by unfold Units mbxRuns MotSt.units; decide +kernel⟩

theorem witness_MemoryErrorsAndCommands_11 : ∃ (m : Fin 16) (r : EccRes) (s : State), Units s ∧ mbxRuns s m 0x0801 ∧ par (mbxAt s m).cmd 0 3 = 3 ∧ par (mbxAt s m).cmd 8 56 < memSize s 3 ∧ par (mbxAt s m).cmd 8 56 % 64 = 0 :=
  ⟨5, .ce, running 5 0x801 0x4003 [] (setF F.DRC_CAP_GIB 16 full), by unfold Units mbxRuns MotSt.units; decide +kernel⟩

theorem witness_MemoryErrorsAndCommands_12 : ∃ (m : Fin 16) (s : State), Units s ∧ mbxRuns s m 0x0802 ∧ par (mbxAt s m).cmd 0 3 = 0 ∧ par (mbxAt s m).cmd 8 56 < 64 * 2 ^ 20 ∧ par (mbxAt s m).cmd 8 56 % 4096 = 0 ∧ s.nv.retired = [] :=
  ⟨5, running 5 0x802 0x100000 [] full, by unfold Units mbxRuns MotSt.units; decide +kernel⟩

theorem witness_TableCacheAndDma_0 : ∃ (p : Path) (s : State), writeGoes p R.TC_MAINT (tcWord 1 0 0) s ∧ isSet s F.TC_MAINT_BUSY = false :=
  ⟨.core, full, by unfold writeGoes; decide +kernel⟩

theorem witness_TableCacheAndDma_1 : ∃ (p : Path) (lines : Fin 16384) (s : State), writeGoes p R.TC_MAINT (tcWord 2 0 lines.val) s :=
  ⟨.core, 1, full, by unfold writeGoes; decide +kernel⟩

theorem witness_TableCacheAndDma_2 : ∃ (p : Path) (way : Fin 16) (lines : Fin 16384) (s : State), writeGoes p R.TC_MAINT (tcWord 3 way.val lines.val) s :=
  ⟨.core, 2, 1, full, by unfold writeGoes; decide +kernel⟩

theorem witness_TableCacheAndDma_3 : ∃ (op way lines : Nat) (s : State), (op = 2 ∨ op = 3) ∧ (isSet s F.TC_MAINT_BUSY = true ∨ lines = 0 ∨ 8192 < lines) :=
  ⟨2, 0, 0, full, by decide +kernel⟩

theorem witness_TableCacheAndDma_4 : ∃ (t : TcMaint) (s : State), s.memc.tcMaint = some t ∧ t.op ≠ 3 :=
  ⟨⟨1, 0, 0, 0⟩, { full with memc := { full.memc with tcMaint := some ⟨1, 0, 0, 0⟩ } }, by decide +kernel⟩

theorem witness_TableCacheAndDma_5 : ∃ (line : BitVec 32) (s : State), domOn s 14 = true ∧ isSet s F.TC_EN = true ∧ (line.toNat + 1) * 128 ≤ memSize s 3 ∧ s.memc.tcLines = [] ∧ s.memc.tcMaint = none ∧ getF s F.TC_LOCK = 0 ∧ isSet s F.TC_PREFETCH = false ∧ (∀ k ∈ s.bad, k / 2 ^ 64 ≠ 3) ∧ dramOff s = false ∧ s.memc.tcFlight = [] :=
  ⟨5, setF F.TC_PREFETCH 0 (setF F.TC_EN 1 (setF F.DRC_CAP_GIB 16 full)), by decide +kernel⟩

theorem witness_TableCacheAndDma_6 : ∃ (line : BitVec 32) (s : State), domOn s 14 = true ∧ isSet s F.TC_EN = true ∧ (line.toNat + 1) * 128 ≤ memSize s 3 ∧ s.memc.tcFlight = [⟨line.toNat, false, true⟩] :=
  ⟨5, setF F.TC_EN 1 (setF F.DRC_CAP_GIB 16 { full with memc := { full.memc with tcFlight := [⟨5, false, true⟩] } }), by decide +kernel⟩

theorem witness_TableCacheAndDma_7 : ∃ (p : Path) (n : Fin 16) (s : State), writeGoes p (R.DMA_CH_CTL n.val) (BitVec.ofNat 32 (rdN s (R.DMA_CH_CTL n.val) + 2)) s ∧ (getF s (F.DMA_STATE n.val) = 1 ∨ getF s (F.DMA_STATE n.val) = 4) ∧ s.memc.dmaDropped.getD n.val false = false ∧ dmaDescOk s n.val (dmaDesc s n.val) = true ∧ (dmaDesc s n.val).dop = 2 ∧ dmaAddrOk s n.val (dmaDesc s n.val).dspace (dmaDesc s n.val).dst (dmaDesc s n.val).len true = true ∧ domOn s (spaceDom (dmaDesc s n.val).dspace) = true :=
  ⟨.core, 3, dmaAt 1, by unfold writeGoes; decide +kernel⟩

theorem witness_TableCacheAndDma_8 : ∃ (p : Path) (n : Fin 16) (s : State), writeGoes p (R.DMA_CH_CTL n.val) (BitVec.ofNat 32 (rdN s (R.DMA_CH_CTL n.val) + 2)) s ∧ getF s (F.DMA_STATE n.val) = 1 ∧ s.memc.dmaDropped.getD n.val false = false ∧ dmaDescOk s n.val (dmaDesc s n.val) = false :=
  ⟨.core, 3, setF (F.DMA_STATE 3) 1 full, by unfold writeGoes; decide +kernel⟩

theorem witness_TableCacheAndDma_9 : ∃ (p : Path) (n : Fin 16) (s : State), writeGoes p (R.DMA_CH_CTL n.val) (BitVec.ofNat 32 (rdN s (R.DMA_CH_CTL n.val) + 4)) s :=
  ⟨.core, 3, dmaAt 2, by unfold writeGoes; decide +kernel⟩

theorem witness_TableCacheAndDma_10 : ∃ (p : Path) (n : Fin 16) (s : State), writeGoes p (R.DMA_CH_CTL n.val) (BitVec.ofNat 32 (rdN s (R.DMA_CH_CTL n.val) + 8)) s :=
  ⟨.core, 3, dmaAt 5, by unfold writeGoes; decide +kernel⟩

theorem witness_TableCacheAndDma_11 : ∃ (p : Path) (n : Fin 16) (s : State), writeGoes p (R.DMA_CH_CTL n.val) (BitVec.ofNat 32 (putBits (rdN s (R.DMA_CH_CTL n.val)) 0 1 0)) s :=
  ⟨.core, 3, dmaAt 2, by unfold writeGoes; decide +kernel⟩

theorem witness_TableCacheAndDma_12 : ∃ (n : Fin 16) (ok : Bool) (host : List Host.Cell) (s : State), (getF s (F.DMA_STATE n.val) = 2 ∨ getF s (F.DMA_STATE n.val) = 3) ∧ (dmaCur (hostPlaces host s) n.val).dop = 2 ∧ (dmaCur (hostPlaces host s) n.val).dspace ≠ 5 :=
  ⟨3, true, [], dmaAt 2, by decide +kernel⟩

theorem witness_TableCacheAndDma_13 : ∃ (p : Path) (s : State), writeGoes p R.DMA_GCTL 1 s :=
  ⟨.core, full, by unfold writeGoes; decide +kernel⟩

theorem witness_FlashOperations_0 : ∃ (c : Fin 32) (dies : List DieReport) (bad : List (Nat × Nat)) (s : State), RegsWf s ∧ getF s (F.FC_STATE c.val) = 1 ∧ owns s (8 + c.val) = true :=
  ⟨2, [⟨0, 16384, 2048, 256, 1024, true, 2400, 2400⟩], [], setF (F.FC_STATE 2) 1 full, by unfold RegsWf; decide +kernel⟩

theorem witness_FlashOperations_1 : ∃ (c : Fin 32) (d : Fin 16) (b : Blk) (s : State), chOwned s c.val = true ∧ dieUsed s c.val d.val = true ∧ programBlk s c.val d.val false = some b ∧ parityPage s c.val d.val b.next = false :=
  ⟨2, 0, ⟨2, 0, 5, 3, 0, 1, 0, false, 0, false, 0⟩, flashAt 3, by decide +kernel⟩

theorem witness_FlashOperations_2 : ∃ (c : Fin 32) (d : Fin 16) (b : Blk) (s : State), chOwned s c.val = true ∧ dieUsed s c.val d.val = true ∧ programBlk s c.val d.val false = some b ∧ parityPage s c.val d.val b.next = true ∧ rowReady s c.val d.val b.set b.next = true :=
  ⟨2, 0, ⟨2, 0, 5, 3, 0, 1, 0, false, 0, false, 0⟩, (fun s : State => { s with tier := { s.tier with blks := s.tier.blks ++ [1, 2, 3].map (fun d => ⟨2, d, 5, 3, 1, 1, 0, false, 0, false, 0⟩) } }) (flashAt 3 |> setF (F.FC_DIE_STATE 2 1) 1 |> setF (F.FC_DIE_STATE 2 2) 1 |> setF (F.FC_DIE_STATE 2 3) 1), by decide +kernel⟩

theorem witness_FlashOperations_3 : ∃ (c : Fin 32) (d : Fin 16) (b : BitVec 16) (s : State), chOwned s c.val = true ∧ dieUsed s c.val d.val = true ∧ (blkOf s c.val d.val b.toNat).state = 1 ∧ b.toNat < (chan s c.val).blocks :=
  ⟨2, 0, 5, flashAt 1, by decide +kernel⟩

theorem witness_FlashOperations_4 : ∃ (g : Fin 2) (lfp : BitVec 34) (p : Nat) (s : State), ppaOf s g.val lfp.toNat = some p ∧ chOwned s (ppaCh p) = true ∧ ladderStep s p 0 = 0 :=
  ⟨0, 7, ppa 2 0 5 0, flashAt 4, by decide +kernel⟩

theorem witness_FlashOperations_5 : ∃ (c : Fin 32) (d : Fin 16) (s : State), chOwned s c.val = true ∧ dieUsed s c.val d.val = true :=
  ⟨2, 0, flashAt 4, by decide +kernel⟩

theorem witness_FlashOperations_6 : ∃ (weak : List (Nat × Nat × Nat)) (s : State), engOn s 8 = true ∧ ctlMode s = true :=
  ⟨[], flashAt 4, by decide +kernel⟩

theorem witness_RackingMoves_1 : ∃ (g : Fin 2) (c : Fin 32) (band : BitVec 24) (r : RecEnt) (s : State), rackMode s 3 = true ∧ rackEnabled s 3 = true ∧ holdsGroup s g.val = true ∧ rackWants s 3 c.val = true ∧ (s.tier.recs.find? (fun r => decide (r.group = g.val ∧ 0 < r.refs ∧ r.state = 1 ∧ locTier r.loc = 2
      ∧ getF s F.RACK_WARM_HITS ≤ r.heat)) = some r) :=
  ⟨0, 0, 0, ⟨0, 4, 2 ^ 63, 1, 2, 1, 9, 0⟩, setF F.RACK_EN 15 { full with fl := { full.fl with kinds := 8 }, tier := { full.tier with recs := [⟨0, 4, 2 ^ 63, 1, 2, 1, 9, 0⟩] } }, by decide +kernel⟩

theorem witness_RackingMoves_2 : ∃ (g : Fin 2) (c : Fin 32) (band : BitVec 24) (b : Blk) (s : State), rackMode s 0 = true ∧ rackEnabled s 0 = true ∧ holdsGroup s g.val = true ∧ rackWants s 0 c.val = true ∧ sourceBlk s 0 c.val = some b :=
  ⟨0, 2, 0, ⟨2, 0, 5, 4, 0, 1, 0, false, 0, false, 0⟩, (fun s : State => setF F.RACK_EN 15 { s with fl := { s.fl with kinds := 1 } }) (flashAt 4), by decide +kernel⟩

theorem witness_RackingMoves_3 : ∃ (id : Nat) (bad : List Nat) (m : Move) (s : State), moveOf s id = some m ∧ m.step = 1 :=
  ⟨9, [], aMove 0 1, withMoves [aMove 0 1] full, by decide +kernel⟩

theorem witness_RackingMoves_4 : ∃ (id : Nat) (m : Move) (s : State), moveOf s id = some m ∧ holdsGroup s m.group = true ∧ m.step = 3 :=
  ⟨9, aMove 0 3, withMoves [aMove 0 3] full, by decide +kernel⟩

theorem witness_RackingMoves_5 : ∃ (id : Nat) (m : Move) (s : State), moveOf s id = some m ∧ m.step = 5 ∧ s.host.cmds = [] :=
  ⟨9, aMove 0 5, withMoves [aMove 0 5] full, by decide +kernel⟩

theorem witness_RackingMoves_6 : ∃ s : State, isSet s F.NAL_UP = true ∧ ctlMode s = true :=
  ⟨setF F.NAL_UP 1 full, by decide +kernel⟩

theorem witness_RackingMoves_7 : ∃ (cap st u : Nat) (s : State), isSet s F.NAL_UP = true :=
  ⟨1, 2, 3, setF F.NAL_UP 1 full, by decide +kernel⟩

theorem witness_TierCommands_0 : ∃ (m : Fin 16) (s : State), Units s ∧ mbxRuns s m 0x0400 :=
  ⟨5, running 5 0x400 0 [] full, by unfold Units mbxRuns MotSt.units; decide +kernel⟩

theorem witness_TierCommands_1 : ∃ (m : Fin 16) (s : State), Units s ∧ mbxRuns s m 0x0401 :=
  ⟨5, running 5 0x401 0 [] full, by unfold Units mbxRuns MotSt.units; decide +kernel⟩

theorem witness_TierCommands_2 : ∃ (m : Fin 16) (s : State), Units s ∧ mbxRuns s m 0x0402 :=
  ⟨5, running 5 0x402 0 [] full, by unfold Units mbxRuns MotSt.units; decide +kernel⟩

theorem witness_TierCommands_3 : ∃ (m : Fin 16) (s : State), Units s ∧ mbxRuns s m 0x0403 :=
  ⟨5, running 5 0x403 0 [] full, by unfold Units mbxRuns MotSt.units; decide +kernel⟩

theorem witness_TierCommands_3_1 : ∃ (m : Fin 16) (s : State), Units s ∧ mbxRuns s m 0x0403 :=
  ⟨5, running 5 0x403 3 [] full, by unfold Units mbxRuns MotSt.units; decide +kernel⟩

theorem witness_TierCommands_4 : ∃ (m : Fin 16) (s : State), Units s ∧ mbxRuns s m 0x0403 ∧ 4 ≤ par (mbxAt s m).cmd 0 3 :=
  ⟨5, running 5 0x403 4 [] full, by unfold Units mbxRuns MotSt.units; decide +kernel⟩

theorem witness_TierCommands_5 : ∃ (m : Fin 16) (s : State), Units s ∧ mbxRuns s m 0x0404 :=
  ⟨5, running 5 0x404 1 [] full, by unfold Units mbxRuns MotSt.units; decide +kernel⟩

theorem witness_TierCommands_6 : ∃ (m : Fin 16) (s : State), Units s ∧ mbxRuns s m 0x0405 ∧ owns s (8 + par (mbxAt s m).cmd 0 5) = true ∧ chOwned s (par (mbxAt s m).cmd 0 5) = true ∧ dieUsed s (par (mbxAt s m).cmd 0 5) (par (mbxAt s m).cmd 8 4) = true :=
  ⟨5, running 5 0x405 2 [] (flashAt 4), by unfold Units mbxRuns MotSt.units; decide +kernel⟩

theorem witness_TierCommands_7 : ∃ (m : Fin 16) (s : State), Units s ∧ mbxRuns s m 0x0406 ∧ owns s (8 + ppaCh (par (mbxAt s m).cmd 0 37)) = true ∧ chOwned s (ppaCh (par (mbxAt s m).cmd 0 37)) = true ∧ bitAt (chan s (ppaCh (par (mbxAt s m).cmd 0 37))).present (ppaDie (par (mbxAt s m).cmd 0 37)) = true ∧ ppaBlk (par (mbxAt s m).cmd 0 37) < (chan s (ppaCh (par (mbxAt s m).cmd 0 37))).blocks ∧ bitsAt (par (mbxAt s m).cmd 0 37) 0 12 < (chan s (ppaCh (par (mbxAt s m).cmd 0 37))).pages :=
  ⟨5, running 5 0x406 (BitVec.ofNat 64 (ppa 2 0 5 0)) [] (flashAt 4), by unfold Units mbxRuns MotSt.units; decide +kernel⟩

theorem witness_TierCommands_8 : ∃ (m : Fin 16) (s : State), Units s ∧ mbxRuns s m 0x0407 ∧ (mbxAt s m).cmd.ext.length = 80 ∧ leAt (mbxAt s m).cmd.ext 0x4C 4 = crc32c ((mbxAt s m).cmd.ext.take 0x4C) :=
  ⟨5, runningExt 5 0x407 3 (List.replicate 76 0 ++ leBytes 4 (crc32c (List.replicate 76 0))) full, by unfold Units mbxRuns MotSt.units; decide +kernel⟩

theorem witness_TierCommands_9 : ∃ (p : Path) (s : State), writeGoes p R.FPM_GCTL 1 s :=
  ⟨.core, full, by unfold writeGoes; decide +kernel⟩

theorem witness_TierCommands_10 : ∃ (mech : Int) (s : State), live s = true :=
  ⟨30, awake, by decide +kernel⟩

theorem witness_TierCommands_11 : ∃ s : State, live s = true :=
  ⟨awake, by decide +kernel⟩

theorem witness_DataReduction_0 : ∃ (c q : Bool) (src : Fin 2 × BitVec 32 × Nat) (x : Bool) (s : State), engOn s 9 = true ∧ holdsGroup s src.1.val = true :=
  ⟨true, false, (0, 0, 0), false, full, by decide +kernel⟩

theorem witness_DataReduction_1 : ∃ (id : Nat) (c q x : Bool) (j : RedJob) (s : State), engOn s 9 = true ∧ jobOf s id = some j ∧ j.stage = 6 :=
  ⟨9, true, false, false, aJob [1] 6, withJobs [aJob [1] 6] full, by decide +kernel⟩

theorem witness_DataReduction_2 : ∃ (c : Bool) (j : RedJob) (s : State), (j.data.all (fun b => b = 0) = true) :=
  ⟨true, aJob [0, 0] 1, full, by decide +kernel⟩

theorem witness_DataReduction_3 : ∃ (id : Nat) (j : RedJob) (s : State), jobOf s id = some j ∧ j.stage = 1 ∧ (s.red.tent.any (fun t => t.1 = j.group ∧ t.2.1 = j.fp) = false) :=
  ⟨9, aJob [1] 1, withJobs [aJob [1] 1] full, by decide +kernel⟩

theorem witness_DataReduction_4 : ∃ (id : Nat) (j : RedJob) (s : State), jobOf s id = some j ∧ j.stage = 2 :=
  ⟨9, aJob [1] 2, withJobs [aJob [1] 2] full, by decide +kernel⟩

theorem witness_DataReduction_5 : ∃ (id : Nat) (faulty : Option (List Byte)) (j : RedJob) (s : State), jobOf s id = some j ∧ j.stage = 0 ∧ engOn s 9 = true ∧ j.policy.coder = 0 :=
  ⟨9, none, { aJob [1] 0 with policy := ⟨1, false, 0, 2⟩ }, withJobs [{ aJob [1] 0 with policy := ⟨1, false, 0, 2⟩ }] full, by decide +kernel⟩

theorem witness_DataReduction_6 : ∃ (id : Nat) (j : RedJob) (s : State), jobOf s id = some j ∧ j.stage = 0 ∧ engOn s 9 = true ∧ (coderLevel s j.policy).1 ≠ 0 :=
  ⟨9, aJob [1] 0, setF F.RED_CAP_DQ 3 (withJobs [aJob [1] 0] full), by decide +kernel⟩

theorem witness_DataReduction_7 : ∃ (id : Nat) (p : List Byte) (j : RedJob) (s : State), jobOf s id = some j ∧ j.stage = 0 ∧ engOn s 9 = true ∧ (coderLevel s j.policy).1 ≠ 0 ∧ selfCheck (coderLevel s j.policy).1 p j.data = false ∧ p.length ≤ 8192 - min 4096 (getF s F.RED_RAW_MARGIN) :=
  ⟨9, [], aJob [1] 0, setF F.RED_CAP_DQ 3 (withJobs [aJob [1] 0] full), by decide +kernel⟩

theorem witness_DataReduction_8 : ∃ (id : Nat) (j : RedJob) (s : State), jobOf s id = some j ∧ (j.stage = 4 ∨ j.stage = 5) ∧ isSet s F.VAT_READY = true ∧ canalOf s (targetEnd j.vol) = none :=
  ⟨9, aJob [0] 5, withJobs [aJob [0] 5] full, by decide +kernel⟩

theorem witness_DataReduction_10 : ∃ (g rid : Nat) (rest : List (Nat × Nat)) (d : DefEnt) (s : State), s.red.pass = (g, rid) :: rest ∧ (s.tier.defer.find? (fun e => e.group = g ∧ e.rid = rid) = some d) ∧ holdsGroup s g = true ∧ isSet s F.VAT_READY = true :=
  ⟨0, 4, [], ⟨0, [], 4, 3, 0⟩, { full with red := { full.red with pass := [(0, 4)] }, tier := { full.tier with defer := [⟨0, [], 4, 3, 0⟩] } }, by decide +kernel⟩

theorem witness_DataReduction_11 : ∃ s : State, engOn s 9 = true ∧ backlogHi s < unreduced s ∧ isSet s F.RED_BACKLOG = false :=
  ⟨withPayload (List.replicate 1048577 0), by exact ⟨by decide +kernel, withPayload_backlog (by decide) (by decide +kernel), by decide +kernel⟩⟩

theorem witness_DataReduction_12 : ∃ s : State, engOn s 9 = true :=
  ⟨full, by decide +kernel⟩

theorem witness_DataReduction_13 : ∃ s : State, isSet s F.RED_BACKLOG = true ∧ unreduced s < getF s F.RED_BACKLOG_LO * 2 ^ 20 :=
  ⟨setF F.RED_BACKLOG 1 (setF F.RED_BACKLOG_LO 5 full), by decide +kernel⟩

theorem witness_DataReduction_14 : ∃ (m : Fin 16) (v : Volume) (s : State), Units s ∧ mbxRuns s m 0x0500 ∧ volOf s (par (mbxAt s m).cmd 0 15) = some v ∧ holdsGroup s v.group = true ∧ policyOk ⟨par (mbxAt s m).cmd 16 2, decide (par (mbxAt s m).cmd 18 1 = 1), par (mbxAt s m).cmd 20 2, par (mbxAt s m).cmd 24 4⟩ = true :=
  ⟨5, aVol, running 5 0x500 0x02110003 [] (withVols [aVol]), by unfold Units mbxRuns MotSt.units; decide +kernel⟩

theorem witness_DataReduction_15 : ∃ (m : Fin 16) (s : State), Units s ∧ mbxRuns s m 0x0500 ∧ policyOk ⟨par (mbxAt s m).cmd 16 2, decide (par (mbxAt s m).cmd 18 1 = 1), par (mbxAt s m).cmd 20 2, par (mbxAt s m).cmd 24 4⟩ = false :=
  ⟨5, running 5 0x500 0x00030003 [] full, by unfold Units mbxRuns MotSt.units; decide +kernel⟩

theorem witness_DataReduction_16 : ∃ (m : Fin 16) (v : Volume) (s : State), Units s ∧ mbxRuns s m 0x0501 ∧ volOf s (par (mbxAt s m).cmd 0 15) = some v ∧ holdsGroup s v.group = true :=
  ⟨5, aVol, running 5 0x501 3 [] (withVols [aVol]), by unfold Units mbxRuns MotSt.units; decide +kernel⟩

theorem witness_DataReduction_17 : ∃ (m : Fin 16) (s : State), Units s ∧ mbxRuns s m 0x0502 :=
  ⟨5, running 5 0x502 0 [] full, by unfold Units mbxRuns MotSt.units; decide +kernel⟩

theorem witness_DataReduction_18 : ∃ (m : Fin 16) (s : State), Units s ∧ mbxRuns s m 0x0503 ∧ holdsGroup s (par (mbxAt s m).cmd 0 1) = true :=
  ⟨5, running 5 0x503 0 [] full, by unfold Units mbxRuns MotSt.units; decide +kernel⟩

theorem witness_DataReduction_19 : ∃ (m : Fin 16) (s : State), Units s ∧ mbxRuns s m 0x0504 ∧ holdsGroup s (bitsAt (mbxAt s m).cmd.param.toNat 61 1) = true :=
  ⟨5, running 5 0x504 0 [] full, by unfold Units mbxRuns MotSt.units; decide +kernel⟩

theorem witness_DataReduction_20 : ∃ (p : Path) (s : State), writeGoes p R.RED_CTL 4 s :=
  ⟨.core, full, by unfold writeGoes; decide +kernel⟩

theorem witness_VolumeCommands_0 : ∃ (m : Fin 16) (s : State), Units s ∧ volRuns s m 0x0700 ∧ (mbxAt s m).cmd.data.length = 24 ∧ par (mbxAt s m).cmd 19 1 = 0 ∧ sizeOk (leAt (mbxAt s m).cmd.data 0 8) = true ∧ mode s ≠ 6 ∧ par (mbxAt s m).cmd 0 15 ≠ 0 ∧ par (mbxAt s m).cmd 17 1 = 1 ∧ ((slice (mbxAt s m).cmd.data 8 16).all (fun b => b = 0) = false) :=
  ⟨5, running 5 0x700 0x20003 (leBytes 8 (2 ^ 22) ++ List.replicate 16 1) full, by unfold Units volRuns mbxRuns MotSt.units; decide +kernel⟩

theorem witness_VolumeCommands_1 : ∃ (m : Fin 16) (v : Volume) (s : State), Units s ∧ volRuns s m 0x0701 ∧ par (mbxAt s m).cmd 0 15 ≠ 0 ∧ volOf s (par (mbxAt s m).cmd 0 15) = some v ∧ v.snaps = [] ∧ canalOn s v.num = false :=
  ⟨5, aVol, running 5 0x701 3 [] (withVols [aVol]), by unfold Units volRuns mbxRuns MotSt.units; decide +kernel⟩

theorem witness_VolumeCommands_2 : ∃ (m : Fin 16) (v : Volume) (s : State), Units s ∧ volRuns s m 0x0702 ∧ par (mbxAt s m).cmd 0 15 ≠ 0 ∧ volOf s (par (mbxAt s m).cmd 0 15) = some v ∧ sizeOk (leAt (mbxAt s m).cmd.data 0 8) = true :=
  ⟨5, aVol, running 5 0x702 3 (leBytes 8 (2 ^ 23)) (withVols [aVol]), by unfold Units volRuns mbxRuns MotSt.units; decide +kernel⟩

theorem witness_VolumeCommands_2_1 : ∃ (m : Fin 16) (v : Volume) (s : State), Units s ∧ volRuns s m 0x0702 ∧ par (mbxAt s m).cmd 0 15 ≠ 0 ∧ volOf s (par (mbxAt s m).cmd 0 15) = some v ∧ sizeOk (leAt (mbxAt s m).cmd.data 0 8) = true :=
  ⟨5, aVol, running 5 0x702 3 (leBytes 8 (2 ^ 21)) (withVols [aVol]), by unfold Units volRuns mbxRuns MotSt.units; decide +kernel⟩

theorem witness_VolumeCommands_3 : ∃ (m : Fin 16) (v : Volume) (s : State), Units s ∧ volRuns s m 0x0703 ∧ par (mbxAt s m).cmd 16 1 = 1 ∧ par (mbxAt s m).cmd 0 15 ≠ 0 ∧ volOf s (par (mbxAt s m).cmd 0 15) = some v ∧ v.access.contains (mbxAt s m).cmd.data = false :=
  ⟨5, aVol, running 5 0x703 0x10003 [65] (withVols [aVol]), by unfold Units volRuns mbxRuns MotSt.units; decide +kernel⟩

theorem witness_VolumeCommands_4 : ∃ (m : Fin 16) (v : Volume) (s : State), Units s ∧ volRuns s m 0x0703 ∧ par (mbxAt s m).cmd 16 1 = 0 ∧ par (mbxAt s m).cmd 0 15 ≠ 0 ∧ volOf s (par (mbxAt s m).cmd 0 15) = some v :=
  ⟨5, { aVol with access := [[65]] }, running 5 0x703 3 [65] (withVols [{ aVol with access := [[65]] }]), by unfold Units volRuns mbxRuns MotSt.units; decide +kernel⟩

theorem witness_VolumeCommands_5 : ∃ (m : Fin 16) (v : Volume) (s : State), Units s ∧ volRuns s m 0x0704 ∧ par (mbxAt s m).cmd 0 15 ≠ 0 ∧ volOf s (par (mbxAt s m).cmd 0 15) = some v :=
  ⟨5, aVol, running 5 0x704 3 [] (withVols [aVol]), by unfold Units volRuns mbxRuns MotSt.units; decide +kernel⟩

theorem witness_VolumeCommands_6 : ∃ (m : Fin 16) (s : State), Units s ∧ volRuns s m 0x0705 :=
  ⟨5, running 5 0x705 0 [] (withVols [aVol]), by unfold Units volRuns mbxRuns MotSt.units; decide +kernel⟩

theorem witness_SnapshotsAndPeers_0 : ∃ (m : Fin 16) (v : Volume) (s : State), Units s ∧ volRuns s m 0x0706 ∧ (mbxAt s m).cmd.data = leBytes 2 1 ++ leBytes 2 v.num ∧ v.num ≠ 0 ∧ v.num < 32768 ∧ mode s ≠ 6 ∧ volOf s v.num = some v :=
  ⟨5, aVol, running 5 0x706 0 [1, 0, 3, 0] (withVols [aVol]), by unfold Units volRuns mbxRuns MotSt.units; decide +kernel⟩

theorem witness_SnapshotsAndPeers_1 : ∃ (m : Fin 16) (v : Volume) (x : Snapshot) (s : State), Units s ∧ volRuns s m 0x0707 ∧ volOf s (par (mbxAt s m).cmd 0 15) = some v ∧ snapOf v (par (mbxAt s m).cmd 16 12) = some x ∧ snapInUse s v.num x.gen = none :=
  ⟨5, { aVol with snaps := [⟨2, 1, 0, 2 ^ 22, [], none⟩] }, ⟨2, 1, 0, 2 ^ 22, [], none⟩, running 5 0x707 0x20003 [] (withVols [{ aVol with snaps := [⟨2, 1, 0, 2 ^ 22, [], none⟩] }]), by unfold Units volRuns mbxRuns MotSt.units; decide +kernel⟩

theorem witness_SnapshotsAndPeers_2 : ∃ (m : Fin 16) (v : Volume) (x : Snapshot) (s : State), Units s ∧ volRuns s m 0x0708 ∧ volOf s (par (mbxAt s m).cmd 0 15) = some v ∧ snapOf v (par (mbxAt s m).cmd 16 12) = some x :=
  ⟨5, { aVol with snaps := [⟨2, 1, 0, 2 ^ 22, [], none⟩] }, ⟨2, 1, 0, 2 ^ 22, [], none⟩, running 5 0x708 0x20003 [] (withVols [{ aVol with snaps := [⟨2, 1, 0, 2 ^ 22, [], none⟩] }]), by unfold Units volRuns mbxRuns MotSt.units; decide +kernel⟩

theorem witness_SnapshotsAndPeers_3 : ∃ (m : Fin 16) (v : Volume) (x : Snapshot) (s : State), Units s ∧ volRuns s m 0x0709 ∧ volOf s (par (mbxAt s m).cmd 0 15) = some v ∧ snapOf v (par (mbxAt s m).cmd 16 12) = some x ∧ mode s ≠ 6 ∧ par (mbxAt s m).cmd 32 15 ≠ 0 ∧ volOf s (par (mbxAt s m).cmd 32 15) = none :=
  ⟨5, { aVol with snaps := [⟨2, 1, 0, 2 ^ 22, [], none⟩] }, ⟨2, 1, 0, 2 ^ 22, [], none⟩, running 5 0x709 0x900020003 [] (withVols [{ aVol with snaps := [⟨2, 1, 0, 2 ^ 22, [], none⟩] }]), by unfold Units volRuns mbxRuns MotSt.units; decide +kernel⟩

theorem witness_SnapshotsAndPeers_4 : ∃ (m : Fin 16) (v : Volume) (s : State), Units s ∧ volRuns s m 0x070A ∧ par (mbxAt s m).cmd 0 15 ≠ 0 ∧ volOf s (par (mbxAt s m).cmd 0 15) = some v :=
  ⟨5, aVol, running 5 0x70A 3 [] (withVols [aVol]), by unfold Units volRuns mbxRuns MotSt.units; decide +kernel⟩

theorem witness_SnapshotsAndPeers_5 : ∃ (m : Fin 16) (s : State), Units s ∧ volRuns s m 0x0710 :=
  ⟨5, running 5 0x710 131070 [] full, by unfold Units volRuns mbxRuns MotSt.units; decide +kernel⟩

theorem witness_SnapshotsAndPeers_5_1 : ∃ (m : Fin 16) (s : State), Units s ∧ volRuns s m 0x0710 :=
  ⟨5, running 5 0x710 131071 [] full, by unfold Units volRuns mbxRuns MotSt.units; decide +kernel⟩

theorem witness_SnapshotsAndPeers_6 : ∃ (m : Fin 16) (s : State), Units s ∧ volRuns s m 0x0711 ∧ par (mbxAt s m).cmd 0 1 = 1 ∧ 1 ≤ leAt (mbxAt s m).cmd.data 0 4 ∧ leAt (mbxAt s m).cmd.data 0 4 ≤ 262142 ∧ (leAt (mbxAt s m).cmd.data 4 1 = 4 ∨ leAt (mbxAt s m).cmd.data 4 1 = 6) ∧ ((s.volu.peers.filter (fun x => x.node ≠ leAt (mbxAt s m).cmd.data 0 4)).length < 1024) :=
  ⟨5, running 5 0x711 1 ([2, 0, 0, 0, 4, 0, 0, 0] ++ List.replicate 16 7) full, by unfold Units volRuns mbxRuns MotSt.units; decide +kernel⟩

theorem witness_SnapshotsAndPeers_7 : ∃ (m : Fin 16) (s : State), Units s ∧ volRuns s m 0x0711 ∧ par (mbxAt s m).cmd 0 1 = 0 :=
  ⟨5, running 5 0x711 0 [2, 0, 0, 0] full, by unfold Units volRuns mbxRuns MotSt.units; decide +kernel⟩

theorem witness_SnapshotsAndPeers_8 : ∃ (m : Fin 16) (v : Volume) (s : State), Units s ∧ volRuns s m 0x0720 ∧ par (mbxAt s m).cmd 0 15 ≠ 0 ∧ volOf s (par (mbxAt s m).cmd 0 15) = some v ∧ par (mbxAt s m).cmd 16 12 = 0 :=
  ⟨5, aVol, running 5 0x720 3 [] (withVols [aVol]), by unfold Units volRuns mbxRuns MotSt.units; decide +kernel⟩

theorem witness_SnapshotsAndPeers_9 : ∃ (m : Fin 16) (v : Volume) (x : Snapshot) (l : List (Nat × List Byte)) (s : State), Units s ∧ volRuns s m 0x0721 ∧ par (mbxAt s m).cmd 0 15 ≠ 0 ∧ volOf s (par (mbxAt s m).cmd 0 15) = some v ∧ par (mbxAt s m).cmd 16 12 = 0 ∧ par (mbxAt s m).cmd 32 12 ≠ 0 ∧ snapOf v (par (mbxAt s m).cmd 32 12) = some x ∧ fpEntries s v.group x.map (mapDiff [] x.map) = .ok l :=
  ⟨5, { aVol with snaps := [⟨2, 1, 0, 2 ^ 22, [], none⟩] }, ⟨2, 1, 0, 2 ^ 22, [], none⟩, [], running 5 0x721 0x200000003 [] (withVols [{ aVol with snaps := [⟨2, 1, 0, 2 ^ 22, [], none⟩] }]), by exact ⟨by unfold Units MotSt.units; decide +kernel, by unfold volRuns mbxRuns; decide +kernel, by decide +kernel, by decide +kernel, by decide +kernel, by decide +kernel, by decide +kernel, rfl⟩⟩

theorem witness_CanalConnections_0 : ∃ (m : Fin 16) (v : Volume) (id : Nat) (s : State), Units s ∧ volRuns s m 0x0718 ∧ canalRefusal s = none ∧ par (mbxAt s m).cmd 0 15 ≠ 0 ∧ volOf s (par (mbxAt s m).cmd 0 15) = some v ∧ leAt (mbxAt s m).cmd.data 0 4 % 32768 ≠ 0 ∧ leAt (mbxAt s m).cmd.data 0 4 / 32768 ≤ 131070 ∧ peerOfHandle s (leAt (mbxAt s m).cmd.data 0 4) = true ∧ par (mbxAt s m).cmd 18 1 = 0 ∧ canalsOpen s < 1024 ∧ freeCanal s = some id :=
  ⟨5, aVol, 0, running 5 0x718 3 (leBytes 4 (9 * 32768 + 2) ++ List.replicate 12 0) (withCanals []), by unfold Units volRuns mbxRuns MotSt.units; decide +kernel⟩

theorem witness_CanalConnections_1 : ∃ (m : Fin 16) (e : Nat) (s : State), Units s ∧ volRuns s m 0x0718 ∧ canalRefusal s = some e :=
  ⟨5, 0x719, running 5 0x718 3 [] (withVols [aVol]), by unfold Units volRuns mbxRuns MotSt.units; decide +kernel⟩

theorem witness_CanalConnections_2 : ∃ (k : Nat) (c : Canal) (s : State), canalOf s k = some c ∧ c.setup = 1 ∧ admits s = true :=
  ⟨5, aCanal 1 0, setF F.VAT_READY 1 (withCanals [aCanal 1 0]), by decide +kernel⟩

theorem witness_CanalConnections_3 : ∃ (k : Nat) (c : Canal) (s : State), canalOf s k = some c ∧ c.setup = 1 :=
  ⟨5, aCanal 1 0, withCanals [aCanal 1 0], by decide +kernel⟩

theorem witness_CanalConnections_4 : ∃ (k : Nat) (c : Canal) (s : State), canalOf s k = some c ∧ 2 ≤ c.setup ∧ c.setup ≤ 6 :=
  ⟨5, aCanal 2 0, withCanals [aCanal 2 0], by decide +kernel⟩

theorem witness_CanalConnections_4_1 : ∃ (k : Nat) (c : Canal) (s : State), canalOf s k = some c ∧ 2 ≤ c.setup ∧ c.setup ≤ 6 :=
  ⟨5, aCanal 6 0, withCanals [aCanal 6 0], by decide +kernel⟩

theorem witness_CanalConnections_5 : ∃ (k type len : Nat) (tagOk : Bool) (c : Canal) (s : State), canalOf s k = some c ∧ 2 ≤ c.setup ∧ frameBad c type len tagOk = true :=
  ⟨5, 3, 0, true, aCanal 7 1, withCanals [aCanal 7 1], by decide +kernel⟩

theorem witness_CanalConnections_6 : ∃ (k : Nat) (c : Canal) (s : State), canalOf s k = some c ∧ c.setup ≠ 0 :=
  ⟨5, aCanal 7 1, withCanals [aCanal 7 1], by decide +kernel⟩

theorem witness_CanalConnections_7 : ∃ (k : Nat) (h : Hello) (c : Canal) (s : State), k < 1024 ∧ canalOf s k = some c ∧ c.setup = 6 ∧ h.refused = false ∧ h.repHandle = c.handle ∧ nodeFits s h.node c.handle = true ∧ h.promoted = false ∧ h.hostWrites = false :=
  ⟨5, ⟨19, 0, 9 * 32768 + 2, false, 7, 0, 0, 0, false, false, false, 0⟩, aCanal 6 0, withCanals [aCanal 6 0], by decide +kernel⟩

theorem witness_CanalConnections_8 : ∃ (k : Nat) (h : Hello) (s : State), 1024 ≤ k ∧ admits s = true :=
  ⟨1027, ⟨19, 0, 9 * 32768 + 2, false, 7, 0, 0, 0, false, false, false, 0⟩, setF F.VAT_READY 1 (withCanals []), by decide +kernel⟩

theorem witness_CanalConnections_9 : ∃ (k node : Nat) (c : Canal) (s : State), canalOf s k = some c ∧ c.source = true ∧ c.state ≠ 5 ∧ 1 ≤ node ∧ node ≤ 262142 :=
  ⟨5, 21, aCanal 7 1, withCanals [aCanal 7 1], by decide +kernel⟩

theorem witness_CanalConnections_10 : ∃ (k : Nat) (c : Canal) (s : State), canalOf s k = some c ∧ c.source = true ∧ c.sync = true ∧ (canalWaiters s k).isEmpty = false ∧ c.state ≠ 0 :=
  ⟨5, { aCanal 7 1 with sync := true }, withCmds [{ aCmd .write 3 0 8192 with canals := [(5, 1)] }] (withCanals [{ aCanal 7 1 with sync := true }]), by decide +kernel⟩

theorem witness_CanalConnections_11 : ∃ s : State, admits s = true ∧ canalRefusal s = none :=
  ⟨setF F.VAT_READY 1 (withCanals [aCanal 0 3]), by decide +kernel⟩

theorem witness_CanalConnections_12 : ∃ (k : Nat) (c : Canal) (s : State), canalOf s k = some c ∧ c.setup = 7 :=
  ⟨5, aCanal 7 1, withCanals [aCanal 7 1], by decide +kernel⟩

theorem witness_CanalConnections_13 : ∃ (k : Nat) (c : Canal) (s : State), canalOf s k = some c ∧ c.source = true ∧ c.period ≠ 0 ∧ c.state = 1 ∧ c.setup = 7 ∧ c.xfer = none ∧ mode s ≠ 6 :=
  ⟨5, { aCanal 7 1 with period := 60 }, withCanals [{ aCanal 7 1 with period := 60 }], by decide +kernel⟩

theorem witness_CanalTransfers_0 : ∃ (k seq off len : Nat) (data : List Byte) (c : Canal) (v : Volume) (s : State), canalOf s k = some c ∧ volOf s c.vol = some v ∧ c.source = false ∧ c.setup = 7 ∧ admits s = true :=
  ⟨1027, 1, 0, 1, [7], aTarget, aVol, setF F.VAT_READY 1 (withCanals [aTarget]), by decide +kernel⟩

theorem witness_CanalTransfers_1 : ∃ (k seq : Nat) (c : Canal) (s : State), canalOf s k = some c ∧ c.source = true ∧ c.setup = 7 :=
  ⟨5, 1, aCanal 7 1, withCanals [aCanal 7 1], by decide +kernel⟩

theorem witness_CanalTransfers_2 : ∃ (k new : Nat) (c : Canal) (v : Volume) (s : State), canalOf s k = some c ∧ volOf s c.vol = some v ∧ c.source = false ∧ c.setup = 7 ∧ (c.xfer.any (fun x => decide (x.base = 0 ∧ x.new = new)) = false) :=
  ⟨1027, 4, aTarget, aVol, withCanals [aTarget], by decide +kernel⟩

theorem witness_CanalTransfers_3 : ∃ (k : Nat) (l : List (Nat × List Byte)) (c : Canal) (v : Volume) (x : Xfer) (s : State), canalOf s k = some c ∧ volOf s c.vol = some v ∧ c.xfer = some x ∧ c.source = false ∧ c.setup = 7 :=
  ⟨1027, [], { aTarget with xfer := some ⟨0, 4, [], 0, [], true, [], false⟩ }, aVol, ⟨0, 4, [], 0, [], true, [], false⟩, withCanals [{ aTarget with xfer := some ⟨0, 4, [], 0, [], true, [], false⟩ }], by decide +kernel⟩

theorem witness_CanalTransfers_4 : ∃ (k : Nat) (c : Canal) (v : Volume) (x : Xfer) (img : Snapshot) (s : State), canalOf s k = some c ∧ volOf s c.vol = some v ∧ c.xfer = some x ∧ c.source = true ∧ c.setup = 7 ∧ snapByGen v x.new = some img :=
  ⟨5, { aCanal 7 1 with xfer := some ⟨0, 1, [], 0, [], true, [], false⟩ }, { aVol with snaps := [⟨2, 1, 0, 2 ^ 22, [], none⟩] }, ⟨0, 1, [], 0, [], true, [], false⟩, ⟨2, 1, 0, 2 ^ 22, [], none⟩, { withCanals [{ aCanal 7 1 with xfer := some ⟨0, 1, [], 0, [], true, [], false⟩ }] with volu := { (withCanals [{ aCanal 7 1 with xfer := some ⟨0, 1, [], 0, [], true, [], false⟩ }]).volu with vols := [{ aVol with snaps := [⟨2, 1, 0, 2 ^ 22, [], none⟩] }] } }, by decide +kernel⟩

theorem witness_CanalTransfers_5 : ∃ (k chunk : Nat) (r : List Byte) (c : Canal) (v : Volume) (x : Xfer) (e : Nat × List Byte) (s : State), canalOf s k = some c ∧ volOf s c.vol = some v ∧ c.xfer = some x ∧ c.source = false ∧ c.setup = 7 ∧ x.need.contains chunk = true ∧ (x.list.find? (fun e => e.1 = chunk) = some e) ∧ durable s v.group e.2 = none ∧ (stageRoom v.group r.length s).isSome = true :=
  ⟨1027, 0, [], { aTarget with xfer := some ⟨0, 4, [(0, [1])], 0, [0], true, [], false⟩ }, aVol, ⟨0, 4, [(0, [1])], 0, [0], true, [], false⟩, (0, [1]), withCanals [{ aTarget with xfer := some ⟨0, 4, [(0, [1])], 0, [0], true, [], false⟩ }], by decide +kernel⟩

theorem witness_CanalTransfers_6 : ∃ (k gen : Nat) (c : Canal) (v : Volume) (s : State), canalOf s k = some c ∧ volOf s c.vol = some v ∧ c.source = false ∧ c.setup = 7 ∧ c.xfer = none ∧ gen = v.commitGen :=
  ⟨1027, 0, aTarget, aVol, withCanals [aTarget], by decide +kernel⟩

theorem witness_CanalTransfers_7 : ∃ (k gen : Nat) (c : Canal) (v : Volume) (x : Xfer) (s : State), canalOf s k = some c ∧ volOf s c.vol = some v ∧ c.source = false ∧ c.setup = 7 ∧ c.xfer = some x ∧ x.new = gen ∧ x.need = [] ∧ s.red.jobs = [] ∧ ((s.volu.vols.filter (fun y => y.num = v.num)).length = 1) :=
  ⟨1027, 4, { aTarget with xfer := some ⟨0, 4, [], 0, [], true, [], false⟩ }, aVol, ⟨0, 4, [], 0, [], true, [], false⟩, withCanals [{ aTarget with xfer := some ⟨0, 4, [], 0, [], true, [], false⟩ }], by decide +kernel⟩

theorem witness_CanalTransfers_8 : ∃ (k gen : Nat) (c : Canal) (v : Volume) (x : Xfer) (s : State), canalOf s k = some c ∧ volOf s c.vol = some v ∧ c.xfer = some x ∧ c.source = true ∧ c.setup = 7 ∧ x.new = gen ∧ snapByGen v x.base = none :=
  ⟨5, 1, { aCanal 7 1 with xfer := some ⟨0, 1, [], 0, [], true, [], false⟩ }, aVol, ⟨0, 1, [], 0, [], true, [], false⟩, withCanals [{ aCanal 7 1 with xfer := some ⟨0, 1, [], 0, [], true, [], false⟩ }], by decide +kernel⟩

theorem witness_CanalTransfers_9 : ∃ (m : Fin 16) (k : Canal) (s : State), Units s ∧ volRuns s m 0x0719 ∧ canalNamed s (mbxAt s m).cmd = some k ∧ k.mbx = none :=
  ⟨5, aCanal 7 1, running 5 0x719 5 [] (withCanals [aCanal 7 1]), by unfold Units volRuns mbxRuns MotSt.units; decide +kernel⟩

theorem witness_CanalTransfers_10 : ∃ (m : Fin 16) (k : Canal) (s : State), Units s ∧ volRuns s m 0x071A ∧ canalNamed s (mbxAt s m).cmd = some k ∧ mode s ≠ 6 ∧ k.xfer = none ∧ k.state = 1 ∧ k.setup = 7 :=
  ⟨5, aCanal 7 1, running 5 0x71A 5 [] (withCanals [aCanal 7 1]), by unfold Units volRuns mbxRuns MotSt.units; decide +kernel⟩

theorem witness_CanalTransfers_11 : ∃ (m : Fin 16) (v : Volume) (s : State), Units s ∧ volRuns s m 0x071B ∧ par (mbxAt s m).cmd 0 15 ≠ 0 ∧ volOf s (par (mbxAt s m).cmd 0 15) = some v ∧ ((s.volu.vols.filter (fun y => y.num = v.num)).length = 1) :=
  ⟨5, { aVol with kind := 2 }, running 5 0x71B 3 [] (withVols [{ aVol with kind := 2 }]), by unfold Units volRuns mbxRuns MotSt.units; decide +kernel⟩

theorem witness_CanalTransfers_12 : ∃ (m : Fin 16) (k : Canal) (s : State), Units s ∧ volRuns s m 0x071C ∧ canalNamed s (mbxAt s m).cmd = some k ∧ k.dirtyAll = false :=
  ⟨5, aCanal 7 1, running 5 0x71C 5 [] (withCanals [aCanal 7 1]), by unfold Units volRuns mbxRuns MotSt.units; decide +kernel⟩

theorem witness_CanalTransfers_13 : ∃ (m : Fin 16) (s : State), Units s ∧ volRuns s m 0x071D :=
  ⟨5, running 5 0x71D 0 [] (withVols [aVol]), by unfold Units volRuns mbxRuns MotSt.units; decide +kernel⟩

theorem witness_CanalTransfers_14 : ∃ (p h id : Nat) (v : Volume) (s : State), volOf s v.num = some v ∧ (drainJob s v.group).vol = some v.num ∧ (drainJob s v.group).stage = 1 ∧ offerPeer s (drainJob s v.group) = some p ∧ freeCanal s = some id :=
  ⟨19, 9 * 32768 + 2, 0, aVol, { withCanals [] with volu := { (withCanals []).volu with drain := { (withCanals []).volu.drain with peers := [19], jobs := [{ DrainJob.reset with vol := some 3, stage := 1 }, DrainJob.reset] } } }, by decide +kernel⟩

theorem witness_CanalTransfers_15 : ∃ (g : Fin 2) (c : Canal) (s : State), (drainJob s g.val).stage = 4 ∧ (drainJob s g.val).hold = true ∧ (drainJob s g.val).canal = some c.id ∧ canalOf s c.id = some c :=
  ⟨0, aCanal 7 1, { withCanals [aCanal 7 1] with volu := { (withCanals [aCanal 7 1]).volu with drain := { (withCanals [aCanal 7 1]).volu.drain with jobs := [{ DrainJob.reset with vol := some 3, stage := 4, hold := true, canal := some 5 }, DrainJob.reset] } } }, by decide +kernel⟩

theorem witness_HeadgateAndSluice_0 : ∃ s : State, admits s = true ∧ domOn s 10 = true ∧ isSet s F.CLK_BACKUP_ACTIVE = false :=
  ⟨full, by decide +kernel⟩

theorem witness_HeadgateAndSluice_1 : ∃ (c : Cmd) (s : State), nextAdmit s = some [c] ∧ headgateCheck s c = none ∧ sluiceUsed s ≤ 8191 ∧ roWait s c = false ∧ poolShort s (poolNeed s c) = false ∧ poolNeed s c = 0 :=
  ⟨aCmd .read 3 0 8192, withCmds [aCmd .read 3 0 8192] (withVols [aVol]), by decide +kernel⟩

theorem witness_HeadgateAndSluice_2 : ∃ (k : Nat) (c : Cmd) (v : Volume) (s : State), cmdOf s k = some c ∧ c.stage = 0 ∧ hostCmd c = true ∧ volOf s c.vol = some v ∧ anaState s v.group = 4 :=
  ⟨1, aCmd .read 3 0 8192, aVol, (fun s : State => { s with pair := { s.pair with handover := some ⟨true, 2⟩ } }) (setTok 4 ⟨.owned, 0, 0⟩ (withCmds [aCmd .read 3 0 8192] (withVols [aVol]))), by decide +kernel⟩

theorem witness_HeadgateAndSluice_3 : ∃ (k : Nat) (x : Bool) (c : Cmd) (s : State), cmdOf s k = some c ∧ c.stage = 1 ∧ domOn s 10 = true ∧ chainBlocked s c = false ∧ (((s.host.cmds.takeWhile (fun x => x.id ≠ k)).filter (fun x => x.stage = 1 ∨ x.stage = 2)).any (fun x => conflicts x c || bandBefore x c) = false) :=
  ⟨1, true, { aCmd .read 3 0 8192 with stage := 1 }, withCmds [{ aCmd .read 3 0 8192 with stage := 1 }] (withVols [aVol]), by decide +kernel⟩

theorem witness_HeadgateAndSluice_4 : ∃ (k : Nat) (x : Bool) (a : BitVec 26) (c : Cmd) (s : State), cmdOf s k = some c ∧ c.stage = 1 ∧ domOn s 10 = true ∧ chainBlocked s c = false ∧ (((s.host.cmds.takeWhile (fun x => x.id ≠ k)).filter (fun x => x.stage = 1 ∨ x.stage = 2)).any (fun x => conflicts x c || bandBefore x c) = false) ∧ c.op = .write ∧ c.forwarded = false ∧ c.status = none :=
  ⟨1, true, 64, { aCmd .write 3 0 8192 with stage := 1 }, withCmds [{ aCmd .write 3 0 8192 with stage := 1 }] (withVols [aVol]), by decide +kernel⟩

theorem witness_HeadgateAndSluice_5 : ∃ (k : Nat) (x : Bool) (c : Cmd) (s : State), cmdOf s k = some c ∧ domWorks s 10 = true ∧ cmdReady s c = true ∧ c.chain = none ∧ (∀ m, c.src ≠ .mbox m) :=
  ⟨1, true, { aCmd .read 3 0 8192 with stage := 3, status := some 0x619 }, withCmds [{ aCmd .read 3 0 8192 with stage := 3, status := some 0x619 }] full, by exact ⟨by decide +kernel, by decide +kernel, by decide +kernel, by decide +kernel, fun m h => by cases h⟩⟩

theorem witness_HeadgateAndSluice_6 : ∃ (k : Nat) (x : Bool) (c : Cmd) (s : State), cmdOf s k = some c ∧ domWorks s 10 = true ∧ stopsHere s c = true ∧ hasJobs (dropJobs k s) k = false :=
  ⟨1, true, { aCmd .read 3 0 8192 with stage := 2, abort := true }, withCmds [{ aCmd .read 3 0 8192 with stage := 2, abort := true }] full, by decide +kernel⟩

theorem witness_HeadgateAndSluice_7 : ∃ (req st : Nat) (data : List Byte) (r : FwdReq) (s : State), (s.host.reqs.find? (fun r => r.req = req) = some r) ∧ st ≠ 0x0A11 :=
  ⟨1, 0, [], ⟨1, 2, 5, []⟩, { full with host := { full.host with reqs := [⟨1, 2, 5, []⟩] } }, by decide +kernel⟩

theorem witness_HeadgateAndSluice_8 : ∃ (m : Fin 16) (s : State), Units s ∧ mbxRuns s m 0x0604 :=
  ⟨5, running 5 0x604 0 [] full, by unfold Units mbxRuns MotSt.units; decide +kernel⟩

theorem witness_HeadgateAndSluice_9 : ∃ (p : Path) (s : State), writeGoes p R.SLU_HWM 0x80000000 s :=
  ⟨.core, full, by unfold writeGoes; decide +kernel⟩

theorem witness_NativeQueues_1 : ∃ (p : Path) (q : Fin 256) (n : Fin 8) (host : List Host.Cell) (s : State), writeGoes p (R.Q_DB q.val) (BitVec.ofNat 32 (4 * n.val + 1)) (hostPlaces host s) :=
  ⟨.core, 40, 1, [], fetchedOne [], by unfold writeGoes; decide +kernel⟩

theorem witness_NativeQueues_2 : ∃ (q : Fin 256) (host : List Host.Cell) (s : State), isSet s (F.Q_POLL q.val) = true ∧ domOn s 10 = true :=
  ⟨40, [], setF (F.Q_POLL 40) 1 (fetchedOne []), by decide +kernel⟩

theorem witness_NativeQueues_3 : ∃ (q : Fin 256) (v : Fetched × State) (s : State), (natTake q.val (fun k => decide (k = 0)) s = some v) ∧ v.1.chain = none :=
  ⟨40, (natTake 40 (fun k => decide (k = 0)) (fetchedOne (natEntry 0 0 0 0 0))).get (by decide +kernel), fetchedOne (natEntry 0 0 0 0 0), by decide +kernel⟩

theorem witness_NativeQueues_4 : ∃ (q : Fin 256) (v : Fetched × State) (s : State), (natTake q.val (fun k => decide (k = 1)) s = some v) :=
  ⟨40, (natTake 40 (fun k => decide (k = 1)) (fetchedOne (natEntry 1 0 3 0 512))).get (by decide +kernel), fetchedOne (natEntry 1 0 3 0 512), by decide +kernel⟩

theorem witness_NativeQueues_5 : ∃ (q : Fin 256) (v : Fetched × State) (s : State), (natTake q.val (fun k => decide (k = 2)) s = some v) :=
  ⟨40, (natTake 40 (fun k => decide (k = 2)) (fetchedOne (natEntry 2 0 3 0 512))).get (by decide +kernel), fetchedOne (natEntry 2 0 3 0 512), by decide +kernel⟩

theorem witness_NativeQueues_6 : ∃ (q : Fin 256) (v : Fetched × State) (s : State), (natTake q.val (fun k => decide (k = 3)) s = some v) :=
  ⟨40, (natTake 40 (fun k => decide (k = 3)) (fetchedOne (natEntry 3 0 3 0 512))).get (by decide +kernel), fetchedOne (natEntry 3 0 3 0 512), by decide +kernel⟩

theorem witness_NativeQueues_7 : ∃ (q : Fin 256) (v : Fetched × State) (s : State), (natTake q.val (fun k => decide (k = 4)) s = some v) :=
  ⟨40, (natTake 40 (fun k => decide (k = 4)) (fetchedOne (natEntry 4 0 3 0 512))).get (by decide +kernel), fetchedOne (natEntry 4 0 3 0 512), by decide +kernel⟩

theorem witness_NativeQueues_8 : ∃ (q : Fin 256) (v : Fetched × State) (s : State), (natTake q.val (fun k => decide (k = 5)) s = some v) :=
  ⟨40, (natTake 40 (fun k => decide (k = 5)) (fetchedOne (natEntry 5 0 3 0 512))).get (by decide +kernel), fetchedOne (natEntry 5 0 3 0 512), by decide +kernel⟩

theorem witness_NativeQueues_9 : ∃ (q : Fin 256) (v : Fetched × State) (s : State), (natTake q.val (fun k => decide (0x20 ≤ k ∧ k ≤ 0x23)) s = some v) ∧ v.1.chain.isSome = true :=
  ⟨40, (natTake 40 (fun k => decide (0x20 ≤ k ∧ k ≤ 0x23)) (nativeAt { NatQ.reset with fetched := [⟨40, 0, natEntry 0x20 1 0 0 0, some 9, false⟩] })).get (by decide +kernel), nativeAt { NatQ.reset with fetched := [⟨40, 0, natEntry 0x20 1 0 0 0, some 9, false⟩] }, by decide +kernel⟩

theorem witness_NativeQueues_10 : ∃ (q : Fin 256) (v : Fetched × State) (x : Cmd) (s : State), (natTake q.val (fun k => decide (0x20 ≤ k ∧ k ≤ 0x23)) s = some v) ∧ v.1.chain = none ∧ (v.2.host.cmds.any (fun x => bandQueued q.val x) = false) ∧ cmdOf (enter { natCmd v.1 (.band (nKind v.1.bytes - 0x20) (slice v.1.bytes 32 32)) false with vol := 0, buf := [(leAt v.1.bytes 24 8, 16)] } v.2) v.2.host.cmdNext = some x :=
  ⟨40, (natTake 40 (fun k => decide (0x20 ≤ k ∧ k ≤ 0x23)) (fetchedOne (natEntry 0x20 0 0 0 0))).get (by decide +kernel), { natCmd ⟨40, 0, natEntry 0x20 0 0 0 0, none, true⟩ (.band 0 (slice (natEntry 0x20 0 0 0 0) 32 32)) false with vol := 0, buf := [(0, 16)], id := full.host.cmdNext, arrived := full.host.cmdNext }, fetchedOne (natEntry 0x20 0 0 0 0), by decide +kernel⟩

theorem witness_NativeQueues_11 : ∃ (q : Fin 32) (b : List Byte) (s : State), 0x40 ≤ nKind b ∧ nKind b ≤ 0x7F ∧ admits s = true ∧ headgateFull s = false :=
  ⟨3, natEntry 0x40 0 3 0 512, full, by decide +kernel⟩

theorem witness_NativeQueues_12 : ∃ (q : Fin 256) (s : State), published (natOf s q.val) ≠ 0 ∧ natFetches s q.val = true ∧ nKind (entryAt s q.val (natOf s q.val).sqCons) = 8 ∧ entryBad s q.val (entryAt s q.val (natOf s q.val).sqCons) = false ∧ Units s ∧ RegsWf s :=
  ⟨40, publishedOne (natEntry 8 0 0 0 0), by unfold Units RegsWf MotSt.units; decide +kernel⟩

theorem witness_NativeQueues_13 : ∃ (q : Fin 256) (w : FenceWait) (s : State), (natOf s q.val).fence = some w ∧ fenceMet s w = true ∧ domOn s 10 = true :=
  ⟨40, ⟨0, 7, false, [], [], []⟩, nativeAt { NatQ.reset with fence := some ⟨0, 7, false, [], [], []⟩ }, by decide +kernel⟩

theorem witness_NativeQueues_14 : ∃ (q : Fin 256) (w : FenceWait) (s : State), (natOf s q.val).fence = some w ∧ domOn s 10 = true :=
  ⟨40, ⟨0, 7, false, [], [], []⟩, nativeAt { NatQ.reset with fence := some ⟨0, 7, false, [], [], []⟩ }, by decide +kernel⟩

theorem witness_NativeQueues_17 : ∃ (m : Fin 16) (s : State), Units s ∧ RegsWf s ∧ mbxRuns s m 0x0600 ∧ (mbxAt s m).cmd.data.length = 64 ∧ 32 ≤ leAt (mbxAt s m).cmd.data 0 1 ∧ getF s (F.Q_STATE (leAt (mbxAt s m).cmd.data 0 1)) = 0 ∧ leAt (mbxAt s m).cmd.data 1 1 = 0 ∧ 4 ≤ leAt (mbxAt s m).cmd.data 2 1 ∧ leAt (mbxAt s m).cmd.data 2 1 ≤ 16 ∧ leAt (mbxAt s m).cmd.data 3 1 < 16 ∧ leAt (mbxAt s m).cmd.data 4 2 ≤ 2047 ∧ leAt (mbxAt s m).cmd.data 6 2 = 0 ∧ leAt (mbxAt s m).cmd.data 8 8 % 4096 = 0 ∧ leAt (mbxAt s m).cmd.data 16 8 % 4096 = 0 ∧ leAt (mbxAt s m).cmd.data 24 8 % 64 = 0 ∧ ((slice (mbxAt s m).cmd.data 32 32).any (fun b => b ≠ 0) = false) :=
  ⟨5, running 5 0x600 0 ([40, 0, 4, 0, 0, 0, 0, 0] ++ leBytes 8 0x1000 ++ leBytes 8 0x2000 ++ leBytes 8 0x40 ++ List.replicate 32 0) full, by unfold Units RegsWf mbxRuns MotSt.units; decide +kernel⟩

theorem witness_NativeQueues_18 : ∃ (m : Fin 16) (s : State), Units s ∧ RegsWf s ∧ mbxRuns s m 0x0601 ∧ queueMine s m.val (par (mbxAt s m).cmd 0 8) = true ∧ isSet s (F.Q_SHUT_MODE (par (mbxAt s m).cmd 0 8)) = false :=
  ⟨5, running 5 0x601 40 [] full, by unfold Units RegsWf mbxRuns MotSt.units; decide +kernel⟩

theorem witness_NativeQueues_19 : ∃ (m : Fin 16) (s : State), Units s ∧ mbxRuns s m 0x0602 ∧ queueMine s m.val (par (mbxAt s m).cmd 0 8) = true ∧ isSet s (F.Q_SHUT_MODE (par (mbxAt s m).cmd 0 8)) = false ∧ (getF s (F.Q_STATE (par (mbxAt s m).cmd 0 8)) = 1 ∨ getF s (F.Q_STATE (par (mbxAt s m).cmd 0 8)) = 4) ∧ ((List.range 256).all (fun k => decide ((natOf s k).stopMbx ≠ some m.val)) = true) :=
  ⟨14, running 14 0x602 40 [] (fetchedOne (natEntry 0 0 0 0 0)), by unfold Units mbxRuns MotSt.units; decide +kernel⟩

theorem witness_NativeQueues_20 : ∃ (m : Fin 16) (s : State), Units s ∧ mbxRuns s m 0x0603 ∧ par (mbxAt s m).cmd 8 1 = 0 ∧ queueMine s m.val (par (mbxAt s m).cmd 0 8) = true :=
  ⟨14, running 14 0x603 40 [] (fetchedOne (natEntry 0 0 0 0 0)), by unfold Units mbxRuns MotSt.units; decide +kernel⟩

theorem witness_NativeQueues_21 : ∃ (m : Fin 16) (s : State), Units s ∧ mbxRuns s m 0x0603 ∧ par (mbxAt s m).cmd 8 1 = 1 ∧ queueMine s m.val (par (mbxAt s m).cmd 0 8) = true :=
  ⟨14, running 14 0x603 0x128 [] (fetchedOne (natEntry 0 0 0 0 0)), by unfold Units mbxRuns MotSt.units; decide +kernel⟩

theorem witness_NvmeQueuesAndControllers_0 : ∃ (c x : NvmeCmd) (k : NvCtrl) (s t : State), nvTaken 0x05 true c s = some (x, k, t) ∧ k.kind = 0 ∧ qidOk k (bitsAt x.dw10.toNat 0 16) = true ∧ cqOf k (bitsAt x.dw10.toNat 0 16) = none ∧ 2 ≤ bitsAt x.dw10.toNat 16 16 + 1 ∧ bitsAt x.dw10.toNat 16 16 + 1 ≤ 65536 ∧ bitAt x.dw11.toNat 0 = true ∧ bitsAt x.dw11.toNat 16 16 ≤ 2047 :=
  ⟨aNvme 0, ((nvTaken 0x05 true (aNvme 0) (nvmeAt 0 0 (anEntry 0x05 0 0xF0002 0x20003 0x0 0 0 0))).get (by decide +kernel)).1, ((nvTaken 0x05 true (aNvme 0) (nvmeAt 0 0 (anEntry 0x05 0 0xF0002 0x20003 0x0 0 0 0))).get (by decide +kernel)).2.1, nvmeAt 0 0 (anEntry 0x05 0 0xF0002 0x20003 0x0 0 0 0), ((nvTaken 0x05 true (aNvme 0) (nvmeAt 0 0 (anEntry 0x05 0 0xF0002 0x20003 0x0 0 0 0))).get (by decide +kernel)).2.2, by decide +kernel⟩

theorem witness_NvmeQueuesAndControllers_1 : ∃ (c x : NvmeCmd) (k : NvCtrl) (s t : State), nvTaken 0x01 true c s = some (x, k, t) ∧ k.kind = 0 ∧ qidOk k (bitsAt x.dw10.toNat 0 16) = true ∧ sqOf k (bitsAt x.dw10.toNat 0 16) = none ∧ 0 < ioqFree t ∧ 2 ≤ bitsAt x.dw10.toNat 16 16 + 1 ∧ bitsAt x.dw10.toNat 16 16 + 1 ≤ 65536 ∧ bitAt x.dw11.toNat 0 = true ∧ bitsAt x.dw11.toNat 16 16 ≠ 0 ∧ (cqOf k (bitsAt x.dw11.toNat 16 16)).isSome = true :=
  ⟨aNvme 0, ((nvTaken 0x01 true (aNvme 0) (nvmeAt 0 0 (anEntry 0x01 0 0xF0002 0x10001 0x0 0 0 0))).get (by decide +kernel)).1, ((nvTaken 0x01 true (aNvme 0) (nvmeAt 0 0 (anEntry 0x01 0 0xF0002 0x10001 0x0 0 0 0))).get (by decide +kernel)).2.1, nvmeAt 0 0 (anEntry 0x01 0 0xF0002 0x10001 0x0 0 0 0), ((nvTaken 0x01 true (aNvme 0) (nvmeAt 0 0 (anEntry 0x01 0 0xF0002 0x10001 0x0 0 0 0))).get (by decide +kernel)).2.2, by decide +kernel⟩

theorem witness_NvmeQueuesAndControllers_2 : ∃ (c x : NvmeCmd) (k : NvCtrl) (s t : State), nvTaken 0x01 true c s = some (x, k, t) ∧ k.kind = 0 ∧ ioqFree t = 0 :=
  ⟨aNvme 0, ((nvTaken 0x01 true (aNvme 0) ({ nvmeAt 0 0 (anEntry 0x01 0 0x000F0002 0x10001 0 0 0 0) with host := { hosted.host with nvFetched := [(0, 1, 0, anEntry 0x01 0 0x000F0002 0x10001 0 0 0 0)], ctrls := aCtrl 0 :: (List.range 32).map (fun n => { aCtrl 0 with cntlid := n + 2, sqs := (List.range 256).map (fun i => ⟨i + 1, 1, 0, 16, 0, 0, [], none, false⟩) }) } })).get (by decide +kernel)).1, ((nvTaken 0x01 true (aNvme 0) ({ nvmeAt 0 0 (anEntry 0x01 0 0x000F0002 0x10001 0 0 0 0) with host := { hosted.host with nvFetched := [(0, 1, 0, anEntry 0x01 0 0x000F0002 0x10001 0 0 0 0)], ctrls := aCtrl 0 :: (List.range 32).map (fun n => { aCtrl 0 with cntlid := n + 2, sqs := (List.range 256).map (fun i => ⟨i + 1, 1, 0, 16, 0, 0, [], none, false⟩) }) } })).get (by decide +kernel)).2.1, { nvmeAt 0 0 (anEntry 0x01 0 0x000F0002 0x10001 0 0 0 0) with host := { hosted.host with nvFetched := [(0, 1, 0, anEntry 0x01 0 0x000F0002 0x10001 0 0 0 0)], ctrls := aCtrl 0 :: (List.range 32).map (fun n => { aCtrl 0 with cntlid := n + 2, sqs := (List.range 256).map (fun i => ⟨i + 1, 1, 0, 16, 0, 0, [], none, false⟩) }) } }, ((nvTaken 0x01 true (aNvme 0) ({ nvmeAt 0 0 (anEntry 0x01 0 0x000F0002 0x10001 0 0 0 0) with host := { hosted.host with nvFetched := [(0, 1, 0, anEntry 0x01 0 0x000F0002 0x10001 0 0 0 0)], ctrls := aCtrl 0 :: (List.range 32).map (fun n => { aCtrl 0 with cntlid := n + 2, sqs := (List.range 256).map (fun i => ⟨i + 1, 1, 0, 16, 0, 0, [], none, false⟩) }) } })).get (by decide +kernel)).2.2, by decide +kernel⟩

theorem witness_NvmeQueuesAndControllers_3 : ∃ (c x : NvmeCmd) (k : NvCtrl) (s t : State), nvTaken 0x00 true c s = some (x, k, t) ∧ k.kind = 0 ∧ bitsAt x.dw10.toNat 0 16 ≠ 0 ∧ (sqOf k (bitsAt x.dw10.toNat 0 16)).isSome = true ∧ (t.host.nvFetched.filter (fun f => f.2.1 = x.ctrl ∧ f.2.2.1 = bitsAt x.dw10.toNat 0 16) = []) ∧ t.host.cmds = [] :=
  ⟨aNvme 0, ((nvTaken 0x00 true (aNvme 0) (nvmeAt 0 0 (anEntry 0x00 0 0x1 0x0 0x0 0 0 0))).get (by decide +kernel)).1, ((nvTaken 0x00 true (aNvme 0) (nvmeAt 0 0 (anEntry 0x00 0 0x1 0x0 0x0 0 0 0))).get (by decide +kernel)).2.1, nvmeAt 0 0 (anEntry 0x00 0 0x1 0x0 0x0 0 0 0), ((nvTaken 0x00 true (aNvme 0) (nvmeAt 0 0 (anEntry 0x00 0 0x1 0x0 0x0 0 0 0))).get (by decide +kernel)).2.2, by decide +kernel⟩

theorem witness_NvmeQueuesAndControllers_4 : ∃ (c x : NvmeCmd) (k : NvCtrl) (s t : State), nvTaken 0x04 true c s = some (x, k, t) ∧ k.kind = 0 ∧ bitsAt x.dw10.toNat 0 16 ≠ 0 ∧ (cqOf k (bitsAt x.dw10.toNat 0 16)).isSome = true ∧ (k.sqs.any (fun y => y.cq = bitsAt x.dw10.toNat 0 16) = false) :=
  ⟨aNvme 0, ((nvTaken 0x04 true (aNvme 0) ((fun s : State => updCtrl 1 (fun k => { k with cqs := k.cqs ++ [⟨2, 0, 16, 0, 0, true, false, 0, 0⟩] }) s) (nvmeAt 0 0 (anEntry 0x04 0 0x2 0x0 0x0 0 0 0)))).get (by decide +kernel)).1, ((nvTaken 0x04 true (aNvme 0) ((fun s : State => updCtrl 1 (fun k => { k with cqs := k.cqs ++ [⟨2, 0, 16, 0, 0, true, false, 0, 0⟩] }) s) (nvmeAt 0 0 (anEntry 0x04 0 0x2 0x0 0x0 0 0 0)))).get (by decide +kernel)).2.1, (fun s : State => updCtrl 1 (fun k => { k with cqs := k.cqs ++ [⟨2, 0, 16, 0, 0, true, false, 0, 0⟩] }) s) (nvmeAt 0 0 (anEntry 0x04 0 0x2 0x0 0x0 0 0 0)), ((nvTaken 0x04 true (aNvme 0) ((fun s : State => updCtrl 1 (fun k => { k with cqs := k.cqs ++ [⟨2, 0, 16, 0, 0, true, false, 0, 0⟩] }) s) (nvmeAt 0 0 (anEntry 0x04 0 0x2 0x0 0x0 0 0 0)))).get (by decide +kernel)).2.2, by decide +kernel⟩

theorem witness_NvmeQueuesAndControllers_5 : ∃ (c x : NvmeCmd) (k : NvCtrl) (s t : State), nvTaken 0x04 true c s = some (x, k, t) ∧ k.kind = 0 ∧ bitsAt x.dw10.toNat 0 16 ≠ 0 ∧ (cqOf k (bitsAt x.dw10.toNat 0 16)).isSome = true ∧ (k.sqs.any (fun y => y.cq = bitsAt x.dw10.toNat 0 16) = true) :=
  ⟨aNvme 0, ((nvTaken 0x04 true (aNvme 0) (nvmeAt 0 0 (anEntry 0x04 0 0x1 0x0 0x0 0 0 0))).get (by decide +kernel)).1, ((nvTaken 0x04 true (aNvme 0) (nvmeAt 0 0 (anEntry 0x04 0 0x1 0x0 0x0 0 0 0))).get (by decide +kernel)).2.1, nvmeAt 0 0 (anEntry 0x04 0 0x1 0x0 0x0 0 0 0), ((nvTaken 0x04 true (aNvme 0) (nvmeAt 0 0 (anEntry 0x04 0 0x1 0x0 0x0 0 0 0))).get (by decide +kernel)).2.2, by decide +kernel⟩

theorem witness_NvmeQueuesAndControllers_6 : ∃ (c x : NvmeCmd) (k : NvCtrl) (s t : State), nvTaken 0x18 true c s = some (x, k, t) :=
  ⟨aNvme 0, ((nvTaken 0x18 true (aNvme 0) (nvmeAt 1 1 [])).get (by decide +kernel)).1, ((nvTaken 0x18 true (aNvme 0) (nvmeAt 1 1 [])).get (by decide +kernel)).2.1, nvmeAt 1 1 [], ((nvTaken 0x18 true (aNvme 0) (nvmeAt 1 1 [])).get (by decide +kernel)).2.2, by decide +kernel⟩

theorem witness_NvmeQueuesAndControllers_7 : ∃ (n : Nat) (k : NvCtrl) (s : State), ctrlOf s n = some k ∧ k.kind ≠ 0 :=
  ⟨1, { aCtrl 1 with kato := 1000 }, { full with now := 2000000000, host := { full.host with ctrls := [{ aCtrl 1 with kato := 1000 }] } }, by decide +kernel⟩

theorem witness_NvmeQueuesAndControllers_8 : ∃ (c x : NvmeCmd) (k : NvCtrl) (s t : State), nvTaken 0x02 true c s = some (x, k, t) ∧ k.kind ≠ 2 ∧ bitsAt x.dw10.toNat 0 8 = 0x0C :=
  ⟨{ aNvme 0 with dw10 := 0x10000C }, ((nvTaken 0x02 true ({ aNvme 0 with dw10 := 0x10000C }) (nvmeAt 1 1 [])).get (by decide +kernel)).1, ((nvTaken 0x02 true ({ aNvme 0 with dw10 := 0x10000C }) (nvmeAt 1 1 [])).get (by decide +kernel)).2.1, nvmeAt 1 1 [], ((nvTaken 0x02 true ({ aNvme 0 with dw10 := 0x10000C }) (nvmeAt 1 1 [])).get (by decide +kernel)).2.2, by decide +kernel⟩

theorem witness_NvmeQueuesAndControllers_9 : ∃ (c x : NvmeCmd) (k : NvCtrl) (s t : State), nvTaken 0x06 true c s = some (x, k, t) ∧ bitsAt x.dw10.toNat 0 8 = 1 :=
  ⟨{ aNvme 0 with dw10 := 1 }, ((nvTaken 0x06 true ({ aNvme 0 with dw10 := 1 }) (nvmeAt 1 1 [])).get (by decide +kernel)).1, ((nvTaken 0x06 true ({ aNvme 0 with dw10 := 1 }) (nvmeAt 1 1 [])).get (by decide +kernel)).2.1, nvmeAt 1 1 [], ((nvTaken 0x06 true ({ aNvme 0 with dw10 := 1 }) (nvmeAt 1 1 [])).get (by decide +kernel)).2.2, by decide +kernel⟩

theorem witness_NvmeQueuesAndControllers_10 : ∃ (c x : NvmeCmd) (k : NvCtrl) (s t : State), nvTaken 0x08 true c s = some (x, k, t) :=
  ⟨aNvme 0, ((nvTaken 0x08 true (aNvme 0) (nvmeAt 1 1 [])).get (by decide +kernel)).1, ((nvTaken 0x08 true (aNvme 0) (nvmeAt 1 1 [])).get (by decide +kernel)).2.1, nvmeAt 1 1 [], ((nvTaken 0x08 true (aNvme 0) (nvmeAt 1 1 [])).get (by decide +kernel)).2.2, by decide +kernel⟩

theorem witness_NvmeQueuesAndControllers_11 : ∃ (c x : NvmeCmd) (k : NvCtrl) (s t : State), nvTaken 0x09 true c s = some (x, k, t) ∧ bitAt x.dw10.toNat 31 = false ∧ bitsAt x.dw10.toNat 0 8 = 0x0F :=
  ⟨{ aNvme 0 with dw10 := 15, dw11 := 1500 }, ((nvTaken 0x09 true ({ aNvme 0 with dw10 := 15, dw11 := 1500 }) (nvmeAt 1 1 [])).get (by decide +kernel)).1, ((nvTaken 0x09 true ({ aNvme 0 with dw10 := 15, dw11 := 1500 }) (nvmeAt 1 1 [])).get (by decide +kernel)).2.1, nvmeAt 1 1 [], ((nvTaken 0x09 true ({ aNvme 0 with dw10 := 15, dw11 := 1500 }) (nvmeAt 1 1 [])).get (by decide +kernel)).2.2, by decide +kernel⟩

theorem witness_NvmeQueuesAndControllers_12 : ∃ (c x : NvmeCmd) (k : NvCtrl) (s t : State), nvTaken 0x09 true c s = some (x, k, t) ∧ bitAt x.dw10.toNat 31 = false ∧ bitsAt x.dw10.toNat 0 8 = 0x07 ∧ x.dw11.toNat % 65536 ≠ 65535 ∧ x.dw11.toNat / 65536 ≠ 65535 :=
  ⟨{ aNvme 0 with dw10 := 7, dw11 := 0x70007 }, ((nvTaken 0x09 true ({ aNvme 0 with dw10 := 7, dw11 := 0x70007 }) (nvmeAt 1 1 [])).get (by decide +kernel)).1, ((nvTaken 0x09 true ({ aNvme 0 with dw10 := 7, dw11 := 0x70007 }) (nvmeAt 1 1 [])).get (by decide +kernel)).2.1, nvmeAt 1 1 [], ((nvTaken 0x09 true ({ aNvme 0 with dw10 := 7, dw11 := 0x70007 }) (nvmeAt 1 1 [])).get (by decide +kernel)).2.2, by decide +kernel⟩

theorem witness_NvmeQueuesAndControllers_13 : ∃ (c x : NvmeCmd) (k : NvCtrl) (s t : State), nvTaken 0x0A true c s = some (x, k, t) ∧ bitsAt x.dw10.toNat 0 8 = 0x0F :=
  ⟨{ aNvme 0 with dw10 := 15 }, ((nvTaken 0x0A true ({ aNvme 0 with dw10 := 15 }) (nvmeAt 1 1 [])).get (by decide +kernel)).1, ((nvTaken 0x0A true ({ aNvme 0 with dw10 := 15 }) (nvmeAt 1 1 [])).get (by decide +kernel)).2.1, nvmeAt 1 1 [], ((nvTaken 0x0A true ({ aNvme 0 with dw10 := 15 }) (nvmeAt 1 1 [])).get (by decide +kernel)).2.2, by decide +kernel⟩

theorem witness_NvmeQueuesAndControllers_14 : ∃ (c x : NvmeCmd) (k : NvCtrl) (s t : State), nvTaken 0x0C true c s = some (x, k, t) ∧ k.events = [] ∧ k.aers.length < 8 :=
  ⟨aNvme 0, ((nvTaken 0x0C true (aNvme 0) (nvmeAt 1 1 [])).get (by decide +kernel)).1, ((nvTaken 0x0C true (aNvme 0) (nvmeAt 1 1 [])).get (by decide +kernel)).2.1, nvmeAt 1 1 [], ((nvTaken 0x0C true (aNvme 0) (nvmeAt 1 1 [])).get (by decide +kernel)).2.2, by decide +kernel⟩

theorem witness_NvmeQueuesAndControllers_15 : ∃ (c x : NvmeCmd) (k : NvCtrl) (s t : State), nvTaken 0x0C true c s = some (x, k, t) ∧ k.events = [] ∧ 8 ≤ k.aers.length :=
  ⟨aNvme 0, ((nvTaken 0x0C true (aNvme 0) ({ full with host := { full.host with ctrls := [{ aCtrl 1 with aers := [1, 2, 3, 4, 5, 6, 7, 8] }] } })).get (by decide +kernel)).1, ((nvTaken 0x0C true (aNvme 0) ({ full with host := { full.host with ctrls := [{ aCtrl 1 with aers := [1, 2, 3, 4, 5, 6, 7, 8] }] } })).get (by decide +kernel)).2.1, { full with host := { full.host with ctrls := [{ aCtrl 1 with aers := [1, 2, 3, 4, 5, 6, 7, 8] }] } }, ((nvTaken 0x0C true (aNvme 0) ({ full with host := { full.host with ctrls := [{ aCtrl 1 with aers := [1, 2, 3, 4, 5, 6, 7, 8] }] } })).get (by decide +kernel)).2.2, by decide +kernel⟩

theorem witness_NvmeQueuesAndControllers_16 : ∃ (sz kato id : Nat) (nqn hid : List Byte) (s : State), admits s = true ∧ domOn s 11 = true ∧ s.bring.active = false ∧ sz ≤ 4095 ∧ freeCntlid s = some id :=
  ⟨31, 1000, 0x1001, [], [], full, by decide +kernel⟩

theorem witness_NvmeQueuesAndControllers_17 : ∃ (id q sz kato : Nat) (k : NvCtrl) (hid : List Byte) (s : State), admits s = true ∧ domOn s 11 = true ∧ s.bring.active = false ∧ q ≠ 0 ∧ ctrlOf s id = some k ∧ k.kind = 1 ∧ k.cc % 2 = 1 ∧ qidOk k q = true ∧ sqOf k q = none ∧ 1 ≤ sz ∧ sz ≤ 1023 ∧ 0 < ioqFree s :=
  ⟨1, 2, 31, 0, aCtrl 1, [], nvmeAt 1 1 [], by decide +kernel⟩

theorem witness_NvmeQueuesAndControllers_18 : ∃ (id cid : Nat) (k : NvCtrl) (s : State), ctrlOf s id = some k ∧ k.kind ≠ 0 ∧ admits s = true ∧ s.bring.active = false :=
  ⟨1, 5, aCtrl 1, nvmeAt 1 1 [], by decide +kernel⟩

theorem witness_NvmeQueuesAndControllers_19 : ∃ (id : Nat) (k : NvCtrl) (s : State), ctrlOf s id = some k ∧ k.kind ≠ 0 ∧ (sqOf k 0).isSome = true :=
  ⟨1, aCtrl 1, nvmeAt 1 1 [], by decide +kernel⟩

theorem witness_NvmeQueuesAndControllers_20 : ∃ (c x : NvmeCmd) (op : BitVec 8) (s t : State), nvKnown (decide (c.sq = 0)) op.toNat = false ∧ (nvTakeIf (fun o => decide (o = op.toNat)) (decide (c.sq = 0)) c s = some (x, t)) :=
  ⟨aNvme 0, aNvme 0, 0x7E, nvmeAt 1 1 [], ((nvTakeIf (fun o => decide (o = 0x7E)) true (aNvme 0) (nvmeAt 1 1 [])).get (by decide +kernel)).2, by decide +kernel⟩

theorem witness_NvmeQueuesAndControllers_21 : ∃ (q tail : Nat) (k : NvCtrl) (y : NvSq) (cells : List Host.Cell) (s : State), hostReach s = true ∧ domOn s 10 = true ∧ ctrlOf (hostPlaces cells s) (pcieCtrl (hostPlaces cells s)) = some k ∧ sqOf k q = some y ∧ tail < y.size :=
  ⟨1, 3, { aCtrl 0 with cntlid := 4096 }, ⟨1, 1, 0, 16, 0, 0, [], none, false⟩, [], { hosted with host := { hosted.host with ctrls := [{ aCtrl 0 with cntlid := 4096 }] } }, by decide +kernel⟩

theorem witness_NvmeQueuesAndControllers_22 : ∃ (q hd : Nat) (k : NvCtrl) (y : NvCq) (s : State), hostReach s = true ∧ domOn s 10 = true ∧ ctrlOf s (pcieCtrl s) = some k ∧ cqOf k q = some y ∧ hd < y.size :=
  ⟨1, 3, { aCtrl 0 with cntlid := 4096 }, ⟨1, 0, 16, 0, 0, true, false, 0, 0⟩, { hosted with host := { hosted.host with ctrls := [{ aCtrl 0 with cntlid := 4096 }] } }, by decide +kernel⟩

theorem witness_NvmeQueuesAndControllers_23 : ∃ (q : Nat) (k : NvCtrl) (y : NvCq) (s : State), ctrlOf s (pcieCtrl s) = some k ∧ cqOf k q = some y :=
  ⟨1, { aCtrl 0 with cntlid := 4096, cqs := [⟨1, 0, 16, 0, 0, true, true, 3, 2⟩] }, ⟨1, 0, 16, 0, 0, true, true, 3, 2⟩, { hosted with host := { hosted.host with ctrls := [{ aCtrl 0 with cntlid := 4096, cqs := [⟨1, 0, 16, 0, 0, true, true, 3, 2⟩] }] } }, by decide +kernel⟩

theorem witness_NvmeBlockCommands_0 : ∃ (c x : NvmeCmd) (k : NvCtrl) (s t : State), nvTaken 0x00 false c s = some (x, k, t) :=
  ⟨aNvme 1, ((nvTaken 0x00 false (aNvme 1) (nvmeAt 1 1 [])).get (by decide +kernel)).1, ((nvTaken 0x00 false (aNvme 1) (nvmeAt 1 1 [])).get (by decide +kernel)).2.1, nvmeAt 1 1 [], ((nvTaken 0x00 false (aNvme 1) (nvmeAt 1 1 [])).get (by decide +kernel)).2.2, by decide +kernel⟩

theorem witness_NvmeBlockCommands_1 : ∃ (c x : NvmeCmd) (k : NvCtrl) (v : Volume) (s t : State), nvTaken 0x01 false c s = some (x, k, t) ∧ nsVol t k x.nsid.toNat = some v ∧ (lbaRange x v).2 ≤ 2097152 ∧ x.xferOk = true ∧ x.data.length = (lbaRange x v).2 :=
  ⟨{ aNvme 1 with nsid := 3, data := List.replicate 512 5 }, ((nvTaken 0x01 false ({ aNvme 1 with nsid := 3, data := List.replicate 512 5 }) ({ volHosted with volu := { volHosted.volu with vols := [{ attachedVol with fmt := 1 }] } })).get (by decide +kernel)).1, ((nvTaken 0x01 false ({ aNvme 1 with nsid := 3, data := List.replicate 512 5 }) ({ volHosted with volu := { volHosted.volu with vols := [{ attachedVol with fmt := 1 }] } })).get (by decide +kernel)).2.1, { attachedVol with fmt := 1 }, { volHosted with volu := { volHosted.volu with vols := [{ attachedVol with fmt := 1 }] } }, ((nvTaken 0x01 false ({ aNvme 1 with nsid := 3, data := List.replicate 512 5 }) ({ volHosted with volu := { volHosted.volu with vols := [{ attachedVol with fmt := 1 }] } })).get (by decide +kernel)).2.2, by decide +kernel⟩

theorem witness_NvmeBlockCommands_2 : ∃ (c x : NvmeCmd) (k : NvCtrl) (v : Volume) (s t : State), nvTaken 0x02 false c s = some (x, k, t) ∧ nsVol t k x.nsid.toNat = some v ∧ (lbaRange x v).2 ≤ 2097152 :=
  ⟨{ aNvme 1 with nsid := 3, dw12 := 511 }, ((nvTaken 0x02 false ({ aNvme 1 with nsid := 3, dw12 := 511 }) (volHosted)).get (by decide +kernel)).1, ((nvTaken 0x02 false ({ aNvme 1 with nsid := 3, dw12 := 511 }) (volHosted)).get (by decide +kernel)).2.1, attachedVol, volHosted, ((nvTaken 0x02 false ({ aNvme 1 with nsid := 3, dw12 := 511 }) (volHosted)).get (by decide +kernel)).2.2, by decide +kernel⟩

theorem witness_NvmeBlockCommands_3 : ∃ (c x : NvmeCmd) (k : NvCtrl) (v : Volume) (s t : State), nvTaken 0x08 false c s = some (x, k, t) ∧ nsVol t k x.nsid.toNat = some v :=
  ⟨{ aNvme 1 with nsid := 3 }, ((nvTaken 0x08 false ({ aNvme 1 with nsid := 3 }) (volHosted)).get (by decide +kernel)).1, ((nvTaken 0x08 false ({ aNvme 1 with nsid := 3 }) (volHosted)).get (by decide +kernel)).2.1, attachedVol, volHosted, ((nvTaken 0x08 false ({ aNvme 1 with nsid := 3 }) (volHosted)).get (by decide +kernel)).2.2, by decide +kernel⟩

theorem witness_NvmeBlockCommands_4 : ∃ (c x : NvmeCmd) (k : NvCtrl) (v : Volume) (s t : State), nvTaken 0x0C false c s = some (x, k, t) ∧ nsVol t k x.nsid.toNat = some v :=
  ⟨{ aNvme 1 with nsid := 3 }, ((nvTaken 0x0C false ({ aNvme 1 with nsid := 3 }) (volHosted)).get (by decide +kernel)).1, ((nvTaken 0x0C false ({ aNvme 1 with nsid := 3 }) (volHosted)).get (by decide +kernel)).2.1, attachedVol, volHosted, ((nvTaken 0x0C false ({ aNvme 1 with nsid := 3 }) (volHosted)).get (by decide +kernel)).2.2, by decide +kernel⟩

theorem witness_NvmeBlockCommands_5 : ∃ (c x : NvmeCmd) (k : NvCtrl) (v : Volume) (s t : State), nvTaken 0x09 false c s = some (x, k, t) ∧ nsVol t k x.nsid.toNat = some v ∧ bitAt x.dw11.toNat 2 = true ∧ x.xferOk = true :=
  ⟨{ aNvme 1 with nsid := 3, dw11 := 4, data := leBytes 4 0 ++ leBytes 4 2 ++ leBytes 8 4 }, ((nvTaken 0x09 false ({ aNvme 1 with nsid := 3, dw11 := 4, data := leBytes 4 0 ++ leBytes 4 2 ++ leBytes 8 4 }) (volHosted)).get (by decide +kernel)).1, ((nvTaken 0x09 false ({ aNvme 1 with nsid := 3, dw11 := 4, data := leBytes 4 0 ++ leBytes 4 2 ++ leBytes 8 4 }) (volHosted)).get (by decide +kernel)).2.1, attachedVol, volHosted, ((nvTaken 0x09 false ({ aNvme 1 with nsid := 3, dw11 := 4, data := leBytes 4 0 ++ leBytes 4 2 ++ leBytes 8 4 }) (volHosted)).get (by decide +kernel)).2.2, by decide +kernel⟩

theorem witness_NvmeBlockCommands_6 : ∃ (c x : NvmeCmd) (k : NvCtrl) (s t : State), nvTaken 0x09 false c s = some (x, k, t) ∧ bitAt x.dw11.toNat 2 = false :=
  ⟨aNvme 1, ((nvTaken 0x09 false (aNvme 1) (nvmeAt 1 1 [])).get (by decide +kernel)).1, ((nvTaken 0x09 false (aNvme 1) (nvmeAt 1 1 [])).get (by decide +kernel)).2.1, nvmeAt 1 1 [], ((nvTaken 0x09 false (aNvme 1) (nvmeAt 1 1 [])).get (by decide +kernel)).2.2, by decide +kernel⟩

theorem witness_NvmeBlockCommands_7 : ∃ (c x : NvmeCmd) (k : NvCtrl) (s t : State), nvTaken 0x02 false c s = some (x, k, t) ∧ nsVol t k x.nsid.toNat = none :=
  ⟨{ aNvme 1 with nsid := 3 }, ((nvTaken 0x02 false ({ aNvme 1 with nsid := 3 }) (nvmeAt 1 1 [])).get (by decide +kernel)).1, ((nvTaken 0x02 false ({ aNvme 1 with nsid := 3 }) (nvmeAt 1 1 [])).get (by decide +kernel)).2.1, nvmeAt 1 1 [], ((nvTaken 0x02 false ({ aNvme 1 with nsid := 3 }) (nvmeAt 1 1 [])).get (by decide +kernel)).2.2, by decide +kernel⟩

theorem witness_NvmeBlockCommands_8 : ∃ (c x : NvmeCmd) (k : NvCtrl) (v : Volume) (s t : State), nvTaken 0x11 false c s = some (x, k, t) ∧ nsVol t k x.nsid.toNat = some v ∧ k.hostId.length = 16 ∧ (k.hostId.all (fun b => b = 0) = false) ∧ x.xferOk = true :=
  ⟨{ aNvme 1 with nsid := 3, dw10 := 1, data := leBytes 8 5 ++ leBytes 8 6 }, ((nvTaken 0x11 false ({ aNvme 1 with nsid := 3, dw10 := 1, data := leBytes 8 5 ++ leBytes 8 6 }) (volHosted)).get (by decide +kernel)).1, ((nvTaken 0x11 false ({ aNvme 1 with nsid := 3, dw10 := 1, data := leBytes 8 5 ++ leBytes 8 6 }) (volHosted)).get (by decide +kernel)).2.1, attachedVol, volHosted, ((nvTaken 0x11 false ({ aNvme 1 with nsid := 3, dw10 := 1, data := leBytes 8 5 ++ leBytes 8 6 }) (volHosted)).get (by decide +kernel)).2.2, by decide +kernel⟩

theorem witness_NvmeBlockCommands_9 : ∃ (c x : NvmeCmd) (k : NvCtrl) (v : Volume) (s t : State), nvTaken 0x15 false c s = some (x, k, t) ∧ nsVol t k x.nsid.toNat = some v ∧ k.hostId.length = 16 ∧ (k.hostId.all (fun b => b = 0) = false) ∧ x.xferOk = true :=
  ⟨{ aNvme 1 with nsid := 3, dw10 := 1, data := leBytes 8 5 ++ leBytes 8 6 }, ((nvTaken 0x15 false ({ aNvme 1 with nsid := 3, dw10 := 1, data := leBytes 8 5 ++ leBytes 8 6 }) (volHosted)).get (by decide +kernel)).1, ((nvTaken 0x15 false ({ aNvme 1 with nsid := 3, dw10 := 1, data := leBytes 8 5 ++ leBytes 8 6 }) (volHosted)).get (by decide +kernel)).2.1, attachedVol, volHosted, ((nvTaken 0x15 false ({ aNvme 1 with nsid := 3, dw10 := 1, data := leBytes 8 5 ++ leBytes 8 6 }) (volHosted)).get (by decide +kernel)).2.2, by decide +kernel⟩

theorem witness_NvmeBlockCommands_10 : ∃ (c x : NvmeCmd) (k : NvCtrl) (v : Volume) (s t : State), nvTaken 0x0D false c s = some (x, k, t) ∧ nsVol t k x.nsid.toNat = some v ∧ k.hostId.length = 16 ∧ (k.hostId.all (fun b => b = 0) = false) ∧ x.xferOk = true :=
  ⟨{ aNvme 1 with nsid := 3, dw10 := 1, data := leBytes 8 5 ++ leBytes 8 6 }, ((nvTaken 0x0D false ({ aNvme 1 with nsid := 3, dw10 := 1, data := leBytes 8 5 ++ leBytes 8 6 }) (volHosted)).get (by decide +kernel)).1, ((nvTaken 0x0D false ({ aNvme 1 with nsid := 3, dw10 := 1, data := leBytes 8 5 ++ leBytes 8 6 }) (volHosted)).get (by decide +kernel)).2.1, attachedVol, volHosted, ((nvTaken 0x0D false ({ aNvme 1 with nsid := 3, dw10 := 1, data := leBytes 8 5 ++ leBytes 8 6 }) (volHosted)).get (by decide +kernel)).2.2, by decide +kernel⟩

theorem witness_NvmeBlockCommands_11 : ∃ (c x : NvmeCmd) (k : NvCtrl) (s t : State), nvTaken 0x11 false c s = some (x, k, t) ∧ k.hostId = [] :=
  ⟨aNvme 1, ((nvTaken 0x11 false (aNvme 1) (nvmeAt 1 1 [])).get (by decide +kernel)).1, ((nvTaken 0x11 false (aNvme 1) (nvmeAt 1 1 [])).get (by decide +kernel)).2.1, nvmeAt 1 1 [], ((nvTaken 0x11 false (aNvme 1) (nvmeAt 1 1 [])).get (by decide +kernel)).2.2, by decide +kernel⟩

theorem witness_NvmeBlockCommands_12 : ∃ (c x : NvmeCmd) (k : NvCtrl) (v : Volume) (s t : State), nvTaken 0x0E false c s = some (x, k, t) ∧ nsVol t k x.nsid.toNat = some v ∧ k.hostId.length = 16 ∧ x.dw11.toNat % 2 = 1 ∧ anaState t v.group ≠ 3 :=
  ⟨{ aNvme 1 with nsid := 3, dw10 := 5, dw11 := 1 }, ((nvTaken 0x0E false ({ aNvme 1 with nsid := 3, dw10 := 5, dw11 := 1 }) volHosted).get (by decide +kernel)).1, ((nvTaken 0x0E false ({ aNvme 1 with nsid := 3, dw10 := 5, dw11 := 1 }) volHosted).get (by decide +kernel)).2.1, attachedVol, volHosted, ((nvTaken 0x0E false ({ aNvme 1 with nsid := 3, dw10 := 5, dw11 := 1 }) volHosted).get (by decide +kernel)).2.2, by decide +kernel⟩

end Sys2Proof.Machine
end

section
/-! PROOFS. Accesses of a mailbox that its state does not allow (R158): an access that the checks of R499 let pass is acted on in the
state it found, so each of the three clauses comes down to one branch of the mailbox protocol. -/

namespace Sys2Proof.Machine

/-! ### Accesses that the checks let pass -/

/-- Only a failed check logs: a permitted access finds the state as it was (R499). -/
theorem busCheck_eq_of_go {p : Path} {wf : Bool} {a : Nat} {isWr : Bool} {w : Word} {s : State}
    (h : (busCheck p wf a isWr w s).1 = .go) : busCheck p wf a isWr w s = (.go, s) := by
  revert h
  unfold busCheck
  repeat' split
  -- Every branch either fails, with another outcome than `.go`, or answers `.go` with `s` itself.
  all_goals simp

/-- A permitted write whose action is always accepted runs it and answers status 0. -/
theorem busAct_acc_of_writeGoes {p : Path} {a : Nat} {w : Word} {f : State → State} {s : State} (h : writeGoes p a w s) :
    busAct p a w (acc f) s = busAnswer p a 0 0 (f s) := by
  unfold busAct
  rw [busCheck_eq_of_go h]
  rfl

/-- A permitted read answers status 0 and the word read. -/
theorem busRead_of_readGoes {p : Path} {a : Nat} {s : State} (h : readGoes p a s) :
    busRead p a s = busAnswer p a 0 (plainRead p a s).2.toNat (plainRead p a s).1 := by
  have hr : regRead p a s = ((plainRead p a s).1, some (0, (plainRead p a s).2)) := by
    unfold regRead
    rw [if_neg Bool.false_ne_true, busCheck_eq_of_go h]
  unfold busRead
  rw [hr]
  cases p <;> rfl

/-- A read of one DWORD with all its byte enables is one access of the bus. -/
theorem execRegisterRead_one {p : Path} {a : BitVec 32} {s : State} :
    execRegisterRead p true a false s = .next (busRead p a.toNat s) := rfl

/-! ### The mailbox protocol in the wrong state -/

theorem doorbell_of_not_idle {m : Nat} {s : State} (h : mbxState s m ≠ 0) : doorbell m s = setF (F.MBX_DB_IGNORED m) 1 s :=
  if_neg h

theorem release_of_not_done {m : Nat} {s : State} (h : mbxState s m ≠ 3) : release m s = s := if_neg h

/-! ### The mailbox pages -/

theorem winOf_page {m off : Nat} (hm : m < 16) (ho : off < 0x800) : winOf (0x10000 + m * 0x800 + off) = some (.page m off) := by
  have hin : 0x10000 ≤ 0x10000 + m * 0x800 + off ∧ 0x10000 + m * 0x800 + off < 0x18000 := by omega
  have hpage : (0x10000 + m * 0x800 + off - 0x10000) / 0x800 = m := by omega
  have hoff : (0x10000 + m * 0x800 + off - 0x10000) % 0x800 = off := by omega
  unfold winOf
  rw [if_pos hin, hpage, hoff]

theorem blockOf_page {m off : Nat} (hm : m < 16) (ho : off < 0x800) : blockOf (0x10000 + m * 0x800 + off) = some 1 := by
  unfold blockOf
  rw [if_neg (by omega), if_pos (by omega)]

/-- The completion area is the upper half of a page, and its bytes are undefined until DONE. -/
theorem undefinedPage_completion {m off : Nat} {s : State} (hm : m < 16) (hlo : 0x400 ≤ off) (ho : off < 0x800)
    (hs : mbxState s m ≠ 3) : undefinedPage s (0x10000 + m * 0x800 + off) = true := by
  unfold undefinedPage
  rw [winOf_page hm ho]
  simp [hlo, hs]

/-- A read of undefined bytes outside the sequencers' trace takes the next free value. -/
theorem plainRead_of_undefined {p : Path} {a : Nat} {s : State} (hb : blockOf a ≠ some 6) (hu : undefinedPage s a = true) :
    plainRead p a s = ((takeFree s).2, (takeFree s).1.setWidth 32) := by
  unfold plainRead
  rw [if_neg (fun h => hb h.1), if_pos hu]

/-- A permitted read of a completion area before DONE answers the next free value. -/
theorem busRead_completion_before_done {p : Path} {m off : Nat} {s : State} (hm : m < 16) (hlo : 0x400 ≤ off) (ho : off < 0x800)
    (hs : mbxState s m ≠ 3) (h : readGoes p (0x10000 + m * 0x800 + off) s) :
    busRead p (0x10000 + m * 0x800 + off) s =
      busAnswer p (0x10000 + m * 0x800 + off) 0 ((takeFree s).1.setWidth 32).toNat (takeFree s).2 := by
  have hb : blockOf (0x10000 + m * 0x800 + off) ≠ some 6 := by
    rw [blockOf_page hm ho]
    decide
  rw [busRead_of_readGoes h, plainRead_of_undefined hb (undefinedPage_completion hm hlo ho hs)]

/-- Settles O13: a permitted access is acted on in the state it found, and there the mailbox's state selects the branch of R158. -/
theorem mailboxWritesInTheWrongState : Obligations.MailboxWritesInTheWrongState := by
  unfold Obligations.MailboxWritesInTheWrongState
  refine ⟨fun p m s hgo hidle => ?doorbell, fun p m s hgo hdone => ?release, fun p m off s hlo hhi _ hgo hdone => ?read⟩
  case doorbell =>
    show execMbxDoorbell p m s = _
    rw [execMbxDoorbell, busAct_acc_of_writeGoes hgo, doorbell_of_not_idle hidle]
  case release =>
    show execMbxRelease p m s = _
    rw [execMbxRelease, busAct_acc_of_writeGoes hgo, release_of_not_done hdone]
  case read =>
    have ha : (BitVec.ofNat 32 (0x10000 + m.val * 0x800 + off)).toNat = 0x10000 + m.val * 0x800 + off := by
      rw [BitVec.toNat_ofNat]
      omega
    show execRegisterRead p true _ false s = _
    rw [execRegisterRead_one, ha, busRead_completion_before_done m.isLt hlo hhi hdone hgo]
    rfl

end Sys2Proof.Machine
end

section
/-! PROOFS. The latch of a block's fault group (R474): a fault is recorded, counted and signalled, in this order, and only the
record writes the latch's own registers. -/

namespace Sys2Proof.Machine

/-! ### Registers that a message or a counter leaves alone -/

/-- The words rest on the register file alone. -/
theorem rdN_of_regs {a : Nat} {s t : State} (h : s.regs = t.regs) : rdN t a = rdN s a := by
  unfold rdN rd
  rw [h]

theorem msix_regs {vec : Nat} {s : State} : s.regs = (msix vec s).regs := msix_keeps.same .regs rfl

/-- A field rests on the word of its register. -/
theorem getF_of_rdN {f : Fld} {s t : State} (h : rdN t f.addr = rdN s f.addr) : getF t f = getF s f := by
  unfold getF
  rw [h]

/-- The count rests on the two words of its pair. -/
theorem cntVal_of_rdN {a : Nat} {s t : State} (hlo : rdN t a = rdN s a) (hhi : rdN t (a + 4) = rdN s (a + 4)) :
    cntVal t a = cntVal s a := by
  unfold cntVal
  rw [hlo, hhi]

/-- A counter's rise writes its own pair only. -/
theorem rdN_cntAdd_ne {a b n : Nat} {s : State} (hlo : b ≠ a) (hhi : b ≠ a + 4) : rdN (cntAdd a n s) b = rdN s b := by
  unfold cntAdd cntPut
  rw [rdN_wr_ne hhi.symm, rdN_wr_ne hlo.symm]

/-- A counter pair reads the 48-bit count written to it. -/
theorem cntVal_cntPut {a v : Nat} {sat : Bool} {s : State} (h : RegsWf s) (hv : v < 2 ^ 48) : cntVal (cntPut a v sat s) a = v := by
  have hsat : b2n sat ≤ 1 := by cases sat <;> decide
  have hlo : rdN (cntPut a v sat s) a = v % 2 ^ 32 := by
    unfold cntPut
    rw [rdN_wr_ne (by omega), rdN_wr_same h, BitVec.toNat_ofNat, Nat.mod_mod]
  have hhi : rdN (cntPut a v sat s) (a + 4) = v / 2 ^ 32 + b2n sat * 2 ^ 31 := by
    unfold cntPut
    rw [rdN_wr_same (regsWf_wr h), BitVec.toNat_ofNat]
    omega
  unfold cntVal bitsAt
  rw [hlo, hhi]
  omega

/-- A counter rises by `n` and stops at 2^48 − 1 (R492). -/
theorem cntVal_cntAdd {a n : Nat} {s : State} (h : RegsWf s) : cntVal (cntAdd a n s) a = min (2 ^ 48 - 1) (cntVal s a + n) :=
  cntVal_cntPut h (by omega)

/-! ### Fields set one after another -/

/-- Set each field of a list to its value, the first one first. -/
def setFields : List (Fld × Nat) → State → State
  | [], s => s
  | e :: r, s => setFields r (setF e.1 e.2 s)

theorem regsWf_setFields {l : List (Fld × Nat)} {s : State} (h : RegsWf s) : RegsWf (setFields l s) := by
  induction l generalizing s with
  | nil => exact h
  | cons e r ih => exact ih (regsWf_setF h)

theorem rdN_setFields_ne {l : List (Fld × Nat)} {a : Nat} {s : State} (hne : ∀ e ∈ l, e.1.addr ≠ a) :
    rdN (setFields l s) a = rdN s a := by
  induction l generalizing s with
  | nil => rfl
  | cons e r ih =>
    rw [List.forall_mem_cons] at hne
    exact (ih hne.2).trans (rdN_wr_ne hne.1)

/-- A field that shares no bit with those set keeps its value. -/
theorem getF_setFields_apart {l : List (Fld × Nat)} {f : Fld} {s : State} (h : RegsWf s) (hok : ∀ e ∈ l, e.1.ok = true)
    (hap : ∀ e ∈ l, e.1.apart f = true) : getF (setFields l s) f = getF s f := by
  induction l generalizing s with
  | nil => rfl
  | cons e r ih =>
    rw [List.forall_mem_cons] at hok hap
    exact (ih (regsWf_setF h) hok.2 hap.2).trans (getF_setF_apart h hok.1 hap.1)

/-- Of fields that share no bit, each reads the value it was set to. -/
theorem getF_setFields {l : List (Fld × Nat)} {f : Fld} {v : Nat} {s : State} (h : RegsWf s) (hok : ∀ e ∈ l, e.1.ok = true)
    (hap : l.Pairwise (fun e g => g.1.apart e.1 = true)) (he : (f, v) ∈ l) : getF (setFields l s) f = v % 2 ^ f.width := by
  induction l generalizing s with
  | nil => exact absurd he List.not_mem_nil
  | cons d r ih =>
    rw [List.forall_mem_cons] at hok
    rw [List.pairwise_cons] at hap
    rcases List.mem_cons.mp he with rfl | he
    · exact (getF_setFields_apart (regsWf_setF h) hok.2 hap.1).trans (getF_setF_same h hok.1)
    · exact ih (regsWf_setF h) hok.2 hap.2 he

/-! ### The parts of `latchFault` -/

/-- What the latch records: with FF_VALID clear the whole fault, with FF_VALID set one more in FF_OVF. -/
def latchRecord (b code cls inst aux : Nat) (livef : Bool) (s : State) : State :=
  if isSet s (FF_VALID b) then satF (FF_OVF b) 1 s
  else s |> setF (FF_VALID b) 1 |> setB (FF_LIVE b) livef |> setF (FF_CLASS b) cls |> setF (FF_OVF b) 0
    |> setF (FF_CODE b) code |> setF (FF_TIME_LO b) (s.now.toNat % 2 ^ 32) |> setF (FF_TIME_HI b) (s.now.toNat / 2 ^ 32)
    |> setF (FF_INST b) inst |> setF (FF_AUX b) aux

/-- The class's FF_PEND bit goes to 1, and an edge of it signals the destinations enabled for the class (R477, R479). -/
def pendSignal (b cls : Nat) (s : State) : State :=
  if isSet s (FF_PEND b (cls - 1)) then s
  else
    let s3 := setF (FF_PEND b (cls - 1)) 1 s
    let s4 := if isSet s3 (FF_EN_CORE b (cls - 1)) then send (.coreIrq b) s3 else s3
    if isSet s4 (FF_EN_MSIX b (cls - 1)) then msix (getF s4 (FF_VEC b)) s4 else s4

theorem latchFault_eq {b code cls inst aux : Nat} {livef : Bool} {s : State} :
    latchFault b code cls inst aux livef s = pendSignal b cls (cntAdd (FF_CNT b) 1 (latchRecord b code cls inst aux livef s)) := rfl

/-- The signals write no register but that of the FF_PEND bits. -/
theorem rdN_pendSignal {b cls a : Nat} {s : State} (h : a ≠ groupBase b + 16) : rdN (pendSignal b cls s) a = rdN s a := by
  have hpend : rdN (setF (FF_PEND b (cls - 1)) 1 s) a = rdN s a := rdN_wr_ne h.symm
  unfold pendSignal
  split
  · rfl
  · extract_lets s3 s4
    have hcore : rdN s4 a = rdN s a := by
      unfold s4
      split <;> exact hpend
    split
    · exact (rdN_of_regs msix_regs).trans hcore
    · exact hcore

/-- The count and the signals leave the latch's four registers as the record wrote them. -/
theorem getF_latchFault {b code cls inst aux : Nat} {livef : Bool} {f : Fld} {s : State} (hf : f.addr < groupBase b + 16) :
    getF (latchFault b code cls inst aux livef s) f = getF (latchRecord b code cls inst aux livef s) f := by
  rw [latchFault_eq]
  exact getF_of_rdN ((rdN_pendSignal (by omega)).trans (rdN_cntAdd_ne (by unfold FF_CNT; omega) (by unfold FF_CNT; omega)))

/-! ### The fields of the latch -/

theorem ffF_ok {b off lo w : Nat} : (ffF b off lo w).ok = decide (lo + w ≤ 32) := rfl

theorem ffF_apart {b off lo w off' lo' w' : Nat} :
    (ffF b off lo w).apart (ffF b off' lo' w') = decide (off ≠ off' ∨ lo + w ≤ lo' ∨ lo' + w' ≤ lo) := by
  simp [ffF, Fld.apart]

/-- The fields that a clear latch takes from a fault, with their values, in the order in which they are set. -/
def latchFields (b code cls inst aux : Nat) (livef : Bool) (now : Nat) : List (Fld × Nat) :=
  [(FF_VALID b, 1), (FF_LIVE b, b2n livef), (FF_CLASS b, cls), (FF_OVF b, 0), (FF_CODE b, code), (FF_TIME_LO b, now % 2 ^ 32),
    (FF_TIME_HI b, now / 2 ^ 32), (FF_INST b, inst), (FF_AUX b, aux)]

theorem latchFields_ok {b code cls inst aux now : Nat} {livef : Bool} :
    ∀ e ∈ latchFields b code cls inst aux livef now, e.1.ok = true := by
  simp [latchFields, ffF_ok]

theorem latchFields_apart {b code cls inst aux now : Nat} {livef : Bool} :
    (latchFields b code cls inst aux livef now).Pairwise (fun e g => g.1.apart e.1 = true) := by
  simp [latchFields, ffF_apart]

/-- The latch is the first four registers of its group. -/
theorem latchFields_addr {b code cls inst aux now : Nat} {livef : Bool} :
    ∀ e ∈ latchFields b code cls inst aux livef now, e.1.addr < groupBase b + 16 := by
  simp [latchFields, ffF]

/-! ### What the latch records -/

theorem latchRecord_of_clear {b code cls inst aux : Nat} {livef : Bool} {s : State} (hclear : isSet s (FF_VALID b) = false) :
    latchRecord b code cls inst aux livef s = setFields (latchFields b code cls inst aux livef s.now.toNat) s := by
  unfold latchRecord
  rw [hclear]
  rfl

theorem latchRecord_of_set {b code cls inst aux : Nat} {livef : Bool} {s : State} (hset : isSet s (FF_VALID b) = true) :
    latchRecord b code cls inst aux livef s = satF (FF_OVF b) 1 s := if_pos hset

theorem regsWf_latchRecord {b code cls inst aux : Nat} {livef : Bool} {s : State} (h : RegsWf s) :
    RegsWf (latchRecord b code cls inst aux livef s) := by
  cases hv : isSet s (FF_VALID b) with
  | false => rw [latchRecord_of_clear hv]; exact regsWf_setFields h
  | true => rw [latchRecord_of_set hv]; exact regsWf_setF h

/-- The record writes no register behind the latch. -/
theorem rdN_latchRecord {b code cls inst aux a : Nat} {livef : Bool} {s : State} (ha : groupBase b + 16 ≤ a) :
    rdN (latchRecord b code cls inst aux livef s) a = rdN s a := by
  cases hv : isSet s (FF_VALID b) with
  | false =>
    rw [latchRecord_of_clear hv]
    exact rdN_setFields_ne (fun e he => by have := latchFields_addr e he; omega)
  | true =>
    rw [latchRecord_of_set hv]
    exact rdN_wr_ne (by simp only [ffF]; omega)

/-! ### A fault and the latch (R474) -/

/-- A clear latch takes each of its fields from the fault. -/
theorem getF_latchFault_of_clear {b code cls inst aux v : Nat} {livef : Bool} {f : Fld} {s : State} (hwf : RegsWf s)
    (hclear : isSet s (FF_VALID b) = false) (he : (f, v) ∈ latchFields b code cls inst aux livef s.now.toNat) :
    getF (latchFault b code cls inst aux livef s) f = v % 2 ^ f.width := by
  rw [getF_latchFault (latchFields_addr _ he), latchRecord_of_clear hclear]
  exact getF_setFields hwf latchFields_ok latchFields_apart he

/-- A latch that is set keeps each of its fields but FF_OVF. -/
theorem getF_latchFault_of_set {b code cls inst aux : Nat} {livef : Bool} {f : Fld} {s : State} (hwf : RegsWf s)
    (hset : isSet s (FF_VALID b) = true) (hf : f.addr < groupBase b + 16) (hap : (FF_OVF b).apart f = true) :
    getF (latchFault b code cls inst aux livef s) f = getF s f := by
  rw [getF_latchFault hf, latchRecord_of_set hset]
  exact getF_setF_apart hwf rfl hap

/-- A latch that is set counts the fault in FF_OVF, up to 255. -/
theorem ovf_latchFault_of_set {b code cls inst aux : Nat} {livef : Bool} {s : State} (hwf : RegsWf s)
    (hset : isSet s (FF_VALID b) = true) :
    getF (latchFault b code cls inst aux livef s) (FF_OVF b) = min 255 (getF s (FF_OVF b) + 1) := by
  rw [getF_latchFault (by simp [ffF]), latchRecord_of_set hset]
  refine (getF_setF_same hwf rfl).trans (Nat.mod_eq_of_lt ?_)
  show min 255 (getF s (FF_OVF b) + 1) < 256
  omega

/-- Every fault counts in FF_CNT (R474, R492). -/
theorem cntVal_latchFault {b code cls inst aux : Nat} {livef : Bool} {s : State} (hwf : RegsWf s) :
    cntVal (latchFault b code cls inst aux livef s) (FF_CNT b) = min (2 ^ 48 - 1) (cntVal s (FF_CNT b) + 1) := by
  have hsignal : cntVal (latchFault b code cls inst aux livef s) (FF_CNT b) =
      cntVal (cntAdd (FF_CNT b) 1 (latchRecord b code cls inst aux livef s)) (FF_CNT b) := by
    rw [latchFault_eq]
    exact cntVal_of_rdN (rdN_pendSignal (by unfold FF_CNT; omega)) (rdN_pendSignal (by unfold FF_CNT; omega))
  have hrecord : cntVal (latchRecord b code cls inst aux livef s) (FF_CNT b) = cntVal s (FF_CNT b) :=
    cntVal_of_rdN (rdN_latchRecord (by unfold FF_CNT; omega)) (rdN_latchRecord (by unfold FF_CNT; omega))
  rw [hsignal, cntVal_cntAdd (regsWf_latchRecord hwf), hrecord]

/-! ### When a block raises a fault -/

/-- A block whose domain is off raises no fault (R474). -/
theorem raise_of_off {b code cls inst aux : Nat} {s : State} (hoff : blockOn s b = false) : raise b code cls inst aux s = s := by
  unfold raise raiseLive
  rw [hoff]
  rfl

/-- A fault that is neither contained nor fatal, and does not fill FF_CNT, is latched and logged, and nothing more. -/
theorem raise_of_corrected {b code cls inst aux : Nat} {s : State} (hon : blockOn s b = true)
    (hcnt : cntReaches s (FF_CNT b) 1 = false) (hcls : cls < 2) :
    raise b code cls inst aux s = logEvent b code cls inst aux (latchFault b code cls inst aux false s) := by
  have hcore : raiseCore b code cls inst aux false s = logEvent b code cls inst aux (latchFault b code cls inst aux false s) := by
    unfold raiseCore
    rw [hon, hcnt]
    rfl
  unfold raise raiseLive
  rw [hon, hcore, if_neg (by omega : ¬ cls = 3), if_neg (by omega : ¬ cls = 2)]
  rfl

/-- Settles O11: a clear latch takes every field from the fault, a set one keeps all but FF_OVF; both count in FF_CNT. -/
theorem faultLatchTakesTheFirstFault : Obligations.FaultLatchTakesTheFirstFault := by
  unfold Obligations.FaultLatchTakesTheFirstFault
  refine ⟨fun b code cls inst aux lv s hwf hclear hcode _ hcls hinst => ?first,
    fun b code cls inst aux lv s hwf hset _ _ => ?later, fun b code cls inst aux s => ⟨raise_of_off, raise_of_corrected⟩⟩
  case first =>
    have hfield : ∀ f v, (f, v) ∈ latchFields b code cls inst aux lv s.now.toNat → v < 2 ^ f.width →
        getF (latchFault b code cls inst aux lv s) f = v :=
      fun f v he hv => (getF_latchFault_of_clear hwf hclear he).trans (Nat.mod_eq_of_lt hv)
    have hnow : s.now.toNat < 2 ^ 64 := s.now.isLt
    have hlo := hfield (FF_TIME_LO b) (s.now.toNat % 2 ^ 32) (by simp [latchFields]) (Nat.mod_lt _ (Nat.two_pow_pos 32))
    have hhi := hfield (FF_TIME_HI b) (s.now.toNat / 2 ^ 32) (by simp [latchFields]) (show s.now.toNat / 2 ^ 32 < 2 ^ 32 by omega)
    refine ⟨_, rfl, ?_, ?_, ?_, ?_, ?_, ?_⟩
    · exact decide_eq_true (hfield (FF_VALID b) 1 (by simp [latchFields]) (by decide : 1 < 2 ^ 1))
    · exact hfield (FF_CODE b) code (by simp [latchFields]) hcode
    · exact hfield (FF_CLASS b) cls (by simp [latchFields]) (Nat.lt_succ_of_le hcls)
    · exact hfield (FF_INST b) inst (by simp [latchFields]) hinst
    · rw [hlo, hhi]
      omega
    · exact hfield (FF_OVF b) 0 (by simp [latchFields]) (Nat.two_pow_pos 8)
  case later =>
    have hkeep : ∀ off lo w, off < 16 → (FF_OVF b).apart (ffF b off lo w) = true →
        getF (latchFault b code cls inst aux lv s) (ffF b off lo w) = getF s (ffF b off lo w) :=
      fun off lo w hoff hap => getF_latchFault_of_set hwf hset (Nat.add_lt_add_left hoff _) hap
    refine ⟨_, rfl, ?_, ?_, ?_, ?_, ?_, ?_, ovf_latchFault_of_set hwf hset, cntVal_latchFault hwf⟩
    · exact decide_eq_true ((hkeep 0 31 1 (by decide) (by simp [ffF_apart])).trans (of_decide_eq_true hset))
    all_goals exact hkeep _ _ _ (by decide) (by simp [ffF_apart])

end Sys2Proof.Machine
end

section
/-! PROOFS. Writes to a register with committed fields (R501): a write that the checks of R499 let pass has two outcomes, the
refusal, which writes the block's violation pair alone, and the action of a write without a commit. -/

namespace Sys2Proof.Machine

/-! ### What the refusal asks -/

theorem rwlChanges_iff {r : RegRow} {w old : Nat} :
    rwlChanges r w old = true ↔ ∃ f ∈ r.fields, f.acc = .rwl ∧ bitsAt w f.lo f.width ≠ bitsAt old f.lo f.width := by
  simp [rwlChanges]

theorem rwlRefused_iff {a : Nat} {w : Word} {s : State} :
    rwlRefused a w s = true ↔ lockedAt a s = true ∧ ∃ r o, rowAt a = some (r, o) ∧ rwlChanges r w.toNat (rdN s a) = true := by
  simp [rwlRefused, Option.any_eq_true]

/-! ### The violation pair (R178) -/

/-- A violation writes no register but its block's pair, whether it is the first one or is counted as a later one. -/
theorem rd_logViolation_ne {b addr kind src x : Nat} {isWr : Bool} {s : State} (hlo : x ≠ violBase b)
    (hhi : x ≠ violBase b + 4) : rd (logViolation b addr kind src isWr s) x = rd s x := by
  unfold logViolation
  extract_lets l
  split
  case isTrue => exact rd_setF_ne hhi.symm
  case isFalse => exact (rd_wr_ne hhi.symm).trans (rd_wr_ne hlo.symm)

/-! ### The two outcomes of a permitted write -/

theorem regWrite_of_refused {p : Path} {env : RegEnv} {a : Nat} {w : Word} {s : State} (hgo : writeGoes p a w s)
    (h : rwlRefused a w s = true) :
    regWrite p env a w s = (logViolation ((blockOf a).getD 0) a 3 (srcOf p) true s, some 0x0015) := by
  unfold regWrite
  rw [if_neg Bool.false_ne_true, busCheck_eq_of_go hgo]
  exact if_pos h

theorem regWrite_of_not_refused {p : Path} {env : RegEnv} {a : Nat} {w : Word} {s : State} (hgo : writeGoes p a w s)
    (h : rwlRefused a w s = false) : regWrite p env a w s = ((regAct p env a w s).1, some (regAct p env a w s).2) := by
  unfold regWrite
  rw [if_neg Bool.false_ne_true, busCheck_eq_of_go hgo]
  exact if_neg (ne_true_of_eq_false h)

/-- Settles O12: a permitted write either is refused, and then only logs, or acts as a write without a commit does. -/
theorem committedFieldsRefuseAChange : Obligations.CommittedFieldsRefuseAChange := by
  unfold Obligations.CommittedFieldsRefuseAChange
  refine fun p env a w s hgo => ⟨?refusal, fun href => ?refused, regWrite_of_not_refused hgo⟩
  case refusal =>
    simp only [rwlRefused_iff, rwlChanges_iff]
  case refused =>
    rw [regWrite_of_refused hgo href]
    exact ⟨rfl, fun x => rd_logViolation_ne⟩

end Sys2Proof.Machine
end

section
/-! PROOFS. Every command answers a next state and keeps what `Keeps` names outside its parts: the rules by which outcomes and
operations compose, one lemma per command that follows its meaning, and what a step keeps from them (O4 to O10, O1 to O3). -/

set_option Elab.async false

namespace Sys2Proof.Machine

/-! ### Rules -/

/-- The outcome is a next state in which every part outside `w` is as in `s` and what `Keeps` names is kept. -/
def Completes (w : List Part) (s : State) (o : Out) : Prop := ∃ t, o = .next t ∧ Keeps w s t

theorem Completes.next {w : List Part} {s t : State} (h : Keeps w s t) : Completes w s (.next t) := ⟨t, rfl, h⟩

theorem Completes.same {w : List Part} {s : State} : Completes w s (.next s) := .next (.refl w s)

theorem Completes.ite {w : List Part} {s : State} {p : Prop} [Decidable p] {a b : Out} (ha : Completes w s a)
    (hb : Completes w s b) : Completes w s (if p then a else b) := by
  split
  · exact ha
  · exact hb

theorem Keeps.rfl {w : List Part} {s : State} : Keeps w s s := .refl w s

/-- One operation. -/
theorem Keeps.only {w v : List Part} {s y : State} (k : Keeps v s y) (hv : within w v = true := by rfl) : Keeps w s y :=
  k.mono hv

/-- An operation after others. -/
theorem Keeps.after {w v : List Part} {s x y : State} (k : Keeps v x y) (h : Keeps w s x) (hv : within w v = true := by rfl) :
    Keeps w s y := k.via h hv

theorem Keeps.either {w : List Part} {s a b : State} {p : Prop} [Decidable p] (ha : Keeps w s a) (hb : Keeps w s b) :
    Keeps w s (if p then a else b) := .ite (fun _ => ha) (fun _ => hb)

theorem Keeps.eitherOp {w : List Part} {s x : State} {p : Prop} [Decidable p] {f g : State → State}
    (hf : ∀ y, Keeps w y (f y)) (hg : ∀ y, Keeps w y (g y)) (h : Keeps w s x) : Keeps w s ((if p then f else g) x) := by
  split
  · exact h.trans (hf x)
  · exact h.trans (hg x)

theorem Keeps.eitherFst {α : Type} {w : List Part} {s : State} {p : Prop} [Decidable p] {a b : State × α}
    (ha : Keeps w s a.1) (hb : Keeps w s b.1) : Keeps w s (if p then a else b).1 := by
  split
  · exact ha
  · exact hb

theorem Keeps.eitherSnd {α : Type} {w : List Part} {s : State} {p : Prop} [Decidable p] {a b : α × State}
    (ha : Keeps w s a.2) (hb : Keeps w s b.2) : Keeps w s (if p then a else b).2 := by
  split
  · exact ha
  · exact hb

theorem Keeps.onto {w : List Part} {s x y : State} (k : Keeps w x y) (h : Keeps w s x) : Keeps w s y := h.trans k

/-! ### The commands of Machine/Power.lean -/

theorem resetNAssert_completes {s : State} :
    Completes (touches .resetNAssert) s (execResetNAssert s) :=
  .next (.after updPwr_keeps (.only enterReset_keeps))

theorem resetNDeassert_completes {pullUp : Bool} {pullDown : Bool} {pcieEn : Bool} {fabProf : Fin 8} {miAddr : Fin 4} {testN
  : Bool} {s : State} :
    Completes (touches (.resetNDeassert pullUp pullDown pcieEn fabProf miAddr testN)) s
      (execResetNDeassert pullUp pullDown pcieEn fabProf miAddr testN s) :=
  .next (.after tryBoot_keeps (.only updPwr_keeps))

theorem vsysPowerOnRelease_completes {s : State} :
    Completes (touches .vsysPowerOnRelease) s (execVsysPowerOnRelease s) :=
  .next (.after tryBoot_keeps (.only updPwr_keeps))

theorem vsysBelowRated_completes {below : Bool} {mv : BitVec 16} {s : State} :
    Completes (touches (.vsysBelowRated below mv)) s (execVsysBelowRated below mv s) :=
  .ite .same (.next (.after setF_keeps (.after setF_keeps (.only setB_keeps))))

theorem vsysPowerFail_completes {mv : BitVec 16} {s : State} :
    Completes (touches (.vsysPowerFail mv)) s (execVsysPowerFail mv s) :=
  .ite .same (.next (.after holdupShed_keeps (.upd_pins (.after logReaction_keeps (.after vatSeal_keeps
    (.after retractAll_keeps (.after spnCoast_keeps (.after flashHiZ_keeps (.after stopAll_keeps (.after pfRecord_keeps
    (.after setF_keeps (.after safeRecord_keeps (.after updPwr_keeps (.after setF_keeps (.only setF_keeps)))))))))))) rfl)))

theorem holdupEnd_completes {s : State} :
    Completes (touches .holdupEnd) s (execHoldupEnd s) :=
  .ite .same (.next (.after tryBoot_keeps (.after enterReset_keeps (.upd_nvPf .rfl rfl))))

theorem vsysOvervoltage_completes {mv : BitVec 16} {s : State} :
    Completes (touches (.vsysOvervoltage mv)) s (execVsysOvervoltage mv s) :=
  .ite .same (.next (.after forcedSafe_keeps (.after setF_keeps (.only setF_keeps))))

theorem vmotStartPermitted_completes {mv : BitVec 16} {s : State} :
    Completes (touches (.vmotStartPermitted mv)) s (execVmotStartPermitted mv s) :=
  .ite .same (.next (.after wakeGo_keeps (.after bringSpin_keeps (.onto (.either (.only spnBring_keeps) .rfl)
    (.after updPwr_keeps (.only vmotShow_keeps))))))

theorem vmotUndervoltage_completes {mv : BitVec 16} {s : State} :
    Completes (touches (.vmotUndervoltage mv)) s (execVmotUndervoltage mv s) :=
  .ite .same (.next (.either (.after vmotToFallow_keeps (.after haltBand_keeps (.after haltBand_keeps
    (.after haltBand_keeps (.after haltBand_keeps (.after retractAll_keeps (.after spnCoast_keeps (.after updPwr_keeps
    (.after setF_keeps (.only vmotShow_keeps)))))))))) (.after updPwr_keeps (.after setF_keeps (.only vmotShow_keeps)))))

theorem vmotOvervoltage_completes {mv : BitVec 16} {s : State} :
    Completes (touches (.vmotOvervoltage mv)) s (execVmotOvervoltage mv s) :=
  .ite .same (.next (.onto (.either (.after updPwr_keeps (.after stopAll_keeps (.only spnCoast_keeps))) .rfl)
    (.after updPwr_keeps (.after setF_keeps (.only vmotShow_keeps)))))

theorem vmotOvFallowTimeout_completes {s : State} :
    Completes (touches .vmotOvFallowTimeout) s (execVmotOvFallowTimeout s) :=
  .ite (.next (.only vmotToFallow_keeps)) .same

theorem vmotOvReturn_completes {mv : BitVec 16} {s : State} :
    Completes (touches (.vmotOvReturn mv)) s (execVmotOvReturn mv s) :=
  .ite .same (.next (.only vmotShow_keeps))

theorem pwrDomReqWrite_completes {p : Path} {d : Fin 17} {w : BitVec 32} {s : State} :
    Completes (touches (.pwrDomReqWrite p d w)) s (execPwrDomReqWrite p d w s) :=
  .next (busAct_keeps (fun _ => .only domReq_keeps) rfl)

theorem domainDrainDone_completes {d : Fin 17} {s : State} :
    Completes (touches (.domainDrainDone d)) s (execDomainDrainDone d s) :=
  .ite (.next (.after dormantGo_keeps (.only domainOff_keeps))) .same

theorem pwrDrainLimitExpiry_completes {d : Fin 17} {s : State} :
    Completes (touches (.pwrDrainLimitExpiry d)) s (execPwrDrainLimitExpiry d s) :=
  .ite (.next (.after dormantGo_keeps (.after setF_keeps (.after domainOff_keeps (.only haltTransfers_keeps))))) .same

theorem domainPowerUpDone_completes {d : Fin 17} {offline : BitVec 80} {s : State} :
    Completes (touches (.domainPowerUpDone d offline)) s (execDomainPowerUpDone d offline s) :=
  .next (.after step6Begin_keeps (.only domainUp_keeps))

/-! ### The commands of Machine/Modes.lean -/

theorem modeSetBringup_completes {m : Fin 16} {s : State} :
    Completes (touches (.modeSetBringup m)) s (execModeSetBringup m s) :=
  .next (modeRow_keeps (fun _ _ => .eitherFst (.only answer_keeps) (.after setF_keeps (.upd_boot .rfl rfl))) rfl)

theorem modeSetSolo_completes {m : Fin 16} {s : State} :
    Completes (touches (.modeSetSolo m)) s (execModeSetSolo m s) :=
  .next (modeRow_keeps (fun _ _ => .eitherFst (.only answer_keeps) (.eitherFst (.only answer_keeps) (.eitherFst
    (.only answer_keeps) (.only soloStart_keeps)))) rfl)

theorem modeSetFallow_completes {m : Fin 16} {partnerTakes : Bool} {s : State} :
    Completes (touches (.modeSetFallow m partnerTakes)) s (execModeSetFallow m partnerTakes s) :=
  .next (modeRow_keeps (fun _ _ => .eitherFst (.only answer_keeps) (.eitherFst (.only answer_keeps)
    (.after fallowStart_keeps (.eitherOp (fun _ => .only nalSend_keeps) (fun _ => .rfl) .rfl)))) rfl)

theorem modeSetWake_completes {m : Fin 16} {partnerTakes : Bool} {s : State} :
    Completes (touches (.modeSetWake m partnerTakes)) s (execModeSetWake m partnerTakes s) :=
  .next (modeRow_keeps (fun _ _ => .eitherFst (.only answer_keeps) (.eitherFst (.only answer_keeps)
    (.only wakeRequest_keeps))) rfl)

theorem modeSetDrain_completes {m : Fin 16} {partnerTakes : Bool} {s : State} :
    Completes (touches (.modeSetDrain m partnerTakes)) s (execModeSetDrain m partnerTakes s) :=
  .next (modeRow_keeps (fun _ _ => .eitherFst (.only answer_keeps) (.eitherFst (.only answer_keeps) (.eitherFst
    (.only answer_keeps) (.eitherFst (.only answer_keeps) (.eitherFst (.after setTarget_keeps (.after setF_keeps
    (.after drainStart_keeps (.eitherOp (fun _ => .only nalSend_keeps) (fun _ => .rfl) .rfl)))) (.after answer_keeps
    (.after drainStart_keeps (.eitherOp (fun _ => .only nalSend_keeps) (fun _ => .rfl) .rfl)))))))) rfl)

theorem modeSetDrainCancel_completes {m : Fin 16} {partnerTakes : Bool} {s : State} :
    Completes (touches (.modeSetDrainCancel m partnerTakes)) s (execModeSetDrainCancel m partnerTakes s) :=
  .next (modeRow_keeps (fun _ _ => .eitherFst (.only answer_keeps) (.eitherFst (.only answer_keeps)
    (.after drainCancel_keeps (.either (.only nalSend_keeps) .rfl)))) rfl)

theorem modeSetDormant_completes {m : Fin 16} {s : State} :
    Completes (touches (.modeSetDormant m)) s (execModeSetDormant m s) :=
  .next (modeRow_keeps (fun _ _ => .eitherFst (.only dormantStart_keeps) (.only answer_keeps)) rfl)

theorem pairModeRequestReceived_completes {target : Fin 8} {peers : List Nat} {s : State} :
    Completes (touches (.pairModeRequestReceived target peers)) s (execPairModeRequestReceived target peers s) := by
  unfold execPairModeRequestReceived
  dsimp -proj only
  refine .ite .same ?_
  split
  · exact .ite .same (.ite (.next (.only fallowStart_keeps)) (.ite (.next (.after fallowStart_keeps (.after setF_keeps
      (.after updDrain_keeps (.only yieldTo_keeps))))) .same))
  · exact .next (.only wakeRequest_keeps)
  · exact .ite (.next (.only drainStart_keeps)) (.ite .same (.ite (.next (.after drainStart_keeps
      (.only yieldTo_keeps))) .same))
  · exact .ite (.next (.only drainCancel_keeps)) .same
  · exact .same

theorem safeRelease_completes {m : Fin 16} {s : State} :
    Completes (touches (.safeRelease m)) s (execSafeRelease m s) :=
  .next (mbxRow_keeps (fun _ _ => .eitherFst (.only answer_keeps) (.eitherFst (.only answer_keeps) (.after answer_keeps
    (.after clearLive_keeps (.after setF_keeps (.only enterDormant_keeps)))))) rfl)

theorem soloStartWaitExpiry_completes {s : State} :
    Completes (touches .soloStartWaitExpiry) s (execSoloStartWaitExpiry s) :=
  .ite (.next (.only soloStart_keeps)) .same

theorem idleFallowExpiry_completes {s : State} :
    Completes (touches .idleFallowExpiry) s (execIdleFallowExpiry s) :=
  .ite (.next (.after fallowStart_keeps (.eitherOp (fun _ => .only nalSend_keeps) (fun _ => .rfl) .rfl))) .same

theorem fallowEntryDone_completes {s : State} :
    Completes (touches .fallowEntryDone) s (execFallowEntryDone s) :=
  .ite (.next (.after fallowBands_keeps (.after wakeGo_keeps (.after anaRefresh_keeps (.after tellStep_keeps
    (.after mbxFinish_keeps (.after fansTo_keeps (.eitherOp (fun _ => .only spnStop_keeps) (fun _ => .rfl)
    (.after domDown_keeps (.after domDown_keeps (.after domDown_keeps (.after domDown_keeps (.after domDown_keeps
    (.after setF_keeps (.after setTarget_keeps (.only setF_keeps)))))))))))))))) .same

theorem wakeDiskReadsAdmitted_completes {tempWithin5 : Bool} {s : State} :
    Completes (touches (.wakeDiskReadsAdmitted tempWithin5)) s (execWakeDiskReadsAdmitted tempWithin5 s) := by
  unfold execWakeDiskReadsAdmitted
  split
  · exact .ite (.next (.after returnStart_keeps (.after anaRefresh_keeps (.after tellStep_keeps (.after mbxFinish_keeps
      (.after fansTo_keeps (.after firstService_keeps (.eitherOp (fun _ => .rfl) (fun _ => .only wakeLadder_keeps)
      (.after updPwr_keeps (.after setF_keeps (.after setTarget_keeps (.only setF_keeps)))))))))))) .same
  · exact .same

theorem wakeCalibrationDone_completes {s : State} :
    Completes (touches .wakeCalibrationDone) s (execWakeCalibrationDone s) :=
  .ite (.next (.after calBands_keeps (.foldl (fun _ _ => .after mirrorHead_keeps (.only updHead_keeps))
    (.only updPwr_keeps)))) .same

theorem drainEvacuationComplete_completes {s : State} :
    Completes (touches .drainEvacuationComplete) s (execDrainEvacuationComplete s) :=
  .ite (.next (.only dormantStart_keeps)) .same

/-! ### The commands of Machine/Boot.lean -/

theorem bootSupervisorVerified_completes {s : State} :
    Completes (touches .bootSupervisorVerified) s (execBootSupervisorVerified s) := by
  unfold execBootSupervisorVerified
  dsimp -proj only
  refine .ite .same ?_
  split
  · exact .next (.after setF_keeps (.only bootChoose_keeps))
  · exact .next (.after setF_keeps (.after setF_keeps (.after measPut_keeps (.after updBoot_keeps
      (.only bootChoose_keeps)))))

theorem bootDormantEntered_completes {s : State} :
    Completes (touches .bootDormantEntered) s (execBootDormantEntered s) :=
  .ite .same (.next (.onto (.either (.only bootTrigger_keeps) .rfl) (.after slotRefresh_keeps (.after listRefresh_keeps
    (.after svnRefresh_keeps (.after identityMeas_keeps (.after pfLoad_keeps (.after setF_keeps (.after setF_keeps
    (.only updBoot_keeps))))))))))

theorem bootControlVerified_completes {s : State} :
    Completes (touches .bootControlVerified) s (execBootControlVerified s) := by
  unfold execBootControlVerified
  dsimp -proj only
  refine .ite .same ?_
  split
  · exact .next (.after slotRefresh_keeps (.after mbxFinish_keeps (.after setF_keeps (.after domReset_keeps
      (.after updBoot_keeps (.after bootFailed_keeps (.after bootChoose_keeps (.after setF_keeps (.only setF_keeps)))))))))
  · exact .next (.after setF_keeps (.after listRefresh_keeps (.after slotRefresh_keeps (.after svnRefresh_keeps
      (.after setF_keeps (.after measPut_keeps (.after updBoot_keeps (.after bootChoose_keeps (.after setF_keeps
      (.only setF_keeps))))))))))

theorem bootPatchesVerified_completes {s : State} :
    Completes (touches .bootPatchesVerified) s (execBootPatchesVerified s) :=
  .ite .same (.next (.after anaRefresh_keeps (.after mbxFinish_keeps (.after setF_keeps (.after pfLog_keeps
    (.after bringEnter_keeps (.after listRefresh_keeps (.after updPwr_keeps (.after updPair_keeps (.after updBoot_keeps
    (.after setF_keeps (.only measPut_keeps))))))))))))

theorem fwStage_completes {m : Fin 16} {s : State} :
    Completes (touches (.fwStage m)) s (execFwStage m s) :=
  .next (.onto (.either (.after tryBoot_keeps (.after enterReset_keeps (.only send_keeps))) .rfl) (.only fwStageRow_keeps))

/-! ### The commands of Machine/Bringup.lean -/

theorem dramTrainingDone_completes {ok : Bool} {rate : BitVec 13} {cap : BitVec 10} {channels : BitVec 4} {s : State} :
    Completes (touches (.dramTrainingDone ok rate cap channels)) s (execDramTrainingDone ok rate cap channels s) :=
  .ite .same (.ite (.next (.after fillCellar_keeps (.after updBring_keeps (.after setF_keeps (.after setF_keeps
    (.after setF_keeps (.after setF_keeps (.only setF_keeps)))))))) (.next (.after raise_keeps (.only setF_keeps))))

theorem descriptorReadDone_completes {bytes : DescBytes} {s : State} :
    Completes (touches (.descriptorReadDone bytes)) s (execDescriptorReadDone bytes s) :=
  .ite .same (.next (.after bringSpin_keeps (.after checkCompare_keeps (.after nalSend_keeps (.after encShow_keeps (.onto
    (.either (.only mbxFinish_keeps) .rfl) (.after updBring_keeps (.upd_desc .rfl rfl))))))))

theorem descriptorCheckReceived_completes {check : BitVec 32} {valid : Bool} {s : State} :
    Completes (touches (.descriptorCheckReceived check valid)) s (execDescriptorCheckReceived check valid s) :=
  .ite .same (.next (.after bringSpin_keeps (.after checkCompare_keeps (.only updBring_keeps))))

theorem nalTrainDone_completes {lanes : BitVec 16} {pos : Bool} {brick : BitVec 17} {recs : List
  (Nat × Bool × BitVec 16)} {s : State} :
    Completes (touches (.nalTrainDone lanes pos brick recs)) s (execNalTrainDone lanes pos brick recs s) :=
  .ite .same (.ite (.next (.after nalDown_keeps (.only setF_keeps))) (.ite (.next (.onto (.either .rfl (.only raise_keeps))
    (.after updPair_keeps (.after setF_keeps (.after nalDown_keeps (.only setF_keeps)))))) (.next (.after nalTrained_keeps
    (.only setF_keeps)))))

theorem fenceTestPulseEnd_completes {s : State} :
    Completes (touches .fenceTestPulseEnd) s (execFenceTestPulseEnd s) :=
  .ite (.next (.after nalSend_keeps (.only updPair_keeps))) .same

theorem fenceTestReportReceived_completes {failed : Bool} {ended : Bool} {saw : Bool} {s : State} :
    Completes (touches (.fenceTestReportReceived failed ended saw)) s (execFenceTestReportReceived failed ended saw s) :=
  .ite .same (.ite (.next (.only testLost_keeps)) (.ite .same (.ite (.next (.after testConclude_keeps (.onto (.either
    (.only pulseStart_keeps) .rfl) (.after nalSend_keeps (.only updPair_keeps))))) (.ite (.next (.after testConclude_keeps
    (.only updPair_keeps))) .same))))

theorem fenceTestReportTimeout_completes {s : State} :
    Completes (touches .fenceTestReportTimeout) s (execFenceTestReportTimeout s) :=
  .ite .same (.ite (.next (.after testConclude_keeps (.after updPair_keeps (.only nalSend_keeps)))) (.ite (.next
    (.after testConclude_keeps (.onto (.either (.only pulseStart_keeps) .rfl) (.only updPair_keeps)))) .same))

theorem partnerAttestationResult_completes {ok : Bool} {code : BitVec 16} {s : State} :
    Completes (touches (.partnerAttestationResult ok code)) s (execPartnerAttestationResult ok code s) :=
  .ite .same (.next (.after attested_keeps (.eitherOp (fun _ => .rfl) (fun _ => .only raise_keeps) (.only updBring_keeps))))

theorem partnerAttestationTimeout_completes {s : State} :
    Completes (touches .partnerAttestationTimeout) s (execPartnerAttestationTimeout s) :=
  .ite (.next (.after attested_keeps (.only attestEnd_keeps))) (.ite (.next (.after attested_keeps (.after raise_keeps
    (.only updBring_keeps)))) .same)

theorem vatReplayDone_completes {s : State} :
    Completes (touches .vatReplayDone) s (execVatReplayDone s) :=
  .ite (.next (.after bringSpin_keeps (.after mirrorRise_keeps (.after tellStep_keeps (.after anaRefresh_keeps
    (.after canalsConnect_keeps (.after fastReduction_keeps (.after updBring_keeps (.after roAgain_keeps
    (.only journalReplay_keeps)))))))))) .same

theorem mapsLoaded_completes {lfps : List Nat} {partnerGib : Nat} {base0 : BitVec 64} {base1 : BitVec 64} {s : State} :
    Completes (touches (.mapsLoaded lfps partnerGib base0 base1)) s (execMapsLoaded lfps partnerGib base0 base1 s) :=
  .ite (.next (.after fastReduction_keeps (.after updBring_keeps (.after wr_keeps (.after wr_keeps (.after wr_keeps
    (.after wr_keeps (.eitherOp (fun _ => .only mapStore_keeps) (fun _ => .rfl) (.eitherOp (fun _ => .only mapStore_keeps)
    (fun _ => .rfl) (.either (.upd_tier .rfl rfl) .rfl)))))))))) .same

theorem fullCalibrationDone_completes {s : State} :
    Completes (touches .fullCalibrationDone) s (execFullCalibrationDone s) :=
  .ite (.next (.after tellStep_keeps (.after calBands_keeps (.foldl (fun _ _ => .after mirrorHead_keeps
    (.only updHead_keeps)) (.only updBring_keeps))))) .same

theorem partnerStepReport_completes {step : Fin 14} {pmode : Fin 8} {s : State} :
    Completes (touches (.partnerStepReport step pmode)) s (execPartnerStepReport step pmode s) :=
  .ite .same (.next (.after drainTogether_keeps (.after returnStart_keeps (.after mirrorRise_keeps (.after updPair_keeps
    (.only updBring_keeps))))))

theorem bringupComplete_completes {s : State} :
    Completes (touches .bringupComplete) s (execBringupComplete s) :=
  .ite .same (.ite (.next (.after anaRefresh_keeps (.after confirmTrials_keeps (.only bringDone_keeps)))) (.ite .same (.ite
    (.next (.after anaRefresh_keeps (.after tellStep_keeps (.after fansTo_keeps (.after setF_keeps (.after setF_keeps
    (.only bringDone_keeps))))))) (.ite (.next (.after mbxFinish_keeps (.after confirmTrials_keeps (.after enterSolo_keeps
    (.only bringDone_keeps))))) (.ite (.next (.eitherOp (fun _ => .only confirmTrials_keeps) (fun _ => .rfl)
    (.after enterFull_keeps (.only bringDone_keeps)))) .same)))))

theorem coarseCalibrationDone_completes {s : State} :
    Completes (touches .coarseCalibrationDone) s (execCoarseCalibrationDone s) :=
  .ite (.next (.foldl (fun _ _ => .only setF_keeps) (.only updBring_keeps))) .same

theorem spdmResponseReceived_completes {k : Option Nat} {ok : Bool} {meas : List
  (List Byte)} {svnSup : Nat} {svnCtl : Nat} {protoMin : Nat} {protoMax : Nat} {s : State} :
    Completes (touches (.spdmResponseReceived k ok meas svnSup svnCtl protoMin protoMax)) s
      (execSpdmResponseReceived k ok meas svnSup svnCtl protoMin protoMax s) := by
  unfold execSpdmResponseReceived
  dsimp -proj only
  split
  · exact .next (.only canalSpdmStep_keeps)
  · split
    · exact .same
    · refine .ite (.next (.after attested_keeps (.only attestEnd_keeps))) ?_
      split
      · exact .next (.after send_keeps (.upd_spdm .rfl rfl))
      · exact .ite (.next (.after attested_keeps (.only attestEnd_keeps))) (.ite (.next (.after attested_keeps
          (.after attestEnd_keeps (.only updPair_keeps)))) (.next (.after attested_keeps (.after attestEnd_keeps
          (.after updPair_keeps (.only updPair_keeps))))))

/-! ### The commands of Machine/Pair.lean -/

theorem hbFrameTimer_completes {s : State} :
    Completes (touches .hbFrameTimer) s (execHbFrameTimer s) :=
  .ite .same (.next (.after updPair_keeps (.eitherOp (fun _ => .only nalSend_keeps) (fun _ => .rfl) (.only send_keeps))))

theorem hbFrameReceived_completes {w : BitVec 16} {s : State} :
    Completes (touches (.hbFrameReceived w)) s (execHbFrameReceived w s) :=
  .ite .same (.next (.after hbTake_keeps (.after updPair_keeps (.either (.only count_keeps) .rfl))))

theorem hbLossTimeout_completes {s : State} :
    Completes (touches .hbLossTimeout) s (execHbLossTimeout s) :=
  .ite (.next (.only hbLoss_keeps)) .same

theorem nalHbMessageReceived_completes {w : BitVec 16} {s : State} :
    Completes (touches (.nalHbMessageReceived w)) s (execNalHbMessageReceived w s) :=
  .ite (.next (.only hbTake_keeps)) .same

theorem fenceInAssert_completes {level : Bool} {s : State} :
    Completes (touches (.fenceInAssert level)) s (execFenceInAssert level s) :=
  .ite (.next (.only updPair_keeps)) (.ite (.next (.after updPair_keeps (.only updPair_keeps))) (.ite (.next
    (.after fenceReaction_keeps (.only updPair_keeps))) (.next (.only updPair_keeps))))

theorem nalPingReceived_completes {s : State} :
    Completes (touches .nalPingReceived) s (execNalPingReceived s) :=
  .ite .same (.next (.onto (.either .rfl (.after hbFault_keeps (.only updPair_keeps))) (.only nalSend_keeps)))

theorem pingReplyReceived_completes {s : State} :
    Completes (touches .pingReplyReceived) s (execPingReplyReceived s) :=
  .ite (.next (.after hbFault_keeps (.only updPair_keeps))) .same

theorem takeoverPingTimeout_completes {s : State} :
    Completes (touches .takeoverPingTimeout) s (execTakeoverPingTimeout s) :=
  .ite .same (.ite (.next (.only fenceStep_keeps)) (.next (.only updPair_keeps)))

theorem takeoverFenceHoldoffExpiry_completes {s : State} :
    Completes (touches .takeoverFenceHoldoffExpiry) s (execTakeoverFenceHoldoffExpiry s) :=
  .ite .same (.ite (.next (.only fenceReaction_keeps)) (.next (.only updPair_keeps)))

theorem takeoverArbitrationEnd_completes {s : State} :
    Completes (touches .takeoverArbitrationEnd) s (execTakeoverArbitrationEnd s) :=
  .ite .same (.ite (.next (.only fenceReaction_keeps)) (.ite (.next (.after mbxFinish_keeps (.after setF_keeps
    (.only updPair_keeps)))) (.next (.only takeoverWon_keeps))))

theorem takeoverChannelsAcquired_completes {left : FlashMeta} {busy : List Nat} {erasing : List
  (Nat × Nat × Nat)} {s : State} :
    Completes (touches (.takeoverChannelsAcquired left busy erasing)) s (execTakeoverChannelsAcquired left busy erasing s) :=
  .ite (.next (.after updPair_keeps (.forN (fun _ _ => .either (.only setF_keeps) .rfl)
    (.after closeOpen_keeps (.only adoptMeta_keeps))))) .same

theorem actuatorCatchDone_completes {a : Fin 4} {s : State} :
    Completes (touches (.actuatorCatchDone a)) s (execActuatorCatchDone a s) :=
  .ite (.next (.after setF_keeps (.only updPair_keeps))) .same

theorem actuatorCatchTimeout_completes {a : Fin 4} {s : State} :
    Completes (touches (.actuatorCatchTimeout a)) s (execActuatorCatchTimeout a s) :=
  .ite (.next (.after raise_keeps (.after setF_keeps (.after setF_keeps (.only updPair_keeps))))) .same

theorem takeoverReplayDone_completes {left : FlashMeta} {s : State} :
    Completes (touches (.takeoverReplayDone left)) s (execTakeoverReplayDone left s) :=
  .ite (.next (.after requestsTaken_keeps (.after anaRefresh_keeps (.after updPair_keeps (.foldl
    (fun _ _ => .only gainGroup_keeps) (.only adopt_keeps)))))) .same

theorem tokenReleaseStart_completes {t : Fin 64} {s : State} :
    Completes (touches (.tokenReleaseStart t)) s (execTokenReleaseStart t s) :=
  .ite (.next (.only tokRelease_keeps)) (.ite (.next (.only groupHoldSet_keeps)) .same)

theorem tokenReleaseReceived_completes {t : Fin 64} {e : BitVec 16} {left : FlashMeta} {s : State} :
    Completes (touches (.tokenReleaseReceived t e left)) s (execTokenReleaseReceived t e left s) :=
  .ite .same (.ite (.next (.either (.only takeAck_keeps) .rfl)) (.ite (.next (.after commitToken_keeps (.after adopt_keeps
    (.only tieLog_keeps)))) (.next (.after refuseToken_keeps (.only tieLog_keeps)))))

theorem takeAckReceived_completes {t : Fin 64} {e : BitVec 16} {s : State} :
    Completes (touches (.takeAckReceived t e)) s (execTakeAckReceived t e s) :=
  .ite (.next (.after gaveToken_keeps (.after anaRefresh_keeps (.after updPair_keeps (.after loseToken_keeps
    (.only setTok_keeps)))))) .same

theorem refuseReceived_completes {t : Fin 64} {e : BitVec 16} {s : State} :
    Completes (touches (.refuseReceived t e)) s (execRefuseReceived t e s) :=
  .ite (.next (.after anaRefresh_keeps (.eitherOp (fun _ => .rfl) (fun _ => .eitherOp (fun _ => .only gainActuator_keeps)
    (fun _ => .eitherOp (fun _ => .only gainChannel_keeps) (fun _ => .only groupHoldSet_keeps) .rfl) .rfl)
    (.only setTok_keeps)))) .same

theorem tokenQueryTimer_completes {t : Fin 64} {s : State} :
    Completes (touches (.tokenQueryTimer t)) s (execTokenQueryTimer t s) :=
  .ite (.next (.only nalSend_keeps)) .same

theorem tokenQueryReceived_completes {t : Fin 64} {e : BitVec 16} {s : State} :
    Completes (touches (.tokenQueryReceived t e)) s (execTokenQueryReceived t e s) :=
  .ite .same (.ite (.next (.either (.only takeAck_keeps) .rfl)) (.next (.only refuseToken_keeps)))

theorem speedLoopSample_completes {s : State} :
    Completes (touches .speedLoopSample) s (execSpeedLoopSample s) :=
  .ite .same (.ite (.next (.only speedShow_keeps)) (.ite (.next (.after masterSample_keeps (.only speedShow_keeps))) (.next
    (.after followSample_keeps (.only speedShow_keeps)))))

theorem torqueReceived_completes {n : BitVec 16} {cmd : BitVec 16} {s : State} :
    Completes (touches (.torqueReceived n cmd)) s (execTorqueReceived n cmd s) :=
  .ite .same (.ite (.next (.after updPair_keeps (.after updPair_keeps (.eitherOp (fun _ => .only spnCatch_keeps)
    (fun _ => .rfl) .rfl)))) (.ite (.next (.after nalSend_keeps (.after setF_keeps (.after updPair_keeps (.eitherOp
    (fun _ => .only spnCatch_keeps) (fun _ => .rfl) .rfl))))) (.next (.after updPair_keeps (.eitherOp
    (fun _ => .only spnCatch_keeps) (fun _ => .rfl) .rfl)))))

theorem handover_completes {m : Fin 16} {s : State} :
    Completes (touches (.handover m)) s (execHandover m s) :=
  .next (mbxRow_keeps (fun _ _ => .eitherFst (.only answer_keeps) (.eitherFst (.only answer_keeps) (.eitherFst
    (.only answer_keeps) (.eitherFst (.only answer_keeps) (.after answer_keeps (.after anaRefresh_keeps
    (.after holdGroups_keeps (.only updPair_keeps)))))))) rfl)

theorem handoverDrainDone_completes {s : State} :
    Completes (touches .handoverDrainDone) s (execHandoverDrainDone s) :=
  .ite (.next (.only updPair_keeps)) .same

theorem coilBlendStart_completes {a : Fin 4} {s : State} :
    Completes (touches (.coilBlendStart a)) s (execCoilBlendStart a s) :=
  .ite (.next (.only updPair_keeps)) .same

theorem vcmCurrentCmdReceived_completes {a : Fin 4} {cmd : BitVec 16} {sect : List (List Int)} {s : State} :
    Completes (touches (.vcmCurrentCmdReceived a cmd sect)) s (execVcmCurrentCmdReceived a cmd sect s) :=
  .ite .same (.next (.after updVcm_keeps (.after setF_keeps (.after setF_keeps (.after setF_keeps (.after updPair_keeps
    (.either .rfl (.only domUp_keeps))))))))

theorem coilBlendRampEnd_completes {a : Fin 4} {s : State} :
    Completes (touches (.coilBlendRampEnd a)) s (execCoilBlendRampEnd a s) := by
  unfold execCoilBlendRampEnd
  split
  · exact .ite (.next (.after tokRelease_keeps (.only updPair_keeps))) .same
  · exact .same

theorem backupBridgeTimeout_completes {a : Fin 4} {s : State} :
    Completes (touches (.backupBridgeTimeout a)) s (execBackupBridgeTimeout a s) := by
  unfold execBackupBridgeTimeout
  split
  · exact .ite (.next (.after retract_keeps (.only updPair_keeps))) .same
  · exact .same

/-! ### The commands of Machine/Links.lean -/

theorem nalFlitReceived_completes {flit : List Byte} {failed : Bool} {msgs : List NalMsg} {s : State} :
    Completes (touches (.nalFlitReceived flit failed msgs)) s (execNalFlitReceived flit failed msgs s) :=
  .ite .same (.ite .same (.ite (.next (.after updPair_keeps (.onto (.either (.only nalReplay_keeps) .rfl) (.onto (.either
    (.only nalAck_keeps) .rfl) (.only updPair_keeps))))) (.next (.foldl (fun _ _ => .only nalTake_keeps) (.onto (.either
    (.only nalReplay_keeps) .rfl) (.onto (.either (.only nalAck_keeps) .rfl) (.only updPair_keeps)))))))

theorem nalAckTimeout_completes {s : State} :
    Completes (touches .nalAckTimeout) s (execNalAckTimeout s) :=
  .next (.only nalDown_keeps)

theorem nalLaneFail_completes {lane : Fin 16} {s : State} :
    Completes (touches (.nalLaneFail lane)) s (execNalLaneFail lane s) :=
  .next (.either (.only nalDown_keeps) .rfl)

theorem nalRetrainTimer_completes {s : State} :
    Completes (touches .nalRetrainTimer) s (execNalRetrainTimer s) :=
  .next (.only trainSend_keeps)

theorem perstAssert_completes {s : State} :
    Completes (touches .perstAssert) s (execPerstAssert s) :=
  .next (.onto (.either (.after pcieDown_keeps (.after msixReset_keeps (.only pcieReset_keeps))) .rfl) (.upd_pcie .rfl rfl))

theorem perstDeassert_completes {s : State} :
    Completes (touches .perstDeassert) s (execPerstDeassert s) :=
  .next (.upd_pcie .rfl rfl)

theorem pcieFlr_completes {s : State} :
    Completes (touches .pcieFlr) s (execPcieFlr s) :=
  .ite .same (.next (.after dropGrants_keeps (.after mbxResetTo_keeps (.after mbxResetTo_keeps (.after mbxResetTo_keeps
    (.after mbxResetTo_keeps (.after msixReset_keeps (.only pcieReset_keeps))))))))

theorem ccEnClear_completes {s : State} :
    Completes (touches .ccEnClear) s (execCcEnClear s) :=
  .ite (.next (.only pcieReset_keeps)) .same

theorem msixUnmask_completes {enable : Bool} {fnMask : Bool} {masked : List Nat} {s : State} :
    Completes (touches (.msixUnmask enable fnMask masked)) s (execMsixUnmask enable fnMask masked s) :=
  .ite .same (.next (.foldl (fun _ _ => .only send_keeps) (.upd_pcie .rfl rfl)))

theorem fabLinkChange_completes {q : Fin 8} {up : Bool} {s : State} :
    Completes (touches (.fabLinkChange q up)) s (execFabLinkChange q up s) :=
  .ite .same (.ite (.next (.only portSet_keeps)) (.ite (.next (.only portSet_keeps)) .same))

theorem pcieLinkChange_completes {up : Bool} {s : State} :
    Completes (touches (.pcieLinkChange up)) s (execPcieLinkChange up s) :=
  .ite (.next (.only pcieDown_keeps)) (.ite (.next (.upd_pcie .rfl rfl)) .same)

theorem nvmeMiRequest_completes {kind : Fin 4} {s : State} :
    Completes (touches (.nvmeMiRequest kind)) s (execNvmeMiRequest kind s) :=
  .ite (.next (.only send_keeps)) (.ite (.next (.only send_keeps)) .same)

/-! ### The commands of Machine/Clocks.lean -/

theorem governorRun_completes {pace : BitVec 16} {vcore : BitVec 16} {vsys : BitVec 16} {vmot : BitVec 16} {capHolds : Bool}
  {capPas : Fin 17} {s : State} :
    Completes (touches (.governorRun pace vcore vsys vmot capHolds capPas)) s
      (execGovernorRun pace vcore vsys vmot capHolds capPas s) :=
  .ite .same (.next (.after admitTo_keeps (.after govShow_keeps (.after govAct_keeps (.after (updClk_keeps ⟨rfl, rfl⟩)
    (.after setF_keeps (.after vmotShow_keeps (.after setF_keeps (.after setF_keeps (.eitherOp (fun _ => .only setF_keeps)
    (fun _ => .rfl) (.only setF_keeps)))))))))))

theorem preampReadmitTimer_completes {p : Fin 16} {s : State} :
    Completes (touches (.preampReadmitTimer p)) s (execPreampReadmitTimer p s) :=
  .ite (.next (.after setB_keeps (.only (updClk_keeps ⟨rfl, rfl⟩)))) .same

theorem sampleBufferOverrun_completes {h : Fin 144} {fill : Nat} {s : State} :
    Completes (touches (.sampleBufferOverrun h fill)) s (execSampleBufferOverrun h fill s) := by
  unfold execSampleBufferOverrun
  dsimp -proj only
  refine .ite .same ?_
  split
  · exact .next (.after raise_keeps (.after count_keeps (.after setF_keeps (.after setF_keeps (.after headStat_keeps
      (.after sectorDone_keeps (.after updHead_keeps (.only sectorAgain_keeps))))))))
  · exact .ite (.next (.after raise_keeps (.after count_keeps (.after setF_keeps (.after setF_keeps (.after headStat_keeps
      (.after sectorDone_keeps (.only updHead_keeps)))))))) .same
  · exact .same

theorem clkPllCfgWrite_completes {p : Path} {i : Fin 10} {w : BitVec 32} {s : State} :
    Completes (touches (.clkPllCfgWrite p i w)) s (execClkPllCfgWrite p i w s) :=
  .next (busAct_keeps (fun _ => acc_keeps (fun _ => .only pllStore_keeps) rfl) rfl)

theorem pllLock_completes {i : Fin 13} {s : State} :
    Completes (touches (.pllLock i)) s (execPllLock i s) :=
  .ite (.next (.eitherOp (fun _ => .only setF_keeps) (fun _ => .eitherOp (fun _ => .only trainSend_keeps)
    (fun _ => .rfl) .rfl) (.only setF_keeps))) .same

theorem clkGateReqSet_completes {p : Path} {i : Fin 13} {busy : Option (Path × BitVec 24)} {s : State} :
    Completes (touches (.clkGateReqSet p i busy)) s (execClkGateReqSet p i busy s) :=
  .next (busAct_keeps (fun _ => acc_keeps (fun _ => .only gateReq_keeps) rfl) rfl)

theorem clkGateReqClear_completes {p : Path} {i : Fin 13} {s : State} :
    Completes (touches (.clkGateReqClear p i)) s (execClkGateReqClear p i s) :=
  .next (busAct_keeps (fun _ => acc_keeps (fun _ => .only gateClear_keeps) rfl) rfl)

theorem clkGateIdle_completes {i : Fin 13} {s : State} :
    Completes (touches (.clkGateIdle i)) s (execClkGateIdle i s) :=
  .ite (.next (.only gateTake_keeps)) .same

theorem clkGateForce_completes {p : Path} {i : Fin 13} {idle : Bool} {s : State} :
    Completes (touches (.clkGateForce p i idle)) s (execClkGateForce p i idle s) :=
  .next (busAct_keeps (fun _ => acc_keeps (fun _ => .only gateForce_keeps) rfl) rfl)

theorem clkSafeRelease_completes {p : Path} {i : Fin 13} {s : State} :
    Completes (touches (.clkSafeRelease p i)) s (execClkSafeRelease p i s) :=
  .next (busAct_keeps (fun _ => acc_keeps (fun _ => .only expertRelease_keeps) rfl) rfl)

theorem clkPaceLowRst_completes {p : Path} {s : State} :
    Completes (touches (.clkPaceLowRst p)) s (execClkPaceLowRst p s) :=
  .next (busAct_keeps (fun _ => acc_keeps (fun _ => .only paceLowRst_keeps) rfl) rfl)

theorem clkSscWrite_completes {p : Path} {pactl : Bool} {w : BitVec 32} {s : State} :
    Completes (touches (.clkSscWrite p pactl w)) s (execClkSscWrite p pactl w s) :=
  .next (busAct_keeps (fun _ => acc_keeps (fun _ => .only sscStore_keeps) rfl) rfl)

theorem refEdgeTimeout_completes {r : Fin 4} {s : State} :
    Completes (touches (.refEdgeTimeout r)) s (execRefEdgeTimeout r s) :=
  .ite (.next (.only refLoss_keeps)) .same

theorem refFreqMismatch_completes {backup : Int} {pcie : Int} {fab : Int} {nal : Int} {s : State} :
    Completes (touches (.refFreqMismatch backup pcie fab nal)) s (execRefFreqMismatch backup pcie fab nal s) :=
  .ite .same (.ite (.next (.only refLoss_keeps)) (.next (.eitherOp (fun _ => .only refLoss_keeps) (fun _ => .rfl)
    (.eitherOp (fun _ => .only refLoss_keeps) (fun _ => .rfl) (.eitherOp (fun _ => .only refLoss_keeps)
    (fun _ => .rfl) .rfl)))))

theorem refReturn_completes {r : Fin 4} {s : State} :
    Completes (touches (.refReturn r)) s (execRefReturn r s) :=
  .ite .same (.next (.onto (.either (.only clearLive_keeps) .rfl) (.foldl (fun _ _ => .only setF_keeps) (.only setF_keeps))))

theorem refGood100ms_completes {r : Fin 4} {s : State} :
    Completes (touches (.refGood100ms r)) s (execRefGood100ms r s) :=
  .ite .same (.next (.onto (.either (.eitherOp (fun _ => .only loadAll_keeps) (fun _ => .rfl) (.eitherOp
    (fun _ => .only spnBring_keeps) (fun _ => .rfl) .rfl)) .rfl) (.foldl (fun _ _ => .only safeRelease_keeps) .rfl)))

theorem sysRefclkLoss10ms_completes {s : State} :
    Completes (touches .sysRefclkLoss10ms) s (execSysRefclkLoss10ms s) :=
  .ite (.next (.after nalDown_keeps (.upd_pwr_pins .rfl rfl rfl))) .same

theorem fabRefclkLoss1s_completes {s : State} :
    Completes (touches .fabRefclkLoss1s) s (execFabRefclkLoss1s s) :=
  .ite (.next (.only updPair_keeps)) .same

theorem tsInPulse_completes {s : State} :
    Completes (touches .tsInPulse) s (execTsInPulse s) :=
  .ite .same (.next (.upd_now (.after (updClk_keeps ⟨rfl, rfl⟩) (.only takeFree_keeps)) rfl))

theorem clkGate_completes {m : Fin 16} {busy : Option (Path × BitVec 24)} {s : State} :
    Completes (touches (.clkGate m busy)) s (execClkGate m busy s) :=
  .next (mbxRow_keeps (fun _ _ => .eitherFst (.only answer_keeps) (.eitherFst (.after answer_keeps (.only gateReq_keeps))
    (.eitherFst (.only gateReq_keeps) (.after answer_keeps (.only gateReq_keeps))))) rfl)

theorem clkUngate_completes {m : Fin 16} {s : State} :
    Completes (touches (.clkUngate m)) s (execClkUngate m s) :=
  .next (mbxRow_keeps (fun _ _ => .eitherFst (.only answer_keeps) (.after answer_keeps (.only gateClear_keeps))) rfl)

theorem clkGateLimitExpiry_completes {m : Fin 16} {idle : Bool} {s : State} :
    Completes (touches (.clkGateLimitExpiry m idle)) s (execClkGateLimitExpiry m idle s) :=
  .ite (.ite (.next (.only gateForce_keeps)) (.next (.after mbxSetResult_keeps (.either
    (.only gateClear_keeps) .rfl)))) .same

theorem clkRelease_completes {m : Fin 16} {s : State} :
    Completes (touches (.clkRelease m)) s (execClkRelease m s) :=
  .next (mbxRow_keeps (fun _ _ => .eitherFst (.only answer_keeps) (.after answer_keeps (.only safeRelease_keeps))) rfl)

theorem clkStatus_completes {m : Fin 16} {s : State} :
    Completes (touches (.clkStatus m)) s (execClkStatus m s) :=
  .next (mbxRow_keeps (fun _ _ => .only answerData_keeps) rfl)

theorem tsOutSecondsRollover_completes {s : State} :
    Completes (touches .tsOutSecondsRollover) s (execTsOutSecondsRollover s) :=
  .ite (.next (.only send_keeps)) .same

/-! ### The commands of Machine/Trust.lean -/

theorem fwStageIdleTimeout_completes {k : Fin 2} {s : State} :
    Completes (touches (.fwStageIdleTimeout k)) s (execFwStageIdleTimeout k s) :=
  .ite (.next (.only stageFail_keeps)) .same

theorem fwActivate_completes {m : Fin 16} {partnerReady : Bool} {s : State} :
    Completes (touches (.fwActivate m partnerReady)) s (execFwActivate m partnerReady s) :=
  .next (mbxRow_keeps (fun _ _ => .eitherFst (.only answer_keeps) (.eitherFst (.only answer_keeps) (.eitherFst
    (.only answer_keeps) (.after answer_keeps (.after slotRefresh_keeps (.only updSlots_keeps)))))) rfl)

theorem fwConfirm_completes {m : Fin 16} {s : State} :
    Completes (touches (.fwConfirm m)) s (execFwConfirm m s) :=
  .next (mbxRow_keeps (fun _ _ => .eitherFst (.only answer_keeps) (.eitherFst (.only answer_keeps) (.after answer_keeps
    (.only confirmTrial_keeps)))) rfl)

theorem fwAcceptAdd_completes {m : Fin 16} {s : State} :
    Completes (touches (.fwAcceptAdd m)) s (execFwAcceptAdd m s) :=
  .next (mbxRow_keeps (fun _ _ => .eitherFst (.only answer_keeps) (.after answer_keeps (.after listRefresh_keeps
    (.upd_nvAccepted .rfl rfl)))) rfl)

theorem fwAcceptRemove_completes {m : Fin 16} {s : State} :
    Completes (touches (.fwAcceptRemove m)) s (execFwAcceptRemove m s) :=
  .next (mbxRow_keeps (fun _ _ => .eitherFst (.after answer_keeps (.after listRefresh_keeps (.upd_nvAccepted .rfl rfl)))
    (.only answer_keeps)) rfl)

theorem fwCommitSvn_completes {m : Fin 16} {partnerTrial : Bool} {s : State} :
    Completes (touches (.fwCommitSvn m partnerTrial)) s (execFwCommitSvn m partnerTrial s) :=
  .next (mbxRow_keeps (fun _ _ => .eitherFst (.only answer_keeps)
    (.after answerData_keeps (.after listRefresh_keeps (.after slotRefresh_keeps (.after svnRefresh_keeps
      (.after dropOldSlots_keeps
      (.after dropOldSlots_keeps (.upd_svn ⟨Nat.le_max_left _ _, Nat.le_max_left _ _⟩ .rfl rfl rfl)))))))) rfl)

theorem spdmGetVersion_completes {p : Fin 4} {busy : Bool} {s : State} :
    Completes (touches (.spdmGetVersion p busy)) s (execSpdmGetVersion p busy s) :=
  .next (spdmServe_keeps (fun _ => .after spdmGive_keeps (.only setPhase_keeps)) rfl)

theorem spdmGetCapabilities_completes {p : Fin 4} {busy : Bool} {version : BitVec 8} {dts : Nat} {s : State} :
    Completes (touches (.spdmGetCapabilities p busy version dts)) s (execSpdmGetCapabilities p busy version dts s) :=
  .next (spdmServe_keeps (fun _ => .either (.only spdmErr_keeps) (.after spdmGive_keeps (.after setPhase_keeps
    (.upd_spdm .rfl rfl)))) rfl)

theorem spdmNegotiateAlgorithms_completes {p : Fin 4} {busy : Bool} {p384 : Bool} {sha : Bool} {secp : Bool} {aes : Bool} {s
  : State} :
    Completes (touches (.spdmNegotiateAlgorithms p busy p384 sha secp aes)) s
      (execSpdmNegotiateAlgorithms p busy p384 sha secp aes s) :=
  .next (spdmServe_keeps (fun _ => .after spdmGive_keeps (.only setPhase_keeps)) rfl)

theorem spdmGetDigests_completes {p : Fin 4} {busy : Bool} {s : State} :
    Completes (touches (.spdmGetDigests p busy)) s (execSpdmGetDigests p busy s) :=
  .next (spdmServe_keeps (fun _ => .only spdmGive_keeps) rfl)

theorem spdmGetCertificate_completes {p : Fin 4} {busy : Bool} {slot : Fin 8} {off : Nat} {len : Nat} {s : State} :
    Completes (touches (.spdmGetCertificate p busy slot off len)) s (execSpdmGetCertificate p busy slot off len s) :=
  .next (spdmServe_keeps (fun _ => .either (.only spdmErr_keeps) (.only spdmGive_keeps)) rfl)

theorem spdmChallenge_completes {p : Fin 4} {busy : Bool} {slot : Fin 8} {nonce : List Byte} {s : State} :
    Completes (touches (.spdmChallenge p busy slot nonce)) s (execSpdmChallenge p busy slot nonce s) :=
  .next (spdmServe_keeps (fun _ => .either (.only spdmErr_keeps) (.only signed_keeps)) rfl)

theorem spdmGetMeasurements_completes {p : Fin 4} {busy : Bool} {idx : BitVec 8} {nonce : List Byte} {s : State} :
    Completes (touches (.spdmGetMeasurements p busy idx nonce)) s (execSpdmGetMeasurements p busy idx nonce s) :=
  .next (spdmServe_keeps (fun _ => .either (.only spdmErr_keeps) (.only signed_keeps)) rfl)

theorem spdmKeyExchange_completes {p : Fin 4} {busy : Bool} {purpose : BitVec 8} {s : State} :
    Completes (touches (.spdmKeyExchange p busy purpose)) s (execSpdmKeyExchange p busy purpose s) :=
  .next (spdmServe_keeps (fun _ => .either (.after spdmErr_keeps (.only raise_keeps)) (.either (.only spdmErr_keeps)
    (.after spdmGive_keeps (.upd_spdm .rfl rfl)))) rfl)

theorem spdmFinish_completes {p : Fin 4} {busy : Bool} {sid : Nat} {root : List Byte} {p384 : Bool} {sigOk : Bool} {s :
  State} :
    Completes (touches (.spdmFinish p busy sid root p384 sigOk)) s (execSpdmFinish p busy sid root p384 sigOk s) := by
  unfold execSpdmFinish
  dsimp -proj only
  refine .next ?_
  refine spdmServe_keeps ?_ rfl
  intro _
  split
  · exact .only spdmErr_keeps
  · exact .either (.only spdmErr_keeps) (.either (.eitherOp (fun _ => .only askPeer_keeps) (fun _ => .rfl)
      (.after spdmGive_keeps (.upd_spdm .rfl rfl))) (.after spdmErr_keeps (.only sessEnd_keeps)))

theorem spdmHeartbeat_completes {p : Fin 4} {busy : Bool} {sid : Nat} {s : State} :
    Completes (touches (.spdmHeartbeat p busy sid)) s (execSpdmHeartbeat p busy sid s) :=
  .next (inSession_keeps (fun _ => .only spdmGive_keeps) rfl)

theorem spdmKeyUpdate_completes {p : Fin 4} {busy : Bool} {sid : Nat} {op : BitVec 8} {tag : BitVec 8} {s : State} :
    Completes (touches (.spdmKeyUpdate p busy sid op tag)) s (execSpdmKeyUpdate p busy sid op tag s) :=
  .next (inSession_keeps (fun _ => .either (.only spdmGive_keeps) (.only spdmErr_keeps)) rfl)

theorem spdmEndSession_completes {p : Fin 4} {busy : Bool} {sid : Nat} {s : State} :
    Completes (touches (.spdmEndSession p busy sid)) s (execSpdmEndSession p busy sid s) :=
  .next (inSession_keeps (fun _ => .after sessEnd_keeps (.only spdmGive_keeps)) rfl)

theorem spdmChunkSend_completes {p : Fin 4} {busy : Bool} {seq : Nat} {last : Bool} {data : List Byte} {s : State} :
    Completes (touches (.spdmChunkSend p busy seq last data)) s (execSpdmChunkSend p busy seq last data s) :=
  .next (spdmServe_keeps (fun _ => .either (.after spdmErr_keeps (.upd_spdm .rfl rfl)) (.after spdmGive_keeps
    (.upd_spdm .rfl rfl))) rfl)

theorem spdmChunkGet_completes {p : Fin 4} {busy : Bool} {seq : Nat} {s : State} :
    Completes (touches (.spdmChunkGet p busy seq)) s (execSpdmChunkGet p busy seq s) := by
  unfold execSpdmChunkGet
  dsimp -proj only
  refine .next ?_
  refine spdmServe_keeps ?_ rfl
  intro _
  split
  · exact .only spdmErr_keeps
  · exact .either (.only spdmErr_keeps) (.after send_keeps (.upd_spdm .rfl rfl))

theorem spdmUnsupportedRequest_completes {p : Fin 4} {busy : Bool} {code : BitVec 8} {s : State} :
    Completes (touches (.spdmUnsupportedRequest p busy code)) s (execSpdmUnsupportedRequest p busy code s) :=
  .ite .same (.next (spdmServe_keeps (fun _ => .only spdmErr_keeps) rfl))

theorem spdmHeartbeatLapse_completes {sid : Nat} {s : State} :
    Completes (touches (.spdmHeartbeatLapse sid)) s (execSpdmHeartbeatLapse sid s) :=
  .next (.only sessEnd_keeps)

/-! ### The commands of Machine/Mailbox.lean -/

theorem mbxMessageArrival_completes {t : Fin 3} {body : List Byte} {s : State} :
    Completes (touches (.mbxMessageArrival t body)) s (execMbxMessageArrival t body s) := by
  unfold execMbxMessageArrival
  refine .ite .same ?_
  refine .ite (.next (.only arrive_keeps)) ?_
  refine .ite ?_ (.ite (.next (.only arrive_keeps)) .same)
  split
  · exact .next (.only arrive_keeps)
  · exact .same

theorem mbxDoorbell_completes {p : Path} {m : Fin 16} {s : State} :
    Completes (touches (.mbxDoorbell p m)) s (execMbxDoorbell p m s) :=
  .next (busAct_keeps (fun _ => acc_keeps (fun _ => .only doorbell_keeps) rfl) rfl)

theorem mbxRelease_completes {p : Path} {m : Fin 16} {s : State} :
    Completes (touches (.mbxRelease p m)) s (execMbxRelease p m s) :=
  .next (busAct_keeps (fun _ => acc_keeps (fun _ => .only release_keeps) rfl) rfl)

theorem mbxReset_completes {p : Path} {m : Fin 16} {s : State} :
    Completes (touches (.mbxReset p m)) s (execMbxReset p m s) :=
  .next (busAct_keeps (fun _ => acc_keeps (fun _ => .only mbxResetTo_keeps) rfl) rfl)

theorem mbxHandlerTake_completes {m : Fin 16} {moved : Option Nat} {host : List Host.Cell} {s : State} :
    Completes (touches (.mbxHandlerTake m moved host)) s (execMbxHandlerTake m moved host s) :=
  .ite (.next (.after handlerTake_keeps (.only hostPlaces_keeps))) .same

theorem mbxComplete_completes {m : Fin 16} {moved : Option Nat} {s : State} :
    Completes (touches (.mbxComplete m moved)) s (execMbxComplete m moved s) := by
  unfold execMbxComplete
  split
  · exact .ite (.next (.only complete_keeps)) .same
  · exact .same

theorem mailboxSend_completes {c : NvmeCmd} {s : State} :
    Completes (touches (.mailboxSend c)) s (execMailboxSend c s) := by
  unfold execMailboxSend
  dsimp -proj only
  refine .next ?_
  refine nvRow_keeps ?_ rfl
  intro _ _ _
  refine .either (.only nvErr_keeps) ?_
  refine .either (.only nvDone_keeps) ?_
  refine .either (.only nvDone_keeps) ?_
  split
  · exact .only nvDone_keeps
  · exact .after nvPost_keeps (.only post_keeps)

theorem mailboxReceive_completes {c : NvmeCmd} {s : State} :
    Completes (touches (.mailboxReceive c)) s (execMailboxReceive c s) :=
  .next (nvRow_keeps (fun _ _ _ => .either (.only nvErr_keeps) (.either (.only nvErr_keeps) (.either
    (.only receiveServe_keeps) (.only updCtrl_keeps)))) rfl)

theorem nop_completes {m : Fin 16} {s : State} :
    Completes (touches (.nop m)) s (execNop m s) :=
  .next (mbxRow_keeps (fun _ _ => .only answer_keeps) rfl)

theorem identify_completes {m : Fin 16} {s : State} :
    Completes (touches (.identify m)) s (execIdentify m s) :=
  .next (mbxRow_keeps (fun _ _ => .only answerData_keeps) rfl)

theorem fence_completes {m : Fin 16} {s : State} :
    Completes (touches (.fence m)) s (execFence m s) :=
  .next (mbxRow_keeps (fun _ _ => .rfl) rfl)

theorem fenceConditionsMet_completes {m : Fin 16} {s : State} :
    Completes (touches (.fenceConditionsMet m)) s (execFenceConditionsMet m s) := by
  unfold execFenceConditionsMet
  split
  · exact .ite (.next (.only mbxFenceEnd_keeps)) .same
  · exact .same

theorem fenceLimitExpiry_completes {m : Fin 16} {s : State} :
    Completes (touches (.fenceLimitExpiry m)) s (execFenceLimitExpiry m s) :=
  .ite (.next (.only mbxFenceEnd_keeps)) .same

theorem expertEnable_completes {m : Fin 16} {s : State} :
    Completes (touches (.expertEnable m)) s (execExpertEnable m s) := by
  unfold execExpertEnable
  dsimp -proj only
  refine .next ?_
  refine mbxRow_keeps ?_ rfl
  intro _ _
  split
  · exact .eitherFst (.after answer_keeps (.upd_grants .rfl rfl)) (.only answer_keeps)
  · exact .only answer_keeps

theorem expertDisable_completes {m : Fin 16} {s : State} :
    Completes (touches (.expertDisable m)) s (execExpertDisable m s) :=
  .next (mbxRow_keeps (fun _ _ => .after answer_keeps (.only dropGrants_keeps)) rfl)

theorem expertRootAdd_completes {m : Fin 16} {s : State} :
    Completes (touches (.expertRootAdd m)) s (execExpertRootAdd m s) :=
  .next (mbxRow_keeps (fun _ _ => .eitherFst (.only answer_keeps) (.eitherFst (.only answer_keeps) (.eitherFst
    (.only answer_keeps) (.after answer_keeps (.only setRoots_keeps))))) rfl)

theorem expertRootRemove_completes {m : Fin 16} {s : State} :
    Completes (touches (.expertRootRemove m)) s (execExpertRootRemove m s) :=
  .next (mbxRow_keeps (fun _ _ => .eitherFst (.after answer_keeps (.only setRoots_keeps)) (.only answer_keeps)) rfl)

theorem violRead_completes {m : Fin 16} {s : State} :
    Completes (touches (.violRead m)) s (execViolRead m s) :=
  .next (mbxRow_keeps (fun _ _ => .only answerData_keeps) rfl)

theorem forwardedRequestReceived_completes {req : Nat} {body : FwdReqBody} {s : State} :
    Completes (touches (.forwardedRequestReceived req body)) s (execForwardedRequestReceived req body s) := by
  unfold execForwardedRequestReceived
  dsimp -proj only
  refine .ite .same ?_
  split
  · split
    · exact .next (.only replyPartner_keeps)
    · exact .ite (.next (.only replyPartner_keeps)) (.ite .same (.next (.only hostArrives_keeps)))
  · exact .ite (.next (.only replyPartner_keeps)) (.next (.only replyPartner_keeps))
  · exact .ite (.next (.only replyPartner_keeps)) (.ite (.next (.only replyPartner_keeps)) (.ite (.next
      (.only replyPartner_keeps)) (.next (.eitherOp (fun _ => .only wakeRequest_keeps) (fun _ => .rfl) (.upd_fs
      (modAt_length _ _ _) .rfl rfl)))))
  · exact .next (.only arrive_keeps)

/-! ### The commands of Machine/Registers.lean -/

theorem regRead_completes {m : Fin 16} {s : State} :
    Completes (touches (.regRead m)) s (execRegRead m s) :=
  .next (mbxAgain_keeps (fun _ _ => .eitherFst (.only answer_keeps) (.eitherFst (.only answer_keeps)
    (.only readWords_keeps))) rfl)

theorem regWrite_completes {m : Fin 16} {env : RegEnv} {s : State} :
    Completes (touches (.regWrite m env)) s (execRegWrite m env s) :=
  .next (mbxAgain_keeps (fun _ _ => .eitherFst (.only answer_keeps) (.only writeWords_keeps)) rfl)

theorem registerWrite_completes {p : Path} {ok : Bool} {a : BitVec 32} {w : BitVec 32} {w2 : Option
  (BitVec 32)} {env : RegEnv} {s : State} :
    Completes (touches (.registerWrite p ok a w w2 env)) s (execRegisterWrite p ok a w w2 env s) := by
  unfold execRegisterWrite
  dsimp -proj only
  refine .ite ?_ (.next (.only badRequest_keeps))
  refine .next ?_
  split
  · exact .after busWrite_keeps (.only busWrite_keeps)
  · exact .only busWrite_keeps

theorem counterLoRead_completes {p : Path} {a : BitVec 32} {s : State} :
    Completes (touches (.counterLoRead p a)) s (execCounterLoRead p a s) :=
  .ite (.next (.only busRead_keeps)) .same

theorem counterSatClear_completes {p : Path} {a : BitVec 32} {s : State} :
    Completes (touches (.counterSatClear p a)) s (execCounterSatClear p a s) :=
  .ite (.next (.only busWrite_keeps)) .same

theorem fsActRdreg_completes {a : Fin 4} {s : State} :
    Completes (touches (.fsActRdreg a)) s (execFsActRdreg a s) := by
  refine .next (fsAct_keeps (fun w x => ?_) rfl)
  split
  next s1 h => exact .of_fst h (.only regRead_keeps)
  next s1 y h =>
    exact .onto (.either (.only grPut_keeps) (.either (.only reachCheck_keeps) (.after grPut_keeps (.only takeFree_keeps))))
      (.of_fst h (.only regRead_keeps))

theorem fsActWrreg_completes {a : Fin 4} {env : RegEnv} {s : State} :
    Completes (touches (.fsActWrreg a env)) s (execFsActWrreg a env s) := by
  refine .next (fsAct_keeps (fun w x => ?_) rfl)
  split
  next s1 st h => exact .onto (.either (.only reachCheck_keeps) .rfl) (.of_fst h (.only regWrite_keeps))
  next s1 h => exact .of_fst h (.only regWrite_keeps)

theorem registerRead_completes {p : Path} {ok : Bool} {a : BitVec 32} {two : Bool} {s : State} :
    Completes (touches (.registerRead p ok a two)) s (execRegisterRead p ok a two s) :=
  .ite (.next (.onto (.either (.only busRead_keeps) .rfl) (.only busRead_keeps))) (.next (.only badRequest_keeps))

/-! ### The commands of Machine/PaLink.lean -/

theorem paReplyReceived_completes {p : Fin 16} {reply : Option (BitVec 32)} {s : State} :
    Completes (touches (.paReplyReceived p reply)) s (execPaReplyReceived p reply s) := by
  unfold execPaReplyReceived
  dsimp -proj only
  split
  · exact .same
  · exact .ite (.next (.after gateOpen_keeps (.after paNext_keeps (.after paReply_keeps (.only updPa_keeps))))) (.ite
      (.next (.after send_keeps (.only updPa_keeps))) (.next (.only paFail_keeps)))

theorem paFltAssert_completes {p : Fin 16} {s : State} :
    Completes (touches (.paFltAssert p)) s (execPaFltAssert p s) :=
  .ite .same (.next (.foldl (fun _ _ => .only paSend_keeps) (.onto (.either (.only stopPa_keeps) .rfl) (.only setF_keeps))))

theorem paClaimRetryTimer_completes {p : Fin 16} {s : State} :
    Completes (touches (.paClaimRetryTimer p)) s (execPaClaimRetryTimer p s) :=
  .ite (.next (.only paClaim_keeps)) .same

theorem hcPaRawTxWrite_completes {p : Path} {n : Fin 16} {w : BitVec 32} {s : State} :
    Completes (touches (.hcPaRawTxWrite p n w)) s (execHcPaRawTxWrite p n w s) :=
  .next (busAct_keeps (fun _ => acc_keeps (fun _ => .only paSend_keeps) rfl) rfl)

/-! ### The commands of Machine/Head.lean -/

theorem sectorFramed_completes {h : Fin 144} {k : Fin 1024} {g : SectorHead} {s : State} :
    Completes (touches (.sectorFramed h k g)) s (execSectorFramed h k g s) := by
  unfold execSectorFramed
  dsimp -proj only
  split
  · exact .same
  · exact .ite .same (.ite (.next (.after raise_keeps (.only sectorHead_keeps))) (.ite (.next (.after sectorLeave_keeps
      (.after toLadder_keeps (.after updHead_keeps (.only sectorHead_keeps))))) (.next (.eitherOp
      (fun _ => .only smFallback_keeps) (fun _ => .rfl) (.after setF_keeps (.after updHead_keeps (.after updHead_keeps
      (.only sectorHead_keeps))))))))

theorem taStart_completes {h : Fin 144} {place : Nat} {mean : Int} {run : Nat} {s : State} :
    Completes (touches (.taStart h place mean run)) s (execTaStart h place mean run s) :=
  .ite .same (.next (.after headStat_keeps (.after satF_keeps (.after setF_keeps (.only updHead_keeps)))))

theorem taEnd_completes {h : Fin 144} {place : Nat} {mean : Int} {run : Nat} {s : State} :
    Completes (touches (.taEnd h place mean run)) s (execTaEnd h place mean run s) :=
  .ite .same (.next (.only updHead_keeps))

theorem sectorEnd_completes {h : Fin 144} {f0 : List Int} {parts : List SectorPart} {s : State} :
    Completes (touches (.sectorEnd h f0 parts)) s (execSectorEnd h f0 parts s) := by
  unfold execSectorEnd
  dsimp -proj only
  split
  · exact .same
  · exact .ite (.next (.after raise_keeps (.after headStat_keeps (.after setF_keeps (.after sectorAgain_keeps
      (.after sectorDone_keeps (.only sectorBody_keeps))))))) (.next (.after poolShow_keeps (.after updHead_keeps
      (.upd_pool (.after sectorDone_keeps (.only sectorBody_keeps)) rfl))))

theorem decoderTake_completes {d : Fin 80} {s : State} :
    Completes (touches (.decoderTake d)) s (execDecoderTake d s) := by
  unfold execDecoderTake
  dsimp -proj only
  split
  · exact .same
  · exact .ite .same (.next (.after poolShow_keeps (.upd_pool .rfl rfl)))

theorem codewordDecodeDone_completes {d : Fin 80} {s : State} :
    Completes (touches (.codewordDecodeDone d)) s (execCodewordDecodeDone d s) := by
  unfold execCodewordDecodeDone
  dsimp -proj only
  split
  · exact .same
  · split
    · exact .next (.after sectorSettle_keeps (.after cwKept_keeps (.after poolShow_keeps (.upd_pool .rfl rfl))))
    · exact .ite (.next (.after storePut_keeps (.onto (.either .rfl (.only count_keeps)) (.after poolShow_keeps
        (.upd_pool .rfl rfl))))) (.ite (.next (.after cwFailed_keeps (.onto (.either .rfl (.only count_keeps))
        (.after poolShow_keeps (.upd_pool .rfl rfl))))) (.next (.after cwFailed_keeps (.after storePut_keeps (.onto
        (.either .rfl (.only count_keeps)) (.after poolShow_keeps (.upd_pool .rfl rfl)))))))

theorem retryStoreRedecode_completes {d : Fin 80} {s : State} :
    Completes (touches (.retryStoreRedecode d)) s (execRetryStoreRedecode d s) := by
  unfold execRetryStoreRedecode
  dsimp -proj only
  split
  · exact .same
  · exact .ite .same (.next (.after poolShow_keeps (.upd_pool .rfl rfl)))

theorem ladderStep_completes {h : Fin 144} {sid : BitVec 64} {g : SectorHead} {f0 : List Int} {parts : List SectorPart} {s :
  State} :
    Completes (touches (.ladderStep h sid g f0 parts)) s (execLadderStep h sid g f0 parts s) := by
  unfold execLadderStep
  dsimp -proj only
  split
  · exact .same
  · refine .ite .same ?_
    split
    · exact .next (.only ladderRead_keeps)
    · refine .ite (.next (.after ladderShow_keeps (.after sectorGood_keeps (.only ladderRead_keeps)))) ?_
      split
      · exact .next (.after ladderShow_keeps (.after updHead_keeps (.only ladderRead_keeps)))
      · exact .next (.after ladderShow_keeps (.after sectorLost_keeps (.only ladderRead_keeps)))

theorem ladderAbandon_completes {h : Fin 144} {s : State} :
    Completes (touches (.ladderAbandon h)) s (execLadderAbandon h s) :=
  .ite .same (.next (.after ladderShow_keeps (.foldl (fun _ _ => .only sectorLost_keeps) .rfl)))

theorem writeUnsafe_completes {h : Fin 144} {s : State} :
    Completes (touches (.writeUnsafe h)) s (execWriteUnsafe h s) :=
  .ite (.next (.only unsafeAct_keeps)) .same

theorem heaterLeadExpiry_completes {h : Fin 144} {s : State} :
    Completes (touches (.heaterLeadExpiry h)) s (execHeaterLeadExpiry h s) := by
  unfold execHeaterLeadExpiry
  split
  · exact .ite (.next (.only updHead_keeps)) .same
  · exact .same

theorem heaterCalStep_completes {h : Fin 144} {gain : BitVec 8} {margin : BitVec 8} {allowance : BitVec 8} {s : State} :
    Completes (touches (.heaterCalStep h gain margin allowance)) s (execHeaterCalStep h gain margin allowance s) := by
  unfold execHeaterCalStep
  dsimp -proj only
  split
  · exact .same
  · exact .ite (.next (.after calEnd_keeps (.after heater_keeps (.after setF_keeps (.only setF_keeps))))) (.ite (.next
      (.after calEnd_keeps (.only heater_keeps))) (.next (.after heater_keeps (.only updHead_keeps))))

theorem hcCalibrate_completes {m : Fin 16} {channel : BitVec 144} {s : State} :
    Completes (touches (.hcCalibrate m channel)) s (execHcCalibrate m channel s) :=
  .next (mbxRow_keeps (fun _ _ => .eitherFst (.only answer_keeps) (.eitherFst (.only answer_keeps) (.eitherFst
    (.only answer_keeps) (.eitherFst (.foldl (fun _ _ => .eitherOp (fun _ => .only setF_keeps)
    (fun _ => .only mirrorHead_keeps) (.only updHead_keeps)) .rfl) (.after answerData_keeps (.foldl (fun _ _ => .eitherOp
    (fun _ => .only setF_keeps) (fun _ => .only mirrorHead_keeps) (.only updHead_keeps)) .rfl)))))) rfl)

theorem hcService_completes {m : Fin 16} {s : State} :
    Completes (touches (.hcService m)) s (execHcService m s) :=
  .next (mbxRow_keeps (fun _ _ => .eitherFst (.only answer_keeps) (.eitherFst (.only answer_keeps) (.eitherFst
    (.after answer_keeps (.after liftEscalation_keeps (.after liftEscalation_keeps (.only setF_keeps))))
    (.after answer_keeps (.only setF_keeps))))) rfl)

theorem hcStats_completes {m : Fin 16} {s : State} :
    Completes (touches (.hcStats m)) s (execHcStats m s) :=
  .next (mbxRow_keeps (fun _ _ => .eitherFst (.only answer_keeps) (.only answerData_keeps)) rfl)

theorem hcCommit_completes {p : Path} {w : BitVec 4} {s : State} :
    Completes (touches (.hcCommit p w)) s (execHcCommit p w s) :=
  .next (busAct_keeps (fun _ => acc_keeps (fun _ => .foldl (fun _ _ => .either (.only hcCommit_keeps) .rfl) .rfl) rfl) rfl)

/-! ### The commands of Machine/Servo.lean -/

theorem wedgeSample_completes {h : Fin 144} {g : Wedge} {s : State} :
    Completes (touches (.wedgeSample h g)) s (execWedgeSample h g s) :=
  .ite .same (.ite (.next (.after stopHead_keeps (.onto (.either (.only send_keeps) .rfl) (.after updHead_keeps (.onto
    (.either (.only takeFree_keeps) .rfl) (.after setB_keeps (.after maSample_keeps (.eitherOp
    (fun _ => .only wedgeMissed_keeps) (fun _ => .only wedgeValid_keeps) (.eitherOp (fun _ => .only srvStat_keeps)
    (fun _ => .rfl) (.eitherOp (fun _ => .only freeF_keeps) (fun _ => .only setF_keeps) (.after setF_keeps
    (.only setF_keeps)))))))))))) (.next (.onto (.either (.only send_keeps) .rfl) (.onto (.either (.only send_keeps) .rfl)
    (.after updHead_keeps (.onto (.either (.only takeFree_keeps) .rfl) (.after setB_keeps (.after maSample_keeps (.eitherOp
    (fun _ => .only wedgeMissed_keeps) (fun _ => .only wedgeValid_keeps) (.eitherOp (fun _ => .only srvStat_keeps)
    (fun _ => .rfl) (.eitherOp (fun _ => .only freeF_keeps) (fun _ => .only setF_keeps) (.after setF_keeps
    (.only setF_keeps)))))))))))))

theorem fsZtCommit_completes {p : Path} {a : Fin 4} {s : State} :
    Completes (touches (.fsZtCommit p a)) s (execFsZtCommit p a s) :=
  .next (busAct_keeps (fun _ => acc_keeps (fun _ => .only zoneCommit_keeps) rfl) rfl)

theorem zoneMemoryWrite_completes {p : Path} {a : Fin 4} {k : Fin 8128} {w : BitVec 32} {s : State} :
    Completes (touches (.zoneMemoryWrite p a k w)) s (execZoneMemoryWrite p a k w s) :=
  .next (busAct_keeps (fun _ => acc_keeps (fun _ => .only zoneStore_keeps) rfl) rfl)

/-! ### The commands of Machine/Fseq.lean -/

theorem fsWordComplete_completes {a : Fin 4} {rev : Bool} {wedge : Bool} {sector : Bool} {slots : Nat} {upset : BitVec 104}
  {s : State} :
    Completes (touches (.fsWordComplete a rev wedge sector slots upset)) s (execFsWordComplete a rev wedge sector slots
      upset s) := by
  unfold execFsWordComplete
  dsimp -proj only
  refine .ite .same ?_
  split
  · exact .next (.after revPass_keeps (.only slotsPass_keeps))
  · exact .ite (.next (.after wordEnd_keeps (.after revPass_keeps (.only slotsPass_keeps)))) (.next (.after revPass_keeps
      (.only slotsPass_keeps)))

theorem fsWordTimeout_completes {a : Fin 4} {rev : Bool} {upset : BitVec 104} {s : State} :
    Completes (touches (.fsWordTimeout a rev upset)) s (execFsWordTimeout a rev upset s) := by
  unfold execFsWordTimeout
  split
  · exact .same
  · exact .ite (.next (.only wordEnd_keeps)) .same

theorem fsMchkReloadDone_completes {a : Fin 4} {s : State} :
    Completes (touches (.fsMchkReloadDone a)) s (execFsMchkReloadDone a s) :=
  .ite (.next (.only fsLoad_keeps)) .same

theorem fsActNop_completes {a : Fin 4} {s : State} :
    Completes (touches (.fsActNop a)) s (execFsActNop a s) :=
  .next (fsAct_keeps (fun _ _ => .rfl) rfl)

theorem fsActAlu_completes {a : Fin 4} {s : State} :
    Completes (touches (.fsActAlu a)) s (execFsActAlu a s) :=
  .next (fsAct_keeps (fun _ _ => .only aluPut_keeps) rfl)

theorem fsActAlui_completes {a : Fin 4} {s : State} :
    Completes (touches (.fsActAlui a)) s (execFsActAlui a s) :=
  .next (fsAct_keeps (fun _ _ => .only aluPut_keeps) rfl)

theorem fsActZload_completes {a : Fin 4} {s : State} :
    Completes (touches (.fsActZload a)) s (execFsActZload a s) :=
  .next (fsAct_keeps (fun _ _ => .after updFs_keeps (.after pllStore_keeps (.foldl
    (fun _ _ => .only zoneHead_keeps) .rfl))) rfl)

theorem fsActPacmd_completes {a : Fin 4} {s : State} :
    Completes (touches (.fsActPacmd a)) s (execFsActPacmd a s) :=
  .next (fsAct_keeps (fun _ _ => .foldl (fun _ _ => .either (.only paSend_keeps) .rfl) (.only updFs_keeps)) rfl)

theorem fsActArm_completes {a : Fin 4} {pos : Nat} {s : State} :
    Completes (touches (.fsActArm a pos)) s (execFsActArm a pos s) := by
  unfold execFsActArm
  dsimp -proj only
  refine .next ?_
  refine fsAct_keeps ?_ rfl
  intro _ _
  split
  · exact .only updBand_keeps
  · exact .onto (.either (.only armWrite_keeps) (.only armRead_keeps)) (.only updBand_keeps)

theorem fsActGate_completes {a : Fin 4} {s : State} :
    Completes (touches (.fsActGate a)) s (execFsActGate a s) := by
  unfold execFsActGate
  dsimp -proj only
  refine .next ?_
  refine fsAct_keeps ?_ rfl
  intro _ _
  split
  · exact .rfl
  · exact .either .rfl (.after gateOpen_keeps (.foldl (fun _ _ => .only unsafeAct_keeps) (.after updBand_keeps
      (.upd_pins .rfl rfl))))

theorem fsActPost_completes {a : Fin 4} {s : State} :
    Completes (touches (.fsActPost a)) s (execFsActPost a s) :=
  .next (fsAct_keeps (fun _ _ => .only bandEnd_keeps) rfl)

theorem fsActFetch_completes {a : Fin 4} {s : State} :
    Completes (touches (.fsActFetch a)) s (execFsActFetch a s) :=
  .next (fsAct_keeps (fun _ _ => .either (.only updFs_keeps) (.only takeDesc_keeps)) rfl)

theorem fsActSeek_completes {a : Fin 4} {s : State} :
    Completes (touches (.fsActSeek a)) s (execFsActSeek a s) :=
  .next (fsAct_keeps (fun _ _ => .either .rfl (.foldl (fun _ _ => .only updHead_keeps) (.after updVcm_keeps
    (.after setF_keeps (.only setF_keeps))))) rfl)

theorem fsActHalt_completes {a : Fin 4} {s : State} :
    Completes (touches (.fsActHalt a)) s (execFsActHalt a s) :=
  .next (fsAct_keeps (fun _ _ => .only fsStop_keeps) rfl)

theorem fsResume_completes {p : Path} {a : Fin 4} {s : State} :
    Completes (touches (.fsResume p a)) s (execFsResume p a s) :=
  .next (busAct_keeps (fun _ => acc_keeps (fun _ => .only fsResume_keeps) rfl) rfl)

theorem fsHalt_completes {p : Path} {a : Fin 4} {s : State} :
    Completes (touches (.fsHalt p a)) s (execFsHalt p a s) :=
  .next (busAct_keeps (fun _ => acc_keeps (fun _ => .only fsHalt_keeps) rfl) rfl)

theorem fsTrcFreezeWrite_completes {p : Path} {a : Fin 4} {freeze : Bool} {s : State} :
    Completes (touches (.fsTrcFreezeWrite p a freeze)) s (execFsTrcFreezeWrite p a freeze s) :=
  .next (busAct_keeps (fun _ => acc_keeps (fun _ => .only trcFreeze_keeps) rfl) rfl)

theorem fsTrcDataRead_completes {p : Path} {a : Fin 4} {s : State} :
    Completes (touches (.fsTrcDataRead p a)) s (execFsTrcDataRead p a s) :=
  .next (busGet_keeps (fun _ => .only trcRead_keeps) rfl)

theorem fsZoneLoad_completes {m : Fin 16} {s : State} :
    Completes (touches (.fsZoneLoad m)) s (execFsZoneLoad m s) :=
  .next (mbxRow_keeps (fun _ _ => .eitherFst (.only answer_keeps) (.eitherFst (.only answer_keeps) (.eitherFst
    (.after updFs_keeps (.only setF_keeps)) (.after setF_keeps (.after zoneCommit_keeps (.after setF_keeps
    (.after memWrite_keeps (.after updFs_keeps (.after updFs_keeps (.only setF_keeps)))))))))) rfl)

theorem fsTraceRead_completes {m : Fin 16} {s : State} :
    Completes (touches (.fsTraceRead m)) s (execFsTraceRead m s) :=
  .next (mbxRow_keeps (fun _ _ => .eitherFst (.only answer_keeps) (.after answerData_keeps (.only traceBytes_keeps))) rfl)

theorem srvStats_completes {m : Fin 16} {s : State} :
    Completes (touches (.srvStats m)) s (execSrvStats m s) :=
  .next (mbxRow_keeps (fun _ _ => .eitherFst (.only answer_keeps) (.only answerData_keeps)) rfl)

/-! ### The commands of Machine/Drive.lean -/

theorem carrierPeriod_completes {x : Carrier} {s : State} :
    Completes (touches (.carrierPeriod x)) s (execCarrierPeriod x s) :=
  .ite .same (.next (.after fanLoop_keeps (.after fanLoop_keeps (.after fanLoop_keeps (.after fanLoop_keeps
    (.after vcmLoop_keeps (.after vcmLoop_keeps (.after vcmLoop_keeps (.after vcmLoop_keeps (.after spnLoop_keeps
    (.only spnSources_keeps)))))))))))

theorem encoderReadmit_completes {s : State} :
    Completes (touches .encoderReadmit) s (execEncoderReadmit s) :=
  .ite (.next (.eitherOp (fun _ => .only setF_keeps) (fun _ => .rfl) (.only updSpn_keeps))) .same

/-! ### The commands of Machine/Vcm.lean -/

theorem vcmLoopSample_completes {a : Fin 4} {w : BitVec 10} {omega : Int} {alpha : Int} {ff : BitVec 16} {s : State} :
    Completes (touches (.vcmLoopSample a w omega alpha ff)) s (execVcmLoopSample a w omega alpha ff s) := by
  unfold execVcmLoopSample
  dsimp -proj only
  refine .ite .same ?_
  split
  · exact .next (.onto (.either (.only nalSend_keeps) .rfl) (.after vcmSample_keeps (.onto (.either
      (.only vcmShock_keeps) .rfl) (.onto (.either (.only vcmShock_keeps) .rfl) (.onto (.either
      (.only vcmShock_keeps) .rfl) (.onto (.either (.only vcmShock_keeps) .rfl) .rfl))))))
  · exact .next (.after vcmSample_keeps (.onto (.either (.only vcmShock_keeps) .rfl) (.onto (.either
      (.only vcmShock_keeps) .rfl) (.onto (.either (.only vcmShock_keeps) .rfl) (.onto (.either
      (.only vcmShock_keeps) .rfl) .rfl)))))

theorem cleOutputLate_completes {l : Fin 9} {i : Fin 36} {s : State} :
    Completes (touches (.cleOutputLate l i)) s (execCleOutputLate l i s) :=
  .ite .same (.ite (.next (.after vcmUnsafe_keeps (.after setF_keeps (.after updVcm_keeps (.after raise_keeps
    (.after setF_keeps (.only count_keeps))))))) (.ite (.next (.after vcmUnsafe_keeps (.after setF_keeps
    (.after updHead_keeps (.after raise_keeps (.after setF_keeps (.only count_keeps))))))) (.next (.upd_pair
    (.after updSpn_keeps (.after raise_keeps (.after setF_keeps (.only count_keeps)))) rfl))))

theorem cleSwapReq_completes {p : Path} {l : Fin 9} {s : State} :
    Completes (touches (.cleSwapReq p l)) s (execCleSwapReq p l s) :=
  .next (busAct_keeps (fun _ => acc_keeps (fun _ => .only swapReq_keeps) rfl) rfl)

theorem cleCommit_completes {p : Path} {s : State} :
    Completes (touches (.cleCommit p)) s (execCleCommit p s) :=
  .next (busAct_keeps (fun _ => acc_keeps (fun _ => .only setF_keeps) rfl) rfl)

theorem allHeadsLostTimeout_completes {a : Fin 4} {s : State} :
    Completes (touches (.allHeadsLostTimeout a)) s (execAllHeadsLostTimeout a s) :=
  .ite (.next (.after raise_keeps (.only retract_keeps))) .same

theorem motHeadsLoad_completes {m : Fin 16} {s : State} :
    Completes (touches (.motHeadsLoad m)) s (execMotHeadsLoad m s) :=
  .next (mbxRow_keeps (fun _ _ => .eitherFst (.only answer_keeps) (.eitherFst (.only answer_keeps) (.eitherFst
    (.only answer_keeps) (.eitherFst (.only answer_keeps) (.after loadHeads_keeps (.only liftEscalation_keeps)))))) rfl)

theorem motHeadsUnload_completes {m : Fin 16} {s : State} :
    Completes (touches (.motHeadsUnload m)) s (execMotHeadsUnload m s) :=
  .next (mbxRow_keeps (fun _ _ => .eitherFst (.only answer_keeps) (.eitherFst (.only answer_keeps) (.eitherFst
    (.only unloadHeads_keeps) (.after answer_keeps (.only unloadHeads_keeps))))) rfl)

theorem headLoadDone_completes {a : Fin 4} {band : BitVec 24} {s : State} :
    Completes (touches (.headLoadDone a band)) s (execHeadLoadDone a band s) :=
  .ite (.next (.after headsFinish_keeps (.after bandShow_keeps (.after heatersOn_keeps (.only setF_keeps))))) .same

theorem vcmRetractWrite_completes {p : Path} {a : Fin 4} {s : State} :
    Completes (touches (.vcmRetractWrite p a)) s (execVcmRetractWrite p a s) :=
  .next (busAct_keeps (fun _ => acc_keeps (fun _ => .either (.only retract_keeps) .rfl) rfl) rfl)

theorem retractRampDetected_completes {a : Fin 4} {s : State} :
    Completes (touches (.retractRampDetected a)) s (execRetractRampDetected a s) :=
  .ite (.next (.only updVcm_keeps)) .same

theorem motStatus_completes {m : Fin 16} {s : State} :
    Completes (touches (.motStatus m)) s (execMotStatus m s) :=
  .next (mbxRow_keeps (fun _ _ => .only answerData_keeps) rfl)

theorem motTableLoad_completes {m : Fin 16} {s : State} :
    Completes (touches (.motTableLoad m)) s (execMotTableLoad m s) :=
  .next (mbxRow_keeps (fun _ _ => .eitherFst (.only answer_keeps) (.eitherFst (.only answer_keeps) (.eitherFst
    (.after answer_keeps (storeWords_keeps (fun _ _ _ => .only entryStore_keeps) rfl)) (.eitherFst (.after answer_keeps
    (storeWords_keeps (fun _ _ _ => .only entryStore_keeps) rfl)) (.eitherFst (.after answer_keeps (storeWords_keeps
    (fun _ _ _ => .only entryStore_keeps) rfl)) (.eitherFst (.after swapReq_keeps (storeWords_keeps
    (fun _ _ _ => .only coefStore_keeps) rfl)) (.after answer_keeps (storeWords_keeps
    (fun _ _ _ => .only coefStore_keeps) rfl)))))))) rfl)

/-! ### The commands of Machine/Spindle.lean -/

theorem motSpindleStart_completes {m : Fin 16} {s : State} :
    Completes (touches (.motSpindleStart m)) s (execMotSpindleStart m s) :=
  .next (mbxRow_keeps (fun _ _ => motSpindle_keeps (fun _ _ => .eitherFst (.only answer_keeps) (.eitherFst
    (.only answer_keeps) (.eitherFst (.only answer_keeps) (.eitherFst (.only answer_keeps) (.eitherFst (.only answer_keeps)
    (.eitherFst .rfl (.after spnStart_keeps (.only updSpn_keeps)))))))) rfl) rfl)

theorem motSpindleStop_completes {m : Fin 16} {s : State} :
    Completes (touches (.motSpindleStop m)) s (execMotSpindleStop m s) :=
  .next (mbxRow_keeps (fun _ _ => motSpindle_keeps (fun _ _ => .eitherFst (.only answer_keeps) (.after answer_keeps
    (.after spnFinish_keeps (.only spnStop_keeps)))) rfl) rfl)

theorem motSpindleCoast_completes {m : Fin 16} {s : State} :
    Completes (touches (.motSpindleCoast m)) s (execMotSpindleCoast m s) :=
  .next (mbxRow_keeps (fun _ _ => motSpindle_keeps (fun _ _ => .after answer_keeps (.after spnFinish_keeps
    (.only spnCoast_keeps))) rfl) rfl)

theorem spnCoast_completes {p : Path} {s : State} :
    Completes (touches (.spnCoast p)) s (execSpnCoast p s) :=
  .next (busAct_keeps (fun _ => acc_keeps (fun _ => .only spnCoast_keeps) rfl) rfl)

theorem spindleMeasureDone_completes {rpm : BitVec 16} {back : Bool} {s : State} :
    Completes (touches (.spindleMeasureDone rpm back)) s (execSpindleMeasureDone rpm back s) :=
  .ite .same (.ite (.next (.after spnFinish_keeps (.after raise_keeps (.after setF_keeps (.after setF_keeps
    (.only spnShow_keeps)))))) (.ite (.next (.after setF_keeps (.only spnShow_keeps))) (.next (.after spnForward_keeps
    (.only spnShow_keeps)))))

theorem dcBrakeEnd_completes {rpm : BitVec 16} {s : State} :
    Completes (touches (.dcBrakeEnd rpm)) s (execDcBrakeEnd rpm s) :=
  .ite .same (.next (.after spnForward_keeps (.only spnShow_keeps)))

theorem alignmentEnd_completes {s : State} :
    Completes (touches .alignmentEnd) s (execAlignmentEnd s) :=
  .ite .same (.next (.only spnCatch_keeps))

theorem observerHandover_completes {rpm : BitVec 16} {s : State} :
    Completes (touches (.observerHandover rpm)) s (execObserverHandover rpm s) :=
  .ite (.next (.after setF_keeps (.only spnShow_keeps))) .same

theorem spindleAtSpeed_completes {rpm : BitVec 16} {s : State} :
    Completes (touches (.spindleAtSpeed rpm)) s (execSpindleAtSpeed rpm s) :=
  .ite (.next (.eitherOp (fun _ => .only loadAll_keeps) (fun _ => .rfl) (.after updSpn_keeps (.after setF_keeps (.eitherOp
    (fun _ => .rfl) (fun _ => .only setF_keeps) (.after spnShow_keeps (.upd_bring .rfl rfl))))))) .same

theorem spinupTimeout_completes {s : State} :
    Completes (touches .spinupTimeout) s (execSpinupTimeout s) :=
  .ite (.next (.onto (.either (.only spnStart_keeps) (.only spnFailed_keeps)) (.after updSpn_keeps (.after raise_keeps
    (.after setF_keeps (.only spnCoast_keeps)))))) .same

theorem startRetryTimer_completes {s : State} :
    Completes (touches .startRetryTimer) s (execStartRetryTimer s) :=
  .ite (.next (.after spnStart_keeps (.only updSpn_keeps))) .same

theorem shortBrakeEntry_completes {rpm : BitVec 16} {s : State} :
    Completes (touches (.shortBrakeEntry rpm)) s (execShortBrakeEntry rpm s) :=
  .ite (.next (.after updSpn_keeps (.after setF_keeps (.after setF_keeps (.only spnShow_keeps))))) .same

theorem spindleStopped_completes {s : State} :
    Completes (touches .spindleStopped) s (execSpindleStopped s) :=
  .ite (.next (.after dormantGo_keeps (.after updSpn_keeps (.after spnShow_keeps (.after setF_keeps
    (.only spnCoast_keeps)))))) .same

theorem lowSpeedUnload_completes {rpm : BitVec 16} {s : State} :
    Completes (touches (.lowSpeedUnload rpm)) s (execLowSpeedUnload rpm s) :=
  .ite (.next (.onto (.either (.only unloadHeads_keeps) .rfl) (.onto (.either (.only unloadHeads_keeps) .rfl) (.onto
    (.either (.only unloadHeads_keeps) .rfl) (.onto (.either (.only unloadHeads_keeps) .rfl) (.only setF_keeps)))))) .same

theorem bridgeThermalFoldback_completes {t : Int} {s : State} :
    Completes (touches (.bridgeThermalFoldback t)) s (execBridgeThermalFoldback t s) :=
  .ite .same (.ite (.next (.onto (.either .rfl (.only raise_keeps)) (.upd_mot id .rfl rfl))) (.ite (.next
    (.upd_mot id .rfl rfl)) .same))

/-! ### The commands of Machine/Ramp.lean -/

theorem headUnloadDone_completes {a : Fin 4} {s : State} :
    Completes (touches (.headUnloadDone a)) s (execHeadUnloadDone a s) :=
  .ite (.next (.only parked_keeps)) .same

theorem retractLatchDone_completes {a : Fin 4} {s : State} :
    Completes (touches (.retractLatchDone a)) s (execRetractLatchDone a s) :=
  .ite (.next (.only parked_keeps)) .same

theorem retractTimeout_completes {a : Fin 4} {s : State} :
    Completes (touches (.retractTimeout a)) s (execRetractTimeout a s) :=
  .ite (.next (.after dormantGo_keeps (.after raise_keeps (.after busyShow_keeps (.after headsFinish_keeps
    (.after setF_keeps (.only setF_keeps))))))) .same

/-! ### The commands of Machine/AirMovers.lean -/

theorem fanHallEdge_completes {f : Fin 4} {hall : BitVec 3} {s : State} :
    Completes (touches (.fanHallEdge f hall)) s (execFanHallEdge f hall s) :=
  .ite .same (.ite (.next (.onto (.either (.after fanStop_keeps (.only setF_keeps)) .rfl) (.after updFan_keeps
    (.only setF_keeps)))) (.next (.eitherOp (fun _ => .after updFan_keeps (.only setF_keeps)) (fun _ => .rfl) (.eitherOp
    (fun _ => .only setF_keeps) (fun _ => .eitherOp (fun _ => .only setF_keeps) (fun _ => .rfl) .rfl) (.after setF_keeps
    (.after updFan_keeps (.only setF_keeps)))))))

theorem fanStallTimeout_completes {f : Fin 4} {s : State} :
    Completes (touches (.fanStallTimeout f)) s (execFanStallTimeout f s) :=
  .ite (.next (.after updFan_keeps (.after setF_keeps (.after setF_keeps (.after setF_keeps (.only coastFan_keeps)))))) .same

theorem fanOvercurrent_completes {f : Fin 4} {ma : BitVec 16} {s : State} :
    Completes (touches (.fanOvercurrent f ma)) s (execFanOvercurrent f ma s) :=
  .ite (.next (.after coastFan_keeps (.only setF_keeps))) .same

theorem fanSpeedLoopTick_completes {f : Fin 4} {duty : BitVec 12} {s : State} :
    Completes (touches (.fanSpeedLoopTick f duty)) s (execFanSpeedLoopTick f duty s) :=
  .ite (.next (.only setF_keeps)) .same

theorem fanDcBrakeEnd_completes {f : Fin 4} {s : State} :
    Completes (touches (.fanDcBrakeEnd f)) s (execFanDcBrakeEnd f s) :=
  .ite (.next (.after fanFinish_keeps (.after setF_keeps (.after setF_keeps (.only setF_keeps))))) .same

theorem fanStartRetryTimer_completes {f : Fin 4} {back : BitVec 16} {s : State} :
    Completes (touches (.fanStartRetryTimer f back)) s (execFanStartRetryTimer f back s) :=
  .ite (.ite (.next (.after raise_keeps (.only fanStop_keeps))) (.next (.after fanStart_keeps (.only updFan_keeps)))) .same

theorem motFan_completes {m : Fin 16} {back : BitVec 16} {s : State} :
    Completes (touches (.motFan m back)) s (execMotFan m back s) :=
  .next (mbxRow_keeps (fun _ _ => .eitherFst (.only answer_keeps) (.eitherFst (.after answer_keeps (.after fanStop_keeps
    (.only updFan_keeps))) (.eitherFst (.after answer_keeps (.only updFan_keeps)) (.eitherFst (.after fanStart_keeps
    (.after updFan_keeps (.only updFan_keeps))) (.after answer_keeps (.after fanStart_keeps (.after updFan_keeps
    (.only updFan_keeps)))))))) rfl)

/-! ### The commands of Machine/Nvme.lean -/

theorem createIoSq_completes {c : NvmeCmd} {s : State} :
    Completes (touches (.createIoSq c)) s (execCreateIoSq c s) :=
  .next (nvRow_keeps (fun _ _ _ => pcieOnly_keeps (fun _ => .either (.only nvErr_keeps) (.either (.only nvErr_keeps)
    (.either (.only nvErr_keeps) (.either (.only nvErr_keeps) (.after nvmRefresh_keeps (.after nvOk_keeps
    (.only updCtrl_keeps))))))) rfl) rfl)

theorem createIoCq_completes {c : NvmeCmd} {s : State} :
    Completes (touches (.createIoCq c)) s (execCreateIoCq c s) :=
  .next (nvRow_keeps (fun _ _ _ => pcieOnly_keeps (fun _ => .either (.only nvErr_keeps) (.either (.only nvErr_keeps)
    (.either (.only nvErr_keeps) (.either (.only nvErr_keeps) (.after nvOk_keeps (.only updCtrl_keeps)))))) rfl) rfl)

theorem deleteIoSq_completes {c : NvmeCmd} {s : State} :
    Completes (touches (.deleteIoSq c)) s (execDeleteIoSq c s) := by
  unfold execDeleteIoSq
  dsimp -proj only
  refine .next ?_
  refine nvRow_keeps ?_ rfl
  intro _ _ _
  refine pcieOnly_keeps ?_ rfl
  intro _
  refine .either (.only nvErr_keeps) ?_
  refine .after sqDeleteCheck_keeps ?_
  refine .after updSq_keeps ?_
  refine .foldl ?_ (.foldl (fun _ _ => .only nvDone_keeps) (.after dropCmds_keeps (.upd_host id .rfl rfl)))
  intro _ _
  split
  · exact .only nvDone_keeps
  · exact .rfl

theorem deleteIoCq_completes {c : NvmeCmd} {s : State} :
    Completes (touches (.deleteIoCq c)) s (execDeleteIoCq c s) :=
  .next (nvRow_keeps (fun _ _ _ => pcieOnly_keeps (fun _ => .either (.only nvErr_keeps) (.either (.only nvErr_keeps)
    (.after nvOk_keeps (.only updCtrl_keeps)))) rfl) rfl)

theorem getLogPage_completes {c : NvmeCmd} {s : State} :
    Completes (touches (.getLogPage c)) s (execGetLogPage c s) := by
  unfold execGetLogPage
  dsimp -proj only
  refine .next ?_
  refine nvRow_keeps ?_ rfl
  intro _ _ _
  refine .either (.either (.after nvGive_keeps (.either .rfl (.only updCtrl_keeps))) (.only nvErr_keeps)) ?_
  split
  · exact .after nvGive_keeps (.either .rfl (.only updCtrl_keeps))
  · exact .after nvGive_keeps (.either .rfl (.only updCtrl_keeps))
  · exact .after nvGive_keeps (.either .rfl (.only updCtrl_keeps))
  · exact .after nvGive_keeps (.onto (.either .rfl (.only updCtrl_keeps)) (.only updCtrl_keeps))
  · exact .after nvGive_keeps (.either .rfl (.only updCtrl_keeps))
  · exact .after nvGive_keeps (.either .rfl (.only updCtrl_keeps))
  · exact .after nvGive_keeps (.onto (.either .rfl (.only updCtrl_keeps)) (.only updCtrl_keeps))
  · exact .only nvErr_keeps

theorem nvmeIdentify_completes {c : NvmeCmd} {s : State} :
    Completes (touches (.nvmeIdentify c)) s (execNvmeIdentify c s) := by
  unfold execNvmeIdentify
  dsimp -proj only
  refine .next ?_
  refine nvRow_keeps ?_ rfl
  intro _ _ _
  split
  · refine .either (.only nvErr_keeps) ?_
    split
    · exact .only nvGive_keeps
    · exact .only nvGive_keeps
  · exact .only nvGive_keeps
  · exact .only nvGive_keeps
  · split
    · exact .only nvGive_keeps
    · exact .only nvErr_keeps
  · exact .only nvGive_keeps
  · exact .only nvGive_keeps
  · exact .only nvErr_keeps

theorem nvmeAbort_completes {c : NvmeCmd} {s : State} :
    Completes (touches (.nvmeAbort c)) s (execNvmeAbort c s) :=
  .next (nvRow_keeps (fun _ _ _ => .only nvOk_keeps) rfl)

theorem setFeatures_completes {c : NvmeCmd} {s : State} :
    Completes (touches (.setFeatures c)) s (execSetFeatures c s) := by
  unfold execSetFeatures
  dsimp -proj only
  refine .next ?_
  refine nvRow_keeps ?_ rfl
  intro _ _ _
  refine .either (.only nvErr_keeps) ?_
  split
  · exact .either (.only nvErr_keeps) (.after nvOk_keeps (.only updCtrl_keeps))
  · exact .either (.after nvOk_keeps (.only updCtrl_keeps)) (.only nvErr_keeps)
  · exact .after nvOk_keeps (.only updCtrl_keeps)
  · exact .after nvOk_keeps (.only updCtrl_keeps)
  · exact .either (.only nvDone_keeps) (.either (.only nvErr_keeps) (.either (.only nvErr_keeps) (.after nvOk_keeps
      (.only updCtrl_keeps))))
  · exact .after nvOk_keeps (.only updCtrl_keeps)
  · split
    · exact .after nvOk_keeps (.after jRecord_keeps (.only updVol_keeps))
    · exact .only nvDone_keeps
  · exact .only nvErr_keeps

theorem getFeatures_completes {c : NvmeCmd} {s : State} :
    Completes (touches (.getFeatures c)) s (execGetFeatures c s) := by
  unfold execGetFeatures
  refine .next ?_
  refine nvRow_keeps ?_ rfl
  intro _ _ _
  split
  · exact .only nvOk_keeps
  · exact .either (.only nvOk_keeps) (.only nvErr_keeps)
  · exact .only nvOk_keeps
  · exact .only nvOk_keeps
  · exact .only nvGive_keeps
  · exact .only nvOk_keeps
  · split
    · exact .only nvOk_keeps
    · exact .only nvDone_keeps
  · exact .only nvErr_keeps

theorem asyncEventRequest_completes {c : NvmeCmd} {s : State} :
    Completes (touches (.asyncEventRequest c)) s (execAsyncEventRequest c s) := by
  unfold execAsyncEventRequest
  refine .next ?_
  refine nvRow_keeps ?_ rfl
  intro _ _ _
  split
  · exact .after nvOk_keeps (.only updCtrl_keeps)
  · exact .either (.only nvErr_keeps) (.only updCtrl_keeps)

theorem keepAlive_completes {c : NvmeCmd} {s : State} :
    Completes (touches (.keepAlive c)) s (execKeepAlive c s) :=
  .next (nvRow_keeps (fun _ _ _ => .after nvOk_keeps (.only updCtrl_keeps)) rfl)

theorem keepAliveExpiry_completes {ctrl : Nat} {s : State} :
    Completes (touches (.keepAliveExpiry ctrl)) s (execKeepAliveExpiry ctrl s) := by
  unfold execKeepAliveExpiry
  split
  · exact .ite (.next (.only ctrlDown_keeps)) .same
  · exact .same

theorem fabricsConnect_completes {discovery : Bool} {ctrl : Nat} {qid : Nat} {sqsize : Nat} {kato : Nat} {hostNqn : List
  Byte} {hostId : List Byte} {s : State} :
    Completes (touches (.fabricsConnect discovery ctrl qid sqsize kato hostNqn hostId)) s
      (execFabricsConnect discovery ctrl qid sqsize kato hostNqn hostId s) := by
  unfold execFabricsConnect
  dsimp -proj only
  refine .ite .same ?_
  refine .ite ?_ ?_
  · refine .ite (.next (.only connectReply_keeps)) ?_
    split
    · exact .next (.only connectReply_keeps)
    · exact .next (.after connectReply_keeps (.after nvmRefresh_keeps (.upd_host id .rfl rfl)))
  · split
    · exact .next (.only connectReply_keeps)
    · exact .ite (.next (.only connectReply_keeps)) (.next (.after connectReply_keeps (.after nvmRefresh_keeps
        (.upd_host id (.only updCtrl_keeps) rfl))))

theorem fabricsPropertyGet_completes {ctrl : Nat} {cid : Nat} {offset : Nat} {s : State} :
    Completes (touches (.fabricsPropertyGet ctrl cid offset)) s (execFabricsPropertyGet ctrl cid offset s) := by
  unfold execFabricsPropertyGet
  split
  · refine .ite .same ?_
    split
    · exact .next (.only nvPost_keeps)
    · exact .next (.only nvFail_keeps)
  · exact .same

theorem fabricsPropertySet_completes {ctrl : Nat} {cid : Nat} {offset : Nat} {value : Nat} {s : State} :
    Completes (touches (.fabricsPropertySet ctrl cid offset value)) s (execFabricsPropertySet ctrl cid offset value s) := by
  unfold execFabricsPropertySet
  dsimp -proj only
  split
  · exact .ite .same (.ite (.next (.only nvFail_keeps)) (.next (.after nvPost_keeps (.onto (.either
      (.only ctrlReset_keeps) .rfl) (.only updCtrl_keeps)))))
  · exact .same

theorem fabricsDisconnect_completes {ctrl : Nat} {qid : Nat} {s : State} :
    Completes (touches (.fabricsDisconnect ctrl qid)) s (execFabricsDisconnect ctrl qid s) := by
  unfold execFabricsDisconnect
  dsimp -proj only
  split
  · exact .ite .same (.ite (.next (.only ctrlDown_keeps)) (.next (.after nvmRefresh_keeps (.after updCtrl_keeps
      (.after dropCmds_keeps (.upd_host id .rfl rfl))))))
  · exact .same

theorem unsupportedNvmeOpcode_completes {c : NvmeCmd} {opcode : BitVec 8} {s : State} :
    Completes (touches (.unsupportedNvmeOpcode c opcode)) s (execUnsupportedNvmeOpcode c opcode s) := by
  unfold execUnsupportedNvmeOpcode
  refine .ite .same ?_
  split
  next x s1 h => exact .next (.after nvErr_keeps (.only (nvTakeIf_keeps h)))
  · exact .same

theorem nvmeSqDoorbell_completes {q : Nat} {tail : Nat} {props : Option (Nat × Nat × Nat × Nat)} {host : List Host.Cell} {s
  : State} :
    Completes (touches (.nvmeSqDoorbell q tail props host)) s (execNvmeSqDoorbell q tail props host s) := by
  unfold execNvmeSqDoorbell
  dsimp -proj only
  refine .ite .same ?_
  split
  · refine .ite ?_ ?_
    · refine .next ?_
      refine .after nvFetch_keeps ?_
      refine .after updSq_keeps ?_
      split
      · exact .after pcieEnable_keeps (.only hostPlaces_keeps)
      · exact .only hostPlaces_keeps
    · refine .next ?_
      split
      · exact .after pcieEnable_keeps (.only hostPlaces_keeps)
      · exact .only hostPlaces_keeps
  · refine .next ?_
    split
    · exact .after pcieEnable_keeps (.only hostPlaces_keeps)
    · exact .only hostPlaces_keeps

theorem nvmeCqDoorbell_completes {q : Nat} {head : Nat} {s : State} :
    Completes (touches (.nvmeCqDoorbell q head)) s (execNvmeCqDoorbell q head s) := by
  unfold execNvmeCqDoorbell
  dsimp -proj only
  refine .ite .same ?_
  split
  · exact .ite (.next (.after pump_keeps (.foldl (fun _ _ => .after sqDeleteCheck_keeps (.only nvDrain_keeps))
      (.only updCq_keeps)))) .same
  · exact .same

theorem nvmeFlush_completes {c : NvmeCmd} {s : State} :
    Completes (touches (.nvmeFlush c)) s (execNvmeFlush c s) :=
  .next (nvRow_keeps (fun _ _ _ => .only nvOk_keeps) rfl)

theorem nvmeWrite_completes {c : NvmeCmd} {s : State} :
    Completes (touches (.nvmeWrite c)) s (execNvmeWrite c s) :=
  .next (nvRow_keeps (fun _ _ _ => .either (.only nvErr_keeps) (.only nvEnter_keeps)) rfl)

theorem nvmeRead_completes {c : NvmeCmd} {s : State} :
    Completes (touches (.nvmeRead c)) s (execNvmeRead c s) :=
  .next (nvRow_keeps (fun _ _ _ => .either (.only nvErr_keeps) (.only nvEnter_keeps)) rfl)

theorem nvmeWriteZeroes_completes {c : NvmeCmd} {s : State} :
    Completes (touches (.nvmeWriteZeroes c)) s (execNvmeWriteZeroes c s) :=
  .next (nvRow_keeps (fun _ _ _ => .only nvEnter_keeps) rfl)

theorem nvmeDatasetManagement_completes {c : NvmeCmd} {s : State} :
    Completes (touches (.nvmeDatasetManagement c)) s (execNvmeDatasetManagement c s) :=
  .next (nvRow_keeps (fun _ _ _ => .either (.only nvOk_keeps) (.either (.only nvDone_keeps) (.only nvEnter_keeps))) rfl)

theorem nvmeVerify_completes {c : NvmeCmd} {s : State} :
    Completes (touches (.nvmeVerify c)) s (execNvmeVerify c s) :=
  .next (nvRow_keeps (fun _ _ _ => .only nvEnter_keeps) rfl)

theorem reservationRegister_completes {c : NvmeCmd} {s : State} :
    Completes (touches (.reservationRegister c)) s (execReservationRegister c s) :=
  .next (nvRow_keeps (fun _ _ _ => .only nvResv_keeps) rfl)

theorem reservationReport_completes {c : NvmeCmd} {s : State} :
    Completes (touches (.reservationReport c)) s (execReservationReport c s) := by
  unfold execReservationReport
  refine .next ?_
  refine nvRow_keeps ?_ rfl
  intro _ _ _
  refine .either (.only nvErr_keeps) ?_
  split
  · exact .only nvDone_keeps
  · exact .either (.only nvDone_keeps) (.only nvGive_keeps)

theorem reservationAcquire_completes {c : NvmeCmd} {s : State} :
    Completes (touches (.reservationAcquire c)) s (execReservationAcquire c s) :=
  .next (nvRow_keeps (fun _ _ _ => .only nvResv_keeps) rfl)

theorem reservationRelease_completes {c : NvmeCmd} {s : State} :
    Completes (touches (.reservationRelease c)) s (execReservationRelease c s) :=
  .next (nvRow_keeps (fun _ _ _ => .only nvResv_keeps) rfl)

theorem aggregationTimeExpiry_completes {q : Nat} {s : State} :
    Completes (touches (.aggregationTimeExpiry q)) s (execAggregationTimeExpiry q s) := by
  unfold execAggregationTimeExpiry
  dsimp -proj only
  split
  · exact .ite (.next (.after msix_keeps (.only updCq_keeps))) .same
  · exact .same

/-! ### The commands of Machine/Native.lean -/

theorem qDbSq_completes {p : Path} {q : Fin 256} {host : List Host.Cell} {s : State} :
    Completes (touches (.qDbSq p q host)) s (execQDbSq p q host s) :=
  .next (.trans (.only hostPlaces_keeps) (busAct_keeps (fun _ => acc_keeps (fun _ => .only sqBell_keeps) rfl) rfl))

theorem qDbCq_completes {p : Path} {q : Fin 256} {host : List Host.Cell} {s : State} :
    Completes (touches (.qDbCq p q host)) s (execQDbCq p q host s) :=
  .next (.trans (.only hostPlaces_keeps) (busAct_keeps (fun _ => acc_keeps (fun _ => .only cqBell_keeps) rfl) rfl))

theorem qDbPush_completes {p : Path} {q : Fin 256} {n : Fin 8} {cq : Bool} {sq : Bool} {host : List Host.Cell} {s : State} :
    Completes (touches (.qDbPush p q n cq sq host)) s (execQDbPush p q n cq sq host s) :=
  .next (.trans (.only hostPlaces_keeps) (busAct_keeps (fun _ => acc_keeps (fun _ => .eitherOp
    (fun _ => .only sqBell_keeps) (fun _ => .rfl) (.eitherOp (fun _ => .only cqBell_keeps) (fun _ => .rfl)
    (.only pushTake_keeps))) rfl) rfl))

theorem qPollTimer_completes {q : Fin 256} {host : List Host.Cell} {s : State} :
    Completes (touches (.qPollTimer q host)) s (execQPollTimer q host s) :=
  .ite (.next (.after sqBell_keeps (.only hostPlaces_keeps))) .same

theorem nativeNop_completes {q : Fin 256} {s : State} :
    Completes (touches (.nativeNop q)) s (execNativeNop q s) := by
  unfold execNativeNop
  split
  · exact .same
  next f s1 h =>
    exact .ite (.next (.after enter_keeps (.only (natTake_keeps h))))
      (.next (.after stopCheck_keeps (.after natDone_keeps (.only (natTake_keeps h)))))

theorem nativeRead_completes {q : Fin 256} {s : State} :
    Completes (touches (.nativeRead q)) s (execNativeRead q s) := by
  unfold execNativeRead
  split
  · exact .same
  next f s1 h => exact .next (.after enter_keeps (.after natBuf_keeps (.only (natTake_keeps h))))

theorem nativeWrite_completes {q : Fin 256} {s : State} :
    Completes (touches (.nativeWrite q)) s (execNativeWrite q s) := by
  unfold execNativeWrite
  split
  · exact .same
  next f s1 h => exact .next (.after enter_keeps (.after natBuf_keeps (.only (natTake_keeps h))))

theorem nativeWriteZeroes_completes {q : Fin 256} {s : State} :
    Completes (touches (.nativeWriteZeroes q)) s (execNativeWriteZeroes q s) := by
  unfold execNativeWriteZeroes
  split
  · exact .same
  next f s1 h => exact .next (.after enter_keeps (.only (natTake_keeps h)))

theorem nativeDeallocate_completes {q : Fin 256} {s : State} :
    Completes (touches (.nativeDeallocate q)) s (execNativeDeallocate q s) := by
  unfold execNativeDeallocate
  split
  · exact .same
  next f s1 h => exact .next (.after enter_keeps (.only (natTake_keeps h)))

theorem nativeVerify_completes {q : Fin 256} {s : State} :
    Completes (touches (.nativeVerify q)) s (execNativeVerify q s) := by
  unfold execNativeVerify
  split
  · exact .same
  next f s1 h => exact .next (.after enter_keeps (.only (natTake_keeps h)))

theorem nativeFence_completes {q : Fin 256} {s : State} :
    Completes (touches (.nativeFence q)) s (execNativeFence q s) :=
  .ite .same (.next (.after setF_keeps (.after putSqCons_keeps (.only updNat_keeps))))

theorem nativeFenceDone_completes {q : Fin 256} {s : State} :
    Completes (touches (.nativeFenceDone q)) s (execNativeFenceDone q s) := by
  unfold execNativeFenceDone
  split
  · exact .ite (.next (.only fenceEnd_keeps)) .same
  · exact .same

theorem nativeFenceLimitExpiry_completes {q : Fin 256} {s : State} :
    Completes (touches (.nativeFenceLimitExpiry q)) s (execNativeFenceLimitExpiry q s) := by
  unfold execNativeFenceLimitExpiry
  split
  · exact .ite (.next (.only fenceEnd_keeps)) .same
  · exact .same

theorem nativeBand_completes {q : Fin 256} {s : State} :
    Completes (touches (.nativeBand q)) s (execNativeBand q s) := by
  unfold execNativeBand
  split
  · exact .same
  next f s1 h =>
    have entered : ∀ c, Keeps (touches (.nativeBand q)) s (enter c s1) := fun _ => .after enter_keeps (.only
      (natTake_keeps h))
    refine .ite (.next (entered _)) ?_
    split
    · exact .next (.after sluRefresh_keeps (.after runCmd_keeps (.after updCmd_keeps (entered _))))
    · exact .next (entered _)

theorem firmwareKindEntry_completes {q : Fin 32} {entry : List Byte} {s : State} :
    Completes (touches (.firmwareKindEntry q entry)) s (execFirmwareKindEntry q entry s) :=
  .ite (.next (.only enter_keeps)) .same

theorem qCtlStop_completes {p : Path} {q : Fin 256} {s : State} :
    Completes (touches (.qCtlStop p q)) s (execQCtlStop p q s) :=
  .next (busAct_keeps (fun _ => acc_keeps (fun _ => .after stopCheck_keeps (.only natStop_keeps)) rfl) rfl)

theorem qCtlResume_completes {p : Path} {q : Fin 256} {s : State} :
    Completes (touches (.qCtlResume p q)) s (execQCtlResume p q s) :=
  .next (busAct_keeps (fun _ => acc_keeps (fun _ => .only natResume_keeps) rfl) rfl)

theorem qCtlSkip_completes {p : Path} {q : Fin 256} {s : State} :
    Completes (touches (.qCtlSkip p q)) s (execQCtlSkip p q s) :=
  .next (busAct_keeps (fun _ => acc_keeps (fun _ => .only natSkip_keeps) rfl) rfl)

theorem qCreate_completes {m : Fin 16} {s : State} :
    Completes (touches (.qCreate m)) s (execQCreate m s) := by
  unfold execQCreate
  dsimp -proj only
  refine .next ?_
  refine mbxRow_keeps ?_ rfl
  intro _ _
  refine .eitherFst (.only answer_keeps) ?_
  refine .eitherFst (.only answer_keeps) ?_
  refine .eitherFst (.only answer_keeps) ?_
  split
  · exact .after answer_keeps (.only logViolation_keeps)
  · exact .after answer_keeps (.after wr_keeps (.after wr_keeps (.after updNat_keeps (.either
      (.only spaceStore_keeps) .rfl))))

theorem qDelete_completes {m : Fin 16} {s : State} :
    Completes (touches (.qDelete m)) s (execQDelete m s) :=
  .next (mbxRow_keeps (fun _ _ => queueCmd_keeps (fun _ _ => .eitherFst (.only answer_keeps) (.eitherFst
    (.only answer_keeps) (.after answer_keeps (.only natFree_keeps)))) rfl) rfl)

theorem qStop_completes {m : Fin 16} {s : State} :
    Completes (touches (.qStop m)) s (execQStop m s) := by
  unfold execQStop
  dsimp -proj only
  refine .next ?_
  split
  · exact .after stopCheck_keeps (mbxRow_keeps (fun _ _ => queueCmd_keeps (fun _ _ => .eitherFst (.after answer_keeps
      (.only natStop_keeps)) (.after updNat_keeps (.only natStop_keeps))) rfl) rfl)
  · exact mbxRow_keeps (fun _ _ => queueCmd_keeps (fun _ _ => .eitherFst (.after answer_keeps (.only natStop_keeps))
      (.after updNat_keeps (.only natStop_keeps))) rfl) rfl

theorem qResume_completes {m : Fin 16} {s : State} :
    Completes (touches (.qResume m)) s (execQResume m s) :=
  .next (mbxRow_keeps (fun _ _ => queueCmd_keeps (fun _ _ => .after answer_keeps (.only natResume_keeps)) rfl) rfl)

theorem qResumeSkip_completes {m : Fin 16} {s : State} :
    Completes (touches (.qResumeSkip m)) s (execQResumeSkip m s) :=
  .next (mbxRow_keeps (fun _ _ => queueCmd_keeps (fun _ _ => .after answer_keeps (.only natSkip_keeps)) rfl) rfl)

/-! ### The commands of Machine/Sluice.lean -/

theorem sluStats_completes {m : Fin 16} {s : State} :
    Completes (touches (.sluStats m)) s (execSluStats m s) :=
  .next (mbxRow_keeps (fun _ _ => .only answerData_keeps) rfl)

theorem sluHwmRst_completes {p : Path} {s : State} :
    Completes (touches (.sluHwmRst p)) s (execSluHwmRst p s) :=
  .next (busAct_keeps (fun _ => acc_keeps (fun _ => .only hwmReset_keeps) rfl) rfl)

theorem headgateAdmit_completes {s : State} :
    Completes (touches .headgateAdmit) s (execHeadgateAdmit s) :=
  .ite (.next (.after pump_keeps (.only headgateStep_keeps))) .same

theorem sluiceRun_completes {k : Nat} {xferOk : Bool} {cellarUe : Option (BitVec 26)} {s : State} :
    Completes (touches (.sluiceRun k xferOk cellarUe)) s (execSluiceRun k xferOk cellarUe s) := by
  unfold execSluiceRun
  dsimp -proj only
  split
  · exact .same
  · refine .ite .same ?_
    split
    · exact .next (.after endCmd_keeps (.after eccUe_keeps (.only updCmd_keeps)))
    · exact .next (.after runCmd_keeps (.only updCmd_keeps))

theorem commandFinish_completes {k : Nat} {stopped : Bool} {xferOk : Bool} {cellarUe : Option (BitVec 26)} {s : State} :
    Completes (touches (.commandFinish k stopped xferOk cellarUe)) s (execCommandFinish k stopped xferOk cellarUe s) := by
  unfold execCommandFinish
  split
  · exact .same
  next c _ =>
    refine .ite .same (.ite (.ite (.next (.only dropJobs_keeps)) (.next ?_)) (.ite .same ?_))
    · have finished : ∀ c, Keeps (touches (.commandFinish k stopped xferOk cellarUe)) s
          (finishCmd c 0x0614 xferOk (abortedRead c (updCmd k (fun c => { c with stage := 2 }) (dropJobs k s)))) :=
        fun _ => .after finishCmd_keeps (.after abortedRead_keeps (.after updCmd_keeps (.only dropJobs_keeps)))
      cases c.src with
      | native q _ => exact .after raise_keeps (finished _)
      | _ => exact finished _
    · split
      · exact .ite (.next (.after drainFinal_keeps (.after dropCmds_keeps (.only setEnd_keeps)))) .same
      · split
        · exact .next (.after sluRefresh_keeps (.after updCmd_keeps (.only eccUe_keeps)))
        · exact .next (.only finishCmd_keeps)
      · exact .next (.only finishCmd_keeps)

theorem anaChangeTimeout_completes {k : Nat} {s : State} :
    Completes (touches (.anaChangeTimeout k)) s (execAnaChangeTimeout k s) := by
  unfold execAnaChangeTimeout
  split
  · exact .same
  · exact .ite (.next (.after sluRefresh_keeps (.only updCmd_keeps))) .same

theorem forwardReplyReceived_completes {req : Nat} {status : Nat} {data : List Byte} {s : State} :
    Completes (touches (.forwardReplyReceived req status data)) s (execForwardReplyReceived req status data s) := by
  unfold execForwardReplyReceived
  dsimp -proj only
  split
  · exact .same
  · split
    · split
      · exact .next (.only dropReq_keeps)
      · exact .ite (.next (.after resolveHost_keeps (.only dropReq_keeps))) (.next (.after updCmd_keeps
          (.only dropReq_keeps)))
    · split
      · exact .next (.only dropReq_keeps)
      · exact .ite (.next (.after resolveMedia_keeps (.only dropReq_keeps))) (.next (.after needsDone_keeps (.eitherOp
          (fun _ => .only mediaArrives_keeps) (fun _ => .rfl) (.only dropReq_keeps))))
    · refine .ite ?_ (.next (.after mbxSetResult_keeps (.only dropReq_keeps)))
      split
      · exact .ite (.next (.upd_mbx (modAt_length _ _ _) (.only dropReq_keeps) rfl)) (.ite (.next
          (.after mbxSetResult_keeps (.only dropReq_keeps))) (.next (.after askPartner_keeps (.only dropReq_keeps))))
      · exact .next (.after mbxSetResult_keeps (.only dropReq_keeps))

/-! ### The commands of Machine/Vat.lean -/

theorem vatEntrySealed_completes {g : Fin 2} {seq : BitVec 32} {s : State} :
    Completes (touches (.vatEntrySealed g seq)) s (execVatEntrySealed g seq s) := by
  unfold execVatEntrySealed
  dsimp -proj only
  split
  · exact .same
  · exact .ite (.next (.after jRelease_keeps (.after jAckFree_keeps (.onto (.either (.only applyWrite_keeps) .rfl)
      (.after wr_keeps (.only updJrn_keeps)))))) .same

theorem vatMirrorEntryReceived_completes {g : Fin 2} {seq : BitVec 32} {body : MirrorBody} {released : List
  (BitVec 32)} {s : State} :
    Completes (touches (.vatMirrorEntryReceived g seq body released)) s (execVatMirrorEntryReceived g seq body released s) :=
  .ite .same (.ite (.next (.upd_journal .rfl rfl)) (.next (.after nalSend_keeps (.after mirrorApply_keeps
    (.upd_journal_tier (.upd_journal .rfl rfl) rfl rfl)))))

theorem mirrorAckReceived_completes {g : Fin 2} {seq : BitVec 32} {s : State} :
    Completes (touches (.mirrorAckReceived g seq)) s (execMirrorAckReceived g seq s) :=
  .ite .same (.next (.after jRelease_keeps (.after jAckFree_keeps (.after wr_keeps (.upd_journal .rfl rfl)))))

/-! ### The commands of Machine/Reduce.lean -/

theorem chunkReductionStart_completes {src : RedSrc} {cached : Bool} {ue : Bool} {partnerHas : Bool} {s : State} :
    Completes (touches (.chunkReductionStart src cached ue partnerHas)) s (execChunkReductionStart src cached ue partnerHas
      s) := by
  unfold execChunkReductionStart
  dsimp -proj only
  refine .ite .same ?_
  split
  · exact .ite (.next (.only startEntry_keeps)) .same
  · split
    · exact .ite (.next (.after redDecide_keeps (.only updJob_keeps))) .same
    · exact .same

theorem tentativeResolved_completes {id : Nat} {s : State} :
    Completes (touches (.tentativeResolved id)) s (execTentativeResolved id s) := by
  unfold execTentativeResolved
  split
  · exact .ite (.next (.only redDecide_keeps)) .same
  · exact .same

theorem indexPageReadDone_completes {id : Nat} {s : State} :
    Completes (touches (.indexPageReadDone id)) s (execIndexPageReadDone id s) := by
  unfold execIndexPageReadDone
  split
  · exact .ite (.next (.only redDecide_keeps)) .same
  · exact .same

theorem chunkCoded_completes {id : Nat} {faulty : Option (List Byte)} {s : State} :
    Completes (touches (.chunkCoded id faulty)) s (execChunkCoded id faulty s) := by
  unfold execChunkCoded
  dsimp -proj only
  split
  · exact .same
  · exact .ite .same (.next (.after flashRoCheck_keeps (.after stageRecord_keeps (.onto (.either (.only count_keeps) .rfl)
      (.either (.only raise_keeps) .rfl)))))

theorem deferredPassTimer_completes {s : State} :
    Completes (touches .deferredPassTimer) s (execDeferredPassTimer s) :=
  .next (.after startPass_keeps (.only startPass_keeps))

theorem deferredPassEntry_completes {s : State} :
    Completes (touches .deferredPassEntry) s (execDeferredPassEntry s) := by
  unfold execDeferredPassEntry
  dsimp -proj only
  split
  · exact .same
  · split
    · exact .ite (.next (.only passEntry_keeps)) .same
    · exact .next (.upd_red .rfl rfl)

theorem redBacklogOnset_completes {s : State} :
    Completes (touches .redBacklogOnset) s (execRedBacklogOnset s) :=
  .ite (.next (.after raise_keeps (.after capsDown_keeps (.only setF_keeps)))) .same

theorem redBacklogStepTimer_completes {s : State} :
    Completes (touches .redBacklogStepTimer) s (execRedBacklogStepTimer s) :=
  .ite .same (.ite (.next (.only capsDown_keeps)) (.next (.after setF_keeps (.only setF_keeps))))

theorem redBacklogRelease_completes {s : State} :
    Completes (touches .redBacklogRelease) s (execRedBacklogRelease s) :=
  .ite (.next (.only setF_keeps)) .same

theorem redPolicySet_completes {m : Fin 16} {s : State} :
    Completes (touches (.redPolicySet m)) s (execRedPolicySet m s) := by
  unfold execRedPolicySet
  dsimp -proj only
  refine .next ?_
  refine mbxRow_keeps ?_ rfl
  intro _ _
  refine .eitherFst (.only answer_keeps) ?_
  split
  · exact .only answer_keeps
  · exact .eitherFst (.only answer_keeps) (.after answer_keeps (.after jRecord_keeps (.only updVol_keeps)))

theorem redPolicyGet_completes {m : Fin 16} {s : State} :
    Completes (touches (.redPolicyGet m)) s (execRedPolicyGet m s) := by
  unfold execRedPolicyGet
  refine .next ?_
  refine mbxRow_keeps ?_ rfl
  intro _ _
  split
  · exact .only answer_keeps
  · exact .eitherFst (.only answer_keeps) (.only answerData_keeps)

theorem redStats_completes {m : Fin 16} {s : State} :
    Completes (touches (.redStats m)) s (execRedStats m s) :=
  .next (mbxRow_keeps (fun _ _ => .only answerData_keeps) rfl)

theorem redDedupScan_completes {m : Fin 16} {s : State} :
    Completes (touches (.redDedupScan m)) s (execRedDedupScan m s) :=
  .next (mbxRow_keeps (fun _ _ => .eitherFst (.only answer_keeps) (.after answerData_keeps (.only startPass_keeps))) rfl)

theorem redRecordRead_completes {m : Fin 16} {s : State} :
    Completes (touches (.redRecordRead m)) s (execRedRecordRead m s) := by
  unfold execRedRecordRead
  dsimp -proj only
  refine .next ?_
  refine mbxRow_keeps ?_ rfl
  intro _ _
  refine .eitherFst (.only answer_keeps) ?_
  split
  · exact .only answer_keeps
  · exact .rfl

theorem redFltClr_completes {p : Path} {s : State} :
    Completes (touches (.redFltClr p)) s (execRedFltClr p s) :=
  .next (busAct_keeps (fun _ => acc_keeps (fun _ => .only filterClear_keeps) rfl) rfl)

/-! ### The commands of Machine/Canals.lean -/

theorem reductionRecordCommit_completes {id : Nat} {s : State} :
    Completes (touches (.reductionRecordCommit id)) s (execReductionRecordCommit id s) := by
  unfold execReductionRecordCommit
  split
  · exact .same
  · exact .ite .same (.next (.after targetCommit_keeps (.only recordTakes_keeps)))

theorem canalOpen_completes {m : Fin 16} {s : State} :
    Completes (touches (.canalOpen m)) s (execCanalOpen m s) := by
  unfold execCanalOpen
  dsimp -proj only
  refine .next ?_
  refine volRow_keeps ?_ rfl
  intro _ _
  split
  · exact .only answer_keeps
  · split
    · exact .only answer_keeps
    · refine .eitherFst (.only answer_keeps) ?_
      refine .eitherFst (.only answer_keeps) ?_
      split
      · exact .after canalConnect_keeps (.after jRecord_keeps (.only putCanal_keeps))
      · refine .eitherFst (.only answer_keeps) ?_
        split
        · exact .only answer_keeps
        · exact .after canalConnect_keeps (.after jRecord_keeps (.only putCanal_keeps))

theorem canalClose_completes {m : Fin 16} {s : State} :
    Completes (touches (.canalClose m)) s (execCanalClose m s) := by
  unfold execCanalClose
  dsimp -proj only
  refine .next ?_
  refine volRow_keeps ?_ rfl
  intro _ _
  split
  · exact .only answer_keeps
  · refine .after answer_keeps ?_
    split
    · exact .after jRecord_keeps (.after updCanal_keeps (.after canalPolicy_keeps (.after canalDrop_keeps
        (.only canalAnswer_keeps))))
    · exact .after updCanal_keeps (.after canalPolicy_keeps (.after canalDrop_keeps (.only canalAnswer_keeps)))

theorem canalSync_completes {m : Fin 16} {s : State} :
    Completes (touches (.canalSync m)) s (execCanalSync m s) := by
  refine .next (volRow_keeps (fun c x => ?_) rfl)
  split
  · exact .only answer_keeps
  · refine .eitherFst (.only answer_keeps) (.eitherFst (.only answer_keeps) (.eitherFst (.only answer_keeps)
      (.eitherFst (.only answer_keeps) ?_)))
    split
    · exact .only answer_keeps
    next g s1 h => exact .after answerData_keeps (.only (startXfer_keeps h))

theorem canalPromote_completes {m : Fin 16} {s : State} :
    Completes (touches (.canalPromote m)) s (execCanalPromote m s) := by
  unfold execCanalPromote
  dsimp -proj only
  refine .next ?_
  refine volRow_keeps ?_ rfl
  intro _ _
  split
  · exact .only answer_keeps
  · exact .eitherFst (.only answer_keeps) (.after answer_keeps (.after nsChanged_keeps (.after jRecord_keeps
      (.after updCanal_keeps (.after canalDrop_keeps (.after updVol_keeps (.only discardHidden_keeps)))))))

theorem canalStatus_completes {m : Fin 16} {s : State} :
    Completes (touches (.canalStatus m)) s (execCanalStatus m s) := by
  unfold execCanalStatus
  dsimp -proj only
  refine .next ?_
  refine volRow_keeps ?_ rfl
  intro _ _
  split
  · exact .only answer_keeps
  · exact .only answerData_keeps

theorem drainStatus_completes {m : Fin 16} {s : State} :
    Completes (touches (.drainStatus m)) s (execDrainStatus m s) :=
  .next (volRow_keeps (fun _ _ => .only answerData_keeps) rfl)

theorem canalTcpConnected_completes {k : Nat} {s : State} :
    Completes (touches (.canalTcpConnected k)) s (execCanalTcpConnected k s) := by
  unfold execCanalTcpConnected
  split
  · exact .ite (.next (.only canalAsk_keeps)) .same
  · exact .same

theorem canalConnectTimeout_completes {k : Nat} {s : State} :
    Completes (touches (.canalConnectTimeout k)) s (execCanalConnectTimeout k s) := by
  unfold execCanalConnectTimeout
  split
  · exact .ite (.next (.only canalFail_keeps)) .same
  · exact .same

theorem canalSetupTimeout_completes {k : Nat} {s : State} :
    Completes (touches (.canalSetupTimeout k)) s (execCanalSetupTimeout k s) := by
  unfold execCanalSetupTimeout
  split
  · exact .ite (.next (.only canalFail_keeps)) .same
  · exact .same

theorem canalFrameInvalid_completes {k : Nat} {type : Nat} {len : Nat} {tagOk : Bool} {s : State} :
    Completes (touches (.canalFrameInvalid k type len tagOk)) s (execCanalFrameInvalid k type len tagOk s) := by
  unfold execCanalFrameInvalid
  split
  · exact .ite .same (.next (.after canalLost_keeps (.only raise_keeps)))
  · exact .same

theorem canalConnectionLost_completes {k : Nat} {s : State} :
    Completes (touches (.canalConnectionLost k)) s (execCanalConnectionLost k s) := by
  unfold execCanalConnectionLost
  split
  · refine .ite .same ?_
    split
    · exact .next (.only connectTo_keeps)
    · exact .next (.only canalLost_keeps)
  · exact .same

theorem canalHello_completes {k : Nat} {h : Hello} {s : State} :
    Completes (touches (.canalHello k h)) s (execCanalHello k h s) := by
  unfold execCanalHello
  refine .ite (.next (.either (.only targetHello_keeps) .rfl)) ?_
  split
  · exact .same
  · exact .ite .same (.ite (.next (.only canalFail_keeps)) (.ite (.next (.only canalFail_keeps)) (.ite (.next
      (.after updCanal_keeps (.after canalDrop_keeps (.only canalAnswer_keeps)))) (.next (.only canalReach_keeps)))))

theorem canalWrite_completes {k : Nat} {seq : Nat} {off : Nat} {len : Nat} {data : List Byte} {s : State} :
    Completes (touches (.canalWrite k seq off len data)) s (execCanalWrite k seq off len data s) := by
  unfold execCanalWrite
  dsimp -proj only
  split
  · exact .same
  · exact .ite .same (.ite (.next (.only canalTx_keeps)) (.ite .same (.ite (.next (.only canalTx_keeps)) (.next
      (.after enter_keeps (.only updCanal_keeps))))))

theorem canalWriteAck_completes {k : Nat} {seq : Nat} {status : Nat} {s : State} :
    Completes (touches (.canalWriteAck k seq status)) s (execCanalWriteAck k seq status s) := by
  unfold execCanalWriteAck
  split
  · exact .same
  · exact .ite .same (.ite (.next (.after canalPolicy_keeps (.only canalDrop_keeps))) (.next (.after updCanal_keeps
      (.only canalRelease_keeps))))

theorem canalDiffBegin_completes {k : Nat} {base : Nat} {new : Nat} {s : State} :
    Completes (touches (.canalDiffBegin k base new)) s (execCanalDiffBegin k base new s) := by
  unfold execCanalDiffBegin
  dsimp -proj only
  split
  · exact .same
  · exact .ite .same (.ite (.next (.only abandon_keeps)) (.ite .same (.next (.after updCanal_keeps (.after updVol_keeps
      (.only discardHidden_keeps))))))

theorem canalFpList_completes {k : Nat} {entries : List (Nat × List Byte)} {s : State} :
    Completes (touches (.canalFpList k entries)) s (execCanalFpList k entries s) := by
  unfold execCanalFpList
  dsimp -proj only
  split
  · exact .same
  · exact .ite .same (.next (.after canalTx_keeps (.after updCanal_keeps (.only fpLooks_keeps))))

theorem canalFpNeed_completes {k : Nat} {bits : List Bool} {s : State} :
    Completes (touches (.canalFpNeed k bits)) s (execCanalFpNeed k bits s) := by
  unfold execCanalFpNeed
  dsimp -proj only
  split
  · exact .same
  · refine .ite .same ?_
    split
    · exact .next (.only abandon_keeps)
    · exact .ite (.next (.only abandon_keeps)) (.next (.after canalFlush_keeps (.after updCanal_keeps (.after canalTx_keeps
        (.foldl (fun _ _ => .only canalTx_keeps) .rfl)))))

theorem canalRecord_completes {k : Nat} {chunk : Nat} {record : List Byte} {s : State} :
    Completes (touches (.canalRecord k chunk record)) s (execCanalRecord k chunk record s) := by
  unfold execCanalRecord
  dsimp -proj only
  split
  · exact .same
  · refine .ite .same ?_
    split
    · exact .next (.after abandon_keeps (.only discardHidden_keeps))
    · refine .ite (.next (.after abandon_keeps (.only discardHidden_keeps))) ?_
      split
      · split
        · exact .ite (.next (.after updCanal_keeps (.only hiddenRef_keeps))) (.ite (.next (.only canalLost_keeps)) (.next
            (.after updCanal_keeps (.after raise_keeps (.after count_keeps (.only storeHidden_keeps))))))
        · exact .ite (.next (.only canalLost_keeps)) (.next (.after updCanal_keeps (.only storeHidden_keeps)))
      · exact .ite (.next (.only canalLost_keeps)) (.next (.after updCanal_keeps (.only storeHidden_keeps)))

theorem canalSnapCommit_completes {k : Nat} {gen : Nat} {s : State} :
    Completes (touches (.canalSnapCommit k gen)) s (execCanalSnapCommit k gen s) := by
  unfold execCanalSnapCommit
  split
  · exact .same
  · refine .ite .same ?_
    split
    · exact .ite (.next (.only canalTx_keeps)) .same
    · exact .ite .same (.next (.after targetCommit_keeps (.only updCanal_keeps)))

theorem canalCommitAck_completes {k : Nat} {gen : Nat} {status : Nat} {s : State} :
    Completes (touches (.canalCommitAck k gen status)) s (execCanalCommitAck k gen status s) := by
  unfold execCanalCommitAck
  split
  · exact .same
  · exact .ite .same (.ite (.next (.only abandon_keeps)) (.next (.only canalCommitted_keeps)))

theorem canalRetarget_completes {k : Nat} {node : Nat} {s : State} :
    Completes (touches (.canalRetarget k node)) s (execCanalRetarget k node s) := by
  unfold execCanalRetarget
  dsimp -proj only
  split
  · exact .same
  · refine .ite .same ?_
    split
    · exact .next (.after connectTo_keeps (.after updCanal_keeps (.only canalLost_keeps)))
    · exact .next (.after canalConnect_keeps (.after updCanal_keeps (.only canalLost_keeps)))

theorem canalSyncTmoExpiry_completes {k : Nat} {s : State} :
    Completes (touches (.canalSyncTmoExpiry k)) s (execCanalSyncTmoExpiry k s) := by
  unfold execCanalSyncTmoExpiry
  split
  · exact .same
  · exact .ite .same (.ite (.next (.only canalPolicy_keeps)) (.next (.after canalPolicy_keeps (.only canalDrop_keeps))))

theorem canalRetryTimer_completes {s : State} :
    Completes (touches .canalRetryTimer) s (execCanalRetryTimer s) :=
  .ite .same (.next (.foldl (fun _ _ => .only canalConnect_keeps) .rfl))

theorem canalReattestTimer_completes {k : Nat} {s : State} :
    Completes (touches (.canalReattestTimer k)) s (execCanalReattestTimer k s) := by
  unfold execCanalReattestTimer
  split
  · exact .ite (.next (.only canalAsk_keeps)) .same
  · exact .same

theorem canalPeriodTimer_completes {k : Nat} {s : State} :
    Completes (touches (.canalPeriodTimer k)) s (execCanalPeriodTimer k s) := by
  unfold execCanalPeriodTimer
  split
  · exact .ite (.next (.only tryXfer_keeps)) .same
  · exact .same

theorem drainCutoverTimeout_completes {g : Fin 2} {s : State} :
    Completes (touches (.drainCutoverTimeout g)) s (execDrainCutoverTimeout g s) := by
  unfold execDrainCutoverTimeout
  dsimp -proj only
  refine .ite ?_ .same
  split
  · refine .ite (.next (.after drainReturn_keeps (.after updEvac_keeps (.after updDrain_keeps (.after updEvac_keeps
      (.after canalTx_keeps (.only updCanal_keeps))))))) ?_
    refine .next ?_
    split
    · exact .after tryXfer_keeps (.after updDrain_keeps (.after updEvac_keeps (.after canalTx_keeps (.only updCanal_keeps))))
    · exact .after updDrain_keeps (.after updEvac_keeps (.after canalTx_keeps (.only updCanal_keeps)))
  · exact .next (.only updEvac_keeps)

theorem drainOfferReply_completes {peer : Nat} {vol : Nat} {handle : Option Nat} {s : State} :
    Completes (touches (.drainOfferReply peer vol handle)) s (execDrainOfferReply peer vol handle s) := by
  unfold execDrainOfferReply
  dsimp -proj only
  split
  · exact .same
  · refine .ite .same ?_
    split
    · exact .next (.after canalConnect_keeps (.after updDrain_keeps (.after updEvac_keeps (.only putCanal_keeps))))
    · exact .ite (.next (.after drainAsk_keeps (.only updEvac_keeps))) (.next (.after drainNext_keeps (.after raise_keeps
        (.after updDrain_keeps (.after updEvac_keeps (.only updEvac_keeps))))))

/-! ### The commands of Machine/Volumes.lean -/

theorem volCreate_completes {m : Fin 16} {s : State} :
    Completes (touches (.volCreate m)) s (execVolCreate m s) := by
  unfold execVolCreate
  dsimp -proj only
  refine .next ?_
  refine volRow_keeps ?_ rfl
  intro _ _
  refine .eitherFst (.only answer_keeps) ?_
  refine .eitherFst (.only answer_keeps) ?_
  refine .eitherFst (.only answer_keeps) ?_
  refine .eitherFst (.only answer_keeps) ?_
  split
  · exact .only answer_keeps
  · exact .after answerData_keeps (.after addVolume_keeps (.eitherSnd (.only makeNguid_keeps) .rfl))

theorem volDelete_completes {m : Fin 16} {s : State} :
    Completes (touches (.volDelete m)) s (execVolDelete m s) := by
  unfold execVolDelete
  refine .next (volRow_keeps ?_ rfl)
  intro _ _
  split
  · exact .only answer_keeps
  · refine .eitherFst (.only answer_keeps) (.eitherFst (.only answer_keeps) ?_)
    dsimp only
    exact .only enter_keeps

theorem volResize_completes {m : Fin 16} {s : State} :
    Completes (touches (.volResize m)) s (execVolResize m s) := by
  unfold execVolResize
  refine .next (volRow_keeps ?_ rfl)
  intro _ _
  dsimp -proj only
  split
  · exact .only answer_keeps
  · refine .eitherFst (.only answer_keeps) (.eitherFst (.after answer_keeps (.after jRecord_keeps (.only updVol_keeps))) ?_)
    dsimp only
    exact .only enter_keeps

theorem volAccessAdd_completes {m : Fin 16} {s : State} :
    Completes (touches (.volAccessAdd m)) s (execVolAccessAdd m s) := by
  unfold execVolAccessAdd
  refine .next ?_
  refine volRow_keeps ?_ rfl
  intro _ _
  split
  · exact .only answer_keeps
  · exact .eitherFst (.only answer_keeps) (.eitherFst (.only answer_keeps) (.after answer_keeps (.after nsChanged_keeps
      (.after jRecord_keeps (.only updVol_keeps)))))

theorem volAccessRemove_completes {m : Fin 16} {s : State} :
    Completes (touches (.volAccessRemove m)) s (execVolAccessRemove m s) := by
  unfold execVolAccessRemove
  refine .next ?_
  refine volRow_keeps ?_ rfl
  intro _ _
  split
  · exact .only answer_keeps
  · exact .eitherFst (.only answer_keeps) (.after answer_keeps (.after nsChanged_keeps (.after jRecord_keeps
      (.only updVol_keeps))))

theorem volInfo_completes {m : Fin 16} {s : State} :
    Completes (touches (.volInfo m)) s (execVolInfo m s) := by
  unfold execVolInfo
  dsimp -proj only
  refine .next ?_
  refine volRow_keeps ?_ rfl
  intro _ _
  split
  · exact .only answer_keeps
  · exact .only answerData_keeps

theorem volList_completes {m : Fin 16} {s : State} :
    Completes (touches (.volList m)) s (execVolList m s) :=
  .next (volRow_keeps (fun _ _ => .only answerData_keeps) rfl)

theorem snapTake_completes {m : Fin 16} {s : State} :
    Completes (touches (.snapTake m)) s (execSnapTake m s) :=
  .next (volRow_keeps (fun _ _ => .eitherFst (.only answer_keeps) (.eitherFst (.only answer_keeps) (.eitherFst
    (.only answer_keeps) (.eitherFst (.only answer_keeps) (.eitherFst (.only answer_keeps) (.foldl
    (fun _ _ => .only enter_keeps) .rfl)))))) rfl)

theorem snapDelete_completes {m : Fin 16} {s : State} :
    Completes (touches (.snapDelete m)) s (execSnapDelete m s) := by
  unfold execSnapDelete
  refine .next ?_
  refine volRow_keeps ?_ rfl
  intro _ _
  split
  · exact .only answer_keeps
  · split
    · exact .after answer_keeps (.only removeSnap_keeps)
    · exact .eitherFst (.only answer_keeps) (.after answer_keeps (.after removeSnap_keeps (.only abandon_keeps)))

theorem snapRestore_completes {m : Fin 16} {s : State} :
    Completes (touches (.snapRestore m)) s (execSnapRestore m s) := by
  unfold execSnapRestore
  refine .next (volRow_keeps ?_ rfl)
  intro _ _
  split
  · exact .only answer_keeps
  · dsimp only
    exact .only enter_keeps

theorem snapClone_completes {m : Fin 16} {s : State} :
    Completes (touches (.snapClone m)) s (execSnapClone m s) := by
  unfold execSnapClone
  dsimp -proj only
  refine .next ?_
  refine volRow_keeps ?_ rfl
  intro _ _
  split
  · exact .only answer_keeps
  · refine .eitherFst (.only answer_keeps) ?_
    refine .eitherFst (.only answer_keeps) ?_
    split
    · exact .only answer_keeps
    · exact .after answerData_keeps (.after addVolume_keeps (.only makeNguid_keeps))

theorem snapList_completes {m : Fin 16} {s : State} :
    Completes (touches (.snapList m)) s (execSnapList m s) := by
  unfold execSnapList
  dsimp -proj only
  refine .next ?_
  refine volRow_keeps ?_ rfl
  intro _ _
  split
  · exact .only answer_keeps
  · exact .only answerData_keeps

theorem brickSet_completes {m : Fin 16} {s : State} :
    Completes (touches (.brickSet m)) s (execBrickSet m s) :=
  .next (volRow_keeps (fun _ _ => .eitherFst (.only answer_keeps) (.eitherFst (.after answer_keeps (.after nalSend_keeps
    (.upd_volu (.upd_nvBrickId .rfl rfl) rfl))) (.after answer_keeps (.upd_volu (.upd_nvBrickId .rfl rfl) rfl)))) rfl)

theorem peerSet_completes {m : Fin 16} {s : State} :
    Completes (touches (.peerSet m)) s (execPeerSet m s) :=
  .next (volRow_keeps (fun _ _ => .eitherFst (.only answer_keeps) (.eitherFst (.only answer_keeps) (.after answer_keeps
    (.after nalSend_keeps (.upd_volu .rfl rfl))))) rfl)

theorem peerRemove_completes {m : Fin 16} {s : State} :
    Completes (touches (.peerRemove m)) s (execPeerRemove m s) :=
  .next (volRow_keeps (fun _ _ => .eitherFst (.only answer_keeps) (.after answer_keeps (.after nalSend_keeps
    (.upd_volu .rfl rfl)))) rfl)

theorem volMapRead_completes {m : Fin 16} {s : State} :
    Completes (touches (.volMapRead m)) s (execVolMapRead m s) := by
  unfold execVolMapRead
  dsimp -proj only
  refine .next ?_
  refine volRow_keeps ?_ rfl
  intro _ _
  split
  · exact .only answer_keeps
  · split
    · exact .only answer_keeps
    · exact .rfl

theorem snapDiff_completes {m : Fin 16} {s : State} :
    Completes (touches (.snapDiff m)) s (execSnapDiff m s) := by
  unfold execSnapDiff
  dsimp -proj only
  refine .next ?_
  refine volRow_keeps ?_ rfl
  intro _ _
  split
  · exact .only answer_keeps
  · split
    · refine .eitherFst (.only answer_keeps) ?_
      split
      · exact .only answer_keeps
      · exact .rfl
    · exact .only answer_keeps

/-! ### The commands of Machine/Flash.lean -/

theorem channelTrainDone_completes {c : Fin 32} {ok : Bool} {dies : List DieReport} {bad : List (Nat × Nat)} {s : State} :
    Completes (touches (.channelTrainDone c ok dies bad)) s (execChannelTrainDone c ok dies bad s) := by
  unfold execChannelTrainDone
  refine .ite .same (.ite (.next (.after raise_keeps (.after setF_keeps (.only setF_keeps)))) ?_)
  extract_lets h first n pages blocks good pool st lost h1 s1 s2 s3 s4 s5 s6
  have k2 : Keeps (touches (.channelTrainDone c ok dies bad)) s s2 :=
    .onto (.either (.foldl (fun _ _ => .only updBlk_keeps) .rfl) .rfl) (.only updChan_keeps)
  have k3 : Keeps (touches (.channelTrainDone c ok dies bad)) s s3 := .forN (fun _ _ => .only setF_keeps) k2
  have k4 : Keeps (touches (.channelTrainDone c ok dies bad)) s s4 :=
    .forN (fun _ _ => .either (.only raise_keeps) (.either (.only raise_keeps) .rfl)) k3
  have k5 : Keeps (touches (.channelTrainDone c ok dies bad)) s s5 :=
    .forN (fun _ _ => .either (.after setF_keeps (.only setF_keeps)) .rfl) k4
  have k6 : Keeps (touches (.channelTrainDone c ok dies bad)) s s6 :=
    .after setF_keeps (.after setF_keeps (.after setB_keeps (.after setF_keeps (.after setF_keeps k5))))
  exact .next (k6.upd_fl rfl)

theorem flashProgramDone_completes {c : Fin 32} {d : Fin 16} {what : Prog} {ok : Bool} {s : State} :
    Completes (touches (.flashProgramDone c d what ok)) s (execFlashProgramDone c d what ok s) := by
  unfold execFlashProgramDone
  refine .ite .same ?_
  split
  · exact .next (.only flashRoCheck_keeps)
  · refine .ite (.next (.only programFailed_keeps)) ?_
    split
    · exact .ite (.next (.only progInto_keeps)) .same
    · exact .ite .same (.next (.after stageDone_keeps (.only progInto_keeps)))
    · split
      · exact .same
      · refine .ite .same ?_
        dsimp only
        split
        · exact .same
        next s1 h => exact .next (.after jRelease_keeps (.after jAckFree_keeps (.after updJrn_keeps (.only
          (journalPages_keeps h)))))
    · split
      · exact .same
      · split
        · exact .same
        · exact .next (.after updMove_keeps (.after updMove_keeps (.only progInto_keeps)))

theorem flashEraseDone_completes {c : Fin 32} {d : Fin 16} {b : BitVec 16} {ok : Bool} {s : State} :
    Completes (touches (.flashEraseDone c d b ok)) s (execFlashEraseDone c d b ok s) :=
  .ite .same (.ite (.next (.after setF_keeps (.after memZero_keeps (.only updBlk_keeps)))) (.next
    (.after flashRoCheck_keeps (.after health_keeps (.after raise_keeps (.after setF_keeps (.only retireBlk_keeps)))))))

theorem flashReadDone_completes {g : Fin 2} {lfp : BitVec 34} {step : Fin 5} {s : State} :
    Completes (touches (.flashReadDone g lfp step)) s (execFlashReadDone g lfp step s) := by
  unfold execFlashReadDone
  dsimp -proj only
  split
  · exact .same
  · exact .ite .same (.next (.after needsDone_keeps (.either (.only updBlk_keeps) (.onto (.either (.after health_keeps
      (.after raise_keeps (.only setF_keeps))) (.after health_keeps (.eitherOp (fun _ => .only setF_keeps) (fun _ => .rfl)
      (.eitherOp (fun _ => .only setF_keeps) (fun _ => .rfl) (.only count_keeps))))) (.only updBlk_keeps)))))

theorem dieBusyTimeout_completes {c : Fin 32} {d : Fin 16} {s : State} :
    Completes (touches (.dieBusyTimeout c d)) s (execDieBusyTimeout c d s) :=
  .ite .same (.next (.after raise_keeps (.after setF_keeps (.after updChan_keeps (.after setF_keeps (.only setF_keeps))))))

theorem flashPatrolTimer_completes {weak : List (Nat × Nat × Nat)} {s : State} :
    Completes (touches (.flashPatrolTimer weak)) s (execFlashPatrolTimer weak s) :=
  .ite .same (.next (.upd_fl_tier .rfl rfl rfl))

theorem heatHalvingTimer_completes {s : State} :
    Completes (touches .heatHalvingTimer) s (execHeatHalvingTimer s) :=
  .next (.upd_tier .rfl rfl)

theorem rackMoveStart_completes {g : Fin 2} {kind : Fin 7} {c : Fin 32} {band : BitVec 24} {s : State} :
    Completes (touches (.rackMoveStart g kind c band)) s (execRackMoveStart g kind c band s) :=
  .next (.only rackStart_keeps)

theorem rackSourceReadDone_completes {id : Nat} {bad : List Nat} {s : State} :
    Completes (touches (.rackSourceReadDone id bad)) s (execRackSourceReadDone id bad s) := by
  unfold execRackSourceReadDone
  split
  · exact .ite (.next (.only rackSourceRead_keeps)) .same
  · exact .same

theorem rackTargetVerified_completes {id : Nat} {ok : Bool} {s : State} :
    Completes (touches (.rackTargetVerified id ok)) s (execRackTargetVerified id ok s) := by
  unfold execRackTargetVerified
  split
  · exact .same
  · refine .ite .same ?_
    refine .ite (.next (.only rackCommit_keeps)) ?_
    split
    · exact .next (.only runFailed_keeps)
    · exact .next (.only rackRestart_keeps)

theorem rackSourceRelease_completes {id : Nat} {s : State} :
    Completes (touches (.rackSourceRelease id)) s (execRackSourceRelease id s) := by
  unfold execRackSourceRelease
  dsimp -proj only
  split
  · exact .same
  · exact .ite .same (.next (.after dieRetireDone_keeps (.onto (.either (.only setKind_keeps) .rfl)
      (.only moveRelease_keeps))))

theorem capacityAccountTimer_completes {s : State} :
    Completes (touches .capacityAccountTimer) s (execCapacityAccountTimer s) :=
  .ite (.next (.after roGive_keeps (.only nalSend_keeps))) .same

theorem capacityAccountReceived_completes {cap : Nat} {stored : Nat} {unred : Nat} {s : State} :
    Completes (touches (.capacityAccountReceived cap stored unred)) s (execCapacityAccountReceived cap stored unred s) :=
  .ite (.next (.onto (.either .rfl (.only setF_keeps)) (.upd_fl .rfl rfl))) .same

theorem tierHealth_completes {m : Fin 16} {partner : Option (List Byte)} {s : State} :
    Completes (touches (.tierHealth m partner)) s (execTierHealth m partner s) := by
  unfold execTierHealth
  refine .next ?_
  refine mbxRow_keeps ?_ rfl
  intro _ _
  split
  · exact .only answerData_keeps
  · exact .only answerData_keeps

theorem rackPolicySet_completes {m : Fin 16} {s : State} :
    Completes (touches (.rackPolicySet m)) s (execRackPolicySet m s) :=
  .next (mbxRow_keeps (fun _ _ => .after answer_keeps (.only rackPolicy_keeps)) rfl)

theorem rackPolicyGet_completes {m : Fin 16} {s : State} :
    Completes (touches (.rackPolicyGet m)) s (execRackPolicyGet m s) :=
  .next (mbxRow_keeps (fun _ _ => .only answerData_keeps) rfl)

theorem rackStartGc_completes {m : Fin 16} {s : State} :
    Completes (touches (.rackStartGc m)) s (execRackStartGc m s) :=
  .next (mbxRow_keeps (fun _ _ => .after answer_keeps (.only setKind_keeps)) rfl)

theorem rackStartCooling_completes {m : Fin 16} {s : State} :
    Completes (touches (.rackStartCooling m)) s (execRackStartCooling m s) :=
  .next (mbxRow_keeps (fun _ _ => .after answer_keeps (.only setKind_keeps)) rfl)

theorem rackStartCompaction_completes {m : Fin 16} {s : State} :
    Completes (touches (.rackStartCompaction m)) s (execRackStartCompaction m s) :=
  .next (mbxRow_keeps (fun _ _ => .after answer_keeps (.only setKind_keeps)) rfl)

theorem rackStartHoming_completes {m : Fin 16} {s : State} :
    Completes (touches (.rackStartHoming m)) s (execRackStartHoming m s) :=
  .next (mbxRow_keeps (fun _ _ => .after answer_keeps (.only setKind_keeps)) rfl)

theorem rackStartPatrol_completes {m : Fin 16} {s : State} :
    Completes (touches (.rackStartPatrol m)) s (execRackStartPatrol m s) :=
  .next (mbxRow_keeps (fun _ _ => .eitherFst (.after answer_keeps (.upd_fl .rfl rfl)) (.only answer_keeps)) rfl)

theorem runInfo_completes {m : Fin 16} {s : State} :
    Completes (touches (.runInfo m)) s (execRunInfo m s) :=
  .next (mbxRow_keeps (fun _ _ => .eitherFst (.only answer_keeps) (.eitherFst (.only answer_keeps)
    (.only answerData_keeps))) rfl)

theorem flDieRetire_completes {m : Fin 16} {s : State} :
    Completes (touches (.flDieRetire m)) s (execFlDieRetire m s) :=
  .next (mbxRow_keeps (fun _ _ => .eitherFst (.only answer_keeps) (.eitherFst (.only answer_keeps) (.eitherFst
    (.after answer_keeps (.after setF_keeps (.after updChan_keeps (.only setF_keeps)))) (.upd_fl (.after setF_keeps
    (.after updChan_keeps (.only setF_keeps))) rfl)))) rfl)

theorem flPageRead_completes {m : Fin 16} {s : State} :
    Completes (touches (.flPageRead m)) s (execFlPageRead m s) :=
  .next (mbxRow_keeps (fun _ _ => .eitherFst (.only answer_keeps) (.eitherFst (.only answer_keeps)
    (.upd_free .rfl rfl))) rfl)

theorem flTableLoad_completes {m : Fin 16} {s : State} :
    Completes (touches (.flTableLoad m)) s (execFlTableLoad m s) := by
  refine .next (mbxRow_keeps (fun c x => .eitherFst (.only answer_keeps) ?_) rfl)
  show Keeps _ x (updChan _ _ x)
  exact .only updChan_keeps

theorem fpmCommit_completes {p : Path} {s : State} :
    Completes (touches (.fpmCommit p)) s (execFpmCommit p s) :=
  .next (busAct_keeps (fun _ => acc_keeps (fun _ => .only setF_keeps) rfl) rfl)

theorem tempSampleTimer_completes {mech : Int} {s : State} :
    Completes (touches (.tempSampleTimer mech)) s (execTempSampleTimer mech s) :=
  .ite .same (.next (.upd_tier .rfl rfl))

theorem tempHistoryHourly_completes {s : State} :
    Completes (touches .tempHistoryHourly) s (execTempHistoryHourly s) :=
  .ite .same (.next (.upd_tier .rfl rfl))

/-! ### The commands of Machine/Mem.lean -/

theorem eccFillCellar_completes {p : Path} {s : State} :
    Completes (touches (.eccFillCellar p)) s (execEccFillCellar p s) :=
  .next (busAct_keeps (fun _ => acc_keeps (fun _ => .only fillCellar_keeps) rfl) rfl)

theorem eccFillDram_completes {p : Path} {s : State} :
    Completes (touches (.eccFillDram p)) s (execEccFillDram p s) :=
  .next (busAct_keeps (fun _ => acc_keeps (fun _ => .only fillDram_keeps) rfl) rfl)

theorem eccFillDone_completes {upTo : Option (BitVec 40)} {s : State} :
    Completes (touches (.eccFillDone upTo)) s (execEccFillDone upTo s) := by
  unfold execEccFillDone
  dsimp -proj only
  split
  · exact .next (.eitherOp (fun _ => .only fillDram_keeps) (fun _ => .rfl) (.after setF_keeps (.after clearBadAll_keeps
      (.after memZero_keeps (.upd_bring_memc .rfl rfl rfl)))))
  · exact .ite (.ite .same (.next (.only fillTo_keeps))) (.next (.after setF_keeps (.upd_bring_memc
      (.only fillTo_keeps) rfl rfl)))
  · exact .same

theorem eccPatrolRead_completes {vat : Bool} {r : EccRes} {s : State} :
    Completes (touches (.eccPatrolRead vat r)) s (execEccPatrolRead vat r s) :=
  .ite .same (.next (.upd_memc (.only eccRead_keeps) rfl))

theorem eccCeWindowExpiry_completes {m : Fin 5} {s : State} :
    Completes (touches (.eccCeWindowExpiry m)) s (execEccCeWindowExpiry m s) :=
  .next (.upd_memc .rfl rfl)

theorem coreFetchUeTrap_completes {core : Fin 8} {off : BitVec 20} {s : State} :
    Completes (touches (.coreFetchUeTrap core off)) s (execCoreFetchUeTrap core off s) :=
  .ite .same (.next (.after raise_keeps (.upd_memc (.only eccUe_keeps) rfl)))

theorem coreReloadDone_completes {core : Fin 8} {s : State} :
    Completes (touches (.coreReloadDone core)) s (execCoreReloadDone core s) :=
  .ite (.next (.upd_bad_memc .rfl rfl rfl)) .same

theorem coreDataUeTrap_completes {core : Fin 8} {addr : BitVec 24} {hasSource : Bool} {s : State} :
    Completes (touches (.coreDataUeTrap core addr hasSource)) s (execCoreDataUeTrap core addr hasSource s) :=
  .ite .same (.ite (.next (.after raise_keeps (.after clearBad_keeps (.only eccUe_keeps)))) (.next (.after raise_keeps
    (.only eccUe_keeps))))

theorem memStats_completes {m : Fin 16} {s : State} :
    Completes (touches (.memStats m)) s (execMemStats m s) :=
  .next (mbxRow_keeps (fun _ _ => .eitherFst (.only answer_keeps) (.only answerData_keeps)) rfl)

theorem memRewrite_completes {m : Fin 16} {r : EccRes} {s : State} :
    Completes (touches (.memRewrite m r)) s (execMemRewrite m r s) :=
  .next (mbxRow_keeps (fun _ _ => .eitherFst (.only answer_keeps) (.eitherFst (.after answer_keeps (.eitherFst
    (.only eccRead_keeps) (.after eccRead_keeps (.only takeFree_keeps)))) (.after answer_keeps (.eitherFst
    (.only eccRead_keeps) (.after eccRead_keeps (.only takeFree_keeps)))))) rfl)

theorem memRetire_completes {m : Fin 16} {s : State} :
    Completes (touches (.memRetire m)) s (execMemRetire m s) :=
  .next (mbxRow_keeps (fun _ _ => .eitherFst (.only answer_keeps) (.eitherFst (.only answer_keeps) (.eitherFst
    (.only answer_keeps) (.after answer_keeps (.onto (.either (.only setF_keeps) .rfl) (.upd_nvRetired .rfl rfl)))))) rfl)

theorem tcInvalidateAll_completes {p : Path} {s : State} :
    Completes (touches (.tcInvalidateAll p)) s (execTcInvalidateAll p s) :=
  .next (busAct_keeps (fun _ => .only tcMaint_keeps) rfl)

theorem tcInvalidateRange_completes {p : Path} {lines : Fin 16384} {s : State} :
    Completes (touches (.tcInvalidateRange p lines)) s (execTcInvalidateRange p lines s) :=
  .next (busAct_keeps (fun _ => .only tcMaint_keeps) rfl)

theorem tcPreload_completes {p : Path} {way : Fin 16} {lines : Fin 16384} {s : State} :
    Completes (touches (.tcPreload p way lines)) s (execTcPreload p way lines s) :=
  .next (busAct_keeps (fun _ => .only tcMaint_keeps) rfl)

theorem tcMaintDone_completes {s : State} :
    Completes (touches .tcMaintDone) s (execTcMaintDone s) := by
  unfold execTcMaintDone
  split
  · exact .same
  · exact .next (.after setF_keeps (.upd_memc (.either (.forN (fun _ _ => .only tcPreload1_keeps) .rfl) .rfl) rfl))

theorem tcFillDone_completes {line : BitVec 32} {prefetch : Bool} {badHit : Bool} {r : EccRes} {before : List TcAccess} {s :
  State} :
    Completes (touches (.tcFillDone line prefetch badHit r before)) s (execTcFillDone line prefetch badHit r before s) :=
  .ite .same (.ite (.next (.foldl (fun _ _ => .only tcAccess_keeps) .rfl))
    (.next (.after tcArrive_keeps (.foldl (fun _ _ => .only tcAccess_keeps) (.only tcStart_keeps)))))

theorem dmaGo_completes {p : Path} {n : Fin 16} {s : State} :
    Completes (touches (.dmaGo p n)) s (execDmaGo p n s) :=
  .next (busAct_keeps (fun _ => acc_keeps (fun _ => .only dmaGo_keeps) rfl) rfl)

theorem dmaStop_completes {p : Path} {n : Fin 16} {s : State} :
    Completes (touches (.dmaStop p n)) s (execDmaStop p n s) :=
  .next (busAct_keeps (fun _ => acc_keeps (fun _ => .only dmaStop_keeps) rfl) rfl)

theorem dmaResume_completes {p : Path} {n : Fin 16} {s : State} :
    Completes (touches (.dmaResume p n)) s (execDmaResume p n s) :=
  .next (busAct_keeps (fun _ => acc_keeps (fun _ => .only dmaResume_keeps) rfl) rfl)

theorem dmaDisable_completes {p : Path} {n : Fin 16} {s : State} :
    Completes (touches (.dmaDisable p n)) s (execDmaDisable p n s) :=
  .next (busAct_keeps (fun _ => acc_keeps (fun _ => .only dmaDisable_keeps) rfl) rfl)

theorem dmaDescriptorDone_completes {n : Fin 16} {ue : Option Nat} {partnerOk : Bool} {host : List Host.Cell} {s : State} :
    Completes (touches (.dmaDescriptorDone n ue partnerOk host)) s (execDmaDescriptorDone n ue partnerOk host s) := by
  unfold execDmaDescriptorDone
  refine .ite .same ?_
  extract_lets s0 d x found at?
  have k0 : Keeps (touches (.dmaDescriptorDone n ue partnerOk host)) s s0 := .only hostPlaces_keeps
  have kx : Keeps (touches (.dmaDescriptorDone n ue partnerOk host)) s x.2.2 := by
    unfold x
    split
    · exact .after spaceRead_keeps k0
    · exact k0
  refine .ite (.next (.after dmaHalt_keeps k0)) ?_
  clear_value at?
  cases at? with
  | some a =>
    refine .next (.after dmaHalt_keeps (.after wr_keeps ?_))
    split
    · exact .after eccUe_keeps (.after spaceStore_keeps kx)
    · exact .after spaceStore_keeps kx
  | none => exact .next (.after dmaComplete_keeps (.after spaceStore_keeps kx))

theorem dmaCommit_completes {p : Path} {s : State} :
    Completes (touches (.dmaCommit p)) s (execDmaCommit p s) :=
  .next (busAct_keeps (fun _ => acc_keeps (fun _ => .only setF_keeps) rfl) rfl)

/-! ### The commands of Machine/Faults.lean -/

theorem faultLogSecondTimer_completes {s : State} :
    Completes (touches .faultLogSecondTimer) s (execFaultLogSecondTimer s) :=
  .next (.upd_flt (.either (.only logWithheld_keeps) .rfl) rfl)

theorem supWdtKick_completes {p : Path} {s : State} :
    Completes (touches (.supWdtKick p)) s (execSupWdtKick p s) :=
  .next (busAct_keeps (fun _ => acc_keeps (fun _ => .upd_pwr .rfl rfl) rfl) rfl)

theorem supWdtExpiry_completes {s : State} :
    Completes (touches .supWdtExpiry) s (execSupWdtExpiry s) :=
  .ite (.next (.after raiseLive_keeps (.upd_pwr (.only setF_keeps) rfl))) .same

theorem supCommit_completes {p : Path} {s : State} :
    Completes (touches (.supCommit p)) s (execSupCommit p s) :=
  .next (busAct_keeps (fun _ => acc_keeps (fun _ => .upd_pwr .rfl rfl) rfl) rfl)

theorem fltReadGroups_completes {m : Fin 16} {s : State} :
    Completes (touches (.fltReadGroups m)) s (execFltReadGroups m s) :=
  .next (mbxRow_keeps (fun _ _ => .only answerData_keeps) rfl)

theorem fltReadBootRecord_completes {m : Fin 16} {s : State} :
    Completes (touches (.fltReadBootRecord m)) s (execFltReadBootRecord m s) :=
  .next (mbxRow_keeps (fun _ _ => .only answerData_keeps) rfl)

theorem fltClear_completes {m : Fin 16} {s : State} :
    Completes (touches (.fltClear m)) s (execFltClear m s) :=
  .next (mbxRow_keeps (fun _ _ => .eitherFst (.only answer_keeps) (.after answer_keeps (.onto (.either
    (.only clearPend_keeps) .rfl) (.either (.only clearLatch_keeps) .rfl)))) rfl)

theorem fltLogRead_completes {m : Fin 16} {s : State} :
    Completes (touches (.fltLogRead m)) s (execFltLogRead m s) :=
  .next (mbxRow_keeps (fun _ _ => .only answerData_keeps) rfl)

/-! ### The commands of Machine/Thermal.lean -/

theorem tempSensorRead_completes {t0 : Int} {t1 : Int} {t2 : Int} {t3 : Int} {s : State} :
    Completes (touches (.tempSensorRead t0 t1 t2 t3)) s (execTempSensorRead t0 t1 t2 t3 s) :=
  .ite (.next (.only updTherm_keeps)) .same

theorem tjOver105Timeout_completes {s : State} :
    Completes (touches .tjOver105Timeout) s (execTjOver105Timeout s) := by
  unfold execTjOver105Timeout
  dsimp -proj only
  refine .ite .same ?_
  refine .next ?_
  split
  · exact .after paRemove_keeps (.either .rfl (.after raise_keeps (.only updTherm_keeps)))
  · exact .either .rfl (.after raise_keeps (.only updTherm_keeps))

theorem tjOver115Timeout_completes {s : State} :
    Completes (touches .tjOver115Timeout) s (execTjOver115Timeout s) :=
  .ite .same (.next (.after admitTo_keeps (.after raiseLive_keeps (.only updTherm_keeps))))

theorem tjDiskWaitTimeout_completes {k : Nat} {s : State} :
    Completes (touches (.tjDiskWaitTimeout k)) s (execTjDiskWaitTimeout k s) := by
  unfold execTjDiskWaitTimeout
  split
  · exact .same
  · exact .ite (.next (.after sluRefresh_keeps (.only updCmd_keeps))) .same

theorem tjRecoveryTimeout_completes {s : State} :
    Completes (touches .tjRecoveryTimeout) s (execTjRecoveryTimeout s) :=
  .next (.onto (.either (.only updTherm_keeps) .rfl) (.either (.after clearLive_keeps (.only updTherm_keeps)) .rfl))

/-- Every command answers a next state, and changes only the parts that `touches` names. -/
theorem exec_completes (i : Instr) (s : State) : Completes (touches i) s (exec i s) :=
  match i with
  | .resetNAssert => resetNAssert_completes
  | .resetNDeassert .. => resetNDeassert_completes
  | .vsysPowerOnRelease => vsysPowerOnRelease_completes
  | .vsysBelowRated .. => vsysBelowRated_completes
  | .vsysPowerFail .. => vsysPowerFail_completes
  | .holdupEnd => holdupEnd_completes
  | .vsysOvervoltage .. => vsysOvervoltage_completes
  | .vmotStartPermitted .. => vmotStartPermitted_completes
  | .vmotUndervoltage .. => vmotUndervoltage_completes
  | .vmotOvervoltage .. => vmotOvervoltage_completes
  | .vmotOvFallowTimeout => vmotOvFallowTimeout_completes
  | .vmotOvReturn .. => vmotOvReturn_completes
  | .pwrDomReqWrite .. => pwrDomReqWrite_completes
  | .domainDrainDone .. => domainDrainDone_completes
  | .pwrDrainLimitExpiry .. => pwrDrainLimitExpiry_completes
  | .domainPowerUpDone .. => domainPowerUpDone_completes
  | .modeSetBringup .. => modeSetBringup_completes
  | .modeSetSolo .. => modeSetSolo_completes
  | .modeSetFallow .. => modeSetFallow_completes
  | .modeSetWake .. => modeSetWake_completes
  | .modeSetDrain .. => modeSetDrain_completes
  | .modeSetDrainCancel .. => modeSetDrainCancel_completes
  | .modeSetDormant .. => modeSetDormant_completes
  | .pairModeRequestReceived .. => pairModeRequestReceived_completes
  | .safeRelease .. => safeRelease_completes
  | .soloStartWaitExpiry => soloStartWaitExpiry_completes
  | .idleFallowExpiry => idleFallowExpiry_completes
  | .fallowEntryDone => fallowEntryDone_completes
  | .wakeDiskReadsAdmitted .. => wakeDiskReadsAdmitted_completes
  | .wakeCalibrationDone => wakeCalibrationDone_completes
  | .drainEvacuationComplete => drainEvacuationComplete_completes
  | .bootSupervisorVerified => bootSupervisorVerified_completes
  | .bootDormantEntered => bootDormantEntered_completes
  | .bootControlVerified => bootControlVerified_completes
  | .bootPatchesVerified => bootPatchesVerified_completes
  | .dramTrainingDone .. => dramTrainingDone_completes
  | .descriptorReadDone .. => descriptorReadDone_completes
  | .descriptorCheckReceived .. => descriptorCheckReceived_completes
  | .nalTrainDone .. => nalTrainDone_completes
  | .fenceTestPulseEnd => fenceTestPulseEnd_completes
  | .fenceTestReportReceived .. => fenceTestReportReceived_completes
  | .fenceTestReportTimeout => fenceTestReportTimeout_completes
  | .partnerAttestationResult .. => partnerAttestationResult_completes
  | .partnerAttestationTimeout => partnerAttestationTimeout_completes
  | .vatReplayDone => vatReplayDone_completes
  | .mapsLoaded .. => mapsLoaded_completes
  | .fullCalibrationDone => fullCalibrationDone_completes
  | .partnerStepReport .. => partnerStepReport_completes
  | .bringupComplete => bringupComplete_completes
  | .hbFrameTimer => hbFrameTimer_completes
  | .hbFrameReceived .. => hbFrameReceived_completes
  | .hbLossTimeout => hbLossTimeout_completes
  | .nalHbMessageReceived .. => nalHbMessageReceived_completes
  | .fenceInAssert .. => fenceInAssert_completes
  | .nalPingReceived => nalPingReceived_completes
  | .pingReplyReceived => pingReplyReceived_completes
  | .takeoverPingTimeout => takeoverPingTimeout_completes
  | .takeoverFenceHoldoffExpiry => takeoverFenceHoldoffExpiry_completes
  | .takeoverArbitrationEnd => takeoverArbitrationEnd_completes
  | .takeoverChannelsAcquired .. => takeoverChannelsAcquired_completes
  | .actuatorCatchDone .. => actuatorCatchDone_completes
  | .actuatorCatchTimeout .. => actuatorCatchTimeout_completes
  | .takeoverReplayDone .. => takeoverReplayDone_completes
  | .tokenReleaseStart .. => tokenReleaseStart_completes
  | .tokenReleaseReceived .. => tokenReleaseReceived_completes
  | .takeAckReceived .. => takeAckReceived_completes
  | .refuseReceived .. => refuseReceived_completes
  | .tokenQueryTimer .. => tokenQueryTimer_completes
  | .tokenQueryReceived .. => tokenQueryReceived_completes
  | .speedLoopSample => speedLoopSample_completes
  | .torqueReceived .. => torqueReceived_completes
  | .handover .. => handover_completes
  | .handoverDrainDone => handoverDrainDone_completes
  | .coilBlendStart .. => coilBlendStart_completes
  | .vcmCurrentCmdReceived .. => vcmCurrentCmdReceived_completes
  | .coilBlendRampEnd .. => coilBlendRampEnd_completes
  | .backupBridgeTimeout .. => backupBridgeTimeout_completes
  | .nalFlitReceived .. => nalFlitReceived_completes
  | .nalAckTimeout => nalAckTimeout_completes
  | .nalLaneFail .. => nalLaneFail_completes
  | .nalRetrainTimer => nalRetrainTimer_completes
  | .perstAssert => perstAssert_completes
  | .perstDeassert => perstDeassert_completes
  | .pcieFlr => pcieFlr_completes
  | .ccEnClear => ccEnClear_completes
  | .msixUnmask .. => msixUnmask_completes
  | .governorRun .. => governorRun_completes
  | .preampReadmitTimer .. => preampReadmitTimer_completes
  | .sampleBufferOverrun .. => sampleBufferOverrun_completes
  | .clkPllCfgWrite .. => clkPllCfgWrite_completes
  | .pllLock .. => pllLock_completes
  | .clkGateReqSet .. => clkGateReqSet_completes
  | .clkGateReqClear .. => clkGateReqClear_completes
  | .clkGateIdle .. => clkGateIdle_completes
  | .clkGateForce .. => clkGateForce_completes
  | .clkSafeRelease .. => clkSafeRelease_completes
  | .clkPaceLowRst .. => clkPaceLowRst_completes
  | .clkSscWrite .. => clkSscWrite_completes
  | .refEdgeTimeout .. => refEdgeTimeout_completes
  | .refFreqMismatch .. => refFreqMismatch_completes
  | .refReturn .. => refReturn_completes
  | .refGood100ms .. => refGood100ms_completes
  | .sysRefclkLoss10ms => sysRefclkLoss10ms_completes
  | .fabRefclkLoss1s => fabRefclkLoss1s_completes
  | .tsInPulse => tsInPulse_completes
  | .clkGate .. => clkGate_completes
  | .clkUngate .. => clkUngate_completes
  | .clkGateLimitExpiry .. => clkGateLimitExpiry_completes
  | .clkRelease .. => clkRelease_completes
  | .clkStatus .. => clkStatus_completes
  | .fwStage .. => fwStage_completes
  | .fwStageIdleTimeout .. => fwStageIdleTimeout_completes
  | .fwActivate .. => fwActivate_completes
  | .fwConfirm .. => fwConfirm_completes
  | .fwAcceptAdd .. => fwAcceptAdd_completes
  | .fwAcceptRemove .. => fwAcceptRemove_completes
  | .fwCommitSvn .. => fwCommitSvn_completes
  | .spdmGetVersion .. => spdmGetVersion_completes
  | .spdmGetCapabilities .. => spdmGetCapabilities_completes
  | .spdmNegotiateAlgorithms .. => spdmNegotiateAlgorithms_completes
  | .spdmGetDigests .. => spdmGetDigests_completes
  | .spdmGetCertificate .. => spdmGetCertificate_completes
  | .spdmChallenge .. => spdmChallenge_completes
  | .spdmGetMeasurements .. => spdmGetMeasurements_completes
  | .spdmKeyExchange .. => spdmKeyExchange_completes
  | .spdmFinish .. => spdmFinish_completes
  | .spdmHeartbeat .. => spdmHeartbeat_completes
  | .spdmKeyUpdate .. => spdmKeyUpdate_completes
  | .spdmEndSession .. => spdmEndSession_completes
  | .spdmChunkSend .. => spdmChunkSend_completes
  | .spdmChunkGet .. => spdmChunkGet_completes
  | .spdmUnsupportedRequest .. => spdmUnsupportedRequest_completes
  | .spdmHeartbeatLapse .. => spdmHeartbeatLapse_completes
  | .mbxMessageArrival .. => mbxMessageArrival_completes
  | .mbxDoorbell .. => mbxDoorbell_completes
  | .mbxRelease .. => mbxRelease_completes
  | .mbxReset .. => mbxReset_completes
  | .mbxHandlerTake .. => mbxHandlerTake_completes
  | .mbxComplete .. => mbxComplete_completes
  | .mailboxSend .. => mailboxSend_completes
  | .mailboxReceive .. => mailboxReceive_completes
  | .nop .. => nop_completes
  | .identify .. => identify_completes
  | .fence .. => fence_completes
  | .fenceConditionsMet .. => fenceConditionsMet_completes
  | .fenceLimitExpiry .. => fenceLimitExpiry_completes
  | .expertEnable .. => expertEnable_completes
  | .expertDisable .. => expertDisable_completes
  | .expertRootAdd .. => expertRootAdd_completes
  | .expertRootRemove .. => expertRootRemove_completes
  | .regRead .. => regRead_completes
  | .regWrite .. => regWrite_completes
  | .violRead .. => violRead_completes
  | .registerWrite .. => registerWrite_completes
  | .counterLoRead .. => counterLoRead_completes
  | .counterSatClear .. => counterSatClear_completes
  | .paReplyReceived .. => paReplyReceived_completes
  | .paFltAssert .. => paFltAssert_completes
  | .paClaimRetryTimer .. => paClaimRetryTimer_completes
  | .hcPaRawTxWrite .. => hcPaRawTxWrite_completes
  | .sectorFramed .. => sectorFramed_completes
  | .taStart .. => taStart_completes
  | .taEnd .. => taEnd_completes
  | .sectorEnd .. => sectorEnd_completes
  | .decoderTake .. => decoderTake_completes
  | .codewordDecodeDone .. => codewordDecodeDone_completes
  | .retryStoreRedecode .. => retryStoreRedecode_completes
  | .ladderStep .. => ladderStep_completes
  | .ladderAbandon .. => ladderAbandon_completes
  | .writeUnsafe .. => writeUnsafe_completes
  | .heaterLeadExpiry .. => heaterLeadExpiry_completes
  | .heaterCalStep .. => heaterCalStep_completes
  | .hcCalibrate .. => hcCalibrate_completes
  | .hcService .. => hcService_completes
  | .hcStats .. => hcStats_completes
  | .hcCommit .. => hcCommit_completes
  | .wedgeSample .. => wedgeSample_completes
  | .fsZtCommit .. => fsZtCommit_completes
  | .zoneMemoryWrite .. => zoneMemoryWrite_completes
  | .fsWordComplete .. => fsWordComplete_completes
  | .fsWordTimeout .. => fsWordTimeout_completes
  | .fsMchkReloadDone .. => fsMchkReloadDone_completes
  | .fsActNop .. => fsActNop_completes
  | .fsActAlu .. => fsActAlu_completes
  | .fsActAlui .. => fsActAlui_completes
  | .fsActRdreg .. => fsActRdreg_completes
  | .fsActWrreg .. => fsActWrreg_completes
  | .fsActZload .. => fsActZload_completes
  | .fsActPacmd .. => fsActPacmd_completes
  | .fsActArm .. => fsActArm_completes
  | .fsActGate .. => fsActGate_completes
  | .fsActPost .. => fsActPost_completes
  | .fsActFetch .. => fsActFetch_completes
  | .fsActSeek .. => fsActSeek_completes
  | .fsActHalt .. => fsActHalt_completes
  | .fsResume .. => fsResume_completes
  | .fsHalt .. => fsHalt_completes
  | .fsTrcFreezeWrite .. => fsTrcFreezeWrite_completes
  | .fsTrcDataRead .. => fsTrcDataRead_completes
  | .fsZoneLoad .. => fsZoneLoad_completes
  | .fsTraceRead .. => fsTraceRead_completes
  | .srvStats .. => srvStats_completes
  | .carrierPeriod .. => carrierPeriod_completes
  | .encoderReadmit => encoderReadmit_completes
  | .vcmLoopSample .. => vcmLoopSample_completes
  | .cleOutputLate .. => cleOutputLate_completes
  | .cleSwapReq .. => cleSwapReq_completes
  | .cleCommit .. => cleCommit_completes
  | .allHeadsLostTimeout .. => allHeadsLostTimeout_completes
  | .motSpindleStart .. => motSpindleStart_completes
  | .motSpindleStop .. => motSpindleStop_completes
  | .motSpindleCoast .. => motSpindleCoast_completes
  | .spnCoast .. => spnCoast_completes
  | .spindleMeasureDone .. => spindleMeasureDone_completes
  | .dcBrakeEnd .. => dcBrakeEnd_completes
  | .alignmentEnd => alignmentEnd_completes
  | .observerHandover .. => observerHandover_completes
  | .spindleAtSpeed .. => spindleAtSpeed_completes
  | .spinupTimeout => spinupTimeout_completes
  | .startRetryTimer => startRetryTimer_completes
  | .shortBrakeEntry .. => shortBrakeEntry_completes
  | .spindleStopped => spindleStopped_completes
  | .lowSpeedUnload .. => lowSpeedUnload_completes
  | .motHeadsLoad .. => motHeadsLoad_completes
  | .motHeadsUnload .. => motHeadsUnload_completes
  | .headLoadDone .. => headLoadDone_completes
  | .headUnloadDone .. => headUnloadDone_completes
  | .vcmRetractWrite .. => vcmRetractWrite_completes
  | .retractRampDetected .. => retractRampDetected_completes
  | .retractLatchDone .. => retractLatchDone_completes
  | .retractTimeout .. => retractTimeout_completes
  | .fanHallEdge .. => fanHallEdge_completes
  | .fanStallTimeout .. => fanStallTimeout_completes
  | .fanOvercurrent .. => fanOvercurrent_completes
  | .fanSpeedLoopTick .. => fanSpeedLoopTick_completes
  | .fanDcBrakeEnd .. => fanDcBrakeEnd_completes
  | .fanStartRetryTimer .. => fanStartRetryTimer_completes
  | .motFan .. => motFan_completes
  | .motStatus .. => motStatus_completes
  | .motTableLoad .. => motTableLoad_completes
  | .bridgeThermalFoldback .. => bridgeThermalFoldback_completes
  | .createIoSq .. => createIoSq_completes
  | .createIoCq .. => createIoCq_completes
  | .deleteIoSq .. => deleteIoSq_completes
  | .deleteIoCq .. => deleteIoCq_completes
  | .getLogPage .. => getLogPage_completes
  | .nvmeIdentify .. => nvmeIdentify_completes
  | .nvmeAbort .. => nvmeAbort_completes
  | .setFeatures .. => setFeatures_completes
  | .getFeatures .. => getFeatures_completes
  | .asyncEventRequest .. => asyncEventRequest_completes
  | .keepAlive .. => keepAlive_completes
  | .keepAliveExpiry .. => keepAliveExpiry_completes
  | .fabricsConnect .. => fabricsConnect_completes
  | .fabricsPropertyGet .. => fabricsPropertyGet_completes
  | .fabricsPropertySet .. => fabricsPropertySet_completes
  | .fabricsDisconnect .. => fabricsDisconnect_completes
  | .unsupportedNvmeOpcode .. => unsupportedNvmeOpcode_completes
  | .nvmeSqDoorbell .. => nvmeSqDoorbell_completes
  | .nvmeCqDoorbell .. => nvmeCqDoorbell_completes
  | .nvmeFlush .. => nvmeFlush_completes
  | .nvmeWrite .. => nvmeWrite_completes
  | .nvmeRead .. => nvmeRead_completes
  | .nvmeWriteZeroes .. => nvmeWriteZeroes_completes
  | .nvmeDatasetManagement .. => nvmeDatasetManagement_completes
  | .nvmeVerify .. => nvmeVerify_completes
  | .reservationRegister .. => reservationRegister_completes
  | .reservationReport .. => reservationReport_completes
  | .reservationAcquire .. => reservationAcquire_completes
  | .reservationRelease .. => reservationRelease_completes
  | .qDbSq .. => qDbSq_completes
  | .qDbCq .. => qDbCq_completes
  | .qDbPush .. => qDbPush_completes
  | .qPollTimer .. => qPollTimer_completes
  | .nativeNop .. => nativeNop_completes
  | .nativeRead .. => nativeRead_completes
  | .nativeWrite .. => nativeWrite_completes
  | .nativeWriteZeroes .. => nativeWriteZeroes_completes
  | .nativeDeallocate .. => nativeDeallocate_completes
  | .nativeVerify .. => nativeVerify_completes
  | .nativeFence .. => nativeFence_completes
  | .nativeFenceDone .. => nativeFenceDone_completes
  | .nativeFenceLimitExpiry .. => nativeFenceLimitExpiry_completes
  | .nativeBand .. => nativeBand_completes
  | .firmwareKindEntry .. => firmwareKindEntry_completes
  | .qCtlStop .. => qCtlStop_completes
  | .qCtlResume .. => qCtlResume_completes
  | .qCtlSkip .. => qCtlSkip_completes
  | .qCreate .. => qCreate_completes
  | .qDelete .. => qDelete_completes
  | .qStop .. => qStop_completes
  | .qResume .. => qResume_completes
  | .qResumeSkip .. => qResumeSkip_completes
  | .sluStats .. => sluStats_completes
  | .sluHwmRst .. => sluHwmRst_completes
  | .headgateAdmit => headgateAdmit_completes
  | .sluiceRun .. => sluiceRun_completes
  | .commandFinish .. => commandFinish_completes
  | .anaChangeTimeout .. => anaChangeTimeout_completes
  | .forwardedRequestReceived .. => forwardedRequestReceived_completes
  | .forwardReplyReceived .. => forwardReplyReceived_completes
  | .vatEntrySealed .. => vatEntrySealed_completes
  | .vatMirrorEntryReceived .. => vatMirrorEntryReceived_completes
  | .mirrorAckReceived .. => mirrorAckReceived_completes
  | .chunkReductionStart .. => chunkReductionStart_completes
  | .tentativeResolved .. => tentativeResolved_completes
  | .indexPageReadDone .. => indexPageReadDone_completes
  | .chunkCoded .. => chunkCoded_completes
  | .reductionRecordCommit .. => reductionRecordCommit_completes
  | .deferredPassTimer => deferredPassTimer_completes
  | .deferredPassEntry => deferredPassEntry_completes
  | .redBacklogOnset => redBacklogOnset_completes
  | .redBacklogStepTimer => redBacklogStepTimer_completes
  | .redBacklogRelease => redBacklogRelease_completes
  | .redPolicySet .. => redPolicySet_completes
  | .redPolicyGet .. => redPolicyGet_completes
  | .redStats .. => redStats_completes
  | .redDedupScan .. => redDedupScan_completes
  | .redRecordRead .. => redRecordRead_completes
  | .redFltClr .. => redFltClr_completes
  | .volCreate .. => volCreate_completes
  | .volDelete .. => volDelete_completes
  | .volResize .. => volResize_completes
  | .volAccessAdd .. => volAccessAdd_completes
  | .volAccessRemove .. => volAccessRemove_completes
  | .volInfo .. => volInfo_completes
  | .volList .. => volList_completes
  | .snapTake .. => snapTake_completes
  | .snapDelete .. => snapDelete_completes
  | .snapRestore .. => snapRestore_completes
  | .snapClone .. => snapClone_completes
  | .snapList .. => snapList_completes
  | .brickSet .. => brickSet_completes
  | .peerSet .. => peerSet_completes
  | .peerRemove .. => peerRemove_completes
  | .canalOpen .. => canalOpen_completes
  | .canalClose .. => canalClose_completes
  | .canalSync .. => canalSync_completes
  | .canalPromote .. => canalPromote_completes
  | .canalStatus .. => canalStatus_completes
  | .drainStatus .. => drainStatus_completes
  | .volMapRead .. => volMapRead_completes
  | .snapDiff .. => snapDiff_completes
  | .canalTcpConnected .. => canalTcpConnected_completes
  | .canalConnectTimeout .. => canalConnectTimeout_completes
  | .canalSetupTimeout .. => canalSetupTimeout_completes
  | .canalFrameInvalid .. => canalFrameInvalid_completes
  | .canalConnectionLost .. => canalConnectionLost_completes
  | .canalHello .. => canalHello_completes
  | .canalWrite .. => canalWrite_completes
  | .canalWriteAck .. => canalWriteAck_completes
  | .canalDiffBegin .. => canalDiffBegin_completes
  | .canalFpList .. => canalFpList_completes
  | .canalFpNeed .. => canalFpNeed_completes
  | .canalRecord .. => canalRecord_completes
  | .canalSnapCommit .. => canalSnapCommit_completes
  | .canalCommitAck .. => canalCommitAck_completes
  | .canalRetarget .. => canalRetarget_completes
  | .canalSyncTmoExpiry .. => canalSyncTmoExpiry_completes
  | .canalRetryTimer => canalRetryTimer_completes
  | .canalReattestTimer .. => canalReattestTimer_completes
  | .canalPeriodTimer .. => canalPeriodTimer_completes
  | .drainCutoverTimeout .. => drainCutoverTimeout_completes
  | .channelTrainDone .. => channelTrainDone_completes
  | .flashProgramDone .. => flashProgramDone_completes
  | .flashEraseDone .. => flashEraseDone_completes
  | .flashReadDone .. => flashReadDone_completes
  | .dieBusyTimeout .. => dieBusyTimeout_completes
  | .flashPatrolTimer .. => flashPatrolTimer_completes
  | .heatHalvingTimer => heatHalvingTimer_completes
  | .rackMoveStart .. => rackMoveStart_completes
  | .rackSourceReadDone .. => rackSourceReadDone_completes
  | .rackTargetVerified .. => rackTargetVerified_completes
  | .rackSourceRelease .. => rackSourceRelease_completes
  | .capacityAccountTimer => capacityAccountTimer_completes
  | .capacityAccountReceived .. => capacityAccountReceived_completes
  | .tierHealth .. => tierHealth_completes
  | .rackPolicySet .. => rackPolicySet_completes
  | .rackPolicyGet .. => rackPolicyGet_completes
  | .rackStartGc .. => rackStartGc_completes
  | .rackStartCooling .. => rackStartCooling_completes
  | .rackStartCompaction .. => rackStartCompaction_completes
  | .rackStartHoming .. => rackStartHoming_completes
  | .rackStartPatrol .. => rackStartPatrol_completes
  | .runInfo .. => runInfo_completes
  | .flDieRetire .. => flDieRetire_completes
  | .flPageRead .. => flPageRead_completes
  | .flTableLoad .. => flTableLoad_completes
  | .fpmCommit .. => fpmCommit_completes
  | .tempSampleTimer .. => tempSampleTimer_completes
  | .tempHistoryHourly => tempHistoryHourly_completes
  | .eccFillCellar .. => eccFillCellar_completes
  | .eccFillDram .. => eccFillDram_completes
  | .eccFillDone .. => eccFillDone_completes
  | .eccPatrolRead .. => eccPatrolRead_completes
  | .eccCeWindowExpiry .. => eccCeWindowExpiry_completes
  | .coreFetchUeTrap .. => coreFetchUeTrap_completes
  | .coreReloadDone .. => coreReloadDone_completes
  | .coreDataUeTrap .. => coreDataUeTrap_completes
  | .memStats .. => memStats_completes
  | .memRewrite .. => memRewrite_completes
  | .memRetire .. => memRetire_completes
  | .tcInvalidateAll .. => tcInvalidateAll_completes
  | .tcInvalidateRange .. => tcInvalidateRange_completes
  | .tcPreload .. => tcPreload_completes
  | .tcMaintDone => tcMaintDone_completes
  | .tcFillDone .. => tcFillDone_completes
  | .dmaGo .. => dmaGo_completes
  | .dmaStop .. => dmaStop_completes
  | .dmaResume .. => dmaResume_completes
  | .dmaDisable .. => dmaDisable_completes
  | .dmaDescriptorDone .. => dmaDescriptorDone_completes
  | .dmaCommit .. => dmaCommit_completes
  | .faultLogSecondTimer => faultLogSecondTimer_completes
  | .supWdtKick .. => supWdtKick_completes
  | .supWdtExpiry => supWdtExpiry_completes
  | .supCommit .. => supCommit_completes
  | .fltReadGroups .. => fltReadGroups_completes
  | .fltReadBootRecord .. => fltReadBootRecord_completes
  | .fltClear .. => fltClear_completes
  | .fltLogRead .. => fltLogRead_completes
  | .fabLinkChange .. => fabLinkChange_completes
  | .tempSensorRead .. => tempSensorRead_completes
  | .tjOver105Timeout => tjOver105Timeout_completes
  | .tjOver115Timeout => tjOver115Timeout_completes
  | .tjDiskWaitTimeout .. => tjDiskWaitTimeout_completes
  | .tjRecoveryTimeout => tjRecoveryTimeout_completes
  | .coarseCalibrationDone => coarseCalibrationDone_completes
  | .spdmResponseReceived .. => spdmResponseReceived_completes
  | .pcieLinkChange .. => pcieLinkChange_completes
  | .tsOutSecondsRollover => tsOutSecondsRollover_completes
  | .registerRead .. => registerRead_completes
  | .nvmeMiRequest .. => nvmeMiRequest_completes
  | .aggregationTimeExpiry .. => aggregationTimeExpiry_completes
  | .drainOfferReply .. => drainOfferReply_completes

/-! ### A step -/

/-- What a step keeps: the whole of `Keeps`, outside the parts that its command names. -/
theorem step_completes {s t : State} (h : step s = .next t) :
    (s.pending = [] ∧ t = { s with now := s.now + 1 }) ∨
      ∃ c r, s.pending = c :: r ∧ Keeps (touches c) { s with pending := r } t := by
  unfold step at h
  split at h
  next c r hp =>
    obtain ⟨u, hu, hk⟩ := exec_completes c { s with pending := r }
    rw [hu] at h
    cases h
    exact .inr ⟨c, r, hp, hk⟩
  next hp =>
    cases h
    exact .inl ⟨hp, rfl⟩

/-- No command names the queue among its parts. -/
theorem pending_notin_touches (i : Instr) : (touches i).contains .pending = false := by
  cases i <;> rfl

/-- Only FW_COMMIT_SVN names a fused minimum among its parts. -/
theorem svn_notin_touches {i : Instr} (h : ∀ m c, i ≠ .fwCommitSvn m c) :
    (touches i).contains .nvSvnMinSup = false ∧ (touches i).contains .nvSvnMinCtl = false := by
  cases i
  case fwCommitSvn m c => exact absurd rfl (h m c)
  all_goals exact ⟨rfl, rfl⟩

/-- Only the two commands of the trust list name it among their parts. -/
theorem expertRoots_notin_touches {i : Instr} (ha : ∀ m, i ≠ .expertRootAdd m) (hr : ∀ m, i ≠ .expertRootRemove m) :
    (touches i).contains .nvExpertRoots = false := by
  cases i
  case expertRootAdd m => exact absurd rfl (ha m)
  case expertRootRemove m => exact absurd rfl (hr m)
  all_goals rfl

/-- Settles O4: every operation keeps memory's canonical form, and so does every command. -/
theorem memoryStaysCanonical : Obligations.MemoryStaysCanonical := by
  unfold Obligations.MemoryStaysCanonical
  intro s t hs h
  rcases step_completes h with ⟨-, rfl⟩ | ⟨c, r, -, hk⟩
  · exact hs
  · exact hk.memWf hs

/-- Settles O5: every operation keeps the register file's canonical form, and so does every command. -/
theorem registersStayCanonical : Obligations.RegistersStayCanonical := by
  unfold Obligations.RegistersStayCanonical
  intro s t hs h
  rcases step_completes h with ⟨-, rfl⟩ | ⟨c, r, -, hk⟩
  · exact hs
  · exact hk.regsWf hs

/-- Settles O6: no operation adds or removes a unit, and the fault log drops its oldest entry when it is full. -/
theorem unitsAndFaultLogStay : Obligations.UnitsAndFaultLogStay := by
  unfold Obligations.UnitsAndFaultLogStay
  intro s t h
  rcases step_completes h with ⟨-, rfl⟩ | ⟨c, r, -, hk⟩
  · exact ⟨id, id⟩
  · exact ⟨hk.units, hk.log⟩

/-- Settles O7: every operation that writes a fused minimum takes the larger value, and only FW_COMMIT_SVN names one. -/
theorem fusedMinimumsNeverFall : Obligations.FusedMinimumsNeverFall := by
  unfold Obligations.FusedMinimumsNeverFall
  intro s t h
  rcases step_completes h with ⟨-, rfl⟩ | ⟨c, r, hp, hk⟩
  · exact ⟨⟨Nat.le_refl _, Nat.le_refl _⟩, fun hne => hne.elim (absurd rfl) (absurd rfl)⟩
  · refine ⟨hk.svn, fun hne => ?_⟩
    refine Classical.byContradiction fun hno => ?_
    have hc : ∀ m b, c ≠ .fwCommitSvn m b := fun m b e => hno ⟨m, b, r, e ▸ hp⟩
    obtain ⟨hsup, hctl⟩ := svn_notin_touches hc
    exact hne.elim (absurd (hk.same _ hsup)) (absurd (hk.same _ hctl))

/-- Settles O8: a command that names the trust list among its parts is one of the two. -/
theorem onlyRootCommandsChangeTheTrustList : Obligations.OnlyRootCommandsChangeTheTrustList := by
  unfold Obligations.OnlyRootCommandsChangeTheTrustList
  intro i s t h hne
  obtain ⟨u, hu, hk⟩ := exec_completes i s
  rw [hu] at h
  cases h
  refine Classical.byContradiction fun hno => ?_
  obtain ⟨ha, hr⟩ := not_or.mp hno
  exact hne (hk.same _ (expertRoots_notin_touches (not_exists.mp ha) (not_exists.mp hr)))

/-- Settles O9: no command names the queue among its parts, and the step takes the front command off it. -/
theorem stepTakesTheFrontCommand : Obligations.StepTakesTheFrontCommand := by
  unfold Obligations.StepTakesTheFrontCommand
  intro s t h
  rcases step_completes h with ⟨hp, rfl⟩ | ⟨c, r, hp, hk⟩
  · show s.pending = s.pending.tail
    rw [hp]
    rfl
  · rw [hp]
    exact (hk.same _ (pending_notin_touches c)).symm

/-- Settles O10: each command's own lemma gives its next state and its frame. -/
theorem commandsChangeOnlyTheirParts : Obligations.CommandsChangeOnlyTheirParts := by
  unfold Obligations.CommandsChangeOnlyTheirParts
  refine ⟨fun i s => ?_, fun i s t h => ?_⟩
  · obtain ⟨t, ht, -⟩ := exec_completes i s
    exact ⟨t, ht⟩
  · obtain ⟨u, hu, hk⟩ := exec_completes i s
    rw [hu] at h
    cases h
    exact hk.same

/-- Settles O1: on a queue with a front command the step is `exec` of it by definition. -/
theorem stepRunsFrontCommand : Obligations.StepRunsFrontCommand := by
  unfold Obligations.StepRunsFrontCommand
  exact fun _ _ _ => rfl

/-- Settles O2: on an empty queue the step takes the idle branch. -/
theorem emptyQueueIdles : Obligations.EmptyQueueIdles := by
  unfold Obligations.EmptyQueueIdles
  intro s h
  unfold step
  rw [h]

/-- Settles O3: the register file and memory list nothing at reset, so every register reads its reset word. -/
theorem resetState : Obligations.ResetState := by
  unfold Obligations.ResetState
  refine ⟨⟨rfl, rfl, ⟨rfl, rfl, rfl, rfl, ?_, rfl, rfl, rfl, rfl, rfl⟩, ?_⟩, fun _ => rfl, rfl, ?_, rfl, rfl, ?_⟩
  · exact List.length_replicate
  · exact Nat.zero_le _
  · decide
  · decide

end Sys2Proof.Machine
end

section
/-! PROOFS. The rows by which commands of the mailboxes, the sequencers, the bus and SPDM run: what each answers when its command may run. -/

set_option Elab.async false

namespace Sys2Proof.Machine

/-! ### Lists of records -/

theorem modAt_of_id {α : Type} {l : List α} {i : Nat} {f : α → α} (h : ∀ y, f y = y) : modAt l i f = l := by
  induction l generalizing i with
  | nil => rfl
  | cons y r ih => cases i with
    | zero => exact congrArg (· :: r) (h y)
    | succ i => exact congrArg (y :: ·) ih

/-! ### Writes through the bus -/

/-- A permitted write runs its action and answers the action's status. -/
theorem busAct_of_writeGoes {p : Path} {a : Nat} {w : Word} {f : State → State × Nat} {s : State} (h : writeGoes p a w s) :
    busAct p a w f s = busAnswer p a (f s).2 0 (f s).1 := by
  unfold busAct
  rw [busCheck_eq_of_go h]

/-! ### Command rows of the mailboxes -/

/-- `t` with the completion `r` in mailbox `m`. -/
def mbxEnds (m : Nat) (r : MbxResult) (t : State) : State :=
  { t with mbx := modAt t.mbx m (fun y => { y with result := some r }) }

/-- A row that answers at once completes its command. -/
theorem mbxRow_of_answer {m op : Nat} {sel : MbxCmd → Bool} {f : MbxCmd → State → State × Option MbxResult} {s t : State}
    {r : MbxResult} (h : mbxRuns s m op) (hs : sel (mbxAt s m).cmd = true) (hf : f (mbxAt s m).cmd (begun m s) = (t, some r)) :
    mbxRow m op sel f s = mbxEnds m r t := by
  rw [mbxRow_runs h hs, hf]
  rfl

/-- A row that answers later leaves its command running. -/
theorem mbxRow_of_wait {m op : Nat} {sel : MbxCmd → Bool} {f : MbxCmd → State → State × Option MbxResult} {s t : State}
    (h : mbxRuns s m op) (hs : sel (mbxAt s m).cmd = true) (hf : f (mbxAt s m).cmd (begun m s) = (t, none)) :
    mbxRow m op sel f s = t := by
  rw [mbxRow_runs h hs, hf]
  show { t with mbx := modAt t.mbx m (fun y => { y with result := y.result }) } = t
  rw [modAt_of_id (fun _ => rfl)]

theorem mbxAt_mbxEnds {m : Fin 16} {r : MbxResult} {t : State} (h : t.mbx.length = 16) :
    mbxAt (mbxEnds m r t) m = { mbxAt t m with result := some r } := getD_modAt_same (by rw [h]; exact m.isLt)

theorem mbxAnswered_mbxEnds {m : Fin 16} {r : MbxResult} {t : State} (h : Units t) : mbxAnswered (mbxEnds m r t) m r.status := by
  unfold mbxAnswered
  rw [mbxAt_mbxEnds h.1]
  rfl

theorem mbxReturns_mbxEnds {m : Fin 16} {l : List Byte} {t : State} (h : Units t) :
    mbxReturns (mbxEnds m ⟨0, l, 0, 0, []⟩ t) m l := by
  unfold mbxReturns
  rw [mbxAt_mbxEnds h.1]

/-- A row does what its function does on its command in the state that marks the command as begun. -/
theorem mbxRow_congr {m op : Nat} {sel : MbxCmd → Bool} {f g : MbxCmd → State → State × Option MbxResult} {s : State}
    (h : f (mbxAt s m).cmd (begun m s) = g (mbxAt s m).cmd (begun m s)) : mbxRow m op sel f s = mbxRow m op sel g s := by
  unfold mbxRow
  unfold begun at h
  dsimp only
  rw [h]

/-- A row of the volume chapter runs as any other row in its turn and on a group that this device holds (R373). -/
theorem volRow_of_runs {m op : Nat} {sel : MbxCmd → Bool} {f : MbxCmd → State → State × Option MbxResult} {s : State}
    (h : volRuns s m op) : volRow m op sel f s = mbxRow m op sel f s := by
  obtain ⟨-, hturn, hgroup⟩ := h
  unfold volRow
  rw [hturn, if_neg (by decide)]
  refine mbxRow_congr ?_
  split
  next g hg =>
    rw [hg] at hgroup
    exact if_pos hgroup
  · rfl

/-! ### Command rows of the other requesters -/

/-- A word's action runs where its sequencer runs it (R254). -/
theorem fsAct_of_acts {a code w : Nat} {f : Nat → State → State} {s : State} (h : fsActs s a code w) :
    fsAct a code f s = f w (fsActed a s) := by
  obtain ⟨hrun, hacted, hword, hcode⟩ := h
  unfold fsAct
  simp only [hword, hrun, hacted, hcode]
  rfl

/-! ### Lists of units -/

/-- A change past the end of a list changes nothing. -/
theorem modAt_past {α : Type} {l : List α} {i : Nat} {f : α → α} (h : l.length ≤ i) : modAt l i f = l := by
  induction l generalizing i with
  | nil => rfl
  | cons a r ih =>
    cases i with
    | zero => exact absurd h (Nat.not_succ_le_zero _)
    | succ i => exact congrArg (a :: ·) (ih (Nat.le_of_succ_le_succ h))

end Sys2Proof.Machine
end

section
/-! PROOFS. O14: an admitted preamplifier in a sector outlives the 115 C episode. -/

set_option Elab.async false

namespace Sys2Proof.Machine

/-- A device above 115 C whose only admitted preamplifier has a head in a sector, with no band in progress. -/
def hotInSector : State :=
  { awake with
    therm := { awake.therm with dies := [120] }
    clk := { awake.clk with admitted := [0] }
    head := modAt awake.head (paPort 0 0) (fun x => { x with cur := some ⟨0, none, 0, [], [], 0, 0⟩ }) }

/-- `admitTo` keeps, beside the preamplifiers named, those admitted ones that are in a sector. -/
theorem admitTo_admitted {l : List Nat} {s : State} :
    (admitTo l s).clk.admitted = l ++ s.clk.admitted.filter (fun p => !l.contains p && paInSector s p) := by
  have hshow : ∀ s, (admitShow s).clk = s.clk := fun _ => (admitShow_keeps.same .clk rfl).symm
  unfold admitTo admitSet
  rw [hshow]

/-- TJ_OVER_115_TIMEOUT of a device that opens the episode keeps the bands' preamplifiers and hands them to `admitTo`. -/
theorem execTjOver115Timeout_opens {s : State} (hlive : live s = true) (htj : 115 < tjOf s) (hover : s.therm.over115 = false) :
    let s1 := raiseLive 2 0x0131 2 0xFFFF 0 true (updTherm (fun t => { t with over115 := true }) s)
    execTjOver115Timeout s = .next (admitTo (s1.clk.admitted.filter (fun p => (bandOf s1 (p / 4)).isSome)) s1) := by
  unfold execTjOver115Timeout
  exact if_neg (by simp [hlive, htj, hover])

/-- Refutes O14: a preamplifier whose head is in a sector leaves only at the sector's end (R106), so it stays admitted with no
band in progress on its actuator. -/
theorem not_temperatureEpisodes : ¬ Obligations.TemperatureEpisodes := by
  unfold Obligations.TemperatureEpisodes
  rintro ⟨-, -, h115, -, -⟩
  have hlive : live hotInSector = true := rfl
  have htj : 115 < tjOf hotInSector := by decide
  have hover : hotInSector.therm.over115 = false := rfl
  obtain ⟨t, ht, -, hadm⟩ := h115 hotInSector hlive htj hover
  have hexec : exec .tjOver115Timeout hotInSector = _ := execTjOver115Timeout_opens hlive htj hover
  obtain rfl := Host.Outcome.next.inj (ht.symm.trans hexec)
  rw [admitTo_admitted] at hadm
  have hlate := List.append_right_eq_self.mp hadm
  revert hlate
  decide +kernel

end Sys2Proof.Machine
end

section
/-! PROOFS. O15: the events and the command of the air movers. -/

set_option Elab.async false

namespace Sys2Proof.Machine

/-! ### Air movers -/

theorem fanOf_updFan_same {f : Fin 4} {g : FanSt → FanSt} {s : State} (h : Units s) : fanOf (updFan f g s) f = g (fanOf s f) := by
  obtain ⟨-, -, -, -, -, -, -, -, hfan, -⟩ := h
  exact getD_modAt_same (by rw [hfan]; exact f.isLt)

/-- A stop of an air mover keeps its target. -/
theorem fanOf_fanStop_target {f g : Nat} {s : State} : (fanOf (fanStop f s) g).target = (fanOf s g).target := by
  have hkeep : ∀ (h : FanSt → FanSt) (l : List FanSt), (∀ x, (h x).target = x.target) →
      ((modAt l f h).getD g FanSt.reset).target = (l.getD g FanSt.reset).target := by
    intro h l ht
    by_cases hfg : f = g
    · subst hfg
      by_cases hl : f < l.length
      · rw [getD_modAt_same hl]
        exact ht _
      · rw [modAt_past (Nat.le_of_not_lt hl)]
    · rw [getD_modAt_ne hfg]
  have hcoast : ∀ s, (fanOf (coastFan f s) g).target = (fanOf s g).target := by
    intro s
    unfold coastFan
    dsimp only
    split <;> exact hkeep _ _ (fun _ => rfl)
  unfold fanStop
  exact (hkeep (fun x => { x with edges := [], tries := 0 }) _ (fun _ => rfl)).trans (hcoast _)

/-- What FAN_HALL_EDGE leaves of a valid code: the code shown and no invalid code counted. -/
def HallShown (f : Fin 4) (hall : BitVec 3) (t : State) : Prop :=
  Units t ∧ RegsWf t ∧ getF t (F.FAN_HALL f.val) = hall.toNat ∧ (fanOf t f.val).bad = 0

theorem hallShown_setF {f : Fin 4} {hall : BitVec 3} {g : Fld} {v : Nat} {t : State} (hok : g.ok = true)
    (ha : g.apart (F.FAN_HALL f.val) = true) (h : HallShown f hall t) : HallShown f hall (setF g v t) := by
  obtain ⟨hu, hwf, hshown, hbad⟩ := h
  exact ⟨(setF_keeps).units hu, regsWf_setF hwf, (getF_setF_apart hwf hok ha).trans hshown, hbad⟩

theorem hallShown_updFan {f : Fin 4} {hall : BitVec 3} {g : FanSt → FanSt} {t : State} (hg : ∀ x, (g x).bad = x.bad)
    (h : HallShown f hall t) : HallShown f hall (updFan f.val g t) := by
  obtain ⟨hu, hwf, hshown, hbad⟩ := h
  exact ⟨(updFan_keeps).units hu, hwf, hshown, (congrArg FanSt.bad (fanOf_updFan_same hu)).trans ((hg _).trans hbad)⟩

/-- Settles O15: each event's guard selects its branch, and the shown fields are the ones that the branch sets. -/
theorem airMoverEvents : Obligations.AirMoverEvents := by
  unfold Obligations.AirMoverEvents
  refine ⟨fun f hall s hmot hfit hbad hu hwf => ?hallEdge, fun f s hmot hrun hduty hdriven hquiet => ?stall,
    fun f ma s hmot hdriven hlimit => ?overcurrent, fun f duty s hwf hmot hrun hlo hhi => ?speedLoop,
    fun f s hmot hstate => ?brakeEnd, fun f back s hmot hrun hstate => ?retry, fun m back s hu hrun hfit hzero => ?command⟩
  case hallEdge =>
    have hcode : (hall.toNat = 0 ∨ hall.toNat = 7) ↔ (hall = 0 ∨ hall = 7) := by bv_omega
    have hshown : getF (setF (F.FAN_HALL f) hall.toNat s) (F.FAN_HALL f) = hall.toNat :=
      (getF_setF_same hwf rfl).trans (Nat.mod_eq_of_lt hall.isLt)
    have hwf1 : RegsWf (setF (F.FAN_HALL f) hall.toNat s) := regsWf_setF hwf
    show ∃ t, execFanHallEdge f hall s = _ ∧ _
    unfold execFanHallEdge
    rw [hmot, hfit, if_neg (by decide)]
    dsimp only
    by_cases h7 : hall.toNat = 0 ∨ hall.toNat = 7
    · rw [if_pos h7, if_pos (hcode.mp h7), hbad]
      exact ⟨_, rfl, hshown, congrArg FanSt.bad (fanOf_updFan_same hu)⟩
    · rw [if_neg h7, if_neg (mt hcode.mpr h7)]
      have h0 : ∀ es, HallShown f hall (updFan f.val (fun x => { x with bad := 0, edges := es }) (setF (F.FAN_HALL f.val) hall.toNat s)) :=
        fun _ => ⟨(updFan_keeps).units ((setF_keeps).units hu), hwf1, hshown, congrArg FanSt.bad (fanOf_updFan_same ((setF_keeps).units hu))⟩
      have h1 := fun es v => hallShown_setF (g := F.FAN_RPM f.val) (v := v) rfl (by simp [Fld.apart]) (h0 es)
      have hdir : ∀ v t, HallShown f hall t → HallShown f hall (setF (F.FAN_DIR f.val) v t) :=
        fun _ _ h => hallShown_setF rfl (by simp [Fld.apart]) h
      have hrun : ∀ t, HallShown f hall t →
          HallShown f hall (updFan f.val (fun x => { x with tries := 0 }) (setF (F.FAN_STATE f.val) 3 t)) :=
        fun _ h => hallShown_updFan (fun _ => rfl) (hallShown_setF rfl (by simp [Fld.apart]) h)
      refine ⟨_, rfl, And.right (And.right (?_ : HallShown f hall _))⟩
      split
      · split
        · exact hrun _ (hdir _ _ (h1 _ _))
        · split
          · exact hrun _ (hdir _ _ (h1 _ _))
          · exact hrun _ (h1 _ _)
      · split
        · exact hdir _ _ (h1 _ _)
        · split
          · exact hdir _ _ (h1 _ _)
          · exact h1 _ _
  case stall =>
    show execFanStallTimeout f s = _
    exact if_pos (by simpa [hmot, hrun, hduty, hdriven] using hquiet)
  case overcurrent =>
    show execFanOvercurrent f ma s = _
    exact if_pos (by simp [hmot, hdriven, hlimit])
  case speedLoop =>
    have hlt : getF s (F.FAN_DUTY f) < 2 ^ 12 := bitsAt_lt _ _ _
    have hset : ∀ v, v < 2 ^ 12 → getF (setF (F.FAN_DUTY f) v s) (F.FAN_DUTY f) = v := fun v hv =>
      (getF_setF_same hwf rfl).trans (Nat.mod_eq_of_lt hv)
    refine ⟨_, if_pos (by simp [hmot, hrun, hlo, hhi]), rfl, fun hbelow => ?_, fun habove => ?_, fun hat => ?_⟩
    · rw [if_pos hbelow, hset _ (Nat.max_lt.mpr ⟨hlt, duty.isLt⟩)]
      exact Nat.le_max_left _ _
    · rw [if_neg (Nat.lt_asymm habove), if_pos habove, hset _ (Nat.lt_of_le_of_lt (Nat.min_le_left _ _) hlt)]
      exact Nat.min_le_left _ _
    · rw [hat, if_neg (Nat.lt_irrefl _), if_neg (Nat.lt_irrefl _), hset _ hlt]
  case brakeEnd =>
    show execFanDcBrakeEnd f s = _
    exact if_pos (by simp [hmot, hstate])
  case retry =>
    show execFanStartRetryTimer f back s = _
    unfold execFanStartRetryTimer
    dsimp only
    rw [if_pos (by simp [hmot, hrun, hstate])]
    split <;> rfl
  case command =>
    have hu1 : Units (begun m s) := begun_units hu
    have hu2 : Units (fanStop (par (mbxAt s m).cmd 0 2)
        (updFan (par (mbxAt s m).cmd 0 2) (fun x => { x with target := 0 }) (begun m s))) :=
      fanStop_keeps.units (updFan_keeps.units hu1)
    refine ⟨_, congrArg Host.Outcome.next (mbxRow_of_answer (r := resStatus 0) hrun rfl ?_), mbxAnswered_mbxEnds hu2, ?_⟩
    · have hfit1 : fittedFan (begun m s) (par (mbxAt s m).cmd 0 2) = true := hfit
      simp only [hfit1, hzero]
      rfl
    · exact fanOf_fanStop_target.trans (congrArg FanSt.target (fanOf_updFan_same (f := ⟨_, bitsAt_lt _ _ _⟩) hu1))

end Sys2Proof.Machine
end

section
/-! PROOFS. What an operation keeps, read off its frame part by part. -/

set_option Elab.async false

namespace Sys2Proof.Machine

/-! ### What is kept, part by part -/

theorem Keeps.regs_eq {w : List Part} {s t : State} (k : Keeps w s t) (h : w.contains .regs = false) : t.regs = s.regs :=
  (k.same .regs h).symm

theorem Keeps.mem_eq {w : List Part} {s t : State} (k : Keeps w s t) (h : w.contains .mem = false) : t.mem = s.mem :=
  (k.same .mem h).symm

theorem Keeps.pwr_eq {w : List Part} {s t : State} (k : Keeps w s t) (h : w.contains .pwr = false) : t.pwr = s.pwr :=
  (k.same .pwr h).symm

theorem Keeps.bring_eq {w : List Part} {s t : State} (k : Keeps w s t) (h : w.contains .bring = false) : t.bring = s.bring :=
  (k.same .bring h).symm

theorem Keeps.grants_eq {w : List Part} {s t : State} (k : Keeps w s t) (h : w.contains .grants = false) : t.grants = s.grants :=
  (k.same .grants h).symm

theorem Keeps.pair_eq {w : List Part} {s t : State} (k : Keeps w s t) (h : w.contains .pair = false) : t.pair = s.pair :=
  (k.same .pair h).symm

theorem Keeps.pcie_eq {w : List Part} {s t : State} (k : Keeps w s t) (h : w.contains .pcie = false) : t.pcie = s.pcie :=
  (k.same .pcie h).symm

theorem Keeps.desc_eq {w : List Part} {s t : State} (k : Keeps w s t) (h : w.contains .desc = false) : t.desc = s.desc :=
  (k.same .desc h).symm

theorem Keeps.clk_eq {w : List Part} {s t : State} (k : Keeps w s t) (h : w.contains .clk = false) : t.clk = s.clk :=
  (k.same .clk h).symm

theorem Keeps.head_eq {w : List Part} {s t : State} (k : Keeps w s t) (h : w.contains .head = false) : t.head = s.head :=
  (k.same .head h).symm

theorem Keeps.pool_eq {w : List Part} {s t : State} (k : Keeps w s t) (h : w.contains .pool = false) : t.pool = s.pool :=
  (k.same .pool h).symm

theorem Keeps.fs_eq {w : List Part} {s t : State} (k : Keeps w s t) (h : w.contains .fs = false) : t.fs = s.fs :=
  (k.same .fs h).symm

theorem Keeps.memc_eq {w : List Part} {s t : State} (k : Keeps w s t) (h : w.contains .memc = false) : t.memc = s.memc :=
  (k.same .memc h).symm

theorem Keeps.fl_eq {w : List Part} {s t : State} (k : Keeps w s t) (h : w.contains .fl = false) : t.fl = s.fl :=
  (k.same .fl h).symm

theorem Keeps.tier_eq {w : List Part} {s t : State} (k : Keeps w s t) (h : w.contains .tier = false) : t.tier = s.tier :=
  (k.same .tier h).symm

theorem Keeps.volu_eq {w : List Part} {s t : State} (k : Keeps w s t) (h : w.contains .volu = false) : t.volu = s.volu :=
  (k.same .volu h).symm

theorem Keeps.host_eq {w : List Part} {s t : State} (k : Keeps w s t) (h : w.contains .host = false) : t.host = s.host :=
  (k.same .host h).symm

theorem Keeps.boot_eq {w : List Part} {s t : State} (k : Keeps w s t) (h : w.contains .boot = false) : t.boot = s.boot :=
  (k.same .boot h).symm

theorem Keeps.mot_eq {w : List Part} {s t : State} (k : Keeps w s t) (h : w.contains .mot = false) : t.mot = s.mot :=
  (k.same .mot h).symm

theorem Keeps.now_eq {w : List Part} {s t : State} (k : Keeps w s t) (h : w.contains .now = false) : t.now = s.now :=
  (k.same .now h).symm

/-- The parts of the nonvolatile record. -/
def nvParts : List Part := [.nvAutoStart, .nvStartFallow, .nvFabProfile, .nvBrickId, .nvExpertRoots, .nvAccepted, .nvSup, .nvCtl, .nvTokens, .nvRetired, .nvFaultLog, .nvLogNext, .nvPf, .nvLastGood, .nvSvnMinSup, .nvSvnMinCtl]

/-- A change outside the nonvolatile parts leaves the whole record. -/
theorem Keeps.nv_eq {w : List Part} {s t : State} (k : Keeps w s t) (h : nvParts.all (fun c => !w.contains c) = true) :
    t.nv = s.nv := by
  have hout : ∀ c ∈ nvParts, Same c s t := fun c hc => k.same c (by simpa using List.all_eq_true.mp h c hc)
  simp only [nvParts, List.forall_mem_cons, Same] at hout
  obtain ⟨h0, h1, h2, h3, h4, h5, h6, h7, h8, h9, h10, h11, h12, h13, h14, h15, -⟩ := hout
  cases hs : s.nv
  cases ht : t.nv
  simp_all

end Sys2Proof.Machine
end

section
/-! PROOFS. Folds over lists of units, and fields of states with one register file. -/

set_option Elab.async false

namespace Sys2Proof.Machine

/-! ### Folds -/

/-- What each step of a fold keeps, the fold keeps. -/
theorem foldl_same {α β γ : Type} {f : β → α → β} {g : β → γ} (h : ∀ b a, g (f b a) = g b) {l : List α} {b : β} :
    g (l.foldl f b) = g b := by
  induction l generalizing b with
  | nil => rfl
  | cons a l ih => exact ih.trans (h b a)

/-! ### Fields of states with one register file -/

theorem getF_of_regs {f : Fld} {s t : State} (h : t.regs = s.regs) : getF t f = getF s f := by
  unfold getF rdN rd
  rw [h]

theorem isSet_of_regs {f : Fld} {s t : State} (h : t.regs = s.regs) : isSet t f = isSet s f := by
  unfold isSet
  rw [getF_of_regs h]

end Sys2Proof.Machine
end

section
/-! PROOFS. O21: the boot chain. -/

set_option Elab.async false

namespace Sys2Proof.Machine

/-! ### Boot chain -/

theorem isSet_setF_one {f : Fld} {s : State} (h : RegsWf s) (hf : f.ok = true) (hw : 0 < f.width) : isSet (setF f 1 s) f = true := by
  unfold isSet
  rw [getF_setF_same h hf, Nat.one_mod_eq_one.mpr (by have := Nat.one_lt_two_pow (Nat.ne_of_gt hw); omega)]
  rfl

/-- The trigger is pulled where the straps, read before or after, allow it. -/
theorem bootTrigger_trigger {s : State} (hn : isSet (bootTrigger s) F.SUP_STRAP_TEST_N = true)
    (hf : isSet (bootTrigger s) F.SUP_STRAP_FLOAT = false) : (bootTrigger s).boot.trigger = true := by
  unfold bootTrigger at *
  split
  next => rfl
  next hno =>
    rw [if_neg hno] at hn hf
    exact absurd (by rw [hn, hf]; rfl) hno

/-- The register changes that follow BOOT_DORMANT_ENTERED's note. -/
def bootDormantShow (s : State) : State :=
  s |> setF F.SUP_BOOT_STAGE 5 |> setF F.PWR_MODE_CUR 1 |> pfLoad |> identityMeas |> svnRefresh |> listRefresh |> slotRefresh

theorem bootDormantShow_keeps {s : State} : Keeps [.regs] s (bootDormantShow s) :=
  slotRefresh_keeps.after (listRefresh_keeps.after (svnRefresh_keeps.after (identityMeas_keeps.after (pfLoad_keeps.after
    (setF_keeps.after setF_keeps)))))

/-- What BOOT_DORMANT_ENTERED leaves. -/
def bootDormant (s : State) : State :=
  if s.nv.autoStart then bootTrigger (bootDormantShow (updBoot (fun x => { x with loaded := true }) s))
  else bootDormantShow (updBoot (fun x => { x with loaded := true }) s)

theorem execBootDormantEntered_loads {s : State} (hlive : live s = true) (hstage : bootStage s = 3) :
    execBootDormantEntered s = .next (bootDormant s) := if_neg (by simp [hlive, hstage])

theorem bootTrigger_loaded {s : State} (h : s.boot.loaded = true) : (bootTrigger s).boot.loaded = true := by
  unfold bootTrigger
  split <;> exact h

theorem bootDormant_result {s : State} : (bootDormant s).boot.loaded = true ∧ (bootDormant s).nv = s.nv ∧
    (s.nv.autoStart = true → isSet (bootDormant s) F.SUP_STRAP_TEST_N = true → isSet (bootDormant s) F.SUP_STRAP_FLOAT = false →
      (bootDormant s).boot.trigger = true) := by
  have hk := bootDormantShow_keeps (s := updBoot (fun x => { x with loaded := true }) s)
  have hloaded := congrArg BootSt.loaded (hk.boot_eq rfl)
  unfold bootDormant
  split
  next hauto => exact ⟨bootTrigger_loaded hloaded, (bootTrigger_keeps.nv_eq rfl).trans (hk.nv_eq rfl), fun _ => bootTrigger_trigger⟩
  next hauto => exact ⟨hloaded, hk.nv_eq rfl, fun h => absurd h hauto⟩

theorem bringEnter_boot {s : State} : (bringEnter s).boot = { s.boot with recorded := false } := by
  unfold bringEnter
  exact Keeps.boot_eq (w := [.regs])
    (Keeps.forN (fun _ _ => Keeps.ite (fun _ => Keeps.refl _ _) (fun _ => domUp1_keeps)) (Keeps.refl _ _)) rfl

/-- Settles O21: each stage's guard lets it run, and what follows the note of the chosen slot keeps it. -/
theorem bootChain : Obligations.BootChain := by
  unfold Obligations.BootChain
  refine ⟨fun s hwf hlive hstage hrec => ?supervisor, fun s hlive hstage => ?dormant, fun s htrig hstage hmode => ?control,
    fun s htrig hstage => ?patches⟩
  case supervisor =>
    show ∃ t, execBootSupervisorVerified s = _ ∧ _
    unfold execBootSupervisorVerified
    rw [if_neg (by simp [hlive, hstage, hrec])]
    have hk := bootChoose_keeps (k := 1) (chk := fun s => firmwareCheck s 1) (s := s)
    generalize bootChoose 1 (fun s => firmwareCheck s 1) s = c at hk ⊢
    obtain ⟨_ | n, s1⟩ := c
    · exact ⟨_, rfl, getF_setF_same (hk.regsWf hwf) rfl⟩
    · refine ⟨_, rfl, getF_setF_same (regsWf_setF (measPut_keeps.regsWf (hk.regsWf hwf))) rfl, ?_⟩
      dsimp only
      rw [setF_boot, setF_boot, measPut_keeps.boot_eq rfl]
      rfl
  case dormant =>
    obtain ⟨hloaded, hnv, htrig⟩ := bootDormant_result (s := s)
    exact ⟨_, execBootDormantEntered_loads hlive hstage, hloaded, hnv, htrig⟩
  case control =>
    show ∃ t, execBootControlVerified s = _ ∧ _
    unfold execBootControlVerified
    rw [if_neg (by simp [htrig, hstage, hmode])]
    have hk := bootChoose_keeps (k := 2) (chk := fun s => slotCheck s 2)
      (s := s |> setF (F.PWR_DOM_REQ_ON 1) 1 |> setF (F.PWR_DOM_STATE 1) 2)
    dsimp only
    generalize bootChoose 2 (fun s => slotCheck s 2) _ = c at hk ⊢
    obtain ⟨_ | n, s1⟩ := c
    · refine ⟨_, rfl, ?_⟩
      dsimp only
      rw [slotRefresh_keeps.boot_eq rfl, mbxFinish_keeps.boot_eq rfl, setF_boot, execBootControlVerified.ctlOff,
        domReset_keeps.boot_eq rfl]
      rfl
    · have hboot : s1.boot = s.boot := hk.boot_eq rfl
      refine ⟨_, rfl, ?_⟩
      dsimp only
      rw [setF_boot, listRefresh_keeps.boot_eq rfl, slotRefresh_keeps.boot_eq rfl, svnRefresh_keeps.boot_eq rfl, setF_boot,
        measPut_keeps.boot_eq rfl]
      exact ⟨rfl, (congrArg BootSt.trigger hboot).trans htrig⟩
  case patches =>
    refine ⟨_, if_neg (by simp [htrig, hstage]), ?_⟩
    rw [anaRefresh_keeps.boot_eq rfl, mbxFinish_keeps.boot_eq rfl, setF_boot, pfLog_keeps.boot_eq rfl, bringEnter_boot,
      listRefresh_keeps.boot_eq rfl, anaRefresh_keeps.pair_eq rfl, mbxFinish_keeps.pair_eq rfl, setF_pair, pfLog_keeps.pair_eq rfl,
      bringEnter_keeps.pair_eq rfl, listRefresh_keeps.pair_eq rfl]
    exact ⟨rfl, rfl, rfl⟩

end Sys2Proof.Machine
end

section
/-! PROOFS. O22: sealing, mirroring and acknowledging journal entries. -/

set_option Elab.async false

namespace Sys2Proof.Machine

/-- Settles O22: a sealed, mirrored or acknowledged entry takes its event's branch, and what follows changes neither the
acknowledgement register nor a volume. -/
theorem vatJournal : Obligations.VatJournal := by
  unfold Obligations.VatJournal
  refine ⟨fun g seq e s hent harr hseal hvat => ?sealing, fun g seq body s hup hvat hnext hroom => ?mirrored,
    fun g seq s hwf hup hvat => ?acknowledged⟩
  case sealing =>
    show execVatEntrySealed g seq s = _
    unfold execVatEntrySealed
    simp only [hent, harr, hseal, hvat]
    rfl
  case mirrored =>
    show execVatMirrorEntryReceived g seq body [] s = _
    have hall : s.journal.filter (fun e => !(e.mirror && decide (e.group = g.val) && ([] : List (BitVec 32)).contains e.seq)) = s.journal :=
      List.filter_eq_self.mpr (fun _ _ => by simp)
    unfold execVatMirrorEntryReceived
    rw [if_neg (by simp [hup, hvat])]
    dsimp only
    rw [hall]
    cases hlast : s.tier.mirrorLast.getD g.val none with
    | none => exact if_neg (by simpa using hroom)
    | some q => exact if_neg (by simpa [hnext q hlast] using hroom)
  case acknowledged =>
    refine ⟨_, if_neg (by simp [hup, hvat]), ?_, ?_⟩
    · show rd (jRelease _) _ = _
      unfold rd
      rw [jRelease_keeps.regs_eq rfl, jAckFree_keeps.regs_eq rfl]
      exact rd_wr_same hwf
    · show (jRelease _).volu = _
      rw [jRelease_keeps.volu_eq rfl, jAckFree_keeps.volu_eq rfl]
      rfl

end Sys2Proof.Machine
end

section
/-! PROOFS. O34: servo wedges and the zone memory. -/

set_option Elab.async false

namespace Sys2Proof.Machine

/-- Settles O34: the sample's branch is its guard's, and a permitted write runs its register's action. -/
theorem servoWedgesAndZones : Obligations.ServoWedgesAndZones := by
  unfold Obligations.ServoWedgesAndZones
  refine ⟨fun h g s hdom hfit => ?sample, fun p a s hgo => ?commit, fun a k w s hmem hgo => ?zoneWrite⟩
  case sample =>
    show execWedgeSample h g s = _
    unfold execWedgeSample
    rw [if_neg (by simp [hdom, hfit])]
    exact (apply_ite Host.Outcome.next _ _ _).symm
  case commit => exact congrArg Host.Outcome.next (busAct_acc_of_writeGoes hgo)
  case zoneWrite =>
    have hlen : (leBytes 4 w.toNat).length = 4 := by simp [leBytes]
    refine ⟨_, congrArg Host.Outcome.next (busAct_acc_of_writeGoes hgo), fun j hj => ?_, fun x hx => ?_⟩
    · exact memByte_memWrite_in hmem (by rw [hlen]; exact hj)
    · exact memByte_memWrite_out (by rw [hlen]; exact hx)

end Sys2Proof.Machine
end

section
/-! PROOFS. O36: the retry ladder, write-unsafe and the heater lead. -/

set_option Elab.async false

namespace Sys2Proof.Machine

/-! ### Retry ladder -/

theorem headOf_updHead_same {h : Nat} {f : HeadSt → HeadSt} {s : State} (hu : Units s) (hh : h < 144) :
    headOf (updHead h f s) h = f (headOf s h) := by
  obtain ⟨-, -, hhead, -⟩ := hu
  exact getD_modAt_same (by rw [hhead]; exact hh)

/-- The ladder's first sector, read again, is settled by what is left of it. -/
theorem execLadderStep_reads {h : Fin 144} {x : SectorRd} {rest : List SectorRd} {g : SectorHead} {f0 : List Int}
    {parts : List SectorPart} {s : State} (hfirst : (headOf s h.val).ladder = x :: rest) (hsid : x.sid < 2 ^ 64)
    (hdom : domOn s (2 + actOf h.val) = true) (hreads : headReads s h.val = true ∨ x.step = 8 ∨ x.step = 12) :
    execLadderStep h (BitVec.ofNat 64 x.sid) g f0 parts s =
      (let s1 := ladderRead h.val x g f0 parts s
      match (headOf s1 h.val).ladder with
      | [] => .next s1
      | y :: r =>
        if y.failed = [] then .next (s1 |> sectorGood h.val y |> ladderShow h.val)
        else match nextStep s h.val x.step with
        | some t => .next (s1 |> updHead h.val (fun z => { z with ladder := r ++ [{ y with step := t }] }) |> ladderShow h.val)
        | none => .next (s1 |> sectorLost h.val y true |> ladderShow h.val)) := by
  have hnat : (BitVec.ofNat 64 x.sid).toNat = x.sid := Nat.mod_eq_of_lt hsid
  have hguard : ¬(x.sid ≠ (BitVec.ofNat 64 x.sid).toNat ∨ domOn s (2 + actOf h.val) = false ∨
      (decide (x.step ≠ 8 ∧ x.step ≠ 12) = true ∧ headReads s h.val = false)) := by
    rw [hnat, hdom, decide_eq_true_eq]
    rintro (hne | hoff | ⟨⟨h8, h12⟩, hno⟩)
    · exact hne rfl
    · exact absurd hoff (by decide)
    · obtain hyes | h8' | h12' := hreads
      · rw [hno] at hyes
        exact absurd hyes (by decide)
      · exact h8 h8'
      · exact h12 h12'
  unfold execLadderStep
  rw [hfirst]
  exact if_neg hguard

/-- Settles O36: a step of the ladder ends as the sector read again asks, and the other events take their guards' branches. -/
theorem ladderAndWriteUnsafe : Obligations.LadderAndWriteUnsafe := by
  unfold Obligations.LadderAndWriteUnsafe
  refine ⟨fun h x rest g f0 parts s hfirst hsid hdom hreads => ?step, fun h s hgone => ?abandon, fun h s hwriting => ?unsafeWrite,
    fun h b s hu hband harmed hop hmask => ?lead⟩
  case step =>
    show ∃ t, execLadderStep h _ g f0 parts s = _ ∧ _
    rw [execLadderStep_reads hfirst hsid hdom hreads]
    dsimp only
    generalize ladderRead h.val x g f0 parts s = s1
    cases hl : (headOf s1 h.val).ladder with
    | nil => exact ⟨_, rfl, nofun, nofun, nofun⟩
    | cons y r =>
      dsimp only
      by_cases hgood : y.failed = []
      · rw [if_pos hgood]
        refine ⟨_, rfl, ?_, ?_, ?_⟩
        · rintro y r ⟨rfl, rfl⟩ -
          rfl
        · rintro y r n ⟨rfl, rfl⟩ hbad
          exact absurd hgood hbad
        · rintro y r ⟨rfl, rfl⟩ hbad
          exact absurd hgood hbad
      · rw [if_neg hgood]
        cases hn : nextStep s h.val x.step with
        | none =>
          refine ⟨_, rfl, ?_, nofun, ?_⟩
          · rintro y r ⟨rfl, rfl⟩ hg
            exact absurd hg hgood
          · rintro y r ⟨rfl, rfl⟩ - -
            rfl
        | some n =>
          refine ⟨_, rfl, ?_, ?_, nofun⟩
          · rintro y r ⟨rfl, rfl⟩ hg
            exact absurd hg hgood
          · rintro y r n ⟨rfl, rfl⟩ - ⟨rfl⟩
            rfl
  case abandon =>
    show execLadderAbandon h s = _
    exact if_neg (by obtain hno | hno := hgone <;> simp [hno])
  case unsafeWrite => exact if_pos hwriting
  case lead =>
    refine ⟨updHead h.val (fun x => { x with htrSettled := true }) s, ?_,
      congrArg HeadSt.htrSettled (headOf_updHead_same hu h.isLt), rfl⟩
    show execHeaterLeadExpiry h s = _
    unfold execHeaterLeadExpiry
    rw [hband]
    exact if_pos ⟨harmed, hop, hmask⟩

end Sys2Proof.Machine
end

section
/-! PROOFS. O23: the preamplifier links. -/

set_option Elab.async false

namespace Sys2Proof.Machine

/-- Settles O23: each event's guard selects its branch, and a permitted write of the raw word runs its action. -/
theorem preamplifierLinks : Obligations.PreamplifierLinks := by
  unfold Obligations.PreamplifierLinks
  refine ⟨fun p r f s htx hcrc htop => ?reply, fun p f s htx => ?noReply, fun p s hdom hfit => ?fault,
    fun p s hwaits => if_pos hwaits, fun p n w s hgo => congrArg Host.Outcome.next (busAct_acc_of_writeGoes hgo)⟩
  case reply =>
    show execPaReplyReceived p (some r) s = _
    unfold execPaReplyReceived
    rw [htx]
    exact if_pos (by simp [hcrc, htop])
  case noReply =>
    show execPaReplyReceived p none s = _
    unfold execPaReplyReceived
    rw [htx]
    exact (apply_ite Host.Outcome.next _ _ _).symm
  case fault =>
    show execPaFltAssert p s = _
    unfold execPaFltAssert
    rw [if_neg (by simp [hdom, hfit])]

end Sys2Proof.Machine
end

section
/-! PROOFS. O16: the events of the Nalyn link. -/

set_option Elab.async false

namespace Sys2Proof.Machine

/-! ### Nalyn link -/

theorem nalDrain_rxSeq {n : Nat} {s : State} : (nalDrain n s).pair.rxSeq = s.pair.rxSeq := by
  induction n generalizing s with
  | zero => rfl
  | succ n ih =>
    unfold nalDrain
    split
    · rfl
    · split
      · rfl
      · exact ih.trans rfl

theorem nalAck_rxSeq {n : Nat} {s : State} : (nalAck n s).pair.rxSeq = s.pair.rxSeq := nalDrain_rxSeq

theorem nalReplay_rxSeq {s : State} : (nalReplay s).pair.rxSeq = s.pair.rxSeq := by
  unfold nalReplay
  exact (foldl_same (g := fun s : State => s.pair.rxSeq) (fun _ _ => by rfl)).trans (congrArg PairSt.rxSeq (count_keeps.pair_eq rfl))

theorem nalTake_rxSeq {x : NalMsg} {s : State} : (nalTake x s).pair.rxSeq = s.pair.rxSeq := by
  cases x <;> rfl

/-- Settles O16: the guards let each event through, and what follows the note of the flit's sequence keeps it. -/
theorem nalynLinkEvents : Obligations.NalynLinkEvents := by
  unfold Obligations.NalynLinkEvents
  refine ⟨fun flit failed msgs s hup hlen hcrc hnext => ?flit, fun s => rfl, fun lane s hwide hused => ?laneFail,
    fun s hup hdom htx hlock hfloat => ?retrain⟩
  case flit =>
    have hnot : s.pair.rxSeq.any (fun r => decide (leAt flit 0 2 % 4096 ≠ (r.toNat + 1) % 4096)) = false := by
      cases hrx : s.pair.rxSeq with
      | none => rfl
      | some r => simpa [hrx] using hnext
    have hseq : BitVec.ofNat 12 (leAt flit 0 2 % 4096) = BitVec.ofNat 12 (leAt flit 0 2) :=
      BitVec.eq_of_toNat_eq (Nat.mod_mod _ _)
    show ∃ t, execNalFlitReceived flit failed msgs s = _ ∧ _
    unfold execNalFlitReceived
    rw [if_neg (by simp [hup, hlen, hcrc])]
    dsimp only
    rw [hnot, if_neg (by decide), hseq]
    split
    · refine ⟨_, rfl, ?_⟩
      split <;> split <;> simp only [updPair, nalReplay_rxSeq, nalAck_rxSeq]
    · refine ⟨_, rfl, ?_⟩
      refine (foldl_same (g := fun s : State => s.pair.rxSeq) (fun _ _ => nalTake_rxSeq)).trans ?_
      split <;> split <;> simp only [updPair, nalReplay_rxSeq, nalAck_rxSeq]
  case laneFail =>
    show execNalLaneFail lane s = _
    unfold execNalLaneFail
    dsimp only
    have h0 : getF s F.NAL_WIDTH ≠ 0 := by omega
    have h1 : getF s F.NAL_WIDTH ≠ 1 := by omega
    rw [if_neg h0, if_neg h1, if_pos hused]
  case retrain => exact congrArg Host.Outcome.next (if_pos (by simp [hup, hdom, htx, hlock, hfloat]))

end Sys2Proof.Machine
end

section
/-! PROOFS. O37: heater calibration and the head-channel commands. -/

set_option Elab.async false

namespace Sys2Proof.Machine

/-! ### Head channels -/

/-- A head's record after a change of some head is the record before or the changed one. -/
theorem headOf_updHead_or {h k : Nat} {f : HeadSt → HeadSt} {s : State} :
    headOf (updHead h f s) k = headOf s k ∨ headOf (updHead h f s) k = f (headOf s k) := by
  unfold headOf updHead
  dsimp only
  by_cases hk : h = k
  · subst hk
    by_cases hl : h < s.head.length
    · exact Or.inr (getD_modAt_same hl)
    · left
      rw [modAt_past (Nat.le_of_not_lt hl)]
  · exact Or.inl (getD_modAt_ne hk)

/-- The calibration of a channel alone stores the result and starts no heater calibration. -/
def calChannel (channel : BitVec 144) (s : State) (h : Nat) : State :=
  mirrorHead h true (updHead h (fun x => { x with calRes := some (channel.getLsbD h), cal := none }) s)

theorem calChannel_cal {channel : BitVec 144} {h k : Nat} {s : State} (hk : (headOf s k).cal = none) :
    (headOf (calChannel channel s h) k).cal = none := by
  have hmirror : ∀ s, (headOf (mirrorHead h true s) k).cal = (headOf s k).cal := by
    intro s
    have hsend : ∀ c n l s, (headOf (nalSend c n l s) k).cal = (headOf s k).cal := fun c n l s =>
      congrArg (fun l : List HeadSt => (l.getD k HeadSt.reset).cal) (nalSend_keeps.head_eq rfl)
    unfold mirrorHead
    rw [hsend]
    obtain hsame | hnew := headOf_updHead_or (h := h) (k := k) (f := fun x => { x with mirror := (headRegs h).map (fun r => (r, rd s r)) })
      (s := s)
    · split <;> exact congrArg HeadSt.cal hsame
    · split <;> exact (congrArg HeadSt.cal hnew).trans rfl
  unfold calChannel
  rw [hmirror]
  obtain hsame | hnew := headOf_updHead_or (h := h) (k := k)
    (f := fun x => { x with calRes := some (channel.getLsbD h), cal := none }) (s := s)
  · rw [hsame, hk]
  · rw [hnew]

theorem calChannel_units {channel : BitVec 144} {l : List Nat} {s : State} (hu : Units s) : Units (l.foldl (calChannel channel) s) := by
  induction l generalizing s with
  | nil => exact hu
  | cons h l ih => exact ih (mirrorHead_keeps.units (updHead_keeps.units hu))

theorem foldl_calChannel_cal {channel : BitVec 144} {l : List Nat} {k : Nat} {s : State} (hk : (headOf s k).cal = none) :
    (headOf (l.foldl (calChannel channel) s) k).cal = none := by
  induction l generalizing s with
  | nil => exact hk
  | cons h l ih => exact ih (calChannel_cal hk)

/-- Settles O37: each step of a heater calibration takes the branch of its gain, and each row answers as its parameters ask. -/
theorem headChannelCommands : Obligations.HeadChannelCommands := by
  unfold Obligations.HeadChannelCommands
  refine ⟨fun h gain margin allowance c s hcal => ?heater, fun m channel s hu hrun hk hall => ?calibrate,
    fun m s hu hwf hrun hlt hfit hout => ?serviceOut, fun m s hu hrun hlt hfit hin => ?serviceIn, fun m s hu hrun hlt => ?stats,
    fun p w s hgo => congrArg Host.Outcome.next (busAct_acc_of_writeGoes hgo)⟩
  case heater =>
    dsimp only
    show ∃ t, execHeaterCalStep h gain margin allowance s = _ ∧ _
    unfold execHeaterCalStep
    rw [hcal]
    dsimp only
    generalize List.any _ _ = far
    cases far with
    | true => exact ⟨_, rfl, fun _ => rfl, nofun, nofun⟩
    | false =>
      rw [if_neg (by decide)]
      by_cases hmax : getF s (F.HC_HTR_MAX h.val) ≤ c.power
      · rw [if_pos hmax]
        exact ⟨_, rfl, nofun, fun _ _ => rfl, fun _ hlt => absurd hmax (Nat.not_le.mpr hlt)⟩
      · rw [if_neg hmax]
        exact ⟨_, rfl, nofun, fun _ hle => absurd hle hmax, fun _ _ => rfl⟩
  case calibrate =>
    have hok : ∀ h ∈ headMask (mbxAt s m).cmd.data, fitted s h = true ∧ owns s (actOf h) = true ∧ (headOf s h).cal.isNone = true := by
      simpa [and_assoc] using hall
    have hs1 : (headMask (mbxAt s m).cmd.data).any (fun h =>
        (headOf ((headMask (mbxAt s m).cmd.data).foldl (calChannel channel) (begun m s)) h).cal.isSome) = false := by
      refine List.any_eq_false.mpr fun h hh => ?_
      obtain ⟨-, -, hnone⟩ := hok h hh
      rw [foldl_calChannel_cal (s := begun m s) (Option.isNone_iff_eq_none.mp hnone)]
      decide
    refine ⟨_, congrArg Host.Outcome.next (mbxRow_of_answer (t := (headMask (mbxAt s m).cmd.data).foldl (calChannel channel) (begun m s))
      hrun rfl ?_), mbxReturns_mbxEnds (calChannel_units (begun_units hu))⟩
    have hfit : (headMask (mbxAt s m).cmd.data).any (fun h => !fitted (begun m s) h) = false :=
      List.any_eq_false.mpr fun h hh => by rw [show fitted (begun m s) h = true from (hok h hh).1]; decide
    have hown : (headMask (mbxAt s m).cmd.data).any (fun h => !owns (begun m s) (actOf h)) = false :=
      List.any_eq_false.mpr fun h hh => by rw [show owns (begun m s) (actOf h) = true from (hok h hh).2.1]; decide
    dsimp only
    rw [hk, hfit, hown]
    have hrange : ¬(1 = 0 ∨ 3 < 1) := by decide
    simp only [hrange, ne_eq, not_true_eq_false, false_and, if_false, Bool.false_eq_true]
    exact if_neg (by rw [Bool.not_eq_true]; exact hs1)
  case serviceOut =>
    refine ⟨_, congrArg Host.Outcome.next (mbxRow_of_answer (r := resStatus 0)
      (t := setF (F.HC_EN (par (mbxAt s m).cmd 0 8)) 0 (begun m s)) hrun rfl ?_),
      mbxAnswered_mbxEnds (setF_keeps.units (begun_units hu)), ?_⟩
    · dsimp only
      rw [if_neg (Nat.not_le.mpr hlt), if_neg (by rw [show fitted (begun m s) _ = true from hfit]; decide), if_neg (by rw [hout]; decide)]
      rfl
    · show decide (getF (setF (F.HC_EN _) 0 (begun m s)) _ = 1) = false
      rw [getF_setF_same (s := begun m s) hwf rfl]
      rfl
  case serviceIn =>
    refine ⟨_, congrArg Host.Outcome.next (mbxRow_of_answer (r := resStatus 0) (t := setF (F.HC_EN (par (mbxAt s m).cmd 0 8)) 1 (begun m s)
        |> liftEscalation 0x0312 (par (mbxAt s m).cmd 0 8) |> liftEscalation 0x0320 (par (mbxAt s m).cmd 0 8)) hrun rfl ?_),
      mbxAnswered_mbxEnds (liftEscalation_keeps.units (liftEscalation_keeps.units (setF_keeps.units (begun_units hu)))), rfl⟩
    dsimp only
    rw [if_neg (Nat.not_le.mpr hlt), if_neg (by rw [show fitted (begun m s) _ = true from hfit]; decide), if_pos hin]
    rfl
  case stats =>
    refine ⟨_, congrArg Host.Outcome.next (mbxRow_of_answer (t := begun m s) hrun rfl ?_), mbxReturns_mbxEnds (begun_units hu)⟩
    exact if_neg (Nat.not_le.mpr hlt)

end Sys2Proof.Machine
end

section
/-! PROOFS. O29: the later steps of the Bring-up. -/

set_option Elab.async false

namespace Sys2Proof.Machine

/-! ### The later steps of the Bring-up -/

theorem mapStores_keeps {l0 l1 : Bool} {b0 b1 : BitVec 64} {s : State} :
    Keeps [.regs, .mem, .bad, .free, .flt, .pcie, .memc, .outbox, .nvFaultLog, .nvLogNext] s
      (s |> (if l0 then mapStore 0 b0 else fun s => s) |> (if l1 then mapStore 1 b1 else fun s => s)) := by
  cases l0 <;> cases l1
  · exact Keeps.refl _ _
  · exact mapStore_keeps
  · exact mapStore_keeps
  · exact mapStore_keeps.after mapStore_keeps

/-- MAPS_LOADED's last changes: the number of pages of each group, as `n` gives it, and the end of the loading. -/
def mapsShown (n : Nat → Nat) (s : State) : State :=
  forN 2 (fun g s => s |> wr (R.FPM_LFPS_LO g) (BitVec.ofNat 32 (n g)) |> wr (R.FPM_LFPS_HI g) (BitVec.ofNat 32 (n g / 2 ^ 32))) s
    |> updBring (fun b => { b with maps := true }) |> fastReduction false

theorem rd_mapsShown {n : Nat → Nat} {s : State} (hwf : RegsWf s) :
    rd (mapsShown n s) (R.FPM_LFPS_LO 1) = BitVec.ofNat 32 (n 1) := by
  have hfast : ∀ s, rd (fastReduction false s) (R.FPM_LFPS_LO 1) = rd s (R.FPM_LFPS_LO 1) := fun s => by
    unfold fastReduction setB
    rw [rd_setF_ne (by decide), rd_setF_ne (by decide)]
  have hwf1 : RegsWf (forN 1 (fun g s => s |> wr (R.FPM_LFPS_LO g) (BitVec.ofNat 32 (n g))
      |> wr (R.FPM_LFPS_HI g) (BitVec.ofNat 32 (n g / 2 ^ 32))) s) := wr_keeps.regsWf (wr_keeps.regsWf hwf)
  unfold mapsShown
  rw [hfast]
  exact (rd_wr_ne (by decide)).trans (rd_wr_same hwf1)

theorem mapsShown_keeps {n : Nat → Nat} {s : State} : Keeps [.regs, .bring] s (mapsShown n s) :=
  fastReduction_keeps.after (updBring_keeps.after (Keeps.forN (fun _ _ => wr_keeps.after wr_keeps.only) (Keeps.refl _ _)))

theorem mapsShown_maps {n : Nat → Nat} {s : State} : (mapsShown n s).bring.maps = true :=
  congrArg BringSt.maps (fastReduction_keeps.bring_eq rfl)

/-- Settles O29: each step's guard lets it run, and the later changes of MAPS_LOADED and of the coarse calibration are to
registers that the statement does not name. -/
theorem bringUpStepsSixToThirteen : Obligations.BringUpStepsSixToThirteen := by
  unfold Obligations.BringUpStepsSixToThirteen
  refine ⟨fun s hact hrep hvat heng hch => if_pos (by simp [hact, hrep, hvat, heng, hch]),
    fun lfps gib base0 base1 s hwf hact hrep hdram hmaps => ?maps, fun s hact hspn hcoarse hspeed hload => ?coarse,
    fun s hact hcoarse hfull => if_pos (by simp [hact, hcoarse, hfull]), fun step pmode s hup => if_neg (by simp [hup]),
    fun s h13 hmode hfallow hready => ?complete, fun s h13 hmode => ?solo⟩
  case maps =>
    refine ⟨_, if_pos (by simp [hact, hrep, hdram, hmaps]), ?_⟩
    generalize hs1 : (if s.tier.lfpCount = [0, 0] then { s with tier := { s.tier with lfpCount := lfpSize s gib lfps } } else s) = s1
    have hk := mapStores_keeps (l0 := holdsGroup s 0) (l1 := holdsGroup s 1) (b0 := base0) (b1 := base1) (s := s1)
    have hwf1 : RegsWf s1 := by
      rw [← hs1]
      split <;> exact hwf
    have htier := mapsShown_keeps (n := fun g => s1.tier.lfpCount.getD g 0) |>.tier_eq rfl |>.trans (hk.tier_eq rfl)
    refine ⟨mapsShown_maps (n := fun g => s1.tier.lfpCount.getD g 0), ?_, ?_⟩
    · refine (congrArg TierSt.lfpCount htier).trans ?_
      rw [← hs1]
      split <;> rfl
    · refine (rd_mapsShown (hk.regsWf hwf1)).trans ?_
      exact congrArg (fun t : TierSt => BitVec.ofNat 32 (t.lfpCount.getD 1 0)) htier.symm
  case coarse =>
    refine ⟨_, if_pos (by simp [hact, hspn, hcoarse, hspeed, hload]), ?_, ?_⟩
    · exact foldl_same (g := State.bring) (fun _ _ => by rfl)
    · exact foldl_same (g := State.head) (fun _ _ => by rfl)
  case complete =>
    show execBringupComplete s = _
    unfold execBringupComplete
    rw [if_neg (by simp [h13]), if_neg (by simp [hmode]), if_neg (by simp [hmode]), if_neg (by simp [hfallow])]
    obtain htook | hboth := hready
    · rw [if_pos htook, if_pos htook]
    · rw [hboth]
      exact (apply_ite Host.Outcome.next _ _ _).symm
  case solo =>
    show execBringupComplete s = _
    unfold execBringupComplete
    rw [if_neg (by simp [h13]), if_pos hmode]

end Sys2Proof.Machine
end

section
/-! PROOFS. O30: heartbeat frames and the fence input. -/

set_option Elab.async false

namespace Sys2Proof.Machine

/-- A message of the link leaves the heartbeat's sequence. -/
theorem nalSend_hbSeq {c k : Nat} {l : List Nat} {s : State} : (nalSend c k l s).pair.hbSeq = s.pair.hbSeq := by
  unfold nalSend
  split
  · rfl
  · split <;> rfl

/-- Settles O30: the guards let each frame through to its action; a level on the fence input is stored first. -/
theorem heartbeatAndFence : Obligations.HeartbeatAndFence := by
  unfold Obligations.HeartbeatAndFence
  refine ⟨fun s hlive => ?timer, fun w s hlive hvalid => if_neg (by simp [hlive, hvalid]),
    fun s hlive hseen hlost => if_pos (by simp [hlive, hlost]), fun w s hup hvalid => if_pos (by simp [hup, hvalid]),
    fun level s htest hlive => ?loopTest, fun s htest hlive hreacts => ?reaction, fun s => rfl⟩
  case timer =>
    show ∃ t, execHbFrameTimer s = _ ∧ _
    unfold execHbFrameTimer
    rw [if_neg (by simp [hlive])]
    refine ⟨_, rfl, ?_, ?_, ?_⟩
    · refine congrArg (· + 1) ?_
      split
      · exact nalSend_hbSeq
      · rfl
    · intro hvia
      rw [hvia]
      rfl
    · intro hvia
      rw [hvia]
      rfl
  case loopTest =>
    show ∃ t, execFenceInAssert level s = _ ∧ _
    unfold execFenceInAssert
    cases level with
    | false => exact ⟨_, rfl, rfl, rfl, rfl⟩
    | true =>
      rw [if_neg (by simp [hlive]), if_pos htest]
      exact ⟨_, rfl, rfl, rfl, rfl⟩
  case reaction =>
    show execFenceInAssert true s = _
    unfold execFenceInAssert
    rw [if_neg (by simp [hlive]), if_neg (by simp [htest]), if_pos hreacts]

end Sys2Proof.Machine
end

section
/-! PROOFS. O49: flash operations. -/

set_option Elab.async false

namespace Sys2Proof.Machine

/-! ### Flash operations -/

theorem blkOf_updBlk_same {c d b : Nat} {f : Blk → Blk} {s : State} (h : (f (blkOf s c d b)).ch = c ∧ (f (blkOf s c d b)).die = d ∧
    (f (blkOf s c d b)).blk = b) : blkOf (updBlk c d b f s) c d b = f (blkOf s c d b) := by
  unfold updBlk
  generalize f (blkOf s c d b) = x at h ⊢
  unfold blkOf
  dsimp only
  rw [List.find?_cons_of_pos (by simpa using h)]
  rfl

theorem blkOf_place (s : State) (c d b : Nat) : (blkOf s c d b).ch = c ∧ (blkOf s c d b).die = d ∧ (blkOf s c d b).blk = b := by
  unfold blkOf
  cases h : s.tier.blks.find? (fun x => x.ch = c ∧ x.die = d ∧ x.blk = b) with
  | none => exact ⟨rfl, rfl, rfl⟩
  | some x => simpa using List.find?_some h

/-- The record of a block after its erase. -/
def blkErased (x : Blk) : Blk :=
  { x with state := 2, next := 0, reads := 0, erases := x.erases + 1, journal := false, refresh := false }

/-- What a completed erase leaves. -/
def flashErased (c d b : Nat) (s : State) : State :=
  let s1 := s |> updBlk c d b blkErased |> memZero (pageAddr (ppa c d b 0)) (4096 * 32768)
  setF (F.FC_DIE_PE_PCT c d) (dieWear s1 c d) s1

theorem flashErased_mem {c d b : Nat} {s : State} :
    (flashErased c d b s).mem = (memZero (pageAddr (ppa c d b 0)) (4096 * 32768) s).mem := by
  unfold flashErased
  rw [setF_mem]
  rfl

/-- The fields that a trained channel shows last. -/
def channelFields (c : Nat) (used : List DieReport) (s : State) : List (Fld × Nat) :=
  [(F.FC_STATE c, 2), (F.FC_EN c, 1), (F.FC_IFACE c, b2n (used.any (fun r => r.toggle))), (F.FC_DIES c, (diesUsed s c).length),
    (F.FC_RATE_MTS c, used.foldl (fun m r => min m r.best) 3600)]

/-- The trained channel: its state, its enable and its rate, set last. -/
def channelShown (c : Nat) (used : List DieReport) (present : Nat) (s : State) : State :=
  let s6 := s |> setF (F.FC_STATE c) 2 |> setF (F.FC_EN c) 1 |> setB (F.FC_IFACE c) (used.any (fun r => r.toggle))
    |> setF (F.FC_DIES c) (diesUsed s c).length |> setF (F.FC_RATE_MTS c) (used.foldl (fun m r => min m r.best) 3600)
  { s6 with fl := { s6.fl with present := setAt s6.fl.present c present } }

theorem foldl_min_le {l : List DieReport} {n : Nat} : l.foldl (fun m r => min m r.best) n ≤ n := by
  induction l generalizing n with
  | nil => exact Nat.le_refl _
  | cons r l ih => exact Nat.le_trans ih (Nat.min_le_left _ _)

theorem channelShown_regs {c : Nat} {used : List DieReport} {present : Nat} {s : State} :
    (channelShown c used present s).regs = (setFields (channelFields c used s) s).regs := by
  unfold channelShown channelFields
  simp only [setFields]
  rfl

theorem channelShown_fields {c : Fin 32} {used : List DieReport} {present : Nat} {s : State} (hwf : RegsWf s) :
    getF (channelShown c used present s) (F.FC_STATE c) = 2 ∧ isSet (channelShown c used present s) (F.FC_EN c) = true ∧
      getF (channelShown c used present s) (F.FC_RATE_MTS c) = used.foldl (fun m r => min m r.best) 3600 := by
  have hok : ∀ e ∈ channelFields c used s, e.1.ok = true := by simp [channelFields, Fld.ok]
  have hap : (channelFields c used s).Pairwise (fun e g => g.1.apart e.1 = true) := by simp [channelFields, Fld.apart]
  have hshown : ∀ {f : Fld} {v : Nat}, (f, v) ∈ channelFields c used s → getF (channelShown c used present s) f = v % 2 ^ f.width :=
    fun he => (getF_of_regs channelShown_regs).trans (getF_setFields hwf hok hap he)
  have hrate : used.foldl (fun m r => min m r.best) 3600 < 2 ^ (F.FC_RATE_MTS c).width := by
    have := foldl_min_le (l := used) (n := 3600)
    show _ < 65536
    omega
  refine ⟨hshown (f := F.FC_STATE c) (v := 2) (by simp [channelFields]), decide_eq_true (hshown (f := F.FC_EN c) (v := 1) (by simp [channelFields])), ?_⟩
  exact (hshown (f := F.FC_RATE_MTS c) (by simp [channelFields])).trans (Nat.mod_eq_of_lt hrate)

theorem execChannelTrainDone_fails {c : Fin 32} {ok : Bool} {dies : List DieReport} {bad : List (Nat × Nat)} {s : State}
    (hstate : getF s (F.FC_STATE c) = 1) (hown : owns s (8 + c) = true)
    (hfail : ok = false ∨ ((diesFit dies).filter (fun r => decide (r.best ≠ 0))).isEmpty = true) :
    execChannelTrainDone c ok dies bad s =
      .next (raise 9 0x0416 2 (16 * c.val) 0 (setF (F.FC_ERR_TRAIN c) 1 (setF (F.FC_STATE c) 4 s))) := by
  unfold execChannelTrainDone
  rw [if_neg (by simp [hstate, hown])]
  exact if_pos (by obtain h | h := hfail <;> simp only [h, Bool.not_false, Bool.true_or, Bool.or_true])

/-- What a channel's training leaves before the channel's own fields are shown: the records of its dies and blocks and the faults
of the dies lost. -/
def diesTrained (c : Fin 32) (dies : List DieReport) (bad : List (Nat × Nat)) (s : State) : State :=
  let used := (diesFit dies).filter (fun r => r.best ≠ 0)
  let h := chan s c.val
  let first := decide (h.blocks = 0)
  let n := used.length
  let pages := used.foldl (fun m r => min m r.pages) 4096
  let blocks := used.foldl (fun m r => min m r.blocks) 65536
  let good := n * blocks - bad.length
  let pool := max (good * 4 / 100) (8 * n)
  let st : Nat → Nat := trainedDie h dies
  let lost := ((List.range 16).filter (fun d => decide (st d = 4) && !h.dead.any (fun e => e.1 = d))).map (fun d => (d, 4))
  let h1 := { h with table := if h.tableNew = [] then h.table else h.tableNew, tableNew := [], dead := h.dead ++ lost }
  let s1 := updChan c.val (fun _ => if first then
      { h1 with present := dieBits used, pages := pages, blocks := blocks, good := good, spare := pool, spare0 := pool } else h1) s
  let s2 := if first then bad.foldl (fun s e => updBlk c.val e.1 e.2 (fun b => { b with state := 0 }) s) s1 else s1
  let s3 := forN 16 (fun d s => setF (F.FC_DIE_STATE c.val d) (st d) s) s2
  let s4 := forN 16 (fun (d : Nat) (s : State) => if decide (st d = 3) then raise 9 0x0416 2 (16 * c.val + d) 0 s
    else if lost.contains (d, 4) then raise 9 0x0413 2 (16 * c.val + d) 0 s else s) s3
  forN 16 (fun (d : Nat) (s : State) => if decide (st d = 1) then
      s |> setF (F.FC_DIE_SPARE c.val d) ((chan s c.val).spare / max 1 n) |> setF (F.FC_DIE_PE_PCT c.val d) (dieWear s c.val d)
    else s) s4

theorem diesTrained_regsWf {c : Fin 32} {dies : List DieReport} {bad : List (Nat × Nat)} {s : State} (hwf : RegsWf s) :
    RegsWf (diesTrained c dies bad s) := by
  unfold diesTrained
  extract_lets used h first n pages blocks good pool st lost h1 s1 s2 s3 s4
  have k2 : Keeps (touches (.channelTrainDone c true dies bad)) s s2 :=
    .onto (.either (.foldl (fun _ _ => .only updBlk_keeps) .rfl) .rfl) (.only updChan_keeps)
  have k3 : Keeps (touches (.channelTrainDone c true dies bad)) s s3 := .forN (fun _ _ => .only setF_keeps) k2
  have k4 : Keeps (touches (.channelTrainDone c true dies bad)) s s4 :=
    .forN (fun _ _ => .either (.only raise_keeps) (.either (.only raise_keeps) .rfl)) k3
  refine Keeps.regsWf (w := touches (.channelTrainDone c true dies bad)) ?_ hwf
  exact .forN (fun _ _ => .either (.after setF_keeps (.only setF_keeps)) .rfl) k4

theorem execChannelTrainDone_trains {c : Fin 32} {dies : List DieReport} {bad : List (Nat × Nat)} {s : State}
    (hstate : getF s (F.FC_STATE c) = 1) (hown : owns s (8 + c) = true)
    (hused : ((diesFit dies).filter (fun r => decide (r.best ≠ 0))).isEmpty = false) :
    execChannelTrainDone c true dies bad s = .next (channelShown c ((diesFit dies).filter (fun r => decide (r.best ≠ 0)))
      (dieBits dies) (diesTrained c dies bad s)) := by
  unfold execChannelTrainDone
  rw [if_neg (by simp [hstate, hown])]
  exact if_neg (by simp only [hused, Bool.not_true, Bool.or_false, Bool.false_eq_true, not_false_eq_true])

/-- Settles O49: each operation takes the branch of its guard; an erased block's record is the one that the erase writes. -/
theorem flashOperations : Obligations.FlashOperations := by
  unfold Obligations.FlashOperations
  refine ⟨fun c dies bad s hwf hstate hown => ?train, fun c d b s hown hused hblk hpar => ⟨fun g hstage hlfp => ?program, fun g => ?failed⟩,
    fun c d b s hown hused hblk hpar hrow => ?parity, fun c d b s hown hused hstate hlt => ?erase,
    fun g lfp p s hp hown hstep => ?read, fun c d s hown hused => ⟨_, if_neg (by simp [hown, hused]), by rw [setF_tier]; rfl⟩, fun weak s heng hctl => ?patrol⟩
  case train =>
    dsimp only
    cases hused : ((diesFit dies).filter (fun r => decide (r.best ≠ 0))).isEmpty with
    | true =>
      exact ⟨_, _, execChannelTrainDone_fails hstate hown (Or.inr hused), execChannelTrainDone_fails hstate hown (Or.inl rfl), nofun,
        rfl, fun _ => rfl⟩
    | false =>
      exact ⟨_, _, execChannelTrainDone_trains hstate hown hused, execChannelTrainDone_fails hstate hown (Or.inl rfl),
        fun _ => channelShown_fields (diesTrained_regsWf hwf), rfl, nofun⟩
  case program =>
    show execFlashProgramDone c d (.stage g) true s = _
    unfold execFlashProgramDone
    rw [if_neg (by simp [hown, hused]), hblk]
    dsimp only
    rw [hpar, if_neg (by decide), if_neg (by simpa using ⟨by simpa using hstage, hlfp⟩)]
  case failed =>
    show execFlashProgramDone c d (.stage g) false s = _
    unfold execFlashProgramDone
    simp only [hown, hused, hblk]
    rfl
  case parity =>
    show execFlashProgramDone c d .parity true s = _
    unfold execFlashProgramDone
    simp only [hown, hused, hblk, hpar, hrow]
    rfl
  case erase =>
    have hexec : execFlashEraseDone c d b true s = .next (flashErased c.val d.val b.toNat s) :=
      if_neg (by simp [hown, hused, hstate, hlt])
    have hblk : blkOf (flashErased c.val d.val b.toNat s) c.val d.val b.toNat =
        blkErased (blkOf s c.val d.val b.toNat) := blkOf_updBlk_same (f := blkErased) (blkOf_place s _ _ _)
    exact ⟨_, hexec, congrArg Blk.state hblk, congrArg Blk.erases hblk, flashErased_mem⟩
  case read =>
    show execFlashReadDone g lfp 0 s = _
    unfold execFlashReadDone
    rw [hp]
    have h04 : (0 : Nat) ≠ 4 := by decide
    simp only [hown, show ((0 : Fin 5).val) = 0 from rfl, hstep, Bool.not_true, Bool.false_eq_true, if_false, if_true, Nat.lt_irrefl,
      decide_false, Bool.or_false, h04]
  case patrol =>
    refine ⟨_, if_neg (by simp [heng, hctl]), rfl, ?_⟩
    simp only [List.map_map]
    refine List.map_congr_left fun x hx => ?_
    dsimp only [Function.comp]
    split <;> split <;> simp_all

end Sys2Proof.Machine
end

section
/-! PROOFS. O19: RESET_N, VSYS and the end of the hold-up. -/

set_option Elab.async false

namespace Sys2Proof.Machine

/-! ### Reset and supply -/

theorem startBoot_pwr {s : State} : (startBoot s).pwr = { s.pwr with
    inReset := false, fabProfile := if s.pwr.straps.fabProf = 7 then s.nv.fabProfile.getD 0 else s.pwr.straps.fabProf } := by
  have hset : ∀ n (f : Nat → Fld) s, (forN n (fun i s => setF (f i) 1 s) s).pwr = s.pwr := fun n f s =>
    (Keeps.forN (w := [.regs]) (fun _ _ => setF_keeps) (Keeps.refl _ _)).pwr_eq rfl
  unfold startBoot
  dsimp only
  rw [listRefresh_keeps.pwr_eq rfl, identityMeas_keeps.pwr_eq rfl, setF_pwr, hset, hset]
  rfl

/-- A boot is tried: the device leaves Reset where RESET_N and VSYS are both good. -/
theorem tryBoot_inReset {s : State} : (tryBoot s).pwr.inReset = (s.pwr.inReset && !(s.pwr.resetN && s.pwr.vsysReleased)) := by
  unfold tryBoot
  split
  next h =>
    obtain ⟨hin, hn, hv⟩ := h
    rw [startBoot_pwr, hin, hn, hv]
    rfl
  next h =>
    cases hin : s.pwr.inReset <;> cases hn : s.pwr.resetN <;> cases hv : s.pwr.vsysReleased <;> simp_all

theorem tryBoot_pins {s : State} : (tryBoot s).pwr.resetN = s.pwr.resetN ∧ (tryBoot s).pwr.straps = s.pwr.straps ∧
    (tryBoot s).pwr.vsysReleased = s.pwr.vsysReleased := by
  unfold tryBoot
  split
  · rw [startBoot_pwr]
    exact ⟨rfl, rfl, rfl⟩
  · exact ⟨rfl, rfl, rfl⟩

theorem vsysFloor_lt {mv : Nat} : vsysFloor mv < 2 ^ 8 := by
  unfold vsysFloor
  repeat' split
  all_goals decide

/-- What VSYS_POWER_FAIL does after the record of the failure. -/
theorem powerFailed_keeps {s : State} : Keeps [.regs, .flt, .pins, .pcie, .clk, .fs, .outbox, .mot, .journal, .nvFaultLog, .nvLogNext] s
    (s |> stopAll |> flashHiZ |> spnCoast |> retractAll |> vatSeal |> logReaction 4) :=
  logReaction_keeps.after (vatSeal_keeps.after (retractAll_keeps.after (spnCoast_keeps.after (flashHiZ_keeps.after stopAll_keeps.only))))

/-- Settles O19: what each event notes stays through what follows it. -/
theorem resetAndPowerFail : Obligations.ResetAndPowerFail := by
  unfold Obligations.ResetAndPowerFail
  refine ⟨fun s => ⟨_, rfl, rfl, rfl, rfl, rfl, rfl, rfl, rfl, rfl⟩, fun pullUp pullDown pcieEn fabProf miAddr testN s => ?deassert,
    fun s => ?released, fun below mv s hwf hlive => ?rated, fun mv s hlive hhold => ?powerFail, fun s hhold => ?holdupEnd,
    fun mv s hlive => if_neg (by simp [hlive])⟩
  case deassert =>
    refine ⟨_, rfl, ?_, ?_, ?_⟩
    · exact tryBoot_pins.1
    · exact tryBoot_pins.2.1
    · exact tryBoot_inReset
  case released =>
    refine ⟨_, rfl, tryBoot_pins.2.2, tryBoot_inReset.trans ?_⟩
    exact congrArg (fun b => s.pwr.inReset && !b) (Bool.and_true _)
  case rated =>
    have hwf1 : RegsWf (setB F.PWR_VSYS_BELOW_RATED below s) := regsWf_setF hwf
    have hwf2 : RegsWf (setF F.PWR_VSYS_MV mv.toNat (setB F.PWR_VSYS_BELOW_RATED below s)) := regsWf_setF hwf1
    refine ⟨_, if_neg (by simp [hlive]), ?_, ?_, ?_, rfl, rfl⟩
    · rw [getF_setF_ne (by decide), getF_setF_same hwf1 rfl]
      exact Nat.mod_eq_of_lt mv.isLt
    · rw [getF_setF_ne (by decide), getF_setF_ne (by decide)]
      refine (getF_setF_same hwf rfl).trans ?_
      cases below <;> rfl
    · exact (getF_setF_same hwf2 rfl).trans (Nat.mod_eq_of_lt vsysFloor_lt)
  case powerFail =>
    have hpf : ∀ (s : State) p, (holdupShed { s with pins := p }).nv.pf = s.nv.pf := fun s p => (holdupShed_keeps.same .nvPf rfl).symm
    have hnow : (setF F.SUP_SAFE_ACTIVE 1 (safeRecord 4 0 false (updPwr (fun p => { p with hold := true, vsysReleased := false })
        (setF F.PWR_VSYS_PF 1 (setF F.PWR_VSYS_MV mv.toNat s))))).now = s.now :=
      safeRecord_keeps.now_eq rfl
    refine ⟨_, if_neg (by simp [hlive, hhold]), ?_⟩
    rw [hpf, (powerFailed_keeps.same .nvPf rfl).symm]
    exact ⟨congrArg some hnow, rfl⟩
  case holdupEnd =>
    refine ⟨_, if_neg (by simp [hhold]), ?_, ?_⟩
    · rw [tryBoot_keeps.nv_eq rfl]
      rfl
    · exact tryBoot_inReset.trans (Bool.true_and _)

end Sys2Proof.Machine
end

section
/-! PROOFS. Rows of the volume chapter, and little-endian bytes. -/

set_option Elab.async false

namespace Sys2Proof.Machine

/-! ### Volume rows and bytes -/

theorem volRow_of_answer {m op : Nat} {sel : MbxCmd → Bool} {f : MbxCmd → State → State × Option MbxResult} {s t : State}
    {r : MbxResult} (h : volRuns s m op) (hs : sel (mbxAt s m).cmd = true) (hf : f (mbxAt s m).cmd (begun m s) = (t, some r)) :
    volRow m op sel f s = mbxEnds m r t := by
  rw [volRow_of_runs h]
  exact mbxRow_of_answer h.1 hs hf

theorem volRow_of_wait {m op : Nat} {sel : MbxCmd → Bool} {f : MbxCmd → State → State × Option MbxResult} {s t : State}
    (h : volRuns s m op) (hs : sel (mbxAt s m).cmd = true) (hf : f (mbxAt s m).cmd (begun m s) = (t, none)) :
    volRow m op sel f s = t := by
  rw [volRow_of_runs h]
  exact mbxRow_of_wait h.1 hs hf

theorem volNamed_of_volOf {s : State} {n : Nat} {v : Volume} (h0 : n ≠ 0) (h : volOf s n = some v) : volNamed s n = .ok v := by
  unfold volNamed
  rw [if_neg h0, h]

theorem leBytes_length {n x : Nat} : (leBytes n x).length = n := by
  induction n generalizing x with
  | zero => rfl
  | succ n ih => exact congrArg (· + 1) ih

theorem leNat_leBytes {n x : Nat} : leNat (leBytes n x) = x % 2 ^ (8 * n) := by
  induction n generalizing x with
  | zero => exact (Nat.mod_one x).symm
  | succ n ih =>
    have hbyte : (BitVec.ofNat 8 x).toNat = x % 256 := rfl
    unfold leBytes leNat
    rw [ih, hbyte, show 2 ^ (8 * (n + 1)) = 256 * 2 ^ (8 * n) by rw [Nat.mul_succ, Nat.pow_add]; omega, Nat.mod_mul]

/-- The little-endian number that stands at the length of what is before it. -/
theorem leAt_append {a r : List Byte} {o n x : Nat} (ho : a.length = o) : leAt (a ++ (leBytes n x ++ r)) o n = x % 2 ^ (8 * n) := by
  unfold leAt slice
  rw [List.drop_append_of_le_length (by omega), List.drop_of_length_le (by omega), List.nil_append, List.take_append_of_le_length
    (Nat.le_of_eq leBytes_length.symm), List.take_of_length_le (Nat.le_of_eq leBytes_length), leNat_leBytes]

theorem padTo_length {n : Nat} {l : List Byte} : (padTo n l).length = n := by
  unfold padTo
  rw [List.length_append, List.length_take, List.length_replicate]
  omega

theorem mbxEnds_keeps {m : Nat} {r : MbxResult} {t : State} : Keeps [.mbx] t (mbxEnds m r t) :=
  (Keeps.refl _ _).upd_mbx (modAt_length _ _ _) rfl

end Sys2Proof.Machine
end

section
/-! PROOFS. O53: the volume commands. -/

set_option Elab.async false

namespace Sys2Proof.Machine

/-! ### Volume commands -/

/-- The 64 bytes of VOL_INFO (R380). -/
def volInfoBytes (v : Volume) (s : State) : List Byte :=
  let fl := b2n (decide (v.kind = 2)) + 2 * b2n (decide (v.kind = 1)) + 4 * v.group + 8 * b2n (canalOn s v.num)
    + 16 * b2n (drainMoving s v.num)
  let st := (distinctRids v.map).foldl (fun n r => match recOf s v.group r with
    | some e => n + 16 * e.len16
    | none => n) 0
  leBytes 4 (handleOf s v.num) ++ leBytes 2 fl ++ leBytes 2 v.snaps.length ++ leBytes 8 v.size
    ++ leBytes 8 (8192 * v.map.length) ++ leBytes 8 st ++ padTo 16 v.nguid ++ leBytes 1 v.fmt ++ List.replicate 7 0
    ++ leBytes 8 v.created

theorem volInfoBytes_fields {v : Volume} {s : State} : leAt (volInfoBytes v s) 0 4 = handleOf s v.num % 2 ^ 32 ∧
    leAt (volInfoBytes v s) 8 8 = v.size % 2 ^ 64 ∧ (volInfoBytes v s).length = 64 := by
  unfold volInfoBytes
  simp only [List.append_assoc]
  refine ⟨leAt_append (a := []) rfl, ?_, by simp only [List.length_append, leBytes_length, padTo_length, List.length_replicate]⟩
  rw [← List.append_assoc, ← List.append_assoc]
  exact leAt_append (by simp only [List.length_append, leBytes_length])

/-- Settles O53: each row's checks pass, and what follows the change of the volume keeps the volumes. -/
theorem volumeCommands : Obligations.VolumeCommands := by
  unfold Obligations.VolumeCommands
  refine ⟨fun m s hu hrun hlen hrep hsize hmode hnum hgroup hguid => ⟨fun hfree => ?create, fun v hused => ?used⟩,
    fun m v s hu hrun hnum hv hsnaps hcanal => ?delete,
    fun m v s hu hrun hnum hv hsize => ⟨fun hle => ?grow, fun hlt => ?shrink⟩,
    fun m v s hu hrun hadd hnum hv hnew => ⟨fun hroom => ?add, fun hfull => ?full⟩,
    fun m v s hu hrun hrem hnum hv => ⟨fun hheld => ?remove, fun hnot => ?notHeld⟩,
    fun m v s hu hrun hnum hv => ?info, fun m s hu hrun => ?list⟩
  case create =>
    refine ⟨_, congrArg Host.Outcome.next (volRow_of_answer (t := addVolume (newVolume (par (mbxAt s m).cmd 0 15) (par (mbxAt s m).cmd 16 1)
      (leAt (mbxAt s m).cmd.data 0 8) (par (mbxAt s m).cmd 18 1) 0 0 (slice (mbxAt s m).cmd.data 8 16) s) (begun m s)) hrun rfl ?_),
      mbxReturns_mbxEnds (addVolume_keeps.units (begun_units hu)), ?_⟩
    · have hmode' : mode (begun m s) ≠ 6 := hmode
      have hfree' : volOf (begun m s) (par (mbxAt s m).cmd 0 15) = none := hfree
      simp only [hrep, hsize, hlen, hnum, hgroup, hfree', hguid, hmode', decide_false, Nat.zero_ne_one, Bool.false_eq_true, if_false,
        if_true, ne_eq, not_true_eq_false, Bool.not_true, false_and, or_self, Option.isSome_none, and_false]
      rfl
    · rw [mbxEnds_keeps.volu_eq rfl]
      unfold addVolume
      rw [jRecord_keeps.volu_eq rfl]
      rfl
  case used =>
    refine ⟨_, congrArg Host.Outcome.next (volRow_of_answer (r := resStatus 0x0710) (t := begun m s) hrun rfl ?_),
      mbxAnswered_mbxEnds (begun_units hu), rfl⟩
    have hmode' : mode (begun m s) ≠ 6 := hmode
    have hused' : volOf (begun m s) (par (mbxAt s m).cmd 0 15) = some v := hused
    simp only [hrep, hsize, hlen, hnum, hused', hmode', decide_false, Nat.zero_ne_one, Bool.false_eq_true, if_false,
      if_true, ne_eq, not_true_eq_false, Bool.not_true, false_and, or_self, Option.isSome_some, and_self, not_false_eq_true]
    rfl
  case delete =>
    refine congrArg Host.Outcome.next (volRow_of_wait hrun rfl ?_)
    have hcanal' : canalOn (begun m s) v.num = false := hcanal
    dsimp only
    rw [volNamed_of_volOf (s := begun m s) hnum hv]
    simp only [hsnaps, hcanal']
    rfl
  case grow =>
    refine ⟨_, congrArg Host.Outcome.next (volRow_of_answer (r := resStatus 0) (t := jRecord v.group 4
      (updVol v.num (fun v => { v with size := leAt (mbxAt s m).cmd.data 0 8 }) (begun m s))) hrun rfl ?_),
      mbxAnswered_mbxEnds (jRecord_keeps.units (updVol_keeps.units (begun_units hu))), ?_⟩
    · dsimp only
      rw [volNamed_of_volOf (s := begun m s) hnum hv]
      dsimp only
      rw [hsize, if_neg (by decide), if_pos hle]
      rfl
    · rw [mbxEnds_keeps.volu_eq rfl, jRecord_keeps.volu_eq rfl]
      rfl
  case shrink =>
    refine congrArg Host.Outcome.next (volRow_of_wait hrun rfl ?_)
    dsimp only
    rw [volNamed_of_volOf (s := begun m s) hnum hv]
    dsimp only
    rw [hsize, if_neg (by decide), if_neg (Nat.not_le.mpr hlt)]
  case add =>
    refine ⟨_, congrArg Host.Outcome.next (volRow_of_answer (r := resStatus 0) (t := nsChanged v.num [(mbxAt s m).cmd.data] (jRecord v.group 4
      (updVol v.num (fun v => { v with access := v.access ++ [(mbxAt s m).cmd.data] }) (begun m s)))) hrun (decide_eq_true hadd) ?_),
      mbxAnswered_mbxEnds (nsChanged_keeps.units (jRecord_keeps.units (updVol_keeps.units (begun_units hu)))), ?_⟩
    · rw [volNamed_of_volOf (s := begun m s) hnum hv]
      dsimp only
      rw [hnew, if_neg (by decide), if_neg (Nat.not_le.mpr hroom)]
      rfl
    · rw [mbxEnds_keeps.volu_eq rfl, nsChanged_keeps.volu_eq rfl, jRecord_keeps.volu_eq rfl]
      rfl
  case full =>
    refine ⟨_, congrArg Host.Outcome.next (volRow_of_answer (r := resStatus 0x0726) (t := begun m s) hrun (decide_eq_true hadd) ?_),
      mbxAnswered_mbxEnds (begun_units hu), rfl⟩
    rw [volNamed_of_volOf (s := begun m s) hnum hv]
    dsimp only
    rw [hnew, if_neg (by decide), if_pos hfull]
    rfl
  case remove =>
    refine ⟨_, congrArg Host.Outcome.next (volRow_of_answer (r := resStatus 0) (t := nsChanged v.num [(mbxAt s m).cmd.data] (jRecord v.group 4
      (updVol v.num (fun v => { v with access := v.access.filter (fun x => x ≠ (mbxAt s m).cmd.data) }) (begun m s)))) hrun
      (decide_eq_true hrem) ?_),
      mbxAnswered_mbxEnds (nsChanged_keeps.units (jRecord_keeps.units (updVol_keeps.units (begun_units hu)))), ?_⟩
    · rw [volNamed_of_volOf (s := begun m s) hnum hv]
      dsimp only
      rw [hheld, if_neg (by decide)]
      rfl
    · rw [mbxEnds_keeps.volu_eq rfl, nsChanged_keeps.volu_eq rfl, jRecord_keeps.volu_eq rfl]
      rfl
  case notHeld =>
    refine ⟨_, congrArg Host.Outcome.next (volRow_of_answer (r := resStatus 0x001B) (t := begun m s) hrun (decide_eq_true hrem) ?_),
      mbxAnswered_mbxEnds (begun_units hu), rfl⟩
    rw [volNamed_of_volOf (s := begun m s) hnum hv]
    dsimp only
    rw [hnot]
    rfl
  case info =>
    obtain ⟨hhandle, hsize, hlen⟩ := volInfoBytes_fields (v := v) (s := s)
    refine ⟨_, volInfoBytes v s, congrArg Host.Outcome.next (volRow_of_answer (t := begun m s) hrun rfl ?_),
      mbxReturns_mbxEnds (begun_units hu), hhandle, hsize, hlen, rfl⟩
    rw [volNamed_of_volOf (s := begun m s) hnum hv]
    rfl
  case list =>
    exact ⟨_, congrArg Host.Outcome.next (volRow_of_answer (t := begun m s) hrun rfl rfl), rfl, mbxReturns_mbxEnds (begun_units hu)⟩

end Sys2Proof.Machine
end

section
/-! PROOFS. O18: the fault log, the watchdog and the fault commands. -/

set_option Elab.async false

namespace Sys2Proof.Machine

/-! ### Fault commands -/

theorem setF_begun {f : Fld} {v m : Nat} {s : State} : setF f v (begun m s) = begun m (setF f v s) := rfl

theorem wr_begun {a m : Nat} {v : Word} {s : State} : wr a v (begun m s) = begun m (wr a v s) := rfl

theorem clearPend_begun {b k m : Nat} {s : State} : clearPend b k (begun m s) = begun m (clearPend b k s) := by
  have hforN : ∀ n, forN n (fun i s => if bitAt k i then setF (FF_PEND b i) 0 s else s) (begun m s) =
      begun m (forN n (fun i s => if bitAt k i then setF (FF_PEND b i) 0 s else s) s) := by
    intro n
    induction n with
    | zero => rfl
    | succ n ih =>
      unfold forN
      rw [ih]
      dsimp only
      rw [setF_begun]
      split <;> rfl
  exact hforN 3

/-- What FLT_CLEAR clears of a block's group. -/
def fltCleared (c : MbxCmd) (s : State) : State :=
  let s1 := if par c 8 1 = 1 then clearLatch (par c 0 5) s else s
  if par c 9 1 = 1 then clearPend (par c 0 5) (par c 10 3) s1 else s1

theorem fltCleared_begun {c : MbxCmd} {m : Nat} {s : State} : fltCleared c (begun m s) = begun m (fltCleared c s) := by
  unfold fltCleared clearLatch
  dsimp only
  rw [wr_begun, ← apply_ite (begun m), clearPend_begun, ← apply_ite (begun m)]

theorem fltCleared_keeps {c : MbxCmd} {s : State} : Keeps [.regs] s (fltCleared c s) :=
  .either (clearPend_keeps.after (.either clearLatch_keeps .rfl)) (.either clearLatch_keeps .rfl)

/-- Settles O18: the log's entries are withheld no longer, and each row and register write runs what its permission allows. -/
theorem faultLogWatchdogAndCommands : Obligations.FaultLogWatchdogAndCommands := by
  unfold Obligations.FaultLogWatchdogAndCommands
  refine ⟨fun s => ⟨_, rfl, rfl, rfl, ?second⟩, fun p s hgo => congrArg Host.Outcome.next (busAct_acc_of_writeGoes hgo),
    fun s harmed hwedged hlate => if_pos ⟨harmed, hwedged, hlate⟩,
    fun p s hgo => congrArg Host.Outcome.next (busAct_acc_of_writeGoes hgo),
    fun m s hu hrun hsel => ⟨_, congrArg Host.Outcome.next (mbxRow_of_answer (t := begun m s) hrun (decide_eq_true hsel) rfl),
      mbxReturns_mbxEnds (begun_units hu), rfl⟩,
    fun m s hu hrun hsel => ⟨_, congrArg Host.Outcome.next (mbxRow_of_answer (t := begun m s) hrun (decide_eq_true hsel) rfl),
      mbxReturns_mbxEnds (begun_units hu), rfl⟩,
    fun m s hu hrun hb => ?clear,
    fun m s hu hrun hk => ⟨_, congrArg Host.Outcome.next (mbxRow_of_answer (t := begun m s) hrun rfl rfl),
      mbxReturns_mbxEnds (begun_units hu)⟩⟩
  case second =>
    show (if canLog s then logWithheld s else s).regs = s.regs
    split
    · exact logWithheld_keeps.regs_eq rfl
    · rfl
  case clear =>
    refine ⟨_, congrArg Host.Outcome.next (mbxRow_of_answer (r := resStatus 0) (t := fltCleared (mbxAt s m).cmd (begun m s)) hrun rfl
      (if_neg (Nat.not_lt.mpr hb))), mbxAnswered_mbxEnds (fltCleared_keeps.units (begun_units hu)), ?_⟩
    rw [mbxEnds_keeps.regs_eq rfl, fltCleared_begun]
    rfl

end Sys2Proof.Machine
end

section
/-! PROOFS. O45: staging, activation, confirmation and the fused minimum. -/

set_option Elab.async false

namespace Sys2Proof.Machine

/-! ### Firmware -/

theorem requesterOf_begun {m : Fin 16} {s : State} (hu : Units s) : requesterOf (begun m s) m = requesterOf s m := by
  obtain ⟨hmbx, -⟩ := hu
  unfold requesterOf
  rw [begun_at (by rw [hmbx]; exact m.isLt)]

theorem getD_setAt_or {α : Type} {l : List α} {i : Nat} {x d : α} : (setAt l i x).getD i d = x ∨ (setAt l i x).getD i d = d := by
  induction l generalizing i with
  | nil => exact Or.inr rfl
  | cons y l ih => cases i with
    | zero => exact Or.inl rfl
    | succ i => exact ih

/-- A slot emptied is not valid, whether or not it is there. -/
theorem slotValid_setSlot_empty {n : Nat} {s : State} : slotValid (setSlot 2 n ⟨[], false⟩ s) 2 n = false := by
  have hctl : (setSlot 2 n ⟨[], false⟩ s).nv.ctl = { s.nv.ctl with slots := setAt s.nv.ctl.slots n ⟨[], false⟩ } :=
    ((listRefresh_keeps.same .nvCtl rfl).symm.trans (slotRefresh_keeps.same .nvCtl rfl).symm)
  show ((setSlot 2 n ⟨[], false⟩ s).nv.ctl.slots.getD n ⟨[], false⟩).valid = false
  rw [hctl]
  obtain h | h := getD_setAt_or (l := s.nv.ctl.slots) (i := n) (x := (⟨[], false⟩ : Slot)) (d := ⟨[], false⟩) <;> exact congrArg Slot.valid h

theorem stagingOf_setStaging {k : Nat} {x : Staging} {s : State} (h : x.kind = k) : stagingOf (setStaging k (some x) s) k = some x := by
  unfold stagingOf setStaging
  exact List.find?_cons_of_pos (by simpa using h)

theorem setStaging_restart {k : Nat} {x : Option Staging} {s : State} : (setStaging k x s).boot.restart = s.boot.restart := rfl

/-- A chunk that starts a staging empties the inactive slot and is kept. -/
theorem stageChunk_first {k : Nat} {o : Nat × Nat} {d : List Byte} {s : State} (hlen : d.length ≤ 16777216) :
    stageChunk k o true false 0 d s = answer 0 (setStaging k (some ⟨k, o, d⟩) (setSlot k (inactive s k) ⟨[], false⟩ s)) := by
  unfold stageChunk
  simp only [ne_eq, not_true_eq_false, and_false, Bool.not_true, Bool.false_eq_true, false_and, or_self, if_false, Nat.zero_add, if_true,
    Nat.not_lt.mpr hlen, List.nil_append]

/-- A chunk that follows is kept behind those before it. -/
theorem stageChunk_next {k : Nat} {o : Nat × Nat} {d : List Byte} {x : Staging} {s : State} (hx : stagingOf s k = some x)
    (hlen : x.bytes.length + d.length ≤ 16777216) :
    stageChunk k o false false x.bytes.length d s = answer 0 (setStaging k (some ⟨k, o, x.bytes ++ d⟩) s) := by
  unfold stageChunk
  simp only [hx, Option.elim_some, Bool.false_eq_true, false_and, Bool.not_false, true_and, Option.isNone_some, ne_eq, not_true_eq_false,
    or_self, if_false, Nat.not_lt.mpr hlen]

/-- A row of FW_STAGE that ends in no restart is the whole command. -/
theorem execFwStage_of_row {m : Fin 16} {s t : State} (hrow : fwStageRow m s = t) (hrestart : t.boot.restart = false) :
    execFwStage m s = .next t := by
  unfold execFwStage
  rw [hrow]
  exact congrArg Host.Outcome.next (if_neg (by rw [hrestart]; decide))

theorem fwStageRow_answers {m : Fin 16} {s t : State} (hu : Units s) (hrun : mbxRuns s m 0x0200) (hk : par (mbxAt s m).cmd 0 8 = 2)
    (hrec : isSet s F.SUP_BOOT_RECOVERY = false) (hown : s.boot.staging.any (fun x => decide (x.owner ≠ requesterOf s m)) = false)
    (hptr : dptr (mbxAt s m).cmd = false) (hmore : par (mbxAt s m).cmd 9 1 = 0)
    (hchunk : stageChunk 2 (requesterOf s m) (decide (par (mbxAt s m).cmd 8 1 = 1)) false (par (mbxAt s m).cmd 32 32) (mbxAt s m).cmd.data
      (begun m s) = answer 0 t) : fwStageRow m s = mbxEnds m (resStatus 0) t := by
  have hrec' : isSet (begun m s) F.SUP_BOOT_RECOVERY = false := hrec
  have hown' : (begun m s).boot.staging.any (fun x => decide (x.owner ≠ requesterOf s m)) = false := hown
  refine mbxRow_of_answer hrun rfl ?_
  dsimp only
  rw [hk, requesterOf_begun hu, hrec', hown', hptr, hmore]
  exact hchunk

/-- Settles O45: a chunk is kept in the staging, and each other row changes the record that it names and refreshes registers. -/
theorem firmwareCommands : Obligations.FirmwareCommands := by
  unfold Obligations.FirmwareCommands
  refine ⟨fun m s hu hrun hk hrec hrestart hnone hfirst hoff hptr hlen => ?first,
    fun m x s hu hrun hk hrec hrestart hone hkind howner hnext hoff hptr hlen => ?next, fun k s hstaged => if_pos hstaged,
    fun m s hu hrun hk hnone hvalid => ?activate, fun m n s hu hrun hk hstarted => ?confirm,
    fun m s hu hrun => ⟨fun hroom => ?acceptAdd, fun hfull => ?acceptFull⟩,
    fun m s hu hrun => ⟨fun hheld => ?acceptRemove, fun hnot => ?acceptNot⟩, fun m s hu hrun hsup hctl hup => ?svn⟩
  case first =>
    have h8 : par (mbxAt s m).cmd 8 1 = 1 := by
      unfold par bitsAt at *
      omega
    have h9 : par (mbxAt s m).cmd 9 1 = 0 := by
      unfold par bitsAt at *
      omega
    have hrow := fwStageRow_answers hu hrun hk hrec (by rw [hnone]; rfl) hptr h9
      (by rw [h8, hoff]; exact stageChunk_first (Nat.le_trans hlen (by decide)))
    refine ⟨_, execFwStage_of_row hrow ?_, mbxAnswered_mbxEnds (setStaging_keeps.units (setSlot_keeps.units (begun_units hu))), ?_, ?_⟩
    · rw [mbxEnds_keeps.boot_eq rfl, setStaging_restart, setSlot_keeps.boot_eq rfl]
      exact hrestart
    · unfold stagingOf
      rw [mbxEnds_keeps.boot_eq rfl]
      exact stagingOf_setStaging rfl
    · unfold slotValid slotsOf
      rw [mbxEnds_keeps.nv_eq rfl, setStaging_keeps.nv_eq rfl]
      exact slotValid_setSlot_empty
  case next =>
    have h8 : par (mbxAt s m).cmd 8 1 = 0 := by
      unfold par bitsAt at *
      omega
    have h9 : par (mbxAt s m).cmd 9 1 = 0 := by
      unfold par bitsAt at *
      omega
    have hx : stagingOf (begun m s) 2 = some x := by
      show s.boot.staging.find? _ = _
      rw [hone]
      exact List.find?_cons_of_pos (by simpa using hkind)
    have hrow := fwStageRow_answers hu hrun hk hrec (by rw [hone]; simp [howner]) hptr h9
      (by rw [h8, hoff]; exact stageChunk_next hx hlen)
    refine ⟨_, execFwStage_of_row hrow hrestart, mbxAnswered_mbxEnds (setStaging_keeps.units (begun_units hu)), ?_⟩
    rw [howner]
    exact stagingOf_setStaging rfl
  case activate =>
    have hnone' : (begun m s).boot.staging = [] := hnone
    have hvalid' : slotValid (begun m s) 2 (inactive (begun m s) 2) = true := hvalid
    refine ⟨_, congrArg Host.Outcome.next (mbxRow_of_answer (r := resStatus 0) (t := slotRefresh (updSlots 2
      (fun p => { p with trial := some (inactive s 2) }) (begun m s))) hrun rfl ?_),
      mbxAnswered_mbxEnds (slotRefresh_keeps.units (updSlots_keeps.units (begun_units hu))), ?_⟩
    · dsimp only
      rw [hk, hnone', hvalid']
      rfl
    · have hctl : (slotRefresh (updSlots 2 (fun p => { p with trial := some (inactive s 2) }) (begun m s))).nv.ctl =
          (updSlots 2 (fun p => { p with trial := some (inactive s 2) }) (begun m s)).nv.ctl := (slotRefresh_keeps.same .nvCtl rfl).symm
      rw [mbxEnds_keeps.nv_eq rfl, hctl]
      exact ⟨rfl, rfl⟩
  case confirm =>
    have hstarted' : (slotsOf (begun m s) 2).started = some n := hstarted
    refine ⟨_, congrArg Host.Outcome.next (mbxRow_of_answer (r := resStatus 0) (t := confirmTrial 2 (begun m s)) hrun rfl ?_),
      mbxAnswered_mbxEnds (confirmTrial_keeps.units (begun_units hu)), ?_⟩
    · dsimp only
      rw [hk, hstarted']
      rfl
    · have hctl : (confirmTrial 2 (begun m s)).nv.ctl = { s.nv.ctl with active := n, started := none } := by
        unfold confirmTrial
        rw [hstarted']
        exact (slotRefresh_keeps.same .nvCtl rfl).symm
      show (confirmTrial 2 (begun m s)).nv.ctl.active = n ∧ (confirmTrial 2 (begun m s)).nv.ctl.started = none
      rw [hctl]
      exact ⟨rfl, rfl⟩
  case acceptAdd =>
    refine ⟨_, congrArg Host.Outcome.next (mbxRow_of_answer (r := resStatus 0) (t := listRefresh { begun m s with
      nv := { s.nv with accepted := s.nv.accepted ++ [(mbxAt s m).cmd.data] } }) hrun rfl (if_neg (Nat.not_le.mpr hroom))),
      mbxAnswered_mbxEnds (listRefresh_keeps.units (begun_units hu)), ?_⟩
    exact (listRefresh_keeps.same .nvAccepted rfl).symm
  case acceptFull =>
    exact ⟨_, congrArg Host.Outcome.next (mbxRow_of_answer (r := resStatus 0x021D) (t := begun m s) hrun rfl (if_pos hfull)),
      mbxAnswered_mbxEnds (begun_units hu), rfl⟩
  case acceptRemove =>
    refine ⟨_, congrArg Host.Outcome.next (mbxRow_of_answer (r := resStatus 0) (t := listRefresh { begun m s with
      nv := { s.nv with accepted := s.nv.accepted.filter (fun x => x ≠ (mbxAt s m).cmd.data) } }) hrun rfl (if_pos hheld)),
      mbxAnswered_mbxEnds (listRefresh_keeps.units (begun_units hu)), ?_⟩
    exact (listRefresh_keeps.same .nvAccepted rfl).symm
  case acceptNot =>
    exact ⟨_, congrArg Host.Outcome.next (mbxRow_of_answer (r := resStatus 0x001B) (t := begun m s) hrun rfl
      (if_neg (by rw [Bool.not_eq_true]; exact hnot))), mbxAnswered_mbxEnds (begun_units hu), rfl⟩
  case svn =>
    have hk : ∀ s, Keeps [.regs, .nvSup, .nvCtl] s (s |> dropOldSlots 1 |> dropOldSlots 2 |> svnRefresh |> slotRefresh |> listRefresh) := fun s =>
      listRefresh_keeps.after (slotRefresh_keeps.after (svnRefresh_keeps.after (dropOldSlots_keeps.after dropOldSlots_keeps.only)))
    have hu1 : Units { begun m s with nv := { s.nv with svnMinSup := max s.nv.svnMinSup (getF s F.SUP_SVN_RUN_SUP)
                                                        svnMinCtl := max s.nv.svnMinCtl (getF s F.SUP_SVN_RUN_CTL) } } := begun_units hu
    refine ⟨_, congrArg Host.Outcome.next (mbxRow_of_answer (r := ⟨0, _, 0, 0, []⟩) (t := listRefresh (slotRefresh (svnRefresh (dropOldSlots 2
      (dropOldSlots 1 { begun m s with nv := { s.nv with svnMinSup := max s.nv.svnMinSup (getF s F.SUP_SVN_RUN_SUP)
                                                         svnMinCtl := max s.nv.svnMinCtl (getF s F.SUP_SVN_RUN_CTL) } })))))
      hrun rfl (if_neg ?_)), mbxAnswered_mbxEnds ((hk _).units hu1), ?_, ?_⟩
    · have hup' : isSet (begun m s) F.NAL_UP = true := hup
      simp [hsup, hctl, hup']
    · rw [mbxEnds_keeps.nv_eq rfl]
      exact ((hk _).same .nvSvnMinSup rfl).symm
    · rw [mbxEnds_keeps.nv_eq rfl]
      exact ((hk _).same .nvSvnMinCtl rfl).symm

end Sys2Proof.Machine
end

section
/-! PROOFS. O32: the messages of a token transfer. -/

set_option Elab.async false

namespace Sys2Proof.Machine

/-! ### Tokens -/

theorem tookIt_of_partner {r : TokRec} {e : BitVec 16} (h : r.state = .partner) : tookIt r e = false := by
  unfold tookIt
  rw [h]
  rfl

/-- Settles O32: the record's state and the epoch select the branch of each message. -/
theorem tokenTransfers : Obligations.TokenTransfers := by
  unfold Obligations.TokenTransfers
  refine ⟨fun t s hready hout => if_pos ⟨hready, hout⟩, fun t e left s hup hvat hused hpartner hnew hwill => ?commit,
    fun t e left s hup hvat hused howner hepoch => ?again, fun t e s hup hrel hepoch => if_pos ⟨hup, hrel, hepoch⟩,
    fun t s hup hrel hshared h4 h8 => ?refusedGroup, fun t s hup hrel hkind hshared => ?refused, fun t s hrel => if_pos hrel,
    fun t e s hup hvat hused => ?query⟩
  case commit =>
    show execTokenReleaseReceived t e left s = _
    unfold execTokenReleaseReceived
    dsimp only
    rw [if_neg (by simp [hup, hvat, hused]), tookIt_of_partner hpartner, hpartner, hnew]
    exact if_pos (by simpa [tieLog] using hwill)
  case again =>
    have htook : tookIt (tok s t) e = true := by
      unfold tookIt
      rw [hepoch]
      obtain h | h := howner <;> simp [h]
    show execTokenReleaseReceived t e left s = _
    unfold execTokenReleaseReceived
    dsimp only
    rw [if_neg (by simp [hup, hvat, hused]), if_pos htook]
  case refusedGroup =>
    refine (if_pos ⟨hup, hrel, rfl⟩).trans ?_
    have hshared' : sharedOk s = true := hshared
    rw [hshared', if_neg (by decide), if_neg (by omega), if_neg (by omega)]
  case refused =>
    refine (if_pos ⟨hup, hrel, rfl⟩).trans ?_
    rw [hshared, if_neg (by decide)]
    by_cases h4 : t.val < 4
    · rw [if_pos h4, if_pos h4]
    · rw [if_neg h4, if_neg h4, if_pos (by omega)]
  case query =>
    show execTokenQueryReceived t e s = _
    unfold execTokenQueryReceived
    dsimp only
    rw [if_neg (by simp [hup, hvat, hused])]
    exact (apply_ite Host.Outcome.next _ _ _).symm

end Sys2Proof.Machine
end

section
/-! PROOFS. O33: torque sharing, the handover and the coil blends. -/

set_option Elab.async false

namespace Sys2Proof.Machine

/-- Settles O33: each guard selects its branch; a hold of the groups keeps the handover that asks for it. -/
theorem torqueHandoverAndBlend : Obligations.TorqueHandoverAndBlend := by
  unfold Obligations.TorqueHandoverAndBlend
  refine ⟨fun s hmot => ?speed, fun n cmd s hup hown hspin hnew hlocal hstate => ?torque,
    fun m s hu hrun hmode hpmode hup hnone hwide hproto => ?handover, fun s hstep hdrained => if_pos ⟨hstep, hdrained⟩,
    fun a s hready hload hband hblend => if_pos ⟨hready, hload, hband, hblend⟩,
    fun a cmd sect s hwf hu hup hmot hown hfit hdom => ?current, fun a b s hb hgiving hramp hown hup => ?ramp,
    fun a b s hb hgiving hown => ?backup⟩
  case speed =>
    show execSpeedLoopSample s = _
    unfold execSpeedLoopSample
    rw [if_neg (by simp [hmot])]
    dsimp only
    cases setDrives (speedShow (speed16 s) s) with
    | false => rfl
    | true => exact (apply_ite Host.Outcome.next _ _ _).symm
  case torque =>
    show ∃ t, execTorqueReceived n cmd s = _ ∧ _
    have hlocal' : ∀ f, isSet (updPair f s) F.NAL_TORQUE_LOCAL = false := fun _ => hlocal
    unfold execTorqueReceived
    cases happ : s.pair.torqueApplied with
    | none =>
      dsimp only
      rw [if_neg (by simp [hup, hown, hspin]), if_neg (c := spnState s = 0 ∨ spnState s = 7) (by simp [hstate])]
      exact ⟨_, if_pos (by rw [hlocal']; rfl), rfl, rfl, rfl, rfl⟩
    | some a =>
      rw [happ] at hnew
      dsimp only
      rw [if_neg (by simpa [hup, hown, hspin] using hnew), if_neg (c := spnState s = 0 ∨ spnState s = 7) (by simp [hstate])]
      exact ⟨_, if_pos (by rw [hlocal']; rfl), rfl, rfl, rfl, rfl⟩
  case handover =>
    have hmode' : mode (begun m s) = 3 := hmode
    have hpmode' : (begun m s).pair.partnerMode = 3 := hpmode
    have hup' : isSet (begun m s) F.NAL_UP = true := hup
    have hnone' : (begun m s).pair.handover = none := hnone
    have hproto' : (begun m s).pair.partnerProto = none := hproto
    refine ⟨_, congrArg Host.Outcome.next (mbxRow_of_answer (r := resStatus 0) (t := anaRefresh (holdGroups true (updPair
      (fun p => { p with handover := some ⟨true, 2⟩, give := giveAll s }) (begun m s)))) hrun rfl ?_),
      mbxAnswered_mbxEnds (anaRefresh_keeps.units (holdGroups_keeps.units (updPair_keeps.units (begun_units hu)))), ?_⟩
    · dsimp only
      rw [if_neg (by simp [hmode', hpmode, hup']), hnone', if_neg (by decide),
        if_neg (c := getF (begun m s) F.NAL_WIDTH < 3) (Nat.not_lt.mpr hwide), hproto']
      rfl
    · rw [mbxEnds_keeps.pair_eq rfl, anaRefresh_keeps.pair_eq rfl, holdGroups_keeps.pair_eq rfl]
      exact ⟨rfl, rfl⟩
  case current =>
    have hwf1 : RegsWf (setF (F.VCM_COIL a) (ownCoil s a) s) := regsWf_setF hwf
    have hwf2 : RegsWf (setF (F.VCM_STATE a) 3 (setF (F.VCM_COIL a) (ownCoil s a) s)) := regsWf_setF hwf1
    refine ⟨_, if_neg (by simp [hup, hmot, hown, hfit]), ?_, ?_, ?_⟩
    · rw [if_pos hdom]
      exact (getF_setF_same hwf2 rfl).trans (Nat.mod_eq_of_lt cmd.isLt)
    · rw [if_pos hdom]
      refine Eq.trans ?_ (getF_setF_same (f := F.VCM_STATE a) (v := 3) hwf1 rfl)
      exact getF_setF_ne (by simp)
    · rw [if_pos hdom]
      rfl
  case ramp =>
    show execCoilBlendRampEnd a s = _
    unfold execCoilBlendRampEnd
    rw [hb]
    exact if_pos (by simp [hgiving, hramp, hown, hup])
  case backup =>
    show execBackupBridgeTimeout a s = _
    unfold execBackupBridgeTimeout
    rw [hb]
    exact if_pos (by simp [hgiving, hown])

end Sys2Proof.Machine
end

section
/-! PROOFS. O50: racking moves and the capacity accounts. -/

set_option Elab.async false

namespace Sys2Proof.Machine

/-! ### Racking -/

/-- The account does not read the record of the racking. -/
theorem account_fl {f : FlashSt} {s : State} : account { s with fl := f } = account s := by
  have howns : ∀ a, owns { s with fl := f } a = owns s a := fun _ => rfl
  have hheads : ∀ a, bandHeads { s with fl := f } a = bandHeads s a := fun _ => rfl
  have hunits : ∀ n, dataUnits { s with fl := f } n = dataUnits s n := fun _ => rfl
  have hzones : ∀ a w l, zoneUnits { s with fl := f } a w l = zoneUnits s a w l := fun a w l => by
    fun_induction zoneUnits s a w l with
    | case1 => rfl
    | case2 z => rfl
    | case3 z y r ih =>
      exact congrArg ((y.1 - z.1) * z.2 * w + ·) ih
  have hsectors : ∀ a b, bandSectors { s with fl := f } a b = bandSectors s a b := fun _ _ => rfl
  have hbands : ∀ a, bandsOf { s with fl := f } a = bandsOf s a := fun _ => rfl
  have hact : ∀ a, actCap { s with fl := f } a = actCap s a := fun a => by
    unfold actCap
    simp only [hheads, hunits, hzones, hsectors, hbands]
  have hdisk : diskCap { s with fl := f } = diskCap s := by
    unfold diskCap
    simp only [howns, hact]
  unfold account
  rw [hdisk]
  rfl

/-- With the link up the room depends on the partner's account alone. -/
theorem capShort_ownAcct {p : Nat × Nat × Nat} {o : Nat × Nat × Nat} {s : State} (hup : isSet s F.NAL_UP = true) :
    capShort { s with fl := { s.fl with partnerAcct := some p, exchanged := true, ownAcct := o } } =
      capShort { s with fl := { s.fl with partnerAcct := some p, exchanged := true } } := by
  have hfree : ∀ o, freeCap { s with fl := { s.fl with partnerAcct := some p, exchanged := true, ownAcct := o } } =
      (account s).1 + p.1 - ((account s).2.1 + p.2.1) - ((account s).2.2 + p.2.2) := fun o => by
    have hup' : isSet { s with fl := { s.fl with partnerAcct := some p, exchanged := true, ownAcct := o } } F.NAL_UP = true :=
      (isSet_of_regs rfl).trans hup
    unfold freeCap
    dsimp only
    rw [if_pos rfl]
    dsimp only
    rw [if_pos hup', account_fl]
  unfold capShort
  rw [hfree]
  exact congrArg (fun n => decide (n < getF s F.RACK_CAP_RES * 2 ^ 30)) (hfree s.fl.ownAcct).symm

theorem mbxSetResults_fl {α : Type} {l : List α} {g : α → Nat} {r : MbxResult} {s : State} :
    (l.foldl (fun s e => mbxSetResult (g e) r s) s).fl = s.fl := foldl_same (g := State.fl) (fun _ _ => by rfl)

theorem dieRetireDone_moves {s : State} : (dieRetireDone s).fl.moves = s.fl.moves := by
  unfold dieRetireDone
  rw [mbxSetResults_fl]

theorem moveRelease_moves {m : Move} {s : State} : (moveRelease m s).fl.moves = s.fl.moves.filter (fun x => x.id ≠ m.id) := by
  unfold moveRelease
  dsimp only
  split
  · rfl
  · split
    · rfl
    · split
      · rw [nalSend_keeps.fl_eq rfl, releaseBlk_keeps.fl_eq rfl]
      · rw [releaseBlk_keeps.fl_eq rfl]

/-- A kind that racking may start. -/
theorem rackStart_starts {g k c band : Nat} {s : State} (hk : k ≠ 1) (hmode : rackMode s k = true) (hen : rackEnabled s k = true)
    (hgroup : holdsGroup s g = true) (hwants : rackWants s k c = true) :
    ¬(k = 1 ∧ isSet s F.RACK_FLASH_RO = true) ∧ ¬((!rackMode s k || !rackEnabled s k || !holdsGroup s g || !rackWants s k c) = true) := by
  refine ⟨fun h => hk h.1, ?_⟩
  rw [hmode, hen, hgroup, hwants]
  decide

/-- Settles O50: each move's guard selects its branch, and what follows the release keeps the moves. -/
theorem rackingMoves : Obligations.RackingMoves := by
  unfold Obligations.RackingMoves
  refine ⟨fun s => ⟨_, rfl, rfl, rfl, rfl⟩, fun g c band r s hmode hen hgroup hwants hr => ?warm,
    fun g c band b s hmode hen hgroup hwants hb => ?collect, fun id bad m s hm hstep => ?sourceRead,
    fun id m s hm hgroup hstep => ⟨?verified, fun hrun => ?failed⟩, fun id m s hm hstep hcmds => ?release,
    fun s hup hctl => if_pos ⟨hup, hctl⟩, fun cap st u s hup => ?account⟩
  case warm =>
    obtain ⟨hno, hgo⟩ := rackStart_starts (band := band.toNat) (by decide) hmode hen hgroup hwants
    refine congrArg Host.Outcome.next ?_
    show rackStart g.val 3 c.val band.toNat s = _
    unfold rackStart
    rw [if_neg hno, if_neg hgo]
    dsimp only
    rw [hr]
    rfl
  case collect =>
    obtain ⟨hno, hgo⟩ := rackStart_starts (band := band.toNat) (by decide) hmode hen hgroup hwants
    refine congrArg Host.Outcome.next ?_
    show rackStart g.val 0 c.val band.toNat s = _
    unfold rackStart
    rw [if_neg hno, if_neg hgo]
    dsimp only
    rw [hb]
    rfl
  case sourceRead =>
    show execRackSourceReadDone id bad s = _
    unfold execRackSourceReadDone
    rw [hm]
    exact if_pos hstep
  case verified =>
    show execRackTargetVerified id true s = _
    unfold execRackTargetVerified
    rw [hm]
    dsimp only
    rw [hgroup, hstep]
    rfl
  case failed =>
    show execRackTargetVerified id false s = _
    unfold execRackTargetVerified
    rw [hm]
    dsimp only
    rw [hgroup, hstep, hrun]
    rfl
  case release =>
    have hid : m.id = id := by simpa using List.find?_some hm
    refine ⟨dieRetireDone (if m.kind ≤ 3 ∧ rackStops (moveRelease m s) m.kind = true then setKind m.kind false (moveRelease m s)
      else moveRelease m s), ?_, ?_⟩
    · show execRackSourceRelease id s = _
      unfold execRackSourceRelease
      rw [hm]
      exact if_neg (by rw [hstep, hcmds]; simp)
    · rw [dieRetireDone_moves, ← hid]
      split <;> exact moveRelease_moves
  case account =>
    refine ⟨_, if_pos hup, ?_⟩
    dsimp only
    rw [capShort_ownAcct hup]
    cases capShort { s with fl := { s.fl with partnerAcct := some (cap, st, u), exchanged := true } } with
    | true => exact ⟨rfl, rfl, fun _ => rfl, nofun⟩
    | false => exact ⟨rfl, rfl, nofun, fun _ => rfl⟩

end Sys2Proof.Machine
end

section
/-! PROOFS. Faults below the third class keep the mode and the units. -/

set_option Elab.async false

namespace Sys2Proof.Machine

/-! ### Faults below the third class -/

/-- A corrected or a serious fault leaves the mode as it is: only a fault of class 3 takes the device to Safe. -/
theorem raise_mild_keeps {b code cls inst aux : Nat} {s : State} (h : cls ≠ 3) :
    Keeps [.regs, .flt, .pcie, .outbox, .nvFaultLog, .nvLogNext] s (raise b code cls inst aux s) := by
  unfold raise raiseLive
  refine .ite (fun _ => .rfl) (fun _ => ?_)
  dsimp only
  rw [if_neg h]
  exact .either (countRepeat_keeps.after raiseCore_keeps.only) raiseCore_keeps.only

end Sys2Proof.Machine
end

section
/-! PROOFS. O25: the actuator loop, the carrier and the encoder. -/

set_option Elab.async false

namespace Sys2Proof.Machine

/-- Settles O25: each guard selects its branch; a corrected fault keeps the motion record. -/
theorem actuatorLoopAndCarrier : Obligations.ActuatorLoopAndCarrier := by
  unfold Obligations.ActuatorLoopAndCarrier
  refine ⟨fun a w omega alpha ff s hcomp => ?sample, fun l i s hmot hl => ?lateSpeed, fun l i s hmot hl => ?lateAct,
    fun l i s hmot h4 h8 => ?lateMicro,
    fun p l s hgo => ⟨congrArg Host.Outcome.next (busAct_acc_of_writeGoes hgo), fun hpend => if_pos hpend⟩,
    fun p s hgo => congrArg Host.Outcome.next (busAct_acc_of_writeGoes hgo), fun a s hload hown hany hall => ?lost,
    fun x s hmot => if_neg (by simp [hmot]), fun s hmot henc hlost => ?readmit⟩
  case sample =>
    show execVcmLoopSample a w omega alpha ff s = _
    unfold execVcmLoopSample
    rw [if_neg (by simp [hcomp])]
    dsimp only
    cases (vcmSample a.val w.toNat omega alpha ff (forN 4 (fun b s => if fittedAct s b then vcmShock alpha b s else s) s)).pair.blends.getD
      a.val none <;> rfl
  case lateSpeed =>
    have hmot1 : (raise 8 0x033B 1 l.val 0 (setF F.CLE_OVR 1 (count R.CLE_OVERRUN_LO 1 s))).mot = s.mot := by
      rw [(raise_mild_keeps (by decide)).mot_eq rfl, setF_mot, count_keeps.mot_eq rfl]
    show ∃ t, execCleOutputLate l i s = _ ∧ _
    unfold execCleOutputLate
    rw [if_neg (by simp [hmot])]
    dsimp only
    rw [if_neg (by omega), if_neg (by omega)]
    exact ⟨_, rfl, rfl, congrArg (fun m : MotSt => m.spn.loop.prev) hmot1⟩
  case lateAct =>
    show execCleOutputLate l i s = _
    unfold execCleOutputLate
    rw [if_neg (by simp [hmot])]
    exact if_pos hl
  case lateMicro =>
    show execCleOutputLate l i s = _
    unfold execCleOutputLate
    rw [if_neg (by simp [hmot])]
    dsimp only
    rw [if_neg (by omega), if_pos h8]
  case lost =>
    have hsome : ((surfaces s a.val).filter (tracking s a.val)).isEmpty = false := by
      obtain ⟨i, hi, htrack⟩ := List.any_eq_true.mp hany
      exact List.isEmpty_eq_false_iff.mpr (List.ne_nil_of_mem (List.mem_filter.mpr ⟨hi, htrack⟩))
    have hlost : ((surfaces s a.val).filter (tracking s a.val)).all (fun i => isSet s (F.FS_SRV_LOST a.val i)) = true := by
      refine List.all_eq_true.mpr fun i hi => ?_
      obtain ⟨hmem, htrack⟩ := List.mem_filter.mp hi
      simpa [htrack] using List.all_eq_true.mp hall i hmem
    show execAllHeadsLostTimeout a s = _
    exact if_pos (by simp only [hload, hown, hsome, hlost, Bool.not_false, Bool.and_self])
  case readmit =>
    refine ⟨_, if_pos (by simp [hmot, henc, hlost]), ?_⟩
    split <;> exact ⟨rfl, rfl, rfl, rfl⟩

end Sys2Proof.Machine
end

section
/-! PROOFS. O35: sectors, thermal asperities and the decoder pool. -/

set_option Elab.async false

namespace Sys2Proof.Machine

/-! ### Sectors and decoders -/

theorem execSectorEnd_room {h : Fin 144} {f0 : List Int} {parts : List SectorPart} {x : SectorRd} {s : State}
    (hcur : (headOf s h.val).cur = some x) (hroom : s.pool.queue.length ≤ 88) :
    execSectorEnd h f0 parts s = .next (
      let r := sectorBody h.val 0 f0 parts s
      let s1 := sectorDone h.val r.2
      let cws := (List.range 8).map (fun k => (⟨h.val, x.sid, k, false, deinterleave k r.1, false⟩ : Cw))
      poolShow (updHead h.val (fun y => { y with pool := y.pool ++ [x] })
        { s1 with pool := { s1.pool with queue := s1.pool.queue ++ cws } })) := by
  unfold execSectorEnd
  rw [hcur]
  exact if_neg (by omega)

theorem execSectorEnd_full {h : Fin 144} {f0 : List Int} {parts : List SectorPart} {x : SectorRd} {s : State}
    (hcur : (headOf s h.val).cur = some x) (hfull : 88 < s.pool.queue.length) :
    execSectorEnd h f0 parts s = .next (raise 4 0x0311 2 h.val 0 (headStat h.val 6 (setF (F.HC_FLT_POOL_FULL h.val) 1
      (sectorAgain h.val x (sectorDone h.val (sectorBody h.val 0 f0 parts s).2))))) := by
  unfold execSectorEnd
  rw [hcur]
  exact if_pos (by omega)

theorem headStat_head {h : Nat} {s : State} (hu : Units s) (hh : h < 144) :
    headOf (headStat h 3 s) h = { headOf s h with stats := modAt (headOf s h).stats 3 (fun n => min (2 ^ 48 - 1) (n + 1)) } :=
  headOf_updHead_same hu hh

/-- Settles O35: each event takes its guard's branch, and what follows a change of the pool keeps it. -/
theorem sectorsAndDecoders : Obligations.SectorsAndDecoders := by
  unfold Obligations.SectorsAndDecoders
  refine ⟨fun h k g b s hband harmed hop hreads hleft hcur hpool hladder hcomplete => ?framed,
    fun h place mean run s hwf hu hdom hen hta hthresh hmin => ?start, fun h place mean run s hu hta hthresh hrun => ?finish,
    fun h f0 parts x s hcur hroom => ?sectorEnd, fun h f0 parts x s hcur hfull => ?sectorFull, fun d c r s hqueue hfree => ?take,
    fun d j s hjob hretry hbusy => ?decodeAgain, fun d j s hjob hretry hbusy => ?decodeFirst, fun d c s hredo hfree hlevel => ?redecode⟩
  case framed =>
    show execSectorFramed h k g s = _
    unfold execSectorFramed
    dsimp only
    rw [hband]
    dsimp only
    rw [if_neg (by simp [harmed, hop, hreads, hcur, hpool, hladder, hcomplete] at hleft ⊢; exact hleft), if_neg (by simp [hop])]
    rw [hop]
    exact (apply_ite Host.Outcome.next _ _ _).symm
  case start =>
    have hu1 : Units (updHead h.val (fun x => { x with ta := true, asp := x.asp ++ [(place, none)] }) s) := updHead_keeps.units hu
    have hu2 : Units (satF (F.HC_TA_CNT h.val) 1 (setF (F.HC_FLT_TA h.val) 1
        (updHead h.val (fun x => { x with ta := true, asp := x.asp ++ [(place, none)] }) s))) := satF_keeps.units (setF_keeps.units hu1)
    have hhead := headOf_updHead_same (f := fun x => { x with ta := true, asp := x.asp ++ [(place, none)] }) hu h.isLt
    refine ⟨_, if_neg (by simp [hdom, hen, hta, hthresh, hmin]), ?_, ?_, ?_⟩
    · rw [headStat_head hu2 h.isLt]
      exact congrArg HeadSt.ta hhead
    · rw [headStat_head hu2 h.isLt]
      exact congrArg HeadSt.asp hhead
    · have hset := isSet_setF_one (f := F.HC_FLT_TA h.val)
        (s := updHead h.val (fun x => { x with ta := true, asp := x.asp ++ [(place, none)] }) s) hwf rfl Nat.one_pos
      refine (isSet_of_regs (headStat_keeps.regs_eq rfl)).trans (Eq.trans ?_ hset)
      exact congrArg (fun n => decide (n = 1)) (getF_setF_apart (regsWf_setF hwf) rfl (by simp [Fld.apart]))
  case finish =>
    have hhead := headOf_updHead_same (f := fun x => { x with ta := false, asp := x.asp.map (fun e => (e.1, e.2.or (some place))) }) hu h.isLt
    exact ⟨_, if_neg (by simp [hta, hthresh, hrun]), congrArg HeadSt.ta hhead, congrArg HeadSt.asp hhead, rfl⟩
  case sectorEnd =>
    have hpool : (sectorDone h.val (sectorBody h.val 0 f0 parts s).2).pool = s.pool :=
      (sectorDone_keeps.pool_eq rfl).trans (sectorBody_keeps.pool_eq rfl)
    refine ⟨_, execSectorEnd_room hcur hroom, ?_⟩
    dsimp only
    rw [poolShow_keeps.pool_eq rfl, updHead_pool]
    dsimp only
    rw [hpool]
    exact ⟨rfl, rfl, rfl⟩
  case sectorFull =>
    refine ⟨_, execSectorEnd_full hcur hfull, ?_⟩
    rw [(raise_mild_keeps (by decide)).pool_eq rfl, headStat_keeps.pool_eq rfl, setF_pool, sectorAgain_keeps.pool_eq rfl,
      sectorDone_keeps.pool_eq rfl, sectorBody_keeps.pool_eq rfl]
  case take =>
    show ∃ t, execDecoderTake d s = _ ∧ _
    unfold execDecoderTake
    rw [hqueue]
    dsimp only
    rw [hfree]
    exact ⟨_, rfl, congrArg PoolSt.queue (poolShow_keeps.pool_eq rfl), _, congrArg PoolSt.active (poolShow_keeps.pool_eq rfl), rfl, rfl⟩
  case decodeAgain =>
    show execCodewordDecodeDone d s = _
    unfold execCodewordDecodeDone
    rw [hjob]
    dsimp only
    cases decode j.cw.sid j.cw.k j.limit j.cw.llr with
    | some b => rfl
    | none =>
      rw [hretry, hbusy]
      rfl
  case decodeFirst =>
    show execCodewordDecodeDone d s = _
    unfold execCodewordDecodeDone
    rw [hjob]
    dsimp only
    cases decode j.cw.sid j.cw.k j.limit j.cw.llr with
    | some b => rfl
    | none =>
      rw [hretry, hbusy]
      rfl
  case redecode =>
    show ∃ t, execRetryStoreRedecode d s = _ ∧ _
    unfold execRetryStoreRedecode
    rw [hredo]
    dsimp only
    rw [if_neg (by simp [hfree, hlevel])]
    refine ⟨_, rfl, ?_⟩
    rw [poolShow_keeps.pool_eq rfl]
    exact ⟨rfl, rfl, rfl⟩

end Sys2Proof.Machine
end

section
/-! PROOFS. O20: VMOT events and power domains. -/

set_option Elab.async false

namespace Sys2Proof.Machine

/-- Settles O20: each guard selects its branch; the voltage shown and the flags stay through what follows. -/
theorem vmotAndPowerDomains : Obligations.VmotAndPowerDomains := by
  unfold Obligations.VmotAndPowerDomains
  refine ⟨fun p d w s hgo => ⟨congrArg Host.Outcome.next (busAct_of_writeGoes hgo), fun hd => if_pos hd⟩,
    fun d s hstate hnone => if_pos ⟨hstate, hnone⟩, fun d s hwf hstate => ?drainLimit, fun d offline s => rfl,
    fun mv s hlive hhold => if_neg (by simp [hlive, hhold]), fun mv s hlive => if_neg (by simp [hlive]),
    fun mv s hlive hmot => ?overvoltage, fun s hlive hwait hmv => if_pos (by simp [hlive, hwait, hmv]),
    fun mv s hwf hlive => ?backInRange⟩
  case drainLimit =>
    have hwf1 : RegsWf (domainOff d.val (haltTransfers d.val s)) := domainOff_keeps.regsWf (haltTransfers_keeps.regsWf hwf)
    refine ⟨_, if_pos hstate, rfl, fun htarget => ?_⟩
    have hstay : ∀ u : State, u.pwr.target ≠ some 1 → dormantGo u = u := fun _ h => if_pos (Or.inl h)
    rw [hstay _ htarget]
    exact getF_setF_same hwf1 rfl
  case overvoltage =>
    have hpwr : (stopAll (spnCoast (updPwr (fun p => { p with startPermitted := false }) (setF F.PWR_VMOT_OV 1
        (vmotShow mv.toNat s))))).pwr = (updPwr (fun p => { p with startPermitted := false }) s).pwr := by
      rw [stopAll_keeps.pwr_eq rfl, spnCoast_keeps.pwr_eq rfl]
      rfl
    refine ⟨_, (if_neg (by simp [hlive])).trans (congrArg Host.Outcome.next (if_pos hmot)), ?_⟩
    generalize stopAll _ = u at hpwr ⊢
    show u.pwr.startPermitted = false ∧ (!u.pwr.vmotFallow) = !s.pwr.vmotFallow
    rw [hpwr]
    exact ⟨rfl, rfl⟩
  case backInRange =>
    have hwf1 : RegsWf (setF F.PWR_VMOT_MV mv.toNat s) := regsWf_setF hwf
    refine ⟨_, if_neg (by simp [hlive]), ?_, ?_, vmotShow_keeps.pwr_eq rfl⟩
    · exact (getF_setF_ne (by decide)).trans ((getF_setF_same hwf rfl).trans (Nat.mod_eq_of_lt mv.isLt))
    · refine (getF_setF_same hwf1 rfl).trans ?_
      cases decide (9000 ≤ mv.toNat ∧ mv.toNat ≤ 15500) <;> rfl

end Sys2Proof.Machine
end

section
/-! PROOFS. O26: loading, parking and retracting the heads. -/

set_option Elab.async false

namespace Sys2Proof.Machine

/-! ### Heads -/

theorem getF_begun {m : Nat} {f : Fld} {s : State} : getF (begun m s) f = getF s f := rfl

theorem unloadHeads_begun {a m : Nat} {s : State} : unloadHeads a (begun m s) = begun m (unloadHeads a s) := by
  unfold unloadHeads
  dsimp only
  rw [setF_begun, getF_begun, setF_begun]
  split <;> rfl

theorem vcmOf_updVcm_same {a : Fin 4} {f : VcmSt → VcmSt} {s : State} (hu : Units s) : vcmOf (updVcm a f s) a = f (vcmOf s a) := by
  obtain ⟨-, -, -, -, -, -, -, hvcm, -⟩ := hu
  exact getD_modAt_same (by rw [hvcm]; exact a.isLt)

theorem storeWords_begun {f : Nat → Word → State → State} {i m : Nat} {l : List Word} {s : State}
    (hf : ∀ j w s, f j w (begun m s) = begun m (f j w s)) : storeWords f i l (begun m s) = begun m (storeWords f i l s) := by
  induction l generalizing i s with
  | nil => rfl
  | cons w l ih =>
    unfold storeWords
    rw [hf, ih]

theorem coefStore_begun {l k w m : Nat} {v : Word} {s : State} : coefStore l k w v (begun m s) = begun m (coefStore l k w v s) := by
  unfold coefStore
  rw [setF_begun, wr_begun, ← apply_ite (begun m)]
  rfl

/-- The store of a table's entries, as MOT_TABLE_LOAD names it. -/
def tableStore (s : State) (t i j : Nat) : Word → State → State :=
  if t = 0 then entryStore (R.VCM_BIAS i j) else if t = 1 then entryStore (R.VCM_FRIC i j)
  else if t = 2 then entryStore (R.SPN_COG j) else coefStore i (1 - bankOf s i) j

theorem tableStore_keeps {s t : State} {k i j : Nat} {w : Word} : Keeps [.regs] t (tableStore s k i j w t) := by
  unfold tableStore
  split
  · exact entryStore_keeps
  · split
    · exact entryStore_keeps
    · split
      · exact entryStore_keeps
      · exact coefStore_keeps

theorem tableStore_begun {s t : State} {k i j m : Nat} {w : Word} : tableStore s k i j w (begun m t) = begun m (tableStore s k i j w t) := by
  unfold tableStore
  split
  · rfl
  · split
    · rfl
    · split
      · rfl
      · exact coefStore_begun

/-- Settles O26: each row and event takes the branch of its guard, and a table's words are stored in its entries. -/
theorem headLoadingParkingAndRetract : Obligations.HeadLoadingParkingAndRetract := by
  unfold Obligations.HeadLoadingParkingAndRetract
  refine ⟨fun m s hrun hload hfit hown hnot hspeed hrpm => ?load, fun m s hrun hunload hfit hown hstate => ?unload,
    fun a band s hstate hdom => if_pos ⟨hstate, hdom⟩, fun p a s hgo => congrArg Host.Outcome.next (busAct_acc_of_writeGoes hgo),
    fun a s hu hstate => ⟨updVcm a.val (fun x => { x with latch := true }) s, if_pos hstate, congrArg VcmSt.latch (vcmOf_updVcm_same hu), rfl⟩,
    fun m s hu hrun => ⟨_, congrArg Host.Outcome.next (mbxRow_of_answer (t := begun m s) hrun rfl rfl), mbxReturns_mbxEnds (begun_units hu), rfl⟩,
    fun m t i n s hu hrun ht hi hn htable hlen hext => ?tableLoad, fun a s hstate => if_pos hstate,
    fun a s hstate hlatch => if_pos ⟨hstate, hlatch⟩, fun a s hstate hlatch => if_pos ⟨hstate, hlatch⟩⟩
  case load =>
    have hfit' : fittedAct (begun m s) (par (mbxAt s m).cmd 0 2) = true := hfit
    have hown' : owns (begun m s) (par (mbxAt s m).cmd 0 2) = true := hown
    have hnot' : headsLoaded (begun m s) (par (mbxAt s m).cmd 0 2) = false := hnot
    have hgo : ¬(isSet (begun m s) F.SPN_AT_SPEED = false ∨ getF (begun m s) F.SPN_RPM < 1800) := by
      rintro (h | h)
      · rw [show isSet (begun m s) F.SPN_AT_SPEED = true from hspeed] at h
        exact absurd h (by decide)
      · exact absurd h (Nat.not_lt.mpr hrpm)
    refine congrArg Host.Outcome.next (mbxRow_of_wait hrun (decide_eq_true hload) ?_)
    dsimp only
    rw [hfit', hown', hnot']
    exact if_neg hgo
  case unload =>
    have hfit' : fittedAct (begun m s) (par (mbxAt s m).cmd 0 2) = true := hfit
    have hown' : owns (begun m s) (par (mbxAt s m).cmd 0 2) = true := hown
    refine congrArg Host.Outcome.next (mbxRow_of_wait hrun (decide_eq_true hunload) ?_)
    dsimp only
    rw [hfit', hown']
    exact if_pos (Or.inl (by rw [unloadHeads_begun, getF_begun]; exact hstate))
  case tableLoad =>
    have hmin : min n ((mbxAt s m).cmd.ext.length / 4) = n := by omega
    have hrefuse : ¬(3 < t ∨ (t < 2 ∧ 3 < i) ∨ (t = 3 ∧ 8 < i)) := by omega
    refine ⟨_, congrArg Host.Outcome.next (mbxRow_of_answer (r := resStatus 0)
      (t := storeWords (fun j => tableStore s t i j) 0 (leWords n (mbxAt s m).cmd.ext) (begun m s)) hrun rfl ?_),
      mbxAnswered_mbxEnds ((storeWords_keeps (wp := [.regs]) (fun _ _ _ => tableStore_keeps) rfl).units (begun_units hu)), ?_⟩
    · dsimp only
      rw [← ht, ← hi, ← hn, if_neg hrefuse, if_neg (by simpa using hlen), hmin]
      unfold tableStore
      by_cases h0 : t = 0
      · simp only [h0, if_true]
        rfl
      · by_cases h1 : t = 1
        · simp only [h1, Nat.one_ne_zero, if_true, if_false]
          rfl
        · by_cases h2 : t = 2
          · simp only [h2, if_true]
            rfl
          · simp only [h0, h1, h2, if_false]
            have hpar : par (mbxAt s m).cmd 8 1 = 0 := by omega
            rw [hpar]
            rfl
    · rw [mbxEnds_keeps.regs_eq rfl, storeWords_begun fun _ _ _ => tableStore_begun]
      rfl

end Sys2Proof.Machine
end

section
/-! PROOFS. O31: the steps of a takeover. -/

set_option Elab.async false

namespace Sys2Proof.Machine

/-- Metadata adopted leave the pair's record. -/
theorem channelsAcquired_pair {new : Nat → Bool} {left : FlashMeta} {busy : List Nat} {erasing : List (Nat × Nat × Nat)} {s : State} :
    (forN 32 (fun c s => if new c && busy.contains c then setF (F.FC_ERR_INTERRUPTED c) 1 s else s)
      (closeOpen new erasing (adoptMeta left s))).pair = s.pair := by
  rw [(Keeps.forN (w := [.regs]) (fun _ _ => .either setF_keeps .rfl) (Keeps.refl _ _)).pair_eq rfl, closeOpen_keeps.pair_eq rfl,
    adoptMeta_keeps.pair_eq rfl]

/-- Settles O31: the step of the takeover that stands selects the branch of each event. -/
theorem takeoverEvents : Obligations.TakeoverEvents := by
  unfold Obligations.TakeoverEvents
  refine ⟨fun s hup hctl htx hwedged hvia => ?pinged, fun s hup hctl htx hwedged hvia => ?pingedFirst,
    fun s hup htake => if_pos (by simp [hup, htake]), fun s htake => ?pingTimeout, fun s htake => ?holdoff, fun s htake hsolo => ?arbitration,
    fun left busy erasing s htake hstep => ?acquired, fun a s hwf hcatch hstate => ?caught, fun a s hcatch => if_pos hcatch,
    fun left s htake hstep hvat => if_pos ⟨htake, hstep, hvat⟩⟩
  case pinged =>
    show execNalPingReceived s = _
    unfold execNalPingReceived
    rw [if_neg (by simp [hup, hctl, htx, hwedged]), hvia]
    rfl
  case pingedFirst =>
    show execNalPingReceived s = _
    unfold execNalPingReceived
    rw [if_neg (by simp [hup, hctl, htx, hwedged]), hvia]
    rfl
  case pingTimeout =>
    show execTakeoverPingTimeout s = _
    unfold execTakeoverPingTimeout
    rw [if_neg (by simp [htake])]
    exact (apply_ite Host.Outcome.next _ _ _).symm
  case holdoff =>
    show execTakeoverFenceHoldoffExpiry s = _
    unfold execTakeoverFenceHoldoffExpiry
    rw [if_neg (by simp [htake])]
    exact (apply_ite Host.Outcome.next _ _ _).symm
  case arbitration =>
    have hgo : ¬(s.pair.takeSolo = true ∧ isSet s F.SUP_STRAP_CLASH = true) := by
      obtain h | h := hsolo <;> simp [h]
    show execTakeoverArbitrationEnd s = _
    unfold execTakeoverArbitrationEnd
    rw [if_neg (by simp [htake]), if_neg hgo]
    exact (apply_ite Host.Outcome.next _ _ _).symm
  case acquired =>
    refine ⟨_, if_pos ⟨htake, by rw [hstep]; decide⟩, ?_, ?_⟩
    · exact congrArg (fun p : PairSt => p.takeStepsDone ++ [9]) channelsAcquired_pair
    · exact (congrArg PairSt.take channelsAcquired_pair).trans htake
  case caught => exact ⟨_, if_pos ⟨hcatch, hstate⟩, getF_setF_same hwf rfl, rfl⟩

end Sys2Proof.Machine
end

section
/-! PROOFS. O39: control of the format sequencers. -/

set_option Elab.async false

namespace Sys2Proof.Machine

/-! ### Control of the sequencers -/

/-- A permitted read of a register with an effect runs it and answers its word. -/
theorem busGet_of_readGoes {p : Path} {a : Nat} {f : State → State × Word} {s : State} (h : readGoes p a s) :
    busGet p a f s = busAnswer p a 0 (f s).2.toNat (f s).1 := by
  unfold busGet
  rw [busCheck_eq_of_go h]

theorem zoneCheck_begun {m a : Nat} {l : List Byte} {s : State} : zoneCheck (begun m s) a l = zoneCheck s a l := rfl

/-- What FS_ZONE_LOAD leaves where no band is under way. -/
def zoneLoaded (m a : Nat) (l : List Byte) (s : State) : State :=
  s |> setF (F.FS_BQ_HOLD a) 1 |> updFs a (fun x => { x with zoneLoad := some (m, l) }) |> updFs a (fun x => { x with zoneLoad := none })
    |> memWrite (space 6 (a * 0x8000)) l |> setF (F.FS_ZT_VALID a) 0 |> zoneCommit a |> setF (F.FS_BQ_HOLD a) 0

theorem zoneLoaded_units {m a : Nat} {l : List Byte} {s : State} (hu : Units s) : Units (zoneLoaded m a l s) :=
  setF_keeps.units (zoneCommit_keeps.units (setF_keeps.units (memWrite_keeps.units (updFs_keeps.units (updFs_keeps.units (setF_keeps.units hu))))))

/-- Settles O39: each event's guard selects its branch, and each row answers as its parameters ask. -/
theorem sequencerControlAndCommands : Obligations.SequencerControlAndCommands := by
  unfold Obligations.SequencerControlAndCommands
  refine ⟨fun a s hdom hstate hstuck => if_pos (by simp [hdom, hstate, hstuck]),
    fun a rev wedge sector slots upset w s s1 hruns hs1 hword hacted hmet => ?complete,
    fun a rev upset w s hruns hword hacted h3 h8 htmo => ?timeout,
    fun p a s hgo => congrArg Host.Outcome.next (busAct_acc_of_writeGoes hgo),
    fun p a s hgo => congrArg Host.Outcome.next (busAct_acc_of_writeGoes hgo), fun a freeze s hwf hgo => ?freeze,
    fun p a s hgo => congrArg Host.Outcome.next (busGet_of_readGoes hgo), fun m s hu hrun hown hband => ?zoneLoad,
    fun m s hu hrun h0 h62 => ?trace, fun m s hu hrun hlt => ?stats⟩
  case complete =>
    subst hs1
    show execFsWordComplete a rev wedge sector slots upset s = _
    unfold execFsWordComplete
    rw [if_neg (by simp [hruns])]
    dsimp only
    rw [hword]
    exact if_pos (by rw [hacted, hmet]; rfl)
  case timeout =>
    show execFsWordTimeout a rev upset s = _
    unfold execFsWordTimeout
    rw [hword]
    exact if_pos (by simp [hruns, hacted, h3, h8, htmo])
  case freeze =>
    have hwf1 : RegsWf (setB (F.FS_TRC_FREEZE a) freeze s) := regsWf_setF hwf
    have hb : b2n freeze % 2 ^ 1 = b2n freeze := by cases freeze <;> rfl
    refine ⟨_, congrArg Host.Outcome.next (busAct_acc_of_writeGoes hgo), ?_, ?_⟩
    · rw [getF_of_regs (busAnswer_keeps.regs_eq rfl)]
      exact (getF_setF_same hwf1 rfl).trans hb
    · rw [getF_of_regs (busAnswer_keeps.regs_eq rfl)]
      exact (getF_setF_apart hwf1 rfl (by simp [Fld.apart])).trans ((getF_setF_same hwf rfl).trans hb)
  case zoneLoad =>
    have hown' : owns (begun m s) (par (mbxAt s m).cmd 0 2) = true := hown
    have hband' : (bandOf (begun m s) (par (mbxAt s m).cmd 0 2)).isSome = false := hband
    by_cases hok : zoneCheck s (par (mbxAt s m).cmd 0 2) (padTo 32512 (mbxAt s m).cmd.ext) = 0
    · refine ⟨_, congrArg Host.Outcome.next (mbxRow_of_answer (r := resStatus 0)
        (t := zoneLoaded m (par (mbxAt s m).cmd 0 2) (padTo 32512 (mbxAt s m).cmd.ext) (begun m s)) hrun rfl ?_), ?_⟩
      · dsimp only
        rw [hown', zoneCheck_begun, hok]
        rw [if_neg (by decide), if_neg (by decide), hband', if_neg (by decide)]
        rfl
      · rw [hok]
        exact mbxAnswered_mbxEnds (zoneLoaded_units (begun_units hu))
    · refine ⟨_, congrArg Host.Outcome.next (mbxRow_of_answer (t := begun m s) (r := resStatus _) hrun rfl ?_),
        mbxAnswered_mbxEnds (r := resStatus _) (begun_units hu)⟩
      dsimp only
      rw [hown', zoneCheck_begun, if_neg (by decide), if_pos hok]
      rfl
  case trace =>
    refine ⟨_, congrArg Host.Outcome.next (mbxRow_of_answer (t := (traceBytes (par (mbxAt s m).cmd 0 2) (par (mbxAt s m).cmd 26 6)
      (par (mbxAt s m).cmd 16 10) (begun m s)).2) hrun rfl (if_neg (by omega))), mbxReturns_mbxEnds (traceBytes_keeps.units (begun_units hu))⟩
  case stats =>
    exact ⟨_, congrArg Host.Outcome.next (mbxRow_of_answer (t := begun m s) hrun rfl (if_neg (Nat.not_le.mpr hlt))),
      mbxReturns_mbxEnds (begun_units hu)⟩

end Sys2Proof.Machine
end

section
/-! PROOFS. O57: admission, running and completion of commands. -/

set_option Elab.async false

namespace Sys2Proof.Machine

/-! ### Headgate and Sluice -/

/-- A single command that the checks let through, and that needs no pool, is admitted. -/
theorem headgateStep_admits {c : Cmd} {s : State} (hnext : nextAdmit s = some [c]) (hcheck : headgateCheck s c = none)
    (hroom : sluiceUsed s ≤ 8191) (hwait : roWait s c = false) (hpool : poolShort s (poolNeed s c) = false) (hneed : poolNeed s c = 0) :
    headgateStep s = sluRefresh (admitOne c s) := by
  have hgo : passing s [c] = [c] := by simp [passing, hcheck]
  have hchain : admitChain [c] s = admitOne c s := by
    unfold admitChain
    rw [hcheck]
    rfl
  have hslots : ([c].filter (fun c => takesEntry c && !partnerHolds s c)).length ≤ 1 := List.length_filter_le _ _
  unfold headgateStep
  rw [hnext]
  dsimp only
  rw [hgo, if_neg (by omega), if_neg (by simp [hwait])]
  simp only [List.foldl_cons, List.foldl_nil, Nat.zero_add, hpool, hneed, if_true, Bool.false_eq_true, if_false]
  exact congrArg sluRefresh hchain

/-- Settles O57: the command's stage and its checks select the branch of each event. -/
theorem headgateAndSluice : Obligations.HeadgateAndSluice := by
  unfold Obligations.HeadgateAndSluice
  refine ⟨fun s hadm hdom hbackup => if_pos ⟨hadm, hdom, hbackup⟩,
    fun c s hnext hcheck hroom hwait hpool hneed => headgateStep_admits hnext hcheck hroom hwait hpool hneed,
    fun k c v s hc hstage hhost hv hana => ?anaChange, fun k x c s hc hstage hdom hchain hearlier => ?run,
    fun k x a c s hc hstage hdom hchain hearlier hop hfwd hstatus => ?runUe, fun k x c s hc hdom hready hchain hsrc => ?finish,
    fun k x c s hc hdom hstops hjobs => ?stopped, fun req st data r s hr hst => ⟨fun c hkind hc => ?hostReply, fun hkind => ?mbxReply⟩,
    fun m s hu hrun => ⟨_, congrArg Host.Outcome.next (mbxRow_of_answer (t := begun m s) hrun rfl rfl), rfl, mbxReturns_mbxEnds (begun_units hu)⟩,
    fun p s hgo => ?highWater⟩
  case anaChange =>
    show execAnaChangeTimeout k s = _
    unfold execAnaChangeTimeout
    rw [hc]
    exact if_pos ⟨hstage, hhost, by simp [hv, hana]⟩
  case run =>
    show execSluiceRun k x none s = _
    unfold execSluiceRun
    rw [hc]
    dsimp only
    rw [if_neg (by rw [hstage, hdom, hchain, hearlier]; decide)]
  case runUe =>
    show execSluiceRun k x (some a) s = _
    unfold execSluiceRun
    rw [hc]
    dsimp only
    rw [if_neg (by rw [hstage, hdom, hchain, hearlier]; decide), hop, hfwd, hstatus]
    rfl
  case finish =>
    show execCommandFinish k false x none s = _
    unfold execCommandFinish
    rw [hc]
    dsimp only
    rw [if_neg (by simp [hdom]), if_neg (by simp), if_neg (by simp [hready, hchain])]
    split
    · next m hm _ => exact absurd hm (hsrc m)
    · rfl
    · rfl
  case stopped =>
    show execCommandFinish k true x none s = _
    unfold execCommandFinish
    rw [hc]
    dsimp only
    rw [if_neg (by simp [hdom]), if_pos ⟨rfl, hstops⟩, hjobs]
    cases c.src <;> rfl
  case hostReply =>
    show execForwardReplyReceived req st data s = _
    unfold execForwardReplyReceived
    rw [hr]
    dsimp only
    rw [hkind]
    rw [hc]
    exact if_neg hst
  case mbxReply =>
    show execForwardReplyReceived req st data s = _
    unfold execForwardReplyReceived
    rw [hr]
    dsimp only
    cases hk : r.kind with
    | zero => omega
    | succ n => cases n with
      | zero => omega
      | succ n => exact if_neg hst
  case highWater =>
    refine congrArg Host.Outcome.next ((busAct_acc_of_writeGoes hgo).trans ?_)
    unfold hwmReset
    rw [getF_setF_ne (f := F.SLU_HWM_HEADGATE) (g := F.SLU_USED) (by decide)]

end Sys2Proof.Machine
end

section
/-! PROOFS. O17: the PCIe link, its resets and its interrupts. -/

set_option Elab.async false

namespace Sys2Proof.Machine

/-! ### What leaves the PCIe link's levels as they are and adds no grant -/

/-- From `s` to `t` the PCIe link and PERST# stay as they are and no grant is added. -/
structure LinkKept (s t : State) : Prop where
  link : t.pcie.linkUp = s.pcie.linkUp
  perst : t.pcie.perst = s.pcie.perst
  grants : ∀ g ∈ t.grants, g ∈ s.grants

namespace LinkKept

theorem rfl' {s : State} : LinkKept s s := ⟨rfl, rfl, fun _ h => h⟩

/-- An operation after others. -/
theorem after {s x y : State} (k : LinkKept x y) (h : LinkKept s x) : LinkKept s y :=
  ⟨k.link.trans h.link, k.perst.trans h.perst, fun g hg => h.grants g (k.grants g hg)⟩

/-- An operation whose frame names neither the PCIe link nor the grants, after others. -/
theorem past {w : List Part} {s x y : State} (k : Keeps w x y) (h : LinkKept s x)
    (hp : w.contains .pcie = false := by rfl) (hg : w.contains .grants = false := by rfl) : LinkKept s y :=
  after ⟨congrArg PcieSt.linkUp (k.pcie_eq hp), congrArg PcieSt.perst (k.pcie_eq hp),
    fun g h => (k.grants_eq hg) ▸ h⟩ h

theorem either {s a b : State} {p : Prop} [Decidable p] (ha : LinkKept s a) (hb : LinkKept s b) :
    LinkKept s (if p then a else b) := by
  split
  · exact ha
  · exact hb

theorem eitherOp {s x : State} {p : Prop} [Decidable p] {f g : State → State}
    (hf : ∀ y, LinkKept y (f y)) (hg : ∀ y, LinkKept y (g y)) (h : LinkKept s x) : LinkKept s ((if p then f else g) x) := by
  split
  · exact (hf x).after h
  · exact (hg x).after h

theorem foldl {α : Type} {s b : State} {f : State → α → State} {l : List α} (hf : ∀ x a, LinkKept x (f x a))
    (h : LinkKept s b) : LinkKept s (l.foldl f b) := by
  induction l generalizing b with
  | nil => exact h
  | cons a r ih => exact ih ((hf b a).after h)

theorem forN {s x : State} {n : Nat} {f : Nat → State → State} (hf : ∀ k y, LinkKept y (f k y)) (h : LinkKept s x) :
    LinkKept s (forN n f x) := by
  induction n with
  | zero => exact h
  | succ n ih => exact (hf n _).after ih

theorem upd_memc {s x : State} {v : MemSt} (h : LinkKept s x) : LinkKept s { x with memc := v } := ⟨h.link, h.perst, h.grants⟩

theorem upd_bad {s x : State} {v : List Nat} (h : LinkKept s x) : LinkKept s { x with bad := v } := ⟨h.link, h.perst, h.grants⟩

end LinkKept

theorem msix_linkKept {v : Nat} {s : State} : LinkKept s (msix v s) :=
  .either (.either ⟨rfl, rfl, fun _ h => h⟩ (.past send_keeps .rfl')) .rfl'

theorem dropGrants_linkKept {p : Grant → Bool} {s : State} : LinkKept s (dropGrants p s) :=
  ⟨rfl, rfl, fun _ h => (List.mem_filter.mp h).1⟩

theorem msixReset_linkKept {s : State} : LinkKept s (msixReset s) := ⟨rfl, rfl, fun _ h => h⟩

/-! Faults -/

theorem latchFault_linkKept {b code cls inst aux : Nat} {livef : Bool} {s : State} :
    LinkKept s (latchFault b code cls inst aux livef s) :=
  have latched : LinkKept s (cntAdd (FF_CNT b) 1 (if isSet s (FF_VALID b) then satF (FF_OVF b) 1 s
      else s |> setF (FF_VALID b) 1 |> setB (FF_LIVE b) livef |> setF (FF_CLASS b) cls |> setF (FF_OVF b) 0
        |> setF (FF_CODE b) code |> setF (FF_TIME_LO b) (s.now.toNat % 2 ^ 32)
        |> setF (FF_TIME_HI b) (s.now.toNat / 2 ^ 32) |> setF (FF_INST b) inst |> setF (FF_AUX b) aux)) :=
    .past cntAdd_keeps (.either (.past satF_keeps .rfl')
      (.past setF_keeps (.past setF_keeps (.past setF_keeps (.past setF_keeps (.past setF_keeps (.past setF_keeps
        (.past setF_keeps (.past setB_keeps (.past setF_keeps .rfl'))))))))))
  have pended := LinkKept.past (setF_keeps (f := FF_PEND b (cls - 1)) (v := 1)) latched
  have told := LinkKept.either (.past send_keeps pended) pended
  .either latched (.either (.after msix_linkKept told) told)

theorem raiseCore_linkKept {b code cls inst aux : Nat} {livef : Bool} {s : State} :
    LinkKept s (raiseCore b code cls inst aux livef s) :=
  have logged := LinkKept.past logEvent_keeps latchFault_linkKept
  .either .rfl' (.either (.past logEvent_keeps (.after latchFault_linkKept logged)) logged)

theorem count_linkKept {a n : Nat} {s : State} : LinkKept s (count a n s) :=
  have added := LinkKept.either .rfl' (.past cntAdd_keeps .rfl')
  .either (.after raiseCore_linkKept added) added

theorem countRepeat_linkKept {b code inst : Nat} {s : State} : LinkKept s (countRepeat b code inst s) := by
  unfold countRepeat
  split
  · exact .rfl'
  · exact .either (.after raiseCore_linkKept (.past escalate_keeps ⟨rfl, rfl, fun _ h => h⟩)) ⟨rfl, rfl, fun _ h => h⟩

theorem stopHead_linkKept {h : Nat} {s : State} : LinkKept s (stopHead h s) :=
  .either .rfl' (.after raiseCore_linkKept (.past setF_keeps (.past updBand_keeps ⟨rfl, rfl, fun _ h => h⟩)))

theorem safeOutputs_linkKept {fenceForm : Bool} {s : State} : LinkKept s (safeOutputs fenceForm s) :=
  have stopped := LinkKept.forN (fun _ _ => .foldl (fun _ _ => stopHead_linkKept) (.past gatesOffAct_keeps .rfl')) .rfl'
  have off := LinkKept.past vcmSafe_keeps (.forN (fun _ _ => .past coastFan_keeps .rfl') (.past coastSpindle_keeps
    (.past flashHiZ_keeps stopped)))
  ⟨off.link, off.perst, off.grants⟩

theorem forcedSafe_linkKept {cause code : Nat} {s : State} : LinkKept s (forcedSafe cause code s) :=
  have calmed := LinkKept.past logReaction_keeps (.after dropGrants_linkKept (.past setF_keeps (.past setF_keeps
    (.past setB_keeps (.past vatSeal_keeps (.after safeOutputs_linkKept (.past setF_keeps (.past safeRecord_keeps .rfl'))))))))
  .past finishControl_keeps ⟨calmed.link, calmed.perst, calmed.grants⟩

theorem raise_linkKept {b code cls inst aux : Nat} {s : State} : LinkKept s (raise b code cls inst aux s) :=
  .either .rfl' (.either (.after forcedSafe_linkKept raiseCore_linkKept)
    (.either (.after countRepeat_linkKept raiseCore_linkKept) raiseCore_linkKept))

/-! Memory and queues -/

theorem eccUe_linkKept {m a src : Nat} {s : State} : LinkKept s (eccUe m a src s) :=
  have seen := LinkKept.past setF_keeps (.after count_linkKept (.past markBad_keeps .rfl'))
  .either (.past satF_keeps seen) (.past wr_keeps (.past wr_keeps (.past wr_keeps seen)))

theorem rawEdge_linkKept {m a u : Nat} {s : State} : LinkKept s (rawEdge m a u s) :=
  .either (.either (.after eccUe_linkKept (.past takeFree_keeps .rfl')) (.past takeFree_keeps .rfl')) .rfl'

theorem eccStore_linkKept {m a n : Nat} {s : State} : LinkKept s (eccStore m a n s) :=
  .either (.upd_memc (.after rawEdge_linkKept (.after rawEdge_linkKept (.foldl (fun _ _ => eccUe_linkKept) (.upd_bad .rfl')))))
    (.foldl (fun _ _ => eccUe_linkKept) (.upd_bad .rfl'))

theorem spaceStore_linkKept {k a : Nat} {l : List Byte} {s : State} : LinkKept s (spaceStore k a l s) := by
  unfold spaceStore
  split
  · exact .after eccStore_linkKept (.past memWrite_keeps .rfl')
  · exact .past memWrite_keeps .rfl'

theorem natError_linkKept {q idx n st : Nat} {s : State} : LinkKept s (natError q idx n st s) :=
  .past setF_keeps (.past setF_keeps (.past updNat_keeps (.either spaceStore_linkKept .rfl')))

theorem putSqCons_linkKept {q : Nat} {s : State} : LinkKept s (putSqCons q s) :=
  .either spaceStore_linkKept .rfl'

theorem natFetchLoop_linkKept {q fuel : Nat} {s : State} : LinkKept s (natFetchLoop q fuel s) := by
  induction fuel generalizing s with
  | zero => exact .rfl'
  | succ fuel ih =>
    exact .either .rfl' (.either natError_linkKept (.either .rfl' (.either .rfl'
      (.after ih (.after putSqCons_linkKept (.past updNat_keeps .rfl'))))))

theorem pump_linkKept {s : State} : LinkKept s (pump s) :=
  .foldl (fun _ _ => .foldl (fun _ _ => .past nvFetch_keeps .rfl') .rfl') (.foldl (fun _ _ => natFetchLoop_linkKept) .rfl')

theorem cqIrq_linkKept {id q : Nat} {s : State} : LinkKept s (cqIrq id q s) := by
  unfold cqIrq
  split
  · exact .rfl'
  · exact .either .rfl' (.either (.after msix_linkKept (.past updCq_keeps .rfl')) (.past updCq_keeps .rfl'))

theorem cqeWrite_linkKept {id : Nat} {sq : NvSq} {x : NvCq} {cid st dw0 dw1 : Nat} {s : State} :
    LinkKept s (cqeWrite id sq x cid st dw0 dw1 s) :=
  .after cqIrq_linkKept (.past updCq_keeps (.either (.past memWrite_keeps .rfl') .rfl'))

theorem nvPost_linkKept {id q cid st dw0 dw1 : Nat} {s : State} : LinkKept s (nvPost id q cid st dw0 dw1 s) := by
  unfold nvPost
  split
  · exact .rfl'
  · split
    · exact .past send_keeps .rfl'
    · split
      · exact .rfl'
      · exact .either cqeWrite_linkKept (.either (.after raise_linkKept (.eitherOp (fun _ => msix_linkKept) (fun _ => .rfl')
          (.past updSq_keeps .rfl'))) (.past updSq_keeps .rfl'))

theorem nvFail_linkKept {id q cid st : Nat} {s : State} : LinkKept s (nvFail id q cid st s) :=
  .after nvPost_linkKept (.past updCtrl_keeps .rfl')

/-! Mailboxes and controllers -/

theorem mbxIdle_linkKept {m : Nat} {s : State} : LinkKept s (mbxIdle m s) :=
  .foldl (fun _ _ => .after nvFail_linkKept (.past updCtrl_keeps .rfl')) (.past setF_keeps (.past setF_keeps
    ⟨rfl, rfl, fun _ h => h⟩))

theorem fenceDrop_linkKept {m : Nat} {s : State} : LinkKept s (fenceDrop m s) :=
  .either (.after pump_linkKept (.past fenceHolds_keeps ⟨rfl, rfl, fun _ h => h⟩)) .rfl'

theorem mbxResetTo_linkKept {m : Nat} {s : State} : LinkKept s (mbxResetTo m s) :=
  .either .rfl' (.either (.past setF_keeps .rfl') (.either (.after mbxIdle_linkKept fenceDrop_linkKept) mbxIdle_linkKept))

theorem ctrlReset_linkKept {id : Nat} {s : State} : LinkKept s (ctrlReset id s) :=
  .past nvmRefresh_keeps (.past updCtrl_keeps (.foldl (fun _ _ => .either mbxResetTo_linkKept .rfl')
    (.past ctrlDrop_keeps .rfl')))

theorem pcieReset_linkKept {s : State} : LinkKept s (pcieReset s) :=
  .after pump_linkKept (.past queuesFree_keeps ctrlReset_linkKept)

/-- A function-level reset keeps the link and adds no grant. -/
theorem flr_linkKept {p : Grant → Bool} {s : State} :
    LinkKept s (s |> pcieReset |> msixReset |> forN 4 (fun i => mbxResetTo (5 + i)) |> dropGrants p) :=
  .after dropGrants_linkKept (.forN (fun _ _ => mbxResetTo_linkKept) (.after msixReset_linkKept pcieReset_linkKept))

/-! ### The messages that an unmask sends -/

theorem foldl_send_msix (l : List Nat) (s : State) :
    l.foldl (fun s v => send (.msix v) s) s = { s with outbox := s.outbox ++ l.map Msg.msix } := by
  induction l generalizing s with
  | nil => simp
  | cons v r ih => rw [List.foldl_cons, ih]; simp [send]

/-- What an unmask leaves pending is what Enable lets wait and a mask still holds. -/
theorem contains_stillPending (l masked : List Nat) (enable fnMask : Bool) (v : Nat) :
    (l.filter (fun v => enable && !(l.filter (fun v => enable && !fnMask && !masked.contains v)).contains v)).contains v
      = (l.contains v && enable && (fnMask || masked.contains v)) := by
  rw [Bool.eq_iff_iff]
  simp only [List.contains_iff_mem, List.mem_filter, Bool.and_eq_true, Bool.not_eq_true', Bool.or_eq_true, Bool.eq_false_iff,
    ne_eq]
  constructor
  · rintro ⟨hl, hon, hgone⟩
    refine ⟨⟨hl, hon⟩, ?_⟩
    by_cases hfn : fnMask = true
    · exact .inl hfn
    · by_cases hmask : v ∈ masked
      · exact .inr hmask
      · exact absurd ⟨hl, ⟨hon, hfn⟩, hmask⟩ hgone
  · rintro ⟨⟨hl, hon⟩, hmask⟩
    exact ⟨hl, hon, fun ⟨_, ⟨_, hfn⟩, hvec⟩ => hmask.elim hfn hvec⟩

/-- Settles O17: a reset of the host side keeps the PCIe link and adds no grant (`LinkKept`); the unmask sends what stays unmasked. -/
theorem hostLinkEvents : Obligations.HostLinkEvents := by
  unfold Obligations.HostLinkEvents
  refine ⟨fun s => ?perst, fun s => rfl, fun s hr => ?flr, fun s hr => ?ccEn, fun en fm ms s hr => ?unmask,
    fun s hstrap hperst hdom hlock hheld => ?linkUp, fun s => ⟨_, rfl, rfl⟩, fun q s hq hdom hen htx hlock hheld => ?fabUp,
    fun q s hq hdom => ?fabDown, fun kind s hlive => ?mi⟩
  case perst =>
    refine ⟨_, rfl, ?_⟩
    split
    · exact (LinkKept.after msixReset_linkKept pcieReset_linkKept).perst
    · rfl
  case flr =>
    refine ⟨_, if_neg (by simp [hr]), flr_linkKept.link, ?_⟩
    simp only [List.all_eq_true, List.contains_iff_mem]
    exact flr_linkKept.grants
  case ccEn => exact if_pos hr
  case unmask =>
    show ∃ t, execMsixUnmask en fm ms s = _ ∧ _
    unfold execMsixUnmask
    refine ⟨_, (if_neg (by simp [hr])).trans (congrArg _ (foldl_send_msix _ _)), rfl, rfl, rfl, rfl, fun v => ?_⟩
    exact contains_stillPending s.pcie.vecPend ms en fm v
  case linkUp =>
    simp only [exec, execPcieLinkChange]
    simp [hstrap, hperst, hdom, hlock, hheld]
  case fabUp =>
    simp only [exec, execFabLinkChange]
    simp [Nat.not_le.mpr hq, hdom, hen, htx, hlock, hheld]
  case fabDown =>
    simp only [exec, execFabLinkChange]
    simp [Nat.not_le.mpr hq, hdom]
  case mi =>
    simp only [exec, execNvmeMiRequest]
    by_cases hk : kind.val = 3
    · simp [hlive, hk]
    · simp [hlive, hk]

end Sys2Proof.Machine
end

section
/-! PROOFS. O54: the snapshot commands. -/

set_option Elab.async false

namespace Sys2Proof.Machine

/-- A volume whose snapshot record holds the number 0, which no SNAP_TAKE gives. -/
def volWithSnapZero : Volume := { aVol with snaps := [⟨0, 1, 0, 2 ^ 22, [], none⟩] }

/-- SNAP_DELETE of snapshot 0 of that volume, running in mailbox 5. -/
def deletingSnapZero : State := running 5 0x0707 3 [] (withVols [volWithSnapZero])

/-- A snapshot number 0 is a bad parameter to the commands that name a snapshot. -/
theorem snapNamed_zero {s : State} {n : Nat} {v : Volume} (h : volNamed s n = .ok v) : snapNamed s n 0 = .error 0x0016 := by
  unfold snapNamed
  rw [h]
  rfl

/-- Refutes O54: the statement lets SNAP_DELETE name snapshot 0 where a record holds that number, and the command answers
0x0016 to the number 0. -/
theorem not_snapshotsAndPeers : ¬ Obligations.SnapshotsAndPeers := by
  unfold Obligations.SnapshotsAndPeers
  rintro ⟨-, hdelete, -⟩
  have hu : Units deletingSnapZero := by unfold Units MotSt.units; decide +kernel
  have hrun : volRuns deletingSnapZero (5 : Fin 16) 0x0707 := by unfold volRuns mbxRuns; decide +kernel
  have hv : volOf deletingSnapZero (par (mbxAt deletingSnapZero (5 : Fin 16)).cmd 0 15) = some volWithSnapZero := by decide +kernel
  have h0 : par (mbxAt deletingSnapZero (5 : Fin 16)).cmd 0 15 ≠ 0 := by decide +kernel
  have hzero : par (mbxAt deletingSnapZero (5 : Fin 16)).cmd 16 12 = 0 := by decide +kernel
  obtain ⟨t, ht, hanswer, -⟩ := hdelete 5 volWithSnapZero ⟨0, 1, 0, 2 ^ 22, [], none⟩ deletingSnapZero hu hrun hv
    (by rw [hzero]; rfl) (by decide +kernel)
  have hexec : exec (.snapDelete 5) deletingSnapZero = .next (mbxEnds (5 : Fin 16) (resStatus 0x0016) (begun (5 : Fin 16) deletingSnapZero)) := by
    refine congrArg Host.Outcome.next (volRow_of_answer (r := resStatus 0x0016) hrun rfl ?_)
    rw [hzero, snapNamed_zero (volNamed_of_volOf (s := begun (5 : Fin 16) deletingSnapZero) h0 hv)]
    rfl
  obtain rfl := Host.Outcome.next.inj (ht.symm.trans hexec)
  have hrefused := mbxAnswered_mbxEnds (m := 5) (r := resStatus 0x0016) (begun_units (m := (5 : Fin 16)) hu)
  exact absurd (Option.some.inj (hanswer.symm.trans hrefused)) (by decide)

end Sys2Proof.Machine
end

section
/-! PROOFS. O44: the commands of family 0x00. -/

set_option Elab.async false

namespace Sys2Proof.Machine

/-! ### The commands of family 0x00 -/

/-- Settles O44: each row's own effect at the running command. -/
theorem mailboxCommands : Obligations.MailboxCommands := by
  unfold Obligations.MailboxCommands
  refine ⟨fun m s hu hrun => ?nop, fun m s hu hrun => ?identify, fun m s hu hrun => ?fence,
    fun m f s hrun hf hmet => ?fenceMet, fun m s hrun => ?fenceLimit, fun m x s hu hrun hx hport hnone => ?enable,
    fun m s hu hrun hnone => ?noSession, fun m s hu hrun => ?disable, fun m s hu hrun hallow hnew hroom => ?addRoot,
    fun m s hu hrun hforbid => ?addForbidden, fun m s hu hrun => ⟨fun hheld => ?removeRoot, fun hother => ?removeOther⟩,
    fun m s hu hrun => ?viol⟩
  case nop =>
    exact ⟨_, congrArg Host.Outcome.next (mbxRow_of_answer (r := resStatus 0) (t := begun m s) hrun rfl rfl),
      mbxAnswered_mbxEnds (begun_units hu), rfl, rfl, rfl⟩
  case identify =>
    exact ⟨_, congrArg Host.Outcome.next (mbxRow_of_answer (t := begun m s) hrun rfl rfl),
      mbxReturns_mbxEnds (begun_units hu), rfl⟩
  case fence =>
    have hat := begun_at (m := m.val) (s := s) (by rw [hu.1]; exact m.isLt)
    have ⟨_, _, _, hres⟩ := hrun
    refine ⟨_, congrArg Host.Outcome.next (mbxRow_of_wait (t := begun m s) hrun rfl rfl), ⟨?_, ?_⟩, rfl, rfl⟩
    · rw [hat]
    · rw [hat]
      exact hres
  case fenceMet =>
    show execFenceConditionsMet m s = _
    unfold execFenceConditionsMet
    rw [hf]
    exact if_pos ⟨hrun, hmet⟩
  case fenceLimit => exact if_pos hrun
  case enable =>
    refine ⟨_, congrArg Host.Outcome.next (mbxRow_of_answer (r := resStatus 0)
      (t := { begun m s with grants := [⟨x.sid, mbxTransport m.val, par (mbxAt s m).cmd 32 4⟩] }) hrun rfl ?_),
      mbxAnswered_mbxEnds (begun_units hu), rfl⟩
    have hx' : (expertSessions (begun m s)).find? (fun x => x.sid = par (mbxAt s m).cmd 0 32) = some x := hx
    have hnone' : (begun m s).grants = [] := hnone
    rw [hx']
    dsimp only
    rw [if_pos hport, hnone']
    simp [answer]
  case noSession =>
    refine ⟨_, congrArg Host.Outcome.next (mbxRow_of_answer (r := resStatus 0x0013) (t := begun m s) hrun rfl ?_),
      mbxAnswered_mbxEnds (begun_units hu), rfl⟩
    have hnone' : (expertSessions (begun m s)).find? (fun x => x.sid = par (mbxAt s m).cmd 0 32) = none := hnone
    rw [hnone']
    rfl
  case disable =>
    exact ⟨_, congrArg Host.Outcome.next (mbxRow_of_answer (r := resStatus 0)
      (t := dropGrants (fun g => decide (g.transport = mbxTransport m.val)) (begun m s)) hrun rfl rfl),
      mbxAnswered_mbxEnds (begun_units hu), rfl⟩
  case addRoot =>
    refine ⟨_, congrArg Host.Outcome.next (mbxRow_of_answer (r := resStatus 0)
      (t := setRoots (s.nv.expertRoots ++ [(mbxAt s m).cmd.data]) (begun m s)) hrun rfl ?_),
      mbxAnswered_mbxEnds (configRefresh_keeps.units (begun_units hu)), (configRefresh_keeps.same .nvExpertRoots rfl).symm⟩
    have hallow' : rootAllowed (begun m s) m = true := hallow
    have hroom' : ¬ 8 ≤ (begun m s).nv.expertRoots.length := Nat.not_le.mpr hroom
    have hnew' : ¬ (begun m s).nv.expertRoots.contains (mbxAt s m).cmd.data = true := by rw [Bool.not_eq_true]; exact hnew
    rw [hallow', if_neg (by decide), if_neg hroom', if_neg hnew']
    rfl
  case addForbidden =>
    refine ⟨_, congrArg Host.Outcome.next (mbxRow_of_answer (r := resStatus 0x0013) (t := begun m s) hrun rfl ?_),
      mbxAnswered_mbxEnds (begun_units hu), rfl, rfl⟩
    have hforbid' : rootAllowed (begun m s) m = false := hforbid
    rw [hforbid']
    rfl
  case removeRoot =>
    exact ⟨_, congrArg Host.Outcome.next (mbxRow_of_answer (r := resStatus 0)
      (t := setRoots (s.nv.expertRoots.filter (fun r => r ≠ (mbxAt s m).cmd.data)) (begun m s)) hrun rfl (if_pos hheld)),
      mbxAnswered_mbxEnds (configRefresh_keeps.units (begun_units hu)), (configRefresh_keeps.same .nvExpertRoots rfl).symm⟩
  case removeOther =>
    exact ⟨_, congrArg Host.Outcome.next (mbxRow_of_answer (r := resStatus 0x001B) (t := begun m s) hrun rfl
      (if_neg (by rw [Bool.not_eq_true]; exact hother))), mbxAnswered_mbxEnds (begun_units hu), rfl⟩
  case viol =>
    exact ⟨_, congrArg Host.Outcome.next (mbxRow_of_answer (t := begun m s) hrun rfl rfl),
      mbxReturns_mbxEnds (begun_units hu), rfl⟩

end Sys2Proof.Machine
end

section
/-! PROOFS. O40: register accesses by every path. -/

set_option Elab.async false

namespace Sys2Proof.Machine

/-! ### Register accesses -/

/-- A refusal of the path has a status. -/
theorem pathCheck_status {p : Path} {a : Nat} {isWr : Bool} {w : Word} {s : State} :
    ∀ r ∈ pathCheck p a isWr w s, r.1 ≠ 0 := by
  have h13 : ∀ r ∈ some ((0x0013, 2) : Nat × Nat), r.1 ≠ 0 := by simp
  have h15 : ∀ r ∈ some ((0x0015, 6) : Nat × Nat), r.1 ≠ 0 := by simp
  have hnone : ∀ r ∈ (none : Option (Nat × Nat)), r.1 ≠ 0 := by simp
  unfold pathCheck
  cases p <;> dsimp only
  case core => exact hnone
  all_goals repeat' split
  all_goals first
    | exact hnone
    | exact h13
    | exact h15

/-- An access that its path is not refused is checked as an access of the cores is. -/
theorem busCheck_core {p : Path} {a : Nat} {isWr : Bool} {w : Word} {s : State}
    (h : ∀ st, (busCheck p true a isWr w s).1 = .err st → st = 0) :
    busCheck .core true a isWr w s = busCheck p true a isWr w s := by
  unfold busCheck at h ⊢
  split at h
  · exact absurd (h _ rfl) (by decide)
  · rename_i halign
    rw [if_neg halign, if_neg halign]
    cases hb : blockOf a with
    | none => rw [hb] at h; exact absurd (h _ rfl) (by decide)
    | some b =>
      rw [hb] at h
      dsimp only at h ⊢
      by_cases has : (!assigned a) = true
      · rw [if_pos has] at h
        exact absurd (h _ rfl) (by decide)
      · rw [if_neg has] at h ⊢
        rw [if_neg has]
        cases hp : pathCheck p a isWr w s with
        | none => rfl
        | some r =>
          rw [hp] at h
          exact absurd (h _ rfl) (pathCheck_status r hp)

/-- A read answered at once is answered alike where the command has already waited. -/
theorem regRead_started {p : Path} {a : Nat} {s : State} {x : Word} {started : Bool} (h : (regRead p a s).2 = some (0, x)) :
    regRead p a s started = regRead p a s := by
  cases started with
  | false => rfl
  | true =>
    have hcore : busCheck .core true a false 0 s = busCheck p true a false 0 s := by
      refine busCheck_core fun st hst => ?_
      unfold regRead at h
      rw [if_neg (by decide)] at h
      generalize busCheck p true a false 0 s = q at h hst
      obtain ⟨r, s1⟩ := q
      obtain rfl : r = .err st := hst
      exact congrArg Prod.fst (Option.some.inj h)
    unfold regRead
    rw [if_pos rfl, if_neg (by decide), hcore]

/-- A write accepted at once is accepted alike where the command has already waited. -/
theorem regWrite_started {p : Path} {env : RegEnv} {a : Nat} {w : Word} {s : State} {started : Bool}
    (h : (regWrite p env a w s).2 = some 0) : regWrite p env a w s started = regWrite p env a w s := by
  cases started with
  | false => rfl
  | true =>
    have hcore : busCheck .core true a true w s = busCheck p true a true w s := by
      refine busCheck_core fun st hst => ?_
      unfold regWrite at h
      rw [if_neg (by decide)] at h
      generalize busCheck p true a true w s = q at h hst
      obtain ⟨r, s1⟩ := q
      obtain rfl : r = .err st := hst
      exact Option.some.inj h
    unfold regWrite
    rw [if_pos rfl, if_neg (by decide), hcore]

/-- A row that answers at once is not put back. -/
theorem mbxAgain_of_answer {m op : Nat} {f : MbxCmd → State → State × Option MbxResult} {s t : State} {r : MbxResult}
    (ht : t.mbx.length = 16) (hm : m < 16) (h : mbxRuns s m op) (hf : f (mbxAt s m).cmd (begun m s) = (t, some r)) :
    mbxAgain m op f s = mbxEnds m r t := by
  unfold mbxAgain
  rw [mbxRow_of_answer h rfl hf]
  exact if_neg (by rw [mbxAt_mbxEnds (m := ⟨m, hm⟩) ht]; simp)

/-- A word read at once ends a read of one word. -/
theorem readWords_one {m : Fin 16} {c : MbxCmd} {s : State} {x : Word} (hd : dptr c = false)
    (h : (regRead (.mbx m) (par c 0 32 % 2 ^ 32) s).2 = some (0, x)) :
    readWords m c 1 0 [] s = ((regRead (.mbx m) (par c 0 32 % 2 ^ 32) s).1, some ⟨0, leBytes 4 x.toNat, 0, 0, []⟩) := by
  unfold readWords
  dsimp only
  rw [Nat.mul_zero, Nat.add_zero, regRead_started h]
  generalize regRead (.mbx m) (par c 0 32 % 2 ^ 32) s = q at h
  obtain ⟨s1, o⟩ := q
  obtain rfl : o = some (0, x) := h
  dsimp only
  rw [if_neg (by decide)]
  unfold readWords regReadDone
  rw [hd]
  rfl

/-- A word accepted at once ends a write of one word. -/
theorem writeWords_one {m : Fin 16} {c : MbxCmd} {env : RegEnv} {s : State} {w : Word}
    (h : (regWrite (.mbx m) env (par c 0 32 % 2 ^ 32) w s).2 = some 0) :
    writeWords m c env [w] 0 s = answer 0 (regWrite (.mbx m) env (par c 0 32 % 2 ^ 32) w s).1 := by
  unfold writeWords
  dsimp only
  rw [Nat.mul_zero, Nat.add_zero, regWrite_started h]
  generalize regWrite (.mbx m) env (par c 0 32 % 2 ^ 32) w s = q at h
  obtain ⟨s1, o⟩ := q
  obtain rfl : o = some 0 := h
  rfl

theorem leWords_one {x : Word} : leWords 1 (leBytes 4 x.toNat) = [x] := by
  unfold leWords leWords
  rw [List.take_of_length_le (Nat.le_of_eq leBytes_length), leNat_leBytes, Nat.mod_eq_of_lt x.isLt, BitVec.ofNat_toNat,
    BitVec.setWidth_eq]

/-- Settles O40: what a path is not refused is checked as for the cores, so a command that has waited sees the same access. -/
theorem registerAccesses : Obligations.RegisterAccesses := by
  unfold Obligations.RegisterAccesses
  refine ⟨fun p a w env s => rfl, fun p a w w2 env s ha => if_pos (by simpa [reqOk] using ha),
    fun p a w x two env s => ⟨rfl, rfl⟩, fun p a s => rfl,
    fun p a s ha => if_pos (by simpa [reqOk] using ha), fun p a s ha => if_pos ha, fun p a s ha => if_pos ha,
    fun m x s hu hrun hone hd hat hdata hread => ?read, fun m env x s hu hrun hd hdata hat hwrite => ?write,
    fun a w x s hacts hread => ?rdreg, fun a env w s hacts hwrite => ?wrreg⟩
  case read =>
    have hbegun := begun_at (m := m.val) (s := s) (by rw [hu.1]; exact m.isLt)
    have hu' : Units (regRead (.mbx m) (par (mbxAt s m).cmd 0 32 % 2 ^ 32) (begun m s)).1 := regRead_keeps.units (begun_units hu)
    refine ⟨_, congrArg Host.Outcome.next (mbxAgain_of_answer (t := (regRead (.mbx m) (par (mbxAt s m).cmd 0 32 % 2 ^ 32) (begun m s)).1)
      (r := ⟨0, leBytes 4 x.toNat, 0, 0, []⟩) hu'.1 m.isLt hrun ?_), mbxReturns_mbxEnds hu'⟩
    dsimp only
    rw [hone, if_neg (by decide), if_neg (by simp [hd]), hbegun]
    dsimp only
    rw [hat, hdata]
    exact readWords_one hd hread
  case write =>
    have hbegun := begun_at (m := m.val) (s := s) (by rw [hu.1]; exact m.isLt)
    have hu' : Units (regWrite (.mbx m) env (par (mbxAt s m).cmd 0 32 % 2 ^ 32) x (begun m s)).1 := regWrite_keeps.units (begun_units hu)
    refine ⟨_, congrArg Host.Outcome.next (mbxAgain_of_answer (t := (regWrite (.mbx m) env (par (mbxAt s m).cmd 0 32 % 2 ^ 32) x (begun m s)).1)
      (r := resStatus 0) hu'.1 m.isLt hrun ?_), mbxAnswered_mbxEnds hu', rfl, rfl⟩
    dsimp only
    rw [hd, if_neg (c := false = true) (by decide), hdata, leBytes_length, if_neg (by simp), hbegun]
    dsimp only
    rw [hat]
    exact (congrArg (fun l => writeWords m _ env (l.drop 0) 0 _) leWords_one).trans (writeWords_one hwrite)
  case rdreg =>
    refine congrArg Host.Outcome.next ((fsAct_of_acts hacts).trans ?_)
    dsimp only
    generalize regRead (.fseq a) (regAddr (fsActed a.val s) a.val w) (fsActed a.val s) = q at hread
    obtain ⟨s1, o⟩ := q
    obtain rfl : o = some (0, x) := hread
    rfl
  case wrreg =>
    refine congrArg Host.Outcome.next ((fsAct_of_acts hacts).trans ?_)
    generalize regWrite (.fseq a) env (regAddr (fsActed a.val s) a.val w) (gr (fsActed a.val s) a.val (wRb w)) (fsActed a.val s) = q at hwrite
    obtain ⟨s1, o⟩ := q
    obtain rfl : o = some 0 := hwrite
    rfl

end Sys2Proof.Machine
end

section
/-! PROOFS. O41: the governor, the synthesizers and the clock gates. -/

set_option Elab.async false

namespace Sys2Proof.Machine

/-! ### The governor and the clock gates -/

/-- What a governor run shows of the pace: that one was seen, and the required rate. -/
def govMarks (s : State) : Bool × Nat := (s.clk.paceSeen, s.clk.required)

theorem govMarks_of_clk {s t : State} (h : t.clk = s.clk) : govMarks t = govMarks s := by
  unfold govMarks
  rw [h]

theorem govMarks_admitTo {l : List Nat} {s : State} : govMarks (admitTo l s) = govMarks s :=
  (govMarks_of_clk (admitShow_keeps.clk_eq rfl)).trans rfl

theorem govMarks_paRemove {p : Nat} {s : State} : govMarks (paRemove p s) = govMarks s := by
  unfold paRemove
  exact (govMarks_of_clk (setF_clk ..)).trans (govMarks_admitTo.trans rfl)

theorem govMarks_govCut {pace rate floor : Nat} {s : State} : govMarks (govCut pace rate floor s) = govMarks s := by
  unfold govCut
  split
  · rfl
  · split
    · split
      · exact govMarks_paRemove.trans rfl
      · rfl
    · rfl

theorem govMarks_govAct {pace rate floor : Nat} {capHolds : Bool} {s : State} :
    govMarks (govAct pace rate floor capHolds s) = govMarks s := by
  unfold govAct
  dsimp only
  split
  · split
    · rfl
    · exact govMarks_govCut.trans rfl
  · split
    · rfl
    · rfl

/-- A governor run notes the pace and the required rate; what it does then keeps both. -/
theorem governorRun_marks {pace vcore vsys vmot : BitVec 16} {capHolds : Bool} {capPas : Fin 17} {s : State} (h : live s = true) :
    ∃ t, execGovernorRun pace vcore vsys vmot capHolds capPas s = .next t ∧ govMarks t = (true, govRate s) := by
  unfold execGovernorRun
  refine ⟨_, if_neg (by simp [h]), govMarks_admitTo.trans ?_⟩
  refine (govMarks_of_clk (govShow_keeps.clk_eq rfl)).trans (govMarks_govAct.trans ?_)
  rfl

theorem trainSend_regs {s : State} : (trainSend s).regs = s.regs := trainSend_keeps.regs_eq rfl

/-- Settles O41: a governor run keeps the two marks that it sets; the other rows take the branch of their guard. -/
theorem governorAndGates : Obligations.GovernorAndGates := by
  unfold Obligations.GovernorAndGates
  refine ⟨fun pace vcore vsys vmot capHolds capPas s hlive => ?governor, fun p s hrem h105 h115 hmargin => ?readmit,
    fun h fill x s hfill hcur => ?overrun, fun p s hgo => ?paceLow, fun p i w s hgo => ?pllCfg,
    fun i s hwf hlive hdom href hgated hvco => ?lock, fun p pactl w s hgo => ?ssc, fun p i busy s hgo => ?gateSet,
    fun p i s hgo => ?gateClear, fun i s hpend => ?gateIdle, fun p i idle s hgo => ?gateForce, fun p i s hgo => ?release⟩
  case governor =>
    obtain ⟨t, ht, hmarks⟩ := governorRun_marks (pace := pace) (vcore := vcore) (vsys := vsys) (vmot := vmot)
      (capHolds := capHolds) (capPas := capPas) hlive
    exact ⟨t, ht, congrArg Prod.fst hmarks, congrArg Prod.snd hmarks⟩
  case readmit => exact ⟨_, if_pos (by rw [hrem, h105, h115, decide_eq_true hmargin]; rfl), rfl⟩
  case overrun =>
    show execSampleBufferOverrun h fill s = _
    unfold execSampleBufferOverrun
    dsimp only
    rw [if_neg (by omega), hcur]
  case paceLow => exact congrArg Host.Outcome.next (busAct_acc_of_writeGoes hgo)
  case pllCfg => exact congrArg Host.Outcome.next (busAct_acc_of_writeGoes hgo)
  case lock =>
    have hok : (F.CLK_LOCKED i.val).ok = true := rfl
    have hset := isSet_setF_one hwf hok Nat.one_pos
    have happart : (F.CLK_BACKUP_ACTIVE).addr ≠ (F.CLK_LOCKED i.val).addr := by
      show R.CLK_REF_STATUS ≠ R.CLK_ISL_STATUS i.val
      unfold R.CLK_REF_STATUS R.CLK_ISL_STATUS
      omega
    refine ⟨_, if_pos (by simp [hlive, hdom, href, hgated, hvco]), ?_, fun h0 => ?_⟩
    · by_cases h0 : i.val = 0
      · rw [if_pos h0]
        unfold isSet
        rw [getF_setF_ne happart]
        exact hset
      · rw [if_neg h0]
        split
        · exact (isSet_of_regs trainSend_regs).trans hset
        · exact hset
    · rw [if_pos h0]
      unfold isSet
      rw [getF_setF_same (regsWf_setF hwf) rfl]
      rfl
  case ssc => exact congrArg Host.Outcome.next (busAct_acc_of_writeGoes hgo)
  case gateSet => exact congrArg Host.Outcome.next (busAct_acc_of_writeGoes hgo)
  case gateClear => exact congrArg Host.Outcome.next (busAct_acc_of_writeGoes hgo)
  case gateIdle => exact if_pos hpend
  case gateForce => exact congrArg Host.Outcome.next (busAct_acc_of_writeGoes hgo)
  case release => exact congrArg Host.Outcome.next (busAct_acc_of_writeGoes hgo)

end Sys2Proof.Machine
end

section
/-! PROOFS. O42: the references, time stamps and the clock commands. -/

set_option Elab.async false

namespace Sys2Proof.Machine

/-! ### References, time stamps and the clock commands -/

theorem isSet_setF_ne {f g : Fld} {v : Nat} {s : State} (h : f.addr ≠ g.addr) : isSet (setF f v s) g = isSet s g := by
  unfold isSet
  rw [getF_setF_ne h]

/-- A reference is shown lost by its own bit of CLK_REF_STATUS. -/
theorem refLost_eq_getF {s : State} {r : Nat} (h : r < 4) : refLost s r = isSet s ⟨R.CLK_REF_STATUS, r, 1⟩ := by
  unfold refLost isSet getF bitAt bitsAt
  dsimp only
  generalize rdN s R.CLK_REF_STATUS = x
  rw [Bool.eq_iff_iff, decide_eq_true_iff, decide_eq_true_iff]
  obtain rfl | rfl | rfl | rfl : r = 0 ∨ r = 1 ∨ r = 2 ∨ r = 3 := by omega
  all_goals omega

/-- The islands' reference bits stand in other registers. -/
theorem isSet_refOk {l : List Nat} {s : State} {r : Nat} :
    isSet (l.foldl (fun s i => setF (F.CLK_REF_OK i) 1 s) s) ⟨R.CLK_REF_STATUS, r, 1⟩ = isSet s ⟨R.CLK_REF_STATUS, r, 1⟩ := by
  refine foldl_same (g := fun s => isSet s ⟨R.CLK_REF_STATUS, r, 1⟩) fun x i => ?_
  have hne : (F.CLK_REF_OK i).addr ≠ R.CLK_REF_STATUS := by
    show R.CLK_ISL_STATUS i ≠ R.CLK_REF_STATUS
    unfold R.CLK_REF_STATUS R.CLK_ISL_STATUS
    omega
  exact isSet_setF_ne (g := ⟨R.CLK_REF_STATUS, r, 1⟩) hne

theorem isSet_clearLive {code r : Nat} {s : State} :
    isSet (clearLive 2 code s) ⟨R.CLK_REF_STATUS, r, 1⟩ = isSet s ⟨R.CLK_REF_STATUS, r, 1⟩ := by
  have hne : (FF_LIVE 2).addr ≠ R.CLK_REF_STATUS := by decide
  unfold clearLive
  split
  · exact isSet_setF_ne (g := ⟨R.CLK_REF_STATUS, r, 1⟩) hne
  · rfl

/-- Whether a mailbox's command waits is a matter of that command alone. -/
theorem mbxWaiting_contains {s : State} {m : Nat} {p q : MbxCmd → Bool} (h : p (mbxAt s m).cmd = q (mbxAt s m).cmd) :
    (mbxWaiting s p).contains m = (mbxWaiting s q).contains m := by
  unfold mbxWaiting
  rw [Bool.eq_iff_iff]
  simp only [List.contains_iff_mem, List.mem_filter, h]

/-- Settles O42: each reference is lost and returned by its own bit, which what follows leaves. -/
theorem referencesAndClockCommands : Obligations.ReferencesAndClockCommands := by
  unfold Obligations.ReferencesAndClockCommands
  refine ⟨fun r s hlive => if_pos hlive, fun pcie fab nal s hlive hlost => ?mismatch, fun r s hwf hlost => ?back,
    fun r s hlost hesc hfailed hr => ?good, fun s hlive hlost => if_pos (by rw [hlive, hlost]; rfl),
    fun s hlost hup hhand => ⟨_, if_pos (by rw [hlost, hup, hhand]; rfl), rfl, rfl⟩, fun s hlive => ?tsIn,
    fun s hlive hsec hheld => ?tsOut, fun m busy s hu hrun hgate hi hgated => ?gate, fun m s hu hrun hungate hi => ?ungate,
    fun m idle s hwaits hpend => ?limit, fun m s hu hrun hi => ?release, fun m s hu hrun => ?status⟩
  case mismatch =>
    have hgo : ¬ (!live s || refLost s 0) = true := by rw [hlive, hlost]; decide
    exact ⟨if_neg hgo, if_neg hgo, if_neg hgo, if_neg hgo⟩
  case back =>
    show ∃ t, execRefReturn r s = _ ∧ _
    unfold execRefReturn
    refine ⟨_, if_neg (by rw [hlost]; decide), ?_⟩
    rw [refLost_eq_getF r.isLt]
    have hback : isSet ((refIslands r.val).foldl (fun s i => setF (F.CLK_REF_OK i) 1 s) (setF ⟨R.CLK_REF_STATUS, r.val, 1⟩ 0 s))
        ⟨R.CLK_REF_STATUS, r.val, 1⟩ = false := by
      rw [isSet_refOk]
      unfold isSet
      rw [getF_setF_same hwf (by have := r.isLt; exact decide_eq_true (by show r.val + 1 ≤ 32; omega))]
      rfl
    split
    · rw [isSet_clearLive, hback]
    · exact hback
  case good =>
    show execRefGood100ms r s = _
    unfold execRefGood100ms releaseOrder
    rw [hlost, hesc, hfailed, if_neg (by decide), if_neg hr]
    exact congrArg Host.Outcome.next (if_neg (by rintro ⟨h0, -⟩; exact hr h0))
  case tsIn => exact ⟨_, if_neg (by rw [hlive]; decide), rfl, rfl⟩
  case tsOut => exact if_pos (by rw [hlive, hheld, decide_eq_true hsec]; rfl)
  case gate =>
    refine ⟨_, congrArg Host.Outcome.next (mbxRow_of_answer (r := resStatus 0)
      (t := gateReq (par (mbxAt s m).cmd 0 4) (busyOf busy) (begun m s)) hrun (decide_eq_true hgate) ?_),
      mbxAnswered_mbxEnds (gateReq_keeps.units (begun_units hu)), rfl⟩
    dsimp only
    rw [if_neg (Nat.not_lt.mpr hi), if_pos hgated]
    rfl
  case ungate =>
    refine ⟨_, congrArg Host.Outcome.next (mbxRow_of_answer (r := resStatus 0)
      (t := gateClear (par (mbxAt s m).cmd 0 4) (begun m s)) hrun (decide_eq_true hungate) ?_),
      mbxAnswered_mbxEnds (gateClear_keeps.units (begun_units hu)), rfl⟩
    dsimp only
    rw [if_neg (Nat.not_lt.mpr hi)]
    rfl
  case limit =>
    show execClkGateLimitExpiry m idle s = _
    unfold execClkGateLimitExpiry
    dsimp only
    have hown := (mbxWaiting_contains (p := fun c => isGateCmd (par c 0 4) c) rfl).trans hwaits
    rw [if_pos hown, hpend, if_pos rfl]
    simp only [true_and]
    exact (apply_ite Host.Outcome.next _ _ _).symm
  case release =>
    refine ⟨_, congrArg Host.Outcome.next (mbxRow_of_answer
      (r := resStatus (if isSet s (F.CLK_LOCKED (par (mbxAt s m).cmd 0 4)) then 0 else 0x0123))
      (t := safeRelease (par (mbxAt s m).cmd 0 4) (begun m s)) hrun rfl ?_),
      mbxAnswered_mbxEnds (safeRelease_keeps.units (begun_units hu)), rfl⟩
    dsimp only
    rw [if_neg (Nat.not_lt.mpr hi)]
    rfl
  case status =>
    exact ⟨_, congrArg Host.Outcome.next (mbxRow_of_answer (t := begun m s) hrun rfl rfl), mbxReturns_mbxEnds (begun_units hu)⟩

end Sys2Proof.Machine
end

section
/-! PROOFS. O51: the flash and racking commands and the temperature history. -/

set_option Elab.async false

namespace Sys2Proof.Machine

/-! ### Flash and racking commands, and the temperature history -/

theorem mbxResult_mbxEnds {m : Fin 16} {r : MbxResult} {t : State} (h : Units t) : (mbxAt (mbxEnds m r t) m).result = some r := by
  rw [mbxAt_mbxEnds h.1]

theorem memRead_begun {m a n : Nat} {s : State} : memRead (begun m s) a n = memRead s a n := by
  induction n generalizing a with
  | zero => rfl
  | succ n ih => exact congrArg (memByte s a :: ·) ih

theorem spareBytes_begun {m p : Nat} {s : State} : spareBytes (begun m s) p = spareBytes s p := by
  unfold spareBytes
  simp only [memRead_begun]
  rfl

theorem rackPolicy_begun {m : Nat} {l : List Byte} {s : State} : (rackPolicy l (begun m s)).regs = (rackPolicy l s).regs := rfl

/-- The die, out of use, with the channel's list of dead dies and count of dies as they then are. -/
def dieOut (ch d : Nat) (s : State) : State :=
  let s1 := s |> setF (F.FC_DIE_STATE ch d) 2
    |> updChan ch (fun h => { h with dead := (d, 2) :: h.dead.filter (fun e => e.1 ≠ d) })
  setF (F.FC_DIES ch) (diesUsed s1 ch).length s1

theorem dieOut_pages {ch d : Nat} {s : State} : diePages (dieOut ch d s) ch d = diePages s ch d := by
  unfold diePages dieOut
  rw [setF_tier]
  unfold updChan
  dsimp only
  rw [setF_tier]

theorem dieOut_keeps {ch d : Nat} {s : State} : Keeps [.regs, .tier] s (dieOut ch d s) :=
  .after setF_keeps (.after updChan_keeps (.only setF_keeps))

/-- FL_DIE_RETIRE of a used die of an owned channel takes the die out; it ends where the die holds no page. -/
theorem flDieRetire_used {m : Fin 16} {s : State} (hrun : mbxRuns s m 0x0405) (hown : owns s (8 + par (mbxAt s m).cmd 0 5) = true)
    (hch : chOwned s (par (mbxAt s m).cmd 0 5) = true) (hdie : dieUsed s (par (mbxAt s m).cmd 0 5) (par (mbxAt s m).cmd 8 4) = true) :
    execFlDieRetire m s =
      let s2 := dieOut (par (mbxAt s m).cmd 0 5) (par (mbxAt s m).cmd 8 4) (begun m s)
      .next (if (diePages s2 (par (mbxAt s m).cmd 0 5) (par (mbxAt s m).cmd 8 4)).isEmpty then mbxEnds m (resStatus 0) s2
        else { s2 with fl := { s2.fl with retiring := s2.fl.retiring ++ [(m.val, par (mbxAt s m).cmd 0 5, par (mbxAt s m).cmd 8 4)] } }) := by
  have hown' : owns (begun m s) (8 + par (mbxAt s m).cmd 0 5) = true := hown
  have hch' : chOwned (begun m s) (par (mbxAt s m).cmd 0 5) = true := hch
  have hdie' : dieUsed (begun m s) (par (mbxAt s m).cmd 0 5) (par (mbxAt s m).cmd 8 4) = true := hdie
  unfold execFlDieRetire
  dsimp only
  refine congrArg Host.Outcome.next ?_
  split
  · rename_i hempty
    refine mbxRow_of_answer hrun rfl ?_
    rw [hown', hch', hdie', if_neg (by decide), if_neg (by simp)]
    exact if_pos hempty
  · rename_i hpages
    refine mbxRow_of_wait hrun rfl ?_
    rw [hown', hch', hdie', if_neg (by decide), if_neg (by simp)]
    exact if_neg hpages

/-- A row of RACK_START notes its kind. -/
theorem rackStart_kind {m : Fin 16} {k j : Nat} {s : State} (hu : Units s) (hrun : mbxRuns s m 0x0403) (hk : par (mbxAt s m).cmd 0 3 = k) :
    ∃ t, (.next (mbxRow m.val 0x0403 (rackKind k) (fun _ s => answer 0 (setKind j true s)) s) : Out) = .next t ∧
      mbxAnswered t m 0 ∧ t.fl.kinds = putBits s.fl.kinds j 1 1 :=
  ⟨_, congrArg Host.Outcome.next (mbxRow_of_answer (r := resStatus 0) (t := setKind j true (begun m s)) hrun (decide_eq_true hk) rfl),
    mbxAnswered_mbxEnds (begun_units hu), rfl⟩

/-- Settles O51: a command over a mailbox answers what its operation reads of the state with the command begun. -/
theorem tierCommands : Obligations.TierCommands := by
  unfold Obligations.TierCommands
  refine ⟨fun m s hu hrun => ⟨?healthAlone, fun b hup => ?healthPair⟩, fun m s hu hrun => ?policySet, fun m s hu hrun => ?policyGet,
    fun m s hu hrun => ⟨rackStart_kind hu hrun, rackStart_kind hu hrun, rackStart_kind hu hrun, rackStart_kind hu hrun⟩,
    fun m s hu hrun hk => ?patrol, fun m s hu hrun => ⟨fun hown => ?runOther, fun hown hband => ?runOwn⟩,
    fun m s hu hrun hown hch hdie => ⟨fun hempty => ?dieEmpty, fun hpages => ?diePages⟩,
    fun m s hu hrun hown hch hpresent hblk hpage => ?page, fun m s hu hrun hlen hcrc => ?table,
    fun p s hgo => ?commit, fun mech s hlive => ?sample, fun s hlive => ⟨_, if_neg (by rw [hlive]; decide), rfl, rfl, rfl, rfl⟩⟩
  case healthAlone =>
    refine ⟨_, congrArg Host.Outcome.next (mbxRow_of_answer (t := begun m s) hrun rfl ?_), mbxReturns_mbxEnds (begun_units hu), rfl⟩
    rw [ite_self]
    rfl
  case healthPair =>
    refine ⟨_, congrArg Host.Outcome.next (mbxRow_of_answer (t := begun m s) hrun rfl ?_), mbxReturns_mbxEnds (begun_units hu)⟩
    have hup' : isSet (begun m s) F.NAL_UP = true := hup
    rw [if_pos hup']
    rfl
  case policySet =>
    refine ⟨_, congrArg Host.Outcome.next (mbxRow_of_answer (r := resStatus 0) (t := rackPolicy (mbxAt s m).cmd.data (begun m s)) hrun rfl rfl),
      mbxAnswered_mbxEnds (rackPolicy_keeps.units (begun_units hu)), ?_⟩
    rw [mbxEnds_keeps.regs_eq rfl]
    exact rackPolicy_begun
  case policyGet =>
    exact ⟨_, congrArg Host.Outcome.next (mbxRow_of_answer (t := begun m s) hrun rfl rfl), mbxReturns_mbxEnds (begun_units hu), rfl⟩
  case patrol =>
    by_cases h4 : par (mbxAt s m).cmd 0 3 = 4
    · rw [if_pos h4, decide_eq_true h4]
      exact ⟨_, congrArg Host.Outcome.next (mbxRow_of_answer (r := resStatus 0)
        (t := { begun m s with fl := { s.fl with patrol := true } }) hrun (decide_eq_true hk) (if_pos h4)),
        mbxAnswered_mbxEnds (begun_units hu), (Bool.or_true _).symm⟩
    · rw [if_neg h4, decide_eq_false h4]
      exact ⟨_, congrArg Host.Outcome.next (mbxRow_of_answer (r := resStatus 0x0016) (t := begun m s) hrun (decide_eq_true hk) (if_neg h4)),
        mbxAnswered_mbxEnds (begun_units hu), (Bool.or_false _).symm⟩
  case runOther =>
    refine ⟨_, congrArg Host.Outcome.next (mbxRow_of_answer (r := resStatus 0x0A11) (t := begun m s) hrun rfl ?_),
      mbxAnswered_mbxEnds (begun_units hu)⟩
    have hown' : owns (begun m s) (par (mbxAt s m).cmd 0 2) = false := hown
    dsimp only
    rw [hown']
    rfl
  case runOwn =>
    refine ⟨_, congrArg Host.Outcome.next (mbxRow_of_answer (t := begun m s) hrun rfl ?_), mbxReturns_mbxEnds (begun_units hu)⟩
    have hown' : owns (begun m s) (par (mbxAt s m).cmd 0 2) = true := hown
    have hband' : ¬ bandsOf (begun m s) (par (mbxAt s m).cmd 0 2) ≤ par (mbxAt s m).cmd 8 24 := Nat.not_le.mpr hband
    dsimp only
    rw [hown', if_neg (by decide), if_neg (fun h => hband' h.2)]
    rfl
  case dieEmpty =>
    refine ⟨_, flDieRetire_used hrun hown hch hdie, ?_⟩
    have hempty' : diePages (begun m s) (par (mbxAt s m).cmd 0 5) (par (mbxAt s m).cmd 8 4) = [] := hempty
    dsimp only
    rw [dieOut_pages, hempty', if_pos (by decide)]
    exact mbxAnswered_mbxEnds (dieOut_keeps.units (begun_units hu))
  case diePages =>
    refine ⟨_, flDieRetire_used hrun hown hch hdie, ?_⟩
    have hpages' : ¬ (diePages (begun m s) (par (mbxAt s m).cmd 0 5) (par (mbxAt s m).cmd 8 4)).isEmpty = true :=
      fun h => hpages (List.isEmpty_iff.mp h)
    have hat := begun_at (m := m.val) (s := s) (by rw [hu.1]; exact m.isLt)
    have ⟨_, _, _, hres⟩ := hrun
    dsimp only
    rw [dieOut_pages, if_neg hpages']
    refine ⟨⟨?_, ?_⟩, ?_⟩
    · show (mbxAt (begun m s) m).started = true
      rw [hat]
    · show (mbxAt (begun m s) m).result = none
      rw [hat]
      exact hres
    · dsimp only
      rw [dieOut_keeps.fl_eq rfl]
      rfl
  case page =>
    refine ⟨_, congrArg Host.Outcome.next (mbxRow_of_answer (t := { begun m s with free := s.free + 252 })
      (r := ⟨0, [], 18432, 0, memRead s (pageAddr (par (mbxAt s m).cmd 0 37)) 16384 ++ spareBytes s (par (mbxAt s m).cmd 0 37)⟩) hrun rfl ?_),
      mbxResult_mbxEnds (begun_units hu), rfl, rfl⟩
    have hown' : owns (begun m s) (8 + ppaCh (par (mbxAt s m).cmd 0 37)) = true := hown
    have hch' : chOwned (begun m s) (ppaCh (par (mbxAt s m).cmd 0 37)) = true := hch
    have hpresent' : bitAt (chan (begun m s) (ppaCh (par (mbxAt s m).cmd 0 37))).present (ppaDie (par (mbxAt s m).cmd 0 37)) = true := hpresent
    have hwithin : ¬ ((chan (begun m s) (ppaCh (par (mbxAt s m).cmd 0 37))).blocks ≤ ppaBlk (par (mbxAt s m).cmd 0 37) ∨
        (chan (begun m s) (ppaCh (par (mbxAt s m).cmd 0 37))).pages ≤ bitsAt (par (mbxAt s m).cmd 0 37) 0 12) := by
      rintro (h | h)
      · exact Nat.not_le.mpr hblk h
      · exact Nat.not_le.mpr hpage h
    dsimp only
    rw [hown', hch', hpresent', decide_eq_false hwithin, if_neg (by decide), if_neg (by decide), memRead_begun, spareBytes_begun]
    rfl
  case table =>
    refine ⟨_, congrArg Host.Outcome.next (mbxRow_of_answer (r := ⟨0, [], 80, 0, []⟩)
      (t := updChan (par (mbxAt s m).cmd 0 5) (fun h => { h with tableNew := (mbxAt s m).cmd.ext }) (begun m s)) hrun rfl ?_),
      mbxResult_mbxEnds (begun_units hu), rfl⟩
    dsimp only
    rw [hlen, hcrc, if_neg (by simp)]
    rfl
  case commit => exact congrArg Host.Outcome.next (busAct_acc_of_writeGoes hgo)
  case sample =>
    refine ⟨_, if_neg (by rw [hlive]; decide), rfl, rfl, rfl, fun h80 => ?_⟩
    dsimp only
    rw [if_pos h80]

end Sys2Proof.Machine
end

section
/-! PROOFS. O48: the table cache and the DMA engine. -/

set_option Elab.async false

namespace Sys2Proof.Machine

/-! ### What a rise of a counter leaves of the registers -/

/-- A fault writes the registers of its block's group only. -/
theorem rdN_raiseCore_apart {b code cls inst aux a : Nat} {livef : Bool} {s : State}
    (h : a < groupBase b ∨ groupBase b + 32 ≤ a) : rdN (raiseCore b code cls inst aux livef s) a = rdN s a := by
  have hlatch : ∀ (code inst aux cls : Nat) (livef : Bool) (x : State), rdN (latchFault b code cls inst aux livef x) a = rdN x a := by
    intro code inst aux cls livef x
    have hrecord : rdN (latchRecord b code cls inst aux livef x) a = rdN x a := by
      obtain h | h := h
      · cases hv : isSet x (FF_VALID b) with
        | false =>
          rw [latchRecord_of_clear hv]
          refine rdN_setFields_ne fun e he => Nat.ne_of_gt (Nat.lt_of_lt_of_le h ?_)
          revert e
          simp [latchFields, ffF]
        | true =>
          rw [latchRecord_of_set hv]
          exact rdN_wr_ne (by simp only [ffF]; omega)
      · exact rdN_latchRecord (by omega)
    rw [latchFault_eq, rdN_pendSignal (by omega), rdN_cntAdd_ne (by unfold FF_CNT; omega) (by unfold FF_CNT; omega), hrecord]
  have hlog : ∀ (code inst aux cls : Nat) (x : State), rdN (logEvent b code cls inst aux x) a = rdN x a :=
    fun _ _ _ _ _ => rdN_of_regs (logEvent_keeps.same .regs rfl)
  unfold raiseCore
  dsimp only
  split
  · rfl
  · split
    · rw [hlog, hlatch, hlog, hlatch]
    · rw [hlog, hlatch]

/-- A rise of a counter writes its pair and the registers of its block's fault group only. -/
theorem rdN_count_apart {c n a : Nat} {s : State} (hlo : a ≠ c) (hhi : a ≠ c + 4)
    (hg : a < groupBase ((blockOf c).getD 0) ∨ groupBase ((blockOf c).getD 0) + 32 ≤ a) : rdN (count c n s) a = rdN s a := by
  have hadd : rdN (if n = 0 then s else cntAdd c n s) a = rdN s a := by
    split
    · rfl
    · exact rdN_cntAdd_ne hlo hhi
  unfold count
  dsimp only
  split
  · exact (rdN_raiseCore_apart hg).trans hadd
  · exact hadd

/-! ### Bytes stored where none are listed -/

theorem smGet_absent {d : Nat → Byte} {m : List Host.Cell} {k : Nat} (h : ∀ e ∈ m, e.1 ≠ k) : smGet d m k = d k := by
  induction m with
  | nil => rfl
  | cons e r ih =>
    rw [List.forall_mem_cons] at h
    exact (if_neg h.1).trans (ih h.2)

theorem mem_smCons {d : Nat → Byte} {m : List Host.Cell} {k : Nat} {v : Byte} {e : Host.Cell} (h : e ∈ smCons d k v m) :
    e.1 = k ∨ e ∈ m := by
  unfold smCons at h
  split at h
  · exact Or.inr h
  · rcases List.mem_cons.mp h with rfl | h
    · exact Or.inl rfl
    · exact Or.inr h

theorem mem_smPut {d : Nat → Byte} {m : List Host.Cell} {k : Nat} {v : Byte} {e : Host.Cell} (h : e ∈ smPut d m k v) :
    e.1 = k ∨ e ∈ m := by
  induction m with
  | nil => exact mem_smCons h
  | cons c r ih =>
    unfold smPut at h
    split at h
    · exact mem_smCons h
    · split at h
      · exact (mem_smCons h).imp_right (List.mem_cons_of_mem _)
      · rcases List.mem_cons.mp h with rfl | h
        · exact Or.inr List.mem_cons_self
        · exact (ih h).imp_right (List.mem_cons_of_mem _)

theorem smGet_smCons_absent {d : Nat → Byte} {m : List Host.Cell} {k : Nat} {v : Byte} (h : ∀ e ∈ m, e.1 ≠ k) :
    smGet d (smCons d k v m) k = v := by
  unfold smCons
  split
  · rename_i hv
    exact (smGet_absent h).trans hv.symm
  · exact if_pos rfl

/-- A byte put where the address is not listed reads back, in a memory of any form. -/
theorem smGet_smPut_absent {d : Nat → Byte} {m : List Host.Cell} {k : Nat} {v : Byte} (h : ∀ e ∈ m, e.1 ≠ k) :
    smGet d (smPut d m k v) k = v := by
  induction m with
  | nil => exact smGet_smCons_absent h
  | cons c r ih =>
    rw [List.forall_mem_cons] at h
    unfold smPut
    split
    · exact smGet_smCons_absent (List.forall_mem_cons.mpr h)
    · rw [if_neg (Ne.symm h.1)]
      exact (if_neg h.1).trans (ih h.2)

theorem memRead_length {n a : Nat} {s : State} : (memRead s a n).length = n := by
  induction n generalizing a with
  | zero => rfl
  | succ n ih => exact congrArg (· + 1) ih

/-- Bytes stored where none are listed read back, in a memory of any form. -/
theorem memRead_memWrite_absent {l : List Byte} {a : Nat} {s : State} (h : ∀ e ∈ s.mem, e.1 < a ∨ a + l.length ≤ e.1) :
    memRead (memWrite a l s) a l.length = l := by
  induction l generalizing a s with
  | nil => rfl
  | cons b r ih =>
    simp only [List.length_cons] at h
    have hfirst : memByte (memWrite a (b :: r) s) a = b := by
      refine (memByte_memWrite_out (s := { s with mem := smPut memDefault s.mem a b }) (l := r) (a := a + 1) (by omega)).trans ?_
      exact smGet_smPut_absent fun e he => by have := h e he; omega
    have hrest := ih (a := a + 1) (s := { s with mem := smPut memDefault s.mem a b }) fun e he => by
      rcases mem_smPut he with hk | hm
      · omega
      · have := h e hm
        omega
    exact congr (congrArg List.cons hfirst) hrest

theorem memRead_of_mem {a n : Nat} {s t : State} (h : t.mem = s.mem) : memRead t a n = memRead s a n := by
  have hbyte : ∀ k, memByte t k = memByte s k := fun k => congrArg (fun m => smGet memDefault m k) h
  induction n generalizing a with
  | zero => rfl
  | succ n ih =>
    show memByte t a :: memRead t (a + 1) n = memByte s a :: memRead s (a + 1) n
    rw [hbyte, ih]

/-! ### The table cache -/

/-- Dropping fills leaves the lines and the state of the maintenance. -/
theorem tcDrop_memc {p : Nat → Bool} {s : State} : (tcDrop p s).memc =
    { s.memc with tcFlight := s.memc.tcFlight.map (fun f => if p f.line then { f with drop := true } else f) } :=
  count_keeps.memc_eq rfl

theorem tcKeep_memc {p : Nat × Nat → Bool} {s : State} : (tcKeep p s).memc = { s.memc with tcLines := s.memc.tcLines.filter p } := rfl

/-- An invalidation of all lines takes every line. -/
theorem tcCovers_all {t : TcMaint} {l : Nat} (h : t.op = 1) : tcCovers t l = true := by simp [tcCovers, h]

/-- The state in which a maintenance that takes all lines has dropped the lines and the fills in flight. -/
theorem tcMaint_all {s : State} (hidle : isSet s F.TC_MAINT_BUSY = false) :
    ∃ u, tcMaint 1 0 0 s = (setF F.TC_MAINT_BUSY 1 u, 0) ∧ u.memc.tcLines = [] ∧
      u.memc.tcFlight = s.memc.tcFlight.map (fun f => { f with drop := true }) := by
  unfold tcMaint
  dsimp only
  rw [if_neg (by decide), if_neg fun h => h.elim (by rw [hidle]; exact Bool.false_ne_true) fun h => h.1 rfl]
  refine ⟨_, rfl, ?_, ?_⟩
  · rw [if_neg (by decide), tcDrop_memc, tcKeep_memc]
    exact List.filter_eq_nil_iff.mpr fun e _ => by simp [tcCovers_all]
  · rw [if_neg (by decide), tcDrop_memc, tcKeep_memc]
    exact List.map_congr_left fun f _ => if_pos (tcCovers_all rfl)

/-- A miss counts and puts the line in flight. -/
theorem tcMiss_memc {l : Nat} {s : State} (h : s.memc.tcFlight = []) :
    (tcMiss l s).memc = { s.memc with tcFlight := [⟨l, false, false⟩] } := by
  have hmemc : (count R.TC_MISS_LO 1 s).memc = s.memc := count_keeps.memc_eq rfl
  unfold tcMiss
  dsimp only
  rw [hmemc, h, if_neg (by simp)]
  rfl

/-- A miss leaves every register beside the counter and the block's fault group. -/
theorem tcMiss_rdN {l a : Nat} {s : State} (hlo : a ≠ R.TC_MISS_LO) (hhi : a ≠ R.TC_MISS_LO + 4)
    (hg : a < groupBase ((blockOf R.TC_MISS_LO).getD 0) ∨ groupBase ((blockOf R.TC_MISS_LO).getD 0) + 32 ≤ a) :
    rdN (tcMiss l s) a = rdN s a := by
  unfold tcMiss
  dsimp only
  split
  · exact rdN_count_apart hlo hhi hg
  · exact rdN_count_apart hlo hhi hg

/-- A register that a miss leaves alone: none of the counter's pair and of the fault group of the cache's block. -/
def missApart (a : Nat) : Bool :=
  decide (a ≠ R.TC_MISS_LO ∧ a ≠ R.TC_MISS_LO + 4 ∧
    (a < groupBase ((blockOf R.TC_MISS_LO).getD 0) ∨ groupBase ((blockOf R.TC_MISS_LO).getD 0) + 32 ≤ a))

theorem tcMiss_getF {l : Nat} {f : Fld} {s : State} (h : missApart f.addr = true) : getF (tcMiss l s) f = getF s f := by
  obtain ⟨hlo, hhi, hg⟩ := of_decide_eq_true h
  exact getF_of_rdN (tcMiss_rdN hlo hhi hg)

/-- The state with no fill in flight. -/
abbrev noFlight (s : State) : State := { s with memc := { s.memc with tcFlight := [] } }

/-- A line put into an empty cache stands alone, with the bytes that DRAM holds. -/
theorem tcPut_empty {l w : Nat} {s : State} (hl : l < 2 ^ 32) (h : s.memc.tcLines = []) :
    (tcPut l w s).memc = { s.memc with tcLines := [(l, w)] } ∧
      memRead (tcPut l w s) (space 9 (l * 128)) 128 = memRead s (space 1 (l * 128)) 128 := by
  have hnone : ∀ e ∈ (tcKeep (fun e => decide (e.1 ≠ l) && !decide (tcSet e.1 = tcSet l ∧ e.2 = w)) s).mem,
      e.1 < space 9 (l * 128) ∨ space 9 (l * 128) + (memRead s (space 1 (l * 128)) 128).length ≤ e.1 := by
    intro e he
    have hkept : e.1 / 2 ^ 64 ≠ 9 := by
      simp only [tcKeep, smKeep, h, List.filter_nil, List.any_nil, Bool.or_false, List.mem_filter, decide_eq_true_eq] at he
      exact he.2
    rw [memRead_length]
    unfold space
    omega
  have hread := memRead_memWrite_absent (l := memRead s (space 1 (l * 128)) 128) (a := space 9 (l * 128)) hnone
  rw [memRead_length] at hread
  constructor
  · unfold tcPut tcKeep
    rw [h]
    rfl
  · exact hread

theorem tcVictim_empty {l : Nat} {s : State} (h : s.memc.tcLines = []) (hlock : getF s F.TC_LOCK = 0) : tcVictim s l = some 0 := by
  unfold tcVictim tcLocked
  rw [h, hlock]
  rfl

/-- A good line of DRAM that arrives for a fill under way is held, where the cache is empty and takes no more with it. -/
theorem tcArrive_empty {l : Nat} {s : State} (hl : l < 2 ^ 32) (hflight : s.memc.tcFlight = [⟨l, false, false⟩])
    (hlines : s.memc.tcLines = []) (hmaint : s.memc.tcMaint = none) (hlock : getF s F.TC_LOCK = 0)
    (hpref : isSet s F.TC_PREFETCH = false) (hgood : isBad s 3 (l * 128) = false) :
    (tcArrive l .ok s).memc.tcLines = [(l, 0)] ∧ (tcArrive l .ok s).memc.tcFlight = [] ∧
      memRead (tcArrive l .ok s) (space 9 (l * 128)) 128 = memRead s (space 1 (l * 128)) 128 := by
  have hread : eccRead 3 (l * 128) 4 .ok (noFlight s) = (noFlight s, true) := by
    have hgood1 : isBad (noFlight s) 3 (l * 128) = false := hgood
    unfold eccRead
    rw [hgood1]
    rfl
  have hput : tcArrive l .ok s = tcPut l 0 (noFlight s) := by
    have hfind : ([⟨l, false, false⟩] : List TcFlight).find? (fun f => decide (f.line = l)) = some ⟨l, false, false⟩ :=
      List.find?_cons_of_pos (by simp)
    have hrest : ([⟨l, false, false⟩] : List TcFlight).filter (fun g => decide (g.line ≠ l)) = [] := by simp
    have hputPref : isSet (tcPut l 0 (noFlight s)) F.TC_PREFETCH = false := (isSet_of_regs (tcPut_keeps.regs_eq rfl)).trans hpref
    unfold tcArrive
    rw [hflight, hfind]
    dsimp only
    rw [hrest, hread]
    dsimp only
    rw [if_neg (by decide), if_neg (by decide), hmaint]
    dsimp only
    rw [if_neg (by decide), tcVictim_empty (s := noFlight s) hlines hlock]
    dsimp only
    have hmiss : ([] : List (Nat × Nat)).any (fun e => decide (e.1 = l)) = false := rfl
    simp only [hlines, hmiss, hputPref, Bool.false_eq_true, if_false, Bool.and_false, Bool.false_and]
  rw [hput]
  obtain ⟨hmemc, hbytes⟩ := tcPut_empty (w := 0) (s := noFlight s) hl hlines
  exact ⟨congrArg MemSt.tcLines hmemc, congrArg MemSt.tcFlight hmemc, hbytes.trans rfl⟩

theorem isBad_of_good {a : Nat} {s : State} (ha : a < 2 ^ 64) (hbad : ∀ k ∈ s.bad, k / 2 ^ 64 ≠ 3) (hoff : dramOff s = false) :
    isBad s 3 a = false := by
  have hnot : s.bad.contains (badKey 3 a) = false := by
    rw [Bool.eq_false_iff]
    intro h
    refine hbad _ (List.contains_iff_mem.mp h) ?_
    unfold badKey space memUnit
    rw [if_neg (by decide)]
    omega
  unfold isBad
  rw [hnot, hoff]
  rfl

/-- A line that arrives for a fill that was dropped holds nothing. -/
theorem tcArrive_dropped {l : Nat} {s : State} (hflight : s.memc.tcFlight = [⟨l, false, true⟩]) :
    (tcArrive l .ok s).memc.tcLines = s.memc.tcLines ∧ (tcArrive l .ok s).memc.tcFlight = [] := by
  have hfind : ([⟨l, false, true⟩] : List TcFlight).find? (fun f => decide (f.line = l)) = some ⟨l, false, true⟩ :=
    List.find?_cons_of_pos (by simp)
  have hrest : ([⟨l, false, true⟩] : List TcFlight).filter (fun g => decide (g.line ≠ l)) = [] := by simp
  unfold tcArrive
  rw [hflight, hfind]
  dsimp only
  rw [hrest]
  have hread : (eccRead 3 (l * 128) 4 .ok (noFlight s)).1.memc = (noFlight s).memc := by
    unfold eccRead
    split
    · exact eccUe_keeps.memc_eq rfl
    · rfl
  generalize eccRead 3 (l * 128) 4 .ok (noFlight s) = x at hread
  split
  · have hlost : (x.1 |> count R.TC_UE_REFILL_LO 1 |> raise 17 0x0810 1 3 0).memc = (noFlight s).memc :=
      ((raise_mild_keeps (by decide)).memc_eq rfl).trans ((count_keeps.memc_eq rfl).trans hread)
    rw [hlost]
    exact ⟨rfl, rfl⟩
  · rw [if_pos rfl, hread]
    exact ⟨rfl, rfl⟩

/-- DRAM's rate and clock are as before a miss. -/
theorem dramOff_tcMiss {l : Nat} {s : State} : dramOff (tcMiss l s) = dramOff s := by
  unfold dramOff
  rw [tcMiss_getF (by decide), tcMiss_keeps.clk_eq rfl]

/-- TC_FILL_DONE of a line within DRAM starts the fill where none is under way, and the line arrives. -/
theorem execTcFillDone_arrives {line : BitVec 32} {s : State} (hdom : domOn s 14 = true) (hen : isSet s F.TC_EN = true)
    (hsize : (line.toNat + 1) * 128 ≤ memSize s 3) :
    execTcFillDone line false false .ok [] s = .next (tcArrive line.toNat .ok (tcStart line.toNat false false s)) := by
  unfold execTcFillDone
  dsimp only
  rw [hdom, hen, decide_eq_false (Nat.not_lt.mpr hsize), if_neg (by decide), if_neg (by decide)]
  rfl

/-- A load of a descriptor whose words are allowed, a fill of a place that the channel may write, runs it. -/
theorem dmaLoad_fill {n : Nat} {s : State} (hok : dmaDescOk s n (dmaDesc s n) = true) (hfill : (dmaDesc s n).dop = 2)
    (haddr : dmaAddrOk s n (dmaDesc s n).dspace (dmaDesc s n).dst (dmaDesc s n).len true = true)
    (hdom : domOn s (spaceDom (dmaDesc s n).dspace) = true) :
    dmaLoad n s = ({ s with memc := { s.memc with dma := setAt s.memc.dma n (some (dmaDesc s n)) } }
      |> setF (F.DMA_STATE n) 2 |> setF (F.DMA_ERR_CODE n) 0 |> wr (R.DMA_CH_BYTES n) 0) := by
  unfold dmaLoad
  dsimp only
  rw [hok, if_neg (by decide), if_neg (by rw [hfill]; simp), haddr, if_neg (by decide), if_neg (by rw [hfill]; simp), hdom,
    if_neg (by decide)]

theorem dmaLoad_refused {n : Nat} {s : State} (hok : dmaDescOk s n (dmaDesc s n) = false) :
    dmaLoad n s = dmaHalt n 0x0016 (rdN s (R.DMA_CH_DESC n)) s := by
  unfold dmaLoad
  dsimp only
  rw [hok, if_pos (by decide)]

/-- A channel that stands idle or stopped with nothing lost loads its descriptor. -/
theorem dmaGo_loads {n : Nat} {s : State} (hstate : getF s (F.DMA_STATE n) = 1 ∨ getF s (F.DMA_STATE n) = 4)
    (hkept : s.memc.dmaDropped.getD n false = false) : dmaGo n s = dmaLoad n s := by
  unfold dmaGo
  rw [if_pos hstate, hkept]
  rfl

/-- Settles O48: a fill runs through a miss and an arrival, stated for an empty cache; the rest takes the branch of its guard. -/
theorem tableCacheAndDma : Obligations.TableCacheAndDma := by
  unfold Obligations.TableCacheAndDma
  refine ⟨fun p s hgo hidle => ?all, fun p lines s hgo => congrArg Host.Outcome.next (busAct_of_writeGoes hgo),
    fun p way lines s hgo => congrArg Host.Outcome.next (busAct_of_writeGoes hgo), fun op way lines s hop hbad => ?maintRefused,
    fun t s ht hop => ?maintDone, fun line s hdom hen hsize hlines hmaint hlock hpref hbad hoff hflight => ?fill,
    fun line s hdom hen hsize hflight => ?dropped, fun p n s hgo hstate hkept hok hfill haddr hdom => ?go,
    fun p n s hgo hstate hkept hok => ?goRefused, fun p n s hgo => congrArg Host.Outcome.next (busAct_acc_of_writeGoes hgo),
    fun p n s hgo => congrArg Host.Outcome.next (busAct_acc_of_writeGoes hgo),
    fun p n s hgo => congrArg Host.Outcome.next (busAct_acc_of_writeGoes hgo), fun n ok host s hstate hfill hspace => ?done,
    fun p s hgo => congrArg Host.Outcome.next (busAct_acc_of_writeGoes hgo)⟩
  case all =>
    obtain ⟨u, hu, hlines, hflight⟩ := tcMaint_all hidle
    refine ⟨u, congrArg Host.Outcome.next ((busAct_of_writeGoes hgo).trans ?_), hlines, hflight⟩
    rw [hu]
  case maintRefused =>
    unfold tcMaint
    dsimp only
    rw [if_neg (by omega), if_pos]
    rcases hbad with h | h | h
    · exact Or.inl h
    · exact Or.inr ⟨by omega, Or.inl h⟩
    · exact Or.inr ⟨by omega, Or.inr (Or.inl h)⟩
  case maintDone =>
    show execTcMaintDone s = _
    unfold execTcMaintDone
    rw [ht]
    dsimp only
    rw [if_neg hop]
  case fill =>
    have hl : line.toNat < 2 ^ 32 := line.isLt
    have hstart : tcStart line.toNat false false s = tcMiss line.toNat s := by
      unfold tcStart
      rw [hflight, hlines]
      rfl
    have hmemc := tcMiss_memc (l := line.toNat) hflight
    have hbad' : ∀ k ∈ (tcMiss line.toNat s).bad, k / 2 ^ 64 ≠ 3 := by
      rw [← tcMiss_keeps.same .bad rfl]
      exact hbad
    obtain ⟨hheld, hnone, hbytes⟩ := tcArrive_empty hl (congrArg MemSt.tcFlight hmemc) ((congrArg MemSt.tcLines hmemc).trans hlines)
      ((congrArg MemSt.tcMaint hmemc).trans hmaint) ((tcMiss_getF (by decide)).trans hlock)
      ((congrArg (fun n => decide (n = 1)) (tcMiss_getF (f := F.TC_PREFETCH) (by decide))).trans hpref)
      (isBad_of_good (by omega) hbad' (dramOff_tcMiss.trans hoff))
    refine ⟨_, execTcFillDone_arrives hdom hen hsize, ?_⟩
    rw [hstart]
    exact ⟨hheld, hnone, hbytes.trans (memRead_of_mem (tcMiss_keeps.mem_eq rfl))⟩
  case dropped =>
    have hstart : tcStart line.toNat false false s = s := by
      unfold tcStart
      rw [hflight]
      exact if_pos (by simp)
    refine ⟨_, execTcFillDone_arrives hdom hen hsize, ?_⟩
    rw [hstart]
    exact tcArrive_dropped hflight
  case go => exact congrArg Host.Outcome.next ((busAct_acc_of_writeGoes hgo).trans
      (congrArg (busAnswer p _ 0 0) ((dmaGo_loads hstate hkept).trans (dmaLoad_fill hok hfill haddr hdom))))
  case goRefused => exact congrArg Host.Outcome.next ((busAct_acc_of_writeGoes hgo).trans
      (congrArg (busAnswer p _ 0 0) ((dmaGo_loads (Or.inl hstate) hkept).trans (dmaLoad_refused hok))))
  case done =>
    show execDmaDescriptorDone n none ok host s = _
    unfold execDmaDescriptorDone
    dsimp only
    rw [if_neg (by omega), hfill, if_neg (by simp [hspace]), if_neg (by decide)]
    rfl

end Sys2Proof.Machine
end

section
/-! PROOFS. O47: fills, patrol, core traps and the memory commands. -/

set_option Elab.async false

namespace Sys2Proof.Machine

/-! ### Memory errors -/

/-- A value other than the default reads back where it was put, in a list of any form. -/
theorem smGet_smPut_listed {α : Type} [DecidableEq α] {d : Nat → α} {l : List (Nat × α)} {k : Nat} {v : α} (h : v ≠ d k) :
    smGet d (smPut d l k v) k = v := by
  have hcons : ∀ r, smGet d (smCons d k v r) k = v := by
    intro r
    unfold smCons
    rw [if_neg h]
    exact if_pos rfl
  induction l with
  | nil => exact hcons []
  | cons e r ih =>
    unfold smPut
    split
    · exact hcons _
    · split
      · exact hcons _
      · rename_i hk
        exact (if_neg (Ne.symm hk)).trans ih

/-- A flag that is clear at reset reads 1 where it was set, in a register file of any form. -/
theorem isSet_setF_listed {f : Fld} {s : State} (hok : f.ok = true) (hw : f.width = 1)
    (hreset : bitsAt (resetWord f.addr).toNat f.lo f.width = 0) : isSet (setF f 1 s) f = true := by
  have hlt := putBits_lt (v := 1) (rdN_lt s f.addr) (of_decide_eq_true hok)
  have hbit : bitsAt (BitVec.ofNat 32 (putBits (rdN s f.addr) f.lo f.width 1)).toNat f.lo f.width = 1 := by
    rw [BitVec.toNat_ofNat, Nat.mod_eq_of_lt hlt]
    exact (bitsAt_putBits _ _ _ _).trans (congrArg (fun w => 1 % 2 ^ w) hw)
  have hnew : BitVec.ofNat 32 (putBits (rdN s f.addr) f.lo f.width 1) ≠ resetWord f.addr := by
    intro h
    rw [h, hreset] at hbit
    exact absurd hbit (by decide)
  refine decide_eq_true (Eq.trans (congrArg (fun w : Word => bitsAt w.toNat f.lo f.width) ?_) hbit)
  exact smGet_smPut_listed hnew

/-! ### Fills, patrol, core traps and the memory commands -/

/-- A read of a unit succeeds where the unit is good and the read finds no uncorrectable error. -/
theorem eccRead_ok {m a src : Nat} {r : EccRes} {s : State} : (eccRead m a src r s).2 = !(isBad s m a || decide (r = .ue)) := by
  unfold eccRead
  split
  · rename_i h
    rw [h]
    rfl
  · rename_i h
    rw [Bool.not_eq_true] at h
    rw [h]
    split
    · rfl
    · rfl

/-- The Cellar's size, by cases on the memory's number: the kernel would compare the size and its product as numerals. -/
theorem memSize_cellar {k : Nat} {s : State} (h : k = 0) : memSize s k = 64 * 2 ^ 20 := by
  unfold memSize
  split
  · rfl
  · exact absurd h (by decide)
  · exact absurd h (by decide)
  · exact absurd h (by decide)
  · rename_i hne _ _ _
    exact absurd h hne

/-- Settles O47: a flag of a fault reads back as set in a register file of any form; no row but a retirement changes a byte. -/
theorem memoryErrorsAndCommands : Obligations.MemoryErrorsAndCommands := by
  unfold Obligations.MemoryErrorsAndCommands
  refine ⟨fun p s hgo hfill => ?cellar, fun p s hgo hfill hdone => ?dram, fun s hfill => ?filled, fun q s hfill hsize hptr => ?filledTo,
    fun r s hdom15 hdom14 hen hsize => ?patrol, fun m s hwin hraised => ?window, fun core off s hrun hue htrap => ?fetchFirst,
    fun core off x s hrun hue hpage hrecent => ?fetchAgain, fun core s htrap => ⟨_, if_pos htrap, rfl, rfl⟩,
    fun core addr s hrun hsize => ?dataTrap, fun m s hu hrun hk => ?stats, fun m r s hu hrun hk ha hunit => ?rewrite,
    fun m s hu hrun hk ha hpage hnone => ?retire⟩
  case cellar => exact congrArg Host.Outcome.next ((busAct_acc_of_writeGoes hgo).trans (congrArg (busAnswer p _ 0 0) (if_pos hfill)))
  case dram => exact congrArg Host.Outcome.next ((busAct_acc_of_writeGoes hgo).trans (congrArg (busAnswer p _ 0 0) (if_pos ⟨hfill, hdone⟩)))
  case filled =>
    show ∃ t, execEccFillDone none s = _ ∧ _
    unfold execEccFillDone
    simp only [hfill]
    refine ⟨_, if_neg (Nat.lt_irrefl _), ?_, ?_, isSet_setF_listed rfl rfl (by decide +kernel), ?_, ?_⟩
    · rw [setF_memc]
    · rw [setF_bring]
    · rw [setF_mem]
    · rw [setF_bad]
  case filledTo =>
    show execEccFillDone (some q) s = _
    unfold execEccFillDone
    simp only [hfill]
    exact (if_pos hsize).trans (if_neg (Nat.not_lt.mpr hptr))
  case patrol =>
    refine ⟨_, if_neg (by simp [hdom15, hdom14, hen, hsize]), rfl, rfl, eccRead_keeps.mem_eq rfl⟩
  case window =>
    exact ⟨_, rfl, getD_setAt_same (by rw [hwin]; exact m.isLt), getD_setAt_same (by rw [hraised]; exact m.isLt), rfl⟩
  case fetchFirst =>
    show execCoreFetchUeTrap core off s = _
    unfold execCoreFetchUeTrap
    have hmemc : (eccUe 1 (core.val * 2 ^ 20 + off.toNat) 0 s).memc = s.memc := eccUe_keeps.memc_eq rfl
    dsimp only
    rw [hrun, if_neg (by decide), hmemc, hue, htrap]
    rfl
  case fetchAgain =>
    show ∃ u, execCoreFetchUeTrap core off s = _ ∧ _
    unfold execCoreFetchUeTrap
    dsimp only
    rw [hrun, if_neg (by decide), hue, List.any_cons, decide_eq_true ⟨hpage, hrecent⟩]
    exact ⟨_, rfl, rfl⟩
  case dataTrap =>
    have hgo : ¬ (!s.pwr.coresRunning || decide (memSize s 1 ≤ addr.toNat)) = true := by
      rw [hrun, decide_eq_false (Nat.not_le.mpr hsize)]
      decide
    exact ⟨if_neg hgo, if_neg hgo⟩
  case stats =>
    refine ⟨_, congrArg Host.Outcome.next (mbxRow_of_answer (t := begun m s) hrun rfl ?_), mbxReturns_mbxEnds (begun_units hu), rfl⟩
    dsimp only
    rw [if_neg (Nat.not_lt.mpr hk)]
    rfl
  case rewrite =>
    let x := eccRead 3 (par (mbxAt s m).cmd 8 56) ((takeFree (begun m s)).1.toNat % 8) r (takeFree (begun m s)).2
    have hok : x.2 = !(isBad s 3 (par (mbxAt s m).cmd 8 56) || decide (r = .ue)) := eccRead_ok
    refine ⟨_, congrArg Host.Outcome.next (mbxRow_of_answer
      (r := resStatus (if isBad s 3 (par (mbxAt s m).cmd 8 56) || decide (r = .ue) then 0x0810 else 0)) (t := x.1) hrun rfl ?_),
      mbxAnswered_mbxEnds (eccRead_keeps.units (takeFree_keeps.units (begun_units hu))), ?_⟩
    · have hsize : ¬ memSize (begun m s) 3 ≤ par (mbxAt s m).cmd 8 56 := Nat.not_le.mpr ha
      dsimp only
      rw [hk, if_neg (by simp [hsize, hunit, memUnit]), if_neg (c := (3 : Nat) = 4) (by decide)]
      show (if x.2 = true then answer 0 x.1 else answer 0x0810 x.1) = _
      rw [hok]
      cases isBad s 3 (par (mbxAt s m).cmd 8 56) || decide (r = .ue)
      · rfl
      · rfl
    · exact (mbxEnds_keeps.mem_eq rfl).trans ((eccRead_keeps.mem_eq rfl).trans rfl)
  case retire =>
    refine ⟨_, congrArg Host.Outcome.next (mbxRow_of_answer (r := resStatus 0)
      (t := { begun m s with nv := { s.nv with retired := [(0, par (mbxAt s m).cmd 8 56 / 4096)] } }) hrun rfl ?_),
      mbxAnswered_mbxEnds (begun_units hu), rfl⟩
    have hnone' : (begun m s).nv.retired = [] := hnone
    have hsize : ¬ memSize (begun m s) 0 ≤ par (mbxAt s m).cmd 8 56 := by
      rw [memSize_cellar rfl]
      exact Nat.not_le.mpr ha
    dsimp only
    rw [hk, hnone', if_neg (by simp only [hsize, hpage]; decide), if_neg (by simp), if_neg (by simp), if_neg (by decide)]
    rfl

end Sys2Proof.Machine
end

section
/-! PROOFS. O43: the mailbox protocol. -/

set_option Elab.async false

namespace Sys2Proof.Machine

/-! ### The mailbox protocol -/

/-- A full completion queue writes the registers of block 13's fault group only. -/
theorem rdN_raise_cqFull {q a : Nat} {s : State} (h : a < groupBase 13 ∨ groupBase 13 + 32 ≤ a) :
    rdN (raise 13 0x0612 2 q 0 s) a = rdN s a := by
  have hcount : ∀ x : State, countRepeat 13 0x0612 q x = x := fun _ => rfl
  unfold raise raiseLive
  dsimp only
  split
  · rfl
  · rw [if_neg (by decide), if_pos rfl, hcount]
    exact rdN_raiseCore_apart h

/-- A completion writes the registers of block 13's fault group only. -/
theorem rdN_nvPost {id q cid st dw0 dw1 a : Nat} {s : State} (h : a < groupBase 13 ∨ groupBase 13 + 32 ≤ a) :
    rdN (nvPost id q cid st dw0 dw1 s) a = rdN s a := by
  have hirq : ∀ (id q : Nat) (x : State), rdN (cqIrq id q x) a = rdN x a := by
    intro id q x
    unfold cqIrq
    split
    · rfl
    · split
      · rfl
      · split
        · exact (rdN_of_regs msix_regs).trans rfl
        · rfl
  unfold nvPost
  split
  · rfl
  · split
    · rfl
    · split
      · rfl
      · split
        · unfold cqeWrite
          dsimp only
          rw [hirq]
          split
          · rfl
          · rfl
        · dsimp only
          split
          · rw [rdN_raise_cqFull h]
            split
            · exact (rdN_of_regs msix_regs).trans rfl
            · rfl
          · rfl

/-- Ending the receives of a mailbox leaves the mailboxes' state registers. -/
theorem mbxState_receivesEnd {m : Fin 16} {s : State} : mbxState (receivesEnd m s) m = mbxState s m := by
  unfold receivesEnd
  refine foldl_same (g := fun s => mbxState s m) fun x e => ?_
  refine getF_of_rdN ((rdN_nvPost (Or.inl ?_)).trans rfl)
  show 0x18000 + 4 * m.val < 0x420200
  have := m.isLt
  omega

/-- A mailbox that returns to IDLE reads IDLE. -/
theorem mbxState_mbxIdle {m : Fin 16} {s : State} (h : RegsWf s) : mbxState (mbxIdle m s) m = 0 := by
  have hidle : RegsWf { s with mbx := setAt s.mbx m mbxEmpty } := h
  refine mbxState_receivesEnd.trans ((getF_setF_apart (g := F.MBX_STATE m) (regsWf_setF hidle) rfl (by simp [Fld.apart])).trans ?_)
  rw [getF_setF_same hidle rfl]
  rfl

/-- Settles O43: each row is taken by the mailbox's state, which the completions that follow leave. -/
theorem mailboxProtocol : Obligations.MailboxProtocol := by
  unfold Obligations.MailboxProtocol
  refine ⟨fun body s hlive => ?arrival, fun t body s hnone => ?noIdle,
    fun p m s hgo => congrArg Host.Outcome.next (busAct_acc_of_writeGoes hgo),
    fun p m s hgo => congrArg Host.Outcome.next (busAct_acc_of_writeGoes hgo),
    fun p m s hgo => congrArg Host.Outcome.next (busAct_acc_of_writeGoes hgo),
    fun m moved host s hstate hlive => if_pos ⟨hstate, hlive⟩, fun m st s hcheck => ?refused,
    fun m moved r s hres hstate => ?complete, fun m moved r s hu hwf hpend => ?pendingReset,
    fun c v m s htaken hkind hxfer hfit hidle => ?sent, fun c v s htaken hkind hholder htag hstate => ?received,
    fun req p s hup hctl => ?flash, fun req f s hup hctl => ⟨fun hv => ?noVol, fun v hv hgroup => ?noGroup,
      fun v hv hgroup hroom hadmits => ?taken⟩⟩
  case arrival =>
    have hgo : ¬ (!sidebandLive s) = true := by rw [hlive]; decide
    refine ⟨if_neg hgo, fun b hb => (if_neg hgo).trans ?_, fun hbad => (if_neg hgo).trans ?_, fun hup => (if_neg hgo).trans (if_pos hup),
      fun hdown => (if_neg hgo).trans (if_neg (Bool.eq_false_iff.mp hdown))⟩
    · rw [if_neg (by decide), if_pos rfl, hb]
    · rw [if_neg (by decide), if_pos rfl, hbad]
  case noIdle =>
    unfold arrive
    rw [hnone]
    rfl
  case refused =>
    unfold handlerTake
    dsimp only
    rw [hcheck]
  case complete =>
    show execMbxComplete m moved s = _
    unfold execMbxComplete
    rw [hres]
    exact if_pos hstate
  case pendingReset =>
    unfold complete
    dsimp only
    rw [if_pos hpend]
    exact mbxState_mbxIdle (giveExt_keeps.regsWf (fenceDrop_keeps.regsWf hwf))
  case sent =>
    refine ⟨_, congrArg Host.Outcome.next (nvRow_taken htaken), ?_⟩
    dsimp only
    rw [if_neg hkind, hxfer, if_neg (by decide), if_neg (Nat.not_lt.mpr hfit), hidle]
  case received =>
    refine congrArg Host.Outcome.next ((nvRow_taken htaken).trans ?_)
    dsimp only
    rw [if_neg hkind, if_neg]
    rintro (h | h | h)
    · exact h hholder
    · exact Nat.one_le_iff_ne_zero.mp hstate h
    · exact h htag
  case flash =>
    show execForwardedRequestReceived req (.flash p) s = _
    unfold execForwardedRequestReceived
    rw [hup, hctl, if_neg (by decide)]
    dsimp only
    cases chOwned s (ppaCh p)
    · rfl
    · rfl
  case noVol =>
    show execForwardedRequestReceived req (.host f) s = _
    unfold execForwardedRequestReceived
    rw [hup, hctl, if_neg (by decide)]
    dsimp only
    rw [hv]
  case noGroup =>
    show execForwardedRequestReceived req (.host f) s = _
    unfold execForwardedRequestReceived
    rw [hup, hctl, if_neg (by decide)]
    dsimp only
    rw [hv]
    dsimp only
    rw [hgroup]
    rfl
  case taken =>
    show execForwardedRequestReceived req (.host f) s = _
    unfold execForwardedRequestReceived
    rw [hup, hctl, if_neg (by decide)]
    dsimp only
    rw [hv]
    dsimp only
    rw [hgroup, hroom, hadmits, if_neg (by decide), if_neg (by decide)]

end Sys2Proof.Machine
end

section
/-! PROOFS. O60: NVMe I/O and reservation commands. -/

set_option Elab.async false

namespace Sys2Proof.Machine

/-! ### NVMe I/O and reservation commands -/

/-- A command of an attached volume enters. -/
theorem nvEnter_attached {x : NvmeCmd} {k : NvCtrl} {v : Volume} {f : Volume → Cmd} {t : State}
    (h : nsVol t k x.nsid.toNat = some v) :
    nvEnter x k f t = enter { f v with src := .nvme x.ctrl x.sq x.cid.toNat, host := k.hostId } t := by
  unfold nvEnter
  rw [h]

theorem nvEnter_unattached {x : NvmeCmd} {k : NvCtrl} {f : Volume → Cmd} {t : State} (h : nsVol t k x.nsid.toNat = none) :
    nvEnter x k f t = nvDone x.ctrl x.sq x.cid.toNat 0x0714 false t := by
  unfold nvEnter
  rw [h]

/-- At most 2 MiB of an attached volume is within the size of a transfer. -/
theorem overMdts_within {x : NvmeCmd} {k : NvCtrl} {v : Volume} {t : State} (h : nsVol t k x.nsid.toNat = some v)
    (hlen : (lbaRange x v).2 ≤ 2097152) : overMdts x t k = false := by
  unfold overMdts
  rw [h]
  exact decide_eq_false (Nat.not_lt.mpr hlen)

theorem overMdts_unattached {x : NvmeCmd} {k : NvCtrl} {t : State} (h : nsVol t k x.nsid.toNat = none) : overMdts x t k = false := by
  unfold overMdts
  rw [h]

/-- A reservation command with a Host Identifier and its data enters over the whole volume. -/
theorem nvResv_enters {x : NvmeCmd} {k : NvCtrl} {v : Volume} {op : CmdOp} {t : State} (h : nsVol t k x.nsid.toNat = some v)
    (hlen : k.hostId.length = 16) (hid : k.hostId.all (fun b => b = 0) = false) (hxfer : x.xferOk = true) :
    nvResv x k op t = enter { { newCmd .internal op v.num 0 v.size true with whole := true } with
      src := .nvme x.ctrl x.sq x.cid.toNat, host := k.hostId } t := by
  unfold nvResv
  rw [hlen, hid, hxfer, if_neg (by decide), if_neg (by decide)]
  exact nvEnter_attached h

/-- Settles O60: a command of an attached volume enters, and a volume that is not attached gives no size to exceed. -/
theorem nvmeBlockCommands : Obligations.NvmeBlockCommands := by
  unfold Obligations.NvmeBlockCommands
  refine ⟨fun c x k s t htaken => congrArg Host.Outcome.next (nvRow_taken htaken),
    fun c x k v s t htaken hv hlen hxfer hdata => congrArg Host.Outcome.next ((nvRow_taken htaken).trans ?write),
    fun c x k v s t htaken hv hlen => congrArg Host.Outcome.next ((nvRow_taken htaken).trans ?read),
    fun c x k v s t htaken hv => congrArg Host.Outcome.next ((nvRow_taken htaken).trans (nvEnter_attached hv)),
    fun c x k v s t htaken hv => congrArg Host.Outcome.next ((nvRow_taken htaken).trans (nvEnter_attached hv)),
    fun c x k v s t htaken hv hdeal hxfer => congrArg Host.Outcome.next ((nvRow_taken htaken).trans ?deallocate),
    fun c x k s t htaken hdeal => congrArg Host.Outcome.next ((nvRow_taken htaken).trans (if_pos hdeal)),
    fun c x k s t htaken hv => congrArg Host.Outcome.next ((nvRow_taken htaken).trans ?readNone),
    fun c x k v s t htaken hv hlen hid hxfer => congrArg Host.Outcome.next ((nvRow_taken htaken).trans (nvResv_enters hv hlen hid hxfer)),
    fun c x k v s t htaken hv hlen hid hxfer => congrArg Host.Outcome.next ((nvRow_taken htaken).trans (nvResv_enters hv hlen hid hxfer)),
    fun c x k v s t htaken hv hlen hid hxfer => congrArg Host.Outcome.next ((nvRow_taken htaken).trans (nvResv_enters hv hlen hid hxfer)),
    fun c x k s t htaken hnone => congrArg Host.Outcome.next ((nvRow_taken htaken).trans (if_pos (Or.inl (by rw [hnone]; decide)))),
    fun c x k v s t htaken hv hlen hext hana => congrArg Host.Outcome.next ((nvRow_taken htaken).trans ?report)⟩
  case write =>
    rw [overMdts_within hv hlen, if_neg (by decide), nvEnter_attached hv]
    dsimp only
    rw [if_pos ⟨hxfer, hdata⟩]
    rfl
  case read =>
    rw [overMdts_within hv hlen, if_neg (by decide)]
    exact nvEnter_attached hv
  case deallocate =>
    rw [hdeal, hxfer, if_neg (by decide), if_neg (by decide)]
    exact nvEnter_attached hv
  case readNone =>
    rw [overMdts_unattached hv, if_neg (by decide)]
    exact nvEnter_unattached hv
  case report =>
    rw [hlen, hext, if_neg (by decide), hv]
    exact if_neg hana

end Sys2Proof.Machine
end

section
/-! PROOFS. O59: NVMe queues and controllers. -/

set_option Elab.async false

namespace Sys2Proof.Machine

/-! ### NVMe queues and controllers -/

/-- The row of a PCIe controller's command. -/
theorem nvRow_pcieOnly {op : Nat} {c x : NvmeCmd} {k : NvCtrl} {s t : State} {f : NvmeCmd → NvCtrl → State → State}
    (h : nvTaken op true c s = some (x, k, t)) (hk : k.kind = 0) :
    nvRow op true c (fun c k s => pcieOnly c k (f c k) s) s = f x k t :=
  (nvRow_taken h).trans (if_pos hk)

/-- Settles O59: each row is taken for its controller, and the queue or the completion named is what its operation leaves. -/
theorem nvmeQueuesAndControllers : Obligations.NvmeQueuesAndControllers := by
  unfold Obligations.NvmeQueuesAndControllers
  refine ⟨fun c x k s t htaken hk hq hnone hmin hmax hpc hiv => congrArg Host.Outcome.next ((nvRow_pcieOnly htaken hk).trans ?createCq),
    fun c x k s t htaken hk hq hnone hfree hmin hmax hpc hcq hcqk => congrArg Host.Outcome.next ((nvRow_pcieOnly htaken hk).trans ?createSq),
    fun c x k s t htaken hk hfree => congrArg Host.Outcome.next ((nvRow_pcieOnly htaken hk).trans ?noQueue),
    fun c x k s t htaken hk hq hsq hfetched hcmds => congrArg Host.Outcome.next ((nvRow_pcieOnly htaken hk).trans ?deleteSq),
    fun c x k s t htaken hk hq hcq hunused => congrArg Host.Outcome.next ((nvRow_pcieOnly htaken hk).trans ?deleteCq),
    fun c x k s t htaken hk hq hcq hused => congrArg Host.Outcome.next ((nvRow_pcieOnly htaken hk).trans ?cqUsed),
    fun c x k s t htaken => congrArg Host.Outcome.next (nvRow_taken htaken),
    fun n k s hctrl hk => ⟨fun hkato hlate => ?expired, fun hkato => ?noTimeout⟩,
    fun c x k s t htaken hk hlid => congrArg Host.Outcome.next ((nvRow_taken htaken).trans ?logPage),
    fun c x k s t htaken hcns => congrArg Host.Outcome.next ((nvRow_taken htaken).trans ?identify),
    fun c x k s t htaken => congrArg Host.Outcome.next (nvRow_taken htaken),
    fun c x k s t htaken hsave hfid => congrArg Host.Outcome.next ((nvRow_taken htaken).trans ?setTimeout),
    fun c x k s t htaken hsave hfid hlo hhi => congrArg Host.Outcome.next ((nvRow_taken htaken).trans ?setQueues),
    fun c x k s t htaken hfid => congrArg Host.Outcome.next ((nvRow_taken htaken).trans ?getTimeout),
    fun c x k s t htaken hev hroom => congrArg Host.Outcome.next ((nvRow_taken htaken).trans ?aerWaits),
    fun c x k s t htaken hev hfull => congrArg Host.Outcome.next ((nvRow_taken htaken).trans ?aerFull),
    fun sz kato id nqn hid s hadmits hdom hbring hsz hfree => ?connectAdmin,
    fun id q sz kato k hid s hadmits hdom hbring hq hctrl hkind hen hqid hnone hmin hmax hfree => ⟨_, rfl, ?connectQueue⟩,
    fun id cid k s hctrl hk hadmits hbring => ⟨?propertyGet, ?propertySet, fun hen => ?propertyClear⟩,
    fun id k s hctrl hk hsq => ?disconnect, fun c x op s t hknown htaken => ?unsupported,
    fun q tail k y cells s hreach hdom hctrl hsq htail => ?sqDoorbell, fun q hd k y s hreach hdom hctrl hcq hhead => ?cqDoorbell,
    fun q k y s hctrl hcq => ⟨fun hirq hcoal => ?aggregated, fun hcoal => ?nothingHeld⟩⟩
  case createCq =>
    dsimp only
    rw [if_neg (by rw [hq, hnone]; decide), if_neg (by omega), hpc, if_neg (by decide), if_neg (Nat.not_lt.mpr hiv)]
  case createSq =>
    dsimp only
    rw [if_neg (by rw [hq, hnone]; simp only [Nat.ne_of_gt hfree]; decide), if_neg (by omega), hpc, if_neg (by decide), if_neg]
    rintro (h | h)
    · exact hcq h
    · rw [Option.isNone_iff_eq_none.mp h] at hcqk
      cases hcqk
  case noQueue => exact if_pos (Or.inr (Or.inr hfree))
  case deleteSq =>
    dsimp only
    rw [if_neg, hfetched, hcmds]
    · rfl
    · rintro (h | h)
      · exact hq h
      · rw [Option.isNone_iff_eq_none.mp h] at hsq
        cases hsq
  case deleteCq =>
    dsimp only
    rw [if_neg, hunused, if_neg (by decide)]
    rintro (h | h)
    · exact hq h
    · rw [Option.isNone_iff_eq_none.mp h] at hcq
      cases hcq
  case cqUsed =>
    dsimp only
    rw [if_neg, hused, if_pos rfl]
    rintro (h | h)
    · exact hq h
    · rw [Option.isNone_iff_eq_none.mp h] at hcq
      cases hcq
  case expired =>
    show execKeepAliveExpiry n s = _
    unfold execKeepAliveExpiry
    rw [hctrl]
    exact if_pos ⟨hk, hkato, hlate⟩
  case noTimeout =>
    show execKeepAliveExpiry n s = _
    unfold execKeepAliveExpiry
    rw [hctrl]
    exact if_neg fun h => h.2.1 hkato
  case logPage =>
    dsimp only
    rw [if_neg hk]
    simp only [hlid]
  case identify =>
    simp only [hcns]
  case setTimeout =>
    dsimp only
    rw [hsave, if_neg (by decide)]
    simp only [hfid]
  case setQueues =>
    dsimp only
    rw [hsave, if_neg (by decide)]
    simp only [hfid]
    exact if_neg fun h => h.elim hlo hhi
  case getTimeout =>
    simp only [hfid]
  case aerWaits =>
    rw [hev]
    exact if_neg (Nat.not_le.mpr hroom)
  case aerFull =>
    rw [hev]
    exact if_pos hfull
  case connectAdmin =>
    show execFabricsConnect false 0xFFFF 0 sz kato nqn hid s = _
    unfold execFabricsConnect
    rw [if_neg (by simp [hadmits, hdom, hbring]), if_pos rfl, if_neg (by omega), if_neg (by decide), hfree]
    rfl
  case connectQueue =>
    show execFabricsConnect false id q sz kato k.hostNqn hid s = _
    unfold execFabricsConnect
    rw [if_neg (by simp [hadmits, hdom, hbring]), if_neg hq, hctrl]
    dsimp only
    rw [if_neg]
    rw [hkind, hqid, hnone, hen]
    simp only [ne_eq, not_true_eq_false, Option.isSome_none, Bool.false_eq_true, false_or, Bool.true_eq_false]
    omega
  case propertyGet =>
    show execFabricsPropertyGet id cid 0x1C s = _
    unfold execFabricsPropertyGet
    rw [hctrl]
    exact if_neg (by simp [hadmits, hbring, hk])
  case propertySet =>
    show execFabricsPropertySet id cid 0x14 1 s = _
    unfold execFabricsPropertySet
    rw [hctrl]
    dsimp only
    exact (if_neg (by simp [hadmits, hbring, hk])).trans ((if_neg (by decide)).trans
      (congrArg (fun t => Host.Outcome.next (nvPost id 0 cid 0 0 0 t)) (if_neg (c := k.cc % 2 = 1 ∧ 1 % 2 = 0) fun h => absurd h.2 (by decide))))
  case propertyClear =>
    show execFabricsPropertySet id cid 0x14 0 s = _
    unfold execFabricsPropertySet
    rw [hctrl]
    dsimp only
    exact (if_neg (by simp [hadmits, hbring, hk])).trans ((if_neg (by decide)).trans
      (congrArg (fun t => Host.Outcome.next (nvPost id 0 cid 0 0 0 t)) (if_pos (c := k.cc % 2 = 1 ∧ 0 % 2 = 0) ⟨hen, rfl⟩)))
  case disconnect =>
    show execFabricsDisconnect id 0 s = _
    unfold execFabricsDisconnect
    rw [hctrl]
    dsimp only
    rw [if_neg, if_pos rfl]
    rintro (h | h)
    · exact hk h
    · rw [Option.isNone_iff_eq_none.mp h] at hsq
      cases hsq
  case unsupported =>
    show execUnsupportedNvmeOpcode c op s = _
    unfold execUnsupportedNvmeOpcode
    dsimp only
    rw [hknown, if_neg (by decide), htaken]
  case sqDoorbell =>
    show execNvmeSqDoorbell q tail none cells s = _
    unfold execNvmeSqDoorbell
    dsimp only
    rw [if_neg (by rw [hreach, hdom]; decide), hctrl, Option.bind_some, hsq]
    exact if_pos htail
  case cqDoorbell =>
    show execNvmeCqDoorbell q hd s = _
    unfold execNvmeCqDoorbell
    dsimp only
    rw [if_neg (by rw [hreach, hdom]; decide), hctrl, Option.bind_some, hcq]
    exact if_pos hhead
  case aggregated =>
    show execAggregationTimeExpiry q s = _
    unfold execAggregationTimeExpiry
    dsimp only
    rw [hctrl, Option.bind_some, hcq]
    exact if_pos ⟨hirq, hcoal⟩
  case nothingHeld =>
    show execAggregationTimeExpiry q s = _
    unfold execAggregationTimeExpiry
    dsimp only
    rw [hctrl, Option.bind_some, hcq]
    exact if_neg fun h => absurd h.2 (by rw [hcoal]; decide)

end Sys2Proof.Machine
end

section
/-! PROOFS. O58: native queues. -/

set_option Elab.async false

namespace Sys2Proof.Machine

/-! ### Which mailbox waits for which queue's stop -/

/-- A function of a list's entries, read off the list of its values, where it gives the default of the default. -/
theorem getD_map_of_default {α β : Type} {g : α → β} {l : List α} {i : Nat} {d : α} {e : β} (h : g d = e) :
    (l.map g).getD i e = g (l.getD i d) := by
  induction l generalizing i with
  | nil => exact h.symm
  | cons a r ih =>
    cases i with
    | zero => rfl
    | succ i => exact ih

/-- The mailboxes that wait for the queues' stops. -/
def stopWaits (s : State) : List (Option Nat) := s.host.natq.map (fun x => x.stopMbx)

theorem stopMbx_eq_stopWaits {q : Nat} {s : State} : (natOf s q).stopMbx = (stopWaits s).getD q none := by
  unfold natOf stopWaits
  exact (getD_map_of_default (g := fun x : NatQ => x.stopMbx) rfl).symm

theorem stopWaits_of_host {s t : State} (h : t.host = s.host) : stopWaits t = stopWaits s := by
  unfold stopWaits
  rw [h]

theorem map_modAt {α β : Type} {g : α → β} {f : α → α} {l : List α} {i : Nat} (h : ∀ x, g (f x) = g x) :
    (modAt l i f).map g = l.map g := by
  induction l generalizing i with
  | nil => rfl
  | cons a r ih =>
    cases i with
    | zero => exact congrArg (· :: r.map g) (h a)
    | succ i => exact congrArg (g a :: ·) ih

theorem stopWaits_updNat {q : Nat} {f : NatQ → NatQ} {s : State} (h : ∀ x, (f x).stopMbx = x.stopMbx) :
    stopWaits (updNat q f s) = stopWaits s := map_modAt h

theorem ite_same {α : Type} {g : State → α} {p : Prop} [Decidable p] {a b : State} {x : α} (ha : g a = x) (hb : g b = x) :
    g (if p then a else b) = x := by
  split
  · exact ha
  · exact hb

/-- An operation that leaves the hosts' record alone leaves the waits. -/
theorem stopWaits_past {w : List Part} {s t : State} (k : Keeps w s t) (hw : w.contains .host = false := by rfl) :
    stopWaits t = stopWaits s := stopWaits_of_host (k.host_eq hw)

theorem stopWaits_msixOp {p : Prop} [Decidable p] {v : Nat} {s : State} :
    stopWaits ((if p then msix v else fun s => s) s) = stopWaits s := by
  split
  · exact stopWaits_past msix_keeps
  · rfl

theorem stopWaits_ringWrite {q : Nat} {b : List Byte} {s : State} : stopWaits (ringWrite q b s) = stopWaits s := by
  unfold ringWrite
  refine stopWaits_msixOp.trans ((stopWaits_past send_keeps).trans (Eq.trans (stopWaits_updNat fun _ => rfl) ?_))
  have hentry := ite_same (p := spaceReach s (natOf s q).cqSpace = true) (g := stopWaits) (stopWaits_past (spaceStore_keeps (s := s)
    (k := (natOf s q).cqSpace) (a := (natOf s q).cqAddr + 16 * ((natOf s q).cqProd % ringSize (natOf s q)))
    (l := modAt b 6 (fun v => if ((natOf s q).cqProd / ringSize (natOf s q)) % 2 = 0 then v ||| 1 else v)))) rfl
  exact ite_same ((stopWaits_past spaceStore_keeps).trans hentry) hentry

theorem stopWaits_natDrain {q n : Nat} {s : State} : stopWaits (natDrain q n s) = stopWaits s := by
  induction n generalizing s with
  | zero => exact stopWaits_past heldRefresh_keeps
  | succ n ih =>
    unfold natDrain
    dsimp only
    split
    · exact stopWaits_past heldRefresh_keeps
    · exact ite_same (stopWaits_past heldRefresh_keeps) (ih.trans (stopWaits_ringWrite.trans (stopWaits_updNat fun _ => rfl)))

theorem stopWaits_readCqCons {q : Nat} {s : State} : stopWaits (readCqCons q s) = stopWaits s :=
  ite_same (stopWaits_updNat fun _ => rfl) rfl

theorem stopWaits_natPost {q : Nat} {b : List Byte} {s : State} : stopWaits (natPost q b s) = stopWaits s := by
  have hroom : stopWaits (if ringFull (natOf s q) then s |> readCqCons q |> natDrain q 1100 else s) = stopWaits s :=
    ite_same (stopWaits_natDrain.trans stopWaits_readCqCons) rfl
  have hheld {x : State} : stopWaits (x |> updNat q (fun x => { x with held := x.held ++ [b] }) |> heldRefresh q) = stopWaits x :=
    (stopWaits_past heldRefresh_keeps).trans (stopWaits_updNat fun _ => rfl)
  unfold natPost
  exact ite_same (stopWaits_ringWrite.trans hroom) (ite_same ((stopWaits_past raise_keeps).trans (stopWaits_msixOp.trans
    ((stopWaits_past setF_keeps).trans (hheld.trans hroom)))) (hheld.trans hroom))

theorem stopWaits_endPublished {q st n : Nat} {s : State} : stopWaits (endPublished q st n s) = stopWaits s := by
  induction n generalizing s with
  | zero => rfl
  | succ n ih =>
    exact ite_same rfl (ih.trans (stopWaits_natPost.trans ((stopWaits_past putSqCons_keeps).trans (stopWaits_updNat fun _ => rfl))))

theorem stopWaits_natError {q idx n st : Nat} {s : State} : stopWaits (natError q idx n st s) = stopWaits s :=
  (stopWaits_past setF_keeps).trans ((stopWaits_past setF_keeps).trans (Eq.trans (stopWaits_updNat fun _ => rfl)
    (ite_same (stopWaits_past spaceStore_keeps) rfl)))

theorem stopWaits_readSqProd {q : Nat} {s : State} : stopWaits (readSqProd q s) = stopWaits s :=
  ite_same rfl (ite_same (stopWaits_natError.trans (Eq.trans (stopWaits_updNat fun _ => rfl) (stopWaits_updNat fun _ => rfl)))
    (stopWaits_updNat fun _ => rfl))

theorem stopWaits_dropCmds {p : Cmd → Bool} {s : State} : stopWaits (dropCmds p s) = stopWaits s :=
  (stopWaits_past sluRefresh_keeps).trans rfl

/-- A stop begins without a change of who waits for it. -/
theorem stopWaits_natStopGo {q : Nat} {s : State} : stopWaits (natStopGo q s) = stopWaits s := by
  unfold natStopGo
  dsimp only
  refine Eq.trans (stopWaits_updNat fun _ => rfl) (stopWaits_endPublished.trans ((stopWaits_past setF_keeps).trans ?_))
  refine Eq.trans (b := stopWaits _) rfl ((foldl_same (g := stopWaits) fun x c => ?_).trans (stopWaits_dropCmds.trans ?_))
  · split
    · exact stopWaits_natPost
    · rfl
  · have hbegun : stopWaits (setF (F.Q_STATE q) 2 (setF (F.Q_STATE q) 2 (readSqProd q s))) = stopWaits s :=
      (stopWaits_past setF_keeps).trans ((stopWaits_past setF_keeps).trans stopWaits_readSqProd)
    have hfetched := ((foldl_same (g := stopWaits) (l := (natOf (setF (F.Q_STATE q) 2 (setF (F.Q_STATE q) 2 (readSqProd q s))) q).fetched)
      fun x (f : Fetched) => stopWaits_natPost (q := q) (b := natCqe (leAt f.bytes 4 4) 0x0613 f.idx 0 false) (s := x))).trans
      ((stopWaits_updNat (q := q) (f := fun x => { x with fetched := [], fence := none }) fun _ => rfl).trans hbegun)
    split
    · exact stopWaits_natPost.trans hfetched
    · exact hfetched

/-! ### The rows -/

theorem par_lt_two_pow {c : MbxCmd} {lo n : Nat} : par c lo n < 2 ^ n := bitsAt_lt _ _ _

theorem natOf_updNat {q : Nat} {f : NatQ → NatQ} {s : State} (h : Units s) (hq : q < 256) : natOf (updNat q f s) q = f (natOf s q) := by
  obtain ⟨-, -, -, -, hnat, -⟩ := h
  exact getD_modAt_same (by omega)

theorem queueCmd_mine {m : Nat} {c : MbxCmd} {f : Nat → State → State × Option MbxResult} {s : State}
    (h : queueMine s m (par c 0 8) = true) : queueCmd m c f s = f (par c 0 8) s := if_pos h

/-- The mailbox's queue command, begun on a queue of its own. -/
theorem queueMine_begun {m q : Nat} {s : State} (h : queueMine s m q = true) : queueMine (begun m s) m q = true := h

/-- The last word written of a queue's status gives its state. -/
theorem getF_qState_wr {q hold st : Nat} {s : State} (h : RegsWf s) (hst : st < 8) :
    getF (wr (R.Q_STATUS q) (BitVec.ofNat 32 (hold * 2 ^ 6 + st)) s) (F.Q_STATE q) = st := by
  show bitsAt (rd (wr (R.Q_STATUS q) _ s) (R.Q_STATUS q)).toNat 0 3 = st
  rw [rd_wr_same h, BitVec.toNat_ofNat]
  unfold bitsAt
  omega

/-- A command that answers at once leaves what its operation left, but for the mailboxes. -/
theorem mbxEnds_same {m : Nat} {r : MbxResult} {t : State} : mbxEnds m r t = { t with mbx := (mbxEnds m r t).mbx } := rfl

theorem leNat_lt {l : List Byte} : leNat l < 256 ^ l.length := by
  induction l with
  | nil => exact Nat.one_pos
  | cons b r ih =>
    have hb : b.toNat < 256 := b.isLt
    simp only [leNat, List.length_cons, Nat.pow_succ]
    omega

theorem leAt_one_lt {l : List Byte} {o : Nat} : leAt l o 1 < 256 := by
  have hpow : 256 ^ (slice l o 1).length ≤ 256 ^ 1 := Nat.pow_le_pow_right (by decide) (List.length_take_le _ _)
  exact Nat.lt_of_lt_of_le leNat_lt hpow

/-- The record of a queue that Q_CREATE makes in the space of the host's memory. -/
def createdQueue (d : List Byte) (x : NatQ) : NatQ :=
  { NatQ.reset with sqSpace := 0, cqSpace := 0, idxSpace := 0, log2 := leAt d 2 1, sqAddr := leAt d 8 8, cqAddr := leAt d 16 8,
                    idxAddr := leAt d 24 8, window := x.window }

/-- The index block cleared where the host is reached. -/
def indexCleared (d : List Byte) (s : State) : State :=
  if spaceReach s 0 then spaceStore 0 (leAt d 24 8) (List.replicate 16 0) s else s

theorem indexCleared_keeps {d : List Byte} {s : State} :
    Keeps [.regs, .mem, .bad, .free, .flt, .pcie, .memc, .outbox, .nvFaultLog, .nvLogNext] s (indexCleared d s) :=
  Keeps.ite (fun _ => spaceStore_keeps) fun _ => Keeps.refl _ _

/-- What Q_CREATE leaves, with the fields `d`, of a queue in the host's memory. -/
def queueCreated (d : List Byte) (s : State) : State :=
  indexCleared d s |> updNat (leAt d 0 1) (fun _ => createdQueue d (natOf s (leAt d 0 1)))
    |> wr (R.Q_CTL (leAt d 0 1)) (BitVec.ofNat 32 (leAt d 4 2 * 2 ^ 16 + b2n (bitAt (leAt d 3 1) 1) * 2 ^ 9 + b2n (bitAt (leAt d 3 1) 0) * 2 ^ 8
        + b2n (bitAt (leAt d 3 1) 2) * 2 ^ 4 + b2n (bitAt (leAt d 3 1) 3) * 2 ^ 3))
    |> wr (R.Q_STATUS (leAt d 0 1)) (BitVec.ofNat 32 (getF s (F.Q_FENCE_HOLD (leAt d 0 1)) * 2 ^ 6 + 1))

theorem queueCreated_keeps {d : List Byte} {s : State} :
    Keeps [.regs, .mem, .bad, .free, .flt, .pcie, .memc, .host, .outbox, .nvFaultLog, .nvLogNext] s (queueCreated d s) :=
  wr_keeps.via (wr_keeps.via (updNat_keeps.via (indexCleared_keeps.mono rfl) rfl) rfl) rfl

theorem queueCreated_reads {s : State} (hu : Units s) (hwf : RegsWf s) (d : List Byte) :
    getF (queueCreated d s) (F.Q_STATE (leAt d 0 1)) = 1 ∧
      natOf (queueCreated d s) (leAt d 0 1) = createdQueue d (natOf s (leAt d 0 1)) :=
  ⟨getF_qState_wr (wr_keeps.regsWf (updNat_keeps.regsWf (indexCleared_keeps.regsWf hwf))) (by decide),
    natOf_updNat (indexCleared_keeps.units hu) leAt_one_lt⟩

/-- The mailbox that waits for the stop is found again by its queue. -/
theorem find_stopMbx {m q : Nat} {s t : State} (hu : Units t) (hq : q < 256) (hwaits : stopWaits t = stopWaits s)
    (hnone : (List.range 256).all (fun k => decide ((natOf s k).stopMbx ≠ some m)) = true) :
    (List.range 256).find? (fun k => (natOf (updNat q (fun x => { x with stopMbx := some m }) t) k).stopMbx = some m) = some q := by
  rw [List.find?_eq_some_iff_append]
  refine ⟨by simp only [natOf_updNat hu hq, decide_true], List.range q, List.range' (q + 1) (255 - q), ?_, fun k hk => ?_⟩
  · rw [List.range_eq_range', List.range_eq_range', ← List.range'_succ (s := q), show 255 - q + 1 = 256 - q by omega]
    have := List.range'_append (s := 0) (m := q) (n := 256 - q) (step := 1)
    rw [Nat.zero_add, Nat.one_mul, show q + (256 - q) = 256 by omega] at this
    exact this.symm
  · have hk := List.mem_range.mp hk
    have hother : natOf (updNat q (fun x => { x with stopMbx := some m }) t) k = natOf t k := getD_modAt_ne (by omega)
    have hfree := List.all_eq_true.mp hnone k (List.mem_range.mpr (by omega))
    rw [hother, stopMbx_eq_stopWaits, hwaits, ← stopMbx_eq_stopWaits]
    simpa using hfree

/-- Settles O58: each row is taken by the state's own conditions; a queue's record is found again through the operations in
between, which keep the number of queues and the mailboxes that wait. -/
theorem nativeQueues : Obligations.NativeQueues := by
  unfold Obligations.NativeQueues
  refine ⟨fun p q host s => ⟨fun hgo => ?sq, fun hgo => ?cq⟩, fun p q n host s hgo => ?push, fun q host s hpoll hon => ?poll,
    fun q v s htake hchain => ?nop, fun q v s htake => ?read, fun q v s htake => ?write, fun q v s htake => ?zeroes,
    fun q v s htake => ?dealloc, fun q v s htake => ?verify, fun q v s htake hchain => ?bandChained,
    fun q v x s htake hchain hqueued hcmd => ?band, fun q b s hlow hhigh hadmits hroom => ?firmware,
    fun q s hpub hfetches hkind hgood hu hwf => ?fenceWaits, fun q w s hfence hmet hon => ?fenceDone,
    fun q w s hfence hon => ?fenceLimit, fun p q s => ⟨fun hgo => ?stopBus, fun hgo => ?resumeBus, fun hgo => ?skipBus⟩,
    fun q s => ⟨fun h1 h4 => ?stopNot, fun h3 h4 => ?resumeNot, fun h4 => ?skipNot⟩,
    fun m s hu hwf hrun hlen hlow hfree hspace hlog4 hlog16 hflags hq1 hq2 hsq hcq hix hrest => ?create,
    fun m s hu hwf hrun hmine hshut => ⟨fun h3 => ?delete, fun h3 => ?deleteNot⟩,
    fun m s hu hrun hmine hshut hstate hnone => ?stop, fun m s hu hrun hbit hmine => ?resume,
    fun m s hu hrun hbit hmine => ?skip⟩
  case sq => exact congrArg Host.Outcome.next (busAct_acc_of_writeGoes hgo)
  case cq => exact congrArg Host.Outcome.next (busAct_acc_of_writeGoes hgo)
  case push =>
    show execQDbPush p q n false true host s = _
    unfold execQDbPush
    rw [show 4 * n.val + 2 * b2n false + b2n true = 4 * n.val + 1 from rfl, busAct_acc_of_writeGoes hgo]
    simp only [Bool.false_eq_true, if_false, if_true]
  case poll => exact if_pos ⟨hpoll, hon⟩
  case nop =>
    show execNativeNop q s = _
    simp [execNativeNop, htake, hchain]
  case read =>
    show execNativeRead q s = _
    simp only [execNativeRead, htake]
  case write =>
    show execNativeWrite q s = _
    simp only [execNativeWrite, htake]
  case zeroes =>
    show execNativeWriteZeroes q s = _
    simp only [execNativeWriteZeroes, htake]
  case dealloc =>
    show execNativeDeallocate q s = _
    simp only [execNativeDeallocate, htake]
  case verify =>
    show execNativeVerify q s = _
    simp only [execNativeVerify, htake]
  case bandChained =>
    show execNativeBand q s = _
    simp only [execNativeBand, htake]
    exact if_pos (.inl hchain)
  case band =>
    show execNativeBand q s = _
    simp only [execNativeBand, htake]
    rw [if_neg (by simp [hchain, hqueued]), hcmd]
  case firmware => exact if_pos ⟨hlow, hhigh, hadmits, hroom⟩
  case fenceWaits =>
    refine ⟨_, if_neg (by simp [hpub, hfetches, hkind, hgood]), isSet_setF_one (putSqCons_keeps.regsWf hwf) rfl Nat.one_pos, ?_⟩
    have hhost {y z : State} (hz : z = y) : natOf (setF (F.Q_FENCE_WAIT q.val) 1 (putSqCons q.val y)) q.val = natOf z q.val := by
      subst hz
      exact congrArg (fun h : HostSt => h.natq.getD q.val NatQ.reset) ((setF_keeps.host_eq rfl).trans (putSqCons_keeps.host_eq rfl))
    rw [hhost rfl, natOf_updNat hu q.isLt]
    exact ⟨rfl, rfl⟩
  case fenceDone =>
    show execNativeFenceDone q s = _
    simp only [execNativeFenceDone, hfence]
    exact if_pos ⟨hmet, hon⟩
  case fenceLimit =>
    show execNativeFenceLimitExpiry q s = _
    simp only [execNativeFenceLimitExpiry, hfence]
    exact if_pos hon
  case stopBus => exact congrArg Host.Outcome.next (busAct_acc_of_writeGoes hgo)
  case resumeBus => exact congrArg Host.Outcome.next (busAct_acc_of_writeGoes hgo)
  case skipBus => exact congrArg Host.Outcome.next (busAct_acc_of_writeGoes hgo)
  case stopNot => exact if_pos ⟨h1, h4⟩
  case resumeNot => exact if_neg (by simp [h3, h4])
  case skipNot => exact if_pos h4
  case create =>
    have hfree' : getF (begun m.val s) (F.Q_STATE (leAt (mbxAt s m).cmd.data 0 1)) = 0 := hfree
    have hu' := begun_units (m := m.val) hu
    obtain ⟨hstate, hqueue⟩ := queueCreated_reads hu' hwf (mbxAt s m).cmd.data
    refine ⟨_, congrArg Host.Outcome.next (mbxRow_of_answer (r := resStatus 0) (t := queueCreated (mbxAt s m).cmd.data (begun m.val s))
      hrun rfl ?_), mbxAnswered_mbxEnds (queueCreated_keeps.units hu'), hstate,
      congrArg NatQ.log2 hqueue, congrArg NatQ.sqAddr hqueue, congrArg NatQ.cqAddr hqueue, congrArg NatQ.sqCons hqueue⟩
    dsimp only
    rw [if_neg (by simp [hlen]), if_neg (by simp [hfree', hlow]), if_neg (by rw [hrest, hspace]; simp only [Bool.false_eq_true, or_false]; omega), hspace]
    rfl
  case delete =>
    have hstate : getF (begun m.val s) (F.Q_STATE (par (mbxAt s m).cmd 0 8)) = 3 := h3
    have hopen : isSet (begun m.val s) (F.Q_SHUT_MODE (par (mbxAt s m).cmd 0 8)) = false := hshut
    refine ⟨_, congrArg Host.Outcome.next (mbxRow_of_answer (r := resStatus 0) (t := natFree (par (mbxAt s m).cmd 0 8) (begun m.val s))
      hrun rfl ?_), mbxAnswered_mbxEnds (natFree_keeps.units (begun_units hu)), ?_⟩
    · rw [queueCmd_mine (queueMine_begun hmine), if_neg (by simp [hopen]), if_neg (by simp [hstate])]
      rfl
    · exact getF_qState_wr (hold := getF (begun m.val s) (F.Q_FENCE_HOLD (par (mbxAt s m).cmd 0 8))) (st := 0)
        (wr_keeps.regsWf hwf) (by decide)
  case deleteNot =>
    have hstate : getF (begun m.val s) (F.Q_STATE (par (mbxAt s m).cmd 0 8)) ≠ 3 := h3
    have hopen : isSet (begun m.val s) (F.Q_SHUT_MODE (par (mbxAt s m).cmd 0 8)) = false := hshut
    refine ⟨_, congrArg Host.Outcome.next (mbxRow_of_answer (r := resStatus 0x0616) (t := begun m.val s)
      hrun rfl ?_), mbxAnswered_mbxEnds (begun_units hu), rfl⟩
    rw [queueCmd_mine (queueMine_begun hmine), if_neg (by simp [hopen]), if_pos hstate]
    rfl
  case stop =>
    have hopen : isSet (begun m.val s) (F.Q_SHUT_MODE (par (mbxAt s m).cmd 0 8)) = false := hshut
    have hstates : getF (begun m.val s) (F.Q_STATE (par (mbxAt s m).cmd 0 8)) = 1 ∨
      getF (begun m.val s) (F.Q_STATE (par (mbxAt s m).cmd 0 8)) = 4 := hstate
    have hgo : natStop (par (mbxAt s m).cmd 0 8) (begun m.val s) = (0, natStopGo (par (mbxAt s m).cmd 0 8) (begun m.val s)) := by
      unfold natStop
      dsimp only
      rw [if_neg (by omega), if_neg (by simp [hopen])]
    have hrow := mbxRow_of_wait (sel := anyParam) (f := fun c s => queueCmd m.val c (fun q s =>
      let r := natStop q s
      if r.1 ≠ 0 then answer r.1 r.2 else (updNat q (fun x => { x with stopMbx := some m.val }) r.2, none)) s)
      (t := updNat (par (mbxAt s m).cmd 0 8) (fun x => { x with stopMbx := some m.val }) (natStopGo (par (mbxAt s m).cmd 0 8) (begun m.val s)))
      hrun rfl (by rw [queueCmd_mine (queueMine_begun hmine), hgo]; rfl)
    show execQStop m s = _
    unfold execQStop
    dsimp only
    rw [hrow, find_stopMbx (natStopGo_keeps.units (begun_units hu)) par_lt_two_pow (stopWaits_natStopGo.trans (stopWaits_of_host rfl)) hnone]
  case resume =>
    refine ⟨_, congrArg Host.Outcome.next (mbxRow_of_answer (r := resStatus (natResume (par (mbxAt s m).cmd 0 8) (begun m.val s)).1)
      (t := (natResume (par (mbxAt s m).cmd 0 8) (begun m.val s)).2) hrun (by simp [skipBit, hbit]) ?_),
      mbxAnswered_mbxEnds (natResume_keeps.units (begun_units hu)), mbxEnds_same⟩
    rw [queueCmd_mine (queueMine_begun hmine)]
    rfl
  case skip =>
    refine ⟨_, congrArg Host.Outcome.next (mbxRow_of_answer (r := resStatus (natSkip (par (mbxAt s m).cmd 0 8) (begun m.val s)).1)
      (t := (natSkip (par (mbxAt s m).cmd 0 8) (begun m.val s)).2) hrun (by simp [skipBit, hbit]) ?_),
      mbxAnswered_mbxEnds (natSkip_keeps.units (begun_units hu)), mbxEnds_same⟩
    rw [queueCmd_mine (queueMine_begun hmine)]
    rfl

end Sys2Proof.Machine
end

section
/-! PROOFS. O28: the first steps of Bring-up. -/

set_option Elab.async false

namespace Sys2Proof.Machine

/-! ### The first steps of Bring-up -/

/-- A message to the partner leaves the fence output and its test. -/
theorem nalSend_fence {c k : Nat} {l : List Nat} {s : State} :
    ((nalSend c k l s).pair.fenceOut, (nalSend c k l s).pair.test) = (s.pair.fenceOut, s.pair.test) := by
  unfold nalSend
  split
  · rfl
  · split <;> rfl

/-- Settles O28: each row is taken by the state's own conditions; the description that a read leaves is kept by the rows that go
on from it. -/
theorem bringUpStepsOneToFive : Obligations.BringUpStepsOneToFive := by
  unfold Obligations.BringUpStepsOneToFive
  refine ⟨fun rate cap channels s hactive htrained hon => ?dram, fun bytes s hactive hread => ?descriptor,
    fun check valid s hactive hup => ?compare, fun lanes pos brick recs s hon htx hlocked hstrap hwidth hpos => ?train,
    fun lanes pos brick recs s hwf hon htx hlocked hstrap hwidth hpos hlogged => ?clash, fun s hrunning hpulsing => ?pulse,
    fun saw s hrunning hup hpulsed => ?report, fun ended saw s hup => ?reportLost, fun s hrunning hpulsed hown => ?reportTimeout,
    fun code s hup hctl => ?attest, fun s hask => ?attestOwn, fun s hask hown hpartner => ?attestPartner,
    fun k ok meas a b c d s => ?canal, fun code n meas a b c d s hask => ⟨?bad, fun hnext => ?next⟩⟩
  case dram =>
    have hgo : (!s.bring.active || s.bring.dramTrained || !domOn s 15) = false := by simp [hactive, htrained, hon]
    exact ⟨_, _, (if_neg (by simp [hgo])).trans (if_pos rfl), rfl, (if_neg (by simp [hgo])).trans (if_neg Bool.false_ne_true), rfl⟩
  case descriptor =>
    refine ⟨_, if_neg (by simp [hactive, hread]), ?_⟩
    refine (bringSpin_keeps.desc_eq rfl).trans ((checkCompare_keeps.desc_eq rfl).trans ((nalSend_keeps.desc_eq rfl).trans
      ((encShow_keeps.desc_eq rfl).trans (ite_same (mbxFinish_keeps.desc_eq rfl) rfl))))
  case compare => exact if_neg (by simp [hactive, hup])
  case train =>
    show execNalTrainDone lanes pos brick recs s = _
    unfold execNalTrainDone
    rw [if_neg (by simp [hon, htx, hlocked, hstrap])]
    dsimp only
    rw [if_neg hwidth, if_neg hpos]
  case clash =>
    show ∃ t, execNalTrainDone lanes pos brick recs s = .next t ∧ _
    unfold execNalTrainDone
    rw [if_neg (by simp [hon, htx, hlocked, hstrap])]
    dsimp only
    rw [if_neg hwidth, if_pos hpos, if_pos hlogged]
    exact ⟨_, rfl, isSet_setF_one (nalDown_keeps.regsWf (setF_keeps.regsWf hwf)) rfl Nat.one_pos⟩
  case pulse =>
    refine ⟨_, if_pos (by simp [hrunning, hpulsing]), ?_, ?_, nalSend_keeps.regs_eq rfl⟩
    · exact (congrArg Prod.fst nalSend_fence :)
    · exact (congrArg Prod.snd nalSend_fence :)
  case report =>
    show execFenceTestReportReceived false false saw s = _
    simp [execFenceTestReportReceived, hup, hrunning, hpulsed]
  case reportLost =>
    obtain ⟨u, hu, -⟩ := fenceTestReportReceived_completes (failed := false) (ended := true) (saw := saw) (s := s)
    refine ⟨_, u, (if_neg (by simp [hup])).trans (if_pos rfl), rfl, hu, fun hrunning hdev => Host.Outcome.next.inj (hu.symm.trans ?_)⟩
    simp [execFenceTestReportReceived, hup, hrunning, hdev]
  case reportTimeout =>
    show execFenceTestReportTimeout s = _
    simp [execFenceTestReportTimeout, hrunning, hpulsed, hown]
  case attest =>
    exact ⟨_, _, if_neg (by simp [hup, hctl]), rfl, if_neg (by simp [hup, hctl]), rfl⟩
  case attestOwn => exact if_pos hask
  case attestPartner => exact (if_neg (by simp [hask])).trans (if_pos ⟨hown, hpartner⟩)
  case canal => rfl
  case bad =>
    show execSpdmResponseReceived none false meas a b c d s = _
    simp [execSpdmResponseReceived, hask]
  case next =>
    show execSpdmResponseReceived none true meas a b c d s = _
    simp [execSpdmResponseReceived, hask, hnext]

end Sys2Proof.Machine
end

section
/-! PROOFS. O55: canal connections. -/

set_option Elab.async false

namespace Sys2Proof.Machine

/-! ### Canal connections -/

/-- A canal found in the table carries the number asked for. -/
theorem id_of_canalOf {k : Nat} {c : Canal} {s : State} (h : canalOf s k = some c) : c.id = k := by
  simpa using List.find?_some h

theorem canalOf_of_volu {k : Nat} {s t : State} (h : t.volu = s.volu) : canalOf t k = canalOf s k := by
  unfold canalOf
  rw [h]

/-- The change of a canal is read back where the change leaves the number. -/
theorem canalOf_updCanal {k : Nat} {f : Canal → Canal} {c : Canal} {s : State} (h : canalOf s k = some c)
    (hid : ∀ x, (f x).id = x.id) : canalOf (updCanal k f s) k = some (f c) := by
  have hfound : canalOf (updCanal k f s) k = (canalOf s k).map f := by
    unfold canalOf updCanal
    dsimp only
    induction s.volu.canals with
    | nil => rfl
    | cons x r ih =>
      by_cases hx : x.id = k
      · simp [hx, hid]
      · simp [hx, ih]
  rw [hfound, h]
  rfl

/-- A canal's question is noted, and asked. -/
theorem canalOf_canalAsk {k code : Nat} {c : Canal} {s : State} (h : canalOf s k = some c) :
    canalOf (canalAsk k code s) k = some { c with ask := some code, setup := if c.setup = 7 then 7 else askStep code } :=
  (canalOf_of_volu (askPeer_keeps.volu_eq rfl)).trans
    (canalOf_updCanal (f := fun c => { c with ask := some code, setup := if c.setup = 7 then 7 else askStep code }) h fun _ => rfl)

/-- Settles O55: each row is taken by the canal's own record; a question asked of the peer is found again in it. -/
theorem canalConnections : Obligations.CanalConnections := by
  unfold Obligations.CanalConnections
  refine ⟨fun m v id s hu hrun hallowed hnum hvol hnode hbrick hpeer hfresh hroom hfree => ?opens,
    fun m e s hu hrun hrefused => ?refused, fun k c s hc hsetup hadmits => ?connected, fun k c s hc hsetup => ?connectTimeout,
    fun k c s hc hlow hhigh => ?setupTimeout, fun k type len tagOk c s hc hsetup hbad => ?invalid, fun k c s hc hsetup => ?lost,
    fun k h c s hk hc hsetup hrefused hrep hfits hpromoted hwrites => ?hello, fun k h s hk hadmits => ?helloTarget,
    fun k node c s hc hsource hstate hlow hhigh => ?retarget, fun k c s hc hsource hsync hwait hstate => ?tmo,
    fun s hadmits hallowed => ?retry, fun k c s hc hsetup => ?reattest,
    fun k c s hc hsource hperiod hstate hsetup hxfer hmode => ?period⟩
  case opens =>
    refine congrArg Host.Outcome.next (volRow_of_wait (sel := anyParam) hrun rfl ?_)
    have hallowed' : canalRefusal (begun m.val s) = none := hallowed
    have hvol' : volNamed (begun m.val s) (par (mbxAt s m).cmd 0 15) = .ok v := volNamed_of_volOf hnum hvol
    have hpeer' : peerOfHandle (begun m.val s) (leAt (mbxAt s m).cmd.data 0 4) = true := hpeer
    have hroom' : canalsOpen (begun m.val s) < 1024 := hroom
    have hfree' : freeCanal (begun m.val s) = some id := hfree
    have hhandle : handleOk (leAt (mbxAt s m).cmd.data 0 4) = true := by simp [handleOk, hnode, hbrick]
    dsimp only
    simp only [hallowed', hvol', hfree', hfresh]
    rw [if_neg (by simp [hhandle]), if_neg (by simp [hpeer']), if_neg (by omega)]
    cases (begun m.val s).volu.canals.find? (fun k => k.source && decide (k.vol = v.num ∧ k.handle = leAt (mbxAt s m).cmd.data 0 4 ∧ k.state = 4)) with
    | some k => rfl
    | none => rfl
  case refused =>
    have hrefused' : canalRefusal (begun m.val s) = some e := hrefused
    refine ⟨_, congrArg Host.Outcome.next (volRow_of_answer (sel := anyParam) (r := resStatus e) (t := begun m.val s) hrun rfl ?_),
      mbxAnswered_mbxEnds (begun_units hu), rfl⟩
    dsimp only
    simp only [hrefused']
    rfl
  case connected =>
    refine ⟨canalAsk k 0x84 s, ?_, ?_, by simp [canalAsk, askPeer, send, updCanal]⟩
    · show execCanalTcpConnected k s = _
      simp [execCanalTcpConnected, hc, hsetup, hadmits]
    · rw [canalOf_canalAsk hc, hsetup]
      rfl
  case connectTimeout =>
    show execCanalConnectTimeout k s = _
    simp [execCanalConnectTimeout, hc, hsetup]
  case setupTimeout =>
    show execCanalSetupTimeout k s = _
    simp only [execCanalSetupTimeout, hc]
    rw [if_pos ⟨hlow, hhigh⟩, setupCode, if_neg (by omega)]
  case invalid =>
    show execCanalFrameInvalid k type len tagOk s = _
    simp only [execCanalFrameInvalid, hc]
    exact if_neg (by simp only [hbad, Bool.true_eq_false, or_false]; omega)
  case lost =>
    show ∃ t, execCanalConnectionLost k s = .next t ∧ _
    simp only [execCanalConnectionLost, hc]
    rw [if_neg hsetup]
    by_cases hone : c.setup = 1
    · rw [if_pos hone]
      cases hnext : (peersOf s c.handle).find? (fun p => c.node < p.node) with
      | some p =>
        refine ⟨_, rfl, fun q _ hq => ?_, fun h => ?_⟩
        · cases hq
          rfl
        · rcases h with h | h
          · omega
          · cases h
      | none => exact ⟨_, rfl, (fun q _ hq => by cases hq), fun _ => rfl⟩
    · rw [if_neg hone]
      exact ⟨_, rfl, fun q h _ => absurd h hone, fun _ => rfl⟩
  case hello =>
    show execCanalHello k h s = _
    unfold execCanalHello
    rw [if_neg (by omega)]
    simp only [hc]
    rw [if_neg (by simp [hsetup]), if_neg (by simp [hrefused, hrep]), if_neg (by simp [hfits]), if_neg (by simp [hpromoted, hwrites])]
  case helloTarget =>
    show execCanalHello k h s = _
    unfold execCanalHello
    rw [if_pos hk, if_pos hadmits]
  case retarget =>
    show execCanalRetarget k node s = _
    simp only [execCanalRetarget, hc]
    rw [if_neg (by simp only [hsource, Bool.true_eq_false, false_or]; omega)]
    cases s.volu.peers.find? (fun p => p.node = node) with
    | some p => rfl
    | none => rfl
  case tmo =>
    show execCanalSyncTmoExpiry k s = _
    simp only [execCanalSyncTmoExpiry, hc]
    rw [if_neg (by simp [hsource, hsync, hwait]), if_neg hstate]
  case retry => exact if_neg (by simp [hadmits, hallowed])
  case reattest =>
    refine ⟨canalAsk k 0xE0 s, ?_, ?_, canalAsk_keeps.regs_eq rfl⟩
    · show execCanalReattestTimer k s = _
      simp [execCanalReattestTimer, hc, hsetup]
    · rw [canalOf_canalAsk hc, hsetup]
      rfl
  case period =>
    show execCanalPeriodTimer k s = _
    simp [execCanalPeriodTimer, hc, hsource, hperiod, hstate, hsetup, hxfer, hmode]

end Sys2Proof.Machine
end

section
/-! PROOFS. O56: canal transfers. -/

set_option Elab.async false

namespace Sys2Proof.Machine

/-! ### Canal transfers -/

/-- The change of a volume is read back where the change leaves the number. -/
theorem volOf_updVol {n : Nat} {f : Volume → Volume} {v : Volume} {s : State} (h : volOf s n = some v)
    (hnum : ∀ x, (f x).num = x.num) : volOf (updVol n f s) n = some (f v) := by
  have hfound : volOf (updVol n f s) n = (volOf s n).map f := by
    unfold volOf updVol
    dsimp only
    induction s.volu.vols with
    | nil => rfl
    | cons x r ih =>
      by_cases hx : x.num = n
      · simp [hx, hnum]
      · simp [hx, ih]
  rw [hfound, h]
  rfl

theorem num_of_volOf {n : Nat} {v : Volume} {s : State} (h : volOf s n = some v) : v.num = n := by
  simpa using List.find?_some h

theorem volOf_of_vols {n : Nat} {s t : State} (h : t.volu.vols = s.volu.vols) : volOf t n = volOf s n := by
  unfold volOf
  rw [h]

theorem vols_canalTx {k kind : Nat} {l : List Nat} {s : State} : (canalTx k kind l s).volu.vols = s.volu.vols := by
  unfold canalTx
  dsimp only
  split <;> rfl

theorem vols_canalDrop {k : Nat} {s : State} : (canalDrop k s).volu.vols = s.volu.vols :=
  show (canalSessEnd k s).volu.vols = s.volu.vols from congrArg VolSt.vols (canalSessEnd_keeps.volu_eq rfl)

/-- Discarding what a transfer stored leaves the volume but for its hidden map. -/
theorem volOf_discardHidden {v w : Volume} {s : State} (h : volOf s v.num = some w) :
    volOf (discardHidden v s) v.num = some { w with hidden := [] } :=
  (volOf_of_vols (congrArg VolSt.vols (entsGone_keeps.volu_eq rfl))).trans
    (volOf_updVol (f := fun v => { v with hidden := [] }) (s := { s with red := _ }) h fun _ => rfl)

theorem volOf_takeSnap {n : Nat} {k : Option Nat} {v : Volume} {x : Snapshot} {s t : State} (h : volOf s n = some v)
    (hsnap : takeSnap v k s = .ok (x, t)) : ∃ w, volOf t n = some w ∧ (w.map, w.hidden, w.commitGen) = (v.map, v.hidden, v.commitGen) := by
  unfold takeSnap at hsnap
  split at hsnap
  · cases hsnap
  · split at hsnap
    · cases hsnap
    · obtain ⟨-, rfl⟩ := Prod.mk.inj (Except.ok.inj hsnap)
      obtain rfl := num_of_volOf h
      exact ⟨_, (volOf_of_vols (congrArg VolSt.vols (jRecord_keeps.volu_eq rfl))).trans (volOf_updVol h fun _ => rfl), rfl⟩

/-- The snapshot of a commit leaves the volume's maps and its generation of the last commit. -/
theorem volOf_commitSnap {k n : Nat} {v : Volume} {s : State} (h : volOf s n = some v) :
    ∃ w, volOf (commitSnap k n s).2 n = some w ∧ (w.map, w.hidden, w.commitGen) = (v.map, v.hidden, v.commitGen) := by
  unfold commitSnap
  simp only [h]
  cases hsnap : takeSnap v (some k) s with
  | ok r => exact volOf_takeSnap h hsnap
  | error e => exact ⟨v, h, rfl⟩

/-- A canal that is dropped has no connection. -/
theorem canalOf_canalDrop {k : Nat} {c : Canal} {s : State} (h : canalOf s k = some c) :
    ∃ d, canalOf (canalDrop k s) k = some d ∧ d.setup = 0 := by
  refine ⟨_, canalOf_updCanal (s := canalSessEnd k s) (f := fun c => { c with setup := 0, ask := none, sess := none, msgs := 0, out := c.out.map (fun o => { o with sent := false }) })
    ((canalOf_of_volu (canalSessEnd_keeps.volu_eq rfl)).trans h) fun _ => rfl, rfl⟩

/-- What follows for the host from a canal's loss leaves the steps of its connection. -/
theorem canalOf_canalPolicy {k c : Canal} {s : State} (h : canalOf s k.id = some c) :
    ∃ d, canalOf (canalPolicy k s) k.id = some d ∧ d.setup = c.setup := by
  unfold canalPolicy
  dsimp only
  split
  · exact ⟨_, canalOf_updCanal (canalOf_updCanal (f := canalDirty _) (s := canalRelease k.id _ none s) h fun _ => rfl) fun _ => rfl, rfl⟩
  · exact ⟨_, canalOf_updCanal (s := canalRelease k.id _ _ s) h fun _ => rfl, rfl⟩

/-- What CANAL_CLOSE leaves of a canal that no mailbox waits for: its volume's record follows. -/
def canalClosed (k : Canal) (s : State) : State :=
  let t := updCanal k.id (fun c => { c with state := 5, xfer := none, out := [], dirty := [], dirtyAll := false })
    (canalPolicy k (canalDrop k.id s))
  match volOf t k.vol with
  | some v => jRecord v.group 5 t
  | none => t

theorem canalClosed_reads {k : Canal} {s : State} (hu : Units s) (h : canalOf s k.id = some k) : Units (canalClosed k s) ∧
    (canalOf (canalClosed k s) k.id).map (fun c => (c.state, c.setup, c.out)) = some (5, 0, []) := by
  obtain ⟨d, hd, hdsetup⟩ := canalOf_canalDrop h
  obtain ⟨e, he, hesetup⟩ := canalOf_canalPolicy (k := k) hd
  have hclosed := canalOf_updCanal (f := fun c => { c with state := 5, xfer := none, out := [], dirty := [], dirtyAll := false }) he fun _ => rfl
  have hunits : Units (updCanal k.id (fun c => { c with state := 5, xfer := none, out := [], dirty := [], dirtyAll := false })
    (canalPolicy k (canalDrop k.id s))) := updCanal_keeps.units (canalPolicy_keeps.units (canalDrop_keeps.units hu))
  have hread : (canalOf (updCanal k.id (fun c => { c with state := 5, xfer := none, out := [], dirty := [], dirtyAll := false })
      (canalPolicy k (canalDrop k.id s))) k.id).map (fun c => (c.state, c.setup, c.out)) = some (5, 0, []) := by
    rw [hclosed, Option.map_some, hesetup, hdsetup]
  unfold canalClosed
  dsimp only
  split
  · exact ⟨jRecord_keeps.units hunits, (congrArg _ (canalOf_of_volu (jRecord_keeps.volu_eq rfl))).trans hread⟩
  · exact ⟨hunits, hread⟩

/-- What CANAL_PROMOTE leaves of a replica. -/
def volPromoted (v : Volume) (s : State) : State :=
  s |> discardHidden v |> updVol v.num (fun v => { v with kind := 0, promoted := true }) |> canalDrop (targetEnd v.num)
    |> updCanal (targetEnd v.num) (fun c => { c with state := 5, xfer := none }) |> jRecord v.group 4 |> nsChanged v.num v.access

theorem volPromoted_keeps {v : Volume} {s : State} : Keeps [.regs, .mem, .pwr, .bring, .flt, .mbx, .grants, .pair, .pins, .pcie, .journal,
    .clk, .fs, .host, .mot, .tier, .red, .volu, .spdm, .outbox, .nvFaultLog, .nvLogNext] s (volPromoted v s) :=
  nsChanged_keeps.via (jRecord_keeps.via (updCanal_keeps.via (canalDrop_keeps.via (updVol_keeps.via (discardHidden_keeps.mono rfl) rfl) rfl) rfl) rfl) rfl

theorem volOf_volPromoted {v w : Volume} {s : State} (h : volOf s v.num = some w) :
    volOf (volPromoted v s) v.num = some { w with hidden := [], kind := 0, promoted := true } := by
  have hkept {y : State} : volOf (nsChanged v.num v.access (jRecord v.group 4 (updCanal (targetEnd v.num) (fun c => { c with state := 5, xfer := none })
      (canalDrop (targetEnd v.num) y)))) v.num = volOf y v.num :=
    (volOf_of_vols (congrArg VolSt.vols (nsChanged_keeps.volu_eq rfl))).trans ((volOf_of_vols (congrArg VolSt.vols (jRecord_keeps.volu_eq rfl))).trans
      ((volOf_of_vols (s := canalDrop (targetEnd v.num) y) rfl).trans (volOf_of_vols vols_canalDrop)))
  exact hkept.trans (volOf_updVol (volOf_discardHidden h) fun _ => rfl)

/-- Settles O56: each row is taken by the canal's and the volume's own records, which are read back through what follows. -/
theorem canalTransfers : Obligations.CanalTransfers := by
  unfold Obligations.CanalTransfers
  refine ⟨fun k seq off len data c v s hc hv htarget hsetup hadmits => ⟨fun hold => ?writeOld, fun hnew hnext hend hlen => ?writeNew⟩,
    fun k seq c s hc hsource hsetup => ⟨?ackGood, ?ackBad⟩, fun k new c v s hc hv htarget hsetup hxfer => ?begin,
    fun k l c v x s hc hv hx htarget hsetup => ?list, fun k c v x img s hc hv hx hsource hsetup himg => ?need,
    fun k chunk r c v x e s hc hv hx htarget hsetup hneeds hlisted hstored hroom => ?record,
    fun k gen c v s hc hv htarget hsetup hx hgen => ?commitAgain,
    fun k gen c v x s hc hv htarget hsetup hx hgen hneed hjobs hone => ?commit,
    fun k gen c v x s hc hv hx hsource hsetup hgen hbase => ?commitAck, fun m k s hu hrun hk hmbx => ?close,
    fun m k s hu hrun hk hmode hx hstate hsetup => ?sync,
    fun m v s hu hrun hnum hv hone => ⟨fun hkind => ?promote, fun hkind => ?promoteNot⟩,
    fun m k s hu hrun hk hdirty => ?status, fun m s hu hrun => ?drainStatus,
    fun p h id v s hv hjob hstage hoffer hfree => ?offer, fun g c s hstage hhold hcanal hc => ?cutover⟩
  case writeOld =>
    show execCanalWrite k seq off len data s = _
    simp [execCanalWrite, hc, hv, htarget, hsetup, hadmits, hold]
  case writeNew =>
    show execCanalWrite k seq off len data s = _
    simp only [execCanalWrite, hc, hv, Option.bind_some, Option.map_some]
    rw [if_neg (by simp [htarget, hsetup, hadmits]), if_neg (by omega), if_neg (by omega), if_neg (by omega)]
  case ackGood =>
    show execCanalWriteAck k seq 0 s = _
    simp [execCanalWriteAck, hc, hsource, hsetup]
  case ackBad =>
    show execCanalWriteAck k seq 1 s = _
    simp [execCanalWriteAck, hc, hsource, hsetup]
  case begin =>
    show execCanalDiffBegin k 0 new s = _
    simp only [execCanalDiffBegin, hc, hv, Option.bind_some, Option.map_some]
    rw [if_neg (by simp [htarget, hsetup]), if_neg (by simp), if_neg (by rw [hxfer]; exact Bool.false_ne_true)]
    rfl
  case list =>
    show execCanalFpList k l s = _
    simp only [execCanalFpList, hc, hv, hx, Option.bind_some, Option.map_some]
    rw [if_neg (by simp [htarget, hsetup])]
  case need =>
    show execCanalFpNeed k [] s = _
    simp only [execCanalFpNeed, hc, hv, hx, Option.bind_some, Option.map_some, himg]
    rw [if_neg (by simp [hsource, hsetup]), List.zip_nil_right]
    rfl
  case record =>
    show execCanalRecord k chunk r s = _
    simp only [execCanalRecord, hc, hv, hx, Option.bind_some, Option.map_some, hlisted, Option.getD_some, hstored]
    rw [if_neg (by rw [hneeds]; simp [htarget, hsetup])]
    cases decodeRecord r with
    | error e => rfl
    | ok d =>
      dsimp only
      split
      · rfl
      · rw [if_neg (by simp [Option.isSome_iff_ne_none.mp hroom])]
  case commitAgain =>
    show execCanalSnapCommit k gen s = _
    simp [execCanalSnapCommit, hc, hv, hx, htarget, hsetup, hgen]
  case commit =>
    have hready := canalOf_updCanal (f := fun c => { c with xfer := some { x with commit := true } }) hc fun _ => rfl
    have hv' : volOf (updCanal k (fun c => { c with xfer := some { x with commit := true } }) s) c.vol = some v := hv
    have hgo : execCanalSnapCommit k gen s = .next (targetCommit k (updCanal k (fun c => { c with xfer := some { x with commit := true } }) s)) := by
      simp [execCanalSnapCommit, hc, hv, hx, htarget, hsetup, hgen]
    refine ⟨_, hgo, ?_⟩
    unfold targetCommit
    simp only [hready, Option.bind_some, hv', Option.map_some]
    rw [if_neg (by simp [hneed, updCanal, hjobs])]
    obtain ⟨w, hw, hfields⟩ := volOf_commitSnap (k := k) (s := mapGone v.group v.num v.map (updVol v.num
      (fun v => { v with map := v.hidden, hidden := [], commitGen := x.new, nextGen := x.new })
      (updCanal k (fun c => { c with xfer := some { x with commit := true } }) s)))
      ((volOf_of_vols (congrArg VolSt.vols (mapGone_keeps.volu_eq rfl))).trans (volOf_updVol
        (f := fun v => { v with map := v.hidden, hidden := [], commitGen := x.new, nextGen := x.new })
        ((congrArg (volOf _) (num_of_volOf hv)).trans hv') fun _ => rfl))
    have hkept {y : State} {l : List Nat} : volOf (jRelease (canalTx k 9 l (updCanal k (fun c => { c with xfer := none, gen := x.new })
        (jRecord v.group 4 y)))) v.num = volOf y v.num :=
      (volOf_of_vols (congrArg VolSt.vols (jRelease_keeps.volu_eq rfl))).trans ((volOf_of_vols vols_canalTx).trans
        ((volOf_of_vols (s := jRecord v.group 4 y) rfl).trans (volOf_of_vols (congrArg VolSt.vols (jRecord_keeps.volu_eq rfl)))))
    rw [hkept, hw, Option.map_some, hfields, hgen]
  case commitAck =>
    refine ⟨canalCommitted k gen s, _, ?_, fun hgroup => ?_, ?_, rfl⟩
    · show execCanalCommitAck k gen 0 s = _
      simp [execCanalCommitAck, hc, hx, hsource, hsetup, hgen]
    · unfold canalCommitted
      simp only [hc, hv, hx, hbase, Option.bind_some, Option.map_some]
      rw [hgroup]
    · show execCanalCommitAck k gen 1 s = _
      simp [execCanalCommitAck, hc, hx, hsource, hsetup, hgen]
  case close =>
    have hk' : canalNamed (begun m.val s) (mbxAt s m).cmd = some k := hk
    have hfound : canalOf (begun m.val s) k.id = some k := (congrArg (canalOf s) (id_of_canalOf hk)).trans hk
    obtain ⟨hunits, hread⟩ := canalClosed_reads (begun_units hu) hfound
    refine ⟨_, congrArg Host.Outcome.next (volRow_of_answer (sel := anyParam) (r := resStatus 0) (t := canalClosed k (begun m.val s)) hrun rfl ?_),
      mbxAnswered_mbxEnds hunits, hread⟩
    have hquiet : canalAnswer k 0x071B (begun m.val s) = begun m.val s := by simp [canalAnswer, hmbx]
    simp only [hk', hquiet]
    rfl
  case sync =>
    have hk' : canalNamed (begun m.val s) (mbxAt s m).cmd = some k := hk
    have hmode' : mode (begun m.val s) ≠ 6 := hmode
    cases hstart : startXfer k (begun m.val s) with
    | ok r =>
      refine ⟨_, congrArg Host.Outcome.next (volRow_of_answer (sel := anyParam) (r := ⟨0, leBytes 4 r.1, 0, 0, []⟩) (t := r.2) hrun rfl ?_),
        mbxReturns_mbxEnds ((startXfer_keeps hstart).units (begun_units hu)), rfl⟩
      simp only [hk']
      rw [if_neg hmode', if_neg (by omega), if_neg (by simp [hx]), if_neg (by omega), hstart]
      rfl
    | error e =>
      refine ⟨_, congrArg Host.Outcome.next (volRow_of_answer (sel := anyParam) (r := resStatus e) (t := begun m.val s) hrun rfl ?_),
        mbxAnswered_mbxEnds (begun_units hu), rfl⟩
      simp only [hk']
      rw [if_neg hmode', if_neg (by omega), if_neg (by simp [hx]), if_neg (by omega), hstart]
      rfl
  case promote =>
    have hv' : volNamed (begun m.val s) (par (mbxAt s m).cmd 0 15) = .ok v := volNamed_of_volOf hnum hv
    refine ⟨_, congrArg Host.Outcome.next (volRow_of_answer (sel := anyParam) (r := resStatus 0) (t := volPromoted v (begun m.val s)) hrun rfl ?_),
      mbxAnswered_mbxEnds (volPromoted_keeps.units (begun_units hu)), ?_⟩
    · dsimp only
      rw [hv']
      exact if_neg (not_not_intro hkind)
    · exact congrArg (Option.map _) (volOf_volPromoted (s := begun m.val s) ((congrArg (volOf s) (num_of_volOf hv)).trans hv))
  case promoteNot =>
    have hv' : volNamed (begun m.val s) (par (mbxAt s m).cmd 0 15) = .ok v := volNamed_of_volOf hnum hv
    refine ⟨_, congrArg Host.Outcome.next (volRow_of_answer (sel := anyParam) (r := resStatus 0x071D) (t := begun m.val s) hrun rfl ?_),
      mbxAnswered_mbxEnds (begun_units hu), rfl⟩
    dsimp only
    rw [hv']
    exact if_pos hkind
  case status =>
    have hk' : canalNamed (begun m.val s) (mbxAt s m).cmd = some k := hk
    refine ⟨_, congrArg Host.Outcome.next (volRow_of_answer (sel := anyParam) (t := begun m.val s) hrun rfl ?_), rfl,
      mbxReturns_mbxEnds (begun_units hu)⟩
    simp only [hk', hdirty]
    rfl
  case drainStatus =>
    exact ⟨_, congrArg Host.Outcome.next (volRow_of_answer (sel := anyParam) (t := begun m.val s) hrun rfl rfl), rfl,
      mbxReturns_mbxEnds (begun_units hu)⟩
  case offer =>
    show execDrainOfferReply p v.num (some h) s = _
    simp only [execDrainOfferReply, hv, hfree]
    rw [if_neg (by simp [hjob, hstage, hoffer])]
  case cutover =>
    show ∃ t, execDrainCutoverTimeout g s = .next t ∧ _
    unfold execDrainCutoverTimeout
    dsimp only
    rw [if_pos ⟨hstage, hhold⟩, hcanal, Option.bind_some, hc]
    dsimp only
    cases s.volu.drain.cancel with
    | true => exact ⟨_, rfl, fun _ => rfl, (fun h => by cases h)⟩
    | false => exact ⟨_, rfl, (fun h => by cases h), fun _ => rfl⟩

end Sys2Proof.Machine
end

section
/-! PROOFS. O38: the actions of a sequencer's words. -/

set_option Elab.async false

namespace Sys2Proof.Machine

/-! ### The actions of a sequencer's words -/

/-- What a change of a sequencer leaves alone reads as before. -/
theorem fsOf_updFs_past {α : Type} {g : FsSt → α} {a b : Nat} {f : FsSt → FsSt} {s : State} (h : ∀ x, g (f x) = g x) :
    g (fsOf (updFs a f s) b) = g (fsOf s b) := by
  unfold fsOf updFs
  rw [← getD_map_of_default (g := g) rfl, ← getD_map_of_default (g := g) rfl, map_modAt h]

theorem fsOf_updFs {a : Nat} {f : FsSt → FsSt} {s : State} (h : a < s.fs.length) : fsOf (updFs a f s) a = f (fsOf s a) :=
  getD_modAt_same h

theorem grs_fsActed {a b : Nat} {s : State} : (fsOf (fsActed a s) b).gr = (fsOf s b).gr :=
  fsOf_updFs_past (g := FsSt.gr) fun _ => rfl

theorem queue_fsActed {a b : Nat} {s : State} : (fsOf (fsActed a s) b).queue = (fsOf s b).queue :=
  fsOf_updFs_past (g := FsSt.queue) fun _ => rfl

theorem gr_fsActed {a b i : Nat} {s : State} : gr (fsActed a s) b i = gr s b i :=
  congrArg (fun l : List Word => l.getD (i % 32) 0) grs_fsActed

theorem bandOf_fsActed {a b : Nat} {s : State} : bandOf (fsActed a s) b = bandOf s b :=
  fsOf_updFs_past (g := FsSt.band) fun _ => rfl

theorem fs_fsActed_length {a : Nat} {s : State} : (fsActed a s).fs.length = s.fs.length := modAt_length _ _ _

/-- An operation's result goes to its register, with the flags of its value. -/
theorem aluPut_reads {a rd : Nat} {v : Word} {r : Option Word × Option Bool × Option Bool} {s : State} (ha : a < s.fs.length)
    (hgr : (fsOf s a).gr.length = 32) (hr : r.1 = some v) :
    gr (aluPut a rd r s) a rd = v ∧ (fsOf (aluPut a rd r s) a).z = decide (v = 0) ∧ (fsOf (aluPut a rd r s) a).n = v.msb ∧
      (aluPut a rd r s).regs = s.regs := by
  have hput : fsOf (grPut a rd v (takeFree s).2) a = { fsOf s a with gr := setAt (fsOf s a).gr (rd % 32) v } :=
    fsOf_updFs (s := (takeFree s).2) ha
  have hlen : a < (grPut a rd v (takeFree s).2).fs.length := by
    unfold grPut updFs
    rw [modAt_length]
    exact ha
  unfold aluPut gr
  dsimp only
  rw [hr, Option.getD_some, fsOf_updFs hlen, hput]
  exact ⟨getD_setAt_same (by rw [hgr]; exact Nat.mod_lt _ (by decide)), rfl, rfl, rfl⟩

/-- The word's own operation with the general registers it names. -/
theorem aluPut_fsActed {a rd : Nat} {v : Word} {r : Option Word × Option Bool × Option Bool} {s : State} (ha : a < s.fs.length)
    (hgr : (fsOf s a).gr.length = 32) (hr : r.1 = some v) :
    gr (aluPut a rd r (fsActed a s)) a rd = v ∧ (fsOf (aluPut a rd r (fsActed a s)) a).z = decide (v = 0) ∧
      (fsOf (aluPut a rd r (fsActed a s)) a).n = v.msb ∧ (aluPut a rd r (fsActed a s)).regs = s.regs :=
  aluPut_reads (by rw [fs_fsActed_length]; exact ha)
    (by rw [grs_fsActed]; exact hgr) hr

/-- A seek sets its heads' targets in their own records. -/
theorem seekHeads_regs {a : Nat} {b : Int} {l : List Nat} {s : State} : (l.foldl (fun s i => updHead (36 * a + i) (fun x =>
    { x with target := b + zOfs s a i, settleRun := 0 }) s) s).regs = s.regs :=
  foldl_same fun x j => show (updHead (36 * a + j) _ x).regs = x.regs from rfl

/-- Settles O38: each word performs its own action once; what it leaves of the sequencer is read back. -/
theorem sequencerActions : Obligations.SequencerActions := by
  unfold Obligations.SequencerActions
  refine ⟨fun a w s hacts => ?nop, fun a w v s hacts ha hgr hop => ?alu, fun a w s hacts => ?aluPuts, fun a w v s hacts ha hgr hop => ?alui,
    fun a w s hacts ha => ?zload, fun a w s hacts => ?pacmd, fun a pos w b s hacts hband => ?arm,
    fun a w b s hacts hband harmed hop howns hwait hstart hheld => ?gate, fun a w s hacts => ?post,
    fun a w s hacts hhold hband => ?fetch, fun a w s hwf hacts howns hloaded => ?seek, fun a w s hwf hacts => ?halt⟩
  case nop => exact congrArg Host.Outcome.next (fsAct_of_acts hacts)
  case alu =>
    refine ⟨_, congrArg Host.Outcome.next (fsAct_of_acts hacts), aluPut_fsActed ha hgr ?_⟩
    rw [gr_fsActed, gr_fsActed]
    exact hop
  case aluPuts => exact congrArg Host.Outcome.next (fsAct_of_acts hacts)
  case alui =>
    refine ⟨_, congrArg Host.Outcome.next (fsAct_of_acts hacts), aluPut_fsActed ha hgr ?_⟩
    rw [gr_fsActed]
    exact hop
  case zload =>
    refine ⟨_, congrArg Host.Outcome.next (fsAct_of_acts hacts), ?_⟩
    dsimp only
    rw [fsOf_updFs ?_, gr_fsActed]
    rw [pllStore_keeps.fs_eq rfl, foldl_same (g := State.fs) fun x i => zoneHead_keeps.fs_eq rfl, fs_fsActed_length]
    exact ha
  case pacmd =>
    refine congrArg Host.Outcome.next ((fsAct_of_acts hacts).trans ?_)
    dsimp only
    rw [gr_fsActed]
  case arm =>
    refine congrArg Host.Outcome.next ((fsAct_of_acts hacts).trans ?_)
    dsimp only
    rw [hband]
  case gate =>
    have hheld' : heldSafe (fsActed a.val s) (5 + a.val) = false := hheld
    have howns' : owns (fsActed a.val s) a.val = true := howns
    refine congrArg Host.Outcome.next ((fsAct_of_acts hacts).trans ?_)
    dsimp only
    rw [bandOf_fsActed, hband]
    dsimp only
    refine if_neg ?_
    simp only [harmed, hop, howns', hheld', show (fsActed a.val s).pwr = s.pwr from rfl, hwait, hstart]
    decide
  case post => exact congrArg Host.Outcome.next (fsAct_of_acts hacts)
  case fetch =>
    have hhold' : isSet (fsActed a.val s) (F.FS_BQ_HOLD a.val) = false := hhold
    refine congrArg Host.Outcome.next ((fsAct_of_acts hacts).trans ?_)
    rw [bandOf_fsActed, if_neg (by simp [hhold', hband])]
    exact congrArg (fun q => takeDesc a.val (wRd w) (List.length q) (fsActed a.val s)) queue_fsActed
  case seek =>
    have howns' : owns (fsActed a.val s) a.val = true := howns
    have hloaded' : headsLoaded (fsActed a.val s) a.val = true := hloaded
    refine ⟨_, congrArg Host.Outcome.next (fsAct_of_acts hacts), ?_⟩
    dsimp only
    rw [if_neg (by simp [howns', hloaded'])]
    have hwf' : RegsWf (fsActed a.val s) := hwf
    refine ⟨(getF_of_regs seekHeads_regs).trans ?_, (getF_of_regs seekHeads_regs).trans (getF_setF_same (regsWf_setF hwf') rfl)⟩
    refine (getF_setF_apart (regsWf_setF hwf') rfl (by simp [Fld.apart])).trans ((getF_setF_same hwf' rfl).trans ?_)
    rw [gr_fsActed]
    exact Nat.mod_mod _ _
  case halt =>
    exact ⟨_, congrArg Host.Outcome.next (fsAct_of_acts hacts), rfl, getF_setF_same (s := fsActed a.val s) hwf rfl⟩

end Sys2Proof.Machine
end

section
/-! PROOFS. O46: SPDM requests, refuted. -/

set_option Elab.async false

namespace Sys2Proof.Machine

/-! ### SPDM requests: a lapse that ends another session -/

/-- Two records of one canal number, each with a session of its own. -/
def twiceNumbered : State :=
  let s := withCanals [{ aCanal 7 1 with sess := some 7 }, { aCanal 7 1 with sess := some 5 }]
  { s with spdm := { s.spdm with sessions := [⟨7, 0, 2, true, false⟩] } }

/-- Refutes O46: the statement speaks of every state, also of one with two canals of one number. There the lapse of session 5
drops the canal by its number, and with it the session of the first record, session 7. -/
theorem not_spdmRequests : ¬ Obligations.SpdmRequests := by
  unfold Obligations.SpdmRequests
  rintro ⟨-, -, -, -, -, -, -, -, -, -, -, -, -, hlapse, -⟩
  obtain ⟨t, ht, -, hkept, -⟩ := hlapse 5 twiceNumbered
  obtain rfl : t = sessEnd 5 twiceNumbered := Host.Outcome.next.inj ht.symm
  have hheld : (⟨7, 0, 2, true, false⟩ : SpdmSess) ∈ twiceNumbered.spdm.sessions := by decide +kernel
  have hgone : (⟨7, 0, 2, true, false⟩ : SpdmSess) ∉ (sessEnd 5 twiceNumbered).spdm.sessions := by decide +kernel
  exact hgone (hkept _ hheld (by decide))

end Sys2Proof.Machine
end

section
/-! PROOFS. O52: data reduction, refuted. -/

set_option Elab.async false

namespace Sys2Proof.Machine

/-! ### Data reduction: a register file that lists a register twice -/

/-- A register file that lists RED_STATUS twice: first with the cap of one coder a step below its reset value, then with the cap
of the other coder at 0. -/
def statusTwice : State := { full with regs := (R.RED_STATUS, 0x930) :: (R.RED_STATUS, 0x040) :: full.regs }

/-- Refutes O52: the statement reads the second cap after the write of the first, the command before it, and it speaks of every
register file. In one that lists RED_STATUS twice the write takes the first entry off the list (the word is its reset word), and
the second entry gives another cap. -/
theorem not_dataReduction : ¬ Obligations.DataReduction := by
  unfold Obligations.DataReduction
  rintro ⟨-, -, -, -, -, -, -, -, -, -, -, -, hstep, -⟩
  have hon : engOn statusTwice 9 = true := by decide +kernel
  have hquiet : isSet statusTwice F.RED_BACKLOG = false := by decide +kernel
  have hexec : exec .redBacklogStepTimer statusTwice = .next (statusTwice |> setF F.RED_CAP_DQ (min 4 (getF statusTwice F.RED_CAP_DQ + 1))
      |> setF F.RED_CAP_YW (min 9 (getF statusTwice F.RED_CAP_YW + 1))) := by
    show execRedBacklogStepTimer statusTwice = _
    unfold execRedBacklogStepTimer
    rw [hon, hquiet, if_neg (by decide), if_neg (by decide)]
  have hsame := Host.Outcome.next.inj (hexec.symm.trans (hstep statusTwice hon))
  rw [hquiet] at hsame
  exact absurd (congrArg (fun t => getF t F.RED_CAP_YW) hsame) (by decide +kernel)

end Sys2Proof.Machine
end

section
/-! PROOFS. O27: mode changes. -/

set_option Elab.async false

namespace Sys2Proof.Machine

/-! ### Mode changes -/

/-- No mode is set while a change is in progress. -/
theorem modeRow_busy {m t : Nat} {f : MbxCmd → State → State × Option MbxResult} {s : State} (hrun : mbxRuns s m 0x0100)
    (hmode : isModeSet t (mbxAt s m).cmd = true) (hbusy : isSet s F.PWR_MODE_BUSY = true) :
    modeRow m t f s = mbxEnds m (resStatus 0x0114) (begun m s) :=
  mbxRow_of_answer (r := resStatus 0x0114) (t := begun m s) hrun hmode (if_pos hbusy)

/-- With no change in progress the mode's own operation answers or waits. -/
theorem modeRow_of_wait {m k : Nat} {f : MbxCmd → State → State × Option MbxResult} {s t : State} (hrun : mbxRuns s m 0x0100)
    (hmode : isModeSet k (mbxAt s m).cmd = true) (hbusy : isSet s F.PWR_MODE_BUSY = false) (hf : f (mbxAt s m).cmd (begun m s) = (t, none)) :
    modeRow m k f s = t := by
  have hbusy' : isSet (begun m s) F.PWR_MODE_BUSY = false := hbusy
  exact mbxRow_of_wait hrun hmode ((if_neg (by rw [hbusy']; decide)).trans hf)

theorem modeRow_of_answer {m k : Nat} {f : MbxCmd → State → State × Option MbxResult} {r : MbxResult} {s t : State} (hrun : mbxRuns s m 0x0100)
    (hmode : isModeSet k (mbxAt s m).cmd = true) (hbusy : isSet s F.PWR_MODE_BUSY = false)
    (hf : f (mbxAt s m).cmd (begun m s) = (t, some r)) : modeRow m k f s = mbxEnds m r t := by
  have hbusy' : isSet (begun m s) F.PWR_MODE_BUSY = false := hbusy
  exact mbxRow_of_answer hrun hmode ((if_neg (by rw [hbusy']; decide)).trans hf)

theorem asyncEvent_linkKept {id ty info page : Nat} {s : State} : LinkKept s (asyncEvent id ty info page s) := by
  unfold asyncEvent
  dsimp only
  split
  · exact .rfl'
  · split
    · exact .after nvPost_linkKept (.past updCtrl_keeps .rfl')
    · exact .either .rfl' (.past updCtrl_keeps .rfl')

theorem anaEvent_linkKept {s : State} : LinkKept s (anaEvent s) :=
  .foldl (fun _ _ => .either asyncEvent_linkKept .rfl') .rfl'

theorem anaRefresh_linkKept {s : State} : LinkKept s (anaRefresh s) :=
  have shown {a b : Nat} : LinkKept s (setF (F.NVM_ANA_STATE 1) b (setF (F.NVM_ANA_STATE 0) a s)) := .past setF_keeps (.past setF_keeps .rfl')
  have first {p : Prop} [Decidable p] {a b : Nat} : LinkKept s (if p then setF (F.NVM_ANA_STATE 1) b (setF (F.NVM_ANA_STATE 0) a s)
    else send (.ana 1 a) (setF (F.NVM_ANA_STATE 1) b (setF (F.NVM_ANA_STATE 0) a s))) := .either shown (.past send_keeps shown)
  .either .rfl' (.either (.after anaEvent_linkKept (.either first (.past send_keeps first))) (.either first (.past send_keeps first)))

/-- Dormant stops the cores, asks for no mode and holds no grant. -/
theorem enterDormant_stops {s : State} :
    (enterDormant s).pwr.coresRunning = false ∧ (enterDormant s).pwr.target = none ∧ (enterDormant s).grants = [] := by
  refine ⟨rfl, rfl, ?_⟩
  have hnone : (finishControl 0x0012 (dropGrants (fun _ => true) (domsReset s))).grants = [] :=
    (finishControl_keeps.grants_eq rfl).trans (List.filter_eq_nil_iff.mpr fun g _ => by simp)
  refine List.eq_nil_iff_forall_not_mem.mpr fun g hg => ?_
  have hheld := anaRefresh_linkKept.grants g hg
  exact absurd (hnone ▸ hheld) (List.not_mem_nil)

theorem updHeads_pwr {l : List Nat} {s : State} : (l.foldl (fun s h => s |> updHead h (fun x => { x with calRes := some true })
    |> mirrorHead h true) s).pwr = s.pwr := by
  refine foldl_same (g := State.pwr) fun x h => ?_
  exact mirrorHead_keeps.pwr_eq rfl

theorem updHeads_fs {l : List Nat} {s : State} : (l.foldl (fun s h => s |> updHead h (fun x => { x with calRes := some true })
    |> mirrorHead h true) s).fs = s.fs := by
  refine foldl_same (g := State.fs) fun x h => ?_
  exact mirrorHead_keeps.fs_eq rfl

/-- Settles O27: each row is taken by the mode, by the change in progress and by what the partner takes. -/
theorem modeChanges : Obligations.ModeChanges := by
  unfold Obligations.ModeChanges
  refine ⟨fun m s hrun hset hbusy hmode htest hstrap => ?bringup, fun m k takes s hu hrun hset hbusy => ?busy,
    fun m s hrun hset hbusy hmode hdesc hidle hclash => ?solo, fun m takes s hrun hset hbusy hmode hpair => ?fallow,
    fun m takes s hrun hset hbusy hmode => ?fallowSolo, fun m takes s hrun hset hbusy hmode hpair => ?wake,
    fun m takes s hu hrun hset hbusy hmode hlow hhigh hlen => ?drain, fun m takes s hrun hset hbusy hmode hpair hlasts => ?cancel,
    fun m s hrun hset hbusy hmode hlasts => ?dormant, fun m s hu hrun hmode hbusy => ?safe,
    fun s hmode hseen hwait hclash hidle hbusy hdesc => ?soloWait, fun s hmode htimer hbusy hidle => ?idleSolo,
    fun s hmode htimer hbusy hidle hup => ?idleFull, fun s htarget hout => ?fallowDone, fun near x s htarget hx hmode hspeed hloaded => ?wakeDone,
    fun s hcal => ?calibrated, fun s hmode hleft hstuck hjobs hbusy => ?evacuated, fun peers s hup hmode hbusy htarget => ?partner,
    fun peers s hup => ?partnerWakes⟩
  case bringup =>
    have hmode' : mode (begun m.val s) = 1 := hmode
    have htest' : isSet (begun m.val s) F.SUP_STRAP_TEST_N = true := htest
    have hstrap' : isSet (begun m.val s) F.SUP_STRAP_FLOAT = false := hstrap
    refine ⟨setF F.PWR_MODE_BUSY 1 { begun m s with boot := { s.boot with trigger := true } },
      congrArg Host.Outcome.next (modeRow_of_wait hrun hset hbusy ?_), rfl, rfl⟩
    rw [if_neg (by simp [hmode', htest', hstrap'])]
    rfl
  case busy =>
    match k with
    | 0 | 1 | 2 | 3 | 4 | 5 | 6 =>
      exact ⟨_, congrArg Host.Outcome.next (modeRow_busy hrun hset hbusy), mbxAnswered_mbxEnds (begun_units hu), rfl, rfl⟩
  case solo =>
    have hmode' : mode (begun m.val s) = 2 := hmode
    have hdesc' : ¬((begun m.val s).bring.descRead = true ∧ (begun m.val s).bring.descOk = false) :=
      fun ⟨hread, hbad⟩ => absurd ((hdesc hread).symm.trans hbad) (by decide)
    have hidle' : (begun m.val s).pair.take = .idle := hidle
    have hclash' : isSet (begun m.val s) F.SUP_STRAP_CLASH = false := hclash
    refine congrArg Host.Outcome.next (modeRow_of_wait hrun hset hbusy ?_)
    rw [if_neg (not_or.mpr ⟨not_not_intro hmode', hdesc'⟩), if_neg (not_not_intro hidle'), if_neg (by simp [hclash'])]
  case fallow =>
    have hmode' : mode (begun m.val s) = 3 := hmode
    have hpair' : pairRefused (begun m.val s) takes = false := hpair
    refine congrArg Host.Outcome.next (modeRow_of_wait hrun hset hbusy ?_)
    rw [if_neg (by omega), if_neg (by simp [hpair']), if_pos hmode']
  case fallowSolo =>
    have hmode' : mode (begun m.val s) = 4 := hmode
    have halone : pairMode (begun m.val s) = false := by simp [pairMode, hmode']
    refine congrArg Host.Outcome.next (modeRow_of_wait hrun hset hbusy ?_)
    rw [if_neg (by omega), if_neg (by simp [halone]), if_neg (by omega)]
  case wake =>
    have hmode' : mode (begun m.val s) = 5 := hmode
    have hpair' : (pairMode (begun m.val s) && pairRefused (begun m.val s) takes) = false := Bool.and_eq_false_iff.mpr hpair
    refine congrArg Host.Outcome.next (modeRow_of_wait hrun hset hbusy ?_)
    rw [if_neg (not_not_intro hmode'), if_neg (by rw [hpair']; decide)]
  case drain =>
    have hmode' : mode (begun m.val s) = 4 := hmode
    have halone : pairMode (begun m.val s) = false := by simp [pairMode, hmode']
    refine ⟨_, congrArg Host.Outcome.next (modeRow_of_answer (r := resStatus 0) (t := drainStart (drainPeers (mbxAt s m).cmd) (begun m.val s))
      hrun hset hbusy ?_), mbxAnswered_mbxEnds (drainStart_keeps.units (begun_units hu)), rfl⟩
    dsimp only
    rw [if_neg (by omega), if_neg (by omega), if_neg (by omega), halone, if_neg (by simp), if_neg Bool.false_ne_true, if_neg (by omega)]
    rfl
  case cancel =>
    have hmode' : mode (begun m.val s) = 6 := hmode
    have halone : pairMode (begun m.val s) = false := hpair
    refine congrArg Host.Outcome.next (modeRow_of_wait hrun hset hbusy ?_)
    dsimp only
    rw [if_neg (not_not_intro hmode'), halone, if_neg (by simp), if_neg Bool.false_ne_true, if_pos hlasts]
  case dormant =>
    have hmode' : mode (begun m.val s) = 2 ∨ mode (begun m.val s) = 4 ∨ (mode (begun m.val s) = 5 ∧ getF (begun m.val s) F.PWR_MODE_PRIOR = 4) := hmode
    refine congrArg Host.Outcome.next (modeRow_of_wait hrun hset hbusy ?_)
    dsimp only
    rw [if_pos hmode', if_neg hlasts]
  case safe =>
    have hmode' : mode (begun m.val s) = 7 := hmode
    have hbusy' : isSet (begun m.val s) F.SUP_SAFE_BUSY = false := hbusy
    have hkeeps : Keeps [.regs] (enterDormant (begun m.val s)) (clearLive 0 0x0911 (setF F.SUP_SAFE_ACTIVE 0 (enterDormant (begun m.val s)))) :=
      clearLive_keeps.via setF_keeps rfl
    obtain ⟨hcores, htarget, hgrants⟩ := enterDormant_stops (s := begun m.val s)
    have hpwr := hkeeps.pwr_eq rfl
    refine ⟨_, congrArg Host.Outcome.next (mbxRow_of_answer (r := resStatus 0)
      (t := clearLive 0 0x0911 (setF F.SUP_SAFE_ACTIVE 0 (enterDormant (begun m.val s)))) hrun rfl ?_),
      mbxAnswered_mbxEnds (hkeeps.units (enterDormant_keeps.units (begun_units hu))), ?_, ?_, ?_⟩
    · rw [if_neg (not_not_intro hmode'), if_neg (by simp [hbusy'])]
      rfl
    · exact (congrArg PwrSt.coresRunning hpwr).trans hcores
    · exact (congrArg PwrSt.target hpwr).trans htarget
    · exact (hkeeps.grants_eq rfl).trans hgrants
  case soloWait => exact if_pos ⟨hmode, hseen, hwait, hclash, hidle, hbusy, hdesc⟩
  case idleSolo =>
    show execIdleFallowExpiry s = _
    unfold execIdleFallowExpiry
    rw [if_pos ⟨.inr hmode, htimer, hbusy, hidle, .inl hmode⟩, if_neg (by omega)]
  case idleFull =>
    show execIdleFallowExpiry s = _
    unfold execIdleFallowExpiry
    rw [if_pos ⟨.inl hmode, htimer, hbusy, hidle, .inr hup⟩, if_pos hmode]
  case fallowDone => exact if_pos ⟨htarget, hout⟩
  case wakeDone =>
    show execWakeDiskReadsAdmitted near s = _
    simp only [execWakeDiskReadsAdmitted, htarget]
    rw [if_pos ⟨hmode, hx, hspeed, hloaded⟩]
  case calibrated =>
    refine ⟨_, if_pos hcal, ?_, ?_⟩
    · exact (calBands_keeps.pwr_eq rfl).trans updHeads_pwr
    · exact (calBands_keeps.fs_eq rfl).trans updHeads_fs
  case evacuated => exact if_pos ⟨hmode, hleft, hstuck, hjobs, hbusy⟩
  case partner =>
    refine ⟨fallowStart s, drainStart peers s, ?_, rfl, ?_, rfl⟩
    · exact (if_neg (by rw [hup]; decide)).trans ((if_neg htarget).trans (if_pos ⟨hmode, hbusy⟩))
    · exact (if_neg (by rw [hup]; decide)).trans (if_pos ⟨.inl hmode, hbusy⟩)
  case partnerWakes =>
    obtain ⟨u, hu, -⟩ := pairModeRequestReceived_completes (target := 6) (peers := peers) (s := s)
    refine ⟨wakeRequest false s, u, ?_, rfl, hu, fun hmode hbusy => Host.Outcome.next.inj (hu.symm.trans ?_)⟩
    · exact if_neg (by rw [hup]; decide)
    · exact (if_neg (by rw [hup]; decide)).trans (if_pos ⟨hmode, hbusy⟩)

end Sys2Proof.Machine
end

section
/-! PROOFS. O24: the spindle. -/

set_option Elab.async false

namespace Sys2Proof.Machine

/-! ### The spindle -/

theorem getF_updSpn {f : SpnSt → SpnSt} {g : Fld} {s : State} : getF (updSpn f s) g = getF s g := rfl

theorem isSet_updSpn {f : SpnSt → SpnSt} {g : Fld} {s : State} : isSet (updSpn f s) g = isSet s g := rfl

theorem updSpn_begun {m : Nat} {f : SpnSt → SpnSt} {s : State} : updSpn f (begun m s) = begun m (updSpn f s) := rfl

theorem coastSpindle_begun {m : Nat} {s : State} : coastSpindle (begun m s) = begun m (coastSpindle s) := by
  unfold coastSpindle
  rw [getF_begun]
  split
  · rfl
  · rfl

theorem spnCoast_begun {m : Nat} {s : State} : spnCoast (begun m s) = begun m (spnCoast s) := by
  unfold spnCoast
  rw [coastSpindle_begun, setF_begun, setF_begun, setF_begun, setF_begun, setF_begun, updSpn_begun]

theorem spnStop_begun {m : Nat} {s : State} : spnStop (begun m s) = begun m (spnStop s) := by
  unfold spnStop
  dsimp only
  rw [show spnState (begun m s) = spnState s from getF_begun, setF_begun, updSpn_begun]
  split
  · rw [setF_begun, setF_begun]
  · split
    · rw [setF_begun]
    · rw [spnCoast_begun, setF_begun]

theorem spnStop_begun_parts {m : Nat} {s : State} :
    (spnStop (begun m s)).regs = (spnStop s).regs ∧ (spnStop (begun m s)).mot = (spnStop s).mot := by
  rw [spnStop_begun]
  exact ⟨rfl, rfl⟩

theorem spnCoast_begun_parts {m : Nat} {s : State} :
    (spnCoast (begun m s)).regs = (spnCoast s).regs ∧ (spnCoast (begun m s)).mot = (spnCoast s).mot := by
  rw [spnCoast_begun]
  exact ⟨rfl, rfl⟩

/-- A speed shown is read back, and the rest of the status is left. -/
theorem spnShow_reads {rpm : BitVec 16} {back : Bool} {s : State} (hwf : RegsWf s) :
    getF (spnShow rpm.toNat back s) F.SPN_RPM = rpm.toNat ∧ getF (spnShow rpm.toNat back s) F.SPN_DIR = b2n back ∧
      spnState (spnShow rpm.toNat back s) = spnState s := by
  have hwf1 : RegsWf (setF F.SPN_RPM rpm.toNat s) := regsWf_setF hwf
  refine ⟨?_, ?_, ?_⟩
  · exact (getF_setF_apart hwf1 rfl rfl).trans ((getF_setF_same hwf rfl).trans (Nat.mod_eq_of_lt rpm.isLt))
  · exact (getF_setF_same hwf1 rfl).trans (by cases back <;> rfl)
  · exact (getF_setF_apart hwf1 rfl rfl).trans (getF_setF_apart hwf rfl rfl)

/-- The commands of the spindle with no speed of their own, on the holder of its token. -/
theorem motSpindle_of_owner {m : Nat} {f : MbxCmd → State → State × Option MbxResult} {c : MbxCmd} {s : State}
    (ht : par c 16 16 = 0) (howns : owns s 0 = true) : motSpindle f c (begun m s) = f c (begun m s) := by
  have howns' : owns (begun m s) 0 = true := howns
  unfold motSpindle
  dsimp only
  rw [if_neg (by omega), if_neg (by simp [howns']), if_pos ht]

/-- Settles O24: each row is taken by the spindle's state; a speed shown is read back below the fields set after it. -/
theorem spindleCommandsAndStart : Obligations.SpindleCommandsAndStart := by
  unfold Obligations.SpindleCommandsAndStart
  refine ⟨fun rpm s hstate hfast => ?refused, fun rpm s hwf hstate hlow hhigh hseen => ?braked, fun rpm back s hstate hback => ?measured,
    fun rpm s hstate => ?brakeEnd, fun s hstate => ?aligned, fun rpm s hwf hstate hsrc hrpm => ?handover,
    fun rpm s hwf hstate hnear hdue => ?atSpeed, fun s hlow hhigh howns => ?timeout, fun s hstate htries hstart hok => ?retry,
    fun rpm s hwf howns hstopping hstate hslow hset => ?short, fun s hstate => ?stopped, fun rpm s hslow hstopping hon => ?unload,
    fun x s hon hcool => ?cool, fun x s hon hhot => ?hot, fun m s hrun hsel ht howns hdesc hset hheld hstart hstate => ?start,
    fun m s hu hrun hsel ht howns hheads => ?stop, fun m s hu hrun hsel ht howns => ?coast, fun p s hgo => ?coastBus⟩
  case refused =>
    show execSpindleMeasureDone rpm true s = _
    unfold execSpindleMeasureDone
    have hmoves : decide (rpm.toNat < 30) = false := decide_eq_false (by omega)
    rw [if_neg (not_not_intro hstate)]
    dsimp only
    rw [if_pos ⟨rfl, hfast⟩, hmoves, Bool.and_false]
    rfl
  case braked =>
    have hmoves : (!encThere s && decide (rpm.toNat < 30)) = false := by
      rcases hseen with henc | hfast
      · rw [henc]
        rfl
      · rw [decide_eq_false (by omega), Bool.and_false]
    have hwf1 : RegsWf (spnShow rpm.toNat true s) := spnShow_keeps.regsWf hwf
    obtain ⟨hrpm, hdir, -⟩ := spnShow_reads (rpm := rpm) (back := true) hwf
    refine ⟨setF F.SPN_STATE 2 (spnShow rpm.toNat true s), ?_, getF_setF_same hwf1 rfl, (getF_setF_apart hwf1 rfl rfl).trans hrpm,
      (getF_setF_apart hwf1 rfl rfl).trans hdir⟩
    show execSpindleMeasureDone rpm true s = _
    unfold execSpindleMeasureDone
    rw [if_neg (not_not_intro hstate)]
    dsimp only
    rw [hmoves, if_neg (by omega), if_pos ⟨rfl, hlow, rfl⟩]
    rfl
  case measured =>
    show execSpindleMeasureDone rpm back s = _
    unfold execSpindleMeasureDone
    rw [if_neg (not_not_intro hstate)]
    dsimp only
    by_cases hstill : encThere s = false ∧ rpm.toNat < 30
    · obtain ⟨henc, hslow⟩ := hstill
      have hat : encThere s = false ∧ rpm.toNat < 30 := ⟨henc, hslow⟩
      rw [if_neg (by omega), if_neg (by simp [henc, hslow]), if_pos hat, henc, decide_eq_true hslow]
      simp only [Bool.not_false, Bool.and_true, Bool.not_true, Bool.and_false, if_true]
    · have hforward : back = false := hback.resolve_right hstill
      have hmoves : (!encThere s && decide (rpm.toNat < 30)) = false := by simpa using hstill
      rw [hmoves, hforward, if_neg (by simp), if_neg (by simp), if_neg hstill]
      rfl
  case brakeEnd => exact if_neg (not_not_intro hstate)
  case aligned => exact if_neg (not_not_intro hstate)
  case handover =>
    have hwf1 : RegsWf (spnShow rpm.toNat false s) := spnShow_keeps.regsWf hwf
    obtain ⟨hshown, -, hkept⟩ := spnShow_reads (rpm := rpm) (back := false) hwf
    exact ⟨_, if_pos ⟨hstate, hsrc, hrpm⟩, getF_setF_same hwf1 rfl, (getF_setF_apart hwf1 rfl rfl).trans hshown,
      (getF_setF_apart hwf1 rfl rfl).trans (hkept.trans hstate), rfl⟩
  case atSpeed =>
    have hbare : (decide (hasSet s = false ∧ spnState s = 0 ∧ isSet s F.SPN_AT_SPEED = false) && motOn s) = false := by simp [hstate]
    have hwf1 : RegsWf (spnShow rpm.toNat false { s with bring := { s.bring with atSpeed := true } }) := spnShow_keeps.regsWf hwf
    have hwf2 : RegsWf (setF F.SPN_STATE 5 (spnShow rpm.toNat false { s with bring := { s.bring with atSpeed := true } })) := regsWf_setF hwf1
    obtain ⟨hshown, -, -⟩ := spnShow_reads (rpm := rpm) (back := false) (s := { s with bring := { s.bring with atSpeed := true } }) hwf
    refine ⟨updSpn (fun x => { x with starts := 0, tries := 0 }) (setF F.SPN_AT_SPEED 1 (setF F.SPN_STATE 5
        (spnShow rpm.toNat false { s with bring := { s.bring with atSpeed := true } }))), ?_, ?_,
      getF_updSpn.trans ((getF_setF_apart hwf2 rfl rfl).trans ((getF_setF_apart hwf1 rfl rfl).trans hshown)), rfl, rfl, rfl⟩
    · show execSpindleAtSpeed rpm s = _
      unfold execSpindleAtSpeed
      dsimp only
      rw [hbare, if_pos ⟨.inl hstate, hnear⟩, hdue]
      rfl
    · exact isSet_updSpn.trans (isSet_setF_one hwf2 rfl Nat.one_pos)
  case timeout => exact if_pos ⟨hlow, hhigh, howns⟩
  case retry => exact if_pos ⟨hstate, htries, hstart, hok⟩
  case short =>
    have hwf1 : RegsWf (spnShow rpm.toNat false s) := spnShow_keeps.regsWf hwf
    have hwf2 : RegsWf (setF F.SPN_STATE 6 (spnShow rpm.toNat false s)) := regsWf_setF hwf1
    obtain ⟨hshown, -, -⟩ := spnShow_reads (rpm := rpm) (back := false) hwf
    refine ⟨updSpn (fun x => { x with shorted := true }) (setF F.SPN_AT_SPEED 0 (setF F.SPN_STATE 6 (spnShow rpm.toNat false s))), ?_, rfl,
      getF_updSpn.trans ((getF_setF_apart hwf2 rfl rfl).trans (getF_setF_same hwf1 rfl)), ?_,
      getF_updSpn.trans ((getF_setF_apart hwf2 rfl rfl).trans ((getF_setF_apart hwf1 rfl rfl).trans hshown))⟩
    · show execShortBrakeEntry rpm s = _
      simp [execShortBrakeEntry, howns, hstopping, hstate, hslow, hset]
    · have hoff : getF (setF F.SPN_AT_SPEED 0 (setF F.SPN_STATE 6 (spnShow rpm.toNat false s))) F.SPN_AT_SPEED = 0 := getF_setF_same hwf2 rfl
      exact decide_eq_false (by rw [getF_updSpn, hoff]; decide)
  case stopped => exact if_pos hstate.symm
  case unload => exact if_pos ⟨hslow, hstopping, hon⟩
  case cool =>
    refine ⟨{ s with mot := { s.mot with limitPm := 1000, folded := false } }, ?_, rfl, rfl, rfl⟩
    show execBridgeThermalFoldback x s = _
    unfold execBridgeThermalFoldback
    rw [if_neg (by simp [hon]), if_neg (by omega), if_pos hcool]
  case hot =>
    refine ⟨_, (if_neg (by simp [hon])).trans (if_pos hhot), ?_⟩
    have hmot := ite_same (p := s.mot.folded = true) (g := State.mot) (x := { s.mot with
      limitPm := (clampI 500 1000 (1000 - 5 * (x - 1100))).toNat, folded := true })
      (a := { s with mot := { s.mot with limitPm := (clampI 500 1000 (1000 - 5 * (x - 1100))).toNat, folded := true } })
      (b := raise 8 0x0132 1 0xFFFF 0 { s with mot := { s.mot with limitPm := (clampI 500 1000 (1000 - 5 * (x - 1100))).toNat, folded := true } })
      rfl ((raise_mild_keeps (by decide)).mot_eq rfl)
    exact ⟨congrArg MotSt.limitPm hmot, congrArg MotSt.folded hmot⟩
  case start =>
    have hdesc' : (begun m.val s).desc.isNone = false := Option.isNone_eq_false_iff.mpr hdesc
    have hset' : hasSet (begun m.val s) = true := hset
    have hheld' : heldSafe (begun m.val s) 2 = false := hheld
    have hstart' : (begun m.val s).pwr.startPermitted = true := hstart
    have hstate' : spnState (begun m.val s) = 0 := hstate
    refine congrArg Host.Outcome.next (mbxRow_of_wait hrun hsel ((motSpindle_of_owner ht howns).trans ?_))
    rw [if_neg (by rw [hdesc']; decide), if_neg (by rw [hset']; decide), if_neg (by rw [hheld']; decide), if_neg (by rw [hstart']; decide), if_neg (by omega),
      if_neg (by omega)]
  case stop =>
    have hheads' : headsOnDisk (begun m.val s) = false := hheads
    refine ⟨_, congrArg Host.Outcome.next (mbxRow_of_answer (r := resStatus 0) (t := spnFinish 0 (spnStop (begun m.val s))) hrun hsel
      ((motSpindle_of_owner ht howns).trans (if_neg (by simp [hheads'])))),
      mbxAnswered_mbxEnds (spnFinish_keeps.units (spnStop_keeps.units (begun_units hu))), ?_, ?_⟩
    · exact (spnFinish_keeps.regs_eq rfl).trans spnStop_begun_parts.1
    · exact (spnFinish_keeps.mot_eq rfl).trans spnStop_begun_parts.2
  case coast =>
    refine ⟨_, congrArg Host.Outcome.next (mbxRow_of_answer (r := resStatus 0) (t := spnFinish 0 (spnCoast (begun m.val s))) hrun hsel
      ((motSpindle_of_owner ht howns).trans rfl)),
      mbxAnswered_mbxEnds (spnFinish_keeps.units (spnCoast_keeps.units (begun_units hu))), ?_, ?_⟩
    · exact (spnFinish_keeps.regs_eq rfl).trans spnCoast_begun_parts.1
    · exact (spnFinish_keeps.mot_eq rfl).trans spnCoast_begun_parts.2
  case coastBus => exact congrArg Host.Outcome.next (busAct_acc_of_writeGoes hgo)

end Sys2Proof.Machine
end
